-- ==== Sys2Proof/Word.lean ====
section
/-! DEFINITION. The words and bytes of the VF6400's interfaces, and the shape in which the model holds sparse data. -/

namespace Sys2Proof

/-- A byte of a frame, a descriptor or a transfer. -/
abbrev Byte := BitVec 8

/-- A register word: 32 bits (R7). -/
abbrev Word := BitVec 32

/-- Sparse data by number: (key, value) pairs, keys strictly rising, no value equal to the one its key has by default. -/
abbrev SMap (α : Type) := List (Nat × α)

end Sys2Proof
end

