-- ==== Sys2Proof/Syntax.lean ====
section
/-! DEFINITION. The commands of the VF6400 model: one constructor per row of the table of operations and events, with the
operands that the outside supplies. A command stands for one indivisible step: an access of the setup port, an answer or an
event at a pin, or a step of the block's own engines that the outside orders in time (log entry 1). -/

namespace Sys2Proof

/-- Who makes an access: the master number of the setup port (0 to 255), or 256 for the Nyelle core's own path (R364, R447),
and whether it has management privilege (R60). -/
structure Who where
  master : Nat
  priv : Bool
  deriving DecidableEq, Repr

/-- A setup-port access (R60): its master, the window (`sel` is `SP_SEL`: true for the doorbell window), the byte offset in
the window and the size in bytes. -/
structure Access where
  who : Who
  sel : Bool
  off : Nat
  size : Nat
  deriving DecidableEq, Repr

/-- What the reader does with a read response (R9): takes it, fails it, or has not yet taken it. With `spoilt` it takes it, and the memory of
statistics it was read from finds the word uncorrectable (R426). -/
inductive Taken where
  | accepted | failed | held | spoilt
  deriving DecidableEq, Repr

/-- Where the start of a received frame stands (R325, R326): the PCS lane of its start delimiter, and the offset of the stamped byte in its
word. -/
structure RxPlace where
  lane : Fin 32
  byte : Fin 128
  deriving DecidableEq, Repr

/-- What the transmit side finds at a frame's start: whether a word of the frame in staging is uncorrectable (R426), and the offset of the
stamped byte in its word (R325). -/
structure TxPlace where
  unc : Bool
  byte : Fin 128
  deriving DecidableEq, Repr

/-- What the flash of the surroundings holds at a start of the Nyelle core, as far as the boot ROM and the firmware read it then (R388 to
R393): the store directory and its copy, the umber and the ochre firmware bank, and the sectors of the configuration and the log ring. -/
structure Boot where
  dir : List Byte := []
  copy : List Byte := []
  umber : List Byte := []
  ochre : List Byte := []
  cfg : List (List Byte) := []
  log : List (List Byte) := []
  deriving DecidableEq, Repr

/-- What the flash answers to a store transfer (R386): the bytes it reads (read back after a program or an erase), the last
status byte, and whether its status bit 0 stayed set beyond the limit. -/
structure StoreAnswer where
  data : List Byte
  status : Byte
  timeout : Bool
  deriving DecidableEq, Repr

/-- Which access of the Nyelle SRAMs met an ECC error (R365): a fetch or a load of the core, or a read of a management DMA
channel. -/
inductive EccAccess where
  | fetch | load
  | dma (ch : Fin 8)
  deriving DecidableEq, Repr

/-- A receive lane word (R66) with what the PCS and FEC find with it: corrected symbols attributed to its lane, codewords of its
channel corrected and uncorrectable (R79), and the high symbol-error condition (R78). -/
structure RxWord where
  word : BitVec 256
  symErr : Nat
  corr : Nat
  unc : Nat
  hiSer : Bool
  deriving DecidableEq, Repr

/-- A beat from the surroundings (R51): its header's `VALID`, `LAST`, `VC`, `TAG`, `RESP` and `CR`, and its data granules. -/
structure Beat where
  valid : Bool
  last : Bool
  vc : BitVec 2
  tag : BitVec 12
  resp : BitVec 2
  cr : BitVec 4
  data : List (BitVec 8)
  deriving DecidableEq, Repr

/-- One constructor per row of the table of operations and events, those with operands first: a compiled Lean program can carry
operands only in the first 244 constructors of a type. -/
inductive Instr where
  /-- `REGISTER_WRITE` (R8). -/
  | registerWrite (w : Who) (db : Bool) (off : BitVec 24) (wide : Bool) (v : BitVec 64)
  /-- `RC_READ` (R9). -/
  | rcRead (w : Who) (db : Bool) (off : BitVec 24) (wide : Bool) (k : Taken)
  /-- `LOW_WORD_READ` (R10). -/
  | lowWordRead (w : Who) (off : BitVec 24)
  /-- `RESET_RELEASE` (R47). -/
  | resetRelease (b : Boot)
  /-- `SD_RELOAD` (R47). -/
  | sdReload (w : Who)
  /-- `BRINGUP_SLICE_TIMEOUT` (R47). -/
  | bringupSliceTimeout (i : Fin 4)
  /-- `ISLAND_CLOCK_STOP` (R20). -/
  | islandClockStop (i : Fin 9)
  /-- `FABRIC_BEAT_RECEIVED` (R54). -/
  | fabricBeatReceived (x : Fin 16) (b : Beat)
  /-- `FABRIC_REQUEST_TIMEOUT` (R57). -/
  | fabricRequestTimeout (f : Fin 9) (t : BitVec 12)
  /-- `TABLE_READ_TIMEOUT` (R59). -/
  | tableReadTimeout (c : Fin 7) (t : BitVec 12)
  /-- `RX_LANE_WORD` (R66). -/
  | rxLaneWord (i : Fin 36) (x : RxWord)
  /-- `TX_LANE_WORD` (R66). -/
  | txLaneWord (i : Fin 36) (x : Option (BitVec 256))
  /-- `LANE_UP` (R68). -/
  | laneUp (i : Fin 36)
  /-- `LANE_DOWN` (R68). -/
  | laneDown (i : Fin 36) (sd : Bool) (lock : Bool) (rxClk : Bool) (txClk : Bool)
  /-- `PORT_CFG_WRITE` (R70). -/
  | portCfgWrite (w : Who) (p : Fin 4) (v : BitVec 32)
  /-- `CHAN_CFG_WRITE` (R74). -/
  | chanCfgWrite (w : Who) (c : Fin 32) (v : BitVec 32)
  /-- `ALIGNMENT_LOCK` (R76). -/
  | alignmentLock (c : Fin 32) (arrivals : List (BitVec 32))
  /-- `ALIGNMENT_LOST` (R76). -/
  | alignmentLost (c : Fin 32)
  /-- `RX_FAULT_SEQUENCE` (R77). -/
  | rxFaultSequence (c : Fin 32) (lf : Bool) (rf : Bool)
  /-- `LINK_UP` (R78). -/
  | linkUp (c : Fin 32)
  /-- `SUBSTITUTE` (R81). -/
  | lnSubstitute (w : Who) (p : Fin 4) (v : BitVec 32)
  /-- `TX_RELEASE` (R81). -/
  | txRelease (w : Who) (p : Fin 4) (v : BitVec 32)
  /-- `RESTORE` (R81). -/
  | lnRestore (w : Who) (p : Fin 4) (v : BitVec 32)
  /-- `SPARE_ABORT` (R81). -/
  | spareAbort (w : Who) (p : Fin 4) (v : BitVec 32)
  /-- `SPARE_MATCH` (R81). -/
  | spareMatch (p : Fin 4) (d : BitVec 13)
  /-- `SPARE_CONFIRM_DONE` (R81). -/
  | spareConfirmDone (p : Fin 4)
  /-- `SPARE_MATCH_TIMEOUT` (R81). -/
  | spareMatchTimeout (p : Fin 4)
  /-- `SPARE_SWITCH` (R81). -/
  | spareSwitch (p : Fin 4)
  /-- `RILTOR_HEADER_CHECK` (R98). -/
  | riltorHeaderCheck (p : Fin 4) (l : Fin 8) (n : Nat) (b : Fin 256)
  /-- `REHUNT` (R98). -/
  | rehunt (w : Who) (j : Fin 32)
  /-- `TX_RILTOR_FRAME` (R90). -/
  | txRiltorFrame (j : Fin 32)
  /-- `GFP_CORE_HEADER` (R105). -/
  | gfpCoreHeader (c : Fin 32)
  /-- `GFP_FRAME_RECEIVED` (R106). -/
  | gfpFrameReceived (c : Fin 32)
  /-- `GFP_LINK_UP` (R109). -/
  | gfpLinkUp (c : Fin 32)
  /-- `GROUP_ENABLE` (R112). -/
  | groupEnable (w : Who) (g : Fin 16) (n : BitVec 6) (id : BitVec 8) (c : Fin 32)
  /-- `GROUP_DISABLE` (R117). -/
  | groupDisable (w : Who) (g : Fin 16)
  /-- `GROUP_SEGMENT` (R117). -/
  | groupSegment (g : Fin 16)
  /-- `PAIR_ENABLE` (R121). -/
  | pairEnable (w : Who) (k : Fin 8) (v : BitVec 32)
  /-- `HINGE_COPY_ARRIVAL` (R124). -/
  | hingeCopyArrival (c : Fin 32)
  /-- `HINGE_WAIT_EXPIRY` (R124). -/
  | hingeWaitExpiry (k : Fin 8)
  /-- `PAIR_CMD_NONE` (R128). -/
  | pairCmdNone (w : Who) (k : Fin 8)
  /-- `PAIR_CMD_LO` (R128). -/
  | pairCmdLo (w : Who) (k : Fin 8)
  /-- `PAIR_CMD_FS` (R128). -/
  | pairCmdFs (w : Who) (k : Fin 8)
  /-- `PAIR_CMD_MS_PROTECT` (R128). -/
  | pairCmdMsProtect (w : Who) (k : Fin 8)
  /-- `PAIR_CMD_MS_WORKING` (R128). -/
  | pairCmdMsWorking (w : Who) (k : Fin 8)
  /-- `PAIR_CMD_EXER` (R128). -/
  | pairCmdExer (w : Who) (k : Fin 8)
  /-- `HOLDOFF_EXPIRY` (R128). -/
  | holdoffExpiry (k : Fin 8) (cond : Fin 4)
  /-- `WTR_EXPIRY` (R128). -/
  | wtrExpiry (k : Fin 8)
  /-- `OH_TX_WORD` (R131). -/
  | ohTxWord (k : Fin 8)
  /-- `OH_RX_WORD` (R132). -/
  | ohRxWord (k : Fin 8) (whole : Bool) (v : Word)
  /-- `MC_COMMIT` (R133). -/
  | mcCommit (w : Who) (c : Fin 32) (rxBusy : Bool)
  /-- `RX_FRAME` (R135). -/
  | rxFrame (c : Fin 32) (f : List (BitVec 8)) (code : Bool) (slot : Bool) (x : RxPlace)
  /-- `LOOKUP_REQUEST` (R173). -/
  | lookupRequest (c : Fin 32)
  /-- `LOOKUP_DEADLINE` (R177). -/
  | lookupDeadline (c : Fin 32)
  /-- `VERDICT_RETURN` (R176). -/
  | verdictReturn (c : Fin 32)
  /-- `RX_FRAME_RELEASE` (R163). -/
  | rxFrameRelease (c : Fin 32) (unc : Bool)
  /-- `RX_FRAME_ENTRY` (R32). -/
  | rxFrameEntry (c : Fin 32)
  /-- `RX_DESCRIPTOR_TAKE` (R239). -/
  | rxDescriptorTake (unc : Option (Fin 3072))
  /-- `RX_COMPLETION_WRITE` (R241). -/
  | rxCompletionWrite (n : Fin 32768)
  /-- `DOORBELL_WRITE` (R228). -/
  | doorbellWrite (w : Who) (x : Fin 4096) (wide : Bool) (v : BitVec 64)
  /-- `EVENT_CONSUMER_WRITE` (R228). -/
  | eventConsumerWrite (w : Who) (x : Fin 4096) (wide : Bool) (v : BitVec 64)
  /-- `DISPATCH` (R211). -/
  | dispatch (c : Fin 32) (k : Fin 8) (unc : Option (Fin 3072))
  /-- `TX_FRAME_IN_STAGING` (R35). -/
  | txFrameInStaging (c : Fin 32)
  /-- `TX_FRAME_START` (R215). -/
  | txFrameStart (c : Fin 32) (x : TxPlace)
  /-- `TX_FRAME_END` (R35). -/
  | txFrameEnd (c : Fin 32)
  /-- `TX_COMPLETION_WRITE` (R237). -/
  | txCompletionWrite (n : Fin 32768)
  /-- `PAUSE_TIMER_EXPIRY` (R153). -/
  | pauseTimerExpiry (c : Fin 32) (k : Fin 8)
  /-- `PAUSE_REFRESH_TIMER` (R154). -/
  | pauseRefreshTimer (c : Fin 32)
  /-- `FC_MODE_WRITE` (R154). -/
  | fcModeWrite (w : Who) (c : Fin 32) (v : Word)
  /-- `PAUSE_WATCHDOG` (R155). -/
  | pauseWatchdog (c : Fin 32) (k : Fin 8)
  /-- `WATCHDOG_HOLDOFF_END` (R156). -/
  | watchdogHoldoffEnd (c : Fin 32) (k : Fin 8)
  /-- `CL_ENABLE` (R170). -/
  | clEnable (w : Who) (v : Word)
  /-- `CLEAR` (R188). -/
  | clClear (w : Who) (v : Word)
  /-- `INSERT` (R183). -/
  | clInsert (w : Who)
  /-- `DELETE` (R182). -/
  | clDelete (w : Who)
  /-- `MODIFY` (R182). -/
  | clModify (w : Who)
  /-- `QUERY` (R182). -/
  | clQuery (w : Who)
  /-- `MT_WRITE` (R194). -/
  | mtWrite (w : Who) (read : Bool)
  /-- `MT_READ` (R194). -/
  | mtRead (w : Who)
  /-- `SC_COMMIT` (R218). -/
  | scCommit (w : Who)
  /-- `SC_READ` (R218). -/
  | scRead (w : Who)
  /-- `STARVE_TIMER` (R216). -/
  | starveTimer (c : Fin 32) (k : Fin 8)
  /-- `GUARD_WINDOW_END` (R216). -/
  | guardWindowEnd (c : Fin 32)
  /-- `TG_COMMIT` (R220). -/
  | tgCommit (w : Who) (c : Fin 32)
  /-- `TG_TAKEOVER` (R220). -/
  | tgTakeover (c : Fin 32)
  /-- `GATE_ENTRY_CHANGE` (R219). -/
  | gateEntryChange (c : Fin 32) (unc : Bool)
  /-- `QUEUE_STOPPED` (R244). -/
  | queueStopped (n : Fin 32768) (rx : Bool)
  /-- `NOTIFY_MOD_TIMER` (R248). -/
  | notifyModTimer (x : Fin 4096) (v : Fin 64)
  /-- `CMD_ENABLE_WRITE` (R249). -/
  | cmdEnableWrite (w : Who) (v : Word)
  /-- `CMD_PI_WRITE` (R249). -/
  | cmdPiWrite (w : Who) (v : Word)
  /-- `RESET_END` (R269). -/
  | resetEnd (x : Fin 4096)
  /-- `DRAIN_TIMEOUT` (R268). -/
  | drainTimeout (x : Fin 4096)
  /-- `FREEZE_END` (R271). -/
  | freezeEnd (x : Fin 4096)
  /-- `FREEZE_TIMEOUT` (R257). -/
  | freezeTimeout (x : Fin 4096)
  /-- `CX_COMMIT` (R262). -/
  | cxCommit (w : Who)
  /-- `CC_CLAIM` (R283). -/
  | ccClaim (w : Who) (n : Fin 256)
  /-- `CC_WORD_WRITE` (R285). -/
  | ccWordWrite (w : Who) (n : Fin 256) (i : Fin 16) (v : BitVec 32)
  /-- `CC_COMMIT` (R286). -/
  | ccCommit (w : Who) (n : Fin 256) (v : BitVec 32)
  /-- `CC_DONE` (R287). -/
  | ccDone (w : Who) (n : Fin 256) (v : BitVec 32)
  /-- `CC_RELEASE` (R288). -/
  | ccRelease (w : Who) (n : Fin 256) (v : BitVec 32)
  /-- `LEASE_EXPIRY` (R289). -/
  | leaseExpiry (n : Fin 256)
  /-- `CC_BREAK` (R290). -/
  | ccBreak (w : Who) (n : Fin 256)
  /-- `HALT_INPUT_CHANGE` (R281). -/
  | haltInputChange (i : Fin 64) (high : Bool)
  /-- `TB_ACQ` (R292). -/
  | tbAcq (w : Who) (l : Fin 1024)
  /-- `TB_REL` (R293). -/
  | tbRel (w : Who) (l : Fin 1024) (v : BitVec 32)
  /-- `TB_FORCE` (R293). -/
  | tbForce (w : Who) (l : Fin 1024)
  /-- `TB_UNWANT` (R294). -/
  | tbUnwant (w : Who) (l : Fin 1024)
  /-- `WANT_EXPIRY` (R294). -/
  | wantExpiry (m : Fin 257)
  /-- `CUT_MARKER` (R302). -/
  | cutMarker (m : Fin 6)
  /-- `LG_CI_WRITE` (R308). -/
  | lgCiWrite (w : Who) (v : Word)
  /-- `LG_RING_ENABLE` (R309). -/
  | lgRingEnable (w : Who) (v : Word)
  /-- `CONTEXT_CLOSE` (R310). -/
  | contextClose (x : Fin 4096)
  /-- `SET` (R318). -/
  | tmSet (w : Who)
  /-- `OFFSET` (R318). -/
  | tmOffset (w : Who)
  /-- `RELOCK` (R323). -/
  | tmRelock (w : Who)
  /-- `TM_INCR_WRITE` (R316). -/
  | tmIncrWrite (w : Who) (v : BitVec 32)
  /-- `TIME_CAPTURE_READ` (R319). -/
  | timeCaptureRead (w : Who)
  /-- `TOD_MESSAGE` (R322). The 11 bytes of a message whose last byte ends now. -/
  | todMessage (m : List Byte)
  /-- `AON_PERIOD_MEASURED` (R330). -/
  | aonPeriodMeasured (period : BitVec 32)
  /-- `SOURCE_LEVEL_CHANGE` (R333). -/
  | sourceLevelChange (n : Fin 2560)
  /-- `HB_SW_SET` (R333). -/
  | hbSwSet (w : Who) (v : BitVec 32)
  /-- `HB_CLAIM` (R337). -/
  | hbClaim (w : Who) (t : Fin 65) (k : Taken)
  /-- `HB_COMPLETE` (R339). -/
  | hbComplete (w : Who) (t : Fin 65) (v : BitVec 32)
  /-- `HB_SRC_CFG_WRITE` (R342). -/
  | hbSrcCfgWrite (w : Who) (n : Fin 2560) (v : BitVec 32)
  /-- `HB_DISABLE_WRITE` (R345). -/
  | hbDisableWrite (w : Who) (v : BitVec 32)
  /-- `HOLDOFF_GROUP_EXPIRY` (R344). -/
  | holdoffGroupExpiry (g : Fin 160)
  /-- `TARGET_AWAKE_CHANGE` (R346). -/
  | targetAwakeChange (t : Fin 64) (high : Bool)
  /-- `REDIRECT_TIMEOUT` (R347). -/
  | redirectTimeout (n : Fin 2560)
  /-- `WATCH_WAKE` (R348). -/
  | watchWake (e : Fin 32)
  /-- `MD_START` (R357). -/
  | mdStart (w : Who) (ch : Fin 8)
  /-- `MD_ABORT` (R357). -/
  | mdAbort (w : Who) (ch : Fin 8)
  /-- `MD_DESCRIPTOR_READ` (R355). -/
  | mdDescriptorRead (ch : Fin 8)
  /-- `MD_DATA_RESPONSE` (R356). -/
  | mdDataResponse (ch : Fin 8)
  /-- `MD_WRITEBACK_RESPONSE` (R356). -/
  | mdWritebackResponse (ch : Fin 8)
  /-- `MD_STOPPING_DONE` (R357). -/
  | mdStoppingDone (ch : Fin 8)
  /-- `CU_ARM` (R361). -/
  | cuArm (w : Who) (u : Fin 16) (keep : Bool)
  /-- `CU_DISARM` (R361). -/
  | cuDisarm (w : Who) (u : Fin 16)
  /-- `CORE_RST` (R366). -/
  | coreRst (w : Who) (v : BitVec 32) (pc : BitVec 32) (b : Boot)
  /-- `WATCHDOG_EXPIRY` (R367). -/
  | watchdogExpiry (pc : BitVec 32) (b : Boot)
  /-- `WDT_KICK` (R367). -/
  | wdtKick (w : Who)
  /-- `SRAM_ECC_ERROR` (R365). -/
  | sramEccError (unc : Bool) (which : Fin 3) (addr : BitVec 32) (acc : EccAccess) (pc : BitVec 32) (b : Boot)
  /-- `THERMAL_UPDATE` (R369). -/
  | thermalUpdate (r : List (BitVec 12))
  /-- `DROOP_EPISODE` (R370). -/
  | droopEpisode (i : Fin 12) (mv : BitVec 12)
  /-- `CLOCK_MONITOR_WINDOW` (R371). -/
  | clockMonitorWindow (k : Fin 9) (f : Word) (edges : Bool)
  /-- `LOG_POST_FW` (R373). -/
  | logPostFw (w : Who) (code : BitVec 16) (sev : BitVec 2)
  /-- `LOG_POST_HOST` (R373). -/
  | logPostHost (w : Who) (code : BitVec 16) (sev : BitVec 2)
  /-- `LOG_PERSIST_WRITE` (R375). -/
  | logPersistWrite (w : Who) (v : BitVec 32)
  /-- `LOG_SEQ_WRITE` (R376). -/
  | logSeqWrite (w : Who) (v : BitVec 32)
  /-- `FREEZE` (R380). -/
  | pcFreeze (w : Who) (on : Bool)
  /-- `SNAP` (R380). -/
  | pcSnap (w : Who) (frz : Bool)
  /-- `PC_CLEAR` (R377). -/
  | pcClear (w : Who) (frz : Bool)
  /-- `EXPORT` (R380). -/
  | pcExport (w : Who) (frz : Bool)
  /-- `BG_DEADLINE_MISS` (R383). -/
  | bgDeadlineMiss (a : Fin 8) (u : Nat)
  /-- `SCRUB_SWEEP_END` (R426). -/
  | scrubSweepEnd (a : Fin 3) (rows : List (Fin 3072 × BitVec 16))
  /-- `STORE_READ` (R387). -/
  | storeRead (w : Who) (len : BitVec 13)
  /-- `STORE_PROGRAM` (R386). -/
  | storeProgram (w : Who) (len : BitVec 13)
  /-- `STORE_ERASE` (R386). -/
  | storeErase (w : Who)
  /-- `STORE_READ_STATUS` (R387). -/
  | storeReadStatus (w : Who)
  /-- `STORE_XFER_DONE` (R386). -/
  | storeXferDone (a : StoreAnswer)
  /-- `UPDATE_GO` (R396). -/
  | updateGo (w : Who) (kind : BitVec 2)
  /-- `UPDATE_RESULT` (R397). -/
  | updateResult (w : Who) (v : BitVec 32) (seq : BitVec 32)
  /-- `KW_START` (R399). -/
  | kwStart (w : Who)
  /-- `KW_ABORT` (R399). -/
  | kwAbort (w : Who)
  /-- `KW_DIN_WRITE` (R399). -/
  | kwDinWrite (w : Who) (v : BitVec 32)
  /-- `KW_DOUT_READ` (R399). -/
  | kwDoutRead (w : Who)
  /-- `KEY_WRITE` (R403). -/
  | keyWrite (w : Who) (n : Fin 8) (wide : Bool)
  /-- `KEY_ZERO` (R403). -/
  | keyZero (w : Who) (n : Fin 8)
  /-- `KEY_LOCK` (R403). -/
  | keyLock (w : Who) (n : Fin 8)
  /-- `FUSE_PROG` (R404). -/
  | fuseProg (w : Who)
  /-- `REQUEST_A0` (R420). -/
  | requestA0 (w : Who) (v : Word)
  /-- `REQUEST_P1` (R419). -/
  | requestP1 (w : Who) (v : Word)
  /-- `REQUEST_W` (R414). -/
  | requestW (w : Who) (v : Word)
  /-- `REQUEST_S` (R414). -/
  | requestS (w : Who) (v : Word)
  /-- `REQUEST_D` (R414). -/
  | requestD (w : Who) (v : Word)
  /-- `WAKE_SOURCE` (R417). -/
  | wakeSource (b : Fin 5)
  /-- `EXIT_POWER_RESTORED` (R416). -/
  | exitPowerRestored (b : Boot)
  /-- `EVACUATE` (R431). -/
  | svEvacuate (w : Who) (v : Word) (mid : Option (Fin 32))
  /-- `RETURN` (R437). -/
  | svReturn (w : Who) (v : Word)
  /-- `FAB_SPARE` (R438). -/
  | fabSpare (w : Who) (v : Word)
  /-- `FAB_RESTORE` (R438). -/
  | fabRestore (w : Who) (v : Word)
  /-- `TBL_SPARE` (R439). -/
  | tblSpare (w : Who) (v : Word)
  /-- `TBL_RESTORE` (R439). -/
  | tblRestore (w : Who) (v : Word)
  /-- `ROW_REPAIR` (R441). -/
  | rowRepair (w : Who) (v : Word)
  /-- `SLICE_TEST` (R437). -/
  | sliceTest (w : Who) (v : Word)
  /-- `SV_ABORT` (R428). -/
  | svAbort (w : Who) (v : Word)
  /-- `CHECKPOINT` (R430). -/
  | svCheckpoint (i : Fin 4) (unc : Bool)
  /-- `EVAC_LOCKSTEP_COMPARE` (R433). -/
  | evacLockstepCompare (equal : Bool)
  /-- `SLICE_TEST_DONE` (R437). -/
  | sliceTestDone (ok : Bool)
  /-- `CORE_DEBUG_HALT` (R281). -/
  | coreDebugHalt (stopped : Bool)
  /-- `SCRUB_UNCORRECTABLE_WORD` (R426). -/
  | scrubUncorrectableWord (row : Option (Fin 3072))
  /-- `AON_RST_N_FALL` (R47). -/
  | aonRstNFall
  /-- `BLK_RST_N_FALL` (R47). -/
  | blkRstNFall
  /-- `PW_GOOD_FALL` (R47). -/
  | pwGoodFall
  /-- `FIRMWARE_RUNNING` (R47). -/
  | firmwareRunning
  /-- `SD_FETCH_RESPONSE` (R43). -/
  | sdFetchResponse
  /-- `BRINGUP_COMPLETE` (R47). -/
  | bringupComplete
  /-- `BRINGUP_TIMEOUT` (R47). -/
  | bringupTimeout
  /-- `HEARTBEAT_MARK` (R62). -/
  | heartbeatMark
  /-- `HEARTBEAT_DEFERRED_WRITE` (R62). -/
  | heartbeatDeferredWrite
  /-- `HEARTBEAT_WRITE_RESPONSE` (R62). -/
  | heartbeatWriteResponse
  /-- `SECOND_BOUNDARY` (R129). -/
  | secondBoundary
  /-- `TABLE_READ_RESPONSE` (R186). -/
  | tableReadResponse
  /-- `RX_DATA_WRITE_RESPONSE` (R34). -/
  | rxDataWriteResponse
  /-- `COMPLETION_WRITE_RESPONSE` (R242). -/
  | completionWriteResponse
  /-- `DESCRIPTOR_READ_ISSUE` (R231). -/
  | descriptorReadIssue
  /-- `DESCRIPTOR_READ_RESPONSE` (R235). -/
  | descriptorReadResponse
  /-- `DATA_FETCH_ISSUE` (R205). -/
  | dataFetchIssue
  /-- `DATA_FETCH_RESPONSE` (R36). -/
  | dataFetchResponse
  /-- `CLEAR_DONE` (R188). -/
  | clClearDone
  /-- `UPDATE_WRITE_RESPONSE` (R184). -/
  | updateWriteResponse
  /-- `STASH_MIGRATE` (R171). -/
  | stashMigrate
  /-- `REFILL_INSTANT` (R209). -/
  | refillInstant
  /-- `NOTIFY_MESSAGE_RESPONSE` (R248). -/
  | notifyMessageResponse
  /-- `COMMAND_READ_RESPONSE` (R256). -/
  | commandReadResponse
  /-- `COMMAND_COMPLETION_RESPONSE` (R256). -/
  | commandCompletionResponse
  /-- `NOP` (R253). -/
  | cmdNop
  /-- `CTX_CREATE` (R258). -/
  | ctxCreate
  /-- `CTX_DESTROY` (R259). -/
  | ctxDestroy
  /-- `CTX_RESET` (R266). -/
  | ctxReset
  /-- `CTX_FREEZE` (R270). -/
  | ctxFreeze
  /-- `CTX_SAVE` (R273). -/
  | ctxSave
  /-- `CTX_RESTORE` (R274). -/
  | ctxRestore
  /-- `CTX_RESUME` (R275). -/
  | ctxResume
  /-- `DIRTY_START` (R276). -/
  | dirtyStart
  /-- `DIRTY_STOP` (R276). -/
  | dirtyStop
  /-- `TXQ_SETUP` (R244). -/
  | txqSetup
  /-- `RXQ_SETUP` (R244). -/
  | rxqSetup
  /-- `Q_STOP` (R244). -/
  | qStop
  /-- `Q_RESTART` (R244). -/
  | qRestart
  /-- `Q_TEARDOWN` (R244). -/
  | qTeardown
  /-- `EVQ_SETUP` (R245). -/
  | evqSetup
  /-- `EVQ_TEARDOWN` (R253). -/
  | evqTeardown
  /-- `VEC_SET` (R248). -/
  | vecSet
  /-- `EP_INSERT` (R182). -/
  | epInsert
  /-- `EP_DELETE` (R182). -/
  | epDelete
  /-- `EP_MODIFY` (R182). -/
  | epModify
  /-- `EP_QUERY` (R182). -/
  | epQuery
  /-- `SHAPER_SET` (R253). -/
  | shaperSet
  /-- `IMAGE_WRITE_RESPONSE` (R273). -/
  | imageWriteResponse
  /-- `IMAGE_READ_RESPONSE` (R274). -/
  | imageReadResponse
  /-- `DIRTY_MARK_RESPONSE` (R277). -/
  | dirtyMarkResponse
  /-- `CYCLE_WALK` (R295). -/
  | cycleWalk
  /-- `CUT_INSTANT` (R302). -/
  | cutInstant
  /-- `CUT_WINDOW_TIMEOUT` (R302). -/
  | cutWindowTimeout
  /-- `LEDGER_RECORD_WRITE` (R305). -/
  | ledgerRecordWrite
  /-- `LEDGER_RECORD_RESPONSE` (R309). -/
  | ledgerRecordResponse
  /-- `REALIGNMENT_BOUNDARY` (R317). -/
  | realignmentBoundary
  /-- `PPS_EDGE` (R321). -/
  | ppsEdge
  /-- `PPS_LOSS_TIMEOUT` (R320). -/
  | ppsLossTimeout
  /-- `MACHINE_TIMER` (R363). -/
  | machineTimer
  /-- `LOG_STORE` (R375). -/
  | logStore
  /-- `PC_EXPORT_RESPONSE` (R380). -/
  | pcExportResponse
  /-- `KEYWARD_BLOCK_DONE` (R400). -/
  | keywardBlockDone
  /-- `RNG_FAIL` (R402). -/
  | rngFail
  /-- `FUSE_PROG_DONE` (R404). -/
  | fuseProgDone
  /-- `HASP_REQ_RISE` (R405). -/
  | haspReqRise
  /-- `HASP_GRANT` (R405). -/
  | haspGrant
  /-- `HASP_REQ_FALL` (R405). -/
  | haspReqFall
  /-- `ENTRY_REQUESTS_DRAINED` (R414). -/
  | entryRequestsDrained
  /-- `ENTRY_TICK_LATCH` (R414). -/
  | entryTickLatch
  /-- `PW_ACK_RISE` (R414). -/
  | pwAckRise
  /-- `PW_ACK_TIMEOUT` (R415). -/
  | pwAckTimeout
  /-- `WAKE_TIMER` (R417). -/
  | wakeTimer
  /-- `EXIT_CLOCKS_OK` (R416). -/
  | exitClocksOk
  /-- `P1_ENTRY_DRAINED` (R419). -/
  | p1EntryDrained
  /-- `BROWN_OUT` (R423). -/
  | brownOut
  /-- `EVAC_COPY_DONE` (R431). -/
  | evacCopyDone
  /-- `EVAC_RX_READY` (R431). -/
  | evacRxReady
  /-- `EVAC_RX_SWITCH` (R432). -/
  | evacRxSwitch
  /-- `EVAC_DRAIN_DONE` (R431). -/
  | evacDrainDone
  /-- `EVAC_DRAIN_TIMEOUT` (R434). -/
  | evacDrainTimeout
  /-- `FAB_SPARE_SWITCH` (R438). -/
  | fabSpareSwitch
  /-- `TBL_SPARE_SWITCH` (R439). -/
  | tblSpareSwitch
  /-- `ROW_REPAIR_SWITCH` (R441). -/
  | rowRepairSwitch
  /-- `RNG_OK_RETURN` (R402). -/
  | rngOkReturn
  /-- `POWER_REMOVED` (R409). -/
  | powerRemoved
  /-- `PW_ISO_RISE` (R63). -/
  | pwIsoRise
  deriving DecidableEq, Repr

end Sys2Proof
end

