-- ==== Sys2Proof/Decode.lean ====
section
/-! DEFINITION. Table words. The table of operations gives none of its rows bits: the commands are accesses, pin events and
engine steps, not words, so no word spells one (log entry 3). -/

namespace Sys2Proof

/-- The command that a word spells by the table's bits: none, since no row has bits. -/
def decodeTableWord (_nbits _w : Nat) : Option Instr := none

end Sys2Proof
end

