-- ==== Sys2Proof/Config.lean ====
section
/-! DEFINITION. The free values: what the spec leaves open while the machine goes on. Each is an opaque constant without a
body, so nothing can be proved about the number it stands for; the notes name the log entry of each. -/

namespace Sys2Proof.Config

/-- A fresh 64-bit value per draw; the draw number is `State.free` (log entry 5). -/
opaque freeValue : Nat → BitVec 64

/-- What a byte of a frame that a failed read or a corrupt word left open holds (log entry 5). -/
opaque freeByte : Nat → BitVec 8

/-- The latency of a word that enters crossing `x` at tick `t`, before it is held to the worst case of R17 (log entry 53). -/
opaque crossLatency (x t : Nat) : BitVec 8

/-- `RELAXED` and `NOSNOOP` of the request for an address: R51 gives the two bits a meaning and names no request that sets them
(log entry 91). -/
opaque orderHints (addr : Nat) : BitVec 2

end Sys2Proof.Config
end

