-- ==== Sys2Proof/Machine/RegTable.lean ====
section
/-! DEFINITION. The register map of R446 to R448 as data: every register array of the setup window with its offset, its
instance counts and strides, and its fields with their access type (R8) and the reset value the spec's register tables
give them. Registers that a select register shows one instance of at a time (R21, R58, R79 ...) keep each instance's
fields at a backing offset above the 4 MiB window; `selTable` says which select field picks the instance. -/

namespace Sys2Proof.Machine

/-- The access types of R8. -/
inductive Acc where
  | rw | ro | wo | w1c | w1s | rc | rwl
  deriving DecidableEq, Repr

/-- One field of a register: lowest bit, width, access type and reset value. -/
structure FieldDesc where
  lo : Nat
  w : Nat
  acc : Acc
  reset : Nat
  deriving DecidableEq, Repr

/-- A register or register array: offset of instance 0, (count, stride) per index, and its fields. -/
structure RegDesc where
  base : Nat
  dims : List (Nat × Nat)
  fields : List FieldDesc
  deriving DecidableEq, Repr

/-- A field named by its register's offset, its lowest bit and its width. -/
structure Fld where
  off : Nat
  lo : Nat
  w : Nat
  deriving DecidableEq, Repr

/-- The key under which a field's value is kept. -/
def Fld.key (f : Fld) : Nat := f.off * 32 + f.lo

/-- Registers of setup-window offsets 0x000000 to 0x01FFFF. -/
def sysRegs : List RegDesc := [
  ⟨0x000200, [], [⟨0, 5, .ro, 0⟩, ⟨5, 1, .ro, 0⟩, ⟨6, 1, .ro, 0⟩, ⟨7, 1, .ro, 0⟩, ⟨8, 1, .ro, 1⟩]⟩, -- SYS_ISLAND_CLK (R21)
  ⟨0x000204, [], [⟨0, 32, .ro, 0⟩]⟩, -- SYS_LANE_CLK_LO (R21)
  ⟨0x000208, [], [⟨0, 4, .ro, 0⟩]⟩, -- SYS_LANE_CLK_HI (R21)
  ⟨0x000210, [], [⟨0, 10, .rw, 0⟩]⟩, -- SYS_XING_SEL (R21)
  ⟨0x000214, [], [⟨0, 7, .ro, 0⟩, ⟨8, 7, .ro, 0⟩, ⟨16, 4, .ro, 0⟩, ⟨31, 1, .wo, 0⟩]⟩, -- SYS_XING_STAT (R21)
  ⟨0x000218, [], [⟨0, 32, .rc, 0⟩]⟩, -- SYS_XING_OVF (R21)
  ⟨0x000220, [], [⟨0, 20, .ro, 47768⟩]⟩, -- SYS_SLICE_MAP (R21)
  ⟨0x000000, [], [⟨0, 16, .ro, 25600⟩, ⟨16, 8, .ro, 1⟩, ⟨24, 8, .ro, 0⟩]⟩, -- SYS_ID (R45)
  ⟨0x000004, [], [⟨0, 3, .ro, 0⟩, ⟨4, 2, .ro, 0⟩, ⟨8, 1, .ro, 0⟩]⟩, -- SYS_STATE (R45)
  ⟨0x000010, [], [⟨12, 20, .rw, 0⟩]⟩, -- SYS_SD_ADDR_LO (R45)
  ⟨0x000014, [], [⟨0, 25, .rw, 0⟩]⟩, -- SYS_SD_ADDR_HI (R45)
  ⟨0x000018, [], [⟨0, 1, .wo, 0⟩]⟩, -- SYS_SD_CTRL (R45)
  ⟨0x00001C, [], [⟨0, 1, .ro, 0⟩, ⟨1, 4, .ro, 15⟩, ⟨8, 12, .ro, 0⟩]⟩, -- SYS_SD_STAT (R45)
  ⟨0x000020, [], [⟨0, 32, .ro, 0⟩]⟩, -- SYS_SD_SEQ (R45)
  ⟨0x000048, [], [⟨0, 32, .ro, 0⟩]⟩, -- SYS_HB_COUNT_LO (R45)
  ⟨0x00004C, [], [⟨0, 32, .ro, 0⟩]⟩, -- SYS_HB_COUNT_HI (R45)
  ⟨0x00002C, [], [⟨0, 16, .rc, 0⟩, ⟨16, 16, .rc, 0⟩]⟩, -- SYS_SD_CNT (R45)
  ⟨0x000030, [], [⟨0, 16, .rw, 500⟩, ⟨16, 16, .rw, 20⟩]⟩, -- SYS_FAB_TIMEOUT (R58)
  ⟨0x000034, [], [⟨0, 4, .rw, 0⟩, ⟨4, 2, .rw, 0⟩, ⟨8, 1, .rw, 0⟩]⟩, -- SYS_FAB_SEL (R58)
  ⟨0x000038, [], [⟨0, 8, .ro, 0⟩, ⟨8, 8, .ro, 0⟩, ⟨16, 8, .ro, 0⟩, ⟨31, 1, .ro, 0⟩]⟩, -- SYS_FAB_CREDIT (R58)
  ⟨0x00003C, [], [⟨0, 9, .w1c, 0⟩, ⟨9, 9, .w1c, 0⟩, ⟨18, 9, .w1c, 0⟩, ⟨27, 1, .w1c, 0⟩, ⟨28, 1, .w1c, 0⟩]⟩, -- SYS_FAB_EVT (R58)
  ⟨0x000040, [], [⟨0, 32, .rc, 0⟩]⟩, -- SYS_FAB_LATE (R58)
  ⟨0x000044, [], [⟨0, 32, .rc, 0⟩]⟩ -- SYS_FAB_PROTO_CNT (R58)
]

/-- Registers of setup-window offsets 0x020000 to 0x03FFFF. -/
def lnRegs : List RegDesc := [
  ⟨0x020000, [(4, 4)], [⟨0, 1, .rw, 0⟩, ⟨1, 1, .rw, 0⟩]⟩, -- LN_PORT_CFG (R71)
  ⟨0x020508, [], [⟨0, 16, .rw, 1000⟩, ⟨16, 16, .rw, 1000⟩]⟩, -- LN_TIMING (R71)
  ⟨0x020100, [(32, 4)], [⟨0, 1, .rw, 0⟩, ⟨1, 3, .rw, 0⟩, ⟨4, 3, .rw, 0⟩]⟩, -- LN_CHAN_CFG (R75)
  ⟨0x020200, [(32, 4)], [⟨0, 2, .ro, 0⟩, ⟨2, 1, .ro, 0⟩, ⟨3, 1, .ro, 0⟩, ⟨4, 1, .ro, 0⟩, ⟨5, 1, .ro, 0⟩, ⟨6, 1, .w1c, 0⟩, ⟨7, 1, .w1c, 0⟩, ⟨16, 16, .rc, 0⟩]⟩, -- LN_CHAN_STAT (R78)
  ⟨0x020300, [(36, 4)], [⟨0, 2, .ro, 0⟩, ⟨2, 1, .ro, 0⟩, ⟨3, 1, .ro, 0⟩, ⟨4, 1, .ro, 0⟩, ⟨5, 4, .ro, 0⟩, ⟨9, 1, .ro, 0⟩, ⟨10, 1, .ro, 1⟩, ⟨11, 1, .ro, 0⟩, ⟨16, 16, .rc, 0⟩]⟩, -- LN_LANE_STAT (R78)
  ⟨0x020504, [], [⟨0, 5, .rw, 0⟩, ⟨8, 6, .rw, 0⟩]⟩, -- LN_CNT_SEL (R79)
  ⟨0x020510, [], [⟨0, 32, .rc, 0⟩]⟩, -- LN_CW_CORR_LO (R79)
  ⟨0x020514, [], [⟨0, 32, .rc, 0⟩]⟩, -- LN_CW_CORR_HI (R79)
  ⟨0x020518, [], [⟨0, 32, .rc, 0⟩]⟩, -- LN_CW_UNC_LO (R79)
  ⟨0x02051C, [], [⟨0, 32, .rc, 0⟩]⟩, -- LN_CW_UNC_HI (R79)
  ⟨0x020520, [], [⟨0, 32, .rc, 0⟩]⟩, -- LN_SYM_ERR (R79)
  ⟨0x020524, [], [⟨0, 16, .rc, 0⟩]⟩, -- LN_CFG_REJ (R79)
  ⟨0x020500, [], [⟨0, 4, .w1c, 0⟩, ⟨4, 4, .w1c, 0⟩, ⟨8, 4, .w1c, 0⟩, ⟨12, 4, .w1c, 0⟩, ⟨16, 4, .w1c, 0⟩]⟩, -- LN_EVT (R79)
  ⟨0x020400, [(4, 8)], [⟨0, 3, .wo, 0⟩, ⟨4, 3, .rw, 0⟩, ⟨8, 1, .rw, 1⟩, ⟨9, 1, .rw, 0⟩, ⟨10, 1, .rw, 1⟩, ⟨16, 8, .rw, 100⟩, ⟨24, 8, .rw, 16⟩]⟩, -- LN_SPARE_CTRL (R85)
  ⟨0x020404, [(4, 8)], [⟨0, 3, .ro, 0⟩, ⟨4, 3, .ro, 0⟩, ⟨7, 1, .ro, 0⟩, ⟨8, 4, .ro, 0⟩, ⟨12, 13, .ro, 0⟩, ⟨25, 7, .rc, 0⟩]⟩ -- LN_SPARE_STAT (R85)
]

/-- Registers of setup-window offsets 0x040000 to 0x05FFFF, part 0. -/
def tfgpRegs0 : List RegDesc := [
  ⟨0x040000, [(32, 4)], [⟨0, 1, .rw, 0⟩, ⟨1, 1, .rw, 0⟩, ⟨2, 1, .rw, 0⟩, ⟨3, 1, .rw, 0⟩, ⟨4, 1, .wo, 0⟩]⟩, -- TF_FR_CFG (R101)
  ⟨0x040080, [(32, 4)], [⟨0, 2, .ro, 3⟩, ⟨2, 3, .ro, 0⟩, ⟨5, 1, .ro, 0⟩, ⟨6, 1, .ro, 0⟩, ⟨7, 1, .ro, 0⟩, ⟨8, 5, .ro, 0⟩, ⟨16, 8, .ro, 0⟩, ⟨24, 8, .ro, 0⟩]⟩, -- TF_FR_STAT (R101)
  ⟨0x040100, [(32, 4)], [⟨0, 32, .ro, 0⟩]⟩, -- TF_FR_MFC (R101)
  ⟨0x040300, [], [⟨0, 4, .w1c, 0⟩, ⟨4, 4, .w1c, 0⟩, ⟨8, 4, .w1c, 0⟩, ⟨12, 4, .w1c, 0⟩, ⟨16, 4, .w1c, 0⟩, ⟨20, 4, .w1c, 0⟩]⟩, -- TF_EVT (R101)
  ⟨0x040304, [], [⟨0, 5, .rw, 0⟩, ⟨8, 5, .rw, 0⟩]⟩, -- TF_CNT_SEL (R101)
  ⟨0x040310, [], [⟨0, 32, .rc, 0⟩]⟩, -- TF_HCRC_ERR (R101)
  ⟨0x040318, [], [⟨0, 32, .rc, 0⟩]⟩, -- TF_BIP_LO (R101)
  ⟨0x04031C, [], [⟨0, 32, .rc, 0⟩]⟩, -- TF_BIP_HI (R101)
  ⟨0x040320, [], [⟨0, 32, .rc, 0⟩]⟩, -- TF_REI_LO (R101)
  ⟨0x040324, [], [⟨0, 32, .rc, 0⟩]⟩, -- TF_REI_HI (R101)
  ⟨0x040328, [], [⟨0, 16, .rc, 0⟩, ⟨16, 16, .rc, 0⟩]⟩, -- TF_FR_EVCNT (R101)
  ⟨0x040330, [], [⟨0, 16, .rc, 0⟩, ⟨16, 16, .rc, 0⟩]⟩, -- TF_GFP_HEC (R101)
  ⟨0x040334, [], [⟨0, 16, .rc, 0⟩, ⟨16, 16, .rc, 0⟩]⟩, -- TF_GFP_DISC (R101)
  ⟨0x040338, [], [⟨0, 16, .rc, 0⟩, ⟨16, 16, .rc, 0⟩]⟩, -- TF_GFP_MISC (R101)
  ⟨0x040180, [(32, 4)], [⟨0, 1, .rw, 0⟩, ⟨1, 1, .rw, 1⟩, ⟨2, 1, .rw, 1⟩, ⟨3, 1, .rw, 1⟩, ⟨4, 1, .rw, 0⟩]⟩, -- TF_GFP_CFG (R110)
  ⟨0x040200, [(32, 4)], [⟨0, 2, .ro, 3⟩, ⟨2, 1, .ro, 0⟩, ⟨3, 1, .ro, 0⟩, ⟨16, 16, .rc, 0⟩]⟩, -- TF_GFP_STAT (R110)
  ⟨0x041000, [(32, 4)], [⟨0, 1, .rw, 0⟩, ⟨1, 4, .rw, 0⟩, ⟨5, 5, .rw, 0⟩]⟩, -- GP_POS_CFG (R132)
  ⟨0x041100, [(16, 8)], [⟨0, 1, .rw, 0⟩, ⟨1, 6, .rw, 0⟩, ⟨8, 8, .rw, 0⟩, ⟨16, 5, .rw, 0⟩]⟩, -- GP_GRP_CFG (R132)
  ⟨0x041104, [(16, 8)], [⟨0, 2, .ro, 0⟩, ⟨2, 1, .ro, 0⟩, ⟨3, 1, .ro, 0⟩, ⟨4, 3, .ro, 0⟩, ⟨8, 5, .ro, 0⟩, ⟨13, 3, .ro, 0⟩, ⟨16, 16, .rc, 0⟩]⟩, -- GP_GRP_STAT (R132)
  ⟨0x041180, [(16, 4)], [⟨0, 16, .ro, 0⟩]⟩, -- GP_GRP_SKEW (R132)
  ⟨0x0411C0, [(16, 4)], [⟨0, 4, .rw, 2⟩, ⟨4, 1, .rw, 1⟩]⟩, -- GP_SD_CFG (R132)
  ⟨0x041200, [(16, 8)], [⟨0, 32, .rw, 17000⟩]⟩, -- GP_SD_SET (R132)
  ⟨0x041204, [(16, 8)], [⟨0, 32, .rw, 1700⟩]⟩, -- GP_SD_CLR (R132)
  ⟨0x041300, [(8, 16)], [⟨0, 1, .rw, 0⟩, ⟨1, 4, .rw, 0⟩, ⟨5, 4, .rw, 0⟩, ⟨9, 1, .rw, 0⟩, ⟨10, 1, .rw, 1⟩, ⟨16, 4, .rw, 3⟩]⟩, -- GP_PAIR_CFG (R132)
  ⟨0x041304, [(8, 16)], [⟨0, 16, .rw, 2000⟩, ⟨16, 16, .rw, 300⟩]⟩, -- GP_PAIR_TIME (R132)
  ⟨0x041308, [(8, 16)], [⟨0, 3, .rw, 0⟩, ⟨8, 8, .rw, 0⟩, ⟨16, 16, .rw, 1000⟩]⟩, -- GP_PAIR_CMD (R132)
  ⟨0x04130C, [(8, 16)], [⟨0, 1, .ro, 0⟩, ⟨1, 1, .ro, 0⟩, ⟨2, 4, .ro, 0⟩, ⟨6, 4, .ro, 0⟩, ⟨10, 1, .ro, 0⟩, ⟨11, 1, .ro, 0⟩, ⟨12, 1, .ro, 0⟩, ⟨13, 1, .ro, 0⟩, ⟨16, 16, .ro, 0⟩]⟩, -- GP_PAIR_STAT (R132)
  ⟨0x041400, [], [⟨0, 16, .w1c, 0⟩, ⟨16, 8, .w1c, 0⟩, ⟨24, 1, .w1c, 0⟩]⟩, -- GP_EVT (R132)
  ⟨0x041404, [], [⟨0, 18, .rw, 16384⟩]⟩, -- GP_HOLD (R132)
  ⟨0x041408, [], [⟨0, 16, .rc, 0⟩]⟩, -- GP_CFG_REJ (R132)
  ⟨0x04140C, [], [⟨0, 3, .rw, 0⟩]⟩, -- GP_CNT_SEL (R132)
  ⟨0x041410, [], [⟨0, 32, .rc, 0⟩]⟩, -- GP_HG_DUP (R132)
  ⟨0x041414, [], [⟨0, 32, .rc, 0⟩]⟩, -- GP_HG_ALONE (R132)
  ⟨0x041418, [], [⟨0, 32, .rc, 0⟩]⟩, -- GP_HG_REPAIR (R132)
  ⟨0x04141C, [], [⟨0, 16, .rc, 0⟩, ⟨16, 16, .rc, 0⟩]⟩, -- GP_HG_SW (R132)
  ⟨0x041420, [], [⟨0, 32, .rc, 0⟩]⟩, -- GP_HIT_BYTES_LO (R132)
  ⟨0x041424, [], [⟨0, 32, .rc, 0⟩]⟩, -- GP_HIT_BYTES_HI (R132)
  ⟨0x041428, [], [⟨0, 16, .rc, 0⟩, ⟨16, 16, .rc, 0⟩]⟩, -- GP_HG_MISC (R132)
  ⟨0x04142C, [], [⟨0, 32, .rc, 0⟩]⟩, -- GP_HG_FULL (R132)
  ⟨0x041500, [], [⟨0, 5, .rw, 0⟩, ⟨8, 4, .rw, 0⟩]⟩ -- GP_SEC_SEL (R132)
]

/-- Registers of setup-window offsets 0x040000 to 0x05FFFF, part 1. -/
def tfgpRegs1 : List RegDesc := [
  ⟨0x041504, [], [⟨0, 32, .ro, 0⟩]⟩, -- GP_SEC_BIP (R132)
  ⟨0x041508, [], [⟨0, 32, .ro, 0⟩]⟩, -- GP_SEC_HCRC (R132)
  ⟨0x04150C, [], [⟨0, 22, .ro, 0⟩, ⟨30, 1, .ro, 0⟩, ⟨31, 1, .ro, 0⟩]⟩, -- GP_SEC_FLAGS (R132)
  ⟨0x041510, [], [⟨0, 32, .ro, 0⟩]⟩, -- GP_SEC_GRP (R132)
  ⟨0x041600, [(8, 4)], [⟨0, 1, .rw, 0⟩, ⟨1, 5, .rw, 0⟩, ⟨8, 5, .rw, 7⟩]⟩, -- GP_OH_TX (R132)
  ⟨0x041620, [(8, 4)], [⟨0, 1, .rw, 0⟩, ⟨1, 5, .rw, 0⟩]⟩, -- GP_OH_RX (R132)
  ⟨0x041640, [], [⟨0, 3, .rw, 0⟩]⟩, -- GP_OH_SEL (R132)
  ⟨0x041644, [], [⟨0, 16, .rc, 0⟩, ⟨16, 16, .rc, 0⟩]⟩, -- GP_OH_CNT (R132)
  ⟨0x041648, [], [⟨0, 16, .rc, 0⟩, ⟨16, 16, .rc, 0⟩]⟩ -- GP_OH_CNT2 (R132)
]

/-- All registers of this region. -/
def tfgpRegs : List RegDesc := tfgpRegs0 ++ tfgpRegs1

/-- Registers of setup-window offsets 0x060000 to 0x07FFFF. -/
def mcRegs : List RegDesc := [
  ⟨0x060000, [(32, 4)], [⟨0, 1, .rwl, 0⟩, ⟨1, 1, .rwl, 1⟩, ⟨2, 2, .rwl, 0⟩, ⟨4, 1, .rwl, 1⟩, ⟨5, 1, .rwl, 1⟩]⟩, -- MC_CFG (R134)
  ⟨0x060080, [(32, 4)], [⟨0, 15, .rwl, 1522⟩]⟩, -- MC_MAXLEN (R134)
  ⟨0x060100, [(32, 4)], [⟨0, 16, .rwl, 34984⟩]⟩, -- MC_TAG_CFG (R134)
  ⟨0x060180, [(32, 4)], [⟨0, 1, .wo, 0⟩, ⟨1, 1, .ro, 0⟩, ⟨8, 8, .ro, 0⟩, ⟨16, 16, .rc, 0⟩]⟩, -- MC_COMMIT (R134)
  ⟨0x060400, [], [⟨0, 16, .rw, 4789⟩, ⟨16, 16, .rw, 6081⟩]⟩, -- MC_CSUM_PORTS (R149)
  ⟨0x060200, [(32, 4)], [⟨0, 2, .rw, 0⟩, ⟨2, 1, .rw, 1⟩, ⟨3, 1, .rw, 1⟩, ⟨8, 8, .rw, 255⟩, ⟨16, 16, .rw, 65535⟩]⟩, -- MC_FC_CFG (R156)
  ⟨0x060380, [(32, 4)], [⟨0, 16, .rw, 32768⟩]⟩, -- MC_FC_REF (R156)
  ⟨0x060280, [(32, 4)], [⟨0, 16, .rw, 1000⟩, ⟨16, 16, .rw, 10000⟩]⟩, -- MC_FC_WD (R156)
  ⟨0x060300, [(32, 4)], [⟨0, 8, .ro, 0⟩, ⟨8, 8, .ro, 0⟩, ⟨16, 8, .ro, 0⟩]⟩, -- MC_FC_STAT (R156)
  ⟨0x060500, [(32, 8)], [⟨0, 32, .rw, 0⟩]⟩, -- MC_STATION_LO (R156)
  ⟨0x060504, [(32, 8)], [⟨0, 16, .rw, 0⟩]⟩, -- MC_STATION_HI (R156)
  ⟨0x061000, [(16, 256), (32, 4)], [⟨0, 32, .rw, 0⟩]⟩, -- MC_WAKE_VAL (R158)
  ⟨0x061080, [(16, 256), (4, 4)], [⟨0, 32, .rw, 0⟩]⟩, -- MC_WAKE_MASK (R158)
  ⟨0x061090, [(16, 256)], [⟨0, 1, .rw, 0⟩, ⟨8, 5, .rw, 0⟩]⟩, -- MC_WAKE_CTRL (R158)
  ⟨0x060600, [], [⟨0, 32, .rw, 0⟩]⟩, -- MC_WAKE_MAGIC (R158)
  ⟨0x060604, [], [⟨0, 5, .ro, 0⟩, ⟨5, 5, .ro, 0⟩, ⟨31, 1, .w1c, 0⟩]⟩, -- MC_WAKE_STAT (R158)
  ⟨0x060404, [], [⟨0, 4, .w1c, 0⟩, ⟨4, 4, .w1c, 0⟩, ⟨8, 4, .w1c, 0⟩, ⟨12, 4, .w1c, 0⟩]⟩, -- MC_EVT (R161)
  ⟨0x064000, [(32, 512), (64, 8)], [⟨0, 32, .rc, 0⟩]⟩, -- MC_STAT_LO (R159)
  ⟨0x064004, [(32, 512), (64, 8)], [⟨0, 32, .rc, 0⟩]⟩ -- MC_STAT_HI (R159)
]

/-- Registers of setup-window offsets 0x080000 to 0x09FFFF. -/
def clmtRegs : List RegDesc := [
  ⟨0x080100, [(32, 4)], [⟨0, 8, .rw, 0⟩, ⟨8, 3, .rw, 0⟩, ⟨11, 3, .rw, 0⟩, ⟨14, 3, .rw, 0⟩, ⟨17, 3, .rw, 0⟩, ⟨20, 1, .rw, 0⟩]⟩, -- CL_KSEL (R166)
  ⟨0x080010, [(14, 4)], [⟨0, 32, .rw, 0⟩]⟩, -- CL_HKEY (R168)
  ⟨0x080180, [(32, 8)], [⟨0, 12, .rw, 0⟩, ⟨12, 6, .rw, 0⟩, ⟨18, 1, .rw, 1⟩]⟩, -- CL_MISS (R180)
  ⟨0x080184, [(32, 8)], [⟨0, 14, .rw, 0⟩, ⟨14, 1, .rw, 0⟩]⟩, -- CL_MISS_MTR (R180)
  ⟨0x080000, [], [⟨0, 1, .rw, 0⟩, ⟨1, 1, .wo, 0⟩, ⟨2, 1, .ro, 0⟩, ⟨3, 3, .ro, 0⟩, ⟨6, 3, .ro, 0⟩, ⟨16, 6, .rw, 0⟩]⟩, -- CL_CTRL (R188)
  ⟨0x080004, [], [⟨0, 1, .w1c, 0⟩, ⟨1, 7, .w1c, 0⟩, ⟨8, 7, .w1c, 0⟩, ⟨15, 7, .w1c, 0⟩, ⟨22, 1, .w1c, 0⟩, ⟨23, 1, .w1c, 0⟩, ⟨24, 1, .w1c, 0⟩]⟩, -- CL_EVT (R188)
  ⟨0x080008, [], [⟨0, 16, .rw, 280⟩, ⟨16, 3, .rw, 3⟩]⟩, -- CL_LIMITS (R188)
  ⟨0x08000C, [], [⟨0, 23, .ro, 0⟩]⟩, -- CL_TORN_ADDR (R188)
  ⟨0x080050, [], [⟨0, 26, .ro, 0⟩, ⟨26, 6, .ro, 0⟩]⟩, -- CL_OCC (R188)
  ⟨0x080054, [], [⟨0, 13, .ro, 0⟩, ⟨16, 13, .rw, 3072⟩]⟩, -- CL_STASH (R188)
  ⟨0x080300, [(10, 4)], [⟨0, 32, .rw, 0⟩]⟩, -- CL_UPD_KEY (R188)
  ⟨0x080328, [], [⟨0, 12, .rw, 0⟩, ⟨12, 6, .rw, 0⟩, ⟨18, 14, .rw, 0⟩]⟩, -- CL_UPD_VD_LO (R188)
  ⟨0x08032C, [], [⟨0, 1, .rw, 0⟩, ⟨1, 3, .rw, 0⟩, ⟨4, 3, .rw, 0⟩, ⟨7, 1, .rw, 0⟩]⟩, -- CL_UPD_VD_HI (R188)
  ⟨0x080330, [], [⟨0, 3, .wo, 0⟩]⟩, -- CL_UPD_CMD (R188)
  ⟨0x080334, [], [⟨0, 1, .ro, 0⟩, ⟨1, 4, .ro, 0⟩, ⟨5, 2, .ro, 0⟩, ⟨7, 3, .ro, 0⟩]⟩, -- CL_UPD_STAT (R188)
  ⟨0x080400, [], [⟨0, 32, .rc, 0⟩]⟩, -- CL_LOOKUPS_LO (R188)
  ⟨0x080404, [], [⟨0, 32, .rc, 0⟩]⟩, -- CL_LOOKUPS_HI (R188)
  ⟨0x080408, [], [⟨0, 32, .rc, 0⟩]⟩, -- CL_CACHE_HIT_LO (R188)
  ⟨0x08040C, [], [⟨0, 32, .rc, 0⟩]⟩, -- CL_CACHE_HIT_HI (R188)
  ⟨0x080410, [], [⟨0, 32, .rc, 0⟩]⟩, -- CL_READS_LO (R188)
  ⟨0x080414, [], [⟨0, 32, .rc, 0⟩]⟩, -- CL_READS_HI (R188)
  ⟨0x080418, [], [⟨0, 32, .rc, 0⟩]⟩, -- CL_READ2_LO (R188)
  ⟨0x08041C, [], [⟨0, 32, .rc, 0⟩]⟩, -- CL_READ2_HI (R188)
  ⟨0x080420, [(8, 4)], [⟨0, 32, .rc, 0⟩]⟩, -- CL_MISS_CNT (R188)
  ⟨0x080440, [], [⟨0, 32, .rc, 0⟩]⟩, -- CL_TBL_PROTO (R188)
  ⟨0x080444, [], [⟨0, 16, .rc, 0⟩]⟩, -- CL_CFG_REJ (R188)
  ⟨0x081000, [], [⟨0, 14, .rw, 0⟩]⟩, -- MT_SEL (R197)
  ⟨0x081004, [], [⟨0, 2, .rw, 0⟩, ⟨2, 1, .rw, 0⟩, ⟨3, 1, .rw, 0⟩, ⟨4, 1, .rw, 1⟩]⟩, -- MT_MODE (R197)
  ⟨0x081008, [], [⟨0, 32, .rw, 0⟩]⟩, -- MT_CIR (R197)
  ⟨0x08100C, [], [⟨0, 24, .rw, 0⟩]⟩, -- MT_CBS (R197)
  ⟨0x081010, [], [⟨0, 32, .rw, 0⟩]⟩, -- MT_PIR (R197)
  ⟨0x081014, [], [⟨0, 24, .rw, 0⟩]⟩, -- MT_PBS (R197)
  ⟨0x081018, [], [⟨0, 1, .wo, 0⟩, ⟨1, 1, .wo, 0⟩, ⟨2, 1, .ro, 0⟩]⟩, -- MT_CMD (R197)
  ⟨0x08101C, [], [⟨0, 32, .ro, 0⟩]⟩, -- MT_TOK_C (R197)
  ⟨0x081020, [], [⟨0, 32, .ro, 0⟩]⟩, -- MT_TOK_P (R197)
  ⟨0x081024, [], [⟨0, 14, .ro, 0⟩]⟩, -- MT_AUDIT_IDX (R197)
  ⟨0x081040, [(6, 8)], [⟨0, 32, .rc, 0⟩]⟩, -- MT_CNT_LO (R197)
  ⟨0x081044, [(6, 8)], [⟨0, 32, .rc, 0⟩]⟩ -- MT_CNT_HI (R197)
]

/-- Registers of setup-window offsets 0x0A0000 to 0x0BFFFF. -/
def fbRegs : List RegDesc := [
  ⟨0x0A0000, [], [⟨0, 18, .ro, 0x30000⟩]⟩, -- FB_FREE (R206)
  ⟨0x0A0004, [], [⟨0, 18, .rw, 32768⟩]⟩, -- FB_TX (R206)
  ⟨0x0A0008, [], [⟨0, 18, .ro, 0⟩]⟩, -- FB_TX_HELD (R206)
  ⟨0x0A000C, [], [⟨0, 18, .rw, 256⟩]⟩, -- FB_TX_QMAX (R206)
  ⟨0x0A0010, [], [⟨0, 18, .ro, 0x22000⟩]⟩, -- FB_SHARED (R206)
  ⟨0x0A0014, [], [⟨0, 18, .ro, 0⟩]⟩, -- FB_SHARED_USED (R206)
  ⟨0x0A0020, [(4, 4)], [⟨0, 8, .rw, 0⟩]⟩, -- FB_LOSSLESS (R206)
  ⟨0x0A0030, [], [⟨0, 1, .w1c, 0⟩, ⟨1, 4, .w1c, 0⟩]⟩, -- FB_EVT (R206)
  ⟨0x0A0034, [], [⟨0, 16, .rc, 0⟩]⟩, -- FB_CFG_REJ (R206)
  ⟨0x0A0038, [], [⟨0, 18, .ro, 0⟩]⟩, -- FB_AUDIT_FREE (R206)
  ⟨0x0A003C, [], [⟨0, 18, .ro, 0⟩]⟩, -- FB_AUDIT_HELD (R206)
  ⟨0x0A0040, [], [⟨0, 32, .ro, 0⟩]⟩, -- FB_XOFF_STAT (R206)
  ⟨0x0A0100, [(32, 4)], [⟨0, 18, .rw, 256⟩]⟩, -- FB_PC_RES (R206)
  ⟨0x0A0180, [(32, 4)], [⟨0, 18, .rw, 0x30000⟩]⟩, -- FB_PC_SHMAX (R206)
  ⟨0x0A0200, [(32, 4)], [⟨0, 18, .rw, 0⟩]⟩, -- FB_PC_HDRM (R206)
  ⟨0x0A0280, [(32, 4)], [⟨0, 18, .rw, 2048⟩]⟩, -- FB_PC_XOFF (R206)
  ⟨0x0A0300, [(32, 4)], [⟨0, 18, .rw, 1024⟩]⟩, -- FB_PC_XON (R206)
  ⟨0x0A0380, [(32, 4)], [⟨0, 18, .ro, 0⟩]⟩, -- FB_PC_USE (R206)
  ⟨0x0A0400, [(32, 4)], [⟨0, 18, .ro, 0⟩]⟩, -- FB_PC_HUSE (R206)
  ⟨0x0A0480, [(32, 4)], [⟨0, 32, .rc, 0⟩]⟩ -- FB_PC_DROP (R206)
]

/-- Registers of setup-window offsets 0x0C0000 to 0x0FFFFF. -/
def sctgRegs : List RegDesc := [
  ⟨0x0C0000, [], [⟨0, 15, .rw, 0⟩, ⟨16, 1, .rw, 0⟩]⟩, -- SC_SEL (R222)
  ⟨0x0C0004, [], [⟨0, 5, .rwl, 0⟩, ⟨5, 3, .rwl, 0⟩, ⟨8, 1, .rwl, 0⟩]⟩, -- SC_Q_MAP (R222)
  ⟨0x0C0008, [], [⟨0, 32, .rwl, 0⟩]⟩, -- SC_RATE (R222)
  ⟨0x0C000C, [], [⟨0, 24, .rwl, 16384⟩]⟩, -- SC_BURST (R222)
  ⟨0x0C0010, [], [⟨0, 12, .rwl, 16⟩, ⟨12, 1, .rwl, 0⟩, ⟨13, 1, .rwl, 1⟩]⟩, -- SC_TEN (R222)
  ⟨0x0C0014, [], [⟨0, 1, .wo, 0⟩, ⟨1, 1, .ro, 0⟩, ⟨8, 8, .ro, 0⟩, ⟨16, 16, .rc, 0⟩]⟩, -- SC_COMMIT (R222)
  ⟨0x0C0018, [], [⟨0, 1, .wo, 0⟩]⟩, -- SC_CMD (R222)
  ⟨0x0C001C, [], [⟨0, 32, .ro, 0⟩]⟩, -- SC_TOK (R222)
  ⟨0x0C0020, [], [⟨0, 1, .w1c, 0⟩, ⟨1, 4, .w1c, 0⟩]⟩, -- SC_EVT (R222)
  ⟨0x0C0024, [], [⟨0, 16, .ro, 0⟩]⟩, -- SC_AUDIT_IDX (R222)
  ⟨0x0C0028, [], [⟨0, 16, .rc, 0⟩]⟩, -- SC_CFG_REJ (R222)
  ⟨0x0C002C, [], [⟨0, 32, .rc, 0⟩]⟩, -- SC_GUARD_CNT (R222)
  ⟨0x0C0100, [(32, 4)], [⟨0, 21, .rw, 0⟩]⟩, -- SC_CH_PACE (R222)
  ⟨0x0C0180, [(32, 4)], [⟨0, 10, .rw, 64⟩, ⟨16, 10, .rw, 16⟩]⟩, -- SC_CH_STG (R222)
  ⟨0x0C0200, [(32, 4)], [⟨0, 16, .rw, 100⟩, ⟨16, 16, .rw, 20⟩]⟩, -- SC_CH_GUARD (R222)
  ⟨0x0C0400, [(32, 16), (4, 4)], [⟨0, 16, .rw, 2048⟩, ⟨16, 16, .rw, 2048⟩]⟩, -- SC_DRR_Q (R222)
  ⟨0x0C0600, [(32, 4)], [⟨0, 20, .ro, 0⟩, ⟨20, 1, .ro, 0⟩, ⟨21, 1, .ro, 0⟩]⟩, -- SC_CH_STAT (R222)
  ⟨0x0C0700, [], [⟨0, 15, .rw, 0⟩, ⟨16, 1, .rw, 0⟩, ⟨31, 1, .wo, 0⟩]⟩, -- SC_SAMP_SEL (R222)
  ⟨0x0C0704, [], [⟨0, 18, .ro, 0⟩, ⟨18, 14, .ro, 0⟩]⟩, -- SC_SAMP_DEPTH (R222)
  ⟨0x0C0708, [], [⟨0, 16, .ro, 0⟩, ⟨16, 16, .ro, 0⟩]⟩, -- SC_SAMP_DELAY (R222)
  ⟨0x0C070C, [], [⟨0, 18, .ro, 0⟩]⟩, -- SC_SAMP_MAXD (R222)
  ⟨0x0C1000, [(32, 4)], [⟨0, 1, .rw, 0⟩, ⟨1, 1, .ro, 0⟩, ⟨2, 1, .ro, 0⟩]⟩, -- TG_CTRL (R222)
  ⟨0x0C1100, [(32, 32)], [⟨0, 30, .rwl, 0⟩]⟩, -- TG_BASE_NS (R222)
  ⟨0x0C1104, [(32, 32)], [⟨0, 32, .rwl, 0⟩]⟩, -- TG_BASE_S_LO (R222)
  ⟨0x0C1108, [(32, 32)], [⟨0, 16, .rwl, 0⟩]⟩, -- TG_BASE_S_HI (R222)
  ⟨0x0C110C, [(32, 32)], [⟨0, 32, .rwl, 0⟩]⟩, -- TG_CYCLE (R222)
  ⟨0x0C1110, [(32, 32)], [⟨0, 9, .rwl, 0⟩, ⟨16, 1, .rwl, 0⟩]⟩, -- TG_LEN (R222)
  ⟨0x0C1114, [(32, 32)], [⟨0, 1, .wo, 0⟩, ⟨1, 1, .ro, 0⟩, ⟨8, 8, .ro, 0⟩, ⟨16, 16, .rc, 0⟩]⟩, -- TG_COMMIT (R222)
  ⟨0x0D0000, [(32, 2048), (2, 1024), (256, 4)], [⟨0, 32, .rw, 0⟩]⟩, -- TG_ENTRY (R222)
  ⟨0x0C1500, [], [⟨0, 4, .w1c, 0⟩, ⟨4, 4, .w1c, 0⟩]⟩, -- TG_EVT (R222)
  ⟨0x0C1504, [], [⟨0, 5, .rw, 0⟩]⟩, -- TG_CNT_SEL (R222)
  ⟨0x0C1508, [], [⟨0, 32, .rc, 0⟩]⟩, -- TG_OVERRUN (R222)
  ⟨0x0C150C, [], [⟨0, 16, .rc, 0⟩]⟩ -- TG_LATE (R222)
]

/-- Registers of setup-window offsets 0x100000 to 0x13FFFF. -/
def hrcxRegs : List RegDesc := [
  ⟨0x100000, [], [⟨6, 26, .rw, 0⟩]⟩, -- HR_CMD_BASE_LO (R256)
  ⟨0x100008, [], [⟨6, 26, .rw, 0⟩]⟩, -- HR_CMDC_BASE_LO (R256)
  ⟨0x100004, [], [⟨0, 25, .rw, 0⟩]⟩, -- HR_CMD_BASE_HI (R256)
  ⟨0x10000C, [], [⟨0, 25, .rw, 0⟩]⟩, -- HR_CMDC_BASE_HI (R256)
  ⟨0x100010, [], [⟨0, 1, .rw, 0⟩, ⟨8, 4, .rw, 6⟩]⟩, -- HR_CMD_CFG (R256)
  ⟨0x100014, [], [⟨0, 16, .rw, 0⟩]⟩, -- HR_CMD_PI (R256)
  ⟨0x100018, [], [⟨0, 16, .ro, 0⟩, ⟨16, 1, .ro, 0⟩, ⟨24, 8, .ro, 0⟩]⟩, -- HR_CMD_STAT (R256)
  ⟨0x10001C, [], [⟨0, 1, .w1c, 0⟩, ⟨1, 1, .w1c, 0⟩, ⟨2, 1, .w1c, 0⟩, ⟨3, 1, .w1c, 0⟩, ⟨4, 1, .w1c, 0⟩, ⟨5, 1, .w1c, 0⟩, ⟨6, 1, .w1c, 0⟩]⟩, -- HR_EVT (R256)
  ⟨0x100020, [], [⟨0, 12, .rw, 0⟩]⟩, -- HR_CTX_SEL (R256)
  ⟨0x100024, [], [⟨0, 16, .rc, 0⟩, ⟨16, 16, .rc, 0⟩]⟩, -- HR_CTX_CNT (R256)
  ⟨0x100028, [], [⟨0, 16, .rc, 0⟩, ⟨16, 1, .ro, 0⟩]⟩, -- HR_CTX_EVL (R256)
  ⟨0x10002C, [], [⟨0, 12, .ro, 0⟩, ⟨12, 6, .ro, 0⟩, ⟨18, 1, .ro, 0⟩, ⟨19, 1, .ro, 0⟩, ⟨20, 3, .ro, 0⟩, ⟨31, 1, .w1c, 0⟩]⟩, -- HR_DB_LAST (R256)
  ⟨0x100030, [], [⟨0, 15, .rw, 0⟩, ⟨16, 1, .rw, 0⟩]⟩, -- HR_Q_SEL (R256)
  ⟨0x100034, [], [⟨0, 2, .ro, 0⟩, ⟨2, 1, .ro, 0⟩, ⟨4, 4, .ro, 0⟩, ⟨8, 6, .ro, 0⟩, ⟨14, 7, .ro, 0⟩]⟩, -- HR_Q_STAT (R256)
  ⟨0x100038, [], [⟨0, 16, .ro, 0⟩, ⟨16, 16, .ro, 0⟩]⟩, -- HR_Q_IDX (R256)
  ⟨0x10003C, [], [⟨0, 16, .ro, 0⟩, ⟨16, 12, .ro, 0⟩]⟩, -- HR_Q_CIDX (R256)
  ⟨0x100040, [], [⟨0, 16, .rc, 0⟩]⟩, -- HR_CFG_REJ (R256)
  ⟨0x100044, [], [⟨0, 32, .rc, 0⟩]⟩, -- HR_NT_FAIL (R256)
  ⟨0x101000, [], [⟨0, 12, .rw, 0⟩]⟩, -- CX_SEL (R279)
  ⟨0x101004, [], [⟨0, 3, .ro, 0⟩, ⟨3, 1, .ro, 0⟩, ⟨4, 1, .ro, 0⟩, ⟨8, 7, .ro, 0⟩, ⟨16, 7, .ro, 0⟩, ⟨24, 8, .rc, 0⟩]⟩, -- CX_STAT (R279)
  ⟨0x101008, [], [⟨0, 32, .rwl, 0⟩]⟩, -- CX_OWNER (R279)
  ⟨0x10100C, [], [⟨0, 8, .rwl, 0⟩, ⟨8, 1, .rwl, 0⟩]⟩, -- CX_PARAM (R279)
  ⟨0x101010, [], [⟨0, 1, .wo, 0⟩, ⟨1, 1, .ro, 0⟩, ⟨8, 8, .ro, 0⟩, ⟨16, 16, .rc, 0⟩]⟩, -- CX_COMMIT (R279)
  ⟨0x101014, [], [⟨0, 6, .rw, 0⟩, ⟨8, 1, .rw, 0⟩]⟩, -- CX_QMAP_SEL (R279)
  ⟨0x101018, [], [⟨0, 15, .ro, 0⟩, ⟨31, 1, .ro, 0⟩]⟩, -- CX_QMAP (R279)
  ⟨0x10101C, [], [⟨0, 16, .rw, 10000⟩, ⟨16, 16, .rw, 10000⟩]⟩, -- CX_LIMITS (R279)
  ⟨0x101020, [], [⟨0, 16, .ro, 32768⟩, ⟨16, 16, .ro, 32768⟩]⟩, -- CX_POOL (R279)
  ⟨0x101024, [], [⟨0, 13, .ro, 0⟩]⟩, -- CX_COUNT (R279)
  ⟨0x101028, [], [⟨0, 3, .ro, 0⟩, ⟨4, 12, .ro, 0⟩]⟩, -- CX_IMG_ERR (R279)
  ⟨0x10102C, [], [⟨0, 1, .w1c, 0⟩, ⟨1, 1, .w1c, 0⟩, ⟨2, 1, .w1c, 0⟩, ⟨3, 1, .w1c, 0⟩, ⟨4, 1, .w1c, 0⟩]⟩ -- CX_EVT (R279)
]

/-- Registers of setup-window offsets 0x140000 to 0x15FFFF. -/
def cctbRegs : List RegDesc := [
  ⟨0x140400, [(256, 4)], [⟨0, 6, .rw, 0⟩, ⟨8, 1, .rw, 0⟩, ⟨16, 7, .rw, 0⟩, ⟨23, 1, .rw, 0⟩]⟩, -- CC_MASTER (R281)
  ⟨0x148000, [(256, 128), (16, 4)], [⟨0, 32, .rw, 0⟩]⟩, -- CC_W (R281)
  ⟨0x148040, [(256, 128)], []⟩, -- CC_CLAIM (R281)
  ⟨0x148044, [(256, 128)], [⟨0, 32, .wo, 0⟩]⟩, -- CC_COMMIT (R281)
  ⟨0x148048, [(256, 128)], [⟨0, 32, .wo, 0⟩]⟩, -- CC_DONE (R281)
  ⟨0x14804C, [(256, 128)], [⟨0, 16, .wo, 0⟩, ⟨16, 16, .wo, 0⟩]⟩, -- CC_RELEASE (R281)
  ⟨0x148050, [(256, 128)], []⟩, -- CC_STAT (R281)
  ⟨0x148054, [(256, 128)], [⟨0, 7, .rw, 64⟩]⟩, -- CC_CFG (R281)
  ⟨0x148058, [(256, 128)], [⟨0, 4, .ro, 0⟩, ⟨4, 5, .ro, 0⟩]⟩, -- CC_RESULT (R281)
  ⟨0x140000, [], [⟨0, 16, .rw, 100⟩]⟩, -- CC_CTRL (R290)
  ⟨0x140004, [], [⟨0, 1, .w1c, 0⟩, ⟨1, 1, .w1c, 0⟩, ⟨2, 1, .w1c, 0⟩]⟩, -- CC_EVT (R290)
  ⟨0x140008, [], [⟨0, 8, .wo, 0⟩]⟩, -- CC_BREAK (R290)
  ⟨0x14000C, [], [⟨0, 32, .rc, 0⟩]⟩, -- CC_REJ (R290)
  ⟨0x140010, [], [⟨0, 16, .rc, 0⟩, ⟨16, 16, .rc, 0⟩]⟩, -- CC_EXP_CNT (R290)
  ⟨0x140014, [], [⟨0, 7, .rw, 0⟩]⟩, -- CC_PEND_SEL (R290)
  ⟨0x140020, [(8, 4)], [⟨0, 32, .ro, 0⟩]⟩, -- CC_PEND (R290)
  ⟨0x150000, [(1024, 16)], []⟩, -- TB_ACQ (R291)
  ⟨0x150004, [(1024, 16)], [⟨0, 16, .wo, 0⟩, ⟨16, 16, .wo, 0⟩]⟩, -- TB_REL (R291)
  ⟨0x150008, [(1024, 16)], [⟨16, 9, .ro, 0⟩, ⟨28, 1, .ro, 0⟩, ⟨30, 1, .ro, 0⟩]⟩, -- TB_STAT (R291)
  ⟨0x15000C, [(1024, 16)], [⟨0, 32, .wo, 0⟩]⟩, -- TB_UNWANT (R291)
  ⟨0x141000, [], [⟨0, 16, .rw, 10⟩]⟩, -- TB_CTRL (R296)
  ⟨0x141004, [], [⟨0, 1, .w1c, 0⟩, ⟨1, 1, .w1c, 0⟩]⟩, -- TB_EVT (R296)
  ⟨0x141008, [], [⟨0, 10, .wo, 0⟩]⟩, -- TB_FORCE (R296)
  ⟨0x14100C, [], [⟨0, 9, .ro, 0⟩, ⟨9, 10, .ro, 0⟩, ⟨19, 10, .ro, 0⟩]⟩, -- TB_CYC (R296)
  ⟨0x141010, [], [⟨0, 32, .rc, 0⟩]⟩, -- TB_REJ (R296)
  ⟨0x141014, [], [⟨0, 16, .rc, 0⟩, ⟨16, 16, .rc, 0⟩]⟩, -- TB_CYC_CNT (R296)
  ⟨0x141040, [(9, 4)], [⟨0, 32, .ro, 0⟩]⟩, -- TB_CYC_MASK (R296)
  ⟨0x141400, [(257, 4)], [⟨0, 10, .ro, 0⟩, ⟨31, 1, .ro, 0⟩]⟩ -- TB_WANT (R296)
]

/-- Registers of setup-window offsets 0x160000 to 0x16FFFF. -/
def lgRegs : List RegDesc := [
  ⟨0x160000, [], [⟨0, 12, .rw, 60⟩, ⟨16, 16, .rw, 100⟩]⟩, -- LG_CFG (R313)
  ⟨0x160004, [], [⟨9, 23, .rw, 0⟩]⟩, -- LG_RING_LO (R313)
  ⟨0x160008, [], [⟨0, 25, .rw, 0⟩]⟩, -- LG_RING_HI (R313)
  ⟨0x16000C, [], [⟨0, 1, .rw, 0⟩, ⟨8, 4, .rw, 6⟩]⟩, -- LG_RING_CFG (R313)
  ⟨0x160010, [], [⟨0, 16, .ro, 0⟩]⟩, -- LG_PI (R313)
  ⟨0x160014, [], [⟨0, 16, .rw, 0⟩]⟩, -- LG_CI (R313)
  ⟨0x160018, [], [⟨0, 1, .ro, 0⟩, ⟨1, 1, .ro, 0⟩, ⟨2, 1, .ro, 0⟩, ⟨3, 7, .ro, 64⟩]⟩, -- LG_STAT (R313)
  ⟨0x16001C, [], [⟨0, 32, .ro, 0⟩]⟩, -- LG_SEQ (R313)
  ⟨0x160020, [], [⟨0, 1, .w1c, 0⟩, ⟨1, 1, .w1c, 0⟩, ⟨2, 1, .w1c, 0⟩, ⟨3, 1, .w1c, 0⟩, ⟨4, 1, .w1c, 0⟩]⟩, -- LG_EVT (R313)
  ⟨0x160024, [], [⟨0, 3, .ro, 0⟩, ⟨3, 1, .ro, 0⟩, ⟨4, 12, .ro, 0⟩]⟩, -- LG_AUDIT (R313)
  ⟨0x160028, [], [⟨0, 32, .ro, 0⟩]⟩, -- LG_AUDIT_SEQ (R313)
  ⟨0x16002C, [], [⟨0, 32, .rc, 0⟩]⟩, -- LG_LATE (R313)
  ⟨0x160030, [], [⟨0, 16, .rc, 0⟩, ⟨16, 16, .rc, 0⟩]⟩, -- LG_SKIP (R313)
  ⟨0x160040, [], [⟨0, 12, .rw, 0⟩, ⟨16, 1, .rw, 0⟩, ⟨17, 1, .rw, 0⟩]⟩, -- LG_SEL (R313)
  ⟨0x160100, [(30, 8)], [⟨0, 32, .ro, 0⟩]⟩, -- LG_VAL_LO (R313)
  ⟨0x160104, [(30, 8)], [⟨0, 32, .ro, 0⟩]⟩ -- LG_VAL_HI (R313)
]

/-- Registers of setup-window offsets 0x170000 to 0x17FFFF. -/
def tmRegs : List RegDesc := [
  ⟨0x170000, [], [⟨0, 1, .rw, 0⟩, ⟨1, 1, .rw, 0⟩, ⟨2, 1, .rw, 0⟩, ⟨3, 1, .rw, 0⟩, ⟨4, 1, .rw, 0⟩, ⟨8, 3, .rw, 4⟩]⟩, -- TM_CTRL (R331)
  ⟨0x170004, [], [⟨0, 32, .rw, 0xa0000000⟩]⟩, -- TM_INCR (R331)
  ⟨0x170008, [], [⟨0, 16, .ro, 0⟩]⟩, -- TM_NOW_FRAC (R331)
  ⟨0x17000C, [], [⟨0, 30, .ro, 0⟩]⟩, -- TM_NOW_NS (R331)
  ⟨0x170010, [], [⟨0, 32, .ro, 0⟩]⟩, -- TM_NOW_S_LO (R331)
  ⟨0x170014, [], [⟨0, 16, .ro, 0⟩]⟩, -- TM_NOW_S_HI (R331)
  ⟨0x170018, [], [⟨0, 30, .rw, 0⟩]⟩, -- TM_SET_NS (R331)
  ⟨0x17001C, [], [⟨0, 32, .rw, 0⟩]⟩, -- TM_SET_S_LO (R331)
  ⟨0x170020, [], [⟨0, 16, .rw, 0⟩]⟩, -- TM_SET_S_HI (R331)
  ⟨0x170024, [], [⟨0, 32, .rw, 0⟩]⟩, -- TM_OFFSET (R331)
  ⟨0x170028, [], [⟨0, 1, .wo, 0⟩, ⟨1, 1, .wo, 0⟩, ⟨2, 1, .wo, 0⟩]⟩, -- TM_CMD (R331)
  ⟨0x17002C, [], [⟨0, 1, .ro, 1⟩, ⟨1, 1, .ro, 0⟩, ⟨2, 1, .ro, 0⟩, ⟨3, 1, .ro, 1⟩, ⟨4, 1, .ro, 0⟩, ⟨8, 3, .ro, 0⟩]⟩, -- TM_STAT (R331)
  ⟨0x170030, [], [⟨0, 30, .ro, 0⟩]⟩, -- TM_PPS_CAP_NS (R331)
  ⟨0x170034, [], [⟨0, 32, .ro, 0⟩]⟩, -- TM_PPS_CAP_S (R331)
  ⟨0x170038, [], [⟨0, 32, .ro, 0⟩]⟩, -- TM_PPS_ERR (R331)
  ⟨0x17003C, [], [⟨0, 16, .rw, 0⟩, ⟨16, 16, .rw, 100⟩]⟩, -- TM_PPS_CFG (R331)
  ⟨0x170040, [], [⟨0, 32, .rw, 1000⟩]⟩, -- TM_STEP_NS (R331)
  ⟨0x170044, [], [⟨0, 32, .ro, 0⟩]⟩, -- TM_TOD_S_LO (R331)
  ⟨0x170048, [], [⟨0, 16, .ro, 0⟩]⟩, -- TM_TOD_S_HI (R331)
  ⟨0x170050, [], [⟨0, 32, .rw, 0x77359400⟩]⟩, -- TM_AON_PERIOD (R331)
  ⟨0x170054, [], [⟨0, 32, .ro, 0⟩]⟩, -- TM_AON_MEAS (R331)
  ⟨0x170058, [], [⟨0, 32, .ro, 0⟩]⟩, -- TM_AON_CNT_LO (R331)
  ⟨0x17005C, [], [⟨0, 32, .ro, 0⟩]⟩, -- TM_AON_CNT_HI (R331)
  ⟨0x170060, [], [⟨0, 32, .ro, 0⟩]⟩, -- TM_SLEEP_LO (R331)
  ⟨0x170064, [], [⟨0, 32, .ro, 0⟩]⟩, -- TM_SLEEP_HI (R331)
  ⟨0x170100, [(32, 4)], [⟨0, 32, .rw, 0⟩]⟩, -- TM_RX_CORR (R331)
  ⟨0x170180, [(32, 4)], [⟨0, 32, .rw, 0⟩]⟩, -- TM_TX_CORR (R331)
  ⟨0x170070, [], [⟨0, 1, .w1c, 0⟩, ⟨1, 1, .w1c, 0⟩, ⟨2, 1, .w1c, 0⟩, ⟨3, 1, .w1c, 0⟩, ⟨4, 1, .w1c, 0⟩, ⟨5, 1, .w1c, 0⟩]⟩, -- TM_EVT (R331)
  ⟨0x170074, [], [⟨0, 16, .rc, 0⟩, ⟨16, 16, .rc, 0⟩]⟩, -- TM_CFG_REJ (R331)
  ⟨0x170078, [], [⟨0, 32, .rc, 0⟩]⟩ -- TM_PPS_GLITCH (R331)
]

/-- Registers of setup-window offsets 0x180000 to 0x1BFFFF. -/
def hbRegs : List RegDesc := [
  ⟨0x180000, [], [⟨0, 1, .rw, 0⟩, ⟨16, 16, .rw, 100⟩]⟩, -- HB_CTRL (R349)
  ⟨0x180004, [], [⟨0, 1, .w1c, 0⟩, ⟨1, 1, .w1c, 0⟩, ⟨2, 1, .w1c, 0⟩, ⟨3, 1, .w1c, 0⟩]⟩, -- HB_EVT (R349)
  ⟨0x180008, [], [⟨0, 32, .rc, 0⟩]⟩, -- HB_IGN_CNT (R349)
  ⟨0x18000C, [], [⟨0, 32, .rc, 0⟩]⟩, -- HB_REDIR_CNT (R349)
  ⟨0x180010, [], [⟨0, 16, .rc, 0⟩]⟩, -- HB_CFG_REJ (R349)
  ⟨0x180014, [], [⟨0, 12, .wo, 0⟩]⟩, -- HB_SW_SET (R349)
  ⟨0x180100, [(32, 4)], [⟨0, 12, .rw, 0⟩, ⟨31, 1, .rw, 0⟩]⟩, -- HB_WATCH (R349)
  ⟨0x180180, [], [⟨0, 5, .ro, 0⟩, ⟨31, 1, .w1c, 0⟩]⟩, -- HB_WAKE_STAT (R349)
  ⟨0x182000, [(80, 4)], [⟨0, 32, .ro, 0⟩]⟩, -- HB_PEND (R349)
  ⟨0x182200, [(80, 4)], [⟨0, 32, .ro, 0⟩]⟩, -- HB_ACTIVE (R349)
  ⟨0x184000, [(2560, 4)], [⟨0, 1, .rw, 0⟩, ⟨1, 1, .ro, 0⟩, ⟨8, 7, .rw, 64⟩, ⟨16, 1, .ro, 0⟩, ⟨17, 1, .ro, 0⟩, ⟨18, 1, .ro, 0⟩, ⟨19, 1, .ro, 0⟩, ⟨20, 7, .ro, 64⟩]⟩, -- HB_SRC_CFG (R349)
  ⟨0x187000, [(160, 4)], [⟨0, 16, .rw, 0⟩, ⟨16, 1, .ro, 0⟩]⟩, -- HB_GRP_CFG (R349)
  ⟨0x188000, [(65, 32)], []⟩, -- HB_CLAIM (R349)
  ⟨0x188004, [(65, 32)], [⟨0, 12, .wo, 0⟩, ⟨12, 20, .wo, 0⟩]⟩, -- HB_COMPLETE (R349)
  ⟨0x188008, [(65, 32)], [⟨0, 1, .ro, 0⟩, ⟨1, 1, .ro, 0⟩, ⟨2, 1, .ro, 0⟩, ⟨3, 1, .ro, 0⟩, ⟨4, 12, .ro, 0⟩]⟩ -- HB_TGT_STAT (R349)
]

/-- Registers of setup-window offsets 0x1C0000 to 0x1CFFFF. -/
def mdcuRegs : List RegDesc := [
  ⟨0x1C0000, [], [⟨0, 8, .w1c, 0⟩, ⟨8, 8, .w1c, 0⟩]⟩, -- MD_EVT (R358)
  ⟨0x1C0004, [], [⟨0, 16, .rc, 0⟩]⟩, -- MD_CFG_REJ (R358)
  ⟨0x1C0100, [(8, 64)], [⟨5, 27, .rw, 0⟩]⟩, -- MD_CH_DESC_LO (R358)
  ⟨0x1C0104, [(8, 64)], [⟨0, 25, .rw, 0⟩, ⟨25, 2, .rw, 0⟩]⟩, -- MD_CH_DESC_HI (R358)
  ⟨0x1C0108, [(8, 64)], [⟨0, 1, .wo, 0⟩, ⟨1, 1, .wo, 0⟩]⟩, -- MD_CH_CTRL (R358)
  ⟨0x1C010C, [(8, 64)], [⟨0, 16, .rw, 4096⟩]⟩, -- MD_CH_CFG (R358)
  ⟨0x1C0110, [(8, 64)], [⟨0, 2, .ro, 0⟩, ⟨4, 3, .ro, 0⟩, ⟨16, 16, .ro, 0⟩]⟩, -- MD_CH_STAT (R358)
  ⟨0x1C0114, [(8, 64)], [⟨5, 27, .ro, 0⟩]⟩, -- MD_CH_CUR_LO (R358)
  ⟨0x1C0118, [(8, 64)], [⟨0, 27, .ro, 0⟩]⟩, -- MD_CH_CUR_HI (R358)
  ⟨0x1C011C, [(8, 64)], [⟨0, 32, .ro, 0⟩]⟩, -- MD_CH_FAIL_LO (R358)
  ⟨0x1C0120, [(8, 64)], [⟨0, 27, .ro, 0⟩]⟩, -- MD_CH_FAIL_HI (R358)
  ⟨0x1C0124, [(8, 64)], [⟨0, 32, .rc, 0⟩]⟩, -- MD_CH_CNT (R358)
  ⟨0x1C8000, [(16, 64)], [⟨0, 8, .rw, 0⟩, ⟨8, 2, .rw, 1⟩, ⟨10, 2, .rw, 0⟩, ⟨12, 1, .rw, 0⟩, ⟨13, 1, .rw, 1⟩]⟩, -- CU_CFG (R362)
  ⟨0x1C8004, [(16, 64)], [⟨0, 1, .wo, 0⟩, ⟨1, 1, .wo, 0⟩, ⟨2, 1, .wo, 0⟩]⟩, -- CU_CTRL (R362)
  ⟨0x1C8008, [(16, 64)], [⟨0, 2, .ro, 0⟩, ⟨2, 1, .ro, 0⟩]⟩, -- CU_STAT (R362)
  ⟨0x1C800C, [(16, 64)], [⟨0, 24, .rw, 0⟩]⟩, -- CU_COUNT (R362)
  ⟨0x1C8010, [(16, 64)], [⟨0, 32, .rw, 0⟩]⟩, -- CU_RUN_LO (R362)
  ⟨0x1C8014, [(16, 64)], [⟨0, 32, .rw, 0⟩]⟩, -- CU_RUN_HI (R362)
  ⟨0x1C8018, [(16, 64)], [⟨0, 32, .rw, 0⟩]⟩, -- CU_EXPECT_LO (R362)
  ⟨0x1C801C, [(16, 64)], [⟨0, 32, .rw, 0⟩]⟩, -- CU_EXPECT_HI (R362)
  ⟨0x1C8020, [(16, 64)], [⟨0, 32, .ro, 0⟩]⟩, -- CU_RESULT_LO (R362)
  ⟨0x1C8024, [(16, 64)], [⟨0, 32, .ro, 0⟩]⟩, -- CU_RESULT_HI (R362)
  ⟨0x1C8028, [(16, 64)], [⟨0, 32, .ro, 0⟩]⟩, -- CU_BYTES (R362)
  ⟨0x1C802C, [(16, 64)], [⟨0, 16, .rc, 0⟩, ⟨16, 16, .rc, 0⟩]⟩, -- CU_CNT (R362)
  ⟨0x1C8800, [], [⟨0, 16, .w1c, 0⟩]⟩, -- CU_EVT (R362)
  ⟨0x1C8804, [], [⟨0, 16, .rc, 0⟩]⟩ -- CU_CFG_REJ (R362)
]

/-- Registers of setup-window offsets 0x1D0000 to 0x1DFFFF. -/
def pcRegs : List RegDesc := [
  ⟨0x1D0000, [], [⟨0, 1, .rw, 0⟩, ⟨1, 1, .wo, 0⟩, ⟨2, 1, .wo, 0⟩, ⟨3, 1, .wo, 0⟩, ⟨8, 1, .ro, 0⟩, ⟨9, 1, .ro, 0⟩, ⟨16, 16, .rc, 0⟩]⟩, -- PC_CTRL (R384)
  ⟨0x1D0004, [], [⟨12, 20, .rw, 0⟩]⟩, -- PC_EXPORT_LO (R384)
  ⟨0x1D0008, [], [⟨0, 25, .rw, 0⟩]⟩, -- PC_EXPORT_HI (R384)
  ⟨0x1D0040, [(32, 4)], [⟨0, 32, .w1c, 0⟩]⟩, -- PC_OVF (R384)
  ⟨0x1D0100, [(8, 32)], [⟨0, 1, .rw, 0⟩, ⟨1, 1, .rw, 0⟩, ⟨2, 1, .rw, 0⟩, ⟨3, 1, .rw, 0⟩, ⟨4, 1, .rw, 0⟩, ⟨8, 8, .rw, 0⟩, ⟨16, 8, .rw, 255⟩]⟩, -- PC_FLT_CFG (R384)
  ⟨0x1D0104, [(8, 32)], [⟨0, 32, .rw, 0⟩]⟩, -- PC_FLT_BASE_LO (R384)
  ⟨0x1D0108, [(8, 32)], [⟨0, 32, .rw, 0⟩]⟩, -- PC_FLT_BASE_HI (R384)
  ⟨0x1D010C, [(8, 32)], [⟨0, 32, .rw, 0⟩]⟩, -- PC_FLT_LIMIT_LO (R384)
  ⟨0x1D0110, [(8, 32)], [⟨0, 32, .rw, 0⟩]⟩, -- PC_FLT_LIMIT_HI (R384)
  ⟨0x1D1000, [(1024, 4)], [⟨0, 4, .rw, 0⟩]⟩, -- PC_EV_CFG (R384)
  ⟨0x1D2000, [(32, 4)], [⟨0, 10, .rw, 0⟩, ⟨31, 1, .rw, 0⟩]⟩, -- PC_WIN_MAP (R384)
  ⟨0x1D4000, [(1024, 8)], [⟨0, 32, .ro, 0⟩]⟩, -- PC_CNT_LO (R384)
  ⟨0x1D4004, [(1024, 8)], [⟨0, 32, .ro, 0⟩]⟩, -- PC_CNT_HI (R384)
  ⟨0x1D6000, [(1024, 8)], [⟨0, 32, .ro, 0⟩]⟩, -- PC_SNAP_LO (R384)
  ⟨0x1D6004, [(1024, 8)], [⟨0, 32, .ro, 0⟩]⟩ -- PC_SNAP_HI (R384)
]

/-- Registers of setup-window offsets 0x1E0000 to 0x1EFFFF, part 0. -/
def nystkwRegs0 : List RegDesc := [
  ⟨0x1E0000, [], [⟨0, 1, .wo, 0⟩, ⟨1, 1, .w1s, 0⟩, ⟨2, 1, .rw, 0⟩, ⟨3, 1, .rw, 1⟩]⟩, -- NY_CTRL (R384)
  ⟨0x1E0004, [], [⟨0, 2, .ro, 0⟩, ⟨2, 1, .ro, 0⟩]⟩, -- NY_STAT (R384)
  ⟨0x1E0008, [], [⟨0, 24, .rw, 0x186a0⟩]⟩, -- NY_WDT (R384)
  ⟨0x1E000C, [], [⟨0, 32, .wo, 0⟩]⟩, -- NY_WDT_KICK (R384)
  ⟨0x1E0010, [], [⟨0, 32, .ro, 0⟩]⟩, -- NY_MTIME_LO (R384)
  ⟨0x1E0014, [], [⟨0, 32, .ro, 0⟩]⟩, -- NY_MTIME_HI (R384)
  ⟨0x1E0018, [], [⟨0, 32, .rw, 0xffffffff⟩]⟩, -- NY_MTIMECMP_LO (R384)
  ⟨0x1E001C, [], [⟨0, 32, .rw, 0xffffffff⟩]⟩, -- NY_MTIMECMP_HI (R384)
  ⟨0x1E0020, [], [⟨0, 1, .w1c, 0⟩, ⟨1, 1, .w1c, 0⟩, ⟨2, 1, .w1c, 0⟩, ⟨3, 1, .w1c, 0⟩, ⟨4, 1, .w1c, 0⟩, ⟨5, 1, .w1c, 0⟩, ⟨6, 1, .w1c, 0⟩, ⟨7, 1, .w1c, 0⟩, ⟨8, 1, .w1c, 0⟩, ⟨9, 1, .w1c, 0⟩, ⟨12, 1, .w1c, 0⟩, ⟨13, 1, .w1c, 0⟩]⟩, -- NY_EVT (R384)
  ⟨0x1E0024, [], [⟨0, 16, .rc, 0⟩, ⟨16, 16, .rc, 0⟩]⟩, -- NY_ECC (R384)
  ⟨0x1E0028, [], [⟨0, 32, .ro, 0⟩]⟩, -- NY_ECC_ADDR (R384)
  ⟨0x1E0100, [(24, 4)], [⟨0, 12, .ro, 0⟩]⟩, -- NY_THERM (R384)
  ⟨0x1E0160, [], [⟨0, 12, .ro, 0⟩, ⟨16, 5, .ro, 0⟩, ⟨24, 2, .ro, 0⟩]⟩, -- NY_THERM_MAX (R384)
  ⟨0x1E0180, [(12, 4)], [⟨0, 12, .ro, 0⟩, ⟨16, 12, .rw, 0⟩]⟩, -- NY_DROOP (R384)
  ⟨0x1E01C0, [(12, 4)], [⟨0, 32, .rc, 0⟩]⟩, -- NY_DROOP_CNT (R384)
  ⟨0x1E0200, [(9, 4)], [⟨0, 21, .ro, 0⟩, ⟨30, 1, .ro, 0⟩, ⟨31, 1, .ro, 0⟩]⟩, -- NY_CLK (R384)
  ⟨0x1E0280, [(36, 4)], [⟨0, 8, .ro, 0⟩, ⟨8, 24, .ro, 0⟩]⟩, -- NY_EYE (R384)
  ⟨0x1E0310, [], [⟨0, 8, .rw, 128⟩]⟩, -- NY_EYE_THR (R384)
  ⟨0x1E0400, [], [⟨0, 11, .ro, 0⟩, ⟨16, 12, .ro, 0⟩]⟩, -- NY_LOG_HEAD (R384)
  ⟨0x1E0404, [], [⟨0, 32, .rw, 0⟩]⟩, -- NY_LOG_SEQ (R384)
  ⟨0x1E0408, [], [⟨0, 32, .rw, 0⟩]⟩, -- NY_LOG_PERSIST (R384)
  ⟨0x1E040C, [], [⟨0, 1, .rw, 0⟩]⟩, -- NY_LOG_PCFG (R384)
  ⟨0x1E0410, [], [⟨0, 16, .rc, 0⟩, ⟨16, 16, .rc, 0⟩]⟩, -- NY_LOG_LOST (R384)
  ⟨0x1E0414, [], [⟨0, 12, .rw, 1536⟩]⟩, -- NY_LOG_HI (R384)
  ⟨0x1E0420, [(16, 4)], [⟨0, 32, .rw, 0⟩]⟩, -- NY_LOG_MASK (R384)
  ⟨0x1E0460, [], [⟨0, 16, .rw, 0⟩, ⟨16, 2, .rw, 0⟩, ⟨31, 1, .wo, 0⟩]⟩, -- NY_LOG_FW_CODE (R384)
  ⟨0x1E0480, [], [⟨0, 16, .rw, 0⟩, ⟨16, 2, .rw, 0⟩, ⟨31, 1, .wo, 0⟩]⟩, -- NY_LOG_HOST_CODE (R384)
  ⟨0x1E0464, [(3, 4)], [⟨0, 32, .rw, 0⟩]⟩, -- NY_LOG_FW_ARG (R384)
  ⟨0x1E0484, [(3, 4)], [⟨0, 32, .rw, 0⟩]⟩, -- NY_LOG_HOST_ARG (R384)
  ⟨0x1E0500, [(8, 4)], [⟨0, 24, .rw, 0⟩, ⟨31, 1, .ro, 0⟩]⟩, -- NY_BG_DL (R384)
  ⟨0x1E0520, [(8, 4)], [⟨0, 32, .rc, 0⟩]⟩, -- NY_BG_MISS (R384)
  ⟨0x1E1000, [], [⟨0, 8, .ro, 64⟩, ⟨8, 1, .ro, 0⟩, ⟨9, 1, .ro, 0⟩, ⟨16, 8, .rw, 216⟩]⟩, -- ST_CFG (R407)
  ⟨0x1E1004, [], [⟨0, 2, .rw, 0⟩, ⟨2, 2, .rw, 0⟩, ⟨4, 1, .rw, 0⟩, ⟨5, 1, .rw, 0⟩, ⟨6, 1, .rw, 0⟩, ⟨8, 8, .rw, 0⟩, ⟨16, 8, .rw, 0⟩]⟩, -- ST_STAT (R407)
  ⟨0x1E1008, [], [⟨0, 1, .rw, 0⟩]⟩, -- ST_CTRL (R407)
  ⟨0x1E1010, [], [⟨0, 32, .rw, 0⟩]⟩, -- ST_XFER_ADDR (R407)
  ⟨0x1E1014, [], [⟨0, 18, .rw, 0⟩]⟩, -- ST_XFER_SRAM (R407)
  ⟨0x1E1018, [], [⟨0, 3, .rw, 0⟩, ⟨4, 13, .rw, 0⟩, ⟨31, 1, .wo, 0⟩]⟩, -- ST_XFER_CTRL (R407)
  ⟨0x1E101C, [], [⟨0, 1, .ro, 0⟩, ⟨1, 4, .ro, 0⟩, ⟨8, 8, .ro, 0⟩]⟩, -- ST_XFER_STAT (R407)
  ⟨0x1E1020, [], [⟨0, 8, .rw, 5⟩, ⟨16, 16, .rw, 4000⟩]⟩, -- ST_TMO (R407)
  ⟨0x1E1030, [], [⟨0, 32, .rw, 0⟩]⟩ -- ST_UPD_ADDR_LO (R407)
]

/-- Registers of setup-window offsets 0x1E0000 to 0x1EFFFF, part 1. -/
def nystkwRegs1 : List RegDesc := [
  ⟨0x1E1034, [], [⟨0, 32, .rw, 0⟩]⟩, -- ST_UPD_ADDR_HI (R407)
  ⟨0x1E1038, [], [⟨0, 20, .rw, 0⟩]⟩, -- ST_UPD_LEN (R407)
  ⟨0x1E103C, [], [⟨0, 2, .rw, 0⟩, ⟨31, 1, .wo, 0⟩]⟩, -- ST_UPD_CMD (R407)
  ⟨0x1E1040, [], [⟨0, 1, .ro, 0⟩, ⟨1, 4, .ro, 0⟩, ⟨8, 3, .ro, 0⟩, ⟨12, 1, .ro, 0⟩]⟩, -- ST_UPD_STAT (R407)
  ⟨0x1E1044, [], [⟨0, 32, .ro, 0⟩]⟩, -- ST_UPD_SEQ (R407)
  ⟨0x1E1048, [], [⟨0, 4, .wo, 0⟩, ⟨8, 3, .wo, 0⟩, ⟨12, 1, .wo, 0⟩]⟩, -- ST_UPD_FW (R407)
  ⟨0x1E1050, [], [⟨0, 1, .w1c, 0⟩, ⟨1, 1, .w1c, 0⟩, ⟨2, 1, .w1c, 0⟩, ⟨3, 1, .w1c, 0⟩, ⟨4, 1, .w1c, 0⟩, ⟨5, 1, .w1c, 0⟩, ⟨6, 1, .w1c, 0⟩, ⟨7, 1, .w1c, 0⟩]⟩, -- ST_EVT (R407)
  ⟨0x1E1054, [], [⟨0, 32, .rc, 0⟩]⟩, -- ST_REJ (R407)
  ⟨0x1E2000, [], [⟨0, 3, .rw, 0⟩, ⟨3, 1, .rw, 0⟩, ⟨4, 2, .rw, 0⟩, ⟨6, 1, .rw, 0⟩, ⟨8, 4, .rw, 0⟩]⟩, -- KW_CFG (R407)
  ⟨0x1E2004, [], [⟨0, 24, .rw, 0⟩]⟩, -- KW_LEN (R407)
  ⟨0x1E2008, [], [⟨0, 1, .wo, 0⟩, ⟨1, 1, .wo, 0⟩]⟩, -- KW_CTRL (R407)
  ⟨0x1E200C, [], [⟨0, 1, .ro, 0⟩, ⟨1, 1, .ro, 0⟩, ⟨2, 1, .ro, 0⟩, ⟨4, 4, .ro, 8⟩, ⟨8, 4, .ro, 0⟩, ⟨12, 4, .ro, 0⟩, ⟨16, 1, .ro, 0⟩, ⟨17, 1, .ro, 0⟩, ⟨18, 1, .ro, 0⟩]⟩, -- KW_STAT (R407)
  ⟨0x1E2010, [], [⟨0, 32, .wo, 0⟩]⟩, -- KW_DIN (R407)
  ⟨0x1E2014, [], [⟨0, 32, .ro, 0⟩]⟩, -- KW_DOUT (R407)
  ⟨0x1E2020, [(4, 4)], [⟨0, 32, .rw, 0⟩]⟩, -- KW_TAG (R407)
  ⟨0x1E2040, [(8, 4)], [⟨0, 32, .wo, 0⟩]⟩, -- KW_KEY_DATA (R407)
  ⟨0x1E2060, [], [⟨0, 3, .rw, 0⟩, ⟨3, 1, .rw, 0⟩, ⟨4, 1, .wo, 0⟩, ⟨5, 1, .wo, 0⟩, ⟨6, 1, .wo, 0⟩]⟩, -- KW_KEY_CTRL (R407)
  ⟨0x1E2064, [], [⟨0, 8, .ro, 0⟩, ⟨8, 8, .ro, 0⟩, ⟨16, 8, .ro, 0⟩]⟩, -- KW_KEY_STAT (R407)
  ⟨0x1E2070, [], [⟨0, 1, .w1c, 0⟩, ⟨1, 1, .w1c, 0⟩, ⟨2, 1, .w1c, 0⟩, ⟨3, 1, .w1c, 0⟩, ⟨4, 1, .w1c, 0⟩, ⟨5, 1, .w1c, 0⟩, ⟨6, 1, .w1c, 0⟩]⟩, -- KW_EVT (R407)
  ⟨0x1E2074, [], [⟨0, 32, .rc, 0⟩]⟩, -- KW_REJ (R407)
  ⟨0x1E2080, [(8, 4)], [⟨0, 32, .wo, 0⟩]⟩, -- KW_FUSE_DATA (R407)
  ⟨0x1E20A0, [], [⟨0, 1, .wo, 0⟩, ⟨1, 1, .ro, 0⟩, ⟨2, 1, .ro, 0⟩]⟩, -- KW_FUSE_CTRL (R407)
  ⟨0x1E20B0, [], [⟨0, 1, .ro, 0⟩, ⟨1, 1, .ro, 0⟩, ⟨16, 16, .rc, 0⟩]⟩ -- KW_HASP (R407)
]

/-- All registers of this region. -/
def nystkwRegs : List RegDesc := nystkwRegs0 ++ nystkwRegs1

/-- Registers of setup-window offsets 0x1F0000 to 0x1FFFFF. -/
def pwsvRegs : List RegDesc := [
  ⟨0x1F0000, [], [⟨0, 3, .wo, 0⟩, ⟨4, 1, .rw, 0⟩, ⟨5, 1, .rw, 1⟩, ⟨8, 2, .rw, 0⟩, ⟨16, 8, .rw, 50⟩]⟩, -- PW_CTRL (R424)
  ⟨0x1F0004, [], [⟨0, 3, .ro, 0⟩, ⟨3, 2, .ro, 0⟩, ⟨5, 1, .ro, 0⟩, ⟨6, 1, .ro, 0⟩, ⟨8, 3, .ro, 0⟩, ⟨12, 2, .ro, 0⟩]⟩, -- PW_STAT (R424)
  ⟨0x1F0008, [], [⟨0, 1, .w1c, 0⟩, ⟨1, 1, .w1c, 0⟩, ⟨2, 1, .w1c, 0⟩, ⟨3, 1, .w1c, 0⟩, ⟨4, 1, .w1c, 0⟩, ⟨5, 1, .w1c, 0⟩, ⟨6, 1, .w1c, 0⟩, ⟨7, 1, .w1c, 0⟩, ⟨8, 1, .w1c, 0⟩]⟩, -- PW_EVT (R424)
  ⟨0x1F000C, [], [⟨0, 5, .rw, 17⟩]⟩, -- PW_WAKE_EN (R424)
  ⟨0x1F0010, [], [⟨0, 5, .w1c, 0⟩]⟩, -- PW_WAKE_SRC (R424)
  ⟨0x1F0028, [], [⟨0, 32, .rw, 0⟩]⟩, -- PW_TIMER_LO (R424)
  ⟨0x1F002C, [], [⟨0, 32, .rw, 0⟩]⟩, -- PW_TIMER_HI (R424)
  ⟨0x1F001C, [], [⟨0, 16, .rw, 10000⟩]⟩, -- PW_ACK_US (R424)
  ⟨0x1F0020, [], [⟨0, 16, .rc, 0⟩, ⟨16, 16, .rc, 0⟩]⟩, -- PW_CNT (R424)
  ⟨0x1F0024, [], [⟨0, 1, .w1c, 0⟩, ⟨1, 3, .ro, 0⟩, ⟨8, 8, .ro, 0⟩]⟩, -- PW_BOR (R424)
  ⟨0x1F1000, [], [⟨0, 4, .wo, 0⟩, ⟨4, 12, .wo, 0⟩, ⟨16, 1, .wo, 0⟩]⟩, -- SV_OP (R445)
  ⟨0x1F1004, [], [⟨0, 1, .ro, 0⟩, ⟨1, 4, .ro, 0⟩, ⟨5, 1, .ro, 0⟩, ⟨6, 2, .ro, 0⟩, ⟨8, 4, .ro, 0⟩, ⟨12, 1, .ro, 0⟩]⟩, -- SV_STAT (R445)
  ⟨0x1F1008, [], [⟨0, 2, .ro, 0⟩, ⟨2, 1, .ro, 0⟩, ⟨4, 3, .ro, 0⟩, ⟨7, 1, .ro, 0⟩, ⟨8, 3, .ro, 0⟩, ⟨11, 1, .ro, 0⟩]⟩, -- SV_INUSE (R445)
  ⟨0x1F100C, [], [⟨0, 8, .rw, 10⟩, ⟨8, 8, .rw, 10⟩, ⟨16, 16, .rw, 100⟩]⟩, -- SV_TIME (R445)
  ⟨0x1F1010, [], [⟨0, 16, .rw, 1000⟩]⟩, -- SV_CKPT (R445)
  ⟨0x1F1014, [], [⟨0, 16, .rw, 16⟩]⟩, -- SV_ROW_THR (R445)
  ⟨0x1F1018, [], [⟨0, 16, .rc, 0⟩, ⟨16, 16, .rc, 0⟩]⟩, -- SV_SCRUB (R445)
  ⟨0x1F101C, [], [⟨0, 23, .ro, 0⟩]⟩, -- SV_COPY (R445)
  ⟨0x1F1020, [], [⟨0, 1, .w1c, 0⟩, ⟨1, 5, .w1c, 0⟩, ⟨6, 1, .w1c, 0⟩, ⟨7, 1, .w1c, 0⟩, ⟨8, 1, .w1c, 0⟩, ⟨9, 1, .w1c, 0⟩, ⟨10, 1, .w1c, 0⟩, ⟨11, 1, .w1c, 0⟩]⟩, -- SV_EVT (R445)
  ⟨0x1F1024, [], [⟨0, 12, .ro, 0⟩]⟩, -- SV_ROW_ADDR (R445)
  ⟨0x1F1028, [], [⟨0, 32, .rc, 0⟩]⟩, -- SV_REJ (R445)
  ⟨0x1F1100, [(96, 4)], [⟨0, 5, .ro, 0⟩, ⟨5, 1, .ro, 0⟩]⟩ -- SV_ROW_STAT (R445)
]

/-- Backing registers: one instance per selected crossing, channel, queue, context, ... -/
def backRegs : List RegDesc := [
  ⟨0x1000000, [(768, 8)], [⟨0, 7, .ro, 0⟩, ⟨8, 7, .ro, 0⟩, ⟨16, 4, .ro, 0⟩, ⟨31, 1, .wo, 0⟩]⟩, -- SYS_XING_STAT
  ⟨0x1000004, [(768, 8)], [⟨0, 32, .rc, 0⟩]⟩, -- SYS_XING_OVF
  ⟨0x1002000, [(32, 16)], [⟨0, 32, .rc, 0⟩]⟩, -- LN_CW_CORR_LO
  ⟨0x1002004, [(32, 16)], [⟨0, 32, .rc, 0⟩]⟩, -- LN_CW_CORR_HI
  ⟨0x1002008, [(32, 16)], [⟨0, 32, .rc, 0⟩]⟩, -- LN_CW_UNC_LO
  ⟨0x100200C, [(32, 16)], [⟨0, 32, .rc, 0⟩]⟩, -- LN_CW_UNC_HI
  ⟨0x1003000, [(36, 4)], [⟨0, 32, .rc, 0⟩]⟩, -- LN_SYM_ERR
  ⟨0x1004000, [(32, 28)], [⟨0, 32, .rc, 0⟩]⟩, -- TF_HCRC_ERR
  ⟨0x1004008, [(32, 28)], [⟨0, 32, .rc, 0⟩]⟩, -- TF_BIP_LO
  ⟨0x100400C, [(32, 28)], [⟨0, 32, .rc, 0⟩]⟩, -- TF_BIP_HI
  ⟨0x1004010, [(32, 28)], [⟨0, 32, .rc, 0⟩]⟩, -- TF_REI_LO
  ⟨0x1004014, [(32, 28)], [⟨0, 32, .rc, 0⟩]⟩, -- TF_REI_HI
  ⟨0x1004018, [(32, 28)], [⟨0, 16, .rc, 0⟩, ⟨16, 16, .rc, 0⟩]⟩, -- TF_FR_EVCNT
  ⟨0x1005000, [(32, 12)], [⟨0, 16, .rc, 0⟩, ⟨16, 16, .rc, 0⟩]⟩, -- TF_GFP_HEC
  ⟨0x1005004, [(32, 12)], [⟨0, 16, .rc, 0⟩, ⟨16, 16, .rc, 0⟩]⟩, -- TF_GFP_DISC
  ⟨0x1005008, [(32, 12)], [⟨0, 16, .rc, 0⟩, ⟨16, 16, .rc, 0⟩]⟩, -- TF_GFP_MISC
  ⟨0x1006000, [(8, 32)], [⟨0, 32, .rc, 0⟩]⟩, -- GP_HG_DUP
  ⟨0x1006004, [(8, 32)], [⟨0, 32, .rc, 0⟩]⟩, -- GP_HG_ALONE
  ⟨0x1006008, [(8, 32)], [⟨0, 32, .rc, 0⟩]⟩, -- GP_HG_REPAIR
  ⟨0x100600C, [(8, 32)], [⟨0, 16, .rc, 0⟩, ⟨16, 16, .rc, 0⟩]⟩, -- GP_HG_SW
  ⟨0x1006010, [(8, 32)], [⟨0, 32, .rc, 0⟩]⟩, -- GP_HIT_BYTES_LO
  ⟨0x1006014, [(8, 32)], [⟨0, 32, .rc, 0⟩]⟩, -- GP_HIT_BYTES_HI
  ⟨0x1006018, [(8, 32)], [⟨0, 16, .rc, 0⟩, ⟨16, 16, .rc, 0⟩]⟩, -- GP_HG_MISC
  ⟨0x100601C, [(8, 32)], [⟨0, 32, .rc, 0⟩]⟩, -- GP_HG_FULL
  ⟨0x1007000, [(32, 12)], [⟨0, 32, .ro, 0⟩]⟩, -- GP_SEC_BIP
  ⟨0x1007004, [(32, 12)], [⟨0, 32, .ro, 0⟩]⟩, -- GP_SEC_HCRC
  ⟨0x1007008, [(32, 12)], [⟨0, 22, .ro, 0⟩, ⟨30, 1, .ro, 0⟩, ⟨31, 1, .ro, 0⟩]⟩, -- GP_SEC_FLAGS
  ⟨0x1008000, [(16, 4)], [⟨0, 32, .ro, 0⟩]⟩, -- GP_SEC_GRP
  ⟨0x1009000, [(8, 8)], [⟨0, 16, .rc, 0⟩, ⟨16, 16, .rc, 0⟩]⟩, -- GP_OH_CNT
  ⟨0x1009004, [(8, 8)], [⟨0, 16, .rc, 0⟩, ⟨16, 16, .rc, 0⟩]⟩, -- GP_OH_CNT2
  ⟨0x100A000, [(16384, 48), (6, 8)], [⟨0, 32, .rc, 0⟩]⟩, -- MT_CNT_LO
  ⟨0x100A004, [(16384, 48), (6, 8)], [⟨0, 32, .rc, 0⟩]⟩, -- MT_CNT_HI
  ⟨0x10CA000, [(65536, 12)], [⟨0, 18, .ro, 0⟩, ⟨18, 14, .ro, 0⟩]⟩, -- SC_SAMP_DEPTH
  ⟨0x10CA004, [(65536, 12)], [⟨0, 16, .ro, 0⟩, ⟨16, 16, .ro, 0⟩]⟩, -- SC_SAMP_DELAY
  ⟨0x10CA008, [(65536, 12)], [⟨0, 18, .ro, 0⟩]⟩, -- SC_SAMP_MAXD
  ⟨0x118A000, [(32, 8)], [⟨0, 32, .rc, 0⟩]⟩, -- TG_OVERRUN
  ⟨0x118A004, [(32, 8)], [⟨0, 16, .rc, 0⟩]⟩, -- TG_LATE
  ⟨0x118B000, [(4096, 8)], [⟨0, 16, .rc, 0⟩, ⟨16, 16, .rc, 0⟩]⟩, -- HR_CTX_CNT
  ⟨0x118B004, [(4096, 8)], [⟨0, 16, .rc, 0⟩, ⟨16, 1, .ro, 0⟩]⟩, -- HR_CTX_EVL
  ⟨0x1193000, [(4096, 16)], [⟨0, 3, .ro, 0⟩, ⟨3, 1, .ro, 0⟩, ⟨4, 1, .ro, 0⟩, ⟨8, 7, .ro, 0⟩, ⟨16, 7, .ro, 0⟩, ⟨24, 8, .rc, 0⟩]⟩, -- CX_STAT
  ⟨0x1193004, [(4096, 16)], [⟨0, 32, .rwl, 0⟩]⟩, -- CX_OWNER
  ⟨0x1193008, [(4096, 16)], [⟨0, 8, .rwl, 0⟩, ⟨8, 1, .rwl, 0⟩]⟩, -- CX_PARAM
  ⟨0x119300C, [(4096, 16)], [⟨0, 1, .wo, 0⟩, ⟨1, 1, .ro, 0⟩, ⟨8, 8, .ro, 0⟩, ⟨16, 16, .rc, 0⟩]⟩, -- CX_COMMIT
  ⟨0x11A3000, [(36864, 4)], [⟨0, 1, .wo, 0⟩, ⟨1, 1, .ro, 0⟩, ⟨8, 8, .ro, 0⟩, ⟨16, 16, .rc, 0⟩]⟩ -- SC_COMMIT
]

/-- A window of registers that shows one selected instance: first offset, length in bytes, first backing offset, how many
instances there are and how far apart they lie, and the select fields with the weight each has in the instance number. -/
structure SelDesc where
  lo : Nat
  span : Nat
  base : Nat
  n : Nat
  stride : Nat
  sel : List (Fld × Nat)
  deriving DecidableEq, Repr

/-- The select registers of the block and what they select (R21, R79, R100, R110, R128, R130, R132, R197, R218, R222, R256, R261). -/
def selTable : List SelDesc := [
  ⟨0x000214, 0x8, 0x1000000, 768, 8, [(⟨0x000210, 0, 10⟩, 1)]⟩, -- SYS_XING_STAT ...
  ⟨0x020510, 0x10, 0x1002000, 32, 16, [(⟨0x020504, 0, 5⟩, 1)]⟩, -- LN_CW_CORR_LO ...
  ⟨0x020520, 0x4, 0x1003000, 36, 4, [(⟨0x020504, 8, 6⟩, 1)]⟩, -- LN_SYM_ERR ...
  ⟨0x040310, 0x1C, 0x1004000, 32, 28, [(⟨0x040304, 0, 5⟩, 1)]⟩, -- TF_HCRC_ERR ...
  ⟨0x040330, 0xC, 0x1005000, 32, 12, [(⟨0x040304, 8, 5⟩, 1)]⟩, -- TF_GFP_HEC ...
  ⟨0x041410, 0x20, 0x1006000, 8, 32, [(⟨0x04140C, 0, 3⟩, 1)]⟩, -- GP_HG_DUP ...
  ⟨0x041504, 0xC, 0x1007000, 32, 12, [(⟨0x041500, 0, 5⟩, 1)]⟩, -- GP_SEC_BIP ...
  ⟨0x041510, 0x4, 0x1008000, 16, 4, [(⟨0x041500, 8, 4⟩, 1)]⟩, -- GP_SEC_GRP ...
  ⟨0x041644, 0x8, 0x1009000, 8, 8, [(⟨0x041640, 0, 3⟩, 1)]⟩, -- GP_OH_CNT ...
  ⟨0x081040, 0x30, 0x100A000, 16384, 48, [(⟨0x081000, 0, 14⟩, 1)]⟩, -- MT_CNT_LO ...
  ⟨0x0C0014, 0x4, 0x11A3000, 36864, 4, [(⟨0x0C0000, 0, 15⟩, 1), (⟨0x0C0000, 16, 1⟩, 32768)]⟩, -- SC_COMMIT
  ⟨0x0C0704, 0xC, 0x10CA000, 65536, 12, [(⟨0x0C0700, 0, 15⟩, 1), (⟨0x0C0700, 16, 1⟩, 32768)]⟩, -- SC_SAMP_DEPTH ...
  ⟨0x0C1508, 0x8, 0x118A000, 32, 8, [(⟨0x0C1504, 0, 5⟩, 1)]⟩, -- TG_OVERRUN ...
  ⟨0x100024, 0x8, 0x118B000, 4096, 8, [(⟨0x100020, 0, 12⟩, 1)]⟩, -- HR_CTX_CNT ...
  ⟨0x101004, 0x10, 0x1193000, 4096, 16, [(⟨0x101000, 0, 12⟩, 1)]⟩ -- CX_STAT ...
]

/-- The register tables of a 64 KiB page of the setup window (R446); pages from 0x100 hold the backing registers. -/
def pageRegs (page : Nat) : List RegDesc :=
  if page < 2 then sysRegs
  else if page < 4 then lnRegs
  else if page < 6 then tfgpRegs
  else if page < 8 then mcRegs
  else if page < 10 then clmtRegs
  else if page < 12 then fbRegs
  else if page < 16 then sctgRegs
  else if page < 20 then hrcxRegs
  else if page < 22 then cctbRegs
  else if page = 22 then lgRegs
  else if page = 23 then tmRegs
  else if page < 28 then hbRegs
  else if page = 28 then mdcuRegs
  else if page = 29 then pcRegs
  else if page = 30 then nystkwRegs
  else if page = 31 then pwsvRegs
  else if page < 256 then []
  else backRegs

/-- Does byte distance `r` from instance 0 hit an instance of an array with these (count, stride) pairs? -/
def dimsHit : List (Nat × Nat) → Nat → Bool
  | [], r => r == 0
  | (n, st) :: ds, r => r / st < n && dimsHit ds (r % st)

/-- Does the offset name an instance of this register? -/
def RegDesc.hit (d : RegDesc) (off : Nat) : Bool :=
  d.base ≤ off && dimsHit d.dims (off - d.base)

/-- The fields of the register at a setup-window or backing offset; none where no register lies (R11). -/
def fieldsAt (off : Nat) : List FieldDesc :=
  match (pageRegs (off / 65536)).find? (·.hit off) with
  | some d => d.fields
  | none => []

/-- Low words of the 64-bit counters, counts, times and timers (R10), with their instances as (count, stride). -/
def pairTable : List (Nat × List (Nat × Nat)) := [
  (0x000048, []), (0x020510, []), (0x020518, []), (0x040318, []), (0x040320, []), (0x041420, []),
  (0x064000, [(32, 512), (64, 8)]), (0x080400, []), (0x080408, []), (0x080410, []), (0x080418, []),
  (0x081040, [(6, 8)]), (0x160100, [(30, 8)]), (0x170058, []), (0x170060, []),
  (0x1C8010, [(16, 64)]), (0x1C8018, [(16, 64)]), (0x1C8020, [(16, 64)]),
  (0x1D0004, []), (0x1D0104, [(8, 32)]), (0x1D010C, [(8, 32)]), (0x1D4000, [(1024, 8)]), (0x1D6000, [(1024, 8)]), (0x1E0010, []), (0x1E0018, []), (0x1F0028, [])]

/-- Is this the low word of a 64-bit register? -/
def isPairLow (off : Nat) : Bool := pairTable.any (fun e => e.1 ≤ off && dimsHit e.2 (off - e.1))

/-- Is this the high word of a 64-bit register? -/
def isPairHigh (off : Nat) : Bool := 4 ≤ off && isPairLow (off - 4)

/-- Reset values of `NY_BG_DL[a].DL_US` (R382), which differ by agent. -/
def bgDeadlineReset : List Nat := [0, 10000, 0, 100000, 100000, 100000, 1000, 0]

/-- What a field holds at reset, by its key: the value of the spec's register tables, zero where no field is listed. -/
def fieldReset (k : Nat) : Nat :=
  if 0x1E0500 ≤ k / 32 && k / 32 < 0x1E0520 && k % 32 == 0 then bgDeadlineReset.getD ((k / 32 - 0x1E0500) / 4) 0
  else match (fieldsAt (k / 32)).find? (fun f => f.lo == k % 32) with
    | some f => f.reset
    | none => 0

end Sys2Proof.Machine
end

