-- ==== Sys2Proof/Machine/Fields.lean ====
section
/-! DEFINITION. The spec's names for the fields of its registers, `REGISTER_FIELD` (R5, R8, R446). A field of a register
array takes the indices of the array; a field shown through a select register takes the instance's number. -/

namespace Sys2Proof.Machine

set_option linter.unusedVariables false

/-- `SYS_ISLAND_CLK.SLICE_RUN`, RO (R21). -/
def SYS_ISLAND_CLK_SLICE_RUN : Fld := ⟨0x000200, 0, 5⟩
/-- `SYS_ISLAND_CLK.CORE_RUN`, RO (R21). -/
def SYS_ISLAND_CLK_CORE_RUN : Fld := ⟨0x000200, 5, 1⟩
/-- `SYS_ISLAND_CLK.FABRIC_RUN`, RO (R21). -/
def SYS_ISLAND_CLK_FABRIC_RUN : Fld := ⟨0x000200, 6, 1⟩
/-- `SYS_ISLAND_CLK.TABLE_RUN`, RO (R21). -/
def SYS_ISLAND_CLK_TABLE_RUN : Fld := ⟨0x000200, 7, 1⟩
/-- `SYS_ISLAND_CLK.AON_RUN`, RO (R21). -/
def SYS_ISLAND_CLK_AON_RUN : Fld := ⟨0x000200, 8, 1⟩
/-- `SYS_LANE_CLK_LO.LANE_RUN_LO`, RO (R21). -/
def SYS_LANE_CLK_LO_LANE_RUN_LO : Fld := ⟨0x000204, 0, 32⟩
/-- `SYS_LANE_CLK_HI.LANE_RUN_HI`, RO (R21). -/
def SYS_LANE_CLK_HI_LANE_RUN_HI : Fld := ⟨0x000208, 0, 4⟩
/-- `SYS_XING_SEL.XING`, RW (R21). -/
def SYS_XING_SEL_XING : Fld := ⟨0x000210, 0, 10⟩
/-- `SYS_XING_STAT.OCC`, RO (R21). -/
def SYS_XING_STAT_OCC (i : Nat) : Fld := ⟨0x1000000 + 8 * i, 0, 7⟩
/-- `SYS_XING_STAT.OCC_MAX`, RO (R21). -/
def SYS_XING_STAT_OCC_MAX (i : Nat) : Fld := ⟨0x1000000 + 8 * i, 8, 7⟩
/-- `SYS_XING_STAT.LAT_MAX`, RO (R21). -/
def SYS_XING_STAT_LAT_MAX (i : Nat) : Fld := ⟨0x1000000 + 8 * i, 16, 4⟩
/-- `SYS_XING_STAT.CLR`, WO (R21). -/
def SYS_XING_STAT_CLR (i : Nat) : Fld := ⟨0x1000000 + 8 * i, 31, 1⟩
/-- `SYS_XING_OVF.OVF`, RC (R21). -/
def SYS_XING_OVF_OVF (i : Nat) : Fld := ⟨0x1000004 + 8 * i, 0, 32⟩
/-- `SYS_SLICE_MAP.MAP`, RO (R21). -/
def SYS_SLICE_MAP_MAP : Fld := ⟨0x000220, 0, 20⟩
/-- `SYS_ID.PART`, RO (R45). -/
def SYS_ID_PART : Fld := ⟨0x000000, 0, 16⟩
/-- `SYS_ID.MAJOR`, RO (R45). -/
def SYS_ID_MAJOR : Fld := ⟨0x000000, 16, 8⟩
/-- `SYS_ID.MINOR`, RO (R45). -/
def SYS_ID_MINOR : Fld := ⟨0x000000, 24, 8⟩
/-- `SYS_STATE.STATE`, RO (R45). -/
def SYS_STATE_STATE : Fld := ⟨0x000004, 0, 3⟩
/-- `SYS_STATE.MODE`, RO (R45). -/
def SYS_STATE_MODE : Fld := ⟨0x000004, 4, 2⟩
/-- `SYS_STATE.DEFAULTS_USED`, RO (R45). -/
def SYS_STATE_DEFAULTS_USED : Fld := ⟨0x000004, 8, 1⟩
/-- `SYS_SD_ADDR_LO.ADDR_LO`, RW (R45). -/
def SYS_SD_ADDR_LO_ADDR_LO : Fld := ⟨0x000010, 12, 20⟩
/-- `SYS_SD_ADDR_HI.ADDR_HI`, RW (R45). -/
def SYS_SD_ADDR_HI_ADDR_HI : Fld := ⟨0x000014, 0, 25⟩
/-- `SYS_SD_CTRL.SD_RELOAD`, WO (R45). -/
def SYS_SD_CTRL_SD_RELOAD : Fld := ⟨0x000018, 0, 1⟩
/-- `SYS_SD_STAT.BUSY`, RO (R45). -/
def SYS_SD_STAT_BUSY : Fld := ⟨0x00001C, 0, 1⟩
/-- `SYS_SD_STAT.RESULT`, RO (R45). -/
def SYS_SD_STAT_RESULT : Fld := ⟨0x00001C, 1, 4⟩
/-- `SYS_SD_STAT.FIELD_OFF`, RO (R45). -/
def SYS_SD_STAT_FIELD_OFF : Fld := ⟨0x00001C, 8, 12⟩
/-- `SYS_SD_SEQ.SEQ`, RO (R45). -/
def SYS_SD_SEQ_SEQ : Fld := ⟨0x000020, 0, 32⟩
/-- `SYS_HB_COUNT_LO.HB_COUNT`, RO (R45). -/
def SYS_HB_COUNT_LO_HB_COUNT : Fld := ⟨0x000048, 0, 32⟩
/-- `SYS_HB_COUNT_HI.HB_COUNT`, RO (R45). -/
def SYS_HB_COUNT_HI_HB_COUNT : Fld := ⟨0x00004C, 0, 32⟩
/-- `SYS_SD_CNT.REJECTS`, RC (R45). -/
def SYS_SD_CNT_REJECTS : Fld := ⟨0x00002C, 0, 16⟩
/-- `SYS_SD_CNT.IGNORED`, RC (R45). -/
def SYS_SD_CNT_IGNORED : Fld := ⟨0x00002C, 16, 16⟩
/-- `SYS_FAB_TIMEOUT.FAB_US`, RW (R58). -/
def SYS_FAB_TIMEOUT_FAB_US : Fld := ⟨0x000030, 0, 16⟩
/-- `SYS_FAB_TIMEOUT.TBL_US`, RW (R58). -/
def SYS_FAB_TIMEOUT_TBL_US : Fld := ⟨0x000030, 16, 16⟩
/-- `SYS_FAB_SEL.PORT`, RW (R58). -/
def SYS_FAB_SEL_PORT : Fld := ⟨0x000034, 0, 4⟩
/-- `SYS_FAB_SEL.VC`, RW (R58). -/
def SYS_FAB_SEL_VC : Fld := ⟨0x000034, 4, 2⟩
/-- `SYS_FAB_SEL.TBL`, RW (R58). -/
def SYS_FAB_SEL_TBL : Fld := ⟨0x000034, 8, 1⟩
/-- `SYS_FAB_CREDIT.GRANT`, RO (R58). -/
def SYS_FAB_CREDIT_GRANT : Fld := ⟨0x000038, 0, 8⟩
/-- `SYS_FAB_CREDIT.AVAIL`, RO (R58). -/
def SYS_FAB_CREDIT_AVAIL : Fld := ⟨0x000038, 8, 8⟩
/-- `SYS_FAB_CREDIT.OUTST`, RO (R58). -/
def SYS_FAB_CREDIT_OUTST : Fld := ⟨0x000038, 16, 8⟩
/-- `SYS_FAB_CREDIT.UP`, RO (R58). -/
def SYS_FAB_CREDIT_UP : Fld := ⟨0x000038, 31, 1⟩
/-- `SYS_FAB_EVT.TMO`, W1C (R58). -/
def SYS_FAB_EVT_TMO : Fld := ⟨0x00003C, 0, 9⟩
/-- `SYS_FAB_EVT.PROTO`, W1C (R58). -/
def SYS_FAB_EVT_PROTO : Fld := ⟨0x00003C, 9, 9⟩
/-- `SYS_FAB_EVT.AUDIT`, W1C (R58). -/
def SYS_FAB_EVT_AUDIT : Fld := ⟨0x00003C, 18, 9⟩
/-- `SYS_FAB_EVT.HB_FAIL`, W1C (R58). -/
def SYS_FAB_EVT_HB_FAIL : Fld := ⟨0x00003C, 27, 1⟩
/-- `SYS_FAB_EVT.SD_DONE`, W1C (R58). -/
def SYS_FAB_EVT_SD_DONE : Fld := ⟨0x00003C, 28, 1⟩
/-- `SYS_FAB_LATE.COUNT`, RC (R58). -/
def SYS_FAB_LATE_COUNT : Fld := ⟨0x000040, 0, 32⟩
/-- `SYS_FAB_PROTO_CNT.COUNT`, RC (R58). -/
def SYS_FAB_PROTO_CNT_COUNT : Fld := ⟨0x000044, 0, 32⟩
/-- `LN_PORT_CFG.ENABLE`, RW (R71). -/
def LN_PORT_CFG_ENABLE (i : Nat) : Fld := ⟨0x020000 + 4 * i, 0, 1⟩
/-- `LN_PORT_CFG.T_MODE`, RW (R71). -/
def LN_PORT_CFG_T_MODE (i : Nat) : Fld := ⟨0x020000 + 4 * i, 1, 1⟩
/-- `LN_TIMING.LANE_UP_US`, RW (R71). -/
def LN_TIMING_LANE_UP_US : Fld := ⟨0x020508, 0, 16⟩
/-- `LN_TIMING.LINK_UP_US`, RW (R71). -/
def LN_TIMING_LINK_UP_US : Fld := ⟨0x020508, 16, 16⟩
/-- `LN_CHAN_CFG.EN`, RW (R75). -/
def LN_CHAN_CFG_EN (i : Nat) : Fld := ⟨0x020100 + 4 * i, 0, 1⟩
/-- `LN_CHAN_CFG.SPEED`, RW (R75). -/
def LN_CHAN_CFG_SPEED (i : Nat) : Fld := ⟨0x020100 + 4 * i, 1, 3⟩
/-- `LN_CHAN_CFG.FIRST`, RW (R75). -/
def LN_CHAN_CFG_FIRST (i : Nat) : Fld := ⟨0x020100 + 4 * i, 4, 3⟩
/-- `LN_CHAN_STAT.STATE`, RO (R78). -/
def LN_CHAN_STAT_STATE (i : Nat) : Fld := ⟨0x020200 + 4 * i, 0, 2⟩
/-- `LN_CHAN_STAT.LINK`, RO (R78). -/
def LN_CHAN_STAT_LINK (i : Nat) : Fld := ⟨0x020200 + 4 * i, 2, 1⟩
/-- `LN_CHAN_STAT.LF_RX`, RO (R78). -/
def LN_CHAN_STAT_LF_RX (i : Nat) : Fld := ⟨0x020200 + 4 * i, 3, 1⟩
/-- `LN_CHAN_STAT.RF_RX`, RO (R78). -/
def LN_CHAN_STAT_RF_RX (i : Nat) : Fld := ⟨0x020200 + 4 * i, 4, 1⟩
/-- `LN_CHAN_STAT.HI_SER`, RO (R78). -/
def LN_CHAN_STAT_HI_SER (i : Nat) : Fld := ⟨0x020200 + 4 * i, 5, 1⟩
/-- `LN_CHAN_STAT.SKEW_ERR`, W1C (R78). -/
def LN_CHAN_STAT_SKEW_ERR (i : Nat) : Fld := ⟨0x020200 + 4 * i, 6, 1⟩
/-- `LN_CHAN_STAT.CFG_ERR`, W1C (R78). -/
def LN_CHAN_STAT_CFG_ERR (i : Nat) : Fld := ⟨0x020200 + 4 * i, 7, 1⟩
/-- `LN_CHAN_STAT.LINK_DOWN_CNT`, RC (R78). -/
def LN_CHAN_STAT_LINK_DOWN_CNT (i : Nat) : Fld := ⟨0x020200 + 4 * i, 16, 16⟩
/-- `LN_LANE_STAT.STATE`, RO (R78). -/
def LN_LANE_STAT_STATE (i : Nat) : Fld := ⟨0x020300 + 4 * i, 0, 2⟩
/-- `LN_LANE_STAT.SD`, RO (R78). -/
def LN_LANE_STAT_SD (i : Nat) : Fld := ⟨0x020300 + 4 * i, 2, 1⟩
/-- `LN_LANE_STAT.LOCK`, RO (R78). -/
def LN_LANE_STAT_LOCK (i : Nat) : Fld := ⟨0x020300 + 4 * i, 3, 1⟩
/-- `LN_LANE_STAT.CLK`, RO (R78). -/
def LN_LANE_STAT_CLK (i : Nat) : Fld := ⟨0x020300 + 4 * i, 4, 1⟩
/-- `LN_LANE_STAT.POS`, RO (R78). -/
def LN_LANE_STAT_POS (i : Nat) : Fld := ⟨0x020300 + 4 * i, 5, 4⟩
/-- `LN_LANE_STAT.RATE`, RO (R78). -/
def LN_LANE_STAT_RATE (i : Nat) : Fld := ⟨0x020300 + 4 * i, 9, 1⟩
/-- `LN_LANE_STAT.TX_IDLE`, RO (R78). -/
def LN_LANE_STAT_TX_IDLE (i : Nat) : Fld := ⟨0x020300 + 4 * i, 10, 1⟩
/-- `LN_LANE_STAT.STANDS_IN`, RO (R78). -/
def LN_LANE_STAT_STANDS_IN (i : Nat) : Fld := ⟨0x020300 + 4 * i, 11, 1⟩
/-- `LN_LANE_STAT.DOWN_CNT`, RC (R78). -/
def LN_LANE_STAT_DOWN_CNT (i : Nat) : Fld := ⟨0x020300 + 4 * i, 16, 16⟩
/-- `LN_CNT_SEL.CHAN`, RW (R79). -/
def LN_CNT_SEL_CHAN : Fld := ⟨0x020504, 0, 5⟩
/-- `LN_CNT_SEL.LANE`, RW (R79). -/
def LN_CNT_SEL_LANE : Fld := ⟨0x020504, 8, 6⟩
/-- `LN_CW_CORR_LO.COUNT`, RC (R79). -/
def LN_CW_CORR_LO_COUNT (i : Nat) : Fld := ⟨0x1002000 + 16 * i, 0, 32⟩
/-- `LN_CW_CORR_HI.COUNT`, RC (R79). -/
def LN_CW_CORR_HI_COUNT (i : Nat) : Fld := ⟨0x1002004 + 16 * i, 0, 32⟩
/-- `LN_CW_UNC_LO.COUNT`, RC (R79). -/
def LN_CW_UNC_LO_COUNT (i : Nat) : Fld := ⟨0x1002008 + 16 * i, 0, 32⟩
/-- `LN_CW_UNC_HI.COUNT`, RC (R79). -/
def LN_CW_UNC_HI_COUNT (i : Nat) : Fld := ⟨0x100200C + 16 * i, 0, 32⟩
/-- `LN_SYM_ERR.COUNT`, RC (R79). -/
def LN_SYM_ERR_COUNT (i : Nat) : Fld := ⟨0x1003000 + 4 * i, 0, 32⟩
/-- `LN_CFG_REJ.COUNT`, RC (R79). -/
def LN_CFG_REJ_COUNT : Fld := ⟨0x020524, 0, 16⟩
/-- `LN_EVT.LANE_UP`, W1C (R79). -/
def LN_EVT_LANE_UP : Fld := ⟨0x020500, 0, 4⟩
/-- `LN_EVT.LANE_DOWN`, W1C (R79). -/
def LN_EVT_LANE_DOWN : Fld := ⟨0x020500, 4, 4⟩
/-- `LN_EVT.LINK_UP`, W1C (R79). -/
def LN_EVT_LINK_UP : Fld := ⟨0x020500, 8, 4⟩
/-- `LN_EVT.LINK_DOWN`, W1C (R79). -/
def LN_EVT_LINK_DOWN : Fld := ⟨0x020500, 12, 4⟩
/-- `LN_EVT.SPARE_DONE`, W1C (R79). -/
def LN_EVT_SPARE_DONE : Fld := ⟨0x020500, 16, 4⟩
/-- `LN_SPARE_CTRL.OP`, WO (R85). -/
def LN_SPARE_CTRL_OP (i : Nat) : Fld := ⟨0x020400 + 8 * i, 0, 3⟩
/-- `LN_SPARE_CTRL.POS`, RW (R85). -/
def LN_SPARE_CTRL_POS (i : Nat) : Fld := ⟨0x020400 + 8 * i, 4, 3⟩
/-- `LN_SPARE_CTRL.MATCH`, RW (R85). -/
def LN_SPARE_CTRL_MATCH (i : Nat) : Fld := ⟨0x020400 + 8 * i, 8, 1⟩
/-- `LN_SPARE_CTRL.FORCE`, RW (R85). -/
def LN_SPARE_CTRL_FORCE (i : Nat) : Fld := ⟨0x020400 + 8 * i, 9, 1⟩
/-- `LN_SPARE_CTRL.BRIDGE`, RW (R85). -/
def LN_SPARE_CTRL_BRIDGE (i : Nat) : Fld := ⟨0x020400 + 8 * i, 10, 1⟩
/-- `LN_SPARE_CTRL.MATCH_US`, RW (R85). -/
def LN_SPARE_CTRL_MATCH_US (i : Nat) : Fld := ⟨0x020400 + 8 * i, 16, 8⟩
/-- `LN_SPARE_CTRL.CONFIRM_W`, RW (R85). -/
def LN_SPARE_CTRL_CONFIRM_W (i : Nat) : Fld := ⟨0x020400 + 8 * i, 24, 8⟩
/-- `LN_SPARE_STAT.STATE`, RO (R85). -/
def LN_SPARE_STAT_STATE (i : Nat) : Fld := ⟨0x020404 + 8 * i, 0, 3⟩
/-- `LN_SPARE_STAT.STOOD_POS`, RO (R85). -/
def LN_SPARE_STAT_STOOD_POS (i : Nat) : Fld := ⟨0x020404 + 8 * i, 4, 3⟩
/-- `LN_SPARE_STAT.TX_BRIDGED`, RO (R85). -/
def LN_SPARE_STAT_TX_BRIDGED (i : Nat) : Fld := ⟨0x020404 + 8 * i, 7, 1⟩
/-- `LN_SPARE_STAT.RESULT`, RO (R85). -/
def LN_SPARE_STAT_RESULT (i : Nat) : Fld := ⟨0x020404 + 8 * i, 8, 4⟩
/-- `LN_SPARE_STAT.OFFSET`, RO (R85). -/
def LN_SPARE_STAT_OFFSET (i : Nat) : Fld := ⟨0x020404 + 8 * i, 12, 13⟩
/-- `LN_SPARE_STAT.RETRIES`, RC (R85). -/
def LN_SPARE_STAT_RETRIES (i : Nat) : Fld := ⟨0x020404 + 8 * i, 25, 7⟩
/-- `TF_FR_CFG.INJ_HCRC`, RW (R101). -/
def TF_FR_CFG_INJ_HCRC (i : Nat) : Fld := ⟨0x040000 + 4 * i, 0, 1⟩
/-- `TF_FR_CFG.INJ_BIP`, RW (R101). -/
def TF_FR_CFG_INJ_BIP (i : Nat) : Fld := ⟨0x040000 + 4 * i, 1, 1⟩
/-- `TF_FR_CFG.FORCE_RDI`, RW (R101). -/
def TF_FR_CFG_FORCE_RDI (i : Nat) : Fld := ⟨0x040000 + 4 * i, 2, 1⟩
/-- `TF_FR_CFG.SCR_OFF`, RW (R101). -/
def TF_FR_CFG_SCR_OFF (i : Nat) : Fld := ⟨0x040000 + 4 * i, 3, 1⟩
/-- `TF_FR_CFG.REHUNT`, WO (R101). -/
def TF_FR_CFG_REHUNT (i : Nat) : Fld := ⟨0x040000 + 4 * i, 4, 1⟩
/-- `TF_FR_STAT.STATE`, RO (R101). -/
def TF_FR_STAT_STATE (i : Nat) : Fld := ⟨0x040080 + 4 * i, 0, 2⟩
/-- `TF_FR_STAT.FAILS`, RO (R101). -/
def TF_FR_STAT_FAILS (i : Nat) : Fld := ⟨0x040080 + 4 * i, 2, 3⟩
/-- `TF_FR_STAT.RX_RDI`, RO (R101). -/
def TF_FR_STAT_RX_RDI (i : Nat) : Fld := ⟨0x040080 + 4 * i, 5, 1⟩
/-- `TF_FR_STAT.TX_RDI`, RO (R101). -/
def TF_FR_STAT_TX_RDI (i : Nat) : Fld := ⟨0x040080 + 4 * i, 6, 1⟩
/-- `TF_FR_STAT.PT_MISMATCH`, RO (R101). -/
def TF_FR_STAT_PT_MISMATCH (i : Nat) : Fld := ⟨0x040080 + 4 * i, 7, 1⟩
/-- `TF_FR_STAT.RX_MEMBER`, RO (R101). -/
def TF_FR_STAT_RX_MEMBER (i : Nat) : Fld := ⟨0x040080 + 4 * i, 8, 5⟩
/-- `TF_FR_STAT.RX_GROUP`, RO (R101). -/
def TF_FR_STAT_RX_GROUP (i : Nat) : Fld := ⟨0x040080 + 4 * i, 16, 8⟩
/-- `TF_FR_STAT.RX_PT`, RO (R101). -/
def TF_FR_STAT_RX_PT (i : Nat) : Fld := ⟨0x040080 + 4 * i, 24, 8⟩
/-- `TF_FR_MFC.MFC`, RO (R101). -/
def TF_FR_MFC_MFC (i : Nat) : Fld := ⟨0x040100 + 4 * i, 0, 32⟩
/-- `TF_EVT.LOF`, W1C (R101). -/
def TF_EVT_LOF : Fld := ⟨0x040300, 0, 4⟩
/-- `TF_EVT.SYNC`, W1C (R101). -/
def TF_EVT_SYNC : Fld := ⟨0x040300, 4, 4⟩
/-- `TF_EVT.ID_CHG`, W1C (R101). -/
def TF_EVT_ID_CHG : Fld := ⟨0x040300, 8, 4⟩
/-- `TF_EVT.RDI_CHG`, W1C (R101). -/
def TF_EVT_RDI_CHG : Fld := ⟨0x040300, 12, 4⟩
/-- `TF_EVT.GFP_LOS`, W1C (R101). -/
def TF_EVT_GFP_LOS : Fld := ⟨0x040300, 16, 4⟩
/-- `TF_EVT.GFP_SYNC`, W1C (R101). -/
def TF_EVT_GFP_SYNC : Fld := ⟨0x040300, 20, 4⟩
/-- `TF_CNT_SEL.FR`, RW (R101). -/
def TF_CNT_SEL_FR : Fld := ⟨0x040304, 0, 5⟩
/-- `TF_CNT_SEL.CHAN`, RW (R101). -/
def TF_CNT_SEL_CHAN : Fld := ⟨0x040304, 8, 5⟩
/-- `TF_HCRC_ERR.COUNT`, RC (R101). -/
def TF_HCRC_ERR_COUNT (i : Nat) : Fld := ⟨0x1004000 + 28 * i, 0, 32⟩
/-- `TF_BIP_LO.COUNT`, RC (R101). -/
def TF_BIP_LO_COUNT (i : Nat) : Fld := ⟨0x1004008 + 28 * i, 0, 32⟩
/-- `TF_BIP_HI.COUNT`, RC (R101). -/
def TF_BIP_HI_COUNT (i : Nat) : Fld := ⟨0x100400C + 28 * i, 0, 32⟩
/-- `TF_REI_LO.COUNT`, RC (R101). -/
def TF_REI_LO_COUNT (i : Nat) : Fld := ⟨0x1004010 + 28 * i, 0, 32⟩
/-- `TF_REI_HI.COUNT`, RC (R101). -/
def TF_REI_HI_COUNT (i : Nat) : Fld := ⟨0x1004014 + 28 * i, 0, 32⟩
/-- `TF_FR_EVCNT.LOF`, RC (R101). -/
def TF_FR_EVCNT_LOF (i : Nat) : Fld := ⟨0x1004018 + 28 * i, 0, 16⟩
/-- `TF_FR_EVCNT.MFC_JUMP`, RC (R101). -/
def TF_FR_EVCNT_MFC_JUMP (i : Nat) : Fld := ⟨0x1004018 + 28 * i, 16, 16⟩
/-- `TF_GFP_HEC.CHEC_CORR`, RC (R101). -/
def TF_GFP_HEC_CHEC_CORR (i : Nat) : Fld := ⟨0x1005000 + 12 * i, 0, 16⟩
/-- `TF_GFP_HEC.THEC_CORR`, RC (R101). -/
def TF_GFP_HEC_THEC_CORR (i : Nat) : Fld := ⟨0x1005000 + 12 * i, 16, 16⟩
/-- `TF_GFP_DISC.THEC_UNC`, RC (R101). -/
def TF_GFP_DISC_THEC_UNC (i : Nat) : Fld := ⟨0x1005004 + 12 * i, 0, 16⟩
/-- `TF_GFP_DISC.UNSUP`, RC (R101). -/
def TF_GFP_DISC_UNSUP (i : Nat) : Fld := ⟨0x1005004 + 12 * i, 16, 16⟩
/-- `TF_GFP_MISC.CSF`, RC (R101). -/
def TF_GFP_MISC_CSF (i : Nat) : Fld := ⟨0x1005008 + 12 * i, 0, 16⟩
/-- `TF_GFP_MISC.PFCS_ERR`, RC (R101). -/
def TF_GFP_MISC_PFCS_ERR (i : Nat) : Fld := ⟨0x1005008 + 12 * i, 16, 16⟩
/-- `TF_GFP_CFG.PFCS_TX`, RW (R110). -/
def TF_GFP_CFG_PFCS_TX (i : Nat) : Fld := ⟨0x040180 + 4 * i, 0, 1⟩
/-- `TF_GFP_CFG.PFCS_CHK`, RW (R110). -/
def TF_GFP_CFG_PFCS_CHK (i : Nat) : Fld := ⟨0x040180 + 4 * i, 1, 1⟩
/-- `TF_GFP_CFG.CHEC_CORR_EN`, RW (R110). -/
def TF_GFP_CFG_CHEC_CORR_EN (i : Nat) : Fld := ⟨0x040180 + 4 * i, 2, 1⟩
/-- `TF_GFP_CFG.THEC_CORR_EN`, RW (R110). -/
def TF_GFP_CFG_THEC_CORR_EN (i : Nat) : Fld := ⟨0x040180 + 4 * i, 3, 1⟩
/-- `TF_GFP_CFG.X43_OFF`, RW (R110). -/
def TF_GFP_CFG_X43_OFF (i : Nat) : Fld := ⟨0x040180 + 4 * i, 4, 1⟩
/-- `TF_GFP_STAT.STATE`, RO (R110). -/
def TF_GFP_STAT_STATE (i : Nat) : Fld := ⟨0x040200 + 4 * i, 0, 2⟩
/-- `TF_GFP_STAT.LINK`, RO (R110). -/
def TF_GFP_STAT_LINK (i : Nat) : Fld := ⟨0x040200 + 4 * i, 2, 1⟩
/-- `TF_GFP_STAT.CSF_RX`, RO (R110). -/
def TF_GFP_STAT_CSF_RX (i : Nat) : Fld := ⟨0x040200 + 4 * i, 3, 1⟩
/-- `TF_GFP_STAT.LOS_CNT`, RC (R110). -/
def TF_GFP_STAT_LOS_CNT (i : Nat) : Fld := ⟨0x040200 + 4 * i, 16, 16⟩
/-- `GP_POS_CFG.IN_GROUP`, RW (R132). -/
def GP_POS_CFG_IN_GROUP (i : Nat) : Fld := ⟨0x041000 + 4 * i, 0, 1⟩
/-- `GP_POS_CFG.GROUP`, RW (R132). -/
def GP_POS_CFG_GROUP (i : Nat) : Fld := ⟨0x041000 + 4 * i, 1, 4⟩
/-- `GP_POS_CFG.MEMBER`, RW (R132). -/
def GP_POS_CFG_MEMBER (i : Nat) : Fld := ⟨0x041000 + 4 * i, 5, 5⟩
/-- `GP_GRP_CFG.EN`, RW (R132). -/
def GP_GRP_CFG_EN (i : Nat) : Fld := ⟨0x041100 + 8 * i, 0, 1⟩
/-- `GP_GRP_CFG.N`, RW (R132). -/
def GP_GRP_CFG_N (i : Nat) : Fld := ⟨0x041100 + 8 * i, 1, 6⟩
/-- `GP_GRP_CFG.GROUP_ID`, RW (R132). -/
def GP_GRP_CFG_GROUP_ID (i : Nat) : Fld := ⟨0x041100 + 8 * i, 8, 8⟩
/-- `GP_GRP_CFG.CHAN`, RW (R132). -/
def GP_GRP_CFG_CHAN (i : Nat) : Fld := ⟨0x041100 + 8 * i, 16, 5⟩
/-- `GP_GRP_STAT.STATE`, RO (R132). -/
def GP_GRP_STAT_STATE (i : Nat) : Fld := ⟨0x041104 + 8 * i, 0, 2⟩
/-- `GP_GRP_STAT.SF`, RO (R132). -/
def GP_GRP_STAT_SF (i : Nat) : Fld := ⟨0x041104 + 8 * i, 2, 1⟩
/-- `GP_GRP_STAT.SD`, RO (R132). -/
def GP_GRP_STAT_SD (i : Nat) : Fld := ⟨0x041104 + 8 * i, 3, 1⟩
/-- `GP_GRP_STAT.CFG_ERR`, RO (R132). -/
def GP_GRP_STAT_CFG_ERR (i : Nat) : Fld := ⟨0x041104 + 8 * i, 4, 3⟩
/-- `GP_GRP_STAT.CAUSE_MEMBER`, RO (R132). -/
def GP_GRP_STAT_CAUSE_MEMBER (i : Nat) : Fld := ⟨0x041104 + 8 * i, 8, 5⟩
/-- `GP_GRP_STAT.CAUSE`, RO (R132). -/
def GP_GRP_STAT_CAUSE (i : Nat) : Fld := ⟨0x041104 + 8 * i, 13, 3⟩
/-- `GP_GRP_STAT.DOWN_CNT`, RC (R132). -/
def GP_GRP_STAT_DOWN_CNT (i : Nat) : Fld := ⟨0x041104 + 8 * i, 16, 16⟩
/-- `GP_GRP_SKEW.SPREAD_NS`, RO (R132). -/
def GP_GRP_SKEW_SPREAD_NS (i : Nat) : Fld := ⟨0x041180 + 4 * i, 0, 16⟩
/-- `GP_SD_CFG.SD_N`, RW (R132). -/
def GP_SD_CFG_SD_N (i : Nat) : Fld := ⟨0x0411C0 + 4 * i, 0, 4⟩
/-- `GP_SD_CFG.SD_EN`, RW (R132). -/
def GP_SD_CFG_SD_EN (i : Nat) : Fld := ⟨0x0411C0 + 4 * i, 4, 1⟩
/-- `GP_SD_SET.SD_SET`, RW (R132). -/
def GP_SD_SET_SD_SET (i : Nat) : Fld := ⟨0x041200 + 8 * i, 0, 32⟩
/-- `GP_SD_CLR.SD_CLR`, RW (R132). -/
def GP_SD_CLR_SD_CLR (i : Nat) : Fld := ⟨0x041204 + 8 * i, 0, 32⟩
/-- `GP_PAIR_CFG.EN`, RW (R132). -/
def GP_PAIR_CFG_EN (i : Nat) : Fld := ⟨0x041300 + 16 * i, 0, 1⟩
/-- `GP_PAIR_CFG.WORK`, RW (R132). -/
def GP_PAIR_CFG_WORK (i : Nat) : Fld := ⟨0x041300 + 16 * i, 1, 4⟩
/-- `GP_PAIR_CFG.PROT`, RW (R132). -/
def GP_PAIR_CFG_PROT (i : Nat) : Fld := ⟨0x041300 + 16 * i, 5, 4⟩
/-- `GP_PAIR_CFG.BIDIR`, RW (R132). -/
def GP_PAIR_CFG_BIDIR (i : Nat) : Fld := ⟨0x041300 + 16 * i, 9, 1⟩
/-- `GP_PAIR_CFG.REVERT`, RW (R132). -/
def GP_PAIR_CFG_REVERT (i : Nat) : Fld := ⟨0x041300 + 16 * i, 10, 1⟩
/-- `GP_PAIR_CFG.SWR_PERSIST`, RW (R132). -/
def GP_PAIR_CFG_SWR_PERSIST (i : Nat) : Fld := ⟨0x041300 + 16 * i, 16, 4⟩
/-- `GP_PAIR_TIME.WAIT_NS`, RW (R132). -/
def GP_PAIR_TIME_WAIT_NS (i : Nat) : Fld := ⟨0x041304 + 16 * i, 0, 16⟩
/-- `GP_PAIR_TIME.WTR_S`, RW (R132). -/
def GP_PAIR_TIME_WTR_S (i : Nat) : Fld := ⟨0x041304 + 16 * i, 16, 16⟩
/-- `GP_PAIR_CMD.CMD`, RW (R132). -/
def GP_PAIR_CMD_CMD (i : Nat) : Fld := ⟨0x041308 + 16 * i, 0, 3⟩
/-- `GP_PAIR_CMD.HOLDOFF`, RW (R132). -/
def GP_PAIR_CMD_HOLDOFF (i : Nat) : Fld := ⟨0x041308 + 16 * i, 8, 8⟩
/-- `GP_PAIR_CMD.LEAD_NS`, RW (R132). -/
def GP_PAIR_CMD_LEAD_NS (i : Nat) : Fld := ⟨0x041308 + 16 * i, 16, 16⟩
/-- `GP_PAIR_STAT.SEL`, RO (R132). -/
def GP_PAIR_STAT_SEL (i : Nat) : Fld := ⟨0x04130C + 16 * i, 0, 1⟩
/-- `GP_PAIR_STAT.ALIGNED`, RO (R132). -/
def GP_PAIR_STAT_ALIGNED (i : Nat) : Fld := ⟨0x04130C + 16 * i, 1, 1⟩
/-- `GP_PAIR_STAT.TOP`, RO (R132). -/
def GP_PAIR_STAT_TOP (i : Nat) : Fld := ⟨0x04130C + 16 * i, 2, 4⟩
/-- `GP_PAIR_STAT.FAR`, RO (R132). -/
def GP_PAIR_STAT_FAR (i : Nat) : Fld := ⟨0x04130C + 16 * i, 6, 4⟩
/-- `GP_PAIR_STAT.FAR_VALID`, RO (R132). -/
def GP_PAIR_STAT_FAR_VALID (i : Nat) : Fld := ⟨0x04130C + 16 * i, 10, 1⟩
/-- `GP_PAIR_STAT.FAR_SIG`, RO (R132). -/
def GP_PAIR_STAT_FAR_SIG (i : Nat) : Fld := ⟨0x04130C + 16 * i, 11, 1⟩
/-- `GP_PAIR_STAT.MODE_MISMATCH`, RO (R132). -/
def GP_PAIR_STAT_MODE_MISMATCH (i : Nat) : Fld := ⟨0x04130C + 16 * i, 12, 1⟩
/-- `GP_PAIR_STAT.WTR_RUN`, RO (R132). -/
def GP_PAIR_STAT_WTR_RUN (i : Nat) : Fld := ⟨0x04130C + 16 * i, 13, 1⟩
/-- `GP_PAIR_STAT.SPREAD_NS`, RO (R132). -/
def GP_PAIR_STAT_SPREAD_NS (i : Nat) : Fld := ⟨0x04130C + 16 * i, 16, 16⟩
/-- `GP_EVT.GRP_CHG`, W1C (R132). -/
def GP_EVT_GRP_CHG : Fld := ⟨0x041400, 0, 16⟩
/-- `GP_EVT.HINGE`, W1C (R132). -/
def GP_EVT_HINGE : Fld := ⟨0x041400, 16, 8⟩
/-- `GP_EVT.SEC`, W1C (R132). -/
def GP_EVT_SEC : Fld := ⟨0x041400, 24, 1⟩
/-- `GP_HOLD.CELLS`, RW (R132). -/
def GP_HOLD_CELLS : Fld := ⟨0x041404, 0, 18⟩
/-- `GP_CFG_REJ.COUNT`, RC (R132). -/
def GP_CFG_REJ_COUNT : Fld := ⟨0x041408, 0, 16⟩
/-- `GP_CNT_SEL.PAIR`, RW (R132). -/
def GP_CNT_SEL_PAIR : Fld := ⟨0x04140C, 0, 3⟩
/-- `GP_HG_DUP.COUNT`, RC (R132). -/
def GP_HG_DUP_COUNT (i : Nat) : Fld := ⟨0x1006000 + 32 * i, 0, 32⟩
/-- `GP_HG_ALONE.COUNT`, RC (R132). -/
def GP_HG_ALONE_COUNT (i : Nat) : Fld := ⟨0x1006004 + 32 * i, 0, 32⟩
/-- `GP_HG_REPAIR.COUNT`, RC (R132). -/
def GP_HG_REPAIR_COUNT (i : Nat) : Fld := ⟨0x1006008 + 32 * i, 0, 32⟩
/-- `GP_HG_SW.SW`, RC (R132). -/
def GP_HG_SW_SW (i : Nat) : Fld := ⟨0x100600C + 32 * i, 0, 16⟩
/-- `GP_HG_SW.HIT`, RC (R132). -/
def GP_HG_SW_HIT (i : Nat) : Fld := ⟨0x100600C + 32 * i, 16, 16⟩
/-- `GP_HIT_BYTES_LO.COUNT`, RC (R132). -/
def GP_HIT_BYTES_LO_COUNT (i : Nat) : Fld := ⟨0x1006010 + 32 * i, 0, 32⟩
/-- `GP_HIT_BYTES_HI.COUNT`, RC (R132). -/
def GP_HIT_BYTES_HI_COUNT (i : Nat) : Fld := ⟨0x1006014 + 32 * i, 0, 32⟩
/-- `GP_HG_MISC.MISMATCH`, RC (R132). -/
def GP_HG_MISC_MISMATCH (i : Nat) : Fld := ⟨0x1006018 + 32 * i, 0, 16⟩
/-- `GP_HG_MISC.TX_LATE`, RC (R132). -/
def GP_HG_MISC_TX_LATE (i : Nat) : Fld := ⟨0x1006018 + 32 * i, 16, 16⟩
/-- `GP_HG_FULL.HOLD_FULL`, RC (R132). -/
def GP_HG_FULL_HOLD_FULL (i : Nat) : Fld := ⟨0x100601C + 32 * i, 0, 32⟩
/-- `GP_SEC_SEL.POS`, RW (R132). -/
def GP_SEC_SEL_POS : Fld := ⟨0x041500, 0, 5⟩
/-- `GP_SEC_SEL.GRP`, RW (R132). -/
def GP_SEC_SEL_GRP : Fld := ⟨0x041500, 8, 4⟩
/-- `GP_SEC_BIP.BIP`, RO (R132). -/
def GP_SEC_BIP_BIP (i : Nat) : Fld := ⟨0x1007000 + 12 * i, 0, 32⟩
/-- `GP_SEC_HCRC.HCRC`, RO (R132). -/
def GP_SEC_HCRC_HCRC (i : Nat) : Fld := ⟨0x1007004 + 12 * i, 0, 32⟩
/-- `GP_SEC_FLAGS.ERR_FR`, RO (R132). -/
def GP_SEC_FLAGS_ERR_FR (i : Nat) : Fld := ⟨0x1007008 + 12 * i, 0, 22⟩
/-- `GP_SEC_FLAGS.ES`, RO (R132). -/
def GP_SEC_FLAGS_ES (i : Nat) : Fld := ⟨0x1007008 + 12 * i, 30, 1⟩
/-- `GP_SEC_FLAGS.SES`, RO (R132). -/
def GP_SEC_FLAGS_SES (i : Nat) : Fld := ⟨0x1007008 + 12 * i, 31, 1⟩
/-- `GP_SEC_GRP.BIP_SUM`, RO (R132). -/
def GP_SEC_GRP_BIP_SUM (i : Nat) : Fld := ⟨0x1008000 + 4 * i, 0, 32⟩
/-- `GP_OH_TX.EN`, RW (R132). -/
def GP_OH_TX_EN (i : Nat) : Fld := ⟨0x041600 + 4 * i, 0, 1⟩
/-- `GP_OH_TX.POS`, RW (R132). -/
def GP_OH_TX_POS (i : Nat) : Fld := ⟨0x041600 + 4 * i, 1, 5⟩
/-- `GP_OH_TX.DIV`, RW (R132). -/
def GP_OH_TX_DIV (i : Nat) : Fld := ⟨0x041600 + 4 * i, 8, 5⟩
/-- `GP_OH_RX.EN`, RW (R132). -/
def GP_OH_RX_EN (i : Nat) : Fld := ⟨0x041620 + 4 * i, 0, 1⟩
/-- `GP_OH_RX.POS`, RW (R132). -/
def GP_OH_RX_POS (i : Nat) : Fld := ⟨0x041620 + 4 * i, 1, 5⟩
/-- `GP_OH_SEL.K`, RW (R132). -/
def GP_OH_SEL_K : Fld := ⟨0x041640, 0, 3⟩
/-- `GP_OH_CNT.TX_LOST`, RC (R132). -/
def GP_OH_CNT_TX_LOST (i : Nat) : Fld := ⟨0x1009000 + 8 * i, 0, 16⟩
/-- `GP_OH_CNT.RX_BAD`, RC (R132). -/
def GP_OH_CNT_RX_BAD (i : Nat) : Fld := ⟨0x1009000 + 8 * i, 16, 16⟩
/-- `GP_OH_CNT2.RX_OVER`, RC (R132). -/
def GP_OH_CNT2_RX_OVER (i : Nat) : Fld := ⟨0x1009004 + 8 * i, 0, 16⟩
/-- `GP_OH_CNT2.RX_UNDER`, RC (R132). -/
def GP_OH_CNT2_RX_UNDER (i : Nat) : Fld := ⟨0x1009004 + 8 * i, 16, 16⟩
/-- `MC_CFG.DELIVER_BAD`, RWL (R134). -/
def MC_CFG_DELIVER_BAD (i : Nat) : Fld := ⟨0x060000 + 4 * i, 0, 1⟩
/-- `MC_CFG.STRIP_FCS`, RWL (R134). -/
def MC_CFG_STRIP_FCS (i : Nat) : Fld := ⟨0x060000 + 4 * i, 1, 1⟩
/-- `MC_CFG.RX_STRIP`, RWL (R134). -/
def MC_CFG_RX_STRIP (i : Nat) : Fld := ⟨0x060000 + 4 * i, 2, 2⟩
/-- `MC_CFG.CSUM_RX`, RWL (R134). -/
def MC_CFG_CSUM_RX (i : Nat) : Fld := ⟨0x060000 + 4 * i, 4, 1⟩
/-- `MC_CFG.INNER`, RWL (R134). -/
def MC_CFG_INNER (i : Nat) : Fld := ⟨0x060000 + 4 * i, 5, 1⟩
/-- `MC_MAXLEN.MAXLEN`, RWL (R134). -/
def MC_MAXLEN_MAXLEN (i : Nat) : Fld := ⟨0x060080 + 4 * i, 0, 15⟩
/-- `MC_TAG_CFG.STPID`, RWL (R134). -/
def MC_TAG_CFG_STPID (i : Nat) : Fld := ⟨0x060100 + 4 * i, 0, 16⟩
/-- `MC_COMMIT.COMMIT`, WO (R134). -/
def MC_COMMIT_COMMIT (i : Nat) : Fld := ⟨0x060180 + 4 * i, 0, 1⟩
/-- `MC_COMMIT.LOCKED`, RO (R134). -/
def MC_COMMIT_LOCKED (i : Nat) : Fld := ⟨0x060180 + 4 * i, 1, 1⟩
/-- `MC_COMMIT.GEN`, RO (R134). -/
def MC_COMMIT_GEN (i : Nat) : Fld := ⟨0x060180 + 4 * i, 8, 8⟩
/-- `MC_COMMIT.REJ`, RC (R134). -/
def MC_COMMIT_REJ (i : Nat) : Fld := ⟨0x060180 + 4 * i, 16, 16⟩
/-- `MC_CSUM_PORTS.VXLAN_PORT`, RW (R149). -/
def MC_CSUM_PORTS_VXLAN_PORT : Fld := ⟨0x060400, 0, 16⟩
/-- `MC_CSUM_PORTS.GENEVE_PORT`, RW (R149). -/
def MC_CSUM_PORTS_GENEVE_PORT : Fld := ⟨0x060400, 16, 16⟩
/-- `MC_FC_CFG.MODE`, RW (R156). -/
def MC_FC_CFG_MODE (i : Nat) : Fld := ⟨0x060200 + 4 * i, 0, 2⟩
/-- `MC_FC_CFG.RX_HONOUR`, RW (R156). -/
def MC_FC_CFG_RX_HONOUR (i : Nat) : Fld := ⟨0x060200 + 4 * i, 2, 1⟩
/-- `MC_FC_CFG.TX_GEN`, RW (R156). -/
def MC_FC_CFG_TX_GEN (i : Nat) : Fld := ⟨0x060200 + 4 * i, 3, 1⟩
/-- `MC_FC_CFG.PFC_CLASSES`, RW (R156). -/
def MC_FC_CFG_PFC_CLASSES (i : Nat) : Fld := ⟨0x060200 + 4 * i, 8, 8⟩
/-- `MC_FC_CFG.QUANTA`, RW (R156). -/
def MC_FC_CFG_QUANTA (i : Nat) : Fld := ⟨0x060200 + 4 * i, 16, 16⟩
/-- `MC_FC_REF.REFRESH`, RW (R156). -/
def MC_FC_REF_REFRESH (i : Nat) : Fld := ⟨0x060380 + 4 * i, 0, 16⟩
/-- `MC_FC_WD.WD_US`, RW (R156). -/
def MC_FC_WD_WD_US (i : Nat) : Fld := ⟨0x060280 + 4 * i, 0, 16⟩
/-- `MC_FC_WD.HOLD_US`, RW (R156). -/
def MC_FC_WD_HOLD_US (i : Nat) : Fld := ⟨0x060280 + 4 * i, 16, 16⟩
/-- `MC_FC_STAT.PAUSED`, RO (R156). -/
def MC_FC_STAT_PAUSED (i : Nat) : Fld := ⟨0x060300 + 4 * i, 0, 8⟩
/-- `MC_FC_STAT.HOLDOFF`, RO (R156). -/
def MC_FC_STAT_HOLDOFF (i : Nat) : Fld := ⟨0x060300 + 4 * i, 8, 8⟩
/-- `MC_FC_STAT.XOFF_SENT`, RO (R156). -/
def MC_FC_STAT_XOFF_SENT (i : Nat) : Fld := ⟨0x060300 + 4 * i, 16, 8⟩
/-- `MC_STATION_LO.ADDR_LO`, RW (R156). -/
def MC_STATION_LO_ADDR_LO (i : Nat) : Fld := ⟨0x060500 + 8 * i, 0, 32⟩
/-- `MC_STATION_HI.ADDR_HI`, RW (R156). -/
def MC_STATION_HI_ADDR_HI (i : Nat) : Fld := ⟨0x060504 + 8 * i, 0, 16⟩
/-- `MC_WAKE_VAL.VALUE`, RW (R158). -/
def MC_WAKE_VAL_VALUE (i : Nat) (j : Nat) : Fld := ⟨0x061000 + 256 * i + 4 * j, 0, 32⟩
/-- `MC_WAKE_MASK.MASK`, RW (R158). -/
def MC_WAKE_MASK_MASK (i : Nat) (j : Nat) : Fld := ⟨0x061080 + 256 * i + 4 * j, 0, 32⟩
/-- `MC_WAKE_CTRL.EN`, RW (R158). -/
def MC_WAKE_CTRL_EN (i : Nat) : Fld := ⟨0x061090 + 256 * i, 0, 1⟩
/-- `MC_WAKE_CTRL.CHAN`, RW (R158). -/
def MC_WAKE_CTRL_CHAN (i : Nat) : Fld := ⟨0x061090 + 256 * i, 8, 5⟩
/-- `MC_WAKE_MAGIC.MAGIC_EN`, RW (R158). -/
def MC_WAKE_MAGIC_MAGIC_EN : Fld := ⟨0x060600, 0, 32⟩
/-- `MC_WAKE_STAT.CHAN`, RO (R158). -/
def MC_WAKE_STAT_CHAN : Fld := ⟨0x060604, 0, 5⟩
/-- `MC_WAKE_STAT.SRC`, RO (R158). -/
def MC_WAKE_STAT_SRC : Fld := ⟨0x060604, 5, 5⟩
/-- `MC_WAKE_STAT.VALID`, W1C (R158). -/
def MC_WAKE_STAT_VALID : Fld := ⟨0x060604, 31, 1⟩
/-- `MC_EVT.PAUSE_WD`, W1C (R161). -/
def MC_EVT_PAUSE_WD : Fld := ⟨0x060404, 0, 4⟩
/-- `MC_EVT.WAKE`, W1C (R161). -/
def MC_EVT_WAKE : Fld := ⟨0x060404, 4, 4⟩
/-- `MC_EVT.STAT_SAT`, W1C (R161). -/
def MC_EVT_STAT_SAT : Fld := ⟨0x060404, 8, 4⟩
/-- `MC_EVT.SHADE_REJ`, W1C (R161). -/
def MC_EVT_SHADE_REJ : Fld := ⟨0x060404, 12, 4⟩
/-- `CL_KSEL.DOMAIN`, RW (R166). -/
def CL_KSEL_DOMAIN (i : Nat) : Fld := ⟨0x080100 + 4 * i, 0, 8⟩
/-- `CL_KSEL.TUN_TYPE`, RW (R166). -/
def CL_KSEL_TUN_TYPE (i : Nat) : Fld := ⟨0x080100 + 4 * i, 8, 3⟩
/-- `CL_KSEL.IP4_TYPE`, RW (R166). -/
def CL_KSEL_IP4_TYPE (i : Nat) : Fld := ⟨0x080100 + 4 * i, 11, 3⟩
/-- `CL_KSEL.IP6_TYPE`, RW (R166). -/
def CL_KSEL_IP6_TYPE (i : Nat) : Fld := ⟨0x080100 + 4 * i, 14, 3⟩
/-- `CL_KSEL.OTH_TYPE`, RW (R166). -/
def CL_KSEL_OTH_TYPE (i : Nat) : Fld := ⟨0x080100 + 4 * i, 17, 3⟩
/-- `CL_KSEL.PRECOL`, RW (R166). -/
def CL_KSEL_PRECOL (i : Nat) : Fld := ⟨0x080100 + 4 * i, 20, 1⟩
/-- `CL_HKEY.HKEY`, RW (R168). -/
def CL_HKEY_HKEY (i : Nat) : Fld := ⟨0x080010 + 4 * i, 0, 32⟩
/-- `CL_MISS.CTX`, RW (R180). -/
def CL_MISS_CTX (i : Nat) : Fld := ⟨0x080180 + 8 * i, 0, 12⟩
/-- `CL_MISS.RXQ`, RW (R180). -/
def CL_MISS_RXQ (i : Nat) : Fld := ⟨0x080180 + 8 * i, 12, 6⟩
/-- `CL_MISS.DROP`, RW (R180). -/
def CL_MISS_DROP (i : Nat) : Fld := ⟨0x080180 + 8 * i, 18, 1⟩
/-- `CL_MISS_MTR.METER`, RW (R180). -/
def CL_MISS_MTR_METER (i : Nat) : Fld := ⟨0x080184 + 8 * i, 0, 14⟩
/-- `CL_MISS_MTR.MEN`, RW (R180). -/
def CL_MISS_MTR_MEN (i : Nat) : Fld := ⟨0x080184 + 8 * i, 14, 1⟩
/-- `CL_CTRL.EN`, RW (R188). -/
def CL_CTRL_EN : Fld := ⟨0x080000, 0, 1⟩
/-- `CL_CTRL.CLEAR`, WO (R188). -/
def CL_CTRL_CLEAR : Fld := ⟨0x080000, 1, 1⟩
/-- `CL_CTRL.CLEAR_BUSY`, RO (R188). -/
def CL_CTRL_CLEAR_BUSY : Fld := ⟨0x080000, 2, 1⟩
/-- `CL_CTRL.CFG_ERR`, RO (R188). -/
def CL_CTRL_CFG_ERR : Fld := ⟨0x080000, 3, 3⟩
/-- `CL_CTRL.NCHAN`, RO (R188). -/
def CL_CTRL_NCHAN : Fld := ⟨0x080000, 6, 3⟩
/-- `CL_CTRL.PUNT_RXQ`, RW (R188). -/
def CL_CTRL_PUNT_RXQ : Fld := ⟨0x080000, 16, 6⟩
/-- `CL_EVT.TORN`, W1C (R188). -/
def CL_EVT_TORN : Fld := ⟨0x080004, 0, 1⟩
/-- `CL_EVT.TBL_AUDIT`, W1C (R188). -/
def CL_EVT_TBL_AUDIT : Fld := ⟨0x080004, 1, 7⟩
/-- `CL_EVT.TBL_PROTO`, W1C (R188). -/
def CL_EVT_TBL_PROTO : Fld := ⟨0x080004, 8, 7⟩
/-- `CL_EVT.TBL_ERR`, W1C (R188). -/
def CL_EVT_TBL_ERR : Fld := ⟨0x080004, 15, 7⟩
/-- `CL_EVT.STASH_HI`, W1C (R188). -/
def CL_EVT_STASH_HI : Fld := ⟨0x080004, 22, 1⟩
/-- `CL_EVT.MT_AUDIT`, W1C (R188). -/
def CL_EVT_MT_AUDIT : Fld := ⟨0x080004, 23, 1⟩
/-- `CL_EVT.UPD_DONE`, W1C (R188). -/
def CL_EVT_UPD_DONE : Fld := ⟨0x080004, 24, 1⟩
/-- `CL_LIMITS.DEADLINE_NS`, RW (R188). -/
def CL_LIMITS_DEADLINE_NS : Fld := ⟨0x080008, 0, 16⟩
/-- `CL_LIMITS.MAX_MOVES`, RW (R188). -/
def CL_LIMITS_MAX_MOVES : Fld := ⟨0x080008, 16, 3⟩
/-- `CL_TORN_ADDR.BUCKET`, RO (R188). -/
def CL_TORN_ADDR_BUCKET : Fld := ⟨0x08000C, 0, 23⟩
/-- `CL_OCC.ENTRIES`, RO (R188). -/
def CL_OCC_ENTRIES : Fld := ⟨0x080050, 0, 26⟩
/-- `CL_OCC.ALT`, RO (R188). -/
def CL_OCC_ALT : Fld := ⟨0x080050, 26, 6⟩
/-- `CL_STASH.OCC`, RO (R188). -/
def CL_STASH_OCC : Fld := ⟨0x080054, 0, 13⟩
/-- `CL_STASH.HI_WM`, RW (R188). -/
def CL_STASH_HI_WM : Fld := ⟨0x080054, 16, 13⟩
/-- `CL_UPD_KEY.KEY`, RW (R188). -/
def CL_UPD_KEY_KEY (i : Nat) : Fld := ⟨0x080300 + 4 * i, 0, 32⟩
/-- `CL_UPD_VD_LO.CTX`, RW (R188). -/
def CL_UPD_VD_LO_CTX : Fld := ⟨0x080328, 0, 12⟩
/-- `CL_UPD_VD_LO.RXQ`, RW (R188). -/
def CL_UPD_VD_LO_RXQ : Fld := ⟨0x080328, 12, 6⟩
/-- `CL_UPD_VD_LO.METER`, RW (R188). -/
def CL_UPD_VD_LO_METER : Fld := ⟨0x080328, 18, 14⟩
/-- `CL_UPD_VD_HI.MEN`, RW (R188). -/
def CL_UPD_VD_HI_MEN : Fld := ⟨0x08032C, 0, 1⟩
/-- `CL_UPD_VD_HI.ACTION`, RW (R188). -/
def CL_UPD_VD_HI_ACTION : Fld := ⟨0x08032C, 1, 3⟩
/-- `CL_UPD_VD_HI.CLASS`, RW (R188). -/
def CL_UPD_VD_HI_CLASS : Fld := ⟨0x08032C, 4, 3⟩
/-- `CL_UPD_VD_HI.CLS_OVR`, RW (R188). -/
def CL_UPD_VD_HI_CLS_OVR : Fld := ⟨0x08032C, 7, 1⟩
/-- `CL_UPD_CMD.OP`, WO (R188). -/
def CL_UPD_CMD_OP : Fld := ⟨0x080330, 0, 3⟩
/-- `CL_UPD_STAT.BUSY`, RO (R188). -/
def CL_UPD_STAT_BUSY : Fld := ⟨0x080334, 0, 1⟩
/-- `CL_UPD_STAT.STATUS`, RO (R188). -/
def CL_UPD_STAT_STATUS : Fld := ⟨0x080334, 1, 4⟩
/-- `CL_UPD_STAT.WHERE`, RO (R188). -/
def CL_UPD_STAT_WHERE : Fld := ⟨0x080334, 5, 2⟩
/-- `CL_UPD_STAT.MOVES`, RO (R188). -/
def CL_UPD_STAT_MOVES : Fld := ⟨0x080334, 7, 3⟩
/-- `CL_LOOKUPS_LO.COUNT`, RC (R188). -/
def CL_LOOKUPS_LO_COUNT : Fld := ⟨0x080400, 0, 32⟩
/-- `CL_LOOKUPS_HI.COUNT`, RC (R188). -/
def CL_LOOKUPS_HI_COUNT : Fld := ⟨0x080404, 0, 32⟩
/-- `CL_CACHE_HIT_LO.COUNT`, RC (R188). -/
def CL_CACHE_HIT_LO_COUNT : Fld := ⟨0x080408, 0, 32⟩
/-- `CL_CACHE_HIT_HI.COUNT`, RC (R188). -/
def CL_CACHE_HIT_HI_COUNT : Fld := ⟨0x08040C, 0, 32⟩
/-- `CL_READS_LO.COUNT`, RC (R188). -/
def CL_READS_LO_COUNT : Fld := ⟨0x080410, 0, 32⟩
/-- `CL_READS_HI.COUNT`, RC (R188). -/
def CL_READS_HI_COUNT : Fld := ⟨0x080414, 0, 32⟩
/-- `CL_READ2_LO.COUNT`, RC (R188). -/
def CL_READ2_LO_COUNT : Fld := ⟨0x080418, 0, 32⟩
/-- `CL_READ2_HI.COUNT`, RC (R188). -/
def CL_READ2_HI_COUNT : Fld := ⟨0x08041C, 0, 32⟩
/-- `CL_MISS_CNT.COUNT`, RC (R188). -/
def CL_MISS_CNT_COUNT (i : Nat) : Fld := ⟨0x080420 + 4 * i, 0, 32⟩
/-- `CL_TBL_PROTO.COUNT`, RC (R188). -/
def CL_TBL_PROTO_COUNT : Fld := ⟨0x080440, 0, 32⟩
/-- `CL_CFG_REJ.COUNT`, RC (R188). -/
def CL_CFG_REJ_COUNT : Fld := ⟨0x080444, 0, 16⟩
/-- `MT_SEL.METER`, RW (R197). -/
def MT_SEL_METER : Fld := ⟨0x081000, 0, 14⟩
/-- `MT_MODE.ALG`, RW (R197). -/
def MT_MODE_ALG : Fld := ⟨0x081004, 0, 2⟩
/-- `MT_MODE.AWARE`, RW (R197). -/
def MT_MODE_AWARE : Fld := ⟨0x081004, 2, 1⟩
/-- `MT_MODE.RED_ACT`, RW (R197). -/
def MT_MODE_RED_ACT : Fld := ⟨0x081004, 3, 1⟩
/-- `MT_MODE.FILL`, RW (R197). -/
def MT_MODE_FILL : Fld := ⟨0x081004, 4, 1⟩
/-- `MT_CIR.CIR`, RW (R197). -/
def MT_CIR_CIR : Fld := ⟨0x081008, 0, 32⟩
/-- `MT_CBS.CBS`, RW (R197). -/
def MT_CBS_CBS : Fld := ⟨0x08100C, 0, 24⟩
/-- `MT_PIR.PIR`, RW (R197). -/
def MT_PIR_PIR : Fld := ⟨0x081010, 0, 32⟩
/-- `MT_PBS.PBS`, RW (R197). -/
def MT_PBS_PBS : Fld := ⟨0x081014, 0, 24⟩
/-- `MT_CMD.WRITE`, WO (R197). -/
def MT_CMD_WRITE : Fld := ⟨0x081018, 0, 1⟩
/-- `MT_CMD.READ`, WO (R197). -/
def MT_CMD_READ : Fld := ⟨0x081018, 1, 1⟩
/-- `MT_CMD.ERR`, RO (R197). -/
def MT_CMD_ERR : Fld := ⟨0x081018, 2, 1⟩
/-- `MT_TOK_C.TOK`, RO (R197). -/
def MT_TOK_C_TOK : Fld := ⟨0x08101C, 0, 32⟩
/-- `MT_TOK_P.TOK`, RO (R197). -/
def MT_TOK_P_TOK : Fld := ⟨0x081020, 0, 32⟩
/-- `MT_AUDIT_IDX.METER`, RO (R197). -/
def MT_AUDIT_IDX_METER : Fld := ⟨0x081024, 0, 14⟩
/-- `MT_CNT_LO.COUNT`, RC (R197). -/
def MT_CNT_LO_COUNT (i : Nat) (j : Nat) : Fld := ⟨0x100A000 + 48 * i + 8 * j, 0, 32⟩
/-- `MT_CNT_HI.COUNT`, RC (R197). -/
def MT_CNT_HI_COUNT (i : Nat) (j : Nat) : Fld := ⟨0x100A004 + 48 * i + 8 * j, 0, 32⟩
/-- `FB_FREE.FREE`, RO (R206). -/
def FB_FREE_FREE : Fld := ⟨0x0A0000, 0, 18⟩
/-- `FB_TX.CELLS`, RW (R206). -/
def FB_TX_CELLS : Fld := ⟨0x0A0004, 0, 18⟩
/-- `FB_TX_HELD.HELD`, RO (R206). -/
def FB_TX_HELD_HELD : Fld := ⟨0x0A0008, 0, 18⟩
/-- `FB_TX_QMAX.QMAX`, RW (R206). -/
def FB_TX_QMAX_QMAX : Fld := ⟨0x0A000C, 0, 18⟩
/-- `FB_SHARED.SIZE`, RO (R206). -/
def FB_SHARED_SIZE : Fld := ⟨0x0A0010, 0, 18⟩
/-- `FB_SHARED_USED.USED`, RO (R206). -/
def FB_SHARED_USED_USED : Fld := ⟨0x0A0014, 0, 18⟩
/-- `FB_LOSSLESS.CLASSES`, RW (R206). -/
def FB_LOSSLESS_CLASSES (i : Nat) : Fld := ⟨0x0A0020 + 4 * i, 0, 8⟩
/-- `FB_EVT.AUDIT`, W1C (R206). -/
def FB_EVT_AUDIT : Fld := ⟨0x0A0030, 0, 1⟩
/-- `FB_EVT.HDRM_OVER`, W1C (R206). -/
def FB_EVT_HDRM_OVER : Fld := ⟨0x0A0030, 1, 4⟩
/-- `FB_CFG_REJ.COUNT`, RC (R206). -/
def FB_CFG_REJ_COUNT : Fld := ⟨0x0A0034, 0, 16⟩
/-- `FB_AUDIT_FREE.FREE`, RO (R206). -/
def FB_AUDIT_FREE_FREE : Fld := ⟨0x0A0038, 0, 18⟩
/-- `FB_AUDIT_HELD.HELD`, RO (R206). -/
def FB_AUDIT_HELD_HELD : Fld := ⟨0x0A003C, 0, 18⟩
/-- `FB_XOFF_STAT.XOFF`, RO (R206). -/
def FB_XOFF_STAT_XOFF : Fld := ⟨0x0A0040, 0, 32⟩
/-- `FB_PC_RES.RES`, RW (R206). -/
def FB_PC_RES_RES (i : Nat) : Fld := ⟨0x0A0100 + 4 * i, 0, 18⟩
/-- `FB_PC_SHMAX.SHMAX`, RW (R206). -/
def FB_PC_SHMAX_SHMAX (i : Nat) : Fld := ⟨0x0A0180 + 4 * i, 0, 18⟩
/-- `FB_PC_HDRM.HDRM`, RW (R206). -/
def FB_PC_HDRM_HDRM (i : Nat) : Fld := ⟨0x0A0200 + 4 * i, 0, 18⟩
/-- `FB_PC_XOFF.XOFF`, RW (R206). -/
def FB_PC_XOFF_XOFF (i : Nat) : Fld := ⟨0x0A0280 + 4 * i, 0, 18⟩
/-- `FB_PC_XON.XON`, RW (R206). -/
def FB_PC_XON_XON (i : Nat) : Fld := ⟨0x0A0300 + 4 * i, 0, 18⟩
/-- `FB_PC_USE.USE`, RO (R206). -/
def FB_PC_USE_USE (i : Nat) : Fld := ⟨0x0A0380 + 4 * i, 0, 18⟩
/-- `FB_PC_HUSE.HUSE`, RO (R206). -/
def FB_PC_HUSE_HUSE (i : Nat) : Fld := ⟨0x0A0400 + 4 * i, 0, 18⟩
/-- `FB_PC_DROP.COUNT`, RC (R206). -/
def FB_PC_DROP_COUNT (i : Nat) : Fld := ⟨0x0A0480 + 4 * i, 0, 32⟩
/-- `SC_SEL.INDEX`, RW (R222). -/
def SC_SEL_INDEX : Fld := ⟨0x0C0000, 0, 15⟩
/-- `SC_SEL.KIND`, RW (R222). -/
def SC_SEL_KIND : Fld := ⟨0x0C0000, 16, 1⟩
/-- `SC_Q_MAP.CHAN`, RWL (R222). -/
def SC_Q_MAP_CHAN : Fld := ⟨0x0C0004, 0, 5⟩
/-- `SC_Q_MAP.CLASS`, RWL (R222). -/
def SC_Q_MAP_CLASS : Fld := ⟨0x0C0004, 5, 3⟩
/-- `SC_Q_MAP.SHAPE`, RWL (R222). -/
def SC_Q_MAP_SHAPE : Fld := ⟨0x0C0004, 8, 1⟩
/-- `SC_RATE.RATE`, RWL (R222). -/
def SC_RATE_RATE : Fld := ⟨0x0C0008, 0, 32⟩
/-- `SC_BURST.BURST`, RWL (R222). -/
def SC_BURST_BURST : Fld := ⟨0x0C000C, 0, 24⟩
/-- `SC_TEN.WEIGHT`, RWL (R222). -/
def SC_TEN_WEIGHT : Fld := ⟨0x0C0010, 0, 12⟩
/-- `SC_TEN.SHAPE`, RWL (R222). -/
def SC_TEN_SHAPE : Fld := ⟨0x0C0010, 12, 1⟩
/-- `SC_TEN.FILL`, RWL (R222). -/
def SC_TEN_FILL : Fld := ⟨0x0C0010, 13, 1⟩
/-- `SC_COMMIT.COMMIT`, WO (R222). -/
def SC_COMMIT_COMMIT (i : Nat) : Fld := ⟨0x11A3000 + 4 * i, 0, 1⟩
/-- `SC_COMMIT.LOCKED`, RO (R222). -/
def SC_COMMIT_LOCKED (i : Nat) : Fld := ⟨0x11A3000 + 4 * i, 1, 1⟩
/-- `SC_COMMIT.GEN`, RO (R222). -/
def SC_COMMIT_GEN (i : Nat) : Fld := ⟨0x11A3000 + 4 * i, 8, 8⟩
/-- `SC_COMMIT.REJ`, RC (R222). -/
def SC_COMMIT_REJ (i : Nat) : Fld := ⟨0x11A3000 + 4 * i, 16, 16⟩
/-- `SC_CMD.READ`, WO (R222). -/
def SC_CMD_READ : Fld := ⟨0x0C0018, 0, 1⟩
/-- `SC_TOK.TOK`, RO (R222). -/
def SC_TOK_TOK : Fld := ⟨0x0C001C, 0, 32⟩
/-- `SC_EVT.TOK_AUDIT`, W1C (R222). -/
def SC_EVT_TOK_AUDIT : Fld := ⟨0x0C0020, 0, 1⟩
/-- `SC_EVT.GUARD`, W1C (R222). -/
def SC_EVT_GUARD : Fld := ⟨0x0C0020, 1, 4⟩
/-- `SC_AUDIT_IDX.INDEX`, RO (R222). -/
def SC_AUDIT_IDX_INDEX : Fld := ⟨0x0C0024, 0, 16⟩
/-- `SC_CFG_REJ.COUNT`, RC (R222). -/
def SC_CFG_REJ_COUNT : Fld := ⟨0x0C0028, 0, 16⟩
/-- `SC_GUARD_CNT.COUNT`, RC (R222). -/
def SC_GUARD_CNT_COUNT : Fld := ⟨0x0C002C, 0, 32⟩
/-- `SC_CH_PACE.PACE_MBPS`, RW (R222). -/
def SC_CH_PACE_PACE_MBPS (i : Nat) : Fld := ⟨0x0C0100 + 4 * i, 0, 21⟩
/-- `SC_CH_STG.STG_KIB`, RW (R222). -/
def SC_CH_STG_STG_KIB (i : Nat) : Fld := ⟨0x0C0180 + 4 * i, 0, 10⟩
/-- `SC_CH_STG.CLS_KIB`, RW (R222). -/
def SC_CH_STG_CLS_KIB (i : Nat) : Fld := ⟨0x0C0180 + 4 * i, 16, 10⟩
/-- `SC_CH_GUARD.STARVE_US`, RW (R222). -/
def SC_CH_GUARD_STARVE_US (i : Nat) : Fld := ⟨0x0C0200 + 4 * i, 0, 16⟩
/-- `SC_CH_GUARD.GUARD_US`, RW (R222). -/
def SC_CH_GUARD_GUARD_US (i : Nat) : Fld := ⟨0x0C0200 + 4 * i, 16, 16⟩
/-- `SC_DRR_Q.QUANTUM_EVEN`, RW (R222). -/
def SC_DRR_Q_QUANTUM_EVEN (i : Nat) (j : Nat) : Fld := ⟨0x0C0400 + 16 * i + 4 * j, 0, 16⟩
/-- `SC_DRR_Q.QUANTUM_ODD`, RW (R222). -/
def SC_DRR_Q_QUANTUM_ODD (i : Nat) (j : Nat) : Fld := ⟨0x0C0400 + 16 * i + 4 * j, 16, 16⟩
/-- `SC_CH_STAT.STAGED`, RO (R222). -/
def SC_CH_STAT_STAGED (i : Nat) : Fld := ⟨0x0C0600 + 4 * i, 0, 20⟩
/-- `SC_CH_STAT.GUARD_ON`, RO (R222). -/
def SC_CH_STAT_GUARD_ON (i : Nat) : Fld := ⟨0x0C0600 + 4 * i, 20, 1⟩
/-- `SC_CH_STAT.RF_HOLD`, RO (R222). -/
def SC_CH_STAT_RF_HOLD (i : Nat) : Fld := ⟨0x0C0600 + 4 * i, 21, 1⟩
/-- `SC_SAMP_SEL.QUEUE`, RW (R222). -/
def SC_SAMP_SEL_QUEUE : Fld := ⟨0x0C0700, 0, 15⟩
/-- `SC_SAMP_SEL.RX`, RW (R222). -/
def SC_SAMP_SEL_RX : Fld := ⟨0x0C0700, 16, 1⟩
/-- `SC_SAMP_SEL.CLR`, WO (R222). -/
def SC_SAMP_SEL_CLR : Fld := ⟨0x0C0700, 31, 1⟩
/-- `SC_SAMP_DEPTH.CELLS`, RO (R222). -/
def SC_SAMP_DEPTH_CELLS (i : Nat) : Fld := ⟨0x10CA000 + 12 * i, 0, 18⟩
/-- `SC_SAMP_DEPTH.FRAMES`, RO (R222). -/
def SC_SAMP_DEPTH_FRAMES (i : Nat) : Fld := ⟨0x10CA000 + 12 * i, 18, 14⟩
/-- `SC_SAMP_DELAY.LAST`, RO (R222). -/
def SC_SAMP_DELAY_LAST (i : Nat) : Fld := ⟨0x10CA004 + 12 * i, 0, 16⟩
/-- `SC_SAMP_DELAY.MAX`, RO (R222). -/
def SC_SAMP_DELAY_MAX (i : Nat) : Fld := ⟨0x10CA004 + 12 * i, 16, 16⟩
/-- `SC_SAMP_MAXD.CELLS_MAX`, RO (R222). -/
def SC_SAMP_MAXD_CELLS_MAX (i : Nat) : Fld := ⟨0x10CA008 + 12 * i, 0, 18⟩
/-- `TG_CTRL.EN`, RW (R222). -/
def TG_CTRL_EN (i : Nat) : Fld := ⟨0x0C1000 + 4 * i, 0, 1⟩
/-- `TG_CTRL.ACTIVE`, RO (R222). -/
def TG_CTRL_ACTIVE (i : Nat) : Fld := ⟨0x0C1000 + 4 * i, 1, 1⟩
/-- `TG_CTRL.PENDING`, RO (R222). -/
def TG_CTRL_PENDING (i : Nat) : Fld := ⟨0x0C1000 + 4 * i, 2, 1⟩
/-- `TG_BASE_NS.NS`, RWL (R222). -/
def TG_BASE_NS_NS (i : Nat) : Fld := ⟨0x0C1100 + 32 * i, 0, 30⟩
/-- `TG_BASE_S_LO.S_LO`, RWL (R222). -/
def TG_BASE_S_LO_S_LO (i : Nat) : Fld := ⟨0x0C1104 + 32 * i, 0, 32⟩
/-- `TG_BASE_S_HI.S_HI`, RWL (R222). -/
def TG_BASE_S_HI_S_HI (i : Nat) : Fld := ⟨0x0C1108 + 32 * i, 0, 16⟩
/-- `TG_CYCLE.CYCLE_NS`, RWL (R222). -/
def TG_CYCLE_CYCLE_NS (i : Nat) : Fld := ⟨0x0C110C + 32 * i, 0, 32⟩
/-- `TG_LEN.LEN`, RWL (R222). -/
def TG_LEN_LEN (i : Nat) : Fld := ⟨0x0C1110 + 32 * i, 0, 9⟩
/-- `TG_LEN.LIST`, RWL (R222). -/
def TG_LEN_LIST (i : Nat) : Fld := ⟨0x0C1110 + 32 * i, 16, 1⟩
/-- `TG_COMMIT.COMMIT`, WO (R222). -/
def TG_COMMIT_COMMIT (i : Nat) : Fld := ⟨0x0C1114 + 32 * i, 0, 1⟩
/-- `TG_COMMIT.LOCKED`, RO (R222). -/
def TG_COMMIT_LOCKED (i : Nat) : Fld := ⟨0x0C1114 + 32 * i, 1, 1⟩
/-- `TG_COMMIT.GEN`, RO (R222). -/
def TG_COMMIT_GEN (i : Nat) : Fld := ⟨0x0C1114 + 32 * i, 8, 8⟩
/-- `TG_COMMIT.REJ`, RC (R222). -/
def TG_COMMIT_REJ (i : Nat) : Fld := ⟨0x0C1114 + 32 * i, 16, 16⟩
/-- `TG_ENTRY.word`, RW (R222). -/
def TG_ENTRY (i : Nat) (j : Nat) (k : Nat) : Fld := ⟨0x0D0000 + 2048 * i + 1024 * j + 4 * k, 0, 32⟩
/-- `TG_EVT.TAKEOVER`, W1C (R222). -/
def TG_EVT_TAKEOVER : Fld := ⟨0x0C1500, 0, 4⟩
/-- `TG_EVT.OVERRUN`, W1C (R222). -/
def TG_EVT_OVERRUN : Fld := ⟨0x0C1500, 4, 4⟩
/-- `TG_CNT_SEL.CHAN`, RW (R222). -/
def TG_CNT_SEL_CHAN : Fld := ⟨0x0C1504, 0, 5⟩
/-- `TG_OVERRUN.COUNT`, RC (R222). -/
def TG_OVERRUN_COUNT (i : Nat) : Fld := ⟨0x118A000 + 8 * i, 0, 32⟩
/-- `TG_LATE.COUNT`, RC (R222). -/
def TG_LATE_COUNT (i : Nat) : Fld := ⟨0x118A004 + 8 * i, 0, 16⟩
/-- `HR_CMD_BASE_LO.ADDR_LO`, RW (R256). -/
def HR_CMD_BASE_LO_ADDR_LO : Fld := ⟨0x100000, 6, 26⟩
/-- `HR_CMDC_BASE_LO.ADDR_LO`, RW (R256). -/
def HR_CMDC_BASE_LO_ADDR_LO : Fld := ⟨0x100008, 6, 26⟩
/-- `HR_CMD_BASE_HI.ADDR_HI`, RW (R256). -/
def HR_CMD_BASE_HI_ADDR_HI : Fld := ⟨0x100004, 0, 25⟩
/-- `HR_CMDC_BASE_HI.ADDR_HI`, RW (R256). -/
def HR_CMDC_BASE_HI_ADDR_HI : Fld := ⟨0x10000C, 0, 25⟩
/-- `HR_CMD_CFG.EN`, RW (R256). -/
def HR_CMD_CFG_EN : Fld := ⟨0x100010, 0, 1⟩
/-- `HR_CMD_CFG.LOG2`, RW (R256). -/
def HR_CMD_CFG_LOG2 : Fld := ⟨0x100010, 8, 4⟩
/-- `HR_CMD_PI.PI`, RW (R256). -/
def HR_CMD_PI_PI : Fld := ⟨0x100014, 0, 16⟩
/-- `HR_CMD_STAT.CI`, RO (R256). -/
def HR_CMD_STAT_CI : Fld := ⟨0x100018, 0, 16⟩
/-- `HR_CMD_STAT.HALTED`, RO (R256). -/
def HR_CMD_STAT_HALTED : Fld := ⟨0x100018, 16, 1⟩
/-- `HR_CMD_STAT.ACTIVE`, RO (R256). -/
def HR_CMD_STAT_ACTIVE : Fld := ⟨0x100018, 24, 8⟩
/-- `HR_EVT.CMD_DONE`, W1C (R256). -/
def HR_EVT_CMD_DONE : Fld := ⟨0x10001C, 0, 1⟩
/-- `HR_EVT.CMD_HALT`, W1C (R256). -/
def HR_EVT_CMD_HALT : Fld := ⟨0x10001C, 1, 1⟩
/-- `HR_EVT.RING_FAULT`, W1C (R256). -/
def HR_EVT_RING_FAULT : Fld := ⟨0x10001C, 2, 1⟩
/-- `HR_EVT.CMPL_FAULT`, W1C (R256). -/
def HR_EVT_CMPL_FAULT : Fld := ⟨0x10001C, 3, 1⟩
/-- `HR_EVT.NT_FAIL`, W1C (R256). -/
def HR_EVT_NT_FAIL : Fld := ⟨0x10001C, 4, 1⟩
/-- `HR_EVT.EV_LOST`, W1C (R256). -/
def HR_EVT_EV_LOST : Fld := ⟨0x10001C, 5, 1⟩
/-- `HR_EVT.DB_REJ`, W1C (R256). -/
def HR_EVT_DB_REJ : Fld := ⟨0x10001C, 6, 1⟩
/-- `HR_CTX_SEL.CTX`, RW (R256). -/
def HR_CTX_SEL_CTX : Fld := ⟨0x100020, 0, 12⟩
/-- `HR_CTX_CNT.STATE_CNT`, RC (R256). -/
def HR_CTX_CNT_STATE_CNT (i : Nat) : Fld := ⟨0x118B000 + 8 * i, 0, 16⟩
/-- `HR_CTX_CNT.DB_REJ`, RC (R256). -/
def HR_CTX_CNT_DB_REJ (i : Nat) : Fld := ⟨0x118B000 + 8 * i, 16, 16⟩
/-- `HR_CTX_EVL.EV_LOST`, RC (R256). -/
def HR_CTX_EVL_EV_LOST (i : Nat) : Fld := ⟨0x118B004 + 8 * i, 0, 16⟩
/-- `HR_CTX_EVL.EVQ_SET`, RO (R256). -/
def HR_CTX_EVL_EVQ_SET (i : Nat) : Fld := ⟨0x118B004 + 8 * i, 16, 1⟩
/-- `HR_DB_LAST.CTX`, RO (R256). -/
def HR_DB_LAST_CTX : Fld := ⟨0x10002C, 0, 12⟩
/-- `HR_DB_LAST.QUEUE`, RO (R256). -/
def HR_DB_LAST_QUEUE : Fld := ⟨0x10002C, 12, 6⟩
/-- `HR_DB_LAST.KIND`, RO (R256). -/
def HR_DB_LAST_KIND : Fld := ⟨0x10002C, 18, 1⟩
/-- `HR_DB_LAST.EVQ`, RO (R256). -/
def HR_DB_LAST_EVQ : Fld := ⟨0x10002C, 19, 1⟩
/-- `HR_DB_LAST.REASON`, RO (R256). -/
def HR_DB_LAST_REASON : Fld := ⟨0x10002C, 20, 3⟩
/-- `HR_DB_LAST.VALID`, W1C (R256). -/
def HR_DB_LAST_VALID : Fld := ⟨0x10002C, 31, 1⟩
/-- `HR_Q_SEL.QUEUE`, RW (R256). -/
def HR_Q_SEL_QUEUE : Fld := ⟨0x100030, 0, 15⟩
/-- `HR_Q_SEL.RX`, RW (R256). -/
def HR_Q_SEL_RX : Fld := ⟨0x100030, 16, 1⟩
/-- `HR_Q_STAT.STATE`, RO (R256). -/
def HR_Q_STAT_STATE : Fld := ⟨0x100034, 0, 2⟩
/-- `HR_Q_STAT.FAULTED`, RO (R256). -/
def HR_Q_STAT_FAULTED : Fld := ⟨0x100034, 2, 1⟩
/-- `HR_Q_STAT.LAST_STATUS`, RO (R256). -/
def HR_Q_STAT_LAST_STATUS : Fld := ⟨0x100034, 4, 4⟩
/-- `HR_Q_STAT.QIDX`, RO (R256). -/
def HR_Q_STAT_QIDX : Fld := ⟨0x100034, 8, 6⟩
/-- `HR_Q_STAT.FETCHED`, RO (R256). -/
def HR_Q_STAT_FETCHED : Fld := ⟨0x100034, 14, 7⟩
/-- `HR_Q_IDX.PI`, RO (R256). -/
def HR_Q_IDX_PI : Fld := ⟨0x100038, 0, 16⟩
/-- `HR_Q_IDX.CI`, RO (R256). -/
def HR_Q_IDX_CI : Fld := ⟨0x100038, 16, 16⟩
/-- `HR_Q_CIDX.CPI`, RO (R256). -/
def HR_Q_CIDX_CPI : Fld := ⟨0x10003C, 0, 16⟩
/-- `HR_Q_CIDX.CTX`, RO (R256). -/
def HR_Q_CIDX_CTX : Fld := ⟨0x10003C, 16, 12⟩
/-- `HR_CFG_REJ.COUNT`, RC (R256). -/
def HR_CFG_REJ_COUNT : Fld := ⟨0x100040, 0, 16⟩
/-- `HR_NT_FAIL.COUNT`, RC (R256). -/
def HR_NT_FAIL_COUNT : Fld := ⟨0x100044, 0, 32⟩
/-- `CX_SEL.CTX`, RW (R279). -/
def CX_SEL_CTX : Fld := ⟨0x101000, 0, 12⟩
/-- `CX_STAT.STATE`, RO (R279). -/
def CX_STAT_STATE (i : Nat) : Fld := ⟨0x1193000 + 16 * i, 0, 3⟩
/-- `CX_STAT.DIRTY_ON`, RO (R279). -/
def CX_STAT_DIRTY_ON (i : Nat) : Fld := ⟨0x1193000 + 16 * i, 3, 1⟩
/-- `CX_STAT.DIRTY_FAULT`, RO (R279). -/
def CX_STAT_DIRTY_FAULT (i : Nat) : Fld := ⟨0x1193000 + 16 * i, 4, 1⟩
/-- `CX_STAT.NTXQ`, RO (R279). -/
def CX_STAT_NTXQ (i : Nat) : Fld := ⟨0x1193000 + 16 * i, 8, 7⟩
/-- `CX_STAT.NRXQ`, RO (R279). -/
def CX_STAT_NRXQ (i : Nat) : Fld := ⟨0x1193000 + 16 * i, 16, 7⟩
/-- `CX_STAT.DRAIN_TMO`, RC (R279). -/
def CX_STAT_DRAIN_TMO (i : Nat) : Fld := ⟨0x1193000 + 16 * i, 24, 8⟩
/-- `CX_OWNER.OWNER`, RWL (R279). -/
def CX_OWNER_OWNER (i : Nat) : Fld := ⟨0x1193004 + 16 * i, 0, 32⟩
/-- `CX_PARAM.PC_GROUPS`, RWL (R279). -/
def CX_PARAM_PC_GROUPS (i : Nat) : Fld := ⟨0x1193008 + 16 * i, 0, 8⟩
/-- `CX_PARAM.EV_STATE`, RWL (R279). -/
def CX_PARAM_EV_STATE (i : Nat) : Fld := ⟨0x1193008 + 16 * i, 8, 1⟩
/-- `CX_COMMIT.COMMIT`, WO (R279). -/
def CX_COMMIT_COMMIT (i : Nat) : Fld := ⟨0x119300C + 16 * i, 0, 1⟩
/-- `CX_COMMIT.LOCKED`, RO (R279). -/
def CX_COMMIT_LOCKED (i : Nat) : Fld := ⟨0x119300C + 16 * i, 1, 1⟩
/-- `CX_COMMIT.GEN`, RO (R279). -/
def CX_COMMIT_GEN (i : Nat) : Fld := ⟨0x119300C + 16 * i, 8, 8⟩
/-- `CX_COMMIT.REJ`, RC (R279). -/
def CX_COMMIT_REJ (i : Nat) : Fld := ⟨0x119300C + 16 * i, 16, 16⟩
/-- `CX_QMAP_SEL.QIDX`, RW (R279). -/
def CX_QMAP_SEL_QIDX : Fld := ⟨0x101014, 0, 6⟩
/-- `CX_QMAP_SEL.RX`, RW (R279). -/
def CX_QMAP_SEL_RX : Fld := ⟨0x101014, 8, 1⟩
/-- `CX_QMAP.POOL`, RO (R279). -/
def CX_QMAP_POOL : Fld := ⟨0x101018, 0, 15⟩
/-- `CX_QMAP.VALID`, RO (R279). -/
def CX_QMAP_VALID : Fld := ⟨0x101018, 31, 1⟩
/-- `CX_LIMITS.DRAIN_US`, RW (R279). -/
def CX_LIMITS_DRAIN_US : Fld := ⟨0x10101C, 0, 16⟩
/-- `CX_LIMITS.FREEZE_US`, RW (R279). -/
def CX_LIMITS_FREEZE_US : Fld := ⟨0x10101C, 16, 16⟩
/-- `CX_POOL.TX_FREE`, RO (R279). -/
def CX_POOL_TX_FREE : Fld := ⟨0x101020, 0, 16⟩
/-- `CX_POOL.RX_FREE`, RO (R279). -/
def CX_POOL_RX_FREE : Fld := ⟨0x101020, 16, 16⟩
/-- `CX_COUNT.IN_USE`, RO (R279). -/
def CX_COUNT_IN_USE : Fld := ⟨0x101024, 0, 13⟩
/-- `CX_IMG_ERR.CODE`, RO (R279). -/
def CX_IMG_ERR_CODE : Fld := ⟨0x101028, 0, 3⟩
/-- `CX_IMG_ERR.OFF`, RO (R279). -/
def CX_IMG_ERR_OFF : Fld := ⟨0x101028, 4, 12⟩
/-- `CX_EVT.RESET_DONE`, W1C (R279). -/
def CX_EVT_RESET_DONE : Fld := ⟨0x10102C, 0, 1⟩
/-- `CX_EVT.FROZEN`, W1C (R279). -/
def CX_EVT_FROZEN : Fld := ⟨0x10102C, 1, 1⟩
/-- `CX_EVT.FREEZE_ABORT`, W1C (R279). -/
def CX_EVT_FREEZE_ABORT : Fld := ⟨0x10102C, 2, 1⟩
/-- `CX_EVT.DIRTY_FAULT`, W1C (R279). -/
def CX_EVT_DIRTY_FAULT : Fld := ⟨0x10102C, 3, 1⟩
/-- `CX_EVT.SHADE_REJ`, W1C (R279). -/
def CX_EVT_SHADE_REJ : Fld := ⟨0x10102C, 4, 1⟩
/-- `CC_MASTER.HALT`, RW (R281). -/
def CC_MASTER_HALT (i : Nat) : Fld := ⟨0x140400 + 4 * i, 0, 6⟩
/-- `CC_MASTER.VALID`, RW (R281). -/
def CC_MASTER_VALID (i : Nat) : Fld := ⟨0x140400 + 4 * i, 8, 1⟩
/-- `CC_MASTER.TGT`, RW (R281). -/
def CC_MASTER_TGT (i : Nat) : Fld := ⟨0x140400 + 4 * i, 16, 7⟩
/-- `CC_MASTER.TGT_EN`, RW (R281). -/
def CC_MASTER_TGT_EN (i : Nat) : Fld := ⟨0x140400 + 4 * i, 23, 1⟩
/-- `CC_W.WORD`, RW (R281). -/
def CC_W_WORD (i : Nat) (j : Nat) : Fld := ⟨0x148000 + 128 * i + 4 * j, 0, 32⟩
/-- `CC_COMMIT.word`, WO (R281). -/
def CC_COMMIT (i : Nat) : Fld := ⟨0x148044 + 128 * i, 0, 32⟩
/-- `CC_DONE.word`, WO (R281). -/
def CC_DONE (i : Nat) : Fld := ⟨0x148048 + 128 * i, 0, 32⟩
/-- `CC_RELEASE.TOKEN`, WO (R281). -/
def CC_RELEASE_TOKEN (i : Nat) : Fld := ⟨0x14804C + 128 * i, 0, 16⟩
/-- `CC_RELEASE.word`, WO (R281). -/
def CC_RELEASE_HIGH (i : Nat) : Fld := ⟨0x14804C + 128 * i, 16, 16⟩
/-- `CC_CFG.CONSUMER`, RW (R281). -/
def CC_CFG_CONSUMER (i : Nat) : Fld := ⟨0x148054 + 128 * i, 0, 7⟩
/-- `CC_RESULT.STATUS`, RO (R281). -/
def CC_RESULT_STATUS (i : Nat) : Fld := ⟨0x148058 + 128 * i, 0, 4⟩
/-- `CC_RESULT.RCOUNT`, RO (R281). -/
def CC_RESULT_RCOUNT (i : Nat) : Fld := ⟨0x148058 + 128 * i, 4, 5⟩
/-- `CC_CTRL.LEASE_US`, RW (R290). -/
def CC_CTRL_LEASE_US : Fld := ⟨0x140000, 0, 16⟩
/-- `CC_EVT.LEASE_EXP`, W1C (R290). -/
def CC_EVT_LEASE_EXP : Fld := ⟨0x140004, 0, 1⟩
/-- `CC_EVT.BREAK`, W1C (R290). -/
def CC_EVT_BREAK : Fld := ⟨0x140004, 1, 1⟩
/-- `CC_EVT.REJ`, W1C (R290). -/
def CC_EVT_REJ : Fld := ⟨0x140004, 2, 1⟩
/-- `CC_BREAK.CHAN`, WO (R290). -/
def CC_BREAK_CHAN : Fld := ⟨0x140008, 0, 8⟩
/-- `CC_REJ.COUNT`, RC (R290). -/
def CC_REJ_COUNT : Fld := ⟨0x14000C, 0, 32⟩
/-- `CC_EXP_CNT.EXP`, RC (R290). -/
def CC_EXP_CNT_EXP : Fld := ⟨0x140010, 0, 16⟩
/-- `CC_EXP_CNT.BRK`, RC (R290). -/
def CC_EXP_CNT_BRK : Fld := ⟨0x140010, 16, 16⟩
/-- `CC_PEND_SEL.CONSUMER`, RW (R290). -/
def CC_PEND_SEL_CONSUMER : Fld := ⟨0x140014, 0, 7⟩
/-- `CC_PEND.PEND`, RO (R290). -/
def CC_PEND_PEND (i : Nat) : Fld := ⟨0x140020 + 4 * i, 0, 32⟩
/-- `TB_REL.TOKEN`, WO (R291). -/
def TB_REL_TOKEN (i : Nat) : Fld := ⟨0x150004 + 16 * i, 0, 16⟩
/-- `TB_REL.word`, WO (R291). -/
def TB_REL_HIGH (i : Nat) : Fld := ⟨0x150004 + 16 * i, 16, 16⟩
/-- `TB_STAT.HOLDER`, RO (R291). -/
def TB_STAT_HOLDER (i : Nat) : Fld := ⟨0x150008 + 16 * i, 16, 9⟩
/-- `TB_STAT.HALTED`, RO (R291). -/
def TB_STAT_HALTED (i : Nat) : Fld := ⟨0x150008 + 16 * i, 28, 1⟩
/-- `TB_STAT.HELD`, RO (R291). -/
def TB_STAT_HELD (i : Nat) : Fld := ⟨0x150008 + 16 * i, 30, 1⟩
/-- `TB_UNWANT.word`, WO (R291). -/
def TB_UNWANT (i : Nat) : Fld := ⟨0x15000C + 16 * i, 0, 32⟩
/-- `TB_CTRL.WANT_US`, RW (R296). -/
def TB_CTRL_WANT_US : Fld := ⟨0x141000, 0, 16⟩
/-- `TB_EVT.CYCLE`, W1C (R296). -/
def TB_EVT_CYCLE : Fld := ⟨0x141004, 0, 1⟩
/-- `TB_EVT.FORCED`, W1C (R296). -/
def TB_EVT_FORCED : Fld := ⟨0x141004, 1, 1⟩
/-- `TB_FORCE.LOCK`, WO (R296). -/
def TB_FORCE_LOCK : Fld := ⟨0x141008, 0, 10⟩
/-- `TB_CYC.START`, RO (R296). -/
def TB_CYC_START : Fld := ⟨0x14100C, 0, 9⟩
/-- `TB_CYC.LEN`, RO (R296). -/
def TB_CYC_LEN : Fld := ⟨0x14100C, 9, 10⟩
/-- `TB_CYC.LOCK`, RO (R296). -/
def TB_CYC_LOCK : Fld := ⟨0x14100C, 19, 10⟩
/-- `TB_REJ.COUNT`, RC (R296). -/
def TB_REJ_COUNT : Fld := ⟨0x141010, 0, 32⟩
/-- `TB_CYC_CNT.CYC`, RC (R296). -/
def TB_CYC_CNT_CYC : Fld := ⟨0x141014, 0, 16⟩
/-- `TB_CYC_CNT.FORCE`, RC (R296). -/
def TB_CYC_CNT_FORCE : Fld := ⟨0x141014, 16, 16⟩
/-- `TB_CYC_MASK.MASK`, RO (R296). -/
def TB_CYC_MASK_MASK (i : Nat) : Fld := ⟨0x141040 + 4 * i, 0, 32⟩
/-- `TB_WANT.LOCK`, RO (R296). -/
def TB_WANT_LOCK (i : Nat) : Fld := ⟨0x141400 + 4 * i, 0, 10⟩
/-- `TB_WANT.VALID`, RO (R296). -/
def TB_WANT_VALID (i : Nat) : Fld := ⟨0x141400 + 4 * i, 31, 1⟩
/-- `LG_CFG.PERIOD_S`, RW (R313). -/
def LG_CFG_PERIOD_S : Fld := ⟨0x160000, 0, 12⟩
/-- `LG_CFG.CLOSE_US`, RW (R313). -/
def LG_CFG_CLOSE_US : Fld := ⟨0x160000, 16, 16⟩
/-- `LG_RING_LO.ADDR_LO`, RW (R313). -/
def LG_RING_LO_ADDR_LO : Fld := ⟨0x160004, 9, 23⟩
/-- `LG_RING_HI.ADDR_HI`, RW (R313). -/
def LG_RING_HI_ADDR_HI : Fld := ⟨0x160008, 0, 25⟩
/-- `LG_RING_CFG.EN`, RW (R313). -/
def LG_RING_CFG_EN : Fld := ⟨0x16000C, 0, 1⟩
/-- `LG_RING_CFG.LOG2`, RW (R313). -/
def LG_RING_CFG_LOG2 : Fld := ⟨0x16000C, 8, 4⟩
/-- `LG_PI.PI`, RO (R313). -/
def LG_PI_PI : Fld := ⟨0x160010, 0, 16⟩
/-- `LG_CI.CI`, RW (R313). -/
def LG_CI_CI : Fld := ⟨0x160014, 0, 16⟩
/-- `LG_STAT.PENDING`, RO (R313). -/
def LG_STAT_PENDING : Fld := ⟨0x160018, 0, 1⟩
/-- `LG_STAT.WINDOW`, RO (R313). -/
def LG_STAT_WINDOW : Fld := ⟨0x160018, 1, 1⟩
/-- `LG_STAT.HALTED`, RO (R313). -/
def LG_STAT_HALTED : Fld := ⟨0x160018, 2, 1⟩
/-- `LG_STAT.CLOSE_FREE`, RO (R313). -/
def LG_STAT_CLOSE_FREE : Fld := ⟨0x160018, 3, 7⟩
/-- `LG_SEQ.CUT_SEQ`, RO (R313). -/
def LG_SEQ_CUT_SEQ : Fld := ⟨0x16001C, 0, 32⟩
/-- `LG_EVT.CUT_DONE`, W1C (R313). -/
def LG_EVT_CUT_DONE : Fld := ⟨0x160020, 0, 1⟩
/-- `LG_EVT.AUDIT`, W1C (R313). -/
def LG_EVT_AUDIT : Fld := ⟨0x160020, 1, 1⟩
/-- `LG_EVT.LATE`, W1C (R313). -/
def LG_EVT_LATE : Fld := ⟨0x160020, 2, 1⟩
/-- `LG_EVT.SKIP`, W1C (R313). -/
def LG_EVT_SKIP : Fld := ⟨0x160020, 3, 1⟩
/-- `LG_EVT.WR_FAULT`, W1C (R313). -/
def LG_EVT_WR_FAULT : Fld := ⟨0x160020, 4, 1⟩
/-- `LG_AUDIT.CODE`, RO (R313). -/
def LG_AUDIT_CODE : Fld := ⟨0x160024, 0, 3⟩
/-- `LG_AUDIT.TX`, RO (R313). -/
def LG_AUDIT_TX : Fld := ⟨0x160024, 3, 1⟩
/-- `LG_AUDIT.CTX`, RO (R313). -/
def LG_AUDIT_CTX : Fld := ⟨0x160024, 4, 12⟩
/-- `LG_AUDIT_SEQ.CUT_SEQ`, RO (R313). -/
def LG_AUDIT_SEQ_CUT_SEQ : Fld := ⟨0x160028, 0, 32⟩
/-- `LG_LATE.COUNT`, RC (R313). -/
def LG_LATE_COUNT : Fld := ⟨0x16002C, 0, 32⟩
/-- `LG_SKIP.COUNT`, RC (R313). -/
def LG_SKIP_COUNT : Fld := ⟨0x160030, 0, 16⟩
/-- `LG_SKIP.CFG_REJ`, RC (R313). -/
def LG_SKIP_CFG_REJ : Fld := ⟨0x160030, 16, 16⟩
/-- `LG_SEL.CTX`, RW (R313). -/
def LG_SEL_CTX : Fld := ⟨0x160040, 0, 12⟩
/-- `LG_SEL.TX`, RW (R313). -/
def LG_SEL_TX : Fld := ⟨0x160040, 16, 1⟩
/-- `LG_SEL.BANK`, RW (R313). -/
def LG_SEL_BANK : Fld := ⟨0x160040, 17, 1⟩
/-- `LG_VAL_LO.VALUE`, RO (R313). -/
def LG_VAL_LO_VALUE (i : Nat) : Fld := ⟨0x160100 + 8 * i, 0, 32⟩
/-- `LG_VAL_HI.VALUE`, RO (R313). -/
def LG_VAL_HI_VALUE (i : Nat) : Fld := ⟨0x160104 + 8 * i, 0, 32⟩
/-- `TM_CTRL.PPS_EN`, RW (R331). -/
def TM_CTRL_PPS_EN : Fld := ⟨0x170000, 0, 1⟩
/-- `TM_CTRL.TOD_EN`, RW (R331). -/
def TM_CTRL_TOD_EN : Fld := ⟨0x170000, 1, 1⟩
/-- `TM_CTRL.AUTO_STEP`, RW (R331). -/
def TM_CTRL_AUTO_STEP : Fld := ⟨0x170000, 2, 1⟩
/-- `TM_CTRL.SW_HOLD`, RW (R331). -/
def TM_CTRL_SW_HOLD : Fld := ⟨0x170000, 3, 1⟩
/-- `TM_CTRL.AON_AUTO`, RW (R331). -/
def TM_CTRL_AON_AUTO : Fld := ⟨0x170000, 4, 1⟩
/-- `TM_CTRL.LOCK_N`, RW (R331). -/
def TM_CTRL_LOCK_N : Fld := ⟨0x170000, 8, 3⟩
/-- `TM_INCR.INCR`, RW (R331). -/
def TM_INCR_INCR : Fld := ⟨0x170004, 0, 32⟩
/-- `TM_NOW_FRAC.FRAC`, RO (R331). -/
def TM_NOW_FRAC_FRAC : Fld := ⟨0x170008, 0, 16⟩
/-- `TM_NOW_NS.NS`, RO (R331). -/
def TM_NOW_NS_NS : Fld := ⟨0x17000C, 0, 30⟩
/-- `TM_NOW_S_LO.S_LO`, RO (R331). -/
def TM_NOW_S_LO_S_LO : Fld := ⟨0x170010, 0, 32⟩
/-- `TM_NOW_S_HI.S_HI`, RO (R331). -/
def TM_NOW_S_HI_S_HI : Fld := ⟨0x170014, 0, 16⟩
/-- `TM_SET_NS.NS`, RW (R331). -/
def TM_SET_NS_NS : Fld := ⟨0x170018, 0, 30⟩
/-- `TM_SET_S_LO.S_LO`, RW (R331). -/
def TM_SET_S_LO_S_LO : Fld := ⟨0x17001C, 0, 32⟩
/-- `TM_SET_S_HI.S_HI`, RW (R331). -/
def TM_SET_S_HI_S_HI : Fld := ⟨0x170020, 0, 16⟩
/-- `TM_OFFSET.NS`, RW (R331). -/
def TM_OFFSET_NS : Fld := ⟨0x170024, 0, 32⟩
/-- `TM_CMD.SET`, WO (R331). -/
def TM_CMD_SET : Fld := ⟨0x170028, 0, 1⟩
/-- `TM_CMD.OFFSET`, WO (R331). -/
def TM_CMD_OFFSET : Fld := ⟨0x170028, 1, 1⟩
/-- `TM_CMD.RELOCK`, WO (R331). -/
def TM_CMD_RELOCK : Fld := ⟨0x170028, 2, 1⟩
/-- `TM_STAT.HOLDOVER`, RO (R331). -/
def TM_STAT_HOLDOVER : Fld := ⟨0x17002C, 0, 1⟩
/-- `TM_STAT.SLEEP_HOLD`, RO (R331). -/
def TM_STAT_SLEEP_HOLD : Fld := ⟨0x17002C, 1, 1⟩
/-- `TM_STAT.PPS_HOLD`, RO (R331). -/
def TM_STAT_PPS_HOLD : Fld := ⟨0x17002C, 2, 1⟩
/-- `TM_STAT.UNSET`, RO (R331). -/
def TM_STAT_UNSET : Fld := ⟨0x17002C, 3, 1⟩
/-- `TM_STAT.BUSY`, RO (R331). -/
def TM_STAT_BUSY : Fld := ⟨0x17002C, 4, 1⟩
/-- `TM_STAT.GOOD`, RO (R331). -/
def TM_STAT_GOOD : Fld := ⟨0x17002C, 8, 3⟩
/-- `TM_PPS_CAP_NS.NS`, RO (R331). -/
def TM_PPS_CAP_NS_NS : Fld := ⟨0x170030, 0, 30⟩
/-- `TM_PPS_CAP_S.S_LO`, RO (R331). -/
def TM_PPS_CAP_S_S_LO : Fld := ⟨0x170034, 0, 32⟩
/-- `TM_PPS_ERR.ERR`, RO (R331). -/
def TM_PPS_ERR_ERR : Fld := ⟨0x170038, 0, 32⟩
/-- `TM_PPS_CFG.PPS_CORR`, RW (R331). -/
def TM_PPS_CFG_PPS_CORR : Fld := ⟨0x17003C, 0, 16⟩
/-- `TM_PPS_CFG.LOCK_NS`, RW (R331). -/
def TM_PPS_CFG_LOCK_NS : Fld := ⟨0x17003C, 16, 16⟩
/-- `TM_STEP_NS.STEP_NS`, RW (R331). -/
def TM_STEP_NS_STEP_NS : Fld := ⟨0x170040, 0, 32⟩
/-- `TM_TOD_S_LO.S_LO`, RO (R331). -/
def TM_TOD_S_LO_S_LO : Fld := ⟨0x170044, 0, 32⟩
/-- `TM_TOD_S_HI.S_HI`, RO (R331). -/
def TM_TOD_S_HI_S_HI : Fld := ⟨0x170048, 0, 16⟩
/-- `TM_AON_PERIOD.PERIOD`, RW (R331). -/
def TM_AON_PERIOD_PERIOD : Fld := ⟨0x170050, 0, 32⟩
/-- `TM_AON_MEAS.PERIOD`, RO (R331). -/
def TM_AON_MEAS_PERIOD : Fld := ⟨0x170054, 0, 32⟩
/-- `TM_AON_CNT_LO.COUNT`, RO (R331). -/
def TM_AON_CNT_LO_COUNT : Fld := ⟨0x170058, 0, 32⟩
/-- `TM_AON_CNT_HI.COUNT`, RO (R331). -/
def TM_AON_CNT_HI_COUNT : Fld := ⟨0x17005C, 0, 32⟩
/-- `TM_SLEEP_LO.NS`, RO (R331). -/
def TM_SLEEP_LO_NS : Fld := ⟨0x170060, 0, 32⟩
/-- `TM_SLEEP_HI.NS`, RO (R331). -/
def TM_SLEEP_HI_NS : Fld := ⟨0x170064, 0, 32⟩
/-- `TM_RX_CORR.CORR`, RW (R331). -/
def TM_RX_CORR_CORR (i : Nat) : Fld := ⟨0x170100 + 4 * i, 0, 32⟩
/-- `TM_TX_CORR.CORR`, RW (R331). -/
def TM_TX_CORR_CORR (i : Nat) : Fld := ⟨0x170180 + 4 * i, 0, 32⟩
/-- `TM_EVT.PPS`, W1C (R331). -/
def TM_EVT_PPS : Fld := ⟨0x170070, 0, 1⟩
/-- `TM_EVT.PPS_LOSS`, W1C (R331). -/
def TM_EVT_PPS_LOSS : Fld := ⟨0x170070, 1, 1⟩
/-- `TM_EVT.TOD`, W1C (R331). -/
def TM_EVT_TOD : Fld := ⟨0x170070, 2, 1⟩
/-- `TM_EVT.STEP`, W1C (R331). -/
def TM_EVT_STEP : Fld := ⟨0x170070, 3, 1⟩
/-- `TM_EVT.HOLD_CHG`, W1C (R331). -/
def TM_EVT_HOLD_CHG : Fld := ⟨0x170070, 4, 1⟩
/-- `TM_EVT.AON_CAL`, W1C (R331). -/
def TM_EVT_AON_CAL : Fld := ⟨0x170070, 5, 1⟩
/-- `TM_CFG_REJ.COUNT`, RC (R331). -/
def TM_CFG_REJ_COUNT : Fld := ⟨0x170074, 0, 16⟩
/-- `TM_CFG_REJ.TOD_BAD`, RC (R331). -/
def TM_CFG_REJ_TOD_BAD : Fld := ⟨0x170074, 16, 16⟩
/-- `TM_PPS_GLITCH.COUNT`, RC (R331). -/
def TM_PPS_GLITCH_COUNT : Fld := ⟨0x170078, 0, 32⟩
/-- `HB_CTRL.DISABLE`, RW (R349). -/
def HB_CTRL_DISABLE : Fld := ⟨0x180000, 0, 1⟩
/-- `HB_CTRL.REDIRECT_US`, RW (R349). -/
def HB_CTRL_REDIRECT_US : Fld := ⟨0x180000, 16, 16⟩
/-- `HB_EVT.IGNORED`, W1C (R349). -/
def HB_EVT_IGNORED : Fld := ⟨0x180004, 0, 1⟩
/-- `HB_EVT.REDIRECT`, W1C (R349). -/
def HB_EVT_REDIRECT : Fld := ⟨0x180004, 1, 1⟩
/-- `HB_EVT.CFG_REJ`, W1C (R349). -/
def HB_EVT_CFG_REJ : Fld := ⟨0x180004, 2, 1⟩
/-- `HB_EVT.WAKE`, W1C (R349). -/
def HB_EVT_WAKE : Fld := ⟨0x180004, 3, 1⟩
/-- `HB_IGN_CNT.COUNT`, RC (R349). -/
def HB_IGN_CNT_COUNT : Fld := ⟨0x180008, 0, 32⟩
/-- `HB_REDIR_CNT.COUNT`, RC (R349). -/
def HB_REDIR_CNT_COUNT : Fld := ⟨0x18000C, 0, 32⟩
/-- `HB_CFG_REJ.COUNT`, RC (R349). -/
def HB_CFG_REJ_COUNT : Fld := ⟨0x180010, 0, 16⟩
/-- `HB_SW_SET.SOURCE`, WO (R349). -/
def HB_SW_SET_SOURCE : Fld := ⟨0x180014, 0, 12⟩
/-- `HB_WATCH.SOURCE`, RW (R349). -/
def HB_WATCH_SOURCE (i : Nat) : Fld := ⟨0x180100 + 4 * i, 0, 12⟩
/-- `HB_WATCH.EN`, RW (R349). -/
def HB_WATCH_EN (i : Nat) : Fld := ⟨0x180100 + 4 * i, 31, 1⟩
/-- `HB_WAKE_STAT.ENTRY`, RO (R349). -/
def HB_WAKE_STAT_ENTRY : Fld := ⟨0x180180, 0, 5⟩
/-- `HB_WAKE_STAT.VALID`, W1C (R349). -/
def HB_WAKE_STAT_VALID : Fld := ⟨0x180180, 31, 1⟩
/-- `HB_PEND.PEND`, RO (R349). -/
def HB_PEND_PEND (i : Nat) : Fld := ⟨0x182000 + 4 * i, 0, 32⟩
/-- `HB_ACTIVE.ACTIVE`, RO (R349). -/
def HB_ACTIVE_ACTIVE (i : Nat) : Fld := ⟨0x182200 + 4 * i, 0, 32⟩
/-- `HB_SRC_CFG.EN`, RW (R349). -/
def HB_SRC_CFG_EN (i : Nat) : Fld := ⟨0x184000 + 4 * i, 0, 1⟩
/-- `HB_SRC_CFG.EDGE`, RO (R349). -/
def HB_SRC_CFG_EDGE (i : Nat) : Fld := ⟨0x184000 + 4 * i, 1, 1⟩
/-- `HB_SRC_CFG.TARGET`, RW (R349). -/
def HB_SRC_CFG_TARGET (i : Nat) : Fld := ⟨0x184000 + 4 * i, 8, 7⟩
/-- `HB_SRC_CFG.PENDING`, RO (R349). -/
def HB_SRC_CFG_PENDING (i : Nat) : Fld := ⟨0x184000 + 4 * i, 16, 1⟩
/-- `HB_SRC_CFG.ACTIVE`, RO (R349). -/
def HB_SRC_CFG_ACTIVE (i : Nat) : Fld := ⟨0x184000 + 4 * i, 17, 1⟩
/-- `HB_SRC_CFG.PRECED`, RO (R349). -/
def HB_SRC_CFG_PRECED (i : Nat) : Fld := ⟨0x184000 + 4 * i, 18, 1⟩
/-- `HB_SRC_CFG.REDIR`, RO (R349). -/
def HB_SRC_CFG_REDIR (i : Nat) : Fld := ⟨0x184000 + 4 * i, 19, 1⟩
/-- `HB_SRC_CFG.EFF`, RO (R349). -/
def HB_SRC_CFG_EFF (i : Nat) : Fld := ⟨0x184000 + 4 * i, 20, 7⟩
/-- `HB_GRP_CFG.HOLD_US`, RW (R349). -/
def HB_GRP_CFG_HOLD_US (i : Nat) : Fld := ⟨0x187000 + 4 * i, 0, 16⟩
/-- `HB_GRP_CFG.RUNNING`, RO (R349). -/
def HB_GRP_CFG_RUNNING (i : Nat) : Fld := ⟨0x187000 + 4 * i, 16, 1⟩
/-- `HB_COMPLETE.SOURCE`, WO (R349). -/
def HB_COMPLETE_SOURCE (i : Nat) : Fld := ⟨0x188004 + 32 * i, 0, 12⟩
/-- `HB_COMPLETE.word`, WO (R349). -/
def HB_COMPLETE_HIGH (i : Nat) : Fld := ⟨0x188004 + 32 * i, 12, 20⟩
/-- `HB_TGT_STAT.LINE`, RO (R349). -/
def HB_TGT_STAT_LINE (i : Nat) : Fld := ⟨0x188008 + 32 * i, 0, 1⟩
/-- `HB_TGT_STAT.AWAKE`, RO (R349). -/
def HB_TGT_STAT_AWAKE (i : Nat) : Fld := ⟨0x188008 + 32 * i, 1, 1⟩
/-- `HB_TGT_STAT.HOLDS`, RO (R349). -/
def HB_TGT_STAT_HOLDS (i : Nat) : Fld := ⟨0x188008 + 32 * i, 2, 1⟩
/-- `HB_TGT_STAT.WIRED`, RO (R349). -/
def HB_TGT_STAT_WIRED (i : Nat) : Fld := ⟨0x188008 + 32 * i, 3, 1⟩
/-- `HB_TGT_STAT.ACTIVE`, RO (R349). -/
def HB_TGT_STAT_ACTIVE (i : Nat) : Fld := ⟨0x188008 + 32 * i, 4, 12⟩
/-- `MD_EVT.DONE`, W1C (R358). -/
def MD_EVT_DONE : Fld := ⟨0x1C0000, 0, 8⟩
/-- `MD_EVT.HALT`, W1C (R358). -/
def MD_EVT_HALT : Fld := ⟨0x1C0000, 8, 8⟩
/-- `MD_CFG_REJ.COUNT`, RC (R358). -/
def MD_CFG_REJ_COUNT : Fld := ⟨0x1C0004, 0, 16⟩
/-- `MD_CH_DESC_LO.ADDR_LO`, RW (R358). -/
def MD_CH_DESC_LO_ADDR_LO (i : Nat) : Fld := ⟨0x1C0100 + 64 * i, 5, 27⟩
/-- `MD_CH_DESC_HI.ADDR_HI`, RW (R358). -/
def MD_CH_DESC_HI_ADDR_HI (i : Nat) : Fld := ⟨0x1C0104 + 64 * i, 0, 25⟩
/-- `MD_CH_DESC_HI.SPACE`, RW (R358). -/
def MD_CH_DESC_HI_SPACE (i : Nat) : Fld := ⟨0x1C0104 + 64 * i, 25, 2⟩
/-- `MD_CH_CTRL.START`, WO (R358). -/
def MD_CH_CTRL_START (i : Nat) : Fld := ⟨0x1C0108 + 64 * i, 0, 1⟩
/-- `MD_CH_CTRL.ABORT`, WO (R358). -/
def MD_CH_CTRL_ABORT (i : Nat) : Fld := ⟨0x1C0108 + 64 * i, 1, 1⟩
/-- `MD_CH_CFG.HOP_LIMIT`, RW (R358). -/
def MD_CH_CFG_HOP_LIMIT (i : Nat) : Fld := ⟨0x1C010C + 64 * i, 0, 16⟩
/-- `MD_CH_STAT.STATE`, RO (R358). -/
def MD_CH_STAT_STATE (i : Nat) : Fld := ⟨0x1C0110 + 64 * i, 0, 2⟩
/-- `MD_CH_STAT.REASON`, RO (R358). -/
def MD_CH_STAT_REASON (i : Nat) : Fld := ⟨0x1C0110 + 64 * i, 4, 3⟩
/-- `MD_CH_STAT.HOPS`, RO (R358). -/
def MD_CH_STAT_HOPS (i : Nat) : Fld := ⟨0x1C0110 + 64 * i, 16, 16⟩
/-- `MD_CH_CUR_LO.ADDR_LO`, RO (R358). -/
def MD_CH_CUR_LO_ADDR_LO (i : Nat) : Fld := ⟨0x1C0114 + 64 * i, 5, 27⟩
/-- `MD_CH_CUR_HI.ADDR_HI`, RO (R358). -/
def MD_CH_CUR_HI_ADDR_HI (i : Nat) : Fld := ⟨0x1C0118 + 64 * i, 0, 27⟩
/-- `MD_CH_FAIL_LO.ADDR_LO`, RO (R358). -/
def MD_CH_FAIL_LO_ADDR_LO (i : Nat) : Fld := ⟨0x1C011C + 64 * i, 0, 32⟩
/-- `MD_CH_FAIL_HI.ADDR_HI`, RO (R358). -/
def MD_CH_FAIL_HI_ADDR_HI (i : Nat) : Fld := ⟨0x1C0120 + 64 * i, 0, 27⟩
/-- `MD_CH_CNT.DESC`, RC (R358). -/
def MD_CH_CNT_DESC (i : Nat) : Fld := ⟨0x1C0124 + 64 * i, 0, 32⟩
/-- `CU_CFG.STREAM`, RW (R362). -/
def CU_CFG_STREAM (i : Nat) : Fld := ⟨0x1C8000 + 64 * i, 0, 8⟩
/-- `CU_CFG.ALG`, RW (R362). -/
def CU_CFG_ALG (i : Nat) : Fld := ⟨0x1C8000 + 64 * i, 8, 2⟩
/-- `CU_CFG.END_MODE`, RW (R362). -/
def CU_CFG_END_MODE (i : Nat) : Fld := ⟨0x1C8000 + 64 * i, 10, 2⟩
/-- `CU_CFG.AUTO`, RW (R362). -/
def CU_CFG_AUTO (i : Nat) : Fld := ⟨0x1C8000 + 64 * i, 12, 1⟩
/-- `CU_CFG.CMP`, RW (R362). -/
def CU_CFG_CMP (i : Nat) : Fld := ⟨0x1C8000 + 64 * i, 13, 1⟩
/-- `CU_CTRL.ARM`, WO (R362). -/
def CU_CTRL_ARM (i : Nat) : Fld := ⟨0x1C8004 + 64 * i, 0, 1⟩
/-- `CU_CTRL.DISARM`, WO (R362). -/
def CU_CTRL_DISARM (i : Nat) : Fld := ⟨0x1C8004 + 64 * i, 1, 1⟩
/-- `CU_CTRL.KEEP`, WO (R362). -/
def CU_CTRL_KEEP (i : Nat) : Fld := ⟨0x1C8004 + 64 * i, 2, 1⟩
/-- `CU_STAT.STATE`, RO (R362). -/
def CU_STAT_STATE (i : Nat) : Fld := ⟨0x1C8008 + 64 * i, 0, 2⟩
/-- `CU_STAT.LAST_OK`, RO (R362). -/
def CU_STAT_LAST_OK (i : Nat) : Fld := ⟨0x1C8008 + 64 * i, 2, 1⟩
/-- `CU_COUNT.COUNT`, RW (R362). -/
def CU_COUNT_COUNT (i : Nat) : Fld := ⟨0x1C800C + 64 * i, 0, 24⟩
/-- `CU_RUN_LO.RUN`, RW (R362). -/
def CU_RUN_LO_RUN (i : Nat) : Fld := ⟨0x1C8010 + 64 * i, 0, 32⟩
/-- `CU_RUN_HI.RUN`, RW (R362). -/
def CU_RUN_HI_RUN (i : Nat) : Fld := ⟨0x1C8014 + 64 * i, 0, 32⟩
/-- `CU_EXPECT_LO.EXPECT`, RW (R362). -/
def CU_EXPECT_LO_EXPECT (i : Nat) : Fld := ⟨0x1C8018 + 64 * i, 0, 32⟩
/-- `CU_EXPECT_HI.EXPECT`, RW (R362). -/
def CU_EXPECT_HI_EXPECT (i : Nat) : Fld := ⟨0x1C801C + 64 * i, 0, 32⟩
/-- `CU_RESULT_LO.RESULT`, RO (R362). -/
def CU_RESULT_LO_RESULT (i : Nat) : Fld := ⟨0x1C8020 + 64 * i, 0, 32⟩
/-- `CU_RESULT_HI.RESULT`, RO (R362). -/
def CU_RESULT_HI_RESULT (i : Nat) : Fld := ⟨0x1C8024 + 64 * i, 0, 32⟩
/-- `CU_BYTES.BYTES`, RO (R362). -/
def CU_BYTES_BYTES (i : Nat) : Fld := ⟨0x1C8028 + 64 * i, 0, 32⟩
/-- `CU_CNT.MATCH`, RC (R362). -/
def CU_CNT_MATCH (i : Nat) : Fld := ⟨0x1C802C + 64 * i, 0, 16⟩
/-- `CU_CNT.MISS`, RC (R362). -/
def CU_CNT_MISS (i : Nat) : Fld := ⟨0x1C802C + 64 * i, 16, 16⟩
/-- `CU_EVT.MISMATCH`, W1C (R362). -/
def CU_EVT_MISMATCH : Fld := ⟨0x1C8800, 0, 16⟩
/-- `CU_CFG_REJ.COUNT`, RC (R362). -/
def CU_CFG_REJ_COUNT : Fld := ⟨0x1C8804, 0, 16⟩
/-- `NY_CTRL.CORE_RST`, WO (R384). -/
def NY_CTRL_CORE_RST : Fld := ⟨0x1E0000, 0, 1⟩
/-- `NY_CTRL.ILOCK`, W1S (R384). -/
def NY_CTRL_ILOCK : Fld := ⟨0x1E0000, 1, 1⟩
/-- `NY_CTRL.WDT_EN`, RW (R384). -/
def NY_CTRL_WDT_EN : Fld := ⟨0x1E0000, 2, 1⟩
/-- `NY_CTRL.ECC_RST`, RW (R384). -/
def NY_CTRL_ECC_RST : Fld := ⟨0x1E0000, 3, 1⟩
/-- `NY_STAT.CAUSE`, RO (R384). -/
def NY_STAT_CAUSE : Fld := ⟨0x1E0004, 0, 2⟩
/-- `NY_STAT.HALTED`, RO (R384). -/
def NY_STAT_HALTED : Fld := ⟨0x1E0004, 2, 1⟩
/-- `NY_WDT.WDT_US`, RW (R384). -/
def NY_WDT_WDT_US : Fld := ⟨0x1E0008, 0, 24⟩
/-- `NY_WDT_KICK.word`, WO (R384). -/
def NY_WDT_KICK : Fld := ⟨0x1E000C, 0, 32⟩
/-- `NY_MTIME_LO.MTIME`, RO (R384). -/
def NY_MTIME_LO_MTIME : Fld := ⟨0x1E0010, 0, 32⟩
/-- `NY_MTIME_HI.MTIME`, RO (R384). -/
def NY_MTIME_HI_MTIME : Fld := ⟨0x1E0014, 0, 32⟩
/-- `NY_MTIMECMP_LO.CMP`, RW (R384). -/
def NY_MTIMECMP_LO_CMP : Fld := ⟨0x1E0018, 0, 32⟩
/-- `NY_MTIMECMP_HI.CMP`, RW (R384). -/
def NY_MTIMECMP_HI_CMP : Fld := ⟨0x1E001C, 0, 32⟩
/-- `NY_EVT.T_WARN`, W1C (R384). -/
def NY_EVT_T_WARN : Fld := ⟨0x1E0020, 0, 1⟩
/-- `NY_EVT.T_THROTTLE`, W1C (R384). -/
def NY_EVT_T_THROTTLE : Fld := ⟨0x1E0020, 1, 1⟩
/-- `NY_EVT.T_SHUTDOWN`, W1C (R384). -/
def NY_EVT_T_SHUTDOWN : Fld := ⟨0x1E0020, 2, 1⟩
/-- `NY_EVT.DROOP`, W1C (R384). -/
def NY_EVT_DROOP : Fld := ⟨0x1E0020, 3, 1⟩
/-- `NY_EVT.CLK`, W1C (R384). -/
def NY_EVT_CLK : Fld := ⟨0x1E0020, 4, 1⟩
/-- `NY_EVT.EYE`, W1C (R384). -/
def NY_EVT_EYE : Fld := ⟨0x1E0020, 5, 1⟩
/-- `NY_EVT.ECC_UNC`, W1C (R384). -/
def NY_EVT_ECC_UNC : Fld := ⟨0x1E0020, 6, 1⟩
/-- `NY_EVT.NY_RESET`, W1C (R384). -/
def NY_EVT_NY_RESET : Fld := ⟨0x1E0020, 7, 1⟩
/-- `NY_EVT.LOG_HI`, W1C (R384). -/
def NY_EVT_LOG_HI : Fld := ⟨0x1E0020, 8, 1⟩
/-- `NY_EVT.BG_MISS`, W1C (R384). -/
def NY_EVT_BG_MISS : Fld := ⟨0x1E0020, 9, 1⟩
/-- `NY_EVT.PC_OVF`, W1C (R384). -/
def NY_EVT_PC_OVF : Fld := ⟨0x1E0020, 12, 1⟩
/-- `NY_EVT.PC_EXP_FAIL`, W1C (R384). -/
def NY_EVT_PC_EXP_FAIL : Fld := ⟨0x1E0020, 13, 1⟩
/-- `NY_ECC.CORR`, RC (R384). -/
def NY_ECC_CORR : Fld := ⟨0x1E0024, 0, 16⟩
/-- `NY_ECC.UNC`, RC (R384). -/
def NY_ECC_UNC : Fld := ⟨0x1E0024, 16, 16⟩
/-- `NY_ECC_ADDR.ADDR`, RO (R384). -/
def NY_ECC_ADDR_ADDR : Fld := ⟨0x1E0028, 0, 32⟩
/-- `NY_THERM.TEMP`, RO (R384). -/
def NY_THERM_TEMP (i : Nat) : Fld := ⟨0x1E0100 + 4 * i, 0, 12⟩
/-- `NY_THERM_MAX.TEMP`, RO (R384). -/
def NY_THERM_MAX_TEMP : Fld := ⟨0x1E0160, 0, 12⟩
/-- `NY_THERM_MAX.IDX`, RO (R384). -/
def NY_THERM_MAX_IDX : Fld := ⟨0x1E0160, 16, 5⟩
/-- `NY_THERM_MAX.LEVEL`, RO (R384). -/
def NY_THERM_MAX_LEVEL : Fld := ⟨0x1E0160, 24, 2⟩
/-- `NY_DROOP.MV`, RO (R384). -/
def NY_DROOP_MV (i : Nat) : Fld := ⟨0x1E0180 + 4 * i, 0, 12⟩
/-- `NY_DROOP.THR`, RW (R384). -/
def NY_DROOP_THR (i : Nat) : Fld := ⟨0x1E0180 + 4 * i, 16, 12⟩
/-- `NY_DROOP_CNT.COUNT`, RC (R384). -/
def NY_DROOP_CNT_COUNT (i : Nat) : Fld := ⟨0x1E01C0 + 4 * i, 0, 32⟩
/-- `NY_CLK.KHZ`, RO (R384). -/
def NY_CLK_KHZ (i : Nat) : Fld := ⟨0x1E0200 + 4 * i, 0, 21⟩
/-- `NY_CLK.STOPPED`, RO (R384). -/
def NY_CLK_STOPPED (i : Nat) : Fld := ⟨0x1E0200 + 4 * i, 30, 1⟩
/-- `NY_CLK.OFF`, RO (R384). -/
def NY_CLK_OFF (i : Nat) : Fld := ⟨0x1E0200 + 4 * i, 31, 1⟩
/-- `NY_EYE.CODE`, RO (R384). -/
def NY_EYE_CODE (i : Nat) : Fld := ⟨0x1E0280 + 4 * i, 0, 8⟩
/-- `NY_EYE.ERR`, RO (R384). -/
def NY_EYE_ERR (i : Nat) : Fld := ⟨0x1E0280 + 4 * i, 8, 24⟩
/-- `NY_EYE_THR.CODE`, RW (R384). -/
def NY_EYE_THR_CODE : Fld := ⟨0x1E0310, 0, 8⟩
/-- `NY_LOG_HEAD.SLOT`, RO (R384). -/
def NY_LOG_HEAD_SLOT : Fld := ⟨0x1E0400, 0, 11⟩
/-- `NY_LOG_HEAD.COUNT`, RO (R384). -/
def NY_LOG_HEAD_COUNT : Fld := ⟨0x1E0400, 16, 12⟩
/-- `NY_LOG_SEQ.SEQ`, RW (R384). -/
def NY_LOG_SEQ_SEQ : Fld := ⟨0x1E0404, 0, 32⟩
/-- `NY_LOG_PERSIST.NEXT`, RW (R384). -/
def NY_LOG_PERSIST_NEXT : Fld := ⟨0x1E0408, 0, 32⟩
/-- `NY_LOG_PCFG.EN`, RW (R384). -/
def NY_LOG_PCFG_EN : Fld := ⟨0x1E040C, 0, 1⟩
/-- `NY_LOG_LOST.LOST`, RC (R384). -/
def NY_LOG_LOST_LOST : Fld := ⟨0x1E0410, 0, 16⟩
/-- `NY_LOG_LOST.REJ`, RC (R384). -/
def NY_LOG_LOST_REJ : Fld := ⟨0x1E0410, 16, 16⟩
/-- `NY_LOG_HI.WM`, RW (R384). -/
def NY_LOG_HI_WM : Fld := ⟨0x1E0414, 0, 12⟩
/-- `NY_LOG_MASK.MASK`, RW (R384). -/
def NY_LOG_MASK_MASK (i : Nat) : Fld := ⟨0x1E0420 + 4 * i, 0, 32⟩
/-- `NY_LOG_FW_CODE.CODE`, RW (R384). -/
def NY_LOG_FW_CODE_CODE : Fld := ⟨0x1E0460, 0, 16⟩
/-- `NY_LOG_FW_CODE.SEV`, RW (R384). -/
def NY_LOG_FW_CODE_SEV : Fld := ⟨0x1E0460, 16, 2⟩
/-- `NY_LOG_FW_CODE.GO`, WO (R384). -/
def NY_LOG_FW_CODE_GO : Fld := ⟨0x1E0460, 31, 1⟩
/-- `NY_LOG_HOST_CODE.CODE`, RW (R384). -/
def NY_LOG_HOST_CODE_CODE : Fld := ⟨0x1E0480, 0, 16⟩
/-- `NY_LOG_HOST_CODE.SEV`, RW (R384). -/
def NY_LOG_HOST_CODE_SEV : Fld := ⟨0x1E0480, 16, 2⟩
/-- `NY_LOG_HOST_CODE.GO`, WO (R384). -/
def NY_LOG_HOST_CODE_GO : Fld := ⟨0x1E0480, 31, 1⟩
/-- `NY_LOG_FW_ARG.ARG`, RW (R384). -/
def NY_LOG_FW_ARG_ARG (i : Nat) : Fld := ⟨0x1E0464 + 4 * i, 0, 32⟩
/-- `NY_LOG_HOST_ARG.ARG`, RW (R384). -/
def NY_LOG_HOST_ARG_ARG (i : Nat) : Fld := ⟨0x1E0484 + 4 * i, 0, 32⟩
/-- `NY_BG_DL.DL_US`, RW (R384). -/
def NY_BG_DL_DL_US (i : Nat) : Fld := ⟨0x1E0500 + 4 * i, 0, 24⟩
/-- `NY_BG_DL.RAISED`, RO (R384). -/
def NY_BG_DL_RAISED (i : Nat) : Fld := ⟨0x1E0500 + 4 * i, 31, 1⟩
/-- `NY_BG_MISS.COUNT`, RC (R384). -/
def NY_BG_MISS_COUNT (i : Nat) : Fld := ⟨0x1E0520 + 4 * i, 0, 32⟩
/-- `PC_CTRL.FREEZE`, RW (R384). -/
def PC_CTRL_FREEZE : Fld := ⟨0x1D0000, 0, 1⟩
/-- `PC_CTRL.SNAP`, WO (R384). -/
def PC_CTRL_SNAP : Fld := ⟨0x1D0000, 1, 1⟩
/-- `PC_CTRL.CLEAR`, WO (R384). -/
def PC_CTRL_CLEAR : Fld := ⟨0x1D0000, 2, 1⟩
/-- `PC_CTRL.EXPORT`, WO (R384). -/
def PC_CTRL_EXPORT : Fld := ⟨0x1D0000, 3, 1⟩
/-- `PC_CTRL.SNAP_BUSY`, RO (R384). -/
def PC_CTRL_SNAP_BUSY : Fld := ⟨0x1D0000, 8, 1⟩
/-- `PC_CTRL.EXP_BUSY`, RO (R384). -/
def PC_CTRL_EXP_BUSY : Fld := ⟨0x1D0000, 9, 1⟩
/-- `PC_CTRL.PC_REJ`, RC (R384). -/
def PC_CTRL_PC_REJ : Fld := ⟨0x1D0000, 16, 16⟩
/-- `PC_EXPORT_LO.ADDR`, RW (R384). -/
def PC_EXPORT_LO_ADDR : Fld := ⟨0x1D0004, 12, 20⟩
/-- `PC_EXPORT_HI.ADDR`, RW (R384). -/
def PC_EXPORT_HI_ADDR : Fld := ⟨0x1D0008, 0, 25⟩
/-- `PC_OVF.OVF`, W1C (R384). -/
def PC_OVF_OVF (i : Nat) : Fld := ⟨0x1D0040 + 4 * i, 0, 32⟩
/-- `PC_FLT_CFG.PRIV_EN`, RW (R384). -/
def PC_FLT_CFG_PRIV_EN (i : Nat) : Fld := ⟨0x1D0100 + 32 * i, 0, 1⟩
/-- `PC_FLT_CFG.PRIV_VAL`, RW (R384). -/
def PC_FLT_CFG_PRIV_VAL (i : Nat) : Fld := ⟨0x1D0100 + 32 * i, 1, 1⟩
/-- `PC_FLT_CFG.MASTER_EN`, RW (R384). -/
def PC_FLT_CFG_MASTER_EN (i : Nat) : Fld := ⟨0x1D0100 + 32 * i, 2, 1⟩
/-- `PC_FLT_CFG.ADDR_EN`, RW (R384). -/
def PC_FLT_CFG_ADDR_EN (i : Nat) : Fld := ⟨0x1D0100 + 32 * i, 3, 1⟩
/-- `PC_FLT_CFG.CLASS_EN`, RW (R384). -/
def PC_FLT_CFG_CLASS_EN (i : Nat) : Fld := ⟨0x1D0100 + 32 * i, 4, 1⟩
/-- `PC_FLT_CFG.MASTER`, RW (R384). -/
def PC_FLT_CFG_MASTER (i : Nat) : Fld := ⟨0x1D0100 + 32 * i, 8, 8⟩
/-- `PC_FLT_CFG.CLASS_MASK`, RW (R384). -/
def PC_FLT_CFG_CLASS_MASK (i : Nat) : Fld := ⟨0x1D0100 + 32 * i, 16, 8⟩
/-- `PC_FLT_BASE_LO.BASE`, RW (R384). -/
def PC_FLT_BASE_LO_BASE (i : Nat) : Fld := ⟨0x1D0104 + 32 * i, 0, 32⟩
/-- `PC_FLT_BASE_HI.BASE`, RW (R384). -/
def PC_FLT_BASE_HI_BASE (i : Nat) : Fld := ⟨0x1D0108 + 32 * i, 0, 32⟩
/-- `PC_FLT_LIMIT_LO.LIMIT`, RW (R384). -/
def PC_FLT_LIMIT_LO_LIMIT (i : Nat) : Fld := ⟨0x1D010C + 32 * i, 0, 32⟩
/-- `PC_FLT_LIMIT_HI.LIMIT`, RW (R384). -/
def PC_FLT_LIMIT_HI_LIMIT (i : Nat) : Fld := ⟨0x1D0110 + 32 * i, 0, 32⟩
/-- `PC_EV_CFG.FSEL`, RW (R384). -/
def PC_EV_CFG_FSEL (i : Nat) : Fld := ⟨0x1D1000 + 4 * i, 0, 4⟩
/-- `PC_WIN_MAP.EVENT`, RW (R384). -/
def PC_WIN_MAP_EVENT (i : Nat) : Fld := ⟨0x1D2000 + 4 * i, 0, 10⟩
/-- `PC_WIN_MAP.VALID`, RW (R384). -/
def PC_WIN_MAP_VALID (i : Nat) : Fld := ⟨0x1D2000 + 4 * i, 31, 1⟩
/-- `PC_CNT_LO.COUNT`, RO (R384). -/
def PC_CNT_LO_COUNT (i : Nat) : Fld := ⟨0x1D4000 + 8 * i, 0, 32⟩
/-- `PC_CNT_HI.COUNT`, RO (R384). -/
def PC_CNT_HI_COUNT (i : Nat) : Fld := ⟨0x1D4004 + 8 * i, 0, 32⟩
/-- `PC_SNAP_LO.COUNT`, RO (R384). -/
def PC_SNAP_LO_COUNT (i : Nat) : Fld := ⟨0x1D6000 + 8 * i, 0, 32⟩
/-- `PC_SNAP_HI.COUNT`, RO (R384). -/
def PC_SNAP_HI_COUNT (i : Nat) : Fld := ⟨0x1D6004 + 8 * i, 0, 32⟩
/-- `ST_CFG.DIV`, RO (R407). -/
def ST_CFG_DIV : Fld := ⟨0x1E1000, 0, 8⟩
/-- `ST_CFG.ADDR4`, RO (R407). -/
def ST_CFG_ADDR4 : Fld := ⟨0x1E1000, 8, 1⟩
/-- `ST_CFG.QUAD`, RO (R407). -/
def ST_CFG_QUAD : Fld := ⟨0x1E1000, 9, 1⟩
/-- `ST_CFG.ERASE_OP`, RW (R407). -/
def ST_CFG_ERASE_OP : Fld := ⟨0x1E1000, 16, 8⟩
/-- `ST_STAT.FW_SRC`, RW (R407). -/
def ST_STAT_FW_SRC : Fld := ⟨0x1E1004, 0, 2⟩
/-- `ST_STAT.CFG_SRC`, RW (R407). -/
def ST_STAT_CFG_SRC : Fld := ⟨0x1E1004, 2, 2⟩
/-- `ST_STAT.NODIR`, RW (R407). -/
def ST_STAT_NODIR : Fld := ⟨0x1E1004, 4, 1⟩
/-- `ST_STAT.GEOM`, RW (R407). -/
def ST_STAT_GEOM : Fld := ⟨0x1E1004, 5, 1⟩
/-- `ST_STAT.WORN`, RW (R407). -/
def ST_STAT_WORN : Fld := ⟨0x1E1004, 6, 1⟩
/-- `ST_STAT.CFG_LIVE`, RW (R407). -/
def ST_STAT_CFG_LIVE : Fld := ⟨0x1E1004, 8, 8⟩
/-- `ST_STAT.LOG_LIVE`, RW (R407). -/
def ST_STAT_LOG_LIVE : Fld := ⟨0x1E1004, 16, 8⟩
/-- `ST_CTRL.DEFAULTS`, RW (R407). -/
def ST_CTRL_DEFAULTS : Fld := ⟨0x1E1008, 0, 1⟩
/-- `ST_XFER_ADDR.ADDR`, RW (R407). -/
def ST_XFER_ADDR_ADDR : Fld := ⟨0x1E1010, 0, 32⟩
/-- `ST_XFER_SRAM.OFF`, RW (R407). -/
def ST_XFER_SRAM_OFF : Fld := ⟨0x1E1014, 0, 18⟩
/-- `ST_XFER_CTRL.OP`, RW (R407). -/
def ST_XFER_CTRL_OP : Fld := ⟨0x1E1018, 0, 3⟩
/-- `ST_XFER_CTRL.LEN`, RW (R407). -/
def ST_XFER_CTRL_LEN : Fld := ⟨0x1E1018, 4, 13⟩
/-- `ST_XFER_CTRL.GO`, WO (R407). -/
def ST_XFER_CTRL_GO : Fld := ⟨0x1E1018, 31, 1⟩
/-- `ST_XFER_STAT.BUSY`, RO (R407). -/
def ST_XFER_STAT_BUSY : Fld := ⟨0x1E101C, 0, 1⟩
/-- `ST_XFER_STAT.RESULT`, RO (R407). -/
def ST_XFER_STAT_RESULT : Fld := ⟨0x1E101C, 1, 4⟩
/-- `ST_XFER_STAT.FLASH_SR`, RO (R407). -/
def ST_XFER_STAT_FLASH_SR : Fld := ⟨0x1E101C, 8, 8⟩
/-- `ST_TMO.PROG_MS`, RW (R407). -/
def ST_TMO_PROG_MS : Fld := ⟨0x1E1020, 0, 8⟩
/-- `ST_TMO.ERASE_MS`, RW (R407). -/
def ST_TMO_ERASE_MS : Fld := ⟨0x1E1020, 16, 16⟩
/-- `ST_UPD_ADDR_LO.ADDR`, RW (R407). -/
def ST_UPD_ADDR_LO_ADDR : Fld := ⟨0x1E1030, 0, 32⟩
/-- `ST_UPD_ADDR_HI.ADDR`, RW (R407). -/
def ST_UPD_ADDR_HI_ADDR : Fld := ⟨0x1E1034, 0, 32⟩
/-- `ST_UPD_LEN.LEN`, RW (R407). -/
def ST_UPD_LEN_LEN : Fld := ⟨0x1E1038, 0, 20⟩
/-- `ST_UPD_CMD.KIND`, RW (R407). -/
def ST_UPD_CMD_KIND : Fld := ⟨0x1E103C, 0, 2⟩
/-- `ST_UPD_CMD.GO`, WO (R407). -/
def ST_UPD_CMD_GO : Fld := ⟨0x1E103C, 31, 1⟩
/-- `ST_UPD_STAT.BUSY`, RO (R407). -/
def ST_UPD_STAT_BUSY : Fld := ⟨0x1E1040, 0, 1⟩
/-- `ST_UPD_STAT.STATUS`, RO (R407). -/
def ST_UPD_STAT_STATUS : Fld := ⟨0x1E1040, 1, 4⟩
/-- `ST_UPD_STAT.DETAIL`, RO (R407). -/
def ST_UPD_STAT_DETAIL : Fld := ⟨0x1E1040, 8, 3⟩
/-- `ST_UPD_STAT.BANK`, RO (R407). -/
def ST_UPD_STAT_BANK : Fld := ⟨0x1E1040, 12, 1⟩
/-- `ST_UPD_SEQ.SEQ`, RO (R407). -/
def ST_UPD_SEQ_SEQ : Fld := ⟨0x1E1044, 0, 32⟩
/-- `ST_UPD_FW.STATUS`, WO (R407). -/
def ST_UPD_FW_STATUS : Fld := ⟨0x1E1048, 0, 4⟩
/-- `ST_UPD_FW.DETAIL`, WO (R407). -/
def ST_UPD_FW_DETAIL : Fld := ⟨0x1E1048, 8, 3⟩
/-- `ST_UPD_FW.BANK`, WO (R407). -/
def ST_UPD_FW_BANK : Fld := ⟨0x1E1048, 12, 1⟩
/-- `ST_EVT.XFER_DONE`, W1C (R407). -/
def ST_EVT_XFER_DONE : Fld := ⟨0x1E1050, 0, 1⟩
/-- `ST_EVT.XFER_ERR`, W1C (R407). -/
def ST_EVT_XFER_ERR : Fld := ⟨0x1E1050, 1, 1⟩
/-- `ST_EVT.UPD_DONE`, W1C (R407). -/
def ST_EVT_UPD_DONE : Fld := ⟨0x1E1050, 2, 1⟩
/-- `ST_EVT.WORN`, W1C (R407). -/
def ST_EVT_WORN : Fld := ⟨0x1E1050, 3, 1⟩
/-- `ST_EVT.GEOM`, W1C (R407). -/
def ST_EVT_GEOM : Fld := ⟨0x1E1050, 4, 1⟩
/-- `ST_EVT.RETIRED`, W1C (R407). -/
def ST_EVT_RETIRED : Fld := ⟨0x1E1050, 5, 1⟩
/-- `ST_EVT.DEFAULTS`, W1C (R407). -/
def ST_EVT_DEFAULTS : Fld := ⟨0x1E1050, 6, 1⟩
/-- `ST_EVT.FW_FALLBACK`, W1C (R407). -/
def ST_EVT_FW_FALLBACK : Fld := ⟨0x1E1050, 7, 1⟩
/-- `ST_REJ.COUNT`, RC (R407). -/
def ST_REJ_COUNT : Fld := ⟨0x1E1054, 0, 32⟩
/-- `KW_CFG.SLOT`, RW (R407). -/
def KW_CFG_SLOT : Fld := ⟨0x1E2000, 0, 3⟩
/-- `KW_CFG.DIR`, RW (R407). -/
def KW_CFG_DIR : Fld := ⟨0x1E2000, 3, 1⟩
/-- `KW_CFG.PAD`, RW (R407). -/
def KW_CFG_PAD : Fld := ⟨0x1E2000, 4, 2⟩
/-- `KW_CFG.TAG_CHK`, RW (R407). -/
def KW_CFG_TAG_CHK : Fld := ⟨0x1E2000, 6, 1⟩
/-- `KW_CFG.TAG_LEN`, RW (R407). -/
def KW_CFG_TAG_LEN : Fld := ⟨0x1E2000, 8, 4⟩
/-- `KW_LEN.LEN`, RW (R407). -/
def KW_LEN_LEN : Fld := ⟨0x1E2004, 0, 24⟩
/-- `KW_CTRL.START`, WO (R407). -/
def KW_CTRL_START : Fld := ⟨0x1E2008, 0, 1⟩
/-- `KW_CTRL.ABORT`, WO (R407). -/
def KW_CTRL_ABORT : Fld := ⟨0x1E2008, 1, 1⟩
/-- `KW_STAT.BUSY`, RO (R407). -/
def KW_STAT_BUSY : Fld := ⟨0x1E200C, 0, 1⟩
/-- `KW_STAT.TRUST`, RO (R407). -/
def KW_STAT_TRUST : Fld := ⟨0x1E200C, 1, 1⟩
/-- `KW_STAT.TAG_DONE`, RO (R407). -/
def KW_STAT_TAG_DONE : Fld := ⟨0x1E200C, 2, 1⟩
/-- `KW_STAT.IN_FREE`, RO (R407). -/
def KW_STAT_IN_FREE : Fld := ⟨0x1E200C, 4, 4⟩
/-- `KW_STAT.OUT_AVAIL`, RO (R407). -/
def KW_STAT_OUT_AVAIL : Fld := ⟨0x1E200C, 8, 4⟩
/-- `KW_STAT.ERR`, RO (R407). -/
def KW_STAT_ERR : Fld := ⟨0x1E200C, 12, 4⟩
/-- `KW_STAT.HASP_OPENED`, RO (R407). -/
def KW_STAT_HASP_OPENED : Fld := ⟨0x1E200C, 16, 1⟩
/-- `KW_STAT.FUSED`, RO (R407). -/
def KW_STAT_FUSED : Fld := ⟨0x1E200C, 17, 1⟩
/-- `KW_STAT.RNG_OK`, RO (R407). -/
def KW_STAT_RNG_OK : Fld := ⟨0x1E200C, 18, 1⟩
/-- `KW_DIN.DATA`, WO (R407). -/
def KW_DIN_DATA : Fld := ⟨0x1E2010, 0, 32⟩
/-- `KW_DOUT.DATA`, RO (R407). -/
def KW_DOUT_DATA : Fld := ⟨0x1E2014, 0, 32⟩
/-- `KW_TAG.TAG`, RW (R407). -/
def KW_TAG_TAG (i : Nat) : Fld := ⟨0x1E2020 + 4 * i, 0, 32⟩
/-- `KW_KEY_DATA.KEY`, WO (R407). -/
def KW_KEY_DATA_KEY (i : Nat) : Fld := ⟨0x1E2040 + 4 * i, 0, 32⟩
/-- `KW_KEY_CTRL.SLOT`, RW (R407). -/
def KW_KEY_CTRL_SLOT : Fld := ⟨0x1E2060, 0, 3⟩
/-- `KW_KEY_CTRL.LEN256`, RW (R407). -/
def KW_KEY_CTRL_LEN256 : Fld := ⟨0x1E2060, 3, 1⟩
/-- `KW_KEY_CTRL.WRITE`, WO (R407). -/
def KW_KEY_CTRL_WRITE : Fld := ⟨0x1E2060, 4, 1⟩
/-- `KW_KEY_CTRL.ZERO`, WO (R407). -/
def KW_KEY_CTRL_ZERO : Fld := ⟨0x1E2060, 5, 1⟩
/-- `KW_KEY_CTRL.LOCK`, WO (R407). -/
def KW_KEY_CTRL_LOCK : Fld := ⟨0x1E2060, 6, 1⟩
/-- `KW_KEY_STAT.VALID`, RO (R407). -/
def KW_KEY_STAT_VALID : Fld := ⟨0x1E2064, 0, 8⟩
/-- `KW_KEY_STAT.LOCKED`, RO (R407). -/
def KW_KEY_STAT_LOCKED : Fld := ⟨0x1E2064, 8, 8⟩
/-- `KW_KEY_STAT.IS256`, RO (R407). -/
def KW_KEY_STAT_IS256 : Fld := ⟨0x1E2064, 16, 8⟩
/-- `KW_EVT.OP_DONE`, W1C (R407). -/
def KW_EVT_OP_DONE : Fld := ⟨0x1E2070, 0, 1⟩
/-- `KW_EVT.TAG_FAIL`, W1C (R407). -/
def KW_EVT_TAG_FAIL : Fld := ⟨0x1E2070, 1, 1⟩
/-- `KW_EVT.RNG_FAIL`, W1C (R407). -/
def KW_EVT_RNG_FAIL : Fld := ⟨0x1E2070, 2, 1⟩
/-- `KW_EVT.HASP_REQ`, W1C (R407). -/
def KW_EVT_HASP_REQ : Fld := ⟨0x1E2070, 3, 1⟩
/-- `KW_EVT.HASP_OPEN`, W1C (R407). -/
def KW_EVT_HASP_OPEN : Fld := ⟨0x1E2070, 4, 1⟩
/-- `KW_EVT.HASP_CLOSED`, W1C (R407). -/
def KW_EVT_HASP_CLOSED : Fld := ⟨0x1E2070, 5, 1⟩
/-- `KW_EVT.ZEROISED`, W1C (R407). -/
def KW_EVT_ZEROISED : Fld := ⟨0x1E2070, 6, 1⟩
/-- `KW_REJ.COUNT`, RC (R407). -/
def KW_REJ_COUNT : Fld := ⟨0x1E2074, 0, 32⟩
/-- `KW_FUSE_DATA.FUSE`, WO (R407). -/
def KW_FUSE_DATA_FUSE (i : Nat) : Fld := ⟨0x1E2080 + 4 * i, 0, 32⟩
/-- `KW_FUSE_CTRL.PROG`, WO (R407). -/
def KW_FUSE_CTRL_PROG : Fld := ⟨0x1E20A0, 0, 1⟩
/-- `KW_FUSE_CTRL.PROG_BUSY`, RO (R407). -/
def KW_FUSE_CTRL_PROG_BUSY : Fld := ⟨0x1E20A0, 1, 1⟩
/-- `KW_FUSE_CTRL.FUSE_LOCK`, RO (R407). -/
def KW_FUSE_CTRL_FUSE_LOCK : Fld := ⟨0x1E20A0, 2, 1⟩
/-- `KW_HASP.REQ`, RO (R407). -/
def KW_HASP_REQ : Fld := ⟨0x1E20B0, 0, 1⟩
/-- `KW_HASP.GNT`, RO (R407). -/
def KW_HASP_GNT : Fld := ⟨0x1E20B0, 1, 1⟩
/-- `KW_HASP.OPEN_CNT`, RC (R407). -/
def KW_HASP_OPEN_CNT : Fld := ⟨0x1E20B0, 16, 16⟩
/-- `PW_CTRL.REQ`, WO (R424). -/
def PW_CTRL_REQ : Fld := ⟨0x1F0000, 0, 3⟩
/-- `PW_CTRL.A1_EN`, RW (R424). -/
def PW_CTRL_A1_EN : Fld := ⟨0x1F0000, 4, 1⟩
/-- `PW_CTRL.D_KEEP_LOG`, RW (R424). -/
def PW_CTRL_D_KEEP_LOG : Fld := ⟨0x1F0000, 5, 1⟩
/-- `PW_CTRL.WATCH_PORT`, RW (R424). -/
def PW_CTRL_WATCH_PORT : Fld := ⟨0x1F0000, 8, 2⟩
/-- `PW_CTRL.THR_PCT`, RW (R424). -/
def PW_CTRL_THR_PCT : Fld := ⟨0x1F0000, 16, 8⟩
/-- `PW_STAT.STATE`, RO (R424). -/
def PW_STAT_STATE : Fld := ⟨0x1F0004, 0, 3⟩
/-- `PW_STAT.PHASE`, RO (R424). -/
def PW_STAT_PHASE : Fld := ⟨0x1F0004, 3, 2⟩
/-- `PW_STAT.A1_ON`, RO (R424). -/
def PW_STAT_A1_ON : Fld := ⟨0x1F0004, 5, 1⟩
/-- `PW_STAT.THERM_PARK`, RO (R424). -/
def PW_STAT_THERM_PARK : Fld := ⟨0x1F0004, 6, 1⟩
/-- `PW_STAT.REFUSE`, RO (R424). -/
def PW_STAT_REFUSE : Fld := ⟨0x1F0004, 8, 3⟩
/-- `PW_STAT.ABORT`, RO (R424). -/
def PW_STAT_ABORT : Fld := ⟨0x1F0004, 12, 2⟩
/-- `PW_EVT.ENTERED`, W1C (R424). -/
def PW_EVT_ENTERED : Fld := ⟨0x1F0008, 0, 1⟩
/-- `PW_EVT.EXITED`, W1C (R424). -/
def PW_EVT_EXITED : Fld := ⟨0x1F0008, 1, 1⟩
/-- `PW_EVT.ABORTED`, W1C (R424). -/
def PW_EVT_ABORTED : Fld := ⟨0x1F0008, 2, 1⟩
/-- `PW_EVT.REFUSED`, W1C (R424). -/
def PW_EVT_REFUSED : Fld := ⟨0x1F0008, 3, 1⟩
/-- `PW_EVT.ACK_TMO`, W1C (R424). -/
def PW_EVT_ACK_TMO : Fld := ⟨0x1F0008, 4, 1⟩
/-- `PW_EVT.BOR`, W1C (R424). -/
def PW_EVT_BOR : Fld := ⟨0x1F0008, 5, 1⟩
/-- `PW_EVT.THROTTLE`, W1C (R424). -/
def PW_EVT_THROTTLE : Fld := ⟨0x1F0008, 6, 1⟩
/-- `PW_EVT.PARKED`, W1C (R424). -/
def PW_EVT_PARKED : Fld := ⟨0x1F0008, 7, 1⟩
/-- `PW_EVT.WAKE`, W1C (R424). -/
def PW_EVT_WAKE : Fld := ⟨0x1F0008, 8, 1⟩
/-- `PW_WAKE_EN.EN`, RW (R424). -/
def PW_WAKE_EN_EN : Fld := ⟨0x1F000C, 0, 5⟩
/-- `PW_WAKE_SRC.SRC`, W1C (R424). -/
def PW_WAKE_SRC_SRC : Fld := ⟨0x1F0010, 0, 5⟩
/-- `PW_TIMER_LO.COUNT`, RW (R424). -/
def PW_TIMER_LO_COUNT : Fld := ⟨0x1F0028, 0, 32⟩
/-- `PW_TIMER_HI.COUNT`, RW (R424). -/
def PW_TIMER_HI_COUNT : Fld := ⟨0x1F002C, 0, 32⟩
/-- `PW_ACK_US.ACK_US`, RW (R424). -/
def PW_ACK_US_ACK_US : Fld := ⟨0x1F001C, 0, 16⟩
/-- `PW_CNT.REFUSED`, RC (R424). -/
def PW_CNT_REFUSED : Fld := ⟨0x1F0020, 0, 16⟩
/-- `PW_CNT.ACK_TMO`, RC (R424). -/
def PW_CNT_ACK_TMO : Fld := ⟨0x1F0020, 16, 16⟩
/-- `PW_BOR.SEEN`, W1C (R424). -/
def PW_BOR_SEEN : Fld := ⟨0x1F0024, 0, 1⟩
/-- `PW_BOR.STATE`, RO (R424). -/
def PW_BOR_STATE : Fld := ⟨0x1F0024, 1, 3⟩
/-- `PW_BOR.COUNT`, RO (R424). -/
def PW_BOR_COUNT : Fld := ⟨0x1F0024, 8, 8⟩
/-- `SV_OP.OP`, WO (R445). -/
def SV_OP_OP : Fld := ⟨0x1F1000, 0, 4⟩
/-- `SV_OP.ARG`, WO (R445). -/
def SV_OP_ARG : Fld := ⟨0x1F1000, 4, 12⟩
/-- `SV_OP.FORCE`, WO (R445). -/
def SV_OP_FORCE : Fld := ⟨0x1F1000, 16, 1⟩
/-- `SV_STAT.BUSY`, RO (R445). -/
def SV_STAT_BUSY : Fld := ⟨0x1F1004, 0, 1⟩
/-- `SV_STAT.RESULT`, RO (R445). -/
def SV_STAT_RESULT : Fld := ⟨0x1F1004, 1, 4⟩
/-- `SV_STAT.ABORTED`, RO (R445). -/
def SV_STAT_ABORTED : Fld := ⟨0x1F1004, 5, 1⟩
/-- `SV_STAT.PHASE`, RO (R445). -/
def SV_STAT_PHASE : Fld := ⟨0x1F1004, 6, 2⟩
/-- `SV_STAT.LAST_OP`, RO (R445). -/
def SV_STAT_LAST_OP : Fld := ⟨0x1F1004, 8, 4⟩
/-- `SV_STAT.ROW_BUSY`, RO (R445). -/
def SV_STAT_ROW_BUSY : Fld := ⟨0x1F1004, 12, 1⟩
/-- `SV_INUSE.SLICE4_PORT`, RO (R445). -/
def SV_INUSE_SLICE4_PORT : Fld := ⟨0x1F1008, 0, 2⟩
/-- `SV_INUSE.SLICE4`, RO (R445). -/
def SV_INUSE_SLICE4 : Fld := ⟨0x1F1008, 2, 1⟩
/-- `SV_INUSE.FAB_FOR`, RO (R445). -/
def SV_INUSE_FAB_FOR : Fld := ⟨0x1F1008, 4, 3⟩
/-- `SV_INUSE.FAB`, RO (R445). -/
def SV_INUSE_FAB : Fld := ⟨0x1F1008, 7, 1⟩
/-- `SV_INUSE.TBL_FOR`, RO (R445). -/
def SV_INUSE_TBL_FOR : Fld := ⟨0x1F1008, 8, 3⟩
/-- `SV_INUSE.TBL`, RO (R445). -/
def SV_INUSE_TBL : Fld := ⟨0x1F1008, 11, 1⟩
/-- `SV_TIME.RX_GUARD_US`, RW (R445). -/
def SV_TIME_RX_GUARD_US : Fld := ⟨0x1F100C, 0, 8⟩
/-- `SV_TIME.LANE_S`, RW (R445). -/
def SV_TIME_LANE_S : Fld := ⟨0x1F100C, 8, 8⟩
/-- `SV_TIME.DRAIN_US`, RW (R445). -/
def SV_TIME_DRAIN_US : Fld := ⟨0x1F100C, 16, 16⟩
/-- `SV_CKPT.CKPT_US`, RW (R445). -/
def SV_CKPT_CKPT_US : Fld := ⟨0x1F1010, 0, 16⟩
/-- `SV_ROW_THR.CORR`, RW (R445). -/
def SV_ROW_THR_CORR : Fld := ⟨0x1F1014, 0, 16⟩
/-- `SV_SCRUB.CORR`, RC (R445). -/
def SV_SCRUB_CORR : Fld := ⟨0x1F1018, 0, 16⟩
/-- `SV_SCRUB.UNC`, RC (R445). -/
def SV_SCRUB_UNC : Fld := ⟨0x1F1018, 16, 16⟩
/-- `SV_COPY.BUCKETS`, RO (R445). -/
def SV_COPY_BUCKETS : Fld := ⟨0x1F101C, 0, 23⟩
/-- `SV_EVT.DONE`, W1C (R445). -/
def SV_EVT_DONE : Fld := ⟨0x1F1020, 0, 1⟩
/-- `SV_EVT.SLICE_FAULT`, W1C (R445). -/
def SV_EVT_SLICE_FAULT : Fld := ⟨0x1F1020, 1, 5⟩
/-- `SV_EVT.REFUSED`, W1C (R445). -/
def SV_EVT_REFUSED : Fld := ⟨0x1F1020, 6, 1⟩
/-- `SV_EVT.STAT_GAP`, W1C (R445). -/
def SV_EVT_STAT_GAP : Fld := ⟨0x1F1020, 7, 1⟩
/-- `SV_EVT.ROW_DEGRADED`, W1C (R445). -/
def SV_EVT_ROW_DEGRADED : Fld := ⟨0x1F1020, 8, 1⟩
/-- `SV_EVT.ROW_UNC`, W1C (R445). -/
def SV_EVT_ROW_UNC : Fld := ⟨0x1F1020, 9, 1⟩
/-- `SV_EVT.ROW_DONE`, W1C (R445). -/
def SV_EVT_ROW_DONE : Fld := ⟨0x1F1020, 10, 1⟩
/-- `SV_EVT.ROW_EXH`, W1C (R445). -/
def SV_EVT_ROW_EXH : Fld := ⟨0x1F1020, 11, 1⟩
/-- `SV_ROW_ADDR.ROW`, RO (R445). -/
def SV_ROW_ADDR_ROW : Fld := ⟨0x1F1024, 0, 12⟩
/-- `SV_REJ.COUNT`, RC (R445). -/
def SV_REJ_COUNT : Fld := ⟨0x1F1028, 0, 32⟩
/-- `SV_ROW_STAT.FOR`, RO (R445). -/
def SV_ROW_STAT_FOR (i : Nat) : Fld := ⟨0x1F1100 + 4 * i, 0, 5⟩
/-- `SV_ROW_STAT.USED`, RO (R445). -/
def SV_ROW_STAT_USED (i : Nat) : Fld := ⟨0x1F1100 + 4 * i, 5, 1⟩
/-- `MC_STAT_LO.COUNT`, RC (R159). -/
def MC_STAT_LO_COUNT (i : Nat) (j : Nat) : Fld := ⟨0x064000 + 512 * i + 8 * j, 0, 32⟩
/-- `MC_STAT_HI.COUNT`, RC (R159). -/
def MC_STAT_HI_COUNT (i : Nat) (j : Nat) : Fld := ⟨0x064004 + 512 * i + 8 * j, 0, 32⟩

end Sys2Proof.Machine
end

