-- ==== Sys2Proof/Machine/Map.lean ====
section
/-! DEFINITION. The operations on sparse data: a look-up that answers the default where a key is not listed, and a write
that keeps the canonical form (rising keys, no entry equal to the default), so that equal contents are equal data. -/

namespace Sys2Proof.Machine

variable {α : Type}

/-- The value kept under a key, the default where none is listed. -/
def mapGet (d : Nat → α) : SMap α → Nat → α
  | [], k => d k
  | e :: m, k => if e.1 = k then e.2 else mapGet d m k

/-- The map without a key. -/
def mapErase (k : Nat) : SMap α → SMap α
  | [] => []
  | e :: m => if e.1 = k then mapErase k m else e :: mapErase k m

/-- The map with an entry placed before the first greater key. -/
def mapInsert (k : Nat) (v : α) : SMap α → SMap α
  | [] => [(k, v)]
  | e :: m => if k < e.1 then (k, v) :: e :: m else e :: mapInsert k v m

/-- Write one key: the entry is dropped where the value is the default. -/
def mapSet [DecidableEq α] (d : Nat → α) (m : SMap α) (k : Nat) (v : α) : SMap α :=
  if v = d k then mapErase k m else mapInsert k v (mapErase k m)

/-- Change the value kept under one key. -/
def mapUpd [DecidableEq α] (d : Nat → α) (m : SMap α) (k : Nat) (f : α → α) : SMap α :=
  mapSet d m k (f (mapGet d m k))

/-- The canonical form: keys strictly rising, no value equal to the default. -/
def mapWf [DecidableEq α] (d : Nat → α) (m : SMap α) : Bool :=
  (m.map Prod.fst).Pairwise (· < ·) && m.all (fun e => !(e.2 == d e.1))

/-- A map whose absent keys hold `none`: look-up. -/
def optGet (m : SMap α) (k : Nat) : Option α :=
  match m with
  | [] => none
  | e :: r => if e.1 = k then some e.2 else optGet r k

/-- A map whose absent keys hold nothing: write an entry. -/
def optSet (m : SMap α) (k : Nat) (v : α) : SMap α := mapInsert k v (mapErase k m)

end Sys2Proof.Machine
end

