-- ==== Sys2Proof/Machine/State.lean ====
section
/-! DEFINITION. The state of the VF6400 as plain data: every register field (`flds`), every latch, FIFO, ring, table, pin and
running operation the spec gives the block, and the queue of commands waiting (log entry 1). Default field values are the
state after reset; `State.reset` is the structure of all of them. -/

namespace Sys2Proof.Machine

/-- Why a step stops with a fault. No command of this model stops: the block answers, counts or ignores what it does not
carry out. -/
inductive Fault where
  /-- Raised by nobody: a constructor is kept so that the type has a value. Safe. -/
  | none
  deriving DecidableEq, Repr

/-- Why a command is refused. -/
inductive Refusal where
  /-- Raised by `exec` for a command that has no meaning yet, with its mnemonic. Safe. -/
  | notModelled (mnemonic : String)
  deriving DecidableEq, Repr

/-- Response codes of Alval (R51, R56); `unissued` ends a table request that its channel, issuing nothing, never sent (R178). -/
inductive Resp where
  | okay | declined | poison | timeout | unissued
  deriving DecidableEq, Repr

/-- Which unit issued a fabric or table request, and so which command consumes its response. -/
inductive ReqKind where
  | sdRead | heartbeat | descRead | dataFetch | rxData | rxCmpl | txCmpl | event | notify | cmdRead | cmdCmpl
  | imageWrite | imageRead | dirtyMark | ledger | mdDesc | mdRead | mdWrite | mdWb | pcExport
  | tblLookup | tblUpdRead | tblUpdWrite | tblClear | tblCopyRead | tblCopyWrite
  deriving DecidableEq, Repr

/-- A request waiting for credits or outstanding (R50 to R57). `x` is fabric port 0 to 8, or 9 + c for table channel c;
`rlen` is the byte count of a read, zero for a write; `left` counts beats still to send; `tag` is given at the first beat. -/
structure Req where
  kind : ReqKind
  a : Nat
  b : Nat
  x : Nat
  vc : Nat
  addr : Nat
  data : List Byte
  rlen : Nat
  left : Nat
  tag : Option Nat
  got : List Byte
  /-- The tick at which its first beat entered crossing 8 (R57). -/
  at_ : Nat := 0
  deriving DecidableEq, Repr

/-- The header of a beat the block sends (R51): the fields that are not zero on a request. -/
structure Hdr where
  vc : Nat
  last : Bool
  tag : Nat
  len : Nat
  relaxed : Bool
  noSnoop : Bool
  addr : Nat
  firstOff : Nat
  lastEnd : Nat
  deriving DecidableEq, Repr

/-- A response that has arrived (or timed out) and that its unit has not yet acted on. -/
structure Deliv where
  kind : ReqKind
  a : Nat
  b : Nat
  x : Nat
  addr : Nat
  resp : Resp
  data : List Byte
  deriving DecidableEq, Repr

/-- Boot grant of R46: one credit of `PW`, `RQ` and `NT` on fabric port 0. Keys are port × 4 + VC. -/
def bootGrant (k : Nat) : Nat := if k = 0 ∨ k = 1 ∨ k = 3 then 1 else 0

/-- Fabric ports and table channels (R50 to R59, R64). -/
structure FabSt where
  /-- `FAB_UP[8:0]` in bits 8:0 and `TBL_UP[6:0]` in bits 15:9 (R61, R64). -/
  up : BitVec 16 := 0
  grant : SMap Nat := []
  avail : SMap Nat := []
  outst : SMap Nat := []
  reqs : List Req := []
  done : List Deliv := []
  /-- Quarantined tags, as (port, tag) (R57). -/
  quar : List (Nat × Nat) := []
  /-- Ports whose credit audit has failed (R55, R178). -/
  failed : List Nat := []
  /-- The port whose position moves: requests not yet begun wait for it (R438). -/
  held : Option Nat := none
  /-- Beats sent and not yet counted as performance events: event, address, beats (R378). -/
  sent : List (Nat × Nat × Nat) := []
  /-- The header last driven on each port and channel (R51). -/
  hdrs : SMap Hdr := []
  /-- The header of the last beat that stands in crossing 8 of a port while the fabric clock stands. -/
  hdr8 : SMap Hdr := []
  /-- Beats that stand in crossing 8 of a port while the fabric clock stands, and in crossing 9 while the core clock does (R17, R20). -/
  out8 : SMap Nat := []
  in9 : SMap (List Beat) := []
  /-- Beats that the fabric island has taken and crossing 9 has no room for (R17, R54). -/
  fabQ : SMap (List Beat) := []
  /-- Per port or channel: slots foreground has taken since a background agent had one, and the agent that had the last (R382). -/
  fgRun : SMap Nat := []
  bgLast : SMap Nat := []
  deriving DecidableEq, Repr

/-- A value an `RC` read took out of its counter and whose reader has not yet accepted it (R9, R160). -/
structure Transit where
  reader : Nat
  off : Nat
  lo : Nat
  w : Nat
  hi : Bool
  value : Nat
  /-- Offset of the latch to empty when the transfer fails. -/
  latch : Nat
  /-- For a management DMA reader, where in its operand the value's last byte lies (R351). -/
  pos : Nat := 0
  deriving DecidableEq, Repr

/-- The answer of the last access of the setup port (R60): `OKAY` or `DECLINED`, and the read data. An access of the Nyelle core itself, master
256, that is not `OKAY` raises the core's access-fault exception (R364, R365). -/
structure SpAnswer where
  okay : Bool := true
  rdata : Nat := 0
  deriving DecidableEq, Repr

/-- A word in a receive-lane FIFO: whether it follows a gap (R19), its 32 bytes after `RX_INV`, and what the FEC finds in it (R79). -/
structure LegWord where
  gap : Bool
  data : List Byte
  fec : RxWord
  deriving DecidableEq, Repr

/-- A timer that may stand still: time already counted, and since when it counts on (both in ticks). -/
structure Timer where
  used : Nat := 0
  since : Option Nat := none
  deriving DecidableEq, Repr

/-- Start-up, descriptor, clocks and heartbeat (R40 to R49, R62, R63). -/
structure SysSt where
  aonRstN : Bool := false
  blkRstN : Bool := false
  pwGood : Bool := false
  pwIso : Bool := false
  pwRet : Bool := false
  /-- Bytes of the SD in force (R41); none before the first successful load. -/
  sd : Option (List Byte) := none
  /-- A new `MODE` waits for the next latched cut (R44). -/
  pendingMode : Option Nat := none
  /-- Islands started (R47): slices in bits 4:0, core 5, fabric 6, table 7, management 8. -/
  started : BitVec 9 := 0
  /-- Islands whose clock has stopped, numbered as in `started` (R20). -/
  clkStopped : BitVec 9 := 0
  /-- Slices that `BRINGUP` left out of service (R47). -/
  sliceOut : BitVec 5 := 0
  hbRunning : Bool := false
  /-- Tick of the next heartbeat mark, and of entry to `BRINGUP`. -/
  hbDue : Nat := 0
  bringAt : Nat := 0
  /-- A brown-out has not yet been followed by a release of `BLK_RST_N` (R423). -/
  bor : Bool := false
  hbOutstanding : Bool := false
  /-- A heartbeat write is held back (R62). -/
  hbDeferred : Bool := false
  /-- Crossings of classes 0 and 1 whose next word follows a gap (R19, R68). -/
  gap : List Nat := []
  /-- Words that stand in the crossings of classes 0 and 1, oldest first (R16 to R20). -/
  legs : SMap (List LegWord) := []
  /-- Bytes of datapath that frames have taken in each slice towards the core and from it, modulo a word of 128 (R23). -/
  dpRx : SMap Nat := []
  dpTx : SMap Nat := []
  /-- Slices that stand after they have run, with the tick since when: their timers stand too (R15). -/
  slStop : SMap Nat := []
  /-- Verdicts left in crossing 7 of a port's slice since the table island stands (R20). -/
  left7 : SMap Nat := []
  /-- Time of the management island, which stands still while that island does (R15, R289). -/
  mg : Timer := {}
  deriving DecidableEq, Repr

/-- Which step of the time counter is pending (R318, R321, R322, R331). -/
inductive StepKind where
  | set | offset | auto | tod | sleep
  deriving DecidableEq, Repr

/-- A pending step: what it does to the counter (an absolute value, or a signed amount to add, in 2⁻³² ns) and the core
cycle from which the next realignment boundary makes it take effect (R318). -/
structure TmStep where
  kind : StepKind
  value : Int
  due : Nat
  deriving DecidableEq, Repr

/-- What a register was up to a tick at which it changed. -/
structure Past where
  tick : Nat
  off : Nat
  val : Nat
  deriving DecidableEq, Repr

/-- The time counter and the clocks (R315 to R331). -/
structure TmSt where
  /-- Time counter in 2⁻³² ns since second 0. -/
  now : Nat := 0
  /-- Time that has passed in 625 ps units, the nominal core cycle: every island's timers are read off it (log entry 2). -/
  tick : Nat := 0
  /-- Free-running core-island cycle counter (R317). -/
  cyc : Nat := 0
  /-- Increment in force (R316). -/
  incr : Nat := 0xA0000000
  /-- Core cycles within the present 25 MHz cycle, and 32,768 × core cycles within the present 32.768 kHz period: the ratio of
  the clocks is nominal (log entry 2). -/
  sub25 : Nat := 0
  sub32 : Nat := 0
  step : Option TmStep := none
  /-- Captured value of the last accepted PPS edge (R321). -/
  lastEdge : Nat := 0
  /-- The next edge is accepted whenever it comes (R321). -/
  firstEdge : Bool := true
  /-- Cycle counter at the last accepted edge (R322). -/
  edgeCyc : Option Nat := none
  /-- Counter value from which the 1.1 s of R320 run. -/
  ppsRef : Nat := 0
  /-- Seconds of the last accepted edge for a time-of-day message (R322). -/
  todNext : Option Nat := none
  /-- The second whose boundary was last latched (R129). -/
  secDone : Nat := 0
  /-- The refill period whose instant was last taken (R193, R209). -/
  refDone : Nat := 0
  /-- Value and always-on count latched at entry to a state that stops the core island (R331). -/
  latchV : Option (Nat × Nat) := none
  /-- The measurement of the always-on tick (R330): seconds passed since it began with the count there, and the ticks of one that has ended. -/
  aonFrom : Option (Nat × Nat) := none
  aonTicks : Option Nat := none
  /-- Slices whose follower has taken a value since they began to run (R317). -/
  follows : BitVec 5 := 0
  /-- Recent changes of registers whose value at its start governs a frame (R149, R158, R166, R324, R325; log entry 131). -/
  past : List Past := []
  /-- Recent changes of the counter's course: when, the value it came to there, and its increment until then. -/
  breaks : List (Nat × Nat × Nat) := []
  deriving DecidableEq, Repr

/-- A log post waiting for the writer (R373). -/
structure LogPost where
  code : Nat
  sev : Nat
  a0 : Nat
  a1 : Nat
  a2 : Nat
  /-- The management-island cycle in which a hardware post came. -/
  cyc : Nat := 0
  deriving DecidableEq, Repr

/-- A stored log record (R374). -/
structure LogRec where
  seq : Nat := 0
  ns : Nat := 0
  sec : Nat := 0
  aon : Nat := 0
  code : Nat := 0
  sev : Nat := 0
  holdover : Bool := false
  noTime : Bool := false
  a0 : Nat := 0
  a1 : Nat := 0
  a2 : Nat := 0
  deriving DecidableEq, Repr

/-- A work unit of a background agent (R382, R383): the agent, which of its units where it has several at once, when it started, and whether
it has missed its deadline. -/
structure BgUnit where
  agent : Nat
  unit : Nat
  start : Nat
  missed : Bool := false
  deriving DecidableEq, Repr

/-- Nyelle island: log queues and slots, the core's timer interrupt, clock-monitor windows in a row (R363 to R384). -/
structure NySt where
  hwq : List LogPost := []
  fwq : List LogPost := []
  hostq : List LogPost := []
  slots : SMap LogRec := []
  timerIrq : Bool := false
  /-- Windows in a row outside, and within, 2 % (R371). -/
  offRun : SMap Nat := []
  okRun : SMap Nat := []
  /-- The watchdog's count, which stands while a debugger holds the core (R367). -/
  wdt : Timer := {}
  /-- Errors of this second on each lane, for the eye monitors (R372). -/
  eyeErr : SMap Nat := []
  /-- Work units in progress (R382, R383). -/
  bgUnits : List BgUnit := []
  /-- The 256 KiB data SRAM, space 1 of the management DMA (R364): bytes not listed read zero (log entry 7). -/
  sram : List Host.Cell := []
  /-- Export writes not yet answered, and whether one has failed (R380). -/
  expLeft : Nat := 0
  expFail : Bool := false
  /-- The 256 KiB instruction SRAM (R364): the boot ROM loads it (R392), and the core alone fetches from it. -/
  isram : List Host.Cell := []
  /-- Per droop monitor, the tick after its last sample below `THR`, and the samples of the last 100 µs (R368, R370). -/
  low : SMap Nat := []
  volts : SMap (List (Nat × Nat)) := []
  /-- Islands that have not copied their counters for a `SNAP` yet (R380). -/
  snapLeft : List Nat := []
  deriving DecidableEq, Repr

/-- A command channel (R282): state 0 `FREE`, 1 `CLAIMED`, 2 `COMMITTED`, 3 `DONE`; its token, owner, committed word count,
lease and the lease limit in force in µs. Its words are register fields. -/
structure ChanSt where
  state : Nat := 0
  token : Nat := 0
  owner : Nat := 0
  count : Nat := 0
  lease : Timer := {}
  limit : Nat := 0
  deriving DecidableEq, Repr

/-- A lock of the tumbler bank (R291). -/
structure LockSt where
  held : Bool := false
  holder : Nat := 0
  token : Nat := 0
  deriving DecidableEq, Repr

/-- A master's want (R294). -/
structure WantSt where
  lock : Nat
  age : Timer
  deriving DecidableEq, Repr

/-- Command channels, tumbler bank and the halt inputs (R280 to R297). -/
structure CcSt where
  halt : BitVec 64 := 0
  chans : SMap ChanSt := []
  locks : SMap LockSt := []
  wants : SMap WantSt := []
  /-- Walk-pending masters and the master last taken (R295). -/
  walks : List Nat := []
  last : Nat := 0
  deriving DecidableEq, Repr

/-- One source of the hub (R336, R340, R347). -/
structure SrcSt where
  level : Bool := false
  pending : Bool := false
  active : Bool := false
  preced : Bool := false
  redir : Bool := false
  /-- Target that claimed it, while active; and the fallback it went to, while redirected. -/
  holder : Nat := 0
  fb : Nat := 0
  deriving DecidableEq, Repr

/-- The signal hub (R332 to R349). -/
structure HubSt where
  srcs : SMap SrcSt := []
  /-- Hold-off groups whose timer runs, with the management time at which it ends (R344). -/
  hold : SMap Nat := []
  /-- Sources whose redirect timer runs, with the management time at which it started (R347). -/
  redirs : SMap Nat := []
  awake : BitVec 64 := 0
  /-- The claim of a core load not yet completed: target, source and whether it had precedence (R338). -/
  coreClaim : Option (Nat × Nat × Bool) := none
  /-- The management-island cycle of the last completion, and the sources completed in it (R341). -/
  endCyc : Nat := 0
  ended : List Nat := []
  /-- `WAKE_OUT` is raised by the watch list. -/
  wakeOut : Bool := false
  /-- `HB_EVT.WAKE` is due once the management island runs (R348). -/
  wakeDue : Bool := false
  deriving DecidableEq, Repr

/-- What a check unit keeps beside its registers (R361): bytes since the unit or the arming began, and whether the next byte
begins a unit of `END_MODE` 1. -/
structure CuSt where
  seen : Nat := 0
  contig : Bool := false
  deriving DecidableEq, Repr

/-- An access of a management DMA channel that has not returned (R354): a write or a read, of which operand, where. -/
structure MdAcc where
  write : Bool
  second : Bool
  space : Nat
  addr : Nat
  off : Nat
  len : Nat
  data : List Byte
  deriving DecidableEq, Repr

/-- A management DMA channel beside its registers (R350 to R357). Phase 0 none, 1 descriptor read, 2 data, 3 write-back. -/
structure MdCh where
  phase : Nat := 0
  desc : List Byte := []
  acc : Option MdAcc := none
  /-- Bytes of `SRC` and of `DST` read, and bytes written. -/
  sr : Nat := 0
  dr : Nat := 0
  wr : Nat := 0
  /-- Bytes read and not yet written or compared. -/
  buf : List Byte := []
  buf2 : List Byte := []
  status : Nat := 0
  result : Nat := 0
  miss : Bool := false
  /-- The SRAM read in progress met an uncorrectable word (R365). -/
  poison : Bool := false
  deriving DecidableEq, Repr

/-- A Keyward operation in progress (R399): key bytes, direction, bytes not yet taken and blocks not yet done. -/
structure KwOp where
  key : List Byte
  decrypt : Bool
  pad : Nat
  left : Nat
  blocks : Nat
  deriving DecidableEq, Repr

/-- A store transfer (R386, R387): operation, flash address, SRAM offset, length, and the management time it began at. -/
structure StXfer where
  op : Nat
  addr : Nat
  off : Nat
  len : Nat
  start : Nat
  deriving DecidableEq, Repr

/-- Store port, update mailbox, Keyward, Keyring, fuses and hasp (R385 to R407). -/
structure KwSt where
  /-- Key material of slots 0 to 7 as little-endian numbers (R403). -/
  keys : SMap Nat := []
  /-- The key fuses and whether their lock is blown: kept across every reset (R404). -/
  fuses : Nat := 0
  fuseLock : Bool := false
  /-- Data taken for programming (R404). -/
  fuseNew : Nat := 0
  din : List Nat := []
  dout : List Nat := []
  op : Option KwOp := none
  /-- `HASP_REQ` as the surroundings drive it, and whether a request is being served (R405). -/
  haspPin : Bool := false
  haspServe : Bool := false
  /-- The firmware's mailbox event of an update (R396). -/
  mailbox : Bool := false
  /-- A store transfer in progress (R386, R387). -/
  xfer : Option StXfer := none
  /-- The flash as the last start of the core found it, with the attempts it used and what transfers have read back since (R388, R392, R398). -/
  flash : Boot := {}
  deriving DecidableEq, Repr

/-! ### Lanes and the Riltor line (R66 to R132) -/

/-- What the Reconciliation Sublayer sends on a channel (R77): frames, remote fault, or idle with its frames held. -/
inductive RsSignal where
  | frames | remoteFault | idle
  deriving DecidableEq, Repr

/-- A wired lane beside its registers: tick of its entry to `DOWN` or of the last break of its inputs (R68), the pin
`LTX_DATA` (R66), and whether its receive and transmit clocks run. -/
structure LaneSt where
  since : Nat := 0
  rxClk : Bool := false
  txClk : Bool := false
  ltx : List Byte := []
  /-- What its channel sent with the last word, in E-mode (R77). -/
  signal : RsSignal := .idle
  /-- The last 1,024 bytes its slice has read from it, oldest first, how many words that were in all, and at which of their bits a gap
  lies: the alignment line (R80) and the matcher (R81) read them. -/
  hist : List Byte := []
  words : Nat := 0
  gaps : List Nat := []
  /-- The delay in bits at which its words leave the alignment line (R80). -/
  delay : Nat := 2048
  /-- Words it has taken from its transmit crossing since the slice's clock stopped (R20). -/
  tail : Nat := 0
  deriving DecidableEq, Repr

/-- A spare-lane operation of a port beside its registers (R81): the reversed match of `RESTORE` runs; the end of the match
was forced; when `MATCH` was entered; the bridge stands. From a match on: the bits, counted since the lanes' first words, up to which the
copy and the line in use were found equal, and the words confirmed. -/
structure SpareSt where
  reverse : Bool := false
  forced : Bool := false
  since : Nat := 0
  bridge : Bool := false
  matched : Bool := false
  copyAt : Nat := 0
  lineAt : Nat := 0
  confirmed : Nat := 0
  deriving DecidableEq, Repr

/-- A tracked candidate of a framer (R97): bit offset, `MFC`, count. -/
structure Cand where
  off : Nat
  mfc : Nat
  count : Nat
  deriving DecidableEq, Repr

/-- A received frame's payload in the deskew store (R116): count, acceptance in counter time, payload. -/
structure SegPart where
  mfc : Nat
  time : Nat
  data : List Byte
  deriving DecidableEq, Repr

/-- The framer of a working position (R87 to R101, R116, R129) beside its registers. -/
structure FrSt where
  /-- Received bytes not yet passed, oldest first, and the bit of the first byte from which on nothing has been examined (R98). -/
  line : List Byte := []
  bit : Nat := 0
  /-- Bits passed since the line began, modulo the 65,536 of a frame. -/
  pos : Nat := 0
  cands : List Cand := []
  /-- The frame whose header was examined last in `SYNC` and which is not yet whole: its count, whether the header passed, when. -/
  frame : Option (Nat × Bool × Nat) := none
  /-- Parity over the last frame received in `SYNC` (R91), none where the predecessor was not. -/
  par : Option Nat := none
  /-- Number of differing bits to send as `REI` (R91). -/
  rei : Nat := 0
  /-- The last accepted header carries a wrong `MEMBER` or `GROUP_ID`, or another `PT` than 0x01; any header accepted. -/
  accepted : Bool := false
  store : List SegPart := []
  /-- Transmit: count of the next frame, parity over the last one sent, and bytes of built frames not yet taken. -/
  txMfc : Nat := 0
  txPar : Option Nat := none
  out : List Byte := []
  /-- Count of the next frame the position sends for its group (R115). -/
  grpMfc : Nat := 0
  /-- Running counts of this second (R129): violations, header failures, errored frames, out of `SYNC` (as from reset). -/
  bip : Nat := 0
  hcrc : Nat := 0
  errFr : Nat := 0
  lost : Bool := true
  deriving DecidableEq, Repr

/-- A group (R111 to R118, R130) beside its registers: good segments in a row, the segment to release next, transmit bytes
waiting and segments built with their count, SD runs, and whether it was in `UP` throughout the second. -/
structure GrpSt where
  good : Nat := 0
  next : Nat := 0
  txq : List Byte := []
  segs : List (Nat × List Byte) := []
  setRun : Nat := 0
  clrRun : Nat := 0
  upAll : Bool := false
  /-- Acceptances of the headers of recent segments not yet complete: count, and position with time of each member (R116). -/
  seen : List (Nat × List (Nat × Nat)) := []
  /-- Earliest and latest acceptance of recent segments, for the spread over a pair (R123). -/
  times : List (Nat × Nat × Nat) := []
  /-- Stamped copies this group has still to send (R120): stream position, frame, length. -/
  stamps : List (Nat × Nat × Nat) := []
  deriving DecidableEq, Repr

/-- The MAC parameters in force in one direction (R133). -/
structure MacLive where
  deliverBad : Bool := false
  stripFcs : Bool := true
  rxStrip : Nat := 0
  csumRx : Bool := true
  inner : Bool := true
  maxlen : Nat := 1522
  stpid : Nat := 0x88A8
  deriving DecidableEq, Repr

/-- A client frame handed to the MAC (R106): its bytes, whether its payload FCS failed, whether it was cut short (R105), the stream
position of its first core-header byte, and the counter's value when that byte came (R122, R145). -/
structure ClientFr where
  data : List Byte
  badFcs : Bool
  cut : Bool
  pos : Nat
  time : Nat
  /-- Whether a payload FCS followed it, by its PFI. -/
  pfi : Nat := 0
  /-- When its core header came, and the MAC parameters in force then (R133). -/
  tick : Nat := 0
  live : MacLive := {}
  deriving DecidableEq, Repr

/-- The GFP-F stream of a channel (R102 to R109): received bytes from the tested position on, the stream position of the
first of them, look-ahead of `PRESYNC` and its count, the PLI of the core header accepted whose frame is awaited with that header's
position, time and the `TF_GFP_CFG` in force for the frame (R110), the x⁴³ + 1 states, and when `SYNC` began. -/
structure GfpSt where
  buf : List Byte := []
  pos : Nat := 0
  ahead : Nat := 0
  count : Nat := 0
  pli : Option Nat := none
  corePos : Nat := 0
  coreTime : Nat := 0
  coreTick : Nat := 0
  live : MacLive := {}
  cfg : Nat := 0
  rxScr : Nat := 0
  txScr : Nat := 0
  since : Nat := 0
  /-- Deskew store delay of each member for the segments whose bytes wait, by segment count (R326). -/
  skews : List (Nat × List Nat) := []
  /-- Client frames the MAC has not yet taken, oldest first. -/
  clients : List ClientFr := []
  deriving DecidableEq, Repr

/-- A copy waiting in a hinge (R122): stream position, whether it is the protect copy, the receive frame, arrival tick. -/
structure Copy where
  pos : Nat
  prot : Bool
  frame : Nat
  tick : Nat
  deriving DecidableEq, Repr

/-- A protected pair (R119 to R128) beside its registers. -/
structure PairSt where
  /-- `NEXT`: the position after the last frame passed, none before the first since the pair's groups were enabled (log entry 127). -/
  next : Option Nat := none
  copies : List Copy := []
  /-- Conditions SF-P, SF-W, SD-P, SD-W that stand, with the tick since when, and those that have outlasted the hold-off. -/
  conds : List (Nat × Nat) := []
  entered : List Nat := []
  wtr : Option Nat := none
  dnr : Bool := false
  /-- Far-end `SWR`: the value counted, how often in a row, and the value that holds. -/
  swrNew : Nat := 0
  swrRun : Nat := 0
  swr : Nat := 0
  /-- The selection has changed while `UNALIGNED` and no copy of the new group has passed yet (R125). -/
  switched : Bool := false
  /-- Position of the last standby copy discarded while `UNALIGNED`: at or above `next`, the standby group leads (R125). -/
  stby : Option Nat := none
  /-- Position after the last client frame stamped for transmission (R120). -/
  txPos : Nat := 0
  deriving DecidableEq, Repr

/-- An overhead port (R131, R132): its FIFOs of words, the levels of `OH_TX_DAT` and `OH_TX_FRM` for each clock pulse of the last word
sent, and the tick at which that word ends. -/
structure OhSt where
  tx : List Nat := []
  rx : List Nat := []
  sent : List (Bool × Bool) := []
  busy : Nat := 0
  deriving DecidableEq, Repr

/-! ### MAC channels, verdicts and frames (R32 to R36, R133 to R161) -/

/-- What the line of a channel sends (R154, R215): nothing, a generated PFC or PAUSE frame, or a staged frame. -/
inductive LineSt where
  | idle
  | control (pfc : Bool) (enable : Nat)
  | frame (id : Nat)
  deriving DecidableEq, Repr

/-- A starvation-guard window (R216): the tick from which its end is sought, the class visited and the deficits. -/
structure GuardSt where
  until_ : Nat
  cls : Nat
  visited : Bool
  deficits : List Nat
  deriving DecidableEq, Repr

/-- A gate list take-over that waits (R220): the instant in counter units. -/
structure TakeSt where
  inst : Nat
  base : Nat
  cycle : Nat
  len : Nat
  list : Nat
  deriving DecidableEq, Repr

/-- A MAC channel and its line (R133 to R156, R213 to R221) beside its registers. -/
structure ChSt where
  rx : MacLive := {}
  tx : MacLive := {}
  /-- Halves that have not yet sampled a committed shade set (R133). -/
  rxDue : Bool := false
  txDue : Bool := false
  /-- When the last commit came, and what was in force in each direction until then: a frame that starts in the same cycle keeps it (R133). -/
  comAt : Option Nat := none
  rxOld : MacLive := {}
  txOld : MacLive := {}
  /-- A frame may be partly received: reception stopped (R75, R77). -/
  partly : Bool := false
  /-- The E-mode channel has been `ALIGNED` without fault since this tick (R78). -/
  linkSince : Nat := 0
  /-- Alignment was lost (R76), and when a gap last came that no frame's end has met (R19, R68). -/
  alignLost : Bool := false
  gapAt : Option Nat := none
  /-- A frame is being received that began before the last commit (R133). -/
  rxBusy : Bool := false
  /-- Deskew delay of each PCS lane in 2⁻¹⁶ ns, as the last alignment measured it (R76, R326). -/
  deskew : List Nat := []
  staged : SMap (List Nat) := []
  line : LineSt := .idle
  /-- A generated control frame waits, and the classes gone to XON since the last one (R154). -/
  ctlDue : Bool := false
  xonChg : Nat := 0
  /-- Classes that entered XOFF under the present mode, and when the last control frame went (R154). -/
  xoffMine : Nat := 0
  ctlSent : Nat := 0
  /-- Per class: the tick at which the pause timer ends, since when it has been unbroken, the tick at which a hold-off ends. -/
  pauseEnd : SMap Nat := []
  pauseFrom : SMap Nat := []
  holdEnd : SMap Nat := []
  /-- Start and length of the last frame started (R217). -/
  lastStart : Nat := 0
  lastLen : Nat := 0
  guard : Option GuardSt := none
  /-- Per class: the tick since when it has been ready without its frame starting; and that one of these timers has reached its limit, so
  that a window opens at the next start (R216). -/
  unserved : SMap Nat := []
  starved : Bool := false
  /-- `SC_CH_STG` and `SC_CH_GUARD` as they act since the last frame start (R213, R216). -/
  stgLive : Nat := 64
  clsLive : Nat := 16
  starveLive : Nat := 100
  guardLive : Nat := 20
  /-- `SC_CH_PACE` since the last frame start (R217). -/
  paceLive : Nat := 0
  /-- `TM_TX_CORR` since the last frame start (R325). -/
  txCorr : Nat := 0
  /-- Gate list in force (R219): base and cycle in ns, entries used. -/
  gBase : Nat := 0
  gCycle : Nat := 0
  gLen : Nat := 0
  take : Option TakeSt := none
  deriving DecidableEq, Repr

/-- A verdict (R162): `reason` 0 for a hit. -/
structure Verdict where
  ctx : Nat := 0
  rxq : Nat := 0
  men : Bool := false
  meter : Nat := 0
  action : Nat := 0
  cls : Nat := 0
  reason : Nat := 0
  deriving DecidableEq, Repr

/-- A mark of a datapath word's sideband (R23): start or end, byte offset, channel. -/
structure Mark where
  start : Bool
  off : Nat
  chan : Nat
  deriving DecidableEq, Repr

/-- Where a received frame stands (R32): in its slice, released, in a hinge, passed by it, admitted, waiting at stage 8, being written,
with its completion due, with its completion written; `lost`: dropped in its slice, of which the core island has yet to hear (R31). -/
inductive RxStage where
  | slice | released | hinge | passed | admitted | waiting | writing | complete | written | lost
  deriving DecidableEq, Repr

/-- A received frame. -/
structure RxFr where
  chan : Nat
  /-- Length the ledger counts, and the end-verdict flags `RUNT`, `OVER`, `FCS`, `CODE` as bits 0 to 3 (R135, R140). -/
  len : Nat
  flags : Nat
  deliverBad : Bool
  /-- Host bytes, after stripping (R142). -/
  data : List Byte
  csum : Nat
  tag1 : Nat
  tci1 : Nat
  tag2 : Nat
  tci2 : Nat
  stamp : Nat
  /-- Its slice's follower had a value (R317). -/
  stamped : Bool := true
  holdover : Bool
  /-- PCP of the outermost recognised tag, and yellow pre-colour (R162, R191). -/
  pcp : Nat
  yellow : Bool
  verdict : Option Verdict
  /-- The lookup key while the verdict is awaited (R166). -/
  key : Option (List Byte) := none
  /-- The elastic store was full: a drop record (R25). -/
  dropRec : Bool
  control : Bool
  stage : RxStage := .slice
  /-- Its key stands in crossing 6 (R20). -/
  asked : Bool := false
  /-- Bytes it holds in the elastic store (R25), where in a datapath word it starts, and the sideband marks of its words, counted from the first
  (R23). -/
  stored : Nat := 0
  dp : Nat := 0
  marks : List (Nat × Mark) := []
  /-- Stream position of a paired channel's frame, whether it came on the protect channel (R122), and its PFI (R104). -/
  pos : Nat := 0
  prot : Bool := false
  pfi : Nat := 0
  colour : Nat := 0
  cells : Nat := 0
  port : Nat := 0
  /-- Pool queue, first buffer index, buffers used, writes not yet answered, and how the writes went (R34, R267). -/
  queue : Nat := 0
  first : Nat := 0
  nbuf : Nat := 0
  left : Nat := 0
  fault : Bool := false
  squash : Bool := false
  /-- The slice that passes it (R432). -/
  via : Nat := 0
  /-- Dropped in its slice under a cause that the core island has yet to hear of (R31). -/
  fate : Option Nat := none
  /-- The tick of its admission (R222), and its place in the order of admissions (R239). -/
  admitAt : Nat := 0
  order : Nat := 0
  deriving DecidableEq, Repr

/-- Where a transmit frame stands (R35); `sent`: its last byte has passed and the core island has yet to hear of it (R31). -/
inductive TxStage where
  | accepted | fetching | ready | dispatched | staged | line | sent | ended
  deriving DecidableEq, Repr

/-- A transmit frame, or a descriptor that ended without one. -/
structure TxFr where
  queue : Nat
  ctx : Nat
  idx : Nat
  /-- The descriptor (R234). -/
  desc : List Byte
  len : Nat
  stage : TxStage
  chan : Nat := 0
  cls : Nat := 0
  cells : Nat := 0
  /-- Data fetched so far by offset, reads not yet answered, and whether one failed. -/
  data : List (Nat × List Byte) := []
  left : Nat := 0
  bad : Bool := false
  /-- Order in which its descriptor returned `OKAY` (R205). -/
  order : Nat := 0
  /-- The frame as it stands on the line, and what it counted there. -/
  wire : List Byte := []
  startTick : Nat := 0
  /-- Where in a datapath word it starts, and the sideband marks of its words (R23). -/
  dp : Nat := 0
  marks : List (Nat × Mark) := []
  /-- Dropped in its slice under a cause and with a status that the core island has yet to hear of (R31). -/
  fate : Option (Nat × Nat) := none
  stamp : Option (Nat × Bool) := none
  status : Nat := 0
  /-- It ends with a completion entry of its own (R237). -/
  need : Bool := false
  filled : Nat := 0
  /-- The tick at which its last cell was filled (R222). -/
  readyAt : Nat := 0
  /-- A copy for a channel of a protected pair (R120): the frame it is a copy of. -/
  main : Option Nat := none
  deriving DecidableEq, Repr

/-- A ring of a pool queue (R223, R231, R244). -/
structure QSt where
  state : Nat := 0
  faulted : Bool := false
  last : Nat := 0
  qidx : Nat := 0
  ctx : Nat := 0
  owned : Bool := false
  ring : Nat := 0
  cmpl : Nat := 0
  log2 : Nat := 6
  vector : Nat := 0
  notify : Bool := false
  prefetch : Nat := 1
  pi : Nat := 0
  ci : Nat := 0
  cpi : Nat := 0
  /-- Index of the next entry to read, and entries of reads not yet answered. -/
  fp : Nat := 0
  reading : Nat := 0
  /-- A read ahead of this one failed: what it fetches is discarded (R233). -/
  poison : Bool := false
  /-- Receive buffers fetched and unused: index, address, length. -/
  bufs : List (Nat × Nat × Nat) := []
  /-- Frames in ring order whose completion has not been issued. -/
  order : List Nat := []
  /-- Completion writes not yet answered. -/
  cmplOut : Nat := 0
  /-- A `NO_RX_DESC` event has been written since the last receive doorbell (R239). -/
  noRx : Bool := false
  /-- Command that waits for `STOPPED` (R253). -/
  stopCmd : Option Nat := none
  /-- The last transmit frame that ended while the queue was `STOPPING` (R237). -/
  lastEnd : Option Nat := none
  /-- Transmit live mapping (R208). -/
  chan : Nat := 0
  cls : Nat := 0
  /-- Limit on descriptors read while the context drains (R266). -/
  drainPi : Option Nat := none
  deriving DecidableEq, Repr

/-- A token-bucket shaper with its sums in 1/256 byte (R209, R210); `rate`, `burst`, `shape` and `weight` are the live values. -/
structure ShapSt where
  rate : Nat := 0
  burst : Nat := 16384
  shape : Bool := false
  weight : Nat := 16
  fill : Bool := true
  tok : Int := 0
  cred : Int := 0
  spent : Int := 0
  disc : Int := 0
  /-- Shade set (R218): what `SC_Q_MAP` to `SC_TEN` hold for this instance, and its lock and `GEN`. -/
  sMap : Nat := 0
  sRate : Nat := 0
  sBurst : Nat := 16384
  sTen : Nat := 0x2010
  locked : Bool := false
  /-- Core cycle of the commit (R218, R262). -/
  commitAt : Nat := 0
  gen : Nat := 0
  /-- Command that waits for the hand-over (R253). -/
  cmd : Option Nat := none
  deriving DecidableEq, Repr

/-- An L1 node (R211): start tag, the head frame with its finish tag, whether it has lost eligibility through a shaper, and the queue served
last. -/
structure NodeSt where
  s : Nat := 0
  f : Option (Nat × Nat) := none
  out : Bool := false
  last : Nat := 32768
  deriving DecidableEq, Repr

/-- Cells of a port and class: in reserve, in shared, in headroom (R202). -/
structure CellSt where
  r : Nat := 0
  s : Nat := 0
  h : Nat := 0
  deriving DecidableEq, Repr

/-- The frame buffer's counts (R198 to R206). -/
structure FbSt where
  free : Nat := 196608
  /-- Cells held in all, counted for itself (R206). -/
  held : Nat := 0
  use : SMap CellSt := []
  tx : Nat := 0
  hinge : Nat := 0
  deriving DecidableEq, Repr

/-! ### Endpoint table and meters (R162 to R197) -/

/-- A lookup in the table island (R173): its frame, key, the bucket it waits for, whether that is h2 and a reread. -/
structure Lookup where
  /-- Its 10-bit frame tag within the slice (R163). -/
  tag : Nat := 0
  type : Nat
  h1 : Nat
  sig : Nat
  start : Nat
  second : Bool := false
  reread : Bool := false
  result : Option Verdict := none
  deriving DecidableEq, Repr

/-- A cache line (R174, R184): four entries, when last used, writes outstanding, and whether a write has failed for good. -/
structure LineC where
  ents : List Nat
  used : Nat
  out : Nat := 0
  failed : Bool := false
  deriving DecidableEq, Repr

/-- A step of an operation's plan (R183 to R185): a count of the displacement map, a bucket write, the stash, the entries and
displaced entries in buckets. -/
inductive UStep where
  | count (b v : Nat)
  | write (b : Nat) (ents : List Nat)
  | stash (l : List (Nat × Nat))
  | occ (e a : Int)
  deriving DecidableEq, Repr

/-- An operation of the update engine (R182; 0 is a move out of the stash, R171): key, verdict bits of an entry, its source (`none`
for `CL_UPD`, else the active command), buckets it has read, the read in progress and whether it is a reread, the steps still to do,
writes not yet answered, and what it will end with. -/
structure UpdOp where
  op : Nat
  key : List Byte
  vd : Nat
  cmd : Option Nat
  known : List (Nat × List Nat) := []
  reading : Option Nat := none
  reread : Bool := false
  todo : List UStep := []
  writes : Nat := 0
  decided : Bool := false
  status : Nat := 0
  place : Nat := 0
  moves : Nat := 0
  /-- Steps that undo what it has done so far, the last first; and whether it is being undone after a failed write (R182). -/
  undo : List UStep := []
  back : Bool := false
  deriving DecidableEq, Repr

/-- The table island (R169 to R188). -/
structure TblSt where
  lookups : SMap Lookup := []
  cache : SMap LineC := []
  clock : Nat := 0
  /-- Lookup reads, as (frame, bucket), issued before an update instant of their bucket (R184). -/
  stale : List (Nat × Nat) := []
  stash : List (Nat × Nat) := []
  disp : SMap Nat := []
  entries : Nat := 0
  alts : Nat := 0
  ops : List UpdOp := []
  /-- `CLEAR` has completed since reset and since the last change of `CL_HKEY` (R170). -/
  cleared : Bool := false
  deriving DecidableEq, Repr

/-- A meter (R189 to R197) with its sums in 1/256 byte, for the committed and the second bucket. -/
structure MeterSt where
  alg : Nat := 0
  aware : Bool := false
  redAct : Bool := false
  cir : Nat := 0
  cbs : Nat := 0
  pir : Nat := 0
  pbs : Nat := 0
  tokC : Nat := 0
  tokP : Nat := 0
  period : Nat := 0
  credC : Int := 0
  spentC : Int := 0
  discC : Int := 0
  credP : Int := 0
  spentP : Int := 0
  discP : Int := 0
  deriving DecidableEq, Repr

/-! ### Contexts, rings and the ledger (R223 to R314) -/

/-- An event ring (R245). -/
structure EvRing where
  base : Nat
  log2 : Nat
  pi : Nat
  ci : Nat
  vector : Nat
  notify : Bool
  deriving DecidableEq, Repr

/-- A notification vector (R248): `un` holds the ticks at which its unannounced entries became so, `msg` says that a message waits to be
issued. -/
structure VecSt where
  mask : Bool := false
  modCnt : Nat := 0
  modUs : Nat := 0
  data : Nat := 0
  addr : Nat := 0
  un : List Nat := []
  msg : Bool := false
  deriving DecidableEq, Repr

/-- A dirty-page logging session (R276). -/
structure DirtySt where
  bitmap : Nat
  region : Nat
  pages : Nat
  fault : Bool := false
  /-- It ends once every mark has answered, for the command that asked. -/
  stopping : Bool := false
  stopCmd : Option Nat := none
  /-- The tick of the last mark, and the bytes marked at it (R276). -/
  markAt : Nat := 0
  marks : List Nat := []
  deriving DecidableEq, Repr

/-- A reset in progress (R265 to R269). -/
structure ResetSt where
  squash : Bool
  cmd : Option Nat
  start : Nat
  count : Nat := 0
  timeout : Bool := false
  deriving DecidableEq, Repr

/-- A tenant context (R257 to R279) beside its shade registers: the live values of its shade set are `owner`, `groups`,
`evState`. -/
structure CtxSt where
  state : Nat := 0
  txq : List Nat := []
  rxq : List Nat := []
  owner : Nat := 0
  groups : Nat := 0
  evState : Bool := false
  evr : Option EvRing := none
  vecs : SMap VecSt := []
  dirty : Option DirtySt := none
  reset : Option ResetSt := none
  freeze : Option (Option Nat × Nat) := none
  /-- Destroyed, its in-flight frames not yet ended (R310), with the command that waits. -/
  closing : Option (Option Nat) := none
  /-- Core cycle of the last commit of its shade set (R262). -/
  commitAt : Nat := 0
  deriving DecidableEq, Repr

/-- A command of the ring that has started and not completed (R251, R255). -/
structure CmdSt where
  op : Nat
  tag : Nat
  ctx : Nat
  entry : List Byte := []
  deriving DecidableEq, Repr

/-- The management command ring (R249 to R256) beside its registers. -/
structure RingSt where
  /-- The command read and not yet started, if any. -/
  heads : List (List Byte) := []
  reading : Bool := false
  active : SMap CmdSt := []
  nextId : Nat := 0
  cpi : Nat := 0
  /-- Place in the turn of the pool queue whose descriptors were read last (R231). -/
  turn : Nat := 65536
  order : Nat := 0
  deriving DecidableEq, Repr

/-- A tag (R311): context, direction, length and the period of its acceptance. -/
structure TagSt where
  ctx : Nat
  tx : Bool
  len : Nat
  period : Nat
  deriving DecidableEq, Repr

/-- An open cut window (R302). -/
structure WinSt where
  inst : Nat
  opened : Nat
  due : List Nat
  step : Bool
  holdover : Bool
  mode : Nat
  owners : SMap Nat
  ctxs : List Nat
  lateCtx : List Nat
  lateCount : Nat
  auditAll : Bool
  /-- A cut before this one was skipped (R304). -/
  skipped : Bool
  /-- Events whose instant precedes this are late after the close (R302). -/
  floor : Nat
  deriving DecidableEq, Repr

/-- A closing slot (R310): its context, `OWNER`, both blocks, whether late events are in it, whether its cut has latched, and whether a check
of R311 failed for it then. -/
structure SlotSt where
  ctx : Nat
  owner : Nat
  rx : List Nat
  tx : List Nat
  late : Bool
  period : Nat
  latched : Bool := false
  audit : Bool := false
  deriving DecidableEq, Repr

/-- The header of the cut in the bank (R306, R307). -/
structure CutSt where
  seq : Nat := 0
  sec : Nat := 0
  period : Nat := 0
  step : Bool := false
  holdover : Bool := false
  skipped : Bool := false
  mode : Nat := 0
  lateCtx : List Nat := []
  lateCount : Nat := 0
  audit : List Nat := []
  auditAll : Bool := false
  owners : SMap Nat := []
  ctxs : List Nat := []
  slots : List SlotSt := []
  deriving DecidableEq, Repr

/-- The ledger (R298 to R314). A block is the 30 words of R306, kept under context × 2 + direction. -/
structure LedSt where
  live : SMap (List Nat) := []
  old : SMap (List Nat) := []
  bank : SMap (List Nat) := []
  tags : SMap TagSt := []
  /-- Tags returned during the window for an end counted in the new period (R311). -/
  endedNew : List TagSt := []
  /-- Number of the live period. -/
  period : Nat := 0
  win : Option WinSt := none
  /-- Events whose instant precedes this are late (R302). -/
  floor : Nat := 0
  /-- The next cut instant in seconds, none between an exit from D and the load of the counter, and the period in force. -/
  nextCut : Option Nat := some 60
  per : Nat := 60
  lastCut : Option Nat := none
  skipped : Bool := false
  stepped : Bool := false
  lateCtx : List Nat := []
  lateCount : Nat := 0
  /-- The first audit failure of the live period that names no context (R307). -/
  auditAll : Bool := false
  slots : List SlotSt := []
  cut : CutSt := {}
  /-- Records of the held cut already written with `OKAY`, those issued, and closing slots of it freed (R309, R310). -/
  done : Nat := 0
  issued : Nat := 0
  freed : Nat := 0
  deriving DecidableEq, Repr

/-- The power sequencer (R411 to R421) beside its registers: what it waits for, the state asked for, the pin `PW_REQ`, the tick
at which it was driven, a wake recorded during entry, whether a thermal park follows the request in progress, whether the Nyelle
core is stopped by it, and what the core's clock and `UNSET` were at entry. -/
structure PwSt where
  step : Nat := 0
  target : Nat := 0
  req : Nat := 0
  since : Nat := 0
  held : Bool := false
  park : Bool := false
  coreStopped : Bool := false
  unset : Bool := true
  /-- Ports whose lanes it holds idle (R414, R419), and whether the log's records are lost in D, with how many (R422). -/
  idle : BitVec 4 := 0
  lost : Nat := 0
  /-- The fabric ports and table channels that step E2 dropped (R414). -/
  upWas : BitVec 16 := 0
  deriving DecidableEq, Repr

/-- A channel's timers as a checkpoint copied them (R430): when, the pause and hold-off ends, and `PAUSED`, `HOLDOFF`, `XOFF_SENT`. -/
structure CkptSt where
  tick : Nat := 0
  pauseEnd : SMap Nat := []
  pauseFrom : SMap Nat := []
  holdEnd : SMap Nat := []
  paused : Nat := 0
  holdoff : Nat := 0
  sent : Nat := 0
  deriving DecidableEq, Repr

/-- Service operations (R427 to R442) beside their registers. -/
structure SvSt where
  /-- The tick of the last receive switch's boundary (R432), and whether the slice under test has faulted (R437). -/
  rxAt : Nat := 0
  spoilt : Bool := false
  /-- The running operation other than `ROW_REPAIR` (0 none), its argument and form, and the step it has reached. -/
  op : Nat := 0
  arg : Nat := 0
  force : Bool := false
  step : Nat := 0
  /-- When its present wait began. -/
  since : Nat := 0
  /-- The row under repair and the copies still to make. -/
  row : Option Nat := none
  /-- Slices that have passed `SLICE_TEST` with no `SLICE_FAULT` since (R437). -/
  tested : BitVec 5 := 0
  /-- Ports whose dispatch is held (R431, step V6). -/
  held : BitVec 4 := 0
  /-- The mirror of the statistics as the last checkpoint took them, by field key, and of the timers by channel (R430). -/
  ckpt : SMap Nat := []
  timers : SMap CkptSt := []
  /-- The running table copy (R439): its number, which tells its answers from an earlier copy's, the next bucket to read, and whether a
  bucket was updated while its copy read was outstanding. -/
  run : Nat := 0
  /-- The working position whose buckets were lost to a forced spare and are not yet rebuilt (R440). -/
  rebuild : Option Nat := none
  copyNext : Nat := 0
  copyStale : Bool := false
  deriving DecidableEq, Repr

/-- The state of the block. -/
structure State where
  /-- Commands waiting, first in, first out (log entry 1). -/
  pending : List Instr := []
  /-- Register fields by key (offset × 32 + lowest bit); what is not listed holds its reset value (`fieldReset`). -/
  flds : SMap Nat := []
  /-- 64-bit latches by the offset of the pair's low word (R10). -/
  latch : SMap Nat := []
  transit : List Transit := []
  sp : SpAnswer := {}
  /-- How many free values have been drawn: the model's own field (log entry 5). -/
  free : Nat := 0
  sys : SysSt := {}
  tm : TmSt := {}
  ny : NySt := {}
  cc : CcSt := {}
  hub : HubSt := {}
  cu : SMap CuSt := []
  kw : KwSt := {}
  md : SMap MdCh := []
  fab : FabSt := {}
  lanes : SMap LaneSt := []
  spares : SMap SpareSt := []
  frs : SMap FrSt := []
  grps : SMap GrpSt := []
  gfps : SMap GfpSt := []
  pairs : SMap PairSt := []
  ohs : SMap OhSt := []
  chs : SMap ChSt := []
  /-- Received and transmit frames by number, and the next number. -/
  rxs : SMap RxFr := []
  txs : SMap TxFr := []
  nextFr : Nat := 0
  /-- Pool queues: transmit queue n is n, receive queue n is 32,768 + n. -/
  qs : SMap QSt := []
  /-- Shapers: queue n is n, context x is 32,768 + x. -/
  shaps : SMap ShapSt := []
  /-- L1 nodes by (channel × 8 + class) × 4,096 + context, and virtual times by channel × 8 + class. -/
  nodes : SMap NodeSt := []
  vtime : SMap Nat := []
  fb : FbSt := {}
  tbl : TblSt := {}
  meters : SMap MeterSt := []
  ctxs : SMap CtxSt := []
  ring : RingSt := {}
  led : LedSt := {}
  sv : SvSt := {}
  pw : PwSt := {}
  deriving DecidableEq, Repr

/-- The state after reset: every field at its default. -/
def State.reset : State := {}

end Sys2Proof.Machine
end

