-- ==== Sys2Proof/Machine/Ops.lean ====
section
/-! DEFINITION. The named operations over the state: reading and writing register fields, counters, event bits, free
values, the setup port's answer, and Alval requests with their credits and tags (R8 to R10, R50 to R59). -/

namespace Sys2Proof.Machine

/-! ## Register fields -/

/-- The value of a field. -/
def State.rd (s : State) (f : Fld) : Nat := mapGet fieldReset s.flds f.key

/-- Write a field, keeping its width. -/
def State.wr (s : State) (f : Fld) (v : Nat) : State :=
  { s with flds := mapSet fieldReset s.flds f.key (v % 2 ^ f.w) }

/-- Bit `i` of a field. -/
def State.bit (s : State) (f : Fld) (i : Nat) : Bool := (s.rd f).testBit i

/-- Is a one-bit field 1? -/
def State.is (s : State) (f : Fld) : Bool := s.rd f == 1

/-- Set bit `i` of a field. -/
def State.setBit (s : State) (f : Fld) (i : Nat) : State := s.wr f (s.rd f ||| 2 ^ i)

/-- Clear bit `i` of a field. -/
def State.clrBit (s : State) (f : Fld) (i : Nat) : State :=
  if s.bit f i then s.wr f (s.rd f - 2 ^ i) else s

/-- Set a one-bit field. -/
def State.raise (s : State) (f : Fld) : State := s.wr f 1

/-- Give bit `i` of a field a value. -/
def State.putBit (s : State) (f : Fld) (i : Nat) (b : Bool) : State :=
  if b then s.setBit f i else s.clrBit f i

/-- Write a one-bit field. -/
def State.put (s : State) (f : Fld) (b : Bool) : State := s.wr f (if b then 1 else 0)

/-- Add to a counter that saturates at all ones (R45, R58 and the other counters). -/
def State.bump (s : State) (f : Fld) (n : Nat := 1) : State := s.wr f (min (s.rd f + n) (2 ^ f.w - 1))

/-- A 64-bit value kept in two words (R10). -/
def State.rd64 (s : State) (lo hi : Fld) : Nat := s.rd lo + 2 ^ 32 * s.rd hi

/-- Write a 64-bit value kept in two words. -/
def State.wr64 (s : State) (lo hi : Fld) (v : Nat) : State := (s.wr lo v).wr hi (v / 2 ^ 32)

/-- Add to a saturating 64-bit counter (R159). -/
def State.bump64 (s : State) (lo hi : Fld) (n : Nat := 1) : State :=
  s.wr64 lo hi (min (s.rd64 lo hi + n) (2 ^ 64 - 1))

/-- Draw a free value: the opaque constant applied to the draw number, which then advances (log entry 5). -/
def State.draw (s : State) : BitVec 64 × State :=
  (Config.freeValue s.free, { s with free := s.free + 1 })

/-- Apply a change to each element of a list in turn. -/
def State.each {α : Type} (s : State) (l : List α) (f : State → α → State) : State := l.foldl f s

/-! ## The setup port's answer -/

/-- Answer an access `OKAY` with read data (R60). -/
def State.okay (s : State) (d : Nat) : State := { s with sp := ⟨true, d⟩ }

/-- Answer an access `DECLINED` with zero data: nothing changes (R60). -/
def State.declined (s : State) : State := { s with sp := ⟨false, 0⟩ }

/-! ## Byte lists -/

/-- Byte `i` of a list, zero beyond its end. -/
def byteAt (l : List Byte) (i : Nat) : Nat := (l.getD i 0).toNat

/-- `n` bytes from offset `i`, least significant first. -/
def leNat (l : List Byte) (i n : Nat) : Nat :=
  (List.range n).foldr (fun j acc => byteAt l (i + j) + 256 * acc) 0

/-- `n` bytes from offset `i`, most significant first. -/
def beNat (l : List Byte) (i n : Nat) : Nat :=
  (List.range n).foldl (fun acc j => acc * 256 + byteAt l (i + j)) 0

/-- A number as `n` bytes, least significant first. -/
def leBytes : Nat → Nat → List Byte
  | 0, _ => []
  | n + 1, v => BitVec.ofNat 8 v :: leBytes n (v / 256)

/-- A number as `n` bytes, most significant first. -/
def beBytes (n v : Nat) : List Byte := (leBytes n v).reverse

/-- `w` bits of a number from bit `lo`. -/
def bits (v lo w : Nat) : Nat := v / 2 ^ lo % 2 ^ w

/-- Bit `i` of a number as 0 or 1. -/
def bitN (v i : Nat) : Nat := v / 2 ^ i % 2

/-- A Bool as 0 or 1. -/
def b2n (b : Bool) : Nat := if b then 1 else 0

/-- The number of ones among the `w` low bits. -/
def popCount (v w : Nat) : Nat := (List.range w).foldl (fun n i => n + bitN v i) 0

/-! ## Islands -/

/-- Start-up states of R47. -/
def stRESET : Nat := 0
def stBOOT : Nat := 1
def stWAIT_SD : Nat := 2
def stLOAD_SD : Nat := 3
def stBRINGUP : Nat := 4
def stREADY : Nat := 5
def stFAILED : Nat := 7

/-- The start-up state in force. -/
def State.start (s : State) : Nat := s.rd SYS_STATE_STATE

/-- Is island `i` running under R21: started, clock present, neither flag of R371 (monitor numbers as island numbers)? -/
def State.islandRuns (s : State) (i : Nat) : Bool :=
  s.sys.started.getLsbD i && !s.sys.clkStopped.getLsbD i &&
  (i ≥ 8 || (!s.is (NY_CLK_STOPPED i) && !s.is (NY_CLK_OFF i)))

/-- Is island `i` clocked, whatever its monitor says of the clock's frequency (R15, R20)? -/
def State.clocked (s : State) (i : Nat) : Bool := s.sys.started.getLsbD i && !s.sys.clkStopped.getLsbD i

/-- `PW_ISO` is high outside the states and steps in which the sequencer itself isolates (R63, R411, R414). -/
def State.isolated (s : State) : Bool :=
  s.sys.pwIso && !(s.rd PW_STAT_STATE ≥ 2 || s.pw.step == 7 || s.pw.step == 12 || s.pw.step == 13)

/-- A timer counts, stands, what it has counted, and the time at which its count reaches a limit. -/
def Timer.run (m : Timer) (t : Nat) : Timer := if m.since.isSome then m else { m with since := some t }
def Timer.count (m : Timer) (t : Nat) : Nat :=
  match m.since with
  | some a => m.used + (t - a)
  | none => m.used
def Timer.pause (m : Timer) (t : Nat) : Timer := ⟨m.count t, none⟩
def Timer.ends (m : Timer) (limit : Nat) : Nat := m.since.getD 0 + (limit - m.used)

/-- Time of the management island, two ticks a cycle (R15): it stands while the island's clock stands. -/
def State.mgNow (s : State) : Nat := s.sys.mg.count s.tm.tick

/-- The slice that carries port `p` under `SYS_SLICE_MAP` (R21), none where no slice does. -/
def State.sliceOf (s : State) (p : Nat) : Option Nat :=
  (List.range 5).find? (fun i => bits (s.rd SYS_SLICE_MAP_MAP) (4 * i) 4 == 8 + p)

/-- An evacuation or a return of port `p` is in progress (R431, R437). -/
def State.evacOf (s : State) (p : Nat) : Bool := (s.sv.op == 1 || s.sv.op == 2) && s.sv.arg == p

/-- The slice that processes what port `p` receives: from the receive switch of V5 on the one that takes over (R431, R432). -/
def State.rxSlice (s : State) (p : Nat) : Option Nat :=
  if s.evacOf p && decide (6 ≤ s.sv.step) then some (if s.sv.op = 1 then 4 else p) else s.sliceOf p

/-- The slice that passes a frame of port `p` that started at a tick: one that started before the boundary of the receive switch stays with the
slice the port leaves (R432). -/
def State.rxVia (s : State) (p start : Nat) : Nat :=
  if s.evacOf p && decide (6 ≤ s.sv.step) && decide (start < s.sv.rxAt) then (if s.sv.op = 1 then p else 4) else (s.rxSlice p).getD p

/-! ## MAC channels and received frames -/

def State.ch (s : State) (c : Nat) : ChSt := mapGet (fun _ => {}) s.chs c
def State.setCh (s : State) (c : Nat) (x : ChSt) : State := { s with chs := mapSet (fun _ => {}) s.chs c x }
def State.rxf (s : State) (id : Nat) : Option RxFr := optGet s.rxs id

/-- Lookups of a slice's frames whose verdict has not returned (R163). -/
def State.lookupsOut (s : State) (p : Nat) : List Lookup :=
  (s.tbl.lookups.filter (fun e => match s.rxf e.1 with
    | some f => f.chan / 8 == p
    | none => false)).map (·.2)

/-- Verdicts that wait to return to the slice of port `p` (crossing 7). -/
def State.verdictsOut (s : State) (p : Nat) : Nat := ((s.lookupsOut p).filter (·.result.isSome)).length

/-! ## Islands stop and run -/

/-- Times as they run on `d` ticks later. -/
def laterBy (d : Nat) (m : SMap Nat) : SMap Nat := m.map (fun e => (e.1, e.2 + d))

/-- A channel's timers after its slice has stood for `d` ticks (R15). -/
def ChSt.later (x : ChSt) (d : Nat) : ChSt :=
  { x with
    pauseEnd := laterBy d x.pauseEnd
    pauseFrom := laterBy d x.pauseFrom
    holdEnd := laterBy d x.holdEnd
    unserved := laterBy d x.unserved
    guard := x.guard.map (fun g => { g with until_ := g.until_ + d })
    linkSince := x.linkSince + d
    ctlSent := x.ctlSent + d
    lastStart := x.lastStart + d }

/-- Released frames of slice `i` in their order, `n` bytes of datapath before them: what does not lie whole in the 32 words of the crossing to the
core stays in its slice (R17, R20). -/
def holdBack (i : Nat) : Nat → SMap RxFr → SMap RxFr
  | _, [] => []
  | n, e :: l =>
    if e.2.via = i ∧ e.2.stage = .released then
      (let m := (if n = 0 then e.2.dp else n) + e.2.stored
       (e.1, if 32 * 128 < m then { e.2 with stage := .slice } else e.2) :: holdBack i m l)
    else e :: holdBack i n l

/-- Slice `i` stops: its timers stand, and the core island sees no word written after the stop (R15, R20). -/
def State.sliceStands (s : State) (i : Nat) : State :=
  { s with
    sys := { s.sys with slStop := optSet s.sys.slStop i s.tm.tick }
    rxs := holdBack i 0 s.rxs }

/-- Slice `i` runs on: the timers of its channels go on from where they stood (R15). -/
def State.sliceGoesOn (s : State) (i : Nat) : State :=
  match optGet s.sys.slStop i with
  | none => s
  | some a =>
    { s with
      sys := { s.sys with slStop := mapErase i s.sys.slStop }
      chs := s.chs.map (fun e => if s.rxSlice (e.1 / 8) = some i then (e.1, e.2.later (s.tm.tick - a)) else e) }

/-- The table island stops: no more than the 64 verdicts of crossing 7 still reach a slice (R17, R20). -/
def State.tableStands (s : State) : State :=
  { s with sys := { s.sys with left7 := (List.range 4).foldl (fun m p => mapSet (fun _ => 0) m p (min 64 (s.verdictsOut p))) [] } }

/-- Write the run bits of `SYS_ISLAND_CLK` from what decides them (R21); management time and the slices' timers follow their islands' clocks. -/
def State.refreshRun (s : State) : State :=
  let was := s.rd SYS_ISLAND_CLK_SLICE_RUN
  let s := s.each (List.range 5) (fun s i =>
    if s.islandRuns i then s.sliceGoesOn i else if bitN was i = 1 then s.sliceStands i else s)
  let s := if s.is SYS_ISLAND_CLK_TABLE_RUN && !s.islandRuns 7 then s.tableStands else s
  let sl := (List.range 5).foldl (fun n i => n + (if s.islandRuns i then 2 ^ i else 0)) 0
  let mg := if s.islandRuns 8 then s.sys.mg.run s.tm.tick else s.sys.mg.pause s.tm.tick
  let s := { s with sys := { s.sys with mg := mg } }
  let s := { s with tm := { s.tm with follows := s.tm.follows &&& BitVec.ofNat 5 sl } }
  (((s.wr SYS_ISLAND_CLK_SLICE_RUN sl).put SYS_ISLAND_CLK_CORE_RUN (s.islandRuns 5)).put SYS_ISLAND_CLK_FABRIC_RUN (s.islandRuns 6)).put
    SYS_ISLAND_CLK_TABLE_RUN (s.islandRuns 7)

/-! ## Crossings -/

/-- Depth of a crossing in words and its worst-case latency in destination cycles, by the class of its number (R17). -/
def xingDepth (x : Nat) : Nat := [16, 16, 16, 16, 32, 32, 64, 64, 16, 16, 4, 4].getD (x / 64) 0
def xingWorst (x : Nat) : Nat := [6, 6, 5, 5, 6, 6, 7, 6, 5, 6, 5, 5].getD (x / 64) 0

/-- A word has entered crossing `x`, which then held `occ` words: the highest occupancy and latency seen follow (R17, R21). -/
def State.crossed (s : State) (x occ : Nat) : State :=
  let s := s.wr (SYS_XING_STAT_OCC_MAX x) (max (min occ (xingDepth x)) (s.rd (SYS_XING_STAT_OCC_MAX x)))
  s.wr (SYS_XING_STAT_LAT_MAX x) (max ((Config.crossLatency x s.tm.tick).toNat % (xingWorst x + 1)) (s.rd (SYS_XING_STAT_LAT_MAX x)))

/-! ## The surroundings descriptor -/

/-- A field of the SD in force: byte offset of its 32-bit word, lowest bit, width; zero before the first load. -/
def State.sdField (s : State) (off lo w : Nat) : Nat :=
  match s.sys.sd with
  | some b => bits (leNat b off 4) lo w
  | none => 0

/-- `FAB_PRESENT` of the SD in force (R41). -/
def State.fabPresent (s : State) (f : Nat) : Bool := s.sdField 0x018 (16 + f) 1 == 1

/-- `TBL_PRESENT` of the SD in force (R41). -/
def State.tblPresent (s : State) (c : Nat) : Bool := s.sdField 0x0B0 c 1 == 1

/-- Is lane index `i` wired (R41)? -/
def State.lanePresent (s : State) (i : Nat) : Bool := s.sdField (0x200 + 4 * i) 0 1 == 1

/-! ## Fabric ports and table channels -/

/-- Port and VC as one key. -/
def fkey (x vc : Nat) : Nat := x * 4 + vc

/-- Credits granted, available and outstanding (R37, R55). -/
def FabSt.grantOf (f : FabSt) (k : Nat) : Nat := mapGet bootGrant f.grant k
def FabSt.availOf (f : FabSt) (k : Nat) : Nat := mapGet bootGrant f.avail k
def FabSt.outstOf (f : FabSt) (k : Nat) : Nat := mapGet (fun _ => 0) f.outst k

/-- Does available + outstanding = grant hold for one port and VC (R55)? -/
def FabSt.audit (f : FabSt) (k : Nat) : Bool := f.availOf k + f.outstOf k == f.grantOf k

/-- May port `x` issue: up, and its audit has not failed (R55, R64)? -/
def FabSt.issues (f : FabSt) (x : Nat) : Bool := f.up.getLsbD x && !f.failed.contains x

/-- Send `n` beats: credits move from available to outstanding (R54). -/
def FabSt.take (f : FabSt) (k n : Nat) : FabSt :=
  { f with avail := mapSet bootGrant f.avail k (f.availOf k - n)
           outst := mapSet (fun _ => 0) f.outst k (f.outstOf k + n) }

/-- Return one credit (R54). -/
def FabSt.giveBack (f : FabSt) (k : Nat) : FabSt :=
  { f with avail := mapSet bootGrant f.avail k (f.availOf k + 1)
           outst := mapSet (fun _ => 0) f.outst k (f.outstOf k - 1) }

/-- Raise a grant: the difference is added to the credits available (R46). -/
def FabSt.raiseGrant (f : FabSt) (k g : Nat) : FabSt :=
  { f with grant := mapSet bootGrant f.grant k g
           avail := mapSet bootGrant f.avail k (f.availOf k + g - f.grantOf k) }

/-- The lowest tag of port `x` that is neither outstanding nor quarantined (R51, R57; which tag is open, log entry 6). -/
def freeTag (used : List Nat) : Option Nat :=
  (List.range (used.length + 1)).find? (fun t => !used.contains t && t < 4096)

/-- Tags of port `x` in use by these requests or in quarantine. -/
def usedTags (x : Nat) (quar : List (Nat × Nat)) (rs : List Req) : List Nat :=
  (rs.filter (·.x == x)).filterMap (·.tag) ++ (quar.filter (·.1 == x)).map (·.2)

/-- Granules an access of `n` bytes at `addr` touches (R51). -/
def granules (addr n : Nat) : Nat := (addr % 64 + n + 63) / 64

/-- The tick, which of the core, fabric and table islands run, and the background agents raised (R383), as issuing requests needs them. -/
structure Clocks where
  tick : Nat
  core : Bool
  fabric : Bool
  table : Bool
  raised : List Nat
  deriving DecidableEq, Repr

def State.clocks (s : State) : Clocks :=
  ⟨s.tm.tick, s.islandRuns 5, s.islandRuns 6, s.islandRuns 7, (List.range 8).filter (fun a => s.is (NY_BG_DL_RAISED a))⟩

/-- Beats that may go out on port `x` now: requests of a fabric port leave the core island, those of a table channel the table island
(R31), and while the fabric clock stands crossing 8 takes 16 beats (R17, R18). -/
def FabSt.room (f : FabSt) (c : Clocks) (x : Nat) : Nat :=
  if x < 9 then (if !c.core then 0 else if c.fabric then 64 else 16 - mapGet (fun _ => 0) f.out8 x)
  else if c.table then 64 else 0

/-- The header of a request's beats (R51); `last` marks the final one. `ADDR` has 51 bits. -/
def Req.header (r : Req) (tag : Nat) (last : Bool) : Hdr :=
  let n := if r.vc = 1 then r.rlen else r.data.length
  let h := Config.orderHints r.addr
  { vc := r.vc, last := last, tag := tag, len := granules r.addr n % 64, relaxed := h.getLsbD 0, noSnoop := h.getLsbD 1,
    addr := r.addr / 64 % 2 ^ 51, firstOff := r.addr % 64, lastEnd := (r.addr + n - 1) % 64 }

/-- What marks a lookup's read among the beats sent (R188). -/
def lookupMark : Nat := 1024

/-- `n` beats of a request with tag `t` go out: credits, crossing 8, the header on the port once the fabric clock is there, the beats counted
(R15, R51, R54, R378). -/
def FabSt.sendBeats (f : FabSt) (c : Clocks) (r : Req) (t n : Nat) : FabSt :=
  let f := f.take (fkey r.x r.vc) n
  let e := if r.x < 9 then 576 + 8 * r.x + min r.vc 2 else if r.vc = 1 then 704 + (r.x - 9) else 711 + (r.x - 9)
  let f := { f with sent := f.sent ++ (e, r.addr, n) :: (if r.kind == ReqKind.tblLookup then [(lookupMark, r.addr, 1)] else []) }
  let h := r.header t (r.left == n)
  if r.x < 9 && !c.fabric then { f with out8 := mapUpd (fun _ => 0) f.out8 r.x (· + n), hdr8 := optSet f.hdr8 r.x h }
  else { f with hdrs := optSet f.hdrs r.x h }

/-- The fabric island takes what stands in crossing 8 and drives it on its ports (R20). -/
def FabSt.cross8 (f : FabSt) : FabSt := { f with out8 := [], hdr8 := [], hdrs := f.hdr8.foldl (fun m e => optSet m e.1 e.2) f.hdrs }

/-- The background agent a request belongs to (R187, R308, R354, R380, R439), none for foreground. -/
def agentOf : ReqKind → Option Nat
  | .tblUpdRead | .tblCopyRead => some 0
  | .ledger => some 1
  | .mdDesc | .mdRead | .mdWrite | .mdWb => some 2
  | .pcExport => some 6
  | _ => none

/-- Can the next beat of a request go out now: its port issues and is not held, and credit, crossing and tag are there (R54, R64, R438)? -/
def FabSt.feasible (f : FabSt) (c : Clocks) (r : Req) : Bool :=
  f.issues r.x && !(f.held == some r.x && r.tag.isNone) && decide (0 < min (f.availOf (fkey r.x r.vc)) (f.room c r.x)) &&
  (r.tag.isSome || (freeTag (usedTags r.x f.quar f.reqs)).isSome)

/-- Among waiting background requests of a unit the first of a raised agent, or else of the agent next in turn (R382). -/
def FabSt.bgPick (f : FabSt) (c : Clocks) (x : Nat) (w : List (Req × Nat)) : Option (Req × Nat) :=
  let agents := w.filterMap (fun e => agentOf e.1.kind)
  let raised := agents.filter (fun a => c.raised.contains a)
  let turn (a : Nat) : Nat := (a + 7 - mapGet (fun _ => 7) f.bgLast x) % 8
  match if raised.isEmpty then agents else raised with
  | [] => none
  | a :: r => w.find? (fun e => agentOf e.1.kind == some (r.foldl (fun m b => if turn b < turn m then b else m) a))

/-- The request that takes the next slot of a unit (R382), an outbound beat of fabric port `x` on any VC, or `RQ` issue on a table channel: of
foreground the oldest of each VC that can go, unless background has had none of the previous G − 1 slots; a VC whose request has begun sends that
one. Its place among the requests. -/
def FabSt.pick (f : FabSt) (c : Clocks) (x vc : Nat) : Option Nat :=
  let all := f.reqs.zipIdx.filter (fun e => e.1.x == x && (decide (x < 9) || e.1.vc == vc) && e.1.left != 0)
  let w := all.filter (fun e => e.1.tag.isSome || !all.any (fun o => o.1.vc == e.1.vc && o.1.tag.isSome))
  let fgs := w.filter (fun e => (agentOf e.1.kind).isNone)
  let fg := (fgs.find? (fun e => (fgs.find? (fun o => o.1.vc == e.1.vc)).map (·.2) == some e.2 && f.feasible c e.1)).toList
  let bg := (f.bgPick c x (w.filter (fun e => f.feasible c e.1))).toList
  let g := if c.raised.any (fun a => if x < 9 then a == 1 || a == 2 || a == 6 else a == 0) then 16 else 64
  ((if g - 1 ≤ mapGet (fun _ => 0) f.fgRun x then bg ++ fg else fg ++ bg).head?).map (·.2)

/-- Does a background request wait for a slot of the unit that request `r` uses (R382)? -/
def FabSt.bgWaits (f : FabSt) (r : Req) : Bool :=
  f.reqs.any (fun q => q.x == r.x && (decide (r.x < 9) || q.vc == r.vc) && q.left != 0 && (agentOf q.kind).isSome)

/-- The request at place `i` sends what it can (R53, R54): a beat at a time where background takes part (R382). -/
def FabSt.issue (f : FabSt) (c : Clocks) (i : Nat) : FabSt :=
  match f.reqs[i]? with
  | none => f
  | some r =>
    let n := min (min r.left (f.availOf (fkey r.x r.vc))) (f.room c r.x)
    let n := if f.bgWaits r then min 1 n else n
    match r.tag.or (freeTag (usedTags r.x f.quar f.reqs)) with
    | none => f
    | some t =>
      let f := f.sendBeats c r t n
      let f := { f with reqs := f.reqs.set i { r with left := r.left - n, tag := some t, at_ := if r.tag.isSome then r.at_ else c.tick } }
      match agentOf r.kind with
      | some a => { f with fgRun := mapSet (fun _ => 0) f.fgRun r.x 0, bgLast := mapSet (fun _ => 7) f.bgLast r.x a }
      | none => if 9 ≤ r.x ∧ r.vc ≠ 1 then f else { f with fgRun := mapUpd (fun _ => 0) f.fgRun r.x (fun k => min 63 (k + n)) }

/-- Issue requests one after another as long as any can go. -/
def pumpGo (c : Clocks) : Nat → FabSt → FabSt
  | 0, f => f
  | n + 1, f =>
    match f.reqs.findSome? (fun r => if r.left = 0 then none else f.pick c r.x r.vc) with
    | some i => pumpGo c n (f.issue c i)
    | none => f

/-- A request that comes back unissued. -/
def Req.unissued (r : Req) : Deliv := ⟨r.kind, r.a, r.b, r.x, r.addr, .unissued, []⟩

/-- Table requests not begun on a channel that issues nothing end at once (R178). -/
def FabSt.withdraw (f : FabSt) : FabSt :=
  let out (r : Req) : Bool := decide (9 ≤ r.x) && r.tag.isNone && !f.issues r.x
  { f with reqs := f.reqs.filter (fun r => !out r)
           done := f.done ++ (f.reqs.filter out).map Req.unissued }

/-- Requests of a unit that no beat has begun are not issued any more. -/
def State.unqueue (s : State) (p : Req → Bool) : State :=
  { s with fab := { s.fab with reqs := s.fab.reqs.filter (fun r => !(p r && r.tag.isNone)) } }

/-- Issue every request that credits, tags and clocks allow. -/
def State.pump (s : State) : State := { s with fab := pumpGo s.clocks (s.fab.reqs.foldl (fun n r => n + r.left) 0) s.fab.withdraw }

/-- Beats a request occupies: two granules a beat on a fabric port, one on a table channel; one for a read (R52, R59). -/
def beatsOf (x vc addr n : Nat) : Nat :=
  if vc = 1 then 1 else if x < 9 then (granules addr n + 1) / 2 else granules addr n

/-- Queue a request and issue what can be issued. -/
def State.send (s : State) (kind : ReqKind) (a b x vc addr : Nat) (data : List Byte) (rlen : Nat) : State :=
  let n := if vc = 1 then rlen else data.length
  let r : Req :=
    { kind := kind, a := a, b := b, x := x, vc := vc, addr := addr, data := data, rlen := if vc = 1 then rlen else 0
      left := beatsOf x vc addr n, tag := none, got := [] }
  ({ s with fab := { s.fab with reqs := s.fab.reqs ++ [r] } } : State).pump

/-- Which physical port serves working position `f`: port 8 while it stands in (R438). -/
def State.fabPhys (s : State) (f : Nat) : Nat :=
  if s.is SV_INUSE_FAB && s.rd SV_INUSE_FAB_FOR = f then 8 else f

/-- The present working positions: present ports 0 to 7 (R232). -/
def State.fabWorking (s : State) : List Nat := (List.range 8).filter s.fabPresent

/-- The port a ring-engine request goes to: ⌊address ÷ 4,096⌋ mod n among the n present working ports (R232). -/
def State.fabPort (s : State) (addr : Nat) : Nat :=
  let w := s.fabWorking
  s.fabPhys (w.getD (addr / 4096 % w.length) 0)

/-- Ring-engine write on `PW` (R232). -/
def State.hostWrite (s : State) (kind : ReqKind) (a b addr : Nat) (data : List Byte) : State :=
  s.send kind a b (s.fabPort addr) 0 addr data 0

/-- Ring-engine read on `RQ` (R232). -/
def State.hostRead (s : State) (kind : ReqKind) (a b addr n : Nat) : State :=
  s.send kind a b (s.fabPort addr) 1 addr [] n

/-- Notification write on `NT` (R50, R232). -/
def State.hostNotify (s : State) (kind : ReqKind) (a b addr : Nat) (data : List Byte) : State :=
  s.send kind a b (s.fabPort addr) 3 addr data 0

/-- Take the first response that a test accepts out of a list. -/
def takeFirst {α : Type} (p : α → Bool) : List α → Option (α × List α)
  | [] => none
  | d :: ds => if p d then some (d, ds) else (takeFirst p ds).map (fun r => (r.1, d :: r.2))

/-- The island whose unit takes a response: core 5, table 7, management 8. -/
def ReqKind.island : ReqKind → Nat
  | .tblLookup | .tblUpdRead | .tblUpdWrite | .tblClear | .tblCopyRead | .tblCopyWrite => 7
  | .sdRead | .heartbeat | .mdDesc | .mdRead | .mdWrite | .mdWb | .pcExport => 8
  | _ => 5

/-- Take the oldest response that has arrived for a kind of request, once its unit's island runs (R20). -/
def State.response (s : State) (k : ReqKind) : Option (Deliv × State) :=
  if !s.islandRuns k.island then none
  else (takeFirst (fun d => d.kind == k) s.fab.done).map (fun r => (r.1, { s with fab := { s.fab with done := r.2 } }))

/-- Is a request of this kind waiting, outstanding or answered but not acted on? -/
def State.awaits (s : State) (k : ReqKind) : Bool :=
  s.fab.reqs.any (·.kind == k) || s.fab.done.any (·.kind == k)

/-- As `awaits`, for one unit's requests. -/
def State.awaitsFor (s : State) (k : ReqKind) (a : Nat) : Bool :=
  s.fab.reqs.any (fun r => r.kind == k && r.a == a) || s.fab.done.any (fun r => r.kind == k && r.a == a)

end Sys2Proof.Machine
end

