-- ==== Sys2Proof/Machine/Flags.lean ====
section
/-! DEFINITION. The check values the block computes: CRCs (R42, R88, R103, R137, R360), Toeplitz and other hashes live with
their units. A CRC is computed on natural numbers, a byte at a time. -/

namespace Sys2Proof.Machine

/-- One bit of a reflected CRC: shift right, and fold the polynomial in where a one falls out. -/
def crcBitR (poly c : Nat) : Nat := if c % 2 = 1 then (c / 2) ^^^ poly else c / 2

/-- One byte of a reflected CRC. -/
def crcByteR (poly c : Nat) (b : Byte) : Nat :=
  (List.range 8).foldl (fun x _ => crcBitR poly x) (c ^^^ b.toNat)

/-- A reflected CRC register run over bytes. -/
def crcRunR (poly c : Nat) (l : List Byte) : Nat := l.foldl (crcByteR poly) c

/-- One bit of a CRC of `w` bits that shifts left. -/
def crcBitM (w poly c : Nat) : Nat :=
  let d := c * 2
  if d / 2 ^ w % 2 = 1 then (d % 2 ^ w) ^^^ poly else d % 2 ^ w

/-- One byte, most significant bit first. -/
def crcByteM (w poly c : Nat) (b : Byte) : Nat :=
  (List.range 8).foldl (fun x _ => crcBitM w poly x) (c ^^^ (b.toNat * 2 ^ (w - 8)))

/-- A left-shifting CRC register run over bytes. -/
def crcRunM (w poly c : Nat) (l : List Byte) : Nat := l.foldl (crcByteM w poly) c

/-- CRC-32C (R42, R360). -/
def crc32c (l : List Byte) : Nat := crcRunR 0x82F63B78 0xFFFFFFFF l ^^^ 0xFFFFFFFF

/-- CRC-32 of IEEE 802.3 frame check sequences (R137, R360). -/
def crc32 (l : List Byte) : Nat := crcRunR 0xEDB88320 0xFFFFFFFF l ^^^ 0xFFFFFFFF

/-- CRC-16 with polynomial 0x1021 and initial value 0 (R103). -/
def crc16 (l : List Byte) : Nat := crcRunM 16 0x1021 0 l

/-- CRC-16 of ITU-T X.25 (R322). -/
def crcX25 (l : List Byte) : Nat := crcRunR 0x8408 0xFFFF l ^^^ 0xFFFF

end Sys2Proof.Machine
end

