-- ==== Sys2Proof/Machine/Images.lean ====
section
/-! DEFINITION. What the flash holds (R388 to R392): the store directory, ring sectors, image headers with their tests, and which of several
images is the newest. -/

namespace Sys2Proof.Machine

/-- The first `n` bytes of a list, zero past its end. -/
def firstBytes (l : List Byte) (n : Nat) : List Byte := (List.range n).map (fun i => l.getD i 0)

/-! ## The store directory (R388) -/

/-- The regions of the directory, each as its first sector and its sectors: the firmware banks, the configuration ring, the log ring. -/
def dirRegions (d : List Byte) : List (Nat × Nat) :=
  [(leNat d 0x10 4, leNat d 0x18 4), (leNat d 0x14 4, leNat d 0x18 4), (leNat d 0x1C 4, leNat d 0x20 2), (leNat d 0x24 4, leNat d 0x28 2)]

/-- Do no two regions share a sector? -/
def regionsApart : List (Nat × Nat) → Bool
  | [] => true
  | a :: l => l.all (fun b => a.1 + a.2 ≤ b.1 || b.1 + b.2 ≤ a.1) && regionsApart l

/-- Does a copy of the directory pass every check? -/
def dirOk (d : List Byte) : Bool :=
  let ends (r : Nat × Nat) : Nat := (r.1 + r.2) * 2 ^ byteAt d 7
  leNat d 0 4 == 0x54534656 && leNat d 4 2 == 1 && leNat d 0xFC 4 == crc32c (firstBytes d 0xFC) &&
  (dirRegions d).all (fun r => r.1 != 0 || r.2 == 0) && regionsApart (dirRegions d) &&
  (dirRegions d).all (fun r => ends r ≤ 2 ^ byteAt d 6) && ((dirRegions d).take 2).all (fun r => ends r ≤ 2 ^ 24) &&
  decide (leNat d 0x22 2 < leNat d 0x20 2) && decide (leNat d 0x2A 2 < leNat d 0x28 2)

/-- The directory the boot ROM uses: the first copy that passes. -/
def bootDir (b : Boot) : Option (List Byte) := [b.dir, b.copy].find? dirOk

/-! ## Ring sectors (R389) -/

/-- Is a sector of ring `k` (1 configuration, 2 log) live: its header is valid and does not say retired? -/
def sectorLive (k : Nat) (x : List Byte) : Bool :=
  leNat x 0 4 == 0x52534656 && byteAt x 4 == k && byteAt x 5 == 0xFF && leNat x 0xC 4 == crc32c (firstBytes x 0xC)

/-- The live sectors of a ring. -/
def liveSectors (k : Nat) (l : List (List Byte)) : List (List Byte) := l.filter (sectorLive k)

/-- Where the images of the configuration ring may lie (R391): from behind the header page of a live sector through the live sectors that
follow, around the ring, without their header pages. -/
def ringRuns (l : List (List Byte)) : List (List Byte) :=
  (List.range l.length).map (fun i => ((l.drop i ++ l.take i).map (·.drop 256)).flatten)

/-- Is the header of a sector of ring `k` readable, retired or not? -/
def sectorKnown (k : Nat) (x : List Byte) : Bool := sectorLive k (x.set 5 0xFF)

/-- `ERASES` of sector `i` after its next erase: one above its own, or above the highest of the ring where its own cannot be read. -/
def nextErases (k : Nat) (l : List (List Byte)) (i : Nat) : Nat :=
  if sectorKnown k (l.getD i []) then leNat (l.getD i []) 8 4 + 1
  else (l.filter (sectorKnown k)).foldl (fun m x => max m (leNat x 8 4)) 0 + 1

/-- The header page of a sector of ring `k` (bytes 6 and 7 stay erased). -/
def ringHeader (k erases : Nat) : List Byte :=
  let h := leBytes 4 0x52534656 ++ [BitVec.ofNat 8 k, 0xFF, 0xFF, 0xFF] ++ leBytes 4 erases
  h ++ leBytes 4 (crc32c h)

/-! ## What transfers leave in the flash -/

/-- Bytes laid over a region from an offset on; what lies before them and was not known reads as erased. -/
def overBytes (l : List Byte) (i : Nat) (d : List Byte) : List Byte :=
  (l ++ List.replicate (i - l.length) 0xFF).take i ++ d ++ l.drop (i + d.length)

/-- The same in a sector of a ring. -/
def overSector (l : List (List Byte)) (k i : Nat) (d : List Byte) : List (List Byte) :=
  let l := l ++ List.replicate (k + 1 - l.length) []
  l.set k (overBytes (l.getD k []) i d)

/-- log₂ of the sector size: the directory's. -/
def sectorLog2 (b : Boot) : Nat := match bootDir b with
  | some d => byteAt d 7
  | none => 0

/-- The ring (1 configuration, 2 log) and its sector in which an address lies. -/
def ringOf (b : Boot) (addr : Nat) : Option (Nat × Nat) :=
  match bootDir b with
  | none => none
  | some d =>
    let k := addr / 2 ^ byteAt d 7
    if leNat d 0x1C 4 ≤ k ∧ k < leNat d 0x1C 4 + leNat d 0x20 2 then some (1, k - leNat d 0x1C 4)
    else if leNat d 0x24 4 ≤ k ∧ k < leNat d 0x24 4 + leNat d 0x28 2 then some (2, k - leNat d 0x24 4)
    else none

/-- The sectors of a ring, and the flash with others. -/
def ringSectors (b : Boot) (k : Nat) : List (List Byte) := if k = 1 then b.cfg else b.log
def withRing (b : Boot) (k : Nat) (l : List (List Byte)) : Boot := if k = 1 then { b with cfg := l } else { b with log := l }

/-- The flash holds these bytes at an address: the directory and its copy, a firmware bank or a ring. -/
def flashTake (b : Boot) (addr : Nat) (d : List Byte) : Boot :=
  if addr < 256 then { b with dir := overBytes b.dir addr d }
  else if addr < 512 then { b with copy := overBytes b.copy (addr - 256) d }
  else match bootDir b with
    | none => b
    | some r =>
      let size := 2 ^ byteAt r 7
      let bank (o : Nat) : Bool := leNat r o 4 ≤ addr / size && addr / size < leNat r o 4 + leNat r 0x18 4
      if bank 0x10 then { b with umber := overBytes b.umber (addr - leNat r 0x10 4 * size) d }
      else if bank 0x14 then { b with ochre := overBytes b.ochre (addr - leNat r 0x14 4 * size) d }
      else match ringOf b addr with
        | some (k, i) => withRing b k (overSector (ringSectors b k) i (addr % size) d)
        | none => b

/-- A ring sector is retired: `RETIRED` is programmed to 0x00. -/
def flashRetire (b : Boot) (k i : Nat) : Boot := withRing b k (overSector (ringSectors b k) i 5 [0])

/-- A ring sector that has been erased has its header programmed, with `ERASES` from what it held before. -/
def flashHeader (before b : Boot) (k i : Nat) : Boot :=
  withRing b k (overSector (ringSectors b k) i 0 (ringHeader k (nextErases k (ringSectors before k) i)))

/-- The live sectors a ring needs. -/
def ringMin (b : Boot) (k : Nat) : Nat := match bootDir b with
  | some d => leNat d (if k = 1 then 0x22 else 0x2A) 2
  | none => 0

/-! ## Images (R390, R391) -/

/-- `LEN`, the body, `BANK` and `SEQ` of an image. -/
def imgLen (x : List Byte) : Nat := leNat x 8 4
def imgBody (x : List Byte) : List Byte := (x.drop 64).take (imgLen x)
def imgBank (x : List Byte) : Nat := byteAt x 0x30
def imgSeq (x : List Byte) : Nat := leNat x 0x34 4

/-- The instruction image of a firmware image (R390). -/
def imgCode (x : List Byte) : List Byte := (x.drop 64).take (leNat x 0xC 4)

/-- The data image of a firmware image: its body from behind the instruction image on. -/
def imgData (x : List Byte) : List Byte := ((x.drop (64 + leNat x 0xC 4)).take (leNat x 0x10 4))

/-- Are `SIGNATURE`, `KIND`, `VERSION` and the length fields of an image of this kind (1 firmware, 2 configuration) in range, its body within
its region? -/
def imgFieldsOk (kind : Nat) (x : List Byte) : Bool :=
  let il := leNat x 0xC 4
  let dl := leNat x 0x10 4
  leNat x 0 4 == 0x4B4E4256 && byteAt x 4 == kind && byteAt x 5 == 1 && decide (64 + imgLen x ≤ x.length) &&
  (if kind = 1 then decide (4 ≤ il) && decide (il ≤ 262144) && il % 4 == 0 && decide (dl ≤ 196608) && imgLen x == il + dl
   else decide (imgLen x ≤ 65472) && il == 0 && dl == 0)

/-- Does `CHECK` match? -/
def imgCheckOk (x : List Byte) : Bool := leNat x 0x38 4 == crc32c (firstBytes x 0x38 ++ imgBody x)

/-- One block through AES, and the exclusive-OR of two blocks. -/
def aesBlock (key x : List Byte) : List Byte := (aesEncrypt (key.map (·.toNat)) (x.map (·.toNat))).map (BitVec.ofNat 8)
def xorBytes (a b : List Byte) : List Byte := a.zipWith (· ^^^ ·) b

/-- A block doubled in the field of NIST SP 800-38B: its subkeys (R390). -/
def cmacDouble (x : List Byte) : List Byte :=
  let v := beNat x 0 16
  beBytes 16 (if v < 2 ^ 127 then 2 * v else (2 * v - 2 ^ 128) ^^^ 0x87)

/-- The chaining of CMAC from a chaining value, a block of 16 bytes at a time; the last one, padded where it is short, takes a subkey. -/
def cmacRun (key k1 k2 : List Byte) : Nat → List Byte → List Byte → List Byte
  | 0, c, _ => c
  | n + 1, c, m =>
    if m.length ≤ 16 then
      aesBlock key (xorBytes c (if m.length = 16 then xorBytes m k1 else xorBytes (m ++ 0x80 :: List.replicate (15 - m.length) 0) k2))
    else cmacRun key k1 k2 n (aesBlock key (xorBytes c (m.take 16))) (m.drop 16)

/-- AES-CMAC of NIST SP 800-38B over a message (R390; log entry 8). -/
def cmac (key m : List Byte) : List Byte :=
  let k1 := cmacDouble (aesBlock key (List.replicate 16 0))
  cmacRun key k1 (cmacDouble k1) (m.length + 1) (List.replicate 16 0) m

/-- Does `MAC` verify under a key? -/
def imgMacOk (key x : List Byte) : Bool := cmac key (firstBytes x 0x20 ++ imgBody x) == (x.drop 0x20).take 16

/-- Is an image unconfirmed, and exhausted? -/
def imgUnconfirmed (x : List Byte) : Bool := byteAt x 0x3F == 0xFF
def imgExhausted (x : List Byte) : Bool := imgUnconfirmed x && (List.range 3).all (fun i => byteAt x (0x3C + i) == 0)

/-- Is the image of a firmware bank whole: every test of R391 but its authentication and its exhaustion? -/
def fwWhole (bank : Nat) (x : List Byte) : Bool := imgFieldsOk 1 x && imgBank x == bank && imgCheckOk x

/-- Is it valid, with the key slot 0 authenticates under, if it can? -/
def fwValid (key : Option (List Byte)) (bank : Nat) (x : List Byte) : Bool :=
  fwWhole bank x && (match key with
    | some k => imgMacOk k x
    | none => false) && !imgExhausted x

/-- Is a configuration image valid? -/
def cfgValid (x : List Byte) : Bool := imgFieldsOk 2 x && imgCheckOk x

/-- The first unused `ATTEMPT` byte of an image is programmed (R392). -/
def attemptUsed (x : List Byte) : List Byte :=
  match (List.range 3).find? (fun i => byteAt x (0x3C + i) == 0xFF) with
  | some i => x.set (0x3C + i) 0
  | none => x

/-! ## Selection (R392) -/

/-- Is image `a` newer than `b`? -/
def imgNewer (a b : List Byte) : Bool :=
  let d := (imgSeq a + 2 ^ 32 - imgSeq b) % 2 ^ 32
  1 ≤ d && d < 2 ^ 31

/-- Of two valid images the newer one; umber where neither is. -/
def imgPick (a b : List Byte) : List Byte :=
  if imgNewer b a then b else if imgNewer a b then a else if imgBank a = 0 then a else b

/-- The newest of valid images. -/
def imgNewest : List (List Byte) → Option (List Byte)
  | [] => none
  | a :: l => some (l.foldl imgPick a)

/-- The firmware image the boot ROM selects, none where its own firmware runs. -/
def bootFw (key : Option (List Byte)) (b : Boot) : Option (List Byte) :=
  if (bootDir b).isNone then none
  else imgNewest ((if fwValid key 0 b.umber then [b.umber] else []) ++ (if fwValid key 1 b.ochre then [b.ochre] else []))

/-- Was a whole firmware image passed over that is newer than the one selected (log entry 115)? -/
def bootPassed (key : Option (List Byte)) (b : Boot) : Bool :=
  let beaten (bank : Nat) (x : List Byte) : Bool := fwWhole bank x && !fwValid key bank x && (match bootFw key b with
    | some f => imgNewer x f
    | none => true)
  (bootDir b).isSome && (beaten 0 b.umber || beaten 1 b.ochre)

/-- The configuration image the firmware selects, none where the factory defaults serve. -/
def bootCfg (b : Boot) : Option (List Byte) :=
  if (bootDir b).isNone then none else imgNewest ((ringRuns (liveSectors 1 b.cfg)).filter cfgValid)

/-- The flash after an unconfirmed image has been started: one attempt of it is used. -/
def bootUsed (b : Boot) (f : List Byte) : Boot :=
  if !imgUnconfirmed f then b
  else if imgBank f = 0 then { b with umber := attemptUsed b.umber } else { b with ochre := attemptUsed b.ochre }

end Sys2Proof.Machine
end

