-- ==== Sys2Proof/Machine/Access.lean ====
section
/-! DEFINITION. Setup-port and doorbell accesses: when an access is answered `DECLINED` (R7, R48, R60, R447, R450), which
instance a select register shows, what plain fields read and what a write does to them (R8), and the read-clear transfer of
R9 and R160. -/

namespace Sys2Proof.Machine

/-- The slice that carries port `p` has been left out of service (R47); a port that no slice carries has none. -/
def State.leftOut (s : State) (p : Nat) : Bool :=
  match s.sliceOf p with
  | some i => s.sys.sliceOut.getLsbD i
  | none => true

/-- The slice that carries port `p` runs (R21) and is in service (R47). -/
def State.portRuns (s : State) (p : Nat) : Bool :=
  match s.sliceOf p with
  | some i => s.islandRuns i && !s.sys.sliceOut.getLsbD i
  | none => false

/-- Does the island run whose number R450 gives: slices 0 to 4, core 5, fabric 6, table 7, management 8, always-on 9? -/
def State.islandUp (s : State) (i : Nat) : Bool := if i ≥ 9 then true else s.islandRuns i

/-- The island of performance event `e` (R378). -/
def eventIsland (e : Nat) : Nat :=
  if e < 320 then e / 64 else if e < 576 then 5 else if e < 704 then 6 else if e < 832 then 7 else 8

/-- Which island holds a setup-window register (R450): the port whose slice it is, or an island number. -/
inductive Home where
  | port (p : Nat)
  | island (i : Nat)
  deriving DecidableEq, Repr

/-- R450: the home of the register at a setup-window offset. A counter shown by a select register belongs to the island of
the instance selected. -/
def State.homeOf (s : State) (off : Nat) : Home :=
  let chan (c : Nat) : Home := .port (c / 8)
  if off < 0x20000 then (if 0x30 ≤ off ∧ off < 0x48 then .island 5 else .island 8)
  else if off < 0x40000 then
    if off < 0x20100 then .port ((off - 0x20000) / 4)
    else if off < 0x20300 then chan ((off - 0x20100) / 4 % 32)
    else if off < 0x20400 then .port ((off - 0x20300) / 36)
    else if off < 0x20500 then .port ((off - 0x20400) / 8)
    else if 0x20510 ≤ off ∧ off < 0x20520 then chan (s.rd LN_CNT_SEL_CHAN)
    else if off = 0x20520 then .port (s.rd LN_CNT_SEL_LANE / 9)
    else .island 8
  else if off < 0x41000 then
    if off < 0x40300 then chan ((off - 0x40000) / 4 % 32)
    else if 0x40310 ≤ off ∧ off < 0x4032C then chan (s.rd TF_CNT_SEL_FR)
    else if 0x40330 ≤ off ∧ off < 0x4033C then chan (s.rd TF_CNT_SEL_CHAN)
    else .island 8
  else if off < 0x60000 then
    if off < 0x41100 then chan ((off - 0x41000) / 4)
    else if off < 0x41500 then .island 5
    else if 0x41504 ≤ off ∧ off < 0x41510 then chan (s.rd GP_SEC_SEL_POS)
    else if off = 0x41510 then .island 5
    else .island 8
  else if off < 0x80000 then
    if off < 0x60400 then chan ((off - 0x60000) / 4 % 32)
    else if 0x60500 ≤ off ∧ off < 0x60600 then chan ((off - 0x60500) / 8)
    else if 0x61000 ≤ off ∧ off < 0x62000 then chan (s.rd (MC_WAKE_CTRL_CHAN ((off - 0x61000) / 256)))
    else if 0x64000 ≤ off ∧ off < 0x68000 then chan ((off - 0x64000) / 512)
    else .island 8
  else if off < 0x81000 then .island 7
  else if off < 0xC0000 then .island 5
  else if off < 0x100000 then
    if off < 0xC002C then .island 5
    else if off < 0xC0100 then .island 8
    else if off < 0xC0400 then chan ((off - 0xC0100) / 4 % 32)
    else if off < 0xC0600 then chan ((off - 0xC0400) / 16)
    else if off < 0xC0700 then chan ((off - 0xC0600) / 4)
    else if off < 0xC1000 then .island 5
    else if off < 0xC1100 then chan ((off - 0xC1000) / 4)
    else if off < 0xC1500 then chan ((off - 0xC1100) / 32)
    else if 0xC1508 ≤ off ∧ off < 0xC1510 then chan (s.rd TG_CNT_SEL_CHAN)
    else if 0xD0000 ≤ off ∧ off < 0xE0000 then chan ((off - 0xD0000) / 2048)
    else .island 8
  else if off < 0x140000 then .island 5
  else if off < 0x160000 then .island 8
  else if off < 0x180000 then .island 5
  else if off < 0x1D4000 then .island 8
  else if off < 0x1D6000 then .island (eventIsland ((off - 0x1D4000) / 8))
  else if off < 0x1F0000 then .island 8
  else if off < 0x1F1000 then .island 9
  else if 0x3F0000 ≤ off then .island 9
  else .island 8

/-- Does the register's island run (R450)? -/
def State.homeRuns (s : State) (off : Nat) : Bool :=
  match s.homeOf off with
  | .port p => if p < 4 then (match s.sliceOf p with
      | some i => s.islandRuns i
      | none => false) else true
  | .island i => s.islandUp i

/-- The access sizes and alignments of R7. -/
def alignedSize (off size : Nat) : Bool := (size == 4 || size == 8) && off % size == 0

/-- May the setup port serve this offset in the present start-up state (R48, R447)? Master 256 is not bound by it. -/
def State.stateServes (s : State) (w : Who) (off : Nat) : Bool :=
  w.master == 256 || s.start == stREADY ||
  ((s.start == stBOOT || s.start == stWAIT_SD || s.start == stLOAD_SD || s.start == stBRINGUP || s.start == stFAILED) &&
    off < 0x20000)

/-- Is the way of an access clocked (R15, R17): for the setup port the fabric and the management island, for the Nyelle core its island, with the
core not stopped by the power sequencer (R414)? Where it is not, the access is answered `DECLINED` (log entry 119). -/
def State.pathRuns (s : State) (w : Who) : Bool := s.clocked 8 && (if w.master = 256 then !s.pw.coreStopped else s.clocked 6)

/-- Is a setup-window access served (R7, R48, R60, R447, R450)? Every test that fails has the one answer `DECLINED`, so
their order leaves no trace. Unpowered, nothing is served (R63). -/
def State.serves (s : State) (w : Who) (off size : Nat) : Bool :=
  s.stateServes w off && (w.master == 256 || w.priv) && alignedSize off size && off < 0x400000 &&
  s.homeRuns off && (size != 8 || s.homeRuns (off + 4)) && !(s.sys.pwIso && w.master != 256) && s.pathRuns w

/-- Is a doorbell-window access served (R7, R48, R449)? It needs no privilege; its registers lie in the core island. The Nyelle core's map
has no doorbell window (R364). -/
def State.servesDoorbell (s : State) (w : Who) (off size : Nat) : Bool :=
  s.start == stREADY && alignedSize off size && off < 0x1000000 && s.islandUp 5 && !s.sys.pwIso && w.master != 256 && s.pathRuns w

/-! ## Plain fields -/

/-- The instance number the select fields give. -/
def State.selected (s : State) (d : SelDesc) : Nat := d.sel.foldl (fun n e => n + s.rd e.1 * e.2) 0

/-- The number of a crossing by class and instance, none where the code names no crossing (R17, R21). -/
def xingExists (x : Nat) : Bool :=
  let i := x % 64
  match x / 64 with
  | 0 | 1 | 2 | 3 => i < 36
  | 4 | 5 | 6 | 7 => i < 5
  | 8 | 9 | 10 | 11 => i < 9
  | _ => false

/-- The backing offset of a register: itself, or the selected instance; none where a select code selects nothing. -/
def State.resolve (s : State) (off : Nat) : Option Nat :=
  match selTable.find? (fun d => d.lo ≤ off && off < d.lo + d.span) with
  | none => some off
  | some d =>
    let n := s.selected d
    if n < d.n && (d.base != 0x1000000 || xingExists n) then some (d.base + d.stride * n + (off - d.lo)) else none

/-- A register read from its plain fields; write-only fields read zero (R8), unassigned offsets too (R11). -/
def State.readPlain (s : State) (off : Nat) : Nat :=
  match s.resolve off with
  | none => 0
  | some o =>
    (fieldsAt o).foldl (fun n f => if f.acc = .wo then n else n + s.rd ⟨o, f.lo, f.w⟩ * 2 ^ f.lo) 0

/-- Write the plain fields of a register by their access types (R8). A shade field is written; the lock of R262 is its
family's check. -/
def State.writePlain (s : State) (off v : Nat) : State :=
  match s.resolve off with
  | none => s
  | some o =>
    (fieldsAt o).foldl
      (fun s f =>
        let g : Fld := ⟨o, f.lo, f.w⟩
        let x := bits v f.lo f.w
        match f.acc with
        | .rw | .rwl => s.wr g x
        | .w1c => s.wr g (s.rd g - (s.rd g &&& x))
        | .w1s => s.wr g (s.rd g ||| x)
        | _ => s) s

/-! ## What a frame's start finds -/

/-- Ticks for which a change is remembered: 10 ms, and no frame takes as long (log entry 131). -/
def pastTicks : Nat := 2 ^ 24

/-- A register that a frame samples at its start changes: it is remembered as it was until now. -/
def State.keep (s : State) (off : Nat) : State :=
  { s with tm := { s.tm with past := s.tm.past.filter (fun e => s.tm.tick < e.tick + pastTicks) ++ [⟨s.tm.tick, off, s.readPlain off⟩] } }

/-- What a register was at a tick: a change in that tick's cycle came after it. -/
def State.wasAt (s : State) (off t : Nat) : Nat := match s.tm.past.find? (fun e => e.off == off && decide (t ≤ e.tick)) with
  | some e => e.val
  | none => s.readPlain off

/-- Write a register that a frame samples at its start. -/
def State.writeKept (s : State) (off v : Nat) : State := (s.keep off).writePlain off v

/-! ## 64-bit registers and read-clear transfers -/

/-- The `RC` fields of the register at a backing offset. -/
def rcFields (o : Nat) : List FieldDesc := (fieldsAt o).filter (fun f => f.acc == .rc)

/-- The value of a transfer that failed goes back to its field, saturating, and the latch empties (R9, R160); a statistic that saturates so
raises its event (R159, R312). -/
def State.addBack (s : State) (t : Transit) : State :=
  let lo : Fld := ⟨t.off, t.lo, t.w⟩
  let full := t.hi && decide (2 ^ 64 ≤ s.rd64 lo ⟨t.off + 4, 0, 32⟩ + t.value)
  let s := if t.hi then s.bump64 lo ⟨t.off + 4, 0, 32⟩ t.value else s.bump lo t.value
  let s := if full && decide (0x064000 ≤ t.off) && decide (t.off < 0x068000) then s.setBit MC_EVT_STAT_SAT ((t.off - 0x064000) / 4096) else s
  { s with latch := s.latch.filter (fun e => e.1 != t.latch) }

/-- Take one `RC` field's value into transit: the field clears, its mirror copy too (R430, log entry 40); an accepted value is gone, a failed one comes back, one not
yet taken stays in transit (R9, R160). -/
def State.rcTake (s : State) (reader o : Nat) (pair : Bool) (k : Taken) (f : FieldDesc) (pos : Nat := 0) : State :=
  let g : Fld := ⟨o, f.lo, f.w⟩
  let h : Fld := ⟨o + 4, 0, 32⟩
  let t : Transit := ⟨reader, o, f.lo, f.w, pair, if pair then s.rd64 g h else s.rd g, o, pos⟩
  let s := if pair then s.wr64 g h 0 else s.wr g 0
  let s := { s with sv := { s.sv with ckpt := mapErase g.key (mapErase h.key s.sv.ckpt) } }
  match k with
  | .accepted | .spoilt => s
  | .failed => s.addBack t
  | .held => { s with transit := s.transit ++ [t] }

/-- The `RC` fields of a register go into transit. -/
def State.rcTakeAll (s : State) (reader off : Nat) (pair : Bool) (k : Taken) (pos : Nat := 0) : State :=
  match s.resolve off with
  | none => s
  | some o => s.each (rcFields o) (fun s f => s.rcTake reader o pair k f pos)

/-- What becomes of an answer to `w`: one that the Nyelle core has not taken fails by a reset of its island alone (R160, R338, R366). -/
def takenBy (k : Taken) (w : Who) : Taken := if w.master = 256 ∧ k = .failed then .held else k

/-- Transfers to these readers fail (R160). -/
def State.failTransit (s : State) (p : Nat → Bool) : State :=
  ({ s with transit := s.transit.filter (fun t => !p t.reader) } : State).each
    (s.transit.filter (fun t => p t.reader)) (fun s t => s.addBack t)

/-- Earlier reads of the same port have been answered, since answers come in order (R60): their values are accepted. -/
def State.settle (s : State) (reader : Nat) : State :=
  { s with transit := s.transit.filter (fun t => (t.reader == 256) != (reader == 256) || t.reader > 256) }

end Sys2Proof.Machine
end

