-- ==== Sys2Proof/Machine/Events.lean ====
section
/-! DEFINITION. What every unit uses to report: the clocks as they advance, performance events with their filters (R377 to
R379), and posts to the event log (R373). -/

namespace Sys2Proof.Machine

/-! ## Clocks -/

/-- Nanoseconds in a second as counter units of 2⁻³² ns. -/
def secUnits : Nat := 1000000000 * 2 ^ 32

/-- The counter wraps after 2⁴⁸ seconds (R315). -/
def timeMod : Nat := 2 ^ 48 * secUnits

/-- Seconds, nanoseconds and 16-bit fraction of a counter value (R315). -/
def secOf (t : Nat) : Nat := t / secUnits
def nsOf (t : Nat) : Nat := t % secUnits / 2 ^ 32
def fracOf (t : Nat) : Nat := t / 2 ^ 16 % 2 ^ 16

/-- The always-on count (R330). -/
def State.aon (s : State) : Nat := s.rd64 TM_AON_CNT_LO_COUNT TM_AON_CNT_HI_COUNT

/-- Is the core island running, so that the time counter and the cycle counter advance (R315, R317)? -/
def State.coreUp (s : State) : Bool := s.islandRuns 5

/-- Does the 25 MHz part of the always-on island run: not in D (R409), and there again 256 of its cycles after the exit has begun (R416)? -/
def State.ahRuns (s : State) : Bool :=
  s.rd PW_STAT_STATE != 4 || (12 ≤ s.pw.step && s.pw.step ≤ 14 && s.pw.since + 16384 ≤ s.tm.tick)

/-- `k` core-island cycles pass. The counter adds its increment in each while the core island runs; the 25 MHz and
32.768 kHz clocks of the always-on island pass in their nominal ratio while it is out of reset (log entry 2). -/
def State.advance (s : State) (k : Nat) : State :=
  let a25 := s.tm.sub25 + k
  let a32 := s.tm.sub32 + 32768 * k
  let tm := { s.tm with tick := s.tm.tick + k, sub25 := a25 % 64, sub32 := a32 % 1600000000 }
  let tm := if s.coreUp then { tm with now := (tm.now + k * tm.incr) % timeMod, cyc := tm.cyc + k } else tm
  let s := { s with tm := tm }
  let s := if s.sys.aonRstN && s.ahRuns then
      s.wr64 NY_MTIME_LO_MTIME NY_MTIME_HI_MTIME ((s.rd64 NY_MTIME_LO_MTIME NY_MTIME_HI_MTIME + a25 / 64) % 2 ^ 64)
    else s
  if s.sys.aonRstN then
    s.wr64 TM_AON_CNT_LO_COUNT TM_AON_CNT_HI_COUNT ((s.aon + a32 / 1600000000) % 2 ^ 48)
  else s

/-- Time passes up to a tick, if it has not come yet: the step that a timer's end brings about falls at that instant
(log entry 2). -/
def State.advanceTo (s : State) (t : Nat) : State := if s.tm.tick < t then s.advance (t - s.tm.tick) else s

/-- Ticks of a time in microseconds, with 0 acting as 1. -/
def usTicks (us : Nat) : Nat := 1600 * max 1 us

/-- Time passes up to a management time, if it has not come yet (R15). -/
def State.advanceMg (s : State) (t : Nat) : State := s.advanceTo (s.tm.tick + (t - s.mgNow))

/-- Core cycles until the counter reaches a value at or above it: zero where it already has. -/
def State.cyclesTo (s : State) (t : Nat) : Nat :=
  if t ≤ s.tm.now ∨ s.tm.incr = 0 then 0 else (t - s.tm.now + s.tm.incr - 1) / s.tm.incr

/-- Core cycles until the cycle counter is next a multiple of `m` (R317), at least one. -/
def State.cyclesToMultiple (s : State) (m : Nat) : Nat := m - s.tm.cyc % m

/-! ## Performance events -/

/-- What an occurrence carries for the filters of R379; absent where the event does not carry it. -/
structure PcAttr where
  priv : Option Bool := none
  master : Option Nat := none
  addr : Option Nat := none
  cls : Option Nat := none
  deriving DecidableEq, Repr

/-- Does an occurrence pass the terms that filter `f` enables and that test what it carries (R379)? -/
def State.pcPasses (s : State) (f : Nat) (a : PcAttr) : Bool :=
  (match a.priv with
    | some b => !s.is (PC_FLT_CFG_PRIV_EN f) || s.is (PC_FLT_CFG_PRIV_VAL f) == b
    | none => true) &&
  (match a.master with
    | some m => !s.is (PC_FLT_CFG_MASTER_EN f) || s.rd (PC_FLT_CFG_MASTER f) == m
    | none => true) &&
  (match a.addr with
    | some x => !s.is (PC_FLT_CFG_ADDR_EN f) ||
        (s.rd64 (PC_FLT_BASE_LO_BASE f) (PC_FLT_BASE_HI_BASE f) ≤ x &&
          x ≤ s.rd64 (PC_FLT_LIMIT_LO_LIMIT f) (PC_FLT_LIMIT_HI_LIMIT f))
    | none => true) &&
  (match a.cls with
    | some k => !s.is (PC_FLT_CFG_CLASS_EN f) || s.bit (PC_FLT_CFG_CLASS_MASK f) k
    | none => true)

/-- Count `n` occurrences of event `e`: unless the counters are frozen or its filter refuses it, the 48-bit counter adds
them, and a wrap sets its `PC_OVF` bit and `NY_EVT.PC_OVF` (R377 to R380). -/
def State.pcEvent (s : State) (e : Nat) (a : PcAttr := {}) (n : Nat := 1) : State :=
  let fs := s.rd (PC_EV_CFG_FSEL e)
  if s.is PC_CTRL_FREEZE || (1 ≤ fs && fs ≤ 8 && !s.pcPasses (fs - 1) a) then s
  else
    let v := s.rd64 (PC_CNT_LO_COUNT e) (PC_CNT_HI_COUNT e) + n
    let s := s.wr64 (PC_CNT_LO_COUNT e) (PC_CNT_HI_COUNT e) (v % 2 ^ 48)
    if v < 2 ^ 48 then s else (s.setBit (PC_OVF_OVF (e / 32)) (e % 32)).raise NY_EVT_PC_OVF

/-- An event of the island of the slice that carries port `p`, numbered within the slice (R378). -/
def State.pcSlice (s : State) (p k : Nat) (a : PcAttr := {}) (n : Nat := 1) : State :=
  match s.sliceOf p with
  | some i => s.pcEvent (64 * i + k) a n
  | none => s

/-- The occupancy of crossing 8 of port `x` that beats just sent leave: they pass at once where the fabric clock runs (R17). -/
def State.occ8 (s : State) (x : Nat) : Nat := max 1 (mapGet (fun _ => 0) s.fab.out8 x)

/-- Beats sent since the counters were last looked at or changed are counted (R188, R378), and have crossed to the fabric island (R17). -/
def State.settleBeats (s : State) : State :=
  ({ s with fab := { s.fab with sent := [] } } : State).each s.fab.sent (fun s e =>
    if e.1 = lookupMark then s.bump64 CL_READS_LO_COUNT CL_READS_HI_COUNT
    else
    let s := s.pcEvent e.1 { addr := some e.2.1 } e.2.2
    if e.1 < 704 then s.crossed (512 + (e.1 - 576) / 8) (s.occ8 ((e.1 - 576) / 8)) else s)

/-! ## Setup-port accesses that are served -/

/-- The instance of class 10 by which an access reaches its register from the management island (R17), none where it lies there:
a register of the fabric island is reached from there too. -/
def State.homeXing (s : State) (off : Nat) : Option Nat :=
  match s.homeOf off with
  | .port p => s.sliceOf p
  | .island i => if i < 8 then some i else if i = 9 then some 8 else none

/-- The crossings of an access from the setup port: class 11 instance 6 to the management island, then class 10 to the register's (R17). -/
def State.spCross (s : State) (off : Nat) : State :=
  let s := s.crossed 710 1
  match s.homeXing off with
  | some i => s.crossed (640 + i) 1
  | none => s

/-- A served access of the setup port counts as a performance event (R378) and crosses to its register (R17); the Nyelle core's own
path is not the setup port. -/
def State.spCount (s : State) (w : Who) (write : Bool) (off : Nat) : State :=
  if w.master = 256 then s
  else (s.pcEvent (if write then 649 else 648) { priv := some w.priv, master := some w.master, addr := some off }).spCross off

/-- The same for a doorbell-window access, whose registers lie in the core island. -/
def State.dbCount (s : State) (w : Who) (write : Bool) (off : Nat) : State :=
  if w.master = 256 then s
  else ((s.pcEvent (if write then 649 else 648) { priv := some w.priv, master := some w.master, addr := some off }).crossed 710 1).crossed 645 1

/-- A 32-bit setup-window write of a register with a row of its own: `DECLINED`, or the effect and `OKAY`. -/
def State.guardWrite (s : State) (w : Who) (off : Nat) (f : State → State) : State :=
  if s.serves w off 4 then (f (s.settleBeats.spCount w true off)).okay 0 else s.declined

/-- A 32-bit setup-window read with an effect of its own: `DECLINED`, or the effect and `OKAY` with the word read. -/
def State.guardRead (s : State) (w : Who) (off : Nat) (f : State → Nat × State) : State :=
  if s.serves w off 4 then (f (s.settleBeats.spCount w false off)).2.okay (f (s.settleBeats.spCount w false off)).1 else s.declined

/-! ## Faults and service ends (R426, R427) -/

/-- A slice has faulted: its last test no longer counts, and a test that runs fails (R426, R437). -/
def State.sliceFault (s : State) (i : Nat) : State :=
  { s.setBit SV_EVT_SLICE_FAULT i with
    sv := { s.sv with tested := s.sv.tested &&& ~~~(1#5 <<< i), spoilt := s.sv.spoilt || (s.sv.op == 8 && s.sv.arg == i) } }

/-- A row is the first reported since both events were cleared (R445). -/
def State.rowNote (s : State) (r : Nat) : State :=
  if s.is SV_EVT_ROW_DEGRADED || s.is SV_EVT_ROW_UNC then s else s.wr SV_ROW_ADDR_ROW r

/-- An uncorrectable word of frame-buffer row `r` has been read (R426). -/
def State.rowUnc (s : State) (r : Nat) : State := ((s.rowNote r).raise SV_EVT_ROW_UNC).bump SV_SCRUB_UNC

/-- The running service operation ends with a status (R427). -/
def State.svEnd (s : State) (status : Nat) : State :=
  let op := s.sv.op
  let s := { s with sv := { s.sv with op := 0, arg := 0, force := false, step := 0, held := 0 }, fab := { s.fab with held := none } }
  ((((s.wr SV_STAT_BUSY 0).wr SV_STAT_PHASE 0).wr SV_STAT_RESULT status).wr SV_STAT_LAST_OP op).raise SV_EVT_DONE

/-! ## Background agents -/

/-- A work unit of agent `a` starts (R383). -/
def State.bgBegin (s : State) (a u : Nat) : State :=
  { s with ny := { s.ny with bgUnits := s.ny.bgUnits.filter (fun e => !(e.agent == a && e.unit == u)) ++ [⟨a, u, s.tm.tick, false⟩] } }

/-- It completes: the agent is lowered unless another of its units has missed its deadline (R383). -/
def State.bgDone (s : State) (a u : Nat) : State :=
  let l := s.ny.bgUnits.filter (fun e => !(e.agent == a && e.unit == u))
  ({ s with ny := { s.ny with bgUnits := l } } : State).put (NY_BG_DL_RAISED a) (l.any (fun e => e.agent == a && e.missed))

/-! ## The event log -/

/-- A hardware post takes its place: behind those of earlier cycles, and in ascending code among those of its own (R373). -/
def queuePost : List LogPost → LogPost → List LogPost
  | [], p => [p]
  | q :: r, p => if q.cyc = p.cyc && p.code < q.code then p :: q :: r else q :: queuePost r p

/-- A hardware post: it waits in the 8-entry queue, or is discarded and counted where the queue is full (R373). -/
def State.postHw (s : State) (code sev a0 a1 a2 : Nat) : State :=
  if s.ny.hwq.length < 8 then
    { s with ny := { s.ny with hwq := queuePost s.ny.hwq ⟨code, sev, a0 % 2 ^ 32, a1 % 2 ^ 32, a2 % 2 ^ 32, s.tm.tick / 2⟩ } }
  else s.bump NY_LOG_LOST_LOST

end Sys2Proof.Machine
end

