-- ==== Sys2Proof/Machine/Channels.lean ====
section
/-! DEFINITION. Command channels and the tumbler bank (R280 to R297). -/

namespace Sys2Proof.Machine

/-! ## Owners and halts -/

/-- Is master `m` halted by a debugger (R281)? -/
def State.halted (s : State) (m : Nat) : Bool :=
  if m = 256 then s.is NY_STAT_HALTED
  else m < 256 && s.is (CC_MASTER_VALID m) &&
    s.sdField (0x300 + 4 * s.rd (CC_MASTER_HALT m)) 9 1 == 1 && s.cc.halt.getLsbD (s.rd (CC_MASTER_HALT m))

/-- A channel and a lock as they stand. -/
def State.chan (s : State) (n : Nat) : ChanSt := mapGet (fun _ => {}) s.cc.chans n
def State.lock (s : State) (l : Nat) : LockSt := mapGet (fun _ => {}) s.cc.locks l
def State.setChan (s : State) (n : Nat) (c : ChanSt) : State :=
  { s with cc := { s.cc with chans := mapSet (fun _ => {}) s.cc.chans n c } }
def State.setLock (s : State) (l : Nat) (k : LockSt) : State :=
  { s with cc := { s.cc with locks := mapSet (fun _ => {}) s.cc.locks l k } }
def State.setWants (s : State) (w : SMap WantSt) : State := { s with cc := { s.cc with wants := w } }

/-- A lease or a want counts management time while its master is not halted (R289, R294). -/
def State.follow (s : State) (m : Nat) (t : Timer) : Timer :=
  if s.halted m then t.pause s.mgNow else t.run s.mgNow

/-- Leases and wants hold or go on as the halts now stand (R281, R289, R294). -/
def State.refreshHalts (s : State) : State :=
  { s with cc := { s.cc with
      chans := s.cc.chans.map (fun e => if e.2.state = 1 ∨ e.2.state = 3 then (e.1, { e.2 with lease := s.follow e.2.owner e.2.lease }) else e)
      wants := s.cc.wants.map (fun e => (e.1, { e.2 with age := s.follow e.1 e.2.age })) } }

/-- A `CC_HALT` input changes (R281). -/
def execHaltInputChange (i : Fin 64) (high : Bool) (s : State) : Host.Outcome State Fault Refusal :=
  .next (({ s with cc := { s.cc with halt := if high then s.cc.halt ||| (1#64 <<< i.val) else s.cc.halt &&& ~~~(1#64 <<< i.val) } } :
    State).refreshHalts)

/-- A debugger stops or resumes the Nyelle core (R281, R384): the debug module ignores its transport while `HASP_GNT` is low (R405). -/
def execCoreDebugHalt (stopped : Bool) (s : State) : Host.Outcome State Fault Refusal :=
  .next (
    if s.is KW_HASP_GNT then
      let wdt := if stopped then s.ny.wdt.pause s.mgNow else if s.is NY_CTRL_WDT_EN then s.ny.wdt.run s.mgNow else s.ny.wdt
      (({ s with ny := { s.ny with wdt := wdt } } : State).put NY_STAT_HALTED stopped).refreshHalts
    else s)

/-! ## Channels -/

/-- The consumer of channel `n`: a hub target, or 64 for the Nyelle core (R282, `CC_CFG`). -/
def State.consumer (s : State) (n : Nat) : Nat := min 64 (s.rd (CC_CFG_CONSUMER n))

/-- Is master `m` a consumer of channel `n` (R285)? -/
def State.isConsumer (s : State) (n m : Nat) : Bool :=
  if s.consumer n = 64 then m == 256
  else m < 256 && s.is (CC_MASTER_TGT_EN m) && s.rd (CC_MASTER_TGT m) == s.consumer n

/-- Has channel `n` a consumer at all (R285, R286)? -/
def State.hasConsumer (s : State) (n : Nat) : Bool := s.consumer n == 64 || (List.range 256).any (s.isConsumer n)

/-- Count a refused channel write (R282 to R290). -/
def State.ccReject (s : State) : State := (s.bump CC_REJ_COUNT).raise CC_EVT_REJ

/-- The 16 words of a channel zeroed. -/
def State.zeroWords (s : State) (n : Nat) : State := s.each (List.range 16) (fun s w => s.wr (CC_W_WORD n w) 0)

/-- The next token: from 0xFFFF to 1, so that 0 is never issued (R284). -/
def nextToken (t : Nat) : Nat := if t ≥ 0xFFFF then 1 else t + 1

/-- The claim word's format, `GRANTED` apart (R283). -/
def State.chanWord (s : State) (n : Nat) (granted : Bool) : Nat :=
  let c := s.chan n
  c.token + 2 ^ 16 * (if c.state = 0 then 0 else c.owner) + 2 ^ 25 * c.state +
    2 ^ 28 * b2n (c.state != 0 && s.halted c.owner) + 2 ^ 31 * b2n granted

/-- A fresh lease (R289). -/
def State.freshLease (s : State) (m : Nat) : Timer := s.follow m {}

/-- A read of `CC_CLAIM[n]` by master `m` (R283): a `FREE` channel is claimed; any other state is the busy answer. -/
def State.ccClaim (s : State) (n m : Nat) : Nat × State :=
  if (s.chan n).state = 0 then
    let s := (s.zeroWords n).setChan n
      { state := 1, token := nextToken (s.chan n).token, owner := m, lease := s.freshLease m, limit := s.rd CC_CTRL_LEASE_US }
    (s.chanWord n true, s)
  else (s.chanWord n false, s)

/-- The channel returns to `FREE` with zero words and its token kept (R282). -/
def State.freeChan (s : State) (n : Nat) : State := (s.zeroWords n).setChan n { token := (s.chan n).token }

/-- May this write of a word change it (R285)? -/
def State.wordOpen (s : State) (n m : Nat) : Bool :=
  ((s.chan n).state == 1 && (s.chan n).owner == m) || ((s.chan n).state == 2 && s.isConsumer n m)

/-- May this reader see a word (R285)? -/
def State.wordShown (s : State) (n m : Nat) : Bool :=
  (((s.chan n).state == 1 || (s.chan n).state == 3) && (s.chan n).owner == m) ||
  ((s.chan n).state == 2 && s.isConsumer n m)

/-- A write of word `i` of channel `n` (R285). -/
def State.ccWord (s : State) (n i m v : Nat) : State :=
  if s.wordOpen n m then s.wr (CC_W_WORD n i) v else s.ccReject

/-- Does a commit word pass R286? -/
def State.commitOk (s : State) (n m v : Nat) : Bool :=
  let c := s.chan n
  c.state == 1 && c.owner == m && bits v 0 16 == c.token && 1 ≤ bits v 16 5 && bits v 16 5 ≤ 16 && bits v 21 11 == 0 &&
  s.hasConsumer n

/-- A write of `CC_COMMIT[n]` (R286): the lease stops and the count is recorded. -/
def State.ccCommit (s : State) (n m v : Nat) : State :=
  if s.commitOk n m v then
    (s.setChan n { s.chan n with state := 2, count := bits v 16 5, lease := {} }).pcEvent 836
  else s.ccReject

/-- Does a done word pass R287? -/
def State.doneOk (s : State) (n m v : Nat) : Bool :=
  (s.chan n).state == 2 && s.isConsumer n m && bits v 0 4 ≤ 8 && bits v 4 5 ≤ 16 && bits v 9 23 == 0

/-- A write of `CC_DONE[n]` (R287): the result is loaded and the lease runs from zero. -/
def State.ccDone (s : State) (n m v : Nat) : State :=
  if s.doneOk n m v then
    let c := s.chan n
    ((s.wr (CC_RESULT_STATUS n) (bits v 0 4)).wr (CC_RESULT_RCOUNT n) (bits v 4 5)).setChan n
      { c with state := 3, lease := s.freshLease c.owner, limit := s.rd CC_CTRL_LEASE_US }
  else s.ccReject

/-- A write of `CC_RELEASE[n]` (R288): its reserved bits have no effect (R11). -/
def State.ccRelease (s : State) (n m v : Nat) : State :=
  let c := s.chan n
  if (c.state = 1 ∨ c.state = 3) ∧ c.owner = m ∧ bits v 0 16 = c.token then s.freeChan n else s.ccReject

/-- A write of `CC_BREAK` (R290). -/
def State.ccBreak (s : State) (n : Nat) : State :=
  if (s.chan n).state = 0 then s.ccReject
  else ((s.freeChan n).bump CC_EXP_CNT_BRK).raise CC_EVT_BREAK

/-- A write of `CC_CFG[n]` acts only in `FREE` (R282). -/
def State.ccCfg (s : State) (n v : Nat) : State :=
  if (s.chan n).state = 0 then s.wr (CC_CFG_CONSUMER n) v else s.ccReject

/-- Window offset of channel `n` and lock `l`. -/
def ccOff (n : Nat) : Nat := 0x148000 + 0x80 * n
def tbOff (l : Nat) : Nat := 0x150000 + 16 * l

/-- A read of `CC_CLAIM[n]` (R283). -/
def execCcClaim (w : Who) (n : Fin 256) (s : State) : Host.Outcome State Fault Refusal :=
  .next (s.guardRead w (ccOff n + 0x40) (·.ccClaim n w.master))

/-- A write of a channel word (R285). -/
def execCcWordWrite (w : Who) (n : Fin 256) (i : Fin 16) (v : Word) (s : State) : Host.Outcome State Fault Refusal :=
  .next (s.guardWrite w (ccOff n + 4 * i) (·.ccWord n i w.master v.toNat))

/-- A write of `CC_COMMIT[n]` (R286). -/
def execCcCommit (w : Who) (n : Fin 256) (v : Word) (s : State) : Host.Outcome State Fault Refusal :=
  .next (s.guardWrite w (ccOff n + 0x44) (·.ccCommit n w.master v.toNat))

/-- A write of `CC_DONE[n]` (R287). -/
def execCcDone (w : Who) (n : Fin 256) (v : Word) (s : State) : Host.Outcome State Fault Refusal :=
  .next (s.guardWrite w (ccOff n + 0x48) (·.ccDone n w.master v.toNat))

/-- A write of `CC_RELEASE[n]` (R288). -/
def execCcRelease (w : Who) (n : Fin 256) (v : Word) (s : State) : Host.Outcome State Fault Refusal :=
  .next (s.guardWrite w (ccOff n + 0x4C) (·.ccRelease n w.master v.toNat))

/-- A write of `CC_BREAK` (R290). -/
def execCcBreak (w : Who) (n : Fin 256) (s : State) : Host.Outcome State Fault Refusal :=
  .next (s.guardWrite w 0x140008 (·.ccBreak n))

/-- The lease of channel `n` reaches its limit (R289): a lease runs in `CLAIMED` and `DONE`, while its owner is not halted and the
management island runs. -/
def execLeaseExpiry (n : Fin 256) (s : State) : Host.Outcome State Fault Refusal :=
  .next (
    let c := s.chan n
    if (c.state = 1 ∨ c.state = 3) ∧ c.lease.since.isSome ∧ s.islandUp 8 then
      (((s.advanceMg (c.lease.ends (usTicks c.limit))).freeChan n).bump CC_EXP_CNT_EXP).raise CC_EVT_LEASE_EXP
    else s)

/-- Is channel `n` `COMMITTED` to consumer `t` (`CC_PEND`, R334)? -/
def State.ccPends (s : State) (t n : Nat) : Bool := (s.chan n).state == 2 && s.consumer n == t

/-- Is any channel `COMMITTED` to consumer `t`: the level of its command-channel source (R332, R334)? -/
def State.ccLevel (s : State) (t : Nat) : Bool := s.cc.chans.any (fun e => e.2.state == 2 && s.consumer e.1 == t)

/-! ## Locks -/

/-- The word of `TB_STAT[l]` (R291). -/
def State.lockWord (s : State) (l : Nat) : Nat :=
  let k := s.lock l
  if k.held then 2 ^ 16 * k.holder + 2 ^ 28 * b2n (s.halted k.holder) + 2 ^ 30 else 0

/-- Master `m`'s want ends (R294). -/
def State.endWant (s : State) (m : Nat) : State := s.setWants (mapErase m s.cc.wants)

/-- A failed acquire records the want and sets the walk-pending bit (R294). -/
def State.want (s : State) (m l : Nat) : State :=
  let s := s.setWants (optSet s.cc.wants m ⟨l, s.follow m {}⟩)
  { s with cc := { s.cc with walks := if s.cc.walks.contains m then s.cc.walks else s.cc.walks ++ [m] } }

/-- A read of `TB_ACQ[l]` by master `m` (R292): the word returned and what it does. -/
def State.tbAcq (s : State) (l m : Nat) : Nat × State :=
  let k := s.lock l
  if k.held then (s.lockWord l, (s.want m l).pcEvent 838)
  else
    let t := nextToken k.token
    (2 ^ 31 + 2 ^ 16 * m + t, ((s.setLock l ⟨true, m, t⟩).endWant m).pcEvent 837)

/-- A lock becomes free; its token stays (R293). -/
def State.freeLock (s : State) (l : Nat) : State := s.setLock l ⟨false, 0, (s.lock l).token⟩

/-- A write of `TB_REL[l]` (R293): its reserved bits have no effect (R11). -/
def State.tbRel (s : State) (l m v : Nat) : State :=
  let k := s.lock l
  if k.held ∧ k.holder = m ∧ bits v 0 16 = k.token then s.freeLock l else s.bump TB_REJ_COUNT

/-- A write of `TB_FORCE` (R293). -/
def State.tbForce (s : State) (l : Nat) : State :=
  if (s.lock l).held then ((s.freeLock l).bump TB_CYC_CNT_FORCE).raise TB_EVT_FORCED else s.bump TB_REJ_COUNT

/-- A write of `TB_UNWANT[l]` (R294). -/
def State.tbUnwant (s : State) (l m : Nat) : State :=
  match optGet s.cc.wants m with
  | some w => if w.lock = l then s.endWant m else s
  | none => s

/-- A read of `TB_ACQ[l]` (R292). -/
def execTbAcq (w : Who) (l : Fin 1024) (s : State) : Host.Outcome State Fault Refusal :=
  .next (s.guardRead w (tbOff l) (·.tbAcq l w.master))

/-- A write of `TB_REL[l]` (R293). -/
def execTbRel (w : Who) (l : Fin 1024) (v : Word) (s : State) : Host.Outcome State Fault Refusal :=
  .next (s.guardWrite w (tbOff l + 4) (·.tbRel l w.master v.toNat))

/-- A write of `TB_FORCE` (R293). -/
def execTbForce (w : Who) (l : Fin 1024) (s : State) : Host.Outcome State Fault Refusal :=
  .next (s.guardWrite w 0x141008 (·.tbForce l))

/-- A write of `TB_UNWANT[l]` (R294). -/
def execTbUnwant (w : Who) (l : Fin 1024) (s : State) : Host.Outcome State Fault Refusal :=
  .next (s.guardWrite w (tbOff l + 0xC) (·.tbUnwant l w.master))

/-- Master `m` has made no failed acquire for `WANT_US` of unhalted time (R294). -/
def execWantExpiry (m : Fin 257) (s : State) : Host.Outcome State Fault Refusal :=
  .next (
    match optGet s.cc.wants m with
    | some w =>
      if w.age.since.isSome && s.islandUp 8 then (s.advanceMg (w.age.ends (usTicks (s.rd TB_CTRL_WANT_US)))).endWant m else s
    | none => s)

/-! ## Wait-for cycles -/

/-- The edge of the wait-for graph from a master: the holder of the lock it wants (R295). -/
def State.waitsFor (s : State) (m : Nat) : Option Nat :=
  match optGet s.cc.wants m with
  | some w => if (s.lock w.lock).held then some (s.lock w.lock).holder else none
  | none => none

/-- Follow the edges from `m` for at most `n` steps: the masters passed, where the walk comes back to `start` (R295). -/
def State.walk (s : State) (start : Nat) : Nat → Nat → List Nat → Option (List Nat)
  | 0, _, _ => none
  | n + 1, m, acc =>
    match s.waitsFor m with
    | none => none
    | some h => if h = start then some (m :: acc) else s.walk start n h (m :: acc)

/-- The next walk-pending master, in ascending order after the last one taken (R295). -/
def State.nextWalk (s : State) : Option Nat :=
  ((List.range 257).map (fun i => (s.cc.last + 1 + i) % 257)).find? (s.cc.walks.contains ·)

/-- Report a confirmed cycle (R296). -/
def State.reportCycle (s : State) (m : Nat) (members : List Nat) : State :=
  let lock := match optGet s.cc.wants m with
    | some w => w.lock
    | none => 0
  let s := s.bump TB_CYC_CNT_CYC
  if s.is TB_EVT_CYCLE then s
  else
    let s := ((s.wr TB_CYC_START m).wr TB_CYC_LEN members.length).wr TB_CYC_LOCK lock
    let s := s.each (List.range 9) (fun s w =>
      s.wr (TB_CYC_MASK_MASK w) ((List.range 32).foldl (fun n i => n + 2 ^ i * b2n (members.contains (32 * w + i))) 0))
    s.raise TB_EVT_CYCLE

/-- The detector takes the next walk-pending master and walks from it (R295). The confirming walk follows in the next cycles of
the same command and finds the same members (log entry 13). -/
def execCycleWalk (s : State) : Host.Outcome State Fault Refusal :=
  .next (
    match if s.islandUp 8 then s.nextWalk else none with
    | none => s
    | some m =>
      let s := { s with cc := { s.cc with walks := s.cc.walks.filter (· != m), last := m } }
      match s.walk m 257 m [] with
      | some members => s.reportCycle m members
      | none => s)

/-- Register writes of the region that no row of its own names (R282, R446). -/
def State.ccWrite (s : State) (off m v : Nat) : State :=
  if 0x148000 ≤ off ∧ off < 0x150000 then
    let n := (off - 0x148000) / 0x80
    let r := (off - 0x148000) % 0x80
    if r < 0x40 then s.ccWord n (r / 4) m v
    else if r = 0x44 then s.ccCommit n m v
    else if r = 0x48 then s.ccDone n m v
    else if r = 0x4C then s.ccRelease n m v
    else if r = 0x54 then s.ccCfg n v
    else s
  else if 0x150000 ≤ off ∧ off < 0x154000 then
    let l := (off - 0x150000) / 16
    if off % 16 = 4 then s.tbRel l m v else if off % 16 = 12 then s.tbUnwant l m else s
  else if off = 0x140008 then s.ccBreak (v % 256)
  else if off = 0x141008 then s.tbForce (v % 1024)
  else if 0x140400 ≤ off ∧ off < 0x140800 then (s.writePlain off v).refreshHalts
  else s.writePlain off v

end Sys2Proof.Machine
end

