-- ==== Sys2Proof/Machine/Hub.lean ====
section
/-! DEFINITION. The signal hub (R332 to R349); the wake by the watch list is with the power sequencer. -/

namespace Sys2Proof.Machine

/-! ## Sources -/

/-- Event registers and the sources their bits drive (R332, R384, R407, R424, R445): first source, last source, offset. -/
def originTable : List (Nat × Nat × Nat) := [
  (0, 15, 0x1F0008), (16, 27, 0x1F1020), (48, 62, 0x1E0020), (80, 87, 0x1E1050), (88, 95, 0x1E2070),
  (96, 111, 0x1C0000), (112, 127, 0x1C8800), (128, 156, 0x00003C), (160, 184, 0x080004), (192, 196, 0x0A0030),
  (200, 204, 0x0C0020), (208, 212, 0x160020), (216, 222, 0x10001C), (224, 228, 0x10102C), (232, 251, 0x020500),
  (256, 279, 0x040300), (288, 312, 0x041400), (320, 335, 0x060404), (336, 343, 0x0C1500), (344, 349, 0x170070),
  (352, 354, 0x140004), (356, 357, 0x141004), (364, 367, 0x180004)]

/-- The event register bit that drives a shared level source. -/
def originOf (n : Nat) : Option (Nat × Nat) :=
  (originTable.find? (fun e => e.1 ≤ n && n ≤ e.2.1)).map (fun e => (e.2.2, n - e.1))

/-- Is source `n` an edge source (R332, R334)? -/
def isEdge (n : Nat) : Bool := (384 ≤ n && n < 512) || (512 ≤ n && n < 2560 && (n - 512) % 32 != 0)

/-- Is source `n` a level source that some origin drives (R332, R334)? -/
def isLevel (n : Nat) : Bool := (originOf n).isSome || n == 360 || (512 ≤ n && n < 2560 && (n - 512) % 32 == 0)

/-- The owner of a private source (R334). -/
def ownerOf (n : Nat) : Nat := (n - 512) / 32

/-- Is target `t` wired (R335)? -/
def State.wired (s : State) (t : Nat) : Bool := t == 64 || (t < 64 && t < s.sdField 0x01C 0 8)

/-- Can source `n` pend: assigned, and its owner wired where it is private (R332, R335)? -/
def State.canPend (s : State) (n : Nat) : Bool := (isEdge n || isLevel n) && (n < 512 || s.wired (ownerOf n))

/-- The level an origin holds now (R332 to R334). -/
def State.originLevel (s : State) (n : Nat) : Bool :=
  if 512 ≤ n then s.ccLevel (ownerOf n)
  else if n = 360 then s.ccLevel 64
  else match originOf n with
    | some e => bitN (s.readPlain e.1) e.2 == 1
    | none => false

/-- A source as it stands, and writing it. -/
def State.src (s : State) (n : Nat) : SrcSt := mapGet (fun _ => {}) s.hub.srcs n
def State.setSrc (s : State) (n : Nat) (x : SrcSt) : State :=
  { s with hub := { s.hub with srcs := mapSet (fun _ => {}) s.hub.srcs n x } }

/-- Configured target: the owner for a private source (R342). -/
def State.target (s : State) (n : Nat) : Nat := if 512 ≤ n then ownerOf n else s.rd (HB_SRC_CFG_TARGET n)

/-- Effective target (R336, R342, R347). -/
def State.effective (s : State) (n : Nat) : Nat :=
  let x := s.src n
  if x.active then x.holder else if x.redir then x.fb else s.target n

/-- The active source a target holds (R337). -/
def State.held (s : State) (t : Nat) : Option Nat := (s.hub.srcs.find? (fun e => e.2.active && e.2.holder == t)).map (·.1)

/-- Is target `t` asleep (R346)? -/
def State.asleep (s : State) (t : Nat) : Bool := t < 64 && s.sdField (0x300 + 4 * t) 8 1 == 1 && !s.hub.awake.getLsbD t

/-- Does the hold-off timer of the group of source `n` run (R344)? -/
def State.holdRuns (s : State) (n : Nat) : Bool := (optGet s.hub.hold (n / 16)).isSome

/-- Is source `n` deliverable (R336)? -/
def State.deliverable (s : State) (n : Nat) : Bool :=
  (s.src n).pending && !(s.src n).active && s.canPend n && s.is (HB_SRC_CFG_EN n) && !s.is HB_CTRL_DISABLE &&
  !s.holdRuns n && (s.held (s.effective n)).isNone

/-- The sources deliverable to a target, in rising order. -/
def State.deliverables (s : State) (t : Nat) : List Nat :=
  (s.hub.srcs.map (·.1)).filter (fun n => s.deliverable n && s.effective n == t)

/-- `HB_IRQ[t]`, or the Nyelle core's external interrupt for 64 (R341). -/
def State.line (s : State) (t : Nat) : Bool := !(s.deliverables t).isEmpty

/-- A rise of shared source `n` is logged where its mask bit is set (R373). -/
def State.logRise (s : State) (n : Nat) : State :=
  if n < 512 && s.bit (NY_LOG_MASK_MASK (n / 32)) (n % 32) then s.postHw n 1 n 0 0 else s

/-- The hub samples the level of source `n` (R333, R336). -/
def State.sampleLevel (s : State) (n : Nat) : State :=
  let x := s.src n
  let l := s.originLevel n
  let s := if l && !x.level then s.logRise n else s
  s.setSrc n { x with level := l, pending := if x.active then x.pending else l }

/-- The management-island cycle in which the hub stands (R341). -/
def State.hubCyc (s : State) : Nat := s.mgNow / 2

/-- Was source `n` completed in this management-island cycle (R341)? -/
def State.endedNow (s : State) (n : Nat) : Bool := s.hub.endCyc == s.hubCyc && s.hub.ended.contains n

/-- An edge source is asserted (R336, R340): in the cycle of its completion it pends with precedence (R341). -/
def State.assertEdge (s : State) (n : Nat) : State :=
  let x := s.src n
  (s.logRise n).setSrc n { x with pending := true, preced := x.preced || (!x.active && s.endedNow n && s.is (HB_SRC_CFG_EN n)) }

/-! ## Redirect timers -/

/-- Does a redirect timer run for source `n` (R345, R347)? -/
def State.redirectRuns (s : State) (n : Nat) : Bool :=
  let t := s.target n
  let f := s.sdField (0x300 + 4 * t) 0 7
  n < 512 && s.deliverable n && !(s.src n).redir && s.asleep t && s.rd HB_CTRL_REDIRECT_US != 0 && f != t && s.wired f

/-- Redirect timers start and stop as their conditions now stand (R347): one that goes on keeps its start. -/
def State.hubRefresh (s : State) : State :=
  let run := (s.hub.srcs.map (·.1)).filter s.redirectRuns
  { s with hub := { s.hub with redirs := run.map (fun n => (n, (optGet s.hub.redirs n).getD s.mgNow)) } }

/-! ## Commands -/

/-- The origin of level source `n` changes, and the hub follows (R333, R336). -/
def execSourceLevelChange (n : Fin 2560) (s : State) : Host.Outcome State Fault Refusal :=
  .next (if isLevel n && s.canPend n && s.islandUp 8 then (s.settleBeats.sampleLevel n).hubRefresh else s)

/-- The levels of all sources reach the hub once the management island runs again (R348). -/
def State.hubResample (s : State) : State :=
  (s.each ((List.range 512 ++ (List.range 64).map (fun t => 512 + 32 * t)).filter (fun n => isLevel n && s.canPend n)) (fun s n =>
    if (s.src n).level == s.originLevel n then s else s.sampleLevel n)).hubRefresh

/-- What the hub does when the management island runs again: `HB_EVT.WAKE` that was due, and the levels of its sources (R348). -/
def State.hubWakes (s : State) : State :=
  (if s.hub.wakeDue then ({ s with hub := { s.hub with wakeDue := false } } : State).raise HB_EVT_WAKE else s).hubResample

/-- Count a refused configuration (R335). -/
def State.hbReject (s : State) : State := (s.bump HB_CFG_REJ_COUNT).raise HB_EVT_CFG_REJ

/-- A write of `HB_SW_SET` (R333, R335). -/
def State.swSet (s : State) (n : Nat) : State :=
  if isEdge n && s.canPend n then (s.assertEdge n).hubRefresh else s.hbReject

/-- The source a claim by target `t` selects: one that re-fired first, else the lowest number (R337, R340). -/
def State.claimed (s : State) (t : Nat) : Option Nat :=
  ((s.deliverables t).find? (fun n => (s.src n).preced)).or (s.deliverables t).head?

/-- A read of `HB_CLAIM[t]` (R337, R344, R345): the word returned and what it does. -/
def State.hbClaim (s : State) (t : Nat) : Nat × State :=
  if s.is HB_CTRL_DISABLE then (0, s)
  else match s.held t with
    | some n => (n + 2 ^ 29 * b2n (s.src n).redir + 2 ^ 30, s)
    | none =>
      match s.claimed t with
      | none => (0, s)
      | some n =>
        let w := n + 2 ^ 29 * b2n (s.src n).redir + 2 ^ 31
        let s := s.setSrc n { s.src n with pending := false, active := true, preced := false, holder := t }
        let us := s.rd (HB_GRP_CFG_HOLD_US (n / 16))
        let s := if us = 0 then s
          else { s with hub := { s.hub with hold := optSet s.hub.hold (n / 16) (s.mgNow + usTicks us) } }
        (w, s.hubRefresh)

/-- A claim that its reader never got: the source is pending again, with the precedence it had (R338); a level source whose level has fallen
since is not (R336). -/
def State.unclaim (s : State) (n : Nat) (preced : Bool) : State :=
  (s.setSrc n { s.src n with pending := isEdge n || (s.src n).level, active := false, preced := preced }).hubRefresh

/-- A claim by `w`, with what becomes of its answer (R337, R338): a claim that comes back is not counted, and the core's comes back by a
reset of its island alone. -/
def State.hbClaimTaken (s : State) (w : Who) (t : Nat) (k : Taken) : Nat × State :=
  let r := s.hbClaim t
  let r2 : State := if w.master = 256 then { r.2 with hub := { r.2.hub with coreClaim := none } } else r.2
  if bitN r.1 31 = 0 then (r.1, r2)
  else
    let n := r.1 % 4096
    let p := (s.src n).preced
    match takenBy k w with
    | .accepted | .spoilt => (r.1, r2.pcEvent 834)
    | .failed => (r.1, r2.unclaim n p)
    | .held => (r.1, (if w.master = 256 then { r2 with hub := { r2.hub with coreClaim := some (t, n, p) } } else r2).pcEvent 834)

/-- A completion that R339 accepts: a level source pends again while its level is high, an edge source that re-fired stays
pending with precedence, and a redirect ends (R336, R340, R347). -/
def State.finish (s : State) (n : Nat) : State :=
  let x := s.src n
  let l := if isEdge n then x.level else s.originLevel n
  let s := if l && !x.level then s.logRise n else s
  let s := { s with hub := { s.hub with endCyc := s.hubCyc, ended := n :: (if s.hub.endCyc = s.hubCyc then s.hub.ended else []) } }
  (s.setSrc n { x with active := false, redir := false, level := l, pending := if isEdge n then x.pending else l,
                       preced := isEdge n && x.pending && s.is (HB_SRC_CFG_EN n) }).hubRefresh

/-- A write of `HB_COMPLETE[t]` (R339). -/
def State.hbComplete (s : State) (t v : Nat) : State :=
  let n := v % 4096
  if v < 4096 && (s.src n).active && (s.src n).holder == t then s.finish n
  else (s.bump HB_IGN_CNT_COUNT).raise HB_EVT_IGNORED

/-- A write of `HB_SRC_CFG[n]` (R332, R335, R342, R343). -/
def State.hbSrcCfg (s : State) (n v : Nat) : State :=
  if !(isEdge n || isLevel n) then s
  else if n < 512 && !s.wired (bits v 8 7) then s.hbReject
  else
    let s := s.wr (HB_SRC_CFG_EN n) (bitN v 0)
    let s := if n < 512 then s.wr (HB_SRC_CFG_TARGET n) (bits v 8 7) else s
    (if bitN v 0 = 0 then s.setSrc n { s.src n with preced := false } else s).hubRefresh

/-- A write of `HB_SW_SET` (R333). -/
def execHbSwSet (w : Who) (v : Word) (s : State) : Host.Outcome State Fault Refusal :=
  .next (s.guardWrite w 0x180014 (·.swSet (v.toNat % 4096)))

/-- A read of `HB_CLAIM[t]` (R337). -/
def execHbClaim (w : Who) (t : Fin 65) (k : Taken) (s : State) : Host.Outcome State Fault Refusal :=
  .next (let t' := s.guardRead w (0x188000 + 0x20 * t) (fun s => s.hbClaimTaken w t k)
    match takenBy k w with
    | .failed => t'.declined
    | _ => t')

/-- A write of `HB_COMPLETE[t]` (R339). -/
def execHbComplete (w : Who) (t : Fin 65) (v : Word) (s : State) : Host.Outcome State Fault Refusal :=
  .next (s.guardWrite w (0x188004 + 0x20 * t) (·.hbComplete t v.toNat))

/-- A write of `HB_SRC_CFG[n]` (R342). -/
def execHbSrcCfgWrite (w : Who) (n : Fin 2560) (v : Word) (s : State) : Host.Outcome State Fault Refusal :=
  .next (s.guardWrite w (0x184000 + 4 * n) (·.hbSrcCfg n v.toNat))

/-- A write of `HB_CTRL` (R345): what is deliverable follows `DISABLE` at once. -/
def execHbDisableWrite (w : Who) (v : Word) (s : State) : Host.Outcome State Fault Refusal :=
  .next (s.guardWrite w 0x180000 (fun s => (s.writePlain 0x180000 v.toNat).hubRefresh))

/-- The hold-off timer of group `g` ends (R344). -/
def execHoldoffGroupExpiry (g : Fin 160) (s : State) : Host.Outcome State Fault Refusal :=
  .next (
    match optGet s.hub.hold g with
    | some t =>
      if !s.islandUp 8 then s
      else
        let s := s.advanceMg t
        ({ s with hub := { s.hub with hold := mapErase g s.hub.hold } } : State).hubRefresh
    | none => s)

/-- `HB_AWAKE[t]` changes (R346). -/
def execTargetAwakeChange (t : Fin 64) (high : Bool) (s : State) : Host.Outcome State Fault Refusal :=
  .next ({ s with hub := { s.hub with awake := if high then s.hub.awake ||| (1#64 <<< t.val) else s.hub.awake &&& ~~~(1#64 <<< t.val) } } :
    State).hubRefresh

/-- The redirect timer of source `n` reaches `REDIRECT_US` (R347): this is that instant or later. -/
def execRedirectTimeout (n : Fin 2560) (s : State) : Host.Outcome State Fault Refusal :=
  .next (
    match optGet s.hub.redirs n with
    | some t =>
      if s.redirectRuns n && s.islandUp 8 then
        let s := s.advanceMg (t + usTicks (s.rd HB_CTRL_REDIRECT_US))
        (((s.setSrc n { s.src n with redir := true, fb := s.sdField (0x300 + 4 * s.target n) 0 7 }).bump HB_REDIR_CNT_COUNT).raise
          HB_EVT_REDIRECT).hubRefresh
      else s
    | none => s)

/-- Register writes of the region. -/
def State.hbWrite (s : State) (off v : Nat) : State :=
  if off = 0x180014 then s.swSet (v % 4096)
  else if 0x184000 ≤ off ∧ off < 0x186800 then s.hbSrcCfg ((off - 0x184000) / 4) v
  else if 0x188000 ≤ off ∧ off < 0x188820 ∧ off % 32 = 4 then s.hbComplete ((off - 0x188000) / 32) v
  else if off = 0x180180 then
    (let s := s.writePlain off v
     { s with hub := { s.hub with wakeOut := s.hub.wakeOut && s.is HB_WAKE_STAT_VALID } })
  else (s.writePlain off v).hubRefresh

/-! ## What its registers read -/

/-- A bit per source of a word of `HB_PEND` or `HB_ACTIVE`. -/
def State.hbBits (s : State) (w : Nat) (f : SrcSt → Bool) : Nat :=
  (List.range 32).foldl (fun a i => a + 2 ^ i * b2n (f (s.src (32 * w + i)))) 0

/-- `HB_SRC_CFG[n]`. -/
def State.hbSrcWord (s : State) (n : Nat) : Nat :=
  let x := s.src n
  if isEdge n || isLevel n then
    s.rd (HB_SRC_CFG_EN n) + 2 * b2n (isEdge n) + 2 ^ 8 * s.target n + 2 ^ 16 * b2n x.pending + 2 ^ 17 * b2n x.active +
      2 ^ 18 * b2n x.preced + 2 ^ 19 * b2n x.redir + 2 ^ 20 * s.effective n
  else s.readPlain (0x184000 + 4 * n)

/-- `HB_TGT_STAT[t]`. -/
def State.hbTgtWord (s : State) (t : Nat) : Nat :=
  b2n (s.line t) + 2 * b2n (!s.asleep t) + 4 * b2n (s.held t).isSome + 8 * b2n (s.wired t) + 16 * (s.held t).getD 0

end Sys2Proof.Machine
end

