-- ==== Sys2Proof/Machine/CheckUnits.lean ====
section
/-! DEFINITION. Check units (R359 to R362): the streams feed them, `ARM` and `DISARM` start and stop them. -/

namespace Sys2Proof.Machine

/-! ## Algorithms -/

/-- Width, initial value and final exclusive-OR of an algorithm (R360). -/
def cuWidth (alg : Nat) : Nat := if alg = 2 then 64 else if alg = 3 then 16 else 32
def cuInit (alg : Nat) : Nat := if alg = 2 then 0 else 2 ^ cuWidth alg - 1
def cuFinal (alg : Nat) : Nat := cuInit alg

/-- One byte folded into the shift register (R360). -/
def cuFold (alg run : Nat) (b : Byte) : Nat :=
  if alg = 0 then crcByteR 0xEDB88320 run b
  else if alg = 1 then crcByteR 0x82F63B78 run b
  else if alg = 2 then crcByteM 64 0x42F0E1EBA9EA3693 run b
  else crcByteR 0x8408 run b

/-! ## A unit -/

def State.cuState (s : State) (u : Nat) : Nat := s.rd (CU_STAT_STATE u)
def State.cuMore (s : State) (u : Nat) : CuSt := mapGet (fun _ => {}) s.cu u
def State.setCu (s : State) (u : Nat) (c : CuSt) : State := { s with cu := mapSet (fun _ => {}) s.cu u c }

/-- The shift register of a unit: the low bits its algorithm uses, the rest zero (R360). -/
def State.cuRun (s : State) (u : Nat) : Nat := s.rd64 (CU_RUN_LO_RUN u) (CU_RUN_HI_RUN u) % 2 ^ cuWidth (s.rd (CU_CFG_ALG u))

/-- A unit starts: `WAIT` becomes `ACTIVE` with the initial value (R361). -/
def State.cuStart (s : State) (u : Nat) : State :=
  if s.cuState u = 1 then
    (((s.wr (CU_STAT_STATE u) 2).wr64 (CU_RUN_LO_RUN u) (CU_RUN_HI_RUN u) (cuInit (s.rd (CU_CFG_ALG u)))).wr
      (CU_BYTES_BYTES u) 0).setCu u {}
  else s

/-- A unit ends: the result is latched and compared (R361). -/
def State.cuEnd (s : State) (u : Nat) (contig : Bool) : State :=
  let alg := s.rd (CU_CFG_ALG u)
  let r := s.cuRun u ^^^ cuFinal alg
  let s := s.wr64 (CU_RESULT_LO_RESULT u) (CU_RESULT_HI_RESULT u) r
  let ok := s.rd64 (CU_EXPECT_LO_EXPECT u) (CU_EXPECT_HI_EXPECT u) % 2 ^ cuWidth alg == r % 2 ^ cuWidth alg
  let s := if s.is (CU_CFG_CMP u) then
      (if ok then (s.bump (CU_CNT_MATCH u)).wr (CU_STAT_LAST_OK u) 1
       else ((s.bump (CU_CNT_MISS u)).wr (CU_STAT_LAST_OK u) 0).setBit CU_EVT_MISMATCH u)
    else s
  let auto := s.is (CU_CFG_AUTO u)
  (s.wr (CU_STAT_STATE u) (b2n auto)).setCu u { contig := contig && auto }

/-- A byte passes a unit armed on its stream (R361); with `END_MODE` 1 a unit ends after `COUNT` bytes and the next begins with
the byte after. -/
def State.cuByte (s : State) (u : Nat) (b : Byte) : State :=
  let s := if (s.cuMore u).contig then s.cuStart u else s
  if s.cuState u = 2 then
    let run := cuFold (s.rd (CU_CFG_ALG u)) (s.cuRun u) b
    let c := s.cuMore u
    let s := ((s.wr64 (CU_RUN_LO_RUN u) (CU_RUN_HI_RUN u) run).bump (CU_BYTES_BYTES u)).setCu u { c with seen := c.seen + 1 }
    if s.rd (CU_CFG_END_MODE u) = 1 ∧ c.seen + 1 = s.rd (CU_COUNT_COUNT u) then s.cuEnd u true else s
  else s

/-- The check units that snoop a stream (R359). -/
def State.cuOn (s : State) (stream : Nat) : List Nat :=
  if 1 ≤ stream ∧ stream ≤ 39 then (List.range 16).filter (fun u => s.rd (CU_CFG_STREAM u) == stream) else []

/-- Bytes pass on a stream, with a unit start before them and a unit end after them where the flags say so (R359). -/
def State.cuStream (s : State) (stream : Nat) (start : Bool) (bytes : List Byte) (stop : Bool) : State :=
  s.each (s.cuOn stream) (fun s u =>
    let s := if start then s.cuStart u else s
    let s := bytes.foldl (fun s b => s.cuByte u b) s
    if stop ∧ s.cuState u = 2 ∧ s.rd (CU_CFG_END_MODE u) = 0 then s.cuEnd u false else s)

/-! ## Commands -/

/-- `ARM` (R361). -/
def State.cuArm (s : State) (u : Nat) (keep : Bool) : State :=
  if s.cuState u ≠ 0 || s.rd (CU_CFG_END_MODE u) == 3 || (s.rd (CU_CFG_END_MODE u) == 1 && s.rd (CU_COUNT_COUNT u) == 0) then
    s.bump CU_CFG_REJ_COUNT
  else (s.wr (CU_STAT_STATE u) (if keep then 2 else 1)).setCu u {}

/-- `DISARM` (R361). -/
def State.cuDisarm (s : State) (u : Nat) : State := (s.wr (CU_STAT_STATE u) 0).setCu u {}

/-- A write of `CU_CTRL[u]`. -/
def State.cuCtrl (s : State) (u v : Nat) : State :=
  let s := if bitN v 0 = 1 then s.cuArm u (bitN v 2 == 1) else s
  if bitN v 1 = 1 then s.cuDisarm u else s

/-- Register writes of the check units (R361): configuration is written in `IDLE` only. -/
def State.cuWrite (s : State) (off v : Nat) : State :=
  if 0x1C8000 ≤ off ∧ off < 0x1C8400 then
    let u := (off - 0x1C8000) / 64
    let r := (off - 0x1C8000) % 64
    if r = 4 then s.cuCtrl u v
    else if (r = 0 || r = 0xC || (0x10 ≤ r && r < 0x20)) && s.cuState u != 0 then s.bump CU_CFG_REJ_COUNT
    else s.writePlain off v
  else s.writePlain off v

/-- A write of `ARM` (R361). -/
def execCuArm (w : Who) (u : Fin 16) (keep : Bool) (s : State) : Host.Outcome State Fault Refusal :=
  .next (s.guardWrite w (0x1C8004 + 64 * u) (·.cuCtrl u (1 + 4 * b2n keep)))

/-- A write of `DISARM` (R361). -/
def execCuDisarm (w : Who) (u : Fin 16) (s : State) : Host.Outcome State Fault Refusal :=
  .next (s.guardWrite w (0x1C8004 + 64 * u) (·.cuCtrl u 2))

end Sys2Proof.Machine
end

