-- ==== Sys2Proof/Machine/MgmtDma.lean ====
section
/-! DEFINITION. Management DMA, part one (R350 to R358): the data SRAM, descriptors, the channel's states and its register
writes. Register space and the rows that bring answers are in MgmtDmaRun.lean. -/

namespace Sys2Proof.Machine

/-! ## The data SRAM -/

/-- What a byte of the data SRAM that nothing has written reads (log entry 7). -/
def sramReset (_ : Nat) : Byte := 0

/-- Reading and writing the 256 KiB data SRAM of the Nyelle island (R364). -/
def State.sramRead (s : State) (addr n : Nat) : List Byte := (List.range n).map (fun i => mapGet sramReset s.ny.sram (addr + i))
def State.sramWrite (s : State) (addr : Nat) (l : List Byte) : State :=
  { s with ny := { s.ny with sram :=
      ((List.range l.length).foldl (fun m i => mapSet sramReset m (addr + i) (l.getD i 0)) s.ny.sram) } }

/-! ## Descriptors -/

/-- The fields of a descriptor (R352). -/
def mdSrc (d : List Byte) : Nat := leNat d 0 8
def mdDst (d : List Byte) : Nat := leNat d 8 8
def mdNext (d : List Byte) : Nat := leNat d 0x10 8
def mdLenWord (d : List Byte) : Nat := leNat d 0x18 4
def mdLen (d : List Byte) : Nat := mdLenWord d % 2 ^ 24
def mdCtl (d : List Byte) : Nat := leNat d 0x1C 4
def mdOp (d : List Byte) : Nat := bits (mdCtl d) 0 2
def mdSrcSpace (d : List Byte) : Nat := bits (mdCtl d) 2 2
def mdDstSpace (d : List Byte) : Nat := bits (mdCtl d) 4 2
def mdLast (d : List Byte) : Bool := bitN (mdCtl d) 6 == 1
def mdIrq (d : List Byte) : Bool := bitN (mdCtl d) 7 == 1
def mdWb (d : List Byte) : Bool := bitN (mdCtl d) 8 == 1
def mdHaltMiss (d : List Byte) : Bool := bitN (mdCtl d) 9 == 1

/-- Does a register region cover a register whose read acts for its reader's address (R351)? -/
def coversClaim (addr len : Nat) : Bool :=
  (List.range (len / 4)).any (fun i =>
    let o := addr + 4 * i
    (0x188000 ≤ o && o < 0x188820 && o % 32 == 0) || (0x148000 ≤ o && o < 0x150000 && o % 128 == 0x40) ||
    (0x150000 ≤ o && o < 0x154000 && o % 16 == 0))

/-- Does an operand keep the rules of its space (R350, R351)? -/
def operandOk (space addr len : Nat) : Bool :=
  match space with
  | 0 => addr + len ≤ 2 ^ 57
  | 1 => addr + len ≤ 0x40000
  | 2 => addr % 4 == 0 && len % 4 == 0 && addr + len ≤ 0x400000 && !coversClaim addr len
  | _ => false

/-- Do two regions overlap? -/
def overlap (a b len : Nat) : Bool := a < b + len && b < a + len

/-- Is a descriptor malformed (R355)? -/
def mdMalformed (d : List Byte) : Bool :=
  let op := mdOp d
  op == 3 || mdLen d == 0 || mdLenWord d / 2 ^ 24 != 0 || bits (mdCtl d) 10 14 != 0 || bits (mdCtl d) 24 8 != 0 ||
  bits (mdNext d) 0 5 != 0 || bits (mdNext d) 59 5 != 0 ||
  (op == 1 && (mdSrcSpace d != 0 || mdSrc d / 2 ^ 32 != 0)) ||
  (op != 1 && !operandOk (mdSrcSpace d) (mdSrc d) (mdLen d)) || !operandOk (mdDstSpace d) (mdDst d) (mdLen d) ||
  (op == 2 && (mdSrcSpace d == 2 || mdDstSpace d == 2)) ||
  (op == 0 && mdSrcSpace d == mdDstSpace d && overlap (mdSrc d) (mdDst d) (mdLen d)) ||
  (!mdLast d && (bits (mdNext d) 57 2 ≥ 2 || !operandOk (bits (mdNext d) 57 2) (mdNext d % 2 ^ 57) 32))

/-! ## A channel -/

def State.mdCh (s : State) (ch : Nat) : MdCh := mapGet (fun _ => {}) s.md ch
def State.setMd (s : State) (ch : Nat) (c : MdCh) : State := { s with md := mapSet (fun _ => {}) s.md ch c }
def State.mdState (s : State) (ch : Nat) : Nat := s.rd (MD_CH_STAT_STATE ch)

/-- The address and space of the current descriptor (`MD_CH_CUR`). -/
def State.mdCur (s : State) (ch : Nat) : Nat :=
  32 * s.rd (MD_CH_CUR_LO_ADDR_LO ch) + 2 ^ 32 * (s.rd (MD_CH_CUR_HI_ADDR_HI ch) % 2 ^ 25)
def State.mdCurSpace (s : State) (ch : Nat) : Nat := s.rd (MD_CH_CUR_HI_ADDR_HI ch) / 2 ^ 25

/-- `MD_CH_FAIL` takes an address and its space. -/
def State.mdFailAt (s : State) (ch addr space : Nat) : State :=
  (s.wr (MD_CH_FAIL_LO_ADDR_LO ch) addr).wr (MD_CH_FAIL_HI_ADDR_HI ch) (addr / 2 ^ 32 % 2 ^ 25 + 2 ^ 25 * space)

/-- Values a channel's failed or abandoned transfer took go back to their fields (R351). The channel reads as 300 + ch. -/
def State.mdAddBack (s : State) (ch : Nat) : State := s.failTransit (· == 300 + ch)

/-- The channel stops with a reason (R357): nothing further is issued but the write-back. -/
def State.mdStop (s : State) (ch reason : Nat) : State :=
  (s.wr (MD_CH_STAT_STATE ch) 2).wr (MD_CH_STAT_REASON ch) reason

/-- The channel enters `HALTED` (R357). -/
def State.mdHalt (s : State) (ch : Nat) : State :=
  (((s.wr (MD_CH_STAT_STATE ch) 3).setBit MD_EVT_HALT ch).setMd ch {}).bgDone 2 ch

/-- The channel reads a descriptor (R357): a request on the fabric, or the SRAM, whose answer `MD_DESCRIPTOR_READ` brings;
spaces 2 and 3 make the read fail. -/
def State.mdReadDesc (s : State) (ch addr space : Nat) : State :=
  let s := (s.wr (MD_CH_CUR_LO_ADDR_LO ch) (addr / 32)).wr (MD_CH_CUR_HI_ADDR_HI ch) (addr / 2 ^ 32 % 2 ^ 25 + 2 ^ 25 * space)
  let s := (s.setMd ch { phase := 1 }).bgBegin 2 ch
  if space = 0 then s.hostRead .mdDesc ch 0 addr 32 else s

/-- `START` (R357, R358). -/
def State.mdStart (s : State) (ch : Nat) : State :=
  if s.mdState ch = 1 ∨ s.mdState ch = 2 then s.bump MD_CFG_REJ_COUNT
  else
    let s := (s.wr (MD_CH_STAT_STATE ch) 1).wr (MD_CH_STAT_HOPS ch) 0
    s.mdReadDesc ch (32 * s.rd (MD_CH_DESC_LO_ADDR_LO ch) + 2 ^ 32 * s.rd (MD_CH_DESC_HI_ADDR_HI ch)) (s.rd (MD_CH_DESC_HI_SPACE ch))

/-- Write-back of bytes 0x18 to 0x1F of the current descriptor (R356). -/
def State.mdWriteBack (s : State) (ch : Nat) : State :=
  let c := s.mdCh ch
  let ctl := bits (mdCtl c.desc) 0 24 + 2 ^ 24 * c.status + 2 ^ 28 * b2n c.miss + 2 ^ 29 * bits (mdCtl c.desc) 29 2 + 2 ^ 31
  let data := leBytes 4 c.result ++ leBytes 4 ctl
  let addr := s.mdCur ch + 0x18
  let s := s.setMd ch { c with phase := 3, acc := some ⟨true, false, s.mdCurSpace ch, addr, 0, 8, data⟩ }
  if s.mdCurSpace ch = 0 then s.hostWrite .mdWb ch 0 addr data else s

/-- The streams of the channel see their unit begin, or end: a `FILL` has no stream of bytes read (R359). -/
def State.mdUnit (s : State) (ch : Nat) (start stop : Bool) : State :=
  let t := s.cuStream (1 + ch) start [] stop
  if mdOp (s.mdCh ch).desc = 1 then t else t.cuStream (9 + ch) start [] stop

/-- A descriptor ends before its time (R356, R357): values in transit go back, the streams' units end, and the write-back goes
out where `WB` asks for it. -/
def State.mdEndBad (s : State) (ch status result : Nat) : State :=
  let s := (s.mdAddBack ch).mdUnit ch false true
  let c := s.mdCh ch
  let s := s.setMd ch { c with status := status, result := result, acc := none }
  if mdWb c.desc then s.mdWriteBack ch else s.setMd ch { (s.mdCh ch) with phase := 0 }

/-- `ABORT` (R357, R358): outstanding accesses are awaited, then the write-back says `SQUASHED`. -/
def State.mdAbort (s : State) (ch : Nat) : State :=
  if s.mdState ch ≠ 1 then s.bump MD_CFG_REJ_COUNT
  else
    let s := s.mdStop ch 6
    let c := s.mdCh ch
    if c.phase = 2 ∧ c.acc.isNone then s.mdEndBad ch 5 (if mdOp c.desc = 1 ∨ mdOp c.desc = 0 then c.wr else min c.sr c.dr) else s

/-- A write of `MD_CH_CTRL[ch]` (R357, R358). -/
def State.mdCtrl (s : State) (ch v : Nat) : State :=
  let s := if bitN v 0 = 1 then s.mdStart ch else s
  if bitN v 1 = 1 then s.mdAbort ch else s

/-- Register writes of the management DMA (R358). -/
def State.mdRegWrite (s : State) (off v : Nat) : State :=
  if 0x1C0100 ≤ off ∧ off < 0x1C0300 then
    let ch := (off - 0x1C0100) / 64
    let r := (off - 0x1C0100) % 64
    if r = 8 then s.mdCtrl ch v
    else if (r = 0 || r = 4 || r = 0xC) && (s.mdState ch == 1 || s.mdState ch == 2) then s.bump MD_CFG_REJ_COUNT
    else s.writePlain off v
  else s.writePlain off v

/-- A write of `START` (R357). -/
def execMdStart (w : Who) (ch : Fin 8) (s : State) : Host.Outcome State Fault Refusal :=
  .next (s.guardWrite w (0x1C0108 + 64 * ch) (·.mdCtrl ch 1))

/-- A write of `ABORT` (R357). -/
def execMdAbort (w : Who) (ch : Fin 8) (s : State) : Host.Outcome State Fault Refusal :=
  .next (s.guardWrite w (0x1C0108 + 64 * ch) (·.mdCtrl ch 2))

/-- A `STOPPING` channel with every access answered, its write-back included, enters `HALTED` (R357). -/
def execMdStoppingDone (ch : Fin 8) (s : State) : Host.Outcome State Fault Refusal :=
  .next (if s.mdState ch = 2 ∧ (s.mdCh ch).phase = 0 ∧ s.islandUp 8 = true then s.mdHalt ch else s)

end Sys2Proof.Machine
end

