-- ==== Sys2Proof/Machine/Store.lean ====
section
/-! DEFINITION. Store port, image updates, Keyward, Keyring, fuses and hasp (R385 to R407). -/

namespace Sys2Proof.Machine

/-! ## Store port -/

/-- Count a refused store write (R387). -/
def State.stReject (s : State) : State := s.bump ST_REJ_COUNT

/-- A store transfer ends with a result (R386): `XFER_DONE` at every end, `XFER_ERR` at one that is not `OK` (log entry 9). -/
def State.stEnd (s : State) (result : Nat) : State :=
  let s := { s with kw := { s.kw with xfer := none } }
  let s := ((s.wr ST_XFER_STAT_BUSY 0).wr ST_XFER_STAT_RESULT result).raise ST_EVT_XFER_DONE
  if result = 0 then s else s.raise ST_EVT_XFER_ERR

/-- Is `OP` and `LEN` of a `GO` in range (R387)? -/
def stRange (op len : Nat) : Bool :=
  match op with
  | 1 => 1 ≤ len && len ≤ 4096
  | 2 => 1 ≤ len && len ≤ 256
  | 3 | 4 => true
  | _ => false

/-- Is the store read-only: no directory, or one whose geometry is not the SD's (R388)? -/
def State.stReadOnly (s : State) : Bool := s.is ST_STAT_NODIR || s.is ST_STAT_GEOM

/-- A write of `ST_XFER_CTRL` by master `m` (R387): a `GO` starts the transfer; a program that leaves its page or a region that
leaves the SRAM ends `BADARG` (log entry 9). A read-only store takes no program and no erase (R388, log entry 136). -/
def State.stXferCtrl (s : State) (m v : Nat) : State :=
  let op := bits v 0 3
  let len := bits v 4 13
  if m ≠ 256 then s.stReject
  else if bitN v 31 = 0 then s.writePlain 0x1E1018 v
  else if s.is ST_XFER_STAT_BUSY || !stRange op len || (s.stReadOnly && (op == 2 || op == 3)) then s.stReject
  else
    let addr := s.rd ST_XFER_ADDR_ADDR
    let off := s.rd ST_XFER_SRAM_OFF
    let s := (s.writePlain 0x1E1018 v).raise ST_XFER_STAT_BUSY
    if (op = 2 ∧ addr % 256 + len > 256) ∨ (op ≤ 2 ∧ off + len > 0x40000) then s.stEnd 2
    else { s with kw := { s.kw with xfer := some ⟨op, addr, off, len, s.mgNow⟩ } }

/-- The limit of a program or an erase in ticks (R386). -/
def State.stLimit (s : State) (op : Nat) : Nat := 1600000 * (if op = 2 then s.rd ST_TMO_PROG_MS else s.rd ST_TMO_ERASE_MS)

/-- `ST_STAT` shows the live sectors of the flash, and `WORN` where a ring has no spare left (R389). -/
def State.storeLive (s : State) : State :=
  let f := s.kw.flash
  let cfg := (liveSectors 1 f.cfg).length
  let log := (liveSectors 2 f.log).length
  let s := (s.wr ST_STAT_CFG_LIVE cfg).wr ST_STAT_LOG_LIVE log
  if (bootDir f).isSome ∧ (cfg ≤ ringMin f 1 ∨ log ≤ ringMin f 2) then (s.raise ST_STAT_WORN).raise ST_EVT_WORN else s

/-- A ring sector is retired (R389): its image is to be rewritten as a work unit of agent 7 (R382), which ends with the firmware's next report
(log entry 137). -/
def State.stRetire (s : State) (k i : Nat) : State :=
  ((({ s with kw := { s.kw with flash := flashRetire s.kw.flash k i } } : State).storeLive).raise ST_EVT_RETIRED).bgBegin 7 (256 * k + i)

/-- The sector size, as the SD or before it the directory gives it. -/
def State.sectorSize (s : State) : Nat := 2 ^ (if s.sys.sd.isSome then s.sdField 0x404 8 8 else sectorLog2 s.kw.flash)

/-- A program or an erase at `addr` has ended with a result (R386, R389): the flash holds what it reads back, a ring sector that has been
erased its new header, and one that failed is retired. -/
def State.stWritten (s : State) (op addr result : Nat) (back : List Byte) : State :=
  let f := s.kw.flash
  let at_ := if op = 3 then addr / s.sectorSize * s.sectorSize else addr
  let s := if result = 6 then s else { s with kw := { s.kw with flash := flashTake f at_ back } }
  match ringOf f addr with
  | none => s
  | some (k, i) =>
    if result ≠ 0 then s.stRetire k i
    else if op = 3 then ({ s with kw := { s.kw with flash := flashHeader f s.kw.flash k i } } : State).storeLive
    else s

/-- The transfer in progress ends as the flash answers (R386): a program or an erase goes on while status bit 0 is set, up to its limit; what
it reads back is compared, and a sector is checked for 0xFF as a whole. -/
def State.stDone (s : State) (a : StoreAnswer) : State :=
  match s.kw.xfer with
  | none => s
  | some x =>
    if x.op = 1 then
      let d := firstBytes a.data x.len
      ((s.sramWrite x.off d).cuStream 17 true d true).stEnd 0
    else if x.op = 4 then (s.wr ST_XFER_STAT_FLASH_SR a.status.toNat).stEnd 0
    else
      let late := a.timeout || decide (x.start + s.stLimit x.op < s.mgNow)
      let s := if late then s.advanceMg (x.start + s.stLimit x.op) else s
      let s := s.wr ST_XFER_STAT_FLASH_SR a.status.toNat
      if !late && a.status.getLsbD 0 then s
      else if x.op = 2 then
        let d := s.sramRead x.off x.len
        let s := s.cuStream 18 true d true
        let r := if late then 6 else if firstBytes a.data x.len = d then 0 else 4
        (s.stWritten 2 x.addr r (firstBytes a.data x.len)).stEnd r
      else
        let r := if late then 6 else if a.data.length = s.sectorSize ∧ a.data.all (· == 0xFF) = true then 0 else 4
        (s.stWritten 3 x.addr r a.data).stEnd r

/-- A write of `ST_UPD_CMD` (R396): `GO` raises the firmware's mailbox event. -/
def State.stUpdCmd (s : State) (v : Nat) : State :=
  if bitN v 31 = 0 then s.writePlain 0x1E103C v
  else if s.is ST_UPD_STAT_BUSY then s.stReject
  else
    let s := (s.writePlain 0x1E103C v).raise ST_UPD_STAT_BUSY
    { s with kw := { s.kw with mailbox := true } }

/-- The end of an update (R397): status, detail and bank. -/
def State.updEnd (s : State) (status detail bank : Nat) : State :=
  let s := { s with kw := { s.kw with mailbox := false } }
  ((((s.wr ST_UPD_STAT_STATUS status).wr ST_UPD_STAT_DETAIL detail).wr ST_UPD_STAT_BANK bank).wr ST_UPD_STAT_BUSY 0).raise
    ST_EVT_UPD_DONE

/-- The firmware selects configuration (R392, R393). Firmware of the ROM uses the factory defaults. -/
def State.cfgSelect (s : State) (rom : Bool) : State :=
  let cfg := if rom then none else bootCfg s.kw.flash
  let s := s.wr ST_STAT_CFG_SRC (match cfg with
    | some c => min 1 (imgBank c)
    | none => 2)
  let s := (s.put ST_CTRL_DEFAULTS cfg.isNone).put SYS_STATE_DEFAULTS_USED cfg.isNone
  if (bootCfg s.kw.flash).isNone then s.raise ST_EVT_DEFAULTS else s

/-- Is the store read-only for the image of the running update: as a whole, or a configuration ring below its minimum (R388, R389)? -/
def State.updBarred (s : State) : Bool :=
  s.stReadOnly || (s.rd ST_UPD_CMD_KIND == 2 && (liveSectors 1 s.kw.flash.cfg).length < ringMin s.kw.flash 1)

/-- The status and detail with which an update ends, from what the firmware reports (R388, R389, R397, R406). -/
def State.updStatus (s : State) (status detail : Nat) : Nat × Nat :=
  if s.is KW_STAT_HASP_OPENED then (1, 5)
  else if status = 0 ∧ s.updBarred = true then (1, 4)
  else (status, detail)

/-- A write of `ST_UPD_FW` by master `m` (R387, R397). The sequence number reported is the firmware's. A configuration update that has ended
`OK` has configuration selected anew (R398). -/
def State.stUpdFw (s : State) (m v seq : Nat) : State :=
  if m ≠ 256 then s.stReject
  else
    let r := s.updStatus (bits v 0 4) (bits v 8 3)
    let s := if r.1 = 0 then s.wr ST_UPD_SEQ_SEQ seq else s
    let s := s.updEnd r.1 r.2 (bitN v 12)
    if s.rd ST_UPD_CMD_KIND = 2 then s.cfgSelect (s.rd ST_STAT_FW_SRC == 2) else s

/-- Store settings of the first SD (R386), and the directory's geometry held against it (R388). -/
def State.storeApply (s : State) : State :=
  let mhz := max 1 (s.sdField 0x404 16 8)
  let s := ((s.wr ST_CFG_DIV (max 7 ((800 + mhz - 1) / mhz))).wr ST_CFG_ADDR4 (s.sdField 0x404 24 1)).wr ST_CFG_QUAD 1
  match bootDir s.kw.flash with
  | some d => if byteAt d 6 = s.sdField 0x404 0 8 ∧ byteAt d 7 = s.sdField 0x404 8 8 then s else (s.raise ST_STAT_GEOM).raise ST_EVT_GEOM
  | none => s

/-- A write of `ST_STAT`, in which the firmware reports: the events that go with what it reports are set (R388, R389, R393; log entry 115), a
ring that it reports at its minimum is worn, and relocations in progress have ended (log entry 137). -/
def State.stStat (s : State) (v : Nat) : State :=
  let t := s.writePlain 0x1E1004 v
  let t := t.each (s.ny.bgUnits.filter (·.agent == 7)) (fun t u => t.bgDone 7 u.unit)
  let t := if (bootDir s.kw.flash).isSome ∧ (t.rd ST_STAT_CFG_LIVE ≤ ringMin s.kw.flash 1 ∨ t.rd ST_STAT_LOG_LIVE ≤ ringMin s.kw.flash 2) then
    t.raise ST_STAT_WORN else t
  let rose (f : Fld) : Bool := t.is f && !s.is f
  let t' := if rose ST_STAT_WORN then t.raise ST_EVT_WORN else t
  let t' := if rose ST_STAT_GEOM then t'.raise ST_EVT_GEOM else t'
  let t' := if t.rd ST_STAT_CFG_LIVE < s.rd ST_STAT_CFG_LIVE ∨ t.rd ST_STAT_LOG_LIVE < s.rd ST_STAT_LOG_LIVE then t'.raise ST_EVT_RETIRED else t'
  if t.rd ST_STAT_CFG_SRC = 2 ∧ s.rd ST_STAT_CFG_SRC ≠ 2 then t'.raise ST_EVT_DEFAULTS else t'

/-- Register writes of the store (R387). -/
def State.stWrite (s : State) (off m v : Nat) : State :=
  if off = 0x1E1018 then s.stXferCtrl m v
  else if off = 0x1E103C then s.stUpdCmd v
  else if off = 0x1E1048 then s.stUpdFw m v (s.rd ST_UPD_SEQ_SEQ)
  else if (off = 0x1E1000 ∨ off = 0x1E1004 ∨ off = 0x1E1008 ∨ off = 0x1E1010 ∨ off = 0x1E1014 ∨ off = 0x1E101C) ∧ m ≠ 256 then s.stReject
  else if off = 0x1E1004 then s.stStat v
  else
    let s := s.writePlain off v
    if off = 0x1E1008 then s.wr SYS_STATE_DEFAULTS_USED (s.rd ST_CTRL_DEFAULTS) else s

/-- The control word of a transfer with `GO`. -/
def stGo (op len : Nat) : Nat := op + 16 * len + 2 ^ 31

/-- `ST_XFER` operations 1 to 4 (R387). -/
def execStoreRead (w : Who) (len : BitVec 13) (s : State) : Host.Outcome State Fault Refusal :=
  .next (s.guardWrite w 0x1E1018 (·.stXferCtrl w.master (stGo 1 len.toNat)))

/-- A page program (R386, R387). -/
def execStoreProgram (w : Who) (len : BitVec 13) (s : State) : Host.Outcome State Fault Refusal :=
  .next (s.guardWrite w 0x1E1018 (·.stXferCtrl w.master (stGo 2 len.toNat)))

/-- A sector erase (R386, R387). -/
def execStoreErase (w : Who) (s : State) : Host.Outcome State Fault Refusal :=
  .next (s.guardWrite w 0x1E1018 (·.stXferCtrl w.master (stGo 3 0)))

/-- A read of the flash status byte (R387). -/
def execStoreReadStatus (w : Who) (s : State) : Host.Outcome State Fault Refusal :=
  .next (s.guardWrite w 0x1E1018 (·.stXferCtrl w.master (stGo 4 0)))

/-- The end of a store transfer (R386). -/
def execStoreXferDone (a : StoreAnswer) (s : State) : Host.Outcome State Fault Refusal := .next (if s.islandUp 8 then s.stDone a else s)

/-- The start of an image update (R396). -/
def execUpdateGo (w : Who) (kind : BitVec 2) (s : State) : Host.Outcome State Fault Refusal :=
  .next (s.guardWrite w 0x1E103C (·.stUpdCmd (kind.toNat + 2 ^ 31)))

/-- The firmware's result of an update (R397). -/
def execUpdateResult (w : Who) (v seq : Word) (s : State) : Host.Outcome State Fault Refusal :=
  .next (s.guardWrite w 0x1E1048 (·.stUpdFw w.master v.toNat seq.toNat))

/-! ## Firmware selection -/

/-- The key of a slot as bytes. -/
def State.slotKey (s : State) (n : Nat) : List Byte :=
  leBytes (if s.bit KW_KEY_STAT_IS256 n then 32 else 16) (mapGet (fun _ => 0) s.kw.keys n)

/-- The key images authenticate under: slot 0, as long as it is valid and the hasp has not opened (R391, R399, R403, R406). -/
def State.bootKey (s : State) : Option (List Byte) :=
  if s.bit KW_KEY_STAT_VALID 0 && !s.is KW_STAT_HASP_OPENED then some (s.slotKey 0) else none

/-- The watchdog's count begins anew (R367). -/
def State.wdtRestart (s : State) : State :=
  let wdt : Timer := if s.is NY_CTRL_WDT_EN && !s.is NY_STAT_HALTED then ⟨0, some s.mgNow⟩ else {}
  { s with ny := { s.ny with wdt := wdt } }

/-- What the firmware reports of the store as it starts (R388, R389): no directory, live sectors, and a ring that has no spare left. -/
def State.bootStore (s : State) : State :=
  let s := (s.put ST_STAT_NODIR (bootDir s.kw.flash).isNone).storeLive
  match bootDir s.kw.flash with
  | some d => s.wr ST_CFG_ERASE_OP (byteAt d 8)
  | none => s

/-- The boot ROM loads the instruction SRAM from 0 on (R392). -/
def State.codeLoad (s : State) (l : List Byte) : State :=
  { s with ny := { s.ny with isram := (List.range l.length).foldl (fun m i => mapSet sramReset m i (l.getD i 0)) s.ny.isram } }

/-- The boot ROM selects firmware and the firmware its configuration (R392, R393, R406): the newest valid image runs, an unconfirmed one under
the watchdog and at the cost of an attempt, with its two images in the SRAMs from 0 on (R390); where none is valid, the ROM's own firmware
with the factory defaults. -/
def State.bootSelect (s : State) (b : Boot) : State :=
  let key := s.bootKey
  let fw := bootFw key b
  let s := { s with kw := { s.kw with flash := match fw with
    | some f => bootUsed b f
    | none => b } }
  let s := (s.codeLoad ((fw.map imgCode).getD [])).sramWrite 0 ((fw.map imgData).getD [])
  let s := s.bootStore.wr ST_STAT_FW_SRC (match fw with
    | some f => imgBank f
    | none => 2)
  let s := if (fw.map imgUnconfirmed).getD false then (s.wr NY_WDT_WDT_US 100000).raise NY_CTRL_WDT_EN else s
  let s := if bootPassed key b then s.raise ST_EVT_FW_FALLBACK else s
  (s.cfgSelect fw.isNone).wdtRestart

/-! ## Keyward -/

/-- Count a refused Keyward access (R399). -/
def State.kwReject (s : State) : State := s.bump KW_REJ_COUNT

/-- A running operation ends at once with an error (R399, R402, R405). -/
def State.kwEndBad (s : State) (err : Nat) : State :=
  match s.kw.op with
  | none => s
  | some _ =>
    (({ s with kw := { s.kw with op := none } } : State).wr KW_STAT_BUSY 0).wr KW_STAT_ERR err

/-- The error that refuses a `START`, zero where it is accepted (R399): once the hasp has opened, slot 0, which is empty from then on, shows 5
(log entry 138). -/
def State.kwStartErr (s : State) : Nat :=
  let len := s.rd KW_LEN_LEN
  if s.is KW_STAT_BUSY || len == 0 || (s.rd KW_CFG_PAD == 0 && len % 16 != 0) then 1
  else if s.is KW_STAT_HASP_OPENED && s.rd KW_CFG_SLOT == 0 then 5
  else if !s.bit KW_KEY_STAT_VALID (s.rd KW_CFG_SLOT) then 2
  else if !s.is KW_STAT_RNG_OK then 3
  else 0

/-- `START` (R399, R401): every one clears `TRUST`. -/
def State.kwStart (s : State) : State :=
  let s := s.wr KW_STAT_TRUST 0
  let e := s.kwStartErr
  if e ≠ 0 then s.wr KW_STAT_ERR e
  else
    let len := s.rd KW_LEN_LEN
    let s := ((s.raise KW_STAT_BUSY).wr KW_STAT_ERR 0).wr KW_STAT_TAG_DONE 0
    ({ s with kw := { s.kw with op := some ⟨s.slotKey (s.rd KW_CFG_SLOT), s.is KW_CFG_DIR, s.rd KW_CFG_PAD, len, (len + 15) / 16⟩ } } :
      State).cuStream 39 true [] false

/-- A write of `KW_CTRL` by master `m`. -/
def State.kwCtrl (s : State) (m v : Nat) : State :=
  if m ≠ 256 then s.kwReject
  else
    let s := if bitN v 0 = 1 then s.kwStart else s
    if bitN v 1 = 1 then (if s.kw.op.isSome then (s.kwEndBad 4).cuStream 39 false [] true else s) else s

/-- A write of `KW_DIN` by master `m` (R399). -/
def State.kwDin (s : State) (m v : Nat) : State :=
  if m ≠ 256 ∨ s.kw.din.length ≥ 8 then s.kwReject
  else { s with kw := { s.kw with din := s.kw.din ++ [v] } }

/-- A read of `KW_DOUT`: the word and what it does (R399). -/
def State.kwDout (s : State) : Nat × State :=
  match s.kw.dout with
  | [] => (0, s.kwReject)
  | v :: r => (v, { s with kw := { s.kw with dout := r } })

/-- Pad a final partial block (R399). -/
def kwPad (pad : Nat) (l : List Byte) : List Byte :=
  let n := 16 - l.length
  if n = 0 then l
  else l ++ (match pad with
    | 2 => 0x80 :: List.replicate (n - 1) 0
    | 3 => List.replicate n (BitVec.ofNat 8 n)
    | _ => List.replicate n 0)

/-- One block through AES. -/
def kwBlock (o : KwOp) (l : List Byte) : List Byte :=
  let k := o.key.map (·.toNat)
  let b := l.map (·.toNat)
  (if o.decrypt then aesDecrypt k b else aesEncrypt k b).map (BitVec.ofNat 8)

/-- The operation is over (R401): the tag is compared where `TAG_CHK` asks for it. -/
def State.kwFinish (s : State) (out : List Byte) : State :=
  let n := if s.rd KW_CFG_TAG_LEN = 0 then 16 else s.rd KW_CFG_TAG_LEN
  let tag := ((List.range 4).map (fun w => leBytes 4 (s.rd (KW_TAG_TAG w)))).flatten
  let ok := s.is KW_CFG_TAG_CHK && out.take n == tag.take n
  let s := { s with kw := { s.kw with op := none } }
  let s := (((s.wr KW_STAT_BUSY 0).put KW_STAT_TRUST ok).raise KW_STAT_TAG_DONE).raise KW_EVT_OP_DONE
  let s := s.cuStream 39 false [] true
  if s.is KW_CFG_TAG_CHK && !ok then s.raise KW_EVT_TAG_FAIL else s

/-- The next block completes (R399, R400): it needs its input words, and room for four output words. -/
def State.kwBlockDone (s : State) : State :=
  match s.kw.op with
  | none => s
  | some o =>
    let n := min 16 o.left
    let words := (n + 3) / 4
    if o.blocks = 0 || s.kw.din.length < words || s.kw.dout.length > 4 then s
    else
      let bytes := (((s.kw.din.take words).map (leBytes 4)).flatten).take n
      let out := kwBlock o (kwPad o.pad bytes)
      let ow := (List.range 4).map (fun i => leNat out (4 * i) 4)
      let o := { o with left := o.left - n, blocks := o.blocks - 1 }
      let s := { s with kw := { s.kw with din := s.kw.din.drop words, dout := s.kw.dout ++ ow, op := some o } }
      let s := s.cuStream 39 false out false
      if o.blocks = 0 then s.kwFinish out else s

/-- `KW_CTRL.START` (R399). -/
def execKwStart (w : Who) (s : State) : Host.Outcome State Fault Refusal :=
  .next (s.guardWrite w 0x1E2008 (·.kwCtrl w.master 1))

/-- `KW_CTRL.ABORT` (R399). -/
def execKwAbort (w : Who) (s : State) : Host.Outcome State Fault Refusal :=
  .next (s.guardWrite w 0x1E2008 (·.kwCtrl w.master 2))

/-- A write of `KW_DIN` (R399). -/
def execKwDinWrite (w : Who) (v : Word) (s : State) : Host.Outcome State Fault Refusal :=
  .next (s.guardWrite w 0x1E2010 (·.kwDin w.master v.toNat))

/-- A read of `KW_DOUT` (R399). -/
def execKwDoutRead (w : Who) (s : State) : Host.Outcome State Fault Refusal :=
  .next (s.guardRead w 0x1E2014 (·.kwDout))

/-- A block completes (R400). -/
def execKeywardBlockDone (s : State) : Host.Outcome State Fault Refusal := .next (if s.islandUp 8 then s.kwBlockDone else s)

/-- A health test of the entropy source fails (R402). -/
def execRngFail (s : State) : Host.Outcome State Fault Refusal :=
  .next (
    if !s.islandUp 8 then s
    else
    let s := (s.wr KW_STAT_RNG_OK 0).raise KW_EVT_RNG_FAIL
    if s.kw.op.isSome then
      (({ s with kw := { s.kw with dout := [] } } : State).kwEndBad 3).wr KW_STAT_TRUST 0 |>.cuStream 39 false [] true
    else { s with kw := { s.kw with dout := [] } })

/-- 4,096 samples in a row pass both tests (R402). -/
def execRngOkReturn (s : State) : Host.Outcome State Fault Refusal := .next (if s.islandUp 8 then s.raise KW_STAT_RNG_OK else s)

/-! ## Keyring and fuses -/

/-- Are key and fuse writes refused for the hasp: from the request's rise while it stands (R405)? -/
def State.haspBars (s : State) : Bool := s.is KW_HASP_REQ || s.is KW_HASP_GNT

/-- Load a slot: the key, its validity and its width (R403). -/
def State.loadSlot (s : State) (n key : Nat) (wide : Bool) : State :=
  let s := { s with kw := { s.kw with keys := mapSet (fun _ => 0) s.kw.keys n key } }
  (s.setBit KW_KEY_STAT_VALID n).putBit KW_KEY_STAT_IS256 n wide

/-- Zeroise a slot (R403). -/
def State.zeroSlot (s : State) (n : Nat) : State :=
  let s := { s with kw := { s.kw with keys := mapErase n s.kw.keys } }
  (s.clrBit KW_KEY_STAT_VALID n).clrBit KW_KEY_STAT_IS256 n

/-- The key staged in `KW_KEY_DATA`. -/
def State.keyData (s : State) (words : Nat) : Nat :=
  (List.range words).foldl (fun a w => a + 2 ^ (32 * w) * s.rd (KW_KEY_DATA_KEY w)) 0

/-- A write of `KW_KEY_CTRL` by master `m` (R399, R403, R405): any command among its bits that is refused refuses the write. -/
def State.keyCtrl (s : State) (m v : Nat) : State :=
  let n := bits v 0 3
  let wide := bitN v 3 == 1
  if m ≠ 256 then s.kwReject
  else if bits v 4 3 = 0 then s.writePlain 0x1E2060 v
  else if n == 0 || s.haspBars || ((bitN v 4 == 1 || bitN v 5 == 1) && (s.is KW_STAT_BUSY || s.bit KW_KEY_STAT_LOCKED n)) then
    s.kwReject
  else
    let s := s.writePlain 0x1E2060 v
    let s := if bitN v 4 = 1 then s.loadSlot n (s.keyData (if wide then 8 else 4)) wide else s
    let s := if bitN v 5 = 1 then s.zeroSlot n else s
    if bitN v 6 = 1 then s.setBit KW_KEY_STAT_LOCKED n else s

/-- `KW_FUSE_CTRL.PROG` by master `m` (R404). -/
def State.fuseProg (s : State) (m v : Nat) : State :=
  if m ≠ 256 then s.kwReject
  else if bitN v 0 = 0 then s
  else if s.rd SYS_STATE_MODE != 2 || s.kw.fuseLock || s.haspBars || s.is KW_FUSE_CTRL_PROG_BUSY then s.kwReject
  else
    let d := (List.range 8).foldl (fun a w => a + 2 ^ (32 * w) * s.rd (KW_FUSE_DATA_FUSE w)) 0
    ({ s with kw := { s.kw with fuseNew := d } } : State).raise KW_FUSE_CTRL_PROG_BUSY

/-- Register writes of Keyward (R399, R405). The write-only staging words are kept; a read of them returns zero. -/
def State.kwWrite (s : State) (off m v : Nat) : State :=
  if off = 0x1E2008 then s.kwCtrl m v
  else if off = 0x1E2010 then s.kwDin m v
  else if off = 0x1E2060 then s.keyCtrl m v
  else if off = 0x1E20A0 then s.fuseProg m v
  else if m ≠ 256 then (if fieldsAt off = [] then s else s.kwReject)
  else if 0x1E2040 ≤ off ∧ off < 0x1E2060 then
    (if s.haspBars then s.kwReject else s.wr (KW_KEY_DATA_KEY ((off - 0x1E2040) / 4)) v)
  else if 0x1E2080 ≤ off ∧ off < 0x1E20A0 then
    (if s.haspBars then s.kwReject else s.wr (KW_FUSE_DATA_FUSE ((off - 0x1E2080) / 4)) v)
  else s.writePlain off v

/-- `KW_KEY_CTRL.WRITE` (R403). -/
def execKeyWrite (w : Who) (n : Fin 8) (wide : Bool) (s : State) : Host.Outcome State Fault Refusal :=
  .next (s.guardWrite w 0x1E2060 (·.keyCtrl w.master (n + 8 * b2n wide + 16)))

/-- `KW_KEY_CTRL.ZERO` (R403). -/
def execKeyZero (w : Who) (n : Fin 8) (s : State) : Host.Outcome State Fault Refusal :=
  .next (s.guardWrite w 0x1E2060 (·.keyCtrl w.master (n + 32)))

/-- `KW_KEY_CTRL.LOCK` (R403). -/
def execKeyLock (w : Who) (n : Fin 8) (s : State) : Host.Outcome State Fault Refusal :=
  .next (s.guardWrite w 0x1E2060 (·.keyCtrl w.master (n + 64)))

/-- `KW_FUSE_CTRL.PROG` (R404). -/
def execFuseProg (w : Who) (s : State) : Host.Outcome State Fault Refusal :=
  .next (s.guardWrite w 0x1E20A0 (·.fuseProg w.master 1))

/-- The end of fuse programming (R404): the fuses hold the data and `FUSE_LOCK` is blown. -/
def execFuseProgDone (s : State) : Host.Outcome State Fault Refusal :=
  .next (
    if s.is KW_FUSE_CTRL_PROG_BUSY && s.islandUp 8 then
      ((({ s with kw := { s.kw with fuses := s.kw.fuseNew, fuseLock := true } } : State).wr KW_FUSE_CTRL_PROG_BUSY 0).raise
        KW_FUSE_CTRL_FUSE_LOCK).raise KW_STAT_FUSED
    else s)

/-! ## The hasp -/

/-- The zeroise of the hasp (R405): the Keyring slots, the staging words and `KW_TAG`. -/
def State.zeroise (s : State) : State :=
  let s := { s with kw := { s.kw with keys := [] } }
  let s := s.each (List.range 8) (fun s n => ((s.zeroSlot n).wr (KW_KEY_DATA_KEY n) 0).wr (KW_FUSE_DATA_FUSE n) 0)
  s.each (List.range 4) (fun s n => s.wr (KW_TAG_TAG n) 0)

/-- Does its verify find every word zero? -/
def State.zeroised (s : State) : Bool :=
  s.kw.keys.isEmpty && (List.range 8).all (fun n => s.rd (KW_KEY_DATA_KEY n) == 0 && s.rd (KW_FUSE_DATA_FUSE n) == 0) &&
  (List.range 4).all (fun n => s.rd (KW_TAG_TAG n) == 0)

/-- The synchronised rise of `HASP_REQ` (R405): Keyward's work ends, and the keys and the staging words are zeroised. -/
def State.haspRise (s : State) : State :=
  let s := if s.kw.op.isSome then (s.kwEndBad 5).cuStream 39 false [] true else s
  let s := { s with kw := { s.kw with din := [], dout := [], haspServe := true } }
  (((s.wr KW_STAT_TRUST 0).raise KW_HASP_REQ).raise KW_EVT_HASP_REQ).zeroise

/-- A rise of `HASP_REQ` (R405, R406): ignored while `BLK_RST_N` is low or the management island does not run. -/
def execHaspReqRise (s : State) : Host.Outcome State Fault Refusal :=
  .next (
    let s := { s with kw := { s.kw with haspPin := true } }
    if s.islandUp 8 then s.haspRise else s)

/-- The zeroise verify ends (R405): the grant where it passed, unless the block sleeps (R417); a word that is not zero is zeroised again. -/
def execHaspGrant (s : State) : Host.Outcome State Fault Refusal :=
  .next (
    if s.kw.haspServe && s.kw.haspPin && s.islandUp 8 && s.rd PW_STAT_STATE ≤ 1 then
      if !s.zeroised then s.zeroise
      else ({ s with kw := { s.kw with haspServe := false } } : State).raise KW_HASP_GNT |>.raise KW_STAT_HASP_OPENED
        |>.raise KW_EVT_HASP_OPEN |>.raise KW_EVT_ZEROISED |>.bump KW_HASP_OPEN_CNT
    else s)

/-- A fall of `HASP_REQ` (R405). -/
def execHaspReqFall (s : State) : Host.Outcome State Fault Refusal :=
  .next (
    let s := { s with kw := { s.kw with haspPin := false, haspServe := false } }
    if s.islandUp 8 then ((s.wr KW_HASP_REQ 0).wr KW_HASP_GNT 0).raise KW_EVT_HASP_CLOSED else s)

end Sys2Proof.Machine
end

