-- ==== Sys2Proof/Machine/Time.lean ====
section
/-! DEFINITION. Time base, references, holdover and the step of the counter (R315 to R331). The boundary at which a step takes
effect is in Clockwork.lean, since the ledger, the gates and the per-second latch see it too. -/

namespace Sys2Proof.Machine

/-- `TIME_REF` of the SD in force (R320). -/
def State.timeRef (s : State) : Nat := s.sdField 0x01C 8 2

/-- A 16- or 32-bit field read as a two's-complement number. -/
def signed (w v : Nat) : Int := if v < 2 ^ (w - 1) then v else (v : Int) - 2 ^ w

/-- A signed number as a 32-bit field. -/
def unsigned32 (v : Int) : Nat := (v % 2 ^ 32).toNat

/-- `HOLDOVER` is the OR of its four conditions, and each change of it sets `HOLD_CHG` (R323); a measurement of the always-on tick begins anew (R330). -/
def State.refreshHold (s : State) : State :=
  let h := s.is TM_STAT_UNSET || s.is TM_STAT_PPS_HOLD || s.is TM_STAT_SLEEP_HOLD || s.is TM_CTRL_SW_HOLD
  if s.is TM_STAT_HOLDOVER == h then s
  else ((({ s with tm := { s.tm with aonFrom := none, aonTicks := none } } : State).keep 0x17002C).put TM_STAT_HOLDOVER h).raise TM_EVT_HOLD_CHG

/-- Is time in holdover (R323)? -/
def State.holdover (s : State) : Bool := s.is TM_STAT_HOLDOVER

/-- Was it at a tick? -/
def State.holdoverAt (s : State) (t : Nat) : Bool := bitN (s.wasAt 0x17002C t) TM_STAT_HOLDOVER.lo == 1

/-- The counter's course changes: it is remembered as it came to this tick. -/
def State.timeBreak (s : State) : State :=
  { s with tm := { s.tm with breaks := s.tm.breaks.filter (fun e => s.tm.tick < e.1 + pastTicks) ++ [(s.tm.tick, s.tm.now, s.tm.incr)] } }

/-- The counter's value at a tick past. -/
def State.timeAt (s : State) (t : Nat) : Int := match s.tm.breaks.find? (fun e => decide (t < e.1)) with
  | some e => (e.2.1 : Int) - (e.1 - t : Nat) * e.2.2
  | none => (s.tm.now : Int) - (s.tm.tick - t : Nat) * s.tm.incr

/-! ## Steps -/

/-- Make a step pending: it takes effect at the first realignment boundary at least 1,024 core cycles later (R318). -/
def State.startStep (s : State) (k : StepKind) (v : Int) : State :=
  { s with tm := { s.tm with step := some ⟨k, v, s.tm.cyc + 1024⟩ } }.raise TM_STAT_BUSY

/-- The counter value a step leads to. -/
def stepTarget (now : Nat) (p : TmStep) : Nat :=
  match p.kind with
  | .set | .sleep => (p.value % timeMod).toNat
  | .tod => ((p.value * secUnits + (now % secUnits : Nat)) % timeMod).toNat
  | .offset | .auto => (((now : Int) + p.value) % timeMod).toNat

/-- The pending step takes effect in the core and every slice at once (R318): the counter moves, `BUSY` falls, the next PPS
edge is accepted whenever it comes, a `SET` or a time-of-day load clears `UNSET`, and the advance after sleep sets `SLEEP_HOLD` and `TM_SLEEP_*`
(R331). -/
def State.stepEffect (s : State) (p : TmStep) : State :=
  let now := stepTarget s.tm.now p
  let s := s.timeBreak
  let s := { s with tm := { s.tm with now := now, step := none, firstEdge := true, ppsRef := now, secDone := secOf now } }
  let s := (s.wr TM_STAT_BUSY 0).raise TM_EVT_STEP
  let s := match p.kind with
    | .set | .tod => s.wr TM_STAT_UNSET 0
    | .sleep => (({ s with tm := { s.tm with latchV := none } } : State).wr64 TM_SLEEP_LO_NS TM_SLEEP_HI_NS
        ((p.value - (s.tm.latchV.getD (0, 0)).1).toNat / 2 ^ 32 % 2 ^ 64)).raise TM_STAT_SLEEP_HOLD
    | _ => s
  (if s.timeRef = 0 then { s with tm := { s.tm with aonFrom := none } } else s).refreshHold

/-- Does the load of the advance after sleep still wait, so that no frame is stamped, no gate changes and no cut is taken (R331)? -/
def State.sleepLoad (s : State) : Bool := s.tm.latchV.isSome

/-- Is a step pending that a software command does not replace (R318)? -/
def State.stepHeld (s : State) : Bool :=
  match s.tm.step with
  | some p => p.kind != .auto
  | none => false

/-- A write of `TM_CMD` (R318, R323): more than one command is refused, a write while `BUSY` is set is ignored, both counted;
a software step replaces a pending automatic one. -/
def State.tmCmd (s : State) (v : Nat) : State :=
  if s.stepHeld then s.bump TM_CFG_REJ_COUNT
  else if v % 8 = 0 then s
  else if popCount v 3 ≠ 1 then s.bump TM_CFG_REJ_COUNT
  else if bitN v 0 = 1 then
    if s.rd TM_SET_NS_NS > 999999999 then s.bump TM_CFG_REJ_COUNT
    else s.startStep .set
      ((s.rd TM_SET_S_LO_S_LO + 2 ^ 32 * s.rd TM_SET_S_HI_S_HI) * secUnits + s.rd TM_SET_NS_NS * 2 ^ 32 : Nat)
  else if bitN v 1 = 1 then s.startStep .offset (signed 32 (s.rd TM_OFFSET_NS) * 2 ^ 32)
  else if s.is TM_STAT_BUSY then s.bump TM_CFG_REJ_COUNT
  else (s.wr TM_STAT_SLEEP_HOLD 0).refreshHold

/-- A write of `TM_INCR` (R316). -/
def State.tmIncr (s : State) (v : Nat) : State :=
  if 2681670206 ≤ v ∧ v ≤ 2687038914 then s.wr TM_INCR_INCR v else s.bump TM_CFG_REJ_COUNT

/-- A write of `TM_CTRL`: setting `PPS_EN` makes the next edge the first one (R321), and `SW_HOLD` acts on `HOLDOVER` (R323). The 1.1 s of
R320 run on from the last edge or step. -/
def State.tmCtrl (s : State) (v : Nat) : State :=
  let was := s.is TM_CTRL_PPS_EN
  let s := s.writePlain 0x170000 v
  let s := if s.is TM_CTRL_PPS_EN && !was then { s with tm := { s.tm with firstEdge := true } } else s
  s.refreshHold

/-- Register writes of the time region. -/
def State.tmWrite (s : State) (off v : Nat) : State :=
  if off = 0x170000 then s.tmCtrl v
  else if off = 0x170004 then s.tmIncr v
  else if off = 0x170028 then s.tmCmd v
  else if 0x170100 ≤ off ∧ off < 0x170180 then s.writeKept off v
  else s.writePlain off v

/-- `TM_CMD.SET` (R318). -/
def execTmSet (w : Who) (s : State) : Host.Outcome State Fault Refusal :=
  .next (s.guardWrite w 0x170028 (·.tmCmd 1))

/-- `TM_CMD.OFFSET` (R318). -/
def execTmOffset (w : Who) (s : State) : Host.Outcome State Fault Refusal :=
  .next (s.guardWrite w 0x170028 (·.tmCmd 2))

/-- `TM_CMD.RELOCK` (R323). -/
def execTmRelock (w : Who) (s : State) : Host.Outcome State Fault Refusal :=
  .next (s.guardWrite w 0x170028 (·.tmCmd 4))

/-- A write of `TM_INCR` (R316). -/
def execTmIncrWrite (w : Who) (v : Word) (s : State) : Host.Outcome State Fault Refusal :=
  .next (s.guardWrite w 0x170004 (·.tmIncr v.toNat))

/-! ## Reads -/

/-- A read of `TM_NOW_FRAC` captures the whole counter (R319). -/
def State.timeCapture (s : State) : State :=
  (((s.wr TM_NOW_FRAC_FRAC (fracOf s.tm.now)).wr TM_NOW_NS_NS (nsOf s.tm.now)).wr TM_NOW_S_LO_S_LO (secOf s.tm.now)).wr
    TM_NOW_S_HI_S_HI (secOf s.tm.now / 2 ^ 32)

/-- A 32-bit read of `TM_NOW_FRAC` (R319). -/
def execTimeCaptureRead (w : Who) (s : State) : Host.Outcome State Fault Refusal :=
  .next (s.guardRead w 0x170008 (fun s => (fracOf s.tm.now, s.timeCapture)))

/-! ## References -/

/-- The value captured for an edge in this cycle: less two cycles of the synchroniser and `PPS_CORR` (R321). -/
def State.edgeValue (s : State) : Nat :=
  (((s.tm.now : Int) - 2 * s.tm.incr - signed 16 (s.rd TM_PPS_CFG_PPS_CORR) * 2 ^ 32) % timeMod).toNat

/-- Captured time less the nearest whole second, in signed nanoseconds, rounded down (R321). -/
def edgeError (t : Nat) : Int :=
  let r := t % secUnits
  (if 2 * r ≥ secUnits then (r : Int) - secUnits else r) / 2 ^ 32

/-- Is an edge accepted (R321): the first one, or 0.999 s to 1.001 s after the last accepted one? -/
def State.edgeAccepted (s : State) (t : Nat) : Bool :=
  s.is TM_CTRL_PPS_EN && (s.tm.firstEdge ||
    (let d := (t + timeMod - s.tm.lastEdge) % timeMod
     999000000 * 2 ^ 32 ≤ d && d ≤ 1001000000 * 2 ^ 32))

/-- `LOCK_N` good edges in a row clear `PPS_HOLD` and `SLEEP_HOLD` (R321); with `TIME_REF` 0 no edge is heard at all. -/
def State.goodEdge (s : State) : State :=
  let s := s.bump TM_STAT_GOOD
  if s.rd TM_STAT_GOOD ≥ max 1 (s.rd TM_CTRL_LOCK_N) then
    ((s.wr TM_STAT_PPS_HOLD 0).wr TM_STAT_SLEEP_HOLD 0).refreshHold
  else s

/-- What an accepted edge of error `e` does (R321, R322): capture registers, good edges, the automatic step, and the
time-of-day load of the message that preceded it. -/
def State.takeEdge (s : State) (t : Nat) : State :=
  let e := edgeError t
  let tod := s.tm.todNext
  let s := { s with tm := { s.tm with lastEdge := t, firstEdge := false, edgeCyc := some s.tm.cyc, ppsRef := s.tm.now,
                                      todNext := none } }
  let s := ((s.wr TM_PPS_CAP_NS_NS (nsOf t)).wr TM_PPS_CAP_S_S_LO (secOf t)).wr TM_PPS_ERR_ERR (unsigned32 e)
  let s := s.raise TM_EVT_PPS
  let auto := s.is TM_CTRL_AUTO_STEP && e.natAbs > s.rd TM_STEP_NS_STEP_NS
  let s := if auto then (s.wr TM_STAT_GOOD 0).raise TM_EVT_STEP
    else if e.natAbs ≤ s.rd TM_PPS_CFG_LOCK_NS then s.goodEdge
    else s.wr TM_STAT_GOOD 0
  if s.stepHeld then s
  else match tod with
    | some n => if secOf t = (n + 1) % 2 ^ 48 then (if auto then s.startStep .auto (-e * 2 ^ 32) else s)
                else s.startStep .tod ((n + 1) % 2 ^ 48 : Nat)
    | none => if auto then s.startStep .auto (-e * 2 ^ 32) else s

/-- A second passes for the measurement of the always-on tick (R330): an accepted edge, or where `TIME_REF` is 0 a second boundary. After 16
the ticks between are counted. -/
def State.aonMark (s : State) : State :=
  if !s.coreUp || s.holdover then s
  else
    let tm := match s.tm.aonFrom with
      | some (n, a) => if n < 15 then { s.tm with aonFrom := some (n + 1, a) }
          else { s.tm with aonFrom := some (0, s.aon), aonTicks := some ((s.aon + 2 ^ 48 - a) % 2 ^ 48) }
      | none => { s.tm with aonFrom := some (0, s.aon) }
    { s with tm := tm }

/-- A rising edge of `TM_PPS` in this core cycle (R321): heard only while the core island runs and `TIME_REF` names the input;
an edge that is not accepted counts in `TM_PPS_GLITCH`. -/
def execPpsEdge (s : State) : Host.Outcome State Fault Refusal :=
  .next (
    if !s.coreUp || s.timeRef == 0 then s
    else if s.edgeAccepted s.edgeValue then
      ((if s.tm.firstEdge then { s with tm := { s.tm with aonFrom := none } } else s).takeEdge s.edgeValue).aonMark
    else s.bump TM_PPS_GLITCH_COUNT)

/-- 1.1 s of counter time pass without an accepted edge while `PPS_EN` is honoured (R320): the clock stands at that instant
or past it, `PPS_HOLD` and `PPS_LOSS` are set, and good edges are counted anew (log entry 12). -/
def execPpsLossTimeout (s : State) : Host.Outcome State Fault Refusal :=
  .next (
    if !s.coreUp || s.timeRef == 0 || !s.is TM_CTRL_PPS_EN then s
    else
      let s := s.advance (s.cyclesTo (s.tm.ppsRef + 1100000000 * 2 ^ 32))
      let s := { s with tm := { s.tm with firstEdge := true, ppsRef := s.tm.now } }
      (((s.wr TM_STAT_GOOD 0).raise TM_STAT_PPS_HOLD).raise TM_EVT_PPS_LOSS).refreshHold)

/-- Does a time-of-day message check (R322)? Its last byte ends now, 10 ms to 900 ms after the last accepted edge. -/
def State.todAccepted (s : State) (m : List Byte) : Bool :=
  s.is TM_CTRL_TOD_EN && s.timeRef == 2 && m.length == 11 && byteAt m 0 == 0xA5 && byteAt m 1 == 1 &&
  leNat m 9 2 == crcX25 (m.take 9) && bitN (byteAt m 8) 0 == 1 &&
  (match s.tm.edgeCyc with
    | some c =>
      let d := (s.tm.cyc - c) * s.tm.incr
      10000000 * 2 ^ 32 ≤ d && d ≤ 900000000 * 2 ^ 32
    | none => false)

/-- A time-of-day message of 11 bytes has arrived whole (R322). -/
def execTodMessage (m : List Byte) (s : State) : Host.Outcome State Fault Refusal :=
  .next (
    if !s.coreUp then s
    else if s.todAccepted m then
      let s := { s with tm := { s.tm with todNext := some (leNat m 2 6) } }
      ((s.wr TM_TOD_S_LO_S_LO (leNat m 2 4)).wr TM_TOD_S_HI_S_HI (leNat m 6 2)).raise TM_EVT_TOD
    else s.bump TM_CFG_REJ_TOD_BAD)

/-- Is `period`, in 2⁻¹⁶ ns, one that `n` ticks in 16 s give, to the tick at either end (log entry 135)? -/
def aonFits (period n : Nat) : Bool := ((16000000000 * 2 ^ 16 : Nat) - (period * n : Nat) : Int).natAbs ≤ 2 * period

/-- A 16 s measurement of the always-on tick has ended with this period (R330): it is made only while the core island runs out of
holdover. -/
def execAonPeriodMeasured (period : Word) (s : State) : Host.Outcome State Fault Refusal :=
  .next (
    match s.tm.aonTicks with
    | some n =>
      if s.coreUp && !s.holdover && aonFits period.toNat n then
        let s := ((({ s with tm := { s.tm with aonTicks := none } } : State).wr TM_AON_MEAS_PERIOD period.toNat)).raise TM_EVT_AON_CAL
        if s.is TM_CTRL_AON_AUTO then s.wr TM_AON_PERIOD_PERIOD period.toNat else s
      else s
    | none => s)

end Sys2Proof.Machine
end

