-- ==== Sys2Proof/Machine/Nyelle.lean ====
section
/-! DEFINITION. The Nyelle island (R363 to R384): resets, watchdog, sensors, event log, performance counters and background
agents. -/

namespace Sys2Proof.Machine

/-! ## Management-island reset -/

/-- A management-island reset (R366): the core, its bus, `ILOCK`, the watchdog and the sensor sequencer, with the readings it has in
progress, are reset, loads the core had not completed fail (R160, R338), a running update ends (R397), and the boot ROM selects firmware anew. -/
def State.nyReset (s : State) (cause pc : Nat) (b : Boot) : State :=
  let s := ((s.wr NY_STAT_CAUSE cause).postHw 0x204 2 cause pc 0).raise NY_EVT_NY_RESET
  let s := ((s.wr NY_CTRL_ILOCK 0).wr NY_CTRL_WDT_EN 0).wr NY_WDT_WDT_US 100000
  let s := { s with ny := { s.ny with offRun := [], okRun := [], eyeErr := [], low := [], volts := [] } }
  let s := s.failTransit (· == 256)
  let s := match s.hub.coreClaim with
    | some (_, n, p) => ({ s with hub := { s.hub with coreClaim := none } } : State).unclaim n p
    | none => s
  let s := if s.is ST_UPD_STAT_BUSY then s.updEnd 4 7 (s.rd ST_UPD_STAT_BANK) else s
  s.bootSelect b

/-- A write of `NY_CTRL`: `ILOCK` is set-only, and `WDT_EN` starts or stops the count (R366, R367); its reset is apart. -/
def State.nyCtrl (s : State) (v : Nat) : State :=
  let was := s.is NY_CTRL_WDT_EN
  let s := s.writePlain 0x1E0000 v
  if s.is NY_CTRL_WDT_EN == was then s else s.wdtRestart

/-- A write of `NY_CTRL` that sets `CORE_RST` (R366): the other bits as written, then the reset with the core's program
counter as the log shows it and what the boot ROM finds. -/
def State.coreRst (s : State) (v pc : Nat) (b : Boot) : State := (s.nyCtrl v).nyReset 2 pc b

/-- A write of `CORE_RST` (R366). The log's program counter and the images found are the outside's. -/
def execCoreRst (w : Who) (v pc : Word) (b : Boot) (s : State) : Host.Outcome State Fault Refusal :=
  .next (s.guardWrite w 0x1E0000 (fun s => if bitN v.toNat 0 = 1 then s.coreRst v.toNat pc.toNat b else s.nyCtrl v.toNat))

/-- The watchdog's count reaches `WDT_US` (R367): it counts while `WDT_EN` is 1 and no debugger holds the core. -/
def execWatchdogExpiry (pc : Word) (b : Boot) (s : State) : Host.Outcome State Fault Refusal :=
  .next (
    if s.is NY_CTRL_WDT_EN && !s.is NY_STAT_HALTED && s.islandUp 8 then
      (s.advanceMg (s.ny.wdt.ends (usTicks (s.rd NY_WDT_WDT_US)))).nyReset 1 pc.toNat b
    else s)

/-- A write of `NY_WDT_KICK` (R367). -/
def execWdtKick (w : Who) (s : State) : Host.Outcome State Fault Refusal := .next (s.guardWrite w 0x1E000C (·.wdtRestart))

/-- An SRAM read finds an ECC error (R365): a single-bit error is corrected and counted; a double-bit error is recorded, logged
and fails the access: a core load or fetch raises an access fault, and a fetch with `ECC_RST` resets the island (R366). -/
def execSramEccError (unc : Bool) (which : Fin 3) (addr : Word) (acc : EccAccess) (pc : Word) (b : Boot) (s : State) :
    Host.Outcome State Fault Refusal :=
  .next (
    if !s.islandUp 8 then s
    else if !unc then s.bump NY_ECC_CORR
    else
      let s := (((s.bump NY_ECC_UNC).wr NY_ECC_ADDR_ADDR addr.toNat).raise NY_EVT_ECC_UNC).postHw 0x203 2 which addr.toNat 0
      match acc with
      | .fetch => if s.is NY_CTRL_ECC_RST then s.nyReset 3 pc.toNat b else s.declined
      | .load => s.declined
      | .dma ch => s.setMd ch { s.mdCh ch with poison := true })

/-- Does the machine timer interrupt stand (R363)? -/
def State.mtip (s : State) : Bool :=
  s.rd64 NY_MTIMECMP_LO_CMP NY_MTIMECMP_HI_CMP ≤ s.rd64 NY_MTIME_LO_MTIME NY_MTIME_HI_MTIME

/-- `NY_MTIME` reaches `NY_MTIMECMP` (R363): the clock stands at that count or past it, and the interrupt is raised. -/
def execMachineTimer (s : State) : Host.Outcome State Fault Refusal :=
  .next (
    let d := s.rd64 NY_MTIMECMP_LO_CMP NY_MTIMECMP_HI_CMP - s.rd64 NY_MTIME_LO_MTIME NY_MTIME_HI_MTIME
    let s := if d = 0 then s else s.advance (64 * d - s.tm.sub25)
    { s with ny := { s.ny with timerIrq := s.mtip } })

/-! ## Sensors -/

/-- A reading of 12 bits as a signed number of eighths of a degree (R368). -/
def tempOf (v : Nat) : Int := signed 12 v

/-- Threshold `l` (1 warn, 2 throttle, 3 shutdown) of the SD, in eighths of a degree (R41, R369). -/
def State.thermThr (s : State) (l : Nat) : Int := 8 * signed 8 (s.sdField 0x400 (8 * (l - 1)) 8)

/-- The sensor with the highest reading, the lowest-numbered of equals (`NY_THERM_MAX`). -/
def State.hottest (s : State) : Nat :=
  (List.range 24).foldl (fun m i => if tempOf (s.rd (NY_THERM_TEMP i)) > tempOf (s.rd (NY_THERM_TEMP m)) then i else m) 0

/-- The thermal level rises through every threshold the reading has reached, or falls one level where it lies 2 °C below the
present one (R369). No threshold is known before the first SD. -/
def State.thermLevel (s : State) : State :=
  if s.sys.sd.isNone then s
  else
    let t := tempOf (s.rd NY_THERM_MAX_TEMP)
    let now := s.rd NY_THERM_MAX_LEVEL
    let up := ((List.range 3).filter (fun i => now < i + 1 && s.thermThr (i + 1) ≤ t)).map (· + 1)
    if up = [] then
      (if 0 < now && t ≤ s.thermThr now - 16 then s.wr NY_THERM_MAX_LEVEL (now - 1) else s)
    else s.each up (fun s l =>
      let s := (s.wr NY_THERM_MAX_LEVEL l).postHw 0x201 l (s.rd NY_THERM_MAX_IDX) (s.rd NY_THERM_MAX_TEMP) l
      s.raise ⟨0x1E0020, l - 1, 1⟩)

/-- New readings of all 24 sensors (R368, R369). -/
def State.thermRead (s : State) (r : List (BitVec 12)) : State :=
  let s := s.each (List.range 24) (fun s i => s.wr (NY_THERM_TEMP i) (r.getD i 0).toNat)
  let m := s.hottest
  ((s.wr NY_THERM_MAX_TEMP (s.rd (NY_THERM_TEMP m))).wr NY_THERM_MAX_IDX m).thermLevel

/-- A sample of monitor `i`: `MV` is the least of the samples of the last 100 µs (R368). -/
def State.droopSample (s : State) (i mv : Nat) : State :=
  let l := (mapGet (fun _ => []) s.ny.volts i).filter (fun e => s.tm.tick < e.1 + 160000) ++ [(s.tm.tick, mv)]
  ({ s with ny := { s.ny with volts := mapSet (fun _ => []) s.ny.volts i l } } : State).wr (NY_DROOP_MV i) (l.foldl (fun m e => min m e.2) mv)

/-- A sample of droop monitor `i` (R370): one below `THR` begins an episode, unless an episode stands whose samples have not stayed at or
above `THR` for 1 µs. -/
def execDroopEpisode (i : Fin 12) (mv : BitVec 12) (s : State) : Host.Outcome State Fault Refusal :=
  .next (
    if !s.islandUp 8 then s
    else
    let s := s.droopSample i mv.toNat
    let thr := s.rd (NY_DROOP_THR i)
    if mv.toNat < thr then
      let last := mapGet (fun _ => 0) s.ny.low i
      let s := { s with ny := { s.ny with low := mapSet (fun _ => 0) s.ny.low i (s.tm.tick + 1) } }
      if last ≠ 0 ∧ s.tm.tick + 1 < last + 1600 then s
      else
        let s := s.bump (NY_DROOP_CNT_COUNT i)
        if s.is NY_EVT_DROOP then s else (s.raise NY_EVT_DROOP).postHw 0x202 1 i mv.toNat thr
    else s)

/-- The frequency monitor `k` expects: kHz, or Hz for monitor 8; none where it has none yet (R371). -/
def State.clkExpected (s : State) (k : Nat) : Option Nat :=
  if k < 6 then some 1600000
  else if k = 6 then (if s.sys.sd.isSome then some (1000 * s.sdField 0x018 0 16) else none)
  else if k = 7 then some 2000000
  else some 32768

/-- Does the monitor judge its island: the table island and the slices from their start on (R371)? -/
def State.clkJudged (s : State) (k : Nat) : Bool :=
  if k < 5 || k == 7 then s.sys.started.getLsbD k else true

/-- A flag of a monitor rises: the event and the log record, and a slice's fault (R371, R426). -/
def State.clkFlag (s : State) (k bit : Nat) : State :=
  let s := (s.raise NY_EVT_CLK).postHw 0x200 2 k (s.rd (NY_CLK_KHZ k)) bit
  if k < 5 then s.sliceFault k else s

/-- A clock-monitor window ends with a frequency, or with no edge at all (R371); monitor 8 measures nothing where its clock has no edge, and the
next edge, before a new measurement, clears its `STOPPED`. -/
def State.clkWindow (s : State) (k : Nat) (f : Nat) (edges : Bool) : State :=
  if edges && k == 8 && s.is (NY_CLK_STOPPED k) then s.wr (NY_CLK_STOPPED k) 0
  else
  let s := if edges || k != 8 then s.wr (NY_CLK_KHZ k) (if edges then f else 0) else s
  let s := if edges ∧ k < 8 then { s with sys := { s.sys with clkStopped := s.sys.clkStopped &&& ~~~(1#9 <<< k) } } else s
  if !s.clkJudged k then s
  else
    let s :=
      if edges then s.wr (NY_CLK_STOPPED k) 0
      else if s.is (NY_CLK_STOPPED k) then s
      else (s.raise (NY_CLK_STOPPED k)).clkFlag k 1
    match if edges || k != 8 then s.clkExpected k else none with
    | none => s.refreshRun
    | some e =>
      let inside : Bool := edges && (100 * f ≤ 102 * e && 98 * e ≤ 100 * f)
      let bad := if inside then 0 else min 2 (mapGet (fun _ => 0) s.ny.offRun k + 1)
      let good := if inside then min 2 (mapGet (fun _ => 0) s.ny.okRun k + 1) else 0
      let s := { s with ny := { s.ny with offRun := mapSet (fun _ => 0) s.ny.offRun k bad,
                                          okRun := mapSet (fun _ => 0) s.ny.okRun k good } }
      let s :=
        if bad = 2 && !s.is (NY_CLK_OFF k) then (s.raise (NY_CLK_OFF k)).clkFlag k 2
        else if good = 2 then s.wr (NY_CLK_OFF k) 0
        else s
      s.refreshRun

/-- ⌊−16 × log₁₀(e ÷ b)⌋ found by comparing sixteenth powers: the greatest n with eˢ × 10ⁿ ≤ bˢ, s = 16; at most 255 (R372). -/
def eyeCode (e b : Nat) : Nat :=
  if e = 0 then 255 else ((List.range 256).filter (fun n => e ^ 16 * 10 ^ n ≤ b ^ 16)).getLast?.getD 0

/-- The lane eye monitors latch at a second boundary (R372). -/
def State.eyeLatch (s : State) : State :=
  let s := s.each (List.range 36) (fun s i =>
    if s.lanePresent i then
      let e := mapGet (fun _ => 0) s.ny.eyeErr i
      let up := s.rd (LN_LANE_STAT_STATE i) == 2
      let code := if up then eyeCode e (if s.sdField (0x200 + 4 * i) 3 2 = 1 then 212500000000 else 106250000000) else 0
      let s := (s.wr (NY_EYE_CODE i) code).wr (NY_EYE_ERR i) (min e (2 ^ 24 - 1))
      if up && code < s.rd NY_EYE_THR_CODE then s.raise NY_EVT_EYE else s
    else s)
  { s with ny := { s.ny with eyeErr := [] } }

/-- Errors counted on a lane for its eye monitor (R372). -/
def State.eyeCount (s : State) (i n : Nat) : State :=
  { s with ny := { s.ny with eyeErr := mapSet (fun _ => 0) s.ny.eyeErr i (mapGet (fun _ => 0) s.ny.eyeErr i + n) } }

/-! ## Event log -/

/-- Records in front of `NEXT` that the head has passed, mod 2³² (R375). -/
def State.logDepth (s : State) : Nat := (s.rd NY_LOG_SEQ_SEQ + 2 ^ 32 - s.rd NY_LOG_PERSIST_NEXT) % 2 ^ 32

/-- The slot about to be overwritten held a record not yet persisted: it is lost, and `NEXT` moves past it (R375). -/
def State.logLose (s : State) : State :=
  if s.rd NY_LOG_HEAD_COUNT < 2048 then s
  else if s.logDepth ≥ 2048 || !s.is NY_LOG_PCFG_EN then
    let s := s.bump NY_LOG_LOST_LOST
    if s.logDepth ≥ 2048 then s.wr NY_LOG_PERSIST_NEXT (s.rd NY_LOG_SEQ_SEQ + 2 ^ 32 - 2047) else s
  else s

/-- The writer stores one record (R374, R375). -/
def State.logWrite (s : State) (p : LogPost) : State :=
  let s := s.logLose
  let before := s.logDepth
  let q := s.rd NY_LOG_SEQ_SEQ
  let up := s.coreUp
  let r : LogRec := ⟨q, if up then nsOf s.tm.now else 0, if up then secOf s.tm.now % 2 ^ 32 else 0, s.aon % 2 ^ 32, p.code, p.sev,
    s.holdover, !up, p.a0, p.a1, p.a2⟩
  let s := { s with ny := { s.ny with slots := mapSet (fun _ => {}) s.ny.slots (q % 2048) r } }
  let s := ((s.wr NY_LOG_SEQ_SEQ (q + 1)).wr NY_LOG_HEAD_SLOT (q + 1)).wr NY_LOG_HEAD_COUNT (min 2048 (s.rd NY_LOG_HEAD_COUNT + 1))
  let wm := s.rd NY_LOG_HI_WM
  if before < wm && wm ≤ s.logDepth then s.raise NY_EVT_LOG_HI else s

/-- The next post in order: hardware, then firmware, then host (R373). In D and in its reset the writer stores nothing (R409). -/
def execLogStore (s : State) : Host.Outcome State Fault Refusal :=
  .next (
    if s.rd PW_STAT_STATE = 4 ∨ s.sys.aonRstN = false then s
    else match s.ny.hwq, s.ny.fwq, s.ny.hostq with
    | p :: r, _, _ => ({ s with ny := { s.ny with hwq := r } } : State).logWrite p
    | [], p :: r, _ => ({ s with ny := { s.ny with fwq := r } } : State).logWrite p
    | [], [], p :: r => ({ s with ny := { s.ny with hostq := r } } : State).logWrite p
    | [], [], [] => s)

/-- A write of `NY_LOG_FW_CODE` (R373): `GO` by master 256 posts. -/
def State.logFw (s : State) (m v : Nat) : State :=
  let s := s.writePlain 0x1E0460 v
  if bitN v 31 = 1 && m == 256 then
    { s with ny := { s.ny with fwq := s.ny.fwq ++
        [⟨bits v 0 16, bits v 16 2, s.rd (NY_LOG_FW_ARG_ARG 0), s.rd (NY_LOG_FW_ARG_ARG 1), s.rd (NY_LOG_FW_ARG_ARG 2), 0⟩] } }
  else s

/-- A write of `NY_LOG_HOST_CODE` (R373): `GO` by a privileged setup-port access posts. -/
def State.logHost (s : State) (m v : Nat) : State :=
  let s := s.writePlain 0x1E0480 v
  if bitN v 31 = 1 && m != 256 then
    { s with ny := { s.ny with hostq := s.ny.hostq ++
        [⟨bits v 0 16, bits v 16 2, s.rd (NY_LOG_HOST_ARG_ARG 0), s.rd (NY_LOG_HOST_ARG_ARG 1), s.rd (NY_LOG_HOST_ARG_ARG 2), 0⟩] } }
  else s

/-- A write of `NY_LOG_PERSIST` (R375): not backward, not beyond the head. -/
def State.logPersist (s : State) (v : Nat) : State :=
  if (v + 2 ^ 32 - s.rd NY_LOG_PERSIST_NEXT) % 2 ^ 32 ≤ s.logDepth then s.wr NY_LOG_PERSIST_NEXT v else s.bump NY_LOG_LOST_REJ

/-- A write of `NY_LOG_SEQ` (R376): only while `COUNT` is 0. -/
def State.logSeq (s : State) (v : Nat) : State :=
  if s.rd NY_LOG_HEAD_COUNT = 0 then (s.wr NY_LOG_SEQ_SEQ v).wr NY_LOG_HEAD_SLOT v else s.bump NY_LOG_LOST_REJ

/-- Word `i` of a record (R374). -/
def logWord (r : LogRec) (i : Nat) : Nat :=
  match i with
  | 0 => r.seq
  | 1 => r.ns
  | 2 => r.sec
  | 3 => r.aon
  | 4 => r.code + 2 ^ 16 * (r.sev + 4 * b2n r.holdover + 8 * b2n r.noTime)
  | 5 => r.a0
  | 6 => r.a1
  | _ => r.a2

/-- A firmware post (R373). -/
def execLogPostFw (w : Who) (code : BitVec 16) (sev : BitVec 2) (s : State) : Host.Outcome State Fault Refusal :=
  .next (s.guardWrite w 0x1E0460 (·.logFw w.master (code.toNat + 2 ^ 16 * sev.toNat + 2 ^ 31)))

/-- A host post (R373). -/
def execLogPostHost (w : Who) (code : BitVec 16) (sev : BitVec 2) (s : State) : Host.Outcome State Fault Refusal :=
  .next (s.guardWrite w 0x1E0480 (·.logHost w.master (code.toNat + 2 ^ 16 * sev.toNat + 2 ^ 31)))

/-- A write of `NY_LOG_PERSIST` (R375). -/
def execLogPersistWrite (w : Who) (v : Word) (s : State) : Host.Outcome State Fault Refusal :=
  .next (s.guardWrite w 0x1E0408 (·.logPersist v.toNat))

/-- A write of `NY_LOG_SEQ` (R376). -/
def execLogSeqWrite (w : Who) (v : Word) (s : State) : Host.Outcome State Fault Refusal :=
  .next (s.guardWrite w 0x1E0404 (·.logSeq v.toNat))

/-! ## Performance counters -/

/-- The counters of these islands are copied to the snapshot bank, and `SNAP_BUSY` stands while an island has not copied (R380, log entry 10). -/
def State.pcCopy (s : State) (now left : List Nat) : State :=
  let s := s.each ((List.range 1024).filter (fun e => now.contains (eventIsland e))) (fun s e =>
    (s.wr (PC_SNAP_LO_COUNT e) (s.rd (PC_CNT_LO_COUNT e))).wr (PC_SNAP_HI_COUNT e) (s.rd (PC_CNT_HI_COUNT e)))
  ({ s with ny := { s.ny with snapLeft := left } } : State).put PC_CTRL_SNAP_BUSY (!left.isEmpty)

/-- `SNAP`: islands that do not run copy once they do (R380). -/
def State.pcSnap (s : State) : State :=
  s.pcCopy ((List.range 9).filter s.islandUp) ((List.range 9).filter (fun i => !s.islandUp i))

/-- Islands that run again copy what a `SNAP` has left to them. -/
def State.pcCatchUp (s : State) : State :=
  if s.ny.snapLeft.any s.islandUp then s.pcCopy (s.ny.snapLeft.filter s.islandUp) (s.ny.snapLeft.filter (fun i => !s.islandUp i)) else s

/-- The core's counters of retired instructions and stall cycles show free values where the core runs: it executes outside the model (R378, log
entry 116). -/
def State.coreCounts (s : State) : State :=
  if s.pw.coreStopped || s.is NY_STAT_HALTED || !s.islandUp 8 then s
  else
    let d := s.draw
    (d.2.pcEvent 832 {} (d.1.toNat % 2 ^ 48)).pcEvent 833 {} (d.1.toNat / 2 ^ 48)

/-- `CLEAR`: every counter and every overflow bit (R377). -/
def State.pcClear (s : State) : State :=
  let s := s.each (List.range 1024) (fun s e => (s.wr (PC_CNT_LO_COUNT e) 0).wr (PC_CNT_HI_COUNT e) 0)
  s.each (List.range 32) (fun s w => s.wr (PC_OVF_OVF w) 0)

/-- Half `h` of the snapshot bank as the 4 KiB a write carries (R380). -/
def State.pcHalf (s : State) (h : Nat) : List Byte :=
  ((List.range 512).map (fun i => leBytes 4 (s.rd (PC_SNAP_LO_COUNT (512 * h + i))) ++ leBytes 4 (s.rd (PC_SNAP_HI_COUNT (512 * h + i))))).flatten

/-- `EXPORT`: the snapshot bank goes to host memory as two 4 KiB writes (R380). -/
def State.pcExport (s : State) : State :=
  if s.is PC_CTRL_SNAP_BUSY || s.is PC_CTRL_EXP_BUSY then s.bump PC_CTRL_PC_REJ
  else
    let a := 4096 * s.rd PC_EXPORT_LO_ADDR + 2 ^ 32 * s.rd PC_EXPORT_HI_ADDR
    let s := { s with ny := { s.ny with expLeft := 2, expFail := false } }
    (((s.raise PC_CTRL_EXP_BUSY).bgBegin 6 0).hostWrite .pcExport 0 0 a (s.pcHalf 0)).hostWrite .pcExport 0 0 (a + 4096) (s.pcHalf 1)

/-- A write of `PC_CTRL` (R377, R380). -/
def State.pcCtrl (s : State) (v : Nat) : State :=
  let s := s.settleBeats.coreCounts
  let s := s.wr PC_CTRL_FREEZE (bitN v 0)
  let s := if bitN v 1 = 1 then (if s.is PC_CTRL_SNAP_BUSY then s.bump PC_CTRL_PC_REJ else s.pcSnap) else s
  let s := if bitN v 2 = 1 then s.pcClear else s
  if bitN v 3 = 1 then s.pcExport else s

/-- A write of `PC_CTRL.FREEZE` (R380). -/
def execPcFreeze (w : Who) (on : Bool) (s : State) : Host.Outcome State Fault Refusal :=
  .next (s.guardWrite w 0x1D0000 (·.pcCtrl (b2n on)))

/-- A write of `SNAP`, with the `FREEZE` bit of the same write (R380). -/
def execPcSnap (w : Who) (frz : Bool) (s : State) : Host.Outcome State Fault Refusal :=
  .next (s.guardWrite w 0x1D0000 (·.pcCtrl (b2n frz + 2)))

/-- A write of `CLEAR`, with the `FREEZE` bit of the same write (R377). -/
def execPcClear (w : Who) (frz : Bool) (s : State) : Host.Outcome State Fault Refusal :=
  .next (s.guardWrite w 0x1D0000 (·.pcCtrl (b2n frz + 4)))

/-- A write of `EXPORT`, with the `FREEZE` bit of the same write (R380). -/
def execPcExport (w : Who) (frz : Bool) (s : State) : Host.Outcome State Fault Refusal :=
  .next (s.guardWrite w 0x1D0000 (·.pcCtrl (b2n frz + 8)))

/-- An export write returns (R380). -/
def execPcExportResponse (s : State) : Host.Outcome State Fault Refusal :=
  .next (
    match s.response .pcExport with
    | none => s
    | some (d, s) =>
      let bad := s.ny.expFail || d.resp != .okay
      let s := { s with ny := { s.ny with expLeft := s.ny.expLeft - 1, expFail := bad } }
      let s := if d.resp = .okay then s else s.raise NY_EVT_PC_EXP_FAIL
      if s.ny.expLeft = 0 then (s.wr PC_CTRL_EXP_BUSY 0).bgDone 6 0 else s)

/-! ## Background agents -/

/-- The work unit `u` of agent `a` in progress, if it has not missed its deadline yet (R383). -/
def State.bgLate (s : State) (a u : Nat) : Option BgUnit := s.ny.bgUnits.find? (fun e => e.agent == a && e.unit == u && !e.missed)

/-- The work unit `n` of agent `a` is still incomplete at its deadline (R383): this is that instant or later; its age in µs goes into the log. -/
def execBgDeadlineMiss (a : Fin 8) (n : Nat) (s : State) : Host.Outcome State Fault Refusal :=
  .next (
    match s.bgLate a n with
    | none => s
    | some u =>
      if s.rd (NY_BG_DL_DL_US a) = 0 ∨ s.islandUp 8 = false then s
      else
        let s := s.advanceTo (u.start + 1600 * s.rd (NY_BG_DL_DL_US a))
        let s := { s with ny := { s.ny with bgUnits := s.ny.bgUnits.map (fun e => if e = u then { e with missed := true } else e) } }
        (((s.raise (NY_BG_DL_RAISED a)).bump (NY_BG_MISS_COUNT a)).postHw 0x205 1 a ((s.tm.tick - u.start) / 1600) 0).raise NY_EVT_BG_MISS)

/-- Register writes of the `NY` and `PC` regions; `CORE_RST` written here finds the flash as the last start left it, and the
program counter the log shows is a free value (log entry 5). -/
def State.nyWrite (s : State) (off m v : Nat) : State :=
  if off = 0x1E0000 then
    (if bitN v 0 = 1 then
      let (pc, s) := s.draw
      s.coreRst v (pc.toNat % 2 ^ 32) s.kw.flash
    else s.nyCtrl v)
  else if off = 0x1E000C then s.wdtRestart
  else if off = 0x1E0018 ∨ off = 0x1E001C then
    let s := s.writePlain off v
    { s with ny := { s.ny with timerIrq := s.mtip } }
  else if off = 0x1E0404 then s.logSeq v
  else if off = 0x1E0408 then s.logPersist v
  else if off = 0x1E0460 then s.logFw m v
  else if off = 0x1E0480 then s.logHost m v
  else if off = 0x1D0000 then s.pcCtrl v
  else s.writePlain off v

end Sys2Proof.Machine
end

