-- ==== Sys2Proof/Machine/Ledger.lean ====
section
/-! DEFINITION. The ledger's counting (R298 to R311): events are charged to the period of their instant, frames hold tags, cuts
latch the old period into the bank, and the audit watches. The rows of cuts and records are in Cuts.lean. -/

namespace Sys2Proof.Machine

/-- The 30 words of an empty block (R306). -/
def blank (_ : Nat) : List Nat := List.replicate 30 0

/-- Key of a context's block: receive even, transmit odd. -/
def lkey (ctx : Nat) (tx : Bool) : Nat := 2 * ctx + b2n tx

/-- Word indices of the counters (R306). -/
def wACC : Nat := 0
def wDEL : Nat := 2
def wDROP (k : Nat) : Nat := 4 + 2 * k
def wCARRY : Nat := 20
def wINFL : Nat := 22
def wCOL (c : Nat) : Nat := 24 + 2 * c

/-- Word `i` of a block. -/
def blkAt (l : List Nat) (i : Nat) : Nat := l.getD i 0

/-- One frame of `len` bytes added at word pair `i`. -/
def blkAdd (l : List Nat) (i len : Nat) : List Nat := (l.set i (blkAt l i + 1)).set (i + 1) (blkAt l (i + 1) + len)

/-- The block of a context and direction in the live period. -/
def State.ledLive (s : State) (k : Nat) : List Nat := mapGet blank s.led.live k

/-- Does an event of this instant count into the old period: the window is open and the instant precedes its cut (R302)? -/
def State.ledOld (s : State) (inst : Nat) : Bool :=
  match s.led.win with
  | some w => inst < w.inst
  | none => false

/-! ## Audit -/

/-- The audit records its first failure and marks the summary record (R311); what `CTX` holds for codes 2 and 5 is open (log entry 5). -/
def State.ledAudit (s : State) (code : Nat) (tx : Bool) (ctx : Nat) : State :=
  let d := if code = 2 ∨ code = 5 then s.draw else (BitVec.ofNat 64 ctx, s)
  let s := if s.is LG_EVT_AUDIT then s
    else ((((d.2.wr LG_AUDIT_CODE code).put LG_AUDIT_TX tx).wr LG_AUDIT_CTX (d.1.toNat % 4096)).wr LG_AUDIT_SEQ_CUT_SEQ (s.rd LG_SEQ_CUT_SEQ + 1)).raise
      LG_EVT_AUDIT
  if code = 3 ∨ code = 4 then s
  else match s.led.win with
    | some w => { s with led := { s.led with win := some { w with auditAll := true } } }
    | none => { s with led := { s.led with auditAll := true } }

/-- Frames a block holds in flight: carried and accepted less delivered and dropped (R311). -/
def blkOpen (l : List Nat) : Int :=
  (blkAt l wCARRY : Int) + blkAt l wACC - blkAt l wDEL - ((List.range 8).foldl (fun n k => n + blkAt l (wDROP k)) 0 : Nat)

/-- The census of one direction: tags held against the counters of the live period, those moved into closing slots among them, and of the
old one with its carry while a window is open (R311, code 2). -/
def State.ledCensusOk (s : State) (tx : Bool) : Bool :=
  let held := (s.led.tags.filter (fun e => e.2.tx == tx)).length
  let side (m : SMap (List Nat)) : Int :=
    (m.filter (fun e => e.1 % 2 == b2n tx)).foldl (fun n e => n + blkOpen e.2) 0
  let closed := (s.led.slots.filter (fun x => x.period == s.led.period)).foldl (fun (n : Int) x =>
    let l := if tx then x.tx else x.rx
    n + blkOpen l - (if s.led.win.isSome then (blkAt l wCARRY : Int) else 0)) 0
  (held : Int) == side s.led.live + closed + (if s.led.win.isSome then side s.led.old else 0)

/-- The census is taken after every change of tags or counters. -/
def State.ledCheck (s : State) (tx : Bool) : State := if s.ledCensusOk tx then s else s.ledAudit 2 tx 0

/-! ## Events -/

/-- A late event is counted and marks its context's record and the summary (R302). -/
def State.ledLate (s : State) (ctx : Nat) : State :=
  let s := (s.bump LG_LATE_COUNT).raise LG_EVT_LATE
  match s.led.win with
  | some w => { s with led := { s.led with win := some { w with lateCtx := ctx :: w.lateCtx, lateCount := w.lateCount + 1 } } }
  | none => { s with led := { s.led with lateCtx := ctx :: s.led.lateCtx, lateCount := s.led.lateCount + 1 } }

/-- Count a frame of `len` bytes at word pair `i`, in the period of its instant (R299, R302). -/
def State.ledCount (s : State) (ctx : Nat) (tx : Bool) (inst i len : Nat) : State :=
  let f (m : SMap (List Nat)) : SMap (List Nat) := mapUpd blank m (lkey ctx tx) (fun l => blkAdd l i len)
  if s.ledOld inst then { s with led := { s.led with old := f s.led.old } } else { s with led := { s.led with live := f s.led.live } }

/-- A frame is accepted: counted, coloured on receive, and tagged (R298, R311). -/
def State.ledAccept (s : State) (id ctx : Nat) (tx : Bool) (inst len colour : Nat) : State :=
  let s := s.ledCount ctx tx inst wACC len
  let s := if tx then s else s.ledCount ctx tx inst (wCOL colour) len
  let s := if inst < s.led.floor then s.ledLate ctx else s
  let tag : TagSt := ⟨ctx, tx, len, if s.ledOld inst then s.led.period - 1 else s.led.period⟩
  let s := if s.led.tags.length < 524288 then { s with led := { s.led with tags := optSet s.led.tags id tag } }
    else s.ledAudit 5 tx ctx
  s.ledCheck tx

/-- A frame ends, delivered or dropped: counted, and its tag returned (R311). -/
def State.ledEnd (s : State) (id ctx : Nat) (tx : Bool) (inst i len : Nat) : State :=
  let s := s.ledCount ctx tx inst i len
  let s := if inst < s.led.floor then s.ledLate ctx else s
  let s := match optGet s.led.tags id with
    | some t =>
      let s := if t.ctx = ctx ∧ t.tx = tx then s else s.ledAudit 1 tx ctx
      { s with led := { s.led with tags := mapErase id s.led.tags
                                   endedNew := if s.led.win.isSome && !s.ledOld inst then t :: s.led.endedNew else s.led.endedNew } }
    | none => s.ledAudit 1 tx ctx
  s.ledCheck tx

/-- Delivered, and dropped under a cause. -/
def State.ledDeliver (s : State) (id ctx : Nat) (tx : Bool) (inst len : Nat) : State := s.ledEnd id ctx tx inst wDEL len
def State.ledDrop (s : State) (id ctx : Nat) (tx : Bool) (inst cause len : Nat) : State := s.ledEnd id ctx tx inst (wDROP cause) len

/-- Frames of a context and direction in flight. -/
def State.inFlight (s : State) (ctx : Nat) : Bool := s.led.tags.any (fun e => e.2.ctx == ctx)

/-! ## Latching a cut -/

/-- The census of a context and direction at a cut whose window closes (R311): frames and bytes of the tags whose acceptance
was counted in the closed period or before and whose end was not. -/
def State.ledInfl (s : State) (ctx : Nat) (tx : Bool) : Nat × Nat :=
  let old (t : TagSt) : Bool := t.ctx == ctx && t.tx == tx && t.period < s.led.period
  let l := ((s.led.tags.map (·.2)).filter old) ++ s.led.endedNew.filter old
  (l.length, l.foldl (fun n t => n + t.len) 0)

/-- R300 for frames (`d` 0) or bytes (`d` 1). -/
def blkEquation (l : List Nat) (d : Nat) : Bool :=
  blkAt l (wCARRY + d) + blkAt l (wACC + d) ==
    blkAt l (wDEL + d) + (List.range 8).foldl (fun n k => n + blkAt l (wDROP k + d)) 0 + blkAt l (wINFL + d)

/-- Colours add up to the accepted frames and bytes (R311, code 4). -/
def blkColour (l : List Nat) : Bool :=
  [0, 1].all (fun d => blkAt l (wCOL 0 + d) + blkAt l (wCOL 1 + d) + blkAt l (wCOL 2 + d) == blkAt l (wACC + d))

/-- One block is latched: its in-flight term is the census, the checks of R311 are made, and the term is carried on, by the closing
slot where the context was destroyed within the window. -/
def State.ledLatch (s : State) (ctx : Nat) (tx : Bool) : State :=
  let k := lkey ctx tx
  let n := s.ledInfl ctx tx
  let l := ((mapGet blank s.led.old k).set wINFL n.1).set (wINFL + 1) n.2
  let bad3 := !(blkEquation l 0 && blkEquation l 1)
  let bad4 := !tx && !blkColour l
  let s := { s with led := { s.led with
      bank := mapSet blank s.led.bank k l
      live := if s.led.slots.any (fun x => x.ctx == ctx && x.period == s.led.period) then s.led.live
        else mapUpd blank s.led.live k (fun m => (m.set wCARRY n.1).set (wCARRY + 1) n.2)
      cut := { s.led.cut with audit := if bad3 || bad4 then ctx :: s.led.cut.audit else s.led.cut.audit } } }
  let s := if bad3 then s.ledAudit 3 tx ctx else s
  if bad4 then s.ledAudit 4 tx ctx else s

/-- A closing slot is checked at the close that latches it (R311, codes 3 and 4). -/
def slotAudit (x : SlotSt) : Bool × Bool :=
  (!(blkEquation x.rx 0 && blkEquation x.rx 1 && blkEquation x.tx 0 && blkEquation x.tx 1), !blkColour x.rx)

/-- The failures of a slot's checks are recorded. -/
def State.slotReport (s : State) (x : SlotSt) : State :=
  let s := if (slotAudit x).1 then s.ledAudit 3 (blkEquation x.rx 0 && blkEquation x.rx 1) x.ctx else s
  if (slotAudit x).2 then s.ledAudit 4 false x.ctx else s

/-- The window closes and the old period is latched into the cut bank (R302, R304). -/
def State.ledClose (s : State) : State :=
  match s.led.win with
  | none => s
  | some w =>
    let seq := (s.rd LG_SEQ_CUT_SEQ + 1) % 2 ^ 32
    let sec := secOf w.inst
    let period := match s.led.lastCut with
      | some p => min 0xFFFF ((sec + 2 ^ 48 - p) % 2 ^ 48)
      | none => 0
    let mine := (s.led.slots.filter (fun x => !x.latched && x.period < s.led.period)).map (fun (x : SlotSt) =>
      { x with audit := (slotAudit x).1 || (slotAudit x).2 })
    let s := s.each mine (fun s x => s.slotReport x)
    let s := { s with led := { s.led with
        bank := []
        cut := { seq, sec, period, step := w.step, holdover := w.holdover, skipped := w.skipped, mode := w.mode,
                 lateCtx := w.lateCtx, lateCount := w.lateCount, auditAll := w.auditAll, owners := w.owners, ctxs := w.ctxs,
                 slots := mine }
        slots := s.led.slots.map (fun (x : SlotSt) => if x.period < s.led.period then { x with latched := true } else x) } }
    let s := s.each w.ctxs (fun s c => (s.ledLatch c false).ledLatch c true)
    let s := { s with led := { s.led with win := none, old := [], endedNew := [], floor := w.floor, lastCut := some sec,
                                          done := 0, issued := 0, freed := 0 } }
    (((s.wr LG_SEQ_CUT_SEQ seq).wr LG_STAT_WINDOW 0).raise LG_STAT_PENDING).bgBegin 1 0

/-! ## Closing a context -/

/-- Free closing slots, kept in `LG_STAT` (R310, R313). -/
def State.refreshSlots (s : State) : State := s.wr LG_STAT_CLOSE_FREE (64 - s.led.slots.length)

/-- A destroyed context's counters move into a closing slot (R310). While a window is open its old period stays for the
record of that cut, and what the census finds is what the slot carries. The number starts anew: its late events went with the slot. -/
def State.ledSlot (s : State) (ctx owner : Nat) : State :=
  let blk (tx : Bool) : List Nat :=
    let l := s.ledLive (lkey ctx tx)
    if s.led.win.isSome then (l.set wCARRY (s.ledInfl ctx tx).1).set (wCARRY + 1) (s.ledInfl ctx tx).2 else l
  let slot : SlotSt := ⟨ctx, owner, blk false, blk true, s.led.lateCtx.contains ctx, s.led.period, false, false⟩
  let led := { s.led with slots := s.led.slots ++ [slot], lateCtx := s.led.lateCtx.filter (· != ctx), live := mapErase (lkey ctx false) (mapErase (lkey ctx true) s.led.live) }
  ({ s with led := led } : State).refreshSlots

end Sys2Proof.Machine
end

