-- ==== Sys2Proof/Machine/Buffer.lean ====
section
/-! DEFINITION. The frame buffer's cells, partitions, admission and flow-control states (R198 to R206). -/

namespace Sys2Proof.Machine

/-! ## Cells -/

/-- All cells (R198). -/
def cellTotal : Nat := 196608

/-- Cells of a frame of `len` bytes (R198). -/
def cellsOf (len : Nat) : Nat := (len + 255) / 256

def State.fbUse (s : State) (i : Nat) : CellSt := mapGet (fun _ => {}) s.fb.use i

/-- A sum over the 32 port and class pairs. -/
def sum32 (f : Nat → Nat) : Nat := (List.range 32).foldl (fun n i => n + f i) 0

/-- Everything set aside from the shared partition (R199). -/
def State.fbSetAside (s : State) : Nat :=
  s.rd FB_TX_CELLS + s.rd GP_HOLD_CELLS + sum32 (fun i => s.rd (FB_PC_RES_RES i)) + sum32 (fun i => s.rd (FB_PC_HDRM_HDRM i))

/-- Shared cells held. -/
def State.fbSharedUsed (s : State) : Nat := s.fb.use.foldl (fun n e => n + e.2.s) 0

/-- What the partitions hold together (R206). -/
def FbSt.parts (f : FbSt) : Nat := f.use.foldl (fun n e => n + (e.2.r + e.2.s + e.2.h)) 0 + f.hinge + f.tx

/-- The registers that report the counts. -/
def State.fbReport (s : State) : State := ((s.wr FB_FREE_FREE s.fb.free).wr FB_TX_HELD_HELD s.fb.tx).wr FB_SHARED_USED_USED s.fbSharedUsed

/-- The two equations of R206, which the core island checks in every cycle: they can fail anew where a count changes, or where `AUDIT` is
cleared. -/
def State.fbAudit (s : State) : State :=
  if (s.fb.free + s.fb.held = cellTotal && s.fb.held = s.fb.parts) || s.is FB_EVT_AUDIT || !s.islandRuns 5 then s
  else ((s.raise FB_EVT_AUDIT).wr FB_AUDIT_FREE_FREE s.fb.free).wr FB_AUDIT_HELD_HELD s.fb.held

/-- Counts changed: reported and audited. -/
def State.fbSet (s : State) (f : FbSt) : State := (({ s with fb := f } : State).fbReport).fbAudit

/-! ## Flow-control state -/

/-- Is class `k` of port `p` lossless? -/
def State.lossless (s : State) (i : Nat) : Bool := s.bit (FB_LOSSLESS_CLASSES (i / 8)) (i % 8)

/-- The XON threshold that acts: one below XOFF where it is not below it (R203). -/
def State.xonAt (s : State) (i : Nat) : Nat := min (s.rd (FB_PC_XON_XON i)) (s.rd (FB_PC_XOFF_XOFF i) - 1)

/-- Is (p, k) in XOFF after this moment (R203)? -/
def State.xoffNext (s : State) (i : Nat) : Bool :=
  let x := s.fbUse i
  let use := x.r + x.s + x.h
  if !s.lossless i then false
  else if s.rd (FB_PC_XOFF_XOFF i) ≤ use || x.h != 0 then true
  else if use ≤ s.xonAt i then false
  else s.bit FB_XOFF_STAT_XOFF i

/-- Flow-control mode of channel `c` (R151, R154): 3 acts as 0, and a channel of an enabled protected pair has none. -/
def State.fcMode (s : State) (c : Nat) : Nat :=
  let paired := (List.range 8).any (fun k => s.is (GP_PAIR_CFG_EN k) &&
    [s.rd (GP_PAIR_CFG_WORK k), s.rd (GP_PAIR_CFG_PROT k)].any (fun g => s.is (GP_GRP_CFG_EN g) && s.rd (GP_GRP_CFG_CHAN g) == c))
  if paired || s.rd (MC_FC_CFG_MODE c) = 3 then 0 else s.rd (MC_FC_CFG_MODE c)

/-- Classes of port `p` in XOFF. -/
def State.xoffOf (s : State) (p : Nat) : Nat := bits (s.rd FB_XOFF_STAT_XOFF) (8 * p) 8

/-- A class of channel `c` changes its state, so a control frame becomes due (R154). What entered XOFF under another mode sends
nothing. -/
def State.fcChange (s : State) (c k : Nat) (off : Bool) : State :=
  let x := s.ch c
  let mine := off || x.xoffMine.testBit k
  let x := { x with xoffMine := if off then x.xoffMine ||| 2 ^ k else x.xoffMine - (x.xoffMine &&& 2 ^ k) }
  let s := s.setCh c x
  if !s.is (MC_FC_CFG_TX_GEN c) || !mine then s
  else if s.fcMode c = 2 then
    (if s.bit (MC_FC_CFG_PFC_CLASSES c) k then
      s.setCh c { x with ctlDue := true, xonChg := if off then x.xonChg - (x.xonChg &&& 2 ^ k) else x.xonChg ||| 2 ^ k }
    else s)
  else if s.fcMode c = 1 then (if off || x.xoffMine = 0 then s.setCh c { x with ctlDue := true } else s)
  else s

/-- The flow-control state of (p, k) follows its counts (R203), and the port's channels hear of a change (R154). -/
def State.xoffRefresh (s : State) (i : Nat) : State :=
  let off := s.xoffNext i
  if s.bit FB_XOFF_STAT_XOFF i == off then s
  else (s.putBit FB_XOFF_STAT_XOFF i off).each (List.range 8) (fun s j => s.fcChange (8 * (i / 8) + j) (i % 8) off)

/-- The counts of (p, k) change. -/
def State.fbSetUse (s : State) (i : Nat) (x : CellSt) (free : Nat) : State :=
  let s := s.fbSet { s.fb with free := free, held := s.fb.held + s.fb.free - free, use := mapSet (fun _ => {}) s.fb.use i x }
  ((s.wr (FB_PC_USE_USE i) (x.r + x.s + x.h)).wr (FB_PC_HUSE_HUSE i) x.h).xoffRefresh i

/-! ## Admission -/

/-- Where `n` cells of (p, k) would go: reserve, shared, headroom (R202); none where they do not all fit. -/
def State.fbPlace (s : State) (i n : Nat) : Option CellSt :=
  let x := s.fbUse i
  let r := min n (s.rd (FB_PC_RES_RES i) - x.r)
  let shared := min (s.rd (FB_PC_SHMAX_SHMAX i) - x.s) (s.rd FB_SHARED_SIZE - s.fbSharedUsed)
  let sh := min (n - r) shared
  let h := if s.lossless i then min (n - r - sh) (s.rd (FB_PC_HDRM_HDRM i) - x.h) else 0
  if r + sh + h = n ∧ n ≤ s.fb.free then some ⟨x.r + r, x.s + sh, x.h + h⟩ else none

/-- A receive frame takes its cells, or the refusal is counted (R202). -/
def State.fbAdmit (s : State) (i n : Nat) : Bool × State :=
  match s.fbPlace i n with
  | some x => (true, s.fbSetUse i x (s.fb.free - n))
  | none =>
    let s := s.bump (FB_PC_DROP_COUNT i)
    (false, if s.lossless i then s.setBit FB_EVT_HDRM_OVER (i / 8) else s)

/-- A receive frame gives its cells back: headroom first, then shared, then reserve (R202). -/
def State.fbFreeRx (s : State) (i n : Nat) : State :=
  let x := s.fbUse i
  let h := min n x.h
  let sh := min (n - h) x.s
  let r := min (n - h - sh) x.r
  s.fbSetUse i ⟨x.r - r, x.s - sh, x.h - h⟩ (s.fb.free + (h + sh + r))

/-- May a transmit frame take `n` cells (R205)? -/
def State.fbTxFits (s : State) (n : Nat) : Bool := s.fb.tx + n ≤ s.rd FB_TX_CELLS && n ≤ s.fb.free

/-- Transmit cells taken and freed. -/
def State.fbTakeTx (s : State) (n : Nat) : State := s.fbSet { s.fb with free := s.fb.free - n, held := s.fb.held + n, tx := s.fb.tx + n }
def State.fbFreeTx (s : State) (n : Nat) : State := s.fbSet { s.fb with free := s.fb.free + n, held := s.fb.held - n, tx := s.fb.tx - n }

/-- Hinge cells taken and freed (R204). -/
def State.fbTakeHinge (s : State) (n : Nat) : State := s.fbSet { s.fb with free := s.fb.free - n, held := s.fb.held + n, hinge := s.fb.hinge + n }
def State.fbFreeHinge (s : State) (n : Nat) : State := s.fbSet { s.fb with free := s.fb.free + n, held := s.fb.held - n, hinge := s.fb.hinge - n }

/-- Register writes of the frame buffer, `GP_HOLD` among them: a write that would make the shared size negative is refused
(R200); thresholds and lossless bits act on the flow-control states at once. -/
def State.fbWrite (s : State) (off v : Nat) : State :=
  if off = 0x0A0004 ∨ off = 0x041404 ∨ (0x0A0100 ≤ off ∧ off < 0x0A0180) ∨ (0x0A0200 ≤ off ∧ off < 0x0A0280) then
    let t := s.writePlain off v
    if t.fbSetAside ≤ cellTotal then t.wr FB_SHARED_SIZE (cellTotal - t.fbSetAside) else s.bump FB_CFG_REJ_COUNT
  else ((s.writePlain off v).each (List.range 32) (fun s i => s.xoffRefresh i)).fbAudit

end Sys2Proof.Machine
end

