-- ==== Sys2Proof/Machine/RingBase.lean ====
section
/-! DEFINITION. Shared operations of the ring engine (R223 to R256): ring arithmetic, contexts and queues, events, notification
vectors, dirty-page marks, command completions, and the ends of frames. -/

namespace Sys2Proof.Machine

/-! ## Status codes (R13) -/

def sOK : Nat := 0
def sSTATE : Nat := 1
def sBADARG : Nat := 2
def sNORES : Nat := 3
def sFAULT : Nat := 4
def sSQUASHED : Nat := 5
def sTIMEOUT : Nat := 6
def sTRUNC : Nat := 7
def sPOLICED : Nat := 8

/-- The status of a request that did not return `OKAY` (R233). -/
def faultOf (r : Resp) : Nat := if r = .timeout then sTIMEOUT else sFAULT

/-! ## Rings (R223) -/

/-- Occupancy (PI − CI) mod 2S of a ring of 2ⁿ entries. -/
def occ (n pi ci : Nat) : Nat := (pi + 2 ^ (n + 1) - ci) % 2 ^ (n + 1)

/-- The index after `i`. -/
def nextIdx (n i : Nat) : Nat := (i + 1) % 2 ^ (n + 1)

/-- Address of entry `i` of a ring with entries of `size` bytes. -/
def slotAddr (base n i size : Nat) : Nat := base + i % 2 ^ n * size

/-- `PHASE` in bit 7 of an entry's last byte (R225). -/
def phase (n i : Nat) : Nat := if i < 2 ^ n then 0x80 else 0

/-! ## Contexts, queues and frames -/

def State.ctx (s : State) (x : Nat) : CtxSt := mapGet (fun _ => {}) s.ctxs x
def State.setCtx (s : State) (x : Nat) (c : CtxSt) : State := { s with ctxs := mapSet (fun _ => {}) s.ctxs x c }

/-- Pool queue: transmit n is n, receive n is 32,768 + n. -/
def State.q (s : State) (k : Nat) : QSt := mapGet (fun _ => {}) s.qs k
def State.setQ (s : State) (k : Nat) (x : QSt) : State := { s with qs := mapSet (fun _ => {}) s.qs k x }

def State.setRx (s : State) (id : Nat) (f : RxFr) : State := { s with rxs := optSet s.rxs id f }
def State.delRx (s : State) (id : Nat) : State := { s with rxs := mapErase id s.rxs }
def State.txf (s : State) (id : Nat) : Option TxFr := optGet s.txs id
def State.setTx (s : State) (id : Nat) (f : TxFr) : State := { s with txs := optSet s.txs id f }
def State.delTx (s : State) (id : Nat) : State := { s with txs := mapErase id s.txs }

/-- Context states (R257). -/
def cFREE : Nat := 0
def cACTIVE : Nat := 1
def cRESETTING : Nat := 2
def cFREEZING : Nat := 3
def cFROZEN : Nat := 4

/-- Queue states (R244). -/
def qUNSET : Nat := 0
def qRUN : Nat := 1
def qSTOPPING : Nat := 2
def qSTOPPED : Nat := 3

/-- The pool queue behind queue `i` of a context, none where it is not allocated. -/
def State.poolQ (s : State) (x i : Nat) (rx : Bool) : Option Nat :=
  if rx then ((s.ctx x).rxq[i]?).map (· + 32768) else (s.ctx x).txq[i]?

/-- A command or frame answered `STATE` is counted for its context (R13, R252). -/
def State.countState (s : State) (x : Nat) : State := s.bump (HR_CTX_CNT_STATE_CNT x)

/-! ## Notification (R248) -/

def State.vec (s : State) (x v : Nat) : VecSt := mapGet (fun _ => {}) (s.ctx x).vecs v
def State.setVec (s : State) (x v : Nat) (n : VecSt) : State :=
  s.setCtx x { s.ctx x with vecs := mapSet (fun _ => {}) (s.ctx x).vecs v n }

/-- Are the context's messages held: while it freezes or is frozen (R270, R272)? -/
def State.msgHeld (s : State) (x : Nat) : Bool := (s.ctx x).state == cFREEZING || (s.ctx x).state == cFROZEN

/-- Is this the message of vector `v` of context `x`, and not yet issued? -/
def Req.waits (x v : Nat) (r : Req) : Bool := r.kind == .notify && r.a == x && r.b == v && r.tag.isNone

/-- A message that waited has been issued: every entry that was unannounced is announced (R248). -/
def State.vecSettle (s : State) (x v : Nat) : State :=
  let n := s.vec x v
  if n.msg && !s.fab.reqs.any (fun r => r.waits x v) then s.setVec x v { n with un := [], msg := false } else s

/-- A message not yet issued is called back: its entries stay unannounced. -/
def State.vecRecall (s : State) (x v : Nat) : State :=
  let s := s.vecSettle x v
  let s : State := { s with fab := { s.fab with reqs := s.fab.reqs.filter (fun r => !r.waits x v) } }
  s.setVec x v { s.vec x v with msg := false }

/-- The vector's message is sent where its conditions hold (R248); one that waits already announces whatever comes before its issue. -/
def State.vecCheck (s : State) (x v : Nat) : State :=
  let s := s.vecSettle x v
  let n := s.vec x v
  let waited : Bool := n.modUs == 0 || (match n.un with
    | t :: _ => t + 1600 * n.modUs ≤ s.tm.tick
    | [] => false)
  if !n.msg && n.un ≠ [] && (max 1 n.modCnt ≤ n.un.length || waited) && !n.mask && !s.msgHeld x then
    ((s.hostNotify .notify x v n.addr (leBytes 4 n.data)).setVec x v { n with msg := true }).vecSettle x v
  else s

/-- An entry becomes unannounced on a vector. -/
def State.announce (s : State) (x v : Nat) : State :=
  let s := s.vecSettle x v
  let n := s.vec x v
  (s.setVec x v { n with un := n.un ++ [s.tm.tick] }).vecCheck x v

/-! ## Events (R245 to R247, R279) -/

/-- An event is lost (R247). -/
def State.evLost (s : State) (x : Nat) : State := (s.bump (HR_CTX_EVL_EV_LOST x)).raise HR_EVT_EV_LOST

/-- An event is written to the context's ring, or counted as lost (R247); a frozen context's rings are not written (R272). -/
def State.event (s : State) (x type queue : Nat) (rx : Bool) (status idx addr : Nat) : State :=
  if (s.ctx x).state = cFROZEN then s
  else match (s.ctx x).evr with
    | none => s.evLost x
    | some r =>
      if occ r.log2 r.pi r.ci ≥ 2 ^ r.log2 then s.evLost x
      else
        let lost := s.rd (HR_CTX_EVL_EV_LOST x)
        let data := leBytes 4 (type + 2 ^ 8 * queue + 2 ^ 14 * b2n rx + 2 ^ 16 * status) ++ leBytes 2 idx ++ leBytes 2 lost ++
          leBytes 8 (addr % 2 ^ 57 + 2 ^ 56 * phase r.log2 r.pi)
        ((s.setCtx x { s.ctx x with evr := some { r with pi := nextIdx r.log2 r.pi } }).wr (HR_CTX_EVL_EV_LOST x) 0).hostWrite
          .event x r.pi (slotAddr r.base r.log2 r.pi 16) data

/-! ## Dirty-page marks (R276) -/

/-- A write for context `x` at `addr` has answered: its page is marked where the session covers it. Marks for one byte in one core cycle are
one write. -/
def State.dirtyMark (s : State) (x addr : Nat) : State :=
  match (s.ctx x).dirty with
  | some d =>
    let b := d.bitmap + (addr - d.region) / 4096 / 8
    let old := if d.markAt = s.tm.tick then d.marks else []
    let merged := old.contains b && s.fab.reqs.any (fun r => r.kind == .dirtyMark && r.a == x && r.addr == b)
    if !d.fault && !d.stopping && decide (d.region ≤ addr) && decide (addr < d.region + 4096 * d.pages) && !merged then
      (s.setCtx x { s.ctx x with dirty := some { d with markAt := s.tm.tick, marks := b :: old } }).hostWrite .dirtyMark x 0 b [0xFF]
    else s
  | none => s

/-! ## Command completions (R255) -/

/-- Registers of the command ring. -/
def State.cmdLog2 (s : State) : Nat := if 6 ≤ s.rd HR_CMD_CFG_LOG2 then s.rd HR_CMD_CFG_LOG2 else 6
def State.cmdcBase (s : State) : Nat := 64 * s.rd HR_CMDC_BASE_LO_ADDR_LO + 2 ^ 32 * s.rd HR_CMDC_BASE_HI_ADDR_HI

/-- The completion entry of a command (R255). -/
def cmplEntry (c : CmdSt) (status result ph : Nat) : List Byte :=
  leBytes 2 c.tag ++ leBytes 1 c.op ++ leBytes 1 status ++ leBytes 4 c.ctx ++ leBytes 16 result ++ leBytes 7 0 ++ leBytes 1 ph

/-- `HR_CMD_STAT.ACTIVE`. -/
def State.refreshActive (s : State) : State := s.wr HR_CMD_STAT_ACTIVE (min 255 s.ring.active.length)

/-- A completion entry is written while the ring is enabled (R249, R255). -/
def State.cmdWrite (s : State) (id : Nat) (c : CmdSt) (status result : Nat) : State :=
  let s := if status = sSTATE then s.countState c.ctx else s
  if s.is HR_CMD_CFG_EN then
    let n := s.cmdLog2
    let i := s.ring.cpi
    ({ s with ring := { s.ring with cpi := nextIdx n i } } : State).hostWrite .cmdCmpl id i
      (slotAddr s.cmdcBase n i 32) (cmplEntry c status result (phase n i))
  else s

/-- The commands of R253. -/
def knownOps : List Nat :=
  [0, 1, 2, 3, 4, 5, 6, 7, 8, 9, 0x10, 0x11, 0x12, 0x13, 0x14, 0x15, 0x16, 0x17, 0x20, 0x21, 0x22, 0x23, 0x30]

/-- The next command is read: one at a time, while the ring is enabled and not halted (R249, R256). -/
def State.cmdFetch (s : State) : State :=
  let i := s.rd HR_CMD_STAT_CI
  if s.is HR_CMD_CFG_EN && !s.is HR_CMD_STAT_HALTED && !s.ring.reading && s.ring.heads.isEmpty && s.rd HR_CMD_PI_PI != i then
    ({ s with ring := { s.ring with reading := true } } : State).hostRead .cmdRead 0 i
      (slotAddr (64 * s.rd HR_CMD_BASE_LO_ADDR_LO + 2 ^ 32 * s.rd HR_CMD_BASE_HI_ADDR_HI) s.cmdLog2 i 64) 64
  else s

/-- The header of a command entry (R250). -/
def cmdOf (e : List Byte) : CmdSt := ⟨byteAt e 0, leNat e 2 2, leNat e 4 2 % 4096, e⟩

/-- May the command read next start: unless `FENCE` holds it back (R251)? -/
def State.cmdMayStart (s : State) (e : List Byte) : Bool := bitN (byteAt e 1) 0 == 0 || s.ring.active.isEmpty

/-- The command read next leaves the ring: the consumer index follows, and the one after it is read. -/
def State.cmdTake (s : State) : State :=
  (({ s with ring := { s.ring with heads := s.ring.heads.drop 1 } } : State).wr HR_CMD_STAT_CI
    (nextIdx s.cmdLog2 (s.rd HR_CMD_STAT_CI))).cmdFetch

/-- A command of no known `OP` starts and ends with `BADARG` (R252). -/
def State.cmdUnknown (s : State) : State :=
  match s.ring.heads with
  | e :: _ => if knownOps.contains (byteAt e 0) || !s.cmdMayStart e then s else (s.cmdTake).cmdWrite s.ring.nextId (cmdOf e) sBADARG 0
  | [] => s

/-- An active command completes (R251, R255). -/
def State.cmdDone (s : State) (id status result : Nat) : State :=
  match optGet s.ring.active id with
  | none => s
  | some c =>
    let s := ({ s with ring := { s.ring with active := mapErase id s.ring.active } } : State).refreshActive
    (s.cmdWrite id c status result).cmdUnknown

/-- Complete a command if there is one to complete. -/
def State.cmdDone? (s : State) (id : Option Nat) (status result : Nat) : State :=
  match id with
  | some i => s.cmdDone i status result
  | none => s

/-! ## Queues -/

/-- A queue enters `STOPPING` by a fault, whose event names the index and address (R233, R242, R244); one that drains stops fetching. -/
def State.qFault (s : State) (k type status idx addr : Nat) : State :=
  let q := s.q k
  let s := if q.state = qRUN then (s.setQ k { q with state := qSTOPPING, faulted := true, last := status }).raise HR_EVT_RING_FAULT
    else s.setQ k { q with drainPi := none }
  (if type = 2 then s.raise HR_EVT_CMPL_FAULT else s).event q.ctx type q.qidx (decide (k ≥ 32768)) status idx addr

/-- Has a draining transmit queue posted descriptors left to read (R266, R267)? -/
def QSt.unread (q : QSt) : Bool := match q.drainPi with
  | some p => occ q.log2 p q.fp != 0
  | none => false

/-- Drop from a queue's order the frames at its head that ended without an entry of their own (R237). -/
def txTidyGo (txs : SMap TxFr) : List Nat → List Nat × SMap TxFr
  | [] => ([], txs)
  | id :: r =>
    match optGet txs id with
    | some f => if f.stage = .ended && !f.need then txTidyGo (mapErase id txs) r else (id :: r, txs)
    | none => txTidyGo txs r

def State.txTidy (s : State) (k : Nat) : State :=
  let r := txTidyGo s.txs (s.q k).order
  { s with txs := r.2 }.setQ k { s.q k with order := r.1 }

/-- Has every frame of the queue ended? -/
def State.allEnded (s : State) (k : Nat) : Bool :=
  (s.q k).order.all (fun i => match s.txf i with
    | some g => g.stage == .ended
    | none => true)

/-- The ended frames of queue `k` are tidied away (R237). While it is `STOPPING`, the last descriptor of those that have ended since waits until it
is known whether another follows: where none does, it needs an entry. -/
def State.txSettle (s : State) (k : Nat) : State :=
  let q := s.q k
  if q.state ≠ qSTOPPING ∨ s.allEnded k = false then s.txTidy k
  else if q.reading ≠ 0 ∨ q.unread = true then s
  else (match q.lastEnd.bind (fun i => (s.txf i).map (fun f => (i, f))) with
    | some (i, f) => s.setTx i { f with need := true }
    | none => s).txTidy k

/-- A transmit descriptor ends with a status (R236): whether it needs an entry of its own is decided here (R237). -/
def State.txEnd (s : State) (id status : Nat) : State :=
  match s.txf id with
  | none => s
  | some f =>
    let flags := byteAt f.desc 0x0A
    let need := bitN flags 4 == 1 || bitN flags 3 == 1 || status != sOK
    let s := s.setTx id { f with stage := .ended, status := status, need := need, data := [], wire := [] }
    let s := s.setQ f.queue { s.q f.queue with lastEnd := if (s.q f.queue).state = qSTOPPING then some (max id ((s.q f.queue).lastEnd.getD 0)) else none }
    let s := if status = sSTATE then s.countState f.ctx else s
    s.txSettle f.queue

/-- A transmit frame is dropped in the core or in staging under a cause, and its descriptor ends (R236). -/
def State.txDropMain (s : State) (id cause status : Nat) : State :=
  match s.txf id with
  | none => s
  | some f =>
    let s := if f.cells = 0 then s else s.fbFreeTx f.cells
    let s := s.setTx id { f with cells := 0 }
    (s.ledDrop id f.ctx true s.tm.now cause f.len).txEnd id status

/-- Has frame `m` a copy left that has not gone (R120)? -/
def State.copiesLeft (s : State) (m : Nat) : Bool := s.txs.any (fun e => e.2.main == some m)

/-- The same for a copy of a protected frame (R120): the frame itself is dropped only where no copy is left and none has gone. -/
def State.txDropNow (s : State) (id cause status : Nat) : State :=
  match (s.txf id).bind (fun (f : TxFr) => f.main) with
  | none => s.txDropMain id cause status
  | some m =>
    let s := s.delTx id
    match s.txf m with
    | some g => if s.copiesLeft m || g.stage == .ended then s else s.txDropMain m cause status
    | none => s

/-- A slice reports a frame it drops; only the core island counts it and frees its cells, once its clock is there (R20, R31). -/
def State.txDrop (s : State) (id cause status : Nat) : State :=
  if s.coreUp then s.txDropNow id cause status
  else match s.txf id with
    | some f => s.setTx id { f with stage := .sent, fate := some (cause, status) }
    | none => s

/-- A received frame is dropped in the core under a cause (R33): its cells go back. -/
def State.rxDropNow (s : State) (id cause : Nat) : State :=
  match s.rxf id with
  | none => s
  | some f =>
    let x := (f.verdict.getD {}).ctx
    let s := if f.cells = 0 then s else s.fbFreeRx (8 * f.port + (f.verdict.getD {}).cls) f.cells
    (s.ledDrop id x false s.tm.now cause f.len).delRx id

/-- The same for a frame that a slice loses: the core island hears of it once its clock is there (R20, R31). -/
def State.rxDrop (s : State) (id cause : Nat) : State :=
  if s.coreUp then s.rxDropNow id cause
  else match s.rxf id with
    | some f => s.setRx id { f with stage := .lost, fate := some cause }
    | none => s

/-- A frame's last FCS byte has passed, and the core island hears of it (R35, R120, R236, R442). -/
def State.txGone (s : State) (id : Nat) (f : TxFr) : State :=
  let m := f.main.getD id
  let s := if f.main.isSome then s.delTx id else s
  match s.txf m with
  | none => s
  | some g =>
    if g.stage == .ended then s
    else
      let s := s.setTx m { g with stamp := f.stamp }
      let s := if g.cells = 0 then s else s.fbFreeTx g.cells
      if f.bad then (s.ledDrop m g.ctx true s.tm.now 7 g.len).txEnd m sFAULT else (s.ledDeliver m g.ctx true s.tm.now g.len).txEnd m sOK

/-- The core island takes what slices have reported while its clock stood (R20, R31). -/
def State.takeSent (s : State) : State :=
  let s := s.each (s.txs.filter (fun e => e.2.stage == .sent)) (fun s e =>
    match e.2.fate with
    | some d => s.txDropNow e.1 d.1 d.2
    | none => s.txGone e.1 e.2)
  s.each (s.rxs.filter (fun e => e.2.stage == .lost)) (fun s e => s.rxDropNow e.1 (e.2.fate.getD 0))

/-! ## Staging (R213) -/

/-- Frames staged for class `k` of channel `c`, the head first. -/
def State.stagedOf (s : State) (c k : Nat) : List Nat := mapGet (fun _ => []) (s.ch c).staged k
def State.setStaged (s : State) (c k : Nat) (l : List Nat) : State :=
  s.setCh c { s.ch c with staged := mapSet (fun _ => []) (s.ch c).staged k l }

/-- Length of a transmit frame. -/
def State.txLen (s : State) (id : Nat) : Nat := match s.txf id with
  | some f => f.len
  | none => 0

/-- Bytes class `k` of channel `c` holds in staging, a frame on the line among them (R213). -/
def State.stagedBytes (s : State) (c k : Nat) : Nat :=
  (s.stagedOf c k).foldl (fun n id => n + s.txLen id) 0 + (match (s.ch c).line with
    | .frame id => (match s.txf id with
      | some f => if f.cls = k then f.len else 0
      | none => 0)
    | _ => 0)

/-- Bytes channel `c` holds in staging, shown in `SC_CH_STAT`. -/
def State.chanBytes (s : State) (c : Nat) : Nat := (List.range 8).foldl (fun n k => n + s.stagedBytes c k) 0
def State.refreshStaged (s : State) (c : Nat) : State := s.wr (SC_CH_STAT_STAGED c) (s.chanBytes c)

/-- Every frame waiting in staging of channel `c` that a test picks is dropped under a cause (R75, R267, R434). -/
def State.dropStaged (s : State) (c cause status : Nat) (p : TxFr → Bool) : State :=
  (s.each (List.range 8) (fun s k =>
    let pick (id : Nat) : Bool := match s.txf id with
      | some f => p f
      | none => false
    let out := (s.stagedOf c k).filter pick
    (s.setStaged c k ((s.stagedOf c k).filter (fun id => !pick id))).each out (fun s id => s.txDrop id cause status))).refreshStaged c

end Sys2Proof.Machine
end

