-- ==== Sys2Proof/Machine/LineBase.lean ====
section
/-! DEFINITION. What the T-mode line is made of (R87 to R110, R111): its units, who belongs to which group and pair, stream positions,
the scramblers and checks, and the receive GFP-F stream of a channel. -/

namespace Sys2Proof.Machine

def State.lane (s : State) (i : Nat) : LaneSt := mapGet (fun _ => {}) s.lanes i
def State.setLane (s : State) (i : Nat) (x : LaneSt) : State := { s with lanes := mapSet (fun _ => {}) s.lanes i x }
def State.fr (s : State) (j : Nat) : FrSt := mapGet (fun _ => {}) s.frs j
def State.setFr (s : State) (j : Nat) (x : FrSt) : State := { s with frs := mapSet (fun _ => {}) s.frs j x }
def State.grp (s : State) (g : Nat) : GrpSt := mapGet (fun _ => {}) s.grps g
def State.setGrp (s : State) (g : Nat) (x : GrpSt) : State := { s with grps := mapSet (fun _ => {}) s.grps g x }
def State.gfp (s : State) (c : Nat) : GfpSt := mapGet (fun _ => {}) s.gfps c
def State.setGfp (s : State) (c : Nat) (x : GfpSt) : State := { s with gfps := mapSet (fun _ => {}) s.gfps c x }
def State.pair (s : State) (k : Nat) : PairSt := mapGet (fun _ => {}) s.pairs k
def State.setPair (s : State) (k : Nat) (x : PairSt) : State := { s with pairs := mapSet (fun _ => {}) s.pairs k x }

/-! ## Who belongs to whom -/

/-- The wired lane of port `p` whose `POS` is `l` (R67), none where no present lane carries it. -/
def State.laneAt (s : State) (p l : Nat) : Option Nat :=
  ((List.range 9).map (9 * p + ·)).find? (fun i => s.lanePresent i && s.sdField (0x200 + 4 * i) 16 4 == l)

/-- `RATE` of a wired lane (R41). -/
def State.laneRate (s : State) (i : Nat) : Nat := s.sdField (0x200 + 4 * i) 3 2

/-- Does position `j` belong to group `g`? -/
def State.inGroup (s : State) (j g : Nat) : Bool := s.is (GP_POS_CFG_IN_GROUP j) && s.rd (GP_POS_CFG_GROUP j) == g

/-- The positions of group `g`. -/
def State.members (s : State) (g : Nat) : List Nat := (List.range 32).filter (fun j => s.inGroup j g)

/-- The enabled group a position belongs to. -/
def State.groupOf (s : State) (j : Nat) : Option Nat :=
  if s.is (GP_POS_CFG_IN_GROUP j) && s.is (GP_GRP_CFG_EN (s.rd (GP_POS_CFG_GROUP j))) then some (s.rd (GP_POS_CFG_GROUP j)) else none

/-- The enabled group bound to channel `c` (R111). -/
def State.boundGroup (s : State) (c : Nat) : Option Nat :=
  (List.range 16).find? (fun g => s.is (GP_GRP_CFG_EN g) && s.rd (GP_GRP_CFG_CHAN g) == c)

/-- The enabled pair of a group, and on which side: working false, protect true. -/
def State.pairOf (s : State) (g : Nat) : Option (Nat × Bool) :=
  match (List.range 8).find? (fun k => s.is (GP_PAIR_CFG_EN k) && (s.rd (GP_PAIR_CFG_WORK k) == g || s.rd (GP_PAIR_CFG_PROT k) == g)) with
  | some k => some (k, s.rd (GP_PAIR_CFG_WORK k) != g)
  | none => none

/-- The enabled pair of a channel's group. -/
def State.pairOfChan (s : State) (c : Nat) : Option (Nat × Bool) := (s.boundGroup c).bind s.pairOf

/-- Is `c` the channel of an enabled pair's protect group (R119)? A group that is not enabled binds no channel (R111). -/
def State.protChan (s : State) (c : Nat) : Bool :=
  (List.range 8).any (fun k => s.is (GP_PAIR_CFG_EN k) && s.is (GP_GRP_CFG_EN (s.rd (GP_PAIR_CFG_PROT k))) &&
    s.rd (GP_GRP_CFG_CHAN (s.rd (GP_PAIR_CFG_PROT k))) == c)

/-! ## Statistics -/

/-- A statistic of channel `c` counts (R159): a saturation sets the port's event bit. A protect group's channel keeps none: the working
one carries the pair's statistics (R119; log entry 104). -/
def State.stat (s : State) (c n : Nat) (k : Nat := 1) : State :=
  if s.protChan c then s
  else
  let v := s.rd64 (MC_STAT_LO_COUNT c n) (MC_STAT_HI_COUNT c n) + k
  let s := s.wr64 (MC_STAT_LO_COUNT c n) (MC_STAT_HI_COUNT c n) (min v (2 ^ 64 - 1))
  if v < 2 ^ 64 then s else s.setBit MC_EVT_STAT_SAT (c / 8)

/-- A statistic counts where a condition holds. -/
def State.statIf (s : State) (b : Bool) (c n : Nat) (k : Nat := 1) : State := if b then s.stat c n k else s

/-- Bin of a length (R159, n = 22 to 28). -/
def lenBin (n : Nat) : Nat :=
  if n = 64 then 22 else if n ≤ 127 then 23 else if n ≤ 255 then 24 else if n ≤ 511 then 25 else if n ≤ 1023 then 26
  else if n ≤ 1518 then 27 else 28

/-- What the statistics count of a delineated frame of `n` bytes, whose destination address leads `f` (R159). -/
def State.rxStats (s : State) (c n : Nat) (f : List Byte) (flags : Nat) : State :=
  let n := min n 1048575
  if flags = 0 then
    let bcast := f.take 6 == List.replicate 6 (0xFF : Byte)
    let s := (((s.stat c 0).stat c 1 n).statIf bcast c 2).statIf (!bcast && bitN (byteAt f 0) 0 == 1) c 3
    s.stat c (lenBin n)
  else
    let s := ((s.statIf (bitN flags 2 == 1) c 4).statIf (bitN flags 3 == 1) c 5).statIf (bitN flags 0 == 1) c 6
    (s.statIf (bitN flags 1 == 1) c 7).stat c 9 n

/-! ## The shade set of a MAC channel (R133, R134, R262) -/

/-- The values the shade set of channel `c` holds. -/
def State.macShade (s : State) (c : Nat) : MacLive :=
  {
    deliverBad := s.is (MC_CFG_DELIVER_BAD c), stripFcs := s.is (MC_CFG_STRIP_FCS c), rxStrip := s.rd (MC_CFG_RX_STRIP c),
    csumRx := s.is (MC_CFG_CSUM_RX c), inner := s.is (MC_CFG_INNER c), maxlen := s.rd (MC_MAXLEN_MAXLEN c),
    stpid := s.rd (MC_TAG_CFG_STPID c) }

/-- When both halves have sampled, `GEN` advances and the set unlocks. -/
def State.macDone (s : State) (c : Nat) : State :=
  let x := s.ch c
  if x.rxDue || x.txDue || !s.is (MC_COMMIT_LOCKED c) then s
  else (s.wr (MC_COMMIT_GEN c) (s.rd (MC_COMMIT_GEN c) + 1)).wr (MC_COMMIT_LOCKED c) 0

/-- A half samples the shade set where it is due (R133). -/
def State.macRx (s : State) (c : Nat) : State :=
  if (s.ch c).rxDue then (s.setCh c { s.ch c with rx := s.macShade c, rxDue := false }).macDone c else s
def State.macTx (s : State) (c : Nat) : State :=
  if (s.ch c).txDue then (s.setCh c { s.ch c with tx := s.macShade c, txDue := false }).macDone c else s

/-- Did the last commit come in this very cycle? -/
def State.comNow (s : State) (c : Nat) : Bool := (s.ch c).comAt == some s.tm.tick

/-- A frame starts: the half samples where a commit came in an earlier cycle (R133). -/
def State.rxSample (s : State) (c : Nat) : State := if s.comNow c then s else s.macRx c
def State.txSample (s : State) (c : Nat) : State := if s.comNow c then s else s.macTx c

/-- What governs a frame that starts now. -/
def State.rxLive (s : State) (c : Nat) : MacLive := if s.comNow c then (s.ch c).rxOld else (s.ch c).rx
def State.txLive (s : State) (c : Nat) : MacLive := if s.comNow c then (s.ch c).txOld else (s.ch c).tx

/-! ## States -/

/-- Group states (R117). -/
def gOFF : Nat := 0
def gALIGNING : Nat := 1
def gUP : Nat := 2
def State.gState (s : State) (g : Nat) : Nat := s.rd (GP_GRP_STAT_STATE g)

/-! ## Stream positions (R113) -/

/-- Bytes of a segment. -/
def State.segLen (s : State) (g : Nat) : Nat := s.rd (GP_GRP_CFG_N g) * 8160

/-- The working and the protect group of a pair (R119). -/
def State.work (s : State) (k : Nat) : Nat := s.rd (GP_PAIR_CFG_WORK k)
def State.prot (s : State) (k : Nat) : Nat := s.rd (GP_PAIR_CFG_PROT k)
/-- Positions of group `g`'s stream count modulo this: 2³² segments (R113). -/
def State.streamMod (s : State) (g : Nat) : Nat := 2 ^ 32 * s.segLen g

/-- The positions of a pair's streams count modulo this. -/
def State.posMod (s : State) (k : Nat) : Nat := s.streamMod (s.work k)

/-- How far position `a` lies above `b`, modulo the stream. -/
def posDist (m a b : Nat) : Nat := if m = 0 then 0 else (a + m - b % m) % m

/-- Does `a` lie below `b`? -/
def posBelow (m a b : Nat) : Bool := m ≤ 2 * posDist m a b

/-- Position `a` moved on by `n`. -/
def posAdd (m a n : Nat) : Nat := if m = 0 then a + n else (a + n) % m

/-! ## Scramblers -/

/-- `MODE` is `TEST` (R41). -/
def State.inTest (s : State) : Bool := s.rd SYS_STATE_MODE == 2

/-- The seed of R94. -/
def riltorSeed (mfc member : Nat) : Nat :=
  let x := mfc % 2 ^ 31 ^^^ (member % 32 * 2 ^ 26)
  if x = 0 then 2 ^ 31 - 1 else x

/-- One byte of the x³¹ + x²⁸ + 1 sequence added, bit 0 first (R94). -/
def scrByte (st : Nat) (b : Byte) : Nat × Byte :=
  (List.range 8).foldl (fun (p : Nat × Byte) i =>
    let out := (p.1 / 2 ^ 30 + p.1 / 2 ^ 27) % 2
    ((p.1 * 2 + out) % 2 ^ 31, p.2 ^^^ BitVec.ofNat 8 (out * 2 ^ i))) (st, b)

/-- Scrambling and descrambling are one operation (R94). -/
def scramble : Nat → List Byte → List Byte
  | _, [] => []
  | st, b :: l => let r := scrByte st b; r.2 :: scramble r.1 l

/-- One byte of the self-synchronous x⁴³ + 1 scrambler or descrambler, most significant bit first (R104; bit order: log entry 16). -/
def x43Byte (rx : Bool) (st : Nat) (b : Byte) : Nat × Byte :=
  (List.range 8).foldl (fun (p : Nat × Byte) i =>
    let d := bitN b.toNat (7 - i)
    let o := (d + bitN p.1 42) % 2
    ((p.1 * 2 + (if rx then d else o)) % 2 ^ 43, p.2 ||| BitVec.ofNat 8 (o * 2 ^ (7 - i)))) (st, 0)

def x43 (rx : Bool) : Nat → List Byte → Nat × List Byte
  | st, [] => (st, [])
  | st, b :: l =>
    let r := x43Byte rx st b
    let t := x43 rx r.1 l
    (t.1, r.2 :: t.2)

/-- Exclusive-OR of the little-endian 16-bit words (R91). -/
def parity16 : List Byte → Nat
  | a :: b :: l => (a.toNat + 256 * b.toNat) ^^^ parity16 l
  | [a] => a.toNat
  | [] => 0

/-! ## Core and type headers (R102 to R106) -/

/-- The exclusive-OR of core headers (R102). -/
def coreXor (l : List Byte) : List Byte := List.zipWith (· ^^^ ·) l [0xB6, 0xAB, 0x31, 0xE0]

/-- Does a header's check field fit its first two bytes (R103)? -/
def hecFits (v : Nat) : Bool := crc16 (beBytes 2 (v / 65536)) == v % 65536

/-- The header with the one bit corrected that makes it fit (R105, R106). -/
def hecFix (v : Nat) : Option Nat := ((List.range 32).map (fun i => v ^^^ 2 ^ i)).find? hecFits

/-- The core header at offset `o` of a stream. -/
def coreAt (l : List Byte) (o : Nat) : Nat := beNat (coreXor ((l.drop o).take 4)) 0 4

/-- The payload FCS of G.7041: CRC-32, most significant bit first (log entry 16). -/
def pfcs (l : List Byte) : Nat := crcRunM 32 0x04C11DB7 0xFFFFFFFF l ^^^ 0xFFFFFFFF

/-! ## The GFP stream (R105, R106) -/

def fHUNT : Nat := 0
def fPRESYNC : Nat := 1
def fSYNC : Nat := 2
def fOFF : Nat := 3

/-- The stream of channel `c`, `n` bytes on: positions wrap with the segment count (R113). -/
def State.gfpSkip (s : State) (c n : Nat) : GfpSt :=
  let x := s.gfp c
  { x with buf := x.buf.drop n, pos := posAdd (((s.boundGroup c).map s.streamMod).getD 0) x.pos n }

/-- Is the x⁴³ + 1 scrambler bypassed under a `TF_GFP_CFG` value (R110)? -/
def State.x43Off (s : State) (cfg : Nat) : Bool := bitN cfg 4 == 1 && s.inTest

/-- A payload area descrambled, with the descrambler's state after it (R104). -/
def State.descramble (s : State) (cfg st : Nat) (area : List Byte) : Nat × List Byte :=
  if s.x43Off cfg then (st, area) else x43 true st area

/-- What a payload area holds (R106). -/
inductive Area where
  | uncorrectable | clientFail | unsupported
  | client (data : List Byte) (bad : Bool) (pfi : Nat)
  deriving DecidableEq, Repr

/-- The type header of an area, corrected where `THEC_CORR_EN` allows it (R106). -/
def typeHeader (cfg v : Nat) : Option Nat := if hecFits v then some v else if bitN cfg 3 = 1 then hecFix v else none

/-- What the descrambled bytes `d` of a payload area of `n` bytes hold, as far as they have come, by the rows of R106 behind PLI. -/
def areaOf (cfg n : Nat) (d : List Byte) : Area :=
  match typeHeader cfg (beNat d 0 4) with
  | none => .uncorrectable
  | some u =>
    let t := u / 65536
    let pfi := bitN t 12
    if bits t 13 3 = 4 ∧ (t % 256 = 1 ∨ t % 256 = 2) then .clientFail
    else if bits t 13 3 ≠ 0 ∨ bits t 8 4 ≠ 0 ∨ t % 256 ≠ 1 ∨ n < 5 + 4 * pfi then .unsupported
    else
      let m := n - 4 - 4 * pfi
      let client := (d.drop 4).take m
      .client client (pfi == 1 && bitN cfg 1 == 1 && beNat d (4 + m) 4 != pfcs client) pfi

/-- The payload area of a frame of `n` bytes in `SYNC`, descrambled (R106); `cut` says that no more of it than `d` has come. A client frame that
is passed clears `CSF_RX`. -/
def State.gfpArea (s : State) (c n : Nat) (d : List Byte) (cut : Bool) : State :=
  let x := s.gfp c
  let s := if !hecFits (beNat d 0 4) && (typeHeader x.cfg (beNat d 0 4)).isSome then s.bump (TF_GFP_HEC_THEC_CORR c) else s
  match areaOf x.cfg n d with
  | .uncorrectable => s.bump (TF_GFP_DISC_THEC_UNC c)
  | .clientFail => (s.raise (TF_GFP_STAT_CSF_RX c)).bump (TF_GFP_MISC_CSF c)
  | .unsupported => s.bump (TF_GFP_DISC_UNSUP c)
  | .client b bad pfi =>
    if cut && b.isEmpty then s
    else ((if bad && !cut then s.bump (TF_GFP_MISC_PFCS_ERR c) else s).wr (TF_GFP_STAT_CSF_RX c) 0).setGfp c
      { x with clients := x.clients ++ [⟨b, bad && !cut, cut, x.corePos, x.coreTime, pfi, x.coreTick, x.live⟩] }

/-- The frame in progress when the stream breaks off: where its type header has come, it is handled by it, and the client bytes received so far
end as an errored frame (R105, R106; log entry 93). -/
def State.cutClient (s : State) (c : Nat) : State :=
  let x := s.gfp c
  match x.pli with
  | none => s
  | some n =>
    let d := (s.descramble x.cfg x.rxScr (x.buf.take n)).2
    if n < 4 || d.length < 4 then s else s.gfpArea c n d true

/-- The stream leaves its state (R105, R109): an exit from `SYNC` is counted, its link falls and the client frame in progress ends as
errored. -/
def State.gfpLeave (s : State) (c next : Nat) : State :=
  let s := if s.rd (TF_GFP_STAT_STATE c) = fSYNC then
      (((s.cutClient c).setBit TF_EVT_GFP_LOS (c / 8)).bump (TF_GFP_STAT_LOS_CNT c)).wr (TF_GFP_STAT_LINK c) 0
    else s
  (s.setGfp c { s.gfp c with pli := none, count := 0, ahead := 0 }).wr (TF_GFP_STAT_STATE c) next

/-- The counter's value when the stream byte at the tested position came to its member's framer: its time in the stream less the deskew store
delay of the member that carried it (R326). -/
def State.framerTime (s : State) (c : Nat) : Nat :=
  let x := s.gfp c
  let g := (s.boundGroup c).getD 0
  let n := s.rd (GP_GRP_CFG_N g)
  match x.skews.find? (fun e => e.1 == x.pos / s.segLen g) with
  | some e => (s.tm.now + timeMod - e.2.getD (x.pos % n) 0 % timeMod) % timeMod
  | none => s.tm.now

/-- A core header is accepted in `SYNC` at the tested position: the frame behind it runs under the present `TF_GFP_CFG` (R110) and under the MAC
parameters in force (R133). -/
def State.coreAccept (s : State) (c v : Nat) : State :=
  let x := s.gfp c
  let live := s.rxLive c
  let s := if v / 65536 < 4 then s else s.rxSample c
  s.setGfp c { s.gfpSkip c 4 with
    pli := some (v / 65536), corePos := x.pos, coreTime := s.framerTime c, coreTick := s.tm.tick
    live := (if s.comNow c then live else (s.ch c).rx), cfg := s.readPlain (0x040180 + 4 * c) }

/-- The descrambler's state behind the two frames that `PRESYNC` passed over: a frame with PLI below 4 has no payload area (R103, R104). -/
def State.presyncScr (s : State) (c : Nat) : Nat :=
  let x := s.gfp c
  let cfg := s.readPlain (0x040180 + 4 * c)
  let n := coreAt x.buf 0 / 65536
  let m := coreAt x.buf (4 + n) / 65536
  let past (st o k : Nat) : Nat := if k < 4 then st else (s.descramble cfg st ((x.buf.drop o).take k)).1
  past (past x.rxScr 4 n) (8 + n) m

/-- A core header at the tested position (R105). -/
def State.coreStep (s : State) (c : Nat) : State :=
  let st := s.rd (TF_GFP_STAT_STATE c)
  let x := s.gfp c
  if st = fHUNT then
    if x.buf.length < 4 then s
    else if hecFits (coreAt x.buf 0) then
      (s.setGfp c { x with count := 0, ahead := 4 + coreAt x.buf 0 / 65536 }).wr (TF_GFP_STAT_STATE c) fPRESYNC
    else s.setGfp c (s.gfpSkip c 1)
  else if st = fPRESYNC then
    if x.buf.length < x.ahead + 4 then s
    else if !hecFits (coreAt x.buf x.ahead) then (s.setGfp c { s.gfpSkip c 1 with count := 0, ahead := 0 }).wr (TF_GFP_STAT_STATE c) fHUNT
    else if x.count + 1 < 2 then s.setGfp c { x with count := x.count + 1, ahead := x.ahead + 4 + coreAt x.buf x.ahead / 65536 }
    else
      let v := coreAt x.buf x.ahead
      let s := s.setGfp c { s.gfpSkip c x.ahead with count := 0, ahead := 0, since := s.tm.tick, rxScr := s.presyncScr c }
      ((s.coreAccept c v).wr (TF_GFP_STAT_STATE c) fSYNC).setBit TF_EVT_GFP_SYNC (c / 8)
  else if st = fSYNC && x.pli.isNone && 4 ≤ x.buf.length then
    let v := coreAt x.buf 0
    if hecFits v then s.coreAccept c v
    else match (if s.is (TF_GFP_CFG_CHEC_CORR_EN c) then hecFix v else none) with
      | some u => (s.bump (TF_GFP_HEC_CHEC_CORR c)).coreAccept c u
      | none => s.gfpLeave c fHUNT
  else s

/-- The frame behind an accepted core header, where it has arrived whole (R106). -/
def State.gfpFrame (s : State) (c : Nat) : State :=
  let x := s.gfp c
  match x.pli with
  | none => s
  | some n =>
    if s.rd (TF_GFP_STAT_STATE c) ≠ fSYNC ∨ x.buf.length < n then s
    else
      let area := x.buf.take n
      let d := if n < 4 then (x.rxScr, area) else s.descramble x.cfg x.rxScr area
      let s := s.setGfp c { s.gfpSkip c n with pli := none, rxScr := d.1 }
      if n = 0 then s else if n < 4 then s.bump (TF_GFP_DISC_UNSUP c) else s.gfpArea c n d.2 false

/-- What stands in the buffer is taken as far as it goes. -/
def gfpRunGo (c : Nat) : Nat → State → State
  | 0, s => s
  | n + 1, s => gfpRunGo c n (if (s.gfp c).pli.isSome then s.gfpFrame c else s.coreStep c)

/-- A gap in the group's stream (R105): what came before it is taken, then hunt anew from what arrives next. -/
def State.gfpGap (s : State) (c : Nat) : State :=
  if s.rd (TF_GFP_STAT_STATE c) = fOFF then s
  else
    let s := (gfpRunGo c (2 * (s.gfp c).buf.length) s).gfpLeave c fHUNT
    s.setGfp c { s.gfp c with buf := [] }

end Sys2Proof.Machine
end

