-- ==== Sys2Proof/Machine/Groups.lean ====
section
/-! DEFINITION. Concatenated groups and protected pairs (R111 to R130): the hinge's decisions, switching requests, group states and segments. -/

namespace Sys2Proof.Machine

/-! ## The hinge's decisions (R122, R124) -/

/-- Position after a client frame of `len` bytes at `pos` whose header shows `pfi` (R104). -/
def State.posAfter (s : State) (k pos len pfi : Nat) : Nat := (pos + 8 + len + 4 * pfi) % max 1 (s.posMod k)

/-- Cells a copy holds, and the frame it is. -/
def State.copyLen (s : State) (e : Copy) : Nat := match s.rxf e.frame with
  | some f => f.len
  | none => 0
def State.copyBad (s : State) (e : Copy) : Bool := match s.rxf e.frame with
  | some f => f.flags != 0
  | none => false

/-- A copy leaves the hinge's cells (R122). -/
def State.copyFree (s : State) (e : Copy) : State := match s.rxf e.frame with
  | some f => s.fbFreeHinge f.cells |>.setRx e.frame { f with cells := 0 }
  | none => s

/-- A copy is discarded: it feeds no ledger term (R122). -/
def State.copyDiscard (s : State) (e : Copy) : State := (s.copyFree e).delRx e.frame

/-- A copy is passed to stage 4 as a frame of the working channel (R119, R122), and `NEXT` follows it. It leaves the hinge's cells at its decision
(R204). `lone` says that no good working copy came with it: a protect copy then counts in the pair's statistics (R119; log entry 104). -/
def State.copyPass (s : State) (k : Nat) (e : Copy) (lone : Bool) : State :=
  let c := s.rd (GP_GRP_CFG_CHAN (s.work k))
  match s.rxf e.frame with
  | some f =>
    let s := if lone && e.prot then s.rxStats c f.len f.data f.flags else s
    let s := if f.cells = 0 then s else s.fbFreeHinge f.cells
    (s.setRx e.frame { f with stage := .passed, chan := c, cells := 0 }).setPair k { s.pair k with next := some (s.posAfter k e.pos f.len f.pfi) }
  | none => s

/-- The copies waiting at a position. -/
def PairSt.at (x : PairSt) (pos : Nat) : List Copy := x.copies.filter (fun e => e.pos == pos)

/-- Does a position lie below `NEXT`? While nothing has been passed none does. -/
def State.belowNext (s : State) (k pos : Nat) : Bool := match (s.pair k).next with
  | some n => posBelow (s.posMod k) pos n
  | none => false

/-- The lowest position waiting. -/
def State.lowestPos (s : State) (k : Nat) : Option Nat :=
  match (s.pair k).copies with
  | [] => none
  | e :: r => some (r.foldl (fun a b => if posBelow (s.posMod k) b.pos a then b.pos else a) e.pos)

/-- Both copies are there (R124). An errored selected copy is repaired by one that is not whatever their lengths: the example behind R125 repairs
a copy that a gap has cut short (log entry 123). -/
def State.decideBoth (s : State) (k : Nat) (sel other : Copy) : State :=
  if s.copyBad sel && !s.copyBad other then ((s.copyPass k other true).copyDiscard sel).bump (GP_HG_REPAIR_COUNT k)
  else
    let s := if s.copyLen sel = s.copyLen other then s else s.bump (GP_HG_MISC_MISMATCH k)
    ((s.copyPass k sel false).copyDiscard other).bump (GP_HG_DUP_COUNT k)

/-- The position is decided now, its wait over or not (R124): `alone` counts a lone copy. -/
def State.decidePos (s : State) (k pos : Nat) (alone : Bool) : State :=
  let x := s.pair k
  let l := x.at pos
  let s := s.setPair k { x with copies := x.copies.filter (fun e => e.pos != pos) }
  let sel := s.is (GP_PAIR_STAT_SEL k)
  match l.find? (fun e => e.prot == sel), l.find? (fun e => e.prot != sel) with
  | some a, some b => s.decideBoth k a b
  | some a, none => (s.copyPass k a true).bump (GP_HG_ALONE_COUNT k) (b2n alone)
  | none, some b => (s.copyPass k b true).bump (GP_HG_ALONE_COUNT k) (b2n alone)
  | none, none => s

/-- Is the group of the other side out of `UP`? -/
def State.otherDown (s : State) (k : Nat) (prot : Bool) : Bool := s.gState (if prot then s.work k else s.prot k) != gUP

/-- Can the lowest position be decided without waiting: both copies there, the other group not `UP`, or no wait set (R124)? -/
def State.decidable (s : State) (k pos : Nat) : Option Bool :=
  match (s.pair k).at pos with
  | [e] => if s.otherDown k e.prot then some false else if s.rd (GP_PAIR_TIME_WAIT_NS k) = 0 then some true else none
  | _ => some false

/-- Copies that wait below `NEXT` are discarded (R124). -/
def State.dropBelow (s : State) (k : Nat) : State :=
  let x := s.pair k
  let low := x.copies.filter (fun e => s.belowNext k e.pos)
  let s := s.setPair k { x with copies := x.copies.filter (fun e => !s.belowNext k e.pos) }
  s.each low (fun s e => (s.copyDiscard e).bump (GP_HG_DUP_COUNT k))

/-- Positions are decided in ascending order as far as they can be: at most one decision per waiting copy (R124). -/
def hingeRunGo (k : Nat) : Nat → State → State
  | 0, s => s
  | n + 1, s =>
    let s := s.dropBelow k
    match s.lowestPos k with
    | none => s
    | some pos => match s.decidable k pos with
      | some a => hingeRunGo k n (s.decidePos k pos a)
      | none => s

/-- A copy of the selected group while `UNALIGNED` (R125): it passes at once. The first one after a change of selection has skipped stream
bytes where a copy of its group was discarded at or above `NEXT` before the change: then that group leads. -/
def State.passUnaligned (s : State) (k : Nat) (e : Copy) : State :=
  let x := s.pair k
  let leads := match x.stby with
    | some q => !s.belowNext k q
    | none => false
  let s := match x.next with
    | some n => if x.switched && leads then
        (s.bump64 (GP_HIT_BYTES_LO_COUNT k) (GP_HIT_BYTES_HI_COUNT k) (posDist (s.posMod k) e.pos n)).bump (GP_HG_SW_HIT k)
      else s
    | none => s
  (s.setPair k { x with switched := false, stby := if x.switched then none else x.stby }).copyPass k e true

/-- What waits when a pair becomes `UNALIGNED` waits no longer: from the lowest position on, copies of the selected group pass and those of the
standby group are discarded (R125). -/
def passHeld (k : Nat) : Nat → State → State
  | 0, s => s
  | n + 1, s =>
    let s := s.dropBelow k
    match s.lowestPos k with
    | none => s
    | some pos =>
      let x := s.pair k
      let sel := s.is (GP_PAIR_STAT_SEL k)
      let s := s.setPair k { x with copies := x.copies.filter (fun e => e.pos != pos) }
      let s := s.each ((x.at pos).filter (fun e => e.prot == sel)) (fun s e => s.passUnaligned k e)
      passHeld k n (s.each ((x.at pos).filter (fun e => e.prot != sel)) (fun s e => (s.copyDiscard e).bump (GP_HG_DUP_COUNT k)))

/-- Hinge `k` decides what it can: core-island work (R31). -/
def State.hingeRun (s : State) (k : Nat) : State :=
  let n := (s.pair k).copies.length + 1
  if !s.coreUp then s else if s.is (GP_PAIR_STAT_ALIGNED k) then hingeRunGo k n s else passHeld k n s

/-! ## Switching requests (R126 to R128) -/

/-- Does a group fail: not `UP`, or its GFP stream not in `SYNC` (R128)? -/
def State.sfOf (s : State) (g : Nat) : Bool :=
  s.gState g != gUP || s.rd (TF_GFP_STAT_STATE (s.rd (GP_GRP_CFG_CHAN g))) != fSYNC

/-- The conditions that stand now: SF-P 14, SF-W 12, SD-P 11, SD-W 10. -/
def State.condNow (s : State) (k : Nat) : List Nat :=
  [14, 12, 11, 10].filter (fun c =>
    if c = 14 then s.sfOf (s.prot k) else if c = 12 then s.sfOf (s.work k)
    else if c = 11 then s.is (GP_GRP_STAT_SD (s.prot k)) else s.is (GP_GRP_STAT_SD (s.work k)))

/-- Local request codes (R128) that stand. -/
def State.requests (s : State) (k : Nat) : List Nat :=
  let x := s.pair k
  let c := s.rd (GP_PAIR_CMD_CMD k)
  x.entered ++ (if c = 1 then [15] else if c = 2 then [13] else if c = 3 ∨ c = 4 then [8] else if c = 5 then [4] else []) ++
    (if x.wtr.isSome then [6] else []) ++ (if x.dnr && !s.is (GP_PAIR_CFG_REVERT k) then [1] else []) ++ [0]

/-- Does a request select protect; none where it changes nothing (R128)? -/
def selects (r sig : Nat) : Option Bool :=
  match r with
  | 15 | 14 | 11 | 0 => some false
  | 13 | 12 | 10 | 6 | 1 => some true
  | 8 => some (sig == 1)
  | _ => none

/-- The filtered far-end request: a code that R128 does not list counts as `NR` (R127). -/
def farReq (v : Nat) : Nat := if [15, 14, 13, 12, 11, 10, 8, 6, 4, 2, 1].contains (v % 16) then v % 16 else 0

/-- The winning request with its signal and whether it is the far end's (R128); a tie goes to the local one (log entry 14). -/
def State.winner (s : State) (k : Nat) : Nat × Nat × Bool :=
  let x := s.pair k
  let r := (s.requests k).foldl max 0
  let sig := match selects r (b2n (s.rd (GP_PAIR_CMD_CMD k) == 3)) with
    | some b => b2n b
    | none => s.rd (GP_PAIR_STAT_SEL k)
  let f := farReq x.swr
  if s.gState (s.prot k) = gUP && s.is (GP_PAIR_CFG_BIDIR k) && bitN x.swr 5 == 1 && f != 2 && r < f then (f, bitN x.swr 4, true)
  else (r, sig, false)

/-- Conditions are timed (R128): new ones wait out the hold-off, ended ones leave, and the end of a failure of the working
side starts the wait-to-restore timer or, in non-revertive mode, leaves a do-not-revert request (log entry 94). -/
def State.pairConds (s : State) (k : Nat) : State :=
  let x := s.pair k
  let now := s.condNow k
  let conds := x.conds.filter (fun e => now.contains e.1) ++
    ((now.filter (fun c => !(x.conds.any (·.1 == c)))).map (fun c => (c, s.tm.tick)))
  let entered := if s.rd (GP_PAIR_CMD_HOLDOFF k) = 0 then now else x.entered.filter now.contains
  let cleared := (x.entered.contains 12 && !entered.contains 12) || (x.entered.contains 10 && !entered.contains 10)
  let rev := s.is (GP_PAIR_CFG_REVERT k)
  s.setPair k { x with conds := conds, entered := entered,
                       wtr := if cleared && rev && s.rd (GP_PAIR_TIME_WTR_S k) != 0 then some s.tm.tick else x.wtr,
                       dnr := !rev && (x.dnr || cleared) }

/-- The pair compares its requests and selects (R128): core-island work. A standing do-not-revert request ends when a higher request
selects working (log entry 94). -/
def State.pairEval (s : State) (k : Nat) : State :=
  if !s.is (GP_PAIR_CFG_EN k) || !s.coreUp then s
  else
    let s := s.pairConds k
    let w := s.winner k
    let x := s.pair k
    let sel : Bool := if w.2.2 then w.2.1 == 1 else (match selects w.1 w.2.1 with
      | some b => b
      | none => s.is (GP_PAIR_STAT_SEL k))
    let s := s.setPair k { x with wtr := if w.1 > 6 then none else x.wtr, dnr := x.dnr && !(w.1 > 1 && !sel) }
    let valid := s.gState (s.prot k) == gUP
    let s := (((s.wr (GP_PAIR_STAT_FAR k) (farReq x.swr)).put (GP_PAIR_STAT_FAR_VALID k) valid).wr (GP_PAIR_STAT_FAR_SIG k) (bitN x.swr 4)).put
      (GP_PAIR_STAT_MODE_MISMATCH k) (valid && (bitN x.swr 5 == 1) != s.is (GP_PAIR_CFG_BIDIR k))
    let s := s.put (GP_PAIR_STAT_WTR_RUN k) (s.pair k).wtr.isSome
    let s := if s.rd (GP_PAIR_STAT_TOP k) = w.1 then s else (s.wr (GP_PAIR_STAT_TOP k) w.1).setBit GP_EVT_HINGE k
    if s.is (GP_PAIR_STAT_SEL k) == sel then s
    else
      let s := ((s.put (GP_PAIR_STAT_SEL k) sel).setBit GP_EVT_HINGE k).bump (GP_HG_SW_SW k)
      s.setPair k { s.pair k with switched := !s.is (GP_PAIR_STAT_ALIGNED k) }

/-- Every pair compares anew, and its hinge decides what that lets it decide. -/
def State.pairsEval (s : State) : State := s.each (List.range 8) (fun s k => (s.pairEval k).hingeRun k)

/-- The `SWR` bytes a pair sends (R126): its winning request, or `RR` with the far end's signal. -/
def State.swrWord (s : State) (k : Nat) : Nat :=
  let w := s.winner k
  (if w.2.2 then 2 else w.1) + 16 * w.2.1 + 32 * s.rd (GP_PAIR_CFG_BIDIR k) + 64 * s.rd (GP_PAIR_CFG_REVERT k) + 256 +
    512 * s.rd (GP_PAIR_STAT_SEL k)

/-- A far-end `SWR` from member 0 of `PROT` (R127). What holds outlives a fall of `PROT` from `UP` (log entry 95). -/
def State.swrReceived (s : State) (j v : Nat) : State :=
  match s.groupOf j with
  | none => s
  | some g =>
    match s.pairOf g with
    | some (k, true) =>
      if s.rd (GP_POS_CFG_MEMBER j) ≠ 0 then s
      else
        let x := s.pair k
        let n := if v = x.swrNew then x.swrRun + 1 else 1
        let n := min n 16
        (s.setPair k { x with swrNew := v, swrRun := n, swr := if n ≥ max 1 (s.rd (GP_PAIR_CFG_SWR_PERSIST k)) then v else x.swr }).pairEval k
    | _ => s

/-! ## Group states (R117) -/

/-- The reported signal-fail bit (R117). -/
def State.refreshSF (s : State) (g : Nat) : State := s.put (GP_GRP_STAT_SF g) (s.is (GP_GRP_CFG_EN g) && s.gState g != gUP)

/-- A group leaves `UP` (R117): a gap in its stream, the cause and the member. -/
def State.grpDown (s : State) (g cause member : Nat) : State :=
  if s.gState g ≠ gUP then s.setGrp g { s.grp g with good := 0 }
  else
    let s := ((s.wr (GP_GRP_STAT_STATE g) gALIGNING).wr (GP_GRP_STAT_CAUSE g) cause).wr (GP_GRP_STAT_CAUSE_MEMBER g) member
    let s := ((s.bump (GP_GRP_STAT_DOWN_CNT g)).setBit GP_EVT_GRP_CHG g).refreshSF g
    let s := s.setGrp g { s.grp g with good := 0, upAll := false, seen := [] }
    (s.gfpGap (s.rd (GP_GRP_CFG_CHAN g))).pairsEval

/-- Does the framer of position `j` qualify for its group (R117)? -/
def State.qualifies (s : State) (j g : Nat) : Bool :=
  s.rd (TF_FR_STAT_STATE j) == fSYNC && (s.fr j).accepted && s.rd (TF_FR_STAT_RX_MEMBER j) == s.rd (GP_POS_CFG_MEMBER j) &&
  s.rd (TF_FR_STAT_RX_GROUP j) == s.rd (GP_GRP_CFG_GROUP_ID g) && s.rd (TF_FR_STAT_RX_PT j) == 1

/-- The position that carries member `m` of group `g`. -/
def State.memberAt (s : State) (g m : Nat) : Option Nat := (s.members g).find? (fun j => s.rd (GP_POS_CFG_MEMBER j) == m)

/-- The equivalent rate of a group's channel in units of 10 Mb/s (R109). -/
def State.equivRate (s : State) (g : Nat) : Nat :=
  min 160000 ((s.members g).foldl (fun n j => n + (match s.laneAt (j / 8) (j % 8) with
    | some i => if s.laneRate i = 1 then 20000 else 10000
    | none => 0)) 0)

/-- Equivalent rates and remote members through slice `p` in 10 Mb/s (R114), over the enabled groups and `g`. -/
def State.budget (s : State) (g p : Nat) : Nat :=
  let gs := (List.range 16).filter (fun h => h == g || s.is (GP_GRP_CFG_EN h))
  gs.foldl (fun n h =>
    let home := s.rd (GP_GRP_CFG_CHAN h) / 8
    n + (if home = p then s.equivRate h else 0) +
      (s.members h).foldl (fun m j =>
        if j / 8 ≠ home ∧ (home = p ∨ j / 8 = p) then m + (match s.laneAt (j / 8) (j % 8) with
          | some i => if s.laneRate i = 1 then 21167 else 10583
          | none => 0)
        else m) 0) 0

/-- `RATE` of the members of a group, in order of position. -/
def State.memberRates (s : State) (g : Nat) : List Nat := (s.members g).map (fun j => s.laneRate ((s.laneAt (j / 8) (j % 8)).getD 0))

/-- Checks 1 to 5 of R112. -/
def State.grpErr5 (s : State) (g : Nat) : Nat :=
  let js := s.members g
  let n := s.rd (GP_GRP_CFG_N g)
  let c := s.rd (GP_GRP_CFG_CHAN g)
  if n = 0 || n > 32 || js.length != n || !(List.range n).all (fun m => (s.memberAt g m).isSome) then 1
  else if !js.all (fun j => s.is (LN_PORT_CFG_T_MODE (j / 8)) && s.is (LN_PORT_CFG_ENABLE (j / 8)) && (s.laneAt (j / 8) (j % 8)).isSome) then 2
  else if !(s.memberRates g).all (· == (s.memberRates g).headD 0) then 3
  else if !js.any (fun j => j / 8 == c / 8) || (List.range 16).any (fun h => h != g && s.is (GP_GRP_CFG_EN h) && s.rd (GP_GRP_CFG_CHAN h) == c) then 4
  else if (List.range 4).any (fun p => s.budget g p > 163840) then 5
  else 0

/-- May groups `w` and `p` make a pair: alike in `N`, `RATE` and their channels' `TF_GFP_CFG`, and in no other enabled pair than `k`
(R121)? The rates of the members configured so far are compared, whether or not all `N` of them are (log entry 128). -/
def State.pairMatch (s : State) (k w p : Nat) : Bool :=
  let cfg (g : Nat) : Nat := s.readPlain (0x040180 + 4 * s.rd (GP_GRP_CFG_CHAN g))
  s.rd (GP_GRP_CFG_N w) == s.rd (GP_GRP_CFG_N p) && s.memberRates w == s.memberRates p && cfg w == cfg p &&
  (List.range 8).all (fun h => h == k || !s.is (GP_PAIR_CFG_EN h) || (s.work h != w && s.prot h != w && s.work h != p && s.prot h != p))

/-- The first check of R112 that group `g` fails, in the order of the table. -/
def State.grpErr (s : State) (g : Nat) : Nat :=
  if s.grpErr5 g ≠ 0 then s.grpErr5 g
  else if (match s.pairOf g with
      | some (k, _) => !s.pairMatch k (s.work k) (s.prot k)
      | none => false) then 6
  else if s.rd (GP_GRP_CFG_GROUP_ID g) = 0 then 7
  else 0

/-- The partner of a group in its enabled pair. -/
def State.partner (s : State) (g : Nat) : Option Nat :=
  match s.pairOf g with
  | some (k, p) => some (if p then s.work k else s.prot k)
  | none => none

/-- The streams of a pair begin at position 0 with its groups (R115): `Q` and `NEXT` begin anew with them (R120, R124; log entry 127). -/
def State.pairStart (s : State) (g : Nat) : State := match s.pairOf g with
  | some (k, _) => s.setPair k { s.pair k with next := none, txPos := 0, stby := none, switched := false }
  | none => s

/-- A group starts aligning (R115, R117); an earlier `CFG_ERR` goes (log entry 96). -/
def State.grpStart (s : State) (g : Nat) : State :=
  let s := s.pairStart g
  let s := ((s.wr (GP_GRP_CFG_EN g) 1).wr (GP_GRP_STAT_STATE g) gALIGNING).wr (GP_GRP_STAT_CFG_ERR g) 0
  let s := ((s.setGrp g {}).refreshSF g).setBit GP_EVT_GRP_CHG g
  s.each (s.members g) (fun s j => s.setFr j { s.fr j with grpMfc := 0, store := [] })

/-- A group is turned `OFF` (R117): its stream ends with a gap. -/
def State.grpStop (s : State) (g : Nat) : State :=
  let c := s.rd (GP_GRP_CFG_CHAN g)
  let s := s.gfpGap c
  let s := ((s.wr (GP_GRP_CFG_EN g) 0).wr (GP_GRP_STAT_STATE g) gOFF).setGrp g {}
  let s := (s.refreshSF g).gfpLeave c fOFF
  let s := s.each (s.members g) (fun s j => s.setFr j { s.fr j with grpMfc := 0, store := [] })
  s.setBit GP_EVT_GRP_CHG g

/-- Writes that R112 and R121 refuse are counted. -/
def State.gpReject (s : State) : State := s.bump GP_CFG_REJ_COUNT

/-- The groups that a write of `EN` enables or disables together (R121). -/
def State.together (s : State) (g : Nat) : List Nat := g :: (s.partner g).toList

/-- An enable of group `g`, and of its partner with it (R112, R121): where either fails, both stay `OFF`, the one that fails with its own
code and the other with 6. -/
def State.grpEnable (s : State) (g : Nat) : State :=
  let own := s.grpErr g
  match s.partner g with
  | none => if own = 0 then (s.grpStart g).pairsEval else (s.wr (GP_GRP_STAT_CFG_ERR g) own).gpReject
  | some h =>
    let other := (s.wr (GP_GRP_CFG_EN g) 1).grpErr h
    if own = 0 ∧ other = 0 then ((s.grpStart g).grpStart h).pairsEval
    else ((s.wr (GP_GRP_STAT_CFG_ERR g) (if own = 0 then 6 else own)).wr (GP_GRP_STAT_CFG_ERR h) (if other = 0 then 6 else other)).gpReject

/-- A write of `GP_GRP_CFG[g]` (R112, R117, R121). `N`, `GROUP_ID` and `CHAN` written with a refused enable stay (log entry 96). A write that
clears `EN` of an enabled group and changes another field is counted, and disables the group all the same (log entry 125). -/
def State.grpCfg (s : State) (g v : Nat) : State :=
  if s.is (GP_GRP_CFG_EN g) then
    let same := bits v 1 6 == s.rd (GP_GRP_CFG_N g) && bits v 8 8 == s.rd (GP_GRP_CFG_GROUP_ID g) && bits v 16 5 == s.rd (GP_GRP_CFG_CHAN g)
    let s := if same then s else s.gpReject
    if bitN v 0 = 1 then s else (s.each (s.together g) (fun s h => s.grpStop h)).pairsEval
  else
    let s := ((s.wr (GP_GRP_CFG_N g) (bits v 1 6)).wr (GP_GRP_CFG_GROUP_ID g) (bits v 8 8)).wr (GP_GRP_CFG_CHAN g) (bits v 16 5)
    if bitN v 0 = 0 then s else s.grpEnable g

/-- May pair `k` be enabled as its registers stand (R121)? -/
def State.pairOk (s : State) (k : Nat) : Bool :=
  !s.is (GP_GRP_CFG_EN (s.work k)) && !s.is (GP_GRP_CFG_EN (s.prot k)) && s.pairMatch k (s.work k) (s.prot k)

/-- A write of `GP_PAIR_CFG[k]` (R121): every write with `EN` = 1 is checked with the groups it names, and one that is refused changes
nothing (log entry 97). -/
def State.pairCfg (s : State) (k v : Nat) : State :=
  let t := s.writePlain (0x041300 + 16 * k) v
  if bitN v 0 = 0 then t.pairEval k
  else if t.pairOk k then ((if s.is (GP_PAIR_CFG_EN k) then t else t.setPair k {}).pairEval k)
  else s.gpReject

/-- A write of `GP_PAIR_CMD[k]` (R128): `CMD` 6 and 7 are ignored and counted. -/
def State.pairCmd (s : State) (k v : Nat) : State :=
  let old := s.rd (GP_PAIR_CMD_CMD k)
  let s := s.writePlain (0x041308 + 16 * k) v
  (if v % 8 ≥ 6 then (s.wr (GP_PAIR_CMD_CMD k) old).gpReject else s).pairEval k

/-- A write of `GP_POS_CFG[j]`: ignored and counted while the position's group is enabled (R112). One that moves a position of no enabled group
into an enabled one is accepted (log entry 126). -/
def State.posCfg (s : State) (j v : Nat) : State := if (s.groupOf j).isSome then s.gpReject else s.writePlain (0x041000 + 4 * j) v

/-- Offsets. -/
def grpOff (g : Nat) : Nat := 0x041100 + 8 * g
def pairCmdOff (k : Nat) : Nat := 0x041308 + 16 * k

/-- A write of `GP_GRP_CFG[g]` with `EN` = 1 (R112). -/
def execGroupEnable (w : Who) (g : Fin 16) (n : BitVec 6) (id : BitVec 8) (c : Fin 32) (s : State) : Host.Outcome State Fault Refusal :=
  .next (s.guardWrite w (grpOff g) (·.grpCfg g (1 + 2 * n.toNat + 256 * id.toNat + 65536 * c)))

/-- A write of `EN` = 0 that leaves the other fields as they are (R117). -/
def execGroupDisable (w : Who) (g : Fin 16) (s : State) : Host.Outcome State Fault Refusal :=
  .next (s.guardWrite w (grpOff g) (fun s => s.grpCfg g (2 * s.rd (GP_GRP_CFG_N g) + 256 * s.rd (GP_GRP_CFG_GROUP_ID g) + 65536 * s.rd (GP_GRP_CFG_CHAN g))))

/-- A write of `GP_PAIR_CFG[k]` with `EN` = 1 (R121). -/
def execPairEnable (w : Who) (k : Fin 8) (v : Word) (s : State) : Host.Outcome State Fault Refusal :=
  .next (s.guardWrite w (0x041300 + 16 * k) (·.pairCfg k (v.toNat ||| 1)))

/-- A write of `GP_PAIR_CMD[k].CMD` that keeps its other fields (R128). -/
def State.pairCmdField (s : State) (w : Who) (k c : Nat) : State :=
  s.guardWrite w (pairCmdOff k) (fun s => s.pairCmd k (c + 256 * s.rd (GP_PAIR_CMD_HOLDOFF k) + 65536 * s.rd (GP_PAIR_CMD_LEAD_NS k)))

/-- `CMD` 0 (R128). -/
def execPairCmdNone (w : Who) (k : Fin 8) (s : State) : Host.Outcome State Fault Refusal := .next (s.pairCmdField w k 0)
/-- `CMD` 1, lockout of protection (R128). -/
def execPairCmdLo (w : Who) (k : Fin 8) (s : State) : Host.Outcome State Fault Refusal := .next (s.pairCmdField w k 1)
/-- `CMD` 2, forced switch (R128). -/
def execPairCmdFs (w : Who) (k : Fin 8) (s : State) : Host.Outcome State Fault Refusal := .next (s.pairCmdField w k 2)
/-- `CMD` 3, manual switch to protect (R128). -/
def execPairCmdMsProtect (w : Who) (k : Fin 8) (s : State) : Host.Outcome State Fault Refusal := .next (s.pairCmdField w k 3)
/-- `CMD` 4, manual switch to working (R128). -/
def execPairCmdMsWorking (w : Who) (k : Fin 8) (s : State) : Host.Outcome State Fault Refusal := .next (s.pairCmdField w k 4)
/-- `CMD` 5, exercise (R128). -/
def execPairCmdExer (w : Who) (k : Fin 8) (s : State) : Host.Outcome State Fault Refusal := .next (s.pairCmdField w k 5)

/-- A condition of a pair has outlasted its hold-off (R128): 0 SF-P, 1 SF-W, 2 SD-P, 3 SD-W. -/
def execHoldoffExpiry (k : Fin 8) (cond : Fin 4) (s : State) : Host.Outcome State Fault Refusal :=
  .next (
    if !s.coreUp then s
    else
    let c := [14, 12, 11, 10].getD cond.val 0
    let x := s.pair k
    match x.conds.find? (·.1 == c) with
    | some e =>
      if s.is (GP_PAIR_CFG_EN k) && !x.entered.contains c then
        let s := s.advanceTo (e.2 + 160000 * s.rd (GP_PAIR_CMD_HOLDOFF k))
        (s.setPair k { s.pair k with entered := c :: (s.pair k).entered }).pairEval k
      else s
    | none => s)

/-- The wait-to-restore timer ends (R128). -/
def execWtrExpiry (k : Fin 8) (s : State) : Host.Outcome State Fault Refusal :=
  .next (
    if !s.coreUp then s
    else match (s.pair k).wtr with
    | some t =>
      let s := s.advanceTo (t + 1600000000 * s.rd (GP_PAIR_TIME_WTR_S k))
      (s.setPair k { s.pair k with wtr := none }).pairEval k
    | none => s)

/-! ## Segments (R113, R116, R118, R123) -/

/-- The header of segment `m` has been accepted on position `j` of group `g` (R116). The last 65,536 segments are kept (log entry 124). -/
def State.segSeen (s : State) (g j m t : Nat) : State :=
  let x := s.grp g
  let l := if x.seen.any (·.1 == m) then x.seen else x.seen ++ [(m, [])]
  let l := l.map (fun e => if e.1 = m then (m, e.2.filter (·.1 != j) ++ [(j, t)]) else e)
  s.setGrp g { x with seen := l.drop (l.length - 65536) }

/-- The oldest segment whose header every member has accepted, with the members' times. -/
def State.segReady (s : State) (g : Nat) : Option (Nat × List (Nat × Nat)) :=
  if s.members g = [] then none else (s.grp g).seen.find? (fun e => (s.members g).all (fun j => e.2.any (·.1 == j)))

/-- Bytes taken in turn from each list, `n` rounds (R113). -/
def weave : Nat → List (List Byte) → List Byte
  | 0, _ => []
  | n + 1, ls => ls.map (·.headD 0) ++ weave n (ls.map List.tail)

/-- Bytes of segment `m` in stream order (R113): byte i is payload byte ⌊i ÷ N⌋ of member i mod N. -/
def State.segBytes (s : State) (g m : Nat) : List Byte :=
  weave 8160 ((List.range (s.rd (GP_GRP_CFG_N g))).map (fun k => match s.memberAt g k with
    | some j => (((s.fr j).store.find? (fun (e : SegPart) => e.mfc == m)).map (fun (e : SegPart) => e.data)).getD []
    | none => []))

/-- Does count `a` come after `b`, as signed 32-bit differences (R116)? -/
def mfcAfter (a b : Nat) : Bool := 0 < signed 32 ((a + 2 ^ 32 - b) % 2 ^ 32)

/-- Parts up to count `m` leave the members' stores, and its acceptances are done with. -/
def State.segDrop (s : State) (g m : Nat) : State :=
  let s := s.setGrp g { s.grp g with seen := (s.grp g).seen.filter (fun e => mfcAfter e.1 m) }
  s.each (s.members g) (fun s j =>
    let x := s.fr j
    s.setFr j { x with store := x.store.filter (fun (e : SegPart) => mfcAfter e.mfc m) })

/-- A pair's spread over both groups' members (R123): the last values stand while no segment is measured on both (log entry 98). -/
def State.pairSpread (s : State) (g m : Nat) : State :=
  match s.pairOf g, s.partner g with
  | some (k, _), some h =>
    match (s.grp g).times.find? (·.1 == m), (s.grp h).times.find? (·.1 == m) with
    | some a, some b =>
      let d := (max a.2.2 b.2.2 - min a.2.1 b.2.1) / 2 ^ 32
      let s := s.wr (GP_PAIR_STAT_SPREAD_NS k) (min 0xFFFF d)
      if s.is (GP_PAIR_STAT_ALIGNED k) == decide (d ≤ 8000) then s
      else ((s.put (GP_PAIR_STAT_ALIGNED k) (decide (d ≤ 8000))).setBit GP_EVT_HINGE k).hingeRun k
    | _, _ => s
  | _, _ => s

/-- How long the frames of a segment have stood in the deskew stores, by `MEMBER` (R326). -/
def State.segDelays (s : State) (g : Nat) (times : List (Nat × Nat)) : List Nat :=
  (List.range (s.rd (GP_GRP_CFG_N g))).map (fun i =>
    match times.find? (fun e => s.rd (GP_POS_CFG_MEMBER e.1) == i) with
    | some e => (s.tm.now + timeMod - e.2 % timeMod) % timeMod
    | none => 0)

/-- The first and the last acceptance of a segment's headers, and the spread between them in nanoseconds (R116). -/
def segFirst (times : List (Nat × Nat)) : Nat := times.foldl (fun a e => min a e.2) ((times.map (·.2)).headD 0)
def segLast (times : List (Nat × Nat)) : Nat := times.foldl (fun a e => max a e.2) 0
def segSpread (times : List (Nat × Nat)) : Nat := (segLast times - segFirst times) / 2 ^ 32

/-- Bytes of segment `m` reach the channel's GFP stream (R113, R118). -/
def State.gfpFeed (s : State) (g m : Nat) (l : List Byte) (times : List (Nat × Nat)) : State :=
  let c := s.rd (GP_GRP_CFG_CHAN g)
  let y := s.gfp c
  let y := { y with buf := y.buf ++ l, pos := if y.buf = [] then m * s.segLen g else y.pos }
  let s := s.setGfp c { y with skews := (m, s.segDelays g times) :: y.skews.take (y.buf.length / s.segLen g + 1) }
  if s.rd (TF_GFP_STAT_STATE c) = fOFF then s.wr (TF_GFP_STAT_STATE c) fHUNT else s

/-- A segment's headers have all been accepted (R116 to R118): the spread is measured, the group rises after four good segments in a row
or falls, and in `UP` the segment's bytes go to the channel's GFP stream. The home slice does it. -/
def State.segment (s : State) (g m : Nat) (times : List (Nat × Nat)) : State :=
  let first := segFirst times
  let last := segLast times
  let d := segSpread times
  let s := s.wr (GP_GRP_SKEW_SPREAD_NS g) (min 0xFFFF d)
  let s := (s.setGrp g { s.grp g with times := (m, first, last) :: (s.grp g).times.take 65535 }).pairSpread g m
  let x := s.grp g
  let next := (m + 1) % 2 ^ 32
  if s.gState g = gALIGNING then
    let ok := decide (d ≤ 8000) && (s.members g).all (fun j => s.qualifies j g)
    let n := if !ok then 0 else if x.good = 0 ∨ x.next = m then x.good + 1 else 1
    let s := s.segDrop g m
    let s := s.setGrp g { s.grp g with good := if n < 4 then n else 0, next := next }
    if n < 4 then s else (((s.wr (GP_GRP_STAT_STATE g) gUP).setBit GP_EVT_GRP_CHG g).refreshSF g).pairsEval
  else if d > 8000 then
    let late := (times.find? (fun e => e.2 == last)).map (·.1)
    (s.segDrop g m).grpDown g 4 (s.rd (GP_POS_CFG_MEMBER (late.getD 0)))
  else
    let s := (s.gfpFeed g m (s.segBytes g m) times).segDrop g m
    s.setGrp g { s.grp g with next := next }

/-- Is position `j` a remote member of group `g` (R114)? -/
def State.remote (s : State) (g j : Nat) : Bool := j / 8 != s.rd (GP_GRP_CFG_CHAN g) / 8

/-- Can the home slice take the group's segments: it runs, and what remote members send it passes the core island (R114)? -/
def State.segsMove (s : State) (g : Nat) : Bool :=
  s.is (GP_GRP_CFG_EN g) && s.portRuns (s.rd (GP_GRP_CFG_CHAN g) / 8) && (s.coreUp || !(s.members g).any (s.remote g))

/-- The oldest complete segment of a group is taken. -/
def State.segStep (s : State) (g : Nat) : State :=
  if !s.segsMove g then s
  else match s.segReady g with
    | none => s
    | some e => s.segment g e.1 e.2

/-- Complete segments are taken as far as they go. -/
def segRunGo (g : Nat) : Nat → State → State
  | 0, s => s
  | n + 1, s => segRunGo g n (s.segStep g)

/-- A group that is `UP` takes what is complete before something stops it (R118). -/
def State.segRun (s : State) (g : Nat) : State := if s.gState g = gUP then segRunGo g (s.grp g).seen.length s else s

/-- The oldest complete segment of an enabled group is taken. -/
def execGroupSegment (g : Fin 16) (s : State) : Host.Outcome State Fault Refusal := .next (s.segStep g)

/-- The member at position `j` stops qualifying or jumps (R117). -/
def State.memberDown (s : State) (j cause : Nat) : State :=
  match s.groupOf j with
  | some g => (s.segRun g).grpDown g cause (s.rd (GP_POS_CFG_MEMBER j))
  | none => s

end Sys2Proof.Machine
end

