-- ==== Sys2Proof/Machine/Riltor.lean ====
section
/-! DEFINITION. Which lane feeds a position (R67, R81), and the Riltor line frame and its GFP-F stream (R87 to R110): the receive and the transmit framer of a
position, the rows of the GFP stream, and what a group's transmit stream is made of. -/

namespace Sys2Proof.Machine

/-! ## Lane states and what a lane feeds -/

def lnABSENT : Nat := 0
def lnDOWN : Nat := 1
def lnUP : Nat := 2

def State.spare (s : State) (p : Nat) : SpareSt := mapGet (fun _ => {}) s.spares p
def State.setSpare (s : State) (p : Nat) (x : SpareSt) : State := { s with spares := mapSet (fun _ => {}) s.spares p x }

/-- Is the lane `UP`? -/
def State.laneUp (s : State) (i : Nat) : Bool := s.rd (LN_LANE_STAT_STATE i) == lnUP

/-- Spare states (R81). -/
def pIDLE : Nat := 0
def pMATCH : Nat := 1
def pCONFIRM : Nat := 2
def pSWITCH : Nat := 3
def pACTIVE : Nat := 4
def State.spState (s : State) (p : Nat) : Nat := s.rd (LN_SPARE_STAT_STATE p)

/-- Does p.8 feed the port's position `l`? The restoring match runs while p.8 still feeds it. -/
def State.standsAt (s : State) (p l : Nat) : Bool :=
  (s.spState p == pACTIVE || (s.spState p != pIDLE && (s.spare p).reverse)) && s.rd (LN_SPARE_STAT_STOOD_POS p) == l

/-- The wired lane that feeds position p.l: its own, or p.8's while that stands in (R67, R81). -/
def State.feeder (s : State) (p l : Nat) : Option Nat := if s.standsAt p l then s.laneAt p 8 else s.laneAt p l

/-- The position that wired lane `i` feeds, none where it feeds none. -/
def State.feeds (s : State) (i : Nat) : Option Nat :=
  (List.range 8).find? (fun l => s.feeder (i / 9) l == some i)

/-- Is the position fed by a lane in `UP`? -/
def State.posUp (s : State) (p l : Nat) : Bool := match s.feeder p l with
  | some i => s.laneUp i
  | none => false

/-! ## The receive framer -/

/-- Bytes whose bits begin at bit `b` of the first (R87: bit 0 of a byte comes first). -/
def bitShift (b : Nat) : List Byte → List Byte
  | x :: y :: l => BitVec.ofNat 8 ((x.toNat + 256 * y.toNat) / 2 ^ b) :: bitShift b (y :: l)
  | [x] => [BitVec.ofNat 8 (x.toNat / 2 ^ b)]
  | [] => []

/-- The first `n` bytes of the line from the tested bit on. -/
def FrSt.bytes (x : FrSt) (n : Nat) : List Byte := (bitShift x.bit (x.line.take (n + 1))).take n

/-- Are `n` bytes from the tested bit on there? -/
def FrSt.has (x : FrSt) (n : Nat) : Bool := n + b2n (x.bit != 0) ≤ x.line.length

/-- The tested bit moves on by one. -/
def FrSt.nextBit (x : FrSt) : FrSt :=
  { x with bit := (x.bit + 1) % 8, line := if x.bit = 7 then x.line.drop 1 else x.line, pos := (x.pos + 1) % 65536 }

/-- The bytes behind a header as they were before the scrambler (R93). -/
def State.descrambled (s : State) (j mfc : Nat) (body : List Byte) : List Byte :=
  if s.is (TF_FR_CFG_SCR_OFF j) && s.inTest then body else scramble (riltorSeed mfc (s.rd (TF_FR_STAT_RX_MEMBER j))) body

/-- Payload bytes of the frame `mfc` that position `j` is receiving. -/
def State.framePart (s : State) (j mfc : Nat) : List Byte :=
  let x := s.fr j
  ((s.descrambled j mfc ((x.bytes (min 8192 (x.line.length - b2n (x.bit != 0)))).drop 12)).drop 20).take 8160

/-- Payload of frame `m` of position `j`: whole in its store, or the part of it that has come. -/
def State.partOf (s : State) (j m : Nat) : List Byte :=
  let x := s.fr j
  match x.store.find? (fun (e : SegPart) => e.mfc == m) with
  | some e => e.data
  | none => match x.frame with
    | some f => if f.1 = m then s.framePart j m else []
    | none => []

/-- When position `j` accepted the header of frame `m`. -/
def State.acceptedAt (s : State) (j m : Nat) : Option Nat :=
  let x := s.fr j
  match x.store.find? (fun (e : SegPart) => e.mfc == m) with
  | some e => some e.time
  | none => match x.frame with
    | some f => if f.1 = m then some f.2.2 else none
    | none => none

/-- The bytes of segment `m` that stand before the first one missing. -/
def State.segPart (s : State) (g m : Nat) : List Byte :=
  let parts := (List.range (s.rd (GP_GRP_CFG_N g))).map (fun k => match s.memberAt g k with
    | some j => s.partOf j m
    | none => [])
  let ends := parts.mapIdx (fun k p => p.length * parts.length + k)
  (weave 8160 parts).take (ends.foldl min (8160 * parts.length))

/-- Position `j` loses its frame in the middle of a segment that its group in `UP` is releasing, every member's header accepted (R118): the group's
stream takes the bytes before the break, and the gap stands behind them (R98, R117). -/
def State.cutDeliver (s : State) (j : Nat) : State :=
  match s.groupOf j, (s.fr j).frame with
  | some g, some (m, _, _) =>
    let s := s.segRun g
    let times := (s.members g).filterMap (fun i => (s.acceptedAt i m).map (fun t => (i, t)))
    if s.gState g = gUP ∧ s.segsMove g ∧ times.length = (s.members g).length ∧ m = (s.grp g).next ∧ segSpread times ≤ 8000 then
      s.gfpFeed g m (s.segPart g m) times
    else s
  | _, _ => s

/-- The framer leaves its state for `HUNT` or `OFF` (R98): a loss is counted, candidates are dropped and the group sees a gap behind what has come.
Behind a fourth failing header the hunt goes on from that header's own first bit (log entry 129). -/
def State.frLeave (s : State) (j next : Nat) : State :=
  let st := s.rd (TF_FR_STAT_STATE j)
  if st = fOFF && next = fHUNT then s
  else
    let s := if st = fSYNC then ((s.cutDeliver j).bump (TF_FR_EVCNT_LOF j)).setBit TF_EVT_LOF (j / 8) else s
    let x := s.fr j
    let s := s.setFr j { x with cands := [], par := none, frame := none, lost := x.lost || st == fSYNC,
                                line := if next = fOFF then [] else x.line, bit := if next = fOFF then 0 else x.bit }
    ((s.wr (TF_FR_STAT_STATE j) next).wr (TF_FR_STAT_FAILS j) 0).memberDown j 1

/-- A gap in the bits a position receives (R98): what came before it is examined no more. -/
def State.frGap (s : State) (j : Nat) : State :=
  let s := s.frLeave j fHUNT
  s.setFr j { s.fr j with line := [], bit := 0 }

/-- Words reach the framer of position `j`. -/
def State.frBits (s : State) (j : Nat) (l : List Byte) : State :=
  if s.rd (TF_FR_STAT_STATE j) = fOFF then s else s.setFr j { s.fr j with line := (s.fr j).line ++ l }

/-- Is a header a candidate's (R97)? -/
def hdrFits (h : List Byte) : Bool := bits (byteAt h 4) 5 3 == 1 && h.length == 12 && leNat h 8 4 == crc32c (h.take 8)

/-- A header accepted in `SYNC` is reported and compared (R92, R93, R117). The first one since reset changes nothing that could be compared
(log entry 92). -/
def State.hdrAccept (s : State) (j : Nat) (h : List Byte) : State :=
  let x := s.fr j
  let m := byteAt h 4 % 32
  let g := byteAt h 5
  let rdi := byteAt h 6 % 2
  let pt := byteAt h 7
  let s := if x.accepted && (m != s.rd (TF_FR_STAT_RX_MEMBER j) || g != s.rd (TF_FR_STAT_RX_GROUP j)) then s.setBit TF_EVT_ID_CHG (j / 8) else s
  let s := if x.accepted && rdi != s.rd (TF_FR_STAT_RX_RDI j) then s.setBit TF_EVT_RDI_CHG (j / 8) else s
  let s := (((s.wr (TF_FR_STAT_RX_MEMBER j) m).wr (TF_FR_STAT_RX_GROUP j) g).wr (TF_FR_STAT_RX_RDI j) rdi).wr (TF_FR_STAT_RX_PT j) pt
  let s := s.setFr j { x with accepted := true }
  match s.groupOf j with
  | none => if pt = 1 then s.wr (TF_FR_STAT_PT_MISMATCH j) 0 else s
  | some e =>
    if pt ≠ 1 then (s.wr (TF_FR_STAT_PT_MISMATCH j) 1).memberDown j 5
    else
      let s := s.wr (TF_FR_STAT_PT_MISMATCH j) 0
      if m != s.rd (GP_POS_CFG_MEMBER j) || g != s.rd (GP_GRP_CFG_GROUP_ID e) then s.memberDown j 2 else s

/-- Overhead outputs take the `MCC` bytes of a frame of position `j` (R131). -/
def State.ohExport (s : State) (j v : Nat) : State :=
  s.each (List.range 8) (fun s k =>
    if s.is (GP_OH_TX_EN k) && s.rd (GP_OH_TX_POS k) == j then
      let x := mapGet (fun _ => {}) s.ohs k
      if x.tx.length < 4 then { s with ohs := mapSet (fun _ => {}) s.ohs k { x with tx := x.tx ++ [v] } } else s.bump (GP_OH_CNT_TX_LOST k)
    else s)

/-- The payload of a frame of a remote member passes the crossings between its slice and the core island and between the core island and its
group's home slice, 64 words each (R17, R23, R114): on receive towards the home slice, on transmit (`tx`) from it. -/
def State.remoteCross (s : State) (g j : Nat) (tx : Bool) : State :=
  let home := s.rd (GP_GRP_CFG_CHAN g) / 8
  if !s.remote g j then s
  else match s.sliceOf (if tx then home else j / 8), s.sliceOf (if tx then j / 8 else home) with
    | some a, some b => (s.crossed (256 + a) 1).crossed (320 + b) 1
    | _, _ => s

/-- The bytes behind the header of a frame received in `SYNC` (R91, R93, R95, R116, R127): `good` says whether its header passed, `t` when it
was accepted. A frame whose header failed or whose parity differs is an errored one (log entry 99). -/
def State.frameBody (s : State) (j mfc : Nat) (good : Bool) (t : Nat) (h body : List Byte) : State :=
  let d := s.descrambled j mfc body
  let x := s.fr j
  let bip := match x.par with
    | some p => popCount (p ^^^ leNat d 0 2) 16
    | none => 0
  let s := s.setFr j { x with par := some (parity16 (h ++ body)), rei := bip, bip := x.bip + bip,
                              errFr := if bip ≠ 0 ∨ !good then x.errFr + 1 else x.errFr }
  let s := if bip = 0 then s else s.bump64 (TF_BIP_LO_COUNT j) (TF_BIP_HI_COUNT j) bip
  let s := match s.feeder (j / 8) (j % 8) with
    | some i => if bip = 0 then s else s.eyeCount i bip
    | none => s
  let s := if byteAt d 2 ≤ 16 then s.bump64 (TF_REI_LO_COUNT j) (TF_REI_HI_COUNT j) (byteAt d 2) else s
  let s := if good then (s.swrReceived j (leNat d 4 2)).ohExport j (leNat d 8 4) else s
  match s.groupOf j with
  | none => s
  | some g =>
    if s.rd (TF_FR_STAT_RX_PT j) ≠ 1 then s
    else
      let x := s.fr j
      ((s.setFr j { x with store := (x.store ++ [(⟨mfc, t, (d.drop 20).take 8160⟩ : SegPart)]).drop (x.store.length + 1 - 26) }).segSeen g j mfc t).remoteCross
        g j false

/-- A header in `SYNC` at the expected offset (R98): the frame it begins is awaited. -/
def State.syncHeader (s : State) (j : Nat) (h : List Byte) : State :=
  let want := (s.rd (TF_FR_MFC_MFC j) + 1) % 2 ^ 32
  let mfc := leNat h 0 4
  if hdrFits h then
    let s := (s.wr (TF_FR_MFC_MFC j) mfc).wr (TF_FR_STAT_FAILS j) 0
    let s := if mfc = want then s else (s.bump (TF_FR_EVCNT_MFC_JUMP j)).memberDown j 3
    let s := s.hdrAccept j h
    s.setFr j { s.fr j with frame := some (mfc, true, s.tm.now) }
  else
    let s := (s.bump (TF_HCRC_ERR_COUNT j)).wr (TF_FR_MFC_MFC j) want
    let s := s.setFr j { s.fr j with hcrc := (s.fr j).hcrc + 1 }
    if s.rd (TF_FR_STAT_FAILS j) + 1 ≥ 4 then s.frLeave j fHUNT
    else
      let s := s.bump (TF_FR_STAT_FAILS j)
      s.setFr j { s.fr j with frame := some (want, false, s.tm.now) }

/-- A tracked candidate's follow-up, or a further candidate, at the tested offset outside `SYNC` (R98, R99). A tracked offset at which a
header fits with another count drops its candidate and is a candidate anew. -/
def State.trackHeader (s : State) (j : Nat) (h : List Byte) : State :=
  let x := s.fr j
  let off := x.pos
  let mfc := leNat h 0 4
  let rest := x.cands.filter (fun (c : Cand) => c.off != off)
  match x.cands.find? (fun (c : Cand) => c.off == off && hdrFits h && mfc == (c.mfc + 1) % 2 ^ 32) with
  | some c =>
    if c.count + 1 < 3 then
      s.setFr j { x with cands := x.cands.map (fun (e : Cand) => if e.off = off then ⟨off, mfc, c.count + 1⟩ else e) }.nextBit
    else
      let s := s.setFr j { x with cands := [⟨off, mfc, 3⟩], par := none }
      let s := (((s.wr (TF_FR_STAT_STATE j) fSYNC).wr (TF_FR_STAT_FAILS j) 0).wr (TF_FR_MFC_MFC j) mfc).setBit TF_EVT_SYNC (j / 8)
      let s := s.hdrAccept j h
      s.setFr j { s.fr j with frame := some (mfc, true, s.tm.now) }
  | none =>
    let cands := if hdrFits h && rest.length < 4 then rest ++ [⟨off, mfc, 1⟩] else rest
    (s.setFr j { x with cands := cands }.nextBit).wr (TF_FR_STAT_STATE j) (if cands = [] then fHUNT else fPRESYNC)

/-- Bit offsets are examined, one after another, up to the first that is tracked or at which a header fits (R98). -/
def frScan (j : Nat) : Nat → State → State
  | 0, s => s
  | n + 1, s =>
    let x := s.fr j
    if !x.has 12 then s
    else if hdrFits (x.bytes 12) || x.cands.any (fun (c : Cand) => c.off == x.pos) then s.trackHeader j (x.bytes 12)
    else frScan j n (s.setFr j x.nextBit)

/-- The frame behind the header last examined in `SYNC`, where it is whole, is passed on (R93, R99). -/
def State.frameEnd (s : State) (j : Nat) : State :=
  let x := s.fr j
  match x.frame with
  | none => s
  | some (mfc, good, t) =>
    if !x.has 8192 then s
    else
      let b := x.bytes 8192
      (s.setFr j { x with frame := none, line := x.line.drop 8192 }).frameBody j mfc good t (b.take 12) (b.drop 12)

/-- The framer of position `j` goes on to the next header it examines (R97 to R100): outside `SYNC` the next of up to `n` bit offsets at which
something fits or is expected, in `SYNC` the one at the expected offset once the frame before it is whole. -/
def State.headerCheck (s : State) (j n : Nat) : State :=
  let st := s.rd (TF_FR_STAT_STATE j)
  if st = fOFF then s
  else if st = fSYNC then
    let s := s.frameEnd j
    let x := s.fr j
    if s.rd (TF_FR_STAT_STATE j) = fSYNC && x.frame.isNone && x.has 12 then s.syncHeader j (x.bytes 12) else s
  else frScan j (min n (8 * (s.fr j).line.length)) s

/-- The framer of position p.l has examined `n` further words and `b` bits of the next (R98), or less where a header stands in them; what lies
behind is examined with a later command. -/
def execRiltorHeaderCheck (p : Fin 4) (l : Fin 8) (n : Nat) (b : Fin 256) (s : State) : Host.Outcome State Fault Refusal :=
  .next (if s.portRuns p then (s.headerCheck (8 * p + l) (256 * n + b)).pairsEval else s)

/-- What has come of a frame is delivered, and the line goes on behind its header, which the hunt examines no more (log entry 129). -/
def State.passHeader (s : State) (j : Nat) : State :=
  if (s.fr j).frame.isNone then s
  else
    let s := s.cutDeliver j
    s.setFr j { s.fr j with frame := none, line := (s.fr j).line.drop 12, pos := ((s.fr j).pos + 96) % 65536 }

/-- A write of `TF_FR_CFG[j]` (R98): its plain fields, and `REHUNT`. -/
def State.frCfg (s : State) (j v : Nat) : State :=
  let s := s.writePlain (0x040000 + 4 * j) v
  if bitN v 4 = 1 then (s.passHeader j).frLeave j fHUNT else s

/-- `REHUNT` (R98): the other fields are written back as they stand. -/
def execRehunt (w : Who) (j : Fin 32) (s : State) : Host.Outcome State Fault Refusal :=
  .next (s.guardWrite w (0x040000 + 4 * j) (fun s => s.frCfg j (s.readPlain (0x040000 + 4 * j) + 16)))

/-! ## The rows of the GFP stream (R105, R106) -/

/-- A core header is tested. -/
def execGfpCoreHeader (c : Fin 32) (s : State) : Host.Outcome State Fault Refusal :=
  .next (if s.portRuns (c / 8) then (s.coreStep c).pairsEval else s)

/-- The frame behind an accepted core header has arrived whole. A client frame waits for the MAC's row. -/
def execGfpFrameReceived (c : Fin 32) (s : State) : Host.Outcome State Fault Refusal :=
  .next (if s.portRuns (c / 8) then s.gfpFrame c else s)

/-- A stream has been in `SYNC` for `LINK_UP_US` (R109). -/
def execGfpLinkUp (c : Fin 32) (s : State) : Host.Outcome State Fault Refusal :=
  .next (
    if s.portRuns (c / 8) && s.rd (TF_GFP_STAT_STATE c) = fSYNC && !s.is (TF_GFP_STAT_LINK c) then
      (s.advanceTo ((s.gfp c).since + usTicks (s.rd LN_TIMING_LINK_UP_US))).raise (TF_GFP_STAT_LINK c)
    else s)

/-! ## The transmit stream -/

/-- An idle frame (R103). -/
def gfpIdle : List Byte := [0xB6, 0xAB, 0x31, 0xE0]

/-- `n` idle frames. -/
def gfpIdles (n : Nat) : List Byte := (List.replicate n gfpIdle).flatten

/-- A client frame in GFP-F with the idle frames that follow it (R104, R108). -/
def State.gfpEncode (s : State) (c : Nat) (l : List Byte) : List Byte × Nat :=
  let p := s.rd (TF_GFP_CFG_PFCS_TX c)
  let pli := 4 + l.length + 4 * p
  let core := coreXor (beBytes 2 pli ++ beBytes 2 (crc16 (beBytes 2 pli)))
  let type := beBytes 2 (4096 * p + 1)
  let area := type ++ beBytes 2 (crc16 type) ++ l ++ (if p = 1 then beBytes 4 (pfcs l) else [])
  let r := if s.is (TF_GFP_CFG_X43_OFF c) && s.inTest then ((s.gfp c).txScr, area) else x43 false (s.gfp c).txScr area
  (core ++ r.2 ++ gfpIdles (3 - p), r.1)

/-- The count of the next segment to build. -/
def State.nextSeg (s : State) (g : Nat) : Nat :=
  match (s.grp g).segs.getLast? with
  | some e => (e.1 + 1) % 2 ^ 32
  | none => match s.memberAt g 0 with
    | some j => (s.fr j).grpMfc
    | none => 0

/-- Stream position after the last byte queued. -/
def State.txEndPos (s : State) (g : Nat) : Nat := posAdd (s.streamMod g) (s.nextSeg g * s.segLen g) (s.grp g).txq.length

/-- Bytes join the stream of group `g` of channel `c`. -/
def State.gfpQueue (s : State) (g c : Nat) (l : List Byte) : State :=
  let r := s.gfpEncode c l
  let x := s.grp g
  (s.setGrp g { x with txq := x.txq ++ r.1 }).setGfp c { s.gfp c with txScr := r.2 }

/-- Idle frames up to stream position `p` (R120). -/
def State.padTo (s : State) (g p : Nat) : State :=
  let x := s.grp g
  let e := s.txEndPos g
  if posBelow (s.streamMod g) p e then s
  else s.setGrp g { x with txq := x.txq ++ gfpIdles ((posDist (s.streamMod g) p e + 3) / 4) }

/-- The frame sent for a copy that is not wholly staged when its position comes: an all-zero client frame, its FCS inverted (R120). -/
def lateClient (n : Nat) : List Byte :=
  let z : List Byte := List.replicate (n - 4) 0
  z ++ leBytes 4 (crc32 z ^^^ 0xFFFFFFFF)

end Sys2Proof.Machine
end

