-- ==== Sys2Proof/Machine/Lanes.lean ====
section
/-! DEFINITION. Lanes, ports, E-mode channels and the spare lane (R66 to R86), and the receive-lane crossings (R16 to R20). -/

namespace Sys2Proof.Machine

/-! ## Which slice a port's lanes reach (R28, R30) -/

/-- The slice that processes what the port receives runs and is in service. -/
def State.rxRuns (s : State) (p : Nat) : Bool := match s.rxSlice p with
  | some i => s.islandRuns i && !s.sys.sliceOut.getLsbD i
  | none => false

/-- The crossing from lane `i` to its home slice or slice 4 (R17). -/
def legTo (i slice : Nat) : Nat := if slice = 4 then 64 + i else i

/-- The crossing whose words are processed, and the other one while the lanes fan out to both slices, from V3 to V8 (R28, R431). -/
def State.mainLeg (s : State) (i : Nat) : Nat := legTo i ((s.rxSlice (i / 9)).getD (i / 9))
def State.otherLeg (s : State) (i : Nat) : Option Nat :=
  if s.evacOf (i / 9) && decide (3 ≤ s.sv.step) then some (if s.mainLeg i < 64 then 64 + i else i) else none

/-- The words that stand in a receive-lane crossing. -/
def State.leg (s : State) (x : Nat) : List LegWord := mapGet (fun _ => []) s.sys.legs x

/-- Mark the next word written into a crossing as following a gap (R19, R68). -/
def State.markGap (s : State) (x : Nat) : State := if s.sys.gap.contains x then s else { s with sys := { s.sys with gap := x :: s.sys.gap } }

/-- A lane island writes a word: it is lost and the next one marked where the FIFO is full, which it can only be while its slice stands
(R17 to R19). -/
def State.legWrite (s : State) (x : Nat) (d : List Byte) (w : RxWord) : State :=
  let q := s.leg x
  if xingDepth x ≤ q.length then (s.bump (SYS_XING_OVF_OVF x)).markGap x
  else
    let e : LegWord := ⟨s.sys.gap.contains x, d, w⟩
    let s := { s with sys := { s.sys with legs := mapSet (fun _ => []) s.sys.legs x (q ++ [e]), gap := s.sys.gap.filter (· != x) } }
    s.crossed x (q.length + 1)

/-! ## Channels (R72, R74) -/

/-- Lanes a speed takes at a lane rate (R72): none where the pair is not supported. -/
def lanesFor (speed rate : Nat) : Option Nat :=
  if rate = 1 then [none, none, some 1, some 2, some 4, some 8].getD speed none
  else [none, some 1, some 2, some 4, some 8].getD speed none

/-- Positions of E-mode channel `c`. -/
def State.chanLanes (s : State) (c : Nat) : List Nat :=
  let f := s.rd (LN_CHAN_CFG_FIRST c)
  match s.laneAt (c / 8) f with
  | none => []
  | some i => (List.range ((lanesFor (s.rd (LN_CHAN_CFG_SPEED c)) (s.laneRate i)).getD 0)).map (f + ·)

def State.tMode (s : State) (p : Nat) : Bool := s.is (LN_PORT_CFG_T_MODE p)
def State.portOn (s : State) (p : Nat) : Bool := s.is (LN_PORT_CFG_ENABLE p)

/-- Is the channel started: enabled on an enabled E-mode port (R75)? -/
def State.chanOn (s : State) (c : Nat) : Bool := s.is (LN_CHAN_CFG_EN c) && s.portOn (c / 8) && !s.tMode (c / 8)

/-- The started E-mode channel of port `p` that position `l` belongs to. -/
def State.chanAt (s : State) (p l : Nat) : Option Nat :=
  ((List.range 8).map (8 * p + ·)).find? (fun c => s.chanOn c && (s.chanLanes c).contains l)

/-- The checks of R74 on the channel's own fields. -/
def State.chanOk (s : State) (c : Nat) : Bool :=
  let p := c / 8
  let f := s.rd (LN_CHAN_CFG_FIRST c)
  match s.laneAt p f with
  | none => false
  | some i =>
    match lanesFor (s.rd (LN_CHAN_CFG_SPEED c)) (s.laneRate i) with
    | none => false
    | some n =>
      f % n == 0 && f + n ≤ 8 &&
      (List.range n).all (fun k => match s.laneAt p (f + k) with
        | some j => s.laneRate j == s.laneRate i
        | none => false) &&
      (List.range 8).all (fun k => 8 * p + k == c || !s.is (LN_CHAN_CFG_EN (8 * p + k)) ||
        (s.chanLanes (8 * p + k)).all (fun l => l < f || f + n ≤ l))

/-! ## Link and alignment (R76 to R78) -/

/-- `LINK` falls where it was up (R78). -/
def State.linkDrop (s : State) (c : Nat) : State :=
  if s.is (LN_CHAN_STAT_LINK c) then
    ((s.wr (LN_CHAN_STAT_LINK c) 0).setBit LN_EVT_LINK_DOWN (c / 8)).bump (LN_CHAN_STAT_LINK_DOWN_CNT c)
  else s

/-- The channel leaves what it was in: fault reception clears with `ALIGNED` (R77). -/
def State.chanLeave (s : State) (c next : Nat) : State :=
  let s := if s.rd (LN_CHAN_STAT_STATE c) = 2 then
      (((s.linkDrop c).wr (LN_CHAN_STAT_LF_RX c) 0).wr (LN_CHAN_STAT_RF_RX c) 0).setCh c { s.ch c with partly := true }
    else s
  s.wr (LN_CHAN_STAT_STATE c) next

/-- The state of an E-mode channel follows its enables and lanes (R76); a port whose slice was left out of service stays down (R47). -/
def State.chanRefresh (s : State) (c : Nat) : State :=
  let ok := s.chanOn c && !s.leftOut (c / 8) && !(s.chanLanes c).isEmpty && (s.chanLanes c).all (s.posUp (c / 8))
  if !ok then (if s.rd (LN_CHAN_STAT_STATE c) = 0 then s else s.chanLeave c 0)
  else if s.rd (LN_CHAN_STAT_STATE c) = 0 then s.wr (LN_CHAN_STAT_STATE c) 1 else s

/-- Status of a transmit frame dropped because its channel stops (R236). -/
def stSTATE : Nat := 1

/-- A running channel stops (R75): its staged frames are dropped under cause 7, and reception ends at once. -/
def State.chanStop (s : State) (c : Nat) : State := (s.dropStaged c 7 stSTATE (fun _ => true)).setCh c
  { (s.dropStaged c 7 stSTATE (fun _ => true)).ch c with partly := true }

/-- What the Reconciliation Sublayer sends on channel `c` (R77). -/
def State.rsSends (s : State) (c : Nat) : RsSignal :=
  if s.rd (LN_CHAN_STAT_STATE c) ≠ 2 || s.is (LN_CHAN_STAT_LF_RX c) then .remoteFault
  else if s.is (LN_CHAN_STAT_RF_RX c) then .idle else .frames

/-! ## Transmit idle (R71) -/

/-- The position whose words wired lane `i` sends. -/
def State.sendsFor (s : State) (i : Nat) : Nat :=
  let l := s.sdField (0x200 + 4 * i) 16 4
  if l = 8 then s.rd (LN_SPARE_STAT_STOOD_POS (i / 9)) else l

/-- Is a frame of position p.l in transmission: in E-mode one of its channel's, a generated control frame among them, in T-mode a
Riltor frame partly taken? -/
def State.frameOnLane (s : State) (p l : Nat) : Bool :=
  if s.tMode p then (s.fr (8 * p + l)).out.length % 8192 != 0
  else (List.range 8).any (fun k => (s.chanLanes (8 * p + k)).contains l && (s.ch (8 * p + k)).line != .idle)

/-- Is wired lane `i` to transmit under R71, a frame in transmission apart? -/
def State.laneWants (s : State) (i : Nat) : Bool :=
  let p := i / 9
  let l := s.sdField (0x200 + 4 * i) 16 4
  s.portOn p &&
  (if l = 8 then (s.spare p).bridge || s.spState p == pACTIVE
   else (s.tMode p || (List.range 8).any (fun k => s.is (LN_CHAN_CFG_EN (8 * p + k)) && (s.chanLanes (8 * p + k)).contains l)) &&
     !(s.spState p == pACTIVE && s.rd (LN_SPARE_STAT_STOOD_POS p) == l && !s.is (LN_SPARE_STAT_TX_BRIDGED p)))

/-- Does a disable leave wired lane `i` sending up to the end of the frame it carries (R71, R75)? A bridge that ends is no disable. -/
def State.laneLingers (s : State) (i : Nat) : Bool :=
  let p := i / 9
  let l := s.sdField (0x200 + 4 * i) 16 4
  s.rd (LN_LANE_STAT_TX_IDLE i) == 0 && s.frameOnLane p (s.sendsFor i) &&
  (if l = 8 then (s.spare p).bridge || s.spState p == pACTIVE
   else !(s.spState p == pACTIVE && s.rd (LN_SPARE_STAT_STOOD_POS p) == l && !s.is (LN_SPARE_STAT_TX_BRIDGED p)))

/-- Should wired lane `i` transmit? -/
def State.laneSends (s : State) (i : Nat) : Bool :=
  s.lanePresent i && s.rd (LN_LANE_STAT_STATE i) != lnABSENT && !s.pw.idle.getLsbD (i / 9) && !s.isolated &&
  (s.laneWants i || s.laneLingers i)

/-- The pin `LTX_IDLE` of the port's lanes follows; the 1 to 4 cycles of R71 pass within the command. -/
def State.refreshIdle (s : State) (p : Nat) : State :=
  s.each (List.range 9) (fun s k => s.put (LN_LANE_STAT_TX_IDLE (9 * p + k)) (!s.laneSends (9 * p + k)))

/-! ## A port follows its lanes and its configuration -/

/-- The framer of position p.l starts or stops (R98); it stays off where the port's slice was left out of service (R47). -/
def State.frRefresh (s : State) (p l : Nat) : State :=
  let j := 8 * p + l
  if s.portOn p && s.tMode p && s.posUp p l && !s.leftOut p then
    (if s.rd (TF_FR_STAT_STATE j) = fOFF then s.wr (TF_FR_STAT_STATE j) fHUNT else s)
  else if s.rd (TF_FR_STAT_STATE j) = fOFF then s else s.frLeave j fOFF

def State.portRefresh (s : State) (p : Nat) : State :=
  let s := s.each (List.range 8) (fun s l => s.frRefresh p l)
  let s := s.each (List.range 8) (fun s k => s.chanRefresh (8 * p + k))
  (s.refreshIdle p).pairsEval

/-- The SD is applied (R68): present lanes leave `ABSENT`, and every lane shows its position and rate. -/
def State.applyLanes (s : State) : State :=
  s.each (List.range 36) (fun s i =>
    let s := (s.wr (LN_LANE_STAT_POS i) (s.sdField (0x200 + 4 * i) 16 4)).wr (LN_LANE_STAT_RATE i) (s.laneRate i)
    if s.lanePresent i && s.rd (LN_LANE_STAT_STATE i) = lnABSENT then
      (s.setLane i { s.lane i with since := s.tm.tick }).wr (LN_LANE_STAT_STATE i) lnDOWN
    else s)

/-! ## The spare's ends -/

/-- The bits of a position slip by an unknown amount (R84): an aligned E-mode channel loses its alignment (R76). -/
def State.posHit (s : State) (p l : Nat) : State :=
  if s.tMode p then s.frGap (8 * p + l)
  else match s.chanAt p l with
    | some c => if s.rd (LN_CHAN_STAT_STATE c) = 2 then (s.setCh c { s.ch c with alignLost := true }).chanLeave c 1 else s
    | none => s

/-- A spare operation ends before its switch (R81): its state is `IDLE`, the bridge stops and p.8 is free. A restoration that ends so
leaves the position on its working lane without a match, which is a hit as in R84 (log entry 17). -/
def State.spareEnd (s : State) (p result : Nat) : State :=
  let x := s.spare p
  let s := (s.wr (LN_SPARE_STAT_RESULT p) result).setBit LN_EVT_SPARE_DONE p
  let s := ((s.setSpare p {}).wr (LN_SPARE_STAT_STATE p) pIDLE).wr (LN_SPARE_STAT_TX_BRIDGED p) 0
  if x.reverse then
    let w := (s.laneAt p (s.rd (LN_SPARE_STAT_STOOD_POS p))).getD 0
    let s := s.setLane w { s.lane w with delay := 2048 }
    ((s.wr (LN_LANE_STAT_STANDS_IN ((s.laneAt p 8).getD 0)) 0).posHit p (s.rd (LN_SPARE_STAT_STOOD_POS p))).portRefresh p
  else s.refreshIdle p

/-- p.8 leaves `UP` during states 1 to 3 (R81). -/
def State.spareDown (s : State) (p : Nat) : State :=
  if s.spState p = pIDLE || s.spState p = pACTIVE then s else s.spareEnd p 4

/-- An evacuation of the port begins (R81, R86). -/
def State.spareEvac (s : State) (p : Nat) : State :=
  if s.spState p = pIDLE || s.spState p = pACTIVE then s else s.spareEnd p 5

/-! ## Lanes rise and fall -/

/-- The lane clocks' bits (R21). -/
def State.laneClk (s : State) (i : Nat) (b : Bool) : State :=
  let s := s.put (LN_LANE_STAT_CLK i) b
  if i < 32 then s.putBit SYS_LANE_CLK_LO_LANE_RUN_LO i b else s.putBit SYS_LANE_CLK_HI_LANE_RUN_HI (i - 32) b

/-- The lane's inputs have been steady for `LANE_UP_US` since its entry to `DOWN` or their last break (R68). -/
def execLaneUp (i : Fin 36) (s : State) : Host.Outcome State Fault Refusal :=
  .next (
    let s := ((s.laneClk i true).wr (LN_LANE_STAT_SD i) 1).wr (LN_LANE_STAT_LOCK i) 1
    let s := s.setLane i { s.lane i with rxClk := true, txClk := true }
    if s.rd (LN_LANE_STAT_STATE i) ≠ lnDOWN || s.pw.idle.getLsbD (i / 9) then s
    else
      let s := s.advanceTo ((s.lane i).since + usTicks (s.rd LN_TIMING_LANE_UP_US))
      let s := if s.laneAt (i / 9) 8 = some i.val then s else s.setLane i { s.lane i with delay := 2048 }
      ((s.wr (LN_LANE_STAT_STATE i) lnUP).setBit LN_EVT_LANE_UP (i / 9)).portRefresh (i / 9))

/-- A lane in `UP` goes `DOWN` (R68): counted and reported, and the next word it delivers follows a gap. -/
def State.laneDrop (s : State) (i : Nat) : State :=
  if !s.laneUp i then s
  else
    let p := i / 9
    let s := ((s.wr (LN_LANE_STAT_STATE i) lnDOWN).bump (LN_LANE_STAT_DOWN_CNT i)).setBit LN_EVT_LANE_DOWN p
    let s := (s.markGap (s.mainLeg i)).each (s.otherLeg i).toList (fun s x => s.markGap x)
    if s.laneAt p 8 = some i then s.spareDown p else s

/-- The inputs of a lane change to these values. A lane in `UP` that loses one goes `DOWN` (R68, R69). -/
def execLaneDown (i : Fin 36) (sd lock rxClk txClk : Bool) (s : State) : Host.Outcome State Fault Refusal :=
  .next (
    let ok := sd && lock && rxClk && txClk
    let s := ((s.laneClk i (rxClk && txClk)).put (LN_LANE_STAT_SD i) sd).put (LN_LANE_STAT_LOCK i) lock
    let x := s.lane i
    let s := s.setLane i { x with rxClk := rxClk, txClk := txClk, since := if ok then x.since else s.tm.tick }
    if ok || !s.laneUp i then s else (s.laneDrop i).portRefresh (i / 9))

/-! ## Receive words (R66, R79 to R81) -/

/-- What the FEC counts with a word (R79). -/
def State.fecCount (s : State) (i : Nat) (x : RxWord) : State :=
  if s.tMode (i / 9) then s
  else
  let s := s.bump (LN_SYM_ERR_COUNT i) x.symErr
  let s := { s with ny := { s.ny with eyeErr := mapUpd (fun _ => 0) s.ny.eyeErr i (· + x.symErr) } }
  match (s.feeds i).bind (s.chanAt (i / 9)) with
  | none => s
  | some c =>
    let s := s.put (LN_CHAN_STAT_HI_SER c) x.hiSer
    (s.bump64 (LN_CW_CORR_LO_COUNT c) (LN_CW_CORR_HI_COUNT c) x.corr).bump64 (LN_CW_UNC_LO_COUNT c) (LN_CW_UNC_HI_COUNT c) x.unc

/-- Bits received on a lane up to now, counted since its first word. -/
def LaneSt.end_ (x : LaneSt) : Nat := 256 * x.words

/-- `n` bytes from a bit counted since the lane's first word; none where the line no longer holds, or does not yet hold, all of them. -/
def LaneSt.bitsFrom (x : LaneSt) (a n : Nat) : Option (List Byte) :=
  let first := x.end_ - 8 * x.hist.length
  if a < first ∨ x.end_ < a + 8 * n then none
  else
    let o := a - first
    some (leBytes n (leNat ((x.hist.drop (o / 8)).take (n + 1)) 0 (n + 1) / 2 ^ (o % 8)))

/-- The lane that carries the copy and the lane in use of a port's spare operation: their roles are reversed in a restoration (R81). -/
def State.spareLanes (s : State) (p : Nat) : Nat × Nat :=
  let a := (s.laneAt p 8).getD 0
  let b := (s.laneAt p (s.rd (LN_SPARE_STAT_STOOD_POS p))).getD 0
  if (s.spare p).reverse then (b, a) else (a, b)

/-- One further word of the copy and of the line in use is compared where both have come (R81). -/
def State.confirmWord (s : State) (p : Nat) : State :=
  let x := s.spare p
  let c := s.lane (s.spareLanes p).1
  let l := s.lane (s.spareLanes p).2
  if s.spState p ≠ pCONFIRM ∨ c.end_ < x.copyAt + 256 ∨ l.end_ < x.lineAt + 256 then s
  else if (c.bitsFrom x.copyAt 32).isSome && c.bitsFrom x.copyAt 32 == l.bitsFrom x.lineAt 32 then
    s.setSpare p { x with copyAt := x.copyAt + 256, lineAt := x.lineAt + 256, confirmed := x.confirmed + 1 }
  else ((s.setSpare p { x with matched := false, confirmed := 0, since := s.tm.tick }).wr (LN_SPARE_STAT_STATE p) pMATCH).bump (LN_SPARE_STAT_RETRIES p)

/-- A word leaves the alignment line for position p.l (R80): the framer of a T-mode position takes it, and a gap breaks what spans it
(R19). In E-mode a frame of the channel that spans it carries the coding error. -/
def State.posWord (s : State) (p l : Nat) (gap : Bool) (d : List Byte) : State :=
  if s.tMode p then
    (if gap then ((s.frGap (8 * p + l)).frBits (8 * p + l) d).pairsEval else s.frBits (8 * p + l) d)
  else if gap then
    (match s.chanAt p l with
      | some c => s.setCh c { s.ch c with gapAt := some s.tm.tick }
      | none => s)
  else s

/-- The slice reads a word of lane `i`: it enters the alignment line, and the word that leaves it goes to the position the lane feeds. -/
def State.laneRead (s : State) (i : Nat) (w : LegWord) : State :=
  let x := s.lane i
  let h := x.hist ++ w.data
  let x := { x with
    hist := h.drop (h.length - 1024)
    words := x.words + 1
    gaps := (if w.gap then x.gaps ++ [x.end_] else x.gaps).filter (fun g => x.end_ ≤ g + 8192) }
  let s := ((s.setLane i x).fecCount i w.fec).confirmWord (i / 9)
  match s.feeds i with
  | none => s
  | some l =>
    if x.end_ < x.delay + 256 then s
    else
      let a := x.end_ - x.delay - 256
      match x.bitsFrom a 32 with
      | some d => s.posWord (i / 9) l (x.gaps.any (fun g => a ≤ g && g < a + 256)) d
      | none => s

/-- A word of the leg that is not processed: the slice that takes over aligns with it up to V4; a gap it meets behind that stays to be met
by what it processes (R19, R431). -/
def State.shadowRead (s : State) (x : Nat) (w : LegWord) : State := if w.gap && s.sv.step == 5 then s.markGap x else s

/-- A slice that runs reads everything that stands in one of its receive-lane crossings (R19, R20). -/
def State.legDrain (s : State) (x : Nat) : State :=
  let i := x % 64
  if s.leg x = [] || !s.islandRuns (if x < 64 then i / 9 else 4) then s
  else
    ({ s with sys := { s.sys with legs := mapErase x s.sys.legs } } : State).each (s.leg x) (fun s w =>
      if s.mainLeg i = x then s.laneRead i w else s.shadowRead x w)

/-- Every receive-lane crossing of a slice that runs is read. -/
def State.legsDrain (s : State) : State := s.each (s.sys.legs.map (·.1)) (fun s x => s.legDrain x)

/-- A receive lane word (R66): inverted where `RX_INV` says so, and written into the lane's legs. -/
def execRxLaneWord (i : Fin 36) (x : RxWord) (s : State) : Host.Outcome State Fault Refusal :=
  .next (
    if !s.laneUp i then s
    else
      let v := if s.sdField (0x200 + 4 * i) 1 1 = 1 then ~~~x.word else x.word
      let d := leBytes 32 v.toNat
      let legs := s.mainLeg i :: (s.otherLeg i).toList
      (s.each legs (fun s l => s.legWrite l d x)).each legs (fun s l => s.legDrain l))

/-! ## Transmit words -/

/-- Has the crossing to transmit lane `i` a word: its slice runs and keeps it filled, or stands and has left 16 of them (R17, R20)? -/
def State.txCrossing (s : State) (i : Nat) : Bool := s.portRuns (i / 9) || decide ((s.lane i).tail < 16)

/-- The word a lane island sends (R66, R19): a T-mode position's next 32 bytes, or in E-mode the word its slice offers, which a
bridging lane repeats; none leaves an underflow and an all-zero word. -/
def State.txWord (s : State) (i : Nat) (x : Option (BitVec 256)) : Option (List Byte) × State :=
  let p := i / 9
  let l := s.sendsFor i
  match s.laneAt p l with
  | none => (none, s)
  | some k =>
    if !s.txCrossing i then (none, s)
    else if i ≠ k && s.rd (LN_LANE_STAT_TX_IDLE k) = 0 then
      (some (if s.sdField (0x200 + 4 * k) 2 1 = 1 then (s.lane k).ltx.map (~~~·) else (s.lane k).ltx), s)
    else if s.tMode p then
      let f := s.fr (8 * p + l)
      if f.out.length < 32 then (none, s) else (some (f.out.take 32), s.setFr (8 * p + l) { f with out := f.out.drop 32 })
    else (x.map (fun v => leBytes 32 v.toNat), s)

/-- The crossing transmit lane `i` takes its words from (R17, R28). -/
def State.txXing (s : State) (i : Nat) : Nat := (if s.sliceOf (i / 9) = some 4 then 192 else 128) + i

/-- A transmit lane word (R66), with what its channel's Reconciliation Sublayer sends in it (R77). A lane that a disable found in a frame
idles behind that frame's end (R71). -/
def execTxLaneWord (i : Fin 36) (x : Option (BitVec 256)) (s : State) : Host.Outcome State Fault Refusal :=
  .next (
    if s.rd (LN_LANE_STAT_TX_IDLE i) = 1 || !(s.lane i).txClk then s
    else
      let p := i.val / 9
      let r := s.txWord i x
      let s := match r.1 with
        | some _ => r.2.crossed (s.txXing i) 1
        | none => r.2.bump (SYS_XING_OVF_OVF (s.txXing i))
      let d := r.1.getD (List.replicate 32 0)
      let sig : RsSignal := match (if s.tMode p then none else s.chanAt p (s.sendsFor i)) with
        | some c => s.rsSends c
        | none => .idle
      let s := s.setLane i { s.lane i with
        ltx := if s.sdField (0x200 + 4 * i) 2 1 = 1 then d.map (~~~·) else d
        signal := sig
        tail := if s.portRuns p then 0 else min 16 ((s.lane i).tail + 1) }
      if s.laneWants i then s else s.refreshIdle p)

/-! ## Rows of ports and channels -/

/-- A write of `LN_PORT_CFG[p]` (R70, R75). -/
def State.portCfg (s : State) (p v : Nat) : State :=
  let was := s.portOn p
  let s := if was then (if bitN v 1 = s.rd (LN_PORT_CFG_T_MODE p) then s else s.bump LN_CFG_REJ_COUNT) else s.wr (LN_PORT_CFG_T_MODE p) (bitN v 1)
  let ons := (List.range 8).filter (fun k => s.chanOn (8 * p + k))
  let s := s.wr (LN_PORT_CFG_ENABLE p) (bitN v 0)
  let s := if was && bitN v 0 = 0 then s.each ons (fun s k => s.chanStop (8 * p + k)) else s
  let s := if !was && bitN v 0 = 1 then
      s.each (List.range 8) (fun s l => s.setFr (8 * p + l) { s.fr (8 * p + l) with txMfc := 0, txPar := none, out := [] })
    else s
  s.portRefresh p

def execPortCfgWrite (w : Who) (p : Fin 4) (v : Word) (s : State) : Host.Outcome State Fault Refusal :=
  .next (s.guardWrite w (0x020000 + 4 * p) (·.portCfg p v.toNat))

/-- A write of `LN_CHAN_CFG[c]` (R74, R75). -/
def State.chanCfg (s : State) (c v : Nat) : State :=
  let p := c / 8
  let fields (s : State) : State := (s.wr (LN_CHAN_CFG_SPEED c) (bits v 1 3)).wr (LN_CHAN_CFG_FIRST c) (bits v 4 3)
  let s := if s.is (LN_CHAN_CFG_EN c) then
      let on := s.chanOn c
      let s := if bits v 1 3 = s.rd (LN_CHAN_CFG_SPEED c) ∧ bits v 4 3 = s.rd (LN_CHAN_CFG_FIRST c) then s else s.bump LN_CFG_REJ_COUNT
      let t := s.wr (LN_CHAN_CFG_EN c) (bitN v 0)
      if bitN v 0 = 0 && on then t.chanStop c else t
    else
      let s := fields s
      if bitN v 0 = 0 then s
      else if s.chanOk c then s.wr (LN_CHAN_CFG_EN c) 1
      else (s.raise (LN_CHAN_STAT_CFG_ERR c)).bump LN_CFG_REJ_COUNT
  s.portRefresh p

def execChanCfgWrite (w : Who) (c : Fin 32) (v : Word) (s : State) : Host.Outcome State Fault Refusal :=
  .next (s.guardWrite w (0x020100 + 4 * c) (·.chanCfg c v.toNat))

/-- The delays that bring PCS lanes together whose markers arrive at these times (R76). -/
def deskews (arrivals : List Nat) : List Nat := arrivals.map (fun t => arrivals.foldl max 0 - t)

/-- Markers are locked on every PCS lane (R76): each arrives at a time in 2⁻¹⁶ ns, and up to 200 ns of skew is taken out. -/
def execAlignmentLock (c : Fin 32) (arrivals : List Word) (s : State) : Host.Outcome State Fault Refusal :=
  .next (
    let d := deskews (arrivals.map (·.toNat))
    if s.rd (LN_CHAN_STAT_STATE c) ≠ 1 || !s.rxRuns (c / 8) then s
    else if d.foldl max 0 ≤ 200 * 2 ^ 16 then (s.setCh c { s.ch c with linkSince := s.tm.tick, deskew := d }).wr (LN_CHAN_STAT_STATE c) 2
    else s.raise (LN_CHAN_STAT_SKEW_ERR c))

/-- Alignment is lost (R76, R77): `ALIGN_LOST` is set, and the channel aligns anew. -/
def execAlignmentLost (c : Fin 32) (s : State) : Host.Outcome State Fault Refusal :=
  .next (
    if s.rd (LN_CHAN_STAT_STATE c) = 2 && s.rxRuns (c / 8) then (s.setCh c { s.ch c with alignLost := true }).chanLeave c 1 else s)

/-- Fault sequences received by an aligned channel change (R77, R78). -/
def execRxFaultSequence (c : Fin 32) (lf rf : Bool) (s : State) : Host.Outcome State Fault Refusal :=
  .next (
    if s.rd (LN_CHAN_STAT_STATE c) ≠ 2 || !s.rxRuns (c / 8) then s
    else
      let s := (s.put (LN_CHAN_STAT_LF_RX c) lf).put (LN_CHAN_STAT_RF_RX c) rf
      let s := s.setCh c { s.ch c with linkSince := s.tm.tick }
      if lf || rf then s.linkDrop c else s)

/-- A channel has been aligned without a fault for `LINK_UP_US` (R78). -/
def execLinkUp (c : Fin 32) (s : State) : Host.Outcome State Fault Refusal :=
  .next (
    if s.portRuns (c / 8) && s.rd (LN_CHAN_STAT_STATE c) = 2 && !s.is (LN_CHAN_STAT_LF_RX c) && !s.is (LN_CHAN_STAT_RF_RX c) &&
        !s.is (LN_CHAN_STAT_LINK c) then
      ((s.advanceTo ((s.ch c).linkSince + usTicks (s.rd LN_TIMING_LINK_UP_US))).raise (LN_CHAN_STAT_LINK c)).setBit LN_EVT_LINK_UP (c / 8)
    else s)

/-! ## Rows of the spare lane (R81, R82) -/

/-- A refused write of `OP`. -/
def State.spareRefuse (s : State) (p result : Nat) : State := (s.wr (LN_SPARE_STAT_RESULT p) result).bump LN_CFG_REJ_COUNT

/-- The check of `BADARG` (R82). A `POS` that no present lane carries is refused so too, though the table names no such case (DESIGN CHOICE, log
entry 122). -/
def State.spareArg (s : State) (p l : Nat) : Bool :=
  match s.laneAt p 8, s.laneAt p l with
  | some i, some j => s.laneUp i && s.laneRate i == s.laneRate j
  | _, _ => false

/-- A write of `LN_SPARE_CTRL[p]`. Where several cases of R82 hold, the first in the order of its table gives the result (log entry 100). -/
def State.spareCtrl (s : State) (p v : Nat) : State :=
  let op := v % 8
  let st := s.spState p
  let fields (s : State) : State := s.writePlain (0x020400 + 8 * p) v
  if op = 1 then
    if st ≠ pIDLE then s.spareRefuse p 1
    else if !s.spareArg p (bits v 4 3) then s.spareRefuse p 2
    else if s.evacOf p then s.spareRefuse p 5
    else
      let s := fields s
      let bridge := s.is (LN_SPARE_CTRL_BRIDGE p)
      let s := s.setSpare p { since := s.tm.tick, bridge := bridge }
      let s := ((s.wr (LN_SPARE_STAT_STOOD_POS p) (bits v 4 3)).put (LN_SPARE_STAT_TX_BRIDGED p) bridge).wr (LN_SPARE_STAT_STATE p)
        (if s.is (LN_SPARE_CTRL_MATCH p) then pMATCH else pSWITCH)
      s.refreshIdle p
  else if op = 2 then
    if st ≠ pACTIVE then s.spareRefuse p 1
    else
      let s := (fields s).wr (LN_SPARE_STAT_TX_BRIDGED p) 0
      s.refreshIdle p
  else if op = 3 then
    if st ≠ pACTIVE then s.spareRefuse p 1
    else
      let s := fields s
      let s := s.setSpare p { reverse := true, since := s.tm.tick, bridge := true }
      let s := (s.wr (LN_SPARE_STAT_TX_BRIDGED p) 1).wr (LN_SPARE_STAT_STATE p) (if s.is (LN_SPARE_CTRL_MATCH p) then pMATCH else pSWITCH)
      s.refreshIdle p
  else if op = 4 then
    if st = pIDLE || st = pACTIVE then s.spareRefuse p 1 else (fields s).spareEnd p 7
  else s.spareRefuse p 2

/-- A write of `LN_SPARE_CTRL[p]` whose fields other than `OP` are those of `v`. -/
def State.spareOp (s : State) (w : Who) (p v op : Nat) : State := s.guardWrite w (0x020400 + 8 * p) (·.spareCtrl p (v - v % 8 + op))

def execLnSubstitute (w : Who) (p : Fin 4) (v : Word) (s : State) : Host.Outcome State Fault Refusal := .next (s.spareOp w p v.toNat 1)
def execTxRelease (w : Who) (p : Fin 4) (v : Word) (s : State) : Host.Outcome State Fault Refusal := .next (s.spareOp w p v.toNat 2)
def execLnRestore (w : Who) (p : Fin 4) (v : Word) (s : State) : Host.Outcome State Fault Refusal := .next (s.spareOp w p v.toNat 3)
def execSpareAbort (w : Who) (p : Fin 4) (v : Word) (s : State) : Host.Outcome State Fault Refusal := .next (s.spareOp w p v.toNat 4)

/-- Four consecutive words of the copy equal the line in use at offset `d`, which lies in −2,047 to +2,048 and is counted as the spare's
lag behind the working lane (R80, R81). -/
def execSpareMatch (p : Fin 4) (d : BitVec 13) (s : State) : Host.Outcome State Fault Refusal :=
  .next (
    let x := s.spare p
    let c := s.lane (s.spareLanes p).1
    let l := s.lane (s.spareLanes p).2
    let e : Int := if x.reverse then -d.toInt else d.toInt
    let ca := c.end_ - (-e).toNat
    let la := l.end_ - e.toNat
    if s.spState p = pMATCH && s.portRuns p && -2047 ≤ d.toInt && d.toInt ≤ 2048 && 1024 ≤ ca && 1024 ≤ la &&
        (c.bitsFrom (ca - 1024) 128).isSome && c.bitsFrom (ca - 1024) 128 == l.bitsFrom (la - 1024) 128 then
      ((s.setSpare p { x with matched := true, copyAt := ca, lineAt := la, confirmed := 0 }).wr (LN_SPARE_STAT_OFFSET p) d.toNat).wr
        (LN_SPARE_STAT_STATE p) pCONFIRM
    else s)

/-- `CONFIRM_W` × 256 further words have all been equal (R81). -/
def execSpareConfirmDone (p : Fin 4) (s : State) : Host.Outcome State Fault Refusal :=
  .next (
    if s.spState p = pCONFIRM && s.portRuns p && 256 * s.rd (LN_SPARE_CTRL_CONFIRM_W p) ≤ (s.spare p).confirmed then
      s.wr (LN_SPARE_STAT_STATE p) pSWITCH
    else s)

/-- `MATCH_US` has passed in `MATCH` (R81). -/
def execSpareMatchTimeout (p : Fin 4) (s : State) : Host.Outcome State Fault Refusal :=
  .next (
    if s.spState p ≠ pMATCH then s
    else
      let s := s.advanceTo ((s.spare p).since + usTicks (s.rd (LN_SPARE_CTRL_MATCH_US p)))
      if s.is (LN_SPARE_CTRL_FORCE p) then
        ((s.setSpare p { s.spare p with forced := true }).wr (LN_SPARE_STAT_RESULT p) 6).wr (LN_SPARE_STAT_STATE p) pSWITCH
      else s.spareEnd p 3)

/-- The delay at which the copy's words leave the alignment line from the switch on. After a match the next word continues the bits of the
line in use: that is 2,048 − d for p.8 and 2,048 for the working lane where the words of both lanes have come in step (R80, log entry 101).
A forced switch slips by an unknown amount (R84), and one without a match takes the place at delay 2,048. -/
def State.spareDelay (s : State) (p : Nat) : Nat × State :=
  let x := s.spare p
  let c := s.lane (s.spareLanes p).1
  let l := s.lane (s.spareLanes p).2
  if x.forced then (s.draw.1.toNat % 4096, s.draw.2)
  else if x.matched then (min 4095 (c.end_ + x.lineAt + l.delay - l.end_ - x.copyAt), s)
  else (2048, s)

/-- The next receive-lane word boundary after `SWITCH` (R81, R84): a substitution becomes `ACTIVE`, the working lane still sending beside p.8
(R85), and a restoration ends. -/
def execSpareSwitch (p : Fin 4) (s : State) : Host.Outcome State Fault Refusal :=
  .next (
    if s.spState p ≠ pSWITCH || !s.portRuns p then s
    else
      let x := s.spare p
      let l := s.rd (LN_SPARE_STAT_STOOD_POS p)
      let i := (s.laneAt p 8).getD 0
      let c := (s.spareLanes p).1
      let s := (s.spareDelay p).2.setLane c { s.lane c with delay := (s.spareDelay p).1 }
      let s := (s.wr (LN_SPARE_STAT_RESULT p) (if x.forced then 6 else 0)).setBit LN_EVT_SPARE_DONE p
      let s := if x.reverse then
          (((s.setSpare p {}).wr (LN_SPARE_STAT_STATE p) pIDLE).wr (LN_SPARE_STAT_TX_BRIDGED p) 0).wr (LN_LANE_STAT_STANDS_IN i) 0
        else ((s.wr (LN_SPARE_STAT_STATE p) pACTIVE).wr (LN_SPARE_STAT_TX_BRIDGED p) 1).wr (LN_LANE_STAT_STANDS_IN i) 1
      let s := if x.forced then s.posHit p l else s
      s.portRefresh p)

end Sys2Proof.Machine
end

