-- ==== Sys2Proof/Machine/System.lean ====
section
/-! DEFINITION. Resets, start-up, the surroundings descriptor, the heartbeat and the fabric's answers (R40 to R65, R423). -/

namespace Sys2Proof.Machine

/-- A log record whose code and severity the spec does not give: they are free values (log entry 5). -/
def State.postOpen (s : State) (a0 : Nat) : State :=
  let d := s.draw
  d.2.postHw (bits d.1.toNat 0 16) (bits d.1.toNat 16 2) a0 (bits d.1.toNat 32 32) 0

/-! ## Answers of the surroundings -/

/-- A protocol error on port or channel `x` (R55, R59). -/
def State.protoErr (s : State) (x : Nat) : State :=
  if x < 9 then (s.bump SYS_FAB_PROTO_CNT_COUNT).setBit SYS_FAB_EVT_PROTO x
  else (s.bump CL_TBL_PROTO_COUNT).setBit CL_EVT_TBL_PROTO (x - 9)

/-- Credits a beat returns (R54, R55). -/
def State.creditReturns (s : State) (x cr : Nat) : State :=
  s.each [0, 1, 3] (fun s v =>
    if bitN cr v = 0 then s
    else if s.fab.outstOf (fkey x v) = 0 || (x ≥ 9 && v == 3) then s.protoErr x
    else { s with fab := s.fab.giveBack (fkey x v) })

/-- The credit audit of port or channel `x` (R55, R59, R178): a failure stops its requests. -/
def State.creditAudit (s : State) (x : Nat) : State :=
  if [0, 1, 3].all (fun v => s.fab.audit (fkey x v)) || s.fab.failed.contains x then s
  else
    let s := { s with fab := { s.fab with failed := x :: s.fab.failed } }
    if x < 9 then s.setBit SYS_FAB_EVT_AUDIT x else s.setBit CL_EVT_TBL_AUDIT (x - 9)

/-- Response codes (R51). -/
def respOf (v : Nat) : Resp := [Resp.okay, .declined, .poison, .timeout].getD v .okay

/-- A request is answered: it leaves the outstanding ones and its response waits for its unit (R56). -/
def State.answered (s : State) (r : Req) (resp : Resp) (data : List Byte) : State :=
  let d : Deliv := ⟨r.kind, r.a, r.b, r.x, r.addr, resp, data⟩
  { s with fab := { s.fab with reqs := s.fab.reqs.filter (fun (q : Req) => !(q.x == r.x && q.tag == r.tag)), done := s.fab.done ++ [d] } }

/-- A beat on `RS` (R52, R55, R57). -/
def State.rsBeat (s : State) (x : Nat) (b : Beat) : State :=
  let t := b.tag.toNat
  match s.fab.reqs.find? (fun (q : Req) => q.x == x && q.tag == some t) with
  | none =>
    if s.fab.quar.contains (x, t) then
      (if b.last then { s with fab := { s.fab with quar := s.fab.quar.filter (· != (x, t)) } }.bump SYS_FAB_LATE_COUNT else s)
    else s.protoErr x
  | some r =>
    let resp := respOf b.resp.toNat
    if r.rlen = 0 then (if b.last && r.left = 0 then s.answered r resp [] else s.protoErr x)
    else if resp ≠ .okay then (if b.last && r.got = [] then s.answered r resp [] else s.protoErr x)
    else
      let got := r.got ++ b.data
      let need := 64 * granules r.addr r.rlen
      if b.last then (if need ≤ got.length then s.answered r .okay ((got.drop (r.addr % 64)).take r.rlen) else s.protoErr x)
      else if need ≤ got.length then s.protoErr x
      else { s with fab := { s.fab with reqs := s.fab.reqs.map (fun (q : Req) => if q.x == x && q.tag == some t then { q with got := got } else q) } }

/-- An `RS` beat on a fabric port is a performance event of the request's address (R378). -/
def State.rsCount (s : State) (x t : Nat) : State :=
  if x < 9 then s.pcEvent (576 + 8 * x + 3) { addr := (s.fab.reqs.find? (fun (q : Req) => q.x == x && q.tag == some t)).map (fun (q : Req) => q.addr) }
  else s

/-- What a beat does in the core or table island (R54 to R57): its credits, the audit, its response, and the requests these let go. -/
def State.beatTake (s : State) (x : Nat) (b : Beat) : State :=
  let s := (s.creditReturns x b.cr.toNat).creditAudit x
  let s := if !b.valid then s else if b.vc.toNat = 2 then (s.rsCount x b.tag.toNat).rsBeat x b else s.protoErr x
  s.pump

/-- Beats that stand in crossing 9 of fabric port `x` (R17). -/
def State.waits9 (s : State) (x : Nat) : List Beat := mapGet (fun _ => []) s.fab.in9 x

/-- A beat from the surroundings on fabric port `x`, or table channel `x` − 9 (R50 to R59). Nothing may come on a port that is not
up (R64). While the core clock stands a fabric port's beat waits in crossing 9, or behind it in the fabric island (R18, R20, R31). -/
def execFabricBeatReceived (x : Fin 16) (b : Beat) (s : State) : Host.Outcome State Fault Refusal :=
  .next (
    if !s.fab.up.getLsbD x.val || !s.islandRuns (if x.val < 9 then 6 else 7) then s
    else if 9 ≤ x.val then s.beatTake x b
    else
      let q := s.waits9 x
      let s := s.crossed (576 + x) (min 16 (q.length + 1))
      if s.coreUp then s.beatTake x b
      else if q.length < 16 then { s with fab := { s.fab with in9 := mapSet (fun _ => []) s.fab.in9 x (q ++ [b]) } }
      else { s with fab := { s.fab with fabQ := mapUpd (fun _ => []) s.fab.fabQ x (· ++ [b]) } })

/-- A request has gone unanswered for its limit (R57): answered `TIMEOUT`, its tag in quarantine. The limit ends at exactly the time set
(log entry 38). -/
def State.reqTimeout (s : State) (x t us : Nat) : State :=
  match s.fab.reqs.find? (fun (q : Req) => q.x == x && q.tag == some t) with
  | none => s
  | some r =>
    let s := (s.advanceTo (r.at_ + usTicks us)).answered r .timeout []
    let s := ({ s with fab := { s.fab with quar := (x, t) :: s.fab.quar } } : State).pump
    if x < 9 then (s.setBit SYS_FAB_EVT_TMO x).pcEvent (576 + 8 * x + 5) { addr := some r.addr } else s.setBit CL_EVT_TBL_ERR (x - 9)

/-- On fabric port `f`, where the core island times it. -/
def execFabricRequestTimeout (f : Fin 9) (t : BitVec 12) (s : State) : Host.Outcome State Fault Refusal :=
  .next (if s.coreUp then s.reqTimeout f t.toNat (s.rd SYS_FAB_TIMEOUT_FAB_US) else s)

/-- On table channel `c`, where the table island does (R59). -/
def execTableReadTimeout (c : Fin 7) (t : BitVec 12) (s : State) : Host.Outcome State Fault Refusal :=
  .next (if s.islandRuns 7 then s.reqTimeout (9 + c) t.toNat (s.rd SYS_FAB_TIMEOUT_TBL_US) else s)

/-! ## Islands that run again -/

/-- After anything that may have let islands run (R16, R20): a slice that runs reads what stands in its receive-lane crossings, the fabric
island what stands in crossing 8, the core island what stands in crossing 9, waiting requests go out, and counters left out by a `SNAP` are copied
(R380). -/
def State.islandsSettle (s : State) : State :=
  let s := s.legsDrain.settleBeats
  let s := ((if s.islandRuns 6 then { s with fab := s.fab.cross8 } else s).pump).pcCatchUp
  let q := s.fab.in9
  let r := if s.islandRuns 6 then s.fab.fabQ else []
  let left := if s.islandRuns 6 then [] else s.fab.fabQ
  let s := if s.coreUp then
      (({ s with fab := { s.fab with in9 := [], fabQ := left } } : State).each (q ++ r) (fun s e => s.each e.2 (fun s b => s.beatTake e.1 b))).takeSent.fbAudit
    else s
  s.pairsEval

/-! ## Resets -/

/-- Register offsets in the always-on island, which a fall of `BLK_RST_N` leaves alone (R349, R376, R404, R424): power, watch list,
log writer, always-on count and period, the 25 MHz count (R408). -/
def aonOffset (off : Nat) : Bool :=
  (0x1F0000 ≤ off && off < 0x1F1000) || off = 0x170058 || off = 0x17005C ||
  (0x180100 ≤ off && off < 0x180184) || off = 0x1E0010 || off = 0x1E0014 || off = 0x1E0400 || off = 0x1E0404 || off = 0x1E0408

/-- Fields that no reset clears: `PW_BOR` (R423) and the fuse lock (R404). -/
def keptOffset (off : Nat) : Bool := off = 0x1F0024

/-- Fields of these offsets stay. -/
def State.keepFlds (s : State) (p : Nat → Bool) : SMap Nat := s.flds.filter (fun e => p (e.1 / 32))

/-- What survives every reset: the queue, the draw count, the passage of time, fuses and pins that others drive. -/
def State.bare (s : State) : State :=
  let kw := { ({} : KwSt) with fuses := s.kw.fuses, fuseLock := s.kw.fuseLock, haspPin := s.kw.haspPin, flash := s.kw.flash }
  let t : State := { State.reset with pending := s.pending, free := s.free, kw := kw }
  let t := { t with tm := { t.tm with tick := s.tm.tick }, ny := { t.ny with slots := s.ny.slots } }
  let t := { t with hub := { t.hub with awake := s.hub.awake }, cc := { t.cc with halt := s.cc.halt } }
  if s.kw.fuseLock then (t.raise KW_FUSE_CTRL_FUSE_LOCK).raise KW_STAT_FUSED else t

/-- Fields laid over a fresh state. -/
def State.overlay (t : State) (l : SMap Nat) : State :=
  { t with flds := l.foldl (fun m e => mapSet fieldReset m e.1 e.2) t.flds }

/-- Every unit outside the always-on island is reset; `RESET` is entered (R47), and `WAKE_OUT` falls (R63). Transfers that no reader has
accepted come back to the counters that stay (R160). -/
def State.blkReset (s : State) : State :=
  let s := s.failTransit (fun _ => true)
  let t := s.bare.overlay (s.keepFlds aonOffset)
  let t := { t with tm := { t.tm with sub32 := s.tm.sub32, latchV := s.tm.latchV } }
  let t := { t with ny := { t.ny with hwq := s.ny.hwq } }
  let t := { t with pw := s.pw, hub := { t.hub with wakeDue := s.hub.wakeDue } }
  { t with sys := { t.sys with aonRstN := s.sys.aonRstN, blkRstN := s.sys.blkRstN, pwGood := s.sys.pwGood, pwRet := s.sys.pwRet,
                               pwIso := s.sys.pwIso, bor := s.sys.bor } }

/-- The always-on island is reset too. -/
def State.aonReset (s : State) : State :=
  let t := s.bare.overlay (s.keepFlds keptOffset)
  { t with sys := { t.sys with blkRstN := s.sys.blkRstN, pwGood := s.sys.pwGood, bor := s.sys.bor } }

/-- A fall of `AON_RST_N` (R47). -/
def execAonRstNFall (s : State) : Host.Outcome State Fault Refusal :=
  .next { s.aonReset with sys := { s.aonReset.sys with aonRstN := false } }

/-- A fall of `BLK_RST_N` (R47, R63). -/
def execBlkRstNFall (s : State) : Host.Outcome State Fault Refusal :=
  .next { s.blkReset with sys := { s.blkReset.sys with blkRstN := false } }

/-- A fall of `PW_GOOD` (R47, R63). -/
def execPwGoodFall (s : State) : Host.Outcome State Fault Refusal :=
  .next { s.blkReset with sys := { s.blkReset.sys with pwGood := false } }

/-- All power is removed (R409): the block is OFF, and even `PW_BOR` and the retention SRAM are lost (R423). -/
def execPowerRemoved (s : State) : Host.Outcome State Fault Refusal := .next { s.bare with ny := { s.bare.ny with slots := [] } }

/-- The always-on supply falls below 0.62 V (R423). -/
def execBrownOut (s : State) : Host.Outcome State Fault Refusal :=
  .next (
    let st := s.rd PW_STAT_STATE
    let t := { s.aonReset with sys := { s.aonReset.sys with bor := true, aonRstN := s.sys.aonRstN } }
    let t := { t with hub := { t.hub with wakeOut := true } }
    ((t.raise PW_BOR_SEEN).wr PW_BOR_STATE st).bump PW_BOR_COUNT)

/-- Fabric ports and table channels go out of service: quarantined tags are free, and the credits of a later rise start from the
grant (R57, R64). -/
def FabSt.down (f : FabSt) (p : Nat → Bool) : FabSt :=
  { f with up := f.up &&& ~~~(BitVec.ofNat 16 ((List.range 16).foldl (fun n x => n + (if p x then 2 ^ x else 0)) 0))
           avail := f.avail.filter (fun e => !p (e.1 / 4)), outst := f.outst.filter (fun e => !p (e.1 / 4))
           grant := f.grant.filter (fun e => !p (e.1 / 4))
           quar := f.quar.filter (fun e => !p e.1), out8 := f.out8.filter (fun e => !p e.1), hdr8 := f.hdr8.filter (fun e => !p e.1)
           in9 := f.in9.filter (fun e => !p e.1), fabQ := f.fabQ.filter (fun e => !p e.1) }

/-- A line of a port with these grants rises (R46, R64). -/
def FabSt.raisePort (f : FabSt) (x : Nat) (pw rq nt : Nat) : FabSt :=
  let f := ((f.raiseGrant (fkey x 0) pw).raiseGrant (fkey x 1) rq).raiseGrant (fkey x 3) nt
  { f with up := f.up ||| (1#16 <<< x), failed := f.failed.filter (· != x) }

/-- `PW_ISO` rises outside the sequencer (R63): the clamps hold every output, so no port is in service, every lane idles and `WAKE_OUT` is 0
(Pins.lean gives the other outputs). -/
def execPwIsoRise (s : State) : Host.Outcome State Fault Refusal :=
  .next (
    let s := { s with sys := { s.sys with pwIso := true }, fab := s.fab.down (fun _ => true), hub := { s.hub with wakeOut := false } }
    s.each (List.range 36) (fun s i => s.raise (LN_LANE_STAT_TX_IDLE i)))

/-! ## Start-up -/

/-- The islands that a start-up step starts. -/
def State.startIslands (s : State) (m : BitVec 9) : State := { s with sys := { s.sys with started := s.sys.started ||| m } }.refreshRun.islandsSettle

/-- `BLK_RST_N` is released with all else high (R47, R315, R348, R403, R406, R423). -/
def State.release (s : State) (b : Boot) : State :=
  let s := ((s.startIslands 0x160#9).wr SYS_STATE_STATE stBOOT).bgBegin 3 0 |>.bgBegin 5 0
  let s := { s with tm := { s.tm with now := 0, cyc := 0, sub25 := 0, incr := s.rd TM_INCR_INCR } }
  let s := if s.kw.haspPin then s.haspRise else s.loadSlot 0 s.kw.fuses true
  let s := s.bootSelect b
  let s := if s.sys.bor then
    ({ s with sys := { s.sys with bor := false } }.raise PW_EVT_BOR).postHw 0x206 2 (s.rd PW_BOR_STATE) (s.rd PW_BOR_COUNT) 0
  else s
  s.hubWakes

/-- The three reset conditions are all high (R47). -/
def execResetRelease (b : Boot) (s : State) : Host.Outcome State Fault Refusal :=
  .next (
    let s := { s with sys := { s.sys with aonRstN := true, blkRstN := true, pwGood := true, pwIso := false, pwRet := false } }
    if s.start = stRESET then ({ s with tm := { s.tm with latchV := none } } : State).release b else s)

/-- The Nyelle firmware runs (R47), which takes its island's clock (R15): `FAB_UP[0]` rises with the boot grant. -/
def execFirmwareRunning (s : State) : Host.Outcome State Fault Refusal :=
  .next (
    if s.start = stBOOT ∧ s.islandRuns 8 = true then
      { s with fab := { s.fab with up := s.fab.up ||| 1 } }.wr SYS_STATE_STATE stWAIT_SD
    else s)

/-! ## The surroundings descriptor -/

/-- Word of an SD. -/
def sdw (b : List Byte) (off : Nat) : Nat := leNat b off 4

/-- A number from `lo` to `hi`. -/
def within (lo v hi : Nat) : Bool := lo ≤ v && v ≤ hi

def sdFab (b : List Byte) (f : Nat) : Bool := bitN (sdw b 0x018) (16 + f) == 1
def sdTbl (b : List Byte) (c : Nat) : Bool := bitN (sdw b 0x0B0) c == 1
def sdMib (b : List Byte) (c : Nat) : Nat := if sdTbl b c then sdw b (0x0C8 + 16 * c) else 0

/-- Table channels 0 to 5 together hold the table (R43). -/
def sdTblShort (b : List Byte) : Bool := (List.range 6).foldl (fun n c => n + sdMib b c) 0 < 512

/-- The word charged with too small a table. -/
def sdTblWord (b : List Byte) : Nat :=
  match ((List.range 6).filter (sdTbl b)).getLast? with
  | some c => 0x0C8 + 16 * c
  | none => 0x0B0

/-- A lane's word (R41, R43). -/
def sdLaneOk (b : List Byte) (i : Nat) : Bool :=
  let v := sdw b (0x200 + 4 * i)
  bits v 5 3 == 0 && bits v 20 12 == 0 &&
  (bitN v 0 == 0 || (bits v 3 2 ≤ 1 && bits v 16 4 ≤ 8 &&
    (List.range (i % 9)).all (fun k =>
      let u := sdw b (0x200 + 4 * (9 * (i / 9) + k))
      bitN u 0 == 0 || bits u 16 4 != bits v 16 4)))

/-- Does the word at an offset pass the ranges of R41 and the rules of R43 charged to it? -/
def sdWordOk (b : List Byte) (off : Nat) : Bool :=
  let v := sdw b off
  if off = 0x000 ∨ off = 0x008 ∨ off = 0x014 then true
  else if off = 0x004 then bits v 16 16 == 0
  else if off = 0x00C then v < 4
  else if off = 0x010 then v % 64 == 0
  else if off = 0x018 then within 100 (bits v 0 16) 1600 && bitN v 16 == 1 && v < 2 ^ 25
  else if off = 0x01C then within 1 (bits v 0 8) 64 && bits v 8 2 != 3 && v < 2 ^ 10
  else if within 0x020 off 0x0AF then
    (if off % 16 ≠ 0 then v == 0
     else v < 2 ^ 24 && (!sdFab b ((off - 0x020) / 16) ||
       (within 1 (bits v 0 8) 255 && within 1 (bits v 8 8) 255 && within 1 (bits v 16 8) 255)))
  else if off = 0x0B0 then v < 2 ^ 7 && !(sdTblShort b && sdTblWord b == 0x0B0)
  else if within 0x0C0 off 0x12F then
    (let c := (off - 0x0C0) / 16
     if off % 16 = 0 then !sdTbl b c || v % 64 == 0
     else if off % 16 = 4 then true
     else if off % 16 = 8 then
       !(sdTblShort b && sdTblWord b == off) && !(c == 6 && sdTbl b 6 && (List.range 6).any (fun k => sdMib b 6 < sdMib b k))
     else v < 2 ^ 24 && (!sdTbl b c || (within 1 (bits v 8 8) 255 && within 1 (bits v 16 8) 255)))
  else if within 0x200 off 0x28F then sdLaneOk b ((off - 0x200) / 4)
  else if within 0x300 off 0x3FF then bits v 0 7 ≤ 64 && bitN v 7 == 0 && v < 2 ^ 10
  else if off = 0x400 then
    v < 2 ^ 24 && signed 8 (bits v 0 8) < signed 8 (bits v 8 8) && signed 8 (bits v 8 8) < signed 8 (bits v 16 8) &&
      signed 8 (bits v 16 8) ≤ 125
  else if off = 0x404 then
    within 20 (bits v 0 8) 30 && within 12 (bits v 8 8) 18 && within 1 (bits v 16 8) 133 && v < 2 ^ 25 && bits v 8 8 ≤ bits v 0 8
  else v == 0

/-- Word offsets below `CHECK`. -/
def sdOffsets : List Nat := (List.range 1023).map (4 * ·)

/-- Offsets a reload does not compare: the live fields (R41, R43). -/
def sdLive (off : Nat) : Bool := off == 0x008 || off == 0x00C || off == 0x010 || off == 0x014 || off == 0x400

/-- The result of R43 with `FIELD_OFF`, for bytes read with `OKAY`. -/
def State.sdCheck (s : State) (b : List Byte) (reload : Bool) : Nat × Nat :=
  if sdw b 0 ≠ 0x44534656 then (2, 0)
  else if bits (sdw b 4) 0 16 ≠ 1 then (3, 0)
  else if sdw b 0xFFC ≠ crc32c (b.take 0xFFC) then (4, 0)
  else match sdOffsets.find? (fun o => !sdWordOk b o) with
    | some o => (5, o)
    | none =>
      if reload && (match s.sys.sd with
        | some old => sdOffsets.any (fun o => !sdLive o && sdw b o != sdw old o)
        | none => false) then (6, 0)
      else if reload && sdw b 0x00C = 0 && s.ctxs.any (fun e => e.2.dirty.isSome) then (7, 0)
      else (0, 0)

/-- Grants of the SD in force raise those of these ports and channels that are present and for which no spare stands in (R46, R64, R438, R439). -/
def State.raiseOf (s : State) (m : BitVec 16) : State :=
  let f := (List.range 9).foldl (fun (f : FabSt) x => if m.getLsbD x && s.fabPresent x && s.fabPhys x == x then
      f.raisePort x (s.sdField (0x020 + 16 * x) 0 8) (s.sdField (0x020 + 16 * x) 8 8) (s.sdField (0x020 + 16 * x) 16 8) else f) s.fab
  let f := (List.range 7).foldl (fun (f : FabSt) c => if m.getLsbD (9 + c) && s.tblPresent c && !(s.is SV_INUSE_TBL && s.rd SV_INUSE_TBL_FOR == c) then
      f.raisePort (9 + c) (s.sdField (0x0CC + 16 * c) 16 8) (s.sdField (0x0CC + 16 * c) 8 8) 0 else f) f
  ({ s with fab := f } : State).pump

/-- They raise all of them. -/
def State.raisePorts (s : State) : State := s.raiseOf 0xFFFF

/-- The first SD is applied (R44, R47); with a time reference named, `PPS_HOLD` is set (R320). -/
def State.sdApply (s : State) (b : List Byte) : State :=
  let s := { s with sys := { s.sys with sd := some b, bringAt := s.tm.tick } }
  let s := ((s.wr SYS_SD_SEQ_SEQ (sdw b 8)).wr SYS_STATE_MODE (sdw b 0x00C)).wr SYS_STATE_STATE stBRINGUP
  let s := s.wr CL_CTRL_NCHAN ((List.range 6).filter s.tblPresent).length
  let s := if s.timeRef = 0 then s else ({ s with tm := { s.tm with firstEdge := true } }.raise TM_STAT_PPS_HOLD).refreshHold
  ((((s.raisePorts).startIslands 0x09F#9).bgBegin 4 0).applyLanes).storeApply

/-- A reload in `READY` changes the live fields; a new mode waits for the next latched cut (R44). -/
def State.sdReapply (s : State) (b : List Byte) : State :=
  let m := sdw b 0x00C
  let s := { s with sys := { s.sys with sd := some b, pendingMode := if m = s.rd SYS_STATE_MODE then none else some m } }
  (s.wr SYS_SD_SEQ_SEQ (sdw b 8)).hubRefresh

/-- Where the SD is read (R40). -/
def State.sdAddr (s : State) : Nat := 4096 * s.rd SYS_SD_ADDR_LO_ADDR_LO + 2 ^ 32 * s.rd SYS_SD_ADDR_HI_ADDR_HI

/-- A write of `SD_RELOAD` (R45, R47): a fetch is a unit of stream 19 (R359). -/
def State.sdReload (s : State) : State :=
  if s.is SYS_SD_STAT_BUSY || (s.start != stWAIT_SD && s.start != stREADY) then s.bump SYS_SD_CNT_IGNORED
  else
    let s := s.raise SYS_SD_STAT_BUSY
    let s := if s.start = stWAIT_SD then s.wr SYS_STATE_STATE stLOAD_SD else s
    (s.cuStream 19 true [] false).send .sdRead 0 0 (s.fabPhys 0) 1 s.sdAddr [] 4096

/-- A write of `SYS_SD_CTRL` with `SD_RELOAD` = 1. -/
def execSdReload (w : Who) (s : State) : Host.Outcome State Fault Refusal := .next (s.guardWrite w 0x000018 (·.sdReload))

/-- A failed load (R43, R47). `FIELD_OFF` is stated for `RESULT` 5 alone; with any other result it reads 0 (log entry 102). -/
def State.sdFail (s : State) (code off : Nat) : State :=
  let s := ((s.wr SYS_SD_STAT_RESULT code).wr SYS_SD_STAT_FIELD_OFF off).bump SYS_SD_CNT_REJECTS
  let s := if s.start = stLOAD_SD then s.wr SYS_STATE_STATE stWAIT_SD else s
  s.raise SYS_FAB_EVT_SD_DONE

/-- The SD read has completed (R43, R44, R47). -/
def execSdFetchResponse (s : State) : Host.Outcome State Fault Refusal :=
  .next (
    match s.response .sdRead with
    | none => s
    | some (d, s) =>
      let s := (s.wr SYS_SD_STAT_BUSY 0).cuStream 19 false (if d.resp = .okay then d.data else []) true
      let reload := decide (s.start = stREADY)
      if d.resp ≠ .okay then s.sdFail 1 0
      else
        let r := s.sdCheck d.data reload
        if r.1 ≠ 0 then s.sdFail r.1 r.2
        else
          let s := (s.wr SYS_SD_STAT_RESULT 0).wr SYS_SD_STAT_FIELD_OFF 0
          if reload then (s.sdReapply d.data).raise SYS_FAB_EVT_SD_DONE else s.sdApply d.data)

/-- Has slice `i` a present lane? -/
def State.sliceUsed (s : State) (i : Nat) : Bool := (List.range 9).any (fun l => s.lanePresent (9 * i + l))

/-- Do the core, fabric and table islands run? -/
def State.mainIslands (s : State) : Bool := s.islandRuns 5 && s.islandRuns 6 && s.islandRuns 7

/-- `BRINGUP` is complete (R47, R62). -/
def execBringupComplete (s : State) : Host.Outcome State Fault Refusal :=
  .next (
    if s.start = stBRINGUP && s.mainIslands &&
        (List.range 4).all (fun i => !s.sliceUsed i || s.islandRuns i || s.sys.sliceOut.getLsbD i) then
      let s := { s with sys := { s.sys with hbRunning := true, hbDue := s.tm.tick + 1600000 } }
      let s := (s.wr64 SYS_HB_COUNT_LO_HB_COUNT SYS_HB_COUNT_HI_HB_COUNT 0).wr SYS_STATE_STATE stREADY
      s.raise SYS_FAB_EVT_SD_DONE
    else s)

/-- 10 ms of `BRINGUP` with the core, fabric or table island not running (R47). -/
def execBringupTimeout (s : State) : Host.Outcome State Fault Refusal :=
  .next (
    if s.start = stBRINGUP && !s.mainIslands then
      let s := s.advanceTo (s.sys.bringAt + 16000000)
      let s := s.each ([5, 6, 7].filter (fun i => !s.islandRuns i)) (fun s i => s.postOpen i)
      { s with fab := s.fab.down (· != 0) }.wr SYS_STATE_STATE stFAILED
    else s)

/-- 10 ms of `BRINGUP` with slice `i` not running (R47): logged and left out of service, its port down until slice 4 carries it or the slice has
passed a test (log entry 103). -/
def execBringupSliceTimeout (i : Fin 4) (s : State) : Host.Outcome State Fault Refusal :=
  .next (
    if s.start = stBRINGUP && s.sliceUsed i && !s.islandRuns i && !s.sys.sliceOut.getLsbD i then
      let s := (s.advanceTo (s.sys.bringAt + 16000000)).postOpen i
      ({ s with sys := { s.sys with sliceOut := s.sys.sliceOut ||| (1#5 <<< i.val) } } : State).portRefresh i
    else s)

/-! ## Heartbeat -/

/-- A spare slice, lane, fabric port or table channel stands in (R62, R427). -/
def State.spareInUse (s : State) : Bool :=
  s.is SV_INUSE_SLICE4 || s.is SV_INUSE_FAB || s.is SV_INUSE_TBL || (List.range 4).any (fun p => s.spState p == pACTIVE)

/-- The 16 bytes of a heartbeat (R62). -/
def State.hbBytes (s : State) : List Byte :=
  leBytes 8 (s.rd64 SYS_HB_COUNT_LO_HB_COUNT SYS_HB_COUNT_HI_HB_COUNT) ++
  leBytes 4 (s.start + 16 * s.rd SYS_STATE_MODE + 2 ^ 8 * s.rd SYS_STATE_DEFAULTS_USED + 2 ^ 9 * b2n s.holdover + 2 ^ 10 * b2n s.spareInUse) ++
  leBytes 4 (s.rd SYS_SD_SEQ_SEQ)

/-- Where the heartbeat goes (R41). -/
def State.hbAddr (s : State) : Nat := s.sdField 0x010 0 32 + 2 ^ 32 * s.sdField 0x014 0 32

/-- Can a heartbeat be written now? On which fabric port it goes R62 does not say: it takes the port R232 gives the ring engine's requests of
that address (DESIGN CHOICE, log entry 121). -/
def State.hbCan (s : State) : Bool :=
  let x := s.fabPort s.hbAddr
  !s.sys.hbOutstanding && s.fab.issues x && s.fab.availOf (fkey x 3) != 0

/-- Write the heartbeat, or hold it back (R62). -/
def State.hbWrite1 (s : State) : State :=
  if s.hbCan then
    ({ s with sys := { s.sys with hbOutstanding := true, hbDeferred := false } } : State).hostNotify .heartbeat 0 0 s.hbAddr s.hbBytes
  else { s with sys := { s.sys with hbDeferred := true } }

/-- A heartbeat mark (R62): in `READY`, with the block not asleep (R411). -/
def execHeartbeatMark (s : State) : Host.Outcome State Fault Refusal :=
  .next (
    if s.start = stREADY && s.sys.hbRunning && s.rd PW_STAT_STATE ≤ 1 then
      let s := s.advanceTo s.sys.hbDue
      let s := { s with sys := { s.sys with hbDue := s.sys.hbDue + 1600000 } }
      (s.wr64 SYS_HB_COUNT_LO_HB_COUNT SYS_HB_COUNT_HI_HB_COUNT
        ((s.rd64 SYS_HB_COUNT_LO_HB_COUNT SYS_HB_COUNT_HI_HB_COUNT + 1) % 2 ^ 64)).hbWrite1
    else s)

/-- A held-back heartbeat goes out (R62). -/
def execHeartbeatDeferredWrite (s : State) : Host.Outcome State Fault Refusal :=
  .next (if s.sys.hbDeferred && s.hbCan then s.hbWrite1 else s)

/-- A heartbeat write has been answered (R62). -/
def execHeartbeatWriteResponse (s : State) : Host.Outcome State Fault Refusal :=
  .next (
    match s.response .heartbeat with
    | none => s
    | some (d, s) =>
      let s := { s with sys := { s.sys with hbOutstanding := false } }
      if d.resp = .okay then s else s.raise SYS_FAB_EVT_HB_FAIL)

/-- The clock of an island stops (R20): slices 0 to 4, core 5, fabric 6, table 7, management 8. -/
def execIslandClockStop (i : Fin 9) (s : State) : Host.Outcome State Fault Refusal :=
  .next ({ s with sys := { s.sys with clkStopped := s.sys.clkStopped ||| (1#9 <<< i.val) } }.refreshRun)

end Sys2Proof.Machine
end

