-- ==== Sys2Proof/Machine/Power.lean ====
section
/-! DEFINITION. The power sequencer, wake sources, port parking and the thermal action (R408 to R424, R348). -/

namespace Sys2Proof.Machine

/-- Power states as `PW_REQ` codes them (R409). -/
def pwA0 : Nat := 0
def pwP1 : Nat := 1
def pwW : Nat := 2
def pwS : Nat := 3
def pwD : Nat := 4

def State.pwState (s : State) : Nat := s.rd PW_STAT_STATE
def State.watchPort (s : State) : Nat := s.rd PW_CTRL_WATCH_PORT

/-- Dispatch is held while ports are parked or being parked (R419). -/
def State.pwParked (s : State) : Bool := s.pwState == pwP1 || s.pw.step == 21 || s.pw.step == 22

/-- Are the watch port's rules of R418 in force? -/
def State.pwWatching (s : State) : Bool := s.pwState == pwW

/-- Were they at a tick? -/
def State.pwWatchedAt (s : State) (t : Nat) : Bool := bits (s.wasAt 0x1F0004 t) PW_STAT_STATE.lo PW_STAT_STATE.w == pwW

/-- The thermal level throttles (R421). -/
def State.throttled (s : State) : Bool := s.rd NY_THERM_MAX_LEVEL ≥ 2

/-- `A1_ON` follows `A1_EN` and the state (R410). -/
def State.pwA1 (s : State) : State := s.put PW_STAT_A1_ON (s.is PW_CTRL_A1_EN && s.pwState == pwA0)

/-- The state in force changes, and the sequencer rests there. -/
def State.pwSettle (s : State) (st : Nat) : State :=
  ((({ s with pw := { s.pw with step := 0 } } : State).keep 0x1F0004 |>.wr PW_STAT_STATE st).wr PW_STAT_PHASE 0).pwA1

/-! ## Requests -/

/-- The conditions of R413. -/
def State.pwQuiet (s : State) (req : Nat) : Bool :=
  s.fb.free == cellTotal && s.led.tags.isEmpty &&
  !s.qs.any (fun e => e.2.state == qRUN || e.2.state == qSTOPPING) &&
  !s.ctxs.any (fun e => e.2.state == cRESETTING || e.2.state == cFREEZING) &&
  !s.is HR_CMD_CFG_EN && !s.is LG_STAT_PENDING && !s.is LG_STAT_WINDOW &&
  !(List.range 8).any (fun ch => s.mdState ch == 1 || s.mdState ch == 2) &&
  !s.is KW_STAT_BUSY && !s.is ST_XFER_STAT_BUSY && !s.is ST_UPD_STAT_BUSY &&
  !s.is CL_UPD_STAT_BUSY && !s.is CL_CTRL_CLEAR_BUSY &&
  (req != pwD || (List.range 32).all (fun e => !s.is (HB_WATCH_EN e) || s.rd (HB_WATCH_SOURCE e) ≤ 15))

/-- May W be entered as to its port (R412)? -/
def State.watchOk (s : State) : Bool :=
  let p := s.watchPort
  s.portOn p && !s.tMode p && (List.range 8).any (fun k => s.is (LN_CHAN_CFG_EN (8 * p + k)))

/-- The reason for which R412 refuses a request, zero for none. -/
def State.pwRefuse (s : State) (req : Nat) : Nat :=
  if s.rd PW_STAT_PHASE ≠ 0 then 1
  else if req ≥ 5 || req == s.pwState || (s.pwState == pwP1 && req != pwA0) || (req == pwW && !s.watchOk) then 2
  else if req ≥ 2 && !s.pwQuiet req then 3
  else if req == pwA0 && s.pwState == pwP1 && s.throttled then 4
  else 0

/-- Entry to P1 begins (R419). -/
def State.parkStart (s : State) : State :=
  { s with pw := { s.pw with step := 21, target := pwP1 } }.wr PW_STAT_PHASE 1

/-- `PW_REQ` is driven to a code: `PW_ACK` is awaited from now on. -/
def State.pwDrive (s : State) (code step : Nat) : State := { s with pw := { s.pw with req := code, step := step, since := s.tm.tick } }

/-- A request is carried out or refused (R412). -/
def State.pwRequest (s : State) (req : Nat) : State :=
  let r := s.pwRefuse req
  if r ≠ 0 then ((s.wr PW_STAT_REFUSE r).bump PW_CNT_REFUSED).raise PW_EVT_REFUSED
  else if req = pwA0 then (s.pwDrive 0 31).wr PW_STAT_PHASE 2
  else if req = pwP1 then s.parkStart
  else { s with pw := { s.pw with step := 2, target := req, held := false } }.wr PW_STAT_PHASE 1

/-- A write of `PW_CTRL`: its fields, then the request in `REQ`. -/
def State.pwCtrl (s : State) (v : Nat) : State := ((s.writePlain 0x1F0000 v).pwA1).pwRequest (v % 8)

/-- Register writes of the region: `EXT` and `HASP` cannot be disabled (R417). -/
def State.pwWrite (s : State) (off v : Nat) : State :=
  if off = 0x1F0000 then s.pwCtrl v
  else if off = 0x1F000C then s.wr PW_WAKE_EN_EN (v % 32 ||| 0x11)
  else s.writePlain off v

/-- A write of `PW_CTRL` with the request's code in `REQ`. -/
def State.pwReq (s : State) (w : Who) (v : Word) (code : Nat) : State :=
  s.guardWrite w 0x1F0000 (·.pwCtrl (v.toNat / 8 * 8 + code))

def execRequestA0 (w : Who) (v : Word) (s : State) : Host.Outcome State Fault Refusal := .next (s.pwReq w v pwA0)
/-- R419. -/
def execRequestP1 (w : Who) (v : Word) (s : State) : Host.Outcome State Fault Refusal := .next (s.pwReq w v pwP1)
/-- R414. -/
def execRequestW (w : Who) (v : Word) (s : State) : Host.Outcome State Fault Refusal := .next (s.pwReq w v pwW)
/-- R414. -/
def execRequestS (w : Who) (v : Word) (s : State) : Host.Outcome State Fault Refusal := .next (s.pwReq w v pwS)
/-- R414. -/
def execRequestD (w : Who) (v : Word) (s : State) : Host.Outcome State Fault Refusal := .next (s.pwReq w v pwD)

/-! ## Entry -/

/-- Ports whose lanes a state's entry idles: all but the watch port of W. -/
def State.idledPorts (s : State) (target : Nat) : List Nat :=
  (List.range 4).filter (fun p => !(target == pwW && p == s.watchPort))

/-- `LTX_IDLE` is driven on these ports' lanes, or follows R71 again. -/
def State.holdIdle (s : State) (ps : List Nat) : State :=
  let m := BitVec.ofNat 4 (ps.foldl (fun n p => n + 2 ^ p) 0)
  ({ s with pw := { s.pw with idle := m } } : State).each (List.range 4) (fun s p => s.refreshIdle p)

/-- The lane islands of these ports stop: their lanes leave `UP` (R68), and what they fed follows. -/
def State.lanesOff (s : State) (ps : List Nat) : State :=
  s.each ps (fun s p =>
    let s := s.each (List.range 9) (fun s k =>
      let i := 9 * p + k
      let s := (s.laneClk i false).setLane i { s.lane i with rxClk := false, txClk := false }
      s.laneDrop i)
    s.portRefresh p)

/-- Lanes held idle are let go: each counts its settling time anew (R68, R71). -/
def State.lanesOn (s : State) : State :=
  let ps := (List.range 4).filter (fun p => s.pw.idle.getLsbD p)
  let s := s.each ps (fun s p => s.each (List.range 9) (fun s k => s.setLane (9 * p + k) { s.lane (9 * p + k) with since := s.tm.tick }))
  ({ s with pw := { s.pw with idle := 0 } } : State).each ps (fun s p => s.portRefresh p)

/-- Steps E2 to E4 (R414): every request has answered; ports fall, lanes idle, the Nyelle core stops. -/
def execEntryRequestsDrained (s : State) : Host.Outcome State Fault Refusal :=
  .next (
    if s.pw.step = 2 && s.fab.reqs.all (fun (r : Req) => r.tag.isNone) then
      let s := { s with fab := s.fab.down (fun _ => true), pw := { s.pw with step := 5, coreStopped := true, upWas := s.fab.up } }
      s.holdIdle (s.idledPorts s.pw.target)
    else s)

/-- The lines that E2 dropped rise again, with the grants of R64: before the first SD the boot grant. -/
def State.portsBack (s : State) : State :=
  if s.sys.sd.isNone then ({ s with fab := { s.fab with up := s.fab.up ||| s.pw.upWas } } : State).pump else s.raiseOf s.pw.upWas

/-- The fabric island has no retention (R408): its performance counters are lost. -/
def State.fabricLost (s : State) : State :=
  s.each (List.range 128) (fun s k => (s.wr (PC_CNT_LO_COUNT (576 + k)) 0).wr (PC_CNT_HI_COUNT (576 + k)) 0)

/-- Core cycles to the next rising edge of `AON_CLK32K`. -/
def State.toAonEdge (s : State) : Nat := (1600000000 - s.tm.sub32 + 32767) / 32768

/-- The clocks of all islands but the slice that carries the watch port stop (R414). -/
def State.sleepClocks (s : State) (target : Nat) : State :=
  let keep := if target = pwW then s.sliceOf s.watchPort else none
  let m := (List.range 9).foldl (fun n i => if some i = keep then n else n + 2 ^ i) 0
  { s with sys := { s.sys with clkStopped := s.sys.clkStopped ||| BitVec.ofNat 9 m } }.refreshRun

/-- Steps E5 to E7 (R414, R331): at the tick edge V₀ and A₀ are latched, clocks stop and `PW_REQ` is driven. -/
def execEntryTickLatch (s : State) : Host.Outcome State Fault Refusal :=
  .next (
    if s.pw.step = 5 then
      let s := s.advance s.toAonEdge
      let s := { s with tm := { s.tm with latchV := some (s.tm.now, s.aon), edgeCyc := none, aonFrom := none, aonTicks := none }, pw := { s.pw with unset := s.is TM_STAT_UNSET } }
      let s := ((s.lanesOff (s.idledPorts s.pw.target)).sleepClocks s.pw.target).settleBeats.fabricLost
      ({ s with sys := { s.sys with pwIso := true, pwRet := true } } : State).pwDrive s.pw.target 7
    else s)

/-- An entry still at an abort point is undone (R414). -/
def State.pwAbort (s : State) (code : Nat) : State :=
  let s := if s.pw.step = 5 then (({ s with pw := { s.pw with coreStopped := false } } : State).lanesOn).portsBack else s
  (({ s with pw := { s.pw with step := 0, target := pwA0 } }.wr PW_STAT_PHASE 0).raise PW_EVT_ABORTED).wr PW_STAT_ABORT code

/-- Is an entry to W, S or D at an abort point? -/
def State.pwAbortable (s : State) : Bool := s.pw.step == 2 || s.pw.step == 5

/-- Exit begins, step X1 (R416): from D the 25 MHz part of the always-on island starts anew. -/
def State.pwExit (s : State) : State :=
  let s := if s.pw.target = pwD then s.wr64 NY_MTIME_LO_MTIME NY_MTIME_HI_MTIME 0 else s
  let s := { s with hub := { s.hub with wakeOut := true }, pw := { s.pw with held := false } }
  (s.pwDrive 0 12).wr PW_STAT_PHASE 2

/-- A request's `PW_ACK` rises: W, S or D is reached (E8, E9), or P1, or A0 from P1 (R414, R419, R420). -/
def State.pwEntered (s : State) (st : Nat) : State :=
  let s := (s.pwSettle st).raise PW_EVT_ENTERED
  if s.pw.held then s.pwExit else s

/-- Ports leave P1 (R420). -/
def State.unpark (s : State) : State :=
  let s := { s with sys := { s.sys with clkStopped := s.sys.clkStopped &&& 0x1E0#9 }, pw := { s.pw with target := pwA0 } }.refreshRun.islandsSettle
  let s := s.each (List.range 32) (fun s c =>
    let s := ((s.wr (MC_FC_STAT_PAUSED c) 0).wr (MC_FC_STAT_HOLDOFF c) 0).wr (MC_FC_STAT_XOFF_SENT c) 0
    s.setCh c { s.ch c with pauseEnd := [], pauseFrom := [], holdEnd := [] })
  let park := s.pw.park
  let s := (((s.lanesOn).put PW_STAT_THERM_PARK park).pwSettle pwA0).raise PW_EVT_EXITED
  if park then { s with pw := { s.pw with park := false } }.parkStart else s

/-- `PW_ACK` rises. -/
def execPwAckRise (s : State) : Host.Outcome State Fault Refusal :=
  .next (
    if s.pw.step = 7 then s.pwEntered s.pw.target
    else if s.pw.step = 22 then (s.pwSettle pwP1).raise PW_EVT_ENTERED
    else if s.pw.step = 31 then s.unpark
    else s)

/-- `PW_ACK` has not risen within `PW_ACK_US` of an entry (R415, R419). -/
def execPwAckTimeout (s : State) : Host.Outcome State Fault Refusal :=
  .next (
    if s.pw.step = 7 ∨ s.pw.step = 22 then
      let s := s.advanceTo (s.pw.since + usTicks (s.rd PW_ACK_US_ACK_US))
      let s := (s.bump PW_CNT_ACK_TMO).raise PW_EVT_ACK_TMO
      (s.pwDrive 0 (if s.pw.step = 7 then 13 else 31)).wr PW_STAT_PHASE 2
    else s)

/-! ## Wake sources -/

/-- Power states in which each wake source acts (R417). -/
def wakeActs (b st : Nat) : Bool := if b = 2 then st == pwW else st == pwW || st == pwS || st == pwD

/-- Is source `b` enabled? -/
def State.wakeEnabled (s : State) (b : Nat) : Bool := s.bit PW_WAKE_EN_EN b || b == 0 || b == 4

/-- The condition of source `b` is met (R417). -/
def State.wakeNow (s : State) (b : Nat) : State :=
  if !s.wakeEnabled b then s
  else if s.pwAbortable then (if wakeActs b s.pw.target then s.pwAbort 1 else s)
  else if s.pw.step = 7 && wakeActs b s.pw.target then
    { (s.setBit PW_WAKE_SRC_SRC b).raise PW_EVT_WAKE with pw := { s.pw with held := true } }
  else if s.pw.step = 0 && s.pwState ≥ pwW && wakeActs b s.pwState then
    ((s.setBit PW_WAKE_SRC_SRC b).raise PW_EVT_WAKE).pwExit
  else if (s.pw.step = 12 || s.pw.step = 13 || s.pw.step = 14) && s.pw.target ≥ pwW then s.setBit PW_WAKE_SRC_SRC b
  else s

/-- The condition of a wake source other than the timer, as the block sees it. -/
def State.wakeCond (s : State) (b : Nat) : Bool :=
  if b = 1 then s.is HB_WAKE_STAT_VALID && s.hub.wakeOut
  else if b = 2 then s.is MC_WAKE_STAT_VALID
  else if b = 3 then s.aon == s.rd64 PW_TIMER_LO_COUNT PW_TIMER_HI_COUNT % 2 ^ 48
  else if b = 4 then s.kw.haspPin
  else true

/-- A wake source acts (R417). `EXT` is a fall of `PW_RET`, which this command brings where it stands high. -/
def execWakeSource (b : Fin 5) (s : State) : Host.Outcome State Fault Refusal :=
  .next (
    if b.val = 0 ∧ s.sys.pwRet = false then s
    else
      let s := if b.val = 0 then { s with sys := { s.sys with pwRet := false } } else s
      if s.wakeCond b then s.wakeNow b else s)

/-- The always-on count reaches `PW_TIMER` (R417). -/
def execWakeTimer (s : State) : Host.Outcome State Fault Refusal :=
  .next (
    let t := s.rd64 PW_TIMER_LO_COUNT PW_TIMER_HI_COUNT % 2 ^ 48
    if s.aon ≤ t && s.sys.aonRstN then
      let n := t - s.aon
      let s := if n = 0 then s else s.advance ((n * 1600000000 - s.tm.sub32 + 32767) / 32768)
      s.wakeNow 3
    else s)

/-- Does the origin of source `n` stay powered in the present state (R417)? -/
def State.wakePowered (s : State) (n : Nat) : Bool := n ≤ 15 || (s.pwState == pwW && n == 324 + s.watchPort)

/-- Watch entry `e` acts (R348): its source pends for a sleeping target, or with the management island stopped its origin asserts
its level. With the management island stopped it is a wake source of the sequencer, and acts only where enabled (R417). -/
def execWatchWake (e : Fin 32) (s : State) : Host.Outcome State Fault Refusal :=
  .next (
    let n := s.rd (HB_WATCH_SOURCE e)
    let hit := if s.islandUp 8 then (s.src n).pending && s.asleep (s.effective n)
      else s.sys.aonRstN && s.wakePowered n && isLevel n && s.originLevel n
    if s.is (HB_WATCH_EN e) && hit then
      let s := if s.is HB_WAKE_STAT_VALID then s else (s.wr HB_WAKE_STAT_ENTRY e).raise HB_WAKE_STAT_VALID
      let s := { s with hub := { s.hub with wakeOut := s.hub.wakeOut || s.islandUp 8 || s.wakeEnabled 1, wakeDue := s.hub.wakeDue || !s.islandUp 8 } }
      let s := if s.islandUp 8 then s.raise HB_EVT_WAKE else s
      s.wakeNow 1
    else s)

/-! ## Exit -/

/-- What the management island does when it runs again: `HB_EVT.WAKE` that was due, the levels of the hub's sources, and the hasp as its pin
now stands (R348, R405, R417). -/
def State.mgmtWakes (s : State) : State :=
  let s := s.hubWakes
  if s.kw.haspPin && !s.is KW_HASP_REQ then s.haspRise
  else if !s.kw.haspPin && s.is KW_HASP_REQ then ((s.wr KW_HASP_REQ 0).wr KW_HASP_GNT 0).raise KW_EVT_HASP_CLOSED
  else s

/-- Log records lost in D with `D_KEEP_LOG` 0 (R416, R422). -/
def State.logDark (s : State) (n : Nat) : State :=
  let s := { s with ny := { s.ny with slots := [] } }
  ((s.bump NY_LOG_LOST_LOST n).wr NY_LOG_HEAD_COUNT 0).wr NY_LOG_PERSIST_NEXT (s.rd NY_LOG_SEQ_SEQ)

/-- How many records D would lose: those not persisted. -/
def State.logAtRisk (s : State) : Nat :=
  if s.is NY_LOG_PCFG_EN then min (s.rd NY_LOG_HEAD_COUNT) (s.logDepth) else s.rd NY_LOG_HEAD_COUNT

/-- Step X3 from D (R416): a release of `BLK_RST_N` for all but the `AL` domain. -/
def State.exitD (s : State) (b : Boot) : State :=
  let lost := s.logAtRisk
  let keep := s.is PW_CTRL_D_KEEP_LOG
  let unset := s.pw.unset
  let v := (s.tm.latchV.getD (0, 0)).1
  let s := ({ s.blkReset with pw := { s.pw with upWas := 0 } } : State).release b
  let s := { s with tm := { s.tm with now := v, secDone := secOf v }, led := { s.led with nextCut := none } }
  let s := (s.put TM_STAT_UNSET unset).refreshHold
  if keep then s else s.logDark lost

/-- Step X3 (R416): supplies are back. -/
def execExitPowerRestored (b : Boot) (s : State) : Host.Outcome State Fault Refusal :=
  .next (
    if s.pw.step = 12 ∨ s.pw.step = 13 then
      let s := { s with sys := { s.sys with pwIso := false, pwRet := false, pwGood := true }, hub := { s.hub with wakeOut := false } }
      let s := if s.pw.target = pwD then s.exitD b
        else ({ s with sys := { s.sys with clkStopped := 0 } }.refreshRun.islandsSettle).mgmtWakes
      { s with pw := { s.pw with step := 14 } }
    else s)

/-- The counter's advance over a sleep (R331): V₁ is loaded at the next realignment boundary. -/
def State.sleepAdvance (s : State) : State :=
  match s.tm.latchV with
  | none => s
  | some (v0, a0) =>
    let s := s.advance s.toAonEdge
    let d := ((s.aon + 2 ^ 48 - a0) % 2 ^ 48) * s.rd TM_AON_PERIOD_PERIOD
    let step : TmStep := ⟨.sleep, ((v0 + d * 2 ^ 16 : Nat) : Int), s.tm.cyc⟩
    ({ s with tm := { s.tm with step := some step } } : State).raise TM_STAT_BUSY

/-- The heartbeat resumes at the next mark (R416). -/
def State.hbResume (s : State) : State :=
  if s.tm.tick < s.sys.hbDue then s
  else { s with sys := { s.sys with hbDue := s.sys.hbDue + ((s.tm.tick - s.sys.hbDue) / 1600000 + 1) * 1600000 } }

/-- Do the islands that step X4 waits for run: the core, the fabric, and as far as they have been started the table island and the slices to be
used (R371, R416)? -/
def State.exitReady (s : State) : Bool :=
  [5, 6, 7].all (fun i => !s.sys.started.getLsbD i || s.islandRuns i) &&
  (List.range 4).all (fun i => !s.sliceUsed i || !s.sys.started.getLsbD i || s.sys.sliceOut.getLsbD i || s.islandRuns i)

/-- Steps X4 to X7 (R416): the monitors show no flag. -/
def execExitClocksOk (s : State) : Host.Outcome State Fault Refusal :=
  .next (
    if s.pw.step = 14 && s.exitReady then
      let s := s.sleepAdvance.portsBack
      let s := { s with tbl := { s.tbl with cache := [] }, pw := { s.pw with coreStopped := false, target := pwA0 } }
      let s := (((s.lanesOn).pwSettle pwA0).raise PW_EVT_EXITED).hbResume
      if s.pw.park then { s with pw := { s.pw with park := false } }.parkStart else s
    else s)

/-! ## Parking -/

/-- Everything on the lines has ended (R419): slices and lanes stop, and `PW_REQ` is driven. -/
def execP1EntryDrained (s : State) : Host.Outcome State Fault Refusal :=
  .next (
    if s.pw.step = 21 && s.chs.all (fun e => e.2.line == .idle) &&
        s.rxs.all (fun e => e.2.stage != .slice && e.2.stage != .released) then
      let s := (s.holdIdle (List.range 4)).lanesOff (List.range 4)
      let s := { s with sys := { s.sys with clkStopped := s.sys.clkStopped ||| 0x1F#9 } }.refreshRun
      s.pwDrive pwP1 22
    else s)

/-- The thermal level acts (R421). A park asked for at an abort point aborts the request; the code it records in `ABORT` is open. -/
def State.thermAct (s : State) (was : Nat) : State :=
  let l := s.rd NY_THERM_MAX_LEVEL
  let s := if was < 2 && 2 ≤ l then s.raise PW_EVT_THROTTLE else s
  if l < 3 || s.is PW_STAT_THERM_PARK then s
  else
    let s := (s.raise PW_STAT_THERM_PARK).raise PW_EVT_PARKED
    if s.pwAbortable then (let d := s.draw; (d.2.pwAbort (d.1.toNat % 4)).parkStart)
    else if s.pw.step = 0 && s.pwState = pwA0 then s.parkStart
    else if s.pw.step = 0 || s.pw.step = 21 || s.pw.step = 22 then s
    else { s with pw := { s.pw with park := true } }

/-- New readings of the 24 sensors (R368, R369, R421): the sensors run in A0, A1 and P1. -/
def execThermalUpdate (r : List (BitVec 12)) (s : State) : Host.Outcome State Fault Refusal :=
  .next (
    if s.islandUp 8 && s.pwState ≤ pwP1 then (s.thermRead r).thermAct (s.rd NY_THERM_MAX_LEVEL) else s)

end Sys2Proof.Machine
end

