-- ==== Sys2Proof/Machine/Hinge.lean ====
section
/-! DEFINITION. The hinge (R119 to R125), the per-second latch (R129, R130, R372) and the overhead ports (R131, R132). -/

namespace Sys2Proof.Machine

/-! ## The hinge -/

/-- Does the hinge lack room for `n` cells (R122, R204)? -/
def State.hingeFull (s : State) (n : Nat) : Bool := s.rd GP_HOLD_CELLS < s.fb.hinge + n || s.fb.free < n

/-- The pair whose waiting copy is the oldest of all. -/
def State.oldestPair (s : State) : Option Nat :=
  let ages := (List.range 8).filterMap (fun k => ((s.pair k).copies.map (·.tick)).min?.map (fun t => (t, k)))
  match ages with
  | [] => none
  | e :: r => some (r.foldl (fun a b => if b.1 < a.1 then b else a) e).2

/-- Early decisions of the oldest waiting positions until `n` cells fit or nothing waits (R124, R204). -/
def hingeEase (n : Nat) : Nat → State → State
  | 0, s => s
  | i + 1, s =>
    if !s.hingeFull n then s
    else match s.oldestPair with
      | none => s
      | some k => match s.lowestPos k with
        | none => s
        | some pos => hingeEase n i ((s.decidePos k pos true).bump (GP_HG_FULL_HOLD_FULL k))

/-- A copy waits in the hinge, holding cells (R122, R124, R204). -/
def State.holdCopy (s : State) (k : Nat) (e : Copy) (f : RxFr) : State :=
  let n := cellsOf f.len
  let s := hingeEase n ((List.range 8).foldl (fun a i => a + (s.pair i).copies.length) 0) s
  let full := s.hingeFull n
  let s := if full then s.setRx e.frame { f with stage := .hinge, cells := 0 } else (s.fbTakeHinge n).setRx e.frame { f with stage := .hinge, cells := n }
  let s := s.setPair k { s.pair k with copies := (s.pair k).copies ++ [e] }
  if full && !s.belowNext k e.pos then (s.decidePos k e.pos true).bump (GP_HG_FULL_HOLD_FULL k) else s.hingeRun k

/-- A copy arrives (R124, R125). -/
def State.hingeArrive (s : State) (k id : Nat) (f : RxFr) (prot : Bool) : State :=
  let s := s.hingeRun k
  let e : Copy := ⟨f.pos, prot, id, s.tm.tick⟩
  let x := s.pair k
  if s.belowNext k f.pos then (s.delRx id).bump (GP_HG_DUP_COUNT k)
  else if !s.is (GP_PAIR_STAT_ALIGNED k) then
    (if prot == s.is (GP_PAIR_STAT_SEL k) then s.passUnaligned k e
     else ((s.delRx id).bump (GP_HG_DUP_COUNT k)).setPair k (if x.switched then x else { x with stby := some f.pos }))
  else s.holdCopy k e f

/-- The oldest released frame of a channel. -/
def State.releasedOf (s : State) (c : Nat) : Option (Nat × RxFr) := s.rxs.find? (fun e => e.2.chan == c && e.2.stage == .released)

/-- The copy a paired channel releases reaches the hinge (R122 to R125). -/
def execHingeCopyArrival (c : Fin 32) (s : State) : Host.Outcome State Fault Refusal :=
  .next (
    match s.pairOfChan c, s.releasedOf c with
    | some (k, prot), some (id, f) => if s.coreUp then s.hingeArrive k id f prot else s
    | _, _ => s)

/-- Ticks of a time in nanoseconds, rounded up. -/
def nsTicks (ns : Nat) : Nat := (8 * ns + 4) / 5

/-- `WAIT_NS` has elapsed since the lowest waiting copy of pair `k` arrived (R124). -/
def execHingeWaitExpiry (k : Fin 8) (s : State) : Host.Outcome State Fault Refusal :=
  .next (
    if !s.coreUp then s
    else
    let s := s.hingeRun k
    match s.lowestPos k with
    | none => s
    | some pos =>
      let t := ((s.pair k).at pos).foldl (fun m e => max m e.tick) 0
      ((s.advanceTo (t + nsTicks (s.rd (GP_PAIR_TIME_WAIT_NS k)))).decidePos k pos true).hingeRun k)

/-! ## Seconds -/

/-- A working position's second is latched (R129). -/
def State.secPos (s : State) (j : Nat) : State :=
  let x := s.fr j
  let lost := x.lost || s.rd (TF_FR_STAT_STATE j) != fSYNC
  let rate := ((s.feeder (j / 8) (j % 8)).map s.laneRate).getD 0
  let es := x.bip != 0 || x.hcrc != 0 || lost
  let ses := lost || x.errFr ≥ (if rate = 1 then 972748 else 486374)
  let s := (((s.wr (GP_SEC_BIP_BIP j) (min x.bip (2 ^ 32 - 1))).wr (GP_SEC_HCRC_HCRC j) (min x.hcrc (2 ^ 32 - 1))).wr
    (GP_SEC_FLAGS_ERR_FR j) (min x.errFr (2 ^ 22 - 1)))
  let s := (s.put (GP_SEC_FLAGS_ES j) es).put (GP_SEC_FLAGS_SES j) ses
  s.setFr j { x with bip := 0, hcrc := 0, errFr := 0, lost := s.rd (TF_FR_STAT_STATE j) != fSYNC }

/-- Degraded signal of a group over the second just latched (R130). -/
def State.secGroup (s : State) (g : Nat) : State :=
  let sum := (s.members g).foldl (fun n j => n + s.rd (GP_SEC_BIP_BIP j)) 0
  let s := s.wr (GP_SEC_GRP_BIP_SUM g) (min sum (2 ^ 32 - 1))
  let x := s.grp g
  let up := s.gState g == gUP
  let n := max 1 (s.rd (GP_SD_CFG_SD_N g))
  let judged := x.upAll && up && s.is (GP_SD_CFG_SD_EN g)
  let set := if judged && sum ≥ s.rd (GP_SD_SET_SD_SET g) then x.setRun + 1 else 0
  let clr := if judged && sum < s.rd (GP_SD_CLR_SD_CLR g) then x.clrRun + 1 else 0
  let s := s.setGrp g { x with upAll := up, setRun := set, clrRun := clr }
  if !s.is (GP_SD_CFG_SD_EN g) then s.wr (GP_GRP_STAT_SD g) 0
  else if set ≥ n then s.raise (GP_GRP_STAT_SD g)
  else if clr ≥ n then s.wr (GP_GRP_STAT_SD g) 0
  else s

/-- A write of `GP_SD_CFG[g]`: with `SD_EN` 0, `SD` is 0 (R130). -/
def State.sdCfg (s : State) (g v : Nat) : State :=
  let s := s.writePlain (0x0411C0 + 4 * g) v
  if s.is (GP_SD_CFG_SD_EN g) then s else (s.wr (GP_GRP_STAT_SD g) 0).pairsEval

/-- Everything a second boundary latches (R129, R130, R372). -/
def State.secLatch (s : State) : State :=
  let s := s.each (List.range 32) (fun s j => s.secPos j)
  let s := (s.each (List.range 16) (fun s g => s.secGroup g)).pairsEval
  (if s.islandUp 8 then s.eyeLatch else s).raise GP_EVT_SEC

/-- A second boundary of the time unit (R129): one already passed and not yet latched, or else the next. -/
def execSecondBoundary (s : State) : Host.Outcome State Fault Refusal :=
  .next (
    if !s.coreUp then s
    else
      let s := if secOf s.tm.now = s.tm.secDone then s.advance (s.cyclesTo ((secOf s.tm.now + 1) * secUnits)) else s
      let s := if s.timeRef = 0 then s.aonMark else s
      ({ s with tm := { s.tm with secDone := secOf s.tm.now } } : State).secLatch)

/-! ## Overhead ports -/

def State.oh (s : State) (k : Nat) : OhSt := mapGet (fun _ => {}) s.ohs k
def State.setOh (s : State) (k : Nat) (x : OhSt) : State := { s with ohs := mapSet (fun _ => {}) s.ohs k x }

/-- The levels of `OH_TX_DAT` and `OH_TX_FRM` at each clock pulse of a word: bit 0 first, and marked (R131). -/
def ohPulses (v : Nat) : List (Bool × Bool) := (List.range 32).map (fun i => (v.testBit i, i == 0))

/-- Ticks that one of the 32 pulses of a word takes: `DIV` cycles of 800 MHz, 7 at least (R131). -/
def State.ohPeriod (s : State) (k : Nat) : Nat := 2 * max 7 (s.rd (GP_OH_TX_DIV k))

/-- Output `k` sends the oldest word of its FIFO once the word before it has gone (R131), a unit of stream 31 + `k` (R359). -/
def execOhTxWord (k : Fin 8) (s : State) : Host.Outcome State Fault Refusal :=
  .next (
    if !s.islandUp 8 then s
    else match (s.oh k).tx with
    | [] => s
    | v :: r =>
      let s := (s.advanceTo (s.oh k).busy).cuStream (31 + k) true (leBytes 4 v) true
      s.setOh k { s.oh k with tx := r, sent := ohPulses v, busy := s.tm.tick + 32 * s.ohPeriod k })

/-- Input `k` has received a word, or a new frame mark before its 32 bits (R132); a whole word is a unit of stream 23 + `k` (R359). -/
def execOhRxWord (k : Fin 8) (whole : Bool) (v : Word) (s : State) : Host.Outcome State Fault Refusal :=
  .next (
    if !s.is (GP_OH_RX_EN k) then s
    else if !whole then s.bump (GP_OH_CNT_RX_BAD k)
    else
      let s := s.cuStream (23 + k) true (leBytes 4 v.toNat) true
      let lower := (List.range k.val).any (fun i => s.is (GP_OH_RX_EN i) && s.rd (GP_OH_RX_POS i) == s.rd (GP_OH_RX_POS k))
      if lower || (s.oh k).rx.length ≥ 4 then s.bump (GP_OH_CNT2_RX_OVER k)
      else s.setOh k { s.oh k with rx := (s.oh k).rx ++ [v.toNat] })

end Sys2Proof.Machine
end

