-- ==== Sys2Proof/Machine/Pins.lean ====
section
/-! DEFINITION. The levels the block drives at its pins (R61), what the isolation cells hold them at in reset and unpowered (R63), and
how a word leaves an overhead port (R131). Pins the state holds itself are `LTX_DATA` (`LaneSt.ltx`), `LTX_IDLE` (`TX_IDLE`), `PW_REQ`
(`PwSt.req`) and the fabric and table beats (`FabSt.hdrs`). -/

namespace Sys2Proof.Machine

/-- The isolation cells hold the outputs (R63): in reset, or unpowered outside what the sequencer itself isolates. -/
def State.clamped (s : State) : Bool := !s.sys.aonRstN || !s.sys.blkRstN || !s.sys.pwGood || s.isolated

/-- The outputs of a domain that the sequencer has switched off or retained are clamped too (R411). -/
def State.held63 (s : State) : Bool := s.clamped || s.sys.pwIso

/-- `HB_IRQ[t]` (R63, R341). -/
def State.pinHbIrq (s : State) (t : Fin 64) : Bool := s.line t && !s.held63

/-- `HASP_GNT` (R63, R405). -/
def State.pinHaspGnt (s : State) : Bool := s.is KW_HASP_GNT && !s.held63

/-- `WAKE_OUT` (R63, R348, R417): a brown-out raises it though the rest of the block is in reset (R423). -/
def State.pinWakeOut (s : State) : Bool := s.hub.wakeOut && (!s.clamped || s.sys.bor)

/-- `FAB_UP` and `TBL_UP` (R63, R64, R411). -/
def State.pinUp (s : State) : BitVec 16 := if s.held63 then 0 else s.fab.up

/-- `LTX_IDLE` (R63, R71). -/
def State.pinLtxIdle (s : State) (i : Fin 36) : Bool := s.clamped || !s.lanePresent i || s.is (LN_LANE_STAT_TX_IDLE i)

/-- What a store command drives, bit by bit, and then the clocks in which the flash answers (`none`): the most significant bit goes first (log
entry 139). -/
def spiClocks (drive : List Byte) (answer : Nat) : List (Option Bool) :=
  drive.flatMap (fun b => (List.range 8).map (fun i => some (b.getLsbD (7 - i)))) ++ List.replicate answer none

/-- The read of `n` bytes (R385, R386): single-bit with opcode 0x03, or quad-output with 0x6B or 0x6C behind eight dummy clocks. -/
def State.spiRead (s : State) (addr n : Nat) : List (Option Bool) :=
  let four := s.is ST_CFG_ADDR4
  let a := beBytes (if four then 4 else 3) addr
  if s.is ST_CFG_QUAD then spiClocks ((if four then 0x6C else 0x6B) :: a ++ [0]) (2 * n) else spiClocks (0x03 :: a) (8 * n)

/-- The commands of a transfer (R386): a program follows a write-enable, status is polled, and what was written is read back. -/
def State.spiFrames (s : State) (x : StXfer) : List (List (Option Bool)) :=
  let four := s.is ST_CFG_ADDR4
  let a := beBytes (if four then 4 else 3) x.addr
  if x.op = 1 then [s.spiRead x.addr x.len]
  else if x.op = 2 then
    [spiClocks [0x06] 0, spiClocks ((if four then 0x12 else 0x02) :: a ++ s.sramRead x.off x.len) 0, spiClocks [0x05] 8, s.spiRead x.addr x.len]
  else if x.op = 3 then
    [spiClocks (BitVec.ofNat 8 (s.rd ST_CFG_ERASE_OP) :: a) 0, spiClocks [0x05] 8, s.spiRead (x.addr / s.sectorSize * s.sectorSize) s.sectorSize]
  else [spiClocks [0x05] 8]

/-- The clock of a list of frames in which the port stands, `ST_CS_N` high for one clock between two: none there and behind the last. -/
def spiAt : List (List (Option Bool)) → Nat → Option (Option Bool)
  | [], _ => none
  | f :: l, n => if n < f.length then f[n]? else if n = f.length then none else spiAt l (n - f.length - 1)

/-- `ST_CS_N`, `ST_SCK` and the level at which `ST_IO[0]` is driven, if it is (R63, R385): SPI mode 0, in which `ST_IO` changes as `ST_SCK`
falls and `ST_SCK` is high in the second half of a clock. -/
def State.pinStore (s : State) : Bool × Bool × Option Bool :=
  match (if s.held63 then none else s.kw.xfer) with
  | none => (true, false, none)
  | some x =>
    let half := max 1 (s.rd ST_CFG_DIV)
    let t := s.mgNow - x.start
    match spiAt (s.spiFrames x) (t / (2 * half)) with
    | some io => (false, decide (half ≤ t % (2 * half)), io)
    | none => (true, false, none)

/-- `OH_TX_CLK`, `OH_TX_DAT` and `OH_TX_FRM` of port `k` (R131): data changes where the clock falls, in the first half of a pulse the
clock is low, and at rest the levels are 1, 1 and 0. -/
def State.pinOh (s : State) (k : Fin 8) : Bool × Bool × Bool :=
  if s.held63 then (true, true, true)
  else
    let n := s.ohPeriod k
    let t := s.tm.tick - ((s.oh k).busy - 32 * n)
    match (s.oh k).sent[t / n]? with
    | some (d, f) => (decide (n ≤ 2 * (t % n)), d, f)
    | none => (true, true, false)

end Sys2Proof.Machine
end

