-- ==== Sys2Proof/Machine/Gates.lean ====
section
/-! DEFINITION. Time gates, pacing, and which classes of a channel are ready (R215 to R217, R219 to R221). -/

namespace Sys2Proof.Machine

/-- Rate of channel `c` in units of 10 Mb/s: the E-mode rate of R72 or the equivalent rate of R109. -/
def State.chanRate (s : State) (c : Nat) : Nat :=
  if s.tMode (c / 8) then ((s.boundGroup c).map s.equivRate).getD 0
  else 10000 * 2 ^ (s.rd (LN_CHAN_CFG_SPEED c) - 1)

/-! ## Time gates (R219 to R221) -/

/-- Entry `e` of list `l` of channel `c`: gates and duration in counter units. -/
def State.gateEntry (s : State) (c l e : Nat) : Nat × Nat :=
  let v := s.rd (TG_ENTRY c l e)
  (v % 256, max 1 (v / 256) * 2 ^ 32)

/-- A gate list as it runs: list number, base, cycle and entries used, in counter units. -/
structure GateList where
  list : Nat
  base : Int
  cycle : Nat
  len : Nat
  deriving DecidableEq, Repr

/-- The list in force, none while gates are not in use. -/
def State.gateNow (s : State) (c : Nat) : Option GateList :=
  if s.is (TG_CTRL_EN c) then some ⟨s.rd (TG_CTRL_ACTIVE c), (s.ch c).gBase, (s.ch c).gCycle, (s.ch c).gLen⟩ else none

/-- The entry in force `pos` into the cycle: its gates, and how long it still holds. -/
def State.gateAt (s : State) (c : Nat) (g : GateList) (pos : Nat) : Nat → Nat → Nat → Nat × Nat
  | 0, _, _ => (255, g.cycle - pos)
  | n + 1, e, start =>
    let x := s.gateEntry c g.list e
    if n = 0 then (x.1, g.cycle - pos)
    else if pos < start + x.2 then (x.1, min (start + x.2) g.cycle - pos)
    else s.gateAt c g pos n (e + 1) (start + x.2)

/-- How long class `k` stays open from time `t`, up to a bound on entries looked at: a run that ends covers each entry of the list at most
twice. -/
def State.openRun (s : State) (c : Nat) (g : GateList) (k : Nat) : Nat → Int → Nat
  | 0, _ => 0
  | n + 1, t =>
    let pos := ((t - g.base) % (g.cycle : Int)).toNat
    let x := s.gateAt c g pos g.len 0 0
    if bitN x.1 k = 0 ∨ x.2 = 0 then 0 else x.2 + s.openRun c g k n (t + x.2)

/-- The offsets at which the entries of a list start that run within its cycle (R219). -/
def State.gateStarts (s : State) (c : Nat) (g : GateList) : List (Nat × Nat) :=
  ((List.range g.len).map (fun e => (e, (List.range e).foldl (fun n i => n + (s.gateEntry c g.list i).2) 0))).filter (fun e => e.2 < g.cycle)

/-- Is the class open throughout the cycle, in every entry that runs in it? -/
def State.alwaysOpen (s : State) (c : Nat) (g : GateList) (k : Nat) : Bool :=
  (s.gateStarts c g).all (fun e => bitN (s.gateEntry c g.list e.1).1 k == 1)

/-- Where a free choice of R219's silence enters: gates in use with no list ever taken over. -/
def GateList.empty (g : GateList) : Bool := g.cycle == 0 || g.len == 0

/-- Does class `k` stay open for `need` from time `t` under one list? -/
def State.staysOpen (s : State) (c : Nat) (g : GateList) (k need : Nat) (t : Int) : Bool :=
  if g.empty then (Config.freeValue s.free).getLsbD k
  else s.alwaysOpen c g k || need ≤ s.openRun c g k (2 * g.len + 4) t

/-- Line time of a frame at pacing rate `p` Mb/s in counter units (R215). -/
def lineUnits (len p : Nat) : Nat := if p = 0 then 0 else ((len + 20) * 8000 * 2 ^ 32 + p - 1) / p

/-- The time the gates of channel `c` go by: the follower's, moved into the plane of transmit stamps (R329). -/
def State.gateTime (s : State) (c : Nat) : Int := (s.tm.now : Int) + signed 32 (s.ch c).txCorr * 2 ^ 16

/-- Is class `k`'s gate open for `need` from now, the take-over that waits included (R215, R220)? -/
def State.gateOpen (s : State) (c k need : Nat) : Bool :=
  match s.gateNow c with
  | none => true
  | some g =>
    let t := s.gateTime c
    match (s.ch c).take with
    | some w =>
      if (w.inst : Int) < t + need then
        s.staysOpen c g k (w.inst - t).toNat t && s.staysOpen c ⟨w.list, w.base, w.cycle, w.len⟩ k (t + need - w.inst).toNat w.inst
      else s.staysOpen c g k need t
    | none => s.staysOpen c g k need t

/-- The longest open run of class `k` in a cycle, across its end too (R221); none where it is always open. -/
def State.longestOpen (s : State) (c : Nat) (g : GateList) (k : Nat) : Option Nat :=
  if g.empty || s.alwaysOpen c g k then none
  else
    some ((s.gateStarts c g).foldl (fun m e => max m (s.openRun c g k (2 * g.len + 4) (g.base + e.2))) 0)

/-! ## Pacing and readiness (R215, R217) -/

/-- The pacing rate of channel `c` in Mb/s (R217, R421). -/
def State.paceRate (s : State) (c : Nat) : Nat :=
  let e := s.chanRate c * 10
  let p := (s.ch c).paceLive
  let r := if p = 0 then e else min p e
  if s.throttled then min r (e * max 1 (min 100 (s.rd PW_CTRL_THR_PCT)) / 100) else r

/-- Ticks that a frame's line time takes, rounded up. -/
def paceTicks (len p : Nat) : Nat := if p = 0 then 0 else ((len + 20) * 8 * 1600 + p - 1) / p

/-- The head of class `k` where it is wholly in staging. -/
def State.stagedHead (s : State) (c k : Nat) : Option (Nat × TxFr) :=
  match (s.stagedOf c k).head? with
  | some id => (match s.txf id with
    | some f => if f.stage == .staged then some (id, f) else none
    | none => none)
  | none => none

/-- Is class `k` ready (R215)? -/
def State.ready (s : State) (c k : Nat) : Bool :=
  match s.stagedHead c k with
  | some (_, f) => !s.bit (MC_FC_STAT_PAUSED c) k && s.gateOpen c k (lineUnits f.len (s.paceRate c))
  | none => false

/-- A frame that can never meet its gate is dropped at the head of its class, and the core island hears of it (R31, R221); `n` bounds the drops. -/
def dropOverrun (c k : Nat) : Nat → State → State
  | 0, s => s
  | n + 1, s =>
    match s.gateNow c, s.stagedHead c k with
    | some g, some (id, f) =>
      (match s.longestOpen c g k with
        | some m =>
          if m < lineUnits f.len (s.paceRate c) then
            let s := (s.setStaged c k ((s.stagedOf c k).drop 1)).txDrop id 7 sSTATE
            dropOverrun c k n (((s.refreshStaged c).bump (TG_OVERRUN_COUNT c)).setBit TG_EVT_OVERRUN (c / 8))
          else s
        | none => s)
    | _, _ => s

/-- The unserved timers of channel `c` (R216): one runs while its class is ready. -/
def State.unservedRefresh (s : State) (c : Nat) : State :=
  let x := s.ch c
  s.setCh c { x with unserved := (List.range 8).foldl (fun m k =>
    if !s.ready c k then mapErase k m else if (optGet m k).isSome then m else optSet m k s.tm.tick) x.unserved }

/-- Every class head of channel `c` is checked (R221), and its timers follow (R216). The copies of a protected pair go where R120 places
them: no class level stands above them (R214). -/
def State.overruns (s : State) (c : Nat) : State :=
  if (s.pairOfChan c).isSome || s.protChan c then s
  else (s.each (List.range 8) (fun s k => dropOverrun c k (s.stagedOf c k).length s)).unservedRefresh c

end Sys2Proof.Machine
end

