-- ==== Sys2Proof/Machine/Parse.lean ====
section
/-! DEFINITION. Reading a frame's headers (R147, R164 to R166), its checksums (R147, R148, R150) and the hash of a key (R167). A frame
is a list of bytes from its destination address to its FCS. -/

namespace Sys2Proof.Machine

/-- The end of the bytes before the FCS, and the parsing limit of 256 bytes (R147). -/
def preFcs (f : List Byte) : Nat := f.length - 4
def parseMax : Nat := 256

/-- A VLAN tag as recognised: its kind (1 C-tag, 2 S-tag) and TCI (R146). -/
structure Tag where
  kind : Nat
  tci : Nat
  deriving DecidableEq, Repr

/-- The kind of tag that a TPID names, zero for none. -/
def tagKind (stpid t : Nat) : Nat := if t = 0x8100 then 1 else if t = stpid then 2 else 0

/-- Up to two tags behind the addresses (R146). -/
def outerTags (stpid : Nat) (f : List Byte) : List Tag :=
  let k := tagKind stpid (beNat f 12 2)
  if k = 0 ∨ f.length < 18 then []
  else
    let j := tagKind stpid (beNat f 16 2)
    if j = 0 ∨ f.length < 22 then [⟨k, beNat f 14 2⟩] else [⟨k, beNat f 14 2⟩, ⟨j, beNat f 18 2⟩]

/-- A recognised IP header with the transport header behind it: version 4 or 6, offset, header length, offset behind the packet;
`proto` is the protocol or next header; `l4` is 6 or 17 where a TCP or UDP header is recognised; `past` says that one is named whose header
does not end within 256 bytes. -/
structure IpHdr where
  ver : Nat
  off : Nat
  len : Nat
  stop : Nat
  proto : Nat
  l4 : Nat
  past : Bool
  deriving DecidableEq, Repr

/-- Length of the transport header at `o`: no TCP header is shorter than its fixed part. -/
def l4Len (f : List Byte) (proto o : Nat) : Nat := if proto = 6 then max 20 (4 * (byteAt f (o + 12) / 16)) else 8

/-- Is a TCP or UDP header there, whole, before the FCS and within 256 bytes (R147; log entry 130)? -/
def l4At (f : List Byte) (proto o : Nat) : Nat :=
  let n := l4Len f proto o
  if (proto = 6 ∨ proto = 17) ∧ o + n ≤ preFcs f ∧ o + n ≤ parseMax then proto else 0

/-- Does the TCP or UDP header that a packet names run past the first 256 bytes (R147, R165)? -/
def l4Past (f : List Byte) (proto o : Nat) : Bool :=
  decide (parseMax < o + l4Len f proto o) && (proto == 6 || proto == 17)

/-- An IP header of the given EtherType at an offset, itself and its stated length ending before the FCS (R147; log entry 130). -/
def ipAt (f : List Byte) (etype o : Nat) : Option IpHdr :=
  if etype = 0x0800 then
    let ihl := 4 * (byteAt f o % 16)
    let tl := beNat f (o + 2) 2
    if byteAt f o / 16 = 4 ∧ 20 ≤ ihl ∧ o + ihl ≤ preFcs f ∧ o + tl ≤ preFcs f ∧ o + ihl ≤ parseMax then
      let proto := byteAt f (o + 9)
      let whole := beNat f (o + 6) 2 % 2 ^ 14 == 0
      some ⟨4, o, ihl, o + tl, proto, if whole then l4At f proto (o + ihl) else 0, whole && l4Past f proto (o + ihl)⟩
    else none
  else if etype = 0x86DD then
    let pl := beNat f (o + 4) 2
    if byteAt f o / 16 = 6 ∧ o + 40 + pl ≤ preFcs f ∧ o + 40 ≤ parseMax then
      let proto := byteAt f (o + 6)
      some ⟨6, o, 40, o + 40 + pl, proto, l4At f proto (o + 40), l4Past f proto (o + 40)⟩
    else none
  else none

/-- Offset of the transport header. -/
def IpHdr.l4off (h : IpHdr) : Nat := h.off + h.len

/-- What a tunnel header carries: its VNI, and where its inner Ethernet header begins. -/
structure Tunnel where
  vni : Nat
  inner : Nat
  deriving DecidableEq, Repr

/-- A VXLAN or Geneve header behind a UDP header (R147). -/
def tunnelAt (f : List Byte) (vxlan geneve : Nat) (h : IpHdr) : Option Tunnel :=
  if h.l4 ≠ 17 then none
  else
    let u := h.l4off + 8
    let port := beNat f (h.l4off + 2) 2
    let glen := 8 + 4 * (byteAt f u % 64)
    if port = vxlan ∧ u + 8 ≤ h.stop ∧ u + 8 ≤ parseMax ∧ bitN (byteAt f u) 3 = 1 then some ⟨beNat f (u + 4) 3, u + 8⟩
    else if port = geneve ∧ u + glen ≤ h.stop ∧ u + glen ≤ parseMax ∧ byteAt f u / 64 = 0 ∧ beNat f (u + 2) 2 = 0x6558 then
      some ⟨beNat f (u + 4) 3, u + glen⟩
    else none

/-- The headers of a frame (R147, R164): outer tags, outer IP, tunnel with an inner Ethernet header, inner IP. -/
structure Headers where
  tags : List Tag
  ip : Option IpHdr
  tun : Option Tunnel
  inner : Option IpHdr
  deriving DecidableEq, Repr

/-- Headers as recognised in the first 256 bytes. -/
def parse (stpid vxlan geneve : Nat) (f : List Byte) : Headers :=
  let tags := outerTags stpid f
  let e := 12 + 4 * tags.length
  let ip := if e + 2 ≤ preFcs f then ipAt f (beNat f e 2) (e + 2) else none
  let tun := match ip with
    | some h => match tunnelAt f vxlan geneve h with
      | some t => if t.inner + 14 ≤ parseMax ∧ t.inner + 14 ≤ h.stop then some t else none
      | none => none
    | none => none
  let inner := match tun with
    | some t =>
      let o := if beNat f (t.inner + 12) 2 = 0x8100 then t.inner + 16 else t.inner + 12
      ipAt f (beNat f o 2) (o + 2)
    | none => none
  ⟨tags, ip, tun, inner⟩

/-! ## Checksums -/

/-- The sum of 16-bit words of `n` bytes, an odd last byte padded with zero. -/
def sum16 (f : List Byte) (o n : Nat) : Nat :=
  (List.range ((n + 1) / 2)).foldl (fun a i =>
    a + 256 * byteAt f (o + 2 * i) + (if 2 * i + 1 < n then byteAt f (o + 2 * i + 1) else 0)) 0

/-- Ones' complement arithmetic: does a sum with its checksum verify, and the checksum of a sum. -/
def onesGood (n : Nat) : Bool := n != 0 && n % 65535 == 0
def onesCsum (n : Nat) : Nat := if n = 0 then 0xFFFF else if n % 65535 = 0 then 0 else 65535 - n % 65535

/-- The pseudo-header of a segment (R150). -/
def pseudo (f : List Byte) (h : IpHdr) : Nat :=
  (if h.ver = 4 then sum16 f (h.off + 12) 8 else sum16 f (h.off + 8) 32) + h.l4 + (h.stop - h.l4off)

/-- Offset of the checksum field in the transport header. -/
def l4CsumOff (h : IpHdr) : Nat := h.l4off + (if h.l4 = 6 then 16 else 6)

/-- Result of an IPv4 header's check (R148); a level whose headers run past the first 256 bytes is not checked (R147). -/
def l3Result (f : List Byte) (h : Option IpHdr) : Nat :=
  match h with
  | some h => if h.ver = 4 && !h.past then (if onesGood (sum16 f h.off h.len) then 1 else 2) else 0
  | none => 0

/-- Result of a TCP or UDP check (R148). -/
def l4Result (f : List Byte) (h : Option IpHdr) : Nat :=
  match h with
  | some h =>
    if h.l4 = 0 then 0
    else if h.l4 = 17 ∧ beNat f (l4CsumOff h) 2 = 0 then 3
    else if onesGood (pseudo f h + sum16 f h.l4off (h.stop - h.l4off)) then 1 else 2
  | none => 0

/-- The four results of R148: outer L3 in bits 1:0, outer L4 in 3:2, inner L3 in 5:4, inner L4 in 7:6. -/
def csumResults (f : List Byte) (h : Headers) (inner : Bool) : Nat :=
  l3Result f h.ip + 4 * l4Result f h.ip + (if inner then 16 * l3Result f h.inner + 64 * l4Result f h.inner else 0)

/-- Two bytes of a frame replaced. -/
def put16 (f : List Byte) (o v : Nat) : List Byte := (f.set o (BitVec.ofNat 8 (v / 256))).set (o + 1) (BitVec.ofNat 8 v)

/-- The IPv4 header checksum filled in (R150): none where the header is not recognised or its level runs past the first 256 bytes; nothing is
done for IPv6. -/
def fillL3 (f : List Byte) (h : Option IpHdr) : Option (List Byte) :=
  match h with
  | some h =>
    if h.ver = 6 then some f
    else if h.past then none
    else
      let g := put16 f (h.off + 10) 0
      some (put16 g (h.off + 10) (onesCsum (sum16 g h.off h.len)))
  | none => none

/-- The TCP or UDP checksum filled in (R150). -/
def fillL4 (f : List Byte) (h : Option IpHdr) : Option (List Byte) :=
  match h with
  | some h =>
    if h.l4 = 0 then none
    else
      let g := put16 f (l4CsumOff h) 0
      let v := onesCsum (pseudo g h + sum16 g h.l4off (h.stop - h.l4off))
      some (put16 g (l4CsumOff h) (if h.l4 = 17 ∧ v = 0 then 0xFFFF else v))
  | none => none

/-! ## Keys and the hash -/

/-- The key type for the frame's parse class (R164, R165), 7 acting as 0. -/
def keyType (h : Headers) (tun ip4 ip6 oth : Nat) : Nat :=
  let t := if h.tun.isSome then tun else match h.ip with
    | some i => if i.ver = 4 then ip4 else ip6
    | none => oth
  if t = 7 then 0 else t

/-- Padding of a key to 40 bytes. -/
def key40 (l : List Byte) : List Byte := l ++ List.replicate (40 - l.length) 0

/-- Ports of a transport header, zero where none is recognised (R165). -/
def portBytes (f : List Byte) (h : IpHdr) (src : Bool) : List Byte :=
  if h.l4 = 0 then [0, 0] else (f.drop (h.l4off + (if src then 0 else 2))).take 2

/-- The VID of the n-th recognised tag as two bytes (R166). -/
def vid (h : Headers) (n : Nat) : List Byte := match h.tags[n]? with
  | some t => beBytes 2 (t.tci % 4096)
  | none => [0, 0]

/-- The key of R166, none where a header it needs is missing or does not end within 256 bytes (R165). In the tunnel class, IP fields come from the inner level. -/
def buildKey (f : List Byte) (h : Headers) (type domain : Nat) : Option (List Byte) :=
  let head : List Byte := [BitVec.ofNat 8 type, BitVec.ofNat 8 domain]
  let ip := if h.tun.isSome then h.inner else h.ip
  let at_ (o n : Nat) : List Byte := (f.drop o).take n
  if type = 1 then some (key40 (head ++ vid h 0 ++ vid h 1 ++ at_ 0 6))
  else if type = 2 then h.tun.map (fun t => key40 (head ++ beBytes 3 t.vni ++ at_ t.inner 6))
  else match ip with
    | none => none
    | some i =>
      if i.past then none
      else if i.ver = 4 then
        (if type = 3 then some (key40 (head ++ vid h 0 ++ at_ (i.off + 16) 4 ++ [BitVec.ofNat 8 i.proto] ++ portBytes f i false))
         else if type = 5 then some (key40 (head ++ at_ (i.off + 12) 8 ++ [BitVec.ofNat 8 i.proto] ++ portBytes f i true ++ portBytes f i false))
         else none)
      else
        (if type = 4 then some (key40 (head ++ vid h 0 ++ at_ (i.off + 24) 16 ++ [BitVec.ofNat 8 i.proto] ++ portBytes f i false))
         else if type = 6 then some (key40 (head ++ at_ (i.off + 8) 32 ++ [BitVec.ofNat 8 i.proto] ++ portBytes f i true ++ portBytes f i false))
         else none)

/-- The Toeplitz hash of R167: bit `j` of the result is the parity of the key ANDed with the secret from bit `j` on. Key and secret are
taken as numbers, first byte most significant. -/
def toeplitzBit (key secret j : Nat) : Nat := popCount (key &&& (secret / 2 ^ (448 - 320 - j) % 2 ^ 320)) 320 % 2

/-- The 102 output bits, `out[0]` lowest. -/
def toeplitz (key secret : Nat) : Nat := (List.range 102).foldl (fun n j => n + 2 ^ j * toeplitzBit key secret j) 0

/-- Primary bucket, signature and alternate bucket (R167). -/
def hashH1 (out : Nat) : Nat := out % 2 ^ 23
def hashSig (out : Nat) : Nat := out / 2 ^ 23
def altBucket (h1 sig : Nat) : Nat := h1 ^^^ (if sig % 2 ^ 23 = 0 then 1 else sig % 2 ^ 23)

end Sys2Proof.Machine
end

