-- ==== Sys2Proof/Machine/Mac.lean ====
section
/-! DEFINITION. MAC channels, receive side and pause (R133 to R161). The transmit side is with the scheduler. -/

namespace Sys2Proof.Machine

/-- Slice cycles of a number of quanta, rounded up (R152). -/
def State.quantaCycles (s : State) (c q : Nat) : Nat :=
  let r := s.chanRate c * 10
  if r = 0 then 0 else (q * 512 * 1600 + r - 1) / r

/-! ## The shade set (R133, R134, R262) -/

/-- A refused or rejected write of the set. -/
def State.macReject (s : State) (c : Nat) : State := (s.bump (MC_COMMIT_REJ c)).setBit MC_EVT_SHADE_REJ (c / 8)

/-- Does a frame of the channel wait in staging or go out (R133)? -/
def State.txWaiting (s : State) (c : Nat) : Bool :=
  (s.ch c).staged.any (fun e => !e.2.isEmpty) || (match (s.ch c).line with
    | .frame _ => true
    | _ => false)

/-- Does the channel receive: an aligned E-mode channel without a fault, or a bound T-mode stream (R75 to R77, R105)? -/
def State.receives (s : State) (c : Nat) : Bool :=
  if s.tMode (c / 8) then (s.boundGroup c).isSome else s.chanOn c && s.rd (LN_CHAN_STAT_STATE c) == 2 &&
    !s.is (LN_CHAN_STAT_LF_RX c) && !s.is (LN_CHAN_STAT_RF_RX c)

/-- Is a frame being received on channel `c`? In T-mode one is whose core header has come; where an E-mode channel receives at all, `busy` says. -/
def State.rxInFrame (s : State) (c : Nat) (busy : Bool) : Bool :=
  if s.tMode (c / 8) then (match (s.gfp c).pli with
    | some n => decide (4 ≤ n)
    | none => false)
  else busy && (s.receives c || (s.ch c).partly)

/-- A commit of channel `c` (R133, R134): a half with no frame samples in the next cycle. `busy` says that an E-mode channel is receiving a frame:
that one keeps what is in force. -/
def State.macCommit (s : State) (c : Nat) (busy : Bool) : State :=
  if s.is (MC_COMMIT_LOCKED c) || s.rd (MC_MAXLEN_MAXLEN c) < 64 || 16384 < s.rd (MC_MAXLEN_MAXLEN c) then s.macReject c
  else
    let x := s.ch c
    let busy := s.rxInFrame c busy
    let s := (s.raise (MC_COMMIT_LOCKED c)).setCh c
      { x with rxDue := true, txDue := true, rxBusy := busy && !s.tMode (c / 8), comAt := some s.tm.tick, rxOld := x.rx, txOld := x.tx }
    let s := if busy then s else s.macRx c
    if s.txWaiting c then s else s.macTx c

/-- A write of `MC_COMMIT[c]`. -/
def execMcCommit (w : Who) (c : Fin 32) (rxBusy : Bool) (s : State) : Host.Outcome State Fault Refusal :=
  .next (s.guardWrite w (0x060180 + 4 * c) (·.macCommit c rxBusy))

/-! ## Pause timers (R152, R153, R155, R156) -/

/-- The timer of class `k` is cleared. -/
def State.pauseClear (s : State) (c k : Nat) : State :=
  let x := s.ch c
  ((s.setCh c { x with pauseEnd := mapErase k x.pauseEnd, pauseFrom := mapErase k x.pauseFrom }).clrBit (MC_FC_STAT_PAUSED c) k).unservedRefresh c

/-- A received request loads the timer of class `k` with these quanta. -/
def State.pauseLoad (s : State) (c k q : Nat) : State :=
  if q = 0 then s.pauseClear c k
  else
    let x := s.ch c
    let t := s.tm.tick + 3
    let x := { x with pauseEnd := optSet x.pauseEnd k (t + s.quantaCycles c q),
                      pauseFrom := if (optGet x.pauseFrom k).isSome then x.pauseFrom else optSet x.pauseFrom k t }
    ((s.setCh c x).setBit (MC_FC_STAT_PAUSED c) k).unservedRefresh c

/-- The pause timer of class `k` ends (R153). -/
def execPauseTimerExpiry (c : Fin 32) (k : Fin 8) (s : State) : Host.Outcome State Fault Refusal :=
  .next (
    if !s.portRuns (c / 8) then s
    else match optGet (s.ch c).pauseEnd k with
    | some t => (s.advanceTo t).pauseClear c k
    | none => s)

/-- The refresh interval of R154 has passed since the last control frame: another is due. -/
def execPauseRefreshTimer (c : Fin 32) (s : State) : Host.Outcome State Fault Refusal :=
  .next (
    let x := s.ch c
    let off := if s.fcMode c = 2 then x.xoffMine &&& s.rd (MC_FC_CFG_PFC_CLASSES c) else x.xoffMine
    if !s.portRuns (c / 8) || s.fcMode c = 0 || !s.is (MC_FC_CFG_TX_GEN c) || off == 0 then s
    else
      let s := s.advanceTo (x.ctlSent + s.quantaCycles c (max 1 (s.rd (MC_FC_REF_REFRESH c))))
      s.setCh c { s.ch c with ctlDue := true })

/-- The pause watchdog of class `k` (R155). -/
def execPauseWatchdog (c : Fin 32) (k : Fin 8) (s : State) : Host.Outcome State Fault Refusal :=
  .next (
    let us := s.rd (MC_FC_WD_WD_US c)
    match optGet (s.ch c).pauseFrom k, optGet (s.ch c).pauseEnd k with
    | some a, some e =>
      let t := a + 1600 * us
      if us = 0 ∨ e < t ∨ s.portRuns (c / 8) = false then s
      else
        let s := (((s.advanceTo t).pauseClear c k).stat c (45 + k)).setBit MC_EVT_PAUSE_WD (c / 8)
        let s := s.setCh c { s.ch c with holdEnd := optSet (s.ch c).holdEnd k (s.tm.tick + usTicks (s.rd (MC_FC_WD_HOLD_US c))) }
        s.setBit (MC_FC_STAT_HOLDOFF c) k
    | _, _ => s)

/-- The hold-off of class `k` ends (R156). -/
def execWatchdogHoldoffEnd (c : Fin 32) (k : Fin 8) (s : State) : Host.Outcome State Fault Refusal :=
  .next (
    if !s.portRuns (c / 8) then s
    else match optGet (s.ch c).holdEnd k with
    | some t =>
      let s := s.advanceTo t
      (s.setCh c { s.ch c with holdEnd := mapErase k.val (s.ch c).holdEnd }).clrBit (MC_FC_STAT_HOLDOFF c) k
    | none => s)

/-- A write of `MC_FC_CFG[c]`: a change of `MODE` clears the timers, ends every hold-off and forgets what the old mode owed (R154). -/
def State.fcCfg (s : State) (c v : Nat) : State :=
  let was := s.rd (MC_FC_CFG_MODE c)
  let s := s.writePlain (0x060200 + 4 * c) v
  if s.rd (MC_FC_CFG_MODE c) = was then s
  else
    let x := s.ch c
    let x := { x with pauseEnd := [], pauseFrom := [], holdEnd := [], ctlDue := false, xonChg := 0, xoffMine := 0 }
    (((s.setCh c x).wr (MC_FC_STAT_PAUSED c) 0).wr (MC_FC_STAT_HOLDOFF c) 0).unservedRefresh c

/-- A write of `MC_FC_CFG[c]` (R154). -/
def execFcModeWrite (w : Who) (c : Fin 32) (v : Word) (s : State) : Host.Outcome State Fault Refusal :=
  .next (s.guardWrite w (0x060200 + 4 * c) (·.fcCfg c v.toNat))

/-! ## MAC control frames (R151, R152) -/

def pauseDa : List Byte := [0x01, 0x80, 0xC2, 0x00, 0x00, 0x01]

/-- Is class `k` in watchdog hold-off? -/
def State.heldOff (s : State) (c k : Nat) : Bool := (optGet (s.ch c).holdEnd k).isSome

/-- A PAUSE or PFC frame of the right address is honoured or ignored (R152); one that came in W counts as either and loads no timer (R418). -/
def State.pauseFrame (s : State) (c : Nat) (f : List Byte) (op : Nat) (watched : Bool) : State :=
  let pfc := op == 0x0101
  let match_ := s.is (MC_FC_CFG_RX_HONOUR c) && s.fcMode c == (if pfc then 2 else 1)
  if !match_ then s.stat c 21
  else
    let enable := if pfc then beNat f 16 2 % 256 else 0xFF
    let classes := if pfc then s.rd (MC_FC_CFG_PFC_CLASSES c) else 0xFF
    let wanted := (List.range 8).filter (fun k => bitN enable k == 1 && bitN classes k == 1)
    let held := wanted.filter (fun k => s.heldOff c k)
    let load := wanted.filter (fun k => !s.heldOff c k)
    let s := if watched then s else s.each load (fun s k => s.pauseLoad c k (beNat f (if pfc then 18 + 2 * k else 16) 2))
    let acted := held.isEmpty || !load.isEmpty
    let s := if !acted then s else if pfc then s.each ((List.range 8).filter (fun k => bitN enable k == 1)) (fun s k => s.stat c (12 + k))
      else s.stat c 20
    s.statIf (!held.isEmpty) c 21

/-- A MAC control frame is consumed (R151); `watched` says that it began in W, where it loads no timer (R418). -/
def State.controlFrame (s : State) (c : Nat) (f : List Byte) (watched : Bool) : State :=
  let op := beNat f 14 2
  let s := s.stat c 10
  if f.take 6 == pauseDa && (op == 1 || op == 0x0101) then s.pauseFrame c f op watched else s.stat c 11

/-! ## Wake (R157) -/

/-- Does pattern `n`, as its registers stood at the frame's start, match? -/
def State.wakePattern (s : State) (n c t : Nat) (f : List Byte) : Bool :=
  let ctrl := s.wasAt (0x061090 + 0x100 * n) t
  bitN ctrl 0 == 1 && bits ctrl 8 5 == c &&
  (List.range 128).all (fun b => bitN (s.wasAt (0x061080 + 0x100 * n + 4 * (b / 32)) t) (b % 32) == 0 ||
    (b < f.length && byteAt f b == bits (s.wasAt (0x061000 + 0x100 * n + 4 * (b / 4)) t) (8 * (b % 4)) 8))

/-- `MC_STATION[c]` as bytes. -/
def State.station (s : State) (c : Nat) : List Byte := leBytes 4 (s.rd (MC_STATION_LO_ADDR_LO c)) ++ leBytes 2 (s.rd (MC_STATION_HI_ADDR_HI c))

/-- Does a list hold another as a run? -/
def holdsRun (p : List Byte) : List Byte → Bool
  | [] => p.isEmpty
  | b :: l => p.isPrefixOf (b :: l) || holdsRun p l

/-- The source of the first match of a frame that began at tick `t`: pattern n, or 16 for the magic frame. Of several that match, the lowest-numbered
pattern is recorded, the magic frame last, and the frame counts one match (log entry 132). -/
def State.wakeMatch (s : State) (c t : Nat) (f : List Byte) : Option Nat :=
  match (List.range 16).find? (fun n => s.wakePattern n c t f) with
  | some n => some n
  | none => if bitN (s.wasAt 0x060600 t) c == 1 && holdsRun (List.replicate 6 0xFF ++ (List.replicate 16 (s.station c)).flatten) f then some 16 else none

/-- A frame received in W is tested (R157, R417). -/
def State.wakeTest (s : State) (c t : Nat) (f : List Byte) : State :=
  match s.wakeMatch c t f with
  | none => s
  | some n =>
    let s := s.stat c 54
    let s := if s.is MC_WAKE_STAT_VALID then s
      else ((s.wr MC_WAKE_STAT_CHAN c).wr MC_WAKE_STAT_SRC n).raise MC_WAKE_STAT_VALID
    (s.setBit MC_EVT_WAKE (c / 8)).wakeNow 2

/-! ## Reception -/

/-- End-verdict flags (R140): `RUNT` 1, `OVER` 2, `FCS` 4, `CODE` 8. `bad` says that the line passed the frame as one with a bad FCS (R106). -/
def rxFlags (maxlen : Nat) (code bad : Bool) (f : List Byte) : Nat :=
  let n := f.length
  (if n < 64 then 1 else 0) + (if n > maxlen then 2 else 0) +
  (if 64 ≤ n ∧ n ≤ maxlen ∧ (bad = true ∨ leNat f (n - 4) 4 ≠ crc32 (f.take (n - 4))) then 4 else 0) + (if code then 8 else 0)

/-- Host bytes and the removed tags of a frame (R142, R146): tags first, then the FCS. -/
def hostBytes (m : MacLive) (flags : Nat) (f : List Byte) : List Byte × List Tag :=
  if bitN flags 0 = 1 then (f, [])
  else if bitN flags 1 = 1 then (f.take m.maxlen, [])
  else
    let n := if m.rxStrip = 3 then 0 else m.rxStrip
    let tags := (outerTags m.stpid f).take n
    let g := f.take 12 ++ f.drop (12 + 4 * tags.length)
    (if m.stripFcs then g.take (g.length - 4) else g, tags)

/-- The verdict of a miss on channel `c` (R180); its `ACTION` is 1 where `CL_MISS.DROP` drops it. -/
def State.missVerdict (s : State) (c reason pcp : Nat) : Verdict :=
  {
    ctx := s.rd (CL_MISS_CTX c), rxq := s.rd (CL_MISS_RXQ c), men := s.is (CL_MISS_MTR_MEN c), meter := s.rd (CL_MISS_MTR_METER c),
    action := s.rd (CL_MISS_DROP c), cls := pcp, reason := reason }

/-- Counter units of the line time of `n` bytes at the rate of channel `c`. -/
def State.lineUnits (s : State) (c n : Nat) : Nat := if s.chanRate c = 0 then 0 else n * 800 * 2 ^ 32 / s.chanRate c

/-- Slice cycles, whole ones, that `n` bytes take on the line of channel `c`. -/
def State.lineCycles (s : State) (c n : Nat) : Nat := if s.chanRate c = 0 then 0 else (n * 1280 + s.chanRate c - 1) / s.chanRate c

/-- The slice cycle in which the start delimiter of an E-mode frame of `n` bytes passed, whose last byte passes now: no byte stands between it and
the frame (R135, R145). -/
def State.eStart (s : State) (c n : Nat) : Nat := s.tm.tick - s.lineCycles c (n + 1)

/-- The follower's value in the slice cycle in which the start delimiter of an E-mode frame of `n` bytes passed, whose last byte passes
now, less the deskew delay of the PCS lane that carried it (R145, R325, R326). -/
def State.eBase (s : State) (c n lane : Nat) : Int := s.timeAt (s.eStart c n) - (s.ch c).deskew.getD lane 0 * 2 ^ 16

/-- The corrected receive stamp of a frame that began at tick `t` (R325): from the base value, for the byte at offset `byte` of its word. -/
def State.rxStamp (s : State) (c t : Nat) (base : Int) (byte : Nat) : Nat :=
  ((base + s.lineUnits c byte - signed 32 (s.wasAt (0x170100 + 4 * c) t) * 2 ^ 16) % timeMod).toNat

/-- Has the follower of the slice that processes port `p` a value (R317)? -/
def State.follows (s : State) (p : Nat) : Bool := match s.rxSlice p with
  | some i => s.tm.follows.getLsbD i
  | none => false

/-! ### The elastic store and the datapath (R23, R25) -/

/-- Bytes of datapath a frame of `n` bytes takes. -/
def dpBytes (n : Nat) : Nat := (n + 7) / 8 * 8

/-- Bytes of datapath the frames of port `p` at one stage hold. -/
def State.dpHeld (s : State) (p : Nat) (st : RxStage) : Nat :=
  s.rxs.foldl (fun n e => if e.2.chan / 8 = p ∧ e.2.stage = st then n + e.2.stored else n) 0

/-- Words that `n` bytes of datapath take which start at offset `dp` of a word (R23). -/
def dpWords (dp n : Nat) : Nat := if n = 0 then 0 else (dp + n + 127) / 128

/-- Frames of port `p` whose end or loss its slice has reported, a word each, and the core island has yet to take (R31). -/
def State.reports (s : State) (p : Nat) : Nat :=
  (s.txs.filter (fun e => e.2.chan / 8 == p && e.2.stage == .sent)).length + (s.rxs.filter (fun e => e.2.chan / 8 == p && e.2.stage == .lost)).length

/-- Words that stand in the crossing from the slice of port `p` to the core: frames, packed one behind the other (R23), and reports. -/
def State.toCore (s : State) (p : Nat) : Nat :=
  let dp := match s.rxs.find? (fun e => e.2.chan / 8 == p && e.2.stage == .released) with
    | some e => e.2.dp
    | none => 0
  dpWords dp (s.dpHeld p .released) + s.reports p

/-- Bytes in the elastic store of port `p`'s slice: what is not released, and what the crossing has no room for (R18). -/
def State.elastic (s : State) (p : Nat) : Nat := s.dpHeld p .slice + (s.dpHeld p .released - 32 * 128)

/-- Bytes the elastic store takes. -/
def elasticMax : Nat := 65536

/-- Bytes a received frame of `n` bytes takes in it: a runt a 64-byte slot (R137), no more than `MAXLEN` of an oversize one (R135). -/
def rxRoom (maxlen n : Nat) : Nat := max 64 (dpBytes (min n maxlen))

/-- The marks of a frame of `n` bytes that starts at offset `dp` of a word, by the number of the word counted from that one. -/
def frameMarks (dp n chan : Nat) : List (Nat × Mark) :=
  if n = 0 then [] else [(0, ⟨true, dp, chan⟩), ((dp + n - 1) / 128, ⟨false, (dp + n - 1) % 128, chan⟩)]

/-! ### Records -/

/-- A frame as the line hands it to the receive MAC: its bytes, whether they carry a coding error (R140), whether the line passed it as one
with a bad FCS (R106), when it began with the MAC parameters in force then (R133), its stamp, and a paired channel's stream position with the
side it came on and its PFI (R122). -/
structure LineFr where
  data : List Byte
  code : Bool
  bad : Bool
  start : Nat
  live : MacLive
  stamp : Nat
  pos : Nat
  prot : Bool
  pfi : Nat
  deriving DecidableEq, Repr

/-- The headers of a frame, by the ports of `MC_CSUM_PORTS` as they stood at its start (R149). -/
def State.rxParse (s : State) (e : LineFr) : Headers :=
  let ports := s.wasAt 0x060400 e.start
  parse e.live.stpid (bits ports 0 16) (bits ports 16 16) e.data

/-- The checksum results of a frame (R147, R148). -/
def State.rxCsum (s : State) (e : LineFr) (flags : Nat) : Nat :=
  if flags = 0 && e.live.csumRx then csumResults e.data (s.rxParse e) e.live.inner else 0

/-- The key of a frame (R163 to R166), by `CL_KSEL` as it stood at its start; none where it cannot be built. -/
def State.rxKey (s : State) (c : Nat) (e : LineFr) (flags : Nat) : Option (List Byte) :=
  let k := s.wasAt (0x080100 + 4 * c) e.start
  let h := s.rxParse e
  if bitN flags 0 = 1 then none else buildKey e.data h (keyType h (bits k 8 3) (bits k 11 3) (bits k 14 3) (bits k 17 3)) (bits k 0 8)

/-- The record of a delineated frame enters its slice with its verdict or its key (R163 to R165, R451). -/
def State.rxRecord (s : State) (c : Nat) (e : LineFr) (flags : Nat) : State :=
  let p := c / 8
  let f := e.data
  let m := e.live
  let used := s.elastic p
  let room := rxRoom m.maxlen f.length
  let full := decide (elasticMax < used + room)
  let slice := (s.rxSlice p).getD 0
  let dp := mapGet (fun _ => 0) s.sys.dpRx slice
  let stored := min room (elasticMax - used)
  let s := { s with sys := { s.sys with dpRx := mapSet (fun _ => 0) s.sys.dpRx slice ((dp + stored) % 128) } }
  let h := s.rxParse e
  let host := hostBytes m flags f
  let control := flags == 0 && beNat f 12 2 == 0x8808
  let pcp := (h.tags.head?.map (fun t => t.tci / 2 ^ 13)).getD 0
  let dei := (h.tags.head?.map (fun t => bitN t.tci 12)).getD 0
  let key := s.rxKey c e flags
  let verdict : Option Verdict := if control then some { action := 1 } else if key.isNone then some (s.missVerdict c 2 pcp) else none
  let s := if !control && key.isNone then s.bump (CL_MISS_CNT_COUNT 2) else s
  let len := if bitN flags 1 = 1 then (if m.deliverBad then m.maxlen else min f.length 1048575) else f.length
  let x : RxFr := {
    chan := c, len := len, flags := flags, deliverBad := m.deliverBad, data := host.1, csum := s.rxCsum e flags,
    tag1 := (host.2[0]?.map (·.kind)).getD 0, tci1 := (host.2[0]?.map (·.tci)).getD 0,
    tag2 := (host.2[1]?.map (·.kind)).getD 0, tci2 := (host.2[1]?.map (·.tci)).getD 0,
    stamp := e.stamp, stamped := s.follows p && !s.sleepLoad, holdover := s.holdoverAt e.start, pcp := pcp,
    yellow := bitN (s.wasAt (0x080100 + 4 * c) e.start) 20 == 1 && dei == 1,
    verdict := verdict, key := (if verdict.isNone then key else none), dropRec := full, control := control, stored := stored,
    dp := dp, marks := frameMarks dp (min f.length stored) c, pos := e.pos, prot := e.prot, pfi := e.pfi,
    via := s.rxVia p e.start }
  { s.setRx s.nextFr x with nextFr := s.nextFr + 1 }

/-- The receive MAC has delineated a frame and written its end mark (R135 to R151). One that began in W counts and is tested, and goes no further
(R158). -/
def State.rxDelineated (s : State) (c : Nat) (e : LineFr) : State :=
  let f := e.data
  let flags := rxFlags e.live.maxlen e.code e.bad f
  let s := (s.rxStats c f.length f flags).pcSlice (c / 8) (c % 8)
  let s := if flags = 0 then s else s.pcSlice (c / 8) (16 + c % 8)
  let csum := s.rxCsum e flags
  let s := s.statIf ((List.range 4).any (fun i => bits csum (2 * i) 2 == 2)) c 29
  let watched := s.pwWatchedAt e.start
  let s := if flags = 0 && beNat f 12 2 == 0x8808 then s.controlFrame c f watched else s
  if watched then (if flags = 0 then s.wakeTest c e.start f else s) else s.rxRecord c e flags

/-- A frame ends on channel `c`: a runt without a free frame-start slot is a fragment (R137). -/
def State.rxFrame (s : State) (c : Nat) (e : LineFr) (slot : Bool) : State :=
  if e.data.isEmpty || (e.data.length < 64 && !slot) then s.stat c 8 else s.rxDelineated c e

/-- A frame has ended on an E-mode line: the one that was being received at a commit keeps what was in force, and the next one samples (R133). -/
def State.rxBegan (s : State) (c : Nat) : State :=
  if (s.ch c).rxBusy then s.setCh c { s.ch c with rxBusy := false } else s.macRx c

/-- The client frame that waits longest on a T-mode channel reaches the MAC: one that was cut short is errored (R105, R106). -/
def State.rxClient (s : State) (c : Nat) (slot : Bool) (byte : Nat) : State :=
  match (s.gfp c).clients with
  | [] => s
  | e :: r =>
    (s.setGfp c { s.gfp c with clients := r }).rxFrame c
      ⟨e.data, e.cut, e.badFcs, e.tick, e.live, s.rxStamp c e.tick e.time byte, e.pos, ((s.pairOfChan c).map (·.2)).getD false, e.pfi⟩ slot

/-- A frame of `n` bytes that ends now on an E-mode channel began before the last gap, which no frame has met yet (R19, R68; log entry 105). -/
def State.spansGap (s : State) (c n : Nat) : Bool := match (s.ch c).gapAt with
  | some t => decide (s.eStart c n ≤ t)
  | none => false

/-- A frame ends on channel `c` (R135): on an E-mode line the bytes given, on a T-mode line the client frame that waits. `code` says that the
line marked it errored, `slot` that a runt found a free slot (R137); `x` says where its start stands (R325, R326). A frame that was being received
when the channel stopped ends as errored (R75), the ports' park included (R419), and so does one that spans a gap (R19). -/
def execRxFrame (c : Fin 32) (f : List Byte) (code slot : Bool) (x : RxPlace) (s : State) : Host.Outcome State Fault Refusal :=
  .next (
    if !s.rxRuns (c / 8) && !((s.ch c).partly && s.pwParked) then s
    else if s.tMode (c / 8) then s.rxClient c slot x.byte
    else if s.receives c || (s.ch c).partly then
      let n := f.length
      let t := s.eStart c n
      let live := if (s.ch c).rxBusy then (s.ch c).rx else ((s.rxBegan c).ch c).rx
      ((s.rxBegan c).setCh c { (s.rxBegan c).ch c with partly := false, gapAt := none }).rxFrame c
        ⟨f, code || s.spansGap c n || !s.receives c, false, t, live, s.rxStamp c t (s.eBase c n x.lane) x.byte, 0, false, 0⟩ slot
    else s)

/-! ## Register writes -/

/-- Writes of the region (R133, R154). Whether a frame is being received at a commit that comes as a plain write is a free value (log entry 5). -/
def State.mcWrite (s : State) (off v : Nat) : State :=
  if off < 0x060180 then
    (let c := (off - 0x060000) / 4 % 32
     if s.is (MC_COMMIT_LOCKED c) then s.macReject c else s.writePlain off v)
  else if off < 0x060200 then (if bitN v 0 = 1 then s.draw.2.macCommit ((off - 0x060180) / 4) (s.draw.1.getLsbD 0) else s)
  else if off < 0x060280 then s.fcCfg ((off - 0x060200) / 4) v
  else if off = 0x060400 ∨ off = 0x060600 ∨ 0x061000 ≤ off ∧ off < 0x062000 then s.writeKept off v
  else s.writePlain off v

end Sys2Proof.Machine
end

