-- ==== Sys2Proof/Machine/Classify.lean ====
section
/-! DEFINITION. The endpoint table: lookups, the bucket cache and the update engine (R162 to R188). -/

namespace Sys2Proof.Machine

/-! ## Entries and buckets (R169) -/

def entType (e : Nat) : Nat := bits e 0 4
def entVer (e : Nat) : Nat := bits e 4 4
def entSig (e : Nat) : Nat := bits e 8 79
def entAlt (e : Nat) : Nat := bitN e 87
def entVd (e : Nat) : Nat := bits e 88 40

/-- An entry of these fields; its version comes with the bucket. -/
def mkEnt (type sig alt vd : Nat) : Nat := type + 2 ^ 8 * sig + 2 ^ 87 * alt + 2 ^ 88 * vd

/-- An entry moved between its buckets. -/
def setAlt (e alt : Nat) : Nat := mkEnt (entType e) (entSig e) alt (entVd e)

/-- The other bucket of an entry. -/
def otherBucket (b e : Nat) : Nat := altBucket b (entSig e)

/-- A bucket's four entries from its 64 bytes, and back. -/
def entsOf (d : List Byte) : List Nat := (List.range 4).map (fun i => leNat d (16 * i) 16)
def entBytes (l : List Nat) : List Byte := (l.map (leBytes 16)).flatten
def emptyBucket : List Nat := [0, 0, 0, 0]

/-- The four versions agree (R186). -/
def whole (l : List Nat) : Bool := l.all (fun e => entVer e == entVer (l.headD 0))

/-- A bucket with a new version in all its entries (R186). -/
def withVer (l : List Nat) (v : Nat) : List Nat := l.map (fun e => e - 16 * entVer e + 16 * (v % 16))

/-- The entry of a bucket that matches (R173). -/
def matchIn (l : List Nat) (type sig alt : Nat) : Option (Nat × Nat) :=
  ((List.range 4).find? (fun i => entType (l.getD i 0) == type && entSig (l.getD i 0) == sig && entAlt (l.getD i 0) == alt && type != 0)).map
    (fun i => (i, l.getD i 0))

/-- The first free slot. -/
def freeSlot (l : List Nat) : Option Nat := (List.range 4).find? (fun i => entType (l.getD i 0) == 0)

/-! ## Where buckets lie (R170, R439) -/

/-- Present working channels. -/
def State.tblWorking (s : State) : List Nat := (List.range 6).filter s.tblPresent

/-- The channel that serves working position `c`. -/
def State.tblPhys (s : State) (c : Nat) : Nat :=
  let moving := s.sv.step == 2 && s.sv.arg == c
  if s.sv.op == 5 && moving then 6
  else if s.is SV_INUSE_TBL && s.rd SV_INUSE_TBL_FOR == c && !(s.sv.op == 6 && moving) then 6 else c

/-- `TBL_BASE` of a channel. -/
def State.tblBase (s : State) (c : Nat) : Nat := s.sdField (0x0C0 + 16 * c) 0 32 + 2 ^ 32 * s.sdField (0x0C4 + 16 * c) 0 32

/-- The working position of a bucket, and its byte offset in the channel's area. -/
def State.tblPos (s : State) (b : Nat) : Nat := s.tblWorking.getD (b % s.tblWorking.length) 0
def State.tblOff (s : State) (b : Nat) : Nat := 64 * (b / s.tblWorking.length)
def State.tblChan (s : State) (b : Nat) : Nat := s.tblPhys (s.tblPos b)

/-- Does channel `c` issue requests (R178)? -/
def State.tblIssues (s : State) (c : Nat) : Bool := s.fab.issues (9 + c)

/-- Can bucket `b` be read: not on a channel that issues nothing, nor where a forced spare has lost it (R178, R440)? -/
def State.bucketServed (s : State) (b : Nat) : Bool :=
  s.tblIssues (s.tblChan b) && s.tblWorking ≠ [] && s.sv.rebuild != some (s.tblPos b)

/-- Read or write a bucket on a channel. -/
def State.tblRead (s : State) (k : ReqKind) (a b : Nat) : State :=
  s.send k a b (9 + s.tblChan b) 1 (s.tblOff b) [] 64
def State.tblWriteOn (s : State) (k : ReqKind) (b tries c : Nat) (l : List Nat) : State :=
  s.send k b (8 * tries + c) (9 + c) 0 (s.tblOff b) (entBytes l) 0

/-- A request on the channel of bucket `b` did not return `OKAY` (R178). -/
def State.tblErr (s : State) (c : Nat) : State := s.setBit CL_EVT_TBL_ERR c

/-- A bucket is torn (R186). -/
def State.tblTorn (s : State) (b : Nat) : State := (if s.is CL_EVT_TORN then s else s.wr CL_TORN_ADDR_BUCKET b).raise CL_EVT_TORN

/-! ## The cache (R174, R184) -/

def State.cline (s : State) (b : Nat) : Option LineC := optGet s.tbl.cache b
def State.setLine (s : State) (b : Nat) (l : LineC) : State := { s with tbl := { s.tbl with cache := optSet s.tbl.cache b l } }

def LineC.pinned (l : LineC) : Bool := l.out != 0 || l.failed

/-- Lines of the set of bucket `b`. -/
def State.setOf (s : State) (b : Nat) : List (Nat × LineC) := s.tbl.cache.filter (fun e => e.1 % 16384 == b % 16384)

/-- The least recently used line of a list. -/
def oldestLine : List (Nat × LineC) → Option Nat
  | [] => none
  | e :: r => match oldestLine r with
    | none => some e.1
    | some b => match r.find? (fun x => x.1 == b) with
      | some x => if e.2.used ≤ x.2.used then some e.1 else some b
      | none => some e.1

/-- Can the set of `b` take a line? The state with room made, or none where all 16 ways are pinned. -/
def State.lineRoom (s : State) (b : Nat) : Option State :=
  if (s.cline b).isSome || (s.setOf b).length < 16 then some s
  else (oldestLine ((s.setOf b).filter (fun e => !e.2.pinned))).map (fun v => { s with tbl := { s.tbl with cache := mapErase v s.tbl.cache } })

/-- The line is used: it becomes the most recently used of its set. -/
def State.touch (s : State) (b : Nat) : State :=
  match s.cline b with
  | some l => { s with tbl := { s.tbl with clock := s.tbl.clock + 1 } }.setLine b { l with used := s.tbl.clock }
  | none => s

/-- A lookup's read fills the cache where a way can be replaced (R174). -/
def State.fill (s : State) (b : Nat) (l : List Nat) : State :=
  match s.lineRoom b with
  | some t => (t.setLine b { ents := l, used := t.tbl.clock }).touch b
  | none => s

/-! ## Lookups (R173 to R180) -/

def State.lookup (s : State) (id : Nat) : Option Lookup := optGet s.tbl.lookups id
def State.setLookup (s : State) (id : Nat) (l : Lookup) : State := { s with tbl := { s.tbl with lookups := optSet s.tbl.lookups id l } }

/-- The verdict of a matching entry (R162, R179 to R181). -/
def hitVerdict (e pcp : Nat) : Verdict :=
  let v := entVd e
  { ctx := bits v 0 12, rxq := bits v 12 6, meter := bits v 18 14, men := bitN v 32 == 1, action := bits v 33 3,
    cls := if bitN v 39 = 1 then bits v 36 3 else pcp, reason := if bits v 33 3 ≥ 3 then 7 else 0 }

/-- A lookup has its verdict, which waits to return. -/
def State.lookupEnd (s : State) (id : Nat) (v : Verdict) : State :=
  match s.lookup id with
  | some l => s.setLookup id { l with result := some v }
  | none => s

/-- A lookup ends as a miss (R179, R180). -/
def State.lookupMiss (s : State) (id reason : Nat) : State :=
  match s.rxf id with
  | some f => s.lookupEnd id (s.missVerdict f.chan reason f.pcp)
  | none => s

def State.lookupHit (s : State) (id e : Nat) : State :=
  match s.rxf id with
  | some f => s.lookupEnd id (hitVerdict e f.pcp)
  | none => s

/-- The bucket a lookup looks at. -/
def Lookup.bucket (l : Lookup) : Nat := if l.second then altBucket l.h1 l.sig else l.h1

/-- The stash is searched last (R171, R173). -/
def State.stashSearch (s : State) (id : Nat) (l : Lookup) : State :=
  match s.tbl.stash.find? (fun e => e.1 == l.h1 && entType e.2 == l.type && entSig e.2 == l.sig) with
  | some e => (s.pcEvent 721).lookupHit id e.2
  | none => s.lookupMiss id 1

/-- A lookup's read of its bucket goes out, or the channel issues nothing (R178). -/
def State.lookupRead (s : State) (id : Nat) (l : Lookup) : State :=
  if s.bucketServed l.bucket then
    s.tblRead .tblLookup id l.bucket
  else s.lookupMiss id 5

/-- A lookup sees its bucket. `step` bounds the two buckets it may look at. -/
def lookupSee : Nat → Nat → Lookup → List Nat → State → State
  | 0, _, _, _, s => s
  | n + 1, id, l, ents, s =>
    match matchIn ents l.type l.sig (b2n l.second) with
    | some e => s.lookupHit id e.2
    | none =>
      if !l.second && mapGet (fun _ => 0) s.tbl.disp l.h1 != 0 then
        let l := { l with second := true, reread := false }
        let s := ((s.setLookup id l).bump64 CL_READ2_LO_COUNT CL_READ2_HI_COUNT).pcEvent 720
        match s.cline l.bucket with
        | some c => lookupSee n id l c.ents (((s.bump64 CL_CACHE_HIT_LO_COUNT CL_CACHE_HIT_HI_COUNT).pcEvent 718).touch l.bucket)
        | none => (s.pcEvent 719).lookupRead id l
      else s.stashSearch id l

/-- The secret as a number, first byte most significant (R167). -/
def State.hkey (s : State) : Nat :=
  (List.range 14).foldl (fun n w => n * 2 ^ 32 + leNat (beBytes 4 (s.rd (CL_HKEY_HKEY w))) 0 4) 0

/-- The lowest of a slice's 1,024 frame tags that no lookup holds (R163). -/
def lookupTag (l : List Lookup) : Option Nat := (List.range 1024).find? (fun t => !l.any (fun e => e.tag == t))

/-- A key enters the table island under a tag (R173, R179). -/
def State.lookupStart (s : State) (id tag : Nat) (key : List Byte) : State :=
  let out := toeplitz (beNat key 0 40) s.hkey
  let l : Lookup := { tag := tag, type := byteAt key 0, h1 := hashH1 out, sig := hashSig out, start := s.tm.tick }
  let s := s.setLookup id l
  if !s.is CL_CTRL_EN then s.lookupMiss id 3
  else match s.cline l.h1 with
    | some c => lookupSee 2 id l c.ents (((s.bump64 CL_CACHE_HIT_LO_COUNT CL_CACHE_HIT_HI_COUNT).pcEvent 718).touch l.h1)
    | none => (s.pcEvent 719).lookupRead id l

/-- The oldest frame of channel `c` in its slice that waits for a lookup to be asked, or whose lookup a test accepts. -/
def State.keyWaiting (s : State) (c : Nat) : Option (Nat × List Byte) :=
  match s.rxs.find? (fun e => e.2.chan == c && e.2.stage == .slice && e.2.key.isSome && (s.lookup e.1).isNone && (s.islandRuns 7 || !e.2.asked)) with
  | some e => e.2.key.map (fun k => (e.1, k))
  | none => none
def State.lookupOf (s : State) (c : Nat) (p : Lookup → Bool) : Option (Nat × Lookup) :=
  s.tbl.lookups.find? (fun e => p e.2 && (match s.rxf e.1 with
    | some f => f.chan == c
    | none => false))

/-- Keys of port `p`'s frames that stand in crossing 6 while the table clock does (R20). -/
def State.keysOut (s : State) (p : Nat) : Nat := (s.rxs.filter (fun e => e.2.chan / 8 == p && e.2.asked && (s.lookup e.1).isNone)).length

/-- The slice sends the key of channel `c`'s next frame over crossing 6 (R163, R167): no more than 1,024 lookups of a slice are out. While the
table clock stands, 64 keys wait in the crossing, and are there whether or not the slice still runs when the table does (R17, R18, R20). -/
def execLookupRequest (c : Fin 32) (s : State) : Host.Outcome State Fault Refusal :=
  .next (match s.keyWaiting c, lookupTag (s.lookupsOut (c / 8)) with
    | some (id, key), some tag =>
      match s.rxf id with
      | some f =>
        if s.islandRuns 7 && f.asked then (s.setRx id { f with asked := false }).lookupStart id tag key
        else if !s.rxRuns (c / 8) || decide (64 ≤ s.keysOut (c / 8)) then s
        else
          let s := s.crossed (384 + (s.rxSlice (c / 8)).getD 0) (s.keysOut (c / 8) + 1)
          if s.islandRuns 7 then s.lookupStart id tag key else s.setRx id { f with asked := true }
      | none => s
    | _, _ => s)

/-- The verdict of channel `c`'s oldest finished lookup returns to its slice over crossing 7 (R176, R179); while the table clock stands, those
that stood in the crossing do (R20). -/
def execVerdictReturn (c : Fin 32) (s : State) : Host.Outcome State Fault Refusal :=
  .next (
    if !s.rxRuns (c / 8) || (!s.islandRuns 7 && mapGet (fun _ => 0) s.sys.left7 (c / 8) == 0) then s
    else match s.lookupOf c (·.result.isSome) with
    | some (id, l) =>
      (match l.result, s.rxf id with
        | some v, some f =>
          let s := s.crossed (448 + (s.rxSlice (c / 8)).getD 0) (s.verdictsOut (c / 8))
          let s := (s.setRx id { f with verdict := some v, key := none }).bump64 CL_LOOKUPS_LO_COUNT CL_LOOKUPS_HI_COUNT
          let s := if v.reason = 0 then s else s.bump (CL_MISS_CNT_COUNT v.reason)
          { s with
            tbl := { s.tbl with lookups := mapErase id s.tbl.lookups }
            sys := { s.sys with left7 := mapUpd (fun _ => 0) s.sys.left7 (c / 8) (· - 1) } }
        | _, _ => s)
    | none => s)

/-- Channel `c`'s oldest unanswered lookup has reached its deadline (R177). -/
def execLookupDeadline (c : Fin 32) (s : State) : Host.Outcome State Fault Refusal :=
  .next (
    if !s.islandRuns 7 then s
    else match s.lookupOf c (·.result.isNone) with
    | some (id, l) => (s.advanceTo (l.start + nsTicks (max 1 (s.rd CL_LIMITS_DEADLINE_NS)))).lookupMiss id 4
    | none => s)

/-- A lookup's read has answered, or has come back unissued (R178, R184, R186). A bucket that a clear has emptied since is empty (R188). A stale read
that failed sets `TBL_ERR`, and the lookup goes on with the line (log entry 134). -/
def State.lookupAnswer (s : State) (d : Deliv) : State :=
  let id := d.a
  let b := d.b
  let stale := s.tbl.stale.contains (id, b)
  let s := { s with tbl := { s.tbl with stale := s.tbl.stale.filter (· != (id, b)) } }
  let l := (s.lookup id).bind (fun l => if l.result.isNone && l.bucket == b then some l else none)
  let s := if d.resp = .okay ∨ d.resp = .unissued then s else s.tblErr (d.x - 9)
  if stale then
    (match l, s.cline b with
      | some l, some c => lookupSee 2 id l c.ents (s.touch b)
      | some l, none => if s.is CL_CTRL_EN then s.lookupRead id l else lookupSee 2 id l emptyBucket s
      | none, _ => s)
  else if d.resp ≠ .okay then (if l.isSome then s.lookupMiss id 5 else s)
  else
    let ents := entsOf d.data
    if !whole ents then
      (match l with
        | some l =>
          if l.reread then (s.tblTorn b).lookupMiss id 6
          else
            let l := { l with reread := true }
            let s := if l.second then (s.bump64 CL_READ2_LO_COUNT CL_READ2_HI_COUNT).pcEvent 720 else s
            (s.setLookup id l).lookupRead id l
        | none => s)
    else
      let s := match s.cline b with
        | some _ => s
        | none => s.fill b ents
      match l with
      | some l => lookupSee 2 id l ((s.cline b).map (·.ents) |>.getD ents) s
      | none => s

/-! ## Update plans (R182 to R185) -/

/-- What an operation comes to over the buckets it knows: a bucket to read, or an end with its steps. -/
inductive Plan where
  | need (b : Nat)
  | done (status place moves : Nat) (steps : List UStep)
  deriving DecidableEq, Repr

/-- What the planner sees: the buckets known, counts and the stash. -/
structure PlanEnv where
  known : List (Nat × List Nat)
  disp : SMap Nat
  stash : List (Nat × Nat)
  deriving DecidableEq, Repr

def PlanEnv.bucket (v : PlanEnv) (b : Nat) : Option (List Nat) := (v.known.find? (fun e => e.1 == b)).map (·.2)
def PlanEnv.count (v : PlanEnv) (b : Nat) : Nat := mapGet (fun _ => 0) v.disp b

/-- A place where a key is: in a bucket (0 h1, 1 h2) with its slot, or in the stash (2). -/
structure Place where
  where_ : Nat
  bucket : Nat
  slot : Nat
  ent : Nat
  deriving DecidableEq, Repr

/-- Look for a key (R173): a bucket still to read, or where it is. -/
def PlanEnv.find (v : PlanEnv) (type h1 sig : Nat) : Nat ⊕ Option Place :=
  let stash : Option Place := ((List.range v.stash.length).find? (fun i =>
    let e := v.stash.getD i (0, 0)
    e.1 == h1 && entType e.2 == type && entSig e.2 == sig)).map (fun i => ⟨2, h1, i, (v.stash.getD i (0, 0)).2⟩)
  match v.bucket h1 with
  | none => .inl h1
  | some l1 => match matchIn l1 type sig 0 with
    | some e => .inr (some ⟨0, h1, e.1, e.2⟩)
    | none =>
      if v.count h1 = 0 then .inr stash
      else
        let h2 := altBucket h1 sig
        match v.bucket h2 with
        | none => .inl h2
        | some l2 => match matchIn l2 type sig 1 with
          | some e => .inr (some ⟨1, h2, e.1, e.2⟩)
          | none => .inr stash

/-- A chain of the search of R183: the buckets and slots its moves start from, first one first, and the bucket reached. -/
structure Chain where
  moves : List (Nat × Nat)
  cur : Nat
  deriving DecidableEq, Repr

/-- One move applied to buckets and counts: the entry at (x, slot) goes to the free slot of y. None where a count would pass 3. -/
def moveStep (v : PlanEnv) (x slot y : Nat) : Option (PlanEnv × List UStep) :=
  match v.bucket x, v.bucket y with
  | some lx, some ly =>
    let e := lx.getD slot 0
    match freeSlot ly with
    | none => none
    | some j =>
      let out := entAlt e == 0
      let ly2 := ly.set j (setAlt e (b2n out))
      let lx2 := lx.set slot 0
      let known := ((y, ly2) :: (x, lx2) :: v.known.filter (fun k => k.1 != x && k.1 != y))
      if out then
        (if v.count x ≥ 3 then none
         else some ({ v with known := known, disp := mapSet (fun _ => 0) v.disp x (v.count x + 1) },
                    [.count x (v.count x + 1), .write y ly2, .write x lx2, .occ 0 1]))
      else some ({ v with known := known, disp := mapSet (fun _ => 0) v.disp y (v.count y - 1) },
                 [.write y ly2, .write x lx2, .count y (v.count y - 1), .occ 0 (-1)])
  | _, _ => none

/-- Moves made from the end of a chain backwards: `targets` are the buckets the moves go to. -/
def runMoves (v : PlanEnv) : List (Nat × Nat × Nat) → Option (PlanEnv × List UStep)
  | [] => some (v, [])
  | m :: r => match runMoves v r with
    | none => none
    | some (w, a) => (moveStep w m.1 m.2.1 m.2.2).map (fun z => (z.1, a ++ z.2))

/-- Place a new entry in h1 or h2 (R183, steps 1 and 2): none where it cannot go there. -/
def placeAt (v : PlanEnv) (h1 b ent : Nat) : Option (List UStep) :=
  match v.bucket b with
  | none => none
  | some l => match freeSlot l with
    | none => none
    | some j =>
      if b = h1 then some [.write b (l.set j (setAlt ent 0)), .occ 1 0]
      else if v.count h1 ≥ 3 then none
      else some [.count h1 (v.count h1 + 1), .write b (l.set j (setAlt ent 1)), .occ 1 1]

/-- The moves of a chain that ends in `y`, as (from, slot, to). -/
def chainMoves (c : Chain) (y : Nat) : List (Nat × Nat × Nat) :=
  let dests := (c.moves.drop 1).map (·.1) ++ [y]
  List.zipWith (fun m t => (m.1, m.2, t)) c.moves dests

/-- A complete chain with its entry placed, where every count stays at 3 or below (R183). -/
def chainPlan (v : PlanEnv) (h1 ent : Nat) (c : Chain) (y : Nat) : Option (List UStep) :=
  match runMoves v (chainMoves c y) with
  | none => none
  | some (w, a) => (placeAt w h1 ((c.moves.headD (h1, 0)).1) ent).map (fun z => a ++ z)

/-- What a search over slots comes to: a bucket to read, a plan, or the chains of the next depth. -/
inductive Probe where
  | need (b : Nat)
  | found (moves : Nat) (steps : List UStep)
  | more (l : List Chain)
  deriving DecidableEq, Repr

/-- One slot of a chain's bucket (R183). -/
def probeSlot (v : PlanEnv) (h1 ent : Nat) (c : Chain) (slot : Nat) : Probe :=
  let e := ((v.bucket c.cur).getD emptyBucket).getD slot 0
  let y := otherBucket c.cur e
  if entType e = 0 ∨ y = c.cur ∨ c.moves.any (fun m => m.1 == y) then .more []
  else match v.bucket y with
    | none => .need y
    | some l =>
      let d : Chain := ⟨c.moves ++ [(c.cur, slot)], y⟩
      match freeSlot l with
      | some _ => (match chainPlan v h1 ent d y with
        | some a => .found d.moves.length a
        | none => .more [])
      | none => .more [d]

/-- Slots in ascending order, chains in the order reached. -/
def probeAll (v : PlanEnv) (h1 ent : Nat) : List (Chain × Nat) → Probe
  | [] => .more []
  | p :: r => match probeSlot v h1 ent p.1 p.2 with
    | .more a => (match probeAll v h1 ent r with
      | .more b => .more (a ++ b)
      | x => x)
    | x => x

/-- Breadth-first search by depth (R183, step 3). -/
def chainSearch (v : PlanEnv) (h1 ent : Nat) : Nat → List Chain → Probe
  | 0, _ => .more []
  | n + 1, l => match probeAll v h1 ent (l.flatMap (fun c => (List.range 4).map (fun i => (c, i)))) with
    | .more b => chainSearch v h1 ent n b
    | x => x

/-- `INSERT` of a key that is absent (R183). -/
def insertPlan (v : PlanEnv) (h1 ent maxMoves : Nat) : Plan :=
  let h2 := altBucket h1 (entSig ent)
  match placeAt v h1 h1 ent with
  | some a => .done sOK 0 0 a
  | none =>
    let try2 : Nat ⊕ Option (List UStep) := if v.count h1 < 3 then (match v.bucket h2 with
      | none => .inl h2
      | some _ => .inr (placeAt v h1 h2 ent)) else .inr none
    match try2 with
    | .inl b => .need b
    | .inr (some a) => .done sOK 1 0 a
    | .inr none =>
      let starts : List Chain := ⟨[], h1⟩ :: (if (v.bucket h2).isSome then [⟨[], h2⟩] else [])
      let last : Plan := if v.stash.length < 4096 then .done sOK 2 0 [.stash (v.stash ++ [(h1, setAlt ent 0)])] else .done sNORES 0 0 []
      if maxMoves = 0 then last
      else if (v.bucket h2).isNone then .need h2
      else match chainSearch v h1 ent maxMoves starts with
        | .need b => .need b
        | .found n a => .done sOK (if (a.any (fun u => match u with | .occ 1 1 => true | _ => false)) then 1 else 0) n a
        | .more _ => last

/-- `DELETE` of the entry at a place. -/
def deletePlan (v : PlanEnv) (h1 : Nat) (p : Place) : List UStep :=
  if p.where_ = 2 then [.stash (v.stash.eraseIdx p.slot)]
  else
    let l := ((v.bucket p.bucket).getD emptyBucket).set p.slot 0
    .write p.bucket l :: (if p.where_ = 1 then [.count h1 (v.count h1 - 1), .occ (-1) (-1)] else [.occ (-1) 0])

/-- `MODIFY` of the entry at a place. -/
def modifyPlan (v : PlanEnv) (p : Place) (vd : Nat) : List UStep :=
  let e := mkEnt (entType p.ent) (entSig p.ent) (entAlt p.ent) vd
  if p.where_ = 2 then [.stash (v.stash.set p.slot ((v.stash.getD p.slot (0, 0)).1, e))]
  else [.write p.bucket (((v.bucket p.bucket).getD emptyBucket).set p.slot e)]

/-- The first stash entry whose bucket has a free slot moves there (R171). -/
def migratePlan (v : PlanEnv) : Nat → List (Nat × Nat) → Plan
  | _, [] => .done sOK 0 0 []
  | i, e :: r =>
    match v.bucket e.1 with
    | none => .need e.1
    | some _ => match placeAt v e.1 e.1 e.2 with
      | some a => .done sOK 0 0 (a ++ [.stash (v.stash.eraseIdx i)])
      | none =>
        if v.count e.1 ≥ 3 then migratePlan v (i + 1) r
        else
          let h2 := altBucket e.1 (entSig e.2)
          match v.bucket h2 with
          | none => .need h2
          | some _ => match placeAt v e.1 h2 e.2 with
            | some a => .done sOK 1 0 (a ++ [.stash (v.stash.eraseIdx i)])
            | none => migratePlan v (i + 1) r

/-- The checks of R182 that come before the table is touched: a status, or none. -/
def State.updCheck (s : State) (o : UpdOp) : Option Nat :=
  let t := byteAt o.key 0
  let ctx := bits o.vd 0 12
  if o.op = 0 then (if s.is CL_CTRL_EN then none else some sSTATE)
  else if t = 0 ∨ 6 < t then some sBADARG
  else if (o.op = 1 ∨ o.op = 3) && (bits o.vd 33 3 ≥ 3 || (s.ctx ctx).state == cFREE || (s.poolQ ctx (bits o.vd 12 6) true).isNone) then some sBADARG
  else if !s.is CL_CTRL_EN then some sSTATE
  else none

/-- What the operation comes to (R182, R183), with the verdict a `QUERY` returns. -/
def State.updPlan (s : State) (o : UpdOp) : Plan × Nat :=
  let v : PlanEnv := ⟨o.known, s.tbl.disp, s.tbl.stash⟩
  if o.op = 0 then (migratePlan v 0 s.tbl.stash, 0)
  else
    let out := toeplitz (beNat o.key 0 40) s.hkey
    let h1 := hashH1 out
    let sig := hashSig out
    let t := byteAt o.key 0
    match v.find t h1 sig with
    | .inl b => (.need b, 0)
    | .inr none => (if o.op = 1 then insertPlan v h1 (mkEnt t sig 0 o.vd) (s.rd CL_LIMITS_MAX_MOVES) else .done sSTATE 0 0 [], 0)
    | .inr (some p) =>
      if o.op = 1 then (.done sSTATE 0 0 [], 0)
      else if o.op = 2 then (.done sOK p.where_ 0 (deletePlan v h1 p), 0)
      else if o.op = 3 then (.done sOK p.where_ 0 (modifyPlan v p o.vd), 0)
      else (.done sOK p.where_ 0 [], entVd p.ent)

/-! ## The engine -/

/-- The active operation is the oldest. -/
def State.setOp (s : State) (o : UpdOp) : State := { s with tbl := { s.tbl with ops := o :: s.tbl.ops.drop 1 } }

/-- `CL_OCC` and `CL_STASH.OCC` (R183). -/
def State.occReport (s : State) : State :=
  let s := (s.wr CL_OCC_ENTRIES s.tbl.entries).wr CL_OCC_ALT (min 63 (s.tbl.alts * 100 / max 1 s.tbl.entries))
  s.wr CL_STASH_OCC s.tbl.stash.length

/-- The working position whose area `TBL_SPARE` or `TBL_RESTORE` copies (R439). -/
def State.copyOf (s : State) : Option Nat := if (s.sv.op == 5 || s.sv.op == 6) && s.sv.step == 1 then some s.sv.arg else none

/-- The channel to which a copy goes. -/
def State.copyTo (s : State) (c : Nat) : Nat := if s.sv.op = 5 then 6 else c

/-- The other channel that takes a bucket's writes while its area is being copied (R439). -/
def State.copyChan (s : State) (b : Nat) : List Nat :=
  if s.copyOf = some (s.tblPos b) then [s.copyTo (s.tblPos b)].filter s.tblIssues else []

/-- A write of a bucket to its channels. -/
def State.putBucket (s : State) (b : Nat) (l : List Nat) : State :=
  s.each (s.tblChan b :: s.copyChan b) (fun s c =>
    match s.cline b, s.tbl.ops with
    | some x, o :: _ => ((s.setLine b { x with out := x.out + 1 }).setOp { o with writes := o.writes + 1 }).tblWriteOn .tblUpdWrite b 1 c l
    | _, _ => s)

/-- Reads of a bucket issued before its update instant are stale (R184), and one that still waits for a credit is not issued while the bucket's
own write is outstanding (R186): it comes back. -/
def State.staleReads (s : State) (b : Nat) : State :=
  let reads := s.fab.reqs.filter (fun (r : Req) => r.kind == .tblLookup && r.b == b)
  let marks := reads.map (fun (r : Req) => (r.a, b)) ++
    (s.fab.done.filter (fun (d : Deliv) => d.kind == .tblLookup && d.b == b)).map (fun (d : Deliv) => (d.a, b))
  let copying := s.fab.reqs.any (fun (r : Req) => r.kind == .tblCopyRead && r.b == b) ||
    s.fab.done.any (fun (d : Deliv) => d.kind == .tblCopyRead && d.b == b)
  let waits (r : Req) : Bool := r.kind == .tblLookup && r.b == b && r.tag.isNone
  let fab := { s.fab with reqs := s.fab.reqs.filter (fun r => !waits r), done := s.fab.done ++ (s.fab.reqs.filter waits).map Req.unissued }
  { s with fab := fab, tbl := { s.tbl with stale := s.tbl.stale ++ marks }, sv := { s.sv with copyStale := s.sv.copyStale || copying } }

/-- The update instant of a bucket (R184): its line takes the new entries, and the write goes out. -/
def State.updateInstant (s : State) (b : Nat) (l : List Nat) : State :=
  let s := s.staleReads b
  let x := (s.cline b).getD { ents := l, used := 0 }
  ((s.setLine b { x with ents := l }).touch b).putBucket b l

/-- Does every line of the set pin a failed write? -/
def State.allFailed (s : State) (b : Nat) : Bool := (s.setOf b).all (fun e => e.2.failed && e.2.out == 0)

/-- The entries of bucket `b` as the engine knows them. -/
def State.entsNow (s : State) (o : UpdOp) (b : Nat) : List Nat :=
  match s.cline b with
  | some x => x.ents
  | none => ((o.known.find? (fun e => e.1 == b)).map (·.2)).getD emptyBucket

/-- A write has failed for good: the operation ends `FAULT`, and what it has done is undone, so that the table is as it was (R182). -/
def State.updFail (s : State) (o : UpdOp) : State :=
  s.setOp (if o.back then o else { o with status := sFAULT, todo := o.undo, undo := [], back := true })

/-- A step is done and what undoes it noted. -/
def State.undoWith (s : State) (u : UStep) : State :=
  match s.tbl.ops with
  | o :: _ => if o.back then s else s.setOp { o with undo := u :: o.undo }
  | [] => s

/-- A bucket that cannot be written keeps its entries in a pinned line. -/
def State.pinLine (s : State) (b : Nat) (l : List Nat) : State :=
  match s.lineRoom b with
  | some t => t.setLine b { ents := l, used := t.tbl.clock, failed := true }
  | none => s

/-- The steps of the active operation as far as they can go (R184): the rest waits for a way to unpin. Undoing an operation writes no bucket
whose write has failed for good: its line, which stays pinned, takes the old entries (R182, R184; log entry 109). -/
def updSteps : List UStep → State → State
  | [], s => match s.tbl.ops with
    | o :: _ => s.setOp { o with todo := [] }
    | [] => s
  | u :: r, s =>
    match s.tbl.ops with
    | [] => s
    | o :: _ =>
      match u with
      | .count b v =>
        updSteps r (({ s with tbl := { s.tbl with disp := mapSet (fun _ => 0) s.tbl.disp b v } } : State).undoWith (.count b (mapGet (fun _ => 0) s.tbl.disp b)))
      | .occ e a =>
        updSteps r (({ s with tbl := { s.tbl with entries := ((s.tbl.entries : Int) + e).toNat, alts := ((s.tbl.alts : Int) + a).toNat } } :
          State).occReport.undoWith (.occ (-e) (-a)))
      | .stash l =>
        let t := (({ s with tbl := { s.tbl with stash := l } } : State).occReport.undoWith (.stash s.tbl.stash))
        updSteps r (if s.tbl.stash.length ≤ s.rd CL_STASH_HI_WM ∧ s.rd CL_STASH_HI_WM < l.length ∧ o.back = false then t.raise CL_EVT_STASH_HI else t)
      | .write b l =>
        if o.back && ((s.cline b).map (·.failed)).getD false then
          updSteps r (match s.cline b with
            | some x => s.setLine b { x with ents := withVer l (entVer (x.ents.headD 0)) }
            | none => s)
        else if !s.tblIssues (s.tblChan b) then
          (if o.back then updSteps r (s.pinLine b l) else s.updFail o)
        else match s.lineRoom b with
        | some t =>
          let old := s.entsNow o b
          updSteps r ((t.updateInstant b (withVer l (entVer (old.headD 0) + 1))).undoWith (.write b old))
        | none => if !s.allFailed b then s.setOp { o with todo := u :: r } else if o.back then updSteps r s else s.updFail o

/-- The active operation ends (R182, R253). -/
def State.updEndOp (s : State) : State :=
  match s.tbl.ops with
  | [] => s
  | o :: r =>
    let s := (({ s with tbl := { s.tbl with ops := r } } : State).pcEvent 722).bgDone 0 0
    let s := if r.isEmpty then s else s.bgBegin 0 0
    if o.op = 0 then s
    else match o.cmd with
      | some id => s.cmdDone id o.status (if o.status ≠ sOK then 0
        else if o.op = 4 then o.vd / 2 ^ 12 + 2 ^ 32 * (o.vd % 2 ^ 12) + 2 ^ 48 * o.place
        else if o.op = 1 then o.place + 4 * o.moves else 0)
      | none =>
        let s := (((s.wr CL_UPD_STAT_BUSY 0).wr CL_UPD_STAT_STATUS o.status).wr CL_UPD_STAT_WHERE o.place).wr CL_UPD_STAT_MOVES o.moves
        let s := if o.op = 4 ∧ o.status = sOK then
            ((((((s.wr CL_UPD_VD_LO_CTX (bits o.vd 0 12)).wr CL_UPD_VD_LO_RXQ (bits o.vd 12 6)).wr CL_UPD_VD_LO_METER (bits o.vd 18 14)).wr
              CL_UPD_VD_HI_MEN (bitN o.vd 32)).wr CL_UPD_VD_HI_ACTION (bits o.vd 33 3)).wr CL_UPD_VD_HI_CLASS (bits o.vd 36 3)).wr
              CL_UPD_VD_HI_CLS_OVR (bitN o.vd 39)
          else s
        s.raise CL_EVT_UPD_DONE

/-- The active operation is decided: its steps are made. -/
def State.updDecide (s : State) (o : UpdOp) (status place moves : Nat) (steps : List UStep) (vd : Nat) : State :=
  updSteps steps (s.setOp { o with decided := true, status := status, place := place, moves := moves, vd := if o.op = 4 then vd else o.vd })

/-- Work on the operations: plan, read, make steps, end; `fuel` bounds the buckets taken from the cache in one go. -/
def updWork : Nat → State → State
  | 0, s => s
  | n + 1, s =>
    match s.tbl.ops with
    | [] => s
    | o :: _ =>
      if o.decided then
        (if o.todo ≠ [] then (let t := updSteps o.todo s; if t.tbl.ops == s.tbl.ops then s else updWork n t)
         else if o.writes ≠ 0 then s
         else updWork n s.updEndOp)
      else if o.reading.isSome then s
      else match s.updCheck o with
        | some st => updWork n (s.setOp { o with decided := true, status := st })
        | none => match s.updPlan o with
          | (.done st p m a, vd) => updWork n (s.updDecide o st p m a vd)
          | (.need b, _) =>
            match s.cline b with
            | some c => updWork n ((((s.setOp { o with known := o.known ++ [(b, c.ents)] }).bump64 CL_CACHE_HIT_LO_COUNT CL_CACHE_HIT_HI_COUNT).pcEvent 718).touch b)
            | none =>
              if s.bucketServed b then
                ((s.setOp { o with reading := some b, reread := false }).pcEvent 719).tblRead .tblUpdRead 0 b
              else updWork n (s.setOp { o with decided := true, status := sFAULT })

/-- An operation joins the queue (R182). -/
def State.updQueue (s : State) (o : UpdOp) : State :=
  let s := if s.tbl.ops.isEmpty then s.bgBegin 0 0 else s
  updWork 100000 { s with tbl := { s.tbl with ops := s.tbl.ops ++ [o] } }

/-- The engine's read has answered (R182, R186). -/
def State.updAnswer (s : State) (d : Deliv) : State :=
  match s.tbl.ops with
  | [] => s
  | o :: _ =>
    if o.reading ≠ some d.b then s
    else if d.resp ≠ .okay then
      updWork 100000 ((if d.resp = .unissued then s else s.tblErr (d.x - 9)).setOp { o with reading := none, decided := true, status := faultOf d.resp })
    else
      let ents := entsOf d.data
      if whole ents then updWork 100000 (s.setOp { o with reading := none, known := o.known ++ [(d.b, ents)] })
      else if o.reread then updWork 100000 ((s.tblTorn d.b).setOp { o with reading := none, decided := true, status := sFAULT })
      else (s.setOp { o with reread := true }).tblRead .tblUpdRead 0 d.b

/-! ## The copy of R439 -/

/-- How many buckets lie on working position `c`. -/
def State.copyTotal (s : State) (c : Nat) : Nat :=
  let n := s.tblWorking.length
  let i := s.tblWorking.findIdx (· == c)
  if n = 0 then 0 else (8388608 - i + n - 1) / n

/-- Bucket `i` of position `c`. -/
def State.copyBucket (s : State) (c i : Nat) : Nat := i * s.tblWorking.length + s.tblWorking.findIdx (· == c)

/-- The next bucket of the copy is read. -/
def State.copyNextRead (s : State) : State :=
  match s.copyOf with
  | none => s
  | some c =>
    if s.copyTotal c ≤ s.sv.copyNext then s
    else
      ({ s with sv := { s.sv with copyNext := s.sv.copyNext + 1, copyStale := false } } : State).tblRead .tblCopyRead s.sv.run
        (s.copyBucket c s.sv.copyNext)

/-- A copy that has failed ends its operation, with the channel in service as it was (R439). -/
def State.copyFailed (s : State) : State :=
  (if s.sv.op = 6 then ({ s with fab := s.fab.down (· == 9 + s.sv.arg) } : State).pump else s).svEnd sFAULT

/-- A copy read has answered: the bucket is written to the other channel, as the cache holds it where it does; it is read again where
it was updated in between. A failure ends the operation (R439). -/
def State.copyAnswer (s : State) (d : Deliv) : State :=
  let s := if d.resp = .okay ∨ d.resp = .unissued then s else s.tblErr (d.x - 9)
  match s.copyOf with
  | none => s
  | some c =>
    if d.a ≠ s.sv.run then s
    else if d.resp ≠ .okay then s.copyFailed
    else match s.cline d.b with
      | some l => s.tblWriteOn .tblCopyWrite d.b s.sv.run (s.copyTo c) l.ents
      | none =>
        if s.sv.copyStale then ({ s with sv := { s.sv with copyStale := false } } : State).tblRead .tblCopyRead d.a d.b
        else s.tblWriteOn .tblCopyWrite d.b s.sv.run (s.copyTo c) (entsOf d.data)

/-- A copy write has answered. -/
def State.copyWritten (s : State) (d : Deliv) : State :=
  let s := if d.resp = .okay ∨ d.resp = .unissued then s else s.tblErr (d.b % 8)
  if s.copyOf.isNone || d.b / 8 ≠ s.sv.run then s
  else if d.resp ≠ .okay then s.copyFailed
  else (s.wr SV_COPY_BUCKETS (s.rd SV_COPY_BUCKETS + 1)).copyNextRead

/-! ## Rows -/

/-- The oldest answered read of a bucket acts (R178, R184, R186, R439). -/
def execTableReadResponse (s : State) : Host.Outcome State Fault Refusal :=
  .next (
    if !s.islandRuns 7 then s
    else match takeFirst (fun (d : Deliv) => d.kind == .tblLookup || d.kind == .tblUpdRead || d.kind == .tblCopyRead) s.fab.done with
    | none => s
    | some (d, rest) =>
      let s := { s with fab := { s.fab with done := rest } }
      match d.kind with
      | .tblLookup => s.lookupAnswer d
      | .tblUpdRead => s.updAnswer d
      | _ => s.copyAnswer d)

/-- The answer of a bucket write (R184): up to three tries; the line unpins when its last write returns `OKAY`, and a third failure undoes
the operation (R182). Where a clear has taken the line, the clear's own write of the bucket follows, and this one is done with (R188). -/
def State.updWritten (s : State) (d : Deliv) : State :=
  let b := d.a
  let c := d.b % 8
  let tries := d.b / 8
  let ok := d.resp == .okay
  let s := if ok || d.resp == .unissued then s else s.tblErr c
  match s.cline b, s.tbl.ops with
  | some x, o :: _ =>
    if !ok && tries < 3 && d.resp != .unissued then s.tblWriteOn .tblUpdWrite b (tries + 1) c x.ents
    else
      let s := s.setLine b { x with out := x.out - 1, failed := if ok then false else true }
      let o := { o with writes := o.writes - 1 }
      updWork 100000 (if ok then s.setOp o else (s.setOp o).updFail o)
  | none, o :: _ => updWork 100000 (s.setOp { o with writes := o.writes - 1 })
  | _, [] => s

/-- Write a bucket empty for the clear (R188), on both channels while its area is being copied (R439): lookup reads issued before are stale, and no
line keeps what was there (R184). `tries` counts the writes on a channel, from 4 on for those of the copy's. -/
def State.clearWrite (s : State) (b : Nat) : State :=
  let s := s.staleReads b
  let own := s.tblChan b
  let also := s.copyChan b
  let s := ({ s with tbl := { s.tbl with cache := mapErase b s.tbl.cache } } : State).tblWriteOn .tblClear b 1 own emptyBucket
  s.each also (fun s c => s.tblWriteOn .tblClear b 5 c emptyBucket)

/-- A bucket write of the clear has returned (R188): one that failed is issued again, up to three times in all; a third failure keeps
the bucket's line pinned, empty. The channel's next bucket follows (log entry 28). -/
def State.clearWritten (s : State) (d : Deliv) : State :=
  let b := d.a
  let tries := d.b / 8
  let ok := d.resp == .okay
  let s := if ok then s else s.tblErr (d.b % 8)
  if !ok && tries % 4 < 3 then (s.staleReads b).tblWriteOn .tblClear b (tries + 1) (d.b % 8) emptyBucket
  else
    let s := if ok then s else s.pinLine b emptyBucket
    let next := b + s.tblWorking.length
    if tries < 4 ∧ next < 2 ^ 23 then s.clearWrite next else s

/-- The oldest answered write of a bucket acts (R184, R188, R439). -/
def execUpdateWriteResponse (s : State) : Host.Outcome State Fault Refusal :=
  .next (
    if !s.islandRuns 7 then s
    else match takeFirst (fun (d : Deliv) => d.kind == .tblUpdWrite || d.kind == .tblClear || d.kind == .tblCopyWrite) s.fab.done with
    | none => s
    | some (d, rest) =>
      let s := { s with fab := { s.fab with done := rest } }
      match d.kind with
      | .tblUpdWrite => s.updWritten d
      | .tblClear => s.clearWritten d
      | _ => s.copyWritten d)

/-- Entries leave the stash in the background (R171). -/
def execStashMigrate (s : State) : Host.Outcome State Fault Refusal :=
  .next (if s.tbl.ops.isEmpty && !s.tbl.stash.isEmpty && s.is CL_CTRL_EN && s.islandRuns 7 then s.updQueue ⟨0, [], 0, none, [], none, false, [], 0, false, 0, 0, 0, [], false⟩ else s)

/-- Count a refused write. -/
def State.clReject (s : State) : State := s.bump CL_CFG_REJ_COUNT

/-- An operation of the `CL_UPD` registers (R182). -/
def State.clUpd (s : State) (op : Nat) : State :=
  if s.is CL_UPD_STAT_BUSY || op = 0 || 5 ≤ op then s.clReject
  else
    let key := (List.range 10).flatMap (fun w => leBytes 4 (s.rd (CL_UPD_KEY_KEY w)))
    let vd := s.readPlain 0x080328 + 2 ^ 32 * (s.readPlain 0x08032C)
    (s.raise CL_UPD_STAT_BUSY).updQueue ⟨op, key, vd, none, [], none, false, [], 0, false, 0, 0, 0, [], false⟩

def State.clUpdRow (s : State) (w : Who) (op : Nat) : State := s.guardWrite w 0x080330 (·.clUpd op)

/-- R182. -/
def execClInsert (w : Who) (s : State) : Host.Outcome State Fault Refusal := .next (s.clUpdRow w 1)
/-- R182. -/
def execClDelete (w : Who) (s : State) : Host.Outcome State Fault Refusal := .next (s.clUpdRow w 2)
/-- R182. -/
def execClModify (w : Who) (s : State) : Host.Outcome State Fault Refusal := .next (s.clUpdRow w 3)
/-- R182. -/
def execClQuery (w : Who) (s : State) : Host.Outcome State Fault Refusal := .next (s.clUpdRow w 4)

/-- The clear of R188 begins: the first bucket of each channel is written (log entry 28). What an operation had still to do to the table is done with. -/
def State.clClear (s : State) : State :=
  let ops := s.tbl.ops.map (fun (o : UpdOp) => if o.decided then { o with todo := [], undo := [] } else { o with known := [] })
  let tbl := { s.tbl with cache := [], stash := [], disp := [], entries := 0, alts := 0, cleared := false, ops := ops }
  let s := (({ s with tbl := tbl } : State).occReport).raise CL_CTRL_CLEAR_BUSY
  s.each (List.range s.tblWorking.length) (fun s b => s.clearWrite b)

/-- Smallest `TBL_MIB` that R170 allows. -/
def State.tblNeed (s : State) : Nat :=
  let n := s.tblWorking.length
  (((8388608 + n - 1) / n) * 64 + 2 ^ 20 - 1) / 2 ^ 20

/-- The reason for which `EN` is refused (R170): a channel that is too small shows before a clear that has not completed (log entry 133). -/
def State.enRefuse (s : State) : Nat :=
  if s.tblWorking = [] then 2
  else if s.tblWorking.any (fun c => s.sdField (0x0C8 + 16 * c) 0 32 < s.tblNeed) then 1
  else if !s.tbl.cleared then 3
  else 0

/-- A write of `CL_CTRL` (R170, R188): `EN` is judged as it stood before. -/
def State.clCtrl (s : State) (v : Nat) : State :=
  let en := s.is CL_CTRL_EN
  let s := s.wr CL_CTRL_PUNT_RXQ (bits v 16 6)
  let s := if bitN v 1 = 0 then s else if en || s.is CL_CTRL_CLEAR_BUSY then s.clReject else s.clClear
  if bitN v 0 = 0 then { s.wr CL_CTRL_EN 0 with sv := { s.sv with rebuild := none } }
  else if en then s
  else if s.enRefuse = 0 then s.raise CL_CTRL_EN
  else (s.wr CL_CTRL_CFG_ERR s.enRefuse).clReject

/-- A write of `CL_CTRL` with `EN` = 1 (R170). -/
def execClEnable (w : Who) (v : Word) (s : State) : Host.Outcome State Fault Refusal :=
  .next (s.guardWrite w 0x080000 (·.clCtrl (v.toNat ||| 1)))

/-- A write of `CL_CTRL` with `CLEAR` = 1 (R188). -/
def execClClear (w : Who) (v : Word) (s : State) : Host.Outcome State Fault Refusal :=
  .next (s.guardWrite w 0x080000 (·.clCtrl (v.toNat ||| 2)))

/-- Every bucket write of the clear has ended (R188). -/
def execClClearDone (s : State) : Host.Outcome State Fault Refusal :=
  .next (
    if !s.is CL_CTRL_CLEAR_BUSY || s.awaits .tblClear || !s.islandRuns 7 then s
    else { s.wr CL_CTRL_CLEAR_BUSY 0 with tbl := { s.tbl with cleared := true } })

/-- Register writes of the classifier (R168, R182). -/
def State.clWrite (s : State) (off v : Nat) : State :=
  if off = 0x080000 then s.clCtrl v
  else if 0x080010 ≤ off ∧ off < 0x080048 then
    (if s.is CL_CTRL_EN then s.clReject
     else
      let t := s.writePlain off v
      if t.flds == s.flds then t else { t with tbl := { t.tbl with cleared := false } })
  else if off = 0x080330 then s.clUpd (v % 8)
  else if 0x080100 ≤ off ∧ off < 0x080180 then s.writeKept off v
  else if 0x080300 ≤ off ∧ off < 0x080330 then (if s.is CL_UPD_STAT_BUSY then s.clReject else s.writePlain off v)
  else s.writePlain off v

end Sys2Proof.Machine
end

