-- ==== Sys2Proof/Machine/Meters.lean ====
section
/-! DEFINITION. Meters (R189 to R197). Colours: 0 green, 1 yellow, 2 red. -/

namespace Sys2Proof.Machine

def State.meter (s : State) (i : Nat) : MeterSt := mapGet (fun _ => {}) s.meters i
def State.setMeter (s : State) (i : Nat) (m : MeterSt) : State := { s with meters := mapSet (fun _ => {}) s.meters i m }

/-- The refill period of a core cycle (R193). -/
def periodOf (cyc : Nat) : Nat := cyc / 2048

/-- The credit of every period elapsed (R193): tokens above the burst are discarded. -/
def MeterSt.refill (m : MeterSt) (p : Nat) : MeterSt :=
  let e := p - m.period
  let c := m.tokC + e * m.cir
  let q := m.tokP + e * m.pir
  { m with period := p, tokC := min c (256 * m.cbs), tokP := min q (256 * m.pbs),
           credC := m.credC + (e * m.cir : Nat), discC := m.discC + (c - min c (256 * m.cbs) : Nat),
           credP := m.credP + (e * m.pir : Nat), discP := m.discP + (q - min q (256 * m.pbs) : Nat) }

/-- Tokens spent, in 1/256 byte. -/
def MeterSt.spendC (m : MeterSt) (b : Nat) : MeterSt := { m with tokC := m.tokC - b, spentC := m.spentC + b }
def MeterSt.spendP (m : MeterSt) (b : Nat) : MeterSt := { m with tokP := m.tokP - b, spentP := m.spentP + b }

/-- The colour of a frame of `len` bytes and what it spends (R190). -/
def MeterSt.colour (m : MeterSt) (len : Nat) (yellow : Bool) : Nat × MeterSt :=
  let b := 256 * len
  let pre := m.aware && yellow
  if m.alg = 1 then
    (if m.tokP < b then (2, m)
     else if pre ∨ m.tokC < b then (1, m.spendP b)
     else (0, (m.spendP b).spendC b))
  else if m.alg = 2 then
    (if !pre && b ≤ m.tokC then (0, m.spendC b)
     else if b ≤ m.tokP then (1, m.spendP b)
     else (2, m))
  else (0, m)

/-- Does credited = spent + held + discarded hold for both buckets (R196)? -/
def MeterSt.audit (m : MeterSt) : Bool :=
  (m.credC - m.spentC - m.tokC - m.discC) % 2 ^ 64 == 0 && (m.credP - m.spentP - m.tokP - m.discP) % 2 ^ 64 == 0

/-- A meter changes, audited (R196). -/
def State.meterSet (s : State) (i : Nat) (m : MeterSt) : State :=
  let s := s.setMeter i m
  if m.audit then s
  else (if s.is CL_EVT_MT_AUDIT then s else s.wr MT_AUDIT_IDX_METER i).raise CL_EVT_MT_AUDIT

/-- A frame is metered (R189 to R191): its colour, with what the meter counts (R197). -/
def State.meterFrame (s : State) (i len : Nat) (yellow : Bool) : Nat × State :=
  let r := ((s.meter i).refill (periodOf s.tm.cyc)).colour len yellow
  let s := s.meterSet i r.2
  let s := s.bump64 (MT_CNT_LO_COUNT i (2 * r.1)) (MT_CNT_HI_COUNT i (2 * r.1))
  (r.1, s.bump64 (MT_CNT_LO_COUNT i (2 * r.1 + 1)) (MT_CNT_HI_COUNT i (2 * r.1 + 1)) len)

/-- Is a load refused (R194)? -/
def State.meterRefuse (s : State) : Bool :=
  let a := s.rd MT_MODE_ALG
  a == 3 || (a == 1 && s.rd MT_PIR_PIR < s.rd MT_CIR_CIR) || (a != 0 && (s.rd MT_CBS_CBS == 0 || s.rd MT_PBS_PBS == 0))

/-- Tokens of a bucket at a load (R194): filled, or clipped. Answers tokens, credited, discarded. -/
def loadBucket (fill : Bool) (tok burst : Nat) : Nat × Nat × Nat :=
  if fill then (max tok (256 * burst), 256 * burst - tok, 0) else (tok, 0, 0)

/-- A bucket after a load: at most its burst. -/
def clipBucket (b : Nat × Nat × Nat) (burst : Nat) : Nat × Nat × Nat := (min b.1 (256 * burst), b.2.1, b.2.2 + (b.1 - 256 * burst))

/-- `MT_CMD.WRITE` (R194). -/
def State.meterLoad (s : State) : State :=
  if s.meterRefuse then s.raise MT_CMD_ERR
  else
    let i := s.rd MT_SEL_METER
    let m := (s.meter i).refill (periodOf s.tm.cyc)
    let f := s.is MT_MODE_FILL
    let c := clipBucket (loadBucket f m.tokC (s.rd MT_CBS_CBS)) (s.rd MT_CBS_CBS)
    let p := clipBucket (loadBucket f m.tokP (s.rd MT_PBS_PBS)) (s.rd MT_PBS_PBS)
    let m := { m with alg := s.rd MT_MODE_ALG, aware := s.is MT_MODE_AWARE, redAct := s.is MT_MODE_RED_ACT,
                      cir := s.rd MT_CIR_CIR, cbs := s.rd MT_CBS_CBS, pir := s.rd MT_PIR_PIR, pbs := s.rd MT_PBS_PBS,
                      tokC := c.1, tokP := p.1, credC := m.credC + c.2.1, credP := m.credP + p.2.1,
                      discC := m.discC + c.2.2, discP := m.discP + p.2.2 }
    (s.meterSet i m).wr MT_CMD_ERR 0

/-- `MT_CMD.READ` (R194): `MT_MODE` to `MT_TOK_P` show the meter; `FILL` belongs to no meter and stays. -/
def State.meterRead (s : State) : State :=
  let i := s.rd MT_SEL_METER
  let m := (s.meter i).refill (periodOf s.tm.cyc)
  let s := s.meterSet i m
  let s := ((s.wr MT_MODE_ALG m.alg).put MT_MODE_AWARE m.aware).put MT_MODE_RED_ACT m.redAct
  let s := (((s.wr MT_CIR_CIR m.cir).wr MT_CBS_CBS m.cbs).wr MT_PIR_PIR m.pir).wr MT_PBS_PBS m.pbs
  (s.wr MT_TOK_C_TOK m.tokC).wr MT_TOK_P_TOK m.tokP

/-- A write of `MT_CMD` (R194): `WRITE`, then `READ`. -/
def State.meterCmd (s : State) (v : Nat) : State :=
  let s := if bitN v 0 = 1 then s.meterLoad else s
  if bitN v 1 = 1 then s.meterRead else s

/-- `MT_CMD.WRITE`, with or without `READ` (R194). -/
def execMtWrite (w : Who) (read : Bool) (s : State) : Host.Outcome State Fault Refusal :=
  .next (s.guardWrite w 0x081018 (·.meterCmd (1 + 2 * b2n read)))

/-- `MT_CMD.READ` (R194). -/
def execMtRead (w : Who) (s : State) : Host.Outcome State Fault Refusal := .next (s.guardWrite w 0x081018 (·.meterCmd 2))

/-- Register writes of the meters. -/
def State.mtWrite (s : State) (off v : Nat) : State := if off = 0x081018 then s.meterCmd v else s.writePlain off v

end Sys2Proof.Machine
end

