-- ==== Sys2Proof/Machine/Sched.lean ====
section
/-! DEFINITION. Shapers and their shade sets, fair queuing and dispatch, time gates, the class level and the transmit MAC (R139,
R143 to R150, R154, R207 to R222). -/

namespace Sys2Proof.Machine

/-! ## Shapers (R209, R210, R218) -/

def State.shap (s : State) (i : Nat) : ShapSt := mapGet (fun _ => {}) s.shaps i
def State.putShap (s : State) (i : Nat) (x : ShapSt) : State := { s with shaps := mapSet (fun _ => {}) s.shaps i x }

/-- Does credited = spent + held + discarded hold (R210)? -/
def ShapSt.audit (x : ShapSt) : Bool := (x.cred - x.spent - x.tok - x.disc) % 2 ^ 64 == 0

/-- A shaper changes, audited (R210). -/
def State.setShap (s : State) (i : Nat) (x : ShapSt) : State :=
  let s := s.putShap i x
  if x.audit then s
  else (if s.is SC_EVT_TOK_AUDIT then s else s.wr SC_AUDIT_IDX_INDEX i).raise SC_EVT_TOK_AUDIT

/-- Tokens above the burst are discarded (R209). -/
def ShapSt.clip (x : ShapSt) : ShapSt :=
  let m : Int := 256 * x.burst
  if x.tok > m then { x with tok := m, disc := x.disc + (x.tok - m) } else x

/-- The credit of `e` refills (R209). -/
def ShapSt.refill (x : ShapSt) (e : Nat) : ShapSt :=
  if x.shape then ({ x with tok := x.tok + (e * x.rate : Nat), cred := x.cred + (e * x.rate : Nat) } : ShapSt).clip else x

/-- A dispatch spends `len` bytes (R209). -/
def ShapSt.spend (x : ShapSt) (len : Nat) : ShapSt :=
  if x.shape then { x with tok := x.tok - (256 * len : Nat), spent := x.spent + (256 * len : Nat) } else x

/-- May a frame pass (R209)? -/
def ShapSt.passes (x : ShapSt) : Bool := !x.shape || 0 ≤ x.tok

/-- The shade set taken over as live values (R218): a queue. -/
def ShapSt.handQueue (x : ShapSt) (e : Nat) : ShapSt :=
  (({ x with rate := x.sRate, burst := x.sBurst, shape := bitN x.sMap 8 == 1 } : ShapSt).clip).refill e

/-- A tenant (R218): after the credit the tokens are the burst or zero. -/
def ShapSt.handTenant (x : ShapSt) (e : Nat) : ShapSt :=
  let z : ShapSt := { x with
    rate := x.sRate
    burst := x.sBurst
    shape := bitN x.sTen 12 == 1
    weight := bits x.sTen 0 12
    fill := bitN x.sTen 13 == 1 }
  let y := z.clip.refill e
  let t : Int := if bitN x.sTen 13 = 1 then 256 * y.burst else 0
  if y.tok < t then { y with tok := t, cred := y.cred + (t - y.tok) } else { y with tok := t, disc := y.disc + (y.tok - t) }

/-- `e` refill instants pass up to instant `p` (R209, R218): a committed set is handed over at the first that follows the commit's cycle. -/
def ShapSt.instants (x : ShapSt) (tenant : Bool) (p e : Nat) : ShapSt × Bool :=
  let old := min e (x.commitAt / 2048 - (p - e))
  if !x.locked || old == e then (x.refill e, false)
  else
    let y := x.refill old
    let z := if tenant then (y.handTenant 1).refill (e - old - 1) else y.handQueue (e - old)
    ({ z with locked := false, gen := (x.gen + 1) % 256, cmd := none }, true)

/-! ## L1 nodes (R211, R212) -/

def tagMod : Nat := 2 ^ 48
def nodeKey (c k x : Nat) : Nat := (c * 8 + k) * 4096 + x
def State.node (s : State) (n : Nat) : NodeSt := mapGet (fun _ => {}) s.nodes n
def State.setNode (s : State) (n : Nat) (x : NodeSt) : State := { s with nodes := mapSet (fun _ => {}) s.nodes n x }
def State.virt (s : State) (ck : Nat) : Nat := mapGet (fun _ => 0) s.vtime ck

/-- The frame of a queue that goes next, where it is wholly in cells (R207). -/
def State.headReady (s : State) (n : Nat) : Option (Nat × TxFr) :=
  match (s.q n).order.find? (fun id => match s.txf id with
      | some f => f.stage == .accepted || f.stage == .fetching || f.stage == .ready
      | none => false) with
  | some id => (match s.txf id with
    | some f => if f.stage == .ready then some (id, f) else none
    | none => none)
  | none => none

/-- Is the frame at the head of queue `n` whole, and for class `k` of channel `c`? A frame keeps the mapping under which its data was
fetched (R218). -/
def State.headFor (s : State) (c k n : Nat) : Bool := match s.headReady n with
  | some h => h.2.chan == c && h.2.cls == k
  | none => false

/-- Frames of transmit queue `n` for (c, k) that lie wholly in cells (R211). -/
def State.wholeIn (s : State) (c k n : Nat) : List Nat :=
  (s.q n).order.filter (fun id => match s.txf id with
    | some f => f.stage == .ready && f.chan == c && f.cls == k
    | none => false)

/-- Transmit queues of context `x` that hold a frame for (c, k) wholly in cells: those that backlog the node (R211). -/
def State.nodeQueues (s : State) (c k x : Nat) : List Nat :=
  (s.qs.filter (fun e => e.1 < 32768 && e.2.owned && e.2.ctx == x && !(s.wholeIn c k e.1).isEmpty)).map (·.1)

/-- Is the node backlogged (R211)? -/
def State.backlogged (s : State) (c k x : Nat) : Bool := !(s.nodeQueues c k x).isEmpty

/-- Queues of the node that pass their shapers (R211): the node is eligible while there is one. -/
def State.passQueues (s : State) (c k x : Nat) : List Nat :=
  if (s.shap (32768 + x)).passes then (s.nodeQueues c k x).filter (fun n => (s.shap n).passes) else []

/-- Those of them whose head may go. -/
def State.openQueues (s : State) (c k x : Nat) : List Nat := (s.passQueues c k x).filter (s.headFor c k)

/-- The queue whose turn it is, ascending from the one served last (R211). -/
def turnAfter (last : Nat) (l : List Nat) : Option Nat := (l.find? (fun n => last < n)).or l.head?

/-- The greater of two tags by serial arithmetic. -/
def tagMax (a b : Nat) : Nat := if (b + tagMod - a) % tagMod < tagMod / 2 then b else a

/-- The finish tag of a node's head frame (R211). -/
def finishTag (start len weight : Nat) : Nat := (start + (len * 4096 + max 1 weight - 1) / max 1 weight) % tagMod

/-- The frame of the node whose turn it is. -/
def State.nodeHead (s : State) (c k x : Nat) : Option (Nat × Nat × TxFr) :=
  (turnAfter (s.node (nodeKey c k x)).last (s.openQueues c k x)).bind (fun n => (s.headReady n).map (fun h => (n, h)))

/-- The finish tag in force: the one assigned to this head frame, or, where none is, one under the present weight (R211, R218). -/
def State.nodeTag (s : State) (c k x id len : Nat) : Nat :=
  let n := s.node (nodeKey c k x)
  match n.f with
  | some (i, t) => if i = id then t else finishTag n.s len (s.shap (32768 + x)).weight
  | none => finishTag n.s len (s.shap (32768 + x)).weight

/-- The node assigns its head frame a finish tag. -/
def State.nodeAssign (s : State) (c k x : Nat) : State :=
  match s.nodeHead c k x with
  | some (_, id, f) => s.setNode (nodeKey c k x) { s.node (nodeKey c k x) with f := some (id, s.nodeTag c k x id f.len) }
  | none => s

/-- Frame `id` has become whole in its queue's cells. A node that held no frame wakes: its start tag is the virtual time, and earlier tags are
gone (R212). -/
def State.nodeWake (s : State) (id : Nat) : State :=
  match s.txf id with
  | none => s
  | some f =>
    let key := nodeKey f.chan f.cls f.ctx
    let others := (s.nodeQueues f.chan f.cls f.ctx).any (fun n => (s.wholeIn f.chan f.cls n).any (· != id))
    if f.stage ≠ .ready ∨ others = true then s
    else s.setNode key { s.node key with s := s.virt (f.chan * 8 + f.cls), f := none, out := false }

/-- Nodes that carry tags or hold a frame wholly in cells. -/
def State.nodeKeys (s : State) : List Nat :=
  ((s.txs.filter (fun e => e.2.stage == .ready)).map (fun e => nodeKey e.2.chan e.2.cls e.2.ctx) ++ s.nodes.map (·.1)).eraseDups

/-- Nodes lose or regain eligibility through a shaper (R212), and their heads have their finish tags. -/
def State.nodesRefresh (s : State) : State :=
  s.each s.nodeKeys (fun s key =>
    let x := key % 4096
    let k := key / 4096 % 8
    let c := key / 32768
    if !s.backlogged c k x then s
    else
      let n := s.node key
      let ok := !(s.passQueues c k x).isEmpty
      let v := tagMax n.s (s.virt (c * 8 + k))
      let s := if ok && n.out then s.setNode key { n with out := false, s := v, f := if v = n.s then n.f else none }
        else if !ok && !n.out then s.setNode key { n with out := true }
        else s
      s.nodeAssign c k x)

/-- The node that goes next in (c, k): context, queue, frame, finish tag. -/
def State.pickNode (s : State) (c k : Nat) : Option (Nat × Nat × Nat × Nat) :=
  let xs := ((s.qs.filter (fun e => e.1 < 32768 && e.2.owned && s.headFor c k e.1)).map (fun e => e.2.ctx)).eraseDups
  let v := s.virt (c * 8 + k)
  let cands := xs.filterMap (fun x => (s.nodeHead c k x).map (fun h => (x, h.1, h.2.1, s.nodeTag c k x h.2.1 h.2.2.len)))
  match cands with
  | [] => none
  | e :: r =>
    let d (z : Nat × Nat × Nat × Nat) : Nat := (z.2.2.2 + tagMod - v + tagMod / 2) % tagMod
    some (r.foldl (fun a b => if d b < d a ∨ (d b = d a ∧ b.1 < a.1) then b else a) e)

/-! ## Dispatch (R211, R213, R214) -/

/-- Is channel `c` able to carry the frames of its queues (R208)? -/
def State.chanServes (s : State) (c : Nat) : Bool :=
  if s.tMode (c / 8) then s.portOn (c / 8) && (s.boundGroup c).isSome else s.chanOn c

/-- Room in the staging of channel `c` for a frame of class `k` (R213). -/
def State.stagingFits (s : State) (c k len : Nat) : Bool :=
  let cls := s.stagedBytes c k
  let all := s.chanBytes c
  (cls == 0 || cls + len ≤ 1024 * (s.ch c).clsLive) && (all == 0 || all + len ≤ 1024 * (s.ch c).stgLive)

/-- Words of frames on their way to staging that stand in the crossing from the core island to port `p`'s slice (R17). -/
def State.toSlice (s : State) (p : Nat) : Nat :=
  let l := s.txs.filter (fun e => e.2.chan / 8 == p && e.2.stage == .dispatched && (s.stagedOf e.2.chan e.2.cls).contains e.1)
  dpWords ((l.head?.map (fun e => e.2.dp)).getD 0) (l.foldl (fun n e => n + dpBytes e.2.len) 0)

/-- Is dispatch to channel `c` held (R214, R419, R431), or its crossing full (R18)? -/
def State.dispatchHeld (s : State) (c : Nat) : Bool :=
  s.is (LN_CHAN_STAT_RF_RX c) || s.pwParked || s.sv.held.getLsbD (c / 8) || s.leftOut (c / 8) || decide (32 ≤ s.toSlice (c / 8))

/-- A frame joins the staging list of a channel: its words enter the crossing to the slice, packed behind the frame before it (R17, R23). -/
def State.stage (s : State) (c k id : Nat) : State :=
  let s := (s.setStaged c k (s.stagedOf c k ++ [id])).refreshStaged c
  match s.txf id, s.sliceOf (c / 8) with
  | some f, some i =>
    let dp := mapGet (fun _ => 0) s.sys.dpTx i
    let s : State := { s with sys := { s.sys with dpTx := mapSet (fun _ => 0) s.sys.dpTx i ((dp + dpBytes f.len) % 128) } }
    (s.setTx id { f with dp := dp, marks := frameMarks dp f.len c }).crossed (320 + i) (min 32 (s.toSlice (c / 8)))
  | _, _ => s

/-- The channels a frame of channel `c` goes to: both of a pair (R120). -/
def State.destChans (s : State) (c : Nat) : List Nat :=
  match s.pairOfChan c with
  | some (k, _) => [c, s.rd (GP_GRP_CFG_CHAN (s.prot k))]
  | none => [c]

/-- The stream position of a frame for a pair (R120): from the end of the last one and its idles on, in steps of 4 bytes, the first that lies
`LEAD_NS` ahead of the position being transmitted: of the next segment to be built (log entry 110). -/
def State.stampPos (s : State) (k : Nat) : Nat :=
  let g := s.work k
  let n := s.rd (GP_GRP_CFG_N g)
  let rate := match (s.members g).head? with
    | some j => (match s.laneAt (j / 8) (j % 8) with
      | some i => if s.laneRate i = 1 then 2 else 1
      | none => 1)
    | none => 1
  let lead := (s.rd (GP_PAIR_CMD_LEAD_NS k) * n * 2125 * 8160 * rate + 1310719) / 1310720
  let m := s.posMod k
  let from_ := posAdd m (s.nextSeg g * s.segLen g) lead
  let q := (s.pair k).txPos
  if posBelow m q from_ then posAdd m q ((posDist m from_ q + 3) / 4 * 4) else q

/-- The frame is stamped and sent to both channels of its pair as copies (R120). -/
def State.dispatchPair (s : State) (c k id : Nat) (f : TxFr) : State :=
  match s.pairOfChan c with
  | none => s
  | some (pr, _) =>
    let p := s.stampPos pr
    let s := s.setPair pr { s.pair pr with txPos := posAdd (s.posMod pr) p (f.len + 20) }
    s.each (s.destChans c) (fun s d =>
      let i := s.nextFr
      let s := ({ s with nextFr := s.nextFr + 1 } : State).setTx i { f with main := some id, chan := d, cells := 0, stage := .dispatched }
      let s := s.stage d k i
      match s.boundGroup d with
      | some g => s.setGrp g { s.grp g with stamps := (s.grp g).stamps ++ [(p, i, f.len)] }
      | none => s)

/-- A read of cells met an uncorrectable word in a row of the frame buffer, or none (R426). -/
def State.cellsUnc (s : State) (unc : Option (Fin 3072)) : State := match unc with
  | some r => s.rowUnc r
  | none => s

/-- The head frame of the node with the smallest finish tag goes to staging (R211, R213). -/
def State.dispatchTo (s : State) (c k : Nat) (unc : Option (Fin 3072)) : State :=
  match s.pickNode c k with
  | none => s
  | some (x, n, id, fin) =>
    match s.txf id with
    | none => s
    | some f =>
      if !(s.destChans c).all (fun d => s.stagingFits d k f.len && !s.dispatchHeld d) then s
      else
        let s := (s.setShap n ((s.shap n).spend f.len)).setShap (32768 + x) ((s.shap (32768 + x)).spend f.len)
        let key := nodeKey c k x
        let nd := s.node key
        let s := { s with vtime := mapSet (fun _ => 0) s.vtime (c * 8 + k) (tagMax (s.virt (c * 8 + k)) nd.s) }
        let s := s.setNode key { nd with s := fin, f := none, last := n }
        let f := { f with stage := .dispatched, chan := c, cls := k, bad := f.bad || unc.isSome }
        let s := ((s.cellsUnc unc).setTx id f).pcEvent (336 + k) { cls := some k }
        let s := if (s.pairOfChan c).isSome then s.dispatchPair c k id f else s.stage c k id
        s.nodesRefresh

/-- A dispatch decision for class `k` of channel `c` (R211); which class is decided when is the core island's affair. A protect group's
channel has no frames of its own (R119). `unc` names the row where a word of the frame's cells was uncorrectable (R442). -/
def execDispatch (c : Fin 32) (k : Fin 8) (unc : Option (Fin 3072)) (s : State) : Host.Outcome State Fault Refusal :=
  .next (if s.chanServes c && !s.protChan c && s.islandRuns 5 then s.dispatchTo c k unc else s)

/-! ## Into staging -/

/-- The oldest frame of channel `c` on its way to staging is wholly there (R35, R205): its cells are free once every copy is. The core
island reads the cells, and the slice takes the words. -/
def execTxFrameInStaging (c : Fin 32) (s : State) : Host.Outcome State Fault Refusal :=
  .next (
    if !s.portRuns (c / 8) || !s.coreUp then s
    else match s.txs.find? (fun e => e.2.chan == c.val && e.2.stage == .dispatched &&
        (s.stagedOf c e.2.cls).contains e.1) with
    | none => s
    | some (id, f) =>
      let s := s.setTx id { f with stage := .staged }
      let free (s : State) (i : Nat) : State := match s.txf i with
        | some g => if g.cells = 0 then s else (s.fbFreeTx g.cells).setTx i { g with cells := 0 }
        | none => s
      let s := match f.main with
        | none => free s id
        | some m => if s.txs.any (fun e => e.2.main == some m && e.2.stage == TxStage.dispatched) then s else free s m
      s.overruns c)

/-! ## The transmit MAC (R139, R144, R146, R150) -/

/-- Fetched data in the order of its offsets. -/
def joinData (l : List (Nat × List Byte)) : List Byte := ((l.mergeSort (fun a b => a.1 ≤ b.1)).map (·.2)).flatten

/-- The tags a descriptor asks for, as bytes (R146, R234). -/
def tagBytes (stpid : Nat) (d : List Byte) : List Byte :=
  let t := byteAt d 0x0A % 4
  if t = 1 then beBytes 2 (if bitN (byteAt d 0x0A) 2 = 1 then stpid else 0x8100) ++ beBytes 2 (leNat d 0x0C 2)
  else if t = 2 then beBytes 2 stpid ++ beBytes 2 (leNat d 0x0C 2) ++ beBytes 2 0x8100 ++ beBytes 2 (leNat d 0x0E 2)
  else []

/-- One requested checksum filled in, or a skip (R150). -/
def fillOne (want : Bool) (r : List Byte × Bool) (fill : List Byte → Option (List Byte)) : List Byte × Bool :=
  if !want then r else match fill r.1 with
    | some f => (f, r.2)
    | none => (r.1, true)

/-- The requested checksums, inner level before outer (R144, R150), and whether one was skipped. The frame carries four bytes in place of its
FCS while it is parsed. -/
def txChecksums (m : MacLive) (vxlan geneve : Nat) (d f : List Byte) : List Byte × Bool :=
  let a := byteAt d 0x0A
  let z := f ++ [0, 0, 0, 0]
  let h := parse m.stpid vxlan geneve z
  let inner := if m.inner then h.inner else none
  let r := fillOne (bitN (byteAt d 0x0B) 0 == 1) (z, false) (fun g => fillL4 g inner)
  let r := fillOne (bitN a 7 == 1) r (fun g => fillL3 g inner)
  let r := fillOne (bitN a 6 == 1) r (fun g => fillL4 g h.ip)
  let r := fillOne (bitN a 5 == 1) r (fun g => fillL3 g h.ip)
  (r.1.take f.length, r.2)

/-- The frame as it leaves (R144): tags, checksums, padding, FCS, inverted where its cells held an uncorrectable word (R442). Also whether a
checksum was skipped and whether it was padded. -/
def State.txWire (s : State) (c : Nat) (f : TxFr) : List Byte × Bool × Bool :=
  let m := s.txLive c
  let data := joinData f.data
  let g := data.take 12 ++ tagBytes m.stpid f.desc ++ data.drop 12
  let r := txChecksums m (s.rd MC_CSUM_PORTS_VXLAN_PORT) (s.rd MC_CSUM_PORTS_GENEVE_PORT) f.desc g
  let p := r.1 ++ List.replicate (60 - r.1.length) 0
  let fcs := crc32 p
  (p ++ leBytes 4 (if f.bad then fcs ^^^ 0xFFFFFFFF else fcs), r.2, r.1.length < 60)

/-- The corrected transmit stamp (R325): of the byte at offset `byte` of its word, none before the slice's follower has a value (R317). -/
def State.txStamp (s : State) (c byte : Nat) : Option Nat :=
  match s.sliceOf (c / 8) with
  | some i => if s.tm.follows.getLsbD i && !s.sleepLoad then
      some (((s.tm.now : Int) + s.lineUnits c byte + signed 32 (s.ch c).txCorr * 2 ^ 16) % timeMod).toNat else none
  | none => none

/-- A frame starts: the staging and guard limits, the pace and the correction that act from now on (R213, R216, R217, R325). -/
def State.limitsTake (s : State) (c : Nat) : State :=
  s.setCh c { s.ch c with stgLive := s.rd (SC_CH_STG_STG_KIB c), clsLive := s.rd (SC_CH_STG_CLS_KIB c)
                          starveLive := s.rd (SC_CH_GUARD_STARVE_US c), guardLive := s.rd (SC_CH_GUARD_GUARD_US c)
                          paceLive := s.rd (SC_CH_PACE_PACE_MBPS c)
                          txCorr := s.rd (TM_TX_CORR_CORR c) }

/-- A frame starts on the line of channel `c` (R144, R145, R215): its class's unserved timer starts anew (R216), and the frame behind it, now at the
head, is checked (R221). -/
def State.startFrame (s : State) (c k id : Nat) (f : TxFr) (byte : Nat) : State :=
  let s := (s.txSample c).limitsTake c
  let w := s.txWire c f
  let stamp := if bitN (byteAt f.desc 0x0A) 3 = 1 then (s.txStamp c byte).map (fun t => (t, s.holdover)) else none
  let s := (s.setStaged c k ((s.stagedOf c k).filter (· != id))).setTx id { f with stage := .line, wire := w.1, startTick := s.tm.tick, stamp := stamp }
  let s := s.setCh c { s.ch c with line := .frame id, lastStart := s.tm.tick, lastLen := f.len, unserved := mapErase k (s.ch c).unserved }
  let s := ((s.statIf w.2.1 c 44).statIf w.2.2 c 53).overruns c
  (s.refreshStaged c).pcSlice (c / 8) (8 + c % 8) { cls := some k }

/-! ## Control frames (R154) -/

/-- A generated PAUSE or PFC frame of 64 bytes. -/
def State.controlBytes (s : State) (c : Nat) (pfc : Bool) (enable xoff : Nat) : List Byte :=
  let q := s.rd (MC_FC_CFG_QUANTA c)
  let body := if pfc then beBytes 2 0x0101 ++ beBytes 2 enable ++ (List.range 8).flatMap (fun k => beBytes 2 (if bitN xoff k = 1 then q else 0))
    else beBytes 2 1 ++ beBytes 2 (if xoff = 0 then 0 else q)
  let f := pauseDa ++ s.station c ++ beBytes 2 0x8808 ++ body
  let p := f ++ List.replicate (60 - f.length) 0
  p ++ leBytes 4 (crc32 p)

/-- The control frame that is due starts (R154): its contents are as the states stand now. -/
def State.startControl (s : State) (c : Nat) : State :=
  let s := s.limitsTake c
  let x := s.ch c
  let pfc := s.fcMode c == 2
  let xoff := if pfc then x.xoffMine &&& s.rd (MC_FC_CFG_PFC_CLASSES c) else x.xoffMine
  let enable := if pfc then xoff ||| x.xonChg else 0
  let s := s.wr (MC_FC_STAT_XOFF_SENT c) (if pfc then xoff ||| (s.rd (MC_FC_STAT_XOFF_SENT c) - (s.rd (MC_FC_STAT_XOFF_SENT c) &&& enable))
    else if xoff = 0 then 0 else 0xFF)
  let s := s.stat c 34
  let s := if pfc then s.each ((List.range 8).filter (fun k => bitN enable k == 1)) (fun s k => s.stat c (35 + k)) else s.stat c 43
  let s := if s.tMode (c / 8) then (match s.boundGroup c with
      | some g => s.gfpQueue g c (s.controlBytes c pfc enable xoff)
      | none => s) else s
  let s := s.pcSlice (c / 8) (8 + c % 8)
  s.setCh c { s.ch c with line := .control pfc enable, ctlDue := false, xonChg := 0, ctlSent := s.tm.tick, lastStart := s.tm.tick, lastLen := 64 }

/-! ## The class level (R215, R216) -/

/-- `QUANTUM` of class `k` (R216). -/
def State.quantum (s : State) (c k : Nat) : Nat :=
  let q := if k % 2 = 0 then s.rd (SC_DRR_Q_QUANTUM_EVEN c (k / 2)) else s.rd (SC_DRR_Q_QUANTUM_ODD c (k / 2))
  if q = 0 then 64 else q

/-- The deficit round robin: the class whose frame starts, and the window after it (R216). `fuel` bounds the visits. -/
def State.drr (s : State) (c : Nat) : Nat → GuardSt → Option (Nat × GuardSt)
  | 0, _ => none
  | n + 1, g =>
    let next (d : List Nat) : GuardSt := ⟨g.until_, (g.cls + 7) % 8, false, d⟩
    if !s.ready c g.cls then s.drr c n (next (g.deficits.set g.cls 0))
    else
      let d := g.deficits.getD g.cls 0 + (if g.visited then 0 else s.quantum c g.cls)
      let len := match s.stagedHead c g.cls with
        | some (_, f) => f.len
        | none => 0
      if len ≤ d then some (g.cls, ⟨g.until_, g.cls, true, g.deficits.set g.cls (d - len)⟩)
      else s.drr c n (next (g.deficits.set g.cls d))

/-- Open a guard window (R216). -/
def State.guardOpen (s : State) (c : Nat) : State :=
  let g : GuardSt := ⟨s.tm.tick + usTicks (s.ch c).guardLive, 7, false, List.replicate 8 0⟩
  let s := s.setCh c { s.ch c with guard := some g, starved := false }
  ((s.raise (SC_CH_STAT_GUARD_ON c)).bump SC_GUARD_CNT_COUNT).setBit SC_EVT_GUARD (c / 8)

/-- The class whose head starts now, with the window moved on. -/
def State.pickClass (s : State) (c : Nat) : Option (Nat × State) :=
  if !(List.range 8).any (s.ready c) then none
  else
    let s := if (s.ch c).starved && (s.ch c).guard.isNone then s.guardOpen c else s
    match (s.ch c).guard with
    | some g => (s.drr c 200000 g).map (fun r => (r.1, s.setCh c { s.ch c with guard := some r.2 }))
    | none => ([7, 6, 5, 4, 3, 2, 1, 0].find? (s.ready c)).map (fun k => (k, s))

/-- May channel `c` send frames: its line passes them (R77), its port is not parked or watching, and its slice runs? -/
def State.lineMay (s : State) (c : Nat) : Bool :=
  s.portRuns (c / 8) && !s.pwParked && !s.pwWatching &&
  (if s.tMode (c / 8) then s.portOn (c / 8) && (s.boundGroup c).isSome
   else s.chanOn c && s.rd (LN_CHAN_STAT_STATE c) == 2 && !s.is (LN_CHAN_STAT_LF_RX c) && !s.is (LN_CHAN_STAT_RF_RX c))

/-- And is it free? -/
def State.lineOpen (s : State) (c : Nat) : Bool := s.lineMay c && (s.ch c).line == .idle

/-- Copies of a paired channel whose stamps the stream has passed were sent late (R120): they leave staging. -/
def State.dropLate (s : State) (c g : Nat) : State :=
  let late := (s.txs.filter (fun e => e.2.main.isSome && e.2.chan == c && (e.2.stage == .staged || e.2.stage == .dispatched) &&
    !(s.grp g).stamps.any (fun t => t.2.1 == e.1))).map (·.1)
  (s.each late (fun s id => match s.txf id with
    | some f => (s.setStaged c f.cls ((s.stagedOf c f.cls).filter (· != id))).txDrop id 7 sFAULT
    | none => s)).refreshStaged c

/-- A staged copy starts at stream position `p` of its group: idle frames stand before it (R120). -/
def State.startCopy (s : State) (c g p id : Nat) (f : TxFr) (byte : Nat) : State :=
  let s := (s.padTo g p).startFrame c f.cls id f byte
  match s.txf id with
  | some h => s.gfpQueue g c h.wire
  | none => s

/-- The stamped copy of a paired channel whose position is the lowest starts at it (R120, R214). -/
def State.startStamped (s : State) (c g : Nat) (unc : Bool) (byte : Nat) : State :=
  let s := s.dropLate c g
  match (s.grp g).stamps.filter (fun t => (s.txf t.2.1).isSome) with
  | [] => s
  | t :: r =>
    match s.txf t.2.1 with
    | some f =>
      if f.stage == .staged then
        (s.setGrp g { s.grp g with stamps := r }).startCopy c g t.1 t.2.1 { f with bad := f.bad || unc } byte
      else s
    | none => s

/-- A frame starts on channel `c` (R215 to R217): not before the last one's line time has passed; a control frame first. -/
def State.txStart (s : State) (c : Nat) (unc : Bool) (byte : Nat) : State :=
  let s := s.advanceTo ((s.ch c).lastStart + (if (s.ch c).lastLen = 0 then 0 else paceTicks (s.ch c).lastLen (s.paceRate c)))
  let s := s.overruns c
  if (s.ch c).ctlDue && s.is (MC_FC_CFG_TX_GEN c) && s.fcMode c != 0 && !s.sv.held.getLsbD (c / 8) then s.startControl c
  else match s.pairOfChan c, s.boundGroup c with
    | some _, some g => s.startStamped c g unc byte
    | _, _ =>
      match s.pickClass c with
      | none => s
      | some (k, s) => match s.stagedHead c k with
        | none => s
        | some (id, f) =>
          let s := s.startFrame c k id { f with bad := f.bad || unc } byte
          if s.tMode (c / 8) then (match s.boundGroup c, s.txf id with
            | some g, some h => s.gfpQueue g c h.wire
            | _, _ => s) else s

/-- An uncorrectable word in a memory of the slice that carries port `p` (R426). -/
def State.memFault (s : State) (p : Nat) (unc : Bool) : State := match unc, s.sliceOf p with
  | true, some i => s.sliceFault i
  | _, _ => s

/-- The line of channel `c` is free and takes its next frame (R215). An uncorrectable word of the frame in staging is handled as one of the
frame buffer (R426). -/
def execTxFrameStart (c : Fin 32) (x : TxPlace) (s : State) : Host.Outcome State Fault Refusal :=
  .next (if s.lineOpen c then (s.txStart c x.unc x.byte).memFault (c / 8) x.unc else s)

/-- What the statistics count of a frame sent (R159). -/
def State.txStats (s : State) (c : Nat) (f : TxFr) : State :=
  let bcast := f.wire.take 6 == List.replicate 6 (0xFF : Byte)
  (((s.stat c 30).stat c 31 f.len).statIf bcast c 32).statIf (!bcast && bitN (byteAt f.wire 0) 0 == 1) c 33

/-- The frame on the line of channel `c` ends, and the core island hears of it as soon as it runs (R31); a guard window whose time has passed
ends with it, and every unserved timer starts anew (R216). -/
def State.txLineEnd (s : State) (c : Nat) : State :=
  let x := s.ch c
  let s := match x.line with
    | .frame id => (match s.txf id with
      | some f =>
        let s := (s.setCh c { x with line := .idle }).txStats c f
        let s := match s.sliceOf (c / 8) with
          | some i => s.crossed (256 + i) (min 32 (s.toCore (c / 8) + 1))
          | none => s
        if s.coreUp then s.txGone id f else s.setTx id { f with stage := .sent }
      | none => s.setCh c { x with line := .idle })
    | _ => s.setCh c { x with line := .idle }
  let s := match (s.ch c).guard with
    | some g => if g.until_ ≤ s.tm.tick then (s.setCh c { s.ch c with guard := none, unserved := [] }).wr (SC_CH_STAT_GUARD_ON c) 0 else s
    | none => s
  ((s.refreshStaged c).refreshIdle (c / 8)).overruns c

/-- May the frame on the line of channel `c` end: its report needs room in the crossing to the core, whose fullness stalls the slice (R18, R31)? -/
def State.endFits (s : State) (c : Nat) : Bool :=
  (s.ch c).line != .idle && (s.coreUp || decide (s.toCore (c / 8) < 32) || (match (s.ch c).line with
    | .control _ _ => true
    | _ => false))

/-- The frame on the line of channel `c` ends (R35, R154). -/
def execTxFrameEnd (c : Fin 32) (s : State) : Host.Outcome State Fault Refusal :=
  .next (if !s.endFits c || !s.portRuns (c / 8) then s else s.txLineEnd c)

/-- A class of channel `c` has been ready and unserved for `STARVE_US` (R216): a window opens at the next frame start. -/
def execStarveTimer (c : Fin 32) (k : Fin 8) (s : State) : Host.Outcome State Fault Refusal :=
  .next (
    if (s.ch c).starveLive = 0 || (s.ch c).guard.isSome || (s.pairOfChan c).isSome || !s.portRuns (c / 8) then s
    else match optGet (s.ch c).unserved k with
      | none => s
      | some t =>
        let s := (s.advanceTo (t + 1600 * (s.ch c).starveLive)).unservedRefresh c
        if (optGet (s.ch c).unserved k).isSome then s.setCh c { s.ch c with starved := true } else s)

/-- `GUARD_US` of channel `c`'s window has passed: the frame on its line is the last of the window (R216). -/
def execGuardWindowEnd (c : Fin 32) (s : State) : Host.Outcome State Fault Refusal :=
  .next (match (s.ch c).guard with
    | some g =>
      if !s.portRuns (c / 8) then s
      else
        let s := s.advanceTo g.until_
        if s.endFits c then s.txLineEnd c else s
    | none => s)

/-! ## Gate lists change (R220) -/

def State.tgReject (s : State) (c : Nat) : State := s.bump (TG_COMMIT_REJ c)

/-- Is list `l` of channel `c` in force? -/
def State.listInForce (s : State) (c l : Nat) : Bool := s.is (TG_CTRL_EN c) && s.rd (TG_CTRL_ACTIVE c) == l

/-- Two microseconds in counter units. -/
def twoUs : Nat := 2000 * 2 ^ 32

/-- A commit of channel `c`'s gate list (R220). -/
def State.tgCommit (s : State) (c : Nat) : State :=
  let len := s.rd (TG_LEN_LEN c)
  let cyc := s.rd (TG_CYCLE_CYCLE_NS c) * 2 ^ 32
  let list := s.rd (TG_LEN_LIST c)
  if s.is (TG_COMMIT_LOCKED c) || s.listInForce c list || len = 0 || 256 < len || cyc = 0 then s.tgReject c
  else
    let base := (s.rd (TG_BASE_S_LO_S_LO c) + 2 ^ 32 * s.rd (TG_BASE_S_HI_S_HI c)) * secUnits + s.rd (TG_BASE_NS_NS c) * 2 ^ 32
    let min_ := (s.gateTime c).toNat + twoUs
    let inst := if min_ ≤ base then base else base + ((min_ - base + cyc - 1) / cyc) * cyc
    let s := if min_ ≤ base then s else s.bump (TG_LATE_COUNT c)
    (s.setCh c { s.ch c with take := some ⟨inst, base, cyc, len, list⟩ }).raise (TG_COMMIT_LOCKED c) |>.raise (TG_CTRL_PENDING c)

/-- A write of `TG_COMMIT[c]` (R220). -/
def execTgCommit (w : Who) (c : Fin 32) (s : State) : Host.Outcome State Fault Refusal :=
  .next (s.guardWrite w (0x0C1114 + 32 * c) (·.tgCommit c))

/-- The new list takes over at its instant (R220, R221). -/
def execTgTakeover (c : Fin 32) (s : State) : Host.Outcome State Fault Refusal :=
  .next (match (s.ch c).take with
    | none => s
    | some w =>
      if !s.portRuns (c / 8) || !s.coreUp || s.sleepLoad then s
      else
        let s := s.advance (s.cyclesTo ((w.inst : Int) - signed 32 (s.ch c).txCorr * 2 ^ 16).toNat)
        let s := s.setCh c { s.ch c with take := none, gBase := w.base, gCycle := w.cycle, gLen := w.len }
        let s := ((s.wr (TG_CTRL_ACTIVE c) w.list).wr (TG_CTRL_PENDING c) 0).wr (TG_COMMIT_LOCKED c) 0
        let s := (s.wr (TG_COMMIT_GEN c) (s.rd (TG_COMMIT_GEN c) + 1)).setBit TG_EVT_TAKEOVER (c / 8)
        s.overruns c)

/-- The entry of channel `c`'s list in force ends and the next one holds (R219): gates follow the time counter. `unc` says that the word read
from the list was uncorrectable (R426). -/
def execGateEntryChange (c : Fin 32) (unc : Bool) (s : State) : Host.Outcome State Fault Refusal :=
  .next (match s.gateNow c with
    | some g =>
      if g.empty || !s.coreUp || !s.portRuns (c / 8) || s.sleepLoad then s
      else
        let pos := ((s.gateTime c - g.base) % (g.cycle : Int)).toNat
        let left := (s.gateAt c g pos g.len 0 0).2
        ((s.advance (s.cyclesTo (s.tm.now + max 1 left))).memFault (c / 8) unc).overruns c
    | none => s)

/-! ## The scheduler's shade sets (R208, R218) -/

/-- The instance `SC_SEL` selects, none where it selects nothing. -/
def State.scSel (s : State) : Option Nat :=
  let i := s.rd SC_SEL_INDEX
  if s.is SC_SEL_KIND then (if i < 4096 then some (32768 + i) else none) else some i

/-- Does queue `n` hold cells (R208)? -/
def State.holdsCells (s : State) (n : Nat) : Bool := s.txs.any (fun e => e.2.queue == n && e.2.main.isNone && e.2.cells != 0)

/-- The first reason for which R208 refuses a commit of queue `n` with this map: a status. -/
def State.mapRefuse (s : State) (n map : Nat) : Option Nat :=
  let c := bits map 0 5
  let q := s.q n
  if (c ≠ q.chan ∨ bits map 5 3 ≠ q.cls) && s.holdsCells n then some sSTATE
  else if s.protChan c || s.rd (SC_CH_STG_STG_KIB c) == 0 then some sBADARG
  else none

/-- A commit of instance `i` (R208, R218, R262); a command that asked for it waits for the hand-over. -/
def State.scCommitI (s : State) (i : Nat) (cmd : Option Nat) : State :=
  let x := s.shap i
  if x.locked then (s.bump (SC_COMMIT_REJ i)).cmdDone? cmd sSTATE x.gen
  else match (if i < 32768 then s.mapRefuse i x.sMap else none) with
    | some st => (s.bump (SC_COMMIT_REJ i)).cmdDone? cmd st x.gen
    | none => s.putShap i { x with locked := true, cmd := cmd, commitAt := s.tm.cyc }

/-- A write of `SC_COMMIT`. -/
def State.scCommit (s : State) : State := match s.scSel with
  | some i => s.scCommitI i none
  | none => s.bump SC_CFG_REJ_COUNT

/-- Tokens in bytes as a 32-bit two's-complement number. -/
def tokBytes (t : Int) : Nat := unsigned32 (t / 256)

/-- `SC_CMD.READ` (R218). -/
def State.scRead (s : State) : State :=
  match s.scSel with
  | none => s.bump SC_CFG_REJ_COUNT
  | some i =>
    let x := s.shap i
    if x.locked then s.bump (SC_COMMIT_REJ i)
    else
      let q := s.q i
      let map := if i < 32768 then q.chan + 32 * q.cls + 256 * b2n x.shape else x.sMap
      let ten := if i < 32768 then x.sTen else x.weight + 4096 * b2n x.shape + 8192 * b2n x.fill
      (s.putShap i { x with sMap := map, sRate := x.rate, sBurst := x.burst, sTen := ten }).wr SC_TOK_TOK (tokBytes x.tok)

/-- A write of `SC_COMMIT` (R218). -/
def execScCommit (w : Who) (s : State) : Host.Outcome State Fault Refusal := .next (s.guardWrite w 0x0C0014 (·.scCommit))

/-- A write of `SC_CMD.READ` (R218). -/
def execScRead (w : Who) (s : State) : Host.Outcome State Fault Refusal := .next (s.guardWrite w 0x0C0018 (·.scRead))

/-- A shade field of the selected instance is written (R262). -/
def State.scShade (s : State) (f : ShapSt → ShapSt) : State :=
  match s.scSel with
  | none => s.bump SC_CFG_REJ_COUNT
  | some i =>
    let x := s.shap i
    if x.locked then s.bump (SC_COMMIT_REJ i) else s.putShap i (f x)

/-- A write of `SC_CH_STG[c]` (R213). -/
def State.scStg (s : State) (c v : Nat) : State :=
  let sum (s : State) : Nat := (List.range 8).foldl (fun n k => n + s.rd (SC_CH_STG_STG_KIB (8 * (c / 8) + k))) 0
  let t := s.writePlain (0x0C0180 + 4 * c) v
  if sum s < sum t && 512 < sum t then s.bump SC_CFG_REJ_COUNT else t

/-- A write of `SC_SAMP_SEL`: `CLR` clears the shown queue's maxima (R222). -/
def State.scSampSel (s : State) (v : Nat) : State :=
  let s := s.writePlain 0x0C0700 v
  let n := s.rd SC_SAMP_SEL_QUEUE + 32768 * s.rd SC_SAMP_SEL_RX
  if bitN v 31 = 1 then (s.wr (SC_SAMP_DELAY_MAX n) 0).wr (SC_SAMP_MAXD_CELLS_MAX n) 0 else s

/-- Register writes of the scheduler. -/
def State.scWrite (s : State) (off v : Nat) : State :=
  if off = 0x0C0004 then s.scShade (fun x => { x with sMap := v % 2 ^ 9 })
  else if off = 0x0C0008 then s.scShade (fun x => { x with sRate := v })
  else if off = 0x0C000C then s.scShade (fun x => { x with sBurst := v % 2 ^ 24 })
  else if off = 0x0C0010 then s.scShade (fun x => { x with sTen := v % 2 ^ 14 })
  else if off = 0x0C0014 then (if bitN v 0 = 1 then s.scCommit else s)
  else if off = 0x0C0018 then (if bitN v 0 = 1 then s.scRead else s)
  else if 0x0C0180 ≤ off ∧ off < 0x0C0200 then s.scStg ((off - 0x0C0180) / 4) v
  else if off = 0x0C0700 then s.scSampSel v
  else s.writePlain off v

/-- Register writes of the time gates (R220): entries of a list in force or committed are ignored, a locked shade set is not written. -/
def State.tgWrite (s : State) (off v : Nat) : State :=
  if 0x0D0000 ≤ off then
    (let c := (off - 0x0D0000) / 2048
     let l := (off - 0x0D0000) / 1024 % 2
     let committed := match (s.ch c).take with
       | some w => w.list == l
       | none => false
     if s.listInForce c l || committed then s.tgReject c else s.writePlain off v)
  else if 0x0C1100 ≤ off ∧ off < 0x0C1500 then
    (let c := (off - 0x0C1100) / 32
     if (off - 0x0C1100) % 32 = 0x14 then (if bitN v 0 = 1 then s.tgCommit c else s)
     else if s.is (TG_COMMIT_LOCKED c) then s.tgReject c
     else s.writePlain off v)
  else if 0x0C1000 ≤ off ∧ off < 0x0C1080 then (s.writePlain off v).overruns ((off - 0x0C1000) / 4)
  else s.writePlain off v

/-! ## Refill instants (R193, R209, R218, R222) -/

/-- The refill instants of `e` periods up to `p` for one shaper: a queue's map is handed over with the rest of its set (R218). -/
def State.shapRefill (s : State) (i p e : Nat) : State :=
  let x := s.shap i
  let y := x.instants (decide (32768 ≤ i)) p e
  let s := s.setShap i y.1
  if !y.2 then s
  else (if i < 32768 then s.setQ i { s.q i with chan := bits x.sMap 0 5, cls := bits x.sMap 5 3 } else s).cmdDone? x.cmd sOK y.1.gen

/-- The frames of a queue that hold cells: cells, frames, and the tick at which the last cell of the head was filled (R222). -/
def State.depthOf (s : State) (n : Nat) : Nat × Nat × Option Nat :=
  if n < 32768 then
    let l := (s.q n).order.filterMap (fun id => (s.txf id).filter (fun f => f.cells != 0))
    (l.foldl (fun a f => a + f.cells) 0, l.length, (l.head?.filter (fun f => f.stage != .fetching)).map (·.readyAt))
  else
    let l := s.rxs.filter (fun e => e.2.queue == n && e.2.cells != 0 && e.2.stage != .hinge && e.2.stage != .passed)
    (l.foldl (fun a e => a + e.2.cells) 0, l.length, (l.map (·.2.admitAt)).min?)

/-- Queue `n` is sampled as of a tick (R222). -/
def State.sample (s : State) (n tick : Nat) : State :=
  let d := s.depthOf n
  let age := match d.2.2 with
    | some t => min 0xFFFF ((tick - t) * 625 / 64000)
    | none => 0
  let s := ((s.wr (SC_SAMP_DEPTH_CELLS n) d.1).wr (SC_SAMP_DEPTH_FRAMES n) (min 16383 d.2.1)).wr (SC_SAMP_DELAY_LAST n) age
  (s.wr (SC_SAMP_DELAY_MAX n) (max age (s.rd (SC_SAMP_DELAY_MAX n)))).wr (SC_SAMP_MAXD_CELLS_MAX n) (max d.1 (s.rd (SC_SAMP_MAXD_CELLS_MAX n)))

/-- A refill instant (R193): one already passed and not yet taken, or else the next. Shade sets hand over, shapers are credited, and the
queues whose core cycles have come are sampled, one in each cycle: in cycle n queue n modulo 65,536 (log entry 19). -/
def execRefillInstant (s : State) : Host.Outcome State Fault Refusal :=
  .next (
    if !s.coreUp then s
    else
      let s := if periodOf s.tm.cyc = s.tm.refDone then s.advance (s.cyclesToMultiple 2048) else s
      let e := periodOf s.tm.cyc - s.tm.refDone
      let n := min 65536 (2048 * e)
      let from_ := 2048 * (s.tm.refDone + e) - n
      let s := { s with tm := { s.tm with refDone := periodOf s.tm.cyc } }
      let s := (s.each (s.shaps.map (·.1)) (fun s i => s.shapRefill i s.tm.refDone e)).nodesRefresh
      s.each ((List.range n).map (from_ + ·)) (fun s n => s.sample (n % 65536) (s.tm.tick - (s.tm.cyc - n))))

end Sys2Proof.Machine
end

