-- ==== Sys2Proof/Machine/TxRiltor.lean ====
section
/-! DEFINITION. The transmit stream of a group and the transmit framer of a position (R87 to R91, R94, R113, R114, R120, R126). -/

namespace Sys2Proof.Machine

/-- The copy stamped `t` goes into the stream at its position: one that stands in staging whole starts there, after the frame before it has
left the line, and any other is sent late (R120). -/
def State.sendStamped (s : State) (g : Nat) (t : Nat × Nat × Nat) : State :=
  let c := s.rd (GP_GRP_CFG_CHAN g)
  let late := (fun s : State =>
    let s := (s.padTo g t.1).gfpQueue g c (lateClient t.2.2)
    match s.pairOf g with
    | some (k, _) => s.bump (GP_HG_MISC_TX_LATE k)
    | none => s)
  match s.txf t.2.1 with
  | some f =>
    if f.stage == .staged && s.lineMay c then (if (s.ch c).line == .idle then s else s.txLineEnd c).startCopy c g t.1 t.2.1 f 0 else late s
  | none => late s

/-- Stamped copies whose position lies in the segment now built go into the stream. -/
def State.sendDue (s : State) (g : Nat) : State :=
  let stop := posAdd (s.streamMod g) (s.nextSeg g * s.segLen g) (s.segLen g)
  let due := (s.grp g).stamps.filter (fun e => posBelow (s.streamMod g) e.1 stop)
  let s := s.setGrp g { s.grp g with stamps := (s.grp g).stamps.filter (fun e => !posBelow (s.streamMod g) e.1 stop) }
  s.each due (·.sendStamped g)

/-- Segment `nextSeg` is built: what is queued, the copies due, then idle frames (R108, R113). -/
def State.buildSeg (s : State) (g : Nat) : State :=
  let m := s.nextSeg g
  let s := s.sendDue g
  let x := s.grp g
  let n := s.segLen g
  let q := x.txq ++ gfpIdles ((n - x.txq.length + 3) / 4)
  s.setGrp g { x with txq := q.drop n, segs := x.segs ++ [(m, q.take n)] }

/-- Every `n`-th byte from the `k`-th. -/
def everyNth (n : Nat) : Nat → List Byte → List Byte
  | _, [] => []
  | 0, b :: l => b :: everyNth n (n - 1) l
  | k + 1, _ :: l => everyNth n k l

/-- Bytes of member `m` of segment `i` of group `g`, built where it is the next one. -/
def State.memberPayload (s : State) (g m i : Nat) : List Byte × State :=
  let s := if (s.grp g).segs.any (·.1 == i) then s else s.buildSeg g
  match (s.grp g).segs.find? (·.1 == i) with
  | some e => (everyNth (s.rd (GP_GRP_CFG_N g)) m e.2, s)
  | none => (List.replicate 8160 0, s)

/-- Segments that every member has sent are dropped. -/
def State.pruneSegs (s : State) (g : Nat) : State :=
  let x := s.grp g
  s.setGrp g { x with segs := x.segs.filter (fun e => (s.members g).any (fun j => (s.fr j).grpMfc == e.1) || s.members g == [] ||
    (s.members g).any (fun j => signed 32 ((e.1 + 2 ^ 32 - (s.fr j).grpMfc) % 2 ^ 32) > 0)) }

/-- The `MCC` bytes a frame of position `j` carries (R132). -/
def State.ohSupply (s : State) (j : Nat) : Nat × State :=
  match (List.range 8).find? (fun k => s.is (GP_OH_RX_EN k) && s.rd (GP_OH_RX_POS k) == j) with
  | none => (0, s)
  | some k =>
    let x := mapGet (fun _ => {}) s.ohs k
    match x.rx with
    | v :: r => (v, { s with ohs := mapSet (fun _ => {}) s.ohs k { x with rx := r } })
    | [] => (0, s.bump (GP_OH_CNT2_RX_UNDER k))

/-- The transmit framer builds the next frame of position `j` (R87 to R91, R94, R126). -/
def State.sendFrame (s : State) (j : Nat) : State :=
  let g? := s.groupOf j
  let x := s.fr j
  let member := match g? with
    | some _ => s.rd (GP_POS_CFG_MEMBER j)
    | none => 0
  let id := match g? with
    | some g => s.rd (GP_GRP_CFG_GROUP_ID g)
    | none => 0
  let mfc := match g? with
    | some _ => x.grpMfc
    | none => x.txMfc
  let swr := match (if s.is (GP_POS_CFG_IN_GROUP j) then s.pairOf (s.rd (GP_POS_CFG_GROUP j)) else none) with
    | some (k, _) => s.swrWord k
    | none => 0
  let rdi := s.rd (TF_FR_STAT_STATE j) != fSYNC || s.is (TF_FR_CFG_FORCE_RDI j)
  let p : List Byte × State := match g? with
    | some g => (s.remoteCross g j true).memberPayload g member mfc
    | none => (List.replicate 8160 0, s)
  let m := p.2.ohSupply j
  let s := m.2
  let h8 := leBytes 4 mfc ++ leBytes 1 (member + 32) ++ leBytes 1 id ++ leBytes 1 (b2n rdi) ++ leBytes 1 (b2n g?.isSome)
  let h := h8 ++ leBytes 4 (crc32c h8 ^^^ s.rd (TF_FR_CFG_INJ_HCRC j))
  let body := leBytes 2 (x.txPar.getD 0 ^^^ s.rd (TF_FR_CFG_INJ_BIP j)) ++ leBytes 1 x.rei ++ leBytes 1 0 ++ leBytes 2 swr ++ leBytes 2 0 ++
    leBytes 4 m.1 ++ leBytes 8 0 ++ p.1
  let out := h ++ (if s.is (TF_FR_CFG_SCR_OFF j) && s.inTest then body else scramble (riltorSeed mfc member) body)
  let x := s.fr j
  let s := s.setFr j { x with out := x.out ++ out, rei := 0, txPar := some (parity16 out), txMfc := (x.txMfc + 1) % 2 ^ 32,
                              grpMfc := if g?.isSome then (mfc + 1) % 2 ^ 32 else x.grpMfc }
  let s := s.put (TF_FR_STAT_TX_RDI j) rdi
  match g? with
  | some g => s.pruneSegs g
  | none => s

/-- The stream of a remote member's group comes from its home slice through the core island (R114): do both run? -/
def State.streamCame (s : State) (j : Nat) : Bool := match s.groupOf j with
  | some g => !s.remote g j || (s.coreUp && s.portRuns (s.rd (GP_GRP_CFG_CHAN g) / 8))
  | none => true

/-- Does the position transmit Riltor frames: its port enabled in T-mode, and a present lane carrying it (R71)? -/
def State.tSends (s : State) (j : Nat) : Bool :=
  s.is (LN_PORT_CFG_ENABLE (j / 8)) && s.is (LN_PORT_CFG_T_MODE (j / 8)) && (s.laneAt (j / 8) (j % 8)).isSome && s.portRuns (j / 8) && s.streamCame j

/-- A frame is built where less than a frame waits to be taken (R90). -/
def execTxRiltorFrame (j : Fin 32) (s : State) : Host.Outcome State Fault Refusal :=
  .next (if s.tSends j && (s.fr j).out.length < 8192 then s.sendFrame j else s)

end Sys2Proof.Machine
end

