-- ==== Sys2Proof/Machine/Rings.lean ====
section
/-! DEFINITION. The receive path from release to completion and the host rings: doorbells, descriptor and data fetches, completions,
queue ends and notifications (R32 to R36, R163, R201, R205, R223 to R248, R260, R442). -/

namespace Sys2Proof.Machine

/-! ## Entry to the core (R32, R33, R163, R201, R260) -/

/-- The oldest frame of channel `c` in its slice leaves it once it has its verdict (R163) and its crossing has room (R18). `unc` says that a word of it in the elastic store
was uncorrectable: it ends errored, with `CODE`, and its slice has faulted (R140, R426). -/
def execRxFrameRelease (c : Fin 32) (unc : Bool) (s : State) : Host.Outcome State Fault Refusal :=
  .next (
    match s.rxs.find? (fun e => e.2.chan == c.val && e.2.stage == .slice) with
    | some (id, f) => if f.verdict.isSome && s.islandRuns f.via && !s.sys.sliceOut.getLsbD f.via && decide (s.toCore (c / 8) < 32) then
        let s := s.setRx id { f with stage := .released, flags := if unc then f.flags ||| 8 else f.flags }
        let s := s.crossed (256 + f.via) (min 32 (s.toCore (c / 8)))
        if unc then s.sliceFault f.via else s
      else s
    | none => s)

/-- What stage 4 makes of a verdict (R151, R180, R181, R260): the context and queue the frame counts against, whether it is dropped as a
miss, and whether it is dropped under cause 7. -/
structure Entry where
  ctx : Nat
  rxq : Nat
  miss : Bool
  admin : Bool
  deriving DecidableEq, Repr

/-- The context a verdict names: a punted frame's is context 0. -/
def Verdict.names (v : Verdict) : Nat := if v.reason == 0 && v.action == 2 then 0 else v.ctx

/-- R180, R181, R260. -/
def State.entryOf (s : State) (f : RxFr) (v : Verdict) : Entry :=
  if f.control then ⟨0, 0, false, true⟩
  else if v.reason ≠ 0 ∧ v.reason ≠ 7 then
    let st := (s.ctx v.ctx).state
    if (st = cACTIVE ∨ st = cFROZEN) ∧ (s.poolQ v.ctx v.rxq true).isSome then ⟨v.ctx, v.rxq, v.action == 1, false⟩
    else ⟨0, v.rxq, true, false⟩
  else
    let punt := v.reason == 0 && v.action == 2
    let x := v.names
    let q := if punt then s.rd CL_CTRL_PUNT_RXQ else v.rxq
    let drop := v.reason == 7 || v.action == 1
    if (s.ctx x).state = cFREE then ⟨0, q, false, true⟩ else ⟨x, q, false, drop⟩

/-- The cause under which stages 6 and 7 drop a frame of a colour, before it asks for cells (R14, R25, R201); none where it asks. A drop
record that carries an end-verdict flag goes under the lower cause (log entry 111). -/
def State.entryCause (s : State) (f : RxFr) (v : Verdict) (e : Entry) (colour : Nat) : Option Nat :=
  if f.flags ≠ 0 ∧ f.deliverBad = false then some 0
  else if f.dropRec then some 2
  else if colour = 2 ∧ (s.meter v.meter).redAct = false then some 1
  else if e.miss then some 4
  else if (s.ctx v.names).state = cRESETTING then some 5
  else if e.admin then some 7
  else none

/-- The instant at which a received frame counts: its timestamp, or where its slice had no time to stamp it with (R317) the core's (log
entry 107). -/
def State.rxInstant (s : State) (f : RxFr) : Nat := if f.stamped then f.stamp else s.tm.now

/-- A frame is counted accepted, metered and admitted, or dropped (R32, R33, R189, R192, R201). A copy the hinge has passed gives the hinge's
cells back at the check where it asks for its own (R122, R204). -/
def State.rxEntry (s : State) (id : Nat) (f : RxFr) : State :=
  let f := { f with cells := 0 }
  let v := f.verdict.getD {}
  let e := s.entryOf f v
  let bad := f.dropRec || (f.flags != 0 && !f.deliverBad)
  let m := if v.men && !bad && !f.control then s.meterFrame v.meter f.len f.yellow else (0, s)
  let s := m.2.pcEvent (344 + m.1)
  let p := f.chan / 8
  let n := cellsOf f.len
  let f := { f with verdict := some { v with ctx := e.ctx, rxq := e.rxq }, colour := m.1, port := p,
                    queue := (s.poolQ e.ctx e.rxq true).getD 0 }
  let s := (s.setRx id f).ledAccept id e.ctx false (s.rxInstant f) f.len m.1
  match s.entryCause f v e m.1 with
  | some k => s.rxDrop id k
  | none =>
    let a := s.fbAdmit (8 * p + v.cls) n
    if a.1 then
      let s : State := { a.2 with ring := { a.2.ring with order := a.2.ring.order + 1 } }
      (s.setRx id { f with stage := .admitted, cells := n, admitAt := s.tm.tick, order := s.ring.order }).pcEvent (320 + v.cls) { cls := some v.cls }
    else (a.2.pcEvent (328 + v.cls) { cls := some v.cls }).rxDrop id 2

/-- The next frame of channel `c` reaches the core island: of a pair's working channel, the next one its hinge has passed (R119). -/
def execRxFrameEntry (c : Fin 32) (s : State) : Host.Outcome State Fault Refusal :=
  .next (
    if !s.islandRuns 5 then s
    else
      let want : RxStage := if (s.pairOfChan c).isSome then .passed else .released
      match s.rxs.find? (fun e => e.2.chan == c.val && e.2.stage == want) with
      | some (id, f) => s.rxEntry id f
      | none => s)

/-! ## Doorbells (R226 to R230, R261, R449) -/

/-- A doorbell-window write is refused (R228): its queue and kind, which only a descriptor doorbell names. -/
def State.dbRefuse (s : State) (x reason qk : Nat) (evq : Bool) : State :=
  let s := (s.bump (HR_CTX_CNT_DB_REJ x)).raise HR_EVT_DB_REJ
  let s := if s.is HR_DB_LAST_VALID then s
    else
      let s := ((s.wr HR_DB_LAST_CTX x).wr HR_DB_LAST_QUEUE (qk % 64)).wr HR_DB_LAST_KIND (qk / 64)
      ((s.put HR_DB_LAST_EVQ evq).wr HR_DB_LAST_REASON reason).raise HR_DB_LAST_VALID
  s.declined

/-- A refusal of a write that names no queue: what `HR_DB_LAST` shows of one is open (log entry 5). -/
def State.dbRefuseOther (s : State) (x reason : Nat) (evq : Bool) : State :=
  if s.is HR_DB_LAST_VALID then s.dbRefuse x reason 0 evq else s.draw.2.dbRefuse x reason (s.draw.1.toNat % 128) evq

/-- The first failing check of a doorbell of context `x` (R228); 0 for none. -/
def State.dbReason (s : State) (x v : Nat) : Nat :=
  let pi := v % 2 ^ 16
  if v / 2 ^ 23 ≠ 0 then 1
  else if (s.ctx x).state ≠ cACTIVE then 2
  else match s.poolQ x (bits v 16 6) (bitN v 22 == 1) with
    | none => 3
    | some k =>
      let q := s.q k
      if q.state = qUNSET then 3
      else if 2 ^ (q.log2 + 1) ≤ pi then 4
      else if 2 ^ q.log2 < occ q.log2 pi q.ci then 5
      else 0

/-- A descriptor doorbell (R228, R229). -/
def State.doorbell (s0 : State) (w : Who) (x v : Nat) : State :=
  let a : PcAttr := { priv := some w.priv, master := some w.master, addr := some (4096 * x) }
  let r := s0.dbReason x v
  if r ≠ 0 then (s0.pcEvent 348 a).dbRefuse x r (bits v 16 7) false
  else
    let s := (s0.dbCount w true (4096 * x)).pcEvent 347 a
    match s.poolQ x (bits v 16 6) (bitN v 22 == 1) with
    | none => s.okay 0
    | some k =>
      let q := s.q k
      if q.pi = v % 2 ^ 16 then s.okay 0 else (s.setQ k { q with pi := v % 2 ^ 16, noRx := false }).okay 0

/-- The first failing check of an event consumer word (R228). -/
def State.evcReason (s : State) (x v : Nat) : Nat :=
  if v / 2 ^ 16 ≠ 0 then 1
  else if (s.ctx x).state ≠ cACTIVE then 2
  else match (s.ctx x).evr with
    | none => 3
    | some r => if 2 ^ (r.log2 + 1) ≤ v then 4 else if 2 ^ r.log2 < occ r.log2 r.pi v then 5 else 0

/-- An event consumer word (R228, R229). -/
def State.evConsume (s : State) (w : Who) (x v : Nat) : State :=
  let r := s.evcReason x v
  if r ≠ 0 then s.dbRefuseOther x r true
  else
    let s := s.dbCount w true (4096 * x + 8)
    match (s.ctx x).evr with
    | some e => (s.setCtx x { s.ctx x with evr := some { e with ci := v } }).okay 0
    | none => s.okay 0

/-- The value of a 64-bit write, or of a 32-bit write of the low half (R226). -/
def dbValue (wide : Bool) (v : BitVec 64) : Nat := if wide then v.toNat else v.toNat % 2 ^ 32

/-- A write of context `x`'s doorbell (R228). -/
def execDoorbellWrite (w : Who) (x : Fin 4096) (wide : Bool) (v : BitVec 64) (s : State) : Host.Outcome State Fault Refusal :=
  .next (if s.servesDoorbell w (4096 * x) 4 then s.doorbell w x (dbValue wide v) else s.declined)

/-- A write of context `x`'s event consumer word (R228). -/
def execEventConsumerWrite (w : Who) (x : Fin 4096) (wide : Bool) (v : BitVec 64) (s : State) : Host.Outcome State Fault Refusal :=
  .next (if s.servesDoorbell w (4096 * x + 8) 4 then s.evConsume w x (dbValue wide v) else s.declined)

/-! ## Fetching descriptors (R231 to R235, R238) -/

/-- Bytes of an entry of pool queue `k`'s ring. -/
def entrySize (k : Nat) : Nat := if k < 32768 then 32 else 16

/-- Entries of the queue in the store (R231): transmit descriptors whose fetch is not issued, receive buffers no frame has taken. -/
def State.inStore (s : State) (k : Nat) : Nat :=
  if k < 32768 then ((s.q k).order.filter (fun id => match s.txf id with
    | some f => f.stage == .accepted
    | none => false)).length
  else (s.q k).bufs.length

/-- Entries the store of one kind holds or expects (R231). -/
def State.storeUsed (s : State) (rx : Bool) : Nat :=
  (s.qs.filter (fun e => decide (32768 ≤ e.1) == rx)).foldl (fun n e => n + s.inStore e.1 + e.2.reading) 0

/-- Does a receive frame of queue `k` wait for, or come to, its buffers? -/
def State.admittedFor (s : State) (k : Nat) : Bool :=
  s.rxs.any (fun e => (e.2.stage == .admitted || e.2.stage == .waiting) &&
    (match e.2.verdict with
      | some v => s.poolQ v.ctx v.rxq true == some k
      | none => false))

/-- May the queue fetch: in `RUN` in an `ACTIVE` context, or draining (R231, R244, R266, R271)? -/
def State.mayFetch (s : State) (k : Nat) : Bool :=
  let q := s.q k
  let st := (s.ctx q.ctx).state
  (q.state == qRUN && st == cACTIVE) ||
  (q.state == qSTOPPING && st == cRESETTING && q.drainPi.isSome && (k < 32768 || s.admittedFor k))

/-- Posted entries not yet read, up to the index recorded at the start of a drain. -/
def QSt.posted (q : QSt) : Nat := occ q.log2 (q.drainPi.getD q.pi) q.fp

/-- Entries the next read of the queue covers (R231); zero where it has nothing to read or no room. -/
def State.readCount (s : State) (k : Nat) : Nat :=
  let q := s.q k
  let size := entrySize k
  let addr := slotAddr q.ring q.log2 q.fp size
  min (min q.posted (min (q.prefetch - (s.inStore k + q.reading)) (65536 - s.storeUsed (decide (32768 ≤ k)))))
    (min (2 ^ q.log2 - q.fp % 2 ^ q.log2) ((4096 - addr % 4096) / size))

/-- The place of a pool queue in the turn: ascending pool-queue order, both kinds alike. -/
def turnKey (k : Nat) : Nat := if k < 32768 then 2 * k + 1 else 2 * (k - 32768)
def ofTurnKey (t : Nat) : Nat := if t % 2 = 1 then t / 2 else t / 2 + 32768

/-- The queue whose turn it is (R231). -/
def State.fetchTurn (s : State) : Option Nat :=
  let l := ((s.qs.map (·.1)).filter (fun k => s.mayFetch k && s.readCount k != 0)).map turnKey
  (turnAfter s.ring.turn (l.mergeSort (fun a b => a ≤ b))).map ofTurnKey

/-- A descriptor read goes out for the next queue in turn (R231). -/
def execDescriptorReadIssue (s : State) : Host.Outcome State Fault Refusal :=
  .next (
    if !s.islandRuns 5 then s
    else match s.fetchTurn with
      | none => s
      | some k =>
        let q := s.q k
        let n := s.readCount k
        let addr := slotAddr q.ring q.log2 q.fp (entrySize k)
        let s := ({ s with ring := { s.ring with turn := turnKey k } } : State).setQ k
          { q with fp := (q.fp + n) % 2 ^ (q.log2 + 1), reading := q.reading + n }
        s.hostRead .descRead k (q.fp + 65536 * n) addr (n * entrySize k))

/-- Reads outstanding for a queue whose fetched entries no longer matter: their answers are dropped (R244, R271). -/
def State.forgetReads (s : State) (k : Nat) : State :=
  let hit (d : ReqKind) (a : Nat) : Bool := d == .descRead && a == k
  let s := { s with fab := { s.fab with
    reqs := s.fab.reqs.map (fun (r : Req) => if hit r.kind r.a then { r with a := r.a + 65536 } else r)
    done := s.fab.done.map (fun (d : Deliv) => if hit d.kind d.a then { d with a := d.a + 65536 } else d) } }
  s.setQ k { s.q k with reading := 0, poison := false }

/-- The first entry of the ring not yet read or refused: reads act in ring order. -/
def QSt.expected (q : QSt) (k : Nat) : Nat := if k < 32768 then q.ci else (q.ci + q.bufs.length) % 2 ^ (q.log2 + 1)

/-- May this answer act now? -/
def State.descReady (s : State) (d : Deliv) : Bool :=
  d.kind == .descRead && (65536 ≤ d.a || (s.q d.a).poison || d.b % 65536 == (s.q d.a).expected d.a)

/-- Is a transmit descriptor malformed (R235)? -/
def txBad (d : List Byte) : Bool :=
  let len := leNat d 8 2
  let t := byteAt d 0x0A % 4
  len == 0 || t == 3 || (t != 0 && len < 12) || byteAt d 0x0B / 2 != 0 || leNat d 0x18 8 != 0 || leNat d 0 8 / 2 ^ 57 != 0

/-- Length of the frame a transmit descriptor asks for (R139). -/
def txFrameLen (d : List Byte) : Nat := max 64 (leNat d 8 2 + 4 * (byteAt d 0x0A % 4) + 4)

/-- Is a receive buffer descriptor malformed (R238)? -/
def rxBad (d : List Byte) : Bool :=
  let len := leNat d 8 2
  leNat d 0 8 / 2 ^ 57 != 0 || len < 256 || 16384 < len || len % 64 != 0 || leNat d 0x0A 6 != 0

/-- A transmit descriptor's frame is accepted (R35). -/
def State.txAccept (s : State) (k idx : Nat) (d : List Byte) : State :=
  let q := s.q k
  let id := s.nextFr
  let f : TxFr := { queue := k, ctx := q.ctx, idx := idx, desc := d, len := txFrameLen d, stage := .accepted, chan := q.chan, cls := q.cls,
                    order := s.ring.order }
  let s := ({ s with nextFr := id + 1, ring := { s.ring with order := s.ring.order + 1 } } : State).setTx id f
  (s.setQ k { q with order := q.order ++ [id] }).ledAccept id q.ctx true s.tm.now f.len 0

/-- Where the first of some descriptor reads of queue `k` starts, counted from the entry next expected. -/
def State.readOffset (s : State) (k start : Nat) : Nat := occ (s.q k).log2 start ((s.q k).expected k)

/-- Reads of queue `k` that no beat has begun are not issued (R266, R270): the queue goes back to the first of them, and what was issued
beyond it is dropped when it answers. -/
def State.withdrawReads (s : State) (k : Nat) : State :=
  let mine (r : Req) : Bool := r.kind == .descRead && r.a == k
  let off (b : Nat) : Nat := s.readOffset k (b % 65536)
  match ((s.fab.reqs.filter (fun r => mine r && r.tag.isNone)).map (fun r => off r.b)).min? with
  | none => s
  | some m =>
    let late (b : Nat) : Bool := decide (m ≤ off b)
    let n := ((s.fab.reqs.filter (fun r => mine r && late r.b)).map (fun r => r.b / 65536)).sum +
      ((s.fab.done.filter (fun (d : Deliv) => d.kind == .descRead && d.a == k && late d.b)).map (fun (d : Deliv) => d.b / 65536)).sum
    let fp := ((s.q k).expected k + m) % 2 ^ ((s.q k).log2 + 1)
    let s : State := { s with fab := { s.fab with
      reqs := (s.fab.reqs.filter (fun r => !(mine r && r.tag.isNone))).map (fun (r : Req) => if mine r && late r.b then { r with a := r.a + 65536 } else r)
      done := s.fab.done.map (fun (d : Deliv) => if d.kind == .descRead && d.a == k && late d.b then { d with a := d.a + 65536 } else d) } }
    let s := s.setQ k { s.q k with fp := fp, reading := (s.q k).reading - n }
    if k < 32768 then s.txSettle k else s

/-- A squash begins (R266, R267): nothing more is read for queue `k`, and a transmit descriptor whose read has not answered counts as not
read, so that every frame squashed was accepted before (log entry 112). -/
def State.squashReads (s : State) (k : Nat) : State :=
  let s := (s.withdrawReads k).forgetReads k
  s.setQ k { s.q k with fp := (s.q k).expected k }

/-- A frame squashed by a reset is counted for its `RESET_DONE` (R279). -/
def State.countSquash (s : State) (x : Nat) : State :=
  match (s.ctx x).reset with
  | some r => s.setCtx x { s.ctx x with reset := some { r with count := r.count + 1 } }
  | none => s

/-- An accepted frame is refused for its descriptor, or left to be fetched (R139, R235). -/
def State.txCheck (s : State) (id : Nat) : State :=
  match s.txf id with
  | none => s
  | some f =>
    let q := s.q f.queue
    if (s.ch q.chan).tx.maxlen < f.len then s.txDrop id 0 sBADARG
    else if txBad f.desc then s.txDrop id 7 sBADARG
    else s

/-- Entries of a read, split off its bytes. -/
def entries (size : Nat) : Nat → List Byte → List (List Byte)
  | 0, _ => []
  | n + 1, d => d.take size :: entries size n (d.drop size)

/-- Transmit descriptors arrive: every frame is accepted, then each is judged (R235). -/
def State.txArrive (s : State) (k start : Nat) (l : List (List Byte)) : State :=
  let q := s.q k
  let s := s.setQ k { q with ci := (start + l.length) % 2 ^ (q.log2 + 1) }
  let first := s.nextFr
  let s := s.each l.zipIdx (fun s e => s.txAccept k ((start + e.2) % 2 ^ (q.log2 + 1)) e.1)
  s.each (List.range l.length) (fun s i => s.txCheck (first + i))

/-- Receive buffers arrive: the first malformed one faults the queue (R238). -/
def State.rxArrive (s : State) (k start addr : Nat) (l : List (List Byte)) : State :=
  let q := s.q k
  let good := l.takeWhile (fun d => !rxBad d)
  let bufs := good.zipIdx.map (fun e => ((start + e.2) % 2 ^ (q.log2 + 1), leNat e.1 0 8, leNat e.1 8 2))
  let s := s.setQ k { q with bufs := q.bufs ++ bufs }
  if good.length = l.length then s
  else (s.setQ k { s.q k with poison := (s.q k).reading != 0 }).qFault k 1 sBADARG ((start + good.length) % 2 ^ (q.log2 + 1))
    (addr + 16 * good.length)

/-- A descriptor read has answered (R233, R235, R238). -/
def State.descAnswer (s : State) (d : Deliv) : State :=
  if 65536 ≤ d.a then s
  else
    let k := d.a
    let n := d.b / 65536
    let start := d.b % 65536
    let q := s.q k
    let left := q.reading - n
    let s := s.setQ k { q with reading := left, poison := q.poison && left != 0 }
    let s := if q.poison then s
      else if d.resp ≠ .okay then (s.setQ k { s.q k with poison := left != 0 }).qFault k 1 (faultOf d.resp) start d.addr
      else if k < 32768 then s.txArrive k start (entries 32 n d.data)
      else s.rxArrive k start d.addr (entries 16 n d.data)
    if k < 32768 then s.txSettle k else s

/-- The next answered descriptor read acts; reads of one ring in ring order. -/
def execDescriptorReadResponse (s : State) : Host.Outcome State Fault Refusal :=
  .next (
    if !s.coreUp then s
    else match takeFirst s.descReady s.fab.done with
    | none => s
    | some (d, r) => ({ s with fab := { s.fab with done := r } } : State).descAnswer d)

/-! ## Fetching data (R36, R205) -/

/-- A run of bytes cut at 4 KiB boundaries (R232): offset, address, length of each piece. -/
def pagePieces : Nat → Nat → Nat → Nat → List (Nat × Nat × Nat)
  | 0, _, _, _ => []
  | n + 1, off, addr, len =>
    if len = 0 then []
    else
      let m := min len (4096 - addr % 4096)
      (off, addr, m) :: pagePieces n (off + m) (addr + m) (len - m)

/-- The pieces of a whole run. -/
def piecesOf (addr len : Nat) : List (Nat × Nat × Nat) := pagePieces (len / 4096 + 2) 0 addr len

/-- Limit on a queue's fetched, undispatched cells. -/
def State.qmax (s : State) : Nat := if s.rd FB_TX_QMAX_QMAX = 0 then 64 else s.rd FB_TX_QMAX_QMAX

/-- Cells of a queue's fetched, undispatched frames. -/
def State.fetchedCells (s : State) (k : Nat) : Nat :=
  (s.q k).order.foldl (fun n id => match s.txf id with
    | some f => if f.stage == .fetching || f.stage == .ready then n + f.cells else n
    | none => n) 0

/-- Does the queue's limit let a frame of `n` cells in (R205)? -/
def State.queueFits (s : State) (k n : Nat) : Bool := s.fetchedCells k == 0 || s.fetchedCells k + n ≤ s.qmax

/-- The frame whose fetch goes next: in the order in which descriptors returned, passing over queues at their limit (R205). -/
def State.fetchPick (s : State) : List Nat → List (Nat × TxFr) → Option (Nat × TxFr)
  | _, [] => none
  | skip, (id, f) :: r =>
    if skip.contains f.queue then s.fetchPick skip r
    else if !s.queueFits f.queue (cellsOf f.len) then s.fetchPick (f.queue :: skip) r
    else if s.fbTxFits (cellsOf f.len) then some (id, f) else none

/-- A transmit frame takes its cells and its data is fetched (R205). -/
def execDataFetchIssue (s : State) : Host.Outcome State Fault Refusal :=
  .next (
    if !s.islandRuns 5 then s
    else match s.fetchPick [] ((s.txs.filter (fun e => e.2.stage == .accepted)).mergeSort (fun a b => a.2.order ≤ b.2.order)) with
      | none => s
      | some (id, f) =>
        let n := cellsOf f.len
        let l := piecesOf (leNat f.desc 0 8) (leNat f.desc 8 2)
        let s := (s.fbTakeTx n).setTx id
          { f with stage := .fetching, cells := n, left := l.length, chan := (s.q f.queue).chan, cls := (s.q f.queue).cls }
        s.each l (fun s e => s.hostRead .dataFetch id e.1 e.2.1 e.2.2))

/-- A data fetch has answered (R36): after the last one the frame is wholly in cells, or dropped. -/
def State.dataAnswer (s : State) (id : Nat) (f : TxFr) (d : Deliv) : State :=
  let ok := d.resp == .okay
  let f := { f with left := f.left - 1, bad := f.bad || !ok, data := if ok then f.data ++ [(d.b, d.data)] else f.data }
  if f.left ≠ 0 then s.setTx id f
  else if f.bad then ((s.setTx id f).txDrop id 7 sFAULT).nodesRefresh
  else ((s.setTx id { f with stage := .ready, readyAt := s.tm.tick }).nodeWake id).nodesRefresh

/-- The oldest answered data fetch acts (R36); data of a frame that has ended is dropped. -/
def execDataFetchResponse (s : State) : Host.Outcome State Fault Refusal :=
  .next (
    match s.response .dataFetch with
    | none => s
    | some (d, s) => match s.txf d.a with
      | some f => if f.stage == .fetching then s.dataAnswer d.a f d else s
      | none => s)

/-! ## Receive buffers (R239, R442) -/

/-- How many of the fetched buffers hold `need` bytes: the fewest, at most 64; none where they do not (R239). -/
def takeBufs : List (Nat × Nat × Nat) → Nat → Nat → Option Nat
  | [], _, _ => none
  | b :: r, need, c => if c = 64 then none else if need ≤ b.2.2 then some (c + 1) else takeBufs r (need - b.2.2) (c + 1)

/-- What stage 8 does with a frame (R239, R260, R270): it drops it (with the queue concerned, if any), lets it wait, or gives it buffers. -/
inductive Take where
  | drop (k : Option Nat)
  | wait
  | take (k n : Nat)
  deriving DecidableEq, Repr

/-- R239, R260, R267, R270, R272. -/
def State.stage8 (s : State) (f : RxFr) : Take :=
  let v := f.verdict.getD {}
  let st := (s.ctx v.ctx).state
  if st = cFREEZING ∨ st = cFROZEN then .drop none
  else match s.poolQ v.ctx v.rxq true with
    | none => .drop none
    | some k =>
      let q := s.q k
      if q.state = qUNSET then .drop none
      else if q.state ≠ qRUN ∧ ¬(q.state = qSTOPPING ∧ q.drainPi.isSome) then .drop (some k)
      else match takeBufs q.bufs f.data.length 0 with
        | some n => .take k n
        | none => if occ q.log2 q.pi q.ci ≤ q.bufs.length ∨ 64 ≤ q.bufs.length then .drop (some k) else .wait

/-- The first cause-3 drop on a queue since its last doorbell writes `NO_RX_DESC` (R239); the event's `STATUS` is open (log entry 5). -/
def State.noRxDesc (s : State) (k : Nat) : State :=
  let q := s.q k
  if q.noRx then s
  else (s.draw.2.setQ k { q with noRx := true }).event q.ctx 4 q.qidx true (s.draw.1.toNat % 9) q.ci 0

/-- A frame's data over its buffers: address and bytes of each write (R232, R239). -/
def rxWrites : List (Nat × Nat × Nat) → List Byte → List (Nat × List Byte)
  | [], _ => []
  | b :: r, d =>
    ((piecesOf b.2.1 (min b.2.2 d.length)).map (fun e => (e.2.1, (d.drop e.1).take e.2.2))) ++ rxWrites r (d.drop b.2.2)

/-- The last data write of a frame has answered: its cells are free and its completion is due (R34, R241). -/
def State.rxDataDone (s : State) (id : Nat) : State :=
  match s.rxf id with
  | none => s
  | some f =>
    let s := if f.cells = 0 then s else s.fbFreeRx (8 * f.port + (f.verdict.getD {}).cls) f.cells
    s.setRx id { f with cells := 0, stage := .complete }

/-- A frame takes `n` buffers of queue `k` and is written (R239). Where a word of it is uncorrectable nothing is written (R442). -/
def State.rxTake (s : State) (id : Nat) (f : RxFr) (k n : Nat) (unc : Option (Fin 3072)) : State :=
  let q := s.q k
  let l := q.bufs.take n
  let w := if unc.isSome then [] else rxWrites l f.data
  let s := s.cellsUnc unc
  let s := s.setQ k { q with bufs := q.bufs.drop n, ci := (q.ci + n) % 2 ^ (q.log2 + 1), order := q.order ++ [id] }
  let s := s.setRx id { f with stage := .writing, queue := k, first := q.ci, nbuf := n, left := w.length, fault := unc.isSome }
  let s := s.each w (fun s e => s.hostWrite .rxData id 0 e.1 e.2)
  if w.isEmpty then s.rxDataDone id else s

/-- Frames at or before stage 8 in the order in which they were admitted (R239), each with what stage 8 does with it; only the first of each
queue. -/
def State.stage8List (s : State) : List (Nat × RxFr × Take) :=
  (((s.rxs.filter (fun e => e.2.stage == .admitted || e.2.stage == .waiting)).mergeSort (fun a b => a.2.order ≤ b.2.order)).foldl
    (fun (acc : List (Nat × RxFr × Take) × List (Nat × Nat)) e =>
      let v := e.2.verdict.getD {}
      if acc.2.contains (v.ctx, v.rxq) then acc else (acc.1 ++ [(e.1, e.2, s.stage8 e.2)], (v.ctx, v.rxq) :: acc.2)) ([], [])).1

/-- An admitted frame takes its buffers, begins to wait for them, or is dropped under cause 3 (R239). `unc` names the row where a word of its
cells was uncorrectable (R442). -/
def execRxDescriptorTake (unc : Option (Fin 3072)) (s : State) : Host.Outcome State Fault Refusal :=
  .next (
    if !s.coreUp then s
    else match s.stage8List.find? (fun e => !(e.2.1.stage == .waiting && e.2.2 == .wait)) with
    | none => s
    | some (id, f, t) =>
      match t with
      | .wait => s.setRx id { f with stage := .waiting }
      | .take k n => s.rxTake id f k n unc
      | .drop k => (match k with
        | some k => s.noRxDesc k
        | none => s).rxDrop id 3)

/-- The oldest answered data write acts (R34, R276). -/
def execRxDataWriteResponse (s : State) : Host.Outcome State Fault Refusal :=
  .next (
    match s.response .rxData with
    | none => s
    | some (d, s) => match s.rxf d.a with
      | none => s
      | some f =>
        let s := s.dirtyMark (f.verdict.getD {}).ctx d.addr
        let s := s.setRx d.a { f with left := f.left - 1, fault := f.fault || d.resp != .okay }
        if f.left - 1 = 0 then s.rxDataDone d.a else s)

/-! ## Completions (R237, R240 to R242) -/

/-- Status of a receive completion (R34, R240). -/
def RxFr.status (f : RxFr) : Nat :=
  if f.squash then sSQUASHED else if f.fault then sFAULT else if bitN f.flags 1 = 1 then sTRUNC else if f.colour = 2 then sPOLICED else sOK

/-- The receive completion entry (R240); a frame that was not stamped (R317) carries zero (log entry 107). -/
def rxEntry (f : RxFr) (ph : Nat) : List Byte :=
  let v := f.verdict.getD {}
  let t := if f.stamped then f.stamp else 0
  leBytes 2 f.first ++ leBytes 1 f.nbuf ++ leBytes 1 (f.status + 16 * f.flags) ++ leBytes 2 f.data.length ++
  leBytes 1 (f.colour + 4 * v.reason + 32 * v.cls) ++ leBytes 1 (f.tag1 + 4 * f.tag2 + 16 * b2n f.holdover) ++
  leBytes 2 f.tci1 ++ leBytes 2 f.tci2 ++ leBytes 4 f.csum ++
  leBytes 4 (nsOf t) ++ leBytes 2 (secOf t) ++ leBytes 2 (fracOf t) ++ leBytes 2 f.len ++ leBytes 5 0 ++ leBytes 1 ph

/-- The transmit completion entry (R237). -/
def txEntry (f : TxFr) (ph : Nat) : List Byte :=
  let t := f.stamp.getD (0, false)
  leBytes 2 f.idx ++ leBytes 1 f.status ++ leBytes 1 (b2n f.stamp.isSome + 2 * b2n t.2) ++ leBytes 4 f.len ++ (f.desc.drop 0x10).take 8 ++
  leBytes 4 (nsOf t.1) ++ leBytes 2 (secOf t.1) ++ leBytes 2 (fracOf t.1) ++ leBytes 7 0 ++ leBytes 1 ph

/-- The completion index moves on and a write is outstanding. -/
def QSt.issued (q : QSt) : QSt := { q with cpi := nextIdx q.log2 q.cpi, order := q.order.drop 1, cmplOut := q.cmplOut + 1 }

/-- The completion entry at the head of receive queue `n` is issued once its frame is wholly written (R241). -/
def execRxCompletionWrite (n : Fin 32768) (s : State) : Host.Outcome State Fault Refusal :=
  .next (
    let k := 32768 + n.val
    let q := s.q k
    match q.order.head?.bind (fun id => (s.rxf id).map (fun f => (id, f))) with
    | none => s
    | some (id, f) =>
      if f.stage != .complete || !s.coreUp then s
      else
        let s := (s.setQ k q.issued).setRx id { f with stage := .written }
        s.hostWrite .rxCmpl id q.cpi (slotAddr q.cmpl q.log2 q.cpi 32) (rxEntry f (phase q.log2 q.cpi)))

/-- The completion entry at the head of transmit queue `n` is issued once its descriptor has ended (R237, R241). -/
def execTxCompletionWrite (n : Fin 32768) (s : State) : Host.Outcome State Fault Refusal :=
  .next (
    let q := s.q n
    match q.order.head?.bind (fun id => (s.txf id).map (fun f => (id, f))) with
    | none => s
    | some (id, f) =>
      if f.stage != .ended || !f.need || !s.coreUp then s
      else
        let s := ((s.setQ n q.issued).delTx id).txSettle n
        s.hostWrite .txCmpl n q.cpi (slotAddr q.cmpl q.log2 q.cpi 32) (txEntry f (phase q.log2 q.cpi)))

/-- An entry of a queue's completion ring has answered `OKAY`: it is unannounced on the queue's vector (R241, R248). -/
def State.cmplAnnounce (s : State) (k : Nat) : State :=
  let q := s.q k
  if q.notify then s.announce q.ctx q.vector else s

/-- The answer of a receive completion (R34, R240 to R242, R267, R276). -/
def State.rxCmplAnswer (s : State) (d : Deliv) : State :=
  match s.rxf d.a with
  | none => s
  | some f =>
    let k := f.queue
    let x := (f.verdict.getD {}).ctx
    let ok := d.resp == .okay
    let s := (s.dirtyMark x d.addr).setQ k { s.q k with cmplOut := (s.q k).cmplOut - 1 }
    let s := (if f.squash then s.ledDrop d.a x false s.tm.now 5 f.len
      else if f.fault || !ok then s.ledDrop d.a x false s.tm.now 7 f.len
      else s.ledDeliver d.a x false s.tm.now f.len).delRx d.a
    if ok then s.cmplAnnounce k else s.qFault k 2 (faultOf d.resp) d.b d.addr

/-- The answer of a transmit completion (R241, R242). -/
def State.txCmplAnswer (s : State) (d : Deliv) : State :=
  let k := d.a
  let s := (s.dirtyMark (s.q k).ctx d.addr).setQ k { s.q k with cmplOut := (s.q k).cmplOut - 1 }
  if d.resp = .okay then s.cmplAnnounce k else (s.qFault k 2 (faultOf d.resp) d.b d.addr).txSettle k

/-- The answer of an event write (R247, R248). -/
def State.eventAnswer (s : State) (d : Deliv) : State :=
  let s := s.dirtyMark d.a d.addr
  if d.resp ≠ .okay then s.evLost d.a
  else match (s.ctx d.a).evr with
    | some r => if r.notify then s.announce d.a r.vector else s
    | none => s

/-- The oldest answered write of a completion ring or event ring acts. -/
def execCompletionWriteResponse (s : State) : Host.Outcome State Fault Refusal :=
  .next (
    if !s.coreUp then s
    else match takeFirst (fun (d : Deliv) => d.kind == .rxCmpl || d.kind == .txCmpl || d.kind == .event) s.fab.done with
    | none => s
    | some (d, r) =>
      let s : State := { s with fab := { s.fab with done := r } }
      match d.kind with
      | .rxCmpl => s.rxCmplAnswer d
      | .txCmpl => s.txCmplAnswer d
      | _ => s.eventAnswer d)

/-! ## The end of a queue (R244) -/

/-- Does a frame of the queue lie between transmit stages 2 and 7 or receive stages 8 and 10? A draining queue has also still to take in what was
posted or admitted before the reset (R266, R267). -/
def State.queueBusy (s : State) (k : Nat) : Bool :=
  let q := s.q k
  !q.order.isEmpty || q.cmplOut != 0 ||
  (if k < 32768 then q.reading != 0 || q.unread
   else s.rxs.any (fun e => (e.2.stage == .waiting || (q.drainPi.isSome && e.2.stage == .admitted)) &&
     (match e.2.verdict with
       | some v => s.poolQ v.ctx v.rxq true == some k
       | none => false)))

/-- Pool queue `n` of a kind ends its stop (R244): the event's `STATUS` is open (log entry 5). -/
def execQueueStopped (n : Fin 32768) (rx : Bool) (s : State) : Host.Outcome State Fault Refusal :=
  .next (
    let k := n.val + 32768 * b2n rx
    let q := s.q k
    if q.state != qSTOPPING || s.queueBusy k || !s.coreUp then s
    else
      let s := s.forgetReads k
      let s := s.setQ k { s.q k with state := qSTOPPED, bufs := [], fp := q.ci, stopCmd := none, drainPi := none }
      (s.draw.2.event q.ctx 3 q.qidx rx (s.draw.1.toNat % 9) q.ci 0).cmdDone? q.stopCmd sOK q.ci)

/-! ## Notification (R248) -/

/-- `MOD_US` has passed since the oldest unannounced entry of vector `v`. -/
def execNotifyModTimer (x : Fin 4096) (v : Fin 64) (s : State) : Host.Outcome State Fault Refusal :=
  .next (
    let s := if s.coreUp then s.vecSettle x v else s
    let n := s.vec x v
    match n.un with
    | [] => s
    | t :: _ => if !s.coreUp then s else if n.modUs = 0 then s.vecCheck x v else (s.advanceTo (t + 1600 * n.modUs)).vecCheck x v)

/-- A message write has answered. -/
def execNotifyMessageResponse (s : State) : Host.Outcome State Fault Refusal :=
  .next (
    match s.response .notify with
    | none => s
    | some (d, s) => if d.resp = .okay then s else (s.bump HR_NT_FAIL_COUNT).raise HR_EVT_NT_FAIL)

end Sys2Proof.Machine
end

