-- ==== Sys2Proof/Machine/Contexts.lean ====
section
/-! DEFINITION. The management command ring and its commands, tenant contexts, their reset, freeze, images and dirty-page logging (R249 to
R279, R310). -/

namespace Sys2Proof.Machine

/-! ## Running a command (R251, R252) -/

/-- The command read next starts, if its `OP` is the one given and `FENCE` allows. -/
def State.cmdStart (s : State) (op : Nat) : Option (Nat × CmdSt × State) :=
  match s.ring.heads with
  | e :: _ =>
    if byteAt e 0 = op && s.cmdMayStart e && s.islandRuns 5 then
      let id := s.ring.nextId
      let c := cmdOf e
      let s : State := { s with ring := { s.ring with active := optSet s.ring.active id c, nextId := id + 1 } }
      some (id, c, s.refreshActive.cmdTake)
    else none
  | [] => none

/-- Bits of an operand: byte offset, lowest bit, width. -/
def CmdSt.f (c : CmdSt) (off lo w : Nat) : Nat := bits (leNat c.entry off 8) lo w

/-- The bits a command may set: the header of R250 and the operands of R254. -/
def maskOf (l : List (Nat × Nat × Nat)) : Nat :=
  l.foldl (fun m e => m ||| (2 ^ e.2.2 - 1) * 2 ^ (8 * e.1 + e.2.1)) (0x1FF + 0xFFFF * 2 ^ 16 + 0xFFF * 2 ^ 32)

/-- Are all reserved bits zero? -/
def CmdSt.formOk (c : CmdSt) (l : List (Nat × Nat × Nat)) : Bool := leNat c.entry 0 64 &&& maskOf l == leNat c.entry 0 64

/-- The pool queue that `QUEUE` and `KIND` name. -/
def CmdSt.queue (c : CmdSt) (s : State) : Option Nat := s.poolQ c.ctx (c.f 8 0 6) (c.f 8 6 1 == 1)

/-- The shaper a `SHAPER_SET` names: a tenant's, or a queue's that belongs to the header's context. -/
def CmdSt.shaper (c : CmdSt) (s : State) : Option Nat :=
  let i := c.f 8 0 15
  if c.f 10 0 1 = 1 then (if i < 4096 then some (32768 + i) else none)
  else if (s.q i).owned && (s.q i).ctx == c.ctx then some i else none

/-- `RESULT` of a command that is refused (R255): CI of the queue a `Q_STOP` names, `GEN` of the set a `SHAPER_SET` names. -/
def CmdSt.refused (c : CmdSt) (s : State) : Nat :=
  if c.op = 0x12 then ((c.queue s).map (fun k => (s.q k).ci)).getD 0
  else if c.op = 0x30 then ((c.shaper s).map (fun i => (s.shap i).gen)).getD 0
  else 0

/-- A command runs: form, then its own effect (R252). -/
def State.runCmd (s : State) (op : Nat) (l : List (Nat × Nat × Nat)) (form : CmdSt → State → Bool)
    (f : Nat → CmdSt → State → State) : State :=
  match s.cmdStart op with
  | none => s
  | some (id, c, s) => if c.formOk l && form c s then f id c s else s.cmdDone id sBADARG (c.refused s)

/-- The state check: what is not legal completes with `STATE`. -/
def State.legal (s : State) (id : Nat) (p : Bool) (f : State → State) : State :=
  if p then f s else s.cmdDone id sSTATE (((optGet s.ring.active id).map (fun c => c.refused s)).getD 0)

/-- Command `NOP`. -/
def execCmdNop (s : State) : Host.Outcome State Fault Refusal :=
  .next (s.runCmd 0 [] (fun _ _ => true) (fun id _ s => s.cmdDone id sOK 0))

/-! ## Queues of a context (R258, R259) -/

/-- `need` of the lowest numbers from `c` on that are not in an ascending list. -/
def freeFrom : Nat → Nat → List Nat → Nat → List Nat
  | 0, _, _, _ => []
  | _ + 1, _, _, 0 => []
  | n + 1, c, u :: us, k + 1 => if c = u then freeFrom n (c + 1) us (k + 1) else c :: freeFrom n (c + 1) (u :: us) k
  | n + 1, c, [], k + 1 => c :: freeFrom n (c + 1) [] k

/-- Pool queues of a kind that belong to a context, ascending. -/
def State.ownedQueues (s : State) (rx : Bool) : List Nat :=
  (s.qs.filter (fun e => e.2.owned && decide (32768 ≤ e.1) == rx)).map (fun e => e.1 % 32768)

/-- The pool queues an allocation takes, lowest free first; none where a pool holds too few (R258). -/
def State.allocQueues (s : State) (ntx nrx : Nat) : Option (List Nat × List Nat) :=
  let t := s.ownedQueues false
  let r := s.ownedQueues true
  if t.length + ntx ≤ 32768 ∧ r.length + nrx ≤ 32768 then
    some (freeFrom (t.length + ntx + 1) 0 t ntx, freeFrom (r.length + nrx + 1) 0 r nrx)
  else none

/-- A shaper and its shade set go back to their reset values; a pending commit is discarded and counted, and its command completes with
`STATE` (R259). -/
def State.shapReset (s : State) (i : Nat) : State :=
  let x := s.shap i
  let y : ShapSt := { gen := x.gen, cred := x.cred, spent := x.spent, disc := x.disc + x.tok }
  let s := if x.locked then s.bump (SC_COMMIT_REJ i) else s
  (s.setShap i y).cmdDone? x.cmd sSTATE x.gen

/-- The context's own shade set goes back to its reset values. -/
def State.cxShadeReset (s : State) (x : Nat) : State :=
  let s := if s.is (CX_COMMIT_LOCKED x) then (s.bump (CX_COMMIT_REJ x)).raise CX_EVT_SHADE_REJ else s
  (((s.wr (CX_COMMIT_LOCKED x) 0).wr (CX_OWNER_OWNER x) 0).wr (CX_PARAM_PC_GROUPS x) 0).wr (CX_PARAM_EV_STATE x) 0

/-- Queues join context `x`, each `UNSET`, their shapers at reset values (R258). -/
def State.giveQueues (s : State) (x : Nat) (a : List Nat × List Nat) : State :=
  let s := s.each a.1.zipIdx (fun s e => (s.shapReset e.1).setQ e.1 { owned := true, ctx := x, qidx := e.2 })
  s.each a.2.zipIdx (fun s e => s.setQ (32768 + e.1) { owned := true, ctx := x, qidx := e.2 })

/-- May number `x` be taken into use: `FREE`, its earlier use closed (R310), and no image on its way to it? `id` is the command asking. -/
def State.ctxFree (s : State) (x id : Nat) : Bool :=
  (s.ctx x).state == cFREE && (s.ctx x).closing.isNone && !s.ring.active.any (fun e => e.1 != id && e.2.op == 6 && e.2.ctx == x)

/-- Command `CTX_CREATE` (R257, R258). -/
def execCtxCreate (s : State) : Host.Outcome State Fault Refusal :=
  .next (s.runCmd 1 [(8, 0, 7), (9, 0, 7)] (fun c _ => c.f 8 0 7 ≤ 64 && c.f 9 0 7 ≤ 64) (fun id c s =>
    s.legal id (s.ctxFree c.ctx id) (fun s =>
      match s.allocQueues (c.f 8 0 7) (c.f 9 0 7) with
      | none => s.cmdDone id sNORES 0
      | some a =>
        let s := ((s.giveQueues c.ctx a).shapReset (32768 + c.ctx)).cxShadeReset c.ctx
        (s.setCtx c.ctx { state := cACTIVE, txq := a.1, rxq := a.2, dirty := (s.ctx c.ctx).dirty }).cmdDone id sOK 0)))

/-- The in-flight count of a destroyed context has reached zero (R310): its counters move into a slot and the number is free. -/
def State.ctxClose (s : State) (x : Nat) (cmd : Option Nat) : State :=
  let c := s.ctx x
  ((s.ledSlot x c.owner).setCtx x { c with closing := none, owner := 0 }).cmdDone? cmd sOK 0

/-- The queues of context `x`. -/
def State.ctxQueues (s : State) (x : Nat) : List Nat := (s.ctx x).txq ++ (s.ctx x).rxq.map (· + 32768)

/-- Closing slots taken or promised (R310). -/
def State.slotsTaken (s : State) : Nat := s.led.slots.length + (s.ctxs.filter (fun e => e.2.closing.isSome)).length

/-- What `DIRTY_STOP` completes with (R277). -/
def DirtySt.status (d : DirtySt) : Nat := if d.fault then sFAULT else sOK

/-- The end of the context's dirty-page logging is asked for, by a command or by its destruction: it ends at once where no mark is outstanding
(R259, R276). A `DIRTY_STOP` that waits already keeps waiting; a session may outlast its context. -/
def State.dirtyEnd (s : State) (x : Nat) (cmd : Option Nat) : State :=
  match (s.ctx x).dirty with
  | some d =>
    let c := cmd.or d.stopCmd
    if s.awaitsFor .dirtyMark x then s.setCtx x { s.ctx x with dirty := some { d with stopping := true, stopCmd := c } }
    else (s.setCtx x { s.ctx x with dirty := none }).cmdDone? c d.status 0
  | none => s

/-- Command `CTX_DESTROY` (R257, R259, R310). -/
def execCtxDestroy (s : State) : Host.Outcome State Fault Refusal :=
  .next (s.runCmd 2 [] (fun c _ => c.ctx != 0) (fun id c s =>
    let x := c.ctx
    let t := s.ctx x
    s.legal id (t.state == cACTIVE && t.evr.isNone && (s.ctxQueues x).all (fun k => (s.q k).state == qUNSET)) (fun s =>
      if 64 ≤ s.slotsTaken then s.cmdDone id sNORES 0
      else
        let s := s.each t.txq (fun s k => s.shapReset k)
        let s := (s.shapReset (32768 + x)).cxShadeReset x
        let s := s.each (s.ctxQueues x) (fun s k => { s with qs := mapErase k s.qs })
        let s := (s.setCtx x { owner := t.owner, closing := some (some id), dirty := t.dirty }).dirtyEnd x none
        if s.inFlight x then s else s.ctxClose x (some id))))

/-- The in-flight count of destroyed context `x` has reached zero (R310). -/
def execContextClose (x : Fin 4096) (s : State) : Host.Outcome State Fault Refusal :=
  .next (match (s.ctx x).closing with
    | some cmd => if s.inFlight x || !s.coreUp then s else s.ctxClose x cmd
    | none => s)

/-! ## Context events and messages (R248, R279) -/

/-- A context event; it names no queue, and what its `QUEUE` and `KIND` hold is open (log entry 5). -/
def State.ctxEvent (s : State) (x type status idx addr : Nat) : State :=
  s.draw.2.event x type (s.draw.1.toNat % 64) (s.draw.1.getLsbD 6) status idx addr

/-- Messages held for context `x` may go. -/
def State.vecRelease (s : State) (x : Nat) : State := s.each ((s.ctx x).vecs.map (·.1)) (fun s v => s.vecCheck x v)

/-! ## Reset (R265 to R269) -/

/-- Requests of a kind for one frame no beat of which has been sent are not issued (R267). -/
def State.unissue (s : State) (k : ReqKind) (id : Nat) : Nat × State :=
  let gone (r : Req) : Bool := r.kind == k && r.a == id && r.tag.isNone
  ((s.fab.reqs.filter gone).length, { s with fab := { s.fab with reqs := s.fab.reqs.filter (fun r => !gone r) } })

/-- A receive frame of a squashed context (R267). A frame whose completion has been issued is past what the reset can change. -/
def State.squashRx (s : State) (x id : Nat) (f : RxFr) : State :=
  if f.stage = .admitted ∨ f.stage = .waiting then (s.countSquash x).rxDrop id 5
  else if f.stage = .complete then (s.countSquash x).setRx id { f with squash := true }
  else if f.stage = .writing then
    let u := s.unissue .rxData id
    let s := (u.2.countSquash x).setRx id { f with squash := true, left := f.left - u.1 }
    if f.left - u.1 = 0 then s.rxDataDone id else s
  else s

/-- A transmit frame of a squashed context that is not yet dispatched (R267). -/
def State.squashTx (s : State) (x id : Nat) (f : TxFr) : State :=
  if f.main.isNone && (f.stage == .accepted || f.stage == .fetching || f.stage == .ready) then
    ((s.countSquash x).unissue .dataFetch id).2.txDrop id 5 sSQUASHED
  else s

/-- Frames of context `x` on their way to, or in, staging. -/
def State.stagedFrames (s : State) (x : Nat) : Nat :=
  (s.txs.filter (fun e => e.2.ctx == x && e.2.main.isNone && (e.2.stage == .dispatched || e.2.stage == .staged))).length

/-- All outstanding work of context `x` that can still be squashed is (R267). -/
def State.squashAll (s : State) (x : Nat) : State :=
  let s := s.each (s.ctxQueues x) (fun s k => s.squashReads k)
  let s := s.each s.rxs (fun s e => if (e.2.verdict.getD {}).ctx = x then s.squashRx x e.1 e.2 else s)
  let s := s.each s.txs (fun s e => if e.2.ctx = x then s.squashTx x e.1 e.2 else s)
  let n := s.stagedFrames x
  let s := s.each (List.range 32) (fun s c => s.dropStaged c 5 sSQUASHED (fun f => f.ctx == x))
  let s := s.each (List.range (n - s.stagedFrames x)) (fun s _ => s.countSquash x)
  (s.each (s.ctx x).txq (fun s k => s.txSettle k)).nodesRefresh

/-- Every queue in `RUN` enters `STOPPING` (R266); one that drains notes what is posted. -/
def State.stopQueues (s : State) (x : Nat) (drain : Bool) : State :=
  s.each (s.ctxQueues x) (fun s k =>
    let q := s.q k
    if q.state = qRUN then s.setQ k { q with state := qSTOPPING, faulted := false, drainPi := if drain then some q.pi else none } else s)

/-- Command `CTX_RESET` (R257, R265 to R267). -/
def execCtxReset (s : State) : Host.Outcome State Fault Refusal :=
  .next (s.runCmd 3 [(8, 0, 1)] (fun _ _ => true) (fun id c s =>
    let x := c.ctx
    let t := s.ctx x
    let squash := c.f 8 0 1 == 1
    s.legal id (t.state == cACTIVE || t.state == cFROZEN) (fun s =>
      let s := s.setCtx x { t with state := cRESETTING, reset := some ⟨squash, some id, s.tm.tick, 0, false⟩ }
      let s := (s.stopQueues x (!squash)).vecRelease x
      if squash then s.squashAll x else s)))

/-- Is everything of context `x` at its end: no frame, no completion, event or mark write without its answer, every queue at rest (R269, R271)? -/
def State.ctxQuiet (s : State) (x : Nat) : Bool :=
  !s.awaitsFor .event x && !s.awaitsFor .dirtyMark x &&
  (s.ctxQueues x).all (fun k => (s.q k).order.isEmpty && (s.q k).cmplOut == 0 && (s.q k).state != qSTOPPING)

/-- `DRAIN_US` has passed since the reset of context `x` began: what is left is squashed (R268). -/
def execDrainTimeout (x : Fin 4096) (s : State) : Host.Outcome State Fault Refusal :=
  .next (match (s.ctx x).reset with
    | some r =>
      if (s.ctx x).state != cRESETTING || r.squash || !s.coreUp then s
      else
        let s := s.advanceTo (r.start + usTicks (s.rd CX_LIMITS_DRAIN_US))
        let s := (s.setCtx x { s.ctx x with reset := some { r with squash := true, timeout := true } }).bump (CX_STAT_DRAIN_TMO x)
        let s := s.each (s.ctxQueues x) (fun s k => s.setQ k { s.q k with drainPi := none })
        s.squashAll x
    | none => s)

/-- The reset of context `x` ends (R269, R279). -/
def execResetEnd (x : Fin 4096) (s : State) : Host.Outcome State Fault Refusal :=
  .next (match (s.ctx x).reset with
    | some r =>
      if (s.ctx x).state != cRESETTING || s.inFlight x || !s.ctxQuiet x || !s.coreUp then s
      else
        let st := if r.timeout then sTIMEOUT else sOK
        let s := (s.setCtx x { s.ctx x with state := cACTIVE, reset := none }).raise CX_EVT_RESET_DONE
        (s.ctxEvent x 8 st (min 0xFFFF r.count) 0).cmdDone? r.cmd st 0
    | none => s)

/-! ## Freeze and resume (R270 to R272, R275) -/

/-- Command `CTX_FREEZE` (R257, R270): no further descriptor or buffer read is issued, and messages are held. -/
def execCtxFreeze (s : State) : Host.Outcome State Fault Refusal :=
  .next (s.runCmd 4 [] (fun _ _ => true) (fun id c s =>
    s.legal id ((s.ctx c.ctx).state == cACTIVE) (fun s =>
      let s := s.each ((s.ctx c.ctx).vecs.map (·.1)) (fun s v => s.vecRecall c.ctx v)
      let s := s.each (s.ctxQueues c.ctx) (fun s k => s.withdrawReads k)
      s.setCtx c.ctx { s.ctx c.ctx with state := cFREEZING, freeze := some (some id, s.tm.tick) })))

/-- Has context `x` a frame in transmit stages 2 to 7 or receive stages 8 to 10 (R271)? -/
def State.freezeBusy (s : State) (x : Nat) : Bool :=
  s.led.tags.any (fun e => e.2.ctx == x && e.2.tx) || (s.ctx x).txq.any (fun k => (s.q k).reading != 0) ||
  s.rxs.any (fun e => (e.2.verdict.getD {}).ctx == x &&
    (e.2.stage == .waiting || e.2.stage == .writing || e.2.stage == .complete || e.2.stage == .written))

/-- The freeze of context `x` ends (R271). -/
def execFreezeEnd (x : Fin 4096) (s : State) : Host.Outcome State Fault Refusal :=
  .next (match (s.ctx x).freeze with
    | some (cmd, _) =>
      if (s.ctx x).state != cFREEZING || s.freezeBusy x || !s.ctxQuiet x || !s.coreUp then s
      else
        let s := s.each (s.ctxQueues x) (fun s k =>
          let s := s.forgetReads k
          s.setQ k { s.q k with bufs := [], fp := (s.q k).ci })
        ((s.setCtx x { s.ctx x with state := cFROZEN, freeze := none }).raise CX_EVT_FROZEN).cmdDone? cmd sOK 0
    | none => s)

/-- `FREEZE_US` has passed: context `x` goes back to `ACTIVE` (R257, R271, R279). -/
def execFreezeTimeout (x : Fin 4096) (s : State) : Host.Outcome State Fault Refusal :=
  .next (match (s.ctx x).freeze with
    | some (cmd, t) =>
      if (s.ctx x).state != cFREEZING || !s.coreUp then s
      else
        let s := s.advanceTo (t + usTicks (s.rd CX_LIMITS_FREEZE_US))
        let s := (s.setCtx x { s.ctx x with state := cACTIVE, freeze := none }).raise CX_EVT_FREEZE_ABORT
        let s := if (s.ctx x).evState then s.ctxEvent x 10 sTIMEOUT 0 0 else s
        (s.vecRelease x).cmdDone? cmd sTIMEOUT 0
    | none => s)

/-- Command `CTX_RESUME` (R257, R275, R279): each vector with entries held counts as holding one, whose age starts now. -/
def execCtxResume (s : State) : Host.Outcome State Fault Refusal :=
  .next (s.runCmd 7 [] (fun _ _ => true) (fun id c s =>
    let x := c.ctx
    s.legal id ((s.ctx x).state == cFROZEN) (fun s =>
      let t := s.ctx x
      let vecs := t.vecs.map (fun e => (e.1, { e.2 with un := if e.2.un.isEmpty then [] else [s.tm.tick] }))
      let s := (s.setCtx x { t with state := cACTIVE, vecs := vecs }).vecRelease x
      let s := if t.evState then s.ctxEvent x 9 sOK 0 0 else s
      s.cmdDone id sOK 0)))

/-! ## Images (R273, R274) -/

/-- A queue record (R273); all zero for a queue that is `UNSET`. -/
def QSt.record (q : QSt) : Nat :=
  if q.state = qUNSET then 0
  else q.ring / 64 + 2 ^ 51 * (q.cmpl / 64) + 2 ^ 102 * q.pi + 2 ^ 118 * q.ci + 2 ^ 134 * q.cpi + 2 ^ 150 * q.log2 + 2 ^ 154 * q.prefetch +
    2 ^ 161 * q.vector + 2 ^ 167 * b2n q.notify + 2 ^ 168 * q.state

/-- A vector's 16 bytes (R273). -/
def VecSt.record (v : VecSt) : List Byte :=
  leBytes 8 (v.addr + 2 ^ 62 * b2n (!v.un.isEmpty) + 2 ^ 63 * b2n v.mask) ++ leBytes 4 v.data ++ leBytes 2 v.modUs ++ leBytes 1 v.modCnt ++ leBytes 1 0

/-- An image's first 252 bytes. -/
def State.imageHead (s : State) (x : Nat) : List Byte :=
  let c := s.ctx x
  let t := s.shap (32768 + x)
  let e := c.evr
  leBytes 4 0x58434656 ++ leBytes 4 1 ++ leBytes 4 x ++ leBytes 4 (c.txq.length + 2 ^ 8 * c.rxq.length) ++
  leBytes 4 c.owner ++ leBytes 4 (c.groups + 2 ^ 8 * b2n c.evState) ++
  leBytes 4 t.rate ++ leBytes 4 t.burst ++ leBytes 8 (t.weight + 2 ^ 12 * b2n t.shape + 2 ^ 13 * b2n t.fill) ++
  leBytes 8 ((e.map (·.base)).getD 0) ++ leBytes 2 ((e.map (·.pi)).getD 0) ++ leBytes 2 ((e.map (·.ci)).getD 0) ++
  leBytes 2 (match e with
    | some r => r.log2 + 2 ^ 4 * r.vector + 2 ^ 10 * b2n r.notify + 2 ^ 11
    | none => 0) ++
  leBytes 2 (s.rd (HR_CTX_EVL_EV_LOST x)) ++ leBytes 196 0

/-- Records of 64 queues of a kind. -/
def State.imageQueues (s : State) (l : List Nat) : List Byte :=
  (List.range 64).flatMap (fun i => leBytes 22 (match l[i]? with
    | some k => (s.q k).record
    | none => 0))

/-- An image from 0x100 on. -/
def State.imageTail (s : State) (x : Nat) : List Byte :=
  (List.range 64).flatMap (fun v => (s.vec x v).record) ++ s.imageQueues (s.ctx x).txq ++ s.imageQueues ((s.ctx x).rxq.map (· + 32768))

/-- The image of context `x` (R273). -/
def State.image (s : State) (x : Nat) : List Byte :=
  let h := s.imageHead x
  let t := s.imageTail x
  h ++ leBytes 4 (crc32c (h ++ t)) ++ t

/-- An address within the 57 bits of the fabric, aligned. -/
def addrOk (a align : Nat) : Bool := a < 2 ^ 57 && a % align == 0

/-- Command `CTX_SAVE` (R273); the image is a unit of stream 21 (R359). -/
def execCtxSave (s : State) : Host.Outcome State Fault Refusal :=
  .next (s.runCmd 5 [(8, 0, 64)] (fun c _ => addrOk (c.f 8 0 64) 4096) (fun id c s =>
    s.legal id ((s.ctx c.ctx).state == cFROZEN) (fun s =>
      (s.cuStream 21 true (s.image c.ctx) true).hostWrite .imageWrite id c.ctx (c.f 8 0 64) (s.image c.ctx))))

/-- The image write has answered (R273). -/
def execImageWriteResponse (s : State) : Host.Outcome State Fault Refusal :=
  .next (match s.response .imageWrite with
    | none => s
    | some (d, s) => s.cmdDone d.a (if d.resp = .okay then sOK else faultOf d.resp) 0)

/-- Command `CTX_RESTORE` (R274). -/
def execCtxRestore (s : State) : Host.Outcome State Fault Refusal :=
  .next (s.runCmd 6 [(8, 0, 64)] (fun c _ => addrOk (c.f 8 0 64) 4096) (fun id c s =>
    s.legal id (s.ctxFree c.ctx id) (fun s => (s.cuStream 22 true [] false).hostRead .imageRead id c.ctx (c.f 8 0 64) 4096)))

/-- The tests of a ring's indices (R274, code 5): log2, producer, consumer. -/
def idxBad (n pi ci : Nat) : Bool := 2 ^ (n + 1) ≤ pi || 2 ^ n < occ n pi ci

/-- The tests of a queue record of the image, each with the byte it fails at. -/
def recordTests (d : List Byte) (base : Nat) (used : Bool) : List (Nat × Bool) :=
  let r := leNat d base 22
  if !used then (List.range 22).map (fun i => (base + i, byteAt d (base + i) != 0))
  else
    let st := bits r 168 2
    let n := bits r 150 4
    let set := st != 0
    [ (base + 12, set && idxBad n (bits r 102 16) (bits r 118 16)), (base + 14, set && 2 ^ (n + 1) ≤ bits r 118 16),
      (base + 16, set && 2 ^ (n + 1) ≤ bits r 134 16), (base + 18, set && n < 6),
      (base + 19, set && (bits r 154 7 == 0 || 64 < bits r 154 7)), (base + 21, st == 2 || bits r 170 6 != 0) ]

/-- The tests of code 5 in ascending offset (R274). -/
def imageTests (d : List Byte) : List (Nat × Bool) :=
  let w (o : Nat) : Nat := leNat d o 4
  let ntx := bits (w 0x00C) 0 7
  let nrx := bits (w 0x00C) 8 7
  let e := w 0x034
  let set := bitN e 11 == 1
  let n := bits e 0 4
  [ (0x004, w 4 / 2 ^ 16 != 0), (0x008, w 8 / 2 ^ 12 != 0),
    (0x00C, 64 < ntx || 64 < nrx || bitN (w 0x00C) 7 != 0 || w 0x00C / 2 ^ 15 != 0),
    (0x014, w 0x014 / 2 ^ 9 != 0), (0x01C, w 0x01C / 2 ^ 24 != 0), (0x020, w 0x020 / 2 ^ 14 != 0), (0x024, w 0x024 != 0),
    (0x028, w 0x028 % 64 != 0), (0x02C, w 0x02C / 2 ^ 25 != 0),
    (0x030, set && (idxBad n (bits (w 0x030) 0 16) (bits (w 0x030) 16 16) || 2 ^ (n + 1) ≤ bits (w 0x030) 16 16)),
    (0x034, (set && n < 6) || bits e 12 4 != 0) ] ++
  (List.range 49).map (fun i => (0x038 + 4 * i, w (0x038 + 4 * i) != 0)) ++
  (List.range 64).flatMap (fun v => [(0x100 + 16 * v, byteAt d (0x100 + 16 * v) % 4 != 0), (0x104 + 16 * v, bits (w (0x104 + 16 * v)) 25 5 != 0), (0x10C + 16 * v, byteAt d (0x10F + 16 * v) != 0)]) ++
  (List.range 64).flatMap (fun q => recordTests d (0x500 + 22 * q) (decide (q < ntx))) ++
  (List.range 64).flatMap (fun q => recordTests d (0xA80 + 22 * q) (decide (q < nrx)))

/-- The first failure of an image (R274), codes 2 to 5, with the offset of its word. -/
def imageBad (d : List Byte) : Option (Nat × Nat) :=
  if leNat d 0 4 ≠ 0x58434656 then some (2, 0)
  else if leNat d 4 2 ≠ 1 then some (3, 4)
  else if leNat d 0x0FC 4 ≠ crc32c (d.take 0x0FC ++ d.drop 0x100) then some (4, 0x0FC)
  else ((imageTests d).find? (·.2)).map (fun e => (5, e.1 / 4 * 4))

/-- A restore fails (R274). -/
def State.imageFail (s : State) (id code off status : Nat) : State :=
  ((s.wr CX_IMG_ERR_CODE code).wr CX_IMG_ERR_OFF off).cmdDone id status 0

/-- A queue is loaded from its record (R274). -/
def loadQueue (x i r : Nat) : QSt :=
  let st := bits r 168 2
  let q : QSt := { owned := true, ctx := x, qidx := i }
  if st = 0 then q
  else
    { q with
        state := st, ring := 64 * bits r 0 51, cmpl := 64 * bits r 51 51, pi := if st = 3 then 0 else bits r 102 16, ci := bits r 118 16,
        fp := bits r 118 16, cpi := bits r 134 16, log2 := bits r 150 4, prefetch := bits r 154 7, vector := bits r 161 6,
        notify := bitN r 167 == 1 }

/-- A vector is loaded (R274). -/
def loadVec (d : List Byte) (v : Nat) : VecSt :=
  let o := 0x100 + 16 * v
  let a := leNat d o 8
  { addr := bits a 0 57, mask := bitN a 63 == 1, data := leNat d (o + 8) 4, modUs := leNat d (o + 12) 2, modCnt := byteAt d (o + 14),
    un := if bitN a 62 = 1 then [0] else [] }

/-- An image is loaded and the context starts in `FROZEN` (R274). -/
def State.imageLoad (s : State) (x : Nat) (d : List Byte) (a : List Nat × List Nat) : State :=
  let w (o : Nat) : Nat := leNat d o 4
  let s := ((s.giveQueues x a).shapReset (32768 + x)).cxShadeReset x
  let s := s.each a.1.zipIdx (fun s e => s.setQ e.1 (loadQueue x e.2 (leNat d (0x500 + 22 * e.2) 22)))
  let s := s.each a.2.zipIdx (fun s e => s.setQ (32768 + e.1) (loadQueue x e.2 (leNat d (0xA80 + 22 * e.2) 22)))
  let sh : ShapSt := ({ s.shap (32768 + x) with
    sRate := w 0x018, sBurst := bits (w 0x01C) 0 24, sTen := bits (w 0x020) 0 14 } : ShapSt).handTenant 0
  let s := s.setShap (32768 + x) sh
  let s := ((s.wr (CX_OWNER_OWNER x) (w 0x010)).wr (CX_PARAM_PC_GROUPS x) (bits (w 0x014) 0 8)).wr (CX_PARAM_EV_STATE x) (bitN (w 0x014) 8)
  let s := s.wr (HR_CTX_EVL_EV_LOST x) (bits (w 0x034) 16 16)
  let ev : EvRing := ⟨leNat d 0x028 8, bits (w 0x034) 0 4, bits (w 0x030) 0 16, bits (w 0x030) 16 16, bits (w 0x034) 4 6, bitN (w 0x034) 10 == 1⟩
  let s := s.setCtx x {
    state := cFROZEN, txq := a.1, rxq := a.2, dirty := (s.ctx x).dirty, owner := w 0x010, groups := bits (w 0x014) 0 8, evState := bitN (w 0x014) 8 == 1,
    evr := if bitN (w 0x034) 11 = 1 then some ev else none }
  (s.each (List.range 64) (fun s v => s.setVec x v (loadVec d v))).raise CX_EVT_FROZEN

/-- The image read has answered: the image is checked and loaded, or refused (R274). The offset of a read that failed is open (log entry 5). -/
def execImageReadResponse (s : State) : Host.Outcome State Fault Refusal :=
  .next (match s.response .imageRead with
    | none => s
    | some (d, s) =>
      let s := s.cuStream 22 false (if d.resp = .okay then d.data else []) true
      if d.resp ≠ .okay then s.draw.2.imageFail d.a 1 (s.draw.1.toNat % 4096) (faultOf d.resp)
      else match imageBad d.data with
        | some (code, off) => s.imageFail d.a code off sBADARG
        | none =>
          match s.allocQueues (bits (leNat d.data 0x00C 4) 0 7) (bits (leNat d.data 0x00C 4) 8 7) with
          | none => s.imageFail d.a 6 0x00C sNORES
          | some a => (s.imageLoad d.b d.data a).cmdDone d.a sOK 0)

/-! ## Dirty-page logging (R276, R277) -/

/-- Command `DIRTY_START` (R44, R253, R276). -/
def execDirtyStart (s : State) : Host.Outcome State Fault Refusal :=
  .next (s.runCmd 8 [(8, 0, 64), (0x10, 0, 64), (0x18, 0, 32)]
    (fun c _ => addrOk (c.f 8 0 64) 64 && addrOk (c.f 0x10 0 64) 4096 && c.f 0x18 0 32 != 0) (fun id c s =>
      let t := s.ctx c.ctx
      s.legal id (t.state == cACTIVE && s.rd SYS_STATE_MODE != 0 && s.sys.pendingMode != some 0 && t.dirty.isNone) (fun s =>
        ((s.setCtx c.ctx { t with dirty := some { bitmap := c.f 8 0 64, region := c.f 0x10 0 64, pages := c.f 0x18 0 32 } }).wr
          (CX_STAT_DIRTY_FAULT c.ctx) 0).cmdDone id sOK 0)))

/-- Command `DIRTY_STOP` (R276, R277). -/
def execDirtyStop (s : State) : Host.Outcome State Fault Refusal :=
  .next (s.runCmd 9 [] (fun _ _ => true) (fun id c s =>
    match (s.ctx c.ctx).dirty with
    | none => s.cmdDone id sSTATE 0
    | some d =>
      if d.stopping then s.cmdDone id sSTATE 0 else s.dirtyEnd c.ctx (some id)))

/-- A mark has answered (R276, R277). -/
def execDirtyMarkResponse (s : State) : Host.Outcome State Fault Refusal :=
  .next (match s.response .dirtyMark with
    | none => s
    | some (r, s) =>
      match (s.ctx r.a).dirty with
      | none => s
      | some d =>
        let new := r.resp != .okay && !d.fault
        let d := { d with fault := d.fault || r.resp != .okay }
        let s := s.setCtx r.a { s.ctx r.a with dirty := some d }
        let s := if new then ((((s.unqueue (fun q => q.kind == .dirtyMark && q.a == r.a)).raise (CX_STAT_DIRTY_FAULT r.a)).raise
          CX_EVT_DIRTY_FAULT).ctxEvent r.a 11 sFAULT 0 r.addr) else s
        if d.stopping && !s.awaitsFor .dirtyMark r.a then
          (s.setCtx r.a { s.ctx r.a with dirty := none }).cmdDone? d.stopCmd d.status 0
        else s)

/-! ## Queue and vector commands (R244, R245, R248, R253, R254) -/

/-- Operands of a setup: `QUEUE`, `LOG2`, `VECTOR`, `NOTIFY`, `PREFETCH`, `RING`, `CMPL`. -/
def setupMask : List (Nat × Nat × Nat) := [(8, 0, 6), (9, 0, 4), (10, 0, 6), (10, 6, 1), (11, 0, 7), (0x10, 0, 64), (0x18, 0, 64)]

/-- Are the fields of a queue setup in range and is its queue allocated? -/
def setupForm (rx : Bool) (c : CmdSt) (s : State) : Bool :=
  6 ≤ c.f 9 0 4 && c.f 11 0 7 != 0 && c.f 11 0 7 ≤ 64 && addrOk (c.f 0x10 0 64) 64 && addrOk (c.f 0x18 0 64) 64 &&
  (s.poolQ c.ctx (c.f 8 0 6) rx).isSome

/-- `TXQ_SETUP` and `RXQ_SETUP` (R244). -/
def State.queueSetup (s : State) (op : Nat) (rx : Bool) : State :=
  s.runCmd op setupMask (setupForm rx) (fun id c s =>
    match s.poolQ c.ctx (c.f 8 0 6) rx with
    | none => s
    | some k =>
      let q := s.q k
      s.legal id ((s.ctx c.ctx).state == cACTIVE && q.state == qUNSET) (fun s =>
        let q : QSt := {
          owned := true, ctx := q.ctx, qidx := q.qidx, chan := q.chan, cls := q.cls, state := qRUN, ring := c.f 0x10 0 64, cmpl := c.f 0x18 0 64,
          log2 := c.f 9 0 4, vector := c.f 10 0 6, notify := c.f 10 6 1 == 1, prefetch := c.f 11 0 7 }
        (s.setQ k q).cmdDone id sOK 0))

/-- Command `TXQ_SETUP`. -/
def execTxqSetup (s : State) : Host.Outcome State Fault Refusal := .next (s.queueSetup 0x10 false)

/-- Command `RXQ_SETUP`. -/
def execRxqSetup (s : State) : Host.Outcome State Fault Refusal := .next (s.queueSetup 0x11 true)

/-- A command on one queue. -/
def State.queueCmd (s : State) (op : Nat) (f : Nat → CmdSt → Nat → State → State) : State :=
  s.runCmd op [(8, 0, 6), (8, 6, 1)] (fun c s => (c.queue s).isSome) (fun id c s => match c.queue s with
    | some k => f id c k s
    | none => s)

/-- Command `Q_STOP` (R244): completes at `STOPPED`. -/
def execQStop (s : State) : Host.Outcome State Fault Refusal :=
  .next (s.queueCmd 0x12 (fun id c k s =>
    s.legal id ((s.ctx c.ctx).state == cACTIVE && (s.q k).state == qRUN) (fun s =>
      s.setQ k { s.q k with state := qSTOPPING, faulted := false, stopCmd := some id })))

/-- Command `Q_RESTART` (R244). -/
def execQRestart (s : State) : Host.Outcome State Fault Refusal :=
  .next (s.queueCmd 0x13 (fun id c k s =>
    s.legal id ((s.ctx c.ctx).state == cACTIVE && (s.q k).state == qSTOPPED) (fun s =>
      (s.setQ k { s.q k with state := qRUN, pi := 0, ci := 0, fp := 0, cpi := 0, bufs := [], noRx := false }).cmdDone id sOK 0)))

/-- Command `Q_TEARDOWN` (R244). -/
def execQTeardown (s : State) : Host.Outcome State Fault Refusal :=
  .next (s.queueCmd 0x14 (fun id _ k s =>
    s.legal id ((s.q k).state == qSTOPPED) (fun s =>
      let q := s.q k
      (s.setQ k { owned := true, ctx := q.ctx, qidx := q.qidx, chan := q.chan, cls := q.cls }).cmdDone id sOK 0)))

/-- Command `EVQ_SETUP` (R245). -/
def execEvqSetup (s : State) : Host.Outcome State Fault Refusal :=
  .next (s.runCmd 0x15 [(9, 0, 4), (10, 0, 6), (10, 6, 1), (0x10, 0, 64)] (fun c _ => 6 ≤ c.f 9 0 4 && addrOk (c.f 0x10 0 64) 64) (fun id c s =>
    let t := s.ctx c.ctx
    s.legal id (t.state == cACTIVE && t.evr.isNone) (fun s =>
      (s.setCtx c.ctx { t with evr := some ⟨c.f 0x10 0 64, c.f 9 0 4, 0, 0, c.f 10 0 6, c.f 10 6 1 == 1⟩ }).cmdDone id sOK 0)))

/-- Command `EVQ_TEARDOWN` (R253). -/
def execEvqTeardown (s : State) : Host.Outcome State Fault Refusal :=
  .next (s.runCmd 0x16 [] (fun _ _ => true) (fun id c s =>
    s.legal id (s.ctx c.ctx).evr.isSome (fun s => (s.setCtx c.ctx { s.ctx c.ctx with evr := none }).cmdDone id sOK 0)))

/-- Command `VEC_SET` (R248). -/
def execVecSet (s : State) : Host.Outcome State Fault Refusal :=
  .next (s.runCmd 0x17 [(8, 0, 6), (8, 6, 1), (9, 0, 8), (10, 0, 16), (12, 0, 32), (0x10, 0, 64)] (fun c _ => addrOk (c.f 0x10 0 64) 4) (fun id c s =>
    s.legal id ((s.ctx c.ctx).state == cACTIVE || (s.ctx c.ctx).state == cFROZEN) (fun s =>
      let v := c.f 8 0 6
      let s := s.vecRecall c.ctx v
      let n : VecSt := ⟨c.f 8 6 1 == 1, c.f 9 0 8, c.f 10 0 16, c.f 12 0 32, c.f 0x10 0 64, (s.vec c.ctx v).un, false⟩
      ((s.setVec c.ctx v n).vecCheck c.ctx v).cmdDone id sOK 0)))

/-! ## Endpoint and shaper commands (R182, R253) -/

/-- An endpoint command joins the update engine's queue. -/
def State.epCmd (s : State) (op : Nat) (verdict : Bool) : State :=
  s.runCmd (0x1F + op) ((8, 0, 320) :: if verdict then [(0x30, 0, 28)] else []) (fun _ _ => true) (fun id c s =>
    let vd := if verdict then c.ctx + 2 ^ 12 * c.f 0x30 0 28 else 0
    s.updQueue { op := op, key := (c.entry.drop 8).take 40, vd := vd, cmd := some id })

/-- Command `EP_INSERT`. -/
def execEpInsert (s : State) : Host.Outcome State Fault Refusal := .next (s.epCmd 1 true)

/-- Command `EP_DELETE`. -/
def execEpDelete (s : State) : Host.Outcome State Fault Refusal := .next (s.epCmd 2 false)

/-- Command `EP_MODIFY`. -/
def execEpModify (s : State) : Host.Outcome State Fault Refusal := .next (s.epCmd 3 true)

/-- Command `EP_QUERY`. -/
def execEpQuery (s : State) : Host.Outcome State Fault Refusal := .next (s.epCmd 4 false)

/-- Command `SHAPER_SET` (R208, R218, R253): the shade set is written and committed in one step, and the command completes at its hand-over. On
a locked set the commit is rejected and counted too (log entry 114). -/
def execShaperSet (s : State) : Host.Outcome State Fault Refusal :=
  .next (s.runCmd 0x30 [(8, 0, 15), (10, 0, 1), (12, 0, 32), (0x10, 0, 24), (0x14, 0, 9), (0x18, 0, 14)]
    (fun c s => (c.shaper s).isSome && (if c.f 10 0 1 = 1 then c.f 0x14 0 9 == 0 else c.f 0x18 0 14 == 0)) (fun id c s =>
      match c.shaper s with
      | none => s
      | some i =>
        let x := s.shap i
        if x.locked then (s.bump (SC_COMMIT_REJ i)).cmdDone id sSTATE x.gen
        else
          let y := { x with sRate := c.f 12 0 32, sBurst := c.f 0x10 0 24 }
          let y := if i < 32768 then { y with sMap := c.f 0x14 0 9 } else { y with sTen := c.f 0x18 0 14 }
          match (if i < 32768 then s.mapRefuse i y.sMap else none) with
          | some st => (s.bump (SC_COMMIT_REJ i)).cmdDone id st x.gen
          | none => s.putShap i { y with locked := true, cmd := some id, commitAt := s.tm.cyc }))

/-! ## Ring registers (R249, R256) -/

/-- Refused writes. -/
def State.hrReject (s : State) : State := s.bump HR_CFG_REJ_COUNT

/-- The command read under way, if any, no longer matters. -/
def State.forgetCmdRead (s : State) : State :=
  { s with
      ring := { s.ring with heads := [], reading := false }
      fab := { s.fab with
        reqs := s.fab.reqs.map (fun (r : Req) => if r.kind == .cmdRead then { r with a := 1 } else r)
        done := s.fab.done.map (fun (d : Deliv) => if d.kind == .cmdRead then { d with a := 1 } else d) } }

/-- A write of `HR_CMD_CFG` (R249, R256): `LOG2` changes only while the ring is off. -/
def State.cmdCfg (s : State) (v : Nat) : State :=
  let on := s.is HR_CMD_CFG_EN
  let s := if !on then s.wr HR_CMD_CFG_LOG2 (bits v 8 4) else if bits v 8 4 = s.rd HR_CMD_CFG_LOG2 then s else s.hrReject
  if bitN v 0 = 1 then
    (if on then s
     else ({ (s.raise HR_CMD_CFG_EN).wr HR_CMD_STAT_CI 0 with ring := { s.ring with cpi := 0 } } : State).cmdFetch)
  else ((s.wr HR_CMD_CFG_EN 0).wr HR_CMD_STAT_HALTED 0).forgetCmdRead

/-- A write of `HR_CMD_CFG` (R249). -/
def execCmdEnableWrite (w : Who) (v : Word) (s : State) : Host.Outcome State Fault Refusal :=
  .next (s.guardWrite w 0x100010 (·.cmdCfg v.toNat))

/-- A write of `HR_CMD_PI` (R249). -/
def State.cmdPi (s : State) (v : Nat) : State :=
  let pi := v % 2 ^ 16
  let n := s.cmdLog2
  if 2 ^ (n + 1) ≤ pi ∨ 2 ^ n < occ n pi (s.rd HR_CMD_STAT_CI) then s.hrReject else (s.wr HR_CMD_PI_PI pi).cmdFetch

/-- A write of `HR_CMD_PI` (R249). -/
def execCmdPiWrite (w : Who) (v : Word) (s : State) : Host.Outcome State Fault Refusal :=
  .next (s.guardWrite w 0x100014 (·.cmdPi v.toNat))

/-- The ring halts (R256). -/
def State.cmdHalt (s : State) : State := (s.raise HR_CMD_STAT_HALTED).raise HR_EVT_CMD_HALT

/-- A command read has answered (R256). -/
def execCommandReadResponse (s : State) : Host.Outcome State Fault Refusal :=
  .next (match s.response .cmdRead with
    | none => s
    | some (d, s) =>
      if d.a ≠ 0 then s
      else
        let s : State := { s with ring := { s.ring with reading := false } }
        if d.resp ≠ .okay then s.cmdHalt
        else ({ s with ring := { s.ring with heads := [d.data] } } : State).cmdUnknown)

/-- A command completion has answered (R256). -/
def execCommandCompletionResponse (s : State) : Host.Outcome State Fault Refusal :=
  .next (match s.response .cmdCmpl with
    | none => s
    | some (d, s) => if d.resp = .okay then s.raise HR_EVT_CMD_DONE else s.cmdHalt)

/-- Register writes of the ring engine. -/
def State.hrWrite (s : State) (off v : Nat) : State :=
  if off < 0x100010 then (if s.is HR_CMD_CFG_EN then s.hrReject else s.writePlain off v)
  else if off = 0x100010 then s.cmdCfg v
  else if off = 0x100014 then s.cmdPi v
  else s.writePlain off v

/-! ## The context's shade set (R262 to R264) -/

/-- A write refused because the selected context's set is locked. -/
def State.cxReject (s : State) (x : Nat) : State := (s.bump (CX_COMMIT_REJ x)).raise CX_EVT_SHADE_REJ

/-- A commit of the selected context's set. -/
def State.cxCommit (s : State) : State :=
  let x := s.rd CX_SEL_CTX
  if s.is (CX_COMMIT_LOCKED x) then s.cxReject x
  else (s.raise (CX_COMMIT_LOCKED x)).setCtx x { s.ctx x with commitAt := s.tm.cyc }

/-- A write of `CX_COMMIT` (R262). -/
def execCxCommit (w : Who) (s : State) : Host.Outcome State Fault Refusal := .next (s.guardWrite w 0x101010 (·.cxCommit))

/-- Register writes of the contexts. -/
def State.cxWrite (s : State) (off v : Nat) : State :=
  let x := s.rd CX_SEL_CTX
  if off = 0x101008 ∨ off = 0x10100C then (if s.is (CX_COMMIT_LOCKED x) then s.cxReject x else s.writePlain off v)
  else if off = 0x101010 then (if bitN v 0 = 1 then s.cxCommit else s)
  else s.writePlain off v

/-- The set of context `x` hands over at a latched cut that fell in core cycle `b` (R262 to R264, R279): a commit of that cycle or a later one
waits for the next. -/
def State.cxHandOver (s : State) (x b : Nat) : State :=
  if !s.is (CX_COMMIT_LOCKED x) || decide (b ≤ (s.ctx x).commitAt) then s
  else
    let g := (s.rd (CX_COMMIT_GEN x) + 1) % 256
    let s := (s.wr (CX_COMMIT_GEN x) g).wr (CX_COMMIT_LOCKED x) 0
    let s := s.setCtx x { s.ctx x with
      owner := s.rd (CX_OWNER_OWNER x), groups := s.rd (CX_PARAM_PC_GROUPS x), evState := s.is (CX_PARAM_EV_STATE x) }
    if (s.ctx x).evState && (s.ctx x).state != cFREE then s.ctxEvent x 12 sOK g 0 else s

end Sys2Proof.Machine
end

