-- ==== Sys2Proof/Machine/Cuts.lean ====
section
/-! DEFINITION. The ledger's cuts, their window, the records and the ring (R301 to R310). Counting is in Ledger.lean. -/

namespace Sys2Proof.Machine

/-! ## Cut instants (R301) -/

/-- `LG_CFG.PERIOD_S` as it acts (R313). -/
def State.cutPeriod (s : State) : Nat := if s.rd LG_CFG_PERIOD_S = 0 then 60 else min 3600 (s.rd LG_CFG_PERIOD_S)

/-- The first multiple of `p` seconds after a counter value; 2⁴⁸ is the wrap of the seconds to 0, itself a multiple (R301, R315). -/
def multipleAfter (t p : Nat) : Nat := min (2 ^ 48) ((secOf t / p + 1) * p)

/-- Contexts with a pending commit: those whose `LOCKED` is listed as 1. -/
def State.lockedCtxs (s : State) : List Nat :=
  s.flds.filterMap (fun e =>
    let x := (e.1 / 32 - 0x119300C) / 16
    if x < 4096 && e.1 == (CX_COMMIT_LOCKED x).key && e.2 == 1 then some x else none)

/-- The contexts a cut has records for (R305): 0 and every one that is not free or not yet closed. -/
def State.cutCtxs (s : State) : List Nat :=
  0 :: (s.ctxs.filter (fun e => e.1 != 0 && (e.2.state != cFREE || e.2.closing.isSome))).map (·.1)

/-- The units whose markers close a window: each slice that carries a port, and the hinge as 5 (R302). -/
def State.markersDue (s : State) : List Nat := (List.range 5).filter (fun i => (List.range 4).any (fun p => s.sliceOf p == some i)) ++ [5]

/-- Hand-overs at the opening of a latched cut's window in core cycle `b` (R303, R414). -/
def State.cutHandOver (s : State) (b : Nat) : State :=
  let s := s.each s.lockedCtxs (fun s x => s.cxHandOver x b)
  let s := match s.sys.pendingMode with
    | some m => { s.wr SYS_STATE_MODE m with sys := { s.sys with pendingMode := none } }
    | none => s
  if s.pwAbortable then s.pwAbort 2 else s

/-- Core cycles that have passed since the counter reached a value. -/
def State.cyclesSince (s : State) (t : Nat) : Nat := if s.tm.incr = 0 then 0 else (s.tm.now - t) / s.tm.incr

/-- The cut window opens at instant `t`, in the core cycle in which the counter reached it, or in which it stepped past it (R301, R302). -/
def State.cutOpen (s : State) (t : Nat) (step : Bool) : State :=
  let ago := if step then 0 else s.cyclesSince t
  let ctxs := s.cutCtxs
  let owners := ctxs.foldl (fun m x => mapSet (fun _ => 0) m x (s.ctx x).owner) []
  let w : WinSt := {
    inst := t
    opened := s.tm.tick - ago
    due := s.markersDue
    step := step || s.led.stepped
    holdover := s.holdover
    mode := s.rd SYS_STATE_MODE
    owners := owners
    ctxs := ctxs
    lateCtx := s.led.lateCtx
    lateCount := s.led.lateCount
    auditAll := s.led.auditAll
    skipped := s.led.skipped
    floor := t }
  let led := { s.led with
    old := s.led.live
    live := []
    endedNew := []
    period := s.led.period + 1
    win := some w
    stepped := false
    skipped := false
    lateCtx := []
    lateCount := 0
    auditAll := false }
  (({ s with led := led } : State).raise LG_STAT_WINDOW).cutHandOver (s.tm.cyc - ago)

/-- A cut falls at second `sec` (R301, R302), or is skipped since an earlier one is held (R304); the next is sought after the
counter value `from_`. -/
def State.cutAt (s : State) (sec from_ : Nat) (step : Bool) : State :=
  let p := s.cutPeriod
  let s := { s with led := { s.led with per := p, nextCut := some (multipleAfter from_ p) } }
  if s.is LG_STAT_PENDING || s.led.win.isSome then
    let led := { s.led with skipped := true, stepped := s.led.stepped || step }
    (({ s with led := led } : State).bump LG_SKIP_COUNT).raise LG_EVT_SKIP
  else s.cutOpen (sec * secUnits) step

/-- Has the counter passed second `t`, the wrap included (R315)? -/
def State.secPassed (s : State) (t : Nat) : Bool := t ≤ secOf s.tm.now || t == 2 ^ 48 && secOf s.tm.now < 2 ^ 47

/-- The counter reaches the next cut instant (R301, R302). -/
def execCutInstant (s : State) : Host.Outcome State Fault Refusal :=
  .next (match s.led.nextCut with
    | none => s
    | some t =>
      if !s.coreUp || s.sleepLoad then s
      else
        let s := if s.secPassed t then s else s.advance (s.cyclesTo (t * secUnits))
        s.cutAt (t % 2 ^ 48) (t % 2 ^ 48 * secUnits) false)

/-- What a step of the counter from `old` does to the ledger (R301, R302): one cut at the last instant passed, or the next one after
the new time, with late events counted from there. The value a counter starts with after D crosses nothing. -/
def State.cutStep (s : State) (old : Nat) : State :=
  match s.led.nextCut with
  | none => { s with led := { s.led with nextCut := some (multipleAfter s.tm.now s.led.per) } }
  | some t =>
    if s.tm.now < old then
      { s with led := { s.led with
        nextCut := some (multipleAfter s.tm.now s.led.per)
        stepped := true
        floor := min s.led.floor s.tm.now
        win := s.led.win.map (fun w => { w with floor := min w.floor s.tm.now }) } }
    else if t ≤ secOf s.tm.now then s.cutAt (max t (secOf s.tm.now / s.led.per * s.led.per)) s.tm.now true
    else s

/-! ## The window (R302) -/

/-- A marker has arrived; after the last the window closes. -/
def State.cutMark (s : State) (m : Nat) : State :=
  match s.led.win with
  | none => s
  | some w =>
    let due := w.due.erase m
    let s := { s with led := { s.led with win := some { w with due := due } } }
    if due.isEmpty then s.ledClose else s

/-- Has unit `m` passed on everything whose instant precedes `t`: slice `m` its frames, the hinge its copies? -/
def State.passedBefore (s : State) (m t : Nat) : Bool :=
  s.rxs.all (fun e =>
    let f := e.2
    let mine := if m = 5 then f.stage == .hinge || f.stage == .passed
      else (f.stage == .slice || f.stage == .released) && s.sliceOf (f.chan / 8) == some m
    !mine || !f.stamped || t ≤ f.stamp)

/-- The cut marker of slice `m`, or of the hinge as 5, arrives (R302). -/
def execCutMarker (m : Fin 6) (s : State) : Host.Outcome State Fault Refusal :=
  .next (match s.led.win with
    | some w => if s.islandRuns m && !s.sys.sliceOut.getLsbD m && s.islandRuns 5 && w.due.contains m && s.passedBefore m w.inst then s.cutMark m else s
    | none => s)

/-- `CLOSE_US` has passed since the window opened (R302). -/
def execCutWindowTimeout (s : State) : Host.Outcome State Fault Refusal :=
  .next (match s.led.win with
    | some w => if s.coreUp then (s.advanceTo (w.opened + usTicks (s.rd LG_CFG_CLOSE_US))).ledClose else s
    | none => s)

/-! ## Records (R305 to R307) -/

/-- A block's 240 bytes. -/
def blkBytes (l : List Nat) : List Byte := (List.range 30).flatMap (fun i => leBytes 8 (blkAt l i))

/-- Flags of a record: closed, audit failure, late; the others are the cut's. -/
def CutSt.flags (c : CutSt) (closed audit late : Bool) : Nat :=
  b2n closed + 2 * b2n audit + 4 * b2n late + 8 * b2n c.skipped + 16 * b2n c.step + 32 * b2n c.holdover

/-- A record without its `CHECK` and `PHASE`. -/
def CutSt.body (c : CutSt) (type flags w2 w4 : Nat) (rx tx : List Nat) : List Byte :=
  leBytes 1 type ++ leBytes 1 flags ++ leBytes 2 w2 ++ leBytes 4 w4 ++ leBytes 4 c.seq ++ leBytes 4 c.mode ++ leBytes 6 c.sec ++
    leBytes 2 c.period ++ blkBytes rx ++ blkBytes tx

/-- The whole record (R306). -/
def recordOf (body : List Byte) (ph : Nat) : List Byte := body ++ leBytes 4 (crc32c body) ++ leBytes 3 0 ++ leBytes 1 ph

/-- The latched block of a context and direction. -/
def State.bankBlk (s : State) (x : Nat) (tx : Bool) : List Nat := mapGet blank s.led.bank (lkey x tx)

/-- Sums of blocks, word by word. -/
def blkSum (l : List (List Nat)) : List Nat := (List.range 30).map (fun i => l.foldl (fun n b => n + blkAt b i) 0)

/-- Records of a cut before its summary. -/
def CutSt.count (c : CutSt) : Nat := c.slots.length + c.ctxs.length

/-- The body of record `i` of the held cut: closing records, contexts, summary (R305). -/
def State.cutRecord (s : State) (i : Nat) : List Byte :=
  let c := s.led.cut
  match c.slots[i]? with
  | some x => c.body 1 (c.flags true x.audit x.late) x.ctx x.owner x.rx x.tx
  | none =>
    match c.ctxs[i - c.slots.length]? with
    | some x =>
      c.body 1 (c.flags false (c.audit.contains x) (c.lateCtx.contains x)) x (mapGet (fun _ => 0) c.owners x)
        (s.bankBlk x false) (s.bankBlk x true)
    | none =>
      c.body 2 (c.flags false (c.auditAll || !c.audit.isEmpty || c.slots.any (·.audit)) (c.lateCount != 0 || c.slots.any (·.late))) c.count c.lateCount
        (blkSum (c.slots.map (·.rx) ++ c.ctxs.map (fun x => s.bankBlk x false)))
        (blkSum (c.slots.map (·.tx) ++ c.ctxs.map (fun x => s.bankBlk x true)))

/-! ## The ring (R308, R309) -/

/-- `LG_RING_CFG.LOG2` as it acts. -/
def State.lgLog2 (s : State) : Nat := if 6 ≤ s.rd LG_RING_CFG_LOG2 then s.rd LG_RING_CFG_LOG2 else 6

/-- Base of the ledger ring. -/
def State.lgBase (s : State) : Nat := 512 * s.rd LG_RING_LO_ADDR_LO + 2 ^ 32 * s.rd LG_RING_HI_ADDR_HI

/-- May the next record be written: one at a time, while the ring has room (R308, R309)? -/
def State.recordDue (s : State) : Bool :=
  s.is LG_RING_CFG_EN && !s.is LG_STAT_HALTED && s.is LG_STAT_PENDING && s.led.issued == s.led.done &&
  s.led.done ≤ s.led.cut.count && occ s.lgLog2 (s.rd LG_PI_PI) (s.rd LG_CI_CI) < 2 ^ s.lgLog2

/-- The next record of the held cut is written (R305, R308), a unit of stream 20 (R359). -/
def execLedgerRecordWrite (s : State) : Host.Outcome State Fault Refusal :=
  .next (
    if s.recordDue && s.islandRuns 5 then
      let i := s.rd LG_PI_PI
      let d := recordOf (s.cutRecord s.led.done) (phase s.lgLog2 i)
      (({ s with led := { s.led with issued := s.led.issued + 1 } } : State).cuStream 20 true d true).hostWrite .ledger 0 s.led.done
        (slotAddr s.lgBase s.lgLog2 i 512) d
    else s)

/-- The oldest closing slot whose cut has latched is freed (R310). -/
def eraseLatched : List SlotSt → List SlotSt
  | [] => []
  | x :: l => if x.latched then l else x :: eraseLatched l

/-- Record `i` has been written with `OKAY` (R304, R308, R310). -/
def State.recordDone (s : State) (i : Nat) : State :=
  let s := s.wr LG_PI_PI (nextIdx s.lgLog2 (s.rd LG_PI_PI))
  let s := { s with led := { s.led with done := i + 1 } }
  let s := if i < s.led.cut.slots.length && s.led.freed ≤ i then
      ({ s with led := { s.led with freed := i + 1, slots := eraseLatched s.led.slots } } : State).refreshSlots
    else s
  if i = s.led.cut.count then ((s.wr LG_STAT_PENDING 0).raise LG_EVT_CUT_DONE).bgDone 1 0 else s

/-- A record write has answered (R308, R309); one from before `EN` was written 0 is ignored. -/
def execLedgerRecordResponse (s : State) : Host.Outcome State Fault Refusal :=
  .next (match s.response .ledger with
    | none => s
    | some (d, s) =>
      if d.a ≠ 0 then s
      else if d.resp = .okay then s.recordDone d.b
      else (s.raise LG_EVT_WR_FAULT).raise LG_STAT_HALTED)

/-- A refused write. -/
def State.lgReject (s : State) : State := s.bump LG_SKIP_CFG_REJ

/-- A write of `LG_CI` (R223, R308). -/
def State.lgCi (s : State) (v : Nat) : State :=
  let c := v % 2 ^ 16
  let n := s.lgLog2
  if 2 ^ (n + 1) ≤ c ∨ 2 ^ n < occ n (s.rd LG_PI_PI) c then s.lgReject else s.wr LG_CI_CI c

/-- A write of `LG_CI` (R308). -/
def execLgCiWrite (w : Who) (v : Word) (s : State) : Host.Outcome State Fault Refusal :=
  .next (s.guardWrite w 0x160014 (·.lgCi v.toNat))

/-- Answers to record writes under way no longer matter, and those not begun are not issued (R309). -/
def State.forgetRecords (s : State) : State :=
  { s with fab := { s.fab with
      reqs := (s.fab.reqs.filter (fun r => !(r.kind == .ledger && r.tag.isNone))).map (fun (r : Req) => if r.kind == .ledger then { r with a := 1 } else r)
      done := s.fab.done.map (fun (d : Deliv) => if d.kind == .ledger then { d with a := 1 } else d) } }

/-- A write of `LG_RING_CFG` (R309, R313): `LOG2` changes only while the ring is off. -/
def State.lgRingCfg (s : State) (v : Nat) : State :=
  let on := s.is LG_RING_CFG_EN
  let s := if !on then s.wr LG_RING_CFG_LOG2 (bits v 8 4) else if bits v 8 4 = s.rd LG_RING_CFG_LOG2 then s else s.lgReject
  if bitN v 0 = 1 then
    (if on then s
     else { ((s.raise LG_RING_CFG_EN).wr LG_PI_PI 0).wr LG_CI_CI 0 with led := { s.led with done := 0, issued := 0 } })
  else ((s.wr LG_RING_CFG_EN 0).wr LG_STAT_HALTED 0).forgetRecords

/-- A write of `LG_RING_CFG` (R309). -/
def execLgRingEnable (w : Who) (v : Word) (s : State) : Host.Outcome State Fault Refusal :=
  .next (s.guardWrite w 0x16000C (·.lgRingCfg v.toNat))

/-- Register writes of the ledger. The census is taken in every core cycle: a failure that lasts is recorded again once `AUDIT` is cleared
(R311). -/
def State.lgWrite (s : State) (off v : Nat) : State :=
  if off = 0x160004 ∨ off = 0x160008 then (if s.is LG_RING_CFG_EN then s.lgReject else s.writePlain off v)
  else if off = 0x16000C then s.lgRingCfg v
  else if off = 0x160014 then s.lgCi v
  else if off = 0x160020 then ((s.writePlain off v).ledCheck false).ledCheck true
  else s.writePlain off v

/-- `LG_VAL[n]` (R313): the bank, or the live period, whose in-flight words read zero. -/
def State.lgVal (s : State) (n : Nat) : Nat :=
  let k := lkey (s.rd LG_SEL_CTX) (s.is LG_SEL_TX)
  if s.is LG_SEL_BANK then blkAt (mapGet blank s.led.bank k) n
  else if n = wINFL ∨ n = wINFL + 1 then 0
  else blkAt (s.ledLive k) n

end Sys2Proof.Machine
end

