-- ==== Sys2Proof/Machine/Clockwork.lean ====
section
/-! DEFINITION. The realignment boundary, at which the increment and a pending step take effect everywhere at once (R316 to R318). -/

namespace Sys2Proof.Machine

/-- A step takes effect (R318): in the counter, in the ledger, and in the per-second latch where it crosses a second going forward. -/
def State.stepTaken (s : State) (p : TmStep) : State :=
  let old := s.tm.now
  let s := (s.stepEffect p).cutStep old
  if secOf old < secOf s.tm.now then s.secLatch else s

/-- The next cycle in which the cycle counter is a multiple of 1,024 (R317): `TM_INCR` governs from here, every running slice's follower has
a value, and a step that is due takes effect. -/
def execRealignmentBoundary (s : State) : Host.Outcome State Fault Refusal :=
  .next (
    if !s.coreUp then s
    else
      let s := s.advance (s.cyclesToMultiple 1024)
      let runs := BitVec.ofNat 5 ((List.range 5).foldl (fun n i => n + (if s.islandRuns i then 2 ^ i else 0)) 0)
      let s := if s.rd TM_INCR_INCR = s.tm.incr then s else s.timeBreak
      let s := { s with tm := { s.tm with incr := s.rd TM_INCR_INCR, follows := runs } }
      match s.tm.step with
      | some p => if p.due ≤ s.tm.cyc then s.stepTaken p else s
      | none => s)

end Sys2Proof.Machine
end

