-- ==== Sys2Proof/Machine/Service.lean ====
section
/-! DEFINITION. Service operations: evacuation of a port, sparing of fabric ports and table channels, row repair, slice tests, the mirror
of the statistics, the scrub's reports and the clock monitors' windows (R371, R425 to R445). -/

namespace Sys2Proof.Machine

/-! ## Which operations may start (R427) -/

def opEVACUATE : Nat := 1
def opRETURN : Nat := 2
def opFAB_SPARE : Nat := 3
def opFAB_RESTORE : Nat := 4
def opTBL_SPARE : Nat := 5
def opTBL_RESTORE : Nat := 6
def opROW_REPAIR : Nat := 7
def opSLICE_TEST : Nat := 8
def opABORT : Nat := 9

/-- How many values `ARG` has for an operation; none for an unknown `OP` (R445). -/
def svArgs (op : Nat) : Nat := [0, 4, 4, 8, 8, 6, 6, 3072, 4].getD op 0

/-- Does slice `i` carry a port? -/
def State.sliceCarries (s : State) (i : Nat) : Bool := bitN (s.rd SYS_SLICE_MAP_MAP) (4 * i + 3) == 1

/-- Does the start state of an operation hold (R431, R437 to R439)? -/
def State.svReady (s : State) (op a : Nat) (force : Bool) : Bool :=
  match op with
  | 1 => force || s.islandRuns a
  | 2 => s.is SV_INUSE_SLICE4 && s.rd SV_INUSE_SLICE4_PORT == a && s.sv.tested.getLsbD a && s.islandRuns 4
  | 3 => s.fabPresent a && s.fabPresent 8 && s.fab.up.getLsbD 8
  | 4 => s.is SV_INUSE_FAB && s.rd SV_INUSE_FAB_FOR == a
  | 5 => s.tblPresent a && s.tblPresent 6
  | 6 => s.is SV_INUSE_TBL && s.rd SV_INUSE_TBL_FOR == a
  | 7 => s.sv.row.isNone
  | 8 => !s.sliceCarries a
  | _ => true

/-- Is the spare that an operation brings in already standing in (R427)? -/
def State.svSpareUsed (s : State) (op a : Nat) : Bool :=
  match op with
  | 1 => s.is SV_INUSE_SLICE4
  | 3 => s.is SV_INUSE_FAB
  | 5 => s.is SV_INUSE_TBL
  | 7 => s.is (SV_ROW_STAT_USED (a / 32))
  | _ => false

/-- The case of refusal that applies, or none (R427, R444). -/
def State.svRefusal (s : State) (op a : Nat) (force : Bool) : Option Nat :=
  let known := decide (a < svArgs op)
  if (op ≠ opROW_REPAIR ∧ s.sv.op ≠ 0) ∨ s.start ≠ stREADY ∨ (known && !s.svReady op a force) then some sSTATE
  else if !known then some sBADARG
  else if s.svSpareUsed op a then some sNORES
  else none

/-- A refused operation changes nothing but `RESULT`, its event and the log (R427, R441). -/
def State.svRefuse (s : State) (op st : Nat) : State :=
  let s := ((s.wr SV_STAT_RESULT st).raise SV_EVT_REFUSED).postOpen op
  if op = opROW_REPAIR ∧ st = sNORES then s.raise SV_EVT_ROW_EXH else s

/-! ## The mirror (R430) -/

/-- Is this field key a statistic of a channel of port `p`? -/
def portStat (p k : Nat) : Bool := (0x064000 + 4096 * p) * 32 ≤ k && k < (0x064000 + 4096 * (p + 1)) * 32

/-- The checkpoint of port `p`: statistics and timers are copied, and neither cleared nor moved. -/
def State.checkpoint (s : State) (p : Nat) : State :=
  let keep := s.sv.ckpt.filter (fun e => !portStat p e.1)
  let stats := (s.flds.filter (fun e => portStat p e.1)).foldl (fun m e => mapSet (fun _ => 0) m e.1 e.2) keep
  let timers := (List.range 8).foldl (fun m k =>
    let c := 8 * p + k
    let x := s.ch c
    let t : CkptSt := {
      tick := s.tm.tick
      pauseEnd := x.pauseEnd
      pauseFrom := x.pauseFrom
      holdEnd := x.holdEnd
      paused := s.rd (MC_FC_STAT_PAUSED c)
      holdoff := s.rd (MC_FC_STAT_HOLDOFF c)
      sent := s.rd (MC_FC_STAT_XOFF_SENT c) }
    mapSet (fun _ => {}) m c t) s.sv.timers
  { s with sv := { s.sv with ckpt := stats, timers := timers } }

/-- `CKPT_US` has passed for slice `i`: it copies its port's statistics to the mirror. `unc` says that a word of its statistics memory was
uncorrectable (R426, R430). -/
def execSvCheckpoint (i : Fin 4) (unc : Bool) (s : State) : Host.Outcome State Fault Refusal :=
  .next (
    if s.sliceOf i = some i.val && s.islandRuns i && s.islandRuns 8 then
      let last := (mapGet (fun _ => ({} : CkptSt)) s.sv.timers (8 * i)).tick
      (((s.advanceTo (last + usTicks (s.rd SV_CKPT_CKPT_US))).checkpoint i).crossed (704 + i) 1).memFault i unc
    else s)

/-- The port whose slice holds the register at a backing offset (R450). -/
def State.backPort (s : State) (o : Nat) : Option Nat :=
  match selTable.find? (fun d => d.base ≤ o && o < d.base + d.stride * d.n) with
  | some d =>
    let k := (o - d.base) / d.stride
    if [0x020510, 0x040310, 0x040330, 0x041504, 0x0C1508].contains d.lo then some (k / 8) else if d.lo = 0x020520 then some (k / 9) else none
  | none => match s.homeOf o with
    | .port p => some p
    | .island _ => none

/-- Port `p`'s statistics and timers come back as the mirror holds them, and values in transit from its slice are lost (R435). -/
def State.mirrorBack (s : State) (p : Nat) : State :=
  let old := s.flds.filter (fun e => !portStat p e.1)
  let flds := (s.sv.ckpt.filter (fun e => portStat p e.1)).foldl (fun m e => mapSet fieldReset m e.1 e.2) old
  let s := { s with flds := flds, transit := s.transit.filter (fun t => s.backPort t.off != some p) }
  let s := s.each (List.range 8) (fun s k =>
    let c := 8 * p + k
    let t : CkptSt := mapGet (fun _ => {}) s.sv.timers c
    let d := s.tm.tick - t.tick
    let s := ((s.wr (MC_FC_STAT_PAUSED c) t.paused).wr (MC_FC_STAT_HOLDOFF c) t.holdoff).wr (MC_FC_STAT_XOFF_SENT c) t.sent
    s.setCh c { s.ch c with pauseEnd := laterBy d t.pauseEnd, pauseFrom := laterBy d t.pauseFrom, holdEnd := laterBy d t.holdEnd })
  s.raise SV_EVT_STAT_GAP

/-! ## Evacuation (R431 to R437) -/

/-- `SYS_SLICE_MAP` with port `p` carried by slice `b` and no longer by `a`. -/
def State.moveSlice (s : State) (p a b : Nat) : State :=
  let m := s.rd SYS_SLICE_MAP_MAP
  s.wr SYS_SLICE_MAP_MAP (m - bits m (4 * a) 4 * 2 ^ (4 * a) - bits m (4 * b) 4 * 2 ^ (4 * b) + (8 + p) * 2 ^ (4 * b))

/-- The slices a running evacuation or return moves between. -/
def State.evacFrom (s : State) : Nat := if s.sv.op = opEVACUATE then s.sv.arg else 4
def State.evacTo (s : State) : Nat := if s.sv.op = opEVACUATE then 4 else s.sv.arg

/-- A received frame of the failed slice: the one whose first word had reached the core island and whose last had not is dropped under
cause 6; the others were never accepted (R435). -/
def State.rxLost (s : State) (mid : Bool) (id : Nat) : State :=
  let s := { s with tbl := { s.tbl with lookups := mapErase id s.tbl.lookups } }
  match s.rxf id with
  | none => s
  | some f =>
    if mid && (s.pairOfChan f.chan).isNone then
      let s := s.rxEntry id f
      if (s.rxf id).isSome then s.rxDrop id 6 else s
    else s.delRx id

/-- The line of a channel falls silent: its frame is dropped under cause 6 (R435). -/
def State.lineLost (s : State) (c : Nat) : State :=
  let s := match (s.ch c).line with
    | .frame id => s.txDrop id 6 sFAULT
    | _ => s
  (s.setCh c { s.ch c with line := .idle, partly := true }).refreshStaged c

/-- The first cycle of a forced evacuation of port `p` (R435): the core ignores slice `p`, the lanes switch their legs. `mid` is the
channel whose oldest released frame was on its way. -/
def State.evacForced (s : State) (p : Nat) (mid : Option (Fin 32)) : State :=
  let first := mid.bind (fun c => (s.rxs.find? (fun e => e.2.chan == c.val && e.2.stage == .released)).map (·.1))
  let gone := (s.rxs.filter (fun e => e.2.chan / 8 == p && (e.2.stage == .slice || e.2.stage == .released))).map (·.1)
  let s := s.each gone (fun s id => s.rxLost (first == some id) id)
  let s := s.each (List.range 8) (fun s k => (s.dropStaged (8 * p + k) 6 sFAULT (fun _ => true)).lineLost (8 * p + k))
  let s := (((s.moveSlice p p 4).raise SV_INUSE_SLICE4).wr SV_INUSE_SLICE4_PORT p)
  let s := s.each (List.range 8) (fun s l =>
    let j := 8 * p + l
    let s := s.setFr j { s.fr j with txMfc := 0, txPar := none, out := [] }
    if s.rd (TF_FR_STAT_STATE j) = fOFF then s else s.frLeave j fHUNT)
  let s := s.each (List.range 8) (fun s k => if s.rd (LN_CHAN_STAT_STATE (8 * p + k)) = 2 then s.chanLeave (8 * p + k) 1 else s)
  let s := s.each ((List.range 16).filter (fun g => s.rd (GP_GRP_CFG_CHAN g) / 8 == p)) (fun s g => s.setGrp g { s.grp g with txq := [], segs := [] })
  s.portRefresh p

/-- An operation other than `ROW_REPAIR` begins. -/
def State.svBegin (s : State) (op a : Nat) (force : Bool) (step : Nat) : State :=
  let sv := { s.sv with op := op, arg := a, force := force, step := step, since := s.tm.tick, spoilt := false }
  (({ s with sv := sv } : State).raise SV_STAT_BUSY).wr SV_STAT_ABORTED 0

/-- `EVACUATE` or `RETURN` begins, step V1 (R431, R435, R437). -/
def State.evacBegin (s : State) (op p : Nat) (force : Bool) (mid : Option (Fin 32)) : State :=
  let s := ((s.svBegin op p force 2).wr SV_STAT_PHASE 1).spareEvac p
  if force && op == opEVACUATE then s.evacForced p mid else s

/-- Has port `p` frames on their way to, in, or leaving staging? -/
def State.portStaged (s : State) (p : Nat) : Bool :=
  (List.range 8).any (fun k => (List.range 8).any (fun q => !(s.stagedOf (8 * p + k) q).isEmpty) || (s.ch (8 * p + k)).line != .idle)

/-- Is an evacuation at step `n`? -/
def State.evacAt (s : State) (n : Nat) : Bool := (s.sv.op == opEVACUATE || s.sv.op == opRETURN) && s.sv.step == n

/-- The next step of the running operation. -/
def State.svStep (s : State) (n : Nat) : State := { s with sv := { s.sv with step := n, since := s.tm.tick } }

/-- The port state is in the slice that takes over (R431, R435): lanes fan out to both slices, or a forced evacuation ends. -/
def execEvacCopyDone (s : State) : Host.Outcome State Fault Refusal :=
  .next (
    if !s.evacAt 2 then s
    else if s.sv.force && s.sv.op == opEVACUATE then (s.mirrorBack s.sv.arg).svEnd sOK
    else s.svStep 3)

/-- Is every channel of port `p` aligned: `ALIGNED` in E-mode, its group `UP` and its stream in `SYNC` in T-mode (R431)? The slice that takes
over reads the same words, so it cannot be aligned where the port is not. -/
def State.portAligned (s : State) (p : Nat) : Bool :=
  (List.range 8).all (fun k =>
    let c := 8 * p + k
    if s.tMode p then (match s.boundGroup c with
      | some g => s.gState g == gUP && s.rd (TF_GFP_STAT_STATE c) == fSYNC
      | none => true)
    else !s.chanOn c || s.rd (LN_CHAN_STAT_STATE c) == 2)

/-- The slice that takes over, which must run, has aligned by now, and its guard of `RX_GUARD_US` passes, steps V4 and V5 (R431; log entry
140). -/
def execEvacRxReady (s : State) : Host.Outcome State Fault Refusal :=
  .next (
    if s.evacAt 3 && s.portAligned s.sv.arg && s.islandRuns s.evacTo then
      ((s.advance (usTicks (s.rd SV_TIME_RX_GUARD_US))).wr SV_STAT_PHASE 2).svStep 5
    else s)

/-- The boundary of the receive switch, at least 1 µs after step V5 begins; frames that start before it stay with the slice the port leaves, and
dispatch stops (R431, R432). -/
def execEvacRxSwitch (s : State) : Host.Outcome State Fault Refusal :=
  .next (
    if s.evacAt 5 && s.islandRuns s.evacTo then
      let s := (s.advanceTo (s.sv.since + 1600)).svStep 6
      { s with sv := { s.sv with held := 1#4 <<< s.sv.arg, rxAt := s.tm.tick } }
    else s)

/-- Staging is empty: the transmit side starts in lockstep, step V7 (R431, R433). -/
def execEvacDrainDone (s : State) : Host.Outcome State Fault Refusal :=
  .next (if s.evacAt 6 && !s.portStaged s.sv.arg then s.svStep 7 else s)

/-- `DRAIN_US` has passed: what is still staged is dropped; a frame in transmission completes first (R434). -/
def execEvacDrainTimeout (s : State) : Host.Outcome State Fault Refusal :=
  .next (
    if s.evacAt 6 then
      let s := s.advanceTo (s.sv.since + usTicks (s.rd SV_TIME_DRAIN_US))
      let s := s.each (List.range 8) (fun s k => s.dropStaged (8 * s.sv.arg + k) 6 sFAULT (fun _ => true))
      if s.portStaged s.sv.arg then s else s.svStep 7
    else s)

/-- Control frames withheld during the switch: one is due where the classes' states differ from the last sent (R433). -/
def State.evacControl (s : State) (p : Nat) : State :=
  s.each (List.range 8) (fun s k =>
    let c := 8 * p + k
    let x := s.ch c
    let sent := s.rd (MC_FC_STAT_XOFF_SENT c)
    let now := if s.fcMode c = 1 then (if x.xoffMine = 0 then 0 else 0xFF) else x.xoffMine
    if now = sent then s.setCh c { x with ctlDue := false, xonChg := 0 }
    else s.setCh c { x with ctlDue := true, xonChg := sent - (sent &&& now) })

/-- The transmit switch, step V8 (R431). -/
def State.evacSwitch (s : State) : State :=
  let p := s.sv.arg
  let s := s.moveSlice p s.evacFrom s.evacTo
  let s := if s.sv.op = opEVACUATE then (s.raise SV_INUSE_SLICE4).wr SV_INUSE_SLICE4_PORT p
    else (s.wr SV_INUSE_SLICE4 0).wr SV_INUSE_SLICE4_PORT 0
  (s.svEnd sOK).evacControl p

/-- 1,024 words of each lane have been compared (R433): equal, or the lockstep starts again. -/
def execEvacLockstepCompare (equal : Bool) (s : State) : Host.Outcome State Fault Refusal :=
  .next (if !s.evacAt 7 || !s.islandRuns s.evacTo then s else if equal then s.evacSwitch else s.bump SV_REJ_COUNT)

/-! ## Fabric port sparing (R438) -/

/-- Where the running move of a position takes it from and to. -/
def State.fabFrom (s : State) : Nat := if s.sv.op = opFAB_SPARE then s.sv.arg else 8
def State.fabTo (s : State) : Nat := if s.sv.op = opFAB_SPARE then 8 else s.sv.arg

/-- Grants of a port as the SD gives them. -/
def State.fabRaise (s : State) (x : Nat) : State :=
  { s with fab := s.fab.raisePort x (s.sdField (0x020 + 16 * x) 0 8) (s.sdField (0x020 + 16 * x) 8 8) (s.sdField (0x020 + 16 * x) 16 8) }

/-- Every request outstanding on the port has ended: the position moves, and the requests that wait go out in their order. -/
def execFabSpareSwitch (s : State) : Host.Outcome State Fault Refusal :=
  .next (
    if (s.sv.op = opFAB_SPARE ∨ s.sv.op = opFAB_RESTORE) ∧ s.fab.reqs.all (fun (r : Req) => r.x != s.fabFrom || r.tag.isNone) then
      let a := s.fabFrom
      let b := s.fabTo
      let spare := s.sv.op == opFAB_SPARE
      let f := s.sv.arg
      let s := if spare then { s with fab := s.fab.down (· == a) } else s.fabRaise b
      let s := { s with fab := { s.fab with reqs := s.fab.reqs.map (fun (r : Req) => if r.x = a then { r with x := b } else r) } }
      let s := ((s.put SV_INUSE_FAB spare).wr SV_INUSE_FAB_FOR (if spare then f else 0)).svEnd sOK
      s.pump
    else s)

/-! ## Table channel sparing (R439, R440) -/

/-- Requests not yet begun on the channel that goes out of service go to the one that stands in. -/
def State.tblRemap (s : State) (a b : Nat) : State :=
  { s with fab := { s.fab with reqs := s.fab.reqs.map (fun (r : Req) =>
      if r.x = 9 + a ∧ r.tag.isNone then
        { r with x := 9 + b, b := if r.vc = 0 then r.b - a + b else r.b }
      else r) } }

/-- The channel that the running move takes a position from. -/
def State.tblFrom (s : State) : Nat := if s.sv.op = opTBL_SPARE then s.sv.arg else 6

/-- Step 4 (R439): every request on the channel has answered; its line falls, the spare's stays. -/
def State.tblEnd (s : State) : State :=
  let a := s.tblFrom
  if s.fab.reqs.any (fun (r : Req) => r.x == 9 + a && r.tag.isSome) then s
  else
    let c := s.sv.arg
    let spare := s.sv.op == opTBL_SPARE
    let s := if spare then { s with fab := s.fab.down (· == 9 + c) } else s
    ((s.put SV_INUSE_TBL spare).wr SV_INUSE_TBL_FOR (if spare then c else 0)).svEnd sOK

/-- Lookups move to the other channel (R439, step 3, or R440). -/
def State.tblMove (s : State) : State :=
  let a := s.tblFrom
  let b := s.copyTo s.sv.arg
  let s := (s.svStep 2).tblRemap a b
  s.pump.tblEnd

/-- The last copy write has returned `OKAY`, or the last request of the old channel has answered. -/
def execTblSpareSwitch (s : State) : Host.Outcome State Fault Refusal :=
  .next (
    if s.sv.op ≠ opTBL_SPARE ∧ s.sv.op ≠ opTBL_RESTORE then s
    else if s.sv.step = 2 then s.tblEnd
    else if s.rd SV_COPY_BUCKETS = s.copyTotal s.sv.arg then s.tblMove
    else s)

/-- A copy begins (R439). -/
def State.tblCopy (s : State) (op c : Nat) : State :=
  let s := (s.svBegin op c false 1).wr SV_COPY_BUCKETS 0
  ({ s with sv := { s.sv with run := s.sv.run + 1, copyNext := 0, copyStale := false } } : State).copyNextRead

/-- Credits of a table channel as the SD gives them. -/
def State.tblRaise (s : State) (c : Nat) : State :=
  { s with fab := s.fab.raisePort (9 + c) (s.sdField (0x0CC + 16 * c) 16 8) (s.sdField (0x0CC + 16 * c) 8 8) 0 }

/-- A forced `TBL_SPARE` (R440): no copy; the lost buckets miss until the table is rebuilt. -/
def State.tblForced (s : State) (c : Nat) : State :=
  let s := s.svBegin opTBL_SPARE c true 1
  ({ s with sv := { s.sv with rebuild := if s.is CL_CTRL_EN then some c else none } } : State).tblMove

/-! ## Rows (R441) -/

/-- The copy of the row under repair has ended: its cells map to the spare row. -/
def execRowRepairSwitch (s : State) : Host.Outcome State Fault Refusal :=
  .next (match s.sv.row with
    | none => s
    | some r =>
      let s := (({ s with sv := { s.sv with row := none } } : State).wr (SV_ROW_STAT_FOR (r / 32)) (r % 32)).raise (SV_ROW_STAT_USED (r / 32))
      let s := ((s.wr SV_STAT_ROW_BUSY 0).wr SV_STAT_RESULT sOK).wr SV_STAT_LAST_OP opROW_REPAIR
      (s.raise SV_EVT_ROW_DONE).raise SV_EVT_DONE)

/-! ## Slice tests (R437) -/

/-- A slice test ends after its 100 µs; `ok` says that every word read back as written, and a flag of the slice's clock monitor within
them fails it. A slice that `BRINGUP` left out is in service again once it has passed (log entry 103). -/
def execSliceTestDone (ok : Bool) (s : State) : Host.Outcome State Fault Refusal :=
  .next (
    if s.sv.op ≠ opSLICE_TEST then s
    else
      let s := s.advanceTo (s.sv.since + usTicks 100)
      let i := s.sv.arg
      if ok && s.islandRuns i && !s.sv.spoilt then
        ({ s with sv := { s.sv with tested := s.sv.tested ||| (1#5 <<< i) }
                  sys := { s.sys with sliceOut := s.sys.sliceOut &&& ~~~(1#5 <<< i) } } : State).svEnd sOK
      else ({ s with sv := { s.sv with tested := s.sv.tested &&& ~~~(1#5 <<< i) } } : State).svEnd sFAULT)

/-! ## `SV_OP` (R427, R428) -/

/-- Is the running operation at an abort point? -/
def State.svAbortable (s : State) : Bool :=
  match s.sv.op with
  | 1 => !s.sv.force && s.sv.step ≤ 3
  | 2 => s.sv.step ≤ 3
  | 3 | 4 => true
  | 5 | 6 => s.sv.step == 1
  | _ => false

/-- `ABORT` (R428): the operation undoes its steps, or the abort is counted. -/
def State.svAbort (s : State) : State :=
  if s.svAbortable then
    let s := if s.sv.op = opTBL_RESTORE then { s with fab := s.fab.down (· == 9 + s.sv.arg) } else s
    let s := (s.svEnd sSTATE).raise SV_STAT_ABORTED
    s.pump
  else s.bump SV_REJ_COUNT

/-- An operation that is not refused starts. -/
def State.svStart (s : State) (op a : Nat) (force : Bool) (mid : Option (Fin 32)) : State :=
  match op with
  | 1 | 2 => s.evacBegin op a force mid
  | 3 => { s.svBegin op a force 1 with fab := { s.fab with held := some a } }
  | 4 => { s.svBegin op a force 1 with fab := { s.fab with held := some 8 } }
  | 5 => if force then s.tblForced a else s.tblCopy op a
  | 6 => (s.tblRaise a).tblCopy op a
  | 7 => ({ s with sv := { s.sv with row := some a } } : State).raise SV_STAT_ROW_BUSY
  | 8 => s.svBegin op a force 1
  | _ => s

/-- A write of `SV_OP` (R427): only master 256's acts. -/
def State.svOp (s : State) (w : Who) (v : Nat) (mid : Option (Fin 32)) : State :=
  let op := bits v 0 4
  let a := bits v 4 12
  let force := bitN v 16 == 1
  if w.master ≠ 256 then s.bump SV_REJ_COUNT
  else if op = opABORT then s.svAbort
  else match s.svRefusal op a force with
    | some st => s.svRefuse op st
    | none => s.svStart op a force mid

/-- A write of `SV_OP` whose fields other than `OP` are those of `v`. -/
def State.svRow (s : State) (w : Who) (v op : Nat) (mid : Option (Fin 32)) : State := s.guardWrite w 0x1F1000 (·.svOp w (v - v % 16 + op) mid)

/-- `EVACUATE` (R431, R435); `mid` as in `evacForced`. -/
def execSvEvacuate (w : Who) (v : Word) (mid : Option (Fin 32)) (s : State) : Host.Outcome State Fault Refusal :=
  .next (s.svRow w v.toNat opEVACUATE mid)
/-- `RETURN` (R437). -/
def execSvReturn (w : Who) (v : Word) (s : State) : Host.Outcome State Fault Refusal := .next (s.svRow w v.toNat opRETURN none)
/-- `FAB_SPARE` (R438). -/
def execFabSpare (w : Who) (v : Word) (s : State) : Host.Outcome State Fault Refusal := .next (s.svRow w v.toNat opFAB_SPARE none)
/-- `FAB_RESTORE` (R438). -/
def execFabRestore (w : Who) (v : Word) (s : State) : Host.Outcome State Fault Refusal := .next (s.svRow w v.toNat opFAB_RESTORE none)
/-- `TBL_SPARE` (R439, R440). -/
def execTblSpare (w : Who) (v : Word) (s : State) : Host.Outcome State Fault Refusal := .next (s.svRow w v.toNat opTBL_SPARE none)
/-- `TBL_RESTORE` (R439). -/
def execTblRestore (w : Who) (v : Word) (s : State) : Host.Outcome State Fault Refusal := .next (s.svRow w v.toNat opTBL_RESTORE none)
/-- `ROW_REPAIR` (R441). -/
def execRowRepair (w : Who) (v : Word) (s : State) : Host.Outcome State Fault Refusal := .next (s.svRow w v.toNat opROW_REPAIR none)
/-- `SLICE_TEST` (R437). -/
def execSliceTest (w : Who) (v : Word) (s : State) : Host.Outcome State Fault Refusal := .next (s.svRow w v.toNat opSLICE_TEST none)
/-- `ABORT` (R428). -/
def execSvAbort (w : Who) (v : Word) (s : State) : Host.Outcome State Fault Refusal := .next (s.svRow w v.toNat opABORT none)

/-- Register writes of the service region. -/
def State.svWrite (s : State) (w : Who) (off v : Nat) : State := if off = 0x1F1000 then s.svOp w v none else s.writePlain off v

/-! ## Monitors and scrubs (R371, R382, R426) -/

/-- The window of clock monitor `k` ends with frequency `f` in kHz (Hz for monitor 8), or without an edge (R371). -/
def execClockMonitorWindow (k : Fin 9) (f : Word) (edges : Bool) (s : State) : Host.Outcome State Fault Refusal :=
  .next (if s.start = stRESET ∨ s.islandUp 8 = false then s else (s.clkWindow k f.toNat edges).islandsSettle)

/-- A row with this many corrected words in a sweep is reported (R426). -/
def State.rowCorrected (s : State) (r n : Nat) : State :=
  let s := s.bump SV_SCRUB_CORR n
  let t := s.rd SV_ROW_THR_CORR
  if t ≠ 0 ∧ t ≤ n then (s.rowNote r).raise SV_EVT_ROW_DEGRADED else s

/-- A scrub sweep ends (R382, R383, R426): of the frame buffer for `a` 0, with the corrected words of each row; of the bucket cache and the
stash, or of the Nyelle SRAMs, for 1 and 2. -/
def execScrubSweepEnd (a : Fin 3) (rows : List (Fin 3072 × BitVec 16)) (s : State) : Host.Outcome State Fault Refusal :=
  .next (
    let s := if a.val = 0 then s.each rows (fun s e => s.rowCorrected e.1 e.2.toNat) else s
    (s.bgDone (3 + a) 0).bgBegin (3 + a) 0)

/-- A scrub read meets an uncorrectable word: of a frame-buffer row, or of the bucket cache (R426). -/
def execScrubUncorrectableWord (row : Option (Fin 3072)) (s : State) : Host.Outcome State Fault Refusal :=
  .next (match row with
    | some r => s.rowUnc r
    | none => s.bump SV_SCRUB_UNC)

end Sys2Proof.Machine
end

