-- ==== Sys2Proof/Machine/Setup.lean ====
section
/-! DEFINITION. The two windows of the setup port as a whole: what every register reads, which unit a write reaches, 64-bit
accesses and the high-word latches, and the doorbell pages (R7 to R11, R60, R160, R261, R381, R446 to R450). -/

namespace Sys2Proof.Machine

/-! ## What registers read -/

/-- `SYS_FAB_CREDIT` (R58): zero where nothing is selected. -/
def State.fabCredit (s : State) : Nat :=
  let tbl := s.is SYS_FAB_SEL_TBL
  let p := s.rd SYS_FAB_SEL_PORT
  let v := s.rd SYS_FAB_SEL_VC
  if v = 2 || (tbl && (v = 3 || 7 ≤ p)) || (!tbl && 9 ≤ p) then 0
  else
    let x := if tbl then 9 + p else p
    s.fab.grantOf (fkey x v) + 2 ^ 8 * s.fab.availOf (fkey x v) + 2 ^ 16 * s.fab.outstOf (fkey x v) + 2 ^ 31 * b2n (s.fab.up.getLsbD x)

/-- The shade set and its lock behind `SC_SEL` (R218, R222). -/
def State.scView (s : State) (off : Nat) : Nat :=
  match s.scSel with
  | none => 0
  | some i =>
    let x := s.shap i
    if off = 0x0C0004 then x.sMap
    else if off = 0x0C0008 then x.sRate
    else if off = 0x0C000C then x.sBurst
    else if off = 0x0C0010 then x.sTen
    else s.readPlain off + 2 * b2n x.locked + 2 ^ 8 * x.gen

/-- The pool queue `HR_Q_SEL` selects, and its words (R256). -/
def State.hrView (s : State) (off : Nat) : Nat :=
  let k := s.rd HR_Q_SEL_QUEUE + 32768 * s.rd HR_Q_SEL_RX
  let q := s.q k
  if off = 0x100034 then q.state + 4 * b2n q.faulted + 16 * q.last + 2 ^ 8 * q.qidx + 2 ^ 14 * s.inStore k
  else if off = 0x100038 then q.pi + 2 ^ 16 * q.ci
  else q.cpi + 2 ^ 16 * q.ctx

/-- The status words of the contexts (R279). -/
def State.cxView (s : State) (off : Nat) : Nat :=
  let c := s.ctx (s.rd CX_SEL_CTX)
  if off = 0x101004 then
    s.readPlain off + c.state + 8 * b2n c.dirty.isSome + 2 ^ 8 * c.txq.length + 2 ^ 16 * c.rxq.length
  else if off = 0x101018 then
    (match s.poolQ (s.rd CX_SEL_CTX) (s.rd CX_QMAP_SEL_QIDX) (s.is CX_QMAP_SEL_RX) with
      | some k => k % 32768 + 2 ^ 31
      | none => 0)
  else if off = 0x101020 then (32768 - (s.ownedQueues false).length) + 2 ^ 16 * (32768 - (s.ownedQueues true).length)
  else (s.ctxs.filter (fun e => e.2.state != cFREE)).length

/-- Words that stand in crossing `x` (R17, R21): in its receive legs; what the framer has built for a transmit lane, as far as the FIFO holds it;
frames and reports between a slice and the core; keys and verdicts on their way; and fabric beats. A word of the other classes, 10 and 11, is
read as soon as it is written (log entry 120). -/
def State.xingOcc (s : State) (x : Nat) : Nat :=
  let i := x % 64
  let p := ((List.range 4).find? (fun p => s.rxSlice p == some i)).getD 4
  match x / 64 with
  | 0 | 1 => (s.leg x).length
  | 2 | 3 => if s.txXing i = x ∧ s.tMode (i / 9) = true ∧ s.rd (LN_LANE_STAT_TX_IDLE i) = 0
    then min (16 - (s.lane i).tail) ((s.fr (8 * (i / 9) + s.sendsFor i)).out.length / 32) else 0
  | 4 => min 32 (s.toCore p)
  | 5 => min 32 (s.toSlice (((List.range 4).find? (fun p => s.sliceOf p == some i)).getD 4))
  | 6 => min 64 (s.keysOut p)
  | 7 => min 64 (s.verdictsOut p)
  | 8 => min 16 (mapGet (fun _ => 0) s.fab.out8 i)
  | 9 => min 16 (s.waits9 i).length
  | _ => 0

/-- `SYS_XING_STAT` (R21). -/
def State.xingView (s : State) (off : Nat) : Nat :=
  let x := s.rd SYS_XING_SEL_XING
  if xingExists x then s.readPlain off + s.xingOcc x else 0

/-- A word of a command channel as master `m` reads it (R282, R283, R285). -/
def State.ccView (s : State) (off m : Nat) : Nat :=
  let n := (off - 0x148000) / 0x80
  let r := (off - 0x148000) % 0x80
  if r < 0x40 then (if s.wordShown n m then s.readPlain off else 0)
  else if r = 0x50 then s.chanWord n false
  else s.readPlain off

/-- `TB_WANT[m]` (R294, R296). -/
def State.wantWord (s : State) (m : Nat) : Nat :=
  match optGet s.cc.wants m with
  | some w => w.lock + 2 ^ 31
  | none => 0

/-- The word a register shows, its side effects apart. -/
def State.regView (s : State) (m off : Nat) : Nat :=
  if off = 0x000038 then s.fabCredit
  else if off = 0x000214 then s.xingView off
  else if 0x0C0004 ≤ off ∧ off < 0x0C0018 then s.scView off
  else if off = 0x0C001C ∧ s.scSel = none then 0
  else if 0x0C0600 ≤ off ∧ off < 0x0C0680 then s.readPlain off + 2 ^ 21 * s.rd (LN_CHAN_STAT_RF_RX ((off - 0x0C0600) / 4))
  else if off = 0x100028 then s.readPlain off + 2 ^ 16 * b2n (s.ctx (s.rd HR_CTX_SEL_CTX)).evr.isSome
  else if 0x100034 ≤ off ∧ off < 0x100040 then s.hrView off
  else if off = 0x101004 ∨ off = 0x101018 ∨ off = 0x101020 ∨ off = 0x101024 then s.cxView off
  else if 0x140020 ≤ off ∧ off < 0x140040 then
    (List.range 32).foldl (fun a i => a + 2 ^ i * b2n (s.ccPends (s.rd CC_PEND_SEL_CONSUMER) (8 * (off - 0x140020) + i))) 0
  else if 0x141400 ≤ off ∧ off < 0x141804 then s.wantWord ((off - 0x141400) / 4)
  else if 0x148000 ≤ off ∧ off < 0x150000 then s.ccView off m
  else if 0x150000 ≤ off ∧ off < 0x154000 ∧ off % 16 = 8 then s.lockWord ((off - 0x150000) / 16)
  else if 0x182000 ≤ off ∧ off < 0x182140 then s.hbBits ((off - 0x182000) / 4) (·.pending)
  else if 0x182200 ≤ off ∧ off < 0x182340 then s.hbBits ((off - 0x182200) / 4) (·.active)
  else if 0x184000 ≤ off ∧ off < 0x186800 then s.hbSrcWord ((off - 0x184000) / 4)
  else if 0x187000 ≤ off ∧ off < 0x187280 then s.readPlain off + 2 ^ 16 * b2n (optGet s.hub.hold ((off - 0x187000) / 4)).isSome
  else if 0x188000 ≤ off ∧ off < 0x188820 ∧ off % 32 = 8 then s.hbTgtWord ((off - 0x188000) / 32)
  else if off = 0x1E200C then s.readPlain off - 0x80 + 2 ^ 4 * (8 - s.kw.din.length) + 2 ^ 8 * s.kw.dout.length
  else if 0x3F0000 ≤ off ∧ off < 0x400000 then logWord (mapGet (fun _ => {}) s.ny.slots ((off - 0x3F0000) / 32)) (off % 32 / 4)
  else s.readPlain off

/-- The value of a 64-bit register at its low word's offset (R10, R313). -/
def State.pairView (s : State) (off : Nat) : Nat :=
  if 0x160100 ≤ off ∧ off < 0x1601F0 then s.lgVal ((off - 0x160100) / 8)
  else if 0x1C8000 ≤ off ∧ off < 0x1C8400 ∧ off % 64 = 0x10 then s.cuRun ((off - 0x1C8000) / 64)
  else s.readPlain off + 2 ^ 32 * s.readPlain (off + 4)

/-! ## Reading -/

/-- A 32-bit read of a register that is no half of a 64-bit one: the word and what the read does (R9, R283, R292, R319, R337,
R399). `rdr` is the reader an `RC` value is in transit to, and `pos` the place of its last byte in a management DMA operand. -/
def State.readReg (s : State) (w : Who) (rdr pos : Nat) (k : Taken) (off : Nat) : Nat × State :=
  if off = 0x170008 then (fracOf s.tm.now, s.timeCapture)
  else if 0x148000 ≤ off ∧ off < 0x150000 ∧ off % 0x80 = 0x40 then s.ccClaim ((off - 0x148000) / 0x80) w.master
  else if 0x150000 ≤ off ∧ off < 0x154000 ∧ off % 16 = 0 then s.tbAcq ((off - 0x150000) / 16) w.master
  else if 0x188000 ≤ off ∧ off < 0x188820 ∧ off % 32 = 0 then s.hbClaimTaken w ((off - 0x188000) / 32) k
  else if off = 0x1E2014 then s.kwDout
  else (s.regView w.master off, s.rcTakeAll rdr off false k pos)

/-- A read of the core's own counters finds them as they now stand (R378). -/
def State.countsRead (s : State) (off : Nat) : State := if 0x1D5A00 ≤ off ∧ off < 0x1D5A10 then s.coreCounts else s

/-- A 32-bit read: of a low word it latches the high word, and of a high word it shows the latch, or the live word where the
latch is empty (R10, R160). -/
def State.read32 (s : State) (w : Who) (rdr pos : Nat) (k : Taken) (off : Nat) : Nat × State :=
  let s := s.countsRead off
  if isPairLow off then
    let v := s.pairView off
    let t : State := match s.resolve off with
      | some o => { s with latch := optSet s.latch o (v / 2 ^ 32) }
      | none => s
    (v % 2 ^ 32, t.rcTakeAll rdr off true k pos)
  else if isPairHigh off then
    (((s.resolve (off - 4)).bind (optGet s.latch)).getD (s.pairView (off - 4) / 2 ^ 32), s)
  else s.readReg w rdr pos k off

/-- A 64-bit read: a 64-bit register from one instant and past its latch (R10), else two words, the low one first (R448). -/
def State.read64 (s : State) (w : Who) (rdr pos : Nat) (k : Taken) (off : Nat) : Nat × State :=
  if isPairLow off then ((s.countsRead off).pairView off, (s.countsRead off).rcTakeAll rdr off true k pos)
  else
    let a := s.read32 w rdr (pos - 4) k off
    let b := a.2.read32 w rdr pos k (off + 4)
    (a.1 + 2 ^ 32 * b.1, b.2)

/-- What earlier accesses of the same reader left open is settled, and the performance counters show every beat sent so far. -/
def State.atAccess (s : State) (w : Who) : State :=
  let s := (s.settle w.master).settleBeats
  if w.master = 256 then { s with hub := { s.hub with coreClaim := none } } else s

/-- Which port's statistics a register is part of (R159, R426). -/
def statPort (off : Nat) : Option Nat := if 0x064000 ≤ off ∧ off < 0x068000 then some ((off - 0x064000) / 4096) else none

/-- A read of a statistic whose word is uncorrectable (R426): the fault is the slice's, and what is returned is open (log entry 5). -/
def State.statSpoilt (s : State) (off : Nat) (wide : Bool) (k : Taken) (v : Nat) : Nat × State :=
  match (if k = .spoilt then (statPort off).bind s.sliceOf else none) with
  | some i => (s.draw.1.toNat % 2 ^ (if wide then 64 else 32), s.draw.2.sliceFault i)
  | none => (v, s)

/-- A setup-window read (R60): where its answer fails, `DECLINED`, and what it took is back. -/
def State.setupRead (s : State) (w : Who) (off : Nat) (wide : Bool) (k : Taken) : State :=
  if !s.serves w off (if wide then 8 else 4) then s.declined
  else
    let k := takenBy k w
    let s := (s.atAccess w).spCount w false off
    let r := if wide then s.read64 w w.master 0 k off else s.read32 w w.master 0 k off
    let r := r.2.statSpoilt off wide k r.1
    if k = .failed then r.2.declined else r.2.okay r.1

/-! ## The doorbell pages -/

/-- The context word (R261). -/
def State.ctxWord (s : State) (x : Nat) : Nat :=
  let c := s.ctx x
  c.state + 8 * b2n c.dirty.isSome + 2 ^ 8 * s.rd (CX_COMMIT_GEN x) + 2 ^ 16 * c.txq.length + 2 ^ 24 * c.rxq.length

/-- Window counter `j` of context `x`'s page (R381). -/
def State.winVal (s : State) (x j : Nat) : Nat :=
  let e := s.rd (PC_WIN_MAP_EVENT j)
  let c := s.ctx x
  if s.is (PC_WIN_MAP_VALID j) && c.groups.testBit (e / 128) && c.state != cFREE then
    s.rd64 (PC_CNT_LO_COUNT e) (PC_CNT_HI_COUNT e) % 2 ^ 48
  else 0

/-- A 32-bit word of the doorbell window (R449). -/
def State.dbWord (s : State) (off : Nat) : Nat :=
  let x := off / 4096
  let r := off % 4096
  if r = 0x10 then s.ctxWord x
  else if 0x100 ≤ r ∧ r < 0x200 then
    (let v := s.winVal x ((r - 0x100) / 8)
     if r % 8 = 0 then v % 2 ^ 32 else v / 2 ^ 32)
  else 0

/-- A doorbell-window read (R261, R449). -/
def State.doorbellRead (s : State) (w : Who) (off : Nat) (wide : Bool) : State :=
  if !s.servesDoorbell w off (if wide then 8 else 4) then s.declined
  else
    let s := (s.atAccess w).dbCount w false off
    s.okay (s.dbWord off + (if wide then 2 ^ 32 * s.dbWord (off + 4) else 0))

/-- A doorbell-window write (R226, R261, R449): an offset other than the two words is refused with reason 1. -/
def State.doorbellWrite (s : State) (w : Who) (off : Nat) (wide : Bool) (v : BitVec 64) : State :=
  if !s.servesDoorbell w off (if wide then 8 else 4) then s.declined
  else
    let s := s.atAccess w
    let x := off / 4096
    if off % 4096 = 0 then s.doorbell w x (dbValue wide v)
    else if off % 4096 = 8 then s.evConsume w x (dbValue wide v)
    else s.dbRefuseOther x 1 false

/-! ## Writing -/

/-- Register writes of the lanes (R75, R77, R85, R446). -/
def State.lnWrite (s : State) (off v : Nat) : State :=
  if off < 0x020010 then s.portCfg ((off - 0x020000) / 4) v
  else if 0x020100 ≤ off ∧ off < 0x020180 then s.chanCfg ((off - 0x020100) / 4) v
  else if 0x020400 ≤ off ∧ off < 0x020420 ∧ off % 8 = 0 then s.spareCtrl ((off - 0x020400) / 8) v
  else s.writePlain off v

/-- Register writes of the Riltor line, the groups and the pairs (R101, R118, R132, R446). -/
def State.tfWrite (s : State) (off v : Nat) : State :=
  if off < 0x040080 then s.frCfg ((off - 0x040000) / 4) v
  else if 0x041000 ≤ off ∧ off < 0x041080 then s.posCfg ((off - 0x041000) / 4) v
  else if 0x041100 ≤ off ∧ off < 0x041180 ∧ off % 8 = 0 then s.grpCfg ((off - 0x041100) / 8) v
  else if 0x0411C0 ≤ off ∧ off < 0x041200 then s.sdCfg ((off - 0x0411C0) / 4) v
  else if 0x041300 ≤ off ∧ off < 0x041380 ∧ off % 16 = 0 then s.pairCfg ((off - 0x041300) / 16) v
  else if 0x041300 ≤ off ∧ off < 0x041380 ∧ off % 16 = 8 then s.pairCmd ((off - 0x041300) / 16) v
  else if off = 0x041404 then s.fbWrite off v
  else s.writePlain off v

/-- Register writes of the `SYS` region: the SD's address, which a load in progress holds, `SD_RELOAD`, and `CLR` of the selected crossing
(R21, R45). -/
def State.sysWrite (s : State) (off v : Nat) : State :=
  let x := s.rd SYS_XING_SEL_XING
  if (off = 0x000010 ∨ off = 0x000014) ∧ s.is SYS_SD_STAT_BUSY then s.bump SYS_SD_CNT_IGNORED
  else if off = 0x000018 then (if bitN v 0 = 1 then s.sdReload else s)
  else if off = 0x000214 then
    (if bitN v 31 = 1 && xingExists x then (s.wr (SYS_XING_STAT_OCC_MAX x) 0).wr (SYS_XING_STAT_LAT_MAX x) 0 else s)
  else s.writePlain off v

/-- A 32-bit register write reaches its unit (R446). Beyond the regions nothing is written. -/
def State.regWrite (s : State) (w : Who) (off v : Nat) : State :=
  if off < 0x020000 then s.sysWrite off v
  else if off < 0x040000 then s.lnWrite off v
  else if off < 0x060000 then s.tfWrite off v
  else if off < 0x080000 then s.mcWrite off v
  else if off < 0x081000 then s.clWrite off v
  else if off < 0x0A0000 then s.mtWrite off v
  else if off < 0x0C0000 then s.fbWrite off v
  else if off < 0x0C1000 then s.scWrite off v
  else if off < 0x0E0000 then s.tgWrite off v
  else if off < 0x100000 then s
  else if off < 0x101000 then s.hrWrite off v
  else if off < 0x140000 then s.cxWrite off v
  else if off < 0x160000 then s.ccWrite off w.master v
  else if off < 0x170000 then s.lgWrite off v
  else if off < 0x180000 then s.tmWrite off v
  else if off < 0x1C0000 then s.hbWrite off v
  else if off < 0x1C8000 then s.mdRegWrite off v
  else if off < 0x1D0000 then s.cuWrite off v
  else if off < 0x1E1000 then s.nyWrite off w.master v
  else if off < 0x1E2000 then s.stWrite off w.master v
  else if off < 0x1F0000 then s.kwWrite off w.master v
  else if off < 0x1F1000 then s.pwWrite off v
  else if off < 0x200000 then s.svWrite w off v
  else s

/-- A setup-window write (R7, R60, R448): a 64-bit one applies its low word first. -/
def State.setupWrite (s : State) (w : Who) (off : Nat) (wide : Bool) (v : BitVec 64) : State :=
  if !s.serves w off (if wide then 8 else 4) then s.declined
  else
    let s := ((s.atAccess w).spCount w true off).regWrite w off (v.toNat % 2 ^ 32)
    (if wide then s.regWrite w (off + 4) (v.toNat / 2 ^ 32) else s).okay 0

/-- A register write of any offset of either window (R60). -/
def execRegisterWrite (w : Who) (db : Bool) (off : BitVec 24) (wide : Bool) (v : BitVec 64) (s : State) :
    Host.Outcome State Fault Refusal :=
  .next (if db then s.doorbellWrite w off.toNat wide v else s.setupWrite w off.toNat wide v)

/-- A register read of any offset of either window, `RC` counters, claims and acquires among them (R9, R60). -/
def execRcRead (w : Who) (db : Bool) (off : BitVec 24) (wide : Bool) (k : Taken) (s : State) :
    Host.Outcome State Fault Refusal :=
  .next (if db then s.doorbellRead w off.toNat wide else s.setupRead w off.toNat wide k)

/-- A 32-bit read of the low word of a 64-bit register (R10). -/
def execLowWordRead (w : Who) (off : BitVec 24) (s : State) : Host.Outcome State Fault Refusal :=
  .next (s.setupRead w off.toNat false .accepted)

end Sys2Proof.Machine
end

