-- ==== Sys2Proof/Machine/MgmtDmaRun.lean ====
section
/-! DEFINITION. Management DMA, part two (R350 to R357): the accesses of a descriptor one after another, register space among
them, and the rows that bring their answers. -/

namespace Sys2Proof.Machine

/-- Take the oldest response for a kind of request of channel `ch`. -/
def State.mdResponse (s : State) (k : ReqKind) (ch : Nat) : Option (Deliv × State) :=
  (takeFirst (fun d => d.kind == k && d.a == ch) s.fab.done).map (fun r => (r.1, { s with fab := { s.fab with done := r.2 } }))

/-- Bytes from an address to the end of `len` bytes or of its 4 KiB page (R354). -/
def pageRoom (addr len : Nat) : Nat := min len (4096 - addr % 4096)

/-! ## Register space (R350, R351) -/

/-- The channel's register accesses are made as master 256 with privilege (R350). -/
def mdWho : Who := ⟨256, true⟩

/-- Read `n` words from a setup-window offset, in ascending order, an aligned pair at once; `pos` is the place of the first byte
in the operand. The bytes end before a register whose island does not run; what was read before it stays in transit. -/
def State.mdRegRead (s : State) (ch : Nat) : Nat → Nat → Nat → List Byte × State
  | 0, _, _ => ([], s)
  | 1, off, pos =>
    if !s.homeRuns off then ([], s)
    else
      let r := s.read32 mdWho (300 + ch) (pos + 3) .held off
      (leBytes 4 r.1, r.2)
  | n + 2, off, pos =>
    if off % 8 = 0 then
      (if !s.homeRuns off || !s.homeRuns (off + 4) then ([], s)
       else
        let r := s.read64 mdWho (300 + ch) (pos + 7) .held off
        let t := r.2.mdRegRead ch n (off + 8) (pos + 8)
        (leBytes 8 r.1 ++ t.1, t.2))
    else if !s.homeRuns off then ([], s)
    else
      let r := s.read32 mdWho (300 + ch) (pos + 3) .held off
      let t := r.2.mdRegRead ch (n + 1) (off + 4) (pos + 4)
      (leBytes 4 r.1 ++ t.1, t.2)

/-- Write words to a setup-window offset in ascending order, as far as the registers' islands run: the bytes written. Beats that an earlier
write sent are counted before the next changes what counts them (R379). -/
def State.mdRegWords (s : State) : Nat → Nat → List Byte → Nat × State
  | 0, _, _ => (0, s)
  | n + 1, off, l =>
    if !s.homeRuns off then (0, s)
    else
      let t := (s.settleBeats.regWrite mdWho off (leNat l 0 4)).mdRegWords n (off + 4) (l.drop 4)
      (t.1 + 4, t.2)

/-! ## Issuing -/

/-- An access goes out (R354): to the fabric, or it acts when its row comes. -/
def State.mdIssue (s : State) (ch : Nat) (a : MdAcc) : State :=
  let s := s.setMd ch { s.mdCh ch with acc := some a }
  if a.space ≠ 0 then s
  else if a.write then s.hostWrite .mdWrite ch 0 a.addr a.data
  else s.hostRead .mdRead ch 0 a.addr a.len

/-- A read of the next chunk of `SRC`, or of `DST` as the second operand of a `COMPARE`. -/
def State.mdIssueRead (s : State) (ch : Nat) (second : Bool) : State :=
  let c := s.mdCh ch
  let p := if second then c.dr else c.sr
  let addr := (if second then mdDst c.desc else mdSrc c.desc) + p
  let sp := if second then mdDstSpace c.desc else mdSrcSpace c.desc
  s.mdIssue ch ⟨false, second, sp, addr, p, pageRoom addr (mdLen c.desc - p), []⟩

/-- Bytes of the pattern of a `FILL` from destination offset `p` (R353). -/
def mdPattern (d : List Byte) (p n : Nat) : List Byte := (List.range n).map (fun i => d.getD ((p + i) % 4) 0)

/-- The descriptor, complete or done with, leaves: the next is read, the chain ends, or the channel halts (R357). -/
def State.mdAdvance (s : State) (ch : Nat) : State :=
  let c := s.mdCh ch
  let s := ((s.setMd ch { c with phase := 0, acc := none }).bump (MD_CH_CNT_DESC ch)).bgDone 2 ch
  let s := if mdIrq c.desc then s.setBit MD_EVT_DONE ch else s
  let hops := s.rd (MD_CH_STAT_HOPS ch)
  if s.mdState ch ≠ 1 then s
  else if c.miss ∧ mdHaltMiss c.desc then (s.wr (MD_CH_STAT_REASON ch) 5).mdHalt ch
  else if mdLast c.desc then ((s.wr (MD_CH_STAT_STATE ch) 0).wr (MD_CH_STAT_REASON ch) 0).setMd ch {}
  else if hops < max 1 (s.rd (MD_CH_CFG_HOP_LIMIT ch)) then
    (s.wr (MD_CH_STAT_HOPS ch) (min 0xFFFF (hops + 1))).mdReadDesc ch (mdNext c.desc % 2 ^ 57) (bits (mdNext c.desc) 57 2)
  else ((s.mdFailAt ch (mdNext c.desc % 2 ^ 57) (bits (mdNext c.desc) 57 2)).wr (MD_CH_STAT_REASON ch) 1).mdHalt ch

/-- The descriptor's data work is done (R356): write-back where `WB` asks for it, else on at once. -/
def State.mdFinish (s : State) (ch result : Nat) (miss : Bool) : State :=
  let s := s.mdUnit ch false true
  let c := s.mdCh ch
  let s := s.setMd ch { c with status := 0, result := result, miss := miss, acc := none }
  if mdWb c.desc then s.mdWriteBack ch else s.mdAdvance ch

/-- The place of the first difference of two lists. -/
def firstDiff : Nat → List Byte → List Byte → Option Nat
  | i, a :: as, b :: bs => if a = b then firstDiff (i + 1) as bs else some i
  | _, _, _ => none

/-- The next access of a `COMPARE`, or its end (R353). -/
def State.mdNextCmp (s : State) (ch : Nat) : State :=
  let c := s.mdCh ch
  let n := min c.buf.length c.buf2.length
  match firstDiff 0 c.buf c.buf2 with
  | some i => s.mdFinish ch (c.sr - c.buf.length + i) true
  | none =>
    let s := s.setMd ch { c with buf := c.buf.drop n, buf2 := c.buf2.drop n }
    if c.sr - (c.buf.length - n) = mdLen c.desc then s.mdFinish ch (mdLen c.desc) false
    else s.mdIssueRead ch (c.buf.length != n)

/-- The next access of the current descriptor, or its end (R353, R354, R356). -/
def State.mdNextAcc (s : State) (ch : Nat) : State :=
  let c := s.mdCh ch
  let d := c.desc
  let dst := mdDst d + c.wr
  let n := pageRoom dst (mdLen d - c.wr)
  if mdOp d = 2 then s.mdNextCmp ch
  else if c.wr = mdLen d then s.mdFinish ch (mdLen d) false
  else if mdOp d = 1 then s.mdIssue ch ⟨true, false, mdDstSpace d, dst, c.wr, n, mdPattern d c.wr n⟩
  else if c.buf.length < n then s.mdIssueRead ch false
  else
    (s.setMd ch { c with buf := c.buf.drop n }).mdIssue ch ⟨true, false, mdDstSpace d, dst, c.wr, n, c.buf.take n⟩

/-! ## Answers -/

/-- The status and `REASON` of a response that is not `OKAY` (R56, R356, R357). -/
def mdStatus (r : Resp) : Nat := if r = .timeout then 6 else 4
def mdReason (r : Resp) : Nat := if r = .timeout then 3 else 2

/-- The offset of the first byte not issued (R356). -/
def MdCh.notIssued (c : MdCh) : Nat := if mdOp c.desc = 2 then min c.sr c.dr else c.wr

/-- The first `n` bytes of an access have passed (R351, R359): the values they carried are accepted, and the streams see them; `data` are
those of a read. -/
def State.mdPassed (s : State) (ch : Nat) (a : MdAcc) (n : Nat) (data : List Byte) : State :=
  let op := mdOp (s.mdCh ch).desc
  if a.write then
    let s : State := { s with transit := s.transit.filter (fun t => t.reader != 300 + ch || a.off + n ≤ t.pos) }
    (s.cuStream (1 + ch) false (a.data.take n) false).pcEvent 835 {} (granules a.addr n)
  else s.cuStream (if !a.second && op == 2 then 1 + ch else 9 + ch) false data false

/-- An access that has been issued is behind the channel: how far it has read and written. -/
def MdCh.behind (c : MdCh) (a : MdAcc) (data : List Byte) : MdCh :=
  if a.write then { c with acc := none, wr := a.off + a.len }
  else if a.second then { c with acc := none, dr := a.off + a.len, buf2 := c.buf2 ++ data }
  else { c with acc := none, sr := a.off + a.len, buf := c.buf ++ data }

/-- A data access has returned (R354, R356, R357) with the bytes of a read; where it failed, `good` of its bytes, those of the register
accesses before the failing one, had passed (R351). -/
def State.mdReturned (s : State) (ch : Nat) (a : MdAcc) (r : Resp) (good : Nat) (data : List Byte) : State :=
  let c := (s.mdCh ch).behind a data
  let stopping := s.mdState ch == 2
  if r ≠ .okay then
    let s := if good = 0 then s else s.mdPassed ch a good data
    if stopping then s.mdEndBad ch 5 c.notIssued
    else ((s.mdStop ch (mdReason r)).mdFailAt ch (a.addr + good) a.space).mdEndBad ch (mdStatus r) (a.off + good)
  else
    let s := (s.mdPassed ch a a.len data).setMd ch c
    if stopping then s.mdEndBad ch 5 c.notIssued else s.mdNextAcc ch

/-- A descriptor has been read (R355, R357). -/
def State.mdDescribed (s : State) (ch : Nat) (r : Resp) (data : List Byte) : State :=
  let stopping := s.mdState ch == 2
  let c : MdCh := { desc := data }
  if r ≠ .okay then
    let s := s.setMd ch {}
    if stopping then s else (s.mdStop ch (mdReason r)).mdFailAt ch (s.mdCur ch) (s.mdCurSpace ch)
  else if stopping ∨ mdMalformed data then
    let s := if stopping then s else s.mdStop ch 4
    let s := s.setMd ch { c with status := if stopping then 5 else 2 }
    if mdWb data then s.mdWriteBack ch else s
  else ((s.setMd ch { c with phase := 2 }).mdUnit ch true false).mdNextAcc ch

/-- A descriptor read returns (R355); one in spaces 2 and 3 fails with `BADARG`, one beyond the SRAM with `FAULT`. -/
def execMdDescriptorRead (ch : Fin 8) (s : State) : Host.Outcome State Fault Refusal :=
  .next (
    let c := s.mdCh ch
    let addr := s.mdCur ch
    if c.phase ≠ 1 ∨ s.islandUp 8 = false then s
    else match s.mdCurSpace ch with
      | 0 => (match s.mdResponse .mdDesc ch with
        | some (d, s) => s.mdDescribed ch d.resp d.data
        | none => s)
      | 1 =>
        if 0x40000 < addr + 32 then s.mdDescribed ch .declined []
        else s.mdDescribed ch (if c.poison then .poison else .okay) (s.sramRead addr 32)
      | _ => (if s.mdState ch = 2 then s else s.mdStop ch 4).setMd ch {})

/-- A data read or write returns (R356); in the SRAM and in register space it acts now. -/
def execMdDataResponse (ch : Fin 8) (s : State) : Host.Outcome State Fault Refusal :=
  .next (
    let c := s.mdCh ch
    match c.phase, c.acc with
    | 2, some a =>
      if s.islandUp 8 = false then s
      else if a.space = 0 then
        (match s.mdResponse (if a.write then .mdWrite else .mdRead) ch with
          | some (d, s) => s.mdReturned ch a d.resp 0 d.data
          | none => s)
      else if a.space = 1 then
        (if a.write then (s.sramWrite a.addr a.data).mdReturned ch a .okay a.len []
         else (s.setMd ch { c with poison := false }).mdReturned ch a (if c.poison then .poison else .okay) 0 (s.sramRead a.addr a.len))
      else if a.write then
        (let r := s.mdRegWords (a.len / 4) a.addr a.data
         if (r.2.mdCh ch).acc = some a then r.2.mdReturned ch a (if r.1 = a.len then .okay else .declined) r.1 [] else r.2)
      else
        (let r := s.settleBeats.mdRegRead ch (a.len / 4) a.addr a.off
         r.2.mdReturned ch a (if r.1.length = a.len then .okay else .declined) r.1.length r.1)
    | _, _ => s)

/-- The write-back has returned (R356, R357). -/
def State.mdWrittenBack (s : State) (ch : Nat) (a : MdAcc) (r : Resp) : State :=
  let c := s.mdCh ch
  if r = .okay then (if c.status = 0 then s.mdAdvance ch else s.setMd ch {})
  else
    let s := s.setMd ch {}
    if s.mdState ch = 2 then s else (s.mdStop ch (mdReason r)).mdFailAt ch a.addr a.space

/-- A descriptor's write-back returns. -/
def execMdWritebackResponse (ch : Fin 8) (s : State) : Host.Outcome State Fault Refusal :=
  .next (
    match (s.mdCh ch).phase, (s.mdCh ch).acc with
    | 3, some a =>
      if s.islandUp 8 = false then s
      else if a.space = 0 then
        (match s.mdResponse .mdWb ch with
          | some (d, s) => s.mdWrittenBack ch a d.resp
          | none => s)
      else (s.sramWrite a.addr a.data).mdWrittenBack ch a .okay
    | _, _ => s)

end Sys2Proof.Machine
end

