-- ==== Sys2Proof/Machine/Dispatch.lean ====
section
/-! DEFINITION. One arm per command: each calls that command's meaning. -/

namespace Sys2Proof.Machine

def exec (i : Instr) (s : State) : Host.Outcome State Fault Refusal :=
  match i with
  | .registerWrite w db off wide v => Sys2Proof.Machine.execRegisterWrite w db off wide v s
  | .rcRead w db off wide k => Sys2Proof.Machine.execRcRead w db off wide k s
  | .lowWordRead w off => Sys2Proof.Machine.execLowWordRead w off s
  | .aonRstNFall => Sys2Proof.Machine.execAonRstNFall s
  | .blkRstNFall => Sys2Proof.Machine.execBlkRstNFall s
  | .pwGoodFall => Sys2Proof.Machine.execPwGoodFall s
  | .resetRelease b => Sys2Proof.Machine.execResetRelease b s
  | .firmwareRunning => Sys2Proof.Machine.execFirmwareRunning s
  | .sdReload w => Sys2Proof.Machine.execSdReload w s
  | .sdFetchResponse => Sys2Proof.Machine.execSdFetchResponse s
  | .bringupComplete => Sys2Proof.Machine.execBringupComplete s
  | .bringupTimeout => Sys2Proof.Machine.execBringupTimeout s
  | .bringupSliceTimeout ix => Sys2Proof.Machine.execBringupSliceTimeout ix s
  | .heartbeatMark => Sys2Proof.Machine.execHeartbeatMark s
  | .heartbeatDeferredWrite => Sys2Proof.Machine.execHeartbeatDeferredWrite s
  | .heartbeatWriteResponse => Sys2Proof.Machine.execHeartbeatWriteResponse s
  | .islandClockStop ix => Sys2Proof.Machine.execIslandClockStop ix s
  | .fabricBeatReceived x b => Sys2Proof.Machine.execFabricBeatReceived x b s
  | .fabricRequestTimeout f t => Sys2Proof.Machine.execFabricRequestTimeout f t s
  | .tableReadTimeout c t => Sys2Proof.Machine.execTableReadTimeout c t s
  | .rxLaneWord ix x => Sys2Proof.Machine.execRxLaneWord ix x s
  | .txLaneWord ix x => Sys2Proof.Machine.execTxLaneWord ix x s
  | .laneUp ix => Sys2Proof.Machine.execLaneUp ix s
  | .laneDown ix sd lock rxClk txClk => Sys2Proof.Machine.execLaneDown ix sd lock rxClk txClk s
  | .portCfgWrite w p v => Sys2Proof.Machine.execPortCfgWrite w p v s
  | .chanCfgWrite w c v => Sys2Proof.Machine.execChanCfgWrite w c v s
  | .alignmentLock c arrivals => Sys2Proof.Machine.execAlignmentLock c arrivals s
  | .alignmentLost c => Sys2Proof.Machine.execAlignmentLost c s
  | .rxFaultSequence c lf rf => Sys2Proof.Machine.execRxFaultSequence c lf rf s
  | .linkUp c => Sys2Proof.Machine.execLinkUp c s
  | .lnSubstitute w p v => Sys2Proof.Machine.execLnSubstitute w p v s
  | .txRelease w p v => Sys2Proof.Machine.execTxRelease w p v s
  | .lnRestore w p v => Sys2Proof.Machine.execLnRestore w p v s
  | .spareAbort w p v => Sys2Proof.Machine.execSpareAbort w p v s
  | .spareMatch p d => Sys2Proof.Machine.execSpareMatch p d s
  | .spareConfirmDone p => Sys2Proof.Machine.execSpareConfirmDone p s
  | .spareMatchTimeout p => Sys2Proof.Machine.execSpareMatchTimeout p s
  | .spareSwitch p => Sys2Proof.Machine.execSpareSwitch p s
  | .riltorHeaderCheck p l n b => Sys2Proof.Machine.execRiltorHeaderCheck p l n b s
  | .rehunt w j => Sys2Proof.Machine.execRehunt w j s
  | .txRiltorFrame j => Sys2Proof.Machine.execTxRiltorFrame j s
  | .gfpCoreHeader c => Sys2Proof.Machine.execGfpCoreHeader c s
  | .gfpFrameReceived c => Sys2Proof.Machine.execGfpFrameReceived c s
  | .gfpLinkUp c => Sys2Proof.Machine.execGfpLinkUp c s
  | .groupEnable w g n id c => Sys2Proof.Machine.execGroupEnable w g n id c s
  | .groupDisable w g => Sys2Proof.Machine.execGroupDisable w g s
  | .groupSegment g => Sys2Proof.Machine.execGroupSegment g s
  | .pairEnable w k v => Sys2Proof.Machine.execPairEnable w k v s
  | .hingeCopyArrival c => Sys2Proof.Machine.execHingeCopyArrival c s
  | .hingeWaitExpiry k => Sys2Proof.Machine.execHingeWaitExpiry k s
  | .pairCmdNone w k => Sys2Proof.Machine.execPairCmdNone w k s
  | .pairCmdLo w k => Sys2Proof.Machine.execPairCmdLo w k s
  | .pairCmdFs w k => Sys2Proof.Machine.execPairCmdFs w k s
  | .pairCmdMsProtect w k => Sys2Proof.Machine.execPairCmdMsProtect w k s
  | .pairCmdMsWorking w k => Sys2Proof.Machine.execPairCmdMsWorking w k s
  | .pairCmdExer w k => Sys2Proof.Machine.execPairCmdExer w k s
  | .holdoffExpiry k cond => Sys2Proof.Machine.execHoldoffExpiry k cond s
  | .wtrExpiry k => Sys2Proof.Machine.execWtrExpiry k s
  | .secondBoundary => Sys2Proof.Machine.execSecondBoundary s
  | .ohTxWord k => Sys2Proof.Machine.execOhTxWord k s
  | .ohRxWord k whole v => Sys2Proof.Machine.execOhRxWord k whole v s
  | .mcCommit w c rxBusy => Sys2Proof.Machine.execMcCommit w c rxBusy s
  | .rxFrame c f code slot x => Sys2Proof.Machine.execRxFrame c f code slot x s
  | .lookupRequest c => Sys2Proof.Machine.execLookupRequest c s
  | .tableReadResponse => Sys2Proof.Machine.execTableReadResponse s
  | .lookupDeadline c => Sys2Proof.Machine.execLookupDeadline c s
  | .verdictReturn c => Sys2Proof.Machine.execVerdictReturn c s
  | .rxFrameRelease c unc => Sys2Proof.Machine.execRxFrameRelease c unc s
  | .rxFrameEntry c => Sys2Proof.Machine.execRxFrameEntry c s
  | .rxDescriptorTake unc => Sys2Proof.Machine.execRxDescriptorTake unc s
  | .rxDataWriteResponse => Sys2Proof.Machine.execRxDataWriteResponse s
  | .rxCompletionWrite n => Sys2Proof.Machine.execRxCompletionWrite n s
  | .completionWriteResponse => Sys2Proof.Machine.execCompletionWriteResponse s
  | .doorbellWrite w x wide v => Sys2Proof.Machine.execDoorbellWrite w x wide v s
  | .eventConsumerWrite w x wide v => Sys2Proof.Machine.execEventConsumerWrite w x wide v s
  | .descriptorReadIssue => Sys2Proof.Machine.execDescriptorReadIssue s
  | .descriptorReadResponse => Sys2Proof.Machine.execDescriptorReadResponse s
  | .dataFetchIssue => Sys2Proof.Machine.execDataFetchIssue s
  | .dataFetchResponse => Sys2Proof.Machine.execDataFetchResponse s
  | .dispatch c k unc => Sys2Proof.Machine.execDispatch c k unc s
  | .txFrameInStaging c => Sys2Proof.Machine.execTxFrameInStaging c s
  | .txFrameStart c x => Sys2Proof.Machine.execTxFrameStart c x s
  | .txFrameEnd c => Sys2Proof.Machine.execTxFrameEnd c s
  | .txCompletionWrite n => Sys2Proof.Machine.execTxCompletionWrite n s
  | .pauseTimerExpiry c k => Sys2Proof.Machine.execPauseTimerExpiry c k s
  | .pauseRefreshTimer c => Sys2Proof.Machine.execPauseRefreshTimer c s
  | .fcModeWrite w c v => Sys2Proof.Machine.execFcModeWrite w c v s
  | .pauseWatchdog c k => Sys2Proof.Machine.execPauseWatchdog c k s
  | .watchdogHoldoffEnd c k => Sys2Proof.Machine.execWatchdogHoldoffEnd c k s
  | .clEnable w v => Sys2Proof.Machine.execClEnable w v s
  | .clClear w v => Sys2Proof.Machine.execClClear w v s
  | .clClearDone => Sys2Proof.Machine.execClClearDone s
  | .clInsert w => Sys2Proof.Machine.execClInsert w s
  | .clDelete w => Sys2Proof.Machine.execClDelete w s
  | .clModify w => Sys2Proof.Machine.execClModify w s
  | .clQuery w => Sys2Proof.Machine.execClQuery w s
  | .updateWriteResponse => Sys2Proof.Machine.execUpdateWriteResponse s
  | .stashMigrate => Sys2Proof.Machine.execStashMigrate s
  | .mtWrite w read => Sys2Proof.Machine.execMtWrite w read s
  | .mtRead w => Sys2Proof.Machine.execMtRead w s
  | .refillInstant => Sys2Proof.Machine.execRefillInstant s
  | .scCommit w => Sys2Proof.Machine.execScCommit w s
  | .scRead w => Sys2Proof.Machine.execScRead w s
  | .starveTimer c k => Sys2Proof.Machine.execStarveTimer c k s
  | .guardWindowEnd c => Sys2Proof.Machine.execGuardWindowEnd c s
  | .tgCommit w c => Sys2Proof.Machine.execTgCommit w c s
  | .tgTakeover c => Sys2Proof.Machine.execTgTakeover c s
  | .gateEntryChange c unc => Sys2Proof.Machine.execGateEntryChange c unc s
  | .queueStopped n rx => Sys2Proof.Machine.execQueueStopped n rx s
  | .notifyModTimer x v => Sys2Proof.Machine.execNotifyModTimer x v s
  | .notifyMessageResponse => Sys2Proof.Machine.execNotifyMessageResponse s
  | .cmdEnableWrite w v => Sys2Proof.Machine.execCmdEnableWrite w v s
  | .cmdPiWrite w v => Sys2Proof.Machine.execCmdPiWrite w v s
  | .commandReadResponse => Sys2Proof.Machine.execCommandReadResponse s
  | .commandCompletionResponse => Sys2Proof.Machine.execCommandCompletionResponse s
  | .cmdNop => Sys2Proof.Machine.execCmdNop s
  | .ctxCreate => Sys2Proof.Machine.execCtxCreate s
  | .ctxDestroy => Sys2Proof.Machine.execCtxDestroy s
  | .ctxReset => Sys2Proof.Machine.execCtxReset s
  | .ctxFreeze => Sys2Proof.Machine.execCtxFreeze s
  | .ctxSave => Sys2Proof.Machine.execCtxSave s
  | .ctxRestore => Sys2Proof.Machine.execCtxRestore s
  | .ctxResume => Sys2Proof.Machine.execCtxResume s
  | .dirtyStart => Sys2Proof.Machine.execDirtyStart s
  | .dirtyStop => Sys2Proof.Machine.execDirtyStop s
  | .txqSetup => Sys2Proof.Machine.execTxqSetup s
  | .rxqSetup => Sys2Proof.Machine.execRxqSetup s
  | .qStop => Sys2Proof.Machine.execQStop s
  | .qRestart => Sys2Proof.Machine.execQRestart s
  | .qTeardown => Sys2Proof.Machine.execQTeardown s
  | .evqSetup => Sys2Proof.Machine.execEvqSetup s
  | .evqTeardown => Sys2Proof.Machine.execEvqTeardown s
  | .vecSet => Sys2Proof.Machine.execVecSet s
  | .epInsert => Sys2Proof.Machine.execEpInsert s
  | .epDelete => Sys2Proof.Machine.execEpDelete s
  | .epModify => Sys2Proof.Machine.execEpModify s
  | .epQuery => Sys2Proof.Machine.execEpQuery s
  | .shaperSet => Sys2Proof.Machine.execShaperSet s
  | .resetEnd x => Sys2Proof.Machine.execResetEnd x s
  | .drainTimeout x => Sys2Proof.Machine.execDrainTimeout x s
  | .freezeEnd x => Sys2Proof.Machine.execFreezeEnd x s
  | .freezeTimeout x => Sys2Proof.Machine.execFreezeTimeout x s
  | .imageWriteResponse => Sys2Proof.Machine.execImageWriteResponse s
  | .imageReadResponse => Sys2Proof.Machine.execImageReadResponse s
  | .dirtyMarkResponse => Sys2Proof.Machine.execDirtyMarkResponse s
  | .cxCommit w => Sys2Proof.Machine.execCxCommit w s
  | .ccClaim w n => Sys2Proof.Machine.execCcClaim w n s
  | .ccWordWrite w n ix v => Sys2Proof.Machine.execCcWordWrite w n ix v s
  | .ccCommit w n v => Sys2Proof.Machine.execCcCommit w n v s
  | .ccDone w n v => Sys2Proof.Machine.execCcDone w n v s
  | .ccRelease w n v => Sys2Proof.Machine.execCcRelease w n v s
  | .leaseExpiry n => Sys2Proof.Machine.execLeaseExpiry n s
  | .ccBreak w n => Sys2Proof.Machine.execCcBreak w n s
  | .haltInputChange ix high => Sys2Proof.Machine.execHaltInputChange ix high s
  | .tbAcq w l => Sys2Proof.Machine.execTbAcq w l s
  | .tbRel w l v => Sys2Proof.Machine.execTbRel w l v s
  | .tbForce w l => Sys2Proof.Machine.execTbForce w l s
  | .tbUnwant w l => Sys2Proof.Machine.execTbUnwant w l s
  | .wantExpiry m => Sys2Proof.Machine.execWantExpiry m s
  | .cycleWalk => Sys2Proof.Machine.execCycleWalk s
  | .cutInstant => Sys2Proof.Machine.execCutInstant s
  | .cutMarker m => Sys2Proof.Machine.execCutMarker m s
  | .cutWindowTimeout => Sys2Proof.Machine.execCutWindowTimeout s
  | .ledgerRecordWrite => Sys2Proof.Machine.execLedgerRecordWrite s
  | .ledgerRecordResponse => Sys2Proof.Machine.execLedgerRecordResponse s
  | .lgCiWrite w v => Sys2Proof.Machine.execLgCiWrite w v s
  | .lgRingEnable w v => Sys2Proof.Machine.execLgRingEnable w v s
  | .contextClose x => Sys2Proof.Machine.execContextClose x s
  | .tmSet w => Sys2Proof.Machine.execTmSet w s
  | .tmOffset w => Sys2Proof.Machine.execTmOffset w s
  | .tmRelock w => Sys2Proof.Machine.execTmRelock w s
  | .tmIncrWrite w v => Sys2Proof.Machine.execTmIncrWrite w v s
  | .realignmentBoundary => Sys2Proof.Machine.execRealignmentBoundary s
  | .timeCaptureRead w => Sys2Proof.Machine.execTimeCaptureRead w s
  | .ppsEdge => Sys2Proof.Machine.execPpsEdge s
  | .ppsLossTimeout => Sys2Proof.Machine.execPpsLossTimeout s
  | .todMessage m => Sys2Proof.Machine.execTodMessage m s
  | .aonPeriodMeasured period => Sys2Proof.Machine.execAonPeriodMeasured period s
  | .sourceLevelChange n => Sys2Proof.Machine.execSourceLevelChange n s
  | .hbSwSet w v => Sys2Proof.Machine.execHbSwSet w v s
  | .hbClaim w t k => Sys2Proof.Machine.execHbClaim w t k s
  | .hbComplete w t v => Sys2Proof.Machine.execHbComplete w t v s
  | .hbSrcCfgWrite w n v => Sys2Proof.Machine.execHbSrcCfgWrite w n v s
  | .hbDisableWrite w v => Sys2Proof.Machine.execHbDisableWrite w v s
  | .holdoffGroupExpiry g => Sys2Proof.Machine.execHoldoffGroupExpiry g s
  | .targetAwakeChange t high => Sys2Proof.Machine.execTargetAwakeChange t high s
  | .redirectTimeout n => Sys2Proof.Machine.execRedirectTimeout n s
  | .watchWake e => Sys2Proof.Machine.execWatchWake e s
  | .mdStart w ch => Sys2Proof.Machine.execMdStart w ch s
  | .mdAbort w ch => Sys2Proof.Machine.execMdAbort w ch s
  | .mdDescriptorRead ch => Sys2Proof.Machine.execMdDescriptorRead ch s
  | .mdDataResponse ch => Sys2Proof.Machine.execMdDataResponse ch s
  | .mdWritebackResponse ch => Sys2Proof.Machine.execMdWritebackResponse ch s
  | .mdStoppingDone ch => Sys2Proof.Machine.execMdStoppingDone ch s
  | .cuArm w u keep => Sys2Proof.Machine.execCuArm w u keep s
  | .cuDisarm w u => Sys2Proof.Machine.execCuDisarm w u s
  | .coreRst w v pc b => Sys2Proof.Machine.execCoreRst w v pc b s
  | .watchdogExpiry pc b => Sys2Proof.Machine.execWatchdogExpiry pc b s
  | .wdtKick w => Sys2Proof.Machine.execWdtKick w s
  | .sramEccError unc which addr acc pc b => Sys2Proof.Machine.execSramEccError unc which addr acc pc b s
  | .machineTimer => Sys2Proof.Machine.execMachineTimer s
  | .thermalUpdate r => Sys2Proof.Machine.execThermalUpdate r s
  | .droopEpisode ix mv => Sys2Proof.Machine.execDroopEpisode ix mv s
  | .clockMonitorWindow k f edges => Sys2Proof.Machine.execClockMonitorWindow k f edges s
  | .logPostFw w code sev => Sys2Proof.Machine.execLogPostFw w code sev s
  | .logPostHost w code sev => Sys2Proof.Machine.execLogPostHost w code sev s
  | .logStore => Sys2Proof.Machine.execLogStore s
  | .logPersistWrite w v => Sys2Proof.Machine.execLogPersistWrite w v s
  | .logSeqWrite w v => Sys2Proof.Machine.execLogSeqWrite w v s
  | .pcFreeze w on => Sys2Proof.Machine.execPcFreeze w on s
  | .pcSnap w frz => Sys2Proof.Machine.execPcSnap w frz s
  | .pcClear w frz => Sys2Proof.Machine.execPcClear w frz s
  | .pcExport w frz => Sys2Proof.Machine.execPcExport w frz s
  | .pcExportResponse => Sys2Proof.Machine.execPcExportResponse s
  | .bgDeadlineMiss a u => Sys2Proof.Machine.execBgDeadlineMiss a u s
  | .scrubSweepEnd a rows => Sys2Proof.Machine.execScrubSweepEnd a rows s
  | .storeRead w len => Sys2Proof.Machine.execStoreRead w len s
  | .storeProgram w len => Sys2Proof.Machine.execStoreProgram w len s
  | .storeErase w => Sys2Proof.Machine.execStoreErase w s
  | .storeReadStatus w => Sys2Proof.Machine.execStoreReadStatus w s
  | .storeXferDone a => Sys2Proof.Machine.execStoreXferDone a s
  | .updateGo w kind => Sys2Proof.Machine.execUpdateGo w kind s
  | .updateResult w v seq => Sys2Proof.Machine.execUpdateResult w v seq s
  | .kwStart w => Sys2Proof.Machine.execKwStart w s
  | .kwAbort w => Sys2Proof.Machine.execKwAbort w s
  | .kwDinWrite w v => Sys2Proof.Machine.execKwDinWrite w v s
  | .kwDoutRead w => Sys2Proof.Machine.execKwDoutRead w s
  | .keywardBlockDone => Sys2Proof.Machine.execKeywardBlockDone s
  | .rngFail => Sys2Proof.Machine.execRngFail s
  | .keyWrite w n wide => Sys2Proof.Machine.execKeyWrite w n wide s
  | .keyZero w n => Sys2Proof.Machine.execKeyZero w n s
  | .keyLock w n => Sys2Proof.Machine.execKeyLock w n s
  | .fuseProg w => Sys2Proof.Machine.execFuseProg w s
  | .fuseProgDone => Sys2Proof.Machine.execFuseProgDone s
  | .haspReqRise => Sys2Proof.Machine.execHaspReqRise s
  | .haspGrant => Sys2Proof.Machine.execHaspGrant s
  | .haspReqFall => Sys2Proof.Machine.execHaspReqFall s
  | .requestA0 w v => Sys2Proof.Machine.execRequestA0 w v s
  | .requestP1 w v => Sys2Proof.Machine.execRequestP1 w v s
  | .requestW w v => Sys2Proof.Machine.execRequestW w v s
  | .requestS w v => Sys2Proof.Machine.execRequestS w v s
  | .requestD w v => Sys2Proof.Machine.execRequestD w v s
  | .entryRequestsDrained => Sys2Proof.Machine.execEntryRequestsDrained s
  | .entryTickLatch => Sys2Proof.Machine.execEntryTickLatch s
  | .pwAckRise => Sys2Proof.Machine.execPwAckRise s
  | .pwAckTimeout => Sys2Proof.Machine.execPwAckTimeout s
  | .wakeSource b => Sys2Proof.Machine.execWakeSource b s
  | .wakeTimer => Sys2Proof.Machine.execWakeTimer s
  | .exitPowerRestored b => Sys2Proof.Machine.execExitPowerRestored b s
  | .exitClocksOk => Sys2Proof.Machine.execExitClocksOk s
  | .p1EntryDrained => Sys2Proof.Machine.execP1EntryDrained s
  | .brownOut => Sys2Proof.Machine.execBrownOut s
  | .svEvacuate w v mid => Sys2Proof.Machine.execSvEvacuate w v mid s
  | .svReturn w v => Sys2Proof.Machine.execSvReturn w v s
  | .fabSpare w v => Sys2Proof.Machine.execFabSpare w v s
  | .fabRestore w v => Sys2Proof.Machine.execFabRestore w v s
  | .tblSpare w v => Sys2Proof.Machine.execTblSpare w v s
  | .tblRestore w v => Sys2Proof.Machine.execTblRestore w v s
  | .rowRepair w v => Sys2Proof.Machine.execRowRepair w v s
  | .sliceTest w v => Sys2Proof.Machine.execSliceTest w v s
  | .svAbort w v => Sys2Proof.Machine.execSvAbort w v s
  | .svCheckpoint ix unc => Sys2Proof.Machine.execSvCheckpoint ix unc s
  | .evacCopyDone => Sys2Proof.Machine.execEvacCopyDone s
  | .evacRxReady => Sys2Proof.Machine.execEvacRxReady s
  | .evacRxSwitch => Sys2Proof.Machine.execEvacRxSwitch s
  | .evacDrainDone => Sys2Proof.Machine.execEvacDrainDone s
  | .evacDrainTimeout => Sys2Proof.Machine.execEvacDrainTimeout s
  | .evacLockstepCompare equal => Sys2Proof.Machine.execEvacLockstepCompare equal s
  | .fabSpareSwitch => Sys2Proof.Machine.execFabSpareSwitch s
  | .tblSpareSwitch => Sys2Proof.Machine.execTblSpareSwitch s
  | .rowRepairSwitch => Sys2Proof.Machine.execRowRepairSwitch s
  | .rngOkReturn => Sys2Proof.Machine.execRngOkReturn s
  | .sliceTestDone ok => Sys2Proof.Machine.execSliceTestDone ok s
  | .coreDebugHalt stopped => Sys2Proof.Machine.execCoreDebugHalt stopped s
  | .scrubUncorrectableWord row => Sys2Proof.Machine.execScrubUncorrectableWord row s
  | .powerRemoved => Sys2Proof.Machine.execPowerRemoved s
  | .pwIsoRise => Sys2Proof.Machine.execPwIsoRise s

end Sys2Proof.Machine
end

