-- ==== Sys2Proof/Machine/Step.lean ====
section
/-! DEFINITION. One step of the block: take the command at the front of the queue and run it (log entry 1). -/

namespace Sys2Proof.Machine

/-- Take the command at the front and answer its outcome on the state with the queue's rest; with no command waiting, one
core-island cycle passes (log entry 2). -/
def step (s : State) : Host.Outcome State Fault Refusal :=
  match s.pending with
  | c :: cs => exec c { s with pending := cs }
  | [] => .next (s.advance 1)

/-- The state with the command that a table word spells at the front of its queue; the table gives no row bits, so no word
spells a command and nothing changes (log entry 3). -/
def State.withFetchWord (s : State) (nbits w : Nat) : State :=
  match Sys2Proof.decodeTableWord nbits w with
  | some c => { s with pending := c :: s.pending }
  | none => s

end Sys2Proof.Machine
end

