-- ==== Sys2Proof/Safety.lean ====
section
/-! DEFINITION. What claims call a safe state and a safe step: the sparse data of the state is in canonical form, and a step
answers a next state, since no command of the block stops it. -/

namespace Sys2Proof.Machine

/-- The register fields are in canonical form: keys rising, no field listed that holds its reset value. -/
def fldsWf (m : SMap Nat) : Bool := mapWf fieldReset m

/-- The Nyelle data SRAM is in canonical form: addresses rising, no byte listed that holds what an unlisted byte reads. -/
def memWf (m : List Host.Cell) : Bool := mapWf sramReset m

/-- The registers and the addressed memory of the block are in canonical form, so that equal contents are equal states. -/
def State.Wf (s : State) : Prop := fldsWf s.flds = true ∧ memWf s.ny.sram = true

/-- A step that answers a next state: neither a fault nor a refusal. -/
def Goes (o : Host.Outcome State Fault Refusal) : Prop := ∃ t, o = .next t

/-- A request of this kind and content stands at the fabric: for its unit's data `a` and `b`, at `addr`, with `data` to write or `rlen` bytes to
read. -/
def State.asks (s : State) (k : ReqKind) (a b addr : Nat) (data : List Byte) (rlen : Nat) : Bool :=
  s.fab.reqs.any (fun r => r.kind == k && r.a == a && r.b == b && r.addr == addr && r.data == data && r.rlen == rlen)

/-- A part of the state, as claims about what a command leaves alone name it. -/
inductive Part where
  /-- the register fields -/
  | regs
  /-- the data SRAM of the Nyelle island -/
  | sram
  /-- the count of free values drawn -/
  | free
  /-- the setup port's answer -/
  | sp
  /-- latched high words -/
  | latch
  /-- read-clear transfers in transit -/
  | transit
  /-- islands, resets and the surroundings descriptor -/
  | sys
  /-- clocks, steps and references of the time base -/
  | tm
  /-- the Nyelle island, its SRAM apart -/
  | ny
  /-- command channels, locks and halted masters -/
  | cc
  /-- sources of the signal hub -/
  | hub
  /-- check units -/
  | cu
  /-- store, keys and fuses -/
  | kw
  /-- management DMA channels -/
  | md
  /-- requests, responses, credits and tags of the external ports -/
  | fab
  /-- lanes -/
  | lanes
  /-- spare lanes -/
  | spares
  /-- framer positions -/
  | frs
  /-- groups -/
  | grps
  /-- GFP receivers -/
  | gfps
  /-- protected pairs -/
  | pairs
  /-- overhead channels -/
  | ohs
  /-- MAC channels -/
  | chs
  /-- received frames -/
  | rxs
  /-- frames to send -/
  | txs
  /-- the next frame's number -/
  | nextFr
  /-- pool queues -/
  | qs
  /-- shapers -/
  | shaps
  /-- schedule nodes -/
  | nodes
  /-- virtual times -/
  | vtime
  /-- the frame buffer -/
  | fb
  /-- the endpoint table -/
  | tbl
  /-- meters -/
  | meters
  /-- contexts -/
  | ctxs
  /-- command, completion and notification rings -/
  | ring
  /-- the ledger -/
  | led
  /-- service and repair -/
  | sv
  /-- power -/
  | pw
  deriving DecidableEq, Repr

/-- A part of two states is the same. -/
def Same (s t : State) : Part → Prop
  | .regs => t.flds = s.flds
  | .sram => t.ny.sram = s.ny.sram
  | .free => t.free = s.free
  | .sp => t.sp = s.sp
  | .latch => t.latch = s.latch
  | .transit => t.transit = s.transit
  | .sys => t.sys = s.sys
  | .tm => t.tm = s.tm
  | .ny => ({ t.ny with sram := [] } : NySt) = { s.ny with sram := [] }
  | .cc => t.cc = s.cc
  | .hub => t.hub = s.hub
  | .cu => t.cu = s.cu
  | .kw => t.kw = s.kw
  | .md => t.md = s.md
  | .fab => t.fab = s.fab
  | .lanes => t.lanes = s.lanes
  | .spares => t.spares = s.spares
  | .frs => t.frs = s.frs
  | .grps => t.grps = s.grps
  | .gfps => t.gfps = s.gfps
  | .pairs => t.pairs = s.pairs
  | .ohs => t.ohs = s.ohs
  | .chs => t.chs = s.chs
  | .rxs => t.rxs = s.rxs
  | .txs => t.txs = s.txs
  | .nextFr => t.nextFr = s.nextFr
  | .qs => t.qs = s.qs
  | .shaps => t.shaps = s.shaps
  | .nodes => t.nodes = s.nodes
  | .vtime => t.vtime = s.vtime
  | .fb => t.fb = s.fb
  | .tbl => t.tbl = s.tbl
  | .meters => t.meters = s.meters
  | .ctxs => t.ctxs = s.ctxs
  | .ring => t.ring = s.ring
  | .led => t.led = s.led
  | .sv => t.sv = s.sv
  | .pw => t.pw = s.pw

/-- Every register field outside the listed ones holds what it held. -/
def Kept (fs : List Fld) (s t : State) : Prop := ∀ k, k ∉ fs.map Fld.key → mapGet fieldReset t.flds k = mapGet fieldReset s.flds k

/-- The crossings by which an access of the setup port reaches a register (R17): class 11 instance 6, and class 10 to the register's
island. -/
def portXings : List Nat := [640, 641, 642, 643, 644, 645, 646, 647, 648, 710]

/-- The fields in which a served access of the setup port shows: it counts as a performance event (R377, R378) and enters crossings,
whose highest occupancy and latency follow (R21). -/
def portCounts : List Fld :=
  [PC_CNT_LO_COUNT 648, PC_CNT_HI_COUNT 648, PC_CNT_LO_COUNT 649, PC_CNT_HI_COUNT 649, PC_OVF_OVF 20, NY_EVT_PC_OVF] ++
    portXings.map SYS_XING_STAT_OCC_MAX ++ portXings.map SYS_XING_STAT_LAT_MAX

/-- A counter field after `n` more: it stops at all ones. -/
def upBy (s : State) (f : Fld) (n : Nat) : Nat := min (s.rd f + n) (2 ^ f.w - 1)

/-- The parts of the state that a command may change; every other part stays as it is. A register access through the setup port
changes the port's answer, a request to the surroundings the external ports, a step that waits for an instant the time base. The
resets (R47, R409, R423) may change every part. -/
def touched : Instr → Part → Bool
  | .registerWrite _ _ _ _ _ | .mdDataResponse _ =>
    ([.regs, .cc, .chs, .ctxs, .cu, .fab, .fb, .free, .frs, .gfps, .grps, .hub, .kw, .lanes, .latch, .led, .md, .meters, .ny, .pairs, .pw, .qs, .ring, .rxs, .shaps, .sp, .spares, .sram, .sv, .sys, .tbl, .tm, .transit, .txs].contains ·)
  | .rcRead _ _ _ _ _ | .lowWordRead _ _ =>
    ([.regs, .cc, .fab, .free, .hub, .kw, .latch, .sp, .sv, .transit].contains ·)
  | .aonRstNFall | .blkRstNFall | .pwGoodFall | .exitPowerRestored _ | .brownOut | .powerRemoved => fun _ => true
  | .resetRelease _ =>
    ([.regs, .chs, .cu, .fab, .fb, .free, .frs, .gfps, .grps, .hub, .kw, .lanes, .led, .ny, .pairs, .qs, .rxs, .sp, .spares, .sram, .sys, .tm, .txs].contains ·)
  | .firmwareRunning => ([.regs, .fab].contains ·)
  | .sdReload _ => ([.regs, .cu, .fab, .sp].contains ·)
  | .sdFetchResponse =>
    ([.regs, .chs, .cu, .fab, .fb, .free, .frs, .gfps, .grps, .hub, .lanes, .led, .ny, .pairs, .qs, .rxs, .sp, .spares, .sys, .tm, .txs].contains ·)
  | .bringupComplete => ([.regs, .sys].contains ·)
  | .bringupTimeout => ([.regs, .fab, .free, .ny, .tm].contains ·)
  | .bringupSliceTimeout _ =>
    ([.regs, .chs, .fb, .free, .frs, .gfps, .grps, .ny, .pairs, .rxs, .sys, .tm, .txs].contains ·)
  | .heartbeatMark => ([.regs, .fab, .sys, .tm].contains ·)
  | .heartbeatDeferredWrite => ([.fab, .sys].contains ·)
  | .heartbeatWriteResponse => ([.regs, .fab, .sp, .sys].contains ·)
  | .islandClockStop _ => ([.regs, .chs, .rxs, .sys, .tm].contains ·)
  | .fabricBeatReceived _ _ | .notifyMessageResponse | .commandCompletionResponse | .ccWordWrite _ _ _ _
  | .lgCiWrite _ _ | .tmIncrWrite _ _ | .timeCaptureRead _ | .logPersistWrite _ _ | .logSeqWrite _ _ =>
    ([.regs, .fab, .sp].contains ·)
  | .fabricRequestTimeout _ _ | .tableReadTimeout _ _ => ([.regs, .fab, .tm].contains ·)
  | .rxLaneWord _ _ =>
    ([.regs, .chs, .fb, .frs, .gfps, .grps, .lanes, .ny, .pairs, .rxs, .spares, .sys, .txs].contains ·)
  | .txLaneWord _ _ => ([.regs, .frs, .lanes].contains ·)
  | .laneUp _ => ([.regs, .chs, .fb, .frs, .gfps, .grps, .lanes, .pairs, .rxs, .sys, .tm, .txs].contains ·)
  | .laneDown _ _ _ _ _ =>
    ([.regs, .chs, .fb, .frs, .gfps, .grps, .lanes, .pairs, .rxs, .spares, .sys, .txs].contains ·)
  | .portCfgWrite _ _ _ | .chanCfgWrite _ _ _ =>
    ([.regs, .chs, .fab, .fb, .free, .frs, .gfps, .grps, .led, .pairs, .qs, .rxs, .sp, .sys, .txs].contains ·)
  | .alignmentLock _ _ | .alignmentLost _ | .rxFaultSequence _ _ _ => ([.regs, .chs].contains ·)
  | .linkUp _ | .gfpLinkUp _ | .ppsEdge | .ppsLossTimeout | .todMessage _ | .aonPeriodMeasured _ =>
    ([.regs, .tm].contains ·)
  | .lnSubstitute _ _ _ | .txRelease _ _ _ | .lnRestore _ _ _ | .spareAbort _ _ _ =>
    ([.regs, .chs, .fab, .fb, .frs, .gfps, .grps, .lanes, .pairs, .rxs, .sp, .spares, .sys, .txs].contains ·)
  | .spareMatch _ _ => ([.regs, .spares].contains ·)
  | .spareConfirmDone _ | .rngOkReturn | .scrubUncorrectableWord _ => ([.regs].contains ·)
  | .spareMatchTimeout _ =>
    ([.regs, .chs, .fb, .frs, .gfps, .grps, .lanes, .pairs, .rxs, .spares, .sys, .tm, .txs].contains ·)
  | .spareSwitch _ =>
    ([.regs, .chs, .fb, .free, .frs, .gfps, .grps, .lanes, .pairs, .rxs, .spares, .sys, .txs].contains ·)
  | .riltorHeaderCheck _ _ _ _ =>
    ([.regs, .cc, .chs, .fb, .frs, .gfps, .grps, .ny, .ohs, .pairs, .rxs, .sys, .txs].contains ·)
  | .rehunt _ _ | .groupEnable _ _ _ _ _ | .groupDisable _ _ =>
    ([.regs, .chs, .fab, .fb, .frs, .gfps, .grps, .pairs, .rxs, .sp, .sys, .txs].contains ·)
  | .txRiltorFrame _ => ([.regs, .chs, .fb, .free, .frs, .gfps, .grps, .led, .ohs, .qs, .sys, .txs].contains ·)
  | .gfpCoreHeader _ => ([.regs, .chs, .fb, .gfps, .pairs, .rxs, .sys, .txs].contains ·)
  | .gfpFrameReceived _ => ([.regs, .gfps].contains ·)
  | .groupSegment _ => ([.regs, .chs, .fb, .frs, .gfps, .grps, .pairs, .rxs, .sys, .txs].contains ·)
  | .pairEnable _ _ _ | .pairCmdNone _ _ | .pairCmdLo _ _ | .pairCmdFs _ _ | .pairCmdMsProtect _ _
  | .pairCmdMsWorking _ _ | .pairCmdExer _ _ => ([.regs, .fab, .pairs, .sp].contains ·)
  | .hingeCopyArrival _ => ([.regs, .chs, .fb, .pairs, .rxs, .sys, .txs].contains ·)
  | .hingeWaitExpiry _ => ([.regs, .chs, .fb, .pairs, .rxs, .sys, .tm, .txs].contains ·)
  | .holdoffExpiry _ _ | .wtrExpiry _ => ([.regs, .pairs, .tm].contains ·)
  | .secondBoundary => ([.regs, .chs, .fb, .frs, .grps, .ny, .pairs, .rxs, .sys, .tm, .txs].contains ·)
  | .ohTxWord _ => ([.regs, .cu, .ohs, .tm].contains ·)
  | .ohRxWord _ _ _ => ([.regs, .cu, .ohs].contains ·)
  | .mcCommit _ _ _ | .fcModeWrite _ _ _ | .tgCommit _ _ => ([.regs, .chs, .fab, .sp].contains ·)
  | .rxFrame _ _ _ _ _ =>
    ([.regs, .chs, .fab, .fb, .frs, .gfps, .grps, .hub, .lanes, .nextFr, .pairs, .pw, .rxs, .sys, .txs].contains ·)
  | .lookupRequest _ => ([.regs, .fab, .rxs, .tbl].contains ·)
  | .tableReadResponse | .clInsert _ | .clDelete _ | .clModify _ | .clQuery _ | .updateWriteResponse =>
    ([.regs, .fab, .ny, .ring, .sp, .sv, .tbl].contains ·)
  | .lookupDeadline _ => ([.regs, .tbl, .tm].contains ·)
  | .verdictReturn _ => ([.regs, .rxs, .sys, .tbl].contains ·)
  | .rxFrameRelease _ _ => ([.regs, .chs, .rxs, .sv, .sys, .txs].contains ·)
  | .rxFrameEntry _ => ([.regs, .cc, .chs, .fb, .free, .led, .meters, .ring, .rxs, .sys, .txs].contains ·)
  | .rxDescriptorTake _ => ([.regs, .chs, .ctxs, .fab, .fb, .free, .led, .qs, .rxs, .sys, .txs].contains ·)
  | .rxDataWriteResponse => ([.regs, .chs, .ctxs, .fab, .fb, .rxs, .sp, .sys, .txs].contains ·)
  | .rxCompletionWrite _ => ([.regs, .chs, .fab, .fb, .free, .led, .meters, .qs, .ring, .rxs, .sys, .txs].contains ·)
  | .completionWriteResponse => ([.regs, .ctxs, .fab, .free, .led, .qs, .rxs, .sp, .txs].contains ·)
  | .doorbellWrite _ _ _ _ => ([.regs, .qs, .sp].contains ·)
  | .eventConsumerWrite _ _ _ _ => ([.regs, .ctxs, .free, .sp].contains ·)
  | .descriptorReadIssue => ([.fab, .qs, .ring].contains ·)
  | .descriptorReadResponse =>
    ([.regs, .chs, .ctxs, .fab, .fb, .free, .led, .nextFr, .qs, .ring, .sp, .sys, .txs].contains ·)
  | .dataFetchIssue => ([.regs, .chs, .fab, .fb, .sys, .txs].contains ·)
  | .dataFetchResponse => ([.regs, .chs, .fab, .fb, .free, .led, .nodes, .qs, .sp, .sys, .txs].contains ·)
  | .dispatch _ _ _ => ([.regs, .chs, .grps, .nextFr, .nodes, .pairs, .shaps, .sys, .txs, .vtime].contains ·)
  | .txFrameInStaging _ | .txFrameEnd _ => ([.regs, .chs, .fb, .free, .led, .qs, .sys, .txs].contains ·)
  | .txFrameStart _ _ => ([.regs, .chs, .fb, .free, .gfps, .grps, .led, .qs, .sv, .sys, .tm, .txs].contains ·)
  | .txCompletionWrite _ => ([.regs, .chs, .fab, .qs, .sys, .txs].contains ·)
  | .pauseTimerExpiry _ _ | .pauseRefreshTimer _ | .pauseWatchdog _ _ | .watchdogHoldoffEnd _ _ | .starveTimer _ _ =>
    ([.regs, .chs, .tm].contains ·)
  | .clEnable _ _ | .clClear _ _ => ([.regs, .fab, .sp, .sv, .tbl].contains ·)
  | .clClearDone => ([.regs, .tbl].contains ·)
  | .stashMigrate | .epInsert | .epDelete | .epModify | .epQuery => ([.regs, .fab, .ny, .ring, .sv, .tbl].contains ·)
  | .mtWrite _ _ | .mtRead _ => ([.regs, .fab, .meters, .sp].contains ·)
  | .refillInstant => ([.regs, .fab, .nodes, .qs, .ring, .shaps, .tm].contains ·)
  | .scCommit _ => ([.regs, .fab, .ring, .shaps, .sp].contains ·)
  | .scRead _ => ([.regs, .fab, .shaps, .sp, .tbl].contains ·)
  | .guardWindowEnd _ | .tgTakeover _ => ([.regs, .chs, .fb, .free, .led, .qs, .sys, .tm, .txs].contains ·)
  | .gateEntryChange _ _ | .evacDrainTimeout => ([.regs, .chs, .fb, .free, .led, .qs, .sv, .sys, .tm, .txs].contains ·)
  | .queueStopped _ _ => ([.regs, .ctxs, .fab, .free, .qs, .ring].contains ·)
  | .notifyModTimer _ _ => ([.regs, .ctxs, .fab, .tm].contains ·)
  | .cmdEnableWrite _ _ | .cmdPiWrite _ _ | .commandReadResponse | .imageWriteResponse =>
    ([.regs, .fab, .ring, .sp].contains ·)
  | .cmdNop => ([.regs, .fab, .ring].contains ·)
  | .ctxCreate => ([.regs, .ctxs, .fab, .qs, .ring, .shaps].contains ·)
  | .ctxDestroy => ([.regs, .ctxs, .fab, .led, .qs, .ring, .shaps].contains ·)
  | .ctxReset => ([.regs, .chs, .ctxs, .fab, .fb, .free, .led, .nodes, .qs, .ring, .rxs, .sys, .txs].contains ·)
  | .ctxFreeze => ([.regs, .ctxs, .fab, .qs, .ring, .txs].contains ·)
  | .ctxSave | .ctxRestore => ([.regs, .cu, .fab, .ring].contains ·)
  | .ctxResume | .resetEnd _ => ([.regs, .ctxs, .fab, .free, .ring].contains ·)
  | .dirtyStart | .dirtyStop | .evqSetup | .evqTeardown | .vecSet => ([.regs, .ctxs, .fab, .ring].contains ·)
  | .txqSetup | .rxqSetup | .qStop | .qRestart | .qTeardown => ([.regs, .fab, .qs, .ring].contains ·)
  | .shaperSet => ([.regs, .fab, .ring, .shaps].contains ·)
  | .drainTimeout _ => ([.regs, .chs, .ctxs, .fab, .fb, .free, .led, .nodes, .qs, .rxs, .sys, .tm, .txs].contains ·)
  | .freezeEnd _ => ([.regs, .ctxs, .fab, .qs, .ring].contains ·)
  | .freezeTimeout _ => ([.regs, .ctxs, .fab, .free, .ring, .tm].contains ·)
  | .imageReadResponse => ([.regs, .ctxs, .cu, .fab, .free, .qs, .ring, .shaps, .sp].contains ·)
  | .dirtyMarkResponse => ([.regs, .ctxs, .fab, .free, .ring, .sp].contains ·)
  | .cxCommit _ => ([.regs, .ctxs, .fab, .sp].contains ·)
  | .ccClaim _ _ | .ccCommit _ _ _ | .ccDone _ _ _ | .ccRelease _ _ _ | .ccBreak _ _ | .tbAcq _ _ | .tbRel _ _ _
  | .tbForce _ _ | .tbUnwant _ _ => ([.regs, .cc, .fab, .sp].contains ·)
  | .leaseExpiry _ | .wantExpiry _ => ([.regs, .cc, .tm].contains ·)
  | .haltInputChange _ _ => ([.cc].contains ·)
  | .cycleWalk => ([.regs, .cc].contains ·)
  | .cutInstant =>
    ([.regs, .chs, .ctxs, .fab, .fb, .free, .frs, .gfps, .grps, .lanes, .led, .pairs, .pw, .rxs, .sys, .tm, .txs].contains ·)
  | .cutMarker _ => ([.regs, .free, .led, .ny].contains ·)
  | .cutWindowTimeout => ([.regs, .free, .led, .ny, .tm].contains ·)
  | .ledgerRecordWrite => ([.regs, .cu, .fab, .led].contains ·)
  | .ledgerRecordResponse => ([.regs, .fab, .led, .ny, .sp].contains ·)
  | .lgRingEnable _ _ => ([.regs, .fab, .led, .sp].contains ·)
  | .contextClose _ => ([.regs, .ctxs, .fab, .led, .ring].contains ·)
  | .tmSet _ | .tmOffset _ | .tmRelock _ => ([.regs, .fab, .sp, .tm].contains ·)
  | .realignmentBoundary =>
    ([.regs, .chs, .ctxs, .fab, .fb, .free, .frs, .gfps, .grps, .lanes, .led, .ny, .pairs, .pw, .rxs, .sys, .tm, .txs].contains ·)
  | .sourceLevelChange _ => ([.regs, .fab, .hub, .ny].contains ·)
  | .hbSwSet _ _ | .hbComplete _ _ _ => ([.regs, .fab, .hub, .ny, .sp].contains ·)
  | .hbClaim _ _ _ | .hbSrcCfgWrite _ _ _ | .hbDisableWrite _ _ => ([.regs, .fab, .hub, .sp].contains ·)
  | .holdoffGroupExpiry _ => ([.regs, .hub, .tm].contains ·)
  | .targetAwakeChange _ _ => ([.hub].contains ·)
  | .redirectTimeout _ => ([.regs, .fb, .hub, .tm].contains ·)
  | .watchWake _ | .wakeSource _ =>
    ([.regs, .chs, .fab, .fb, .frs, .gfps, .grps, .hub, .lanes, .pairs, .pw, .rxs, .sys, .txs].contains ·)
  | .mdStart _ _ | .mdAbort _ _ => ([.regs, .cu, .fab, .latch, .md, .ny, .sp, .transit].contains ·)
  | .mdDescriptorRead _ => ([.regs, .cu, .fab, .md, .ny, .sp].contains ·)
  | .mdWritebackResponse _ => ([.regs, .fab, .md, .ny, .sp, .sram].contains ·)
  | .mdStoppingDone _ => ([.regs, .md, .ny].contains ·)
  | .cuArm _ _ _ | .cuDisarm _ _ => ([.regs, .cu, .fab, .sp, .tm].contains ·)
  | .coreRst _ _ _ _ => ([.regs, .fab, .hub, .kw, .latch, .ny, .sp, .sram, .transit].contains ·)
  | .watchdogExpiry _ _ => ([.regs, .hub, .kw, .latch, .ny, .sram, .tm, .transit].contains ·)
  | .wdtKick _ | .logPostFw _ _ _ | .logPostHost _ _ _ | .pcExportResponse => ([.regs, .fab, .ny, .sp].contains ·)
  | .sramEccError _ _ _ _ _ _ => ([.regs, .hub, .kw, .latch, .md, .ny, .sp, .sram, .transit].contains ·)
  | .machineTimer | .bgDeadlineMiss _ _ => ([.regs, .ny, .tm].contains ·)
  | .thermalUpdate _ =>
    ([.regs, .chs, .fab, .fb, .free, .frs, .gfps, .grps, .lanes, .ny, .pairs, .pw, .rxs, .sys, .txs].contains ·)
  | .droopEpisode _ _ | .logStore | .scrubSweepEnd _ _ => ([.regs, .ny].contains ·)
  | .clockMonitorWindow _ _ _ =>
    ([.regs, .chs, .fab, .fb, .free, .frs, .gfps, .grps, .lanes, .led, .ny, .pairs, .qs, .rxs, .sp, .spares, .sv, .sys, .tm, .txs].contains ·)
  | .pcFreeze _ _ | .pcSnap _ _ | .pcClear _ _ | .pcExport _ _ => ([.regs, .fab, .free, .ny, .sp].contains ·)
  | .storeRead _ _ | .storeProgram _ _ | .storeErase _ | .storeReadStatus _ | .updateGo _ _ | .updateResult _ _ _
  | .kwDinWrite _ _ | .kwDoutRead _ | .keyWrite _ _ _ | .keyZero _ _ | .keyLock _ _ | .fuseProg _ =>
    ([.regs, .fab, .kw, .sp].contains ·)
  | .storeXferDone _ => ([.regs, .cu, .kw, .ny, .sram, .tm].contains ·)
  | .kwStart _ | .kwAbort _ => ([.regs, .cu, .fab, .kw, .sp].contains ·)
  | .keywardBlockDone | .rngFail | .haspReqRise => ([.regs, .cu, .kw].contains ·)
  | .fuseProgDone | .haspGrant | .haspReqFall => ([.regs, .kw].contains ·)
  | .requestA0 _ _ | .requestP1 _ _ | .requestW _ _ | .requestS _ _ | .requestD _ _ =>
    ([.regs, .fab, .pw, .sp].contains ·)
  | .entryRequestsDrained => ([.regs, .fab, .pw].contains ·)
  | .entryTickLatch =>
    ([.regs, .chs, .fab, .fb, .frs, .gfps, .grps, .lanes, .pairs, .pw, .rxs, .spares, .sys, .tm, .txs].contains ·)
  | .pwAckRise =>
    ([.regs, .chs, .fab, .fb, .free, .frs, .gfps, .grps, .hub, .lanes, .led, .ny, .pairs, .pw, .qs, .rxs, .sp, .spares, .sys, .tm, .txs].contains ·)
  | .pwAckTimeout => ([.regs, .pw, .tm].contains ·)
  | .wakeTimer =>
    ([.regs, .chs, .fab, .fb, .frs, .gfps, .grps, .hub, .lanes, .pairs, .pw, .rxs, .sys, .tm, .txs].contains ·)
  | .exitClocksOk =>
    ([.regs, .chs, .fab, .fb, .frs, .gfps, .grps, .lanes, .pairs, .pw, .rxs, .sys, .tbl, .tm, .txs].contains ·)
  | .p1EntryDrained =>
    ([.regs, .chs, .fb, .frs, .gfps, .grps, .lanes, .pairs, .pw, .rxs, .spares, .sys, .tm, .txs].contains ·)
  | .svEvacuate _ _ _ | .svReturn _ _ | .fabSpare _ _ | .fabRestore _ _ | .tblSpare _ _ | .tblRestore _ _
  | .rowRepair _ _ | .sliceTest _ _ | .svAbort _ _ =>
    ([.regs, .chs, .fab, .fb, .free, .frs, .gfps, .grps, .lanes, .led, .meters, .ny, .pairs, .qs, .ring, .rxs, .sp, .spares, .sv, .sys, .tbl, .txs].contains ·)
  | .svCheckpoint _ _ | .evacRxReady | .evacRxSwitch => ([.regs, .sv, .tm].contains ·)
  | .evacCopyDone => ([.regs, .chs, .fab, .sv, .transit].contains ·)
  | .evacDrainDone => ([.sv].contains ·)
  | .evacLockstepCompare _ => ([.regs, .chs, .fab, .sv].contains ·)
  | .fabSpareSwitch | .tblSpareSwitch => ([.regs, .fab, .sv].contains ·)
  | .rowRepairSwitch => ([.regs, .sv].contains ·)
  | .sliceTestDone _ => ([.regs, .fab, .sv, .sys, .tm].contains ·)
  | .coreDebugHalt _ => ([.regs, .cc, .ny].contains ·)
  | .pwIsoRise => ([.regs, .fab, .hub, .sys].contains ·)

end Sys2Proof.Machine
end

