-- ==== Sys2Proof/Certificates/Slice0/Obligations.lean ====
section
/-! DEFINITION. The statements about the block. Each names the rules it formalises or the sections it rests on; a clause that rests on
a choice of the model names the log entry. -/

open Sys2Proof Sys2Proof.Machine

/-- A step takes the command at the front of the queue and answers what its meaning answers on the state with the rest of the queue. -/
def Obligations.StepRunsTheFrontCommand : Prop :=
  ∀ c s, step { s with pending := c :: s.pending } = exec c s

/-- On an empty queue one core-island cycle passes (a choice of the model, log entry 2): the cycle counter and the time counter of R315 to R317
advance while the core island runs and stand while it does not, and nothing but the clocks changes. -/
def Obligations.IdleStepLetsACyclePass : Prop :=
  ∀ s, s.pending = [] → ∃ t, step s = .next t ∧ t.tm.tick = s.tm.tick + 1 ∧ t.pending = [] ∧
    (s.coreUp = true → t.tm.cyc = s.tm.cyc + 1 ∧ t.tm.now = (s.tm.now + s.tm.incr) % timeMod) ∧
    (s.coreUp = false → t.tm.cyc = s.tm.cyc ∧ t.tm.now = s.tm.now) ∧ (∀ p, p ≠ .regs → p ≠ .tm → Same s t p) ∧
    Kept [NY_MTIME_LO_MTIME, NY_MTIME_HI_MTIME, TM_AON_CNT_LO_COUNT, TM_AON_CNT_HI_COUNT] s t

/-- Every command completes in every state: it answers a next state, and never a fault or a refusal. -/
def Obligations.EveryCommandAnswersANextState : Prop := ∀ c s, ∃ t, exec c s = .next t

/-- What reset leaves (R46, R63, R316, R403, R445 and the register tables): the block is unpowered and in `RESET`, no port is up, the boot grants
stand, the increment is 1.0, and the tables' reset values are read; the state is well formed and no command waits. -/
def Obligations.ResetLeavesTheTablesValues : Prop :=
  State.reset.Wf ∧ State.reset.pending = [] ∧ State.reset.start = stRESET ∧ State.reset.fab.up = 0 ∧ State.reset.fab.reqs = [] ∧
    State.reset.fab.availOf (fkey 0 0) = 1 ∧ State.reset.fab.availOf (fkey 1 0) = 0 ∧ State.reset.tm.incr = 0xA0000000 ∧
    State.reset.rd TM_INCR_INCR = 0xA0000000 ∧ State.reset.rd FB_FREE_FREE = 196608 ∧ State.reset.rd LG_STAT_CLOSE_FREE = 64 ∧
    State.reset.rd SYS_SLICE_MAP_MAP = 0x0BA98

/-- No command changes the queue of commands, runs the time back or gives back a free value that was drawn. -/
def Obligations.CommandsLeaveTheQueueAndTime : Prop :=
  ∀ c s t, exec c s = .next t → t.pending = s.pending ∧ s.tm.tick ≤ t.tm.tick ∧ s.free ≤ t.free

/-- The frame of every command: a command changes none of the parts of the state that it is not listed with in `touched`. -/
def Obligations.CommandsTouchOnlyTheirParts : Prop :=
  ∀ c s t p, exec c s = .next t → touched c p = false → Same s t p

/-- Every step keeps the registers and the Nyelle SRAM in canonical form, whatever the command and the state. -/
def Obligations.StepsKeepTheStateWellFormed : Prop :=
  ∀ s t, s.Wf → step s = .next t → t.Wf

/-- `SET`, `OFFSET` and `RELOCK` of `TM_CMD` (R318, R323): a served write with no software step pending makes a step pending that is due
1,024 cycles later, or ends `SLEEP_HOLD`; nothing but the time registers and the access counters changes. A write of `TM_INCR` (R316) is
taken within its range and refused and counted outside it; a read of `TM_NOW_FRAC` (R319) answers the fraction and captures the whole
counter. What log entry 39 chooses is the model's choice. Completes: tmSet, tmOffset, tmRelock, tmIncrWrite, timeCaptureRead. -/
def Obligations.TimeCommands : Prop :=
  (∀ w s, s.serves w 0x170028 4 = true → s.stepHeld = false → s.rd TM_SET_NS_NS ≤ 999999999 →
    ∃ t, exec (.tmSet w) s = .next t ∧ t.sp = ⟨true, 0⟩ ∧ t.is TM_STAT_BUSY = true ∧
      t.tm = { s.tm with step := some ⟨.set, ((s.rd TM_SET_S_LO_S_LO + 2 ^ 32 * s.rd TM_SET_S_HI_S_HI) * secUnits +
        s.rd TM_SET_NS_NS * 2 ^ 32 : Nat), s.tm.cyc + 1024⟩ } ∧
      Kept (TM_STAT_BUSY :: portCounts) s.settleBeats t) ∧
  (∀ w s, s.serves w 0x170028 4 = true → s.stepHeld = false → 999999999 < s.rd TM_SET_NS_NS →
    ∃ t, exec (.tmSet w) s = .next t ∧ t.sp = ⟨true, 0⟩ ∧ t.tm = s.tm ∧ t.rd TM_CFG_REJ_COUNT = upBy s TM_CFG_REJ_COUNT 1 ∧
      Kept (TM_CFG_REJ_COUNT :: portCounts) s.settleBeats t) ∧
  (∀ w s, s.serves w 0x170028 4 = true → s.stepHeld = false →
    ∃ t, exec (.tmOffset w) s = .next t ∧ t.sp = ⟨true, 0⟩ ∧ t.is TM_STAT_BUSY = true ∧
      t.tm = { s.tm with step := some ⟨.offset, signed 32 (s.rd TM_OFFSET_NS) * 2 ^ 32, s.tm.cyc + 1024⟩ } ∧
      Kept (TM_STAT_BUSY :: portCounts) s.settleBeats t) ∧
  (∀ w s, s.serves w 0x170028 4 = true → s.stepHeld = true →
    ∃ t, exec (.tmOffset w) s = .next t ∧ t.sp = ⟨true, 0⟩ ∧ t.tm = s.tm ∧ t.rd TM_CFG_REJ_COUNT = upBy s TM_CFG_REJ_COUNT 1) ∧
  (∀ w s, s.serves w 0x170028 4 = true → s.stepHeld = false → s.is TM_STAT_BUSY = false →
    ∃ t, exec (.tmRelock w) s = .next t ∧ t.sp = ⟨true, 0⟩ ∧ t.tm = s.tm ∧ t.is TM_STAT_SLEEP_HOLD = false ∧
      t.is TM_STAT_HOLDOVER = (s.is TM_STAT_UNSET || s.is TM_STAT_PPS_HOLD || s.is TM_CTRL_SW_HOLD) ∧
      Kept ([TM_STAT_SLEEP_HOLD, TM_STAT_HOLDOVER, TM_EVT_HOLD_CHG] ++ portCounts) s.settleBeats t) ∧
  (∀ w v s, s.serves w 0x170004 4 = true →
    ∃ t, exec (.tmIncrWrite w v) s = .next t ∧ t.sp = ⟨true, 0⟩ ∧ t.tm = s.tm ∧
      (if 2681670206 ≤ v.toNat ∧ v.toNat ≤ 2687038914
        then t.rd TM_INCR_INCR = v.toNat ∧ Kept (TM_INCR_INCR :: portCounts) s.settleBeats t
        else t.rd TM_CFG_REJ_COUNT = upBy s TM_CFG_REJ_COUNT 1 ∧ Kept (TM_CFG_REJ_COUNT :: portCounts) s.settleBeats t)) ∧
  (∀ w s, s.serves w 0x170008 4 = true →
    ∃ t, exec (.timeCaptureRead w) s = .next t ∧ t.sp = ⟨true, fracOf s.tm.now⟩ ∧ t.rd TM_NOW_NS_NS = nsOf s.tm.now ∧
      t.rd TM_NOW_S_LO_S_LO = secOf s.tm.now % 2 ^ 32 ∧ t.rd TM_NOW_S_HI_S_HI = secOf s.tm.now / 2 ^ 32 % 2 ^ 16 ∧
      Kept ([TM_NOW_FRAC_FRAC, TM_NOW_NS_NS, TM_NOW_S_LO_S_LO, TM_NOW_S_HI_S_HI] ++ portCounts) s.settleBeats t)

/-- The life of a command channel (R282 to R288): a read of `CC_CLAIM` takes a `FREE` channel with the next token, zero words and a fresh
lease, and answers the claim word; commit, done and release move it on; the other channels stay as they are. What a channel refuses is
counted and reported and changes nothing else (R285 to R288); a break frees a channel that is not `FREE` (R290). Completes: ccClaim,
ccWordWrite, ccCommit, ccDone, ccRelease, ccBreak. -/
def Obligations.CommandChannels : Prop :=
  (∀ w n s, s.serves w (ccOff n + 0x40) 4 = true → (s.chan n).state = 0 →
    ∃ t, exec (.ccClaim w n) s = .next t ∧ (t.chan n).state = 1 ∧ (t.chan n).owner = w.master ∧
      (t.chan n).token = (if (s.chan n).token ≥ 0xFFFF then 1 else (s.chan n).token + 1) ∧
      (t.chan n).lease = s.freshLease w.master ∧ (t.chan n).limit = s.rd CC_CTRL_LEASE_US ∧
      t.sp = ⟨true, (t.chan n).token + 2 ^ 16 * w.master + 2 ^ 25 + 2 ^ 28 * b2n (s.halted w.master) + 2 ^ 31⟩ ∧
      (∀ i : Fin 16, t.rd (CC_W_WORD n i) = 0) ∧ (∀ k, k ≠ n.val → t.chan k = s.chan k) ∧
      Kept ((List.range 16).map (CC_W_WORD n) ++ portCounts) s.settleBeats t) ∧
  (∀ w n s, s.serves w (ccOff n + 0x40) 4 = true → (s.chan n).state ≠ 0 →
    ∃ t, exec (.ccClaim w n) s = .next t ∧ t.cc = s.cc ∧ t.sp = ⟨true, s.chanWord n false⟩ ∧
      Kept portCounts s.settleBeats t) ∧
  (∀ w n v s, s.serves w (ccOff n + 0x44) 4 = true → (s.chan n).state = 1 → (s.chan n).owner = w.master →
    bits v.toNat 0 16 = (s.chan n).token → 1 ≤ bits v.toNat 16 5 → bits v.toNat 16 5 ≤ 16 → bits v.toNat 21 11 = 0 → s.hasConsumer n = true →
    ∃ t, exec (.ccCommit w n v) s = .next t ∧ t.sp = ⟨true, 0⟩ ∧
      t.chan n = { s.chan n with state := 2, count := bits v.toNat 16 5, lease := {} } ∧ (∀ k, k ≠ n.val → t.chan k = s.chan k) ∧
      Kept (portCounts ++ [PC_CNT_LO_COUNT 836, PC_CNT_HI_COUNT 836, PC_OVF_OVF 26]) s.settleBeats t) ∧
  (∀ w n v s, s.serves w (ccOff n + 0x48) 4 = true → (s.chan n).state = 2 → s.isConsumer n w.master = true →
    bits v.toNat 0 4 ≤ 8 → bits v.toNat 4 5 ≤ 16 → bits v.toNat 9 23 = 0 →
    ∃ t, exec (.ccDone w n v) s = .next t ∧ t.sp = ⟨true, 0⟩ ∧ (t.chan n).state = 3 ∧ (t.chan n).owner = (s.chan n).owner ∧
      (t.chan n).token = (s.chan n).token ∧ (t.chan n).lease = s.freshLease (s.chan n).owner ∧
      t.rd (CC_RESULT_STATUS n) = bits v.toNat 0 4 ∧ t.rd (CC_RESULT_RCOUNT n) = bits v.toNat 4 5 ∧
      (∀ k, k ≠ n.val → t.chan k = s.chan k) ∧ Kept ([CC_RESULT_STATUS n, CC_RESULT_RCOUNT n] ++ portCounts) s.settleBeats t) ∧
  (∀ w n v s, s.serves w (ccOff n + 0x4C) 4 = true → (s.chan n).state = 1 ∨ (s.chan n).state = 3 → (s.chan n).owner = w.master →
    v.toNat % 2 ^ 16 = (s.chan n).token →
    ∃ t, exec (.ccRelease w n v) s = .next t ∧ t.sp = ⟨true, 0⟩ ∧ t.chan n = { token := (s.chan n).token } ∧
      (∀ i : Fin 16, t.rd (CC_W_WORD n i) = 0) ∧ (∀ k, k ≠ n.val → t.chan k = s.chan k) ∧
      Kept ((List.range 16).map (CC_W_WORD n) ++ portCounts) s.settleBeats t) ∧
  (∀ w n i v s, s.serves w (ccOff n + 4 * i) 4 = true →
    ∃ t, exec (.ccWordWrite w n i v) s = .next t ∧ t.sp = ⟨true, 0⟩ ∧ t.cc = s.cc ∧
      (if s.wordOpen n w.master = true
        then t.rd (CC_W_WORD n i) = v.toNat ∧ Kept (CC_W_WORD n i :: portCounts) s.settleBeats t
        else t.rd CC_REJ_COUNT = upBy s CC_REJ_COUNT 1 ∧ t.is CC_EVT_REJ = true ∧
          Kept ([CC_REJ_COUNT, CC_EVT_REJ] ++ portCounts) s.settleBeats t)) ∧
  (∀ w n v s, s.serves w (ccOff n + 0x44) 4 = true → (s.chan n).state ≠ 1 ∨ (s.chan n).owner ≠ w.master ∨
    bits v.toNat 0 16 ≠ (s.chan n).token ∨ bits v.toNat 16 5 < 1 ∨ 16 < bits v.toNat 16 5 ∨ bits v.toNat 21 11 ≠ 0 ∨ s.hasConsumer n = false →
    ∃ t, exec (.ccCommit w n v) s = .next t ∧ t.sp = ⟨true, 0⟩ ∧ t.cc = s.cc ∧
      t.rd CC_REJ_COUNT = upBy s CC_REJ_COUNT 1 ∧ t.is CC_EVT_REJ = true ∧ Kept ([CC_REJ_COUNT, CC_EVT_REJ] ++ portCounts) s.settleBeats t) ∧
  (∀ w n v s, s.serves w (ccOff n + 0x48) 4 = true → (s.chan n).state ≠ 2 ∨ s.isConsumer n w.master = false ∨
    8 < bits v.toNat 0 4 ∨ 16 < bits v.toNat 4 5 ∨ bits v.toNat 9 23 ≠ 0 →
    ∃ t, exec (.ccDone w n v) s = .next t ∧ t.sp = ⟨true, 0⟩ ∧ t.cc = s.cc ∧
      t.rd CC_REJ_COUNT = upBy s CC_REJ_COUNT 1 ∧ t.is CC_EVT_REJ = true ∧ Kept ([CC_REJ_COUNT, CC_EVT_REJ] ++ portCounts) s.settleBeats t) ∧
  (∀ w n v s, s.serves w (ccOff n + 0x4C) 4 = true → ((s.chan n).state ≠ 1 ∧ (s.chan n).state ≠ 3) ∨
    (s.chan n).owner ≠ w.master ∨ v.toNat % 2 ^ 16 ≠ (s.chan n).token →
    ∃ t, exec (.ccRelease w n v) s = .next t ∧ t.sp = ⟨true, 0⟩ ∧ t.cc = s.cc ∧
      t.rd CC_REJ_COUNT = upBy s CC_REJ_COUNT 1 ∧ t.is CC_EVT_REJ = true ∧ Kept ([CC_REJ_COUNT, CC_EVT_REJ] ++ portCounts) s.settleBeats t) ∧
  (∀ w n s, s.serves w 0x140008 4 = true → (s.chan n).state ≠ 0 →
    ∃ t, exec (.ccBreak w n) s = .next t ∧ t.sp = ⟨true, 0⟩ ∧ t.chan n = { token := (s.chan n).token } ∧
      (∀ i : Fin 16, t.rd (CC_W_WORD n i) = 0) ∧ t.rd CC_EXP_CNT_BRK = upBy s CC_EXP_CNT_BRK 1 ∧ t.is CC_EVT_BREAK = true ∧
      (∀ k, k ≠ n.val → t.chan k = s.chan k)) ∧
  (∀ w n s, s.serves w 0x140008 4 = true → (s.chan n).state = 0 →
    ∃ t, exec (.ccBreak w n) s = .next t ∧ t.sp = ⟨true, 0⟩ ∧ t.cc = s.cc ∧
      t.rd CC_REJ_COUNT = upBy s CC_REJ_COUNT 1 ∧ t.is CC_EVT_REJ = true ∧ Kept ([CC_REJ_COUNT, CC_EVT_REJ] ++ portCounts) s.settleBeats t)

/-- A halt input and a debugger's stop of the Nyelle core stand in the state, and every lease and want follows its master (R281, R289,
R294), the debugger's where the hasp has granted it (R405): a lease whose owner is now halted does not count, one whose owner is not does; a
lease that runs out frees its channel, and a want that has aged ends. The cycle detector (R295, R296): a walk takes the next walk-pending
master off the list; where it comes back to that master the cycle is counted, and the first one since `TB_EVT.CYCLE` was cleared is
described; no lock changes. The time at which a timed command leaves the clock is the model's choice (log entry 2). What log entry 13
chooses is the model's choice. Completes: leaseExpiry, haltInputChange, wantExpiry, coreDebugHalt, cycleWalk. -/
def Obligations.HaltsAndCycleWalks : Prop :=
  (∀ (i : Fin 64) (high : Bool) s, ∃ t, exec (.haltInputChange i high) s = .next t ∧ t.cc.halt.getLsbD i = high ∧
    (∀ k : Fin 64, k ≠ i → t.cc.halt.getLsbD k = s.cc.halt.getLsbD k) ∧ t.cc.locks = s.cc.locks ∧ t.flds = s.flds ∧
    (∀ e ∈ t.cc.chans, e.2.state = 1 ∨ e.2.state = 3 → (t.halted e.2.owner = true ↔ e.2.lease.since = none)) ∧
    (∀ e ∈ t.cc.wants, (t.halted e.1 = true ↔ e.2.age.since = none))) ∧
  (∀ (stopped : Bool) s, s.is KW_HASP_GNT = true → ∃ t, exec (.coreDebugHalt stopped) s = .next t ∧ t.is NY_STAT_HALTED = stopped ∧
    t.halted 256 = stopped ∧ (stopped = true → t.ny.wdt.since = none) ∧ Kept [NY_STAT_HALTED] s t ∧
    (∀ e ∈ t.cc.wants, (t.halted e.1 = true ↔ e.2.age.since = none))) ∧
  (∀ n s, (s.chan n).state = 1 ∨ (s.chan n).state = 3 → (s.chan n).lease.since.isSome = true → s.islandUp 8 = true →
    ∃ t, exec (.leaseExpiry n) s = .next t ∧ t.chan n = { token := (s.chan n).token } ∧ (∀ i : Fin 16, t.rd (CC_W_WORD n i) = 0) ∧
      t.rd CC_EXP_CNT_EXP = upBy s CC_EXP_CNT_EXP 1 ∧ t.is CC_EVT_LEASE_EXP = true ∧
      t.tm.tick = s.tm.tick + ((s.chan n).lease.ends (usTicks (s.chan n).limit) - s.mgNow)) ∧
  (∀ m x s, optGet s.cc.wants m.val = some x → x.age.since.isSome = true → s.islandUp 8 = true →
    ∃ t, exec (.wantExpiry m) s = .next t ∧ t.cc = { s.cc with wants := mapErase m.val s.cc.wants } ∧
      t.tm.tick = s.tm.tick + (x.age.ends (usTicks (s.rd TB_CTRL_WANT_US)) - s.mgNow)) ∧
  (∀ s, s.nextWalk = none ∨ s.islandUp 8 = false → exec .cycleWalk s = .next s) ∧
  (∀ s m, s.nextWalk = some m → s.islandUp 8 = true → ∃ t, exec .cycleWalk s = .next t ∧ t.cc.walks = s.cc.walks.filter (· != m) ∧ t.cc.last = m ∧
    t.cc.locks = s.cc.locks ∧ t.cc.wants = s.cc.wants ∧ t.cc.chans = s.cc.chans ∧
    match s.walk m 257 m [] with
    | none => t.flds = s.flds
    | some l => t.rd TB_CYC_CNT_CYC = upBy s TB_CYC_CNT_CYC 1 ∧ t.is TB_EVT_CYCLE = true ∧
        (s.is TB_EVT_CYCLE = true → Kept [TB_CYC_CNT_CYC] s t) ∧
        (s.is TB_EVT_CYCLE = false → t.rd TB_CYC_START = m % 2 ^ 9 ∧ t.rd TB_CYC_LEN = l.length % 2 ^ 10 ∧
          (optGet s.cc.wants m).map (fun w => w.lock % 2 ^ TB_CYC_LOCK.w) = some (t.rd TB_CYC_LOCK) ∧
          (∀ w : Fin 9, ∀ i : Fin 32, (t.bit (TB_CYC_MASK_MASK w) i = true ↔ l.contains (32 * w.val + i.val) = true)))) ∧
  (∀ (stopped : Bool) s, s.is KW_HASP_GNT = false → exec (.coreDebugHalt stopped) s = .next s)

/-- Locks of the Tumbler bank (R291 to R294): an acquire of a free lock takes it with the next token and ends the master's want, an acquire
of a held lock records the want and asks for a walk; release and force free it, and the other locks stay. Completes: tbAcq, tbRel, tbForce,
tbUnwant. -/
def Obligations.TumblerLocks : Prop :=
  (∀ w l s, s.serves w (tbOff l) 4 = true → (s.lock l).held = false →
    ∃ t, exec (.tbAcq w l) s = .next t ∧ (t.lock l).held = true ∧ (t.lock l).holder = w.master ∧
      (t.lock l).token = (if (s.lock l).token ≥ 0xFFFF then 1 else (s.lock l).token + 1) ∧
      t.sp = ⟨true, 2 ^ 31 + 2 ^ 16 * w.master + (t.lock l).token⟩ ∧ (∀ k, k ≠ l.val → t.lock k = s.lock k) ∧
      t.cc.wants = mapErase w.master s.cc.wants ∧ t.cc.chans = s.cc.chans) ∧
  (∀ w l s, s.serves w (tbOff l) 4 = true → (s.lock l).held = true →
    ∃ t, exec (.tbAcq w l) s = .next t ∧ t.cc.locks = s.cc.locks ∧ t.sp = ⟨true, 2 ^ 16 * (s.lock l).holder + 2 ^ 28 * b2n (s.halted (s.lock l).holder) + 2 ^ 30⟩ ∧ t.cc.walks.contains w.master = true ∧
      (optGet t.cc.wants w.master).map (·.lock) = some l.val ∧ t.cc.chans = s.cc.chans) ∧
  (∀ w l v s, s.serves w (tbOff l + 4) 4 = true →
    ∃ t, exec (.tbRel w l v) s = .next t ∧ t.sp = ⟨true, 0⟩ ∧
      (if (s.lock l).held = true ∧ (s.lock l).holder = w.master ∧ v.toNat % 2 ^ 16 = (s.lock l).token
        then t.lock l = ⟨false, 0, (s.lock l).token⟩ ∧ (∀ k, k ≠ l.val → t.lock k = s.lock k) ∧ Kept portCounts s.settleBeats t
        else t.cc = s.cc ∧ t.rd TB_REJ_COUNT = upBy s TB_REJ_COUNT 1 ∧ Kept (TB_REJ_COUNT :: portCounts) s.settleBeats t)) ∧
  (∀ w l s, s.serves w 0x141008 4 = true →
    ∃ t, exec (.tbForce w l) s = .next t ∧ t.sp = ⟨true, 0⟩ ∧
      (if (s.lock l).held = true
        then t.lock l = ⟨false, 0, (s.lock l).token⟩ ∧ t.rd TB_CYC_CNT_FORCE = upBy s TB_CYC_CNT_FORCE 1 ∧ t.is TB_EVT_FORCED = true
        else t.cc = s.cc ∧ t.rd TB_REJ_COUNT = upBy s TB_REJ_COUNT 1)) ∧
  (∀ w l s, s.serves w (tbOff l + 0xC) 4 = true →
    ∃ t, exec (.tbUnwant w l) s = .next t ∧ t.sp = ⟨true, 0⟩ ∧ t.cc.locks = s.cc.locks ∧ Kept portCounts s.settleBeats t ∧
      t.cc.wants = (if (optGet s.cc.wants w.master).map (·.lock) = some l.val then mapErase w.master s.cc.wants else s.cc.wants))

/-- Sources of the signal hub: a level source follows its origin while it is not active, a write of `HB_SW_SET` makes an edge source that
can pend pending and refuses any other, and a change of `HB_AWAKE` stands in the state; a hold-off ends, and a source whose target sleeps on
is redirected (R333, R335, R336, R344, R346, R347). A claim by target `t` (R337, R338, R344): with nothing active on `t` the lowest
deliverable source of `t`, one that re-fired first, becomes active and the answer carries its number and bit 31; a claim that its reader
never got leaves it pending again; a target that holds an active source is answered with that source and bit 30, and nothing changes. What
the Nyelle core claims stays claimed until it has taken it or its island is reset. The time at which a timed command leaves the clock is the
model's choice (log entry 2). What log entries 42, 43 choose is the model's choice. Completes: sourceLevelChange, hbSwSet, hbClaim,
holdoffGroupExpiry, targetAwakeChange, redirectTimeout. -/
def Obligations.HubSourcesAndClaims : Prop :=
  (∀ n s, isLevel n.val = true → s.canPend n.val = true → s.islandUp 8 = true →
    ∃ t, exec (.sourceLevelChange n) s = .next t ∧ (t.src n).level = s.originLevel n ∧
      (t.src n).pending = (if (s.src n).active then (s.src n).pending else s.originLevel n) ∧
      (t.src n).active = (s.src n).active ∧ (∀ k, k ≠ n.val → t.src k = s.src k)) ∧
  (∀ n s, isLevel n.val = false ∨ s.canPend n.val = false ∨ s.islandUp 8 = false → exec (.sourceLevelChange n) s = .next s) ∧
  (∀ w v s, s.serves w 0x180014 4 = true →
    ∃ t, exec (.hbSwSet w v) s = .next t ∧ t.sp = ⟨true, 0⟩ ∧
      (if isEdge (v.toNat % 4096) = true ∧ s.canPend (v.toNat % 4096) = true
        then (t.src (v.toNat % 4096)).pending = true ∧ (∀ k, k ≠ v.toNat % 4096 → t.src k = s.src k)
        else t.hub = s.hub ∧ t.rd HB_CFG_REJ_COUNT = upBy s HB_CFG_REJ_COUNT 1 ∧ t.is HB_EVT_CFG_REJ = true)) ∧
  (∀ (k : Fin 64) (high : Bool) s, ∃ t, exec (.targetAwakeChange k high) s = .next t ∧ t.hub.awake.getLsbD k = high ∧
    (∀ j : Fin 64, j ≠ k → t.hub.awake.getLsbD j = s.hub.awake.getLsbD j) ∧ t.hub.srcs = s.hub.srcs ∧ t.flds = s.flds) ∧
  (∀ g x s, optGet s.hub.hold g.val = some x → s.islandUp 8 = true →
    ∃ t, exec (.holdoffGroupExpiry g) s = .next t ∧ t.hub.hold = mapErase g.val s.hub.hold ∧ t.hub.srcs = s.hub.srcs ∧
      t.tm.tick = s.tm.tick + (x - s.mgNow)) ∧
  (∀ (n : Fin 2560) x s, s.redirectRuns n = true → optGet s.hub.redirs n = some x → s.islandUp 8 = true →
    ∃ t, exec (.redirectTimeout n) s = .next t ∧ (t.src n).redir = true ∧ (t.src n).fb = s.sdField (0x300 + 4 * s.target n) 0 7 ∧
      (∀ k, k ≠ n.val → t.src k = s.src k) ∧ t.rd HB_REDIR_CNT_COUNT = upBy s HB_REDIR_CNT_COUNT 1 ∧ t.is HB_EVT_REDIRECT = true ∧
      t.tm.tick = s.tm.tick + (x + usTicks (s.rd HB_CTRL_REDIRECT_US) - s.mgNow)) ∧
  (∀ w (g : Fin 65) n s, s.serves w (0x188000 + 0x20 * g) 4 = true → s.is HB_CTRL_DISABLE = false → s.held g = none →
    s.claimed g = some n → n < 4096 →
    ∃ t, exec (.hbClaim w g .accepted) s = .next t ∧ t.sp = ⟨true, n + 2 ^ 29 * b2n (s.src n).redir + 2 ^ 31⟩ ∧
      (t.src n).active = true ∧ (t.src n).pending = false ∧ (t.src n).holder = g.val ∧ (∀ k, k ≠ n → t.src k = s.src k) ∧
      (s.rd (HB_GRP_CFG_HOLD_US (n / 16)) ≠ 0 →
        optGet t.hub.hold (n / 16) = some (s.mgNow + usTicks (s.rd (HB_GRP_CFG_HOLD_US (n / 16)))))) ∧
  (∀ w (g : Fin 65) n s, s.serves w (0x188000 + 0x20 * g) 4 = true → s.is HB_CTRL_DISABLE = false → s.held g = none →
    s.claimed g = some n → n < 4096 → w.master ≠ 256 → isEdge n = true ∨ (s.src n).level = true →
    ∃ t, exec (.hbClaim w g .failed) s = .next t ∧ t.sp = ⟨false, 0⟩ ∧ (t.src n).active = false ∧ (t.src n).pending = true ∧
      (t.src n).preced = (s.src n).preced ∧ (∀ k, k ≠ n → t.src k = s.src k)) ∧
  (∀ w (g : Fin 65) n s, s.serves w (0x188000 + 0x20 * g) 4 = true → w.master ≠ 256 → s.is HB_CTRL_DISABLE = false →
    s.held g = some n → n < 4096 →
    ∃ t, exec (.hbClaim w g .accepted) s = .next t ∧ t.sp = ⟨true, n + 2 ^ 29 * b2n (s.src n).redir + 2 ^ 30⟩ ∧ t.hub = s.hub ∧
      Kept portCounts s.settleBeats t) ∧
  (∀ w (g : Fin 65) s, s.serves w (0x188000 + 0x20 * g) 4 = true → w.master ≠ 256 →
    s.is HB_CTRL_DISABLE = true ∨ s.held g = none ∧ s.claimed g = none →
    ∃ t, exec (.hbClaim w g .accepted) s = .next t ∧ t.sp = ⟨true, 0⟩ ∧ t.hub = s.hub ∧ Kept portCounts s.settleBeats t) ∧
  (∀ w (g : Fin 65) n s, s.serves w (0x188000 + 0x20 * g) 4 = true → w.master = 256 → s.is HB_CTRL_DISABLE = false → s.held g = none →
    s.claimed g = some n → n < 4096 → ∀ k ∈ [Taken.failed, .held],
    ∃ t, exec (.hbClaim w g k) s = .next t ∧ t.sp = ⟨true, n + 2 ^ 29 * b2n (s.src n).redir + 2 ^ 31⟩ ∧ (t.src n).active = true ∧
      (t.src n).holder = g.val ∧ t.hub.coreClaim = some (g.val, n, (s.src n).preced))

/-- Completions and configuration (R335, R339, R340, R342, R343, R345): a completion by the holder ends the activity, and any other is
ignored, counted and reported; `HB_SRC_CFG` keeps its fields for a wired target and refuses others, and `HB_CTRL` takes what is written.
Completes: hbComplete, hbSrcCfgWrite, hbDisableWrite. -/
def Obligations.HubCompletionsAndConfiguration : Prop :=
  (∀ w (g : Fin 65) v s, s.serves w (0x188004 + 0x20 * g) 4 = true → v.toNat < 4096 → (s.src v.toNat).active = true →
    (s.src v.toNat).holder = g.val →
    ∃ t, exec (.hbComplete w g v) s = .next t ∧ t.sp = ⟨true, 0⟩ ∧ (t.src v.toNat).active = false ∧ (t.src v.toNat).redir = false ∧
      (isEdge v.toNat = true → (t.src v.toNat).pending = (s.src v.toNat).pending) ∧ (∀ k, k ≠ v.toNat → t.src k = s.src k) ∧
      t.hub.hold = s.hub.hold ∧ Kept portCounts s.settleBeats t) ∧
  (∀ w (g : Fin 65) v s, s.serves w (0x188004 + 0x20 * g) 4 = true →
    4096 ≤ v.toNat ∨ (s.src (v.toNat % 4096)).active = false ∨ (s.src (v.toNat % 4096)).holder ≠ g.val →
    ∃ t, exec (.hbComplete w g v) s = .next t ∧ t.sp = ⟨true, 0⟩ ∧ t.hub = s.hub ∧ t.rd HB_IGN_CNT_COUNT = upBy s HB_IGN_CNT_COUNT 1 ∧
      t.is HB_EVT_IGNORED = true ∧ Kept ([HB_IGN_CNT_COUNT, HB_EVT_IGNORED] ++ portCounts) s.settleBeats t) ∧
  (∀ w (n : Fin 2560) v s, s.serves w (0x184000 + 4 * n) 4 = true → n.val < 512 → isEdge n.val = true ∨ isLevel n.val = true →
    ∃ t, exec (.hbSrcCfgWrite w n v) s = .next t ∧ t.sp = ⟨true, 0⟩ ∧
      (if s.wired (bits v.toNat 8 7) = true
        then t.rd (HB_SRC_CFG_EN n) = bitN v.toNat 0 ∧ t.rd (HB_SRC_CFG_TARGET n) = bits v.toNat 8 7 ∧
          Kept ([HB_SRC_CFG_EN n, HB_SRC_CFG_TARGET n] ++ portCounts) s.settleBeats t
        else t.hub = s.hub ∧ t.rd HB_CFG_REJ_COUNT = upBy s HB_CFG_REJ_COUNT 1 ∧ t.is HB_EVT_CFG_REJ = true)) ∧
  (∀ w v s, s.serves w 0x180000 4 = true →
    ∃ t, exec (.hbDisableWrite w v) s = .next t ∧ t.sp = ⟨true, 0⟩ ∧ t.rd HB_CTRL_DISABLE = bitN v.toNat 0 ∧
      t.rd HB_CTRL_REDIRECT_US = bits v.toNat 16 16 ∧ t.hub.srcs = s.hub.srcs ∧
      Kept ([HB_CTRL_DISABLE, HB_CTRL_REDIRECT_US] ++ portCounts) s.settleBeats t)

/-- Check units (R359, R361): `ARM` in `IDLE` with a valid end mode makes a unit wait, or run on from its present value with `KEEP`; any
other `ARM` is refused and counted; `DISARM` makes it `IDLE`. ECC errors of the SRAMs, the machine timer and the droop monitors (R363, R365,
R370). Completes: cuArm, cuDisarm, sramEccError, droopEpisode, machineTimer. -/
def Obligations.CheckUnitsAndMonitors : Prop :=
  (∀ w (u : Fin 16) (keep : Bool) s, s.serves w (0x1C8004 + 64 * u) 4 = true →
    ∃ t, exec (.cuArm w u keep) s = .next t ∧ t.sp = ⟨true, 0⟩ ∧
      (if s.cuState u ≠ 0 ∨ s.rd (CU_CFG_END_MODE u) = 3 ∨ s.rd (CU_CFG_END_MODE u) = 1 ∧ s.rd (CU_COUNT_COUNT u) = 0
        then t.cu = s.cu ∧ t.rd CU_CFG_REJ_COUNT = upBy s CU_CFG_REJ_COUNT 1 ∧ Kept (CU_CFG_REJ_COUNT :: portCounts) s.settleBeats t
        else t.cuState u = (if keep then 2 else 1) ∧ t.cuMore u = {} ∧ (∀ k, k ≠ u.val → t.cuMore k = s.cuMore k) ∧
          Kept (CU_STAT_STATE u :: portCounts) s.settleBeats t)) ∧
  (∀ w (u : Fin 16) s, s.serves w (0x1C8004 + 64 * u) 4 = true →
    ∃ t, exec (.cuDisarm w u) s = .next t ∧ t.sp = ⟨true, 0⟩ ∧ t.cuState u = 0 ∧ t.cuMore u = {} ∧
      (∀ k, k ≠ u.val → t.cuMore k = s.cuMore k) ∧ Kept (CU_STAT_STATE u :: portCounts) s.settleBeats t) ∧
  (∀ k x e pc b s, s.islandUp 8 = true → ∃ t, exec (.sramEccError false k x e pc b) s = .next t ∧ t.rd NY_ECC_CORR = upBy s NY_ECC_CORR 1 ∧
    Kept [NY_ECC_CORR] s t) ∧
  (∀ k x pc b s, s.islandUp 8 = true → ∃ t, exec (.sramEccError true k x .load pc b) s = .next t ∧ t.rd NY_ECC_UNC = upBy s NY_ECC_UNC 1 ∧
    t.rd NY_ECC_ADDR_ADDR = x.toNat ∧ t.is NY_EVT_ECC_UNC = true ∧ Kept [NY_ECC_UNC, NY_ECC_ADDR_ADDR, NY_EVT_ECC_UNC, NY_LOG_LOST_LOST] s t) ∧
  (∀ k x (ch : Fin 8) pc b s, s.islandUp 8 = true → ∃ t, exec (.sramEccError true k x (.dma ch) pc b) s = .next t ∧ (t.mdCh ch).poison = true ∧
    (∀ j, j ≠ ch.val → t.mdCh j = s.mdCh j) ∧ t.rd NY_ECC_UNC = upBy s NY_ECC_UNC 1) ∧
  (∀ s, s.mtip = true → exec .machineTimer s = .next { s with ny := { s.ny with timerIrq := true } }) ∧
  (∀ s, s.mtip = false → s.sys.aonRstN = true → s.rd PW_STAT_STATE ≠ 4 → s.tm.sub25 < 64 →
    s.rd64 NY_MTIMECMP_LO_CMP NY_MTIMECMP_HI_CMP < 2 ^ 64 →
    ∃ t, exec .machineTimer s = .next t ∧ t.mtip = true ∧ t.ny.timerIrq = true ∧
      t.rd64 NY_MTIME_LO_MTIME NY_MTIME_HI_MTIME = s.rd64 NY_MTIMECMP_LO_CMP NY_MTIMECMP_HI_CMP) ∧
  (∀ (i : Fin 12) mv s, s.islandUp 8 = true → ∃ t, exec (.droopEpisode i mv) s = .next t ∧ t.rd (NY_DROOP_MV i) = mv.toNat ∧
    (if mv.toNat < s.rd (NY_DROOP_THR i)
      then t.rd (NY_DROOP_CNT_COUNT i) = upBy s (NY_DROOP_CNT_COUNT i) 1 ∧ t.is NY_EVT_DROOP = true
      else Kept [NY_DROOP_MV i] s t))

/-- Management DMA control (R357, R358): `START` of a channel that is not running reads its first descriptor; a `START` of a running channel
and an `ABORT` of one that does not run are refused and counted; an `ABORT` with an access outstanding stops the channel and waits for it; a
stopping channel with everything answered halts. Management DMA accesses (R351, R355 to R357, R364): a descriptor in space 2 or 3 stops the
channel, one that lies in the SRAM and is well formed becomes the current one and its first access goes out; a write to the SRAM stores its
bytes at its address and no other byte, and so does a write-back to the SRAM. What log entry 81 chooses is the model's choice. Completes:
mdStart, mdAbort, mdDescriptorRead, mdDataResponse, mdWritebackResponse, mdStoppingDone. -/
def Obligations.ManagementDma : Prop :=
  (∀ w (ch : Fin 8) s, s.serves w (0x1C0108 + 64 * ch) 4 = true → s.mdState ch ≠ 1 → s.mdState ch ≠ 2 →
    ∃ t, exec (.mdStart w ch) s = .next t ∧ t.sp = ⟨true, 0⟩ ∧ t.mdState ch = 1 ∧ t.rd (MD_CH_STAT_HOPS ch) = 0 ∧
      t.mdCh ch = { phase := 1 } ∧ t.rd (MD_CH_CUR_LO_ADDR_LO ch) = s.rd (MD_CH_DESC_LO_ADDR_LO ch) % 2 ^ 27 ∧
      (∀ k, k ≠ ch.val → t.mdCh k = s.mdCh k)) ∧
  (∀ w (ch : Fin 8) s, s.serves w (0x1C0108 + 64 * ch) 4 = true → s.mdState ch = 1 ∨ s.mdState ch = 2 →
    ∃ t, exec (.mdStart w ch) s = .next t ∧ t.sp = ⟨true, 0⟩ ∧ t.md = s.md ∧ t.rd MD_CFG_REJ_COUNT = upBy s MD_CFG_REJ_COUNT 1 ∧
      Kept (MD_CFG_REJ_COUNT :: portCounts) s.settleBeats t) ∧
  (∀ w (ch : Fin 8) s, s.serves w (0x1C0108 + 64 * ch) 4 = true → s.mdState ch = 1 →
    (s.mdCh ch).phase ≠ 2 ∨ (s.mdCh ch).acc.isSome = true →
    ∃ t, exec (.mdAbort w ch) s = .next t ∧ t.sp = ⟨true, 0⟩ ∧ t.mdState ch = 2 ∧ t.rd (MD_CH_STAT_REASON ch) = 6 ∧ t.md = s.md ∧
      Kept ([MD_CH_STAT_STATE ch, MD_CH_STAT_REASON ch] ++ portCounts) s.settleBeats t) ∧
  (∀ w (ch : Fin 8) s, s.serves w (0x1C0108 + 64 * ch) 4 = true → s.mdState ch ≠ 1 →
    ∃ t, exec (.mdAbort w ch) s = .next t ∧ t.sp = ⟨true, 0⟩ ∧ t.md = s.md ∧ t.rd MD_CFG_REJ_COUNT = upBy s MD_CFG_REJ_COUNT 1 ∧
      Kept (MD_CFG_REJ_COUNT :: portCounts) s.settleBeats t) ∧
  (∀ (ch : Fin 8) s, s.mdState ch = 2 → (s.mdCh ch).phase = 0 → s.islandUp 8 = true →
    ∃ t, exec (.mdStoppingDone ch) s = .next t ∧ t.mdState ch = 3 ∧ t.bit MD_EVT_HALT ch = true ∧ t.mdCh ch = {} ∧
      (∀ k, k ≠ ch.val → t.mdCh k = s.mdCh k) ∧ Kept [MD_CH_STAT_STATE ch, MD_EVT_HALT, NY_BG_DL_RAISED 2] s t) ∧
  (∀ (ch : Fin 8) s, (s.mdCh ch).phase = 1 → s.islandUp 8 = true → s.mdState ch = 1 → 2 ≤ s.mdCurSpace ch →
    ∃ t, exec (.mdDescriptorRead ch) s = .next t ∧ t.mdState ch = 2 ∧ t.rd (MD_CH_STAT_REASON ch) = 4 ∧ t.mdCh ch = {} ∧
      Kept [MD_CH_STAT_STATE ch, MD_CH_STAT_REASON ch] s t) ∧
  (∀ (ch : Fin 8) s, (s.mdCh ch).phase = 1 → s.islandUp 8 = true → s.mdState ch = 1 → s.mdCurSpace ch = 1 →
    s.mdCur ch + 32 ≤ 0x40000 → (s.mdCh ch).poison = false → mdMalformed (s.sramRead (s.mdCur ch) 32) = false →
    ∃ t, exec (.mdDescriptorRead ch) s = .next t ∧ (t.mdCh ch).desc = s.sramRead (s.mdCur ch) 32 ∧ (t.mdCh ch).phase = 2 ∧
      (t.mdCh ch).acc.isSome = true) ∧
  (∀ (ch : Fin 8) x s, (s.mdCh ch).phase = 2 → (s.mdCh ch).acc = some x → s.islandUp 8 = true → x.space = 1 → x.write = true →
    ∃ t, exec (.mdDataResponse ch) s = .next t ∧
      (∀ i, i < x.data.length → t.sramRead (x.addr + i) 1 = [x.data.getD i 0]) ∧
      (∀ b, b < x.addr ∨ x.addr + x.data.length ≤ b → t.sramRead b 1 = s.sramRead b 1)) ∧
  (∀ (ch : Fin 8) x s, (s.mdCh ch).phase = 3 → (s.mdCh ch).acc = some x → s.islandUp 8 = true → x.space = 1 →
    ∃ t, exec (.mdWritebackResponse ch) s = .next t ∧
      (∀ i, i < x.data.length → t.sramRead (x.addr + i) 1 = [x.data.getD i 0]) ∧
      (∀ b, b < x.addr ∨ x.addr + x.data.length ≤ b → t.sramRead b 1 = s.sramRead b 1))

/-- Store transfers (R386, R387): the Nyelle core's `GO` in range, with no transfer busy, starts the transfer; a program that leaves its
page ends `BADARG`; any other master's `GO` is refused and counted, and so is a program's or an erase's while the store is read-only (R388).
What a finished transfer leaves (R386): a read puts the flash's bytes at its SRAM offset and changes no other byte, a status read keeps the
status byte, a program or an erase goes on while the flash is busy, ends by its limit, and what it left is compared or is blank or not; an
update is started once and ends with the firmware's status, unless the hasp has opened or the store is read-only for it (R388, R396, R397,
R406). What log entries 9, 49, 115, 136, 137 choose is the model's choice. Completes: storeRead, storeProgram, storeErase, storeReadStatus,
storeXferDone, updateGo, updateResult. -/
def Obligations.StoreTransfersAndUpdates : Prop :=
  (∀ w len s, s.serves w 0x1E1018 4 = true → w.master = 256 → s.is ST_XFER_STAT_BUSY = false → 1 ≤ len.toNat → len.toNat ≤ 4096 →
    s.rd ST_XFER_SRAM_OFF + len.toNat ≤ 0x40000 →
    ∃ t, exec (.storeRead w len) s = .next t ∧ t.sp = ⟨true, 0⟩ ∧ t.is ST_XFER_STAT_BUSY = true ∧
      t.kw = { s.kw with xfer := some ⟨1, s.rd ST_XFER_ADDR_ADDR, s.rd ST_XFER_SRAM_OFF, len.toNat, s.mgNow⟩ }) ∧
  (∀ w len s, s.serves w 0x1E1018 4 = true → w.master = 256 → s.is ST_XFER_STAT_BUSY = false → 1 ≤ len.toNat →
    s.rd ST_XFER_SRAM_OFF + len.toNat ≤ 0x40000 → s.rd ST_XFER_ADDR_ADDR % 256 + len.toNat ≤ 256 → s.stReadOnly = false →
    ∃ t, exec (.storeProgram w len) s = .next t ∧ t.sp = ⟨true, 0⟩ ∧ t.is ST_XFER_STAT_BUSY = true ∧
      t.kw = { s.kw with xfer := some ⟨2, s.rd ST_XFER_ADDR_ADDR, s.rd ST_XFER_SRAM_OFF, len.toNat, s.mgNow⟩ }) ∧
  (∀ w len s, s.serves w 0x1E1018 4 = true → w.master = 256 → s.is ST_XFER_STAT_BUSY = false → 1 ≤ len.toNat → len.toNat ≤ 256 →
    256 < s.rd ST_XFER_ADDR_ADDR % 256 + len.toNat → s.stReadOnly = false →
    ∃ t, exec (.storeProgram w len) s = .next t ∧ t.is ST_XFER_STAT_BUSY = false ∧ t.rd ST_XFER_STAT_RESULT = 2 ∧
      t.is ST_EVT_XFER_DONE = true ∧ t.is ST_EVT_XFER_ERR = true ∧ t.kw = { s.kw with xfer := none }) ∧
  (∀ w s, s.serves w 0x1E1018 4 = true → w.master = 256 → s.is ST_XFER_STAT_BUSY = false →
    (s.stReadOnly = false → ∃ t, exec (.storeErase w) s = .next t ∧ t.sp = ⟨true, 0⟩ ∧ t.is ST_XFER_STAT_BUSY = true ∧
      t.kw = { s.kw with xfer := some ⟨3, s.rd ST_XFER_ADDR_ADDR, s.rd ST_XFER_SRAM_OFF, 0, s.mgNow⟩ }) ∧
    (∃ t, exec (.storeReadStatus w) s = .next t ∧ t.sp = ⟨true, 0⟩ ∧ t.is ST_XFER_STAT_BUSY = true ∧
      t.kw = { s.kw with xfer := some ⟨4, s.rd ST_XFER_ADDR_ADDR, s.rd ST_XFER_SRAM_OFF, 0, s.mgNow⟩ })) ∧
  (∀ w len s, s.serves w 0x1E1018 4 = true → w.master ≠ 256 →
    ∃ t, exec (.storeRead w len) s = .next t ∧ t.sp = ⟨true, 0⟩ ∧ t.kw = s.kw ∧ t.rd ST_REJ_COUNT = upBy s ST_REJ_COUNT 1 ∧
      Kept (ST_REJ_COUNT :: portCounts) s.settleBeats t) ∧
  (∀ a s, s.kw.xfer = none ∨ s.islandUp 8 = false → exec (.storeXferDone a) s = .next s) ∧
  (∀ a addr off len since s, s.kw.xfer = some ⟨1, addr, off, len, since⟩ → s.islandUp 8 = true →
    ∃ t, exec (.storeXferDone a) s = .next t ∧ t.kw = { s.kw with xfer := none } ∧ t.is ST_XFER_STAT_BUSY = false ∧
      t.rd ST_XFER_STAT_RESULT = 0 ∧ t.is ST_EVT_XFER_DONE = true ∧
      (∀ i, i < len → t.sramRead (off + i) 1 = [a.data.getD i 0]) ∧
      (∀ b, b < off ∨ off + len ≤ b → t.sramRead b 1 = s.sramRead b 1)) ∧
  (∀ a addr off len since s, s.kw.xfer = some ⟨4, addr, off, len, since⟩ → s.islandUp 8 = true →
    ∃ t, exec (.storeXferDone a) s = .next t ∧ t.kw = { s.kw with xfer := none } ∧ t.rd ST_XFER_STAT_FLASH_SR = a.status.toNat ∧
      t.rd ST_XFER_STAT_RESULT = 0 ∧ t.is ST_EVT_XFER_DONE = true ∧ t.ny.sram = s.ny.sram) ∧
  (∀ a addr off len since s, let late := a.timeout = true ∨ since + 1600000 * s.rd ST_TMO_ERASE_MS < s.mgNow
    s.kw.xfer = some ⟨3, addr, off, len, since⟩ → s.islandUp 8 = true → late ∨ a.status.getLsbD 0 = false →
    ∃ t, exec (.storeXferDone a) s = .next t ∧ t.kw.xfer = none ∧ t.ny.sram = s.ny.sram ∧ t.is ST_XFER_STAT_BUSY = false ∧
      t.rd ST_XFER_STAT_RESULT = (if late then 6 else if a.data.length = s.sectorSize ∧ a.data.all (· == 0xFF) = true then 0 else 4)) ∧
  (∀ w kind s, s.serves w 0x1E103C 4 = true → s.is ST_UPD_STAT_BUSY = false →
    ∃ t, exec (.updateGo w kind) s = .next t ∧ t.sp = ⟨true, 0⟩ ∧ t.is ST_UPD_STAT_BUSY = true ∧ t.kw = { s.kw with mailbox := true }) ∧
  (∀ w kind s, s.serves w 0x1E103C 4 = true → s.is ST_UPD_STAT_BUSY = true →
    ∃ t, exec (.updateGo w kind) s = .next t ∧ t.sp = ⟨true, 0⟩ ∧ t.kw = s.kw ∧ t.rd ST_REJ_COUNT = upBy s ST_REJ_COUNT 1 ∧
      Kept (ST_REJ_COUNT :: portCounts) s.settleBeats t) ∧
  (∀ w v seq s, let bar := bits v.toNat 0 4 = 0 ∧ s.updBarred = true
    let st : Nat × Nat := if s.is KW_STAT_HASP_OPENED then (1, 5) else if bar then (1, 4) else (bits v.toNat 0 4, bits v.toNat 8 3)
    s.serves w 0x1E1048 4 = true → w.master = 256 →
    ∃ t, exec (.updateResult w v seq) s = .next t ∧ t.sp = ⟨true, 0⟩ ∧ t.kw = { s.kw with mailbox := false } ∧
      t.rd ST_UPD_STAT_STATUS = st.1 ∧ t.rd ST_UPD_STAT_DETAIL = st.2 ∧ t.rd ST_UPD_STAT_BANK = bitN v.toNat 12 ∧
      t.is ST_UPD_STAT_BUSY = false ∧ t.is ST_EVT_UPD_DONE = true ∧
      t.rd ST_UPD_SEQ_SEQ = (if st.1 = 0 then seq.toNat else s.rd ST_UPD_SEQ_SEQ) ∧
      (s.rd ST_UPD_CMD_KIND ≠ 2 → Kept [ST_UPD_SEQ_SEQ, ST_UPD_STAT_STATUS, ST_UPD_STAT_DETAIL, ST_UPD_STAT_BANK, ST_UPD_STAT_BUSY,
        ST_EVT_UPD_DONE] s.settleBeats t)) ∧
  (∀ a op addr off len since s, op = 2 ∨ op = 3 → s.kw.xfer = some ⟨op, addr, off, len, since⟩ → s.islandUp 8 = true →
    a.timeout = false → s.mgNow ≤ since + s.stLimit op → a.status.getLsbD 0 = true →
    ∃ t, exec (.storeXferDone a) s = .next t ∧ t.kw = s.kw ∧ t.rd ST_XFER_STAT_FLASH_SR = a.status.toNat ∧ Kept [ST_XFER_STAT_FLASH_SR] s t) ∧
  (∀ a addr off len since s, let late := a.timeout = true ∨ since + 1600000 * s.rd ST_TMO_PROG_MS < s.mgNow
    s.kw.xfer = some ⟨2, addr, off, len, since⟩ → s.islandUp 8 = true → late ∨ a.status.getLsbD 0 = false →
    ∃ t, exec (.storeXferDone a) s = .next t ∧ t.kw.xfer = none ∧ t.ny.sram = s.ny.sram ∧ t.is ST_XFER_STAT_BUSY = false ∧
      t.rd ST_XFER_STAT_RESULT = (if late then 6 else if firstBytes a.data len = s.sramRead off len then 0 else 4)) ∧
  (∀ w len s, s.serves w 0x1E1018 4 = true → w.master = 256 → s.stReadOnly = true → s.is ST_XFER_STAT_BUSY = false →
    ∀ i ∈ [Instr.storeProgram w len, .storeErase w], ∃ t, exec i s = .next t ∧ t.sp = ⟨true, 0⟩ ∧ t.kw = s.kw ∧
      t.rd ST_REJ_COUNT = upBy s ST_REJ_COUNT 1 ∧ Kept [ST_REJ_COUNT] s.settleBeats t)

/-- Keyward (R399 to R402): a `START` that no check refuses begins an operation with the slot's key and clears the trust, one that a check
refuses records the error; words pass in and out in order; a block takes its input words and gives four output words; the entropy source's
failure ends the work. What log entries 44, 138 choose is the model's choice. Completes: kwStart, kwAbort, kwDinWrite, kwDoutRead,
keywardBlockDone, rngFail, rngOkReturn. -/
def Obligations.KeywardOperates : Prop :=
  (∀ w s, s.serves w 0x1E2008 4 = true → w.master = 256 → s.kwStartErr = 0 →
    ∃ t, exec (.kwStart w) s = .next t ∧ t.sp = ⟨true, 0⟩ ∧
      t.kw = { s.kw with op := some ⟨s.slotKey (s.rd KW_CFG_SLOT), s.is KW_CFG_DIR, s.rd KW_CFG_PAD, s.rd KW_LEN_LEN,
        (s.rd KW_LEN_LEN + 15) / 16⟩ }) ∧
  (∀ w s, s.serves w 0x1E2008 4 = true → w.master = 256 → s.kwStartErr ≠ 0 →
    ∃ t, exec (.kwStart w) s = .next t ∧ t.sp = ⟨true, 0⟩ ∧ t.kw = s.kw ∧ t.rd KW_STAT_ERR = s.kwStartErr ∧ t.is KW_STAT_TRUST = false ∧
      Kept [KW_STAT_TRUST, KW_STAT_ERR] s.settleBeats t) ∧
  (∀ w s, s.serves w 0x1E2008 4 = true → w.master ≠ 256 →
    ∃ t, exec (.kwStart w) s = .next t ∧ t.sp = ⟨true, 0⟩ ∧ t.kw = s.kw ∧ t.rd KW_REJ_COUNT = upBy s KW_REJ_COUNT 1 ∧
      Kept (KW_REJ_COUNT :: portCounts) s.settleBeats t) ∧
  (∀ w s, s.serves w 0x1E2008 4 = true → w.master = 256 →
    ∃ t, exec (.kwAbort w) s = .next t ∧ t.sp = ⟨true, 0⟩ ∧ t.kw = { s.kw with op := none }) ∧
  (∀ w v s, s.serves w 0x1E2010 4 = true → w.master = 256 → s.kw.din.length < 8 →
    ∃ t, exec (.kwDinWrite w v) s = .next t ∧ t.sp = ⟨true, 0⟩ ∧ t.kw = { s.kw with din := s.kw.din ++ [v.toNat] } ∧ t.flds = s.settleBeats.flds) ∧
  (∀ w s x l, s.serves w 0x1E2014 4 = true → s.kw.dout = x :: l →
    ∃ t, exec (.kwDoutRead w) s = .next t ∧ t.sp = ⟨true, x⟩ ∧ t.kw = { s.kw with dout := l } ∧ Kept portCounts s.settleBeats t) ∧
  (∀ o s, s.islandUp 8 = true → s.kw.op = some o → 16 ≤ o.left → 1 < o.blocks → 4 ≤ s.kw.din.length → s.kw.dout.length ≤ 4 →
    ∃ t, exec .keywardBlockDone s = .next t ∧ t.kw.din = s.kw.din.drop 4 ∧
      t.kw.dout = s.kw.dout ++ (List.range 4).map (fun i => leNat (kwBlock o (((s.kw.din.take 4).map (leBytes 4)).flatten.take 16)) (4 * i) 4) ∧
      t.kw.op = some { o with left := o.left - 16, blocks := o.blocks - 1 } ∧ t.kw.keys = s.kw.keys) ∧
  (∀ s, s.islandUp 8 = true → ∃ t, exec .rngFail s = .next t ∧ t.kw.op = none ∧ t.kw.dout = [] ∧ t.kw.keys = s.kw.keys ∧ t.kw.fuses = s.kw.fuses) ∧
  (∀ s, s.islandUp 8 = true → ∃ t, exec .rngOkReturn s = .next t ∧ t.is KW_STAT_RNG_OK = true ∧ Kept [KW_STAT_RNG_OK] s t)

/-- The keyring and the fuses (R403, R404): the Nyelle core's write loads a slot with the staged key, a zeroise empties it and a lock holds
it; programming takes the staged words, and its end makes them the fuses and blows the lock. The hasp (R405, R406, R417): a rise of
`HASP_REQ` on a running management island ends Keyward's work and empties every slot, staging word and queue; the grant comes once all of
them verify zero in a state that is awake, and until then they are emptied again; the fall withdraws it. What log entry 46 chooses is the
model's choice. Completes: keyWrite, keyZero, keyLock, fuseProg, fuseProgDone, haspReqRise, haspGrant, haspReqFall. -/
def Obligations.KeyringFusesAndHasp : Prop :=
  (∀ w (n : Fin 8) wide s, s.serves w 0x1E2060 4 = true → w.master = 256 → n.val ≠ 0 → s.haspBars = false → s.is KW_STAT_BUSY = false →
    s.bit KW_KEY_STAT_LOCKED n = false →
    (∃ t, exec (.keyWrite w n wide) s = .next t ∧ t.sp = ⟨true, 0⟩ ∧
      mapGet (fun _ => 0) t.kw.keys n = s.keyData (if wide then 8 else 4) ∧ t.bit KW_KEY_STAT_VALID n = true ∧
      t.bit KW_KEY_STAT_IS256 n = wide ∧ (∀ k, k ≠ n.val → mapGet (fun _ => 0) t.kw.keys k = mapGet (fun _ => 0) s.kw.keys k)) ∧
    (∃ t, exec (.keyZero w n) s = .next t ∧ t.sp = ⟨true, 0⟩ ∧ mapGet (fun _ => 0) t.kw.keys n = 0 ∧
      t.bit KW_KEY_STAT_VALID n = false ∧ t.bit KW_KEY_STAT_IS256 n = false ∧
      (∀ k, k ≠ n.val → mapGet (fun _ => 0) t.kw.keys k = mapGet (fun _ => 0) s.kw.keys k))) ∧
  (∀ w (n : Fin 8) wide s, s.serves w 0x1E2060 4 = true → w.master = 256 → s.bit KW_KEY_STAT_LOCKED n = true →
    ∃ t, exec (.keyWrite w n wide) s = .next t ∧ t.kw = s.kw ∧ t.rd KW_REJ_COUNT = upBy s KW_REJ_COUNT 1 ∧ Kept [KW_REJ_COUNT] s.settleBeats t) ∧
  (∀ w (n : Fin 8) s, s.serves w 0x1E2060 4 = true → w.master = 256 → n.val ≠ 0 → s.haspBars = false →
    ∃ t, exec (.keyLock w n) s = .next t ∧ t.sp = ⟨true, 0⟩ ∧ t.bit KW_KEY_STAT_LOCKED n = true ∧ t.kw = s.kw) ∧
  (∀ w s, s.serves w 0x1E20A0 4 = true → w.master = 256 → s.rd SYS_STATE_MODE = 2 → s.kw.fuseLock = false → s.haspBars = false →
    s.is KW_FUSE_CTRL_PROG_BUSY = false →
    ∃ t, exec (.fuseProg w) s = .next t ∧ t.sp = ⟨true, 0⟩ ∧ t.is KW_FUSE_CTRL_PROG_BUSY = true ∧ t.kw.fuses = s.kw.fuses ∧
      t.kw.fuseNew = (List.range 8).foldl (fun a i => a + 2 ^ (32 * i) * s.rd (KW_FUSE_DATA_FUSE i)) 0 ∧
      Kept [KW_FUSE_CTRL_PROG_BUSY] s.settleBeats t) ∧
  (∀ w s, s.serves w 0x1E20A0 4 = true → w.master ≠ 256 ∨ s.rd SYS_STATE_MODE ≠ 2 ∨ s.kw.fuseLock = true →
    ∃ t, exec (.fuseProg w) s = .next t ∧ t.kw = s.kw ∧ t.rd KW_REJ_COUNT = upBy s KW_REJ_COUNT 1) ∧
  (∀ s, s.is KW_FUSE_CTRL_PROG_BUSY = true → s.islandUp 8 = true →
    ∃ t, exec .fuseProgDone s = .next t ∧ t.kw = { s.kw with fuses := s.kw.fuseNew, fuseLock := true } ∧
      t.is KW_FUSE_CTRL_PROG_BUSY = false ∧ t.is KW_FUSE_CTRL_FUSE_LOCK = true ∧ t.is KW_STAT_FUSED = true ∧
      Kept [KW_FUSE_CTRL_PROG_BUSY, KW_FUSE_CTRL_FUSE_LOCK, KW_STAT_FUSED] s t) ∧
  (∀ s, s.islandUp 8 = true → ∃ t, exec .haspReqRise s = .next t ∧ t.kw.keys = [] ∧ t.kw.din = [] ∧ t.kw.dout = [] ∧ t.kw.op = none ∧
    t.kw.haspPin = true ∧ t.kw.haspServe = true ∧ t.kw.fuses = s.kw.fuses ∧ t.is KW_HASP_REQ = true ∧ t.is KW_EVT_HASP_REQ = true ∧
    t.is KW_STAT_TRUST = false ∧ (∀ n : Fin 8, t.bit KW_KEY_STAT_VALID n = false ∧ t.rd (KW_KEY_DATA_KEY n) = 0)) ∧
  (∀ s, s.islandUp 8 = false → exec .haspReqRise s = .next { s with kw := { s.kw with haspPin := true } }) ∧
  (∀ s, s.kw.haspServe = true → s.kw.haspPin = true → s.zeroised = true → s.islandUp 8 = true → s.rd PW_STAT_STATE ≤ 1 →
    ∃ t, exec .haspGrant s = .next t ∧ t.kw = { s.kw with haspServe := false } ∧ t.is KW_HASP_GNT = true ∧
      t.is KW_STAT_HASP_OPENED = true ∧ t.is KW_EVT_HASP_OPEN = true ∧ t.is KW_EVT_ZEROISED = true ∧
      t.rd KW_HASP_OPEN_CNT = upBy s KW_HASP_OPEN_CNT 1 ∧
      Kept [KW_HASP_GNT, KW_STAT_HASP_OPENED, KW_EVT_HASP_OPEN, KW_EVT_ZEROISED, KW_HASP_OPEN_CNT] s t) ∧
  (∀ s, s.islandUp 8 = true → ∃ t, exec .haspReqFall s = .next t ∧ t.kw = { s.kw with haspPin := false, haspServe := false } ∧
    t.is KW_HASP_REQ = false ∧ t.is KW_HASP_GNT = false ∧ t.is KW_EVT_HASP_CLOSED = true ∧
    Kept [KW_HASP_REQ, KW_HASP_GNT, KW_EVT_HASP_CLOSED] s t) ∧
  (∀ s, s.kw.haspServe = true → s.kw.haspPin = true → s.zeroised = false → s.islandUp 8 = true → s.rd PW_STAT_STATE ≤ 1 →
    ∃ t, exec .haspGrant s = .next t ∧ t.zeroised = true ∧ t.is KW_HASP_GNT = s.is KW_HASP_GNT ∧ t.kw = { s.kw with keys := [] })

/-- A reset of the management island (R366, R367): the cause is recorded, `ILOCK` and the watchdog enable fall, a claim the core had not
completed is undone and the boot ROM selects firmware anew, whose data image stands in the data SRAM behind it (R390, R392); a kick begins
the watchdog's count again. The heartbeat (R62): a mark counts and writes, or holds the write back; a held-back write goes out when it can;
an answer that is not `OKAY` is reported. Answers of the surroundings (R54 to R57, R59, R64): a beat on a port that is not up does nothing;
available and outstanding credits still add up to the grant wherever they did; the last beat of a write's response answers the request; a
request that waits too long is answered `TIMEOUT` and its tag is quarantined. The time at which a timed command leaves the clock is the
model's choice (log entry 2). What log entries 38, 47, 115, 116, 121 choose is the model's choice. Completes: fabricBeatReceived,
fabricRequestTimeout, tableReadTimeout, coreRst, watchdogExpiry, wdtKick, heartbeatMark, heartbeatDeferredWrite, heartbeatWriteResponse. -/
def Obligations.ManagementResetsHeartbeatAndSurroundings : Prop :=
  (∀ w v pc b s, s.serves w 0x1E0000 4 = true → bitN v.toNat 0 = 1 → (∀ x ∈ s.transit, x.reader ≠ 256) →
    ∃ t, exec (.coreRst w v pc b) s = .next t ∧ t.sp = ⟨true, 0⟩ ∧ t.rd NY_STAT_CAUSE = 2 ∧ t.is NY_EVT_NY_RESET = true ∧
      t.is NY_CTRL_ILOCK = false ∧ t.hub.coreClaim = none ∧
      (∀ a, t.sramRead a 1 = (match (((bootFw s.bootKey b).map imgData).getD [])[a]? with
        | some v => [v]
        | none => s.sramRead a 1))) ∧
  (∀ pc b s, s.is NY_CTRL_WDT_EN = true → s.is NY_STAT_HALTED = false → s.islandUp 8 = true → (∀ x ∈ s.transit, x.reader ≠ 256) →
    ∃ t, exec (.watchdogExpiry pc b) s = .next t ∧ t.rd NY_STAT_CAUSE = 1 ∧ t.is NY_EVT_NY_RESET = true ∧ t.is NY_CTRL_ILOCK = false ∧
      t.hub.coreClaim = none ∧
      (∀ a, t.sramRead a 1 = (match (((bootFw s.bootKey b).map imgData).getD [])[a]? with
        | some v => [v]
        | none => s.sramRead a 1)) ∧
      t.tm.tick = s.tm.tick + (s.ny.wdt.ends (usTicks (s.rd NY_WDT_WDT_US)) - s.mgNow)) ∧
  (∀ w s, s.serves w 0x1E000C 4 = true →
    ∃ t, exec (.wdtKick w) s = .next t ∧ t.sp = ⟨true, 0⟩ ∧ Kept portCounts s.settleBeats t ∧
      t.ny.wdt = (if s.is NY_CTRL_WDT_EN && !s.is NY_STAT_HALTED then ⟨0, some s.mgNow⟩ else {})) ∧
  (∀ s, s.start = stREADY → s.sys.hbRunning = true → s.rd PW_STAT_STATE ≤ 1 →
    ∃ t, exec .heartbeatMark s = .next t ∧ t.sys.hbDue = s.sys.hbDue + 1600000 ∧ t.tm.tick = max s.tm.tick s.sys.hbDue ∧
      t.rd64 SYS_HB_COUNT_LO_HB_COUNT SYS_HB_COUNT_HI_HB_COUNT =
        (s.rd64 SYS_HB_COUNT_LO_HB_COUNT SYS_HB_COUNT_HI_HB_COUNT + 1) % 2 ^ 64 ∧
      (if s.hbCan = true then t.sys.hbOutstanding = true ∧ t.sys.hbDeferred = false ∧ t.asks .heartbeat 0 0 s.hbAddr t.hbBytes 0 = true
        else t.sys.hbOutstanding = s.sys.hbOutstanding ∧ t.sys.hbDeferred = true ∧ t.fab = s.fab)) ∧
  (∀ s, s.sys.hbDeferred = true → s.hbCan = true → ∃ t, exec .heartbeatDeferredWrite s = .next t ∧ t.sys.hbDeferred = false ∧
    t.sys.hbOutstanding = true ∧ t.asks .heartbeat 0 0 s.hbAddr s.hbBytes 0 = true ∧ t.flds = s.flds) ∧
  (∀ s, s.sys.hbDeferred = false ∨ s.hbCan = false → exec .heartbeatDeferredWrite s = .next s) ∧
  (∀ d u s, s.response .heartbeat = some (d, u) → ∃ t, exec .heartbeatWriteResponse s = .next t ∧
    t.sys = { s.sys with hbOutstanding := false } ∧
    (if d.resp = .okay then t.flds = s.flds else t.is SYS_FAB_EVT_HB_FAIL = true ∧ Kept [SYS_FAB_EVT_HB_FAIL] s t)) ∧
  (∀ (x : Fin 16) b s, s.fab.up.getLsbD x = false → exec (.fabricBeatReceived x b) s = .next s) ∧
  (∀ (x : Fin 16) b s, ∃ t, exec (.fabricBeatReceived x b) s = .next t ∧ ∀ k, s.fab.audit k = true → t.fab.audit k = true) ∧
  (∀ (x : Fin 16) b r s, s.fab.up.getLsbD x = true → s.islandRuns (if x.val < 9 then 6 else 7) = true →
    x.val < 9 → s.coreUp = true → b.valid = true → b.vc = 2 → b.last = true →
    s.fab.reqs.find? (fun q => q.x == x.val && q.tag == some b.tag.toNat) = some r → r.rlen = 0 → r.left = 0 →
    ∃ t, exec (.fabricBeatReceived x b) s = .next t ∧
      (s.fab.done ++ [⟨r.kind, r.a, r.b, r.x, r.addr, respOf b.resp.toNat, []⟩]) <+: t.fab.done) ∧
  (∀ (f : Fin 9) n r s, s.coreUp = true → s.fab.reqs.find? (fun q => q.x == f.val && q.tag == some n.toNat) = some r →
    ∃ t, exec (.fabricRequestTimeout f n) s = .next t ∧ (s.fab.done ++ [⟨r.kind, r.a, r.b, r.x, r.addr, .timeout, []⟩]) <+: t.fab.done ∧
      t.fab.quar = (f.val, n.toNat) :: s.fab.quar ∧ t.bit SYS_FAB_EVT_TMO f = true ∧
      t.tm.tick = max s.tm.tick (r.at_ + usTicks (s.rd SYS_FAB_TIMEOUT_FAB_US))) ∧
  (∀ (c : Fin 7) n r s, s.islandRuns 7 = true → s.fab.reqs.find? (fun q => q.x == 9 + c.val && q.tag == some n.toNat) = some r →
    ∃ t, exec (.tableReadTimeout c n) s = .next t ∧ (s.fab.done ++ [⟨r.kind, r.a, r.b, r.x, r.addr, .timeout, []⟩]) <+: t.fab.done ∧
      t.fab.quar = (9 + c.val, n.toNat) :: s.fab.quar ∧ t.bit CL_EVT_TBL_ERR c = true ∧
      t.tm.tick = max s.tm.tick (r.at_ + usTicks (s.rd SYS_FAB_TIMEOUT_TBL_US)))

/-- The event log (R373 to R376): the writer stores the oldest hardware post, else the oldest of the firmware, else of the host, at the slot
of its sequence number; posts queue in order; the persistence mark moves only forward and not past the head, and the sequence number is set
only while the log is empty. What log entry 48 chooses is the model's choice. Completes: logPostFw, logPostHost, logPersistWrite,
logSeqWrite, logStore. -/
def Obligations.EventLogInOrder : Prop :=
  (∀ p l s, s.ny.hwq = p :: l → s.rd PW_STAT_STATE ≠ 4 → s.sys.aonRstN = true →
    ∃ t, exec .logStore s = .next t ∧ t.ny.hwq = l ∧ t.ny.fwq = s.ny.fwq ∧ t.ny.hostq = s.ny.hostq ∧
      t.rd NY_LOG_SEQ_SEQ = (s.rd NY_LOG_SEQ_SEQ + 1) % 2 ^ 32 ∧
      (mapGet (fun _ => {}) t.ny.slots (s.rd NY_LOG_SEQ_SEQ % 2048)).seq = s.rd NY_LOG_SEQ_SEQ ∧
      (mapGet (fun _ => {}) t.ny.slots (s.rd NY_LOG_SEQ_SEQ % 2048)).code = p.code ∧
      (mapGet (fun _ => {}) t.ny.slots (s.rd NY_LOG_SEQ_SEQ % 2048)).noTime = !s.coreUp) ∧
  (∀ p l s, s.ny.hwq = [] → s.ny.fwq = p :: l → s.rd PW_STAT_STATE ≠ 4 → s.sys.aonRstN = true →
    ∃ t, exec .logStore s = .next t ∧ t.ny.hwq = [] ∧ t.ny.fwq = l ∧ t.ny.hostq = s.ny.hostq ∧
      (mapGet (fun _ => {}) t.ny.slots (s.rd NY_LOG_SEQ_SEQ % 2048)).code = p.code) ∧
  (∀ p l s, s.ny.hwq = [] → s.ny.fwq = [] → s.ny.hostq = p :: l → s.rd PW_STAT_STATE ≠ 4 → s.sys.aonRstN = true →
    ∃ t, exec .logStore s = .next t ∧ t.ny.hwq = [] ∧ t.ny.fwq = [] ∧ t.ny.hostq = l ∧
      (mapGet (fun _ => {}) t.ny.slots (s.rd NY_LOG_SEQ_SEQ % 2048)).code = p.code) ∧
  (∀ w code sev s, s.serves w 0x1E0460 4 = true →
    ∃ t, exec (.logPostFw w code sev) s = .next t ∧ t.sp = ⟨true, 0⟩ ∧ t.ny.fwq = (if w.master = 256
      then s.ny.fwq ++ [⟨code.toNat, sev.toNat, s.rd (NY_LOG_FW_ARG_ARG 0), s.rd (NY_LOG_FW_ARG_ARG 1), s.rd (NY_LOG_FW_ARG_ARG 2), 0⟩]
      else s.ny.fwq)) ∧
  (∀ w code sev s, s.serves w 0x1E0480 4 = true →
    ∃ t, exec (.logPostHost w code sev) s = .next t ∧ t.sp = ⟨true, 0⟩ ∧ t.ny.hostq = (if w.master = 256 then s.ny.hostq
      else s.ny.hostq ++ [⟨code.toNat, sev.toNat, s.rd (NY_LOG_HOST_ARG_ARG 0), s.rd (NY_LOG_HOST_ARG_ARG 1),
        s.rd (NY_LOG_HOST_ARG_ARG 2), 0⟩])) ∧
  (∀ w v s, s.serves w 0x1E0408 4 = true →
    ∃ t, exec (.logPersistWrite w v) s = .next t ∧ t.sp = ⟨true, 0⟩ ∧
      (if (v.toNat + 2 ^ 32 - s.rd NY_LOG_PERSIST_NEXT) % 2 ^ 32 ≤ s.logDepth
        then t.rd NY_LOG_PERSIST_NEXT = v.toNat ∧ Kept (NY_LOG_PERSIST_NEXT :: portCounts) s.settleBeats t
        else t.rd NY_LOG_LOST_REJ = upBy s NY_LOG_LOST_REJ 1 ∧ Kept (NY_LOG_LOST_REJ :: portCounts) s.settleBeats t)) ∧
  (∀ w v s, s.serves w 0x1E0404 4 = true →
    ∃ t, exec (.logSeqWrite w v) s = .next t ∧ t.sp = ⟨true, 0⟩ ∧
      (if s.rd NY_LOG_HEAD_COUNT = 0
        then t.rd NY_LOG_SEQ_SEQ = v.toNat ∧ t.rd NY_LOG_HEAD_SLOT = v.toNat % 2048 ∧
          Kept ([NY_LOG_SEQ_SEQ, NY_LOG_HEAD_SLOT] ++ portCounts) s.settleBeats t
        else t.rd NY_LOG_LOST_REJ = upBy s NY_LOG_LOST_REJ 1 ∧ Kept (NY_LOG_LOST_REJ :: portCounts) s.settleBeats t))

/-- Performance counters (R377, R380): `FREEZE` is as written, a snapshot copies every counter, and leaves those of an island that stands to
the time it runs, a clear zeroes every counter and overflow bit, an export goes out once and ends with its second write. A missed deadline
of a background agent is raised, counted and reported (R383). The time at which a timed command leaves the clock is the model's choice (log
entry 2). What log entries 10, 52, 117 choose is the model's choice. Completes: pcFreeze, pcSnap, pcClear, pcExport, bgDeadlineMiss,
pcExportResponse. -/
def Obligations.PerformanceCountersAndAgents : Prop :=
  (∀ w on s, s.serves w 0x1D0000 4 = true →
    ∃ t, exec (.pcFreeze w on) s = .next t ∧ t.sp = ⟨true, 0⟩ ∧ t.is PC_CTRL_FREEZE = on ∧ t.fab.sent = []) ∧
  (∀ w frz s, s.serves w 0x1D0000 4 = true → s.is PC_CTRL_SNAP_BUSY = false → (∀ i, i < 9 → s.islandUp i = true) →
    ∃ t, exec (.pcSnap w frz) s = .next t ∧ t.sp = ⟨true, 0⟩ ∧ t.is PC_CTRL_FREEZE = frz ∧
      (∀ e : Fin 1024, t.rd (PC_SNAP_LO_COUNT e) = t.rd (PC_CNT_LO_COUNT e) % 2 ^ 32 ∧
        t.rd (PC_SNAP_HI_COUNT e) = t.rd (PC_CNT_HI_COUNT e) % 2 ^ 32)) ∧
  (∀ w frz s, s.serves w 0x1D0000 4 = true →
    ∃ t, exec (.pcClear w frz) s = .next t ∧ t.sp = ⟨true, 0⟩ ∧ t.is PC_CTRL_FREEZE = frz ∧
      (∀ e : Fin 1024, t.rd (PC_CNT_LO_COUNT e) = 0 ∧ t.rd (PC_CNT_HI_COUNT e) = 0) ∧ (∀ i : Fin 32, t.rd (PC_OVF_OVF i) = 0)) ∧
  (∀ w frz s, s.serves w 0x1D0000 4 = true → s.is PC_CTRL_SNAP_BUSY = false → s.is PC_CTRL_EXP_BUSY = false →
    ∃ t, exec (.pcExport w frz) s = .next t ∧ t.sp = ⟨true, 0⟩ ∧ t.is PC_CTRL_EXP_BUSY = true ∧ t.ny.expLeft = 2 ∧ t.ny.expFail = false ∧
      (let a := 4096 * s.rd PC_EXPORT_LO_ADDR + 2 ^ 32 * s.rd PC_EXPORT_HI_ADDR
       t.asks .pcExport 0 0 a (s.pcHalf 0) 0 = true ∧ t.asks .pcExport 0 0 (a + 4096) (s.pcHalf 1) 0 = true)) ∧
  (∀ d u s, s.response .pcExport = some (d, u) → s.ny.expLeft = 1 →
    ∃ t, exec .pcExportResponse s = .next t ∧ t.ny.expLeft = 0 ∧ t.is PC_CTRL_EXP_BUSY = false ∧
      (d.resp ≠ .okay → t.is NY_EVT_PC_EXP_FAIL = true)) ∧
  (∀ s, s.response .pcExport = none → exec .pcExportResponse s = .next s) ∧
  (∀ (a : Fin 8) n u s, s.rd (NY_BG_DL_DL_US a) ≠ 0 → s.islandUp 8 = true → s.bgLate a n = some u →
    ∃ t, exec (.bgDeadlineMiss a n) s = .next t ∧ t.is (NY_BG_DL_RAISED a) = true ∧
      t.ny.bgUnits = s.ny.bgUnits.map (fun e => if e = u then { e with missed := true } else e) ∧
      t.tm.tick = max s.tm.tick (u.start + 1600 * s.rd (NY_BG_DL_DL_US a)) ∧
      t.rd (NY_BG_MISS_COUNT a) = upBy s (NY_BG_MISS_COUNT a) 1 ∧ t.is NY_EVT_BG_MISS = true ∧
      Kept [NY_BG_DL_RAISED a, NY_BG_MISS_COUNT a, NY_LOG_LOST_LOST, NY_EVT_BG_MISS, NY_MTIME_LO_MTIME, NY_MTIME_HI_MTIME,
        TM_AON_CNT_LO_COUNT, TM_AON_CNT_HI_COUNT] s t) ∧
  (∀ w frz s, s.serves w 0x1D0000 4 = true → s.is PC_CTRL_SNAP_BUSY = false → (∃ i, i < 9 ∧ s.islandUp i = false) →
    ∃ t, exec (.pcSnap w frz) s = .next t ∧ t.sp = ⟨true, 0⟩ ∧ t.is PC_CTRL_SNAP_BUSY = true ∧
      (∀ e : Fin 1024, s.islandUp (eventIsland e) = false → t.rd (PC_SNAP_LO_COUNT e) = s.rd (PC_SNAP_LO_COUNT e) ∧
        t.rd (PC_SNAP_HI_COUNT e) = s.rd (PC_SNAP_HI_COUNT e)))

/-- Resets (R47, R63, R409, R423): a fall of `AON_RST_N`, `BLK_RST_N` or `PW_GOOD`, the loss of all power and a brown-out put the block into
`RESET`; the fuses survive, requests to the surroundings are gone, and the low reset input stands in the state. The clamps (R63): while
`PW_ISO` is high no port is in service and every lane idles and `WAKE_OUT` is 0. The stop of an island's clock stops the island and its run
bit follows (R20, R21). What log entries 37, 82 choose is the model's choice. Completes: islandClockStop, aonRstNFall, blkRstNFall,
pwGoodFall, brownOut, powerRemoved, pwIsoRise. -/
def Obligations.ResetsClampsAndClocks : Prop :=
  (∀ s, ∃ t, exec .aonRstNFall s = .next t ∧ t.start = stRESET ∧ t.sys.aonRstN = false ∧ t.kw.fuses = s.kw.fuses ∧
    t.kw.fuseLock = s.kw.fuseLock ∧ t.kw.keys = [] ∧ t.fab.reqs = [] ∧ t.sys.started = 0 ∧ t.rd PW_STAT_STATE = 0 ∧
    (s.Wf → ∀ f : Fld, f.off = 0x1F0024 → f.lo < 32 → t.rd f = s.rd f)) ∧
  (∀ s, ∃ t, exec .blkRstNFall s = .next t ∧ t.start = stRESET ∧ t.sys.blkRstN = false ∧ t.sys.aonRstN = s.sys.aonRstN ∧
    t.kw.fuses = s.kw.fuses ∧ t.kw.keys = [] ∧ t.fab.reqs = [] ∧ t.sys.started = 0 ∧ t.pw = s.pw) ∧
  (∀ s, ∃ t, exec .pwGoodFall s = .next t ∧ t.start = stRESET ∧ t.sys.pwGood = false ∧ t.kw.fuses = s.kw.fuses ∧
    t.kw.keys = [] ∧ t.fab.reqs = [] ∧ t.sys.started = 0 ∧ t.pw = s.pw) ∧
  (∀ s, ∃ t, exec .powerRemoved s = .next t ∧ t.start = stRESET ∧ t.sys = State.reset.sys ∧ t.kw.fuses = s.kw.fuses ∧ t.pw = State.reset.pw ∧ t.ny.slots = [] ∧
    (∀ f : Fld, f.key ≠ KW_FUSE_CTRL_FUSE_LOCK.key → f.key ≠ KW_STAT_FUSED.key → t.rd f = fieldReset f.key) ∧
    (t.is KW_STAT_FUSED = true ↔ s.kw.fuseLock = true)) ∧
  (∀ s, ∃ t, exec .brownOut s = .next t ∧ t.start = stRESET ∧ t.sys.bor = true ∧ t.is PW_BOR_SEEN = true ∧
    t.rd PW_BOR_STATE = s.rd PW_STAT_STATE % 2 ^ PW_BOR_STATE.w ∧ t.kw.fuses = s.kw.fuses) ∧
  (∀ s, ∃ t, exec .pwIsoRise s = .next t ∧ t.sys.pwIso = true ∧ t.fab.up = 0 ∧ t.hub.wakeOut = false ∧ (∀ i : Fin 36, t.is (LN_LANE_STAT_TX_IDLE i) = true)) ∧
  (∀ (i : Fin 9) s, ∃ t, exec (.islandClockStop i) s = .next t ∧ t.islandRuns i = false ∧ t.sys.clkStopped.getLsbD i = true ∧
    (∀ j : Fin 9, j ≠ i → t.islandRuns j = s.islandRuns j) ∧
    Kept [SYS_ISLAND_CLK_SLICE_RUN, SYS_ISLAND_CLK_CORE_RUN, SYS_ISLAND_CLK_FABRIC_RUN, SYS_ISLAND_CLK_TABLE_RUN] s t)

/-- Start-up (R47): release of the resets enters `BOOT` with the core, fabric and management islands started and the time counter at zero,
the firmware's running enters `WAIT_SD` with the first port up, and a reload asked for there reads the descriptor. The descriptor and
bring-up (R43, R44, R47, R62): a response that is not `OKAY` ends with result 1 and a descriptor that fails a check with its result, both
counted and back in `WAIT_SD`; one that passes is in force and enters `BRINGUP`; bring-up ends in `READY` with the heartbeat count at zero
once its islands run, or in `FAILED`, or leaves a slice out. The time at which a timed command leaves the clock is the model's choice (log
entry 2). What log entries 36, 102, 103, 115, 116 choose is the model's choice. Completes: resetRelease, sdReload, bringupSliceTimeout,
firmwareRunning, sdFetchResponse, bringupComplete, bringupTimeout. -/
def Obligations.StartUp : Prop :=
  (∀ b s, s.start = stRESET → ∃ t, exec (.resetRelease b) s = .next t ∧ t.start = stBOOT ∧ t.tm.now = 0 ∧ t.tm.cyc = 0 ∧
    t.sys.started = s.sys.started ||| 0x160#9 ∧ t.sys.aonRstN = true ∧ t.sys.blkRstN = true ∧ t.sys.pwGood = true ∧ t.sys.bor = false) ∧
  (∀ s, s.start = stBOOT → s.islandRuns 8 = true → ∃ t, exec .firmwareRunning s = .next t ∧ t.start = stWAIT_SD ∧ t.fab.up = s.fab.up ||| 1 ∧
    Kept [SYS_STATE_STATE] s t) ∧
  (∀ s, s.start ≠ stBOOT ∨ s.islandRuns 8 = false → exec .firmwareRunning s = .next s) ∧
  (∀ w s, s.serves w 0x000018 4 = true → s.is SYS_SD_STAT_BUSY = false → s.start = stWAIT_SD →
    ∃ t, exec (.sdReload w) s = .next t ∧ t.sp = ⟨true, 0⟩ ∧ t.start = stLOAD_SD ∧ t.is SYS_SD_STAT_BUSY = true ∧
      t.asks .sdRead 0 0 s.sdAddr [] 4096 = true ∧ Kept ([SYS_STATE_STATE, SYS_SD_STAT_BUSY] ++ portCounts) s.settleBeats t) ∧
  (∀ w s, s.serves w 0x000018 4 = true → s.is SYS_SD_STAT_BUSY = true ∨ s.start ≠ stWAIT_SD ∧ s.start ≠ stREADY →
    ∃ t, exec (.sdReload w) s = .next t ∧ t.sp = ⟨true, 0⟩ ∧ t.start = s.start ∧ t.fab.reqs = s.fab.reqs ∧
      t.rd SYS_SD_CNT_IGNORED = upBy s SYS_SD_CNT_IGNORED 1 ∧ Kept (SYS_SD_CNT_IGNORED :: portCounts) s.settleBeats t) ∧
  (∀ d u s, s.response .sdRead = some (d, u) → s.start = stLOAD_SD → d.resp ≠ .okay →
    ∃ t, exec .sdFetchResponse s = .next t ∧ t.start = stWAIT_SD ∧ t.is SYS_SD_STAT_BUSY = false ∧ t.rd SYS_SD_STAT_RESULT = 1 ∧
      t.rd SYS_SD_CNT_REJECTS = upBy s SYS_SD_CNT_REJECTS 1 ∧ t.is SYS_FAB_EVT_SD_DONE = true ∧ t.sys = s.sys) ∧
  (∀ d u s, s.response .sdRead = some (d, u) → s.start = stLOAD_SD → d.resp = .okay → (s.sdCheck d.data false).1 ≠ 0 →
    ∃ t, exec .sdFetchResponse s = .next t ∧ t.start = stWAIT_SD ∧ t.rd SYS_SD_STAT_RESULT = (s.sdCheck d.data false).1 % 2 ^ 4 ∧
      t.rd SYS_SD_CNT_REJECTS = upBy s SYS_SD_CNT_REJECTS 1 ∧ t.is SYS_FAB_EVT_SD_DONE = true ∧ t.sys = s.sys) ∧
  (∀ d u s, s.response .sdRead = some (d, u) → s.start = stLOAD_SD → d.resp = .okay → (s.sdCheck d.data false).1 = 0 →
    ∃ t, exec .sdFetchResponse s = .next t ∧ t.sys.sd = some d.data ∧ t.sys.started = s.sys.started ||| 0x09F#9 ∧
      t.sys.bringAt = s.tm.tick) ∧
  (∀ s, s.start = stBRINGUP → s.mainIslands = true → (∀ i : Fin 4, s.sliceUsed i = false ∨ s.islandRuns i = true ∨ s.sys.sliceOut.getLsbD i = true) →
    ∃ t, exec .bringupComplete s = .next t ∧ t.start = stREADY ∧ t.sys.hbRunning = true ∧ t.sys.hbDue = s.tm.tick + 1600000 ∧
      t.rd64 SYS_HB_COUNT_LO_HB_COUNT SYS_HB_COUNT_HI_HB_COUNT = 0 ∧ t.is SYS_FAB_EVT_SD_DONE = true ∧
      Kept [SYS_HB_COUNT_LO_HB_COUNT, SYS_HB_COUNT_HI_HB_COUNT, SYS_STATE_STATE, SYS_FAB_EVT_SD_DONE] s t) ∧
  (∀ s, s.start = stBRINGUP → s.mainIslands = false → ∃ t, exec .bringupTimeout s = .next t ∧ t.start = stFAILED ∧
    t.tm.tick = max s.tm.tick (s.sys.bringAt + 16000000)) ∧
  (∀ (i : Fin 4) s, s.start = stBRINGUP → s.sliceUsed i = true → s.islandRuns i = false → s.sys.sliceOut.getLsbD i = false →
    ∃ t, exec (.bringupSliceTimeout i) s = .next t ∧ t.sys.sliceOut = s.sys.sliceOut ||| (1#5 <<< i.val) ∧ t.start = stBRINGUP ∧
      t.tm.tick = max s.tm.tick (s.sys.bringAt + 16000000))

/-- Power requests (R412, R414, R419, R420): a served write of `PW_CTRL` with a request that nothing refuses begins the entry, or drives
`PW_REQ` to leave P1; one made during another is refused, counted and reported. Parking and the thermal action (R368, R419, R421): once the
lines are drained the slices stop and `PW_REQ` is driven; new readings stand in their registers, and level 3 in A0 parks. The time at which
a timed command leaves the clock is the model's choice (log entry 2). What log entry 56 chooses is the model's choice. Completes:
thermalUpdate, requestA0, requestP1, requestW, requestS, requestD, p1EntryDrained. -/
def Obligations.PowerRequestsAndParking : Prop :=
  (∀ w v s, s.serves w 0x1F0000 4 = true → s.rd PW_STAT_PHASE = 0 → s.pwState = pwP1 → s.throttled = false →
    ∃ t, exec (.requestA0 w v) s = .next t ∧ t.sp = ⟨true, 0⟩ ∧ t.pw = { s.pw with req := 0, step := 31, since := s.tm.tick } ∧
      t.rd PW_STAT_PHASE = 2 ∧ t.pwState = pwP1) ∧
  (∀ w v s, s.serves w 0x1F0000 4 = true → s.rd PW_STAT_PHASE = 0 → s.pwState = pwA0 →
    ∃ t, exec (.requestP1 w v) s = .next t ∧ t.sp = ⟨true, 0⟩ ∧ t.pw = { s.pw with step := 21, target := pwP1 } ∧
      t.rd PW_STAT_PHASE = 1 ∧ t.pwState = pwA0) ∧
  (∀ w v s, let p := bits v.toNat 8 2
    s.serves w 0x1F0000 4 = true → s.rd PW_STAT_PHASE = 0 → s.pwState = pwA0 → s.pwQuiet pwW = true → s.portOn p = true → s.tMode p = false →
    (∃ k < 8, s.is (LN_CHAN_CFG_EN (8 * p + k)) = true) →
    ∃ t, exec (.requestW w v) s = .next t ∧ t.sp = ⟨true, 0⟩ ∧ t.pw = { s.pw with step := 2, target := pwW, held := false } ∧
      t.rd PW_STAT_PHASE = 1 ∧ t.watchPort = p) ∧
  (∀ w v s, s.serves w 0x1F0000 4 = true → s.rd PW_STAT_PHASE = 0 → s.pwState = pwA0 → s.pwQuiet pwS = true →
    ∃ t, exec (.requestS w v) s = .next t ∧ t.sp = ⟨true, 0⟩ ∧ t.pw = { s.pw with step := 2, target := pwS, held := false } ∧
      t.rd PW_STAT_PHASE = 1) ∧
  (∀ w v s, s.serves w 0x1F0000 4 = true → s.rd PW_STAT_PHASE = 0 → s.pwState = pwA0 → s.pwQuiet pwD = true →
    ∃ t, exec (.requestD w v) s = .next t ∧ t.sp = ⟨true, 0⟩ ∧ t.pw = { s.pw with step := 2, target := pwD, held := false } ∧
      t.rd PW_STAT_PHASE = 1 ∧ t.is PW_CTRL_D_KEEP_LOG = v.getLsbD 5) ∧
  (∀ w v s, s.serves w 0x1F0000 4 = true → s.rd PW_STAT_PHASE ≠ 0 →
    ∀ c ∈ [Instr.requestA0 w v, .requestP1 w v, .requestW w v, .requestS w v, .requestD w v],
    ∃ t, exec c s = .next t ∧ t.sp = ⟨true, 0⟩ ∧ t.pw = s.pw ∧ t.rd PW_STAT_REFUSE = 1 ∧ t.is PW_EVT_REFUSED = true ∧
      t.rd PW_CNT_REFUSED = upBy s PW_CNT_REFUSED 1 ∧ t.rd PW_STAT_PHASE = s.rd PW_STAT_PHASE) ∧
  (∀ s, s.pw.step = 21 → (∀ e ∈ s.chs, e.2.line = .idle) → (∀ e ∈ s.rxs, e.2.stage ≠ .slice ∧ e.2.stage ≠ .released) →
    ∃ t, exec .p1EntryDrained s = .next t ∧ t.pw.step = 22 ∧ t.pw.req = pwP1 ∧ t.pw.since = s.tm.tick ∧ t.pw.idle = 15 ∧
      t.sys.clkStopped = s.sys.clkStopped ||| 0x1F#9) ∧
  (∀ r s, s.islandUp 8 = true → s.pwState ≤ pwP1 →
    ∃ t, exec (.thermalUpdate r) s = .next t ∧ (∀ i : Fin 24, t.rd (NY_THERM_TEMP i) = (r.getD i 0).toNat) ∧
      t.rd NY_THERM_MAX_TEMP = t.rd (NY_THERM_TEMP (t.rd NY_THERM_MAX_IDX)) ∧
      (∀ i : Fin 24, tempOf (t.rd (NY_THERM_TEMP i)) ≤ tempOf (t.rd NY_THERM_MAX_TEMP))) ∧
  (∀ r s, s.islandUp 8 = true → s.pwState = pwA0 → s.pw.step = 0 → s.is PW_STAT_THERM_PARK = false → 3 ≤ (s.thermRead r).rd NY_THERM_MAX_LEVEL →
    ∃ t, exec (.thermalUpdate r) s = .next t ∧ t.is PW_STAT_THERM_PARK = true ∧ t.is PW_EVT_PARKED = true ∧ t.pw.step = 21 ∧
      t.pw.target = pwP1 ∧ t.rd PW_STAT_PHASE = 1)

/-- Entry to a state (R414, R415, R419): once every request has answered the ports fall and the core stops; at the tick edge the clocks
stop, the clamps and retention rise and `PW_REQ` is driven; its acknowledgement enters the state, or begins the exit where a wake is held,
and a missing acknowledgement is counted and undone. The time at which a timed command leaves the clock is the model's choice (log entry 2).
What log entry 56 chooses is the model's choice. Completes: entryRequestsDrained, entryTickLatch, pwAckRise, pwAckTimeout. -/
def Obligations.PowerEntry : Prop :=
  (∀ s, s.pw.step = 2 → (∀ r ∈ s.fab.reqs, r.tag = none) →
    ∃ t, exec .entryRequestsDrained s = .next t ∧ t.pw.step = 5 ∧ t.pw.target = s.pw.target ∧ t.pw.coreStopped = true ∧ t.fab.up = 0) ∧
  (∀ s, s.pw.step = 5 → ∃ t, exec .entryTickLatch s = .next t ∧ t.pw.step = 7 ∧ t.pw.req = s.pw.target ∧ t.pw.since = t.tm.tick ∧
    t.tm.tick = s.tm.tick + s.toAonEdge ∧ t.sys.pwIso = true ∧ t.sys.pwRet = true ∧ t.islandRuns 5 = false ∧ t.islandRuns 8 = false ∧
    t.tm.latchV.map (·.1) = some t.tm.now) ∧
  (∀ s, s.pw.step = 7 → s.pw.held = false → s.pw.target ≤ 4 →
    ∃ t, exec .pwAckRise s = .next t ∧ t.pwState = s.pw.target ∧ t.rd PW_STAT_PHASE = 0 ∧ t.pw = { s.pw with step := 0 } ∧
      t.is PW_EVT_ENTERED = true ∧ Kept [PW_STAT_STATE, PW_STAT_PHASE, PW_STAT_A1_ON, PW_EVT_ENTERED] s t) ∧
  (∀ s, s.pw.step = 7 → s.pw.held = true → s.pw.target ≤ 4 →
    ∃ t, exec .pwAckRise s = .next t ∧ t.pwState = s.pw.target ∧ t.rd PW_STAT_PHASE = 2 ∧ t.pw.step = 12 ∧ t.pw.req = 0 ∧
      t.hub.wakeOut = true ∧ t.is PW_EVT_ENTERED = true) ∧
  (∀ s, s.pw.step = 22 → ∃ t, exec .pwAckRise s = .next t ∧ t.pwState = pwP1 ∧ t.rd PW_STAT_PHASE = 0 ∧ t.pw = { s.pw with step := 0 } ∧
    t.is PW_EVT_ENTERED = true) ∧
  (∀ s, s.pw.step = 31 → s.pw.park = false → ∃ t, exec .pwAckRise s = .next t ∧ t.pwState = pwA0 ∧ t.rd PW_STAT_PHASE = 0 ∧ t.pw.step = 0 ∧
    t.is PW_EVT_EXITED = true ∧ t.is PW_STAT_THERM_PARK = false) ∧
  (∀ s, s.pw.step = 7 ∨ s.pw.step = 22 → ∃ t, exec .pwAckTimeout s = .next t ∧ t.is PW_EVT_ACK_TMO = true ∧ t.rd PW_STAT_PHASE = 2 ∧
    t.pw.step = (if s.pw.step = 7 then 13 else 31) ∧ t.pw.req = 0 ∧ t.rd PW_CNT_ACK_TMO = upBy s PW_CNT_ACK_TMO 1 ∧
    t.tm.tick = max s.tm.tick (s.pw.since + usTicks (s.rd PW_ACK_US_ACK_US)) ∧ t.pw.since = t.tm.tick)

/-- Wake and exit (R416, R417, R348): an enabled source that acts in the state in force records itself and begins the exit, and undoes an
entry that is still at an abort point; supplies back, the islands run again; clocks in order, A0 is in force. What log entry 56 chooses is
the model's choice. Completes: watchWake, wakeSource, exitPowerRestored, wakeTimer, exitClocksOk. -/
def Obligations.WakeAndExit : Prop :=
  (∀ (b : Fin 5) s, s.pw.step = 0 → 2 ≤ s.pwState → wakeActs b s.pwState = true → s.wakeEnabled b = true → (if b.val = 0 then s.sys.pwRet = true else s.wakeCond b = true) →
    ∃ t, exec (.wakeSource b) s = .next t ∧ t.bit PW_WAKE_SRC_SRC b = true ∧ t.is PW_EVT_WAKE = true ∧ t.pw.step = 12 ∧ t.pw.req = 0 ∧
      t.rd PW_STAT_PHASE = 2 ∧ t.hub.wakeOut = true ∧ Kept [PW_WAKE_SRC_SRC, PW_EVT_WAKE, PW_STAT_PHASE] s t) ∧
  (∀ (b : Fin 5) s, s.pw.step = 2 → wakeActs b s.pw.target = true → s.wakeEnabled b = true → (if b.val = 0 then s.sys.pwRet = true else s.wakeCond b = true) →
    ∃ t, exec (.wakeSource b) s = .next t ∧ t.pw = { s.pw with step := 0, target := pwA0 } ∧ t.rd PW_STAT_PHASE = 0 ∧
      t.rd PW_STAT_ABORT = 1 ∧ t.is PW_EVT_ABORTED = true ∧ Kept [PW_STAT_PHASE, PW_EVT_ABORTED, PW_STAT_ABORT] s t) ∧
  (∀ s, s.sys.aonRstN = true → s.aon ≤ s.rd64 PW_TIMER_LO_COUNT PW_TIMER_HI_COUNT % 2 ^ 48 → s.tm.sub32 < 1600000000 → s.pw.step = 0 →
    (s.pwState = pwW ∨ s.pwState = pwS ∨ s.pwState = pwD) → s.bit PW_WAKE_EN_EN 3 = true →
    ∃ t, exec .wakeTimer s = .next t ∧ t.bit PW_WAKE_SRC_SRC 3 = true ∧ t.is PW_EVT_WAKE = true ∧ t.pw.step = 12 ∧
      t.aon = s.rd64 PW_TIMER_LO_COUNT PW_TIMER_HI_COUNT % 2 ^ 48) ∧
  (∀ (e : Fin 32) s, s.is (HB_WATCH_EN e) = true → s.islandUp 8 = true → (s.src (s.rd (HB_WATCH_SOURCE e))).pending = true →
    s.asleep (s.effective (s.rd (HB_WATCH_SOURCE e))) = true → s.pw.step = 0 → s.pwState = pwA0 →
    ∃ t, exec (.watchWake e) s = .next t ∧ t.is HB_WAKE_STAT_VALID = true ∧ t.is HB_EVT_WAKE = true ∧ t.hub.wakeOut = true ∧
      t.rd HB_WAKE_STAT_ENTRY = (if s.is HB_WAKE_STAT_VALID then s.rd HB_WAKE_STAT_ENTRY else e.val) ∧ t.pw = s.pw) ∧
  (∀ b s, s.pw.step = 12 ∨ s.pw.step = 13 → s.pw.target ≠ pwD →
    ∃ t, exec (.exitPowerRestored b) s = .next t ∧ t.pw = { s.pw with step := 14 } ∧ t.sys.pwIso = false ∧ t.sys.pwRet = false ∧
      t.sys.clkStopped = 0 ∧ t.hub.wakeOut = false) ∧
  (∀ b s, s.pw.step = 12 ∨ s.pw.step = 13 → s.pw.target = pwD →
    ∃ t, exec (.exitPowerRestored b) s = .next t ∧ t.pw = { s.pw with step := 14, upWas := 0 } ∧ t.start = stBOOT) ∧
  (∀ s, s.pw.step = 14 → s.exitReady = true → s.pw.park = false →
    ∃ t, exec .exitClocksOk s = .next t ∧ t.pwState = pwA0 ∧ t.rd PW_STAT_PHASE = 0 ∧ t.pw.step = 0 ∧ t.pw.coreStopped = false ∧
      t.is PW_EVT_EXITED = true)

/-- Writes through the setup port (R7, R8, R60, R448): one that is not served is answered `DECLINED` and changes nothing; a served one is
answered `OKAY`. A register with one plain field takes the bits written there and nothing else changes but the counts of the access; a write
of ones clears those bits of an event register; a 64-bit write applies both words; no write reaches a read-only counter. In the doorbell
window a doorbell of no fault sets the producer index of its queue, as the command of its own does. Reads (R9, R10, R60, R261): an access
that is not served changes nothing; a read of a read-clear register answers its counters and clears them, they come back where the answer
fails and stay in transit where it has not been taken; a read of a low word latches the high word, which a read of the high word then
answers, and takes a 64-bit statistic whole. A read of a context's word in the doorbell window answers it. What log entries 53, 78, 119, 120
choose is the model's choice. Completes: registerWrite, rcRead, lowWordRead. -/
def Obligations.SetupPortAccesses : Prop :=
  (∀ w off wide v s, s.serves w (BitVec.toNat off) (if wide then 8 else 4) = false →
    exec (.registerWrite w false off wide v) s = .next { s with sp := ⟨false, 0⟩ }) ∧
  (∀ w off wide v s, s.serves w (BitVec.toNat off) (if wide then 8 else 4) = true →
    ∃ t, exec (.registerWrite w false off wide v) s = .next t ∧ t.sp = ⟨true, 0⟩) ∧
  (∀ w v s, s.serves w 0x1F0028 8 = true →
    ∃ t, exec (.registerWrite w false 0x1F0028#24 true v) s = .next t ∧ t.rd PW_TIMER_LO_COUNT = v.toNat % 2 ^ 32 ∧
      t.rd PW_TIMER_HI_COUNT = v.toNat / 2 ^ 32 ∧ t.pw = s.pw) ∧
  (∀ w v s, s.serves w 0x00002C 4 = true →
    ∃ t, exec (.registerWrite w false 0x00002C#24 false v) s = .next t ∧ t.rd SYS_SD_CNT_REJECTS = s.rd SYS_SD_CNT_REJECTS ∧
      t.rd SYS_SD_CNT_IGNORED = s.rd SYS_SD_CNT_IGNORED) ∧
  (∀ (c : Fin 32) (k : Fin 8) (u : Fin 16) w v s,
    ∀ f ∈ [SYS_XING_SEL_XING, GP_SD_SET_SD_SET u, GP_SD_CLR_SD_CLR u, GP_CNT_SEL_PAIR, GP_OH_SEL_K, MC_FC_REF_REFRESH c,
      MC_STATION_LO_ADDR_LO c, MC_STATION_HI_ADDR_HI c, MC_WAKE_MAGIC_MAGIC_EN, MC_WAKE_VAL_VALUE u c, MC_WAKE_MASK_MASK u (c / 8), MT_SEL_METER, MT_CIR_CIR,
      MT_CBS_CBS, MT_PIR_PIR, MT_PBS_PBS, SC_CH_PACE_PACE_MBPS c, TG_CNT_SEL_CHAN, HR_CTX_SEL_CTX, CX_SEL_CTX, CC_CTRL_LEASE_US,
      CC_PEND_SEL_CONSUMER, TB_CTRL_WANT_US, TM_SET_NS_NS, TM_SET_S_LO_S_LO, TM_SET_S_HI_S_HI, TM_OFFSET_NS, TM_STEP_NS_STEP_NS,
      TM_AON_PERIOD_PERIOD, TM_TX_CORR_CORR c, PC_EXPORT_LO_ADDR, PC_EXPORT_HI_ADDR, PC_FLT_BASE_LO_BASE k, PC_FLT_LIMIT_HI_LIMIT k,
      NY_WDT_WDT_US, NY_EYE_THR_CODE, NY_LOG_HI_WM, NY_LOG_MASK_MASK u, ST_UPD_ADDR_LO_ADDR, ST_UPD_LEN_LEN, PW_ACK_US_ACK_US,
      SV_CKPT_CKPT_US, SV_ROW_THR_CORR], s.serves w f.off 4 = true →
    ∃ t, exec (.registerWrite w false (BitVec.ofNat 24 f.off) false v) s = .next t ∧ t.sp = ⟨true, 0⟩ ∧ t.rd f = bits v.toNat f.lo f.w ∧
      Kept (f :: portCounts) s.settleBeats t) ∧
  (∀ w v s, ∀ f ∈ [SYS_FAB_EVT_TMO, SYS_FAB_EVT_SD_DONE, LN_EVT_LANE_UP, LN_EVT_LANE_DOWN, LN_EVT_SPARE_DONE, TF_EVT_LOF, TF_EVT_GFP_SYNC,
      GP_EVT_GRP_CHG, GP_EVT_SEC, MC_EVT_PAUSE_WD, MC_EVT_SHADE_REJ, CL_EVT_TORN, CL_EVT_UPD_DONE, SC_EVT_GUARD, TG_EVT_OVERRUN, HR_EVT_CMD_DONE,
      HR_EVT_DB_REJ, CX_EVT_FROZEN, CX_EVT_SHADE_REJ, CC_EVT_BREAK, CC_EVT_REJ, TB_EVT_CYCLE, LG_EVT_CUT_DONE, TM_EVT_PPS, TM_EVT_STEP,
      MD_EVT_HALT, CU_EVT_MISMATCH, NY_EVT_DROOP, NY_EVT_CLK, ST_EVT_UPD_DONE, PW_EVT_PARKED, PW_WAKE_SRC_SRC, SV_EVT_DONE, SV_EVT_ROW_EXH],
    s.serves w f.off 4 = true →
    ∃ t, exec (.registerWrite w false (BitVec.ofNat 24 f.off) false v) s = .next t ∧ t.sp = ⟨true, 0⟩ ∧
      t.rd f = s.rd f - (s.rd f &&& bits v.toNat f.lo f.w)) ∧
  (∀ w (x : Fin 4096) wide v q s, s.servesDoorbell w (4096 * x) (if wide then 8 else 4) = true → s.dbReason x (dbValue wide v) = 0 →
    s.poolQ x (bits (dbValue wide v) 16 6) (bitN (dbValue wide v) 22 == 1) = some q →
    ∃ t, exec (.registerWrite w true (BitVec.ofNat 24 (4096 * x)) wide v) s = .next t ∧ t.sp = ⟨true, 0⟩ ∧
      (t.q q).pi = dbValue wide v % 2 ^ 16 ∧ (∀ j, j ≠ q → t.q j = s.q j)) ∧
  (∀ w off wide k s, s.serves w (BitVec.toNat off) (if wide then 8 else 4) = false →
    exec (.rcRead w false off wide k) s = .next { s with sp := ⟨false, 0⟩ }) ∧
  (∀ w s, s.serves w 0x00002C 4 = true →
    ∃ t, exec (.rcRead w false 0x00002C#24 false .accepted) s = .next t ∧
      t.sp = ⟨true, s.rd SYS_SD_CNT_REJECTS + s.rd SYS_SD_CNT_IGNORED * 2 ^ 16⟩ ∧ t.rd SYS_SD_CNT_REJECTS = 0 ∧ t.rd SYS_SD_CNT_IGNORED = 0) ∧
  (∀ w s, s.serves w 0x00002C 4 = true → w.master ≠ 256 →
    ∃ t, exec (.rcRead w false 0x00002C#24 false .failed) s = .next t ∧ t.sp = ⟨false, 0⟩ ∧
      t.rd SYS_SD_CNT_REJECTS = upBy s SYS_SD_CNT_REJECTS 0 ∧ t.rd SYS_SD_CNT_IGNORED = upBy s SYS_SD_CNT_IGNORED 0) ∧
  (∀ w s, s.serves w 0x00002C 4 = true →
    ∃ t, exec (.rcRead w false 0x00002C#24 false .held) s = .next t ∧ t.sp.okay = true ∧ t.rd SYS_SD_CNT_REJECTS = 0 ∧
      t.rd SYS_SD_CNT_IGNORED = 0 ∧ t.transit.drop (t.transit.length - 2) = [⟨w.master, 0x2C, 0, 16, false, s.rd SYS_SD_CNT_REJECTS, 0x2C, 0⟩,
        ⟨w.master, 0x2C, 16, 16, false, s.rd SYS_SD_CNT_IGNORED, 0x2C, 0⟩]) ∧
  (∀ w off s, s.serves w (BitVec.toNat off) 4 = false → exec (.lowWordRead w off) s = .next { s with sp := ⟨false, 0⟩ }) ∧
  (∀ w s, s.serves w 0x000048 4 = true →
    ∃ t, exec (.lowWordRead w 0x000048#24) s = .next t ∧
      t.sp = ⟨true, s.rd64 SYS_HB_COUNT_LO_HB_COUNT SYS_HB_COUNT_HI_HB_COUNT % 2 ^ 32⟩ ∧
      optGet t.latch 0x48 = some (s.rd64 SYS_HB_COUNT_LO_HB_COUNT SYS_HB_COUNT_HI_HB_COUNT / 2 ^ 32)) ∧
  (∀ w h s, s.serves w 0x00004C 4 = true → optGet s.latch 0x48 = some h →
    ∃ t, exec (.rcRead w false 0x00004C#24 false .accepted) s = .next t ∧ t.sp = ⟨true, h⟩) ∧
  (∀ (c : Fin 32) (k : Fin 8) (u : Fin 12) w a s,
    ∀ f ∈ [SYS_FAB_LATE_COUNT, SYS_FAB_PROTO_CNT_COUNT, LN_CFG_REJ_COUNT, GP_CFG_REJ_COUNT, CL_MISS_CNT_COUNT k, CL_TBL_PROTO_COUNT, CL_CFG_REJ_COUNT,
      FB_CFG_REJ_COUNT, FB_PC_DROP_COUNT c, SC_CFG_REJ_COUNT, SC_GUARD_CNT_COUNT, HR_CFG_REJ_COUNT, HR_NT_FAIL_COUNT, CC_REJ_COUNT, TB_REJ_COUNT,
      LG_LATE_COUNT, TM_PPS_GLITCH_COUNT, HB_IGN_CNT_COUNT, HB_REDIR_CNT_COUNT, HB_CFG_REJ_COUNT, MD_CFG_REJ_COUNT, MD_CH_CNT_DESC k,
      CU_CFG_REJ_COUNT, NY_DROOP_CNT_COUNT u, NY_BG_MISS_COUNT k, ST_REJ_COUNT, SV_REJ_COUNT], s.serves w f.off 4 = true →
    ∃ t, exec (.rcRead w false (BitVec.ofNat 24 f.off) false a) s = .next t ∧ t.rd f = (if takenBy a w = .failed then upBy s f 0 else 0) ∧
      t.sp = (if takenBy a w = .failed then ⟨false, 0⟩ else ⟨true, s.rd f⟩) ∧
      (takenBy a w = .held → t.transit.getLast? = some ⟨w.master, f.off, 0, f.w, false, s.rd f, f.off, 0⟩) ∧ Kept (f :: portCounts) s.settleBeats t) ∧
  (∀ w (c : Fin 32) (j : Fin 64) s, s.serves w (0x064000 + 512 * c + 8 * j) 4 = true →
    ∃ t, exec (.lowWordRead w (BitVec.ofNat 24 (0x064000 + 512 * c + 8 * j))) s = .next t ∧
      t.sp = ⟨true, s.rd64 (MC_STAT_LO_COUNT c j) (MC_STAT_HI_COUNT c j) % 2 ^ 32⟩ ∧
      optGet t.latch (0x064000 + 512 * c + 8 * j) = some (s.rd64 (MC_STAT_LO_COUNT c j) (MC_STAT_HI_COUNT c j) / 2 ^ 32) ∧
      t.rd (MC_STAT_LO_COUNT c j) = 0 ∧ t.rd (MC_STAT_HI_COUNT c j) = 0 ∧
      Kept ([MC_STAT_LO_COUNT c j, MC_STAT_HI_COUNT c j] ++ portCounts) s.settleBeats t) ∧
  (∀ w (x : Fin 4096) s, s.servesDoorbell w (4096 * x + 0x10) 4 = true →
    ∃ t, exec (.rcRead w true (BitVec.ofNat 24 (4096 * x + 0x10)) false .accepted) s = .next t ∧ t.sp = ⟨true, s.ctxWord x⟩ ∧ Kept portCounts s.settleBeats t)

/-- Lane words (R16, R18 to R20, R66, R79): a word of a lane in `UP`, inverted where the descriptor says so, enters the lane's alignment
line and its symbol errors are counted; while the slice stands it waits in the crossing, or is lost and counted where that is full; a lane
in another state captures nothing; a transmitting lane of a position of its own sends the word offered, or zeros with an underflow counted.
Lanes up and down (R68, R69): a lane in `DOWN` whose inputs have been steady for `LANE_UP_US` is `UP`, and one in `UP` that loses an input
is `DOWN`, counted; both are reported for the port; a channel aligned without a fault for `LINK_UP_US` has its link up (R78). The time at
which a timed command leaves the clock is the model's choice (log entry 2). What log entries 53, 79, 105 choose is the model's choice.
Completes: rxLaneWord, txLaneWord, laneUp, laneDown, linkUp. -/
def Obligations.Lanes : Prop :=
  (∀ (i : Fin 36) x s, s.laneUp i = false → exec (.rxLaneWord i x) s = .next s) ∧
  (∀ (i : Fin 36) x s, let d := leBytes 32 (if s.sdField (0x200 + 4 * i) 1 1 = 1 then ~~~x.word else x.word).toNat
    s.laneUp i = true → s.otherLeg i = none → s.islandRuns (if s.mainLeg i < 64 then i / 9 else 4) = true → s.leg (s.mainLeg i) = [] →
    ∃ t, exec (.rxLaneWord i x) s = .next t ∧ (t.lane i).words = (s.lane i).words + 1 ∧
      (t.lane i).hist = ((s.lane i).hist ++ d).drop (((s.lane i).hist ++ d).length - 1024) ∧
      t.rd (LN_SYM_ERR_COUNT i) = upBy s (LN_SYM_ERR_COUNT i) x.symErr) ∧
  (∀ (i : Fin 36) x s, let d := leBytes 32 (if s.sdField (0x200 + 4 * i) 1 1 = 1 then ~~~x.word else x.word).toNat
    s.laneUp i = true → s.otherLeg i = none → s.islandRuns (if s.mainLeg i < 64 then i / 9 else 4) = false →
    ∃ t, exec (.rxLaneWord i x) s = .next t ∧ t.lane i = s.lane i ∧
      (if (s.leg (s.mainLeg i)).length < 16
        then t.leg (s.mainLeg i) = s.leg (s.mainLeg i) ++ [⟨s.sys.gap.contains (s.mainLeg i), d, x⟩]
        else t.leg (s.mainLeg i) = s.leg (s.mainLeg i) ∧ t.sys.gap.contains (s.mainLeg i) = true ∧
          t.rd (SYS_XING_OVF_OVF (s.mainLeg i)) = upBy s (SYS_XING_OVF_OVF (s.mainLeg i)) 1)) ∧
  (∀ (i : Fin 36) x s, s.rd (LN_LANE_STAT_TX_IDLE i) = 1 → exec (.txLaneWord i x) s = .next s) ∧
  (∀ (i : Fin 36) v s, s.rd (LN_LANE_STAT_TX_IDLE i) ≠ 1 → (s.lane i).txClk = true → s.laneAt (i / 9) (s.sendsFor i) = some i.val →
    s.tMode (i / 9) = false → s.txCrossing i = true → s.laneWants i = true → ∃ t, exec (.txLaneWord i (some v)) s = .next t ∧
      Kept [SYS_XING_STAT_OCC_MAX (s.txXing i), SYS_XING_STAT_LAT_MAX (s.txXing i)] s t ∧
      (∀ c, s.chanAt (i / 9) (s.sendsFor i) = some c → (t.lane i).signal = s.rsSends c) ∧
      (t.lane i).ltx = (leBytes 32 v.toNat).map (fun b => if s.sdField (0x200 + 4 * i) 2 1 = 1 then ~~~b else b)) ∧
  (∀ (i : Fin 36) s, s.rd (LN_LANE_STAT_TX_IDLE i) ≠ 1 → (s.lane i).txClk = true → s.laneAt (i / 9) (s.sendsFor i) = some i.val →
    s.tMode (i / 9) = false → s.laneWants i = true → ∃ t, exec (.txLaneWord i none) s = .next t ∧
      t.rd (SYS_XING_OVF_OVF (s.txXing i)) = upBy s (SYS_XING_OVF_OVF (s.txXing i)) 1 ∧ Kept [SYS_XING_OVF_OVF (s.txXing i)] s t ∧
      (t.lane i).ltx = List.replicate 32 (if s.sdField (0x200 + 4 * i) 2 1 = 1 then 0xFF else 0)) ∧
  (∀ (i : Fin 36) s, s.rd (LN_LANE_STAT_STATE i) = lnDOWN → s.pw.idle.getLsbD (i / 9) = false →
    ∃ t, exec (.laneUp i) s = .next t ∧ t.laneUp i = true ∧ t.bit LN_EVT_LANE_UP (i / 9) = true ∧ t.is (LN_LANE_STAT_SD i) = true ∧
      t.is (LN_LANE_STAT_LOCK i) = true ∧ t.tm.tick = max s.tm.tick ((s.lane i).since + usTicks (s.rd LN_TIMING_LANE_UP_US))) ∧
  (∀ (i : Fin 36) sd lock rc tc s, s.laneUp i = true → (sd && lock && rc && tc) = false →
    ∃ t, exec (.laneDown i sd lock rc tc) s = .next t ∧ t.rd (LN_LANE_STAT_STATE i) = lnDOWN ∧
      t.rd (LN_LANE_STAT_DOWN_CNT i) = upBy s (LN_LANE_STAT_DOWN_CNT i) 1 ∧ t.bit LN_EVT_LANE_DOWN (i / 9) = true ∧
      t.is (LN_LANE_STAT_SD i) = sd ∧ t.is (LN_LANE_STAT_LOCK i) = lock ∧ (t.lane i).since = s.tm.tick) ∧
  (∀ (i : Fin 36) s, ∃ t, exec (.laneDown i true true true true) s = .next t ∧ t.rd (LN_LANE_STAT_STATE i) = s.rd (LN_LANE_STAT_STATE i) ∧
    t.rd (LN_LANE_STAT_DOWN_CNT i) = s.rd (LN_LANE_STAT_DOWN_CNT i)) ∧
  (∀ (c : Fin 32) s, s.portRuns (c / 8) = true → s.rd (LN_CHAN_STAT_STATE c) = 2 → s.is (LN_CHAN_STAT_LF_RX c) = false →
    s.is (LN_CHAN_STAT_RF_RX c) = false → s.is (LN_CHAN_STAT_LINK c) = false → ∃ t, exec (.linkUp c) s = .next t ∧ t.is (LN_CHAN_STAT_LINK c) = true ∧
      t.bit LN_EVT_LINK_UP (c / 8) = true ∧ t.tm.tick = max s.tm.tick ((s.ch c).linkSince + usTicks (s.rd LN_TIMING_LINK_UP_US)))

/-- Port and channel configuration (R70, R74, R75): `T_MODE` is taken only while the port is off, the fields of a channel only while it is
off, and a channel that fails its checks stays off with an error shown and counted. Alignment and link of an E-mode channel (R76, R77):
marker lock within the skew aligns, beyond it shows an error; loss of alignment or a fault sequence takes the link down and counts it.
Completes: portCfgWrite, chanCfgWrite, alignmentLock, alignmentLost, rxFaultSequence. -/
def Obligations.PortsChannelsAndAlignment : Prop :=
  (∀ w (p : Fin 4) v s, s.serves w (0x020000 + 4 * p) 4 = true → s.portOn p = false →
    ∃ t, exec (.portCfgWrite w p v) s = .next t ∧ t.sp = ⟨true, 0⟩ ∧ t.portOn p = v.getLsbD 0 ∧ t.tMode p = v.getLsbD 1 ∧
      t.rd LN_CFG_REJ_COUNT = s.rd LN_CFG_REJ_COUNT) ∧
  (∀ w (p : Fin 4) v s, s.serves w (0x020000 + 4 * p) 4 = true → s.portOn p = true →
    ∃ t, exec (.portCfgWrite w p v) s = .next t ∧ t.sp = ⟨true, 0⟩ ∧ t.portOn p = v.getLsbD 0 ∧ t.tMode p = s.tMode p ∧
      t.rd LN_CFG_REJ_COUNT = (if bitN v.toNat 1 = s.rd (LN_PORT_CFG_T_MODE p) then s.rd LN_CFG_REJ_COUNT else upBy s LN_CFG_REJ_COUNT 1)) ∧
  (∀ w (c : Fin 32) v s, s.serves w (0x020100 + 4 * c) 4 = true → s.is (LN_CHAN_CFG_EN c) = false →
    let u := (s.wr (LN_CHAN_CFG_SPEED c) (bits v.toNat 1 3)).wr (LN_CHAN_CFG_FIRST c) (bits v.toNat 4 3)
    ∃ t, exec (.chanCfgWrite w c v) s = .next t ∧ t.sp = ⟨true, 0⟩ ∧ t.rd (LN_CHAN_CFG_SPEED c) = bits v.toNat 1 3 ∧
      t.rd (LN_CHAN_CFG_FIRST c) = bits v.toNat 4 3 ∧ t.is (LN_CHAN_CFG_EN c) = (v.getLsbD 0 && u.chanOk c) ∧
      (v.getLsbD 0 = true → u.chanOk c = false →
        t.is (LN_CHAN_STAT_CFG_ERR c) = true ∧ t.rd LN_CFG_REJ_COUNT = upBy s LN_CFG_REJ_COUNT 1)) ∧
  (∀ w (c : Fin 32) v s, s.serves w (0x020100 + 4 * c) 4 = true → s.is (LN_CHAN_CFG_EN c) = true →
    ∃ t, exec (.chanCfgWrite w c v) s = .next t ∧ t.sp = ⟨true, 0⟩ ∧ t.is (LN_CHAN_CFG_EN c) = v.getLsbD 0 ∧
      t.rd (LN_CHAN_CFG_SPEED c) = s.rd (LN_CHAN_CFG_SPEED c) ∧ t.rd (LN_CHAN_CFG_FIRST c) = s.rd (LN_CHAN_CFG_FIRST c)) ∧
  (∀ (c : Fin 32) a s, s.rd (LN_CHAN_STAT_STATE c) = 1 → s.rxRuns (c / 8) = true →
    (∀ x ∈ a, ∀ y ∈ a, BitVec.toNat x ≤ BitVec.toNat y + 200 * 2 ^ 16) →
    ∃ t, exec (.alignmentLock c a) s = .next t ∧ t.rd (LN_CHAN_STAT_STATE c) = 2 ∧ (t.ch c).linkSince = s.tm.tick ∧
      (t.ch c).deskew = deskews (a.map (·.toNat)) ∧ Kept [LN_CHAN_STAT_STATE c] s t) ∧
  (∀ (c : Fin 32) a s, s.rd (LN_CHAN_STAT_STATE c) = 1 → s.rxRuns (c / 8) = true →
    (∃ x ∈ a, ∃ y ∈ a, BitVec.toNat y + 200 * 2 ^ 16 < BitVec.toNat x) →
    ∃ t, exec (.alignmentLock c a) s = .next t ∧ t.is (LN_CHAN_STAT_SKEW_ERR c) = true ∧ Kept [LN_CHAN_STAT_SKEW_ERR c] s t) ∧
  (∀ (c : Fin 32) s, s.rd (LN_CHAN_STAT_STATE c) = 2 → s.rxRuns (c / 8) = true → s.is (LN_CHAN_STAT_LINK c) = true →
    ∃ t, exec (.alignmentLost c) s = .next t ∧ (t.ch c).alignLost = true ∧ t.rd (LN_CHAN_STAT_STATE c) = 1 ∧ t.is (LN_CHAN_STAT_LINK c) = false ∧
      t.is (LN_CHAN_STAT_LF_RX c) = false ∧ t.is (LN_CHAN_STAT_RF_RX c) = false ∧ t.bit LN_EVT_LINK_DOWN (c / 8) = true ∧
      t.rd (LN_CHAN_STAT_LINK_DOWN_CNT c) = upBy s (LN_CHAN_STAT_LINK_DOWN_CNT c) 1 ∧
      Kept [LN_CHAN_STAT_LINK c, LN_EVT_LINK_DOWN, LN_CHAN_STAT_LINK_DOWN_CNT c, LN_CHAN_STAT_LF_RX c, LN_CHAN_STAT_RF_RX c,
        LN_CHAN_STAT_STATE c] s t) ∧
  (∀ (c : Fin 32) lf rf s, s.rd (LN_CHAN_STAT_STATE c) = 2 → s.rxRuns (c / 8) = true →
    ∃ t, exec (.rxFaultSequence c lf rf) s = .next t ∧ t.is (LN_CHAN_STAT_LF_RX c) = lf ∧ t.is (LN_CHAN_STAT_RF_RX c) = rf ∧
      t.is (LN_CHAN_STAT_LINK c) = (s.is (LN_CHAN_STAT_LINK c) && !lf && !rf) ∧ (t.ch c).linkSince = s.tm.tick)

/-- Commands of the spare lane (R81, R82): a substitution from `IDLE`, a release or a restoration from `ACTIVE` and an abort of a running
operation act; any of them in another state is refused with result 1 and counted. Matching and switching of the spare lane (R80, R81): four
words of the copy that equal the line in use at an offset in range are a match; after `CONFIRM_W` × 256 further equal words the lane is
switched at a word boundary; a match not found in `MATCH_US` is forced where `FORCE` says so and ends the operation otherwise. The time at
which a timed command leaves the clock is the model's choice (log entry 2). What log entries 17, 31, 32, 87, 100, 101, 122 choose is the
model's choice. Completes: lnSubstitute, txRelease, lnRestore, spareAbort, spareMatch, spareConfirmDone, spareMatchTimeout, spareSwitch. -/
def Obligations.SpareLanes : Prop :=
  (∀ w (p : Fin 4) v s, s.serves w (0x020400 + 8 * p) 4 = true → s.spState p = pIDLE → s.spareArg p (bits v.toNat 4 3) = true →
    s.evacOf p = false → ∃ t, exec (.lnSubstitute w p v) s = .next t ∧ t.sp = ⟨true, 0⟩ ∧
      t.spState p = (if v.getLsbD 8 then pMATCH else pSWITCH) ∧ t.rd (LN_SPARE_STAT_STOOD_POS p) = bits v.toNat 4 3 ∧
      t.is (LN_SPARE_STAT_TX_BRIDGED p) = v.getLsbD 10 ∧ t.spare p = { since := s.tm.tick, bridge := v.getLsbD 10 }) ∧
  (∀ w (p : Fin 4) v s, s.serves w (0x020400 + 8 * p) 4 = true → s.spState p = pACTIVE →
    ∃ t, exec (.txRelease w p v) s = .next t ∧ t.sp = ⟨true, 0⟩ ∧ t.spState p = pACTIVE ∧ t.is (LN_SPARE_STAT_TX_BRIDGED p) = false ∧
      t.spare p = s.spare p) ∧
  (∀ w (p : Fin 4) v s, s.serves w (0x020400 + 8 * p) 4 = true → s.spState p = pACTIVE →
    ∃ t, exec (.lnRestore w p v) s = .next t ∧ t.sp = ⟨true, 0⟩ ∧ t.spState p = (if v.getLsbD 8 then pMATCH else pSWITCH) ∧
      t.is (LN_SPARE_STAT_TX_BRIDGED p) = true ∧ t.spare p = { reverse := true, since := s.tm.tick, bridge := true }) ∧
  (∀ w (p : Fin 4) v s, s.serves w (0x020400 + 8 * p) 4 = true → s.spState p ≠ pIDLE → s.spState p ≠ pACTIVE →
    ∃ t, exec (.spareAbort w p v) s = .next t ∧ t.sp = ⟨true, 0⟩ ∧ t.rd (LN_SPARE_STAT_RESULT p) = 7 ∧ t.bit LN_EVT_SPARE_DONE p = true ∧
      t.spState p = pIDLE ∧ t.spare p = {}) ∧
  (∀ w (p : Fin 4) v s, s.serves w (0x020400 + 8 * p) 4 = true →
    ∀ c, (c = Instr.lnSubstitute w p v ∧ s.spState p ≠ pIDLE) ∨ (c = .txRelease w p v ∧ s.spState p ≠ pACTIVE) ∨
      (c = .lnRestore w p v ∧ s.spState p ≠ pACTIVE) ∨ (c = .spareAbort w p v ∧ (s.spState p = pIDLE ∨ s.spState p = pACTIVE)) →
    ∃ t, exec c s = .next t ∧ t.sp = ⟨true, 0⟩ ∧ t.rd (LN_SPARE_STAT_RESULT p) = 1 ∧ t.rd LN_CFG_REJ_COUNT = upBy s LN_CFG_REJ_COUNT 1 ∧
      t.spare p = s.spare p ∧ Kept ([LN_SPARE_STAT_RESULT p, LN_CFG_REJ_COUNT] ++ portCounts) s.settleBeats t) ∧
  (∀ (p : Fin 4) d s, let x := s.spare p
    let c := s.lane (s.spareLanes p).1
    let l := s.lane (s.spareLanes p).2
    let e : Int := if x.reverse then -BitVec.toInt d else BitVec.toInt d
    let ca := c.end_ - (-e).toNat
    let la := l.end_ - e.toNat
    s.spState p = pMATCH → s.portRuns p = true → -2047 ≤ BitVec.toInt d → BitVec.toInt d ≤ 2048 → 1024 ≤ ca → 1024 ≤ la →
    (c.bitsFrom (ca - 1024) 128).isSome = true →
    (if c.bitsFrom (ca - 1024) 128 = l.bitsFrom (la - 1024) 128
      then ∃ t, exec (.spareMatch p d) s = .next t ∧ t.spState p = pCONFIRM ∧ t.rd (LN_SPARE_STAT_OFFSET p) = d.toNat ∧
        t.spare p = { x with matched := true, copyAt := ca, lineAt := la, confirmed := 0 } ∧
        Kept [LN_SPARE_STAT_OFFSET p, LN_SPARE_STAT_STATE p] s t
      else exec (.spareMatch p d) s = .next s)) ∧
  (∀ (p : Fin 4) s, s.spState p = pCONFIRM → s.portRuns p = true → 256 * s.rd (LN_SPARE_CTRL_CONFIRM_W p) ≤ (s.spare p).confirmed → ∃ t, exec (.spareConfirmDone p) s = .next t ∧ t.spState p = pSWITCH ∧
    Kept [LN_SPARE_STAT_STATE p] s t) ∧
  (∀ (p : Fin 4) s, s.spState p = pMATCH → ∃ t, exec (.spareMatchTimeout p) s = .next t ∧
    t.tm.tick = max s.tm.tick ((s.spare p).since + usTicks (s.rd (LN_SPARE_CTRL_MATCH_US p))) ∧
    (if s.is (LN_SPARE_CTRL_FORCE p) = true then t.spState p = pSWITCH ∧ t.rd (LN_SPARE_STAT_RESULT p) = 6 ∧ (t.spare p).forced = true
      else t.rd (LN_SPARE_STAT_RESULT p) = 3 ∧ t.bit LN_EVT_SPARE_DONE p = true ∧ t.spState p = pIDLE)) ∧
  (∀ (p : Fin 4) s, s.spState p = pSWITCH → s.portRuns p = true → ∃ t, exec (.spareSwitch p) s = .next t ∧
    t.spState p = (if (s.spare p).reverse then pIDLE else pACTIVE) ∧ t.rd (LN_SPARE_STAT_RESULT p) = (if (s.spare p).forced then 6 else 0) ∧
    t.bit LN_EVT_SPARE_DONE p = true ∧ t.is (LN_SPARE_STAT_TX_BRIDGED p) = !(s.spare p).reverse ∧ t.is (LN_LANE_STAT_STANDS_IN ((s.laneAt p 8).getD 0)) = !(s.spare p).reverse)

/-- The receive framer (R97 to R99): a header that fits at the tested bit becomes a candidate, the third follow-up in a row brings `SYNC`, a
header in `SYNC` gives the frame count, and the fourth failure in a row brings `HUNT`, counted and reported; `REHUNT` does so at once; a
framer that is `OFF` hears nothing. The transmit framer (R87 to R91): where less than a frame waits, a transmitting position outside every
group builds one of 8,192 bytes whose header carries the next count; a position that does not transmit builds none. What log entries 92, 99,
129 choose is the model's choice. Completes: riltorHeaderCheck, rehunt, txRiltorFrame. -/
def Obligations.Framers : Prop :=
  (∀ (p : Fin 4) (l : Fin 8) n b (j : Nat) s, j = 8 * p.val + l.val → s.portRuns (j / 8) = false → exec (.riltorHeaderCheck p l n b) s = .next s) ∧
  (∀ (p : Fin 4) (l : Fin 8) n b (j : Nat) s, j = 8 * p.val + l.val → s.portRuns (j / 8) = true →
    s.rd (TF_FR_STAT_STATE j) = fOFF → exec (.riltorHeaderCheck p l n b) s = .next s.pairsEval) ∧
  (∀ (p : Fin 4) (l : Fin 8) n b (j : Nat) s, j = 8 * p.val + l.val → 0 < 256 * n + b.val → s.portRuns (j / 8) = true →
    s.rd (TF_FR_STAT_STATE j) = fHUNT → (s.fr j).has 12 = true →
    hdrFits ((s.fr j).bytes 12) = true → (s.fr j).cands = [] →
    ∃ t, exec (.riltorHeaderCheck p l n b) s = .next t ∧ t.rd (TF_FR_STAT_STATE j) = fPRESYNC ∧
      t.fr j = ({ s.fr j with cands := [⟨(s.fr j).pos, leNat ((s.fr j).bytes 12) 0 4, 1⟩] } : FrSt).nextBit) ∧
  (∀ (p : Fin 4) (l : Fin 8) n b (j : Nat) m s, j = 8 * p.val + l.val → 0 < 256 * n + b.val → s.portRuns (j / 8) = true →
    s.rd (TF_FR_STAT_STATE j) = fPRESYNC → (s.fr j).has 12 = true → hdrFits ((s.fr j).bytes 12) = true → (s.fr j).cands = [⟨(s.fr j).pos, m, 2⟩] → leNat ((s.fr j).bytes 12) 0 4 = (m + 1) % 2 ^ 32 →
    ∃ t, exec (.riltorHeaderCheck p l n b) s = .next t ∧ t.rd (TF_FR_STAT_STATE j) = fSYNC ∧
      t.rd (TF_FR_MFC_MFC j) = leNat ((s.fr j).bytes 12) 0 4 ∧ t.rd (TF_FR_STAT_FAILS j) = 0 ∧ t.bit TF_EVT_SYNC (j / 8) = true) ∧
  (∀ (p : Fin 4) (l : Fin 8) n b (j : Nat) s, let h := (s.fr j).bytes 12
    j = 8 * p.val + l.val → s.portRuns (j / 8) = true → s.rd (TF_FR_STAT_STATE j) = fSYNC → (s.fr j).frame = none →
    (s.fr j).has 12 = true → hdrFits h = true →
    ∃ t, exec (.riltorHeaderCheck p l n b) s = .next t ∧ t.rd (TF_FR_STAT_STATE j) = fSYNC ∧ t.rd (TF_FR_MFC_MFC j) = leNat h 0 4 ∧
      t.rd (TF_FR_STAT_FAILS j) = 0 ∧ (t.fr j).frame = some (leNat h 0 4, true, s.tm.now) ∧
      t.rd (TF_FR_EVCNT_MFC_JUMP j) = (if leNat h 0 4 = (s.rd (TF_FR_MFC_MFC j) + 1) % 2 ^ 32 then s.rd (TF_FR_EVCNT_MFC_JUMP j)
        else upBy s (TF_FR_EVCNT_MFC_JUMP j) 1)) ∧
  (∀ (p : Fin 4) (l : Fin 8) n b (j : Nat) s, let want := (s.rd (TF_FR_MFC_MFC j) + 1) % 2 ^ 32
    j = 8 * p.val + l.val → s.portRuns (j / 8) = true → s.rd (TF_FR_STAT_STATE j) = fSYNC → (s.fr j).frame = none → (s.fr j).has 12 = true →
    hdrFits ((s.fr j).bytes 12) = false → s.rd (TF_FR_STAT_FAILS j) < 3 →
    ∃ t, exec (.riltorHeaderCheck p l n b) s = .next t ∧ t.rd (TF_FR_STAT_STATE j) = fSYNC ∧ t.rd (TF_FR_MFC_MFC j) = want ∧
      t.rd (TF_FR_STAT_FAILS j) = s.rd (TF_FR_STAT_FAILS j) + 1 ∧ t.rd (TF_HCRC_ERR_COUNT j) = upBy s (TF_HCRC_ERR_COUNT j) 1 ∧
      (t.fr j).frame = some (want, false, s.tm.now)) ∧
  (∀ (p : Fin 4) (l : Fin 8) n b (j : Nat) s, j = 8 * p.val + l.val → s.portRuns (j / 8) = true → s.rd (TF_FR_STAT_STATE j) = fSYNC → (s.fr j).frame = none → (s.fr j).has 12 = true →
    hdrFits ((s.fr j).bytes 12) = false → s.rd (TF_FR_STAT_FAILS j) = 3 →
    ∃ t, exec (.riltorHeaderCheck p l n b) s = .next t ∧ t.rd (TF_FR_STAT_STATE j) = fHUNT ∧
      t.rd (TF_HCRC_ERR_COUNT j) = upBy s (TF_HCRC_ERR_COUNT j) 1 ∧ t.rd (TF_FR_EVCNT_LOF j) = upBy s (TF_FR_EVCNT_LOF j) 1 ∧
      t.bit TF_EVT_LOF (j / 8) = true ∧ (t.fr j).cands = []) ∧
  (∀ w (j : Fin 32) s, s.serves w (0x040000 + 4 * j) 4 = true → s.rd (TF_FR_STAT_STATE j) = fSYNC →
    ∃ t, exec (.rehunt w j) s = .next t ∧ t.sp = ⟨true, 0⟩ ∧ t.rd (TF_FR_STAT_STATE j) = fHUNT ∧
      t.rd (TF_FR_EVCNT_LOF j) = upBy s (TF_FR_EVCNT_LOF j) 1 ∧ t.bit TF_EVT_LOF (j / 8) = true ∧ (t.fr j).cands = []) ∧
  (∀ (j : Fin 32) s, s.tSends j = false ∨ 8192 ≤ (s.fr j).out.length → exec (.txRiltorFrame j) s = .next s) ∧
  (∀ (j : Fin 32) s, s.tSends j = true → (s.fr j).out.length < 8192 → s.groupOf j = none →
    ∃ t, exec (.txRiltorFrame j) s = .next t ∧ (t.fr j).out.length = (s.fr j).out.length + 8192 ∧
      (t.fr j).txMfc = ((s.fr j).txMfc + 1) % 2 ^ 32 ∧ (t.fr j).grpMfc = (s.fr j).grpMfc ∧
      ((t.fr j).out.drop (s.fr j).out.length).take 5 = leBytes 4 (s.fr j).txMfc ++ [0x20] ∧
      t.is (TF_FR_STAT_TX_RDI j) = (s.rd (TF_FR_STAT_STATE j) != fSYNC || s.is (TF_FR_CFG_FORCE_RDI j)))

/-- The GFP stream (R102, R105, R106, R109, R110): a core header that fits leads from `HUNT` to `PRESYNC`, a byte that begins none is
skipped, in `SYNC` it announces a frame, which runs under the `TF_GFP_CFG` of that moment; a frame that has arrived whole is taken out, an
idle one with nothing more to do and one of a client handed on with the position of its core header; a stream in `SYNC` for `LINK_UP_US` has
its link up. The time at which a timed command leaves the clock is the model's choice (log entry 2). What log entries 93, 107 choose is the
model's choice. Completes: gfpCoreHeader, gfpFrameReceived, gfpLinkUp. -/
def Obligations.GfpStream : Prop :=
  (∀ (c : Fin 32) s, s.portRuns (c / 8) = true → s.rd (TF_GFP_STAT_STATE c) = fHUNT → 4 ≤ (s.gfp c).buf.length →
    hecFits (coreAt (s.gfp c).buf 0) = true →
    ∃ t, exec (.gfpCoreHeader c) s = .next t ∧ t.rd (TF_GFP_STAT_STATE c) = fPRESYNC ∧
      t.gfp c = { s.gfp c with count := 0, ahead := 4 + coreAt (s.gfp c).buf 0 / 65536 }) ∧
  (∀ (c : Fin 32) s, s.portRuns (c / 8) = true → s.rd (TF_GFP_STAT_STATE c) = fHUNT → 4 ≤ (s.gfp c).buf.length →
    hecFits (coreAt (s.gfp c).buf 0) = false →
    ∃ t, exec (.gfpCoreHeader c) s = .next t ∧ t.gfp c = s.gfpSkip c 1 ∧ t.rd (TF_GFP_STAT_STATE c) = fHUNT) ∧
  (∀ (c : Fin 32) s, s.portRuns (c / 8) = true → s.rd (TF_GFP_STAT_STATE c) = fSYNC → 4 ≤ (s.gfp c).buf.length → (s.gfp c).pli = none →
    hecFits (coreAt (s.gfp c).buf 0) = true →
    ∃ t, exec (.gfpCoreHeader c) s = .next t ∧ t.rd (TF_GFP_STAT_STATE c) = fSYNC ∧
      (t.gfp c).pli = some (coreAt (s.gfp c).buf 0 / 65536) ∧ (t.gfp c).corePos = (s.gfp c).pos ∧ (t.gfp c).coreTime = s.framerTime c ∧
      (t.gfp c).coreTick = s.tm.tick ∧ (t.gfp c).cfg = s.readPlain (0x040180 + 4 * c) ∧ (t.gfp c).buf = (s.gfpSkip c 4).buf ∧
      (t.gfp c).pos = (s.gfpSkip c 4).pos ∧ (t.gfp c).clients = (s.gfp c).clients) ∧
  (∀ (c : Fin 32) n s, s.portRuns (c / 8) = true → s.rd (TF_GFP_STAT_STATE c) = fSYNC → (s.gfp c).pli = some n → n ≤ (s.gfp c).buf.length →
    ∃ t, exec (.gfpFrameReceived c) s = .next t ∧ (t.gfp c).pli = none ∧ (t.gfp c).buf = (s.gfp c).buf.drop n ∧
      (t.gfp c).pos = posAdd (((s.boundGroup c).map s.streamMod).getD 0) (s.gfp c).pos n ∧ (n = 0 → t.flds = s.flds) ∧
      (1 ≤ n → n < 4 → t.rd (TF_GFP_DISC_UNSUP c) = upBy s (TF_GFP_DISC_UNSUP c) 1)) ∧
  (∀ (c : Fin 32) n s, let d := (x43 true (s.gfp c).rxScr ((s.gfp c).buf.take n)).2
    s.portRuns (c / 8) = true → s.rd (TF_GFP_STAT_STATE c) = fSYNC → (s.gfp c).pli = some n → n ≤ (s.gfp c).buf.length →
    5 ≤ n → s.x43Off (s.gfp c).cfg = false → hecFits (beNat d 0 4) = true → beNat d 0 2 = 1 →
    ∃ t, exec (.gfpFrameReceived c) s = .next t ∧
      (t.gfp c).clients =
        (s.gfp c).clients ++ [⟨d.drop 4, false, false, (s.gfp c).corePos, (s.gfp c).coreTime, 0, (s.gfp c).coreTick, (s.gfp c).live⟩]) ∧
  (∀ (c : Fin 32) s, s.portRuns (c / 8) = true → s.rd (TF_GFP_STAT_STATE c) = fSYNC → s.is (TF_GFP_STAT_LINK c) = false →
    ∃ t, exec (.gfpLinkUp c) s = .next t ∧ t.is (TF_GFP_STAT_LINK c) = true ∧
      t.tm.tick = max s.tm.tick ((s.gfp c).since + usTicks (s.rd LN_TIMING_LINK_UP_US)))

/-- Groups (R112, R116 to R118, R121): an enable whose checks pass starts aligning, and one whose checks fail is refused with the error
shown; the groups of an enabled pair start together or not at all; a disable turns the group off; every segment that is complete reports its
spread; four good segments in a row bring the group up, a spread beyond 8 µs takes it down, and in `UP` a segment's bytes go to the
channel's stream. What log entries 96, 97, 98, 125, 126 choose is the model's choice. Completes: groupEnable, groupDisable, groupSegment. -/
def Obligations.GroupsAlign : Prop :=
  (∀ w (g : Fin 16) n id (c : Fin 32) s, s.serves w (grpOff g) 4 = true → s.is (GP_GRP_CFG_EN g) = false → s.partner g = none →
    let u := ((s.wr (GP_GRP_CFG_N g) n.toNat).wr (GP_GRP_CFG_GROUP_ID g) id.toNat).wr (GP_GRP_CFG_CHAN g) c
    ∃ t, exec (.groupEnable w g n id c) s = .next t ∧ t.sp = ⟨true, 0⟩ ∧ t.rd (GP_GRP_CFG_N g) = n.toNat ∧
      t.rd (GP_GRP_CFG_GROUP_ID g) = id.toNat ∧ t.rd (GP_GRP_CFG_CHAN g) = c ∧ t.rd (GP_GRP_STAT_CFG_ERR g) = u.grpErr g ∧
      t.is (GP_GRP_CFG_EN g) = decide (u.grpErr g = 0) ∧
      (if u.grpErr g = 0 then t.gState g = gALIGNING else t.rd GP_CFG_REJ_COUNT = upBy s GP_CFG_REJ_COUNT 1)) ∧
  (∀ w (g h : Fin 16) n id (c : Fin 32) s, s.serves w (grpOff g) 4 = true → s.is (GP_GRP_CFG_EN g) = false → s.partner g = some h.val →
    let u := ((s.wr (GP_GRP_CFG_N g) n.toNat).wr (GP_GRP_CFG_GROUP_ID g) id.toNat).wr (GP_GRP_CFG_CHAN g) c
    let own := u.grpErr g
    let other := (u.wr (GP_GRP_CFG_EN g) 1).grpErr h
    ∃ t, exec (.groupEnable w g n id c) s = .next t ∧ t.sp = ⟨true, 0⟩ ∧
      (if own = 0 ∧ other = 0
        then (∀ i, i = g ∨ i = h → t.is (GP_GRP_CFG_EN i) = true ∧ t.gState i = gALIGNING ∧ t.rd (GP_GRP_STAT_CFG_ERR i) = 0)
        else t.is (GP_GRP_CFG_EN g) = false ∧ t.rd GP_CFG_REJ_COUNT = upBy s GP_CFG_REJ_COUNT 1 ∧
          t.rd (GP_GRP_STAT_CFG_ERR h) = (if other = 0 then 6 else other) ∧
          (h ≠ g → t.rd (GP_GRP_STAT_CFG_ERR g) = (if own = 0 then 6 else own)))) ∧
  (∀ w (g : Fin 16) s, s.serves w (grpOff g) 4 = true → s.is (GP_GRP_CFG_EN g) = true →
    (∀ h ∈ s.together g, h < 16 ∧ s.rd (GP_GRP_CFG_CHAN h) < 32) →
    ∃ t, exec (.groupDisable w g) s = .next t ∧ t.sp = ⟨true, 0⟩ ∧ t.is (GP_GRP_CFG_EN g) = false ∧ t.gState g = gOFF ∧
      t.rd (TF_GFP_STAT_STATE (s.rd (GP_GRP_CFG_CHAN g))) = fOFF ∧ t.bit GP_EVT_GRP_CHG g = true) ∧
  (∀ (g : Fin 16) m ts s, s.is (GP_GRP_CFG_EN g) = true → s.portRuns (s.rd (GP_GRP_CFG_CHAN g) / 8) = true → s.segReady g = some (m, ts) →
    ∃ t, exec (.groupSegment g) s = .next t ∧ t.rd (GP_GRP_SKEW_SPREAD_NS g) = min 0xFFFF (segSpread ts)) ∧
  (∀ (g : Fin 16) m ts s, s.is (GP_GRP_CFG_EN g) = true → s.portRuns (s.rd (GP_GRP_CFG_CHAN g) / 8) = true → s.segReady g = some (m, ts) →
    s.gState g = gALIGNING → segSpread ts ≤ 8000 → (∀ j ∈ s.members g, s.qualifies j g = true) →
    (s.grp g).good = 0 ∨ (s.grp g).next = m →
    ∃ t, exec (.groupSegment g) s = .next t ∧
      (if (s.grp g).good < 3 then t.gState g = gALIGNING ∧ (t.grp g).good = (s.grp g).good + 1
        else t.gState g = gUP ∧ t.bit GP_EVT_GRP_CHG g = true ∧ (t.grp g).next = (m + 1) % 2 ^ 32)) ∧
  (∀ (g : Fin 16) m ts s, s.is (GP_GRP_CFG_EN g) = true → s.portRuns (s.rd (GP_GRP_CFG_CHAN g) / 8) = true → s.segReady g = some (m, ts) →
    s.gState g = gUP → 8000 < segSpread ts →
    ∃ t, exec (.groupSegment g) s = .next t ∧ t.gState g = gALIGNING ∧ t.rd (GP_GRP_STAT_CAUSE g) = 4 ∧
      t.rd (GP_GRP_STAT_DOWN_CNT g) = upBy s (GP_GRP_STAT_DOWN_CNT g) 1 ∧ t.bit GP_EVT_GRP_CHG g = true) ∧
  (∀ (g : Fin 16) m ts s, s.is (GP_GRP_CFG_EN g) = true → s.portRuns (s.rd (GP_GRP_CFG_CHAN g) / 8) = true → s.segReady g = some (m, ts) →
    s.gState g = gUP → segSpread ts ≤ 8000 →
    ∃ t, exec (.groupSegment g) s = .next t ∧ t.gState g = gUP ∧ (t.grp g).next = (m + 1) % 2 ^ 32 ∧
      (t.gfp (s.rd (GP_GRP_CFG_CHAN g))).buf = (s.gfp (s.rd (GP_GRP_CFG_CHAN g))).buf ++ s.segBytes g m)

/-- Pairs (R121, R128): an enable is taken where the pair's groups allow it, and otherwise refused, counted and without effect; on an
enabled pair without far-end requests, conditions or timers each command gives its request and selection; a condition acts when its hold-off
ends, and the end of the wait-to-restore timer selects the working group again. The hinge (R122 to R125): a copy below the next position is
a duplicate and leaves; while the pair is not aligned the selected side's copies pass at once, hold no cells any more, and the other side's
leave; the first one passed after a switch to a side that led is a hit, with the bytes it skipped; a lone copy that has waited `WAIT_NS`
passes and is counted. The time at which a timed command leaves the clock is the model's choice (log entry 2). What log entries 14, 24, 94,
95, 98, 123, 127 choose is the model's choice. Completes: pairEnable, hingeCopyArrival, hingeWaitExpiry, pairCmdNone, pairCmdLo, pairCmdFs,
pairCmdMsProtect, pairCmdMsWorking, pairCmdExer, holdoffExpiry, wtrExpiry. -/
def Obligations.PairsSwitchAndHingePasses : Prop :=
  (∀ w (k : Fin 8) v s, let u := s.writePlain (0x041300 + 16 * k) (v.toNat ||| 1)
    s.serves w (0x041300 + 16 * k) 4 = true →
    ∃ t, exec (.pairEnable w k v) s = .next t ∧ t.sp = ⟨true, 0⟩ ∧
      (if u.pairOk k = true
        then t.is (GP_PAIR_CFG_EN k) = true ∧ t.rd (GP_PAIR_CFG_WORK k) = u.rd (GP_PAIR_CFG_WORK k) ∧
          t.rd (GP_PAIR_CFG_PROT k) = u.rd (GP_PAIR_CFG_PROT k)
        else t.rd GP_CFG_REJ_COUNT = upBy s GP_CFG_REJ_COUNT 1 ∧ t.pairs = s.pairs ∧ Kept (GP_CFG_REJ_COUNT :: portCounts) s.settleBeats t)) ∧
  (∀ w (k : Fin 8) s, s.serves w (pairCmdOff k) 4 = true → s.coreUp = true → s.is (GP_PAIR_CFG_EN k) = true → s.is (GP_PAIR_CFG_BIDIR k) = false →
    s.condNow k = [] → (s.pair k).entered = [] → (s.pair k).wtr = none → (s.pair k).dnr = false →
    ∀ e ∈ [(Instr.pairCmdNone w k, 0, 0, false), (.pairCmdLo w k, 1, 15, false), (.pairCmdFs w k, 2, 13, true),
      (.pairCmdMsProtect w k, 3, 8, true), (.pairCmdMsWorking w k, 4, 8, false), (.pairCmdExer w k, 5, 4, s.is (GP_PAIR_STAT_SEL k))],
    ∃ t, exec e.1 s = .next t ∧ t.sp = ⟨true, 0⟩ ∧ t.rd (GP_PAIR_CMD_CMD k) = e.2.1 ∧ t.rd (GP_PAIR_STAT_TOP k) = e.2.2.1 ∧
      t.is (GP_PAIR_STAT_SEL k) = e.2.2.2) ∧
  (∀ (k : Fin 8) (i : Fin 4) a s, let c := [14, 12, 11, 10].getD i.val 0
    s.coreUp = true → (s.pair k).conds.find? (fun e => e.1 == c) = some (c, a) → s.is (GP_PAIR_CFG_EN k) = true → (s.pair k).entered.contains c = false →
    (s.condNow k).contains c = true →
    ∃ t, exec (.holdoffExpiry k i) s = .next t ∧ (t.pair k).entered.contains c = true ∧
      t.tm.tick = max s.tm.tick (a + 160000 * s.rd (GP_PAIR_CMD_HOLDOFF k))) ∧
  (∀ (k : Fin 8) a s, s.coreUp = true → (s.pair k).wtr = some a → s.is (GP_PAIR_CFG_EN k) = true → s.is (GP_PAIR_CFG_BIDIR k) = false → s.condNow k = [] →
    (s.pair k).entered = [] → (s.pair k).dnr = false → s.rd (GP_PAIR_CMD_CMD k) = 0 →
    ∃ t, exec (.wtrExpiry k) s = .next t ∧ (t.pair k).wtr = none ∧ t.is (GP_PAIR_STAT_WTR_RUN k) = false ∧
      t.rd (GP_PAIR_STAT_TOP k) = 0 ∧ t.is (GP_PAIR_STAT_SEL k) = false ∧
      t.tm.tick = max s.tm.tick (a + 1600000000 * s.rd (GP_PAIR_TIME_WTR_S k))) ∧
  (∀ (c : Fin 32) k prot id f s, s.pairOfChan c = some (k, prot) → s.releasedOf c = some (id, f) → s.islandRuns 5 = true →
    (s.pair k).copies = [] → s.belowNext k f.pos = true →
    ∃ t, exec (.hingeCopyArrival c) s = .next t ∧ t.rxs = mapErase id s.rxs ∧ t.rd (GP_HG_DUP_COUNT k) = upBy s (GP_HG_DUP_COUNT k) 1 ∧
      Kept [GP_HG_DUP_COUNT k] s t) ∧
  (∀ (c : Fin 32) k prot id f s, s.pairOfChan c = some (k, prot) → s.releasedOf c = some (id, f) → s.islandRuns 5 = true → s.rxf id = some f →
    (s.pair k).copies = [] → s.belowNext k f.pos = false → s.is (GP_PAIR_STAT_ALIGNED k) = false →
    prot = s.is (GP_PAIR_STAT_SEL k) → (s.pair k).switched = false →
    ∃ t g, exec (.hingeCopyArrival c) s = .next t ∧ t.rxf id = some g ∧ g.stage = .passed ∧ g.chan = s.rd (GP_GRP_CFG_CHAN (s.work k)) ∧
      g.cells = 0 ∧ (t.pair k).next = some (s.posAfter k f.pos f.len f.pfi) ∧ (f.cells = 0 → t.fb = s.fb ∧ (prot = false → t.flds = s.flds))) ∧
  (∀ (c : Fin 32) k prot id f q s, s.pairOfChan c = some (k, prot) → s.releasedOf c = some (id, f) → s.islandRuns 5 = true →
    s.rxf id = some f → (s.pair k).copies = [] → s.belowNext k f.pos = false →
    s.is (GP_PAIR_STAT_ALIGNED k) = false → prot = s.is (GP_PAIR_STAT_SEL k) → (s.pair k).switched = true → (s.pair k).stby = some q →
    ∃ t g, exec (.hingeCopyArrival c) s = .next t ∧ t.rxf id = some g ∧ g.stage = .passed ∧ (t.pair k).switched = false ∧
      (t.pair k).stby = none ∧
      (f.cells = 0 → prot = false → s.belowNext k q = true ∨ (s.pair k).next = none → t.flds = s.flds) ∧
      ∀ n, (s.pair k).next = some n → s.belowNext k q = false → t.rd (GP_HG_SW_HIT k) = upBy s (GP_HG_SW_HIT k) 1 ∧
        t.rd64 (GP_HIT_BYTES_LO_COUNT k) (GP_HIT_BYTES_HI_COUNT k) =
          min (s.rd64 (GP_HIT_BYTES_LO_COUNT k) (GP_HIT_BYTES_HI_COUNT k) + posDist (s.posMod k) f.pos n) (2 ^ 64 - 1)) ∧
  (∀ (c : Fin 32) k prot id f s, s.pairOfChan c = some (k, prot) → s.releasedOf c = some (id, f) → s.islandRuns 5 = true →
    (s.pair k).copies = [] → s.belowNext k f.pos = false → s.is (GP_PAIR_STAT_ALIGNED k) = false →
    prot ≠ s.is (GP_PAIR_STAT_SEL k) →
    ∃ t, exec (.hingeCopyArrival c) s = .next t ∧ t.rxs = mapErase id s.rxs ∧ t.rd (GP_HG_DUP_COUNT k) = upBy s (GP_HG_DUP_COUNT k) 1 ∧
      (t.pair k).stby = (if (s.pair k).switched then (s.pair k).stby else some f.pos)) ∧
  (∀ (k : Fin 8) e f s, s.coreUp = true → s.is (GP_PAIR_STAT_ALIGNED k) = true → (s.pair k).copies = [e] → s.belowNext k e.pos = false →
    s.otherDown k e.prot = false → s.rd (GP_PAIR_TIME_WAIT_NS k) ≠ 0 → s.rxf e.frame = some f →
    ∃ t g, exec (.hingeWaitExpiry k) s = .next t ∧ t.rxf e.frame = some g ∧ g.stage = .passed ∧ (t.pair k).copies = [] ∧
      t.rd (GP_HG_ALONE_COUNT k) = upBy s (GP_HG_ALONE_COUNT k) 1 ∧
      t.tm.tick = max s.tm.tick (e.tick + nsTicks (s.rd (GP_PAIR_TIME_WAIT_NS k))))

/-- Seconds and the overhead ports (R129, R131, R132): a second's boundary latches what each position counted and begins anew; an output
sends its oldest word, bit 0 first and marked, at its clock; an input takes a whole word while it has room, and counts a broken or a surplus
one. The time at which a timed command leaves the clock is the model's choice (log entry 2). Completes: ohTxWord, ohRxWord, secondBoundary.
-/
def Obligations.SecondsAndOverhead : Prop :=
  (∀ s, s.coreUp = true → ∃ t, exec .secondBoundary s = .next t ∧ t.is GP_EVT_SEC = true ∧ t.tm.secDone = secOf t.tm.now ∧
    (∀ j : Fin 32, t.rd (GP_SEC_BIP_BIP j) = min (s.fr j).bip (2 ^ 32 - 1) ∧ t.rd (GP_SEC_HCRC_HCRC j) = min (s.fr j).hcrc (2 ^ 32 - 1) ∧
      (t.fr j).bip = 0 ∧ (t.fr j).hcrc = 0)) ∧
  (∀ (k : Fin 8) v r s, (s.oh k).tx = v :: r → s.islandUp 8 = true → ∃ t, exec (.ohTxWord k) s = .next t ∧
    t.tm.tick = max s.tm.tick (s.oh k).busy ∧
    t.oh k = { s.oh k with tx := r, sent := ohPulses v, busy := t.tm.tick + 64 * max 7 (s.rd (GP_OH_TX_DIV k)) } ∧
    Kept [NY_MTIME_LO_MTIME, NY_MTIME_HI_MTIME, TM_AON_CNT_LO_COUNT, TM_AON_CNT_HI_COUNT] s t) ∧
  (∀ (k : Fin 8) s, (s.oh k).tx = [] ∨ s.islandUp 8 = false → exec (.ohTxWord k) s = .next s) ∧
  (∀ (k : Fin 8) v s, s.is (GP_OH_RX_EN k) = true → (s.oh k).rx.length < 4 →
    (∀ i < k.val, s.is (GP_OH_RX_EN i) = false ∨ s.rd (GP_OH_RX_POS i) ≠ s.rd (GP_OH_RX_POS k)) →
    ∃ t, exec (.ohRxWord k true v) s = .next t ∧ t.oh k = { s.oh k with rx := (s.oh k).rx ++ [v.toNat] } ∧ t.flds = s.flds) ∧
  (∀ (k : Fin 8) v s, s.is (GP_OH_RX_EN k) = true → ∃ t, exec (.ohRxWord k false v) s = .next t ∧
    t.rd (GP_OH_CNT_RX_BAD k) = upBy s (GP_OH_CNT_RX_BAD k) 1 ∧ Kept [GP_OH_CNT_RX_BAD k] s t) ∧
  (∀ (k : Fin 8) v s, s.is (GP_OH_RX_EN k) = true → 4 ≤ (s.oh k).rx.length → ∃ t, exec (.ohRxWord k true v) s = .next t ∧
    t.rd (GP_OH_CNT2_RX_OVER k) = upBy s (GP_OH_CNT2_RX_OVER k) 1 ∧ Kept [GP_OH_CNT2_RX_OVER k] s t)

/-- A commit of a MAC channel's shade set (R133, R134): with no frame in either half both sample it at once and the generation advances;
with frames under way the set is locked until they end; a commit of a locked set or of a bad length is refused and counted. Reception (R25,
R133, R135 to R142, R145, R159): a clean frame that is no control frame enters its slice as one record with its length, its host bytes, its
stamp and no flag, a drop record where the elastic store has no room, and is counted; an end mark with no byte behind it counts as a
fragment; a channel that does not receive enters nothing; on a T-mode channel the oldest client frame of its stream is taken. Pause (R152 to
R156): a timer that ends clears its class, a refresh makes a control frame due, a change of mode clears every timer and hold-off, the
watchdog ends a pause that has lasted too long with a hold-off and a count, and a hold-off ends. The time at which a timed command leaves
the clock is the model's choice (log entry 2). What log entries 20, 83, 104, 105, 107, 132 choose is the model's choice. Completes:
mcCommit, rxFrame, pauseTimerExpiry, pauseRefreshTimer, fcModeWrite, pauseWatchdog, watchdogHoldoffEnd. -/
def Obligations.MacChannels : Prop :=
  (∀ w (c : Fin 32) s, s.serves w (0x060180 + 4 * c) 4 = true → s.is (MC_COMMIT_LOCKED c) = false → 64 ≤ s.rd (MC_MAXLEN_MAXLEN c) →
    s.rd (MC_MAXLEN_MAXLEN c) ≤ 16384 → s.txWaiting c = false → s.rxInFrame c false = false →
    ∃ t, exec (.mcCommit w c false) s = .next t ∧ t.sp = ⟨true, 0⟩ ∧ (t.ch c).rx = s.macShade c ∧ (t.ch c).tx = s.macShade c ∧
      t.is (MC_COMMIT_LOCKED c) = false ∧ t.rd (MC_COMMIT_GEN c) = (s.rd (MC_COMMIT_GEN c) + 1) % 2 ^ 8 ∧
      Kept ([MC_COMMIT_LOCKED c, MC_COMMIT_GEN c] ++ portCounts) s.settleBeats t) ∧
  (∀ w (c : Fin 32) s, s.serves w (0x060180 + 4 * c) 4 = true → s.is (MC_COMMIT_LOCKED c) = false → 64 ≤ s.rd (MC_MAXLEN_MAXLEN c) →
    s.rd (MC_MAXLEN_MAXLEN c) ≤ 16384 → s.txWaiting c = true → s.rxInFrame c true = true →
    ∃ t, exec (.mcCommit w c true) s = .next t ∧ t.sp = ⟨true, 0⟩ ∧ (t.ch c).rxDue = true ∧ (t.ch c).txDue = true ∧ (t.ch c).rx = (s.ch c).rx ∧
      (t.ch c).tx = (s.ch c).tx ∧
      t.is (MC_COMMIT_LOCKED c) = true ∧ Kept (MC_COMMIT_LOCKED c :: portCounts) s.settleBeats t) ∧
  (∀ w (c : Fin 32) b s, s.serves w (0x060180 + 4 * c) 4 = true →
    s.is (MC_COMMIT_LOCKED c) = true ∨ s.rd (MC_MAXLEN_MAXLEN c) < 64 ∨ 16384 < s.rd (MC_MAXLEN_MAXLEN c) →
    ∃ t, exec (.mcCommit w c b) s = .next t ∧ t.sp = ⟨true, 0⟩ ∧ t.rd (MC_COMMIT_REJ c) = upBy s (MC_COMMIT_REJ c) 1 ∧
      t.bit MC_EVT_SHADE_REJ (c / 8) = true ∧ t.chs = s.chs ∧ Kept ([MC_COMMIT_REJ c, MC_EVT_SHADE_REJ] ++ portCounts) s.settleBeats t) ∧
  (∀ (c : Fin 32) f slot lane byte s, let m := if (s.ch c).rxDue && !(s.ch c).rxBusy then s.macShade c else (s.ch c).rx
    s.rxRuns (c / 8) = true → s.tMode (c / 8) = false → s.receives c = true → s.spansGap c f.length = false →
    s.pwWatchedAt (s.eStart c f.length) = false → s.protChan c = false → f ≠ [] → rxFlags m.maxlen false false f = 0 → beNat f 12 2 ≠ 0x8808 →
    ∃ t g, exec (.rxFrame c f false slot ⟨lane, byte⟩) s = .next t ∧ t.rxf s.nextFr = some g ∧ g.chan = c ∧ g.len = f.length ∧ g.flags = 0 ∧
      g.control = false ∧ g.stage = .slice ∧ g.dropRec = decide (elasticMax < s.elastic (c / 8) + rxRoom m.maxlen f.length) ∧
      g.data = (hostBytes m 0 f).1 ∧ g.stamp = s.rxStamp c (s.eStart c f.length) (s.eBase c f.length lane) byte ∧ t.nextFr = s.nextFr + 1 ∧
      t.rd64 (MC_STAT_LO_COUNT c 0) (MC_STAT_HI_COUNT c 0) = min (s.rd64 (MC_STAT_LO_COUNT c 0) (MC_STAT_HI_COUNT c 0) + 1) (2 ^ 64 - 1)) ∧
  (∀ (c : Fin 32) code slot lane byte s, s.rxRuns (c / 8) = true → s.tMode (c / 8) = false → s.receives c = true → s.protChan c = false →
    ∃ t, exec (.rxFrame c [] code slot ⟨lane, byte⟩) s = .next t ∧ t.rxs = s.rxs ∧ t.nextFr = s.nextFr ∧
      t.rd64 (MC_STAT_LO_COUNT c 8) (MC_STAT_HI_COUNT c 8) = min (s.rd64 (MC_STAT_LO_COUNT c 8) (MC_STAT_HI_COUNT c 8) + 1) (2 ^ 64 - 1)) ∧
  (∀ (c : Fin 32) f code slot lane byte s, s.rxRuns (c / 8) = false ∧ ((s.ch c).partly = false ∨ s.pwParked = false) ∨
    s.tMode (c / 8) = false ∧ s.receives c = false ∧ (s.ch c).partly = false ∨ s.tMode (c / 8) = true ∧ (s.gfp c).clients = [] →
    exec (.rxFrame c f code slot ⟨lane, byte⟩) s = .next s) ∧
  (∀ (c : Fin 32) f code slot lane byte e r s, s.rxRuns (c / 8) = true → s.tMode (c / 8) = true →
    (s.gfp c).clients = e :: r →
    ∃ t, exec (.rxFrame c f code slot ⟨lane, byte⟩) s = .next t ∧ (t.gfp c).clients = r) ∧
  (∀ (c : Fin 32) (k : Fin 8) a s, optGet (s.ch c).pauseEnd k = some a → s.portRuns (c / 8) = true →
    ∃ t, exec (.pauseTimerExpiry c k) s = .next t ∧ optGet (t.ch c).pauseEnd k = none ∧ optGet (t.ch c).pauseFrom k = none ∧
      t.bit (MC_FC_STAT_PAUSED c) k = false ∧ t.tm.tick = max s.tm.tick a) ∧
  (∀ (c : Fin 32) s, s.fcMode c = 1 → s.is (MC_FC_CFG_TX_GEN c) = true → (s.ch c).xoffMine ≠ 0 → s.portRuns (c / 8) = true →
    ∃ t, exec (.pauseRefreshTimer c) s = .next t ∧ t.ch c = { s.ch c with ctlDue := true } ∧
      t.tm.tick = max s.tm.tick ((s.ch c).ctlSent + s.quantaCycles c (max 1 (s.rd (MC_FC_REF_REFRESH c))))) ∧
  (∀ w (c : Fin 32) v s, s.serves w (0x060200 + 4 * c) 4 = true → s.rd (MC_FC_CFG_MODE c) ≠ bits v.toNat 0 2 →
    ∃ t, exec (.fcModeWrite w c v) s = .next t ∧ t.sp = ⟨true, 0⟩ ∧ t.rd (MC_FC_CFG_MODE c) = bits v.toNat 0 2 ∧
      (t.ch c).pauseEnd = [] ∧ (t.ch c).pauseFrom = [] ∧ (t.ch c).holdEnd = [] ∧ (t.ch c).ctlDue = false ∧ (t.ch c).xonChg = 0 ∧
      (t.ch c).xoffMine = 0 ∧ (t.ch c).rx = (s.ch c).rx ∧ (t.ch c).tx = (s.ch c).tx ∧
      t.rd (MC_FC_STAT_PAUSED c) = 0 ∧ t.rd (MC_FC_STAT_HOLDOFF c) = 0) ∧
  (∀ (c : Fin 32) (k : Fin 8) a e s, optGet (s.ch c).pauseFrom k = some a → optGet (s.ch c).pauseEnd k = some e →
    s.rd (MC_FC_WD_WD_US c) ≠ 0 → a + 1600 * s.rd (MC_FC_WD_WD_US c) ≤ e → s.portRuns (c / 8) = true → s.protChan c = false →
    ∃ t, exec (.pauseWatchdog c k) s = .next t ∧ t.bit (MC_FC_STAT_PAUSED c) k = false ∧ t.bit (MC_FC_STAT_HOLDOFF c) k = true ∧
      t.bit MC_EVT_PAUSE_WD (c / 8) = true ∧ optGet (t.ch c).pauseEnd k = none ∧
      optGet (t.ch c).holdEnd k = some (t.tm.tick + usTicks (s.rd (MC_FC_WD_HOLD_US c))) ∧
      t.rd64 (MC_STAT_LO_COUNT c (45 + k)) (MC_STAT_HI_COUNT c (45 + k)) =
        min (s.rd64 (MC_STAT_LO_COUNT c (45 + k)) (MC_STAT_HI_COUNT c (45 + k)) + 1) (2 ^ 64 - 1) ∧
      t.tm.tick = max s.tm.tick (a + 1600 * s.rd (MC_FC_WD_WD_US c))) ∧
  (∀ (c : Fin 32) (k : Fin 8) a s, optGet (s.ch c).holdEnd k = some a → s.portRuns (c / 8) = true →
    ∃ t, exec (.watchdogHoldoffEnd c k) s = .next t ∧ optGet (t.ch c).holdEnd k = none ∧ t.bit (MC_FC_STAT_HOLDOFF c) k = false ∧
      t.tm.tick = max s.tm.tick a)

/-- Lookups (R163, R173, R176 to R180): with the classifier off a lookup misses for reason 3, a match in a cached bucket is a hit, and a
bucket not cached is read; a read that answers with a match is a hit and one that fails a miss for reason 5; a deadline is a miss for reason
4; a verdict returns to its frame. The time at which a timed command leaves the clock is the model's choice (log entry 2). What log entries
6, 27, 134 choose is the model's choice. Completes: lookupRequest, lookupDeadline, verdictReturn, tableReadResponse. -/
def Obligations.LookupsGiveVerdicts : Prop :=
  (∀ (c : Fin 32) id key f tag s, s.keyWaiting c = some (id, key) → s.rxf id = some f → s.islandRuns 7 = true → s.rxRuns (c / 8) = true →
    lookupTag (s.lookupsOut (c / 8)) = some tag → f.chan = c.val → s.is CL_CTRL_EN = false →
    ∃ t l, exec (.lookupRequest c) s = .next t ∧ t.lookup id = some l ∧ l.tag = tag ∧ l.result = some (s.missVerdict f.chan 3 f.pcp)) ∧
  (∀ (c : Fin 32) id key f tag line i e s, s.keyWaiting c = some (id, key) → s.rxf id = some f → s.islandRuns 7 = true →
    s.rxRuns (c / 8) = true → lookupTag (s.lookupsOut (c / 8)) = some tag → s.is CL_CTRL_EN = true → let out := toeplitz (beNat key 0 40) s.hkey
    s.cline (hashH1 out) = some line → matchIn line.ents (byteAt key 0) (hashSig out) 0 = some (i, e) →
    ∃ t l, exec (.lookupRequest c) s = .next t ∧ t.lookup id = some l ∧ l.result = some (hitVerdict e f.pcp) ∧ t.fab = s.fab) ∧
  (∀ (c : Fin 32) id key tag s, s.keyWaiting c = some (id, key) → s.islandRuns 7 = true → s.rxRuns (c / 8) = true →
    lookupTag (s.lookupsOut (c / 8)) = some tag → s.is CL_CTRL_EN = true →
    let h1 := hashH1 (toeplitz (beNat key 0 40) s.hkey)
    s.cline h1 = none → s.bucketServed h1 = true →
    ∃ t l, exec (.lookupRequest c) s = .next t ∧ t.lookup id = some l ∧ l.h1 = h1 ∧ l.result = none ∧ l.start = s.tm.tick ∧ l.tag = tag ∧
      t.asks .tblLookup id h1 (s.tblOff h1) [] 64 = true) ∧
  (∀ d rest l e f s, s.islandRuns 7 = true → takeFirst (fun d => d.kind == .tblLookup || d.kind == .tblUpdRead || d.kind == .tblCopyRead) s.fab.done = some (d, rest) →
    d.kind = .tblLookup → d.resp = .okay → s.tbl.stale.contains (d.a, d.b) = false → whole (entsOf d.data) = true → s.cline d.b = none →
    s.lookup d.a = some l → l.result = none → l.bucket = d.b → matchIn (entsOf d.data) l.type l.sig (b2n l.second) = some e →
    s.rxf d.a = some f →
    ∃ t m, exec .tableReadResponse s = .next t ∧ t.fab.done = rest ∧ t.lookup d.a = some m ∧ m.result = some (hitVerdict e.2 f.pcp)) ∧
  (∀ d rest l f s, s.islandRuns 7 = true → takeFirst (fun d => d.kind == .tblLookup || d.kind == .tblUpdRead || d.kind == .tblCopyRead) s.fab.done = some (d, rest) →
    d.kind = .tblLookup → d.resp ≠ .okay → s.tbl.stale.contains (d.a, d.b) = false → s.lookup d.a = some l → l.result = none → l.bucket = d.b →
    s.rxf d.a = some f → 9 ≤ d.x → d.x ≤ 15 →
    ∃ t m, exec .tableReadResponse s = .next t ∧ t.fab.done = rest ∧ (d.resp ≠ .unissued → t.bit CL_EVT_TBL_ERR (d.x - 9) = true) ∧ t.lookup d.a = some m ∧
      m.result = some (s.missVerdict f.chan 5 f.pcp)) ∧
  (∀ (c : Fin 32) id l f s, s.islandRuns 7 = true → s.lookupOf c (·.result.isNone) = some (id, l) → s.lookup id = some l → s.rxf id = some f →
    ∃ t m, exec (.lookupDeadline c) s = .next t ∧ t.lookup id = some m ∧ m.result = some (s.missVerdict f.chan 4 f.pcp) ∧
      t.tm.tick = max s.tm.tick (l.start + nsTicks (max 1 (s.rd CL_LIMITS_DEADLINE_NS)))) ∧
  (∀ (c : Fin 32) id l v f s, s.rxRuns (c / 8) = true → s.islandRuns 7 = true → v.reason < 8 → s.lookupOf c (·.result.isSome) = some (id, l) → l.result = some v → s.rxf id = some f →
    ∃ t, exec (.verdictReturn c) s = .next t ∧ t.rxf id = some { f with verdict := some v, key := none } ∧ t.lookup id = none ∧
      t.rd64 CL_LOOKUPS_LO_COUNT CL_LOOKUPS_HI_COUNT = min (s.rd64 CL_LOOKUPS_LO_COUNT CL_LOOKUPS_HI_COUNT + 1) (2 ^ 64 - 1) ∧
      (v.reason = 0 ∨ t.rd (CL_MISS_CNT_COUNT v.reason) = upBy s (CL_MISS_CNT_COUNT v.reason) 1))

/-- Enable and clear (R170, R188): an enable that nothing refuses is taken and one that something refuses shows the reason and is counted; a
clear empties the table's state and writes buckets, ends once every write has ended, and is refused while the classifier is enabled. What
log entries 28, 133 choose is the model's choice. Completes: clEnable, clClear, clClearDone. -/
def Obligations.ClassifierEnableAndClear : Prop :=
  (∀ w v s, s.serves w 0x080000 4 = true → s.is CL_CTRL_EN = false → v.getLsbD 1 = false →
    ∃ t, exec (.clEnable w v) s = .next t ∧ t.sp = ⟨true, 0⟩ ∧ t.rd CL_CTRL_PUNT_RXQ = bits v.toNat 16 6 ∧
      (if s.enRefuse = 0 then t.is CL_CTRL_EN = true
        else t.is CL_CTRL_EN = false ∧ t.rd CL_CTRL_CFG_ERR = s.enRefuse ∧ t.rd CL_CFG_REJ_COUNT = upBy s CL_CFG_REJ_COUNT 1)) ∧
  (∀ w v s, s.serves w 0x080000 4 = true → s.is CL_CTRL_EN = false → s.is CL_CTRL_CLEAR_BUSY = false → v.getLsbD 0 = false →
    ∃ t, exec (.clClear w v) s = .next t ∧ t.sp = ⟨true, 0⟩ ∧ t.is CL_CTRL_CLEAR_BUSY = true ∧ t.tbl.cache = [] ∧ t.tbl.stash = [] ∧
      t.tbl.disp = [] ∧ t.tbl.entries = 0 ∧ t.tbl.cleared = false ∧ (∀ b < s.tblWorking.length, s.tblIssues (s.tblChan b) = true →
        t.asks .tblClear b (8 + s.tblChan b) (s.tblOff b) (List.replicate 64 0) 0 = true)) ∧
  (∀ w v s, s.serves w 0x080000 4 = true → s.is CL_CTRL_EN = true → v.getLsbD 0 = true →
    ∃ t, exec (.clClear w v) s = .next t ∧ t.sp = ⟨true, 0⟩ ∧ t.is CL_CTRL_EN = true ∧ t.tbl = s.tbl ∧
      t.rd CL_CFG_REJ_COUNT = upBy s CL_CFG_REJ_COUNT 1 ∧ Kept ([CL_CTRL_PUNT_RXQ, CL_CFG_REJ_COUNT] ++ portCounts) s.settleBeats t) ∧
  (∀ s, s.is CL_CTRL_CLEAR_BUSY = true → s.awaits .tblClear = false → s.islandRuns 7 = true →
    ∃ t, exec .clClearDone s = .next t ∧ t.is CL_CTRL_CLEAR_BUSY = false ∧ t.tbl = { s.tbl with cleared := true } ∧
      Kept [CL_CTRL_CLEAR_BUSY] s t) ∧
  (∀ s, s.is CL_CTRL_CLEAR_BUSY = false ∨ s.awaits .tblClear = true ∨ s.islandRuns 7 = false → exec .clClearDone s = .next s)

/-- The update engine (R171, R182 to R184): a command while one runs is refused and counted, one of a bad key ends with `BADARG`, one whose
bucket is not cached reads it; a query of a cached entry ends with its verdict; an insert into a cached bucket with room writes it; the
answer of the last write ends the operation and unpins the line, and a failed write is tried again; a stash entry is moved in the
background. What log entries 29, 109 choose is the model's choice. Completes: clInsert, clDelete, clModify, clQuery, updateWriteResponse,
stashMigrate. -/
def Obligations.TableUpdates : Prop :=
  (∀ w s, s.serves w 0x080330 4 = true → s.is CL_UPD_STAT_BUSY = true → ∀ c ∈ [Instr.clInsert w, .clDelete w, .clModify w, .clQuery w],
    ∃ t, exec c s = .next t ∧ t.sp = ⟨true, 0⟩ ∧ t.tbl = s.tbl ∧ t.rd CL_CFG_REJ_COUNT = upBy s CL_CFG_REJ_COUNT 1 ∧
      Kept (CL_CFG_REJ_COUNT :: portCounts) s.settleBeats t) ∧
  (∀ w s, s.serves w 0x080330 4 = true → s.is CL_UPD_STAT_BUSY = false → s.tbl.ops = [] → s.rd (CL_UPD_KEY_KEY 0) % 256 = 0 →
    ∀ c ∈ [Instr.clInsert w, .clDelete w, .clModify w, .clQuery w],
    ∃ t, exec c s = .next t ∧ t.sp = ⟨true, 0⟩ ∧ t.tbl = s.tbl ∧ t.rd CL_UPD_STAT_STATUS = sBADARG ∧ t.is CL_UPD_STAT_BUSY = false ∧
      t.is CL_EVT_UPD_DONE = true) ∧
  (∀ w s, let key := (List.range 10).flatMap (fun i => leBytes 4 (s.rd (CL_UPD_KEY_KEY i)))
    let vd := s.readPlain 0x080328 + 2 ^ 32 * s.readPlain 0x08032C
    let h1 := hashH1 (toeplitz (beNat key 0 40) s.hkey)
    s.serves w 0x080330 4 = true → s.is CL_UPD_STAT_BUSY = false → s.tbl.ops = [] → 1 ≤ byteAt key 0 → byteAt key 0 ≤ 6 →
    s.is CL_CTRL_EN = true → s.cline h1 = none → s.bucketServed h1 = true →
    ∀ e ∈ [(Instr.clInsert w, 1), (.clDelete w, 2), (.clModify w, 3), (.clQuery w, 4)],
    (e.2 = 1 ∨ e.2 = 3 → bits vd 33 3 < 3 ∧ (s.ctx (bits vd 0 12)).state ≠ cFREE ∧ (s.poolQ (bits vd 0 12) (bits vd 12 6) true).isSome = true) →
    ∃ t o, exec e.1 s = .next t ∧ t.sp = ⟨true, 0⟩ ∧ t.is CL_UPD_STAT_BUSY = true ∧ t.tbl.ops = [o] ∧ o.op = e.2 ∧ o.key = key ∧ o.vd = vd ∧
      o.cmd = none ∧ o.reading = some h1 ∧
      t.asks .tblUpdRead 0 h1 (s.tblOff h1) [] 64 = true) ∧
  (∀ w line i e s, let key := (List.range 10).flatMap (fun i => leBytes 4 (s.rd (CL_UPD_KEY_KEY i)))
    let out := toeplitz (beNat key 0 40) s.hkey
    s.serves w 0x080330 4 = true → s.is CL_UPD_STAT_BUSY = false → s.tbl.ops = [] → 1 ≤ byteAt key 0 → byteAt key 0 ≤ 6 →
    s.is CL_CTRL_EN = true → s.cline (hashH1 out) = some line → matchIn line.ents (byteAt key 0) (hashSig out) 0 = some (i, e) →
    ∃ t, exec (.clQuery w) s = .next t ∧ t.sp = ⟨true, 0⟩ ∧ t.is CL_UPD_STAT_BUSY = false ∧ t.rd CL_UPD_STAT_STATUS = sOK ∧
      t.rd CL_UPD_STAT_WHERE = 0 ∧ t.is CL_EVT_UPD_DONE = true ∧ t.rd CL_UPD_VD_LO_CTX = bits (entVd e) 0 12 ∧
      t.rd CL_UPD_VD_LO_RXQ = bits (entVd e) 12 6 ∧ t.rd CL_UPD_VD_LO_METER = bits (entVd e) 18 14 ∧ t.tbl.ops = []) ∧
  (∀ w line j s, let key := (List.range 10).flatMap (fun i => leBytes 4 (s.rd (CL_UPD_KEY_KEY i)))
    let vd := s.readPlain 0x080328 + 2 ^ 32 * s.readPlain 0x08032C
    let out := toeplitz (beNat key 0 40) s.hkey
    let h1 := hashH1 out
    s.serves w 0x080330 4 = true → s.is CL_UPD_STAT_BUSY = false → s.tbl.ops = [] → s.tbl.stash = [] → 1 ≤ byteAt key 0 → byteAt key 0 ≤ 6 →
    s.is CL_CTRL_EN = true → bits vd 33 3 < 3 → (s.ctx (bits vd 0 12)).state ≠ cFREE →
    (s.poolQ (bits vd 0 12) (bits vd 12 6) true).isSome = true → s.cline h1 = some line → mapGet (fun _ => 0) s.tbl.disp h1 = 0 →
    matchIn line.ents (byteAt key 0) (hashSig out) 0 = none → freeSlot line.ents = some j → s.tblIssues (s.tblChan h1) = true → s.copyOf = none →
    ∃ t l, exec (.clInsert w) s = .next t ∧ t.sp = ⟨true, 0⟩ ∧ t.is CL_UPD_STAT_BUSY = true ∧ t.cline h1 = some l ∧
      l.ents = withVer (line.ents.set j (mkEnt (byteAt key 0) (hashSig out) 0 (bits vd 0 40))) (entVer (line.ents.headD 0) + 1) ∧ l.out = line.out + 1 ∧
      t.tbl.entries = s.tbl.entries + 1 ∧
      t.asks .tblUpdWrite h1 (8 + s.tblChan h1) (s.tblOff h1) (entBytes l.ents) 0 = true) ∧
  (∀ d rest x o s, s.islandRuns 7 = true → takeFirst (fun d => d.kind == .tblUpdWrite || d.kind == .tblClear || d.kind == .tblCopyWrite) s.fab.done = some (d, rest) →
    d.kind = .tblUpdWrite → d.resp = .okay → s.cline d.a = some x → s.tbl.ops = [o] → o.decided = true → o.writes = 1 → o.todo = [] →
    o.op = 1 → o.cmd = none →
    ∃ t, exec .updateWriteResponse s = .next t ∧ t.fab.done = rest ∧ t.tbl.ops = [] ∧ t.is CL_UPD_STAT_BUSY = false ∧
      t.rd CL_UPD_STAT_STATUS = o.status % 2 ^ CL_UPD_STAT_STATUS.w ∧ t.is CL_EVT_UPD_DONE = true ∧
      t.cline d.a = some { x with out := x.out - 1, failed := false }) ∧
  (∀ d rest x o r s, s.islandRuns 7 = true → takeFirst (fun d => d.kind == .tblUpdWrite || d.kind == .tblClear || d.kind == .tblCopyWrite) s.fab.done = some (d, rest) →
    d.kind = .tblUpdWrite → d.resp ≠ .okay → d.resp ≠ .unissued → d.b / 8 < 3 → s.cline d.a = some x →
    s.tbl.ops = o :: r → d.b % 8 < 7 → s.tblIssues (d.b % 8) = true →
    ∃ t, exec .updateWriteResponse s = .next t ∧ t.tbl = s.tbl ∧
      t.asks .tblUpdWrite d.a (8 * (d.b / 8 + 1) + d.b % 8) (s.tblOff d.a) (entBytes x.ents) 0 = true ∧
      t.bit CL_EVT_TBL_ERR (d.b % 8) = true ∧ Kept [CL_EVT_TBL_ERR] s t) ∧
  (∀ b e l s, s.tbl.ops = [] → s.tbl.stash = (b, e) :: l → s.is CL_CTRL_EN = true → s.islandRuns 7 = true → s.cline b = none →
    s.bucketServed b = true → ∃ t o, exec .stashMigrate s = .next t ∧ t.tbl.ops = [o] ∧ o.op = 0 ∧ o.reading = some b ∧
      t.asks .tblUpdRead 0 b (s.tblOff b) [] 64 = true)

/-- Meters (R193, R194, R196): a load that nothing refuses gives the selected meter its configuration and, where `FILL` says so, full
buckets; one that something refuses sets `ERR` and changes no meter; a read shows the meter as refilled up to now. Shapers (R193, R208,
R209, R218): at a refill instant every unlocked shaper is credited for the periods passed and a set committed before that instant's cycle
takes over; a commit that nothing refuses locks the set, and one of a locked set is refused and counted; a read fills the shade set with the
live values. What log entry 22 chooses is the model's choice. Completes: mtWrite, mtRead, scCommit, scRead, refillInstant. -/
def Obligations.MetersAndShapers : Prop :=
  (∀ w s, s.serves w 0x081018 4 = true → s.meterRefuse = false → let m := s.meter (s.rd MT_SEL_METER)
    ∃ t n, exec (.mtWrite w false) s = .next t ∧ t.sp = ⟨true, 0⟩ ∧ t.meter (s.rd MT_SEL_METER) = n ∧ n.alg = s.rd MT_MODE_ALG ∧
      n.aware = s.is MT_MODE_AWARE ∧ n.redAct = s.is MT_MODE_RED_ACT ∧ n.cir = s.rd MT_CIR_CIR ∧ n.cbs = s.rd MT_CBS_CBS ∧
      n.pir = s.rd MT_PIR_PIR ∧ n.pbs = s.rd MT_PBS_PBS ∧ n.period = periodOf s.tm.cyc ∧
      (s.is MT_MODE_FILL = true → n.tokC = 256 * s.rd MT_CBS_CBS ∧ n.tokP = 256 * s.rd MT_PBS_PBS) ∧
      (s.is MT_MODE_FILL = false → n.tokC = min (m.refill (periodOf s.tm.cyc)).tokC (256 * s.rd MT_CBS_CBS)) ∧
      t.is MT_CMD_ERR = false ∧ (m.audit = true → n.audit = true)) ∧
  (∀ w s, s.serves w 0x081018 4 = true → s.meterRefuse = true →
    ∃ t, exec (.mtWrite w false) s = .next t ∧ t.sp = ⟨true, 0⟩ ∧ t.meters = s.meters ∧ t.is MT_CMD_ERR = true ∧
      Kept (MT_CMD_ERR :: portCounts) s.settleBeats t) ∧
  (∀ w s, s.serves w 0x081018 4 = true → let m := (s.meter (s.rd MT_SEL_METER)).refill (periodOf s.tm.cyc)
    m.audit = true → ∃ t, exec (.mtRead w) s = .next t ∧ t.sp = ⟨true, 0⟩ ∧ t.meter (s.rd MT_SEL_METER) = m ∧
      t.rd MT_MODE_ALG = m.alg % 2 ^ MT_MODE_ALG.w ∧ t.is MT_MODE_AWARE = m.aware ∧ t.is MT_MODE_RED_ACT = m.redAct ∧
      t.rd MT_CIR_CIR = m.cir % 2 ^ MT_CIR_CIR.w ∧ t.rd MT_CBS_CBS = m.cbs % 2 ^ MT_CBS_CBS.w ∧ t.rd MT_PIR_PIR = m.pir % 2 ^ MT_PIR_PIR.w ∧
      t.rd MT_PBS_PBS = m.pbs % 2 ^ MT_PBS_PBS.w ∧ t.rd MT_TOK_C_TOK = m.tokC % 2 ^ MT_TOK_C_TOK.w ∧
      t.rd MT_TOK_P_TOK = m.tokP % 2 ^ MT_TOK_P_TOK.w ∧
      Kept ([MT_MODE_ALG, MT_MODE_AWARE, MT_MODE_RED_ACT, MT_CIR_CIR, MT_CBS_CBS, MT_PIR_PIR, MT_PBS_PBS, MT_TOK_C_TOK, MT_TOK_P_TOK] ++
        portCounts) s.settleBeats t) ∧
  (∀ s, s.coreUp = true → mapWf (fun _ => {}) s.shaps = true →
    ∃ t, exec .refillInstant s = .next t ∧ t.tm.refDone = periodOf t.tm.cyc ∧
      (∀ i, (s.shap i).locked = false → t.shap i = (s.shap i).refill (t.tm.refDone - s.tm.refDone)) ∧
      (s.tm.refDone ≤ periodOf s.tm.cyc → s.tm.refDone < t.tm.refDone) ∧
      (∀ i, (s.shap i).locked = true → t.tm.refDone ≤ (s.shap i).commitAt / 2048 →
        t.shap i = (s.shap i).refill (t.tm.refDone - s.tm.refDone)) ∧
      (∀ i < 32768, (s.shap i).locked = true → (s.shap i).commitAt / 2048 < t.tm.refDone → s.tm.refDone < t.tm.refDone →
        (t.shap i).locked = false ∧ (t.shap i).rate = (s.shap i).sRate ∧
        (t.shap i).gen = ((s.shap i).gen + 1) % 256 ∧ (t.q i).chan = bits (s.shap i).sMap 0 5 ∧ (t.q i).cls = bits (s.shap i).sMap 5 3)) ∧
  (∀ w i s, s.serves w 0x0C0014 4 = true → s.scSel = some i → (s.shap i).locked = false → (i < 32768 → s.mapRefuse i (s.shap i).sMap = none) →
    ∃ t, exec (.scCommit w) s = .next t ∧ t.sp = ⟨true, 0⟩ ∧ t.shap i = { s.shap i with locked := true, cmd := none, commitAt := s.tm.cyc } ∧ Kept portCounts s.settleBeats t) ∧
  (∀ w i s, s.serves w 0x0C0014 4 = true → s.scSel = some i → (s.shap i).locked = true →
    ∃ t, exec (.scCommit w) s = .next t ∧ t.sp = ⟨true, 0⟩ ∧ t.shaps = s.shaps ∧ t.rd (SC_COMMIT_REJ i) = upBy s (SC_COMMIT_REJ i) 1 ∧
      Kept (SC_COMMIT_REJ i :: portCounts) s.settleBeats t) ∧
  (∀ w i s, s.serves w 0x0C0018 4 = true → s.scSel = some i → (s.shap i).locked = false →
    ∃ t, exec (.scRead w) s = .next t ∧ t.sp = ⟨true, 0⟩ ∧ (t.shap i).sRate = (s.shap i).rate ∧ (t.shap i).sBurst = (s.shap i).burst ∧
      t.rd SC_TOK_TOK = tokBytes (s.shap i).tok ∧ Kept (SC_TOK_TOK :: portCounts) s.settleBeats t) ∧
  (∀ w s, s.serves w 0x0C0014 4 = true → s.scSel = none → ∀ c ∈ [Instr.scCommit w],
    ∃ t, exec c s = .next t ∧ t.sp = ⟨true, 0⟩ ∧ t.shaps = s.shaps ∧ t.rd SC_CFG_REJ_COUNT = upBy s SC_CFG_REJ_COUNT 1)

/-- Dispatch and staging (R35, R209, R211, R213): the head frame of the node that goes next joins its class in staging and its queue's
shaper spends its length; a frame wholly in staging frees its cells. Without a node that may go nothing happens. The line (R35, R154, R215
to R217): with no control frame due the highest ready class sends its head frame, not before the last frame's line time has passed; a
control frame that is due goes first; a frame that ends frees the line, and its descriptor ends with status OK as soon as the core island
runs. The time at which a timed command leaves the clock is the model's choice (log entry 2). What log entries 21, 110 choose is the model's
choice. Completes: dispatch, txFrameInStaging, txFrameStart, txFrameEnd. -/
def Obligations.DispatchAndLine : Prop :=
  (∀ (c : Fin 32) (k : Fin 8) x n id fin f s, s.chanServes c = true → s.pairOfChan c = none → s.protChan c = false → s.islandRuns 5 = true →
    s.pickNode c k = some (x, n, id, fin) → n < 32768 → s.txf id = some f → s.stagingFits c k f.len = true → s.dispatchHeld c = false →
    ∃ t, exec (.dispatch c k none) s = .next t ∧
      (match (s.sliceOf (c / 8)).map (mapGet (fun _ => 0) s.sys.dpTx) with
        | some dp => t.txf id = some { f with stage := .dispatched, chan := c, cls := k, dp := dp, marks := frameMarks dp f.len c }
        | none => t.txf id = some { f with stage := .dispatched, chan := c, cls := k }) ∧
      t.stagedOf c k = s.stagedOf c k ++ [id] ∧ t.shap n = (s.shap n).spend f.len) ∧
  (∀ (c : Fin 32) (k : Fin 8) u s, s.pickNode c k = none → exec (.dispatch c k u) s = .next s) ∧
  (∀ (c : Fin 32) id f s, s.portRuns (c / 8) = true → s.coreUp = true → s.txs.find? (fun e => e.2.chan == c.val && e.2.stage == .dispatched && (s.stagedOf c e.2.cls).contains e.1) = some (id, f) →
    f.main = none → s.gateNow c = none →
    ∃ t, exec (.txFrameInStaging c) s = .next t ∧ t.txf id = some { f with stage := .staged, cells := 0 } ∧ t.fb.free = s.fb.free + f.cells) ∧
  (∀ (c : Fin 32) (k : Nat) id f byte s, s.lineOpen c = true → (s.ch c).ctlDue = false → s.pairOfChan c = none → s.tMode (c / 8) = false →
    s.gateNow c = none → (s.ch c).guard = none → (s.ch c).starved = false → [7, 6, 5, 4, 3, 2, 1, 0].find? (s.ready c) = some k →
    s.stagedHead c k = some (id, f) →
    ∃ t g, exec (.txFrameStart c ⟨false, byte⟩) s = .next t ∧ (t.ch c).line = .frame id ∧ t.txf id = some g ∧ g.stage = .line ∧
      g.startTick = t.tm.tick ∧ (t.ch c).lastStart = t.tm.tick ∧ (t.ch c).lastLen = f.len ∧
      ((s.ch c).txDue = false → g.wire = (s.txWire c f).1) ∧
      t.tm.tick = max s.tm.tick ((s.ch c).lastStart + (if (s.ch c).lastLen = 0 then 0 else paceTicks (s.ch c).lastLen (s.paceRate c)))) ∧
  (∀ (c : Fin 32) byte s, s.lineOpen c = true → (s.ch c).ctlDue = true → s.is (MC_FC_CFG_TX_GEN c) = true → s.fcMode c = 1 →
    s.sv.held.getLsbD (c / 8) = false → s.gateNow c = none →
    ∃ t, exec (.txFrameStart c ⟨false, byte⟩) s = .next t ∧ (t.ch c).line = .control false 0 ∧ (t.ch c).ctlDue = false ∧
      (t.ch c).ctlSent = t.tm.tick ∧ (t.ch c).lastLen = 64 ∧ t.rd (MC_FC_STAT_XOFF_SENT c) = (if (s.ch c).xoffMine = 0 then 0 else 0xFF)) ∧
  (∀ (c : Fin 32) u byte s, s.lineOpen c = false → exec (.txFrameStart c ⟨u, byte⟩) s = .next s) ∧
  (∀ (c : Fin 32) s, (s.ch c).line = .idle ∨ s.portRuns (c / 8) = false → exec (.txFrameEnd c) s = .next s) ∧
  (∀ (c : Fin 32) a e s, (s.ch c).line = .control a e → s.portRuns (c / 8) = true → ∃ t, exec (.txFrameEnd c) s = .next t ∧ (t.ch c).line = .idle) ∧
  (∀ (c : Fin 32) id f s, (s.ch c).line = .frame id → s.txf id = some f → f.main = none → f.stage = .line → f.bad = false → s.gateNow c = none →
    s.portRuns (c / 8) = true → s.coreUp = true → s.protChan c = false →
    ∃ t, exec (.txFrameEnd c) s = .next t ∧ (t.ch c).line = .idle ∧ (∀ g, t.txf id = some g → g.stage = .ended ∧ g.status = sOK) ∧
      t.rd64 (MC_STAT_LO_COUNT c 30) (MC_STAT_HI_COUNT c 30) = min (s.rd64 (MC_STAT_LO_COUNT c 30) (MC_STAT_HI_COUNT c 30) + 1) (2 ^ 64 - 1)) ∧
  (∀ (c : Fin 32) id f s, (s.ch c).line = .frame id → s.txf id = some f → s.gateNow c = none → s.portRuns (c / 8) = true → s.coreUp = false → s.toCore (c / 8) < 32 →
    ∃ t, exec (.txFrameEnd c) s = .next t ∧ (t.ch c).line = .idle ∧ t.txf id = some { f with stage := .sent } ∧ t.fb = s.fb)

/-- Guard windows and gates (R216, R219, R220): a class that was ready and unserved for its limit has a window open at the next start, a
window's end frees the line; a commit of a gate list that nothing refuses waits for its instant, then takes over; entries follow the time
counter. The time at which a timed command leaves the clock is the model's choice (log entry 2). What log entries 23, 26 choose is the
model's choice. Completes: starveTimer, guardWindowEnd, tgCommit, tgTakeover, gateEntryChange. -/
def Obligations.GuardWindowsAndGates : Prop :=
  (∀ (c : Fin 32) (k : Fin 8) a s, (s.ch c).starveLive ≠ 0 → s.ready c k = true → s.gateNow c = none → optGet (s.ch c).unserved k = some a →
    (s.ch c).guard = none → s.pairOfChan c = none → s.portRuns (c / 8) = true →
    ∃ t, exec (.starveTimer c k) s = .next t ∧ (t.ch c).starved = true ∧ t.tm.tick = max s.tm.tick (a + 1600 * (s.ch c).starveLive)) ∧
  (∀ (c : Fin 32) (k : Fin 8) s, (s.ch c).starveLive = 0 ∨ optGet (s.ch c).unserved k = none → exec (.starveTimer c k) s = .next s) ∧
  (∀ (c : Fin 32) g a e s, (s.ch c).guard = some g → (s.ch c).line = .control a e → s.portRuns (c / 8) = true →
    ∃ t, exec (.guardWindowEnd c) s = .next t ∧ (t.ch c).line = .idle ∧ (t.ch c).guard = none ∧ t.is (SC_CH_STAT_GUARD_ON c) = false ∧
      t.tm.tick = max s.tm.tick g.until_) ∧
  (∀ w (c : Fin 32) s, let len := s.rd (TG_LEN_LEN c)
    let cyc := s.rd (TG_CYCLE_CYCLE_NS c) * 2 ^ 32
    let base := (s.rd (TG_BASE_S_LO_S_LO c) + 2 ^ 32 * s.rd (TG_BASE_S_HI_S_HI c)) * secUnits + s.rd (TG_BASE_NS_NS c) * 2 ^ 32
    s.serves w (0x0C1114 + 32 * c) 4 = true → s.is (TG_COMMIT_LOCKED c) = false → s.listInForce c (s.rd (TG_LEN_LIST c)) = false →
    1 ≤ len → len ≤ 256 → 0 < cyc → (s.gateTime c).toNat + twoUs ≤ base →
    ∃ t, exec (.tgCommit w c) s = .next t ∧ t.sp = ⟨true, 0⟩ ∧ (t.ch c).take = some ⟨base, base, cyc, len, s.rd (TG_LEN_LIST c)⟩ ∧
      t.is (TG_COMMIT_LOCKED c) = true ∧ t.is (TG_CTRL_PENDING c) = true ∧
      Kept ([TG_COMMIT_LOCKED c, TG_CTRL_PENDING c] ++ portCounts) s.settleBeats t) ∧
  (∀ w (c : Fin 32) s, s.serves w (0x0C1114 + 32 * c) 4 = true → s.is (TG_COMMIT_LOCKED c) = true →
    ∃ t, exec (.tgCommit w c) s = .next t ∧ t.sp = ⟨true, 0⟩ ∧ t.chs = s.chs ∧ t.rd (TG_COMMIT_REJ c) = upBy s (TG_COMMIT_REJ c) 1) ∧
  (∀ (c : Fin 32) w s, (s.ch c).take = some w → s.portRuns (c / 8) = true → s.coreUp = true → s.sleepLoad = false →
    ∃ t, exec (.tgTakeover c) s = .next t ∧ (t.ch c).take = none ∧ (t.ch c).gBase = w.base ∧ (t.ch c).gCycle = w.cycle ∧ (t.ch c).gLen = w.len ∧
      t.is (TG_CTRL_ACTIVE c) = decide (w.list % 2 = 1) ∧ t.is (TG_CTRL_PENDING c) = false ∧ t.is (TG_COMMIT_LOCKED c) = false ∧
      t.bit TG_EVT_TAKEOVER (c / 8) = true ∧ t.tm.tick = s.tm.tick + s.cyclesTo ((w.inst : Int) - signed 32 (s.ch c).txCorr * 2 ^ 16).toNat) ∧
  (∀ (c : Fin 32) g s, s.gateNow c = some g → g.empty = false → s.coreUp = true → s.portRuns (c / 8) = true → s.sleepLoad = false →
    ∃ t, exec (.gateEntryChange c false) s = .next t ∧
      t.tm.tick = s.tm.tick + s.cyclesTo (s.tm.now + max 1 (s.gateAt c g ((s.gateTime c - g.base) % (g.cycle : Int)).toNat g.len 0 0).2))

/-- Receive stages (R18, R32, R33, R163, R201, R202): a frame with its verdict leaves its slice while the crossing to the core has room; a
clean frame for an active context that fits is admitted and holds its cells; a drop record ends at the core. Receive buffers and data (R34,
R239): an admitted frame whose buffers are there takes them in ring order and is written, one that must wait waits, one that cannot be taken
ends; the last answered write frees its cells and makes its completion due. What log entry 111 chooses is the model's choice. Completes:
rxFrameRelease, rxFrameEntry, rxDescriptorTake, rxDataWriteResponse. -/
def Obligations.ReceiveFramesToBuffers : Prop :=
  (∀ (c : Fin 32) id f s, s.rxs.find? (fun e => e.2.chan == c.val && e.2.stage == .slice) = some (id, f) → f.verdict.isSome = true →
    s.islandRuns f.via = true → s.sys.sliceOut.getLsbD f.via = false → s.toCore (c / 8) < 32 →
    ∃ t, exec (.rxFrameRelease c false) s = .next t ∧ t.rxf id = some { f with stage := .released } ∧
      Kept [SYS_XING_STAT_OCC_MAX (256 + f.via), SYS_XING_STAT_LAT_MAX (256 + f.via)] s t) ∧
  (∀ (c : Fin 32) id f u s, s.rxs.find? (fun e => e.2.chan == c.val && e.2.stage == .slice) = some (id, f) →
    f.verdict = none ∨ s.islandRuns f.via = false ∨ s.sys.sliceOut.getLsbD f.via = true ∨ 32 ≤ s.toCore (c / 8) → exec (.rxFrameRelease c u) s = .next s) ∧
  (∀ (c : Fin 32) id f v x s, s.islandRuns 5 = true → s.pairOfChan c = none →
    s.rxs.find? (fun e => e.2.chan == c.val && e.2.stage == .released) = some (id, f) → f.verdict = some v → v.men = false → f.dropRec = false →
    f.flags = 0 → f.control = false → v.reason = 0 → v.action = 0 → (s.ctx v.ctx).state = cACTIVE →
    s.fbPlace (8 * (c / 8) + v.cls) (cellsOf f.len) = some x →
    ∃ t g, exec (.rxFrameEntry c) s = .next t ∧ t.rxf id = some g ∧ g.stage = .admitted ∧ g.cells = cellsOf f.len ∧ g.colour = 0 ∧
      t.fbUse (8 * (c / 8) + v.cls) = x ∧ t.fb.free = s.fb.free - cellsOf f.len) ∧
  (∀ (c : Fin 32) id f s, s.islandRuns 5 = true → s.pairOfChan c = none →
    s.rxs.find? (fun e => e.2.chan == c.val && e.2.stage == .released) = some (id, f) → f.dropRec = true →
    ∃ t, exec (.rxFrameEntry c) s = .next t ∧ t.rxf id = none) ∧
  (∀ id f k n s, s.coreUp = true → s.stage8List.find? (fun e => !(e.2.1.stage == .waiting && e.2.2 == .wait)) = some (id, f, .take k n) →
    let w := rxWrites ((s.q k).bufs.take n) f.data
    w ≠ [] → ∃ t, exec (.rxDescriptorTake none) s = .next t ∧
      t.rxf id = some { f with stage := .writing, queue := k, first := (s.q k).ci, nbuf := n, left := w.length, fault := false } ∧
      t.q k = { s.q k with bufs := (s.q k).bufs.drop n, ci := ((s.q k).ci + n) % 2 ^ ((s.q k).log2 + 1), order := (s.q k).order ++ [id] } ∧
      (∀ e ∈ w, t.asks .rxData id 0 e.1 e.2 0 = true)) ∧
  (∀ id f u s, s.coreUp = true → s.stage8List.find? (fun e => !(e.2.1.stage == .waiting && e.2.2 == .wait)) = some (id, f, .wait) →
    ∃ t, exec (.rxDescriptorTake u) s = .next t ∧ t.rxf id = some { f with stage := .waiting } ∧ t.flds = s.flds) ∧
  (∀ id f k u s, s.coreUp = true → s.stage8List.find? (fun e => !(e.2.1.stage == .waiting && e.2.2 == .wait)) = some (id, f, .drop k) →
    ∃ t, exec (.rxDescriptorTake u) s = .next t ∧ t.rxf id = none) ∧
  (∀ d u f s, s.response .rxData = some (d, u) → s.rxf d.a = some f → 2 ≤ f.left →
    ∃ t, exec .rxDataWriteResponse s = .next t ∧ t.rxf d.a = some { f with left := f.left - 1, fault := f.fault || d.resp != .okay }) ∧
  (∀ d u f s, s.response .rxData = some (d, u) → s.rxf d.a = some f → f.left = 1 →
    ∃ t, exec .rxDataWriteResponse s = .next t ∧
      t.rxf d.a = some { f with left := 0, fault := f.fault || d.resp != .okay, cells := 0, stage := .complete })

/-- Doorbells and event consumer words (R226, R228): a valid one moves the queue's producer index or the ring's consumer index and is
answered `OKAY`; an invalid one is `DECLINED`, counted for its context and reported; outside `READY` it is `DECLINED` and nothing changes.
Queue ends and notification (R244, R248): a stopping queue with nothing under way stops; unannounced entries go out as one message when
their time has passed, and are announced once it is issued; a failed message is counted and reported. The time at which a timed command
leaves the clock is the model's choice (log entry 2). Completes: doorbellWrite, eventConsumerWrite, queueStopped, notifyModTimer,
notifyMessageResponse. -/
def Obligations.DoorbellsQueueEndsAndNotifies : Prop :=
  (∀ w (x : Fin 4096) wide v k s, s.servesDoorbell w (4096 * x) 4 = true → s.dbReason x (dbValue wide v) = 0 →
    s.poolQ x (bits (dbValue wide v) 16 6) (bitN (dbValue wide v) 22 == 1) = some k →
    ∃ t, exec (.doorbellWrite w x wide v) s = .next t ∧ t.sp = ⟨true, 0⟩ ∧ (t.q k).pi = dbValue wide v % 2 ^ 16) ∧
  (∀ w (x : Fin 4096) wide v s, s.servesDoorbell w (4096 * x) 4 = true → s.dbReason x (dbValue wide v) ≠ 0 →
    ∃ t, exec (.doorbellWrite w x wide v) s = .next t ∧ t.sp = ⟨false, 0⟩ ∧ t.qs = s.qs ∧ t.is HR_EVT_DB_REJ = true ∧
      t.rd (HR_CTX_CNT_DB_REJ x) = upBy s (HR_CTX_CNT_DB_REJ x) 1 ∧
      (s.is HR_DB_LAST_VALID = false → t.rd HR_DB_LAST_CTX = x ∧ t.rd HR_DB_LAST_REASON = s.dbReason x (dbValue wide v))) ∧
  (∀ w (x : Fin 4096) wide v s, s.servesDoorbell w (4096 * x) 4 = false → exec (.doorbellWrite w x wide v) s = .next { s with sp := ⟨false, 0⟩ }) ∧
  (∀ w (x : Fin 4096) wide v e s, s.servesDoorbell w (4096 * x + 8) 4 = true → s.evcReason x (dbValue wide v) = 0 → (s.ctx x).evr = some e →
    ∃ t, exec (.eventConsumerWrite w x wide v) s = .next t ∧ t.sp = ⟨true, 0⟩ ∧
      t.ctx x = { s.ctx x with evr := some { e with ci := dbValue wide v } } ∧ Kept portCounts s t) ∧
  (∀ w (x : Fin 4096) wide v s, s.servesDoorbell w (4096 * x + 8) 4 = true → s.evcReason x (dbValue wide v) ≠ 0 →
    ∃ t, exec (.eventConsumerWrite w x wide v) s = .next t ∧ t.sp = ⟨false, 0⟩ ∧ t.ctxs = s.ctxs ∧ t.is HR_EVT_DB_REJ = true ∧
      t.rd (HR_CTX_CNT_DB_REJ x) = upBy s (HR_CTX_CNT_DB_REJ x) 1) ∧
  (∀ (n : Fin 32768) rx s, let k := n.val + 32768 * b2n rx
    s.coreUp = true → (s.q k).state = qSTOPPING → s.queueBusy k = false →
    ∃ t, exec (.queueStopped n rx) s = .next t ∧ (t.q k).state = qSTOPPED ∧ (t.q k).bufs = [] ∧ (t.q k).fp = (s.q k).ci ∧
      (t.q k).stopCmd = none) ∧
  (∀ (n : Fin 32768) rx s, (s.q (n.val + 32768 * b2n rx)).state ≠ qSTOPPING → exec (.queueStopped n rx) s = .next s) ∧
  (∀ (x : Fin 4096) (v : Fin 64) a r s, (s.vec x v).un = a :: r → (s.vec x v).modUs ≠ 0 → (s.vec x v).mask = false → s.msgHeld x = false →
    (s.vec x v).msg = false → s.coreUp = true →
    ∃ t, exec (.notifyModTimer x v) s = .next t ∧ t.asks .notify x v (s.vec x v).addr (leBytes 4 (s.vec x v).data) 0 = true ∧
      t.vec x v = (if t.fab.reqs.any (fun r => r.waits x v) then { s.vec x v with msg := true } else { s.vec x v with un := [] }) ∧
      t.tm.tick = max s.tm.tick (a + 1600 * (s.vec x v).modUs)) ∧
  (∀ d u s, s.response .notify = some (d, u) → ∃ t, exec .notifyMessageResponse s = .next t ∧
    (if d.resp = .okay then t.flds = s.flds
      else t.rd HR_NT_FAIL_COUNT = upBy s HR_NT_FAIL_COUNT 1 ∧ t.is HR_EVT_NT_FAIL = true ∧ Kept [HR_NT_FAIL_COUNT, HR_EVT_NT_FAIL] s t))

/-- Descriptor and data fetches (R36, R205, R231, R233, R235): a read goes out for the queue in turn; descriptors that arrive move the queue
on and one that fails stops it; a frame's fetch takes its cells and reads its data; the last answer makes it ready. Completions (R34, R237,
R241, R242): the entry at the head of a ring goes out once its frame or descriptor has ended; its `OKAY` answer retires it and another
answer stops the queue as a completion fault. The time at which a timed command leaves the clock is the model's choice (log entry 2). What
log entries 57, 58, 59 choose is the model's choice. Completes: rxCompletionWrite, txCompletionWrite, completionWriteResponse,
descriptorReadIssue, descriptorReadResponse, dataFetchIssue, dataFetchResponse. -/
def Obligations.FetchesAndCompletions : Prop :=
  (∀ k s, s.islandRuns 5 = true → s.fetchTurn = some k → ∃ t, exec .descriptorReadIssue s = .next t ∧
    t.q k = { s.q k with fp := ((s.q k).fp + s.readCount k) % 2 ^ ((s.q k).log2 + 1), reading := (s.q k).reading + s.readCount k } ∧
    t.asks .descRead k ((s.q k).fp + 65536 * s.readCount k) (slotAddr (s.q k).ring (s.q k).log2 (s.q k).fp (entrySize k)) []
      (s.readCount k * entrySize k) = true ∧ t.ring.turn = turnKey k) ∧
  (∀ d r s, s.coreUp = true → takeFirst s.descReady s.fab.done = some (d, r) → d.a < 32768 → (s.q d.a).poison = false → d.resp = .okay →
    ∃ t, exec .descriptorReadResponse s = .next t ∧ t.fab.done = r ∧ t.nextFr = s.nextFr + d.b / 65536 ∧
      (t.q d.a).ci = (d.b % 65536 + d.b / 65536) % 2 ^ ((s.q d.a).log2 + 1) ∧ (t.q d.a).reading = (s.q d.a).reading - d.b / 65536) ∧
  (∀ d r s, s.coreUp = true → takeFirst s.descReady s.fab.done = some (d, r) → d.a < 65536 → (s.q d.a).poison = false → d.resp ≠ .okay →
    (s.q d.a).state = qRUN → ∃ t, exec .descriptorReadResponse s = .next t ∧ (t.q d.a).state = qSTOPPING ∧ (t.q d.a).faulted = true ∧
      (t.q d.a).last = faultOf d.resp ∧ t.is HR_EVT_RING_FAULT = true) ∧
  (∀ id f s, s.islandRuns 5 = true →
    s.fetchPick [] ((s.txs.filter (fun e => e.2.stage == .accepted)).mergeSort (fun a b => a.2.order ≤ b.2.order)) = some (id, f) →
    let l := piecesOf (leNat f.desc 0 8) (leNat f.desc 8 2)
    ∃ t, exec .dataFetchIssue s = .next t ∧ t.fb.tx = s.fb.tx + cellsOf f.len ∧ t.fb.free = s.fb.free - cellsOf f.len ∧
      t.txf id = some { f with stage := .fetching, cells := cellsOf f.len, left := l.length, chan := (s.q f.queue).chan, cls := (s.q f.queue).cls } ∧
      (∀ e ∈ l, t.asks .dataFetch id e.1 e.2.1 [] e.2.2 = true)) ∧
  (∀ d u f s, s.response .dataFetch = some (d, u) → s.txf d.a = some f → f.stage = .fetching → f.left = 1 → f.bad = false → d.resp = .okay →
    ∃ t, exec .dataFetchResponse s = .next t ∧
      t.txf d.a = some { f with left := 0, data := f.data ++ [(d.b, d.data)], stage := .ready, readyAt := s.tm.tick }) ∧
  (∀ d u f s, s.response .dataFetch = some (d, u) → s.txf d.a = some f → f.stage = .fetching → 2 ≤ f.left →
    ∃ t, exec .dataFetchResponse s = .next t ∧ t.txf d.a = some
      { f with left := f.left - 1, bad := (f.bad || d.resp != .okay), data := (if d.resp = .okay then f.data ++ [(d.b, d.data)] else f.data) }) ∧
  (∀ (n : Fin 32768) id r f s, let k := 32768 + n.val
    s.coreUp = true → (s.q k).order = id :: r → s.rxf id = some f → f.stage = .complete →
    ∃ t, exec (.rxCompletionWrite n) s = .next t ∧ t.rxf id = some { f with stage := .written } ∧ t.q k = (s.q k).issued ∧
      t.asks .rxCmpl id (s.q k).cpi (slotAddr (s.q k).cmpl (s.q k).log2 (s.q k).cpi 32) (rxEntry f (phase (s.q k).log2 (s.q k).cpi)) 0 = true) ∧
  (∀ (n : Fin 32768) id r f s, s.coreUp = true → (s.q n).order = id :: r → s.txf id = some f → f.stage = .ended → f.need = true →
    ∃ t, exec (.txCompletionWrite n) s = .next t ∧ t.txf id = none ∧ (t.q n).cpi = nextIdx (s.q n).log2 (s.q n).cpi ∧
      (t.q n).cmplOut = (s.q n).cmplOut + 1 ∧
      t.asks .txCmpl n (s.q n).cpi (slotAddr (s.q n).cmpl (s.q n).log2 (s.q n).cpi 32) (txEntry f (phase (s.q n).log2 (s.q n).cpi)) 0 = true) ∧
  (∀ d r f s, s.coreUp = true → takeFirst (fun d => d.kind == .rxCmpl || d.kind == .txCmpl || d.kind == .event) s.fab.done = some (d, r) →
    d.kind = .rxCmpl → d.resp = .okay → s.rxf d.a = some f →
    ∃ t, exec .completionWriteResponse s = .next t ∧ t.rxf d.a = none ∧ (t.q f.queue).cmplOut = (s.q f.queue).cmplOut - 1) ∧
  (∀ d r s, s.coreUp = true → takeFirst (fun d => d.kind == .rxCmpl || d.kind == .txCmpl || d.kind == .event) s.fab.done = some (d, r) →
    d.kind = .txCmpl → d.resp = .okay →
    ∃ t, exec .completionWriteResponse s = .next t ∧ t.q d.a = { s.q d.a with cmplOut := (s.q d.a).cmplOut - 1 }) ∧
  (∀ d r s, s.coreUp = true → takeFirst (fun d => d.kind == .rxCmpl || d.kind == .txCmpl || d.kind == .event) s.fab.done = some (d, r) →
    d.kind = .txCmpl → d.resp ≠ .okay → (s.q d.a).state = qRUN →
    ∃ t, exec .completionWriteResponse s = .next t ∧ (t.q d.a).state = qSTOPPING ∧ (t.q d.a).faulted = true ∧
      t.is HR_EVT_CMPL_FAULT = true)

/-- The command ring (R249 to R253, R255, R256): the registers enable it and move its producer index; a command that has been read waits at
the head, one that cannot be read or completed halts the ring, one of no known `OP` or with a reserved bit set ends `BADARG`; a command that
may start leaves the ring, whose consumer index follows; with none read, a command's operation does nothing. What log entry 67 chooses is
the model's choice. Completes: cmdEnableWrite, cmdPiWrite, commandReadResponse, commandCompletionResponse, cmdNop, ctxCreate, ctxDestroy,
ctxReset, ctxFreeze, ctxSave, ctxRestore, ctxResume, dirtyStart, dirtyStop, txqSetup, rxqSetup, qStop, qRestart, qTeardown, evqSetup,
evqTeardown, vecSet, epInsert, epDelete, epModify, epQuery, shaperSet. -/
def Obligations.CommandRing : Prop :=
  (∀ w v s, s.serves w 0x100010 4 = true → s.is HR_CMD_CFG_EN = false → v.getLsbD 0 = true →
    ∃ t, exec (.cmdEnableWrite w v) s = .next t ∧ t.sp = ⟨true, 0⟩ ∧ t.is HR_CMD_CFG_EN = true ∧ t.rd HR_CMD_CFG_LOG2 = bits v.toNat 8 4 ∧
      t.rd HR_CMD_STAT_CI = 0 ∧ t.ring.cpi = 0) ∧
  (∀ w v s, s.serves w 0x100010 4 = true → v.getLsbD 0 = false →
    ∃ t, exec (.cmdEnableWrite w v) s = .next t ∧ t.sp = ⟨true, 0⟩ ∧ t.is HR_CMD_CFG_EN = false ∧ t.is HR_CMD_STAT_HALTED = false ∧
      t.ring.heads = [] ∧ t.ring.active = s.ring.active) ∧
  (∀ w v s, s.serves w 0x100014 4 = true →
    ∃ t, exec (.cmdPiWrite w v) s = .next t ∧ t.sp = ⟨true, 0⟩ ∧
      (let pi := v.toNat % 2 ^ 16
      if 2 ^ (s.cmdLog2 + 1) ≤ pi ∨ 2 ^ s.cmdLog2 < occ s.cmdLog2 pi (s.rd HR_CMD_STAT_CI)
        then t.ring = s.ring ∧ t.rd HR_CFG_REJ_COUNT = upBy s HR_CFG_REJ_COUNT 1 ∧ Kept (HR_CFG_REJ_COUNT :: portCounts) s.settleBeats t
        else t.rd HR_CMD_PI_PI = pi ∧ Kept (HR_CMD_PI_PI :: portCounts) s.settleBeats t)) ∧
  (∀ d u s, s.response .cmdRead = some (d, u) → d.a = 0 → d.resp = .okay → knownOps.contains (byteAt d.data 0) = true →
    ∃ t, exec .commandReadResponse s = .next t ∧ t.ring = { s.ring with reading := false, heads := [d.data] } ∧ t.flds = s.flds) ∧
  (∀ d u s, s.response .cmdRead = some (d, u) → d.a = 0 → d.resp ≠ .okay →
    ∃ t, exec .commandReadResponse s = .next t ∧ t.ring = { s.ring with reading := false } ∧ t.is HR_CMD_STAT_HALTED = true ∧
      t.is HR_EVT_CMD_HALT = true ∧ Kept [HR_CMD_STAT_HALTED, HR_EVT_CMD_HALT] s t) ∧
  (∀ d u s, s.response .cmdRead = some (d, u) → d.a = 0 → d.resp = .okay → knownOps.contains (byteAt d.data 0) = false →
    s.cmdMayStart d.data = true → s.is HR_CMD_CFG_EN = true →
    ∃ t, exec .commandReadResponse s = .next t ∧ t.ring.heads = [] ∧ t.ring.active = s.ring.active ∧
      ∃ r ∈ t.fab.reqs, r.kind = .cmdCmpl ∧ r.addr = slotAddr s.cmdcBase s.cmdLog2 s.ring.cpi 32 ∧
        r.data = cmplEntry (cmdOf d.data) sBADARG 0 (phase s.cmdLog2 s.ring.cpi)) ∧
  (∀ d u s, s.response .cmdCmpl = some (d, u) → ∃ t, exec .commandCompletionResponse s = .next t ∧ t.ring = s.ring ∧
    (if d.resp = .okay then t.is HR_EVT_CMD_DONE = true ∧ Kept [HR_EVT_CMD_DONE] s t
      else t.is HR_CMD_STAT_HALTED = true ∧ t.is HR_EVT_CMD_HALT = true ∧ Kept [HR_CMD_STAT_HALTED, HR_EVT_CMD_HALT] s t)) ∧
  (∀ e s, s.ring.heads = [e] → s.cmdMayStart e = true → s.islandRuns 5 = true → s.is HR_CMD_CFG_EN = true →
    ∀ p ∈ [(Instr.cmdNop, 0, []), (.ctxCreate, 1, [(8, 0, 7), (9, 0, 7)]), (.ctxDestroy, 2, []), (.ctxReset, 3, [(8, 0, 1)]), (.ctxFreeze, 4, []),
      (.ctxSave, 5, [(8, 0, 64)]), (.ctxRestore, 6, [(8, 0, 64)]), (.ctxResume, 7, []),
      (.dirtyStart, 8, [(8, 0, 64), (0x10, 0, 64), (0x18, 0, 32)]), (.dirtyStop, 9, []), (.txqSetup, 0x10, setupMask), (.rxqSetup, 0x11, setupMask),
      (.qStop, 0x12, [(8, 0, 6), (8, 6, 1)]), (.qRestart, 0x13, [(8, 0, 6), (8, 6, 1)]), (.qTeardown, 0x14, [(8, 0, 6), (8, 6, 1)]),
      (.evqSetup, 0x15, [(9, 0, 4), (10, 0, 6), (10, 6, 1), (0x10, 0, 64)]), (.evqTeardown, 0x16, []),
      (.vecSet, 0x17, [(8, 0, 6), (8, 6, 1), (9, 0, 8), (10, 0, 16), (12, 0, 32), (0x10, 0, 64)]),
      (.epInsert, 0x20, [(8, 0, 320), (0x30, 0, 28)]), (.epDelete, 0x21, [(8, 0, 320)]), (.epModify, 0x22, [(8, 0, 320), (0x30, 0, 28)]),
      (.epQuery, 0x23, [(8, 0, 320)]),
      (.shaperSet, 0x30, [(8, 0, 15), (10, 0, 1), (12, 0, 32), (0x10, 0, 24), (0x14, 0, 9), (0x18, 0, 14)])],
    byteAt e 0 = p.2.1 → p.1 = .cmdNop ∨ (cmdOf e).formOk p.2.2 = false →
    ∃ t, exec p.1 s = .next t ∧ t.ring.heads = [] ∧ t.ring.nextId = s.ring.nextId + 1 ∧
      t.rd HR_CMD_STAT_CI = nextIdx s.cmdLog2 (s.rd HR_CMD_STAT_CI) % 2 ^ 16 ∧ t.ctxs = s.ctxs ∧ t.qs = s.qs ∧
      t.ring.cpi = nextIdx s.cmdLog2 s.ring.cpi ∧
      ∃ r ∈ t.fab.reqs, r.kind = .cmdCmpl ∧ r.addr = slotAddr s.cmdcBase s.cmdLog2 s.ring.cpi 32 ∧
        r.data = cmplEntry (cmdOf e) (if (cmdOf e).formOk p.2.2 then sOK else sBADARG) (if (cmdOf e).formOk p.2.2 then 0 else (cmdOf e).refused s)
          (phase s.cmdLog2 s.ring.cpi)) ∧
  (∀ s, s.ring.heads = [] → ∀ c ∈ [Instr.cmdNop, .ctxCreate, .ctxDestroy, .ctxReset, .ctxFreeze, .ctxSave, .ctxRestore, .ctxResume, .dirtyStart,
    .dirtyStop, .txqSetup, .rxqSetup, .qStop, .qRestart, .qTeardown, .evqSetup, .evqTeardown, .vecSet, .epInsert, .epDelete, .epModify, .epQuery,
    .shaperSet], exec c s = .next s)

/-- Commands that make, end, reset, freeze and resume a context (R252, R257 to R259, R265 to R267, R270, R275): each acts in the states R257
gives it and ends `STATE` in any other; a creation takes the lowest free queues or ends `NORES`; a reset stops the queues that run, and a
freeze calls back the descriptor reads that have not gone out. The time at which a timed command leaves the clock is the model's choice (log
entry 2). What log entries 63, 68, 112 choose is the model's choice. Completes: ctxCreate, ctxDestroy, ctxReset, ctxFreeze, ctxResume. -/
def Obligations.ContextCommands : Prop :=
  let ends (s t : State) (id : Nat) (c : CmdSt) (st res : Nat) : Prop := ∃ r ∈ t.fab.reqs, r.kind = .cmdCmpl ∧ r.a = id ∧
    r.addr = slotAddr s.cmdcBase s.cmdLog2 s.ring.cpi 32 ∧ r.data = cmplEntry c st res (phase s.cmdLog2 s.ring.cpi)
  ∀ e s, s.ring.heads = [e] → s.cmdMayStart e = true → s.islandRuns 5 = true → s.is HR_CMD_CFG_EN = true → s.shaps.all (fun y => y.2.cmd.isNone) = true →
  let c := cmdOf e
  let x := c.ctx
  let id := s.ring.nextId
  (byteAt e 0 = 1 → c.formOk [(8, 0, 7), (9, 0, 7)] = true → c.f 8 0 7 ≤ 64 → c.f 9 0 7 ≤ 64 →
    (∀ a, (s.ctx x).state = cFREE → (s.ctx x).closing = none → (∀ d ∈ s.ring.active, d.2.op ≠ 6) → s.allocQueues (c.f 8 0 7) (c.f 9 0 7) = some a →
      ∃ t, exec .ctxCreate s = .next t ∧ t.ctx x = { state := cACTIVE, txq := a.1, rxq := a.2, dirty := (s.ctx x).dirty } ∧ ends s t id c sOK 0 ∧
        (∀ i k, a.1[i]? = some k → t.q k = { owned := true, ctx := x, qidx := i }) ∧
        (∀ i k, a.2[i]? = some k → t.q (32768 + k) = { owned := true, ctx := x, qidx := i })) ∧
    ((s.ctx x).state = cFREE → (s.ctx x).closing = none → (∀ d ∈ s.ring.active, d.2.op ≠ 6) → s.allocQueues (c.f 8 0 7) (c.f 9 0 7) = none →
      ∃ t, exec .ctxCreate s = .next t ∧ t.ctxs = s.ctxs ∧ t.qs = s.qs ∧ ends s t id c sNORES 0) ∧
    ((s.ctx x).state ≠ cFREE ∨ (s.ctx x).closing.isSome = true →
      ∃ t, exec .ctxCreate s = .next t ∧ t.ctxs = s.ctxs ∧ t.qs = s.qs ∧ ends s t id c sSTATE 0)) ∧
  (byteAt e 0 = 2 → c.formOk [] = true → x ≠ 0 →
    (let ok : Bool := (s.ctx x).state == cACTIVE && (s.ctx x).evr.isNone && (s.ctxQueues x).all (fun k => (s.q k).state == qUNSET)
    (ok = false → ∃ t, exec .ctxDestroy s = .next t ∧ t.ctxs = s.ctxs ∧ t.qs = s.qs ∧ ends s t id c sSTATE 0) ∧
    (ok = true → 64 ≤ s.slotsTaken → ∃ t, exec .ctxDestroy s = .next t ∧ t.ctxs = s.ctxs ∧ t.qs = s.qs ∧ ends s t id c sNORES 0) ∧
    (ok = true → s.slotsTaken < 64 → s.inFlight x = false → s.awaitsFor .dirtyMark x = false → (s.ctx x).dirty.bind (·.stopCmd) = none →
      ∃ t, exec .ctxDestroy s = .next t ∧ t.ctx x = {} ∧ (∀ k ∈ s.ctxQueues x, t.q k = {}) ∧ t.led.slots.length = s.led.slots.length + 1 ∧
        ends s t id c sOK 0) ∧
    (∀ d, ok = true → s.slotsTaken < 64 → (s.ctx x).dirty = some d → s.awaitsFor .dirtyMark x = true →
      ∃ t, exec .ctxDestroy s = .next t ∧ (t.ctx x).state = cFREE ∧ (t.ctx x).dirty = some { d with stopping := true }) ∧
    (ok = true → s.slotsTaken < 64 → s.inFlight x = true → s.awaitsFor .dirtyMark x = false → (s.ctx x).dirty.bind (·.stopCmd) = none →
      ∃ t, exec .ctxDestroy s = .next t ∧ t.ctx x = { owner := (s.ctx x).owner, closing := some (some id) } ∧
        (∀ k ∈ s.ctxQueues x, t.q k = {}) ∧ t.led.slots = s.led.slots ∧ optGet t.ring.active id = some c))) ∧
  (byteAt e 0 = 3 → c.formOk [(8, 0, 1)] = true →
    ((s.ctx x).state = cACTIVE ∨ (s.ctx x).state = cFROZEN →
      ∃ t r, exec .ctxReset s = .next t ∧ (t.ctx x).state = cRESETTING ∧ (t.ctx x).reset = some r ∧ r.squash = (c.f 8 0 1 == 1) ∧ r.cmd = some id ∧
        r.start = s.tm.tick ∧ r.timeout = false ∧ optGet t.ring.active id = some c ∧
        (∀ k ∈ s.ctxQueues x, (s.q k).state = qRUN → (t.q k).state = qSTOPPING)) ∧
    ((s.ctx x).state ≠ cACTIVE → (s.ctx x).state ≠ cFROZEN →
      ∃ t, exec .ctxReset s = .next t ∧ t.ctxs = s.ctxs ∧ t.qs = s.qs ∧ ends s t id c sSTATE 0)) ∧
  (byteAt e 0 = 4 → c.formOk [] = true →
    ((s.ctx x).state = cACTIVE → ∃ t, exec .ctxFreeze s = .next t ∧
      (t.ctx x).state = cFREEZING ∧ (t.ctx x).freeze = some (some id, s.tm.tick) ∧ (t.ctx x).txq = (s.ctx x).txq ∧ (t.ctx x).rxq = (s.ctx x).rxq ∧
      (∀ r ∈ t.fab.reqs, r.kind = .descRead → r.a ∈ s.ctxQueues x → r.tag.isSome = true) ∧
      (∀ k, (s.ctxQueues x).contains k = false → t.q k = s.q k) ∧ optGet t.ring.active id = some c) ∧
    ((s.ctx x).state ≠ cACTIVE → ∃ t, exec .ctxFreeze s = .next t ∧ t.ctxs = s.ctxs ∧ t.qs = s.qs ∧ ends s t id c sSTATE 0)) ∧
  (byteAt e 0 = 7 → c.formOk [] = true →
    ((s.ctx x).state = cFROZEN → ∃ t, exec .ctxResume s = .next t ∧ (t.ctx x).state = cACTIVE ∧ t.qs = s.qs ∧ ends s t id c sOK 0) ∧
    ((s.ctx x).state ≠ cFROZEN → ∃ t, exec .ctxResume s = .next t ∧ t.ctxs = s.ctxs ∧ t.qs = s.qs ∧ ends s t id c sSTATE 0))

/-- How resets and freezes end (R257, R268, R269, R271, R279): a reset ends when nothing is in flight and everything has been written, at
its limit the rest is squashed; a freeze ends when the context's frames have passed and at its limit goes back to `ACTIVE`. A context's
shade set is taken once (R262). The time at which a timed command leaves the clock is the model's choice (log entry 2). What log entry 112
chooses is the model's choice. Completes: resetEnd, drainTimeout, freezeEnd, freezeTimeout, cxCommit. -/
def Obligations.ResetsAndFreezesEnd : Prop :=
  let ends (s t : State) (id : Nat) (c : CmdSt) (st res : Nat) : Prop := ∃ r ∈ t.fab.reqs, r.kind = .cmdCmpl ∧ r.a = id ∧
    r.addr = slotAddr s.cmdcBase s.cmdLog2 s.ring.cpi 32 ∧ r.data = cmplEntry c st res (phase s.cmdLog2 s.ring.cpi)
  (∀ (x : Fin 4096) r id c s, (s.ctx x).reset = some r → (s.ctx x).state = cRESETTING → s.coreUp = true → s.inFlight x = false → s.ctxQuiet x = true →
    r.cmd = some id → optGet s.ring.active id = some c → s.is HR_CMD_CFG_EN = true →
    ∃ t, exec (.resetEnd x) s = .next t ∧ (t.ctx x).state = cACTIVE ∧ (t.ctx x).reset = none ∧ t.is CX_EVT_RESET_DONE = true ∧
      ends s t id c (if r.timeout then sTIMEOUT else sOK) 0) ∧
  (∀ (x : Fin 4096) s, (s.ctx x).reset = none ∨ s.inFlight x = true ∨ s.ctxQuiet x = false ∨ s.coreUp = false → exec (.resetEnd x) s = .next s) ∧
  (∀ (x : Fin 4096) r s, (s.ctx x).reset = some r → (s.ctx x).state = cRESETTING → r.squash = false → s.coreUp = true →
    ∃ t u, exec (.drainTimeout x) s = .next t ∧ (t.ctx x).state = cRESETTING ∧ (t.ctx x).reset = some u ∧ u.squash = true ∧ u.timeout = true ∧
      u.cmd = r.cmd ∧ u.start = r.start ∧ t.rd (CX_STAT_DRAIN_TMO x) = upBy s (CX_STAT_DRAIN_TMO x) 1 ∧
      t.tm.tick = max s.tm.tick (r.start + usTicks (s.rd CX_LIMITS_DRAIN_US))) ∧
  (∀ (x : Fin 4096) s, (s.ctx x).reset = none ∨ s.coreUp = false → exec (.drainTimeout x) s = .next s) ∧
  (∀ (x : Fin 4096) n id c s, (s.ctx x).freeze = some (some id, n) → (s.ctx x).state = cFREEZING → s.coreUp = true → s.freezeBusy x = false → s.ctxQuiet x = true →
    optGet s.ring.active id = some c → s.is HR_CMD_CFG_EN = true →
    ∃ t, exec (.freezeEnd x) s = .next t ∧ t.ctx x = { s.ctx x with state := cFROZEN, freeze := none } ∧ t.is CX_EVT_FROZEN = true ∧
      (∀ k ∈ s.ctxQueues x, (t.q k).bufs = [] ∧ (t.q k).fp = (s.q k).ci) ∧ ends s t id c sOK 0) ∧
  (∀ (x : Fin 4096) s, (s.ctx x).freeze = none ∨ s.freezeBusy x = true ∨ s.ctxQuiet x = false ∨ s.coreUp = false → exec (.freezeEnd x) s = .next s) ∧
  (∀ (x : Fin 4096) n id c s, (s.ctx x).freeze = some (some id, n) → (s.ctx x).state = cFREEZING → optGet s.ring.active id = some c → s.coreUp = true →
    s.is HR_CMD_CFG_EN = true →
    ∃ t, exec (.freezeTimeout x) s = .next t ∧ (t.ctx x).state = cACTIVE ∧ (t.ctx x).freeze = none ∧ t.is CX_EVT_FREEZE_ABORT = true ∧ t.qs = s.qs ∧
      t.tm.tick = max s.tm.tick (n + usTicks (s.rd CX_LIMITS_FREEZE_US)) ∧ ends s t id c sTIMEOUT 0) ∧
  (∀ (x : Fin 4096) s, (s.ctx x).freeze = none ∨ s.coreUp = false → exec (.freezeTimeout x) s = .next s) ∧
  (∀ w s, s.serves w 0x101010 4 = true → ∃ t, exec (.cxCommit w) s = .next t ∧ t.sp = ⟨true, 0⟩ ∧
    (let x := s.rd CX_SEL_CTX
    if s.is (CX_COMMIT_LOCKED x) then t.rd (CX_COMMIT_REJ x) = upBy s (CX_COMMIT_REJ x) 1 ∧ t.is CX_EVT_SHADE_REJ = true ∧ t.ctxs = s.ctxs ∧
        Kept ([CX_COMMIT_REJ x, CX_EVT_SHADE_REJ] ++ portCounts) s.settleBeats t
      else t.is (CX_COMMIT_LOCKED x) = true ∧ t.ctx x = { s.ctx x with commitAt := s.tm.cyc } ∧ (∀ k, k ≠ x → t.ctx k = s.ctx k) ∧
        Kept (CX_COMMIT_LOCKED x :: portCounts) s.settleBeats t))

/-- Images (R252, R273, R274): a frozen context's image is written where the command says and a free context's is read from there; the
answer of the write ends the command; an image that fails a check names its first failure and changes no context, one that passes them loads
the context into `FROZEN` on the lowest free queues. What log entries 65, 68 choose is the model's choice. Completes: ctxSave, ctxRestore,
imageWriteResponse, imageReadResponse. -/
def Obligations.ContextImages : Prop :=
  let ends (s t : State) (id : Nat) (c : CmdSt) (st res : Nat) : Prop := ∃ r ∈ t.fab.reqs, r.kind = .cmdCmpl ∧ r.a = id ∧
    r.addr = slotAddr s.cmdcBase s.cmdLog2 s.ring.cpi 32 ∧ r.data = cmplEntry c st res (phase s.cmdLog2 s.ring.cpi)
  (∀ e s, s.ring.heads = [e] → s.cmdMayStart e = true → s.islandRuns 5 = true → s.is HR_CMD_CFG_EN = true → byteAt e 0 = 5 →
    let c := cmdOf e
    c.formOk [(8, 0, 64)] = true → addrOk (c.f 8 0 64) 4096 = true →
    ((s.ctx c.ctx).state = cFROZEN → ∃ t, exec .ctxSave s = .next t ∧ t.ctxs = s.ctxs ∧ optGet t.ring.active s.ring.nextId = some c ∧
      ∃ r ∈ t.fab.reqs, r.kind = .imageWrite ∧ r.a = s.ring.nextId ∧ r.addr = c.f 8 0 64 ∧ r.data = s.image c.ctx) ∧
    ((s.ctx c.ctx).state ≠ cFROZEN → ∃ t, exec .ctxSave s = .next t ∧ t.ctxs = s.ctxs ∧ ends s t s.ring.nextId c sSTATE 0)) ∧
  (∀ d u c s, s.response .imageWrite = some (d, u) → optGet s.ring.active d.a = some c → s.is HR_CMD_CFG_EN = true →
    ∃ t, exec .imageWriteResponse s = .next t ∧ t.ctxs = s.ctxs ∧ ends s t d.a c (if d.resp = .okay then sOK else faultOf d.resp) 0) ∧
  (∀ e s, s.ring.heads = [e] → s.cmdMayStart e = true → s.islandRuns 5 = true → s.is HR_CMD_CFG_EN = true → byteAt e 0 = 6 →
    let c := cmdOf e
    c.formOk [(8, 0, 64)] = true → addrOk (c.f 8 0 64) 4096 = true →
    ((s.ctx c.ctx).state = cFREE → (s.ctx c.ctx).closing = none → (∀ d ∈ s.ring.active, d.2.op ≠ 6) →
      ∃ t, exec .ctxRestore s = .next t ∧ t.ctxs = s.ctxs ∧ optGet t.ring.active s.ring.nextId = some c ∧
        ∃ r ∈ t.fab.reqs, r.kind = .imageRead ∧ r.a = s.ring.nextId ∧ r.b = c.ctx ∧ r.addr = c.f 8 0 64 ∧ r.rlen = 4096) ∧
    ((s.ctx c.ctx).state ≠ cFREE → ∃ t, exec .ctxRestore s = .next t ∧ t.ctxs = s.ctxs ∧ ends s t s.ring.nextId c sSTATE 0)) ∧
  (∀ d u c f s, s.response .imageRead = some (d, u) → d.resp = .okay → imageBad d.data = some f → optGet s.ring.active d.a = some c →
    s.is HR_CMD_CFG_EN = true →
    ∃ t, exec .imageReadResponse s = .next t ∧ t.ctxs = s.ctxs ∧ t.qs = s.qs ∧ t.rd CX_IMG_ERR_CODE = f.1 % 2 ^ CX_IMG_ERR_CODE.w ∧
      t.rd CX_IMG_ERR_OFF = f.2 % 2 ^ CX_IMG_ERR_OFF.w ∧ ends s t d.a c sBADARG 0) ∧
  (∀ d u c s, s.response .imageRead = some (d, u) → d.resp ≠ .okay → optGet s.ring.active d.a = some c → s.is HR_CMD_CFG_EN = true →
    ∃ t, exec .imageReadResponse s = .next t ∧ t.ctxs = s.ctxs ∧ t.qs = s.qs ∧ t.rd CX_IMG_ERR_CODE = 1 ∧ ends s t d.a c (faultOf d.resp) 0) ∧
  (∀ d u c s, s.response .imageRead = some (d, u) → d.resp = .okay → imageBad d.data = none → optGet s.ring.active d.a = some c →
    s.is HR_CMD_CFG_EN = true → s.shaps.all (fun y => y.2.cmd.isNone) = true →
    let n := leNat d.data 0x00C 4
    (∀ a, s.allocQueues (bits n 0 7) (bits n 8 7) = some a →
      ∃ t, exec .imageReadResponse s = .next t ∧ (t.ctx d.b).state = cFROZEN ∧ t.is CX_EVT_FROZEN = true ∧ (t.ctx d.b).txq = a.1 ∧ (t.ctx d.b).rxq = a.2 ∧
        (t.ctx d.b).owner = leNat d.data 0x010 4 ∧ ends s t d.a c sOK 0) ∧
    (s.allocQueues (bits n 0 7) (bits n 8 7) = none →
      ∃ t, exec .imageReadResponse s = .next t ∧ t.ctxs = s.ctxs ∧ t.qs = s.qs ∧ t.rd CX_IMG_ERR_CODE = 6 ∧ t.rd CX_IMG_ERR_OFF = 0x00C ∧
        ends s t d.a c sNORES 0))

/-- Dirty-page logging (R276, R277): it starts in a context that logs nothing, stops at once where no mark is under way and otherwise with
the last mark's answer, and a mark that fails ends marking and is reported. What log entries 68, 113 choose is the model's choice.
Completes: dirtyStart, dirtyStop, dirtyMarkResponse. -/
def Obligations.DirtyPageLogging : Prop :=
  let ends (s t : State) (id : Nat) (c : CmdSt) (st res : Nat) : Prop := ∃ r ∈ t.fab.reqs, r.kind = .cmdCmpl ∧ r.a = id ∧
    r.addr = slotAddr s.cmdcBase s.cmdLog2 s.ring.cpi 32 ∧ r.data = cmplEntry c st res (phase s.cmdLog2 s.ring.cpi)
  (∀ e s, s.ring.heads = [e] → s.cmdMayStart e = true → s.islandRuns 5 = true → s.is HR_CMD_CFG_EN = true → byteAt e 0 = 8 →
    let c := cmdOf e
    let x := c.ctx
    c.formOk [(8, 0, 64), (0x10, 0, 64), (0x18, 0, 32)] = true → addrOk (c.f 8 0 64) 64 = true → addrOk (c.f 0x10 0 64) 4096 = true →
    c.f 0x18 0 32 ≠ 0 →
    (if (s.ctx x).state = cACTIVE ∧ s.rd SYS_STATE_MODE ≠ 0 ∧ s.sys.pendingMode ≠ some 0 ∧ (s.ctx x).dirty = none then
      ∃ t, exec .dirtyStart s = .next t ∧ t.rd (CX_STAT_DIRTY_FAULT x) = 0 ∧ ends s t s.ring.nextId c sOK 0 ∧
        t.ctx x = { s.ctx x with dirty := some { bitmap := c.f 8 0 64, region := c.f 0x10 0 64, pages := c.f 0x18 0 32 } }
    else ∃ t, exec .dirtyStart s = .next t ∧ t.ctxs = s.ctxs ∧ ends s t s.ring.nextId c sSTATE 0)) ∧
  (∀ e s, s.ring.heads = [e] → s.cmdMayStart e = true → s.islandRuns 5 = true → s.is HR_CMD_CFG_EN = true → byteAt e 0 = 9 →
    let c := cmdOf e
    let x := c.ctx
    c.formOk [] = true →
    ((s.ctx x).dirty = none → ∃ t, exec .dirtyStop s = .next t ∧ t.ctxs = s.ctxs ∧ ends s t s.ring.nextId c sSTATE 0) ∧
    (∀ d, (s.ctx x).dirty = some d → d.stopping = false → s.awaitsFor .dirtyMark x = false →
      ∃ t, exec .dirtyStop s = .next t ∧ t.ctx x = { s.ctx x with dirty := none } ∧
        ends s t s.ring.nextId c (if d.fault then sFAULT else sOK) 0) ∧
    (∀ d, (s.ctx x).dirty = some d → d.stopping = false → s.awaitsFor .dirtyMark x = true →
      ∃ t, exec .dirtyStop s = .next t ∧ t.ctx x = { s.ctx x with dirty := some { d with stopping := true, stopCmd := some s.ring.nextId } } ∧
        optGet t.ring.active s.ring.nextId = some c)) ∧
  (∀ r u d s, s.response .dirtyMark = some (r, u) → (s.ctx r.a).dirty = some d → r.resp = .okay → d.stopping = false →
    ∃ t, exec .dirtyMarkResponse s = .next t ∧ t.ctx r.a = s.ctx r.a ∧ t.flds = s.flds) ∧
  (∀ r u d s, s.response .dirtyMark = some (r, u) → (s.ctx r.a).dirty = some d → r.resp ≠ .okay → d.fault = false → d.stopping = false →
    ∃ t, exec .dirtyMarkResponse s = .next t ∧ (t.ctx r.a).dirty = some { d with fault := true } ∧ t.is (CX_STAT_DIRTY_FAULT r.a) = true ∧
      t.is CX_EVT_DIRTY_FAULT = true) ∧
  (∀ r u d id c s, s.response .dirtyMark = some (r, u) → (s.ctx r.a).dirty = some d → r.resp = .okay → d.stopping = true → d.stopCmd = some id →
    optGet s.ring.active id = some c → s.is HR_CMD_CFG_EN = true → u.awaitsFor .dirtyMark r.a = false →
    ∃ t, exec .dirtyMarkResponse s = .next t ∧ t.ctx r.a = { s.ctx r.a with dirty := none } ∧ ends s t id c (if d.fault then sFAULT else sOK) 0)

/-- Queue, event-ring and vector commands (R244, R245, R248, R253): a setup brings an `UNSET` queue of an active context to `RUN`, a stop
starts a running queue's end, a restart and a teardown take a stopped one; each ends `STATE` in any other state. Completes: txqSetup,
rxqSetup, qStop, qRestart, qTeardown, evqSetup, evqTeardown, vecSet. -/
def Obligations.QueueCommands : Prop :=
  let ends (s t : State) (id : Nat) (c : CmdSt) (st res : Nat) : Prop := ∃ r ∈ t.fab.reqs, r.kind = .cmdCmpl ∧ r.a = id ∧
    r.addr = slotAddr s.cmdcBase s.cmdLog2 s.ring.cpi 32 ∧ r.data = cmplEntry c st res (phase s.cmdLog2 s.ring.cpi)
  ∀ e s, s.ring.heads = [e] → s.cmdMayStart e = true → s.islandRuns 5 = true → s.is HR_CMD_CFG_EN = true →
  let c := cmdOf e
  let x := c.ctx
  let id := s.ring.nextId
  (∀ p ∈ [(Instr.txqSetup, 0x10, false), (.rxqSetup, 0x11, true)], byteAt e 0 = p.2.1 → c.formOk setupMask = true → setupForm p.2.2 c s = true →
    ∀ k, s.poolQ x (c.f 8 0 6) p.2.2 = some k →
    ∃ t, exec p.1 s = .next t ∧
      (if (s.ctx x).state = cACTIVE ∧ (s.q k).state = qUNSET then ends s t id c sOK 0 ∧ t.q k = { owned := true, ctx := (s.q k).ctx, qidx := (s.q k).qidx, chan := (s.q k).chan, cls := (s.q k).cls, state := qRUN, ring := c.f 0x10 0 64, cmpl := c.f 0x18 0 64, log2 := c.f 9 0 4, vector := c.f 10 0 6, notify := (c.f 10 6 1 == 1), prefetch := c.f 11 0 7 }
        else t.qs = s.qs ∧ ends s t id c sSTATE 0)) ∧
  (∀ k, c.formOk [(8, 0, 6), (8, 6, 1)] = true → c.queue s = some k →
    (byteAt e 0 = 0x12 → ∃ t, exec .qStop s = .next t ∧
      (if (s.ctx x).state = cACTIVE ∧ (s.q k).state = qRUN
        then t.q k = { s.q k with state := qSTOPPING, faulted := false, stopCmd := some id } ∧ optGet t.ring.active id = some c
        else t.qs = s.qs ∧ ends s t id c sSTATE (s.q k).ci)) ∧
    (byteAt e 0 = 0x13 → ∃ t, exec .qRestart s = .next t ∧
      (if (s.ctx x).state = cACTIVE ∧ (s.q k).state = qSTOPPED
        then t.q k = { s.q k with state := qRUN, pi := 0, ci := 0, fp := 0, cpi := 0, bufs := [], noRx := false } ∧ ends s t id c sOK 0
        else t.qs = s.qs ∧ ends s t id c sSTATE 0)) ∧
    (byteAt e 0 = 0x14 → ∃ t, exec .qTeardown s = .next t ∧
      (if (s.q k).state = qSTOPPED
        then t.q k = { owned := true, ctx := (s.q k).ctx, qidx := (s.q k).qidx, chan := (s.q k).chan, cls := (s.q k).cls } ∧ ends s t id c sOK 0
        else t.qs = s.qs ∧ ends s t id c sSTATE 0))) ∧
  (byteAt e 0 = 0x15 → c.formOk [(9, 0, 4), (10, 0, 6), (10, 6, 1), (0x10, 0, 64)] = true → 6 ≤ c.f 9 0 4 → addrOk (c.f 0x10 0 64) 64 = true →
    ∃ t, exec .evqSetup s = .next t ∧ t.qs = s.qs ∧
      (if (s.ctx x).state = cACTIVE ∧ (s.ctx x).evr = none
        then t.ctx x = { s.ctx x with evr := some ⟨c.f 0x10 0 64, c.f 9 0 4, 0, 0, c.f 10 0 6, c.f 10 6 1 == 1⟩ } ∧ ends s t id c sOK 0
        else t.ctxs = s.ctxs ∧ ends s t id c sSTATE 0)) ∧
  (byteAt e 0 = 0x16 → c.formOk [] = true →
    ∃ t, exec .evqTeardown s = .next t ∧ t.qs = s.qs ∧
      (if (s.ctx x).evr = none then t.ctxs = s.ctxs ∧ ends s t id c sSTATE 0
        else t.ctx x = { s.ctx x with evr := none } ∧ ends s t id c sOK 0)) ∧
  (byteAt e 0 = 0x17 → c.formOk [(8, 0, 6), (8, 6, 1), (9, 0, 8), (10, 0, 16), (12, 0, 32), (0x10, 0, 64)] = true → addrOk (c.f 0x10 0 64) 4 = true →
    ∃ t, exec .vecSet s = .next t ∧ t.qs = s.qs ∧
      (if (s.ctx x).state = cACTIVE ∨ (s.ctx x).state = cFROZEN
        then t.vec x (c.f 8 0 6) = ⟨c.f 8 6 1 == 1, c.f 9 0 8, c.f 10 0 16, c.f 12 0 32, c.f 0x10 0 64, (t.vec x (c.f 8 0 6)).un, (t.vec x (c.f 8 0 6)).msg⟩ ∧
            ((t.vec x (c.f 8 0 6)).un = [] ∨ (t.vec x (c.f 8 0 6)).un = (s.vec x (c.f 8 0 6)).un) ∧ (∀ v, v ≠ c.f 8 0 6 → t.vec x v = s.vec x v) ∧ ends s t id c sOK 0
        else t.ctxs = s.ctxs ∧ ends s t id c sSTATE 0))

/-- Endpoint and shaper commands (R182, R208, R218, R253): an endpoint command waits behind the update engine's operation; on an idle engine
a key of no known type ends `BADARG`, a bucket that is not cached is read, and a query of a cached entry ends with its verdict; a shaper's
new rates wait for its hand-over, and a shaper that already waits refuses them. What log entries 68, 114 choose is the model's choice.
Completes: epInsert, epDelete, epModify, epQuery, shaperSet. -/
def Obligations.EndpointAndShaperCommands : Prop :=
  let ends (s t : State) (id : Nat) (c : CmdSt) (st res : Nat) : Prop := ∃ r ∈ t.fab.reqs, r.kind = .cmdCmpl ∧ r.a = id ∧
    r.addr = slotAddr s.cmdcBase s.cmdLog2 s.ring.cpi 32 ∧ r.data = cmplEntry c st res (phase s.cmdLog2 s.ring.cpi)
  ∀ e s, s.ring.heads = [e] → s.cmdMayStart e = true → s.islandRuns 5 = true → s.is HR_CMD_CFG_EN = true →
  let c := cmdOf e
  let id := s.ring.nextId
  let key := (e.drop 8).take 40
  let out := toeplitz (beNat key 0 40) s.hkey
  (∀ p ∈ [(Instr.epInsert, 1, [(8, 0, 320), (0x30, 0, 28)]), (.epDelete, 2, [(8, 0, 320)]), (.epModify, 3, [(8, 0, 320), (0x30, 0, 28)]),
      (.epQuery, 4, [(8, 0, 320)])],
    byteAt e 0 = 0x1F + p.2.1 → c.formOk p.2.2 = true →
    let vd := if p.2.1 = 1 ∨ p.2.1 = 3 then c.ctx + 2 ^ 12 * c.f 0x30 0 28 else 0
    (∀ o r, s.tbl.ops = o :: r → o.decided = false → o.reading.isSome = true →
      ∃ t, exec p.1 s = .next t ∧ t.tbl = { s.tbl with ops := s.tbl.ops ++ [{ op := p.2.1, key := key, vd := vd, cmd := some id }] } ∧
        optGet t.ring.active id = some c) ∧
    (s.tbl.ops = [] → byteAt key 0 = 0 ∨ 6 < byteAt key 0 → ∃ t, exec p.1 s = .next t ∧ t.tbl = s.tbl ∧ ends s t id c sBADARG 0) ∧
    (s.tbl.ops = [] → 1 ≤ byteAt key 0 → byteAt key 0 ≤ 6 → s.is CL_CTRL_EN = true → s.cline (hashH1 out) = none →
      s.bucketServed (hashH1 out) = true →
      (p.2.1 = 1 ∨ p.2.1 = 3 → bits vd 33 3 < 3 ∧ (s.ctx (bits vd 0 12)).state ≠ cFREE ∧ (s.poolQ (bits vd 0 12) (bits vd 12 6) true).isSome = true) →
      ∃ t o, exec p.1 s = .next t ∧ t.tbl.ops = [o] ∧ o.op = p.2.1 ∧ o.key = key ∧ o.vd = vd ∧ o.cmd = some id ∧ o.reading = some (hashH1 out) ∧
        optGet t.ring.active id = some c)) ∧
  (∀ line i x, byteAt e 0 = 0x23 → c.formOk [(8, 0, 320)] = true → s.tbl.ops = [] → 1 ≤ byteAt key 0 → byteAt key 0 ≤ 6 → s.is CL_CTRL_EN = true →
    s.cline (hashH1 out) = some line → matchIn line.ents (byteAt key 0) (hashSig out) 0 = some (i, x) →
    ∃ t, exec .epQuery s = .next t ∧ t.tbl.ops = [] ∧ ends s t id c sOK (entVd x / 2 ^ 12 + 2 ^ 32 * (entVd x % 2 ^ 12))) ∧
  (∀ i, byteAt e 0 = 0x30 → c.formOk [(8, 0, 15), (10, 0, 1), (12, 0, 32), (0x10, 0, 24), (0x14, 0, 9), (0x18, 0, 14)] = true →
    c.shaper s = some i → (if c.f 10 0 1 = 1 then c.f 0x14 0 9 = 0 else c.f 0x18 0 14 = 0) →
    ((s.shap i).locked = true → ∃ t, exec .shaperSet s = .next t ∧ t.shaps = s.shaps ∧
      t.rd (SC_COMMIT_REJ i) = upBy s (SC_COMMIT_REJ i) 1 ∧ ends s t id c sSTATE (s.shap i).gen) ∧
    ((s.shap i).locked = false → 32768 ≤ i →
      ∃ t, exec .shaperSet s = .next t ∧ optGet t.ring.active id = some c ∧
        t.shap i = { s.shap i with locked := true, cmd := some id, sRate := c.f 12 0 32, sBurst := c.f 0x10 0 24, sTen := c.f 0x18 0 14,
                                      commitAt := s.tm.cyc }) ∧
    ((s.shap i).locked = false → i < 32768 → s.mapRefuse i (c.f 0x14 0 9) = none →
      ∃ t, exec .shaperSet s = .next t ∧ optGet t.ring.active id = some c ∧
        t.shap i = { s.shap i with locked := true, cmd := some id, sRate := c.f 12 0 32, sBurst := c.f 0x10 0 24, sMap := c.f 0x14 0 9,
                                      commitAt := s.tm.cyc }) ∧
    (∀ st, (s.shap i).locked = false → i < 32768 → s.mapRefuse i (c.f 0x14 0 9) = some st →
      ∃ t, exec .shaperSet s = .next t ∧ t.shaps = s.shaps ∧ t.rd (SC_COMMIT_REJ i) = upBy s (SC_COMMIT_REJ i) 1 ∧
        ends s t id c st (s.shap i).gen))

/-- Cuts (R263, R264, R301 to R305): at its instant a cut opens its window, the period's counts become the old ones, and every commit of a
context's set that was pending before its core cycle is handed over, a later one waiting for the next; one that falls while an earlier is
held is skipped and counted; the window closes with the last marker or at its limit and the closed period is latched under the next number.
The time at which a timed command leaves the clock is the model's choice (log entry 2). What log entry 70 chooses is the model's choice.
Completes: cutMarker, cutInstant, cutWindowTimeout. -/
def Obligations.CutsOpenAndClose : Prop :=
  (∀ n s, s.led.nextCut = some n → s.coreUp = true → s.sleepLoad = false → s.is LG_STAT_PENDING = false → s.led.win = none →
    ∃ t w, exec .cutInstant s = .next t ∧ t.is LG_STAT_WINDOW = true ∧ t.led.win = some w ∧ w.inst = n % 2 ^ 48 * secUnits ∧ w.due = s.markersDue ∧
      w.ctxs = s.cutCtxs ∧ w.mode = s.rd SYS_STATE_MODE ∧ t.led.old = s.led.live ∧ t.led.live = [] ∧ t.led.period = s.led.period + 1 ∧
      t.led.nextCut = some (multipleAfter (n % 2 ^ 48 * secUnits) s.cutPeriod) ∧
      (∀ m, s.sys.pendingMode = some m → t.rd SYS_STATE_MODE = m % 2 ^ SYS_STATE_MODE.w ∧ t.sys.pendingMode = none) ∧
      (let u := if s.secPassed n then s else s.advance (s.cyclesTo (n * secUnits))
      let b := u.tm.cyc - u.cyclesSince (n % 2 ^ 48 * secUnits)
      w.opened = u.tm.tick - u.cyclesSince (n % 2 ^ 48 * secUnits) ∧ w.floor = w.inst ∧
      (∀ x : Fin 4096, s.rd (CX_COMMIT_LOCKED x) = 1 → b ≤ (s.ctx x).commitAt → t.is (CX_COMMIT_LOCKED x) = true ∧
        t.rd (CX_COMMIT_GEN x) = s.rd (CX_COMMIT_GEN x) ∧ t.ctx x = s.ctx x) ∧
      (∀ x : Fin 4096, s.rd (CX_COMMIT_LOCKED x) = 1 → (s.ctx x).commitAt < b → t.is (CX_COMMIT_LOCKED x) = false ∧
        t.rd (CX_COMMIT_GEN x) = (s.rd (CX_COMMIT_GEN x) + 1) % 256 ∧ (t.ctx x).owner = s.rd (CX_OWNER_OWNER x) ∧
        (t.ctx x).groups = s.rd (CX_PARAM_PC_GROUPS x) ∧ (t.ctx x).evState = s.is (CX_PARAM_EV_STATE x)))) ∧
  (∀ n s, s.led.nextCut = some n → s.coreUp = true → s.sleepLoad = false → s.is LG_STAT_PENDING = true ∨ s.led.win.isSome = true →
    ∃ t, exec .cutInstant s = .next t ∧ t.rd LG_SKIP_COUNT = upBy s LG_SKIP_COUNT 1 ∧ t.is LG_EVT_SKIP = true ∧ t.led.skipped = true ∧
      t.led.live = s.led.live ∧ t.led.old = s.led.old ∧ t.led.win = s.led.win ∧ t.ctxs = s.ctxs ∧
      t.led.nextCut = some (multipleAfter (n % 2 ^ 48 * secUnits) s.cutPeriod)) ∧
  (∀ s, s.led.nextCut = none ∨ s.coreUp = false ∨ s.sleepLoad = true → exec .cutInstant s = .next s) ∧
  (∀ (m : Fin 6) w s, s.led.win = some w → s.islandRuns m = true → s.sys.sliceOut.getLsbD m = false → s.islandRuns 5 = true → m.val ∈ w.due → s.passedBefore m w.inst = true →
    ∃ t, exec (.cutMarker m) s = .next t ∧
      (if w.due.erase m.val = []
        then t.led.win = none ∧ t.is LG_STAT_WINDOW = false ∧ t.is LG_STAT_PENDING = true ∧ t.rd LG_SEQ_CUT_SEQ = (s.rd LG_SEQ_CUT_SEQ + 1) % 2 ^ 32 ∧
          t.led.cut.sec = secOf w.inst ∧ t.led.cut.ctxs = w.ctxs ∧ t.led.cut.mode = w.mode ∧ t.led.done = 0 ∧ t.led.floor = w.floor
        else t.led.win = some { w with due := w.due.erase m.val } ∧ t.flds = s.flds)) ∧
  (∀ (m : Fin 6) w s, s.led.win = none ∨ s.led.win = some w ∧ (m.val ∉ w.due ∨ s.passedBefore m w.inst = false ∨ s.islandRuns m = false ∨ s.sys.sliceOut.getLsbD m = true) →
    exec (.cutMarker m) s = .next s) ∧
  (∀ w s, s.led.win = some w → s.coreUp = true →
    ∃ t, exec .cutWindowTimeout s = .next t ∧ t.led.win = none ∧ t.is LG_STAT_WINDOW = false ∧ t.is LG_STAT_PENDING = true ∧
      t.rd LG_SEQ_CUT_SEQ = (s.rd LG_SEQ_CUT_SEQ + 1) % 2 ^ 32 ∧ t.led.cut.sec = secOf w.inst ∧
      t.tm.tick = max s.tm.tick (w.opened + usTicks (s.rd LG_CFG_CLOSE_US))) ∧
  (∀ s, s.led.win = none → exec .cutWindowTimeout s = .next s)

/-- The ledger's records and ring (R306, R308 to R310): one record is written at a time, at the producer index, with its check and phase; an
`OKAY` moves the index on and the last ends the cut; another answer halts the ring; the registers move the consumer index and enable the
ring; a destroyed context whose last frame has ended leaves its counts in a closing slot and its number free. What log entries 54, 71 choose
is the model's choice. Completes: lgCiWrite, lgRingEnable, contextClose, ledgerRecordWrite, ledgerRecordResponse. -/
def Obligations.RecordsReachTheRing : Prop :=
  (∀ s, s.recordDue = true → s.islandRuns 5 = true →
    ∃ t, exec .ledgerRecordWrite s = .next t ∧ t.led = { s.led with issued := s.led.issued + 1 } ∧ t.flds = s.flds ∧
      ∃ r ∈ t.fab.reqs, r.kind = .ledger ∧ r.a = 0 ∧ r.b = s.led.done ∧ r.addr = slotAddr s.lgBase s.lgLog2 (s.rd LG_PI_PI) 512 ∧
        r.data = recordOf (s.cutRecord s.led.done) (phase s.lgLog2 (s.rd LG_PI_PI))) ∧
  (∀ s, s.recordDue = false → exec .ledgerRecordWrite s = .next s) ∧
  (∀ d u s, s.response .ledger = some (d, u) → d.a = 0 → d.resp = .okay →
    ∃ t, exec .ledgerRecordResponse s = .next t ∧ t.rd LG_PI_PI = nextIdx s.lgLog2 (s.rd LG_PI_PI) % 2 ^ 16 ∧ t.led.done = d.b + 1 ∧
      (if d.b = s.led.cut.count then t.is LG_STAT_PENDING = false ∧ t.is LG_EVT_CUT_DONE = true
        else t.is LG_STAT_PENDING = s.is LG_STAT_PENDING) ∧
      (d.b < s.led.cut.slots.length → s.led.freed ≤ d.b → t.led.slots = eraseLatched s.led.slots ∧ t.led.freed = d.b + 1)) ∧
  (∀ d u s, s.response .ledger = some (d, u) → d.a = 0 → d.resp ≠ .okay →
    ∃ t, exec .ledgerRecordResponse s = .next t ∧ t.led = s.led ∧ t.is LG_EVT_WR_FAULT = true ∧ t.is LG_STAT_HALTED = true ∧
      Kept [LG_EVT_WR_FAULT, LG_STAT_HALTED] s t) ∧
  (∀ w v s, s.serves w 0x160014 4 = true →
    ∃ t, exec (.lgCiWrite w v) s = .next t ∧ t.sp = ⟨true, 0⟩ ∧ t.led = s.led ∧
      (let c := v.toNat % 2 ^ 16
      if 2 ^ (s.lgLog2 + 1) ≤ c ∨ 2 ^ s.lgLog2 < occ s.lgLog2 (s.rd LG_PI_PI) c
        then t.rd LG_SKIP_CFG_REJ = upBy s LG_SKIP_CFG_REJ 1 ∧ Kept (LG_SKIP_CFG_REJ :: portCounts) s.settleBeats t
        else t.rd LG_CI_CI = c ∧ Kept (LG_CI_CI :: portCounts) s.settleBeats t)) ∧
  (∀ w v s, s.serves w 0x16000C 4 = true → s.is LG_RING_CFG_EN = false → v.getLsbD 0 = true →
    ∃ t, exec (.lgRingEnable w v) s = .next t ∧ t.sp = ⟨true, 0⟩ ∧ t.is LG_RING_CFG_EN = true ∧ t.rd LG_RING_CFG_LOG2 = bits v.toNat 8 4 ∧
      t.rd LG_PI_PI = 0 ∧ t.rd LG_CI_CI = 0 ∧ t.led = { s.led with done := 0, issued := 0 } ∧
      Kept ([LG_RING_CFG_EN, LG_RING_CFG_LOG2, LG_PI_PI, LG_CI_CI] ++ portCounts) s.settleBeats t) ∧
  (∀ w v s, s.serves w 0x16000C 4 = true → v.getLsbD 0 = false →
    ∃ t, exec (.lgRingEnable w v) s = .next t ∧ t.sp = ⟨true, 0⟩ ∧ t.is LG_RING_CFG_EN = false ∧ t.is LG_STAT_HALTED = false ∧ t.led = s.led ∧
      (∀ r ∈ t.fab.reqs, r.kind = .ledger → r.a = 1)) ∧
  (∀ (x : Fin 4096) id c s, (s.ctx x).closing = some (some id) → s.coreUp = true → s.inFlight x = false → optGet s.ring.active id = some c →
    s.is HR_CMD_CFG_EN = true →
    ∃ t, exec (.contextClose x) s = .next t ∧ t.ctx x = { s.ctx x with closing := none, owner := 0 } ∧
      t.led.slots.length = s.led.slots.length + 1 ∧ x.val ∉ t.led.lateCtx ∧ mapGet blank t.led.live (lkey x false) = blank 0 ∧
      ∃ r ∈ t.fab.reqs, r.kind = .cmdCmpl ∧ r.a = id ∧ r.data = cmplEntry c sOK 0 (phase s.cmdLog2 s.ring.cpi)) ∧
  (∀ (x : Fin 4096) s, (s.ctx x).closing = none ∨ s.inFlight x = true ∨ s.coreUp = false → exec (.contextClose x) s = .next s)

/-- The time base and its references (R316 to R318, R320 to R322, R330): the increment and a due step take effect at a realignment boundary;
an accepted edge is captured and one that is not is counted; 1.1 s without one set `PPS_HOLD`; a message that checks is kept and another is
counted; a measured period is shown. The time at which a timed command leaves the clock is the model's choice (log entry 2). What log
entries 12, 39, 135 choose is the model's choice. Completes: todMessage, aonPeriodMeasured, realignmentBoundary, ppsEdge, ppsLossTimeout. -/
def Obligations.ReferencesKeepTime : Prop :=
  (∀ s, s.coreUp = true → (∀ p, s.tm.step = some p → s.tm.cyc + s.cyclesToMultiple 1024 < p.due) →
    ∃ t, exec .realignmentBoundary s = .next t ∧ t.tm.cyc = s.tm.cyc + (1024 - s.tm.cyc % 1024) ∧ t.tm.incr = s.rd TM_INCR_INCR ∧
      t.tm.now = (s.tm.now + (1024 - s.tm.cyc % 1024) * s.tm.incr) % timeMod ∧ t.tm.step = s.tm.step ∧ t.led = s.led ∧
      (∀ i : Fin 5, t.tm.follows.getLsbD i = s.islandRuns i)) ∧
  (∀ p s, s.coreUp = true → s.tm.step = some p → p.due ≤ s.tm.cyc + s.cyclesToMultiple 1024 →
    ∃ t, exec .realignmentBoundary s = .next t ∧ t.tm.step = none ∧ t.is TM_STAT_BUSY = false ∧ t.is TM_EVT_STEP = true ∧
      t.tm.now = stepTarget ((s.tm.now + (1024 - s.tm.cyc % 1024) * s.tm.incr) % timeMod) p ∧ t.tm.incr = s.rd TM_INCR_INCR) ∧
  (∀ s, s.coreUp = false ∨ s.timeRef = 0 → exec .ppsEdge s = .next s) ∧
  (∀ s, s.coreUp = true → s.timeRef ≠ 0 → s.edgeAccepted s.edgeValue = false →
    ∃ t, exec .ppsEdge s = .next t ∧ t.tm = s.tm ∧ t.rd TM_PPS_GLITCH_COUNT = upBy s TM_PPS_GLITCH_COUNT 1 ∧ Kept [TM_PPS_GLITCH_COUNT] s t) ∧
  (∀ s, s.coreUp = true → s.timeRef ≠ 0 → s.edgeAccepted s.edgeValue = true →
    ∃ t, exec .ppsEdge s = .next t ∧ t.tm.lastEdge = s.edgeValue ∧ t.tm.firstEdge = false ∧ t.tm.now = s.tm.now ∧
      t.rd TM_PPS_CAP_NS_NS = nsOf s.edgeValue ∧ t.rd TM_PPS_CAP_S_S_LO = secOf s.edgeValue % 2 ^ 32 ∧
      t.rd TM_PPS_ERR_ERR = unsigned32 (edgeError s.edgeValue) ∧ t.is TM_EVT_PPS = true ∧
      (s.stepHeld = true → t.tm.step = s.tm.step) ∧
      (s.stepHeld = false → s.tm.todNext = none → s.is TM_CTRL_AUTO_STEP = true → s.rd TM_STEP_NS_STEP_NS < (edgeError s.edgeValue).natAbs →
        t.is TM_STAT_BUSY = true ∧ t.rd TM_STAT_GOOD = 0 ∧
        t.tm.step = some ⟨.auto, -(edgeError s.edgeValue) * 2 ^ 32, s.tm.cyc + 1024⟩)) ∧
  (∀ s, s.coreUp = true → s.timeRef ≠ 0 → s.is TM_CTRL_PPS_EN = true →
    ∃ t, exec .ppsLossTimeout s = .next t ∧ s.tm.tick ≤ t.tm.tick ∧ t.is TM_STAT_PPS_HOLD = true ∧ t.is TM_EVT_PPS_LOSS = true ∧ t.rd TM_STAT_GOOD = 0 ∧
      t.is TM_STAT_HOLDOVER = true ∧ t.tm.firstEdge = true) ∧
  (∀ s, s.coreUp = false ∨ s.timeRef = 0 ∨ s.is TM_CTRL_PPS_EN = false → exec .ppsLossTimeout s = .next s) ∧
  (∀ m s, s.coreUp = true → ∃ t, exec (.todMessage m) s = .next t ∧
    (if s.todAccepted m then t.tm = { s.tm with todNext := some (leNat m 2 6) } ∧ t.rd TM_TOD_S_LO_S_LO = leNat m 2 4 ∧
        t.rd TM_TOD_S_HI_S_HI = leNat m 6 2 ∧ t.is TM_EVT_TOD = true ∧ Kept [TM_TOD_S_LO_S_LO, TM_TOD_S_HI_S_HI, TM_EVT_TOD] s t
      else t.tm = s.tm ∧ t.rd TM_CFG_REJ_TOD_BAD = upBy s TM_CFG_REJ_TOD_BAD 1 ∧ Kept [TM_CFG_REJ_TOD_BAD] s t)) ∧
  (∀ p n s, s.coreUp = true → s.holdover = false → s.tm.aonTicks = some n → aonFits p.toNat n = true →
    ∃ t, exec (.aonPeriodMeasured p) s = .next t ∧ t.rd TM_AON_MEAS_PERIOD = p.toNat ∧ t.is TM_EVT_AON_CAL = true ∧
      t.rd TM_AON_PERIOD_PERIOD = (if s.is TM_CTRL_AON_AUTO then p.toNat else s.rd TM_AON_PERIOD_PERIOD) ∧
      Kept [TM_AON_MEAS_PERIOD, TM_EVT_AON_CAL, TM_AON_PERIOD_PERIOD] s t) ∧
  (∀ p s, s.coreUp = false ∨ s.holdover = true ∨ s.tm.aonTicks = none ∨ (∃ n, s.tm.aonTicks = some n ∧ aonFits p.toNat n = false) →
    exec (.aonPeriodMeasured p) s = .next s) ∧
  (∀ m s, s.coreUp = false → exec (.todMessage m) s = .next s)

/-- Service operations start (R427, R428, R431, R435, R437 to R441): only the Nyelle core's write acts; one that a condition refuses changes
nothing but its result and its event; the others begin at their first step, and an abort at an abort point ends with `STATE`. The time at
which a timed command leaves the clock is the model's choice (log entry 2). What log entries 72, 103 choose is the model's choice.
Completes: svEvacuate, svReturn, fabSpare, fabRestore, tblSpare, tblRestore, rowRepair, sliceTest, svAbort. -/
def Obligations.ServiceOperationsStart : Prop :=
  (∀ w v mid s, s.serves w 0x1F1000 4 = true → w.master ≠ 256 → ∀ c ∈ [Instr.svEvacuate w v mid, .svReturn w v, .fabSpare w v, .fabRestore w v,
    .tblSpare w v, .tblRestore w v, .rowRepair w v, .sliceTest w v, .svAbort w v],
    ∃ t, exec c s = .next t ∧ t.sp = ⟨true, 0⟩ ∧ t.sv = s.sv ∧ t.fab = s.settleBeats.fab ∧ t.rd SV_REJ_COUNT = upBy s SV_REJ_COUNT 1 ∧
      Kept (SV_REJ_COUNT :: portCounts) s.settleBeats t) ∧
  (∀ w v mid st s, s.serves w 0x1F1000 4 = true → w.master = 256 → ∀ p ∈ [(Instr.svEvacuate w v mid, 1), (.svReturn w v, 2), (.fabSpare w v, 3),
    (.fabRestore w v, 4), (.tblSpare w v, 5), (.tblRestore w v, 6), (.rowRepair w v, 7), (.sliceTest w v, 8)],
    s.svRefusal p.2 (bits v.toNat 4 12) (bitN v.toNat 16 == 1) = some st →
    ∃ t, exec p.1 s = .next t ∧ t.sp = ⟨true, 0⟩ ∧ t.sv = s.sv ∧ t.fab = s.settleBeats.fab ∧ t.rd SV_STAT_RESULT = st ∧ t.is SV_EVT_REFUSED = true) ∧
  (∀ w v mid s, s.serves w 0x1F1000 4 = true → w.master = 256 →
    let a := bits v.toNat 4 12
    let force := bitN v.toNat 16 == 1
    (∀ p ∈ [(Instr.svEvacuate w v mid, 1, 2), (.svReturn w v, 2, 2), (.sliceTest w v, 8, 1)], s.svRefusal p.2.1 a force = none →
      (p.2.1 = 1 → force = false) →
      ∃ t, exec p.1 s = .next t ∧ t.sp = ⟨true, 0⟩ ∧ t.sv = { s.sv with op := p.2.1, arg := a, force := force, step := p.2.2, since := s.tm.tick, spoilt := false } ∧
        t.is SV_STAT_BUSY = true ∧ t.is SV_STAT_ABORTED = false) ∧
    (s.svRefusal 1 a true = none → force = true → ∃ t, exec (.svEvacuate w v mid) s = .next t ∧ t.sv.op = 1 ∧ t.sv.step = 2 ∧
      t.is SV_STAT_BUSY = true ∧ t.is SV_INUSE_SLICE4 = true ∧ t.rd SV_INUSE_SLICE4_PORT = a) ∧
    (∀ p ∈ [(Instr.fabSpare w v, 3, a), (.fabRestore w v, 4, 8)], s.svRefusal p.2.1 a force = none →
      ∃ t, exec p.1 s = .next t ∧ t.sp = ⟨true, 0⟩ ∧ t.sv = { s.sv with op := p.2.1, arg := a, force := force, step := 1, since := s.tm.tick, spoilt := false } ∧
        t.fab = { s.settleBeats.fab with held := some p.2.2 } ∧ t.is SV_STAT_BUSY = true) ∧
    (∀ p ∈ [(Instr.tblSpare w v, 5), (.tblRestore w v, 6)], s.svRefusal p.2 a force = none → p.2 = 6 ∨ force = false → 0 < s.copyTotal a →
      s.bucketServed (s.copyBucket a 0) = true →
      ∃ t, exec p.1 s = .next t ∧ t.sp = ⟨true, 0⟩ ∧ t.sv.op = p.2 ∧ t.sv.arg = a ∧ t.sv.step = 1 ∧ t.sv.copyNext = 1 ∧ t.sv.run = s.sv.run + 1 ∧
        t.rd SV_COPY_BUCKETS = 0 ∧ t.is SV_STAT_BUSY = true ∧
        (let b := s.copyBucket a 0
        t.asks .tblCopyRead (s.sv.run + 1) b (s.tblOff b) [] 64 = true)) ∧
    (s.svRefusal 5 a true = none → force = true → s.fab.reqs.all (fun r => r.x != 9 + a || r.tag.isNone) = true →
      ∃ t, exec (.tblSpare w v) s = .next t ∧ t.sv.op = 0 ∧ t.sv.rebuild = (if s.is CL_CTRL_EN then some a else none) ∧
        t.is SV_INUSE_TBL = true ∧ t.rd SV_INUSE_TBL_FOR = a ∧ t.rd SV_STAT_RESULT = sOK ∧ t.is SV_EVT_DONE = true) ∧
    (s.svRefusal 7 a force = none → ∃ t, exec (.rowRepair w v) s = .next t ∧ t.sp = ⟨true, 0⟩ ∧ t.sv = { s.sv with row := some a } ∧
      t.is SV_STAT_ROW_BUSY = true ∧ Kept (SV_STAT_ROW_BUSY :: portCounts) s.settleBeats t) ∧
    (s.svAbortable = true → ∃ t, exec (.svAbort w v) s = .next t ∧ t.sp = ⟨true, 0⟩ ∧ t.sv.op = 0 ∧ t.sv.step = 0 ∧ t.is SV_STAT_BUSY = false ∧
      t.rd SV_STAT_RESULT = sSTATE ∧ t.is SV_STAT_ABORTED = true ∧ t.is SV_EVT_DONE = true ∧ t.fab.held = none) ∧
    (s.svAbortable = false → ∃ t, exec (.svAbort w v) s = .next t ∧ t.sp = ⟨true, 0⟩ ∧ t.sv = s.sv ∧
      t.rd SV_REJ_COUNT = upBy s SV_REJ_COUNT 1 ∧ Kept (SV_REJ_COUNT :: portCounts) s.settleBeats t))

/-- The steps of an evacuation (R431 to R435): each step's event takes the operation to the next, and is nothing to it at another; the
frames still staged at `DRAIN_US` leave; an equal lockstep switches the port, and an unequal one starts again. The guard, the switch and the
lockstep wait for the slice that takes over to run. The time at which a timed command leaves the clock is the model's choice (log entry 2).
What log entries 74, 118, 140 choose is the model's choice. Completes: evacLockstepCompare, evacCopyDone, evacRxReady, evacRxSwitch,
evacDrainDone, evacDrainTimeout. -/
def Obligations.EvacuationSteps : Prop :=
  (∀ s, s.evacAt 2 = true → (s.sv.force && s.sv.op == opEVACUATE) = false →
    exec .evacCopyDone s = .next { s with sv := { s.sv with step := 3, since := s.tm.tick } }) ∧
  (∀ s, s.evacAt 2 = true → s.sv.force = true → s.sv.op = opEVACUATE →
    ∃ t, exec .evacCopyDone s = .next t ∧ t.sv.op = 0 ∧ t.sv.step = 0 ∧ t.is SV_STAT_BUSY = false ∧ t.rd SV_STAT_RESULT = sOK ∧
      t.rd SV_STAT_LAST_OP = 1 ∧ t.is SV_EVT_STAT_GAP = true ∧ t.is SV_EVT_DONE = true) ∧
  (∀ s, s.evacAt 3 = true → s.portAligned s.sv.arg = false ∨ s.islandRuns s.evacTo = false → exec .evacRxReady s = .next s) ∧
  (∀ s, s.evacAt 3 = true → s.portAligned s.sv.arg = true → s.islandRuns s.evacTo = true → ∃ t, exec .evacRxReady s = .next t ∧
    t.tm.tick = s.tm.tick + usTicks (s.rd SV_TIME_RX_GUARD_US) ∧ t.sv = { s.sv with step := 5, since := t.tm.tick } ∧
    t.rd SV_STAT_PHASE = 2) ∧
  (∀ s, s.evacAt 5 = true → s.islandRuns s.evacTo = true → ∃ t, exec .evacRxSwitch s = .next t ∧ t.tm.tick = max s.tm.tick (s.sv.since + 1600) ∧
    t.sv = { s.sv with step := 6, since := t.tm.tick, held := 1#4 <<< s.sv.arg, rxAt := t.tm.tick }) ∧
  (∀ s, s.evacAt 6 = true → s.portStaged s.sv.arg = false →
    exec .evacDrainDone s = .next { s with sv := { s.sv with step := 7, since := s.tm.tick } }) ∧
  (∀ s, s.evacAt 6 = true → s.portStaged s.sv.arg = true → exec .evacDrainDone s = .next s) ∧
  (∀ s, s.evacAt 6 = true → ∃ t, exec .evacDrainTimeout s = .next t ∧
    t.tm.tick = max s.tm.tick (s.sv.since + usTicks (s.rd SV_TIME_DRAIN_US)) ∧
    t.sv = { s.sv with step := t.sv.step, since := t.sv.since } ∧ (if t.portStaged s.sv.arg then t.sv.step = 6 else t.sv.step = 7)) ∧
  (∀ s, s.evacAt 7 = true → s.islandRuns s.evacTo = true → ∃ t, exec (.evacLockstepCompare true) s = .next t ∧ t.sv.op = 0 ∧ t.sv.step = 0 ∧ t.sv.held = 0 ∧
    t.is SV_STAT_BUSY = false ∧ t.rd SV_STAT_RESULT = sOK ∧ t.rd SV_STAT_LAST_OP = s.sv.op ∧ t.is SV_EVT_DONE = true ∧
    t.is SV_INUSE_SLICE4 = (s.sv.op == opEVACUATE)) ∧
  (∀ s, s.evacAt 7 = true → s.islandRuns s.evacTo = true → ∃ t, exec (.evacLockstepCompare false) s = .next t ∧ t.sv = s.sv ∧ t.rd SV_REJ_COUNT = upBy s SV_REJ_COUNT 1 ∧
    Kept [SV_REJ_COUNT] s t) ∧
  (∀ s b, s.sv.op ≠ opEVACUATE → s.sv.op ≠ opRETURN → ∀ c ∈ [Instr.evacCopyDone, .evacRxReady, .evacRxSwitch, .evacDrainDone, .evacDrainTimeout,
    .evacLockstepCompare b], exec c s = .next s) ∧
  (∀ s, s.evacAt 5 = true → s.islandRuns s.evacTo = false → exec .evacRxSwitch s = .next s) ∧
  (∀ b s, s.evacAt 7 = true → s.islandRuns s.evacTo = false → exec (.evacLockstepCompare b) s = .next s)

/-- The switches of a spare (R437 to R439, R441): a fabric port's position moves when nothing is outstanding on it, a table channel's when
its copy is complete and its requests have answered, a row's when its copy has ended; a slice test ends with its result. The time at which a
timed command leaves the clock is the model's choice (log entry 2). What log entries 73, 76 choose is the model's choice. Completes:
sliceTestDone, fabSpareSwitch, tblSpareSwitch, rowRepairSwitch. -/
def Obligations.SparesSwitch : Prop :=
  (∀ s, s.sv.op = opFAB_SPARE → s.fab.reqs.all (fun r => r.x != s.sv.arg || r.tag.isNone) = true →
    ∃ t, exec .fabSpareSwitch s = .next t ∧ t.sv.op = 0 ∧ t.fab.held = none ∧ t.is SV_INUSE_FAB = true ∧
      t.rd SV_INUSE_FAB_FOR = s.sv.arg % 2 ^ SV_INUSE_FAB_FOR.w ∧ t.rd SV_STAT_RESULT = sOK ∧ t.is SV_EVT_DONE = true ∧
      t.fab.up.getLsbD s.sv.arg = false ∧ (∀ r ∈ s.fab.reqs, r.x < 9 → t.asks r.kind r.a r.b r.addr r.data r.rlen = true) ∧ (s.sv.arg ≠ 8 → ∀ r ∈ t.fab.reqs, r.x ≠ s.sv.arg)) ∧
  (∀ s, s.sv.op = opFAB_RESTORE → s.fab.reqs.all (fun r => r.x != 8 || r.tag.isNone) = true →
    ∃ t, exec .fabSpareSwitch s = .next t ∧ t.sv.op = 0 ∧ t.fab.held = none ∧ t.is SV_INUSE_FAB = false ∧ t.rd SV_INUSE_FAB_FOR = 0 ∧
      t.rd SV_STAT_RESULT = sOK ∧ t.is SV_EVT_DONE = true ∧ (s.sv.arg < 8 → t.fab.up.getLsbD s.sv.arg = true)) ∧
  (∀ s, s.sv.op ≠ opFAB_SPARE → s.sv.op ≠ opFAB_RESTORE → exec .fabSpareSwitch s = .next s) ∧
  (∀ s, s.sv.op = opTBL_SPARE → s.sv.arg < 6 → s.sv.step = 2 ∨ s.rd SV_COPY_BUCKETS = s.copyTotal s.sv.arg →
    s.fab.reqs.all (fun r => r.x != 9 + s.sv.arg || r.tag.isNone) = true →
    ∃ t, exec .tblSpareSwitch s = .next t ∧ t.sv.op = 0 ∧ t.is SV_INUSE_TBL = true ∧ t.rd SV_INUSE_TBL_FOR = s.sv.arg ∧
      t.rd SV_STAT_RESULT = sOK ∧ t.is SV_EVT_DONE = true ∧ t.fab.up.getLsbD (9 + s.sv.arg) = false) ∧
  (∀ s, (s.sv.op ≠ opTBL_SPARE ∧ s.sv.op ≠ opTBL_RESTORE) ∨ s.sv.step ≠ 2 ∧ s.rd SV_COPY_BUCKETS ≠ s.copyTotal s.sv.arg →
    exec .tblSpareSwitch s = .next s) ∧
  (∀ r s, s.sv.row = some r → ∃ t, exec .rowRepairSwitch s = .next t ∧ t.sv = { s.sv with row := none } ∧
    t.rd (SV_ROW_STAT_FOR (r / 32)) = r % 32 ∧ t.is (SV_ROW_STAT_USED (r / 32)) = true ∧ t.is SV_STAT_ROW_BUSY = false ∧
    t.rd SV_STAT_RESULT = sOK ∧ t.rd SV_STAT_LAST_OP = 7 ∧ t.is SV_EVT_ROW_DONE = true ∧ t.is SV_EVT_DONE = true) ∧
  (∀ s, s.sv.row = none → exec .rowRepairSwitch s = .next s) ∧
  (∀ ok s, s.sv.op = opSLICE_TEST → ∃ t, exec (.sliceTestDone ok) s = .next t ∧ t.sv.op = 0 ∧ t.is SV_EVT_DONE = true ∧
    t.tm.tick = max s.tm.tick (s.sv.since + 160000) ∧
    (if ok = true ∧ s.islandRuns s.sv.arg = true ∧ s.sv.spoilt = false then t.rd SV_STAT_RESULT = sOK ∧ (s.sv.arg < 5 → t.sv.tested.getLsbD s.sv.arg = true ∧ t.sys.sliceOut.getLsbD s.sv.arg = false)
      else t.rd SV_STAT_RESULT = sFAULT ∧ t.sv.tested.getLsbD s.sv.arg = false)) ∧
  (∀ ok s, s.sv.op ≠ opSLICE_TEST → exec (.sliceTestDone ok) s = .next s)

/-- Mirror, monitors and scrubs (R371, R382, R383, R426, R430): a checkpoint copies a port's statistics and clears none; a monitor's window
shows its frequency and a stopped clock; a sweep counts its corrected words and reports a row at the threshold; an uncorrectable word is
counted. The time at which a timed command leaves the clock is the model's choice (log entry 2). What log entries 75, 76 choose is the
model's choice. Completes: clockMonitorWindow, scrubSweepEnd, svCheckpoint, scrubUncorrectableWord. -/
def Obligations.MirrorAndScrubs : Prop :=
  (∀ (p : Fin 4) s, s.sliceOf p = some p.val → s.islandRuns p = true → s.islandRuns 8 = true → mapWf fieldReset s.flds = true →
    ∃ t, exec (.svCheckpoint p false) s = .next t ∧
      t.tm.tick = max s.tm.tick ((mapGet (fun _ => ({} : CkptSt)) s.sv.timers (8 * p.val)).tick + usTicks (s.rd SV_CKPT_CKPT_US)) ∧
      Kept [NY_MTIME_LO_MTIME, NY_MTIME_HI_MTIME, TM_AON_CNT_LO_COUNT, TM_AON_CNT_HI_COUNT, SYS_XING_STAT_OCC_MAX (704 + p), SYS_XING_STAT_LAT_MAX (704 + p)] s t ∧ t.chs = s.chs ∧
      (∀ k, portStat p k = true → fieldReset k = 0 → mapGet (fun _ => 0) t.sv.ckpt k = mapGet fieldReset s.flds k) ∧
      (∀ k, portStat p k = false → mapGet (fun _ => 0) t.sv.ckpt k = mapGet (fun _ => 0) s.sv.ckpt k)) ∧
  (∀ (p : Fin 4) unc s, s.sliceOf p ≠ some p.val ∨ s.islandRuns p = false ∨ s.islandRuns 8 = false →
    exec (.svCheckpoint p unc) s = .next s) ∧
  (∀ k f e s, s.start = stRESET ∨ s.islandUp 8 = false → exec (.clockMonitorWindow k f e) s = .next s) ∧
  (∀ (k : Fin 9) f e s, s.start ≠ stRESET → s.islandUp 8 = true → ∃ t, exec (.clockMonitorWindow k f e) s = .next t ∧
    (e = true ∨ k ≠ 8 → s.fab.in9 = [] → t.rd (NY_CLK_KHZ k) = (if e then f.toNat else 0) % 2 ^ (NY_CLK_KHZ k).w)) ∧
  (∀ (a : Fin 3) rows s, a ≠ 0 → ∃ t, exec (.scrubSweepEnd a rows) s = .next t ∧
    t.is (NY_BG_DL_RAISED (3 + a)) = s.ny.bgUnits.any (fun e => e.agent == 3 + a.val && e.unit != 0 && e.missed) ∧
    ⟨3 + a.val, 0, s.tm.tick, false⟩ ∈ t.ny.bgUnits ∧
    Kept [NY_BG_DL_RAISED (3 + a)] s t) ∧
  (∀ r n s, ∃ t, exec (.scrubSweepEnd 0 [(r, n)]) s = .next t ∧
    t.is (NY_BG_DL_RAISED 3) = s.ny.bgUnits.any (fun e => e.agent == 3 && e.unit != 0 && e.missed) ∧
    t.rd SV_SCRUB_CORR = upBy s SV_SCRUB_CORR n.toNat ∧
    (if s.rd SV_ROW_THR_CORR ≠ 0 ∧ s.rd SV_ROW_THR_CORR ≤ n.toNat
      then t.is SV_EVT_ROW_DEGRADED = true ∧
        (s.is SV_EVT_ROW_DEGRADED = false → s.is SV_EVT_ROW_UNC = false → t.rd SV_ROW_ADDR_ROW = r)
      else Kept [SV_SCRUB_CORR, NY_BG_DL_RAISED 3] s t)) ∧
  (∀ s, ∃ t, exec (.scrubUncorrectableWord none) s = .next t ∧ t.rd SV_SCRUB_UNC = upBy s SV_SCRUB_UNC 1 ∧ Kept [SV_SCRUB_UNC] s t) ∧
  (∀ r s, ∃ t, exec (.scrubUncorrectableWord (some r)) s = .next t ∧ t.rd SV_SCRUB_UNC = upBy s SV_SCRUB_UNC 1 ∧ t.is SV_EVT_ROW_UNC = true ∧
    (s.is SV_EVT_ROW_DEGRADED = false → s.is SV_EVT_ROW_UNC = false → t.rd SV_ROW_ADDR_ROW = r) ∧
    Kept [SV_SCRUB_UNC, SV_EVT_ROW_UNC, SV_ROW_ADDR_ROW] s t)

/-- EVERY COMMAND COMPLETES. One clause for every command, or for several of one shape: on conditions on the state and the operands alone,
the command answers a next state, and that state holds what the command is for, as the rules of its family give it; what else such a step
leaves or changes, and what it does where a condition fails, the statement of its family says. What the log entries named at the statements
of its commands choose, and the time at which a timed command leaves the clock (log entry 2), is the model's choice. Every one of the 277
constructors of `Instr` stands in a clause. -/
def Obligations.CommandsComplete : Prop :=
  ((∀ (c : Fin 32) (k : Fin 8) (u : Fin 16) w v s, ∀ f ∈ [SYS_XING_SEL_XING, GP_SD_SET_SD_SET u, GP_SD_CLR_SD_CLR u, GP_CNT_SEL_PAIR, GP_OH_SEL_K,
        MC_FC_REF_REFRESH c, MC_STATION_LO_ADDR_LO c, MC_STATION_HI_ADDR_HI c, MC_WAKE_MAGIC_MAGIC_EN, MC_WAKE_VAL_VALUE u c, MC_WAKE_MASK_MASK u (c
        / 8), MT_SEL_METER, MT_CIR_CIR, MT_CBS_CBS, MT_PIR_PIR, MT_PBS_PBS, SC_CH_PACE_PACE_MBPS c, TG_CNT_SEL_CHAN, HR_CTX_SEL_CTX, CX_SEL_CTX,
        CC_CTRL_LEASE_US, CC_PEND_SEL_CONSUMER, TB_CTRL_WANT_US, TM_SET_NS_NS, TM_SET_S_LO_S_LO, TM_SET_S_HI_S_HI, TM_OFFSET_NS, TM_STEP_NS_STEP_NS,
        TM_AON_PERIOD_PERIOD, TM_TX_CORR_CORR c, PC_EXPORT_LO_ADDR, PC_EXPORT_HI_ADDR, PC_FLT_BASE_LO_BASE k, PC_FLT_LIMIT_HI_LIMIT k,
        NY_WDT_WDT_US, NY_EYE_THR_CODE, NY_LOG_HI_WM, NY_LOG_MASK_MASK u, ST_UPD_ADDR_LO_ADDR, ST_UPD_LEN_LEN, PW_ACK_US_ACK_US, SV_CKPT_CKPT_US,
        SV_ROW_THR_CORR], s.serves w f.off 4 = true → ∃ t, exec (.registerWrite w false (BitVec.ofNat 24 f.off) false v) s = .next t ∧
        t.rd f = bits v.toNat f.lo f.w) ∧
    (∀ (c : Fin 32) (k : Fin 8) (u : Fin 12) w a s, ∀ f ∈ [SYS_FAB_LATE_COUNT, SYS_FAB_PROTO_CNT_COUNT, LN_CFG_REJ_COUNT, GP_CFG_REJ_COUNT,
        CL_MISS_CNT_COUNT k, CL_TBL_PROTO_COUNT, CL_CFG_REJ_COUNT, FB_CFG_REJ_COUNT, FB_PC_DROP_COUNT c, SC_CFG_REJ_COUNT, SC_GUARD_CNT_COUNT,
        HR_CFG_REJ_COUNT, HR_NT_FAIL_COUNT, CC_REJ_COUNT, TB_REJ_COUNT, LG_LATE_COUNT, TM_PPS_GLITCH_COUNT, HB_IGN_CNT_COUNT, HB_REDIR_CNT_COUNT,
        HB_CFG_REJ_COUNT, MD_CFG_REJ_COUNT, MD_CH_CNT_DESC k, CU_CFG_REJ_COUNT, NY_DROOP_CNT_COUNT u, NY_BG_MISS_COUNT k, ST_REJ_COUNT,
        SV_REJ_COUNT], s.serves w f.off 4 = true → ∃ t, exec (.rcRead w false (BitVec.ofNat 24 f.off) false a) s = .next t ∧
        t.rd f = (if takenBy a w = .failed then upBy s f 0 else 0) ∧ t.sp = (if takenBy a w = .failed then ⟨false, 0⟩ else ⟨true, s.rd f⟩)) ∧
    (∀ w (c : Fin 32) (j : Fin 64) s, s.serves w (0x064000 + 512 * c + 8 * j) 4 = true → ∃ t,
        exec (.lowWordRead w (BitVec.ofNat 24 (0x064000 + 512 * c + 8 * j))) s = .next t ∧
        t.sp = ⟨true, s.rd64 (MC_STAT_LO_COUNT c j) (MC_STAT_HI_COUNT c j) % 2 ^ 32⟩ ∧
        optGet t.latch (0x064000 + 512 * c + 8 * j) = some (s.rd64 (MC_STAT_LO_COUNT c j) (MC_STAT_HI_COUNT c j) / 2 ^ 32) ∧
        t.rd (MC_STAT_LO_COUNT c j) = 0) ∧
    (∀ b s, s.start = stRESET → ∃ t, exec (.resetRelease b) s = .next t ∧ t.start = stBOOT) ∧
    (∀ w s, s.serves w 0x000018 4 = true → s.is SYS_SD_STAT_BUSY = false → s.start = stWAIT_SD → ∃ t, exec (.sdReload w) s = .next t ∧
        t.start = stLOAD_SD) ∧
    (∀ (i : Fin 4) s, s.start = stBRINGUP → s.sliceUsed i = true → s.islandRuns i = false → s.sys.sliceOut.getLsbD i = false → ∃ t,
        exec (.bringupSliceTimeout i) s = .next t ∧ t.sys.sliceOut = s.sys.sliceOut ||| (1#5 <<< i.val)) ∧
    (∀ (i : Fin 9) s, ∃ t, exec (.islandClockStop i) s = .next t ∧ t.islandRuns i = false) ∧
    (∀ (x : Fin 16) b r s, s.fab.up.getLsbD x = true → s.islandRuns (if x.val < 9 then 6 else 7) = true → x.val < 9 → s.coreUp = true →
        b.valid = true → b.vc = 2 → b.last = true → s.fab.reqs.find? (fun q => q.x == x.val && q.tag == some b.tag.toNat) = some r → r.rlen = 0 →
        r.left = 0 → ∃ t, exec (.fabricBeatReceived x b) s = .next t ∧
        (s.fab.done ++ [⟨r.kind, r.a, r.b, r.x, r.addr, respOf b.resp.toNat, []⟩]) <+: t.fab.done) ∧
    (∀ (f : Fin 9) n r s, s.coreUp = true → s.fab.reqs.find? (fun q => q.x == f.val && q.tag == some n.toNat) = some r → ∃ t,
        exec (.fabricRequestTimeout f n) s = .next t ∧ (s.fab.done ++ [⟨r.kind, r.a, r.b, r.x, r.addr, .timeout, []⟩]) <+: t.fab.done) ∧
    (∀ (c : Fin 7) n r s, s.islandRuns 7 = true → s.fab.reqs.find? (fun q => q.x == 9 + c.val && q.tag == some n.toNat) = some r → ∃ t,
        exec (.tableReadTimeout c n) s = .next t ∧ (s.fab.done ++ [⟨r.kind, r.a, r.b, r.x, r.addr, .timeout, []⟩]) <+: t.fab.done) ∧
    (∀ (i : Fin 36) x s, s.laneUp i = true → s.otherLeg i = none → s.islandRuns (if s.mainLeg i < 64 then i / 9 else 4) = true →
        s.leg (s.mainLeg i) = [] → ∃ t, exec (.rxLaneWord i x) s = .next t ∧ (t.lane i).words = (s.lane i).words + 1) ∧
    (∀ (i : Fin 36) v s, s.rd (LN_LANE_STAT_TX_IDLE i) ≠ 1 → (s.lane i).txClk = true → s.laneAt (i / 9) (s.sendsFor i) = some i.val →
        s.tMode (i / 9) = false → s.txCrossing i = true → s.laneWants i = true → ∃ t, exec (.txLaneWord i (some v)) s = .next t ∧
        (t.lane i).ltx = (leBytes 32 v.toNat).map (fun b => if s.sdField (0x200 + 4 * i) 2 1 = 1 then ~~~b else b)) ∧
    (∀ (i : Fin 36) s, s.rd (LN_LANE_STAT_STATE i) = lnDOWN → s.pw.idle.getLsbD (i / 9) = false → ∃ t, exec (.laneUp i) s = .next t ∧
        t.laneUp i = true) ∧
    (∀ (i : Fin 36) sd lock rc tc s, s.laneUp i = true → (sd && lock && rc && tc) = false → ∃ t, exec (.laneDown i sd lock rc tc) s = .next t ∧
        t.rd (LN_LANE_STAT_STATE i) = lnDOWN)) ∧
  ((∀ w (p : Fin 4) v s, s.serves w (0x020000 + 4 * p) 4 = true → s.portOn p = false → ∃ t, exec (.portCfgWrite w p v) s = .next t ∧
        t.portOn p = v.getLsbD 0) ∧
    (∀ w (c : Fin 32) v s, s.serves w (0x020100 + 4 * c) 4 = true → s.is (LN_CHAN_CFG_EN c) = false → ∃ t, exec (.chanCfgWrite w c v) s = .next t ∧
        t.rd (LN_CHAN_CFG_SPEED c) = bits v.toNat 1 3) ∧
    (∀ (c : Fin 32) a s, s.rd (LN_CHAN_STAT_STATE c) = 1 → s.rxRuns (c / 8) = true → (∀ x ∈ a, ∀ y ∈ a,
        BitVec.toNat x ≤ BitVec.toNat y + 200 * 2 ^ 16) → ∃ t, exec (.alignmentLock c a) s = .next t ∧ t.rd (LN_CHAN_STAT_STATE c) = 2) ∧
    (∀ (c : Fin 32) s, s.rd (LN_CHAN_STAT_STATE c) = 2 → s.rxRuns (c / 8) = true → s.is (LN_CHAN_STAT_LINK c) = true → ∃ t,
        exec (.alignmentLost c) s = .next t ∧ (t.ch c).alignLost = true) ∧
    (∀ (c : Fin 32) lf rf s, s.rd (LN_CHAN_STAT_STATE c) = 2 → s.rxRuns (c / 8) = true → ∃ t, exec (.rxFaultSequence c lf rf) s = .next t ∧
        t.is (LN_CHAN_STAT_LF_RX c) = lf) ∧
    (∀ (c : Fin 32) s, s.portRuns (c / 8) = true → s.rd (LN_CHAN_STAT_STATE c) = 2 → s.is (LN_CHAN_STAT_LF_RX c) = false →
        s.is (LN_CHAN_STAT_RF_RX c) = false → s.is (LN_CHAN_STAT_LINK c) = false → ∃ t, exec (.linkUp c) s = .next t ∧
        t.is (LN_CHAN_STAT_LINK c) = true) ∧
    (∀ w (p : Fin 4) v s, s.serves w (0x020400 + 8 * p) 4 = true → s.spState p = pIDLE → s.spareArg p (bits v.toNat 4 3) = true →
        s.evacOf p = false → ∃ t, exec (.lnSubstitute w p v) s = .next t ∧ t.spState p = (if v.getLsbD 8 then pMATCH else pSWITCH)) ∧
    (∀ w (p : Fin 4) v s, s.serves w (0x020400 + 8 * p) 4 = true → s.spState p = pACTIVE → ∃ t, exec (.txRelease w p v) s = .next t ∧
        t.is (LN_SPARE_STAT_TX_BRIDGED p) = false) ∧
    (∀ w (p : Fin 4) v s, s.serves w (0x020400 + 8 * p) 4 = true → s.spState p = pACTIVE → ∃ t, exec (.lnRestore w p v) s = .next t ∧
        t.spState p = (if v.getLsbD 8 then pMATCH else pSWITCH)) ∧
    (∀ w (p : Fin 4) v s, s.serves w (0x020400 + 8 * p) 4 = true → s.spState p ≠ pIDLE → s.spState p ≠ pACTIVE → ∃ t,
        exec (.spareAbort w p v) s = .next t ∧ t.rd (LN_SPARE_STAT_RESULT p) = 7) ∧
    (∀ (p : Fin 4) d s,
      let x := s.spare p
      let c := s.lane (s.spareLanes p).1
      let l := s.lane (s.spareLanes p).2
      let e : Int := if x.reverse then -BitVec.toInt d else BitVec.toInt d
      let ca := c.end_ - (-e).toNat
      let la := l.end_ - e.toNat
      s.spState p = pMATCH → s.portRuns p = true → -2047 ≤ BitVec.toInt d → BitVec.toInt d ≤ 2048 → 1024 ≤ ca → 1024 ≤ la →
        (c.bitsFrom (ca - 1024) 128).isSome = true → c.bitsFrom (ca - 1024) 128 = l.bitsFrom (la - 1024) 128 → ∃ t,
        exec (.spareMatch p d) s = .next t ∧ t.spState p = pCONFIRM) ∧
    (∀ (p : Fin 4) s, s.spState p = pCONFIRM → s.portRuns p = true → 256 * s.rd (LN_SPARE_CTRL_CONFIRM_W p) ≤ (s.spare p).confirmed → ∃ t,
        exec (.spareConfirmDone p) s = .next t ∧ t.spState p = pSWITCH) ∧
    (∀ (p : Fin 4) s, s.spState p = pMATCH → ∃ t, exec (.spareMatchTimeout p) s = .next t ∧ (if s.is (LN_SPARE_CTRL_FORCE p) = true then
        t.spState p = pSWITCH ∧ t.rd (LN_SPARE_STAT_RESULT p) = 6 ∧ (t.spare p).forced = true else t.rd (LN_SPARE_STAT_RESULT p) = 3 ∧
        t.bit LN_EVT_SPARE_DONE p = true ∧ t.spState p = pIDLE)) ∧
    (∀ (p : Fin 4) s, s.spState p = pSWITCH → s.portRuns p = true → ∃ t, exec (.spareSwitch p) s = .next t ∧
        t.spState p = (if (s.spare p).reverse then pIDLE else pACTIVE) ∧ t.rd (LN_SPARE_STAT_RESULT p) = (if (s.spare p).forced then 6 else 0) ∧
        t.bit LN_EVT_SPARE_DONE p = true ∧ t.is (LN_SPARE_STAT_TX_BRIDGED p) = !(s.spare p).reverse ∧
        t.is (LN_LANE_STAT_STANDS_IN ((s.laneAt p 8).getD 0)) = !(s.spare p).reverse)) ∧
  ((∀ (p : Fin 4) (l : Fin 8) n b (j : Nat) s, j = 8 * p.val + l.val → 0 < 256 * n + b.val → s.portRuns (j / 8) = true →
        s.rd (TF_FR_STAT_STATE j) = fHUNT → (s.fr j).has 12 = true → hdrFits ((s.fr j).bytes 12) = true → (s.fr j).cands = [] → ∃ t,
        exec (.riltorHeaderCheck p l n b) s = .next t ∧ t.rd (TF_FR_STAT_STATE j) = fPRESYNC) ∧
    (∀ w (j : Fin 32) s, s.serves w (0x040000 + 4 * j) 4 = true → s.rd (TF_FR_STAT_STATE j) = fSYNC → ∃ t, exec (.rehunt w j) s = .next t ∧
        t.rd (TF_FR_STAT_STATE j) = fHUNT) ∧
    (∀ (j : Fin 32) s, s.tSends j = true → (s.fr j).out.length < 8192 → s.groupOf j = none → ∃ t, exec (.txRiltorFrame j) s = .next t ∧
        (t.fr j).out.length = (s.fr j).out.length + 8192) ∧
    (∀ (c : Fin 32) s, s.portRuns (c / 8) = true → s.rd (TF_GFP_STAT_STATE c) = fHUNT → 4 ≤ (s.gfp c).buf.length →
        hecFits (coreAt (s.gfp c).buf 0) = true → ∃ t, exec (.gfpCoreHeader c) s = .next t ∧ t.rd (TF_GFP_STAT_STATE c) = fPRESYNC) ∧
    (∀ (c : Fin 32) n s, s.portRuns (c / 8) = true → s.rd (TF_GFP_STAT_STATE c) = fSYNC → (s.gfp c).pli = some n → n ≤ (s.gfp c).buf.length → ∃ t,
        exec (.gfpFrameReceived c) s = .next t ∧ (t.gfp c).pli = none) ∧
    (∀ (c : Fin 32) s, s.portRuns (c / 8) = true → s.rd (TF_GFP_STAT_STATE c) = fSYNC → s.is (TF_GFP_STAT_LINK c) = false → ∃ t,
        exec (.gfpLinkUp c) s = .next t ∧ t.is (TF_GFP_STAT_LINK c) = true) ∧
    (∀ w (g : Fin 16) n id (c : Fin 32) s, s.serves w (grpOff g) 4 = true → s.is (GP_GRP_CFG_EN g) = false → s.partner g = none → ∃ t,
        exec (.groupEnable w g n id c) s = .next t ∧ t.rd (GP_GRP_CFG_N g) = n.toNat) ∧
    (∀ w (g : Fin 16) s, s.serves w (grpOff g) 4 = true → s.is (GP_GRP_CFG_EN g) = true → (∀ h ∈ s.together g, h < 16 ∧
        s.rd (GP_GRP_CFG_CHAN h) < 32) → ∃ t, exec (.groupDisable w g) s = .next t ∧ t.is (GP_GRP_CFG_EN g) = false) ∧
    (∀ (g : Fin 16) m ts s, s.is (GP_GRP_CFG_EN g) = true → s.portRuns (s.rd (GP_GRP_CFG_CHAN g) / 8) = true → s.segReady g = some (m, ts) → ∃ t,
        exec (.groupSegment g) s = .next t ∧ t.rd (GP_GRP_SKEW_SPREAD_NS g) = min 0xFFFF (segSpread ts)) ∧
    (∀ w (k : Fin 8) v s,
      let u := s.writePlain (0x041300 + 16 * k) (v.toNat ||| 1)
      s.serves w (0x041300 + 16 * k) 4 = true → ∃ t, exec (.pairEnable w k v) s = .next t ∧ (if u.pairOk k = true then
        t.is (GP_PAIR_CFG_EN k) = true ∧ t.rd (GP_PAIR_CFG_WORK k) = u.rd (GP_PAIR_CFG_WORK k) ∧
        t.rd (GP_PAIR_CFG_PROT k) = u.rd (GP_PAIR_CFG_PROT k) else t.rd GP_CFG_REJ_COUNT = upBy s GP_CFG_REJ_COUNT 1 ∧ t.pairs = s.pairs ∧
        Kept (GP_CFG_REJ_COUNT :: portCounts) s.settleBeats t)) ∧
    (∀ (c : Fin 32) k prot id f s, s.pairOfChan c = some (k, prot) → s.releasedOf c = some (id, f) → s.islandRuns 5 = true →
        (s.pair k).copies = [] → s.belowNext k f.pos = true → ∃ t, exec (.hingeCopyArrival c) s = .next t ∧ t.rxs = mapErase id s.rxs ∧
        t.rd (GP_HG_DUP_COUNT k) = upBy s (GP_HG_DUP_COUNT k) 1 ∧ Kept [GP_HG_DUP_COUNT k] s t) ∧
    (∀ (k : Fin 8) e f s, s.coreUp = true → s.is (GP_PAIR_STAT_ALIGNED k) = true → (s.pair k).copies = [e] → s.belowNext k e.pos = false →
        s.otherDown k e.prot = false → s.rd (GP_PAIR_TIME_WAIT_NS k) ≠ 0 → s.rxf e.frame = some f → ∃ t g, exec (.hingeWaitExpiry k) s = .next t ∧
        t.rxf e.frame = some g ∧ g.stage = .passed) ∧
    (∀ w (k : Fin 8) s, s.serves w (pairCmdOff k) 4 = true → s.coreUp = true → s.is (GP_PAIR_CFG_EN k) = true → s.is (GP_PAIR_CFG_BIDIR k) = false →
        s.condNow k = [] → (s.pair k).entered = [] → (s.pair k).wtr = none → (s.pair k).dnr = false → ∀ e ∈ [(Instr.pairCmdNone w k, 0, 0, false),
        (.pairCmdLo w k, 1, 15, false), (.pairCmdFs w k, 2, 13, true), (.pairCmdMsProtect w k, 3, 8, true), (.pairCmdMsWorking w k, 4, 8, false),
        (.pairCmdExer w k, 5, 4, s.is (GP_PAIR_STAT_SEL k))], ∃ t, exec e.1 s = .next t ∧ t.rd (GP_PAIR_CMD_CMD k) = e.2.1) ∧
    (∀ (k : Fin 8) (i : Fin 4) a s,
      let c := [14, 12, 11, 10].getD i.val 0
      s.coreUp = true → (s.pair k).conds.find? (fun e => e.1 == c) = some (c, a) → s.is (GP_PAIR_CFG_EN k) = true →
        (s.pair k).entered.contains c = false → (s.condNow k).contains c = true → ∃ t, exec (.holdoffExpiry k i) s = .next t ∧
        (t.pair k).entered.contains c = true) ∧
    (∀ (k : Fin 8) a s, s.coreUp = true → (s.pair k).wtr = some a → s.is (GP_PAIR_CFG_EN k) = true → s.is (GP_PAIR_CFG_BIDIR k) = false →
        s.condNow k = [] → (s.pair k).entered = [] → (s.pair k).dnr = false → s.rd (GP_PAIR_CMD_CMD k) = 0 → ∃ t, exec (.wtrExpiry k) s = .next t ∧
        (t.pair k).wtr = none)) ∧
  ((∀ (k : Fin 8) v r s, (s.oh k).tx = v :: r → s.islandUp 8 = true → ∃ t, exec (.ohTxWord k) s = .next t ∧
        t.oh k = { s.oh k with tx := r, sent := ohPulses v, busy := t.tm.tick + 64 * max 7 (s.rd (GP_OH_TX_DIV k)) }) ∧
    (∀ (k : Fin 8) v s, s.is (GP_OH_RX_EN k) = true → (s.oh k).rx.length < 4 → (∀ i < k.val, s.is (GP_OH_RX_EN i) = false ∨
        s.rd (GP_OH_RX_POS i) ≠ s.rd (GP_OH_RX_POS k)) → ∃ t, exec (.ohRxWord k true v) s = .next t ∧
        t.oh k = { s.oh k with rx := (s.oh k).rx ++ [v.toNat] }) ∧
    (∀ w (c : Fin 32) s, s.serves w (0x060180 + 4 * c) 4 = true → s.is (MC_COMMIT_LOCKED c) = false → 64 ≤ s.rd (MC_MAXLEN_MAXLEN c) →
        s.rd (MC_MAXLEN_MAXLEN c) ≤ 16384 → s.txWaiting c = false → s.rxInFrame c false = false → ∃ t, exec (.mcCommit w c false) s = .next t ∧
        (t.ch c).rx = s.macShade c) ∧
    (∀ (c : Fin 32) f slot lane byte s,
      let m := if (s.ch c).rxDue && !(s.ch c).rxBusy then s.macShade c else (s.ch c).rx
      s.rxRuns (c / 8) = true → s.tMode (c / 8) = false → s.receives c = true → s.spansGap c f.length = false →
        s.pwWatchedAt (s.eStart c f.length) = false → s.protChan c = false → f ≠ [] → rxFlags m.maxlen false false f = 0 → beNat f 12 2 ≠ 0x8808 →
        ∃ t g, exec (.rxFrame c f false slot ⟨lane, byte⟩) s = .next t ∧ t.rxf s.nextFr = some g ∧ g.chan = c ∧ g.len = f.length ∧
        g.stage = .slice ∧ g.data = (hostBytes m 0 f).1) ∧
    (∀ (c : Fin 32) id key f tag s, s.keyWaiting c = some (id, key) → s.rxf id = some f → s.islandRuns 7 = true → s.rxRuns (c / 8) = true →
        lookupTag (s.lookupsOut (c / 8)) = some tag → f.chan = c.val → s.is CL_CTRL_EN = false → ∃ t l, exec (.lookupRequest c) s = .next t ∧
        t.lookup id = some l ∧ l.tag = tag) ∧
    (∀ (c : Fin 32) id l f s, s.islandRuns 7 = true → s.lookupOf c (·.result.isNone) = some (id, l) → s.lookup id = some l → s.rxf id = some f →
        ∃ t m, exec (.lookupDeadline c) s = .next t ∧ t.lookup id = some m ∧ m.result = some (s.missVerdict f.chan 4 f.pcp)) ∧
    (∀ (c : Fin 32) id l v f s, s.rxRuns (c / 8) = true → s.islandRuns 7 = true → v.reason < 8 → s.lookupOf c (·.result.isSome) = some (id, l) →
        l.result = some v → s.rxf id = some f → ∃ t, exec (.verdictReturn c) s = .next t ∧
        t.rxf id = some { f with verdict := some v, key := none }) ∧
    (∀ (c : Fin 32) id f s, s.rxs.find? (fun e => e.2.chan == c.val && e.2.stage == .slice) = some (id, f) → f.verdict.isSome = true →
        s.islandRuns f.via = true → s.sys.sliceOut.getLsbD f.via = false → s.toCore (c / 8) < 32 → ∃ t, exec (.rxFrameRelease c false) s = .next t ∧
        t.rxf id = some { f with stage := .released }) ∧
    (∀ (c : Fin 32) id f v x s, s.islandRuns 5 = true → s.pairOfChan c = none →
        s.rxs.find? (fun e => e.2.chan == c.val && e.2.stage == .released) = some (id, f) → f.verdict = some v → v.men = false → f.dropRec = false →
        f.flags = 0 → f.control = false → v.reason = 0 → v.action = 0 → (s.ctx v.ctx).state = cACTIVE →
        s.fbPlace (8 * (c / 8) + v.cls) (cellsOf f.len) = some x → ∃ t g, exec (.rxFrameEntry c) s = .next t ∧ t.rxf id = some g ∧
        g.stage = .admitted) ∧
    (∀ id f k n s, s.coreUp = true → s.stage8List.find? (fun e => !(e.2.1.stage == .waiting && e.2.2 == .wait)) = some (id, f, .take k n) →
      let w := rxWrites ((s.q k).bufs.take n) f.data
      w ≠ [] → ∃ t, exec (.rxDescriptorTake none) s = .next t ∧
        t.rxf id = some { f with stage := .writing, queue := k, first := (s.q k).ci, nbuf := n, left := w.length, fault := false }) ∧
    (∀ (n : Fin 32768) id r f s,
      let k := 32768 + n.val
      s.coreUp = true → (s.q k).order = id :: r → s.rxf id = some f → f.stage = .complete → ∃ t, exec (.rxCompletionWrite n) s = .next t ∧
        t.rxf id = some { f with stage := .written }) ∧
    (∀ w (x : Fin 4096) wide v k s, s.servesDoorbell w (4096 * x) 4 = true → s.dbReason x (dbValue wide v) = 0 →
        s.poolQ x (bits (dbValue wide v) 16 6) (bitN (dbValue wide v) 22 == 1) = some k → ∃ t, exec (.doorbellWrite w x wide v) s = .next t ∧
        (t.q k).pi = dbValue wide v % 2 ^ 16) ∧
    (∀ w (x : Fin 4096) wide v e s, s.servesDoorbell w (4096 * x + 8) 4 = true → s.evcReason x (dbValue wide v) = 0 → (s.ctx x).evr = some e → ∃ t,
        exec (.eventConsumerWrite w x wide v) s = .next t ∧ t.ctx x = { s.ctx x with evr := some { e with ci := dbValue wide v } }) ∧
    (∀ (c : Fin 32) (k : Fin 8) x n id fin f s, s.chanServes c = true → s.pairOfChan c = none → s.protChan c = false → s.islandRuns 5 = true →
        s.pickNode c k = some (x, n, id, fin) → n < 32768 → s.txf id = some f → s.stagingFits c k f.len = true → s.dispatchHeld c = false → ∃ t,
        exec (.dispatch c k none) s = .next t ∧ t.stagedOf c k = s.stagedOf c k ++ [id] ∧ t.shap n = (s.shap n).spend f.len) ∧
    (∀ (c : Fin 32) id f s, s.portRuns (c / 8) = true → s.coreUp = true →
        s.txs.find? (fun e => e.2.chan == c.val && e.2.stage == .dispatched && (s.stagedOf c e.2.cls).contains e.1) = some (id, f) → f.main = none →
        s.gateNow c = none → ∃ t, exec (.txFrameInStaging c) s = .next t ∧ t.txf id = some { f with stage := .staged, cells := 0 }) ∧
    (∀ (c : Fin 32) (k : Nat) id f byte s, s.lineOpen c = true → (s.ch c).ctlDue = false → s.pairOfChan c = none → s.tMode (c / 8) = false →
        s.gateNow c = none → (s.ch c).guard = none → (s.ch c).starved = false → [7, 6, 5, 4, 3, 2, 1, 0].find? (s.ready c) = some k →
        s.stagedHead c k = some (id, f) → ∃ t g, exec (.txFrameStart c ⟨false, byte⟩) s = .next t ∧ (t.ch c).line = .frame id ∧ t.txf id = some g ∧
        g.stage = .line) ∧
    (∀ (c : Fin 32) a e s, (s.ch c).line = .control a e → s.portRuns (c / 8) = true → ∃ t, exec (.txFrameEnd c) s = .next t ∧ (t.ch c).line = .idle)) ∧
  ((∀ (n : Fin 32768) id r f s, s.coreUp = true → (s.q n).order = id :: r → s.txf id = some f → f.stage = .ended → f.need = true → ∃ t,
        exec (.txCompletionWrite n) s = .next t ∧ t.txf id = none) ∧
    (∀ (c : Fin 32) (k : Fin 8) a s, optGet (s.ch c).pauseEnd k = some a → s.portRuns (c / 8) = true → ∃ t,
        exec (.pauseTimerExpiry c k) s = .next t ∧ optGet (t.ch c).pauseEnd k = none) ∧
    (∀ (c : Fin 32) s, s.fcMode c = 1 → s.is (MC_FC_CFG_TX_GEN c) = true → (s.ch c).xoffMine ≠ 0 → s.portRuns (c / 8) = true → ∃ t,
        exec (.pauseRefreshTimer c) s = .next t ∧ t.ch c = { s.ch c with ctlDue := true }) ∧
    (∀ w (c : Fin 32) v s, s.serves w (0x060200 + 4 * c) 4 = true → s.rd (MC_FC_CFG_MODE c) ≠ bits v.toNat 0 2 → ∃ t,
        exec (.fcModeWrite w c v) s = .next t ∧ t.rd (MC_FC_CFG_MODE c) = bits v.toNat 0 2) ∧
    (∀ (c : Fin 32) (k : Fin 8) a e s, optGet (s.ch c).pauseFrom k = some a → optGet (s.ch c).pauseEnd k = some e → s.rd (MC_FC_WD_WD_US c) ≠ 0 →
        a + 1600 * s.rd (MC_FC_WD_WD_US c) ≤ e → s.portRuns (c / 8) = true → s.protChan c = false → ∃ t, exec (.pauseWatchdog c k) s = .next t ∧
        t.bit (MC_FC_STAT_PAUSED c) k = false ∧ t.bit (MC_FC_STAT_HOLDOFF c) k = true ∧ t.bit MC_EVT_PAUSE_WD (c / 8) = true ∧
        optGet (t.ch c).pauseEnd k = none ∧ optGet (t.ch c).holdEnd k = some (t.tm.tick + usTicks (s.rd (MC_FC_WD_HOLD_US c))) ∧ t.rd64
        (MC_STAT_LO_COUNT c (45 + k)) (MC_STAT_HI_COUNT c (45 + k)) = min (s.rd64 (MC_STAT_LO_COUNT c (45 + k)) (MC_STAT_HI_COUNT c (45 + k)) + 1)
        (2 ^ 64 - 1) ∧ t.tm.tick = max s.tm.tick (a + 1600 * s.rd (MC_FC_WD_WD_US c))) ∧
    (∀ (c : Fin 32) (k : Fin 8) a s, optGet (s.ch c).holdEnd k = some a → s.portRuns (c / 8) = true → ∃ t,
        exec (.watchdogHoldoffEnd c k) s = .next t ∧ optGet (t.ch c).holdEnd k = none) ∧
    (∀ w v s, s.serves w 0x080000 4 = true → s.is CL_CTRL_EN = false → v.getLsbD 1 = false → ∃ t, exec (.clEnable w v) s = .next t ∧
        t.rd CL_CTRL_PUNT_RXQ = bits v.toNat 16 6) ∧
    (∀ w v s, s.serves w 0x080000 4 = true → s.is CL_CTRL_EN = false → s.is CL_CTRL_CLEAR_BUSY = false → v.getLsbD 0 = false → ∃ t,
        exec (.clClear w v) s = .next t ∧ t.is CL_CTRL_CLEAR_BUSY = true) ∧
    (∀ w s,
      let key := (List.range 10).flatMap (fun i => leBytes 4 (s.rd (CL_UPD_KEY_KEY i)))
      let vd := s.readPlain 0x080328 + 2 ^ 32 * s.readPlain 0x08032C
      let h1 := hashH1 (toeplitz (beNat key 0 40) s.hkey)
      s.serves w 0x080330 4 = true → s.is CL_UPD_STAT_BUSY = false → s.tbl.ops = [] → 1 ≤ byteAt key 0 → byteAt key 0 ≤ 6 → s.is CL_CTRL_EN = true →
        s.cline h1 = none → s.bucketServed h1 = true → ∀ e ∈ [(Instr.clInsert w,
        1), (.clDelete w, 2), (.clModify w, 3), (.clQuery w, 4)], (e.2 = 1 ∨ e.2 = 3 → bits vd 33 3 < 3 ∧ (s.ctx (bits vd 0 12)).state ≠ cFREE ∧
        (s.poolQ (bits vd 0 12) (bits vd 12 6) true).isSome = true) → ∃ t o, exec e.1 s = .next t ∧ t.tbl.ops = [o] ∧ o.op = e.2 ∧ o.key = key ∧
        o.reading = some h1) ∧
    (∀ w s, s.serves w 0x081018 4 = true → s.meterRefuse = false → ∃ t n, exec (.mtWrite w false) s = .next t ∧ t.meter (s.rd MT_SEL_METER) = n ∧
        n.alg = s.rd MT_MODE_ALG) ∧
    (∀ w s, s.serves w 0x081018 4 = true →
      let m := (s.meter (s.rd MT_SEL_METER)).refill (periodOf s.tm.cyc)
      m.audit = true → ∃ t, exec (.mtRead w) s = .next t ∧ t.meter (s.rd MT_SEL_METER) = m ∧ t.rd MT_MODE_ALG = m.alg % 2 ^ MT_MODE_ALG.w ∧
        t.rd MT_CIR_CIR = m.cir % 2 ^ MT_CIR_CIR.w ∧ t.rd MT_TOK_C_TOK = m.tokC % 2 ^ MT_TOK_C_TOK.w ∧
        t.rd MT_TOK_P_TOK = m.tokP % 2 ^ MT_TOK_P_TOK.w) ∧
    (∀ w i s, s.serves w 0x0C0014 4 = true → s.scSel = some i → (s.shap i).locked = false → (i < 32768 → s.mapRefuse i (s.shap i).sMap = none) →
        ∃ t, exec (.scCommit w) s = .next t ∧ t.shap i = { s.shap i with locked := true, cmd := none, commitAt := s.tm.cyc }) ∧
    (∀ w i s, s.serves w 0x0C0018 4 = true → s.scSel = some i → (s.shap i).locked = false → ∃ t, exec (.scRead w) s = .next t ∧
        (t.shap i).sRate = (s.shap i).rate) ∧
    (∀ (c : Fin 32) (k : Fin 8) a s, (s.ch c).starveLive ≠ 0 → s.ready c k = true → s.gateNow c = none → optGet (s.ch c).unserved k = some a →
        (s.ch c).guard = none → s.pairOfChan c = none → s.portRuns (c / 8) = true → ∃ t, exec (.starveTimer c k) s = .next t ∧
        (t.ch c).starved = true) ∧
    (∀ (c : Fin 32) g a e s, (s.ch c).guard = some g → (s.ch c).line = .control a e → s.portRuns (c / 8) = true → ∃ t,
        exec (.guardWindowEnd c) s = .next t ∧ (t.ch c).line = .idle) ∧
    (∀ w (c : Fin 32) s,
      let len := s.rd (TG_LEN_LEN c)
      let cyc := s.rd (TG_CYCLE_CYCLE_NS c) * 2 ^ 32
      let base := (s.rd (TG_BASE_S_LO_S_LO c) + 2 ^ 32 * s.rd (TG_BASE_S_HI_S_HI c)) * secUnits + s.rd (TG_BASE_NS_NS c) * 2 ^ 32
      s.serves w (0x0C1114 + 32 * c) 4 = true → s.is (TG_COMMIT_LOCKED c) = false → s.listInForce c (s.rd (TG_LEN_LIST c)) = false → 1 ≤ len →
        len ≤ 256 → 0 < cyc → (s.gateTime c).toNat + twoUs ≤ base → ∃ t, exec (.tgCommit w c) s = .next t ∧
        (t.ch c).take = some ⟨base, base, cyc, len, s.rd (TG_LEN_LIST c)⟩) ∧
    (∀ (c : Fin 32) w s, (s.ch c).take = some w → s.portRuns (c / 8) = true → s.coreUp = true → s.sleepLoad = false → ∃ t,
        exec (.tgTakeover c) s = .next t ∧ (t.ch c).take = none) ∧
    (∀ (c : Fin 32) g s, s.gateNow c = some g → g.empty = false → s.coreUp = true → s.portRuns (c / 8) = true → s.sleepLoad = false → ∃ t,
        exec (.gateEntryChange c false) s = .next t ∧
        t.tm.tick = s.tm.tick + s.cyclesTo (s.tm.now + max 1 (s.gateAt c g ((s.gateTime c - g.base) % (g.cycle : Int)).toNat g.len 0 0).2))) ∧
  ((∀ (n : Fin 32768) rx s,
      let k := n.val + 32768 * b2n rx
      s.coreUp = true → (s.q k).state = qSTOPPING → s.queueBusy k = false → ∃ t, exec (.queueStopped n rx) s = .next t ∧ (t.q k).state = qSTOPPED) ∧
    (∀ (x : Fin 4096) (v : Fin 64) a r s, (s.vec x v).un = a :: r → (s.vec x v).modUs ≠ 0 → (s.vec x v).mask = false → s.msgHeld x = false →
        (s.vec x v).msg = false → s.coreUp = true → ∃ t, exec (.notifyModTimer x v) s = .next t ∧
        t.asks .notify x v (s.vec x v).addr (leBytes 4 (s.vec x v).data) 0 = true) ∧
    (∀ w v s, s.serves w 0x100010 4 = true → s.is HR_CMD_CFG_EN = false → v.getLsbD 0 = true → ∃ t, exec (.cmdEnableWrite w v) s = .next t ∧
        t.is HR_CMD_CFG_EN = true) ∧
    (∀ w v s, s.serves w 0x100014 4 = true → ∃ t, exec (.cmdPiWrite w v) s = .next t ∧ (let pi := v.toNat % 2 ^ 16
      if 2 ^ (s.cmdLog2 + 1) ≤ pi ∨ 2 ^ s.cmdLog2 < occ s.cmdLog2 pi (s.rd HR_CMD_STAT_CI) then t.ring = s.ring ∧
        t.rd HR_CFG_REJ_COUNT = upBy s HR_CFG_REJ_COUNT 1 ∧ Kept (HR_CFG_REJ_COUNT :: portCounts) s.settleBeats t else t.rd HR_CMD_PI_PI = pi ∧
        Kept (HR_CMD_PI_PI :: portCounts) s.settleBeats t)) ∧
    (∀ (x : Fin 4096) r id c s, (s.ctx x).reset = some r → (s.ctx x).state = cRESETTING → s.coreUp = true → s.inFlight x = false →
        s.ctxQuiet x = true → r.cmd = some id → optGet s.ring.active id = some c → s.is HR_CMD_CFG_EN = true → ∃ t, exec (.resetEnd x) s = .next t ∧
        (t.ctx x).state = cACTIVE) ∧
    (∀ (x : Fin 4096) r s, (s.ctx x).reset = some r → (s.ctx x).state = cRESETTING → r.squash = false → s.coreUp = true → ∃ t u,
        exec (.drainTimeout x) s = .next t ∧ (t.ctx x).state = cRESETTING ∧ (t.ctx x).reset = some u ∧ u.squash = true ∧ u.timeout = true ∧
        u.cmd = r.cmd ∧ u.start = r.start ∧ t.rd (CX_STAT_DRAIN_TMO x) = upBy s (CX_STAT_DRAIN_TMO x) 1 ∧
        t.tm.tick = max s.tm.tick (r.start + usTicks (s.rd CX_LIMITS_DRAIN_US))) ∧
    (∀ (x : Fin 4096) n id c s, (s.ctx x).freeze = some (some id, n) → (s.ctx x).state = cFREEZING → s.coreUp = true → s.freezeBusy x = false →
        s.ctxQuiet x = true → optGet s.ring.active id = some c → s.is HR_CMD_CFG_EN = true → ∃ t, exec (.freezeEnd x) s = .next t ∧
        t.ctx x = { s.ctx x with state := cFROZEN, freeze := none }) ∧
    (∀ (x : Fin 4096) n id c s, (s.ctx x).freeze = some (some id, n) → (s.ctx x).state = cFREEZING → optGet s.ring.active id = some c →
        s.coreUp = true → s.is HR_CMD_CFG_EN = true → ∃ t, exec (.freezeTimeout x) s = .next t ∧ (t.ctx x).state = cACTIVE) ∧
    (∀ w s, s.serves w 0x101010 4 = true → ∃ t, exec (.cxCommit w) s = .next t ∧ (let x := s.rd CX_SEL_CTX
      if s.is (CX_COMMIT_LOCKED x) then t.rd (CX_COMMIT_REJ x) = upBy s (CX_COMMIT_REJ x) 1 ∧ t.is CX_EVT_SHADE_REJ = true ∧ t.ctxs = s.ctxs ∧
        Kept ([CX_COMMIT_REJ x, CX_EVT_SHADE_REJ] ++ portCounts) s.settleBeats t else t.is (CX_COMMIT_LOCKED x) = true ∧
        t.ctx x = { s.ctx x with commitAt := s.tm.cyc } ∧ (∀ k, k ≠ x → t.ctx k = s.ctx k) ∧
        Kept (CX_COMMIT_LOCKED x :: portCounts) s.settleBeats t)) ∧
    (∀ w n s, s.serves w (ccOff n + 0x40) 4 = true → (s.chan n).state = 0 → ∃ t, exec (.ccClaim w n) s = .next t ∧ (t.chan n).state = 1) ∧
    (∀ w n i v s, s.serves w (ccOff n + 4 * i) 4 = true → ∃ t, exec (.ccWordWrite w n i v) s = .next t ∧ (if s.wordOpen n w.master = true then
        t.rd (CC_W_WORD n i) = v.toNat ∧ Kept (CC_W_WORD n i :: portCounts) s.settleBeats t else t.rd CC_REJ_COUNT = upBy s CC_REJ_COUNT 1 ∧
        t.is CC_EVT_REJ = true ∧ Kept ([CC_REJ_COUNT, CC_EVT_REJ] ++ portCounts) s.settleBeats t)) ∧
    (∀ w n v s, s.serves w (ccOff n + 0x44) 4 = true → (s.chan n).state = 1 → (s.chan n).owner = w.master → bits v.toNat 0 16 = (s.chan n).token →
        1 ≤ bits v.toNat 16 5 → bits v.toNat 16 5 ≤ 16 → bits v.toNat 21 11 = 0 → s.hasConsumer n = true → ∃ t, exec (.ccCommit w n v) s = .next t ∧
        t.chan n = { s.chan n with state := 2, count := bits v.toNat 16 5, lease := {} }) ∧
    (∀ w n v s, s.serves w (ccOff n + 0x48) 4 = true → (s.chan n).state = 2 → s.isConsumer n w.master = true → bits v.toNat 0 4 ≤ 8 →
        bits v.toNat 4 5 ≤ 16 → bits v.toNat 9 23 = 0 → ∃ t, exec (.ccDone w n v) s = .next t ∧ (t.chan n).state = 3) ∧
    (∀ w n v s, s.serves w (ccOff n + 0x4C) 4 = true → (s.chan n).state = 1 ∨ (s.chan n).state = 3 → (s.chan n).owner = w.master →
        v.toNat % 2 ^ 16 = (s.chan n).token → ∃ t, exec (.ccRelease w n v) s = .next t ∧ t.chan n = { token := (s.chan n).token })) ∧
  ((∀ n s, (s.chan n).state = 1 ∨ (s.chan n).state = 3 → (s.chan n).lease.since.isSome = true → s.islandUp 8 = true → ∃ t,
        exec (.leaseExpiry n) s = .next t ∧ t.chan n = { token := (s.chan n).token }) ∧
    (∀ w n s, s.serves w 0x140008 4 = true → (s.chan n).state ≠ 0 → ∃ t, exec (.ccBreak w n) s = .next t ∧ t.chan n = { token := (s.chan n).token }) ∧
    (∀ (i : Fin 64) (high : Bool) s, ∃ t, exec (.haltInputChange i high) s = .next t ∧ t.cc.halt.getLsbD i = high) ∧
    (∀ w l s, s.serves w (tbOff l) 4 = true → (s.lock l).held = false → ∃ t, exec (.tbAcq w l) s = .next t ∧ (t.lock l).held = true) ∧
    (∀ w l v s, s.serves w (tbOff l + 4) 4 = true → ∃ t, exec (.tbRel w l v) s = .next t ∧ (if (s.lock l).held = true ∧
        (s.lock l).holder = w.master ∧ v.toNat % 2 ^ 16 = (s.lock l).token then t.lock l = ⟨false, 0, (s.lock l).token⟩ ∧ (∀ k, k ≠ l.val →
        t.lock k = s.lock k) ∧ Kept portCounts s.settleBeats t else t.cc = s.cc ∧ t.rd TB_REJ_COUNT = upBy s TB_REJ_COUNT 1 ∧
        Kept (TB_REJ_COUNT :: portCounts) s.settleBeats t)) ∧
    (∀ w l s, s.serves w 0x141008 4 = true → ∃ t, exec (.tbForce w l) s = .next t ∧ (if (s.lock l).held = true then
        t.lock l = ⟨false, 0, (s.lock l).token⟩ ∧ t.rd TB_CYC_CNT_FORCE = upBy s TB_CYC_CNT_FORCE 1 ∧ t.is TB_EVT_FORCED = true else t.cc = s.cc ∧
        t.rd TB_REJ_COUNT = upBy s TB_REJ_COUNT 1)) ∧
    (∀ w l s, s.serves w (tbOff l + 0xC) 4 = true → ∃ t, exec (.tbUnwant w l) s = .next t ∧
        t.cc.wants = (if (optGet s.cc.wants w.master).map (·.lock) = some l.val then mapErase w.master s.cc.wants else s.cc.wants)) ∧
    (∀ m x s, optGet s.cc.wants m.val = some x → x.age.since.isSome = true → s.islandUp 8 = true → ∃ t, exec (.wantExpiry m) s = .next t ∧
        t.cc = { s.cc with wants := mapErase m.val s.cc.wants }) ∧
    (∀ (m : Fin 6) w s, s.led.win = some w → s.islandRuns m = true → s.sys.sliceOut.getLsbD m = false → s.islandRuns 5 = true → m.val ∈ w.due →
        s.passedBefore m w.inst = true → ∃ t, exec (.cutMarker m) s = .next t ∧ (if w.due.erase m.val = [] then t.led.win = none ∧
        t.is LG_STAT_WINDOW = false ∧ t.is LG_STAT_PENDING = true ∧ t.rd LG_SEQ_CUT_SEQ = (s.rd LG_SEQ_CUT_SEQ + 1) % 2 ^ 32 ∧
        t.led.cut.sec = secOf w.inst ∧ t.led.cut.ctxs = w.ctxs ∧ t.led.cut.mode = w.mode ∧ t.led.done = 0 ∧
        t.led.floor = w.floor else t.led.win = some { w with due := w.due.erase m.val } ∧ t.flds = s.flds)) ∧
    (∀ w v s, s.serves w 0x160014 4 = true → ∃ t, exec (.lgCiWrite w v) s = .next t ∧ (let c := v.toNat % 2 ^ 16
      if 2 ^ (s.lgLog2 + 1) ≤ c ∨ 2 ^ s.lgLog2 < occ s.lgLog2 (s.rd LG_PI_PI) c then t.rd LG_SKIP_CFG_REJ = upBy s LG_SKIP_CFG_REJ 1 ∧
        Kept (LG_SKIP_CFG_REJ :: portCounts) s.settleBeats t else t.rd LG_CI_CI = c ∧ Kept (LG_CI_CI :: portCounts) s.settleBeats t)) ∧
    (∀ w v s, s.serves w 0x16000C 4 = true → s.is LG_RING_CFG_EN = false → v.getLsbD 0 = true → ∃ t, exec (.lgRingEnable w v) s = .next t ∧
        t.is LG_RING_CFG_EN = true) ∧
    (∀ (x : Fin 4096) id c s, (s.ctx x).closing = some (some id) → s.coreUp = true → s.inFlight x = false → optGet s.ring.active id = some c →
        s.is HR_CMD_CFG_EN = true → ∃ t, exec (.contextClose x) s = .next t ∧ t.ctx x = { s.ctx x with closing := none, owner := 0 }) ∧
    (∀ w s, s.serves w 0x170028 4 = true → s.stepHeld = false → s.rd TM_SET_NS_NS ≤ 999999999 → ∃ t, exec (.tmSet w) s = .next t ∧
        t.is TM_STAT_BUSY = true) ∧
    (∀ w s, s.serves w 0x170028 4 = true → s.stepHeld = false → ∃ t, exec (.tmOffset w) s = .next t ∧ t.is TM_STAT_BUSY = true) ∧
    (∀ w s, s.serves w 0x170028 4 = true → s.stepHeld = false → s.is TM_STAT_BUSY = false → ∃ t, exec (.tmRelock w) s = .next t ∧
        t.is TM_STAT_SLEEP_HOLD = false ∧ t.is TM_STAT_HOLDOVER = (s.is TM_STAT_UNSET || s.is TM_STAT_PPS_HOLD || s.is TM_CTRL_SW_HOLD)) ∧
    (∀ w v s, s.serves w 0x170004 4 = true → ∃ t, exec (.tmIncrWrite w v) s = .next t ∧ (if 2681670206 ≤ v.toNat ∧ v.toNat ≤ 2687038914 then
        t.rd TM_INCR_INCR = v.toNat ∧ Kept (TM_INCR_INCR :: portCounts) s.settleBeats t else t.rd TM_CFG_REJ_COUNT = upBy s TM_CFG_REJ_COUNT 1 ∧
        Kept (TM_CFG_REJ_COUNT :: portCounts) s.settleBeats t)) ∧
    (∀ w s, s.serves w 0x170008 4 = true → ∃ t, exec (.timeCaptureRead w) s = .next t ∧ t.rd TM_NOW_NS_NS = nsOf s.tm.now)) ∧
  ((∀ m s, s.coreUp = true → ∃ t, exec (.todMessage m) s = .next t ∧ (if s.todAccepted m then t.tm = { s.tm with todNext := some (leNat m 2 6) } ∧
        t.rd TM_TOD_S_LO_S_LO = leNat m 2 4 ∧ t.rd TM_TOD_S_HI_S_HI = leNat m 6 2 ∧ t.is TM_EVT_TOD = true ∧
        Kept [TM_TOD_S_LO_S_LO, TM_TOD_S_HI_S_HI, TM_EVT_TOD] s t else t.tm = s.tm ∧ t.rd TM_CFG_REJ_TOD_BAD = upBy s TM_CFG_REJ_TOD_BAD 1 ∧
        Kept [TM_CFG_REJ_TOD_BAD] s t)) ∧
    (∀ p n s, s.coreUp = true → s.holdover = false → s.tm.aonTicks = some n → aonFits p.toNat n = true → ∃ t,
        exec (.aonPeriodMeasured p) s = .next t ∧ t.rd TM_AON_MEAS_PERIOD = p.toNat) ∧
    (∀ n s, isLevel n.val = true → s.canPend n.val = true → s.islandUp 8 = true → ∃ t, exec (.sourceLevelChange n) s = .next t ∧
        (t.src n).level = s.originLevel n) ∧
    (∀ w v s, s.serves w 0x180014 4 = true → ∃ t, exec (.hbSwSet w v) s = .next t ∧ (if isEdge (v.toNat % 4096) = true ∧
        s.canPend (v.toNat % 4096) = true then (t.src (v.toNat % 4096)).pending = true ∧ (∀ k, k ≠ v.toNat % 4096 →
        t.src k = s.src k) else t.hub = s.hub ∧ t.rd HB_CFG_REJ_COUNT = upBy s HB_CFG_REJ_COUNT 1 ∧ t.is HB_EVT_CFG_REJ = true)) ∧
    (∀ w (g : Fin 65) n s, s.serves w (0x188000 + 0x20 * g) 4 = true → s.is HB_CTRL_DISABLE = false → s.held g = none → s.claimed g = some n →
        n < 4096 → ∃ t, exec (.hbClaim w g .accepted) s = .next t ∧ (t.src n).active = true) ∧
    (∀ w (g : Fin 65) v s, s.serves w (0x188004 + 0x20 * g) 4 = true → v.toNat < 4096 → (s.src v.toNat).active = true →
        (s.src v.toNat).holder = g.val → ∃ t, exec (.hbComplete w g v) s = .next t ∧ (t.src v.toNat).active = false) ∧
    (∀ w (n : Fin 2560) v s, s.serves w (0x184000 + 4 * n) 4 = true → n.val < 512 → isEdge n.val = true ∨ isLevel n.val = true → ∃ t,
        exec (.hbSrcCfgWrite w n v) s = .next t ∧ (if s.wired (bits v.toNat 8 7) = true then t.rd (HB_SRC_CFG_EN n) = bitN v.toNat 0 ∧
        t.rd (HB_SRC_CFG_TARGET n) = bits v.toNat 8 7 ∧
        Kept ([HB_SRC_CFG_EN n, HB_SRC_CFG_TARGET n] ++ portCounts) s.settleBeats t else t.hub = s.hub ∧
        t.rd HB_CFG_REJ_COUNT = upBy s HB_CFG_REJ_COUNT 1 ∧ t.is HB_EVT_CFG_REJ = true)) ∧
    (∀ w v s, s.serves w 0x180000 4 = true → ∃ t, exec (.hbDisableWrite w v) s = .next t ∧ t.rd HB_CTRL_DISABLE = bitN v.toNat 0) ∧
    (∀ g x s, optGet s.hub.hold g.val = some x → s.islandUp 8 = true → ∃ t, exec (.holdoffGroupExpiry g) s = .next t ∧
        t.hub.hold = mapErase g.val s.hub.hold) ∧
    (∀ (k : Fin 64) (high : Bool) s, ∃ t, exec (.targetAwakeChange k high) s = .next t ∧ t.hub.awake.getLsbD k = high) ∧
    (∀ (n : Fin 2560) x s, s.redirectRuns n = true → optGet s.hub.redirs n = some x → s.islandUp 8 = true → ∃ t,
        exec (.redirectTimeout n) s = .next t ∧ (t.src n).redir = true) ∧
    (∀ (e : Fin 32) s, s.is (HB_WATCH_EN e) = true → s.islandUp 8 = true → (s.src (s.rd (HB_WATCH_SOURCE e))).pending = true →
        s.asleep (s.effective (s.rd (HB_WATCH_SOURCE e))) = true → s.pw.step = 0 → s.pwState = pwA0 → ∃ t, exec (.watchWake e) s = .next t ∧
        t.is HB_WAKE_STAT_VALID = true) ∧
    (∀ w (ch : Fin 8) s, s.serves w (0x1C0108 + 64 * ch) 4 = true → s.mdState ch ≠ 1 → s.mdState ch ≠ 2 → ∃ t, exec (.mdStart w ch) s = .next t ∧
        t.mdState ch = 1) ∧
    (∀ w (ch : Fin 8) s, s.serves w (0x1C0108 + 64 * ch) 4 = true → s.mdState ch = 1 → (s.mdCh ch).phase ≠ 2 ∨ (s.mdCh ch).acc.isSome = true → ∃ t,
        exec (.mdAbort w ch) s = .next t ∧ t.mdState ch = 2) ∧
    (∀ (ch : Fin 8) s, (s.mdCh ch).phase = 1 → s.islandUp 8 = true → s.mdState ch = 1 → 2 ≤ s.mdCurSpace ch → ∃ t,
        exec (.mdDescriptorRead ch) s = .next t ∧ t.mdState ch = 2) ∧
    (∀ (ch : Fin 8) x s, (s.mdCh ch).phase = 2 → (s.mdCh ch).acc = some x → s.islandUp 8 = true → x.space = 1 → x.write = true → ∃ t,
        exec (.mdDataResponse ch) s = .next t ∧ (∀ i, i < x.data.length → t.sramRead (x.addr + i) 1 = [x.data.getD i 0]) ∧ (∀ b, b < x.addr ∨
        x.addr + x.data.length ≤ b → t.sramRead b 1 = s.sramRead b 1)) ∧
    (∀ (ch : Fin 8) x s, (s.mdCh ch).phase = 3 → (s.mdCh ch).acc = some x → s.islandUp 8 = true → x.space = 1 → ∃ t,
        exec (.mdWritebackResponse ch) s = .next t ∧ (∀ i, i < x.data.length → t.sramRead (x.addr + i) 1 = [x.data.getD i 0]) ∧ (∀ b, b < x.addr ∨
        x.addr + x.data.length ≤ b → t.sramRead b 1 = s.sramRead b 1)) ∧
    (∀ (ch : Fin 8) s, s.mdState ch = 2 → (s.mdCh ch).phase = 0 → s.islandUp 8 = true → ∃ t, exec (.mdStoppingDone ch) s = .next t ∧
        t.mdState ch = 3)) ∧
  ((∀ w (u : Fin 16) (keep : Bool) s, s.serves w (0x1C8004 + 64 * u) 4 = true → ∃ t, exec (.cuArm w u keep) s = .next t ∧ (if s.cuState u ≠ 0 ∨
        s.rd (CU_CFG_END_MODE u) = 3 ∨ s.rd (CU_CFG_END_MODE u) = 1 ∧ s.rd (CU_COUNT_COUNT u) = 0 then t.cu = s.cu ∧
        t.rd CU_CFG_REJ_COUNT = upBy s CU_CFG_REJ_COUNT 1 ∧ Kept (CU_CFG_REJ_COUNT :: portCounts) s.settleBeats t else t.cuState u = (if keep then
        2 else 1) ∧ t.cuMore u = {} ∧ (∀ k, k ≠ u.val → t.cuMore k = s.cuMore k) ∧ Kept (CU_STAT_STATE u :: portCounts) s.settleBeats t)) ∧
    (∀ w (u : Fin 16) s, s.serves w (0x1C8004 + 64 * u) 4 = true → ∃ t, exec (.cuDisarm w u) s = .next t ∧ t.cuState u = 0) ∧
    (∀ w v pc b s, s.serves w 0x1E0000 4 = true → bitN v.toNat 0 = 1 → (∀ x ∈ s.transit, x.reader ≠ 256) → ∃ t,
        exec (.coreRst w v pc b) s = .next t ∧ t.rd NY_STAT_CAUSE = 2) ∧
    (∀ pc b s, s.is NY_CTRL_WDT_EN = true → s.is NY_STAT_HALTED = false → s.islandUp 8 = true → (∀ x ∈ s.transit, x.reader ≠ 256) → ∃ t,
        exec (.watchdogExpiry pc b) s = .next t ∧ t.rd NY_STAT_CAUSE = 1) ∧
    (∀ w s, s.serves w 0x1E000C 4 = true → ∃ t, exec (.wdtKick w) s = .next t ∧ t.ny.wdt = (if s.is NY_CTRL_WDT_EN && !s.is NY_STAT_HALTED then
        ⟨0, some s.mgNow⟩ else {})) ∧
    (∀ k x e pc b s, s.islandUp 8 = true → ∃ t, exec (.sramEccError false k x e pc b) s = .next t ∧ t.rd NY_ECC_CORR = upBy s NY_ECC_CORR 1) ∧
    (∀ r s, s.islandUp 8 = true → s.pwState ≤ pwP1 → ∃ t, exec (.thermalUpdate r) s = .next t ∧ (∀ i : Fin 24,
        t.rd (NY_THERM_TEMP i) = (r.getD i 0).toNat)) ∧
    (∀ (i : Fin 12) mv s, s.islandUp 8 = true → ∃ t, exec (.droopEpisode i mv) s = .next t ∧ t.rd (NY_DROOP_MV i) = mv.toNat ∧
        (if mv.toNat < s.rd (NY_DROOP_THR i) then t.rd (NY_DROOP_CNT_COUNT i) = upBy s (NY_DROOP_CNT_COUNT i) 1 ∧
        t.is NY_EVT_DROOP = true else Kept [NY_DROOP_MV i] s t)) ∧
    (∀ (k : Fin 9) f e s, s.start ≠ stRESET → s.islandUp 8 = true → ∃ t, exec (.clockMonitorWindow k f e) s = .next t ∧ (e = true ∨ k ≠ 8 →
        s.fab.in9 = [] → t.rd (NY_CLK_KHZ k) = (if e then f.toNat else 0) % 2 ^ (NY_CLK_KHZ k).w)) ∧
    (∀ w code sev s, s.serves w 0x1E0460 4 = true → ∃ t, exec (.logPostFw w code sev) s = .next t ∧ t.ny.fwq = (if w.master = 256 then
        s.ny.fwq ++ [⟨code.toNat, sev.toNat, s.rd (NY_LOG_FW_ARG_ARG 0), s.rd (NY_LOG_FW_ARG_ARG 1), s.rd (NY_LOG_FW_ARG_ARG 2), 0⟩] else s.ny.fwq)) ∧
    (∀ w code sev s, s.serves w 0x1E0480 4 = true → ∃ t, exec (.logPostHost w code sev) s = .next t ∧ t.ny.hostq = (if w.master = 256 then
        s.ny.hostq else s.ny.hostq ++ [⟨code.toNat, sev.toNat, s.rd (NY_LOG_HOST_ARG_ARG 0), s.rd (NY_LOG_HOST_ARG_ARG 1), s.rd (NY_LOG_HOST_ARG_ARG
        2), 0⟩])) ∧
    (∀ w v s, s.serves w 0x1E0408 4 = true → ∃ t, exec (.logPersistWrite w v) s = .next t ∧
        (if (v.toNat + 2 ^ 32 - s.rd NY_LOG_PERSIST_NEXT) % 2 ^ 32 ≤ s.logDepth then t.rd NY_LOG_PERSIST_NEXT = v.toNat ∧
        Kept (NY_LOG_PERSIST_NEXT :: portCounts) s.settleBeats t else t.rd NY_LOG_LOST_REJ = upBy s NY_LOG_LOST_REJ 1 ∧
        Kept (NY_LOG_LOST_REJ :: portCounts) s.settleBeats t)) ∧
    (∀ w v s, s.serves w 0x1E0404 4 = true → ∃ t, exec (.logSeqWrite w v) s = .next t ∧ (if s.rd NY_LOG_HEAD_COUNT = 0 then
        t.rd NY_LOG_SEQ_SEQ = v.toNat ∧ t.rd NY_LOG_HEAD_SLOT = v.toNat % 2048 ∧
        Kept ([NY_LOG_SEQ_SEQ, NY_LOG_HEAD_SLOT] ++ portCounts) s.settleBeats t else t.rd NY_LOG_LOST_REJ = upBy s NY_LOG_LOST_REJ 1 ∧
        Kept (NY_LOG_LOST_REJ :: portCounts) s.settleBeats t)) ∧
    (∀ w on s, s.serves w 0x1D0000 4 = true → ∃ t, exec (.pcFreeze w on) s = .next t ∧ t.is PC_CTRL_FREEZE = on) ∧
    (∀ w frz s, s.serves w 0x1D0000 4 = true → s.is PC_CTRL_SNAP_BUSY = false → (∀ i, i < 9 → s.islandUp i = true) → ∃ t,
        exec (.pcSnap w frz) s = .next t ∧ t.is PC_CTRL_FREEZE = frz ∧ (∀ e : Fin 1024,
        t.rd (PC_SNAP_LO_COUNT e) = t.rd (PC_CNT_LO_COUNT e) % 2 ^ 32 ∧ t.rd (PC_SNAP_HI_COUNT e) = t.rd (PC_CNT_HI_COUNT e) % 2 ^ 32)) ∧
    (∀ w frz s, s.serves w 0x1D0000 4 = true → ∃ t, exec (.pcClear w frz) s = .next t ∧ t.is PC_CTRL_FREEZE = frz ∧ (∀ e : Fin 1024,
        t.rd (PC_CNT_LO_COUNT e) = 0 ∧ t.rd (PC_CNT_HI_COUNT e) = 0) ∧ (∀ i : Fin 32, t.rd (PC_OVF_OVF i) = 0)) ∧
    (∀ w frz s, s.serves w 0x1D0000 4 = true → s.is PC_CTRL_SNAP_BUSY = false → s.is PC_CTRL_EXP_BUSY = false → ∃ t,
        exec (.pcExport w frz) s = .next t ∧ t.is PC_CTRL_EXP_BUSY = true) ∧
    (∀ (a : Fin 8) n u s, s.rd (NY_BG_DL_DL_US a) ≠ 0 → s.islandUp 8 = true → s.bgLate a n = some u → ∃ t, exec (.bgDeadlineMiss a n) s = .next t ∧
        t.is (NY_BG_DL_RAISED a) = true)) ∧
  ((∀ (a : Fin 3) rows s, a ≠ 0 → ∃ t, exec (.scrubSweepEnd a rows) s = .next t ∧ ⟨3 + a.val, 0, s.tm.tick, false⟩ ∈ t.ny.bgUnits) ∧
    (∀ w len s, s.serves w 0x1E1018 4 = true → w.master = 256 → s.is ST_XFER_STAT_BUSY = false → 1 ≤ len.toNat → len.toNat ≤ 4096 →
        s.rd ST_XFER_SRAM_OFF + len.toNat ≤ 0x40000 → ∃ t, exec (.storeRead w len) s = .next t ∧ t.is ST_XFER_STAT_BUSY = true) ∧
    (∀ w len s, s.serves w 0x1E1018 4 = true → w.master = 256 → s.is ST_XFER_STAT_BUSY = false → 1 ≤ len.toNat →
        s.rd ST_XFER_SRAM_OFF + len.toNat ≤ 0x40000 → s.rd ST_XFER_ADDR_ADDR % 256 + len.toNat ≤ 256 → s.stReadOnly = false → ∃ t,
        exec (.storeProgram w len) s = .next t ∧ t.is ST_XFER_STAT_BUSY = true) ∧
    (∀ w s, s.serves w 0x1E1018 4 = true → w.master = 256 → s.is ST_XFER_STAT_BUSY = false → s.stReadOnly = false → ∃ t,
        exec (.storeErase w) s = .next t ∧ t.is ST_XFER_STAT_BUSY = true) ∧
    (∀ w s, s.serves w 0x1E1018 4 = true → w.master = 256 → s.is ST_XFER_STAT_BUSY = false → ∃ t, exec (.storeReadStatus w) s = .next t ∧
        t.is ST_XFER_STAT_BUSY = true) ∧
    (∀ a addr off len since s, s.kw.xfer = some ⟨1, addr, off, len, since⟩ → s.islandUp 8 = true → ∃ t, exec (.storeXferDone a) s = .next t ∧
        t.kw = { s.kw with xfer := none } ∧ t.is ST_XFER_STAT_BUSY = false ∧ t.rd ST_XFER_STAT_RESULT = 0 ∧ t.is ST_EVT_XFER_DONE = true ∧ (∀ i,
        i < len → t.sramRead (off + i) 1 = [a.data.getD i 0]) ∧ (∀ b, b < off ∨ off + len ≤ b → t.sramRead b 1 = s.sramRead b 1)) ∧
    (∀ w kind s, s.serves w 0x1E103C 4 = true → s.is ST_UPD_STAT_BUSY = false → ∃ t, exec (.updateGo w kind) s = .next t ∧
        t.is ST_UPD_STAT_BUSY = true) ∧
    (∀ w v seq s,
      let bar := bits v.toNat 0 4 = 0 ∧ s.updBarred = true
      let st : Nat × Nat := if s.is KW_STAT_HASP_OPENED then (1, 5) else if bar then (1, 4) else (bits v.toNat 0 4, bits v.toNat 8 3)
      s.serves w 0x1E1048 4 = true → w.master = 256 → ∃ t, exec (.updateResult w v seq) s = .next t ∧ t.kw = { s.kw with mailbox := false } ∧
        t.rd ST_UPD_STAT_STATUS = st.1 ∧ t.rd ST_UPD_STAT_DETAIL = st.2 ∧ t.rd ST_UPD_STAT_BANK = bitN v.toNat 12 ∧ t.is ST_UPD_STAT_BUSY = false ∧
        t.is ST_EVT_UPD_DONE = true ∧ t.rd ST_UPD_SEQ_SEQ = (if st.1 = 0 then seq.toNat else s.rd ST_UPD_SEQ_SEQ) ∧ (s.rd ST_UPD_CMD_KIND ≠ 2 →
        Kept [ST_UPD_SEQ_SEQ, ST_UPD_STAT_STATUS, ST_UPD_STAT_DETAIL, ST_UPD_STAT_BANK, ST_UPD_STAT_BUSY, ST_EVT_UPD_DONE] s.settleBeats t)) ∧
    (∀ w s, s.serves w 0x1E2008 4 = true → w.master = 256 → s.kwStartErr = 0 → ∃ t, exec (.kwStart w) s = .next t ∧ t.kw =
        { s.kw with op := some ⟨s.slotKey (s.rd KW_CFG_SLOT), s.is KW_CFG_DIR, s.rd KW_CFG_PAD, s.rd KW_LEN_LEN, (s.rd KW_LEN_LEN + 15) / 16⟩ }) ∧
    (∀ w s, s.serves w 0x1E2008 4 = true → w.master = 256 → ∃ t, exec (.kwAbort w) s = .next t ∧ t.kw = { s.kw with op := none }) ∧
    (∀ w v s, s.serves w 0x1E2010 4 = true → w.master = 256 → s.kw.din.length < 8 → ∃ t, exec (.kwDinWrite w v) s = .next t ∧
        t.kw = { s.kw with din := s.kw.din ++ [v.toNat] }) ∧
    (∀ w s x l, s.serves w 0x1E2014 4 = true → s.kw.dout = x :: l → ∃ t, exec (.kwDoutRead w) s = .next t ∧ t.kw = { s.kw with dout := l }) ∧
    (∀ w (n : Fin 8) wide s, s.serves w 0x1E2060 4 = true → w.master = 256 → n.val ≠ 0 → s.haspBars = false → s.is KW_STAT_BUSY = false →
        s.bit KW_KEY_STAT_LOCKED n = false → ∃ t, exec (.keyWrite w n wide) s = .next t ∧ mapGet (fun _ => 0) t.kw.keys n = s.keyData (if wide then
        8 else 4)) ∧
    (∀ w (n : Fin 8) s, s.serves w 0x1E2060 4 = true → w.master = 256 → n.val ≠ 0 → s.haspBars = false → s.is KW_STAT_BUSY = false →
        s.bit KW_KEY_STAT_LOCKED n = false → ∃ t, exec (.keyZero w n) s = .next t ∧ mapGet (fun _ => 0) t.kw.keys n = 0) ∧
    (∀ w (n : Fin 8) s, s.serves w 0x1E2060 4 = true → w.master = 256 → n.val ≠ 0 → s.haspBars = false → ∃ t, exec (.keyLock w n) s = .next t ∧
        t.bit KW_KEY_STAT_LOCKED n = true) ∧
    (∀ w s, s.serves w 0x1E20A0 4 = true → w.master = 256 → s.rd SYS_STATE_MODE = 2 → s.kw.fuseLock = false → s.haspBars = false →
        s.is KW_FUSE_CTRL_PROG_BUSY = false → ∃ t, exec (.fuseProg w) s = .next t ∧ t.is KW_FUSE_CTRL_PROG_BUSY = true)) ∧
  ((∀ w v s, s.serves w 0x1F0000 4 = true → s.rd PW_STAT_PHASE = 0 → s.pwState = pwP1 → s.throttled = false → ∃ t,
        exec (.requestA0 w v) s = .next t ∧ t.pw = { s.pw with req := 0, step := 31, since := s.tm.tick }) ∧
    (∀ w v s, s.serves w 0x1F0000 4 = true → s.rd PW_STAT_PHASE = 0 → s.pwState = pwA0 → ∃ t, exec (.requestP1 w v) s = .next t ∧
        t.pw = { s.pw with step := 21, target := pwP1 }) ∧
    (∀ w v s,
      let p := bits v.toNat 8 2
      s.serves w 0x1F0000 4 = true → s.rd PW_STAT_PHASE = 0 → s.pwState = pwA0 → s.pwQuiet pwW = true → s.portOn p = true → s.tMode p = false →
        (∃ k < 8, s.is (LN_CHAN_CFG_EN (8 * p + k)) = true) → ∃ t, exec (.requestW w v) s = .next t ∧
        t.pw = { s.pw with step := 2, target := pwW, held := false }) ∧
    (∀ w v s, s.serves w 0x1F0000 4 = true → s.rd PW_STAT_PHASE = 0 → s.pwState = pwA0 → s.pwQuiet pwS = true → ∃ t,
        exec (.requestS w v) s = .next t ∧ t.pw = { s.pw with step := 2, target := pwS, held := false }) ∧
    (∀ w v s, s.serves w 0x1F0000 4 = true → s.rd PW_STAT_PHASE = 0 → s.pwState = pwA0 → s.pwQuiet pwD = true → ∃ t,
        exec (.requestD w v) s = .next t ∧ t.pw = { s.pw with step := 2, target := pwD, held := false }) ∧
    (∀ (b : Fin 5) s, s.pw.step = 0 → 2 ≤ s.pwState → wakeActs b s.pwState = true → s.wakeEnabled b = true → (if b.val = 0 then
        s.sys.pwRet = true else s.wakeCond b = true) → ∃ t, exec (.wakeSource b) s = .next t ∧ t.bit PW_WAKE_SRC_SRC b = true) ∧
    (∀ b s, s.pw.step = 12 ∨ s.pw.step = 13 → s.pw.target ≠ pwD → ∃ t, exec (.exitPowerRestored b) s = .next t ∧ t.pw = { s.pw with step := 14 }) ∧
    (∀ w v mid s, s.serves w 0x1F1000 4 = true → w.master = 256 →
      let a := bits v.toNat 4 12
      let force := bitN v.toNat 16 == 1
      ∀ p ∈ [(Instr.svEvacuate w v mid, 1, 2), (.svReturn w v, 2, 2), (.sliceTest w v, 8, 1)], s.svRefusal p.2.1 a force = none → (p.2.1 = 1 →
        force = false) → ∃ t, exec p.1 s = .next t ∧
        t.sv = { s.sv with op := p.2.1, arg := a, force := force, step := p.2.2, since := s.tm.tick, spoilt := false }) ∧
    (∀ w v s, s.serves w 0x1F1000 4 = true → w.master = 256 →
      let a := bits v.toNat 4 12
      let force := bitN v.toNat 16 == 1
      ∀ p ∈ [(Instr.fabSpare w v, 3, a), (.fabRestore w v, 4, 8)], s.svRefusal p.2.1 a force = none → ∃ t, exec p.1 s = .next t ∧
        t.sv = { s.sv with op := p.2.1, arg := a, force := force, step := 1, since := s.tm.tick, spoilt := false }) ∧
    (∀ w v s, s.serves w 0x1F1000 4 = true → w.master = 256 →
      let a := bits v.toNat 4 12
      let force := bitN v.toNat 16 == 1
      ∀ p ∈ [(Instr.tblSpare w v, 5), (.tblRestore w v, 6)], s.svRefusal p.2 a force = none → p.2 = 6 ∨ force = false → 0 < s.copyTotal a →
        s.bucketServed (s.copyBucket a 0) = true → ∃ t, exec p.1 s = .next t ∧ t.sv.op = p.2 ∧ t.sv.arg = a ∧ t.sv.step = 1) ∧
    (∀ w v s, s.serves w 0x1F1000 4 = true → w.master = 256 →
      let a := bits v.toNat 4 12
      let force := bitN v.toNat 16 == 1
      s.svRefusal 7 a force = none → ∃ t, exec (.rowRepair w v) s = .next t ∧ t.sv = { s.sv with row := some a }) ∧
    (∀ w v s, s.serves w 0x1F1000 4 = true → w.master = 256 → s.svAbortable = true → ∃ t, exec (.svAbort w v) s = .next t ∧ t.sv.op = 0) ∧
    (∀ (p : Fin 4) s, s.sliceOf p = some p.val → s.islandRuns p = true → s.islandRuns 8 = true → mapWf fieldReset s.flds = true → ∃ t,
        exec (.svCheckpoint p false) s = .next t ∧ (∀ k, portStat p k = true → fieldReset k = 0 →
        mapGet (fun _ => 0) t.sv.ckpt k = mapGet fieldReset s.flds k) ∧ (∀ k, portStat p k = false →
        mapGet (fun _ => 0) t.sv.ckpt k = mapGet (fun _ => 0) s.sv.ckpt k)) ∧
    (∀ s, s.evacAt 7 = true → s.islandRuns s.evacTo = true → ∃ t, exec (.evacLockstepCompare true) s = .next t ∧ t.sv.op = 0 ∧
        t.is SV_INUSE_SLICE4 = (s.sv.op == opEVACUATE))) ∧
  ((∀ ok s, s.sv.op = opSLICE_TEST → ∃ t, exec (.sliceTestDone ok) s = .next t ∧ t.sv.op = 0 ∧ (if ok = true ∧ s.islandRuns s.sv.arg = true ∧
        s.sv.spoilt = false then t.rd SV_STAT_RESULT = sOK ∧ (s.sv.arg < 5 → t.sv.tested.getLsbD s.sv.arg = true ∧
        t.sys.sliceOut.getLsbD s.sv.arg = false) else t.rd SV_STAT_RESULT = sFAULT ∧ t.sv.tested.getLsbD s.sv.arg = false)) ∧
    (∀ (stopped : Bool) s, s.is KW_HASP_GNT = true → ∃ t, exec (.coreDebugHalt stopped) s = .next t ∧ t.is NY_STAT_HALTED = stopped) ∧
    (∀ s, ∃ t, exec (.scrubUncorrectableWord none) s = .next t ∧ t.rd SV_SCRUB_UNC = upBy s SV_SCRUB_UNC 1 ∧ Kept [SV_SCRUB_UNC] s t) ∧
    (∀ s, ∃ t, exec .aonRstNFall s = .next t ∧ t.start = stRESET) ∧
    (∀ s, ∃ t, exec .blkRstNFall s = .next t ∧ t.start = stRESET) ∧
    (∀ s, ∃ t, exec .pwGoodFall s = .next t ∧ t.start = stRESET) ∧
    (∀ s, s.start = stBOOT → s.islandRuns 8 = true → ∃ t, exec .firmwareRunning s = .next t ∧ t.start = stWAIT_SD ∧ t.fab.up = s.fab.up ||| 1 ∧
        Kept [SYS_STATE_STATE] s t) ∧
    (∀ d u s, s.response .sdRead = some (d, u) → s.start = stLOAD_SD → d.resp = .okay → (s.sdCheck d.data false).1 = 0 → ∃ t,
        exec .sdFetchResponse s = .next t ∧ t.sys.sd = some d.data ∧ t.sys.started = s.sys.started ||| 0x09F#9 ∧ t.sys.bringAt = s.tm.tick) ∧
    (∀ s, s.start = stBRINGUP → s.mainIslands = true → (∀ i : Fin 4, s.sliceUsed i = false ∨ s.islandRuns i = true ∨
        s.sys.sliceOut.getLsbD i = true) → ∃ t, exec .bringupComplete s = .next t ∧ t.start = stREADY) ∧
    (∀ s, s.start = stBRINGUP → s.mainIslands = false → ∃ t, exec .bringupTimeout s = .next t ∧ t.start = stFAILED) ∧
    (∀ s, s.start = stREADY → s.sys.hbRunning = true → s.rd PW_STAT_STATE ≤ 1 → ∃ t, exec .heartbeatMark s = .next t ∧
        t.sys.hbDue = s.sys.hbDue + 1600000) ∧
    (∀ s, s.sys.hbDeferred = true → s.hbCan = true → ∃ t, exec .heartbeatDeferredWrite s = .next t ∧ t.sys.hbDeferred = false) ∧
    (∀ d u s, s.response .heartbeat = some (d, u) → ∃ t, exec .heartbeatWriteResponse s = .next t ∧ t.sys = { s.sys with hbOutstanding := false }) ∧
    (∀ s, s.coreUp = true → ∃ t, exec .secondBoundary s = .next t ∧ t.is GP_EVT_SEC = true ∧ t.tm.secDone = secOf t.tm.now ∧ (∀ j : Fin 32,
        t.rd (GP_SEC_BIP_BIP j) = min (s.fr j).bip (2 ^ 32 - 1) ∧ t.rd (GP_SEC_HCRC_HCRC j) = min (s.fr j).hcrc (2 ^ 32 - 1) ∧ (t.fr j).bip = 0 ∧
        (t.fr j).hcrc = 0))) ∧
  ((∀ d rest l e f s, s.islandRuns 7 = true →
        takeFirst (fun d => d.kind == .tblLookup || d.kind == .tblUpdRead || d.kind == .tblCopyRead) s.fab.done = some (d, rest) →
        d.kind = .tblLookup → d.resp = .okay → s.tbl.stale.contains (d.a, d.b) = false → whole (entsOf d.data) = true → s.cline d.b = none →
        s.lookup d.a = some l → l.result = none → l.bucket = d.b → matchIn (entsOf d.data) l.type l.sig (b2n l.second) = some e →
        s.rxf d.a = some f → ∃ t m, exec .tableReadResponse s = .next t ∧ t.fab.done = rest ∧ t.lookup d.a = some m ∧
        m.result = some (hitVerdict e.2 f.pcp)) ∧
    (∀ d u f s, s.response .rxData = some (d, u) → s.rxf d.a = some f → 2 ≤ f.left → ∃ t, exec .rxDataWriteResponse s = .next t ∧
        t.rxf d.a = some { f with left := f.left - 1, fault := f.fault || d.resp != .okay }) ∧
    (∀ d r f s, s.coreUp = true → takeFirst (fun d => d.kind == .rxCmpl || d.kind == .txCmpl || d.kind == .event) s.fab.done = some (d, r) →
        d.kind = .rxCmpl → d.resp = .okay → s.rxf d.a = some f → ∃ t, exec .completionWriteResponse s = .next t ∧ t.rxf d.a = none) ∧
    (∀ k s, s.islandRuns 5 = true → s.fetchTurn = some k → ∃ t, exec .descriptorReadIssue s = .next t ∧
        t.q k = { s.q k with fp := ((s.q k).fp + s.readCount k) % 2 ^ ((s.q k).log2 + 1), reading := (s.q k).reading + s.readCount k }) ∧
    (∀ d r s, s.coreUp = true → takeFirst s.descReady s.fab.done = some (d, r) → d.a < 32768 → (s.q d.a).poison = false → d.resp = .okay → ∃ t,
        exec .descriptorReadResponse s = .next t ∧ t.fab.done = r ∧ t.nextFr = s.nextFr + d.b / 65536 ∧
        (t.q d.a).ci = (d.b % 65536 + d.b / 65536) % 2 ^ ((s.q d.a).log2 + 1) ∧ (t.q d.a).reading = (s.q d.a).reading - d.b / 65536) ∧
    (∀ id f s, s.islandRuns 5 = true →
        s.fetchPick [] ((s.txs.filter (fun e => e.2.stage == .accepted)).mergeSort (fun a b => a.2.order ≤ b.2.order)) = some (id, f) → ∃ t,
        exec .dataFetchIssue s = .next t ∧ t.fb.tx = s.fb.tx + cellsOf f.len) ∧
    (∀ d u f s, s.response .dataFetch = some (d, u) → s.txf d.a = some f → f.stage = .fetching → f.left = 1 → f.bad = false → d.resp = .okay → ∃ t,
        exec .dataFetchResponse s = .next t ∧
        t.txf d.a = some { f with left := 0, data := f.data ++ [(d.b, d.data)], stage := .ready, readyAt := s.tm.tick }) ∧
    (∀ s, s.is CL_CTRL_CLEAR_BUSY = true → s.awaits .tblClear = false → s.islandRuns 7 = true → ∃ t, exec .clClearDone s = .next t ∧
        t.is CL_CTRL_CLEAR_BUSY = false) ∧
    (∀ d rest x o s, s.islandRuns 7 = true →
        takeFirst (fun d => d.kind == .tblUpdWrite || d.kind == .tblClear || d.kind == .tblCopyWrite) s.fab.done = some (d, rest) →
        d.kind = .tblUpdWrite → d.resp = .okay → s.cline d.a = some x → s.tbl.ops = [o] → o.decided = true → o.writes = 1 → o.todo = [] → o.op = 1 →
        o.cmd = none → ∃ t, exec .updateWriteResponse s = .next t ∧ t.tbl.ops = [] ∧
        t.cline d.a = some { x with out := x.out - 1, failed := false }) ∧
    (∀ b e l s, s.tbl.ops = [] → s.tbl.stash = (b, e) :: l → s.is CL_CTRL_EN = true → s.islandRuns 7 = true → s.cline b = none →
        s.bucketServed b = true → ∃ t o, exec .stashMigrate s = .next t ∧ t.tbl.ops = [o] ∧ o.op = 0 ∧ o.reading = some b ∧
        t.asks .tblUpdRead 0 b (s.tblOff b) [] 64 = true) ∧
    (∀ s, s.coreUp = true → mapWf (fun _ => {}) s.shaps = true → ∃ t, exec .refillInstant s = .next t ∧ t.tm.refDone = periodOf t.tm.cyc) ∧
    (∀ d u s, s.response .notify = some (d, u) → ∃ t, exec .notifyMessageResponse s = .next t ∧ (if d.resp = .okay then
        t.flds = s.flds else t.rd HR_NT_FAIL_COUNT = upBy s HR_NT_FAIL_COUNT 1 ∧ t.is HR_EVT_NT_FAIL = true ∧
        Kept [HR_NT_FAIL_COUNT, HR_EVT_NT_FAIL] s t)) ∧
    (∀ d u s, s.response .cmdRead = some (d, u) → d.a = 0 → d.resp = .okay → knownOps.contains (byteAt d.data 0) = true → ∃ t,
        exec .commandReadResponse s = .next t ∧ t.ring = { s.ring with reading := false, heads := [d.data] }) ∧
    (∀ d u s, s.response .cmdCmpl = some (d, u) → ∃ t, exec .commandCompletionResponse s = .next t ∧ (if d.resp = .okay then
        t.is HR_EVT_CMD_DONE = true ∧ Kept [HR_EVT_CMD_DONE] s t else t.is HR_CMD_STAT_HALTED = true ∧ t.is HR_EVT_CMD_HALT = true ∧
        Kept [HR_CMD_STAT_HALTED, HR_EVT_CMD_HALT] s t)) ∧
    (∀ e s, s.ring.heads = [e] → s.cmdMayStart e = true → s.islandRuns 5 = true → s.is HR_CMD_CFG_EN = true → ∀ p ∈ [(Instr.cmdNop, 0, []),
        (.ctxCreate, 1, [(8, 0, 7), (9, 0, 7)]), (.ctxDestroy, 2, []), (.ctxReset, 3, [(8, 0, 1)]), (.ctxFreeze, 4, []), (.ctxSave, 5, [(8, 0,
        64)]), (.ctxRestore, 6, [(8, 0, 64)]), (.ctxResume, 7, []), (.dirtyStart, 8, [(8, 0, 64), (0x10, 0, 64), (0x18, 0, 32)]), (.dirtyStop, 9,
        []), (.txqSetup, 0x10, setupMask), (.rxqSetup, 0x11, setupMask), (.qStop, 0x12, [(8, 0, 6), (8, 6, 1)]), (.qRestart, 0x13, [(8, 0, 6), (8,
        6, 1)]), (.qTeardown, 0x14, [(8, 0, 6), (8, 6, 1)]), (.evqSetup, 0x15, [(9, 0, 4), (10, 0, 6), (10, 6, 1), (0x10, 0, 64)]), (.evqTeardown,
        0x16, []), (.vecSet, 0x17, [(8, 0, 6), (8, 6, 1), (9, 0, 8), (10, 0, 16), (12, 0, 32), (0x10, 0, 64)]), (.epInsert, 0x20, [(8, 0, 320),
        (0x30, 0, 28)]), (.epDelete, 0x21, [(8, 0, 320)]), (.epModify, 0x22, [(8, 0, 320), (0x30, 0, 28)]), (.epQuery, 0x23, [(8, 0, 320)]),
        (.shaperSet, 0x30, [(8, 0, 15), (10, 0, 1), (12, 0, 32), (0x10, 0, 24), (0x14, 0, 9), (0x18, 0, 14)])], byteAt e 0 = p.2.1 → p.1 = .cmdNop ∨
        (cmdOf e).formOk p.2.2 = false → ∃ t, exec p.1 s = .next t ∧ t.ring.heads = [] ∧
        t.rd HR_CMD_STAT_CI = nextIdx s.cmdLog2 (s.rd HR_CMD_STAT_CI) % 2 ^ 16 ∧ (∃ r ∈ t.fab.reqs, r.kind = .cmdCmpl ∧
        r.addr = slotAddr s.cmdcBase s.cmdLog2 s.ring.cpi 32 ∧ r.data = cmplEntry (cmdOf e) (if (cmdOf e).formOk p.2.2 then
        sOK else sBADARG) (if (cmdOf e).formOk p.2.2 then 0 else (cmdOf e).refused s) (phase s.cmdLog2 s.ring.cpi)))) ∧
  ((∀ e s, s.ring.heads = [e] → s.cmdMayStart e = true → s.islandRuns 5 = true → s.is HR_CMD_CFG_EN = true →
        s.shaps.all (fun y => y.2.cmd.isNone) = true →
      let c := cmdOf e
      let x := c.ctx
      byteAt e 0 = 1 → c.formOk [(8, 0, 7), (9, 0, 7)] = true → c.f 8 0 7 ≤ 64 → c.f 9 0 7 ≤ 64 → ∀ a, (s.ctx x).state = cFREE →
        (s.ctx x).closing = none → (∀ d ∈ s.ring.active, d.2.op ≠ 6) → s.allocQueues (c.f 8 0 7) (c.f 9 0 7) = some a → ∃ t,
        exec .ctxCreate s = .next t ∧ t.ctx x = { state := cACTIVE, txq := a.1, rxq := a.2, dirty := (s.ctx x).dirty }) ∧
    (∀ e s, s.ring.heads = [e] → s.cmdMayStart e = true → s.islandRuns 5 = true → s.is HR_CMD_CFG_EN = true →
        s.shaps.all (fun y => y.2.cmd.isNone) = true →
      let c := cmdOf e
      let x := c.ctx
      byteAt e 0 = 2 → c.formOk [] = true → x ≠ 0 →
      let ok : Bool := (s.ctx x).state == cACTIVE && (s.ctx x).evr.isNone && (s.ctxQueues x).all (fun k => (s.q k).state == qUNSET)
      ok = true → s.slotsTaken < 64 → s.inFlight x = false → s.awaitsFor .dirtyMark x = false → (s.ctx x).dirty.bind (·.stopCmd) = none → ∃ t,
        exec .ctxDestroy s = .next t ∧ t.ctx x = {} ∧ (∀ k ∈ s.ctxQueues x, t.q k = {})) ∧
    (∀ e s, s.ring.heads = [e] → s.cmdMayStart e = true → s.islandRuns 5 = true → s.is HR_CMD_CFG_EN = true →
        s.shaps.all (fun y => y.2.cmd.isNone) = true →
      let c := cmdOf e
      let x := c.ctx
      byteAt e 0 = 3 → c.formOk [(8, 0, 1)] = true → (s.ctx x).state = cACTIVE ∨ (s.ctx x).state = cFROZEN → ∃ t r, exec .ctxReset s = .next t ∧
        (t.ctx x).state = cRESETTING ∧ (t.ctx x).reset = some r) ∧
    (∀ e s, s.ring.heads = [e] → s.cmdMayStart e = true → s.islandRuns 5 = true → s.is HR_CMD_CFG_EN = true →
        s.shaps.all (fun y => y.2.cmd.isNone) = true →
      let c := cmdOf e
      let x := c.ctx
      byteAt e 0 = 4 → c.formOk [] = true → (s.ctx x).state = cACTIVE → ∃ t, exec .ctxFreeze s = .next t ∧ (t.ctx x).state = cFREEZING) ∧
    (∀ e s, s.ring.heads = [e] → s.cmdMayStart e = true → s.islandRuns 5 = true → s.is HR_CMD_CFG_EN = true → byteAt e 0 = 5 →
      let c := cmdOf e
      c.formOk [(8, 0, 64)] = true → addrOk (c.f 8 0 64) 4096 = true → (s.ctx c.ctx).state = cFROZEN → ∃ t, exec .ctxSave s = .next t ∧
        optGet t.ring.active s.ring.nextId = some c ∧ (∃ r ∈ t.fab.reqs, r.kind = .imageWrite ∧ r.a = s.ring.nextId ∧ r.addr = c.f 8 0 64 ∧
        r.data = s.image c.ctx)) ∧
    (∀ e s, s.ring.heads = [e] → s.cmdMayStart e = true → s.islandRuns 5 = true → s.is HR_CMD_CFG_EN = true → byteAt e 0 = 6 →
      let c := cmdOf e
      c.formOk [(8, 0, 64)] = true → addrOk (c.f 8 0 64) 4096 = true → (s.ctx c.ctx).state = cFREE → (s.ctx c.ctx).closing = none →
        (∀ d ∈ s.ring.active, d.2.op ≠ 6) → ∃ t, exec .ctxRestore s = .next t ∧ optGet t.ring.active s.ring.nextId = some c ∧
        (∃ r ∈ t.fab.reqs, r.kind = .imageRead ∧ r.a = s.ring.nextId ∧ r.b = c.ctx ∧ r.addr = c.f 8 0 64 ∧ r.rlen = 4096)) ∧
    (∀ e s, s.ring.heads = [e] → s.cmdMayStart e = true → s.islandRuns 5 = true → s.is HR_CMD_CFG_EN = true →
        s.shaps.all (fun y => y.2.cmd.isNone) = true →
      let c := cmdOf e
      let x := c.ctx
      byteAt e 0 = 7 → c.formOk [] = true → (s.ctx x).state = cFROZEN → ∃ t, exec .ctxResume s = .next t ∧ (t.ctx x).state = cACTIVE) ∧
    (∀ e s, s.ring.heads = [e] → s.cmdMayStart e = true → s.islandRuns 5 = true → s.is HR_CMD_CFG_EN = true → byteAt e 0 = 8 →
      let c := cmdOf e
      let x := c.ctx
      c.formOk [(8, 0, 64), (0x10, 0, 64), (0x18, 0, 32)] = true → addrOk (c.f 8 0 64) 64 = true → addrOk (c.f 0x10 0 64) 4096 = true →
        c.f 0x18 0 32 ≠ 0 → (s.ctx x).state = cACTIVE ∧ s.rd SYS_STATE_MODE ≠ 0 ∧ s.sys.pendingMode ≠ some 0 ∧ (s.ctx x).dirty = none → ∃ t,
        exec .dirtyStart s = .next t ∧ t.rd (CX_STAT_DIRTY_FAULT x) = 0) ∧
    (∀ e s, s.ring.heads = [e] → s.cmdMayStart e = true → s.islandRuns 5 = true → s.is HR_CMD_CFG_EN = true →
      let c := cmdOf e
      let key := (e.drop 8).take 40
      let out := toeplitz (beNat key 0 40) s.hkey
      ∀ p ∈ [(Instr.epInsert, 1, [(8, 0, 320), (0x30, 0, 28)]), (.epDelete, 2, [(8, 0, 320)]), (.epModify, 3, [(8, 0, 320), (0x30, 0, 28)]),
        (.epQuery, 4, [(8, 0, 320)])], byteAt e 0 = 0x1F + p.2.1 → c.formOk p.2.2 = true →
      let vd := if p.2.1 = 1 ∨ p.2.1 = 3 then c.ctx + 2 ^ 12 * c.f 0x30 0 28 else 0
      s.tbl.ops = [] → 1 ≤ byteAt key 0 → byteAt key 0 ≤ 6 → s.is CL_CTRL_EN = true → s.cline (hashH1 out) = none →
        s.bucketServed (hashH1 out) = true → (p.2.1 = 1 ∨ p.2.1 = 3 → bits vd 33 3 < 3 ∧ (s.ctx (bits vd 0 12)).state ≠ cFREE ∧
        (s.poolQ (bits vd 0 12) (bits vd 12 6) true).isSome = true) → ∃ t o, exec p.1 s = .next t ∧ t.tbl.ops = [o] ∧ o.op = p.2.1) ∧
    (∀ e s, s.ring.heads = [e] → s.cmdMayStart e = true → s.islandRuns 5 = true → s.is HR_CMD_CFG_EN = true →
      let c := cmdOf e
      let id := s.ring.nextId
      ∀ i, byteAt e 0 = 0x30 → c.formOk [(8, 0, 15), (10, 0, 1), (12, 0, 32), (0x10, 0, 24), (0x14, 0, 9), (0x18, 0, 14)] = true →
        c.shaper s = some i → (if c.f 10 0 1 = 1 then c.f 0x14 0 9 = 0 else c.f 0x18 0 14 = 0) → (s.shap i).locked = false → 32768 ≤ i → ∃ t,
        exec .shaperSet s = .next t ∧ optGet t.ring.active id = some c ∧ t.shap i =
        { s.shap i with locked := true, cmd := some id, sRate := c.f 12 0 32, sBurst := c.f 0x10 0 24, sTen := c.f 0x18 0 14, commitAt := s.tm.cyc }) ∧
    (∀ r u d s, s.response .dirtyMark = some (r, u) → (s.ctx r.a).dirty = some d → r.resp ≠ .okay → d.fault = false → d.stopping = false → ∃ t,
        exec .dirtyMarkResponse s = .next t ∧ (t.ctx r.a).dirty = some { d with fault := true } ∧ t.is (CX_STAT_DIRTY_FAULT r.a) = true ∧
        t.is CX_EVT_DIRTY_FAULT = true) ∧
    (∀ s m, s.nextWalk = some m → s.islandUp 8 = true → ∃ t, exec .cycleWalk s = .next t ∧ t.cc.walks = s.cc.walks.filter (· != m) ∧ t.cc.last = m) ∧
    (∀ n s, s.led.nextCut = some n → s.coreUp = true → s.sleepLoad = false → s.is LG_STAT_PENDING = false → s.led.win = none → ∃ t w,
        exec .cutInstant s = .next t ∧ t.is LG_STAT_WINDOW = true ∧ t.led.win = some w ∧ w.inst = n % 2 ^ 48 * secUnits ∧ w.due = s.markersDue ∧
        t.led.old = s.led.live) ∧
    (∀ w s, s.led.win = some w → s.coreUp = true → ∃ t, exec .cutWindowTimeout s = .next t ∧ t.led.win = none ∧ t.is LG_STAT_WINDOW = false ∧
        t.is LG_STAT_PENDING = true ∧ t.rd LG_SEQ_CUT_SEQ = (s.rd LG_SEQ_CUT_SEQ + 1) % 2 ^ 32)) ∧
  ((∀ s, s.recordDue = true → s.islandRuns 5 = true → ∃ t, exec .ledgerRecordWrite s = .next t ∧ t.led = { s.led with issued := s.led.issued + 1 }) ∧
    (∀ d u s, s.response .ledger = some (d, u) → d.a = 0 → d.resp = .okay → ∃ t, exec .ledgerRecordResponse s = .next t ∧
        t.rd LG_PI_PI = nextIdx s.lgLog2 (s.rd LG_PI_PI) % 2 ^ 16 ∧ t.led.done = d.b + 1) ∧
    (∀ p s, s.coreUp = true → s.tm.step = some p → p.due ≤ s.tm.cyc + s.cyclesToMultiple 1024 → ∃ t, exec .realignmentBoundary s = .next t ∧
        t.tm.step = none ∧ t.is TM_EVT_STEP = true) ∧
    (∀ s, s.coreUp = true → s.timeRef ≠ 0 → s.edgeAccepted s.edgeValue = true → ∃ t, exec .ppsEdge s = .next t ∧ t.tm.lastEdge = s.edgeValue ∧
        t.tm.now = s.tm.now ∧ t.rd TM_PPS_CAP_NS_NS = nsOf s.edgeValue) ∧
    (∀ s, s.coreUp = true → s.timeRef ≠ 0 → s.is TM_CTRL_PPS_EN = true → ∃ t, exec .ppsLossTimeout s = .next t ∧ t.is TM_STAT_PPS_HOLD = true ∧
        t.is TM_EVT_PPS_LOSS = true) ∧
    (∀ s, s.mtip = false → s.sys.aonRstN = true → s.rd PW_STAT_STATE ≠ 4 → s.tm.sub25 < 64 → s.rd64 NY_MTIMECMP_LO_CMP NY_MTIMECMP_HI_CMP < 2 ^ 64 →
        ∃ t, exec .machineTimer s = .next t ∧ t.mtip = true) ∧
    (∀ p l s, s.ny.hwq = p :: l → s.rd PW_STAT_STATE ≠ 4 → s.sys.aonRstN = true → ∃ t, exec .logStore s = .next t ∧ t.ny.hwq = l) ∧
    (∀ d u s, s.response .pcExport = some (d, u) → s.ny.expLeft = 1 → ∃ t, exec .pcExportResponse s = .next t ∧ t.ny.expLeft = 0) ∧
    (∀ o s, s.islandUp 8 = true → s.kw.op = some o → 16 ≤ o.left → 1 < o.blocks → 4 ≤ s.kw.din.length → s.kw.dout.length ≤ 4 → ∃ t,
        exec .keywardBlockDone s = .next t ∧ t.kw.din = s.kw.din.drop 4 ∧
        t.kw.dout = s.kw.dout ++ (List.range 4).map (fun i => leNat (kwBlock o (((s.kw.din.take 4).map (leBytes 4)).flatten.take 16)) (4 * i) 4) ∧
        t.kw.op = some { o with left := o.left - 16, blocks := o.blocks - 1 } ∧ t.kw.keys = s.kw.keys) ∧
    (∀ s, s.islandUp 8 = true → ∃ t, exec .rngFail s = .next t ∧ t.kw.op = none) ∧
    (∀ s, s.is KW_FUSE_CTRL_PROG_BUSY = true → s.islandUp 8 = true → ∃ t, exec .fuseProgDone s = .next t ∧
        t.kw = { s.kw with fuses := s.kw.fuseNew, fuseLock := true }) ∧
    (∀ s, s.islandUp 8 = true → ∃ t, exec .haspReqRise s = .next t ∧ t.kw.keys = []) ∧
    (∀ s, s.kw.haspServe = true → s.kw.haspPin = true → s.zeroised = true → s.islandUp 8 = true → s.rd PW_STAT_STATE ≤ 1 → ∃ t,
        exec .haspGrant s = .next t ∧ t.kw = { s.kw with haspServe := false }) ∧
    (∀ s, s.islandUp 8 = true → ∃ t, exec .haspReqFall s = .next t ∧ t.kw = { s.kw with haspPin := false, haspServe := false })) ∧
  ((∀ s, s.pw.step = 2 → (∀ r ∈ s.fab.reqs, r.tag = none) → ∃ t, exec .entryRequestsDrained s = .next t ∧ t.pw.step = 5) ∧
    (∀ s, s.pw.step = 5 → ∃ t, exec .entryTickLatch s = .next t ∧ t.pw.step = 7) ∧
    (∀ s, s.pw.step = 7 → s.pw.held = false → s.pw.target ≤ 4 → ∃ t, exec .pwAckRise s = .next t ∧ t.pwState = s.pw.target ∧
        t.rd PW_STAT_PHASE = 0 ∧ t.pw = { s.pw with step := 0 } ∧ t.is PW_EVT_ENTERED = true ∧
        Kept [PW_STAT_STATE, PW_STAT_PHASE, PW_STAT_A1_ON, PW_EVT_ENTERED] s t) ∧
    (∀ s, s.pw.step = 7 ∨ s.pw.step = 22 → ∃ t, exec .pwAckTimeout s = .next t ∧ t.is PW_EVT_ACK_TMO = true) ∧
    (∀ s, s.sys.aonRstN = true → s.aon ≤ s.rd64 PW_TIMER_LO_COUNT PW_TIMER_HI_COUNT % 2 ^ 48 → s.tm.sub32 < 1600000000 → s.pw.step = 0 →
        (s.pwState = pwW ∨ s.pwState = pwS ∨ s.pwState = pwD) → s.bit PW_WAKE_EN_EN 3 = true → ∃ t, exec .wakeTimer s = .next t ∧
        t.bit PW_WAKE_SRC_SRC 3 = true ∧ t.is PW_EVT_WAKE = true ∧ t.pw.step = 12 ∧ t.aon = s.rd64 PW_TIMER_LO_COUNT PW_TIMER_HI_COUNT % 2 ^ 48) ∧
    (∀ s, s.pw.step = 14 → s.exitReady = true → s.pw.park = false → ∃ t, exec .exitClocksOk s = .next t ∧ t.pwState = pwA0) ∧
    (∀ s, s.pw.step = 21 → (∀ e ∈ s.chs, e.2.line = .idle) → (∀ e ∈ s.rxs, e.2.stage ≠ .slice ∧ e.2.stage ≠ .released) → ∃ t,
        exec .p1EntryDrained s = .next t ∧ t.pw.step = 22) ∧
    (∀ s, ∃ t, exec .brownOut s = .next t ∧ t.start = stRESET) ∧
    (∀ s, s.evacAt 2 = true → s.sv.force = true → s.sv.op = opEVACUATE → ∃ t, exec .evacCopyDone s = .next t ∧ t.sv.op = 0 ∧
        t.rd SV_STAT_RESULT = sOK) ∧
    (∀ s, s.evacAt 3 = true → s.portAligned s.sv.arg = true → s.islandRuns s.evacTo = true → ∃ t, exec .evacRxReady s = .next t ∧
        t.sv = { s.sv with step := 5, since := t.tm.tick }) ∧
    (∀ s, s.evacAt 5 = true → s.islandRuns s.evacTo = true → ∃ t, exec .evacRxSwitch s = .next t ∧
        t.sv = { s.sv with step := 6, since := t.tm.tick, held := 1#4 <<< s.sv.arg, rxAt := t.tm.tick }) ∧
    (∀ s, s.evacAt 6 = true → s.portStaged s.sv.arg = false →
        exec .evacDrainDone s = .next { s with sv := { s.sv with step := 7, since := s.tm.tick } }) ∧
    (∀ s, s.evacAt 6 = true → ∃ t, exec .evacDrainTimeout s = .next t ∧ t.sv = { s.sv with step := t.sv.step, since := t.sv.since } ∧
        (if t.portStaged s.sv.arg then t.sv.step = 6 else t.sv.step = 7)) ∧
    (∀ s, s.sv.op = opFAB_SPARE → s.fab.reqs.all (fun r => r.x != s.sv.arg || r.tag.isNone) = true → ∃ t, exec .fabSpareSwitch s = .next t ∧
        t.sv.op = 0 ∧ t.is SV_INUSE_FAB = true ∧ t.rd SV_INUSE_FAB_FOR = s.sv.arg % 2 ^ SV_INUSE_FAB_FOR.w) ∧
    (∀ s, s.sv.op = opTBL_SPARE → s.sv.arg < 6 → s.sv.step = 2 ∨ s.rd SV_COPY_BUCKETS = s.copyTotal s.sv.arg →
        s.fab.reqs.all (fun r => r.x != 9 + s.sv.arg || r.tag.isNone) = true → ∃ t, exec .tblSpareSwitch s = .next t ∧ t.sv.op = 0 ∧
        t.is SV_INUSE_TBL = true ∧ t.rd SV_INUSE_TBL_FOR = s.sv.arg) ∧
    (∀ r s, s.sv.row = some r → ∃ t, exec .rowRepairSwitch s = .next t ∧ t.sv = { s.sv with row := none } ∧
        t.rd (SV_ROW_STAT_FOR (r / 32)) = r % 32 ∧ t.is (SV_ROW_STAT_USED (r / 32)) = true)) ∧
  ((∀ s, s.islandUp 8 = true → ∃ t, exec .rngOkReturn s = .next t ∧ t.is KW_STAT_RNG_OK = true) ∧
    (∀ s, ∃ t, exec .powerRemoved s = .next t ∧ t.start = stRESET) ∧
    (∀ s, ∃ t, exec .pwIsoRise s = .next t ∧ t.sys.pwIso = true)) ∧
  (let ends (s t : State) (id : Nat) (c : CmdSt) (st res : Nat) : Prop := ∃ r ∈ t.fab.reqs, r.kind = .cmdCmpl ∧ r.a = id ∧
      r.addr = slotAddr s.cmdcBase s.cmdLog2 s.ring.cpi 32 ∧ r.data = cmplEntry c st res (phase s.cmdLog2 s.ring.cpi)
   (∀ e s, s.ring.heads = [e] → s.cmdMayStart e = true → s.islandRuns 5 = true → s.is HR_CMD_CFG_EN = true → byteAt e 0 = 9 →
     let c := cmdOf e
     let x := c.ctx
     c.formOk [] = true → ∀ d, (s.ctx x).dirty = some d → d.stopping = false → s.awaitsFor .dirtyMark x = false → ∃ t, exec .dirtyStop s = .next t ∧
       t.ctx x = { s.ctx x with dirty := none } ∧ ends s t s.ring.nextId c (if d.fault then sFAULT else sOK) 0) ∧
   (∀ e s, s.ring.heads = [e] → s.cmdMayStart e = true → s.islandRuns 5 = true → s.is HR_CMD_CFG_EN = true →
     let c := cmdOf e
     let x := c.ctx
     let id := s.ring.nextId
     ∀ p ∈ [(Instr.txqSetup, 0x10, false), (.rxqSetup, 0x11, true)], byteAt e 0 = p.2.1 → c.formOk setupMask = true → setupForm p.2.2 c s = true →
       ∀ k, s.poolQ x (c.f 8 0 6) p.2.2 = some k → ∃ t, exec p.1 s = .next t ∧ (if (s.ctx x).state = cACTIVE ∧ (s.q k).state = qUNSET then
       ends s t id c sOK 0 ∧ t.q k =
       { owned := true, ctx := (s.q k).ctx, qidx := (s.q k).qidx, chan := (s.q k).chan, cls := (s.q k).cls, state := qRUN, ring := c.f 0x10 0 64, cmpl := c.f 0x18 0 64, log2 := c.f 9 0 4, vector := c.f 10 0 6, notify := (c.f 10 6 1 == 1), prefetch := c.f 11 0 7 }
       else t.qs = s.qs ∧ ends s t id c sSTATE 0)) ∧
   (∀ e s, s.ring.heads = [e] → s.cmdMayStart e = true → s.islandRuns 5 = true → s.is HR_CMD_CFG_EN = true →
     let c := cmdOf e
     let x := c.ctx
     let id := s.ring.nextId
     ∀ k, c.formOk [(8, 0, 6), (8, 6, 1)] = true → c.queue s = some k → byteAt e 0 = 0x12 → ∃ t, exec .qStop s = .next t ∧
       (if (s.ctx x).state = cACTIVE ∧ (s.q k).state = qRUN then t.q k = { s.q k with state := qSTOPPING, faulted := false, stopCmd := some id } ∧
       optGet t.ring.active id = some c else t.qs = s.qs ∧ ends s t id c sSTATE (s.q k).ci)) ∧
   (∀ e s, s.ring.heads = [e] → s.cmdMayStart e = true → s.islandRuns 5 = true → s.is HR_CMD_CFG_EN = true →
     let c := cmdOf e
     let x := c.ctx
     let id := s.ring.nextId
     ∀ k, c.formOk [(8, 0, 6), (8, 6, 1)] = true → c.queue s = some k → byteAt e 0 = 0x13 → ∃ t, exec .qRestart s = .next t ∧
       (if (s.ctx x).state = cACTIVE ∧ (s.q k).state = qSTOPPED then
       t.q k = { s.q k with state := qRUN, pi := 0, ci := 0, fp := 0, cpi := 0, bufs := [], noRx := false } ∧ ends s t id c sOK 0 else t.qs = s.qs ∧
       ends s t id c sSTATE 0)) ∧
   (∀ e s, s.ring.heads = [e] → s.cmdMayStart e = true → s.islandRuns 5 = true → s.is HR_CMD_CFG_EN = true →
     let c := cmdOf e
     let id := s.ring.nextId
     ∀ k, c.formOk [(8, 0, 6), (8, 6, 1)] = true → c.queue s = some k → byteAt e 0 = 0x14 → ∃ t, exec .qTeardown s = .next t ∧
       (if (s.q k).state = qSTOPPED then
       t.q k = { owned := true, ctx := (s.q k).ctx, qidx := (s.q k).qidx, chan := (s.q k).chan, cls := (s.q k).cls } ∧
       ends s t id c sOK 0 else t.qs = s.qs ∧ ends s t id c sSTATE 0)) ∧
   (∀ e s, s.ring.heads = [e] → s.cmdMayStart e = true → s.islandRuns 5 = true → s.is HR_CMD_CFG_EN = true →
     let c := cmdOf e
     let x := c.ctx
     let id := s.ring.nextId
     byteAt e 0 = 0x15 → c.formOk [(9, 0, 4), (10, 0, 6), (10, 6, 1), (0x10, 0, 64)] = true → 6 ≤ c.f 9 0 4 → addrOk (c.f 0x10 0 64) 64 = true →
       ∃ t, exec .evqSetup s = .next t ∧ (if (s.ctx x).state = cACTIVE ∧ (s.ctx x).evr = none then
       t.ctx x = { s.ctx x with evr := some ⟨c.f 0x10 0 64, c.f 9 0 4, 0, 0, c.f 10 0 6, c.f 10 6 1 == 1⟩ } ∧
       ends s t id c sOK 0 else t.ctxs = s.ctxs ∧ ends s t id c sSTATE 0)) ∧
   (∀ e s, s.ring.heads = [e] → s.cmdMayStart e = true → s.islandRuns 5 = true → s.is HR_CMD_CFG_EN = true →
     let c := cmdOf e
     let x := c.ctx
     let id := s.ring.nextId
     byteAt e 0 = 0x16 → c.formOk [] = true → ∃ t, exec .evqTeardown s = .next t ∧ (if (s.ctx x).evr = none then t.ctxs = s.ctxs ∧
       ends s t id c sSTATE 0 else t.ctx x = { s.ctx x with evr := none } ∧ ends s t id c sOK 0)) ∧
   (∀ e s, s.ring.heads = [e] → s.cmdMayStart e = true → s.islandRuns 5 = true → s.is HR_CMD_CFG_EN = true →
     let c := cmdOf e
     let x := c.ctx
     let id := s.ring.nextId
     byteAt e 0 = 0x17 → c.formOk [(8, 0, 6), (8, 6, 1), (9, 0, 8), (10, 0, 16), (12, 0, 32), (0x10, 0, 64)] = true →
       addrOk (c.f 0x10 0 64) 4 = true → ∃ t, exec .vecSet s = .next t ∧ (if (s.ctx x).state = cACTIVE ∨ (s.ctx x).state = cFROZEN then t.vec x (c.f
       8 0 6) = ⟨c.f 8 6 1 == 1, c.f 9 0 8, c.f 10 0 16, c.f 12 0 32, c.f 0x10 0 64, (t.vec x (c.f 8 0 6)).un, (t.vec x (c.f 8 0 6)).msg⟩ ∧
       ((t.vec x (c.f 8 0 6)).un = [] ∨ (t.vec x (c.f 8 0 6)).un = (s.vec x (c.f 8 0 6)).un) ∧ (∀ v, v ≠ c.f 8 0 6 → t.vec x v = s.vec x v) ∧
       ends s t id c sOK 0 else t.ctxs = s.ctxs ∧ ends s t id c sSTATE 0)) ∧
   (∀ d u c s, s.response .imageWrite = some (d, u) → optGet s.ring.active d.a = some c → s.is HR_CMD_CFG_EN = true → ∃ t,
       exec .imageWriteResponse s = .next t ∧ ends s t d.a c (if d.resp = .okay then sOK else faultOf d.resp) 0) ∧
   (∀ d u c s, s.response .imageRead = some (d, u) → d.resp = .okay → imageBad d.data = none → optGet s.ring.active d.a = some c →
       s.is HR_CMD_CFG_EN = true → s.shaps.all (fun y => y.2.cmd.isNone) = true →
     let n := leNat d.data 0x00C 4
     ∀ a, s.allocQueues (bits n 0 7) (bits n 8 7) = some a → ∃ t, exec .imageReadResponse s = .next t ∧ (t.ctx d.b).state = cFROZEN ∧
       t.is CX_EVT_FROZEN = true ∧ (t.ctx d.b).txq = a.1 ∧ (t.ctx d.b).rxq = a.2 ∧ (t.ctx d.b).owner = leNat d.data 0x010 4 ∧ ends s t d.a c sOK 0))
end

