-- ==== Sys2Proof/Laws/Map.lean ====
section
/-! SUPPORT. Laws of sparse data: a look-up after a write, and that every write keeps the canonical form. -/

namespace Sys2Proof.Laws

open Sys2Proof.Machine

variable {α : Type}

/-- Keys of a map rise strictly. -/
def Rising (m : SMap α) : Prop := (m.map Prod.fst).Pairwise (· < ·)

theorem mapGet_erase_same (d : Nat → α) (m : SMap α) (k : Nat) : mapGet d (mapErase k m) k = d k := by
  induction m with
  | nil => rfl
  | cons e m ih =>
    by_cases h : e.1 = k
    · simpa [mapErase, h] using ih
    · simpa [mapErase, h, mapGet] using ih

theorem mapGet_erase_other (d : Nat → α) (m : SMap α) {k j : Nat} (hne : j ≠ k) :
    mapGet d (mapErase k m) j = mapGet d m j := by
  induction m with
  | nil => rfl
  | cons e m ih =>
    by_cases h : e.1 = k
    · simp [mapErase, h, mapGet, ih, Ne.symm hne]
    · by_cases hj : e.1 = j
      · subst hj; simp [mapErase, h, mapGet]
      · simp [mapErase, h, mapGet, hj, ih]

theorem mapGet_insert (d : Nat → α) (m : SMap α) (k j : Nat) (v : α) (hm : ∀ e ∈ m, e.1 ≠ k) :
    mapGet d (mapInsert k v m) j = if j = k then v else mapGet d m j := by
  induction m with
  | nil =>
    by_cases h : j = k
    · simp [mapInsert, mapGet, h]
    · simp [mapInsert, mapGet, h, Ne.symm h]
  | cons e m ih =>
    have hme : ∀ x ∈ m, x.1 ≠ k := fun x hx => hm x (List.mem_cons_of_mem _ hx)
    have hek : e.1 ≠ k := hm e List.mem_cons_self
    by_cases hlt : k < e.1
    · by_cases h : j = k
      · simp [mapInsert, hlt, mapGet, h]
      · simp [mapInsert, hlt, mapGet, h, Ne.symm h]
    · by_cases hej : e.1 = j
      · subst hej; simp [mapInsert, hlt, mapGet, hek]
      · simp [mapInsert, hlt, mapGet, hej, ih hme]

theorem mem_erase_ne (m : SMap α) (k : Nat) : ∀ e ∈ mapErase k m, e.1 ≠ k ∧ e ∈ m := by
  induction m with
  | nil => simp [mapErase]
  | cons x m ih =>
    intro e he
    by_cases h : x.1 = k
    · simp only [mapErase, h, if_true] at he
      exact ⟨(ih e he).1, List.mem_cons_of_mem _ (ih e he).2⟩
    · simp only [mapErase, h, if_false, List.mem_cons] at he
      rcases he with rfl | he
      · exact ⟨h, List.mem_cons_self⟩
      · exact ⟨(ih e he).1, List.mem_cons_of_mem _ (ih e he).2⟩

/-- A look-up after a write of one key. -/
theorem mapGet_set [DecidableEq α] (d : Nat → α) (m : SMap α) (k j : Nat) (v : α) :
    mapGet d (mapSet d m k v) j = if j = k then v else mapGet d m j := by
  unfold mapSet
  by_cases hv : v = d k
  · by_cases h : j = k
    · subst h; simp [hv, mapGet_erase_same]
    · simp [hv, h, mapGet_erase_other d m h]
  · rw [if_neg hv, mapGet_insert d _ k j v (fun e he => (mem_erase_ne m k e he).1)]
    by_cases h : j = k
    · simp [h]
    · simp [h, mapGet_erase_other d m h]

theorem rising_erase {m : SMap α} (k : Nat) (h : Rising m) : Rising (mapErase k m) := by
  induction m with
  | nil => exact h
  | cons x m ih =>
    simp only [Rising, List.map_cons, List.pairwise_cons] at h
    by_cases hx : x.1 = k
    · simpa [mapErase, hx] using ih h.2
    · simp only [mapErase, hx, if_false, Rising, List.map_cons, List.pairwise_cons]
      refine ⟨fun a ha => ?_, ih h.2⟩
      obtain ⟨e, he, rfl⟩ := List.mem_map.1 ha
      exact h.1 e.1 (List.mem_map.2 ⟨e, (mem_erase_ne m k e he).2, rfl⟩)

theorem mem_insert {m : SMap α} {k : Nat} {v : α} {e : Nat × α} (h : e ∈ mapInsert k v m) : e = (k, v) ∨ e ∈ m := by
  induction m with
  | nil => simpa [mapInsert] using h
  | cons x m ih =>
    by_cases hlt : k < x.1
    · simp only [mapInsert, hlt, if_true, List.mem_cons] at h
      rcases h with h | h | h <;> simp [h]
    · simp only [mapInsert, hlt, if_false, List.mem_cons] at h
      rcases h with h | h
      · simp [h]
      · rcases ih h with h | h <;> simp [h]

theorem rising_insert {m : SMap α} {k : Nat} (v : α) (h : Rising m) (hm : ∀ e ∈ m, e.1 ≠ k) :
    Rising (mapInsert k v m) := by
  induction m with
  | nil => simp [mapInsert, Rising]
  | cons x m ih =>
    have h' := h
    simp only [Rising, List.map_cons, List.pairwise_cons] at h
    have hx : x.1 ≠ k := hm x List.mem_cons_self
    by_cases hlt : k < x.1
    · simp only [mapInsert, hlt, if_true, Rising, List.map_cons, List.pairwise_cons]
      refine ⟨fun a ha => ?_, h⟩
      rcases List.mem_cons.1 ha with rfl | ha
      · exact hlt
      · exact lt_trans hlt (h.1 a ha)
    · simp only [mapInsert, hlt, if_false, Rising, List.map_cons, List.pairwise_cons]
      refine ⟨fun a ha => ?_, ih h.2 (fun e he => hm e (List.mem_cons_of_mem _ he))⟩
      obtain ⟨e, he, rfl⟩ := List.mem_map.1 ha
      rcases mem_insert he with rfl | he
      · exact lt_of_le_of_ne (not_lt.1 hlt) hx
      · exact h.1 e.1 (List.mem_map.2 ⟨e, he, rfl⟩)

theorem mapWf_iff [DecidableEq α] (d : Nat → α) (m : SMap α) :
    mapWf d m = true ↔ Rising m ∧ ∀ e ∈ m, e.2 ≠ d e.1 := by
  simp [mapWf, Rising]

/-- A write of one key keeps the canonical form. -/
theorem mapWf_set [DecidableEq α] {d : Nat → α} {m : SMap α} (k : Nat) (v : α) (h : mapWf d m = true) :
    mapWf d (mapSet d m k v) = true := by
  rw [mapWf_iff] at h ⊢
  unfold mapSet
  by_cases hv : v = d k
  · rw [if_pos hv]
    exact ⟨rising_erase k h.1, fun e he => h.2 e (mem_erase_ne m k e he).2⟩
  · rw [if_neg hv]
    refine ⟨rising_insert v (rising_erase k h.1) (fun e he => (mem_erase_ne m k e he).1), fun e he => ?_⟩
    rcases mem_insert he with rfl | he
    · exact hv
    · exact h.2 e (mem_erase_ne m k e he).2

/-- Dropping entries keeps the canonical form. -/
theorem mapWf_filter [DecidableEq α] {d : Nat → α} {m : SMap α} (p : Nat × α → Bool) (h : mapWf d m = true) :
    mapWf d (m.filter p) = true := by
  rw [mapWf_iff] at h ⊢
  exact ⟨List.Pairwise.sublist (List.filter_sublist.map _) h.1, fun e he => h.2 e (List.mem_filter.1 he).1⟩

/-- Writing a run of keys keeps the canonical form. -/
theorem mapWf_foldl [DecidableEq α] {β : Type} {d : Nat → α} (l : List β) (f : SMap α → β → SMap α)
    (hf : ∀ m b, mapWf d m = true → mapWf d (f m b) = true) :
    ∀ m : SMap α, mapWf d m = true → mapWf d (l.foldl f m) = true := by
  induction l with
  | nil => exact fun m h => h
  | cons b l ih => exact fun m h => ih _ (hf m b h)

theorem mapWf_nil [DecidableEq α] (d : Nat → α) : mapWf d ([] : SMap α) = true := by simp [mapWf]

theorem optGet_insert (m : SMap α) (k j : Nat) (v : α) (hm : ∀ e ∈ m, e.1 ≠ k) :
    optGet (mapInsert k v m) j = if j = k then some v else optGet m j := by
  induction m with
  | nil =>
    by_cases h : j = k
    · simp [mapInsert, optGet, h]
    · simp [mapInsert, optGet, h, Ne.symm h]
  | cons e m ih =>
    have hme : ∀ x ∈ m, x.1 ≠ k := fun x hx => hm x (List.mem_cons_of_mem _ hx)
    have hek : e.1 ≠ k := hm e List.mem_cons_self
    by_cases hlt : k < e.1
    · by_cases h : j = k
      · simp [mapInsert, hlt, optGet, h]
      · simp [mapInsert, hlt, optGet, h, Ne.symm h]
    · by_cases hej : e.1 = j
      · subst hej; simp [mapInsert, hlt, optGet, hek]
      · simp [mapInsert, hlt, optGet, hej, ih hme]

theorem optGet_erase_other (m : SMap α) {k j : Nat} (hne : j ≠ k) : optGet (mapErase k m) j = optGet m j := by
  induction m with
  | nil => rfl
  | cons e m ih =>
    by_cases h : e.1 = k
    · simp [mapErase, h, optGet, ih, Ne.symm hne]
    · by_cases hj : e.1 = j
      · subst hj; simp [mapErase, h, optGet]
      · simp [mapErase, h, optGet, hj, ih]

/-- A look-up after an entry is written. -/
theorem optGet_set (m : SMap α) (k j : Nat) (v : α) : optGet (optSet m k v) j = if j = k then some v else optGet m j := by
  unfold optSet
  rw [optGet_insert _ k j v (fun e he => (mem_erase_ne m k e he).1)]
  by_cases h : j = k
  · simp [h]
  · simp [h, optGet_erase_other m h]

end Sys2Proof.Laws
end

