-- ==== Sys2Proof/Laws/State.lean ====
section
/-! SUPPORT. Laws of the state: what a register write and each of the named setters leave in every component of the state, and
what a register reads after a write. -/

namespace Sys2Proof.Laws

open Sys2Proof.Machine

/-! ## Registers -/

theorem rd_wr (s : State) (f g : Fld) (v : Nat) : (s.wr f v).rd g = if g.key = f.key then v % 2 ^ f.w else s.rd g :=
  mapGet_set fieldReset s.flds f.key g.key (v % 2 ^ f.w)

@[simp] theorem rd_wr_same (s : State) (f : Fld) (v : Nat) : (s.wr f v).rd f = v % 2 ^ f.w := by simp [rd_wr]

theorem rd_wr_other (s : State) {f g : Fld} (v : Nat) (h : g.key ≠ f.key) : (s.wr f v).rd g = s.rd g := by simp [rd_wr, h]

theorem raise_eq (s : State) (f : Fld) : s.raise f = s.wr f 1 := rfl
theorem put_eq (s : State) (f : Fld) (b : Bool) : s.put f b = s.wr f (if b then 1 else 0) := rfl
theorem bump_eq (s : State) (f : Fld) (n : Nat) : s.bump f n = s.wr f (min (s.rd f + n) (2 ^ f.w - 1)) := rfl
theorem setBit_eq (s : State) (f : Fld) (i : Nat) : s.setBit f i = s.wr f (s.rd f ||| 2 ^ i) := rfl
theorem wr64_eq (s : State) (lo hi : Fld) (v : Nat) : s.wr64 lo hi v = (s.wr lo v).wr hi (v / 2 ^ 32) := rfl

/-- A field read depends on the register fields alone. -/
theorem rd_congr {s t : State} (h : t.flds = s.flds) (f : Fld) : t.rd f = s.rd f := by simp [State.rd, h]

theorem fldsWf_wr {s : State} (f : Fld) (v : Nat) (h : fldsWf s.flds = true) : fldsWf (s.wr f v).flds = true := mapWf_set _ _ h

/-- A write to the Nyelle SRAM keeps its canonical form. -/
theorem memWf_sramWrite {s : State} (a : Nat) (l : List Byte) (h : memWf s.ny.sram = true) : memWf (s.sramWrite a l).ny.sram = true :=
  mapWf_foldl (d := sramReset) (List.range l.length) (fun m i => mapSet sramReset m (a + i) (l.getD i 0))
    (fun _ _ hm => mapWf_set _ _ hm) s.ny.sram h

/-! ## A register write leaves every other component -/

@[simp] theorem wr_pending (s : State) (f : Fld) (v : Nat) : (s.wr f v).pending = s.pending := rfl
@[simp] theorem wr_latch (s : State) (f : Fld) (v : Nat) : (s.wr f v).latch = s.latch := rfl
@[simp] theorem wr_transit (s : State) (f : Fld) (v : Nat) : (s.wr f v).transit = s.transit := rfl
@[simp] theorem wr_sp (s : State) (f : Fld) (v : Nat) : (s.wr f v).sp = s.sp := rfl
@[simp] theorem wr_free (s : State) (f : Fld) (v : Nat) : (s.wr f v).free = s.free := rfl
@[simp] theorem wr_sys (s : State) (f : Fld) (v : Nat) : (s.wr f v).sys = s.sys := rfl
@[simp] theorem wr_tm (s : State) (f : Fld) (v : Nat) : (s.wr f v).tm = s.tm := rfl
@[simp] theorem wr_ny (s : State) (f : Fld) (v : Nat) : (s.wr f v).ny = s.ny := rfl
@[simp] theorem wr_cc (s : State) (f : Fld) (v : Nat) : (s.wr f v).cc = s.cc := rfl
@[simp] theorem wr_hub (s : State) (f : Fld) (v : Nat) : (s.wr f v).hub = s.hub := rfl
@[simp] theorem wr_cu (s : State) (f : Fld) (v : Nat) : (s.wr f v).cu = s.cu := rfl
@[simp] theorem wr_kw (s : State) (f : Fld) (v : Nat) : (s.wr f v).kw = s.kw := rfl
@[simp] theorem wr_md (s : State) (f : Fld) (v : Nat) : (s.wr f v).md = s.md := rfl
@[simp] theorem wr_fab (s : State) (f : Fld) (v : Nat) : (s.wr f v).fab = s.fab := rfl
@[simp] theorem wr_lanes (s : State) (f : Fld) (v : Nat) : (s.wr f v).lanes = s.lanes := rfl
@[simp] theorem wr_spares (s : State) (f : Fld) (v : Nat) : (s.wr f v).spares = s.spares := rfl
@[simp] theorem wr_frs (s : State) (f : Fld) (v : Nat) : (s.wr f v).frs = s.frs := rfl
@[simp] theorem wr_grps (s : State) (f : Fld) (v : Nat) : (s.wr f v).grps = s.grps := rfl
@[simp] theorem wr_gfps (s : State) (f : Fld) (v : Nat) : (s.wr f v).gfps = s.gfps := rfl
@[simp] theorem wr_pairs (s : State) (f : Fld) (v : Nat) : (s.wr f v).pairs = s.pairs := rfl
@[simp] theorem wr_ohs (s : State) (f : Fld) (v : Nat) : (s.wr f v).ohs = s.ohs := rfl
@[simp] theorem wr_chs (s : State) (f : Fld) (v : Nat) : (s.wr f v).chs = s.chs := rfl
@[simp] theorem wr_rxs (s : State) (f : Fld) (v : Nat) : (s.wr f v).rxs = s.rxs := rfl
@[simp] theorem wr_txs (s : State) (f : Fld) (v : Nat) : (s.wr f v).txs = s.txs := rfl
@[simp] theorem wr_nextFr (s : State) (f : Fld) (v : Nat) : (s.wr f v).nextFr = s.nextFr := rfl
@[simp] theorem wr_qs (s : State) (f : Fld) (v : Nat) : (s.wr f v).qs = s.qs := rfl
@[simp] theorem wr_shaps (s : State) (f : Fld) (v : Nat) : (s.wr f v).shaps = s.shaps := rfl
@[simp] theorem wr_nodes (s : State) (f : Fld) (v : Nat) : (s.wr f v).nodes = s.nodes := rfl
@[simp] theorem wr_vtime (s : State) (f : Fld) (v : Nat) : (s.wr f v).vtime = s.vtime := rfl
@[simp] theorem wr_fb (s : State) (f : Fld) (v : Nat) : (s.wr f v).fb = s.fb := rfl
@[simp] theorem wr_tbl (s : State) (f : Fld) (v : Nat) : (s.wr f v).tbl = s.tbl := rfl
@[simp] theorem wr_meters (s : State) (f : Fld) (v : Nat) : (s.wr f v).meters = s.meters := rfl
@[simp] theorem wr_ctxs (s : State) (f : Fld) (v : Nat) : (s.wr f v).ctxs = s.ctxs := rfl
@[simp] theorem wr_ring (s : State) (f : Fld) (v : Nat) : (s.wr f v).ring = s.ring := rfl
@[simp] theorem wr_led (s : State) (f : Fld) (v : Nat) : (s.wr f v).led = s.led := rfl
@[simp] theorem wr_sv (s : State) (f : Fld) (v : Nat) : (s.wr f v).sv = s.sv := rfl
@[simp] theorem wr_pw (s : State) (f : Fld) (v : Nat) : (s.wr f v).pw = s.pw := rfl

@[simp] theorem raise_pending (s : State) (f : Fld) : (s.raise f).pending = s.pending := rfl
@[simp] theorem raise_latch (s : State) (f : Fld) : (s.raise f).latch = s.latch := rfl
@[simp] theorem raise_transit (s : State) (f : Fld) : (s.raise f).transit = s.transit := rfl
@[simp] theorem raise_sp (s : State) (f : Fld) : (s.raise f).sp = s.sp := rfl
@[simp] theorem raise_free (s : State) (f : Fld) : (s.raise f).free = s.free := rfl
@[simp] theorem raise_sys (s : State) (f : Fld) : (s.raise f).sys = s.sys := rfl
@[simp] theorem raise_tm (s : State) (f : Fld) : (s.raise f).tm = s.tm := rfl
@[simp] theorem raise_ny (s : State) (f : Fld) : (s.raise f).ny = s.ny := rfl
@[simp] theorem raise_cc (s : State) (f : Fld) : (s.raise f).cc = s.cc := rfl
@[simp] theorem raise_hub (s : State) (f : Fld) : (s.raise f).hub = s.hub := rfl
@[simp] theorem raise_cu (s : State) (f : Fld) : (s.raise f).cu = s.cu := rfl
@[simp] theorem raise_kw (s : State) (f : Fld) : (s.raise f).kw = s.kw := rfl
@[simp] theorem raise_md (s : State) (f : Fld) : (s.raise f).md = s.md := rfl
@[simp] theorem raise_fab (s : State) (f : Fld) : (s.raise f).fab = s.fab := rfl
@[simp] theorem raise_lanes (s : State) (f : Fld) : (s.raise f).lanes = s.lanes := rfl
@[simp] theorem raise_spares (s : State) (f : Fld) : (s.raise f).spares = s.spares := rfl
@[simp] theorem raise_frs (s : State) (f : Fld) : (s.raise f).frs = s.frs := rfl
@[simp] theorem raise_grps (s : State) (f : Fld) : (s.raise f).grps = s.grps := rfl
@[simp] theorem raise_gfps (s : State) (f : Fld) : (s.raise f).gfps = s.gfps := rfl
@[simp] theorem raise_pairs (s : State) (f : Fld) : (s.raise f).pairs = s.pairs := rfl
@[simp] theorem raise_ohs (s : State) (f : Fld) : (s.raise f).ohs = s.ohs := rfl
@[simp] theorem raise_chs (s : State) (f : Fld) : (s.raise f).chs = s.chs := rfl
@[simp] theorem raise_rxs (s : State) (f : Fld) : (s.raise f).rxs = s.rxs := rfl
@[simp] theorem raise_txs (s : State) (f : Fld) : (s.raise f).txs = s.txs := rfl
@[simp] theorem raise_nextFr (s : State) (f : Fld) : (s.raise f).nextFr = s.nextFr := rfl
@[simp] theorem raise_qs (s : State) (f : Fld) : (s.raise f).qs = s.qs := rfl
@[simp] theorem raise_shaps (s : State) (f : Fld) : (s.raise f).shaps = s.shaps := rfl
@[simp] theorem raise_nodes (s : State) (f : Fld) : (s.raise f).nodes = s.nodes := rfl
@[simp] theorem raise_vtime (s : State) (f : Fld) : (s.raise f).vtime = s.vtime := rfl
@[simp] theorem raise_fb (s : State) (f : Fld) : (s.raise f).fb = s.fb := rfl
@[simp] theorem raise_tbl (s : State) (f : Fld) : (s.raise f).tbl = s.tbl := rfl
@[simp] theorem raise_meters (s : State) (f : Fld) : (s.raise f).meters = s.meters := rfl
@[simp] theorem raise_ctxs (s : State) (f : Fld) : (s.raise f).ctxs = s.ctxs := rfl
@[simp] theorem raise_ring (s : State) (f : Fld) : (s.raise f).ring = s.ring := rfl
@[simp] theorem raise_led (s : State) (f : Fld) : (s.raise f).led = s.led := rfl
@[simp] theorem raise_sv (s : State) (f : Fld) : (s.raise f).sv = s.sv := rfl
@[simp] theorem raise_pw (s : State) (f : Fld) : (s.raise f).pw = s.pw := rfl

@[simp] theorem bump_pending (s : State) (f : Fld) (n : Nat) : (s.bump f n).pending = s.pending := rfl
@[simp] theorem bump_latch (s : State) (f : Fld) (n : Nat) : (s.bump f n).latch = s.latch := rfl
@[simp] theorem bump_transit (s : State) (f : Fld) (n : Nat) : (s.bump f n).transit = s.transit := rfl
@[simp] theorem bump_sp (s : State) (f : Fld) (n : Nat) : (s.bump f n).sp = s.sp := rfl
@[simp] theorem bump_free (s : State) (f : Fld) (n : Nat) : (s.bump f n).free = s.free := rfl
@[simp] theorem bump_sys (s : State) (f : Fld) (n : Nat) : (s.bump f n).sys = s.sys := rfl
@[simp] theorem bump_tm (s : State) (f : Fld) (n : Nat) : (s.bump f n).tm = s.tm := rfl
@[simp] theorem bump_ny (s : State) (f : Fld) (n : Nat) : (s.bump f n).ny = s.ny := rfl
@[simp] theorem bump_cc (s : State) (f : Fld) (n : Nat) : (s.bump f n).cc = s.cc := rfl
@[simp] theorem bump_hub (s : State) (f : Fld) (n : Nat) : (s.bump f n).hub = s.hub := rfl
@[simp] theorem bump_cu (s : State) (f : Fld) (n : Nat) : (s.bump f n).cu = s.cu := rfl
@[simp] theorem bump_kw (s : State) (f : Fld) (n : Nat) : (s.bump f n).kw = s.kw := rfl
@[simp] theorem bump_md (s : State) (f : Fld) (n : Nat) : (s.bump f n).md = s.md := rfl
@[simp] theorem bump_fab (s : State) (f : Fld) (n : Nat) : (s.bump f n).fab = s.fab := rfl
@[simp] theorem bump_lanes (s : State) (f : Fld) (n : Nat) : (s.bump f n).lanes = s.lanes := rfl
@[simp] theorem bump_spares (s : State) (f : Fld) (n : Nat) : (s.bump f n).spares = s.spares := rfl
@[simp] theorem bump_frs (s : State) (f : Fld) (n : Nat) : (s.bump f n).frs = s.frs := rfl
@[simp] theorem bump_grps (s : State) (f : Fld) (n : Nat) : (s.bump f n).grps = s.grps := rfl
@[simp] theorem bump_gfps (s : State) (f : Fld) (n : Nat) : (s.bump f n).gfps = s.gfps := rfl
@[simp] theorem bump_pairs (s : State) (f : Fld) (n : Nat) : (s.bump f n).pairs = s.pairs := rfl
@[simp] theorem bump_ohs (s : State) (f : Fld) (n : Nat) : (s.bump f n).ohs = s.ohs := rfl
@[simp] theorem bump_chs (s : State) (f : Fld) (n : Nat) : (s.bump f n).chs = s.chs := rfl
@[simp] theorem bump_rxs (s : State) (f : Fld) (n : Nat) : (s.bump f n).rxs = s.rxs := rfl
@[simp] theorem bump_txs (s : State) (f : Fld) (n : Nat) : (s.bump f n).txs = s.txs := rfl
@[simp] theorem bump_nextFr (s : State) (f : Fld) (n : Nat) : (s.bump f n).nextFr = s.nextFr := rfl
@[simp] theorem bump_qs (s : State) (f : Fld) (n : Nat) : (s.bump f n).qs = s.qs := rfl
@[simp] theorem bump_shaps (s : State) (f : Fld) (n : Nat) : (s.bump f n).shaps = s.shaps := rfl
@[simp] theorem bump_nodes (s : State) (f : Fld) (n : Nat) : (s.bump f n).nodes = s.nodes := rfl
@[simp] theorem bump_vtime (s : State) (f : Fld) (n : Nat) : (s.bump f n).vtime = s.vtime := rfl
@[simp] theorem bump_fb (s : State) (f : Fld) (n : Nat) : (s.bump f n).fb = s.fb := rfl
@[simp] theorem bump_tbl (s : State) (f : Fld) (n : Nat) : (s.bump f n).tbl = s.tbl := rfl
@[simp] theorem bump_meters (s : State) (f : Fld) (n : Nat) : (s.bump f n).meters = s.meters := rfl
@[simp] theorem bump_ctxs (s : State) (f : Fld) (n : Nat) : (s.bump f n).ctxs = s.ctxs := rfl
@[simp] theorem bump_ring (s : State) (f : Fld) (n : Nat) : (s.bump f n).ring = s.ring := rfl
@[simp] theorem bump_led (s : State) (f : Fld) (n : Nat) : (s.bump f n).led = s.led := rfl
@[simp] theorem bump_sv (s : State) (f : Fld) (n : Nat) : (s.bump f n).sv = s.sv := rfl
@[simp] theorem bump_pw (s : State) (f : Fld) (n : Nat) : (s.bump f n).pw = s.pw := rfl

@[simp] theorem put_pending (s : State) (f : Fld) (b : Bool) : (s.put f b).pending = s.pending := rfl
@[simp] theorem put_latch (s : State) (f : Fld) (b : Bool) : (s.put f b).latch = s.latch := rfl
@[simp] theorem put_transit (s : State) (f : Fld) (b : Bool) : (s.put f b).transit = s.transit := rfl
@[simp] theorem put_sp (s : State) (f : Fld) (b : Bool) : (s.put f b).sp = s.sp := rfl
@[simp] theorem put_free (s : State) (f : Fld) (b : Bool) : (s.put f b).free = s.free := rfl
@[simp] theorem put_sys (s : State) (f : Fld) (b : Bool) : (s.put f b).sys = s.sys := rfl
@[simp] theorem put_tm (s : State) (f : Fld) (b : Bool) : (s.put f b).tm = s.tm := rfl
@[simp] theorem put_ny (s : State) (f : Fld) (b : Bool) : (s.put f b).ny = s.ny := rfl
@[simp] theorem put_cc (s : State) (f : Fld) (b : Bool) : (s.put f b).cc = s.cc := rfl
@[simp] theorem put_hub (s : State) (f : Fld) (b : Bool) : (s.put f b).hub = s.hub := rfl
@[simp] theorem put_cu (s : State) (f : Fld) (b : Bool) : (s.put f b).cu = s.cu := rfl
@[simp] theorem put_kw (s : State) (f : Fld) (b : Bool) : (s.put f b).kw = s.kw := rfl
@[simp] theorem put_md (s : State) (f : Fld) (b : Bool) : (s.put f b).md = s.md := rfl
@[simp] theorem put_fab (s : State) (f : Fld) (b : Bool) : (s.put f b).fab = s.fab := rfl
@[simp] theorem put_lanes (s : State) (f : Fld) (b : Bool) : (s.put f b).lanes = s.lanes := rfl
@[simp] theorem put_spares (s : State) (f : Fld) (b : Bool) : (s.put f b).spares = s.spares := rfl
@[simp] theorem put_frs (s : State) (f : Fld) (b : Bool) : (s.put f b).frs = s.frs := rfl
@[simp] theorem put_grps (s : State) (f : Fld) (b : Bool) : (s.put f b).grps = s.grps := rfl
@[simp] theorem put_gfps (s : State) (f : Fld) (b : Bool) : (s.put f b).gfps = s.gfps := rfl
@[simp] theorem put_pairs (s : State) (f : Fld) (b : Bool) : (s.put f b).pairs = s.pairs := rfl
@[simp] theorem put_ohs (s : State) (f : Fld) (b : Bool) : (s.put f b).ohs = s.ohs := rfl
@[simp] theorem put_chs (s : State) (f : Fld) (b : Bool) : (s.put f b).chs = s.chs := rfl
@[simp] theorem put_rxs (s : State) (f : Fld) (b : Bool) : (s.put f b).rxs = s.rxs := rfl
@[simp] theorem put_txs (s : State) (f : Fld) (b : Bool) : (s.put f b).txs = s.txs := rfl
@[simp] theorem put_nextFr (s : State) (f : Fld) (b : Bool) : (s.put f b).nextFr = s.nextFr := rfl
@[simp] theorem put_qs (s : State) (f : Fld) (b : Bool) : (s.put f b).qs = s.qs := rfl
@[simp] theorem put_shaps (s : State) (f : Fld) (b : Bool) : (s.put f b).shaps = s.shaps := rfl
@[simp] theorem put_nodes (s : State) (f : Fld) (b : Bool) : (s.put f b).nodes = s.nodes := rfl
@[simp] theorem put_vtime (s : State) (f : Fld) (b : Bool) : (s.put f b).vtime = s.vtime := rfl
@[simp] theorem put_fb (s : State) (f : Fld) (b : Bool) : (s.put f b).fb = s.fb := rfl
@[simp] theorem put_tbl (s : State) (f : Fld) (b : Bool) : (s.put f b).tbl = s.tbl := rfl
@[simp] theorem put_meters (s : State) (f : Fld) (b : Bool) : (s.put f b).meters = s.meters := rfl
@[simp] theorem put_ctxs (s : State) (f : Fld) (b : Bool) : (s.put f b).ctxs = s.ctxs := rfl
@[simp] theorem put_ring (s : State) (f : Fld) (b : Bool) : (s.put f b).ring = s.ring := rfl
@[simp] theorem put_led (s : State) (f : Fld) (b : Bool) : (s.put f b).led = s.led := rfl
@[simp] theorem put_sv (s : State) (f : Fld) (b : Bool) : (s.put f b).sv = s.sv := rfl
@[simp] theorem put_pw (s : State) (f : Fld) (b : Bool) : (s.put f b).pw = s.pw := rfl

@[simp] theorem setBit_pending (s : State) (f : Fld) (i : Nat) : (s.setBit f i).pending = s.pending := rfl
@[simp] theorem setBit_latch (s : State) (f : Fld) (i : Nat) : (s.setBit f i).latch = s.latch := rfl
@[simp] theorem setBit_transit (s : State) (f : Fld) (i : Nat) : (s.setBit f i).transit = s.transit := rfl
@[simp] theorem setBit_sp (s : State) (f : Fld) (i : Nat) : (s.setBit f i).sp = s.sp := rfl
@[simp] theorem setBit_free (s : State) (f : Fld) (i : Nat) : (s.setBit f i).free = s.free := rfl
@[simp] theorem setBit_sys (s : State) (f : Fld) (i : Nat) : (s.setBit f i).sys = s.sys := rfl
@[simp] theorem setBit_tm (s : State) (f : Fld) (i : Nat) : (s.setBit f i).tm = s.tm := rfl
@[simp] theorem setBit_ny (s : State) (f : Fld) (i : Nat) : (s.setBit f i).ny = s.ny := rfl
@[simp] theorem setBit_cc (s : State) (f : Fld) (i : Nat) : (s.setBit f i).cc = s.cc := rfl
@[simp] theorem setBit_hub (s : State) (f : Fld) (i : Nat) : (s.setBit f i).hub = s.hub := rfl
@[simp] theorem setBit_cu (s : State) (f : Fld) (i : Nat) : (s.setBit f i).cu = s.cu := rfl
@[simp] theorem setBit_kw (s : State) (f : Fld) (i : Nat) : (s.setBit f i).kw = s.kw := rfl
@[simp] theorem setBit_md (s : State) (f : Fld) (i : Nat) : (s.setBit f i).md = s.md := rfl
@[simp] theorem setBit_fab (s : State) (f : Fld) (i : Nat) : (s.setBit f i).fab = s.fab := rfl
@[simp] theorem setBit_lanes (s : State) (f : Fld) (i : Nat) : (s.setBit f i).lanes = s.lanes := rfl
@[simp] theorem setBit_spares (s : State) (f : Fld) (i : Nat) : (s.setBit f i).spares = s.spares := rfl
@[simp] theorem setBit_frs (s : State) (f : Fld) (i : Nat) : (s.setBit f i).frs = s.frs := rfl
@[simp] theorem setBit_grps (s : State) (f : Fld) (i : Nat) : (s.setBit f i).grps = s.grps := rfl
@[simp] theorem setBit_gfps (s : State) (f : Fld) (i : Nat) : (s.setBit f i).gfps = s.gfps := rfl
@[simp] theorem setBit_pairs (s : State) (f : Fld) (i : Nat) : (s.setBit f i).pairs = s.pairs := rfl
@[simp] theorem setBit_ohs (s : State) (f : Fld) (i : Nat) : (s.setBit f i).ohs = s.ohs := rfl
@[simp] theorem setBit_chs (s : State) (f : Fld) (i : Nat) : (s.setBit f i).chs = s.chs := rfl
@[simp] theorem setBit_rxs (s : State) (f : Fld) (i : Nat) : (s.setBit f i).rxs = s.rxs := rfl
@[simp] theorem setBit_txs (s : State) (f : Fld) (i : Nat) : (s.setBit f i).txs = s.txs := rfl
@[simp] theorem setBit_nextFr (s : State) (f : Fld) (i : Nat) : (s.setBit f i).nextFr = s.nextFr := rfl
@[simp] theorem setBit_qs (s : State) (f : Fld) (i : Nat) : (s.setBit f i).qs = s.qs := rfl
@[simp] theorem setBit_shaps (s : State) (f : Fld) (i : Nat) : (s.setBit f i).shaps = s.shaps := rfl
@[simp] theorem setBit_nodes (s : State) (f : Fld) (i : Nat) : (s.setBit f i).nodes = s.nodes := rfl
@[simp] theorem setBit_vtime (s : State) (f : Fld) (i : Nat) : (s.setBit f i).vtime = s.vtime := rfl
@[simp] theorem setBit_fb (s : State) (f : Fld) (i : Nat) : (s.setBit f i).fb = s.fb := rfl
@[simp] theorem setBit_tbl (s : State) (f : Fld) (i : Nat) : (s.setBit f i).tbl = s.tbl := rfl
@[simp] theorem setBit_meters (s : State) (f : Fld) (i : Nat) : (s.setBit f i).meters = s.meters := rfl
@[simp] theorem setBit_ctxs (s : State) (f : Fld) (i : Nat) : (s.setBit f i).ctxs = s.ctxs := rfl
@[simp] theorem setBit_ring (s : State) (f : Fld) (i : Nat) : (s.setBit f i).ring = s.ring := rfl
@[simp] theorem setBit_led (s : State) (f : Fld) (i : Nat) : (s.setBit f i).led = s.led := rfl
@[simp] theorem setBit_sv (s : State) (f : Fld) (i : Nat) : (s.setBit f i).sv = s.sv := rfl
@[simp] theorem setBit_pw (s : State) (f : Fld) (i : Nat) : (s.setBit f i).pw = s.pw := rfl

/-! ## `setCh` changes `chs` alone -/

@[simp] theorem setCh_pending (s : State) (c : Nat) (x : ChSt) : (s.setCh c x).pending = s.pending := rfl
@[simp] theorem setCh_flds (s : State) (c : Nat) (x : ChSt) : (s.setCh c x).flds = s.flds := rfl
@[simp] theorem setCh_latch (s : State) (c : Nat) (x : ChSt) : (s.setCh c x).latch = s.latch := rfl
@[simp] theorem setCh_transit (s : State) (c : Nat) (x : ChSt) : (s.setCh c x).transit = s.transit := rfl
@[simp] theorem setCh_sp (s : State) (c : Nat) (x : ChSt) : (s.setCh c x).sp = s.sp := rfl
@[simp] theorem setCh_free (s : State) (c : Nat) (x : ChSt) : (s.setCh c x).free = s.free := rfl
@[simp] theorem setCh_sys (s : State) (c : Nat) (x : ChSt) : (s.setCh c x).sys = s.sys := rfl
@[simp] theorem setCh_tm (s : State) (c : Nat) (x : ChSt) : (s.setCh c x).tm = s.tm := rfl
@[simp] theorem setCh_ny (s : State) (c : Nat) (x : ChSt) : (s.setCh c x).ny = s.ny := rfl
@[simp] theorem setCh_cc (s : State) (c : Nat) (x : ChSt) : (s.setCh c x).cc = s.cc := rfl
@[simp] theorem setCh_hub (s : State) (c : Nat) (x : ChSt) : (s.setCh c x).hub = s.hub := rfl
@[simp] theorem setCh_cu (s : State) (c : Nat) (x : ChSt) : (s.setCh c x).cu = s.cu := rfl
@[simp] theorem setCh_kw (s : State) (c : Nat) (x : ChSt) : (s.setCh c x).kw = s.kw := rfl
@[simp] theorem setCh_md (s : State) (c : Nat) (x : ChSt) : (s.setCh c x).md = s.md := rfl
@[simp] theorem setCh_fab (s : State) (c : Nat) (x : ChSt) : (s.setCh c x).fab = s.fab := rfl
@[simp] theorem setCh_lanes (s : State) (c : Nat) (x : ChSt) : (s.setCh c x).lanes = s.lanes := rfl
@[simp] theorem setCh_spares (s : State) (c : Nat) (x : ChSt) : (s.setCh c x).spares = s.spares := rfl
@[simp] theorem setCh_frs (s : State) (c : Nat) (x : ChSt) : (s.setCh c x).frs = s.frs := rfl
@[simp] theorem setCh_grps (s : State) (c : Nat) (x : ChSt) : (s.setCh c x).grps = s.grps := rfl
@[simp] theorem setCh_gfps (s : State) (c : Nat) (x : ChSt) : (s.setCh c x).gfps = s.gfps := rfl
@[simp] theorem setCh_pairs (s : State) (c : Nat) (x : ChSt) : (s.setCh c x).pairs = s.pairs := rfl
@[simp] theorem setCh_ohs (s : State) (c : Nat) (x : ChSt) : (s.setCh c x).ohs = s.ohs := rfl
@[simp] theorem setCh_rxs (s : State) (c : Nat) (x : ChSt) : (s.setCh c x).rxs = s.rxs := rfl
@[simp] theorem setCh_txs (s : State) (c : Nat) (x : ChSt) : (s.setCh c x).txs = s.txs := rfl
@[simp] theorem setCh_nextFr (s : State) (c : Nat) (x : ChSt) : (s.setCh c x).nextFr = s.nextFr := rfl
@[simp] theorem setCh_qs (s : State) (c : Nat) (x : ChSt) : (s.setCh c x).qs = s.qs := rfl
@[simp] theorem setCh_shaps (s : State) (c : Nat) (x : ChSt) : (s.setCh c x).shaps = s.shaps := rfl
@[simp] theorem setCh_nodes (s : State) (c : Nat) (x : ChSt) : (s.setCh c x).nodes = s.nodes := rfl
@[simp] theorem setCh_vtime (s : State) (c : Nat) (x : ChSt) : (s.setCh c x).vtime = s.vtime := rfl
@[simp] theorem setCh_fb (s : State) (c : Nat) (x : ChSt) : (s.setCh c x).fb = s.fb := rfl
@[simp] theorem setCh_tbl (s : State) (c : Nat) (x : ChSt) : (s.setCh c x).tbl = s.tbl := rfl
@[simp] theorem setCh_meters (s : State) (c : Nat) (x : ChSt) : (s.setCh c x).meters = s.meters := rfl
@[simp] theorem setCh_ctxs (s : State) (c : Nat) (x : ChSt) : (s.setCh c x).ctxs = s.ctxs := rfl
@[simp] theorem setCh_ring (s : State) (c : Nat) (x : ChSt) : (s.setCh c x).ring = s.ring := rfl
@[simp] theorem setCh_led (s : State) (c : Nat) (x : ChSt) : (s.setCh c x).led = s.led := rfl
@[simp] theorem setCh_sv (s : State) (c : Nat) (x : ChSt) : (s.setCh c x).sv = s.sv := rfl
@[simp] theorem setCh_pw (s : State) (c : Nat) (x : ChSt) : (s.setCh c x).pw = s.pw := rfl
@[simp] theorem setCh_rd (s : State) (c : Nat) (x : ChSt) (f : Fld) : (s.setCh c x).rd f = s.rd f := rfl

/-! ## `setLane` changes `lanes` alone -/

@[simp] theorem setLane_pending (s : State) (i : Nat) (x : LaneSt) : (s.setLane i x).pending = s.pending := rfl
@[simp] theorem setLane_flds (s : State) (i : Nat) (x : LaneSt) : (s.setLane i x).flds = s.flds := rfl
@[simp] theorem setLane_latch (s : State) (i : Nat) (x : LaneSt) : (s.setLane i x).latch = s.latch := rfl
@[simp] theorem setLane_transit (s : State) (i : Nat) (x : LaneSt) : (s.setLane i x).transit = s.transit := rfl
@[simp] theorem setLane_sp (s : State) (i : Nat) (x : LaneSt) : (s.setLane i x).sp = s.sp := rfl
@[simp] theorem setLane_free (s : State) (i : Nat) (x : LaneSt) : (s.setLane i x).free = s.free := rfl
@[simp] theorem setLane_sys (s : State) (i : Nat) (x : LaneSt) : (s.setLane i x).sys = s.sys := rfl
@[simp] theorem setLane_tm (s : State) (i : Nat) (x : LaneSt) : (s.setLane i x).tm = s.tm := rfl
@[simp] theorem setLane_ny (s : State) (i : Nat) (x : LaneSt) : (s.setLane i x).ny = s.ny := rfl
@[simp] theorem setLane_cc (s : State) (i : Nat) (x : LaneSt) : (s.setLane i x).cc = s.cc := rfl
@[simp] theorem setLane_hub (s : State) (i : Nat) (x : LaneSt) : (s.setLane i x).hub = s.hub := rfl
@[simp] theorem setLane_cu (s : State) (i : Nat) (x : LaneSt) : (s.setLane i x).cu = s.cu := rfl
@[simp] theorem setLane_kw (s : State) (i : Nat) (x : LaneSt) : (s.setLane i x).kw = s.kw := rfl
@[simp] theorem setLane_md (s : State) (i : Nat) (x : LaneSt) : (s.setLane i x).md = s.md := rfl
@[simp] theorem setLane_fab (s : State) (i : Nat) (x : LaneSt) : (s.setLane i x).fab = s.fab := rfl
@[simp] theorem setLane_spares (s : State) (i : Nat) (x : LaneSt) : (s.setLane i x).spares = s.spares := rfl
@[simp] theorem setLane_frs (s : State) (i : Nat) (x : LaneSt) : (s.setLane i x).frs = s.frs := rfl
@[simp] theorem setLane_grps (s : State) (i : Nat) (x : LaneSt) : (s.setLane i x).grps = s.grps := rfl
@[simp] theorem setLane_gfps (s : State) (i : Nat) (x : LaneSt) : (s.setLane i x).gfps = s.gfps := rfl
@[simp] theorem setLane_pairs (s : State) (i : Nat) (x : LaneSt) : (s.setLane i x).pairs = s.pairs := rfl
@[simp] theorem setLane_ohs (s : State) (i : Nat) (x : LaneSt) : (s.setLane i x).ohs = s.ohs := rfl
@[simp] theorem setLane_chs (s : State) (i : Nat) (x : LaneSt) : (s.setLane i x).chs = s.chs := rfl
@[simp] theorem setLane_rxs (s : State) (i : Nat) (x : LaneSt) : (s.setLane i x).rxs = s.rxs := rfl
@[simp] theorem setLane_txs (s : State) (i : Nat) (x : LaneSt) : (s.setLane i x).txs = s.txs := rfl
@[simp] theorem setLane_nextFr (s : State) (i : Nat) (x : LaneSt) : (s.setLane i x).nextFr = s.nextFr := rfl
@[simp] theorem setLane_qs (s : State) (i : Nat) (x : LaneSt) : (s.setLane i x).qs = s.qs := rfl
@[simp] theorem setLane_shaps (s : State) (i : Nat) (x : LaneSt) : (s.setLane i x).shaps = s.shaps := rfl
@[simp] theorem setLane_nodes (s : State) (i : Nat) (x : LaneSt) : (s.setLane i x).nodes = s.nodes := rfl
@[simp] theorem setLane_vtime (s : State) (i : Nat) (x : LaneSt) : (s.setLane i x).vtime = s.vtime := rfl
@[simp] theorem setLane_fb (s : State) (i : Nat) (x : LaneSt) : (s.setLane i x).fb = s.fb := rfl
@[simp] theorem setLane_tbl (s : State) (i : Nat) (x : LaneSt) : (s.setLane i x).tbl = s.tbl := rfl
@[simp] theorem setLane_meters (s : State) (i : Nat) (x : LaneSt) : (s.setLane i x).meters = s.meters := rfl
@[simp] theorem setLane_ctxs (s : State) (i : Nat) (x : LaneSt) : (s.setLane i x).ctxs = s.ctxs := rfl
@[simp] theorem setLane_ring (s : State) (i : Nat) (x : LaneSt) : (s.setLane i x).ring = s.ring := rfl
@[simp] theorem setLane_led (s : State) (i : Nat) (x : LaneSt) : (s.setLane i x).led = s.led := rfl
@[simp] theorem setLane_sv (s : State) (i : Nat) (x : LaneSt) : (s.setLane i x).sv = s.sv := rfl
@[simp] theorem setLane_pw (s : State) (i : Nat) (x : LaneSt) : (s.setLane i x).pw = s.pw := rfl
@[simp] theorem setLane_rd (s : State) (i : Nat) (x : LaneSt) (f : Fld) : (s.setLane i x).rd f = s.rd f := rfl

/-! ## `setFr` changes `frs` alone -/

@[simp] theorem setFr_pending (s : State) (j : Nat) (x : FrSt) : (s.setFr j x).pending = s.pending := rfl
@[simp] theorem setFr_flds (s : State) (j : Nat) (x : FrSt) : (s.setFr j x).flds = s.flds := rfl
@[simp] theorem setFr_latch (s : State) (j : Nat) (x : FrSt) : (s.setFr j x).latch = s.latch := rfl
@[simp] theorem setFr_transit (s : State) (j : Nat) (x : FrSt) : (s.setFr j x).transit = s.transit := rfl
@[simp] theorem setFr_sp (s : State) (j : Nat) (x : FrSt) : (s.setFr j x).sp = s.sp := rfl
@[simp] theorem setFr_free (s : State) (j : Nat) (x : FrSt) : (s.setFr j x).free = s.free := rfl
@[simp] theorem setFr_sys (s : State) (j : Nat) (x : FrSt) : (s.setFr j x).sys = s.sys := rfl
@[simp] theorem setFr_tm (s : State) (j : Nat) (x : FrSt) : (s.setFr j x).tm = s.tm := rfl
@[simp] theorem setFr_ny (s : State) (j : Nat) (x : FrSt) : (s.setFr j x).ny = s.ny := rfl
@[simp] theorem setFr_cc (s : State) (j : Nat) (x : FrSt) : (s.setFr j x).cc = s.cc := rfl
@[simp] theorem setFr_hub (s : State) (j : Nat) (x : FrSt) : (s.setFr j x).hub = s.hub := rfl
@[simp] theorem setFr_cu (s : State) (j : Nat) (x : FrSt) : (s.setFr j x).cu = s.cu := rfl
@[simp] theorem setFr_kw (s : State) (j : Nat) (x : FrSt) : (s.setFr j x).kw = s.kw := rfl
@[simp] theorem setFr_md (s : State) (j : Nat) (x : FrSt) : (s.setFr j x).md = s.md := rfl
@[simp] theorem setFr_fab (s : State) (j : Nat) (x : FrSt) : (s.setFr j x).fab = s.fab := rfl
@[simp] theorem setFr_lanes (s : State) (j : Nat) (x : FrSt) : (s.setFr j x).lanes = s.lanes := rfl
@[simp] theorem setFr_spares (s : State) (j : Nat) (x : FrSt) : (s.setFr j x).spares = s.spares := rfl
@[simp] theorem setFr_grps (s : State) (j : Nat) (x : FrSt) : (s.setFr j x).grps = s.grps := rfl
@[simp] theorem setFr_gfps (s : State) (j : Nat) (x : FrSt) : (s.setFr j x).gfps = s.gfps := rfl
@[simp] theorem setFr_pairs (s : State) (j : Nat) (x : FrSt) : (s.setFr j x).pairs = s.pairs := rfl
@[simp] theorem setFr_ohs (s : State) (j : Nat) (x : FrSt) : (s.setFr j x).ohs = s.ohs := rfl
@[simp] theorem setFr_chs (s : State) (j : Nat) (x : FrSt) : (s.setFr j x).chs = s.chs := rfl
@[simp] theorem setFr_rxs (s : State) (j : Nat) (x : FrSt) : (s.setFr j x).rxs = s.rxs := rfl
@[simp] theorem setFr_txs (s : State) (j : Nat) (x : FrSt) : (s.setFr j x).txs = s.txs := rfl
@[simp] theorem setFr_nextFr (s : State) (j : Nat) (x : FrSt) : (s.setFr j x).nextFr = s.nextFr := rfl
@[simp] theorem setFr_qs (s : State) (j : Nat) (x : FrSt) : (s.setFr j x).qs = s.qs := rfl
@[simp] theorem setFr_shaps (s : State) (j : Nat) (x : FrSt) : (s.setFr j x).shaps = s.shaps := rfl
@[simp] theorem setFr_nodes (s : State) (j : Nat) (x : FrSt) : (s.setFr j x).nodes = s.nodes := rfl
@[simp] theorem setFr_vtime (s : State) (j : Nat) (x : FrSt) : (s.setFr j x).vtime = s.vtime := rfl
@[simp] theorem setFr_fb (s : State) (j : Nat) (x : FrSt) : (s.setFr j x).fb = s.fb := rfl
@[simp] theorem setFr_tbl (s : State) (j : Nat) (x : FrSt) : (s.setFr j x).tbl = s.tbl := rfl
@[simp] theorem setFr_meters (s : State) (j : Nat) (x : FrSt) : (s.setFr j x).meters = s.meters := rfl
@[simp] theorem setFr_ctxs (s : State) (j : Nat) (x : FrSt) : (s.setFr j x).ctxs = s.ctxs := rfl
@[simp] theorem setFr_ring (s : State) (j : Nat) (x : FrSt) : (s.setFr j x).ring = s.ring := rfl
@[simp] theorem setFr_led (s : State) (j : Nat) (x : FrSt) : (s.setFr j x).led = s.led := rfl
@[simp] theorem setFr_sv (s : State) (j : Nat) (x : FrSt) : (s.setFr j x).sv = s.sv := rfl
@[simp] theorem setFr_pw (s : State) (j : Nat) (x : FrSt) : (s.setFr j x).pw = s.pw := rfl
@[simp] theorem setFr_rd (s : State) (j : Nat) (x : FrSt) (f : Fld) : (s.setFr j x).rd f = s.rd f := rfl

/-! ## `setGrp` changes `grps` alone -/

@[simp] theorem setGrp_pending (s : State) (g : Nat) (x : GrpSt) : (s.setGrp g x).pending = s.pending := rfl
@[simp] theorem setGrp_flds (s : State) (g : Nat) (x : GrpSt) : (s.setGrp g x).flds = s.flds := rfl
@[simp] theorem setGrp_latch (s : State) (g : Nat) (x : GrpSt) : (s.setGrp g x).latch = s.latch := rfl
@[simp] theorem setGrp_transit (s : State) (g : Nat) (x : GrpSt) : (s.setGrp g x).transit = s.transit := rfl
@[simp] theorem setGrp_sp (s : State) (g : Nat) (x : GrpSt) : (s.setGrp g x).sp = s.sp := rfl
@[simp] theorem setGrp_free (s : State) (g : Nat) (x : GrpSt) : (s.setGrp g x).free = s.free := rfl
@[simp] theorem setGrp_sys (s : State) (g : Nat) (x : GrpSt) : (s.setGrp g x).sys = s.sys := rfl
@[simp] theorem setGrp_tm (s : State) (g : Nat) (x : GrpSt) : (s.setGrp g x).tm = s.tm := rfl
@[simp] theorem setGrp_ny (s : State) (g : Nat) (x : GrpSt) : (s.setGrp g x).ny = s.ny := rfl
@[simp] theorem setGrp_cc (s : State) (g : Nat) (x : GrpSt) : (s.setGrp g x).cc = s.cc := rfl
@[simp] theorem setGrp_hub (s : State) (g : Nat) (x : GrpSt) : (s.setGrp g x).hub = s.hub := rfl
@[simp] theorem setGrp_cu (s : State) (g : Nat) (x : GrpSt) : (s.setGrp g x).cu = s.cu := rfl
@[simp] theorem setGrp_kw (s : State) (g : Nat) (x : GrpSt) : (s.setGrp g x).kw = s.kw := rfl
@[simp] theorem setGrp_md (s : State) (g : Nat) (x : GrpSt) : (s.setGrp g x).md = s.md := rfl
@[simp] theorem setGrp_fab (s : State) (g : Nat) (x : GrpSt) : (s.setGrp g x).fab = s.fab := rfl
@[simp] theorem setGrp_lanes (s : State) (g : Nat) (x : GrpSt) : (s.setGrp g x).lanes = s.lanes := rfl
@[simp] theorem setGrp_spares (s : State) (g : Nat) (x : GrpSt) : (s.setGrp g x).spares = s.spares := rfl
@[simp] theorem setGrp_frs (s : State) (g : Nat) (x : GrpSt) : (s.setGrp g x).frs = s.frs := rfl
@[simp] theorem setGrp_gfps (s : State) (g : Nat) (x : GrpSt) : (s.setGrp g x).gfps = s.gfps := rfl
@[simp] theorem setGrp_pairs (s : State) (g : Nat) (x : GrpSt) : (s.setGrp g x).pairs = s.pairs := rfl
@[simp] theorem setGrp_ohs (s : State) (g : Nat) (x : GrpSt) : (s.setGrp g x).ohs = s.ohs := rfl
@[simp] theorem setGrp_chs (s : State) (g : Nat) (x : GrpSt) : (s.setGrp g x).chs = s.chs := rfl
@[simp] theorem setGrp_rxs (s : State) (g : Nat) (x : GrpSt) : (s.setGrp g x).rxs = s.rxs := rfl
@[simp] theorem setGrp_txs (s : State) (g : Nat) (x : GrpSt) : (s.setGrp g x).txs = s.txs := rfl
@[simp] theorem setGrp_nextFr (s : State) (g : Nat) (x : GrpSt) : (s.setGrp g x).nextFr = s.nextFr := rfl
@[simp] theorem setGrp_qs (s : State) (g : Nat) (x : GrpSt) : (s.setGrp g x).qs = s.qs := rfl
@[simp] theorem setGrp_shaps (s : State) (g : Nat) (x : GrpSt) : (s.setGrp g x).shaps = s.shaps := rfl
@[simp] theorem setGrp_nodes (s : State) (g : Nat) (x : GrpSt) : (s.setGrp g x).nodes = s.nodes := rfl
@[simp] theorem setGrp_vtime (s : State) (g : Nat) (x : GrpSt) : (s.setGrp g x).vtime = s.vtime := rfl
@[simp] theorem setGrp_fb (s : State) (g : Nat) (x : GrpSt) : (s.setGrp g x).fb = s.fb := rfl
@[simp] theorem setGrp_tbl (s : State) (g : Nat) (x : GrpSt) : (s.setGrp g x).tbl = s.tbl := rfl
@[simp] theorem setGrp_meters (s : State) (g : Nat) (x : GrpSt) : (s.setGrp g x).meters = s.meters := rfl
@[simp] theorem setGrp_ctxs (s : State) (g : Nat) (x : GrpSt) : (s.setGrp g x).ctxs = s.ctxs := rfl
@[simp] theorem setGrp_ring (s : State) (g : Nat) (x : GrpSt) : (s.setGrp g x).ring = s.ring := rfl
@[simp] theorem setGrp_led (s : State) (g : Nat) (x : GrpSt) : (s.setGrp g x).led = s.led := rfl
@[simp] theorem setGrp_sv (s : State) (g : Nat) (x : GrpSt) : (s.setGrp g x).sv = s.sv := rfl
@[simp] theorem setGrp_pw (s : State) (g : Nat) (x : GrpSt) : (s.setGrp g x).pw = s.pw := rfl
@[simp] theorem setGrp_rd (s : State) (g : Nat) (x : GrpSt) (f : Fld) : (s.setGrp g x).rd f = s.rd f := rfl

/-! ## `setGfp` changes `gfps` alone -/

@[simp] theorem setGfp_pending (s : State) (c : Nat) (x : GfpSt) : (s.setGfp c x).pending = s.pending := rfl
@[simp] theorem setGfp_flds (s : State) (c : Nat) (x : GfpSt) : (s.setGfp c x).flds = s.flds := rfl
@[simp] theorem setGfp_latch (s : State) (c : Nat) (x : GfpSt) : (s.setGfp c x).latch = s.latch := rfl
@[simp] theorem setGfp_transit (s : State) (c : Nat) (x : GfpSt) : (s.setGfp c x).transit = s.transit := rfl
@[simp] theorem setGfp_sp (s : State) (c : Nat) (x : GfpSt) : (s.setGfp c x).sp = s.sp := rfl
@[simp] theorem setGfp_free (s : State) (c : Nat) (x : GfpSt) : (s.setGfp c x).free = s.free := rfl
@[simp] theorem setGfp_sys (s : State) (c : Nat) (x : GfpSt) : (s.setGfp c x).sys = s.sys := rfl
@[simp] theorem setGfp_tm (s : State) (c : Nat) (x : GfpSt) : (s.setGfp c x).tm = s.tm := rfl
@[simp] theorem setGfp_ny (s : State) (c : Nat) (x : GfpSt) : (s.setGfp c x).ny = s.ny := rfl
@[simp] theorem setGfp_cc (s : State) (c : Nat) (x : GfpSt) : (s.setGfp c x).cc = s.cc := rfl
@[simp] theorem setGfp_hub (s : State) (c : Nat) (x : GfpSt) : (s.setGfp c x).hub = s.hub := rfl
@[simp] theorem setGfp_cu (s : State) (c : Nat) (x : GfpSt) : (s.setGfp c x).cu = s.cu := rfl
@[simp] theorem setGfp_kw (s : State) (c : Nat) (x : GfpSt) : (s.setGfp c x).kw = s.kw := rfl
@[simp] theorem setGfp_md (s : State) (c : Nat) (x : GfpSt) : (s.setGfp c x).md = s.md := rfl
@[simp] theorem setGfp_fab (s : State) (c : Nat) (x : GfpSt) : (s.setGfp c x).fab = s.fab := rfl
@[simp] theorem setGfp_lanes (s : State) (c : Nat) (x : GfpSt) : (s.setGfp c x).lanes = s.lanes := rfl
@[simp] theorem setGfp_spares (s : State) (c : Nat) (x : GfpSt) : (s.setGfp c x).spares = s.spares := rfl
@[simp] theorem setGfp_frs (s : State) (c : Nat) (x : GfpSt) : (s.setGfp c x).frs = s.frs := rfl
@[simp] theorem setGfp_grps (s : State) (c : Nat) (x : GfpSt) : (s.setGfp c x).grps = s.grps := rfl
@[simp] theorem setGfp_pairs (s : State) (c : Nat) (x : GfpSt) : (s.setGfp c x).pairs = s.pairs := rfl
@[simp] theorem setGfp_ohs (s : State) (c : Nat) (x : GfpSt) : (s.setGfp c x).ohs = s.ohs := rfl
@[simp] theorem setGfp_chs (s : State) (c : Nat) (x : GfpSt) : (s.setGfp c x).chs = s.chs := rfl
@[simp] theorem setGfp_rxs (s : State) (c : Nat) (x : GfpSt) : (s.setGfp c x).rxs = s.rxs := rfl
@[simp] theorem setGfp_txs (s : State) (c : Nat) (x : GfpSt) : (s.setGfp c x).txs = s.txs := rfl
@[simp] theorem setGfp_nextFr (s : State) (c : Nat) (x : GfpSt) : (s.setGfp c x).nextFr = s.nextFr := rfl
@[simp] theorem setGfp_qs (s : State) (c : Nat) (x : GfpSt) : (s.setGfp c x).qs = s.qs := rfl
@[simp] theorem setGfp_shaps (s : State) (c : Nat) (x : GfpSt) : (s.setGfp c x).shaps = s.shaps := rfl
@[simp] theorem setGfp_nodes (s : State) (c : Nat) (x : GfpSt) : (s.setGfp c x).nodes = s.nodes := rfl
@[simp] theorem setGfp_vtime (s : State) (c : Nat) (x : GfpSt) : (s.setGfp c x).vtime = s.vtime := rfl
@[simp] theorem setGfp_fb (s : State) (c : Nat) (x : GfpSt) : (s.setGfp c x).fb = s.fb := rfl
@[simp] theorem setGfp_tbl (s : State) (c : Nat) (x : GfpSt) : (s.setGfp c x).tbl = s.tbl := rfl
@[simp] theorem setGfp_meters (s : State) (c : Nat) (x : GfpSt) : (s.setGfp c x).meters = s.meters := rfl
@[simp] theorem setGfp_ctxs (s : State) (c : Nat) (x : GfpSt) : (s.setGfp c x).ctxs = s.ctxs := rfl
@[simp] theorem setGfp_ring (s : State) (c : Nat) (x : GfpSt) : (s.setGfp c x).ring = s.ring := rfl
@[simp] theorem setGfp_led (s : State) (c : Nat) (x : GfpSt) : (s.setGfp c x).led = s.led := rfl
@[simp] theorem setGfp_sv (s : State) (c : Nat) (x : GfpSt) : (s.setGfp c x).sv = s.sv := rfl
@[simp] theorem setGfp_pw (s : State) (c : Nat) (x : GfpSt) : (s.setGfp c x).pw = s.pw := rfl
@[simp] theorem setGfp_rd (s : State) (c : Nat) (x : GfpSt) (f : Fld) : (s.setGfp c x).rd f = s.rd f := rfl

/-! ## `setPair` changes `pairs` alone -/

@[simp] theorem setPair_pending (s : State) (k : Nat) (x : PairSt) : (s.setPair k x).pending = s.pending := rfl
@[simp] theorem setPair_flds (s : State) (k : Nat) (x : PairSt) : (s.setPair k x).flds = s.flds := rfl
@[simp] theorem setPair_latch (s : State) (k : Nat) (x : PairSt) : (s.setPair k x).latch = s.latch := rfl
@[simp] theorem setPair_transit (s : State) (k : Nat) (x : PairSt) : (s.setPair k x).transit = s.transit := rfl
@[simp] theorem setPair_sp (s : State) (k : Nat) (x : PairSt) : (s.setPair k x).sp = s.sp := rfl
@[simp] theorem setPair_free (s : State) (k : Nat) (x : PairSt) : (s.setPair k x).free = s.free := rfl
@[simp] theorem setPair_sys (s : State) (k : Nat) (x : PairSt) : (s.setPair k x).sys = s.sys := rfl
@[simp] theorem setPair_tm (s : State) (k : Nat) (x : PairSt) : (s.setPair k x).tm = s.tm := rfl
@[simp] theorem setPair_ny (s : State) (k : Nat) (x : PairSt) : (s.setPair k x).ny = s.ny := rfl
@[simp] theorem setPair_cc (s : State) (k : Nat) (x : PairSt) : (s.setPair k x).cc = s.cc := rfl
@[simp] theorem setPair_hub (s : State) (k : Nat) (x : PairSt) : (s.setPair k x).hub = s.hub := rfl
@[simp] theorem setPair_cu (s : State) (k : Nat) (x : PairSt) : (s.setPair k x).cu = s.cu := rfl
@[simp] theorem setPair_kw (s : State) (k : Nat) (x : PairSt) : (s.setPair k x).kw = s.kw := rfl
@[simp] theorem setPair_md (s : State) (k : Nat) (x : PairSt) : (s.setPair k x).md = s.md := rfl
@[simp] theorem setPair_fab (s : State) (k : Nat) (x : PairSt) : (s.setPair k x).fab = s.fab := rfl
@[simp] theorem setPair_lanes (s : State) (k : Nat) (x : PairSt) : (s.setPair k x).lanes = s.lanes := rfl
@[simp] theorem setPair_spares (s : State) (k : Nat) (x : PairSt) : (s.setPair k x).spares = s.spares := rfl
@[simp] theorem setPair_frs (s : State) (k : Nat) (x : PairSt) : (s.setPair k x).frs = s.frs := rfl
@[simp] theorem setPair_grps (s : State) (k : Nat) (x : PairSt) : (s.setPair k x).grps = s.grps := rfl
@[simp] theorem setPair_gfps (s : State) (k : Nat) (x : PairSt) : (s.setPair k x).gfps = s.gfps := rfl
@[simp] theorem setPair_ohs (s : State) (k : Nat) (x : PairSt) : (s.setPair k x).ohs = s.ohs := rfl
@[simp] theorem setPair_chs (s : State) (k : Nat) (x : PairSt) : (s.setPair k x).chs = s.chs := rfl
@[simp] theorem setPair_rxs (s : State) (k : Nat) (x : PairSt) : (s.setPair k x).rxs = s.rxs := rfl
@[simp] theorem setPair_txs (s : State) (k : Nat) (x : PairSt) : (s.setPair k x).txs = s.txs := rfl
@[simp] theorem setPair_nextFr (s : State) (k : Nat) (x : PairSt) : (s.setPair k x).nextFr = s.nextFr := rfl
@[simp] theorem setPair_qs (s : State) (k : Nat) (x : PairSt) : (s.setPair k x).qs = s.qs := rfl
@[simp] theorem setPair_shaps (s : State) (k : Nat) (x : PairSt) : (s.setPair k x).shaps = s.shaps := rfl
@[simp] theorem setPair_nodes (s : State) (k : Nat) (x : PairSt) : (s.setPair k x).nodes = s.nodes := rfl
@[simp] theorem setPair_vtime (s : State) (k : Nat) (x : PairSt) : (s.setPair k x).vtime = s.vtime := rfl
@[simp] theorem setPair_fb (s : State) (k : Nat) (x : PairSt) : (s.setPair k x).fb = s.fb := rfl
@[simp] theorem setPair_tbl (s : State) (k : Nat) (x : PairSt) : (s.setPair k x).tbl = s.tbl := rfl
@[simp] theorem setPair_meters (s : State) (k : Nat) (x : PairSt) : (s.setPair k x).meters = s.meters := rfl
@[simp] theorem setPair_ctxs (s : State) (k : Nat) (x : PairSt) : (s.setPair k x).ctxs = s.ctxs := rfl
@[simp] theorem setPair_ring (s : State) (k : Nat) (x : PairSt) : (s.setPair k x).ring = s.ring := rfl
@[simp] theorem setPair_led (s : State) (k : Nat) (x : PairSt) : (s.setPair k x).led = s.led := rfl
@[simp] theorem setPair_sv (s : State) (k : Nat) (x : PairSt) : (s.setPair k x).sv = s.sv := rfl
@[simp] theorem setPair_pw (s : State) (k : Nat) (x : PairSt) : (s.setPair k x).pw = s.pw := rfl
@[simp] theorem setPair_rd (s : State) (k : Nat) (x : PairSt) (f : Fld) : (s.setPair k x).rd f = s.rd f := rfl

/-! ## `setOh` changes `ohs` alone -/

@[simp] theorem setOh_pending (s : State) (k : Nat) (x : OhSt) : (s.setOh k x).pending = s.pending := rfl
@[simp] theorem setOh_flds (s : State) (k : Nat) (x : OhSt) : (s.setOh k x).flds = s.flds := rfl
@[simp] theorem setOh_latch (s : State) (k : Nat) (x : OhSt) : (s.setOh k x).latch = s.latch := rfl
@[simp] theorem setOh_transit (s : State) (k : Nat) (x : OhSt) : (s.setOh k x).transit = s.transit := rfl
@[simp] theorem setOh_sp (s : State) (k : Nat) (x : OhSt) : (s.setOh k x).sp = s.sp := rfl
@[simp] theorem setOh_free (s : State) (k : Nat) (x : OhSt) : (s.setOh k x).free = s.free := rfl
@[simp] theorem setOh_sys (s : State) (k : Nat) (x : OhSt) : (s.setOh k x).sys = s.sys := rfl
@[simp] theorem setOh_tm (s : State) (k : Nat) (x : OhSt) : (s.setOh k x).tm = s.tm := rfl
@[simp] theorem setOh_ny (s : State) (k : Nat) (x : OhSt) : (s.setOh k x).ny = s.ny := rfl
@[simp] theorem setOh_cc (s : State) (k : Nat) (x : OhSt) : (s.setOh k x).cc = s.cc := rfl
@[simp] theorem setOh_hub (s : State) (k : Nat) (x : OhSt) : (s.setOh k x).hub = s.hub := rfl
@[simp] theorem setOh_cu (s : State) (k : Nat) (x : OhSt) : (s.setOh k x).cu = s.cu := rfl
@[simp] theorem setOh_kw (s : State) (k : Nat) (x : OhSt) : (s.setOh k x).kw = s.kw := rfl
@[simp] theorem setOh_md (s : State) (k : Nat) (x : OhSt) : (s.setOh k x).md = s.md := rfl
@[simp] theorem setOh_fab (s : State) (k : Nat) (x : OhSt) : (s.setOh k x).fab = s.fab := rfl
@[simp] theorem setOh_lanes (s : State) (k : Nat) (x : OhSt) : (s.setOh k x).lanes = s.lanes := rfl
@[simp] theorem setOh_spares (s : State) (k : Nat) (x : OhSt) : (s.setOh k x).spares = s.spares := rfl
@[simp] theorem setOh_frs (s : State) (k : Nat) (x : OhSt) : (s.setOh k x).frs = s.frs := rfl
@[simp] theorem setOh_grps (s : State) (k : Nat) (x : OhSt) : (s.setOh k x).grps = s.grps := rfl
@[simp] theorem setOh_gfps (s : State) (k : Nat) (x : OhSt) : (s.setOh k x).gfps = s.gfps := rfl
@[simp] theorem setOh_pairs (s : State) (k : Nat) (x : OhSt) : (s.setOh k x).pairs = s.pairs := rfl
@[simp] theorem setOh_chs (s : State) (k : Nat) (x : OhSt) : (s.setOh k x).chs = s.chs := rfl
@[simp] theorem setOh_rxs (s : State) (k : Nat) (x : OhSt) : (s.setOh k x).rxs = s.rxs := rfl
@[simp] theorem setOh_txs (s : State) (k : Nat) (x : OhSt) : (s.setOh k x).txs = s.txs := rfl
@[simp] theorem setOh_nextFr (s : State) (k : Nat) (x : OhSt) : (s.setOh k x).nextFr = s.nextFr := rfl
@[simp] theorem setOh_qs (s : State) (k : Nat) (x : OhSt) : (s.setOh k x).qs = s.qs := rfl
@[simp] theorem setOh_shaps (s : State) (k : Nat) (x : OhSt) : (s.setOh k x).shaps = s.shaps := rfl
@[simp] theorem setOh_nodes (s : State) (k : Nat) (x : OhSt) : (s.setOh k x).nodes = s.nodes := rfl
@[simp] theorem setOh_vtime (s : State) (k : Nat) (x : OhSt) : (s.setOh k x).vtime = s.vtime := rfl
@[simp] theorem setOh_fb (s : State) (k : Nat) (x : OhSt) : (s.setOh k x).fb = s.fb := rfl
@[simp] theorem setOh_tbl (s : State) (k : Nat) (x : OhSt) : (s.setOh k x).tbl = s.tbl := rfl
@[simp] theorem setOh_meters (s : State) (k : Nat) (x : OhSt) : (s.setOh k x).meters = s.meters := rfl
@[simp] theorem setOh_ctxs (s : State) (k : Nat) (x : OhSt) : (s.setOh k x).ctxs = s.ctxs := rfl
@[simp] theorem setOh_ring (s : State) (k : Nat) (x : OhSt) : (s.setOh k x).ring = s.ring := rfl
@[simp] theorem setOh_led (s : State) (k : Nat) (x : OhSt) : (s.setOh k x).led = s.led := rfl
@[simp] theorem setOh_sv (s : State) (k : Nat) (x : OhSt) : (s.setOh k x).sv = s.sv := rfl
@[simp] theorem setOh_pw (s : State) (k : Nat) (x : OhSt) : (s.setOh k x).pw = s.pw := rfl
@[simp] theorem setOh_rd (s : State) (k : Nat) (x : OhSt) (f : Fld) : (s.setOh k x).rd f = s.rd f := rfl

/-! ## `setSpare` changes `spares` alone -/

@[simp] theorem setSpare_pending (s : State) (p : Nat) (x : SpareSt) : (s.setSpare p x).pending = s.pending := rfl
@[simp] theorem setSpare_flds (s : State) (p : Nat) (x : SpareSt) : (s.setSpare p x).flds = s.flds := rfl
@[simp] theorem setSpare_latch (s : State) (p : Nat) (x : SpareSt) : (s.setSpare p x).latch = s.latch := rfl
@[simp] theorem setSpare_transit (s : State) (p : Nat) (x : SpareSt) : (s.setSpare p x).transit = s.transit := rfl
@[simp] theorem setSpare_sp (s : State) (p : Nat) (x : SpareSt) : (s.setSpare p x).sp = s.sp := rfl
@[simp] theorem setSpare_free (s : State) (p : Nat) (x : SpareSt) : (s.setSpare p x).free = s.free := rfl
@[simp] theorem setSpare_sys (s : State) (p : Nat) (x : SpareSt) : (s.setSpare p x).sys = s.sys := rfl
@[simp] theorem setSpare_tm (s : State) (p : Nat) (x : SpareSt) : (s.setSpare p x).tm = s.tm := rfl
@[simp] theorem setSpare_ny (s : State) (p : Nat) (x : SpareSt) : (s.setSpare p x).ny = s.ny := rfl
@[simp] theorem setSpare_cc (s : State) (p : Nat) (x : SpareSt) : (s.setSpare p x).cc = s.cc := rfl
@[simp] theorem setSpare_hub (s : State) (p : Nat) (x : SpareSt) : (s.setSpare p x).hub = s.hub := rfl
@[simp] theorem setSpare_cu (s : State) (p : Nat) (x : SpareSt) : (s.setSpare p x).cu = s.cu := rfl
@[simp] theorem setSpare_kw (s : State) (p : Nat) (x : SpareSt) : (s.setSpare p x).kw = s.kw := rfl
@[simp] theorem setSpare_md (s : State) (p : Nat) (x : SpareSt) : (s.setSpare p x).md = s.md := rfl
@[simp] theorem setSpare_fab (s : State) (p : Nat) (x : SpareSt) : (s.setSpare p x).fab = s.fab := rfl
@[simp] theorem setSpare_lanes (s : State) (p : Nat) (x : SpareSt) : (s.setSpare p x).lanes = s.lanes := rfl
@[simp] theorem setSpare_frs (s : State) (p : Nat) (x : SpareSt) : (s.setSpare p x).frs = s.frs := rfl
@[simp] theorem setSpare_grps (s : State) (p : Nat) (x : SpareSt) : (s.setSpare p x).grps = s.grps := rfl
@[simp] theorem setSpare_gfps (s : State) (p : Nat) (x : SpareSt) : (s.setSpare p x).gfps = s.gfps := rfl
@[simp] theorem setSpare_pairs (s : State) (p : Nat) (x : SpareSt) : (s.setSpare p x).pairs = s.pairs := rfl
@[simp] theorem setSpare_ohs (s : State) (p : Nat) (x : SpareSt) : (s.setSpare p x).ohs = s.ohs := rfl
@[simp] theorem setSpare_chs (s : State) (p : Nat) (x : SpareSt) : (s.setSpare p x).chs = s.chs := rfl
@[simp] theorem setSpare_rxs (s : State) (p : Nat) (x : SpareSt) : (s.setSpare p x).rxs = s.rxs := rfl
@[simp] theorem setSpare_txs (s : State) (p : Nat) (x : SpareSt) : (s.setSpare p x).txs = s.txs := rfl
@[simp] theorem setSpare_nextFr (s : State) (p : Nat) (x : SpareSt) : (s.setSpare p x).nextFr = s.nextFr := rfl
@[simp] theorem setSpare_qs (s : State) (p : Nat) (x : SpareSt) : (s.setSpare p x).qs = s.qs := rfl
@[simp] theorem setSpare_shaps (s : State) (p : Nat) (x : SpareSt) : (s.setSpare p x).shaps = s.shaps := rfl
@[simp] theorem setSpare_nodes (s : State) (p : Nat) (x : SpareSt) : (s.setSpare p x).nodes = s.nodes := rfl
@[simp] theorem setSpare_vtime (s : State) (p : Nat) (x : SpareSt) : (s.setSpare p x).vtime = s.vtime := rfl
@[simp] theorem setSpare_fb (s : State) (p : Nat) (x : SpareSt) : (s.setSpare p x).fb = s.fb := rfl
@[simp] theorem setSpare_tbl (s : State) (p : Nat) (x : SpareSt) : (s.setSpare p x).tbl = s.tbl := rfl
@[simp] theorem setSpare_meters (s : State) (p : Nat) (x : SpareSt) : (s.setSpare p x).meters = s.meters := rfl
@[simp] theorem setSpare_ctxs (s : State) (p : Nat) (x : SpareSt) : (s.setSpare p x).ctxs = s.ctxs := rfl
@[simp] theorem setSpare_ring (s : State) (p : Nat) (x : SpareSt) : (s.setSpare p x).ring = s.ring := rfl
@[simp] theorem setSpare_led (s : State) (p : Nat) (x : SpareSt) : (s.setSpare p x).led = s.led := rfl
@[simp] theorem setSpare_sv (s : State) (p : Nat) (x : SpareSt) : (s.setSpare p x).sv = s.sv := rfl
@[simp] theorem setSpare_pw (s : State) (p : Nat) (x : SpareSt) : (s.setSpare p x).pw = s.pw := rfl
@[simp] theorem setSpare_rd (s : State) (p : Nat) (x : SpareSt) (f : Fld) : (s.setSpare p x).rd f = s.rd f := rfl

/-! ## `setMeter` changes `meters` alone -/

@[simp] theorem setMeter_pending (s : State) (i : Nat) (x : MeterSt) : (s.setMeter i x).pending = s.pending := rfl
@[simp] theorem setMeter_flds (s : State) (i : Nat) (x : MeterSt) : (s.setMeter i x).flds = s.flds := rfl
@[simp] theorem setMeter_latch (s : State) (i : Nat) (x : MeterSt) : (s.setMeter i x).latch = s.latch := rfl
@[simp] theorem setMeter_transit (s : State) (i : Nat) (x : MeterSt) : (s.setMeter i x).transit = s.transit := rfl
@[simp] theorem setMeter_sp (s : State) (i : Nat) (x : MeterSt) : (s.setMeter i x).sp = s.sp := rfl
@[simp] theorem setMeter_free (s : State) (i : Nat) (x : MeterSt) : (s.setMeter i x).free = s.free := rfl
@[simp] theorem setMeter_sys (s : State) (i : Nat) (x : MeterSt) : (s.setMeter i x).sys = s.sys := rfl
@[simp] theorem setMeter_tm (s : State) (i : Nat) (x : MeterSt) : (s.setMeter i x).tm = s.tm := rfl
@[simp] theorem setMeter_ny (s : State) (i : Nat) (x : MeterSt) : (s.setMeter i x).ny = s.ny := rfl
@[simp] theorem setMeter_cc (s : State) (i : Nat) (x : MeterSt) : (s.setMeter i x).cc = s.cc := rfl
@[simp] theorem setMeter_hub (s : State) (i : Nat) (x : MeterSt) : (s.setMeter i x).hub = s.hub := rfl
@[simp] theorem setMeter_cu (s : State) (i : Nat) (x : MeterSt) : (s.setMeter i x).cu = s.cu := rfl
@[simp] theorem setMeter_kw (s : State) (i : Nat) (x : MeterSt) : (s.setMeter i x).kw = s.kw := rfl
@[simp] theorem setMeter_md (s : State) (i : Nat) (x : MeterSt) : (s.setMeter i x).md = s.md := rfl
@[simp] theorem setMeter_fab (s : State) (i : Nat) (x : MeterSt) : (s.setMeter i x).fab = s.fab := rfl
@[simp] theorem setMeter_lanes (s : State) (i : Nat) (x : MeterSt) : (s.setMeter i x).lanes = s.lanes := rfl
@[simp] theorem setMeter_spares (s : State) (i : Nat) (x : MeterSt) : (s.setMeter i x).spares = s.spares := rfl
@[simp] theorem setMeter_frs (s : State) (i : Nat) (x : MeterSt) : (s.setMeter i x).frs = s.frs := rfl
@[simp] theorem setMeter_grps (s : State) (i : Nat) (x : MeterSt) : (s.setMeter i x).grps = s.grps := rfl
@[simp] theorem setMeter_gfps (s : State) (i : Nat) (x : MeterSt) : (s.setMeter i x).gfps = s.gfps := rfl
@[simp] theorem setMeter_pairs (s : State) (i : Nat) (x : MeterSt) : (s.setMeter i x).pairs = s.pairs := rfl
@[simp] theorem setMeter_ohs (s : State) (i : Nat) (x : MeterSt) : (s.setMeter i x).ohs = s.ohs := rfl
@[simp] theorem setMeter_chs (s : State) (i : Nat) (x : MeterSt) : (s.setMeter i x).chs = s.chs := rfl
@[simp] theorem setMeter_rxs (s : State) (i : Nat) (x : MeterSt) : (s.setMeter i x).rxs = s.rxs := rfl
@[simp] theorem setMeter_txs (s : State) (i : Nat) (x : MeterSt) : (s.setMeter i x).txs = s.txs := rfl
@[simp] theorem setMeter_nextFr (s : State) (i : Nat) (x : MeterSt) : (s.setMeter i x).nextFr = s.nextFr := rfl
@[simp] theorem setMeter_qs (s : State) (i : Nat) (x : MeterSt) : (s.setMeter i x).qs = s.qs := rfl
@[simp] theorem setMeter_shaps (s : State) (i : Nat) (x : MeterSt) : (s.setMeter i x).shaps = s.shaps := rfl
@[simp] theorem setMeter_nodes (s : State) (i : Nat) (x : MeterSt) : (s.setMeter i x).nodes = s.nodes := rfl
@[simp] theorem setMeter_vtime (s : State) (i : Nat) (x : MeterSt) : (s.setMeter i x).vtime = s.vtime := rfl
@[simp] theorem setMeter_fb (s : State) (i : Nat) (x : MeterSt) : (s.setMeter i x).fb = s.fb := rfl
@[simp] theorem setMeter_tbl (s : State) (i : Nat) (x : MeterSt) : (s.setMeter i x).tbl = s.tbl := rfl
@[simp] theorem setMeter_ctxs (s : State) (i : Nat) (x : MeterSt) : (s.setMeter i x).ctxs = s.ctxs := rfl
@[simp] theorem setMeter_ring (s : State) (i : Nat) (x : MeterSt) : (s.setMeter i x).ring = s.ring := rfl
@[simp] theorem setMeter_led (s : State) (i : Nat) (x : MeterSt) : (s.setMeter i x).led = s.led := rfl
@[simp] theorem setMeter_sv (s : State) (i : Nat) (x : MeterSt) : (s.setMeter i x).sv = s.sv := rfl
@[simp] theorem setMeter_pw (s : State) (i : Nat) (x : MeterSt) : (s.setMeter i x).pw = s.pw := rfl
@[simp] theorem setMeter_rd (s : State) (i : Nat) (x : MeterSt) (f : Fld) : (s.setMeter i x).rd f = s.rd f := rfl

/-! ## `setMd` changes `md` alone -/

@[simp] theorem setMd_pending (s : State) (ch : Nat) (x : MdCh) : (s.setMd ch x).pending = s.pending := rfl
@[simp] theorem setMd_flds (s : State) (ch : Nat) (x : MdCh) : (s.setMd ch x).flds = s.flds := rfl
@[simp] theorem setMd_latch (s : State) (ch : Nat) (x : MdCh) : (s.setMd ch x).latch = s.latch := rfl
@[simp] theorem setMd_transit (s : State) (ch : Nat) (x : MdCh) : (s.setMd ch x).transit = s.transit := rfl
@[simp] theorem setMd_sp (s : State) (ch : Nat) (x : MdCh) : (s.setMd ch x).sp = s.sp := rfl
@[simp] theorem setMd_free (s : State) (ch : Nat) (x : MdCh) : (s.setMd ch x).free = s.free := rfl
@[simp] theorem setMd_sys (s : State) (ch : Nat) (x : MdCh) : (s.setMd ch x).sys = s.sys := rfl
@[simp] theorem setMd_tm (s : State) (ch : Nat) (x : MdCh) : (s.setMd ch x).tm = s.tm := rfl
@[simp] theorem setMd_ny (s : State) (ch : Nat) (x : MdCh) : (s.setMd ch x).ny = s.ny := rfl
@[simp] theorem setMd_cc (s : State) (ch : Nat) (x : MdCh) : (s.setMd ch x).cc = s.cc := rfl
@[simp] theorem setMd_hub (s : State) (ch : Nat) (x : MdCh) : (s.setMd ch x).hub = s.hub := rfl
@[simp] theorem setMd_cu (s : State) (ch : Nat) (x : MdCh) : (s.setMd ch x).cu = s.cu := rfl
@[simp] theorem setMd_kw (s : State) (ch : Nat) (x : MdCh) : (s.setMd ch x).kw = s.kw := rfl
@[simp] theorem setMd_fab (s : State) (ch : Nat) (x : MdCh) : (s.setMd ch x).fab = s.fab := rfl
@[simp] theorem setMd_lanes (s : State) (ch : Nat) (x : MdCh) : (s.setMd ch x).lanes = s.lanes := rfl
@[simp] theorem setMd_spares (s : State) (ch : Nat) (x : MdCh) : (s.setMd ch x).spares = s.spares := rfl
@[simp] theorem setMd_frs (s : State) (ch : Nat) (x : MdCh) : (s.setMd ch x).frs = s.frs := rfl
@[simp] theorem setMd_grps (s : State) (ch : Nat) (x : MdCh) : (s.setMd ch x).grps = s.grps := rfl
@[simp] theorem setMd_gfps (s : State) (ch : Nat) (x : MdCh) : (s.setMd ch x).gfps = s.gfps := rfl
@[simp] theorem setMd_pairs (s : State) (ch : Nat) (x : MdCh) : (s.setMd ch x).pairs = s.pairs := rfl
@[simp] theorem setMd_ohs (s : State) (ch : Nat) (x : MdCh) : (s.setMd ch x).ohs = s.ohs := rfl
@[simp] theorem setMd_chs (s : State) (ch : Nat) (x : MdCh) : (s.setMd ch x).chs = s.chs := rfl
@[simp] theorem setMd_rxs (s : State) (ch : Nat) (x : MdCh) : (s.setMd ch x).rxs = s.rxs := rfl
@[simp] theorem setMd_txs (s : State) (ch : Nat) (x : MdCh) : (s.setMd ch x).txs = s.txs := rfl
@[simp] theorem setMd_nextFr (s : State) (ch : Nat) (x : MdCh) : (s.setMd ch x).nextFr = s.nextFr := rfl
@[simp] theorem setMd_qs (s : State) (ch : Nat) (x : MdCh) : (s.setMd ch x).qs = s.qs := rfl
@[simp] theorem setMd_shaps (s : State) (ch : Nat) (x : MdCh) : (s.setMd ch x).shaps = s.shaps := rfl
@[simp] theorem setMd_nodes (s : State) (ch : Nat) (x : MdCh) : (s.setMd ch x).nodes = s.nodes := rfl
@[simp] theorem setMd_vtime (s : State) (ch : Nat) (x : MdCh) : (s.setMd ch x).vtime = s.vtime := rfl
@[simp] theorem setMd_fb (s : State) (ch : Nat) (x : MdCh) : (s.setMd ch x).fb = s.fb := rfl
@[simp] theorem setMd_tbl (s : State) (ch : Nat) (x : MdCh) : (s.setMd ch x).tbl = s.tbl := rfl
@[simp] theorem setMd_meters (s : State) (ch : Nat) (x : MdCh) : (s.setMd ch x).meters = s.meters := rfl
@[simp] theorem setMd_ctxs (s : State) (ch : Nat) (x : MdCh) : (s.setMd ch x).ctxs = s.ctxs := rfl
@[simp] theorem setMd_ring (s : State) (ch : Nat) (x : MdCh) : (s.setMd ch x).ring = s.ring := rfl
@[simp] theorem setMd_led (s : State) (ch : Nat) (x : MdCh) : (s.setMd ch x).led = s.led := rfl
@[simp] theorem setMd_sv (s : State) (ch : Nat) (x : MdCh) : (s.setMd ch x).sv = s.sv := rfl
@[simp] theorem setMd_pw (s : State) (ch : Nat) (x : MdCh) : (s.setMd ch x).pw = s.pw := rfl
@[simp] theorem setMd_rd (s : State) (ch : Nat) (x : MdCh) (f : Fld) : (s.setMd ch x).rd f = s.rd f := rfl

/-! ## `setCu` changes `cu` alone -/

@[simp] theorem setCu_pending (s : State) (u : Nat) (x : CuSt) : (s.setCu u x).pending = s.pending := rfl
@[simp] theorem setCu_flds (s : State) (u : Nat) (x : CuSt) : (s.setCu u x).flds = s.flds := rfl
@[simp] theorem setCu_latch (s : State) (u : Nat) (x : CuSt) : (s.setCu u x).latch = s.latch := rfl
@[simp] theorem setCu_transit (s : State) (u : Nat) (x : CuSt) : (s.setCu u x).transit = s.transit := rfl
@[simp] theorem setCu_sp (s : State) (u : Nat) (x : CuSt) : (s.setCu u x).sp = s.sp := rfl
@[simp] theorem setCu_free (s : State) (u : Nat) (x : CuSt) : (s.setCu u x).free = s.free := rfl
@[simp] theorem setCu_sys (s : State) (u : Nat) (x : CuSt) : (s.setCu u x).sys = s.sys := rfl
@[simp] theorem setCu_tm (s : State) (u : Nat) (x : CuSt) : (s.setCu u x).tm = s.tm := rfl
@[simp] theorem setCu_ny (s : State) (u : Nat) (x : CuSt) : (s.setCu u x).ny = s.ny := rfl
@[simp] theorem setCu_cc (s : State) (u : Nat) (x : CuSt) : (s.setCu u x).cc = s.cc := rfl
@[simp] theorem setCu_hub (s : State) (u : Nat) (x : CuSt) : (s.setCu u x).hub = s.hub := rfl
@[simp] theorem setCu_kw (s : State) (u : Nat) (x : CuSt) : (s.setCu u x).kw = s.kw := rfl
@[simp] theorem setCu_md (s : State) (u : Nat) (x : CuSt) : (s.setCu u x).md = s.md := rfl
@[simp] theorem setCu_fab (s : State) (u : Nat) (x : CuSt) : (s.setCu u x).fab = s.fab := rfl
@[simp] theorem setCu_lanes (s : State) (u : Nat) (x : CuSt) : (s.setCu u x).lanes = s.lanes := rfl
@[simp] theorem setCu_spares (s : State) (u : Nat) (x : CuSt) : (s.setCu u x).spares = s.spares := rfl
@[simp] theorem setCu_frs (s : State) (u : Nat) (x : CuSt) : (s.setCu u x).frs = s.frs := rfl
@[simp] theorem setCu_grps (s : State) (u : Nat) (x : CuSt) : (s.setCu u x).grps = s.grps := rfl
@[simp] theorem setCu_gfps (s : State) (u : Nat) (x : CuSt) : (s.setCu u x).gfps = s.gfps := rfl
@[simp] theorem setCu_pairs (s : State) (u : Nat) (x : CuSt) : (s.setCu u x).pairs = s.pairs := rfl
@[simp] theorem setCu_ohs (s : State) (u : Nat) (x : CuSt) : (s.setCu u x).ohs = s.ohs := rfl
@[simp] theorem setCu_chs (s : State) (u : Nat) (x : CuSt) : (s.setCu u x).chs = s.chs := rfl
@[simp] theorem setCu_rxs (s : State) (u : Nat) (x : CuSt) : (s.setCu u x).rxs = s.rxs := rfl
@[simp] theorem setCu_txs (s : State) (u : Nat) (x : CuSt) : (s.setCu u x).txs = s.txs := rfl
@[simp] theorem setCu_nextFr (s : State) (u : Nat) (x : CuSt) : (s.setCu u x).nextFr = s.nextFr := rfl
@[simp] theorem setCu_qs (s : State) (u : Nat) (x : CuSt) : (s.setCu u x).qs = s.qs := rfl
@[simp] theorem setCu_shaps (s : State) (u : Nat) (x : CuSt) : (s.setCu u x).shaps = s.shaps := rfl
@[simp] theorem setCu_nodes (s : State) (u : Nat) (x : CuSt) : (s.setCu u x).nodes = s.nodes := rfl
@[simp] theorem setCu_vtime (s : State) (u : Nat) (x : CuSt) : (s.setCu u x).vtime = s.vtime := rfl
@[simp] theorem setCu_fb (s : State) (u : Nat) (x : CuSt) : (s.setCu u x).fb = s.fb := rfl
@[simp] theorem setCu_tbl (s : State) (u : Nat) (x : CuSt) : (s.setCu u x).tbl = s.tbl := rfl
@[simp] theorem setCu_meters (s : State) (u : Nat) (x : CuSt) : (s.setCu u x).meters = s.meters := rfl
@[simp] theorem setCu_ctxs (s : State) (u : Nat) (x : CuSt) : (s.setCu u x).ctxs = s.ctxs := rfl
@[simp] theorem setCu_ring (s : State) (u : Nat) (x : CuSt) : (s.setCu u x).ring = s.ring := rfl
@[simp] theorem setCu_led (s : State) (u : Nat) (x : CuSt) : (s.setCu u x).led = s.led := rfl
@[simp] theorem setCu_sv (s : State) (u : Nat) (x : CuSt) : (s.setCu u x).sv = s.sv := rfl
@[simp] theorem setCu_pw (s : State) (u : Nat) (x : CuSt) : (s.setCu u x).pw = s.pw := rfl
@[simp] theorem setCu_rd (s : State) (u : Nat) (x : CuSt) (f : Fld) : (s.setCu u x).rd f = s.rd f := rfl

/-! ## `setCtx` changes `ctxs` alone -/

@[simp] theorem setCtx_pending (s : State) (x : Nat) (c : CtxSt) : (s.setCtx x c).pending = s.pending := rfl
@[simp] theorem setCtx_flds (s : State) (x : Nat) (c : CtxSt) : (s.setCtx x c).flds = s.flds := rfl
@[simp] theorem setCtx_latch (s : State) (x : Nat) (c : CtxSt) : (s.setCtx x c).latch = s.latch := rfl
@[simp] theorem setCtx_transit (s : State) (x : Nat) (c : CtxSt) : (s.setCtx x c).transit = s.transit := rfl
@[simp] theorem setCtx_sp (s : State) (x : Nat) (c : CtxSt) : (s.setCtx x c).sp = s.sp := rfl
@[simp] theorem setCtx_free (s : State) (x : Nat) (c : CtxSt) : (s.setCtx x c).free = s.free := rfl
@[simp] theorem setCtx_sys (s : State) (x : Nat) (c : CtxSt) : (s.setCtx x c).sys = s.sys := rfl
@[simp] theorem setCtx_tm (s : State) (x : Nat) (c : CtxSt) : (s.setCtx x c).tm = s.tm := rfl
@[simp] theorem setCtx_ny (s : State) (x : Nat) (c : CtxSt) : (s.setCtx x c).ny = s.ny := rfl
@[simp] theorem setCtx_cc (s : State) (x : Nat) (c : CtxSt) : (s.setCtx x c).cc = s.cc := rfl
@[simp] theorem setCtx_hub (s : State) (x : Nat) (c : CtxSt) : (s.setCtx x c).hub = s.hub := rfl
@[simp] theorem setCtx_cu (s : State) (x : Nat) (c : CtxSt) : (s.setCtx x c).cu = s.cu := rfl
@[simp] theorem setCtx_kw (s : State) (x : Nat) (c : CtxSt) : (s.setCtx x c).kw = s.kw := rfl
@[simp] theorem setCtx_md (s : State) (x : Nat) (c : CtxSt) : (s.setCtx x c).md = s.md := rfl
@[simp] theorem setCtx_fab (s : State) (x : Nat) (c : CtxSt) : (s.setCtx x c).fab = s.fab := rfl
@[simp] theorem setCtx_lanes (s : State) (x : Nat) (c : CtxSt) : (s.setCtx x c).lanes = s.lanes := rfl
@[simp] theorem setCtx_spares (s : State) (x : Nat) (c : CtxSt) : (s.setCtx x c).spares = s.spares := rfl
@[simp] theorem setCtx_frs (s : State) (x : Nat) (c : CtxSt) : (s.setCtx x c).frs = s.frs := rfl
@[simp] theorem setCtx_grps (s : State) (x : Nat) (c : CtxSt) : (s.setCtx x c).grps = s.grps := rfl
@[simp] theorem setCtx_gfps (s : State) (x : Nat) (c : CtxSt) : (s.setCtx x c).gfps = s.gfps := rfl
@[simp] theorem setCtx_pairs (s : State) (x : Nat) (c : CtxSt) : (s.setCtx x c).pairs = s.pairs := rfl
@[simp] theorem setCtx_ohs (s : State) (x : Nat) (c : CtxSt) : (s.setCtx x c).ohs = s.ohs := rfl
@[simp] theorem setCtx_chs (s : State) (x : Nat) (c : CtxSt) : (s.setCtx x c).chs = s.chs := rfl
@[simp] theorem setCtx_rxs (s : State) (x : Nat) (c : CtxSt) : (s.setCtx x c).rxs = s.rxs := rfl
@[simp] theorem setCtx_txs (s : State) (x : Nat) (c : CtxSt) : (s.setCtx x c).txs = s.txs := rfl
@[simp] theorem setCtx_nextFr (s : State) (x : Nat) (c : CtxSt) : (s.setCtx x c).nextFr = s.nextFr := rfl
@[simp] theorem setCtx_qs (s : State) (x : Nat) (c : CtxSt) : (s.setCtx x c).qs = s.qs := rfl
@[simp] theorem setCtx_shaps (s : State) (x : Nat) (c : CtxSt) : (s.setCtx x c).shaps = s.shaps := rfl
@[simp] theorem setCtx_nodes (s : State) (x : Nat) (c : CtxSt) : (s.setCtx x c).nodes = s.nodes := rfl
@[simp] theorem setCtx_vtime (s : State) (x : Nat) (c : CtxSt) : (s.setCtx x c).vtime = s.vtime := rfl
@[simp] theorem setCtx_fb (s : State) (x : Nat) (c : CtxSt) : (s.setCtx x c).fb = s.fb := rfl
@[simp] theorem setCtx_tbl (s : State) (x : Nat) (c : CtxSt) : (s.setCtx x c).tbl = s.tbl := rfl
@[simp] theorem setCtx_meters (s : State) (x : Nat) (c : CtxSt) : (s.setCtx x c).meters = s.meters := rfl
@[simp] theorem setCtx_ring (s : State) (x : Nat) (c : CtxSt) : (s.setCtx x c).ring = s.ring := rfl
@[simp] theorem setCtx_led (s : State) (x : Nat) (c : CtxSt) : (s.setCtx x c).led = s.led := rfl
@[simp] theorem setCtx_sv (s : State) (x : Nat) (c : CtxSt) : (s.setCtx x c).sv = s.sv := rfl
@[simp] theorem setCtx_pw (s : State) (x : Nat) (c : CtxSt) : (s.setCtx x c).pw = s.pw := rfl
@[simp] theorem setCtx_rd (s : State) (x : Nat) (c : CtxSt) (f : Fld) : (s.setCtx x c).rd f = s.rd f := rfl

/-! ## `setQ` changes `qs` alone -/

@[simp] theorem setQ_pending (s : State) (k : Nat) (x : QSt) : (s.setQ k x).pending = s.pending := rfl
@[simp] theorem setQ_flds (s : State) (k : Nat) (x : QSt) : (s.setQ k x).flds = s.flds := rfl
@[simp] theorem setQ_latch (s : State) (k : Nat) (x : QSt) : (s.setQ k x).latch = s.latch := rfl
@[simp] theorem setQ_transit (s : State) (k : Nat) (x : QSt) : (s.setQ k x).transit = s.transit := rfl
@[simp] theorem setQ_sp (s : State) (k : Nat) (x : QSt) : (s.setQ k x).sp = s.sp := rfl
@[simp] theorem setQ_free (s : State) (k : Nat) (x : QSt) : (s.setQ k x).free = s.free := rfl
@[simp] theorem setQ_sys (s : State) (k : Nat) (x : QSt) : (s.setQ k x).sys = s.sys := rfl
@[simp] theorem setQ_tm (s : State) (k : Nat) (x : QSt) : (s.setQ k x).tm = s.tm := rfl
@[simp] theorem setQ_ny (s : State) (k : Nat) (x : QSt) : (s.setQ k x).ny = s.ny := rfl
@[simp] theorem setQ_cc (s : State) (k : Nat) (x : QSt) : (s.setQ k x).cc = s.cc := rfl
@[simp] theorem setQ_hub (s : State) (k : Nat) (x : QSt) : (s.setQ k x).hub = s.hub := rfl
@[simp] theorem setQ_cu (s : State) (k : Nat) (x : QSt) : (s.setQ k x).cu = s.cu := rfl
@[simp] theorem setQ_kw (s : State) (k : Nat) (x : QSt) : (s.setQ k x).kw = s.kw := rfl
@[simp] theorem setQ_md (s : State) (k : Nat) (x : QSt) : (s.setQ k x).md = s.md := rfl
@[simp] theorem setQ_fab (s : State) (k : Nat) (x : QSt) : (s.setQ k x).fab = s.fab := rfl
@[simp] theorem setQ_lanes (s : State) (k : Nat) (x : QSt) : (s.setQ k x).lanes = s.lanes := rfl
@[simp] theorem setQ_spares (s : State) (k : Nat) (x : QSt) : (s.setQ k x).spares = s.spares := rfl
@[simp] theorem setQ_frs (s : State) (k : Nat) (x : QSt) : (s.setQ k x).frs = s.frs := rfl
@[simp] theorem setQ_grps (s : State) (k : Nat) (x : QSt) : (s.setQ k x).grps = s.grps := rfl
@[simp] theorem setQ_gfps (s : State) (k : Nat) (x : QSt) : (s.setQ k x).gfps = s.gfps := rfl
@[simp] theorem setQ_pairs (s : State) (k : Nat) (x : QSt) : (s.setQ k x).pairs = s.pairs := rfl
@[simp] theorem setQ_ohs (s : State) (k : Nat) (x : QSt) : (s.setQ k x).ohs = s.ohs := rfl
@[simp] theorem setQ_chs (s : State) (k : Nat) (x : QSt) : (s.setQ k x).chs = s.chs := rfl
@[simp] theorem setQ_rxs (s : State) (k : Nat) (x : QSt) : (s.setQ k x).rxs = s.rxs := rfl
@[simp] theorem setQ_txs (s : State) (k : Nat) (x : QSt) : (s.setQ k x).txs = s.txs := rfl
@[simp] theorem setQ_nextFr (s : State) (k : Nat) (x : QSt) : (s.setQ k x).nextFr = s.nextFr := rfl
@[simp] theorem setQ_shaps (s : State) (k : Nat) (x : QSt) : (s.setQ k x).shaps = s.shaps := rfl
@[simp] theorem setQ_nodes (s : State) (k : Nat) (x : QSt) : (s.setQ k x).nodes = s.nodes := rfl
@[simp] theorem setQ_vtime (s : State) (k : Nat) (x : QSt) : (s.setQ k x).vtime = s.vtime := rfl
@[simp] theorem setQ_fb (s : State) (k : Nat) (x : QSt) : (s.setQ k x).fb = s.fb := rfl
@[simp] theorem setQ_tbl (s : State) (k : Nat) (x : QSt) : (s.setQ k x).tbl = s.tbl := rfl
@[simp] theorem setQ_meters (s : State) (k : Nat) (x : QSt) : (s.setQ k x).meters = s.meters := rfl
@[simp] theorem setQ_ctxs (s : State) (k : Nat) (x : QSt) : (s.setQ k x).ctxs = s.ctxs := rfl
@[simp] theorem setQ_ring (s : State) (k : Nat) (x : QSt) : (s.setQ k x).ring = s.ring := rfl
@[simp] theorem setQ_led (s : State) (k : Nat) (x : QSt) : (s.setQ k x).led = s.led := rfl
@[simp] theorem setQ_sv (s : State) (k : Nat) (x : QSt) : (s.setQ k x).sv = s.sv := rfl
@[simp] theorem setQ_pw (s : State) (k : Nat) (x : QSt) : (s.setQ k x).pw = s.pw := rfl
@[simp] theorem setQ_rd (s : State) (k : Nat) (x : QSt) (f : Fld) : (s.setQ k x).rd f = s.rd f := rfl

/-! ## `setRx` changes `rxs` alone -/

@[simp] theorem setRx_pending (s : State) (id : Nat) (f : RxFr) : (s.setRx id f).pending = s.pending := rfl
@[simp] theorem setRx_flds (s : State) (id : Nat) (f : RxFr) : (s.setRx id f).flds = s.flds := rfl
@[simp] theorem setRx_latch (s : State) (id : Nat) (f : RxFr) : (s.setRx id f).latch = s.latch := rfl
@[simp] theorem setRx_transit (s : State) (id : Nat) (f : RxFr) : (s.setRx id f).transit = s.transit := rfl
@[simp] theorem setRx_sp (s : State) (id : Nat) (f : RxFr) : (s.setRx id f).sp = s.sp := rfl
@[simp] theorem setRx_free (s : State) (id : Nat) (f : RxFr) : (s.setRx id f).free = s.free := rfl
@[simp] theorem setRx_sys (s : State) (id : Nat) (f : RxFr) : (s.setRx id f).sys = s.sys := rfl
@[simp] theorem setRx_tm (s : State) (id : Nat) (f : RxFr) : (s.setRx id f).tm = s.tm := rfl
@[simp] theorem setRx_ny (s : State) (id : Nat) (f : RxFr) : (s.setRx id f).ny = s.ny := rfl
@[simp] theorem setRx_cc (s : State) (id : Nat) (f : RxFr) : (s.setRx id f).cc = s.cc := rfl
@[simp] theorem setRx_hub (s : State) (id : Nat) (f : RxFr) : (s.setRx id f).hub = s.hub := rfl
@[simp] theorem setRx_cu (s : State) (id : Nat) (f : RxFr) : (s.setRx id f).cu = s.cu := rfl
@[simp] theorem setRx_kw (s : State) (id : Nat) (f : RxFr) : (s.setRx id f).kw = s.kw := rfl
@[simp] theorem setRx_md (s : State) (id : Nat) (f : RxFr) : (s.setRx id f).md = s.md := rfl
@[simp] theorem setRx_fab (s : State) (id : Nat) (f : RxFr) : (s.setRx id f).fab = s.fab := rfl
@[simp] theorem setRx_lanes (s : State) (id : Nat) (f : RxFr) : (s.setRx id f).lanes = s.lanes := rfl
@[simp] theorem setRx_spares (s : State) (id : Nat) (f : RxFr) : (s.setRx id f).spares = s.spares := rfl
@[simp] theorem setRx_frs (s : State) (id : Nat) (f : RxFr) : (s.setRx id f).frs = s.frs := rfl
@[simp] theorem setRx_grps (s : State) (id : Nat) (f : RxFr) : (s.setRx id f).grps = s.grps := rfl
@[simp] theorem setRx_gfps (s : State) (id : Nat) (f : RxFr) : (s.setRx id f).gfps = s.gfps := rfl
@[simp] theorem setRx_pairs (s : State) (id : Nat) (f : RxFr) : (s.setRx id f).pairs = s.pairs := rfl
@[simp] theorem setRx_ohs (s : State) (id : Nat) (f : RxFr) : (s.setRx id f).ohs = s.ohs := rfl
@[simp] theorem setRx_chs (s : State) (id : Nat) (f : RxFr) : (s.setRx id f).chs = s.chs := rfl
@[simp] theorem setRx_txs (s : State) (id : Nat) (f : RxFr) : (s.setRx id f).txs = s.txs := rfl
@[simp] theorem setRx_nextFr (s : State) (id : Nat) (f : RxFr) : (s.setRx id f).nextFr = s.nextFr := rfl
@[simp] theorem setRx_qs (s : State) (id : Nat) (f : RxFr) : (s.setRx id f).qs = s.qs := rfl
@[simp] theorem setRx_shaps (s : State) (id : Nat) (f : RxFr) : (s.setRx id f).shaps = s.shaps := rfl
@[simp] theorem setRx_nodes (s : State) (id : Nat) (f : RxFr) : (s.setRx id f).nodes = s.nodes := rfl
@[simp] theorem setRx_vtime (s : State) (id : Nat) (f : RxFr) : (s.setRx id f).vtime = s.vtime := rfl
@[simp] theorem setRx_fb (s : State) (id : Nat) (f : RxFr) : (s.setRx id f).fb = s.fb := rfl
@[simp] theorem setRx_tbl (s : State) (id : Nat) (f : RxFr) : (s.setRx id f).tbl = s.tbl := rfl
@[simp] theorem setRx_meters (s : State) (id : Nat) (f : RxFr) : (s.setRx id f).meters = s.meters := rfl
@[simp] theorem setRx_ctxs (s : State) (id : Nat) (f : RxFr) : (s.setRx id f).ctxs = s.ctxs := rfl
@[simp] theorem setRx_ring (s : State) (id : Nat) (f : RxFr) : (s.setRx id f).ring = s.ring := rfl
@[simp] theorem setRx_led (s : State) (id : Nat) (f : RxFr) : (s.setRx id f).led = s.led := rfl
@[simp] theorem setRx_sv (s : State) (id : Nat) (f : RxFr) : (s.setRx id f).sv = s.sv := rfl
@[simp] theorem setRx_pw (s : State) (id : Nat) (f : RxFr) : (s.setRx id f).pw = s.pw := rfl
@[simp] theorem setRx_rd (s : State) (id : Nat) (fr : RxFr) (f : Fld) : (s.setRx id fr).rd f = s.rd f := rfl

/-! ## `delRx` changes `rxs` alone -/

@[simp] theorem delRx_pending (s : State) (id : Nat) : (s.delRx id).pending = s.pending := rfl
@[simp] theorem delRx_flds (s : State) (id : Nat) : (s.delRx id).flds = s.flds := rfl
@[simp] theorem delRx_latch (s : State) (id : Nat) : (s.delRx id).latch = s.latch := rfl
@[simp] theorem delRx_transit (s : State) (id : Nat) : (s.delRx id).transit = s.transit := rfl
@[simp] theorem delRx_sp (s : State) (id : Nat) : (s.delRx id).sp = s.sp := rfl
@[simp] theorem delRx_free (s : State) (id : Nat) : (s.delRx id).free = s.free := rfl
@[simp] theorem delRx_sys (s : State) (id : Nat) : (s.delRx id).sys = s.sys := rfl
@[simp] theorem delRx_tm (s : State) (id : Nat) : (s.delRx id).tm = s.tm := rfl
@[simp] theorem delRx_ny (s : State) (id : Nat) : (s.delRx id).ny = s.ny := rfl
@[simp] theorem delRx_cc (s : State) (id : Nat) : (s.delRx id).cc = s.cc := rfl
@[simp] theorem delRx_hub (s : State) (id : Nat) : (s.delRx id).hub = s.hub := rfl
@[simp] theorem delRx_cu (s : State) (id : Nat) : (s.delRx id).cu = s.cu := rfl
@[simp] theorem delRx_kw (s : State) (id : Nat) : (s.delRx id).kw = s.kw := rfl
@[simp] theorem delRx_md (s : State) (id : Nat) : (s.delRx id).md = s.md := rfl
@[simp] theorem delRx_fab (s : State) (id : Nat) : (s.delRx id).fab = s.fab := rfl
@[simp] theorem delRx_lanes (s : State) (id : Nat) : (s.delRx id).lanes = s.lanes := rfl
@[simp] theorem delRx_spares (s : State) (id : Nat) : (s.delRx id).spares = s.spares := rfl
@[simp] theorem delRx_frs (s : State) (id : Nat) : (s.delRx id).frs = s.frs := rfl
@[simp] theorem delRx_grps (s : State) (id : Nat) : (s.delRx id).grps = s.grps := rfl
@[simp] theorem delRx_gfps (s : State) (id : Nat) : (s.delRx id).gfps = s.gfps := rfl
@[simp] theorem delRx_pairs (s : State) (id : Nat) : (s.delRx id).pairs = s.pairs := rfl
@[simp] theorem delRx_ohs (s : State) (id : Nat) : (s.delRx id).ohs = s.ohs := rfl
@[simp] theorem delRx_chs (s : State) (id : Nat) : (s.delRx id).chs = s.chs := rfl
@[simp] theorem delRx_txs (s : State) (id : Nat) : (s.delRx id).txs = s.txs := rfl
@[simp] theorem delRx_nextFr (s : State) (id : Nat) : (s.delRx id).nextFr = s.nextFr := rfl
@[simp] theorem delRx_qs (s : State) (id : Nat) : (s.delRx id).qs = s.qs := rfl
@[simp] theorem delRx_shaps (s : State) (id : Nat) : (s.delRx id).shaps = s.shaps := rfl
@[simp] theorem delRx_nodes (s : State) (id : Nat) : (s.delRx id).nodes = s.nodes := rfl
@[simp] theorem delRx_vtime (s : State) (id : Nat) : (s.delRx id).vtime = s.vtime := rfl
@[simp] theorem delRx_fb (s : State) (id : Nat) : (s.delRx id).fb = s.fb := rfl
@[simp] theorem delRx_tbl (s : State) (id : Nat) : (s.delRx id).tbl = s.tbl := rfl
@[simp] theorem delRx_meters (s : State) (id : Nat) : (s.delRx id).meters = s.meters := rfl
@[simp] theorem delRx_ctxs (s : State) (id : Nat) : (s.delRx id).ctxs = s.ctxs := rfl
@[simp] theorem delRx_ring (s : State) (id : Nat) : (s.delRx id).ring = s.ring := rfl
@[simp] theorem delRx_led (s : State) (id : Nat) : (s.delRx id).led = s.led := rfl
@[simp] theorem delRx_sv (s : State) (id : Nat) : (s.delRx id).sv = s.sv := rfl
@[simp] theorem delRx_pw (s : State) (id : Nat) : (s.delRx id).pw = s.pw := rfl
@[simp] theorem delRx_rd (s : State) (id : Nat) (f : Fld) : (s.delRx id).rd f = s.rd f := rfl

/-! ## `setTx` changes `txs` alone -/

@[simp] theorem setTx_pending (s : State) (id : Nat) (f : TxFr) : (s.setTx id f).pending = s.pending := rfl
@[simp] theorem setTx_flds (s : State) (id : Nat) (f : TxFr) : (s.setTx id f).flds = s.flds := rfl
@[simp] theorem setTx_latch (s : State) (id : Nat) (f : TxFr) : (s.setTx id f).latch = s.latch := rfl
@[simp] theorem setTx_transit (s : State) (id : Nat) (f : TxFr) : (s.setTx id f).transit = s.transit := rfl
@[simp] theorem setTx_sp (s : State) (id : Nat) (f : TxFr) : (s.setTx id f).sp = s.sp := rfl
@[simp] theorem setTx_free (s : State) (id : Nat) (f : TxFr) : (s.setTx id f).free = s.free := rfl
@[simp] theorem setTx_sys (s : State) (id : Nat) (f : TxFr) : (s.setTx id f).sys = s.sys := rfl
@[simp] theorem setTx_tm (s : State) (id : Nat) (f : TxFr) : (s.setTx id f).tm = s.tm := rfl
@[simp] theorem setTx_ny (s : State) (id : Nat) (f : TxFr) : (s.setTx id f).ny = s.ny := rfl
@[simp] theorem setTx_cc (s : State) (id : Nat) (f : TxFr) : (s.setTx id f).cc = s.cc := rfl
@[simp] theorem setTx_hub (s : State) (id : Nat) (f : TxFr) : (s.setTx id f).hub = s.hub := rfl
@[simp] theorem setTx_cu (s : State) (id : Nat) (f : TxFr) : (s.setTx id f).cu = s.cu := rfl
@[simp] theorem setTx_kw (s : State) (id : Nat) (f : TxFr) : (s.setTx id f).kw = s.kw := rfl
@[simp] theorem setTx_md (s : State) (id : Nat) (f : TxFr) : (s.setTx id f).md = s.md := rfl
@[simp] theorem setTx_fab (s : State) (id : Nat) (f : TxFr) : (s.setTx id f).fab = s.fab := rfl
@[simp] theorem setTx_lanes (s : State) (id : Nat) (f : TxFr) : (s.setTx id f).lanes = s.lanes := rfl
@[simp] theorem setTx_spares (s : State) (id : Nat) (f : TxFr) : (s.setTx id f).spares = s.spares := rfl
@[simp] theorem setTx_frs (s : State) (id : Nat) (f : TxFr) : (s.setTx id f).frs = s.frs := rfl
@[simp] theorem setTx_grps (s : State) (id : Nat) (f : TxFr) : (s.setTx id f).grps = s.grps := rfl
@[simp] theorem setTx_gfps (s : State) (id : Nat) (f : TxFr) : (s.setTx id f).gfps = s.gfps := rfl
@[simp] theorem setTx_pairs (s : State) (id : Nat) (f : TxFr) : (s.setTx id f).pairs = s.pairs := rfl
@[simp] theorem setTx_ohs (s : State) (id : Nat) (f : TxFr) : (s.setTx id f).ohs = s.ohs := rfl
@[simp] theorem setTx_chs (s : State) (id : Nat) (f : TxFr) : (s.setTx id f).chs = s.chs := rfl
@[simp] theorem setTx_rxs (s : State) (id : Nat) (f : TxFr) : (s.setTx id f).rxs = s.rxs := rfl
@[simp] theorem setTx_nextFr (s : State) (id : Nat) (f : TxFr) : (s.setTx id f).nextFr = s.nextFr := rfl
@[simp] theorem setTx_qs (s : State) (id : Nat) (f : TxFr) : (s.setTx id f).qs = s.qs := rfl
@[simp] theorem setTx_shaps (s : State) (id : Nat) (f : TxFr) : (s.setTx id f).shaps = s.shaps := rfl
@[simp] theorem setTx_nodes (s : State) (id : Nat) (f : TxFr) : (s.setTx id f).nodes = s.nodes := rfl
@[simp] theorem setTx_vtime (s : State) (id : Nat) (f : TxFr) : (s.setTx id f).vtime = s.vtime := rfl
@[simp] theorem setTx_fb (s : State) (id : Nat) (f : TxFr) : (s.setTx id f).fb = s.fb := rfl
@[simp] theorem setTx_tbl (s : State) (id : Nat) (f : TxFr) : (s.setTx id f).tbl = s.tbl := rfl
@[simp] theorem setTx_meters (s : State) (id : Nat) (f : TxFr) : (s.setTx id f).meters = s.meters := rfl
@[simp] theorem setTx_ctxs (s : State) (id : Nat) (f : TxFr) : (s.setTx id f).ctxs = s.ctxs := rfl
@[simp] theorem setTx_ring (s : State) (id : Nat) (f : TxFr) : (s.setTx id f).ring = s.ring := rfl
@[simp] theorem setTx_led (s : State) (id : Nat) (f : TxFr) : (s.setTx id f).led = s.led := rfl
@[simp] theorem setTx_sv (s : State) (id : Nat) (f : TxFr) : (s.setTx id f).sv = s.sv := rfl
@[simp] theorem setTx_pw (s : State) (id : Nat) (f : TxFr) : (s.setTx id f).pw = s.pw := rfl
@[simp] theorem setTx_rd (s : State) (id : Nat) (fr : TxFr) (f : Fld) : (s.setTx id fr).rd f = s.rd f := rfl

/-! ## `delTx` changes `txs` alone -/

@[simp] theorem delTx_pending (s : State) (id : Nat) : (s.delTx id).pending = s.pending := rfl
@[simp] theorem delTx_flds (s : State) (id : Nat) : (s.delTx id).flds = s.flds := rfl
@[simp] theorem delTx_latch (s : State) (id : Nat) : (s.delTx id).latch = s.latch := rfl
@[simp] theorem delTx_transit (s : State) (id : Nat) : (s.delTx id).transit = s.transit := rfl
@[simp] theorem delTx_sp (s : State) (id : Nat) : (s.delTx id).sp = s.sp := rfl
@[simp] theorem delTx_free (s : State) (id : Nat) : (s.delTx id).free = s.free := rfl
@[simp] theorem delTx_sys (s : State) (id : Nat) : (s.delTx id).sys = s.sys := rfl
@[simp] theorem delTx_tm (s : State) (id : Nat) : (s.delTx id).tm = s.tm := rfl
@[simp] theorem delTx_ny (s : State) (id : Nat) : (s.delTx id).ny = s.ny := rfl
@[simp] theorem delTx_cc (s : State) (id : Nat) : (s.delTx id).cc = s.cc := rfl
@[simp] theorem delTx_hub (s : State) (id : Nat) : (s.delTx id).hub = s.hub := rfl
@[simp] theorem delTx_cu (s : State) (id : Nat) : (s.delTx id).cu = s.cu := rfl
@[simp] theorem delTx_kw (s : State) (id : Nat) : (s.delTx id).kw = s.kw := rfl
@[simp] theorem delTx_md (s : State) (id : Nat) : (s.delTx id).md = s.md := rfl
@[simp] theorem delTx_fab (s : State) (id : Nat) : (s.delTx id).fab = s.fab := rfl
@[simp] theorem delTx_lanes (s : State) (id : Nat) : (s.delTx id).lanes = s.lanes := rfl
@[simp] theorem delTx_spares (s : State) (id : Nat) : (s.delTx id).spares = s.spares := rfl
@[simp] theorem delTx_frs (s : State) (id : Nat) : (s.delTx id).frs = s.frs := rfl
@[simp] theorem delTx_grps (s : State) (id : Nat) : (s.delTx id).grps = s.grps := rfl
@[simp] theorem delTx_gfps (s : State) (id : Nat) : (s.delTx id).gfps = s.gfps := rfl
@[simp] theorem delTx_pairs (s : State) (id : Nat) : (s.delTx id).pairs = s.pairs := rfl
@[simp] theorem delTx_ohs (s : State) (id : Nat) : (s.delTx id).ohs = s.ohs := rfl
@[simp] theorem delTx_chs (s : State) (id : Nat) : (s.delTx id).chs = s.chs := rfl
@[simp] theorem delTx_rxs (s : State) (id : Nat) : (s.delTx id).rxs = s.rxs := rfl
@[simp] theorem delTx_nextFr (s : State) (id : Nat) : (s.delTx id).nextFr = s.nextFr := rfl
@[simp] theorem delTx_qs (s : State) (id : Nat) : (s.delTx id).qs = s.qs := rfl
@[simp] theorem delTx_shaps (s : State) (id : Nat) : (s.delTx id).shaps = s.shaps := rfl
@[simp] theorem delTx_nodes (s : State) (id : Nat) : (s.delTx id).nodes = s.nodes := rfl
@[simp] theorem delTx_vtime (s : State) (id : Nat) : (s.delTx id).vtime = s.vtime := rfl
@[simp] theorem delTx_fb (s : State) (id : Nat) : (s.delTx id).fb = s.fb := rfl
@[simp] theorem delTx_tbl (s : State) (id : Nat) : (s.delTx id).tbl = s.tbl := rfl
@[simp] theorem delTx_meters (s : State) (id : Nat) : (s.delTx id).meters = s.meters := rfl
@[simp] theorem delTx_ctxs (s : State) (id : Nat) : (s.delTx id).ctxs = s.ctxs := rfl
@[simp] theorem delTx_ring (s : State) (id : Nat) : (s.delTx id).ring = s.ring := rfl
@[simp] theorem delTx_led (s : State) (id : Nat) : (s.delTx id).led = s.led := rfl
@[simp] theorem delTx_sv (s : State) (id : Nat) : (s.delTx id).sv = s.sv := rfl
@[simp] theorem delTx_pw (s : State) (id : Nat) : (s.delTx id).pw = s.pw := rfl
@[simp] theorem delTx_rd (s : State) (id : Nat) (f : Fld) : (s.delTx id).rd f = s.rd f := rfl

/-! ## `putShap` changes `shaps` alone -/

@[simp] theorem putShap_pending (s : State) (i : Nat) (x : ShapSt) : (s.putShap i x).pending = s.pending := rfl
@[simp] theorem putShap_flds (s : State) (i : Nat) (x : ShapSt) : (s.putShap i x).flds = s.flds := rfl
@[simp] theorem putShap_latch (s : State) (i : Nat) (x : ShapSt) : (s.putShap i x).latch = s.latch := rfl
@[simp] theorem putShap_transit (s : State) (i : Nat) (x : ShapSt) : (s.putShap i x).transit = s.transit := rfl
@[simp] theorem putShap_sp (s : State) (i : Nat) (x : ShapSt) : (s.putShap i x).sp = s.sp := rfl
@[simp] theorem putShap_free (s : State) (i : Nat) (x : ShapSt) : (s.putShap i x).free = s.free := rfl
@[simp] theorem putShap_sys (s : State) (i : Nat) (x : ShapSt) : (s.putShap i x).sys = s.sys := rfl
@[simp] theorem putShap_tm (s : State) (i : Nat) (x : ShapSt) : (s.putShap i x).tm = s.tm := rfl
@[simp] theorem putShap_ny (s : State) (i : Nat) (x : ShapSt) : (s.putShap i x).ny = s.ny := rfl
@[simp] theorem putShap_cc (s : State) (i : Nat) (x : ShapSt) : (s.putShap i x).cc = s.cc := rfl
@[simp] theorem putShap_hub (s : State) (i : Nat) (x : ShapSt) : (s.putShap i x).hub = s.hub := rfl
@[simp] theorem putShap_cu (s : State) (i : Nat) (x : ShapSt) : (s.putShap i x).cu = s.cu := rfl
@[simp] theorem putShap_kw (s : State) (i : Nat) (x : ShapSt) : (s.putShap i x).kw = s.kw := rfl
@[simp] theorem putShap_md (s : State) (i : Nat) (x : ShapSt) : (s.putShap i x).md = s.md := rfl
@[simp] theorem putShap_fab (s : State) (i : Nat) (x : ShapSt) : (s.putShap i x).fab = s.fab := rfl
@[simp] theorem putShap_lanes (s : State) (i : Nat) (x : ShapSt) : (s.putShap i x).lanes = s.lanes := rfl
@[simp] theorem putShap_spares (s : State) (i : Nat) (x : ShapSt) : (s.putShap i x).spares = s.spares := rfl
@[simp] theorem putShap_frs (s : State) (i : Nat) (x : ShapSt) : (s.putShap i x).frs = s.frs := rfl
@[simp] theorem putShap_grps (s : State) (i : Nat) (x : ShapSt) : (s.putShap i x).grps = s.grps := rfl
@[simp] theorem putShap_gfps (s : State) (i : Nat) (x : ShapSt) : (s.putShap i x).gfps = s.gfps := rfl
@[simp] theorem putShap_pairs (s : State) (i : Nat) (x : ShapSt) : (s.putShap i x).pairs = s.pairs := rfl
@[simp] theorem putShap_ohs (s : State) (i : Nat) (x : ShapSt) : (s.putShap i x).ohs = s.ohs := rfl
@[simp] theorem putShap_chs (s : State) (i : Nat) (x : ShapSt) : (s.putShap i x).chs = s.chs := rfl
@[simp] theorem putShap_rxs (s : State) (i : Nat) (x : ShapSt) : (s.putShap i x).rxs = s.rxs := rfl
@[simp] theorem putShap_txs (s : State) (i : Nat) (x : ShapSt) : (s.putShap i x).txs = s.txs := rfl
@[simp] theorem putShap_nextFr (s : State) (i : Nat) (x : ShapSt) : (s.putShap i x).nextFr = s.nextFr := rfl
@[simp] theorem putShap_qs (s : State) (i : Nat) (x : ShapSt) : (s.putShap i x).qs = s.qs := rfl
@[simp] theorem putShap_nodes (s : State) (i : Nat) (x : ShapSt) : (s.putShap i x).nodes = s.nodes := rfl
@[simp] theorem putShap_vtime (s : State) (i : Nat) (x : ShapSt) : (s.putShap i x).vtime = s.vtime := rfl
@[simp] theorem putShap_fb (s : State) (i : Nat) (x : ShapSt) : (s.putShap i x).fb = s.fb := rfl
@[simp] theorem putShap_tbl (s : State) (i : Nat) (x : ShapSt) : (s.putShap i x).tbl = s.tbl := rfl
@[simp] theorem putShap_meters (s : State) (i : Nat) (x : ShapSt) : (s.putShap i x).meters = s.meters := rfl
@[simp] theorem putShap_ctxs (s : State) (i : Nat) (x : ShapSt) : (s.putShap i x).ctxs = s.ctxs := rfl
@[simp] theorem putShap_ring (s : State) (i : Nat) (x : ShapSt) : (s.putShap i x).ring = s.ring := rfl
@[simp] theorem putShap_led (s : State) (i : Nat) (x : ShapSt) : (s.putShap i x).led = s.led := rfl
@[simp] theorem putShap_sv (s : State) (i : Nat) (x : ShapSt) : (s.putShap i x).sv = s.sv := rfl
@[simp] theorem putShap_pw (s : State) (i : Nat) (x : ShapSt) : (s.putShap i x).pw = s.pw := rfl
@[simp] theorem putShap_rd (s : State) (i : Nat) (x : ShapSt) (f : Fld) : (s.putShap i x).rd f = s.rd f := rfl

/-! ## `setNode` changes `nodes` alone -/

@[simp] theorem setNode_pending (s : State) (n : Nat) (x : NodeSt) : (s.setNode n x).pending = s.pending := rfl
@[simp] theorem setNode_flds (s : State) (n : Nat) (x : NodeSt) : (s.setNode n x).flds = s.flds := rfl
@[simp] theorem setNode_latch (s : State) (n : Nat) (x : NodeSt) : (s.setNode n x).latch = s.latch := rfl
@[simp] theorem setNode_transit (s : State) (n : Nat) (x : NodeSt) : (s.setNode n x).transit = s.transit := rfl
@[simp] theorem setNode_sp (s : State) (n : Nat) (x : NodeSt) : (s.setNode n x).sp = s.sp := rfl
@[simp] theorem setNode_free (s : State) (n : Nat) (x : NodeSt) : (s.setNode n x).free = s.free := rfl
@[simp] theorem setNode_sys (s : State) (n : Nat) (x : NodeSt) : (s.setNode n x).sys = s.sys := rfl
@[simp] theorem setNode_tm (s : State) (n : Nat) (x : NodeSt) : (s.setNode n x).tm = s.tm := rfl
@[simp] theorem setNode_ny (s : State) (n : Nat) (x : NodeSt) : (s.setNode n x).ny = s.ny := rfl
@[simp] theorem setNode_cc (s : State) (n : Nat) (x : NodeSt) : (s.setNode n x).cc = s.cc := rfl
@[simp] theorem setNode_hub (s : State) (n : Nat) (x : NodeSt) : (s.setNode n x).hub = s.hub := rfl
@[simp] theorem setNode_cu (s : State) (n : Nat) (x : NodeSt) : (s.setNode n x).cu = s.cu := rfl
@[simp] theorem setNode_kw (s : State) (n : Nat) (x : NodeSt) : (s.setNode n x).kw = s.kw := rfl
@[simp] theorem setNode_md (s : State) (n : Nat) (x : NodeSt) : (s.setNode n x).md = s.md := rfl
@[simp] theorem setNode_fab (s : State) (n : Nat) (x : NodeSt) : (s.setNode n x).fab = s.fab := rfl
@[simp] theorem setNode_lanes (s : State) (n : Nat) (x : NodeSt) : (s.setNode n x).lanes = s.lanes := rfl
@[simp] theorem setNode_spares (s : State) (n : Nat) (x : NodeSt) : (s.setNode n x).spares = s.spares := rfl
@[simp] theorem setNode_frs (s : State) (n : Nat) (x : NodeSt) : (s.setNode n x).frs = s.frs := rfl
@[simp] theorem setNode_grps (s : State) (n : Nat) (x : NodeSt) : (s.setNode n x).grps = s.grps := rfl
@[simp] theorem setNode_gfps (s : State) (n : Nat) (x : NodeSt) : (s.setNode n x).gfps = s.gfps := rfl
@[simp] theorem setNode_pairs (s : State) (n : Nat) (x : NodeSt) : (s.setNode n x).pairs = s.pairs := rfl
@[simp] theorem setNode_ohs (s : State) (n : Nat) (x : NodeSt) : (s.setNode n x).ohs = s.ohs := rfl
@[simp] theorem setNode_chs (s : State) (n : Nat) (x : NodeSt) : (s.setNode n x).chs = s.chs := rfl
@[simp] theorem setNode_rxs (s : State) (n : Nat) (x : NodeSt) : (s.setNode n x).rxs = s.rxs := rfl
@[simp] theorem setNode_txs (s : State) (n : Nat) (x : NodeSt) : (s.setNode n x).txs = s.txs := rfl
@[simp] theorem setNode_nextFr (s : State) (n : Nat) (x : NodeSt) : (s.setNode n x).nextFr = s.nextFr := rfl
@[simp] theorem setNode_qs (s : State) (n : Nat) (x : NodeSt) : (s.setNode n x).qs = s.qs := rfl
@[simp] theorem setNode_shaps (s : State) (n : Nat) (x : NodeSt) : (s.setNode n x).shaps = s.shaps := rfl
@[simp] theorem setNode_vtime (s : State) (n : Nat) (x : NodeSt) : (s.setNode n x).vtime = s.vtime := rfl
@[simp] theorem setNode_fb (s : State) (n : Nat) (x : NodeSt) : (s.setNode n x).fb = s.fb := rfl
@[simp] theorem setNode_tbl (s : State) (n : Nat) (x : NodeSt) : (s.setNode n x).tbl = s.tbl := rfl
@[simp] theorem setNode_meters (s : State) (n : Nat) (x : NodeSt) : (s.setNode n x).meters = s.meters := rfl
@[simp] theorem setNode_ctxs (s : State) (n : Nat) (x : NodeSt) : (s.setNode n x).ctxs = s.ctxs := rfl
@[simp] theorem setNode_ring (s : State) (n : Nat) (x : NodeSt) : (s.setNode n x).ring = s.ring := rfl
@[simp] theorem setNode_led (s : State) (n : Nat) (x : NodeSt) : (s.setNode n x).led = s.led := rfl
@[simp] theorem setNode_sv (s : State) (n : Nat) (x : NodeSt) : (s.setNode n x).sv = s.sv := rfl
@[simp] theorem setNode_pw (s : State) (n : Nat) (x : NodeSt) : (s.setNode n x).pw = s.pw := rfl
@[simp] theorem setNode_rd (s : State) (n : Nat) (x : NodeSt) (f : Fld) : (s.setNode n x).rd f = s.rd f := rfl

/-! ## `setChan` changes `cc` alone -/

@[simp] theorem setChan_pending (s : State) (n : Nat) (c : ChanSt) : (s.setChan n c).pending = s.pending := rfl
@[simp] theorem setChan_flds (s : State) (n : Nat) (c : ChanSt) : (s.setChan n c).flds = s.flds := rfl
@[simp] theorem setChan_latch (s : State) (n : Nat) (c : ChanSt) : (s.setChan n c).latch = s.latch := rfl
@[simp] theorem setChan_transit (s : State) (n : Nat) (c : ChanSt) : (s.setChan n c).transit = s.transit := rfl
@[simp] theorem setChan_sp (s : State) (n : Nat) (c : ChanSt) : (s.setChan n c).sp = s.sp := rfl
@[simp] theorem setChan_free (s : State) (n : Nat) (c : ChanSt) : (s.setChan n c).free = s.free := rfl
@[simp] theorem setChan_sys (s : State) (n : Nat) (c : ChanSt) : (s.setChan n c).sys = s.sys := rfl
@[simp] theorem setChan_tm (s : State) (n : Nat) (c : ChanSt) : (s.setChan n c).tm = s.tm := rfl
@[simp] theorem setChan_ny (s : State) (n : Nat) (c : ChanSt) : (s.setChan n c).ny = s.ny := rfl
@[simp] theorem setChan_hub (s : State) (n : Nat) (c : ChanSt) : (s.setChan n c).hub = s.hub := rfl
@[simp] theorem setChan_cu (s : State) (n : Nat) (c : ChanSt) : (s.setChan n c).cu = s.cu := rfl
@[simp] theorem setChan_kw (s : State) (n : Nat) (c : ChanSt) : (s.setChan n c).kw = s.kw := rfl
@[simp] theorem setChan_md (s : State) (n : Nat) (c : ChanSt) : (s.setChan n c).md = s.md := rfl
@[simp] theorem setChan_fab (s : State) (n : Nat) (c : ChanSt) : (s.setChan n c).fab = s.fab := rfl
@[simp] theorem setChan_lanes (s : State) (n : Nat) (c : ChanSt) : (s.setChan n c).lanes = s.lanes := rfl
@[simp] theorem setChan_spares (s : State) (n : Nat) (c : ChanSt) : (s.setChan n c).spares = s.spares := rfl
@[simp] theorem setChan_frs (s : State) (n : Nat) (c : ChanSt) : (s.setChan n c).frs = s.frs := rfl
@[simp] theorem setChan_grps (s : State) (n : Nat) (c : ChanSt) : (s.setChan n c).grps = s.grps := rfl
@[simp] theorem setChan_gfps (s : State) (n : Nat) (c : ChanSt) : (s.setChan n c).gfps = s.gfps := rfl
@[simp] theorem setChan_pairs (s : State) (n : Nat) (c : ChanSt) : (s.setChan n c).pairs = s.pairs := rfl
@[simp] theorem setChan_ohs (s : State) (n : Nat) (c : ChanSt) : (s.setChan n c).ohs = s.ohs := rfl
@[simp] theorem setChan_chs (s : State) (n : Nat) (c : ChanSt) : (s.setChan n c).chs = s.chs := rfl
@[simp] theorem setChan_rxs (s : State) (n : Nat) (c : ChanSt) : (s.setChan n c).rxs = s.rxs := rfl
@[simp] theorem setChan_txs (s : State) (n : Nat) (c : ChanSt) : (s.setChan n c).txs = s.txs := rfl
@[simp] theorem setChan_nextFr (s : State) (n : Nat) (c : ChanSt) : (s.setChan n c).nextFr = s.nextFr := rfl
@[simp] theorem setChan_qs (s : State) (n : Nat) (c : ChanSt) : (s.setChan n c).qs = s.qs := rfl
@[simp] theorem setChan_shaps (s : State) (n : Nat) (c : ChanSt) : (s.setChan n c).shaps = s.shaps := rfl
@[simp] theorem setChan_nodes (s : State) (n : Nat) (c : ChanSt) : (s.setChan n c).nodes = s.nodes := rfl
@[simp] theorem setChan_vtime (s : State) (n : Nat) (c : ChanSt) : (s.setChan n c).vtime = s.vtime := rfl
@[simp] theorem setChan_fb (s : State) (n : Nat) (c : ChanSt) : (s.setChan n c).fb = s.fb := rfl
@[simp] theorem setChan_tbl (s : State) (n : Nat) (c : ChanSt) : (s.setChan n c).tbl = s.tbl := rfl
@[simp] theorem setChan_meters (s : State) (n : Nat) (c : ChanSt) : (s.setChan n c).meters = s.meters := rfl
@[simp] theorem setChan_ctxs (s : State) (n : Nat) (c : ChanSt) : (s.setChan n c).ctxs = s.ctxs := rfl
@[simp] theorem setChan_ring (s : State) (n : Nat) (c : ChanSt) : (s.setChan n c).ring = s.ring := rfl
@[simp] theorem setChan_led (s : State) (n : Nat) (c : ChanSt) : (s.setChan n c).led = s.led := rfl
@[simp] theorem setChan_sv (s : State) (n : Nat) (c : ChanSt) : (s.setChan n c).sv = s.sv := rfl
@[simp] theorem setChan_pw (s : State) (n : Nat) (c : ChanSt) : (s.setChan n c).pw = s.pw := rfl
@[simp] theorem setChan_rd (s : State) (n : Nat) (c : ChanSt) (f : Fld) : (s.setChan n c).rd f = s.rd f := rfl

/-! ## `setLock` changes `cc` alone -/

@[simp] theorem setLock_pending (s : State) (l : Nat) (k : LockSt) : (s.setLock l k).pending = s.pending := rfl
@[simp] theorem setLock_flds (s : State) (l : Nat) (k : LockSt) : (s.setLock l k).flds = s.flds := rfl
@[simp] theorem setLock_latch (s : State) (l : Nat) (k : LockSt) : (s.setLock l k).latch = s.latch := rfl
@[simp] theorem setLock_transit (s : State) (l : Nat) (k : LockSt) : (s.setLock l k).transit = s.transit := rfl
@[simp] theorem setLock_sp (s : State) (l : Nat) (k : LockSt) : (s.setLock l k).sp = s.sp := rfl
@[simp] theorem setLock_free (s : State) (l : Nat) (k : LockSt) : (s.setLock l k).free = s.free := rfl
@[simp] theorem setLock_sys (s : State) (l : Nat) (k : LockSt) : (s.setLock l k).sys = s.sys := rfl
@[simp] theorem setLock_tm (s : State) (l : Nat) (k : LockSt) : (s.setLock l k).tm = s.tm := rfl
@[simp] theorem setLock_ny (s : State) (l : Nat) (k : LockSt) : (s.setLock l k).ny = s.ny := rfl
@[simp] theorem setLock_hub (s : State) (l : Nat) (k : LockSt) : (s.setLock l k).hub = s.hub := rfl
@[simp] theorem setLock_cu (s : State) (l : Nat) (k : LockSt) : (s.setLock l k).cu = s.cu := rfl
@[simp] theorem setLock_kw (s : State) (l : Nat) (k : LockSt) : (s.setLock l k).kw = s.kw := rfl
@[simp] theorem setLock_md (s : State) (l : Nat) (k : LockSt) : (s.setLock l k).md = s.md := rfl
@[simp] theorem setLock_fab (s : State) (l : Nat) (k : LockSt) : (s.setLock l k).fab = s.fab := rfl
@[simp] theorem setLock_lanes (s : State) (l : Nat) (k : LockSt) : (s.setLock l k).lanes = s.lanes := rfl
@[simp] theorem setLock_spares (s : State) (l : Nat) (k : LockSt) : (s.setLock l k).spares = s.spares := rfl
@[simp] theorem setLock_frs (s : State) (l : Nat) (k : LockSt) : (s.setLock l k).frs = s.frs := rfl
@[simp] theorem setLock_grps (s : State) (l : Nat) (k : LockSt) : (s.setLock l k).grps = s.grps := rfl
@[simp] theorem setLock_gfps (s : State) (l : Nat) (k : LockSt) : (s.setLock l k).gfps = s.gfps := rfl
@[simp] theorem setLock_pairs (s : State) (l : Nat) (k : LockSt) : (s.setLock l k).pairs = s.pairs := rfl
@[simp] theorem setLock_ohs (s : State) (l : Nat) (k : LockSt) : (s.setLock l k).ohs = s.ohs := rfl
@[simp] theorem setLock_chs (s : State) (l : Nat) (k : LockSt) : (s.setLock l k).chs = s.chs := rfl
@[simp] theorem setLock_rxs (s : State) (l : Nat) (k : LockSt) : (s.setLock l k).rxs = s.rxs := rfl
@[simp] theorem setLock_txs (s : State) (l : Nat) (k : LockSt) : (s.setLock l k).txs = s.txs := rfl
@[simp] theorem setLock_nextFr (s : State) (l : Nat) (k : LockSt) : (s.setLock l k).nextFr = s.nextFr := rfl
@[simp] theorem setLock_qs (s : State) (l : Nat) (k : LockSt) : (s.setLock l k).qs = s.qs := rfl
@[simp] theorem setLock_shaps (s : State) (l : Nat) (k : LockSt) : (s.setLock l k).shaps = s.shaps := rfl
@[simp] theorem setLock_nodes (s : State) (l : Nat) (k : LockSt) : (s.setLock l k).nodes = s.nodes := rfl
@[simp] theorem setLock_vtime (s : State) (l : Nat) (k : LockSt) : (s.setLock l k).vtime = s.vtime := rfl
@[simp] theorem setLock_fb (s : State) (l : Nat) (k : LockSt) : (s.setLock l k).fb = s.fb := rfl
@[simp] theorem setLock_tbl (s : State) (l : Nat) (k : LockSt) : (s.setLock l k).tbl = s.tbl := rfl
@[simp] theorem setLock_meters (s : State) (l : Nat) (k : LockSt) : (s.setLock l k).meters = s.meters := rfl
@[simp] theorem setLock_ctxs (s : State) (l : Nat) (k : LockSt) : (s.setLock l k).ctxs = s.ctxs := rfl
@[simp] theorem setLock_ring (s : State) (l : Nat) (k : LockSt) : (s.setLock l k).ring = s.ring := rfl
@[simp] theorem setLock_led (s : State) (l : Nat) (k : LockSt) : (s.setLock l k).led = s.led := rfl
@[simp] theorem setLock_sv (s : State) (l : Nat) (k : LockSt) : (s.setLock l k).sv = s.sv := rfl
@[simp] theorem setLock_pw (s : State) (l : Nat) (k : LockSt) : (s.setLock l k).pw = s.pw := rfl
@[simp] theorem setLock_rd (s : State) (l : Nat) (k : LockSt) (f : Fld) : (s.setLock l k).rd f = s.rd f := rfl

/-! ## `setWants` changes `cc` alone -/

@[simp] theorem setWants_pending (s : State) (w : SMap WantSt) : (s.setWants w).pending = s.pending := rfl
@[simp] theorem setWants_flds (s : State) (w : SMap WantSt) : (s.setWants w).flds = s.flds := rfl
@[simp] theorem setWants_latch (s : State) (w : SMap WantSt) : (s.setWants w).latch = s.latch := rfl
@[simp] theorem setWants_transit (s : State) (w : SMap WantSt) : (s.setWants w).transit = s.transit := rfl
@[simp] theorem setWants_sp (s : State) (w : SMap WantSt) : (s.setWants w).sp = s.sp := rfl
@[simp] theorem setWants_free (s : State) (w : SMap WantSt) : (s.setWants w).free = s.free := rfl
@[simp] theorem setWants_sys (s : State) (w : SMap WantSt) : (s.setWants w).sys = s.sys := rfl
@[simp] theorem setWants_tm (s : State) (w : SMap WantSt) : (s.setWants w).tm = s.tm := rfl
@[simp] theorem setWants_ny (s : State) (w : SMap WantSt) : (s.setWants w).ny = s.ny := rfl
@[simp] theorem setWants_hub (s : State) (w : SMap WantSt) : (s.setWants w).hub = s.hub := rfl
@[simp] theorem setWants_cu (s : State) (w : SMap WantSt) : (s.setWants w).cu = s.cu := rfl
@[simp] theorem setWants_kw (s : State) (w : SMap WantSt) : (s.setWants w).kw = s.kw := rfl
@[simp] theorem setWants_md (s : State) (w : SMap WantSt) : (s.setWants w).md = s.md := rfl
@[simp] theorem setWants_fab (s : State) (w : SMap WantSt) : (s.setWants w).fab = s.fab := rfl
@[simp] theorem setWants_lanes (s : State) (w : SMap WantSt) : (s.setWants w).lanes = s.lanes := rfl
@[simp] theorem setWants_spares (s : State) (w : SMap WantSt) : (s.setWants w).spares = s.spares := rfl
@[simp] theorem setWants_frs (s : State) (w : SMap WantSt) : (s.setWants w).frs = s.frs := rfl
@[simp] theorem setWants_grps (s : State) (w : SMap WantSt) : (s.setWants w).grps = s.grps := rfl
@[simp] theorem setWants_gfps (s : State) (w : SMap WantSt) : (s.setWants w).gfps = s.gfps := rfl
@[simp] theorem setWants_pairs (s : State) (w : SMap WantSt) : (s.setWants w).pairs = s.pairs := rfl
@[simp] theorem setWants_ohs (s : State) (w : SMap WantSt) : (s.setWants w).ohs = s.ohs := rfl
@[simp] theorem setWants_chs (s : State) (w : SMap WantSt) : (s.setWants w).chs = s.chs := rfl
@[simp] theorem setWants_rxs (s : State) (w : SMap WantSt) : (s.setWants w).rxs = s.rxs := rfl
@[simp] theorem setWants_txs (s : State) (w : SMap WantSt) : (s.setWants w).txs = s.txs := rfl
@[simp] theorem setWants_nextFr (s : State) (w : SMap WantSt) : (s.setWants w).nextFr = s.nextFr := rfl
@[simp] theorem setWants_qs (s : State) (w : SMap WantSt) : (s.setWants w).qs = s.qs := rfl
@[simp] theorem setWants_shaps (s : State) (w : SMap WantSt) : (s.setWants w).shaps = s.shaps := rfl
@[simp] theorem setWants_nodes (s : State) (w : SMap WantSt) : (s.setWants w).nodes = s.nodes := rfl
@[simp] theorem setWants_vtime (s : State) (w : SMap WantSt) : (s.setWants w).vtime = s.vtime := rfl
@[simp] theorem setWants_fb (s : State) (w : SMap WantSt) : (s.setWants w).fb = s.fb := rfl
@[simp] theorem setWants_tbl (s : State) (w : SMap WantSt) : (s.setWants w).tbl = s.tbl := rfl
@[simp] theorem setWants_meters (s : State) (w : SMap WantSt) : (s.setWants w).meters = s.meters := rfl
@[simp] theorem setWants_ctxs (s : State) (w : SMap WantSt) : (s.setWants w).ctxs = s.ctxs := rfl
@[simp] theorem setWants_ring (s : State) (w : SMap WantSt) : (s.setWants w).ring = s.ring := rfl
@[simp] theorem setWants_led (s : State) (w : SMap WantSt) : (s.setWants w).led = s.led := rfl
@[simp] theorem setWants_sv (s : State) (w : SMap WantSt) : (s.setWants w).sv = s.sv := rfl
@[simp] theorem setWants_pw (s : State) (w : SMap WantSt) : (s.setWants w).pw = s.pw := rfl
@[simp] theorem setWants_rd (s : State) (w : SMap WantSt) (f : Fld) : (s.setWants w).rd f = s.rd f := rfl

/-! ## `setSrc` changes `hub` alone -/

@[simp] theorem setSrc_pending (s : State) (n : Nat) (x : SrcSt) : (s.setSrc n x).pending = s.pending := rfl
@[simp] theorem setSrc_flds (s : State) (n : Nat) (x : SrcSt) : (s.setSrc n x).flds = s.flds := rfl
@[simp] theorem setSrc_latch (s : State) (n : Nat) (x : SrcSt) : (s.setSrc n x).latch = s.latch := rfl
@[simp] theorem setSrc_transit (s : State) (n : Nat) (x : SrcSt) : (s.setSrc n x).transit = s.transit := rfl
@[simp] theorem setSrc_sp (s : State) (n : Nat) (x : SrcSt) : (s.setSrc n x).sp = s.sp := rfl
@[simp] theorem setSrc_free (s : State) (n : Nat) (x : SrcSt) : (s.setSrc n x).free = s.free := rfl
@[simp] theorem setSrc_sys (s : State) (n : Nat) (x : SrcSt) : (s.setSrc n x).sys = s.sys := rfl
@[simp] theorem setSrc_tm (s : State) (n : Nat) (x : SrcSt) : (s.setSrc n x).tm = s.tm := rfl
@[simp] theorem setSrc_ny (s : State) (n : Nat) (x : SrcSt) : (s.setSrc n x).ny = s.ny := rfl
@[simp] theorem setSrc_cc (s : State) (n : Nat) (x : SrcSt) : (s.setSrc n x).cc = s.cc := rfl
@[simp] theorem setSrc_cu (s : State) (n : Nat) (x : SrcSt) : (s.setSrc n x).cu = s.cu := rfl
@[simp] theorem setSrc_kw (s : State) (n : Nat) (x : SrcSt) : (s.setSrc n x).kw = s.kw := rfl
@[simp] theorem setSrc_md (s : State) (n : Nat) (x : SrcSt) : (s.setSrc n x).md = s.md := rfl
@[simp] theorem setSrc_fab (s : State) (n : Nat) (x : SrcSt) : (s.setSrc n x).fab = s.fab := rfl
@[simp] theorem setSrc_lanes (s : State) (n : Nat) (x : SrcSt) : (s.setSrc n x).lanes = s.lanes := rfl
@[simp] theorem setSrc_spares (s : State) (n : Nat) (x : SrcSt) : (s.setSrc n x).spares = s.spares := rfl
@[simp] theorem setSrc_frs (s : State) (n : Nat) (x : SrcSt) : (s.setSrc n x).frs = s.frs := rfl
@[simp] theorem setSrc_grps (s : State) (n : Nat) (x : SrcSt) : (s.setSrc n x).grps = s.grps := rfl
@[simp] theorem setSrc_gfps (s : State) (n : Nat) (x : SrcSt) : (s.setSrc n x).gfps = s.gfps := rfl
@[simp] theorem setSrc_pairs (s : State) (n : Nat) (x : SrcSt) : (s.setSrc n x).pairs = s.pairs := rfl
@[simp] theorem setSrc_ohs (s : State) (n : Nat) (x : SrcSt) : (s.setSrc n x).ohs = s.ohs := rfl
@[simp] theorem setSrc_chs (s : State) (n : Nat) (x : SrcSt) : (s.setSrc n x).chs = s.chs := rfl
@[simp] theorem setSrc_rxs (s : State) (n : Nat) (x : SrcSt) : (s.setSrc n x).rxs = s.rxs := rfl
@[simp] theorem setSrc_txs (s : State) (n : Nat) (x : SrcSt) : (s.setSrc n x).txs = s.txs := rfl
@[simp] theorem setSrc_nextFr (s : State) (n : Nat) (x : SrcSt) : (s.setSrc n x).nextFr = s.nextFr := rfl
@[simp] theorem setSrc_qs (s : State) (n : Nat) (x : SrcSt) : (s.setSrc n x).qs = s.qs := rfl
@[simp] theorem setSrc_shaps (s : State) (n : Nat) (x : SrcSt) : (s.setSrc n x).shaps = s.shaps := rfl
@[simp] theorem setSrc_nodes (s : State) (n : Nat) (x : SrcSt) : (s.setSrc n x).nodes = s.nodes := rfl
@[simp] theorem setSrc_vtime (s : State) (n : Nat) (x : SrcSt) : (s.setSrc n x).vtime = s.vtime := rfl
@[simp] theorem setSrc_fb (s : State) (n : Nat) (x : SrcSt) : (s.setSrc n x).fb = s.fb := rfl
@[simp] theorem setSrc_tbl (s : State) (n : Nat) (x : SrcSt) : (s.setSrc n x).tbl = s.tbl := rfl
@[simp] theorem setSrc_meters (s : State) (n : Nat) (x : SrcSt) : (s.setSrc n x).meters = s.meters := rfl
@[simp] theorem setSrc_ctxs (s : State) (n : Nat) (x : SrcSt) : (s.setSrc n x).ctxs = s.ctxs := rfl
@[simp] theorem setSrc_ring (s : State) (n : Nat) (x : SrcSt) : (s.setSrc n x).ring = s.ring := rfl
@[simp] theorem setSrc_led (s : State) (n : Nat) (x : SrcSt) : (s.setSrc n x).led = s.led := rfl
@[simp] theorem setSrc_sv (s : State) (n : Nat) (x : SrcSt) : (s.setSrc n x).sv = s.sv := rfl
@[simp] theorem setSrc_pw (s : State) (n : Nat) (x : SrcSt) : (s.setSrc n x).pw = s.pw := rfl
@[simp] theorem setSrc_rd (s : State) (n : Nat) (x : SrcSt) (f : Fld) : (s.setSrc n x).rd f = s.rd f := rfl

/-! ## Instances of a unit after a setter -/

@[simp] theorem ch_setCh (s : State) (i j : Nat) (x : ChSt) : (s.setCh i x).ch j = if j = i then x else s.ch j := mapGet_set _ _ i j x
@[simp] theorem lane_setLane (s : State) (i j : Nat) (x : LaneSt) : (s.setLane i x).lane j = if j = i then x else s.lane j := mapGet_set _ _ i j x
@[simp] theorem fr_setFr (s : State) (i j : Nat) (x : FrSt) : (s.setFr i x).fr j = if j = i then x else s.fr j := mapGet_set _ _ i j x
@[simp] theorem grp_setGrp (s : State) (i j : Nat) (x : GrpSt) : (s.setGrp i x).grp j = if j = i then x else s.grp j := mapGet_set _ _ i j x
@[simp] theorem gfp_setGfp (s : State) (i j : Nat) (x : GfpSt) : (s.setGfp i x).gfp j = if j = i then x else s.gfp j := mapGet_set _ _ i j x
@[simp] theorem pair_setPair (s : State) (i j : Nat) (x : PairSt) : (s.setPair i x).pair j = if j = i then x else s.pair j := mapGet_set _ _ i j x
@[simp] theorem oh_setOh (s : State) (i j : Nat) (x : OhSt) : (s.setOh i x).oh j = if j = i then x else s.oh j := mapGet_set _ _ i j x
@[simp] theorem spare_setSpare (s : State) (i j : Nat) (x : SpareSt) : (s.setSpare i x).spare j = if j = i then x else s.spare j := mapGet_set _ _ i j x
@[simp] theorem meter_setMeter (s : State) (i j : Nat) (x : MeterSt) : (s.setMeter i x).meter j = if j = i then x else s.meter j := mapGet_set _ _ i j x
@[simp] theorem mdCh_setMd (s : State) (i j : Nat) (x : MdCh) : (s.setMd i x).mdCh j = if j = i then x else s.mdCh j := mapGet_set _ _ i j x
@[simp] theorem ctx_setCtx (s : State) (i j : Nat) (x : CtxSt) : (s.setCtx i x).ctx j = if j = i then x else s.ctx j := mapGet_set _ _ i j x
@[simp] theorem q_setQ (s : State) (i j : Nat) (x : QSt) : (s.setQ i x).q j = if j = i then x else s.q j := mapGet_set _ _ i j x
@[simp] theorem node_setNode (s : State) (i j : Nat) (x : NodeSt) : (s.setNode i x).node j = if j = i then x else s.node j := mapGet_set _ _ i j x
@[simp] theorem chan_setChan (s : State) (i j : Nat) (x : ChanSt) : (s.setChan i x).chan j = if j = i then x else s.chan j := mapGet_set _ _ i j x
@[simp] theorem lock_setLock (s : State) (i j : Nat) (x : LockSt) : (s.setLock i x).lock j = if j = i then x else s.lock j := mapGet_set _ _ i j x
@[simp] theorem src_setSrc (s : State) (i j : Nat) (x : SrcSt) : (s.setSrc i x).src j = if j = i then x else s.src j := mapGet_set _ _ i j x
@[simp] theorem rxf_setRx (s : State) (i j : Nat) (x : RxFr) : (s.setRx i x).rxf j = if j = i then some x else s.rxf j := optGet_set _ i j x
@[simp] theorem txf_setTx (s : State) (i j : Nat) (x : TxFr) : (s.setTx i x).txf j = if j = i then some x else s.txf j := optGet_set _ i j x

end Sys2Proof.Laws
end

