-- ==== Sys2Proof/Laws/Keeps.lean ====
section
/-! SUPPORT. What every operation of the block keeps: the parts of the state that it does not touch, the canonical form of the
register fields and of the SRAM, the queue of commands, and that time and the count of draws never run back. The lemmas for each
operation follow in the Keeps files; the parts an operation may touch stand in its statement as facts about `P`. -/

namespace Sys2Proof.Laws

open Sys2Proof.Machine

/-- `t` differs from `s` in parts that `P` allows alone, keeps the canonical form and the queue, and its clock and count of draws
stand no lower. -/
def Keeps (P : Part → Prop) (s t : State) : Prop :=
  (∀ p, ¬ P p → Same s t p) ∧ (s.Wf → t.Wf) ∧ t.pending = s.pending ∧ s.tm.tick ≤ t.tm.tick ∧ s.free ≤ t.free

/-- An outcome whose next state keeps what `s` has. -/
def Outs (P : Part → Prop) (s : State) (o : Host.Outcome State Fault Refusal) : Prop := ∀ t, o = .next t → Keeps P s t

variable {P : Part → Prop}

theorem same_refl (s : State) (p : Part) : Same s s p := by cases p <;> rfl

theorem same_trans {a b c : State} {p : Part} (h : Same a b p) (g : Same b c p) : Same a c p := by
  cases p <;> exact Eq.trans g h

theorem Keeps.refl (s : State) : Keeps P s s := ⟨fun p _ => same_refl s p, id, rfl, le_refl _, le_refl _⟩

theorem Keeps.trans {a b c : State} (h : Keeps P a b) (g : Keeps P b c) : Keeps P a c :=
  ⟨fun p q => same_trans (h.1 p q) (g.1 p q), fun w => g.2.1 (h.2.1 w), g.2.2.1.trans h.2.2.1,
    h.2.2.2.1.trans g.2.2.2.1, h.2.2.2.2.trans g.2.2.2.2⟩

theorem outs_next {s t : State} (h : Keeps P s t) : Outs P s (.next t) := fun u e => by
  cases e; exact h

/-- One more change, in parts that `P` allows. -/
theorem keeps_step {s₀ s t : State} (hp : ∀ p, ¬ P p → Same s t p) (hw : s.Wf → t.Wf) (hq : t.pending = s.pending)
    (ht : s.tm.tick ≤ t.tm.tick) (hf : s.free ≤ t.free) (h : Keeps P s₀ s) : Keeps P s₀ t :=
  h.trans ⟨hp, hw, hq, ht, hf⟩

/-- A record update that leaves the registers, the SRAM, the queue, the clock and the draws. -/
theorem keeps_mk {s₀ s : State} {l : SMap Nat} {tr : List Transit} {sp : SpAnswer} {sys : SysSt} {tm : TmSt} {ny : NySt}
    {cc : CcSt} {hub : HubSt} {cu : SMap CuSt} {kw : KwSt} {md : SMap MdCh} {fab : FabSt} {lanes : SMap LaneSt}
    {spares : SMap SpareSt} {frs : SMap FrSt} {grps : SMap GrpSt} {gfps : SMap GfpSt} {pairs : SMap PairSt} {ohs : SMap OhSt}
    {chs : SMap ChSt} {rxs : SMap RxFr} {txs : SMap TxFr} {nextFr : Nat} {qs : SMap QSt} {shaps : SMap ShapSt}
    {nodes : SMap NodeSt} {vtime : SMap Nat} {fb : FbSt} {tbl : TblSt} {meters : SMap MeterSt} {ctxs : SMap CtxSt}
    {ring : RingSt} {led : LedSt} {sv : SvSt} {pw : PwSt}
    (hn : ny.sram = s.ny.sram) (ht : tm.tick = s.tm.tick)
    (h_sp : P .sp ∨ sp = s.sp)
    (h_latch : P .latch ∨ l = s.latch)
    (h_transit : P .transit ∨ tr = s.transit)
    (h_sys : P .sys ∨ sys = s.sys)
    (h_tm : P .tm ∨ tm = s.tm)
    (h_ny : P .ny ∨ ny = s.ny)
    (h_cc : P .cc ∨ cc = s.cc)
    (h_hub : P .hub ∨ hub = s.hub)
    (h_cu : P .cu ∨ cu = s.cu)
    (h_kw : P .kw ∨ kw = s.kw)
    (h_md : P .md ∨ md = s.md)
    (h_fab : P .fab ∨ fab = s.fab)
    (h_lanes : P .lanes ∨ lanes = s.lanes)
    (h_spares : P .spares ∨ spares = s.spares)
    (h_frs : P .frs ∨ frs = s.frs)
    (h_grps : P .grps ∨ grps = s.grps)
    (h_gfps : P .gfps ∨ gfps = s.gfps)
    (h_pairs : P .pairs ∨ pairs = s.pairs)
    (h_ohs : P .ohs ∨ ohs = s.ohs)
    (h_chs : P .chs ∨ chs = s.chs)
    (h_rxs : P .rxs ∨ rxs = s.rxs)
    (h_txs : P .txs ∨ txs = s.txs)
    (h_nextFr : P .nextFr ∨ nextFr = s.nextFr)
    (h_qs : P .qs ∨ qs = s.qs)
    (h_shaps : P .shaps ∨ shaps = s.shaps)
    (h_nodes : P .nodes ∨ nodes = s.nodes)
    (h_vtime : P .vtime ∨ vtime = s.vtime)
    (h_fb : P .fb ∨ fb = s.fb)
    (h_tbl : P .tbl ∨ tbl = s.tbl)
    (h_meters : P .meters ∨ meters = s.meters)
    (h_ctxs : P .ctxs ∨ ctxs = s.ctxs)
    (h_ring : P .ring ∨ ring = s.ring)
    (h_led : P .led ∨ led = s.led)
    (h_sv : P .sv ∨ sv = s.sv)
    (h_pw : P .pw ∨ pw = s.pw)
    (h : Keeps P s₀ s) :
    Keeps P s₀ ⟨s.pending, s.flds, l, tr, sp, s.free, sys, tm, ny, cc, hub, cu, kw, md, fab, lanes, spares, frs, grps, gfps, pairs,
      ohs, chs, rxs, txs, nextFr, qs, shaps, nodes, vtime, fb, tbl, meters, ctxs, ring, led, sv, pw⟩ := by
  refine keeps_step (s := s) (fun p q => ?_) (fun w => ⟨w.1, ?_⟩) rfl (le_of_eq ht.symm) (le_refl _) h
  · cases p
    case regs => rfl
    case sram => exact hn
    case free => rfl
    case ny => exact h_ny.elim (fun e => absurd e q) (fun e => by subst e; rfl)
    case sp => exact h_sp.elim (fun e => absurd e q) id
    case latch => exact h_latch.elim (fun e => absurd e q) id
    case transit => exact h_transit.elim (fun e => absurd e q) id
    case sys => exact h_sys.elim (fun e => absurd e q) id
    case tm => exact h_tm.elim (fun e => absurd e q) id
    case cc => exact h_cc.elim (fun e => absurd e q) id
    case hub => exact h_hub.elim (fun e => absurd e q) id
    case cu => exact h_cu.elim (fun e => absurd e q) id
    case kw => exact h_kw.elim (fun e => absurd e q) id
    case md => exact h_md.elim (fun e => absurd e q) id
    case fab => exact h_fab.elim (fun e => absurd e q) id
    case lanes => exact h_lanes.elim (fun e => absurd e q) id
    case spares => exact h_spares.elim (fun e => absurd e q) id
    case frs => exact h_frs.elim (fun e => absurd e q) id
    case grps => exact h_grps.elim (fun e => absurd e q) id
    case gfps => exact h_gfps.elim (fun e => absurd e q) id
    case pairs => exact h_pairs.elim (fun e => absurd e q) id
    case ohs => exact h_ohs.elim (fun e => absurd e q) id
    case chs => exact h_chs.elim (fun e => absurd e q) id
    case rxs => exact h_rxs.elim (fun e => absurd e q) id
    case txs => exact h_txs.elim (fun e => absurd e q) id
    case nextFr => exact h_nextFr.elim (fun e => absurd e q) id
    case qs => exact h_qs.elim (fun e => absurd e q) id
    case shaps => exact h_shaps.elim (fun e => absurd e q) id
    case nodes => exact h_nodes.elim (fun e => absurd e q) id
    case vtime => exact h_vtime.elim (fun e => absurd e q) id
    case fb => exact h_fb.elim (fun e => absurd e q) id
    case tbl => exact h_tbl.elim (fun e => absurd e q) id
    case meters => exact h_meters.elim (fun e => absurd e q) id
    case ctxs => exact h_ctxs.elim (fun e => absurd e q) id
    case ring => exact h_ring.elim (fun e => absurd e q) id
    case led => exact h_led.elim (fun e => absurd e q) id
    case sv => exact h_sv.elim (fun e => absurd e q) id
    case pw => exact h_pw.elim (fun e => absurd e q) id
  · rw [hn]; exact w.2

theorem keeps_wr {s₀ s : State} [hr : Fact (P .regs)] (f : Fld) (v : Nat) (h : Keeps P s₀ s) : Keeps P s₀ (s.wr f v) :=
  keeps_step (s := s) (fun p q => by cases p <;> first | rfl | exact absurd hr.out q) (fun w => ⟨fldsWf_wr f v w.1, w.2⟩) rfl
    (le_refl _) (le_refl _) h

theorem keeps_each {α : Type} {s₀ s : State} {l : List α} {f : State → α → State}
    (hf : ∀ t a, Keeps P s₀ t → Keeps P s₀ (f t a)) (h : Keeps P s₀ s) : Keeps P s₀ (s.each l f) := by
  unfold State.each
  induction l generalizing s with
  | nil => exact h
  | cons a l ih => exact ih (hf s a h)

theorem keeps_foldl {α : Type} {s₀ s : State} {l : List α} {f : State → α → State}
    (hf : ∀ t a, Keeps P s₀ t → Keeps P s₀ (f t a)) (h : Keeps P s₀ s) : Keeps P s₀ (l.foldl f s) := keeps_each hf h

/-- A state on the way, its value forgotten. -/
theorem keeps_cut {s₀ x y : State} (h : Keeps P s₀ x) (g : Keeps P s₀ x → Keeps P s₀ y) : Keeps P s₀ y := g h

theorem keeps_ite {s₀ s t : State} {c : Prop} [Decidable c] (h : Keeps P s₀ s) (g : Keeps P s₀ t) :
    Keeps P s₀ (if c then s else t) := by
  split <;> assumption

theorem keeps_sramWrite {s₀ s : State} [hr : Fact (P .sram)] (a : Nat) (l : List Byte) (h : Keeps P s₀ s) :
    Keeps P s₀ (s.sramWrite a l) :=
  keeps_step (s := s) (fun p q => by cases p <;> first | rfl | exact absurd hr.out q) (fun w => ⟨w.1, memWf_sramWrite a l w.2⟩) rfl
    (le_refl _) (le_refl _) h

end Sys2Proof.Laws
end

