-- ==== Sys2Proof/Laws/KeepsBase.lean ====
section
/-! SUPPORT. What the operations of Ops, Access and Events keep. -/

namespace Sys2Proof.Laws

open Sys2Proof.Machine

variable {P : Part → Prop}



theorem keeps_setBit [Fact (P .regs)] {s₀ s : State} (f : Fld) (i : Nat) (hk : Keeps P s₀ s) : Keeps P s₀ (State.setBit s f i) := by
  unfold State.setBit
  repeat' (first
    | with_reducible assumption
    | with_reducible exact Keeps.refl _
    | with_reducible apply keeps_wr)

theorem keeps_clrBit [Fact (P .regs)] {s₀ s : State} (f : Fld) (i : Nat) (hk : Keeps P s₀ s) : Keeps P s₀ (State.clrBit s f i) := by
  unfold State.clrBit
  repeat' (first
    | with_reducible assumption
    | with_reducible exact Keeps.refl _
    | with_reducible apply keeps_wr
    | fail_if_no_progress (with_reducible apply keeps_mk <;> first | exact .inl Fact.out | with_reducible exact .inr rfl | with_reducible rfl | skip)
    | with_reducible apply keeps_each
    | with_reducible apply keeps_foldl
    | split)

theorem keeps_raise [Fact (P .regs)] {s₀ s : State} (f : Fld) (hk : Keeps P s₀ s) : Keeps P s₀ (State.raise s f) := by
  unfold State.raise
  repeat' (first
    | with_reducible assumption
    | with_reducible exact Keeps.refl _
    | with_reducible apply keeps_wr)

theorem keeps_putBit [Fact (P .regs)] {s₀ s : State} (f : Fld) (i : Nat) (b : Bool) (hk : Keeps P s₀ s) : Keeps P s₀ (State.putBit s f i b) := by
  unfold State.putBit
  repeat' (first
    | with_reducible assumption
    | with_reducible exact Keeps.refl _
    | with_reducible apply keeps_setBit
    | with_reducible apply keeps_clrBit
    | fail_if_no_progress (with_reducible apply keeps_mk <;> first | exact .inl Fact.out | with_reducible exact .inr rfl | with_reducible rfl | skip)
    | with_reducible apply keeps_each
    | with_reducible apply keeps_foldl
    | split)

theorem keeps_put [Fact (P .regs)] {s₀ s : State} (f : Fld) (b : Bool) (hk : Keeps P s₀ s) : Keeps P s₀ (State.put s f b) := by
  unfold State.put
  repeat' (first
    | with_reducible assumption
    | with_reducible exact Keeps.refl _
    | with_reducible apply keeps_wr)

theorem keeps_bump [Fact (P .regs)] {s₀ s : State} (f : Fld) (n : Nat) (hk : Keeps P s₀ s) : Keeps P s₀ (State.bump s f n) := by
  unfold State.bump
  repeat' (first
    | with_reducible assumption
    | with_reducible exact Keeps.refl _
    | with_reducible apply keeps_wr)

theorem keeps_wr64 [Fact (P .regs)] {s₀ s : State} (lo hi : Fld) (v : Nat) (hk : Keeps P s₀ s) : Keeps P s₀ (State.wr64 s lo hi v) := by
  unfold State.wr64
  repeat' (first
    | with_reducible assumption
    | with_reducible exact Keeps.refl _
    | with_reducible apply keeps_wr)

theorem keeps_bump64 [Fact (P .regs)] {s₀ s : State} (lo hi : Fld) (n : Nat) (hk : Keeps P s₀ s) : Keeps P s₀ (State.bump64 s lo hi n) := by
  unfold State.bump64
  repeat' (first
    | with_reducible assumption
    | with_reducible exact Keeps.refl _
    | with_reducible apply keeps_wr64)

theorem keeps_draw [Fact (P .free)] {s₀ s : State} (h : Keeps P s₀ s) : Keeps P s₀ (State.draw s).2 :=
  keeps_step (s := s) (fun p q => by cases p <;> first | rfl | exact absurd Fact.out q) id rfl (le_refl _) (Nat.le_succ _) h

theorem keeps_draw_eq [Fact (P .free)] {s₀ s t : State} {x : BitVec 64} (e : State.draw s = (x, t)) (h : Keeps P s₀ s) : Keeps P s₀ t := by
  have := keeps_draw h
  rw [e] at this; exact this



theorem keeps_okay [Fact (P .sp)] {s₀ s : State} (d : Nat) (hk : Keeps P s₀ s) : Keeps P s₀ (State.okay s d) := by
  unfold State.okay
  repeat' (first
    | with_reducible assumption
    | with_reducible exact Keeps.refl _
    | fail_if_no_progress (with_reducible apply keeps_mk <;> first | exact .inl Fact.out | with_reducible exact .inr rfl | with_reducible rfl | skip))

theorem keeps_declined [Fact (P .sp)] {s₀ s : State}  (hk : Keeps P s₀ s) : Keeps P s₀ (State.declined s) := by
  unfold State.declined
  repeat' (first
    | with_reducible assumption
    | with_reducible exact Keeps.refl _
    | fail_if_no_progress (with_reducible apply keeps_mk <;> first | exact .inl Fact.out | with_reducible exact .inr rfl | with_reducible rfl | skip))

theorem keeps_setCh [Fact (P .chs)] {s₀ s : State} (c : Nat) (x : ChSt) (hk : Keeps P s₀ s) : Keeps P s₀ (State.setCh s c x) := by
  unfold State.setCh
  repeat' (first
    | with_reducible assumption
    | with_reducible exact Keeps.refl _
    | fail_if_no_progress (with_reducible apply keeps_mk <;> first | exact .inl Fact.out | with_reducible exact .inr rfl | with_reducible rfl | skip))

theorem keeps_sliceStands [Fact (P .rxs)] [Fact (P .sys)] {s₀ s : State} (i : Nat) (hk : Keeps P s₀ s) : Keeps P s₀ (State.sliceStands s i) := by
  unfold State.sliceStands
  repeat' (first
    | with_reducible assumption
    | with_reducible exact Keeps.refl _
    | fail_if_no_progress (with_reducible apply keeps_mk <;> first | exact .inl Fact.out | with_reducible exact .inr rfl | with_reducible rfl | skip))

theorem keeps_sliceGoesOn [Fact (P .chs)] [Fact (P .sys)] {s₀ s : State} (i : Nat) (hk : Keeps P s₀ s) : Keeps P s₀ (State.sliceGoesOn s i) := by
  unfold State.sliceGoesOn
  repeat' (first
    | with_reducible assumption
    | with_reducible exact Keeps.refl _
    | fail_if_no_progress (with_reducible apply keeps_mk <;> first | exact .inl Fact.out | with_reducible exact .inr rfl | with_reducible rfl | skip)
    | with_reducible apply keeps_each
    | with_reducible apply keeps_foldl
    | split)

theorem keeps_tableStands [Fact (P .sys)] {s₀ s : State}  (hk : Keeps P s₀ s) : Keeps P s₀ (State.tableStands s) := by
  unfold State.tableStands
  repeat' (first
    | with_reducible assumption
    | with_reducible exact Keeps.refl _
    | fail_if_no_progress (with_reducible apply keeps_mk <;> first | exact .inl Fact.out | with_reducible exact .inr rfl | with_reducible rfl | skip))

theorem keeps_refreshRun [Fact (P .chs)] [Fact (P .regs)] [Fact (P .rxs)] [Fact (P .sys)] [Fact (P .tm)] {s₀ s : State}  (hk : Keeps P s₀ s) : Keeps P s₀ (State.refreshRun s) := by
  unfold State.refreshRun
  repeat' (first
    | with_reducible assumption
    | with_reducible exact Keeps.refl _
    | with_reducible apply keeps_each
    | with_reducible apply keeps_sliceGoesOn
    | with_reducible apply keeps_sliceStands
    | with_reducible apply keeps_tableStands
    | with_reducible apply keeps_wr
    | with_reducible apply keeps_put
    | fail_if_no_progress (with_reducible apply keeps_mk <;> first | exact .inl Fact.out | with_reducible exact .inr rfl | with_reducible rfl | skip)
    | with_reducible apply keeps_each
    | with_reducible apply keeps_foldl
    | split
    | intro _)

theorem keeps_crossed [Fact (P .regs)] {s₀ s : State} (x occ : Nat) (hk : Keeps P s₀ s) : Keeps P s₀ (State.crossed s x occ) := by
  unfold State.crossed
  repeat' (first
    | with_reducible assumption
    | with_reducible exact Keeps.refl _
    | with_reducible apply keeps_wr)

theorem keeps_unqueue [Fact (P .fab)] {s₀ s : State} (p : Req → Bool) (hk : Keeps P s₀ s) : Keeps P s₀ (State.unqueue s p) := by
  unfold State.unqueue
  repeat' (first
    | with_reducible assumption
    | with_reducible exact Keeps.refl _
    | fail_if_no_progress (with_reducible apply keeps_mk <;> first | exact .inl Fact.out | with_reducible exact .inr rfl | with_reducible rfl | skip))

theorem keeps_pump [Fact (P .fab)] {s₀ s : State}  (hk : Keeps P s₀ s) : Keeps P s₀ (State.pump s) := by
  unfold State.pump
  repeat' (first
    | with_reducible assumption
    | with_reducible exact Keeps.refl _
    | fail_if_no_progress (with_reducible apply keeps_mk <;> first | exact .inl Fact.out | with_reducible exact .inr rfl | with_reducible rfl | skip))

theorem keeps_send [Fact (P .fab)] {s₀ s : State} (kind : ReqKind) (a b x vc addr : Nat) (data : List Byte) (rlen : Nat) (hk : Keeps P s₀ s) : Keeps P s₀ (State.send s kind a b x vc addr data rlen) := by
  unfold State.send
  repeat' (first
    | with_reducible assumption
    | with_reducible exact Keeps.refl _
    | with_reducible apply keeps_pump
    | fail_if_no_progress (with_reducible apply keeps_mk <;> first | exact .inl Fact.out | with_reducible exact .inr rfl | with_reducible rfl | skip))

theorem keeps_hostWrite [Fact (P .fab)] {s₀ s : State} (kind : ReqKind) (a b addr : Nat) (data : List Byte) (hk : Keeps P s₀ s) : Keeps P s₀ (State.hostWrite s kind a b addr data) := by
  unfold State.hostWrite
  repeat' (first
    | with_reducible assumption
    | with_reducible exact Keeps.refl _
    | with_reducible apply keeps_send)

theorem keeps_hostRead [Fact (P .fab)] {s₀ s : State} (kind : ReqKind) (a b addr n : Nat) (hk : Keeps P s₀ s) : Keeps P s₀ (State.hostRead s kind a b addr n) := by
  unfold State.hostRead
  repeat' (first
    | with_reducible assumption
    | with_reducible exact Keeps.refl _
    | with_reducible apply keeps_send)

theorem keeps_hostNotify [Fact (P .fab)] {s₀ s : State} (kind : ReqKind) (a b addr : Nat) (data : List Byte) (hk : Keeps P s₀ s) : Keeps P s₀ (State.hostNotify s kind a b addr data) := by
  unfold State.hostNotify
  repeat' (first
    | with_reducible assumption
    | with_reducible exact Keeps.refl _
    | with_reducible apply keeps_send)

theorem keeps_response [Fact (P .fab)] {s₀ s t : State} {k : ReqKind} {d : Deliv} (e : s.response k = some (d, t)) (h : Keeps P s₀ s) : Keeps P s₀ t := by
  unfold State.response at e
  split at e
  · cases e
  · cases g : takeFirst (fun d => d.kind == k) s.fab.done with
    | none => rw [g] at e; cases e
    | some r => rw [g] at e; cases e; exact (by apply keeps_mk <;> first | with_reducible exact .inr rfl | exact .inl Fact.out | rfl | exact h)

theorem keeps_writePlain [Fact (P .regs)] {s₀ s : State} (off v : Nat) (hk : Keeps P s₀ s) : Keeps P s₀ (State.writePlain s off v) := by
  unfold State.writePlain
  repeat' (first
    | with_reducible assumption
    | with_reducible exact Keeps.refl _
    | with_reducible apply keeps_wr
    | fail_if_no_progress (with_reducible apply keeps_mk <;> first | exact .inl Fact.out | with_reducible exact .inr rfl | with_reducible rfl | skip)
    | with_reducible apply keeps_each
    | with_reducible apply keeps_foldl
    | split
    | intro _)

theorem keeps_keep [Fact (P .tm)] {s₀ s : State} (off : Nat) (hk : Keeps P s₀ s) : Keeps P s₀ (State.keep s off) := by
  unfold State.keep
  repeat' (first
    | with_reducible assumption
    | with_reducible exact Keeps.refl _
    | fail_if_no_progress (with_reducible apply keeps_mk <;> first | exact .inl Fact.out | with_reducible exact .inr rfl | with_reducible rfl | skip))

theorem keeps_writeKept [Fact (P .regs)] [Fact (P .tm)] {s₀ s : State} (off v : Nat) (hk : Keeps P s₀ s) : Keeps P s₀ (State.writeKept s off v) := by
  unfold State.writeKept
  repeat' (first
    | with_reducible assumption
    | with_reducible exact Keeps.refl _
    | with_reducible apply keeps_keep
    | with_reducible apply keeps_writePlain)

theorem keeps_addBack [Fact (P .latch)] [Fact (P .regs)] {s₀ s : State} (t : Transit) (hk : Keeps P s₀ s) : Keeps P s₀ (State.addBack s t) := by
  unfold State.addBack
  repeat' (first
    | with_reducible assumption
    | with_reducible exact Keeps.refl _
    | with_reducible apply keeps_bump64
    | with_reducible apply keeps_bump
    | with_reducible apply keeps_setBit
    | fail_if_no_progress (with_reducible apply keeps_mk <;> first | exact .inl Fact.out | with_reducible exact .inr rfl | with_reducible rfl | skip)
    | with_reducible apply keeps_each
    | with_reducible apply keeps_foldl
    | split)

theorem keeps_rcTake [Fact (P .latch)] [Fact (P .regs)] [Fact (P .sv)] [Fact (P .transit)] {s₀ s : State} (reader o : Nat) (pair : Bool) (k : Taken) (f : FieldDesc) (pos : Nat) (hk : Keeps P s₀ s) : Keeps P s₀ (State.rcTake s reader o pair k f pos) := by
  unfold State.rcTake
  repeat' (first
    | with_reducible assumption
    | with_reducible exact Keeps.refl _
    | with_reducible apply keeps_wr64
    | with_reducible apply keeps_wr
    | with_reducible apply keeps_addBack
    | fail_if_no_progress (with_reducible apply keeps_mk <;> first | exact .inl Fact.out | with_reducible exact .inr rfl | with_reducible rfl | skip)
    | with_reducible apply keeps_each
    | with_reducible apply keeps_foldl
    | split)

theorem keeps_rcTakeAll [Fact (P .latch)] [Fact (P .regs)] [Fact (P .sv)] [Fact (P .transit)] {s₀ s : State} (reader off : Nat) (pair : Bool) (k : Taken) (pos : Nat) (hk : Keeps P s₀ s) : Keeps P s₀ (State.rcTakeAll s reader off pair k pos) := by
  unfold State.rcTakeAll
  repeat' (first
    | with_reducible assumption
    | with_reducible exact Keeps.refl _
    | with_reducible apply keeps_each
    | with_reducible apply keeps_rcTake
    | fail_if_no_progress (with_reducible apply keeps_mk <;> first | exact .inl Fact.out | with_reducible exact .inr rfl | with_reducible rfl | skip)
    | with_reducible apply keeps_each
    | with_reducible apply keeps_foldl
    | split
    | intro _)

theorem keeps_failTransit [Fact (P .latch)] [Fact (P .regs)] [Fact (P .transit)] {s₀ s : State} (p : Nat → Bool) (hk : Keeps P s₀ s) : Keeps P s₀ (State.failTransit s p) := by
  unfold State.failTransit
  repeat' (first
    | with_reducible assumption
    | with_reducible exact Keeps.refl _
    | with_reducible apply keeps_each
    | with_reducible apply keeps_addBack
    | fail_if_no_progress (with_reducible apply keeps_mk <;> first | exact .inl Fact.out | with_reducible exact .inr rfl | with_reducible rfl | skip))

theorem keeps_settle [Fact (P .transit)] {s₀ s : State} (reader : Nat) (hk : Keeps P s₀ s) : Keeps P s₀ (State.settle s reader) := by
  unfold State.settle
  repeat' (first
    | with_reducible assumption
    | with_reducible exact Keeps.refl _
    | fail_if_no_progress (with_reducible apply keeps_mk <;> first | exact .inl Fact.out | with_reducible exact .inr rfl | with_reducible rfl | skip))

theorem clock_keeps [Fact (P .tm)] {s₀ s : State} {tm : TmSt} (ht : s.tm.tick ≤ tm.tick) (h : Keeps P s₀ s) : Keeps P s₀ { s with tm := tm } :=
  keeps_step (s := s) (fun p q => by cases p <;> first | rfl | exact absurd Fact.out q) id rfl ht (le_refl _) h

theorem keeps_advance [Fact (P .regs)] [Fact (P .tm)] {s₀ s : State} (k : Nat) (h : Keeps P s₀ s) : Keeps P s₀ (State.advance s k) := by
  unfold State.advance
  extract_lets a b c tm tm' u v
  have hu : Keeps P s₀ u := clock_keeps (by dsimp only [tm', tm, c]; split <;> exact Nat.le_add_right _ _) h
  have hv : Keeps P s₀ v := keeps_ite (keeps_wr64 _ _ _ hu) hu
  exact keeps_ite (keeps_wr64 _ _ _ hv) hv

theorem keeps_advanceTo [Fact (P .regs)] [Fact (P .tm)] {s₀ s : State} (t : Nat) (hk : Keeps P s₀ s) : Keeps P s₀ (State.advanceTo s t) := by
  unfold State.advanceTo
  repeat' (first
    | with_reducible assumption
    | with_reducible exact Keeps.refl _
    | with_reducible apply keeps_advance
    | fail_if_no_progress (with_reducible apply keeps_mk <;> first | exact .inl Fact.out | with_reducible exact .inr rfl | with_reducible rfl | skip)
    | with_reducible apply keeps_each
    | with_reducible apply keeps_foldl
    | split)

theorem keeps_advanceMg [Fact (P .regs)] [Fact (P .tm)] {s₀ s : State} (t : Nat) (hk : Keeps P s₀ s) : Keeps P s₀ (State.advanceMg s t) := by
  unfold State.advanceMg
  repeat' (first
    | with_reducible assumption
    | with_reducible exact Keeps.refl _
    | with_reducible apply keeps_advanceTo)

theorem keeps_pcEvent [Fact (P .regs)] {s₀ s : State} (e : Nat) (a : PcAttr) (n : Nat) (hk : Keeps P s₀ s) : Keeps P s₀ (State.pcEvent s e a n) := by
  unfold State.pcEvent
  repeat' (first
    | with_reducible assumption
    | with_reducible exact Keeps.refl _
    | with_reducible apply keeps_wr64
    | with_reducible apply keeps_setBit
    | with_reducible apply keeps_raise
    | fail_if_no_progress (with_reducible apply keeps_mk <;> first | exact .inl Fact.out | with_reducible exact .inr rfl | with_reducible rfl | skip)
    | with_reducible apply keeps_each
    | with_reducible apply keeps_foldl
    | split
    | intro _
    | (extract_lets +onlyGivenNames x; refine keeps_cut (x := x) ?_ ?_; on_goal 2 => clear_value x)
    | extract_lets +onlyGivenNames y)

theorem keeps_pcSlice [Fact (P .regs)] {s₀ s : State} (p k : Nat) (a : PcAttr) (n : Nat) (hk : Keeps P s₀ s) : Keeps P s₀ (State.pcSlice s p k a n) := by
  unfold State.pcSlice
  repeat' (first
    | with_reducible assumption
    | with_reducible exact Keeps.refl _
    | with_reducible apply keeps_pcEvent
    | fail_if_no_progress (with_reducible apply keeps_mk <;> first | exact .inl Fact.out | with_reducible exact .inr rfl | with_reducible rfl | skip)
    | with_reducible apply keeps_each
    | with_reducible apply keeps_foldl
    | split)

theorem keeps_settleBeats [Fact (P .fab)] [Fact (P .regs)] {s₀ s : State}  (hk : Keeps P s₀ s) : Keeps P s₀ (State.settleBeats s) := by
  unfold State.settleBeats
  repeat' (first
    | with_reducible assumption
    | with_reducible exact Keeps.refl _
    | with_reducible apply keeps_each
    | with_reducible apply keeps_bump64
    | with_reducible apply keeps_pcEvent
    | with_reducible apply keeps_crossed
    | fail_if_no_progress (with_reducible apply keeps_mk <;> first | exact .inl Fact.out | with_reducible exact .inr rfl | with_reducible rfl | skip)
    | with_reducible apply keeps_each
    | with_reducible apply keeps_foldl
    | split
    | intro _)

theorem keeps_spCross [Fact (P .regs)] {s₀ s : State} (off : Nat) (hk : Keeps P s₀ s) : Keeps P s₀ (State.spCross s off) := by
  unfold State.spCross
  repeat' (first
    | with_reducible assumption
    | with_reducible exact Keeps.refl _
    | with_reducible apply keeps_crossed
    | fail_if_no_progress (with_reducible apply keeps_mk <;> first | exact .inl Fact.out | with_reducible exact .inr rfl | with_reducible rfl | skip)
    | with_reducible apply keeps_each
    | with_reducible apply keeps_foldl
    | split
    | intro _
    | (extract_lets +onlyGivenNames x; refine keeps_cut (x := x) ?_ ?_; on_goal 2 => clear_value x))

theorem keeps_spCount [Fact (P .regs)] {s₀ s : State} (w : Who) (write : Bool) (off : Nat) (hk : Keeps P s₀ s) : Keeps P s₀ (State.spCount s w write off) := by
  unfold State.spCount
  repeat' (first
    | with_reducible assumption
    | with_reducible exact Keeps.refl _
    | with_reducible apply keeps_pcEvent
    | with_reducible apply keeps_spCross
    | fail_if_no_progress (with_reducible apply keeps_mk <;> first | exact .inl Fact.out | with_reducible exact .inr rfl | with_reducible rfl | skip)
    | with_reducible apply keeps_each
    | with_reducible apply keeps_foldl
    | split)

theorem keeps_dbCount [Fact (P .regs)] {s₀ s : State} (w : Who) (write : Bool) (off : Nat) (hk : Keeps P s₀ s) : Keeps P s₀ (State.dbCount s w write off) := by
  unfold State.dbCount
  repeat' (first
    | with_reducible assumption
    | with_reducible exact Keeps.refl _
    | with_reducible apply keeps_pcEvent
    | with_reducible apply keeps_crossed
    | fail_if_no_progress (with_reducible apply keeps_mk <;> first | exact .inl Fact.out | with_reducible exact .inr rfl | with_reducible rfl | skip)
    | with_reducible apply keeps_each
    | with_reducible apply keeps_foldl
    | split)

theorem keeps_guardWrite [Fact (P .fab)] [Fact (P .regs)] [Fact (P .sp)] {s₀ s : State} (w : Who) (off : Nat) {f : State → State} (hf : ∀ t, Keeps P s₀ t → Keeps P s₀ (f t))
    (h : Keeps P s₀ s) : Keeps P s₀ (State.guardWrite s w off f) := by
  unfold State.guardWrite
  split
  · exact keeps_okay _ (hf _ (keeps_spCount _ _ _ (keeps_settleBeats h)))
  · exact keeps_declined h

theorem keeps_guardRead [Fact (P .fab)] [Fact (P .regs)] [Fact (P .sp)] {s₀ s : State} (w : Who) (off : Nat) {f : State → Nat × State} (hf : ∀ t, Keeps P s₀ t → Keeps P s₀ (f t).2)
    (h : Keeps P s₀ s) : Keeps P s₀ (State.guardRead s w off f) := by
  unfold State.guardRead
  split
  · exact keeps_okay _ (hf _ (keeps_spCount _ _ _ (keeps_settleBeats h)))
  · exact keeps_declined h

theorem keeps_sliceFault [Fact (P .regs)] [Fact (P .sv)] {s₀ s : State} (i : Nat) (hk : Keeps P s₀ s) : Keeps P s₀ (State.sliceFault s i) := by
  unfold State.sliceFault
  repeat' (first
    | with_reducible assumption
    | with_reducible exact Keeps.refl _
    | with_reducible apply keeps_setBit
    | fail_if_no_progress (with_reducible apply keeps_mk <;> first | exact .inl Fact.out | with_reducible exact .inr rfl | with_reducible rfl | skip))

theorem keeps_rowNote [Fact (P .regs)] {s₀ s : State} (r : Nat) (hk : Keeps P s₀ s) : Keeps P s₀ (State.rowNote s r) := by
  unfold State.rowNote
  repeat' (first
    | with_reducible assumption
    | with_reducible exact Keeps.refl _
    | with_reducible apply keeps_wr
    | fail_if_no_progress (with_reducible apply keeps_mk <;> first | exact .inl Fact.out | with_reducible exact .inr rfl | with_reducible rfl | skip)
    | with_reducible apply keeps_each
    | with_reducible apply keeps_foldl
    | split)

theorem keeps_rowUnc [Fact (P .regs)] {s₀ s : State} (r : Nat) (hk : Keeps P s₀ s) : Keeps P s₀ (State.rowUnc s r) := by
  unfold State.rowUnc
  repeat' (first
    | with_reducible assumption
    | with_reducible exact Keeps.refl _
    | with_reducible apply keeps_rowNote
    | with_reducible apply keeps_raise
    | with_reducible apply keeps_bump)

theorem keeps_svEnd [Fact (P .fab)] [Fact (P .regs)] [Fact (P .sv)] {s₀ s : State} (status : Nat) (hk : Keeps P s₀ s) : Keeps P s₀ (State.svEnd s status) := by
  unfold State.svEnd
  repeat' (first
    | with_reducible assumption
    | with_reducible exact Keeps.refl _
    | with_reducible apply keeps_wr
    | with_reducible apply keeps_raise
    | fail_if_no_progress (with_reducible apply keeps_mk <;> first | exact .inl Fact.out | with_reducible exact .inr rfl | with_reducible rfl | skip))

theorem keeps_bgBegin [Fact (P .ny)] {s₀ s : State} (a u : Nat) (hk : Keeps P s₀ s) : Keeps P s₀ (State.bgBegin s a u) := by
  unfold State.bgBegin
  repeat' (first
    | with_reducible assumption
    | with_reducible exact Keeps.refl _
    | fail_if_no_progress (with_reducible apply keeps_mk <;> first | exact .inl Fact.out | with_reducible exact .inr rfl | with_reducible rfl | skip))

theorem keeps_bgDone [Fact (P .ny)] [Fact (P .regs)] {s₀ s : State} (a u : Nat) (hk : Keeps P s₀ s) : Keeps P s₀ (State.bgDone s a u) := by
  unfold State.bgDone
  repeat' (first
    | with_reducible assumption
    | with_reducible exact Keeps.refl _
    | with_reducible apply keeps_put
    | fail_if_no_progress (with_reducible apply keeps_mk <;> first | exact .inl Fact.out | with_reducible exact .inr rfl | with_reducible rfl | skip))

theorem keeps_postHw [Fact (P .ny)] [Fact (P .regs)] {s₀ s : State} (code sev a0 a1 a2 : Nat) (hk : Keeps P s₀ s) : Keeps P s₀ (State.postHw s code sev a0 a1 a2) := by
  unfold State.postHw
  repeat' (first
    | with_reducible assumption
    | with_reducible exact Keeps.refl _
    | with_reducible apply keeps_bump
    | fail_if_no_progress (with_reducible apply keeps_mk <;> first | exact .inl Fact.out | with_reducible exact .inr rfl | with_reducible rfl | skip)
    | with_reducible apply keeps_each
    | with_reducible apply keeps_foldl
    | split)

end Sys2Proof.Laws
end

