-- ==== Sys2Proof/Laws/KeepsTime.lean ====
section
/-! SUPPORT. What the operations of Time.lean keep. -/

namespace Sys2Proof.Laws

open Sys2Proof.Machine

variable {P : Part → Prop}

theorem keeps_refreshHold [Fact (P .regs)] [Fact (P .tm)] {s₀ s : State}  (hk : Keeps P s₀ s) : Keeps P s₀ (State.refreshHold s) := by
  unfold State.refreshHold
  repeat' (first
    | with_reducible assumption
    | with_reducible exact Keeps.refl _
    | with_reducible apply keeps_keep
    | with_reducible apply keeps_put
    | with_reducible apply keeps_raise
    | fail_if_no_progress (with_reducible apply keeps_mk <;> first | exact .inl Fact.out | with_reducible exact .inr rfl | with_reducible rfl | skip)
    | with_reducible apply keeps_each
    | with_reducible apply keeps_foldl
    | split
    | intro _
    | (extract_lets +onlyGivenNames x; refine keeps_cut (x := x) ?_ ?_; on_goal 2 => clear_value x)
    | extract_lets +onlyGivenNames y)

theorem keeps_timeBreak [Fact (P .tm)] {s₀ s : State}  (hk : Keeps P s₀ s) : Keeps P s₀ (State.timeBreak s) := by
  unfold State.timeBreak
  repeat' (first
    | with_reducible assumption
    | with_reducible exact Keeps.refl _
    | fail_if_no_progress (with_reducible apply keeps_mk <;> first | exact .inl Fact.out | with_reducible exact .inr rfl | with_reducible rfl | skip))

theorem keeps_startStep [Fact (P .regs)] [Fact (P .tm)] {s₀ s : State} (k : StepKind) (v : Int) (hk : Keeps P s₀ s) : Keeps P s₀ (State.startStep s k v) := by
  unfold State.startStep
  repeat' (first
    | with_reducible assumption
    | with_reducible exact Keeps.refl _
    | with_reducible apply keeps_raise
    | fail_if_no_progress (with_reducible apply keeps_mk <;> first | exact .inl Fact.out | with_reducible exact .inr rfl | with_reducible rfl | skip))

theorem keeps_stepEffect [Fact (P .regs)] [Fact (P .tm)] {s₀ s : State} (p : TmStep) (hk : Keeps P s₀ s) : Keeps P s₀ (State.stepEffect s p) := by
  unfold State.stepEffect
  repeat' (first
    | with_reducible assumption
    | with_reducible exact Keeps.refl _
    | with_reducible apply keeps_timeBreak
    | with_reducible apply keeps_wr
    | with_reducible apply keeps_raise
    | with_reducible apply keeps_wr64
    | with_reducible apply keeps_refreshHold
    | fail_if_no_progress (with_reducible apply keeps_mk <;> first | exact .inl Fact.out | with_reducible exact .inr rfl | with_reducible rfl | skip)
    | with_reducible apply keeps_each
    | with_reducible apply keeps_foldl
    | split)

theorem keeps_tmCmd [Fact (P .regs)] [Fact (P .tm)] {s₀ s : State} (v : Nat) (hk : Keeps P s₀ s) : Keeps P s₀ (State.tmCmd s v) := by
  unfold State.tmCmd
  repeat' (first
    | with_reducible assumption
    | with_reducible exact Keeps.refl _
    | with_reducible apply keeps_bump
    | with_reducible apply keeps_startStep
    | with_reducible apply keeps_wr
    | with_reducible apply keeps_refreshHold
    | fail_if_no_progress (with_reducible apply keeps_mk <;> first | exact .inl Fact.out | with_reducible exact .inr rfl | with_reducible rfl | skip)
    | with_reducible apply keeps_each
    | with_reducible apply keeps_foldl
    | split)

theorem keeps_tmIncr [Fact (P .regs)] {s₀ s : State} (v : Nat) (hk : Keeps P s₀ s) : Keeps P s₀ (State.tmIncr s v) := by
  unfold State.tmIncr
  repeat' (first
    | with_reducible assumption
    | with_reducible exact Keeps.refl _
    | with_reducible apply keeps_wr
    | with_reducible apply keeps_bump
    | fail_if_no_progress (with_reducible apply keeps_mk <;> first | exact .inl Fact.out | with_reducible exact .inr rfl | with_reducible rfl | skip)
    | with_reducible apply keeps_each
    | with_reducible apply keeps_foldl
    | split)

theorem keeps_tmCtrl [Fact (P .regs)] [Fact (P .tm)] {s₀ s : State} (v : Nat) (hk : Keeps P s₀ s) : Keeps P s₀ (State.tmCtrl s v) := by
  unfold State.tmCtrl
  repeat' (first
    | with_reducible assumption
    | with_reducible exact Keeps.refl _
    | with_reducible apply keeps_writePlain
    | with_reducible apply keeps_refreshHold
    | fail_if_no_progress (with_reducible apply keeps_mk <;> first | exact .inl Fact.out | with_reducible exact .inr rfl | with_reducible rfl | skip)
    | with_reducible apply keeps_each
    | with_reducible apply keeps_foldl
    | split)

theorem keeps_tmWrite [Fact (P .regs)] [Fact (P .tm)] {s₀ s : State} (off v : Nat) (hk : Keeps P s₀ s) : Keeps P s₀ (State.tmWrite s off v) := by
  unfold State.tmWrite
  repeat' (first
    | with_reducible assumption
    | with_reducible exact Keeps.refl _
    | with_reducible apply keeps_tmCtrl
    | with_reducible apply keeps_tmIncr
    | with_reducible apply keeps_tmCmd
    | with_reducible apply keeps_writeKept
    | with_reducible apply keeps_writePlain
    | fail_if_no_progress (with_reducible apply keeps_mk <;> first | exact .inl Fact.out | with_reducible exact .inr rfl | with_reducible rfl | skip)
    | with_reducible apply keeps_each
    | with_reducible apply keeps_foldl
    | split)

theorem keeps_execTmSet [Fact (P .fab)] [Fact (P .regs)] [Fact (P .sp)] [Fact (P .tm)] (w : Who) (s : State) : Outs P s (execTmSet w s) := by
  unfold execTmSet
  apply outs_next
  repeat' (first
    | with_reducible assumption
    | with_reducible exact Keeps.refl _
    | with_reducible apply keeps_guardWrite
    | with_reducible apply keeps_tmCmd
    | fail_if_no_progress (with_reducible apply keeps_mk <;> first | exact .inl Fact.out | with_reducible exact .inr rfl | with_reducible rfl | skip)
    | with_reducible apply keeps_each
    | with_reducible apply keeps_foldl
    | split
    | intro _)

theorem keeps_execTmOffset [Fact (P .fab)] [Fact (P .regs)] [Fact (P .sp)] [Fact (P .tm)] (w : Who) (s : State) : Outs P s (execTmOffset w s) := by
  unfold execTmOffset
  apply outs_next
  repeat' (first
    | with_reducible assumption
    | with_reducible exact Keeps.refl _
    | with_reducible apply keeps_guardWrite
    | with_reducible apply keeps_tmCmd
    | fail_if_no_progress (with_reducible apply keeps_mk <;> first | exact .inl Fact.out | with_reducible exact .inr rfl | with_reducible rfl | skip)
    | with_reducible apply keeps_each
    | with_reducible apply keeps_foldl
    | split
    | intro _)

theorem keeps_execTmRelock [Fact (P .fab)] [Fact (P .regs)] [Fact (P .sp)] [Fact (P .tm)] (w : Who) (s : State) : Outs P s (execTmRelock w s) := by
  unfold execTmRelock
  apply outs_next
  repeat' (first
    | with_reducible assumption
    | with_reducible exact Keeps.refl _
    | with_reducible apply keeps_guardWrite
    | with_reducible apply keeps_tmCmd
    | fail_if_no_progress (with_reducible apply keeps_mk <;> first | exact .inl Fact.out | with_reducible exact .inr rfl | with_reducible rfl | skip)
    | with_reducible apply keeps_each
    | with_reducible apply keeps_foldl
    | split
    | intro _)

theorem keeps_execTmIncrWrite [Fact (P .fab)] [Fact (P .regs)] [Fact (P .sp)] (w : Who) (v : Word) (s : State) : Outs P s (execTmIncrWrite w v s) := by
  unfold execTmIncrWrite
  apply outs_next
  repeat' (first
    | with_reducible assumption
    | with_reducible exact Keeps.refl _
    | with_reducible apply keeps_guardWrite
    | with_reducible apply keeps_tmIncr
    | fail_if_no_progress (with_reducible apply keeps_mk <;> first | exact .inl Fact.out | with_reducible exact .inr rfl | with_reducible rfl | skip)
    | with_reducible apply keeps_each
    | with_reducible apply keeps_foldl
    | split
    | intro _)

theorem keeps_timeCapture [Fact (P .regs)] {s₀ s : State}  (hk : Keeps P s₀ s) : Keeps P s₀ (State.timeCapture s) := by
  unfold State.timeCapture
  repeat' (first
    | with_reducible assumption
    | with_reducible exact Keeps.refl _
    | with_reducible apply keeps_wr)

theorem keeps_execTimeCaptureRead [Fact (P .fab)] [Fact (P .regs)] [Fact (P .sp)] (w : Who) (s : State) : Outs P s (execTimeCaptureRead w s) := by
  unfold execTimeCaptureRead
  apply outs_next
  repeat' (first
    | with_reducible assumption
    | with_reducible exact Keeps.refl _
    | with_reducible apply keeps_guardRead
    | with_reducible apply keeps_timeCapture)

theorem keeps_goodEdge [Fact (P .regs)] [Fact (P .tm)] {s₀ s : State}  (hk : Keeps P s₀ s) : Keeps P s₀ (State.goodEdge s) := by
  unfold State.goodEdge
  repeat' (first
    | with_reducible assumption
    | with_reducible exact Keeps.refl _
    | with_reducible apply keeps_bump
    | with_reducible apply keeps_wr
    | with_reducible apply keeps_refreshHold
    | fail_if_no_progress (with_reducible apply keeps_mk <;> first | exact .inl Fact.out | with_reducible exact .inr rfl | with_reducible rfl | skip)
    | with_reducible apply keeps_each
    | with_reducible apply keeps_foldl
    | split
    | intro _
    | (extract_lets +onlyGivenNames x; refine keeps_cut (x := x) ?_ ?_; on_goal 2 => clear_value x))

theorem keeps_takeEdge [Fact (P .regs)] [Fact (P .tm)] {s₀ s : State} (t : Nat) (hk : Keeps P s₀ s) : Keeps P s₀ (State.takeEdge s t) := by
  unfold State.takeEdge
  repeat' (first
    | with_reducible assumption
    | with_reducible exact Keeps.refl _
    | with_reducible apply keeps_wr
    | with_reducible apply keeps_raise
    | with_reducible apply keeps_goodEdge
    | with_reducible apply keeps_startStep
    | fail_if_no_progress (with_reducible apply keeps_mk <;> first | exact .inl Fact.out | with_reducible exact .inr rfl | with_reducible rfl | skip)
    | with_reducible apply keeps_each
    | with_reducible apply keeps_foldl
    | split
    | intro _
    | (extract_lets +onlyGivenNames x; refine keeps_cut (x := x) ?_ ?_; on_goal 2 => clear_value x)
    | extract_lets +onlyGivenNames y
    | dsimp +zetaDelta only)

theorem keeps_aonMark [Fact (P .tm)] {s₀ s : State}  (hk : Keeps P s₀ s) : Keeps P s₀ (State.aonMark s) := by
  unfold State.aonMark
  repeat' (first
    | with_reducible assumption
    | with_reducible exact Keeps.refl _
    | fail_if_no_progress (with_reducible apply keeps_mk <;> first | exact .inl Fact.out | with_reducible exact .inr rfl | with_reducible rfl | skip)
    | with_reducible apply keeps_each
    | with_reducible apply keeps_foldl
    | split
    | intro _
    | (extract_lets +onlyGivenNames x; refine keeps_cut (x := x) ?_ ?_; on_goal 2 => clear_value x)
    | extract_lets +onlyGivenNames y
    | dsimp +zetaDelta only)

theorem keeps_execPpsEdge [Fact (P .regs)] [Fact (P .tm)]  (s : State) : Outs P s (execPpsEdge s) := by
  unfold execPpsEdge
  apply outs_next
  repeat' (first
    | with_reducible assumption
    | with_reducible exact Keeps.refl _
    | with_reducible apply keeps_takeEdge
    | with_reducible apply keeps_aonMark
    | with_reducible apply keeps_bump
    | fail_if_no_progress (with_reducible apply keeps_mk <;> first | exact .inl Fact.out | with_reducible exact .inr rfl | with_reducible rfl | skip)
    | with_reducible apply keeps_each
    | with_reducible apply keeps_foldl
    | split)

theorem keeps_execPpsLossTimeout [Fact (P .regs)] [Fact (P .tm)]  (s : State) : Outs P s (execPpsLossTimeout s) := by
  unfold execPpsLossTimeout
  apply outs_next
  repeat' (first
    | with_reducible assumption
    | with_reducible exact Keeps.refl _
    | with_reducible apply keeps_advance
    | with_reducible apply keeps_wr
    | with_reducible apply keeps_raise
    | with_reducible apply keeps_refreshHold
    | fail_if_no_progress (with_reducible apply keeps_mk <;> first | exact .inl Fact.out | with_reducible exact .inr rfl | with_reducible rfl | skip)
    | with_reducible apply keeps_each
    | with_reducible apply keeps_foldl
    | split)

theorem keeps_execTodMessage [Fact (P .regs)] [Fact (P .tm)] (m : List Byte) (s : State) : Outs P s (execTodMessage m s) := by
  unfold execTodMessage
  apply outs_next
  repeat' (first
    | with_reducible assumption
    | with_reducible exact Keeps.refl _
    | with_reducible apply keeps_wr
    | with_reducible apply keeps_raise
    | with_reducible apply keeps_bump
    | fail_if_no_progress (with_reducible apply keeps_mk <;> first | exact .inl Fact.out | with_reducible exact .inr rfl | with_reducible rfl | skip)
    | with_reducible apply keeps_each
    | with_reducible apply keeps_foldl
    | split)

theorem keeps_execAonPeriodMeasured [Fact (P .regs)] [Fact (P .tm)] (period : Word) (s : State) : Outs P s (execAonPeriodMeasured period s) := by
  unfold execAonPeriodMeasured
  apply outs_next
  repeat' (first
    | with_reducible assumption
    | with_reducible exact Keeps.refl _
    | with_reducible apply keeps_wr
    | with_reducible apply keeps_raise
    | fail_if_no_progress (with_reducible apply keeps_mk <;> first | exact .inl Fact.out | with_reducible exact .inr rfl | with_reducible rfl | skip)
    | with_reducible apply keeps_each
    | with_reducible apply keeps_foldl
    | split
    | intro _
    | (extract_lets +onlyGivenNames x; refine keeps_cut (x := x) ?_ ?_; on_goal 2 => clear_value x)
    | extract_lets +onlyGivenNames y)

end Sys2Proof.Laws
end

