-- ==== Sys2Proof/Laws/KeepsChannels.lean ====
section
/-! SUPPORT. What the operations of Channels.lean keep. -/

namespace Sys2Proof.Laws

open Sys2Proof.Machine

variable {P : Part → Prop}

theorem keeps_setChan [Fact (P .cc)] {s₀ s : State} (n : Nat) (c : ChanSt) (hk : Keeps P s₀ s) : Keeps P s₀ (State.setChan s n c) := by
  unfold State.setChan
  repeat' (first
    | with_reducible assumption
    | with_reducible exact Keeps.refl _
    | fail_if_no_progress (with_reducible apply keeps_mk <;> first | exact .inl Fact.out | with_reducible exact .inr rfl | with_reducible rfl | skip))

theorem keeps_setLock [Fact (P .cc)] {s₀ s : State} (l : Nat) (k : LockSt) (hk : Keeps P s₀ s) : Keeps P s₀ (State.setLock s l k) := by
  unfold State.setLock
  repeat' (first
    | with_reducible assumption
    | with_reducible exact Keeps.refl _
    | fail_if_no_progress (with_reducible apply keeps_mk <;> first | exact .inl Fact.out | with_reducible exact .inr rfl | with_reducible rfl | skip))

theorem keeps_setWants [Fact (P .cc)] {s₀ s : State} (w : SMap WantSt) (hk : Keeps P s₀ s) : Keeps P s₀ (State.setWants s w) := by
  unfold State.setWants
  repeat' (first
    | with_reducible assumption
    | with_reducible exact Keeps.refl _
    | fail_if_no_progress (with_reducible apply keeps_mk <;> first | exact .inl Fact.out | with_reducible exact .inr rfl | with_reducible rfl | skip))

theorem keeps_refreshHalts [Fact (P .cc)] {s₀ s : State}  (hk : Keeps P s₀ s) : Keeps P s₀ (State.refreshHalts s) := by
  unfold State.refreshHalts
  repeat' (first
    | with_reducible assumption
    | with_reducible exact Keeps.refl _
    | fail_if_no_progress (with_reducible apply keeps_mk <;> first | exact .inl Fact.out | with_reducible exact .inr rfl | with_reducible rfl | skip))

theorem keeps_execHaltInputChange [Fact (P .cc)] (i : Fin 64) (high : Bool) (s : State) : Outs P s (execHaltInputChange i high s) := by
  unfold execHaltInputChange
  apply outs_next
  repeat' (first
    | with_reducible assumption
    | with_reducible exact Keeps.refl _
    | with_reducible apply keeps_refreshHalts
    | fail_if_no_progress (with_reducible apply keeps_mk <;> first | exact .inl Fact.out | with_reducible exact .inr rfl | with_reducible rfl | skip))

theorem keeps_execCoreDebugHalt [Fact (P .cc)] [Fact (P .ny)] [Fact (P .regs)] (stopped : Bool) (s : State) : Outs P s (execCoreDebugHalt stopped s) := by
  unfold execCoreDebugHalt
  apply outs_next
  repeat' (first
    | with_reducible assumption
    | with_reducible exact Keeps.refl _
    | with_reducible apply keeps_put
    | with_reducible apply keeps_refreshHalts
    | fail_if_no_progress (with_reducible apply keeps_mk <;> first | exact .inl Fact.out | with_reducible exact .inr rfl | with_reducible rfl | skip)
    | with_reducible apply keeps_each
    | with_reducible apply keeps_foldl
    | split)

theorem keeps_ccReject [Fact (P .regs)] {s₀ s : State}  (hk : Keeps P s₀ s) : Keeps P s₀ (State.ccReject s) := by
  unfold State.ccReject
  repeat' (first
    | with_reducible assumption
    | with_reducible exact Keeps.refl _
    | with_reducible apply keeps_bump
    | with_reducible apply keeps_raise)

theorem keeps_zeroWords [Fact (P .regs)] {s₀ s : State} (n : Nat) (hk : Keeps P s₀ s) : Keeps P s₀ (State.zeroWords s n) := by
  unfold State.zeroWords
  repeat' (first
    | with_reducible assumption
    | with_reducible exact Keeps.refl _
    | with_reducible apply keeps_each
    | with_reducible apply keeps_wr
    | fail_if_no_progress (with_reducible apply keeps_mk <;> first | exact .inl Fact.out | with_reducible exact .inr rfl | with_reducible rfl | skip)
    | with_reducible apply keeps_each
    | with_reducible apply keeps_foldl
    | split
    | intro _)

theorem keeps_ccClaim [Fact (P .cc)] [Fact (P .regs)] {s₀ s : State} (n m : Nat) (hk : Keeps P s₀ s) : Keeps P s₀ (State.ccClaim s n m).2 := by
  unfold State.ccClaim
  repeat' (first
    | with_reducible assumption
    | with_reducible exact Keeps.refl _
    | with_reducible apply keeps_zeroWords
    | with_reducible apply keeps_setChan
    | fail_if_no_progress (with_reducible apply keeps_mk <;> first | exact .inl Fact.out | with_reducible exact .inr rfl | with_reducible rfl | skip)
    | with_reducible apply keeps_each
    | with_reducible apply keeps_foldl
    | split)

theorem keeps_ccClaim_eq [Fact (P .cc)] [Fact (P .regs)] {s₀ s s₁ : State} (n m : Nat) {x₁ : Nat} (he : State.ccClaim s n m = (x₁, s₁)) (hk : Keeps P s₀ s) : Keeps P s₀ s₁ := by
  have := keeps_ccClaim n m hk
  rw [he] at this; exact this

theorem keeps_freeChan [Fact (P .cc)] [Fact (P .regs)] {s₀ s : State} (n : Nat) (hk : Keeps P s₀ s) : Keeps P s₀ (State.freeChan s n) := by
  unfold State.freeChan
  repeat' (first
    | with_reducible assumption
    | with_reducible exact Keeps.refl _
    | with_reducible apply keeps_zeroWords
    | with_reducible apply keeps_setChan)

theorem keeps_ccWord [Fact (P .regs)] {s₀ s : State} (n i m v : Nat) (hk : Keeps P s₀ s) : Keeps P s₀ (State.ccWord s n i m v) := by
  unfold State.ccWord
  repeat' (first
    | with_reducible assumption
    | with_reducible exact Keeps.refl _
    | with_reducible apply keeps_wr
    | with_reducible apply keeps_ccReject
    | fail_if_no_progress (with_reducible apply keeps_mk <;> first | exact .inl Fact.out | with_reducible exact .inr rfl | with_reducible rfl | skip)
    | with_reducible apply keeps_each
    | with_reducible apply keeps_foldl
    | split)

theorem keeps_ccCommit [Fact (P .cc)] [Fact (P .regs)] {s₀ s : State} (n m v : Nat) (hk : Keeps P s₀ s) : Keeps P s₀ (State.ccCommit s n m v) := by
  unfold State.ccCommit
  repeat' (first
    | with_reducible assumption
    | with_reducible exact Keeps.refl _
    | with_reducible apply keeps_setChan
    | with_reducible apply keeps_pcEvent
    | with_reducible apply keeps_ccReject
    | fail_if_no_progress (with_reducible apply keeps_mk <;> first | exact .inl Fact.out | with_reducible exact .inr rfl | with_reducible rfl | skip)
    | with_reducible apply keeps_each
    | with_reducible apply keeps_foldl
    | split)

theorem keeps_ccDone [Fact (P .cc)] [Fact (P .regs)] {s₀ s : State} (n m v : Nat) (hk : Keeps P s₀ s) : Keeps P s₀ (State.ccDone s n m v) := by
  unfold State.ccDone
  repeat' (first
    | with_reducible assumption
    | with_reducible exact Keeps.refl _
    | with_reducible apply keeps_wr
    | with_reducible apply keeps_setChan
    | with_reducible apply keeps_ccReject
    | fail_if_no_progress (with_reducible apply keeps_mk <;> first | exact .inl Fact.out | with_reducible exact .inr rfl | with_reducible rfl | skip)
    | with_reducible apply keeps_each
    | with_reducible apply keeps_foldl
    | split)

theorem keeps_ccRelease [Fact (P .cc)] [Fact (P .regs)] {s₀ s : State} (n m v : Nat) (hk : Keeps P s₀ s) : Keeps P s₀ (State.ccRelease s n m v) := by
  unfold State.ccRelease
  repeat' (first
    | with_reducible assumption
    | with_reducible exact Keeps.refl _
    | with_reducible apply keeps_freeChan
    | with_reducible apply keeps_ccReject
    | fail_if_no_progress (with_reducible apply keeps_mk <;> first | exact .inl Fact.out | with_reducible exact .inr rfl | with_reducible rfl | skip)
    | with_reducible apply keeps_each
    | with_reducible apply keeps_foldl
    | split
    | intro _
    | (extract_lets +onlyGivenNames x; refine keeps_cut (x := x) ?_ ?_; on_goal 2 => clear_value x)
    | extract_lets +onlyGivenNames y)

theorem keeps_ccBreak [Fact (P .cc)] [Fact (P .regs)] {s₀ s : State} (n : Nat) (hk : Keeps P s₀ s) : Keeps P s₀ (State.ccBreak s n) := by
  unfold State.ccBreak
  repeat' (first
    | with_reducible assumption
    | with_reducible exact Keeps.refl _
    | with_reducible apply keeps_ccReject
    | with_reducible apply keeps_freeChan
    | with_reducible apply keeps_bump
    | with_reducible apply keeps_raise
    | fail_if_no_progress (with_reducible apply keeps_mk <;> first | exact .inl Fact.out | with_reducible exact .inr rfl | with_reducible rfl | skip)
    | with_reducible apply keeps_each
    | with_reducible apply keeps_foldl
    | split)

theorem keeps_ccCfg [Fact (P .regs)] {s₀ s : State} (n v : Nat) (hk : Keeps P s₀ s) : Keeps P s₀ (State.ccCfg s n v) := by
  unfold State.ccCfg
  repeat' (first
    | with_reducible assumption
    | with_reducible exact Keeps.refl _
    | with_reducible apply keeps_wr
    | with_reducible apply keeps_ccReject
    | fail_if_no_progress (with_reducible apply keeps_mk <;> first | exact .inl Fact.out | with_reducible exact .inr rfl | with_reducible rfl | skip)
    | with_reducible apply keeps_each
    | with_reducible apply keeps_foldl
    | split)

theorem keeps_execCcClaim [Fact (P .cc)] [Fact (P .fab)] [Fact (P .regs)] [Fact (P .sp)] (w : Who) (n : Fin 256) (s : State) : Outs P s (execCcClaim w n s) := by
  unfold execCcClaim
  apply outs_next
  repeat' (first
    | with_reducible assumption
    | with_reducible exact Keeps.refl _
    | with_reducible apply keeps_guardRead
    | with_reducible apply keeps_ccClaim
    | with_reducible refine keeps_ccClaim_eq _ _ (by assumption) ?_
    | fail_if_no_progress (with_reducible apply keeps_mk <;> first | exact .inl Fact.out | with_reducible exact .inr rfl | with_reducible rfl | skip)
    | with_reducible apply keeps_each
    | with_reducible apply keeps_foldl
    | split
    | intro _)

theorem keeps_execCcWordWrite [Fact (P .fab)] [Fact (P .regs)] [Fact (P .sp)] (w : Who) (n : Fin 256) (i : Fin 16) (v : Word) (s : State) : Outs P s (execCcWordWrite w n i v s) := by
  unfold execCcWordWrite
  apply outs_next
  repeat' (first
    | with_reducible assumption
    | with_reducible exact Keeps.refl _
    | with_reducible apply keeps_guardWrite
    | with_reducible apply keeps_ccWord
    | fail_if_no_progress (with_reducible apply keeps_mk <;> first | exact .inl Fact.out | with_reducible exact .inr rfl | with_reducible rfl | skip)
    | with_reducible apply keeps_each
    | with_reducible apply keeps_foldl
    | split
    | intro _)

theorem keeps_execCcCommit [Fact (P .cc)] [Fact (P .fab)] [Fact (P .regs)] [Fact (P .sp)] (w : Who) (n : Fin 256) (v : Word) (s : State) : Outs P s (execCcCommit w n v s) := by
  unfold execCcCommit
  apply outs_next
  repeat' (first
    | with_reducible assumption
    | with_reducible exact Keeps.refl _
    | with_reducible apply keeps_guardWrite
    | with_reducible apply keeps_ccCommit
    | fail_if_no_progress (with_reducible apply keeps_mk <;> first | exact .inl Fact.out | with_reducible exact .inr rfl | with_reducible rfl | skip)
    | with_reducible apply keeps_each
    | with_reducible apply keeps_foldl
    | split
    | intro _)

theorem keeps_execCcDone [Fact (P .cc)] [Fact (P .fab)] [Fact (P .regs)] [Fact (P .sp)] (w : Who) (n : Fin 256) (v : Word) (s : State) : Outs P s (execCcDone w n v s) := by
  unfold execCcDone
  apply outs_next
  repeat' (first
    | with_reducible assumption
    | with_reducible exact Keeps.refl _
    | with_reducible apply keeps_guardWrite
    | with_reducible apply keeps_ccDone
    | fail_if_no_progress (with_reducible apply keeps_mk <;> first | exact .inl Fact.out | with_reducible exact .inr rfl | with_reducible rfl | skip)
    | with_reducible apply keeps_each
    | with_reducible apply keeps_foldl
    | split
    | intro _)

theorem keeps_execCcRelease [Fact (P .cc)] [Fact (P .fab)] [Fact (P .regs)] [Fact (P .sp)] (w : Who) (n : Fin 256) (v : Word) (s : State) : Outs P s (execCcRelease w n v s) := by
  unfold execCcRelease
  apply outs_next
  repeat' (first
    | with_reducible assumption
    | with_reducible exact Keeps.refl _
    | with_reducible apply keeps_guardWrite
    | with_reducible apply keeps_ccRelease
    | fail_if_no_progress (with_reducible apply keeps_mk <;> first | exact .inl Fact.out | with_reducible exact .inr rfl | with_reducible rfl | skip)
    | with_reducible apply keeps_each
    | with_reducible apply keeps_foldl
    | split
    | intro _)

theorem keeps_execCcBreak [Fact (P .cc)] [Fact (P .fab)] [Fact (P .regs)] [Fact (P .sp)] (w : Who) (n : Fin 256) (s : State) : Outs P s (execCcBreak w n s) := by
  unfold execCcBreak
  apply outs_next
  repeat' (first
    | with_reducible assumption
    | with_reducible exact Keeps.refl _
    | with_reducible apply keeps_guardWrite
    | with_reducible apply keeps_ccBreak
    | fail_if_no_progress (with_reducible apply keeps_mk <;> first | exact .inl Fact.out | with_reducible exact .inr rfl | with_reducible rfl | skip)
    | with_reducible apply keeps_each
    | with_reducible apply keeps_foldl
    | split
    | intro _)

theorem keeps_execLeaseExpiry [Fact (P .cc)] [Fact (P .regs)] [Fact (P .tm)] (n : Fin 256) (s : State) : Outs P s (execLeaseExpiry n s) := by
  unfold execLeaseExpiry
  apply outs_next
  repeat' (first
    | with_reducible assumption
    | with_reducible exact Keeps.refl _
    | with_reducible apply keeps_advanceMg
    | with_reducible apply keeps_freeChan
    | with_reducible apply keeps_bump
    | with_reducible apply keeps_raise
    | fail_if_no_progress (with_reducible apply keeps_mk <;> first | exact .inl Fact.out | with_reducible exact .inr rfl | with_reducible rfl | skip)
    | with_reducible apply keeps_each
    | with_reducible apply keeps_foldl
    | split
    | intro _
    | (extract_lets +onlyGivenNames x; refine keeps_cut (x := x) ?_ ?_; on_goal 2 => clear_value x)
    | extract_lets +onlyGivenNames y)

theorem keeps_endWant [Fact (P .cc)] {s₀ s : State} (m : Nat) (hk : Keeps P s₀ s) : Keeps P s₀ (State.endWant s m) := by
  unfold State.endWant
  repeat' (first
    | with_reducible assumption
    | with_reducible exact Keeps.refl _
    | with_reducible apply keeps_setWants)

theorem keeps_want [Fact (P .cc)] {s₀ s : State} (m l : Nat) (hk : Keeps P s₀ s) : Keeps P s₀ (State.want s m l) := by
  unfold State.want
  repeat' (first
    | with_reducible assumption
    | with_reducible exact Keeps.refl _
    | with_reducible apply keeps_setWants
    | fail_if_no_progress (with_reducible apply keeps_mk <;> first | exact .inl Fact.out | with_reducible exact .inr rfl | with_reducible rfl | skip))

theorem keeps_tbAcq [Fact (P .cc)] [Fact (P .regs)] {s₀ s : State} (l m : Nat) (hk : Keeps P s₀ s) : Keeps P s₀ (State.tbAcq s l m).2 := by
  unfold State.tbAcq
  repeat' (first
    | with_reducible assumption
    | with_reducible exact Keeps.refl _
    | with_reducible apply keeps_want
    | with_reducible apply keeps_pcEvent
    | with_reducible apply keeps_setLock
    | with_reducible apply keeps_endWant
    | fail_if_no_progress (with_reducible apply keeps_mk <;> first | exact .inl Fact.out | with_reducible exact .inr rfl | with_reducible rfl | skip)
    | with_reducible apply keeps_each
    | with_reducible apply keeps_foldl
    | split
    | intro _
    | (extract_lets +onlyGivenNames x; refine keeps_cut (x := x) ?_ ?_; on_goal 2 => clear_value x)
    | extract_lets +onlyGivenNames y)

theorem keeps_tbAcq_eq [Fact (P .cc)] [Fact (P .regs)] {s₀ s s₁ : State} (l m : Nat) {x₁ : Nat} (he : State.tbAcq s l m = (x₁, s₁)) (hk : Keeps P s₀ s) : Keeps P s₀ s₁ := by
  have := keeps_tbAcq l m hk
  rw [he] at this; exact this

theorem keeps_freeLock [Fact (P .cc)] {s₀ s : State} (l : Nat) (hk : Keeps P s₀ s) : Keeps P s₀ (State.freeLock s l) := by
  unfold State.freeLock
  repeat' (first
    | with_reducible assumption
    | with_reducible exact Keeps.refl _
    | with_reducible apply keeps_setLock)

theorem keeps_tbRel [Fact (P .cc)] [Fact (P .regs)] {s₀ s : State} (l m v : Nat) (hk : Keeps P s₀ s) : Keeps P s₀ (State.tbRel s l m v) := by
  unfold State.tbRel
  repeat' (first
    | with_reducible assumption
    | with_reducible exact Keeps.refl _
    | with_reducible apply keeps_freeLock
    | with_reducible apply keeps_bump
    | fail_if_no_progress (with_reducible apply keeps_mk <;> first | exact .inl Fact.out | with_reducible exact .inr rfl | with_reducible rfl | skip)
    | with_reducible apply keeps_each
    | with_reducible apply keeps_foldl
    | split
    | intro _
    | (extract_lets +onlyGivenNames x; refine keeps_cut (x := x) ?_ ?_; on_goal 2 => clear_value x)
    | extract_lets +onlyGivenNames y)

theorem keeps_tbForce [Fact (P .cc)] [Fact (P .regs)] {s₀ s : State} (l : Nat) (hk : Keeps P s₀ s) : Keeps P s₀ (State.tbForce s l) := by
  unfold State.tbForce
  repeat' (first
    | with_reducible assumption
    | with_reducible exact Keeps.refl _
    | with_reducible apply keeps_freeLock
    | with_reducible apply keeps_bump
    | with_reducible apply keeps_raise
    | fail_if_no_progress (with_reducible apply keeps_mk <;> first | exact .inl Fact.out | with_reducible exact .inr rfl | with_reducible rfl | skip)
    | with_reducible apply keeps_each
    | with_reducible apply keeps_foldl
    | split)

theorem keeps_tbUnwant [Fact (P .cc)] {s₀ s : State} (l m : Nat) (hk : Keeps P s₀ s) : Keeps P s₀ (State.tbUnwant s l m) := by
  unfold State.tbUnwant
  repeat' (first
    | with_reducible assumption
    | with_reducible exact Keeps.refl _
    | with_reducible apply keeps_endWant
    | fail_if_no_progress (with_reducible apply keeps_mk <;> first | exact .inl Fact.out | with_reducible exact .inr rfl | with_reducible rfl | skip)
    | with_reducible apply keeps_each
    | with_reducible apply keeps_foldl
    | split)

theorem keeps_execTbAcq [Fact (P .cc)] [Fact (P .fab)] [Fact (P .regs)] [Fact (P .sp)] (w : Who) (l : Fin 1024) (s : State) : Outs P s (execTbAcq w l s) := by
  unfold execTbAcq
  apply outs_next
  repeat' (first
    | with_reducible assumption
    | with_reducible exact Keeps.refl _
    | with_reducible apply keeps_guardRead
    | with_reducible apply keeps_tbAcq
    | with_reducible refine keeps_tbAcq_eq _ _ (by assumption) ?_
    | fail_if_no_progress (with_reducible apply keeps_mk <;> first | exact .inl Fact.out | with_reducible exact .inr rfl | with_reducible rfl | skip)
    | with_reducible apply keeps_each
    | with_reducible apply keeps_foldl
    | split
    | intro _)

theorem keeps_execTbRel [Fact (P .cc)] [Fact (P .fab)] [Fact (P .regs)] [Fact (P .sp)] (w : Who) (l : Fin 1024) (v : Word) (s : State) : Outs P s (execTbRel w l v s) := by
  unfold execTbRel
  apply outs_next
  repeat' (first
    | with_reducible assumption
    | with_reducible exact Keeps.refl _
    | with_reducible apply keeps_guardWrite
    | with_reducible apply keeps_tbRel
    | fail_if_no_progress (with_reducible apply keeps_mk <;> first | exact .inl Fact.out | with_reducible exact .inr rfl | with_reducible rfl | skip)
    | with_reducible apply keeps_each
    | with_reducible apply keeps_foldl
    | split
    | intro _)

theorem keeps_execTbForce [Fact (P .cc)] [Fact (P .fab)] [Fact (P .regs)] [Fact (P .sp)] (w : Who) (l : Fin 1024) (s : State) : Outs P s (execTbForce w l s) := by
  unfold execTbForce
  apply outs_next
  repeat' (first
    | with_reducible assumption
    | with_reducible exact Keeps.refl _
    | with_reducible apply keeps_guardWrite
    | with_reducible apply keeps_tbForce
    | fail_if_no_progress (with_reducible apply keeps_mk <;> first | exact .inl Fact.out | with_reducible exact .inr rfl | with_reducible rfl | skip)
    | with_reducible apply keeps_each
    | with_reducible apply keeps_foldl
    | split
    | intro _)

theorem keeps_execTbUnwant [Fact (P .cc)] [Fact (P .fab)] [Fact (P .regs)] [Fact (P .sp)] (w : Who) (l : Fin 1024) (s : State) : Outs P s (execTbUnwant w l s) := by
  unfold execTbUnwant
  apply outs_next
  repeat' (first
    | with_reducible assumption
    | with_reducible exact Keeps.refl _
    | with_reducible apply keeps_guardWrite
    | with_reducible apply keeps_tbUnwant
    | fail_if_no_progress (with_reducible apply keeps_mk <;> first | exact .inl Fact.out | with_reducible exact .inr rfl | with_reducible rfl | skip)
    | with_reducible apply keeps_each
    | with_reducible apply keeps_foldl
    | split
    | intro _)

theorem keeps_execWantExpiry [Fact (P .cc)] [Fact (P .regs)] [Fact (P .tm)] (m : Fin 257) (s : State) : Outs P s (execWantExpiry m s) := by
  unfold execWantExpiry
  apply outs_next
  repeat' (first
    | with_reducible assumption
    | with_reducible exact Keeps.refl _
    | with_reducible apply keeps_advanceMg
    | with_reducible apply keeps_endWant
    | fail_if_no_progress (with_reducible apply keeps_mk <;> first | exact .inl Fact.out | with_reducible exact .inr rfl | with_reducible rfl | skip)
    | with_reducible apply keeps_each
    | with_reducible apply keeps_foldl
    | split)

theorem keeps_reportCycle [Fact (P .regs)] {s₀ s : State} (m : Nat) (members : List Nat) (hk : Keeps P s₀ s) : Keeps P s₀ (State.reportCycle s m members) := by
  unfold State.reportCycle
  repeat' (first
    | with_reducible assumption
    | with_reducible exact Keeps.refl _
    | with_reducible apply keeps_bump
    | with_reducible apply keeps_wr
    | with_reducible apply keeps_each
    | with_reducible apply keeps_raise
    | fail_if_no_progress (with_reducible apply keeps_mk <;> first | exact .inl Fact.out | with_reducible exact .inr rfl | with_reducible rfl | skip)
    | with_reducible apply keeps_each
    | with_reducible apply keeps_foldl
    | split
    | intro _
    | (extract_lets +onlyGivenNames x; refine keeps_cut (x := x) ?_ ?_; on_goal 2 => clear_value x)
    | extract_lets +onlyGivenNames y)

theorem keeps_execCycleWalk [Fact (P .cc)] [Fact (P .regs)]  (s : State) : Outs P s (execCycleWalk s) := by
  unfold execCycleWalk
  apply outs_next
  repeat' (first
    | with_reducible assumption
    | with_reducible exact Keeps.refl _
    | with_reducible apply keeps_reportCycle
    | fail_if_no_progress (with_reducible apply keeps_mk <;> first | exact .inl Fact.out | with_reducible exact .inr rfl | with_reducible rfl | skip)
    | with_reducible apply keeps_each
    | with_reducible apply keeps_foldl
    | split
    | intro _
    | (extract_lets +onlyGivenNames x; refine keeps_cut (x := x) ?_ ?_; on_goal 2 => clear_value x)
    | extract_lets +onlyGivenNames y)

theorem keeps_ccWrite [Fact (P .cc)] [Fact (P .regs)] {s₀ s : State} (off m v : Nat) (hk : Keeps P s₀ s) : Keeps P s₀ (State.ccWrite s off m v) := by
  unfold State.ccWrite
  repeat' (first
    | with_reducible assumption
    | with_reducible exact Keeps.refl _
    | with_reducible apply keeps_ccWord
    | with_reducible apply keeps_ccCommit
    | with_reducible apply keeps_ccDone
    | with_reducible apply keeps_ccRelease
    | with_reducible apply keeps_ccCfg
    | with_reducible apply keeps_tbRel
    | with_reducible apply keeps_tbUnwant
    | with_reducible apply keeps_ccBreak
    | with_reducible apply keeps_tbForce
    | with_reducible apply keeps_writePlain
    | with_reducible apply keeps_refreshHalts
    | fail_if_no_progress (with_reducible apply keeps_mk <;> first | exact .inl Fact.out | with_reducible exact .inr rfl | with_reducible rfl | skip)
    | with_reducible apply keeps_each
    | with_reducible apply keeps_foldl
    | split
    | intro _
    | (extract_lets +onlyGivenNames x; refine keeps_cut (x := x) ?_ ?_; on_goal 2 => clear_value x)
    | extract_lets +onlyGivenNames y)

end Sys2Proof.Laws
end

