-- ==== Sys2Proof/Laws/KeepsHub.lean ====
section
/-! SUPPORT. What the operations of Hub.lean keep. -/

namespace Sys2Proof.Laws

open Sys2Proof.Machine

variable {P : Part → Prop}

theorem keeps_setSrc [Fact (P .hub)] {s₀ s : State} (n : Nat) (x : SrcSt) (hk : Keeps P s₀ s) : Keeps P s₀ (State.setSrc s n x) := by
  unfold State.setSrc
  repeat' (first
    | with_reducible assumption
    | with_reducible exact Keeps.refl _
    | fail_if_no_progress (with_reducible apply keeps_mk <;> first | exact .inl Fact.out | with_reducible exact .inr rfl | with_reducible rfl | skip))

theorem keeps_logRise [Fact (P .ny)] [Fact (P .regs)] {s₀ s : State} (n : Nat) (hk : Keeps P s₀ s) : Keeps P s₀ (State.logRise s n) := by
  unfold State.logRise
  repeat' (first
    | with_reducible assumption
    | with_reducible exact Keeps.refl _
    | with_reducible apply keeps_postHw
    | fail_if_no_progress (with_reducible apply keeps_mk <;> first | exact .inl Fact.out | with_reducible exact .inr rfl | with_reducible rfl | skip)
    | with_reducible apply keeps_each
    | with_reducible apply keeps_foldl
    | split)

theorem keeps_sampleLevel [Fact (P .hub)] [Fact (P .ny)] [Fact (P .regs)] {s₀ s : State} (n : Nat) (hk : Keeps P s₀ s) : Keeps P s₀ (State.sampleLevel s n) := by
  unfold State.sampleLevel
  repeat' (first
    | with_reducible assumption
    | with_reducible exact Keeps.refl _
    | with_reducible apply keeps_logRise
    | with_reducible apply keeps_setSrc
    | fail_if_no_progress (with_reducible apply keeps_mk <;> first | exact .inl Fact.out | with_reducible exact .inr rfl | with_reducible rfl | skip)
    | with_reducible apply keeps_each
    | with_reducible apply keeps_foldl
    | split)

theorem keeps_assertEdge [Fact (P .hub)] [Fact (P .ny)] [Fact (P .regs)] {s₀ s : State} (n : Nat) (hk : Keeps P s₀ s) : Keeps P s₀ (State.assertEdge s n) := by
  unfold State.assertEdge
  repeat' (first
    | with_reducible assumption
    | with_reducible exact Keeps.refl _
    | with_reducible apply keeps_logRise
    | with_reducible apply keeps_setSrc)

theorem keeps_hubRefresh [Fact (P .hub)] {s₀ s : State}  (hk : Keeps P s₀ s) : Keeps P s₀ (State.hubRefresh s) := by
  unfold State.hubRefresh
  repeat' (first
    | with_reducible assumption
    | with_reducible exact Keeps.refl _
    | fail_if_no_progress (with_reducible apply keeps_mk <;> first | exact .inl Fact.out | with_reducible exact .inr rfl | with_reducible rfl | skip))

theorem keeps_execSourceLevelChange [Fact (P .fab)] [Fact (P .hub)] [Fact (P .ny)] [Fact (P .regs)] (n : Fin 2560) (s : State) : Outs P s (execSourceLevelChange n s) := by
  unfold execSourceLevelChange
  apply outs_next
  repeat' (first
    | with_reducible assumption
    | with_reducible exact Keeps.refl _
    | with_reducible apply keeps_settleBeats
    | with_reducible apply keeps_sampleLevel
    | with_reducible apply keeps_hubRefresh
    | fail_if_no_progress (with_reducible apply keeps_mk <;> first | exact .inl Fact.out | with_reducible exact .inr rfl | with_reducible rfl | skip)
    | with_reducible apply keeps_each
    | with_reducible apply keeps_foldl
    | split)

theorem keeps_hubResample [Fact (P .hub)] [Fact (P .ny)] [Fact (P .regs)] {s₀ s : State}  (hk : Keeps P s₀ s) : Keeps P s₀ (State.hubResample s) := by
  unfold State.hubResample
  repeat' (first
    | with_reducible assumption
    | with_reducible exact Keeps.refl _
    | with_reducible apply keeps_each
    | with_reducible apply keeps_sampleLevel
    | with_reducible apply keeps_hubRefresh
    | fail_if_no_progress (with_reducible apply keeps_mk <;> first | exact .inl Fact.out | with_reducible exact .inr rfl | with_reducible rfl | skip)
    | with_reducible apply keeps_each
    | with_reducible apply keeps_foldl
    | split
    | intro _)

theorem keeps_hubWakes [Fact (P .hub)] [Fact (P .ny)] [Fact (P .regs)] {s₀ s : State}  (hk : Keeps P s₀ s) : Keeps P s₀ (State.hubWakes s) := by
  unfold State.hubWakes
  repeat' (first
    | with_reducible assumption
    | with_reducible exact Keeps.refl _
    | with_reducible apply keeps_raise
    | with_reducible apply keeps_hubResample
    | fail_if_no_progress (with_reducible apply keeps_mk <;> first | exact .inl Fact.out | with_reducible exact .inr rfl | with_reducible rfl | skip)
    | with_reducible apply keeps_each
    | with_reducible apply keeps_foldl
    | split)

theorem keeps_hbReject [Fact (P .regs)] {s₀ s : State}  (hk : Keeps P s₀ s) : Keeps P s₀ (State.hbReject s) := by
  unfold State.hbReject
  repeat' (first
    | with_reducible assumption
    | with_reducible exact Keeps.refl _
    | with_reducible apply keeps_bump
    | with_reducible apply keeps_raise)

theorem keeps_swSet [Fact (P .hub)] [Fact (P .ny)] [Fact (P .regs)] {s₀ s : State} (n : Nat) (hk : Keeps P s₀ s) : Keeps P s₀ (State.swSet s n) := by
  unfold State.swSet
  repeat' (first
    | with_reducible assumption
    | with_reducible exact Keeps.refl _
    | with_reducible apply keeps_assertEdge
    | with_reducible apply keeps_hubRefresh
    | with_reducible apply keeps_hbReject
    | fail_if_no_progress (with_reducible apply keeps_mk <;> first | exact .inl Fact.out | with_reducible exact .inr rfl | with_reducible rfl | skip)
    | with_reducible apply keeps_each
    | with_reducible apply keeps_foldl
    | split)

theorem keeps_hbClaim [Fact (P .hub)] {s₀ s : State} (t : Nat) (hk : Keeps P s₀ s) : Keeps P s₀ (State.hbClaim s t).2 := by
  unfold State.hbClaim
  repeat' (first
    | with_reducible assumption
    | with_reducible exact Keeps.refl _
    | with_reducible apply keeps_setSrc
    | with_reducible apply keeps_hubRefresh
    | fail_if_no_progress (with_reducible apply keeps_mk <;> first | exact .inl Fact.out | with_reducible exact .inr rfl | with_reducible rfl | skip)
    | with_reducible apply keeps_each
    | with_reducible apply keeps_foldl
    | split)

theorem keeps_hbClaim_eq [Fact (P .hub)] {s₀ s s₁ : State} (t : Nat) {x₁ : Nat} (he : State.hbClaim s t = (x₁, s₁)) (hk : Keeps P s₀ s) : Keeps P s₀ s₁ := by
  have := keeps_hbClaim t hk
  rw [he] at this; exact this

theorem keeps_unclaim [Fact (P .hub)] {s₀ s : State} (n : Nat) (preced : Bool) (hk : Keeps P s₀ s) : Keeps P s₀ (State.unclaim s n preced) := by
  unfold State.unclaim
  repeat' (first
    | with_reducible assumption
    | with_reducible exact Keeps.refl _
    | with_reducible apply keeps_setSrc
    | with_reducible apply keeps_hubRefresh)

theorem keeps_hbClaimTaken [Fact (P .hub)] [Fact (P .regs)] {s₀ s : State} (w : Who) (t : Nat) (k : Taken) (hk : Keeps P s₀ s) : Keeps P s₀ (State.hbClaimTaken s w t k).2 := by
  unfold State.hbClaimTaken
  repeat' (first
    | with_reducible assumption
    | with_reducible exact Keeps.refl _
    | with_reducible apply keeps_pcEvent
    | with_reducible apply keeps_unclaim
    | with_reducible apply keeps_hbClaim
    | with_reducible refine keeps_hbClaim_eq _ (by assumption) ?_
    | fail_if_no_progress (with_reducible apply keeps_mk <;> first | exact .inl Fact.out | with_reducible exact .inr rfl | with_reducible rfl | skip)
    | with_reducible apply keeps_each
    | with_reducible apply keeps_foldl
    | split
    | intro _
    | (extract_lets +onlyGivenNames x; refine keeps_cut (x := x) ?_ ?_; on_goal 2 => clear_value x)
    | extract_lets +onlyGivenNames y)

theorem keeps_hbClaimTaken_eq [Fact (P .hub)] [Fact (P .regs)] {s₀ s s₁ : State} (w : Who) (t : Nat) (k : Taken) {x₁ : Nat} (he : State.hbClaimTaken s w t k = (x₁, s₁)) (hk : Keeps P s₀ s) : Keeps P s₀ s₁ := by
  have := keeps_hbClaimTaken w t k hk
  rw [he] at this; exact this

theorem keeps_finish [Fact (P .hub)] [Fact (P .ny)] [Fact (P .regs)] {s₀ s : State} (n : Nat) (hk : Keeps P s₀ s) : Keeps P s₀ (State.finish s n) := by
  unfold State.finish
  repeat' (first
    | with_reducible assumption
    | with_reducible exact Keeps.refl _
    | with_reducible apply keeps_logRise
    | with_reducible apply keeps_setSrc
    | with_reducible apply keeps_hubRefresh
    | fail_if_no_progress (with_reducible apply keeps_mk <;> first | exact .inl Fact.out | with_reducible exact .inr rfl | with_reducible rfl | skip)
    | with_reducible apply keeps_each
    | with_reducible apply keeps_foldl
    | split)

theorem keeps_hbComplete [Fact (P .hub)] [Fact (P .ny)] [Fact (P .regs)] {s₀ s : State} (t v : Nat) (hk : Keeps P s₀ s) : Keeps P s₀ (State.hbComplete s t v) := by
  unfold State.hbComplete
  repeat' (first
    | with_reducible assumption
    | with_reducible exact Keeps.refl _
    | with_reducible apply keeps_finish
    | with_reducible apply keeps_bump
    | with_reducible apply keeps_raise
    | fail_if_no_progress (with_reducible apply keeps_mk <;> first | exact .inl Fact.out | with_reducible exact .inr rfl | with_reducible rfl | skip)
    | with_reducible apply keeps_each
    | with_reducible apply keeps_foldl
    | split
    | intro _
    | (extract_lets +onlyGivenNames x; refine keeps_cut (x := x) ?_ ?_; on_goal 2 => clear_value x)
    | extract_lets +onlyGivenNames y)

theorem keeps_hbSrcCfg [Fact (P .hub)] [Fact (P .regs)] {s₀ s : State} (n v : Nat) (hk : Keeps P s₀ s) : Keeps P s₀ (State.hbSrcCfg s n v) := by
  unfold State.hbSrcCfg
  repeat' (first
    | with_reducible assumption
    | with_reducible exact Keeps.refl _
    | with_reducible apply keeps_hbReject
    | with_reducible apply keeps_wr
    | with_reducible apply keeps_setSrc
    | with_reducible apply keeps_hubRefresh
    | fail_if_no_progress (with_reducible apply keeps_mk <;> first | exact .inl Fact.out | with_reducible exact .inr rfl | with_reducible rfl | skip)
    | with_reducible apply keeps_each
    | with_reducible apply keeps_foldl
    | split)

theorem keeps_execHbSwSet [Fact (P .fab)] [Fact (P .hub)] [Fact (P .ny)] [Fact (P .regs)] [Fact (P .sp)] (w : Who) (v : Word) (s : State) : Outs P s (execHbSwSet w v s) := by
  unfold execHbSwSet
  apply outs_next
  repeat' (first
    | with_reducible assumption
    | with_reducible exact Keeps.refl _
    | with_reducible apply keeps_guardWrite
    | with_reducible apply keeps_swSet
    | fail_if_no_progress (with_reducible apply keeps_mk <;> first | exact .inl Fact.out | with_reducible exact .inr rfl | with_reducible rfl | skip)
    | with_reducible apply keeps_each
    | with_reducible apply keeps_foldl
    | split
    | intro _)

theorem keeps_execHbClaim [Fact (P .fab)] [Fact (P .hub)] [Fact (P .regs)] [Fact (P .sp)] (w : Who) (t : Fin 65) (k : Taken) (s : State) : Outs P s (execHbClaim w t k s) := by
  unfold execHbClaim
  apply outs_next
  repeat' (first
    | with_reducible assumption
    | with_reducible exact Keeps.refl _
    | with_reducible apply keeps_guardRead
    | with_reducible apply keeps_declined
    | with_reducible apply keeps_hbClaimTaken
    | with_reducible refine keeps_hbClaimTaken_eq _ _ _ (by assumption) ?_
    | fail_if_no_progress (with_reducible apply keeps_mk <;> first | exact .inl Fact.out | with_reducible exact .inr rfl | with_reducible rfl | skip)
    | with_reducible apply keeps_each
    | with_reducible apply keeps_foldl
    | split
    | intro _)

theorem keeps_execHbComplete [Fact (P .fab)] [Fact (P .hub)] [Fact (P .ny)] [Fact (P .regs)] [Fact (P .sp)] (w : Who) (t : Fin 65) (v : Word) (s : State) : Outs P s (execHbComplete w t v s) := by
  unfold execHbComplete
  apply outs_next
  repeat' (first
    | with_reducible assumption
    | with_reducible exact Keeps.refl _
    | with_reducible apply keeps_guardWrite
    | with_reducible apply keeps_hbComplete
    | fail_if_no_progress (with_reducible apply keeps_mk <;> first | exact .inl Fact.out | with_reducible exact .inr rfl | with_reducible rfl | skip)
    | with_reducible apply keeps_each
    | with_reducible apply keeps_foldl
    | split
    | intro _)

theorem keeps_execHbSrcCfgWrite [Fact (P .fab)] [Fact (P .hub)] [Fact (P .regs)] [Fact (P .sp)] (w : Who) (n : Fin 2560) (v : Word) (s : State) : Outs P s (execHbSrcCfgWrite w n v s) := by
  unfold execHbSrcCfgWrite
  apply outs_next
  repeat' (first
    | with_reducible assumption
    | with_reducible exact Keeps.refl _
    | with_reducible apply keeps_guardWrite
    | with_reducible apply keeps_hbSrcCfg
    | fail_if_no_progress (with_reducible apply keeps_mk <;> first | exact .inl Fact.out | with_reducible exact .inr rfl | with_reducible rfl | skip)
    | with_reducible apply keeps_each
    | with_reducible apply keeps_foldl
    | split
    | intro _)

theorem keeps_execHbDisableWrite [Fact (P .fab)] [Fact (P .hub)] [Fact (P .regs)] [Fact (P .sp)] (w : Who) (v : Word) (s : State) : Outs P s (execHbDisableWrite w v s) := by
  unfold execHbDisableWrite
  apply outs_next
  repeat' (first
    | with_reducible assumption
    | with_reducible exact Keeps.refl _
    | with_reducible apply keeps_guardWrite
    | with_reducible apply keeps_writePlain
    | with_reducible apply keeps_hubRefresh
    | fail_if_no_progress (with_reducible apply keeps_mk <;> first | exact .inl Fact.out | with_reducible exact .inr rfl | with_reducible rfl | skip)
    | with_reducible apply keeps_each
    | with_reducible apply keeps_foldl
    | split
    | intro _)

theorem keeps_execHoldoffGroupExpiry [Fact (P .hub)] [Fact (P .regs)] [Fact (P .tm)] (g : Fin 160) (s : State) : Outs P s (execHoldoffGroupExpiry g s) := by
  unfold execHoldoffGroupExpiry
  apply outs_next
  repeat' (first
    | with_reducible assumption
    | with_reducible exact Keeps.refl _
    | with_reducible apply keeps_advanceMg
    | with_reducible apply keeps_hubRefresh
    | fail_if_no_progress (with_reducible apply keeps_mk <;> first | exact .inl Fact.out | with_reducible exact .inr rfl | with_reducible rfl | skip)
    | with_reducible apply keeps_each
    | with_reducible apply keeps_foldl
    | split)

theorem keeps_execTargetAwakeChange [Fact (P .hub)] (t : Fin 64) (high : Bool) (s : State) : Outs P s (execTargetAwakeChange t high s) := by
  unfold execTargetAwakeChange
  apply outs_next
  repeat' (first
    | with_reducible assumption
    | with_reducible exact Keeps.refl _
    | with_reducible apply keeps_hubRefresh
    | fail_if_no_progress (with_reducible apply keeps_mk <;> first | exact .inl Fact.out | with_reducible exact .inr rfl | with_reducible rfl | skip))

theorem keeps_execRedirectTimeout [Fact (P .fb)] [Fact (P .hub)] [Fact (P .regs)] [Fact (P .tm)] (n : Fin 2560) (s : State) : Outs P s (execRedirectTimeout n s) := by
  unfold execRedirectTimeout
  apply outs_next
  repeat' (first
    | with_reducible assumption
    | with_reducible exact Keeps.refl _
    | with_reducible apply keeps_advanceMg
    | with_reducible apply keeps_setSrc
    | with_reducible apply keeps_bump
    | with_reducible apply keeps_raise
    | with_reducible apply keeps_hubRefresh
    | fail_if_no_progress (with_reducible apply keeps_mk <;> first | exact .inl Fact.out | with_reducible exact .inr rfl | with_reducible rfl | skip)
    | with_reducible apply keeps_each
    | with_reducible apply keeps_foldl
    | split)

theorem keeps_hbWrite [Fact (P .hub)] [Fact (P .ny)] [Fact (P .regs)] {s₀ s : State} (off v : Nat) (hk : Keeps P s₀ s) : Keeps P s₀ (State.hbWrite s off v) := by
  unfold State.hbWrite
  repeat' (first
    | with_reducible assumption
    | with_reducible exact Keeps.refl _
    | with_reducible apply keeps_swSet
    | with_reducible apply keeps_hbSrcCfg
    | with_reducible apply keeps_hbComplete
    | with_reducible apply keeps_writePlain
    | with_reducible apply keeps_hubRefresh
    | fail_if_no_progress (with_reducible apply keeps_mk <;> first | exact .inl Fact.out | with_reducible exact .inr rfl | with_reducible rfl | skip)
    | with_reducible apply keeps_each
    | with_reducible apply keeps_foldl
    | split)

end Sys2Proof.Laws
end

