-- ==== Sys2Proof/Laws/KeepsCheckUnits.lean ====
section
/-! SUPPORT. What the operations of CheckUnits.lean keep. -/

namespace Sys2Proof.Laws

open Sys2Proof.Machine

variable {P : Part → Prop}

theorem keeps_setCu [Fact (P .cu)] {s₀ s : State} (u : Nat) (c : CuSt) (hk : Keeps P s₀ s) : Keeps P s₀ (State.setCu s u c) := by
  unfold State.setCu
  repeat' (first
    | with_reducible assumption
    | with_reducible exact Keeps.refl _
    | fail_if_no_progress (with_reducible apply keeps_mk <;> first | exact .inl Fact.out | with_reducible exact .inr rfl | with_reducible rfl | skip))

theorem keeps_cuStart [Fact (P .cu)] [Fact (P .regs)] {s₀ s : State} (u : Nat) (hk : Keeps P s₀ s) : Keeps P s₀ (State.cuStart s u) := by
  unfold State.cuStart
  repeat' (first
    | with_reducible assumption
    | with_reducible exact Keeps.refl _
    | with_reducible apply keeps_wr
    | with_reducible apply keeps_wr64
    | with_reducible apply keeps_setCu
    | fail_if_no_progress (with_reducible apply keeps_mk <;> first | exact .inl Fact.out | with_reducible exact .inr rfl | with_reducible rfl | skip)
    | with_reducible apply keeps_each
    | with_reducible apply keeps_foldl
    | split)

theorem keeps_cuEnd [Fact (P .cu)] [Fact (P .regs)] {s₀ s : State} (u : Nat) (contig : Bool) (hk : Keeps P s₀ s) : Keeps P s₀ (State.cuEnd s u contig) := by
  unfold State.cuEnd
  repeat' (first
    | with_reducible assumption
    | with_reducible exact Keeps.refl _
    | with_reducible apply keeps_wr64
    | with_reducible apply keeps_bump
    | with_reducible apply keeps_wr
    | with_reducible apply keeps_setBit
    | with_reducible apply keeps_setCu
    | fail_if_no_progress (with_reducible apply keeps_mk <;> first | exact .inl Fact.out | with_reducible exact .inr rfl | with_reducible rfl | skip)
    | with_reducible apply keeps_each
    | with_reducible apply keeps_foldl
    | split)

theorem keeps_cuByte [Fact (P .cu)] [Fact (P .regs)] {s₀ s : State} (u : Nat) (b : Byte) (hk : Keeps P s₀ s) : Keeps P s₀ (State.cuByte s u b) := by
  unfold State.cuByte
  repeat' (first
    | with_reducible assumption
    | with_reducible exact Keeps.refl _
    | with_reducible apply keeps_cuStart
    | with_reducible apply keeps_wr64
    | with_reducible apply keeps_bump
    | with_reducible apply keeps_setCu
    | with_reducible apply keeps_cuEnd
    | fail_if_no_progress (with_reducible apply keeps_mk <;> first | exact .inl Fact.out | with_reducible exact .inr rfl | with_reducible rfl | skip)
    | with_reducible apply keeps_each
    | with_reducible apply keeps_foldl
    | split
    | intro _
    | (extract_lets +onlyGivenNames x; refine keeps_cut (x := x) ?_ ?_; on_goal 2 => clear_value x)
    | extract_lets +onlyGivenNames y)

theorem keeps_cuStream [Fact (P .cu)] [Fact (P .regs)] {s₀ s : State} (stream : Nat) (start : Bool) (bytes : List Byte) (stop : Bool) (hk : Keeps P s₀ s) : Keeps P s₀ (State.cuStream s stream start bytes stop) := by
  unfold State.cuStream
  repeat' (first
    | with_reducible assumption
    | with_reducible exact Keeps.refl _
    | with_reducible apply keeps_each
    | with_reducible apply keeps_cuStart
    | with_reducible apply keeps_cuByte
    | with_reducible apply keeps_cuEnd
    | fail_if_no_progress (with_reducible apply keeps_mk <;> first | exact .inl Fact.out | with_reducible exact .inr rfl | with_reducible rfl | skip)
    | with_reducible apply keeps_each
    | with_reducible apply keeps_foldl
    | split
    | intro _
    | (extract_lets +onlyGivenNames x; refine keeps_cut (x := x) ?_ ?_; on_goal 2 => clear_value x))

theorem keeps_cuArm [Fact (P .cu)] [Fact (P .regs)] [Fact (P .tm)] {s₀ s : State} (u : Nat) (keep : Bool) (hk : Keeps P s₀ s) : Keeps P s₀ (State.cuArm s u keep) := by
  unfold State.cuArm
  repeat' (first
    | with_reducible assumption
    | with_reducible exact Keeps.refl _
    | with_reducible apply keeps_bump
    | with_reducible apply keeps_wr
    | with_reducible apply keeps_keep
    | with_reducible apply keeps_setCu
    | fail_if_no_progress (with_reducible apply keeps_mk <;> first | exact .inl Fact.out | with_reducible exact .inr rfl | with_reducible rfl | skip)
    | with_reducible apply keeps_each
    | with_reducible apply keeps_foldl
    | split)

theorem keeps_cuDisarm [Fact (P .cu)] [Fact (P .regs)] {s₀ s : State} (u : Nat) (hk : Keeps P s₀ s) : Keeps P s₀ (State.cuDisarm s u) := by
  unfold State.cuDisarm
  repeat' (first
    | with_reducible assumption
    | with_reducible exact Keeps.refl _
    | with_reducible apply keeps_wr
    | with_reducible apply keeps_setCu)

theorem keeps_cuCtrl [Fact (P .cu)] [Fact (P .regs)] [Fact (P .tm)] {s₀ s : State} (u v : Nat) (hk : Keeps P s₀ s) : Keeps P s₀ (State.cuCtrl s u v) := by
  unfold State.cuCtrl
  repeat' (first
    | with_reducible assumption
    | with_reducible exact Keeps.refl _
    | with_reducible apply keeps_cuArm
    | with_reducible apply keeps_cuDisarm
    | fail_if_no_progress (with_reducible apply keeps_mk <;> first | exact .inl Fact.out | with_reducible exact .inr rfl | with_reducible rfl | skip)
    | with_reducible apply keeps_each
    | with_reducible apply keeps_foldl
    | split)

theorem keeps_cuWrite [Fact (P .cu)] [Fact (P .regs)] [Fact (P .tm)] {s₀ s : State} (off v : Nat) (hk : Keeps P s₀ s) : Keeps P s₀ (State.cuWrite s off v) := by
  unfold State.cuWrite
  repeat' (first
    | with_reducible assumption
    | with_reducible exact Keeps.refl _
    | with_reducible apply keeps_cuCtrl
    | with_reducible apply keeps_bump
    | with_reducible apply keeps_writePlain
    | fail_if_no_progress (with_reducible apply keeps_mk <;> first | exact .inl Fact.out | with_reducible exact .inr rfl | with_reducible rfl | skip)
    | with_reducible apply keeps_each
    | with_reducible apply keeps_foldl
    | split
    | intro _
    | (extract_lets +onlyGivenNames x; refine keeps_cut (x := x) ?_ ?_; on_goal 2 => clear_value x)
    | extract_lets +onlyGivenNames y)

theorem keeps_execCuArm [Fact (P .cu)] [Fact (P .fab)] [Fact (P .regs)] [Fact (P .sp)] [Fact (P .tm)] (w : Who) (u : Fin 16) (keep : Bool) (s : State) : Outs P s (execCuArm w u keep s) := by
  unfold execCuArm
  apply outs_next
  repeat' (first
    | with_reducible assumption
    | with_reducible exact Keeps.refl _
    | with_reducible apply keeps_guardWrite
    | with_reducible apply keeps_cuCtrl
    | with_reducible apply keeps_keep
    | fail_if_no_progress (with_reducible apply keeps_mk <;> first | exact .inl Fact.out | with_reducible exact .inr rfl | with_reducible rfl | skip)
    | with_reducible apply keeps_each
    | with_reducible apply keeps_foldl
    | split
    | intro _)

theorem keeps_execCuDisarm [Fact (P .cu)] [Fact (P .fab)] [Fact (P .regs)] [Fact (P .sp)] [Fact (P .tm)] (w : Who) (u : Fin 16) (s : State) : Outs P s (execCuDisarm w u s) := by
  unfold execCuDisarm
  apply outs_next
  repeat' (first
    | with_reducible assumption
    | with_reducible exact Keeps.refl _
    | with_reducible apply keeps_guardWrite
    | with_reducible apply keeps_cuCtrl
    | fail_if_no_progress (with_reducible apply keeps_mk <;> first | exact .inl Fact.out | with_reducible exact .inr rfl | with_reducible rfl | skip)
    | with_reducible apply keeps_each
    | with_reducible apply keeps_foldl
    | split
    | intro _)

end Sys2Proof.Laws
end

