-- ==== Sys2Proof/Laws/KeepsMgmtDma.lean ====
section
/-! SUPPORT. What the operations of MgmtDma.lean keep. -/

namespace Sys2Proof.Laws

open Sys2Proof.Machine

variable {P : Part → Prop}



theorem keeps_setMd [Fact (P .md)] {s₀ s : State} (ch : Nat) (c : MdCh) (hk : Keeps P s₀ s) : Keeps P s₀ (State.setMd s ch c) := by
  unfold State.setMd
  repeat' (first
    | with_reducible assumption
    | with_reducible exact Keeps.refl _
    | fail_if_no_progress (with_reducible apply keeps_mk <;> first | exact .inl Fact.out | with_reducible exact .inr rfl | with_reducible rfl | skip))

theorem keeps_mdFailAt [Fact (P .regs)] {s₀ s : State} (ch addr space : Nat) (hk : Keeps P s₀ s) : Keeps P s₀ (State.mdFailAt s ch addr space) := by
  unfold State.mdFailAt
  repeat' (first
    | with_reducible assumption
    | with_reducible exact Keeps.refl _
    | with_reducible apply keeps_wr)

theorem keeps_mdAddBack [Fact (P .latch)] [Fact (P .regs)] [Fact (P .transit)] {s₀ s : State} (ch : Nat) (hk : Keeps P s₀ s) : Keeps P s₀ (State.mdAddBack s ch) := by
  unfold State.mdAddBack
  repeat' (first
    | with_reducible assumption
    | with_reducible exact Keeps.refl _
    | with_reducible apply keeps_failTransit)

theorem keeps_mdStop [Fact (P .regs)] {s₀ s : State} (ch reason : Nat) (hk : Keeps P s₀ s) : Keeps P s₀ (State.mdStop s ch reason) := by
  unfold State.mdStop
  repeat' (first
    | with_reducible assumption
    | with_reducible exact Keeps.refl _
    | with_reducible apply keeps_wr)

theorem keeps_mdHalt [Fact (P .md)] [Fact (P .ny)] [Fact (P .regs)] {s₀ s : State} (ch : Nat) (hk : Keeps P s₀ s) : Keeps P s₀ (State.mdHalt s ch) := by
  unfold State.mdHalt
  repeat' (first
    | with_reducible assumption
    | with_reducible exact Keeps.refl _
    | with_reducible apply keeps_wr
    | with_reducible apply keeps_setBit
    | with_reducible apply keeps_setMd
    | with_reducible apply keeps_bgDone)

theorem keeps_mdReadDesc [Fact (P .fab)] [Fact (P .md)] [Fact (P .ny)] [Fact (P .regs)] {s₀ s : State} (ch addr space : Nat) (hk : Keeps P s₀ s) : Keeps P s₀ (State.mdReadDesc s ch addr space) := by
  unfold State.mdReadDesc
  repeat' (first
    | with_reducible assumption
    | with_reducible exact Keeps.refl _
    | with_reducible apply keeps_wr
    | with_reducible apply keeps_setMd
    | with_reducible apply keeps_bgBegin
    | with_reducible apply keeps_hostRead
    | fail_if_no_progress (with_reducible apply keeps_mk <;> first | exact .inl Fact.out | with_reducible exact .inr rfl | with_reducible rfl | skip)
    | with_reducible apply keeps_each
    | with_reducible apply keeps_foldl
    | split)

theorem keeps_mdStart [Fact (P .fab)] [Fact (P .md)] [Fact (P .ny)] [Fact (P .regs)] {s₀ s : State} (ch : Nat) (hk : Keeps P s₀ s) : Keeps P s₀ (State.mdStart s ch) := by
  unfold State.mdStart
  repeat' (first
    | with_reducible assumption
    | with_reducible exact Keeps.refl _
    | with_reducible apply keeps_bump
    | with_reducible apply keeps_wr
    | with_reducible apply keeps_mdReadDesc
    | fail_if_no_progress (with_reducible apply keeps_mk <;> first | exact .inl Fact.out | with_reducible exact .inr rfl | with_reducible rfl | skip)
    | with_reducible apply keeps_each
    | with_reducible apply keeps_foldl
    | split)

theorem keeps_mdWriteBack [Fact (P .fab)] [Fact (P .md)] {s₀ s : State} (ch : Nat) (hk : Keeps P s₀ s) : Keeps P s₀ (State.mdWriteBack s ch) := by
  unfold State.mdWriteBack
  repeat' (first
    | with_reducible assumption
    | with_reducible exact Keeps.refl _
    | with_reducible apply keeps_setMd
    | with_reducible apply keeps_hostWrite
    | fail_if_no_progress (with_reducible apply keeps_mk <;> first | exact .inl Fact.out | with_reducible exact .inr rfl | with_reducible rfl | skip)
    | with_reducible apply keeps_each
    | with_reducible apply keeps_foldl
    | split
    | intro _
    | (extract_lets +onlyGivenNames x; refine keeps_cut (x := x) ?_ ?_; on_goal 2 => clear_value x)
    | extract_lets +onlyGivenNames y)

theorem keeps_mdUnit [Fact (P .cu)] [Fact (P .regs)] {s₀ s : State} (ch : Nat) (start stop : Bool) (hk : Keeps P s₀ s) : Keeps P s₀ (State.mdUnit s ch start stop) := by
  unfold State.mdUnit
  repeat' (first
    | with_reducible assumption
    | with_reducible exact Keeps.refl _
    | with_reducible apply keeps_cuStream
    | fail_if_no_progress (with_reducible apply keeps_mk <;> first | exact .inl Fact.out | with_reducible exact .inr rfl | with_reducible rfl | skip)
    | with_reducible apply keeps_each
    | with_reducible apply keeps_foldl
    | split)

theorem keeps_mdEndBad [Fact (P .cu)] [Fact (P .fab)] [Fact (P .latch)] [Fact (P .md)] [Fact (P .regs)] [Fact (P .transit)] {s₀ s : State} (ch status result : Nat) (hk : Keeps P s₀ s) : Keeps P s₀ (State.mdEndBad s ch status result) := by
  unfold State.mdEndBad
  repeat' (first
    | with_reducible assumption
    | with_reducible exact Keeps.refl _
    | with_reducible apply keeps_mdAddBack
    | with_reducible apply keeps_mdUnit
    | with_reducible apply keeps_setMd
    | with_reducible apply keeps_mdWriteBack
    | fail_if_no_progress (with_reducible apply keeps_mk <;> first | exact .inl Fact.out | with_reducible exact .inr rfl | with_reducible rfl | skip)
    | with_reducible apply keeps_each
    | with_reducible apply keeps_foldl
    | split
    | intro _
    | (extract_lets +onlyGivenNames x; refine keeps_cut (x := x) ?_ ?_; on_goal 2 => clear_value x)
    | extract_lets +onlyGivenNames y)

theorem keeps_mdAbort [Fact (P .cu)] [Fact (P .fab)] [Fact (P .latch)] [Fact (P .md)] [Fact (P .regs)] [Fact (P .transit)] {s₀ s : State} (ch : Nat) (hk : Keeps P s₀ s) : Keeps P s₀ (State.mdAbort s ch) := by
  unfold State.mdAbort
  repeat' (first
    | with_reducible assumption
    | with_reducible exact Keeps.refl _
    | with_reducible apply keeps_bump
    | with_reducible apply keeps_mdStop
    | with_reducible apply keeps_mdEndBad
    | with_reducible apply keeps_wr
    | fail_if_no_progress (with_reducible apply keeps_mk <;> first | exact .inl Fact.out | with_reducible exact .inr rfl | with_reducible rfl | skip)
    | with_reducible apply keeps_each
    | with_reducible apply keeps_foldl
    | split
    | intro _
    | (extract_lets +onlyGivenNames x; refine keeps_cut (x := x) ?_ ?_; on_goal 2 => clear_value x)
    | extract_lets +onlyGivenNames y)

theorem keeps_mdCtrl [Fact (P .cu)] [Fact (P .fab)] [Fact (P .latch)] [Fact (P .md)] [Fact (P .ny)] [Fact (P .regs)] [Fact (P .transit)] {s₀ s : State} (ch v : Nat) (hk : Keeps P s₀ s) : Keeps P s₀ (State.mdCtrl s ch v) := by
  unfold State.mdCtrl
  repeat' (first
    | with_reducible assumption
    | with_reducible exact Keeps.refl _
    | with_reducible apply keeps_mdStart
    | with_reducible apply keeps_mdAbort
    | fail_if_no_progress (with_reducible apply keeps_mk <;> first | exact .inl Fact.out | with_reducible exact .inr rfl | with_reducible rfl | skip)
    | with_reducible apply keeps_each
    | with_reducible apply keeps_foldl
    | split)

theorem keeps_mdRegWrite [Fact (P .cu)] [Fact (P .fab)] [Fact (P .latch)] [Fact (P .md)] [Fact (P .ny)] [Fact (P .regs)] [Fact (P .transit)] {s₀ s : State} (off v : Nat) (hk : Keeps P s₀ s) : Keeps P s₀ (State.mdRegWrite s off v) := by
  unfold State.mdRegWrite
  repeat' (first
    | with_reducible assumption
    | with_reducible exact Keeps.refl _
    | with_reducible apply keeps_mdCtrl
    | with_reducible apply keeps_bump
    | with_reducible apply keeps_writePlain
    | fail_if_no_progress (with_reducible apply keeps_mk <;> first | exact .inl Fact.out | with_reducible exact .inr rfl | with_reducible rfl | skip)
    | with_reducible apply keeps_each
    | with_reducible apply keeps_foldl
    | split
    | intro _
    | (extract_lets +onlyGivenNames x; refine keeps_cut (x := x) ?_ ?_; on_goal 2 => clear_value x)
    | extract_lets +onlyGivenNames y)

theorem keeps_execMdStart [Fact (P .cu)] [Fact (P .fab)] [Fact (P .latch)] [Fact (P .md)] [Fact (P .ny)] [Fact (P .regs)] [Fact (P .sp)] [Fact (P .transit)] (w : Who) (ch : Fin 8) (s : State) : Outs P s (execMdStart w ch s) := by
  unfold execMdStart
  apply outs_next
  repeat' (first
    | with_reducible assumption
    | with_reducible exact Keeps.refl _
    | with_reducible apply keeps_guardWrite
    | with_reducible apply keeps_mdCtrl
    | fail_if_no_progress (with_reducible apply keeps_mk <;> first | exact .inl Fact.out | with_reducible exact .inr rfl | with_reducible rfl | skip)
    | with_reducible apply keeps_each
    | with_reducible apply keeps_foldl
    | split
    | intro _)

theorem keeps_execMdAbort [Fact (P .cu)] [Fact (P .fab)] [Fact (P .latch)] [Fact (P .md)] [Fact (P .ny)] [Fact (P .regs)] [Fact (P .sp)] [Fact (P .transit)] (w : Who) (ch : Fin 8) (s : State) : Outs P s (execMdAbort w ch s) := by
  unfold execMdAbort
  apply outs_next
  repeat' (first
    | with_reducible assumption
    | with_reducible exact Keeps.refl _
    | with_reducible apply keeps_guardWrite
    | with_reducible apply keeps_mdCtrl
    | fail_if_no_progress (with_reducible apply keeps_mk <;> first | exact .inl Fact.out | with_reducible exact .inr rfl | with_reducible rfl | skip)
    | with_reducible apply keeps_each
    | with_reducible apply keeps_foldl
    | split
    | intro _)

theorem keeps_execMdStoppingDone [Fact (P .md)] [Fact (P .ny)] [Fact (P .regs)] (ch : Fin 8) (s : State) : Outs P s (execMdStoppingDone ch s) := by
  unfold execMdStoppingDone
  apply outs_next
  repeat' (first
    | with_reducible assumption
    | with_reducible exact Keeps.refl _
    | with_reducible apply keeps_mdHalt
    | fail_if_no_progress (with_reducible apply keeps_mk <;> first | exact .inl Fact.out | with_reducible exact .inr rfl | with_reducible rfl | skip)
    | with_reducible apply keeps_each
    | with_reducible apply keeps_foldl
    | split)

end Sys2Proof.Laws
end

