-- ==== Sys2Proof/Laws/KeepsAes.lean ====
section
/-! SUPPORT. What the operations of Aes.lean keep. -/

namespace Sys2Proof.Laws

open Sys2Proof.Machine

variable {P : Part → Prop}

end Sys2Proof.Laws
end

