-- ==== Sys2Proof/Laws/KeepsStore.lean ====
section
/-! SUPPORT. What the operations of Store.lean keep. -/

namespace Sys2Proof.Laws

open Sys2Proof.Machine

set_option Elab.async false

variable {P : Part → Prop}

theorem keeps_stReject [Fact (P .regs)] {s₀ s : State}  (hk : Keeps P s₀ s) : Keeps P s₀ (State.stReject s) := by
  unfold State.stReject
  repeat' (first
    | with_reducible assumption
    | with_reducible exact Keeps.refl _
    | with_reducible apply keeps_bump)

theorem keeps_stEnd [Fact (P .kw)] [Fact (P .regs)] {s₀ s : State} (result : Nat) (hk : Keeps P s₀ s) : Keeps P s₀ (State.stEnd s result) := by
  unfold State.stEnd
  repeat' (first
    | with_reducible assumption
    | with_reducible exact Keeps.refl _
    | with_reducible apply keeps_wr
    | with_reducible apply keeps_raise
    | fail_if_no_progress (with_reducible apply keeps_mk <;> first | exact .inl Fact.out | with_reducible exact .inr rfl | with_reducible rfl | skip)
    | with_reducible apply keeps_each
    | with_reducible apply keeps_foldl
    | split)

theorem keeps_stXferCtrl [Fact (P .kw)] [Fact (P .regs)] {s₀ s : State} (m v : Nat) (hk : Keeps P s₀ s) : Keeps P s₀ (State.stXferCtrl s m v) := by
  unfold State.stXferCtrl
  repeat' (first
    | with_reducible assumption
    | with_reducible exact Keeps.refl _
    | with_reducible apply keeps_stReject
    | with_reducible apply keeps_writePlain
    | with_reducible apply keeps_raise
    | with_reducible apply keeps_stEnd
    | fail_if_no_progress (with_reducible apply keeps_mk <;> first | exact .inl Fact.out | with_reducible exact .inr rfl | with_reducible rfl | skip)
    | with_reducible apply keeps_each
    | with_reducible apply keeps_foldl
    | split
    | intro _
    | (extract_lets +onlyGivenNames x; refine keeps_cut (x := x) ?_ ?_; on_goal 2 => clear_value x)
    | extract_lets +onlyGivenNames y)

theorem keeps_storeLive [Fact (P .regs)] {s₀ s : State}  (hk : Keeps P s₀ s) : Keeps P s₀ (State.storeLive s) := by
  unfold State.storeLive
  repeat' (first
    | with_reducible assumption
    | with_reducible exact Keeps.refl _
    | with_reducible apply keeps_wr
    | with_reducible apply keeps_raise
    | fail_if_no_progress (with_reducible apply keeps_mk <;> first | exact .inl Fact.out | with_reducible exact .inr rfl | with_reducible rfl | skip)
    | with_reducible apply keeps_each
    | with_reducible apply keeps_foldl
    | split
    | intro _
    | (extract_lets +onlyGivenNames x; refine keeps_cut (x := x) ?_ ?_; on_goal 2 => clear_value x)
    | extract_lets +onlyGivenNames y)

theorem keeps_stRetire [Fact (P .kw)] [Fact (P .ny)] [Fact (P .regs)] {s₀ s : State} (k i : Nat) (hk : Keeps P s₀ s) : Keeps P s₀ (State.stRetire s k i) := by
  unfold State.stRetire
  repeat' (first
    | with_reducible assumption
    | with_reducible exact Keeps.refl _
    | with_reducible apply keeps_storeLive
    | with_reducible apply keeps_raise
    | with_reducible apply keeps_bgBegin
    | fail_if_no_progress (with_reducible apply keeps_mk <;> first | exact .inl Fact.out | with_reducible exact .inr rfl | with_reducible rfl | skip))

theorem keeps_stWritten [Fact (P .kw)] [Fact (P .ny)] [Fact (P .regs)] {s₀ s : State} (op addr result : Nat) (back : List Byte) (hk : Keeps P s₀ s) : Keeps P s₀ (State.stWritten s op addr result back) := by
  unfold State.stWritten
  repeat' (first
    | with_reducible assumption
    | with_reducible exact Keeps.refl _
    | with_reducible apply keeps_stRetire
    | with_reducible apply keeps_storeLive
    | fail_if_no_progress (with_reducible apply keeps_mk <;> first | exact .inl Fact.out | with_reducible exact .inr rfl | with_reducible rfl | skip)
    | with_reducible apply keeps_each
    | with_reducible apply keeps_foldl
    | split
    | intro _
    | (extract_lets +onlyGivenNames x; refine keeps_cut (x := x) ?_ ?_; on_goal 2 => clear_value x)
    | extract_lets +onlyGivenNames y)

theorem keeps_stDone [Fact (P .cu)] [Fact (P .kw)] [Fact (P .ny)] [Fact (P .regs)] [Fact (P .sram)] [Fact (P .tm)] {s₀ s : State} (a : StoreAnswer) (hk : Keeps P s₀ s) : Keeps P s₀ (State.stDone s a) := by
  unfold State.stDone
  repeat' (first
    | with_reducible assumption
    | with_reducible exact Keeps.refl _
    | with_reducible apply keeps_sramWrite
    | with_reducible apply keeps_cuStream
    | with_reducible apply keeps_stEnd
    | with_reducible apply keeps_wr
    | with_reducible apply keeps_advanceMg
    | with_reducible apply keeps_stWritten
    | fail_if_no_progress (with_reducible apply keeps_mk <;> first | exact .inl Fact.out | with_reducible exact .inr rfl | with_reducible rfl | skip)
    | with_reducible apply keeps_each
    | with_reducible apply keeps_foldl
    | split
    | intro _
    | (extract_lets +onlyGivenNames x; refine keeps_cut (x := x) ?_ ?_; on_goal 2 => clear_value x)
    | extract_lets +onlyGivenNames y)

theorem keeps_stUpdCmd [Fact (P .kw)] [Fact (P .regs)] {s₀ s : State} (v : Nat) (hk : Keeps P s₀ s) : Keeps P s₀ (State.stUpdCmd s v) := by
  unfold State.stUpdCmd
  repeat' (first
    | with_reducible assumption
    | with_reducible exact Keeps.refl _
    | with_reducible apply keeps_writePlain
    | with_reducible apply keeps_stReject
    | with_reducible apply keeps_raise
    | fail_if_no_progress (with_reducible apply keeps_mk <;> first | exact .inl Fact.out | with_reducible exact .inr rfl | with_reducible rfl | skip)
    | with_reducible apply keeps_each
    | with_reducible apply keeps_foldl
    | split)

theorem keeps_updEnd [Fact (P .kw)] [Fact (P .regs)] {s₀ s : State} (status detail bank : Nat) (hk : Keeps P s₀ s) : Keeps P s₀ (State.updEnd s status detail bank) := by
  unfold State.updEnd
  repeat' (first
    | with_reducible assumption
    | with_reducible exact Keeps.refl _
    | with_reducible apply keeps_wr
    | with_reducible apply keeps_raise
    | fail_if_no_progress (with_reducible apply keeps_mk <;> first | exact .inl Fact.out | with_reducible exact .inr rfl | with_reducible rfl | skip))

theorem keeps_cfgSelect [Fact (P .regs)] {s₀ s : State} (rom : Bool) (hk : Keeps P s₀ s) : Keeps P s₀ (State.cfgSelect s rom) := by
  unfold State.cfgSelect
  repeat' (first
    | with_reducible assumption
    | with_reducible exact Keeps.refl _
    | with_reducible apply keeps_wr
    | with_reducible apply keeps_put
    | with_reducible apply keeps_raise
    | fail_if_no_progress (with_reducible apply keeps_mk <;> first | exact .inl Fact.out | with_reducible exact .inr rfl | with_reducible rfl | skip)
    | with_reducible apply keeps_each
    | with_reducible apply keeps_foldl
    | split
    | intro _
    | (extract_lets +onlyGivenNames x; refine keeps_cut (x := x) ?_ ?_; on_goal 2 => clear_value x)
    | extract_lets +onlyGivenNames y)

theorem keeps_stUpdFw [Fact (P .kw)] [Fact (P .regs)] {s₀ s : State} (m v seq : Nat) (hk : Keeps P s₀ s) : Keeps P s₀ (State.stUpdFw s m v seq) := by
  unfold State.stUpdFw
  repeat' (first
    | with_reducible assumption
    | with_reducible exact Keeps.refl _
    | with_reducible apply keeps_stReject
    | with_reducible apply keeps_wr
    | with_reducible apply keeps_updEnd
    | with_reducible apply keeps_cfgSelect
    | fail_if_no_progress (with_reducible apply keeps_mk <;> first | exact .inl Fact.out | with_reducible exact .inr rfl | with_reducible rfl | skip)
    | with_reducible apply keeps_each
    | with_reducible apply keeps_foldl
    | split
    | intro _
    | (extract_lets +onlyGivenNames x; refine keeps_cut (x := x) ?_ ?_; on_goal 2 => clear_value x)
    | extract_lets +onlyGivenNames y)

theorem keeps_storeApply [Fact (P .regs)] {s₀ s : State}  (hk : Keeps P s₀ s) : Keeps P s₀ (State.storeApply s) := by
  unfold State.storeApply
  repeat' (first
    | with_reducible assumption
    | with_reducible exact Keeps.refl _
    | with_reducible apply keeps_wr
    | with_reducible apply keeps_raise
    | fail_if_no_progress (with_reducible apply keeps_mk <;> first | exact .inl Fact.out | with_reducible exact .inr rfl | with_reducible rfl | skip)
    | with_reducible apply keeps_each
    | with_reducible apply keeps_foldl
    | split
    | intro _
    | (extract_lets +onlyGivenNames x; refine keeps_cut (x := x) ?_ ?_; on_goal 2 => clear_value x)
    | extract_lets +onlyGivenNames y)

theorem keeps_stStat [Fact (P .ny)] [Fact (P .regs)] {s₀ s : State} (v : Nat) (hk : Keeps P s₀ s) : Keeps P s₀ (State.stStat s v) := by
  unfold State.stStat
  repeat' (first
    | with_reducible assumption
    | with_reducible exact Keeps.refl _
    | with_reducible apply keeps_writePlain
    | with_reducible apply keeps_each
    | with_reducible apply keeps_bgDone
    | with_reducible apply keeps_raise
    | fail_if_no_progress (with_reducible apply keeps_mk <;> first | exact .inl Fact.out | with_reducible exact .inr rfl | with_reducible rfl | skip)
    | with_reducible apply keeps_each
    | with_reducible apply keeps_foldl
    | split
    | intro _
    | (extract_lets +onlyGivenNames x; refine keeps_cut (x := x) ?_ ?_; on_goal 2 => clear_value x)
    | extract_lets +onlyGivenNames y)

theorem keeps_stWrite [Fact (P .kw)] [Fact (P .ny)] [Fact (P .regs)] {s₀ s : State} (off m v : Nat) (hk : Keeps P s₀ s) : Keeps P s₀ (State.stWrite s off m v) := by
  unfold State.stWrite
  repeat' (first
    | with_reducible assumption
    | with_reducible exact Keeps.refl _
    | with_reducible apply keeps_stXferCtrl
    | with_reducible apply keeps_stUpdCmd
    | with_reducible apply keeps_stUpdFw
    | with_reducible apply keeps_stReject
    | with_reducible apply keeps_stStat
    | with_reducible apply keeps_writePlain
    | with_reducible apply keeps_wr
    | fail_if_no_progress (with_reducible apply keeps_mk <;> first | exact .inl Fact.out | with_reducible exact .inr rfl | with_reducible rfl | skip)
    | with_reducible apply keeps_each
    | with_reducible apply keeps_foldl
    | split)

theorem keeps_execStoreRead [Fact (P .fab)] [Fact (P .kw)] [Fact (P .regs)] [Fact (P .sp)] (w : Who) (len : BitVec 13) (s : State) : Outs P s (execStoreRead w len s) := by
  unfold execStoreRead
  apply outs_next
  repeat' (first
    | with_reducible assumption
    | with_reducible exact Keeps.refl _
    | with_reducible apply keeps_guardWrite
    | with_reducible apply keeps_stXferCtrl
    | fail_if_no_progress (with_reducible apply keeps_mk <;> first | exact .inl Fact.out | with_reducible exact .inr rfl | with_reducible rfl | skip)
    | with_reducible apply keeps_each
    | with_reducible apply keeps_foldl
    | split
    | intro _)

theorem keeps_execStoreProgram [Fact (P .fab)] [Fact (P .kw)] [Fact (P .regs)] [Fact (P .sp)] (w : Who) (len : BitVec 13) (s : State) : Outs P s (execStoreProgram w len s) := by
  unfold execStoreProgram
  apply outs_next
  repeat' (first
    | with_reducible assumption
    | with_reducible exact Keeps.refl _
    | with_reducible apply keeps_guardWrite
    | with_reducible apply keeps_stXferCtrl
    | fail_if_no_progress (with_reducible apply keeps_mk <;> first | exact .inl Fact.out | with_reducible exact .inr rfl | with_reducible rfl | skip)
    | with_reducible apply keeps_each
    | with_reducible apply keeps_foldl
    | split
    | intro _)

theorem keeps_execStoreErase [Fact (P .fab)] [Fact (P .kw)] [Fact (P .regs)] [Fact (P .sp)] (w : Who) (s : State) : Outs P s (execStoreErase w s) := by
  unfold execStoreErase
  apply outs_next
  repeat' (first
    | with_reducible assumption
    | with_reducible exact Keeps.refl _
    | with_reducible apply keeps_guardWrite
    | with_reducible apply keeps_stXferCtrl
    | fail_if_no_progress (with_reducible apply keeps_mk <;> first | exact .inl Fact.out | with_reducible exact .inr rfl | with_reducible rfl | skip)
    | with_reducible apply keeps_each
    | with_reducible apply keeps_foldl
    | split
    | intro _)

theorem keeps_execStoreReadStatus [Fact (P .fab)] [Fact (P .kw)] [Fact (P .regs)] [Fact (P .sp)] (w : Who) (s : State) : Outs P s (execStoreReadStatus w s) := by
  unfold execStoreReadStatus
  apply outs_next
  repeat' (first
    | with_reducible assumption
    | with_reducible exact Keeps.refl _
    | with_reducible apply keeps_guardWrite
    | with_reducible apply keeps_stXferCtrl
    | fail_if_no_progress (with_reducible apply keeps_mk <;> first | exact .inl Fact.out | with_reducible exact .inr rfl | with_reducible rfl | skip)
    | with_reducible apply keeps_each
    | with_reducible apply keeps_foldl
    | split
    | intro _)

theorem keeps_execStoreXferDone [Fact (P .cu)] [Fact (P .kw)] [Fact (P .ny)] [Fact (P .regs)] [Fact (P .sram)] [Fact (P .tm)] (a : StoreAnswer) (s : State) : Outs P s (execStoreXferDone a s) := by
  unfold execStoreXferDone
  apply outs_next
  repeat' (first
    | with_reducible assumption
    | with_reducible exact Keeps.refl _
    | with_reducible apply keeps_stDone
    | fail_if_no_progress (with_reducible apply keeps_mk <;> first | exact .inl Fact.out | with_reducible exact .inr rfl | with_reducible rfl | skip)
    | with_reducible apply keeps_each
    | with_reducible apply keeps_foldl
    | split)

theorem keeps_execUpdateGo [Fact (P .fab)] [Fact (P .kw)] [Fact (P .regs)] [Fact (P .sp)] (w : Who) (kind : BitVec 2) (s : State) : Outs P s (execUpdateGo w kind s) := by
  unfold execUpdateGo
  apply outs_next
  repeat' (first
    | with_reducible assumption
    | with_reducible exact Keeps.refl _
    | with_reducible apply keeps_guardWrite
    | with_reducible apply keeps_stUpdCmd
    | fail_if_no_progress (with_reducible apply keeps_mk <;> first | exact .inl Fact.out | with_reducible exact .inr rfl | with_reducible rfl | skip)
    | with_reducible apply keeps_each
    | with_reducible apply keeps_foldl
    | split
    | intro _)

theorem keeps_execUpdateResult [Fact (P .fab)] [Fact (P .kw)] [Fact (P .regs)] [Fact (P .sp)] (w : Who) (v seq : Word) (s : State) : Outs P s (execUpdateResult w v seq s) := by
  unfold execUpdateResult
  apply outs_next
  repeat' (first
    | with_reducible assumption
    | with_reducible exact Keeps.refl _
    | with_reducible apply keeps_guardWrite
    | with_reducible apply keeps_stUpdFw
    | fail_if_no_progress (with_reducible apply keeps_mk <;> first | exact .inl Fact.out | with_reducible exact .inr rfl | with_reducible rfl | skip)
    | with_reducible apply keeps_each
    | with_reducible apply keeps_foldl
    | split
    | intro _)

theorem keeps_wdtRestart [Fact (P .ny)] {s₀ s : State}  (hk : Keeps P s₀ s) : Keeps P s₀ (State.wdtRestart s) := by
  unfold State.wdtRestart
  repeat' (first
    | with_reducible assumption
    | with_reducible exact Keeps.refl _
    | fail_if_no_progress (with_reducible apply keeps_mk <;> first | exact .inl Fact.out | with_reducible exact .inr rfl | with_reducible rfl | skip))

theorem keeps_bootStore [Fact (P .regs)] {s₀ s : State}  (hk : Keeps P s₀ s) : Keeps P s₀ (State.bootStore s) := by
  unfold State.bootStore
  repeat' (first
    | with_reducible assumption
    | with_reducible exact Keeps.refl _
    | with_reducible apply keeps_put
    | with_reducible apply keeps_storeLive
    | with_reducible apply keeps_wr
    | fail_if_no_progress (with_reducible apply keeps_mk <;> first | exact .inl Fact.out | with_reducible exact .inr rfl | with_reducible rfl | skip)
    | with_reducible apply keeps_each
    | with_reducible apply keeps_foldl
    | split
    | intro _
    | (extract_lets +onlyGivenNames x; refine keeps_cut (x := x) ?_ ?_; on_goal 2 => clear_value x))

theorem keeps_codeLoad [Fact (P .ny)] {s₀ s : State} (l : List Byte) (hk : Keeps P s₀ s) : Keeps P s₀ (State.codeLoad s l) := by
  unfold State.codeLoad
  repeat' (first
    | with_reducible assumption
    | with_reducible exact Keeps.refl _
    | fail_if_no_progress (with_reducible apply keeps_mk <;> first | exact .inl Fact.out | with_reducible exact .inr rfl | with_reducible rfl | skip))

theorem keeps_bootSelect [Fact (P .kw)] [Fact (P .ny)] [Fact (P .regs)] [Fact (P .sram)] {s₀ s : State} (b : Boot) (hk : Keeps P s₀ s) : Keeps P s₀ (State.bootSelect s b) := by
  unfold State.bootSelect
  repeat' (first
    | with_reducible assumption
    | with_reducible exact Keeps.refl _
    | with_reducible apply keeps_codeLoad
    | with_reducible apply keeps_sramWrite
    | with_reducible apply keeps_bootStore
    | with_reducible apply keeps_wr
    | with_reducible apply keeps_raise
    | with_reducible apply keeps_cfgSelect
    | with_reducible apply keeps_wdtRestart
    | fail_if_no_progress (with_reducible apply keeps_mk <;> first | exact .inl Fact.out | with_reducible exact .inr rfl | with_reducible rfl | skip)
    | with_reducible apply keeps_each
    | with_reducible apply keeps_foldl
    | split)

theorem keeps_kwReject [Fact (P .regs)] {s₀ s : State}  (hk : Keeps P s₀ s) : Keeps P s₀ (State.kwReject s) := by
  unfold State.kwReject
  repeat' (first
    | with_reducible assumption
    | with_reducible exact Keeps.refl _
    | with_reducible apply keeps_bump)

theorem keeps_kwEndBad [Fact (P .kw)] [Fact (P .regs)] {s₀ s : State} (err : Nat) (hk : Keeps P s₀ s) : Keeps P s₀ (State.kwEndBad s err) := by
  unfold State.kwEndBad
  repeat' (first
    | with_reducible assumption
    | with_reducible exact Keeps.refl _
    | with_reducible apply keeps_wr
    | fail_if_no_progress (with_reducible apply keeps_mk <;> first | exact .inl Fact.out | with_reducible exact .inr rfl | with_reducible rfl | skip)
    | with_reducible apply keeps_each
    | with_reducible apply keeps_foldl
    | split)

theorem keeps_kwStart [Fact (P .cu)] [Fact (P .kw)] [Fact (P .regs)] {s₀ s : State}  (hk : Keeps P s₀ s) : Keeps P s₀ (State.kwStart s) := by
  unfold State.kwStart
  repeat' (first
    | with_reducible assumption
    | with_reducible exact Keeps.refl _
    | with_reducible apply keeps_wr
    | with_reducible apply keeps_raise
    | with_reducible apply keeps_cuStream
    | fail_if_no_progress (with_reducible apply keeps_mk <;> first | exact .inl Fact.out | with_reducible exact .inr rfl | with_reducible rfl | skip)
    | with_reducible apply keeps_each
    | with_reducible apply keeps_foldl
    | split
    | intro _
    | (extract_lets +onlyGivenNames x; refine keeps_cut (x := x) ?_ ?_; on_goal 2 => clear_value x)
    | extract_lets +onlyGivenNames y)

theorem keeps_kwCtrl [Fact (P .cu)] [Fact (P .kw)] [Fact (P .regs)] {s₀ s : State} (m v : Nat) (hk : Keeps P s₀ s) : Keeps P s₀ (State.kwCtrl s m v) := by
  unfold State.kwCtrl
  repeat' (first
    | with_reducible assumption
    | with_reducible exact Keeps.refl _
    | with_reducible apply keeps_kwReject
    | with_reducible apply keeps_kwStart
    | with_reducible apply keeps_kwEndBad
    | with_reducible apply keeps_cuStream
    | fail_if_no_progress (with_reducible apply keeps_mk <;> first | exact .inl Fact.out | with_reducible exact .inr rfl | with_reducible rfl | skip)
    | with_reducible apply keeps_each
    | with_reducible apply keeps_foldl
    | split
    | intro _
    | (extract_lets +onlyGivenNames x; refine keeps_cut (x := x) ?_ ?_; on_goal 2 => clear_value x))

theorem keeps_kwDin [Fact (P .kw)] [Fact (P .regs)] {s₀ s : State} (m v : Nat) (hk : Keeps P s₀ s) : Keeps P s₀ (State.kwDin s m v) := by
  unfold State.kwDin
  repeat' (first
    | with_reducible assumption
    | with_reducible exact Keeps.refl _
    | with_reducible apply keeps_kwReject
    | fail_if_no_progress (with_reducible apply keeps_mk <;> first | exact .inl Fact.out | with_reducible exact .inr rfl | with_reducible rfl | skip)
    | with_reducible apply keeps_each
    | with_reducible apply keeps_foldl
    | split)

theorem keeps_kwDout [Fact (P .kw)] [Fact (P .regs)] {s₀ s : State}  (hk : Keeps P s₀ s) : Keeps P s₀ (State.kwDout s).2 := by
  unfold State.kwDout
  repeat' (first
    | with_reducible assumption
    | with_reducible exact Keeps.refl _
    | with_reducible apply keeps_kwReject
    | fail_if_no_progress (with_reducible apply keeps_mk <;> first | exact .inl Fact.out | with_reducible exact .inr rfl | with_reducible rfl | skip)
    | with_reducible apply keeps_each
    | with_reducible apply keeps_foldl
    | split)

theorem keeps_kwDout_eq [Fact (P .kw)] [Fact (P .regs)] {s₀ s s₁ : State}  {x₁ : Nat} (he : State.kwDout s = (x₁, s₁)) (hk : Keeps P s₀ s) : Keeps P s₀ s₁ := by
  have := keeps_kwDout  hk
  rw [he] at this; exact this

theorem keeps_kwFinish [Fact (P .cu)] [Fact (P .kw)] [Fact (P .regs)] {s₀ s : State} (out : List Byte) (hk : Keeps P s₀ s) : Keeps P s₀ (State.kwFinish s out) := by
  unfold State.kwFinish
  repeat' (first
    | with_reducible assumption
    | with_reducible exact Keeps.refl _
    | with_reducible apply keeps_wr
    | with_reducible apply keeps_put
    | with_reducible apply keeps_raise
    | with_reducible apply keeps_cuStream
    | fail_if_no_progress (with_reducible apply keeps_mk <;> first | exact .inl Fact.out | with_reducible exact .inr rfl | with_reducible rfl | skip)
    | with_reducible apply keeps_each
    | with_reducible apply keeps_foldl
    | split
    | intro _
    | (extract_lets +onlyGivenNames x; refine keeps_cut (x := x) ?_ ?_; on_goal 2 => clear_value x)
    | extract_lets +onlyGivenNames y)

theorem keeps_kwBlockDone [Fact (P .cu)] [Fact (P .kw)] [Fact (P .regs)] {s₀ s : State}  (hk : Keeps P s₀ s) : Keeps P s₀ (State.kwBlockDone s) := by
  unfold State.kwBlockDone
  repeat' (first
    | with_reducible assumption
    | with_reducible exact Keeps.refl _
    | with_reducible apply keeps_cuStream
    | with_reducible apply keeps_kwFinish
    | fail_if_no_progress (with_reducible apply keeps_mk <;> first | exact .inl Fact.out | with_reducible exact .inr rfl | with_reducible rfl | skip)
    | with_reducible apply keeps_each
    | with_reducible apply keeps_foldl
    | split
    | intro _
    | (extract_lets +onlyGivenNames x; refine keeps_cut (x := x) ?_ ?_; on_goal 2 => clear_value x)
    | extract_lets +onlyGivenNames y)

theorem keeps_execKwStart [Fact (P .cu)] [Fact (P .fab)] [Fact (P .kw)] [Fact (P .regs)] [Fact (P .sp)] (w : Who) (s : State) : Outs P s (execKwStart w s) := by
  unfold execKwStart
  apply outs_next
  repeat' (first
    | with_reducible assumption
    | with_reducible exact Keeps.refl _
    | with_reducible apply keeps_guardWrite
    | with_reducible apply keeps_kwCtrl
    | fail_if_no_progress (with_reducible apply keeps_mk <;> first | exact .inl Fact.out | with_reducible exact .inr rfl | with_reducible rfl | skip)
    | with_reducible apply keeps_each
    | with_reducible apply keeps_foldl
    | split
    | intro _)

theorem keeps_execKwAbort [Fact (P .cu)] [Fact (P .fab)] [Fact (P .kw)] [Fact (P .regs)] [Fact (P .sp)] (w : Who) (s : State) : Outs P s (execKwAbort w s) := by
  unfold execKwAbort
  apply outs_next
  repeat' (first
    | with_reducible assumption
    | with_reducible exact Keeps.refl _
    | with_reducible apply keeps_guardWrite
    | with_reducible apply keeps_kwCtrl
    | fail_if_no_progress (with_reducible apply keeps_mk <;> first | exact .inl Fact.out | with_reducible exact .inr rfl | with_reducible rfl | skip)
    | with_reducible apply keeps_each
    | with_reducible apply keeps_foldl
    | split
    | intro _)

theorem keeps_execKwDinWrite [Fact (P .fab)] [Fact (P .kw)] [Fact (P .regs)] [Fact (P .sp)] (w : Who) (v : Word) (s : State) : Outs P s (execKwDinWrite w v s) := by
  unfold execKwDinWrite
  apply outs_next
  repeat' (first
    | with_reducible assumption
    | with_reducible exact Keeps.refl _
    | with_reducible apply keeps_guardWrite
    | with_reducible apply keeps_kwDin
    | fail_if_no_progress (with_reducible apply keeps_mk <;> first | exact .inl Fact.out | with_reducible exact .inr rfl | with_reducible rfl | skip)
    | with_reducible apply keeps_each
    | with_reducible apply keeps_foldl
    | split
    | intro _)

theorem keeps_execKwDoutRead [Fact (P .fab)] [Fact (P .kw)] [Fact (P .regs)] [Fact (P .sp)] (w : Who) (s : State) : Outs P s (execKwDoutRead w s) := by
  unfold execKwDoutRead
  apply outs_next
  repeat' (first
    | with_reducible assumption
    | with_reducible exact Keeps.refl _
    | with_reducible apply keeps_guardRead
    | with_reducible apply keeps_kwDout)

theorem keeps_execKeywardBlockDone [Fact (P .cu)] [Fact (P .kw)] [Fact (P .regs)]  (s : State) : Outs P s (execKeywardBlockDone s) := by
  unfold execKeywardBlockDone
  apply outs_next
  repeat' (first
    | with_reducible assumption
    | with_reducible exact Keeps.refl _
    | with_reducible apply keeps_kwBlockDone
    | fail_if_no_progress (with_reducible apply keeps_mk <;> first | exact .inl Fact.out | with_reducible exact .inr rfl | with_reducible rfl | skip)
    | with_reducible apply keeps_each
    | with_reducible apply keeps_foldl
    | split)

theorem keeps_execRngFail [Fact (P .cu)] [Fact (P .kw)] [Fact (P .regs)]  (s : State) : Outs P s (execRngFail s) := by
  unfold execRngFail
  apply outs_next
  repeat' (first
    | with_reducible assumption
    | with_reducible exact Keeps.refl _
    | with_reducible apply keeps_wr
    | with_reducible apply keeps_raise
    | with_reducible apply keeps_kwEndBad
    | with_reducible apply keeps_cuStream
    | fail_if_no_progress (with_reducible apply keeps_mk <;> first | exact .inl Fact.out | with_reducible exact .inr rfl | with_reducible rfl | skip)
    | with_reducible apply keeps_each
    | with_reducible apply keeps_foldl
    | split
    | intro _
    | (extract_lets +onlyGivenNames x; refine keeps_cut (x := x) ?_ ?_; on_goal 2 => clear_value x))

theorem keeps_execRngOkReturn [Fact (P .regs)]  (s : State) : Outs P s (execRngOkReturn s) := by
  unfold execRngOkReturn
  apply outs_next
  repeat' (first
    | with_reducible assumption
    | with_reducible exact Keeps.refl _
    | with_reducible apply keeps_raise
    | fail_if_no_progress (with_reducible apply keeps_mk <;> first | exact .inl Fact.out | with_reducible exact .inr rfl | with_reducible rfl | skip)
    | with_reducible apply keeps_each
    | with_reducible apply keeps_foldl
    | split)

theorem keeps_loadSlot [Fact (P .kw)] [Fact (P .regs)] {s₀ s : State} (n key : Nat) (wide : Bool) (hk : Keeps P s₀ s) : Keeps P s₀ (State.loadSlot s n key wide) := by
  unfold State.loadSlot
  repeat' (first
    | with_reducible assumption
    | with_reducible exact Keeps.refl _
    | with_reducible apply keeps_setBit
    | with_reducible apply keeps_putBit
    | fail_if_no_progress (with_reducible apply keeps_mk <;> first | exact .inl Fact.out | with_reducible exact .inr rfl | with_reducible rfl | skip))

theorem keeps_zeroSlot [Fact (P .kw)] [Fact (P .regs)] {s₀ s : State} (n : Nat) (hk : Keeps P s₀ s) : Keeps P s₀ (State.zeroSlot s n) := by
  unfold State.zeroSlot
  repeat' (first
    | with_reducible assumption
    | with_reducible exact Keeps.refl _
    | with_reducible apply keeps_clrBit
    | fail_if_no_progress (with_reducible apply keeps_mk <;> first | exact .inl Fact.out | with_reducible exact .inr rfl | with_reducible rfl | skip))

theorem keeps_keyCtrl [Fact (P .kw)] [Fact (P .regs)] {s₀ s : State} (m v : Nat) (hk : Keeps P s₀ s) : Keeps P s₀ (State.keyCtrl s m v) := by
  unfold State.keyCtrl
  repeat' (first
    | with_reducible assumption
    | with_reducible exact Keeps.refl _
    | with_reducible apply keeps_kwReject
    | with_reducible apply keeps_writePlain
    | with_reducible apply keeps_loadSlot
    | with_reducible apply keeps_zeroSlot
    | with_reducible apply keeps_setBit
    | fail_if_no_progress (with_reducible apply keeps_mk <;> first | exact .inl Fact.out | with_reducible exact .inr rfl | with_reducible rfl | skip)
    | with_reducible apply keeps_each
    | with_reducible apply keeps_foldl
    | split
    | intro _
    | (extract_lets +onlyGivenNames x; refine keeps_cut (x := x) ?_ ?_; on_goal 2 => clear_value x)
    | extract_lets +onlyGivenNames y)

theorem keeps_fuseProg [Fact (P .kw)] [Fact (P .regs)] {s₀ s : State} (m v : Nat) (hk : Keeps P s₀ s) : Keeps P s₀ (State.fuseProg s m v) := by
  unfold State.fuseProg
  repeat' (first
    | with_reducible assumption
    | with_reducible exact Keeps.refl _
    | with_reducible apply keeps_kwReject
    | with_reducible apply keeps_raise
    | fail_if_no_progress (with_reducible apply keeps_mk <;> first | exact .inl Fact.out | with_reducible exact .inr rfl | with_reducible rfl | skip)
    | with_reducible apply keeps_each
    | with_reducible apply keeps_foldl
    | split)

theorem keeps_kwWrite [Fact (P .cu)] [Fact (P .kw)] [Fact (P .regs)] {s₀ s : State} (off m v : Nat) (hk : Keeps P s₀ s) : Keeps P s₀ (State.kwWrite s off m v) := by
  unfold State.kwWrite
  repeat' (first
    | with_reducible assumption
    | with_reducible exact Keeps.refl _
    | with_reducible apply keeps_kwCtrl
    | with_reducible apply keeps_kwDin
    | with_reducible apply keeps_keyCtrl
    | with_reducible apply keeps_fuseProg
    | with_reducible apply keeps_kwReject
    | with_reducible apply keeps_wr
    | with_reducible apply keeps_writePlain
    | fail_if_no_progress (with_reducible apply keeps_mk <;> first | exact .inl Fact.out | with_reducible exact .inr rfl | with_reducible rfl | skip)
    | with_reducible apply keeps_each
    | with_reducible apply keeps_foldl
    | split)

theorem keeps_execKeyWrite [Fact (P .fab)] [Fact (P .kw)] [Fact (P .regs)] [Fact (P .sp)] (w : Who) (n : Fin 8) (wide : Bool) (s : State) : Outs P s (execKeyWrite w n wide s) := by
  unfold execKeyWrite
  apply outs_next
  repeat' (first
    | with_reducible assumption
    | with_reducible exact Keeps.refl _
    | with_reducible apply keeps_guardWrite
    | with_reducible apply keeps_keyCtrl
    | fail_if_no_progress (with_reducible apply keeps_mk <;> first | exact .inl Fact.out | with_reducible exact .inr rfl | with_reducible rfl | skip)
    | with_reducible apply keeps_each
    | with_reducible apply keeps_foldl
    | split
    | intro _)

theorem keeps_execKeyZero [Fact (P .fab)] [Fact (P .kw)] [Fact (P .regs)] [Fact (P .sp)] (w : Who) (n : Fin 8) (s : State) : Outs P s (execKeyZero w n s) := by
  unfold execKeyZero
  apply outs_next
  repeat' (first
    | with_reducible assumption
    | with_reducible exact Keeps.refl _
    | with_reducible apply keeps_guardWrite
    | with_reducible apply keeps_keyCtrl
    | fail_if_no_progress (with_reducible apply keeps_mk <;> first | exact .inl Fact.out | with_reducible exact .inr rfl | with_reducible rfl | skip)
    | with_reducible apply keeps_each
    | with_reducible apply keeps_foldl
    | split
    | intro _)

theorem keeps_execKeyLock [Fact (P .fab)] [Fact (P .kw)] [Fact (P .regs)] [Fact (P .sp)] (w : Who) (n : Fin 8) (s : State) : Outs P s (execKeyLock w n s) := by
  unfold execKeyLock
  apply outs_next
  repeat' (first
    | with_reducible assumption
    | with_reducible exact Keeps.refl _
    | with_reducible apply keeps_guardWrite
    | with_reducible apply keeps_keyCtrl
    | fail_if_no_progress (with_reducible apply keeps_mk <;> first | exact .inl Fact.out | with_reducible exact .inr rfl | with_reducible rfl | skip)
    | with_reducible apply keeps_each
    | with_reducible apply keeps_foldl
    | split
    | intro _)

theorem keeps_execFuseProg [Fact (P .fab)] [Fact (P .kw)] [Fact (P .regs)] [Fact (P .sp)] (w : Who) (s : State) : Outs P s (execFuseProg w s) := by
  unfold execFuseProg
  apply outs_next
  repeat' (first
    | with_reducible assumption
    | with_reducible exact Keeps.refl _
    | with_reducible apply keeps_guardWrite
    | with_reducible apply keeps_fuseProg
    | fail_if_no_progress (with_reducible apply keeps_mk <;> first | exact .inl Fact.out | with_reducible exact .inr rfl | with_reducible rfl | skip)
    | with_reducible apply keeps_each
    | with_reducible apply keeps_foldl
    | split
    | intro _)

theorem keeps_execFuseProgDone [Fact (P .kw)] [Fact (P .regs)]  (s : State) : Outs P s (execFuseProgDone s) := by
  unfold execFuseProgDone
  apply outs_next
  repeat' (first
    | with_reducible assumption
    | with_reducible exact Keeps.refl _
    | with_reducible apply keeps_wr
    | with_reducible apply keeps_raise
    | fail_if_no_progress (with_reducible apply keeps_mk <;> first | exact .inl Fact.out | with_reducible exact .inr rfl | with_reducible rfl | skip)
    | with_reducible apply keeps_each
    | with_reducible apply keeps_foldl
    | split)

theorem keeps_zeroise [Fact (P .kw)] [Fact (P .regs)] {s₀ s : State}  (hk : Keeps P s₀ s) : Keeps P s₀ (State.zeroise s) := by
  unfold State.zeroise
  repeat' (first
    | with_reducible assumption
    | with_reducible exact Keeps.refl _
    | with_reducible apply keeps_each
    | with_reducible apply keeps_zeroSlot
    | with_reducible apply keeps_wr
    | fail_if_no_progress (with_reducible apply keeps_mk <;> first | exact .inl Fact.out | with_reducible exact .inr rfl | with_reducible rfl | skip)
    | with_reducible apply keeps_each
    | with_reducible apply keeps_foldl
    | split
    | intro _)

theorem keeps_haspRise [Fact (P .cu)] [Fact (P .kw)] [Fact (P .regs)] {s₀ s : State}  (hk : Keeps P s₀ s) : Keeps P s₀ (State.haspRise s) := by
  unfold State.haspRise
  repeat' (first
    | with_reducible assumption
    | with_reducible exact Keeps.refl _
    | with_reducible apply keeps_kwEndBad
    | with_reducible apply keeps_cuStream
    | with_reducible apply keeps_wr
    | with_reducible apply keeps_raise
    | with_reducible apply keeps_zeroise
    | fail_if_no_progress (with_reducible apply keeps_mk <;> first | exact .inl Fact.out | with_reducible exact .inr rfl | with_reducible rfl | skip)
    | with_reducible apply keeps_each
    | with_reducible apply keeps_foldl
    | split)

theorem keeps_execHaspReqRise [Fact (P .cu)] [Fact (P .kw)] [Fact (P .regs)]  (s : State) : Outs P s (execHaspReqRise s) := by
  unfold execHaspReqRise
  apply outs_next
  repeat' (first
    | with_reducible assumption
    | with_reducible exact Keeps.refl _
    | with_reducible apply keeps_haspRise
    | fail_if_no_progress (with_reducible apply keeps_mk <;> first | exact .inl Fact.out | with_reducible exact .inr rfl | with_reducible rfl | skip)
    | with_reducible apply keeps_each
    | with_reducible apply keeps_foldl
    | split
    | intro _
    | (extract_lets +onlyGivenNames x; refine keeps_cut (x := x) ?_ ?_; on_goal 2 => clear_value x)
    | extract_lets +onlyGivenNames y)

theorem keeps_execHaspGrant [Fact (P .kw)] [Fact (P .regs)]  (s : State) : Outs P s (execHaspGrant s) := by
  unfold execHaspGrant
  apply outs_next
  repeat' (first
    | with_reducible assumption
    | with_reducible exact Keeps.refl _
    | with_reducible apply keeps_zeroise
    | with_reducible apply keeps_raise
    | with_reducible apply keeps_bump
    | fail_if_no_progress (with_reducible apply keeps_mk <;> first | exact .inl Fact.out | with_reducible exact .inr rfl | with_reducible rfl | skip)
    | with_reducible apply keeps_each
    | with_reducible apply keeps_foldl
    | split)

theorem keeps_execHaspReqFall [Fact (P .kw)] [Fact (P .regs)]  (s : State) : Outs P s (execHaspReqFall s) := by
  unfold execHaspReqFall
  apply outs_next
  repeat' (first
    | with_reducible assumption
    | with_reducible exact Keeps.refl _
    | with_reducible apply keeps_wr
    | with_reducible apply keeps_raise
    | fail_if_no_progress (with_reducible apply keeps_mk <;> first | exact .inl Fact.out | with_reducible exact .inr rfl | with_reducible rfl | skip)
    | with_reducible apply keeps_each
    | with_reducible apply keeps_foldl
    | split
    | intro _
    | (extract_lets +onlyGivenNames x; refine keeps_cut (x := x) ?_ ?_; on_goal 2 => clear_value x)
    | extract_lets +onlyGivenNames y)

end Sys2Proof.Laws
end

