-- ==== Sys2Proof/Laws/KeepsNyelle.lean ====
section
/-! SUPPORT. What the operations of Nyelle.lean keep. -/

namespace Sys2Proof.Laws

open Sys2Proof.Machine

set_option Elab.async false

variable {P : Part → Prop}

theorem keeps_nyReset [Fact (P .hub)] [Fact (P .kw)] [Fact (P .latch)] [Fact (P .ny)] [Fact (P .regs)] [Fact (P .sram)] [Fact (P .transit)] {s₀ s : State} (cause pc : Nat) (b : Boot) (hk : Keeps P s₀ s) : Keeps P s₀ (State.nyReset s cause pc b) := by
  unfold State.nyReset
  repeat' (first
    | with_reducible assumption
    | with_reducible exact Keeps.refl _
    | with_reducible apply keeps_wr
    | with_reducible apply keeps_postHw
    | with_reducible apply keeps_raise
    | with_reducible apply keeps_failTransit
    | with_reducible apply keeps_unclaim
    | with_reducible apply keeps_updEnd
    | with_reducible apply keeps_bootSelect
    | fail_if_no_progress (with_reducible apply keeps_mk <;> first | exact .inl Fact.out | with_reducible exact .inr rfl | with_reducible rfl | skip)
    | with_reducible apply keeps_each
    | with_reducible apply keeps_foldl
    | split)

theorem keeps_nyCtrl [Fact (P .ny)] [Fact (P .regs)] {s₀ s : State} (v : Nat) (hk : Keeps P s₀ s) : Keeps P s₀ (State.nyCtrl s v) := by
  unfold State.nyCtrl
  repeat' (first
    | with_reducible assumption
    | with_reducible exact Keeps.refl _
    | with_reducible apply keeps_writePlain
    | with_reducible apply keeps_wdtRestart
    | fail_if_no_progress (with_reducible apply keeps_mk <;> first | exact .inl Fact.out | with_reducible exact .inr rfl | with_reducible rfl | skip)
    | with_reducible apply keeps_each
    | with_reducible apply keeps_foldl
    | split
    | intro _
    | (extract_lets +onlyGivenNames x; refine keeps_cut (x := x) ?_ ?_; on_goal 2 => clear_value x)
    | extract_lets +onlyGivenNames y)

theorem keeps_coreRst [Fact (P .hub)] [Fact (P .kw)] [Fact (P .latch)] [Fact (P .ny)] [Fact (P .regs)] [Fact (P .sram)] [Fact (P .transit)] {s₀ s : State} (v pc : Nat) (b : Boot) (hk : Keeps P s₀ s) : Keeps P s₀ (State.coreRst s v pc b) := by
  unfold State.coreRst
  repeat' (first
    | with_reducible assumption
    | with_reducible exact Keeps.refl _
    | with_reducible apply keeps_nyCtrl
    | with_reducible apply keeps_nyReset)

theorem keeps_execCoreRst [Fact (P .fab)] [Fact (P .hub)] [Fact (P .kw)] [Fact (P .latch)] [Fact (P .ny)] [Fact (P .regs)] [Fact (P .sp)] [Fact (P .sram)] [Fact (P .transit)] (w : Who) (v pc : Word) (b : Boot) (s : State) : Outs P s (execCoreRst w v pc b s) := by
  unfold execCoreRst
  apply outs_next
  repeat' (first
    | with_reducible assumption
    | with_reducible exact Keeps.refl _
    | with_reducible apply keeps_guardWrite
    | with_reducible apply keeps_coreRst
    | with_reducible apply keeps_nyCtrl
    | fail_if_no_progress (with_reducible apply keeps_mk <;> first | exact .inl Fact.out | with_reducible exact .inr rfl | with_reducible rfl | skip)
    | with_reducible apply keeps_each
    | with_reducible apply keeps_foldl
    | split
    | intro _)

theorem keeps_execWatchdogExpiry [Fact (P .hub)] [Fact (P .kw)] [Fact (P .latch)] [Fact (P .ny)] [Fact (P .regs)] [Fact (P .sram)] [Fact (P .tm)] [Fact (P .transit)] (pc : Word) (b : Boot) (s : State) : Outs P s (execWatchdogExpiry pc b s) := by
  unfold execWatchdogExpiry
  apply outs_next
  repeat' (first
    | with_reducible assumption
    | with_reducible exact Keeps.refl _
    | with_reducible apply keeps_advanceMg
    | with_reducible apply keeps_nyReset
    | fail_if_no_progress (with_reducible apply keeps_mk <;> first | exact .inl Fact.out | with_reducible exact .inr rfl | with_reducible rfl | skip)
    | with_reducible apply keeps_each
    | with_reducible apply keeps_foldl
    | split)

theorem keeps_execWdtKick [Fact (P .fab)] [Fact (P .ny)] [Fact (P .regs)] [Fact (P .sp)] (w : Who) (s : State) : Outs P s (execWdtKick w s) := by
  unfold execWdtKick
  apply outs_next
  repeat' (first
    | with_reducible assumption
    | with_reducible exact Keeps.refl _
    | with_reducible apply keeps_guardWrite
    | with_reducible apply keeps_wdtRestart)

theorem keeps_execSramEccError [Fact (P .hub)] [Fact (P .kw)] [Fact (P .latch)] [Fact (P .md)] [Fact (P .ny)] [Fact (P .regs)] [Fact (P .sp)] [Fact (P .sram)] [Fact (P .transit)] (unc : Bool) (which : Fin 3) (addr : Word) (acc : EccAccess) (pc : Word) (b : Boot) (s : State) : Outs P s (execSramEccError unc which addr acc pc b s) := by
  unfold execSramEccError
  apply outs_next
  repeat' (first
    | with_reducible assumption
    | with_reducible exact Keeps.refl _
    | with_reducible apply keeps_bump
    | with_reducible apply keeps_wr
    | with_reducible apply keeps_raise
    | with_reducible apply keeps_postHw
    | with_reducible apply keeps_nyReset
    | with_reducible apply keeps_declined
    | with_reducible apply keeps_setMd
    | fail_if_no_progress (with_reducible apply keeps_mk <;> first | exact .inl Fact.out | with_reducible exact .inr rfl | with_reducible rfl | skip)
    | with_reducible apply keeps_each
    | with_reducible apply keeps_foldl
    | split
    | intro _
    | (extract_lets +onlyGivenNames x; refine keeps_cut (x := x) ?_ ?_; on_goal 2 => clear_value x))

theorem keeps_execMachineTimer [Fact (P .ny)] [Fact (P .regs)] [Fact (P .tm)]  (s : State) : Outs P s (execMachineTimer s) := by
  unfold execMachineTimer
  apply outs_next
  repeat' (first
    | with_reducible assumption
    | with_reducible exact Keeps.refl _
    | with_reducible apply keeps_advance
    | fail_if_no_progress (with_reducible apply keeps_mk <;> first | exact .inl Fact.out | with_reducible exact .inr rfl | with_reducible rfl | skip)
    | with_reducible apply keeps_each
    | with_reducible apply keeps_foldl
    | split)

theorem keeps_thermLevel [Fact (P .ny)] [Fact (P .regs)] {s₀ s : State}  (hk : Keeps P s₀ s) : Keeps P s₀ (State.thermLevel s) := by
  unfold State.thermLevel
  repeat' (first
    | with_reducible assumption
    | with_reducible exact Keeps.refl _
    | with_reducible apply keeps_wr
    | with_reducible apply keeps_each
    | with_reducible apply keeps_postHw
    | with_reducible apply keeps_raise
    | fail_if_no_progress (with_reducible apply keeps_mk <;> first | exact .inl Fact.out | with_reducible exact .inr rfl | with_reducible rfl | skip)
    | with_reducible apply keeps_each
    | with_reducible apply keeps_foldl
    | split
    | intro _
    | (extract_lets +onlyGivenNames x; refine keeps_cut (x := x) ?_ ?_; on_goal 2 => clear_value x)
    | extract_lets +onlyGivenNames y)

theorem keeps_thermRead [Fact (P .ny)] [Fact (P .regs)] {s₀ s : State} (r : List (BitVec 12)) (hk : Keeps P s₀ s) : Keeps P s₀ (State.thermRead s r) := by
  unfold State.thermRead
  repeat' (first
    | with_reducible assumption
    | with_reducible exact Keeps.refl _
    | with_reducible apply keeps_each
    | with_reducible apply keeps_wr
    | with_reducible apply keeps_thermLevel
    | fail_if_no_progress (with_reducible apply keeps_mk <;> first | exact .inl Fact.out | with_reducible exact .inr rfl | with_reducible rfl | skip)
    | with_reducible apply keeps_each
    | with_reducible apply keeps_foldl
    | split
    | intro _)

theorem keeps_droopSample [Fact (P .ny)] [Fact (P .regs)] {s₀ s : State} (i mv : Nat) (hk : Keeps P s₀ s) : Keeps P s₀ (State.droopSample s i mv) := by
  unfold State.droopSample
  repeat' (first
    | with_reducible assumption
    | with_reducible exact Keeps.refl _
    | with_reducible apply keeps_wr
    | fail_if_no_progress (with_reducible apply keeps_mk <;> first | exact .inl Fact.out | with_reducible exact .inr rfl | with_reducible rfl | skip))

theorem keeps_execDroopEpisode [Fact (P .ny)] [Fact (P .regs)] (i : Fin 12) (mv : BitVec 12) (s : State) : Outs P s (execDroopEpisode i mv s) := by
  unfold execDroopEpisode
  apply outs_next
  repeat' (first
    | with_reducible assumption
    | with_reducible exact Keeps.refl _
    | with_reducible apply keeps_droopSample
    | with_reducible apply keeps_bump
    | with_reducible apply keeps_raise
    | with_reducible apply keeps_postHw
    | fail_if_no_progress (with_reducible apply keeps_mk <;> first | exact .inl Fact.out | with_reducible exact .inr rfl | with_reducible rfl | skip)
    | with_reducible apply keeps_each
    | with_reducible apply keeps_foldl
    | split
    | intro _
    | (extract_lets +onlyGivenNames x; refine keeps_cut (x := x) ?_ ?_; on_goal 2 => clear_value x)
    | extract_lets +onlyGivenNames y)

theorem keeps_clkFlag [Fact (P .ny)] [Fact (P .regs)] [Fact (P .sv)] {s₀ s : State} (k bit : Nat) (hk : Keeps P s₀ s) : Keeps P s₀ (State.clkFlag s k bit) := by
  unfold State.clkFlag
  repeat' (first
    | with_reducible assumption
    | with_reducible exact Keeps.refl _
    | with_reducible apply keeps_raise
    | with_reducible apply keeps_postHw
    | with_reducible apply keeps_sliceFault
    | fail_if_no_progress (with_reducible apply keeps_mk <;> first | exact .inl Fact.out | with_reducible exact .inr rfl | with_reducible rfl | skip)
    | with_reducible apply keeps_each
    | with_reducible apply keeps_foldl
    | split)

theorem keeps_clkWindow [Fact (P .chs)] [Fact (P .ny)] [Fact (P .regs)] [Fact (P .rxs)] [Fact (P .sv)] [Fact (P .sys)] [Fact (P .tm)] {s₀ s : State} (k : Nat) (f : Nat) (edges : Bool) (hk : Keeps P s₀ s) : Keeps P s₀ (State.clkWindow s k f edges) := by
  unfold State.clkWindow
  repeat' (first
    | with_reducible assumption
    | with_reducible exact Keeps.refl _
    | with_reducible apply keeps_wr
    | with_reducible apply keeps_raise
    | with_reducible apply keeps_clkFlag
    | with_reducible apply keeps_refreshRun
    | fail_if_no_progress (with_reducible apply keeps_mk <;> first | exact .inl Fact.out | with_reducible exact .inr rfl | with_reducible rfl | skip)
    | with_reducible apply keeps_each
    | with_reducible apply keeps_foldl
    | split
    | intro _
    | (extract_lets +onlyGivenNames x; refine keeps_cut (x := x) ?_ ?_; on_goal 2 => clear_value x)
    | extract_lets +onlyGivenNames y)

theorem keeps_eyeLatch [Fact (P .ny)] [Fact (P .regs)] {s₀ s : State}  (hk : Keeps P s₀ s) : Keeps P s₀ (State.eyeLatch s) := by
  unfold State.eyeLatch
  repeat' (first
    | with_reducible assumption
    | with_reducible exact Keeps.refl _
    | with_reducible apply keeps_each
    | with_reducible apply keeps_wr
    | with_reducible apply keeps_raise
    | fail_if_no_progress (with_reducible apply keeps_mk <;> first | exact .inl Fact.out | with_reducible exact .inr rfl | with_reducible rfl | skip)
    | with_reducible apply keeps_each
    | with_reducible apply keeps_foldl
    | split
    | intro _
    | (extract_lets +onlyGivenNames x; refine keeps_cut (x := x) ?_ ?_; on_goal 2 => clear_value x)
    | extract_lets +onlyGivenNames y)

theorem keeps_eyeCount [Fact (P .ny)] {s₀ s : State} (i n : Nat) (hk : Keeps P s₀ s) : Keeps P s₀ (State.eyeCount s i n) := by
  unfold State.eyeCount
  repeat' (first
    | with_reducible assumption
    | with_reducible exact Keeps.refl _
    | fail_if_no_progress (with_reducible apply keeps_mk <;> first | exact .inl Fact.out | with_reducible exact .inr rfl | with_reducible rfl | skip))

theorem keeps_logLose [Fact (P .regs)] {s₀ s : State}  (hk : Keeps P s₀ s) : Keeps P s₀ (State.logLose s) := by
  unfold State.logLose
  repeat' (first
    | with_reducible assumption
    | with_reducible exact Keeps.refl _
    | with_reducible apply keeps_bump
    | with_reducible apply keeps_wr
    | fail_if_no_progress (with_reducible apply keeps_mk <;> first | exact .inl Fact.out | with_reducible exact .inr rfl | with_reducible rfl | skip)
    | with_reducible apply keeps_each
    | with_reducible apply keeps_foldl
    | split
    | intro _
    | (extract_lets +onlyGivenNames x; refine keeps_cut (x := x) ?_ ?_; on_goal 2 => clear_value x))

theorem keeps_logWrite [Fact (P .ny)] [Fact (P .regs)] {s₀ s : State} (p : LogPost) (hk : Keeps P s₀ s) : Keeps P s₀ (State.logWrite s p) := by
  unfold State.logWrite
  repeat' (first
    | with_reducible assumption
    | with_reducible exact Keeps.refl _
    | with_reducible apply keeps_logLose
    | with_reducible apply keeps_wr
    | with_reducible apply keeps_raise
    | fail_if_no_progress (with_reducible apply keeps_mk <;> first | exact .inl Fact.out | with_reducible exact .inr rfl | with_reducible rfl | skip)
    | with_reducible apply keeps_each
    | with_reducible apply keeps_foldl
    | split
    | intro _
    | (extract_lets +onlyGivenNames x; refine keeps_cut (x := x) ?_ ?_; on_goal 2 => clear_value x)
    | extract_lets +onlyGivenNames y)

theorem keeps_execLogStore [Fact (P .ny)] [Fact (P .regs)]  (s : State) : Outs P s (execLogStore s) := by
  unfold execLogStore
  apply outs_next
  repeat' (first
    | with_reducible assumption
    | with_reducible exact Keeps.refl _
    | with_reducible apply keeps_logWrite
    | fail_if_no_progress (with_reducible apply keeps_mk <;> first | exact .inl Fact.out | with_reducible exact .inr rfl | with_reducible rfl | skip)
    | with_reducible apply keeps_each
    | with_reducible apply keeps_foldl
    | split)

theorem keeps_logFw [Fact (P .ny)] [Fact (P .regs)] {s₀ s : State} (m v : Nat) (hk : Keeps P s₀ s) : Keeps P s₀ (State.logFw s m v) := by
  unfold State.logFw
  repeat' (first
    | with_reducible assumption
    | with_reducible exact Keeps.refl _
    | with_reducible apply keeps_writePlain
    | fail_if_no_progress (with_reducible apply keeps_mk <;> first | exact .inl Fact.out | with_reducible exact .inr rfl | with_reducible rfl | skip)
    | with_reducible apply keeps_each
    | with_reducible apply keeps_foldl
    | split)

theorem keeps_logHost [Fact (P .ny)] [Fact (P .regs)] {s₀ s : State} (m v : Nat) (hk : Keeps P s₀ s) : Keeps P s₀ (State.logHost s m v) := by
  unfold State.logHost
  repeat' (first
    | with_reducible assumption
    | with_reducible exact Keeps.refl _
    | with_reducible apply keeps_writePlain
    | fail_if_no_progress (with_reducible apply keeps_mk <;> first | exact .inl Fact.out | with_reducible exact .inr rfl | with_reducible rfl | skip)
    | with_reducible apply keeps_each
    | with_reducible apply keeps_foldl
    | split)

theorem keeps_logPersist [Fact (P .regs)] {s₀ s : State} (v : Nat) (hk : Keeps P s₀ s) : Keeps P s₀ (State.logPersist s v) := by
  unfold State.logPersist
  repeat' (first
    | with_reducible assumption
    | with_reducible exact Keeps.refl _
    | with_reducible apply keeps_wr
    | with_reducible apply keeps_bump
    | fail_if_no_progress (with_reducible apply keeps_mk <;> first | exact .inl Fact.out | with_reducible exact .inr rfl | with_reducible rfl | skip)
    | with_reducible apply keeps_each
    | with_reducible apply keeps_foldl
    | split)

theorem keeps_logSeq [Fact (P .regs)] {s₀ s : State} (v : Nat) (hk : Keeps P s₀ s) : Keeps P s₀ (State.logSeq s v) := by
  unfold State.logSeq
  repeat' (first
    | with_reducible assumption
    | with_reducible exact Keeps.refl _
    | with_reducible apply keeps_wr
    | with_reducible apply keeps_bump
    | fail_if_no_progress (with_reducible apply keeps_mk <;> first | exact .inl Fact.out | with_reducible exact .inr rfl | with_reducible rfl | skip)
    | with_reducible apply keeps_each
    | with_reducible apply keeps_foldl
    | split)

theorem keeps_execLogPostFw [Fact (P .fab)] [Fact (P .ny)] [Fact (P .regs)] [Fact (P .sp)] (w : Who) (code : BitVec 16) (sev : BitVec 2) (s : State) : Outs P s (execLogPostFw w code sev s) := by
  unfold execLogPostFw
  apply outs_next
  repeat' (first
    | with_reducible assumption
    | with_reducible exact Keeps.refl _
    | with_reducible apply keeps_guardWrite
    | with_reducible apply keeps_logFw
    | fail_if_no_progress (with_reducible apply keeps_mk <;> first | exact .inl Fact.out | with_reducible exact .inr rfl | with_reducible rfl | skip)
    | with_reducible apply keeps_each
    | with_reducible apply keeps_foldl
    | split
    | intro _)

theorem keeps_execLogPostHost [Fact (P .fab)] [Fact (P .ny)] [Fact (P .regs)] [Fact (P .sp)] (w : Who) (code : BitVec 16) (sev : BitVec 2) (s : State) : Outs P s (execLogPostHost w code sev s) := by
  unfold execLogPostHost
  apply outs_next
  repeat' (first
    | with_reducible assumption
    | with_reducible exact Keeps.refl _
    | with_reducible apply keeps_guardWrite
    | with_reducible apply keeps_logHost
    | fail_if_no_progress (with_reducible apply keeps_mk <;> first | exact .inl Fact.out | with_reducible exact .inr rfl | with_reducible rfl | skip)
    | with_reducible apply keeps_each
    | with_reducible apply keeps_foldl
    | split
    | intro _)

theorem keeps_execLogPersistWrite [Fact (P .fab)] [Fact (P .regs)] [Fact (P .sp)] (w : Who) (v : Word) (s : State) : Outs P s (execLogPersistWrite w v s) := by
  unfold execLogPersistWrite
  apply outs_next
  repeat' (first
    | with_reducible assumption
    | with_reducible exact Keeps.refl _
    | with_reducible apply keeps_guardWrite
    | with_reducible apply keeps_logPersist
    | fail_if_no_progress (with_reducible apply keeps_mk <;> first | exact .inl Fact.out | with_reducible exact .inr rfl | with_reducible rfl | skip)
    | with_reducible apply keeps_each
    | with_reducible apply keeps_foldl
    | split
    | intro _)

theorem keeps_execLogSeqWrite [Fact (P .fab)] [Fact (P .regs)] [Fact (P .sp)] (w : Who) (v : Word) (s : State) : Outs P s (execLogSeqWrite w v s) := by
  unfold execLogSeqWrite
  apply outs_next
  repeat' (first
    | with_reducible assumption
    | with_reducible exact Keeps.refl _
    | with_reducible apply keeps_guardWrite
    | with_reducible apply keeps_logSeq
    | fail_if_no_progress (with_reducible apply keeps_mk <;> first | exact .inl Fact.out | with_reducible exact .inr rfl | with_reducible rfl | skip)
    | with_reducible apply keeps_each
    | with_reducible apply keeps_foldl
    | split
    | intro _)

theorem keeps_pcCopy [Fact (P .ny)] [Fact (P .regs)] {s₀ s : State} (now left : List Nat) (hk : Keeps P s₀ s) : Keeps P s₀ (State.pcCopy s now left) := by
  unfold State.pcCopy
  repeat' (first
    | with_reducible assumption
    | with_reducible exact Keeps.refl _
    | with_reducible apply keeps_each
    | with_reducible apply keeps_wr
    | with_reducible apply keeps_put
    | fail_if_no_progress (with_reducible apply keeps_mk <;> first | exact .inl Fact.out | with_reducible exact .inr rfl | with_reducible rfl | skip)
    | with_reducible apply keeps_each
    | with_reducible apply keeps_foldl
    | split
    | intro _)

theorem keeps_pcSnap [Fact (P .ny)] [Fact (P .regs)] {s₀ s : State}  (hk : Keeps P s₀ s) : Keeps P s₀ (State.pcSnap s) := by
  unfold State.pcSnap
  repeat' (first
    | with_reducible assumption
    | with_reducible exact Keeps.refl _
    | with_reducible apply keeps_pcCopy)

theorem keeps_pcCatchUp [Fact (P .ny)] [Fact (P .regs)] {s₀ s : State}  (hk : Keeps P s₀ s) : Keeps P s₀ (State.pcCatchUp s) := by
  unfold State.pcCatchUp
  repeat' (first
    | with_reducible assumption
    | with_reducible exact Keeps.refl _
    | with_reducible apply keeps_pcCopy
    | fail_if_no_progress (with_reducible apply keeps_mk <;> first | exact .inl Fact.out | with_reducible exact .inr rfl | with_reducible rfl | skip)
    | with_reducible apply keeps_each
    | with_reducible apply keeps_foldl
    | split)

theorem keeps_coreCounts [Fact (P .free)] [Fact (P .regs)] {s₀ s : State}  (hk : Keeps P s₀ s) : Keeps P s₀ (State.coreCounts s) := by
  unfold State.coreCounts
  repeat' (first
    | with_reducible assumption
    | with_reducible exact Keeps.refl _
    | with_reducible apply keeps_pcEvent
    | with_reducible apply keeps_draw
    | with_reducible refine keeps_draw_eq (by assumption) ?_
    | fail_if_no_progress (with_reducible apply keeps_mk <;> first | exact .inl Fact.out | with_reducible exact .inr rfl | with_reducible rfl | skip)
    | with_reducible apply keeps_each
    | with_reducible apply keeps_foldl
    | split)

theorem keeps_pcClear [Fact (P .regs)] {s₀ s : State}  (hk : Keeps P s₀ s) : Keeps P s₀ (State.pcClear s) := by
  unfold State.pcClear
  repeat' (first
    | with_reducible assumption
    | with_reducible exact Keeps.refl _
    | with_reducible apply keeps_each
    | with_reducible apply keeps_wr
    | fail_if_no_progress (with_reducible apply keeps_mk <;> first | exact .inl Fact.out | with_reducible exact .inr rfl | with_reducible rfl | skip)
    | with_reducible apply keeps_each
    | with_reducible apply keeps_foldl
    | split
    | intro _)

theorem keeps_pcExport [Fact (P .fab)] [Fact (P .ny)] [Fact (P .regs)] {s₀ s : State}  (hk : Keeps P s₀ s) : Keeps P s₀ (State.pcExport s) := by
  unfold State.pcExport
  repeat' (first
    | with_reducible assumption
    | with_reducible exact Keeps.refl _
    | with_reducible apply keeps_bump
    | with_reducible apply keeps_raise
    | with_reducible apply keeps_bgBegin
    | with_reducible apply keeps_hostWrite
    | fail_if_no_progress (with_reducible apply keeps_mk <;> first | exact .inl Fact.out | with_reducible exact .inr rfl | with_reducible rfl | skip)
    | with_reducible apply keeps_each
    | with_reducible apply keeps_foldl
    | split)

theorem keeps_pcCtrl [Fact (P .fab)] [Fact (P .free)] [Fact (P .ny)] [Fact (P .regs)] {s₀ s : State} (v : Nat) (hk : Keeps P s₀ s) : Keeps P s₀ (State.pcCtrl s v) := by
  unfold State.pcCtrl
  repeat' (first
    | with_reducible assumption
    | with_reducible exact Keeps.refl _
    | with_reducible apply keeps_settleBeats
    | with_reducible apply keeps_coreCounts
    | with_reducible apply keeps_wr
    | with_reducible apply keeps_bump
    | with_reducible apply keeps_pcSnap
    | with_reducible apply keeps_pcClear
    | with_reducible apply keeps_pcExport
    | fail_if_no_progress (with_reducible apply keeps_mk <;> first | exact .inl Fact.out | with_reducible exact .inr rfl | with_reducible rfl | skip)
    | with_reducible apply keeps_each
    | with_reducible apply keeps_foldl
    | split
    | intro _
    | (extract_lets +onlyGivenNames x; refine keeps_cut (x := x) ?_ ?_; on_goal 2 => clear_value x))

theorem keeps_execPcFreeze [Fact (P .fab)] [Fact (P .free)] [Fact (P .ny)] [Fact (P .regs)] [Fact (P .sp)] (w : Who) (on : Bool) (s : State) : Outs P s (execPcFreeze w on s) := by
  unfold execPcFreeze
  apply outs_next
  repeat' (first
    | with_reducible assumption
    | with_reducible exact Keeps.refl _
    | with_reducible apply keeps_guardWrite
    | with_reducible apply keeps_pcCtrl
    | fail_if_no_progress (with_reducible apply keeps_mk <;> first | exact .inl Fact.out | with_reducible exact .inr rfl | with_reducible rfl | skip)
    | with_reducible apply keeps_each
    | with_reducible apply keeps_foldl
    | split
    | intro _)

theorem keeps_execPcSnap [Fact (P .fab)] [Fact (P .free)] [Fact (P .ny)] [Fact (P .regs)] [Fact (P .sp)] (w : Who) (frz : Bool) (s : State) : Outs P s (execPcSnap w frz s) := by
  unfold execPcSnap
  apply outs_next
  repeat' (first
    | with_reducible assumption
    | with_reducible exact Keeps.refl _
    | with_reducible apply keeps_guardWrite
    | with_reducible apply keeps_pcCtrl
    | fail_if_no_progress (with_reducible apply keeps_mk <;> first | exact .inl Fact.out | with_reducible exact .inr rfl | with_reducible rfl | skip)
    | with_reducible apply keeps_each
    | with_reducible apply keeps_foldl
    | split
    | intro _)

theorem keeps_execPcClear [Fact (P .fab)] [Fact (P .free)] [Fact (P .ny)] [Fact (P .regs)] [Fact (P .sp)] (w : Who) (frz : Bool) (s : State) : Outs P s (execPcClear w frz s) := by
  unfold execPcClear
  apply outs_next
  repeat' (first
    | with_reducible assumption
    | with_reducible exact Keeps.refl _
    | with_reducible apply keeps_guardWrite
    | with_reducible apply keeps_pcCtrl
    | fail_if_no_progress (with_reducible apply keeps_mk <;> first | exact .inl Fact.out | with_reducible exact .inr rfl | with_reducible rfl | skip)
    | with_reducible apply keeps_each
    | with_reducible apply keeps_foldl
    | split
    | intro _)

theorem keeps_execPcExport [Fact (P .fab)] [Fact (P .free)] [Fact (P .ny)] [Fact (P .regs)] [Fact (P .sp)] (w : Who) (frz : Bool) (s : State) : Outs P s (execPcExport w frz s) := by
  unfold execPcExport
  apply outs_next
  repeat' (first
    | with_reducible assumption
    | with_reducible exact Keeps.refl _
    | with_reducible apply keeps_guardWrite
    | with_reducible apply keeps_pcCtrl
    | fail_if_no_progress (with_reducible apply keeps_mk <;> first | exact .inl Fact.out | with_reducible exact .inr rfl | with_reducible rfl | skip)
    | with_reducible apply keeps_each
    | with_reducible apply keeps_foldl
    | split
    | intro _)

theorem keeps_execPcExportResponse [Fact (P .fab)] [Fact (P .ny)] [Fact (P .regs)] [Fact (P .sp)]  (s : State) : Outs P s (execPcExportResponse s) := by
  unfold execPcExportResponse
  apply outs_next
  repeat' (first
    | with_reducible assumption
    | with_reducible exact Keeps.refl _
    | with_reducible apply keeps_pcExport
    | with_reducible apply keeps_okay
    | with_reducible apply keeps_raise
    | with_reducible apply keeps_wr
    | with_reducible apply keeps_bgDone
    | with_reducible refine keeps_response (by assumption) ?_
    | fail_if_no_progress (with_reducible apply keeps_mk <;> first | exact .inl Fact.out | with_reducible exact .inr rfl | with_reducible rfl | skip)
    | with_reducible apply keeps_each
    | with_reducible apply keeps_foldl
    | split
    | intro _
    | (extract_lets +onlyGivenNames x; refine keeps_cut (x := x) ?_ ?_; on_goal 2 => clear_value x)
    | extract_lets +onlyGivenNames y
    | dsimp +zetaDelta only)

theorem keeps_execBgDeadlineMiss [Fact (P .ny)] [Fact (P .regs)] [Fact (P .tm)] (a : Fin 8) (n : Nat) (s : State) : Outs P s (execBgDeadlineMiss a n s) := by
  unfold execBgDeadlineMiss
  apply outs_next
  repeat' (first
    | with_reducible assumption
    | with_reducible exact Keeps.refl _
    | with_reducible apply keeps_advanceTo
    | with_reducible apply keeps_raise
    | with_reducible apply keeps_bump
    | with_reducible apply keeps_postHw
    | fail_if_no_progress (with_reducible apply keeps_mk <;> first | exact .inl Fact.out | with_reducible exact .inr rfl | with_reducible rfl | skip)
    | with_reducible apply keeps_each
    | with_reducible apply keeps_foldl
    | split)

theorem keeps_nyWrite [Fact (P .fab)] [Fact (P .free)] [Fact (P .hub)] [Fact (P .kw)] [Fact (P .latch)] [Fact (P .ny)] [Fact (P .regs)] [Fact (P .sram)] [Fact (P .transit)] {s₀ s : State} (off m v : Nat) (hk : Keeps P s₀ s) : Keeps P s₀ (State.nyWrite s off m v) := by
  unfold State.nyWrite
  repeat' (first
    | with_reducible assumption
    | with_reducible exact Keeps.refl _
    | with_reducible apply keeps_coreRst
    | with_reducible apply keeps_nyCtrl
    | with_reducible apply keeps_wdtRestart
    | with_reducible apply keeps_writePlain
    | with_reducible apply keeps_logSeq
    | with_reducible apply keeps_logPersist
    | with_reducible apply keeps_logFw
    | with_reducible apply keeps_logHost
    | with_reducible apply keeps_pcCtrl
    | with_reducible apply keeps_draw
    | with_reducible refine keeps_draw_eq (by assumption) ?_
    | fail_if_no_progress (with_reducible apply keeps_mk <;> first | exact .inl Fact.out | with_reducible exact .inr rfl | with_reducible rfl | skip)
    | with_reducible apply keeps_each
    | with_reducible apply keeps_foldl
    | split)

end Sys2Proof.Laws
end

