-- ==== Sys2Proof/Laws/KeepsLedger.lean ====
section
/-! SUPPORT. What the operations of Ledger.lean keep. -/

namespace Sys2Proof.Laws

open Sys2Proof.Machine

variable {P : Part → Prop}

theorem keeps_ledAudit [Fact (P .free)] [Fact (P .led)] [Fact (P .regs)] {s₀ s : State} (code : Nat) (tx : Bool) (ctx : Nat) (hk : Keeps P s₀ s) : Keeps P s₀ (State.ledAudit s code tx ctx) := by
  unfold State.ledAudit
  repeat' (first
    | with_reducible assumption
    | with_reducible exact Keeps.refl _
    | with_reducible apply keeps_wr
    | with_reducible apply keeps_put
    | with_reducible apply keeps_raise
    | with_reducible apply keeps_draw
    | with_reducible refine keeps_draw_eq (by assumption) ?_
    | fail_if_no_progress (with_reducible apply keeps_mk <;> first | exact .inl Fact.out | with_reducible exact .inr rfl | with_reducible rfl | skip)
    | with_reducible apply keeps_each
    | with_reducible apply keeps_foldl
    | split
    | intro _
    | (extract_lets +onlyGivenNames x; refine keeps_cut (x := x) ?_ ?_; on_goal 2 => clear_value x)
    | extract_lets +onlyGivenNames y)

theorem keeps_ledCheck [Fact (P .free)] [Fact (P .led)] [Fact (P .regs)] {s₀ s : State} (tx : Bool) (hk : Keeps P s₀ s) : Keeps P s₀ (State.ledCheck s tx) := by
  unfold State.ledCheck
  repeat' (first
    | with_reducible assumption
    | with_reducible exact Keeps.refl _
    | with_reducible apply keeps_ledAudit
    | fail_if_no_progress (with_reducible apply keeps_mk <;> first | exact .inl Fact.out | with_reducible exact .inr rfl | with_reducible rfl | skip)
    | with_reducible apply keeps_each
    | with_reducible apply keeps_foldl
    | split)

theorem keeps_ledLate [Fact (P .led)] [Fact (P .regs)] {s₀ s : State} (ctx : Nat) (hk : Keeps P s₀ s) : Keeps P s₀ (State.ledLate s ctx) := by
  unfold State.ledLate
  repeat' (first
    | with_reducible assumption
    | with_reducible exact Keeps.refl _
    | with_reducible apply keeps_bump
    | with_reducible apply keeps_raise
    | fail_if_no_progress (with_reducible apply keeps_mk <;> first | exact .inl Fact.out | with_reducible exact .inr rfl | with_reducible rfl | skip)
    | with_reducible apply keeps_each
    | with_reducible apply keeps_foldl
    | split
    | intro _
    | (extract_lets +onlyGivenNames x; refine keeps_cut (x := x) ?_ ?_; on_goal 2 => clear_value x))

theorem keeps_ledCount [Fact (P .led)] {s₀ s : State} (ctx : Nat) (tx : Bool) (inst i len : Nat) (hk : Keeps P s₀ s) : Keeps P s₀ (State.ledCount s ctx tx inst i len) := by
  unfold State.ledCount
  repeat' (first
    | with_reducible assumption
    | with_reducible exact Keeps.refl _
    | fail_if_no_progress (with_reducible apply keeps_mk <;> first | exact .inl Fact.out | with_reducible exact .inr rfl | with_reducible rfl | skip)
    | with_reducible apply keeps_each
    | with_reducible apply keeps_foldl
    | split)

theorem keeps_ledAccept [Fact (P .free)] [Fact (P .led)] [Fact (P .regs)] {s₀ s : State} (id ctx : Nat) (tx : Bool) (inst len colour : Nat) (hk : Keeps P s₀ s) : Keeps P s₀ (State.ledAccept s id ctx tx inst len colour) := by
  unfold State.ledAccept
  repeat' (first
    | with_reducible assumption
    | with_reducible exact Keeps.refl _
    | with_reducible apply keeps_ledCount
    | with_reducible apply keeps_ledLate
    | with_reducible apply keeps_ledAudit
    | with_reducible apply keeps_ledCheck
    | fail_if_no_progress (with_reducible apply keeps_mk <;> first | exact .inl Fact.out | with_reducible exact .inr rfl | with_reducible rfl | skip)
    | with_reducible apply keeps_each
    | with_reducible apply keeps_foldl
    | split)

theorem keeps_ledEnd [Fact (P .free)] [Fact (P .led)] [Fact (P .regs)] {s₀ s : State} (id ctx : Nat) (tx : Bool) (inst i len : Nat) (hk : Keeps P s₀ s) : Keeps P s₀ (State.ledEnd s id ctx tx inst i len) := by
  unfold State.ledEnd
  repeat' (first
    | with_reducible assumption
    | with_reducible exact Keeps.refl _
    | with_reducible apply keeps_ledCount
    | with_reducible apply keeps_ledLate
    | with_reducible apply keeps_ledAudit
    | with_reducible apply keeps_ledCheck
    | fail_if_no_progress (with_reducible apply keeps_mk <;> first | exact .inl Fact.out | with_reducible exact .inr rfl | with_reducible rfl | skip)
    | with_reducible apply keeps_each
    | with_reducible apply keeps_foldl
    | split)

theorem keeps_ledDeliver [Fact (P .free)] [Fact (P .led)] [Fact (P .regs)] {s₀ s : State} (id ctx : Nat) (tx : Bool) (inst len : Nat) (hk : Keeps P s₀ s) : Keeps P s₀ (State.ledDeliver s id ctx tx inst len) := by
  unfold State.ledDeliver
  repeat' (first
    | with_reducible assumption
    | with_reducible exact Keeps.refl _
    | with_reducible apply keeps_ledEnd)

theorem keeps_ledDrop [Fact (P .free)] [Fact (P .led)] [Fact (P .regs)] {s₀ s : State} (id ctx : Nat) (tx : Bool) (inst cause len : Nat) (hk : Keeps P s₀ s) : Keeps P s₀ (State.ledDrop s id ctx tx inst cause len) := by
  unfold State.ledDrop
  repeat' (first
    | with_reducible assumption
    | with_reducible exact Keeps.refl _
    | with_reducible apply keeps_ledEnd)

theorem keeps_ledLatch [Fact (P .free)] [Fact (P .led)] [Fact (P .regs)] {s₀ s : State} (ctx : Nat) (tx : Bool) (hk : Keeps P s₀ s) : Keeps P s₀ (State.ledLatch s ctx tx) := by
  unfold State.ledLatch
  repeat' (first
    | with_reducible assumption
    | with_reducible exact Keeps.refl _
    | with_reducible apply keeps_ledAudit
    | fail_if_no_progress (with_reducible apply keeps_mk <;> first | exact .inl Fact.out | with_reducible exact .inr rfl | with_reducible rfl | skip)
    | with_reducible apply keeps_each
    | with_reducible apply keeps_foldl
    | split
    | intro _
    | (extract_lets +onlyGivenNames x; refine keeps_cut (x := x) ?_ ?_; on_goal 2 => clear_value x)
    | extract_lets +onlyGivenNames y)

theorem keeps_slotReport [Fact (P .free)] [Fact (P .led)] [Fact (P .regs)] {s₀ s : State} (x : SlotSt) (hk : Keeps P s₀ s) : Keeps P s₀ (State.slotReport s x) := by
  unfold State.slotReport
  repeat' (first
    | with_reducible assumption
    | with_reducible exact Keeps.refl _
    | with_reducible apply keeps_ledAudit
    | fail_if_no_progress (with_reducible apply keeps_mk <;> first | exact .inl Fact.out | with_reducible exact .inr rfl | with_reducible rfl | skip)
    | with_reducible apply keeps_each
    | with_reducible apply keeps_foldl
    | split)

theorem keeps_ledClose [Fact (P .free)] [Fact (P .led)] [Fact (P .ny)] [Fact (P .regs)] {s₀ s : State}  (hk : Keeps P s₀ s) : Keeps P s₀ (State.ledClose s) := by
  unfold State.ledClose
  repeat' (first
    | with_reducible assumption
    | with_reducible exact Keeps.refl _
    | with_reducible apply keeps_each
    | with_reducible apply keeps_slotReport
    | with_reducible apply keeps_ledLatch
    | with_reducible apply keeps_wr
    | with_reducible apply keeps_raise
    | with_reducible apply keeps_bgBegin
    | fail_if_no_progress (with_reducible apply keeps_mk <;> first | exact .inl Fact.out | with_reducible exact .inr rfl | with_reducible rfl | skip)
    | with_reducible apply keeps_each
    | with_reducible apply keeps_foldl
    | split
    | intro _)

theorem keeps_refreshSlots [Fact (P .regs)] {s₀ s : State}  (hk : Keeps P s₀ s) : Keeps P s₀ (State.refreshSlots s) := by
  unfold State.refreshSlots
  repeat' (first
    | with_reducible assumption
    | with_reducible exact Keeps.refl _
    | with_reducible apply keeps_wr)

theorem keeps_ledSlot [Fact (P .led)] [Fact (P .regs)] {s₀ s : State} (ctx owner : Nat) (hk : Keeps P s₀ s) : Keeps P s₀ (State.ledSlot s ctx owner) := by
  unfold State.ledSlot
  repeat' (first
    | with_reducible assumption
    | with_reducible exact Keeps.refl _
    | with_reducible apply keeps_refreshSlots
    | fail_if_no_progress (with_reducible apply keeps_mk <;> first | exact .inl Fact.out | with_reducible exact .inr rfl | with_reducible rfl | skip))

end Sys2Proof.Laws
end

