-- ==== Sys2Proof/Laws/KeepsBuffer.lean ====
section
/-! SUPPORT. What the operations of Buffer.lean keep. -/

namespace Sys2Proof.Laws

open Sys2Proof.Machine

variable {P : Part → Prop}

theorem keeps_fbReport [Fact (P .regs)] {s₀ s : State}  (hk : Keeps P s₀ s) : Keeps P s₀ (State.fbReport s) := by
  unfold State.fbReport
  repeat' (first
    | with_reducible assumption
    | with_reducible exact Keeps.refl _
    | with_reducible apply keeps_wr)

theorem keeps_fbAudit [Fact (P .regs)] {s₀ s : State}  (hk : Keeps P s₀ s) : Keeps P s₀ (State.fbAudit s) := by
  unfold State.fbAudit
  repeat' (first
    | with_reducible assumption
    | with_reducible exact Keeps.refl _
    | with_reducible apply keeps_raise
    | with_reducible apply keeps_wr
    | fail_if_no_progress (with_reducible apply keeps_mk <;> first | exact .inl Fact.out | with_reducible exact .inr rfl | with_reducible rfl | skip)
    | with_reducible apply keeps_each
    | with_reducible apply keeps_foldl
    | split)

theorem keeps_fbSet [Fact (P .fb)] [Fact (P .regs)] {s₀ s : State} (f : FbSt) (hk : Keeps P s₀ s) : Keeps P s₀ (State.fbSet s f) := by
  unfold State.fbSet
  repeat' (first
    | with_reducible assumption
    | with_reducible exact Keeps.refl _
    | with_reducible apply keeps_fbReport
    | with_reducible apply keeps_fbAudit
    | fail_if_no_progress (with_reducible apply keeps_mk <;> first | exact .inl Fact.out | with_reducible exact .inr rfl | with_reducible rfl | skip))

theorem keeps_fcChange [Fact (P .chs)] {s₀ s : State} (c k : Nat) (off : Bool) (hk : Keeps P s₀ s) : Keeps P s₀ (State.fcChange s c k off) := by
  unfold State.fcChange
  repeat' (first
    | with_reducible assumption
    | with_reducible exact Keeps.refl _
    | with_reducible apply keeps_setCh
    | fail_if_no_progress (with_reducible apply keeps_mk <;> first | exact .inl Fact.out | with_reducible exact .inr rfl | with_reducible rfl | skip)
    | with_reducible apply keeps_each
    | with_reducible apply keeps_foldl
    | split
    | intro _
    | (extract_lets +onlyGivenNames x; refine keeps_cut (x := x) ?_ ?_; on_goal 2 => clear_value x)
    | extract_lets +onlyGivenNames y)

theorem keeps_xoffRefresh [Fact (P .chs)] [Fact (P .regs)] {s₀ s : State} (i : Nat) (hk : Keeps P s₀ s) : Keeps P s₀ (State.xoffRefresh s i) := by
  unfold State.xoffRefresh
  repeat' (first
    | with_reducible assumption
    | with_reducible exact Keeps.refl _
    | with_reducible apply keeps_putBit
    | with_reducible apply keeps_each
    | with_reducible apply keeps_fcChange
    | fail_if_no_progress (with_reducible apply keeps_mk <;> first | exact .inl Fact.out | with_reducible exact .inr rfl | with_reducible rfl | skip)
    | with_reducible apply keeps_each
    | with_reducible apply keeps_foldl
    | split
    | intro _
    | (extract_lets +onlyGivenNames x; refine keeps_cut (x := x) ?_ ?_; on_goal 2 => clear_value x)
    | extract_lets +onlyGivenNames y)

theorem keeps_fbSetUse [Fact (P .chs)] [Fact (P .fb)] [Fact (P .regs)] {s₀ s : State} (i : Nat) (x : CellSt) (free : Nat) (hk : Keeps P s₀ s) : Keeps P s₀ (State.fbSetUse s i x free) := by
  unfold State.fbSetUse
  repeat' (first
    | with_reducible assumption
    | with_reducible exact Keeps.refl _
    | with_reducible apply keeps_fbSet
    | with_reducible apply keeps_wr
    | with_reducible apply keeps_xoffRefresh)

theorem keeps_fbAdmit [Fact (P .chs)] [Fact (P .fb)] [Fact (P .regs)] {s₀ s : State} (i n : Nat) (hk : Keeps P s₀ s) : Keeps P s₀ (State.fbAdmit s i n).2 := by
  unfold State.fbAdmit
  repeat' (first
    | with_reducible assumption
    | with_reducible exact Keeps.refl _
    | with_reducible apply keeps_fbSetUse
    | with_reducible apply keeps_bump
    | with_reducible apply keeps_setBit
    | fail_if_no_progress (with_reducible apply keeps_mk <;> first | exact .inl Fact.out | with_reducible exact .inr rfl | with_reducible rfl | skip)
    | with_reducible apply keeps_each
    | with_reducible apply keeps_foldl
    | split
    | intro _
    | (extract_lets +onlyGivenNames x; refine keeps_cut (x := x) ?_ ?_; on_goal 2 => clear_value x))

theorem keeps_fbAdmit_eq [Fact (P .chs)] [Fact (P .fb)] [Fact (P .regs)] {s₀ s s₁ : State} (i n : Nat) {x₁ : Bool} (he : State.fbAdmit s i n = (x₁, s₁)) (hk : Keeps P s₀ s) : Keeps P s₀ s₁ := by
  have := keeps_fbAdmit i n hk
  rw [he] at this; exact this

theorem keeps_fbFreeRx [Fact (P .chs)] [Fact (P .fb)] [Fact (P .regs)] {s₀ s : State} (i n : Nat) (hk : Keeps P s₀ s) : Keeps P s₀ (State.fbFreeRx s i n) := by
  unfold State.fbFreeRx
  repeat' (first
    | with_reducible assumption
    | with_reducible exact Keeps.refl _
    | with_reducible apply keeps_fbSetUse)

theorem keeps_fbTakeTx [Fact (P .fb)] [Fact (P .regs)] {s₀ s : State} (n : Nat) (hk : Keeps P s₀ s) : Keeps P s₀ (State.fbTakeTx s n) := by
  unfold State.fbTakeTx
  repeat' (first
    | with_reducible assumption
    | with_reducible exact Keeps.refl _
    | with_reducible apply keeps_fbSet)

theorem keeps_fbFreeTx [Fact (P .fb)] [Fact (P .regs)] {s₀ s : State} (n : Nat) (hk : Keeps P s₀ s) : Keeps P s₀ (State.fbFreeTx s n) := by
  unfold State.fbFreeTx
  repeat' (first
    | with_reducible assumption
    | with_reducible exact Keeps.refl _
    | with_reducible apply keeps_fbSet)

theorem keeps_fbTakeHinge [Fact (P .fb)] [Fact (P .regs)] {s₀ s : State} (n : Nat) (hk : Keeps P s₀ s) : Keeps P s₀ (State.fbTakeHinge s n) := by
  unfold State.fbTakeHinge
  repeat' (first
    | with_reducible assumption
    | with_reducible exact Keeps.refl _
    | with_reducible apply keeps_fbSet)

theorem keeps_fbFreeHinge [Fact (P .fb)] [Fact (P .regs)] {s₀ s : State} (n : Nat) (hk : Keeps P s₀ s) : Keeps P s₀ (State.fbFreeHinge s n) := by
  unfold State.fbFreeHinge
  repeat' (first
    | with_reducible assumption
    | with_reducible exact Keeps.refl _
    | with_reducible apply keeps_fbSet)

theorem keeps_fbWrite [Fact (P .chs)] [Fact (P .regs)] {s₀ s : State} (off v : Nat) (hk : Keeps P s₀ s) : Keeps P s₀ (State.fbWrite s off v) := by
  unfold State.fbWrite
  repeat' (first
    | with_reducible assumption
    | with_reducible exact Keeps.refl _
    | with_reducible apply keeps_writePlain
    | with_reducible apply keeps_wr
    | with_reducible apply keeps_bump
    | with_reducible apply keeps_each
    | with_reducible apply keeps_xoffRefresh
    | with_reducible apply keeps_fbAudit
    | fail_if_no_progress (with_reducible apply keeps_mk <;> first | exact .inl Fact.out | with_reducible exact .inr rfl | with_reducible rfl | skip)
    | with_reducible apply keeps_each
    | with_reducible apply keeps_foldl
    | split
    | intro _
    | (extract_lets +onlyGivenNames x; refine keeps_cut (x := x) ?_ ?_; on_goal 2 => clear_value x))

end Sys2Proof.Laws
end

