-- ==== Sys2Proof/Laws/KeepsRingBase.lean ====
section
/-! SUPPORT. What the operations of RingBase.lean keep. -/

namespace Sys2Proof.Laws

open Sys2Proof.Machine

variable {P : Part → Prop}

theorem keeps_setCtx [Fact (P .ctxs)] {s₀ s : State} (x : Nat) (c : CtxSt) (hk : Keeps P s₀ s) : Keeps P s₀ (State.setCtx s x c) := by
  unfold State.setCtx
  repeat' (first
    | with_reducible assumption
    | with_reducible exact Keeps.refl _
    | fail_if_no_progress (with_reducible apply keeps_mk <;> first | exact .inl Fact.out | with_reducible exact .inr rfl | with_reducible rfl | skip))

theorem keeps_setQ [Fact (P .qs)] {s₀ s : State} (k : Nat) (x : QSt) (hk : Keeps P s₀ s) : Keeps P s₀ (State.setQ s k x) := by
  unfold State.setQ
  repeat' (first
    | with_reducible assumption
    | with_reducible exact Keeps.refl _
    | fail_if_no_progress (with_reducible apply keeps_mk <;> first | exact .inl Fact.out | with_reducible exact .inr rfl | with_reducible rfl | skip))

theorem keeps_setRx [Fact (P .rxs)] {s₀ s : State} (id : Nat) (f : RxFr) (hk : Keeps P s₀ s) : Keeps P s₀ (State.setRx s id f) := by
  unfold State.setRx
  repeat' (first
    | with_reducible assumption
    | with_reducible exact Keeps.refl _
    | fail_if_no_progress (with_reducible apply keeps_mk <;> first | exact .inl Fact.out | with_reducible exact .inr rfl | with_reducible rfl | skip))

theorem keeps_delRx [Fact (P .rxs)] {s₀ s : State} (id : Nat) (hk : Keeps P s₀ s) : Keeps P s₀ (State.delRx s id) := by
  unfold State.delRx
  repeat' (first
    | with_reducible assumption
    | with_reducible exact Keeps.refl _
    | fail_if_no_progress (with_reducible apply keeps_mk <;> first | exact .inl Fact.out | with_reducible exact .inr rfl | with_reducible rfl | skip))

theorem keeps_setTx [Fact (P .txs)] {s₀ s : State} (id : Nat) (f : TxFr) (hk : Keeps P s₀ s) : Keeps P s₀ (State.setTx s id f) := by
  unfold State.setTx
  repeat' (first
    | with_reducible assumption
    | with_reducible exact Keeps.refl _
    | fail_if_no_progress (with_reducible apply keeps_mk <;> first | exact .inl Fact.out | with_reducible exact .inr rfl | with_reducible rfl | skip))

theorem keeps_delTx [Fact (P .txs)] {s₀ s : State} (id : Nat) (hk : Keeps P s₀ s) : Keeps P s₀ (State.delTx s id) := by
  unfold State.delTx
  repeat' (first
    | with_reducible assumption
    | with_reducible exact Keeps.refl _
    | fail_if_no_progress (with_reducible apply keeps_mk <;> first | exact .inl Fact.out | with_reducible exact .inr rfl | with_reducible rfl | skip))

theorem keeps_countState [Fact (P .regs)] {s₀ s : State} (x : Nat) (hk : Keeps P s₀ s) : Keeps P s₀ (State.countState s x) := by
  unfold State.countState
  repeat' (first
    | with_reducible assumption
    | with_reducible exact Keeps.refl _
    | with_reducible apply keeps_bump)

theorem keeps_setVec [Fact (P .ctxs)] {s₀ s : State} (x v : Nat) (n : VecSt) (hk : Keeps P s₀ s) : Keeps P s₀ (State.setVec s x v n) := by
  unfold State.setVec
  repeat' (first
    | with_reducible assumption
    | with_reducible exact Keeps.refl _
    | with_reducible apply keeps_setCtx)

theorem keeps_vecSettle [Fact (P .ctxs)] {s₀ s : State} (x v : Nat) (hk : Keeps P s₀ s) : Keeps P s₀ (State.vecSettle s x v) := by
  unfold State.vecSettle
  repeat' (first
    | with_reducible assumption
    | with_reducible exact Keeps.refl _
    | with_reducible apply keeps_setVec
    | fail_if_no_progress (with_reducible apply keeps_mk <;> first | exact .inl Fact.out | with_reducible exact .inr rfl | with_reducible rfl | skip)
    | with_reducible apply keeps_each
    | with_reducible apply keeps_foldl
    | split
    | intro _
    | (extract_lets +onlyGivenNames x; refine keeps_cut (x := x) ?_ ?_; on_goal 2 => clear_value x)
    | extract_lets +onlyGivenNames y)

theorem keeps_vecRecall [Fact (P .ctxs)] [Fact (P .fab)] {s₀ s : State} (x v : Nat) (hk : Keeps P s₀ s) : Keeps P s₀ (State.vecRecall s x v) := by
  unfold State.vecRecall
  repeat' (first
    | with_reducible assumption
    | with_reducible exact Keeps.refl _
    | with_reducible apply keeps_vecSettle
    | with_reducible apply keeps_setVec
    | fail_if_no_progress (with_reducible apply keeps_mk <;> first | exact .inl Fact.out | with_reducible exact .inr rfl | with_reducible rfl | skip))

theorem keeps_vecCheck [Fact (P .ctxs)] [Fact (P .fab)] {s₀ s : State} (x v : Nat) (hk : Keeps P s₀ s) : Keeps P s₀ (State.vecCheck s x v) := by
  unfold State.vecCheck
  repeat' (first
    | with_reducible assumption
    | with_reducible exact Keeps.refl _
    | with_reducible apply keeps_vecSettle
    | with_reducible apply keeps_hostNotify
    | with_reducible apply keeps_setVec
    | fail_if_no_progress (with_reducible apply keeps_mk <;> first | exact .inl Fact.out | with_reducible exact .inr rfl | with_reducible rfl | skip)
    | with_reducible apply keeps_each
    | with_reducible apply keeps_foldl
    | split
    | intro _
    | (extract_lets +onlyGivenNames x; refine keeps_cut (x := x) ?_ ?_; on_goal 2 => clear_value x)
    | extract_lets +onlyGivenNames y)

theorem keeps_announce [Fact (P .ctxs)] [Fact (P .fab)] {s₀ s : State} (x v : Nat) (hk : Keeps P s₀ s) : Keeps P s₀ (State.announce s x v) := by
  unfold State.announce
  repeat' (first
    | with_reducible assumption
    | with_reducible exact Keeps.refl _
    | with_reducible apply keeps_vecSettle
    | with_reducible apply keeps_setVec
    | with_reducible apply keeps_vecCheck)

theorem keeps_evLost [Fact (P .regs)] {s₀ s : State} (x : Nat) (hk : Keeps P s₀ s) : Keeps P s₀ (State.evLost s x) := by
  unfold State.evLost
  repeat' (first
    | with_reducible assumption
    | with_reducible exact Keeps.refl _
    | with_reducible apply keeps_bump
    | with_reducible apply keeps_raise)

theorem keeps_event [Fact (P .ctxs)] [Fact (P .fab)] [Fact (P .regs)] {s₀ s : State} (x type queue : Nat) (rx : Bool) (status idx addr : Nat) (hk : Keeps P s₀ s) : Keeps P s₀ (State.event s x type queue rx status idx addr) := by
  unfold State.event
  repeat' (first
    | with_reducible assumption
    | with_reducible exact Keeps.refl _
    | with_reducible apply keeps_evLost
    | with_reducible apply keeps_setCtx
    | with_reducible apply keeps_wr
    | with_reducible apply keeps_hostWrite
    | fail_if_no_progress (with_reducible apply keeps_mk <;> first | exact .inl Fact.out | with_reducible exact .inr rfl | with_reducible rfl | skip)
    | with_reducible apply keeps_each
    | with_reducible apply keeps_foldl
    | split)

theorem keeps_dirtyMark [Fact (P .ctxs)] [Fact (P .fab)] {s₀ s : State} (x addr : Nat) (hk : Keeps P s₀ s) : Keeps P s₀ (State.dirtyMark s x addr) := by
  unfold State.dirtyMark
  repeat' (first
    | with_reducible assumption
    | with_reducible exact Keeps.refl _
    | with_reducible apply keeps_setCtx
    | with_reducible apply keeps_hostWrite
    | fail_if_no_progress (with_reducible apply keeps_mk <;> first | exact .inl Fact.out | with_reducible exact .inr rfl | with_reducible rfl | skip)
    | with_reducible apply keeps_each
    | with_reducible apply keeps_foldl
    | split
    | intro _
    | (extract_lets +onlyGivenNames x; refine keeps_cut (x := x) ?_ ?_; on_goal 2 => clear_value x)
    | extract_lets +onlyGivenNames y)

theorem keeps_refreshActive [Fact (P .regs)] {s₀ s : State}  (hk : Keeps P s₀ s) : Keeps P s₀ (State.refreshActive s) := by
  unfold State.refreshActive
  repeat' (first
    | with_reducible assumption
    | with_reducible exact Keeps.refl _
    | with_reducible apply keeps_wr)

theorem keeps_cmdWrite [Fact (P .fab)] [Fact (P .regs)] [Fact (P .ring)] {s₀ s : State} (id : Nat) (c : CmdSt) (status result : Nat) (hk : Keeps P s₀ s) : Keeps P s₀ (State.cmdWrite s id c status result) := by
  unfold State.cmdWrite
  repeat' (first
    | with_reducible assumption
    | with_reducible exact Keeps.refl _
    | with_reducible apply keeps_countState
    | with_reducible apply keeps_hostWrite
    | fail_if_no_progress (with_reducible apply keeps_mk <;> first | exact .inl Fact.out | with_reducible exact .inr rfl | with_reducible rfl | skip)
    | with_reducible apply keeps_each
    | with_reducible apply keeps_foldl
    | split
    | intro _
    | (extract_lets +onlyGivenNames x; refine keeps_cut (x := x) ?_ ?_; on_goal 2 => clear_value x))

theorem keeps_cmdFetch [Fact (P .fab)] [Fact (P .ring)] {s₀ s : State}  (hk : Keeps P s₀ s) : Keeps P s₀ (State.cmdFetch s) := by
  unfold State.cmdFetch
  repeat' (first
    | with_reducible assumption
    | with_reducible exact Keeps.refl _
    | with_reducible apply keeps_hostRead
    | fail_if_no_progress (with_reducible apply keeps_mk <;> first | exact .inl Fact.out | with_reducible exact .inr rfl | with_reducible rfl | skip)
    | with_reducible apply keeps_each
    | with_reducible apply keeps_foldl
    | split
    | intro _
    | (extract_lets +onlyGivenNames x; refine keeps_cut (x := x) ?_ ?_; on_goal 2 => clear_value x)
    | extract_lets +onlyGivenNames y)

theorem keeps_cmdTake [Fact (P .fab)] [Fact (P .regs)] [Fact (P .ring)] {s₀ s : State}  (hk : Keeps P s₀ s) : Keeps P s₀ (State.cmdTake s) := by
  unfold State.cmdTake
  repeat' (first
    | with_reducible assumption
    | with_reducible exact Keeps.refl _
    | with_reducible apply keeps_wr
    | with_reducible apply keeps_cmdFetch
    | fail_if_no_progress (with_reducible apply keeps_mk <;> first | exact .inl Fact.out | with_reducible exact .inr rfl | with_reducible rfl | skip))

theorem keeps_cmdUnknown [Fact (P .fab)] [Fact (P .regs)] [Fact (P .ring)] {s₀ s : State}  (hk : Keeps P s₀ s) : Keeps P s₀ (State.cmdUnknown s) := by
  unfold State.cmdUnknown
  repeat' (first
    | with_reducible assumption
    | with_reducible exact Keeps.refl _
    | with_reducible apply keeps_cmdTake
    | with_reducible apply keeps_cmdWrite
    | fail_if_no_progress (with_reducible apply keeps_mk <;> first | exact .inl Fact.out | with_reducible exact .inr rfl | with_reducible rfl | skip)
    | with_reducible apply keeps_each
    | with_reducible apply keeps_foldl
    | split)

theorem keeps_cmdDone [Fact (P .fab)] [Fact (P .regs)] [Fact (P .ring)] {s₀ s : State} (id status result : Nat) (hk : Keeps P s₀ s) : Keeps P s₀ (State.cmdDone s id status result) := by
  unfold State.cmdDone
  repeat' (first
    | with_reducible assumption
    | with_reducible exact Keeps.refl _
    | with_reducible apply keeps_refreshActive
    | with_reducible apply keeps_cmdWrite
    | with_reducible apply keeps_cmdUnknown
    | fail_if_no_progress (with_reducible apply keeps_mk <;> first | exact .inl Fact.out | with_reducible exact .inr rfl | with_reducible rfl | skip)
    | with_reducible apply keeps_each
    | with_reducible apply keeps_foldl
    | split)

theorem keeps_cmdDone? [Fact (P .fab)] [Fact (P .regs)] [Fact (P .ring)] {s₀ s : State} (id : Option Nat) (status result : Nat) (hk : Keeps P s₀ s) : Keeps P s₀ (State.cmdDone? s id status result) := by
  unfold State.cmdDone?
  repeat' (first
    | with_reducible assumption
    | with_reducible exact Keeps.refl _
    | with_reducible apply keeps_cmdDone
    | fail_if_no_progress (with_reducible apply keeps_mk <;> first | exact .inl Fact.out | with_reducible exact .inr rfl | with_reducible rfl | skip)
    | with_reducible apply keeps_each
    | with_reducible apply keeps_foldl
    | split)

theorem keeps_qFault [Fact (P .ctxs)] [Fact (P .fab)] [Fact (P .qs)] [Fact (P .regs)] {s₀ s : State} (k type status idx addr : Nat) (hk : Keeps P s₀ s) : Keeps P s₀ (State.qFault s k type status idx addr) := by
  unfold State.qFault
  repeat' (first
    | with_reducible assumption
    | with_reducible exact Keeps.refl _
    | with_reducible apply keeps_setQ
    | with_reducible apply keeps_raise
    | with_reducible apply keeps_event
    | fail_if_no_progress (with_reducible apply keeps_mk <;> first | exact .inl Fact.out | with_reducible exact .inr rfl | with_reducible rfl | skip)
    | with_reducible apply keeps_each
    | with_reducible apply keeps_foldl
    | split)

theorem keeps_txTidy [Fact (P .qs)] [Fact (P .txs)] {s₀ s : State} (k : Nat) (hk : Keeps P s₀ s) : Keeps P s₀ (State.txTidy s k) := by
  unfold State.txTidy
  repeat' (first
    | with_reducible assumption
    | with_reducible exact Keeps.refl _
    | with_reducible apply keeps_setQ
    | fail_if_no_progress (with_reducible apply keeps_mk <;> first | exact .inl Fact.out | with_reducible exact .inr rfl | with_reducible rfl | skip))

theorem keeps_txSettle [Fact (P .qs)] [Fact (P .txs)] {s₀ s : State} (k : Nat) (hk : Keeps P s₀ s) : Keeps P s₀ (State.txSettle s k) := by
  unfold State.txSettle
  repeat' (first
    | with_reducible assumption
    | with_reducible exact Keeps.refl _
    | with_reducible apply keeps_txTidy
    | with_reducible apply keeps_setTx
    | fail_if_no_progress (with_reducible apply keeps_mk <;> first | exact .inl Fact.out | with_reducible exact .inr rfl | with_reducible rfl | skip)
    | with_reducible apply keeps_each
    | with_reducible apply keeps_foldl
    | split
    | intro _
    | (extract_lets +onlyGivenNames x; refine keeps_cut (x := x) ?_ ?_; on_goal 2 => clear_value x)
    | extract_lets +onlyGivenNames y)

theorem keeps_txEnd [Fact (P .chs)] [Fact (P .qs)] [Fact (P .regs)] [Fact (P .sys)] [Fact (P .txs)] {s₀ s : State} (id status : Nat) (hk : Keeps P s₀ s) : Keeps P s₀ (State.txEnd s id status) := by
  unfold State.txEnd
  repeat' (first
    | with_reducible assumption
    | with_reducible exact Keeps.refl _
    | with_reducible apply keeps_setTx
    | with_reducible apply keeps_stage
    | with_reducible apply keeps_setQ
    | with_reducible apply keeps_countState
    | with_reducible apply keeps_txSettle
    | fail_if_no_progress (with_reducible apply keeps_mk <;> first | exact .inl Fact.out | with_reducible exact .inr rfl | with_reducible rfl | skip)
    | with_reducible apply keeps_each
    | with_reducible apply keeps_foldl
    | split)

theorem keeps_txDropMain [Fact (P .chs)] [Fact (P .fb)] [Fact (P .free)] [Fact (P .led)] [Fact (P .qs)] [Fact (P .regs)] [Fact (P .sys)] [Fact (P .txs)] {s₀ s : State} (id cause status : Nat) (hk : Keeps P s₀ s) : Keeps P s₀ (State.txDropMain s id cause status) := by
  unfold State.txDropMain
  repeat' (first
    | with_reducible assumption
    | with_reducible exact Keeps.refl _
    | with_reducible apply keeps_fbFreeTx
    | with_reducible apply keeps_setTx
    | with_reducible apply keeps_ledDrop
    | with_reducible apply keeps_txEnd
    | fail_if_no_progress (with_reducible apply keeps_mk <;> first | exact .inl Fact.out | with_reducible exact .inr rfl | with_reducible rfl | skip)
    | with_reducible apply keeps_each
    | with_reducible apply keeps_foldl
    | split)

theorem keeps_txDropNow [Fact (P .chs)] [Fact (P .fb)] [Fact (P .free)] [Fact (P .led)] [Fact (P .qs)] [Fact (P .regs)] [Fact (P .sys)] [Fact (P .txs)] {s₀ s : State} (id cause status : Nat) (hk : Keeps P s₀ s) : Keeps P s₀ (State.txDropNow s id cause status) := by
  unfold State.txDropNow
  repeat' (first
    | with_reducible assumption
    | with_reducible exact Keeps.refl _
    | with_reducible apply keeps_txDropMain
    | with_reducible apply keeps_delTx
    | with_reducible apply keeps_stage
    | fail_if_no_progress (with_reducible apply keeps_mk <;> first | exact .inl Fact.out | with_reducible exact .inr rfl | with_reducible rfl | skip)
    | with_reducible apply keeps_each
    | with_reducible apply keeps_foldl
    | split
    | intro _
    | (extract_lets +onlyGivenNames x; refine keeps_cut (x := x) ?_ ?_; on_goal 2 => clear_value x))

theorem keeps_txDrop [Fact (P .chs)] [Fact (P .fb)] [Fact (P .free)] [Fact (P .led)] [Fact (P .qs)] [Fact (P .regs)] [Fact (P .sys)] [Fact (P .txs)] {s₀ s : State} (id cause status : Nat) (hk : Keeps P s₀ s) : Keeps P s₀ (State.txDrop s id cause status) := by
  unfold State.txDrop
  repeat' (first
    | with_reducible assumption
    | with_reducible exact Keeps.refl _
    | with_reducible apply keeps_txDropNow
    | with_reducible apply keeps_setTx
    | with_reducible apply keeps_stage
    | fail_if_no_progress (with_reducible apply keeps_mk <;> first | exact .inl Fact.out | with_reducible exact .inr rfl | with_reducible rfl | skip)
    | with_reducible apply keeps_each
    | with_reducible apply keeps_foldl
    | split)

theorem keeps_rxDropNow [Fact (P .chs)] [Fact (P .fb)] [Fact (P .free)] [Fact (P .led)] [Fact (P .regs)] [Fact (P .rxs)] {s₀ s : State} (id cause : Nat) (hk : Keeps P s₀ s) : Keeps P s₀ (State.rxDropNow s id cause) := by
  unfold State.rxDropNow
  repeat' (first
    | with_reducible assumption
    | with_reducible exact Keeps.refl _
    | with_reducible apply keeps_fbFreeRx
    | with_reducible apply keeps_ledDrop
    | with_reducible apply keeps_delRx
    | fail_if_no_progress (with_reducible apply keeps_mk <;> first | exact .inl Fact.out | with_reducible exact .inr rfl | with_reducible rfl | skip)
    | with_reducible apply keeps_each
    | with_reducible apply keeps_foldl
    | split)

theorem keeps_rxDrop [Fact (P .chs)] [Fact (P .fb)] [Fact (P .free)] [Fact (P .led)] [Fact (P .regs)] [Fact (P .rxs)] [Fact (P .sys)] [Fact (P .txs)] {s₀ s : State} (id cause : Nat) (hk : Keeps P s₀ s) : Keeps P s₀ (State.rxDrop s id cause) := by
  unfold State.rxDrop
  repeat' (first
    | with_reducible assumption
    | with_reducible exact Keeps.refl _
    | with_reducible apply keeps_rxDropNow
    | with_reducible apply keeps_setRx
    | with_reducible apply keeps_stage
    | fail_if_no_progress (with_reducible apply keeps_mk <;> first | exact .inl Fact.out | with_reducible exact .inr rfl | with_reducible rfl | skip)
    | with_reducible apply keeps_each
    | with_reducible apply keeps_foldl
    | split)

theorem keeps_txGone [Fact (P .chs)] [Fact (P .fb)] [Fact (P .free)] [Fact (P .led)] [Fact (P .qs)] [Fact (P .regs)] [Fact (P .sys)] [Fact (P .txs)] {s₀ s : State} (id : Nat) (f : TxFr) (hk : Keeps P s₀ s) : Keeps P s₀ (State.txGone s id f) := by
  unfold State.txGone
  repeat' (first
    | with_reducible assumption
    | with_reducible exact Keeps.refl _
    | with_reducible apply keeps_delTx
    | with_reducible apply keeps_stage
    | with_reducible apply keeps_setTx
    | with_reducible apply keeps_fbFreeTx
    | with_reducible apply keeps_ledDrop
    | with_reducible apply keeps_txEnd
    | with_reducible apply keeps_ledDeliver
    | fail_if_no_progress (with_reducible apply keeps_mk <;> first | exact .inl Fact.out | with_reducible exact .inr rfl | with_reducible rfl | skip)
    | with_reducible apply keeps_each
    | with_reducible apply keeps_foldl
    | split
    | intro _
    | (extract_lets +onlyGivenNames x; refine keeps_cut (x := x) ?_ ?_; on_goal 2 => clear_value x)
    | extract_lets +onlyGivenNames y)

theorem keeps_takeSent [Fact (P .chs)] [Fact (P .fb)] [Fact (P .free)] [Fact (P .led)] [Fact (P .qs)] [Fact (P .regs)] [Fact (P .rxs)] [Fact (P .sys)] [Fact (P .txs)] {s₀ s : State}  (hk : Keeps P s₀ s) : Keeps P s₀ (State.takeSent s) := by
  unfold State.takeSent
  repeat' (first
    | with_reducible assumption
    | with_reducible exact Keeps.refl _
    | with_reducible apply keeps_each
    | with_reducible apply keeps_stage
    | with_reducible apply keeps_txDropNow
    | with_reducible apply keeps_txGone
    | with_reducible apply keeps_rxDropNow
    | fail_if_no_progress (with_reducible apply keeps_mk <;> first | exact .inl Fact.out | with_reducible exact .inr rfl | with_reducible rfl | skip)
    | with_reducible apply keeps_each
    | with_reducible apply keeps_foldl
    | split
    | intro _)

theorem keeps_setStaged [Fact (P .chs)] {s₀ s : State} (c k : Nat) (l : List Nat) (hk : Keeps P s₀ s) : Keeps P s₀ (State.setStaged s c k l) := by
  unfold State.setStaged
  repeat' (first
    | with_reducible assumption
    | with_reducible exact Keeps.refl _
    | with_reducible apply keeps_setCh)

theorem keeps_refreshStaged [Fact (P .regs)] {s₀ s : State} (c : Nat) (hk : Keeps P s₀ s) : Keeps P s₀ (State.refreshStaged s c) := by
  unfold State.refreshStaged
  repeat' (first
    | with_reducible assumption
    | with_reducible exact Keeps.refl _
    | with_reducible apply keeps_wr)

theorem keeps_dropStaged [Fact (P .chs)] [Fact (P .fb)] [Fact (P .free)] [Fact (P .led)] [Fact (P .qs)] [Fact (P .regs)] [Fact (P .sys)] [Fact (P .txs)] {s₀ s : State} (c cause status : Nat) (p : TxFr → Bool) (hk : Keeps P s₀ s) : Keeps P s₀ (State.dropStaged s c cause status p) := by
  unfold State.dropStaged
  repeat' (first
    | with_reducible assumption
    | with_reducible exact Keeps.refl _
    | with_reducible apply keeps_each
    | with_reducible apply keeps_setStaged
    | with_reducible apply keeps_txDrop
    | with_reducible apply keeps_refreshStaged
    | fail_if_no_progress (with_reducible apply keeps_mk <;> first | exact .inl Fact.out | with_reducible exact .inr rfl | with_reducible rfl | skip)
    | with_reducible apply keeps_each
    | with_reducible apply keeps_foldl
    | split
    | intro _)

end Sys2Proof.Laws
end

