-- ==== Sys2Proof/Laws/KeepsLineBase.lean ====
section
/-! SUPPORT. What the operations of LineBase.lean keep. -/

namespace Sys2Proof.Laws

open Sys2Proof.Machine

variable {P : Part → Prop}

theorem keeps_setLane [Fact (P .lanes)] {s₀ s : State} (i : Nat) (x : LaneSt) (hk : Keeps P s₀ s) : Keeps P s₀ (State.setLane s i x) := by
  unfold State.setLane
  repeat' (first
    | with_reducible assumption
    | with_reducible exact Keeps.refl _
    | fail_if_no_progress (with_reducible apply keeps_mk <;> first | exact .inl Fact.out | with_reducible exact .inr rfl | with_reducible rfl | skip))

theorem keeps_setFr [Fact (P .frs)] {s₀ s : State} (j : Nat) (x : FrSt) (hk : Keeps P s₀ s) : Keeps P s₀ (State.setFr s j x) := by
  unfold State.setFr
  repeat' (first
    | with_reducible assumption
    | with_reducible exact Keeps.refl _
    | fail_if_no_progress (with_reducible apply keeps_mk <;> first | exact .inl Fact.out | with_reducible exact .inr rfl | with_reducible rfl | skip))

theorem keeps_setGrp [Fact (P .grps)] {s₀ s : State} (g : Nat) (x : GrpSt) (hk : Keeps P s₀ s) : Keeps P s₀ (State.setGrp s g x) := by
  unfold State.setGrp
  repeat' (first
    | with_reducible assumption
    | with_reducible exact Keeps.refl _
    | fail_if_no_progress (with_reducible apply keeps_mk <;> first | exact .inl Fact.out | with_reducible exact .inr rfl | with_reducible rfl | skip))

theorem keeps_setGfp [Fact (P .gfps)] {s₀ s : State} (c : Nat) (x : GfpSt) (hk : Keeps P s₀ s) : Keeps P s₀ (State.setGfp s c x) := by
  unfold State.setGfp
  repeat' (first
    | with_reducible assumption
    | with_reducible exact Keeps.refl _
    | fail_if_no_progress (with_reducible apply keeps_mk <;> first | exact .inl Fact.out | with_reducible exact .inr rfl | with_reducible rfl | skip))

theorem keeps_setPair [Fact (P .pairs)] {s₀ s : State} (k : Nat) (x : PairSt) (hk : Keeps P s₀ s) : Keeps P s₀ (State.setPair s k x) := by
  unfold State.setPair
  repeat' (first
    | with_reducible assumption
    | with_reducible exact Keeps.refl _
    | fail_if_no_progress (with_reducible apply keeps_mk <;> first | exact .inl Fact.out | with_reducible exact .inr rfl | with_reducible rfl | skip))

theorem keeps_stat [Fact (P .regs)] {s₀ s : State} (c n : Nat) (k : Nat) (hk : Keeps P s₀ s) : Keeps P s₀ (State.stat s c n k) := by
  unfold State.stat
  repeat' (first
    | with_reducible assumption
    | with_reducible exact Keeps.refl _
    | with_reducible apply keeps_wr64
    | with_reducible apply keeps_setBit
    | fail_if_no_progress (with_reducible apply keeps_mk <;> first | exact .inl Fact.out | with_reducible exact .inr rfl | with_reducible rfl | skip)
    | with_reducible apply keeps_each
    | with_reducible apply keeps_foldl
    | split
    | intro _
    | (extract_lets +onlyGivenNames x; refine keeps_cut (x := x) ?_ ?_; on_goal 2 => clear_value x)
    | extract_lets +onlyGivenNames y)

theorem keeps_statIf [Fact (P .regs)] {s₀ s : State} (b : Bool) (c n : Nat) (k : Nat) (hk : Keeps P s₀ s) : Keeps P s₀ (State.statIf s b c n k) := by
  unfold State.statIf
  repeat' (first
    | with_reducible assumption
    | with_reducible exact Keeps.refl _
    | with_reducible apply keeps_stat
    | fail_if_no_progress (with_reducible apply keeps_mk <;> first | exact .inl Fact.out | with_reducible exact .inr rfl | with_reducible rfl | skip)
    | with_reducible apply keeps_each
    | with_reducible apply keeps_foldl
    | split)

theorem keeps_rxStats [Fact (P .regs)] {s₀ s : State} (c n : Nat) (f : List Byte) (flags : Nat) (hk : Keeps P s₀ s) : Keeps P s₀ (State.rxStats s c n f flags) := by
  unfold State.rxStats
  repeat' (first
    | with_reducible assumption
    | with_reducible exact Keeps.refl _
    | with_reducible apply keeps_stat
    | with_reducible apply keeps_statIf
    | fail_if_no_progress (with_reducible apply keeps_mk <;> first | exact .inl Fact.out | with_reducible exact .inr rfl | with_reducible rfl | skip)
    | with_reducible apply keeps_each
    | with_reducible apply keeps_foldl
    | split)

theorem keeps_macDone [Fact (P .regs)] {s₀ s : State} (c : Nat) (hk : Keeps P s₀ s) : Keeps P s₀ (State.macDone s c) := by
  unfold State.macDone
  repeat' (first
    | with_reducible assumption
    | with_reducible exact Keeps.refl _
    | with_reducible apply keeps_wr
    | fail_if_no_progress (with_reducible apply keeps_mk <;> first | exact .inl Fact.out | with_reducible exact .inr rfl | with_reducible rfl | skip)
    | with_reducible apply keeps_each
    | with_reducible apply keeps_foldl
    | split
    | intro _
    | (extract_lets +onlyGivenNames x; refine keeps_cut (x := x) ?_ ?_; on_goal 2 => clear_value x)
    | extract_lets +onlyGivenNames y)

theorem keeps_macRx [Fact (P .chs)] [Fact (P .regs)] {s₀ s : State} (c : Nat) (hk : Keeps P s₀ s) : Keeps P s₀ (State.macRx s c) := by
  unfold State.macRx
  repeat' (first
    | with_reducible assumption
    | with_reducible exact Keeps.refl _
    | with_reducible apply keeps_setCh
    | with_reducible apply keeps_macDone
    | fail_if_no_progress (with_reducible apply keeps_mk <;> first | exact .inl Fact.out | with_reducible exact .inr rfl | with_reducible rfl | skip)
    | with_reducible apply keeps_each
    | with_reducible apply keeps_foldl
    | split)

theorem keeps_macTx [Fact (P .chs)] [Fact (P .regs)] {s₀ s : State} (c : Nat) (hk : Keeps P s₀ s) : Keeps P s₀ (State.macTx s c) := by
  unfold State.macTx
  repeat' (first
    | with_reducible assumption
    | with_reducible exact Keeps.refl _
    | with_reducible apply keeps_setCh
    | with_reducible apply keeps_macDone
    | fail_if_no_progress (with_reducible apply keeps_mk <;> first | exact .inl Fact.out | with_reducible exact .inr rfl | with_reducible rfl | skip)
    | with_reducible apply keeps_each
    | with_reducible apply keeps_foldl
    | split)

theorem keeps_rxSample [Fact (P .chs)] [Fact (P .regs)] {s₀ s : State} (c : Nat) (hk : Keeps P s₀ s) : Keeps P s₀ (State.rxSample s c) := by
  unfold State.rxSample
  repeat' (first
    | with_reducible assumption
    | with_reducible exact Keeps.refl _
    | with_reducible apply keeps_macRx
    | fail_if_no_progress (with_reducible apply keeps_mk <;> first | exact .inl Fact.out | with_reducible exact .inr rfl | with_reducible rfl | skip)
    | with_reducible apply keeps_each
    | with_reducible apply keeps_foldl
    | split)

theorem keeps_txSample [Fact (P .chs)] [Fact (P .regs)] {s₀ s : State} (c : Nat) (hk : Keeps P s₀ s) : Keeps P s₀ (State.txSample s c) := by
  unfold State.txSample
  repeat' (first
    | with_reducible assumption
    | with_reducible exact Keeps.refl _
    | with_reducible apply keeps_macTx
    | fail_if_no_progress (with_reducible apply keeps_mk <;> first | exact .inl Fact.out | with_reducible exact .inr rfl | with_reducible rfl | skip)
    | with_reducible apply keeps_each
    | with_reducible apply keeps_foldl
    | split)

theorem keeps_gfpArea [Fact (P .gfps)] [Fact (P .regs)] {s₀ s : State} (c n : Nat) (d : List Byte) (cut : Bool) (hk : Keeps P s₀ s) : Keeps P s₀ (State.gfpArea s c n d cut) := by
  unfold State.gfpArea
  repeat' (first
    | with_reducible assumption
    | with_reducible exact Keeps.refl _
    | with_reducible apply keeps_bump
    | with_reducible apply keeps_raise
    | with_reducible apply keeps_wr
    | with_reducible apply keeps_setGfp
    | fail_if_no_progress (with_reducible apply keeps_mk <;> first | exact .inl Fact.out | with_reducible exact .inr rfl | with_reducible rfl | skip)
    | with_reducible apply keeps_each
    | with_reducible apply keeps_foldl
    | split
    | intro _
    | (extract_lets +onlyGivenNames x; refine keeps_cut (x := x) ?_ ?_; on_goal 2 => clear_value x)
    | extract_lets +onlyGivenNames y)

theorem keeps_cutClient [Fact (P .gfps)] [Fact (P .regs)] {s₀ s : State} (c : Nat) (hk : Keeps P s₀ s) : Keeps P s₀ (State.cutClient s c) := by
  unfold State.cutClient
  repeat' (first
    | with_reducible assumption
    | with_reducible exact Keeps.refl _
    | with_reducible apply keeps_gfpArea
    | fail_if_no_progress (with_reducible apply keeps_mk <;> first | exact .inl Fact.out | with_reducible exact .inr rfl | with_reducible rfl | skip)
    | with_reducible apply keeps_each
    | with_reducible apply keeps_foldl
    | split
    | intro _
    | (extract_lets +onlyGivenNames x; refine keeps_cut (x := x) ?_ ?_; on_goal 2 => clear_value x)
    | extract_lets +onlyGivenNames y)

theorem keeps_gfpLeave [Fact (P .gfps)] [Fact (P .regs)] {s₀ s : State} (c next : Nat) (hk : Keeps P s₀ s) : Keeps P s₀ (State.gfpLeave s c next) := by
  unfold State.gfpLeave
  repeat' (first
    | with_reducible assumption
    | with_reducible exact Keeps.refl _
    | with_reducible apply keeps_cutClient
    | with_reducible apply keeps_setBit
    | with_reducible apply keeps_bump
    | with_reducible apply keeps_wr
    | with_reducible apply keeps_setGfp
    | fail_if_no_progress (with_reducible apply keeps_mk <;> first | exact .inl Fact.out | with_reducible exact .inr rfl | with_reducible rfl | skip)
    | with_reducible apply keeps_each
    | with_reducible apply keeps_foldl
    | split)

theorem keeps_coreAccept [Fact (P .chs)] [Fact (P .gfps)] [Fact (P .regs)] {s₀ s : State} (c v : Nat) (hk : Keeps P s₀ s) : Keeps P s₀ (State.coreAccept s c v) := by
  unfold State.coreAccept
  repeat' (first
    | with_reducible assumption
    | with_reducible exact Keeps.refl _
    | with_reducible apply keeps_rxSample
    | with_reducible apply keeps_setGfp
    | fail_if_no_progress (with_reducible apply keeps_mk <;> first | exact .inl Fact.out | with_reducible exact .inr rfl | with_reducible rfl | skip)
    | with_reducible apply keeps_each
    | with_reducible apply keeps_foldl
    | split)

theorem keeps_coreStep [Fact (P .chs)] [Fact (P .gfps)] [Fact (P .regs)] {s₀ s : State} (c : Nat) (hk : Keeps P s₀ s) : Keeps P s₀ (State.coreStep s c) := by
  unfold State.coreStep
  repeat' (first
    | with_reducible assumption
    | with_reducible exact Keeps.refl _
    | with_reducible apply keeps_setGfp
    | with_reducible apply keeps_wr
    | with_reducible apply keeps_coreAccept
    | with_reducible apply keeps_setBit
    | with_reducible apply keeps_bump
    | with_reducible apply keeps_gfpLeave
    | fail_if_no_progress (with_reducible apply keeps_mk <;> first | exact .inl Fact.out | with_reducible exact .inr rfl | with_reducible rfl | skip)
    | with_reducible apply keeps_each
    | with_reducible apply keeps_foldl
    | split
    | intro _
    | (extract_lets +onlyGivenNames x; refine keeps_cut (x := x) ?_ ?_; on_goal 2 => clear_value x)
    | extract_lets +onlyGivenNames y)

theorem keeps_gfpFrame [Fact (P .gfps)] [Fact (P .regs)] {s₀ s : State} (c : Nat) (hk : Keeps P s₀ s) : Keeps P s₀ (State.gfpFrame s c) := by
  unfold State.gfpFrame
  repeat' (first
    | with_reducible assumption
    | with_reducible exact Keeps.refl _
    | with_reducible apply keeps_setGfp
    | with_reducible apply keeps_bump
    | with_reducible apply keeps_gfpArea
    | fail_if_no_progress (with_reducible apply keeps_mk <;> first | exact .inl Fact.out | with_reducible exact .inr rfl | with_reducible rfl | skip)
    | with_reducible apply keeps_each
    | with_reducible apply keeps_foldl
    | split
    | intro _
    | (extract_lets +onlyGivenNames x; refine keeps_cut (x := x) ?_ ?_; on_goal 2 => clear_value x)
    | extract_lets +onlyGivenNames y)

theorem keeps_gfpRunGo [Fact (P .chs)] [Fact (P .gfps)] [Fact (P .regs)] (c n : Nat) {s₀ s : State} (h : Keeps P s₀ s) : Keeps P s₀ (gfpRunGo c n s) := by
  induction n generalizing s with
  | zero => exact h
  | succ n ih =>
    unfold gfpRunGo
    split
    · exact ih (keeps_gfpFrame _ h)
    · exact ih (keeps_coreStep _ h)

theorem keeps_gfpGap [Fact (P .chs)] [Fact (P .gfps)] [Fact (P .regs)] {s₀ s : State} (c : Nat) (hk : Keeps P s₀ s) : Keeps P s₀ (State.gfpGap s c) := by
  unfold State.gfpGap
  repeat' (first
    | with_reducible assumption
    | with_reducible exact Keeps.refl _
    | with_reducible apply keeps_gfpRunGo
    | with_reducible apply keeps_gfpLeave
    | with_reducible apply keeps_setGfp
    | fail_if_no_progress (with_reducible apply keeps_mk <;> first | exact .inl Fact.out | with_reducible exact .inr rfl | with_reducible rfl | skip)
    | with_reducible apply keeps_each
    | with_reducible apply keeps_foldl
    | split)

end Sys2Proof.Laws
end

