-- ==== Sys2Proof/Laws/KeepsGroups.lean ====
section
/-! SUPPORT. What the operations of Groups.lean keep. -/

namespace Sys2Proof.Laws

open Sys2Proof.Machine

set_option Elab.async false

variable {P : Part → Prop}

theorem keeps_copyFree [Fact (P .fb)] [Fact (P .regs)] [Fact (P .rxs)] {s₀ s : State} (e : Copy) (hk : Keeps P s₀ s) : Keeps P s₀ (State.copyFree s e) := by
  unfold State.copyFree
  repeat' (first
    | with_reducible assumption
    | with_reducible exact Keeps.refl _
    | with_reducible apply keeps_fbFreeHinge
    | with_reducible apply keeps_setRx
    | fail_if_no_progress (with_reducible apply keeps_mk <;> first | exact .inl Fact.out | with_reducible exact .inr rfl | with_reducible rfl | skip)
    | with_reducible apply keeps_each
    | with_reducible apply keeps_foldl
    | split)

theorem keeps_copyDiscard [Fact (P .fb)] [Fact (P .regs)] [Fact (P .rxs)] {s₀ s : State} (e : Copy) (hk : Keeps P s₀ s) : Keeps P s₀ (State.copyDiscard s e) := by
  unfold State.copyDiscard
  repeat' (first
    | with_reducible assumption
    | with_reducible exact Keeps.refl _
    | with_reducible apply keeps_copyFree
    | with_reducible apply keeps_delRx)

theorem keeps_copyPass [Fact (P .chs)] [Fact (P .fb)] [Fact (P .pairs)] [Fact (P .regs)] [Fact (P .rxs)] [Fact (P .sys)] [Fact (P .txs)] {s₀ s : State} (k : Nat) (e : Copy) (lone : Bool) (hk : Keeps P s₀ s) : Keeps P s₀ (State.copyPass s k e lone) := by
  unfold State.copyPass
  repeat' (first
    | with_reducible assumption
    | with_reducible exact Keeps.refl _
    | with_reducible apply keeps_rxStats
    | with_reducible apply keeps_fbFreeHinge
    | with_reducible apply keeps_setRx
    | with_reducible apply keeps_stage
    | with_reducible apply keeps_setPair
    | fail_if_no_progress (with_reducible apply keeps_mk <;> first | exact .inl Fact.out | with_reducible exact .inr rfl | with_reducible rfl | skip)
    | with_reducible apply keeps_each
    | with_reducible apply keeps_foldl
    | split)

theorem keeps_decideBoth [Fact (P .chs)] [Fact (P .fb)] [Fact (P .pairs)] [Fact (P .regs)] [Fact (P .rxs)] [Fact (P .sys)] [Fact (P .txs)] {s₀ s : State} (k : Nat) (sel other : Copy) (hk : Keeps P s₀ s) : Keeps P s₀ (State.decideBoth s k sel other) := by
  unfold State.decideBoth
  repeat' (first
    | with_reducible assumption
    | with_reducible exact Keeps.refl _
    | with_reducible apply keeps_copyPass
    | with_reducible apply keeps_copyDiscard
    | with_reducible apply keeps_bump
    | fail_if_no_progress (with_reducible apply keeps_mk <;> first | exact .inl Fact.out | with_reducible exact .inr rfl | with_reducible rfl | skip)
    | with_reducible apply keeps_each
    | with_reducible apply keeps_foldl
    | split)

theorem keeps_decidePos [Fact (P .chs)] [Fact (P .fb)] [Fact (P .pairs)] [Fact (P .regs)] [Fact (P .rxs)] [Fact (P .sys)] [Fact (P .txs)] {s₀ s : State} (k pos : Nat) (alone : Bool) (hk : Keeps P s₀ s) : Keeps P s₀ (State.decidePos s k pos alone) := by
  unfold State.decidePos
  repeat' (first
    | with_reducible assumption
    | with_reducible exact Keeps.refl _
    | with_reducible apply keeps_setPair
    | with_reducible apply keeps_decideBoth
    | with_reducible apply keeps_copyPass
    | with_reducible apply keeps_bump
    | fail_if_no_progress (with_reducible apply keeps_mk <;> first | exact .inl Fact.out | with_reducible exact .inr rfl | with_reducible rfl | skip)
    | with_reducible apply keeps_each
    | with_reducible apply keeps_foldl
    | split
    | intro _
    | (extract_lets +onlyGivenNames x; refine keeps_cut (x := x) ?_ ?_; on_goal 2 => clear_value x)
    | extract_lets +onlyGivenNames y)

theorem keeps_dropBelow [Fact (P .fb)] [Fact (P .pairs)] [Fact (P .regs)] [Fact (P .rxs)] {s₀ s : State} (k : Nat) (hk : Keeps P s₀ s) : Keeps P s₀ (State.dropBelow s k) := by
  unfold State.dropBelow
  repeat' (first
    | with_reducible assumption
    | with_reducible exact Keeps.refl _
    | with_reducible apply keeps_setPair
    | with_reducible apply keeps_each
    | with_reducible apply keeps_copyDiscard
    | with_reducible apply keeps_bump
    | fail_if_no_progress (with_reducible apply keeps_mk <;> first | exact .inl Fact.out | with_reducible exact .inr rfl | with_reducible rfl | skip)
    | with_reducible apply keeps_each
    | with_reducible apply keeps_foldl
    | split
    | intro _)

theorem keeps_hingeRunGo [Fact (P .chs)] [Fact (P .fb)] [Fact (P .pairs)] [Fact (P .regs)] [Fact (P .rxs)] [Fact (P .sys)] [Fact (P .txs)] (k n : Nat) {s₀ s : State} (h : Keeps P s₀ s) : Keeps P s₀ (hingeRunGo k n s) := by
  induction n generalizing s with
  | zero => exact h
  | succ n ih =>
    unfold hingeRunGo
    have g := keeps_dropBelow k h
    extract_lets u
    split
    · exact g
    · split
      · exact ih (keeps_decidePos _ _ _ g)
      · exact g

theorem keeps_passUnaligned [Fact (P .chs)] [Fact (P .fb)] [Fact (P .pairs)] [Fact (P .regs)] [Fact (P .rxs)] [Fact (P .sys)] [Fact (P .txs)] {s₀ s : State} (k : Nat) (e : Copy) (hk : Keeps P s₀ s) : Keeps P s₀ (State.passUnaligned s k e) := by
  unfold State.passUnaligned
  repeat' (first
    | with_reducible assumption
    | with_reducible exact Keeps.refl _
    | with_reducible apply keeps_bump64
    | with_reducible apply keeps_bump
    | with_reducible apply keeps_setPair
    | with_reducible apply keeps_copyPass
    | fail_if_no_progress (with_reducible apply keeps_mk <;> first | exact .inl Fact.out | with_reducible exact .inr rfl | with_reducible rfl | skip)
    | with_reducible apply keeps_each
    | with_reducible apply keeps_foldl
    | split)

theorem keeps_passHeld [Fact (P .chs)] [Fact (P .fb)] [Fact (P .pairs)] [Fact (P .regs)] [Fact (P .rxs)] [Fact (P .sys)] [Fact (P .txs)] (k n : Nat) {s₀ s : State} (h : Keeps P s₀ s) : Keeps P s₀ (passHeld k n s) := by
  induction n generalizing s with
  | zero => exact h
  | succ n ih =>
    unfold passHeld
    have g := keeps_dropBelow k h
    extract_lets u
    split
    · exact g
    · exact ih (keeps_each (fun t e a => keeps_bump _ _ (keeps_copyDiscard e a))
        (keeps_each (fun t e a => keeps_passUnaligned k e a) (keeps_setPair _ _ g)))

theorem keeps_hingeRun [Fact (P .chs)] [Fact (P .fb)] [Fact (P .pairs)] [Fact (P .regs)] [Fact (P .rxs)] [Fact (P .sys)] [Fact (P .txs)] {s₀ s : State} (k : Nat) (hk : Keeps P s₀ s) : Keeps P s₀ (State.hingeRun s k) := by
  unfold State.hingeRun
  repeat' (first
    | with_reducible assumption
    | with_reducible exact Keeps.refl _
    | with_reducible apply keeps_hingeRunGo
    | with_reducible apply keeps_passHeld
    | fail_if_no_progress (with_reducible apply keeps_mk <;> first | exact .inl Fact.out | with_reducible exact .inr rfl | with_reducible rfl | skip)
    | with_reducible apply keeps_each
    | with_reducible apply keeps_foldl
    | split)

theorem keeps_pairConds [Fact (P .pairs)] {s₀ s : State} (k : Nat) (hk : Keeps P s₀ s) : Keeps P s₀ (State.pairConds s k) := by
  unfold State.pairConds
  repeat' (first
    | with_reducible assumption
    | with_reducible exact Keeps.refl _
    | with_reducible apply keeps_setPair)

theorem keeps_pairEval [Fact (P .pairs)] [Fact (P .regs)] {s₀ s : State} (k : Nat) (hk : Keeps P s₀ s) : Keeps P s₀ (State.pairEval s k) := by
  unfold State.pairEval
  repeat' (first
    | with_reducible assumption
    | with_reducible exact Keeps.refl _
    | with_reducible apply keeps_pairConds
    | with_reducible apply keeps_setPair
    | with_reducible apply keeps_wr
    | with_reducible apply keeps_put
    | with_reducible apply keeps_setBit
    | with_reducible apply keeps_bump
    | fail_if_no_progress (with_reducible apply keeps_mk <;> first | exact .inl Fact.out | with_reducible exact .inr rfl | with_reducible rfl | skip)
    | with_reducible apply keeps_each
    | with_reducible apply keeps_foldl
    | split
    | intro _
    | (extract_lets +onlyGivenNames x; refine keeps_cut (x := x) ?_ ?_; on_goal 2 => clear_value x)
    | extract_lets +onlyGivenNames y)

theorem keeps_pairsEval [Fact (P .chs)] [Fact (P .fb)] [Fact (P .pairs)] [Fact (P .regs)] [Fact (P .rxs)] [Fact (P .sys)] [Fact (P .txs)] {s₀ s : State}  (hk : Keeps P s₀ s) : Keeps P s₀ (State.pairsEval s) := by
  unfold State.pairsEval
  repeat' (first
    | with_reducible assumption
    | with_reducible exact Keeps.refl _
    | with_reducible apply keeps_each
    | with_reducible apply keeps_pairEval
    | with_reducible apply keeps_hingeRun
    | fail_if_no_progress (with_reducible apply keeps_mk <;> first | exact .inl Fact.out | with_reducible exact .inr rfl | with_reducible rfl | skip)
    | with_reducible apply keeps_each
    | with_reducible apply keeps_foldl
    | split
    | intro _)

theorem keeps_swrReceived [Fact (P .pairs)] [Fact (P .regs)] {s₀ s : State} (j v : Nat) (hk : Keeps P s₀ s) : Keeps P s₀ (State.swrReceived s j v) := by
  unfold State.swrReceived
  repeat' (first
    | with_reducible assumption
    | with_reducible exact Keeps.refl _
    | with_reducible apply keeps_setPair
    | with_reducible apply keeps_pairEval
    | fail_if_no_progress (with_reducible apply keeps_mk <;> first | exact .inl Fact.out | with_reducible exact .inr rfl | with_reducible rfl | skip)
    | with_reducible apply keeps_each
    | with_reducible apply keeps_foldl
    | split)

theorem keeps_refreshSF [Fact (P .regs)] {s₀ s : State} (g : Nat) (hk : Keeps P s₀ s) : Keeps P s₀ (State.refreshSF s g) := by
  unfold State.refreshSF
  repeat' (first
    | with_reducible assumption
    | with_reducible exact Keeps.refl _
    | with_reducible apply keeps_put)

theorem keeps_grpDown [Fact (P .chs)] [Fact (P .fb)] [Fact (P .gfps)] [Fact (P .grps)] [Fact (P .pairs)] [Fact (P .regs)] [Fact (P .rxs)] [Fact (P .sys)] [Fact (P .txs)] {s₀ s : State} (g cause member : Nat) (hk : Keeps P s₀ s) : Keeps P s₀ (State.grpDown s g cause member) := by
  unfold State.grpDown
  repeat' (first
    | with_reducible assumption
    | with_reducible exact Keeps.refl _
    | with_reducible apply keeps_setGrp
    | with_reducible apply keeps_wr
    | with_reducible apply keeps_bump
    | with_reducible apply keeps_setBit
    | with_reducible apply keeps_refreshSF
    | with_reducible apply keeps_gfpGap
    | with_reducible apply keeps_pairsEval
    | fail_if_no_progress (with_reducible apply keeps_mk <;> first | exact .inl Fact.out | with_reducible exact .inr rfl | with_reducible rfl | skip)
    | with_reducible apply keeps_each
    | with_reducible apply keeps_foldl
    | split)

theorem keeps_pairStart [Fact (P .pairs)] {s₀ s : State} (g : Nat) (hk : Keeps P s₀ s) : Keeps P s₀ (State.pairStart s g) := by
  unfold State.pairStart
  repeat' (first
    | with_reducible assumption
    | with_reducible exact Keeps.refl _
    | with_reducible apply keeps_setPair
    | fail_if_no_progress (with_reducible apply keeps_mk <;> first | exact .inl Fact.out | with_reducible exact .inr rfl | with_reducible rfl | skip)
    | with_reducible apply keeps_each
    | with_reducible apply keeps_foldl
    | split)

theorem keeps_grpStart [Fact (P .frs)] [Fact (P .grps)] [Fact (P .pairs)] [Fact (P .regs)] {s₀ s : State} (g : Nat) (hk : Keeps P s₀ s) : Keeps P s₀ (State.grpStart s g) := by
  unfold State.grpStart
  repeat' (first
    | with_reducible assumption
    | with_reducible exact Keeps.refl _
    | with_reducible apply keeps_pairStart
    | with_reducible apply keeps_wr
    | with_reducible apply keeps_setGrp
    | with_reducible apply keeps_refreshSF
    | with_reducible apply keeps_setBit
    | with_reducible apply keeps_each
    | with_reducible apply keeps_setFr
    | fail_if_no_progress (with_reducible apply keeps_mk <;> first | exact .inl Fact.out | with_reducible exact .inr rfl | with_reducible rfl | skip)
    | with_reducible apply keeps_each
    | with_reducible apply keeps_foldl
    | split
    | intro _)

theorem keeps_grpStop [Fact (P .chs)] [Fact (P .frs)] [Fact (P .gfps)] [Fact (P .grps)] [Fact (P .regs)] {s₀ s : State} (g : Nat) (hk : Keeps P s₀ s) : Keeps P s₀ (State.grpStop s g) := by
  unfold State.grpStop
  repeat' (first
    | with_reducible assumption
    | with_reducible exact Keeps.refl _
    | with_reducible apply keeps_gfpGap
    | with_reducible apply keeps_wr
    | with_reducible apply keeps_setGrp
    | with_reducible apply keeps_refreshSF
    | with_reducible apply keeps_gfpLeave
    | with_reducible apply keeps_each
    | with_reducible apply keeps_setFr
    | with_reducible apply keeps_setBit
    | fail_if_no_progress (with_reducible apply keeps_mk <;> first | exact .inl Fact.out | with_reducible exact .inr rfl | with_reducible rfl | skip)
    | with_reducible apply keeps_each
    | with_reducible apply keeps_foldl
    | split
    | intro _)

theorem keeps_gpReject [Fact (P .regs)] {s₀ s : State}  (hk : Keeps P s₀ s) : Keeps P s₀ (State.gpReject s) := by
  unfold State.gpReject
  repeat' (first
    | with_reducible assumption
    | with_reducible exact Keeps.refl _
    | with_reducible apply keeps_bump)

theorem keeps_grpEnable [Fact (P .chs)] [Fact (P .fb)] [Fact (P .frs)] [Fact (P .grps)] [Fact (P .pairs)] [Fact (P .regs)] [Fact (P .rxs)] [Fact (P .sys)] [Fact (P .txs)] {s₀ s : State} (g : Nat) (hk : Keeps P s₀ s) : Keeps P s₀ (State.grpEnable s g) := by
  unfold State.grpEnable
  repeat' (first
    | with_reducible assumption
    | with_reducible exact Keeps.refl _
    | with_reducible apply keeps_grpStart
    | with_reducible apply keeps_pairsEval
    | with_reducible apply keeps_wr
    | with_reducible apply keeps_gpReject
    | fail_if_no_progress (with_reducible apply keeps_mk <;> first | exact .inl Fact.out | with_reducible exact .inr rfl | with_reducible rfl | skip)
    | with_reducible apply keeps_each
    | with_reducible apply keeps_foldl
    | split
    | intro _
    | (extract_lets +onlyGivenNames x; refine keeps_cut (x := x) ?_ ?_; on_goal 2 => clear_value x)
    | extract_lets +onlyGivenNames y)

theorem keeps_grpCfg [Fact (P .chs)] [Fact (P .fb)] [Fact (P .frs)] [Fact (P .gfps)] [Fact (P .grps)] [Fact (P .pairs)] [Fact (P .regs)] [Fact (P .rxs)] [Fact (P .sys)] [Fact (P .txs)] {s₀ s : State} (g v : Nat) (hk : Keeps P s₀ s) : Keeps P s₀ (State.grpCfg s g v) := by
  unfold State.grpCfg
  repeat' (first
    | with_reducible assumption
    | with_reducible exact Keeps.refl _
    | with_reducible apply keeps_gpReject
    | with_reducible apply keeps_each
    | with_reducible apply keeps_grpStop
    | with_reducible apply keeps_pairsEval
    | with_reducible apply keeps_wr
    | with_reducible apply keeps_grpEnable
    | fail_if_no_progress (with_reducible apply keeps_mk <;> first | exact .inl Fact.out | with_reducible exact .inr rfl | with_reducible rfl | skip)
    | with_reducible apply keeps_each
    | with_reducible apply keeps_foldl
    | split
    | intro _
    | (extract_lets +onlyGivenNames x; refine keeps_cut (x := x) ?_ ?_; on_goal 2 => clear_value x)
    | extract_lets +onlyGivenNames y)

theorem keeps_pairCfg [Fact (P .pairs)] [Fact (P .regs)] {s₀ s : State} (k v : Nat) (hk : Keeps P s₀ s) : Keeps P s₀ (State.pairCfg s k v) := by
  unfold State.pairCfg
  repeat' (first
    | with_reducible assumption
    | with_reducible exact Keeps.refl _
    | with_reducible apply keeps_writePlain
    | with_reducible apply keeps_pairEval
    | with_reducible apply keeps_setPair
    | with_reducible apply keeps_gpReject
    | fail_if_no_progress (with_reducible apply keeps_mk <;> first | exact .inl Fact.out | with_reducible exact .inr rfl | with_reducible rfl | skip)
    | with_reducible apply keeps_each
    | with_reducible apply keeps_foldl
    | split
    | intro _
    | (extract_lets +onlyGivenNames x; refine keeps_cut (x := x) ?_ ?_; on_goal 2 => clear_value x))

theorem keeps_pairCmd [Fact (P .pairs)] [Fact (P .regs)] {s₀ s : State} (k v : Nat) (hk : Keeps P s₀ s) : Keeps P s₀ (State.pairCmd s k v) := by
  unfold State.pairCmd
  repeat' (first
    | with_reducible assumption
    | with_reducible exact Keeps.refl _
    | with_reducible apply keeps_writePlain
    | with_reducible apply keeps_wr
    | with_reducible apply keeps_gpReject
    | with_reducible apply keeps_pairEval
    | fail_if_no_progress (with_reducible apply keeps_mk <;> first | exact .inl Fact.out | with_reducible exact .inr rfl | with_reducible rfl | skip)
    | with_reducible apply keeps_each
    | with_reducible apply keeps_foldl
    | split)

theorem keeps_posCfg [Fact (P .regs)] {s₀ s : State} (j v : Nat) (hk : Keeps P s₀ s) : Keeps P s₀ (State.posCfg s j v) := by
  unfold State.posCfg
  repeat' (first
    | with_reducible assumption
    | with_reducible exact Keeps.refl _
    | with_reducible apply keeps_gpReject
    | with_reducible apply keeps_writePlain
    | fail_if_no_progress (with_reducible apply keeps_mk <;> first | exact .inl Fact.out | with_reducible exact .inr rfl | with_reducible rfl | skip)
    | with_reducible apply keeps_each
    | with_reducible apply keeps_foldl
    | split)

theorem keeps_execGroupEnable [Fact (P .chs)] [Fact (P .fab)] [Fact (P .fb)] [Fact (P .frs)] [Fact (P .gfps)] [Fact (P .grps)] [Fact (P .pairs)] [Fact (P .regs)] [Fact (P .rxs)] [Fact (P .sp)] [Fact (P .sys)] [Fact (P .txs)] (w : Who) (g : Fin 16) (n : BitVec 6) (id : BitVec 8) (c : Fin 32) (s : State) : Outs P s (execGroupEnable w g n id c s) := by
  unfold execGroupEnable
  apply outs_next
  repeat' (first
    | with_reducible assumption
    | with_reducible exact Keeps.refl _
    | with_reducible apply keeps_guardWrite
    | with_reducible apply keeps_grpCfg
    | fail_if_no_progress (with_reducible apply keeps_mk <;> first | exact .inl Fact.out | with_reducible exact .inr rfl | with_reducible rfl | skip)
    | with_reducible apply keeps_each
    | with_reducible apply keeps_foldl
    | split
    | intro _)

theorem keeps_execGroupDisable [Fact (P .chs)] [Fact (P .fab)] [Fact (P .fb)] [Fact (P .frs)] [Fact (P .gfps)] [Fact (P .grps)] [Fact (P .pairs)] [Fact (P .regs)] [Fact (P .rxs)] [Fact (P .sp)] [Fact (P .sys)] [Fact (P .txs)] (w : Who) (g : Fin 16) (s : State) : Outs P s (execGroupDisable w g s) := by
  unfold execGroupDisable
  apply outs_next
  repeat' (first
    | with_reducible assumption
    | with_reducible exact Keeps.refl _
    | with_reducible apply keeps_guardWrite
    | with_reducible apply keeps_grpCfg
    | fail_if_no_progress (with_reducible apply keeps_mk <;> first | exact .inl Fact.out | with_reducible exact .inr rfl | with_reducible rfl | skip)
    | with_reducible apply keeps_each
    | with_reducible apply keeps_foldl
    | split
    | intro _)

theorem keeps_execPairEnable [Fact (P .fab)] [Fact (P .pairs)] [Fact (P .regs)] [Fact (P .sp)] (w : Who) (k : Fin 8) (v : Word) (s : State) : Outs P s (execPairEnable w k v s) := by
  unfold execPairEnable
  apply outs_next
  repeat' (first
    | with_reducible assumption
    | with_reducible exact Keeps.refl _
    | with_reducible apply keeps_guardWrite
    | with_reducible apply keeps_pairCfg
    | fail_if_no_progress (with_reducible apply keeps_mk <;> first | exact .inl Fact.out | with_reducible exact .inr rfl | with_reducible rfl | skip)
    | with_reducible apply keeps_each
    | with_reducible apply keeps_foldl
    | split
    | intro _)

theorem keeps_pairCmdField [Fact (P .fab)] [Fact (P .pairs)] [Fact (P .regs)] [Fact (P .sp)] {s₀ s : State} (w : Who) (k c : Nat) (hk : Keeps P s₀ s) : Keeps P s₀ (State.pairCmdField s w k c) := by
  unfold State.pairCmdField
  repeat' (first
    | with_reducible assumption
    | with_reducible exact Keeps.refl _
    | with_reducible apply keeps_guardWrite
    | with_reducible apply keeps_pairCmd
    | fail_if_no_progress (with_reducible apply keeps_mk <;> first | exact .inl Fact.out | with_reducible exact .inr rfl | with_reducible rfl | skip)
    | with_reducible apply keeps_each
    | with_reducible apply keeps_foldl
    | split
    | intro _)

theorem keeps_execPairCmdNone [Fact (P .fab)] [Fact (P .pairs)] [Fact (P .regs)] [Fact (P .sp)] (w : Who) (k : Fin 8) (s : State) : Outs P s (execPairCmdNone w k s) := by
  unfold execPairCmdNone
  apply outs_next
  repeat' (first
    | with_reducible assumption
    | with_reducible exact Keeps.refl _
    | with_reducible apply keeps_pairCmdField)

theorem keeps_execPairCmdLo [Fact (P .fab)] [Fact (P .pairs)] [Fact (P .regs)] [Fact (P .sp)] (w : Who) (k : Fin 8) (s : State) : Outs P s (execPairCmdLo w k s) := by
  unfold execPairCmdLo
  apply outs_next
  repeat' (first
    | with_reducible assumption
    | with_reducible exact Keeps.refl _
    | with_reducible apply keeps_pairCmdField)

theorem keeps_execPairCmdFs [Fact (P .fab)] [Fact (P .pairs)] [Fact (P .regs)] [Fact (P .sp)] (w : Who) (k : Fin 8) (s : State) : Outs P s (execPairCmdFs w k s) := by
  unfold execPairCmdFs
  apply outs_next
  repeat' (first
    | with_reducible assumption
    | with_reducible exact Keeps.refl _
    | with_reducible apply keeps_pairCmdField)

theorem keeps_execPairCmdMsProtect [Fact (P .fab)] [Fact (P .pairs)] [Fact (P .regs)] [Fact (P .sp)] (w : Who) (k : Fin 8) (s : State) : Outs P s (execPairCmdMsProtect w k s) := by
  unfold execPairCmdMsProtect
  apply outs_next
  repeat' (first
    | with_reducible assumption
    | with_reducible exact Keeps.refl _
    | with_reducible apply keeps_pairCmdField)

theorem keeps_execPairCmdMsWorking [Fact (P .fab)] [Fact (P .pairs)] [Fact (P .regs)] [Fact (P .sp)] (w : Who) (k : Fin 8) (s : State) : Outs P s (execPairCmdMsWorking w k s) := by
  unfold execPairCmdMsWorking
  apply outs_next
  repeat' (first
    | with_reducible assumption
    | with_reducible exact Keeps.refl _
    | with_reducible apply keeps_pairCmdField)

theorem keeps_execPairCmdExer [Fact (P .fab)] [Fact (P .pairs)] [Fact (P .regs)] [Fact (P .sp)] (w : Who) (k : Fin 8) (s : State) : Outs P s (execPairCmdExer w k s) := by
  unfold execPairCmdExer
  apply outs_next
  repeat' (first
    | with_reducible assumption
    | with_reducible exact Keeps.refl _
    | with_reducible apply keeps_pairCmdField)

theorem keeps_execHoldoffExpiry [Fact (P .pairs)] [Fact (P .regs)] [Fact (P .tm)] (k : Fin 8) (cond : Fin 4) (s : State) : Outs P s (execHoldoffExpiry k cond s) := by
  unfold execHoldoffExpiry
  apply outs_next
  repeat' (first
    | with_reducible assumption
    | with_reducible exact Keeps.refl _
    | with_reducible apply keeps_advanceTo
    | with_reducible apply keeps_setPair
    | with_reducible apply keeps_pairEval
    | fail_if_no_progress (with_reducible apply keeps_mk <;> first | exact .inl Fact.out | with_reducible exact .inr rfl | with_reducible rfl | skip)
    | with_reducible apply keeps_each
    | with_reducible apply keeps_foldl
    | split
    | intro _
    | (extract_lets +onlyGivenNames x; refine keeps_cut (x := x) ?_ ?_; on_goal 2 => clear_value x)
    | extract_lets +onlyGivenNames y)

theorem keeps_execWtrExpiry [Fact (P .pairs)] [Fact (P .regs)] [Fact (P .tm)] (k : Fin 8) (s : State) : Outs P s (execWtrExpiry k s) := by
  unfold execWtrExpiry
  apply outs_next
  repeat' (first
    | with_reducible assumption
    | with_reducible exact Keeps.refl _
    | with_reducible apply keeps_advanceTo
    | with_reducible apply keeps_setPair
    | with_reducible apply keeps_pairEval
    | fail_if_no_progress (with_reducible apply keeps_mk <;> first | exact .inl Fact.out | with_reducible exact .inr rfl | with_reducible rfl | skip)
    | with_reducible apply keeps_each
    | with_reducible apply keeps_foldl
    | split)

theorem keeps_segSeen [Fact (P .grps)] {s₀ s : State} (g j m t : Nat) (hk : Keeps P s₀ s) : Keeps P s₀ (State.segSeen s g j m t) := by
  unfold State.segSeen
  repeat' (first
    | with_reducible assumption
    | with_reducible exact Keeps.refl _
    | with_reducible apply keeps_setGrp)

theorem keeps_segDrop [Fact (P .frs)] [Fact (P .grps)] {s₀ s : State} (g m : Nat) (hk : Keeps P s₀ s) : Keeps P s₀ (State.segDrop s g m) := by
  unfold State.segDrop
  repeat' (first
    | with_reducible assumption
    | with_reducible exact Keeps.refl _
    | with_reducible apply keeps_setGrp
    | with_reducible apply keeps_each
    | with_reducible apply keeps_setFr
    | fail_if_no_progress (with_reducible apply keeps_mk <;> first | exact .inl Fact.out | with_reducible exact .inr rfl | with_reducible rfl | skip)
    | with_reducible apply keeps_each
    | with_reducible apply keeps_foldl
    | split
    | intro _)

theorem keeps_pairSpread [Fact (P .chs)] [Fact (P .fb)] [Fact (P .pairs)] [Fact (P .regs)] [Fact (P .rxs)] [Fact (P .sys)] [Fact (P .txs)] {s₀ s : State} (g m : Nat) (hk : Keeps P s₀ s) : Keeps P s₀ (State.pairSpread s g m) := by
  unfold State.pairSpread
  repeat' (first
    | with_reducible assumption
    | with_reducible exact Keeps.refl _
    | with_reducible apply keeps_wr
    | with_reducible apply keeps_put
    | with_reducible apply keeps_setBit
    | with_reducible apply keeps_hingeRun
    | fail_if_no_progress (with_reducible apply keeps_mk <;> first | exact .inl Fact.out | with_reducible exact .inr rfl | with_reducible rfl | skip)
    | with_reducible apply keeps_each
    | with_reducible apply keeps_foldl
    | split
    | intro _
    | (extract_lets +onlyGivenNames x; refine keeps_cut (x := x) ?_ ?_; on_goal 2 => clear_value x)
    | extract_lets +onlyGivenNames y)

theorem keeps_gfpFeed [Fact (P .gfps)] [Fact (P .regs)] {s₀ s : State} (g m : Nat) (l : List Byte) (times : List (Nat × Nat)) (hk : Keeps P s₀ s) : Keeps P s₀ (State.gfpFeed s g m l times) := by
  unfold State.gfpFeed
  repeat' (first
    | with_reducible assumption
    | with_reducible exact Keeps.refl _
    | with_reducible apply keeps_setGfp
    | with_reducible apply keeps_wr
    | fail_if_no_progress (with_reducible apply keeps_mk <;> first | exact .inl Fact.out | with_reducible exact .inr rfl | with_reducible rfl | skip)
    | with_reducible apply keeps_each
    | with_reducible apply keeps_foldl
    | split
    | intro _
    | (extract_lets +onlyGivenNames x; refine keeps_cut (x := x) ?_ ?_; on_goal 2 => clear_value x)
    | extract_lets +onlyGivenNames y)

theorem keeps_segment [Fact (P .chs)] [Fact (P .fb)] [Fact (P .frs)] [Fact (P .gfps)] [Fact (P .grps)] [Fact (P .pairs)] [Fact (P .regs)] [Fact (P .rxs)] [Fact (P .sys)] [Fact (P .txs)] {s₀ s : State} (g m : Nat) (times : List (Nat × Nat)) (hk : Keeps P s₀ s) : Keeps P s₀ (State.segment s g m times) := by
  unfold State.segment
  repeat' (first
    | with_reducible assumption
    | with_reducible exact Keeps.refl _
    | with_reducible apply keeps_wr
    | with_reducible apply keeps_setGrp
    | with_reducible apply keeps_pairSpread
    | with_reducible apply keeps_segDrop
    | with_reducible apply keeps_setBit
    | with_reducible apply keeps_refreshSF
    | with_reducible apply keeps_pairsEval
    | with_reducible apply keeps_grpDown
    | with_reducible apply keeps_gfpFeed
    | fail_if_no_progress (with_reducible apply keeps_mk <;> first | exact .inl Fact.out | with_reducible exact .inr rfl | with_reducible rfl | skip)
    | with_reducible apply keeps_each
    | with_reducible apply keeps_foldl
    | split
    | intro _
    | (extract_lets +onlyGivenNames x; refine keeps_cut (x := x) ?_ ?_; on_goal 2 => clear_value x)
    | extract_lets +onlyGivenNames y)

theorem keeps_segStep [Fact (P .chs)] [Fact (P .fb)] [Fact (P .frs)] [Fact (P .gfps)] [Fact (P .grps)] [Fact (P .pairs)] [Fact (P .regs)] [Fact (P .rxs)] [Fact (P .sys)] [Fact (P .txs)] {s₀ s : State} (g : Nat) (hk : Keeps P s₀ s) : Keeps P s₀ (State.segStep s g) := by
  unfold State.segStep
  repeat' (first
    | with_reducible assumption
    | with_reducible exact Keeps.refl _
    | with_reducible apply keeps_segment
    | fail_if_no_progress (with_reducible apply keeps_mk <;> first | exact .inl Fact.out | with_reducible exact .inr rfl | with_reducible rfl | skip)
    | with_reducible apply keeps_each
    | with_reducible apply keeps_foldl
    | split)

theorem keeps_segRunGo [Fact (P .chs)] [Fact (P .fb)] [Fact (P .frs)] [Fact (P .gfps)] [Fact (P .grps)] [Fact (P .pairs)] [Fact (P .regs)] [Fact (P .rxs)] [Fact (P .sys)] [Fact (P .txs)] (g n : Nat) {s₀ s : State} (h : Keeps P s₀ s) : Keeps P s₀ (segRunGo g n s) := by
  induction n generalizing s with
  | zero => exact h
  | succ n ih => exact ih (keeps_segStep g h)

theorem keeps_segRun [Fact (P .chs)] [Fact (P .fb)] [Fact (P .frs)] [Fact (P .gfps)] [Fact (P .grps)] [Fact (P .pairs)] [Fact (P .regs)] [Fact (P .rxs)] [Fact (P .sys)] [Fact (P .txs)] {s₀ s : State} (g : Nat) (hk : Keeps P s₀ s) : Keeps P s₀ (State.segRun s g) := by
  unfold State.segRun
  repeat' (first
    | with_reducible assumption
    | with_reducible exact Keeps.refl _
    | with_reducible apply keeps_segRunGo
    | fail_if_no_progress (with_reducible apply keeps_mk <;> first | exact .inl Fact.out | with_reducible exact .inr rfl | with_reducible rfl | skip)
    | with_reducible apply keeps_each
    | with_reducible apply keeps_foldl
    | split)

theorem keeps_execGroupSegment [Fact (P .chs)] [Fact (P .fb)] [Fact (P .frs)] [Fact (P .gfps)] [Fact (P .grps)] [Fact (P .pairs)] [Fact (P .regs)] [Fact (P .rxs)] [Fact (P .sys)] [Fact (P .txs)] (g : Fin 16) (s : State) : Outs P s (execGroupSegment g s) := by
  unfold execGroupSegment
  apply outs_next
  repeat' (first
    | with_reducible assumption
    | with_reducible exact Keeps.refl _
    | with_reducible apply keeps_segStep)

theorem keeps_memberDown [Fact (P .chs)] [Fact (P .fb)] [Fact (P .frs)] [Fact (P .gfps)] [Fact (P .grps)] [Fact (P .pairs)] [Fact (P .regs)] [Fact (P .rxs)] [Fact (P .sys)] [Fact (P .txs)] {s₀ s : State} (j cause : Nat) (hk : Keeps P s₀ s) : Keeps P s₀ (State.memberDown s j cause) := by
  unfold State.memberDown
  repeat' (first
    | with_reducible assumption
    | with_reducible exact Keeps.refl _
    | with_reducible apply keeps_segRun
    | with_reducible apply keeps_grpDown
    | fail_if_no_progress (with_reducible apply keeps_mk <;> first | exact .inl Fact.out | with_reducible exact .inr rfl | with_reducible rfl | skip)
    | with_reducible apply keeps_each
    | with_reducible apply keeps_foldl
    | split)

end Sys2Proof.Laws
end

