-- ==== Sys2Proof/Laws/KeepsRiltor.lean ====
section
/-! SUPPORT. What the operations of Riltor.lean keep. -/

namespace Sys2Proof.Laws

open Sys2Proof.Machine

set_option Elab.async false

variable {P : Part → Prop}

theorem keeps_setSpare [Fact (P .spares)] {s₀ s : State} (p : Nat) (x : SpareSt) (hk : Keeps P s₀ s) : Keeps P s₀ (State.setSpare s p x) := by
  unfold State.setSpare
  repeat' (first
    | with_reducible assumption
    | with_reducible exact Keeps.refl _
    | fail_if_no_progress (with_reducible apply keeps_mk <;> first | exact .inl Fact.out | with_reducible exact .inr rfl | with_reducible rfl | skip))

theorem keeps_cutDeliver [Fact (P .chs)] [Fact (P .fb)] [Fact (P .frs)] [Fact (P .gfps)] [Fact (P .grps)] [Fact (P .pairs)] [Fact (P .regs)] [Fact (P .rxs)] [Fact (P .sys)] [Fact (P .txs)] {s₀ s : State} (j : Nat) (hk : Keeps P s₀ s) : Keeps P s₀ (State.cutDeliver s j) := by
  unfold State.cutDeliver
  repeat' (first
    | with_reducible assumption
    | with_reducible exact Keeps.refl _
    | with_reducible apply keeps_segRun
    | with_reducible apply keeps_gfpFeed
    | fail_if_no_progress (with_reducible apply keeps_mk <;> first | exact .inl Fact.out | with_reducible exact .inr rfl | with_reducible rfl | skip)
    | with_reducible apply keeps_each
    | with_reducible apply keeps_foldl
    | split
    | intro _
    | (extract_lets +onlyGivenNames x; refine keeps_cut (x := x) ?_ ?_; on_goal 2 => clear_value x)
    | extract_lets +onlyGivenNames y)

theorem keeps_frLeave [Fact (P .chs)] [Fact (P .fb)] [Fact (P .frs)] [Fact (P .gfps)] [Fact (P .grps)] [Fact (P .pairs)] [Fact (P .regs)] [Fact (P .rxs)] [Fact (P .sys)] [Fact (P .txs)] {s₀ s : State} (j next : Nat) (hk : Keeps P s₀ s) : Keeps P s₀ (State.frLeave s j next) := by
  unfold State.frLeave
  repeat' (first
    | with_reducible assumption
    | with_reducible exact Keeps.refl _
    | with_reducible apply keeps_cutDeliver
    | with_reducible apply keeps_bump
    | with_reducible apply keeps_setBit
    | with_reducible apply keeps_setFr
    | with_reducible apply keeps_wr
    | with_reducible apply keeps_memberDown
    | fail_if_no_progress (with_reducible apply keeps_mk <;> first | exact .inl Fact.out | with_reducible exact .inr rfl | with_reducible rfl | skip)
    | with_reducible apply keeps_each
    | with_reducible apply keeps_foldl
    | split
    | intro _
    | (extract_lets +onlyGivenNames x; refine keeps_cut (x := x) ?_ ?_; on_goal 2 => clear_value x)
    | extract_lets +onlyGivenNames y)

theorem keeps_frGap [Fact (P .chs)] [Fact (P .fb)] [Fact (P .frs)] [Fact (P .gfps)] [Fact (P .grps)] [Fact (P .pairs)] [Fact (P .regs)] [Fact (P .rxs)] [Fact (P .sys)] [Fact (P .txs)] {s₀ s : State} (j : Nat) (hk : Keeps P s₀ s) : Keeps P s₀ (State.frGap s j) := by
  unfold State.frGap
  repeat' (first
    | with_reducible assumption
    | with_reducible exact Keeps.refl _
    | with_reducible apply keeps_frLeave
    | with_reducible apply keeps_setFr)

theorem keeps_frBits [Fact (P .frs)] {s₀ s : State} (j : Nat) (l : List Byte) (hk : Keeps P s₀ s) : Keeps P s₀ (State.frBits s j l) := by
  unfold State.frBits
  repeat' (first
    | with_reducible assumption
    | with_reducible exact Keeps.refl _
    | with_reducible apply keeps_setFr
    | fail_if_no_progress (with_reducible apply keeps_mk <;> first | exact .inl Fact.out | with_reducible exact .inr rfl | with_reducible rfl | skip)
    | with_reducible apply keeps_each
    | with_reducible apply keeps_foldl
    | split)

theorem keeps_hdrAccept [Fact (P .chs)] [Fact (P .fb)] [Fact (P .frs)] [Fact (P .gfps)] [Fact (P .grps)] [Fact (P .pairs)] [Fact (P .regs)] [Fact (P .rxs)] [Fact (P .sys)] [Fact (P .txs)] {s₀ s : State} (j : Nat) (h : List Byte) (hk : Keeps P s₀ s) : Keeps P s₀ (State.hdrAccept s j h) := by
  unfold State.hdrAccept
  repeat' (first
    | with_reducible assumption
    | with_reducible exact Keeps.refl _
    | with_reducible apply keeps_setBit
    | with_reducible apply keeps_wr
    | with_reducible apply keeps_setFr
    | with_reducible apply keeps_memberDown
    | fail_if_no_progress (with_reducible apply keeps_mk <;> first | exact .inl Fact.out | with_reducible exact .inr rfl | with_reducible rfl | skip)
    | with_reducible apply keeps_each
    | with_reducible apply keeps_foldl
    | split
    | intro _
    | (extract_lets +onlyGivenNames x; refine keeps_cut (x := x) ?_ ?_; on_goal 2 => clear_value x)
    | extract_lets +onlyGivenNames y)

theorem keeps_ohExport [Fact (P .ohs)] [Fact (P .regs)] {s₀ s : State} (j v : Nat) (hk : Keeps P s₀ s) : Keeps P s₀ (State.ohExport s j v) := by
  unfold State.ohExport
  repeat' (first
    | with_reducible assumption
    | with_reducible exact Keeps.refl _
    | with_reducible apply keeps_each
    | with_reducible apply keeps_bump
    | fail_if_no_progress (with_reducible apply keeps_mk <;> first | exact .inl Fact.out | with_reducible exact .inr rfl | with_reducible rfl | skip)
    | with_reducible apply keeps_each
    | with_reducible apply keeps_foldl
    | split
    | intro _
    | (extract_lets +onlyGivenNames x; refine keeps_cut (x := x) ?_ ?_; on_goal 2 => clear_value x)
    | extract_lets +onlyGivenNames y)

theorem keeps_remoteCross [Fact (P .regs)] {s₀ s : State} (g j : Nat) (tx : Bool) (hk : Keeps P s₀ s) : Keeps P s₀ (State.remoteCross s g j tx) := by
  unfold State.remoteCross
  repeat' (first
    | with_reducible assumption
    | with_reducible exact Keeps.refl _
    | with_reducible apply keeps_crossed
    | fail_if_no_progress (with_reducible apply keeps_mk <;> first | exact .inl Fact.out | with_reducible exact .inr rfl | with_reducible rfl | skip)
    | with_reducible apply keeps_each
    | with_reducible apply keeps_foldl
    | split
    | intro _
    | (extract_lets +onlyGivenNames x; refine keeps_cut (x := x) ?_ ?_; on_goal 2 => clear_value x)
    | extract_lets +onlyGivenNames y)

theorem keeps_frameBody [Fact (P .frs)] [Fact (P .grps)] [Fact (P .ny)] [Fact (P .ohs)] [Fact (P .pairs)] [Fact (P .regs)] {s₀ s : State} (j mfc : Nat) (good : Bool) (t : Nat) (h body : List Byte) (hk : Keeps P s₀ s) : Keeps P s₀ (State.frameBody s j mfc good t h body) := by
  unfold State.frameBody
  repeat' (first
    | with_reducible assumption
    | with_reducible exact Keeps.refl _
    | with_reducible apply keeps_setFr
    | with_reducible apply keeps_bump64
    | with_reducible apply keeps_eyeCount
    | with_reducible apply keeps_swrReceived
    | with_reducible apply keeps_ohExport
    | with_reducible apply keeps_segSeen
    | with_reducible apply keeps_remoteCross
    | fail_if_no_progress (with_reducible apply keeps_mk <;> first | exact .inl Fact.out | with_reducible exact .inr rfl | with_reducible rfl | skip)
    | with_reducible apply keeps_each
    | with_reducible apply keeps_foldl
    | split
    | intro _
    | (extract_lets +onlyGivenNames x; refine keeps_cut (x := x) ?_ ?_; on_goal 2 => clear_value x)
    | extract_lets +onlyGivenNames y)

theorem keeps_syncHeader [Fact (P .cc)] [Fact (P .chs)] [Fact (P .fb)] [Fact (P .frs)] [Fact (P .gfps)] [Fact (P .grps)] [Fact (P .pairs)] [Fact (P .regs)] [Fact (P .rxs)] [Fact (P .sys)] [Fact (P .txs)] {s₀ s : State} (j : Nat) (h : List Byte) (hk : Keeps P s₀ s) : Keeps P s₀ (State.syncHeader s j h) := by
  unfold State.syncHeader
  repeat' (first
    | with_reducible assumption
    | with_reducible exact Keeps.refl _
    | with_reducible apply keeps_want
    | with_reducible apply keeps_wr
    | with_reducible apply keeps_bump
    | with_reducible apply keeps_memberDown
    | with_reducible apply keeps_hdrAccept
    | with_reducible apply keeps_setFr
    | with_reducible apply keeps_frLeave
    | fail_if_no_progress (with_reducible apply keeps_mk <;> first | exact .inl Fact.out | with_reducible exact .inr rfl | with_reducible rfl | skip)
    | with_reducible apply keeps_each
    | with_reducible apply keeps_foldl
    | split
    | intro _
    | (extract_lets +onlyGivenNames x; refine keeps_cut (x := x) ?_ ?_; on_goal 2 => clear_value x)
    | extract_lets +onlyGivenNames y)

theorem keeps_trackHeader [Fact (P .chs)] [Fact (P .fb)] [Fact (P .frs)] [Fact (P .gfps)] [Fact (P .grps)] [Fact (P .pairs)] [Fact (P .regs)] [Fact (P .rxs)] [Fact (P .sys)] [Fact (P .txs)] {s₀ s : State} (j : Nat) (h : List Byte) (hk : Keeps P s₀ s) : Keeps P s₀ (State.trackHeader s j h) := by
  unfold State.trackHeader
  repeat' (first
    | with_reducible assumption
    | with_reducible exact Keeps.refl _
    | with_reducible apply keeps_setFr
    | with_reducible apply keeps_wr
    | with_reducible apply keeps_setBit
    | with_reducible apply keeps_hdrAccept
    | fail_if_no_progress (with_reducible apply keeps_mk <;> first | exact .inl Fact.out | with_reducible exact .inr rfl | with_reducible rfl | skip)
    | with_reducible apply keeps_each
    | with_reducible apply keeps_foldl
    | split
    | intro _
    | (extract_lets +onlyGivenNames x; refine keeps_cut (x := x) ?_ ?_; on_goal 2 => clear_value x)
    | extract_lets +onlyGivenNames y)

theorem keeps_frScan [Fact (P .chs)] [Fact (P .fb)] [Fact (P .frs)] [Fact (P .gfps)] [Fact (P .grps)] [Fact (P .pairs)] [Fact (P .regs)] [Fact (P .rxs)] [Fact (P .sys)] [Fact (P .txs)] (j n : Nat) {s₀ s : State} (h : Keeps P s₀ s) : Keeps P s₀ (frScan j n s) := by
  induction n generalizing s with
  | zero => exact h
  | succ n ih =>
    unfold frScan
    dsimp only
    split
    · exact h
    · split
      · exact keeps_trackHeader _ _ h
      · exact ih (keeps_setFr _ _ h)

theorem keeps_frameEnd [Fact (P .frs)] [Fact (P .grps)] [Fact (P .ny)] [Fact (P .ohs)] [Fact (P .pairs)] [Fact (P .regs)] {s₀ s : State} (j : Nat) (hk : Keeps P s₀ s) : Keeps P s₀ (State.frameEnd s j) := by
  unfold State.frameEnd
  repeat' (first
    | with_reducible assumption
    | with_reducible exact Keeps.refl _
    | with_reducible apply keeps_setFr
    | with_reducible apply keeps_frameBody
    | fail_if_no_progress (with_reducible apply keeps_mk <;> first | exact .inl Fact.out | with_reducible exact .inr rfl | with_reducible rfl | skip)
    | with_reducible apply keeps_each
    | with_reducible apply keeps_foldl
    | split
    | intro _
    | (extract_lets +onlyGivenNames x; refine keeps_cut (x := x) ?_ ?_; on_goal 2 => clear_value x)
    | extract_lets +onlyGivenNames y)

theorem keeps_headerCheck [Fact (P .cc)] [Fact (P .chs)] [Fact (P .fb)] [Fact (P .frs)] [Fact (P .gfps)] [Fact (P .grps)] [Fact (P .ny)] [Fact (P .ohs)] [Fact (P .pairs)] [Fact (P .regs)] [Fact (P .rxs)] [Fact (P .sys)] [Fact (P .txs)] {s₀ s : State} (j n : Nat) (hk : Keeps P s₀ s) : Keeps P s₀ (State.headerCheck s j n) := by
  unfold State.headerCheck
  repeat' (first
    | with_reducible assumption
    | with_reducible exact Keeps.refl _
    | with_reducible apply keeps_frameEnd
    | with_reducible apply keeps_syncHeader
    | with_reducible apply keeps_frScan
    | fail_if_no_progress (with_reducible apply keeps_mk <;> first | exact .inl Fact.out | with_reducible exact .inr rfl | with_reducible rfl | skip)
    | with_reducible apply keeps_each
    | with_reducible apply keeps_foldl
    | split
    | intro _
    | (extract_lets +onlyGivenNames x; refine keeps_cut (x := x) ?_ ?_; on_goal 2 => clear_value x)
    | extract_lets +onlyGivenNames y)

theorem keeps_execRiltorHeaderCheck [Fact (P .cc)] [Fact (P .chs)] [Fact (P .fb)] [Fact (P .frs)] [Fact (P .gfps)] [Fact (P .grps)] [Fact (P .ny)] [Fact (P .ohs)] [Fact (P .pairs)] [Fact (P .regs)] [Fact (P .rxs)] [Fact (P .sys)] [Fact (P .txs)] (p : Fin 4) (l : Fin 8) (n : Nat) (b : Fin 256) (s : State) : Outs P s (execRiltorHeaderCheck p l n b s) := by
  unfold execRiltorHeaderCheck
  apply outs_next
  repeat' (first
    | with_reducible assumption
    | with_reducible exact Keeps.refl _
    | with_reducible apply keeps_headerCheck
    | with_reducible apply keeps_pairsEval
    | fail_if_no_progress (with_reducible apply keeps_mk <;> first | exact .inl Fact.out | with_reducible exact .inr rfl | with_reducible rfl | skip)
    | with_reducible apply keeps_each
    | with_reducible apply keeps_foldl
    | split)

theorem keeps_passHeader [Fact (P .chs)] [Fact (P .fb)] [Fact (P .frs)] [Fact (P .gfps)] [Fact (P .grps)] [Fact (P .pairs)] [Fact (P .regs)] [Fact (P .rxs)] [Fact (P .sys)] [Fact (P .txs)] {s₀ s : State} (j : Nat) (hk : Keeps P s₀ s) : Keeps P s₀ (State.passHeader s j) := by
  unfold State.passHeader
  repeat' (first
    | with_reducible assumption
    | with_reducible exact Keeps.refl _
    | with_reducible apply keeps_cutDeliver
    | with_reducible apply keeps_setFr
    | fail_if_no_progress (with_reducible apply keeps_mk <;> first | exact .inl Fact.out | with_reducible exact .inr rfl | with_reducible rfl | skip)
    | with_reducible apply keeps_each
    | with_reducible apply keeps_foldl
    | split)

theorem keeps_frCfg [Fact (P .chs)] [Fact (P .fb)] [Fact (P .frs)] [Fact (P .gfps)] [Fact (P .grps)] [Fact (P .pairs)] [Fact (P .regs)] [Fact (P .rxs)] [Fact (P .sys)] [Fact (P .txs)] {s₀ s : State} (j v : Nat) (hk : Keeps P s₀ s) : Keeps P s₀ (State.frCfg s j v) := by
  unfold State.frCfg
  repeat' (first
    | with_reducible assumption
    | with_reducible exact Keeps.refl _
    | with_reducible apply keeps_writePlain
    | with_reducible apply keeps_passHeader
    | with_reducible apply keeps_frLeave
    | fail_if_no_progress (with_reducible apply keeps_mk <;> first | exact .inl Fact.out | with_reducible exact .inr rfl | with_reducible rfl | skip)
    | with_reducible apply keeps_each
    | with_reducible apply keeps_foldl
    | split)

theorem keeps_execRehunt [Fact (P .chs)] [Fact (P .fab)] [Fact (P .fb)] [Fact (P .frs)] [Fact (P .gfps)] [Fact (P .grps)] [Fact (P .pairs)] [Fact (P .regs)] [Fact (P .rxs)] [Fact (P .sp)] [Fact (P .sys)] [Fact (P .txs)] (w : Who) (j : Fin 32) (s : State) : Outs P s (execRehunt w j s) := by
  unfold execRehunt
  apply outs_next
  repeat' (first
    | with_reducible assumption
    | with_reducible exact Keeps.refl _
    | with_reducible apply keeps_guardWrite
    | with_reducible apply keeps_frCfg
    | fail_if_no_progress (with_reducible apply keeps_mk <;> first | exact .inl Fact.out | with_reducible exact .inr rfl | with_reducible rfl | skip)
    | with_reducible apply keeps_each
    | with_reducible apply keeps_foldl
    | split
    | intro _)

theorem keeps_execGfpCoreHeader [Fact (P .chs)] [Fact (P .fb)] [Fact (P .gfps)] [Fact (P .pairs)] [Fact (P .regs)] [Fact (P .rxs)] [Fact (P .sys)] [Fact (P .txs)] (c : Fin 32) (s : State) : Outs P s (execGfpCoreHeader c s) := by
  unfold execGfpCoreHeader
  apply outs_next
  repeat' (first
    | with_reducible assumption
    | with_reducible exact Keeps.refl _
    | with_reducible apply keeps_coreStep
    | with_reducible apply keeps_pairsEval
    | fail_if_no_progress (with_reducible apply keeps_mk <;> first | exact .inl Fact.out | with_reducible exact .inr rfl | with_reducible rfl | skip)
    | with_reducible apply keeps_each
    | with_reducible apply keeps_foldl
    | split)

theorem keeps_execGfpFrameReceived [Fact (P .gfps)] [Fact (P .regs)] (c : Fin 32) (s : State) : Outs P s (execGfpFrameReceived c s) := by
  unfold execGfpFrameReceived
  apply outs_next
  repeat' (first
    | with_reducible assumption
    | with_reducible exact Keeps.refl _
    | with_reducible apply keeps_gfpFrame
    | fail_if_no_progress (with_reducible apply keeps_mk <;> first | exact .inl Fact.out | with_reducible exact .inr rfl | with_reducible rfl | skip)
    | with_reducible apply keeps_each
    | with_reducible apply keeps_foldl
    | split)

theorem keeps_execGfpLinkUp [Fact (P .regs)] [Fact (P .tm)] (c : Fin 32) (s : State) : Outs P s (execGfpLinkUp c s) := by
  unfold execGfpLinkUp
  apply outs_next
  repeat' (first
    | with_reducible assumption
    | with_reducible exact Keeps.refl _
    | with_reducible apply keeps_advanceTo
    | with_reducible apply keeps_raise
    | fail_if_no_progress (with_reducible apply keeps_mk <;> first | exact .inl Fact.out | with_reducible exact .inr rfl | with_reducible rfl | skip)
    | with_reducible apply keeps_each
    | with_reducible apply keeps_foldl
    | split)

theorem keeps_gfpQueue [Fact (P .gfps)] [Fact (P .grps)] {s₀ s : State} (g c : Nat) (l : List Byte) (hk : Keeps P s₀ s) : Keeps P s₀ (State.gfpQueue s g c l) := by
  unfold State.gfpQueue
  repeat' (first
    | with_reducible assumption
    | with_reducible exact Keeps.refl _
    | with_reducible apply keeps_setGrp
    | with_reducible apply keeps_setGfp)

theorem keeps_padTo [Fact (P .grps)] {s₀ s : State} (g p : Nat) (hk : Keeps P s₀ s) : Keeps P s₀ (State.padTo s g p) := by
  unfold State.padTo
  repeat' (first
    | with_reducible assumption
    | with_reducible exact Keeps.refl _
    | with_reducible apply keeps_setGrp
    | fail_if_no_progress (with_reducible apply keeps_mk <;> first | exact .inl Fact.out | with_reducible exact .inr rfl | with_reducible rfl | skip)
    | with_reducible apply keeps_each
    | with_reducible apply keeps_foldl
    | split
    | intro _
    | (extract_lets +onlyGivenNames x; refine keeps_cut (x := x) ?_ ?_; on_goal 2 => clear_value x)
    | extract_lets +onlyGivenNames y)

end Sys2Proof.Laws
end

