-- ==== Sys2Proof/Laws/KeepsLanes.lean ====
section
/-! SUPPORT. What the operations of Lanes.lean keep. -/

namespace Sys2Proof.Laws

open Sys2Proof.Machine

set_option Elab.async false

variable {P : Part → Prop}

theorem keeps_markGap [Fact (P .sys)] {s₀ s : State} (x : Nat) (hk : Keeps P s₀ s) : Keeps P s₀ (State.markGap s x) := by
  unfold State.markGap
  repeat' (first
    | with_reducible assumption
    | with_reducible exact Keeps.refl _
    | fail_if_no_progress (with_reducible apply keeps_mk <;> first | exact .inl Fact.out | with_reducible exact .inr rfl | with_reducible rfl | skip)
    | with_reducible apply keeps_each
    | with_reducible apply keeps_foldl
    | split)

theorem keeps_legWrite [Fact (P .regs)] [Fact (P .sys)] {s₀ s : State} (x : Nat) (d : List Byte) (w : RxWord) (hk : Keeps P s₀ s) : Keeps P s₀ (State.legWrite s x d w) := by
  unfold State.legWrite
  repeat' (first
    | with_reducible assumption
    | with_reducible exact Keeps.refl _
    | with_reducible apply keeps_bump
    | with_reducible apply keeps_markGap
    | with_reducible apply keeps_crossed
    | fail_if_no_progress (with_reducible apply keeps_mk <;> first | exact .inl Fact.out | with_reducible exact .inr rfl | with_reducible rfl | skip)
    | with_reducible apply keeps_each
    | with_reducible apply keeps_foldl
    | split
    | intro _
    | (extract_lets +onlyGivenNames x; refine keeps_cut (x := x) ?_ ?_; on_goal 2 => clear_value x)
    | extract_lets +onlyGivenNames y)

theorem keeps_linkDrop [Fact (P .regs)] {s₀ s : State} (c : Nat) (hk : Keeps P s₀ s) : Keeps P s₀ (State.linkDrop s c) := by
  unfold State.linkDrop
  repeat' (first
    | with_reducible assumption
    | with_reducible exact Keeps.refl _
    | with_reducible apply keeps_wr
    | with_reducible apply keeps_setBit
    | with_reducible apply keeps_bump
    | fail_if_no_progress (with_reducible apply keeps_mk <;> first | exact .inl Fact.out | with_reducible exact .inr rfl | with_reducible rfl | skip)
    | with_reducible apply keeps_each
    | with_reducible apply keeps_foldl
    | split)

theorem keeps_chanLeave [Fact (P .chs)] [Fact (P .regs)] {s₀ s : State} (c next : Nat) (hk : Keeps P s₀ s) : Keeps P s₀ (State.chanLeave s c next) := by
  unfold State.chanLeave
  repeat' (first
    | with_reducible assumption
    | with_reducible exact Keeps.refl _
    | with_reducible apply keeps_linkDrop
    | with_reducible apply keeps_wr
    | with_reducible apply keeps_setCh
    | fail_if_no_progress (with_reducible apply keeps_mk <;> first | exact .inl Fact.out | with_reducible exact .inr rfl | with_reducible rfl | skip)
    | with_reducible apply keeps_each
    | with_reducible apply keeps_foldl
    | split)

theorem keeps_chanRefresh [Fact (P .chs)] [Fact (P .regs)] {s₀ s : State} (c : Nat) (hk : Keeps P s₀ s) : Keeps P s₀ (State.chanRefresh s c) := by
  unfold State.chanRefresh
  repeat' (first
    | with_reducible assumption
    | with_reducible exact Keeps.refl _
    | with_reducible apply keeps_chanLeave
    | with_reducible apply keeps_wr
    | fail_if_no_progress (with_reducible apply keeps_mk <;> first | exact .inl Fact.out | with_reducible exact .inr rfl | with_reducible rfl | skip)
    | with_reducible apply keeps_each
    | with_reducible apply keeps_foldl
    | split
    | intro _
    | (extract_lets +onlyGivenNames x; refine keeps_cut (x := x) ?_ ?_; on_goal 2 => clear_value x)
    | extract_lets +onlyGivenNames y)

theorem keeps_chanStop [Fact (P .chs)] [Fact (P .fb)] [Fact (P .free)] [Fact (P .led)] [Fact (P .qs)] [Fact (P .regs)] [Fact (P .sys)] [Fact (P .txs)] {s₀ s : State} (c : Nat) (hk : Keeps P s₀ s) : Keeps P s₀ (State.chanStop s c) := by
  unfold State.chanStop
  repeat' (first
    | with_reducible assumption
    | with_reducible exact Keeps.refl _
    | with_reducible apply keeps_dropStaged
    | with_reducible apply keeps_setCh)

theorem keeps_refreshIdle [Fact (P .regs)] {s₀ s : State} (p : Nat) (hk : Keeps P s₀ s) : Keeps P s₀ (State.refreshIdle s p) := by
  unfold State.refreshIdle
  repeat' (first
    | with_reducible assumption
    | with_reducible exact Keeps.refl _
    | with_reducible apply keeps_each
    | with_reducible apply keeps_put
    | fail_if_no_progress (with_reducible apply keeps_mk <;> first | exact .inl Fact.out | with_reducible exact .inr rfl | with_reducible rfl | skip)
    | with_reducible apply keeps_each
    | with_reducible apply keeps_foldl
    | split
    | intro _)

theorem keeps_frRefresh [Fact (P .chs)] [Fact (P .fb)] [Fact (P .frs)] [Fact (P .gfps)] [Fact (P .grps)] [Fact (P .pairs)] [Fact (P .regs)] [Fact (P .rxs)] [Fact (P .sys)] [Fact (P .txs)] {s₀ s : State} (p l : Nat) (hk : Keeps P s₀ s) : Keeps P s₀ (State.frRefresh s p l) := by
  unfold State.frRefresh
  repeat' (first
    | with_reducible assumption
    | with_reducible exact Keeps.refl _
    | with_reducible apply keeps_wr
    | with_reducible apply keeps_frLeave
    | fail_if_no_progress (with_reducible apply keeps_mk <;> first | exact .inl Fact.out | with_reducible exact .inr rfl | with_reducible rfl | skip)
    | with_reducible apply keeps_each
    | with_reducible apply keeps_foldl
    | split
    | intro _
    | (extract_lets +onlyGivenNames x; refine keeps_cut (x := x) ?_ ?_; on_goal 2 => clear_value x)
    | extract_lets +onlyGivenNames y)

theorem keeps_portRefresh [Fact (P .chs)] [Fact (P .fb)] [Fact (P .frs)] [Fact (P .gfps)] [Fact (P .grps)] [Fact (P .pairs)] [Fact (P .regs)] [Fact (P .rxs)] [Fact (P .sys)] [Fact (P .txs)] {s₀ s : State} (p : Nat) (hk : Keeps P s₀ s) : Keeps P s₀ (State.portRefresh s p) := by
  unfold State.portRefresh
  repeat' (first
    | with_reducible assumption
    | with_reducible exact Keeps.refl _
    | with_reducible apply keeps_each
    | with_reducible apply keeps_frRefresh
    | with_reducible apply keeps_chanRefresh
    | with_reducible apply keeps_refreshIdle
    | with_reducible apply keeps_pairsEval
    | fail_if_no_progress (with_reducible apply keeps_mk <;> first | exact .inl Fact.out | with_reducible exact .inr rfl | with_reducible rfl | skip)
    | with_reducible apply keeps_each
    | with_reducible apply keeps_foldl
    | split
    | intro _)

theorem keeps_applyLanes [Fact (P .lanes)] [Fact (P .regs)] {s₀ s : State}  (hk : Keeps P s₀ s) : Keeps P s₀ (State.applyLanes s) := by
  unfold State.applyLanes
  repeat' (first
    | with_reducible assumption
    | with_reducible exact Keeps.refl _
    | with_reducible apply keeps_each
    | with_reducible apply keeps_wr
    | with_reducible apply keeps_setLane
    | fail_if_no_progress (with_reducible apply keeps_mk <;> first | exact .inl Fact.out | with_reducible exact .inr rfl | with_reducible rfl | skip)
    | with_reducible apply keeps_each
    | with_reducible apply keeps_foldl
    | split
    | intro _
    | (extract_lets +onlyGivenNames x; refine keeps_cut (x := x) ?_ ?_; on_goal 2 => clear_value x))

theorem keeps_posHit [Fact (P .chs)] [Fact (P .fb)] [Fact (P .frs)] [Fact (P .gfps)] [Fact (P .grps)] [Fact (P .pairs)] [Fact (P .regs)] [Fact (P .rxs)] [Fact (P .sys)] [Fact (P .txs)] {s₀ s : State} (p l : Nat) (hk : Keeps P s₀ s) : Keeps P s₀ (State.posHit s p l) := by
  unfold State.posHit
  repeat' (first
    | with_reducible assumption
    | with_reducible exact Keeps.refl _
    | with_reducible apply keeps_frGap
    | with_reducible apply keeps_setCh
    | with_reducible apply keeps_chanLeave
    | fail_if_no_progress (with_reducible apply keeps_mk <;> first | exact .inl Fact.out | with_reducible exact .inr rfl | with_reducible rfl | skip)
    | with_reducible apply keeps_each
    | with_reducible apply keeps_foldl
    | split)

theorem keeps_spareEnd [Fact (P .chs)] [Fact (P .fb)] [Fact (P .frs)] [Fact (P .gfps)] [Fact (P .grps)] [Fact (P .lanes)] [Fact (P .pairs)] [Fact (P .regs)] [Fact (P .rxs)] [Fact (P .spares)] [Fact (P .sys)] [Fact (P .txs)] {s₀ s : State} (p result : Nat) (hk : Keeps P s₀ s) : Keeps P s₀ (State.spareEnd s p result) := by
  unfold State.spareEnd
  repeat' (first
    | with_reducible assumption
    | with_reducible exact Keeps.refl _
    | with_reducible apply keeps_wr
    | with_reducible apply keeps_setBit
    | with_reducible apply keeps_setSpare
    | with_reducible apply keeps_setLane
    | with_reducible apply keeps_posHit
    | with_reducible apply keeps_portRefresh
    | with_reducible apply keeps_refreshIdle
    | fail_if_no_progress (with_reducible apply keeps_mk <;> first | exact .inl Fact.out | with_reducible exact .inr rfl | with_reducible rfl | skip)
    | with_reducible apply keeps_each
    | with_reducible apply keeps_foldl
    | split
    | intro _
    | (extract_lets +onlyGivenNames x; refine keeps_cut (x := x) ?_ ?_; on_goal 2 => clear_value x)
    | extract_lets +onlyGivenNames y)

theorem keeps_spareDown [Fact (P .chs)] [Fact (P .fb)] [Fact (P .frs)] [Fact (P .gfps)] [Fact (P .grps)] [Fact (P .lanes)] [Fact (P .pairs)] [Fact (P .regs)] [Fact (P .rxs)] [Fact (P .spares)] [Fact (P .sys)] [Fact (P .txs)] {s₀ s : State} (p : Nat) (hk : Keeps P s₀ s) : Keeps P s₀ (State.spareDown s p) := by
  unfold State.spareDown
  repeat' (first
    | with_reducible assumption
    | with_reducible exact Keeps.refl _
    | with_reducible apply keeps_spareEnd
    | fail_if_no_progress (with_reducible apply keeps_mk <;> first | exact .inl Fact.out | with_reducible exact .inr rfl | with_reducible rfl | skip)
    | with_reducible apply keeps_each
    | with_reducible apply keeps_foldl
    | split)

theorem keeps_spareEvac [Fact (P .chs)] [Fact (P .fb)] [Fact (P .frs)] [Fact (P .gfps)] [Fact (P .grps)] [Fact (P .lanes)] [Fact (P .pairs)] [Fact (P .regs)] [Fact (P .rxs)] [Fact (P .spares)] [Fact (P .sys)] [Fact (P .txs)] {s₀ s : State} (p : Nat) (hk : Keeps P s₀ s) : Keeps P s₀ (State.spareEvac s p) := by
  unfold State.spareEvac
  repeat' (first
    | with_reducible assumption
    | with_reducible exact Keeps.refl _
    | with_reducible apply keeps_spareEnd
    | fail_if_no_progress (with_reducible apply keeps_mk <;> first | exact .inl Fact.out | with_reducible exact .inr rfl | with_reducible rfl | skip)
    | with_reducible apply keeps_each
    | with_reducible apply keeps_foldl
    | split)

theorem keeps_laneClk [Fact (P .regs)] {s₀ s : State} (i : Nat) (b : Bool) (hk : Keeps P s₀ s) : Keeps P s₀ (State.laneClk s i b) := by
  unfold State.laneClk
  repeat' (first
    | with_reducible assumption
    | with_reducible exact Keeps.refl _
    | with_reducible apply keeps_put
    | with_reducible apply keeps_putBit
    | fail_if_no_progress (with_reducible apply keeps_mk <;> first | exact .inl Fact.out | with_reducible exact .inr rfl | with_reducible rfl | skip)
    | with_reducible apply keeps_each
    | with_reducible apply keeps_foldl
    | split)

theorem keeps_execLaneUp [Fact (P .chs)] [Fact (P .fb)] [Fact (P .frs)] [Fact (P .gfps)] [Fact (P .grps)] [Fact (P .lanes)] [Fact (P .pairs)] [Fact (P .regs)] [Fact (P .rxs)] [Fact (P .sys)] [Fact (P .tm)] [Fact (P .txs)] (i : Fin 36) (s : State) : Outs P s (execLaneUp i s) := by
  unfold execLaneUp
  apply outs_next
  repeat' (first
    | with_reducible assumption
    | with_reducible exact Keeps.refl _
    | with_reducible apply keeps_laneClk
    | with_reducible apply keeps_wr
    | with_reducible apply keeps_setLane
    | with_reducible apply keeps_advanceTo
    | with_reducible apply keeps_setBit
    | with_reducible apply keeps_portRefresh
    | fail_if_no_progress (with_reducible apply keeps_mk <;> first | exact .inl Fact.out | with_reducible exact .inr rfl | with_reducible rfl | skip)
    | with_reducible apply keeps_each
    | with_reducible apply keeps_foldl
    | split
    | intro _
    | (extract_lets +onlyGivenNames x; refine keeps_cut (x := x) ?_ ?_; on_goal 2 => clear_value x)
    | extract_lets +onlyGivenNames y)

theorem keeps_laneDrop [Fact (P .chs)] [Fact (P .fb)] [Fact (P .frs)] [Fact (P .gfps)] [Fact (P .grps)] [Fact (P .lanes)] [Fact (P .pairs)] [Fact (P .regs)] [Fact (P .rxs)] [Fact (P .spares)] [Fact (P .sys)] [Fact (P .txs)] {s₀ s : State} (i : Nat) (hk : Keeps P s₀ s) : Keeps P s₀ (State.laneDrop s i) := by
  unfold State.laneDrop
  repeat' (first
    | with_reducible assumption
    | with_reducible exact Keeps.refl _
    | with_reducible apply keeps_wr
    | with_reducible apply keeps_bump
    | with_reducible apply keeps_setBit
    | with_reducible apply keeps_markGap
    | with_reducible apply keeps_each
    | with_reducible apply keeps_spareDown
    | fail_if_no_progress (with_reducible apply keeps_mk <;> first | exact .inl Fact.out | with_reducible exact .inr rfl | with_reducible rfl | skip)
    | with_reducible apply keeps_each
    | with_reducible apply keeps_foldl
    | split
    | intro _
    | (extract_lets +onlyGivenNames x; refine keeps_cut (x := x) ?_ ?_; on_goal 2 => clear_value x)
    | extract_lets +onlyGivenNames y)

theorem keeps_execLaneDown [Fact (P .chs)] [Fact (P .fb)] [Fact (P .frs)] [Fact (P .gfps)] [Fact (P .grps)] [Fact (P .lanes)] [Fact (P .pairs)] [Fact (P .regs)] [Fact (P .rxs)] [Fact (P .spares)] [Fact (P .sys)] [Fact (P .txs)] (i : Fin 36) (sd lock rxClk txClk : Bool) (s : State) : Outs P s (execLaneDown i sd lock rxClk txClk s) := by
  unfold execLaneDown
  apply outs_next
  repeat' (first
    | with_reducible assumption
    | with_reducible exact Keeps.refl _
    | with_reducible apply keeps_laneClk
    | with_reducible apply keeps_put
    | with_reducible apply keeps_setLane
    | with_reducible apply keeps_laneDrop
    | with_reducible apply keeps_portRefresh
    | fail_if_no_progress (with_reducible apply keeps_mk <;> first | exact .inl Fact.out | with_reducible exact .inr rfl | with_reducible rfl | skip)
    | with_reducible apply keeps_each
    | with_reducible apply keeps_foldl
    | split
    | intro _
    | (extract_lets +onlyGivenNames x; refine keeps_cut (x := x) ?_ ?_; on_goal 2 => clear_value x)
    | extract_lets +onlyGivenNames y)

theorem keeps_fecCount [Fact (P .ny)] [Fact (P .regs)] {s₀ s : State} (i : Nat) (x : RxWord) (hk : Keeps P s₀ s) : Keeps P s₀ (State.fecCount s i x) := by
  unfold State.fecCount
  repeat' (first
    | with_reducible assumption
    | with_reducible exact Keeps.refl _
    | with_reducible apply keeps_bump
    | with_reducible apply keeps_put
    | with_reducible apply keeps_bump64
    | fail_if_no_progress (with_reducible apply keeps_mk <;> first | exact .inl Fact.out | with_reducible exact .inr rfl | with_reducible rfl | skip)
    | with_reducible apply keeps_each
    | with_reducible apply keeps_foldl
    | split
    | intro _
    | (extract_lets +onlyGivenNames x; refine keeps_cut (x := x) ?_ ?_; on_goal 2 => clear_value x)
    | extract_lets +onlyGivenNames y)

theorem keeps_confirmWord [Fact (P .regs)] [Fact (P .spares)] {s₀ s : State} (p : Nat) (hk : Keeps P s₀ s) : Keeps P s₀ (State.confirmWord s p) := by
  unfold State.confirmWord
  repeat' (first
    | with_reducible assumption
    | with_reducible exact Keeps.refl _
    | with_reducible apply keeps_setSpare
    | with_reducible apply keeps_wr
    | with_reducible apply keeps_bump
    | fail_if_no_progress (with_reducible apply keeps_mk <;> first | exact .inl Fact.out | with_reducible exact .inr rfl | with_reducible rfl | skip)
    | with_reducible apply keeps_each
    | with_reducible apply keeps_foldl
    | split
    | intro _
    | (extract_lets +onlyGivenNames x; refine keeps_cut (x := x) ?_ ?_; on_goal 2 => clear_value x)
    | extract_lets +onlyGivenNames y)

theorem keeps_posWord [Fact (P .chs)] [Fact (P .fb)] [Fact (P .frs)] [Fact (P .gfps)] [Fact (P .grps)] [Fact (P .pairs)] [Fact (P .regs)] [Fact (P .rxs)] [Fact (P .sys)] [Fact (P .txs)] {s₀ s : State} (p l : Nat) (gap : Bool) (d : List Byte) (hk : Keeps P s₀ s) : Keeps P s₀ (State.posWord s p l gap d) := by
  unfold State.posWord
  repeat' (first
    | with_reducible assumption
    | with_reducible exact Keeps.refl _
    | with_reducible apply keeps_frGap
    | with_reducible apply keeps_frBits
    | with_reducible apply keeps_pairsEval
    | with_reducible apply keeps_setCh
    | fail_if_no_progress (with_reducible apply keeps_mk <;> first | exact .inl Fact.out | with_reducible exact .inr rfl | with_reducible rfl | skip)
    | with_reducible apply keeps_each
    | with_reducible apply keeps_foldl
    | split)

theorem keeps_laneRead [Fact (P .chs)] [Fact (P .fb)] [Fact (P .frs)] [Fact (P .gfps)] [Fact (P .grps)] [Fact (P .lanes)] [Fact (P .ny)] [Fact (P .pairs)] [Fact (P .regs)] [Fact (P .rxs)] [Fact (P .spares)] [Fact (P .sys)] [Fact (P .txs)] {s₀ s : State} (i : Nat) (w : LegWord) (hk : Keeps P s₀ s) : Keeps P s₀ (State.laneRead s i w) := by
  unfold State.laneRead
  repeat' (first
    | with_reducible assumption
    | with_reducible exact Keeps.refl _
    | with_reducible apply keeps_setLane
    | with_reducible apply keeps_fecCount
    | with_reducible apply keeps_confirmWord
    | with_reducible apply keeps_posWord
    | fail_if_no_progress (with_reducible apply keeps_mk <;> first | exact .inl Fact.out | with_reducible exact .inr rfl | with_reducible rfl | skip)
    | with_reducible apply keeps_each
    | with_reducible apply keeps_foldl
    | split
    | intro _
    | (extract_lets +onlyGivenNames x; refine keeps_cut (x := x) ?_ ?_; on_goal 2 => clear_value x)
    | extract_lets +onlyGivenNames y)

theorem keeps_shadowRead [Fact (P .sys)] {s₀ s : State} (x : Nat) (w : LegWord) (hk : Keeps P s₀ s) : Keeps P s₀ (State.shadowRead s x w) := by
  unfold State.shadowRead
  repeat' (first
    | with_reducible assumption
    | with_reducible exact Keeps.refl _
    | with_reducible apply keeps_markGap
    | fail_if_no_progress (with_reducible apply keeps_mk <;> first | exact .inl Fact.out | with_reducible exact .inr rfl | with_reducible rfl | skip)
    | with_reducible apply keeps_each
    | with_reducible apply keeps_foldl
    | split)

theorem keeps_legDrain [Fact (P .chs)] [Fact (P .fb)] [Fact (P .frs)] [Fact (P .gfps)] [Fact (P .grps)] [Fact (P .lanes)] [Fact (P .ny)] [Fact (P .pairs)] [Fact (P .regs)] [Fact (P .rxs)] [Fact (P .spares)] [Fact (P .sys)] [Fact (P .txs)] {s₀ s : State} (x : Nat) (hk : Keeps P s₀ s) : Keeps P s₀ (State.legDrain s x) := by
  unfold State.legDrain
  repeat' (first
    | with_reducible assumption
    | with_reducible exact Keeps.refl _
    | with_reducible apply keeps_each
    | with_reducible apply keeps_laneRead
    | with_reducible apply keeps_shadowRead
    | fail_if_no_progress (with_reducible apply keeps_mk <;> first | exact .inl Fact.out | with_reducible exact .inr rfl | with_reducible rfl | skip)
    | with_reducible apply keeps_each
    | with_reducible apply keeps_foldl
    | split
    | intro _
    | (extract_lets +onlyGivenNames x; refine keeps_cut (x := x) ?_ ?_; on_goal 2 => clear_value x)
    | extract_lets +onlyGivenNames y)

theorem keeps_legsDrain [Fact (P .chs)] [Fact (P .fb)] [Fact (P .frs)] [Fact (P .gfps)] [Fact (P .grps)] [Fact (P .lanes)] [Fact (P .ny)] [Fact (P .pairs)] [Fact (P .regs)] [Fact (P .rxs)] [Fact (P .spares)] [Fact (P .sys)] [Fact (P .txs)] {s₀ s : State}  (hk : Keeps P s₀ s) : Keeps P s₀ (State.legsDrain s) := by
  unfold State.legsDrain
  repeat' (first
    | with_reducible assumption
    | with_reducible exact Keeps.refl _
    | with_reducible apply keeps_each
    | with_reducible apply keeps_legDrain)

theorem keeps_execRxLaneWord [Fact (P .chs)] [Fact (P .fb)] [Fact (P .frs)] [Fact (P .gfps)] [Fact (P .grps)] [Fact (P .lanes)] [Fact (P .ny)] [Fact (P .pairs)] [Fact (P .regs)] [Fact (P .rxs)] [Fact (P .spares)] [Fact (P .sys)] [Fact (P .txs)] (i : Fin 36) (x : RxWord) (s : State) : Outs P s (execRxLaneWord i x s) := by
  unfold execRxLaneWord
  apply outs_next
  repeat' (first
    | with_reducible assumption
    | with_reducible exact Keeps.refl _
    | with_reducible apply keeps_each
    | with_reducible apply keeps_legWrite
    | with_reducible apply keeps_legDrain
    | fail_if_no_progress (with_reducible apply keeps_mk <;> first | exact .inl Fact.out | with_reducible exact .inr rfl | with_reducible rfl | skip)
    | with_reducible apply keeps_each
    | with_reducible apply keeps_foldl
    | split
    | intro _)

theorem keeps_txWord [Fact (P .frs)] {s₀ s : State} (i : Nat) (x : Option (BitVec 256)) (hk : Keeps P s₀ s) : Keeps P s₀ (State.txWord s i x).2 := by
  unfold State.txWord
  repeat' (first
    | with_reducible assumption
    | with_reducible exact Keeps.refl _
    | with_reducible apply keeps_setFr
    | fail_if_no_progress (with_reducible apply keeps_mk <;> first | exact .inl Fact.out | with_reducible exact .inr rfl | with_reducible rfl | skip)
    | with_reducible apply keeps_each
    | with_reducible apply keeps_foldl
    | split
    | intro _
    | (extract_lets +onlyGivenNames x; refine keeps_cut (x := x) ?_ ?_; on_goal 2 => clear_value x)
    | extract_lets +onlyGivenNames y)

theorem keeps_txWord_eq [Fact (P .frs)] {s₀ s s₁ : State} (i : Nat) (x : Option (BitVec 256)) {x₁ : Option (List Byte)} (he : State.txWord s i x = (x₁, s₁)) (hk : Keeps P s₀ s) : Keeps P s₀ s₁ := by
  have := keeps_txWord i x hk
  rw [he] at this; exact this

theorem keeps_execTxLaneWord [Fact (P .frs)] [Fact (P .lanes)] [Fact (P .regs)] (i : Fin 36) (x : Option (BitVec 256)) (s : State) : Outs P s (execTxLaneWord i x s) := by
  unfold execTxLaneWord
  apply outs_next
  repeat' (first
    | with_reducible assumption
    | with_reducible exact Keeps.refl _
    | with_reducible apply keeps_crossed
    | with_reducible apply keeps_bump
    | with_reducible apply keeps_setLane
    | with_reducible apply keeps_refreshIdle
    | with_reducible apply keeps_txWord
    | with_reducible refine keeps_txWord_eq _ _ (by assumption) ?_
    | fail_if_no_progress (with_reducible apply keeps_mk <;> first | exact .inl Fact.out | with_reducible exact .inr rfl | with_reducible rfl | skip)
    | with_reducible apply keeps_each
    | with_reducible apply keeps_foldl
    | split
    | intro _
    | (extract_lets +onlyGivenNames x; refine keeps_cut (x := x) ?_ ?_; on_goal 2 => clear_value x)
    | extract_lets +onlyGivenNames y)

theorem keeps_portCfg [Fact (P .chs)] [Fact (P .fb)] [Fact (P .free)] [Fact (P .frs)] [Fact (P .gfps)] [Fact (P .grps)] [Fact (P .led)] [Fact (P .pairs)] [Fact (P .qs)] [Fact (P .regs)] [Fact (P .rxs)] [Fact (P .sys)] [Fact (P .txs)] {s₀ s : State} (p v : Nat) (hk : Keeps P s₀ s) : Keeps P s₀ (State.portCfg s p v) := by
  unfold State.portCfg
  repeat' (first
    | with_reducible assumption
    | with_reducible exact Keeps.refl _
    | with_reducible apply keeps_bump
    | with_reducible apply keeps_wr
    | with_reducible apply keeps_each
    | with_reducible apply keeps_chanStop
    | with_reducible apply keeps_setFr
    | with_reducible apply keeps_portRefresh
    | fail_if_no_progress (with_reducible apply keeps_mk <;> first | exact .inl Fact.out | with_reducible exact .inr rfl | with_reducible rfl | skip)
    | with_reducible apply keeps_each
    | with_reducible apply keeps_foldl
    | split
    | intro _)

theorem keeps_execPortCfgWrite [Fact (P .chs)] [Fact (P .fab)] [Fact (P .fb)] [Fact (P .free)] [Fact (P .frs)] [Fact (P .gfps)] [Fact (P .grps)] [Fact (P .led)] [Fact (P .pairs)] [Fact (P .qs)] [Fact (P .regs)] [Fact (P .rxs)] [Fact (P .sp)] [Fact (P .sys)] [Fact (P .txs)] (w : Who) (p : Fin 4) (v : Word) (s : State) : Outs P s (execPortCfgWrite w p v s) := by
  unfold execPortCfgWrite
  apply outs_next
  repeat' (first
    | with_reducible assumption
    | with_reducible exact Keeps.refl _
    | with_reducible apply keeps_guardWrite
    | with_reducible apply keeps_portCfg
    | fail_if_no_progress (with_reducible apply keeps_mk <;> first | exact .inl Fact.out | with_reducible exact .inr rfl | with_reducible rfl | skip)
    | with_reducible apply keeps_each
    | with_reducible apply keeps_foldl
    | split
    | intro _)

theorem keeps_chanCfg [Fact (P .chs)] [Fact (P .fb)] [Fact (P .free)] [Fact (P .frs)] [Fact (P .gfps)] [Fact (P .grps)] [Fact (P .led)] [Fact (P .pairs)] [Fact (P .qs)] [Fact (P .regs)] [Fact (P .rxs)] [Fact (P .sys)] [Fact (P .txs)] {s₀ s : State} (c v : Nat) (hk : Keeps P s₀ s) : Keeps P s₀ (State.chanCfg s c v) := by
  unfold State.chanCfg
  repeat' (first
    | with_reducible assumption
    | with_reducible exact Keeps.refl _
    | with_reducible apply keeps_wr
    | with_reducible apply keeps_bump
    | with_reducible apply keeps_chanStop
    | with_reducible apply keeps_raise
    | with_reducible apply keeps_portRefresh
    | fail_if_no_progress (with_reducible apply keeps_mk <;> first | exact .inl Fact.out | with_reducible exact .inr rfl | with_reducible rfl | skip)
    | with_reducible apply keeps_each
    | with_reducible apply keeps_foldl
    | split
    | intro _
    | (extract_lets +onlyGivenNames x; refine keeps_cut (x := x) ?_ ?_; on_goal 2 => clear_value x)
    | extract_lets +onlyGivenNames y)

theorem keeps_execChanCfgWrite [Fact (P .chs)] [Fact (P .fab)] [Fact (P .fb)] [Fact (P .free)] [Fact (P .frs)] [Fact (P .gfps)] [Fact (P .grps)] [Fact (P .led)] [Fact (P .pairs)] [Fact (P .qs)] [Fact (P .regs)] [Fact (P .rxs)] [Fact (P .sp)] [Fact (P .sys)] [Fact (P .txs)] (w : Who) (c : Fin 32) (v : Word) (s : State) : Outs P s (execChanCfgWrite w c v s) := by
  unfold execChanCfgWrite
  apply outs_next
  repeat' (first
    | with_reducible assumption
    | with_reducible exact Keeps.refl _
    | with_reducible apply keeps_guardWrite
    | with_reducible apply keeps_chanCfg
    | fail_if_no_progress (with_reducible apply keeps_mk <;> first | exact .inl Fact.out | with_reducible exact .inr rfl | with_reducible rfl | skip)
    | with_reducible apply keeps_each
    | with_reducible apply keeps_foldl
    | split
    | intro _)

theorem keeps_execAlignmentLock [Fact (P .chs)] [Fact (P .regs)] (c : Fin 32) (arrivals : List Word) (s : State) : Outs P s (execAlignmentLock c arrivals s) := by
  unfold execAlignmentLock
  apply outs_next
  repeat' (first
    | with_reducible assumption
    | with_reducible exact Keeps.refl _
    | with_reducible apply keeps_setCh
    | with_reducible apply keeps_wr
    | with_reducible apply keeps_raise
    | fail_if_no_progress (with_reducible apply keeps_mk <;> first | exact .inl Fact.out | with_reducible exact .inr rfl | with_reducible rfl | skip)
    | with_reducible apply keeps_each
    | with_reducible apply keeps_foldl
    | split
    | intro _
    | (extract_lets +onlyGivenNames x; refine keeps_cut (x := x) ?_ ?_; on_goal 2 => clear_value x)
    | extract_lets +onlyGivenNames y)

theorem keeps_execAlignmentLost [Fact (P .chs)] [Fact (P .regs)] (c : Fin 32) (s : State) : Outs P s (execAlignmentLost c s) := by
  unfold execAlignmentLost
  apply outs_next
  repeat' (first
    | with_reducible assumption
    | with_reducible exact Keeps.refl _
    | with_reducible apply keeps_setCh
    | with_reducible apply keeps_chanLeave
    | fail_if_no_progress (with_reducible apply keeps_mk <;> first | exact .inl Fact.out | with_reducible exact .inr rfl | with_reducible rfl | skip)
    | with_reducible apply keeps_each
    | with_reducible apply keeps_foldl
    | split)

theorem keeps_execRxFaultSequence [Fact (P .chs)] [Fact (P .regs)] (c : Fin 32) (lf rf : Bool) (s : State) : Outs P s (execRxFaultSequence c lf rf s) := by
  unfold execRxFaultSequence
  apply outs_next
  repeat' (first
    | with_reducible assumption
    | with_reducible exact Keeps.refl _
    | with_reducible apply keeps_put
    | with_reducible apply keeps_setCh
    | with_reducible apply keeps_linkDrop
    | fail_if_no_progress (with_reducible apply keeps_mk <;> first | exact .inl Fact.out | with_reducible exact .inr rfl | with_reducible rfl | skip)
    | with_reducible apply keeps_each
    | with_reducible apply keeps_foldl
    | split)

theorem keeps_execLinkUp [Fact (P .regs)] [Fact (P .tm)] (c : Fin 32) (s : State) : Outs P s (execLinkUp c s) := by
  unfold execLinkUp
  apply outs_next
  repeat' (first
    | with_reducible assumption
    | with_reducible exact Keeps.refl _
    | with_reducible apply keeps_advanceTo
    | with_reducible apply keeps_raise
    | with_reducible apply keeps_setBit
    | fail_if_no_progress (with_reducible apply keeps_mk <;> first | exact .inl Fact.out | with_reducible exact .inr rfl | with_reducible rfl | skip)
    | with_reducible apply keeps_each
    | with_reducible apply keeps_foldl
    | split)

theorem keeps_spareRefuse [Fact (P .regs)] {s₀ s : State} (p result : Nat) (hk : Keeps P s₀ s) : Keeps P s₀ (State.spareRefuse s p result) := by
  unfold State.spareRefuse
  repeat' (first
    | with_reducible assumption
    | with_reducible exact Keeps.refl _
    | with_reducible apply keeps_wr
    | with_reducible apply keeps_bump)

theorem keeps_spareCtrl [Fact (P .chs)] [Fact (P .fb)] [Fact (P .frs)] [Fact (P .gfps)] [Fact (P .grps)] [Fact (P .lanes)] [Fact (P .pairs)] [Fact (P .regs)] [Fact (P .rxs)] [Fact (P .spares)] [Fact (P .sys)] [Fact (P .txs)] {s₀ s : State} (p v : Nat) (hk : Keeps P s₀ s) : Keeps P s₀ (State.spareCtrl s p v) := by
  unfold State.spareCtrl
  repeat' (first
    | with_reducible assumption
    | with_reducible exact Keeps.refl _
    | with_reducible apply keeps_writePlain
    | with_reducible apply keeps_spareRefuse
    | with_reducible apply keeps_setSpare
    | with_reducible apply keeps_wr
    | with_reducible apply keeps_put
    | with_reducible apply keeps_refreshIdle
    | with_reducible apply keeps_spareEnd
    | fail_if_no_progress (with_reducible apply keeps_mk <;> first | exact .inl Fact.out | with_reducible exact .inr rfl | with_reducible rfl | skip)
    | with_reducible apply keeps_each
    | with_reducible apply keeps_foldl
    | split
    | intro _
    | (extract_lets +onlyGivenNames x; refine keeps_cut (x := x) ?_ ?_; on_goal 2 => clear_value x)
    | extract_lets +onlyGivenNames y)

theorem keeps_spareOp [Fact (P .chs)] [Fact (P .fab)] [Fact (P .fb)] [Fact (P .frs)] [Fact (P .gfps)] [Fact (P .grps)] [Fact (P .lanes)] [Fact (P .pairs)] [Fact (P .regs)] [Fact (P .rxs)] [Fact (P .sp)] [Fact (P .spares)] [Fact (P .sys)] [Fact (P .txs)] {s₀ s : State} (w : Who) (p v op : Nat) (hk : Keeps P s₀ s) : Keeps P s₀ (State.spareOp s w p v op) := by
  unfold State.spareOp
  repeat' (first
    | with_reducible assumption
    | with_reducible exact Keeps.refl _
    | with_reducible apply keeps_guardWrite
    | with_reducible apply keeps_spareCtrl
    | fail_if_no_progress (with_reducible apply keeps_mk <;> first | exact .inl Fact.out | with_reducible exact .inr rfl | with_reducible rfl | skip)
    | with_reducible apply keeps_each
    | with_reducible apply keeps_foldl
    | split
    | intro _)

theorem keeps_execLnSubstitute [Fact (P .chs)] [Fact (P .fab)] [Fact (P .fb)] [Fact (P .frs)] [Fact (P .gfps)] [Fact (P .grps)] [Fact (P .lanes)] [Fact (P .pairs)] [Fact (P .regs)] [Fact (P .rxs)] [Fact (P .sp)] [Fact (P .spares)] [Fact (P .sys)] [Fact (P .txs)] (w : Who) (p : Fin 4) (v : Word) (s : State) : Outs P s (execLnSubstitute w p v s) := by
  unfold execLnSubstitute
  apply outs_next
  repeat' (first
    | with_reducible assumption
    | with_reducible exact Keeps.refl _
    | with_reducible apply keeps_spareOp)

theorem keeps_execTxRelease [Fact (P .chs)] [Fact (P .fab)] [Fact (P .fb)] [Fact (P .frs)] [Fact (P .gfps)] [Fact (P .grps)] [Fact (P .lanes)] [Fact (P .pairs)] [Fact (P .regs)] [Fact (P .rxs)] [Fact (P .sp)] [Fact (P .spares)] [Fact (P .sys)] [Fact (P .txs)] (w : Who) (p : Fin 4) (v : Word) (s : State) : Outs P s (execTxRelease w p v s) := by
  unfold execTxRelease
  apply outs_next
  repeat' (first
    | with_reducible assumption
    | with_reducible exact Keeps.refl _
    | with_reducible apply keeps_spareOp)

theorem keeps_execLnRestore [Fact (P .chs)] [Fact (P .fab)] [Fact (P .fb)] [Fact (P .frs)] [Fact (P .gfps)] [Fact (P .grps)] [Fact (P .lanes)] [Fact (P .pairs)] [Fact (P .regs)] [Fact (P .rxs)] [Fact (P .sp)] [Fact (P .spares)] [Fact (P .sys)] [Fact (P .txs)] (w : Who) (p : Fin 4) (v : Word) (s : State) : Outs P s (execLnRestore w p v s) := by
  unfold execLnRestore
  apply outs_next
  repeat' (first
    | with_reducible assumption
    | with_reducible exact Keeps.refl _
    | with_reducible apply keeps_spareOp)

theorem keeps_execSpareAbort [Fact (P .chs)] [Fact (P .fab)] [Fact (P .fb)] [Fact (P .frs)] [Fact (P .gfps)] [Fact (P .grps)] [Fact (P .lanes)] [Fact (P .pairs)] [Fact (P .regs)] [Fact (P .rxs)] [Fact (P .sp)] [Fact (P .spares)] [Fact (P .sys)] [Fact (P .txs)] (w : Who) (p : Fin 4) (v : Word) (s : State) : Outs P s (execSpareAbort w p v s) := by
  unfold execSpareAbort
  apply outs_next
  repeat' (first
    | with_reducible assumption
    | with_reducible exact Keeps.refl _
    | with_reducible apply keeps_spareOp)

theorem keeps_execSpareMatch [Fact (P .regs)] [Fact (P .spares)] (p : Fin 4) (d : BitVec 13) (s : State) : Outs P s (execSpareMatch p d s) := by
  unfold execSpareMatch
  apply outs_next
  repeat' (first
    | with_reducible assumption
    | with_reducible exact Keeps.refl _
    | with_reducible apply keeps_setSpare
    | with_reducible apply keeps_wr
    | fail_if_no_progress (with_reducible apply keeps_mk <;> first | exact .inl Fact.out | with_reducible exact .inr rfl | with_reducible rfl | skip)
    | with_reducible apply keeps_each
    | with_reducible apply keeps_foldl
    | split
    | intro _
    | (extract_lets +onlyGivenNames x; refine keeps_cut (x := x) ?_ ?_; on_goal 2 => clear_value x)
    | extract_lets +onlyGivenNames y)

theorem keeps_execSpareConfirmDone [Fact (P .regs)] (p : Fin 4) (s : State) : Outs P s (execSpareConfirmDone p s) := by
  unfold execSpareConfirmDone
  apply outs_next
  repeat' (first
    | with_reducible assumption
    | with_reducible exact Keeps.refl _
    | with_reducible apply keeps_wr
    | fail_if_no_progress (with_reducible apply keeps_mk <;> first | exact .inl Fact.out | with_reducible exact .inr rfl | with_reducible rfl | skip)
    | with_reducible apply keeps_each
    | with_reducible apply keeps_foldl
    | split)

theorem keeps_execSpareMatchTimeout [Fact (P .chs)] [Fact (P .fb)] [Fact (P .frs)] [Fact (P .gfps)] [Fact (P .grps)] [Fact (P .lanes)] [Fact (P .pairs)] [Fact (P .regs)] [Fact (P .rxs)] [Fact (P .spares)] [Fact (P .sys)] [Fact (P .tm)] [Fact (P .txs)] (p : Fin 4) (s : State) : Outs P s (execSpareMatchTimeout p s) := by
  unfold execSpareMatchTimeout
  apply outs_next
  repeat' (first
    | with_reducible assumption
    | with_reducible exact Keeps.refl _
    | with_reducible apply keeps_advanceTo
    | with_reducible apply keeps_setSpare
    | with_reducible apply keeps_wr
    | with_reducible apply keeps_spareEnd
    | fail_if_no_progress (with_reducible apply keeps_mk <;> first | exact .inl Fact.out | with_reducible exact .inr rfl | with_reducible rfl | skip)
    | with_reducible apply keeps_each
    | with_reducible apply keeps_foldl
    | split
    | intro _
    | (extract_lets +onlyGivenNames x; refine keeps_cut (x := x) ?_ ?_; on_goal 2 => clear_value x))

theorem keeps_spareDelay [Fact (P .free)] {s₀ s : State} (p : Nat) (hk : Keeps P s₀ s) : Keeps P s₀ (State.spareDelay s p).2 := by
  unfold State.spareDelay
  repeat' (first
    | with_reducible assumption
    | with_reducible exact Keeps.refl _
    | with_reducible apply keeps_draw
    | with_reducible refine keeps_draw_eq (by assumption) ?_
    | fail_if_no_progress (with_reducible apply keeps_mk <;> first | exact .inl Fact.out | with_reducible exact .inr rfl | with_reducible rfl | skip)
    | with_reducible apply keeps_each
    | with_reducible apply keeps_foldl
    | split
    | intro _
    | (extract_lets +onlyGivenNames x; refine keeps_cut (x := x) ?_ ?_; on_goal 2 => clear_value x)
    | extract_lets +onlyGivenNames y)

theorem keeps_spareDelay_eq [Fact (P .free)] {s₀ s s₁ : State} (p : Nat) {x₁ : Nat} (he : State.spareDelay s p = (x₁, s₁)) (hk : Keeps P s₀ s) : Keeps P s₀ s₁ := by
  have := keeps_spareDelay p hk
  rw [he] at this; exact this

theorem keeps_execSpareSwitch [Fact (P .chs)] [Fact (P .fb)] [Fact (P .free)] [Fact (P .frs)] [Fact (P .gfps)] [Fact (P .grps)] [Fact (P .lanes)] [Fact (P .pairs)] [Fact (P .regs)] [Fact (P .rxs)] [Fact (P .spares)] [Fact (P .sys)] [Fact (P .txs)] (p : Fin 4) (s : State) : Outs P s (execSpareSwitch p s) := by
  unfold execSpareSwitch
  apply outs_next
  repeat' (first
    | with_reducible assumption
    | with_reducible exact Keeps.refl _
    | with_reducible apply keeps_setLane
    | with_reducible apply keeps_wr
    | with_reducible apply keeps_setBit
    | with_reducible apply keeps_setSpare
    | with_reducible apply keeps_posHit
    | with_reducible apply keeps_portRefresh
    | with_reducible apply keeps_spareDelay
    | with_reducible refine keeps_spareDelay_eq _ (by assumption) ?_
    | fail_if_no_progress (with_reducible apply keeps_mk <;> first | exact .inl Fact.out | with_reducible exact .inr rfl | with_reducible rfl | skip)
    | with_reducible apply keeps_each
    | with_reducible apply keeps_foldl
    | split)

end Sys2Proof.Laws
end

