-- ==== Sys2Proof/Laws/KeepsSystem.lean ====
section
/-! SUPPORT. What the operations of System.lean keep. -/

namespace Sys2Proof.Laws

open Sys2Proof.Machine

variable {P : Part → Prop}

theorem keeps_postOpen [Fact (P .free)] [Fact (P .ny)] [Fact (P .regs)] {s₀ s : State} (a0 : Nat) (hk : Keeps P s₀ s) : Keeps P s₀ (State.postOpen s a0) := by
  unfold State.postOpen
  repeat' (first
    | with_reducible assumption
    | with_reducible exact Keeps.refl _
    | with_reducible apply keeps_postHw
    | with_reducible apply keeps_draw)

theorem keeps_protoErr [Fact (P .regs)] {s₀ s : State} (x : Nat) (hk : Keeps P s₀ s) : Keeps P s₀ (State.protoErr s x) := by
  unfold State.protoErr
  repeat' (first
    | with_reducible assumption
    | with_reducible exact Keeps.refl _
    | with_reducible apply keeps_bump
    | with_reducible apply keeps_setBit
    | fail_if_no_progress (with_reducible apply keeps_mk <;> first | exact .inl Fact.out | with_reducible exact .inr rfl | with_reducible rfl | skip)
    | with_reducible apply keeps_each
    | with_reducible apply keeps_foldl
    | split)

theorem keeps_creditReturns [Fact (P .fab)] [Fact (P .regs)] {s₀ s : State} (x cr : Nat) (hk : Keeps P s₀ s) : Keeps P s₀ (State.creditReturns s x cr) := by
  unfold State.creditReturns
  repeat' (first
    | with_reducible assumption
    | with_reducible exact Keeps.refl _
    | with_reducible apply keeps_each
    | with_reducible apply keeps_protoErr
    | fail_if_no_progress (with_reducible apply keeps_mk <;> first | exact .inl Fact.out | with_reducible exact .inr rfl | with_reducible rfl | skip)
    | with_reducible apply keeps_each
    | with_reducible apply keeps_foldl
    | split
    | intro _)

theorem keeps_creditAudit [Fact (P .fab)] [Fact (P .regs)] {s₀ s : State} (x : Nat) (hk : Keeps P s₀ s) : Keeps P s₀ (State.creditAudit s x) := by
  unfold State.creditAudit
  repeat' (first
    | with_reducible assumption
    | with_reducible exact Keeps.refl _
    | with_reducible apply keeps_setBit
    | fail_if_no_progress (with_reducible apply keeps_mk <;> first | exact .inl Fact.out | with_reducible exact .inr rfl | with_reducible rfl | skip)
    | with_reducible apply keeps_each
    | with_reducible apply keeps_foldl
    | split)

theorem keeps_answered [Fact (P .fab)] {s₀ s : State} (r : Req) (resp : Resp) (data : List Byte) (hk : Keeps P s₀ s) : Keeps P s₀ (State.answered s r resp data) := by
  unfold State.answered
  repeat' (first
    | with_reducible assumption
    | with_reducible exact Keeps.refl _
    | fail_if_no_progress (with_reducible apply keeps_mk <;> first | exact .inl Fact.out | with_reducible exact .inr rfl | with_reducible rfl | skip))

theorem keeps_rsBeat [Fact (P .fab)] [Fact (P .regs)] [Fact (P .sp)] {s₀ s : State} (x : Nat) (b : Beat) (hk : Keeps P s₀ s) : Keeps P s₀ (State.rsBeat s x b) := by
  unfold State.rsBeat
  repeat' (first
    | with_reducible assumption
    | with_reducible exact Keeps.refl _
    | with_reducible apply keeps_bump
    | with_reducible apply keeps_protoErr
    | with_reducible apply keeps_answered
    | with_reducible apply keeps_okay
    | fail_if_no_progress (with_reducible apply keeps_mk <;> first | exact .inl Fact.out | with_reducible exact .inr rfl | with_reducible rfl | skip)
    | with_reducible apply keeps_each
    | with_reducible apply keeps_foldl
    | split
    | intro _
    | (extract_lets +onlyGivenNames x; refine keeps_cut (x := x) ?_ ?_; on_goal 2 => clear_value x)
    | extract_lets +onlyGivenNames y)

theorem keeps_rsCount [Fact (P .regs)] {s₀ s : State} (x t : Nat) (hk : Keeps P s₀ s) : Keeps P s₀ (State.rsCount s x t) := by
  unfold State.rsCount
  repeat' (first
    | with_reducible assumption
    | with_reducible exact Keeps.refl _
    | with_reducible apply keeps_pcEvent
    | fail_if_no_progress (with_reducible apply keeps_mk <;> first | exact .inl Fact.out | with_reducible exact .inr rfl | with_reducible rfl | skip)
    | with_reducible apply keeps_each
    | with_reducible apply keeps_foldl
    | split)

theorem keeps_beatTake [Fact (P .fab)] [Fact (P .regs)] [Fact (P .sp)] {s₀ s : State} (x : Nat) (b : Beat) (hk : Keeps P s₀ s) : Keeps P s₀ (State.beatTake s x b) := by
  unfold State.beatTake
  repeat' (first
    | with_reducible assumption
    | with_reducible exact Keeps.refl _
    | with_reducible apply keeps_creditReturns
    | with_reducible apply keeps_creditAudit
    | with_reducible apply keeps_rsCount
    | with_reducible apply keeps_rsBeat
    | with_reducible apply keeps_protoErr
    | with_reducible apply keeps_pump
    | fail_if_no_progress (with_reducible apply keeps_mk <;> first | exact .inl Fact.out | with_reducible exact .inr rfl | with_reducible rfl | skip)
    | with_reducible apply keeps_each
    | with_reducible apply keeps_foldl
    | split)

theorem keeps_execFabricBeatReceived [Fact (P .fab)] [Fact (P .regs)] [Fact (P .sp)] (x : Fin 16) (b : Beat) (s : State) : Outs P s (execFabricBeatReceived x b s) := by
  unfold execFabricBeatReceived
  apply outs_next
  repeat' (first
    | with_reducible assumption
    | with_reducible exact Keeps.refl _
    | with_reducible apply keeps_beatTake
    | with_reducible apply keeps_crossed
    | fail_if_no_progress (with_reducible apply keeps_mk <;> first | exact .inl Fact.out | with_reducible exact .inr rfl | with_reducible rfl | skip)
    | with_reducible apply keeps_each
    | with_reducible apply keeps_foldl
    | split
    | intro _
    | (extract_lets +onlyGivenNames x; refine keeps_cut (x := x) ?_ ?_; on_goal 2 => clear_value x)
    | extract_lets +onlyGivenNames y)

theorem keeps_reqTimeout [Fact (P .fab)] [Fact (P .regs)] [Fact (P .tm)] {s₀ s : State} (x t us : Nat) (hk : Keeps P s₀ s) : Keeps P s₀ (State.reqTimeout s x t us) := by
  unfold State.reqTimeout
  repeat' (first
    | with_reducible assumption
    | with_reducible exact Keeps.refl _
    | with_reducible apply keeps_advanceTo
    | with_reducible apply keeps_answered
    | with_reducible apply keeps_pump
    | with_reducible apply keeps_setBit
    | with_reducible apply keeps_pcEvent
    | fail_if_no_progress (with_reducible apply keeps_mk <;> first | exact .inl Fact.out | with_reducible exact .inr rfl | with_reducible rfl | skip)
    | with_reducible apply keeps_each
    | with_reducible apply keeps_foldl
    | split)

theorem keeps_execFabricRequestTimeout [Fact (P .fab)] [Fact (P .regs)] [Fact (P .tm)] (f : Fin 9) (t : BitVec 12) (s : State) : Outs P s (execFabricRequestTimeout f t s) := by
  unfold execFabricRequestTimeout
  apply outs_next
  repeat' (first
    | with_reducible assumption
    | with_reducible exact Keeps.refl _
    | with_reducible apply keeps_reqTimeout
    | fail_if_no_progress (with_reducible apply keeps_mk <;> first | exact .inl Fact.out | with_reducible exact .inr rfl | with_reducible rfl | skip)
    | with_reducible apply keeps_each
    | with_reducible apply keeps_foldl
    | split)

theorem keeps_execTableReadTimeout [Fact (P .fab)] [Fact (P .regs)] [Fact (P .tm)] (c : Fin 7) (t : BitVec 12) (s : State) : Outs P s (execTableReadTimeout c t s) := by
  unfold execTableReadTimeout
  apply outs_next
  repeat' (first
    | with_reducible assumption
    | with_reducible exact Keeps.refl _
    | with_reducible apply keeps_reqTimeout
    | fail_if_no_progress (with_reducible apply keeps_mk <;> first | exact .inl Fact.out | with_reducible exact .inr rfl | with_reducible rfl | skip)
    | with_reducible apply keeps_each
    | with_reducible apply keeps_foldl
    | split)

theorem keeps_islandsSettle [Fact (P .chs)] [Fact (P .fab)] [Fact (P .fb)] [Fact (P .free)] [Fact (P .frs)] [Fact (P .gfps)] [Fact (P .grps)] [Fact (P .lanes)] [Fact (P .led)] [Fact (P .ny)] [Fact (P .pairs)] [Fact (P .qs)] [Fact (P .regs)] [Fact (P .rxs)] [Fact (P .sp)] [Fact (P .spares)] [Fact (P .sys)] [Fact (P .txs)] {s₀ s : State}  (hk : Keeps P s₀ s) : Keeps P s₀ (State.islandsSettle s) := by
  unfold State.islandsSettle
  repeat' (first
    | with_reducible assumption
    | with_reducible exact Keeps.refl _
    | with_reducible apply keeps_legsDrain
    | with_reducible apply keeps_settleBeats
    | with_reducible apply keeps_pump
    | with_reducible apply keeps_pcCatchUp
    | with_reducible apply keeps_each
    | with_reducible apply keeps_beatTake
    | with_reducible apply keeps_takeSent
    | with_reducible apply keeps_fbAudit
    | with_reducible apply keeps_pairsEval
    | fail_if_no_progress (with_reducible apply keeps_mk <;> first | exact .inl Fact.out | with_reducible exact .inr rfl | with_reducible rfl | skip)
    | with_reducible apply keeps_each
    | with_reducible apply keeps_foldl
    | split
    | intro _)

theorem keeps_bare [∀ p, Fact (P p)] {s₀ s : State} (hk : Keeps P s₀ s) : Keeps P s₀ (State.bare s) := by
  have k : ∀ kw hub cc ny tm, ny.sram = State.reset.ny.sram → tm.tick = s.tm.tick →
      Keeps P s₀ { State.reset with pending := s.pending, free := s.free, kw := kw, hub := hub, cc := cc, ny := ny, tm := tm } :=
    fun kw hub cc ny tm h g => keeps_step (s := s) (fun p q => absurd Fact.out q) (fun _ => ⟨rfl, by rw [show _ = _ from h]; rfl⟩) rfl
      (le_of_eq g.symm) (le_refl _) hk
  unfold State.bare
  split
  · exact keeps_raise _ (keeps_raise _ (k _ _ _ _ _ rfl rfl))
  · exact k _ _ _ _ _ rfl rfl

/-- Fields laid over a state in canonical form leave it in canonical form. -/
theorem fldsWf_foldl (l : SMap Nat) {m : SMap Nat} (h : fldsWf m = true) :
    fldsWf (l.foldl (fun m e => mapSet fieldReset m e.1 e.2) m) = true :=
  mapWf_foldl l _ (fun _ _ h => mapWf_set _ _ h) m h

theorem keeps_overlay [Fact (P .regs)] {s₀ t : State} (l : SMap Nat) (hk : Keeps P s₀ t) : Keeps P s₀ (State.overlay t l) :=
  keeps_step (s := t) (fun p q => by cases p <;> first | rfl | exact absurd Fact.out q) (fun w => ⟨fldsWf_foldl l w.1, w.2⟩) rfl
    (le_refl _) (le_refl _) hk

theorem keeps_blkReset [∀ p, Fact (P p)] {s₀ s : State}  (hk : Keeps P s₀ s) : Keeps P s₀ (State.blkReset s) := by
  unfold State.blkReset
  repeat' (first
    | with_reducible assumption
    | with_reducible exact Keeps.refl _
    | with_reducible apply keeps_failTransit
    | with_reducible apply keeps_bare
    | with_reducible apply keeps_overlay
    | fail_if_no_progress (with_reducible apply keeps_mk <;> first | exact .inl Fact.out | with_reducible exact .inr rfl | with_reducible rfl | skip))

theorem keeps_aonReset [∀ p, Fact (P p)] {s₀ s : State}  (hk : Keeps P s₀ s) : Keeps P s₀ (State.aonReset s) := by
  unfold State.aonReset
  repeat' (first
    | with_reducible assumption
    | with_reducible exact Keeps.refl _
    | with_reducible apply keeps_bare
    | with_reducible apply keeps_overlay
    | fail_if_no_progress (with_reducible apply keeps_mk <;> first | exact .inl Fact.out | with_reducible exact .inr rfl | with_reducible rfl | skip))

theorem keeps_execAonRstNFall [∀ p, Fact (P p)]  (s : State) : Outs P s (execAonRstNFall s) := by
  unfold execAonRstNFall
  apply outs_next
  repeat' (first
    | with_reducible assumption
    | with_reducible exact Keeps.refl _
    | with_reducible apply keeps_aonReset
    | fail_if_no_progress (with_reducible apply keeps_mk <;> first | exact .inl Fact.out | with_reducible exact .inr rfl | with_reducible rfl | skip))

theorem keeps_execBlkRstNFall [∀ p, Fact (P p)]  (s : State) : Outs P s (execBlkRstNFall s) := by
  unfold execBlkRstNFall
  apply outs_next
  repeat' (first
    | with_reducible assumption
    | with_reducible exact Keeps.refl _
    | with_reducible apply keeps_blkReset
    | fail_if_no_progress (with_reducible apply keeps_mk <;> first | exact .inl Fact.out | with_reducible exact .inr rfl | with_reducible rfl | skip))

theorem keeps_execPwGoodFall [∀ p, Fact (P p)]  (s : State) : Outs P s (execPwGoodFall s) := by
  unfold execPwGoodFall
  apply outs_next
  repeat' (first
    | with_reducible assumption
    | with_reducible exact Keeps.refl _
    | with_reducible apply keeps_blkReset
    | fail_if_no_progress (with_reducible apply keeps_mk <;> first | exact .inl Fact.out | with_reducible exact .inr rfl | with_reducible rfl | skip))

theorem keeps_execPowerRemoved [∀ p, Fact (P p)]  (s : State) : Outs P s (execPowerRemoved s) := by
  unfold execPowerRemoved
  apply outs_next
  repeat' (first
    | with_reducible assumption
    | with_reducible exact Keeps.refl _
    | with_reducible apply keeps_bare
    | fail_if_no_progress (with_reducible apply keeps_mk <;> first | exact .inl Fact.out | with_reducible exact .inr rfl | with_reducible rfl | skip))

theorem keeps_execBrownOut [∀ p, Fact (P p)]  (s : State) : Outs P s (execBrownOut s) := by
  unfold execBrownOut
  apply outs_next
  repeat' (first
    | with_reducible assumption
    | with_reducible exact Keeps.refl _
    | with_reducible apply keeps_aonReset
    | with_reducible apply keeps_raise
    | with_reducible apply keeps_wr
    | with_reducible apply keeps_bump
    | fail_if_no_progress (with_reducible apply keeps_mk <;> first | exact .inl Fact.out | with_reducible exact .inr rfl | with_reducible rfl | skip))

theorem keeps_execPwIsoRise [Fact (P .fab)] [Fact (P .hub)] [Fact (P .regs)] [Fact (P .sys)]  (s : State) : Outs P s (execPwIsoRise s) := by
  unfold execPwIsoRise
  apply outs_next
  repeat' (first
    | with_reducible assumption
    | with_reducible exact Keeps.refl _
    | with_reducible apply keeps_each
    | with_reducible apply keeps_raise
    | fail_if_no_progress (with_reducible apply keeps_mk <;> first | exact .inl Fact.out | with_reducible exact .inr rfl | with_reducible rfl | skip)
    | with_reducible apply keeps_each
    | with_reducible apply keeps_foldl
    | split
    | intro _)

theorem keeps_startIslands [Fact (P .chs)] [Fact (P .fab)] [Fact (P .fb)] [Fact (P .free)] [Fact (P .frs)] [Fact (P .gfps)] [Fact (P .grps)] [Fact (P .lanes)] [Fact (P .led)] [Fact (P .ny)] [Fact (P .pairs)] [Fact (P .qs)] [Fact (P .regs)] [Fact (P .rxs)] [Fact (P .sp)] [Fact (P .spares)] [Fact (P .sys)] [Fact (P .tm)] [Fact (P .txs)] {s₀ s : State} (m : BitVec 9) (hk : Keeps P s₀ s) : Keeps P s₀ (State.startIslands s m) := by
  unfold State.startIslands
  repeat' (first
    | with_reducible assumption
    | with_reducible exact Keeps.refl _
    | with_reducible apply keeps_refreshRun
    | with_reducible apply keeps_islandsSettle
    | fail_if_no_progress (with_reducible apply keeps_mk <;> first | exact .inl Fact.out | with_reducible exact .inr rfl | with_reducible rfl | skip))

theorem keeps_release [Fact (P .chs)] [Fact (P .cu)] [Fact (P .fab)] [Fact (P .fb)] [Fact (P .free)] [Fact (P .frs)] [Fact (P .gfps)] [Fact (P .grps)] [Fact (P .hub)] [Fact (P .kw)] [Fact (P .lanes)] [Fact (P .led)] [Fact (P .ny)] [Fact (P .pairs)] [Fact (P .qs)] [Fact (P .regs)] [Fact (P .rxs)] [Fact (P .sp)] [Fact (P .spares)] [Fact (P .sram)] [Fact (P .sys)] [Fact (P .tm)] [Fact (P .txs)] {s₀ s : State} (b : Boot) (hk : Keeps P s₀ s) : Keeps P s₀ (State.release s b) := by
  unfold State.release
  repeat' (first
    | with_reducible assumption
    | with_reducible exact Keeps.refl _
    | with_reducible apply keeps_startIslands
    | with_reducible apply keeps_wr
    | with_reducible apply keeps_bgBegin
    | with_reducible apply keeps_haspRise
    | with_reducible apply keeps_loadSlot
    | with_reducible apply keeps_bootSelect
    | with_reducible apply keeps_raise
    | with_reducible apply keeps_postHw
    | with_reducible apply keeps_hubWakes
    | fail_if_no_progress (with_reducible apply keeps_mk <;> first | exact .inl Fact.out | with_reducible exact .inr rfl | with_reducible rfl | skip)
    | with_reducible apply keeps_each
    | with_reducible apply keeps_foldl
    | split)

theorem keeps_execResetRelease [Fact (P .chs)] [Fact (P .cu)] [Fact (P .fab)] [Fact (P .fb)] [Fact (P .free)] [Fact (P .frs)] [Fact (P .gfps)] [Fact (P .grps)] [Fact (P .hub)] [Fact (P .kw)] [Fact (P .lanes)] [Fact (P .led)] [Fact (P .ny)] [Fact (P .pairs)] [Fact (P .qs)] [Fact (P .regs)] [Fact (P .rxs)] [Fact (P .sp)] [Fact (P .spares)] [Fact (P .sram)] [Fact (P .sys)] [Fact (P .tm)] [Fact (P .txs)] (b : Boot) (s : State) : Outs P s (execResetRelease b s) := by
  unfold execResetRelease
  apply outs_next
  repeat' (first
    | with_reducible assumption
    | with_reducible exact Keeps.refl _
    | with_reducible apply keeps_release
    | fail_if_no_progress (with_reducible apply keeps_mk <;> first | exact .inl Fact.out | with_reducible exact .inr rfl | with_reducible rfl | skip)
    | with_reducible apply keeps_each
    | with_reducible apply keeps_foldl
    | split
    | intro _
    | (extract_lets +onlyGivenNames x; refine keeps_cut (x := x) ?_ ?_; on_goal 2 => clear_value x)
    | extract_lets +onlyGivenNames y)

theorem keeps_execFirmwareRunning [Fact (P .fab)] [Fact (P .regs)]  (s : State) : Outs P s (execFirmwareRunning s) := by
  unfold execFirmwareRunning
  apply outs_next
  repeat' (first
    | with_reducible assumption
    | with_reducible exact Keeps.refl _
    | with_reducible apply keeps_wr
    | fail_if_no_progress (with_reducible apply keeps_mk <;> first | exact .inl Fact.out | with_reducible exact .inr rfl | with_reducible rfl | skip)
    | with_reducible apply keeps_each
    | with_reducible apply keeps_foldl
    | split)

theorem keeps_raiseOf [Fact (P .fab)] {s₀ s : State} (m : BitVec 16) (hk : Keeps P s₀ s) : Keeps P s₀ (State.raiseOf s m) := by
  unfold State.raiseOf
  repeat' (first
    | with_reducible assumption
    | with_reducible exact Keeps.refl _
    | with_reducible apply keeps_pump
    | fail_if_no_progress (with_reducible apply keeps_mk <;> first | exact .inl Fact.out | with_reducible exact .inr rfl | with_reducible rfl | skip))

theorem keeps_raisePorts [Fact (P .fab)] {s₀ s : State}  (hk : Keeps P s₀ s) : Keeps P s₀ (State.raisePorts s) := by
  unfold State.raisePorts
  repeat' (first
    | with_reducible assumption
    | with_reducible exact Keeps.refl _
    | with_reducible apply keeps_raiseOf)

theorem keeps_sdApply [Fact (P .chs)] [Fact (P .fab)] [Fact (P .fb)] [Fact (P .free)] [Fact (P .frs)] [Fact (P .gfps)] [Fact (P .grps)] [Fact (P .lanes)] [Fact (P .led)] [Fact (P .ny)] [Fact (P .pairs)] [Fact (P .qs)] [Fact (P .regs)] [Fact (P .rxs)] [Fact (P .sp)] [Fact (P .spares)] [Fact (P .sys)] [Fact (P .tm)] [Fact (P .txs)] {s₀ s : State} (b : List Byte) (hk : Keeps P s₀ s) : Keeps P s₀ (State.sdApply s b) := by
  unfold State.sdApply
  repeat' (first
    | with_reducible assumption
    | with_reducible exact Keeps.refl _
    | with_reducible apply keeps_wr
    | with_reducible apply keeps_raise
    | with_reducible apply keeps_refreshHold
    | with_reducible apply keeps_raisePorts
    | with_reducible apply keeps_startIslands
    | with_reducible apply keeps_bgBegin
    | with_reducible apply keeps_applyLanes
    | with_reducible apply keeps_storeApply
    | fail_if_no_progress (with_reducible apply keeps_mk <;> first | exact .inl Fact.out | with_reducible exact .inr rfl | with_reducible rfl | skip)
    | with_reducible apply keeps_each
    | with_reducible apply keeps_foldl
    | split)

theorem keeps_sdReapply [Fact (P .hub)] [Fact (P .regs)] [Fact (P .sys)] {s₀ s : State} (b : List Byte) (hk : Keeps P s₀ s) : Keeps P s₀ (State.sdReapply s b) := by
  unfold State.sdReapply
  repeat' (first
    | with_reducible assumption
    | with_reducible exact Keeps.refl _
    | with_reducible apply keeps_wr
    | with_reducible apply keeps_hubRefresh
    | fail_if_no_progress (with_reducible apply keeps_mk <;> first | exact .inl Fact.out | with_reducible exact .inr rfl | with_reducible rfl | skip))

theorem keeps_sdReload [Fact (P .cu)] [Fact (P .fab)] [Fact (P .regs)] {s₀ s : State}  (hk : Keeps P s₀ s) : Keeps P s₀ (State.sdReload s) := by
  unfold State.sdReload
  repeat' (first
    | with_reducible assumption
    | with_reducible exact Keeps.refl _
    | with_reducible apply keeps_bump
    | with_reducible apply keeps_raise
    | with_reducible apply keeps_wr
    | with_reducible apply keeps_cuStream
    | with_reducible apply keeps_send
    | fail_if_no_progress (with_reducible apply keeps_mk <;> first | exact .inl Fact.out | with_reducible exact .inr rfl | with_reducible rfl | skip)
    | with_reducible apply keeps_each
    | with_reducible apply keeps_foldl
    | split)

theorem keeps_execSdReload [Fact (P .cu)] [Fact (P .fab)] [Fact (P .regs)] [Fact (P .sp)] (w : Who) (s : State) : Outs P s (execSdReload w s) := by
  unfold execSdReload
  apply outs_next
  repeat' (first
    | with_reducible assumption
    | with_reducible exact Keeps.refl _
    | with_reducible apply keeps_guardWrite
    | with_reducible apply keeps_sdReload)

theorem keeps_sdFail [Fact (P .regs)] {s₀ s : State} (code off : Nat) (hk : Keeps P s₀ s) : Keeps P s₀ (State.sdFail s code off) := by
  unfold State.sdFail
  repeat' (first
    | with_reducible assumption
    | with_reducible exact Keeps.refl _
    | with_reducible apply keeps_wr
    | with_reducible apply keeps_bump
    | with_reducible apply keeps_raise
    | fail_if_no_progress (with_reducible apply keeps_mk <;> first | exact .inl Fact.out | with_reducible exact .inr rfl | with_reducible rfl | skip)
    | with_reducible apply keeps_each
    | with_reducible apply keeps_foldl
    | split)

theorem keeps_execSdFetchResponse [Fact (P .chs)] [Fact (P .cu)] [Fact (P .fab)] [Fact (P .fb)] [Fact (P .free)] [Fact (P .frs)] [Fact (P .gfps)] [Fact (P .grps)] [Fact (P .hub)] [Fact (P .lanes)] [Fact (P .led)] [Fact (P .ny)] [Fact (P .pairs)] [Fact (P .qs)] [Fact (P .regs)] [Fact (P .rxs)] [Fact (P .sp)] [Fact (P .spares)] [Fact (P .sys)] [Fact (P .tm)] [Fact (P .txs)]  (s : State) : Outs P s (execSdFetchResponse s) := by
  unfold execSdFetchResponse
  apply outs_next
  repeat' (first
    | with_reducible assumption
    | with_reducible exact Keeps.refl _
    | with_reducible apply keeps_wr
    | with_reducible apply keeps_cuStream
    | with_reducible apply keeps_okay
    | with_reducible apply keeps_sdFail
    | with_reducible apply keeps_sdReapply
    | with_reducible apply keeps_raise
    | with_reducible apply keeps_sdApply
    | with_reducible refine keeps_response (by assumption) ?_
    | fail_if_no_progress (with_reducible apply keeps_mk <;> first | exact .inl Fact.out | with_reducible exact .inr rfl | with_reducible rfl | skip)
    | with_reducible apply keeps_each
    | with_reducible apply keeps_foldl
    | split
    | intro _
    | (extract_lets +onlyGivenNames x; refine keeps_cut (x := x) ?_ ?_; on_goal 2 => clear_value x)
    | extract_lets +onlyGivenNames y)

theorem keeps_execBringupComplete [Fact (P .regs)] [Fact (P .sys)]  (s : State) : Outs P s (execBringupComplete s) := by
  unfold execBringupComplete
  apply outs_next
  repeat' (first
    | with_reducible assumption
    | with_reducible exact Keeps.refl _
    | with_reducible apply keeps_wr64
    | with_reducible apply keeps_wr
    | with_reducible apply keeps_raise
    | fail_if_no_progress (with_reducible apply keeps_mk <;> first | exact .inl Fact.out | with_reducible exact .inr rfl | with_reducible rfl | skip)
    | with_reducible apply keeps_each
    | with_reducible apply keeps_foldl
    | split)

theorem keeps_execBringupTimeout [Fact (P .fab)] [Fact (P .free)] [Fact (P .ny)] [Fact (P .regs)] [Fact (P .tm)]  (s : State) : Outs P s (execBringupTimeout s) := by
  unfold execBringupTimeout
  apply outs_next
  repeat' (first
    | with_reducible assumption
    | with_reducible exact Keeps.refl _
    | with_reducible apply keeps_advanceTo
    | with_reducible apply keeps_each
    | with_reducible apply keeps_postOpen
    | with_reducible apply keeps_wr
    | fail_if_no_progress (with_reducible apply keeps_mk <;> first | exact .inl Fact.out | with_reducible exact .inr rfl | with_reducible rfl | skip)
    | with_reducible apply keeps_each
    | with_reducible apply keeps_foldl
    | split)

theorem keeps_execBringupSliceTimeout [Fact (P .chs)] [Fact (P .fb)] [Fact (P .free)] [Fact (P .frs)] [Fact (P .gfps)] [Fact (P .grps)] [Fact (P .ny)] [Fact (P .pairs)] [Fact (P .regs)] [Fact (P .rxs)] [Fact (P .sys)] [Fact (P .tm)] [Fact (P .txs)] (i : Fin 4) (s : State) : Outs P s (execBringupSliceTimeout i s) := by
  unfold execBringupSliceTimeout
  apply outs_next
  repeat' (first
    | with_reducible assumption
    | with_reducible exact Keeps.refl _
    | with_reducible apply keeps_advanceTo
    | with_reducible apply keeps_postOpen
    | with_reducible apply keeps_portRefresh
    | fail_if_no_progress (with_reducible apply keeps_mk <;> first | exact .inl Fact.out | with_reducible exact .inr rfl | with_reducible rfl | skip)
    | with_reducible apply keeps_each
    | with_reducible apply keeps_foldl
    | split)

theorem keeps_hbWrite1 [Fact (P .fab)] [Fact (P .sys)] {s₀ s : State}  (hk : Keeps P s₀ s) : Keeps P s₀ (State.hbWrite1 s) := by
  unfold State.hbWrite1
  repeat' (first
    | with_reducible assumption
    | with_reducible exact Keeps.refl _
    | with_reducible apply keeps_hostNotify
    | fail_if_no_progress (with_reducible apply keeps_mk <;> first | exact .inl Fact.out | with_reducible exact .inr rfl | with_reducible rfl | skip)
    | with_reducible apply keeps_each
    | with_reducible apply keeps_foldl
    | split)

theorem keeps_execHeartbeatMark [Fact (P .fab)] [Fact (P .regs)] [Fact (P .sys)] [Fact (P .tm)]  (s : State) : Outs P s (execHeartbeatMark s) := by
  unfold execHeartbeatMark
  apply outs_next
  repeat' (first
    | with_reducible assumption
    | with_reducible exact Keeps.refl _
    | with_reducible apply keeps_advanceTo
    | with_reducible apply keeps_wr64
    | with_reducible apply keeps_hbWrite1
    | fail_if_no_progress (with_reducible apply keeps_mk <;> first | exact .inl Fact.out | with_reducible exact .inr rfl | with_reducible rfl | skip)
    | with_reducible apply keeps_each
    | with_reducible apply keeps_foldl
    | split)

theorem keeps_execHeartbeatDeferredWrite [Fact (P .fab)] [Fact (P .sys)]  (s : State) : Outs P s (execHeartbeatDeferredWrite s) := by
  unfold execHeartbeatDeferredWrite
  apply outs_next
  repeat' (first
    | with_reducible assumption
    | with_reducible exact Keeps.refl _
    | with_reducible apply keeps_hbWrite1
    | fail_if_no_progress (with_reducible apply keeps_mk <;> first | exact .inl Fact.out | with_reducible exact .inr rfl | with_reducible rfl | skip)
    | with_reducible apply keeps_each
    | with_reducible apply keeps_foldl
    | split)

theorem keeps_execHeartbeatWriteResponse [Fact (P .fab)] [Fact (P .regs)] [Fact (P .sp)] [Fact (P .sys)]  (s : State) : Outs P s (execHeartbeatWriteResponse s) := by
  unfold execHeartbeatWriteResponse
  apply outs_next
  repeat' (first
    | with_reducible assumption
    | with_reducible exact Keeps.refl _
    | with_reducible apply keeps_okay
    | with_reducible apply keeps_raise
    | with_reducible refine keeps_response (by assumption) ?_
    | fail_if_no_progress (with_reducible apply keeps_mk <;> first | exact .inl Fact.out | with_reducible exact .inr rfl | with_reducible rfl | skip)
    | with_reducible apply keeps_each
    | with_reducible apply keeps_foldl
    | split)

theorem keeps_execIslandClockStop [Fact (P .chs)] [Fact (P .regs)] [Fact (P .rxs)] [Fact (P .sys)] [Fact (P .tm)] (i : Fin 9) (s : State) : Outs P s (execIslandClockStop i s) := by
  unfold execIslandClockStop
  apply outs_next
  repeat' (first
    | with_reducible assumption
    | with_reducible exact Keeps.refl _
    | with_reducible apply keeps_refreshRun
    | fail_if_no_progress (with_reducible apply keeps_mk <;> first | exact .inl Fact.out | with_reducible exact .inr rfl | with_reducible rfl | skip))

end Sys2Proof.Laws
end

