-- ==== Sys2Proof/Laws/KeepsPower.lean ====
section
/-! SUPPORT. What the operations of Power.lean keep. -/

namespace Sys2Proof.Laws

open Sys2Proof.Machine

set_option Elab.async false

variable {P : Part → Prop}

theorem keeps_pwA1 [Fact (P .regs)] {s₀ s : State}  (hk : Keeps P s₀ s) : Keeps P s₀ (State.pwA1 s) := by
  unfold State.pwA1
  repeat' (first
    | with_reducible assumption
    | with_reducible exact Keeps.refl _
    | with_reducible apply keeps_put)

theorem keeps_pwSettle [Fact (P .pw)] [Fact (P .regs)] [Fact (P .tm)] {s₀ s : State} (st : Nat) (hk : Keeps P s₀ s) : Keeps P s₀ (State.pwSettle s st) := by
  unfold State.pwSettle
  repeat' (first
    | with_reducible assumption
    | with_reducible exact Keeps.refl _
    | with_reducible apply keeps_keep
    | with_reducible apply keeps_wr
    | with_reducible apply keeps_pwA1
    | fail_if_no_progress (with_reducible apply keeps_mk <;> first | exact .inl Fact.out | with_reducible exact .inr rfl | with_reducible rfl | skip))

theorem keeps_parkStart [Fact (P .pw)] [Fact (P .regs)] {s₀ s : State}  (hk : Keeps P s₀ s) : Keeps P s₀ (State.parkStart s) := by
  unfold State.parkStart
  repeat' (first
    | with_reducible assumption
    | with_reducible exact Keeps.refl _
    | with_reducible apply keeps_wr
    | fail_if_no_progress (with_reducible apply keeps_mk <;> first | exact .inl Fact.out | with_reducible exact .inr rfl | with_reducible rfl | skip))

theorem keeps_pwDrive [Fact (P .pw)] {s₀ s : State} (code step : Nat) (hk : Keeps P s₀ s) : Keeps P s₀ (State.pwDrive s code step) := by
  unfold State.pwDrive
  repeat' (first
    | with_reducible assumption
    | with_reducible exact Keeps.refl _
    | fail_if_no_progress (with_reducible apply keeps_mk <;> first | exact .inl Fact.out | with_reducible exact .inr rfl | with_reducible rfl | skip))

theorem keeps_pwRequest [Fact (P .pw)] [Fact (P .regs)] {s₀ s : State} (req : Nat) (hk : Keeps P s₀ s) : Keeps P s₀ (State.pwRequest s req) := by
  unfold State.pwRequest
  repeat' (first
    | with_reducible assumption
    | with_reducible exact Keeps.refl _
    | with_reducible apply keeps_wr
    | with_reducible apply keeps_bump
    | with_reducible apply keeps_raise
    | with_reducible apply keeps_pwDrive
    | with_reducible apply keeps_parkStart
    | fail_if_no_progress (with_reducible apply keeps_mk <;> first | exact .inl Fact.out | with_reducible exact .inr rfl | with_reducible rfl | skip)
    | with_reducible apply keeps_each
    | with_reducible apply keeps_foldl
    | split
    | intro _
    | (extract_lets +onlyGivenNames x; refine keeps_cut (x := x) ?_ ?_; on_goal 2 => clear_value x)
    | extract_lets +onlyGivenNames y)

theorem keeps_pwCtrl [Fact (P .pw)] [Fact (P .regs)] {s₀ s : State} (v : Nat) (hk : Keeps P s₀ s) : Keeps P s₀ (State.pwCtrl s v) := by
  unfold State.pwCtrl
  repeat' (first
    | with_reducible assumption
    | with_reducible exact Keeps.refl _
    | with_reducible apply keeps_writePlain
    | with_reducible apply keeps_pwA1
    | with_reducible apply keeps_pwRequest)

theorem keeps_pwWrite [Fact (P .pw)] [Fact (P .regs)] {s₀ s : State} (off v : Nat) (hk : Keeps P s₀ s) : Keeps P s₀ (State.pwWrite s off v) := by
  unfold State.pwWrite
  repeat' (first
    | with_reducible assumption
    | with_reducible exact Keeps.refl _
    | with_reducible apply keeps_pwCtrl
    | with_reducible apply keeps_wr
    | with_reducible apply keeps_writePlain
    | fail_if_no_progress (with_reducible apply keeps_mk <;> first | exact .inl Fact.out | with_reducible exact .inr rfl | with_reducible rfl | skip)
    | with_reducible apply keeps_each
    | with_reducible apply keeps_foldl
    | split)

theorem keeps_pwReq [Fact (P .fab)] [Fact (P .pw)] [Fact (P .regs)] [Fact (P .sp)] {s₀ s : State} (w : Who) (v : Word) (code : Nat) (hk : Keeps P s₀ s) : Keeps P s₀ (State.pwReq s w v code) := by
  unfold State.pwReq
  repeat' (first
    | with_reducible assumption
    | with_reducible exact Keeps.refl _
    | with_reducible apply keeps_guardWrite
    | with_reducible apply keeps_pwCtrl
    | fail_if_no_progress (with_reducible apply keeps_mk <;> first | exact .inl Fact.out | with_reducible exact .inr rfl | with_reducible rfl | skip)
    | with_reducible apply keeps_each
    | with_reducible apply keeps_foldl
    | split
    | intro _)

theorem keeps_execRequestA0 [Fact (P .fab)] [Fact (P .pw)] [Fact (P .regs)] [Fact (P .sp)] (w : Who) (v : Word) (s : State) : Outs P s (execRequestA0 w v s) := by
  unfold execRequestA0
  apply outs_next
  repeat' (first
    | with_reducible assumption
    | with_reducible exact Keeps.refl _
    | with_reducible apply keeps_pwReq)

theorem keeps_execRequestP1 [Fact (P .fab)] [Fact (P .pw)] [Fact (P .regs)] [Fact (P .sp)] (w : Who) (v : Word) (s : State) : Outs P s (execRequestP1 w v s) := by
  unfold execRequestP1
  apply outs_next
  repeat' (first
    | with_reducible assumption
    | with_reducible exact Keeps.refl _
    | with_reducible apply keeps_pwReq)

theorem keeps_execRequestW [Fact (P .fab)] [Fact (P .pw)] [Fact (P .regs)] [Fact (P .sp)] (w : Who) (v : Word) (s : State) : Outs P s (execRequestW w v s) := by
  unfold execRequestW
  apply outs_next
  repeat' (first
    | with_reducible assumption
    | with_reducible exact Keeps.refl _
    | with_reducible apply keeps_pwReq)

theorem keeps_execRequestS [Fact (P .fab)] [Fact (P .pw)] [Fact (P .regs)] [Fact (P .sp)] (w : Who) (v : Word) (s : State) : Outs P s (execRequestS w v s) := by
  unfold execRequestS
  apply outs_next
  repeat' (first
    | with_reducible assumption
    | with_reducible exact Keeps.refl _
    | with_reducible apply keeps_pwReq)

theorem keeps_execRequestD [Fact (P .fab)] [Fact (P .pw)] [Fact (P .regs)] [Fact (P .sp)] (w : Who) (v : Word) (s : State) : Outs P s (execRequestD w v s) := by
  unfold execRequestD
  apply outs_next
  repeat' (first
    | with_reducible assumption
    | with_reducible exact Keeps.refl _
    | with_reducible apply keeps_pwReq)

theorem keeps_holdIdle [Fact (P .pw)] [Fact (P .regs)] {s₀ s : State} (ps : List Nat) (hk : Keeps P s₀ s) : Keeps P s₀ (State.holdIdle s ps) := by
  unfold State.holdIdle
  repeat' (first
    | with_reducible assumption
    | with_reducible exact Keeps.refl _
    | with_reducible apply keeps_each
    | with_reducible apply keeps_refreshIdle
    | fail_if_no_progress (with_reducible apply keeps_mk <;> first | exact .inl Fact.out | with_reducible exact .inr rfl | with_reducible rfl | skip))

theorem keeps_lanesOff [Fact (P .chs)] [Fact (P .fb)] [Fact (P .frs)] [Fact (P .gfps)] [Fact (P .grps)] [Fact (P .lanes)] [Fact (P .pairs)] [Fact (P .regs)] [Fact (P .rxs)] [Fact (P .spares)] [Fact (P .sys)] [Fact (P .txs)] {s₀ s : State} (ps : List Nat) (hk : Keeps P s₀ s) : Keeps P s₀ (State.lanesOff s ps) := by
  unfold State.lanesOff
  repeat' (first
    | with_reducible assumption
    | with_reducible exact Keeps.refl _
    | with_reducible apply keeps_each
    | with_reducible apply keeps_laneClk
    | with_reducible apply keeps_setLane
    | with_reducible apply keeps_laneDrop
    | with_reducible apply keeps_portRefresh
    | fail_if_no_progress (with_reducible apply keeps_mk <;> first | exact .inl Fact.out | with_reducible exact .inr rfl | with_reducible rfl | skip)
    | with_reducible apply keeps_each
    | with_reducible apply keeps_foldl
    | split
    | intro _)

theorem keeps_lanesOn [Fact (P .chs)] [Fact (P .fb)] [Fact (P .frs)] [Fact (P .gfps)] [Fact (P .grps)] [Fact (P .lanes)] [Fact (P .pairs)] [Fact (P .pw)] [Fact (P .regs)] [Fact (P .rxs)] [Fact (P .sys)] [Fact (P .txs)] {s₀ s : State}  (hk : Keeps P s₀ s) : Keeps P s₀ (State.lanesOn s) := by
  unfold State.lanesOn
  repeat' (first
    | with_reducible assumption
    | with_reducible exact Keeps.refl _
    | with_reducible apply keeps_each
    | with_reducible apply keeps_setLane
    | with_reducible apply keeps_portRefresh
    | fail_if_no_progress (with_reducible apply keeps_mk <;> first | exact .inl Fact.out | with_reducible exact .inr rfl | with_reducible rfl | skip)
    | with_reducible apply keeps_each
    | with_reducible apply keeps_foldl
    | split
    | intro _)

theorem keeps_execEntryRequestsDrained [Fact (P .fab)] [Fact (P .pw)] [Fact (P .regs)]  (s : State) : Outs P s (execEntryRequestsDrained s) := by
  unfold execEntryRequestsDrained
  apply outs_next
  repeat' (first
    | with_reducible assumption
    | with_reducible exact Keeps.refl _
    | with_reducible apply keeps_holdIdle
    | fail_if_no_progress (with_reducible apply keeps_mk <;> first | exact .inl Fact.out | with_reducible exact .inr rfl | with_reducible rfl | skip)
    | with_reducible apply keeps_each
    | with_reducible apply keeps_foldl
    | split)

theorem keeps_portsBack [Fact (P .fab)] {s₀ s : State}  (hk : Keeps P s₀ s) : Keeps P s₀ (State.portsBack s) := by
  unfold State.portsBack
  repeat' (first
    | with_reducible assumption
    | with_reducible exact Keeps.refl _
    | with_reducible apply keeps_pump
    | with_reducible apply keeps_raiseOf
    | fail_if_no_progress (with_reducible apply keeps_mk <;> first | exact .inl Fact.out | with_reducible exact .inr rfl | with_reducible rfl | skip)
    | with_reducible apply keeps_each
    | with_reducible apply keeps_foldl
    | split)

theorem keeps_fabricLost [Fact (P .regs)] {s₀ s : State}  (hk : Keeps P s₀ s) : Keeps P s₀ (State.fabricLost s) := by
  unfold State.fabricLost
  repeat' (first
    | with_reducible assumption
    | with_reducible exact Keeps.refl _
    | with_reducible apply keeps_each
    | with_reducible apply keeps_wr
    | fail_if_no_progress (with_reducible apply keeps_mk <;> first | exact .inl Fact.out | with_reducible exact .inr rfl | with_reducible rfl | skip)
    | with_reducible apply keeps_each
    | with_reducible apply keeps_foldl
    | split
    | intro _)

theorem keeps_sleepClocks [Fact (P .chs)] [Fact (P .regs)] [Fact (P .rxs)] [Fact (P .sys)] [Fact (P .tm)] {s₀ s : State} (target : Nat) (hk : Keeps P s₀ s) : Keeps P s₀ (State.sleepClocks s target) := by
  unfold State.sleepClocks
  repeat' (first
    | with_reducible assumption
    | with_reducible exact Keeps.refl _
    | with_reducible apply keeps_keep
    | with_reducible apply keeps_refreshRun
    | fail_if_no_progress (with_reducible apply keeps_mk <;> first | exact .inl Fact.out | with_reducible exact .inr rfl | with_reducible rfl | skip))

theorem keeps_execEntryTickLatch [Fact (P .chs)] [Fact (P .fab)] [Fact (P .fb)] [Fact (P .frs)] [Fact (P .gfps)] [Fact (P .grps)] [Fact (P .lanes)] [Fact (P .pairs)] [Fact (P .pw)] [Fact (P .regs)] [Fact (P .rxs)] [Fact (P .spares)] [Fact (P .sys)] [Fact (P .tm)] [Fact (P .txs)]  (s : State) : Outs P s (execEntryTickLatch s) := by
  unfold execEntryTickLatch
  apply outs_next
  repeat' (first
    | with_reducible assumption
    | with_reducible exact Keeps.refl _
    | with_reducible apply keeps_advance
    | with_reducible apply keeps_lanesOff
    | with_reducible apply keeps_sleepClocks
    | with_reducible apply keeps_settleBeats
    | with_reducible apply keeps_fabricLost
    | with_reducible apply keeps_pwDrive
    | fail_if_no_progress (with_reducible apply keeps_mk <;> first | exact .inl Fact.out | with_reducible exact .inr rfl | with_reducible rfl | skip)
    | with_reducible apply keeps_each
    | with_reducible apply keeps_foldl
    | split)

theorem keeps_pwAbort [Fact (P .chs)] [Fact (P .fab)] [Fact (P .fb)] [Fact (P .frs)] [Fact (P .gfps)] [Fact (P .grps)] [Fact (P .lanes)] [Fact (P .pairs)] [Fact (P .pw)] [Fact (P .regs)] [Fact (P .rxs)] [Fact (P .sys)] [Fact (P .txs)] {s₀ s : State} (code : Nat) (hk : Keeps P s₀ s) : Keeps P s₀ (State.pwAbort s code) := by
  unfold State.pwAbort
  repeat' (first
    | with_reducible assumption
    | with_reducible exact Keeps.refl _
    | with_reducible apply keeps_lanesOn
    | with_reducible apply keeps_portsBack
    | with_reducible apply keeps_wr
    | with_reducible apply keeps_raise
    | fail_if_no_progress (with_reducible apply keeps_mk <;> first | exact .inl Fact.out | with_reducible exact .inr rfl | with_reducible rfl | skip)
    | with_reducible apply keeps_each
    | with_reducible apply keeps_foldl
    | split)

theorem keeps_pwExit [Fact (P .hub)] [Fact (P .pw)] [Fact (P .regs)] {s₀ s : State}  (hk : Keeps P s₀ s) : Keeps P s₀ (State.pwExit s) := by
  unfold State.pwExit
  repeat' (first
    | with_reducible assumption
    | with_reducible exact Keeps.refl _
    | with_reducible apply keeps_wr64
    | with_reducible apply keeps_pwDrive
    | with_reducible apply keeps_wr
    | fail_if_no_progress (with_reducible apply keeps_mk <;> first | exact .inl Fact.out | with_reducible exact .inr rfl | with_reducible rfl | skip)
    | with_reducible apply keeps_each
    | with_reducible apply keeps_foldl
    | split)

theorem keeps_pwEntered [Fact (P .hub)] [Fact (P .pw)] [Fact (P .regs)] [Fact (P .tm)] {s₀ s : State} (st : Nat) (hk : Keeps P s₀ s) : Keeps P s₀ (State.pwEntered s st) := by
  unfold State.pwEntered
  repeat' (first
    | with_reducible assumption
    | with_reducible exact Keeps.refl _
    | with_reducible apply keeps_pwSettle
    | with_reducible apply keeps_raise
    | with_reducible apply keeps_pwExit
    | fail_if_no_progress (with_reducible apply keeps_mk <;> first | exact .inl Fact.out | with_reducible exact .inr rfl | with_reducible rfl | skip)
    | with_reducible apply keeps_each
    | with_reducible apply keeps_foldl
    | split
    | intro _
    | (extract_lets +onlyGivenNames x; refine keeps_cut (x := x) ?_ ?_; on_goal 2 => clear_value x))

theorem keeps_unpark [Fact (P .chs)] [Fact (P .fab)] [Fact (P .fb)] [Fact (P .free)] [Fact (P .frs)] [Fact (P .gfps)] [Fact (P .grps)] [Fact (P .lanes)] [Fact (P .led)] [Fact (P .ny)] [Fact (P .pairs)] [Fact (P .pw)] [Fact (P .qs)] [Fact (P .regs)] [Fact (P .rxs)] [Fact (P .sp)] [Fact (P .spares)] [Fact (P .sys)] [Fact (P .tm)] [Fact (P .txs)] {s₀ s : State}  (hk : Keeps P s₀ s) : Keeps P s₀ (State.unpark s) := by
  unfold State.unpark
  repeat' (first
    | with_reducible assumption
    | with_reducible exact Keeps.refl _
    | with_reducible apply keeps_refreshRun
    | with_reducible apply keeps_islandsSettle
    | with_reducible apply keeps_each
    | with_reducible apply keeps_wr
    | with_reducible apply keeps_setCh
    | with_reducible apply keeps_lanesOn
    | with_reducible apply keeps_put
    | with_reducible apply keeps_pwSettle
    | with_reducible apply keeps_raise
    | with_reducible apply keeps_parkStart
    | fail_if_no_progress (with_reducible apply keeps_mk <;> first | exact .inl Fact.out | with_reducible exact .inr rfl | with_reducible rfl | skip)
    | with_reducible apply keeps_each
    | with_reducible apply keeps_foldl
    | split
    | intro _
    | (extract_lets +onlyGivenNames x; refine keeps_cut (x := x) ?_ ?_; on_goal 2 => clear_value x)
    | extract_lets +onlyGivenNames y)

theorem keeps_execPwAckRise [Fact (P .chs)] [Fact (P .fab)] [Fact (P .fb)] [Fact (P .free)] [Fact (P .frs)] [Fact (P .gfps)] [Fact (P .grps)] [Fact (P .hub)] [Fact (P .lanes)] [Fact (P .led)] [Fact (P .ny)] [Fact (P .pairs)] [Fact (P .pw)] [Fact (P .qs)] [Fact (P .regs)] [Fact (P .rxs)] [Fact (P .sp)] [Fact (P .spares)] [Fact (P .sys)] [Fact (P .tm)] [Fact (P .txs)]  (s : State) : Outs P s (execPwAckRise s) := by
  unfold execPwAckRise
  apply outs_next
  repeat' (first
    | with_reducible assumption
    | with_reducible exact Keeps.refl _
    | with_reducible apply keeps_pwEntered
    | with_reducible apply keeps_pwSettle
    | with_reducible apply keeps_raise
    | with_reducible apply keeps_unpark
    | fail_if_no_progress (with_reducible apply keeps_mk <;> first | exact .inl Fact.out | with_reducible exact .inr rfl | with_reducible rfl | skip)
    | with_reducible apply keeps_each
    | with_reducible apply keeps_foldl
    | split)

theorem keeps_execPwAckTimeout [Fact (P .pw)] [Fact (P .regs)] [Fact (P .tm)]  (s : State) : Outs P s (execPwAckTimeout s) := by
  unfold execPwAckTimeout
  apply outs_next
  repeat' (first
    | with_reducible assumption
    | with_reducible exact Keeps.refl _
    | with_reducible apply keeps_advanceTo
    | with_reducible apply keeps_bump
    | with_reducible apply keeps_raise
    | with_reducible apply keeps_pwDrive
    | with_reducible apply keeps_wr
    | fail_if_no_progress (with_reducible apply keeps_mk <;> first | exact .inl Fact.out | with_reducible exact .inr rfl | with_reducible rfl | skip)
    | with_reducible apply keeps_each
    | with_reducible apply keeps_foldl
    | split)

theorem keeps_wakeNow [Fact (P .chs)] [Fact (P .fab)] [Fact (P .fb)] [Fact (P .frs)] [Fact (P .gfps)] [Fact (P .grps)] [Fact (P .hub)] [Fact (P .lanes)] [Fact (P .pairs)] [Fact (P .pw)] [Fact (P .regs)] [Fact (P .rxs)] [Fact (P .sys)] [Fact (P .txs)] {s₀ s : State} (b : Nat) (hk : Keeps P s₀ s) : Keeps P s₀ (State.wakeNow s b) := by
  unfold State.wakeNow
  repeat' (first
    | with_reducible assumption
    | with_reducible exact Keeps.refl _
    | with_reducible apply keeps_pwAbort
    | with_reducible apply keeps_setBit
    | with_reducible apply keeps_raise
    | with_reducible apply keeps_pwExit
    | fail_if_no_progress (with_reducible apply keeps_mk <;> first | exact .inl Fact.out | with_reducible exact .inr rfl | with_reducible rfl | skip)
    | with_reducible apply keeps_each
    | with_reducible apply keeps_foldl
    | split)

theorem keeps_execWakeSource [Fact (P .chs)] [Fact (P .fab)] [Fact (P .fb)] [Fact (P .frs)] [Fact (P .gfps)] [Fact (P .grps)] [Fact (P .hub)] [Fact (P .lanes)] [Fact (P .pairs)] [Fact (P .pw)] [Fact (P .regs)] [Fact (P .rxs)] [Fact (P .sys)] [Fact (P .txs)] (b : Fin 5) (s : State) : Outs P s (execWakeSource b s) := by
  unfold execWakeSource
  apply outs_next
  repeat' (first
    | with_reducible assumption
    | with_reducible exact Keeps.refl _
    | with_reducible apply keeps_wakeNow
    | fail_if_no_progress (with_reducible apply keeps_mk <;> first | exact .inl Fact.out | with_reducible exact .inr rfl | with_reducible rfl | skip)
    | with_reducible apply keeps_each
    | with_reducible apply keeps_foldl
    | split
    | intro _
    | (extract_lets +onlyGivenNames x; refine keeps_cut (x := x) ?_ ?_; on_goal 2 => clear_value x)
    | extract_lets +onlyGivenNames y)

theorem keeps_execWakeTimer [Fact (P .chs)] [Fact (P .fab)] [Fact (P .fb)] [Fact (P .frs)] [Fact (P .gfps)] [Fact (P .grps)] [Fact (P .hub)] [Fact (P .lanes)] [Fact (P .pairs)] [Fact (P .pw)] [Fact (P .regs)] [Fact (P .rxs)] [Fact (P .sys)] [Fact (P .tm)] [Fact (P .txs)]  (s : State) : Outs P s (execWakeTimer s) := by
  unfold execWakeTimer
  apply outs_next
  repeat' (first
    | with_reducible assumption
    | with_reducible exact Keeps.refl _
    | with_reducible apply keeps_advance
    | with_reducible apply keeps_wakeNow
    | fail_if_no_progress (with_reducible apply keeps_mk <;> first | exact .inl Fact.out | with_reducible exact .inr rfl | with_reducible rfl | skip)
    | with_reducible apply keeps_each
    | with_reducible apply keeps_foldl
    | split
    | intro _
    | (extract_lets +onlyGivenNames x; refine keeps_cut (x := x) ?_ ?_; on_goal 2 => clear_value x)
    | extract_lets +onlyGivenNames y)

theorem keeps_execWatchWake [Fact (P .chs)] [Fact (P .fab)] [Fact (P .fb)] [Fact (P .frs)] [Fact (P .gfps)] [Fact (P .grps)] [Fact (P .hub)] [Fact (P .lanes)] [Fact (P .pairs)] [Fact (P .pw)] [Fact (P .regs)] [Fact (P .rxs)] [Fact (P .sys)] [Fact (P .txs)] (e : Fin 32) (s : State) : Outs P s (execWatchWake e s) := by
  unfold execWatchWake
  apply outs_next
  repeat' (first
    | with_reducible assumption
    | with_reducible exact Keeps.refl _
    | with_reducible apply keeps_wr
    | with_reducible apply keeps_raise
    | with_reducible apply keeps_wakeNow
    | fail_if_no_progress (with_reducible apply keeps_mk <;> first | exact .inl Fact.out | with_reducible exact .inr rfl | with_reducible rfl | skip)
    | with_reducible apply keeps_each
    | with_reducible apply keeps_foldl
    | split
    | intro _
    | (extract_lets +onlyGivenNames x; refine keeps_cut (x := x) ?_ ?_; on_goal 2 => clear_value x)
    | extract_lets +onlyGivenNames y)

theorem keeps_mgmtWakes [Fact (P .cu)] [Fact (P .hub)] [Fact (P .kw)] [Fact (P .ny)] [Fact (P .regs)] {s₀ s : State}  (hk : Keeps P s₀ s) : Keeps P s₀ (State.mgmtWakes s) := by
  unfold State.mgmtWakes
  repeat' (first
    | with_reducible assumption
    | with_reducible exact Keeps.refl _
    | with_reducible apply keeps_hubWakes
    | with_reducible apply keeps_haspRise
    | with_reducible apply keeps_wr
    | with_reducible apply keeps_raise
    | fail_if_no_progress (with_reducible apply keeps_mk <;> first | exact .inl Fact.out | with_reducible exact .inr rfl | with_reducible rfl | skip)
    | with_reducible apply keeps_each
    | with_reducible apply keeps_foldl
    | split
    | intro _
    | (extract_lets +onlyGivenNames x; refine keeps_cut (x := x) ?_ ?_; on_goal 2 => clear_value x))

theorem keeps_logDark [Fact (P .ny)] [Fact (P .regs)] {s₀ s : State} (n : Nat) (hk : Keeps P s₀ s) : Keeps P s₀ (State.logDark s n) := by
  unfold State.logDark
  repeat' (first
    | with_reducible assumption
    | with_reducible exact Keeps.refl _
    | with_reducible apply keeps_bump
    | with_reducible apply keeps_wr
    | fail_if_no_progress (with_reducible apply keeps_mk <;> first | exact .inl Fact.out | with_reducible exact .inr rfl | with_reducible rfl | skip))

theorem keeps_exitD [∀ p, Fact (P p)] {s₀ s : State} (b : Boot) (hk : Keeps P s₀ s) : Keeps P s₀ (State.exitD s b) := by
  unfold State.exitD
  repeat' (first
    | with_reducible assumption
    | with_reducible exact Keeps.refl _
    | with_reducible apply keeps_keep
    | with_reducible apply keeps_blkReset
    | with_reducible apply keeps_release
    | with_reducible apply keeps_put
    | with_reducible apply keeps_refreshHold
    | with_reducible apply keeps_logDark
    | fail_if_no_progress (with_reducible apply keeps_mk <;> first | exact .inl Fact.out | with_reducible exact .inr rfl | with_reducible rfl | skip)
    | with_reducible apply keeps_each
    | with_reducible apply keeps_foldl
    | split
    | intro _
    | (extract_lets +onlyGivenNames x; refine keeps_cut (x := x) ?_ ?_; on_goal 2 => clear_value x)
    | extract_lets +onlyGivenNames y)

theorem keeps_execExitPowerRestored [∀ p, Fact (P p)] (b : Boot) (s : State) : Outs P s (execExitPowerRestored b s) := by
  unfold execExitPowerRestored
  apply outs_next
  repeat' (first
    | with_reducible assumption
    | with_reducible exact Keeps.refl _
    | with_reducible apply keeps_exitD
    | with_reducible apply keeps_refreshRun
    | with_reducible apply keeps_islandsSettle
    | with_reducible apply keeps_mgmtWakes
    | fail_if_no_progress (with_reducible apply keeps_mk <;> first | exact .inl Fact.out | with_reducible exact .inr rfl | with_reducible rfl | skip)
    | with_reducible apply keeps_each
    | with_reducible apply keeps_foldl
    | split)

theorem keeps_sleepAdvance [Fact (P .regs)] [Fact (P .tm)] {s₀ s : State}  (hk : Keeps P s₀ s) : Keeps P s₀ (State.sleepAdvance s) := by
  unfold State.sleepAdvance
  repeat' (first
    | with_reducible assumption
    | with_reducible exact Keeps.refl _
    | with_reducible apply keeps_advance
    | with_reducible apply keeps_raise
    | fail_if_no_progress (with_reducible apply keeps_mk <;> first | exact .inl Fact.out | with_reducible exact .inr rfl | with_reducible rfl | skip)
    | with_reducible apply keeps_each
    | with_reducible apply keeps_foldl
    | split)

theorem keeps_hbResume [Fact (P .sys)] {s₀ s : State}  (hk : Keeps P s₀ s) : Keeps P s₀ (State.hbResume s) := by
  unfold State.hbResume
  repeat' (first
    | with_reducible assumption
    | with_reducible exact Keeps.refl _
    | fail_if_no_progress (with_reducible apply keeps_mk <;> first | exact .inl Fact.out | with_reducible exact .inr rfl | with_reducible rfl | skip)
    | with_reducible apply keeps_each
    | with_reducible apply keeps_foldl
    | split)

theorem keeps_execExitClocksOk [Fact (P .chs)] [Fact (P .fab)] [Fact (P .fb)] [Fact (P .frs)] [Fact (P .gfps)] [Fact (P .grps)] [Fact (P .lanes)] [Fact (P .pairs)] [Fact (P .pw)] [Fact (P .regs)] [Fact (P .rxs)] [Fact (P .sys)] [Fact (P .tbl)] [Fact (P .tm)] [Fact (P .txs)]  (s : State) : Outs P s (execExitClocksOk s) := by
  unfold execExitClocksOk
  apply outs_next
  repeat' (first
    | with_reducible assumption
    | with_reducible exact Keeps.refl _
    | with_reducible apply keeps_sleepAdvance
    | with_reducible apply keeps_portsBack
    | with_reducible apply keeps_lanesOn
    | with_reducible apply keeps_pwSettle
    | with_reducible apply keeps_raise
    | with_reducible apply keeps_hbResume
    | with_reducible apply keeps_parkStart
    | fail_if_no_progress (with_reducible apply keeps_mk <;> first | exact .inl Fact.out | with_reducible exact .inr rfl | with_reducible rfl | skip)
    | with_reducible apply keeps_each
    | with_reducible apply keeps_foldl
    | split
    | intro _
    | (extract_lets +onlyGivenNames x; refine keeps_cut (x := x) ?_ ?_; on_goal 2 => clear_value x)
    | extract_lets +onlyGivenNames y)

theorem keeps_execP1EntryDrained [Fact (P .chs)] [Fact (P .fb)] [Fact (P .frs)] [Fact (P .gfps)] [Fact (P .grps)] [Fact (P .lanes)] [Fact (P .pairs)] [Fact (P .pw)] [Fact (P .regs)] [Fact (P .rxs)] [Fact (P .spares)] [Fact (P .sys)] [Fact (P .tm)] [Fact (P .txs)]  (s : State) : Outs P s (execP1EntryDrained s) := by
  unfold execP1EntryDrained
  apply outs_next
  repeat' (first
    | with_reducible assumption
    | with_reducible exact Keeps.refl _
    | with_reducible apply keeps_stage
    | with_reducible apply keeps_holdIdle
    | with_reducible apply keeps_lanesOff
    | with_reducible apply keeps_refreshRun
    | with_reducible apply keeps_pwDrive
    | fail_if_no_progress (with_reducible apply keeps_mk <;> first | exact .inl Fact.out | with_reducible exact .inr rfl | with_reducible rfl | skip)
    | with_reducible apply keeps_each
    | with_reducible apply keeps_foldl
    | split)

theorem keeps_thermAct [Fact (P .chs)] [Fact (P .fab)] [Fact (P .fb)] [Fact (P .free)] [Fact (P .frs)] [Fact (P .gfps)] [Fact (P .grps)] [Fact (P .lanes)] [Fact (P .pairs)] [Fact (P .pw)] [Fact (P .regs)] [Fact (P .rxs)] [Fact (P .sys)] [Fact (P .txs)] {s₀ s : State} (was : Nat) (hk : Keeps P s₀ s) : Keeps P s₀ (State.thermAct s was) := by
  unfold State.thermAct
  repeat' (first
    | with_reducible assumption
    | with_reducible exact Keeps.refl _
    | with_reducible apply keeps_raise
    | with_reducible apply keeps_pwAbort
    | with_reducible apply keeps_parkStart
    | with_reducible apply keeps_draw
    | with_reducible refine keeps_draw_eq (by assumption) ?_
    | fail_if_no_progress (with_reducible apply keeps_mk <;> first | exact .inl Fact.out | with_reducible exact .inr rfl | with_reducible rfl | skip)
    | with_reducible apply keeps_each
    | with_reducible apply keeps_foldl
    | split
    | intro _
    | (extract_lets +onlyGivenNames x; refine keeps_cut (x := x) ?_ ?_; on_goal 2 => clear_value x)
    | extract_lets +onlyGivenNames y)

theorem keeps_execThermalUpdate [Fact (P .chs)] [Fact (P .fab)] [Fact (P .fb)] [Fact (P .free)] [Fact (P .frs)] [Fact (P .gfps)] [Fact (P .grps)] [Fact (P .lanes)] [Fact (P .ny)] [Fact (P .pairs)] [Fact (P .pw)] [Fact (P .regs)] [Fact (P .rxs)] [Fact (P .sys)] [Fact (P .txs)] (r : List (BitVec 12)) (s : State) : Outs P s (execThermalUpdate r s) := by
  unfold execThermalUpdate
  apply outs_next
  repeat' (first
    | with_reducible assumption
    | with_reducible exact Keeps.refl _
    | with_reducible apply keeps_thermRead
    | with_reducible apply keeps_thermAct
    | fail_if_no_progress (with_reducible apply keeps_mk <;> first | exact .inl Fact.out | with_reducible exact .inr rfl | with_reducible rfl | skip)
    | with_reducible apply keeps_each
    | with_reducible apply keeps_foldl
    | split)

end Sys2Proof.Laws
end

