-- ==== Sys2Proof/Laws/KeepsHinge.lean ====
section
/-! SUPPORT. What the operations of Hinge.lean keep. -/

namespace Sys2Proof.Laws

open Sys2Proof.Machine

variable {P : Part → Prop}

theorem keeps_hingeEase [Fact (P .chs)] [Fact (P .fb)] [Fact (P .pairs)] [Fact (P .regs)] [Fact (P .rxs)] [Fact (P .sys)] [Fact (P .txs)] (m n : Nat) {s₀ s : State} (h : Keeps P s₀ s) : Keeps P s₀ (hingeEase m n s) := by
  induction n generalizing s with
  | zero => exact h
  | succ n ih =>
    unfold hingeEase
    repeat' (first
      | with_reducible assumption
      | apply ih
      | with_reducible apply keeps_bump
      | with_reducible apply keeps_decidePos
      | split)

theorem keeps_holdCopy [Fact (P .chs)] [Fact (P .fb)] [Fact (P .pairs)] [Fact (P .regs)] [Fact (P .rxs)] [Fact (P .sys)] [Fact (P .txs)] {s₀ s : State} (k : Nat) (e : Copy) (f : RxFr) (hk : Keeps P s₀ s) : Keeps P s₀ (State.holdCopy s k e f) := by
  unfold State.holdCopy
  repeat' (first
    | with_reducible assumption
    | with_reducible exact Keeps.refl _
    | with_reducible apply keeps_hingeEase
    | with_reducible apply keeps_setRx
    | with_reducible apply keeps_stage
    | with_reducible apply keeps_fbTakeHinge
    | with_reducible apply keeps_setPair
    | with_reducible apply keeps_decidePos
    | with_reducible apply keeps_bump
    | with_reducible apply keeps_hingeRun
    | fail_if_no_progress (with_reducible apply keeps_mk <;> first | exact .inl Fact.out | with_reducible exact .inr rfl | with_reducible rfl | skip)
    | with_reducible apply keeps_each
    | with_reducible apply keeps_foldl
    | split
    | intro _
    | (extract_lets +onlyGivenNames x; refine keeps_cut (x := x) ?_ ?_; on_goal 2 => clear_value x)
    | extract_lets +onlyGivenNames y)

theorem keeps_hingeArrive [Fact (P .chs)] [Fact (P .fb)] [Fact (P .pairs)] [Fact (P .regs)] [Fact (P .rxs)] [Fact (P .sys)] [Fact (P .txs)] {s₀ s : State} (k id : Nat) (f : RxFr) (prot : Bool) (hk : Keeps P s₀ s) : Keeps P s₀ (State.hingeArrive s k id f prot) := by
  unfold State.hingeArrive
  repeat' (first
    | with_reducible assumption
    | with_reducible exact Keeps.refl _
    | with_reducible apply keeps_hingeRun
    | with_reducible apply keeps_delRx
    | with_reducible apply keeps_bump
    | with_reducible apply keeps_passUnaligned
    | with_reducible apply keeps_setPair
    | with_reducible apply keeps_holdCopy
    | fail_if_no_progress (with_reducible apply keeps_mk <;> first | exact .inl Fact.out | with_reducible exact .inr rfl | with_reducible rfl | skip)
    | with_reducible apply keeps_each
    | with_reducible apply keeps_foldl
    | split
    | intro _
    | (extract_lets +onlyGivenNames x; refine keeps_cut (x := x) ?_ ?_; on_goal 2 => clear_value x))

theorem keeps_execHingeCopyArrival [Fact (P .chs)] [Fact (P .fb)] [Fact (P .pairs)] [Fact (P .regs)] [Fact (P .rxs)] [Fact (P .sys)] [Fact (P .txs)] (c : Fin 32) (s : State) : Outs P s (execHingeCopyArrival c s) := by
  unfold execHingeCopyArrival
  apply outs_next
  repeat' (first
    | with_reducible assumption
    | with_reducible exact Keeps.refl _
    | with_reducible apply keeps_hingeArrive
    | fail_if_no_progress (with_reducible apply keeps_mk <;> first | exact .inl Fact.out | with_reducible exact .inr rfl | with_reducible rfl | skip)
    | with_reducible apply keeps_each
    | with_reducible apply keeps_foldl
    | split)

theorem keeps_execHingeWaitExpiry [Fact (P .chs)] [Fact (P .fb)] [Fact (P .pairs)] [Fact (P .regs)] [Fact (P .rxs)] [Fact (P .sys)] [Fact (P .tm)] [Fact (P .txs)] (k : Fin 8) (s : State) : Outs P s (execHingeWaitExpiry k s) := by
  unfold execHingeWaitExpiry
  apply outs_next
  repeat' (first
    | with_reducible assumption
    | with_reducible exact Keeps.refl _
    | with_reducible apply keeps_hingeRun
    | with_reducible apply keeps_advanceTo
    | with_reducible apply keeps_decidePos
    | fail_if_no_progress (with_reducible apply keeps_mk <;> first | exact .inl Fact.out | with_reducible exact .inr rfl | with_reducible rfl | skip)
    | with_reducible apply keeps_each
    | with_reducible apply keeps_foldl
    | split
    | intro _
    | (extract_lets +onlyGivenNames x; refine keeps_cut (x := x) ?_ ?_; on_goal 2 => clear_value x))

theorem keeps_secPos [Fact (P .frs)] [Fact (P .regs)] {s₀ s : State} (j : Nat) (hk : Keeps P s₀ s) : Keeps P s₀ (State.secPos s j) := by
  unfold State.secPos
  repeat' (first
    | with_reducible assumption
    | with_reducible exact Keeps.refl _
    | with_reducible apply keeps_wr
    | with_reducible apply keeps_put
    | with_reducible apply keeps_setFr)

theorem keeps_secGroup [Fact (P .grps)] [Fact (P .regs)] {s₀ s : State} (g : Nat) (hk : Keeps P s₀ s) : Keeps P s₀ (State.secGroup s g) := by
  unfold State.secGroup
  repeat' (first
    | with_reducible assumption
    | with_reducible exact Keeps.refl _
    | with_reducible apply keeps_wr
    | with_reducible apply keeps_setGrp
    | with_reducible apply keeps_raise
    | fail_if_no_progress (with_reducible apply keeps_mk <;> first | exact .inl Fact.out | with_reducible exact .inr rfl | with_reducible rfl | skip)
    | with_reducible apply keeps_each
    | with_reducible apply keeps_foldl
    | split
    | intro _
    | (extract_lets +onlyGivenNames x; refine keeps_cut (x := x) ?_ ?_; on_goal 2 => clear_value x)
    | extract_lets +onlyGivenNames y)

theorem keeps_sdCfg [Fact (P .chs)] [Fact (P .fb)] [Fact (P .pairs)] [Fact (P .regs)] [Fact (P .rxs)] [Fact (P .sys)] [Fact (P .txs)] {s₀ s : State} (g v : Nat) (hk : Keeps P s₀ s) : Keeps P s₀ (State.sdCfg s g v) := by
  unfold State.sdCfg
  repeat' (first
    | with_reducible assumption
    | with_reducible exact Keeps.refl _
    | with_reducible apply keeps_writePlain
    | with_reducible apply keeps_wr
    | with_reducible apply keeps_pairsEval
    | fail_if_no_progress (with_reducible apply keeps_mk <;> first | exact .inl Fact.out | with_reducible exact .inr rfl | with_reducible rfl | skip)
    | with_reducible apply keeps_each
    | with_reducible apply keeps_foldl
    | split
    | intro _
    | (extract_lets +onlyGivenNames x; refine keeps_cut (x := x) ?_ ?_; on_goal 2 => clear_value x))

theorem keeps_secLatch [Fact (P .chs)] [Fact (P .fb)] [Fact (P .frs)] [Fact (P .grps)] [Fact (P .ny)] [Fact (P .pairs)] [Fact (P .regs)] [Fact (P .rxs)] [Fact (P .sys)] [Fact (P .txs)] {s₀ s : State}  (hk : Keeps P s₀ s) : Keeps P s₀ (State.secLatch s) := by
  unfold State.secLatch
  repeat' (first
    | with_reducible assumption
    | with_reducible exact Keeps.refl _
    | with_reducible apply keeps_each
    | with_reducible apply keeps_secPos
    | with_reducible apply keeps_secGroup
    | with_reducible apply keeps_pairsEval
    | with_reducible apply keeps_eyeLatch
    | with_reducible apply keeps_raise
    | fail_if_no_progress (with_reducible apply keeps_mk <;> first | exact .inl Fact.out | with_reducible exact .inr rfl | with_reducible rfl | skip)
    | with_reducible apply keeps_each
    | with_reducible apply keeps_foldl
    | split)

theorem keeps_execSecondBoundary [Fact (P .chs)] [Fact (P .fb)] [Fact (P .frs)] [Fact (P .grps)] [Fact (P .ny)] [Fact (P .pairs)] [Fact (P .regs)] [Fact (P .rxs)] [Fact (P .sys)] [Fact (P .tm)] [Fact (P .txs)]  (s : State) : Outs P s (execSecondBoundary s) := by
  unfold execSecondBoundary
  apply outs_next
  repeat' (first
    | with_reducible assumption
    | with_reducible exact Keeps.refl _
    | with_reducible apply keeps_advance
    | with_reducible apply keeps_aonMark
    | with_reducible apply keeps_secLatch
    | fail_if_no_progress (with_reducible apply keeps_mk <;> first | exact .inl Fact.out | with_reducible exact .inr rfl | with_reducible rfl | skip)
    | with_reducible apply keeps_each
    | with_reducible apply keeps_foldl
    | split)

theorem keeps_setOh [Fact (P .ohs)] {s₀ s : State} (k : Nat) (x : OhSt) (hk : Keeps P s₀ s) : Keeps P s₀ (State.setOh s k x) := by
  unfold State.setOh
  repeat' (first
    | with_reducible assumption
    | with_reducible exact Keeps.refl _
    | fail_if_no_progress (with_reducible apply keeps_mk <;> first | exact .inl Fact.out | with_reducible exact .inr rfl | with_reducible rfl | skip))

theorem keeps_execOhTxWord [Fact (P .cu)] [Fact (P .ohs)] [Fact (P .regs)] [Fact (P .tm)] (k : Fin 8) (s : State) : Outs P s (execOhTxWord k s) := by
  unfold execOhTxWord
  apply outs_next
  repeat' (first
    | with_reducible assumption
    | with_reducible exact Keeps.refl _
    | with_reducible apply keeps_advanceTo
    | with_reducible apply keeps_cuStream
    | with_reducible apply keeps_setOh
    | fail_if_no_progress (with_reducible apply keeps_mk <;> first | exact .inl Fact.out | with_reducible exact .inr rfl | with_reducible rfl | skip)
    | with_reducible apply keeps_each
    | with_reducible apply keeps_foldl
    | split)

theorem keeps_execOhRxWord [Fact (P .cu)] [Fact (P .ohs)] [Fact (P .regs)] (k : Fin 8) (whole : Bool) (v : Word) (s : State) : Outs P s (execOhRxWord k whole v s) := by
  unfold execOhRxWord
  apply outs_next
  repeat' (first
    | with_reducible assumption
    | with_reducible exact Keeps.refl _
    | with_reducible apply keeps_bump
    | with_reducible apply keeps_cuStream
    | with_reducible apply keeps_setOh
    | fail_if_no_progress (with_reducible apply keeps_mk <;> first | exact .inl Fact.out | with_reducible exact .inr rfl | with_reducible rfl | skip)
    | with_reducible apply keeps_each
    | with_reducible apply keeps_foldl
    | split
    | intro _
    | (extract_lets +onlyGivenNames x; refine keeps_cut (x := x) ?_ ?_; on_goal 2 => clear_value x)
    | extract_lets +onlyGivenNames y)

end Sys2Proof.Laws
end

