-- ==== Sys2Proof/Laws/KeepsGates.lean ====
section
/-! SUPPORT. What the operations of Gates.lean keep. -/

namespace Sys2Proof.Laws

open Sys2Proof.Machine

variable {P : Part → Prop}

theorem keeps_dropOverrun [Fact (P .chs)] [Fact (P .fb)] [Fact (P .free)] [Fact (P .led)] [Fact (P .qs)] [Fact (P .regs)] [Fact (P .sys)] [Fact (P .txs)] (c k n : Nat) {s₀ s : State} (h : Keeps P s₀ s) : Keeps P s₀ (dropOverrun c k n s) := by
  induction n generalizing s with
  | zero => exact h
  | succ n ih =>
    unfold dropOverrun
    repeat' (first
      | with_reducible assumption
      | apply ih
      | with_reducible apply keeps_setBit
      | with_reducible apply keeps_bump
      | with_reducible apply keeps_refreshStaged
      | with_reducible apply keeps_txDrop
      | with_reducible apply keeps_setStaged
      | split)

theorem keeps_unservedRefresh [Fact (P .chs)] {s₀ s : State} (c : Nat) (hk : Keeps P s₀ s) : Keeps P s₀ (State.unservedRefresh s c) := by
  unfold State.unservedRefresh
  repeat' (first
    | with_reducible assumption
    | with_reducible exact Keeps.refl _
    | with_reducible apply keeps_setCh)

theorem keeps_overruns [Fact (P .chs)] [Fact (P .fb)] [Fact (P .free)] [Fact (P .led)] [Fact (P .qs)] [Fact (P .regs)] [Fact (P .sys)] [Fact (P .txs)] {s₀ s : State} (c : Nat) (hk : Keeps P s₀ s) : Keeps P s₀ (State.overruns s c) := by
  unfold State.overruns
  repeat' (first
    | with_reducible assumption
    | with_reducible exact Keeps.refl _
    | with_reducible apply keeps_each
    | with_reducible apply keeps_dropOverrun
    | with_reducible apply keeps_unservedRefresh
    | fail_if_no_progress (with_reducible apply keeps_mk <;> first | exact .inl Fact.out | with_reducible exact .inr rfl | with_reducible rfl | skip)
    | with_reducible apply keeps_each
    | with_reducible apply keeps_foldl
    | split
    | intro _)

end Sys2Proof.Laws
end

