-- ==== Sys2Proof/Laws/KeepsParse.lean ====
section
/-! SUPPORT. What the operations of Parse.lean keep. -/

namespace Sys2Proof.Laws

open Sys2Proof.Machine

variable {P : Part → Prop}

end Sys2Proof.Laws
end

