-- ==== Sys2Proof/Laws/KeepsMac.lean ====
section
/-! SUPPORT. What the operations of Mac.lean keep. -/

namespace Sys2Proof.Laws

open Sys2Proof.Machine

variable {P : Part → Prop}

theorem keeps_macReject [Fact (P .regs)] {s₀ s : State} (c : Nat) (hk : Keeps P s₀ s) : Keeps P s₀ (State.macReject s c) := by
  unfold State.macReject
  repeat' (first
    | with_reducible assumption
    | with_reducible exact Keeps.refl _
    | with_reducible apply keeps_bump
    | with_reducible apply keeps_setBit)

theorem keeps_macCommit [Fact (P .chs)] [Fact (P .regs)] {s₀ s : State} (c : Nat) (busy : Bool) (hk : Keeps P s₀ s) : Keeps P s₀ (State.macCommit s c busy) := by
  unfold State.macCommit
  repeat' (first
    | with_reducible assumption
    | with_reducible exact Keeps.refl _
    | with_reducible apply keeps_macReject
    | with_reducible apply keeps_raise
    | with_reducible apply keeps_setCh
    | with_reducible apply keeps_macRx
    | with_reducible apply keeps_macTx
    | fail_if_no_progress (with_reducible apply keeps_mk <;> first | exact .inl Fact.out | with_reducible exact .inr rfl | with_reducible rfl | skip)
    | with_reducible apply keeps_each
    | with_reducible apply keeps_foldl
    | split
    | intro _
    | (extract_lets +onlyGivenNames x; refine keeps_cut (x := x) ?_ ?_; on_goal 2 => clear_value x)
    | extract_lets +onlyGivenNames y)

theorem keeps_execMcCommit [Fact (P .chs)] [Fact (P .fab)] [Fact (P .regs)] [Fact (P .sp)] (w : Who) (c : Fin 32) (rxBusy : Bool) (s : State) : Outs P s (execMcCommit w c rxBusy s) := by
  unfold execMcCommit
  apply outs_next
  repeat' (first
    | with_reducible assumption
    | with_reducible exact Keeps.refl _
    | with_reducible apply keeps_guardWrite
    | with_reducible apply keeps_macCommit
    | fail_if_no_progress (with_reducible apply keeps_mk <;> first | exact .inl Fact.out | with_reducible exact .inr rfl | with_reducible rfl | skip)
    | with_reducible apply keeps_each
    | with_reducible apply keeps_foldl
    | split
    | intro _)

theorem keeps_pauseClear [Fact (P .chs)] [Fact (P .regs)] {s₀ s : State} (c k : Nat) (hk : Keeps P s₀ s) : Keeps P s₀ (State.pauseClear s c k) := by
  unfold State.pauseClear
  repeat' (first
    | with_reducible assumption
    | with_reducible exact Keeps.refl _
    | with_reducible apply keeps_setCh
    | with_reducible apply keeps_clrBit
    | with_reducible apply keeps_unservedRefresh)

theorem keeps_pauseLoad [Fact (P .chs)] [Fact (P .regs)] {s₀ s : State} (c k q : Nat) (hk : Keeps P s₀ s) : Keeps P s₀ (State.pauseLoad s c k q) := by
  unfold State.pauseLoad
  repeat' (first
    | with_reducible assumption
    | with_reducible exact Keeps.refl _
    | with_reducible apply keeps_pauseClear
    | with_reducible apply keeps_setCh
    | with_reducible apply keeps_setBit
    | with_reducible apply keeps_unservedRefresh
    | fail_if_no_progress (with_reducible apply keeps_mk <;> first | exact .inl Fact.out | with_reducible exact .inr rfl | with_reducible rfl | skip)
    | with_reducible apply keeps_each
    | with_reducible apply keeps_foldl
    | split)

theorem keeps_execPauseTimerExpiry [Fact (P .chs)] [Fact (P .regs)] [Fact (P .tm)] (c : Fin 32) (k : Fin 8) (s : State) : Outs P s (execPauseTimerExpiry c k s) := by
  unfold execPauseTimerExpiry
  apply outs_next
  repeat' (first
    | with_reducible assumption
    | with_reducible exact Keeps.refl _
    | with_reducible apply keeps_advanceTo
    | with_reducible apply keeps_pauseClear
    | fail_if_no_progress (with_reducible apply keeps_mk <;> first | exact .inl Fact.out | with_reducible exact .inr rfl | with_reducible rfl | skip)
    | with_reducible apply keeps_each
    | with_reducible apply keeps_foldl
    | split)

theorem keeps_execPauseRefreshTimer [Fact (P .chs)] [Fact (P .regs)] [Fact (P .tm)] (c : Fin 32) (s : State) : Outs P s (execPauseRefreshTimer c s) := by
  unfold execPauseRefreshTimer
  apply outs_next
  repeat' (first
    | with_reducible assumption
    | with_reducible exact Keeps.refl _
    | with_reducible apply keeps_advanceTo
    | with_reducible apply keeps_setCh
    | fail_if_no_progress (with_reducible apply keeps_mk <;> first | exact .inl Fact.out | with_reducible exact .inr rfl | with_reducible rfl | skip)
    | with_reducible apply keeps_each
    | with_reducible apply keeps_foldl
    | split
    | intro _
    | (extract_lets +onlyGivenNames x; refine keeps_cut (x := x) ?_ ?_; on_goal 2 => clear_value x)
    | extract_lets +onlyGivenNames y)

theorem keeps_execPauseWatchdog [Fact (P .chs)] [Fact (P .regs)] [Fact (P .tm)] (c : Fin 32) (k : Fin 8) (s : State) : Outs P s (execPauseWatchdog c k s) := by
  unfold execPauseWatchdog
  apply outs_next
  repeat' (first
    | with_reducible assumption
    | with_reducible exact Keeps.refl _
    | with_reducible apply keeps_advanceTo
    | with_reducible apply keeps_pauseClear
    | with_reducible apply keeps_stat
    | with_reducible apply keeps_setBit
    | with_reducible apply keeps_setCh
    | fail_if_no_progress (with_reducible apply keeps_mk <;> first | exact .inl Fact.out | with_reducible exact .inr rfl | with_reducible rfl | skip)
    | with_reducible apply keeps_each
    | with_reducible apply keeps_foldl
    | split
    | intro _
    | (extract_lets +onlyGivenNames x; refine keeps_cut (x := x) ?_ ?_; on_goal 2 => clear_value x)
    | extract_lets +onlyGivenNames y)

theorem keeps_execWatchdogHoldoffEnd [Fact (P .chs)] [Fact (P .regs)] [Fact (P .tm)] (c : Fin 32) (k : Fin 8) (s : State) : Outs P s (execWatchdogHoldoffEnd c k s) := by
  unfold execWatchdogHoldoffEnd
  apply outs_next
  repeat' (first
    | with_reducible assumption
    | with_reducible exact Keeps.refl _
    | with_reducible apply keeps_advanceTo
    | with_reducible apply keeps_setCh
    | with_reducible apply keeps_clrBit
    | fail_if_no_progress (with_reducible apply keeps_mk <;> first | exact .inl Fact.out | with_reducible exact .inr rfl | with_reducible rfl | skip)
    | with_reducible apply keeps_each
    | with_reducible apply keeps_foldl
    | split)

theorem keeps_fcCfg [Fact (P .chs)] [Fact (P .regs)] {s₀ s : State} (c v : Nat) (hk : Keeps P s₀ s) : Keeps P s₀ (State.fcCfg s c v) := by
  unfold State.fcCfg
  repeat' (first
    | with_reducible assumption
    | with_reducible exact Keeps.refl _
    | with_reducible apply keeps_writePlain
    | with_reducible apply keeps_setCh
    | with_reducible apply keeps_wr
    | with_reducible apply keeps_unservedRefresh
    | fail_if_no_progress (with_reducible apply keeps_mk <;> first | exact .inl Fact.out | with_reducible exact .inr rfl | with_reducible rfl | skip)
    | with_reducible apply keeps_each
    | with_reducible apply keeps_foldl
    | split
    | intro _
    | (extract_lets +onlyGivenNames x; refine keeps_cut (x := x) ?_ ?_; on_goal 2 => clear_value x)
    | extract_lets +onlyGivenNames y)

theorem keeps_execFcModeWrite [Fact (P .chs)] [Fact (P .fab)] [Fact (P .regs)] [Fact (P .sp)] (w : Who) (c : Fin 32) (v : Word) (s : State) : Outs P s (execFcModeWrite w c v s) := by
  unfold execFcModeWrite
  apply outs_next
  repeat' (first
    | with_reducible assumption
    | with_reducible exact Keeps.refl _
    | with_reducible apply keeps_guardWrite
    | with_reducible apply keeps_fcCfg
    | fail_if_no_progress (with_reducible apply keeps_mk <;> first | exact .inl Fact.out | with_reducible exact .inr rfl | with_reducible rfl | skip)
    | with_reducible apply keeps_each
    | with_reducible apply keeps_foldl
    | split
    | intro _)

theorem keeps_pauseFrame [Fact (P .chs)] [Fact (P .regs)] {s₀ s : State} (c : Nat) (f : List Byte) (op : Nat) (watched : Bool) (hk : Keeps P s₀ s) : Keeps P s₀ (State.pauseFrame s c f op watched) := by
  unfold State.pauseFrame
  repeat' (first
    | with_reducible assumption
    | with_reducible exact Keeps.refl _
    | with_reducible apply keeps_stat
    | with_reducible apply keeps_each
    | with_reducible apply keeps_pauseLoad
    | with_reducible apply keeps_statIf
    | fail_if_no_progress (with_reducible apply keeps_mk <;> first | exact .inl Fact.out | with_reducible exact .inr rfl | with_reducible rfl | skip)
    | with_reducible apply keeps_each
    | with_reducible apply keeps_foldl
    | split
    | intro _
    | (extract_lets +onlyGivenNames x; refine keeps_cut (x := x) ?_ ?_; on_goal 2 => clear_value x)
    | extract_lets +onlyGivenNames y)

theorem keeps_controlFrame [Fact (P .chs)] [Fact (P .regs)] {s₀ s : State} (c : Nat) (f : List Byte) (watched : Bool) (hk : Keeps P s₀ s) : Keeps P s₀ (State.controlFrame s c f watched) := by
  unfold State.controlFrame
  repeat' (first
    | with_reducible assumption
    | with_reducible exact Keeps.refl _
    | with_reducible apply keeps_stat
    | with_reducible apply keeps_pauseFrame
    | fail_if_no_progress (with_reducible apply keeps_mk <;> first | exact .inl Fact.out | with_reducible exact .inr rfl | with_reducible rfl | skip)
    | with_reducible apply keeps_each
    | with_reducible apply keeps_foldl
    | split
    | intro _
    | (extract_lets +onlyGivenNames x; refine keeps_cut (x := x) ?_ ?_; on_goal 2 => clear_value x)
    | extract_lets +onlyGivenNames y)

theorem keeps_wakeTest [Fact (P .chs)] [Fact (P .fab)] [Fact (P .fb)] [Fact (P .frs)] [Fact (P .gfps)] [Fact (P .grps)] [Fact (P .hub)] [Fact (P .lanes)] [Fact (P .pairs)] [Fact (P .pw)] [Fact (P .regs)] [Fact (P .rxs)] [Fact (P .sys)] [Fact (P .txs)] {s₀ s : State} (c t : Nat) (f : List Byte) (hk : Keeps P s₀ s) : Keeps P s₀ (State.wakeTest s c t f) := by
  unfold State.wakeTest
  repeat' (first
    | with_reducible assumption
    | with_reducible exact Keeps.refl _
    | with_reducible apply keeps_stat
    | with_reducible apply keeps_wr
    | with_reducible apply keeps_raise
    | with_reducible apply keeps_setBit
    | with_reducible apply keeps_wakeNow
    | fail_if_no_progress (with_reducible apply keeps_mk <;> first | exact .inl Fact.out | with_reducible exact .inr rfl | with_reducible rfl | skip)
    | with_reducible apply keeps_each
    | with_reducible apply keeps_foldl
    | split)

theorem keeps_rxRecord [Fact (P .nextFr)] [Fact (P .regs)] [Fact (P .rxs)] [Fact (P .sys)] {s₀ s : State} (c : Nat) (e : LineFr) (flags : Nat) (hk : Keeps P s₀ s) : Keeps P s₀ (State.rxRecord s c e flags) := by
  unfold State.rxRecord
  repeat' (first
    | with_reducible assumption
    | with_reducible exact Keeps.refl _
    | with_reducible apply keeps_bump
    | with_reducible apply keeps_setRx
    | fail_if_no_progress (with_reducible apply keeps_mk <;> first | exact .inl Fact.out | with_reducible exact .inr rfl | with_reducible rfl | skip)
    | with_reducible apply keeps_each
    | with_reducible apply keeps_foldl
    | split)

theorem keeps_rxDelineated [Fact (P .chs)] [Fact (P .fab)] [Fact (P .fb)] [Fact (P .frs)] [Fact (P .gfps)] [Fact (P .grps)] [Fact (P .hub)] [Fact (P .lanes)] [Fact (P .nextFr)] [Fact (P .pairs)] [Fact (P .pw)] [Fact (P .regs)] [Fact (P .rxs)] [Fact (P .sys)] [Fact (P .txs)] {s₀ s : State} (c : Nat) (e : LineFr) (hk : Keeps P s₀ s) : Keeps P s₀ (State.rxDelineated s c e) := by
  unfold State.rxDelineated
  repeat' (first
    | with_reducible assumption
    | with_reducible exact Keeps.refl _
    | with_reducible apply keeps_rxStats
    | with_reducible apply keeps_pcSlice
    | with_reducible apply keeps_statIf
    | with_reducible apply keeps_controlFrame
    | with_reducible apply keeps_wakeTest
    | with_reducible apply keeps_rxRecord
    | fail_if_no_progress (with_reducible apply keeps_mk <;> first | exact .inl Fact.out | with_reducible exact .inr rfl | with_reducible rfl | skip)
    | with_reducible apply keeps_each
    | with_reducible apply keeps_foldl
    | split
    | intro _
    | (extract_lets +onlyGivenNames x; refine keeps_cut (x := x) ?_ ?_; on_goal 2 => clear_value x)
    | extract_lets +onlyGivenNames y)

theorem keeps_rxFrame [Fact (P .chs)] [Fact (P .fab)] [Fact (P .fb)] [Fact (P .frs)] [Fact (P .gfps)] [Fact (P .grps)] [Fact (P .hub)] [Fact (P .lanes)] [Fact (P .nextFr)] [Fact (P .pairs)] [Fact (P .pw)] [Fact (P .regs)] [Fact (P .rxs)] [Fact (P .sys)] [Fact (P .txs)] {s₀ s : State} (c : Nat) (e : LineFr) (slot : Bool) (hk : Keeps P s₀ s) : Keeps P s₀ (State.rxFrame s c e slot) := by
  unfold State.rxFrame
  repeat' (first
    | with_reducible assumption
    | with_reducible exact Keeps.refl _
    | with_reducible apply keeps_stat
    | with_reducible apply keeps_rxDelineated
    | fail_if_no_progress (with_reducible apply keeps_mk <;> first | exact .inl Fact.out | with_reducible exact .inr rfl | with_reducible rfl | skip)
    | with_reducible apply keeps_each
    | with_reducible apply keeps_foldl
    | split)

theorem keeps_rxBegan [Fact (P .chs)] [Fact (P .regs)] {s₀ s : State} (c : Nat) (hk : Keeps P s₀ s) : Keeps P s₀ (State.rxBegan s c) := by
  unfold State.rxBegan
  repeat' (first
    | with_reducible assumption
    | with_reducible exact Keeps.refl _
    | with_reducible apply keeps_setCh
    | with_reducible apply keeps_macRx
    | fail_if_no_progress (with_reducible apply keeps_mk <;> first | exact .inl Fact.out | with_reducible exact .inr rfl | with_reducible rfl | skip)
    | with_reducible apply keeps_each
    | with_reducible apply keeps_foldl
    | split)

theorem keeps_rxClient [Fact (P .chs)] [Fact (P .fab)] [Fact (P .fb)] [Fact (P .frs)] [Fact (P .gfps)] [Fact (P .grps)] [Fact (P .hub)] [Fact (P .lanes)] [Fact (P .nextFr)] [Fact (P .pairs)] [Fact (P .pw)] [Fact (P .regs)] [Fact (P .rxs)] [Fact (P .sys)] [Fact (P .txs)] {s₀ s : State} (c : Nat) (slot : Bool) (byte : Nat) (hk : Keeps P s₀ s) : Keeps P s₀ (State.rxClient s c slot byte) := by
  unfold State.rxClient
  repeat' (first
    | with_reducible assumption
    | with_reducible exact Keeps.refl _
    | with_reducible apply keeps_setGfp
    | with_reducible apply keeps_rxFrame
    | fail_if_no_progress (with_reducible apply keeps_mk <;> first | exact .inl Fact.out | with_reducible exact .inr rfl | with_reducible rfl | skip)
    | with_reducible apply keeps_each
    | with_reducible apply keeps_foldl
    | split)

theorem keeps_execRxFrame [Fact (P .chs)] [Fact (P .fab)] [Fact (P .fb)] [Fact (P .frs)] [Fact (P .gfps)] [Fact (P .grps)] [Fact (P .hub)] [Fact (P .lanes)] [Fact (P .nextFr)] [Fact (P .pairs)] [Fact (P .pw)] [Fact (P .regs)] [Fact (P .rxs)] [Fact (P .sys)] [Fact (P .txs)] (c : Fin 32) (f : List Byte) (code slot : Bool) (x : RxPlace) (s : State) : Outs P s (execRxFrame c f code slot x s) := by
  unfold execRxFrame
  apply outs_next
  repeat' (first
    | with_reducible assumption
    | with_reducible exact Keeps.refl _
    | with_reducible apply keeps_rxClient
    | with_reducible apply keeps_rxBegan
    | with_reducible apply keeps_setCh
    | with_reducible apply keeps_rxFrame
    | fail_if_no_progress (with_reducible apply keeps_mk <;> first | exact .inl Fact.out | with_reducible exact .inr rfl | with_reducible rfl | skip)
    | with_reducible apply keeps_each
    | with_reducible apply keeps_foldl
    | split)

theorem keeps_mcWrite [Fact (P .chs)] [Fact (P .free)] [Fact (P .regs)] [Fact (P .tm)] {s₀ s : State} (off v : Nat) (hk : Keeps P s₀ s) : Keeps P s₀ (State.mcWrite s off v) := by
  unfold State.mcWrite
  repeat' (first
    | with_reducible assumption
    | with_reducible exact Keeps.refl _
    | with_reducible apply keeps_macReject
    | with_reducible apply keeps_writePlain
    | with_reducible apply keeps_macCommit
    | with_reducible apply keeps_fcCfg
    | with_reducible apply keeps_writeKept
    | with_reducible apply keeps_draw
    | with_reducible refine keeps_draw_eq (by assumption) ?_
    | fail_if_no_progress (with_reducible apply keeps_mk <;> first | exact .inl Fact.out | with_reducible exact .inr rfl | with_reducible rfl | skip)
    | with_reducible apply keeps_each
    | with_reducible apply keeps_foldl
    | split
    | intro _
    | (extract_lets +onlyGivenNames x; refine keeps_cut (x := x) ?_ ?_; on_goal 2 => clear_value x)
    | extract_lets +onlyGivenNames y)

end Sys2Proof.Laws
end

