-- ==== Sys2Proof/Laws/KeepsClassify.lean ====
section
/-! SUPPORT. What the operations of Classify.lean keep. -/

namespace Sys2Proof.Laws

open Sys2Proof.Machine

set_option Elab.async false

variable {P : Part → Prop}

theorem keeps_tblRead [Fact (P .fab)] {s₀ s : State} (k : ReqKind) (a b : Nat) (hk : Keeps P s₀ s) : Keeps P s₀ (State.tblRead s k a b) := by
  unfold State.tblRead
  repeat' (first
    | with_reducible assumption
    | with_reducible exact Keeps.refl _
    | with_reducible apply keeps_send)

theorem keeps_tblWriteOn [Fact (P .fab)] {s₀ s : State} (k : ReqKind) (b tries c : Nat) (l : List Nat) (hk : Keeps P s₀ s) : Keeps P s₀ (State.tblWriteOn s k b tries c l) := by
  unfold State.tblWriteOn
  repeat' (first
    | with_reducible assumption
    | with_reducible exact Keeps.refl _
    | with_reducible apply keeps_send)

theorem keeps_tblErr [Fact (P .regs)] {s₀ s : State} (c : Nat) (hk : Keeps P s₀ s) : Keeps P s₀ (State.tblErr s c) := by
  unfold State.tblErr
  repeat' (first
    | with_reducible assumption
    | with_reducible exact Keeps.refl _
    | with_reducible apply keeps_setBit)

theorem keeps_tblTorn [Fact (P .regs)] {s₀ s : State} (b : Nat) (hk : Keeps P s₀ s) : Keeps P s₀ (State.tblTorn s b) := by
  unfold State.tblTorn
  repeat' (first
    | with_reducible assumption
    | with_reducible exact Keeps.refl _
    | with_reducible apply keeps_wr
    | with_reducible apply keeps_raise
    | fail_if_no_progress (with_reducible apply keeps_mk <;> first | exact .inl Fact.out | with_reducible exact .inr rfl | with_reducible rfl | skip)
    | with_reducible apply keeps_each
    | with_reducible apply keeps_foldl
    | split)

theorem keeps_setLine [Fact (P .tbl)] {s₀ s : State} (b : Nat) (l : LineC) (hk : Keeps P s₀ s) : Keeps P s₀ (State.setLine s b l) := by
  unfold State.setLine
  repeat' (first
    | with_reducible assumption
    | with_reducible exact Keeps.refl _
    | fail_if_no_progress (with_reducible apply keeps_mk <;> first | exact .inl Fact.out | with_reducible exact .inr rfl | with_reducible rfl | skip))

theorem keeps_lineRoom [Fact (P .tbl)] {s₀ s t : State} {b : Nat} (e : s.lineRoom b = some t) (h : Keeps P s₀ s) : Keeps P s₀ t := by
  unfold State.lineRoom at e
  split at e
  · cases e; exact h
  · cases g : oldestLine ((s.setOf b).filter (fun e => !e.2.pinned)) with
    | none => rw [g] at e; cases e
    | some v => rw [g] at e; cases e; exact (by apply keeps_mk <;> first | with_reducible exact .inr rfl | exact .inl Fact.out | rfl | exact h)

theorem keeps_touch [Fact (P .tbl)] {s₀ s : State} (b : Nat) (hk : Keeps P s₀ s) : Keeps P s₀ (State.touch s b) := by
  unfold State.touch
  repeat' (first
    | with_reducible assumption
    | with_reducible exact Keeps.refl _
    | with_reducible apply keeps_setLine
    | fail_if_no_progress (with_reducible apply keeps_mk <;> first | exact .inl Fact.out | with_reducible exact .inr rfl | with_reducible rfl | skip)
    | with_reducible apply keeps_each
    | with_reducible apply keeps_foldl
    | split)

theorem keeps_fill [Fact (P .tbl)] {s₀ s : State} (b : Nat) (l : List Nat) (hk : Keeps P s₀ s) : Keeps P s₀ (State.fill s b l) := by
  unfold State.fill
  repeat' (first
    | with_reducible assumption
    | with_reducible exact Keeps.refl _
    | with_reducible apply keeps_setLine
    | with_reducible apply keeps_touch
    | with_reducible refine keeps_lineRoom (by assumption) ?_
    | fail_if_no_progress (with_reducible apply keeps_mk <;> first | exact .inl Fact.out | with_reducible exact .inr rfl | with_reducible rfl | skip)
    | with_reducible apply keeps_each
    | with_reducible apply keeps_foldl
    | split)

theorem keeps_setLookup [Fact (P .tbl)] {s₀ s : State} (id : Nat) (l : Lookup) (hk : Keeps P s₀ s) : Keeps P s₀ (State.setLookup s id l) := by
  unfold State.setLookup
  repeat' (first
    | with_reducible assumption
    | with_reducible exact Keeps.refl _
    | fail_if_no_progress (with_reducible apply keeps_mk <;> first | exact .inl Fact.out | with_reducible exact .inr rfl | with_reducible rfl | skip))

theorem keeps_lookupEnd [Fact (P .tbl)] {s₀ s : State} (id : Nat) (v : Verdict) (hk : Keeps P s₀ s) : Keeps P s₀ (State.lookupEnd s id v) := by
  unfold State.lookupEnd
  repeat' (first
    | with_reducible assumption
    | with_reducible exact Keeps.refl _
    | with_reducible apply keeps_setLookup
    | fail_if_no_progress (with_reducible apply keeps_mk <;> first | exact .inl Fact.out | with_reducible exact .inr rfl | with_reducible rfl | skip)
    | with_reducible apply keeps_each
    | with_reducible apply keeps_foldl
    | split)

theorem keeps_lookupMiss [Fact (P .tbl)] {s₀ s : State} (id reason : Nat) (hk : Keeps P s₀ s) : Keeps P s₀ (State.lookupMiss s id reason) := by
  unfold State.lookupMiss
  repeat' (first
    | with_reducible assumption
    | with_reducible exact Keeps.refl _
    | with_reducible apply keeps_lookupEnd
    | fail_if_no_progress (with_reducible apply keeps_mk <;> first | exact .inl Fact.out | with_reducible exact .inr rfl | with_reducible rfl | skip)
    | with_reducible apply keeps_each
    | with_reducible apply keeps_foldl
    | split)

theorem keeps_lookupHit [Fact (P .tbl)] {s₀ s : State} (id e : Nat) (hk : Keeps P s₀ s) : Keeps P s₀ (State.lookupHit s id e) := by
  unfold State.lookupHit
  repeat' (first
    | with_reducible assumption
    | with_reducible exact Keeps.refl _
    | with_reducible apply keeps_lookupEnd
    | fail_if_no_progress (with_reducible apply keeps_mk <;> first | exact .inl Fact.out | with_reducible exact .inr rfl | with_reducible rfl | skip)
    | with_reducible apply keeps_each
    | with_reducible apply keeps_foldl
    | split)

theorem keeps_stashSearch [Fact (P .regs)] [Fact (P .tbl)] {s₀ s : State} (id : Nat) (l : Lookup) (hk : Keeps P s₀ s) : Keeps P s₀ (State.stashSearch s id l) := by
  unfold State.stashSearch
  repeat' (first
    | with_reducible assumption
    | with_reducible exact Keeps.refl _
    | with_reducible apply keeps_pcEvent
    | with_reducible apply keeps_lookupHit
    | with_reducible apply keeps_lookupMiss
    | fail_if_no_progress (with_reducible apply keeps_mk <;> first | exact .inl Fact.out | with_reducible exact .inr rfl | with_reducible rfl | skip)
    | with_reducible apply keeps_each
    | with_reducible apply keeps_foldl
    | split)

theorem keeps_lookupRead [Fact (P .fab)] [Fact (P .tbl)] {s₀ s : State} (id : Nat) (l : Lookup) (hk : Keeps P s₀ s) : Keeps P s₀ (State.lookupRead s id l) := by
  unfold State.lookupRead
  repeat' (first
    | with_reducible assumption
    | with_reducible exact Keeps.refl _
    | with_reducible apply keeps_tblRead
    | with_reducible apply keeps_lookupMiss
    | fail_if_no_progress (with_reducible apply keeps_mk <;> first | exact .inl Fact.out | with_reducible exact .inr rfl | with_reducible rfl | skip)
    | with_reducible apply keeps_each
    | with_reducible apply keeps_foldl
    | split)

theorem keeps_lookupSee [Fact (P .fab)] [Fact (P .regs)] [Fact (P .tbl)] (n id : Nat) (l : Lookup) (ents : List Nat) {s₀ s : State} (h : Keeps P s₀ s) :
    Keeps P s₀ (lookupSee n id l ents s) := by
  induction n generalizing l ents s with
  | zero => exact h
  | succ n ih =>
    unfold lookupSee
    have g : ∀ l', Keeps P s₀ (((s.setLookup id l').bump64 CL_READ2_LO_COUNT CL_READ2_HI_COUNT).pcEvent 720) :=
      fun l' => keeps_pcEvent _ _ _ (keeps_bump64 _ _ _ (keeps_setLookup _ _ h))
    split
    · exact keeps_lookupHit _ _ h
    · split
      · dsimp only
        split
        · exact ih _ _ (keeps_touch _ (keeps_pcEvent _ _ _ (keeps_bump64 _ _ _ (g _))))
        · exact keeps_lookupRead _ _ (keeps_pcEvent _ _ _ (g _))
      · exact keeps_stashSearch _ _ h

theorem keeps_lookupStart [Fact (P .fab)] [Fact (P .regs)] [Fact (P .tbl)] {s₀ s : State} (id tag : Nat) (key : List Byte) (hk : Keeps P s₀ s) : Keeps P s₀ (State.lookupStart s id tag key) := by
  unfold State.lookupStart
  repeat' (first
    | with_reducible assumption
    | with_reducible exact Keeps.refl _
    | with_reducible apply keeps_setLookup
    | with_reducible apply keeps_lookupMiss
    | with_reducible apply keeps_lookupSee
    | with_reducible apply keeps_bump64
    | with_reducible apply keeps_pcEvent
    | with_reducible apply keeps_touch
    | with_reducible apply keeps_lookupRead
    | fail_if_no_progress (with_reducible apply keeps_mk <;> first | exact .inl Fact.out | with_reducible exact .inr rfl | with_reducible rfl | skip)
    | with_reducible apply keeps_each
    | with_reducible apply keeps_foldl
    | split
    | intro _
    | (extract_lets +onlyGivenNames x; refine keeps_cut (x := x) ?_ ?_; on_goal 2 => clear_value x)
    | extract_lets +onlyGivenNames y)

theorem keeps_execLookupRequest [Fact (P .fab)] [Fact (P .regs)] [Fact (P .rxs)] [Fact (P .tbl)] (c : Fin 32) (s : State) : Outs P s (execLookupRequest c s) := by
  unfold execLookupRequest
  apply outs_next
  repeat' (first
    | with_reducible assumption
    | with_reducible exact Keeps.refl _
    | with_reducible apply keeps_setRx
    | with_reducible apply keeps_lookupStart
    | with_reducible apply keeps_crossed
    | fail_if_no_progress (with_reducible apply keeps_mk <;> first | exact .inl Fact.out | with_reducible exact .inr rfl | with_reducible rfl | skip)
    | with_reducible apply keeps_each
    | with_reducible apply keeps_foldl
    | split
    | intro _
    | (extract_lets +onlyGivenNames x; refine keeps_cut (x := x) ?_ ?_; on_goal 2 => clear_value x))

theorem keeps_execVerdictReturn [Fact (P .regs)] [Fact (P .rxs)] [Fact (P .sys)] [Fact (P .tbl)] (c : Fin 32) (s : State) : Outs P s (execVerdictReturn c s) := by
  unfold execVerdictReturn
  apply outs_next
  repeat' (first
    | with_reducible assumption
    | with_reducible exact Keeps.refl _
    | with_reducible apply keeps_crossed
    | with_reducible apply keeps_setRx
    | with_reducible apply keeps_bump64
    | with_reducible apply keeps_bump
    | fail_if_no_progress (with_reducible apply keeps_mk <;> first | exact .inl Fact.out | with_reducible exact .inr rfl | with_reducible rfl | skip)
    | with_reducible apply keeps_each
    | with_reducible apply keeps_foldl
    | split)

theorem keeps_execLookupDeadline [Fact (P .regs)] [Fact (P .tbl)] [Fact (P .tm)] (c : Fin 32) (s : State) : Outs P s (execLookupDeadline c s) := by
  unfold execLookupDeadline
  apply outs_next
  repeat' (first
    | with_reducible assumption
    | with_reducible exact Keeps.refl _
    | with_reducible apply keeps_advanceTo
    | with_reducible apply keeps_lookupMiss
    | fail_if_no_progress (with_reducible apply keeps_mk <;> first | exact .inl Fact.out | with_reducible exact .inr rfl | with_reducible rfl | skip)
    | with_reducible apply keeps_each
    | with_reducible apply keeps_foldl
    | split)

theorem keeps_lookupAnswer [Fact (P .fab)] [Fact (P .regs)] [Fact (P .sp)] [Fact (P .tbl)] {s₀ s : State} (d : Deliv) (hk : Keeps P s₀ s) : Keeps P s₀ (State.lookupAnswer s d) := by
  unfold State.lookupAnswer
  repeat' (first
    | with_reducible assumption
    | with_reducible exact Keeps.refl _
    | with_reducible apply keeps_okay
    | with_reducible apply keeps_tblErr
    | with_reducible apply keeps_lookupSee
    | with_reducible apply keeps_touch
    | with_reducible apply keeps_lookupRead
    | with_reducible apply keeps_lookupMiss
    | with_reducible apply keeps_tblTorn
    | with_reducible apply keeps_bump64
    | with_reducible apply keeps_pcEvent
    | with_reducible apply keeps_setLookup
    | with_reducible apply keeps_fill
    | fail_if_no_progress (with_reducible apply keeps_mk <;> first | exact .inl Fact.out | with_reducible exact .inr rfl | with_reducible rfl | skip)
    | with_reducible apply keeps_each
    | with_reducible apply keeps_foldl
    | split
    | intro _
    | (extract_lets +onlyGivenNames x; refine keeps_cut (x := x) ?_ ?_; on_goal 2 => clear_value x)
    | extract_lets +onlyGivenNames y
    | dsimp +zetaDelta only)

theorem keeps_setOp [Fact (P .tbl)] {s₀ s : State} (o : UpdOp) (hk : Keeps P s₀ s) : Keeps P s₀ (State.setOp s o) := by
  unfold State.setOp
  repeat' (first
    | with_reducible assumption
    | with_reducible exact Keeps.refl _
    | fail_if_no_progress (with_reducible apply keeps_mk <;> first | exact .inl Fact.out | with_reducible exact .inr rfl | with_reducible rfl | skip))

theorem keeps_occReport [Fact (P .regs)] {s₀ s : State}  (hk : Keeps P s₀ s) : Keeps P s₀ (State.occReport s) := by
  unfold State.occReport
  repeat' (first
    | with_reducible assumption
    | with_reducible exact Keeps.refl _
    | with_reducible apply keeps_wr)

theorem keeps_putBucket [Fact (P .fab)] [Fact (P .tbl)] {s₀ s : State} (b : Nat) (l : List Nat) (hk : Keeps P s₀ s) : Keeps P s₀ (State.putBucket s b l) := by
  unfold State.putBucket
  repeat' (first
    | with_reducible assumption
    | with_reducible exact Keeps.refl _
    | with_reducible apply keeps_each
    | with_reducible apply keeps_setLine
    | with_reducible apply keeps_setOp
    | with_reducible apply keeps_tblWriteOn
    | fail_if_no_progress (with_reducible apply keeps_mk <;> first | exact .inl Fact.out | with_reducible exact .inr rfl | with_reducible rfl | skip)
    | with_reducible apply keeps_each
    | with_reducible apply keeps_foldl
    | split
    | intro _)

theorem keeps_staleReads [Fact (P .fab)] [Fact (P .sv)] [Fact (P .tbl)] {s₀ s : State} (b : Nat) (hk : Keeps P s₀ s) : Keeps P s₀ (State.staleReads s b) := by
  unfold State.staleReads
  repeat' (first
    | with_reducible assumption
    | with_reducible exact Keeps.refl _
    | fail_if_no_progress (with_reducible apply keeps_mk <;> first | exact .inl Fact.out | with_reducible exact .inr rfl | with_reducible rfl | skip))

theorem keeps_updateInstant [Fact (P .fab)] [Fact (P .sv)] [Fact (P .tbl)] {s₀ s : State} (b : Nat) (l : List Nat) (hk : Keeps P s₀ s) : Keeps P s₀ (State.updateInstant s b l) := by
  unfold State.updateInstant
  repeat' (first
    | with_reducible assumption
    | with_reducible exact Keeps.refl _
    | with_reducible apply keeps_staleReads
    | with_reducible apply keeps_setLine
    | with_reducible apply keeps_touch
    | with_reducible apply keeps_putBucket)

theorem keeps_updFail [Fact (P .tbl)] {s₀ s : State} (o : UpdOp) (hk : Keeps P s₀ s) : Keeps P s₀ (State.updFail s o) := by
  unfold State.updFail
  repeat' (first
    | with_reducible assumption
    | with_reducible exact Keeps.refl _
    | with_reducible apply keeps_setOp)

theorem keeps_undoWith [Fact (P .tbl)] {s₀ s : State} (u : UStep) (hk : Keeps P s₀ s) : Keeps P s₀ (State.undoWith s u) := by
  unfold State.undoWith
  repeat' (first
    | with_reducible assumption
    | with_reducible exact Keeps.refl _
    | with_reducible apply keeps_setOp
    | fail_if_no_progress (with_reducible apply keeps_mk <;> first | exact .inl Fact.out | with_reducible exact .inr rfl | with_reducible rfl | skip)
    | with_reducible apply keeps_each
    | with_reducible apply keeps_foldl
    | split)

theorem keeps_pinLine [Fact (P .tbl)] {s₀ s : State} (b : Nat) (l : List Nat) (hk : Keeps P s₀ s) : Keeps P s₀ (State.pinLine s b l) := by
  unfold State.pinLine
  repeat' (first
    | with_reducible assumption
    | with_reducible exact Keeps.refl _
    | with_reducible apply keeps_setLine
    | with_reducible refine keeps_lineRoom (by assumption) ?_
    | fail_if_no_progress (with_reducible apply keeps_mk <;> first | exact .inl Fact.out | with_reducible exact .inr rfl | with_reducible rfl | skip)
    | with_reducible apply keeps_each
    | with_reducible apply keeps_foldl
    | split)

theorem keeps_updSteps [Fact (P .fab)] [Fact (P .regs)] [Fact (P .sv)] [Fact (P .tbl)] (l : List UStep) {s₀ s : State} (h : Keeps P s₀ s) : Keeps P s₀ (updSteps l s) := by
  induction l generalizing s with
  | nil =>
    unfold updSteps
    split
    · exact keeps_setOp _ h
    · exact h
  | cons u r ih =>
    unfold updSteps
    split
    · exact h
    · cases u with
      | count b v => exact ih (keeps_undoWith _ ((by apply keeps_mk <;> first | with_reducible exact .inr rfl | exact .inl Fact.out | rfl | exact h)))
      | occ e a => exact ih (keeps_undoWith _ (keeps_occReport ((by apply keeps_mk <;> first | with_reducible exact .inr rfl | exact .inl Fact.out | rfl | exact h))))
      | stash l =>
        have g : Keeps P s₀ { s with tbl := { s.tbl with stash := l } } := (by apply keeps_mk <;> first | with_reducible exact .inr rfl | exact .inl Fact.out | rfl | exact h)
        have g := keeps_undoWith (.stash s.tbl.stash) (keeps_occReport g)
        dsimp only
        split
        · exact ih (keeps_raise _ g)
        · exact ih g
      | write b l =>
        dsimp only
        split
        · apply ih
          split
          · exact keeps_setLine _ _ h
          · exact h
        · split
          · split
            · exact ih (keeps_pinLine _ _ h)
            · exact keeps_updFail _ h
          · split
            · exact ih (keeps_undoWith _ (keeps_updateInstant _ _ (keeps_lineRoom (by assumption) h)))
            · split
              · exact keeps_setOp _ h
              · split
                · exact ih h
                · exact keeps_updFail _ h

theorem keeps_updEndOp [Fact (P .fab)] [Fact (P .ny)] [Fact (P .regs)] [Fact (P .ring)] [Fact (P .tbl)] {s₀ s : State}  (hk : Keeps P s₀ s) : Keeps P s₀ (State.updEndOp s) := by
  unfold State.updEndOp
  repeat' (first
    | with_reducible assumption
    | with_reducible exact Keeps.refl _
    | with_reducible apply keeps_pcEvent
    | with_reducible apply keeps_bgDone
    | with_reducible apply keeps_bgBegin
    | with_reducible apply keeps_cmdDone
    | with_reducible apply keeps_wr
    | with_reducible apply keeps_raise
    | fail_if_no_progress (with_reducible apply keeps_mk <;> first | exact .inl Fact.out | with_reducible exact .inr rfl | with_reducible rfl | skip)
    | with_reducible apply keeps_each
    | with_reducible apply keeps_foldl
    | split)

theorem keeps_updDecide [Fact (P .fab)] [Fact (P .regs)] [Fact (P .sv)] [Fact (P .tbl)] {s₀ s : State} (o : UpdOp) (status place moves : Nat) (steps : List UStep) (vd : Nat) (hk : Keeps P s₀ s) : Keeps P s₀ (State.updDecide s o status place moves steps vd) := by
  unfold State.updDecide
  repeat' (first
    | with_reducible assumption
    | with_reducible exact Keeps.refl _
    | with_reducible apply keeps_updSteps
    | with_reducible apply keeps_setOp)

theorem keeps_updWork [Fact (P .fab)] [Fact (P .ny)] [Fact (P .regs)] [Fact (P .ring)] [Fact (P .sv)] [Fact (P .tbl)] (n : Nat) {s₀ s : State} (h : Keeps P s₀ s) : Keeps P s₀ (updWork n s) := by
  induction n generalizing s with
  | zero => exact h
  | succ n ih =>
    unfold updWork
    repeat' (first
      | with_reducible assumption
      | apply ih
      | with_reducible apply keeps_updSteps
      | with_reducible apply keeps_updEndOp
      | with_reducible apply keeps_setOp
      | with_reducible apply keeps_updDecide
      | with_reducible apply keeps_touch
      | with_reducible apply keeps_pcEvent
      | with_reducible apply keeps_bump64
      | with_reducible apply keeps_tblRead
      | split
      | intro _
      | extract_lets)

theorem keeps_updQueue [Fact (P .fab)] [Fact (P .ny)] [Fact (P .regs)] [Fact (P .ring)] [Fact (P .sv)] [Fact (P .tbl)] {s₀ s : State} (o : UpdOp) (hk : Keeps P s₀ s) : Keeps P s₀ (State.updQueue s o) := by
  unfold State.updQueue
  repeat' (first
    | with_reducible assumption
    | with_reducible exact Keeps.refl _
    | with_reducible apply keeps_bgBegin
    | with_reducible apply keeps_updWork
    | fail_if_no_progress (with_reducible apply keeps_mk <;> first | exact .inl Fact.out | with_reducible exact .inr rfl | with_reducible rfl | skip)
    | with_reducible apply keeps_each
    | with_reducible apply keeps_foldl
    | split)

theorem keeps_updAnswer [Fact (P .fab)] [Fact (P .ny)] [Fact (P .regs)] [Fact (P .ring)] [Fact (P .sp)] [Fact (P .sv)] [Fact (P .tbl)] {s₀ s : State} (d : Deliv) (hk : Keeps P s₀ s) : Keeps P s₀ (State.updAnswer s d) := by
  unfold State.updAnswer
  repeat' (first
    | with_reducible assumption
    | with_reducible exact Keeps.refl _
    | with_reducible apply keeps_okay
    | with_reducible apply keeps_updWork
    | with_reducible apply keeps_tblErr
    | with_reducible apply keeps_setOp
    | with_reducible apply keeps_tblTorn
    | with_reducible apply keeps_tblRead
    | fail_if_no_progress (with_reducible apply keeps_mk <;> first | exact .inl Fact.out | with_reducible exact .inr rfl | with_reducible rfl | skip)
    | with_reducible apply keeps_each
    | with_reducible apply keeps_foldl
    | split
    | intro _
    | (extract_lets +onlyGivenNames x; refine keeps_cut (x := x) ?_ ?_; on_goal 2 => clear_value x)
    | extract_lets +onlyGivenNames y)

theorem keeps_copyNextRead [Fact (P .fab)] [Fact (P .sv)] {s₀ s : State}  (hk : Keeps P s₀ s) : Keeps P s₀ (State.copyNextRead s) := by
  unfold State.copyNextRead
  repeat' (first
    | with_reducible assumption
    | with_reducible exact Keeps.refl _
    | with_reducible apply keeps_tblRead
    | fail_if_no_progress (with_reducible apply keeps_mk <;> first | exact .inl Fact.out | with_reducible exact .inr rfl | with_reducible rfl | skip)
    | with_reducible apply keeps_each
    | with_reducible apply keeps_foldl
    | split)

theorem keeps_copyFailed [Fact (P .fab)] [Fact (P .regs)] [Fact (P .sv)] {s₀ s : State}  (hk : Keeps P s₀ s) : Keeps P s₀ (State.copyFailed s) := by
  unfold State.copyFailed
  repeat' (first
    | with_reducible assumption
    | with_reducible exact Keeps.refl _
    | with_reducible apply keeps_pump
    | with_reducible apply keeps_svEnd
    | fail_if_no_progress (with_reducible apply keeps_mk <;> first | exact .inl Fact.out | with_reducible exact .inr rfl | with_reducible rfl | skip)
    | with_reducible apply keeps_each
    | with_reducible apply keeps_foldl
    | split)

theorem keeps_copyAnswer [Fact (P .fab)] [Fact (P .regs)] [Fact (P .sp)] [Fact (P .sv)] {s₀ s : State} (d : Deliv) (hk : Keeps P s₀ s) : Keeps P s₀ (State.copyAnswer s d) := by
  unfold State.copyAnswer
  repeat' (first
    | with_reducible assumption
    | with_reducible exact Keeps.refl _
    | with_reducible apply keeps_okay
    | with_reducible apply keeps_tblErr
    | with_reducible apply keeps_copyFailed
    | with_reducible apply keeps_tblWriteOn
    | with_reducible apply keeps_tblRead
    | fail_if_no_progress (with_reducible apply keeps_mk <;> first | exact .inl Fact.out | with_reducible exact .inr rfl | with_reducible rfl | skip)
    | with_reducible apply keeps_each
    | with_reducible apply keeps_foldl
    | split
    | intro _
    | (extract_lets +onlyGivenNames x; refine keeps_cut (x := x) ?_ ?_; on_goal 2 => clear_value x))

theorem keeps_copyWritten [Fact (P .fab)] [Fact (P .regs)] [Fact (P .sp)] [Fact (P .sv)] {s₀ s : State} (d : Deliv) (hk : Keeps P s₀ s) : Keeps P s₀ (State.copyWritten s d) := by
  unfold State.copyWritten
  repeat' (first
    | with_reducible assumption
    | with_reducible exact Keeps.refl _
    | with_reducible apply keeps_okay
    | with_reducible apply keeps_tblErr
    | with_reducible apply keeps_copyFailed
    | with_reducible apply keeps_wr
    | with_reducible apply keeps_copyNextRead
    | fail_if_no_progress (with_reducible apply keeps_mk <;> first | exact .inl Fact.out | with_reducible exact .inr rfl | with_reducible rfl | skip)
    | with_reducible apply keeps_each
    | with_reducible apply keeps_foldl
    | split
    | intro _
    | (extract_lets +onlyGivenNames x; refine keeps_cut (x := x) ?_ ?_; on_goal 2 => clear_value x))

theorem keeps_execTableReadResponse [Fact (P .fab)] [Fact (P .ny)] [Fact (P .regs)] [Fact (P .ring)] [Fact (P .sp)] [Fact (P .sv)] [Fact (P .tbl)]  (s : State) : Outs P s (execTableReadResponse s) := by
  unfold execTableReadResponse
  apply outs_next
  repeat' (first
    | with_reducible assumption
    | with_reducible exact Keeps.refl _
    | with_reducible apply keeps_lookupAnswer
    | with_reducible apply keeps_updAnswer
    | with_reducible apply keeps_copyAnswer
    | fail_if_no_progress (with_reducible apply keeps_mk <;> first | exact .inl Fact.out | with_reducible exact .inr rfl | with_reducible rfl | skip)
    | with_reducible apply keeps_each
    | with_reducible apply keeps_foldl
    | split)

theorem keeps_updWritten [Fact (P .fab)] [Fact (P .ny)] [Fact (P .regs)] [Fact (P .ring)] [Fact (P .sp)] [Fact (P .sv)] [Fact (P .tbl)] {s₀ s : State} (d : Deliv) (hk : Keeps P s₀ s) : Keeps P s₀ (State.updWritten s d) := by
  unfold State.updWritten
  repeat' (first
    | with_reducible assumption
    | with_reducible exact Keeps.refl _
    | with_reducible apply keeps_okay
    | with_reducible apply keeps_tblErr
    | with_reducible apply keeps_tblWriteOn
    | with_reducible apply keeps_setLine
    | with_reducible apply keeps_updWork
    | with_reducible apply keeps_setOp
    | with_reducible apply keeps_updFail
    | fail_if_no_progress (with_reducible apply keeps_mk <;> first | exact .inl Fact.out | with_reducible exact .inr rfl | with_reducible rfl | skip)
    | with_reducible apply keeps_each
    | with_reducible apply keeps_foldl
    | split
    | intro _
    | (extract_lets +onlyGivenNames x; refine keeps_cut (x := x) ?_ ?_; on_goal 2 => clear_value x)
    | extract_lets +onlyGivenNames y)

theorem keeps_clearWrite [Fact (P .fab)] [Fact (P .sv)] [Fact (P .tbl)] {s₀ s : State} (b : Nat) (hk : Keeps P s₀ s) : Keeps P s₀ (State.clearWrite s b) := by
  unfold State.clearWrite
  repeat' (first
    | with_reducible assumption
    | with_reducible exact Keeps.refl _
    | with_reducible apply keeps_staleReads
    | with_reducible apply keeps_tblWriteOn
    | with_reducible apply keeps_each
    | fail_if_no_progress (with_reducible apply keeps_mk <;> first | exact .inl Fact.out | with_reducible exact .inr rfl | with_reducible rfl | skip)
    | with_reducible apply keeps_each
    | with_reducible apply keeps_foldl
    | split
    | intro _)

theorem keeps_clearWritten [Fact (P .fab)] [Fact (P .regs)] [Fact (P .sp)] [Fact (P .sv)] [Fact (P .tbl)] {s₀ s : State} (d : Deliv) (hk : Keeps P s₀ s) : Keeps P s₀ (State.clearWritten s d) := by
  unfold State.clearWritten
  repeat' (first
    | with_reducible assumption
    | with_reducible exact Keeps.refl _
    | with_reducible apply keeps_okay
    | with_reducible apply keeps_tblErr
    | with_reducible apply keeps_staleReads
    | with_reducible apply keeps_tblWriteOn
    | with_reducible apply keeps_pinLine
    | with_reducible apply keeps_clearWrite
    | fail_if_no_progress (with_reducible apply keeps_mk <;> first | exact .inl Fact.out | with_reducible exact .inr rfl | with_reducible rfl | skip)
    | with_reducible apply keeps_each
    | with_reducible apply keeps_foldl
    | split
    | intro _
    | (extract_lets +onlyGivenNames x; refine keeps_cut (x := x) ?_ ?_; on_goal 2 => clear_value x)
    | extract_lets +onlyGivenNames y)

theorem keeps_execUpdateWriteResponse [Fact (P .fab)] [Fact (P .ny)] [Fact (P .regs)] [Fact (P .ring)] [Fact (P .sp)] [Fact (P .sv)] [Fact (P .tbl)]  (s : State) : Outs P s (execUpdateWriteResponse s) := by
  unfold execUpdateWriteResponse
  apply outs_next
  repeat' (first
    | with_reducible assumption
    | with_reducible exact Keeps.refl _
    | with_reducible apply keeps_updWritten
    | with_reducible apply keeps_clearWritten
    | with_reducible apply keeps_copyWritten
    | fail_if_no_progress (with_reducible apply keeps_mk <;> first | exact .inl Fact.out | with_reducible exact .inr rfl | with_reducible rfl | skip)
    | with_reducible apply keeps_each
    | with_reducible apply keeps_foldl
    | split)

theorem keeps_execStashMigrate [Fact (P .fab)] [Fact (P .ny)] [Fact (P .regs)] [Fact (P .ring)] [Fact (P .sv)] [Fact (P .tbl)]  (s : State) : Outs P s (execStashMigrate s) := by
  unfold execStashMigrate
  apply outs_next
  repeat' (first
    | with_reducible assumption
    | with_reducible exact Keeps.refl _
    | with_reducible apply keeps_updQueue
    | fail_if_no_progress (with_reducible apply keeps_mk <;> first | exact .inl Fact.out | with_reducible exact .inr rfl | with_reducible rfl | skip)
    | with_reducible apply keeps_each
    | with_reducible apply keeps_foldl
    | split)

theorem keeps_clReject [Fact (P .regs)] {s₀ s : State}  (hk : Keeps P s₀ s) : Keeps P s₀ (State.clReject s) := by
  unfold State.clReject
  repeat' (first
    | with_reducible assumption
    | with_reducible exact Keeps.refl _
    | with_reducible apply keeps_bump)

theorem keeps_clUpd [Fact (P .fab)] [Fact (P .ny)] [Fact (P .regs)] [Fact (P .ring)] [Fact (P .sv)] [Fact (P .tbl)] {s₀ s : State} (op : Nat) (hk : Keeps P s₀ s) : Keeps P s₀ (State.clUpd s op) := by
  unfold State.clUpd
  repeat' (first
    | with_reducible assumption
    | with_reducible exact Keeps.refl _
    | with_reducible apply keeps_clReject
    | with_reducible apply keeps_raise
    | with_reducible apply keeps_updQueue
    | fail_if_no_progress (with_reducible apply keeps_mk <;> first | exact .inl Fact.out | with_reducible exact .inr rfl | with_reducible rfl | skip)
    | with_reducible apply keeps_each
    | with_reducible apply keeps_foldl
    | split)

theorem keeps_clUpdRow [Fact (P .fab)] [Fact (P .ny)] [Fact (P .regs)] [Fact (P .ring)] [Fact (P .sp)] [Fact (P .sv)] [Fact (P .tbl)] {s₀ s : State} (w : Who) (op : Nat) (hk : Keeps P s₀ s) : Keeps P s₀ (State.clUpdRow s w op) := by
  unfold State.clUpdRow
  repeat' (first
    | with_reducible assumption
    | with_reducible exact Keeps.refl _
    | with_reducible apply keeps_guardWrite
    | with_reducible apply keeps_clUpd
    | fail_if_no_progress (with_reducible apply keeps_mk <;> first | exact .inl Fact.out | with_reducible exact .inr rfl | with_reducible rfl | skip)
    | with_reducible apply keeps_each
    | with_reducible apply keeps_foldl
    | split
    | intro _)

theorem keeps_execClInsert [Fact (P .fab)] [Fact (P .ny)] [Fact (P .regs)] [Fact (P .ring)] [Fact (P .sp)] [Fact (P .sv)] [Fact (P .tbl)] (w : Who) (s : State) : Outs P s (execClInsert w s) := by
  unfold execClInsert
  apply outs_next
  repeat' (first
    | with_reducible assumption
    | with_reducible exact Keeps.refl _
    | with_reducible apply keeps_clUpdRow)

theorem keeps_execClDelete [Fact (P .fab)] [Fact (P .ny)] [Fact (P .regs)] [Fact (P .ring)] [Fact (P .sp)] [Fact (P .sv)] [Fact (P .tbl)] (w : Who) (s : State) : Outs P s (execClDelete w s) := by
  unfold execClDelete
  apply outs_next
  repeat' (first
    | with_reducible assumption
    | with_reducible exact Keeps.refl _
    | with_reducible apply keeps_clUpdRow)

theorem keeps_execClModify [Fact (P .fab)] [Fact (P .ny)] [Fact (P .regs)] [Fact (P .ring)] [Fact (P .sp)] [Fact (P .sv)] [Fact (P .tbl)] (w : Who) (s : State) : Outs P s (execClModify w s) := by
  unfold execClModify
  apply outs_next
  repeat' (first
    | with_reducible assumption
    | with_reducible exact Keeps.refl _
    | with_reducible apply keeps_clUpdRow)

theorem keeps_execClQuery [Fact (P .fab)] [Fact (P .ny)] [Fact (P .regs)] [Fact (P .ring)] [Fact (P .sp)] [Fact (P .sv)] [Fact (P .tbl)] (w : Who) (s : State) : Outs P s (execClQuery w s) := by
  unfold execClQuery
  apply outs_next
  repeat' (first
    | with_reducible assumption
    | with_reducible exact Keeps.refl _
    | with_reducible apply keeps_clUpdRow)

theorem keeps_clClear [Fact (P .fab)] [Fact (P .regs)] [Fact (P .sv)] [Fact (P .tbl)] {s₀ s : State}  (hk : Keeps P s₀ s) : Keeps P s₀ (State.clClear s) := by
  unfold State.clClear
  repeat' (first
    | with_reducible assumption
    | with_reducible exact Keeps.refl _
    | with_reducible apply keeps_occReport
    | with_reducible apply keeps_raise
    | with_reducible apply keeps_each
    | with_reducible apply keeps_clearWrite
    | fail_if_no_progress (with_reducible apply keeps_mk <;> first | exact .inl Fact.out | with_reducible exact .inr rfl | with_reducible rfl | skip))

theorem keeps_clCtrl [Fact (P .fab)] [Fact (P .regs)] [Fact (P .sv)] [Fact (P .tbl)] {s₀ s : State} (v : Nat) (hk : Keeps P s₀ s) : Keeps P s₀ (State.clCtrl s v) := by
  unfold State.clCtrl
  repeat' (first
    | with_reducible assumption
    | with_reducible exact Keeps.refl _
    | with_reducible apply keeps_wr
    | with_reducible apply keeps_clReject
    | with_reducible apply keeps_clClear
    | with_reducible apply keeps_raise
    | fail_if_no_progress (with_reducible apply keeps_mk <;> first | exact .inl Fact.out | with_reducible exact .inr rfl | with_reducible rfl | skip)
    | with_reducible apply keeps_each
    | with_reducible apply keeps_foldl
    | split
    | intro _
    | (extract_lets +onlyGivenNames x; refine keeps_cut (x := x) ?_ ?_; on_goal 2 => clear_value x)
    | extract_lets +onlyGivenNames y)

theorem keeps_execClEnable [Fact (P .fab)] [Fact (P .regs)] [Fact (P .sp)] [Fact (P .sv)] [Fact (P .tbl)] (w : Who) (v : Word) (s : State) : Outs P s (execClEnable w v s) := by
  unfold execClEnable
  apply outs_next
  repeat' (first
    | with_reducible assumption
    | with_reducible exact Keeps.refl _
    | with_reducible apply keeps_guardWrite
    | with_reducible apply keeps_clCtrl
    | fail_if_no_progress (with_reducible apply keeps_mk <;> first | exact .inl Fact.out | with_reducible exact .inr rfl | with_reducible rfl | skip)
    | with_reducible apply keeps_each
    | with_reducible apply keeps_foldl
    | split
    | intro _)

theorem keeps_execClClear [Fact (P .fab)] [Fact (P .regs)] [Fact (P .sp)] [Fact (P .sv)] [Fact (P .tbl)] (w : Who) (v : Word) (s : State) : Outs P s (execClClear w v s) := by
  unfold execClClear
  apply outs_next
  repeat' (first
    | with_reducible assumption
    | with_reducible exact Keeps.refl _
    | with_reducible apply keeps_guardWrite
    | with_reducible apply keeps_clCtrl
    | fail_if_no_progress (with_reducible apply keeps_mk <;> first | exact .inl Fact.out | with_reducible exact .inr rfl | with_reducible rfl | skip)
    | with_reducible apply keeps_each
    | with_reducible apply keeps_foldl
    | split
    | intro _)

theorem keeps_execClClearDone [Fact (P .regs)] [Fact (P .tbl)]  (s : State) : Outs P s (execClClearDone s) := by
  unfold execClClearDone
  apply outs_next
  repeat' (first
    | with_reducible assumption
    | with_reducible exact Keeps.refl _
    | with_reducible apply keeps_wr
    | fail_if_no_progress (with_reducible apply keeps_mk <;> first | exact .inl Fact.out | with_reducible exact .inr rfl | with_reducible rfl | skip)
    | with_reducible apply keeps_each
    | with_reducible apply keeps_foldl
    | split)

theorem keeps_clWrite [Fact (P .fab)] [Fact (P .ny)] [Fact (P .regs)] [Fact (P .ring)] [Fact (P .sv)] [Fact (P .tbl)] [Fact (P .tm)] {s₀ s : State} (off v : Nat) (hk : Keeps P s₀ s) : Keeps P s₀ (State.clWrite s off v) := by
  unfold State.clWrite
  repeat' (first
    | with_reducible assumption
    | with_reducible exact Keeps.refl _
    | with_reducible apply keeps_clCtrl
    | with_reducible apply keeps_clReject
    | with_reducible apply keeps_writePlain
    | with_reducible apply keeps_clUpd
    | with_reducible apply keeps_writeKept
    | fail_if_no_progress (with_reducible apply keeps_mk <;> first | exact .inl Fact.out | with_reducible exact .inr rfl | with_reducible rfl | skip)
    | with_reducible apply keeps_each
    | with_reducible apply keeps_foldl
    | split
    | intro _
    | (extract_lets +onlyGivenNames x; refine keeps_cut (x := x) ?_ ?_; on_goal 2 => clear_value x))

end Sys2Proof.Laws
end

