-- ==== Sys2Proof/Laws/KeepsMeters.lean ====
section
/-! SUPPORT. What the operations of Meters.lean keep. -/

namespace Sys2Proof.Laws

open Sys2Proof.Machine

variable {P : Part → Prop}

theorem keeps_setMeter [Fact (P .meters)] {s₀ s : State} (i : Nat) (m : MeterSt) (hk : Keeps P s₀ s) : Keeps P s₀ (State.setMeter s i m) := by
  unfold State.setMeter
  repeat' (first
    | with_reducible assumption
    | with_reducible exact Keeps.refl _
    | fail_if_no_progress (with_reducible apply keeps_mk <;> first | exact .inl Fact.out | with_reducible exact .inr rfl | with_reducible rfl | skip))

theorem keeps_meterSet [Fact (P .meters)] [Fact (P .regs)] {s₀ s : State} (i : Nat) (m : MeterSt) (hk : Keeps P s₀ s) : Keeps P s₀ (State.meterSet s i m) := by
  unfold State.meterSet
  repeat' (first
    | with_reducible assumption
    | with_reducible exact Keeps.refl _
    | with_reducible apply keeps_setMeter
    | with_reducible apply keeps_wr
    | with_reducible apply keeps_raise
    | fail_if_no_progress (with_reducible apply keeps_mk <;> first | exact .inl Fact.out | with_reducible exact .inr rfl | with_reducible rfl | skip)
    | with_reducible apply keeps_each
    | with_reducible apply keeps_foldl
    | split)

theorem keeps_meterFrame [Fact (P .meters)] [Fact (P .regs)] {s₀ s : State} (i len : Nat) (yellow : Bool) (hk : Keeps P s₀ s) : Keeps P s₀ (State.meterFrame s i len yellow).2 := by
  unfold State.meterFrame
  repeat' (first
    | with_reducible assumption
    | with_reducible exact Keeps.refl _
    | with_reducible apply keeps_meterSet
    | with_reducible apply keeps_bump64)

theorem keeps_meterFrame_eq [Fact (P .meters)] [Fact (P .regs)] {s₀ s s₁ : State} (i len : Nat) (yellow : Bool) {x₁ : Nat} (he : State.meterFrame s i len yellow = (x₁, s₁)) (hk : Keeps P s₀ s) : Keeps P s₀ s₁ := by
  have := keeps_meterFrame i len yellow hk
  rw [he] at this; exact this

theorem keeps_meterLoad [Fact (P .meters)] [Fact (P .regs)] {s₀ s : State}  (hk : Keeps P s₀ s) : Keeps P s₀ (State.meterLoad s) := by
  unfold State.meterLoad
  repeat' (first
    | with_reducible assumption
    | with_reducible exact Keeps.refl _
    | with_reducible apply keeps_raise
    | with_reducible apply keeps_meterSet
    | with_reducible apply keeps_wr
    | fail_if_no_progress (with_reducible apply keeps_mk <;> first | exact .inl Fact.out | with_reducible exact .inr rfl | with_reducible rfl | skip)
    | with_reducible apply keeps_each
    | with_reducible apply keeps_foldl
    | split)

theorem keeps_meterRead [Fact (P .meters)] [Fact (P .regs)] {s₀ s : State}  (hk : Keeps P s₀ s) : Keeps P s₀ (State.meterRead s) := by
  unfold State.meterRead
  repeat' (first
    | with_reducible assumption
    | with_reducible exact Keeps.refl _
    | with_reducible apply keeps_meterSet
    | with_reducible apply keeps_wr
    | with_reducible apply keeps_put)

theorem keeps_meterCmd [Fact (P .meters)] [Fact (P .regs)] {s₀ s : State} (v : Nat) (hk : Keeps P s₀ s) : Keeps P s₀ (State.meterCmd s v) := by
  unfold State.meterCmd
  repeat' (first
    | with_reducible assumption
    | with_reducible exact Keeps.refl _
    | with_reducible apply keeps_meterLoad
    | with_reducible apply keeps_meterRead
    | fail_if_no_progress (with_reducible apply keeps_mk <;> first | exact .inl Fact.out | with_reducible exact .inr rfl | with_reducible rfl | skip)
    | with_reducible apply keeps_each
    | with_reducible apply keeps_foldl
    | split)

theorem keeps_execMtWrite [Fact (P .fab)] [Fact (P .meters)] [Fact (P .regs)] [Fact (P .sp)] (w : Who) (read : Bool) (s : State) : Outs P s (execMtWrite w read s) := by
  unfold execMtWrite
  apply outs_next
  repeat' (first
    | with_reducible assumption
    | with_reducible exact Keeps.refl _
    | with_reducible apply keeps_guardWrite
    | with_reducible apply keeps_meterCmd
    | fail_if_no_progress (with_reducible apply keeps_mk <;> first | exact .inl Fact.out | with_reducible exact .inr rfl | with_reducible rfl | skip)
    | with_reducible apply keeps_each
    | with_reducible apply keeps_foldl
    | split
    | intro _)

theorem keeps_execMtRead [Fact (P .fab)] [Fact (P .meters)] [Fact (P .regs)] [Fact (P .sp)] (w : Who) (s : State) : Outs P s (execMtRead w s) := by
  unfold execMtRead
  apply outs_next
  repeat' (first
    | with_reducible assumption
    | with_reducible exact Keeps.refl _
    | with_reducible apply keeps_guardWrite
    | with_reducible apply keeps_meterCmd
    | fail_if_no_progress (with_reducible apply keeps_mk <;> first | exact .inl Fact.out | with_reducible exact .inr rfl | with_reducible rfl | skip)
    | with_reducible apply keeps_each
    | with_reducible apply keeps_foldl
    | split
    | intro _)

theorem keeps_mtWrite [Fact (P .meters)] [Fact (P .regs)] {s₀ s : State} (off v : Nat) (hk : Keeps P s₀ s) : Keeps P s₀ (State.mtWrite s off v) := by
  unfold State.mtWrite
  repeat' (first
    | with_reducible assumption
    | with_reducible exact Keeps.refl _
    | with_reducible apply keeps_meterCmd
    | with_reducible apply keeps_writePlain
    | fail_if_no_progress (with_reducible apply keeps_mk <;> first | exact .inl Fact.out | with_reducible exact .inr rfl | with_reducible rfl | skip)
    | with_reducible apply keeps_each
    | with_reducible apply keeps_foldl
    | split)

end Sys2Proof.Laws
end

