-- ==== Sys2Proof/Laws/KeepsSched.lean ====
section
/-! SUPPORT. What the operations of Sched.lean keep. -/

namespace Sys2Proof.Laws

open Sys2Proof.Machine

set_option Elab.async false

variable {P : Part → Prop}

theorem keeps_putShap [Fact (P .shaps)] {s₀ s : State} (i : Nat) (x : ShapSt) (hk : Keeps P s₀ s) : Keeps P s₀ (State.putShap s i x) := by
  unfold State.putShap
  repeat' (first
    | with_reducible assumption
    | with_reducible exact Keeps.refl _
    | fail_if_no_progress (with_reducible apply keeps_mk <;> first | exact .inl Fact.out | with_reducible exact .inr rfl | with_reducible rfl | skip))

theorem keeps_setShap [Fact (P .regs)] [Fact (P .shaps)] {s₀ s : State} (i : Nat) (x : ShapSt) (hk : Keeps P s₀ s) : Keeps P s₀ (State.setShap s i x) := by
  unfold State.setShap
  repeat' (first
    | with_reducible assumption
    | with_reducible exact Keeps.refl _
    | with_reducible apply keeps_putShap
    | with_reducible apply keeps_wr
    | with_reducible apply keeps_raise
    | fail_if_no_progress (with_reducible apply keeps_mk <;> first | exact .inl Fact.out | with_reducible exact .inr rfl | with_reducible rfl | skip)
    | with_reducible apply keeps_each
    | with_reducible apply keeps_foldl
    | split)

theorem keeps_setNode [Fact (P .nodes)] {s₀ s : State} (n : Nat) (x : NodeSt) (hk : Keeps P s₀ s) : Keeps P s₀ (State.setNode s n x) := by
  unfold State.setNode
  repeat' (first
    | with_reducible assumption
    | with_reducible exact Keeps.refl _
    | fail_if_no_progress (with_reducible apply keeps_mk <;> first | exact .inl Fact.out | with_reducible exact .inr rfl | with_reducible rfl | skip))

theorem keeps_nodeAssign [Fact (P .nodes)] {s₀ s : State} (c k x : Nat) (hk : Keeps P s₀ s) : Keeps P s₀ (State.nodeAssign s c k x) := by
  unfold State.nodeAssign
  repeat' (first
    | with_reducible assumption
    | with_reducible exact Keeps.refl _
    | with_reducible apply keeps_setNode
    | fail_if_no_progress (with_reducible apply keeps_mk <;> first | exact .inl Fact.out | with_reducible exact .inr rfl | with_reducible rfl | skip)
    | with_reducible apply keeps_each
    | with_reducible apply keeps_foldl
    | split)

theorem keeps_nodeWake [Fact (P .chs)] [Fact (P .nodes)] [Fact (P .regs)] [Fact (P .sys)] [Fact (P .txs)] {s₀ s : State} (id : Nat) (hk : Keeps P s₀ s) : Keeps P s₀ (State.nodeWake s id) := by
  unfold State.nodeWake
  repeat' (first
    | with_reducible assumption
    | with_reducible exact Keeps.refl _
    | with_reducible apply keeps_stage
    | with_reducible apply keeps_setNode
    | fail_if_no_progress (with_reducible apply keeps_mk <;> first | exact .inl Fact.out | with_reducible exact .inr rfl | with_reducible rfl | skip)
    | with_reducible apply keeps_each
    | with_reducible apply keeps_foldl
    | split
    | intro _
    | (extract_lets +onlyGivenNames x; refine keeps_cut (x := x) ?_ ?_; on_goal 2 => clear_value x)
    | extract_lets +onlyGivenNames y)

theorem keeps_nodesRefresh [Fact (P .nodes)] {s₀ s : State}  (hk : Keeps P s₀ s) : Keeps P s₀ (State.nodesRefresh s) := by
  unfold State.nodesRefresh
  repeat' (first
    | with_reducible assumption
    | with_reducible exact Keeps.refl _
    | with_reducible apply keeps_each
    | with_reducible apply keeps_setNode
    | with_reducible apply keeps_nodeAssign
    | fail_if_no_progress (with_reducible apply keeps_mk <;> first | exact .inl Fact.out | with_reducible exact .inr rfl | with_reducible rfl | skip)
    | with_reducible apply keeps_each
    | with_reducible apply keeps_foldl
    | split
    | intro _
    | (extract_lets +onlyGivenNames x; refine keeps_cut (x := x) ?_ ?_; on_goal 2 => clear_value x)
    | extract_lets +onlyGivenNames y)

theorem keeps_stage [Fact (P .chs)] [Fact (P .regs)] [Fact (P .sys)] [Fact (P .txs)] {s₀ s : State} (c k id : Nat) (hk : Keeps P s₀ s) : Keeps P s₀ (State.stage s c k id) := by
  unfold State.stage
  repeat' (first
    | with_reducible assumption
    | with_reducible exact Keeps.refl _
    | with_reducible apply keeps_setStaged
    | with_reducible apply keeps_refreshStaged
    | with_reducible apply keeps_setTx
    | with_reducible apply keeps_crossed
    | fail_if_no_progress (with_reducible apply keeps_mk <;> first | exact .inl Fact.out | with_reducible exact .inr rfl | with_reducible rfl | skip)
    | with_reducible apply keeps_each
    | with_reducible apply keeps_foldl
    | split
    | intro _
    | (extract_lets +onlyGivenNames x; refine keeps_cut (x := x) ?_ ?_; on_goal 2 => clear_value x))

theorem keeps_dispatchPair [Fact (P .chs)] [Fact (P .grps)] [Fact (P .nextFr)] [Fact (P .pairs)] [Fact (P .regs)] [Fact (P .sys)] [Fact (P .txs)] {s₀ s : State} (c k id : Nat) (f : TxFr) (hk : Keeps P s₀ s) : Keeps P s₀ (State.dispatchPair s c k id f) := by
  unfold State.dispatchPair
  repeat' (first
    | with_reducible assumption
    | with_reducible exact Keeps.refl _
    | with_reducible apply keeps_setPair
    | with_reducible apply keeps_each
    | with_reducible apply keeps_setTx
    | with_reducible apply keeps_stage
    | with_reducible apply keeps_setGrp
    | fail_if_no_progress (with_reducible apply keeps_mk <;> first | exact .inl Fact.out | with_reducible exact .inr rfl | with_reducible rfl | skip)
    | with_reducible apply keeps_each
    | with_reducible apply keeps_foldl
    | split
    | intro _
    | (extract_lets +onlyGivenNames x; refine keeps_cut (x := x) ?_ ?_; on_goal 2 => clear_value x)
    | extract_lets +onlyGivenNames y)

theorem keeps_cellsUnc [Fact (P .regs)] {s₀ s : State} (unc : Option (Fin 3072)) (hk : Keeps P s₀ s) : Keeps P s₀ (State.cellsUnc s unc) := by
  unfold State.cellsUnc
  repeat' (first
    | with_reducible assumption
    | with_reducible exact Keeps.refl _
    | with_reducible apply keeps_rowUnc
    | fail_if_no_progress (with_reducible apply keeps_mk <;> first | exact .inl Fact.out | with_reducible exact .inr rfl | with_reducible rfl | skip)
    | with_reducible apply keeps_each
    | with_reducible apply keeps_foldl
    | split)

theorem keeps_dispatchTo [Fact (P .chs)] [Fact (P .grps)] [Fact (P .nextFr)] [Fact (P .nodes)] [Fact (P .pairs)] [Fact (P .regs)] [Fact (P .shaps)] [Fact (P .sys)] [Fact (P .txs)] [Fact (P .vtime)] {s₀ s : State} (c k : Nat) (unc : Option (Fin 3072)) (hk : Keeps P s₀ s) : Keeps P s₀ (State.dispatchTo s c k unc) := by
  unfold State.dispatchTo
  repeat' (first
    | with_reducible assumption
    | with_reducible exact Keeps.refl _
    | with_reducible apply keeps_setShap
    | with_reducible apply keeps_setNode
    | with_reducible apply keeps_stage
    | with_reducible apply keeps_cellsUnc
    | with_reducible apply keeps_setTx
    | with_reducible apply keeps_pcEvent
    | with_reducible apply keeps_dispatchPair
    | with_reducible apply keeps_nodesRefresh
    | fail_if_no_progress (with_reducible apply keeps_mk <;> first | exact .inl Fact.out | with_reducible exact .inr rfl | with_reducible rfl | skip)
    | with_reducible apply keeps_each
    | with_reducible apply keeps_foldl
    | split)

theorem keeps_execDispatch [Fact (P .chs)] [Fact (P .grps)] [Fact (P .nextFr)] [Fact (P .nodes)] [Fact (P .pairs)] [Fact (P .regs)] [Fact (P .shaps)] [Fact (P .sys)] [Fact (P .txs)] [Fact (P .vtime)] (c : Fin 32) (k : Fin 8) (unc : Option (Fin 3072)) (s : State) : Outs P s (execDispatch c k unc s) := by
  unfold execDispatch
  apply outs_next
  repeat' (first
    | with_reducible assumption
    | with_reducible exact Keeps.refl _
    | with_reducible apply keeps_dispatchTo
    | fail_if_no_progress (with_reducible apply keeps_mk <;> first | exact .inl Fact.out | with_reducible exact .inr rfl | with_reducible rfl | skip)
    | with_reducible apply keeps_each
    | with_reducible apply keeps_foldl
    | split)

theorem keeps_execTxFrameInStaging [Fact (P .chs)] [Fact (P .fb)] [Fact (P .free)] [Fact (P .led)] [Fact (P .qs)] [Fact (P .regs)] [Fact (P .sys)] [Fact (P .txs)] (c : Fin 32) (s : State) : Outs P s (execTxFrameInStaging c s) := by
  unfold execTxFrameInStaging
  apply outs_next
  repeat' (first
    | with_reducible assumption
    | with_reducible exact Keeps.refl _
    | with_reducible apply keeps_stage
    | with_reducible apply keeps_setTx
    | with_reducible apply keeps_fbFreeTx
    | with_reducible apply keeps_overruns
    | fail_if_no_progress (with_reducible apply keeps_mk <;> first | exact .inl Fact.out | with_reducible exact .inr rfl | with_reducible rfl | skip)
    | with_reducible apply keeps_each
    | with_reducible apply keeps_foldl
    | split
    | intro _
    | (extract_lets +onlyGivenNames x; refine keeps_cut (x := x) ?_ ?_; on_goal 2 => clear_value x)
    | extract_lets +onlyGivenNames y
    | dsimp +zetaDelta only)

theorem keeps_limitsTake [Fact (P .chs)] {s₀ s : State} (c : Nat) (hk : Keeps P s₀ s) : Keeps P s₀ (State.limitsTake s c) := by
  unfold State.limitsTake
  repeat' (first
    | with_reducible assumption
    | with_reducible exact Keeps.refl _
    | with_reducible apply keeps_setCh)

theorem keeps_startFrame [Fact (P .chs)] [Fact (P .fb)] [Fact (P .free)] [Fact (P .led)] [Fact (P .qs)] [Fact (P .regs)] [Fact (P .sys)] [Fact (P .txs)] {s₀ s : State} (c k id : Nat) (f : TxFr) (byte : Nat) (hk : Keeps P s₀ s) : Keeps P s₀ (State.startFrame s c k id f byte) := by
  unfold State.startFrame
  repeat' (first
    | with_reducible assumption
    | with_reducible exact Keeps.refl _
    | with_reducible apply keeps_txSample
    | with_reducible apply keeps_limitsTake
    | with_reducible apply keeps_setStaged
    | with_reducible apply keeps_setTx
    | with_reducible apply keeps_stage
    | with_reducible apply keeps_setCh
    | with_reducible apply keeps_statIf
    | with_reducible apply keeps_overruns
    | with_reducible apply keeps_refreshStaged
    | with_reducible apply keeps_pcSlice)

theorem keeps_startControl [Fact (P .chs)] [Fact (P .gfps)] [Fact (P .grps)] [Fact (P .regs)] {s₀ s : State} (c : Nat) (hk : Keeps P s₀ s) : Keeps P s₀ (State.startControl s c) := by
  unfold State.startControl
  repeat' (first
    | with_reducible assumption
    | with_reducible exact Keeps.refl _
    | with_reducible apply keeps_limitsTake
    | with_reducible apply keeps_wr
    | with_reducible apply keeps_stat
    | with_reducible apply keeps_each
    | with_reducible apply keeps_gfpQueue
    | with_reducible apply keeps_pcSlice
    | with_reducible apply keeps_setCh
    | fail_if_no_progress (with_reducible apply keeps_mk <;> first | exact .inl Fact.out | with_reducible exact .inr rfl | with_reducible rfl | skip)
    | with_reducible apply keeps_each
    | with_reducible apply keeps_foldl
    | split
    | intro _)

theorem keeps_guardOpen [Fact (P .chs)] [Fact (P .regs)] {s₀ s : State} (c : Nat) (hk : Keeps P s₀ s) : Keeps P s₀ (State.guardOpen s c) := by
  unfold State.guardOpen
  repeat' (first
    | with_reducible assumption
    | with_reducible exact Keeps.refl _
    | with_reducible apply keeps_setCh
    | with_reducible apply keeps_raise
    | with_reducible apply keeps_bump
    | with_reducible apply keeps_setBit)

theorem keeps_pickClass [Fact (P .chs)] [Fact (P .regs)] {s₀ s t : State} {c k : Nat} (e : s.pickClass c = some (k, t)) (h : Keeps P s₀ s) : Keeps P s₀ t := by
  unfold State.pickClass at e
  split at e
  · cases e
  · have g : Keeps P s₀ (if (s.ch c).starved && (s.ch c).guard.isNone then s.guardOpen c else s) :=
      keeps_ite (keeps_guardOpen _ h) h
    dsimp only at e
    split at e
    · rename_i g' _
      generalize (if (s.ch c).starved && (s.ch c).guard.isNone then s.guardOpen c else s) = u at *
      cases q : u.drr c 200000 g' with
      | none => rw [q] at e; cases e
      | some r => rw [q] at e; cases e; exact keeps_setCh _ _ g
    · generalize (if (s.ch c).starved && (s.ch c).guard.isNone then s.guardOpen c else s) = u at *
      cases q : [7, 6, 5, 4, 3, 2, 1, 0].find? (u.ready c) with
      | none => rw [q] at e; cases e
      | some r => rw [q] at e; cases e; exact g

theorem keeps_dropLate [Fact (P .chs)] [Fact (P .fb)] [Fact (P .free)] [Fact (P .led)] [Fact (P .qs)] [Fact (P .regs)] [Fact (P .sys)] [Fact (P .txs)] {s₀ s : State} (c g : Nat) (hk : Keeps P s₀ s) : Keeps P s₀ (State.dropLate s c g) := by
  unfold State.dropLate
  repeat' (first
    | with_reducible assumption
    | with_reducible exact Keeps.refl _
    | with_reducible apply keeps_stage
    | with_reducible apply keeps_each
    | with_reducible apply keeps_setStaged
    | with_reducible apply keeps_txDrop
    | with_reducible apply keeps_refreshStaged
    | fail_if_no_progress (with_reducible apply keeps_mk <;> first | exact .inl Fact.out | with_reducible exact .inr rfl | with_reducible rfl | skip)
    | with_reducible apply keeps_each
    | with_reducible apply keeps_foldl
    | split
    | intro _)

theorem keeps_startCopy [Fact (P .chs)] [Fact (P .fb)] [Fact (P .free)] [Fact (P .gfps)] [Fact (P .grps)] [Fact (P .led)] [Fact (P .qs)] [Fact (P .regs)] [Fact (P .sys)] [Fact (P .txs)] {s₀ s : State} (c g p id : Nat) (f : TxFr) (byte : Nat) (hk : Keeps P s₀ s) : Keeps P s₀ (State.startCopy s c g p id f byte) := by
  unfold State.startCopy
  repeat' (first
    | with_reducible assumption
    | with_reducible exact Keeps.refl _
    | with_reducible apply keeps_padTo
    | with_reducible apply keeps_startFrame
    | with_reducible apply keeps_gfpQueue
    | fail_if_no_progress (with_reducible apply keeps_mk <;> first | exact .inl Fact.out | with_reducible exact .inr rfl | with_reducible rfl | skip)
    | with_reducible apply keeps_each
    | with_reducible apply keeps_foldl
    | split
    | intro _
    | (extract_lets +onlyGivenNames x; refine keeps_cut (x := x) ?_ ?_; on_goal 2 => clear_value x))

theorem keeps_startStamped [Fact (P .chs)] [Fact (P .fb)] [Fact (P .free)] [Fact (P .gfps)] [Fact (P .grps)] [Fact (P .led)] [Fact (P .qs)] [Fact (P .regs)] [Fact (P .sys)] [Fact (P .txs)] {s₀ s : State} (c g : Nat) (unc : Bool) (byte : Nat) (hk : Keeps P s₀ s) : Keeps P s₀ (State.startStamped s c g unc byte) := by
  unfold State.startStamped
  repeat' (first
    | with_reducible assumption
    | with_reducible exact Keeps.refl _
    | with_reducible apply keeps_dropLate
    | with_reducible apply keeps_stage
    | with_reducible apply keeps_setGrp
    | with_reducible apply keeps_startCopy
    | fail_if_no_progress (with_reducible apply keeps_mk <;> first | exact .inl Fact.out | with_reducible exact .inr rfl | with_reducible rfl | skip)
    | with_reducible apply keeps_each
    | with_reducible apply keeps_foldl
    | split
    | intro _
    | (extract_lets +onlyGivenNames x; refine keeps_cut (x := x) ?_ ?_; on_goal 2 => clear_value x))

theorem keeps_txStart [Fact (P .chs)] [Fact (P .fb)] [Fact (P .free)] [Fact (P .gfps)] [Fact (P .grps)] [Fact (P .led)] [Fact (P .qs)] [Fact (P .regs)] [Fact (P .sys)] [Fact (P .tm)] [Fact (P .txs)] {s₀ s : State} (c : Nat) (unc : Bool) (byte : Nat) (hk : Keeps P s₀ s) : Keeps P s₀ (State.txStart s c unc byte) := by
  unfold State.txStart
  repeat' (first
    | with_reducible assumption
    | with_reducible exact Keeps.refl _
    | with_reducible apply keeps_advanceTo
    | with_reducible apply keeps_overruns
    | with_reducible apply keeps_startControl
    | with_reducible apply keeps_startStamped
    | with_reducible apply keeps_startFrame
    | with_reducible apply keeps_gfpQueue
    | with_reducible refine keeps_pickClass (by assumption) ?_
    | fail_if_no_progress (with_reducible apply keeps_mk <;> first | exact .inl Fact.out | with_reducible exact .inr rfl | with_reducible rfl | skip)
    | with_reducible apply keeps_each
    | with_reducible apply keeps_foldl
    | split
    | intro _
    | (extract_lets +onlyGivenNames x; refine keeps_cut (x := x) ?_ ?_; on_goal 2 => clear_value x))

theorem keeps_memFault [Fact (P .regs)] [Fact (P .sv)] {s₀ s : State} (p : Nat) (unc : Bool) (hk : Keeps P s₀ s) : Keeps P s₀ (State.memFault s p unc) := by
  unfold State.memFault
  repeat' (first
    | with_reducible assumption
    | with_reducible exact Keeps.refl _
    | with_reducible apply keeps_sliceFault
    | fail_if_no_progress (with_reducible apply keeps_mk <;> first | exact .inl Fact.out | with_reducible exact .inr rfl | with_reducible rfl | skip)
    | with_reducible apply keeps_each
    | with_reducible apply keeps_foldl
    | split)

theorem keeps_execTxFrameStart [Fact (P .chs)] [Fact (P .fb)] [Fact (P .free)] [Fact (P .gfps)] [Fact (P .grps)] [Fact (P .led)] [Fact (P .qs)] [Fact (P .regs)] [Fact (P .sv)] [Fact (P .sys)] [Fact (P .tm)] [Fact (P .txs)] (c : Fin 32) (x : TxPlace) (s : State) : Outs P s (execTxFrameStart c x s) := by
  unfold execTxFrameStart
  apply outs_next
  repeat' (first
    | with_reducible assumption
    | with_reducible exact Keeps.refl _
    | with_reducible apply keeps_txStart
    | with_reducible apply keeps_memFault
    | fail_if_no_progress (with_reducible apply keeps_mk <;> first | exact .inl Fact.out | with_reducible exact .inr rfl | with_reducible rfl | skip)
    | with_reducible apply keeps_each
    | with_reducible apply keeps_foldl
    | split)

theorem keeps_txStats [Fact (P .regs)] {s₀ s : State} (c : Nat) (f : TxFr) (hk : Keeps P s₀ s) : Keeps P s₀ (State.txStats s c f) := by
  unfold State.txStats
  repeat' (first
    | with_reducible assumption
    | with_reducible exact Keeps.refl _
    | with_reducible apply keeps_stat
    | with_reducible apply keeps_statIf)

theorem keeps_txLineEnd [Fact (P .chs)] [Fact (P .fb)] [Fact (P .free)] [Fact (P .led)] [Fact (P .qs)] [Fact (P .regs)] [Fact (P .sys)] [Fact (P .txs)] {s₀ s : State} (c : Nat) (hk : Keeps P s₀ s) : Keeps P s₀ (State.txLineEnd s c) := by
  unfold State.txLineEnd
  repeat' (first
    | with_reducible assumption
    | with_reducible exact Keeps.refl _
    | with_reducible apply keeps_setCh
    | with_reducible apply keeps_txStats
    | with_reducible apply keeps_crossed
    | with_reducible apply keeps_txGone
    | with_reducible apply keeps_setTx
    | with_reducible apply keeps_stage
    | with_reducible apply keeps_wr
    | with_reducible apply keeps_refreshStaged
    | with_reducible apply keeps_refreshIdle
    | with_reducible apply keeps_overruns
    | fail_if_no_progress (with_reducible apply keeps_mk <;> first | exact .inl Fact.out | with_reducible exact .inr rfl | with_reducible rfl | skip)
    | with_reducible apply keeps_each
    | with_reducible apply keeps_foldl
    | split
    | intro _
    | (extract_lets +onlyGivenNames x; refine keeps_cut (x := x) ?_ ?_; on_goal 2 => clear_value x))

theorem keeps_execTxFrameEnd [Fact (P .chs)] [Fact (P .fb)] [Fact (P .free)] [Fact (P .led)] [Fact (P .qs)] [Fact (P .regs)] [Fact (P .sys)] [Fact (P .txs)] (c : Fin 32) (s : State) : Outs P s (execTxFrameEnd c s) := by
  unfold execTxFrameEnd
  apply outs_next
  repeat' (first
    | with_reducible assumption
    | with_reducible exact Keeps.refl _
    | with_reducible apply keeps_txLineEnd
    | fail_if_no_progress (with_reducible apply keeps_mk <;> first | exact .inl Fact.out | with_reducible exact .inr rfl | with_reducible rfl | skip)
    | with_reducible apply keeps_each
    | with_reducible apply keeps_foldl
    | split)

theorem keeps_execStarveTimer [Fact (P .chs)] [Fact (P .regs)] [Fact (P .tm)] (c : Fin 32) (k : Fin 8) (s : State) : Outs P s (execStarveTimer c k s) := by
  unfold execStarveTimer
  apply outs_next
  repeat' (first
    | with_reducible assumption
    | with_reducible exact Keeps.refl _
    | with_reducible apply keeps_advanceTo
    | with_reducible apply keeps_unservedRefresh
    | with_reducible apply keeps_setCh
    | fail_if_no_progress (with_reducible apply keeps_mk <;> first | exact .inl Fact.out | with_reducible exact .inr rfl | with_reducible rfl | skip)
    | with_reducible apply keeps_each
    | with_reducible apply keeps_foldl
    | split
    | intro _
    | (extract_lets +onlyGivenNames x; refine keeps_cut (x := x) ?_ ?_; on_goal 2 => clear_value x))

theorem keeps_execGuardWindowEnd [Fact (P .chs)] [Fact (P .fb)] [Fact (P .free)] [Fact (P .led)] [Fact (P .qs)] [Fact (P .regs)] [Fact (P .sys)] [Fact (P .tm)] [Fact (P .txs)] (c : Fin 32) (s : State) : Outs P s (execGuardWindowEnd c s) := by
  unfold execGuardWindowEnd
  apply outs_next
  repeat' (first
    | with_reducible assumption
    | with_reducible exact Keeps.refl _
    | with_reducible apply keeps_advanceTo
    | with_reducible apply keeps_txLineEnd
    | fail_if_no_progress (with_reducible apply keeps_mk <;> first | exact .inl Fact.out | with_reducible exact .inr rfl | with_reducible rfl | skip)
    | with_reducible apply keeps_each
    | with_reducible apply keeps_foldl
    | split
    | intro _
    | (extract_lets +onlyGivenNames x; refine keeps_cut (x := x) ?_ ?_; on_goal 2 => clear_value x))

theorem keeps_tgReject [Fact (P .regs)] {s₀ s : State} (c : Nat) (hk : Keeps P s₀ s) : Keeps P s₀ (State.tgReject s c) := by
  unfold State.tgReject
  repeat' (first
    | with_reducible assumption
    | with_reducible exact Keeps.refl _
    | with_reducible apply keeps_bump)

theorem keeps_tgCommit [Fact (P .chs)] [Fact (P .regs)] {s₀ s : State} (c : Nat) (hk : Keeps P s₀ s) : Keeps P s₀ (State.tgCommit s c) := by
  unfold State.tgCommit
  repeat' (first
    | with_reducible assumption
    | with_reducible exact Keeps.refl _
    | with_reducible apply keeps_tgReject
    | with_reducible apply keeps_bump
    | with_reducible apply keeps_setCh
    | with_reducible apply keeps_raise
    | fail_if_no_progress (with_reducible apply keeps_mk <;> first | exact .inl Fact.out | with_reducible exact .inr rfl | with_reducible rfl | skip)
    | with_reducible apply keeps_each
    | with_reducible apply keeps_foldl
    | split
    | intro _
    | (extract_lets +onlyGivenNames x; refine keeps_cut (x := x) ?_ ?_; on_goal 2 => clear_value x)
    | extract_lets +onlyGivenNames y)

theorem keeps_execTgCommit [Fact (P .chs)] [Fact (P .fab)] [Fact (P .regs)] [Fact (P .sp)] (w : Who) (c : Fin 32) (s : State) : Outs P s (execTgCommit w c s) := by
  unfold execTgCommit
  apply outs_next
  repeat' (first
    | with_reducible assumption
    | with_reducible exact Keeps.refl _
    | with_reducible apply keeps_guardWrite
    | with_reducible apply keeps_tgCommit
    | fail_if_no_progress (with_reducible apply keeps_mk <;> first | exact .inl Fact.out | with_reducible exact .inr rfl | with_reducible rfl | skip)
    | with_reducible apply keeps_each
    | with_reducible apply keeps_foldl
    | split
    | intro _)

theorem keeps_execTgTakeover [Fact (P .chs)] [Fact (P .fb)] [Fact (P .free)] [Fact (P .led)] [Fact (P .qs)] [Fact (P .regs)] [Fact (P .sys)] [Fact (P .tm)] [Fact (P .txs)] (c : Fin 32) (s : State) : Outs P s (execTgTakeover c s) := by
  unfold execTgTakeover
  apply outs_next
  repeat' (first
    | with_reducible assumption
    | with_reducible exact Keeps.refl _
    | with_reducible apply keeps_advance
    | with_reducible apply keeps_setCh
    | with_reducible apply keeps_wr
    | with_reducible apply keeps_setBit
    | with_reducible apply keeps_overruns
    | fail_if_no_progress (with_reducible apply keeps_mk <;> first | exact .inl Fact.out | with_reducible exact .inr rfl | with_reducible rfl | skip)
    | with_reducible apply keeps_each
    | with_reducible apply keeps_foldl
    | split)

theorem keeps_execGateEntryChange [Fact (P .chs)] [Fact (P .fb)] [Fact (P .free)] [Fact (P .led)] [Fact (P .qs)] [Fact (P .regs)] [Fact (P .sv)] [Fact (P .sys)] [Fact (P .tm)] [Fact (P .txs)] (c : Fin 32) (unc : Bool) (s : State) : Outs P s (execGateEntryChange c unc s) := by
  unfold execGateEntryChange
  apply outs_next
  repeat' (first
    | with_reducible assumption
    | with_reducible exact Keeps.refl _
    | with_reducible apply keeps_advance
    | with_reducible apply keeps_memFault
    | with_reducible apply keeps_overruns
    | fail_if_no_progress (with_reducible apply keeps_mk <;> first | exact .inl Fact.out | with_reducible exact .inr rfl | with_reducible rfl | skip)
    | with_reducible apply keeps_each
    | with_reducible apply keeps_foldl
    | split)

theorem keeps_scCommitI [Fact (P .fab)] [Fact (P .regs)] [Fact (P .ring)] [Fact (P .shaps)] {s₀ s : State} (i : Nat) (cmd : Option Nat) (hk : Keeps P s₀ s) : Keeps P s₀ (State.scCommitI s i cmd) := by
  unfold State.scCommitI
  repeat' (first
    | with_reducible assumption
    | with_reducible exact Keeps.refl _
    | with_reducible apply keeps_bump
    | with_reducible apply keeps_cmdDone?
    | with_reducible apply keeps_putShap
    | fail_if_no_progress (with_reducible apply keeps_mk <;> first | exact .inl Fact.out | with_reducible exact .inr rfl | with_reducible rfl | skip)
    | with_reducible apply keeps_each
    | with_reducible apply keeps_foldl
    | split
    | intro _
    | (extract_lets +onlyGivenNames x; refine keeps_cut (x := x) ?_ ?_; on_goal 2 => clear_value x)
    | extract_lets +onlyGivenNames y)

theorem keeps_scCommit [Fact (P .fab)] [Fact (P .regs)] [Fact (P .ring)] [Fact (P .shaps)] {s₀ s : State}  (hk : Keeps P s₀ s) : Keeps P s₀ (State.scCommit s) := by
  unfold State.scCommit
  repeat' (first
    | with_reducible assumption
    | with_reducible exact Keeps.refl _
    | with_reducible apply keeps_scCommitI
    | with_reducible apply keeps_bump
    | fail_if_no_progress (with_reducible apply keeps_mk <;> first | exact .inl Fact.out | with_reducible exact .inr rfl | with_reducible rfl | skip)
    | with_reducible apply keeps_each
    | with_reducible apply keeps_foldl
    | split)

theorem keeps_scRead [Fact (P .regs)] [Fact (P .shaps)] [Fact (P .tbl)] {s₀ s : State}  (hk : Keeps P s₀ s) : Keeps P s₀ (State.scRead s) := by
  unfold State.scRead
  repeat' (first
    | with_reducible assumption
    | with_reducible exact Keeps.refl _
    | with_reducible apply keeps_bump
    | with_reducible apply keeps_fill
    | with_reducible apply keeps_putShap
    | with_reducible apply keeps_wr
    | fail_if_no_progress (with_reducible apply keeps_mk <;> first | exact .inl Fact.out | with_reducible exact .inr rfl | with_reducible rfl | skip)
    | with_reducible apply keeps_each
    | with_reducible apply keeps_foldl
    | split
    | intro _
    | (extract_lets +onlyGivenNames x; refine keeps_cut (x := x) ?_ ?_; on_goal 2 => clear_value x)
    | extract_lets +onlyGivenNames y)

theorem keeps_execScCommit [Fact (P .fab)] [Fact (P .regs)] [Fact (P .ring)] [Fact (P .shaps)] [Fact (P .sp)] (w : Who) (s : State) : Outs P s (execScCommit w s) := by
  unfold execScCommit
  apply outs_next
  repeat' (first
    | with_reducible assumption
    | with_reducible exact Keeps.refl _
    | with_reducible apply keeps_guardWrite
    | with_reducible apply keeps_scCommit)

theorem keeps_execScRead [Fact (P .fab)] [Fact (P .regs)] [Fact (P .shaps)] [Fact (P .sp)] [Fact (P .tbl)] (w : Who) (s : State) : Outs P s (execScRead w s) := by
  unfold execScRead
  apply outs_next
  repeat' (first
    | with_reducible assumption
    | with_reducible exact Keeps.refl _
    | with_reducible apply keeps_guardWrite
    | with_reducible apply keeps_scRead)

theorem keeps_scShade [Fact (P .regs)] [Fact (P .shaps)] {s₀ s : State} (f : ShapSt → ShapSt) (hk : Keeps P s₀ s) : Keeps P s₀ (State.scShade s f) := by
  unfold State.scShade
  repeat' (first
    | with_reducible assumption
    | with_reducible exact Keeps.refl _
    | with_reducible apply keeps_bump
    | with_reducible apply keeps_putShap
    | fail_if_no_progress (with_reducible apply keeps_mk <;> first | exact .inl Fact.out | with_reducible exact .inr rfl | with_reducible rfl | skip)
    | with_reducible apply keeps_each
    | with_reducible apply keeps_foldl
    | split
    | intro _
    | (extract_lets +onlyGivenNames x; refine keeps_cut (x := x) ?_ ?_; on_goal 2 => clear_value x)
    | extract_lets +onlyGivenNames y)

theorem keeps_scStg [Fact (P .regs)] {s₀ s : State} (c v : Nat) (hk : Keeps P s₀ s) : Keeps P s₀ (State.scStg s c v) := by
  unfold State.scStg
  repeat' (first
    | with_reducible assumption
    | with_reducible exact Keeps.refl _
    | with_reducible apply keeps_writePlain
    | with_reducible apply keeps_bump
    | fail_if_no_progress (with_reducible apply keeps_mk <;> first | exact .inl Fact.out | with_reducible exact .inr rfl | with_reducible rfl | skip)
    | with_reducible apply keeps_each
    | with_reducible apply keeps_foldl
    | split
    | intro _
    | (extract_lets +onlyGivenNames x; refine keeps_cut (x := x) ?_ ?_; on_goal 2 => clear_value x)
    | extract_lets +onlyGivenNames y)

theorem keeps_scSampSel [Fact (P .regs)] {s₀ s : State} (v : Nat) (hk : Keeps P s₀ s) : Keeps P s₀ (State.scSampSel s v) := by
  unfold State.scSampSel
  repeat' (first
    | with_reducible assumption
    | with_reducible exact Keeps.refl _
    | with_reducible apply keeps_writePlain
    | with_reducible apply keeps_wr
    | fail_if_no_progress (with_reducible apply keeps_mk <;> first | exact .inl Fact.out | with_reducible exact .inr rfl | with_reducible rfl | skip)
    | with_reducible apply keeps_each
    | with_reducible apply keeps_foldl
    | split)

theorem keeps_scWrite [Fact (P .fab)] [Fact (P .regs)] [Fact (P .ring)] [Fact (P .shaps)] [Fact (P .tbl)] {s₀ s : State} (off v : Nat) (hk : Keeps P s₀ s) : Keeps P s₀ (State.scWrite s off v) := by
  unfold State.scWrite
  repeat' (first
    | with_reducible assumption
    | with_reducible exact Keeps.refl _
    | with_reducible apply keeps_scShade
    | with_reducible apply keeps_scCommit
    | with_reducible apply keeps_scRead
    | with_reducible apply keeps_scStg
    | with_reducible apply keeps_scSampSel
    | with_reducible apply keeps_writePlain
    | fail_if_no_progress (with_reducible apply keeps_mk <;> first | exact .inl Fact.out | with_reducible exact .inr rfl | with_reducible rfl | skip)
    | with_reducible apply keeps_each
    | with_reducible apply keeps_foldl
    | split)

theorem keeps_tgWrite [Fact (P .chs)] [Fact (P .fb)] [Fact (P .free)] [Fact (P .led)] [Fact (P .qs)] [Fact (P .regs)] [Fact (P .sys)] [Fact (P .txs)] {s₀ s : State} (off v : Nat) (hk : Keeps P s₀ s) : Keeps P s₀ (State.tgWrite s off v) := by
  unfold State.tgWrite
  repeat' (first
    | with_reducible assumption
    | with_reducible exact Keeps.refl _
    | with_reducible apply keeps_tgReject
    | with_reducible apply keeps_writePlain
    | with_reducible apply keeps_tgCommit
    | with_reducible apply keeps_overruns
    | fail_if_no_progress (with_reducible apply keeps_mk <;> first | exact .inl Fact.out | with_reducible exact .inr rfl | with_reducible rfl | skip)
    | with_reducible apply keeps_each
    | with_reducible apply keeps_foldl
    | split
    | intro _
    | (extract_lets +onlyGivenNames x; refine keeps_cut (x := x) ?_ ?_; on_goal 2 => clear_value x)
    | extract_lets +onlyGivenNames y)

theorem keeps_shapRefill [Fact (P .fab)] [Fact (P .qs)] [Fact (P .regs)] [Fact (P .ring)] [Fact (P .shaps)] {s₀ s : State} (i p e : Nat) (hk : Keeps P s₀ s) : Keeps P s₀ (State.shapRefill s i p e) := by
  unfold State.shapRefill
  repeat' (first
    | with_reducible assumption
    | with_reducible exact Keeps.refl _
    | with_reducible apply keeps_setShap
    | with_reducible apply keeps_setQ
    | with_reducible apply keeps_cmdDone?
    | fail_if_no_progress (with_reducible apply keeps_mk <;> first | exact .inl Fact.out | with_reducible exact .inr rfl | with_reducible rfl | skip)
    | with_reducible apply keeps_each
    | with_reducible apply keeps_foldl
    | split
    | intro _
    | (extract_lets +onlyGivenNames x; refine keeps_cut (x := x) ?_ ?_; on_goal 2 => clear_value x)
    | extract_lets +onlyGivenNames y)

theorem keeps_sample [Fact (P .regs)] {s₀ s : State} (n tick : Nat) (hk : Keeps P s₀ s) : Keeps P s₀ (State.sample s n tick) := by
  unfold State.sample
  repeat' (first
    | with_reducible assumption
    | with_reducible exact Keeps.refl _
    | with_reducible apply keeps_wr)

theorem keeps_execRefillInstant [Fact (P .fab)] [Fact (P .nodes)] [Fact (P .qs)] [Fact (P .regs)] [Fact (P .ring)] [Fact (P .shaps)] [Fact (P .tm)]  (s : State) : Outs P s (execRefillInstant s) := by
  unfold execRefillInstant
  apply outs_next
  repeat' (first
    | with_reducible assumption
    | with_reducible exact Keeps.refl _
    | with_reducible apply keeps_advance
    | with_reducible apply keeps_each
    | with_reducible apply keeps_shapRefill
    | with_reducible apply keeps_nodesRefresh
    | with_reducible apply keeps_sample
    | fail_if_no_progress (with_reducible apply keeps_mk <;> first | exact .inl Fact.out | with_reducible exact .inr rfl | with_reducible rfl | skip)
    | with_reducible apply keeps_each
    | with_reducible apply keeps_foldl
    | split
    | intro _)

end Sys2Proof.Laws
end

