-- ==== Sys2Proof/Laws/KeepsTxRiltor.lean ====
section
/-! SUPPORT. What the operations of TxRiltor.lean keep. -/

namespace Sys2Proof.Laws

open Sys2Proof.Machine

variable {P : Part → Prop}

theorem keeps_sendStamped [Fact (P .chs)] [Fact (P .fb)] [Fact (P .free)] [Fact (P .gfps)] [Fact (P .grps)] [Fact (P .led)] [Fact (P .qs)] [Fact (P .regs)] [Fact (P .sys)] [Fact (P .txs)] {s₀ s : State} (g : Nat) (t : Nat × Nat × Nat) (hk : Keeps P s₀ s) : Keeps P s₀ (State.sendStamped s g t) := by
  unfold State.sendStamped
  repeat' (first
    | with_reducible assumption
    | with_reducible exact Keeps.refl _
    | with_reducible apply keeps_padTo
    | with_reducible apply keeps_gfpQueue
    | with_reducible apply keeps_bump
    | with_reducible apply keeps_stage
    | with_reducible apply keeps_txLineEnd
    | with_reducible apply keeps_startCopy
    | fail_if_no_progress (with_reducible apply keeps_mk <;> first | exact .inl Fact.out | with_reducible exact .inr rfl | with_reducible rfl | skip)
    | with_reducible apply keeps_each
    | with_reducible apply keeps_foldl
    | split
    | intro _
    | (extract_lets +onlyGivenNames x; refine keeps_cut (x := x) ?_ ?_; on_goal 2 => clear_value x)
    | extract_lets +onlyGivenNames y
    | dsimp +zetaDelta only)

theorem keeps_sendDue [Fact (P .chs)] [Fact (P .fb)] [Fact (P .free)] [Fact (P .gfps)] [Fact (P .grps)] [Fact (P .led)] [Fact (P .qs)] [Fact (P .regs)] [Fact (P .sys)] [Fact (P .txs)] {s₀ s : State} (g : Nat) (hk : Keeps P s₀ s) : Keeps P s₀ (State.sendDue s g) := by
  unfold State.sendDue
  repeat' (first
    | with_reducible assumption
    | with_reducible exact Keeps.refl _
    | with_reducible apply keeps_setGrp
    | with_reducible apply keeps_each
    | with_reducible apply keeps_sendStamped
    | fail_if_no_progress (with_reducible apply keeps_mk <;> first | exact .inl Fact.out | with_reducible exact .inr rfl | with_reducible rfl | skip)
    | with_reducible apply keeps_each
    | with_reducible apply keeps_foldl
    | split
    | intro _)

theorem keeps_buildSeg [Fact (P .chs)] [Fact (P .fb)] [Fact (P .free)] [Fact (P .gfps)] [Fact (P .grps)] [Fact (P .led)] [Fact (P .qs)] [Fact (P .regs)] [Fact (P .sys)] [Fact (P .txs)] {s₀ s : State} (g : Nat) (hk : Keeps P s₀ s) : Keeps P s₀ (State.buildSeg s g) := by
  unfold State.buildSeg
  repeat' (first
    | with_reducible assumption
    | with_reducible exact Keeps.refl _
    | with_reducible apply keeps_sendDue
    | with_reducible apply keeps_setGrp)

theorem keeps_memberPayload [Fact (P .chs)] [Fact (P .fb)] [Fact (P .free)] [Fact (P .gfps)] [Fact (P .grps)] [Fact (P .led)] [Fact (P .qs)] [Fact (P .regs)] [Fact (P .sys)] [Fact (P .txs)] {s₀ s : State} (g m i : Nat) (hk : Keeps P s₀ s) : Keeps P s₀ (State.memberPayload s g m i).2 := by
  unfold State.memberPayload
  repeat' (first
    | with_reducible assumption
    | with_reducible exact Keeps.refl _
    | with_reducible apply keeps_buildSeg
    | fail_if_no_progress (with_reducible apply keeps_mk <;> first | exact .inl Fact.out | with_reducible exact .inr rfl | with_reducible rfl | skip)
    | with_reducible apply keeps_each
    | with_reducible apply keeps_foldl
    | split
    | intro _
    | (extract_lets +onlyGivenNames x; refine keeps_cut (x := x) ?_ ?_; on_goal 2 => clear_value x))

theorem keeps_memberPayload_eq [Fact (P .chs)] [Fact (P .fb)] [Fact (P .free)] [Fact (P .gfps)] [Fact (P .grps)] [Fact (P .led)] [Fact (P .qs)] [Fact (P .regs)] [Fact (P .sys)] [Fact (P .txs)] {s₀ s s₁ : State} (g m i : Nat) {x₁ : List Byte} (he : State.memberPayload s g m i = (x₁, s₁)) (hk : Keeps P s₀ s) : Keeps P s₀ s₁ := by
  have := keeps_memberPayload g m i hk
  rw [he] at this; exact this

theorem keeps_pruneSegs [Fact (P .grps)] {s₀ s : State} (g : Nat) (hk : Keeps P s₀ s) : Keeps P s₀ (State.pruneSegs s g) := by
  unfold State.pruneSegs
  repeat' (first
    | with_reducible assumption
    | with_reducible exact Keeps.refl _
    | with_reducible apply keeps_setGrp)

theorem keeps_ohSupply [Fact (P .ohs)] [Fact (P .regs)] {s₀ s : State} (j : Nat) (hk : Keeps P s₀ s) : Keeps P s₀ (State.ohSupply s j).2 := by
  unfold State.ohSupply
  repeat' (first
    | with_reducible assumption
    | with_reducible exact Keeps.refl _
    | with_reducible apply keeps_bump
    | fail_if_no_progress (with_reducible apply keeps_mk <;> first | exact .inl Fact.out | with_reducible exact .inr rfl | with_reducible rfl | skip)
    | with_reducible apply keeps_each
    | with_reducible apply keeps_foldl
    | split
    | intro _
    | (extract_lets +onlyGivenNames x; refine keeps_cut (x := x) ?_ ?_; on_goal 2 => clear_value x)
    | extract_lets +onlyGivenNames y)

theorem keeps_ohSupply_eq [Fact (P .ohs)] [Fact (P .regs)] {s₀ s s₁ : State} (j : Nat) {x₁ : Nat} (he : State.ohSupply s j = (x₁, s₁)) (hk : Keeps P s₀ s) : Keeps P s₀ s₁ := by
  have := keeps_ohSupply j hk
  rw [he] at this; exact this

theorem keeps_sendFrame [Fact (P .chs)] [Fact (P .fb)] [Fact (P .free)] [Fact (P .frs)] [Fact (P .gfps)] [Fact (P .grps)] [Fact (P .led)] [Fact (P .ohs)] [Fact (P .qs)] [Fact (P .regs)] [Fact (P .sys)] [Fact (P .txs)] {s₀ s : State} (j : Nat) (hk : Keeps P s₀ s) : Keeps P s₀ (State.sendFrame s j) := by
  have k : ∀ (g? : Option Nat) (p : List Byte × State) (x : FrSt) (b : Bool), Keeps P s₀ p.2 →
      Keeps P s₀ (match g? with
        | some g => (((p.2.ohSupply j).2.setFr j x).put (TF_FR_STAT_TX_RDI j) b).pruneSegs g
        | none => ((p.2.ohSupply j).2.setFr j x).put (TF_FR_STAT_TX_RDI j) b) := by
    intro g? p x b h
    have h := keeps_put (TF_FR_STAT_TX_RDI j) b (keeps_setFr j x (keeps_ohSupply j h))
    cases g? with
    | none => exact h
    | some g => exact keeps_pruneSegs g h
  unfold State.sendFrame
  refine k _ _ _ _ ?_
  cases s.groupOf j with
  | none => exact hk
  | some g => exact keeps_memberPayload _ _ _ (keeps_remoteCross _ _ _ hk)

theorem keeps_execTxRiltorFrame [Fact (P .chs)] [Fact (P .fb)] [Fact (P .free)] [Fact (P .frs)] [Fact (P .gfps)] [Fact (P .grps)] [Fact (P .led)] [Fact (P .ohs)] [Fact (P .qs)] [Fact (P .regs)] [Fact (P .sys)] [Fact (P .txs)] (j : Fin 32) (s : State) : Outs P s (execTxRiltorFrame j s) := by
  unfold execTxRiltorFrame
  apply outs_next
  repeat' (first
    | with_reducible assumption
    | with_reducible exact Keeps.refl _
    | with_reducible apply keeps_sendFrame
    | fail_if_no_progress (with_reducible apply keeps_mk <;> first | exact .inl Fact.out | with_reducible exact .inr rfl | with_reducible rfl | skip)
    | with_reducible apply keeps_each
    | with_reducible apply keeps_foldl
    | split)

end Sys2Proof.Laws
end

