-- ==== Sys2Proof/Laws/KeepsRings.lean ====
section
/-! SUPPORT. What the operations of Rings.lean keep. -/

namespace Sys2Proof.Laws

open Sys2Proof.Machine

set_option Elab.async false

variable {P : Part → Prop}

theorem keeps_execRxFrameRelease [Fact (P .chs)] [Fact (P .regs)] [Fact (P .rxs)] [Fact (P .sv)] [Fact (P .sys)] [Fact (P .txs)] (c : Fin 32) (unc : Bool) (s : State) : Outs P s (execRxFrameRelease c unc s) := by
  unfold execRxFrameRelease
  apply outs_next
  repeat' (first
    | with_reducible assumption
    | with_reducible exact Keeps.refl _
    | with_reducible apply keeps_stage
    | with_reducible apply keeps_setRx
    | with_reducible apply keeps_crossed
    | with_reducible apply keeps_sliceFault
    | fail_if_no_progress (with_reducible apply keeps_mk <;> first | exact .inl Fact.out | with_reducible exact .inr rfl | with_reducible rfl | skip)
    | with_reducible apply keeps_each
    | with_reducible apply keeps_foldl
    | split)

theorem keeps_rxEntry [Fact (P .chs)] [Fact (P .fb)] [Fact (P .free)] [Fact (P .led)] [Fact (P .meters)] [Fact (P .regs)] [Fact (P .ring)] [Fact (P .rxs)] [Fact (P .sys)] [Fact (P .txs)] {s₀ s : State} (id : Nat) (f : RxFr) (hk : Keeps P s₀ s) : Keeps P s₀ (State.rxEntry s id f) := by
  unfold State.rxEntry
  repeat' (first
    | with_reducible assumption
    | with_reducible exact Keeps.refl _
    | with_reducible apply keeps_pcEvent
    | with_reducible apply keeps_setRx
    | with_reducible apply keeps_ledAccept
    | with_reducible apply keeps_rxDrop
    | with_reducible apply keeps_stage
    | with_reducible apply keeps_meterFrame
    | with_reducible refine keeps_meterFrame_eq _ _ _ (by assumption) ?_
    | with_reducible apply keeps_fbAdmit
    | with_reducible refine keeps_fbAdmit_eq _ _ (by assumption) ?_
    | fail_if_no_progress (with_reducible apply keeps_mk <;> first | exact .inl Fact.out | with_reducible exact .inr rfl | with_reducible rfl | skip)
    | with_reducible apply keeps_each
    | with_reducible apply keeps_foldl
    | split
    | intro _
    | (extract_lets +onlyGivenNames x; refine keeps_cut (x := x) ?_ ?_; on_goal 2 => clear_value x)
    | extract_lets +onlyGivenNames y)

theorem keeps_execRxFrameEntry [Fact (P .cc)] [Fact (P .chs)] [Fact (P .fb)] [Fact (P .free)] [Fact (P .led)] [Fact (P .meters)] [Fact (P .regs)] [Fact (P .ring)] [Fact (P .rxs)] [Fact (P .sys)] [Fact (P .txs)] (c : Fin 32) (s : State) : Outs P s (execRxFrameEntry c s) := by
  unfold execRxFrameEntry
  apply outs_next
  repeat' (first
    | with_reducible assumption
    | with_reducible exact Keeps.refl _
    | with_reducible apply keeps_want
    | with_reducible apply keeps_stage
    | with_reducible apply keeps_rxEntry
    | fail_if_no_progress (with_reducible apply keeps_mk <;> first | exact .inl Fact.out | with_reducible exact .inr rfl | with_reducible rfl | skip)
    | with_reducible apply keeps_each
    | with_reducible apply keeps_foldl
    | split
    | intro _
    | (extract_lets +onlyGivenNames x; refine keeps_cut (x := x) ?_ ?_; on_goal 2 => clear_value x)
    | extract_lets +onlyGivenNames y)

theorem keeps_dbRefuse [Fact (P .regs)] [Fact (P .sp)] {s₀ s : State} (x reason qk : Nat) (evq : Bool) (hk : Keeps P s₀ s) : Keeps P s₀ (State.dbRefuse s x reason qk evq) := by
  unfold State.dbRefuse
  repeat' (first
    | with_reducible assumption
    | with_reducible exact Keeps.refl _
    | with_reducible apply keeps_bump
    | with_reducible apply keeps_raise
    | with_reducible apply keeps_wr
    | with_reducible apply keeps_put
    | with_reducible apply keeps_declined
    | fail_if_no_progress (with_reducible apply keeps_mk <;> first | exact .inl Fact.out | with_reducible exact .inr rfl | with_reducible rfl | skip)
    | with_reducible apply keeps_each
    | with_reducible apply keeps_foldl
    | split)

theorem keeps_dbRefuseOther [Fact (P .free)] [Fact (P .regs)] [Fact (P .sp)] {s₀ s : State} (x reason : Nat) (evq : Bool) (hk : Keeps P s₀ s) : Keeps P s₀ (State.dbRefuseOther s x reason evq) := by
  unfold State.dbRefuseOther
  repeat' (first
    | with_reducible assumption
    | with_reducible exact Keeps.refl _
    | with_reducible apply keeps_dbRefuse
    | with_reducible apply keeps_draw
    | with_reducible refine keeps_draw_eq (by assumption) ?_
    | fail_if_no_progress (with_reducible apply keeps_mk <;> first | exact .inl Fact.out | with_reducible exact .inr rfl | with_reducible rfl | skip)
    | with_reducible apply keeps_each
    | with_reducible apply keeps_foldl
    | split)

theorem keeps_doorbell [Fact (P .qs)] [Fact (P .regs)] [Fact (P .sp)] {s₀ s0 : State} (w : Who) (x v : Nat) (hk : Keeps P s₀ s0) : Keeps P s₀ (State.doorbell s0 w x v) := by
  unfold State.doorbell
  repeat' (first
    | with_reducible assumption
    | with_reducible exact Keeps.refl _
    | with_reducible apply keeps_pcEvent
    | with_reducible apply keeps_dbRefuse
    | with_reducible apply keeps_dbCount
    | with_reducible apply keeps_okay
    | with_reducible apply keeps_setQ
    | fail_if_no_progress (with_reducible apply keeps_mk <;> first | exact .inl Fact.out | with_reducible exact .inr rfl | with_reducible rfl | skip)
    | with_reducible apply keeps_each
    | with_reducible apply keeps_foldl
    | split
    | intro _
    | (extract_lets +onlyGivenNames x; refine keeps_cut (x := x) ?_ ?_; on_goal 2 => clear_value x)
    | extract_lets +onlyGivenNames y)

theorem keeps_evConsume [Fact (P .ctxs)] [Fact (P .free)] [Fact (P .regs)] [Fact (P .sp)] {s₀ s : State} (w : Who) (x v : Nat) (hk : Keeps P s₀ s) : Keeps P s₀ (State.evConsume s w x v) := by
  unfold State.evConsume
  repeat' (first
    | with_reducible assumption
    | with_reducible exact Keeps.refl _
    | with_reducible apply keeps_dbRefuseOther
    | with_reducible apply keeps_dbCount
    | with_reducible apply keeps_setCtx
    | with_reducible apply keeps_okay
    | fail_if_no_progress (with_reducible apply keeps_mk <;> first | exact .inl Fact.out | with_reducible exact .inr rfl | with_reducible rfl | skip)
    | with_reducible apply keeps_each
    | with_reducible apply keeps_foldl
    | split
    | intro _
    | (extract_lets +onlyGivenNames x; refine keeps_cut (x := x) ?_ ?_; on_goal 2 => clear_value x)
    | extract_lets +onlyGivenNames y)

theorem keeps_execDoorbellWrite [Fact (P .qs)] [Fact (P .regs)] [Fact (P .sp)] (w : Who) (x : Fin 4096) (wide : Bool) (v : BitVec 64) (s : State) : Outs P s (execDoorbellWrite w x wide v s) := by
  unfold execDoorbellWrite
  apply outs_next
  repeat' (first
    | with_reducible assumption
    | with_reducible exact Keeps.refl _
    | with_reducible apply keeps_doorbell
    | with_reducible apply keeps_declined
    | fail_if_no_progress (with_reducible apply keeps_mk <;> first | exact .inl Fact.out | with_reducible exact .inr rfl | with_reducible rfl | skip)
    | with_reducible apply keeps_each
    | with_reducible apply keeps_foldl
    | split)

theorem keeps_execEventConsumerWrite [Fact (P .ctxs)] [Fact (P .free)] [Fact (P .regs)] [Fact (P .sp)] (w : Who) (x : Fin 4096) (wide : Bool) (v : BitVec 64) (s : State) : Outs P s (execEventConsumerWrite w x wide v s) := by
  unfold execEventConsumerWrite
  apply outs_next
  repeat' (first
    | with_reducible assumption
    | with_reducible exact Keeps.refl _
    | with_reducible apply keeps_evConsume
    | with_reducible apply keeps_declined
    | fail_if_no_progress (with_reducible apply keeps_mk <;> first | exact .inl Fact.out | with_reducible exact .inr rfl | with_reducible rfl | skip)
    | with_reducible apply keeps_each
    | with_reducible apply keeps_foldl
    | split)

theorem keeps_execDescriptorReadIssue [Fact (P .fab)] [Fact (P .qs)] [Fact (P .ring)]  (s : State) : Outs P s (execDescriptorReadIssue s) := by
  unfold execDescriptorReadIssue
  apply outs_next
  repeat' (first
    | with_reducible assumption
    | with_reducible exact Keeps.refl _
    | with_reducible apply keeps_setQ
    | with_reducible apply keeps_hostRead
    | fail_if_no_progress (with_reducible apply keeps_mk <;> first | exact .inl Fact.out | with_reducible exact .inr rfl | with_reducible rfl | skip)
    | with_reducible apply keeps_each
    | with_reducible apply keeps_foldl
    | split)

theorem keeps_forgetReads [Fact (P .fab)] [Fact (P .qs)] {s₀ s : State} (k : Nat) (hk : Keeps P s₀ s) : Keeps P s₀ (State.forgetReads s k) := by
  unfold State.forgetReads
  repeat' (first
    | with_reducible assumption
    | with_reducible exact Keeps.refl _
    | with_reducible apply keeps_setQ
    | fail_if_no_progress (with_reducible apply keeps_mk <;> first | exact .inl Fact.out | with_reducible exact .inr rfl | with_reducible rfl | skip))

theorem keeps_txAccept [Fact (P .chs)] [Fact (P .free)] [Fact (P .led)] [Fact (P .nextFr)] [Fact (P .qs)] [Fact (P .regs)] [Fact (P .ring)] [Fact (P .sys)] [Fact (P .txs)] {s₀ s : State} (k idx : Nat) (d : List Byte) (hk : Keeps P s₀ s) : Keeps P s₀ (State.txAccept s k idx d) := by
  unfold State.txAccept
  repeat' (first
    | with_reducible assumption
    | with_reducible exact Keeps.refl _
    | with_reducible apply keeps_stage
    | with_reducible apply keeps_setTx
    | with_reducible apply keeps_setQ
    | with_reducible apply keeps_ledAccept
    | fail_if_no_progress (with_reducible apply keeps_mk <;> first | exact .inl Fact.out | with_reducible exact .inr rfl | with_reducible rfl | skip))

theorem keeps_withdrawReads [Fact (P .fab)] [Fact (P .qs)] [Fact (P .txs)] {s₀ s : State} (k : Nat) (hk : Keeps P s₀ s) : Keeps P s₀ (State.withdrawReads s k) := by
  unfold State.withdrawReads
  repeat' (first
    | with_reducible assumption
    | with_reducible exact Keeps.refl _
    | with_reducible apply keeps_setQ
    | with_reducible apply keeps_txSettle
    | fail_if_no_progress (with_reducible apply keeps_mk <;> first | exact .inl Fact.out | with_reducible exact .inr rfl | with_reducible rfl | skip)
    | with_reducible apply keeps_each
    | with_reducible apply keeps_foldl
    | split
    | intro _
    | (extract_lets +onlyGivenNames x; refine keeps_cut (x := x) ?_ ?_; on_goal 2 => clear_value x)
    | extract_lets +onlyGivenNames y)

theorem keeps_squashReads [Fact (P .fab)] [Fact (P .qs)] [Fact (P .txs)] {s₀ s : State} (k : Nat) (hk : Keeps P s₀ s) : Keeps P s₀ (State.squashReads s k) := by
  unfold State.squashReads
  repeat' (first
    | with_reducible assumption
    | with_reducible exact Keeps.refl _
    | with_reducible apply keeps_withdrawReads
    | with_reducible apply keeps_forgetReads
    | with_reducible apply keeps_setQ)

theorem keeps_countSquash [Fact (P .ctxs)] {s₀ s : State} (x : Nat) (hk : Keeps P s₀ s) : Keeps P s₀ (State.countSquash s x) := by
  unfold State.countSquash
  repeat' (first
    | with_reducible assumption
    | with_reducible exact Keeps.refl _
    | with_reducible apply keeps_setCtx
    | fail_if_no_progress (with_reducible apply keeps_mk <;> first | exact .inl Fact.out | with_reducible exact .inr rfl | with_reducible rfl | skip)
    | with_reducible apply keeps_each
    | with_reducible apply keeps_foldl
    | split)

theorem keeps_txCheck [Fact (P .chs)] [Fact (P .fb)] [Fact (P .free)] [Fact (P .led)] [Fact (P .qs)] [Fact (P .regs)] [Fact (P .sys)] [Fact (P .txs)] {s₀ s : State} (id : Nat) (hk : Keeps P s₀ s) : Keeps P s₀ (State.txCheck s id) := by
  unfold State.txCheck
  repeat' (first
    | with_reducible assumption
    | with_reducible exact Keeps.refl _
    | with_reducible apply keeps_txDrop
    | fail_if_no_progress (with_reducible apply keeps_mk <;> first | exact .inl Fact.out | with_reducible exact .inr rfl | with_reducible rfl | skip)
    | with_reducible apply keeps_each
    | with_reducible apply keeps_foldl
    | split
    | intro _
    | (extract_lets +onlyGivenNames x; refine keeps_cut (x := x) ?_ ?_; on_goal 2 => clear_value x)
    | extract_lets +onlyGivenNames y)

theorem keeps_txArrive [Fact (P .chs)] [Fact (P .fb)] [Fact (P .free)] [Fact (P .led)] [Fact (P .nextFr)] [Fact (P .qs)] [Fact (P .regs)] [Fact (P .ring)] [Fact (P .sys)] [Fact (P .txs)] {s₀ s : State} (k start : Nat) (l : List (List Byte)) (hk : Keeps P s₀ s) : Keeps P s₀ (State.txArrive s k start l) := by
  unfold State.txArrive
  repeat' (first
    | with_reducible assumption
    | with_reducible exact Keeps.refl _
    | with_reducible apply keeps_setQ
    | with_reducible apply keeps_each
    | with_reducible apply keeps_txAccept
    | with_reducible apply keeps_txCheck
    | fail_if_no_progress (with_reducible apply keeps_mk <;> first | exact .inl Fact.out | with_reducible exact .inr rfl | with_reducible rfl | skip)
    | with_reducible apply keeps_each
    | with_reducible apply keeps_foldl
    | split
    | intro _)

theorem keeps_rxArrive [Fact (P .ctxs)] [Fact (P .fab)] [Fact (P .qs)] [Fact (P .regs)] {s₀ s : State} (k start addr : Nat) (l : List (List Byte)) (hk : Keeps P s₀ s) : Keeps P s₀ (State.rxArrive s k start addr l) := by
  unfold State.rxArrive
  repeat' (first
    | with_reducible assumption
    | with_reducible exact Keeps.refl _
    | with_reducible apply keeps_setQ
    | with_reducible apply keeps_qFault
    | fail_if_no_progress (with_reducible apply keeps_mk <;> first | exact .inl Fact.out | with_reducible exact .inr rfl | with_reducible rfl | skip)
    | with_reducible apply keeps_each
    | with_reducible apply keeps_foldl
    | split
    | intro _
    | (extract_lets +onlyGivenNames x; refine keeps_cut (x := x) ?_ ?_; on_goal 2 => clear_value x)
    | extract_lets +onlyGivenNames y)

theorem keeps_descAnswer [Fact (P .chs)] [Fact (P .ctxs)] [Fact (P .fab)] [Fact (P .fb)] [Fact (P .free)] [Fact (P .led)] [Fact (P .nextFr)] [Fact (P .qs)] [Fact (P .regs)] [Fact (P .ring)] [Fact (P .sp)] [Fact (P .sys)] [Fact (P .txs)] {s₀ s : State} (d : Deliv) (hk : Keeps P s₀ s) : Keeps P s₀ (State.descAnswer s d) := by
  unfold State.descAnswer
  repeat' (first
    | with_reducible assumption
    | with_reducible exact Keeps.refl _
    | with_reducible apply keeps_setQ
    | with_reducible apply keeps_okay
    | with_reducible apply keeps_qFault
    | with_reducible apply keeps_txArrive
    | with_reducible apply keeps_rxArrive
    | with_reducible apply keeps_txSettle
    | fail_if_no_progress (with_reducible apply keeps_mk <;> first | exact .inl Fact.out | with_reducible exact .inr rfl | with_reducible rfl | skip)
    | with_reducible apply keeps_each
    | with_reducible apply keeps_foldl
    | split
    | intro _
    | (extract_lets +onlyGivenNames x; refine keeps_cut (x := x) ?_ ?_; on_goal 2 => clear_value x)
    | extract_lets +onlyGivenNames y)

theorem keeps_execDescriptorReadResponse [Fact (P .chs)] [Fact (P .ctxs)] [Fact (P .fab)] [Fact (P .fb)] [Fact (P .free)] [Fact (P .led)] [Fact (P .nextFr)] [Fact (P .qs)] [Fact (P .regs)] [Fact (P .ring)] [Fact (P .sp)] [Fact (P .sys)] [Fact (P .txs)]  (s : State) : Outs P s (execDescriptorReadResponse s) := by
  unfold execDescriptorReadResponse
  apply outs_next
  repeat' (first
    | with_reducible assumption
    | with_reducible exact Keeps.refl _
    | with_reducible apply keeps_descAnswer
    | fail_if_no_progress (with_reducible apply keeps_mk <;> first | exact .inl Fact.out | with_reducible exact .inr rfl | with_reducible rfl | skip)
    | with_reducible apply keeps_each
    | with_reducible apply keeps_foldl
    | split)

theorem keeps_execDataFetchIssue [Fact (P .chs)] [Fact (P .fab)] [Fact (P .fb)] [Fact (P .regs)] [Fact (P .sys)] [Fact (P .txs)]  (s : State) : Outs P s (execDataFetchIssue s) := by
  unfold execDataFetchIssue
  apply outs_next
  repeat' (first
    | with_reducible assumption
    | with_reducible exact Keeps.refl _
    | with_reducible apply keeps_stage
    | with_reducible apply keeps_fbTakeTx
    | with_reducible apply keeps_setTx
    | with_reducible apply keeps_each
    | with_reducible apply keeps_hostRead
    | fail_if_no_progress (with_reducible apply keeps_mk <;> first | exact .inl Fact.out | with_reducible exact .inr rfl | with_reducible rfl | skip)
    | with_reducible apply keeps_each
    | with_reducible apply keeps_foldl
    | split
    | intro _)

theorem keeps_dataAnswer [Fact (P .chs)] [Fact (P .fb)] [Fact (P .free)] [Fact (P .led)] [Fact (P .nodes)] [Fact (P .qs)] [Fact (P .regs)] [Fact (P .sp)] [Fact (P .sys)] [Fact (P .txs)] {s₀ s : State} (id : Nat) (f : TxFr) (d : Deliv) (hk : Keeps P s₀ s) : Keeps P s₀ (State.dataAnswer s id f d) := by
  unfold State.dataAnswer
  repeat' (first
    | with_reducible assumption
    | with_reducible exact Keeps.refl _
    | with_reducible apply keeps_okay
    | with_reducible apply keeps_setTx
    | with_reducible apply keeps_txDrop
    | with_reducible apply keeps_nodesRefresh
    | with_reducible apply keeps_stage
    | with_reducible apply keeps_nodeWake
    | fail_if_no_progress (with_reducible apply keeps_mk <;> first | exact .inl Fact.out | with_reducible exact .inr rfl | with_reducible rfl | skip)
    | with_reducible apply keeps_each
    | with_reducible apply keeps_foldl
    | split
    | intro _
    | (extract_lets +onlyGivenNames x; refine keeps_cut (x := x) ?_ ?_; on_goal 2 => clear_value x)
    | extract_lets +onlyGivenNames y)

theorem keeps_execDataFetchResponse [Fact (P .chs)] [Fact (P .fab)] [Fact (P .fb)] [Fact (P .free)] [Fact (P .led)] [Fact (P .nodes)] [Fact (P .qs)] [Fact (P .regs)] [Fact (P .sp)] [Fact (P .sys)] [Fact (P .txs)]  (s : State) : Outs P s (execDataFetchResponse s) := by
  unfold execDataFetchResponse
  apply outs_next
  repeat' (first
    | with_reducible assumption
    | with_reducible exact Keeps.refl _
    | with_reducible apply keeps_stage
    | with_reducible apply keeps_dataAnswer
    | with_reducible refine keeps_response (by assumption) ?_
    | fail_if_no_progress (with_reducible apply keeps_mk <;> first | exact .inl Fact.out | with_reducible exact .inr rfl | with_reducible rfl | skip)
    | with_reducible apply keeps_each
    | with_reducible apply keeps_foldl
    | split)

theorem keeps_noRxDesc [Fact (P .ctxs)] [Fact (P .fab)] [Fact (P .free)] [Fact (P .qs)] [Fact (P .regs)] {s₀ s : State} (k : Nat) (hk : Keeps P s₀ s) : Keeps P s₀ (State.noRxDesc s k) := by
  unfold State.noRxDesc
  repeat' (first
    | with_reducible assumption
    | with_reducible exact Keeps.refl _
    | with_reducible apply keeps_setQ
    | with_reducible apply keeps_event
    | with_reducible apply keeps_draw
    | with_reducible refine keeps_draw_eq (by assumption) ?_
    | fail_if_no_progress (with_reducible apply keeps_mk <;> first | exact .inl Fact.out | with_reducible exact .inr rfl | with_reducible rfl | skip)
    | with_reducible apply keeps_each
    | with_reducible apply keeps_foldl
    | split
    | intro _
    | (extract_lets +onlyGivenNames x; refine keeps_cut (x := x) ?_ ?_; on_goal 2 => clear_value x)
    | extract_lets +onlyGivenNames y)

theorem keeps_rxDataDone [Fact (P .chs)] [Fact (P .fb)] [Fact (P .regs)] [Fact (P .rxs)] [Fact (P .sys)] [Fact (P .txs)] {s₀ s : State} (id : Nat) (hk : Keeps P s₀ s) : Keeps P s₀ (State.rxDataDone s id) := by
  unfold State.rxDataDone
  repeat' (first
    | with_reducible assumption
    | with_reducible exact Keeps.refl _
    | with_reducible apply keeps_fbFreeRx
    | with_reducible apply keeps_setRx
    | with_reducible apply keeps_stage
    | fail_if_no_progress (with_reducible apply keeps_mk <;> first | exact .inl Fact.out | with_reducible exact .inr rfl | with_reducible rfl | skip)
    | with_reducible apply keeps_each
    | with_reducible apply keeps_foldl
    | split)

theorem keeps_rxTake [Fact (P .chs)] [Fact (P .fab)] [Fact (P .fb)] [Fact (P .qs)] [Fact (P .regs)] [Fact (P .rxs)] [Fact (P .sys)] [Fact (P .txs)] {s₀ s : State} (id : Nat) (f : RxFr) (k n : Nat) (unc : Option (Fin 3072)) (hk : Keeps P s₀ s) : Keeps P s₀ (State.rxTake s id f k n unc) := by
  unfold State.rxTake
  repeat' (first
    | with_reducible assumption
    | with_reducible exact Keeps.refl _
    | with_reducible apply keeps_cellsUnc
    | with_reducible apply keeps_setQ
    | with_reducible apply keeps_setRx
    | with_reducible apply keeps_stage
    | with_reducible apply keeps_each
    | with_reducible apply keeps_hostWrite
    | with_reducible apply keeps_rxDataDone
    | fail_if_no_progress (with_reducible apply keeps_mk <;> first | exact .inl Fact.out | with_reducible exact .inr rfl | with_reducible rfl | skip)
    | with_reducible apply keeps_each
    | with_reducible apply keeps_foldl
    | split
    | intro _
    | (extract_lets +onlyGivenNames x; refine keeps_cut (x := x) ?_ ?_; on_goal 2 => clear_value x)
    | extract_lets +onlyGivenNames y)

theorem keeps_execRxDescriptorTake [Fact (P .chs)] [Fact (P .ctxs)] [Fact (P .fab)] [Fact (P .fb)] [Fact (P .free)] [Fact (P .led)] [Fact (P .qs)] [Fact (P .regs)] [Fact (P .rxs)] [Fact (P .sys)] [Fact (P .txs)] (unc : Option (Fin 3072)) (s : State) : Outs P s (execRxDescriptorTake unc s) := by
  unfold execRxDescriptorTake
  apply outs_next
  repeat' (first
    | with_reducible assumption
    | with_reducible exact Keeps.refl _
    | with_reducible apply keeps_stage
    | with_reducible apply keeps_setRx
    | with_reducible apply keeps_rxTake
    | with_reducible apply keeps_noRxDesc
    | with_reducible apply keeps_rxDrop
    | fail_if_no_progress (with_reducible apply keeps_mk <;> first | exact .inl Fact.out | with_reducible exact .inr rfl | with_reducible rfl | skip)
    | with_reducible apply keeps_each
    | with_reducible apply keeps_foldl
    | split)

theorem keeps_execRxDataWriteResponse [Fact (P .chs)] [Fact (P .ctxs)] [Fact (P .fab)] [Fact (P .fb)] [Fact (P .regs)] [Fact (P .rxs)] [Fact (P .sp)] [Fact (P .sys)] [Fact (P .txs)]  (s : State) : Outs P s (execRxDataWriteResponse s) := by
  unfold execRxDataWriteResponse
  apply outs_next
  repeat' (first
    | with_reducible assumption
    | with_reducible exact Keeps.refl _
    | with_reducible apply keeps_dirtyMark
    | with_reducible apply keeps_setRx
    | with_reducible apply keeps_okay
    | with_reducible apply keeps_rxDataDone
    | with_reducible refine keeps_response (by assumption) ?_
    | fail_if_no_progress (with_reducible apply keeps_mk <;> first | exact .inl Fact.out | with_reducible exact .inr rfl | with_reducible rfl | skip)
    | with_reducible apply keeps_each
    | with_reducible apply keeps_foldl
    | split)

theorem keeps_execRxCompletionWrite [Fact (P .chs)] [Fact (P .fab)] [Fact (P .fb)] [Fact (P .free)] [Fact (P .led)] [Fact (P .meters)] [Fact (P .qs)] [Fact (P .regs)] [Fact (P .ring)] [Fact (P .rxs)] [Fact (P .sys)] [Fact (P .txs)] (n : Fin 32768) (s : State) : Outs P s (execRxCompletionWrite n s) := by
  unfold execRxCompletionWrite
  apply outs_next
  repeat' (first
    | with_reducible assumption
    | with_reducible exact Keeps.refl _
    | with_reducible apply keeps_stage
    | with_reducible apply keeps_setQ
    | with_reducible apply keeps_setRx
    | with_reducible apply keeps_hostWrite
    | with_reducible apply keeps_rxEntry
    | fail_if_no_progress (with_reducible apply keeps_mk <;> first | exact .inl Fact.out | with_reducible exact .inr rfl | with_reducible rfl | skip)
    | with_reducible apply keeps_each
    | with_reducible apply keeps_foldl
    | split
    | intro _
    | (extract_lets +onlyGivenNames x; refine keeps_cut (x := x) ?_ ?_; on_goal 2 => clear_value x)
    | extract_lets +onlyGivenNames y)

theorem keeps_execTxCompletionWrite [Fact (P .chs)] [Fact (P .fab)] [Fact (P .qs)] [Fact (P .regs)] [Fact (P .sys)] [Fact (P .txs)] (n : Fin 32768) (s : State) : Outs P s (execTxCompletionWrite n s) := by
  unfold execTxCompletionWrite
  apply outs_next
  repeat' (first
    | with_reducible assumption
    | with_reducible exact Keeps.refl _
    | with_reducible apply keeps_stage
    | with_reducible apply keeps_setQ
    | with_reducible apply keeps_delTx
    | with_reducible apply keeps_txSettle
    | with_reducible apply keeps_hostWrite
    | fail_if_no_progress (with_reducible apply keeps_mk <;> first | exact .inl Fact.out | with_reducible exact .inr rfl | with_reducible rfl | skip)
    | with_reducible apply keeps_each
    | with_reducible apply keeps_foldl
    | split
    | intro _
    | (extract_lets +onlyGivenNames x; refine keeps_cut (x := x) ?_ ?_; on_goal 2 => clear_value x)
    | extract_lets +onlyGivenNames y)

theorem keeps_cmplAnnounce [Fact (P .ctxs)] [Fact (P .fab)] {s₀ s : State} (k : Nat) (hk : Keeps P s₀ s) : Keeps P s₀ (State.cmplAnnounce s k) := by
  unfold State.cmplAnnounce
  repeat' (first
    | with_reducible assumption
    | with_reducible exact Keeps.refl _
    | with_reducible apply keeps_announce
    | fail_if_no_progress (with_reducible apply keeps_mk <;> first | exact .inl Fact.out | with_reducible exact .inr rfl | with_reducible rfl | skip)
    | with_reducible apply keeps_each
    | with_reducible apply keeps_foldl
    | split
    | intro _
    | (extract_lets +onlyGivenNames x; refine keeps_cut (x := x) ?_ ?_; on_goal 2 => clear_value x)
    | extract_lets +onlyGivenNames y)

theorem keeps_rxCmplAnswer [Fact (P .ctxs)] [Fact (P .fab)] [Fact (P .free)] [Fact (P .led)] [Fact (P .qs)] [Fact (P .regs)] [Fact (P .rxs)] [Fact (P .sp)] {s₀ s : State} (d : Deliv) (hk : Keeps P s₀ s) : Keeps P s₀ (State.rxCmplAnswer s d) := by
  unfold State.rxCmplAnswer
  repeat' (first
    | with_reducible assumption
    | with_reducible exact Keeps.refl _
    | with_reducible apply keeps_okay
    | with_reducible apply keeps_dirtyMark
    | with_reducible apply keeps_setQ
    | with_reducible apply keeps_ledDrop
    | with_reducible apply keeps_ledDeliver
    | with_reducible apply keeps_delRx
    | with_reducible apply keeps_cmplAnnounce
    | with_reducible apply keeps_qFault
    | fail_if_no_progress (with_reducible apply keeps_mk <;> first | exact .inl Fact.out | with_reducible exact .inr rfl | with_reducible rfl | skip)
    | with_reducible apply keeps_each
    | with_reducible apply keeps_foldl
    | split
    | intro _
    | (extract_lets +onlyGivenNames x; refine keeps_cut (x := x) ?_ ?_; on_goal 2 => clear_value x)
    | extract_lets +onlyGivenNames y)

theorem keeps_txCmplAnswer [Fact (P .ctxs)] [Fact (P .fab)] [Fact (P .qs)] [Fact (P .regs)] [Fact (P .sp)] [Fact (P .txs)] {s₀ s : State} (d : Deliv) (hk : Keeps P s₀ s) : Keeps P s₀ (State.txCmplAnswer s d) := by
  unfold State.txCmplAnswer
  repeat' (first
    | with_reducible assumption
    | with_reducible exact Keeps.refl _
    | with_reducible apply keeps_dirtyMark
    | with_reducible apply keeps_setQ
    | with_reducible apply keeps_okay
    | with_reducible apply keeps_cmplAnnounce
    | with_reducible apply keeps_qFault
    | with_reducible apply keeps_txSettle
    | fail_if_no_progress (with_reducible apply keeps_mk <;> first | exact .inl Fact.out | with_reducible exact .inr rfl | with_reducible rfl | skip)
    | with_reducible apply keeps_each
    | with_reducible apply keeps_foldl
    | split)

theorem keeps_eventAnswer [Fact (P .ctxs)] [Fact (P .fab)] [Fact (P .regs)] [Fact (P .sp)] {s₀ s : State} (d : Deliv) (hk : Keeps P s₀ s) : Keeps P s₀ (State.eventAnswer s d) := by
  unfold State.eventAnswer
  repeat' (first
    | with_reducible assumption
    | with_reducible exact Keeps.refl _
    | with_reducible apply keeps_dirtyMark
    | with_reducible apply keeps_okay
    | with_reducible apply keeps_evLost
    | with_reducible apply keeps_announce
    | fail_if_no_progress (with_reducible apply keeps_mk <;> first | exact .inl Fact.out | with_reducible exact .inr rfl | with_reducible rfl | skip)
    | with_reducible apply keeps_each
    | with_reducible apply keeps_foldl
    | split
    | intro _
    | (extract_lets +onlyGivenNames x; refine keeps_cut (x := x) ?_ ?_; on_goal 2 => clear_value x))

theorem keeps_execCompletionWriteResponse [Fact (P .ctxs)] [Fact (P .fab)] [Fact (P .free)] [Fact (P .led)] [Fact (P .qs)] [Fact (P .regs)] [Fact (P .rxs)] [Fact (P .sp)] [Fact (P .txs)]  (s : State) : Outs P s (execCompletionWriteResponse s) := by
  unfold execCompletionWriteResponse
  apply outs_next
  repeat' (first
    | with_reducible assumption
    | with_reducible exact Keeps.refl _
    | with_reducible apply keeps_event
    | with_reducible apply keeps_rxCmplAnswer
    | with_reducible apply keeps_txCmplAnswer
    | with_reducible apply keeps_eventAnswer
    | fail_if_no_progress (with_reducible apply keeps_mk <;> first | exact .inl Fact.out | with_reducible exact .inr rfl | with_reducible rfl | skip)
    | with_reducible apply keeps_each
    | with_reducible apply keeps_foldl
    | split)

theorem keeps_execQueueStopped [Fact (P .ctxs)] [Fact (P .fab)] [Fact (P .free)] [Fact (P .qs)] [Fact (P .regs)] [Fact (P .ring)] (n : Fin 32768) (rx : Bool) (s : State) : Outs P s (execQueueStopped n rx s) := by
  unfold execQueueStopped
  apply outs_next
  repeat' (first
    | with_reducible assumption
    | with_reducible exact Keeps.refl _
    | with_reducible apply keeps_forgetReads
    | with_reducible apply keeps_setQ
    | with_reducible apply keeps_event
    | with_reducible apply keeps_cmdDone?
    | with_reducible apply keeps_draw
    | with_reducible refine keeps_draw_eq (by assumption) ?_
    | fail_if_no_progress (with_reducible apply keeps_mk <;> first | exact .inl Fact.out | with_reducible exact .inr rfl | with_reducible rfl | skip)
    | with_reducible apply keeps_each
    | with_reducible apply keeps_foldl
    | split
    | intro _
    | (extract_lets +onlyGivenNames x; refine keeps_cut (x := x) ?_ ?_; on_goal 2 => clear_value x)
    | extract_lets +onlyGivenNames y)

theorem keeps_execNotifyModTimer [Fact (P .ctxs)] [Fact (P .fab)] [Fact (P .regs)] [Fact (P .tm)] (x : Fin 4096) (v : Fin 64) (s : State) : Outs P s (execNotifyModTimer x v s) := by
  unfold execNotifyModTimer
  apply outs_next
  repeat' (first
    | with_reducible assumption
    | with_reducible exact Keeps.refl _
    | with_reducible apply keeps_vecSettle
    | with_reducible apply keeps_vecCheck
    | with_reducible apply keeps_advanceTo
    | fail_if_no_progress (with_reducible apply keeps_mk <;> first | exact .inl Fact.out | with_reducible exact .inr rfl | with_reducible rfl | skip)
    | with_reducible apply keeps_each
    | with_reducible apply keeps_foldl
    | split
    | intro _
    | (extract_lets +onlyGivenNames x; refine keeps_cut (x := x) ?_ ?_; on_goal 2 => clear_value x)
    | extract_lets +onlyGivenNames y)

theorem keeps_execNotifyMessageResponse [Fact (P .fab)] [Fact (P .regs)] [Fact (P .sp)]  (s : State) : Outs P s (execNotifyMessageResponse s) := by
  unfold execNotifyMessageResponse
  apply outs_next
  repeat' (first
    | with_reducible assumption
    | with_reducible exact Keeps.refl _
    | with_reducible apply keeps_okay
    | with_reducible apply keeps_bump
    | with_reducible apply keeps_raise
    | with_reducible refine keeps_response (by assumption) ?_
    | fail_if_no_progress (with_reducible apply keeps_mk <;> first | exact .inl Fact.out | with_reducible exact .inr rfl | with_reducible rfl | skip)
    | with_reducible apply keeps_each
    | with_reducible apply keeps_foldl
    | split)

end Sys2Proof.Laws
end

