-- ==== Sys2Proof/Laws/KeepsContexts.lean ====
section
/-! SUPPORT. What the operations of Contexts.lean keep. -/

namespace Sys2Proof.Laws

open Sys2Proof.Machine

set_option Elab.async false

variable {P : Part → Prop}

theorem keeps_cmdStart [Fact (P .fab)] [Fact (P .regs)] [Fact (P .ring)] {s₀ s t : State} {op id : Nat} {c : CmdSt} (e : s.cmdStart op = some (id, c, t)) (h : Keeps P s₀ s) :
    Keeps P s₀ t := by
  unfold State.cmdStart at e
  split at e
  · split at e
    · cases e; exact keeps_cmdTake (keeps_refreshActive ((by apply keeps_mk <;> first | with_reducible exact .inr rfl | exact .inl Fact.out | rfl | exact h)))
    · cases e
  · cases e

theorem keeps_runCmd [Fact (P .fab)] [Fact (P .regs)] [Fact (P .ring)] {s₀ s : State} (op : Nat) (l : List (Nat × Nat × Nat)) (form : CmdSt → State → Bool)
    {f : Nat → CmdSt → State → State} (hf : ∀ i c t, Keeps P s₀ t → Keeps P s₀ (f i c t)) (h : Keeps P s₀ s) :
    Keeps P s₀ (State.runCmd s op l form f) := by
  unfold State.runCmd
  split
  · exact h
  · have g := keeps_cmdStart (by assumption) h
    split
    · exact hf _ _ _ g
    · exact keeps_cmdDone _ _ _ g

theorem keeps_legal [Fact (P .fab)] [Fact (P .regs)] [Fact (P .ring)] {s₀ s : State} (id : Nat) (p : Bool) {f : State → State} (hf : ∀ t, Keeps P s₀ t → Keeps P s₀ (f t))
    (h : Keeps P s₀ s) : Keeps P s₀ (State.legal s id p f) := by
  unfold State.legal
  split
  · exact hf _ h
  · exact keeps_cmdDone _ _ _ h

theorem keeps_execCmdNop [Fact (P .fab)] [Fact (P .regs)] [Fact (P .ring)]  (s : State) : Outs P s (execCmdNop s) := by
  unfold execCmdNop
  apply outs_next
  repeat' (first
    | with_reducible assumption
    | with_reducible exact Keeps.refl _
    | with_reducible apply keeps_runCmd
    | with_reducible apply keeps_cmdDone
    | fail_if_no_progress (with_reducible apply keeps_mk <;> first | exact .inl Fact.out | with_reducible exact .inr rfl | with_reducible rfl | skip)
    | with_reducible apply keeps_each
    | with_reducible apply keeps_foldl
    | split
    | intro _)

theorem keeps_shapReset [Fact (P .fab)] [Fact (P .regs)] [Fact (P .ring)] [Fact (P .shaps)] {s₀ s : State} (i : Nat) (hk : Keeps P s₀ s) : Keeps P s₀ (State.shapReset s i) := by
  unfold State.shapReset
  repeat' (first
    | with_reducible assumption
    | with_reducible exact Keeps.refl _
    | with_reducible apply keeps_bump
    | with_reducible apply keeps_setShap
    | with_reducible apply keeps_cmdDone?
    | fail_if_no_progress (with_reducible apply keeps_mk <;> first | exact .inl Fact.out | with_reducible exact .inr rfl | with_reducible rfl | skip)
    | with_reducible apply keeps_each
    | with_reducible apply keeps_foldl
    | split)

theorem keeps_cxShadeReset [Fact (P .regs)] {s₀ s : State} (x : Nat) (hk : Keeps P s₀ s) : Keeps P s₀ (State.cxShadeReset s x) := by
  unfold State.cxShadeReset
  repeat' (first
    | with_reducible assumption
    | with_reducible exact Keeps.refl _
    | with_reducible apply keeps_bump
    | with_reducible apply keeps_raise
    | with_reducible apply keeps_wr
    | fail_if_no_progress (with_reducible apply keeps_mk <;> first | exact .inl Fact.out | with_reducible exact .inr rfl | with_reducible rfl | skip)
    | with_reducible apply keeps_each
    | with_reducible apply keeps_foldl
    | split)

theorem keeps_giveQueues [Fact (P .fab)] [Fact (P .qs)] [Fact (P .regs)] [Fact (P .ring)] [Fact (P .shaps)] {s₀ s : State} (x : Nat) (a : List Nat × List Nat) (hk : Keeps P s₀ s) : Keeps P s₀ (State.giveQueues s x a) := by
  unfold State.giveQueues
  repeat' (first
    | with_reducible assumption
    | with_reducible exact Keeps.refl _
    | with_reducible apply keeps_each
    | with_reducible apply keeps_shapReset
    | with_reducible apply keeps_setQ
    | fail_if_no_progress (with_reducible apply keeps_mk <;> first | exact .inl Fact.out | with_reducible exact .inr rfl | with_reducible rfl | skip)
    | with_reducible apply keeps_each
    | with_reducible apply keeps_foldl
    | split
    | intro _)

theorem keeps_execCtxCreate [Fact (P .ctxs)] [Fact (P .fab)] [Fact (P .qs)] [Fact (P .regs)] [Fact (P .ring)] [Fact (P .shaps)]  (s : State) : Outs P s (execCtxCreate s) := by
  unfold execCtxCreate
  apply outs_next
  repeat' (first
    | with_reducible assumption
    | with_reducible exact Keeps.refl _
    | with_reducible apply keeps_runCmd
    | with_reducible apply keeps_legal
    | with_reducible apply keeps_cmdDone
    | with_reducible apply keeps_giveQueues
    | with_reducible apply keeps_shapReset
    | with_reducible apply keeps_cxShadeReset
    | with_reducible apply keeps_setCtx
    | fail_if_no_progress (with_reducible apply keeps_mk <;> first | exact .inl Fact.out | with_reducible exact .inr rfl | with_reducible rfl | skip)
    | with_reducible apply keeps_each
    | with_reducible apply keeps_foldl
    | split
    | intro _)

theorem keeps_ctxClose [Fact (P .ctxs)] [Fact (P .fab)] [Fact (P .led)] [Fact (P .regs)] [Fact (P .ring)] {s₀ s : State} (x : Nat) (cmd : Option Nat) (hk : Keeps P s₀ s) : Keeps P s₀ (State.ctxClose s x cmd) := by
  unfold State.ctxClose
  repeat' (first
    | with_reducible assumption
    | with_reducible exact Keeps.refl _
    | with_reducible apply keeps_ledSlot
    | with_reducible apply keeps_setCtx
    | with_reducible apply keeps_cmdDone?)

theorem keeps_dirtyEnd [Fact (P .ctxs)] [Fact (P .fab)] [Fact (P .regs)] [Fact (P .ring)] {s₀ s : State} (x : Nat) (cmd : Option Nat) (hk : Keeps P s₀ s) : Keeps P s₀ (State.dirtyEnd s x cmd) := by
  unfold State.dirtyEnd
  repeat' (first
    | with_reducible assumption
    | with_reducible exact Keeps.refl _
    | with_reducible apply keeps_dirtyMark
    | with_reducible apply keeps_setCtx
    | with_reducible apply keeps_cmdDone?
    | fail_if_no_progress (with_reducible apply keeps_mk <;> first | exact .inl Fact.out | with_reducible exact .inr rfl | with_reducible rfl | skip)
    | with_reducible apply keeps_each
    | with_reducible apply keeps_foldl
    | split)

theorem keeps_execCtxDestroy [Fact (P .ctxs)] [Fact (P .fab)] [Fact (P .led)] [Fact (P .qs)] [Fact (P .regs)] [Fact (P .ring)] [Fact (P .shaps)]  (s : State) : Outs P s (execCtxDestroy s) := by
  unfold execCtxDestroy
  apply outs_next
  repeat' (first
    | with_reducible assumption
    | with_reducible exact Keeps.refl _
    | with_reducible apply keeps_runCmd
    | with_reducible apply keeps_legal
    | with_reducible apply keeps_cmdDone
    | with_reducible apply keeps_each
    | with_reducible apply keeps_shapReset
    | with_reducible apply keeps_cxShadeReset
    | with_reducible apply keeps_setCtx
    | with_reducible apply keeps_dirtyEnd
    | with_reducible apply keeps_ctxClose
    | fail_if_no_progress (with_reducible apply keeps_mk <;> first | exact .inl Fact.out | with_reducible exact .inr rfl | with_reducible rfl | skip)
    | with_reducible apply keeps_each
    | with_reducible apply keeps_foldl
    | split
    | intro _
    | (extract_lets +onlyGivenNames x; refine keeps_cut (x := x) ?_ ?_; on_goal 2 => clear_value x))

theorem keeps_execContextClose [Fact (P .ctxs)] [Fact (P .fab)] [Fact (P .led)] [Fact (P .regs)] [Fact (P .ring)] (x : Fin 4096) (s : State) : Outs P s (execContextClose x s) := by
  unfold execContextClose
  apply outs_next
  repeat' (first
    | with_reducible assumption
    | with_reducible exact Keeps.refl _
    | with_reducible apply keeps_ctxClose
    | fail_if_no_progress (with_reducible apply keeps_mk <;> first | exact .inl Fact.out | with_reducible exact .inr rfl | with_reducible rfl | skip)
    | with_reducible apply keeps_each
    | with_reducible apply keeps_foldl
    | split)

theorem keeps_ctxEvent [Fact (P .ctxs)] [Fact (P .fab)] [Fact (P .free)] [Fact (P .regs)] {s₀ s : State} (x type status idx addr : Nat) (hk : Keeps P s₀ s) : Keeps P s₀ (State.ctxEvent s x type status idx addr) := by
  unfold State.ctxEvent
  repeat' (first
    | with_reducible assumption
    | with_reducible exact Keeps.refl _
    | with_reducible apply keeps_event
    | with_reducible apply keeps_draw)

theorem keeps_vecRelease [Fact (P .ctxs)] [Fact (P .fab)] {s₀ s : State} (x : Nat) (hk : Keeps P s₀ s) : Keeps P s₀ (State.vecRelease s x) := by
  unfold State.vecRelease
  repeat' (first
    | with_reducible assumption
    | with_reducible exact Keeps.refl _
    | with_reducible apply keeps_each
    | with_reducible apply keeps_vecCheck
    | fail_if_no_progress (with_reducible apply keeps_mk <;> first | exact .inl Fact.out | with_reducible exact .inr rfl | with_reducible rfl | skip)
    | with_reducible apply keeps_each
    | with_reducible apply keeps_foldl
    | split
    | intro _)

theorem keeps_unissue [Fact (P .fab)] {s₀ s : State} (k : ReqKind) (id : Nat) (hk : Keeps P s₀ s) : Keeps P s₀ (State.unissue s k id).2 := by
  unfold State.unissue
  repeat' (first
    | with_reducible assumption
    | with_reducible exact Keeps.refl _
    | fail_if_no_progress (with_reducible apply keeps_mk <;> first | exact .inl Fact.out | with_reducible exact .inr rfl | with_reducible rfl | skip))

theorem keeps_unissue_eq [Fact (P .fab)] {s₀ s s₁ : State} (k : ReqKind) (id : Nat) {x₁ : Nat} (he : State.unissue s k id = (x₁, s₁)) (hk : Keeps P s₀ s) : Keeps P s₀ s₁ := by
  have := keeps_unissue k id hk
  rw [he] at this; exact this

theorem keeps_squashRx [Fact (P .chs)] [Fact (P .ctxs)] [Fact (P .fab)] [Fact (P .fb)] [Fact (P .free)] [Fact (P .led)] [Fact (P .regs)] [Fact (P .rxs)] [Fact (P .sys)] [Fact (P .txs)] {s₀ s : State} (x id : Nat) (f : RxFr) (hk : Keeps P s₀ s) : Keeps P s₀ (State.squashRx s x id f) := by
  unfold State.squashRx
  repeat' (first
    | with_reducible assumption
    | with_reducible exact Keeps.refl _
    | with_reducible apply keeps_stage
    | with_reducible apply keeps_countSquash
    | with_reducible apply keeps_rxDrop
    | with_reducible apply keeps_setRx
    | with_reducible apply keeps_rxDataDone
    | with_reducible apply keeps_unissue
    | with_reducible refine keeps_unissue_eq _ _ (by assumption) ?_
    | fail_if_no_progress (with_reducible apply keeps_mk <;> first | exact .inl Fact.out | with_reducible exact .inr rfl | with_reducible rfl | skip)
    | with_reducible apply keeps_each
    | with_reducible apply keeps_foldl
    | split
    | intro _
    | (extract_lets +onlyGivenNames x; refine keeps_cut (x := x) ?_ ?_; on_goal 2 => clear_value x)
    | extract_lets +onlyGivenNames y)

theorem keeps_squashTx [Fact (P .chs)] [Fact (P .ctxs)] [Fact (P .fab)] [Fact (P .fb)] [Fact (P .free)] [Fact (P .led)] [Fact (P .qs)] [Fact (P .regs)] [Fact (P .sys)] [Fact (P .txs)] {s₀ s : State} (x id : Nat) (f : TxFr) (hk : Keeps P s₀ s) : Keeps P s₀ (State.squashTx s x id f) := by
  unfold State.squashTx
  repeat' (first
    | with_reducible assumption
    | with_reducible exact Keeps.refl _
    | with_reducible apply keeps_stage
    | with_reducible apply keeps_countSquash
    | with_reducible apply keeps_txDrop
    | with_reducible apply keeps_unissue
    | with_reducible refine keeps_unissue_eq _ _ (by assumption) ?_
    | fail_if_no_progress (with_reducible apply keeps_mk <;> first | exact .inl Fact.out | with_reducible exact .inr rfl | with_reducible rfl | skip)
    | with_reducible apply keeps_each
    | with_reducible apply keeps_foldl
    | split)

theorem keeps_squashAll [Fact (P .chs)] [Fact (P .ctxs)] [Fact (P .fab)] [Fact (P .fb)] [Fact (P .free)] [Fact (P .led)] [Fact (P .nodes)] [Fact (P .qs)] [Fact (P .regs)] [Fact (P .rxs)] [Fact (P .sys)] [Fact (P .txs)] {s₀ s : State} (x : Nat) (hk : Keeps P s₀ s) : Keeps P s₀ (State.squashAll s x) := by
  unfold State.squashAll
  repeat' (first
    | with_reducible assumption
    | with_reducible exact Keeps.refl _
    | with_reducible apply keeps_each
    | with_reducible apply keeps_squashReads
    | with_reducible apply keeps_squashRx
    | with_reducible apply keeps_squashTx
    | with_reducible apply keeps_dropStaged
    | with_reducible apply keeps_countSquash
    | with_reducible apply keeps_txSettle
    | with_reducible apply keeps_nodesRefresh
    | fail_if_no_progress (with_reducible apply keeps_mk <;> first | exact .inl Fact.out | with_reducible exact .inr rfl | with_reducible rfl | skip)
    | with_reducible apply keeps_each
    | with_reducible apply keeps_foldl
    | split
    | intro _)

theorem keeps_stopQueues [Fact (P .qs)] {s₀ s : State} (x : Nat) (drain : Bool) (hk : Keeps P s₀ s) : Keeps P s₀ (State.stopQueues s x drain) := by
  unfold State.stopQueues
  repeat' (first
    | with_reducible assumption
    | with_reducible exact Keeps.refl _
    | with_reducible apply keeps_each
    | with_reducible apply keeps_setQ
    | fail_if_no_progress (with_reducible apply keeps_mk <;> first | exact .inl Fact.out | with_reducible exact .inr rfl | with_reducible rfl | skip)
    | with_reducible apply keeps_each
    | with_reducible apply keeps_foldl
    | split
    | intro _
    | (extract_lets +onlyGivenNames x; refine keeps_cut (x := x) ?_ ?_; on_goal 2 => clear_value x)
    | extract_lets +onlyGivenNames y)

theorem keeps_execCtxReset [Fact (P .chs)] [Fact (P .ctxs)] [Fact (P .fab)] [Fact (P .fb)] [Fact (P .free)] [Fact (P .led)] [Fact (P .nodes)] [Fact (P .qs)] [Fact (P .regs)] [Fact (P .ring)] [Fact (P .rxs)] [Fact (P .sys)] [Fact (P .txs)]  (s : State) : Outs P s (execCtxReset s) := by
  unfold execCtxReset
  apply outs_next
  repeat' (first
    | with_reducible assumption
    | with_reducible exact Keeps.refl _
    | with_reducible apply keeps_runCmd
    | with_reducible apply keeps_legal
    | with_reducible apply keeps_setCtx
    | with_reducible apply keeps_stopQueues
    | with_reducible apply keeps_vecRelease
    | with_reducible apply keeps_squashAll
    | fail_if_no_progress (with_reducible apply keeps_mk <;> first | exact .inl Fact.out | with_reducible exact .inr rfl | with_reducible rfl | skip)
    | with_reducible apply keeps_each
    | with_reducible apply keeps_foldl
    | split
    | intro _)

theorem keeps_execDrainTimeout [Fact (P .chs)] [Fact (P .ctxs)] [Fact (P .fab)] [Fact (P .fb)] [Fact (P .free)] [Fact (P .led)] [Fact (P .nodes)] [Fact (P .qs)] [Fact (P .regs)] [Fact (P .rxs)] [Fact (P .sys)] [Fact (P .tm)] [Fact (P .txs)] (x : Fin 4096) (s : State) : Outs P s (execDrainTimeout x s) := by
  unfold execDrainTimeout
  apply outs_next
  repeat' (first
    | with_reducible assumption
    | with_reducible exact Keeps.refl _
    | with_reducible apply keeps_advanceTo
    | with_reducible apply keeps_setCtx
    | with_reducible apply keeps_bump
    | with_reducible apply keeps_each
    | with_reducible apply keeps_setQ
    | with_reducible apply keeps_squashAll
    | fail_if_no_progress (with_reducible apply keeps_mk <;> first | exact .inl Fact.out | with_reducible exact .inr rfl | with_reducible rfl | skip)
    | with_reducible apply keeps_each
    | with_reducible apply keeps_foldl
    | split
    | intro _)

theorem keeps_execResetEnd [Fact (P .ctxs)] [Fact (P .fab)] [Fact (P .free)] [Fact (P .regs)] [Fact (P .ring)] (x : Fin 4096) (s : State) : Outs P s (execResetEnd x s) := by
  unfold execResetEnd
  apply outs_next
  repeat' (first
    | with_reducible assumption
    | with_reducible exact Keeps.refl _
    | with_reducible apply keeps_setCtx
    | with_reducible apply keeps_raise
    | with_reducible apply keeps_ctxEvent
    | with_reducible apply keeps_cmdDone?
    | fail_if_no_progress (with_reducible apply keeps_mk <;> first | exact .inl Fact.out | with_reducible exact .inr rfl | with_reducible rfl | skip)
    | with_reducible apply keeps_each
    | with_reducible apply keeps_foldl
    | split)

theorem keeps_execCtxFreeze [Fact (P .ctxs)] [Fact (P .fab)] [Fact (P .qs)] [Fact (P .regs)] [Fact (P .ring)] [Fact (P .txs)]  (s : State) : Outs P s (execCtxFreeze s) := by
  unfold execCtxFreeze
  apply outs_next
  repeat' (first
    | with_reducible assumption
    | with_reducible exact Keeps.refl _
    | with_reducible apply keeps_runCmd
    | with_reducible apply keeps_legal
    | with_reducible apply keeps_each
    | with_reducible apply keeps_vecRecall
    | with_reducible apply keeps_withdrawReads
    | with_reducible apply keeps_setCtx
    | fail_if_no_progress (with_reducible apply keeps_mk <;> first | exact .inl Fact.out | with_reducible exact .inr rfl | with_reducible rfl | skip)
    | with_reducible apply keeps_each
    | with_reducible apply keeps_foldl
    | split
    | intro _)

theorem keeps_execFreezeEnd [Fact (P .ctxs)] [Fact (P .fab)] [Fact (P .qs)] [Fact (P .regs)] [Fact (P .ring)] (x : Fin 4096) (s : State) : Outs P s (execFreezeEnd x s) := by
  unfold execFreezeEnd
  apply outs_next
  repeat' (first
    | with_reducible assumption
    | with_reducible exact Keeps.refl _
    | with_reducible apply keeps_each
    | with_reducible apply keeps_forgetReads
    | with_reducible apply keeps_setQ
    | with_reducible apply keeps_setCtx
    | with_reducible apply keeps_raise
    | with_reducible apply keeps_cmdDone?
    | fail_if_no_progress (with_reducible apply keeps_mk <;> first | exact .inl Fact.out | with_reducible exact .inr rfl | with_reducible rfl | skip)
    | with_reducible apply keeps_each
    | with_reducible apply keeps_foldl
    | split
    | intro _)

theorem keeps_execFreezeTimeout [Fact (P .ctxs)] [Fact (P .fab)] [Fact (P .free)] [Fact (P .regs)] [Fact (P .ring)] [Fact (P .tm)] (x : Fin 4096) (s : State) : Outs P s (execFreezeTimeout x s) := by
  unfold execFreezeTimeout
  apply outs_next
  repeat' (first
    | with_reducible assumption
    | with_reducible exact Keeps.refl _
    | with_reducible apply keeps_advanceTo
    | with_reducible apply keeps_setCtx
    | with_reducible apply keeps_raise
    | with_reducible apply keeps_ctxEvent
    | with_reducible apply keeps_vecRelease
    | with_reducible apply keeps_cmdDone?
    | fail_if_no_progress (with_reducible apply keeps_mk <;> first | exact .inl Fact.out | with_reducible exact .inr rfl | with_reducible rfl | skip)
    | with_reducible apply keeps_each
    | with_reducible apply keeps_foldl
    | split)

theorem keeps_execCtxResume [Fact (P .ctxs)] [Fact (P .fab)] [Fact (P .free)] [Fact (P .regs)] [Fact (P .ring)]  (s : State) : Outs P s (execCtxResume s) := by
  unfold execCtxResume
  apply outs_next
  repeat' (first
    | with_reducible assumption
    | with_reducible exact Keeps.refl _
    | with_reducible apply keeps_runCmd
    | with_reducible apply keeps_legal
    | with_reducible apply keeps_setCtx
    | with_reducible apply keeps_vecRelease
    | with_reducible apply keeps_ctxEvent
    | with_reducible apply keeps_cmdDone
    | fail_if_no_progress (with_reducible apply keeps_mk <;> first | exact .inl Fact.out | with_reducible exact .inr rfl | with_reducible rfl | skip)
    | with_reducible apply keeps_each
    | with_reducible apply keeps_foldl
    | split
    | intro _)

theorem keeps_execCtxSave [Fact (P .cu)] [Fact (P .fab)] [Fact (P .regs)] [Fact (P .ring)]  (s : State) : Outs P s (execCtxSave s) := by
  unfold execCtxSave
  apply outs_next
  repeat' (first
    | with_reducible assumption
    | with_reducible exact Keeps.refl _
    | with_reducible apply keeps_runCmd
    | with_reducible apply keeps_legal
    | with_reducible apply keeps_cuStream
    | with_reducible apply keeps_hostWrite
    | fail_if_no_progress (with_reducible apply keeps_mk <;> first | exact .inl Fact.out | with_reducible exact .inr rfl | with_reducible rfl | skip)
    | with_reducible apply keeps_each
    | with_reducible apply keeps_foldl
    | split
    | intro _)

theorem keeps_execImageWriteResponse [Fact (P .fab)] [Fact (P .regs)] [Fact (P .ring)] [Fact (P .sp)]  (s : State) : Outs P s (execImageWriteResponse s) := by
  unfold execImageWriteResponse
  apply outs_next
  repeat' (first
    | with_reducible assumption
    | with_reducible exact Keeps.refl _
    | with_reducible apply keeps_cmdDone
    | with_reducible apply keeps_okay
    | with_reducible refine keeps_response (by assumption) ?_
    | fail_if_no_progress (with_reducible apply keeps_mk <;> first | exact .inl Fact.out | with_reducible exact .inr rfl | with_reducible rfl | skip)
    | with_reducible apply keeps_each
    | with_reducible apply keeps_foldl
    | split)

theorem keeps_execCtxRestore [Fact (P .cu)] [Fact (P .fab)] [Fact (P .regs)] [Fact (P .ring)]  (s : State) : Outs P s (execCtxRestore s) := by
  unfold execCtxRestore
  apply outs_next
  repeat' (first
    | with_reducible assumption
    | with_reducible exact Keeps.refl _
    | with_reducible apply keeps_runCmd
    | with_reducible apply keeps_legal
    | with_reducible apply keeps_cuStream
    | with_reducible apply keeps_hostRead
    | fail_if_no_progress (with_reducible apply keeps_mk <;> first | exact .inl Fact.out | with_reducible exact .inr rfl | with_reducible rfl | skip)
    | with_reducible apply keeps_each
    | with_reducible apply keeps_foldl
    | split
    | intro _)

theorem keeps_imageFail [Fact (P .fab)] [Fact (P .regs)] [Fact (P .ring)] {s₀ s : State} (id code off status : Nat) (hk : Keeps P s₀ s) : Keeps P s₀ (State.imageFail s id code off status) := by
  unfold State.imageFail
  repeat' (first
    | with_reducible assumption
    | with_reducible exact Keeps.refl _
    | with_reducible apply keeps_wr
    | with_reducible apply keeps_cmdDone)

theorem keeps_imageLoad [Fact (P .ctxs)] [Fact (P .fab)] [Fact (P .qs)] [Fact (P .regs)] [Fact (P .ring)] [Fact (P .shaps)] {s₀ s : State} (x : Nat) (d : List Byte) (a : List Nat × List Nat) (hk : Keeps P s₀ s) : Keeps P s₀ (State.imageLoad s x d a) := by
  unfold State.imageLoad
  repeat' (first
    | with_reducible assumption
    | with_reducible exact Keeps.refl _
    | with_reducible apply keeps_giveQueues
    | with_reducible apply keeps_shapReset
    | with_reducible apply keeps_cxShadeReset
    | with_reducible apply keeps_each
    | with_reducible apply keeps_setQ
    | with_reducible apply keeps_setShap
    | with_reducible apply keeps_wr
    | with_reducible apply keeps_setCtx
    | with_reducible apply keeps_setVec
    | with_reducible apply keeps_raise
    | fail_if_no_progress (with_reducible apply keeps_mk <;> first | exact .inl Fact.out | with_reducible exact .inr rfl | with_reducible rfl | skip)
    | with_reducible apply keeps_each
    | with_reducible apply keeps_foldl
    | split
    | intro _)

theorem keeps_execImageReadResponse [Fact (P .ctxs)] [Fact (P .cu)] [Fact (P .fab)] [Fact (P .free)] [Fact (P .qs)] [Fact (P .regs)] [Fact (P .ring)] [Fact (P .shaps)] [Fact (P .sp)]  (s : State) : Outs P s (execImageReadResponse s) := by
  unfold execImageReadResponse
  apply outs_next
  repeat' (first
    | with_reducible assumption
    | with_reducible exact Keeps.refl _
    | with_reducible apply keeps_cuStream
    | with_reducible apply keeps_okay
    | with_reducible apply keeps_imageFail
    | with_reducible apply keeps_imageLoad
    | with_reducible apply keeps_cmdDone
    | with_reducible refine keeps_response (by assumption) ?_
    | with_reducible apply keeps_draw
    | with_reducible refine keeps_draw_eq (by assumption) ?_
    | fail_if_no_progress (with_reducible apply keeps_mk <;> first | exact .inl Fact.out | with_reducible exact .inr rfl | with_reducible rfl | skip)
    | with_reducible apply keeps_each
    | with_reducible apply keeps_foldl
    | split
    | intro _
    | (extract_lets +onlyGivenNames x; refine keeps_cut (x := x) ?_ ?_; on_goal 2 => clear_value x))

theorem keeps_execDirtyStart [Fact (P .ctxs)] [Fact (P .fab)] [Fact (P .regs)] [Fact (P .ring)]  (s : State) : Outs P s (execDirtyStart s) := by
  unfold execDirtyStart
  apply outs_next
  repeat' (first
    | with_reducible assumption
    | with_reducible exact Keeps.refl _
    | with_reducible apply keeps_runCmd
    | with_reducible apply keeps_legal
    | with_reducible apply keeps_setCtx
    | with_reducible apply keeps_wr
    | with_reducible apply keeps_cmdDone
    | fail_if_no_progress (with_reducible apply keeps_mk <;> first | exact .inl Fact.out | with_reducible exact .inr rfl | with_reducible rfl | skip)
    | with_reducible apply keeps_each
    | with_reducible apply keeps_foldl
    | split
    | intro _)

theorem keeps_execDirtyStop [Fact (P .ctxs)] [Fact (P .fab)] [Fact (P .regs)] [Fact (P .ring)]  (s : State) : Outs P s (execDirtyStop s) := by
  unfold execDirtyStop
  apply outs_next
  repeat' (first
    | with_reducible assumption
    | with_reducible exact Keeps.refl _
    | with_reducible apply keeps_runCmd
    | with_reducible apply keeps_cmdDone
    | with_reducible apply keeps_dirtyEnd
    | fail_if_no_progress (with_reducible apply keeps_mk <;> first | exact .inl Fact.out | with_reducible exact .inr rfl | with_reducible rfl | skip)
    | with_reducible apply keeps_each
    | with_reducible apply keeps_foldl
    | split
    | intro _)

theorem keeps_execDirtyMarkResponse [Fact (P .ctxs)] [Fact (P .fab)] [Fact (P .free)] [Fact (P .regs)] [Fact (P .ring)] [Fact (P .sp)]  (s : State) : Outs P s (execDirtyMarkResponse s) := by
  unfold execDirtyMarkResponse
  apply outs_next
  repeat' (first
    | with_reducible assumption
    | with_reducible exact Keeps.refl _
    | with_reducible apply keeps_dirtyMark
    | with_reducible apply keeps_okay
    | with_reducible apply keeps_setCtx
    | with_reducible apply keeps_unqueue
    | with_reducible apply keeps_raise
    | with_reducible apply keeps_ctxEvent
    | with_reducible apply keeps_cmdDone?
    | with_reducible refine keeps_response (by assumption) ?_
    | fail_if_no_progress (with_reducible apply keeps_mk <;> first | exact .inl Fact.out | with_reducible exact .inr rfl | with_reducible rfl | skip)
    | with_reducible apply keeps_each
    | with_reducible apply keeps_foldl
    | split
    | intro _
    | (extract_lets +onlyGivenNames x; refine keeps_cut (x := x) ?_ ?_; on_goal 2 => clear_value x)
    | extract_lets +onlyGivenNames y)

theorem keeps_queueSetup [Fact (P .fab)] [Fact (P .qs)] [Fact (P .regs)] [Fact (P .ring)] {s₀ s : State} (op : Nat) (rx : Bool) (hk : Keeps P s₀ s) : Keeps P s₀ (State.queueSetup s op rx) := by
  unfold State.queueSetup
  repeat' (first
    | with_reducible assumption
    | with_reducible exact Keeps.refl _
    | with_reducible apply keeps_runCmd
    | with_reducible apply keeps_legal
    | with_reducible apply keeps_setQ
    | with_reducible apply keeps_cmdDone
    | fail_if_no_progress (with_reducible apply keeps_mk <;> first | exact .inl Fact.out | with_reducible exact .inr rfl | with_reducible rfl | skip)
    | with_reducible apply keeps_each
    | with_reducible apply keeps_foldl
    | split
    | intro _)

theorem keeps_execTxqSetup [Fact (P .fab)] [Fact (P .qs)] [Fact (P .regs)] [Fact (P .ring)]  (s : State) : Outs P s (execTxqSetup s) := by
  unfold execTxqSetup
  apply outs_next
  repeat' (first
    | with_reducible assumption
    | with_reducible exact Keeps.refl _
    | with_reducible apply keeps_queueSetup)

theorem keeps_execRxqSetup [Fact (P .fab)] [Fact (P .qs)] [Fact (P .regs)] [Fact (P .ring)]  (s : State) : Outs P s (execRxqSetup s) := by
  unfold execRxqSetup
  apply outs_next
  repeat' (first
    | with_reducible assumption
    | with_reducible exact Keeps.refl _
    | with_reducible apply keeps_queueSetup)

theorem keeps_queueCmd [Fact (P .fab)] [Fact (P .regs)] [Fact (P .ring)] {s₀ s : State} (op : Nat) {f : Nat → CmdSt → Nat → State → State}
    (hf : ∀ i c k t, Keeps P s₀ t → Keeps P s₀ (f i c k t)) (h : Keeps P s₀ s) : Keeps P s₀ (State.queueCmd s op f) := by
  unfold State.queueCmd
  apply keeps_runCmd
  · intro i c t k
    split
    · exact hf _ _ _ _ k
    · exact k
  · exact h

theorem keeps_execQStop [Fact (P .fab)] [Fact (P .qs)] [Fact (P .regs)] [Fact (P .ring)]  (s : State) : Outs P s (execQStop s) := by
  unfold execQStop
  apply outs_next
  repeat' (first
    | with_reducible assumption
    | with_reducible exact Keeps.refl _
    | with_reducible apply keeps_queueCmd
    | with_reducible apply keeps_legal
    | with_reducible apply keeps_setQ
    | fail_if_no_progress (with_reducible apply keeps_mk <;> first | exact .inl Fact.out | with_reducible exact .inr rfl | with_reducible rfl | skip)
    | with_reducible apply keeps_each
    | with_reducible apply keeps_foldl
    | split
    | intro _)

theorem keeps_execQRestart [Fact (P .fab)] [Fact (P .qs)] [Fact (P .regs)] [Fact (P .ring)]  (s : State) : Outs P s (execQRestart s) := by
  unfold execQRestart
  apply outs_next
  repeat' (first
    | with_reducible assumption
    | with_reducible exact Keeps.refl _
    | with_reducible apply keeps_queueCmd
    | with_reducible apply keeps_legal
    | with_reducible apply keeps_setQ
    | with_reducible apply keeps_cmdDone
    | fail_if_no_progress (with_reducible apply keeps_mk <;> first | exact .inl Fact.out | with_reducible exact .inr rfl | with_reducible rfl | skip)
    | with_reducible apply keeps_each
    | with_reducible apply keeps_foldl
    | split
    | intro _)

theorem keeps_execQTeardown [Fact (P .fab)] [Fact (P .qs)] [Fact (P .regs)] [Fact (P .ring)]  (s : State) : Outs P s (execQTeardown s) := by
  unfold execQTeardown
  apply outs_next
  repeat' (first
    | with_reducible assumption
    | with_reducible exact Keeps.refl _
    | with_reducible apply keeps_queueCmd
    | with_reducible apply keeps_legal
    | with_reducible apply keeps_setQ
    | with_reducible apply keeps_cmdDone
    | fail_if_no_progress (with_reducible apply keeps_mk <;> first | exact .inl Fact.out | with_reducible exact .inr rfl | with_reducible rfl | skip)
    | with_reducible apply keeps_each
    | with_reducible apply keeps_foldl
    | split
    | intro _)

theorem keeps_execEvqSetup [Fact (P .ctxs)] [Fact (P .fab)] [Fact (P .regs)] [Fact (P .ring)]  (s : State) : Outs P s (execEvqSetup s) := by
  unfold execEvqSetup
  apply outs_next
  repeat' (first
    | with_reducible assumption
    | with_reducible exact Keeps.refl _
    | with_reducible apply keeps_runCmd
    | with_reducible apply keeps_legal
    | with_reducible apply keeps_setCtx
    | with_reducible apply keeps_cmdDone
    | fail_if_no_progress (with_reducible apply keeps_mk <;> first | exact .inl Fact.out | with_reducible exact .inr rfl | with_reducible rfl | skip)
    | with_reducible apply keeps_each
    | with_reducible apply keeps_foldl
    | split
    | intro _)

theorem keeps_execEvqTeardown [Fact (P .ctxs)] [Fact (P .fab)] [Fact (P .regs)] [Fact (P .ring)]  (s : State) : Outs P s (execEvqTeardown s) := by
  unfold execEvqTeardown
  apply outs_next
  repeat' (first
    | with_reducible assumption
    | with_reducible exact Keeps.refl _
    | with_reducible apply keeps_runCmd
    | with_reducible apply keeps_legal
    | with_reducible apply keeps_setCtx
    | with_reducible apply keeps_cmdDone
    | fail_if_no_progress (with_reducible apply keeps_mk <;> first | exact .inl Fact.out | with_reducible exact .inr rfl | with_reducible rfl | skip)
    | with_reducible apply keeps_each
    | with_reducible apply keeps_foldl
    | split
    | intro _)

theorem keeps_execVecSet [Fact (P .ctxs)] [Fact (P .fab)] [Fact (P .regs)] [Fact (P .ring)]  (s : State) : Outs P s (execVecSet s) := by
  unfold execVecSet
  apply outs_next
  repeat' (first
    | with_reducible assumption
    | with_reducible exact Keeps.refl _
    | with_reducible apply keeps_runCmd
    | with_reducible apply keeps_legal
    | with_reducible apply keeps_vecRecall
    | with_reducible apply keeps_setVec
    | with_reducible apply keeps_vecCheck
    | with_reducible apply keeps_cmdDone
    | fail_if_no_progress (with_reducible apply keeps_mk <;> first | exact .inl Fact.out | with_reducible exact .inr rfl | with_reducible rfl | skip)
    | with_reducible apply keeps_each
    | with_reducible apply keeps_foldl
    | split
    | intro _)

theorem keeps_epCmd [Fact (P .fab)] [Fact (P .ny)] [Fact (P .regs)] [Fact (P .ring)] [Fact (P .sv)] [Fact (P .tbl)] {s₀ s : State} (op : Nat) (verdict : Bool) (hk : Keeps P s₀ s) : Keeps P s₀ (State.epCmd s op verdict) := by
  unfold State.epCmd
  repeat' (first
    | with_reducible assumption
    | with_reducible exact Keeps.refl _
    | with_reducible apply keeps_runCmd
    | with_reducible apply keeps_updQueue
    | fail_if_no_progress (with_reducible apply keeps_mk <;> first | exact .inl Fact.out | with_reducible exact .inr rfl | with_reducible rfl | skip)
    | with_reducible apply keeps_each
    | with_reducible apply keeps_foldl
    | split
    | intro _)

theorem keeps_execEpInsert [Fact (P .fab)] [Fact (P .ny)] [Fact (P .regs)] [Fact (P .ring)] [Fact (P .sv)] [Fact (P .tbl)]  (s : State) : Outs P s (execEpInsert s) := by
  unfold execEpInsert
  apply outs_next
  repeat' (first
    | with_reducible assumption
    | with_reducible exact Keeps.refl _
    | with_reducible apply keeps_epCmd)

theorem keeps_execEpDelete [Fact (P .fab)] [Fact (P .ny)] [Fact (P .regs)] [Fact (P .ring)] [Fact (P .sv)] [Fact (P .tbl)]  (s : State) : Outs P s (execEpDelete s) := by
  unfold execEpDelete
  apply outs_next
  repeat' (first
    | with_reducible assumption
    | with_reducible exact Keeps.refl _
    | with_reducible apply keeps_epCmd)

theorem keeps_execEpModify [Fact (P .fab)] [Fact (P .ny)] [Fact (P .regs)] [Fact (P .ring)] [Fact (P .sv)] [Fact (P .tbl)]  (s : State) : Outs P s (execEpModify s) := by
  unfold execEpModify
  apply outs_next
  repeat' (first
    | with_reducible assumption
    | with_reducible exact Keeps.refl _
    | with_reducible apply keeps_epCmd)

theorem keeps_execEpQuery [Fact (P .fab)] [Fact (P .ny)] [Fact (P .regs)] [Fact (P .ring)] [Fact (P .sv)] [Fact (P .tbl)]  (s : State) : Outs P s (execEpQuery s) := by
  unfold execEpQuery
  apply outs_next
  repeat' (first
    | with_reducible assumption
    | with_reducible exact Keeps.refl _
    | with_reducible apply keeps_epCmd)

theorem keeps_execShaperSet [Fact (P .fab)] [Fact (P .regs)] [Fact (P .ring)] [Fact (P .shaps)]  (s : State) : Outs P s (execShaperSet s) := by
  unfold execShaperSet
  apply outs_next
  repeat' (first
    | with_reducible assumption
    | with_reducible exact Keeps.refl _
    | with_reducible apply keeps_runCmd
    | with_reducible apply keeps_bump
    | with_reducible apply keeps_cmdDone
    | with_reducible apply keeps_putShap
    | fail_if_no_progress (with_reducible apply keeps_mk <;> first | exact .inl Fact.out | with_reducible exact .inr rfl | with_reducible rfl | skip)
    | with_reducible apply keeps_each
    | with_reducible apply keeps_foldl
    | split
    | intro _
    | (extract_lets +onlyGivenNames x; refine keeps_cut (x := x) ?_ ?_; on_goal 2 => clear_value x)
    | extract_lets +onlyGivenNames y)

theorem keeps_hrReject [Fact (P .regs)] {s₀ s : State}  (hk : Keeps P s₀ s) : Keeps P s₀ (State.hrReject s) := by
  unfold State.hrReject
  repeat' (first
    | with_reducible assumption
    | with_reducible exact Keeps.refl _
    | with_reducible apply keeps_bump)

theorem keeps_forgetCmdRead [Fact (P .fab)] [Fact (P .ring)] {s₀ s : State}  (hk : Keeps P s₀ s) : Keeps P s₀ (State.forgetCmdRead s) := by
  unfold State.forgetCmdRead
  repeat' (first
    | with_reducible assumption
    | with_reducible exact Keeps.refl _
    | fail_if_no_progress (with_reducible apply keeps_mk <;> first | exact .inl Fact.out | with_reducible exact .inr rfl | with_reducible rfl | skip))

theorem keeps_cmdCfg [Fact (P .fab)] [Fact (P .regs)] [Fact (P .ring)] {s₀ s : State} (v : Nat) (hk : Keeps P s₀ s) : Keeps P s₀ (State.cmdCfg s v) := by
  unfold State.cmdCfg
  repeat' (first
    | with_reducible assumption
    | with_reducible exact Keeps.refl _
    | with_reducible apply keeps_wr
    | with_reducible apply keeps_hrReject
    | with_reducible apply keeps_raise
    | with_reducible apply keeps_cmdFetch
    | with_reducible apply keeps_forgetCmdRead
    | fail_if_no_progress (with_reducible apply keeps_mk <;> first | exact .inl Fact.out | with_reducible exact .inr rfl | with_reducible rfl | skip)
    | with_reducible apply keeps_each
    | with_reducible apply keeps_foldl
    | split
    | intro _
    | (extract_lets +onlyGivenNames x; refine keeps_cut (x := x) ?_ ?_; on_goal 2 => clear_value x)
    | extract_lets +onlyGivenNames y)

theorem keeps_execCmdEnableWrite [Fact (P .fab)] [Fact (P .regs)] [Fact (P .ring)] [Fact (P .sp)] (w : Who) (v : Word) (s : State) : Outs P s (execCmdEnableWrite w v s) := by
  unfold execCmdEnableWrite
  apply outs_next
  repeat' (first
    | with_reducible assumption
    | with_reducible exact Keeps.refl _
    | with_reducible apply keeps_guardWrite
    | with_reducible apply keeps_cmdCfg
    | fail_if_no_progress (with_reducible apply keeps_mk <;> first | exact .inl Fact.out | with_reducible exact .inr rfl | with_reducible rfl | skip)
    | with_reducible apply keeps_each
    | with_reducible apply keeps_foldl
    | split
    | intro _)

theorem keeps_cmdPi [Fact (P .fab)] [Fact (P .regs)] [Fact (P .ring)] {s₀ s : State} (v : Nat) (hk : Keeps P s₀ s) : Keeps P s₀ (State.cmdPi s v) := by
  unfold State.cmdPi
  repeat' (first
    | with_reducible assumption
    | with_reducible exact Keeps.refl _
    | with_reducible apply keeps_hrReject
    | with_reducible apply keeps_wr
    | with_reducible apply keeps_cmdFetch
    | fail_if_no_progress (with_reducible apply keeps_mk <;> first | exact .inl Fact.out | with_reducible exact .inr rfl | with_reducible rfl | skip)
    | with_reducible apply keeps_each
    | with_reducible apply keeps_foldl
    | split
    | intro _
    | (extract_lets +onlyGivenNames x; refine keeps_cut (x := x) ?_ ?_; on_goal 2 => clear_value x)
    | extract_lets +onlyGivenNames y)

theorem keeps_execCmdPiWrite [Fact (P .fab)] [Fact (P .regs)] [Fact (P .ring)] [Fact (P .sp)] (w : Who) (v : Word) (s : State) : Outs P s (execCmdPiWrite w v s) := by
  unfold execCmdPiWrite
  apply outs_next
  repeat' (first
    | with_reducible assumption
    | with_reducible exact Keeps.refl _
    | with_reducible apply keeps_guardWrite
    | with_reducible apply keeps_cmdPi
    | fail_if_no_progress (with_reducible apply keeps_mk <;> first | exact .inl Fact.out | with_reducible exact .inr rfl | with_reducible rfl | skip)
    | with_reducible apply keeps_each
    | with_reducible apply keeps_foldl
    | split
    | intro _)

theorem keeps_cmdHalt [Fact (P .regs)] {s₀ s : State}  (hk : Keeps P s₀ s) : Keeps P s₀ (State.cmdHalt s) := by
  unfold State.cmdHalt
  repeat' (first
    | with_reducible assumption
    | with_reducible exact Keeps.refl _
    | with_reducible apply keeps_raise)

theorem keeps_execCommandReadResponse [Fact (P .fab)] [Fact (P .regs)] [Fact (P .ring)] [Fact (P .sp)]  (s : State) : Outs P s (execCommandReadResponse s) := by
  unfold execCommandReadResponse
  apply outs_next
  repeat' (first
    | with_reducible assumption
    | with_reducible exact Keeps.refl _
    | with_reducible apply keeps_okay
    | with_reducible apply keeps_cmdHalt
    | with_reducible apply keeps_cmdUnknown
    | with_reducible refine keeps_response (by assumption) ?_
    | fail_if_no_progress (with_reducible apply keeps_mk <;> first | exact .inl Fact.out | with_reducible exact .inr rfl | with_reducible rfl | skip)
    | with_reducible apply keeps_each
    | with_reducible apply keeps_foldl
    | split)

theorem keeps_execCommandCompletionResponse [Fact (P .fab)] [Fact (P .regs)] [Fact (P .sp)]  (s : State) : Outs P s (execCommandCompletionResponse s) := by
  unfold execCommandCompletionResponse
  apply outs_next
  repeat' (first
    | with_reducible assumption
    | with_reducible exact Keeps.refl _
    | with_reducible apply keeps_okay
    | with_reducible apply keeps_raise
    | with_reducible apply keeps_cmdHalt
    | with_reducible refine keeps_response (by assumption) ?_
    | fail_if_no_progress (with_reducible apply keeps_mk <;> first | exact .inl Fact.out | with_reducible exact .inr rfl | with_reducible rfl | skip)
    | with_reducible apply keeps_each
    | with_reducible apply keeps_foldl
    | split)

theorem keeps_hrWrite [Fact (P .fab)] [Fact (P .regs)] [Fact (P .ring)] {s₀ s : State} (off v : Nat) (hk : Keeps P s₀ s) : Keeps P s₀ (State.hrWrite s off v) := by
  unfold State.hrWrite
  repeat' (first
    | with_reducible assumption
    | with_reducible exact Keeps.refl _
    | with_reducible apply keeps_hrReject
    | with_reducible apply keeps_writePlain
    | with_reducible apply keeps_cmdCfg
    | with_reducible apply keeps_cmdPi
    | fail_if_no_progress (with_reducible apply keeps_mk <;> first | exact .inl Fact.out | with_reducible exact .inr rfl | with_reducible rfl | skip)
    | with_reducible apply keeps_each
    | with_reducible apply keeps_foldl
    | split)

theorem keeps_cxReject [Fact (P .regs)] {s₀ s : State} (x : Nat) (hk : Keeps P s₀ s) : Keeps P s₀ (State.cxReject s x) := by
  unfold State.cxReject
  repeat' (first
    | with_reducible assumption
    | with_reducible exact Keeps.refl _
    | with_reducible apply keeps_bump
    | with_reducible apply keeps_raise)

theorem keeps_cxCommit [Fact (P .ctxs)] [Fact (P .regs)] {s₀ s : State}  (hk : Keeps P s₀ s) : Keeps P s₀ (State.cxCommit s) := by
  unfold State.cxCommit
  repeat' (first
    | with_reducible assumption
    | with_reducible exact Keeps.refl _
    | with_reducible apply keeps_cxReject
    | with_reducible apply keeps_raise
    | with_reducible apply keeps_setCtx
    | fail_if_no_progress (with_reducible apply keeps_mk <;> first | exact .inl Fact.out | with_reducible exact .inr rfl | with_reducible rfl | skip)
    | with_reducible apply keeps_each
    | with_reducible apply keeps_foldl
    | split
    | intro _
    | (extract_lets +onlyGivenNames x; refine keeps_cut (x := x) ?_ ?_; on_goal 2 => clear_value x)
    | extract_lets +onlyGivenNames y)

theorem keeps_execCxCommit [Fact (P .ctxs)] [Fact (P .fab)] [Fact (P .regs)] [Fact (P .sp)] (w : Who) (s : State) : Outs P s (execCxCommit w s) := by
  unfold execCxCommit
  apply outs_next
  repeat' (first
    | with_reducible assumption
    | with_reducible exact Keeps.refl _
    | with_reducible apply keeps_guardWrite
    | with_reducible apply keeps_cxCommit)

theorem keeps_cxWrite [Fact (P .ctxs)] [Fact (P .regs)] {s₀ s : State} (off v : Nat) (hk : Keeps P s₀ s) : Keeps P s₀ (State.cxWrite s off v) := by
  unfold State.cxWrite
  repeat' (first
    | with_reducible assumption
    | with_reducible exact Keeps.refl _
    | with_reducible apply keeps_cxReject
    | with_reducible apply keeps_writePlain
    | with_reducible apply keeps_cxCommit
    | fail_if_no_progress (with_reducible apply keeps_mk <;> first | exact .inl Fact.out | with_reducible exact .inr rfl | with_reducible rfl | skip)
    | with_reducible apply keeps_each
    | with_reducible apply keeps_foldl
    | split
    | intro _
    | (extract_lets +onlyGivenNames x; refine keeps_cut (x := x) ?_ ?_; on_goal 2 => clear_value x)
    | extract_lets +onlyGivenNames y)

theorem keeps_cxHandOver [Fact (P .ctxs)] [Fact (P .fab)] [Fact (P .free)] [Fact (P .regs)] {s₀ s : State} (x b : Nat) (hk : Keeps P s₀ s) : Keeps P s₀ (State.cxHandOver s x b) := by
  unfold State.cxHandOver
  repeat' (first
    | with_reducible assumption
    | with_reducible exact Keeps.refl _
    | with_reducible apply keeps_wr
    | with_reducible apply keeps_setCtx
    | with_reducible apply keeps_ctxEvent
    | fail_if_no_progress (with_reducible apply keeps_mk <;> first | exact .inl Fact.out | with_reducible exact .inr rfl | with_reducible rfl | skip)
    | with_reducible apply keeps_each
    | with_reducible apply keeps_foldl
    | split
    | intro _
    | (extract_lets +onlyGivenNames x; refine keeps_cut (x := x) ?_ ?_; on_goal 2 => clear_value x)
    | extract_lets +onlyGivenNames y)

end Sys2Proof.Laws
end

