-- ==== Sys2Proof/Laws/KeepsCuts.lean ====
section
/-! SUPPORT. What the operations of Cuts.lean keep. -/

namespace Sys2Proof.Laws

open Sys2Proof.Machine

variable {P : Part → Prop}

theorem keeps_cutHandOver [Fact (P .chs)] [Fact (P .ctxs)] [Fact (P .fab)] [Fact (P .fb)] [Fact (P .free)] [Fact (P .frs)] [Fact (P .gfps)] [Fact (P .grps)] [Fact (P .lanes)] [Fact (P .pairs)] [Fact (P .pw)] [Fact (P .regs)] [Fact (P .rxs)] [Fact (P .sys)] [Fact (P .txs)] {s₀ s : State} (b : Nat) (hk : Keeps P s₀ s) : Keeps P s₀ (State.cutHandOver s b) := by
  unfold State.cutHandOver
  repeat' (first
    | with_reducible assumption
    | with_reducible exact Keeps.refl _
    | with_reducible apply keeps_each
    | with_reducible apply keeps_cxHandOver
    | with_reducible apply keeps_wr
    | with_reducible apply keeps_pwAbort
    | fail_if_no_progress (with_reducible apply keeps_mk <;> first | exact .inl Fact.out | with_reducible exact .inr rfl | with_reducible rfl | skip)
    | with_reducible apply keeps_each
    | with_reducible apply keeps_foldl
    | split
    | intro _
    | (extract_lets +onlyGivenNames x; refine keeps_cut (x := x) ?_ ?_; on_goal 2 => clear_value x)
    | extract_lets +onlyGivenNames y)

theorem keeps_cutOpen [Fact (P .chs)] [Fact (P .ctxs)] [Fact (P .fab)] [Fact (P .fb)] [Fact (P .free)] [Fact (P .frs)] [Fact (P .gfps)] [Fact (P .grps)] [Fact (P .lanes)] [Fact (P .led)] [Fact (P .pairs)] [Fact (P .pw)] [Fact (P .regs)] [Fact (P .rxs)] [Fact (P .sys)] [Fact (P .txs)] {s₀ s : State} (t : Nat) (step : Bool) (hk : Keeps P s₀ s) : Keeps P s₀ (State.cutOpen s t step) := by
  unfold State.cutOpen
  repeat' (first
    | with_reducible assumption
    | with_reducible exact Keeps.refl _
    | with_reducible apply keeps_raise
    | with_reducible apply keeps_cutHandOver
    | fail_if_no_progress (with_reducible apply keeps_mk <;> first | exact .inl Fact.out | with_reducible exact .inr rfl | with_reducible rfl | skip))

theorem keeps_cutAt [Fact (P .chs)] [Fact (P .ctxs)] [Fact (P .fab)] [Fact (P .fb)] [Fact (P .free)] [Fact (P .frs)] [Fact (P .gfps)] [Fact (P .grps)] [Fact (P .lanes)] [Fact (P .led)] [Fact (P .pairs)] [Fact (P .pw)] [Fact (P .regs)] [Fact (P .rxs)] [Fact (P .sys)] [Fact (P .txs)] {s₀ s : State} (sec from_ : Nat) (step : Bool) (hk : Keeps P s₀ s) : Keeps P s₀ (State.cutAt s sec from_ step) := by
  unfold State.cutAt
  repeat' (first
    | with_reducible assumption
    | with_reducible exact Keeps.refl _
    | with_reducible apply keeps_bump
    | with_reducible apply keeps_raise
    | with_reducible apply keeps_cutOpen
    | fail_if_no_progress (with_reducible apply keeps_mk <;> first | exact .inl Fact.out | with_reducible exact .inr rfl | with_reducible rfl | skip)
    | with_reducible apply keeps_each
    | with_reducible apply keeps_foldl
    | split
    | intro _
    | (extract_lets +onlyGivenNames x; refine keeps_cut (x := x) ?_ ?_; on_goal 2 => clear_value x)
    | extract_lets +onlyGivenNames y)

theorem keeps_execCutInstant [Fact (P .chs)] [Fact (P .ctxs)] [Fact (P .fab)] [Fact (P .fb)] [Fact (P .free)] [Fact (P .frs)] [Fact (P .gfps)] [Fact (P .grps)] [Fact (P .lanes)] [Fact (P .led)] [Fact (P .pairs)] [Fact (P .pw)] [Fact (P .regs)] [Fact (P .rxs)] [Fact (P .sys)] [Fact (P .tm)] [Fact (P .txs)]  (s : State) : Outs P s (execCutInstant s) := by
  unfold execCutInstant
  apply outs_next
  repeat' (first
    | with_reducible assumption
    | with_reducible exact Keeps.refl _
    | with_reducible apply keeps_advance
    | with_reducible apply keeps_cutAt
    | fail_if_no_progress (with_reducible apply keeps_mk <;> first | exact .inl Fact.out | with_reducible exact .inr rfl | with_reducible rfl | skip)
    | with_reducible apply keeps_each
    | with_reducible apply keeps_foldl
    | split)

theorem keeps_cutStep [Fact (P .chs)] [Fact (P .ctxs)] [Fact (P .fab)] [Fact (P .fb)] [Fact (P .free)] [Fact (P .frs)] [Fact (P .gfps)] [Fact (P .grps)] [Fact (P .lanes)] [Fact (P .led)] [Fact (P .pairs)] [Fact (P .pw)] [Fact (P .regs)] [Fact (P .rxs)] [Fact (P .sys)] [Fact (P .txs)] {s₀ s : State} (old : Nat) (hk : Keeps P s₀ s) : Keeps P s₀ (State.cutStep s old) := by
  unfold State.cutStep
  repeat' (first
    | with_reducible assumption
    | with_reducible exact Keeps.refl _
    | with_reducible apply keeps_cutAt
    | fail_if_no_progress (with_reducible apply keeps_mk <;> first | exact .inl Fact.out | with_reducible exact .inr rfl | with_reducible rfl | skip)
    | with_reducible apply keeps_each
    | with_reducible apply keeps_foldl
    | split)

theorem keeps_cutMark [Fact (P .free)] [Fact (P .led)] [Fact (P .ny)] [Fact (P .regs)] {s₀ s : State} (m : Nat) (hk : Keeps P s₀ s) : Keeps P s₀ (State.cutMark s m) := by
  unfold State.cutMark
  repeat' (first
    | with_reducible assumption
    | with_reducible exact Keeps.refl _
    | with_reducible apply keeps_ledClose
    | fail_if_no_progress (with_reducible apply keeps_mk <;> first | exact .inl Fact.out | with_reducible exact .inr rfl | with_reducible rfl | skip)
    | with_reducible apply keeps_each
    | with_reducible apply keeps_foldl
    | split
    | intro _
    | (extract_lets +onlyGivenNames x; refine keeps_cut (x := x) ?_ ?_; on_goal 2 => clear_value x)
    | extract_lets +onlyGivenNames y)

theorem keeps_execCutMarker [Fact (P .free)] [Fact (P .led)] [Fact (P .ny)] [Fact (P .regs)] (m : Fin 6) (s : State) : Outs P s (execCutMarker m s) := by
  unfold execCutMarker
  apply outs_next
  repeat' (first
    | with_reducible assumption
    | with_reducible exact Keeps.refl _
    | with_reducible apply keeps_cutMark
    | fail_if_no_progress (with_reducible apply keeps_mk <;> first | exact .inl Fact.out | with_reducible exact .inr rfl | with_reducible rfl | skip)
    | with_reducible apply keeps_each
    | with_reducible apply keeps_foldl
    | split)

theorem keeps_execCutWindowTimeout [Fact (P .free)] [Fact (P .led)] [Fact (P .ny)] [Fact (P .regs)] [Fact (P .tm)]  (s : State) : Outs P s (execCutWindowTimeout s) := by
  unfold execCutWindowTimeout
  apply outs_next
  repeat' (first
    | with_reducible assumption
    | with_reducible exact Keeps.refl _
    | with_reducible apply keeps_advanceTo
    | with_reducible apply keeps_ledClose
    | fail_if_no_progress (with_reducible apply keeps_mk <;> first | exact .inl Fact.out | with_reducible exact .inr rfl | with_reducible rfl | skip)
    | with_reducible apply keeps_each
    | with_reducible apply keeps_foldl
    | split)

theorem keeps_execLedgerRecordWrite [Fact (P .cu)] [Fact (P .fab)] [Fact (P .led)] [Fact (P .regs)]  (s : State) : Outs P s (execLedgerRecordWrite s) := by
  unfold execLedgerRecordWrite
  apply outs_next
  repeat' (first
    | with_reducible assumption
    | with_reducible exact Keeps.refl _
    | with_reducible apply keeps_cuStream
    | with_reducible apply keeps_hostWrite
    | fail_if_no_progress (with_reducible apply keeps_mk <;> first | exact .inl Fact.out | with_reducible exact .inr rfl | with_reducible rfl | skip)
    | with_reducible apply keeps_each
    | with_reducible apply keeps_foldl
    | split)

theorem keeps_recordDone [Fact (P .led)] [Fact (P .ny)] [Fact (P .regs)] {s₀ s : State} (i : Nat) (hk : Keeps P s₀ s) : Keeps P s₀ (State.recordDone s i) := by
  unfold State.recordDone
  repeat' (first
    | with_reducible assumption
    | with_reducible exact Keeps.refl _
    | with_reducible apply keeps_wr
    | with_reducible apply keeps_refreshSlots
    | with_reducible apply keeps_raise
    | with_reducible apply keeps_bgDone
    | fail_if_no_progress (with_reducible apply keeps_mk <;> first | exact .inl Fact.out | with_reducible exact .inr rfl | with_reducible rfl | skip)
    | with_reducible apply keeps_each
    | with_reducible apply keeps_foldl
    | split
    | intro _
    | (extract_lets +onlyGivenNames x; refine keeps_cut (x := x) ?_ ?_; on_goal 2 => clear_value x)
    | extract_lets +onlyGivenNames y)

theorem keeps_execLedgerRecordResponse [Fact (P .fab)] [Fact (P .led)] [Fact (P .ny)] [Fact (P .regs)] [Fact (P .sp)]  (s : State) : Outs P s (execLedgerRecordResponse s) := by
  unfold execLedgerRecordResponse
  apply outs_next
  repeat' (first
    | with_reducible assumption
    | with_reducible exact Keeps.refl _
    | with_reducible apply keeps_okay
    | with_reducible apply keeps_recordDone
    | with_reducible apply keeps_raise
    | with_reducible refine keeps_response (by assumption) ?_
    | fail_if_no_progress (with_reducible apply keeps_mk <;> first | exact .inl Fact.out | with_reducible exact .inr rfl | with_reducible rfl | skip)
    | with_reducible apply keeps_each
    | with_reducible apply keeps_foldl
    | split)

theorem keeps_lgReject [Fact (P .regs)] {s₀ s : State}  (hk : Keeps P s₀ s) : Keeps P s₀ (State.lgReject s) := by
  unfold State.lgReject
  repeat' (first
    | with_reducible assumption
    | with_reducible exact Keeps.refl _
    | with_reducible apply keeps_bump)

theorem keeps_lgCi [Fact (P .regs)] {s₀ s : State} (v : Nat) (hk : Keeps P s₀ s) : Keeps P s₀ (State.lgCi s v) := by
  unfold State.lgCi
  repeat' (first
    | with_reducible assumption
    | with_reducible exact Keeps.refl _
    | with_reducible apply keeps_lgReject
    | with_reducible apply keeps_wr
    | fail_if_no_progress (with_reducible apply keeps_mk <;> first | exact .inl Fact.out | with_reducible exact .inr rfl | with_reducible rfl | skip)
    | with_reducible apply keeps_each
    | with_reducible apply keeps_foldl
    | split
    | intro _
    | (extract_lets +onlyGivenNames x; refine keeps_cut (x := x) ?_ ?_; on_goal 2 => clear_value x)
    | extract_lets +onlyGivenNames y)

theorem keeps_execLgCiWrite [Fact (P .fab)] [Fact (P .regs)] [Fact (P .sp)] (w : Who) (v : Word) (s : State) : Outs P s (execLgCiWrite w v s) := by
  unfold execLgCiWrite
  apply outs_next
  repeat' (first
    | with_reducible assumption
    | with_reducible exact Keeps.refl _
    | with_reducible apply keeps_guardWrite
    | with_reducible apply keeps_lgCi
    | fail_if_no_progress (with_reducible apply keeps_mk <;> first | exact .inl Fact.out | with_reducible exact .inr rfl | with_reducible rfl | skip)
    | with_reducible apply keeps_each
    | with_reducible apply keeps_foldl
    | split
    | intro _)

theorem keeps_forgetRecords [Fact (P .fab)] {s₀ s : State}  (hk : Keeps P s₀ s) : Keeps P s₀ (State.forgetRecords s) := by
  unfold State.forgetRecords
  repeat' (first
    | with_reducible assumption
    | with_reducible exact Keeps.refl _
    | fail_if_no_progress (with_reducible apply keeps_mk <;> first | exact .inl Fact.out | with_reducible exact .inr rfl | with_reducible rfl | skip))

theorem keeps_lgRingCfg [Fact (P .fab)] [Fact (P .led)] [Fact (P .regs)] {s₀ s : State} (v : Nat) (hk : Keeps P s₀ s) : Keeps P s₀ (State.lgRingCfg s v) := by
  unfold State.lgRingCfg
  repeat' (first
    | with_reducible assumption
    | with_reducible exact Keeps.refl _
    | with_reducible apply keeps_wr
    | with_reducible apply keeps_lgReject
    | with_reducible apply keeps_raise
    | with_reducible apply keeps_forgetRecords
    | fail_if_no_progress (with_reducible apply keeps_mk <;> first | exact .inl Fact.out | with_reducible exact .inr rfl | with_reducible rfl | skip)
    | with_reducible apply keeps_each
    | with_reducible apply keeps_foldl
    | split
    | intro _
    | (extract_lets +onlyGivenNames x; refine keeps_cut (x := x) ?_ ?_; on_goal 2 => clear_value x)
    | extract_lets +onlyGivenNames y)

theorem keeps_execLgRingEnable [Fact (P .fab)] [Fact (P .led)] [Fact (P .regs)] [Fact (P .sp)] (w : Who) (v : Word) (s : State) : Outs P s (execLgRingEnable w v s) := by
  unfold execLgRingEnable
  apply outs_next
  repeat' (first
    | with_reducible assumption
    | with_reducible exact Keeps.refl _
    | with_reducible apply keeps_guardWrite
    | with_reducible apply keeps_lgRingCfg
    | fail_if_no_progress (with_reducible apply keeps_mk <;> first | exact .inl Fact.out | with_reducible exact .inr rfl | with_reducible rfl | skip)
    | with_reducible apply keeps_each
    | with_reducible apply keeps_foldl
    | split
    | intro _)

theorem keeps_lgWrite [Fact (P .fab)] [Fact (P .free)] [Fact (P .led)] [Fact (P .regs)] {s₀ s : State} (off v : Nat) (hk : Keeps P s₀ s) : Keeps P s₀ (State.lgWrite s off v) := by
  unfold State.lgWrite
  repeat' (first
    | with_reducible assumption
    | with_reducible exact Keeps.refl _
    | with_reducible apply keeps_lgReject
    | with_reducible apply keeps_writePlain
    | with_reducible apply keeps_lgRingCfg
    | with_reducible apply keeps_lgCi
    | with_reducible apply keeps_ledCheck
    | fail_if_no_progress (with_reducible apply keeps_mk <;> first | exact .inl Fact.out | with_reducible exact .inr rfl | with_reducible rfl | skip)
    | with_reducible apply keeps_each
    | with_reducible apply keeps_foldl
    | split)

end Sys2Proof.Laws
end

