-- ==== Sys2Proof/Laws/KeepsClockwork.lean ====
section
/-! SUPPORT. What the operations of Clockwork.lean keep. -/

namespace Sys2Proof.Laws

open Sys2Proof.Machine

variable {P : Part → Prop}

theorem keeps_stepTaken [Fact (P .chs)] [Fact (P .ctxs)] [Fact (P .fab)] [Fact (P .fb)] [Fact (P .free)] [Fact (P .frs)] [Fact (P .gfps)] [Fact (P .grps)] [Fact (P .lanes)] [Fact (P .led)] [Fact (P .ny)] [Fact (P .pairs)] [Fact (P .pw)] [Fact (P .regs)] [Fact (P .rxs)] [Fact (P .sys)] [Fact (P .tm)] [Fact (P .txs)] {s₀ s : State} (p : TmStep) (hk : Keeps P s₀ s) : Keeps P s₀ (State.stepTaken s p) := by
  unfold State.stepTaken
  repeat' (first
    | with_reducible assumption
    | with_reducible exact Keeps.refl _
    | with_reducible apply keeps_stepEffect
    | with_reducible apply keeps_cutStep
    | with_reducible apply keeps_secLatch
    | fail_if_no_progress (with_reducible apply keeps_mk <;> first | exact .inl Fact.out | with_reducible exact .inr rfl | with_reducible rfl | skip)
    | with_reducible apply keeps_each
    | with_reducible apply keeps_foldl
    | split
    | intro _
    | (extract_lets +onlyGivenNames x; refine keeps_cut (x := x) ?_ ?_; on_goal 2 => clear_value x)
    | extract_lets +onlyGivenNames y)

theorem keeps_execRealignmentBoundary [Fact (P .chs)] [Fact (P .ctxs)] [Fact (P .fab)] [Fact (P .fb)] [Fact (P .free)] [Fact (P .frs)] [Fact (P .gfps)] [Fact (P .grps)] [Fact (P .lanes)] [Fact (P .led)] [Fact (P .ny)] [Fact (P .pairs)] [Fact (P .pw)] [Fact (P .regs)] [Fact (P .rxs)] [Fact (P .sys)] [Fact (P .tm)] [Fact (P .txs)]  (s : State) : Outs P s (execRealignmentBoundary s) := by
  unfold execRealignmentBoundary
  apply outs_next
  repeat' (first
    | with_reducible assumption
    | with_reducible exact Keeps.refl _
    | with_reducible apply keeps_advance
    | with_reducible apply keeps_timeBreak
    | with_reducible apply keeps_stepTaken
    | fail_if_no_progress (with_reducible apply keeps_mk <;> first | exact .inl Fact.out | with_reducible exact .inr rfl | with_reducible rfl | skip)
    | with_reducible apply keeps_each
    | with_reducible apply keeps_foldl
    | split
    | intro _
    | (extract_lets +onlyGivenNames x; refine keeps_cut (x := x) ?_ ?_; on_goal 2 => clear_value x)
    | extract_lets +onlyGivenNames y)

end Sys2Proof.Laws
end

