-- ==== Sys2Proof/Laws/KeepsService.lean ====
section
/-! SUPPORT. What the operations of Service.lean keep. -/

namespace Sys2Proof.Laws

open Sys2Proof.Machine

set_option Elab.async false

variable {P : Part → Prop}

theorem keeps_svRefuse [Fact (P .free)] [Fact (P .ny)] [Fact (P .regs)] {s₀ s : State} (op st : Nat) (hk : Keeps P s₀ s) : Keeps P s₀ (State.svRefuse s op st) := by
  unfold State.svRefuse
  repeat' (first
    | with_reducible assumption
    | with_reducible exact Keeps.refl _
    | with_reducible apply keeps_wr
    | with_reducible apply keeps_raise
    | with_reducible apply keeps_postOpen
    | fail_if_no_progress (with_reducible apply keeps_mk <;> first | exact .inl Fact.out | with_reducible exact .inr rfl | with_reducible rfl | skip)
    | with_reducible apply keeps_each
    | with_reducible apply keeps_foldl
    | split)

theorem keeps_checkpoint [Fact (P .sv)] [Fact (P .tm)] {s₀ s : State} (p : Nat) (hk : Keeps P s₀ s) : Keeps P s₀ (State.checkpoint s p) := by
  unfold State.checkpoint
  repeat' (first
    | with_reducible assumption
    | with_reducible exact Keeps.refl _
    | with_reducible apply keeps_keep
    | fail_if_no_progress (with_reducible apply keeps_mk <;> first | exact .inl Fact.out | with_reducible exact .inr rfl | with_reducible rfl | skip))

theorem keeps_execSvCheckpoint [Fact (P .regs)] [Fact (P .sv)] [Fact (P .tm)] (i : Fin 4) (unc : Bool) (s : State) : Outs P s (execSvCheckpoint i unc s) := by
  unfold execSvCheckpoint
  apply outs_next
  repeat' (first
    | with_reducible assumption
    | with_reducible exact Keeps.refl _
    | with_reducible apply keeps_advanceTo
    | with_reducible apply keeps_checkpoint
    | with_reducible apply keeps_crossed
    | with_reducible apply keeps_memFault
    | fail_if_no_progress (with_reducible apply keeps_mk <;> first | exact .inl Fact.out | with_reducible exact .inr rfl | with_reducible rfl | skip)
    | with_reducible apply keeps_each
    | with_reducible apply keeps_foldl
    | split)

theorem keeps_mirrorBack [Fact (P .chs)] [Fact (P .regs)] [Fact (P .transit)] {s₀ s : State} (p : Nat) (hk : Keeps P s₀ s) : Keeps P s₀ (State.mirrorBack s p) := by
  have k : ∀ tr l, Keeps P s₀ { s with
      flds := List.foldl (fun m (e : Nat × Nat) => mapSet fieldReset m e.1 e.2) (s.flds.filter (fun e => !portStat p e.1)) l, transit := tr } :=
    fun tr l => keeps_step (s := s) (fun p q => by cases p <;> first | rfl | exact absurd Fact.out q)
      (fun w => ⟨fldsWf_foldl l (mapWf_filter _ w.1), w.2⟩) rfl (le_refl _) (le_refl _) hk
  unfold State.mirrorBack
  refine keeps_raise _ (keeps_each (fun t a h => ?_) (k _ _))
  exact keeps_setCh _ _ (keeps_wr _ _ (keeps_wr _ _ (keeps_wr _ _ h)))

theorem keeps_moveSlice [Fact (P .regs)] {s₀ s : State} (p a b : Nat) (hk : Keeps P s₀ s) : Keeps P s₀ (State.moveSlice s p a b) := by
  unfold State.moveSlice
  repeat' (first
    | with_reducible assumption
    | with_reducible exact Keeps.refl _
    | with_reducible apply keeps_wr)

theorem keeps_rxLost [Fact (P .chs)] [Fact (P .fb)] [Fact (P .free)] [Fact (P .led)] [Fact (P .meters)] [Fact (P .regs)] [Fact (P .ring)] [Fact (P .rxs)] [Fact (P .sys)] [Fact (P .tbl)] [Fact (P .txs)] {s₀ s : State} (mid : Bool) (id : Nat) (hk : Keeps P s₀ s) : Keeps P s₀ (State.rxLost s mid id) := by
  unfold State.rxLost
  repeat' (first
    | with_reducible assumption
    | with_reducible exact Keeps.refl _
    | with_reducible apply keeps_rxEntry
    | with_reducible apply keeps_rxDrop
    | with_reducible apply keeps_delRx
    | fail_if_no_progress (with_reducible apply keeps_mk <;> first | exact .inl Fact.out | with_reducible exact .inr rfl | with_reducible rfl | skip)
    | with_reducible apply keeps_each
    | with_reducible apply keeps_foldl
    | split
    | intro _
    | (extract_lets +onlyGivenNames x; refine keeps_cut (x := x) ?_ ?_; on_goal 2 => clear_value x)
    | extract_lets +onlyGivenNames y)

theorem keeps_lineLost [Fact (P .chs)] [Fact (P .fb)] [Fact (P .free)] [Fact (P .led)] [Fact (P .qs)] [Fact (P .regs)] [Fact (P .sys)] [Fact (P .txs)] {s₀ s : State} (c : Nat) (hk : Keeps P s₀ s) : Keeps P s₀ (State.lineLost s c) := by
  unfold State.lineLost
  repeat' (first
    | with_reducible assumption
    | with_reducible exact Keeps.refl _
    | with_reducible apply keeps_txDrop
    | with_reducible apply keeps_setCh
    | with_reducible apply keeps_refreshStaged
    | fail_if_no_progress (with_reducible apply keeps_mk <;> first | exact .inl Fact.out | with_reducible exact .inr rfl | with_reducible rfl | skip)
    | with_reducible apply keeps_each
    | with_reducible apply keeps_foldl
    | split)

theorem keeps_evacForced [Fact (P .chs)] [Fact (P .fb)] [Fact (P .free)] [Fact (P .frs)] [Fact (P .gfps)] [Fact (P .grps)] [Fact (P .led)] [Fact (P .meters)] [Fact (P .pairs)] [Fact (P .qs)] [Fact (P .regs)] [Fact (P .ring)] [Fact (P .rxs)] [Fact (P .sys)] [Fact (P .tbl)] [Fact (P .txs)] {s₀ s : State} (p : Nat) (mid : Option (Fin 32)) (hk : Keeps P s₀ s) : Keeps P s₀ (State.evacForced s p mid) := by
  unfold State.evacForced
  repeat' (first
    | with_reducible assumption
    | with_reducible exact Keeps.refl _
    | with_reducible apply keeps_stage
    | with_reducible apply keeps_each
    | with_reducible apply keeps_rxLost
    | with_reducible apply keeps_dropStaged
    | with_reducible apply keeps_lineLost
    | with_reducible apply keeps_moveSlice
    | with_reducible apply keeps_raise
    | with_reducible apply keeps_wr
    | with_reducible apply keeps_setFr
    | with_reducible apply keeps_frLeave
    | with_reducible apply keeps_chanLeave
    | with_reducible apply keeps_setGrp
    | with_reducible apply keeps_portRefresh
    | fail_if_no_progress (with_reducible apply keeps_mk <;> first | exact .inl Fact.out | with_reducible exact .inr rfl | with_reducible rfl | skip)
    | with_reducible apply keeps_each
    | with_reducible apply keeps_foldl
    | split
    | intro _
    | (extract_lets +onlyGivenNames x; refine keeps_cut (x := x) ?_ ?_; on_goal 2 => clear_value x)
    | extract_lets +onlyGivenNames y)

theorem keeps_svBegin [Fact (P .regs)] [Fact (P .sv)] {s₀ s : State} (op a : Nat) (force : Bool) (step : Nat) (hk : Keeps P s₀ s) : Keeps P s₀ (State.svBegin s op a force step) := by
  unfold State.svBegin
  repeat' (first
    | with_reducible assumption
    | with_reducible exact Keeps.refl _
    | with_reducible apply keeps_raise
    | with_reducible apply keeps_wr
    | fail_if_no_progress (with_reducible apply keeps_mk <;> first | exact .inl Fact.out | with_reducible exact .inr rfl | with_reducible rfl | skip))

theorem keeps_evacBegin [Fact (P .chs)] [Fact (P .fb)] [Fact (P .free)] [Fact (P .frs)] [Fact (P .gfps)] [Fact (P .grps)] [Fact (P .lanes)] [Fact (P .led)] [Fact (P .meters)] [Fact (P .pairs)] [Fact (P .qs)] [Fact (P .regs)] [Fact (P .ring)] [Fact (P .rxs)] [Fact (P .spares)] [Fact (P .sv)] [Fact (P .sys)] [Fact (P .tbl)] [Fact (P .txs)] {s₀ s : State} (op p : Nat) (force : Bool) (mid : Option (Fin 32)) (hk : Keeps P s₀ s) : Keeps P s₀ (State.evacBegin s op p force mid) := by
  unfold State.evacBegin
  repeat' (first
    | with_reducible assumption
    | with_reducible exact Keeps.refl _
    | with_reducible apply keeps_svBegin
    | with_reducible apply keeps_wr
    | with_reducible apply keeps_spareEvac
    | with_reducible apply keeps_evacForced
    | fail_if_no_progress (with_reducible apply keeps_mk <;> first | exact .inl Fact.out | with_reducible exact .inr rfl | with_reducible rfl | skip)
    | with_reducible apply keeps_each
    | with_reducible apply keeps_foldl
    | split)

theorem keeps_svStep [Fact (P .sv)] {s₀ s : State} (n : Nat) (hk : Keeps P s₀ s) : Keeps P s₀ (State.svStep s n) := by
  unfold State.svStep
  repeat' (first
    | with_reducible assumption
    | with_reducible exact Keeps.refl _
    | fail_if_no_progress (with_reducible apply keeps_mk <;> first | exact .inl Fact.out | with_reducible exact .inr rfl | with_reducible rfl | skip))

theorem keeps_execEvacCopyDone [Fact (P .chs)] [Fact (P .fab)] [Fact (P .regs)] [Fact (P .sv)] [Fact (P .transit)]  (s : State) : Outs P s (execEvacCopyDone s) := by
  unfold execEvacCopyDone
  apply outs_next
  repeat' (first
    | with_reducible assumption
    | with_reducible exact Keeps.refl _
    | with_reducible apply keeps_mirrorBack
    | with_reducible apply keeps_svEnd
    | with_reducible apply keeps_svStep
    | fail_if_no_progress (with_reducible apply keeps_mk <;> first | exact .inl Fact.out | with_reducible exact .inr rfl | with_reducible rfl | skip)
    | with_reducible apply keeps_each
    | with_reducible apply keeps_foldl
    | split)

theorem keeps_execEvacRxReady [Fact (P .regs)] [Fact (P .sv)] [Fact (P .tm)]  (s : State) : Outs P s (execEvacRxReady s) := by
  unfold execEvacRxReady
  apply outs_next
  repeat' (first
    | with_reducible assumption
    | with_reducible exact Keeps.refl _
    | with_reducible apply keeps_advance
    | with_reducible apply keeps_wr
    | with_reducible apply keeps_svStep
    | fail_if_no_progress (with_reducible apply keeps_mk <;> first | exact .inl Fact.out | with_reducible exact .inr rfl | with_reducible rfl | skip)
    | with_reducible apply keeps_each
    | with_reducible apply keeps_foldl
    | split)

theorem keeps_execEvacRxSwitch [Fact (P .regs)] [Fact (P .sv)] [Fact (P .tm)]  (s : State) : Outs P s (execEvacRxSwitch s) := by
  unfold execEvacRxSwitch
  apply outs_next
  repeat' (first
    | with_reducible assumption
    | with_reducible exact Keeps.refl _
    | with_reducible apply keeps_advanceTo
    | with_reducible apply keeps_svStep
    | fail_if_no_progress (with_reducible apply keeps_mk <;> first | exact .inl Fact.out | with_reducible exact .inr rfl | with_reducible rfl | skip)
    | with_reducible apply keeps_each
    | with_reducible apply keeps_foldl
    | split)

theorem keeps_execEvacDrainDone [Fact (P .sv)]  (s : State) : Outs P s (execEvacDrainDone s) := by
  unfold execEvacDrainDone
  apply outs_next
  repeat' (first
    | with_reducible assumption
    | with_reducible exact Keeps.refl _
    | with_reducible apply keeps_svStep
    | fail_if_no_progress (with_reducible apply keeps_mk <;> first | exact .inl Fact.out | with_reducible exact .inr rfl | with_reducible rfl | skip)
    | with_reducible apply keeps_each
    | with_reducible apply keeps_foldl
    | split)

theorem keeps_execEvacDrainTimeout [Fact (P .chs)] [Fact (P .fb)] [Fact (P .free)] [Fact (P .led)] [Fact (P .qs)] [Fact (P .regs)] [Fact (P .sv)] [Fact (P .sys)] [Fact (P .tm)] [Fact (P .txs)]  (s : State) : Outs P s (execEvacDrainTimeout s) := by
  unfold execEvacDrainTimeout
  apply outs_next
  repeat' (first
    | with_reducible assumption
    | with_reducible exact Keeps.refl _
    | with_reducible apply keeps_advanceTo
    | with_reducible apply keeps_each
    | with_reducible apply keeps_dropStaged
    | with_reducible apply keeps_svStep
    | fail_if_no_progress (with_reducible apply keeps_mk <;> first | exact .inl Fact.out | with_reducible exact .inr rfl | with_reducible rfl | skip)
    | with_reducible apply keeps_each
    | with_reducible apply keeps_foldl
    | split
    | intro _
    | (extract_lets +onlyGivenNames x; refine keeps_cut (x := x) ?_ ?_; on_goal 2 => clear_value x))

theorem keeps_evacControl [Fact (P .chs)] {s₀ s : State} (p : Nat) (hk : Keeps P s₀ s) : Keeps P s₀ (State.evacControl s p) := by
  unfold State.evacControl
  repeat' (first
    | with_reducible assumption
    | with_reducible exact Keeps.refl _
    | with_reducible apply keeps_each
    | with_reducible apply keeps_setCh
    | fail_if_no_progress (with_reducible apply keeps_mk <;> first | exact .inl Fact.out | with_reducible exact .inr rfl | with_reducible rfl | skip)
    | with_reducible apply keeps_each
    | with_reducible apply keeps_foldl
    | split
    | intro _
    | (extract_lets +onlyGivenNames x; refine keeps_cut (x := x) ?_ ?_; on_goal 2 => clear_value x)
    | extract_lets +onlyGivenNames y)

theorem keeps_evacSwitch [Fact (P .chs)] [Fact (P .fab)] [Fact (P .regs)] [Fact (P .sv)] {s₀ s : State}  (hk : Keeps P s₀ s) : Keeps P s₀ (State.evacSwitch s) := by
  unfold State.evacSwitch
  repeat' (first
    | with_reducible assumption
    | with_reducible exact Keeps.refl _
    | with_reducible apply keeps_moveSlice
    | with_reducible apply keeps_raise
    | with_reducible apply keeps_wr
    | with_reducible apply keeps_svEnd
    | with_reducible apply keeps_evacControl
    | fail_if_no_progress (with_reducible apply keeps_mk <;> first | exact .inl Fact.out | with_reducible exact .inr rfl | with_reducible rfl | skip)
    | with_reducible apply keeps_each
    | with_reducible apply keeps_foldl
    | split)

theorem keeps_execEvacLockstepCompare [Fact (P .chs)] [Fact (P .fab)] [Fact (P .regs)] [Fact (P .sv)] (equal : Bool) (s : State) : Outs P s (execEvacLockstepCompare equal s) := by
  unfold execEvacLockstepCompare
  apply outs_next
  repeat' (first
    | with_reducible assumption
    | with_reducible exact Keeps.refl _
    | with_reducible apply keeps_evacSwitch
    | with_reducible apply keeps_bump
    | fail_if_no_progress (with_reducible apply keeps_mk <;> first | exact .inl Fact.out | with_reducible exact .inr rfl | with_reducible rfl | skip)
    | with_reducible apply keeps_each
    | with_reducible apply keeps_foldl
    | split)

theorem keeps_fabRaise [Fact (P .fab)] {s₀ s : State} (x : Nat) (hk : Keeps P s₀ s) : Keeps P s₀ (State.fabRaise s x) := by
  unfold State.fabRaise
  repeat' (first
    | with_reducible assumption
    | with_reducible exact Keeps.refl _
    | fail_if_no_progress (with_reducible apply keeps_mk <;> first | exact .inl Fact.out | with_reducible exact .inr rfl | with_reducible rfl | skip))

theorem keeps_execFabSpareSwitch [Fact (P .fab)] [Fact (P .regs)] [Fact (P .sv)]  (s : State) : Outs P s (execFabSpareSwitch s) := by
  unfold execFabSpareSwitch
  apply outs_next
  repeat' (first
    | with_reducible assumption
    | with_reducible exact Keeps.refl _
    | with_reducible apply keeps_fabRaise
    | with_reducible apply keeps_put
    | with_reducible apply keeps_wr
    | with_reducible apply keeps_svEnd
    | with_reducible apply keeps_pump
    | fail_if_no_progress (with_reducible apply keeps_mk <;> first | exact .inl Fact.out | with_reducible exact .inr rfl | with_reducible rfl | skip)
    | with_reducible apply keeps_each
    | with_reducible apply keeps_foldl
    | split)

theorem keeps_tblRemap [Fact (P .fab)] {s₀ s : State} (a b : Nat) (hk : Keeps P s₀ s) : Keeps P s₀ (State.tblRemap s a b) := by
  unfold State.tblRemap
  repeat' (first
    | with_reducible assumption
    | with_reducible exact Keeps.refl _
    | fail_if_no_progress (with_reducible apply keeps_mk <;> first | exact .inl Fact.out | with_reducible exact .inr rfl | with_reducible rfl | skip))

theorem keeps_tblEnd [Fact (P .fab)] [Fact (P .regs)] [Fact (P .sv)] {s₀ s : State}  (hk : Keeps P s₀ s) : Keeps P s₀ (State.tblEnd s) := by
  unfold State.tblEnd
  repeat' (first
    | with_reducible assumption
    | with_reducible exact Keeps.refl _
    | with_reducible apply keeps_put
    | with_reducible apply keeps_wr
    | with_reducible apply keeps_svEnd
    | fail_if_no_progress (with_reducible apply keeps_mk <;> first | exact .inl Fact.out | with_reducible exact .inr rfl | with_reducible rfl | skip)
    | with_reducible apply keeps_each
    | with_reducible apply keeps_foldl
    | split
    | intro _
    | (extract_lets +onlyGivenNames x; refine keeps_cut (x := x) ?_ ?_; on_goal 2 => clear_value x)
    | extract_lets +onlyGivenNames y)

theorem keeps_tblMove [Fact (P .fab)] [Fact (P .regs)] [Fact (P .sv)] {s₀ s : State}  (hk : Keeps P s₀ s) : Keeps P s₀ (State.tblMove s) := by
  unfold State.tblMove
  repeat' (first
    | with_reducible assumption
    | with_reducible exact Keeps.refl _
    | with_reducible apply keeps_svStep
    | with_reducible apply keeps_tblRemap
    | with_reducible apply keeps_pump
    | with_reducible apply keeps_tblEnd)

theorem keeps_execTblSpareSwitch [Fact (P .fab)] [Fact (P .regs)] [Fact (P .sv)]  (s : State) : Outs P s (execTblSpareSwitch s) := by
  unfold execTblSpareSwitch
  apply outs_next
  repeat' (first
    | with_reducible assumption
    | with_reducible exact Keeps.refl _
    | with_reducible apply keeps_tblEnd
    | with_reducible apply keeps_tblMove
    | fail_if_no_progress (with_reducible apply keeps_mk <;> first | exact .inl Fact.out | with_reducible exact .inr rfl | with_reducible rfl | skip)
    | with_reducible apply keeps_each
    | with_reducible apply keeps_foldl
    | split)

theorem keeps_tblCopy [Fact (P .fab)] [Fact (P .regs)] [Fact (P .sv)] {s₀ s : State} (op c : Nat) (hk : Keeps P s₀ s) : Keeps P s₀ (State.tblCopy s op c) := by
  unfold State.tblCopy
  repeat' (first
    | with_reducible assumption
    | with_reducible exact Keeps.refl _
    | with_reducible apply keeps_svBegin
    | with_reducible apply keeps_wr
    | with_reducible apply keeps_copyNextRead
    | fail_if_no_progress (with_reducible apply keeps_mk <;> first | exact .inl Fact.out | with_reducible exact .inr rfl | with_reducible rfl | skip))

theorem keeps_tblRaise [Fact (P .fab)] {s₀ s : State} (c : Nat) (hk : Keeps P s₀ s) : Keeps P s₀ (State.tblRaise s c) := by
  unfold State.tblRaise
  repeat' (first
    | with_reducible assumption
    | with_reducible exact Keeps.refl _
    | fail_if_no_progress (with_reducible apply keeps_mk <;> first | exact .inl Fact.out | with_reducible exact .inr rfl | with_reducible rfl | skip))

theorem keeps_tblForced [Fact (P .fab)] [Fact (P .regs)] [Fact (P .sv)] {s₀ s : State} (c : Nat) (hk : Keeps P s₀ s) : Keeps P s₀ (State.tblForced s c) := by
  unfold State.tblForced
  repeat' (first
    | with_reducible assumption
    | with_reducible exact Keeps.refl _
    | with_reducible apply keeps_svBegin
    | with_reducible apply keeps_tblMove
    | fail_if_no_progress (with_reducible apply keeps_mk <;> first | exact .inl Fact.out | with_reducible exact .inr rfl | with_reducible rfl | skip))

theorem keeps_execRowRepairSwitch [Fact (P .regs)] [Fact (P .sv)]  (s : State) : Outs P s (execRowRepairSwitch s) := by
  unfold execRowRepairSwitch
  apply outs_next
  repeat' (first
    | with_reducible assumption
    | with_reducible exact Keeps.refl _
    | with_reducible apply keeps_wr
    | with_reducible apply keeps_raise
    | fail_if_no_progress (with_reducible apply keeps_mk <;> first | exact .inl Fact.out | with_reducible exact .inr rfl | with_reducible rfl | skip)
    | with_reducible apply keeps_each
    | with_reducible apply keeps_foldl
    | split)

theorem keeps_execSliceTestDone [Fact (P .fab)] [Fact (P .regs)] [Fact (P .sv)] [Fact (P .sys)] [Fact (P .tm)] (ok : Bool) (s : State) : Outs P s (execSliceTestDone ok s) := by
  unfold execSliceTestDone
  apply outs_next
  repeat' (first
    | with_reducible assumption
    | with_reducible exact Keeps.refl _
    | with_reducible apply keeps_advanceTo
    | with_reducible apply keeps_svEnd
    | fail_if_no_progress (with_reducible apply keeps_mk <;> first | exact .inl Fact.out | with_reducible exact .inr rfl | with_reducible rfl | skip)
    | with_reducible apply keeps_each
    | with_reducible apply keeps_foldl
    | split
    | intro _
    | (extract_lets +onlyGivenNames x; refine keeps_cut (x := x) ?_ ?_; on_goal 2 => clear_value x)
    | extract_lets +onlyGivenNames y)

theorem keeps_svAbort [Fact (P .fab)] [Fact (P .regs)] [Fact (P .sv)] {s₀ s : State}  (hk : Keeps P s₀ s) : Keeps P s₀ (State.svAbort s) := by
  unfold State.svAbort
  repeat' (first
    | with_reducible assumption
    | with_reducible exact Keeps.refl _
    | with_reducible apply keeps_svEnd
    | with_reducible apply keeps_raise
    | with_reducible apply keeps_pump
    | with_reducible apply keeps_bump
    | fail_if_no_progress (with_reducible apply keeps_mk <;> first | exact .inl Fact.out | with_reducible exact .inr rfl | with_reducible rfl | skip)
    | with_reducible apply keeps_each
    | with_reducible apply keeps_foldl
    | split)

theorem keeps_svStart [Fact (P .chs)] [Fact (P .fab)] [Fact (P .fb)] [Fact (P .free)] [Fact (P .frs)] [Fact (P .gfps)] [Fact (P .grps)] [Fact (P .lanes)] [Fact (P .led)] [Fact (P .meters)] [Fact (P .pairs)] [Fact (P .qs)] [Fact (P .regs)] [Fact (P .ring)] [Fact (P .rxs)] [Fact (P .spares)] [Fact (P .sv)] [Fact (P .sys)] [Fact (P .tbl)] [Fact (P .txs)] {s₀ s : State} (op a : Nat) (force : Bool) (mid : Option (Fin 32)) (hk : Keeps P s₀ s) : Keeps P s₀ (State.svStart s op a force mid) := by
  unfold State.svStart
  repeat' (first
    | with_reducible assumption
    | with_reducible exact Keeps.refl _
    | with_reducible apply keeps_evacBegin
    | with_reducible apply keeps_svBegin
    | with_reducible apply keeps_tblForced
    | with_reducible apply keeps_tblCopy
    | with_reducible apply keeps_tblRaise
    | with_reducible apply keeps_raise
    | fail_if_no_progress (with_reducible apply keeps_mk <;> first | exact .inl Fact.out | with_reducible exact .inr rfl | with_reducible rfl | skip)
    | with_reducible apply keeps_each
    | with_reducible apply keeps_foldl
    | split)

theorem keeps_svOp [Fact (P .chs)] [Fact (P .fab)] [Fact (P .fb)] [Fact (P .free)] [Fact (P .frs)] [Fact (P .gfps)] [Fact (P .grps)] [Fact (P .lanes)] [Fact (P .led)] [Fact (P .meters)] [Fact (P .ny)] [Fact (P .pairs)] [Fact (P .qs)] [Fact (P .regs)] [Fact (P .ring)] [Fact (P .rxs)] [Fact (P .spares)] [Fact (P .sv)] [Fact (P .sys)] [Fact (P .tbl)] [Fact (P .txs)] {s₀ s : State} (w : Who) (v : Nat) (mid : Option (Fin 32)) (hk : Keeps P s₀ s) : Keeps P s₀ (State.svOp s w v mid) := by
  unfold State.svOp
  repeat' (first
    | with_reducible assumption
    | with_reducible exact Keeps.refl _
    | with_reducible apply keeps_bump
    | with_reducible apply keeps_svAbort
    | with_reducible apply keeps_svRefuse
    | with_reducible apply keeps_svStart
    | fail_if_no_progress (with_reducible apply keeps_mk <;> first | exact .inl Fact.out | with_reducible exact .inr rfl | with_reducible rfl | skip)
    | with_reducible apply keeps_each
    | with_reducible apply keeps_foldl
    | split
    | intro _
    | (extract_lets +onlyGivenNames x; refine keeps_cut (x := x) ?_ ?_; on_goal 2 => clear_value x)
    | extract_lets +onlyGivenNames y)

theorem keeps_svRow [Fact (P .chs)] [Fact (P .fab)] [Fact (P .fb)] [Fact (P .free)] [Fact (P .frs)] [Fact (P .gfps)] [Fact (P .grps)] [Fact (P .lanes)] [Fact (P .led)] [Fact (P .meters)] [Fact (P .ny)] [Fact (P .pairs)] [Fact (P .qs)] [Fact (P .regs)] [Fact (P .ring)] [Fact (P .rxs)] [Fact (P .sp)] [Fact (P .spares)] [Fact (P .sv)] [Fact (P .sys)] [Fact (P .tbl)] [Fact (P .txs)] {s₀ s : State} (w : Who) (v op : Nat) (mid : Option (Fin 32)) (hk : Keeps P s₀ s) : Keeps P s₀ (State.svRow s w v op mid) := by
  unfold State.svRow
  repeat' (first
    | with_reducible assumption
    | with_reducible exact Keeps.refl _
    | with_reducible apply keeps_guardWrite
    | with_reducible apply keeps_svOp
    | fail_if_no_progress (with_reducible apply keeps_mk <;> first | exact .inl Fact.out | with_reducible exact .inr rfl | with_reducible rfl | skip)
    | with_reducible apply keeps_each
    | with_reducible apply keeps_foldl
    | split
    | intro _)

theorem keeps_execSvEvacuate [Fact (P .chs)] [Fact (P .fab)] [Fact (P .fb)] [Fact (P .free)] [Fact (P .frs)] [Fact (P .gfps)] [Fact (P .grps)] [Fact (P .lanes)] [Fact (P .led)] [Fact (P .meters)] [Fact (P .ny)] [Fact (P .pairs)] [Fact (P .qs)] [Fact (P .regs)] [Fact (P .ring)] [Fact (P .rxs)] [Fact (P .sp)] [Fact (P .spares)] [Fact (P .sv)] [Fact (P .sys)] [Fact (P .tbl)] [Fact (P .txs)] (w : Who) (v : Word) (mid : Option (Fin 32)) (s : State) : Outs P s (execSvEvacuate w v mid s) := by
  unfold execSvEvacuate
  apply outs_next
  repeat' (first
    | with_reducible assumption
    | with_reducible exact Keeps.refl _
    | with_reducible apply keeps_svRow)

theorem keeps_execSvReturn [Fact (P .chs)] [Fact (P .fab)] [Fact (P .fb)] [Fact (P .free)] [Fact (P .frs)] [Fact (P .gfps)] [Fact (P .grps)] [Fact (P .lanes)] [Fact (P .led)] [Fact (P .meters)] [Fact (P .ny)] [Fact (P .pairs)] [Fact (P .qs)] [Fact (P .regs)] [Fact (P .ring)] [Fact (P .rxs)] [Fact (P .sp)] [Fact (P .spares)] [Fact (P .sv)] [Fact (P .sys)] [Fact (P .tbl)] [Fact (P .txs)] (w : Who) (v : Word) (s : State) : Outs P s (execSvReturn w v s) := by
  unfold execSvReturn
  apply outs_next
  repeat' (first
    | with_reducible assumption
    | with_reducible exact Keeps.refl _
    | with_reducible apply keeps_svRow)

theorem keeps_execFabSpare [Fact (P .chs)] [Fact (P .fab)] [Fact (P .fb)] [Fact (P .free)] [Fact (P .frs)] [Fact (P .gfps)] [Fact (P .grps)] [Fact (P .lanes)] [Fact (P .led)] [Fact (P .meters)] [Fact (P .ny)] [Fact (P .pairs)] [Fact (P .qs)] [Fact (P .regs)] [Fact (P .ring)] [Fact (P .rxs)] [Fact (P .sp)] [Fact (P .spares)] [Fact (P .sv)] [Fact (P .sys)] [Fact (P .tbl)] [Fact (P .txs)] (w : Who) (v : Word) (s : State) : Outs P s (execFabSpare w v s) := by
  unfold execFabSpare
  apply outs_next
  repeat' (first
    | with_reducible assumption
    | with_reducible exact Keeps.refl _
    | with_reducible apply keeps_svRow)

theorem keeps_execFabRestore [Fact (P .chs)] [Fact (P .fab)] [Fact (P .fb)] [Fact (P .free)] [Fact (P .frs)] [Fact (P .gfps)] [Fact (P .grps)] [Fact (P .lanes)] [Fact (P .led)] [Fact (P .meters)] [Fact (P .ny)] [Fact (P .pairs)] [Fact (P .qs)] [Fact (P .regs)] [Fact (P .ring)] [Fact (P .rxs)] [Fact (P .sp)] [Fact (P .spares)] [Fact (P .sv)] [Fact (P .sys)] [Fact (P .tbl)] [Fact (P .txs)] (w : Who) (v : Word) (s : State) : Outs P s (execFabRestore w v s) := by
  unfold execFabRestore
  apply outs_next
  repeat' (first
    | with_reducible assumption
    | with_reducible exact Keeps.refl _
    | with_reducible apply keeps_svRow)

theorem keeps_execTblSpare [Fact (P .chs)] [Fact (P .fab)] [Fact (P .fb)] [Fact (P .free)] [Fact (P .frs)] [Fact (P .gfps)] [Fact (P .grps)] [Fact (P .lanes)] [Fact (P .led)] [Fact (P .meters)] [Fact (P .ny)] [Fact (P .pairs)] [Fact (P .qs)] [Fact (P .regs)] [Fact (P .ring)] [Fact (P .rxs)] [Fact (P .sp)] [Fact (P .spares)] [Fact (P .sv)] [Fact (P .sys)] [Fact (P .tbl)] [Fact (P .txs)] (w : Who) (v : Word) (s : State) : Outs P s (execTblSpare w v s) := by
  unfold execTblSpare
  apply outs_next
  repeat' (first
    | with_reducible assumption
    | with_reducible exact Keeps.refl _
    | with_reducible apply keeps_svRow)

theorem keeps_execTblRestore [Fact (P .chs)] [Fact (P .fab)] [Fact (P .fb)] [Fact (P .free)] [Fact (P .frs)] [Fact (P .gfps)] [Fact (P .grps)] [Fact (P .lanes)] [Fact (P .led)] [Fact (P .meters)] [Fact (P .ny)] [Fact (P .pairs)] [Fact (P .qs)] [Fact (P .regs)] [Fact (P .ring)] [Fact (P .rxs)] [Fact (P .sp)] [Fact (P .spares)] [Fact (P .sv)] [Fact (P .sys)] [Fact (P .tbl)] [Fact (P .txs)] (w : Who) (v : Word) (s : State) : Outs P s (execTblRestore w v s) := by
  unfold execTblRestore
  apply outs_next
  repeat' (first
    | with_reducible assumption
    | with_reducible exact Keeps.refl _
    | with_reducible apply keeps_svRow)

theorem keeps_execRowRepair [Fact (P .chs)] [Fact (P .fab)] [Fact (P .fb)] [Fact (P .free)] [Fact (P .frs)] [Fact (P .gfps)] [Fact (P .grps)] [Fact (P .lanes)] [Fact (P .led)] [Fact (P .meters)] [Fact (P .ny)] [Fact (P .pairs)] [Fact (P .qs)] [Fact (P .regs)] [Fact (P .ring)] [Fact (P .rxs)] [Fact (P .sp)] [Fact (P .spares)] [Fact (P .sv)] [Fact (P .sys)] [Fact (P .tbl)] [Fact (P .txs)] (w : Who) (v : Word) (s : State) : Outs P s (execRowRepair w v s) := by
  unfold execRowRepair
  apply outs_next
  repeat' (first
    | with_reducible assumption
    | with_reducible exact Keeps.refl _
    | with_reducible apply keeps_svRow)

theorem keeps_execSliceTest [Fact (P .chs)] [Fact (P .fab)] [Fact (P .fb)] [Fact (P .free)] [Fact (P .frs)] [Fact (P .gfps)] [Fact (P .grps)] [Fact (P .lanes)] [Fact (P .led)] [Fact (P .meters)] [Fact (P .ny)] [Fact (P .pairs)] [Fact (P .qs)] [Fact (P .regs)] [Fact (P .ring)] [Fact (P .rxs)] [Fact (P .sp)] [Fact (P .spares)] [Fact (P .sv)] [Fact (P .sys)] [Fact (P .tbl)] [Fact (P .txs)] (w : Who) (v : Word) (s : State) : Outs P s (execSliceTest w v s) := by
  unfold execSliceTest
  apply outs_next
  repeat' (first
    | with_reducible assumption
    | with_reducible exact Keeps.refl _
    | with_reducible apply keeps_svRow)

theorem keeps_execSvAbort [Fact (P .chs)] [Fact (P .fab)] [Fact (P .fb)] [Fact (P .free)] [Fact (P .frs)] [Fact (P .gfps)] [Fact (P .grps)] [Fact (P .lanes)] [Fact (P .led)] [Fact (P .meters)] [Fact (P .ny)] [Fact (P .pairs)] [Fact (P .qs)] [Fact (P .regs)] [Fact (P .ring)] [Fact (P .rxs)] [Fact (P .sp)] [Fact (P .spares)] [Fact (P .sv)] [Fact (P .sys)] [Fact (P .tbl)] [Fact (P .txs)] (w : Who) (v : Word) (s : State) : Outs P s (execSvAbort w v s) := by
  unfold execSvAbort
  apply outs_next
  repeat' (first
    | with_reducible assumption
    | with_reducible exact Keeps.refl _
    | with_reducible apply keeps_svRow)

theorem keeps_svWrite [Fact (P .chs)] [Fact (P .fab)] [Fact (P .fb)] [Fact (P .free)] [Fact (P .frs)] [Fact (P .gfps)] [Fact (P .grps)] [Fact (P .lanes)] [Fact (P .led)] [Fact (P .meters)] [Fact (P .ny)] [Fact (P .pairs)] [Fact (P .qs)] [Fact (P .regs)] [Fact (P .ring)] [Fact (P .rxs)] [Fact (P .spares)] [Fact (P .sv)] [Fact (P .sys)] [Fact (P .tbl)] [Fact (P .txs)] {s₀ s : State} (w : Who) (off v : Nat) (hk : Keeps P s₀ s) : Keeps P s₀ (State.svWrite s w off v) := by
  unfold State.svWrite
  repeat' (first
    | with_reducible assumption
    | with_reducible exact Keeps.refl _
    | with_reducible apply keeps_svOp
    | with_reducible apply keeps_writePlain
    | fail_if_no_progress (with_reducible apply keeps_mk <;> first | exact .inl Fact.out | with_reducible exact .inr rfl | with_reducible rfl | skip)
    | with_reducible apply keeps_each
    | with_reducible apply keeps_foldl
    | split)

theorem keeps_execClockMonitorWindow [Fact (P .chs)] [Fact (P .fab)] [Fact (P .fb)] [Fact (P .free)] [Fact (P .frs)] [Fact (P .gfps)] [Fact (P .grps)] [Fact (P .lanes)] [Fact (P .led)] [Fact (P .ny)] [Fact (P .pairs)] [Fact (P .qs)] [Fact (P .regs)] [Fact (P .rxs)] [Fact (P .sp)] [Fact (P .spares)] [Fact (P .sv)] [Fact (P .sys)] [Fact (P .tm)] [Fact (P .txs)] (k : Fin 9) (f : Word) (edges : Bool) (s : State) : Outs P s (execClockMonitorWindow k f edges s) := by
  unfold execClockMonitorWindow
  apply outs_next
  repeat' (first
    | with_reducible assumption
    | with_reducible exact Keeps.refl _
    | with_reducible apply keeps_clkWindow
    | with_reducible apply keeps_islandsSettle
    | fail_if_no_progress (with_reducible apply keeps_mk <;> first | exact .inl Fact.out | with_reducible exact .inr rfl | with_reducible rfl | skip)
    | with_reducible apply keeps_each
    | with_reducible apply keeps_foldl
    | split)

theorem keeps_rowCorrected [Fact (P .regs)] {s₀ s : State} (r n : Nat) (hk : Keeps P s₀ s) : Keeps P s₀ (State.rowCorrected s r n) := by
  unfold State.rowCorrected
  repeat' (first
    | with_reducible assumption
    | with_reducible exact Keeps.refl _
    | with_reducible apply keeps_bump
    | with_reducible apply keeps_rowNote
    | with_reducible apply keeps_raise
    | fail_if_no_progress (with_reducible apply keeps_mk <;> first | exact .inl Fact.out | with_reducible exact .inr rfl | with_reducible rfl | skip)
    | with_reducible apply keeps_each
    | with_reducible apply keeps_foldl
    | split
    | intro _
    | (extract_lets +onlyGivenNames x; refine keeps_cut (x := x) ?_ ?_; on_goal 2 => clear_value x)
    | extract_lets +onlyGivenNames y)

theorem keeps_execScrubSweepEnd [Fact (P .ny)] [Fact (P .regs)] (a : Fin 3) (rows : List (Fin 3072 × BitVec 16)) (s : State) : Outs P s (execScrubSweepEnd a rows s) := by
  unfold execScrubSweepEnd
  apply outs_next
  repeat' (first
    | with_reducible assumption
    | with_reducible exact Keeps.refl _
    | with_reducible apply keeps_each
    | with_reducible apply keeps_rowCorrected
    | with_reducible apply keeps_bgDone
    | with_reducible apply keeps_bgBegin
    | fail_if_no_progress (with_reducible apply keeps_mk <;> first | exact .inl Fact.out | with_reducible exact .inr rfl | with_reducible rfl | skip)
    | with_reducible apply keeps_each
    | with_reducible apply keeps_foldl
    | split
    | intro _)

theorem keeps_execScrubUncorrectableWord [Fact (P .regs)] (row : Option (Fin 3072)) (s : State) : Outs P s (execScrubUncorrectableWord row s) := by
  unfold execScrubUncorrectableWord
  apply outs_next
  repeat' (first
    | with_reducible assumption
    | with_reducible exact Keeps.refl _
    | with_reducible apply keeps_rowUnc
    | with_reducible apply keeps_bump
    | fail_if_no_progress (with_reducible apply keeps_mk <;> first | exact .inl Fact.out | with_reducible exact .inr rfl | with_reducible rfl | skip)
    | with_reducible apply keeps_each
    | with_reducible apply keeps_foldl
    | split)

end Sys2Proof.Laws
end

