-- ==== Sys2Proof/Laws/KeepsSetup.lean ====
section
/-! SUPPORT. What the operations of Setup.lean keep. -/

namespace Sys2Proof.Laws

open Sys2Proof.Machine

variable {P : Part → Prop}

theorem keeps_readReg [Fact (P .cc)] [Fact (P .hub)] [Fact (P .kw)] [Fact (P .latch)] [Fact (P .regs)] [Fact (P .sv)] [Fact (P .transit)] {s₀ s : State} (w : Who) (rdr pos : Nat) (k : Taken) (off : Nat) (hk : Keeps P s₀ s) : Keeps P s₀ (State.readReg s w rdr pos k off).2 := by
  unfold State.readReg
  repeat' (first
    | with_reducible assumption
    | with_reducible exact Keeps.refl _
    | with_reducible apply keeps_timeCapture
    | with_reducible apply keeps_rcTakeAll
    | with_reducible apply keeps_ccClaim
    | with_reducible refine keeps_ccClaim_eq _ _ (by assumption) ?_
    | with_reducible apply keeps_tbAcq
    | with_reducible refine keeps_tbAcq_eq _ _ (by assumption) ?_
    | with_reducible apply keeps_hbClaimTaken
    | with_reducible refine keeps_hbClaimTaken_eq _ _ _ (by assumption) ?_
    | with_reducible apply keeps_kwDout
    | with_reducible refine keeps_kwDout_eq (by assumption) ?_
    | fail_if_no_progress (with_reducible apply keeps_mk <;> first | exact .inl Fact.out | with_reducible exact .inr rfl | with_reducible rfl | skip)
    | with_reducible apply keeps_each
    | with_reducible apply keeps_foldl
    | split)

theorem keeps_readReg_eq [Fact (P .cc)] [Fact (P .hub)] [Fact (P .kw)] [Fact (P .latch)] [Fact (P .regs)] [Fact (P .sv)] [Fact (P .transit)] {s₀ s s₁ : State} (w : Who) (rdr pos : Nat) (k : Taken) (off : Nat) {x₁ : Nat} (he : State.readReg s w rdr pos k off = (x₁, s₁)) (hk : Keeps P s₀ s) : Keeps P s₀ s₁ := by
  have := keeps_readReg w rdr pos k off hk
  rw [he] at this; exact this

theorem keeps_countsRead [Fact (P .free)] [Fact (P .regs)] {s₀ s : State} (off : Nat) (hk : Keeps P s₀ s) : Keeps P s₀ (State.countsRead s off) := by
  unfold State.countsRead
  repeat' (first
    | with_reducible assumption
    | with_reducible exact Keeps.refl _
    | with_reducible apply keeps_coreCounts
    | fail_if_no_progress (with_reducible apply keeps_mk <;> first | exact .inl Fact.out | with_reducible exact .inr rfl | with_reducible rfl | skip)
    | with_reducible apply keeps_each
    | with_reducible apply keeps_foldl
    | split)

theorem keeps_read32 [Fact (P .cc)] [Fact (P .free)] [Fact (P .hub)] [Fact (P .kw)] [Fact (P .latch)] [Fact (P .regs)] [Fact (P .sv)] [Fact (P .transit)] {s₀ s : State} (w : Who) (rdr pos : Nat) (k : Taken) (off : Nat) (hk : Keeps P s₀ s) : Keeps P s₀ (State.read32 s w rdr pos k off).2 := by
  unfold State.read32
  repeat' (first
    | with_reducible assumption
    | with_reducible exact Keeps.refl _
    | with_reducible apply keeps_countsRead
    | with_reducible apply keeps_rcTakeAll
    | with_reducible apply keeps_readReg
    | with_reducible refine keeps_readReg_eq _ _ _ _ _ (by assumption) ?_
    | fail_if_no_progress (with_reducible apply keeps_mk <;> first | exact .inl Fact.out | with_reducible exact .inr rfl | with_reducible rfl | skip)
    | with_reducible apply keeps_each
    | with_reducible apply keeps_foldl
    | split)

theorem keeps_read32_eq [Fact (P .cc)] [Fact (P .free)] [Fact (P .hub)] [Fact (P .kw)] [Fact (P .latch)] [Fact (P .regs)] [Fact (P .sv)] [Fact (P .transit)] {s₀ s s₁ : State} (w : Who) (rdr pos : Nat) (k : Taken) (off : Nat) {x₁ : Nat} (he : State.read32 s w rdr pos k off = (x₁, s₁)) (hk : Keeps P s₀ s) : Keeps P s₀ s₁ := by
  have := keeps_read32 w rdr pos k off hk
  rw [he] at this; exact this

theorem keeps_read64 [Fact (P .cc)] [Fact (P .free)] [Fact (P .hub)] [Fact (P .kw)] [Fact (P .latch)] [Fact (P .regs)] [Fact (P .sv)] [Fact (P .transit)] {s₀ s : State} (w : Who) (rdr pos : Nat) (k : Taken) (off : Nat) (hk : Keeps P s₀ s) : Keeps P s₀ (State.read64 s w rdr pos k off).2 := by
  unfold State.read64
  repeat' (first
    | with_reducible assumption
    | with_reducible exact Keeps.refl _
    | with_reducible apply keeps_countsRead
    | with_reducible apply keeps_rcTakeAll
    | with_reducible apply keeps_read32
    | with_reducible refine keeps_read32_eq _ _ _ _ _ (by assumption) ?_
    | fail_if_no_progress (with_reducible apply keeps_mk <;> first | exact .inl Fact.out | with_reducible exact .inr rfl | with_reducible rfl | skip)
    | with_reducible apply keeps_each
    | with_reducible apply keeps_foldl
    | split)

theorem keeps_read64_eq [Fact (P .cc)] [Fact (P .free)] [Fact (P .hub)] [Fact (P .kw)] [Fact (P .latch)] [Fact (P .regs)] [Fact (P .sv)] [Fact (P .transit)] {s₀ s s₁ : State} (w : Who) (rdr pos : Nat) (k : Taken) (off : Nat) {x₁ : Nat} (he : State.read64 s w rdr pos k off = (x₁, s₁)) (hk : Keeps P s₀ s) : Keeps P s₀ s₁ := by
  have := keeps_read64 w rdr pos k off hk
  rw [he] at this; exact this

theorem keeps_atAccess [Fact (P .fab)] [Fact (P .hub)] [Fact (P .regs)] [Fact (P .transit)] {s₀ s : State} (w : Who) (hk : Keeps P s₀ s) : Keeps P s₀ (State.atAccess s w) := by
  unfold State.atAccess
  repeat' (first
    | with_reducible assumption
    | with_reducible exact Keeps.refl _
    | with_reducible apply keeps_settle
    | with_reducible apply keeps_settleBeats
    | fail_if_no_progress (with_reducible apply keeps_mk <;> first | exact .inl Fact.out | with_reducible exact .inr rfl | with_reducible rfl | skip)
    | with_reducible apply keeps_each
    | with_reducible apply keeps_foldl
    | split)

theorem keeps_statSpoilt [Fact (P .free)] [Fact (P .regs)] [Fact (P .sv)] {s₀ s : State} (off : Nat) (wide : Bool) (k : Taken) (v : Nat) (hk : Keeps P s₀ s) : Keeps P s₀ (State.statSpoilt s off wide k v).2 := by
  unfold State.statSpoilt
  repeat' (first
    | with_reducible assumption
    | with_reducible exact Keeps.refl _
    | with_reducible apply keeps_sliceFault
    | with_reducible apply keeps_draw
    | with_reducible refine keeps_draw_eq (by assumption) ?_
    | fail_if_no_progress (with_reducible apply keeps_mk <;> first | exact .inl Fact.out | with_reducible exact .inr rfl | with_reducible rfl | skip)
    | with_reducible apply keeps_each
    | with_reducible apply keeps_foldl
    | split)

theorem keeps_statSpoilt_eq [Fact (P .free)] [Fact (P .regs)] [Fact (P .sv)] {s₀ s s₁ : State} (off : Nat) (wide : Bool) (k : Taken) (v : Nat) {x₁ : Nat} (he : State.statSpoilt s off wide k v = (x₁, s₁)) (hk : Keeps P s₀ s) : Keeps P s₀ s₁ := by
  have := keeps_statSpoilt off wide k v hk
  rw [he] at this; exact this

theorem keeps_setupRead [Fact (P .cc)] [Fact (P .fab)] [Fact (P .free)] [Fact (P .hub)] [Fact (P .kw)] [Fact (P .latch)] [Fact (P .regs)] [Fact (P .sp)] [Fact (P .sv)] [Fact (P .transit)] {s₀ s : State} (w : Who) (off : Nat) (wide : Bool) (k : Taken) (hk : Keeps P s₀ s) : Keeps P s₀ (State.setupRead s w off wide k) := by
  unfold State.setupRead
  repeat' (first
    | with_reducible assumption
    | with_reducible exact Keeps.refl _
    | with_reducible apply keeps_declined
    | with_reducible apply keeps_atAccess
    | with_reducible apply keeps_spCount
    | with_reducible apply keeps_okay
    | with_reducible apply keeps_read64
    | with_reducible refine keeps_read64_eq _ _ _ _ _ (by assumption) ?_
    | with_reducible apply keeps_read32
    | with_reducible refine keeps_read32_eq _ _ _ _ _ (by assumption) ?_
    | with_reducible apply keeps_statSpoilt
    | with_reducible refine keeps_statSpoilt_eq _ _ _ _ (by assumption) ?_
    | fail_if_no_progress (with_reducible apply keeps_mk <;> first | exact .inl Fact.out | with_reducible exact .inr rfl | with_reducible rfl | skip)
    | with_reducible apply keeps_each
    | with_reducible apply keeps_foldl
    | split
    | intro _
    | (extract_lets +onlyGivenNames x; refine keeps_cut (x := x) ?_ ?_; on_goal 2 => clear_value x)
    | extract_lets +onlyGivenNames y)

theorem keeps_doorbellRead [Fact (P .fab)] [Fact (P .hub)] [Fact (P .regs)] [Fact (P .sp)] [Fact (P .transit)] {s₀ s : State} (w : Who) (off : Nat) (wide : Bool) (hk : Keeps P s₀ s) : Keeps P s₀ (State.doorbellRead s w off wide) := by
  unfold State.doorbellRead
  repeat' (first
    | with_reducible assumption
    | with_reducible exact Keeps.refl _
    | with_reducible apply keeps_declined
    | with_reducible apply keeps_atAccess
    | with_reducible apply keeps_dbCount
    | with_reducible apply keeps_okay
    | fail_if_no_progress (with_reducible apply keeps_mk <;> first | exact .inl Fact.out | with_reducible exact .inr rfl | with_reducible rfl | skip)
    | with_reducible apply keeps_each
    | with_reducible apply keeps_foldl
    | split)

theorem keeps_doorbellWrite [Fact (P .ctxs)] [Fact (P .fab)] [Fact (P .free)] [Fact (P .hub)] [Fact (P .qs)] [Fact (P .regs)] [Fact (P .sp)] [Fact (P .transit)] {s₀ s : State} (w : Who) (off : Nat) (wide : Bool) (v : BitVec 64) (hk : Keeps P s₀ s) : Keeps P s₀ (State.doorbellWrite s w off wide v) := by
  unfold State.doorbellWrite
  repeat' (first
    | with_reducible assumption
    | with_reducible exact Keeps.refl _
    | with_reducible apply keeps_declined
    | with_reducible apply keeps_atAccess
    | with_reducible apply keeps_doorbell
    | with_reducible apply keeps_evConsume
    | with_reducible apply keeps_dbRefuseOther
    | fail_if_no_progress (with_reducible apply keeps_mk <;> first | exact .inl Fact.out | with_reducible exact .inr rfl | with_reducible rfl | skip)
    | with_reducible apply keeps_each
    | with_reducible apply keeps_foldl
    | split)

theorem keeps_lnWrite [Fact (P .chs)] [Fact (P .fb)] [Fact (P .free)] [Fact (P .frs)] [Fact (P .gfps)] [Fact (P .grps)] [Fact (P .lanes)] [Fact (P .led)] [Fact (P .pairs)] [Fact (P .qs)] [Fact (P .regs)] [Fact (P .rxs)] [Fact (P .spares)] [Fact (P .sys)] [Fact (P .txs)] {s₀ s : State} (off v : Nat) (hk : Keeps P s₀ s) : Keeps P s₀ (State.lnWrite s off v) := by
  unfold State.lnWrite
  repeat' (first
    | with_reducible assumption
    | with_reducible exact Keeps.refl _
    | with_reducible apply keeps_portCfg
    | with_reducible apply keeps_chanCfg
    | with_reducible apply keeps_spareCtrl
    | with_reducible apply keeps_writePlain
    | fail_if_no_progress (with_reducible apply keeps_mk <;> first | exact .inl Fact.out | with_reducible exact .inr rfl | with_reducible rfl | skip)
    | with_reducible apply keeps_each
    | with_reducible apply keeps_foldl
    | split)

theorem keeps_tfWrite [Fact (P .chs)] [Fact (P .fb)] [Fact (P .frs)] [Fact (P .gfps)] [Fact (P .grps)] [Fact (P .pairs)] [Fact (P .regs)] [Fact (P .rxs)] [Fact (P .sys)] [Fact (P .txs)] {s₀ s : State} (off v : Nat) (hk : Keeps P s₀ s) : Keeps P s₀ (State.tfWrite s off v) := by
  unfold State.tfWrite
  repeat' (first
    | with_reducible assumption
    | with_reducible exact Keeps.refl _
    | with_reducible apply keeps_frCfg
    | with_reducible apply keeps_posCfg
    | with_reducible apply keeps_grpCfg
    | with_reducible apply keeps_sdCfg
    | with_reducible apply keeps_pairCfg
    | with_reducible apply keeps_pairCmd
    | with_reducible apply keeps_fbWrite
    | with_reducible apply keeps_writePlain
    | fail_if_no_progress (with_reducible apply keeps_mk <;> first | exact .inl Fact.out | with_reducible exact .inr rfl | with_reducible rfl | skip)
    | with_reducible apply keeps_each
    | with_reducible apply keeps_foldl
    | split)

theorem keeps_sysWrite [Fact (P .cu)] [Fact (P .fab)] [Fact (P .regs)] {s₀ s : State} (off v : Nat) (hk : Keeps P s₀ s) : Keeps P s₀ (State.sysWrite s off v) := by
  unfold State.sysWrite
  repeat' (first
    | with_reducible assumption
    | with_reducible exact Keeps.refl _
    | with_reducible apply keeps_bump
    | with_reducible apply keeps_sdReload
    | with_reducible apply keeps_wr
    | with_reducible apply keeps_writePlain
    | fail_if_no_progress (with_reducible apply keeps_mk <;> first | exact .inl Fact.out | with_reducible exact .inr rfl | with_reducible rfl | skip)
    | with_reducible apply keeps_each
    | with_reducible apply keeps_foldl
    | split
    | intro _
    | (extract_lets +onlyGivenNames x; refine keeps_cut (x := x) ?_ ?_; on_goal 2 => clear_value x)
    | extract_lets +onlyGivenNames y)

theorem keeps_regWrite [Fact (P .cc)] [Fact (P .chs)] [Fact (P .ctxs)] [Fact (P .cu)] [Fact (P .fab)] [Fact (P .fb)] [Fact (P .free)] [Fact (P .frs)] [Fact (P .gfps)] [Fact (P .grps)] [Fact (P .hub)] [Fact (P .kw)] [Fact (P .lanes)] [Fact (P .latch)] [Fact (P .led)] [Fact (P .md)] [Fact (P .meters)] [Fact (P .ny)] [Fact (P .pairs)] [Fact (P .pw)] [Fact (P .qs)] [Fact (P .regs)] [Fact (P .ring)] [Fact (P .rxs)] [Fact (P .shaps)] [Fact (P .spares)] [Fact (P .sram)] [Fact (P .sv)] [Fact (P .sys)] [Fact (P .tbl)] [Fact (P .tm)] [Fact (P .transit)] [Fact (P .txs)] {s₀ s : State} (w : Who) (off v : Nat) (hk : Keeps P s₀ s) : Keeps P s₀ (State.regWrite s w off v) := by
  unfold State.regWrite
  apply keeps_ite (keeps_sysWrite _ _ hk)
  apply keeps_ite (keeps_lnWrite _ _ hk)
  apply keeps_ite (keeps_tfWrite _ _ hk)
  apply keeps_ite (keeps_mcWrite _ _ hk)
  apply keeps_ite (keeps_clWrite _ _ hk)
  apply keeps_ite (keeps_mtWrite _ _ hk)
  apply keeps_ite (keeps_fbWrite _ _ hk)
  apply keeps_ite (keeps_scWrite _ _ hk)
  apply keeps_ite (keeps_tgWrite _ _ hk)
  apply keeps_ite hk
  apply keeps_ite (keeps_hrWrite _ _ hk)
  apply keeps_ite (keeps_cxWrite _ _ hk)
  apply keeps_ite (keeps_ccWrite _ _ _ hk)
  apply keeps_ite (keeps_lgWrite _ _ hk)
  apply keeps_ite (keeps_tmWrite _ _ hk)
  apply keeps_ite (keeps_hbWrite _ _ hk)
  apply keeps_ite (keeps_mdRegWrite _ _ hk)
  apply keeps_ite (keeps_cuWrite _ _ hk)
  apply keeps_ite (keeps_nyWrite _ _ _ hk)
  apply keeps_ite (keeps_stWrite _ _ _ hk)
  apply keeps_ite (keeps_kwWrite _ _ _ hk)
  apply keeps_ite (keeps_pwWrite _ _ hk)
  apply keeps_ite (keeps_svWrite _ _ _ hk)
  exact hk

theorem keeps_setupWrite [Fact (P .cc)] [Fact (P .chs)] [Fact (P .ctxs)] [Fact (P .cu)] [Fact (P .fab)] [Fact (P .fb)] [Fact (P .free)] [Fact (P .frs)] [Fact (P .gfps)] [Fact (P .grps)] [Fact (P .hub)] [Fact (P .kw)] [Fact (P .lanes)] [Fact (P .latch)] [Fact (P .led)] [Fact (P .md)] [Fact (P .meters)] [Fact (P .ny)] [Fact (P .pairs)] [Fact (P .pw)] [Fact (P .qs)] [Fact (P .regs)] [Fact (P .ring)] [Fact (P .rxs)] [Fact (P .shaps)] [Fact (P .sp)] [Fact (P .spares)] [Fact (P .sram)] [Fact (P .sv)] [Fact (P .sys)] [Fact (P .tbl)] [Fact (P .tm)] [Fact (P .transit)] [Fact (P .txs)] {s₀ s : State} (w : Who) (off : Nat) (wide : Bool) (v : BitVec 64) (hk : Keeps P s₀ s) : Keeps P s₀ (State.setupWrite s w off wide v) := by
  unfold State.setupWrite
  repeat' (first
    | with_reducible assumption
    | with_reducible exact Keeps.refl _
    | with_reducible apply keeps_declined
    | with_reducible apply keeps_atAccess
    | with_reducible apply keeps_spCount
    | with_reducible apply keeps_regWrite
    | with_reducible apply keeps_okay
    | fail_if_no_progress (with_reducible apply keeps_mk <;> first | exact .inl Fact.out | with_reducible exact .inr rfl | with_reducible rfl | skip)
    | with_reducible apply keeps_each
    | with_reducible apply keeps_foldl
    | split)

theorem keeps_execRegisterWrite [Fact (P .cc)] [Fact (P .chs)] [Fact (P .ctxs)] [Fact (P .cu)] [Fact (P .fab)] [Fact (P .fb)] [Fact (P .free)] [Fact (P .frs)] [Fact (P .gfps)] [Fact (P .grps)] [Fact (P .hub)] [Fact (P .kw)] [Fact (P .lanes)] [Fact (P .latch)] [Fact (P .led)] [Fact (P .md)] [Fact (P .meters)] [Fact (P .ny)] [Fact (P .pairs)] [Fact (P .pw)] [Fact (P .qs)] [Fact (P .regs)] [Fact (P .ring)] [Fact (P .rxs)] [Fact (P .shaps)] [Fact (P .sp)] [Fact (P .spares)] [Fact (P .sram)] [Fact (P .sv)] [Fact (P .sys)] [Fact (P .tbl)] [Fact (P .tm)] [Fact (P .transit)] [Fact (P .txs)] (w : Who) (db : Bool) (off : BitVec 24) (wide : Bool) (v : BitVec 64) (s : State) : Outs P s (execRegisterWrite w db off wide v s) := by
  unfold execRegisterWrite
  apply outs_next
  repeat' (first
    | with_reducible assumption
    | with_reducible exact Keeps.refl _
    | with_reducible apply keeps_doorbellWrite
    | with_reducible apply keeps_setupWrite
    | fail_if_no_progress (with_reducible apply keeps_mk <;> first | exact .inl Fact.out | with_reducible exact .inr rfl | with_reducible rfl | skip)
    | with_reducible apply keeps_each
    | with_reducible apply keeps_foldl
    | split)

theorem keeps_execRcRead [Fact (P .cc)] [Fact (P .fab)] [Fact (P .free)] [Fact (P .hub)] [Fact (P .kw)] [Fact (P .latch)] [Fact (P .regs)] [Fact (P .sp)] [Fact (P .sv)] [Fact (P .transit)] (w : Who) (db : Bool) (off : BitVec 24) (wide : Bool) (k : Taken) (s : State) : Outs P s (execRcRead w db off wide k s) := by
  unfold execRcRead
  apply outs_next
  repeat' (first
    | with_reducible assumption
    | with_reducible exact Keeps.refl _
    | with_reducible apply keeps_doorbellRead
    | with_reducible apply keeps_setupRead
    | fail_if_no_progress (with_reducible apply keeps_mk <;> first | exact .inl Fact.out | with_reducible exact .inr rfl | with_reducible rfl | skip)
    | with_reducible apply keeps_each
    | with_reducible apply keeps_foldl
    | split)

theorem keeps_execLowWordRead [Fact (P .cc)] [Fact (P .fab)] [Fact (P .free)] [Fact (P .hub)] [Fact (P .kw)] [Fact (P .latch)] [Fact (P .regs)] [Fact (P .sp)] [Fact (P .sv)] [Fact (P .transit)] (w : Who) (off : BitVec 24) (s : State) : Outs P s (execLowWordRead w off s) := by
  unfold execLowWordRead
  apply outs_next
  repeat' (first
    | with_reducible assumption
    | with_reducible exact Keeps.refl _
    | with_reducible apply keeps_setupRead)

end Sys2Proof.Laws
end

