-- ==== Sys2Proof/Laws/KeepsMgmtDmaRun.lean ====
section
/-! SUPPORT. What the operations of MgmtDmaRun.lean keep. -/

namespace Sys2Proof.Laws

open Sys2Proof.Machine

variable {P : Part → Prop}

theorem keeps_mdResponse [Fact (P .fab)] {s₀ s t : State} {k : ReqKind} {ch : Nat} {d : Deliv} (e : s.mdResponse k ch = some (d, t)) (h : Keeps P s₀ s) :
    Keeps P s₀ t := by
  unfold State.mdResponse at e
  cases g : takeFirst (fun d => d.kind == k && d.a == ch) s.fab.done with
  | none => rw [g] at e; cases e
  | some r => rw [g] at e; cases e; exact (by apply keeps_mk <;> first | with_reducible exact .inr rfl | exact .inl Fact.out | rfl | exact h)

theorem keeps_mdRegRead [Fact (P .cc)] [Fact (P .free)] [Fact (P .hub)] [Fact (P .kw)] [Fact (P .latch)] [Fact (P .regs)] [Fact (P .sv)] [Fact (P .transit)] {s₀ s : State} (ch n off pos : Nat) (h : Keeps P s₀ s) : Keeps P s₀ (s.mdRegRead ch n off pos).2 := by
  induction n using Nat.twoStepInduction generalizing s off pos with
  | zero => exact h
  | one =>
    unfold State.mdRegRead
    dsimp only
    split
    · exact h
    · exact keeps_read32 _ _ _ _ _ h
  | more n ih ih' =>
    unfold State.mdRegRead
    dsimp only
    split
    · split
      · exact h
      · exact ih _ _ (keeps_read64 _ _ _ _ _ h)
    · split
      · exact h
      · exact ih' _ _ (keeps_read32 _ _ _ _ _ h)

theorem keeps_mdRegRead_eq [Fact (P .cc)] [Fact (P .free)] [Fact (P .hub)] [Fact (P .kw)] [Fact (P .latch)] [Fact (P .regs)] [Fact (P .sv)] [Fact (P .transit)] {s₀ s t : State} (ch n off pos : Nat) {x : List Byte} (e : s.mdRegRead ch n off pos = (x, t))
    (h : Keeps P s₀ s) : Keeps P s₀ t := by
  have := keeps_mdRegRead ch n off pos h
  rw [e] at this; exact this

theorem keeps_mdRegWords [Fact (P .cc)] [Fact (P .chs)] [Fact (P .ctxs)] [Fact (P .cu)] [Fact (P .fab)] [Fact (P .fb)] [Fact (P .free)] [Fact (P .frs)] [Fact (P .gfps)] [Fact (P .grps)] [Fact (P .hub)] [Fact (P .kw)] [Fact (P .lanes)] [Fact (P .latch)] [Fact (P .led)] [Fact (P .md)] [Fact (P .meters)] [Fact (P .ny)] [Fact (P .pairs)] [Fact (P .pw)] [Fact (P .qs)] [Fact (P .regs)] [Fact (P .ring)] [Fact (P .rxs)] [Fact (P .shaps)] [Fact (P .spares)] [Fact (P .sram)] [Fact (P .sv)] [Fact (P .sys)] [Fact (P .tbl)] [Fact (P .tm)] [Fact (P .transit)] [Fact (P .txs)] {s₀ s : State} (n off : Nat) (l : List Byte) (h : Keeps P s₀ s) : Keeps P s₀ (s.mdRegWords n off l).2 := by
  induction n generalizing s off l with
  | zero => exact h
  | succ n ih =>
    unfold State.mdRegWords
    split
    · exact h
    · exact ih _ _ (keeps_regWrite _ _ _ (keeps_settleBeats h))

theorem keeps_mdRegWords_eq [Fact (P .cc)] [Fact (P .chs)] [Fact (P .ctxs)] [Fact (P .cu)] [Fact (P .fab)] [Fact (P .fb)] [Fact (P .free)] [Fact (P .frs)] [Fact (P .gfps)] [Fact (P .grps)] [Fact (P .hub)] [Fact (P .kw)] [Fact (P .lanes)] [Fact (P .latch)] [Fact (P .led)] [Fact (P .md)] [Fact (P .meters)] [Fact (P .ny)] [Fact (P .pairs)] [Fact (P .pw)] [Fact (P .qs)] [Fact (P .regs)] [Fact (P .ring)] [Fact (P .rxs)] [Fact (P .shaps)] [Fact (P .spares)] [Fact (P .sram)] [Fact (P .sv)] [Fact (P .sys)] [Fact (P .tbl)] [Fact (P .tm)] [Fact (P .transit)] [Fact (P .txs)] {s₀ s t : State} (n off : Nat) (l : List Byte) {x : Nat} (e : s.mdRegWords n off l = (x, t))
    (h : Keeps P s₀ s) : Keeps P s₀ t := by
  have := keeps_mdRegWords n off l h
  rw [e] at this; exact this

theorem keeps_mdIssue [Fact (P .fab)] [Fact (P .md)] {s₀ s : State} (ch : Nat) (a : MdAcc) (hk : Keeps P s₀ s) : Keeps P s₀ (State.mdIssue s ch a) := by
  unfold State.mdIssue
  repeat' (first
    | with_reducible assumption
    | with_reducible exact Keeps.refl _
    | with_reducible apply keeps_setMd
    | with_reducible apply keeps_hostWrite
    | with_reducible apply keeps_hostRead
    | fail_if_no_progress (with_reducible apply keeps_mk <;> first | exact .inl Fact.out | with_reducible exact .inr rfl | with_reducible rfl | skip)
    | with_reducible apply keeps_each
    | with_reducible apply keeps_foldl
    | split)

theorem keeps_mdIssueRead [Fact (P .fab)] [Fact (P .md)] {s₀ s : State} (ch : Nat) (second : Bool) (hk : Keeps P s₀ s) : Keeps P s₀ (State.mdIssueRead s ch second) := by
  unfold State.mdIssueRead
  repeat' (first
    | with_reducible assumption
    | with_reducible exact Keeps.refl _
    | with_reducible apply keeps_mdIssue)

theorem keeps_mdAdvance [Fact (P .fab)] [Fact (P .md)] [Fact (P .ny)] [Fact (P .regs)] {s₀ s : State} (ch : Nat) (hk : Keeps P s₀ s) : Keeps P s₀ (State.mdAdvance s ch) := by
  unfold State.mdAdvance
  repeat' (first
    | with_reducible assumption
    | with_reducible exact Keeps.refl _
    | with_reducible apply keeps_setMd
    | with_reducible apply keeps_bump
    | with_reducible apply keeps_bgDone
    | with_reducible apply keeps_setBit
    | with_reducible apply keeps_wr
    | with_reducible apply keeps_mdHalt
    | with_reducible apply keeps_mdReadDesc
    | with_reducible apply keeps_mdFailAt
    | fail_if_no_progress (with_reducible apply keeps_mk <;> first | exact .inl Fact.out | with_reducible exact .inr rfl | with_reducible rfl | skip)
    | with_reducible apply keeps_each
    | with_reducible apply keeps_foldl
    | split
    | intro _
    | (extract_lets +onlyGivenNames x; refine keeps_cut (x := x) ?_ ?_; on_goal 2 => clear_value x)
    | extract_lets +onlyGivenNames y)

theorem keeps_mdFinish [Fact (P .cu)] [Fact (P .fab)] [Fact (P .md)] [Fact (P .ny)] [Fact (P .regs)] {s₀ s : State} (ch result : Nat) (miss : Bool) (hk : Keeps P s₀ s) : Keeps P s₀ (State.mdFinish s ch result miss) := by
  unfold State.mdFinish
  repeat' (first
    | with_reducible assumption
    | with_reducible exact Keeps.refl _
    | with_reducible apply keeps_mdUnit
    | with_reducible apply keeps_setMd
    | with_reducible apply keeps_mdWriteBack
    | with_reducible apply keeps_mdAdvance
    | fail_if_no_progress (with_reducible apply keeps_mk <;> first | exact .inl Fact.out | with_reducible exact .inr rfl | with_reducible rfl | skip)
    | with_reducible apply keeps_each
    | with_reducible apply keeps_foldl
    | split
    | intro _
    | (extract_lets +onlyGivenNames x; refine keeps_cut (x := x) ?_ ?_; on_goal 2 => clear_value x)
    | extract_lets +onlyGivenNames y)

theorem keeps_mdNextCmp [Fact (P .cu)] [Fact (P .fab)] [Fact (P .md)] [Fact (P .ny)] [Fact (P .regs)] {s₀ s : State} (ch : Nat) (hk : Keeps P s₀ s) : Keeps P s₀ (State.mdNextCmp s ch) := by
  unfold State.mdNextCmp
  repeat' (first
    | with_reducible assumption
    | with_reducible exact Keeps.refl _
    | with_reducible apply keeps_mdFinish
    | with_reducible apply keeps_setMd
    | with_reducible apply keeps_mdIssueRead
    | fail_if_no_progress (with_reducible apply keeps_mk <;> first | exact .inl Fact.out | with_reducible exact .inr rfl | with_reducible rfl | skip)
    | with_reducible apply keeps_each
    | with_reducible apply keeps_foldl
    | split
    | intro _
    | (extract_lets +onlyGivenNames x; refine keeps_cut (x := x) ?_ ?_; on_goal 2 => clear_value x)
    | extract_lets +onlyGivenNames y)

theorem keeps_mdNextAcc [Fact (P .cu)] [Fact (P .fab)] [Fact (P .md)] [Fact (P .ny)] [Fact (P .regs)] {s₀ s : State} (ch : Nat) (hk : Keeps P s₀ s) : Keeps P s₀ (State.mdNextAcc s ch) := by
  unfold State.mdNextAcc
  repeat' (first
    | with_reducible assumption
    | with_reducible exact Keeps.refl _
    | with_reducible apply keeps_wr
    | with_reducible apply keeps_mdNextCmp
    | with_reducible apply keeps_mdFinish
    | with_reducible apply keeps_mdIssue
    | with_reducible apply keeps_mdIssueRead
    | with_reducible apply keeps_setMd
    | fail_if_no_progress (with_reducible apply keeps_mk <;> first | exact .inl Fact.out | with_reducible exact .inr rfl | with_reducible rfl | skip)
    | with_reducible apply keeps_each
    | with_reducible apply keeps_foldl
    | split
    | intro _
    | (extract_lets +onlyGivenNames x; refine keeps_cut (x := x) ?_ ?_; on_goal 2 => clear_value x)
    | extract_lets +onlyGivenNames y)

theorem keeps_mdPassed [Fact (P .cu)] [Fact (P .regs)] [Fact (P .transit)] {s₀ s : State} (ch : Nat) (a : MdAcc) (n : Nat) (data : List Byte) (hk : Keeps P s₀ s) : Keeps P s₀ (State.mdPassed s ch a n data) := by
  unfold State.mdPassed
  repeat' (first
    | with_reducible assumption
    | with_reducible exact Keeps.refl _
    | with_reducible apply keeps_cuStream
    | with_reducible apply keeps_pcEvent
    | fail_if_no_progress (with_reducible apply keeps_mk <;> first | exact .inl Fact.out | with_reducible exact .inr rfl | with_reducible rfl | skip)
    | with_reducible apply keeps_each
    | with_reducible apply keeps_foldl
    | split)

theorem keeps_mdReturned [Fact (P .cu)] [Fact (P .fab)] [Fact (P .latch)] [Fact (P .md)] [Fact (P .ny)] [Fact (P .regs)] [Fact (P .sp)] [Fact (P .transit)] {s₀ s : State} (ch : Nat) (a : MdAcc) (r : Resp) (good : Nat) (data : List Byte) (hk : Keeps P s₀ s) : Keeps P s₀ (State.mdReturned s ch a r good data) := by
  unfold State.mdReturned
  repeat' (first
    | with_reducible assumption
    | with_reducible exact Keeps.refl _
    | with_reducible apply keeps_okay
    | with_reducible apply keeps_mdPassed
    | with_reducible apply keeps_mdEndBad
    | with_reducible apply keeps_mdStop
    | with_reducible apply keeps_mdFailAt
    | with_reducible apply keeps_setMd
    | with_reducible apply keeps_mdNextAcc
    | fail_if_no_progress (with_reducible apply keeps_mk <;> first | exact .inl Fact.out | with_reducible exact .inr rfl | with_reducible rfl | skip)
    | with_reducible apply keeps_each
    | with_reducible apply keeps_foldl
    | split
    | intro _
    | (extract_lets +onlyGivenNames x; refine keeps_cut (x := x) ?_ ?_; on_goal 2 => clear_value x)
    | extract_lets +onlyGivenNames y)

theorem keeps_mdDescribed [Fact (P .cu)] [Fact (P .fab)] [Fact (P .md)] [Fact (P .ny)] [Fact (P .regs)] [Fact (P .sp)] {s₀ s : State} (ch : Nat) (r : Resp) (data : List Byte) (hk : Keeps P s₀ s) : Keeps P s₀ (State.mdDescribed s ch r data) := by
  unfold State.mdDescribed
  repeat' (first
    | with_reducible assumption
    | with_reducible exact Keeps.refl _
    | with_reducible apply keeps_okay
    | with_reducible apply keeps_setMd
    | with_reducible apply keeps_mdStop
    | with_reducible apply keeps_mdFailAt
    | with_reducible apply keeps_mdWriteBack
    | with_reducible apply keeps_mdUnit
    | with_reducible apply keeps_mdNextAcc
    | fail_if_no_progress (with_reducible apply keeps_mk <;> first | exact .inl Fact.out | with_reducible exact .inr rfl | with_reducible rfl | skip)
    | with_reducible apply keeps_each
    | with_reducible apply keeps_foldl
    | split
    | intro _
    | (extract_lets +onlyGivenNames x; refine keeps_cut (x := x) ?_ ?_; on_goal 2 => clear_value x)
    | extract_lets +onlyGivenNames y)

theorem keeps_execMdDescriptorRead [Fact (P .cu)] [Fact (P .fab)] [Fact (P .md)] [Fact (P .ny)] [Fact (P .regs)] [Fact (P .sp)] (ch : Fin 8) (s : State) : Outs P s (execMdDescriptorRead ch s) := by
  unfold execMdDescriptorRead
  apply outs_next
  repeat' (first
    | with_reducible assumption
    | with_reducible exact Keeps.refl _
    | with_reducible apply keeps_mdDescribed
    | with_reducible apply keeps_declined
    | with_reducible apply keeps_okay
    | with_reducible apply keeps_mdStop
    | with_reducible apply keeps_setMd
    | with_reducible refine keeps_mdResponse (by assumption) ?_
    | fail_if_no_progress (with_reducible apply keeps_mk <;> first | exact .inl Fact.out | with_reducible exact .inr rfl | with_reducible rfl | skip)
    | with_reducible apply keeps_each
    | with_reducible apply keeps_foldl
    | split
    | intro _
    | (extract_lets +onlyGivenNames x; refine keeps_cut (x := x) ?_ ?_; on_goal 2 => clear_value x)
    | extract_lets +onlyGivenNames y)

theorem keeps_execMdDataResponse [Fact (P .cc)] [Fact (P .chs)] [Fact (P .ctxs)] [Fact (P .cu)] [Fact (P .fab)] [Fact (P .fb)] [Fact (P .free)] [Fact (P .frs)] [Fact (P .gfps)] [Fact (P .grps)] [Fact (P .hub)] [Fact (P .kw)] [Fact (P .lanes)] [Fact (P .latch)] [Fact (P .led)] [Fact (P .md)] [Fact (P .meters)] [Fact (P .ny)] [Fact (P .pairs)] [Fact (P .pw)] [Fact (P .qs)] [Fact (P .regs)] [Fact (P .ring)] [Fact (P .rxs)] [Fact (P .shaps)] [Fact (P .sp)] [Fact (P .spares)] [Fact (P .sram)] [Fact (P .sv)] [Fact (P .sys)] [Fact (P .tbl)] [Fact (P .tm)] [Fact (P .transit)] [Fact (P .txs)] (ch : Fin 8) (s : State) : Outs P s (execMdDataResponse ch s) := by
  unfold execMdDataResponse
  apply outs_next
  repeat' (first
    | with_reducible assumption
    | with_reducible exact Keeps.refl _
    | with_reducible apply keeps_mdReturned
    | with_reducible apply keeps_sramWrite
    | with_reducible apply keeps_okay
    | with_reducible apply keeps_setMd
    | with_reducible apply keeps_declined
    | with_reducible apply keeps_settleBeats
    | with_reducible refine keeps_mdResponse (by assumption) ?_
    | with_reducible apply keeps_mdRegWords
    | with_reducible refine keeps_mdRegWords_eq _ _ _ (by assumption) ?_
    | with_reducible apply keeps_mdRegRead
    | with_reducible refine keeps_mdRegRead_eq _ _ _ _ (by assumption) ?_
    | fail_if_no_progress (with_reducible apply keeps_mk <;> first | exact .inl Fact.out | with_reducible exact .inr rfl | with_reducible rfl | skip)
    | with_reducible apply keeps_each
    | with_reducible apply keeps_foldl
    | split
    | intro _
    | (extract_lets +onlyGivenNames x; refine keeps_cut (x := x) ?_ ?_; on_goal 2 => clear_value x)
    | extract_lets +onlyGivenNames y)

theorem keeps_mdWrittenBack [Fact (P .fab)] [Fact (P .md)] [Fact (P .ny)] [Fact (P .regs)] [Fact (P .sp)] {s₀ s : State} (ch : Nat) (a : MdAcc) (r : Resp) (hk : Keeps P s₀ s) : Keeps P s₀ (State.mdWrittenBack s ch a r) := by
  unfold State.mdWrittenBack
  repeat' (first
    | with_reducible assumption
    | with_reducible exact Keeps.refl _
    | with_reducible apply keeps_okay
    | with_reducible apply keeps_mdAdvance
    | with_reducible apply keeps_setMd
    | with_reducible apply keeps_mdStop
    | with_reducible apply keeps_mdFailAt
    | fail_if_no_progress (with_reducible apply keeps_mk <;> first | exact .inl Fact.out | with_reducible exact .inr rfl | with_reducible rfl | skip)
    | with_reducible apply keeps_each
    | with_reducible apply keeps_foldl
    | split
    | intro _
    | (extract_lets +onlyGivenNames x; refine keeps_cut (x := x) ?_ ?_; on_goal 2 => clear_value x)
    | extract_lets +onlyGivenNames y)

theorem keeps_execMdWritebackResponse [Fact (P .fab)] [Fact (P .md)] [Fact (P .ny)] [Fact (P .regs)] [Fact (P .sp)] [Fact (P .sram)] (ch : Fin 8) (s : State) : Outs P s (execMdWritebackResponse ch s) := by
  unfold execMdWritebackResponse
  apply outs_next
  repeat' (first
    | with_reducible assumption
    | with_reducible exact Keeps.refl _
    | with_reducible apply keeps_mdWrittenBack
    | with_reducible apply keeps_sramWrite
    | with_reducible apply keeps_okay
    | with_reducible refine keeps_mdResponse (by assumption) ?_
    | fail_if_no_progress (with_reducible apply keeps_mk <;> first | exact .inl Fact.out | with_reducible exact .inr rfl | with_reducible rfl | skip)
    | with_reducible apply keeps_each
    | with_reducible apply keeps_foldl
    | split)

end Sys2Proof.Laws
end

