-- ==== Sys2Proof/Laws/Regs.lean ====
section
/-! SUPPORT. Which register fields the shared operations leave: `Kept` is built up write by write, and what a kept field reads. -/

namespace Sys2Proof.Laws

open Sys2Proof.Machine

variable {fs : List Fld}

theorem kept_refl (s : State) : Kept fs s s := fun _ _ => rfl

theorem kept_trans {a b c : State} (h : Kept fs a b) (g : Kept fs b c) : Kept fs a c := fun k q => (g k q).trans (h k q)

/-- A change outside the registers keeps them. -/
theorem kept_flds {s t u : State} (e : u.flds = t.flds) (h : Kept fs s t) : Kept fs s u := fun k q => by rw [e]; exact h k q

theorem kept_wr {s t : State} (f : Fld) (v : Nat) (hf : f ∈ fs) (h : Kept fs s t) : Kept fs s (t.wr f v) := fun k q => by
  have : k ≠ f.key := fun e => q (List.mem_map.mpr ⟨f, hf, e.symm⟩)
  unfold State.wr
  simp only
  rw [mapGet_set, if_neg this]
  exact h k q

/-- What a kept field reads. -/
theorem rd_kept {s t : State} (h : Kept fs s t) (f : Fld) (hf : f.key ∉ fs.map Fld.key) : t.rd f = s.rd f := h f.key hf

theorem kept_mono {gs : List Fld} {s t : State} (hs : fs ⊆ gs) (h : Kept fs s t) : Kept gs s t := fun k q =>
  h k (fun e => q (by
    obtain ⟨f, hf, e⟩ := List.mem_map.mp e
    exact List.mem_map.mpr ⟨f, hs hf, e⟩))

/-- The fields that an occurrence of performance event `e` may change (R377). -/
def pcFields (e : Nat) : List Fld := [PC_CNT_LO_COUNT e, PC_CNT_HI_COUNT e, PC_OVF_OVF (e / 32), NY_EVT_PC_OVF]

theorem kept_pcEvent (s : State) (e : Nat) (a : PcAttr) (n : Nat) : Kept (pcFields e) s (s.pcEvent e a n) := by
  have h : ∀ v, Kept (pcFields e) s (s.wr64 (PC_CNT_LO_COUNT e) (PC_CNT_HI_COUNT e) v) := fun v =>
    kept_wr _ _ (by simp [pcFields]) (kept_wr _ _ (by simp [pcFields]) (kept_refl s))
  unfold State.pcEvent
  extract_lets fs v t
  split
  · exact kept_refl s
  · split
    · exact h _
    · exact kept_wr _ _ (by simp [pcFields]) (kept_wr _ _ (by simp [pcFields]) (h _))

/-- A word entering a crossing shows in that crossing's two fields alone. -/
theorem kept_crossed {s t : State} (x n : Nat) (ho : SYS_XING_STAT_OCC_MAX x ∈ fs) (hl : SYS_XING_STAT_LAT_MAX x ∈ fs)
    (h : Kept fs s t) : Kept fs s (t.crossed x n) :=
  kept_wr _ _ hl (kept_wr _ _ ho h)

theorem crossed_eq (s : State) (x n : Nat) : ∃ l, s.crossed x n = { s with flds := l } := ⟨_, rfl⟩

/-- The class 10 instance of an access is one that the port's counts name. -/
theorem homeXing_mem {s : State} {off i : Nat} (h : s.homeXing off = some i) : 640 + i ∈ portXings := by
  unfold State.homeXing at h
  split at h
  · have m := List.mem_range.mp (List.mem_of_find?_eq_some h)
    have : i = 0 ∨ i = 1 ∨ i = 2 ∨ i = 3 ∨ i = 4 := by omega
    rcases this with rfl | rfl | rfl | rfl | rfl <;> decide
  · split at h
    · cases h
      have : i = 0 ∨ i = 1 ∨ i = 2 ∨ i = 3 ∨ i = 4 ∨ i = 5 ∨ i = 6 ∨ i = 7 := by omega
      rcases this with rfl | rfl | rfl | rfl | rfl | rfl | rfl | rfl <;> decide
    · split at h
      · cases h; decide
      · cases h

theorem occMax_mem {x : Nat} (h : x ∈ portXings) : SYS_XING_STAT_OCC_MAX x ∈ portCounts := by
  have := List.mem_map_of_mem (f := SYS_XING_STAT_OCC_MAX) h
  unfold portCounts
  simp only [List.mem_append, this, or_true, true_or]

theorem latMax_mem {x : Nat} (h : x ∈ portXings) : SYS_XING_STAT_LAT_MAX x ∈ portCounts := by
  have := List.mem_map_of_mem (f := SYS_XING_STAT_LAT_MAX) h
  unfold portCounts
  simp only [List.mem_append, this, or_true]

theorem kept_spCross {s t : State} (off : Nat) (h : Kept portCounts s t) : Kept portCounts s (t.spCross off) := by
  unfold State.spCross
  have g : Kept portCounts s (t.crossed 710 1) := kept_crossed _ _ (by decide) (by decide) h
  extract_lets u
  split
  · have m := homeXing_mem (by assumption)
    exact kept_crossed _ _ (occMax_mem m) (latMax_mem m) g
  · exact g

theorem kept_spCount (s : State) (w : Who) (b : Bool) (off : Nat) : Kept portCounts s (s.spCount w b off) := by
  unfold State.spCount
  split
  · exact kept_refl s
  · apply kept_spCross
    cases b
    · exact kept_mono (by decide) (kept_pcEvent s 648 _ 1)
    · exact kept_mono (by decide) (kept_pcEvent s 649 _ 1)

/-- An occurrence of a performance event changes registers alone. -/
theorem pcEvent_eq (s : State) (e : Nat) (a : PcAttr) (n : Nat) : ∃ l, s.pcEvent e a n = { s with flds := l } := by
  unfold State.pcEvent
  extract_lets fs v t
  split
  · exact ⟨s.flds, rfl⟩
  · split <;> exact ⟨_, rfl⟩

/-- Counting an access changes registers alone. -/
theorem spCount_eq (s : State) (w : Who) (b : Bool) (off : Nat) : ∃ l, s.spCount w b off = { s with flds := l } := by
  unfold State.spCount State.spCross
  split
  · exact ⟨s.flds, rfl⟩
  · obtain ⟨l, e⟩ := pcEvent_eq s (if b then 649 else 648) { priv := some w.priv, master := some w.master, addr := some off } 1
    rw [e]
    extract_lets u
    split
    · exact crossed_eq _ _ _
    · exact crossed_eq _ _ _

end Sys2Proof.Laws
end

