-- ==== Sys2Proof/WellFormed.lean ====
section
/-! DEFINITION. Which commands a sender can give at all: accesses by a master that exists, words and messages of the lengths
the interfaces have. An access that the block turns away (a wrong size, an unprivileged master) is well formed: it is answered. -/

namespace Sys2Proof

/-- A master is one of the setup port's 256, or the Nyelle core, whose own path is always privileged (R364, R447). -/
def Who.wf (w : Who) : Bool := w.master < 256 || (w.master == 256 && w.priv)

/-- A beat carries no more than its two granules of 64 bytes (R52). -/
def Beat.wf (b : Beat) : Bool := b.data.length ≤ 128

/-- The command is one that its sender can give. -/
def Instr.wf : Instr → Bool
  | .registerWrite w _ _ _ _ | .rcRead w _ _ _ _ => w.wf
  | .lowWordRead w off => w.wf && Machine.isPairLow off.toNat
  | .sdReload w | .portCfgWrite w _ _ | .chanCfgWrite w _ _ | .lnSubstitute w _ _ | .txRelease w _ _ | .lnRestore w _ _
  | .spareAbort w _ _ | .rehunt w _ | .groupEnable w _ _ _ _ | .groupDisable w _ | .pairEnable w _ _ | .pairCmdNone w _
  | .pairCmdLo w _ | .pairCmdFs w _ | .pairCmdMsProtect w _ | .pairCmdMsWorking w _ | .pairCmdExer w _ | .mcCommit w _ _
  | .doorbellWrite w _ _ _ | .eventConsumerWrite w _ _ _ | .fcModeWrite w _ _ | .clEnable w _ | .clClear w _ | .clInsert w
  | .clDelete w | .clModify w | .clQuery w | .mtWrite w _ | .mtRead w | .scCommit w | .scRead w | .tgCommit w _
  | .cmdEnableWrite w _ | .cmdPiWrite w _ | .cxCommit w | .ccClaim w _ | .ccWordWrite w _ _ _ | .ccCommit w _ _
  | .ccDone w _ _ | .ccRelease w _ _ | .ccBreak w _ | .tbAcq w _ | .tbRel w _ _ | .tbForce w _ | .tbUnwant w _
  | .lgCiWrite w _ | .lgRingEnable w _ | .tmSet w | .tmOffset w | .tmRelock w | .tmIncrWrite w _ | .timeCaptureRead w
  | .hbSwSet w _ | .hbClaim w _ _ | .hbComplete w _ _ | .hbSrcCfgWrite w _ _ | .hbDisableWrite w _ | .mdStart w _
  | .mdAbort w _ | .cuArm w _ _ | .cuDisarm w _ | .coreRst w _ _ _ | .wdtKick w | .logPostFw w _ _ | .logPostHost w _ _
  | .logPersistWrite w _ | .logSeqWrite w _ | .pcFreeze w _ | .pcSnap w _ | .pcClear w _ | .pcExport w _ | .storeRead w _
  | .storeProgram w _ | .storeErase w | .storeReadStatus w | .updateGo w _ | .updateResult w _ _ | .kwStart w | .kwAbort w
  | .kwDinWrite w _ | .kwDoutRead w | .keyWrite w _ _ | .keyZero w _ | .keyLock w _ | .fuseProg w | .requestA0 w _
  | .requestP1 w _ | .requestW w _ | .requestS w _ | .requestD w _ | .svEvacuate w _ _ | .svReturn w _ | .fabSpare w _
  | .fabRestore w _ | .tblSpare w _ | .tblRestore w _ | .rowRepair w _ | .sliceTest w _ | .svAbort w _ => w.wf
  | .fabricBeatReceived _ b => b.wf
  | .todMessage m => m.length == 11
  | .thermalUpdate r => r.length == 24
  | .aonRstNFall | .blkRstNFall | .pwGoodFall | .resetRelease _ | .firmwareRunning | .sdFetchResponse
  | .bringupComplete | .bringupTimeout | .bringupSliceTimeout _ | .heartbeatMark | .heartbeatDeferredWrite
  | .heartbeatWriteResponse | .islandClockStop _ | .fabricRequestTimeout _ _ | .tableReadTimeout _ _ | .rxLaneWord _ _
  | .txLaneWord _ _ | .laneUp _ | .laneDown _ _ _ _ _ | .alignmentLock _ _ | .alignmentLost _ | .rxFaultSequence _ _ _
  | .riltorHeaderCheck _ _ _ _ | .linkUp _ | .spareMatch _ _ | .spareConfirmDone _ | .spareMatchTimeout _ | .spareSwitch _ | .txRiltorFrame _
  | .gfpCoreHeader _ | .gfpFrameReceived _ | .gfpLinkUp _ | .groupSegment _ | .hingeCopyArrival _ | .hingeWaitExpiry _
  | .holdoffExpiry _ _ | .wtrExpiry _ | .secondBoundary | .ohTxWord _ | .ohRxWord _ _ _ | .rxFrame _ _ _ _ _
  | .lookupRequest _ | .tableReadResponse | .lookupDeadline _ | .verdictReturn _ | .rxFrameRelease _ _
  | .rxFrameEntry _ | .rxDescriptorTake _ | .rxDataWriteResponse | .rxCompletionWrite _ | .completionWriteResponse
  | .descriptorReadIssue | .descriptorReadResponse | .dataFetchIssue | .dataFetchResponse | .dispatch _ _ _
  | .txFrameInStaging _ | .txFrameStart _ _ | .txFrameEnd _ | .txCompletionWrite _ | .pauseTimerExpiry _ _
  | .pauseRefreshTimer _ | .pauseWatchdog _ _ | .watchdogHoldoffEnd _ _ | .clClearDone | .updateWriteResponse
  | .stashMigrate | .refillInstant | .starveTimer _ _ | .guardWindowEnd _ | .tgTakeover _ | .gateEntryChange _ _
  | .queueStopped _ _ | .notifyModTimer _ _ | .notifyMessageResponse | .commandReadResponse
  | .commandCompletionResponse | .cmdNop | .ctxCreate | .ctxDestroy | .ctxReset | .ctxFreeze | .ctxSave | .ctxRestore
  | .ctxResume | .dirtyStart | .dirtyStop | .txqSetup | .rxqSetup | .qStop | .qRestart | .qTeardown | .evqSetup
  | .evqTeardown | .vecSet | .epInsert | .epDelete | .epModify | .epQuery | .shaperSet | .resetEnd _ | .drainTimeout _
  | .freezeEnd _ | .freezeTimeout _ | .imageWriteResponse | .imageReadResponse | .dirtyMarkResponse | .leaseExpiry _
  | .haltInputChange _ _ | .wantExpiry _ | .cycleWalk | .cutInstant | .cutMarker _ | .cutWindowTimeout
  | .ledgerRecordWrite | .ledgerRecordResponse | .contextClose _ | .realignmentBoundary | .ppsEdge | .ppsLossTimeout
  | .aonPeriodMeasured _ | .sourceLevelChange _ | .holdoffGroupExpiry _ | .targetAwakeChange _ _ | .redirectTimeout _
  | .watchWake _ | .mdDescriptorRead _ | .mdDataResponse _ | .mdWritebackResponse _ | .mdStoppingDone _
  | .watchdogExpiry _ _ | .sramEccError _ _ _ _ _ _ | .machineTimer | .droopEpisode _ _ | .clockMonitorWindow _ _ _
  | .logStore | .pcExportResponse | .bgDeadlineMiss _ _ | .scrubSweepEnd _ _ | .storeXferDone _ | .keywardBlockDone
  | .rngFail | .fuseProgDone | .haspReqRise | .haspGrant | .haspReqFall | .entryRequestsDrained | .entryTickLatch
  | .pwAckRise | .pwAckTimeout | .wakeSource _ | .wakeTimer | .exitPowerRestored _ | .exitClocksOk | .p1EntryDrained
  | .brownOut | .svCheckpoint _ _ | .evacCopyDone | .evacRxReady | .evacRxSwitch | .evacDrainDone | .evacDrainTimeout
  | .evacLockstepCompare _ | .fabSpareSwitch | .tblSpareSwitch | .rowRepairSwitch | .rngOkReturn | .sliceTestDone _
  | .coreDebugHalt _ | .scrubUncorrectableWord _ | .powerRemoved | .pwIsoRise => true

end Sys2Proof
end

