-- ==== Sys2Proof/Tests/Slice0.lean ====
section
/-! SUPPORT. The model's own tests: worked examples of the spec, each a single command on a small state; commands that `Instr.wf` refuses;
and for every statement of the obligations that has hypotheses, states and operands that meet them. -/

open Sys2Proof Sys2Proof.Machine

namespace Sys2Proof.Tests

set_option Elab.async false

/-! ## States the tests start from -/

/-- A host master with management privilege, and the Nyelle core. -/
def host : Who := ⟨1, true⟩
def core : Who := ⟨256, true⟩

/-- Registers written in order. -/
def wrs (s : State) (l : List (Fld × Nat)) : State := l.foldl (fun s e => s.wr e.1 e.2) s

/-- A block in `READY` whose islands run and whose ports are up. -/
def ready : State := wrs { sys := { aonRstN := true, blkRstN := true, pwGood := true, started := 0x1FF }, fab := { up := 0xFFFF } }
  [(SYS_STATE_STATE, stREADY)]

/-- Bytes of a surroundings descriptor up to `n`, zero but for the words listed by offset. -/
def sdBytes (n : Nat) (l : List (Nat × Nat)) : List Byte :=
  (List.range n).map (fun i => match l.find? (fun e => e.1 ≤ i && i < e.1 + 4) with
    | some e => BitVec.ofNat 8 (e.2 / 2 ^ (8 * (i - e.1)))
    | none => 0)

/-- Words in order, each after a number of zero bytes. -/
def sdWords (l : List (Nat × Nat)) : List Byte := l.flatMap (fun e => List.replicate e.1 0 ++ leBytes 4 e.2)

/-- A surroundings descriptor that passes every check of R43: the word at 0x008 is chosen so that the check word is zero. -/
def sdHead : List Byte := sdWords [(0, 0x44534656), (0, 1), (0, 0xA24F8764), (12, 0x10064), (0, 1), (0, 0x010101), (140, 1), (20, 512), (0, 0x010100)]
def sdGood : List Byte := sdHead ++ (List.replicate 816 0 ++ sdWords [(0, 0x020100), (0, 0x10C14)])

/-- An answer that has arrived for a kind of request. -/
def answer (k : ReqKind) (a b : Nat) (r : Resp) (data : List Byte) (s : State) : State :=
  { s with fab := { s.fab with done := [⟨k, a, b, 0, 0, r, data⟩] } }

/-- The state without answers. -/
def quiet (s : State) : State := { s with fab := { s.fab with done := [] } }

/-- A surroundings descriptor in force whose words are zero but for those listed by offset. -/
def withSd (l : List (Nat × Nat)) (s : State) : State := { s with sys := { s.sys with sd := some (sdBytes 0x408 l) } }

/-- A received frame of 64 bytes without its check sequence on a channel, in its slice, and a transmit frame of 60 bytes on queue 0. -/
def rx0 (c : Nat) : RxFr :=
  { chan := c, len := 64, flags := 0, deliverBad := false, data := List.replicate 60 0, csum := 0, tag1 := 0, tci1 := 0, tag2 := 0,
    tci2 := 0, stamp := 0, holdover := false, pcp := 0, yellow := false, verdict := none, dropRec := false, control := false }
def tx0 : TxFr := { queue := 0, ctx := 0, idx := 0, desc := [], len := 60, stage := .staged }

/-- Pair 0 of the groups 1 and 2 on channels 5 and 6, both up. -/
def pair0 (l : List (Fld × Nat)) : State := wrs ready
  ([(GP_PAIR_CFG_EN 0, 1), (GP_PAIR_CFG_WORK 0, 1), (GP_PAIR_CFG_PROT 0, 2), (GP_GRP_CFG_CHAN 1, 5), (GP_GRP_CFG_CHAN 2, 6),
    (GP_GRP_CFG_EN 1, 1), (GP_GRP_CFG_EN 2, 1), (GP_GRP_CFG_N 1, 1), (GP_GRP_CFG_N 2, 1), (GP_GRP_STAT_STATE 1, 2), (GP_GRP_STAT_STATE 2, 2),
    (TF_GFP_STAT_STATE 5, 2), (TF_GFP_STAT_STATE 6, 2)] ++ l)

/-- Channel 9 of port 1 receives. -/
def mac9 (l : List (Fld × Nat)) : State := wrs ready
  ([(SYS_SLICE_MAP_MAP, 0x0BA98), (LN_PORT_CFG_ENABLE 1, 1), (LN_CHAN_CFG_EN 9, 1), (LN_CHAN_CFG_SPEED 9, 1), (LN_CHAN_STAT_STATE 9, 2)] ++ l)

/-- A key of type 1, whose hash is zero under the reset key, and its entry. -/
def key0 : List Byte := 1 :: List.replicate 39 0
def ent0 : Nat := mkEnt 1 0 0 7

/-- A table channel is present and context 0 owns the receive queue 0. -/
def tblCtx (l : List (Fld × Nat)) : State := withSd [(0x0B0, 1), (0x0C8, 512), (0x0CC, 0x010100)]
  { (wrs ready l) with ctxs := [(0, { state := 1, rxq := [3] })] }

/-- Context 0 is active with transmit queue 2 and receive queue 3, both running. -/
def ctx0 (s : State) : State := { s with
  ctxs := [(0, { state := cACTIVE, txq := [2], rxq := [3] })],
  qs := [(2, { state := qRUN, owned := true, qidx := 0 }), (32771, { state := qRUN, owned := true, qidx := 0 })] }

/-- Frame 7 of queue 2 goes to class 0 of channel 9. -/
def tx7 : TxFr := { tx0 with queue := 2, stage := .ready, chan := 9, cells := 1, data := [(0, List.replicate 60 0)] }

/-- Frame 7 stands staged in class 0 of channel 9. -/
def staged9 (l : List (Fld × Nat)) : State :=
  { (mac9 l) with txs := [(7, { tx7 with stage := .staged, cells := 0 })], chs := [(9, { staged := [(0, [7])] })] }

/-- A command entry of an operation for a context with the bytes listed by offset, and a state with that entry at the head of the ring. -/
def cmdE (op x : Nat) (l : List (Nat × Nat)) : List Byte :=
  (List.range 64).map (fun i => BitVec.ofNat 8 (if i = 0 then op else if i = 4 then x else ((l.find? (fun e => e.1 == i)).map (·.2)).getD 0))
def cmdS (e : List Byte) (s : State) : State := { (wrs s [(HR_CMD_CFG_EN, 1)]) with ring := { heads := [e] } }

/-- A context image that passes every test: one queue of each kind, unset. -/
def imgGood : List Byte := sdWords [(0, 0x58434656), (0, 1), (4, 0x101), (236, 41994211)]

/-- The first `n` receive queues are owned. -/
def ownedRx (n : Nat) : SMap QSt := (List.range n).map (fun k => (k + 32768, { owned := true }))

/-- Every receive queue is owned. -/
@[irreducible] def allOwned : SMap QSt := ownedRx 32768

/-- Command 0 of the ring is under way. -/
def running (op : Nat) (s : State) : State := { (wrs s [(HR_CMD_CFG_EN, 1)]) with ring := { active := [(0, cmdOf (cmdE op 0 []))], nextId := 1 } }

/-- A cut window for the cut at second 60 that waits for these markers. -/
def win60 (due : List Nat) : WinSt :=
  { inst := 60 * secUnits, opened := 100, due := due, step := false, holdover := false, mode := 0, owners := [], ctxs := [0], lateCtx := [],
    lateCount := 0, auditAll := false, skipped := false, floor := 60 * secUnits }

/-- A service operation at a step. -/
def sv (op arg step : Nat) (force : Bool) (s : State) : State := { s with sv := { op := op, arg := arg, step := step, force := force } }

/-- A Riltor header of a word. -/
def hdr (m : Nat) : List Byte := let b := leBytes 4 m ++ [0x20, 0, 0, 0]; b ++ leBytes 4 (crc32c b)
/-- The idle frame of the GFP stream. -/
def idle : List Byte := [0xB6, 0xAB, 0x31, 0xE0]
/-- Group 3 of two positions, with a segment held of each. -/
def seg3 (st sp good : Nat) : State := { (wrs ready [(GP_GRP_CFG_EN 3, 1), (GP_GRP_CFG_N 3, 2), (GP_GRP_STAT_STATE 3, st), (GP_POS_CFG_IN_GROUP 1, 1), (GP_POS_CFG_GROUP 1, 3), (GP_POS_CFG_IN_GROUP 2, 1), (GP_POS_CFG_GROUP 2, 3), (GP_POS_CFG_MEMBER 2, 1), (TF_FR_STAT_STATE 1, 2), (TF_FR_STAT_STATE 2, 2), (TF_FR_STAT_RX_PT 1, 1), (TF_FR_STAT_RX_PT 2, 1), (TF_FR_STAT_RX_MEMBER 2, 1)]) with grps := [(3, { good := good, next := 6, seen := [(6, [(1, 1), (2, 1 + sp * 2 ^ 32)])] })], frs := [(1, { accepted := true, store := [⟨6, 1, [1, 2]⟩] }), (2, { accepted := true, store := [⟨6, 1 + sp * 2 ^ 32, [3, 4]⟩] })] }
/-- A received lane word. -/
def word5 : RxWord := ⟨5, 1, 0, 0, false⟩
/-- Wired lane 10 carries position 1.1 of channel 9 and transmits. -/
def lane10 : State := withSd [(0x224, 1), (0x228, 0x10005)] { (wrs ready [(LN_PORT_CFG_ENABLE 1, 1), (LN_CHAN_CFG_EN 9, 1), (LN_CHAN_CFG_FIRST 9, 1), (LN_CHAN_CFG_SPEED 9, 1), (LN_LANE_STAT_TX_IDLE 10, 0)]) with lanes := [(10, { txClk := true })] }
/-- The framer of position 4 in a state, with bytes at the tested bit and its candidates. -/
def fr4 (b : List Byte) (st fails mfc : Nat) (cs : List Cand) : State := { (wrs ready [(TF_FR_STAT_STATE 4, st), (TF_FR_STAT_FAILS 4, fails), (TF_FR_MFC_MFC 4, mfc)]) with frs := [(4, { line := b, pos := 9, cands := cs })] }

/-- A value computed before it is used. -/
def force {α : Type} (n : Nat) (f : Nat → α) : α :=
  match n with
  | 0 => f 0
  | m + 1 => f (m + 1)

/-- A reflected CRC register run over bytes, one byte computed before the next. -/
def crcForced (p c : Nat) : List Byte → Nat
  | [] => c
  | b :: l => force (crcByteR p c b) (fun d => crcForced p d l)

theorem force_eq {α : Type} (n : Nat) (f : Nat → α) : force n f = f n := by cases n <;> rfl

theorem crcForced_eq (p : Nat) (l : List Byte) : ∀ c, crcRunR p c l = crcForced p c l := by
  induction l with
  | nil => intro c; rfl
  | cons b l h => intro c; rw [crcForced, force_eq]; exact h _

theorem crc32c_forced (l : List Byte) : crc32c l = crcForced 0x82F63B78 0xFFFFFFFF l ^^^ 0xFFFFFFFF := by rw [crc32c, crcForced_eq]

theorem byteAt_past {d : List Byte} {i : Nat} (h : d.length ≤ i) : byteAt d i = 0 := by simp [byteAt, h]

theorem leNat_past {d : List Byte} {i : Nat} (n : Nat) (h : d.length ≤ i) : leNat d i n = 0 := by
  unfold leNat
  induction List.range n with
  | nil => rfl
  | cons j l ih => rw [List.foldr_cons, ih, byteAt_past (by omega)]

theorem recordTests_past {d : List Byte} {i : Nat} (used : Bool) (h : d.length ≤ i) : ∀ e ∈ recordTests d i used, e.2 = false := by
  intro e he
  cases used with
  | false =>
    simp only [recordTests, Bool.not_false, if_true, List.mem_map] at he
    obtain ⟨k, -, rfl⟩ := he
    simp [byteAt_past (show d.length ≤ i + k by omega)]
  | true =>
    simp only [recordTests, leNat_past 22 h, show ∀ i n, bits 0 i n = 0 by intro i n; simp [bits]] at he
    simp at he
    rcases he with rfl | rfl | rfl | rfl | rfl | rfl <;> rfl

theorem imgGood_crc : crc32c (imgGood.take 0x0FC ++ imgGood.drop 0x100) = leNat imgGood 0x0FC 4 := by
  rw [crc32c_forced]; decide +kernel

theorem imgGood_ok : imageBad imgGood = none := by
  have hl : imgGood.length = 256 := by decide +kernel
  have hf : (imageTests imgGood).find? (·.2) = none := by
    rw [List.find?_eq_none]
    intro e he
    simp only [imageTests, List.mem_append, List.mem_map, List.mem_flatMap, List.mem_range] at he
    rcases he with (((he | ⟨k, hk, rfl⟩) | ⟨v, -, he⟩) | ⟨q, -, he⟩) | ⟨q, -, he⟩
    · revert e; decide +kernel
    · revert k; decide +kernel
    · rw [leNat_past 4 (by omega), byteAt_past (by omega)] at he
      simp [bits] at he
      rcases he with rfl | rfl | rfl <;> simp [byteAt_past (show imgGood.length ≤ 271 + 16 * v by omega)]
    · simp [recordTests_past _ (show imgGood.length ≤ 0x500 + 22 * q by omega) e he]
    · simp [recordTests_past _ (show imgGood.length ≤ 0xA80 + 22 * q by omega) e he]
  unfold imageBad
  rw [imgGood_crc, if_neg (by decide +kernel), if_neg (by decide +kernel), if_neg (by simp), hf]
  rfl

theorem sdWordOk_zero {b : List Byte} {k : Nat} (hv : sdw b (4 * k) = 0) (h : 76 ≤ k) (h1 : k ≠ 256) (h2 : k ≠ 257) :
    sdWordOk b (4 * k) = true := by
  unfold sdWordOk
  simp only [hv]
  simp (disch := omega) [within, if_neg, sdLaneOk, bits, bitN]
  by_cases h3 : 4 * k < 512 ∨ 655 < 4 * k
  · exact .inl h3
  · rw [show 512 + 4 * ((4 * k - 512) / 4) = 4 * k by omega, hv]
    simp

theorem sdGood_crc : sdw sdGood 0xFFC = crc32c (sdGood.take 0xFFC) := by
  rw [crc32c_forced]; decide +kernel

theorem sdHead_length : sdHead.length = 208 := by decide +kernel

theorem sdGood_length : sdGood.length = 1032 := by
  simp only [sdGood, List.length_append, List.length_replicate, sdHead_length]
  decide

theorem byteAt_gap {a b : List Byte} {n i : Nat} (h : a.length ≤ i) (h2 : i < a.length + n) :
    byteAt (a ++ (List.replicate n 0 ++ b)) i = 0 := by
  simp [byteAt, List.getD_eq_getElem?_getD, List.getElem?_append, show ¬ i < a.length by omega,
    show i - a.length < n by omega]

theorem sdGood_gap {i : Nat} (h : 208 ≤ i) (h2 : i < 1024) : byteAt sdGood i = 0 :=
  byteAt_gap (by rw [sdHead_length]; exact h) (by rw [sdHead_length]; exact h2)

theorem sdw_gap {o : Nat} (h : 208 ≤ o) (h2 : o < 1021) : sdw sdGood o = 0 := by
  simp (disch := omega) only [sdw, leNat, List.range, List.range.loop, List.foldr, sdGood_gap]

theorem sdGood_words : sdOffsets.find? (fun o => !sdWordOk sdGood o) = none := by
  have h : ∀ k < 76, sdWordOk sdGood (4 * k) = true := by decide +kernel
  rw [List.find?_eq_none]
  intro o ho
  simp only [sdOffsets, List.mem_map] at ho
  obtain ⟨k, -, rfl⟩ := ho
  have : sdWordOk sdGood (4 * k) = true := by
    by_cases h1 : k < 76
    · exact h k h1
    · by_cases h2 : k = 256
      · subst h2; decide +kernel
      · by_cases h3 : k = 257
        · subst h3; decide +kernel
        · refine sdWordOk_zero ?_ (by omega) h2 h3
          by_cases h4 : k < 256
          · exact sdw_gap (by omega) (by omega)
          · exact leNat_past 4 (by rw [sdGood_length]; omega)
  simp [this]

theorem sdGood_ok (s : State) : (s.sdCheck sdGood false).1 = 0 := by
  unfold State.sdCheck
  rw [if_neg (by decide +kernel), if_neg (by decide +kernel), if_neg (not_not_intro sdGood_crc), sdGood_words]
  rfl

theorem ownedQueues_ownedRx {s : State} {n : Nat} (h : s.qs = ownedRx n) : (s.ownedQueues true).length = n := by
  unfold State.ownedQueues
  rw [h, List.length_map, List.filter_eq_self.2]
  · simp [ownedRx]
  · intro e he
    simp only [ownedRx, List.mem_map] at he
    obtain ⟨k, -, rfl⟩ := he
    simp

theorem allOwned_eq : allOwned = ownedRx 32768 := by unfold allOwned; rfl

theorem allocQueues_allOwned {s : State} (h : s.qs = allOwned) (n : Nat) {m : Nat} (hm : 0 < m) : s.allocQueues n m = none := by
  have hl := ownedQueues_ownedRx (h.trans allOwned_eq)
  have : ¬ ((s.ownedQueues false).length + n ≤ 32768 ∧ (s.ownedQueues true).length + m ≤ 32768) := by omega
  simp only [State.allocQueues, if_neg this]

/-! ## Worked examples of the spec -/

/-- The answer is a next state of which `p` holds. -/
def goesTo (o : Host.Outcome State Fault Refusal) (p : State → Bool) : Bool := match o with
  | .next t => p t
  | _ => false

/-- The nine characters the check values are given for. -/
def digits : List Byte := [0x31, 0x32, 0x33, 0x34, 0x35, 0x36, 0x37, 0x38, 0x39]

/-- The check value of R42. -/
theorem test_crc32c_check_value : crc32c digits = 0xE3069283 := by decide +kernel

/-- The check values of R360, algorithms 0 to 3. -/
theorem test_check_unit_algorithms : (List.range 4).map (fun a => digits.foldl (cuFold a) (cuInit a) ^^^ cuFinal a) =
    [0xCBF43926, 0xE3069283, 0x6C40DF5F0B497347, 0x906E] := by decide +kernel

/-- The header bytes of "Encoding a frame" (04), and with one bit of the count changed. -/
theorem test_riltor_header : hdrFits [0x2B, 0x1A, 0, 0, 0x23, 7, 0, 1, 0x1D, 0x70, 0xBB, 0x29] = true ∧
    hdrFits [0x2A, 0x1A, 0, 0, 0x23, 7, 0, 1, 0x1D, 0x70, 0xBB, 0x29] = false := by decide +kernel

/-- The seed of "Encoding a frame" (04, R94). -/
theorem test_riltor_seed : riltorSeed 0x1A2B 3 = 0x0C001A2B := by decide +kernel

/-- The core header of "Encoding a frame" (04, R103): a length of 68 with its check, and an idle frame. -/
theorem test_gfp_core_header : coreAt [0xB6, 0xEF, 0x39, 0xA0] 0 = 0x00440840 ∧ hecFits 0x00440840 = true ∧ coreAt idle 0 = 0 := by
  decide +kernel

/-- The type headers of "Encoding a frame" (04, R104): without and with a payload check. -/
theorem test_gfp_type_header : crc16 [0x00, 0x01] = 0x1021 ∧ crc16 [0x10, 0x01] = 0x1352 := by decide +kernel

/-- 100 quanta at 1.6 Tb/s are 52 cycles (06, the example under R153). -/
theorem test_pause_quanta : (wrs ready [(LN_CHAN_CFG_SPEED 0, 5)]).quantaCycles 0 100 = 52 := by decide +kernel

/-- The colours of the five frames of the example of meter 200 (07), and the buckets after the fifth. -/
theorem test_meter_example :
    let m : MeterSt := { alg := 2, cir := 409600, cbs := 20000, pir := 204800, pbs := 10000, tokC := 256 * 20000, tokP := 256 * 10000 }
    let r := [0, 0, 1, 1, 2].foldl (fun (x : List Nat × MeterSt) p => let y := (x.2.refill p).colour 9000 false; (x.1 ++ [y.1], y.2)) ([], m)
    r.1 = [0, 0, 1, 2, 2] ∧ r.2.tokC = 256 * 5200 ∧ r.2.tokP = 256 * 1800 ∧ r.2.discP = 256 * 800 := by decide +kernel

/-- Context 37 of the doorbell example (09): its transmit queue 5 has 1,024 entries and consumer index 1,900. -/
def ctx37 : State := { ready with
  ctxs := [(37, { state := cACTIVE, txq := [0, 1, 2, 3, 4, 5] })],
  qs := [(5, { state := qRUN, owned := true, ctx := 37, qidx := 5, log2 := 10, pi := 1900, ci := 1900, fp := 1900 })] }

/-- The doorbell example (09): no fault of R226, the queue it names, and the producer index it writes. -/
theorem test_doorbell_accepted : ctx37.dbReason 37 0x50040 = 0 ∧ ctx37.poolQ 37 5 false = some 5 ∧ 0x50040 % 2 ^ 16 = 64 := by
  decide +kernel

/-- The doorbell example (09): too many entries are refused with reason 5, and an index beyond the ring with reason 4. -/
theorem test_doorbell_refused : ctx37.dbReason 37 (0x50000 + 1280) = 5 ∧ ctx37.dbReason 37 (0x50000 + 2304) = 4 := by decide +kernel

/-- The claim of the example of channel 42 (11): the word returned. -/
theorem test_channel_claim : (State.ccClaim { ready with cc := { chans := [(42, { token := 0x0A2A })] } } 42 17).1 = 0x82110A2B := by
  decide +kernel

/-- The example of locks 10 and 11 (11): the answer master 4 gets for the held lock. -/
theorem test_lock_held :
    (State.tbAcq { ready with cc := { locks := [(10, ⟨true, 4, 1⟩), (11, ⟨true, 9, 1⟩)] } } 11 4).1 = 0x40090000 := by decide +kernel

/-- The example of locks 10 and 11 (11): what the walk of master 9 latches. -/
theorem test_cycle_walk : goesTo (exec .cycleWalk
      { ready with cc := { walks := [9], wants := [(4, ⟨11, {}⟩), (9, ⟨10, {}⟩)], locks := [(10, ⟨true, 4, 1⟩), (11, ⟨true, 9, 1⟩)] } })
    (fun t => t.rd TB_CYC_START == 9 && t.rd TB_CYC_LEN == 2 && t.rd TB_CYC_LOCK == 10 && t.rd (TB_CYC_MASK_MASK 0) == 0x210) = true := by
  decide +kernel

/-- Target 5 of the hub example (14) with the sources 160 and 400 in these states. -/
def target5 (a b : SrcSt) : State :=
  { (wrs ready [(HB_SRC_CFG_EN 160, 1), (HB_SRC_CFG_TARGET 160, 5), (HB_SRC_CFG_EN 400, 1), (HB_SRC_CFG_TARGET 400, 5)]) with
    hub := { srcs := [(160, a), (400, b)] }, sys := { ready.sys with sd := some (sdBytes 0x318 [(0x314, 0x100)]) } }

/-- The hub example (14) at m150: the source that fired again wins over the lower number. -/
theorem test_hub_precedence : ((target5 { pending := true } { pending := true, preced := true }).hbClaim 5).1 = 0x80000190 := by
  decide +kernel

/-- The hub example (14) at m160 and m200: a claim while one is active, and the claim after it. -/
theorem test_hub_claims : ((target5 { pending := true } { active := true, holder := 5 }).hbClaim 5).1 = 0x40000190 ∧
    ((target5 { pending := true } {}).hbClaim 5).1 = 0x800000A0 := by decide +kernel

/-- The least increment R316 accepts, and the one below it. -/
theorem test_increment_bounds :
    goesTo (exec (.tmIncrWrite ⟨256, true⟩ 2681670206) ready) (fun t => t.rd TM_INCR_INCR == 2681670206) = true ∧
    goesTo (exec (.tmIncrWrite ⟨256, true⟩ 2681670205) ready) (fun t => t.rd TM_INCR_INCR == 0xA0000000 && t.rd TM_CFG_REJ_COUNT == 1) = true := by
  decide +kernel

/-- The offsets worked out in the window's map (20). -/
theorem test_window_offsets : (TG_ENTRY 12 1 5).off = 0x0D6414 ∧ (MC_STAT_LO_COUNT 20 29).off = 0x0668E8 := by decide +kernel

/-- A register written through the window at the worked offset (20). -/
theorem test_window_write : goesTo (exec (.registerWrite ⟨256, true⟩ false 0x0D6414 false 0x80000123) ready)
    (fun t => t.rd (TG_ENTRY 12 1 5) == 0x80000123 && t.sp == ⟨true, 0⟩) = true := by decide +kernel

/-- A write beyond the setup window is declined (R447, and the example of 20). -/
theorem test_window_beyond : goesTo (exec (.registerWrite host false 0x400000 false 1) ready) (fun t => t.sp.okay == false) = true := by
  decide +kernel

/-- The cipher of FIPS 197, which R399 names, over that standard's example of a 128-bit key. -/
theorem test_aes_example : aesEncrypt (List.range 16) ((List.range 16).map (17 * ·)) =
    [0x69, 0xC4, 0xE0, 0xD8, 0x6A, 0x7B, 0x04, 0x30, 0xD8, 0xCD, 0xB7, 0x80, 0x70, 0xB4, 0xC5, 0x5A] := by decide +kernel

/-- An idle step adds the increment of 0.625 ns to the counter (R315, R316). -/
theorem test_idle_step : goesTo (step ready) (fun t => t.tm.now == 0xA0000000 && t.tm.cyc == 1) = true := by decide +kernel

/-! ## Commands no sender can give -/

/-- No master is numbered 257, and the Nyelle core's own path is never without privilege. -/
theorem test_wf_master : (Instr.sdReload ⟨257, true⟩).wf = false ∧ (Instr.sdReload ⟨256, false⟩).wf = false ∧
    (Instr.sdReload host).wf = true := by decide

/-- A beat of more than two granules. -/
theorem test_wf_beat (b : Beat) : (Instr.fabricBeatReceived 0 { b with data := List.replicate 129 0 }).wf = false := by
  simp [Instr.wf, Beat.wf]

/-- A time-of-day message of ten bytes and a thermal report of 23 bytes. -/
theorem test_wf_messages : (Instr.todMessage (List.replicate 10 0)).wf = false ∧ (Instr.thermalUpdate (List.replicate 23 0)).wf = false := by
  decide

/-- A read of a low word where no pair stands. -/
theorem test_wf_pair : (Instr.lowWordRead host 0x000000).wf = false ∧ (Instr.lowWordRead host 0x170058).wf = true := by decide +kernel

/-! ## The hypotheses of each statement can be met

One theorem for each statement that has hypotheses: for every clause of it, a state and operands that meet the clause's hypotheses together. -/

theorem witness_IdleStepLetsACyclePass : (∃ s : State, s.pending = [] ∧ s.coreUp = true) ∧ (∃ s : State, s.pending = [] ∧ s.coreUp = false) :=
  ⟨⟨ready, by decide +kernel⟩, ⟨State.reset, by decide +kernel⟩⟩

theorem witness_CommandsLeaveTheQueueAndTime : ∃ (c : Instr) (s t : State), exec c s = .next t := ⟨.ccClaim host 3, ready, _, rfl⟩

theorem witness_CommandsTouchOnlyTheirParts : ∃ (c : Instr) (s t : State) (p : Part), exec c s = .next t ∧ touched c p = false :=
  ⟨.ccClaim host 3, ready, _, .hub, rfl, rfl⟩

theorem witness_StepsKeepTheStateWellFormed : ∃ s t : State, s.Wf ∧ step s = .next t :=
  ⟨{ ready with pending := [.ccClaim host 3] }, _, ⟨by decide +kernel, by decide +kernel⟩, rfl⟩

theorem witness_TimeCommands :
    (∃ (w : Who) (s : State), s.serves w 0x170028 4 = true ∧ s.stepHeld = false ∧ s.rd TM_SET_NS_NS ≤ 999999999) ∧
    (∃ (w : Who) (s : State), s.serves w 0x170028 4 = true ∧ s.stepHeld = false ∧ 999999999 < s.rd TM_SET_NS_NS) ∧
    (∃ (w : Who) (s : State), s.serves w 0x170028 4 = true ∧ s.stepHeld = false) ∧
    (∃ (w : Who) (s : State), s.serves w 0x170028 4 = true ∧ s.stepHeld = true) ∧
    (∃ (w : Who) (s : State), s.serves w 0x170028 4 = true ∧ s.stepHeld = false ∧ s.is TM_STAT_BUSY = false) ∧
    (∃ (w : Who) (s : State), s.serves w 0x170004 4 = true) ∧
    (∃ (w : Who) (s : State), s.serves w 0x170008 4 = true) :=
  ⟨⟨host, ready, by decide +kernel⟩,
  ⟨host, wrs ready [(TM_SET_NS_NS, 1000000000)], by decide +kernel⟩,
  ⟨host, wrs ready [(TM_OFFSET_NS, 0xFFFFFFFF)], by decide +kernel⟩,
  ⟨host, { ready with tm := { step := some ⟨.set, 0, 5⟩ } }, by decide +kernel⟩,
  ⟨host, wrs ready [(TM_STAT_SLEEP_HOLD, 1)], by decide +kernel⟩,
  ⟨host, ready, by decide +kernel⟩,
  ⟨host, { ready with tm := { now := 70000000000000000123 } }, by decide +kernel⟩⟩

theorem witness_CommandChannels :
    (∃ (w : Who) (n : Fin 256) (s : State), s.serves w (ccOff n + 0x40) 4 = true ∧ (s.chan n).state = 0) ∧
    (∃ (w : Who) (n : Fin 256) (s : State), s.serves w (ccOff n + 0x40) 4 = true ∧ (s.chan n).state ≠ 0) ∧
    (∃ (w : Who) (n : Fin 256) (v : BitVec 32) (s : State), s.serves w (ccOff n + 0x44) 4 = true ∧ (s.chan n).state = 1 ∧
      (s.chan n).owner = w.master ∧ bits v.toNat 0 16 = (s.chan n).token ∧ 1 ≤ bits v.toNat 16 5 ∧ bits v.toNat 16 5 ≤ 16 ∧
      bits v.toNat 21 11 = 0 ∧ s.hasConsumer n = true) ∧
    (∃ (w : Who) (n : Fin 256) (v : BitVec 32) (s : State), s.serves w (ccOff n + 0x48) 4 = true ∧ (s.chan n).state = 2 ∧
      s.isConsumer n w.master = true ∧ bits v.toNat 0 4 ≤ 8 ∧ bits v.toNat 4 5 ≤ 16 ∧ bits v.toNat 9 23 = 0) ∧
    (∃ (w : Who) (n : Fin 256) (v : BitVec 32) (s : State), s.serves w (ccOff n + 0x4C) 4 = true ∧
      ((s.chan n).state = 1 ∨ (s.chan n).state = 3) ∧ (s.chan n).owner = w.master ∧ v.toNat % 2 ^ 16 = (s.chan n).token) ∧
    (∃ (w : Who) (n : Fin 256) (i : Fin 16) (s : State), s.serves w (ccOff n + 4 * i) 4 = true) ∧
    (∃ (w : Who) (n : Fin 256) (v : BitVec 32) (s : State), s.serves w (ccOff n + 0x44) 4 = true ∧
      ((s.chan n).state ≠ 1 ∨ (s.chan n).owner ≠ w.master ∨ bits v.toNat 0 16 ≠ (s.chan n).token ∨ bits v.toNat 16 5 < 1 ∨ 16 < bits v.toNat 16 5 ∨ bits v.toNat 21 11 ≠ 0 ∨ s.hasConsumer n = false)) ∧
    (∃ (w : Who) (n : Fin 256) (v : BitVec 32) (s : State), s.serves w (ccOff n + 0x48) 4 = true ∧
      ((s.chan n).state ≠ 2 ∨ s.isConsumer n w.master = false ∨ 8 < bits v.toNat 0 4 ∨ 16 < bits v.toNat 4 5 ∨ bits v.toNat 9 23 ≠ 0)) ∧
    (∃ (w : Who) (n : Fin 256) (v : BitVec 32) (s : State), s.serves w (ccOff n + 0x4C) 4 = true ∧
      (((s.chan n).state ≠ 1 ∧ (s.chan n).state ≠ 3) ∨ (s.chan n).owner ≠ w.master ∨ v.toNat % 2 ^ 16 ≠ (s.chan n).token)) ∧
    (∃ (w : Who) (n : Fin 256) (s : State), s.serves w 0x140008 4 = true ∧ (s.chan n).state ≠ 0) ∧
    (∃ (w : Who) (n : Fin 256) (s : State), s.serves w 0x140008 4 = true ∧ (s.chan n).state = 0) :=
  ⟨⟨host, 3, ready, by decide +kernel⟩,
  ⟨host, 63, { ready with cc := { chans := [(63, { state := 1, owner := 2, token := 7 })] } }, by decide +kernel⟩,
  ⟨core, 3, 0x100007, { (wrs ready [(CC_CFG_CONSUMER 3, 64)]) with cc := { chans := [(3, { state := 1, owner := 256, token := 7 })] } }, by decide +kernel⟩,
  ⟨core, 3, 0x108, { (wrs ready [(CC_CFG_CONSUMER 3, 64)]) with cc := { chans := [(3, { state := 2, owner := 256, token := 7, count := 16 })] } }, by decide +kernel⟩,
  ⟨host, 3, 7, { ready with cc := { chans := [(3, { state := 3, owner := 1, token := 7 })] } }, by decide +kernel⟩,
  ⟨host, 3, 15, { ready with cc := { chans := [(3, { state := 1, owner := 1, token := 7 })] } }, by decide +kernel⟩,
  ⟨host, 3, 0, ready, by decide +kernel⟩,
  ⟨host, 3, 9, ready, by decide +kernel⟩,
  ⟨host, 3, 8, { ready with cc := { chans := [(3, { state := 3, owner := 1, token := 7 })] } }, by decide +kernel⟩,
  ⟨host, 3, { ready with cc := { chans := [(3, { state := 2, owner := 1, token := 7 })] } }, by decide +kernel⟩,
  ⟨host, 3, ready, by decide +kernel⟩⟩

theorem witness_HaltsAndCycleWalks :
    (∃ (s : State), s.is KW_HASP_GNT = true) ∧
    (∃ (n : Fin 256) (s : State), ((s.chan n).state = 1 ∨ (s.chan n).state = 3) ∧ (s.chan n).lease.since.isSome = true ∧
      s.islandUp 8 = true) ∧
    (∃ (m : Fin 257) (x : WantSt) (s : State), optGet s.cc.wants m.val = some x ∧ x.age.since.isSome = true ∧ s.islandUp 8 = true) ∧
    (∃ (s : State), (s.nextWalk = none ∨ s.islandUp 8 = false)) ∧
    (∃ (s : State) (m : ℕ), s.nextWalk = some m ∧ s.islandUp 8 = true) ∧
    (∃ (s : State), s.is KW_HASP_GNT = false) :=
  ⟨⟨{ (wrs ready [(KW_HASP_GNT, 1)]) with cc := { wants := [(256, ⟨2, { since := some 0 }⟩)] } }, by decide +kernel⟩,
  ⟨3, { ready with cc := { chans := [(3, { state := 3, owner := 1, token := 7, limit := 9, lease := { since := some 0 } })] } }, by decide +kernel⟩,
  ⟨1, ⟨7, { since := some 0 }⟩, { ready with cc := { wants := [(1, ⟨7, { since := some 0 }⟩)] } }, by decide +kernel⟩,
  ⟨ready, by decide +kernel⟩,
  ⟨{ ready with cc := { walks := [4], wants := [(4, ⟨2, { since := some 0 }⟩), (9, ⟨1, { since := some 0 }⟩)], locks := [(1, ⟨true, 4, 1⟩), (2, ⟨true, 9, 1⟩)] } }, 4, by decide +kernel⟩,
  ⟨ready, by decide +kernel⟩⟩

theorem witness_TumblerLocks :
    (∃ (w : Who) (l : Fin 1024) (s : State), s.serves w (tbOff l) 4 = true ∧ (s.lock l).held = false) ∧
    (∃ (w : Who) (l : Fin 1024) (s : State), s.serves w (tbOff l) 4 = true ∧ (s.lock l).held = true) ∧
    (∃ (w : Who) (l : Fin 1024) (s : State), s.serves w (tbOff l + 4) 4 = true) ∧
    (∃ (w : Who) (s : State), s.serves w 0x141008 4 = true) ∧
    (∃ (w : Who) (l : Fin 1024) (s : State), s.serves w (tbOff l + 0xC) 4 = true) :=
  ⟨⟨host, 7, ready, by decide +kernel⟩,
  ⟨host, 7, { ready with cc := { locks := [(7, ⟨true, 9, 5⟩)] } }, by decide +kernel⟩,
  ⟨host, 7, { ready with cc := { locks := [(7, ⟨true, 1, 5⟩)] } }, by decide +kernel⟩,
  ⟨host, { ready with cc := { locks := [(7, ⟨true, 1, 5⟩)] } }, by decide +kernel⟩,
  ⟨host, 7, { ready with cc := { wants := [(1, ⟨7, {}⟩)] } }, by decide +kernel⟩⟩

theorem witness_HubSourcesAndClaims :
    (∃ (n : Fin 2560) (s : State), isLevel n.val = true ∧ s.canPend n.val = true ∧ s.islandUp 8 = true) ∧
    (∃ (n : Fin 2560) (s : State), (isLevel n.val = false ∨ s.canPend n.val = false ∨ s.islandUp 8 = false)) ∧
    (∃ (w : Who) (s : State), s.serves w 0x180014 4 = true) ∧
    (∃ (g : Fin 160) (x : ℕ) (s : State), optGet s.hub.hold g.val = some x ∧ s.islandUp 8 = true) ∧
    (∃ (n : Fin 2560) (x : ℕ) (s : State), s.redirectRuns n = true ∧ optGet s.hub.redirs n = some x ∧ s.islandUp 8 = true) ∧
    (∃ (w : Who) (g : Fin 65) (n : ℕ) (s : State), s.serves w (0x188000 + 0x20 * g) 4 = true ∧ s.is HB_CTRL_DISABLE = false ∧
      s.held g = none ∧ s.claimed g = some n ∧ n < 4096) ∧
    (∃ (w : Who) (g : Fin 65) (n : ℕ) (s : State), s.serves w (0x188000 + 0x20 * g) 4 = true ∧ s.is HB_CTRL_DISABLE = false ∧
      s.held g = none ∧ s.claimed g = some n ∧ n < 4096 ∧ w.master ≠ 256 ∧ (isEdge n = true ∨ (s.src n).level = true)) ∧
    (∃ (w : Who) (g : Fin 65) (n : ℕ) (s : State), s.serves w (0x188000 + 0x20 * g) 4 = true ∧ w.master ≠ 256 ∧
      s.is HB_CTRL_DISABLE = false ∧ s.held g = some n ∧ n < 4096) ∧
    (∃ (w : Who) (g : Fin 65) (s : State), s.serves w (0x188000 + 0x20 * g) 4 = true ∧ w.master ≠ 256 ∧
      (s.is HB_CTRL_DISABLE = true ∨ s.held g = none ∧ s.claimed g = none)) ∧
    (∃ (w : Who) (g : Fin 65) (n : ℕ) (s : State) (k : Taken), s.serves w (0x188000 + 0x20 * g) 4 = true ∧ w.master = 256 ∧
      s.is HB_CTRL_DISABLE = false ∧ s.held g = none ∧ s.claimed g = some n ∧ n < 4096 ∧ k ∈ [Taken.failed, .held]) :=
  ⟨⟨360, { ready with hub := { srcs := [(360, { level := true })] } }, by decide +kernel⟩,
  ⟨383, ready, by decide +kernel⟩,
  ⟨host, ready, by decide +kernel⟩,
  ⟨24, 5, { ready with hub := { hold := [(24, 5)] } }, by decide +kernel⟩,
  ⟨384, 0, { (wrs ready [(HB_SRC_CFG_EN 384, 1), (HB_SRC_CFG_TARGET 384, 0), (HB_CTRL_REDIRECT_US, 5)]) with hub := { srcs := [(384, { pending := true })], redirs := [(384, 0)] }, sys := { ready.sys with sd := some (sdBytes 0x304 [(0x01C, 1), (0x300, 0x140)]) } }, by decide +kernel⟩,
  ⟨host, 64, 384, { (wrs ready [(HB_SRC_CFG_EN 384, 1), (HB_SRC_CFG_TARGET 384, 64), (HB_GRP_CFG_HOLD_US 24, 5)]) with hub := { srcs := [(384, { pending := true })] } }, by decide +kernel⟩,
  ⟨host, 64, 384, { (wrs ready [(HB_SRC_CFG_EN 384, 1), (HB_SRC_CFG_TARGET 384, 64)]) with hub := { srcs := [(384, { pending := true })] } }, by decide +kernel⟩,
  ⟨host, 64, 384, { ready with hub := { srcs := [(384, { active := true, holder := 64 })] } }, by decide +kernel⟩,
  ⟨host, 0, ready, by decide +kernel⟩,
  ⟨core, 64, 384, { (wrs ready [(HB_SRC_CFG_EN 384, 1), (HB_SRC_CFG_TARGET 384, 64)]) with hub := { srcs := [(384, { pending := true })] } }, .failed, by decide +kernel⟩⟩

theorem witness_HubCompletionsAndConfiguration :
    (∃ (w : Who) (g : Fin 65) (v : BitVec 32) (s : State), s.serves w (0x188004 + 0x20 * g) 4 = true ∧ v.toNat < 4096 ∧
      (s.src v.toNat).active = true ∧ (s.src v.toNat).holder = g.val) ∧
    (∃ (w : Who) (g : Fin 65) (v : BitVec 32) (s : State), s.serves w (0x188004 + 0x20 * g) 4 = true ∧
      (4096 ≤ v.toNat ∨ (s.src (v.toNat % 4096)).active = false ∨ (s.src (v.toNat % 4096)).holder ≠ g.val)) ∧
    (∃ (w : Who) (n : Fin 2560) (s : State), s.serves w (0x184000 + 4 * n) 4 = true ∧ n.val < 512 ∧
      (isEdge n.val = true ∨ isLevel n.val = true)) ∧
    (∃ (w : Who) (s : State), s.serves w 0x180000 4 = true) :=
  ⟨⟨host, 64, 384, { ready with hub := { srcs := [(384, { active := true, holder := 64 })] } }, by decide +kernel⟩,
  ⟨host, 0, 4096, ready, by decide +kernel⟩,
  ⟨host, 511, ready, by decide +kernel⟩,
  ⟨host, ready, by decide +kernel⟩⟩

theorem witness_CheckUnitsAndMonitors :
    (∃ (w : Who) (u : Fin 16) (s : State), s.serves w (0x1C8004 + 64 * u) 4 = true) ∧
    (∃ (w : Who) (u : Fin 16) (s : State), s.serves w (0x1C8004 + 64 * u) 4 = true) ∧
    (∃ (s : State), s.islandUp 8 = true) ∧
    (∃ (s : State), s.islandUp 8 = true) ∧
    (∃ (s : State), s.islandUp 8 = true) ∧
    (∃ (s : State), s.mtip = true) ∧
    (∃ (s : State), s.mtip = false ∧ s.sys.aonRstN = true ∧ s.rd PW_STAT_STATE ≠ 4 ∧ s.tm.sub25 < 64 ∧
      s.rd64 NY_MTIMECMP_LO_CMP NY_MTIMECMP_HI_CMP < 2 ^ 64) ∧
    (∃ (s : State), s.islandUp 8 = true) :=
  ⟨⟨host, 5, ready, by decide +kernel⟩,
  ⟨host, 5, { (wrs ready [(CU_STAT_STATE 5, 2)]) with cu := [(5, { seen := 4 })] }, by decide +kernel⟩,
  ⟨ready, by decide +kernel⟩,
  ⟨ready, by decide +kernel⟩,
  ⟨ready, by decide +kernel⟩,
  ⟨wrs ready [(NY_MTIMECMP_LO_CMP, 0), (NY_MTIMECMP_HI_CMP, 0)], by decide +kernel⟩,
  ⟨wrs ready [(NY_MTIMECMP_LO_CMP, 5), (NY_MTIMECMP_HI_CMP, 0)], by decide +kernel⟩,
  ⟨wrs ready [(NY_DROOP_THR 11, 700)], by decide +kernel⟩⟩

theorem witness_ManagementDma :
    (∃ (w : Who) (ch : Fin 8) (s : State), s.serves w (0x1C0108 + 64 * ch) 4 = true ∧ s.mdState ch ≠ 1 ∧ s.mdState ch ≠ 2) ∧
    (∃ (w : Who) (ch : Fin 8) (s : State), s.serves w (0x1C0108 + 64 * ch) 4 = true ∧ (s.mdState ch = 1 ∨ s.mdState ch = 2)) ∧
    (∃ (w : Who) (ch : Fin 8) (s : State), s.serves w (0x1C0108 + 64 * ch) 4 = true ∧ s.mdState ch = 1 ∧
      ((s.mdCh ch).phase ≠ 2 ∨ (s.mdCh ch).acc.isSome = true)) ∧
    (∃ (w : Who) (ch : Fin 8) (s : State), s.serves w (0x1C0108 + 64 * ch) 4 = true ∧ s.mdState ch ≠ 1) ∧
    (∃ (ch : Fin 8) (s : State), s.mdState ch = 2 ∧ (s.mdCh ch).phase = 0 ∧ s.islandUp 8 = true) ∧
    (∃ (ch : Fin 8) (s : State), (s.mdCh ch).phase = 1 ∧ s.islandUp 8 = true ∧ s.mdState ch = 1 ∧ 2 ≤ s.mdCurSpace ch) ∧
    (∃ (ch : Fin 8) (s : State), (s.mdCh ch).phase = 1 ∧ s.islandUp 8 = true ∧ s.mdState ch = 1 ∧ s.mdCurSpace ch = 1 ∧
      s.mdCur ch + 32 ≤ 0x40000 ∧ (s.mdCh ch).poison = false ∧ mdMalformed (s.sramRead (s.mdCur ch) 32) = false) ∧
    (∃ (ch : Fin 8) (x : MdAcc) (s : State), (s.mdCh ch).phase = 2 ∧ (s.mdCh ch).acc = some x ∧ s.islandUp 8 = true ∧ x.space = 1 ∧
      x.write = true) ∧
    (∃ (ch : Fin 8) (x : MdAcc) (s : State), (s.mdCh ch).phase = 3 ∧ (s.mdCh ch).acc = some x ∧ s.islandUp 8 = true ∧ x.space = 1) :=
  ⟨⟨host, 7, wrs ready [(MD_CH_STAT_STATE 7, 3), (MD_CH_DESC_LO_ADDR_LO 7, 5)], by decide +kernel⟩,
  ⟨host, 7, wrs ready [(MD_CH_STAT_STATE 7, 2)], by decide +kernel⟩,
  ⟨host, 7, { (wrs ready [(MD_CH_STAT_STATE 7, 1)]) with md := [(7, { phase := 1 })] }, by decide +kernel⟩,
  ⟨host, 7, ready, by decide +kernel⟩,
  ⟨7, wrs ready [(MD_CH_STAT_STATE 7, 2)], by decide +kernel⟩,
  ⟨7, { (wrs ready [(MD_CH_STAT_STATE 7, 1), (MD_CH_CUR_HI_ADDR_HI 7, 0x4000000)]) with md := [(7, { phase := 1 })] }, by decide +kernel⟩,
  ⟨7, { (wrs ready [(MD_CH_STAT_STATE 7, 1), (MD_CH_CUR_HI_ADDR_HI 7, 0x2000000), (MD_CH_CUR_LO_ADDR_LO 7, 0x1FFF)]) with md := [(7, { phase := 1 })], ny := { sram := [(0x3FFF8, 4), (0x3FFFC, 0x50)] } }, by decide +kernel⟩,
  ⟨7, ⟨true, false, 1, 16, 0, 2, [1, 2]⟩, { (wrs ready [(MD_CH_STAT_STATE 7, 1)]) with md := [(7, { phase := 2, acc := some ⟨true, false, 1, 16, 0, 2, [1, 2]⟩ })] }, by decide +kernel⟩,
  ⟨7, ⟨true, false, 1, 16, 0, 2, [1, 2]⟩, { (wrs ready [(MD_CH_STAT_STATE 7, 1)]) with md := [(7, { phase := 3, acc := some ⟨true, false, 1, 16, 0, 2, [1, 2]⟩ })] }, by decide +kernel⟩⟩

theorem witness_StoreTransfersAndUpdates :
    (∃ (w : Who) (len : BitVec 13) (s : State), s.serves w 0x1E1018 4 = true ∧ w.master = 256 ∧ s.is ST_XFER_STAT_BUSY = false ∧
      1 ≤ len.toNat ∧ len.toNat ≤ 4096 ∧ s.rd ST_XFER_SRAM_OFF + len.toNat ≤ 0x40000) ∧
    (∃ (w : Who) (len : BitVec 13) (s : State), s.serves w 0x1E1018 4 = true ∧ w.master = 256 ∧ s.is ST_XFER_STAT_BUSY = false ∧
      1 ≤ len.toNat ∧ s.rd ST_XFER_SRAM_OFF + len.toNat ≤ 0x40000 ∧ s.rd ST_XFER_ADDR_ADDR % 256 + len.toNat ≤ 256 ∧ s.stReadOnly = false) ∧
    (∃ (w : Who) (len : BitVec 13) (s : State), s.serves w 0x1E1018 4 = true ∧ w.master = 256 ∧ s.is ST_XFER_STAT_BUSY = false ∧
      1 ≤ len.toNat ∧ len.toNat ≤ 256 ∧ 256 < s.rd ST_XFER_ADDR_ADDR % 256 + len.toNat ∧ s.stReadOnly = false) ∧
    (∃ (w : Who) (s : State), s.serves w 0x1E1018 4 = true ∧ w.master = 256 ∧ s.is ST_XFER_STAT_BUSY = false ∧ s.stReadOnly = false) ∧
    (∃ (w : Who) (s : State), s.serves w 0x1E1018 4 = true ∧ w.master = 256 ∧ s.is ST_XFER_STAT_BUSY = false) ∧
    (∃ (w : Who) (s : State), s.serves w 0x1E1018 4 = true ∧ w.master ≠ 256) ∧
    (∃ (s : State), (s.kw.xfer = none ∨ s.islandUp 8 = false)) ∧
    (∃ (addr : ℕ) (off : ℕ) (len : ℕ) (since : ℕ) (s : State), s.kw.xfer = some ⟨1, addr, off, len, since⟩ ∧ s.islandUp 8 = true) ∧
    (∃ (addr : ℕ) (off : ℕ) (len : ℕ) (since : ℕ) (s : State), s.kw.xfer = some ⟨4, addr, off, len, since⟩ ∧ s.islandUp 8 = true) ∧
    (∃ (a : StoreAnswer) (addr : ℕ) (off : ℕ) (len : ℕ) (since : ℕ) (s : State),
      let late := a.timeout = true ∨ since + 1600000 * s.rd ST_TMO_ERASE_MS < s.mgNow; s.kw.xfer = some ⟨3, addr, off, len, since⟩ ∧
      s.islandUp 8 = true ∧ (late ∨ a.status.getLsbD 0 = false)) ∧
    (∃ (w : Who) (s : State), s.serves w 0x1E103C 4 = true ∧ s.is ST_UPD_STAT_BUSY = false) ∧
    (∃ (w : Who) (s : State), s.serves w 0x1E103C 4 = true ∧ s.is ST_UPD_STAT_BUSY = true) ∧
    (∃ (w : Who) (s : State), s.serves w 0x1E1048 4 = true ∧ w.master = 256) ∧
    (∃ (a : StoreAnswer) (op : ℕ) (addr : ℕ) (off : ℕ) (len : ℕ) (since : ℕ) (s : State), (op = 2 ∨ op = 3) ∧
      s.kw.xfer = some ⟨op, addr, off, len, since⟩ ∧ s.islandUp 8 = true ∧ a.timeout = false ∧ s.mgNow ≤ since + s.stLimit op ∧
      a.status.getLsbD 0 = true) ∧
    (∃ (a : StoreAnswer) (addr : ℕ) (off : ℕ) (len : ℕ) (since : ℕ) (s : State),
      let late := a.timeout = true ∨ since + 1600000 * s.rd ST_TMO_PROG_MS < s.mgNow; s.kw.xfer = some ⟨2, addr, off, len, since⟩ ∧
      s.islandUp 8 = true ∧ (late ∨ a.status.getLsbD 0 = false)) ∧
    (∃ (w : Who) (len : BitVec 13) (s : State) (i : Instr), s.serves w 0x1E1018 4 = true ∧ w.master = 256 ∧ s.stReadOnly = true ∧
      s.is ST_XFER_STAT_BUSY = false ∧ i ∈ [Instr.storeProgram w len, .storeErase w]) :=
  ⟨⟨core, 4096, wrs ready [(ST_XFER_SRAM_OFF, 0x3F000)], by decide +kernel⟩,
  ⟨core, 256, ready, by decide +kernel⟩,
  ⟨core, 256, wrs ready [(ST_XFER_ADDR_ADDR, 1)], by decide +kernel⟩,
  ⟨core, ready, by decide +kernel⟩,
  ⟨core, ready, by decide +kernel⟩,
  ⟨host, ready, by decide +kernel⟩,
  ⟨ready, by decide +kernel⟩,
  ⟨0, 0x3FFFE, 2, 0, { ready with kw := { xfer := some ⟨1, 0, 0x3FFFE, 2, 0⟩ } }, by decide +kernel⟩,
  ⟨0, 0, 0, 0, { ready with kw := { xfer := some ⟨4, 0, 0, 0, 0⟩ } }, by decide +kernel⟩,
  ⟨⟨[0xFF], 0, false⟩, 0, 0, 0, 0, { ready with kw := { xfer := some ⟨3, 0, 0, 0, 0⟩ } }, by decide +kernel⟩,
  ⟨host, ready, by decide +kernel⟩,
  ⟨host, wrs ready [(ST_UPD_STAT_BUSY, 1)], by decide +kernel⟩,
  ⟨core, wrs ready [(ST_UPD_STAT_BUSY, 1)], by decide +kernel⟩,
  ⟨⟨[1], 1, false⟩, 3, 64, 0, 9, 0, { ready with kw := { xfer := some ⟨3, 64, 0, 9, 0⟩ } }, by decide +kernel⟩,
  ⟨⟨[0, 0], 0, false⟩, 64, 0, 2, 0, { ready with kw := { xfer := some ⟨2, 64, 0, 2, 0⟩ } }, by decide +kernel⟩,
  ⟨core, 4, wrs ready [(ST_STAT_NODIR, 1)], (.storeErase core), by decide +kernel⟩⟩

theorem witness_KeywardOperates :
    (∃ (w : Who) (s : State), s.serves w 0x1E2008 4 = true ∧ w.master = 256 ∧ s.kwStartErr = 0) ∧
    (∃ (w : Who) (s : State), s.serves w 0x1E2008 4 = true ∧ w.master = 256 ∧ s.kwStartErr ≠ 0) ∧
    (∃ (w : Who) (s : State), s.serves w 0x1E2008 4 = true ∧ w.master ≠ 256) ∧
    (∃ (w : Who) (s : State), s.serves w 0x1E2008 4 = true ∧ w.master = 256) ∧
    (∃ (w : Who) (s : State), s.serves w 0x1E2010 4 = true ∧ w.master = 256 ∧ s.kw.din.length < 8) ∧
    (∃ (w : Who) (s : State) (x : ℕ) (l : List ℕ), s.serves w 0x1E2014 4 = true ∧ s.kw.dout = x :: l) ∧
    (∃ (o : KwOp) (s : State), s.islandUp 8 = true ∧ s.kw.op = some o ∧ 16 ≤ o.left ∧ 1 < o.blocks ∧ 4 ≤ s.kw.din.length ∧
      s.kw.dout.length ≤ 4) ∧
    (∃ (s : State), s.islandUp 8 = true) ∧
    (∃ (s : State), s.islandUp 8 = true) :=
  ⟨⟨core, wrs ready [(KW_LEN_LEN, 16), (KW_KEY_STAT_VALID, 2), (KW_STAT_RNG_OK, 1), (KW_CFG_SLOT, 1)], by decide +kernel⟩,
  ⟨core, ready, by decide +kernel⟩,
  ⟨host, ready, by decide +kernel⟩,
  ⟨core, { ready with kw := { op := some ⟨[], false, 0, 16, 1⟩ } }, by decide +kernel⟩,
  ⟨core, { ready with kw := { din := [1, 2, 3, 4, 5, 6, 7] } }, by decide +kernel⟩,
  ⟨core, { ready with kw := { dout := [5, 6] } }, 5, [6], by decide +kernel⟩,
  ⟨⟨List.replicate 16 0, false, 0, 32, 2⟩, { ready with kw := { op := some ⟨List.replicate 16 0, false, 0, 32, 2⟩, din := [1, 2, 3, 4] } }, by decide +kernel⟩,
  ⟨{ ready with kw := { op := some ⟨[], false, 0, 16, 1⟩, dout := [4] } }, by decide +kernel⟩,
  ⟨ready, by decide +kernel⟩⟩

theorem witness_KeyringFusesAndHasp :
    (∃ (w : Who) (n : Fin 8) (s : State), s.serves w 0x1E2060 4 = true ∧ w.master = 256 ∧ n.val ≠ 0 ∧ s.haspBars = false ∧
      s.is KW_STAT_BUSY = false ∧ s.bit KW_KEY_STAT_LOCKED n = false) ∧
    (∃ (w : Who) (n : Fin 8) (s : State), s.serves w 0x1E2060 4 = true ∧ w.master = 256 ∧ n.val ≠ 0 ∧ s.haspBars = false ∧
      s.is KW_STAT_BUSY = false ∧ s.bit KW_KEY_STAT_LOCKED n = false) ∧
    (∃ (w : Who) (n : Fin 8) (s : State), s.serves w 0x1E2060 4 = true ∧ w.master = 256 ∧ s.bit KW_KEY_STAT_LOCKED n = true) ∧
    (∃ (w : Who) (n : Fin 8) (s : State), s.serves w 0x1E2060 4 = true ∧ w.master = 256 ∧ n.val ≠ 0 ∧ s.haspBars = false) ∧
    (∃ (w : Who) (s : State), s.serves w 0x1E20A0 4 = true ∧ w.master = 256 ∧ s.rd SYS_STATE_MODE = 2 ∧ s.kw.fuseLock = false ∧
      s.haspBars = false ∧ s.is KW_FUSE_CTRL_PROG_BUSY = false) ∧
    (∃ (w : Who) (s : State), s.serves w 0x1E20A0 4 = true ∧ (w.master ≠ 256 ∨ s.rd SYS_STATE_MODE ≠ 2 ∨ s.kw.fuseLock = true)) ∧
    (∃ (s : State), s.is KW_FUSE_CTRL_PROG_BUSY = true ∧ s.islandUp 8 = true) ∧
    (∃ (s : State), s.islandUp 8 = true) ∧
    (∃ (s : State), s.islandUp 8 = false) ∧
    (∃ (s : State), s.kw.haspServe = true ∧ s.kw.haspPin = true ∧ s.zeroised = true ∧ s.islandUp 8 = true ∧ s.rd PW_STAT_STATE ≤ 1) ∧
    (∃ (s : State), s.islandUp 8 = true) ∧
    (∃ (s : State), s.kw.haspServe = true ∧ s.kw.haspPin = true ∧ s.zeroised = false ∧ s.islandUp 8 = true ∧ s.rd PW_STAT_STATE ≤ 1) :=
  ⟨⟨core, 7, ready, by decide +kernel⟩,
  ⟨core, 7, ready, by decide +kernel⟩,
  ⟨core, 7, wrs ready [(KW_KEY_STAT_LOCKED, 128)], by decide +kernel⟩,
  ⟨core, 7, ready, by decide +kernel⟩,
  ⟨core, wrs ready [(SYS_STATE_MODE, 2), (KW_FUSE_DATA_FUSE 7, 5)], by decide +kernel⟩,
  ⟨host, ready, by decide +kernel⟩,
  ⟨{ (wrs ready [(KW_FUSE_CTRL_PROG_BUSY, 1)]) with kw := { fuseNew := 77 } }, by decide +kernel⟩,
  ⟨{ ready with kw := { keys := [(3, 9)], din := [4] } }, by decide +kernel⟩,
  ⟨{ ready with sys := { ready.sys with started := 0 } }, by decide +kernel⟩,
  ⟨{ ready with kw := { haspServe := true, haspPin := true } }, by decide +kernel⟩,
  ⟨wrs ready [(KW_HASP_REQ, 1)], by decide +kernel⟩,
  ⟨{ (wrs ready [(KW_TAG_TAG 3, 9)]) with kw := { haspServe := true, haspPin := true, keys := [(2, 7)] } }, by decide +kernel⟩⟩

theorem witness_ManagementResetsHeartbeatAndSurroundings :
    (∃ (w : Who) (v : BitVec 32) (s : State), s.serves w 0x1E0000 4 = true ∧ bitN v.toNat 0 = 1 ∧ (∀ x ∈ s.transit, x.reader ≠ 256)) ∧
    (∃ (s : State), s.is NY_CTRL_WDT_EN = true ∧ s.is NY_STAT_HALTED = false ∧ s.islandUp 8 = true ∧ (∀ x ∈ s.transit, x.reader ≠ 256)) ∧
    (∃ (w : Who) (s : State), s.serves w 0x1E000C 4 = true) ∧
    (∃ (s : State), s.start = stREADY ∧ s.sys.hbRunning = true ∧ s.rd PW_STAT_STATE ≤ 1) ∧
    (∃ (s : State), s.sys.hbDeferred = true ∧ s.hbCan = true) ∧
    (∃ (s : State), (s.sys.hbDeferred = false ∨ s.hbCan = false)) ∧
    (∃ (d : Deliv) (u : State) (s : State), s.response .heartbeat = some (d, u)) ∧
    (∃ (x : Fin 16) (s : State), s.fab.up.getLsbD x = false) ∧
    (∃ (x : Fin 16) (b : Beat) (r : Req) (s : State), s.fab.up.getLsbD x = true ∧ s.islandRuns (if x.val < 9 then 6 else 7) = true ∧
      x.val < 9 ∧ s.coreUp = true ∧ b.valid = true ∧ b.vc = 2 ∧ b.last = true ∧
      s.fab.reqs.find? (fun q => q.x == x.val && q.tag == some b.tag.toNat) = some r ∧ r.rlen = 0 ∧ r.left = 0) ∧
    (∃ (f : Fin 9) (n : BitVec 12) (r : Req) (s : State), s.coreUp = true ∧
      s.fab.reqs.find? (fun q => q.x == f.val && q.tag == some n.toNat) = some r) ∧
    (∃ (c : Fin 7) (n : BitVec 12) (r : Req) (s : State), s.islandRuns 7 = true ∧
      s.fab.reqs.find? (fun q => q.x == 9 + c.val && q.tag == some n.toNat) = some r) :=
  ⟨⟨core, 1, ready, by decide +kernel⟩,
  ⟨wrs ready [(NY_CTRL_WDT_EN, 1)], by decide +kernel⟩,
  ⟨host, wrs ready [(NY_CTRL_WDT_EN, 1)], by decide +kernel⟩,
  ⟨{ ready with sys := { ready.sys with hbRunning := true, hbDue := 100, sd := some sdGood }, fab := { ready.fab with avail := [(3, 1)] } }, by decide +kernel⟩,
  ⟨{ ready with sys := { ready.sys with hbDeferred := true, sd := some sdGood }, fab := { ready.fab with avail := [(3, 1)] } }, by decide +kernel⟩,
  ⟨ready, by decide +kernel⟩,
  ⟨⟨.heartbeat, 0, 0, 0, 0, .declined, []⟩, quiet (answer .heartbeat 0 0 .declined [] ready), answer .heartbeat 0 0 .declined [] ready, by decide +kernel⟩,
  ⟨15, { ready with fab := { up := 0x7FFF } }, by decide +kernel⟩,
  ⟨8, ⟨true, true, 2, 5, 0, 0, []⟩, ⟨.notify, 1, 2, 8, 0, 0, [], 0, 0, some 5, [], 0⟩, { ready with fab := { up := 0xFFFF, reqs := [⟨.notify, 1, 2, 8, 0, 0, [], 0, 0, some 5, [], 0⟩] } }, by decide +kernel⟩,
  ⟨8, 5, ⟨.notify, 1, 2, 8, 0, 0, [], 0, 0, some 5, [], 0⟩, { ready with fab := { up := 0xFFFF, reqs := [⟨.notify, 1, 2, 8, 0, 0, [], 0, 0, some 5, [], 0⟩] } }, by decide +kernel⟩,
  ⟨6, 5, ⟨.tblLookup, 1, 2, 15, 1, 0, [], 64, 0, some 5, [], 0⟩, { ready with fab := { up := 0xFFFF, reqs := [⟨.tblLookup, 1, 2, 15, 1, 0, [], 64, 0, some 5, [], 0⟩] } }, by decide +kernel⟩⟩

theorem witness_EventLogInOrder :
    (∃ (p : LogPost) (l : List LogPost) (s : State), s.ny.hwq = p :: l ∧ s.rd PW_STAT_STATE ≠ 4 ∧ s.sys.aonRstN = true) ∧
    (∃ (p : LogPost) (l : List LogPost) (s : State), s.ny.hwq = [] ∧ s.ny.fwq = p :: l ∧ s.rd PW_STAT_STATE ≠ 4 ∧ s.sys.aonRstN = true) ∧
    (∃ (p : LogPost) (l : List LogPost) (s : State), s.ny.hwq = [] ∧ s.ny.fwq = [] ∧ s.ny.hostq = p :: l ∧ s.rd PW_STAT_STATE ≠ 4 ∧
      s.sys.aonRstN = true) ∧
    (∃ (w : Who) (s : State), s.serves w 0x1E0460 4 = true) ∧
    (∃ (w : Who) (s : State), s.serves w 0x1E0480 4 = true) ∧
    (∃ (w : Who) (s : State), s.serves w 0x1E0408 4 = true) ∧
    (∃ (w : Who) (s : State), s.serves w 0x1E0404 4 = true) :=
  ⟨⟨⟨9, 1, 0, 0, 0, 0⟩, [], { (wrs ready [(NY_LOG_SEQ_SEQ, 2047)]) with ny := { hwq := [⟨9, 1, 0, 0, 0, 0⟩] } }, by decide +kernel⟩,
  ⟨⟨9, 1, 0, 0, 0, 0⟩, [], { ready with ny := { fwq := [⟨9, 1, 0, 0, 0, 0⟩] } }, by decide +kernel⟩,
  ⟨⟨9, 1, 0, 0, 0, 0⟩, [], { ready with ny := { hostq := [⟨9, 1, 0, 0, 0, 0⟩] } }, by decide +kernel⟩,
  ⟨core, ready, by decide +kernel⟩,
  ⟨host, ready, by decide +kernel⟩,
  ⟨host, ready, by decide +kernel⟩,
  ⟨host, ready, by decide +kernel⟩⟩

theorem witness_PerformanceCountersAndAgents :
    (∃ (w : Who) (s : State), s.serves w 0x1D0000 4 = true) ∧
    (∃ (w : Who) (s : State), s.serves w 0x1D0000 4 = true ∧ s.is PC_CTRL_SNAP_BUSY = false ∧ ((∀ i, i < 9 → s.islandUp i = true))) ∧
    (∃ (w : Who) (s : State), s.serves w 0x1D0000 4 = true) ∧
    (∃ (w : Who) (s : State), s.serves w 0x1D0000 4 = true ∧ s.is PC_CTRL_SNAP_BUSY = false ∧ s.is PC_CTRL_EXP_BUSY = false) ∧
    (∃ (d : Deliv) (u : State) (s : State), s.response .pcExport = some (d, u) ∧ s.ny.expLeft = 1) ∧
    (∃ (s : State), s.response .pcExport = none) ∧
    (∃ (a : Fin 8) (n : ℕ) (u : BgUnit) (s : State), s.rd (NY_BG_DL_DL_US a) ≠ 0 ∧ s.islandUp 8 = true ∧ s.bgLate a n = some u) ∧
    (∃ (w : Who) (s : State), s.serves w 0x1D0000 4 = true ∧ s.is PC_CTRL_SNAP_BUSY = false ∧ ((∃ i, i < 9 ∧ s.islandUp i = false))) :=
  ⟨⟨host, ready, by decide +kernel⟩,
  ⟨host, wrs ready [(PC_CNT_LO_COUNT 3, 9)], by decide +kernel⟩,
  ⟨host, wrs ready [(PC_CNT_LO_COUNT 3, 9)], by decide +kernel⟩,
  ⟨host, ready, by decide +kernel⟩,
  ⟨⟨.pcExport, 0, 0, 0, 0, .declined, []⟩, quiet (answer .pcExport 0 0 .declined [] { (wrs ready [(PC_CTRL_EXP_BUSY, 1)]) with ny := { expLeft := 1 } }), answer .pcExport 0 0 .declined [] { (wrs ready [(PC_CTRL_EXP_BUSY, 1)]) with ny := { expLeft := 1 } }, by decide +kernel⟩,
  ⟨ready, by decide +kernel⟩,
  ⟨1, 0, ⟨1, 0, 3, false⟩, { (wrs ready [(NY_BG_DL_DL_US 1, 5)]) with ny := { bgUnits := [⟨1, 0, 3, false⟩] } }, by decide +kernel⟩,
  ⟨host, { (wrs ready [(PC_SNAP_LO_COUNT 700, 9), (NY_STAT_HALTED, 1)]) with sys := { ready.sys with clkStopped := 128#9 } }, by decide +kernel⟩⟩

theorem witness_StartUp :
    (∃ (s : State), s.start = stRESET) ∧
    (∃ (s : State), s.start = stBOOT ∧ s.islandRuns 8 = true) ∧
    (∃ (s : State), (s.start ≠ stBOOT ∨ s.islandRuns 8 = false)) ∧
    (∃ (w : Who) (s : State), s.serves w 0x000018 4 = true ∧ s.is SYS_SD_STAT_BUSY = false ∧ s.start = stWAIT_SD) ∧
    (∃ (w : Who) (s : State), s.serves w 0x000018 4 = true ∧ (s.is SYS_SD_STAT_BUSY = true ∨ s.start ≠ stWAIT_SD ∧ s.start ≠ stREADY)) ∧
    (∃ (d : Deliv) (u : State) (s : State), s.response .sdRead = some (d, u) ∧ s.start = stLOAD_SD ∧ d.resp ≠ .okay) ∧
    (∃ (d : Deliv) (u : State) (s : State), s.response .sdRead = some (d, u) ∧ s.start = stLOAD_SD ∧ d.resp = .okay ∧
      (s.sdCheck d.data false).1 ≠ 0) ∧
    (∃ (d : Deliv) (u : State) (s : State), s.response .sdRead = some (d, u) ∧ s.start = stLOAD_SD ∧ d.resp = .okay ∧
      (s.sdCheck d.data false).1 = 0) ∧
    (∃ (s : State), s.start = stBRINGUP ∧ s.mainIslands = true ∧
      ((∀ i : Fin 4, s.sliceUsed i = false ∨ s.islandRuns i = true ∨ s.sys.sliceOut.getLsbD i = true))) ∧
    (∃ (s : State), s.start = stBRINGUP ∧ s.mainIslands = false) ∧
    (∃ (i : Fin 4) (s : State), s.start = stBRINGUP ∧ s.sliceUsed i = true ∧ s.islandRuns i = false ∧ s.sys.sliceOut.getLsbD i = false) :=
  ⟨⟨{}, by decide +kernel⟩,
  ⟨wrs ready [(SYS_STATE_STATE, 1)], by decide +kernel⟩,
  ⟨ready, by decide +kernel⟩,
  ⟨host, wrs ready [(SYS_STATE_STATE, 2)], by decide +kernel⟩,
  ⟨host, wrs ready [(SYS_STATE_STATE, 4)], by decide +kernel⟩,
  ⟨⟨.sdRead, 0, 0, 0, 0, .declined, []⟩, quiet (answer .sdRead 0 0 .declined [] (wrs ready [(SYS_STATE_STATE, 3)])), answer .sdRead 0 0 .declined [] (wrs ready [(SYS_STATE_STATE, 3)]), by decide +kernel⟩,
  ⟨⟨.sdRead, 0, 0, 0, 0, .okay, []⟩, quiet (answer .sdRead 0 0 .okay [] (wrs ready [(SYS_STATE_STATE, 3)])), answer .sdRead 0 0 .okay [] (wrs ready [(SYS_STATE_STATE, 3)]), by decide +kernel⟩,
  ⟨⟨.sdRead, 0, 0, 0, 0, .okay, sdGood⟩, quiet (answer .sdRead 0 0 .okay sdGood (wrs ready [(SYS_STATE_STATE, 3)])), answer .sdRead 0 0 .okay sdGood (wrs ready [(SYS_STATE_STATE, 3)]), rfl, by decide +kernel, by decide +kernel, sdGood_ok _⟩,
  ⟨wrs ready [(SYS_STATE_STATE, 4)], by decide +kernel⟩,
  ⟨wrs { ready with sys := { ready.sys with started := 0 } } [(SYS_STATE_STATE, 4)], by decide +kernel⟩,
  ⟨3, wrs { ready with sys := { ready.sys with started := 0, sd := some (sdBytes 0x26D [(0x26C, 1)]) } } [(SYS_STATE_STATE, 4)], by decide +kernel⟩⟩

theorem witness_PowerRequestsAndParking :
    (∃ (w : Who) (s : State), s.serves w 0x1F0000 4 = true ∧ s.rd PW_STAT_PHASE = 0 ∧ s.pwState = pwP1 ∧ s.throttled = false) ∧
    (∃ (w : Who) (s : State), s.serves w 0x1F0000 4 = true ∧ s.rd PW_STAT_PHASE = 0 ∧ s.pwState = pwA0) ∧
    (∃ (w : Who) (v : Word) (s : State), let p := bits v.toNat 8 2; s.serves w 0x1F0000 4 = true ∧ s.rd PW_STAT_PHASE = 0 ∧
      s.pwState = pwA0 ∧ s.pwQuiet pwW = true ∧ s.portOn p = true ∧ s.tMode p = false ∧ (∃ k < 8, s.is (LN_CHAN_CFG_EN (8 * p + k)) = true)) ∧
    (∃ (w : Who) (s : State), s.serves w 0x1F0000 4 = true ∧ s.rd PW_STAT_PHASE = 0 ∧ s.pwState = pwA0 ∧ s.pwQuiet pwS = true) ∧
    (∃ (w : Who) (s : State), s.serves w 0x1F0000 4 = true ∧ s.rd PW_STAT_PHASE = 0 ∧ s.pwState = pwA0 ∧ s.pwQuiet pwD = true) ∧
    (∃ (w : Who) (v : Word) (s : State) (c : Instr), s.serves w 0x1F0000 4 = true ∧ s.rd PW_STAT_PHASE ≠ 0 ∧
      c ∈ [Instr.requestA0 w v, .requestP1 w v, .requestW w v, .requestS w v, .requestD w v]) ∧
    (∃ (s : State), s.pw.step = 21 ∧ (∀ e ∈ s.chs, e.2.line = .idle) ∧ ((∀ e ∈ s.rxs, e.2.stage ≠ .slice ∧ e.2.stage ≠ .released))) ∧
    (∃ (s : State), s.islandUp 8 = true ∧ s.pwState ≤ pwP1) ∧
    (∃ (r : List (BitVec 12)) (s : State), s.islandUp 8 = true ∧ s.pwState = pwA0 ∧ s.pw.step = 0 ∧ s.is PW_STAT_THERM_PARK = false ∧
      3 ≤ (s.thermRead r).rd NY_THERM_MAX_LEVEL) :=
  ⟨⟨host, wrs ready [(PW_STAT_STATE, 1)], by decide +kernel⟩,
  ⟨host, ready, by decide +kernel⟩,
  ⟨host, 0x102, wrs ready [(LN_PORT_CFG_ENABLE 1, 1), (LN_CHAN_CFG_EN 9, 1)], by decide +kernel⟩,
  ⟨host, ready, by decide +kernel⟩,
  ⟨host, ready, by decide +kernel⟩,
  ⟨host, 0, wrs ready [(PW_STAT_PHASE, 1)], .requestP1 host 0, by decide +kernel⟩,
  ⟨{ ready with pw := { step := 21, target := 1 }, chs := [(3, {})] }, by decide +kernel⟩,
  ⟨ready, by decide +kernel⟩,
  ⟨[0x7D0], { ready with sys := { ready.sys with sd := some (sdBytes 0x408 [(0x400, 0x0A0600)]) } }, by decide +kernel⟩⟩

theorem witness_PowerEntry :
    (∃ (s : State), s.pw.step = 2 ∧ (∀ r ∈ s.fab.reqs, r.tag = none)) ∧
    (∃ (s : State), s.pw.step = 5) ∧
    (∃ (s : State), s.pw.step = 7 ∧ s.pw.held = false ∧ s.pw.target ≤ 4) ∧
    (∃ (s : State), s.pw.step = 7 ∧ s.pw.held = true ∧ s.pw.target ≤ 4) ∧
    (∃ (s : State), s.pw.step = 22) ∧
    (∃ (s : State), s.pw.step = 31 ∧ s.pw.park = false) ∧
    (∃ (s : State), (s.pw.step = 7 ∨ s.pw.step = 22)) :=
  ⟨⟨{ ready with pw := { step := 2, target := 3 } }, by decide +kernel⟩,
  ⟨{ ready with pw := { step := 5, target := 4 } }, by decide +kernel⟩,
  ⟨{ ready with pw := { step := 7, target := 4 } }, by decide +kernel⟩,
  ⟨{ ready with pw := { step := 7, target := 2, held := true } }, by decide +kernel⟩,
  ⟨{ ready with pw := { step := 22, target := 1 } }, by decide +kernel⟩,
  ⟨{ ready with pw := { step := 31 } }, by decide +kernel⟩,
  ⟨{ ready with pw := { step := 22, target := 1 } }, by decide +kernel⟩⟩

theorem witness_WakeAndExit :
    (∃ (b : Fin 5) (s : State), s.pw.step = 0 ∧ 2 ≤ s.pwState ∧ wakeActs b s.pwState = true ∧ s.wakeEnabled b = true ∧
      (if b.val = 0 then s.sys.pwRet = true else s.wakeCond b = true)) ∧
    (∃ (b : Fin 5) (s : State), s.pw.step = 2 ∧ wakeActs b s.pw.target = true ∧ s.wakeEnabled b = true ∧
      (if b.val = 0 then s.sys.pwRet = true else s.wakeCond b = true)) ∧
    (∃ (s : State), s.sys.aonRstN = true ∧ s.aon ≤ s.rd64 PW_TIMER_LO_COUNT PW_TIMER_HI_COUNT % 2 ^ 48 ∧ s.tm.sub32 < 1600000000 ∧
      s.pw.step = 0 ∧ ((s.pwState = pwW ∨ s.pwState = pwS ∨ s.pwState = pwD)) ∧ s.bit PW_WAKE_EN_EN 3 = true) ∧
    (∃ (e : Fin 32) (s : State), s.is (HB_WATCH_EN e) = true ∧ s.islandUp 8 = true ∧ (s.src (s.rd (HB_WATCH_SOURCE e))).pending = true ∧
      s.asleep (s.effective (s.rd (HB_WATCH_SOURCE e))) = true ∧ s.pw.step = 0 ∧ s.pwState = pwA0) ∧
    (∃ (s : State), (s.pw.step = 12 ∨ s.pw.step = 13) ∧ s.pw.target ≠ pwD) ∧
    (∃ (s : State), (s.pw.step = 12 ∨ s.pw.step = 13) ∧ s.pw.target = pwD) ∧
    (∃ (s : State), s.pw.step = 14 ∧ s.exitReady = true ∧ s.pw.park = false) :=
  ⟨⟨0, { (wrs ready [(PW_STAT_STATE, 2)]) with sys := { ready.sys with pwRet := true } }, by decide +kernel⟩,
  ⟨4, { ready with pw := { step := 2, target := 3 }, kw := { haspPin := true } }, by decide +kernel⟩,
  ⟨wrs ready [(PW_STAT_STATE, 3), (PW_WAKE_EN_EN, 8), (PW_TIMER_LO_COUNT, 1000), (PW_TIMER_HI_COUNT, 2)], by decide +kernel⟩,
  ⟨5, { (wrs ready [(HB_WATCH_EN 5, 1), (HB_WATCH_SOURCE 5, 40), (HB_SRC_CFG_TARGET 40, 1)]) with sys := { ready.sys with sd := some (sdBytes 0x408 [(0x304, 0x100)]) }, hub := { srcs := [(40, { pending := true })] } }, by decide +kernel⟩,
  ⟨{ ready with pw := { step := 12, target := 3 } }, by decide +kernel⟩,
  ⟨{ ready with pw := { step := 13, target := 4, upWas := 5 } }, by decide +kernel⟩,
  ⟨{ ready with pw := { step := 14, target := 3 } }, by decide +kernel⟩⟩

theorem witness_SetupPortAccesses :
    (∃ (w : Who) (off : BitVec 24) (wide : Bool) (s : State), s.serves w (BitVec.toNat off) (if wide then 8 else 4) = false) ∧
    (∃ (w : Who) (off : BitVec 24) (wide : Bool) (s : State), s.serves w (BitVec.toNat off) (if wide then 8 else 4) = true) ∧
    (∃ (w : Who) (s : State), s.serves w 0x1F0028 8 = true) ∧
    (∃ (w : Who) (s : State), s.serves w 0x00002C 4 = true) ∧
    (∃ (c : Fin 32) (k : Fin 8) (u : Fin 16) (w : Who) (s : State) (f : Fld),
      f ∈ [SYS_XING_SEL_XING, GP_SD_SET_SD_SET u, GP_SD_CLR_SD_CLR u, GP_CNT_SEL_PAIR, GP_OH_SEL_K, MC_FC_REF_REFRESH c,
      MC_STATION_LO_ADDR_LO c, MC_STATION_HI_ADDR_HI c, MC_WAKE_MAGIC_MAGIC_EN, MC_WAKE_VAL_VALUE u c, MC_WAKE_MASK_MASK u (c / 8), MT_SEL_METER, MT_CIR_CIR,
      MT_CBS_CBS, MT_PIR_PIR, MT_PBS_PBS, SC_CH_PACE_PACE_MBPS c, TG_CNT_SEL_CHAN, HR_CTX_SEL_CTX, CX_SEL_CTX, CC_CTRL_LEASE_US,
      CC_PEND_SEL_CONSUMER, TB_CTRL_WANT_US, TM_SET_NS_NS, TM_SET_S_LO_S_LO, TM_SET_S_HI_S_HI, TM_OFFSET_NS, TM_STEP_NS_STEP_NS,
      TM_AON_PERIOD_PERIOD, TM_TX_CORR_CORR c, PC_EXPORT_LO_ADDR, PC_EXPORT_HI_ADDR, PC_FLT_BASE_LO_BASE k, PC_FLT_LIMIT_HI_LIMIT k,
      NY_WDT_WDT_US, NY_EYE_THR_CODE, NY_LOG_HI_WM, NY_LOG_MASK_MASK u, ST_UPD_ADDR_LO_ADDR, ST_UPD_LEN_LEN, PW_ACK_US_ACK_US,
      SV_CKPT_CKPT_US, SV_ROW_THR_CORR] ∧
      s.serves w f.off 4 = true) ∧
    (∃ (w : Who) (s : State) (f : Fld),
      f ∈ [SYS_FAB_EVT_TMO, SYS_FAB_EVT_SD_DONE, LN_EVT_LANE_UP, LN_EVT_LANE_DOWN, LN_EVT_SPARE_DONE, TF_EVT_LOF, TF_EVT_GFP_SYNC,
      GP_EVT_GRP_CHG, GP_EVT_SEC, MC_EVT_PAUSE_WD, MC_EVT_SHADE_REJ, CL_EVT_TORN, CL_EVT_UPD_DONE, SC_EVT_GUARD, TG_EVT_OVERRUN, HR_EVT_CMD_DONE,
      HR_EVT_DB_REJ, CX_EVT_FROZEN, CX_EVT_SHADE_REJ, CC_EVT_BREAK, CC_EVT_REJ, TB_EVT_CYCLE, LG_EVT_CUT_DONE, TM_EVT_PPS, TM_EVT_STEP,
      MD_EVT_HALT, CU_EVT_MISMATCH, NY_EVT_DROOP, NY_EVT_CLK, ST_EVT_UPD_DONE, PW_EVT_PARKED, PW_WAKE_SRC_SRC, SV_EVT_DONE, SV_EVT_ROW_EXH] ∧
      s.serves w f.off 4 = true) ∧
    (∃ (w : Who) (x : Fin 4096) (wide : Bool) (v : BitVec 64) (q : ℕ) (s : State),
      s.servesDoorbell w (4096 * x) (if wide then 8 else 4) = true ∧ s.dbReason x (dbValue wide v) = 0 ∧
      s.poolQ x (bits (dbValue wide v) 16 6) (bitN (dbValue wide v) 22 == 1) = some q) ∧
    (∃ (w : Who) (off : BitVec 24) (wide : Bool) (s : State), s.serves w (BitVec.toNat off) (if wide then 8 else 4) = false) ∧
    (∃ (w : Who) (s : State), s.serves w 0x00002C 4 = true) ∧
    (∃ (w : Who) (s : State), s.serves w 0x00002C 4 = true ∧ w.master ≠ 256) ∧
    (∃ (w : Who) (s : State), s.serves w 0x00002C 4 = true) ∧
    (∃ (w : Who) (off : BitVec 24) (s : State), s.serves w (BitVec.toNat off) 4 = false) ∧
    (∃ (w : Who) (s : State), s.serves w 0x000048 4 = true) ∧
    (∃ (w : Who) (h : ℕ) (s : State), s.serves w 0x00004C 4 = true ∧ optGet s.latch 0x48 = some h) ∧
    (∃ (c : Fin 32) (k : Fin 8) (u : Fin 12) (w : Who) (s : State) (f : Fld),
      f ∈ [SYS_FAB_LATE_COUNT, SYS_FAB_PROTO_CNT_COUNT, LN_CFG_REJ_COUNT, GP_CFG_REJ_COUNT, CL_MISS_CNT_COUNT k, CL_TBL_PROTO_COUNT, CL_CFG_REJ_COUNT,
      FB_CFG_REJ_COUNT, FB_PC_DROP_COUNT c, SC_CFG_REJ_COUNT, SC_GUARD_CNT_COUNT, HR_CFG_REJ_COUNT, HR_NT_FAIL_COUNT, CC_REJ_COUNT, TB_REJ_COUNT,
      LG_LATE_COUNT, TM_PPS_GLITCH_COUNT, HB_IGN_CNT_COUNT, HB_REDIR_CNT_COUNT, HB_CFG_REJ_COUNT, MD_CFG_REJ_COUNT, MD_CH_CNT_DESC k,
      CU_CFG_REJ_COUNT, NY_DROOP_CNT_COUNT u, NY_BG_MISS_COUNT k, ST_REJ_COUNT, SV_REJ_COUNT] ∧
      s.serves w f.off 4 = true) ∧
    (∃ (w : Who) (c : Fin 32) (j : Fin 64) (s : State), s.serves w (0x064000 + 512 * c + 8 * j) 4 = true) ∧
    (∃ (w : Who) (x : Fin 4096) (s : State), s.servesDoorbell w (4096 * x + 0x10) 4 = true) :=
  ⟨⟨host, 0x1F0001, false, ready, by decide +kernel⟩,
  ⟨host, 0x000204, false, ready, by decide +kernel⟩,
  ⟨host, ready, by decide +kernel⟩,
  ⟨host, wrs ready [(SYS_SD_CNT_REJECTS, 3)], by decide +kernel⟩,
  ⟨31, 7, 15, host, ready, SYS_XING_SEL_XING, by decide +kernel⟩,
  ⟨host, wrs ready [(SYS_FAB_EVT_TMO, 1)], SYS_FAB_EVT_TMO, by decide +kernel⟩,
  ⟨host, 0, false, 5, 2, ctx0 ready, by decide +kernel⟩,
  ⟨host, 0x1F0001, false, ready, by decide +kernel⟩,
  ⟨host, wrs ready [(SYS_SD_CNT_REJECTS, 3), (SYS_SD_CNT_IGNORED, 65535)], by decide +kernel⟩,
  ⟨host, wrs ready [(SYS_SD_CNT_REJECTS, 3), (SYS_SD_CNT_IGNORED, 65535)], by decide +kernel⟩,
  ⟨host, wrs ready [(SYS_SD_CNT_REJECTS, 3), (SYS_SD_CNT_IGNORED, 65535)], by decide +kernel⟩,
  ⟨host, 0x000002, ready, by decide +kernel⟩,
  ⟨host, wrs ready [(SYS_HB_COUNT_LO_HB_COUNT, 3), (SYS_HB_COUNT_HI_HB_COUNT, 7)], by decide +kernel⟩,
  ⟨host, 7, { ready with latch := [(0x48, 7)] }, by decide +kernel⟩,
  ⟨31, 7, 11, host, wrs ready [(SYS_FAB_LATE_COUNT, 5)], SYS_FAB_LATE_COUNT, by decide +kernel⟩,
  ⟨host, 31, 63, wrs ready [(MC_STAT_LO_COUNT 31 63, 9), (MC_STAT_HI_COUNT 31 63, 4)], by decide +kernel⟩,
  ⟨host, 4095, ready, by decide +kernel⟩⟩

theorem witness_Lanes :
    (∃ (i : Fin 36) (s : State), s.laneUp i = false) ∧
    (∃ (i : Fin 36) (s : State), s.laneUp i = true ∧ s.otherLeg i = none ∧ s.islandRuns (if s.mainLeg i < 64 then i / 9 else 4) = true ∧
      s.leg (s.mainLeg i) = []) ∧
    (∃ (i : Fin 36) (s : State), s.laneUp i = true ∧ s.otherLeg i = none ∧ s.islandRuns (if s.mainLeg i < 64 then i / 9 else 4) = false) ∧
    (∃ (i : Fin 36) (s : State), s.rd (LN_LANE_STAT_TX_IDLE i) = 1) ∧
    (∃ (i : Fin 36) (s : State), s.rd (LN_LANE_STAT_TX_IDLE i) ≠ 1 ∧ (s.lane i).txClk = true ∧
      s.laneAt (i / 9) (s.sendsFor i) = some i.val ∧ s.tMode (i / 9) = false ∧ s.txCrossing i = true ∧ s.laneWants i = true) ∧
    (∃ (i : Fin 36) (s : State), s.rd (LN_LANE_STAT_TX_IDLE i) ≠ 1 ∧ (s.lane i).txClk = true ∧
      s.laneAt (i / 9) (s.sendsFor i) = some i.val ∧ s.tMode (i / 9) = false ∧ s.laneWants i = true) ∧
    (∃ (i : Fin 36) (s : State), s.rd (LN_LANE_STAT_STATE i) = lnDOWN ∧ s.pw.idle.getLsbD (i / 9) = false) ∧
    (∃ (i : Fin 36) (sd : Bool) (lock : Bool) (rc : Bool) (tc : Bool) (s : State), s.laneUp i = true ∧ (sd && lock && rc && tc) = false) ∧
    (∃ (c : Fin 32) (s : State), s.portRuns (c / 8) = true ∧ s.rd (LN_CHAN_STAT_STATE c) = 2 ∧ s.is (LN_CHAN_STAT_LF_RX c) = false ∧
      s.is (LN_CHAN_STAT_RF_RX c) = false ∧ s.is (LN_CHAN_STAT_LINK c) = false) :=
  ⟨⟨3, ready, by decide +kernel⟩,
  ⟨3, withSd [(0x20C, 2)] (wrs ready [(LN_LANE_STAT_STATE 3, 2)]), by decide +kernel⟩,
  ⟨3, { (wrs ready [(LN_LANE_STAT_STATE 3, 2)]) with sys := { ready.sys with clkStopped := 1 } }, by decide +kernel⟩,
  ⟨3, wrs ready [(LN_LANE_STAT_TX_IDLE 3, 1)], by decide +kernel⟩,
  ⟨10, lane10, by decide +kernel⟩,
  ⟨10, lane10, by decide +kernel⟩,
  ⟨5, { (wrs ready [(LN_LANE_STAT_STATE 5, 1)]) with lanes := [(5, { since := 7 })] }, by decide +kernel⟩,
  ⟨5, false, true, true, true, wrs ready [(LN_LANE_STAT_STATE 5, 2)], by decide +kernel⟩,
  ⟨9, wrs ready [(LN_CHAN_STAT_STATE 9, 2)], by decide +kernel⟩⟩

theorem witness_PortsChannelsAndAlignment :
    (∃ (w : Who) (p : Fin 4) (s : State), s.serves w (0x020000 + 4 * p) 4 = true ∧ s.portOn p = false) ∧
    (∃ (w : Who) (p : Fin 4) (s : State), s.serves w (0x020000 + 4 * p) 4 = true ∧ s.portOn p = true) ∧
    (∃ (w : Who) (c : Fin 32) (s : State), s.serves w (0x020100 + 4 * c) 4 = true ∧ s.is (LN_CHAN_CFG_EN c) = false) ∧
    (∃ (w : Who) (c : Fin 32) (s : State), s.serves w (0x020100 + 4 * c) 4 = true ∧ s.is (LN_CHAN_CFG_EN c) = true) ∧
    (∃ (c : Fin 32) (a : List (BitVec 32)) (s : State), s.rd (LN_CHAN_STAT_STATE c) = 1 ∧ s.rxRuns (c / 8) = true ∧
      (∀ x ∈ a, ∀ y ∈ a, BitVec.toNat x ≤ BitVec.toNat y + 200 * 2 ^ 16)) ∧
    (∃ (c : Fin 32) (a : List (BitVec 32)) (s : State), s.rd (LN_CHAN_STAT_STATE c) = 1 ∧ s.rxRuns (c / 8) = true ∧
      (∃ x ∈ a, ∃ y ∈ a, BitVec.toNat y + 200 * 2 ^ 16 < BitVec.toNat x)) ∧
    (∃ (c : Fin 32) (s : State), s.rd (LN_CHAN_STAT_STATE c) = 2 ∧ s.rxRuns (c / 8) = true ∧ s.is (LN_CHAN_STAT_LINK c) = true) ∧
    (∃ (c : Fin 32) (s : State), s.rd (LN_CHAN_STAT_STATE c) = 2 ∧ s.rxRuns (c / 8) = true) :=
  ⟨⟨host, 2, ready, by decide +kernel⟩,
  ⟨host, 2, wrs ready [(LN_PORT_CFG_ENABLE 2, 1), (LN_PORT_CFG_T_MODE 2, 1)], by decide +kernel⟩,
  ⟨host, 9, withSd [(0x224, 1), (0x228, 0x10001)] ready, by decide +kernel⟩,
  ⟨host, 9, wrs ready [(LN_CHAN_CFG_EN 9, 1), (LN_CHAN_CFG_SPEED 9, 1)], by decide +kernel⟩,
  ⟨9, [5, 9], wrs ready [(LN_CHAN_STAT_STATE 9, 1)], by decide +kernel, by decide +kernel, by simp⟩,
  ⟨9, [0, 13107201], wrs ready [(LN_CHAN_STAT_STATE 9, 1)], by decide +kernel, by decide +kernel, by simp⟩,
  ⟨9, wrs ready [(LN_CHAN_STAT_STATE 9, 2), (LN_CHAN_STAT_LINK 9, 1)], by decide +kernel⟩,
  ⟨9, wrs ready [(LN_CHAN_STAT_STATE 9, 2), (LN_CHAN_STAT_LINK 9, 1)], by decide +kernel⟩⟩

theorem witness_SpareLanes :
    (∃ (w : Who) (p : Fin 4) (v : BitVec 32) (s : State), s.serves w (0x020400 + 8 * p) 4 = true ∧ s.spState p = pIDLE ∧
      s.spareArg p (bits v.toNat 4 3) = true ∧ s.evacOf p = false) ∧
    (∃ (w : Who) (p : Fin 4) (s : State), s.serves w (0x020400 + 8 * p) 4 = true ∧ s.spState p = pACTIVE) ∧
    (∃ (w : Who) (p : Fin 4) (s : State), s.serves w (0x020400 + 8 * p) 4 = true ∧ s.spState p = pACTIVE) ∧
    (∃ (w : Who) (p : Fin 4) (s : State), s.serves w (0x020400 + 8 * p) 4 = true ∧ s.spState p ≠ pIDLE ∧ s.spState p ≠ pACTIVE) ∧
    (∃ (w : Who) (p : Fin 4) (v : BitVec 32) (s : State) (c : Instr), s.serves w (0x020400 + 8 * p) 4 = true ∧
      ((c = Instr.lnSubstitute w p v ∧ s.spState p ≠ pIDLE) ∨ (c = .txRelease w p v ∧ s.spState p ≠ pACTIVE) ∨ (c = .lnRestore w p v ∧ s.spState p ≠ pACTIVE) ∨ (c = .spareAbort w p v ∧ (s.spState p = pIDLE ∨ s.spState p = pACTIVE)))) ∧
    (∃ (p : Fin 4) (d : BitVec 13) (s : State),
      let x := s.spare p; let c := s.lane (s.spareLanes p).1; let l := s.lane (s.spareLanes p).2; let e : Int := if x.reverse then -BitVec.toInt d else BitVec.toInt d; let ca := c.end_ - (-e).toNat; let la := l.end_ - e.toNat; s.spState p = pMATCH ∧
      s.portRuns p = true ∧ -2047 ≤ BitVec.toInt d ∧ BitVec.toInt d ≤ 2048 ∧ 1024 ≤ ca ∧ 1024 ≤ la ∧
      (c.bitsFrom (ca - 1024) 128).isSome = true) ∧
    (∃ (p : Fin 4) (s : State), s.spState p = pCONFIRM ∧ s.portRuns p = true ∧
      256 * s.rd (LN_SPARE_CTRL_CONFIRM_W p) ≤ (s.spare p).confirmed) ∧
    (∃ (p : Fin 4) (s : State), s.spState p = pMATCH) ∧
    (∃ (p : Fin 4) (s : State), s.spState p = pSWITCH ∧ s.portRuns p = true) :=
  ⟨⟨host, 1, 0x510, withSd [(0x228, 0x10009), (0x224, 0x80009)] (wrs ready [(LN_LANE_STAT_STATE 9, 2)]), by decide +kernel⟩,
  ⟨host, 1, wrs ready [(LN_SPARE_STAT_STATE 1, 4), (LN_SPARE_STAT_TX_BRIDGED 1, 1)], by decide +kernel⟩,
  ⟨host, 1, wrs ready [(LN_SPARE_STAT_STATE 1, 4)], by decide +kernel⟩,
  ⟨host, 1, wrs ready [(LN_SPARE_STAT_STATE 1, 1)], by decide +kernel⟩,
  ⟨host, 1, 0, ready, .lnRestore host 1 0, by decide +kernel⟩,
  ⟨1, -2047, withSd [(0x228, 0x10009), (0x224, 0x80009)] { (wrs ready [(LN_SPARE_STAT_STATE 1, 1), (LN_SPARE_STAT_STOOD_POS 1, 1)]) with lanes := [(9, { hist := List.replicate 512 0, words := 16 }), (10, { hist := List.replicate 512 0, words := 16 })] }, by decide +kernel⟩,
  ⟨1, { (wrs ready [(LN_SPARE_STAT_STATE 1, 2), (LN_SPARE_CTRL_CONFIRM_W 1, 1)]) with spares := [(1, { confirmed := 256 })] }, by decide +kernel⟩,
  ⟨1, wrs ready [(LN_SPARE_STAT_STATE 1, 1), (LN_SPARE_CTRL_MATCH_US 1, 500)], by decide +kernel⟩,
  ⟨1, withSd [(0x224, 0x80009)] (wrs ready [(LN_SPARE_STAT_STATE 1, 3)]), by decide +kernel⟩⟩

theorem witness_Framers :
    (∃ (p : Fin 4) (l : Fin 8) (j : ℕ) (s : State), j = 8 * p.val + l.val ∧ s.portRuns (j / 8) = false) ∧
    (∃ (p : Fin 4) (l : Fin 8) (j : ℕ) (s : State), j = 8 * p.val + l.val ∧ s.portRuns (j / 8) = true ∧ s.rd (TF_FR_STAT_STATE j) = fOFF) ∧
    (∃ (p : Fin 4) (l : Fin 8) (n : ℕ) (b : Fin 256) (j : ℕ) (s : State), j = 8 * p.val + l.val ∧ 0 < 256 * n + b.val ∧
      s.portRuns (j / 8) = true ∧ s.rd (TF_FR_STAT_STATE j) = fHUNT ∧ (s.fr j).has 12 = true ∧ hdrFits ((s.fr j).bytes 12) = true ∧
      (s.fr j).cands = []) ∧
    (∃ (p : Fin 4) (l : Fin 8) (n : ℕ) (b : Fin 256) (j : ℕ) (m : ℕ) (s : State), j = 8 * p.val + l.val ∧ 0 < 256 * n + b.val ∧
      s.portRuns (j / 8) = true ∧ s.rd (TF_FR_STAT_STATE j) = fPRESYNC ∧ (s.fr j).has 12 = true ∧ hdrFits ((s.fr j).bytes 12) = true ∧
      (s.fr j).cands = [⟨(s.fr j).pos, m, 2⟩] ∧ leNat ((s.fr j).bytes 12) 0 4 = (m + 1) % 2 ^ 32) ∧
    (∃ (p : Fin 4) (l : Fin 8) (j : ℕ) (s : State), let h := (s.fr j).bytes 12; j = 8 * p.val + l.val ∧ s.portRuns (j / 8) = true ∧
      s.rd (TF_FR_STAT_STATE j) = fSYNC ∧ (s.fr j).frame = none ∧ (s.fr j).has 12 = true ∧ hdrFits h = true) ∧
    (∃ (p : Fin 4) (l : Fin 8) (j : ℕ) (s : State), j = 8 * p.val + l.val ∧ s.portRuns (j / 8) = true ∧ s.rd (TF_FR_STAT_STATE j) = fSYNC ∧
      (s.fr j).frame = none ∧ (s.fr j).has 12 = true ∧ hdrFits ((s.fr j).bytes 12) = false ∧ s.rd (TF_FR_STAT_FAILS j) < 3) ∧
    (∃ (p : Fin 4) (l : Fin 8) (j : ℕ) (s : State), j = 8 * p.val + l.val ∧ s.portRuns (j / 8) = true ∧ s.rd (TF_FR_STAT_STATE j) = fSYNC ∧
      (s.fr j).frame = none ∧ (s.fr j).has 12 = true ∧ hdrFits ((s.fr j).bytes 12) = false ∧ s.rd (TF_FR_STAT_FAILS j) = 3) ∧
    (∃ (w : Who) (j : Fin 32) (s : State), s.serves w (0x040000 + 4 * j) 4 = true ∧ s.rd (TF_FR_STAT_STATE j) = fSYNC) ∧
    (∃ (j : Fin 32) (s : State), (s.tSends j = false ∨ 8192 ≤ (s.fr j).out.length)) ∧
    (∃ (j : Fin 32) (s : State), s.tSends j = true ∧ (s.fr j).out.length < 8192 ∧ s.groupOf j = none) :=
  ⟨⟨0, 4, 4, { ready with sys := { ready.sys with clkStopped := 1 } }, by decide +kernel⟩,
  ⟨0, 4, 4, wrs ready [(TF_FR_STAT_STATE 4, 3)], by decide +kernel⟩,
  ⟨0, 4, 1, 0, 4, fr4 (hdr 7) 0 0 0 [], by decide +kernel⟩,
  ⟨0, 4, 1, 0, 4, 7, fr4 (hdr 8) 1 0 0 [⟨9, 7, 2⟩], by decide +kernel⟩,
  ⟨0, 4, 4, fr4 (hdr 8) 2 0 7 [⟨9, 7, 2⟩], by decide +kernel⟩,
  ⟨0, 4, 4, fr4 (List.replicate 12 0) 2 2 7 [⟨9, 7, 2⟩], by decide +kernel⟩,
  ⟨0, 4, 4, fr4 (List.replicate 12 0) 2 3 7 [⟨9, 7, 2⟩], by decide +kernel⟩,
  ⟨host, 4, wrs ready [(TF_FR_STAT_STATE 4, 2)], by decide +kernel⟩,
  ⟨4, ready, by decide +kernel⟩,
  ⟨4, withSd [(0x210, 0x40009)] { (wrs ready [(LN_PORT_CFG_ENABLE 0, 1), (LN_PORT_CFG_T_MODE 0, 1), (TF_FR_STAT_STATE 4, 2), (SYS_SLICE_MAP_MAP, 0x0BA98)]) with frs := [(4, { txMfc := 2 ^ 32 - 1, out := [1, 2] })] }, by decide +kernel⟩⟩

theorem witness_GfpStream :
    (∃ (c : Fin 32) (s : State), s.portRuns (c / 8) = true ∧ s.rd (TF_GFP_STAT_STATE c) = fHUNT ∧ 4 ≤ (s.gfp c).buf.length ∧
      hecFits (coreAt (s.gfp c).buf 0) = true) ∧
    (∃ (c : Fin 32) (s : State), s.portRuns (c / 8) = true ∧ s.rd (TF_GFP_STAT_STATE c) = fHUNT ∧ 4 ≤ (s.gfp c).buf.length ∧
      hecFits (coreAt (s.gfp c).buf 0) = false) ∧
    (∃ (c : Fin 32) (s : State), s.portRuns (c / 8) = true ∧ s.rd (TF_GFP_STAT_STATE c) = fSYNC ∧ 4 ≤ (s.gfp c).buf.length ∧
      (s.gfp c).pli = none ∧ hecFits (coreAt (s.gfp c).buf 0) = true) ∧
    (∃ (c : Fin 32) (n : ℕ) (s : State), s.portRuns (c / 8) = true ∧ s.rd (TF_GFP_STAT_STATE c) = fSYNC ∧ (s.gfp c).pli = some n ∧
      n ≤ (s.gfp c).buf.length) ∧
    (∃ (c : Fin 32) (n : ℕ) (s : State), let d := (x43 true (s.gfp c).rxScr ((s.gfp c).buf.take n)).2; s.portRuns (c / 8) = true ∧
      s.rd (TF_GFP_STAT_STATE c) = fSYNC ∧ (s.gfp c).pli = some n ∧ n ≤ (s.gfp c).buf.length ∧ 5 ≤ n ∧ s.x43Off (s.gfp c).cfg = false ∧
      hecFits (beNat d 0 4) = true ∧ beNat d 0 2 = 1) ∧
    (∃ (c : Fin 32) (s : State), s.portRuns (c / 8) = true ∧ s.rd (TF_GFP_STAT_STATE c) = fSYNC ∧ s.is (TF_GFP_STAT_LINK c) = false) :=
  ⟨⟨4, { (wrs ready [(TF_GFP_STAT_STATE 4, 0)]) with gfps := [(4, { buf := idle ++ [9] })] }, by decide +kernel⟩,
  ⟨4, { (wrs ready [(TF_GFP_STAT_STATE 4, 0)]) with gfps := [(4, { buf := 5 :: idle })] }, by decide +kernel⟩,
  ⟨4, { (wrs ready [(TF_GFP_STAT_STATE 4, 2)]) with gfps := [(4, { buf := idle })] }, by decide +kernel⟩,
  ⟨4, 0, { (wrs ready [(TF_GFP_STAT_STATE 4, 2)]) with gfps := [(4, { buf := idle, pli := some 0 })] }, by decide +kernel⟩,
  ⟨4, 6, { (wrs ready [(TF_GFP_STAT_STATE 4, 2)]) with gfps := [(4, { buf := (x43 false 0 [0, 1, 0x10, 0x21, 0xAA, 0xBB]).2, pli := some 6, pos := 20 })] }, by decide +kernel⟩,
  ⟨4, { (wrs ready [(TF_GFP_STAT_STATE 4, 2)]) with gfps := [(4, { since := 9 })] }, by decide +kernel⟩⟩

theorem witness_GroupsAlign :
    (∃ (w : Who) (g : Fin 16) (s : State), s.serves w (grpOff g) 4 = true ∧ s.is (GP_GRP_CFG_EN g) = false ∧ s.partner g = none) ∧
    (∃ (w : Who) (g : Fin 16) (h : Fin 16) (s : State), s.serves w (grpOff g) 4 = true ∧ s.is (GP_GRP_CFG_EN g) = false ∧
      s.partner g = some h.val) ∧
    (∃ (w : Who) (g : Fin 16) (s : State), s.serves w (grpOff g) 4 = true ∧ s.is (GP_GRP_CFG_EN g) = true ∧
      ((∀ h ∈ s.together g, h < 16 ∧ s.rd (GP_GRP_CFG_CHAN h) < 32))) ∧
    (∃ (g : Fin 16) (m : ℕ) (ts : List (ℕ × ℕ)) (s : State), s.is (GP_GRP_CFG_EN g) = true ∧
      s.portRuns (s.rd (GP_GRP_CFG_CHAN g) / 8) = true ∧ s.segReady g = some (m, ts)) ∧
    (∃ (g : Fin 16) (m : ℕ) (ts : List (ℕ × ℕ)) (s : State), s.is (GP_GRP_CFG_EN g) = true ∧
      s.portRuns (s.rd (GP_GRP_CFG_CHAN g) / 8) = true ∧ s.segReady g = some (m, ts) ∧ s.gState g = gALIGNING ∧ segSpread ts ≤ 8000 ∧
      (∀ j ∈ s.members g, s.qualifies j g = true) ∧ ((s.grp g).good = 0 ∨ (s.grp g).next = m)) ∧
    (∃ (g : Fin 16) (m : ℕ) (ts : List (ℕ × ℕ)) (s : State), s.is (GP_GRP_CFG_EN g) = true ∧
      s.portRuns (s.rd (GP_GRP_CFG_CHAN g) / 8) = true ∧ s.segReady g = some (m, ts) ∧ s.gState g = gUP ∧ 8000 < segSpread ts) ∧
    (∃ (g : Fin 16) (m : ℕ) (ts : List (ℕ × ℕ)) (s : State), s.is (GP_GRP_CFG_EN g) = true ∧
      s.portRuns (s.rd (GP_GRP_CFG_CHAN g) / 8) = true ∧ s.segReady g = some (m, ts) ∧ s.gState g = gUP ∧ segSpread ts ≤ 8000) :=
  ⟨⟨host, 3, withSd [(0x204, 0x10009)] (wrs ready [(LN_PORT_CFG_ENABLE 0, 1), (LN_PORT_CFG_T_MODE 0, 1), (GP_POS_CFG_IN_GROUP 1, 1), (GP_POS_CFG_GROUP 1, 3)]), by decide +kernel⟩,
  ⟨host, 3, 4, wrs ready [(GP_PAIR_CFG_EN 0, 1), (GP_PAIR_CFG_WORK 0, 3), (GP_PAIR_CFG_PROT 0, 4)], by decide +kernel⟩,
  ⟨host, 3, wrs ready [(GP_GRP_CFG_EN 3, 1), (GP_GRP_STAT_STATE 3, 2), (GP_GRP_CFG_CHAN 3, 9)], by decide +kernel⟩,
  ⟨3, 6, [(1, 1), (2, 1 + 5 * 2 ^ 32)], seg3 1 5 2, by decide +kernel⟩,
  ⟨3, 6, [(1, 1), (2, 1)], seg3 1 0 2, by decide +kernel⟩,
  ⟨3, 6, [(1, 1), (2, 1 + 8001 * 2 ^ 32)], seg3 2 8001 0, by decide +kernel⟩,
  ⟨3, 6, [(1, 1), (2, 1 + 8000 * 2 ^ 32)], seg3 2 8000 0, by decide +kernel⟩⟩

theorem witness_PairsSwitchAndHingePasses :
    (∃ (w : Who) (k : Fin 8) (s : State), s.serves w (0x041300 + 16 * k) 4 = true) ∧
    (∃ (w : Who) (k : Fin 8) (s : State) (e : Instr × ℕ × ℕ × Bool), s.serves w (pairCmdOff k) 4 = true ∧ s.coreUp = true ∧
      s.is (GP_PAIR_CFG_EN k) = true ∧ s.is (GP_PAIR_CFG_BIDIR k) = false ∧ s.condNow k = [] ∧ (s.pair k).entered = [] ∧
      (s.pair k).wtr = none ∧ (s.pair k).dnr = false ∧
      e ∈ [(Instr.pairCmdNone w k, 0, 0, false), (.pairCmdLo w k, 1, 15, false), (.pairCmdFs w k, 2, 13, true),
      (.pairCmdMsProtect w k, 3, 8, true), (.pairCmdMsWorking w k, 4, 8, false), (.pairCmdExer w k, 5, 4, s.is (GP_PAIR_STAT_SEL k))]) ∧
    (∃ (k : Fin 8) (i : Fin 4) (a : ℕ) (s : State), let c := [14, 12, 11, 10].getD i.val 0; s.coreUp = true ∧
      (s.pair k).conds.find? (fun e => e.1 == c) = some (c, a) ∧ s.is (GP_PAIR_CFG_EN k) = true ∧ (s.pair k).entered.contains c = false ∧
      (s.condNow k).contains c = true) ∧
    (∃ (k : Fin 8) (a : ℕ) (s : State), s.coreUp = true ∧ (s.pair k).wtr = some a ∧ s.is (GP_PAIR_CFG_EN k) = true ∧
      s.is (GP_PAIR_CFG_BIDIR k) = false ∧ s.condNow k = [] ∧ (s.pair k).entered = [] ∧ (s.pair k).dnr = false ∧
      s.rd (GP_PAIR_CMD_CMD k) = 0) ∧
    (∃ (c : Fin 32) (k : ℕ) (prot : Bool) (id : ℕ) (f : RxFr) (s : State), s.pairOfChan c = some (k, prot) ∧ s.releasedOf c = some (id, f) ∧
      s.islandRuns 5 = true ∧ (s.pair k).copies = [] ∧ s.belowNext k f.pos = true) ∧
    (∃ (c : Fin 32) (k : ℕ) (prot : Bool) (id : ℕ) (f : RxFr) (s : State), s.pairOfChan c = some (k, prot) ∧ s.releasedOf c = some (id, f) ∧
      s.islandRuns 5 = true ∧ s.rxf id = some f ∧ (s.pair k).copies = [] ∧ s.belowNext k f.pos = false ∧
      s.is (GP_PAIR_STAT_ALIGNED k) = false ∧ prot = s.is (GP_PAIR_STAT_SEL k) ∧ (s.pair k).switched = false) ∧
    (∃ (c : Fin 32) (k : ℕ) (prot : Bool) (id : ℕ) (f : RxFr) (q : ℕ) (s : State), s.pairOfChan c = some (k, prot) ∧
      s.releasedOf c = some (id, f) ∧ s.islandRuns 5 = true ∧ s.rxf id = some f ∧ (s.pair k).copies = [] ∧ s.belowNext k f.pos = false ∧
      s.is (GP_PAIR_STAT_ALIGNED k) = false ∧ prot = s.is (GP_PAIR_STAT_SEL k) ∧ (s.pair k).switched = true ∧ (s.pair k).stby = some q) ∧
    (∃ (c : Fin 32) (k : ℕ) (prot : Bool) (id : ℕ) (f : RxFr) (s : State), s.pairOfChan c = some (k, prot) ∧ s.releasedOf c = some (id, f) ∧
      s.islandRuns 5 = true ∧ (s.pair k).copies = [] ∧ s.belowNext k f.pos = false ∧ s.is (GP_PAIR_STAT_ALIGNED k) = false ∧
      prot ≠ s.is (GP_PAIR_STAT_SEL k)) ∧
    (∃ (k : Fin 8) (e : Copy) (f : RxFr) (s : State), s.coreUp = true ∧ s.is (GP_PAIR_STAT_ALIGNED k) = true ∧ (s.pair k).copies = [e] ∧
      s.belowNext k e.pos = false ∧ s.otherDown k e.prot = false ∧ s.rd (GP_PAIR_TIME_WAIT_NS k) ≠ 0 ∧ s.rxf e.frame = some f) :=
  ⟨⟨host, 3, ready, by decide +kernel⟩,
  ⟨host, 0, pair0 [], (.pairCmdFs host 0, 2, 13, true), by decide +kernel⟩,
  ⟨0, 1, 50, { (pair0 [(GP_GRP_STAT_STATE 1, 1), (GP_PAIR_CMD_HOLDOFF 0, 2)]) with pairs := [(0, { conds := [(12, 50)] })] }, by decide +kernel⟩,
  ⟨0, 70, { (pair0 [(GP_PAIR_STAT_WTR_RUN 0, 1), (GP_PAIR_STAT_SEL 0, 1), (GP_PAIR_TIME_WTR_S 0, 3)]) with pairs := [(0, { wtr := some 70 })] }, by decide +kernel⟩,
  ⟨5, 0, false, 9, { rx0 5 with stage := .released, pos := 100, cells := 3 }, { (pair0 []) with rxs := [(9, { rx0 5 with stage := .released, pos := 100, cells := 3 })], pairs := [(0, { next := some 200 })] }, by decide +kernel⟩,
  ⟨5, 0, false, 9, { rx0 5 with stage := .released, pos := 300 }, { (pair0 []) with rxs := [(9, { rx0 5 with stage := .released, pos := 300 })], pairs := [(0, { next := some 200 })] }, by decide +kernel⟩,
  ⟨5, 0, false, 9, { rx0 5 with stage := .released, pos := 300 }, 250, { (pair0 []) with rxs := [(9, { rx0 5 with stage := .released, pos := 300 })], pairs := [(0, { next := some 200, switched := true, stby := some 250 })] }, by decide +kernel⟩,
  ⟨6, 0, true, 9, { rx0 6 with stage := .released, pos := 300 }, { (pair0 []) with rxs := [(9, { rx0 6 with stage := .released, pos := 300 })], pairs := [(0, { next := some 200 })] }, by decide +kernel⟩,
  ⟨0, ⟨300, false, 9, 70⟩, { rx0 5 with stage := .released, pos := 300 }, { (pair0 [(GP_PAIR_TIME_WAIT_NS 0, 500), (GP_PAIR_STAT_ALIGNED 0, 1)]) with rxs := [(9, { rx0 5 with stage := .released, pos := 300 })], pairs := [(0, { next := some 200, copies := [⟨300, false, 9, 70⟩] })] }, by decide +kernel⟩⟩

theorem witness_SecondsAndOverhead :
    (∃ (s : State), s.coreUp = true) ∧
    (∃ (k : Fin 8) (v : ℕ) (r : List ℕ) (s : State), (s.oh k).tx = v :: r ∧ s.islandUp 8 = true) ∧
    (∃ (k : Fin 8) (s : State), ((s.oh k).tx = [] ∨ s.islandUp 8 = false)) ∧
    (∃ (k : Fin 8) (s : State), s.is (GP_OH_RX_EN k) = true ∧ (s.oh k).rx.length < 4 ∧
      ((∀ i < k.val, s.is (GP_OH_RX_EN i) = false ∨ s.rd (GP_OH_RX_POS i) ≠ s.rd (GP_OH_RX_POS k)))) ∧
    (∃ (k : Fin 8) (s : State), s.is (GP_OH_RX_EN k) = true) ∧
    (∃ (k : Fin 8) (s : State), s.is (GP_OH_RX_EN k) = true ∧ 4 ≤ (s.oh k).rx.length) :=
  ⟨⟨{ ready with frs := [(3, { bip := 2 ^ 33, hcrc := 5 })] }, by decide +kernel⟩,
  ⟨3, 9, [8], { ready with ohs := [(3, { tx := [9, 8] })] }, by decide +kernel⟩,
  ⟨3, ready, by decide +kernel⟩,
  ⟨3, { (wrs ready [(GP_OH_RX_EN 3, 1), (GP_OH_RX_POS 3, 5)]) with ohs := [(3, { rx := [1, 2, 3] })] }, by decide +kernel⟩,
  ⟨3, wrs ready [(GP_OH_RX_EN 3, 1)], by decide +kernel⟩,
  ⟨3, { (wrs ready [(GP_OH_RX_EN 3, 1)]) with ohs := [(3, { rx := [1, 2, 3, 4] })] }, by decide +kernel⟩⟩

theorem witness_MacChannels :
    (∃ (w : Who) (c : Fin 32) (s : State), s.serves w (0x060180 + 4 * c) 4 = true ∧ s.is (MC_COMMIT_LOCKED c) = false ∧
      64 ≤ s.rd (MC_MAXLEN_MAXLEN c) ∧ s.rd (MC_MAXLEN_MAXLEN c) ≤ 16384 ∧ s.txWaiting c = false ∧ s.rxInFrame c false = false) ∧
    (∃ (w : Who) (c : Fin 32) (s : State), s.serves w (0x060180 + 4 * c) 4 = true ∧ s.is (MC_COMMIT_LOCKED c) = false ∧
      64 ≤ s.rd (MC_MAXLEN_MAXLEN c) ∧ s.rd (MC_MAXLEN_MAXLEN c) ≤ 16384 ∧ s.txWaiting c = true ∧ s.rxInFrame c true = true) ∧
    (∃ (w : Who) (c : Fin 32) (s : State), s.serves w (0x060180 + 4 * c) 4 = true ∧
      (s.is (MC_COMMIT_LOCKED c) = true ∨ s.rd (MC_MAXLEN_MAXLEN c) < 64 ∨ 16384 < s.rd (MC_MAXLEN_MAXLEN c))) ∧
    (∃ (c : Fin 32) (f : List Byte) (s : State),
      let m := if (s.ch c).rxDue && !(s.ch c).rxBusy then s.macShade c else (s.ch c).rx; s.rxRuns (c / 8) = true ∧ s.tMode (c / 8) = false ∧
      s.receives c = true ∧ s.spansGap c f.length = false ∧ s.pwWatchedAt (s.eStart c f.length) = false ∧ s.protChan c = false ∧ f ≠ [] ∧
      rxFlags m.maxlen false false f = 0 ∧ beNat f 12 2 ≠ 0x8808) ∧
    (∃ (c : Fin 32) (s : State), s.rxRuns (c / 8) = true ∧ s.tMode (c / 8) = false ∧ s.receives c = true ∧ s.protChan c = false) ∧
    (∃ (c : Fin 32) (s : State),
      (s.rxRuns (c / 8) = false ∧ ((s.ch c).partly = false ∨ s.pwParked = false) ∨ s.tMode (c / 8) = false ∧ s.receives c = false ∧ (s.ch c).partly = false ∨ s.tMode (c / 8) = true ∧ (s.gfp c).clients = [])) ∧
    (∃ (c : Fin 32) (e : ClientFr) (r : List ClientFr) (s : State), s.rxRuns (c / 8) = true ∧ s.tMode (c / 8) = true ∧
      (s.gfp c).clients = e :: r) ∧
    (∃ (c : Fin 32) (k : Fin 8) (a : ℕ) (s : State), optGet (s.ch c).pauseEnd k = some a ∧ s.portRuns (c / 8) = true) ∧
    (∃ (c : Fin 32) (s : State), s.fcMode c = 1 ∧ s.is (MC_FC_CFG_TX_GEN c) = true ∧ (s.ch c).xoffMine ≠ 0 ∧ s.portRuns (c / 8) = true) ∧
    (∃ (w : Who) (c : Fin 32) (v : Word) (s : State), s.serves w (0x060200 + 4 * c) 4 = true ∧ s.rd (MC_FC_CFG_MODE c) ≠ bits v.toNat 0 2) ∧
    (∃ (c : Fin 32) (k : Fin 8) (a : ℕ) (e : ℕ) (s : State), optGet (s.ch c).pauseFrom k = some a ∧ optGet (s.ch c).pauseEnd k = some e ∧
      s.rd (MC_FC_WD_WD_US c) ≠ 0 ∧ a + 1600 * s.rd (MC_FC_WD_WD_US c) ≤ e ∧ s.portRuns (c / 8) = true ∧ s.protChan c = false) ∧
    (∃ (c : Fin 32) (k : Fin 8) (a : ℕ) (s : State), optGet (s.ch c).holdEnd k = some a ∧ s.portRuns (c / 8) = true) :=
  ⟨⟨host, 9, wrs ready [(MC_MAXLEN_MAXLEN 9, 1522)], by decide +kernel⟩,
  ⟨host, 9, { (mac9 [(MC_MAXLEN_MAXLEN 9, 64)]) with chs := [(9, { line := .frame 3 })] }, by decide +kernel⟩,
  ⟨host, 9, wrs ready [(MC_MAXLEN_MAXLEN 9, 16385)], by decide +kernel⟩,
  ⟨9, (List.replicate 60 (0x5A : Byte) ++ leBytes 4 (crc32 (List.replicate 60 (0x5A : Byte)))), mac9 [], by decide +kernel⟩,
  ⟨9, mac9 [], by decide +kernel⟩,
  ⟨9, ready, by decide +kernel⟩,
  ⟨9, ⟨[1, 2], false, false, 20, 0, 0, 0, {}⟩, [], { (mac9 [(LN_PORT_CFG_T_MODE 1, 1)]) with gfps := [(9, { clients := [⟨[1, 2], false, false, 20, 0, 0, 0, {}⟩] })] }, by decide +kernel⟩,
  ⟨9, 3, 700, { (wrs ready [(MC_FC_STAT_PAUSED 9, 8)]) with chs := [(9, { pauseEnd := [(3, 700)], pauseFrom := [(3, 600)] })] }, by decide +kernel⟩,
  ⟨9, { (mac9 [(MC_FC_CFG_MODE 9, 1), (MC_FC_CFG_TX_GEN 9, 1), (MC_FC_REF_REFRESH 9, 100)]) with chs := [(9, { xoffMine := 1 })] }, by decide +kernel⟩,
  ⟨host, 9, 2, { (wrs ready [(MC_FC_STAT_PAUSED 9, 255), (MC_FC_CFG_MODE 9, 1)]) with chs := [(9, { pauseEnd := [(3, 700)], pauseFrom := [(3, 600)] })] }, by decide +kernel⟩,
  ⟨9, 3, 600, 4000, { (wrs ready [(MC_FC_STAT_PAUSED 9, 8), (MC_FC_WD_WD_US 9, 2)]) with chs := [(9, { pauseEnd := [(3, 4000)], pauseFrom := [(3, 600)] })] }, by decide +kernel⟩,
  ⟨9, 3, 600, { (wrs ready [(MC_FC_STAT_HOLDOFF 9, 8)]) with chs := [(9, { holdEnd := [(3, 600)] })] }, by decide +kernel⟩⟩

theorem witness_LookupsGiveVerdicts :
    (∃ (c : Fin 32) (id : ℕ) (key : List Byte) (f : RxFr) (tag : ℕ) (s : State), s.keyWaiting c = some (id, key) ∧ s.rxf id = some f ∧
      s.islandRuns 7 = true ∧ s.rxRuns (c / 8) = true ∧ lookupTag (s.lookupsOut (c / 8)) = some tag ∧ f.chan = c.val ∧
      s.is CL_CTRL_EN = false) ∧
    (∃ (c : Fin 32) (id : ℕ) (key : List Byte) (f : RxFr) (tag : ℕ) (line : LineC) (i : ℕ) (e : ℕ) (s : State),
      let out := toeplitz (beNat key 0 40) s.hkey; s.keyWaiting c = some (id, key) ∧ s.rxf id = some f ∧ s.islandRuns 7 = true ∧
      s.rxRuns (c / 8) = true ∧ lookupTag (s.lookupsOut (c / 8)) = some tag ∧ s.is CL_CTRL_EN = true ∧ s.cline (hashH1 out) = some line ∧
      matchIn line.ents (byteAt key 0) (hashSig out) 0 = some (i, e)) ∧
    (∃ (c : Fin 32) (id : ℕ) (key : List Byte) (tag : ℕ) (s : State),
      let h1 := hashH1 (toeplitz (beNat key 0 40) s.hkey); s.keyWaiting c = some (id, key) ∧ s.islandRuns 7 = true ∧
      s.rxRuns (c / 8) = true ∧ lookupTag (s.lookupsOut (c / 8)) = some tag ∧ s.is CL_CTRL_EN = true ∧ s.cline h1 = none ∧
      s.bucketServed h1 = true) ∧
    (∃ (d : Deliv) (rest : List Deliv) (l : Lookup) (e : ℕ × ℕ) (f : RxFr) (s : State), s.islandRuns 7 = true ∧
      takeFirst (fun d => d.kind == .tblLookup || d.kind == .tblUpdRead || d.kind == .tblCopyRead) s.fab.done = some (d, rest) ∧
      d.kind = .tblLookup ∧ d.resp = .okay ∧ s.tbl.stale.contains (d.a, d.b) = false ∧ whole (entsOf d.data) = true ∧ s.cline d.b = none ∧
      s.lookup d.a = some l ∧ l.result = none ∧ l.bucket = d.b ∧ matchIn (entsOf d.data) l.type l.sig (b2n l.second) = some e ∧
      s.rxf d.a = some f) ∧
    (∃ (d : Deliv) (rest : List Deliv) (l : Lookup) (f : RxFr) (s : State), s.islandRuns 7 = true ∧
      takeFirst (fun d => d.kind == .tblLookup || d.kind == .tblUpdRead || d.kind == .tblCopyRead) s.fab.done = some (d, rest) ∧
      d.kind = .tblLookup ∧ d.resp ≠ .okay ∧ s.tbl.stale.contains (d.a, d.b) = false ∧ s.lookup d.a = some l ∧ l.result = none ∧
      l.bucket = d.b ∧ s.rxf d.a = some f ∧ 9 ≤ d.x ∧ d.x ≤ 15) ∧
    (∃ (c : Fin 32) (id : ℕ) (l : Lookup) (f : RxFr) (s : State), s.islandRuns 7 = true ∧ s.lookupOf c (·.result.isNone) = some (id, l) ∧
      s.lookup id = some l ∧ s.rxf id = some f) ∧
    (∃ (c : Fin 32) (id : ℕ) (l : Lookup) (v : Verdict) (f : RxFr) (s : State), s.rxRuns (c / 8) = true ∧ s.islandRuns 7 = true ∧
      v.reason < 8 ∧ s.lookupOf c (·.result.isSome) = some (id, l) ∧ l.result = some v ∧ s.rxf id = some f) :=
  ⟨⟨9, 4, key0, { rx0 9 with key := some key0 }, 0, { (mac9 []) with rxs := [(4, { rx0 9 with key := some key0 })] }, by decide +kernel⟩,
  ⟨9, 4, key0, { rx0 9 with key := some key0 }, 0, ⟨[0, ent0, 0, 0], 3, 0, false⟩, 1, ent0, { (mac9 [(CL_CTRL_EN, 1)]) with rxs := [(4, { rx0 9 with key := some key0 })], tbl := { cache := [(0, ⟨[0, ent0, 0, 0], 3, 0, false⟩)] } }, by decide +kernel⟩,
  ⟨9, 4, key0, 0, withSd [(0x0C0, 0), (0x0C8, 512), (0x0CC, 0x010100), (0x0B0, 1)] { (mac9 [(CL_CTRL_EN, 1)]) with rxs := [(4, { rx0 9 with key := some key0 })] }, by decide +kernel⟩,
  ⟨⟨.tblLookup, 4, 0, 0, 0, .okay, entBytes [0, ent0, 0, 0]⟩, [], { type := 1, h1 := 0, sig := 0, start := 0 }, (1, ent0), rx0 9, answer .tblLookup 4 0 .okay (entBytes [0, ent0, 0, 0]) { (mac9 []) with rxs := [(4, rx0 9)], tbl := { lookups := [(4, { type := 1, h1 := 0, sig := 0, start := 0 })] } }, by decide +kernel⟩,
  ⟨⟨.tblLookup, 4, 0, 9, 0, .declined, []⟩, [], { type := 1, h1 := 0, sig := 0, start := 0 }, rx0 9, { (mac9 []) with fab := { done := [⟨.tblLookup, 4, 0, 9, 0, .declined, []⟩] }, rxs := [(4, rx0 9)], tbl := { lookups := [(4, { type := 1, h1 := 0, sig := 0, start := 0 })] } }, by decide +kernel⟩,
  ⟨9, 4, { type := 1, h1 := 0, sig := 0, start := 5 }, rx0 9, { (mac9 [(CL_LIMITS_DEADLINE_NS, 2000)]) with rxs := [(4, rx0 9)], tbl := { lookups := [(4, { type := 1, h1 := 0, sig := 0, start := 5 })] } }, by decide +kernel⟩,
  ⟨9, 4, { type := 1, h1 := 0, sig := 0, start := 5, result := some { reason := 5 } }, { reason := 5 }, rx0 9, { (mac9 []) with rxs := [(4, rx0 9)], tbl := { lookups := [(4, { type := 1, h1 := 0, sig := 0, start := 5, result := some { reason := 5 } })] } }, by decide +kernel⟩⟩

theorem witness_ClassifierEnableAndClear :
    (∃ (w : Who) (v : Word) (s : State), s.serves w 0x080000 4 = true ∧ s.is CL_CTRL_EN = false ∧ v.getLsbD 1 = false) ∧
    (∃ (w : Who) (v : Word) (s : State), s.serves w 0x080000 4 = true ∧ s.is CL_CTRL_EN = false ∧ s.is CL_CTRL_CLEAR_BUSY = false ∧
      v.getLsbD 0 = false) ∧
    (∃ (w : Who) (v : Word) (s : State), s.serves w 0x080000 4 = true ∧ s.is CL_CTRL_EN = true ∧ v.getLsbD 0 = true) ∧
    (∃ (s : State), s.is CL_CTRL_CLEAR_BUSY = true ∧ s.awaits .tblClear = false ∧ s.islandRuns 7 = true) ∧
    (∃ (s : State), (s.is CL_CTRL_CLEAR_BUSY = false ∨ s.awaits .tblClear = true ∨ s.islandRuns 7 = false)) :=
  ⟨⟨host, 0x30000, ready, by decide +kernel⟩,
  ⟨host, 0x2, withSd [(0x0B0, 1), (0x0C8, 512), (0x0CC, 0x010100)] { ready with tbl := { stash := [(1, 1)], entries := 4 } }, by decide +kernel⟩,
  ⟨host, 0x3, wrs ready [(CL_CTRL_EN, 1)], by decide +kernel⟩,
  ⟨wrs ready [(CL_CTRL_CLEAR_BUSY, 1)], by decide +kernel⟩,
  ⟨ready, by decide +kernel⟩⟩

theorem witness_TableUpdates :
    (∃ (w : Who) (s : State) (c : Instr), s.serves w 0x080330 4 = true ∧ s.is CL_UPD_STAT_BUSY = true ∧
      c ∈ [Instr.clInsert w, .clDelete w, .clModify w, .clQuery w]) ∧
    (∃ (w : Who) (s : State) (c : Instr), s.serves w 0x080330 4 = true ∧ s.is CL_UPD_STAT_BUSY = false ∧ s.tbl.ops = [] ∧
      s.rd (CL_UPD_KEY_KEY 0) % 256 = 0 ∧ c ∈ [Instr.clInsert w, .clDelete w, .clModify w, .clQuery w]) ∧
    (∃ (w : Who) (s : State) (e : Instr × ℕ),
      let key := (List.range 10).flatMap (fun i => leBytes 4 (s.rd (CL_UPD_KEY_KEY i))); let vd := s.readPlain 0x080328 + 2 ^ 32 * s.readPlain 0x08032C; let h1 := hashH1 (toeplitz (beNat key 0 40) s.hkey); s.serves w 0x080330 4 = true ∧
      s.is CL_UPD_STAT_BUSY = false ∧ s.tbl.ops = [] ∧ 1 ≤ byteAt key 0 ∧ byteAt key 0 ≤ 6 ∧ s.is CL_CTRL_EN = true ∧ s.cline h1 = none ∧
      s.bucketServed h1 = true ∧ e ∈ [(Instr.clInsert w, 1), (.clDelete w, 2), (.clModify w, 3), (.clQuery w, 4)] ∧
      ((e.2 = 1 ∨ e.2 = 3 → bits vd 33 3 < 3 ∧ (s.ctx (bits vd 0 12)).state ≠ cFREE ∧ (s.poolQ (bits vd 0 12) (bits vd 12 6) true).isSome = true))) ∧
    (∃ (w : Who) (line : LineC) (i : ℕ) (e : ℕ) (s : State),
      let key := (List.range 10).flatMap (fun i => leBytes 4 (s.rd (CL_UPD_KEY_KEY i))); let out := toeplitz (beNat key 0 40) s.hkey; s.serves w 0x080330 4 = true ∧
      s.is CL_UPD_STAT_BUSY = false ∧ s.tbl.ops = [] ∧ 1 ≤ byteAt key 0 ∧ byteAt key 0 ≤ 6 ∧ s.is CL_CTRL_EN = true ∧
      s.cline (hashH1 out) = some line ∧ matchIn line.ents (byteAt key 0) (hashSig out) 0 = some (i, e)) ∧
    (∃ (w : Who) (line : LineC) (j : ℕ) (s : State),
      let key := (List.range 10).flatMap (fun i => leBytes 4 (s.rd (CL_UPD_KEY_KEY i))); let vd := s.readPlain 0x080328 + 2 ^ 32 * s.readPlain 0x08032C; let out := toeplitz (beNat key 0 40) s.hkey; let h1 := hashH1 out; s.serves w 0x080330 4 = true ∧
      s.is CL_UPD_STAT_BUSY = false ∧ s.tbl.ops = [] ∧ s.tbl.stash = [] ∧ 1 ≤ byteAt key 0 ∧ byteAt key 0 ≤ 6 ∧ s.is CL_CTRL_EN = true ∧
      bits vd 33 3 < 3 ∧ (s.ctx (bits vd 0 12)).state ≠ cFREE ∧ (s.poolQ (bits vd 0 12) (bits vd 12 6) true).isSome = true ∧
      s.cline h1 = some line ∧ mapGet (fun _ => 0) s.tbl.disp h1 = 0 ∧ matchIn line.ents (byteAt key 0) (hashSig out) 0 = none ∧
      freeSlot line.ents = some j ∧ s.tblIssues (s.tblChan h1) = true ∧ s.copyOf = none) ∧
    (∃ (d : Deliv) (rest : List Deliv) (x : LineC) (o : UpdOp) (s : State), s.islandRuns 7 = true ∧
      takeFirst (fun d => d.kind == .tblUpdWrite || d.kind == .tblClear || d.kind == .tblCopyWrite) s.fab.done = some (d, rest) ∧
      d.kind = .tblUpdWrite ∧ d.resp = .okay ∧ s.cline d.a = some x ∧ s.tbl.ops = [o] ∧ o.decided = true ∧ o.writes = 1 ∧ o.todo = [] ∧
      o.op = 1 ∧ o.cmd = none) ∧
    (∃ (d : Deliv) (rest : List Deliv) (x : LineC) (o : UpdOp) (r : List UpdOp) (s : State), s.islandRuns 7 = true ∧
      takeFirst (fun d => d.kind == .tblUpdWrite || d.kind == .tblClear || d.kind == .tblCopyWrite) s.fab.done = some (d, rest) ∧
      d.kind = .tblUpdWrite ∧ d.resp ≠ .okay ∧ d.resp ≠ .unissued ∧ d.b / 8 < 3 ∧ s.cline d.a = some x ∧ s.tbl.ops = o :: r ∧ d.b % 8 < 7 ∧
      s.tblIssues (d.b % 8) = true) ∧
    (∃ (b : ℕ) (e : ℕ) (l : List (ℕ × ℕ)) (s : State), s.tbl.ops = [] ∧ s.tbl.stash = (b, e) :: l ∧ s.is CL_CTRL_EN = true ∧
      s.islandRuns 7 = true ∧ s.cline b = none ∧ s.bucketServed b = true) :=
  ⟨⟨host, wrs ready [(CL_UPD_STAT_BUSY, 1)], .clInsert host, by decide +kernel⟩,
  ⟨host, ready, .clModify host, by decide +kernel⟩,
  ⟨host, withSd [(0x0B0, 1), (0x0C8, 512), (0x0CC, 0x010100)] (wrs ready [(CL_CTRL_EN, 1), (CL_UPD_KEY_KEY 0, 1)]), (.clQuery host, 4), by decide +kernel⟩,
  ⟨host, ⟨[0, ent0, 0, 0], 3, 0, false⟩, 1, ent0, { (wrs ready [(CL_CTRL_EN, 1), (CL_UPD_KEY_KEY 0, 1)]) with tbl := { cache := [(0, ⟨[0, ent0, 0, 0], 3, 0, false⟩)] } }, by decide +kernel⟩,
  ⟨host, ⟨[0, 0, 0, 0], 3, 0, false⟩, 0, { (tblCtx [(CL_CTRL_EN, 1), (CL_UPD_KEY_KEY 0, 1)]) with tbl := { cache := [(0, ⟨[0, 0, 0, 0], 3, 0, false⟩)] } }, by decide +kernel⟩,
  ⟨⟨.tblUpdWrite, 7, 0, 0, 0, .okay, []⟩, [], ⟨[0, 0, 0, 0], 3, 1, false⟩, { op := 1, key := [], vd := 0, cmd := none, decided := true, writes := 1, status := 3 }, answer .tblUpdWrite 7 0 .okay [] { (wrs ready [(CL_UPD_STAT_BUSY, 1)]) with tbl := { cache := [(7, ⟨[0, 0, 0, 0], 3, 1, false⟩)], ops := [{ op := 1, key := [], vd := 0, cmd := none, decided := true, writes := 1, status := 3 }] } }, by decide +kernel⟩,
  ⟨⟨.tblUpdWrite, 7, 0, 0, 0, .declined, []⟩, [], ⟨[0, 0, 0, 0], 3, 1, false⟩, { op := 1, key := [], vd := 0, cmd := none }, [], answer .tblUpdWrite 7 0 .declined [] { (wrs ready [(CL_UPD_STAT_BUSY, 1)]) with tbl := { cache := [(7, ⟨[0, 0, 0, 0], 3, 1, false⟩)], ops := [{ op := 1, key := [], vd := 0, cmd := none }] } }, by decide +kernel⟩,
  ⟨7, ent0, [], withSd [(0x0B0, 1), (0x0C8, 512), (0x0CC, 0x010100)] { (wrs ready [(CL_CTRL_EN, 1)]) with tbl := { stash := [(7, ent0)] } }, by decide +kernel⟩⟩

theorem witness_MetersAndShapers :
    (∃ (w : Who) (s : State), s.serves w 0x081018 4 = true ∧ s.meterRefuse = false) ∧
    (∃ (w : Who) (s : State), s.serves w 0x081018 4 = true ∧ s.meterRefuse = true) ∧
    (∃ (w : Who) (s : State), let m := (s.meter (s.rd MT_SEL_METER)).refill (periodOf s.tm.cyc); s.serves w 0x081018 4 = true ∧
      m.audit = true) ∧
    (∃ (s : State), s.coreUp = true ∧ mapWf (fun _ => {}) s.shaps = true) ∧
    (∃ (w : Who) (i : ℕ) (s : State), s.serves w 0x0C0014 4 = true ∧ s.scSel = some i ∧ (s.shap i).locked = false ∧
      ((i < 32768 → s.mapRefuse i (s.shap i).sMap = none))) ∧
    (∃ (w : Who) (i : ℕ) (s : State), s.serves w 0x0C0014 4 = true ∧ s.scSel = some i ∧ (s.shap i).locked = true) ∧
    (∃ (w : Who) (i : ℕ) (s : State), s.serves w 0x0C0018 4 = true ∧ s.scSel = some i ∧ (s.shap i).locked = false) ∧
    (∃ (w : Who) (s : State) (c : Instr), s.serves w 0x0C0014 4 = true ∧ s.scSel = none ∧ c ∈ [Instr.scCommit w]) :=
  ⟨⟨host, wrs ready [(MT_SEL_METER, 5), (MT_MODE_ALG, 1), (MT_MODE_FILL, 1), (MT_CIR_CIR, 10), (MT_PIR_PIR, 10), (MT_CBS_CBS, 4), (MT_PBS_PBS, 4)], by decide +kernel⟩,
  ⟨host, wrs ready [(MT_MODE_ALG, 3)], by decide +kernel⟩,
  ⟨host, ready, by decide +kernel⟩,
  ⟨{ ready with shaps := [(3, { locked := true, sRate := 9 })], tm := { cyc := 5000 } }, by decide +kernel⟩,
  ⟨host, 5, wrs { ready with shaps := [(5, { sMap := 9 })] } [(SC_SEL_INDEX, 5), (SC_CH_STG_STG_KIB 9, 4)], by decide +kernel⟩,
  ⟨host, 32773, { (wrs ready [(SC_SEL_INDEX, 5), (SC_SEL_KIND, 1)]) with shaps := [(32773, { locked := true })] }, by decide +kernel⟩,
  ⟨host, 5, { (wrs ready [(SC_SEL_INDEX, 5)]) with shaps := [(5, { rate := 9, tok := -300 })] }, by decide +kernel⟩,
  ⟨host, wrs ready [(SC_SEL_INDEX, 4096), (SC_SEL_KIND, 1)], .scCommit host, by decide +kernel⟩⟩

theorem witness_DispatchAndLine :
    (∃ (c : Fin 32) (k : Fin 8) (x : ℕ) (n : ℕ) (id : ℕ) (fin : ℕ) (f : TxFr) (s : State), s.chanServes c = true ∧ s.pairOfChan c = none ∧
      s.protChan c = false ∧ s.islandRuns 5 = true ∧ s.pickNode c k = some (x, n, id, fin) ∧ n < 32768 ∧ s.txf id = some f ∧
      s.stagingFits c k f.len = true ∧ s.dispatchHeld c = false) ∧
    (∃ (c : Fin 32) (k : Fin 8) (s : State), s.pickNode c k = none) ∧
    (∃ (c : Fin 32) (id : ℕ) (f : TxFr) (s : State), s.portRuns (c / 8) = true ∧ s.coreUp = true ∧
      s.txs.find? (fun e => e.2.chan == c.val && e.2.stage == .dispatched && (s.stagedOf c e.2.cls).contains e.1) = some (id, f) ∧
      f.main = none ∧ s.gateNow c = none) ∧
    (∃ (c : Fin 32) (k : ℕ) (id : ℕ) (f : TxFr) (s : State), s.lineOpen c = true ∧ (s.ch c).ctlDue = false ∧ s.pairOfChan c = none ∧
      s.tMode (c / 8) = false ∧ s.gateNow c = none ∧ (s.ch c).guard = none ∧ (s.ch c).starved = false ∧
      [7, 6, 5, 4, 3, 2, 1, 0].find? (s.ready c) = some k ∧ s.stagedHead c k = some (id, f)) ∧
    (∃ (c : Fin 32) (s : State), s.lineOpen c = true ∧ (s.ch c).ctlDue = true ∧ s.is (MC_FC_CFG_TX_GEN c) = true ∧ s.fcMode c = 1 ∧
      s.sv.held.getLsbD (c / 8) = false ∧ s.gateNow c = none) ∧
    (∃ (c : Fin 32) (s : State), s.lineOpen c = false) ∧
    (∃ (c : Fin 32) (s : State), ((s.ch c).line = .idle ∨ s.portRuns (c / 8) = false)) ∧
    (∃ (c : Fin 32) (a : Bool) (e : ℕ) (s : State), (s.ch c).line = .control a e ∧ s.portRuns (c / 8) = true) ∧
    (∃ (c : Fin 32) (id : ℕ) (f : TxFr) (s : State), (s.ch c).line = .frame id ∧ s.txf id = some f ∧ f.main = none ∧ f.stage = .line ∧
      f.bad = false ∧ s.gateNow c = none ∧ s.portRuns (c / 8) = true ∧ s.coreUp = true ∧ s.protChan c = false) ∧
    (∃ (c : Fin 32) (id : ℕ) (f : TxFr) (s : State), (s.ch c).line = .frame id ∧ s.txf id = some f ∧ s.gateNow c = none ∧
      s.portRuns (c / 8) = true ∧ s.coreUp = false ∧ s.toCore (c / 8) < 32) :=
  ⟨⟨9, 0, 0, 2, 7, 15360, tx7, { (ctx0 (mac9 [])) with qs := [(2, { state := qRUN, owned := true, order := [7] })], txs := [(7, tx7)] }, by decide +kernel⟩,
  ⟨9, 0, mac9 [], by decide +kernel⟩,
  ⟨9, 7, { tx7 with stage := .dispatched }, { (mac9 []) with txs := [(7, { tx7 with stage := .dispatched })], chs := [(9, { staged := [(0, [7])] })] }, by decide +kernel⟩,
  ⟨9, 0, 7, { tx7 with stage := .staged, cells := 0 }, staged9 [], by decide +kernel⟩,
  ⟨9, { (staged9 [(MC_FC_CFG_TX_GEN 9, 1), (MC_FC_CFG_MODE 9, 1)]) with chs := [(9, { ctlDue := true, xoffMine := 3 })] }, by decide +kernel⟩,
  ⟨9, ready, by decide +kernel⟩,
  ⟨9, ready, by decide +kernel⟩,
  ⟨9, true, 3, { (mac9 []) with chs := [(9, { line := .control true 3 })] }, by decide +kernel⟩,
  ⟨9, 7, { tx7 with stage := .line, wire := List.replicate 64 0 }, { (mac9 []) with txs := [(7, { tx7 with stage := .line, wire := List.replicate 64 0 })], chs := [(9, { line := .frame 7 })] }, by decide +kernel⟩,
  ⟨9, 7, { tx7 with stage := .line, wire := List.replicate 64 0 }, { (mac9 []) with txs := [(7, { tx7 with stage := .line, wire := List.replicate 64 0 })], chs := [(9, { line := .frame 7 })], sys := { ready.sys with clkStopped := 32 } }, by decide +kernel⟩⟩

theorem witness_GuardWindowsAndGates :
    (∃ (c : Fin 32) (k : Fin 8) (a : ℕ) (s : State), (s.ch c).starveLive ≠ 0 ∧ s.ready c k = true ∧ s.gateNow c = none ∧
      optGet (s.ch c).unserved k = some a ∧ (s.ch c).guard = none ∧ s.pairOfChan c = none ∧ s.portRuns (c / 8) = true) ∧
    (∃ (c : Fin 32) (k : Fin 8) (s : State), ((s.ch c).starveLive = 0 ∨ optGet (s.ch c).unserved k = none)) ∧
    (∃ (c : Fin 32) (g : GuardSt) (a : Bool) (e : ℕ) (s : State), (s.ch c).guard = some g ∧ (s.ch c).line = .control a e ∧
      s.portRuns (c / 8) = true) ∧
    (∃ (w : Who) (c : Fin 32) (s : State),
      let len := s.rd (TG_LEN_LEN c); let cyc := s.rd (TG_CYCLE_CYCLE_NS c) * 2 ^ 32; let base := (s.rd (TG_BASE_S_LO_S_LO c) + 2 ^ 32 * s.rd (TG_BASE_S_HI_S_HI c)) * secUnits + s.rd (TG_BASE_NS_NS c) * 2 ^ 32; s.serves w (0x0C1114 + 32 * c) 4 = true ∧
      s.is (TG_COMMIT_LOCKED c) = false ∧ s.listInForce c (s.rd (TG_LEN_LIST c)) = false ∧ 1 ≤ len ∧ len ≤ 256 ∧ 0 < cyc ∧
      (s.gateTime c).toNat + twoUs ≤ base) ∧
    (∃ (w : Who) (c : Fin 32) (s : State), s.serves w (0x0C1114 + 32 * c) 4 = true ∧ s.is (TG_COMMIT_LOCKED c) = true) ∧
    (∃ (c : Fin 32) (w : TakeSt) (s : State), (s.ch c).take = some w ∧ s.portRuns (c / 8) = true ∧ s.coreUp = true ∧ s.sleepLoad = false) ∧
    (∃ (c : Fin 32) (g : GateList) (s : State), s.gateNow c = some g ∧ g.empty = false ∧ s.coreUp = true ∧ s.portRuns (c / 8) = true ∧
      s.sleepLoad = false) :=
  ⟨⟨9, 0, 50, { (staged9 []) with chs := [(9, { staged := [(0, [7])], starveLive := 10, unserved := [(0, 50)] })] }, by decide +kernel⟩,
  ⟨9, 0, ready, by decide +kernel⟩,
  ⟨9, ⟨500, 0, false, [0, 0, 0, 0, 0, 0, 0, 0]⟩, true, 3, { (mac9 []) with chs := [(9, { line := .control true 3, guard := some ⟨500, 0, false, [0, 0, 0, 0, 0, 0, 0, 0]⟩ })] }, by decide +kernel⟩,
  ⟨host, 9, mac9 [(TG_LEN_LEN 9, 2), (TG_LEN_LIST 9, 1), (TG_CYCLE_CYCLE_NS 9, 1000), (TG_BASE_NS_NS 9, 2000)], by decide +kernel⟩,
  ⟨host, 9, mac9 [(TG_COMMIT_LOCKED 9, 1)], by decide +kernel⟩,
  ⟨9, ⟨2 ^ 45, 2 ^ 45, 2 ^ 42, 2, 1⟩, { (mac9 [(TG_COMMIT_LOCKED 9, 1)]) with chs := [(9, { take := some ⟨2 ^ 45, 2 ^ 45, 2 ^ 42, 2, 1⟩ })] }, by decide +kernel⟩,
  ⟨9, ⟨0, 0, 2 ^ 42, 1⟩, { (mac9 [(TG_CTRL_EN 9, 1)]) with chs := [(9, { gCycle := 2 ^ 42, gLen := 1 })] }, by decide +kernel⟩⟩

theorem witness_ReceiveFramesToBuffers :
    (∃ (c : Fin 32) (id : ℕ) (f : RxFr) (s : State), s.rxs.find? (fun e => e.2.chan == c.val && e.2.stage == .slice) = some (id, f) ∧
      f.verdict.isSome = true ∧ s.islandRuns f.via = true ∧ s.sys.sliceOut.getLsbD f.via = false ∧ s.toCore (c / 8) < 32) ∧
    (∃ (c : Fin 32) (id : ℕ) (f : RxFr) (s : State), s.rxs.find? (fun e => e.2.chan == c.val && e.2.stage == .slice) = some (id, f) ∧
      (f.verdict = none ∨ s.islandRuns f.via = false ∨ s.sys.sliceOut.getLsbD f.via = true ∨ 32 ≤ s.toCore (c / 8))) ∧
    (∃ (c : Fin 32) (id : ℕ) (f : RxFr) (v : Verdict) (x : CellSt) (s : State), s.islandRuns 5 = true ∧ s.pairOfChan c = none ∧
      s.rxs.find? (fun e => e.2.chan == c.val && e.2.stage == .released) = some (id, f) ∧ f.verdict = some v ∧ v.men = false ∧
      f.dropRec = false ∧ f.flags = 0 ∧ f.control = false ∧ v.reason = 0 ∧ v.action = 0 ∧ (s.ctx v.ctx).state = cACTIVE ∧
      s.fbPlace (8 * (c / 8) + v.cls) (cellsOf f.len) = some x) ∧
    (∃ (c : Fin 32) (id : ℕ) (f : RxFr) (s : State), s.islandRuns 5 = true ∧ s.pairOfChan c = none ∧
      s.rxs.find? (fun e => e.2.chan == c.val && e.2.stage == .released) = some (id, f) ∧ f.dropRec = true) ∧
    (∃ (id : ℕ) (f : RxFr) (k : ℕ) (n : ℕ) (s : State), let w := rxWrites ((s.q k).bufs.take n) f.data; s.coreUp = true ∧
      s.stage8List.find? (fun e => !(e.2.1.stage == .waiting && e.2.2 == .wait)) = some (id, f, .take k n) ∧ w ≠ []) ∧
    (∃ (id : ℕ) (f : RxFr) (s : State), s.coreUp = true ∧
      s.stage8List.find? (fun e => !(e.2.1.stage == .waiting && e.2.2 == .wait)) = some (id, f, .wait)) ∧
    (∃ (id : ℕ) (f : RxFr) (k : Option ℕ) (s : State), s.coreUp = true ∧
      s.stage8List.find? (fun e => !(e.2.1.stage == .waiting && e.2.2 == .wait)) = some (id, f, .drop k)) ∧
    (∃ (d : Deliv) (u : State) (f : RxFr) (s : State), s.response .rxData = some (d, u) ∧ s.rxf d.a = some f ∧ 2 ≤ f.left) ∧
    (∃ (d : Deliv) (u : State) (f : RxFr) (s : State), s.response .rxData = some (d, u) ∧ s.rxf d.a = some f ∧ f.left = 1) :=
  ⟨⟨9, 4, { rx0 9 with verdict := some {}, via := 1 }, { (mac9 []) with rxs := [(4, { rx0 9 with verdict := some {}, via := 1 })] }, by decide +kernel⟩,
  ⟨9, 4, rx0 9, { (mac9 []) with rxs := [(4, rx0 9)] }, by decide +kernel⟩,
  ⟨9, 4, { rx0 9 with verdict := some {}, stage := .released }, {}, ⟨1, 0, 0⟩, { (ctx0 (mac9 [])) with rxs := [(4, { rx0 9 with verdict := some {}, stage := .released })] }, by decide +kernel⟩,
  ⟨9, 4, { rx0 9 with verdict := some {}, stage := .released, dropRec := true }, { (ctx0 (mac9 [])) with rxs := [(4, { rx0 9 with verdict := some {}, stage := .released, dropRec := true })] }, by decide +kernel⟩,
  ⟨4, { rx0 9 with verdict := some {}, stage := .admitted }, 32771, 1, { (ctx0 (mac9 [])) with rxs := [(4, { rx0 9 with verdict := some {}, stage := .admitted })], qs := [(32771, { state := qRUN, owned := true, ci := 1, bufs := [(0, 4096, 64), (1, 8192, 64)] })] }, by decide +kernel⟩,
  ⟨4, { rx0 9 with verdict := some {}, stage := .admitted }, { (ctx0 (mac9 [])) with rxs := [(4, { rx0 9 with verdict := some {}, stage := .admitted })], qs := [(32771, { state := qRUN, owned := true, pi := 3 })] }, by decide +kernel⟩,
  ⟨4, { rx0 9 with verdict := some {}, stage := .admitted }, some 32771, { (ctx0 (mac9 [])) with rxs := [(4, { rx0 9 with verdict := some {}, stage := .admitted })] }, by decide +kernel⟩,
  ⟨⟨.rxData, 4, 0, 0, 0, .okay, []⟩, quiet (answer .rxData 4 0 .okay [] { (mac9 []) with rxs := [(4, { rx0 9 with stage := .writing, left := 2 })] }), { rx0 9 with stage := .writing, left := 2 }, answer .rxData 4 0 .okay [] { (mac9 []) with rxs := [(4, { rx0 9 with stage := .writing, left := 2 })] }, by decide +kernel⟩,
  ⟨⟨.rxData, 4, 0, 0, 0, .declined, []⟩, quiet (answer .rxData 4 0 .declined [] { (mac9 []) with rxs := [(4, { rx0 9 with stage := .writing, left := 1 })] }), { rx0 9 with stage := .writing, left := 1 }, answer .rxData 4 0 .declined [] { (mac9 []) with rxs := [(4, { rx0 9 with stage := .writing, left := 1 })] }, by decide +kernel⟩⟩

theorem witness_DoorbellsQueueEndsAndNotifies :
    (∃ (w : Who) (x : Fin 4096) (wide : Bool) (v : BitVec 64) (k : ℕ) (s : State), s.servesDoorbell w (4096 * x) 4 = true ∧
      s.dbReason x (dbValue wide v) = 0 ∧ s.poolQ x (bits (dbValue wide v) 16 6) (bitN (dbValue wide v) 22 == 1) = some k) ∧
    (∃ (w : Who) (x : Fin 4096) (wide : Bool) (v : BitVec 64) (s : State), s.servesDoorbell w (4096 * x) 4 = true ∧
      s.dbReason x (dbValue wide v) ≠ 0) ∧
    (∃ (w : Who) (x : Fin 4096) (s : State), s.servesDoorbell w (4096 * x) 4 = false) ∧
    (∃ (w : Who) (x : Fin 4096) (wide : Bool) (v : BitVec 64) (e : EvRing) (s : State), s.servesDoorbell w (4096 * x + 8) 4 = true ∧
      s.evcReason x (dbValue wide v) = 0 ∧ (s.ctx x).evr = some e) ∧
    (∃ (w : Who) (x : Fin 4096) (wide : Bool) (v : BitVec 64) (s : State), s.servesDoorbell w (4096 * x + 8) 4 = true ∧
      s.evcReason x (dbValue wide v) ≠ 0) ∧
    (∃ (n : Fin 32768) (rx : Bool) (s : State), let k := n.val + 32768 * b2n rx; s.coreUp = true ∧ (s.q k).state = qSTOPPING ∧
      s.queueBusy k = false) ∧
    (∃ (n : Fin 32768) (rx : Bool) (s : State), (s.q (n.val + 32768 * b2n rx)).state ≠ qSTOPPING) ∧
    (∃ (x : Fin 4096) (v : Fin 64) (a : ℕ) (r : List ℕ) (s : State), (s.vec x v).un = a :: r ∧ (s.vec x v).modUs ≠ 0 ∧
      (s.vec x v).mask = false ∧ s.msgHeld x = false ∧ (s.vec x v).msg = false ∧ s.coreUp = true) ∧
    (∃ (d : Deliv) (u : State) (s : State), s.response .notify = some (d, u)) :=
  ⟨⟨host, 0, false, 5, 2, ctx0 ready, by decide +kernel⟩,
  ⟨host, 4095, true, 0x800000, ctx0 ready, by decide +kernel⟩,
  ⟨host, 0, wrs ready [(SYS_STATE_STATE, 1)], by decide +kernel⟩,
  ⟨host, 0, false, 5, ⟨4096, 6, 9, 0, 0, false⟩, { ready with ctxs := [(0, { state := cACTIVE, evr := some ⟨4096, 6, 9, 0, 0, false⟩ })] }, by decide +kernel⟩,
  ⟨host, 0, false, 10, { ready with ctxs := [(0, { state := cACTIVE, evr := some ⟨4096, 6, 9, 0, 0, false⟩ })] }, by decide +kernel⟩,
  ⟨3, true, { ready with qs := [(32771, { state := qSTOPPING, owned := true, bufs := [(0, 0, 64)], ci := 4 })] }, by decide +kernel⟩,
  ⟨3, true, ctx0 ready, by decide +kernel⟩,
  ⟨0, 63, 700, [800], { ready with ctxs := [(0, { state := cACTIVE, vecs := [(63, { modUs := 4, un := [700, 800] })] })] }, by decide +kernel⟩,
  ⟨⟨.notify, 0, 0, 0, 0, .declined, []⟩, quiet (answer .notify 0 0 .declined [] ready), answer .notify 0 0 .declined [] ready, by decide +kernel⟩⟩

theorem witness_FetchesAndCompletions :
    (∃ (k : ℕ) (s : State), s.islandRuns 5 = true ∧ s.fetchTurn = some k) ∧
    (∃ (d : Deliv) (r : List Deliv) (s : State), s.coreUp = true ∧ takeFirst s.descReady s.fab.done = some (d, r) ∧ d.a < 32768 ∧
      (s.q d.a).poison = false ∧ d.resp = .okay) ∧
    (∃ (d : Deliv) (r : List Deliv) (s : State), s.coreUp = true ∧ takeFirst s.descReady s.fab.done = some (d, r) ∧ d.a < 65536 ∧
      (s.q d.a).poison = false ∧ d.resp ≠ .okay ∧ (s.q d.a).state = qRUN) ∧
    (∃ (id : ℕ) (f : TxFr) (s : State), s.islandRuns 5 = true ∧
      s.fetchPick [] ((s.txs.filter (fun e => e.2.stage == .accepted)).mergeSort (fun a b => a.2.order ≤ b.2.order)) = some (id, f)) ∧
    (∃ (d : Deliv) (u : State) (f : TxFr) (s : State), s.response .dataFetch = some (d, u) ∧ s.txf d.a = some f ∧ f.stage = .fetching ∧
      f.left = 1 ∧ f.bad = false ∧ d.resp = .okay) ∧
    (∃ (d : Deliv) (u : State) (f : TxFr) (s : State), s.response .dataFetch = some (d, u) ∧ s.txf d.a = some f ∧ f.stage = .fetching ∧
      2 ≤ f.left) ∧
    (∃ (n : Fin 32768) (id : ℕ) (r : List ℕ) (f : RxFr) (s : State), let k := 32768 + n.val; s.coreUp = true ∧ (s.q k).order = id :: r ∧
      s.rxf id = some f ∧ f.stage = .complete) ∧
    (∃ (n : Fin 32768) (id : ℕ) (r : List ℕ) (f : TxFr) (s : State), s.coreUp = true ∧ (s.q n).order = id :: r ∧ s.txf id = some f ∧
      f.stage = .ended ∧ f.need = true) ∧
    (∃ (d : Deliv) (r : List Deliv) (f : RxFr) (s : State), s.coreUp = true ∧
      takeFirst (fun d => d.kind == .rxCmpl || d.kind == .txCmpl || d.kind == .event) s.fab.done = some (d, r) ∧ d.kind = .rxCmpl ∧
      d.resp = .okay ∧ s.rxf d.a = some f) ∧
    (∃ (d : Deliv) (r : List Deliv) (s : State), s.coreUp = true ∧
      takeFirst (fun d => d.kind == .rxCmpl || d.kind == .txCmpl || d.kind == .event) s.fab.done = some (d, r) ∧ d.kind = .txCmpl ∧
      d.resp = .okay) ∧
    (∃ (d : Deliv) (r : List Deliv) (s : State), s.coreUp = true ∧
      takeFirst (fun d => d.kind == .rxCmpl || d.kind == .txCmpl || d.kind == .event) s.fab.done = some (d, r) ∧ d.kind = .txCmpl ∧
      d.resp ≠ .okay ∧ (s.q d.a).state = qRUN) :=
  ⟨⟨2, { (ctx0 ready) with qs := [(2, { state := qRUN, owned := true, pi := 3, prefetch := 4 })] }, by decide +kernel⟩,
  ⟨⟨.descRead, 2, 0x10000, 0, 0, .okay, List.replicate 32 0⟩, [], answer .descRead 2 0x10000 .okay (List.replicate 32 0) { (ctx0 ready) with qs := [(2, { state := qRUN, owned := true, pi := 3, fp := 1, reading := 1 })] }, by decide +kernel⟩,
  ⟨⟨.descRead, 2, 0x10000, 0, 0, .declined, []⟩, [], answer .descRead 2 0x10000 .declined [] { (ctx0 ready) with qs := [(2, { state := qRUN, owned := true, pi := 3, fp := 1, reading := 1 })] }, by decide +kernel⟩,
  ⟨7, { tx7 with stage := .accepted, desc := leBytes 8 4000 ++ leBytes 2 60 ++ List.replicate 22 0 }, { (ctx0 ready) with txs := [(7, { tx7 with stage := .accepted, desc := leBytes 8 4000 ++ leBytes 2 60 ++ List.replicate 22 0 })] }, by decide +kernel⟩,
  ⟨⟨.dataFetch, 7, 0, 0, 0, .okay, List.replicate 60 0⟩, quiet (answer .dataFetch 7 0 .okay (List.replicate 60 0) { (ctx0 ready) with txs := [(7, { tx7 with stage := .fetching, left := 1 })] }), { tx7 with stage := .fetching, left := 1 }, answer .dataFetch 7 0 .okay (List.replicate 60 0) { (ctx0 ready) with txs := [(7, { tx7 with stage := .fetching, left := 1 })] }, by decide +kernel⟩,
  ⟨⟨.dataFetch, 7, 0, 0, 0, .poison, [1]⟩, quiet (answer .dataFetch 7 0 .poison [1] { (ctx0 ready) with txs := [(7, { tx7 with stage := .fetching, left := 2 })] }), { tx7 with stage := .fetching, left := 2 }, answer .dataFetch 7 0 .poison [1] { (ctx0 ready) with txs := [(7, { tx7 with stage := .fetching, left := 2 })] }, by decide +kernel⟩,
  ⟨3, 4, [], { rx0 9 with stage := .complete, verdict := some {} }, { (ctx0 ready) with rxs := [(4, { rx0 9 with stage := .complete, verdict := some {} })], qs := [(32771, { state := qRUN, owned := true, order := [4] })] }, by decide +kernel⟩,
  ⟨2, 7, [], { tx7 with stage := .ended, need := true }, { (ctx0 ready) with txs := [(7, { tx7 with stage := .ended, need := true })], qs := [(2, { state := qRUN, owned := true, order := [7] })] }, by decide +kernel⟩,
  ⟨⟨.rxCmpl, 4, 0, 0, 0, .okay, []⟩, [], { rx0 9 with stage := .written, queue := 32771 }, answer .rxCmpl 4 0 .okay [] { (ctx0 ready) with rxs := [(4, { rx0 9 with stage := .written, queue := 32771 })], qs := [(32771, { state := qRUN, owned := true, cmplOut := 1 })] }, by decide +kernel⟩,
  ⟨⟨.txCmpl, 2, 0, 0, 0, .okay, []⟩, [], answer .txCmpl 2 0 .okay [] { (ctx0 ready) with qs := [(2, { state := qRUN, owned := true, cmplOut := 1 })] }, by decide +kernel⟩,
  ⟨⟨.txCmpl, 2, 0, 0, 0, .timeout, []⟩, [], answer .txCmpl 2 0 .timeout [] { (ctx0 ready) with qs := [(2, { state := qRUN, owned := true, cmplOut := 1 })] }, by decide +kernel⟩⟩

theorem witness_CommandRing :
    (∃ (w : Who) (v : Word) (s : State), s.serves w 0x100010 4 = true ∧ s.is HR_CMD_CFG_EN = false ∧ v.getLsbD 0 = true) ∧
    (∃ (w : Who) (v : Word) (s : State), s.serves w 0x100010 4 = true ∧ v.getLsbD 0 = false) ∧
    (∃ (w : Who) (s : State), s.serves w 0x100014 4 = true) ∧
    (∃ (d : Deliv) (u : State) (s : State), s.response .cmdRead = some (d, u) ∧ d.a = 0 ∧ d.resp = .okay ∧
      knownOps.contains (byteAt d.data 0) = true) ∧
    (∃ (d : Deliv) (u : State) (s : State), s.response .cmdRead = some (d, u) ∧ d.a = 0 ∧ d.resp ≠ .okay) ∧
    (∃ (d : Deliv) (u : State) (s : State), s.response .cmdRead = some (d, u) ∧ d.a = 0 ∧ d.resp = .okay ∧
      knownOps.contains (byteAt d.data 0) = false ∧ s.cmdMayStart d.data = true ∧ s.is HR_CMD_CFG_EN = true) ∧
    (∃ (d : Deliv) (u : State) (s : State), s.response .cmdCmpl = some (d, u)) ∧
    (∃ (e : List Byte) (s : State) (p : Instr × ℕ × List (ℕ × ℕ × ℕ)), s.ring.heads = [e] ∧ s.cmdMayStart e = true ∧ s.islandRuns 5 = true ∧
      s.is HR_CMD_CFG_EN = true ∧
      p ∈ [(Instr.cmdNop, 0, []), (.ctxCreate, 1, [(8, 0, 7), (9, 0, 7)]), (.ctxDestroy, 2, []), (.ctxReset, 3, [(8, 0, 1)]), (.ctxFreeze, 4, []),
      (.ctxSave, 5, [(8, 0, 64)]), (.ctxRestore, 6, [(8, 0, 64)]), (.ctxResume, 7, []),
      (.dirtyStart, 8, [(8, 0, 64), (0x10, 0, 64), (0x18, 0, 32)]), (.dirtyStop, 9, []), (.txqSetup, 0x10, setupMask), (.rxqSetup, 0x11, setupMask),
      (.qStop, 0x12, [(8, 0, 6), (8, 6, 1)]), (.qRestart, 0x13, [(8, 0, 6), (8, 6, 1)]), (.qTeardown, 0x14, [(8, 0, 6), (8, 6, 1)]),
      (.evqSetup, 0x15, [(9, 0, 4), (10, 0, 6), (10, 6, 1), (0x10, 0, 64)]), (.evqTeardown, 0x16, []),
      (.vecSet, 0x17, [(8, 0, 6), (8, 6, 1), (9, 0, 8), (10, 0, 16), (12, 0, 32), (0x10, 0, 64)]),
      (.epInsert, 0x20, [(8, 0, 320), (0x30, 0, 28)]), (.epDelete, 0x21, [(8, 0, 320)]), (.epModify, 0x22, [(8, 0, 320), (0x30, 0, 28)]),
      (.epQuery, 0x23, [(8, 0, 320)]),
      (.shaperSet, 0x30, [(8, 0, 15), (10, 0, 1), (12, 0, 32), (0x10, 0, 24), (0x14, 0, 9), (0x18, 0, 14)])] ∧
      byteAt e 0 = p.2.1 ∧ (p.1 = .cmdNop ∨ (cmdOf e).formOk p.2.2 = false)) ∧
    (∃ (s : State) (c : Instr), s.ring.heads = [] ∧
      c ∈ [Instr.cmdNop, .ctxCreate, .ctxDestroy, .ctxReset, .ctxFreeze, .ctxSave, .ctxRestore, .ctxResume, .dirtyStart,
    .dirtyStop, .txqSetup, .rxqSetup, .qStop, .qRestart, .qTeardown, .evqSetup, .evqTeardown, .vecSet, .epInsert, .epDelete, .epModify, .epQuery,
    .shaperSet]) :=
  ⟨⟨host, 0x601, ready, by decide +kernel⟩,
  ⟨host, 0, wrs ready [(HR_CMD_CFG_EN, 1), (HR_CMD_STAT_HALTED, 1)], by decide +kernel⟩,
  ⟨host, wrs ready [(HR_CMD_CFG_EN, 1)], by decide +kernel⟩,
  ⟨⟨.cmdRead, 0, 0, 0, 0, .okay, List.replicate 64 0⟩, quiet (answer .cmdRead 0 0 .okay (List.replicate 64 0) { (wrs ready [(HR_CMD_CFG_EN, 1)]) with ring := { reading := true } }), answer .cmdRead 0 0 .okay (List.replicate 64 0) { (wrs ready [(HR_CMD_CFG_EN, 1)]) with ring := { reading := true } }, by decide +kernel⟩,
  ⟨⟨.cmdRead, 0, 0, 0, 0, .poison, []⟩, quiet (answer .cmdRead 0 0 .poison [] { (wrs ready [(HR_CMD_CFG_EN, 1)]) with ring := { reading := true } }), answer .cmdRead 0 0 .poison [] { (wrs ready [(HR_CMD_CFG_EN, 1)]) with ring := { reading := true } }, by decide +kernel⟩,
  ⟨⟨.cmdRead, 0, 0, 0, 0, .okay, 0xFF :: List.replicate 63 0⟩, quiet (answer .cmdRead 0 0 .okay (0xFF :: List.replicate 63 0) { (wrs ready [(HR_CMD_CFG_EN, 1)]) with ring := { reading := true } }), answer .cmdRead 0 0 .okay (0xFF :: List.replicate 63 0) { (wrs ready [(HR_CMD_CFG_EN, 1)]) with ring := { reading := true } }, by decide +kernel⟩,
  ⟨⟨.cmdCmpl, 0, 0, 0, 0, .timeout, []⟩, quiet (answer .cmdCmpl 0 0 .timeout [] ready), answer .cmdCmpl 0 0 .timeout [] ready, by decide +kernel⟩,
  ⟨cmdE 0 0 [], cmdS (cmdE 0 0 []) ready, (.cmdNop, 0, []), by decide +kernel⟩,
  ⟨ready, .ctxSave, by decide +kernel⟩⟩

theorem witness_ContextCommands :
    (∃ (e : List Byte) (s : State) (a : List ℕ × List ℕ), let c := cmdOf e; let x := c.ctx; s.ring.heads = [e] ∧ s.cmdMayStart e = true ∧
      s.islandRuns 5 = true ∧ s.is HR_CMD_CFG_EN = true ∧ s.shaps.all (fun y => y.2.cmd.isNone) = true ∧ byteAt e 0 = 1 ∧
      c.formOk [(8, 0, 7), (9, 0, 7)] = true ∧ c.f 8 0 7 ≤ 64 ∧ c.f 9 0 7 ≤ 64 ∧ (s.ctx x).state = cFREE ∧ (s.ctx x).closing = none ∧
      (∀ d ∈ s.ring.active, d.2.op ≠ 6) ∧ s.allocQueues (c.f 8 0 7) (c.f 9 0 7) = some a) ∧
    (∃ (e : List Byte) (s : State), let c := cmdOf e; let x := c.ctx; s.ring.heads = [e] ∧ s.cmdMayStart e = true ∧ s.islandRuns 5 = true ∧
      s.is HR_CMD_CFG_EN = true ∧ s.shaps.all (fun y => y.2.cmd.isNone) = true ∧ byteAt e 0 = 1 ∧ c.formOk [(8, 0, 7), (9, 0, 7)] = true ∧
      c.f 8 0 7 ≤ 64 ∧ c.f 9 0 7 ≤ 64 ∧ (s.ctx x).state = cFREE ∧ (s.ctx x).closing = none ∧ (∀ d ∈ s.ring.active, d.2.op ≠ 6) ∧
      s.allocQueues (c.f 8 0 7) (c.f 9 0 7) = none) ∧
    (∃ (e : List Byte) (s : State), let c := cmdOf e; let x := c.ctx; s.ring.heads = [e] ∧ s.cmdMayStart e = true ∧ s.islandRuns 5 = true ∧
      s.is HR_CMD_CFG_EN = true ∧ s.shaps.all (fun y => y.2.cmd.isNone) = true ∧ byteAt e 0 = 1 ∧ c.formOk [(8, 0, 7), (9, 0, 7)] = true ∧
      c.f 8 0 7 ≤ 64 ∧ c.f 9 0 7 ≤ 64 ∧ ((s.ctx x).state ≠ cFREE ∨ (s.ctx x).closing.isSome = true)) ∧
    (∃ (e : List Byte) (s : State),
      let c := cmdOf e; let x := c.ctx; let ok : Bool := (s.ctx x).state == cACTIVE && (s.ctx x).evr.isNone && (s.ctxQueues x).all (fun k => (s.q k).state == qUNSET); s.ring.heads = [e] ∧
      s.cmdMayStart e = true ∧ s.islandRuns 5 = true ∧ s.is HR_CMD_CFG_EN = true ∧ s.shaps.all (fun y => y.2.cmd.isNone) = true ∧
      byteAt e 0 = 2 ∧ c.formOk [] = true ∧ x ≠ 0 ∧ ok = false) ∧
    (∃ (e : List Byte) (s : State),
      let c := cmdOf e; let x := c.ctx; let ok : Bool := (s.ctx x).state == cACTIVE && (s.ctx x).evr.isNone && (s.ctxQueues x).all (fun k => (s.q k).state == qUNSET); s.ring.heads = [e] ∧
      s.cmdMayStart e = true ∧ s.islandRuns 5 = true ∧ s.is HR_CMD_CFG_EN = true ∧ s.shaps.all (fun y => y.2.cmd.isNone) = true ∧
      byteAt e 0 = 2 ∧ c.formOk [] = true ∧ x ≠ 0 ∧ ok = true ∧ 64 ≤ s.slotsTaken) ∧
    (∃ (e : List Byte) (s : State),
      let c := cmdOf e; let x := c.ctx; let ok : Bool := (s.ctx x).state == cACTIVE && (s.ctx x).evr.isNone && (s.ctxQueues x).all (fun k => (s.q k).state == qUNSET); s.ring.heads = [e] ∧
      s.cmdMayStart e = true ∧ s.islandRuns 5 = true ∧ s.is HR_CMD_CFG_EN = true ∧ s.shaps.all (fun y => y.2.cmd.isNone) = true ∧
      byteAt e 0 = 2 ∧ c.formOk [] = true ∧ x ≠ 0 ∧ ok = true ∧ s.slotsTaken < 64 ∧ s.inFlight x = false ∧
      s.awaitsFor .dirtyMark x = false ∧ (s.ctx x).dirty.bind (·.stopCmd) = none) ∧
    (∃ (e : List Byte) (s : State) (d : DirtySt),
      let c := cmdOf e; let x := c.ctx; let ok : Bool := (s.ctx x).state == cACTIVE && (s.ctx x).evr.isNone && (s.ctxQueues x).all (fun k => (s.q k).state == qUNSET); s.ring.heads = [e] ∧
      s.cmdMayStart e = true ∧ s.islandRuns 5 = true ∧ s.is HR_CMD_CFG_EN = true ∧ s.shaps.all (fun y => y.2.cmd.isNone) = true ∧
      byteAt e 0 = 2 ∧ c.formOk [] = true ∧ x ≠ 0 ∧ ok = true ∧ s.slotsTaken < 64 ∧ (s.ctx x).dirty = some d ∧
      s.awaitsFor .dirtyMark x = true) ∧
    (∃ (e : List Byte) (s : State),
      let c := cmdOf e; let x := c.ctx; let ok : Bool := (s.ctx x).state == cACTIVE && (s.ctx x).evr.isNone && (s.ctxQueues x).all (fun k => (s.q k).state == qUNSET); s.ring.heads = [e] ∧
      s.cmdMayStart e = true ∧ s.islandRuns 5 = true ∧ s.is HR_CMD_CFG_EN = true ∧ s.shaps.all (fun y => y.2.cmd.isNone) = true ∧
      byteAt e 0 = 2 ∧ c.formOk [] = true ∧ x ≠ 0 ∧ ok = true ∧ s.slotsTaken < 64 ∧ s.inFlight x = true ∧ s.awaitsFor .dirtyMark x = false ∧
      (s.ctx x).dirty.bind (·.stopCmd) = none) ∧
    (∃ (e : List Byte) (s : State), let c := cmdOf e; let x := c.ctx; s.ring.heads = [e] ∧ s.cmdMayStart e = true ∧ s.islandRuns 5 = true ∧
      s.is HR_CMD_CFG_EN = true ∧ s.shaps.all (fun y => y.2.cmd.isNone) = true ∧ byteAt e 0 = 3 ∧ c.formOk [(8, 0, 1)] = true ∧
      ((s.ctx x).state = cACTIVE ∨ (s.ctx x).state = cFROZEN)) ∧
    (∃ (e : List Byte) (s : State), let c := cmdOf e; let x := c.ctx; s.ring.heads = [e] ∧ s.cmdMayStart e = true ∧ s.islandRuns 5 = true ∧
      s.is HR_CMD_CFG_EN = true ∧ s.shaps.all (fun y => y.2.cmd.isNone) = true ∧ byteAt e 0 = 3 ∧ c.formOk [(8, 0, 1)] = true ∧
      (s.ctx x).state ≠ cACTIVE ∧ (s.ctx x).state ≠ cFROZEN) ∧
    (∃ (e : List Byte) (s : State), let c := cmdOf e; let x := c.ctx; s.ring.heads = [e] ∧ s.cmdMayStart e = true ∧ s.islandRuns 5 = true ∧
      s.is HR_CMD_CFG_EN = true ∧ s.shaps.all (fun y => y.2.cmd.isNone) = true ∧ byteAt e 0 = 4 ∧ c.formOk [] = true ∧
      (s.ctx x).state = cACTIVE) ∧
    (∃ (e : List Byte) (s : State), let c := cmdOf e; let x := c.ctx; s.ring.heads = [e] ∧ s.cmdMayStart e = true ∧ s.islandRuns 5 = true ∧
      s.is HR_CMD_CFG_EN = true ∧ s.shaps.all (fun y => y.2.cmd.isNone) = true ∧ byteAt e 0 = 4 ∧ c.formOk [] = true ∧
      (s.ctx x).state ≠ cACTIVE) ∧
    (∃ (e : List Byte) (s : State), let c := cmdOf e; let x := c.ctx; s.ring.heads = [e] ∧ s.cmdMayStart e = true ∧ s.islandRuns 5 = true ∧
      s.is HR_CMD_CFG_EN = true ∧ s.shaps.all (fun y => y.2.cmd.isNone) = true ∧ byteAt e 0 = 7 ∧ c.formOk [] = true ∧
      (s.ctx x).state = cFROZEN) ∧
    (∃ (e : List Byte) (s : State), let c := cmdOf e; let x := c.ctx; s.ring.heads = [e] ∧ s.cmdMayStart e = true ∧ s.islandRuns 5 = true ∧
      s.is HR_CMD_CFG_EN = true ∧ s.shaps.all (fun y => y.2.cmd.isNone) = true ∧ byteAt e 0 = 7 ∧ c.formOk [] = true ∧
      (s.ctx x).state ≠ cFROZEN) :=
  ⟨⟨cmdE 1 0 [(8, 2), (9, 1)], cmdS (cmdE 1 0 [(8, 2), (9, 1)]) ready, ([0, 1], [0]), by decide +kernel⟩,
  ⟨cmdE 1 0 [(8, 2), (9, 1)], { (cmdS (cmdE 1 0 [(8, 2), (9, 1)]) ready) with qs := allOwned }, by simp only [← and_assoc]; exact ⟨by decide +kernel, allocQueues_allOwned rfl _ (by decide +kernel)⟩⟩,
  ⟨cmdE 1 0 [(8, 64), (9, 64)], ctx0 (cmdS (cmdE 1 0 [(8, 64), (9, 64)]) ready), by decide +kernel⟩,
  ⟨cmdE 2 5 [], cmdS (cmdE 2 5 []) ready, by decide +kernel⟩,
  ⟨cmdE 2 5 [], { (cmdS (cmdE 2 5 []) ready) with ctxs := [(5, { state := cACTIVE, txq := [2] })], led := { slots := List.replicate 64 ⟨0, 0, [], [], false, 0, false, false⟩ } }, by decide +kernel⟩,
  ⟨cmdE 2 5 [], { (cmdS (cmdE 2 5 []) ready) with ctxs := [(5, { state := cACTIVE, txq := [2] })], qs := [(2, { owned := true, ctx := 5 })] }, by decide +kernel⟩,
  ⟨cmdE 2 5 [], answer .dirtyMark 5 0 .okay [] { (cmdS (cmdE 2 5 []) ready) with ctxs := [(5, { state := cACTIVE, txq := [2], dirty := some { bitmap := 64, region := 4096, pages := 9 } })] }, { bitmap := 64, region := 4096, pages := 9 }, by decide +kernel⟩,
  ⟨cmdE 2 5 [], { (cmdS (cmdE 2 5 []) ready) with ctxs := [(5, { state := cACTIVE, txq := [2] })], led := { tags := [(9, ⟨5, true, 64, 0⟩)] } }, by decide +kernel⟩,
  ⟨cmdE 3 0 [(8, 1)], ctx0 (cmdS (cmdE 3 0 [(8, 1)]) ready), by decide +kernel⟩,
  ⟨cmdE 3 0 [(8, 1)], cmdS (cmdE 3 0 [(8, 1)]) ready, by decide +kernel⟩,
  ⟨cmdE 4 0 [], ctx0 (cmdS (cmdE 4 0 []) ready), by decide +kernel⟩,
  ⟨cmdE 4 0 [], cmdS (cmdE 4 0 []) ready, by decide +kernel⟩,
  ⟨cmdE 7 0 [], { (cmdS (cmdE 7 0 []) ready) with ctxs := [(0, { state := cFROZEN })] }, by decide +kernel⟩,
  ⟨cmdE 7 0 [], ctx0 (cmdS (cmdE 7 0 []) ready), by decide +kernel⟩⟩

theorem witness_ResetsAndFreezesEnd :
    (∃ (x : Fin 4096) (r : ResetSt) (id : ℕ) (c : CmdSt) (s : State), (s.ctx x).reset = some r ∧ (s.ctx x).state = cRESETTING ∧
      s.coreUp = true ∧ s.inFlight x = false ∧ s.ctxQuiet x = true ∧ r.cmd = some id ∧ optGet s.ring.active id = some c ∧
      s.is HR_CMD_CFG_EN = true) ∧
    (∃ (x : Fin 4096) (s : State), ((s.ctx x).reset = none ∨ s.inFlight x = true ∨ s.ctxQuiet x = false ∨ s.coreUp = false)) ∧
    (∃ (x : Fin 4096) (r : ResetSt) (s : State), (s.ctx x).reset = some r ∧ (s.ctx x).state = cRESETTING ∧ r.squash = false ∧
      s.coreUp = true) ∧
    (∃ (x : Fin 4096) (s : State), ((s.ctx x).reset = none ∨ s.coreUp = false)) ∧
    (∃ (x : Fin 4096) (n : ℕ) (id : ℕ) (c : CmdSt) (s : State), (s.ctx x).freeze = some (some id, n) ∧ (s.ctx x).state = cFREEZING ∧
      s.coreUp = true ∧ s.freezeBusy x = false ∧ s.ctxQuiet x = true ∧ optGet s.ring.active id = some c ∧ s.is HR_CMD_CFG_EN = true) ∧
    (∃ (x : Fin 4096) (s : State), ((s.ctx x).freeze = none ∨ s.freezeBusy x = true ∨ s.ctxQuiet x = false ∨ s.coreUp = false)) ∧
    (∃ (x : Fin 4096) (n : ℕ) (id : ℕ) (c : CmdSt) (s : State), (s.ctx x).freeze = some (some id, n) ∧ (s.ctx x).state = cFREEZING ∧
      optGet s.ring.active id = some c ∧ s.coreUp = true ∧ s.is HR_CMD_CFG_EN = true) ∧
    (∃ (x : Fin 4096) (s : State), ((s.ctx x).freeze = none ∨ s.coreUp = false)) ∧
    (∃ (w : Who) (s : State), s.serves w 0x101010 4 = true) :=
  ⟨⟨0, ⟨true, some 0, 9, 0, true⟩, 0, cmdOf (cmdE 3 0 []), { (running 3 ready) with ctxs := [(0, { state := cRESETTING, reset := some ⟨true, some 0, 9, 0, true⟩ })] }, by decide +kernel⟩,
  ⟨5, ready, by decide +kernel⟩,
  ⟨0, ⟨false, some 0, 9, 0, false⟩, { (running 3 (wrs ready [(CX_LIMITS_DRAIN_US, 4)])) with ctxs := [(0, { state := cRESETTING, reset := some ⟨false, some 0, 9, 0, false⟩ })] }, by decide +kernel⟩,
  ⟨5, ready, by decide +kernel⟩,
  ⟨0, 9, 0, cmdOf (cmdE 4 0 []), { (running 4 ready) with ctxs := [(0, { state := cFREEZING, freeze := some (some 0, 9) })] }, by decide +kernel⟩,
  ⟨5, ready, by decide +kernel⟩,
  ⟨0, 9, 0, cmdOf (cmdE 4 0 []), { (running 4 ready) with ctxs := [(0, { state := cFREEZING, freeze := some (some 0, 9) })] }, by decide +kernel⟩,
  ⟨5, ready, by decide +kernel⟩,
  ⟨host, wrs ready [(CX_SEL_CTX, 5)], by decide +kernel⟩⟩

theorem witness_ContextImages :
    (∃ (e : List Byte) (s : State), let c := cmdOf e; s.ring.heads = [e] ∧ s.cmdMayStart e = true ∧ s.islandRuns 5 = true ∧
      s.is HR_CMD_CFG_EN = true ∧ byteAt e 0 = 5 ∧ c.formOk [(8, 0, 64)] = true ∧ addrOk (c.f 8 0 64) 4096 = true ∧
      (s.ctx c.ctx).state = cFROZEN) ∧
    (∃ (e : List Byte) (s : State), let c := cmdOf e; s.ring.heads = [e] ∧ s.cmdMayStart e = true ∧ s.islandRuns 5 = true ∧
      s.is HR_CMD_CFG_EN = true ∧ byteAt e 0 = 5 ∧ c.formOk [(8, 0, 64)] = true ∧ addrOk (c.f 8 0 64) 4096 = true ∧
      (s.ctx c.ctx).state ≠ cFROZEN) ∧
    (∃ (d : Deliv) (u : State) (c : CmdSt) (s : State), s.response .imageWrite = some (d, u) ∧ optGet s.ring.active d.a = some c ∧
      s.is HR_CMD_CFG_EN = true) ∧
    (∃ (e : List Byte) (s : State), let c := cmdOf e; s.ring.heads = [e] ∧ s.cmdMayStart e = true ∧ s.islandRuns 5 = true ∧
      s.is HR_CMD_CFG_EN = true ∧ byteAt e 0 = 6 ∧ c.formOk [(8, 0, 64)] = true ∧ addrOk (c.f 8 0 64) 4096 = true ∧
      (s.ctx c.ctx).state = cFREE ∧ (s.ctx c.ctx).closing = none ∧ (∀ d ∈ s.ring.active, d.2.op ≠ 6)) ∧
    (∃ (e : List Byte) (s : State), let c := cmdOf e; s.ring.heads = [e] ∧ s.cmdMayStart e = true ∧ s.islandRuns 5 = true ∧
      s.is HR_CMD_CFG_EN = true ∧ byteAt e 0 = 6 ∧ c.formOk [(8, 0, 64)] = true ∧ addrOk (c.f 8 0 64) 4096 = true ∧
      (s.ctx c.ctx).state ≠ cFREE) ∧
    (∃ (d : Deliv) (u : State) (c : CmdSt) (f : ℕ × ℕ) (s : State), s.response .imageRead = some (d, u) ∧ d.resp = .okay ∧
      imageBad d.data = some f ∧ optGet s.ring.active d.a = some c ∧ s.is HR_CMD_CFG_EN = true) ∧
    (∃ (d : Deliv) (u : State) (c : CmdSt) (s : State), s.response .imageRead = some (d, u) ∧ d.resp ≠ .okay ∧
      optGet s.ring.active d.a = some c ∧ s.is HR_CMD_CFG_EN = true) ∧
    (∃ (d : Deliv) (u : State) (c : CmdSt) (s : State) (a : List ℕ × List ℕ),
      let n := leNat d.data 0x00C 4; s.response .imageRead = some (d, u) ∧ d.resp = .okay ∧ imageBad d.data = none ∧
      optGet s.ring.active d.a = some c ∧ s.is HR_CMD_CFG_EN = true ∧ s.shaps.all (fun y => y.2.cmd.isNone) = true ∧
      s.allocQueues (bits n 0 7) (bits n 8 7) = some a) ∧
    (∃ (d : Deliv) (u : State) (c : CmdSt) (s : State), let n := leNat d.data 0x00C 4; s.response .imageRead = some (d, u) ∧
      d.resp = .okay ∧ imageBad d.data = none ∧ optGet s.ring.active d.a = some c ∧ s.is HR_CMD_CFG_EN = true ∧
      s.shaps.all (fun y => y.2.cmd.isNone) = true ∧ s.allocQueues (bits n 0 7) (bits n 8 7) = none) :=
  ⟨⟨cmdE 5 0 [(9, 0x10)], { (cmdS (cmdE 5 0 [(9, 0x10)]) ready) with ctxs := [(0, { state := cFROZEN })] }, by decide +kernel⟩,
  ⟨cmdE 5 0 [(9, 0x10)], ctx0 (cmdS (cmdE 5 0 [(9, 0x10)]) ready), by decide +kernel⟩,
  ⟨⟨.imageWrite, 0, 0, 0, 0, .timeout, []⟩, quiet (answer .imageWrite 0 0 .timeout [] (running 5 ready)), cmdOf (cmdE 5 0 []), answer .imageWrite 0 0 .timeout [] (running 5 ready), by decide +kernel⟩,
  ⟨cmdE 6 0 [(9, 0x10)], cmdS (cmdE 6 0 [(9, 0x10)]) ready, by decide +kernel⟩,
  ⟨cmdE 6 0 [(9, 0x10)], ctx0 (cmdS (cmdE 6 0 [(9, 0x10)]) ready), by decide +kernel⟩,
  ⟨⟨.imageRead, 0, 5, 0, 0, .okay, [1]⟩, quiet (answer .imageRead 0 5 .okay [1] (running 6 ready)), cmdOf (cmdE 6 0 []), (2, 0), answer .imageRead 0 5 .okay [1] (running 6 ready), by decide +kernel⟩,
  ⟨⟨.imageRead, 0, 5, 0, 0, .declined, []⟩, quiet (answer .imageRead 0 5 .declined [] (running 6 ready)), cmdOf (cmdE 6 0 []), answer .imageRead 0 5 .declined [] (running 6 ready), by decide +kernel⟩,
  ⟨⟨.imageRead, 0, 5, 0, 0, .okay, imgGood⟩, quiet (answer .imageRead 0 5 .okay imgGood (running 6 ready)), cmdOf (cmdE 6 0 []), answer .imageRead 0 5 .okay imgGood (running 6 ready), ([0], [0]), rfl, by decide +kernel, imgGood_ok, by decide +kernel⟩,
  ⟨⟨.imageRead, 0, 5, 0, 0, .okay, imgGood⟩, quiet (answer .imageRead 0 5 .okay imgGood { (running 6 ready) with qs := allOwned }), cmdOf (cmdE 6 0 []), answer .imageRead 0 5 .okay imgGood { (running 6 ready) with qs := allOwned }, rfl, by decide +kernel, imgGood_ok, by decide +kernel, by decide +kernel, by decide +kernel, allocQueues_allOwned rfl _ (by decide +kernel)⟩⟩

theorem witness_DirtyPageLogging :
    (∃ (e : List Byte) (s : State), let c := cmdOf e; s.ring.heads = [e] ∧ s.cmdMayStart e = true ∧ s.islandRuns 5 = true ∧
      s.is HR_CMD_CFG_EN = true ∧ byteAt e 0 = 8 ∧ c.formOk [(8, 0, 64), (0x10, 0, 64), (0x18, 0, 32)] = true ∧
      addrOk (c.f 8 0 64) 64 = true ∧ addrOk (c.f 0x10 0 64) 4096 = true ∧ c.f 0x18 0 32 ≠ 0) ∧
    (∃ (e : List Byte) (s : State), let c := cmdOf e; let x := c.ctx; s.ring.heads = [e] ∧ s.cmdMayStart e = true ∧ s.islandRuns 5 = true ∧
      s.is HR_CMD_CFG_EN = true ∧ byteAt e 0 = 9 ∧ c.formOk [] = true ∧ (s.ctx x).dirty = none) ∧
    (∃ (e : List Byte) (s : State) (d : DirtySt), let c := cmdOf e; let x := c.ctx; s.ring.heads = [e] ∧ s.cmdMayStart e = true ∧
      s.islandRuns 5 = true ∧ s.is HR_CMD_CFG_EN = true ∧ byteAt e 0 = 9 ∧ c.formOk [] = true ∧ (s.ctx x).dirty = some d ∧
      d.stopping = false ∧ s.awaitsFor .dirtyMark x = false) ∧
    (∃ (e : List Byte) (s : State) (d : DirtySt), let c := cmdOf e; let x := c.ctx; s.ring.heads = [e] ∧ s.cmdMayStart e = true ∧
      s.islandRuns 5 = true ∧ s.is HR_CMD_CFG_EN = true ∧ byteAt e 0 = 9 ∧ c.formOk [] = true ∧ (s.ctx x).dirty = some d ∧
      d.stopping = false ∧ s.awaitsFor .dirtyMark x = true) ∧
    (∃ (r : Deliv) (u : State) (d : DirtySt) (s : State), s.response .dirtyMark = some (r, u) ∧ (s.ctx r.a).dirty = some d ∧
      r.resp = .okay ∧ d.stopping = false) ∧
    (∃ (r : Deliv) (u : State) (d : DirtySt) (s : State), s.response .dirtyMark = some (r, u) ∧ (s.ctx r.a).dirty = some d ∧
      r.resp ≠ .okay ∧ d.fault = false ∧ d.stopping = false) ∧
    (∃ (r : Deliv) (u : State) (d : DirtySt) (id : ℕ) (c : CmdSt) (s : State), s.response .dirtyMark = some (r, u) ∧
      (s.ctx r.a).dirty = some d ∧ r.resp = .okay ∧ d.stopping = true ∧ d.stopCmd = some id ∧ optGet s.ring.active id = some c ∧
      s.is HR_CMD_CFG_EN = true ∧ u.awaitsFor .dirtyMark r.a = false) :=
  ⟨⟨cmdE 8 0 [(8, 0x40), (0x11, 0x10), (0x18, 9)], ctx0 (cmdS (cmdE 8 0 [(8, 0x40), (0x11, 0x10), (0x18, 9)]) (wrs ready [(SYS_STATE_MODE, 1)])), by decide +kernel⟩,
  ⟨cmdE 9 0 [], ctx0 (cmdS (cmdE 9 0 []) ready), by decide +kernel⟩,
  ⟨cmdE 9 0 [], { (cmdS (cmdE 9 0 []) ready) with ctxs := [(0, { state := cACTIVE, dirty := some { bitmap := 64, region := 4096, pages := 9, fault := true } })] }, { bitmap := 64, region := 4096, pages := 9, fault := true }, by decide +kernel⟩,
  ⟨cmdE 9 0 [], answer .dirtyMark 0 0 .okay [] { (cmdS (cmdE 9 0 []) ready) with ctxs := [(0, { state := cACTIVE, dirty := some { bitmap := 64, region := 4096, pages := 9 } })] }, { bitmap := 64, region := 4096, pages := 9 }, by decide +kernel⟩,
  ⟨⟨.dirtyMark, 0, 0, 0, 0, .okay, []⟩, quiet (answer .dirtyMark 0 0 .okay [] { ready with ctxs := [(0, { state := cACTIVE, dirty := some { bitmap := 64, region := 4096, pages := 9 } })] }), { bitmap := 64, region := 4096, pages := 9 }, answer .dirtyMark 0 0 .okay [] { ready with ctxs := [(0, { state := cACTIVE, dirty := some { bitmap := 64, region := 4096, pages := 9 } })] }, by decide +kernel⟩,
  ⟨⟨.dirtyMark, 0, 0, 0, 0, .poison, []⟩, quiet (answer .dirtyMark 0 0 .poison [] { ready with ctxs := [(0, { state := cACTIVE, dirty := some { bitmap := 64, region := 4096, pages := 9 } })] }), { bitmap := 64, region := 4096, pages := 9 }, answer .dirtyMark 0 0 .poison [] { ready with ctxs := [(0, { state := cACTIVE, dirty := some { bitmap := 64, region := 4096, pages := 9 } })] }, by decide +kernel⟩,
  ⟨⟨.dirtyMark, 0, 0, 0, 0, .okay, []⟩, quiet (answer .dirtyMark 0 0 .okay [] { (running 9 ready) with ctxs := [(0, { state := cACTIVE, dirty := some { bitmap := 64, region := 4096, pages := 9, stopping := true, stopCmd := some 0 } })] }), { bitmap := 64, region := 4096, pages := 9, stopping := true, stopCmd := some 0 }, 0, cmdOf (cmdE 9 0 []), answer .dirtyMark 0 0 .okay [] { (running 9 ready) with ctxs := [(0, { state := cACTIVE, dirty := some { bitmap := 64, region := 4096, pages := 9, stopping := true, stopCmd := some 0 } })] }, by decide +kernel⟩⟩

theorem witness_QueueCommands :
    (∃ (e : List Byte) (s : State) (p : Instr × ℕ × Bool) (k : ℕ), let c := cmdOf e; let x := c.ctx; s.ring.heads = [e] ∧
      s.cmdMayStart e = true ∧ s.islandRuns 5 = true ∧ s.is HR_CMD_CFG_EN = true ∧
      p ∈ [(Instr.txqSetup, 0x10, false), (.rxqSetup, 0x11, true)] ∧ byteAt e 0 = p.2.1 ∧ c.formOk setupMask = true ∧
      setupForm p.2.2 c s = true ∧ s.poolQ x (c.f 8 0 6) p.2.2 = some k) ∧
    (∃ (e : List Byte) (s : State) (k : ℕ), let c := cmdOf e; s.ring.heads = [e] ∧ s.cmdMayStart e = true ∧ s.islandRuns 5 = true ∧
      s.is HR_CMD_CFG_EN = true ∧ c.formOk [(8, 0, 6), (8, 6, 1)] = true ∧ c.queue s = some k ∧ byteAt e 0 = 0x12) ∧
    (∃ (e : List Byte) (s : State) (k : ℕ), let c := cmdOf e; s.ring.heads = [e] ∧ s.cmdMayStart e = true ∧ s.islandRuns 5 = true ∧
      s.is HR_CMD_CFG_EN = true ∧ c.formOk [(8, 0, 6), (8, 6, 1)] = true ∧ c.queue s = some k ∧ byteAt e 0 = 0x13) ∧
    (∃ (e : List Byte) (s : State) (k : ℕ), let c := cmdOf e; s.ring.heads = [e] ∧ s.cmdMayStart e = true ∧ s.islandRuns 5 = true ∧
      s.is HR_CMD_CFG_EN = true ∧ c.formOk [(8, 0, 6), (8, 6, 1)] = true ∧ c.queue s = some k ∧ byteAt e 0 = 0x14) ∧
    (∃ (e : List Byte) (s : State), let c := cmdOf e; s.ring.heads = [e] ∧ s.cmdMayStart e = true ∧ s.islandRuns 5 = true ∧
      s.is HR_CMD_CFG_EN = true ∧ byteAt e 0 = 0x15 ∧ c.formOk [(9, 0, 4), (10, 0, 6), (10, 6, 1), (0x10, 0, 64)] = true ∧ 6 ≤ c.f 9 0 4 ∧
      addrOk (c.f 0x10 0 64) 64 = true) ∧
    (∃ (e : List Byte) (s : State), let c := cmdOf e; s.ring.heads = [e] ∧ s.cmdMayStart e = true ∧ s.islandRuns 5 = true ∧
      s.is HR_CMD_CFG_EN = true ∧ byteAt e 0 = 0x16 ∧ c.formOk [] = true) ∧
    (∃ (e : List Byte) (s : State), let c := cmdOf e; s.ring.heads = [e] ∧ s.cmdMayStart e = true ∧ s.islandRuns 5 = true ∧
      s.is HR_CMD_CFG_EN = true ∧ byteAt e 0 = 0x17 ∧
      c.formOk [(8, 0, 6), (8, 6, 1), (9, 0, 8), (10, 0, 16), (12, 0, 32), (0x10, 0, 64)] = true ∧ addrOk (c.f 0x10 0 64) 4 = true) :=
  ⟨⟨cmdE 0x11 0 [(9, 6), (11, 64)], { (ctx0 (cmdS (cmdE 0x11 0 [(9, 6), (11, 64)]) ready)) with qs := [(32771, { owned := true })] }, (.rxqSetup, 0x11, true), 32771, by decide +kernel⟩,
  ⟨cmdE 0x12 0 [(8, 0x40)], ctx0 (cmdS (cmdE 0x12 0 [(8, 0x40)]) ready), 32771, by decide +kernel⟩,
  ⟨cmdE 0x13 0 [], { (ctx0 (cmdS (cmdE 0x13 0 []) ready)) with qs := [(2, { state := qSTOPPED, owned := true, pi := 3 })] }, 2, by decide +kernel⟩,
  ⟨cmdE 0x14 0 [], { (ctx0 (cmdS (cmdE 0x14 0 []) ready)) with qs := [(2, { state := qSTOPPED, owned := true, pi := 3 })] }, 2, by decide +kernel⟩,
  ⟨cmdE 0x15 0 [(9, 6), (16, 0x40)], ctx0 (cmdS (cmdE 0x15 0 [(9, 6), (16, 0x40)]) ready), by decide +kernel⟩,
  ⟨cmdE 0x16 0 [], { (cmdS (cmdE 0x16 0 []) ready) with ctxs := [(0, { state := cACTIVE, evr := some ⟨4096, 6, 9, 0, 0, false⟩ })] }, by decide +kernel⟩,
  ⟨cmdE 0x17 0 [(8, 0x43), (9, 4), (16, 4)], { (cmdS (cmdE 0x17 0 [(8, 0x43), (9, 4), (16, 4)]) ready) with ctxs := [(0, { state := cACTIVE, vecs := [(3, { un := [5] })] })] }, by decide +kernel⟩⟩

theorem witness_EndpointAndShaperCommands :
    (∃ (e : List Byte) (s : State) (p : Instr × ℕ × List (ℕ × ℕ × ℕ)) (o : UpdOp) (r : List UpdOp), let c := cmdOf e; s.ring.heads = [e] ∧
      s.cmdMayStart e = true ∧ s.islandRuns 5 = true ∧ s.is HR_CMD_CFG_EN = true ∧
      p ∈ [(Instr.epInsert, 1, [(8, 0, 320), (0x30, 0, 28)]), (.epDelete, 2, [(8, 0, 320)]), (.epModify, 3, [(8, 0, 320), (0x30, 0, 28)]),
      (.epQuery, 4, [(8, 0, 320)])] ∧
      byteAt e 0 = 0x1F + p.2.1 ∧ c.formOk p.2.2 = true ∧ s.tbl.ops = o :: r ∧ o.decided = false ∧ o.reading.isSome = true) ∧
    (∃ (e : List Byte) (s : State) (p : Instr × ℕ × List (ℕ × ℕ × ℕ)), let c := cmdOf e; let key := (e.drop 8).take 40; s.ring.heads = [e] ∧
      s.cmdMayStart e = true ∧ s.islandRuns 5 = true ∧ s.is HR_CMD_CFG_EN = true ∧
      p ∈ [(Instr.epInsert, 1, [(8, 0, 320), (0x30, 0, 28)]), (.epDelete, 2, [(8, 0, 320)]), (.epModify, 3, [(8, 0, 320), (0x30, 0, 28)]),
      (.epQuery, 4, [(8, 0, 320)])] ∧
      byteAt e 0 = 0x1F + p.2.1 ∧ c.formOk p.2.2 = true ∧ s.tbl.ops = [] ∧ (byteAt key 0 = 0 ∨ 6 < byteAt key 0)) ∧
    (∃ (e : List Byte) (s : State) (p : Instr × ℕ × List (ℕ × ℕ × ℕ)),
      let c := cmdOf e; let key := (e.drop 8).take 40; let out := toeplitz (beNat key 0 40) s.hkey; let vd := if p.2.1 = 1 ∨ p.2.1 = 3 then c.ctx + 2 ^ 12 * c.f 0x30 0 28 else 0; s.ring.heads = [e] ∧
      s.cmdMayStart e = true ∧ s.islandRuns 5 = true ∧ s.is HR_CMD_CFG_EN = true ∧
      p ∈ [(Instr.epInsert, 1, [(8, 0, 320), (0x30, 0, 28)]), (.epDelete, 2, [(8, 0, 320)]), (.epModify, 3, [(8, 0, 320), (0x30, 0, 28)]),
      (.epQuery, 4, [(8, 0, 320)])] ∧
      byteAt e 0 = 0x1F + p.2.1 ∧ c.formOk p.2.2 = true ∧ s.tbl.ops = [] ∧ 1 ≤ byteAt key 0 ∧ byteAt key 0 ≤ 6 ∧ s.is CL_CTRL_EN = true ∧
      s.cline (hashH1 out) = none ∧ s.bucketServed (hashH1 out) = true ∧
      ((p.2.1 = 1 ∨ p.2.1 = 3 → bits vd 33 3 < 3 ∧ (s.ctx (bits vd 0 12)).state ≠ cFREE ∧ (s.poolQ (bits vd 0 12) (bits vd 12 6) true).isSome = true))) ∧
    (∃ (e : List Byte) (s : State) (line : LineC) (i : ℕ) (x : ℕ),
      let c := cmdOf e; let key := (e.drop 8).take 40; let out := toeplitz (beNat key 0 40) s.hkey; s.ring.heads = [e] ∧
      s.cmdMayStart e = true ∧ s.islandRuns 5 = true ∧ s.is HR_CMD_CFG_EN = true ∧ byteAt e 0 = 0x23 ∧ c.formOk [(8, 0, 320)] = true ∧
      s.tbl.ops = [] ∧ 1 ≤ byteAt key 0 ∧ byteAt key 0 ≤ 6 ∧ s.is CL_CTRL_EN = true ∧ s.cline (hashH1 out) = some line ∧
      matchIn line.ents (byteAt key 0) (hashSig out) 0 = some (i, x)) ∧
    (∃ (e : List Byte) (s : State) (i : ℕ), let c := cmdOf e; s.ring.heads = [e] ∧ s.cmdMayStart e = true ∧ s.islandRuns 5 = true ∧
      s.is HR_CMD_CFG_EN = true ∧ byteAt e 0 = 0x30 ∧
      c.formOk [(8, 0, 15), (10, 0, 1), (12, 0, 32), (0x10, 0, 24), (0x14, 0, 9), (0x18, 0, 14)] = true ∧ c.shaper s = some i ∧
      (if c.f 10 0 1 = 1 then c.f 0x14 0 9 = 0 else c.f 0x18 0 14 = 0) ∧ (s.shap i).locked = true) ∧
    (∃ (e : List Byte) (s : State) (i : ℕ), let c := cmdOf e; s.ring.heads = [e] ∧ s.cmdMayStart e = true ∧ s.islandRuns 5 = true ∧
      s.is HR_CMD_CFG_EN = true ∧ byteAt e 0 = 0x30 ∧
      c.formOk [(8, 0, 15), (10, 0, 1), (12, 0, 32), (0x10, 0, 24), (0x14, 0, 9), (0x18, 0, 14)] = true ∧ c.shaper s = some i ∧
      (if c.f 10 0 1 = 1 then c.f 0x14 0 9 = 0 else c.f 0x18 0 14 = 0) ∧ (s.shap i).locked = false ∧ 32768 ≤ i) ∧
    (∃ (e : List Byte) (s : State) (i : ℕ), let c := cmdOf e; s.ring.heads = [e] ∧ s.cmdMayStart e = true ∧ s.islandRuns 5 = true ∧
      s.is HR_CMD_CFG_EN = true ∧ byteAt e 0 = 0x30 ∧
      c.formOk [(8, 0, 15), (10, 0, 1), (12, 0, 32), (0x10, 0, 24), (0x14, 0, 9), (0x18, 0, 14)] = true ∧ c.shaper s = some i ∧
      (if c.f 10 0 1 = 1 then c.f 0x14 0 9 = 0 else c.f 0x18 0 14 = 0) ∧ (s.shap i).locked = false ∧ i < 32768 ∧
      s.mapRefuse i (c.f 0x14 0 9) = none) ∧
    (∃ (e : List Byte) (s : State) (i : ℕ) (st : ℕ), let c := cmdOf e; s.ring.heads = [e] ∧ s.cmdMayStart e = true ∧ s.islandRuns 5 = true ∧
      s.is HR_CMD_CFG_EN = true ∧ byteAt e 0 = 0x30 ∧
      c.formOk [(8, 0, 15), (10, 0, 1), (12, 0, 32), (0x10, 0, 24), (0x14, 0, 9), (0x18, 0, 14)] = true ∧ c.shaper s = some i ∧
      (if c.f 10 0 1 = 1 then c.f 0x14 0 9 = 0 else c.f 0x18 0 14 = 0) ∧ (s.shap i).locked = false ∧ i < 32768 ∧
      s.mapRefuse i (c.f 0x14 0 9) = some st) :=
  ⟨⟨cmdE 0x21 0 [(8, 1)], { (cmdS (cmdE 0x21 0 [(8, 1)]) ready) with tbl := { ops := [{ op := 1, key := [], vd := 0, cmd := none, reading := some 4 }] } }, (.epDelete, 2, [(8, 0, 320)]), { op := 1, key := [], vd := 0, cmd := none, reading := some 4 }, [], by decide +kernel⟩,
  ⟨cmdE 0x21 0 [(8, 7)], cmdS (cmdE 0x21 0 [(8, 7)]) ready, (.epDelete, 2, [(8, 0, 320)]), by decide +kernel⟩,
  ⟨cmdE 0x20 0 [(8, 1)], { (tblCtx [(CL_CTRL_EN, 1)]) with ring := { heads := [cmdE 0x20 0 [(8, 1)]] }, flds := (cmdS [] (wrs ready [(CL_CTRL_EN, 1)])).flds }, (.epInsert, 1, [(8, 0, 320), (0x30, 0, 28)]), by decide +kernel⟩,
  ⟨cmdE 0x23 0 [(8, 1)], { (cmdS (cmdE 0x23 0 [(8, 1)]) (wrs ready [(CL_CTRL_EN, 1)])) with tbl := { cache := [(0, ⟨[0, ent0, 0, 0], 3, 0, false⟩)] } }, ⟨[0, ent0, 0, 0], 3, 0, false⟩, 1, ent0, by decide +kernel⟩,
  ⟨cmdE 0x30 0 [(8, 5), (10, 1)], { (cmdS (cmdE 0x30 0 [(8, 5), (10, 1)]) ready) with shaps := [(32773, { locked := true, gen := 4 })] }, 32773, by decide +kernel⟩,
  ⟨cmdE 0x30 0 [(8, 5), (10, 1), (12, 9), (0x18, 7)], cmdS (cmdE 0x30 0 [(8, 5), (10, 1), (12, 9), (0x18, 7)]) ready, 32773, by decide +kernel⟩,
  ⟨cmdE 0x30 0 [(8, 2), (0x14, 9)], ctx0 (cmdS (cmdE 0x30 0 [(8, 2), (0x14, 9)]) (wrs ready [(SC_CH_STG_STG_KIB 9, 4)])), 2, by decide +kernel⟩,
  ⟨cmdE 0x30 0 [(8, 2), (0x14, 9)], ctx0 (cmdS (cmdE 0x30 0 [(8, 2), (0x14, 9)]) (wrs ready [(SC_CH_STG_STG_KIB 9, 0)])), 2, 2, by decide +kernel⟩⟩

theorem witness_CutsOpenAndClose :
    (∃ (n : ℕ) (s : State), s.led.nextCut = some n ∧ s.coreUp = true ∧ s.sleepLoad = false ∧ s.is LG_STAT_PENDING = false ∧
      s.led.win = none) ∧
    (∃ (n : ℕ) (s : State), s.led.nextCut = some n ∧ s.coreUp = true ∧ s.sleepLoad = false ∧
      (s.is LG_STAT_PENDING = true ∨ s.led.win.isSome = true)) ∧
    (∃ (s : State), (s.led.nextCut = none ∨ s.coreUp = false ∨ s.sleepLoad = true)) ∧
    (∃ (m : Fin 6) (w : WinSt) (s : State), s.led.win = some w ∧ s.islandRuns m = true ∧ s.sys.sliceOut.getLsbD m = false ∧
      s.islandRuns 5 = true ∧ m.val ∈ w.due ∧ s.passedBefore m w.inst = true) ∧
    (∃ (m : Fin 6) (w : WinSt) (s : State),
      (s.led.win = none ∨ s.led.win = some w ∧ (m.val ∉ w.due ∨ s.passedBefore m w.inst = false ∨ s.islandRuns m = false ∨ s.sys.sliceOut.getLsbD m = true))) ∧
    (∃ (w : WinSt) (s : State), s.led.win = some w ∧ s.coreUp = true) ∧
    (∃ (s : State), s.led.win = none) :=
  ⟨⟨60, { (wrs ready [(CX_COMMIT_LOCKED 5, 1), (CX_OWNER_OWNER 5, 77)]) with sys := { ready.sys with pendingMode := some 2 } }, by decide +kernel⟩,
  ⟨60, wrs ready [(LG_STAT_PENDING, 1)], by decide +kernel⟩,
  ⟨{ ready with led := { nextCut := none } }, by decide +kernel⟩,
  ⟨5, win60 [5], { ready with led := { win := some (win60 [5]) } }, by decide +kernel⟩,
  ⟨3, win60 [0, 5], { ready with led := { win := some (win60 [0, 5]) } }, by decide +kernel⟩,
  ⟨win60 [0, 5], { ready with led := { win := some (win60 [0, 5]) } }, by decide +kernel⟩,
  ⟨ready, by decide +kernel⟩⟩

theorem witness_RecordsReachTheRing :
    (∃ (s : State), s.recordDue = true ∧ s.islandRuns 5 = true) ∧
    (∃ (s : State), s.recordDue = false) ∧
    (∃ (d : Deliv) (u : State) (s : State), s.response .ledger = some (d, u) ∧ d.a = 0 ∧ d.resp = .okay) ∧
    (∃ (d : Deliv) (u : State) (s : State), s.response .ledger = some (d, u) ∧ d.a = 0 ∧ d.resp ≠ .okay) ∧
    (∃ (w : Who) (s : State), s.serves w 0x160014 4 = true) ∧
    (∃ (w : Who) (v : Word) (s : State), s.serves w 0x16000C 4 = true ∧ s.is LG_RING_CFG_EN = false ∧ v.getLsbD 0 = true) ∧
    (∃ (w : Who) (v : Word) (s : State), s.serves w 0x16000C 4 = true ∧ v.getLsbD 0 = false) ∧
    (∃ (x : Fin 4096) (id : ℕ) (c : CmdSt) (s : State), (s.ctx x).closing = some (some id) ∧ s.coreUp = true ∧ s.inFlight x = false ∧
      optGet s.ring.active id = some c ∧ s.is HR_CMD_CFG_EN = true) ∧
    (∃ (x : Fin 4096) (s : State), ((s.ctx x).closing = none ∨ s.inFlight x = true ∨ s.coreUp = false)) :=
  ⟨⟨{ (wrs ready [(LG_RING_CFG_EN, 1), (LG_STAT_PENDING, 1), (LG_PI_PI, 64), (LG_CI_CI, 1)]) with led := { cut := { ctxs := [0] } } }, by decide +kernel⟩,
  ⟨ready, by decide +kernel⟩,
  ⟨⟨.ledger, 0, 1, 0, 0, .okay, []⟩, quiet (answer .ledger 0 1 .okay [] { (wrs ready [(LG_RING_CFG_EN, 1), (LG_STAT_PENDING, 1), (LG_PI_PI, 127)]) with led := { cut := { ctxs := [0] }, done := 1, issued := 2 } }), answer .ledger 0 1 .okay [] { (wrs ready [(LG_RING_CFG_EN, 1), (LG_STAT_PENDING, 1), (LG_PI_PI, 127)]) with led := { cut := { ctxs := [0] }, done := 1, issued := 2 } }, by decide +kernel⟩,
  ⟨⟨.ledger, 0, 1, 0, 0, .timeout, []⟩, quiet (answer .ledger 0 1 .timeout [] ready), answer .ledger 0 1 .timeout [] ready, by decide +kernel⟩,
  ⟨host, wrs ready [(LG_PI_PI, 64)], by decide +kernel⟩,
  ⟨host, 0x601, ready, by decide +kernel⟩,
  ⟨host, 0, wrs ready [(LG_RING_CFG_EN, 1), (LG_STAT_HALTED, 1)], by decide +kernel⟩,
  ⟨5, 0, cmdOf (cmdE 2 5 []), { (wrs ready [(HR_CMD_CFG_EN, 1)]) with ring := { active := [(0, cmdOf (cmdE 2 5 []))], nextId := 1 }, ctxs := [(5, { owner := 9, closing := some (some 0) })] }, by decide +kernel⟩,
  ⟨5, ready, by decide +kernel⟩⟩

theorem witness_ReferencesKeepTime :
    (∃ (s : State), s.coreUp = true ∧ ((∀ p, s.tm.step = some p → s.tm.cyc + s.cyclesToMultiple 1024 < p.due))) ∧
    (∃ (p : TmStep) (s : State), s.coreUp = true ∧ s.tm.step = some p ∧ p.due ≤ s.tm.cyc + s.cyclesToMultiple 1024) ∧
    (∃ (s : State), (s.coreUp = false ∨ s.timeRef = 0)) ∧
    (∃ (s : State), s.coreUp = true ∧ s.timeRef ≠ 0 ∧ s.edgeAccepted s.edgeValue = false) ∧
    (∃ (s : State), s.coreUp = true ∧ s.timeRef ≠ 0 ∧ s.edgeAccepted s.edgeValue = true) ∧
    (∃ (s : State), s.coreUp = true ∧ s.timeRef ≠ 0 ∧ s.is TM_CTRL_PPS_EN = true) ∧
    (∃ (s : State), (s.coreUp = false ∨ s.timeRef = 0 ∨ s.is TM_CTRL_PPS_EN = false)) ∧
    (∃ (s : State), s.coreUp = true) ∧
    (∃ (p : BitVec 32) (n : ℕ) (s : State), s.coreUp = true ∧ s.holdover = false ∧ s.tm.aonTicks = some n ∧ aonFits p.toNat n = true) ∧
    (∃ (p : BitVec 32) (s : State),
      (s.coreUp = false ∨ s.holdover = true ∨ s.tm.aonTicks = none ∨ (∃ n, s.tm.aonTicks = some n ∧ aonFits p.toNat n = false))) ∧
    (∃ (s : State), s.coreUp = false) :=
  ⟨⟨{ ready with tm := { cyc := 1000, step := some ⟨.set, 5, 3000⟩ } }, by decide +kernel⟩,
  ⟨⟨.set, 5, 1024⟩, { ready with tm := { cyc := 1000, step := some ⟨.set, 5, 1024⟩ } }, by decide +kernel⟩,
  ⟨ready, by decide +kernel⟩,
  ⟨withSd [(0x01C, 0x100)] { (wrs ready [(TM_CTRL_PPS_EN, 1)]) with tm := { firstEdge := false, now := secUnits / 2 } }, by decide +kernel⟩,
  ⟨withSd [(0x01C, 0x100)] { (wrs ready [(TM_CTRL_PPS_EN, 1), (TM_CTRL_AUTO_STEP, 1)]) with tm := { now := secUnits + 5000 * 2 ^ 32 } }, by decide +kernel⟩,
  ⟨withSd [(0x01C, 0x100)] (wrs ready [(TM_CTRL_PPS_EN, 1)]), by decide +kernel⟩,
  ⟨wrs ready [(TM_CTRL_PPS_EN, 1)], by decide +kernel⟩,
  ⟨ready, by decide +kernel⟩,
  ⟨77, 13617870129870, { (wrs ready [(TM_STAT_HOLDOVER, 0), (TM_CTRL_AON_AUTO, 1)]) with tm := { ready.tm with aonTicks := some 13617870129870 } }, by decide +kernel⟩,
  ⟨77, wrs ready [(TM_STAT_HOLDOVER, 1)], by decide +kernel⟩,
  ⟨{ ready with sys := { ready.sys with clkStopped := 32#9 } }, by decide +kernel⟩⟩

theorem witness_ServiceOperationsStart :
    (∃ (w : Who) (v : Word) (mid : Option (Fin 32)) (s : State) (c : Instr), s.serves w 0x1F1000 4 = true ∧ w.master ≠ 256 ∧
      c ∈ [Instr.svEvacuate w v mid, .svReturn w v, .fabSpare w v, .fabRestore w v,
    .tblSpare w v, .tblRestore w v, .rowRepair w v, .sliceTest w v, .svAbort w v]) ∧
    (∃ (w : Who) (v : Word) (mid : Option (Fin 32)) (st : ℕ) (s : State) (p : Instr × ℕ), s.serves w 0x1F1000 4 = true ∧ w.master = 256 ∧
      p ∈ [(Instr.svEvacuate w v mid, 1), (.svReturn w v, 2), (.fabSpare w v, 3),
    (.fabRestore w v, 4), (.tblSpare w v, 5), (.tblRestore w v, 6), (.rowRepair w v, 7), (.sliceTest w v, 8)] ∧
      s.svRefusal p.2 (bits v.toNat 4 12) (bitN v.toNat 16 == 1) = some st) ∧
    (∃ (w : Who) (v : Word) (mid : Option (Fin 32)) (s : State) (p : Instr × ℕ × ℕ),
      let a := bits v.toNat 4 12; let force := bitN v.toNat 16 == 1; s.serves w 0x1F1000 4 = true ∧ w.master = 256 ∧
      p ∈ [(Instr.svEvacuate w v mid, 1, 2), (.svReturn w v, 2, 2), (.sliceTest w v, 8, 1)] ∧ s.svRefusal p.2.1 a force = none ∧
      ((p.2.1 = 1 → force = false))) ∧
    (∃ (w : Who) (v : Word) (s : State), let a := bits v.toNat 4 12; let force := bitN v.toNat 16 == 1; s.serves w 0x1F1000 4 = true ∧
      w.master = 256 ∧ s.svRefusal 1 a true = none ∧ force = true) ∧
    (∃ (w : Who) (v : Word) (s : State) (p : Instr × ℕ × ℕ),
      let a := bits v.toNat 4 12; let force := bitN v.toNat 16 == 1; s.serves w 0x1F1000 4 = true ∧ w.master = 256 ∧
      p ∈ [(Instr.fabSpare w v, 3, a), (.fabRestore w v, 4, 8)] ∧ s.svRefusal p.2.1 a force = none) ∧
    (∃ (w : Who) (v : Word) (s : State) (p : Instr × ℕ),
      let a := bits v.toNat 4 12; let force := bitN v.toNat 16 == 1; s.serves w 0x1F1000 4 = true ∧ w.master = 256 ∧
      p ∈ [(Instr.tblSpare w v, 5), (.tblRestore w v, 6)] ∧ s.svRefusal p.2 a force = none ∧ (p.2 = 6 ∨ force = false) ∧ 0 < s.copyTotal a ∧
      s.bucketServed (s.copyBucket a 0) = true) ∧
    (∃ (w : Who) (v : Word) (s : State), let a := bits v.toNat 4 12; let force := bitN v.toNat 16 == 1; s.serves w 0x1F1000 4 = true ∧
      w.master = 256 ∧ s.svRefusal 5 a true = none ∧ force = true ∧ s.fab.reqs.all (fun r => r.x != 9 + a || r.tag.isNone) = true) ∧
    (∃ (w : Who) (v : Word) (s : State), let a := bits v.toNat 4 12; let force := bitN v.toNat 16 == 1; s.serves w 0x1F1000 4 = true ∧
      w.master = 256 ∧ s.svRefusal 7 a force = none) ∧
    (∃ (w : Who) (s : State), s.serves w 0x1F1000 4 = true ∧ w.master = 256 ∧ s.svAbortable = true) ∧
    (∃ (w : Who) (s : State), s.serves w 0x1F1000 4 = true ∧ w.master = 256 ∧ s.svAbortable = false) :=
  ⟨⟨host, 0x21, none, ready, .svReturn host 0x21, by decide +kernel⟩,
  ⟨core, 0x1F1, none, 2, ready, (.svEvacuate core 0x1F1 none, 1), by decide +kernel⟩,
  ⟨core, 0x21, none, ready, (.svEvacuate core 0x21 none, 1, 2), by decide +kernel⟩,
  ⟨core, 0x10021, ready, by decide +kernel⟩,
  ⟨core, 0x23, withSd [(0x018, 0x1FF0000)] { ready with fab := { up := 0xFFFF } }, (.fabSpare core 0x23, 3, 2), by decide +kernel⟩,
  ⟨core, 0x25, withSd [(0x0B0, 0x44)] ready, (.tblSpare core 0x25, 5), by decide +kernel⟩,
  ⟨core, 0x10025, withSd [(0x0B0, 0x44)] (wrs ready [(CL_CTRL_EN, 1)]), by decide +kernel⟩,
  ⟨core, 0x217, ready, by decide +kernel⟩,
  ⟨core, sv 3 2 1 false ready, by decide +kernel⟩,
  ⟨core, ready, by decide +kernel⟩⟩

theorem witness_EvacuationSteps :
    (∃ (s : State), s.evacAt 2 = true ∧ (s.sv.force && s.sv.op == opEVACUATE) = false) ∧
    (∃ (s : State), s.evacAt 2 = true ∧ s.sv.force = true ∧ s.sv.op = opEVACUATE) ∧
    (∃ (s : State), s.evacAt 3 = true ∧ (s.portAligned s.sv.arg = false ∨ s.islandRuns s.evacTo = false)) ∧
    (∃ (s : State), s.evacAt 3 = true ∧ s.portAligned s.sv.arg = true ∧ s.islandRuns s.evacTo = true) ∧
    (∃ (s : State), s.evacAt 5 = true ∧ s.islandRuns s.evacTo = true) ∧
    (∃ (s : State), s.evacAt 6 = true ∧ s.portStaged s.sv.arg = false) ∧
    (∃ (s : State), s.evacAt 6 = true ∧ s.portStaged s.sv.arg = true) ∧
    (∃ (s : State), s.evacAt 6 = true) ∧
    (∃ (s : State), s.evacAt 7 = true ∧ s.islandRuns s.evacTo = true) ∧
    (∃ (s : State), s.evacAt 7 = true ∧ s.islandRuns s.evacTo = true) ∧
    (∃ (s : State) (b : Bool) (c : Instr), s.sv.op ≠ opEVACUATE ∧ s.sv.op ≠ opRETURN ∧
      c ∈ [Instr.evacCopyDone, .evacRxReady, .evacRxSwitch, .evacDrainDone, .evacDrainTimeout,
    .evacLockstepCompare b]) ∧
    (∃ (s : State), s.evacAt 5 = true ∧ s.islandRuns s.evacTo = false) ∧
    (∃ (s : State), s.evacAt 7 = true ∧ s.islandRuns s.evacTo = false) :=
  ⟨⟨sv 1 2 2 false ready, by decide +kernel⟩,
  ⟨sv 1 2 2 true ready, by decide +kernel⟩,
  ⟨sv 2 2 3 false (wrs ready [(LN_PORT_CFG_ENABLE 2, 1), (LN_CHAN_CFG_EN 17, 1)]), by decide +kernel⟩,
  ⟨sv 2 2 3 false ready, by decide +kernel⟩,
  ⟨sv 1 2 5 false ready, by decide +kernel⟩,
  ⟨sv 1 2 6 false ready, by decide +kernel⟩,
  ⟨{ (sv 1 1 6 false ready) with chs := [(9, { staged := [(0, [7])] })] }, by decide +kernel⟩,
  ⟨{ (sv 1 1 6 false (staged9 [])) with pw := {} }, by decide +kernel⟩,
  ⟨sv 1 2 7 false ready, by decide +kernel⟩,
  ⟨sv 1 2 7 false ready, by decide +kernel⟩,
  ⟨ready, true, .evacLockstepCompare true, by decide +kernel⟩,
  ⟨sv 1 2 5 false { ready with sys := { ready.sys with clkStopped := 16#9 } }, by decide +kernel⟩,
  ⟨sv 1 2 7 false { ready with sys := { ready.sys with clkStopped := 16#9 } }, by decide +kernel⟩⟩

theorem witness_SparesSwitch :
    (∃ (s : State), s.sv.op = opFAB_SPARE ∧ s.fab.reqs.all (fun r => r.x != s.sv.arg || r.tag.isNone) = true) ∧
    (∃ (s : State), s.sv.op = opFAB_RESTORE ∧ s.fab.reqs.all (fun r => r.x != 8 || r.tag.isNone) = true) ∧
    (∃ (s : State), s.sv.op ≠ opFAB_SPARE ∧ s.sv.op ≠ opFAB_RESTORE) ∧
    (∃ (s : State), s.sv.op = opTBL_SPARE ∧ s.sv.arg < 6 ∧ (s.sv.step = 2 ∨ s.rd SV_COPY_BUCKETS = s.copyTotal s.sv.arg) ∧
      s.fab.reqs.all (fun r => r.x != 9 + s.sv.arg || r.tag.isNone) = true) ∧
    (∃ (s : State), ((s.sv.op ≠ opTBL_SPARE ∧ s.sv.op ≠ opTBL_RESTORE) ∨ s.sv.step ≠ 2 ∧ s.rd SV_COPY_BUCKETS ≠ s.copyTotal s.sv.arg)) ∧
    (∃ (r : ℕ) (s : State), s.sv.row = some r) ∧
    (∃ (s : State), s.sv.row = none) ∧
    (∃ (s : State), s.sv.op = opSLICE_TEST) ∧
    (∃ (s : State), s.sv.op ≠ opSLICE_TEST) :=
  ⟨⟨sv 3 2 1 false ready, by decide +kernel⟩,
  ⟨sv 4 2 1 false (wrs ready [(SV_INUSE_FAB, 1), (SV_INUSE_FAB_FOR, 2)]), by decide +kernel⟩,
  ⟨ready, by decide +kernel⟩,
  ⟨sv 5 2 2 false (wrs (withSd [(0x0B0, 0x44)] ready) []), by decide +kernel⟩,
  ⟨ready, by decide +kernel⟩,
  ⟨70, { ready with sv := { row := some 70 } }, by decide +kernel⟩,
  ⟨ready, by decide +kernel⟩,
  ⟨sv 8 4 1 false ready, by decide +kernel⟩,
  ⟨ready, by decide +kernel⟩⟩

theorem witness_MirrorAndScrubs :
    (∃ (p : Fin 4) (s : State), s.sliceOf p = some p.val ∧ s.islandRuns p = true ∧ s.islandRuns 8 = true ∧ mapWf fieldReset s.flds = true) ∧
    (∃ (p : Fin 4) (s : State), (s.sliceOf p ≠ some p.val ∨ s.islandRuns p = false ∨ s.islandRuns 8 = false)) ∧
    (∃ (s : State), (s.start = stRESET ∨ s.islandUp 8 = false)) ∧
    (∃ (s : State), s.start ≠ stRESET ∧ s.islandUp 8 = true) ∧
    (∃ (a : Fin 3), a ≠ 0) :=
  ⟨⟨2, wrs ready [(SYS_SLICE_MAP_MAP, 0x0BA98), (MC_STAT_LO_COUNT 17 3, 5)], by decide +kernel⟩,
  ⟨2, { (wrs ready [(SYS_SLICE_MAP_MAP, 0x0BA98)]) with sys := { ready.sys with started := 0 } }, by decide +kernel⟩,
  ⟨{}, by decide +kernel⟩,
  ⟨ready, by decide +kernel⟩,
  ⟨1, by decide +kernel⟩⟩

theorem witness_CommandsComplete1 :
    (∃ (c : Fin 32) (k : Fin 8) (u : Fin 16) (w : Who) (s : State) (f : Fld),
      f ∈ [SYS_XING_SEL_XING, GP_SD_SET_SD_SET u, GP_SD_CLR_SD_CLR u, GP_CNT_SEL_PAIR, GP_OH_SEL_K,
        MC_FC_REF_REFRESH c, MC_STATION_LO_ADDR_LO c, MC_STATION_HI_ADDR_HI c, MC_WAKE_MAGIC_MAGIC_EN, MC_WAKE_VAL_VALUE u c, MC_WAKE_MASK_MASK u (c
        / 8), MT_SEL_METER, MT_CIR_CIR, MT_CBS_CBS, MT_PIR_PIR, MT_PBS_PBS, SC_CH_PACE_PACE_MBPS c, TG_CNT_SEL_CHAN, HR_CTX_SEL_CTX, CX_SEL_CTX,
        CC_CTRL_LEASE_US, CC_PEND_SEL_CONSUMER, TB_CTRL_WANT_US, TM_SET_NS_NS, TM_SET_S_LO_S_LO, TM_SET_S_HI_S_HI, TM_OFFSET_NS, TM_STEP_NS_STEP_NS,
        TM_AON_PERIOD_PERIOD, TM_TX_CORR_CORR c, PC_EXPORT_LO_ADDR, PC_EXPORT_HI_ADDR, PC_FLT_BASE_LO_BASE k, PC_FLT_LIMIT_HI_LIMIT k,
        NY_WDT_WDT_US, NY_EYE_THR_CODE, NY_LOG_HI_WM, NY_LOG_MASK_MASK u, ST_UPD_ADDR_LO_ADDR, ST_UPD_LEN_LEN, PW_ACK_US_ACK_US, SV_CKPT_CKPT_US,
        SV_ROW_THR_CORR] ∧
      s.serves w f.off 4 = true) ∧
    (∃ (c : Fin 32) (k : Fin 8) (u : Fin 12) (w : Who) (s : State) (f : Fld),
      f ∈ [SYS_FAB_LATE_COUNT, SYS_FAB_PROTO_CNT_COUNT, LN_CFG_REJ_COUNT, GP_CFG_REJ_COUNT,
        CL_MISS_CNT_COUNT k, CL_TBL_PROTO_COUNT, CL_CFG_REJ_COUNT, FB_CFG_REJ_COUNT, FB_PC_DROP_COUNT c, SC_CFG_REJ_COUNT, SC_GUARD_CNT_COUNT,
        HR_CFG_REJ_COUNT, HR_NT_FAIL_COUNT, CC_REJ_COUNT, TB_REJ_COUNT, LG_LATE_COUNT, TM_PPS_GLITCH_COUNT, HB_IGN_CNT_COUNT, HB_REDIR_CNT_COUNT,
        HB_CFG_REJ_COUNT, MD_CFG_REJ_COUNT, MD_CH_CNT_DESC k, CU_CFG_REJ_COUNT, NY_DROOP_CNT_COUNT u, NY_BG_MISS_COUNT k, ST_REJ_COUNT,
        SV_REJ_COUNT] ∧
      s.serves w f.off 4 = true) ∧
    (∃ (w : Who) (c : Fin 32) (j : Fin 64) (s : State), s.serves w (0x064000 + 512 * c + 8 * j) 4 = true) ∧
    (∃ (s : State), s.start = stRESET) ∧
    (∃ (w : Who) (s : State), s.serves w 0x000018 4 = true ∧ s.is SYS_SD_STAT_BUSY = false ∧ s.start = stWAIT_SD) ∧
    (∃ (i : Fin 4) (s : State), s.start = stBRINGUP ∧ s.sliceUsed i = true ∧ s.islandRuns i = false ∧ s.sys.sliceOut.getLsbD i = false) ∧
    (∃ (x : Fin 16) (b : Beat) (r : Req) (s : State), s.fab.up.getLsbD x = true ∧ s.islandRuns (if x.val < 9 then 6 else 7) = true ∧
      x.val < 9 ∧ s.coreUp = true ∧ b.valid = true ∧ b.vc = 2 ∧ b.last = true ∧
      s.fab.reqs.find? (fun q => q.x == x.val && q.tag == some b.tag.toNat) = some r ∧ r.rlen = 0 ∧ r.left = 0) ∧
    (∃ (f : Fin 9) (n : BitVec 12) (r : Req) (s : State), s.coreUp = true ∧
      s.fab.reqs.find? (fun q => q.x == f.val && q.tag == some n.toNat) = some r) ∧
    (∃ (c : Fin 7) (n : BitVec 12) (r : Req) (s : State), s.islandRuns 7 = true ∧
      s.fab.reqs.find? (fun q => q.x == 9 + c.val && q.tag == some n.toNat) = some r) ∧
    (∃ (i : Fin 36) (s : State), s.laneUp i = true ∧ s.otherLeg i = none ∧ s.islandRuns (if s.mainLeg i < 64 then i / 9 else 4) = true ∧
      s.leg (s.mainLeg i) = []) ∧
    (∃ (i : Fin 36) (s : State), s.rd (LN_LANE_STAT_TX_IDLE i) ≠ 1 ∧ (s.lane i).txClk = true ∧
      s.laneAt (i / 9) (s.sendsFor i) = some i.val ∧ s.tMode (i / 9) = false ∧ s.txCrossing i = true ∧ s.laneWants i = true) ∧
    (∃ (i : Fin 36) (s : State), s.rd (LN_LANE_STAT_STATE i) = lnDOWN ∧ s.pw.idle.getLsbD (i / 9) = false) ∧
    (∃ (i : Fin 36) (sd : Bool) (lock : Bool) (rc : Bool) (tc : Bool) (s : State), s.laneUp i = true ∧ (sd && lock && rc && tc) = false) ∧
    (∃ (w : Who) (p : Fin 4) (s : State), s.serves w (0x020000 + 4 * p) 4 = true ∧ s.portOn p = false) ∧
    (∃ (w : Who) (c : Fin 32) (s : State), s.serves w (0x020100 + 4 * c) 4 = true ∧ s.is (LN_CHAN_CFG_EN c) = false) ∧
    (∃ (c : Fin 32) (a : List (BitVec 32)) (s : State), s.rd (LN_CHAN_STAT_STATE c) = 1 ∧ s.rxRuns (c / 8) = true ∧
      (∀ x ∈ a, ∀ y ∈ a, BitVec.toNat x ≤ BitVec.toNat y + 200 * 2 ^ 16)) ∧
    (∃ (c : Fin 32) (s : State), s.rd (LN_CHAN_STAT_STATE c) = 2 ∧ s.rxRuns (c / 8) = true ∧ s.is (LN_CHAN_STAT_LINK c) = true) ∧
    (∃ (c : Fin 32) (s : State), s.rd (LN_CHAN_STAT_STATE c) = 2 ∧ s.rxRuns (c / 8) = true) ∧
    (∃ (c : Fin 32) (s : State), s.portRuns (c / 8) = true ∧ s.rd (LN_CHAN_STAT_STATE c) = 2 ∧ s.is (LN_CHAN_STAT_LF_RX c) = false ∧
      s.is (LN_CHAN_STAT_RF_RX c) = false ∧ s.is (LN_CHAN_STAT_LINK c) = false) ∧
    (∃ (w : Who) (p : Fin 4) (v : BitVec 32) (s : State), s.serves w (0x020400 + 8 * p) 4 = true ∧ s.spState p = pIDLE ∧
      s.spareArg p (bits v.toNat 4 3) = true ∧ s.evacOf p = false) := by
  obtain ⟨-, -, -, -, -, -, -, -, -, -, -, -, -, -, -, a15, -⟩ := witness_SetupPortAccesses
  obtain ⟨b0, -, -, b3, -, -, -, -, -, -, b10⟩ := witness_StartUp
  obtain ⟨-, -, -, -, -, -, -, -, c8, c9, c10⟩ := witness_ManagementResetsHeartbeatAndSurroundings
  obtain ⟨-, d1, -, -, d4, -, d6, d7, d8⟩ := witness_Lanes
  obtain ⟨e0, -, e2, -, e4, -, e6, e7⟩ := witness_PortsChannelsAndAlignment
  obtain ⟨f0, -, -, -, -, -, -, -, -⟩ := witness_SpareLanes
  exact ⟨⟨31, 7, 15, host, ready, SYS_XING_SEL_XING, by decide +kernel⟩, ⟨31, 7, 11, host, wrs ready [(SYS_FAB_LATE_COUNT, 5)], SYS_FAB_LATE_COUNT, by decide +kernel⟩, a15, b0, b3, b10, c8, c9, c10, d1, d4, d6, d7, e0, e2, e4, e6, e7, d8, f0⟩

theorem witness_CommandsComplete2 :
    (∃ (w : Who) (p : Fin 4) (s : State), s.serves w (0x020400 + 8 * p) 4 = true ∧ s.spState p = pACTIVE) ∧
    (∃ (w : Who) (p : Fin 4) (s : State), s.serves w (0x020400 + 8 * p) 4 = true ∧ s.spState p = pACTIVE) ∧
    (∃ (w : Who) (p : Fin 4) (s : State), s.serves w (0x020400 + 8 * p) 4 = true ∧ s.spState p ≠ pIDLE ∧ s.spState p ≠ pACTIVE) ∧
    (∃ (p : Fin 4) (d : BitVec 13) (s : State),
      let x := s.spare p; let c := s.lane (s.spareLanes p).1; let l := s.lane (s.spareLanes p).2; let e : Int := if x.reverse then -BitVec.toInt d else BitVec.toInt d; let ca := c.end_ - (-e).toNat; let la := l.end_ - e.toNat; s.spState p = pMATCH ∧
      s.portRuns p = true ∧ -2047 ≤ BitVec.toInt d ∧ BitVec.toInt d ≤ 2048 ∧ 1024 ≤ ca ∧ 1024 ≤ la ∧
      (c.bitsFrom (ca - 1024) 128).isSome = true ∧ c.bitsFrom (ca - 1024) 128 = l.bitsFrom (la - 1024) 128) ∧
    (∃ (p : Fin 4) (s : State), s.spState p = pCONFIRM ∧ s.portRuns p = true ∧
      256 * s.rd (LN_SPARE_CTRL_CONFIRM_W p) ≤ (s.spare p).confirmed) ∧
    (∃ (p : Fin 4) (s : State), s.spState p = pMATCH) ∧
    (∃ (p : Fin 4) (s : State), s.spState p = pSWITCH ∧ s.portRuns p = true) ∧
    (∃ (p : Fin 4) (l : Fin 8) (n : ℕ) (b : Fin 256) (j : ℕ) (s : State), j = 8 * p.val + l.val ∧ 0 < 256 * n + b.val ∧
      s.portRuns (j / 8) = true ∧ s.rd (TF_FR_STAT_STATE j) = fHUNT ∧ (s.fr j).has 12 = true ∧ hdrFits ((s.fr j).bytes 12) = true ∧
      (s.fr j).cands = []) ∧
    (∃ (w : Who) (j : Fin 32) (s : State), s.serves w (0x040000 + 4 * j) 4 = true ∧ s.rd (TF_FR_STAT_STATE j) = fSYNC) ∧
    (∃ (j : Fin 32) (s : State), s.tSends j = true ∧ (s.fr j).out.length < 8192 ∧ s.groupOf j = none) ∧
    (∃ (c : Fin 32) (s : State), s.portRuns (c / 8) = true ∧ s.rd (TF_GFP_STAT_STATE c) = fHUNT ∧ 4 ≤ (s.gfp c).buf.length ∧
      hecFits (coreAt (s.gfp c).buf 0) = true) ∧
    (∃ (c : Fin 32) (n : ℕ) (s : State), s.portRuns (c / 8) = true ∧ s.rd (TF_GFP_STAT_STATE c) = fSYNC ∧ (s.gfp c).pli = some n ∧
      n ≤ (s.gfp c).buf.length) ∧
    (∃ (c : Fin 32) (s : State), s.portRuns (c / 8) = true ∧ s.rd (TF_GFP_STAT_STATE c) = fSYNC ∧ s.is (TF_GFP_STAT_LINK c) = false) ∧
    (∃ (w : Who) (g : Fin 16) (s : State), s.serves w (grpOff g) 4 = true ∧ s.is (GP_GRP_CFG_EN g) = false ∧ s.partner g = none) ∧
    (∃ (w : Who) (g : Fin 16) (s : State), s.serves w (grpOff g) 4 = true ∧ s.is (GP_GRP_CFG_EN g) = true ∧
      ((∀ h ∈ s.together g, h < 16 ∧ s.rd (GP_GRP_CFG_CHAN h) < 32))) ∧
    (∃ (g : Fin 16) (m : ℕ) (ts : List (ℕ × ℕ)) (s : State), s.is (GP_GRP_CFG_EN g) = true ∧
      s.portRuns (s.rd (GP_GRP_CFG_CHAN g) / 8) = true ∧ s.segReady g = some (m, ts)) ∧
    (∃ (w : Who) (k : Fin 8) (s : State), s.serves w (0x041300 + 16 * k) 4 = true) ∧
    (∃ (c : Fin 32) (k : ℕ) (prot : Bool) (id : ℕ) (f : RxFr) (s : State), s.pairOfChan c = some (k, prot) ∧ s.releasedOf c = some (id, f) ∧
      s.islandRuns 5 = true ∧ (s.pair k).copies = [] ∧ s.belowNext k f.pos = true) ∧
    (∃ (k : Fin 8) (e : Copy) (f : RxFr) (s : State), s.coreUp = true ∧ s.is (GP_PAIR_STAT_ALIGNED k) = true ∧ (s.pair k).copies = [e] ∧
      s.belowNext k e.pos = false ∧ s.otherDown k e.prot = false ∧ s.rd (GP_PAIR_TIME_WAIT_NS k) ≠ 0 ∧ s.rxf e.frame = some f) ∧
    (∃ (w : Who) (k : Fin 8) (s : State) (e : Instr × ℕ × ℕ × Bool), s.serves w (pairCmdOff k) 4 = true ∧ s.coreUp = true ∧
      s.is (GP_PAIR_CFG_EN k) = true ∧ s.is (GP_PAIR_CFG_BIDIR k) = false ∧ s.condNow k = [] ∧ (s.pair k).entered = [] ∧
      (s.pair k).wtr = none ∧ (s.pair k).dnr = false ∧
      e ∈ [(Instr.pairCmdNone w k, 0, 0, false),
        (.pairCmdLo w k, 1, 15, false), (.pairCmdFs w k, 2, 13, true), (.pairCmdMsProtect w k, 3, 8, true), (.pairCmdMsWorking w k, 4, 8, false),
        (.pairCmdExer w k, 5, 4, s.is (GP_PAIR_STAT_SEL k))]) := by
  obtain ⟨-, a1, a2, a3, -, -, a6, a7, a8⟩ := witness_SpareLanes
  obtain ⟨-, -, b2, -, -, -, -, b7, -, b9⟩ := witness_Framers
  obtain ⟨c0, -, -, c3, -, c5⟩ := witness_GfpStream
  obtain ⟨d0, -, d2, d3, -, -, -⟩ := witness_GroupsAlign
  obtain ⟨e0, -, -, -, e4, -, -, -, e8⟩ := witness_PairsSwitchAndHingePasses
  exact ⟨a1, a2, a3, ⟨1, -2047, withSd [(0x228, 0x10009), (0x224, 0x80009)] { (wrs ready [(LN_SPARE_STAT_STATE 1, 1), (LN_SPARE_STAT_STOOD_POS 1, 1)]) with lanes := [(9, { hist := List.replicate 512 0, words := 16 }), (10, { hist := List.replicate 512 0, words := 16 })] }, by decide +kernel⟩, a6, a7, a8, b2, b7, b9, c0, c3, c5, d0, d2, d3, e0, e4, e8, ⟨host, 0, pair0 [], (.pairCmdFs host 0, 2, 13, true), by decide +kernel⟩⟩

theorem witness_CommandsComplete3 :
    (∃ (k : Fin 8) (i : Fin 4) (a : ℕ) (s : State), let c := [14, 12, 11, 10].getD i.val 0; s.coreUp = true ∧
      (s.pair k).conds.find? (fun e => e.1 == c) = some (c, a) ∧ s.is (GP_PAIR_CFG_EN k) = true ∧ (s.pair k).entered.contains c = false ∧
      (s.condNow k).contains c = true) ∧
    (∃ (k : Fin 8) (a : ℕ) (s : State), s.coreUp = true ∧ (s.pair k).wtr = some a ∧ s.is (GP_PAIR_CFG_EN k) = true ∧
      s.is (GP_PAIR_CFG_BIDIR k) = false ∧ s.condNow k = [] ∧ (s.pair k).entered = [] ∧ (s.pair k).dnr = false ∧
      s.rd (GP_PAIR_CMD_CMD k) = 0) ∧
    (∃ (k : Fin 8) (v : ℕ) (r : List ℕ) (s : State), (s.oh k).tx = v :: r ∧ s.islandUp 8 = true) ∧
    (∃ (k : Fin 8) (s : State), s.is (GP_OH_RX_EN k) = true ∧ (s.oh k).rx.length < 4 ∧
      ((∀ i < k.val, s.is (GP_OH_RX_EN i) = false ∨ s.rd (GP_OH_RX_POS i) ≠ s.rd (GP_OH_RX_POS k)))) ∧
    (∃ (w : Who) (c : Fin 32) (s : State), s.serves w (0x060180 + 4 * c) 4 = true ∧ s.is (MC_COMMIT_LOCKED c) = false ∧
      64 ≤ s.rd (MC_MAXLEN_MAXLEN c) ∧ s.rd (MC_MAXLEN_MAXLEN c) ≤ 16384 ∧ s.txWaiting c = false ∧ s.rxInFrame c false = false) ∧
    (∃ (c : Fin 32) (f : List Byte) (s : State),
      let m := if (s.ch c).rxDue && !(s.ch c).rxBusy then s.macShade c else (s.ch c).rx; s.rxRuns (c / 8) = true ∧ s.tMode (c / 8) = false ∧
      s.receives c = true ∧ s.spansGap c f.length = false ∧ s.pwWatchedAt (s.eStart c f.length) = false ∧ s.protChan c = false ∧ f ≠ [] ∧
      rxFlags m.maxlen false false f = 0 ∧ beNat f 12 2 ≠ 0x8808) ∧
    (∃ (c : Fin 32) (id : ℕ) (key : List Byte) (f : RxFr) (tag : ℕ) (s : State), s.keyWaiting c = some (id, key) ∧ s.rxf id = some f ∧
      s.islandRuns 7 = true ∧ s.rxRuns (c / 8) = true ∧ lookupTag (s.lookupsOut (c / 8)) = some tag ∧ f.chan = c.val ∧
      s.is CL_CTRL_EN = false) ∧
    (∃ (c : Fin 32) (id : ℕ) (l : Lookup) (f : RxFr) (s : State), s.islandRuns 7 = true ∧ s.lookupOf c (·.result.isNone) = some (id, l) ∧
      s.lookup id = some l ∧ s.rxf id = some f) ∧
    (∃ (c : Fin 32) (id : ℕ) (l : Lookup) (v : Verdict) (f : RxFr) (s : State), s.rxRuns (c / 8) = true ∧ s.islandRuns 7 = true ∧
      v.reason < 8 ∧ s.lookupOf c (·.result.isSome) = some (id, l) ∧ l.result = some v ∧ s.rxf id = some f) ∧
    (∃ (c : Fin 32) (id : ℕ) (f : RxFr) (s : State), s.rxs.find? (fun e => e.2.chan == c.val && e.2.stage == .slice) = some (id, f) ∧
      f.verdict.isSome = true ∧ s.islandRuns f.via = true ∧ s.sys.sliceOut.getLsbD f.via = false ∧ s.toCore (c / 8) < 32) ∧
    (∃ (c : Fin 32) (id : ℕ) (f : RxFr) (v : Verdict) (x : CellSt) (s : State), s.islandRuns 5 = true ∧ s.pairOfChan c = none ∧
      s.rxs.find? (fun e => e.2.chan == c.val && e.2.stage == .released) = some (id, f) ∧ f.verdict = some v ∧ v.men = false ∧
      f.dropRec = false ∧ f.flags = 0 ∧ f.control = false ∧ v.reason = 0 ∧ v.action = 0 ∧ (s.ctx v.ctx).state = cACTIVE ∧
      s.fbPlace (8 * (c / 8) + v.cls) (cellsOf f.len) = some x) ∧
    (∃ (id : ℕ) (f : RxFr) (k : ℕ) (n : ℕ) (s : State), let w := rxWrites ((s.q k).bufs.take n) f.data; s.coreUp = true ∧
      s.stage8List.find? (fun e => !(e.2.1.stage == .waiting && e.2.2 == .wait)) = some (id, f, .take k n) ∧ w ≠ []) ∧
    (∃ (n : Fin 32768) (id : ℕ) (r : List ℕ) (f : RxFr) (s : State), let k := 32768 + n.val; s.coreUp = true ∧ (s.q k).order = id :: r ∧
      s.rxf id = some f ∧ f.stage = .complete) ∧
    (∃ (w : Who) (x : Fin 4096) (wide : Bool) (v : BitVec 64) (k : ℕ) (s : State), s.servesDoorbell w (4096 * x) 4 = true ∧
      s.dbReason x (dbValue wide v) = 0 ∧ s.poolQ x (bits (dbValue wide v) 16 6) (bitN (dbValue wide v) 22 == 1) = some k) ∧
    (∃ (w : Who) (x : Fin 4096) (wide : Bool) (v : BitVec 64) (e : EvRing) (s : State), s.servesDoorbell w (4096 * x + 8) 4 = true ∧
      s.evcReason x (dbValue wide v) = 0 ∧ (s.ctx x).evr = some e) ∧
    (∃ (c : Fin 32) (k : Fin 8) (x : ℕ) (n : ℕ) (id : ℕ) (fin : ℕ) (f : TxFr) (s : State), s.chanServes c = true ∧ s.pairOfChan c = none ∧
      s.protChan c = false ∧ s.islandRuns 5 = true ∧ s.pickNode c k = some (x, n, id, fin) ∧ n < 32768 ∧ s.txf id = some f ∧
      s.stagingFits c k f.len = true ∧ s.dispatchHeld c = false) ∧
    (∃ (c : Fin 32) (id : ℕ) (f : TxFr) (s : State), s.portRuns (c / 8) = true ∧ s.coreUp = true ∧
      s.txs.find? (fun e => e.2.chan == c.val && e.2.stage == .dispatched && (s.stagedOf c e.2.cls).contains e.1) = some (id, f) ∧
      f.main = none ∧ s.gateNow c = none) ∧
    (∃ (c : Fin 32) (k : ℕ) (id : ℕ) (f : TxFr) (s : State), s.lineOpen c = true ∧ (s.ch c).ctlDue = false ∧ s.pairOfChan c = none ∧
      s.tMode (c / 8) = false ∧ s.gateNow c = none ∧ (s.ch c).guard = none ∧ (s.ch c).starved = false ∧
      [7, 6, 5, 4, 3, 2, 1, 0].find? (s.ready c) = some k ∧ s.stagedHead c k = some (id, f)) ∧
    (∃ (c : Fin 32) (a : Bool) (e : ℕ) (s : State), (s.ch c).line = .control a e ∧ s.portRuns (c / 8) = true) ∧
    (∃ (n : Fin 32768) (id : ℕ) (r : List ℕ) (f : TxFr) (s : State), s.coreUp = true ∧ (s.q n).order = id :: r ∧ s.txf id = some f ∧
      f.stage = .ended ∧ f.need = true) := by
  obtain ⟨-, -, a2, a3, -, -, -, -, -⟩ := witness_PairsSwitchAndHingePasses
  obtain ⟨-, b1, -, b3, -, -⟩ := witness_SecondsAndOverhead
  obtain ⟨c0, -, -, c3, -, -, -, -, -, -, -, -⟩ := witness_MacChannels
  obtain ⟨d0, -, -, -, -, d5, d6⟩ := witness_LookupsGiveVerdicts
  obtain ⟨e0, -, e2, -, e4, -, -, -, -⟩ := witness_ReceiveFramesToBuffers
  obtain ⟨-, -, -, -, -, -, f6, f7, -, -, -⟩ := witness_FetchesAndCompletions
  obtain ⟨g0, -, -, g3, -, -, -, -, -⟩ := witness_DoorbellsQueueEndsAndNotifies
  obtain ⟨h0, -, h2, h3, -, -, -, h7, -, -⟩ := witness_DispatchAndLine
  exact ⟨a2, a3, b1, b3, c0, c3, d0, d5, d6, e0, e2, e4, f6, g0, g3, h0, h2, h3, h7, f7⟩

theorem witness_CommandsComplete4 :
    (∃ (c : Fin 32) (k : Fin 8) (a : ℕ) (s : State), optGet (s.ch c).pauseEnd k = some a ∧ s.portRuns (c / 8) = true) ∧
    (∃ (c : Fin 32) (s : State), s.fcMode c = 1 ∧ s.is (MC_FC_CFG_TX_GEN c) = true ∧ (s.ch c).xoffMine ≠ 0 ∧ s.portRuns (c / 8) = true) ∧
    (∃ (w : Who) (c : Fin 32) (v : Word) (s : State), s.serves w (0x060200 + 4 * c) 4 = true ∧ s.rd (MC_FC_CFG_MODE c) ≠ bits v.toNat 0 2) ∧
    (∃ (c : Fin 32) (k : Fin 8) (a : ℕ) (e : ℕ) (s : State), optGet (s.ch c).pauseFrom k = some a ∧ optGet (s.ch c).pauseEnd k = some e ∧
      s.rd (MC_FC_WD_WD_US c) ≠ 0 ∧ a + 1600 * s.rd (MC_FC_WD_WD_US c) ≤ e ∧ s.portRuns (c / 8) = true ∧ s.protChan c = false) ∧
    (∃ (c : Fin 32) (k : Fin 8) (a : ℕ) (s : State), optGet (s.ch c).holdEnd k = some a ∧ s.portRuns (c / 8) = true) ∧
    (∃ (w : Who) (v : Word) (s : State), s.serves w 0x080000 4 = true ∧ s.is CL_CTRL_EN = false ∧ v.getLsbD 1 = false) ∧
    (∃ (w : Who) (v : Word) (s : State), s.serves w 0x080000 4 = true ∧ s.is CL_CTRL_EN = false ∧ s.is CL_CTRL_CLEAR_BUSY = false ∧
      v.getLsbD 0 = false) ∧
    (∃ (w : Who) (s : State) (e : Instr × ℕ),
      let key := (List.range 10).flatMap (fun i => leBytes 4 (s.rd (CL_UPD_KEY_KEY i))); let vd := s.readPlain 0x080328 + 2 ^ 32 * s.readPlain 0x08032C; let h1 := hashH1 (toeplitz (beNat key 0 40) s.hkey); s.serves w 0x080330 4 = true ∧
      s.is CL_UPD_STAT_BUSY = false ∧ s.tbl.ops = [] ∧ 1 ≤ byteAt key 0 ∧ byteAt key 0 ≤ 6 ∧ s.is CL_CTRL_EN = true ∧ s.cline h1 = none ∧
      s.bucketServed h1 = true ∧ e ∈ [(Instr.clInsert w,
        1), (.clDelete w, 2), (.clModify w, 3), (.clQuery w, 4)] ∧
      ((e.2 = 1 ∨ e.2 = 3 → bits vd 33 3 < 3 ∧ (s.ctx (bits vd 0 12)).state ≠ cFREE ∧ (s.poolQ (bits vd 0 12) (bits vd 12 6) true).isSome = true))) ∧
    (∃ (w : Who) (s : State), s.serves w 0x081018 4 = true ∧ s.meterRefuse = false) ∧
    (∃ (w : Who) (s : State), let m := (s.meter (s.rd MT_SEL_METER)).refill (periodOf s.tm.cyc); s.serves w 0x081018 4 = true ∧
      m.audit = true) ∧
    (∃ (w : Who) (i : ℕ) (s : State), s.serves w 0x0C0014 4 = true ∧ s.scSel = some i ∧ (s.shap i).locked = false ∧
      ((i < 32768 → s.mapRefuse i (s.shap i).sMap = none))) ∧
    (∃ (w : Who) (i : ℕ) (s : State), s.serves w 0x0C0018 4 = true ∧ s.scSel = some i ∧ (s.shap i).locked = false) ∧
    (∃ (c : Fin 32) (k : Fin 8) (a : ℕ) (s : State), (s.ch c).starveLive ≠ 0 ∧ s.ready c k = true ∧ s.gateNow c = none ∧
      optGet (s.ch c).unserved k = some a ∧ (s.ch c).guard = none ∧ s.pairOfChan c = none ∧ s.portRuns (c / 8) = true) ∧
    (∃ (c : Fin 32) (g : GuardSt) (a : Bool) (e : ℕ) (s : State), (s.ch c).guard = some g ∧ (s.ch c).line = .control a e ∧
      s.portRuns (c / 8) = true) ∧
    (∃ (w : Who) (c : Fin 32) (s : State),
      let len := s.rd (TG_LEN_LEN c); let cyc := s.rd (TG_CYCLE_CYCLE_NS c) * 2 ^ 32; let base := (s.rd (TG_BASE_S_LO_S_LO c) + 2 ^ 32 * s.rd (TG_BASE_S_HI_S_HI c)) * secUnits + s.rd (TG_BASE_NS_NS c) * 2 ^ 32; s.serves w (0x0C1114 + 32 * c) 4 = true ∧
      s.is (TG_COMMIT_LOCKED c) = false ∧ s.listInForce c (s.rd (TG_LEN_LIST c)) = false ∧ 1 ≤ len ∧ len ≤ 256 ∧ 0 < cyc ∧
      (s.gateTime c).toNat + twoUs ≤ base) ∧
    (∃ (c : Fin 32) (w : TakeSt) (s : State), (s.ch c).take = some w ∧ s.portRuns (c / 8) = true ∧ s.coreUp = true ∧ s.sleepLoad = false) ∧
    (∃ (c : Fin 32) (g : GateList) (s : State), s.gateNow c = some g ∧ g.empty = false ∧ s.coreUp = true ∧ s.portRuns (c / 8) = true ∧
      s.sleepLoad = false) ∧
    (∃ (n : Fin 32768) (rx : Bool) (s : State), let k := n.val + 32768 * b2n rx; s.coreUp = true ∧ (s.q k).state = qSTOPPING ∧
      s.queueBusy k = false) ∧
    (∃ (x : Fin 4096) (v : Fin 64) (a : ℕ) (r : List ℕ) (s : State), (s.vec x v).un = a :: r ∧ (s.vec x v).modUs ≠ 0 ∧
      (s.vec x v).mask = false ∧ s.msgHeld x = false ∧ (s.vec x v).msg = false ∧ s.coreUp = true) ∧
    (∃ (w : Who) (v : Word) (s : State), s.serves w 0x100010 4 = true ∧ s.is HR_CMD_CFG_EN = false ∧ v.getLsbD 0 = true) := by
  obtain ⟨-, -, -, -, -, -, -, a7, a8, a9, a10, a11⟩ := witness_MacChannels
  obtain ⟨b0, b1, -, -, -⟩ := witness_ClassifierEnableAndClear
  obtain ⟨c0, -, c2, -, c4, -, c6, -⟩ := witness_MetersAndShapers
  obtain ⟨d0, -, d2, d3, -, d5, d6⟩ := witness_GuardWindowsAndGates
  obtain ⟨-, -, -, -, -, e5, -, e7, -⟩ := witness_DoorbellsQueueEndsAndNotifies
  obtain ⟨f0, -, -, -, -, -, -, -, -⟩ := witness_CommandRing
  exact ⟨a7, a8, a9, a10, a11, b0, b1, ⟨host, withSd [(0x0B0, 1), (0x0C8, 512), (0x0CC, 0x010100)] (wrs ready [(CL_CTRL_EN, 1), (CL_UPD_KEY_KEY 0, 1)]), (.clQuery host, 4), by decide +kernel⟩, c0, c2, c4, c6, d0, d2, d3, d5, d6, e5, e7, f0⟩

theorem witness_CommandsComplete5 :
    (∃ (w : Who) (s : State), s.serves w 0x100014 4 = true) ∧
    (∃ (x : Fin 4096) (r : ResetSt) (id : ℕ) (c : CmdSt) (s : State), (s.ctx x).reset = some r ∧ (s.ctx x).state = cRESETTING ∧
      s.coreUp = true ∧ s.inFlight x = false ∧ s.ctxQuiet x = true ∧ r.cmd = some id ∧ optGet s.ring.active id = some c ∧
      s.is HR_CMD_CFG_EN = true) ∧
    (∃ (x : Fin 4096) (r : ResetSt) (s : State), (s.ctx x).reset = some r ∧ (s.ctx x).state = cRESETTING ∧ r.squash = false ∧
      s.coreUp = true) ∧
    (∃ (x : Fin 4096) (n : ℕ) (id : ℕ) (c : CmdSt) (s : State), (s.ctx x).freeze = some (some id, n) ∧ (s.ctx x).state = cFREEZING ∧
      s.coreUp = true ∧ s.freezeBusy x = false ∧ s.ctxQuiet x = true ∧ optGet s.ring.active id = some c ∧ s.is HR_CMD_CFG_EN = true) ∧
    (∃ (x : Fin 4096) (n : ℕ) (id : ℕ) (c : CmdSt) (s : State), (s.ctx x).freeze = some (some id, n) ∧ (s.ctx x).state = cFREEZING ∧
      optGet s.ring.active id = some c ∧ s.coreUp = true ∧ s.is HR_CMD_CFG_EN = true) ∧
    (∃ (w : Who) (s : State), s.serves w 0x101010 4 = true) ∧
    (∃ (w : Who) (n : Fin 256) (s : State), s.serves w (ccOff n + 0x40) 4 = true ∧ (s.chan n).state = 0) ∧
    (∃ (w : Who) (n : Fin 256) (i : Fin 16) (s : State), s.serves w (ccOff n + 4 * i) 4 = true) ∧
    (∃ (w : Who) (n : Fin 256) (v : BitVec 32) (s : State), s.serves w (ccOff n + 0x44) 4 = true ∧ (s.chan n).state = 1 ∧
      (s.chan n).owner = w.master ∧ bits v.toNat 0 16 = (s.chan n).token ∧ 1 ≤ bits v.toNat 16 5 ∧ bits v.toNat 16 5 ≤ 16 ∧
      bits v.toNat 21 11 = 0 ∧ s.hasConsumer n = true) ∧
    (∃ (w : Who) (n : Fin 256) (v : BitVec 32) (s : State), s.serves w (ccOff n + 0x48) 4 = true ∧ (s.chan n).state = 2 ∧
      s.isConsumer n w.master = true ∧ bits v.toNat 0 4 ≤ 8 ∧ bits v.toNat 4 5 ≤ 16 ∧ bits v.toNat 9 23 = 0) ∧
    (∃ (w : Who) (n : Fin 256) (v : BitVec 32) (s : State), s.serves w (ccOff n + 0x4C) 4 = true ∧
      ((s.chan n).state = 1 ∨ (s.chan n).state = 3) ∧ (s.chan n).owner = w.master ∧ v.toNat % 2 ^ 16 = (s.chan n).token) ∧
    (∃ (n : Fin 256) (s : State), ((s.chan n).state = 1 ∨ (s.chan n).state = 3) ∧ (s.chan n).lease.since.isSome = true ∧
      s.islandUp 8 = true) ∧
    (∃ (w : Who) (n : Fin 256) (s : State), s.serves w 0x140008 4 = true ∧ (s.chan n).state ≠ 0) ∧
    (∃ (w : Who) (l : Fin 1024) (s : State), s.serves w (tbOff l) 4 = true ∧ (s.lock l).held = false) ∧
    (∃ (w : Who) (l : Fin 1024) (s : State), s.serves w (tbOff l + 4) 4 = true) ∧
    (∃ (w : Who) (s : State), s.serves w 0x141008 4 = true) ∧
    (∃ (w : Who) (l : Fin 1024) (s : State), s.serves w (tbOff l + 0xC) 4 = true) ∧
    (∃ (m : Fin 257) (x : WantSt) (s : State), optGet s.cc.wants m.val = some x ∧ x.age.since.isSome = true ∧ s.islandUp 8 = true) ∧
    (∃ (m : Fin 6) (w : WinSt) (s : State), s.led.win = some w ∧ s.islandRuns m = true ∧ s.sys.sliceOut.getLsbD m = false ∧
      s.islandRuns 5 = true ∧ m.val ∈ w.due ∧ s.passedBefore m w.inst = true) ∧
    (∃ (w : Who) (s : State), s.serves w 0x160014 4 = true) := by
  obtain ⟨-, -, a2, -, -, -, -, -, -⟩ := witness_CommandRing
  obtain ⟨b0, -, b2, -, b4, -, b6, -, b8⟩ := witness_ResetsAndFreezesEnd
  obtain ⟨c0, -, c2, c3, c4, c5, -, -, -, c9, -⟩ := witness_CommandChannels
  obtain ⟨-, d1, d2, -, -, -⟩ := witness_HaltsAndCycleWalks
  obtain ⟨e0, -, e2, e3, e4⟩ := witness_TumblerLocks
  obtain ⟨-, -, -, f3, -, -, -⟩ := witness_CutsOpenAndClose
  obtain ⟨-, -, -, -, g4, -, -, -, -⟩ := witness_RecordsReachTheRing
  exact ⟨a2, b0, b2, b4, b6, b8, c0, c5, c2, c3, c4, d1, c9, e0, e2, e3, e4, d2, f3, g4⟩

theorem witness_CommandsComplete6 :
    (∃ (w : Who) (v : Word) (s : State), s.serves w 0x16000C 4 = true ∧ s.is LG_RING_CFG_EN = false ∧ v.getLsbD 0 = true) ∧
    (∃ (x : Fin 4096) (id : ℕ) (c : CmdSt) (s : State), (s.ctx x).closing = some (some id) ∧ s.coreUp = true ∧ s.inFlight x = false ∧
      optGet s.ring.active id = some c ∧ s.is HR_CMD_CFG_EN = true) ∧
    (∃ (w : Who) (s : State), s.serves w 0x170028 4 = true ∧ s.stepHeld = false ∧ s.rd TM_SET_NS_NS ≤ 999999999) ∧
    (∃ (w : Who) (s : State), s.serves w 0x170028 4 = true ∧ s.stepHeld = false) ∧
    (∃ (w : Who) (s : State), s.serves w 0x170028 4 = true ∧ s.stepHeld = false ∧ s.is TM_STAT_BUSY = false) ∧
    (∃ (w : Who) (s : State), s.serves w 0x170004 4 = true) ∧
    (∃ (w : Who) (s : State), s.serves w 0x170008 4 = true) ∧
    (∃ (s : State), s.coreUp = true) ∧
    (∃ (p : BitVec 32) (n : ℕ) (s : State), s.coreUp = true ∧ s.holdover = false ∧ s.tm.aonTicks = some n ∧ aonFits p.toNat n = true) ∧
    (∃ (n : Fin 2560) (s : State), isLevel n.val = true ∧ s.canPend n.val = true ∧ s.islandUp 8 = true) ∧
    (∃ (w : Who) (s : State), s.serves w 0x180014 4 = true) ∧
    (∃ (w : Who) (g : Fin 65) (n : ℕ) (s : State), s.serves w (0x188000 + 0x20 * g) 4 = true ∧ s.is HB_CTRL_DISABLE = false ∧
      s.held g = none ∧ s.claimed g = some n ∧ n < 4096) ∧
    (∃ (w : Who) (g : Fin 65) (v : BitVec 32) (s : State), s.serves w (0x188004 + 0x20 * g) 4 = true ∧ v.toNat < 4096 ∧
      (s.src v.toNat).active = true ∧ (s.src v.toNat).holder = g.val) ∧
    (∃ (w : Who) (n : Fin 2560) (s : State), s.serves w (0x184000 + 4 * n) 4 = true ∧ n.val < 512 ∧
      (isEdge n.val = true ∨ isLevel n.val = true)) ∧
    (∃ (w : Who) (s : State), s.serves w 0x180000 4 = true) ∧
    (∃ (g : Fin 160) (x : ℕ) (s : State), optGet s.hub.hold g.val = some x ∧ s.islandUp 8 = true) ∧
    (∃ (n : Fin 2560) (x : ℕ) (s : State), s.redirectRuns n = true ∧ optGet s.hub.redirs n = some x ∧ s.islandUp 8 = true) ∧
    (∃ (e : Fin 32) (s : State), s.is (HB_WATCH_EN e) = true ∧ s.islandUp 8 = true ∧ (s.src (s.rd (HB_WATCH_SOURCE e))).pending = true ∧
      s.asleep (s.effective (s.rd (HB_WATCH_SOURCE e))) = true ∧ s.pw.step = 0 ∧ s.pwState = pwA0) ∧
    (∃ (w : Who) (ch : Fin 8) (s : State), s.serves w (0x1C0108 + 64 * ch) 4 = true ∧ s.mdState ch ≠ 1 ∧ s.mdState ch ≠ 2) ∧
    (∃ (w : Who) (ch : Fin 8) (s : State), s.serves w (0x1C0108 + 64 * ch) 4 = true ∧ s.mdState ch = 1 ∧
      ((s.mdCh ch).phase ≠ 2 ∨ (s.mdCh ch).acc.isSome = true)) := by
  obtain ⟨-, -, -, -, -, a5, -, a7, -⟩ := witness_RecordsReachTheRing
  obtain ⟨b0, -, b2, -, b4, b5, b6⟩ := witness_TimeCommands
  obtain ⟨-, -, -, -, -, -, -, c7, c8, -, -⟩ := witness_ReferencesKeepTime
  obtain ⟨d0, -, d2, d3, d4, d5, -, -, -, -⟩ := witness_HubSourcesAndClaims
  obtain ⟨e0, -, e2, e3⟩ := witness_HubCompletionsAndConfiguration
  obtain ⟨-, -, -, f3, -, -, -⟩ := witness_WakeAndExit
  obtain ⟨g0, -, g2, -, -, -, -, -, -⟩ := witness_ManagementDma
  exact ⟨a5, a7, b0, b2, b4, b5, b6, c7, c8, d0, d2, d5, e0, e2, e3, d3, d4, f3, g0, g2⟩

theorem witness_CommandsComplete7 :
    (∃ (ch : Fin 8) (s : State), (s.mdCh ch).phase = 1 ∧ s.islandUp 8 = true ∧ s.mdState ch = 1 ∧ 2 ≤ s.mdCurSpace ch) ∧
    (∃ (ch : Fin 8) (x : MdAcc) (s : State), (s.mdCh ch).phase = 2 ∧ (s.mdCh ch).acc = some x ∧ s.islandUp 8 = true ∧ x.space = 1 ∧
      x.write = true) ∧
    (∃ (ch : Fin 8) (x : MdAcc) (s : State), (s.mdCh ch).phase = 3 ∧ (s.mdCh ch).acc = some x ∧ s.islandUp 8 = true ∧ x.space = 1) ∧
    (∃ (ch : Fin 8) (s : State), s.mdState ch = 2 ∧ (s.mdCh ch).phase = 0 ∧ s.islandUp 8 = true) ∧
    (∃ (w : Who) (u : Fin 16) (s : State), s.serves w (0x1C8004 + 64 * u) 4 = true) ∧
    (∃ (w : Who) (u : Fin 16) (s : State), s.serves w (0x1C8004 + 64 * u) 4 = true) ∧
    (∃ (w : Who) (v : BitVec 32) (s : State), s.serves w 0x1E0000 4 = true ∧ bitN v.toNat 0 = 1 ∧ (∀ x ∈ s.transit, x.reader ≠ 256)) ∧
    (∃ (s : State), s.is NY_CTRL_WDT_EN = true ∧ s.is NY_STAT_HALTED = false ∧ s.islandUp 8 = true ∧ (∀ x ∈ s.transit, x.reader ≠ 256)) ∧
    (∃ (w : Who) (s : State), s.serves w 0x1E000C 4 = true) ∧
    (∃ (s : State), s.islandUp 8 = true) ∧
    (∃ (s : State), s.islandUp 8 = true ∧ s.pwState ≤ pwP1) ∧
    (∃ (s : State), s.islandUp 8 = true) ∧
    (∃ (s : State), s.start ≠ stRESET ∧ s.islandUp 8 = true) ∧
    (∃ (w : Who) (s : State), s.serves w 0x1E0460 4 = true) ∧
    (∃ (w : Who) (s : State), s.serves w 0x1E0480 4 = true) ∧
    (∃ (w : Who) (s : State), s.serves w 0x1E0408 4 = true) ∧
    (∃ (w : Who) (s : State), s.serves w 0x1E0404 4 = true) ∧
    (∃ (w : Who) (s : State), s.serves w 0x1D0000 4 = true) ∧
    (∃ (w : Who) (s : State), s.serves w 0x1D0000 4 = true ∧ s.is PC_CTRL_SNAP_BUSY = false ∧ ((∀ i, i < 9 → s.islandUp i = true))) ∧
    (∃ (w : Who) (s : State), s.serves w 0x1D0000 4 = true) := by
  obtain ⟨-, -, -, -, a4, a5, -, a7, a8⟩ := witness_ManagementDma
  obtain ⟨b0, b1, b2, -, -, -, -, b7⟩ := witness_CheckUnitsAndMonitors
  obtain ⟨c0, c1, c2, -, -, -, -, -, -, -, -⟩ := witness_ManagementResetsHeartbeatAndSurroundings
  obtain ⟨-, -, -, -, -, -, -, d7, -⟩ := witness_PowerRequestsAndParking
  obtain ⟨-, -, -, e3, -⟩ := witness_MirrorAndScrubs
  obtain ⟨-, -, -, f3, f4, f5, f6⟩ := witness_EventLogInOrder
  obtain ⟨g0, g1, g2, -, -, -, -, -⟩ := witness_PerformanceCountersAndAgents
  exact ⟨a5, a7, a8, a4, b0, b1, c0, c1, c2, b2, d7, b7, e3, f3, f4, f5, f6, g0, g1, g2⟩

theorem witness_CommandsComplete8 :
    (∃ (w : Who) (s : State), s.serves w 0x1D0000 4 = true ∧ s.is PC_CTRL_SNAP_BUSY = false ∧ s.is PC_CTRL_EXP_BUSY = false) ∧
    (∃ (a : Fin 8) (n : ℕ) (u : BgUnit) (s : State), s.rd (NY_BG_DL_DL_US a) ≠ 0 ∧ s.islandUp 8 = true ∧ s.bgLate a n = some u) ∧
    (∃ (a : Fin 3), a ≠ 0) ∧
    (∃ (w : Who) (len : BitVec 13) (s : State), s.serves w 0x1E1018 4 = true ∧ w.master = 256 ∧ s.is ST_XFER_STAT_BUSY = false ∧
      1 ≤ len.toNat ∧ len.toNat ≤ 4096 ∧ s.rd ST_XFER_SRAM_OFF + len.toNat ≤ 0x40000) ∧
    (∃ (w : Who) (len : BitVec 13) (s : State), s.serves w 0x1E1018 4 = true ∧ w.master = 256 ∧ s.is ST_XFER_STAT_BUSY = false ∧
      1 ≤ len.toNat ∧ s.rd ST_XFER_SRAM_OFF + len.toNat ≤ 0x40000 ∧ s.rd ST_XFER_ADDR_ADDR % 256 + len.toNat ≤ 256 ∧ s.stReadOnly = false) ∧
    (∃ (w : Who) (s : State), s.serves w 0x1E1018 4 = true ∧ w.master = 256 ∧ s.is ST_XFER_STAT_BUSY = false ∧ s.stReadOnly = false) ∧
    (∃ (w : Who) (s : State), s.serves w 0x1E1018 4 = true ∧ w.master = 256 ∧ s.is ST_XFER_STAT_BUSY = false) ∧
    (∃ (addr : ℕ) (off : ℕ) (len : ℕ) (since : ℕ) (s : State), s.kw.xfer = some ⟨1, addr, off, len, since⟩ ∧ s.islandUp 8 = true) ∧
    (∃ (w : Who) (s : State), s.serves w 0x1E103C 4 = true ∧ s.is ST_UPD_STAT_BUSY = false) ∧
    (∃ (w : Who) (s : State), s.serves w 0x1E1048 4 = true ∧ w.master = 256) ∧
    (∃ (w : Who) (s : State), s.serves w 0x1E2008 4 = true ∧ w.master = 256 ∧ s.kwStartErr = 0) ∧
    (∃ (w : Who) (s : State), s.serves w 0x1E2008 4 = true ∧ w.master = 256) ∧
    (∃ (w : Who) (s : State), s.serves w 0x1E2010 4 = true ∧ w.master = 256 ∧ s.kw.din.length < 8) ∧
    (∃ (w : Who) (s : State) (x : ℕ) (l : List ℕ), s.serves w 0x1E2014 4 = true ∧ s.kw.dout = x :: l) ∧
    (∃ (w : Who) (n : Fin 8) (s : State), s.serves w 0x1E2060 4 = true ∧ w.master = 256 ∧ n.val ≠ 0 ∧ s.haspBars = false ∧
      s.is KW_STAT_BUSY = false ∧ s.bit KW_KEY_STAT_LOCKED n = false) ∧
    (∃ (w : Who) (n : Fin 8) (s : State), s.serves w 0x1E2060 4 = true ∧ w.master = 256 ∧ n.val ≠ 0 ∧ s.haspBars = false ∧
      s.is KW_STAT_BUSY = false ∧ s.bit KW_KEY_STAT_LOCKED n = false) ∧
    (∃ (w : Who) (n : Fin 8) (s : State), s.serves w 0x1E2060 4 = true ∧ w.master = 256 ∧ n.val ≠ 0 ∧ s.haspBars = false) ∧
    (∃ (w : Who) (s : State), s.serves w 0x1E20A0 4 = true ∧ w.master = 256 ∧ s.rd SYS_STATE_MODE = 2 ∧ s.kw.fuseLock = false ∧
      s.haspBars = false ∧ s.is KW_FUSE_CTRL_PROG_BUSY = false) ∧
    (∃ (w : Who) (s : State), s.serves w 0x1F0000 4 = true ∧ s.rd PW_STAT_PHASE = 0 ∧ s.pwState = pwP1 ∧ s.throttled = false) ∧
    (∃ (w : Who) (s : State), s.serves w 0x1F0000 4 = true ∧ s.rd PW_STAT_PHASE = 0 ∧ s.pwState = pwA0) := by
  obtain ⟨-, -, -, a3, -, -, a6, -⟩ := witness_PerformanceCountersAndAgents
  obtain ⟨-, -, -, -, b4⟩ := witness_MirrorAndScrubs
  obtain ⟨c0, c1, -, c3, c4, -, -, c7, -, -, c10, -, c12, -, -, -⟩ := witness_StoreTransfersAndUpdates
  obtain ⟨d0, -, -, d3, d4, d5, -, -, -⟩ := witness_KeywardOperates
  obtain ⟨e0, e1, -, e3, e4, -, -, -, -, -, -, -⟩ := witness_KeyringFusesAndHasp
  obtain ⟨f0, f1, -, -, -, -, -, -, -⟩ := witness_PowerRequestsAndParking
  exact ⟨a3, a6, b4, c0, c1, c3, c4, c7, c10, c12, d0, d3, d4, d5, e0, e1, e3, e4, f0, f1⟩

theorem witness_CommandsComplete9 :
    (∃ (w : Who) (v : Word) (s : State), let p := bits v.toNat 8 2; s.serves w 0x1F0000 4 = true ∧ s.rd PW_STAT_PHASE = 0 ∧
      s.pwState = pwA0 ∧ s.pwQuiet pwW = true ∧ s.portOn p = true ∧ s.tMode p = false ∧ (∃ k < 8, s.is (LN_CHAN_CFG_EN (8 * p + k)) = true)) ∧
    (∃ (w : Who) (s : State), s.serves w 0x1F0000 4 = true ∧ s.rd PW_STAT_PHASE = 0 ∧ s.pwState = pwA0 ∧ s.pwQuiet pwS = true) ∧
    (∃ (w : Who) (s : State), s.serves w 0x1F0000 4 = true ∧ s.rd PW_STAT_PHASE = 0 ∧ s.pwState = pwA0 ∧ s.pwQuiet pwD = true) ∧
    (∃ (b : Fin 5) (s : State), s.pw.step = 0 ∧ 2 ≤ s.pwState ∧ wakeActs b s.pwState = true ∧ s.wakeEnabled b = true ∧
      (if b.val = 0 then s.sys.pwRet = true else s.wakeCond b = true)) ∧
    (∃ (s : State), (s.pw.step = 12 ∨ s.pw.step = 13) ∧ s.pw.target ≠ pwD) ∧
    (∃ (w : Who) (v : Word) (mid : Option (Fin 32)) (s : State) (p : Instr × ℕ × ℕ),
      let a := bits v.toNat 4 12; let force := bitN v.toNat 16 == 1; s.serves w 0x1F1000 4 = true ∧ w.master = 256 ∧
      p ∈ [(Instr.svEvacuate w v mid, 1, 2), (.svReturn w v, 2, 2), (.sliceTest w v, 8, 1)] ∧ s.svRefusal p.2.1 a force = none ∧
      ((p.2.1 = 1 → force = false))) ∧
    (∃ (w : Who) (v : Word) (s : State) (p : Instr × ℕ × ℕ),
      let a := bits v.toNat 4 12; let force := bitN v.toNat 16 == 1; s.serves w 0x1F1000 4 = true ∧ w.master = 256 ∧
      p ∈ [(Instr.fabSpare w v, 3, a), (.fabRestore w v, 4, 8)] ∧ s.svRefusal p.2.1 a force = none) ∧
    (∃ (w : Who) (v : Word) (s : State) (p : Instr × ℕ),
      let a := bits v.toNat 4 12; let force := bitN v.toNat 16 == 1; s.serves w 0x1F1000 4 = true ∧ w.master = 256 ∧
      p ∈ [(Instr.tblSpare w v, 5), (.tblRestore w v, 6)] ∧ s.svRefusal p.2 a force = none ∧ (p.2 = 6 ∨ force = false) ∧ 0 < s.copyTotal a ∧
      s.bucketServed (s.copyBucket a 0) = true) ∧
    (∃ (w : Who) (v : Word) (s : State), let a := bits v.toNat 4 12; let force := bitN v.toNat 16 == 1; s.serves w 0x1F1000 4 = true ∧
      w.master = 256 ∧ s.svRefusal 7 a force = none) ∧
    (∃ (w : Who) (s : State), s.serves w 0x1F1000 4 = true ∧ w.master = 256 ∧ s.svAbortable = true) ∧
    (∃ (p : Fin 4) (s : State), s.sliceOf p = some p.val ∧ s.islandRuns p = true ∧ s.islandRuns 8 = true ∧ mapWf fieldReset s.flds = true) ∧
    (∃ (s : State), s.evacAt 7 = true ∧ s.islandRuns s.evacTo = true) ∧
    (∃ (s : State), s.sv.op = opSLICE_TEST) ∧
    (∃ (s : State), s.is KW_HASP_GNT = true) ∧
    (∃ (s : State), s.start = stBOOT ∧ s.islandRuns 8 = true) ∧
    (∃ (d : Deliv) (u : State) (s : State), s.response .sdRead = some (d, u) ∧ s.start = stLOAD_SD ∧ d.resp = .okay ∧
      (s.sdCheck d.data false).1 = 0) ∧
    (∃ (s : State), s.start = stBRINGUP ∧ s.mainIslands = true ∧
      ((∀ i : Fin 4, s.sliceUsed i = false ∨ s.islandRuns i = true ∨ s.sys.sliceOut.getLsbD i = true))) ∧
    (∃ (s : State), s.start = stBRINGUP ∧ s.mainIslands = false) ∧
    (∃ (s : State), s.start = stREADY ∧ s.sys.hbRunning = true ∧ s.rd PW_STAT_STATE ≤ 1) ∧
    (∃ (s : State), s.sys.hbDeferred = true ∧ s.hbCan = true) := by
  obtain ⟨-, -, a2, a3, a4, -, -, -, -⟩ := witness_PowerRequestsAndParking
  obtain ⟨b0, -, -, -, b4, -, -⟩ := witness_WakeAndExit
  obtain ⟨-, -, c2, -, c4, c5, -, c7, c8, -⟩ := witness_ServiceOperationsStart
  obtain ⟨d0, -, -, -, -⟩ := witness_MirrorAndScrubs
  obtain ⟨-, -, -, -, -, -, -, -, e8, -, -, -, -⟩ := witness_EvacuationSteps
  obtain ⟨-, -, -, -, -, -, -, f7, -⟩ := witness_SparesSwitch
  obtain ⟨g0, -, -, -, -, -⟩ := witness_HaltsAndCycleWalks
  obtain ⟨-, h1, -, -, -, -, -, h7, h8, h9, -⟩ := witness_StartUp
  obtain ⟨-, -, -, i3, i4, -, -, -, -, -, -⟩ := witness_ManagementResetsHeartbeatAndSurroundings
  exact ⟨a2, a3, a4, b0, b4, c2, c4, c5, c7, c8, d0, e8, f7, g0, h1, h7, h8, h9, i3, i4⟩

theorem witness_CommandsComplete10 :
    (∃ (d : Deliv) (u : State) (s : State), s.response .heartbeat = some (d, u)) ∧
    (∃ (s : State), s.coreUp = true) ∧
    (∃ (d : Deliv) (rest : List Deliv) (l : Lookup) (e : ℕ × ℕ) (f : RxFr) (s : State), s.islandRuns 7 = true ∧
      takeFirst (fun d => d.kind == .tblLookup || d.kind == .tblUpdRead || d.kind == .tblCopyRead) s.fab.done = some (d, rest) ∧
      d.kind = .tblLookup ∧ d.resp = .okay ∧ s.tbl.stale.contains (d.a, d.b) = false ∧ whole (entsOf d.data) = true ∧ s.cline d.b = none ∧
      s.lookup d.a = some l ∧ l.result = none ∧ l.bucket = d.b ∧ matchIn (entsOf d.data) l.type l.sig (b2n l.second) = some e ∧
      s.rxf d.a = some f) ∧
    (∃ (d : Deliv) (u : State) (f : RxFr) (s : State), s.response .rxData = some (d, u) ∧ s.rxf d.a = some f ∧ 2 ≤ f.left) ∧
    (∃ (d : Deliv) (r : List Deliv) (f : RxFr) (s : State), s.coreUp = true ∧
      takeFirst (fun d => d.kind == .rxCmpl || d.kind == .txCmpl || d.kind == .event) s.fab.done = some (d, r) ∧ d.kind = .rxCmpl ∧
      d.resp = .okay ∧ s.rxf d.a = some f) ∧
    (∃ (k : ℕ) (s : State), s.islandRuns 5 = true ∧ s.fetchTurn = some k) ∧
    (∃ (d : Deliv) (r : List Deliv) (s : State), s.coreUp = true ∧ takeFirst s.descReady s.fab.done = some (d, r) ∧ d.a < 32768 ∧
      (s.q d.a).poison = false ∧ d.resp = .okay) ∧
    (∃ (id : ℕ) (f : TxFr) (s : State), s.islandRuns 5 = true ∧
      s.fetchPick [] ((s.txs.filter (fun e => e.2.stage == .accepted)).mergeSort (fun a b => a.2.order ≤ b.2.order)) = some (id, f)) ∧
    (∃ (d : Deliv) (u : State) (f : TxFr) (s : State), s.response .dataFetch = some (d, u) ∧ s.txf d.a = some f ∧ f.stage = .fetching ∧
      f.left = 1 ∧ f.bad = false ∧ d.resp = .okay) ∧
    (∃ (s : State), s.is CL_CTRL_CLEAR_BUSY = true ∧ s.awaits .tblClear = false ∧ s.islandRuns 7 = true) ∧
    (∃ (d : Deliv) (rest : List Deliv) (x : LineC) (o : UpdOp) (s : State), s.islandRuns 7 = true ∧
      takeFirst (fun d => d.kind == .tblUpdWrite || d.kind == .tblClear || d.kind == .tblCopyWrite) s.fab.done = some (d, rest) ∧
      d.kind = .tblUpdWrite ∧ d.resp = .okay ∧ s.cline d.a = some x ∧ s.tbl.ops = [o] ∧ o.decided = true ∧ o.writes = 1 ∧ o.todo = [] ∧
      o.op = 1 ∧ o.cmd = none) ∧
    (∃ (b : ℕ) (e : ℕ) (l : List (ℕ × ℕ)) (s : State), s.tbl.ops = [] ∧ s.tbl.stash = (b, e) :: l ∧ s.is CL_CTRL_EN = true ∧
      s.islandRuns 7 = true ∧ s.cline b = none ∧ s.bucketServed b = true) ∧
    (∃ (s : State), s.coreUp = true ∧ mapWf (fun _ => {}) s.shaps = true) ∧
    (∃ (d : Deliv) (u : State) (s : State), s.response .notify = some (d, u)) ∧
    (∃ (d : Deliv) (u : State) (s : State), s.response .cmdRead = some (d, u) ∧ d.a = 0 ∧ d.resp = .okay ∧
      knownOps.contains (byteAt d.data 0) = true) ∧
    (∃ (d : Deliv) (u : State) (s : State), s.response .cmdCmpl = some (d, u)) ∧
    (∃ (e : List Byte) (s : State) (p : Instr × ℕ × List (ℕ × ℕ × ℕ)), s.ring.heads = [e] ∧ s.cmdMayStart e = true ∧ s.islandRuns 5 = true ∧
      s.is HR_CMD_CFG_EN = true ∧
      p ∈ [(Instr.cmdNop, 0, []),
        (.ctxCreate, 1, [(8, 0, 7), (9, 0, 7)]), (.ctxDestroy, 2, []), (.ctxReset, 3, [(8, 0, 1)]), (.ctxFreeze, 4, []), (.ctxSave, 5, [(8, 0,
        64)]), (.ctxRestore, 6, [(8, 0, 64)]), (.ctxResume, 7, []), (.dirtyStart, 8, [(8, 0, 64), (0x10, 0, 64), (0x18, 0, 32)]), (.dirtyStop, 9,
        []), (.txqSetup, 0x10, setupMask), (.rxqSetup, 0x11, setupMask), (.qStop, 0x12, [(8, 0, 6), (8, 6, 1)]), (.qRestart, 0x13, [(8, 0, 6), (8,
        6, 1)]), (.qTeardown, 0x14, [(8, 0, 6), (8, 6, 1)]), (.evqSetup, 0x15, [(9, 0, 4), (10, 0, 6), (10, 6, 1), (0x10, 0, 64)]), (.evqTeardown,
        0x16, []), (.vecSet, 0x17, [(8, 0, 6), (8, 6, 1), (9, 0, 8), (10, 0, 16), (12, 0, 32), (0x10, 0, 64)]), (.epInsert, 0x20, [(8, 0, 320),
        (0x30, 0, 28)]), (.epDelete, 0x21, [(8, 0, 320)]), (.epModify, 0x22, [(8, 0, 320), (0x30, 0, 28)]), (.epQuery, 0x23, [(8, 0, 320)]),
        (.shaperSet, 0x30, [(8, 0, 15), (10, 0, 1), (12, 0, 32), (0x10, 0, 24), (0x14, 0, 9), (0x18, 0, 14)])] ∧
      byteAt e 0 = p.2.1 ∧ (p.1 = .cmdNop ∨ (cmdOf e).formOk p.2.2 = false)) ∧
    (∃ (e : List Byte) (s : State) (a : List ℕ × List ℕ), let c := cmdOf e; let x := c.ctx; s.ring.heads = [e] ∧ s.cmdMayStart e = true ∧
      s.islandRuns 5 = true ∧ s.is HR_CMD_CFG_EN = true ∧ s.shaps.all (fun y => y.2.cmd.isNone) = true ∧ byteAt e 0 = 1 ∧
      c.formOk [(8, 0, 7), (9, 0, 7)] = true ∧ c.f 8 0 7 ≤ 64 ∧ c.f 9 0 7 ≤ 64 ∧ (s.ctx x).state = cFREE ∧ (s.ctx x).closing = none ∧
      (∀ d ∈ s.ring.active, d.2.op ≠ 6) ∧ s.allocQueues (c.f 8 0 7) (c.f 9 0 7) = some a) ∧
    (∃ (e : List Byte) (s : State),
      let c := cmdOf e; let x := c.ctx; let ok : Bool := (s.ctx x).state == cACTIVE && (s.ctx x).evr.isNone && (s.ctxQueues x).all (fun k => (s.q k).state == qUNSET); s.ring.heads = [e] ∧
      s.cmdMayStart e = true ∧ s.islandRuns 5 = true ∧ s.is HR_CMD_CFG_EN = true ∧ s.shaps.all (fun y => y.2.cmd.isNone) = true ∧
      byteAt e 0 = 2 ∧ c.formOk [] = true ∧ x ≠ 0 ∧ ok = true ∧ s.slotsTaken < 64 ∧ s.inFlight x = false ∧
      s.awaitsFor .dirtyMark x = false ∧ (s.ctx x).dirty.bind (·.stopCmd) = none) ∧
    (∃ (e : List Byte) (s : State), let c := cmdOf e; let x := c.ctx; s.ring.heads = [e] ∧ s.cmdMayStart e = true ∧ s.islandRuns 5 = true ∧
      s.is HR_CMD_CFG_EN = true ∧ s.shaps.all (fun y => y.2.cmd.isNone) = true ∧ byteAt e 0 = 3 ∧ c.formOk [(8, 0, 1)] = true ∧
      ((s.ctx x).state = cACTIVE ∨ (s.ctx x).state = cFROZEN)) := by
  obtain ⟨-, -, -, -, -, -, a6, -, -, -, -⟩ := witness_ManagementResetsHeartbeatAndSurroundings
  obtain ⟨b0, -, -, -, -, -⟩ := witness_SecondsAndOverhead
  obtain ⟨-, -, -, c3, -, -, -⟩ := witness_LookupsGiveVerdicts
  obtain ⟨-, -, -, -, -, -, -, d7, -⟩ := witness_ReceiveFramesToBuffers
  obtain ⟨e0, e1, -, e3, e4, -, -, -, e8, -, -⟩ := witness_FetchesAndCompletions
  obtain ⟨-, -, -, f3, -⟩ := witness_ClassifierEnableAndClear
  obtain ⟨-, -, -, -, -, g5, -, g7⟩ := witness_TableUpdates
  obtain ⟨-, -, -, h3, -, -, -, -⟩ := witness_MetersAndShapers
  obtain ⟨-, -, -, -, -, -, -, -, i8⟩ := witness_DoorbellsQueueEndsAndNotifies
  obtain ⟨-, -, -, j3, -, -, j6, -, -⟩ := witness_CommandRing
  obtain ⟨k0, -, -, -, -, k5, -, -, k8, -, -, -, -, -⟩ := witness_ContextCommands
  exact ⟨a6, b0, c3, d7, e8, e0, e1, e3, e4, f3, g5, g7, h3, i8, j3, j6, ⟨cmdE 0 0 [], cmdS (cmdE 0 0 []) ready, (.cmdNop, 0, []), by decide +kernel⟩, k0, k5, k8⟩

theorem witness_CommandsComplete11 :
    (∃ (e : List Byte) (s : State), let c := cmdOf e; let x := c.ctx; s.ring.heads = [e] ∧ s.cmdMayStart e = true ∧ s.islandRuns 5 = true ∧
      s.is HR_CMD_CFG_EN = true ∧ s.shaps.all (fun y => y.2.cmd.isNone) = true ∧ byteAt e 0 = 4 ∧ c.formOk [] = true ∧
      (s.ctx x).state = cACTIVE) ∧
    (∃ (e : List Byte) (s : State), let c := cmdOf e; s.ring.heads = [e] ∧ s.cmdMayStart e = true ∧ s.islandRuns 5 = true ∧
      s.is HR_CMD_CFG_EN = true ∧ byteAt e 0 = 5 ∧ c.formOk [(8, 0, 64)] = true ∧ addrOk (c.f 8 0 64) 4096 = true ∧
      (s.ctx c.ctx).state = cFROZEN) ∧
    (∃ (e : List Byte) (s : State), let c := cmdOf e; s.ring.heads = [e] ∧ s.cmdMayStart e = true ∧ s.islandRuns 5 = true ∧
      s.is HR_CMD_CFG_EN = true ∧ byteAt e 0 = 6 ∧ c.formOk [(8, 0, 64)] = true ∧ addrOk (c.f 8 0 64) 4096 = true ∧
      (s.ctx c.ctx).state = cFREE ∧ (s.ctx c.ctx).closing = none ∧ (∀ d ∈ s.ring.active, d.2.op ≠ 6)) ∧
    (∃ (e : List Byte) (s : State), let c := cmdOf e; let x := c.ctx; s.ring.heads = [e] ∧ s.cmdMayStart e = true ∧ s.islandRuns 5 = true ∧
      s.is HR_CMD_CFG_EN = true ∧ s.shaps.all (fun y => y.2.cmd.isNone) = true ∧ byteAt e 0 = 7 ∧ c.formOk [] = true ∧
      (s.ctx x).state = cFROZEN) ∧
    (∃ (e : List Byte) (s : State), let c := cmdOf e; let x := c.ctx; s.ring.heads = [e] ∧ s.cmdMayStart e = true ∧ s.islandRuns 5 = true ∧
      s.is HR_CMD_CFG_EN = true ∧ byteAt e 0 = 8 ∧ c.formOk [(8, 0, 64), (0x10, 0, 64), (0x18, 0, 32)] = true ∧
      addrOk (c.f 8 0 64) 64 = true ∧ addrOk (c.f 0x10 0 64) 4096 = true ∧ c.f 0x18 0 32 ≠ 0 ∧
      ((s.ctx x).state = cACTIVE ∧ s.rd SYS_STATE_MODE ≠ 0 ∧ s.sys.pendingMode ≠ some 0 ∧ (s.ctx x).dirty = none)) ∧
    (∃ (e : List Byte) (s : State) (p : Instr × ℕ × List (ℕ × ℕ × ℕ)),
      let c := cmdOf e; let key := (e.drop 8).take 40; let out := toeplitz (beNat key 0 40) s.hkey; let vd := if p.2.1 = 1 ∨ p.2.1 = 3 then c.ctx + 2 ^ 12 * c.f 0x30 0 28 else 0; s.ring.heads = [e] ∧
      s.cmdMayStart e = true ∧ s.islandRuns 5 = true ∧ s.is HR_CMD_CFG_EN = true ∧
      p ∈ [(Instr.epInsert, 1, [(8, 0, 320), (0x30, 0, 28)]), (.epDelete, 2, [(8, 0, 320)]), (.epModify, 3, [(8, 0, 320), (0x30, 0, 28)]),
        (.epQuery, 4, [(8, 0, 320)])] ∧
      byteAt e 0 = 0x1F + p.2.1 ∧ c.formOk p.2.2 = true ∧ s.tbl.ops = [] ∧ 1 ≤ byteAt key 0 ∧ byteAt key 0 ≤ 6 ∧ s.is CL_CTRL_EN = true ∧
      s.cline (hashH1 out) = none ∧ s.bucketServed (hashH1 out) = true ∧
      ((p.2.1 = 1 ∨ p.2.1 = 3 → bits vd 33 3 < 3 ∧ (s.ctx (bits vd 0 12)).state ≠ cFREE ∧ (s.poolQ (bits vd 0 12) (bits vd 12 6) true).isSome = true))) ∧
    (∃ (e : List Byte) (s : State) (i : ℕ), let c := cmdOf e; s.ring.heads = [e] ∧ s.cmdMayStart e = true ∧ s.islandRuns 5 = true ∧
      s.is HR_CMD_CFG_EN = true ∧ byteAt e 0 = 0x30 ∧
      c.formOk [(8, 0, 15), (10, 0, 1), (12, 0, 32), (0x10, 0, 24), (0x14, 0, 9), (0x18, 0, 14)] = true ∧ c.shaper s = some i ∧
      (if c.f 10 0 1 = 1 then c.f 0x14 0 9 = 0 else c.f 0x18 0 14 = 0) ∧ (s.shap i).locked = false ∧ 32768 ≤ i) ∧
    (∃ (r : Deliv) (u : State) (d : DirtySt) (s : State), s.response .dirtyMark = some (r, u) ∧ (s.ctx r.a).dirty = some d ∧
      r.resp ≠ .okay ∧ d.fault = false ∧ d.stopping = false) ∧
    (∃ (s : State) (m : ℕ), s.nextWalk = some m ∧ s.islandUp 8 = true) ∧
    (∃ (n : ℕ) (s : State), s.led.nextCut = some n ∧ s.coreUp = true ∧ s.sleepLoad = false ∧ s.is LG_STAT_PENDING = false ∧
      s.led.win = none) ∧
    (∃ (w : WinSt) (s : State), s.led.win = some w ∧ s.coreUp = true) ∧
    (∃ (s : State), s.recordDue = true ∧ s.islandRuns 5 = true) ∧
    (∃ (d : Deliv) (u : State) (s : State), s.response .ledger = some (d, u) ∧ d.a = 0 ∧ d.resp = .okay) ∧
    (∃ (p : TmStep) (s : State), s.coreUp = true ∧ s.tm.step = some p ∧ p.due ≤ s.tm.cyc + s.cyclesToMultiple 1024) ∧
    (∃ (s : State), s.coreUp = true ∧ s.timeRef ≠ 0 ∧ s.edgeAccepted s.edgeValue = true) ∧
    (∃ (s : State), s.coreUp = true ∧ s.timeRef ≠ 0 ∧ s.is TM_CTRL_PPS_EN = true) ∧
    (∃ (s : State), s.mtip = false ∧ s.sys.aonRstN = true ∧ s.rd PW_STAT_STATE ≠ 4 ∧ s.tm.sub25 < 64 ∧
      s.rd64 NY_MTIMECMP_LO_CMP NY_MTIMECMP_HI_CMP < 2 ^ 64) ∧
    (∃ (p : LogPost) (l : List LogPost) (s : State), s.ny.hwq = p :: l ∧ s.rd PW_STAT_STATE ≠ 4 ∧ s.sys.aonRstN = true) ∧
    (∃ (d : Deliv) (u : State) (s : State), s.response .pcExport = some (d, u) ∧ s.ny.expLeft = 1) ∧
    (∃ (o : KwOp) (s : State), s.islandUp 8 = true ∧ s.kw.op = some o ∧ 16 ≤ o.left ∧ 1 < o.blocks ∧ 4 ≤ s.kw.din.length ∧
      s.kw.dout.length ≤ 4) := by
  obtain ⟨-, -, -, -, -, -, -, -, -, -, a10, -, a12, -⟩ := witness_ContextCommands
  obtain ⟨b0, -, -, b3, -, -, -, -, -⟩ := witness_ContextImages
  obtain ⟨-, -, -, -, -, c5, -, -⟩ := witness_EndpointAndShaperCommands
  obtain ⟨-, -, -, -, -, d5, -⟩ := witness_DirtyPageLogging
  obtain ⟨-, -, -, -, e4, -⟩ := witness_HaltsAndCycleWalks
  obtain ⟨f0, -, -, -, -, f5, -⟩ := witness_CutsOpenAndClose
  obtain ⟨g0, -, g2, -, -, -, -, -, -⟩ := witness_RecordsReachTheRing
  obtain ⟨-, h1, -, -, h4, h5, -, -, -, -, -⟩ := witness_ReferencesKeepTime
  obtain ⟨-, -, -, -, -, -, i6, -⟩ := witness_CheckUnitsAndMonitors
  obtain ⟨j0, -, -, -, -, -, -⟩ := witness_EventLogInOrder
  obtain ⟨-, -, -, -, k4, -, -, -⟩ := witness_PerformanceCountersAndAgents
  obtain ⟨-, -, -, -, -, -, l6, -, -⟩ := witness_KeywardOperates
  exact ⟨a10, b0, b3, a12, ⟨cmdE 8 0 [(8, 0x40), (0x11, 0x10), (0x18, 9)], ctx0 (cmdS (cmdE 8 0 [(8, 0x40), (0x11, 0x10), (0x18, 9)]) (wrs ready [(SYS_STATE_MODE, 1)])), by decide +kernel⟩, ⟨cmdE 0x20 0 [(8, 1)], { (tblCtx [(CL_CTRL_EN, 1)]) with ring := { heads := [cmdE 0x20 0 [(8, 1)]] }, flds := (cmdS [] (wrs ready [(CL_CTRL_EN, 1)])).flds }, (.epInsert, 1, [(8, 0, 320), (0x30, 0, 28)]), by decide +kernel⟩, c5, d5, e4, f0, f5, g0, g2, h1, h4, h5, i6, j0, k4, l6⟩

theorem witness_CommandsComplete12 :
    (∃ (s : State), s.islandUp 8 = true) ∧
    (∃ (s : State), s.is KW_FUSE_CTRL_PROG_BUSY = true ∧ s.islandUp 8 = true) ∧
    (∃ (s : State), s.islandUp 8 = true) ∧
    (∃ (s : State), s.kw.haspServe = true ∧ s.kw.haspPin = true ∧ s.zeroised = true ∧ s.islandUp 8 = true ∧ s.rd PW_STAT_STATE ≤ 1) ∧
    (∃ (s : State), s.islandUp 8 = true) ∧
    (∃ (s : State), s.pw.step = 2 ∧ (∀ r ∈ s.fab.reqs, r.tag = none)) ∧
    (∃ (s : State), s.pw.step = 5) ∧
    (∃ (s : State), s.pw.step = 7 ∧ s.pw.held = false ∧ s.pw.target ≤ 4) ∧
    (∃ (s : State), (s.pw.step = 7 ∨ s.pw.step = 22)) ∧
    (∃ (s : State), s.sys.aonRstN = true ∧ s.aon ≤ s.rd64 PW_TIMER_LO_COUNT PW_TIMER_HI_COUNT % 2 ^ 48 ∧ s.tm.sub32 < 1600000000 ∧
      s.pw.step = 0 ∧ ((s.pwState = pwW ∨ s.pwState = pwS ∨ s.pwState = pwD)) ∧ s.bit PW_WAKE_EN_EN 3 = true) ∧
    (∃ (s : State), s.pw.step = 14 ∧ s.exitReady = true ∧ s.pw.park = false) ∧
    (∃ (s : State), s.pw.step = 21 ∧ (∀ e ∈ s.chs, e.2.line = .idle) ∧ ((∀ e ∈ s.rxs, e.2.stage ≠ .slice ∧ e.2.stage ≠ .released))) ∧
    (∃ (s : State), s.evacAt 2 = true ∧ s.sv.force = true ∧ s.sv.op = opEVACUATE) ∧
    (∃ (s : State), s.evacAt 3 = true ∧ s.portAligned s.sv.arg = true ∧ s.islandRuns s.evacTo = true) ∧
    (∃ (s : State), s.evacAt 5 = true ∧ s.islandRuns s.evacTo = true) ∧
    (∃ (s : State), s.evacAt 6 = true ∧ s.portStaged s.sv.arg = false) ∧
    (∃ (s : State), s.evacAt 6 = true) ∧
    (∃ (s : State), s.sv.op = opFAB_SPARE ∧ s.fab.reqs.all (fun r => r.x != s.sv.arg || r.tag.isNone) = true) ∧
    (∃ (s : State), s.sv.op = opTBL_SPARE ∧ s.sv.arg < 6 ∧ (s.sv.step = 2 ∨ s.rd SV_COPY_BUCKETS = s.copyTotal s.sv.arg) ∧
      s.fab.reqs.all (fun r => r.x != 9 + s.sv.arg || r.tag.isNone) = true) ∧
    (∃ (r : ℕ) (s : State), s.sv.row = some r) := by
  obtain ⟨-, -, -, -, -, -, -, a7, -⟩ := witness_KeywardOperates
  obtain ⟨-, -, -, -, -, -, b6, b7, -, b9, b10, -⟩ := witness_KeyringFusesAndHasp
  obtain ⟨c0, c1, c2, -, -, -, c6⟩ := witness_PowerEntry
  obtain ⟨-, -, d2, -, -, -, d6⟩ := witness_WakeAndExit
  obtain ⟨-, -, -, -, -, -, e6, -, -⟩ := witness_PowerRequestsAndParking
  obtain ⟨-, f1, -, f3, f4, f5, -, f7, -, -, -, -, -⟩ := witness_EvacuationSteps
  obtain ⟨g0, -, -, g3, -, g5, -, -, -⟩ := witness_SparesSwitch
  exact ⟨a7, b6, b7, b9, b10, c0, c1, c2, c6, d2, d6, e6, f1, f3, f4, f5, f7, g0, g3, g5⟩

theorem witness_CommandsComplete13 :
    (∃ (s : State), s.islandUp 8 = true) ∧
    (∃ (e : List Byte) (s : State) (d : DirtySt), let c := cmdOf e; let x := c.ctx; s.ring.heads = [e] ∧ s.cmdMayStart e = true ∧
      s.islandRuns 5 = true ∧ s.is HR_CMD_CFG_EN = true ∧ byteAt e 0 = 9 ∧ c.formOk [] = true ∧ (s.ctx x).dirty = some d ∧
      d.stopping = false ∧ s.awaitsFor .dirtyMark x = false) ∧
    (∃ (e : List Byte) (s : State) (p : Instr × ℕ × Bool) (k : ℕ), let c := cmdOf e; let x := c.ctx; s.ring.heads = [e] ∧
      s.cmdMayStart e = true ∧ s.islandRuns 5 = true ∧ s.is HR_CMD_CFG_EN = true ∧
      p ∈ [(Instr.txqSetup, 0x10, false), (.rxqSetup, 0x11, true)] ∧ byteAt e 0 = p.2.1 ∧ c.formOk setupMask = true ∧
      setupForm p.2.2 c s = true ∧ s.poolQ x (c.f 8 0 6) p.2.2 = some k) ∧
    (∃ (e : List Byte) (s : State) (k : ℕ), let c := cmdOf e; s.ring.heads = [e] ∧ s.cmdMayStart e = true ∧ s.islandRuns 5 = true ∧
      s.is HR_CMD_CFG_EN = true ∧ c.formOk [(8, 0, 6), (8, 6, 1)] = true ∧ c.queue s = some k ∧ byteAt e 0 = 0x12) ∧
    (∃ (e : List Byte) (s : State) (k : ℕ), let c := cmdOf e; s.ring.heads = [e] ∧ s.cmdMayStart e = true ∧ s.islandRuns 5 = true ∧
      s.is HR_CMD_CFG_EN = true ∧ c.formOk [(8, 0, 6), (8, 6, 1)] = true ∧ c.queue s = some k ∧ byteAt e 0 = 0x13) ∧
    (∃ (e : List Byte) (s : State) (k : ℕ), let c := cmdOf e; s.ring.heads = [e] ∧ s.cmdMayStart e = true ∧ s.islandRuns 5 = true ∧
      s.is HR_CMD_CFG_EN = true ∧ c.formOk [(8, 0, 6), (8, 6, 1)] = true ∧ c.queue s = some k ∧ byteAt e 0 = 0x14) ∧
    (∃ (e : List Byte) (s : State), let c := cmdOf e; s.ring.heads = [e] ∧ s.cmdMayStart e = true ∧ s.islandRuns 5 = true ∧
      s.is HR_CMD_CFG_EN = true ∧ byteAt e 0 = 0x15 ∧ c.formOk [(9, 0, 4), (10, 0, 6), (10, 6, 1), (0x10, 0, 64)] = true ∧ 6 ≤ c.f 9 0 4 ∧
      addrOk (c.f 0x10 0 64) 64 = true) ∧
    (∃ (e : List Byte) (s : State), let c := cmdOf e; s.ring.heads = [e] ∧ s.cmdMayStart e = true ∧ s.islandRuns 5 = true ∧
      s.is HR_CMD_CFG_EN = true ∧ byteAt e 0 = 0x16 ∧ c.formOk [] = true) ∧
    (∃ (e : List Byte) (s : State), let c := cmdOf e; s.ring.heads = [e] ∧ s.cmdMayStart e = true ∧ s.islandRuns 5 = true ∧
      s.is HR_CMD_CFG_EN = true ∧ byteAt e 0 = 0x17 ∧
      c.formOk [(8, 0, 6), (8, 6, 1), (9, 0, 8), (10, 0, 16), (12, 0, 32), (0x10, 0, 64)] = true ∧ addrOk (c.f 0x10 0 64) 4 = true) ∧
    (∃ (d : Deliv) (u : State) (c : CmdSt) (s : State), s.response .imageWrite = some (d, u) ∧ optGet s.ring.active d.a = some c ∧
      s.is HR_CMD_CFG_EN = true) ∧
    (∃ (d : Deliv) (u : State) (c : CmdSt) (s : State) (a : List ℕ × List ℕ),
      let n := leNat d.data 0x00C 4; s.response .imageRead = some (d, u) ∧ d.resp = .okay ∧ imageBad d.data = none ∧
      optGet s.ring.active d.a = some c ∧ s.is HR_CMD_CFG_EN = true ∧ s.shaps.all (fun y => y.2.cmd.isNone) = true ∧
      s.allocQueues (bits n 0 7) (bits n 8 7) = some a) := by
  obtain ⟨-, -, -, -, -, -, -, -, a8⟩ := witness_KeywardOperates
  obtain ⟨-, -, b2, -, -, -, -⟩ := witness_DirtyPageLogging
  obtain ⟨c0, c1, c2, c3, c4, c5, c6⟩ := witness_QueueCommands
  obtain ⟨-, -, d2, -, -, -, -, d7, -⟩ := witness_ContextImages
  exact ⟨a8, b2, c0, c1, c2, c3, c4, c5, c6, d2, d7⟩

end Sys2Proof.Tests
end

section
/-! SUPPORT. Operations of the core, of the frame buffer, of pairs and groups and of the framers leave the registers below 0x040000, those of
the system and of the lanes: every field they write lies above. One lemma per operation, in the order of the model. -/

namespace Sys2Proof.Proofs

open Sys2Proof.Machine Sys2Proof.Laws

set_option Elab.async false

/-- The registers below 0x040000, those of the system and of the lanes, hold in `t` what they held in `s`. -/
def LowKept (s t : State) : Prop := ∀ k < 0x040000 * 32, mapGet fieldReset t.flds k = mapGet fieldReset s.flds k

/-- Any fields above 0x040000 may change. -/
theorem lowKept_of_kept {fs : List Fld} {s t : State} (hfs : ∀ f ∈ fs, 0x040000 ≤ f.off) (h : Kept fs s t) : LowKept s t :=
  fun k hk => h k fun hm => by
    obtain ⟨f, hf, rfl⟩ := List.mem_map.mp hm
    have := hfs f hf
    simp only [Fld.key] at hk
    omega

namespace LowKept

variable {a b s t : State}

theorem refl (s : State) : LowKept s s := fun _ _ => rfl

theorem trans (h : LowKept a b) (g : LowKept b s) : LowKept a s := fun k hk => (g k hk).trans (h k hk)

/-- A change outside the registers. -/
theorem same (h : LowKept a s) (e : t.flds = s.flds := by rfl) : LowKept a t := fun k hk => by rw [e]; exact h k hk

theorem ite {c : Prop} [Decidable c] (h : LowKept a s) (g : LowKept a t) : LowKept a (if c then s else t) := by
  split <;> assumption

theorem each {α : Type} {l : List α} {f : State → α → State} (h : LowKept a s) (hf : ∀ t x, LowKept a t → LowKept a (f t x)) :
    LowKept a (s.each l f) := by
  unfold State.each
  induction l generalizing s with
  | nil => exact h
  | cons x l ih => exact ih (hf s x h)

/-! ## Writes of a field above 0x040000 -/

section
variable {o lo w : Nat} (h : LowKept a s) (ho : 0x040000 ≤ o := by omega)
include h ho

theorem wr {v : Nat} : LowKept a (s.wr ⟨o, lo, w⟩ v) :=
  h.trans (lowKept_of_kept (fs := [⟨o, lo, w⟩]) (by simpa using ho) (kept_wr _ _ (by simp) (kept_refl s)))

theorem put {v : Bool} : LowKept a (s.put ⟨o, lo, w⟩ v) := h.wr ho
theorem bump {n : Nat} : LowKept a (s.bump ⟨o, lo, w⟩ n) := h.wr ho
theorem raise : LowKept a (s.raise ⟨o, lo, w⟩) := h.wr ho
theorem setBit {i : Nat} : LowKept a (s.setBit ⟨o, lo, w⟩ i) := h.wr ho

end

theorem wr64 {o lo w o' lo' w' v : Nat} (h : LowKept a s) (ho : 0x040000 ≤ o := by omega) (ho' : 0x040000 ≤ o' := by omega) :
    LowKept a (s.wr64 ⟨o, lo, w⟩ ⟨o', lo', w'⟩ v) := (h.wr ho).wr ho'

theorem bump64 {o lo w o' lo' w' n : Nat} (h : LowKept a s) (ho : 0x040000 ≤ o := by omega) (ho' : 0x040000 ≤ o' := by omega) :
    LowKept a (s.bump64 ⟨o, lo, w⟩ ⟨o', lo', w'⟩ n) := h.wr64 ho ho'

/-! ## Setters of the units -/

section
variable (h : LowKept a s) {i : Nat}
include h

theorem setCh {x : ChSt} : LowKept a (s.setCh i x) := h.same
theorem setFr {x : FrSt} : LowKept a (s.setFr i x) := h.same
theorem setGrp {x : GrpSt} : LowKept a (s.setGrp i x) := h.same
theorem setGfp {x : GfpSt} : LowKept a (s.setGfp i x) := h.same
theorem setPair {x : PairSt} : LowKept a (s.setPair i x) := h.same
theorem setQ {x : QSt} : LowKept a (s.setQ i x) := h.same
theorem setRx {x : RxFr} : LowKept a (s.setRx i x) := h.same
theorem delRx : LowKept a (s.delRx i) := h.same
theorem setTx {x : TxFr} : LowKept a (s.setTx i x) := h.same
theorem delTx : LowKept a (s.delTx i) := h.same

end

/-! ## Performance events and the setup port -/

theorem pcEvent {e : Nat} {x : PcAttr} {n : Nat} (h : LowKept a s) : LowKept a (s.pcEvent e x n) :=
  h.trans (lowKept_of_kept (by simp [pcFields, PC_CNT_LO_COUNT, PC_CNT_HI_COUNT, PC_OVF_OVF, NY_EVT_PC_OVF]; omega)
    (kept_pcEvent s e x n))

theorem crossed {x n : Nat} (h : LowKept a s) : LowKept a (s.crossed x n) := h.wr.wr

theorem settleBeats (h : LowKept a s) : LowKept a s.settleBeats :=
  .each h.same fun _ _ ht => .ite ht.bump64 (.ite ht.pcEvent.crossed ht.pcEvent)

theorem spCount {w : Who} {wr : Bool} {off : Nat} (h : LowKept a s) : LowKept a (s.spCount w wr off) :=
  h.trans (lowKept_of_kept (by decide) (kept_spCount s w wr off))

/-! ## Cells of the frame buffer -/

theorem fbAudit (h : LowKept a s) : LowKept a s.fbAudit := .ite h h.raise.wr.wr

theorem fbSet {f : FbSt} (h : LowKept a s) : LowKept a (s.fbSet f) := by
  have h' : LowKept a { s with fb := f } := h.same
  exact h'.wr.wr.wr.fbAudit

theorem fbFreeTx {n : Nat} (h : LowKept a s) : LowKept a (s.fbFreeTx n) := h.fbSet
theorem fbFreeHinge {n : Nat} (h : LowKept a s) : LowKept a (s.fbFreeHinge n) := h.fbSet

/-! ## The ledger -/

theorem ledAudit {code ctx : Nat} {tx : Bool} (h : LowKept a s) : LowKept a (s.ledAudit code tx ctx) := by
  unfold State.ledAudit
  extract_lets d s1
  have hd : LowKept a d.2 := by unfold d; split <;> exact h.same
  have h1 : LowKept a s1 := h.ite hd.wr.put.wr.wr.raise
  refine h1.ite ?_
  split <;> exact h1.same

theorem ledCheck {tx : Bool} (h : LowKept a s) : LowKept a (s.ledCheck tx) := h.ite h.ledAudit

theorem ledLate {ctx : Nat} (h : LowKept a s) : LowKept a (s.ledLate ctx) := by
  have h1 : LowKept a ((s.bump LG_LATE_COUNT).raise LG_EVT_LATE) := h.bump.raise
  unfold State.ledLate
  dsimp only
  split <;> exact h1.same

theorem ledCount {ctx inst i len : Nat} {tx : Bool} (h : LowKept a s) : LowKept a (s.ledCount ctx tx inst i len) := .ite h.same h.same

theorem ledDrop {id ctx inst cause len : Nat} {tx : Bool} (h : LowKept a s) : LowKept a (s.ledDrop id ctx tx inst cause len) := by
  unfold State.ledDrop State.ledEnd
  extract_lets s1 s2 s3
  have h2 : LowKept a s2 := .ite h.ledCount.ledLate h.ledCount
  have h3 : LowKept a s3 := by
    unfold s3
    split
    · exact (LowKept.ite h2 h2.ledAudit).same
    · exact h2.ledAudit
  exact h3.ledCheck

/-! ## Transmit frames that end -/

theorem txSettle {k : Nat} (h : LowKept a s) : LowKept a (s.txSettle k) := by
  have tidy {t : State} (h : LowKept a t) : LowKept a (t.txTidy k) := h.same
  refine .ite (tidy h) (h.ite (tidy ?_))
  split
  · exact h.setTx
  · exact h

theorem txEnd {id status : Nat} (h : LowKept a s) : LowKept a (s.txEnd id status) := by
  unfold State.txEnd
  split
  · exact h
  · extract_lets flags need s1 q s2 s3
    have h2 : LowKept a s2 := h.setTx.setQ
    exact (LowKept.ite h2.bump h2).txSettle

theorem txDropMain {id cause status : Nat} (h : LowKept a s) : LowKept a (s.txDropMain id cause status) := by
  unfold State.txDropMain
  split
  · exact h
  · exact (h.ite h.fbFreeTx).setTx.ledDrop.txEnd

theorem txDrop {id cause status : Nat} (h : LowKept a s) : LowKept a (s.txDrop id cause status) := by
  unfold State.txDrop State.txDropNow
  refine .ite ?_ ?_
  · split
    · exact h.txDropMain
    · have hd {m : Nat} : LowKept a (s.delTx m) := h.delTx
      dsimp only
      split
      · exact hd.ite hd.txDropMain
      · exact hd
  · split
    · exact h.setTx
    · exact h

theorem dropStaged {c cause status : Nat} {p : TxFr → Bool} (h : LowKept a s) : LowKept a (s.dropStaged c cause status p) := by
  refine wr (.each h fun t k ht => ?_)
  exact .each ht.setCh fun _ _ hu => hu.txDrop

/-! ## The statistics of a channel and the MAC's shade set -/

theorem stat {c n k : Nat} (h : LowKept a s) : LowKept a (s.stat c n k) := h.ite (.ite h.wr64 h.wr64.setBit)

theorem statIf {v : Bool} {c n k : Nat} (h : LowKept a s) : LowKept a (s.statIf v c n k) := .ite h.stat h

theorem rxStats {c n flags : Nat} {f : List Byte} (h : LowKept a s) : LowKept a (s.rxStats c n f flags) :=
  .ite h.stat.stat.statIf.statIf.stat h.statIf.statIf.statIf.statIf.stat

theorem macRx {c : Nat} (h : LowKept a s) : LowKept a (s.macRx c) := .ite (.ite h.setCh h.setCh.wr.wr) h

theorem rxSample {c : Nat} (h : LowKept a s) : LowKept a (s.rxSample c) := h.ite h.macRx

/-! ## The GFP stream -/

theorem gfpArea {c n : Nat} {d : List Byte} {cut : Bool} (h : LowKept a s) : LowKept a (s.gfpArea c n d cut) := by
  unfold State.gfpArea
  extract_lets x s1
  have h1 : LowKept a s1 := .ite h.bump h
  split
  · exact h1.bump
  · exact h1.raise.bump
  · exact h1.bump
  · exact h1.ite (wr (.ite h1.bump h1)).setGfp

theorem cutClient {c : Nat} (h : LowKept a s) : LowKept a (s.cutClient c) := by
  unfold State.cutClient
  dsimp only
  split
  · exact h
  · exact h.ite h.gfpArea

theorem gfpLeave {c next : Nat} (h : LowKept a s) : LowKept a (s.gfpLeave c next) :=
  (setGfp (.ite h.cutClient.setBit.bump.wr h)).wr

theorem coreAccept {c v : Nat} (h : LowKept a s) : LowKept a (s.coreAccept c v) := setGfp (.ite h h.rxSample)

theorem coreStep {c : Nat} (h : LowKept a s) : LowKept a (s.coreStep c) := by
  unfold State.coreStep
  extract_lets st x v v2 s1
  refine .ite (h.ite (.ite h.setGfp.wr h.setGfp)) (.ite (h.ite ?presync) (.ite ?sync h))
  case presync => exact .ite h.setGfp.wr (.ite h.setGfp h.setGfp.coreAccept.wr.setBit)
  case sync =>
    refine .ite h.coreAccept ?_
    split
    · exact h.bump.coreAccept
    · exact h.gfpLeave

theorem gfpFrame {c : Nat} (h : LowKept a s) : LowKept a (s.gfpFrame c) := by
  unfold State.gfpFrame
  dsimp only
  split
  · exact h
  · exact h.ite (.ite h.setGfp (.ite h.setGfp.bump h.setGfp.gfpArea))

theorem gfpRunGo {c n : Nat} (h : LowKept a s) : LowKept a (Machine.gfpRunGo c n s) := by
  induction n generalizing s with
  | zero => exact h
  | succ n ih => exact ih (.ite h.gfpFrame h.coreStep)

theorem gfpGap {c : Nat} (h : LowKept a s) : LowKept a (s.gfpGap c) := h.ite h.gfpRunGo.gfpLeave.setGfp

theorem gfpFeed {g m : Nat} {l : List Byte} {times : List (Nat × Nat)} (h : LowKept a s) : LowKept a (s.gfpFeed g m l times) :=
  .ite h.setGfp.wr h.setGfp

/-! ## The hinge -/

theorem copyDiscard {e : Copy} (h : LowKept a s) : LowKept a (s.copyDiscard e) := by
  unfold State.copyDiscard State.copyFree
  split
  · exact h.fbFreeHinge.setRx.delRx
  · exact h.delRx

theorem copyPass {k : Nat} {e : Copy} {lone : Bool} (h : LowKept a s) : LowKept a (s.copyPass k e lone) := by
  unfold State.copyPass
  dsimp only
  split
  · have h1 {c n fl : Nat} {f : List Byte} : LowKept a (if (lone && e.prot) = true then s.rxStats c n f fl else s) := .ite h.rxStats h
    exact (setRx (.ite h1 h1.fbFreeHinge)).setPair
  · exact h

theorem decideBoth {k : Nat} {x y : Copy} (h : LowKept a s) : LowKept a (s.decideBoth k x y) :=
  .ite h.copyPass.copyDiscard.bump (copyPass (.ite h h.bump)).copyDiscard.bump

theorem decidePos {k pos : Nat} {alone : Bool} (h : LowKept a s) : LowKept a (s.decidePos k pos alone) := by
  unfold State.decidePos
  extract_lets x l s1 sel
  have h1 : LowKept a s1 := h.setPair
  split
  · exact h1.decideBoth
  · exact h1.copyPass.bump
  · exact h1.copyPass.bump
  · exact h1

theorem dropBelow {k : Nat} (h : LowKept a s) : LowKept a (s.dropBelow k) := .each h.setPair fun _ _ ht => ht.copyDiscard.bump

theorem hingeRunGo {k n : Nat} (h : LowKept a s) : LowKept a (Machine.hingeRunGo k n s) := by
  induction n generalizing s with
  | zero => exact h
  | succ n ih =>
    unfold Machine.hingeRunGo
    dsimp only
    split
    · exact h.dropBelow
    · split
      · exact ih h.dropBelow.decidePos
      · exact h.dropBelow

theorem passUnaligned {k : Nat} {e : Copy} (h : LowKept a s) : LowKept a (s.passUnaligned k e) := by
  unfold State.passUnaligned
  refine copyPass (setPair ?_)
  split
  · exact .ite h.bump64.bump h
  · exact h

theorem passHeld {k n : Nat} (h : LowKept a s) : LowKept a (Machine.passHeld k n s) := by
  induction n generalizing s with
  | zero => exact h
  | succ n ih =>
    unfold Machine.passHeld
    dsimp only
    split
    · exact h.dropBelow
    · exact ih (.each (.each h.dropBelow.setPair fun _ _ ht => ht.passUnaligned) fun _ _ ht => ht.copyDiscard.bump)

theorem hingeRun {k : Nat} (h : LowKept a s) : LowKept a (s.hingeRun k) := h.ite (.ite h.hingeRunGo h.passHeld)

/-! ## Pairs and groups -/

theorem pairEval {k : Nat} (h : LowKept a s) : LowKept a (s.pairEval k) := by
  unfold State.pairEval
  refine h.ite ?_
  extract_lets s1 w x sel s2 valid s3 s4 s5 s6
  have h1 : LowKept a s1 := h.setPair
  have h4 : LowKept a s4 := h1.setPair.wr.put.wr.put.put
  have h5 : LowKept a s5 := h4.ite h4.wr.setBit
  exact h5.ite h5.put.setBit.bump.setPair

theorem pairsEval (h : LowKept a s) : LowKept a s.pairsEval := h.each fun _ _ ht => ht.pairEval.hingeRun

theorem refreshSF {g : Nat} (h : LowKept a s) : LowKept a (s.refreshSF g) := h.put

theorem grpDown {g cause member : Nat} (h : LowKept a s) : LowKept a (s.grpDown g cause member) :=
  .ite h.setGrp h.wr.wr.wr.bump.setBit.refreshSF.setGrp.gfpGap.pairsEval

theorem pairSpread {g m : Nat} (h : LowKept a s) : LowKept a (s.pairSpread g m) := by
  unfold State.pairSpread
  split
  · split
    · exact .ite h.wr h.wr.put.setBit.hingeRun
    · exact h
  · exact h

theorem segDrop {g m : Nat} (h : LowKept a s) : LowKept a (s.segDrop g m) := .each h.setGrp fun _ _ ht => ht.setFr

theorem segment {g m : Nat} {times : List (Nat × Nat)} (h : LowKept a s) : LowKept a (s.segment g m times) := by
  unfold State.segment
  extract_lets first last d s1 x0 s2 x next ok n s3 x3 s4 late s5
  have h2 : LowKept a s2 := h.wr.setGrp.pairSpread
  have h4 : LowKept a s4 := h2.segDrop.setGrp
  exact .ite (h4.ite h4.wr.setBit.refreshSF.pairsEval) (.ite h2.segDrop.grpDown h2.gfpFeed.segDrop.setGrp)

theorem segStep {g : Nat} (h : LowKept a s) : LowKept a (s.segStep g) := by
  unfold State.segStep
  refine h.ite ?_
  split
  · exact h
  · exact h.segment

theorem segRunGo {g n : Nat} (h : LowKept a s) : LowKept a (Machine.segRunGo g n s) := by
  induction n generalizing s with
  | zero => exact h
  | succ n ih => exact ih h.segStep

theorem segRun {g : Nat} (h : LowKept a s) : LowKept a (s.segRun g) := .ite h.segRunGo h

theorem memberDown {j cause : Nat} (h : LowKept a s) : LowKept a (s.memberDown j cause) := by
  unfold State.memberDown
  split
  · exact h.segRun.grpDown
  · exact h

/-! ## The framer of a position -/

theorem cutDeliver {j : Nat} (h : LowKept a s) : LowKept a (s.cutDeliver j) := by
  unfold State.cutDeliver
  split
  · exact .ite h.segRun.gfpFeed h.segRun
  · exact h

theorem frLeave {j next : Nat} (h : LowKept a s) : LowKept a (s.frLeave j next) :=
  h.ite (setFr (.ite h.cutDeliver.bump.setBit h)).wr.wr.memberDown

theorem frRefresh {p l : Nat} (h : LowKept a s) : LowKept a (s.frRefresh p l) := .ite (.ite h.wr h) (h.ite h.frLeave)

theorem chanStop {c : Nat} (h : LowKept a s) : LowKept a (s.chanStop c) := h.dropStaged.setCh

end LowKept

end Sys2Proof.Proofs
end

section
/-! SUPPORT. What software configures of the line: the refresh of a port moves states and status, and leaves it (R76, R98). -/

namespace Sys2Proof.Proofs

open Sys2Proof.Machine Sys2Proof.Laws

set_option Elab.async false

/-! ## Fields that no status of a line shows -/

/-- Keys of what software configures of the line: every register below `LN_CHAN_STAT`, `LN_CFG_REJ`, and `CFG_ERR` of a channel. -/
def cfgKey (k : Nat) : Prop := k < 0x020200 * 32 ∨ k = 0x020524 * 32 ∨ (k < 0x020300 * 32 ∧ k % 32 = 7)

/-- What software configures of the line stands in `t` as in `s`. -/
def CfgKept (s t : State) : Prop := ∀ k, cfgKey k → mapGet fieldReset t.flds k = mapGet fieldReset s.flds k

theorem cfgKept_of_kept {fs : List Fld} {s t : State} (hfs : ∀ f ∈ fs, ¬ cfgKey f.key) (h : Kept fs s t) : CfgKept s t :=
  fun k hk => h k fun hm => by
    obtain ⟨f, hf, rfl⟩ := List.mem_map.mp hm
    exact hfs f hf hk

theorem LowKept.cfg {s t : State} (h : LowKept s t) : CfgKept s t := fun k hk => h k (by unfold cfgKey at hk; omega)

namespace CfgKept

variable {a s t : State}

theorem refl (s : State) : CfgKept s s := fun _ _ => rfl

theorem trans (h : CfgKept a s) (g : CfgKept s t) : CfgKept a t := fun k hk => (g k hk).trans (h k hk)

/-- What a configured field reads. -/
theorem rd (h : CfgKept s t) {o lo w : Nat} (ho : cfgKey (o * 32 + lo) := by unfold cfgKey; omega) :
    t.rd ⟨o, lo, w⟩ = s.rd ⟨o, lo, w⟩ := h _ ho

theorem each {α : Type} {l : List α} {f : State → α → State} (hf : ∀ x ∈ l, ∀ t, CfgKept t (f t x)) : CfgKept s (s.each l f) := by
  unfold State.each
  induction l generalizing s with
  | nil => exact refl s
  | cons x l ih => exact (hf x List.mem_cons_self s).trans (ih fun y hy => hf y (List.mem_cons_of_mem x hy))

end CfgKept

/-! ## Link and alignment -/

/-- What a channel that leaves its state may change: its status, and the port's event where its link falls (R76 to R78). -/
def linkFields (c : Nat) : List Fld :=
  [LN_CHAN_STAT_LINK c, LN_EVT_LINK_DOWN, LN_CHAN_STAT_LINK_DOWN_CNT c, LN_CHAN_STAT_LF_RX c, LN_CHAN_STAT_RF_RX c, LN_CHAN_STAT_STATE c]

theorem linkFields_not_cfg {c : Nat} (hc : c < 32) : ∀ f ∈ linkFields c, ¬ cfgKey f.key := by
  simp only [linkFields, List.forall_mem_cons, Fld.key, cfgKey, LN_CHAN_STAT_LINK, LN_EVT_LINK_DOWN, LN_CHAN_STAT_LINK_DOWN_CNT,
    LN_CHAN_STAT_LF_RX, LN_CHAN_STAT_RF_RX, LN_CHAN_STAT_STATE]
  refine ⟨?_, ?_, ?_, ?_, ?_, ?_, by simp⟩ <;> omega

theorem kept_linkDrop {s t : State} {c : Nat} (h : Kept (linkFields c) s t) : Kept (linkFields c) s (t.linkDrop c) := by
  unfold State.linkDrop
  split
  · exact kept_wr _ _ (by simp [linkFields]) (kept_wr _ _ (by simp [linkFields]) (kept_wr _ _ (by simp [linkFields]) h))
  · exact h

theorem kept_chanLeave {s t : State} {c next : Nat} (h : Kept (linkFields c) s t) : Kept (linkFields c) s (t.chanLeave c next) := by
  unfold State.chanLeave
  refine kept_wr _ _ (by simp [linkFields]) ?_
  split
  · exact kept_flds (setCh_flds ..) (kept_wr _ _ (by simp [linkFields]) (kept_wr _ _ (by simp [linkFields]) (kept_linkDrop h)))
  · exact h

theorem kept_chanRefresh (s : State) (c : Nat) : Kept (linkFields c) s (s.chanRefresh c) := by
  have h := kept_refl (fs := linkFields c) s
  unfold State.chanRefresh
  dsimp only
  split
  · split
    · exact h
    · exact kept_chanLeave h
  · split
    · exact kept_wr _ _ (by simp [linkFields]) h
    · exact h

/-! ## A port follows its lanes and its configuration -/

theorem refreshIdle_cfg (s : State) (p : Nat) : CfgKept s (s.refreshIdle p) :=
  .each fun k _ t => cfgKept_of_kept (fs := [LN_LANE_STAT_TX_IDLE (9 * p + k)])
    (by simp [cfgKey, Fld.key, LN_LANE_STAT_TX_IDLE]; omega) (kept_wr _ _ (by simp) (kept_refl t))

/-- The refresh of a port moves states and status alone: what was configured stands. -/
theorem portRefresh_cfg (s : State) {p : Nat} (hp : p < 4) : CfgKept s (s.portRefresh p) := by
  have framers (t : State) : CfgKept t (t.each (List.range 8) fun s l => s.frRefresh p l) :=
    (LowKept.each (.refl t) fun _ _ h => h.frRefresh).cfg
  have channels (t : State) : CfgKept t (t.each (List.range 8) fun s k => s.chanRefresh (8 * p + k)) :=
    .each fun k hk u => cfgKept_of_kept (linkFields_not_cfg (by have := List.mem_range.mp hk; omega)) (kept_chanRefresh u _)
  exact (framers s).trans ((channels _).trans ((refreshIdle_cfg _ p).trans (LowKept.refl _).pairsEval.cfg))

end Sys2Proof.Proofs
end

section
/-! PROOFS. Ports and channels are configured, and E-mode channels align and lose their link (R70, R74 to R78). -/

namespace Sys2Proof.Proofs

open Sys2Proof.Machine Sys2Proof.Laws

set_option Elab.async false

/-! ## Reads after a write -/

theorem rd_wr_ne {s : State} {o lo w o' lo' w' v : Nat} (h : o' * 32 + lo' ≠ o * 32 + lo := by omega) :
    (s.wr ⟨o, lo, w⟩ v).rd ⟨o', lo', w'⟩ = s.rd ⟨o', lo', w'⟩ := rd_wr_other s v h

theorem is_wr_ne {s : State} {o lo w o' lo' w' v : Nat} (h : o' * 32 + lo' ≠ o * 32 + lo := by omega) :
    (s.wr ⟨o, lo, w⟩ v).is ⟨o', lo', w'⟩ = s.is ⟨o', lo', w'⟩ := congrArg (· == 1) (rd_wr_ne h)

theorem is_wr_bitN {s : State} {o lo v i : Nat} : (s.wr ⟨o, lo, 1⟩ (bitN v i)).is ⟨o, lo, 1⟩ = v.testBit i := by
  simp [State.is, bitN, Nat.testBit_eq_decide_div_mod_eq, Bool.beq_eq_decide_eq]

theorem is_put {s : State} {o lo : Nat} {b : Bool} : (s.put ⟨o, lo, 1⟩ b).is ⟨o, lo, 1⟩ = b := by
  cases b <;> simp [put_eq, State.is]

theorem bitN_eq_zero {v i : Nat} : bitN v i = 0 ↔ v.testBit i = false := by
  simp [bitN, Nat.testBit_eq_decide_div_mod_eq]

theorem is_wr_zero {s : State} {f : Fld} : (s.wr f 0).is f = false := by simp [State.is]

theorem upBy_congr {s t : State} {f : Fld} {n : Nat} (h : t.rd f = s.rd f) : upBy t f n = upBy s f n := by rw [upBy, h, upBy]

/-- A counter just bumped reads one more, up to all ones. -/
theorem rd_bump_same (s : State) (f : Fld) (n : Nat) : (s.bump f n).rd f = upBy s f n := by
  have : 0 < 2 ^ f.w := Nat.two_pow_pos _
  rw [bump_eq, rd_wr_same, upBy, Nat.mod_eq_of_lt (by omega)]

/-! ## A write of `LN_PORT_CFG` (R70) -/

/-- A write of `LN_PORT_CFG` as far as it configures: `T_MODE` is taken while the port is off, and `ENABLE` always. -/
def portWritten (s : State) (p v : Nat) : State :=
  (if s.portOn p then (if bitN v 1 = s.rd (LN_PORT_CFG_T_MODE p) then s else s.bump LN_CFG_REJ_COUNT)
    else s.wr (LN_PORT_CFG_T_MODE p) (bitN v 1)).wr (LN_PORT_CFG_ENABLE p) (bitN v 0)

section
variable (s : State) {p : Nat} (hp : p < 4) (v : Nat)
include hp

/-- What a channel that stops and a port that starts or refreshes do leaves the configuration. -/
theorem portCfg_cfg : CfgKept (portWritten s p v) (s.portCfg p v) := by
  unfold State.portCfg
  extract_lets was s1 ons s2 s3 s4
  have h3 : LowKept s2 s3 := .ite (.each (.refl s2) fun _ _ h => h.chanStop) (.refl s2)
  have h4 : LowKept s2 s4 := .ite (.each h3 fun _ _ h => h.setFr) h3
  exact h4.cfg.trans (portRefresh_cfg s4 hp)

theorem portOn_portCfg : (s.portCfg p v).portOn p = v.testBit 0 :=
  calc (s.portCfg p v).portOn p
    _ = (portWritten s p v).portOn p := congrArg (· == 1) (portCfg_cfg s hp v).rd
    _ = v.testBit 0 := is_wr_bitN

theorem tMode_portCfg_off (h : s.portOn p = false) : (s.portCfg p v).tMode p = v.testBit 1 :=
  calc (s.portCfg p v).tMode p
    _ = (portWritten s p v).tMode p := congrArg (· == 1) (portCfg_cfg s hp v).rd
    _ = (s.wr (LN_PORT_CFG_T_MODE p) (bitN v 1)).tMode p := by simp only [portWritten, h]; exact is_wr_ne
    _ = v.testBit 1 := is_wr_bitN

theorem tMode_portCfg_on (h : s.portOn p = true) : (s.portCfg p v).tMode p = s.tMode p :=
  calc (s.portCfg p v).tMode p
    _ = (portWritten s p v).tMode p := congrArg (· == 1) (portCfg_cfg s hp v).rd
    _ = s.tMode p := by
      simp only [portWritten, h, if_true]
      refine Eq.trans is_wr_ne ?_
      split
      · rfl
      · exact is_wr_ne

theorem cfgRej_portCfg_off (h : s.portOn p = false) : (s.portCfg p v).rd LN_CFG_REJ_COUNT = s.rd LN_CFG_REJ_COUNT :=
  calc (s.portCfg p v).rd LN_CFG_REJ_COUNT
    _ = (portWritten s p v).rd LN_CFG_REJ_COUNT := (portCfg_cfg s hp v).rd
    _ = (s.wr (LN_PORT_CFG_T_MODE p) (bitN v 1)).rd LN_CFG_REJ_COUNT := by simp only [portWritten, h]; exact rd_wr_ne
    _ = s.rd LN_CFG_REJ_COUNT := rd_wr_ne

theorem cfgRej_portCfg_on (h : s.portOn p = true) : (s.portCfg p v).rd LN_CFG_REJ_COUNT =
    if bitN v 1 = s.rd (LN_PORT_CFG_T_MODE p) then s.rd LN_CFG_REJ_COUNT else upBy s LN_CFG_REJ_COUNT 1 :=
  calc (s.portCfg p v).rd LN_CFG_REJ_COUNT
    _ = (portWritten s p v).rd LN_CFG_REJ_COUNT := (portCfg_cfg s hp v).rd
    _ = _ := by
      simp only [portWritten, h, if_true]
      refine Eq.trans rd_wr_ne ?_
      split
      · rfl
      · exact rd_bump_same ..

end

/-! ## A write of `LN_CHAN_CFG` (R74) -/

/-- `SPEED` and `FIRST` of channel `c` as a write gives them. -/
def chanFields (s : State) (c v : Nat) : State := (s.wr (LN_CHAN_CFG_SPEED c) (bits v 1 3)).wr (LN_CHAN_CFG_FIRST c) (bits v 4 3)

/-- A channel that is off takes the fields, and is enabled where they pass the checks. -/
def chanTried (s : State) (c v : Nat) : State :=
  if bitN v 0 = 0 then chanFields s c v
  else if (chanFields s c v).chanOk c then (chanFields s c v).wr (LN_CHAN_CFG_EN c) 1
  else ((chanFields s c v).raise (LN_CHAN_STAT_CFG_ERR c)).bump LN_CFG_REJ_COUNT

/-- A channel that is on takes `EN` alone. -/
def chanSwitched (s : State) (c v : Nat) : State :=
  (if bits v 1 3 = s.rd (LN_CHAN_CFG_SPEED c) ∧ bits v 4 3 = s.rd (LN_CHAN_CFG_FIRST c) then s else s.bump LN_CFG_REJ_COUNT).wr
    (LN_CHAN_CFG_EN c) (bitN v 0)

section
variable (s : State) {c : Nat} (hc : c < 32) (v : Nat)
include hc

theorem chanCfg_cfg : CfgKept (if s.is (LN_CHAN_CFG_EN c) then chanSwitched s c v else chanTried s c v) (s.chanCfg c v) := by
  unfold State.chanCfg
  extract_lets p fields on s1 t u s2
  refine CfgKept.trans (LowKept.cfg ?_) (portRefresh_cfg s2 (by omega))
  unfold s2
  split
  · have ht : LowKept (chanSwitched s c v) t := .refl t
    exact .ite ht.chanStop ht
  · exact .refl _

theorem chanCfg_on (h : s.is (LN_CHAN_CFG_EN c) = true) : CfgKept (chanSwitched s c v) (s.chanCfg c v) := by
  simpa only [h, if_true] using chanCfg_cfg s hc v

theorem chanCfg_off (h : s.is (LN_CHAN_CFG_EN c) = false) : CfgKept (chanTried s c v) (s.chanCfg c v) := by
  simpa [h] using chanCfg_cfg s hc v

end

/-! ## What the checks of R74 look at -/

section
variable {s t : State}

theorem LowKept.wr_both (h : LowKept s t) (f : Fld) (v : Nat) : LowKept (s.wr f v) (t.wr f v) := fun k hk => by
  simp only [State.wr, mapGet_set, h k hk]

theorem laneAt_congr (hs : t.sys = s.sys) : t.laneAt = s.laneAt := by
  funext p l; simp only [State.laneAt, State.lanePresent, State.sdField, hs]

theorem laneRate_congr (hs : t.sys = s.sys) : t.laneRate = s.laneRate := by
  funext i; simp only [State.laneRate, State.sdField, hs]

theorem chanLanes_congr (h : LowKept s t) (hs : t.sys = s.sys) {c : Nat} (hc : c < 32) : t.chanLanes c = s.chanLanes c := by
  have hf : t.rd (LN_CHAN_CFG_FIRST c) = s.rd (LN_CHAN_CFG_FIRST c) := h.cfg.rd
  have hv : t.rd (LN_CHAN_CFG_SPEED c) = s.rd (LN_CHAN_CFG_SPEED c) := h.cfg.rd
  simp only [State.chanLanes, hf, hv, laneAt_congr hs, laneRate_congr hs]

/-- The checks of R74 look at the descriptor in force and at the configuration of the port's channels. -/
theorem chanOk_congr (h : LowKept s t) (hs : t.sys = s.sys) {c : Nat} (hc : c < 32) : t.chanOk c = s.chanOk c := by
  have hf : t.rd (LN_CHAN_CFG_FIRST c) = s.rd (LN_CHAN_CFG_FIRST c) := h.cfg.rd
  have hv : t.rd (LN_CHAN_CFG_SPEED c) = s.rd (LN_CHAN_CFG_SPEED c) := h.cfg.rd
  have others (f n : Nat) :
      (List.range 8).all (fun k => 8 * (c / 8) + k == c || !t.is (LN_CHAN_CFG_EN (8 * (c / 8) + k)) ||
        (t.chanLanes (8 * (c / 8) + k)).all (fun l => l < f || f + n ≤ l)) =
      (List.range 8).all (fun k => 8 * (c / 8) + k == c || !s.is (LN_CHAN_CFG_EN (8 * (c / 8) + k)) ||
        (s.chanLanes (8 * (c / 8) + k)).all (fun l => l < f || f + n ≤ l)) := by
    rw [Bool.eq_iff_iff, List.all_eq_true, List.all_eq_true]
    refine forall₂_congr fun k hk => ?_
    have hk : 8 * (c / 8) + k < 32 := by have := List.mem_range.mp hk; omega
    have he : t.is (LN_CHAN_CFG_EN (8 * (c / 8) + k)) = s.is (LN_CHAN_CFG_EN (8 * (c / 8) + k)) := congrArg (· == 1) h.cfg.rd
    rw [he, chanLanes_congr h hs hk]
  simp only [State.chanOk, hf, hv, laneAt_congr hs, laneRate_congr hs, others]

end

/-! ## The state in which a served write of the setup port takes effect -/

/-- Beats sent are counted, and the access is. -/
def served (s : State) (w : Who) (off : Nat) : State := s.settleBeats.spCount w true off

theorem guardWrite_served {s : State} {w : Who} {off : Nat} (h : s.serves w off 4 = true) (f : State → State) :
    s.guardWrite w off f = (f (served s w off)).okay 0 := if_pos h

theorem served_low (s : State) (w : Who) (off : Nat) : LowKept s (served s w off) := (LowKept.refl s).settleBeats.spCount

theorem served_sys (s : State) (w : Who) (off : Nat) : (served s w off).sys = s.sys := by
  let P : Part → Prop := fun p => p = .regs ∨ p = .fab
  have : Fact (P .regs) := ⟨.inl rfl⟩
  have : Fact (P .fab) := ⟨.inr rfl⟩
  have h : Keeps P s (served s w off) := keeps_spCount w true off (keeps_settleBeats (Keeps.refl s))
  exact h.1 .sys (by simp [P])

/-! ## What a write of `LN_CHAN_CFG` reads back -/

section
variable (s : State) {c : Nat} (hc : c < 32) (v : Nat)

theorem speed_chanFields : (chanFields s c v).rd (LN_CHAN_CFG_SPEED c) = bits v 1 3 :=
  calc (chanFields s c v).rd (LN_CHAN_CFG_SPEED c)
    _ = (s.wr (LN_CHAN_CFG_SPEED c) (bits v 1 3)).rd (LN_CHAN_CFG_SPEED c) := rd_wr_ne
    _ = bits v 1 3 := (rd_wr_same ..).trans (Nat.mod_mod ..)

theorem first_chanFields : (chanFields s c v).rd (LN_CHAN_CFG_FIRST c) = bits v 4 3 := (rd_wr_same ..).trans (Nat.mod_mod ..)

theorem en_chanFields : (chanFields s c v).is (LN_CHAN_CFG_EN c) = s.is (LN_CHAN_CFG_EN c) := Eq.trans is_wr_ne is_wr_ne

include hc

theorem cfgRej_chanFields : (chanFields s c v).rd LN_CFG_REJ_COUNT = s.rd LN_CFG_REJ_COUNT := Eq.trans rd_wr_ne rd_wr_ne

omit hc in
/-- `SPEED` and `FIRST` stand as written whatever becomes of `EN`. -/
theorem fields_chanTried {lo w : Nat} (hlo : 0 < lo := by decide) (hw : lo < 32 := by decide) :
    (chanTried s c v).rd ⟨0x020100 + 4 * c, lo, w⟩ = (chanFields s c v).rd ⟨0x020100 + 4 * c, lo, w⟩ := by
  unfold chanTried
  split
  · rfl
  · split
    · exact rd_wr_ne
    · exact Eq.trans rd_wr_ne rd_wr_ne

theorem en_chanTried (h : s.is (LN_CHAN_CFG_EN c) = false) :
    (chanTried s c v).is (LN_CHAN_CFG_EN c) = (v.testBit 0 && (chanFields s c v).chanOk c) := by
  have off : (chanFields s c v).is (LN_CHAN_CFG_EN c) = false := (en_chanFields ..).trans h
  unfold chanTried
  split
  next h0 => rw [off, bitN_eq_zero.mp h0, Bool.false_and]
  next h1 =>
    rw [Bool.eq_true_of_not_eq_false (mt bitN_eq_zero.mpr h1), Bool.true_and]
    split
    next ok => simp [ok, State.is, LN_CHAN_CFG_EN]
    next bad =>
      rw [Bool.eq_false_of_not_eq_true bad]
      exact Eq.trans is_wr_ne (Eq.trans is_wr_ne off)

/-- A channel that fails its checks shows it, and the write is counted. -/
theorem chanTried_refused (h1 : v.testBit 0 = true) (bad : (chanFields s c v).chanOk c = false) :
    (chanTried s c v).is (LN_CHAN_STAT_CFG_ERR c) = true ∧ (chanTried s c v).rd LN_CFG_REJ_COUNT = upBy s LN_CFG_REJ_COUNT 1 := by
  have h0 : bitN v 0 ≠ 0 := fun e => by simp [bitN_eq_zero.mp e] at h1
  have rej : ((chanFields s c v).raise (LN_CHAN_STAT_CFG_ERR c)).rd LN_CFG_REJ_COUNT = s.rd LN_CFG_REJ_COUNT :=
    Eq.trans rd_wr_ne (cfgRej_chanFields s hc v)
  simp only [chanTried, h0, if_false, bad, Bool.false_eq_true]
  constructor
  · refine Eq.trans is_wr_ne ?_
    simp [State.raise, State.is, LN_CHAN_STAT_CFG_ERR]
  · rw [rd_bump_same, upBy_congr rej]

omit hc in
theorem en_chanSwitched : (chanSwitched s c v).is (LN_CHAN_CFG_EN c) = v.testBit 0 := is_wr_bitN

omit hc in
theorem fields_chanSwitched {lo w : Nat} (hlo : 0 < lo := by decide) (hw : lo < 32 := by decide) :
    (chanSwitched s c v).rd ⟨0x020100 + 4 * c, lo, w⟩ = s.rd ⟨0x020100 + 4 * c, lo, w⟩ := by
  refine Eq.trans rd_wr_ne ?_
  split
  · rfl
  · exact rd_wr_ne

end

/-! ## Skew (R76) -/

theorem foldl_max_le {l : List Nat} {n b : Nat} : l.foldl max n ≤ b ↔ n ≤ b ∧ ∀ x ∈ l, x ≤ b := by
  induction l generalizing n with
  | nil => simp
  | cons x l ih => simp [ih, and_assoc]

/-- The largest delay is the largest difference between two arrivals. -/
theorem deskews_le {l : List Nat} {b : Nat} : (deskews l).foldl max 0 ≤ b ↔ ∀ x ∈ l, ∀ y ∈ l, x ≤ y + b := by
  have delay (y : Nat) : l.foldl max 0 - y ≤ b ↔ ∀ x ∈ l, x ≤ y + b := by
    rw [Nat.sub_le_iff_le_add', foldl_max_le, and_iff_right (Nat.zero_le _)]
  simp only [deskews, foldl_max_le, List.forall_mem_map, delay, Nat.zero_le, true_and]
  exact ⟨fun h x hx y hy => h y hy x hx, fun h y hy x hx => h x hx y hy⟩

/-! ## The link falls (R77, R78) -/

section
variable (s : State) {c : Nat}

theorem linkDrop_up (h : s.is (LN_CHAN_STAT_LINK c) = true) :
    s.linkDrop c = ((s.wr (LN_CHAN_STAT_LINK c) 0).setBit LN_EVT_LINK_DOWN (c / 8)).bump (LN_CHAN_STAT_LINK_DOWN_CNT c) := if_pos h

theorem linkDrop_low (h : s.is (LN_CHAN_STAT_LINK c) = false) : s.linkDrop c = s := if_neg (by simp [h])

theorem linkDrop_ch (d : Nat) : (s.linkDrop c).ch d = s.ch d := by
  unfold State.linkDrop
  split <;> rfl

/-- A fall of the link shows in the channel's status and the port's event alone. -/
theorem is_linkDrop_ne {lo w : Nat} (h2 : lo ≠ 2 := by decide) (h12 : lo ≠ 12 := by decide) (h16 : lo ≠ 16 := by decide)
    (hlo : lo < 32 := by decide) :
    (s.linkDrop c).is ⟨0x020200 + 4 * c, lo, w⟩ = s.is ⟨0x020200 + 4 * c, lo, w⟩ := by
  unfold State.linkDrop
  split
  · exact Eq.trans is_wr_ne (Eq.trans is_wr_ne is_wr_ne)
  · rfl

theorem link_linkDrop : (s.linkDrop c).is (LN_CHAN_STAT_LINK c) = false := by
  cases h : s.is (LN_CHAN_STAT_LINK c) with
  | false => rw [linkDrop_low s h, h]
  | true =>
    rw [linkDrop_up s h]
    exact Eq.trans is_wr_ne (Eq.trans is_wr_ne is_wr_zero)

theorem linkDown_linkDrop (hc : c < 32) (h : s.is (LN_CHAN_STAT_LINK c) = true) :
    (s.linkDrop c).bit LN_EVT_LINK_DOWN (c / 8) = true := by
  have e : (s.linkDrop c).rd LN_EVT_LINK_DOWN = ((s.wr (LN_CHAN_STAT_LINK c) 0).setBit LN_EVT_LINK_DOWN (c / 8)).rd LN_EVT_LINK_DOWN := by
    rw [linkDrop_up s h]; exact rd_wr_ne
  have hp : c / 8 < 4 := by omega
  rw [State.bit, e, setBit_eq, rd_wr_same, Nat.testBit_mod_two_pow, Nat.testBit_or, Nat.testBit_two_pow_self, Bool.or_true,
    Bool.and_true]
  exact decide_eq_true hp

theorem linkDownCnt_linkDrop (hc : c < 32) (h : s.is (LN_CHAN_STAT_LINK c) = true) :
    (s.linkDrop c).rd (LN_CHAN_STAT_LINK_DOWN_CNT c) = upBy s (LN_CHAN_STAT_LINK_DOWN_CNT c) 1 := by
  have e : ((s.wr (LN_CHAN_STAT_LINK c) 0).setBit LN_EVT_LINK_DOWN (c / 8)).rd (LN_CHAN_STAT_LINK_DOWN_CNT c) =
      s.rd (LN_CHAN_STAT_LINK_DOWN_CNT c) := Eq.trans rd_wr_ne rd_wr_ne
  rw [linkDrop_up s h, rd_bump_same, upBy_congr e]

/-- A channel that leaves `ALIGNED`: its link falls, and fault reception clears. -/
theorem chanLeave_aligned (h : s.rd (LN_CHAN_STAT_STATE c) = 2) (next : Nat) :
    s.chanLeave c next = ((((s.linkDrop c).wr (LN_CHAN_STAT_LF_RX c) 0).wr (LN_CHAN_STAT_RF_RX c) 0).setCh c
      { s.ch c with partly := true }).wr (LN_CHAN_STAT_STATE c) next := by
  simp only [State.chanLeave, h, if_true]

/-- Every other field reads as after the fall of the link. -/
theorem rd_chanLeave_aligned (h : s.rd (LN_CHAN_STAT_STATE c) = 2) {next o lo w : Nat}
    (hs : o * 32 + lo ≠ (0x020200 + 4 * c) * 32 + 0 := by omega) (hl : o * 32 + lo ≠ (0x020200 + 4 * c) * 32 + 3 := by omega)
    (hr : o * 32 + lo ≠ (0x020200 + 4 * c) * 32 + 4 := by omega) :
    (s.chanLeave c next).rd ⟨o, lo, w⟩ = (s.linkDrop c).rd ⟨o, lo, w⟩ := by
  rw [chanLeave_aligned s h]
  exact (rd_wr_ne hs).trans ((setCh_rd ..).trans ((rd_wr_ne hr).trans (rd_wr_ne hl)))

end

/-! ## The rows of ports, channels and alignment -/

section
variable (s : State)

theorem exec_portCfgWrite_served {w : Who} {p : Fin 4} {v : Word} (h : s.serves w (0x020000 + 4 * p) 4 = true) :
    exec (.portCfgWrite w p v) s = .next (((served s w (0x020000 + 4 * p)).portCfg p v.toNat).okay 0) :=
  congrArg Host.Outcome.next (guardWrite_served h _)

theorem exec_chanCfgWrite_served {w : Who} {c : Fin 32} {v : Word} (h : s.serves w (0x020100 + 4 * c) 4 = true) :
    exec (.chanCfgWrite w c v) s = .next (((served s w (0x020100 + 4 * c)).chanCfg c v.toNat).okay 0) :=
  congrArg Host.Outcome.next (guardWrite_served h _)

/-- R70 while the port is off. -/
theorem portCfgWrite_off {w : Who} {p : Fin 4} {v : Word} (hs : s.serves w (0x020000 + 4 * p) 4 = true) (hp : s.portOn p = false) :
    ∃ t, exec (.portCfgWrite w p v) s = .next t ∧ t.sp = ⟨true, 0⟩ ∧ t.portOn p = v.getLsbD 0 ∧ t.tMode p = v.getLsbD 1 ∧
      t.rd LN_CFG_REJ_COUNT = s.rd LN_CFG_REJ_COUNT := by
  have low := (served_low s w (0x020000 + 4 * p)).cfg
  have off : (served s w (0x020000 + 4 * p)).portOn p = false := (congrArg (· == 1) low.rd).trans hp
  exact ⟨_, exec_portCfgWrite_served s hs, rfl, portOn_portCfg _ p.2 _, tMode_portCfg_off _ p.2 _ off,
    (cfgRej_portCfg_off _ p.2 _ off).trans low.rd⟩

/-- R70 while the port is on. -/
theorem portCfgWrite_on {w : Who} {p : Fin 4} {v : Word} (hs : s.serves w (0x020000 + 4 * p) 4 = true) (hp : s.portOn p = true) :
    ∃ t, exec (.portCfgWrite w p v) s = .next t ∧ t.sp = ⟨true, 0⟩ ∧ t.portOn p = v.getLsbD 0 ∧ t.tMode p = s.tMode p ∧
      t.rd LN_CFG_REJ_COUNT = (if bitN v.toNat 1 = s.rd (LN_PORT_CFG_T_MODE p) then s.rd LN_CFG_REJ_COUNT
        else upBy s LN_CFG_REJ_COUNT 1) := by
  have low := (served_low s w (0x020000 + 4 * p)).cfg
  have on : (served s w (0x020000 + 4 * p)).portOn p = true := (congrArg (· == 1) low.rd).trans hp
  have mode : (served s w (0x020000 + 4 * p)).rd (LN_PORT_CFG_T_MODE p) = s.rd (LN_PORT_CFG_T_MODE p) := low.rd
  have rej : (served s w (0x020000 + 4 * p)).rd LN_CFG_REJ_COUNT = s.rd LN_CFG_REJ_COUNT := low.rd
  refine ⟨_, exec_portCfgWrite_served s hs, rfl, portOn_portCfg _ p.2 _,
    (tMode_portCfg_on _ p.2 _ on).trans (congrArg (· == 1) mode), (cfgRej_portCfg_on _ p.2 _ on).trans ?_⟩
  rw [mode, rej, upBy_congr rej]

/-- R74 while the channel is off. -/
theorem chanCfgWrite_off {w : Who} {c : Fin 32} {v : Word} (hs : s.serves w (0x020100 + 4 * c) 4 = true)
    (h : s.is (LN_CHAN_CFG_EN c) = false) :
    ∃ t, exec (.chanCfgWrite w c v) s = .next t ∧ t.sp = ⟨true, 0⟩ ∧ t.rd (LN_CHAN_CFG_SPEED c) = bits v.toNat 1 3 ∧
      t.rd (LN_CHAN_CFG_FIRST c) = bits v.toNat 4 3 ∧
      t.is (LN_CHAN_CFG_EN c) = (v.getLsbD 0 && (chanFields s c v.toNat).chanOk c) ∧
      (v.getLsbD 0 = true → (chanFields s c v.toNat).chanOk c = false →
        t.is (LN_CHAN_STAT_CFG_ERR c) = true ∧ t.rd LN_CFG_REJ_COUNT = upBy s LN_CFG_REJ_COUNT 1) := by
  let u := served s w (0x020100 + 4 * c)
  have low : LowKept s u := served_low _ _ _
  have off : u.is (LN_CHAN_CFG_EN c) = false := (congrArg (· == 1) low.cfg.rd).trans h
  have rej : u.rd LN_CFG_REJ_COUNT = s.rd LN_CFG_REJ_COUNT := low.cfg.rd
  have ok : (chanFields u c v.toNat).chanOk c = (chanFields s c v.toNat).chanOk c :=
    chanOk_congr ((low.wr_both _ _).wr_both _ _) (served_sys ..) c.2
  have kept := chanCfg_off u c.2 v.toNat off
  refine ⟨_, exec_chanCfgWrite_served s hs, rfl, ?speed, ?first, ?en, fun h1 bad => ?refused⟩
  case speed => exact kept.rd.trans ((fields_chanTried u _).trans (speed_chanFields ..))
  case first => exact kept.rd.trans ((fields_chanTried u _).trans (first_chanFields ..))
  case en => rw [← ok]; exact (congrArg (· == 1) kept.rd).trans (en_chanTried u c.2 _ off)
  case refused =>
    obtain ⟨err, cnt⟩ := chanTried_refused u c.2 v.toNat h1 (ok.trans bad)
    refine ⟨(congrArg (· == 1) kept.rd).trans err, kept.rd.trans (cnt.trans (upBy_congr rej))⟩

/-- R74 while the channel is on. -/
theorem chanCfgWrite_on {w : Who} {c : Fin 32} {v : Word} (hs : s.serves w (0x020100 + 4 * c) 4 = true)
    (h : s.is (LN_CHAN_CFG_EN c) = true) :
    ∃ t, exec (.chanCfgWrite w c v) s = .next t ∧ t.sp = ⟨true, 0⟩ ∧ t.is (LN_CHAN_CFG_EN c) = v.getLsbD 0 ∧
      t.rd (LN_CHAN_CFG_SPEED c) = s.rd (LN_CHAN_CFG_SPEED c) ∧ t.rd (LN_CHAN_CFG_FIRST c) = s.rd (LN_CHAN_CFG_FIRST c) := by
  let u := served s w (0x020100 + 4 * c)
  have low : CfgKept s u := (served_low _ _ _).cfg
  have on : u.is (LN_CHAN_CFG_EN c) = true := (congrArg (· == 1) low.rd).trans h
  have kept := chanCfg_on u c.2 v.toNat on
  have field {lo w : Nat} (h0 : 0 < lo) (h32 : lo < 32) :
      (u.chanCfg c v.toNat).rd ⟨0x020100 + 4 * c, lo, w⟩ = s.rd ⟨0x020100 + 4 * c, lo, w⟩ :=
    kept.rd.trans ((fields_chanSwitched u _ h0 h32).trans low.rd)
  exact ⟨_, exec_chanCfgWrite_served s hs, rfl, (congrArg (· == 1) kept.rd).trans (en_chanSwitched ..),
    field (by decide) (by decide), field (by decide) (by decide)⟩

/-- R76: markers locked within the skew align the channel. -/
theorem alignmentLock_aligns {c : Fin 32} {a : List Word} (h1 : s.rd (LN_CHAN_STAT_STATE c) = 1) (hr : s.rxRuns (c / 8) = true)
    (hskew : ∀ x ∈ a, ∀ y ∈ a, x.toNat ≤ y.toNat + 200 * 2 ^ 16) :
    ∃ t, exec (.alignmentLock c a) s = .next t ∧ t.rd (LN_CHAN_STAT_STATE c) = 2 ∧ (t.ch c).linkSince = s.tm.tick ∧
      (t.ch c).deskew = deskews (a.map (·.toNat)) ∧ Kept [LN_CHAN_STAT_STATE c] s t := by
  have fits : (deskews (a.map (·.toNat))).foldl max 0 ≤ 200 * 2 ^ 16 := deskews_le.mpr (by simpa only [List.forall_mem_map] using hskew)
  let t := (s.setCh c { s.ch c with linkSince := s.tm.tick, deskew := deskews (a.map (·.toNat)) }).wr (LN_CHAN_STAT_STATE c) 2
  have run : exec (.alignmentLock c a) s = .next t := by
    change execAlignmentLock c a s = _
    simp only [execAlignmentLock, h1, hr, fits]
    rfl
  have ch : t.ch c = { s.ch c with linkSince := s.tm.tick, deskew := deskews (a.map (·.toNat)) } := (ch_setCh ..).trans (if_pos rfl)
  exact ⟨t, run, rd_wr_same .., by rw [ch], by rw [ch], kept_wr _ _ (by simp) (kept_flds (setCh_flds ..) (kept_refl s))⟩

/-- R76: beyond the skew the channel shows an error. -/
theorem alignmentLock_skewed {c : Fin 32} {a : List Word} (h1 : s.rd (LN_CHAN_STAT_STATE c) = 1) (hr : s.rxRuns (c / 8) = true)
    (hskew : ∃ x ∈ a, ∃ y ∈ a, y.toNat + 200 * 2 ^ 16 < x.toNat) :
    ∃ t, exec (.alignmentLock c a) s = .next t ∧ t.is (LN_CHAN_STAT_SKEW_ERR c) = true ∧ Kept [LN_CHAN_STAT_SKEW_ERR c] s t := by
  obtain ⟨x, hx, y, hy, hxy⟩ := hskew
  have beyond : ¬ (deskews (a.map (·.toNat))).foldl max 0 ≤ 200 * 2 ^ 16 := fun fits =>
    absurd (deskews_le.mp fits _ (List.mem_map_of_mem hx) _ (List.mem_map_of_mem hy)) (by omega)
  have run : exec (.alignmentLock c a) s = .next (s.raise (LN_CHAN_STAT_SKEW_ERR c)) := by
    change execAlignmentLock c a s = _
    simp only [execAlignmentLock, h1, hr, beyond]
    rfl
  exact ⟨_, run, by simp [State.raise, State.is, LN_CHAN_STAT_SKEW_ERR], kept_wr _ _ (by simp) (kept_refl s)⟩

/-- R76 to R78: loss of alignment takes the link down and counts it. -/
theorem alignmentLost_drops {c : Fin 32} (h2 : s.rd (LN_CHAN_STAT_STATE c) = 2) (hr : s.rxRuns (c / 8) = true)
    (hl : s.is (LN_CHAN_STAT_LINK c) = true) :
    ∃ t, exec (.alignmentLost c) s = .next t ∧ (t.ch c).alignLost = true ∧ t.rd (LN_CHAN_STAT_STATE c) = 1 ∧
      t.is (LN_CHAN_STAT_LINK c) = false ∧ t.is (LN_CHAN_STAT_LF_RX c) = false ∧ t.is (LN_CHAN_STAT_RF_RX c) = false ∧
      t.bit LN_EVT_LINK_DOWN (c / 8) = true ∧
      t.rd (LN_CHAN_STAT_LINK_DOWN_CNT c) = upBy s (LN_CHAN_STAT_LINK_DOWN_CNT c) 1 ∧ Kept (linkFields c) s t := by
  let u := s.setCh c { s.ch c with alignLost := true }
  have run : exec (.alignmentLost c) s = .next (u.chanLeave c 1) := by
    change execAlignmentLost c s = _
    simp only [execAlignmentLost, h2, hr]
    rfl
  have kept : Kept (linkFields c) s (u.chanLeave c 1) := kept_chanLeave (kept_flds (setCh_flds ..) (kept_refl s))
  refine ⟨_, run, ?ch, ?state, ?link, ?lf, ?rf, ?event, ?count, kept⟩
  case ch =>
    have lost : (u.ch c).alignLost = true := by simp [u]
    rw [chanLeave_aligned u h2]
    exact (congrArg ChSt.alignLost ((ch_setCh ..).trans (if_pos rfl))).trans lost
  case state => exact rd_wr_same ..
  case link => exact (congrArg (· == 1) (rd_chanLeave_aligned u h2)).trans (link_linkDrop u)
  case lf => rw [chanLeave_aligned u h2]; exact Eq.trans is_wr_ne (Eq.trans is_wr_ne is_wr_zero)
  case rf => rw [chanLeave_aligned u h2]; exact Eq.trans is_wr_ne is_wr_zero
  case event => exact (congrArg (·.testBit (c / 8)) (rd_chanLeave_aligned u h2)).trans (linkDown_linkDrop u c.2 hl)
  case count => exact (rd_chanLeave_aligned u h2).trans (linkDownCnt_linkDrop u c.2 hl)

/-- R77, R78: an aligned channel shows the fault sequences it receives, and any of them takes its link down. -/
theorem rxFaultSequence_shows {c : Fin 32} (lf rf : Bool) (h2 : s.rd (LN_CHAN_STAT_STATE c) = 2) (hr : s.rxRuns (c / 8) = true) :
    ∃ t, exec (.rxFaultSequence c lf rf) s = .next t ∧ t.is (LN_CHAN_STAT_LF_RX c) = lf ∧ t.is (LN_CHAN_STAT_RF_RX c) = rf ∧
      t.is (LN_CHAN_STAT_LINK c) = (s.is (LN_CHAN_STAT_LINK c) && !lf && !rf) ∧ (t.ch c).linkSince = s.tm.tick := by
  let u := ((s.put (LN_CHAN_STAT_LF_RX c) lf).put (LN_CHAN_STAT_RF_RX c) rf).setCh c { s.ch c with linkSince := s.tm.tick }
  have run : exec (.rxFaultSequence c lf rf) s = .next (if lf || rf then u.linkDrop c else u) := by
    change execRxFaultSequence c lf rf s = _
    simp only [execRxFaultSequence, h2, hr]
    rfl
  have lfu : u.is (LN_CHAN_STAT_LF_RX c) = lf := Eq.trans is_wr_ne is_put
  have rfu : u.is (LN_CHAN_STAT_RF_RX c) = rf := is_put
  have linku : u.is (LN_CHAN_STAT_LINK c) = s.is (LN_CHAN_STAT_LINK c) := Eq.trans is_wr_ne is_wr_ne
  have since : (u.ch c).linkSince = s.tm.tick := by simp [u]
  refine ⟨_, run, ?_⟩
  cases fault : lf || rf with
  | false =>
    obtain ⟨rfl, rfl⟩ := Bool.or_eq_false_iff.mp fault
    exact ⟨lfu, rfu, by simp [linku], since⟩
  | true =>
    refine ⟨(is_linkDrop_ne u).trans lfu, (is_linkDrop_ne u).trans rfu, (link_linkDrop u).trans ?_,
      (congrArg ChSt.linkSince (linkDrop_ch u c)).trans since⟩
    rw [Bool.and_assoc, ← Bool.not_or, fault, Bool.not_true, Bool.and_false]

end

/-- Settles O29: the five commands row by row. The rows of the two registers turn on `portCfg_cfg` and `chanCfg_cfg`: what a write sets in
motion leaves the configuration as written. -/
theorem portsChannelsAndAlignment : Obligations.PortsChannelsAndAlignment := by
  refine ⟨?_, ?_, ?_, ?_, ?_, ?_, ?_, ?_⟩
  · exact fun w p v s => portCfgWrite_off s
  · exact fun w p v s => portCfgWrite_on s
  · exact fun w c v s => chanCfgWrite_off s
  · exact fun w c v s => chanCfgWrite_on s
  · exact fun c a s => alignmentLock_aligns s
  · exact fun c a s => alignmentLock_skewed s
  · exact fun c s => alignmentLost_drops s
  · exact fun c lf rf s => rxFaultSequence_shows s lf rf

end Sys2Proof.Proofs
end

section
/-! SUPPORT. What command channels and locks look at, and that the arrival of a served access of the setup port leaves it: beats sent and
the access itself are counted elsewhere (R188, R281, R282, R378). -/

namespace Sys2Proof.Proofs

open Sys2Proof.Machine Sys2Proof.Laws

set_option Elab.async false

/-! ## Registers at given keys -/

/-- At the keys of `K` the registers hold in `t` what they held in `s`. -/
def KeptAt (K : Nat → Prop) (s t : State) : Prop := ∀ k, K k → mapGet fieldReset t.flds k = mapGet fieldReset s.flds k

namespace KeptAt

variable {K : Nat → Prop} {a s t : State}

theorem refl (s : State) : KeptAt K s s := fun _ _ => rfl

theorem trans (h : KeptAt K a s) (g : KeptAt K s t) : KeptAt K a t := fun k hk => (g k hk).trans (h k hk)

theorem of_kept {fs : List Fld} (h : Kept fs s t) (hfs : ∀ f ∈ fs, ¬ K f.key) : KeptAt K s t :=
  fun k hk => h k fun hm => by
    obtain ⟨f, hf, rfl⟩ := List.mem_map.mp hm
    exact hfs f hf hk

theorem each {α : Type} {l : List α} {f : State → α → State} (hf : ∀ t, ∀ x ∈ l, KeptAt K t (f t x)) : KeptAt K s (s.each l f) := by
  unfold State.each
  induction l generalizing s with
  | nil => exact refl s
  | cons x l ih => exact (hf s x List.mem_cons_self).trans (ih fun t y hy => hf t y (List.mem_cons_of_mem x hy))

end KeptAt

/-- Two changes in a row, each in fields of its own. -/
theorem kept_append {fs gs : List Fld} {a b c : State} (h : Kept gs a b) (g : Kept fs b c) : Kept (fs ++ gs) a c :=
  kept_trans (kept_mono (List.subset_append_right fs gs) h) (kept_mono (List.subset_append_left fs gs) g)

/-! ## What channels and locks look at -/

/-- Keys of the registers that channels and locks look at: those of the masters and of both units, `CC_CFG` of a channel, and
`NY_STAT.HALTED`. The words of channels are not among them. -/
def bankKey (k : Nat) : Prop :=
  (0x140000 * 32 ≤ k ∧ k < 0x148000 * 32) ∨ (0x148000 * 32 ≤ k ∧ k < 0x150000 * 32 ∧ k % 0x1000 = 0x54 * 32) ∨ k = NY_STAT_HALTED.key

/-- What channels and locks look at besides themselves stands in `t` as in `s`: registers, halt inputs, descriptor and time. -/
structure SameBank (s t : State) : Prop where
  regs : KeptAt bankKey s t
  halt : t.cc.halt = s.cc.halt
  sys : t.sys = s.sys
  tm : t.tm = s.tm

namespace SameBank

variable {a s t : State}

theorem trans (h : SameBank a s) (g : SameBank s t) : SameBank a t :=
  ⟨h.regs.trans g.regs, g.halt.trans h.halt, g.sys.trans h.sys, g.tm.trans h.tm⟩

theorem rd (h : SameBank s t) {o lo w : Nat} (hk : bankKey (o * 32 + lo) := by unfold bankKey; omega) :
    t.rd ⟨o, lo, w⟩ = s.rd ⟨o, lo, w⟩ := h.regs _ hk

/-- A master is halted in one as in the other (R281). -/
theorem halted (h : SameBank s t) : t.halted = s.halted := by
  funext m
  have core : t.is NY_STAT_HALTED = s.is NY_STAT_HALTED := congrArg (· == 1) (h.regs _ (.inr (.inr rfl)))
  unfold State.halted
  by_cases hm : m < 256
  · have valid : t.is (CC_MASTER_VALID m) = s.is (CC_MASTER_VALID m) := congrArg (· == 1) h.rd
    have input : t.rd (CC_MASTER_HALT m) = s.rd (CC_MASTER_HALT m) := h.rd
    simp only [core, valid, input, State.sdField, h.sys, h.halt]
  · simp only [core, hm, decide_false, Bool.false_and]

/-- Timers of a master hold or run alike (R289, R294). -/
theorem follow (h : SameBank s t) : t.follow = s.follow := by
  funext m x
  simp only [State.follow, State.mgNow, h.halted, h.sys, h.tm]

theorem freshLease (h : SameBank s t) (m : Nat) : t.freshLease m = s.freshLease m := by rw [State.freshLease, h.follow, State.freshLease]

theorem isConsumer (h : SameBank s t) (n : Fin 256) : t.isConsumer n = s.isConsumer n := by
  funext m
  have cfg : t.consumer n = s.consumer n := congrArg (min 64) h.rd
  unfold State.isConsumer
  by_cases hm : m < 256
  · have tgt : t.rd (CC_MASTER_TGT m) = s.rd (CC_MASTER_TGT m) := h.rd
    have en : t.is (CC_MASTER_TGT_EN m) = s.is (CC_MASTER_TGT_EN m) := congrArg (· == 1) h.rd
    simp only [cfg, tgt, en]
  · simp only [cfg, hm, decide_false, Bool.false_and]

theorem hasConsumer (h : SameBank s t) (n : Fin 256) : t.hasConsumer n = s.hasConsumer n := by
  have cfg : t.consumer n = s.consumer n := congrArg (min 64) h.rd
  rw [State.hasConsumer, cfg, h.isConsumer, State.hasConsumer]

/-- A counter of either unit after one more. -/
theorem rd_bump (h : SameBank s t) {o lo w : Nat} (hk : bankKey (o * 32 + lo) := by unfold bankKey; omega) :
    (t.bump ⟨o, lo, w⟩).rd ⟨o, lo, w⟩ = upBy s ⟨o, lo, w⟩ 1 := (rd_bump_same ..).trans (upBy_congr (h.rd hk))

end SameBank

/-! ## The arrival of a served access -/

/-- `u` is `s` with beats and an access counted: what channels and locks look at, and channels and locks themselves, stand. -/
structure Arrival (s u : State) : Prop where
  bank : SameBank s u
  cc : u.cc = s.cc
  kept : Kept portCounts s.settleBeats u

/-- The state in which a served read of the setup port takes effect. -/
def servedRead (s : State) (w : Who) (off : Nat) : State := s.settleBeats.spCount w false off

theorem guardRead_served {s : State} {w : Who} {off : Nat} (h : s.serves w off 4 = true) (f : State → Nat × State) :
    s.guardRead w off f = (f (servedRead s w off)).2.okay (f (servedRead s w off)).1 := if_pos h

theorem pcFields_not_bank (e : Nat) : ∀ f ∈ pcFields e, ¬ bankKey f.key := by
  simp only [pcFields, List.forall_mem_cons, Fld.key, bankKey, PC_CNT_LO_COUNT, PC_CNT_HI_COUNT, PC_OVF_OVF, NY_EVT_PC_OVF,
    NY_STAT_HALTED]
  refine ⟨?_, ?_, ?_, ?_, by simp⟩ <;> omega

theorem crossed_bank (s : State) (x n : Nat) : KeptAt bankKey s (s.crossed x n) := by
  refine .of_kept (fs := [SYS_XING_STAT_OCC_MAX x, SYS_XING_STAT_LAT_MAX x]) (kept_crossed _ _ (by simp) (by simp) (kept_refl s)) ?_
  simp only [List.forall_mem_cons, Fld.key, bankKey, SYS_XING_STAT_OCC_MAX, SYS_XING_STAT_LAT_MAX, NY_STAT_HALTED]
  refine ⟨?_, ?_, by simp⟩ <;> omega

theorem settleBeats_bank (s : State) : KeptAt bankKey s s.settleBeats := by
  refine KeptAt.each (s := { s with fab := { s.fab with sent := [] } }) fun t e _ => ?_
  have event : KeptAt bankKey t (t.pcEvent e.1 { addr := some e.2.1 } e.2.2) := .of_kept (kept_pcEvent _ _ _ _) (pcFields_not_bank _)
  split
  · exact .of_kept (fs := [CL_READS_LO_COUNT, CL_READS_HI_COUNT]) (kept_wr _ _ (by simp) (kept_wr _ _ (by simp) (kept_refl t)))
      (by simp [bankKey, Fld.key, CL_READS_LO_COUNT, CL_READS_HI_COUNT, NY_STAT_HALTED])
  · dsimp only
    split
    · exact event.trans (crossed_bank _ _ _)
    · exact event

theorem portCounts_not_bank : ∀ f ∈ portCounts, ¬ bankKey f.key := by unfold bankKey; decide

/-- Counting beats and an access changes the registers and the fabric's own part alone. -/
theorem same_spCount_settleBeats (s : State) (w : Who) (b : Bool) (off : Nat) {p : Part} (hr : p ≠ .regs) (hf : p ≠ .fab) :
    Same s (s.settleBeats.spCount w b off) p := by
  let P : Part → Prop := fun p => p = .regs ∨ p = .fab
  have : Fact (P .regs) := ⟨.inl rfl⟩
  have : Fact (P .fab) := ⟨.inr rfl⟩
  have h : Keeps P s (s.settleBeats.spCount w b off) := keeps_spCount w b off (keeps_settleBeats (Keeps.refl s))
  exact h.1 p (by simp [P, hr, hf])

theorem arrival_spCount (s : State) (w : Who) (b : Bool) (off : Nat) : Arrival s (s.settleBeats.spCount w b off) := by
  have cc : (s.settleBeats.spCount w b off).cc = s.cc := same_spCount_settleBeats s w b off (p := .cc) (by decide) (by decide)
  have kept := kept_spCount s.settleBeats w b off
  exact ⟨⟨(settleBeats_bank s).trans (.of_kept kept portCounts_not_bank), by rw [cc],
    same_spCount_settleBeats s w b off (p := .sys) (by decide) (by decide),
    same_spCount_settleBeats s w b off (p := .tm) (by decide) (by decide)⟩, cc, kept⟩

theorem arrival_served (s : State) (w : Who) (off : Nat) : Arrival s (served s w off) := arrival_spCount s w true off

theorem arrival_servedRead (s : State) (w : Who) (off : Nat) : Arrival s (servedRead s w off) := arrival_spCount s w false off

namespace Arrival

variable {s u : State}

theorem chan (h : Arrival s u) (n : Nat) : u.chan n = s.chan n := by rw [State.chan, h.cc, State.chan]

theorem lock (h : Arrival s u) (l : Nat) : u.lock l = s.lock l := by rw [State.lock, h.cc, State.lock]

end Arrival

end Sys2Proof.Proofs
end

section
/-! PROOFS. The life of a command channel (R282 to R290). -/

namespace Sys2Proof.Proofs

open Sys2Proof.Machine Sys2Proof.Laws

set_option Elab.async false

/-! ## What the operations of a channel change -/

theorem is_raise {s : State} {o lo : Nat} : (s.raise ⟨o, lo, 1⟩).is ⟨o, lo, 1⟩ = true := is_put (b := true)

section
variable (s : State)

theorem pcEvent_cc (e : Nat) (a : PcAttr) (n : Nat) : (s.pcEvent e a n).cc = s.cc := by
  obtain ⟨l, h⟩ := pcEvent_eq s e a n
  rw [h]

theorem kept_ccReject : Kept [CC_REJ_COUNT, CC_EVT_REJ] s s.ccReject := kept_wr _ _ (by simp) (kept_wr _ _ (by simp) (kept_refl s))

/-- Writing a run of fields changes registers alone. -/
theorem each_wr_eq {α : Type} (l : List α) (F : α → Fld) (v : Nat) : ∃ m, (s.each l fun s x => s.wr (F x) v) = { s with flds := m } := by
  unfold State.each
  induction l generalizing s with
  | nil => exact ⟨s.flds, rfl⟩
  | cons x l ih => exact ih (s.wr (F x) v)

theorem kept_each_wr {α : Type} (l : List α) (F : α → Fld) (v : Nat) : Kept (l.map F) s (s.each l fun s x => s.wr (F x) v) := by
  unfold State.each
  induction l generalizing s with
  | nil => exact kept_refl s
  | cons x l ih =>
    exact kept_trans (kept_wr _ _ List.mem_cons_self (kept_refl s)) (kept_mono (List.subset_cons_self ..) (ih _))

/-- A field of a run that is zeroed, or that was zero, reads zero. -/
theorem rd_each_zero {α : Type} {l : List α} {F : α → Fld} {x : α} (h : x ∈ l ∨ s.rd (F x) = 0) :
    (s.each l fun s y => s.wr (F y) 0).rd (F x) = 0 := by
  unfold State.each
  induction l generalizing s with
  | nil => simpa using h
  | cons y l ih =>
    refine ih (s.wr (F y) 0) ?_
    rw [rd_wr, Nat.zero_mod]
    rcases h with h | h
    · rcases List.mem_cons.mp h with rfl | h
      · exact .inr (if_pos rfl)
      · exact .inl h
    · exact .inr (by rw [h, ite_self])

variable (n : Nat)

theorem zeroWords_eq : ∃ l, s.zeroWords n = { s with flds := l } := each_wr_eq s (List.range 16) (CC_W_WORD n) 0

theorem zeroWords_cc : (s.zeroWords n).cc = s.cc := by
  obtain ⟨l, h⟩ := zeroWords_eq s n
  rw [h]

theorem kept_zeroWords : Kept ((List.range 16).map (CC_W_WORD n)) s (s.zeroWords n) := kept_each_wr s (List.range 16) (CC_W_WORD n) 0

theorem rd_zeroWords (i : Fin 16) : (s.zeroWords n).rd (CC_W_WORD n i) = 0 := rd_each_zero s (.inl (List.mem_range.mpr i.2))

/-- The words of a channel are none of what channels look at. -/
theorem bank_zeroWords {n : Nat} (hn : n < 256) : SameBank s (s.zeroWords n) := by
  obtain ⟨l, h⟩ := zeroWords_eq s n
  refine ⟨.of_kept (kept_zeroWords s n) ?_, by rw [h], by rw [h], by rw [h]⟩
  simp only [List.forall_mem_map, List.mem_range, Fld.key, bankKey, CC_W_WORD, NY_STAT_HALTED]
  omega

theorem chan_zeroWords (k : Nat) : (s.zeroWords n).chan k = s.chan k := by rw [State.chan, zeroWords_cc, State.chan]

/-- A change of a channel alone. -/
theorem bank_setChan (c : ChanSt) : SameBank s (s.setChan n c) := ⟨.refl s, rfl, rfl, rfl⟩

theorem chan_freeChan (k : Nat) : (s.freeChan n).chan k = if k = n then { token := (s.chan n).token } else s.chan k := by
  rw [State.freeChan, chan_setChan, chan_zeroWords]

theorem rd_freeChan (f : Fld) : (s.freeChan n).rd f = (s.zeroWords n).rd f := setChan_rd ..

theorem kept_freeChan : Kept ((List.range 16).map (CC_W_WORD n)) s (s.freeChan n) := kept_flds (setChan_flds ..) (kept_zeroWords s n)

theorem bank_freeChan {n : Nat} (hn : n < 256) : SameBank s (s.freeChan n) := (bank_zeroWords s hn).trans (bank_setChan ..)

/-- What a claim makes of a channel (R283, R284, R289). -/
def claimedChan (m : Nat) : ChanSt :=
  { state := 1, token := nextToken (s.chan n).token, owner := m, lease := s.freshLease m, limit := s.rd CC_CTRL_LEASE_US }

/-- The state in which a claim is answered. -/
def claimed (m : Nat) : State := (s.zeroWords n).setChan n (claimedChan s n m)

theorem chan_claimed (m k : Nat) : (claimed s n m).chan k = if k = n then claimedChan s n m else s.chan k := by
  rw [claimed, chan_setChan, chan_zeroWords]

theorem rd_claimed (m : Nat) (f : Fld) : (claimed s n m).rd f = (s.zeroWords n).rd f := setChan_rd ..

theorem kept_claimed (m : Nat) : Kept ((List.range 16).map (CC_W_WORD n)) s (claimed s n m) :=
  kept_flds (setChan_flds ..) (kept_zeroWords s n)

theorem bank_claimed {n : Nat} (hn : n < 256) (m : Nat) : SameBank s (claimed s n m) := (bank_zeroWords s hn).trans (bank_setChan ..)

theorem ccClaim_free {n : Nat} (h : (s.chan n).state = 0) (m : Nat) :
    s.ccClaim n m = ((claimed s n m).chanWord n true, claimed s n m) := if_pos h

theorem ccClaim_busy {n : Nat} (h : (s.chan n).state ≠ 0) (m : Nat) : s.ccClaim n m = (s.chanWord n false, s) := if_neg h

end

/-! ## What a commit, a done and a release are tested for -/

section
variable {s : State} {n m v : Nat}

theorem commitOk_iff : s.commitOk n m v = true ↔ (s.chan n).state = 1 ∧ (s.chan n).owner = m ∧ bits v 0 16 = (s.chan n).token ∧
    1 ≤ bits v 16 5 ∧ bits v 16 5 ≤ 16 ∧ bits v 21 11 = 0 ∧ s.hasConsumer n = true := by
  simp only [State.commitOk, Bool.and_eq_true, beq_iff_eq, decide_eq_true_eq, and_assoc]

theorem commitOk_eq_false : s.commitOk n m v = false ↔ (s.chan n).state ≠ 1 ∨ (s.chan n).owner ≠ m ∨ bits v 0 16 ≠ (s.chan n).token ∨
    bits v 16 5 < 1 ∨ 16 < bits v 16 5 ∨ bits v 21 11 ≠ 0 ∨ s.hasConsumer n = false := by
  rw [← Bool.not_eq_true, commitOk_iff]
  simp only [not_and_or, not_le, Bool.not_eq_true]

theorem ccCommit_refused (h : s.commitOk n m v = false) : s.ccCommit n m v = s.ccReject := if_neg (by simp [h])

theorem doneOk_iff : s.doneOk n m v = true ↔ (s.chan n).state = 2 ∧ s.isConsumer n m = true ∧ bits v 0 4 ≤ 8 ∧ bits v 4 5 ≤ 16 ∧
    bits v 9 23 = 0 := by
  simp only [State.doneOk, Bool.and_eq_true, beq_iff_eq, decide_eq_true_eq, and_assoc]

theorem doneOk_eq_false : s.doneOk n m v = false ↔ (s.chan n).state ≠ 2 ∨ s.isConsumer n m = false ∨ 8 < bits v 0 4 ∨
    16 < bits v 4 5 ∨ bits v 9 23 ≠ 0 := by
  rw [← Bool.not_eq_true, doneOk_iff]
  simp only [not_and_or, not_le, Bool.not_eq_true]

theorem ccDone_refused (h : s.doneOk n m v = false) : s.ccDone n m v = s.ccReject := if_neg (by simp [h])

/-- The token of a release word. -/
theorem bits_token (v : Nat) : bits v 0 16 = v % 2 ^ 16 := by rw [bits, Nat.pow_zero, Nat.div_one]

theorem ccRelease_ok (hst : (s.chan n).state = 1 ∨ (s.chan n).state = 3) (ho : (s.chan n).owner = m) (ht : v % 2 ^ 16 = (s.chan n).token) :
    s.ccRelease n m v = s.freeChan n := if_pos ⟨hst, ho, (bits_token v).trans ht⟩

theorem ccRelease_refused (h : ((s.chan n).state ≠ 1 ∧ (s.chan n).state ≠ 3) ∨ (s.chan n).owner ≠ m ∨ v % 2 ^ 16 ≠ (s.chan n).token) :
    s.ccRelease n m v = s.ccReject := by
  refine if_neg ?_
  rw [bits_token, not_and_or, not_and_or, not_or]
  exact h

end

namespace Arrival

variable {s u : State} {n : Fin 256}

theorem chanWord (h : Arrival s u) (b : Bool) : u.chanWord n b = s.chanWord n b := by
  simp only [State.chanWord, h.chan, h.bank.halted]

theorem commitOk (h : Arrival s u) (m v : Nat) : u.commitOk n m v = s.commitOk n m v := by
  simp only [State.commitOk, h.chan, h.bank.hasConsumer]

theorem doneOk (h : Arrival s u) (m v : Nat) : u.doneOk n m v = s.doneOk n m v := by
  simp only [State.doneOk, h.chan, h.bank.isConsumer]

theorem wordOpen (h : Arrival s u) (m : Nat) : u.wordOpen n m = s.wordOpen n m := by
  simp only [State.wordOpen, h.chan, h.bank.isConsumer]

/-- A claim that arrives finds the channel as it stands. -/
theorem claimedChan (h : Arrival s u) (m : Nat) : Proofs.claimedChan u n m = Proofs.claimedChan s n m := by
  have limit : u.rd CC_CTRL_LEASE_US = s.rd CC_CTRL_LEASE_US := h.bank.rd
  simp only [Proofs.claimedChan, h.chan, h.bank.freshLease, limit]

end Arrival

/-- In `t` channel `n` of `s` has come free: its token stays, its words are zero, and the other channels stand (R282). -/
structure Freed (s : State) (n : Fin 256) (t : State) : Prop where
  own : t.chan n = { token := (s.chan n).token }
  others : ∀ k, k ≠ n.val → t.chan k = s.chan k
  words : ∀ i : Fin 16, t.rd (CC_W_WORD n i) = 0
  bank : SameBank s t
  kept : Kept ((List.range 16).map (CC_W_WORD n) ++ portCounts) s.settleBeats t

theorem freed_freeChan {s u : State} (h : Arrival s u) (n : Fin 256) : Freed s n (u.freeChan n) where
  own := by rw [chan_freeChan, if_pos rfl, h.chan]
  others k hk := by rw [chan_freeChan, if_neg hk, h.chan]
  words i := (rd_freeChan ..).trans (rd_zeroWords u n i)
  bank := h.bank.trans (bank_freeChan u n.2)
  kept := kept_append h.kept (kept_freeChan u n)

/-! ## The rows of command channels -/

section
variable (s : State) {w : Who} {n : Fin 256} {v : Word}

theorem exec_ccClaim_served (h : s.serves w (ccOff n + 0x40) 4 = true) : let r := (servedRead s w (ccOff n + 0x40)).ccClaim n w.master
    exec (.ccClaim w n) s = .next (r.2.okay r.1) := congrArg Host.Outcome.next (guardRead_served h _)

theorem exec_ccWordWrite_served {i : Fin 16} (h : s.serves w (ccOff n + 4 * i) 4 = true) :
    exec (.ccWordWrite w n i v) s = .next (((served s w (ccOff n + 4 * i)).ccWord n i w.master v.toNat).okay 0) :=
  congrArg Host.Outcome.next (guardWrite_served h _)

theorem exec_ccCommit_served (h : s.serves w (ccOff n + 0x44) 4 = true) :
    exec (.ccCommit w n v) s = .next (((served s w (ccOff n + 0x44)).ccCommit n w.master v.toNat).okay 0) :=
  congrArg Host.Outcome.next (guardWrite_served h _)

theorem exec_ccDone_served (h : s.serves w (ccOff n + 0x48) 4 = true) :
    exec (.ccDone w n v) s = .next (((served s w (ccOff n + 0x48)).ccDone n w.master v.toNat).okay 0) :=
  congrArg Host.Outcome.next (guardWrite_served h _)

theorem exec_ccRelease_served (h : s.serves w (ccOff n + 0x4C) 4 = true) :
    exec (.ccRelease w n v) s = .next (((served s w (ccOff n + 0x4C)).ccRelease n w.master v.toNat).okay 0) :=
  congrArg Host.Outcome.next (guardWrite_served h _)

theorem exec_ccBreak_served (h : s.serves w 0x140008 4 = true) :
    exec (.ccBreak w n) s = .next (((served s w 0x140008).ccBreak n).okay 0) :=
  congrArg Host.Outcome.next (guardWrite_served h _)

/-- What a channel refuses is answered `OKAY`, counted and reported, and changes nothing else (R282 to R290). -/
theorem channel_refuses {c : Instr} {off : Nat} (he : exec c s = .next ((served s w off).ccReject.okay 0)) :
    ∃ t, exec c s = .next t ∧ t.sp = ⟨true, 0⟩ ∧ t.cc = s.cc ∧ t.rd CC_REJ_COUNT = upBy s CC_REJ_COUNT 1 ∧
      t.is CC_EVT_REJ = true ∧ Kept ([CC_REJ_COUNT, CC_EVT_REJ] ++ portCounts) s.settleBeats t := by
  have h := arrival_served s w off
  have counted : (served s w off).ccReject.rd CC_REJ_COUNT = upBy s CC_REJ_COUNT 1 := Eq.trans rd_wr_ne h.bank.rd_bump
  have reported : (served s w off).ccReject.is CC_EVT_REJ = true := is_raise
  exact ⟨_, he, rfl, h.cc, counted, reported, kept_append h.kept (kept_ccReject _)⟩

/-- R283 for a `FREE` channel. -/
theorem ccClaim_takes (hs : s.serves w (ccOff n + 0x40) 4 = true) (h0 : (s.chan n).state = 0) :
    ∃ t, exec (.ccClaim w n) s = .next t ∧ (t.chan n).state = 1 ∧ (t.chan n).owner = w.master ∧
      (t.chan n).token = (if (s.chan n).token ≥ 0xFFFF then 1 else (s.chan n).token + 1) ∧
      (t.chan n).lease = s.freshLease w.master ∧ (t.chan n).limit = s.rd CC_CTRL_LEASE_US ∧
      t.sp = ⟨true, (t.chan n).token + 2 ^ 16 * w.master + 2 ^ 25 + 2 ^ 28 * b2n (s.halted w.master) + 2 ^ 31⟩ ∧
      (∀ i : Fin 16, t.rd (CC_W_WORD n i) = 0) ∧ (∀ k, k ≠ n.val → t.chan k = s.chan k) ∧
      Kept ((List.range 16).map (CC_W_WORD n) ++ portCounts) s.settleBeats t := by
  let u := servedRead s w (ccOff n + 0x40)
  have h : Arrival s u := arrival_servedRead ..
  have run : exec (.ccClaim w n) s = .next ((claimed u n w.master).okay ((claimed u n w.master).chanWord n true)) := by
    rw [exec_ccClaim_served s hs, ccClaim_free u (by rw [h.chan, h0])]
  have chan : (claimed u n w.master).chan n = claimedChan s n w.master := by rw [chan_claimed, if_pos rfl, h.claimedChan]
  have halted : (claimed u n w.master).halted = s.halted := (h.bank.trans (bank_claimed u n.2 _)).halted
  have others (k : Nat) (hk : k ≠ n.val) : (claimed u n w.master).chan k = s.chan k := by
    rw [chan_claimed, if_neg hk, h.chan]
  have word : (claimed u n w.master).chanWord n true =
      ((claimed u n w.master).chan n).token + 2 ^ 16 * w.master + 2 ^ 25 + 2 ^ 28 * b2n (s.halted w.master) + 2 ^ 31 := by
    simp only [State.chanWord, chan, halted, claimedChan]
    rfl
  have words (i : Fin 16) : (claimed u n w.master).rd (CC_W_WORD n i) = 0 := (rd_claimed ..).trans (rd_zeroWords u n i)
  have kept := kept_append h.kept (kept_claimed u n w.master)
  generalize claimed u n w.master = t at run chan others word words kept
  refine ⟨_, run, ?_, ?_, ?_, ?_, ?_, congrArg (SpAnswer.mk true) word, words, others, kept⟩
  all_goals exact congrArg _ chan

/-- R283 for any other channel: the busy answer. -/
theorem ccClaim_answers_busy (hs : s.serves w (ccOff n + 0x40) 4 = true) (h0 : (s.chan n).state ≠ 0) :
    ∃ t, exec (.ccClaim w n) s = .next t ∧ t.cc = s.cc ∧ t.sp = ⟨true, s.chanWord n false⟩ ∧ Kept portCounts s.settleBeats t := by
  have h := arrival_servedRead s w (ccOff n + 0x40)
  refine ⟨_, exec_ccClaim_served s hs, ?_⟩
  rw [ccClaim_busy _ (by rwa [h.chan]), h.chanWord]
  exact ⟨h.cc, rfl, h.kept⟩

/-- R286: a commit that passes its tests. -/
theorem ccCommit_commits (hs : s.serves w (ccOff n + 0x44) 4 = true) (hok : s.commitOk n w.master v.toNat = true) :
    ∃ t, exec (.ccCommit w n v) s = .next t ∧ t.sp = ⟨true, 0⟩ ∧
      t.chan n = { s.chan n with state := 2, count := bits v.toNat 16 5, lease := {} } ∧ (∀ k, k ≠ n.val → t.chan k = s.chan k) ∧
      Kept (portCounts ++ [PC_CNT_LO_COUNT 836, PC_CNT_HI_COUNT 836, PC_OVF_OVF 26]) s.settleBeats t := by
  let u := served s w (ccOff n + 0x44)
  have h : Arrival s u := arrival_served ..
  let c : ChanSt := { s.chan n with state := 2, count := bits v.toNat 16 5, lease := {} }
  have run : exec (.ccCommit w n v) s = .next (((u.setChan n c).pcEvent 836).okay 0) := by
    rw [exec_ccCommit_served s hs, State.ccCommit, if_pos ((h.commitOk ..).trans hok), h.chan]
  have chan (k : Nat) : ((u.setChan n c).pcEvent 836).chan k = if k = n then c else s.chan k := by
    rw [State.chan, pcEvent_cc, ← h.chan]
    exact chan_setChan ..
  exact ⟨_, run, rfl, (chan n).trans (if_pos rfl), fun k hk => (chan k).trans (if_neg hk),
    kept_mono (by decide) (kept_append h.kept (kept_pcEvent (u.setChan n c) 836 {} 1))⟩

/-- R287: a done that passes its tests. -/
theorem ccDone_finishes (hs : s.serves w (ccOff n + 0x48) 4 = true) (hok : s.doneOk n w.master v.toNat = true) :
    ∃ t, exec (.ccDone w n v) s = .next t ∧ t.sp = ⟨true, 0⟩ ∧ (t.chan n).state = 3 ∧ (t.chan n).owner = (s.chan n).owner ∧
      (t.chan n).token = (s.chan n).token ∧ (t.chan n).lease = s.freshLease (s.chan n).owner ∧
      t.rd (CC_RESULT_STATUS n) = bits v.toNat 0 4 ∧ t.rd (CC_RESULT_RCOUNT n) = bits v.toNat 4 5 ∧
      (∀ k, k ≠ n.val → t.chan k = s.chan k) ∧ Kept ([CC_RESULT_STATUS n, CC_RESULT_RCOUNT n] ++ portCounts) s.settleBeats t := by
  let u := served s w (ccOff n + 0x48)
  have h : Arrival s u := arrival_served ..
  let c : ChanSt := { s.chan n with state := 3, lease := s.freshLease (s.chan n).owner, limit := u.rd CC_CTRL_LEASE_US }
  let r := (u.wr (CC_RESULT_STATUS n) (bits v.toNat 0 4)).wr (CC_RESULT_RCOUNT n) (bits v.toNat 4 5)
  have run : exec (.ccDone w n v) s = .next ((r.setChan n c).okay 0) := by
    rw [exec_ccDone_served s hs, State.ccDone, if_pos ((h.doneOk ..).trans hok), h.chan]
    dsimp only
    rw [h.bank.freshLease]
  have chan (k : Nat) : (r.setChan n c).chan k = if k = n then c else s.chan k := by
    rw [← h.chan]
    exact chan_setChan ..
  have own : (r.setChan n c).chan n = c := (chan n).trans (if_pos rfl)
  have kept : Kept [CC_RESULT_STATUS n, CC_RESULT_RCOUNT n] u r := kept_wr _ _ (by simp) (kept_wr _ _ (by simp) (kept_refl u))
  exact ⟨_, run, rfl, (congrArg ChanSt.state own :), (congrArg ChanSt.owner own :), (congrArg ChanSt.token own :), (congrArg ChanSt.lease own :),
    Eq.trans rd_wr_ne ((rd_wr_same ..).trans (Nat.mod_mod ..)), (rd_wr_same ..).trans (Nat.mod_mod ..),
    fun k hk => (chan k).trans (if_neg hk), kept_append h.kept kept⟩

/-- R288: the owner releases with the current token. -/
theorem ccRelease_frees (hs : s.serves w (ccOff n + 0x4C) 4 = true) (hst : (s.chan n).state = 1 ∨ (s.chan n).state = 3)
    (ho : (s.chan n).owner = w.master) (ht : v.toNat % 2 ^ 16 = (s.chan n).token) :
    ∃ t, exec (.ccRelease w n v) s = .next t ∧ t.sp = ⟨true, 0⟩ ∧ t.chan n = { token := (s.chan n).token } ∧
      (∀ i : Fin 16, t.rd (CC_W_WORD n i) = 0) ∧ (∀ k, k ≠ n.val → t.chan k = s.chan k) ∧
      Kept ((List.range 16).map (CC_W_WORD n) ++ portCounts) s.settleBeats t := by
  let u := served s w (ccOff n + 0x4C)
  have h : Arrival s u := arrival_served ..
  have run : exec (.ccRelease w n v) s = .next ((u.freeChan n).okay 0) := by
    rw [← h.chan] at hst ho ht
    rw [exec_ccRelease_served s hs, ccRelease_ok hst ho ht]
  have freed : Freed s n (u.freeChan n) := freed_freeChan h n
  generalize u.freeChan n = t at run freed
  exact ⟨_, run, rfl, freed.own, freed.words, freed.others, freed.kept⟩

/-- R285: a write of a word. -/
theorem ccWordWrite_writes {i : Fin 16} (hs : s.serves w (ccOff n + 4 * i) 4 = true) :
    ∃ t, exec (.ccWordWrite w n i v) s = .next t ∧ t.sp = ⟨true, 0⟩ ∧ t.cc = s.cc ∧
      (if s.wordOpen n w.master = true
        then t.rd (CC_W_WORD n i) = v.toNat ∧ Kept (CC_W_WORD n i :: portCounts) s.settleBeats t
        else t.rd CC_REJ_COUNT = upBy s CC_REJ_COUNT 1 ∧ t.is CC_EVT_REJ = true ∧
          Kept ([CC_REJ_COUNT, CC_EVT_REJ] ++ portCounts) s.settleBeats t) := by
  let u := served s w (ccOff n + 4 * i)
  have h : Arrival s u := arrival_served ..
  have run : exec (.ccWordWrite w n i v) s =
      .next ((if s.wordOpen n w.master then u.wr (CC_W_WORD n i) v.toNat else u.ccReject).okay 0) := by
    rw [exec_ccWordWrite_served s hs, State.ccWord, h.wordOpen]
  by_cases writable : s.wordOpen n w.master = true
  · simp only [if_pos writable] at run ⊢
    exact ⟨_, run, rfl, h.cc, (rd_wr_same ..).trans (Nat.mod_eq_of_lt v.isLt),
      kept_append (fs := [CC_W_WORD n i]) h.kept (kept_wr _ _ (by simp) (kept_refl u))⟩
  · simp only [if_neg writable] at run ⊢
    exact channel_refuses s run

/-- R290 for a channel that is not `FREE`. -/
theorem ccBreak_frees (hs : s.serves w 0x140008 4 = true) (h0 : (s.chan n).state ≠ 0) :
    ∃ t, exec (.ccBreak w n) s = .next t ∧ t.sp = ⟨true, 0⟩ ∧ t.chan n = { token := (s.chan n).token } ∧
      (∀ i : Fin 16, t.rd (CC_W_WORD n i) = 0) ∧ t.rd CC_EXP_CNT_BRK = upBy s CC_EXP_CNT_BRK 1 ∧ t.is CC_EVT_BREAK = true ∧
      (∀ k, k ≠ n.val → t.chan k = s.chan k) := by
  let u := served s w 0x140008
  have h : Arrival s u := arrival_served ..
  have run : exec (.ccBreak w n) s = .next ((((u.freeChan n).bump CC_EXP_CNT_BRK).raise CC_EVT_BREAK).okay 0) := by
    rw [exec_ccBreak_served s hs, State.ccBreak, if_neg (by rwa [h.chan])]
  have freed : Freed s n (u.freeChan n) := freed_freeChan h n
  generalize u.freeChan n = t at run freed
  let x := (t.bump CC_EXP_CNT_BRK).raise CC_EVT_BREAK
  have words (i : Fin 16) : x.rd (CC_W_WORD n i) = 0 := Eq.trans rd_wr_ne (Eq.trans rd_wr_ne (freed.words i))
  have counted : x.rd CC_EXP_CNT_BRK = upBy s CC_EXP_CNT_BRK 1 := Eq.trans rd_wr_ne freed.bank.rd_bump
  have reported : x.is CC_EVT_BREAK = true := is_raise
  exact ⟨_, run, rfl, freed.own, words, counted, reported, freed.others⟩

end

/-- Settles O9: each row by what its access does in the state in which it arrives. The rows of refusals are one lemma, `channel_refuses`,
under the tests that fail. -/
theorem commandChannels : Obligations.CommandChannels := by
  refine ⟨?claim, ?busy, ?commit, ?done, ?release, ?word, ?commitRefused, ?doneRefused, ?releaseRefused, ?freed, ?breakRefused⟩
  case claim => exact fun w n s => ccClaim_takes s
  case busy => exact fun w n s => ccClaim_answers_busy s
  case commit =>
    intro w n v s hs hst ho ht hlo hhi hres hc
    exact ccCommit_commits s hs (commitOk_iff.mpr ⟨hst, ho, ht, hlo, hhi, hres, hc⟩)
  case done =>
    intro w n v s hs hst hc hstat hcount hres
    exact ccDone_finishes s hs (doneOk_iff.mpr ⟨hst, hc, hstat, hcount, hres⟩)
  case release => exact fun w n v s => ccRelease_frees s
  case word => exact fun w n i v s => ccWordWrite_writes s
  case commitRefused =>
    intro w n v s hs bad
    have refused := ((arrival_served s w (ccOff n + 0x44)).commitOk ..).trans (commitOk_eq_false.mpr bad)
    exact channel_refuses s (by rw [exec_ccCommit_served s hs, ccCommit_refused refused])
  case doneRefused =>
    intro w n v s hs bad
    have refused := ((arrival_served s w (ccOff n + 0x48)).doneOk ..).trans (doneOk_eq_false.mpr bad)
    exact channel_refuses s (by rw [exec_ccDone_served s hs, ccDone_refused refused])
  case releaseRefused =>
    intro w n v s hs bad
    rw [← (arrival_served s w (ccOff n + 0x4C)).chan] at bad
    exact channel_refuses s (by rw [exec_ccRelease_served s hs, ccRelease_refused bad])
  case freed => exact fun w n s => ccBreak_frees s
  case breakRefused =>
    intro w n s hs h0
    rw [← (arrival_served s w 0x140008).chan] at h0
    exact channel_refuses s (by rw [exec_ccBreak_served s hs, State.ccBreak, if_pos h0])

end Sys2Proof.Proofs
end

section
/-! PROOFS. Locks of the tumbler bank (R291 to R294). -/

namespace Sys2Proof.Proofs

open Sys2Proof.Machine Sys2Proof.Laws

set_option Elab.async false

/-! ## What the operations of a lock change -/

section
variable (s : State) {l m v : Nat}

theorem lock_freeLock (k : Nat) : (s.freeLock l).lock k = if k = l then ⟨false, 0, (s.lock l).token⟩ else s.lock k := lock_setLock ..

theorem freeLock_flds : (s.freeLock l).flds = s.flds := setLock_flds ..

/-- A change of a lock alone. -/
theorem bank_freeLock : SameBank s (s.freeLock l) := ⟨.refl s, rfl, rfl, rfl⟩

theorem lock_endWant (k : Nat) : (s.endWant m).lock k = s.lock k := rfl
theorem endWant_flds : (s.endWant m).flds = s.flds := setWants_flds ..
theorem want_locks : (s.want m l).cc.locks = s.cc.locks := rfl
theorem want_chans : (s.want m l).cc.chans = s.cc.chans := rfl

theorem lock_pcEvent (e : Nat) (a : PcAttr) (n k : Nat) : (s.pcEvent e a n).lock k = s.lock k := by rw [State.lock, pcEvent_cc, State.lock]

theorem kept_bump (f : Fld) : Kept [f] s (s.bump f) := kept_wr _ _ (by simp) (kept_refl s)

variable {s}

/-- R292 for a free lock. -/
theorem tbAcq_free (h : (s.lock l).held = false) : s.tbAcq l m = (2 ^ 31 + 2 ^ 16 * m + nextToken (s.lock l).token,
    ((s.setLock l ⟨true, m, nextToken (s.lock l).token⟩).endWant m).pcEvent 837) := if_neg (by simp [h])

/-- R292 for a held lock. -/
theorem tbAcq_held (h : (s.lock l).held = true) : s.tbAcq l m = (s.lockWord l, (s.want m l).pcEvent 838) := if_pos h

theorem lockWord_held (h : (s.lock l).held = true) :
    s.lockWord l = 2 ^ 16 * (s.lock l).holder + 2 ^ 28 * b2n (s.halted (s.lock l).holder) + 2 ^ 30 := if_pos h

/-- A master that wants a lock is walk-pending (R294). -/
theorem walks_want : (s.want m l).cc.walks.contains m = true := by
  unfold State.want
  dsimp only
  split
  · assumption
  · simp

theorem wants_want : optGet (s.want m l).cc.wants m = some ⟨l, s.follow m {}⟩ := (optGet_set ..).trans (if_pos rfl)

theorem tbRel_eq : s.tbRel l m v = if (s.lock l).held = true ∧ (s.lock l).holder = m ∧ v % 2 ^ 16 = (s.lock l).token
    then s.freeLock l else s.bump TB_REJ_COUNT := by
  rw [State.tbRel, bits_token]

/-- R294: a want ends where the master wants this lock. -/
theorem tbUnwant_eq : s.tbUnwant l m = if (optGet s.cc.wants m).map (·.lock) = some l then s.endWant m else s := by
  unfold State.tbUnwant
  cases optGet s.cc.wants m <;> simp

end

namespace Arrival

variable {s u : State} {l : Nat}

theorem freeLock (h : Arrival s u) : (u.freeLock l).lock l = ⟨false, 0, (s.lock l).token⟩ := by
  rw [lock_freeLock, if_pos rfl, h.lock]

theorem freeLock_ne (h : Arrival s u) {k : Nat} (hk : k ≠ l) : (u.freeLock l).lock k = s.lock k := by
  rw [lock_freeLock, if_neg hk, h.lock]

end Arrival

/-! ## The rows of the tumbler bank -/

section
variable (s : State) {w : Who} {l : Fin 1024} {v : Word}

theorem exec_tbAcq_served (h : s.serves w (tbOff l) 4 = true) : let r := (servedRead s w (tbOff l)).tbAcq l w.master
    exec (.tbAcq w l) s = .next (r.2.okay r.1) := congrArg Host.Outcome.next (guardRead_served h _)

theorem exec_tbRel_served (h : s.serves w (tbOff l + 4) 4 = true) :
    exec (.tbRel w l v) s = .next (((served s w (tbOff l + 4)).tbRel l w.master v.toNat).okay 0) :=
  congrArg Host.Outcome.next (guardWrite_served h _)

theorem exec_tbForce_served (h : s.serves w 0x141008 4 = true) :
    exec (.tbForce w l) s = .next (((served s w 0x141008).tbForce l).okay 0) := congrArg Host.Outcome.next (guardWrite_served h _)

theorem exec_tbUnwant_served (h : s.serves w (tbOff l + 0xC) 4 = true) :
    exec (.tbUnwant w l) s = .next (((served s w (tbOff l + 0xC)).tbUnwant l w.master).okay 0) :=
  congrArg Host.Outcome.next (guardWrite_served h _)

/-- R292: an acquire of a free lock takes it. -/
theorem tbAcq_takes (hs : s.serves w (tbOff l) 4 = true) (hf : (s.lock l).held = false) :
    ∃ t, exec (.tbAcq w l) s = .next t ∧ (t.lock l).held = true ∧ (t.lock l).holder = w.master ∧
      (t.lock l).token = (if (s.lock l).token ≥ 0xFFFF then 1 else (s.lock l).token + 1) ∧
      t.sp = ⟨true, 2 ^ 31 + 2 ^ 16 * w.master + (t.lock l).token⟩ ∧ (∀ k, k ≠ l.val → t.lock k = s.lock k) ∧
      t.cc.wants = mapErase w.master s.cc.wants ∧ t.cc.chans = s.cc.chans := by
  let u := servedRead s w (tbOff l)
  have h : Arrival s u := arrival_servedRead ..
  let x : LockSt := ⟨true, w.master, nextToken (s.lock l).token⟩
  let r := (u.setLock l x).endWant w.master
  have run : exec (.tbAcq w l) s = .next ((r.pcEvent 837).okay (2 ^ 31 + 2 ^ 16 * w.master + x.token)) := by
    rw [exec_tbAcq_served s hs, tbAcq_free (by rwa [h.lock]), h.lock]
  have cc : (r.pcEvent 837).cc = r.cc := pcEvent_cc ..
  have lock (k : Nat) : (r.pcEvent 837).lock k = if k = l then x else s.lock k := by
    rw [lock_pcEvent, lock_endWant, lock_setLock, h.lock]
  have own : (r.pcEvent 837).lock l = x := (lock l).trans (if_pos rfl)
  have wants : (r.pcEvent 837).cc.wants = mapErase w.master s.cc.wants := by rw [cc, ← h.cc]; rfl
  have chans : (r.pcEvent 837).cc.chans = s.cc.chans := by rw [cc, ← h.cc]; rfl
  generalize r.pcEvent 837 = t at run lock own wants chans
  refine ⟨_, run, ?_, ?_, ?_, congrArg (SpAnswer.mk true) ?answer, fun k hk => (lock k).trans (if_neg hk), wants, chans⟩
  case answer => exact congrArg (2 ^ 31 + 2 ^ 16 * w.master + LockSt.token ·) own.symm
  all_goals exact congrArg _ own

/-- R292, R294: an acquire of a held lock records the want and asks for a walk. -/
theorem tbAcq_waits (hs : s.serves w (tbOff l) 4 = true) (hh : (s.lock l).held = true) :
    ∃ t, exec (.tbAcq w l) s = .next t ∧ t.cc.locks = s.cc.locks ∧
      t.sp = ⟨true, 2 ^ 16 * (s.lock l).holder + 2 ^ 28 * b2n (s.halted (s.lock l).holder) + 2 ^ 30⟩ ∧
      t.cc.walks.contains w.master = true ∧ (optGet t.cc.wants w.master).map (·.lock) = some l.val ∧ t.cc.chans = s.cc.chans := by
  let u := servedRead s w (tbOff l)
  have h : Arrival s u := arrival_servedRead ..
  have held : (u.lock l).held = true := by rwa [h.lock]
  have run : exec (.tbAcq w l) s = .next (((u.want w.master l).pcEvent 838).okay (u.lockWord l)) := by
    rw [exec_tbAcq_served s hs, tbAcq_held held]
  have word : u.lockWord l = 2 ^ 16 * (s.lock l).holder + 2 ^ 28 * b2n (s.halted (s.lock l).holder) + 2 ^ 30 := by
    rw [lockWord_held held, h.lock, h.bank.halted]
  have cc : ((u.want w.master l).pcEvent 838).cc = (u.want w.master l).cc := pcEvent_cc ..
  have locks : (u.want w.master l).cc.locks = s.cc.locks := (want_locks u).trans (by rw [h.cc])
  have chans : (u.want w.master l).cc.chans = s.cc.chans := (want_chans u).trans (by rw [h.cc])
  have wants : optGet (u.want w.master l).cc.wants w.master = some ⟨l, u.follow w.master {}⟩ := wants_want
  have walks : (u.want w.master l).cc.walks.contains w.master = true := walks_want
  rw [← cc] at locks chans wants walks
  generalize (u.want w.master l).pcEvent 838 = t at run locks chans wants walks
  exact ⟨_, run, locks, congrArg (SpAnswer.mk true) word, walks, congrArg (Option.map (·.lock)) wants, chans⟩

/-- R293: a release by the holder with the current token frees the lock, and any other is counted. -/
theorem tbRel_releases (hs : s.serves w (tbOff l + 4) 4 = true) :
    ∃ t, exec (.tbRel w l v) s = .next t ∧ t.sp = ⟨true, 0⟩ ∧
      (if (s.lock l).held = true ∧ (s.lock l).holder = w.master ∧ v.toNat % 2 ^ 16 = (s.lock l).token
        then t.lock l = ⟨false, 0, (s.lock l).token⟩ ∧ (∀ k, k ≠ l.val → t.lock k = s.lock k) ∧ Kept portCounts s.settleBeats t
        else t.cc = s.cc ∧ t.rd TB_REJ_COUNT = upBy s TB_REJ_COUNT 1 ∧ Kept (TB_REJ_COUNT :: portCounts) s.settleBeats t) := by
  let u := served s w (tbOff l + 4)
  have h : Arrival s u := arrival_served ..
  refine ⟨_, exec_tbRel_served s hs, rfl, ?_⟩
  rw [tbRel_eq, h.lock]
  split
  · exact ⟨h.freeLock, fun _ => h.freeLock_ne, kept_flds (freeLock_flds u (l := l)) h.kept⟩
  · exact ⟨h.cc, h.bank.rd_bump, kept_append (fs := [TB_REJ_COUNT]) h.kept (kept_bump u _)⟩

/-- R293: `TB_FORCE` frees a held lock, and is counted on a free one. -/
theorem tbForce_frees (hs : s.serves w 0x141008 4 = true) :
    ∃ t, exec (.tbForce w l) s = .next t ∧ t.sp = ⟨true, 0⟩ ∧
      (if (s.lock l).held = true
        then t.lock l = ⟨false, 0, (s.lock l).token⟩ ∧ t.rd TB_CYC_CNT_FORCE = upBy s TB_CYC_CNT_FORCE 1 ∧ t.is TB_EVT_FORCED = true
        else t.cc = s.cc ∧ t.rd TB_REJ_COUNT = upBy s TB_REJ_COUNT 1) := by
  let u := served s w 0x141008
  have h : Arrival s u := arrival_served ..
  refine ⟨_, exec_tbForce_served s hs, rfl, ?_⟩
  rw [State.tbForce, h.lock]
  split
  · have bank : SameBank s (u.freeLock l) := h.bank.trans (bank_freeLock u)
    let x := ((u.freeLock l).bump TB_CYC_CNT_FORCE).raise TB_EVT_FORCED
    have counted : x.rd TB_CYC_CNT_FORCE = upBy s TB_CYC_CNT_FORCE 1 := Eq.trans rd_wr_ne bank.rd_bump
    have reported : x.is TB_EVT_FORCED = true := is_raise
    exact ⟨h.freeLock, counted, reported⟩
  · exact ⟨h.cc, h.bank.rd_bump⟩

/-- R294: `TB_UNWANT` ends the master's want of this lock. -/
theorem tbUnwant_ends (hs : s.serves w (tbOff l + 0xC) 4 = true) :
    ∃ t, exec (.tbUnwant w l) s = .next t ∧ t.sp = ⟨true, 0⟩ ∧ t.cc.locks = s.cc.locks ∧ Kept portCounts s.settleBeats t ∧
      t.cc.wants = (if (optGet s.cc.wants w.master).map (·.lock) = some l.val then mapErase w.master s.cc.wants else s.cc.wants) := by
  let u := served s w (tbOff l + 0xC)
  have h : Arrival s u := arrival_served ..
  refine ⟨_, exec_tbUnwant_served s hs, rfl, ?_⟩
  rw [tbUnwant_eq, h.cc]
  split
  · exact ⟨(congrArg CcSt.locks h.cc :), kept_flds (endWant_flds u (m := w.master)) h.kept, (congrArg (fun c => mapErase w.master c.wants) h.cc :)⟩
  · exact ⟨(congrArg CcSt.locks h.cc :), h.kept, congrArg CcSt.wants h.cc⟩

end

/-- Settles O11: each row by what its access does in the state in which it arrives, which differs from the state before in counts alone. -/
theorem tumblerLocks : Obligations.TumblerLocks := by
  refine ⟨?take, ?wait, ?release, ?force, ?unwant⟩
  case take => exact fun w l s => tbAcq_takes s
  case wait => exact fun w l s => tbAcq_waits s
  case release => exact fun w l v s => tbRel_releases s
  case force => exact fun w l s => tbForce_frees s
  case unwant => exact fun w l s => tbUnwant_ends s

end Sys2Proof.Proofs
end

section
/-! PROOFS. Completions at the signal hub (R336, R339): a level source that has risen while it was active is sampled by its completion, and
that rise is logged as any other (R373). -/

namespace Sys2Proof.Proofs

open Sys2Proof.Machine Sys2Proof.Laws

set_option Elab.async false

/-! ## A rise that the log has no room for -/

section
variable {s : State} {n : Nat}

theorem postHw_full (hq : 8 ≤ s.ny.hwq.length) (code sev a0 a1 a2 : Nat) : s.postHw code sev a0 a1 a2 = s.bump NY_LOG_LOST_LOST :=
  if_neg (by omega)

/-- R373: a logged source that rises while the queue of hardware posts is full counts a lost record. -/
theorem logRise_full (hn : n < 512) (hm : s.bit (NY_LOG_MASK_MASK (n / 32)) (n % 32) = true) (hq : 8 ≤ s.ny.hwq.length) :
    s.logRise n = s.bump NY_LOG_LOST_LOST := (if_pos (by simp [hn, hm])).trans (postHw_full hq ..)

/-- A completion writes no register itself: where the level that it samples has risen, the post to the log may. -/
theorem finish_flds : (s.finish n).flds =
    (if (if isEdge n then (s.src n).level else s.originLevel n) && !(s.src n).level then s.logRise n else s).flds := rfl

theorem rd_finish_rise (he : isEdge n = false) (hl : (s.src n).level = false) (ho : s.originLevel n = true) (f : Fld) :
    (s.finish n).rd f = (s.logRise n).rd f := by
  have rises : ((if isEdge n then (s.src n).level else s.originLevel n) && !(s.src n).level) = true := by simp [he, hl, ho]
  exact (rd_congr finish_flds f).trans (by rw [if_pos rises])

/-- R339: the holder of an active source completes it. -/
theorem hbComplete_holder {t : Nat} (hn : n < 4096) (ha : (s.src n).active = true) (hh : (s.src n).holder = t) :
    s.hbComplete t n = s.finish n := by
  unfold State.hbComplete
  rw [Nat.mod_eq_of_lt hn]
  exact if_pos (by simp [hn, ha, hh])

theorem exec_hbComplete_served {w : Who} {g : Fin 65} {v : Word} (h : s.serves w (0x188004 + 0x20 * g) 4 = true) :
    exec (.hbComplete w g v) s = .next (((served s w (0x188004 + 0x20 * g)).hbComplete g v.toNat).okay 0) :=
  congrArg Host.Outcome.next (guardWrite_served h _)

end

/-! ## The state that refutes O13 -/

/-- The Nyelle core, which is target 64 of the hub. -/
def nyelleCore : Who := ⟨256, true⟩

/-- The offset of the core's `HB_COMPLETE`. -/
def coreCompleteOff : Nat := 0x188004 + 0x20 * (64 : Fin 65)

/-- The core holds source 0, which is logged and was last sampled low. `PW_EVT.ENTERED`, its origin, has risen since, and eight records
of other sources fill the queue of hardware posts. -/
def unsampledRise : State :=
  (({ sys := { aonRstN := true, blkRstN := true, pwGood := true, started := 0x1FF },
      ny := { hwq := (List.range 8).map fun i => { code := i + 1, sev := 1, a0 := i + 1, a1 := 0, a2 := 0 } },
      hub := { srcs := [(0, { active := true, holder := 64 })] } } : State).wr PW_EVT_ENTERED 1).wr (NY_LOG_MASK_MASK 0) 1

theorem unsampledRise_serves : unsampledRise.serves nyelleCore coreCompleteOff 4 = true := by decide +kernel

/-- The core's completion of source 0 counts a lost log record. -/
theorem unsampledRise_completes : ∃ t, exec (.hbComplete nyelleCore 64 0) unsampledRise = .next t ∧ t.rd NY_LOG_LOST_LOST = 1 := by
  let u := served unsampledRise nyelleCore coreCompleteOff
  have active : (u.src 0).active = true := by decide +kernel
  have held : (u.src 0).holder = 64 := by decide +kernel
  have low : (u.src 0).level = false := by decide +kernel
  have high : u.originLevel 0 = true := by decide +kernel
  have logged : u.bit (NY_LOG_MASK_MASK 0) 0 = true := by decide +kernel
  have full : 8 ≤ u.ny.hwq.length := by decide +kernel
  have none_lost : u.rd NY_LOG_LOST_LOST = 0 := by decide +kernel
  have run : exec (.hbComplete nyelleCore 64 0) unsampledRise = .next ((u.hbComplete 64 0).okay 0) :=
    exec_hbComplete_served unsampledRise_serves
  clear_value u
  refine ⟨_, run, ?_⟩
  calc (u.hbComplete 64 0).rd NY_LOG_LOST_LOST
    _ = (u.finish 0).rd NY_LOG_LOST_LOST := by rw [hbComplete_holder (by decide) active held]
    _ = (u.logRise 0).rd NY_LOG_LOST_LOST := rd_finish_rise (by decide) low high _
    _ = (u.bump NY_LOG_LOST_LOST).rd NY_LOG_LOST_LOST := by rw [logRise_full (n := 0) (by decide) logged full]
    _ = 1 := by rw [rd_bump_same, upBy, none_lost]; rfl

/-- Refutes O13: the completion by its holder may change a register outside the port's own counts. A logged level source that has risen
since it was last sampled rises in the log at its completion (R336, R373), and where the queue of hardware posts is full `NY_LOG_LOST`
counts the record. -/
theorem not_hubCompletionsAndConfiguration : ¬ Obligations.HubCompletionsAndConfiguration := by
  unfold Obligations.HubCompletionsAndConfiguration
  rintro ⟨completion, -⟩
  obtain ⟨t, run, -, -, -, -, -, -, kept⟩ := completion nyelleCore 64 0 unsampledRise unsampledRise_serves (by decide) (by decide +kernel)
    (by decide +kernel)
  obtain ⟨t', run', lost⟩ := unsampledRise_completes
  obtain rfl : t = t' := Host.Outcome.next.inj (run.symm.trans run')
  have before : unsampledRise.settleBeats.rd NY_LOG_LOST_LOST = 0 := by decide +kernel
  have unchanged : t.rd NY_LOG_LOST_LOST = unsampledRise.settleBeats.rd NY_LOG_LOST_LOST := kept _ (by decide)
  rw [lost, before] at unchanged
  exact absurd unchanged (by decide)

end Sys2Proof.Proofs
end

section
/-! PROOFS. What every command keeps: the parts it is not listed with, the canonical form, the queue, time and the draws. -/

namespace Sys2Proof.Proofs

open Sys2Proof.Machine Sys2Proof.Laws

set_option Elab.async false

/-- Every command keeps what it is not listed with: the lemma of its meaning, whose parts are those of its list. -/
theorem exec_keeps (c : Instr) (s : State) : Outs (fun p => touched c p = true) s (exec c s) := by
  cases c
  case' registerWrite => apply +allowSynthFailures keeps_execRegisterWrite
  case' rcRead => apply +allowSynthFailures keeps_execRcRead
  case' lowWordRead => apply +allowSynthFailures keeps_execLowWordRead
  case aonRstNFall => apply +allowSynthFailures keeps_execAonRstNFall; exact fun _ => ⟨rfl⟩
  case blkRstNFall => apply +allowSynthFailures keeps_execBlkRstNFall; exact fun _ => ⟨rfl⟩
  case pwGoodFall => apply +allowSynthFailures keeps_execPwGoodFall; exact fun _ => ⟨rfl⟩
  case' resetRelease => apply +allowSynthFailures keeps_execResetRelease
  case' firmwareRunning => apply +allowSynthFailures keeps_execFirmwareRunning
  case' sdReload => apply +allowSynthFailures keeps_execSdReload
  case' sdFetchResponse => apply +allowSynthFailures keeps_execSdFetchResponse
  case' bringupComplete => apply +allowSynthFailures keeps_execBringupComplete
  case' bringupTimeout => apply +allowSynthFailures keeps_execBringupTimeout
  case' bringupSliceTimeout => apply +allowSynthFailures keeps_execBringupSliceTimeout
  case' heartbeatMark => apply +allowSynthFailures keeps_execHeartbeatMark
  case' heartbeatDeferredWrite => apply +allowSynthFailures keeps_execHeartbeatDeferredWrite
  case' heartbeatWriteResponse => apply +allowSynthFailures keeps_execHeartbeatWriteResponse
  case' islandClockStop => apply +allowSynthFailures keeps_execIslandClockStop
  case' fabricBeatReceived => apply +allowSynthFailures keeps_execFabricBeatReceived
  case' fabricRequestTimeout => apply +allowSynthFailures keeps_execFabricRequestTimeout
  case' tableReadTimeout => apply +allowSynthFailures keeps_execTableReadTimeout
  case' rxLaneWord => apply +allowSynthFailures keeps_execRxLaneWord
  case' txLaneWord => apply +allowSynthFailures keeps_execTxLaneWord
  case' laneUp => apply +allowSynthFailures keeps_execLaneUp
  case' laneDown => apply +allowSynthFailures keeps_execLaneDown
  case' portCfgWrite => apply +allowSynthFailures keeps_execPortCfgWrite
  case' chanCfgWrite => apply +allowSynthFailures keeps_execChanCfgWrite
  case' alignmentLock => apply +allowSynthFailures keeps_execAlignmentLock
  case' alignmentLost => apply +allowSynthFailures keeps_execAlignmentLost
  case' rxFaultSequence => apply +allowSynthFailures keeps_execRxFaultSequence
  case' linkUp => apply +allowSynthFailures keeps_execLinkUp
  case' lnSubstitute => apply +allowSynthFailures keeps_execLnSubstitute
  case' txRelease => apply +allowSynthFailures keeps_execTxRelease
  case' lnRestore => apply +allowSynthFailures keeps_execLnRestore
  case' spareAbort => apply +allowSynthFailures keeps_execSpareAbort
  case' spareMatch => apply +allowSynthFailures keeps_execSpareMatch
  case' spareConfirmDone => apply +allowSynthFailures keeps_execSpareConfirmDone
  case' spareMatchTimeout => apply +allowSynthFailures keeps_execSpareMatchTimeout
  case' spareSwitch => apply +allowSynthFailures keeps_execSpareSwitch
  case' riltorHeaderCheck => apply +allowSynthFailures keeps_execRiltorHeaderCheck
  case' rehunt => apply +allowSynthFailures keeps_execRehunt
  case' txRiltorFrame => apply +allowSynthFailures keeps_execTxRiltorFrame
  case' gfpCoreHeader => apply +allowSynthFailures keeps_execGfpCoreHeader
  case' gfpFrameReceived => apply +allowSynthFailures keeps_execGfpFrameReceived
  case' gfpLinkUp => apply +allowSynthFailures keeps_execGfpLinkUp
  case' groupEnable => apply +allowSynthFailures keeps_execGroupEnable
  case' groupDisable => apply +allowSynthFailures keeps_execGroupDisable
  case' groupSegment => apply +allowSynthFailures keeps_execGroupSegment
  case' pairEnable => apply +allowSynthFailures keeps_execPairEnable
  case' hingeCopyArrival => apply +allowSynthFailures keeps_execHingeCopyArrival
  case' hingeWaitExpiry => apply +allowSynthFailures keeps_execHingeWaitExpiry
  case' pairCmdNone => apply +allowSynthFailures keeps_execPairCmdNone
  case' pairCmdLo => apply +allowSynthFailures keeps_execPairCmdLo
  case' pairCmdFs => apply +allowSynthFailures keeps_execPairCmdFs
  case' pairCmdMsProtect => apply +allowSynthFailures keeps_execPairCmdMsProtect
  case' pairCmdMsWorking => apply +allowSynthFailures keeps_execPairCmdMsWorking
  case' pairCmdExer => apply +allowSynthFailures keeps_execPairCmdExer
  case' holdoffExpiry => apply +allowSynthFailures keeps_execHoldoffExpiry
  case' wtrExpiry => apply +allowSynthFailures keeps_execWtrExpiry
  case' secondBoundary => apply +allowSynthFailures keeps_execSecondBoundary
  case' ohTxWord => apply +allowSynthFailures keeps_execOhTxWord
  case' ohRxWord => apply +allowSynthFailures keeps_execOhRxWord
  case' mcCommit => apply +allowSynthFailures keeps_execMcCommit
  case' rxFrame => apply +allowSynthFailures keeps_execRxFrame
  case' lookupRequest => apply +allowSynthFailures keeps_execLookupRequest
  case' tableReadResponse => apply +allowSynthFailures keeps_execTableReadResponse
  case' lookupDeadline => apply +allowSynthFailures keeps_execLookupDeadline
  case' verdictReturn => apply +allowSynthFailures keeps_execVerdictReturn
  case' rxFrameRelease => apply +allowSynthFailures keeps_execRxFrameRelease
  case' rxFrameEntry => apply +allowSynthFailures keeps_execRxFrameEntry
  case' rxDescriptorTake => apply +allowSynthFailures keeps_execRxDescriptorTake
  case' rxDataWriteResponse => apply +allowSynthFailures keeps_execRxDataWriteResponse
  case' rxCompletionWrite => apply +allowSynthFailures keeps_execRxCompletionWrite
  case' completionWriteResponse => apply +allowSynthFailures keeps_execCompletionWriteResponse
  case' doorbellWrite => apply +allowSynthFailures keeps_execDoorbellWrite
  case' eventConsumerWrite => apply +allowSynthFailures keeps_execEventConsumerWrite
  case' descriptorReadIssue => apply +allowSynthFailures keeps_execDescriptorReadIssue
  case' descriptorReadResponse => apply +allowSynthFailures keeps_execDescriptorReadResponse
  case' dataFetchIssue => apply +allowSynthFailures keeps_execDataFetchIssue
  case' dataFetchResponse => apply +allowSynthFailures keeps_execDataFetchResponse
  case' dispatch => apply +allowSynthFailures keeps_execDispatch
  case' txFrameInStaging => apply +allowSynthFailures keeps_execTxFrameInStaging
  case' txFrameStart => apply +allowSynthFailures keeps_execTxFrameStart
  case' txFrameEnd => apply +allowSynthFailures keeps_execTxFrameEnd
  case' txCompletionWrite => apply +allowSynthFailures keeps_execTxCompletionWrite
  case' pauseTimerExpiry => apply +allowSynthFailures keeps_execPauseTimerExpiry
  case' pauseRefreshTimer => apply +allowSynthFailures keeps_execPauseRefreshTimer
  case' fcModeWrite => apply +allowSynthFailures keeps_execFcModeWrite
  case' pauseWatchdog => apply +allowSynthFailures keeps_execPauseWatchdog
  case' watchdogHoldoffEnd => apply +allowSynthFailures keeps_execWatchdogHoldoffEnd
  case' clEnable => apply +allowSynthFailures keeps_execClEnable
  case' clClear => apply +allowSynthFailures keeps_execClClear
  case' clClearDone => apply +allowSynthFailures keeps_execClClearDone
  case' clInsert => apply +allowSynthFailures keeps_execClInsert
  case' clDelete => apply +allowSynthFailures keeps_execClDelete
  case' clModify => apply +allowSynthFailures keeps_execClModify
  case' clQuery => apply +allowSynthFailures keeps_execClQuery
  case' updateWriteResponse => apply +allowSynthFailures keeps_execUpdateWriteResponse
  case' stashMigrate => apply +allowSynthFailures keeps_execStashMigrate
  case' mtWrite => apply +allowSynthFailures keeps_execMtWrite
  case' mtRead => apply +allowSynthFailures keeps_execMtRead
  case' refillInstant => apply +allowSynthFailures keeps_execRefillInstant
  case' scCommit => apply +allowSynthFailures keeps_execScCommit
  case' scRead => apply +allowSynthFailures keeps_execScRead
  case' starveTimer => apply +allowSynthFailures keeps_execStarveTimer
  case' guardWindowEnd => apply +allowSynthFailures keeps_execGuardWindowEnd
  case' tgCommit => apply +allowSynthFailures keeps_execTgCommit
  case' tgTakeover => apply +allowSynthFailures keeps_execTgTakeover
  case' gateEntryChange => apply +allowSynthFailures keeps_execGateEntryChange
  case' queueStopped => apply +allowSynthFailures keeps_execQueueStopped
  case' notifyModTimer => apply +allowSynthFailures keeps_execNotifyModTimer
  case' notifyMessageResponse => apply +allowSynthFailures keeps_execNotifyMessageResponse
  case' cmdEnableWrite => apply +allowSynthFailures keeps_execCmdEnableWrite
  case' cmdPiWrite => apply +allowSynthFailures keeps_execCmdPiWrite
  case' commandReadResponse => apply +allowSynthFailures keeps_execCommandReadResponse
  case' commandCompletionResponse => apply +allowSynthFailures keeps_execCommandCompletionResponse
  case' cmdNop => apply +allowSynthFailures keeps_execCmdNop
  case' ctxCreate => apply +allowSynthFailures keeps_execCtxCreate
  case' ctxDestroy => apply +allowSynthFailures keeps_execCtxDestroy
  case' ctxReset => apply +allowSynthFailures keeps_execCtxReset
  case' ctxFreeze => apply +allowSynthFailures keeps_execCtxFreeze
  case' ctxSave => apply +allowSynthFailures keeps_execCtxSave
  case' ctxRestore => apply +allowSynthFailures keeps_execCtxRestore
  case' ctxResume => apply +allowSynthFailures keeps_execCtxResume
  case' dirtyStart => apply +allowSynthFailures keeps_execDirtyStart
  case' dirtyStop => apply +allowSynthFailures keeps_execDirtyStop
  case' txqSetup => apply +allowSynthFailures keeps_execTxqSetup
  case' rxqSetup => apply +allowSynthFailures keeps_execRxqSetup
  case' qStop => apply +allowSynthFailures keeps_execQStop
  case' qRestart => apply +allowSynthFailures keeps_execQRestart
  case' qTeardown => apply +allowSynthFailures keeps_execQTeardown
  case' evqSetup => apply +allowSynthFailures keeps_execEvqSetup
  case' evqTeardown => apply +allowSynthFailures keeps_execEvqTeardown
  case' vecSet => apply +allowSynthFailures keeps_execVecSet
  case' epInsert => apply +allowSynthFailures keeps_execEpInsert
  case' epDelete => apply +allowSynthFailures keeps_execEpDelete
  case' epModify => apply +allowSynthFailures keeps_execEpModify
  case' epQuery => apply +allowSynthFailures keeps_execEpQuery
  case' shaperSet => apply +allowSynthFailures keeps_execShaperSet
  case' resetEnd => apply +allowSynthFailures keeps_execResetEnd
  case' drainTimeout => apply +allowSynthFailures keeps_execDrainTimeout
  case' freezeEnd => apply +allowSynthFailures keeps_execFreezeEnd
  case' freezeTimeout => apply +allowSynthFailures keeps_execFreezeTimeout
  case' imageWriteResponse => apply +allowSynthFailures keeps_execImageWriteResponse
  case' imageReadResponse => apply +allowSynthFailures keeps_execImageReadResponse
  case' dirtyMarkResponse => apply +allowSynthFailures keeps_execDirtyMarkResponse
  case' cxCommit => apply +allowSynthFailures keeps_execCxCommit
  case' ccClaim => apply +allowSynthFailures keeps_execCcClaim
  case' ccWordWrite => apply +allowSynthFailures keeps_execCcWordWrite
  case' ccCommit => apply +allowSynthFailures keeps_execCcCommit
  case' ccDone => apply +allowSynthFailures keeps_execCcDone
  case' ccRelease => apply +allowSynthFailures keeps_execCcRelease
  case' leaseExpiry => apply +allowSynthFailures keeps_execLeaseExpiry
  case' ccBreak => apply +allowSynthFailures keeps_execCcBreak
  case' haltInputChange => apply +allowSynthFailures keeps_execHaltInputChange
  case' tbAcq => apply +allowSynthFailures keeps_execTbAcq
  case' tbRel => apply +allowSynthFailures keeps_execTbRel
  case' tbForce => apply +allowSynthFailures keeps_execTbForce
  case' tbUnwant => apply +allowSynthFailures keeps_execTbUnwant
  case' wantExpiry => apply +allowSynthFailures keeps_execWantExpiry
  case' cycleWalk => apply +allowSynthFailures keeps_execCycleWalk
  case' cutInstant => apply +allowSynthFailures keeps_execCutInstant
  case' cutMarker => apply +allowSynthFailures keeps_execCutMarker
  case' cutWindowTimeout => apply +allowSynthFailures keeps_execCutWindowTimeout
  case' ledgerRecordWrite => apply +allowSynthFailures keeps_execLedgerRecordWrite
  case' ledgerRecordResponse => apply +allowSynthFailures keeps_execLedgerRecordResponse
  case' lgCiWrite => apply +allowSynthFailures keeps_execLgCiWrite
  case' lgRingEnable => apply +allowSynthFailures keeps_execLgRingEnable
  case' contextClose => apply +allowSynthFailures keeps_execContextClose
  case' tmSet => apply +allowSynthFailures keeps_execTmSet
  case' tmOffset => apply +allowSynthFailures keeps_execTmOffset
  case' tmRelock => apply +allowSynthFailures keeps_execTmRelock
  case' tmIncrWrite => apply +allowSynthFailures keeps_execTmIncrWrite
  case' realignmentBoundary => apply +allowSynthFailures keeps_execRealignmentBoundary
  case' timeCaptureRead => apply +allowSynthFailures keeps_execTimeCaptureRead
  case' ppsEdge => apply +allowSynthFailures keeps_execPpsEdge
  case' ppsLossTimeout => apply +allowSynthFailures keeps_execPpsLossTimeout
  case' todMessage => apply +allowSynthFailures keeps_execTodMessage
  case' aonPeriodMeasured => apply +allowSynthFailures keeps_execAonPeriodMeasured
  case' sourceLevelChange => apply +allowSynthFailures keeps_execSourceLevelChange
  case' hbSwSet => apply +allowSynthFailures keeps_execHbSwSet
  case' hbClaim => apply +allowSynthFailures keeps_execHbClaim
  case' hbComplete => apply +allowSynthFailures keeps_execHbComplete
  case' hbSrcCfgWrite => apply +allowSynthFailures keeps_execHbSrcCfgWrite
  case' hbDisableWrite => apply +allowSynthFailures keeps_execHbDisableWrite
  case' holdoffGroupExpiry => apply +allowSynthFailures keeps_execHoldoffGroupExpiry
  case' targetAwakeChange => apply +allowSynthFailures keeps_execTargetAwakeChange
  case' redirectTimeout => apply +allowSynthFailures keeps_execRedirectTimeout
  case' watchWake => apply +allowSynthFailures keeps_execWatchWake
  case' mdStart => apply +allowSynthFailures keeps_execMdStart
  case' mdAbort => apply +allowSynthFailures keeps_execMdAbort
  case' mdDescriptorRead => apply +allowSynthFailures keeps_execMdDescriptorRead
  case' mdDataResponse => apply +allowSynthFailures keeps_execMdDataResponse
  case' mdWritebackResponse => apply +allowSynthFailures keeps_execMdWritebackResponse
  case' mdStoppingDone => apply +allowSynthFailures keeps_execMdStoppingDone
  case' cuArm => apply +allowSynthFailures keeps_execCuArm
  case' cuDisarm => apply +allowSynthFailures keeps_execCuDisarm
  case' coreRst => apply +allowSynthFailures keeps_execCoreRst
  case' watchdogExpiry => apply +allowSynthFailures keeps_execWatchdogExpiry
  case' wdtKick => apply +allowSynthFailures keeps_execWdtKick
  case' sramEccError => apply +allowSynthFailures keeps_execSramEccError
  case' machineTimer => apply +allowSynthFailures keeps_execMachineTimer
  case' thermalUpdate => apply +allowSynthFailures keeps_execThermalUpdate
  case' droopEpisode => apply +allowSynthFailures keeps_execDroopEpisode
  case' clockMonitorWindow => apply +allowSynthFailures keeps_execClockMonitorWindow
  case' logPostFw => apply +allowSynthFailures keeps_execLogPostFw
  case' logPostHost => apply +allowSynthFailures keeps_execLogPostHost
  case' logStore => apply +allowSynthFailures keeps_execLogStore
  case' logPersistWrite => apply +allowSynthFailures keeps_execLogPersistWrite
  case' logSeqWrite => apply +allowSynthFailures keeps_execLogSeqWrite
  case' pcFreeze => apply +allowSynthFailures keeps_execPcFreeze
  case' pcSnap => apply +allowSynthFailures keeps_execPcSnap
  case' pcClear => apply +allowSynthFailures keeps_execPcClear
  case' pcExport => apply +allowSynthFailures keeps_execPcExport
  case' pcExportResponse => apply +allowSynthFailures keeps_execPcExportResponse
  case' bgDeadlineMiss => apply +allowSynthFailures keeps_execBgDeadlineMiss
  case' scrubSweepEnd => apply +allowSynthFailures keeps_execScrubSweepEnd
  case' storeRead => apply +allowSynthFailures keeps_execStoreRead
  case' storeProgram => apply +allowSynthFailures keeps_execStoreProgram
  case' storeErase => apply +allowSynthFailures keeps_execStoreErase
  case' storeReadStatus => apply +allowSynthFailures keeps_execStoreReadStatus
  case' storeXferDone => apply +allowSynthFailures keeps_execStoreXferDone
  case' updateGo => apply +allowSynthFailures keeps_execUpdateGo
  case' updateResult => apply +allowSynthFailures keeps_execUpdateResult
  case' kwStart => apply +allowSynthFailures keeps_execKwStart
  case' kwAbort => apply +allowSynthFailures keeps_execKwAbort
  case' kwDinWrite => apply +allowSynthFailures keeps_execKwDinWrite
  case' kwDoutRead => apply +allowSynthFailures keeps_execKwDoutRead
  case' keywardBlockDone => apply +allowSynthFailures keeps_execKeywardBlockDone
  case' rngFail => apply +allowSynthFailures keeps_execRngFail
  case' keyWrite => apply +allowSynthFailures keeps_execKeyWrite
  case' keyZero => apply +allowSynthFailures keeps_execKeyZero
  case' keyLock => apply +allowSynthFailures keeps_execKeyLock
  case' fuseProg => apply +allowSynthFailures keeps_execFuseProg
  case' fuseProgDone => apply +allowSynthFailures keeps_execFuseProgDone
  case' haspReqRise => apply +allowSynthFailures keeps_execHaspReqRise
  case' haspGrant => apply +allowSynthFailures keeps_execHaspGrant
  case' haspReqFall => apply +allowSynthFailures keeps_execHaspReqFall
  case' requestA0 => apply +allowSynthFailures keeps_execRequestA0
  case' requestP1 => apply +allowSynthFailures keeps_execRequestP1
  case' requestW => apply +allowSynthFailures keeps_execRequestW
  case' requestS => apply +allowSynthFailures keeps_execRequestS
  case' requestD => apply +allowSynthFailures keeps_execRequestD
  case' entryRequestsDrained => apply +allowSynthFailures keeps_execEntryRequestsDrained
  case' entryTickLatch => apply +allowSynthFailures keeps_execEntryTickLatch
  case' pwAckRise => apply +allowSynthFailures keeps_execPwAckRise
  case' pwAckTimeout => apply +allowSynthFailures keeps_execPwAckTimeout
  case' wakeSource => apply +allowSynthFailures keeps_execWakeSource
  case' wakeTimer => apply +allowSynthFailures keeps_execWakeTimer
  case exitPowerRestored => apply +allowSynthFailures keeps_execExitPowerRestored; exact fun _ => ⟨rfl⟩
  case' exitClocksOk => apply +allowSynthFailures keeps_execExitClocksOk
  case' p1EntryDrained => apply +allowSynthFailures keeps_execP1EntryDrained
  case brownOut => apply +allowSynthFailures keeps_execBrownOut; exact fun _ => ⟨rfl⟩
  case' svEvacuate => apply +allowSynthFailures keeps_execSvEvacuate
  case' svReturn => apply +allowSynthFailures keeps_execSvReturn
  case' fabSpare => apply +allowSynthFailures keeps_execFabSpare
  case' fabRestore => apply +allowSynthFailures keeps_execFabRestore
  case' tblSpare => apply +allowSynthFailures keeps_execTblSpare
  case' tblRestore => apply +allowSynthFailures keeps_execTblRestore
  case' rowRepair => apply +allowSynthFailures keeps_execRowRepair
  case' sliceTest => apply +allowSynthFailures keeps_execSliceTest
  case' svAbort => apply +allowSynthFailures keeps_execSvAbort
  case' svCheckpoint => apply +allowSynthFailures keeps_execSvCheckpoint
  case' evacCopyDone => apply +allowSynthFailures keeps_execEvacCopyDone
  case' evacRxReady => apply +allowSynthFailures keeps_execEvacRxReady
  case' evacRxSwitch => apply +allowSynthFailures keeps_execEvacRxSwitch
  case' evacDrainDone => apply +allowSynthFailures keeps_execEvacDrainDone
  case' evacDrainTimeout => apply +allowSynthFailures keeps_execEvacDrainTimeout
  case' evacLockstepCompare => apply +allowSynthFailures keeps_execEvacLockstepCompare
  case' fabSpareSwitch => apply +allowSynthFailures keeps_execFabSpareSwitch
  case' tblSpareSwitch => apply +allowSynthFailures keeps_execTblSpareSwitch
  case' rowRepairSwitch => apply +allowSynthFailures keeps_execRowRepairSwitch
  case' rngOkReturn => apply +allowSynthFailures keeps_execRngOkReturn
  case' sliceTestDone => apply +allowSynthFailures keeps_execSliceTestDone
  case' coreDebugHalt => apply +allowSynthFailures keeps_execCoreDebugHalt
  case' scrubUncorrectableWord => apply +allowSynthFailures keeps_execScrubUncorrectableWord
  case powerRemoved => apply +allowSynthFailures keeps_execPowerRemoved; exact fun _ => ⟨rfl⟩
  case' pwIsoRise => apply +allowSynthFailures keeps_execPwIsoRise
  all_goals exact ⟨rfl⟩

theorem keeps_of_exec {c : Instr} {s t : State} (h : exec c s = .next t) : Keeps (fun p => touched c p = true) s t := exec_keeps c s t h

/-- Settles O5: a part of what every command keeps. -/
theorem commandsLeaveTheQueueAndTime : Obligations.CommandsLeaveTheQueueAndTime := by
  intro c s t h
  obtain ⟨-, -, queue, time, draws⟩ := keeps_of_exec h
  exact ⟨queue, time, draws⟩

/-- Settles O6: a command keeps every part that it is not listed with. -/
theorem commandsTouchOnlyTheirParts : Obligations.CommandsTouchOnlyTheirParts := by
  intro c s t p h untouched
  obtain ⟨parts, -⟩ := keeps_of_exec h
  exact parts p (by simp [untouched])

/-- A cycle that passes without a command keeps the canonical form. -/
theorem wf_advance {s : State} (k : Nat) (h : s.Wf) : (s.advance k).Wf := by
  have : Fact ((fun _ => True : Part → Prop) .regs) := ⟨trivial⟩
  have : Fact ((fun _ => True : Part → Prop) .tm) := ⟨trivial⟩
  obtain ⟨-, wf, -⟩ := keeps_advance (P := fun _ => True) k (Keeps.refl s)
  exact wf h

/-- Settles O7: a step runs the command at the front, which keeps the canonical form, or lets a cycle pass, which does too. The queue is
no part of the form. -/
theorem stepsKeepTheStateWellFormed : Obligations.StepsKeepTheStateWellFormed := by
  intro s t wf h
  unfold step at h
  split at h
  next c cs _ =>
    obtain ⟨-, kept, -⟩ := keeps_of_exec h
    exact kept wf
  next => exact Host.Outcome.next.inj h ▸ wf_advance 1 wf

/-- Settles O1: by the definition of a step, whose queue is not empty. -/
theorem stepRunsTheFrontCommand : Obligations.StepRunsTheFrontCommand := fun _ _ => rfl

/-- Settles O3: each meaning ends in a next state, so the outcome of every command computes to one. -/
theorem everyCommandAnswersANextState : Obligations.EveryCommandAnswersANextState := by
  intro c s
  cases c <;> exact ⟨_, rfl⟩

/-- Settles O4: each value as the reset state computes it. -/
theorem resetLeavesTheTablesValues : Obligations.ResetLeavesTheTablesValues := by
  unfold Obligations.ResetLeavesTheTablesValues State.Wf
  decide +kernel

end Sys2Proof.Proofs
end

section
/-! PROOFS. A cycle that passes with no command waiting (R315 to R317, R330, R363; log entry 2). -/

namespace Sys2Proof.Proofs

open Sys2Proof.Machine Sys2Proof.Laws

set_option Elab.async false

/-- The time base after `k` cycles: the counters stand while the core island does. -/
def laterTm (s : State) (k : Nat) : TmSt :=
  let tm := { s.tm with tick := s.tm.tick + k, sub25 := (s.tm.sub25 + k) % 64, sub32 := (s.tm.sub32 + 32768 * k) % 1600000000 }
  if s.coreUp then { tm with now := (tm.now + k * tm.incr) % timeMod, cyc := tm.cyc + k } else tm

/-- The registers that show the always-on clocks. -/
def clockFields : List Fld := [NY_MTIME_LO_MTIME, NY_MTIME_HI_MTIME, TM_AON_CNT_LO_COUNT, TM_AON_CNT_HI_COUNT]

/-- Cycles that pass change the clocks and the registers that show them alone. -/
theorem advance_eq (s : State) (k : Nat) :
    ∃ l, s.advance k = { s with flds := l, tm := laterTm s k } ∧ Kept clockFields s (s.advance k) := by
  have two {a b : State} {lo hi : Fld} {v : Nat} (hl : lo ∈ clockFields) (hh : hi ∈ clockFields) (h : Kept clockFields a b) :
      Kept clockFields a (b.wr64 lo hi v) := kept_wr _ _ hh (kept_wr _ _ hl h)
  have now : Kept clockFields s { s with tm := laterTm s k } := kept_flds rfl (kept_refl s)
  unfold State.advance
  extract_lets a25 a32 old tm tm' u v
  have mtime : ∃ l, v = { s with flds := l, tm := laterTm s k } := by
    unfold v
    split
    · exact ⟨_, rfl⟩
    · exact ⟨s.flds, rfl⟩
  have keptMtime : Kept clockFields s v := by
    unfold v
    split
    · exact two (by decide) (by decide) now
    · exact now
  obtain ⟨l, hv⟩ := mtime
  rw [hv] at keptMtime ⊢
  split
  · exact ⟨_, rfl, two (by decide) (by decide) keptMtime⟩
  · exact ⟨l, rfl, keptMtime⟩

theorem step_idle {s : State} (h : s.pending = []) : step s = .next (s.advance 1) := by
  unfold step
  rw [h]

/-- Settles O2: an idle step is one cycle, and a cycle changes the clocks alone. -/
theorem idleStepLetsACyclePass : Obligations.IdleStepLetsACyclePass := by
  intro s idle
  obtain ⟨l, e, kept⟩ := advance_eq s 1
  have tm : (s.advance 1).tm = laterTm s 1 := by rw [e]
  refine ⟨_, step_idle idle, ?tick, ?queue, ?runs, ?stands, ?parts, kept⟩
  case tick => rw [tm, laterTm]; split <;> rfl
  case queue => rw [e]; exact idle
  case runs => intro up; rw [tm, laterTm, if_pos up, Nat.one_mul]; exact ⟨rfl, rfl⟩
  case stands => intro down; rw [tm, laterTm, if_neg (by simp [down])]; exact ⟨rfl, rfl⟩
  case parts =>
    intro p hr ht
    rw [e]
    cases p
    case regs => exact absurd rfl hr
    case tm => exact absurd rfl ht
    all_goals rfl

end Sys2Proof.Proofs
end

section
/-! SUPPORT. States for refutations: what a command leaves, as a function, so that a concrete run computes; and a state whose list of beats
sent names an event beyond the 896 counters of R377. -/

namespace Sys2Proof.Proofs

open Sys2Proof.Machine Sys2Proof.Laws

set_option Elab.async false

/-- The state a command leaves. -/
def after (c : Instr) (s : State) : State :=
  match exec c s with
  | .next t => t
  | _ => s

theorem after_eq {c : Instr} {s t : State} (h : exec c s = .next t) : after c s = t := by rw [after, h]

/-- A block that runs, all its registers at reset, and `n` beats not yet counted under event `e`. The counter of an event `e` beyond the last
one would lie at the offset of another register, which the count then changes. -/
def strayBeats (e n : Nat) : State := { sys := { started := 0x1FF }, fab := { sent := [(e, 0, n)] } }

/-- 2³² beats under event 6666, whose high word would be `ST_REJ`. -/
def strayStRej : State := strayBeats 6666 (2 ^ 32)

end Sys2Proof.Proofs
end

section
/-! PROOFS. The statement over all commands (R9, R377). -/

namespace Sys2Proof.Proofs

open Sys2Proof.Machine Sys2Proof.Laws

set_option Elab.async false

/-- Refutes O60: the clause of `rcRead` says that a read of `ST_REJ` answers what it held before the access, and the beats sent so far are
counted first. Of the states that the clause ranges over, one whose beats not yet counted name event 6666 counts them where `ST_REJ` lies. -/
theorem not_commandsComplete : ¬ Obligations.CommandsComplete := by
  rintro ⟨⟨-, reads, -⟩, -⟩
  have served : strayStRej.serves nyelleCore ST_REJ_COUNT.off 4 = true := by decide +kernel
  obtain ⟨t, run, -, answer⟩ := reads 0 0 0 nyelleCore .accepted strayStRej ST_REJ_COUNT (by simp) served
  rw [← after_eq run] at answer
  exact absurd answer (by decide +kernel)

end Sys2Proof.Proofs
end

section
/-! PROOFS. Refutations of statements whose clauses take registers that an access finds for those that it was made on (R377): the beats sent
so far are counted first, and of the states that a clause ranges over some have beats under an event whose counter lies on such a register.
The other clauses of these statements are not looked at. -/

namespace Sys2Proof.Proofs

open Sys2Proof.Machine Sys2Proof.Laws

set_option Elab.async false

/-- The event whose counter's low word would lie at an offset that is a multiple of 8, and the one whose high word would. -/
def eventAt (off : Nat) : Nat := (off - 0x1D4000) / 8

/-- A block that runs with one beat to count at a low word, or 2³² at a high word: the register there gains one. -/
def oneMoreAt (off : Nat) : State := strayBeats (eventAt off) (if off % 8 = 0 then 1 else 2 ^ 32)

/-- Refutes O16: a refused `GO` of the update path is counted in `ST_REJ` on top of what the access finds there. -/
theorem not_storeTransfersAndUpdates : ¬ Obligations.StoreTransfersAndUpdates := by
  rintro ⟨-, -, -, -, -, -, -, -, -, -, busy, -⟩
  let s := (oneMoreAt ST_REJ_COUNT.off).wr ST_UPD_STAT_BUSY 1
  obtain ⟨t, run, -, -, counted, -⟩ := busy nyelleCore 0 s (by decide +kernel) (by decide +kernel)
  rw [← after_eq run] at counted
  exact absurd counted (by decide +kernel)

/-- Refutes O17: a `START` of length 0 records the error for the `KW_LEN` that the access finds. -/
theorem not_keywardOperates : ¬ Obligations.KeywardOperates := by
  rintro ⟨-, refused, -⟩
  let s := (oneMoreAt KW_LEN_LEN.off).wr KW_CFG_PAD 1
  obtain ⟨t, run, -, -, error, -⟩ := refused nyelleCore s (by decide +kernel) (by decide) (by decide +kernel)
  rw [← after_eq run] at error
  exact absurd error (by decide +kernel)

/-- Refutes O18: programming outside the mode of R404 is counted in `KW_REJ` on top of what the access finds there. -/
theorem not_keyringFusesAndHasp : ¬ Obligations.KeyringFusesAndHasp := by
  rintro ⟨-, -, -, -, refused, -⟩
  let s := oneMoreAt KW_REJ_COUNT.off
  obtain ⟨t, run, -, counted⟩ := refused nyelleCore s (by decide +kernel) (by decide +kernel)
  rw [← after_eq run] at counted
  exact absurd counted (by decide +kernel)

/-- Refutes O20: a firmware post carries the arguments that the access finds. -/
theorem not_eventLogInOrder : ¬ Obligations.EventLogInOrder := by
  rintro ⟨-, -, -, post, -⟩
  let s := oneMoreAt (NY_LOG_FW_ARG_ARG 0).off
  obtain ⟨t, run, -, posted⟩ := post nyelleCore 0 0 s (by decide +kernel)
  rw [← after_eq run] at posted
  exact absurd posted (by decide +kernel)

/-- Refutes O21: an export carries the snapshot bank that the access finds. -/
theorem not_performanceCountersAndAgents : ¬ Obligations.PerformanceCountersAndAgents := by
  rintro ⟨-, -, -, exported, -⟩
  let s := (oneMoreAt (PC_SNAP_LO_COUNT 1).off).raise NY_STAT_HALTED
  obtain ⟨t, run, -, -, -, -, asked, -⟩ := exported nyelleCore false s (by decide +kernel) (by decide +kernel) (by decide +kernel)
  rw [← after_eq run] at asked
  exact absurd asked (by decide +kernel)

/-- Refutes O24: whether `PW_CTRL` requests P1 from A0 depends on the state that the access finds in `PW_STAT`. -/
theorem not_powerRequestsAndParking : ¬ Obligations.PowerRequestsAndParking := by
  rintro ⟨-, park, -⟩
  let s := oneMoreAt PW_STAT_STATE.off
  obtain ⟨t, run, -, -, -, active⟩ := park nyelleCore 0 s (by decide +kernel) (by decide +kernel) (by decide +kernel)
  rw [← after_eq run] at active
  exact absurd active (by decide +kernel)

/-- Refutes O27: a read of `ST_REJ` answers what the access finds there. -/
theorem not_setupPortAccesses : ¬ Obligations.SetupPortAccesses := by
  rintro ⟨-, -, -, -, -, -, -, -, -, -, -, -, -, -, reads, -⟩
  let s := oneMoreAt ST_REJ_COUNT.off
  obtain ⟨t, run, -, answer, -⟩ := reads 0 0 0 nyelleCore .accepted s ST_REJ_COUNT (by simp) (by decide +kernel)
  rw [← after_eq run] at answer
  exact absurd answer (by decide +kernel)

/-- Refutes O31: a loss of frame is counted in `TF_FR_EVCNT` on top of what the access of `REHUNT` finds there. -/
theorem not_framers : ¬ Obligations.Framers := by
  rintro ⟨-, -, -, -, -, -, -, rehunt, -⟩
  let s := (oneMoreAt (TF_FR_EVCNT_LOF 0).off).wr (TF_FR_STAT_STATE 0) fSYNC
  obtain ⟨t, run, -, -, counted, -⟩ := rehunt nyelleCore 0 s (by decide +kernel) (by decide +kernel)
  rw [← after_eq run] at counted
  exact absurd counted (by decide +kernel)

/-- Refutes O56: an abort with nothing to abort is counted in `SV_REJ` on top of what the access finds there. -/
theorem not_serviceOperationsStart : ¬ Obligations.ServiceOperationsStart := by
  rintro ⟨-, -, own⟩
  let s := oneMoreAt SV_REJ_COUNT.off
  obtain ⟨-, -, -, -, -, -, -, idle⟩ := own nyelleCore 0 none s (by decide +kernel) (by decide)
  obtain ⟨t, run, -, -, counted, -⟩ := idle (by decide +kernel)
  rw [← after_eq run] at counted
  exact absurd counted (by decide +kernel)

end Sys2Proof.Proofs
end

section
/-! PROOFS. Refutations of statements about time and the management island. The other clauses of these statements are not looked at. -/

namespace Sys2Proof.Proofs

open Sys2Proof.Machine Sys2Proof.Laws

set_option Elab.async false

/-- A block whose islands all run, its registers at reset. -/
def running : State := { sys := { started := 0x1FF } }

/-- Refutes O8: where `RELOCK` ends the holdover, the measurement of the always-on tick that runs ends too (R330), and that is kept among
the time values, which the clause says stay. -/
theorem not_timeCommands : ¬ Obligations.TimeCommands := by
  rintro ⟨-, -, -, -, relock, -⟩
  let s := ((({ running with tm := { aonFrom := some (0, 0) } } : State).wr TM_STAT_UNSET 0).raise TM_STAT_SLEEP_HOLD).raise TM_STAT_HOLDOVER
  obtain ⟨t, run, -, tm, -⟩ := relock nyelleCore s (by decide +kernel) (by decide +kernel) (by decide +kernel)
  rw [← after_eq run] at tm
  exact absurd (congrArg TmSt.aonFrom tm) (by decide +kernel)

/-- A beat sent but not yet counted, whose counter of `PC_CNT` stands at its highest value. -/
def overflowing : State :=
  (({ running with fab := { sent := [(800, 0, 1)] } } : State).wr (PC_CNT_LO_COUNT 800) (2 ^ 32 - 1)).wr (PC_CNT_HI_COUNT 800) (2 ^ 16 - 1)

/-- Refutes O12: the hub samples `NY_EVT.PC_OVF`, the origin of source 60, after the beats sent so far have been counted, and counting them may
be what sets it. -/
theorem not_hubSourcesAndClaims : ¬ Obligations.HubSourcesAndClaims := by
  rintro ⟨level, -⟩
  obtain ⟨t, run, sampled, -⟩ := level 60 overflowing (by decide +kernel) (by decide +kernel) (by decide +kernel)
  rw [← after_eq run] at sampled
  exact absurd sampled (by decide +kernel)

/-- Refutes O59: the first edge of the always-on clock that monitor 8 sees again only clears `STOPPED` and leaves the frequency as it was. -/
theorem not_mirrorAndScrubs : ¬ Obligations.MirrorAndScrubs := by
  rintro ⟨-, -, -, window, -⟩
  let s := (running.wr SYS_STATE_STATE stREADY).raise (NY_CLK_STOPPED 8)
  obtain ⟨t, run, shown⟩ := window 8 1 true s (by decide +kernel) (by decide +kernel)
  have shown := shown (.inl rfl) (by decide +kernel)
  rw [← after_eq run] at shown
  exact absurd shown (by decide +kernel)

end Sys2Proof.Proofs
end

section
/-! PROOFS. A reset of the management island (R366, R391, R392). -/

namespace Sys2Proof.Proofs

open Sys2Proof.Machine Sys2Proof.Laws

set_option Elab.async false

/-- `n` zero bytes. -/
def zeros (n : Nat) : List Byte := List.replicate n 0

/-- A directory of two rings of one sector each, all checks met. -/
def smallDir : List Byte :=
  let d := leBytes 4 0x54534656 ++ leBytes 4 0x080001 ++ zeros 20 ++ leBytes 4 1 ++ leBytes 4 1 ++ leBytes 4 2 ++ leBytes 4 1 ++ zeros 208
  d ++ leBytes 4 (crc32c d)

/-- A confirmed firmware image of bank 0 that authenticates under the all-zero key: four bytes of code and one of data. -/
def smallFw : List Byte :=
  let head := leBytes 4 0x4B4E4256 ++ leBytes 2 0x0101 ++ leBytes 2 0 ++ leBytes 4 5 ++ leBytes 4 4 ++ leBytes 4 1 ++ zeros 12
  let body := leBytes 5 0xA500000000
  let signed := head ++ cmac (zeros 16) (head ++ body) ++ zeros 8
  signed ++ leBytes 4 (crc32c (signed ++ body)) ++ zeros 4 ++ body

/-- The state in which the boot ROM has loaded the SRAMs. -/
def bootLoaded (s : State) (b : Boot) : State :=
  let fw := bootFw s.bootKey b
  let flash := match fw with
    | some f => bootUsed b f
    | none => b
  (({ s with kw := { s.kw with flash := flash } } : State).codeLoad ((fw.map imgCode).getD [])).sramWrite 0 ((fw.map imgData).getD [])

/-- Registers, and the management island but for its data SRAM. -/
def besidesSram (p : Part) : Prop := p = .regs ∨ p = .ny

theorem keeps_bootLoaded_bootSelect (s : State) (b : Boot) : Keeps besidesSram (bootLoaded s b) (s.bootSelect b) := by
  have : Fact (besidesSram .regs) := ⟨.inl rfl⟩
  have : Fact (besidesSram .ny) := ⟨.inr rfl⟩
  unfold State.bootSelect
  refine keeps_wdtRestart (keeps_cfgSelect _ ?_)
  have source (v : Nat) : Keeps besidesSram (bootLoaded s b) ((bootLoaded s b).bootStore.wr ST_STAT_FW_SRC v) :=
    keeps_wr _ v (keeps_bootStore (Keeps.refl _))
  split
  · refine keeps_raise _ ?_
    split
    · exact keeps_raise _ (keeps_wr _ _ (source _))
    · exact source _
  · split
    · exact keeps_raise _ (keeps_wr _ _ (source _))
    · exact source _

/-- What the boot ROM leaves in the data SRAM. -/
theorem sram_bootSelect (s : State) (b : Boot) : (s.bootSelect b).ny.sram = (bootLoaded s b).ny.sram :=
  (keeps_bootLoaded_bootSelect s b).1 .sram (by simp [besidesSram])

/-- A reset of the management island up to the boot ROM's run. -/
def resetting (s : State) (cause pc : Nat) : State :=
  let s := ((s.wr NY_STAT_CAUSE cause).postHw 0x204 2 cause pc 0).raise NY_EVT_NY_RESET
  let s := ((s.wr NY_CTRL_ILOCK 0).wr NY_CTRL_WDT_EN 0).wr NY_WDT_WDT_US 100000
  let s := { s with ny := { s.ny with offRun := [], okRun := [], eyeErr := [], low := [], volts := [] } }
  let s := s.failTransit (· == 256)
  let s := match s.hub.coreClaim with
    | some (_, n, p) => ({ s with hub := { s.hub with coreClaim := none } } : State).unclaim n p
    | none => s
  if s.is ST_UPD_STAT_BUSY then s.updEnd 4 7 (s.rd ST_UPD_STAT_BANK) else s

theorem nyReset_eq (s : State) (cause pc : Nat) (b : Boot) : s.nyReset cause pc b = (resetting s cause pc).bootSelect b := rfl

theorem exec_coreRst_served {w : Who} {v pc : Word} {b : Boot} {s : State} (h : s.serves w 0x1E0000 4 = true) (hv : bitN v.toNat 0 = 1) :
    exec (.coreRst w v pc b) s = .next (((resetting ((served s w 0x1E0000).nyCtrl v.toNat) 2 pc.toNat).bootSelect b).okay 0) := by
  refine congrArg Host.Outcome.next ((guardWrite_served h _).trans ?_)
  rw [if_pos hv, State.coreRst, nyReset_eq]

theorem fwValid_none (bank : Nat) (x : List Byte) : fwValid none bank x = false := by simp [fwValid]

theorem bootFw_none (b : Boot) : bootFw none b = none := by
  simp only [bootFw, fwValid_none]
  split <;> rfl

/-- A store that holds the small firmware alone. -/
def smallBoot : Boot := { dir := smallDir, umber := smallFw }

theorem bootFw_smallBoot : bootFw (some (zeros 16)) smallBoot = some smallFw := by
  have umber : fwValid (some (zeros 16)) 0 smallBoot.umber = true := by decide +kernel
  have ochre : fwValid (some (zeros 16)) 1 smallBoot.ochre = false := by decide +kernel
  have dir : (bootDir smallBoot).isNone = false := by decide +kernel
  rw [bootFw, dir, umber, ochre]
  rfl

theorem sram_of_coreRst {w : Who} {v pc : Word} {b : Boot} {s t : State} (h : s.serves w 0x1E0000 4 = true) (hv : bitN v.toNat 0 = 1)
    (run : exec (.coreRst w v pc b) s = .next t) :
    t.ny.sram = (bootLoaded (resetting ((served s w 0x1E0000).nyCtrl v.toNat) 2 pc.toNat) b).ny.sram := by
  rw [exec_coreRst_served h hv] at run
  injection run with run
  rw [← run, ← sram_bootSelect]
  rfl

/-- A block with the reset at hand that finds key slot 0 valid. -/
def keyFound : State := oneMoreAt KW_KEY_STAT_VALID.off

/-- The data SRAM after that reset holds the byte of the small firmware. -/
theorem sramRead_keyFound {t : State} (run : exec (.coreRst nyelleCore 1 0 smallBoot) keyFound = .next t) : t.sramRead 0 1 = [0xA5] := by
  have key : (resetting ((served keyFound nyelleCore 0x1E0000).nyCtrl (1 : Word).toNat) 2 (0 : Word).toNat).bootKey = some (zeros 16) := by
    decide +kernel
  rw [State.sramRead, sram_of_coreRst (by decide +kernel) (by decide) run, bootLoaded, key, bootFw_smallBoot]
  decide +kernel

/-- Refutes O19: the boot ROM authenticates under the key that is there when it runs, after the beats sent so far have been counted. -/
theorem not_managementResetsHeartbeatAndSurroundings : ¬ Obligations.ManagementResetsHeartbeatAndSurroundings := by
  rintro ⟨reset, -⟩
  obtain ⟨t, run, -, -, -, -, -, sram⟩ := reset nyelleCore 1 0 smallBoot keyFound (by decide +kernel) (by decide) (by decide)
  have before : keyFound.bootKey = none := by decide +kernel
  have first := sram 0
  rw [sramRead_keyFound run, before, bootFw_none] at first
  exact absurd first (by decide +kernel)

end Sys2Proof.Proofs
end

section
/-! PROOFS. Refutations of statements about power, monitors and lanes. The other clauses of these statements are not looked at. -/

namespace Sys2Proof.Proofs

open Sys2Proof.Machine Sys2Proof.Laws

set_option Elab.async false

/-- Refutes O26: leaving D starts the 25 MHz count anew, and that is no register the clause lists. -/
theorem not_wakeAndExit : ¬ Obligations.WakeAndExit := by
  rintro ⟨source, -⟩
  let s : State := ({ running with pw := { target := pwD }, sys := { running.sys with pwRet := true } } : State).wr PW_STAT_STATE pwD |>.wr NY_MTIME_LO_MTIME 5
  obtain ⟨t, run, -, -, -, -, -, -, kept⟩ := source 0 s (by decide +kernel) (by decide +kernel) (by decide +kernel) (by decide +kernel)
    (by decide +kernel)
  rw [← after_eq run] at kept
  exact absurd (kept NY_MTIME_LO_MTIME.key (by decide)) (by decide +kernel)

/-- Refutes O14: a droop that is sampled again within 1 µs belongs to the episode that has been counted. -/
theorem not_checkUnitsAndMonitors : ¬ Obligations.CheckUnitsAndMonitors := by
  rintro ⟨-, -, -, -, -, -, -, droop⟩
  let s := ({ running with ny := { low := [(0, 1)] } } : State).wr (NY_DROOP_THR 0) 5
  obtain ⟨t, run, -, counted⟩ := droop 0 0 s (by decide +kernel)
  rw [if_pos (by decide +kernel), ← after_eq run] at counted
  exact absurd counted.1 (by decide +kernel)

/-- A word that a T-mode lane reads before its alignment line is full changes no register. -/
theorem flds_laneRead {s : State} {i : Nat} (w : LegWord) (mode : s.tMode (i / 9) = true) (spare : s.spState (i / 9) ≠ pCONFIRM)
    (short : 256 * ((s.lane i).words + 1) < (s.lane i).delay + 256) : (s.laneRead i w).flds = s.flds := by
  unfold State.laneRead
  extract_lets x h y u
  have mode : (s.setLane i y).tMode (i / 9) = true := mode
  have same : u = s.setLane i y := by
    have fec : (s.setLane i y).fecCount i w.fec = s.setLane i y := if_pos mode
    exact (congrArg (State.confirmWord · (i / 9)) fec).trans (if_pos (.inl spare))
  have short : y.end_ < y.delay + 256 := short
  rw [same]
  split
  · rfl
  · rw [if_pos short]
    rfl

theorem flds_markGap (s : State) (x : Nat) : (s.markGap x).flds = s.flds := by
  unfold State.markGap
  split <;> rfl

theorem flds_shadowRead (s : State) (x : Nat) (w : LegWord) : (s.shadowRead x w).flds = s.flds := by
  unfold State.shadowRead
  split
  · exact flds_markGap s x
  · rfl

/-- The same for the one word that stands in a crossing to the lane's slice. -/
theorem flds_legDrain {s : State} {i : Nat} {w : LegWord} (hi : i < 64) (one : s.leg i = [w]) (mode : s.tMode (i / 9) = true)
    (spare : s.spState (i / 9) ≠ pCONFIRM) (short : 256 * ((s.lane i).words + 1) < (s.lane i).delay + 256) : (s.legDrain i).flds = s.flds := by
  have drain : s.legDrain i = if s.islandRuns (i / 9) = false then s else
      (let u : State := { s with sys := { s.sys with legs := mapErase i s.sys.legs } }
      if u.mainLeg i = i then u.laneRead i w else u.shadowRead i w) := by
    cases h : s.islandRuns (i / 9) <;> simp [State.legDrain, Nat.mod_eq_of_lt hi, one, hi, h, State.each]
  rw [drain]
  split
  · rfl
  · dsimp only
    split
    · exact flds_laneRead w mode spare short
    · exact flds_shadowRead _ _ _

/-- Lane 0 of a T-mode port, its alignment line empty. -/
def quietLane : State :=
  ({ running with lanes := [(0, { delay := 2048 })] } : State).wr (LN_LANE_STAT_STATE 0) lnUP |>.raise (LN_PORT_CFG_T_MODE 0)

/-- That lane with a word in its crossing, which one symbol error came with. -/
def quietWord : State := quietLane.legWrite 0 (leBytes 32 0) ⟨0, 1, 0, 0, false⟩

theorem kept_quietWord : Kept [SYS_XING_STAT_OCC_MAX 0, SYS_XING_STAT_LAT_MAX 0] quietLane quietWord := by
  have : quietWord = ({ quietLane with sys := { quietLane.sys with legs := [(0, [⟨false, leBytes 32 0, ⟨0, 1, 0, 0, false⟩⟩])] } } :
    State).crossed 0 1 := rfl
  rw [this]
  exact kept_crossed _ _ (by simp) (by simp) (kept_refl quietLane)

theorem exec_quietLane : exec (.rxLaneWord 0 ⟨0, 1, 0, 0, false⟩) quietLane = .next (quietWord.legDrain 0) := by
  have legs : quietLane.mainLeg (0 : Fin 36) :: (quietLane.otherLeg (0 : Fin 36)).toList = [0] := by decide +kernel
  have up : ¬ (!quietLane.laneUp 0) = true := by decide +kernel
  refine congrArg Host.Outcome.next ((if_neg up).trans ?_)
  dsimp only
  rw [legs]
  rfl

/-- Refutes O28: in T-mode nothing counts symbol errors, since there is no FEC (R79). -/
theorem not_lanes : ¬ Obligations.Lanes := by
  rintro ⟨-, word, -⟩
  obtain ⟨t, run, -, -, counted⟩ := word 0 _ quietLane (by decide +kernel) (by decide +kernel) (by decide +kernel) (by decide +kernel)
  rw [exec_quietLane] at run
  injection run with run
  have kept (f : Fld) (hf : f.key ∉ [SYS_XING_STAT_OCC_MAX 0, SYS_XING_STAT_LAT_MAX 0].map Fld.key) : quietWord.rd f = quietLane.rd f :=
    kept_quietWord f.key hf
  have same : (quietWord.legDrain 0).flds = quietWord.flds := by
    refine flds_legDrain (w := ⟨false, leBytes 32 0, ⟨0, 1, 0, 0, false⟩⟩) (by decide) rfl ?_ ?_ (by decide +kernel)
    · rw [State.tMode, State.is, kept _ (by decide)]
      decide +kernel
    · rw [State.spState, kept _ (by decide)]
      decide +kernel
  rw [← run, State.rd, same] at counted
  exact absurd ((kept (LN_SYM_ERR_COUNT 0) (by decide)).symm.trans counted) (by decide +kernel)

end Sys2Proof.Proofs
end

section
/-! PROOFS. Refutations of statements about groups, overhead ports, lookups and ledger records. The other clauses of these statements are not
looked at. -/

namespace Sys2Proof.Proofs

open Sys2Proof.Machine Sys2Proof.Laws

set_option Elab.async false

/-- A group on a channel of port 0 whose one member is a position of port 1: the member's segment passes the core island. -/
def remoteMember : State :=
  ((({ sys := { started := 0x1DF }, grps := [(0, { seen := [(0, [(8, 2 ^ 32)])] })] } : State).raise (GP_GRP_CFG_EN 0)).raise
    (GP_POS_CFG_IN_GROUP 8)).wr (GP_GRP_SKEW_SPREAD_NS 0) 7

/-- Refutes O33: while the core island stands a remote member's segments do not reach the home slice (R114). -/
theorem not_groupsAlign : ¬ Obligations.GroupsAlign := by
  rintro ⟨-, -, -, spread, -⟩
  obtain ⟨t, run, new⟩ := spread 0 0 [(8, 2 ^ 32)] remoteMember (by decide +kernel) (by decide +kernel) (by decide +kernel)
  rw [← after_eq run] at new
  exact absurd new (by decide +kernel)

/-- Refutes O35: a check unit that waits on the overhead port's stream starts with the word. -/
theorem not_secondsAndOverhead : ¬ Obligations.SecondsAndOverhead := by
  rintro ⟨-, word, -⟩
  let s := (({ running with ohs := [(0, { tx := [5] })] } : State).wr (CU_CFG_STREAM 0) 31).wr (CU_STAT_STATE 0) 1
  obtain ⟨t, run, -, -, kept⟩ := word 0 5 [] s (by decide +kernel) (by decide +kernel)
  rw [← after_eq run] at kept
  exact absurd (kept (CU_STAT_STATE 0).key (by decide)) (by decide +kernel)

/-- A frame of channel 0 whose key is known. -/
def keyedFrame (asked : Bool) : RxFr :=
  { chan := 0, len := 64, flags := 0, deliverBad := false, data := [], csum := 0, tag1 := 0, tci1 := 0, tag2 := 0, tci2 := 0, stamp := 0,
    holdover := false, pcp := 0, yellow := false, key := some [], verdict := none, dropRec := false, control := false, asked := asked }

/-- Frame 0 waits for its lookup behind 64 keys of its port that stand in the crossing. -/
def keysInCrossing : State :=
  { running with rxs := (0, keyedFrame false) :: (List.range 64).map (fun i => (i + 1, keyedFrame true)) }

/-- Refutes O37: no more than 64 keys stand in the crossing (R20). -/
theorem not_lookupsGiveVerdicts : ¬ Obligations.LookupsGiveVerdicts := by
  rintro ⟨request, -⟩
  let s := keysInCrossing
  obtain ⟨t, l, run, found, -⟩ := request 0 0 [] (keyedFrame false) 0 s (by decide +kernel) (by rfl) (by decide +kernel) (by decide +kernel)
    (by decide +kernel) rfl (by decide +kernel)
  rw [← after_eq run] at found
  have asked : ((after (.lookupRequest 0) s).lookup 0).isSome = true := by rw [found]; rfl
  exact absurd asked (by decide +kernel)

/-- Unit 0 works, and neither a number of bytes nor the end of a unit ends its work. -/
def AtWork (s : State) : Prop := s.cuState 0 = 2 ∧ s.rd (CU_CFG_END_MODE 0) = 2 ∧ (s.cuMore 0).contig = false

/-- What a byte does to a unit at work. -/
def folded (s : State) (b : Byte) : State :=
  ((s.wr64 (CU_RUN_LO_RUN 0) (CU_RUN_HI_RUN 0) (cuFold (s.rd (CU_CFG_ALG 0)) (s.cuRun 0) b)).bump (CU_BYTES_BYTES 0)).setCu 0
    { s.cuMore 0 with seen := (s.cuMore 0).seen + 1 }

theorem rd_folded (s : State) (b : Byte) {f : Fld}
    (h : f.key ∉ [CU_RUN_LO_RUN 0, CU_RUN_HI_RUN 0, CU_BYTES_BYTES 0].map Fld.key) : (folded s b).rd f = s.rd f := by
  have kept : Kept [CU_RUN_LO_RUN 0, CU_RUN_HI_RUN 0, CU_BYTES_BYTES 0] s (folded s b) :=
    kept_flds rfl (kept_wr _ _ (by simp) (kept_wr _ _ (by simp) (kept_wr _ _ (by simp) (kept_refl s))))
  exact rd_kept kept f h

theorem atWork_cuByte {s : State} (b : Byte) (h : AtWork s) : AtWork (s.cuByte 0 b) := by
  obtain ⟨two, mode, one⟩ := h
  have mode' : (folded s b).rd (CU_CFG_END_MODE 0) = 2 := (rd_folded s b (by decide)).trans mode
  have same : s.cuByte 0 b = folded s b := by
    unfold State.cuByte
    rw [one, if_neg Bool.false_ne_true]
    refine (if_pos two).trans (if_neg fun h => ?_)
    exact absurd (mode'.symm.trans h.1) (by decide)
  rw [same]
  exact ⟨(rd_folded s b (by decide)).trans two, mode', by simpa [State.cuMore, folded, State.setCu, mapGet_set] using one⟩

theorem atWork_bytes (l : List Byte) : ∀ s, AtWork s → AtWork (l.foldl (fun s b => s.cuByte 0 b) s) := by
  induction l with
  | nil => exact fun _ h => h
  | cons b l ih => exact fun s h => ih _ (atWork_cuByte b h)

/-- A cut's record is due, and unit 0 waits on the ledger's stream. -/
def recordSnooped : State :=
  ((((running.raise LG_RING_CFG_EN).raise LG_STAT_PENDING).wr (CU_CFG_STREAM 0) 20).wr (CU_CFG_END_MODE 0) 2).wr (CU_STAT_STATE 0) 1

/-- A unit on stream 20 passes unit 0. -/
theorem atWork_cuStream {s : State} (d : List Byte) (on : s.cuOn 20 = [0]) (h : AtWork (s.cuStart 0)) : AtWork (s.cuStream 20 true d true) := by
  have work := atWork_bytes d _ h
  unfold State.cuStream
  rw [on]
  dsimp only [State.each, List.foldl]
  rw [if_pos rfl, if_neg]
  · exact work
  · intro e
    exact absurd (work.2.1.symm.trans e.2.2) (by decide)

/-- Refutes O54: a check unit that waits on the ledger's stream starts with the record. -/
theorem not_recordsReachTheRing : ¬ Obligations.RecordsReachTheRing := by
  rintro ⟨record, -⟩
  obtain ⟨t, run, -, same, -⟩ := record recordSnooped (by decide +kernel) (by decide +kernel)
  have : Fact (Part.fab = .fab) := ⟨rfl⟩
  have due : (recordSnooped.recordDue && recordSnooped.islandRuns 5) = true := by decide +kernel
  injection (congrArg Host.Outcome.next (if_pos due)).symm.trans run with run
  let d := recordOf (recordSnooped.cutRecord recordSnooped.led.done) (phase recordSnooped.lgLog2 (recordSnooped.rd LG_PI_PI))
  let issued : State := { recordSnooped with led := { recordSnooped.led with issued := recordSnooped.led.issued + 1 } }
  have work : AtWork (issued.cuStream 20 true d true) :=
    atWork_cuStream d (by decide +kernel) ⟨by decide +kernel, by decide +kernel, by decide +kernel⟩
  have sent : t.flds = (issued.cuStream 20 true d true).flds := by
    rw [← run]
    exact (keeps_hostWrite (P := (· = Part.fab)) _ _ _ _ _ (Keeps.refl _)).1 .regs (by decide)
  have two : recordSnooped.rd (CU_STAT_STATE 0) = 2 := (rd_congr (sent.symm.trans same) _).symm.trans work.1
  exact absurd two (by decide +kernel)

end Sys2Proof.Proofs
end

section
/-! PROOFS. Refutations of statements about the transmit line and about received frames. The other clauses of these statements are not looked
at. -/

namespace Sys2Proof.Proofs

open Sys2Proof.Machine Sys2Proof.Laws

set_option Elab.async false

/-- Channel 9 of port 1 is on and its line passes frames. -/
def lineOn (s : State) : State :=
  (((((s.wr SYS_SLICE_MAP_MAP 0x0BA98).raise (LN_PORT_CFG_ENABLE 1)).raise (LN_CHAN_CFG_EN 9)).wr (LN_CHAN_CFG_SPEED 9) 1).wr
    (LN_CHAN_STAT_STATE 9) 2)

/-- A frame of 60 bytes staged for channel 9 whose descriptor asks for one tag of the channel's own type. -/
def taggedFrame : TxFr :=
  { queue := 2, ctx := 0, idx := 0, desc := List.replicate 10 0 ++ [5, 0, 0, 0, 0, 0], len := 60, stage := .staged, chan := 9,
    data := [(0, List.replicate 60 0)] }

/-- That frame's line is free but paced, and a commit has just changed the channel's tag type. -/
def tagChanged : State :=
  lineOn { running with
    txs := [(7, taggedFrame)]
    chs := [(9, { staged := [(0, [7])], comAt := some 0, tx := { stpid := 1 }, lastStart := 1 })] }

/-- Refutes O41: a frame that starts after the cycle of a commit goes out under the set then in force (R134). -/
theorem not_dispatchAndLine : ¬ Obligations.DispatchAndLine := by
  rintro ⟨-, -, -, start, -⟩
  obtain ⟨t, g, run, -, found, -, -, -, -, wire, -⟩ := start 9 0 7 taggedFrame 0 tagChanged (by decide +kernel) (by decide +kernel)
    (by decide +kernel) (by decide +kernel) (by decide +kernel) (by decide +kernel) (by decide +kernel) (by decide +kernel) (by decide +kernel)
  have sent : ((after (.txFrameStart 9 ⟨false, 0⟩) tagChanged).txf 7).map (·.wire) = some (tagChanged.txWire 9 taggedFrame).1 := by
    rw [after_eq run, found]
    exact congrArg some (wire (by decide +kernel))
  exact absurd sent (by decide +kernel)

/-- The class of a verdict under which the reserve of port 0 would be the counter of frames metered green. -/
def strayClass : Nat := (0x1D4000 + 8 * 344 - (FB_PC_RES_RES 0).off) / 4

/-- A received frame with that verdict. -/
def strayFrame : RxFr :=
  { chan := 0, len := 64, flags := 0, deliverBad := false, data := [], csum := 0, tag1 := 0, tci1 := 0, tag2 := 0, tci2 := 0, stamp := 0,
    holdover := false, pcp := 0, yellow := false, verdict := some { cls := strayClass }, dropRec := false, control := false, stage := .released }

/-- The frame arrives at an active context, and the shared partition has room. -/
def strayEntry : State :=
  (({ running with rxs := [(4, strayFrame)], ctxs := [(0, { state := cACTIVE })] } : State).wr (FB_PC_SHMAX_SHMAX strayClass) 1).wr
    FB_SHARED_SIZE 1

/-- Refutes O43: the frame is counted as green before it asks for cells, and the clause bounds no verdict's class. -/
theorem not_receiveFramesToBuffers : ¬ Obligations.ReceiveFramesToBuffers := by
  rintro ⟨-, -, entry, -⟩
  obtain ⟨t, g, run, -, -, -, -, place, -⟩ := entry 0 4 strayFrame { cls := strayClass } ⟨0, 1, 0⟩ strayEntry (by decide +kernel)
    (by decide +kernel) (by decide +kernel) rfl rfl rfl rfl rfl rfl rfl (by decide +kernel) (by decide +kernel)
  rw [← after_eq run] at place
  exact absurd place (by decide +kernel)

end Sys2Proof.Proofs
end

section
/-! PROOFS. The pair commands (R128), over states whose registers hold any value. The other clauses of this statement are not looked at. -/

namespace Sys2Proof.Proofs

open Sys2Proof.Machine Sys2Proof.Laws

set_option Elab.async false

/-- A register that holds a value, which may be one that its width does not. -/
def holding (s : State) (f : Fld) (v : Nat) : State := { s with flds := mapSet fieldReset s.flds f.key v }

/-- A channel number whose stream state would be the counter of event 6666. -/
def strayChan : Nat := (0x1D4000 + 8 * 6666 - (TF_GFP_STAT_STATE 0).off) / 4

/-- Pair 0 of the groups 1 and 2, both up, on that channel, its stream in `SYNC`, with one beat to count under event 6666. -/
def strayPair : State :=
  let s := (((strayBeats 6666 1).raise (GP_PAIR_CFG_EN 0)).wr (GP_PAIR_CFG_WORK 0) 1).wr (GP_PAIR_CFG_PROT 0) 2
  let s := (s.wr (GP_GRP_STAT_STATE 1) gUP).wr (GP_GRP_STAT_STATE 2) gUP
  (holding (holding s (GP_GRP_CFG_CHAN 1) strayChan) (GP_GRP_CFG_CHAN 2) strayChan).wr (TF_GFP_STAT_STATE strayChan) fSYNC

/-- Refutes O34: the pair evaluates its conditions after the beats sent so far have been counted, and no condition of the clause bounds the
group's channel. -/
theorem not_pairsSwitchAndHingePasses : ¬ Obligations.PairsSwitchAndHingePasses := by
  rintro ⟨-, command, -⟩
  obtain ⟨t, run, -, -, top, -⟩ := command nyelleCore 0 strayPair (by decide +kernel) (by decide +kernel) (by decide +kernel) (by decide +kernel)
    (by decide +kernel) (by decide +kernel) (by decide +kernel) (by decide +kernel) (.pairCmdNone nyelleCore 0, 0, 0, false) (by simp)
  rw [← after_eq run] at top
  exact absurd top (by decide +kernel)

end Sys2Proof.Proofs
end

section
/-! PROOFS. The undoing of an entry lets the held lanes go, and a position that no lane feeds then takes its group down (R98, R117, R414): what
its stream holds is handed on inside commands that name no stream. -/

namespace Sys2Proof.Proofs

open Sys2Proof.Machine Sys2Proof.Laws

set_option Elab.async false

/-- A payload area of a client frame of two bytes, scrambled from the state 0. -/
def clientArea : List Byte := (x43 false 0 [0, 1, 0x10, 0x21, 0xAA, 0xBB]).2

/-- Position 0, whose framer listens with no lane up, is the one member of group 0, which is up on a channel with a frame in progress; an entry
that has idled port 0's lanes is at step E5. -/
def groupBehind (c n target : Nat) (s : State) : State :=
  let s := ((s.raise (GP_POS_CFG_IN_GROUP 0)).raise (GP_GRP_CFG_EN 0)).wr (GP_GRP_STAT_STATE 0) gUP
  let s := ((holding s (GP_GRP_CFG_CHAN 0) c).wr (TF_FR_STAT_STATE 0) fHUNT).wr (TF_GFP_STAT_STATE c) fSYNC
  { s with gfps := [(c, { buf := clientArea, pli := some n })], pw := { s.pw with step := 5, target := target, idle := 1 } }

/-- A channel number whose client-fail bit would be `TM_EVT.STEP`. -/
def eventChan : Nat := (TM_EVT_STEP.off - (TF_GFP_STAT_STATE 0).off) / 4

/-- A step of the counter over a cut instant is due. -/
def stepOverCut : State :=
  let s := groupBehind eventChan 6 pwS running
  { s with tm := { s.tm with step := some ⟨.set, 10 * secUnits, 0⟩ }, led := { s.led with nextCut := some 5, per := 1 } }

/-- Refutes O55: the cut at a step undoes an entry (R414), and the clause bounds no group's channel. -/
theorem not_referencesKeepTime : ¬ Obligations.ReferencesKeepTime := by
  rintro ⟨-, step, -⟩
  obtain ⟨t, run, -, -, event, -⟩ := step ⟨.set, 10 * secUnits, 0⟩ stepOverCut (by decide +kernel) (by decide +kernel) (by decide +kernel)
  rw [← after_eq run] at event
  exact absurd event (by decide +kernel)

/-- A frame of 64 bytes with its check sequence. -/
def plainFrame : List Byte := zeros 60 ++ leBytes 4 (crc32 (zeros 60))

/-- Channel 1 of a T-mode port has a client frame that began in W, wake pattern 0 of the channel tests nothing, and an entry to W can still be
undone. -/
def wakingFrame : State :=
  let s := groupBehind 1 6 pwW running
  let s := (((s.raise (LN_PORT_CFG_ENABLE 0)).raise (LN_PORT_CFG_T_MODE 0)).wr PW_STAT_STATE pwW).wr PW_WAKE_EN_EN 4
  let s := (s.raise (MC_WAKE_CTRL_EN 0)).wr (MC_WAKE_CTRL_CHAN 0) 1
  s.setGfp 1 { s.gfp 1 with clients := [⟨plainFrame, false, false, 0, 0, 0, 0, {}⟩] }

/-- Refutes O36: a frame that wakes the block undoes the entry (R414), and that may hand another client frame of its stream on. -/
theorem not_macChannels : ¬ Obligations.MacChannels := by
  rintro ⟨-, -, -, -, -, -, taken, -⟩
  obtain ⟨t, run, rest⟩ := taken 1 [] false true 0 0 ⟨plainFrame, false, false, 0, 0, 0, 0, {}⟩ [] wakingFrame (by decide +kernel)
    (by decide +kernel) (by decide +kernel)
  rw [← after_eq run] at rest
  exact absurd rest (by decide +kernel)

end Sys2Proof.Proofs
end

section
/-! PROOFS. A cut undoes an entry (R414), and what the group's stream holds is then taken. -/

namespace Sys2Proof.Proofs

open Sys2Proof.Machine Sys2Proof.Laws

set_option Elab.async false

/-- A core header that announces a frame of 4 bytes. -/
def coreHeader : List Byte := coreXor (beBytes 2 4 ++ beBytes 2 (crc16 (beBytes 2 4)))

/-- A channel number whose lock of the shade set would be `LG_STAT.WINDOW`. -/
def windowChan : Nat := (LG_STAT_WINDOW.off - (MC_COMMIT_LOCKED 0).off) / 4

/-- A cut instant has come; the group's stream holds a core header, and the channel's receive half is still to sample the last commit. -/
def cutAtHeader : State :=
  let s := groupBehind windowChan 0 pwS running
  { s with
    led := { s.led with nextCut := some 0 }
    gfps := [(windowChan, { buf := coreHeader })]
    chs := [(windowChan, { rxDue := true })] }

/-- Refutes O53: the clause bounds no group's channel. -/
theorem not_cutsOpenAndClose : ¬ Obligations.CutsOpenAndClose := by
  rintro ⟨cut, -⟩
  obtain ⟨t, w, run, window, -⟩ := cut 0 cutAtHeader (by decide +kernel) (by decide +kernel) (by decide +kernel) (by decide +kernel)
    (by decide +kernel)
  rw [← after_eq run] at window
  exact absurd window (by decide +kernel)

end Sys2Proof.Proofs
end

section
/-! PROOFS. A check unit that waits on the descriptor's stream starts with the fetch (R343). -/

namespace Sys2Proof.Proofs

open Sys2Proof.Machine Sys2Proof.Laws

set_option Elab.async false

/-- A block in `WAIT_SD` whose check unit 0 waits for the bytes of a descriptor read. -/
def reloadWatched : State := ((running.wr SYS_STATE_STATE stWAIT_SD).wr (CU_CFG_STREAM 0) 19).wr (CU_STAT_STATE 0) 1

/-- Refutes O23: a reload of the descriptor starts the check unit that waits on its bytes. -/
theorem not_startUp : ¬ Obligations.StartUp := by
  rintro ⟨-, -, -, reload, -⟩
  obtain ⟨t, run, -, -, -, -, kept⟩ := reload nyelleCore reloadWatched (by decide +kernel) (by decide +kernel) (by decide +kernel)
  have state := rd_kept kept (CU_STAT_STATE 0) (by decide +kernel)
  rw [← after_eq run] at state
  exact absurd state (by decide +kernel)

end Sys2Proof.Proofs
end

section
/-! PROOFS. What waits at the fabric (R53, R54): issuing changes no request but for how much of it is sent, and a request of a fabric port stays. -/

namespace Sys2Proof.Proofs

open Sys2Proof.Machine Sys2Proof.Laws

set_option Elab.async false

/-- A request without the marks of its progress: what it asks, of whom. -/
def askOf (r : Req) : Req := { r with left := 0, tag := none, at_ := 0 }

/-- Two states of the fabric that differ in what has been sent alone. -/
structure SameAsks (f g : FabSt) : Prop where
  reqs : g.reqs.map askOf = f.reqs.map askOf
  done : g.done = f.done
  up : g.up = f.up
  failed : g.failed = f.failed
  held : g.held = f.held

theorem SameAsks.refl (f : FabSt) : SameAsks f f := ⟨rfl, rfl, rfl, rfl, rfl⟩

theorem SameAsks.trans {f g h : FabSt} (a : SameAsks f g) (b : SameAsks g h) : SameAsks f h :=
  ⟨b.reqs.trans a.reqs, b.done.trans a.done, b.up.trans a.up, b.failed.trans a.failed, b.held.trans a.held⟩

theorem sameAsks_sendBeats (f : FabSt) (c : Clocks) (r : Req) (t n : Nat) : SameAsks f (f.sendBeats c r t n) := by
  unfold FabSt.sendBeats
  dsimp only
  split <;> exact ⟨rfl, rfl, rfl, rfl, rfl⟩

theorem sameAsks_setReq (f : FabSt) {i : Nat} {r : Req} (hr : f.reqs[i]? = some r) (left : Nat) (tag : Option Nat) (at_ : Nat) :
    SameAsks f { f with reqs := f.reqs.set i { r with left := left, tag := tag, at_ := at_ } } := by
  refine ⟨?_, rfl, rfl, rfl, rfl⟩
  obtain ⟨bound, rfl⟩ := List.getElem?_eq_some_iff.1 hr
  apply List.ext_getElem <;> simp only [List.length_map, List.length_set, List.getElem_map]
  intro j hj _
  by_cases h : i = j
  · subst h
    simp [askOf]
  · rw [List.getElem_set_ne h]

theorem sameAsks_issue (f : FabSt) (c : Clocks) (i : Nat) : SameAsks f (f.issue c i) := by
  unfold FabSt.issue
  cases hr : f.reqs[i]? with
  | none => exact .refl f
  | some r =>
    cases ht : r.tag.or (freeTag (usedTags r.x f.quar f.reqs)) with
    | none => simpa only [ht] using SameAsks.refl f
    | some t =>
      simp only [ht]
      generalize (if f.bgWaits r then _ else _ : Nat) = n
      have sent := sameAsks_sendBeats f c r t n
      have at_i : (f.sendBeats c r t n).reqs[i]? = some r := by
        rw [← hr]
        unfold FabSt.sendBeats
        dsimp only
        split <;> rfl
      have set := sent.trans (sameAsks_setReq _ at_i (r.left - n) (some t) (if r.tag.isSome then r.at_ else c.tick))
      cases agentOf r.kind with
      | some a => exact ⟨set.reqs, set.done, set.up, set.failed, set.held⟩
      | none =>
        dsimp only
        split
        · exact set
        · exact ⟨set.reqs, set.done, set.up, set.failed, set.held⟩

theorem sameAsks_pumpGo (c : Clocks) : ∀ (n : Nat) (f : FabSt), SameAsks f (pumpGo c n f)
  | 0, f => .refl f
  | n + 1, f => by
    unfold pumpGo
    split
    · exact (sameAsks_issue f c _).trans (sameAsks_pumpGo c n _)
    · exact .refl f

/-- The fabric after it has issued what it can. -/
theorem sameAsks_pump (s : State) : SameAsks s.fab.withdraw s.pump.fab := sameAsks_pumpGo ..

/-- May a request be withdrawn before it has begun (R178)? -/
def Stays (f : FabSt) (r : Req) : Prop := r.x < 9 ∨ f.issues r.x = true

theorem mem_asks_of_map {l m : List Req} (h : m.map askOf = l.map askOf) {r : Req} (hr : r ∈ l) : ∃ q ∈ m, askOf q = askOf r := by
  have : askOf r ∈ m.map askOf := h ▸ List.mem_map_of_mem hr
  exact List.mem_map.1 this

/-- A request that stands after the issue stood before it, at the same port. -/
theorem mem_pump {s : State} {q : Req} (hq : q ∈ s.pump.fab.reqs) : ∃ r ∈ s.fab.reqs, askOf r = askOf q := by
  obtain ⟨r, hr, e⟩ := mem_asks_of_map (sameAsks_pump s).reqs.symm hq
  exact ⟨r, (List.mem_filter.1 hr).1, e⟩

theorem mem_withdraw {f : FabSt} {r : Req} (hr : r ∈ f.reqs) (stays : Stays f r) : r ∈ f.withdraw.reqs := by
  refine List.mem_filter.2 ⟨hr, ?_⟩
  cases stays with
  | inl h => simp [Nat.not_le.2 h]
  | inr h => simp [h]

/-- A request that may not be withdrawn stands at the fabric after the issue. -/
theorem pump_reqs {s : State} {r : Req} (hr : r ∈ s.fab.reqs) (stays : Stays s.fab r) : ∃ q ∈ s.pump.fab.reqs, askOf q = askOf r :=
  mem_asks_of_map (sameAsks_pump s).reqs (mem_withdraw hr stays)

/-- A request like this one stands at the fabric, however much of it has been sent. -/
def Asked (s : State) (r : Req) : Prop := ∃ q ∈ s.fab.reqs, askOf q = askOf r

theorem asked_of_mem {s : State} {r : Req} (h : r ∈ s.fab.reqs) : Asked s r := ⟨r, h, rfl⟩

theorem askOf_x {q r : Req} (h : askOf q = askOf r) : q.x = r.x := (congrArg Req.x h :)

theorem Stays.congr {f : FabSt} {q r : Req} (h : askOf q = askOf r) (stays : Stays f r) : Stays f q := by
  unfold Stays at *
  rwa [askOf_x h]

theorem Asked.pump {s : State} {r : Req} (h : Asked s r) (stays : Stays s.fab r) : Asked s.pump r := by
  obtain ⟨q, hq, e⟩ := h
  obtain ⟨p, hp, e'⟩ := pump_reqs hq (stays.congr e)
  exact ⟨p, hp, e'.trans e⟩

theorem Asked.send {s : State} {r : Req} (h : Asked s r) (stays : Stays s.fab r) (k : ReqKind) (a b x vc addr : Nat) (data : List Byte) (n : Nat) :
    Asked (s.send k a b x vc addr data n) r := by
  obtain ⟨q, hq, e⟩ := h
  exact Asked.pump (s := { s with fab := { s.fab with reqs := _ } }) ⟨q, List.mem_append_left _ hq, e⟩ stays

/-- What a request asks, with nothing sent. -/
def newAsk (k : ReqKind) (a b x vc addr : Nat) (data : List Byte) (n : Nat) : Req :=
  { kind := k, a := a, b := b, x := x, vc := vc, addr := addr, data := data, rlen := n, left := 0, tag := none, got := [] }

/-- A request that its port takes stands at the fabric once it is sent. -/
theorem asked_send_new {s : State} {x : Nat} (stays : x < 9 ∨ s.fab.issues x = true) (k : ReqKind) (a b vc addr : Nat) (data : List Byte) (n : Nat) :
    Asked (s.send k a b x vc addr data n) (newAsk k a b x vc addr data (if vc = 1 then n else 0)) :=
  let r : Req := { newAsk k a b x vc addr data (if vc = 1 then n else 0) with left := beatsOf x vc addr (if vc = 1 then n else data.length) }
  (Asked.pump (s := { s with fab := { s.fab with reqs := s.fab.reqs ++ [r] } })
    ⟨r, List.mem_append_right _ (List.mem_singleton.2 rfl), rfl⟩ stays :)

theorem Asked.asks {s : State} {r : Req} (h : Asked s r) : s.asks r.kind r.a r.b r.addr r.data r.rlen = true := by
  obtain ⟨q, hq, e⟩ := h
  refine List.any_eq_true.2 ⟨q, hq, ?_⟩
  have hk : q.kind = r.kind := (congrArg Req.kind e :)
  have ha : q.a = r.a := (congrArg Req.a e :)
  have hb : q.b = r.b := (congrArg Req.b e :)
  have haddr : q.addr = r.addr := (congrArg Req.addr e :)
  have hdata : q.data = r.data := (congrArg Req.data e :)
  have hn : q.rlen = r.rlen := (congrArg Req.rlen e :)
  simp [hk, ha, hb, haddr, hdata, hn]

/-! ## Requests of the ring engine -/

theorem fabPhys_lt (s : State) {f : Nat} (h : f < 9) : s.fabPhys f < 9 := by
  unfold State.fabPhys
  split <;> omega

/-- A request of the ring engine goes to a fabric port. -/
theorem fabPort_lt (s : State) (addr : Nat) : s.fabPort addr < 9 := by
  refine fabPhys_lt s ?_
  generalize addr / 4096 % s.fabWorking.length = i
  by_cases h : i < s.fabWorking.length
  · have mem : s.fabWorking.getD i 0 ∈ s.fabWorking := by
      rw [List.getD_eq_getElem _ _ h]
      exact List.getElem_mem h
    have := List.mem_range.1 (List.mem_filter.1 mem).1
    omega
  · rw [List.getD_eq_default _ _ (by omega)]
    omega

/-- A request of the ring engine of this content stands at a fabric port. -/
def HostAsked (s : State) (k : ReqKind) (a b addr : Nat) (data : List Byte) (n : Nat) : Prop :=
  ∃ x < 9, ∃ vc, Asked s (newAsk k a b x vc addr data n)

section
variable {s : State} {k : ReqKind} {a b addr n : Nat} {data : List Byte}

theorem HostAsked.asks (h : HostAsked s k a b addr data n) : s.asks k a b addr data n = true := by
  obtain ⟨x, -, vc, asked⟩ := h
  exact asked.asks

theorem HostAsked.mem (h : HostAsked s k a b addr data n) :
    ∃ r ∈ s.fab.reqs, r.kind = k ∧ r.a = a ∧ r.b = b ∧ r.addr = addr ∧ r.data = data ∧ r.rlen = n := by
  obtain ⟨x, -, vc, q, hq, e⟩ := h
  exact ⟨q, hq, (congrArg Req.kind e :), (congrArg Req.a e :), (congrArg Req.b e :), (congrArg Req.addr e :), (congrArg Req.data e :), (congrArg Req.rlen e :)⟩

/-- It depends on the requests alone. -/
theorem HostAsked.congr {t : State} (e : t.fab.reqs = s.fab.reqs) (h : HostAsked s k a b addr data n) : HostAsked t k a b addr data n := by
  unfold HostAsked Asked at *
  rwa [e]

theorem HostAsked.pump (h : HostAsked s k a b addr data n) : HostAsked s.pump k a b addr data n := by
  obtain ⟨x, hx, vc, asked⟩ := h
  exact ⟨x, hx, vc, asked.pump (.inl hx)⟩

theorem HostAsked.send (h : HostAsked s k a b addr data n) (k' : ReqKind) (a' b' x' vc' addr' : Nat) (data' : List Byte) (n' : Nat) :
    HostAsked (s.send k' a' b' x' vc' addr' data' n') k a b addr data n := by
  obtain ⟨x, hx, vc, asked⟩ := h
  exact ⟨x, hx, vc, asked.send (.inl hx) ..⟩

theorem HostAsked.hostWrite (h : HostAsked s k a b addr data n) (k' : ReqKind) (a' b' addr' : Nat) (data' : List Byte) :
    HostAsked (s.hostWrite k' a' b' addr' data') k a b addr data n := h.send ..

theorem HostAsked.hostRead (h : HostAsked s k a b addr data n) (k' : ReqKind) (a' b' addr' n' : Nat) :
    HostAsked (s.hostRead k' a' b' addr' n') k a b addr data n := h.send ..

end

theorem hostAsked_write (s : State) (k : ReqKind) (a b addr : Nat) (data : List Byte) :
    HostAsked (s.hostWrite k a b addr data) k a b addr data 0 :=
  ⟨_, fabPort_lt s addr, 0, asked_send_new (.inl (fabPort_lt s addr)) ..⟩

theorem hostAsked_read (s : State) (k : ReqKind) (a b addr n : Nat) : HostAsked (s.hostRead k a b addr n) k a b addr [] n :=
  ⟨_, fabPort_lt s addr, 1, asked_send_new (.inl (fabPort_lt s addr)) ..⟩

theorem hostAsked_notify (s : State) (k : ReqKind) (a b addr : Nat) (data : List Byte) :
    HostAsked (s.hostNotify k a b addr data) k a b addr data 0 :=
  ⟨_, fabPort_lt s addr, 3, asked_send_new (.inl (fabPort_lt s addr)) ..⟩

end Sys2Proof.Proofs
end

section
/-! PROOFS. The end of a service operation (R428), and the steps of an evacuation (R431 to R435). -/

namespace Sys2Proof.Proofs

open Sys2Proof.Machine Sys2Proof.Laws

set_option Elab.async false

/-- Time that passes up to a tick changes the clocks and the registers that show them alone. -/
theorem advanceTo_eq (s : State) (k : Nat) :
    ∃ l tm, s.advanceTo k = { s with flds := l, tm := tm } ∧ tm.tick = max s.tm.tick k ∧ Kept clockFields s (s.advanceTo k) := by
  unfold State.advanceTo
  split
  case isTrue h =>
    obtain ⟨l, e, kept⟩ := advance_eq s (k - s.tm.tick)
    refine ⟨l, _, e, ?_, kept⟩
    have : (laterTm s (k - s.tm.tick)).tick = s.tm.tick + (k - s.tm.tick) := by unfold laterTm; split <;> rfl
    omega
  case isFalse h => exact ⟨s.flds, s.tm, rfl, by omega, kept_refl s⟩

theorem advance_tick (s : State) (k : Nat) : (s.advance k).tm.tick = s.tm.tick + k := by
  obtain ⟨l, e, -⟩ := advance_eq s k
  rw [e]
  unfold laterTm
  split <;> rfl

theorem advance_sv (s : State) (k : Nat) : (s.advance k).sv = s.sv := by
  obtain ⟨l, e, -⟩ := advance_eq s k
  rw [e]

/-! ## The end of an operation -/

/-- The fields in which the end of a service operation shows. -/
def endFields : List Fld := [SV_STAT_BUSY, SV_STAT_PHASE, SV_STAT_RESULT, SV_STAT_LAST_OP, SV_EVT_DONE]

section
variable (s : State) (st : Nat)

theorem kept_svEnd : Kept endFields s (s.svEnd st) := by
  refine kept_wr _ _ ?_ (kept_wr _ _ ?_ (kept_wr _ _ ?_ (kept_wr _ _ ?_ (kept_wr _ _ ?_ (kept_flds rfl (kept_refl s)))))) <;> decide

theorem svEnd_busy : (s.svEnd st).is SV_STAT_BUSY = false := by
  unfold State.svEnd
  simp [raise_eq, State.is, rd_wr, Fld.key, SV_STAT_BUSY, SV_STAT_PHASE, SV_STAT_RESULT, SV_STAT_LAST_OP, SV_EVT_DONE]

theorem svEnd_result : (s.svEnd st).rd SV_STAT_RESULT = st % 2 ^ 4 := by
  unfold State.svEnd
  simp [raise_eq, rd_wr, Fld.key, SV_STAT_RESULT, SV_STAT_LAST_OP, SV_EVT_DONE]

theorem svEnd_lastOp : (s.svEnd st).rd SV_STAT_LAST_OP = s.sv.op % 2 ^ 4 := by
  unfold State.svEnd
  simp [raise_eq, rd_wr, Fld.key, SV_STAT_LAST_OP, SV_EVT_DONE]

theorem svEnd_done : (s.svEnd st).is SV_EVT_DONE = true := is_raise

end

/-! ## Steps of an evacuation -/

theorem evacAt_iff (s : State) (n : Nat) : s.evacAt n = true ↔ (s.sv.op = opEVACUATE ∨ s.sv.op = opRETURN) ∧ s.sv.step = n := by
  simp [State.evacAt]

theorem evacAt_step {s : State} {n : Nat} (h : s.evacAt n = true) : s.sv.step = n := ((evacAt_iff s n).1 h).2

theorem evacAt_other {s : State} (n : Nat) (h : s.sv.op ≠ opEVACUATE) (h' : s.sv.op ≠ opRETURN) : s.evacAt n = false := by
  simp [State.evacAt, h, h']

/-- What the drop of staged frames may change. -/
def stagingParts (p : Part) : Prop := p ∈ [Part.chs, .fb, .free, .led, .qs, .regs, .sys, .txs]

theorem keeps_dropPort (s : State) (f : State → Nat) (cause status : Nat) :
    Keeps stagingParts s (s.each (List.range 8) (fun s k => s.dropStaged (f s + k) cause status (fun _ => true))) := by
  refine keeps_each (fun t k h => ?_) (Keeps.refl s)
  apply +allowSynthFailures keeps_dropStaged
  case hk => exact h
  all_goals exact ⟨by simp [stagingParts]⟩

theorem exec_evacCopyDone_forced {s : State} (at2 : s.evacAt 2 = true) (force : s.sv.force = true) (op : s.sv.op = opEVACUATE) :
    exec .evacCopyDone s = .next ((s.mirrorBack s.sv.arg).svEnd sOK) := by
  show execEvacCopyDone s = _
  unfold execEvacCopyDone
  rw [at2, force, op]
  rfl

theorem mirrorBack_sv (s : State) (p : Nat) : (s.mirrorBack p).sv = s.sv := by
  have parts : Keeps (· ∈ [Part.chs, .regs, .transit]) s (s.mirrorBack p) := by
    apply +allowSynthFailures keeps_mirrorBack
    case hk => exact Keeps.refl s
    all_goals exact ⟨by decide⟩
  exact parts.1 .sv (by decide)

theorem mirrorBack_gap (s : State) (p : Nat) : (s.mirrorBack p).is SV_EVT_STAT_GAP = true := is_raise

theorem evacCopyDone_forced {s : State} (at2 : s.evacAt 2 = true) (force : s.sv.force = true) (op : s.sv.op = opEVACUATE) :
    ∃ t, exec .evacCopyDone s = .next t ∧ t.sv.op = 0 ∧ t.sv.step = 0 ∧ t.is SV_STAT_BUSY = false ∧ t.rd SV_STAT_RESULT = sOK ∧
      t.rd SV_STAT_LAST_OP = 1 ∧ t.is SV_EVT_STAT_GAP = true ∧ t.is SV_EVT_DONE = true := by
  refine ⟨_, exec_evacCopyDone_forced at2 force op, rfl, rfl, svEnd_busy .., svEnd_result .., ?_, ?_, svEnd_done ..⟩
  · rw [svEnd_lastOp, mirrorBack_sv, op]
    rfl
  · rw [State.is, rd_kept (kept_svEnd _ _) _ (by decide)]
    exact mirrorBack_gap ..

theorem evacRxReady_ready {s : State} (at3 : s.evacAt 3 = true) (aligned : s.portAligned s.sv.arg = true) (runs : s.islandRuns s.evacTo = true) :
    ∃ t, exec .evacRxReady s = .next t ∧ t.tm.tick = s.tm.tick + usTicks (s.rd SV_TIME_RX_GUARD_US) ∧
      t.sv = { s.sv with step := 5, since := t.tm.tick } ∧ t.rd SV_STAT_PHASE = 2 := by
  refine ⟨((s.advance (usTicks (s.rd SV_TIME_RX_GUARD_US))).wr SV_STAT_PHASE 2).svStep 5, ?_, advance_tick .., ?_, ?_⟩
  · show execEvacRxReady s = _
    unfold execEvacRxReady
    rw [at3, aligned, runs]
    rfl
  · rw [State.svStep, wr_sv, advance_sv]
  · exact rd_wr_same (s.advance (usTicks (s.rd SV_TIME_RX_GUARD_US))) SV_STAT_PHASE 2

theorem evacRxSwitch_runs {s : State} (at5 : s.evacAt 5 = true) (runs : s.islandRuns s.evacTo = true) :
    ∃ t, exec .evacRxSwitch s = .next t ∧ t.tm.tick = max s.tm.tick (s.sv.since + 1600) ∧
      t.sv = { s.sv with step := 6, since := t.tm.tick, held := 1#4 <<< s.sv.arg, rxAt := t.tm.tick } := by
  obtain ⟨l, tm, e, tick, -⟩ := advanceTo_eq s (s.sv.since + 1600)
  let u := ({ s with flds := l, tm := tm } : State).svStep 6
  refine ⟨{ u with sv := { u.sv with held := 1#4 <<< s.sv.arg, rxAt := tm.tick } }, ?_, tick, rfl⟩
  show execEvacRxSwitch s = _
  unfold execEvacRxSwitch
  rw [at5, runs, e]
  rfl

/-- The state once the frames still staged have left. -/
def drainedAt (s : State) : State :=
  (s.advanceTo (s.sv.since + usTicks (s.rd SV_TIME_DRAIN_US))).each (List.range 8) (fun s k =>
    s.dropStaged (8 * s.sv.arg + k) 6 sFAULT (fun _ => true))

theorem drainedAt_sv (s : State) : (drainedAt s).sv = s.sv := by
  obtain ⟨l, tm, e, -⟩ := advanceTo_eq s (s.sv.since + usTicks (s.rd SV_TIME_DRAIN_US))
  exact ((keeps_dropPort _ (fun s => 8 * s.sv.arg) 6 sFAULT).1 .sv (by simp [stagingParts])).trans (by rw [e])

theorem drainedAt_tick (s : State) : (drainedAt s).tm.tick = max s.tm.tick (s.sv.since + usTicks (s.rd SV_TIME_DRAIN_US)) := by
  obtain ⟨l, tm, e, tick, -⟩ := advanceTo_eq s (s.sv.since + usTicks (s.rd SV_TIME_DRAIN_US))
  have time : (drainedAt s).tm = _ := (keeps_dropPort _ (fun s => 8 * s.sv.arg) 6 sFAULT).1 .tm (by simp [stagingParts])
  rw [time, e]
  exact tick

theorem evacDrainTimeout_at {s : State} (at6 : s.evacAt 6 = true) :
    ∃ t, exec .evacDrainTimeout s = .next t ∧ t.tm.tick = max s.tm.tick (s.sv.since + usTicks (s.rd SV_TIME_DRAIN_US)) ∧
      t.sv = { s.sv with step := t.sv.step, since := t.sv.since } ∧ (if t.portStaged s.sv.arg then t.sv.step = 6 else t.sv.step = 7) := by
  let u := drainedAt s
  have sv : u.sv = s.sv := drainedAt_sv s
  have run : exec .evacDrainTimeout s = .next (if u.portStaged u.sv.arg then u else u.svStep 7) := by
    show execEvacDrainTimeout s = _
    unfold execEvacDrainTimeout
    rw [if_pos at6]
    rfl
  have time : u.tm.tick = _ := drainedAt_tick s
  clear_value u
  refine ⟨_, run, ?_⟩
  rw [sv]
  cases staged : u.portStaged s.sv.arg with
  | true =>
    rw [if_pos rfl]
    exact ⟨time, by simp [sv], by simp [staged, sv, evacAt_step at6]⟩
  | false =>
    rw [if_neg Bool.false_ne_true]
    refine ⟨time, by simp [State.svStep, sv], ?_⟩
    have : (u.svStep 7).portStaged s.sv.arg = false := staged
    rw [if_neg (by simp [this])]
    rfl

theorem evacControl_keeps (s : State) (p : Nat) : Keeps (· ∈ [Part.chs]) s (s.evacControl p) := by
  apply +allowSynthFailures keeps_evacControl
  case hk => exact Keeps.refl s
  exact ⟨by decide⟩

theorem exec_evacLockstepCompare {s : State} (at7 : s.evacAt 7 = true) (runs : s.islandRuns s.evacTo = true) (equal : Bool) :
    exec (.evacLockstepCompare equal) s = .next (if equal then s.evacSwitch else s.bump SV_REJ_COUNT) := by
  show execEvacLockstepCompare equal s = _
  unfold execEvacLockstepCompare
  rw [at7, runs]
  rfl

theorem evacSwitch_ends {s : State} (at7 : s.evacAt 7 = true) :
    let t := s.evacSwitch
    t.sv.op = 0 ∧ t.sv.step = 0 ∧ t.sv.held = 0 ∧ t.is SV_STAT_BUSY = false ∧ t.rd SV_STAT_RESULT = sOK ∧ t.rd SV_STAT_LAST_OP = s.sv.op ∧
      t.is SV_EVT_DONE = true ∧ t.is SV_INUSE_SLICE4 = (s.sv.op == opEVACUATE) := by
  intro t
  obtain ⟨op, -⟩ := (evacAt_iff s 7).1 at7
  have small : s.sv.op < 2 ^ 4 := by
    cases op with
    | inl h => simp [h, opEVACUATE]
    | inr h => simp [h, opRETURN]
  let m := s.moveSlice s.sv.arg s.evacFrom s.evacTo
  let u := if m.sv.op = opEVACUATE then (m.raise SV_INUSE_SLICE4).wr SV_INUSE_SLICE4_PORT s.sv.arg
    else (m.wr SV_INUSE_SLICE4 0).wr SV_INUSE_SLICE4_PORT 0
  have usv : u.sv = s.sv := by
    show (if _ then _ else _ : State).sv = _
    split <;> rfl
  have parts : Keeps (· ∈ [Part.chs]) (u.svEnd sOK) t := evacControl_keeps ..
  have flds : t.flds = (u.svEnd sOK).flds := parts.1 .regs (by decide)
  have sv : t.sv = (u.svEnd sOK).sv := parts.1 .sv (by decide)
  have rd (f : Fld) : t.rd f = (u.svEnd sOK).rd f := rd_congr flds f
  rw [State.is, State.is, State.is, rd, rd, rd, rd, rd, sv]
  refine ⟨rfl, rfl, rfl, svEnd_busy .., svEnd_result .., ?_, svEnd_done .., ?_⟩
  · rw [svEnd_lastOp, usv]
    exact Nat.mod_eq_of_lt small
  · rw [rd_kept (kept_svEnd _ _) _ (by decide)]
    show (if m.sv.op = opEVACUATE then _ else _ : State).is SV_INUSE_SLICE4 = (m.sv.op == opEVACUATE)
    split
    case isTrue h => rw [is_wr_ne (by decide), h]; exact is_raise
    case isFalse h => rw [is_wr_ne (by decide), beq_false_of_ne h]; exact is_wr_zero

/-- Settles O57: each step is its own branch of the command; the drop of the frames still staged changes neither the operation nor the time. -/
theorem evacuationSteps : Obligations.EvacuationSteps := by
  refine ⟨?copyDone, fun s => evacCopyDone_forced, ?rxWaits, fun s => evacRxReady_ready, fun s => evacRxSwitch_runs, ?drained, ?staged,
    fun s => evacDrainTimeout_at, ?equal, ?unequal, ?other, ?rxStands, ?lockstepStands⟩
  case copyDone =>
    intro s at2 plain
    show execEvacCopyDone s = _
    unfold execEvacCopyDone
    rw [at2, plain]
    rfl
  case rxWaits =>
    intro s at3 waits
    show execEvacRxReady s = _
    unfold execEvacRxReady
    rcases waits with h | h <;> simp [h]
  case drained =>
    intro s at6 none
    show execEvacDrainDone s = _
    unfold execEvacDrainDone
    rw [at6, none]
    rfl
  case staged =>
    intro s at6 some
    show execEvacDrainDone s = _
    unfold execEvacDrainDone
    rw [at6, some]
    rfl
  case equal =>
    intro s at7 runs
    have run := exec_evacLockstepCompare at7 runs true
    rw [if_pos rfl] at run
    exact ⟨_, run, evacSwitch_ends at7⟩
  case unequal =>
    intro s at7 runs
    have run := exec_evacLockstepCompare at7 runs false
    rw [if_neg Bool.false_ne_true] at run
    exact ⟨_, run, rfl, rd_bump_same .., kept_bump s _⟩
  case other =>
    intro s b evacuate return_ c hc
    have off (n : Nat) : s.evacAt n = false := evacAt_other n evacuate return_
    simp only [List.mem_cons, List.not_mem_nil, or_false] at hc
    rcases hc with rfl | rfl | rfl | rfl | rfl | rfl
    · show execEvacCopyDone s = _
      simp [execEvacCopyDone, off]
    · show execEvacRxReady s = _
      simp [execEvacRxReady, off]
    · show execEvacRxSwitch s = _
      simp [execEvacRxSwitch, off]
    · show execEvacDrainDone s = _
      simp [execEvacDrainDone, off]
    · show execEvacDrainTimeout s = _
      simp [execEvacDrainTimeout, off]
    · show execEvacLockstepCompare b s = _
      simp [execEvacLockstepCompare, off]
  case rxStands =>
    intro s at5 stands
    show execEvacRxSwitch s = _
    simp [execEvacRxSwitch, stands]
  case lockstepStands =>
    intro b s at7 stands
    show execEvacLockstepCompare b s = _
    simp [execEvacLockstepCompare, stands]

end Sys2Proof.Proofs
end

section
/-! PROOFS. The switches of a spare (R437 to R441). -/

namespace Sys2Proof.Proofs

open Sys2Proof.Machine Sys2Proof.Laws

set_option Elab.async false

/-! ## The issue of what waits changes the fabric alone -/

section
variable (s : State)

theorem pump_sv : s.pump.sv = s.sv := rfl
theorem pump_rd (f : Fld) : s.pump.rd f = s.rd f := rfl
theorem pump_is (f : Fld) : s.pump.is f = s.is f := rfl
theorem pump_up : s.pump.fab.up = s.fab.up := (sameAsks_pump s).up
theorem pump_held : s.pump.fab.held = s.fab.held := (sameAsks_pump s).held

end

/-- A port that goes down is not up. -/
theorem down_up (f : FabSt) (a : Nat) : (f.down (· == a)).up.getLsbD a = false := by
  by_cases small : a < 16
  · have mask : ((List.range 16).foldl (fun n x => n + (if (x == a) = true then 2 ^ x else 0)) 0) = 2 ^ a := by
      interval_cases a <;> rfl
    have : (f.down (· == a)).up = f.up &&& ~~~(BitVec.ofNat 16 (2 ^ a)) := by rw [← mask]; rfl
    rw [this, BitVec.getLsbD_and, BitVec.getLsbD_not, BitVec.getLsbD_ofNat, Nat.testBit_two_pow_self]
    simp [small]
  · exact BitVec.getLsbD_of_ge _ _ (by omega)

theorem raisePort_up (f : FabSt) {x : Nat} (h : x < 8) (pw rq nt : Nat) : (f.raisePort x pw rq nt).up.getLsbD x = true := by
  show (f.up ||| (1#16 <<< x)).getLsbD x = true
  have : x < 16 := by omega
  simp [this]

/-! ## Fabric ports (R438) -/

/-- The requests of port `a` go to port `b`. -/
def movedTo (a b : Nat) (r : Req) : Req := if r.x = a then { r with x := b } else r

/-- The position has moved from port `a` to port `b`, and the move is at its end. -/
def fabMoved (s : State) (spare : Bool) (a b f : Nat) (fab : FabSt) : State :=
  ((({ s with fab := { fab with reqs := fab.reqs.map (movedTo a b) } } : State).put SV_INUSE_FAB spare).wr SV_INUSE_FAB_FOR
    (if spare then f else 0)).svEnd sOK

theorem exec_fabSpareSwitch_spare {s : State} (op : s.sv.op = opFAB_SPARE)
    (quiet : s.fab.reqs.all (fun r => r.x != s.sv.arg || r.tag.isNone) = true) :
    exec .fabSpareSwitch s = .next (fabMoved s true s.sv.arg 8 s.sv.arg (s.fab.down (· == s.sv.arg))).pump := by
  have from_ : s.fabFrom = s.sv.arg := if_pos op
  have to_ : s.fabTo = 8 := if_pos op
  show execFabSpareSwitch s = _
  unfold execFabSpareSwitch
  rw [if_pos ⟨.inl op, by rwa [from_]⟩, from_, to_, op]
  rfl

theorem exec_fabSpareSwitch_restore {s : State} (op : s.sv.op = opFAB_RESTORE)
    (quiet : s.fab.reqs.all (fun r => r.x != 8 || r.tag.isNone) = true) :
    exec .fabSpareSwitch s = .next (fabMoved s false 8 s.sv.arg s.sv.arg (s.fabRaise s.sv.arg).fab).pump := by
  have other : ¬ s.sv.op = opFAB_SPARE := by rw [op]; decide
  have from_ : s.fabFrom = 8 := if_neg other
  have to_ : s.fabTo = s.sv.arg := if_neg other
  show execFabSpareSwitch s = _
  unfold execFabSpareSwitch
  rw [if_pos ⟨.inr op, by rwa [from_]⟩, from_, to_, op]
  rfl

section
variable (s : State) (spare : Bool) (a b f : Nat) (fab : FabSt)

theorem fabMoved_inUse : (fabMoved s spare a b f fab).is SV_INUSE_FAB = spare := by
  unfold fabMoved
  rw [State.is, rd_kept (kept_svEnd _ _) _ (by decide)]
  exact (is_wr_ne (by decide)).trans is_put

theorem fabMoved_for : (fabMoved s spare a b f fab).rd SV_INUSE_FAB_FOR = (if spare then f else 0) % 2 ^ SV_INUSE_FAB_FOR.w := by
  unfold fabMoved
  rw [rd_kept (kept_svEnd _ _) _ (by decide)]
  exact rd_wr_same ..

theorem fabMoved_result : (fabMoved s spare a b f fab).rd SV_STAT_RESULT = sOK := svEnd_result ..

theorem fabMoved_done : (fabMoved s spare a b f fab).is SV_EVT_DONE = true := svEnd_done ..

theorem fabMoved_reqs : (fabMoved s spare a b f fab).fab.reqs = fab.reqs.map (movedTo a b) := rfl

end

/-- A request of a fabric port stands after the move, at the same port or at the spare. -/
theorem fabMoved_asks {s : State} {r : Req} (hr : r ∈ s.fab.reqs) (port : r.x < 9) (a f : Nat) (p : Nat → Bool) :
    (fabMoved s true a 8 f (s.fab.down p)).pump.asks r.kind r.a r.b r.addr r.data r.rlen = true := by
  have asked : Asked (fabMoved s true a 8 f (s.fab.down p)) (movedTo a 8 r) :=
    asked_of_mem (by rw [fabMoved_reqs]; exact List.mem_map_of_mem hr)
  have stays : Stays (fabMoved s true a 8 f (s.fab.down p)).fab (movedTo a 8 r) := .inl (by unfold movedTo; split <;> simp [port])
  have := (asked.pump stays).asks
  unfold movedTo at this
  split at this <;> exact this

theorem fabMoved_leaves {s : State} {a : Nat} (ha : a ≠ 8) (f : Nat) (fab : FabSt) : ∀ r ∈ (fabMoved s true a 8 f fab).pump.fab.reqs, r.x ≠ a := by
  intro r hr
  obtain ⟨q, hq, e⟩ := mem_pump hr
  rw [fabMoved_reqs] at hq
  obtain ⟨o, -, rfl⟩ := List.mem_map.1 hq
  rw [← askOf_x e, movedTo]
  split
  · exact fun h => ha h.symm
  · assumption

/-! ## Table channels (R439) -/

theorem tblEnd_spare {s : State} (op : s.sv.op = opTBL_SPARE) (small : s.sv.arg < 6)
    (quiet : s.fab.reqs.any (fun r => r.x == 9 + s.sv.arg && r.tag.isSome) = false) :
    s.tblEnd.sv.op = 0 ∧ s.tblEnd.is SV_INUSE_TBL = true ∧ s.tblEnd.rd SV_INUSE_TBL_FOR = s.sv.arg ∧ s.tblEnd.rd SV_STAT_RESULT = sOK ∧
      s.tblEnd.is SV_EVT_DONE = true ∧ s.tblEnd.fab.up.getLsbD (9 + s.sv.arg) = false := by
  have from_ : s.tblFrom = s.sv.arg := if_pos op
  have e : s.tblEnd = ((({ s with fab := s.fab.down (· == 9 + s.sv.arg) } : State).put SV_INUSE_TBL true).wr SV_INUSE_TBL_FOR s.sv.arg).svEnd sOK := by
    unfold State.tblEnd
    dsimp only
    rw [from_, quiet, op]
    rfl
  rw [e]
  refine ⟨rfl, ?_, ?_, svEnd_result .., svEnd_done .., down_up ..⟩
  · rw [State.is, rd_kept (kept_svEnd _ _) _ (by decide)]
    exact (is_wr_ne (by decide)).trans is_put
  · rw [rd_kept (kept_svEnd _ _) _ (by decide), rd_wr_same]
    exact Nat.mod_eq_of_lt (show _ < 2 ^ 3 by omega)

/-- Once the requests not yet begun have moved, none is left on the channel. -/
theorem tblRemap_quiet {s : State} {a b : Nat} (hab : a ≠ b) (quiet : s.fab.reqs.all (fun r => r.x != 9 + a || r.tag.isNone) = true) :
    (s.tblRemap a b).pump.fab.reqs.any (fun r => r.x == 9 + a && r.tag.isSome) = false := by
  rw [List.any_eq_false]
  intro r hr
  obtain ⟨q, hq, e⟩ := mem_pump hr
  obtain ⟨o, ho, rfl⟩ := List.mem_map.1 hq
  have free := List.all_eq_true.1 quiet o ho
  rw [← askOf_x e]
  split
  · simp [hab.symm]
  next h =>
    have : ¬ o.x = 9 + a := fun hx => h ⟨hx, by simpa [hx] using free⟩
    simp [this]

theorem exec_tblSpareSwitch_spare {s : State} (op : s.sv.op = opTBL_SPARE) :
    exec .tblSpareSwitch s = .next (if s.sv.step = 2 then s.tblEnd else if s.rd SV_COPY_BUCKETS = s.copyTotal s.sv.arg then s.tblMove else s) := by
  show execTblSpareSwitch s = _
  unfold execTblSpareSwitch
  rw [if_neg (by simp [op])]

theorem tblSpareSwitch_spare {s : State} (op : s.sv.op = opTBL_SPARE) (small : s.sv.arg < 6)
    (ends : s.sv.step = 2 ∨ s.rd SV_COPY_BUCKETS = s.copyTotal s.sv.arg)
    (quiet : s.fab.reqs.all (fun r => r.x != 9 + s.sv.arg || r.tag.isNone) = true) :
    ∃ t, exec .tblSpareSwitch s = .next t ∧ t.sv.op = 0 ∧ t.is SV_INUSE_TBL = true ∧ t.rd SV_INUSE_TBL_FOR = s.sv.arg ∧
      t.rd SV_STAT_RESULT = sOK ∧ t.is SV_EVT_DONE = true ∧ t.fab.up.getLsbD (9 + s.sv.arg) = false := by
  refine ⟨_, exec_tblSpareSwitch_spare op, ?_⟩
  split
  case isTrue step =>
    refine tblEnd_spare op small (List.any_eq_false.2 fun r hr => ?_)
    have free := List.all_eq_true.1 quiet r hr
    by_cases hx : r.x = 9 + s.sv.arg <;> simp_all
  case isFalse step =>
    rw [if_pos (ends.resolve_left step)]
    have from_ : s.tblFrom = s.sv.arg := if_pos op
    have to_ : s.copyTo s.sv.arg = 6 := if_pos op
    have move : s.tblMove = ((s.svStep 2).tblRemap s.sv.arg 6).pump.tblEnd := by
      unfold State.tblMove
      rw [from_, to_]
    rw [move]
    exact tblEnd_spare (s := ((s.svStep 2).tblRemap s.sv.arg 6).pump) op small (tblRemap_quiet (s := s.svStep 2) (by omega) quiet)

/-! ## Rows and slice tests -/

/-- The cells of row `r` map to the spare row, and its repair has ended. -/
def rowRepaired (s : State) (r : Nat) : State :=
  let s := (({ s with sv := { s.sv with row := none } } : State).wr (SV_ROW_STAT_FOR (r / 32)) (r % 32)).raise (SV_ROW_STAT_USED (r / 32))
  let s := ((s.wr SV_STAT_ROW_BUSY 0).wr SV_STAT_RESULT sOK).wr SV_STAT_LAST_OP opROW_REPAIR
  (s.raise SV_EVT_ROW_DONE).raise SV_EVT_DONE

theorem exec_rowRepairSwitch {s : State} {r : Nat} (row : s.sv.row = some r) : exec .rowRepairSwitch s = .next (rowRepaired s r) := by
  show execRowRepairSwitch s = _
  unfold execRowRepairSwitch
  rw [row]
  rfl

theorem rowRepaired_registers (s : State) (r : Nat) :
    let t := rowRepaired s r
    t.rd (SV_ROW_STAT_FOR (r / 32)) = r % 32 ∧ t.is (SV_ROW_STAT_USED (r / 32)) = true ∧ t.is SV_STAT_ROW_BUSY = false ∧
    t.rd SV_STAT_RESULT = sOK ∧ t.rd SV_STAT_LAST_OP = 7 ∧ t.is SV_EVT_ROW_DONE = true ∧ t.is SV_EVT_DONE = true := by
  unfold rowRepaired
  simp only [SV_ROW_STAT_FOR, SV_ROW_STAT_USED, SV_STAT_ROW_BUSY, SV_STAT_RESULT, SV_STAT_LAST_OP, SV_EVT_ROW_DONE, SV_EVT_DONE, raise_eq, State.is,
    rd_wr, Fld.key, opROW_REPAIR, sOK]
  refine ⟨?_, ?_, ?_, ?_, ?_, ?_, ?_⟩
  · repeat rw [if_neg (by omega)]
    rw [if_pos trivial]
    omega
  · repeat rw [if_neg (by omega)]
    rw [if_pos trivial]
    rfl
  · repeat rw [if_neg (by omega)]
    rw [if_pos trivial]
    rfl
  · repeat rw [if_neg (by omega)]
    rw [if_pos trivial]
    rfl
  · repeat rw [if_neg (by omega)]
    rw [if_pos trivial]
    rfl
  · repeat rw [if_neg (by omega)]
    rw [if_pos trivial]
    rfl
  · rw [if_pos trivial]
    rfl

theorem islandRuns_advanceTo (s : State) (k i : Nat) : (s.advanceTo k).islandRuns i = s.islandRuns i := by
  obtain ⟨l, tm, e, -, kept⟩ := advanceTo_eq s k
  unfold State.islandRuns
  have sys : (s.advanceTo k).sys = s.sys := by rw [e]
  by_cases h : 8 ≤ i
  · simp [sys, h]
  · have stopped : (s.advanceTo k).is (NY_CLK_STOPPED i) = s.is (NY_CLK_STOPPED i) :=
      congrArg (· == 1) (rd_kept kept _ (by interval_cases i <;> decide))
    have off : (s.advanceTo k).is (NY_CLK_OFF i) = s.is (NY_CLK_OFF i) := congrArg (· == 1) (rd_kept kept _ (by interval_cases i <;> decide))
    rw [sys, stopped, off]

theorem clearedBit (v : BitVec 5) (i : Nat) : (v &&& ~~~(1#5 <<< i)).getLsbD i = false := by
  by_cases h : i < 5
  · simp [h]
  · exact BitVec.getLsbD_of_ge _ _ (by omega)

/-- Settles O58: each switch ends its operation once its condition holds. -/
theorem sparesSwitch : Obligations.SparesSwitch := by
  refine ⟨?spare, ?restore, ?other, fun s => tblSpareSwitch_spare, ?tblOther, fun r s row => ⟨_, exec_rowRepairSwitch row, rfl, rowRepaired_registers s r⟩, ?noRow, ?test, ?noTest⟩
  case spare =>
    intro s op quiet
    refine ⟨_, exec_fabSpareSwitch_spare op quiet, ?_⟩
    rw [pump_sv, pump_held, pump_is, pump_is, pump_rd, pump_rd, pump_up]
    exact ⟨rfl, rfl, fabMoved_inUse .., fabMoved_for .., fabMoved_result .., fabMoved_done .., down_up ..,
      fun r hr port => fabMoved_asks hr port _ _ _, fun h => fabMoved_leaves h _ _⟩
  case restore =>
    intro s op quiet
    refine ⟨_, exec_fabSpareSwitch_restore op quiet, ?_⟩
    rw [pump_sv, pump_held, pump_is, pump_is, pump_rd, pump_rd, pump_up]
    exact ⟨rfl, rfl, fabMoved_inUse .., fabMoved_for .., fabMoved_result .., fabMoved_done .., fun small => raisePort_up _ small ..⟩
  case other =>
    intro s spare restore
    show execFabSpareSwitch s = _
    unfold execFabSpareSwitch
    rw [if_neg (by simp [spare, restore])]
  case tblOther =>
    intro s h
    show execTblSpareSwitch s = _
    unfold execTblSpareSwitch
    rcases h with h | ⟨step, copy⟩
    · rw [if_pos h]
    · rw [if_neg step, if_neg copy, ite_self]
  case noRow =>
    intro s h
    show execRowRepairSwitch s = _
    unfold execRowRepairSwitch
    rw [h]
  case noTest =>
    intro ok s h
    show execSliceTestDone ok s = _
    unfold execSliceTestDone
    rw [if_pos h]
  case test =>
    intro ok s op
    let u := s.advanceTo (s.sv.since + usTicks 100)
    obtain ⟨l, tm, e, tick, -⟩ := advanceTo_eq s (s.sv.since + usTicks 100)
    have usv : u.sv = s.sv := by show (s.advanceTo _).sv = _; rw [e]
    have utick : u.tm.tick = max s.tm.tick (s.sv.since + 160000) := by show (s.advanceTo _).tm.tick = _; rw [e]; exact tick
    have run : exec (.sliceTestDone ok) s = .next (if ok && u.islandRuns u.sv.arg && !u.sv.spoilt then
        ({ u with sv := { u.sv with tested := u.sv.tested ||| (1#5 <<< u.sv.arg) }
                  sys := { u.sys with sliceOut := u.sys.sliceOut &&& ~~~(1#5 <<< u.sv.arg) } } : State).svEnd sOK
      else ({ u with sv := { u.sv with tested := u.sv.tested &&& ~~~(1#5 <<< u.sv.arg) } } : State).svEnd sFAULT) := by
      show execSliceTestDone ok s = _
      unfold execSliceTestDone
      rw [if_neg (by simp [op])]
    refine ⟨_, run, ?_⟩
    have runs : u.islandRuns s.sv.arg = s.islandRuns s.sv.arg := islandRuns_advanceTo ..
    clear_value u
    rw [usv, runs]
    by_cases good : ok = true ∧ s.islandRuns s.sv.arg = true ∧ s.sv.spoilt = false
    · have cond : (ok && s.islandRuns s.sv.arg && !s.sv.spoilt) = true := by simp [good]
      rw [if_pos good, if_pos cond]
      refine ⟨rfl, svEnd_done .., utick, svEnd_result .., fun small => ⟨?_, clearedBit ..⟩⟩
      show (s.sv.tested ||| (1#5 <<< s.sv.arg)).getLsbD s.sv.arg = true
      simp [small]
    · have cond : ¬ (ok && s.islandRuns s.sv.arg && !s.sv.spoilt) = true := by simpa [and_assoc] using good
      rw [if_neg good, if_neg cond]
      exact ⟨rfl, svEnd_done .., utick, svEnd_result .., clearedBit ..⟩

end Sys2Proof.Proofs
end

section
/-! PROOFS. How a command of the ring starts and ends (R249 to R256): what its start leaves alone, and the completion entry its end writes. -/

namespace Sys2Proof.Proofs

open Sys2Proof.Machine Sys2Proof.Laws

set_option Elab.async false

/-! ## The ring's settings -/

/-- The settings by which the ring completes a command, and its completion index, are the same. -/
structure RingKept (s u : State) : Prop where
  cpi : u.ring.cpi = s.ring.cpi
  en : u.rd HR_CMD_CFG_EN = s.rd HR_CMD_CFG_EN
  log2 : u.rd HR_CMD_CFG_LOG2 = s.rd HR_CMD_CFG_LOG2
  lo : u.rd HR_CMDC_BASE_LO_ADDR_LO = s.rd HR_CMDC_BASE_LO_ADDR_LO
  hi : u.rd HR_CMDC_BASE_HI_ADDR_HI = s.rd HR_CMDC_BASE_HI_ADDR_HI

/-- The registers of those settings. -/
def ringSettings : List Fld := [HR_CMD_CFG_EN, HR_CMD_CFG_LOG2, HR_CMDC_BASE_LO_ADDR_LO, HR_CMDC_BASE_HI_ADDR_HI]

theorem RingKept.refl (s : State) : RingKept s s := ⟨rfl, rfl, rfl, rfl, rfl⟩

theorem RingKept.trans {a b c : State} (h : RingKept a b) (g : RingKept b c) : RingKept a c :=
  ⟨g.cpi.trans h.cpi, g.en.trans h.en, g.log2.trans h.log2, g.lo.trans h.lo, g.hi.trans h.hi⟩

/-- Whatever changes no setting's register and not the completion index. -/
theorem RingKept.of_kept {s u : State} {fs : List Fld} (kept : Kept fs s u) (cpi : u.ring.cpi = s.ring.cpi)
    (off : ∀ f ∈ ringSettings, f.key ∉ fs.map Fld.key) : RingKept s u :=
  have rd (f : Fld) (hf : f ∈ ringSettings) : u.rd f = s.rd f := rd_kept kept f (off f hf)
  ⟨cpi, rd _ (by decide), rd _ (by decide), rd _ (by decide), rd _ (by decide)⟩

theorem RingKept.is_en {s u : State} (h : RingKept s u) : u.is HR_CMD_CFG_EN = s.is HR_CMD_CFG_EN := by rw [State.is, h.en, State.is]

theorem RingKept.cmdLog2_eq {s u : State} (h : RingKept s u) : u.cmdLog2 = s.cmdLog2 := by rw [State.cmdLog2, h.log2, State.cmdLog2]

theorem RingKept.cmdcBase_eq {s u : State} (h : RingKept s u) : u.cmdcBase = s.cmdcBase := by rw [State.cmdcBase, h.lo, h.hi, State.cmdcBase]

/-! ## Requests stay while commands come and go -/

section
variable {s : State} {k : ReqKind} {a b addr n : Nat} {data : List Byte}

theorem HostAsked.cmdWrite (h : HostAsked s k a b addr data n) (id : Nat) (c : CmdSt) (st res : Nat) :
    HostAsked (s.cmdWrite id c st res) k a b addr data n := by
  unfold State.cmdWrite
  have counted : HostAsked (if st = sSTATE then s.countState c.ctx else s) k a b addr data n := by
    split
    · exact h.congr rfl
    · exact h
  extract_lets u
  split
  · apply HostAsked.hostWrite
    exact counted.congr rfl
  · exact counted

theorem HostAsked.cmdFetch (h : HostAsked s k a b addr data n) : HostAsked s.cmdFetch k a b addr data n := by
  unfold State.cmdFetch
  extract_lets i
  split
  · apply HostAsked.hostRead
    exact h.congr rfl
  · exact h

theorem HostAsked.cmdTake (h : HostAsked s k a b addr data n) : HostAsked s.cmdTake k a b addr data n :=
  HostAsked.cmdFetch (h.congr rfl)

theorem HostAsked.cmdUnknown (h : HostAsked s k a b addr data n) : HostAsked s.cmdUnknown k a b addr data n := by
  unfold State.cmdUnknown
  split
  · split
    · exact h
    · exact h.cmdTake.cmdWrite ..
  · exact h

theorem HostAsked.cmdDone (h : HostAsked s k a b addr data n) (id st res : Nat) : HostAsked (s.cmdDone id st res) k a b addr data n := by
  unfold State.cmdDone
  split
  · exact h
  · apply HostAsked.cmdUnknown
    apply HostAsked.cmdWrite
    exact h.congr rfl

end

/-! ## A command starts -/

/-- The parts of the state that a command's start and end may change. -/
def ringParts (p : Part) : Prop := p ∈ [Part.fab, .regs, .ring]

/-- The registers that show a command's start. -/
def startFields : List Fld := [HR_CMD_STAT_ACTIVE, HR_CMD_STAT_CI]

theorem cmdFetch_flds (s : State) : s.cmdFetch.flds = s.flds := by
  unfold State.cmdFetch
  extract_lets i
  split <;> rfl

theorem cmdFetch_ring (s : State) : s.cmdFetch.ring = { s.ring with reading := s.cmdFetch.ring.reading } := by
  unfold State.cmdFetch
  extract_lets i
  split <;> rfl

theorem cmdTake_flds (s : State) : s.cmdTake.flds = (s.wr HR_CMD_STAT_CI (nextIdx s.cmdLog2 (s.rd HR_CMD_STAT_CI))).flds := cmdFetch_flds _

theorem cmdTake_ring (s : State) : s.cmdTake.ring = { s.ring with heads := s.ring.heads.drop 1, reading := s.cmdTake.ring.reading } := by
  rw [State.cmdTake, cmdFetch_ring]
  rfl

/-- The state in which the command of entry `e`, which was read next, has started. -/
@[irreducible] def begun (s : State) (e : List Byte) : State :=
  ({ s with ring := { s.ring with active := optSet s.ring.active s.ring.nextId (cmdOf e), nextId := s.ring.nextId + 1 } } : State).refreshActive.cmdTake

theorem begun_eq (s : State) (e : List Byte) : begun s e =
    ({ s with ring := { s.ring with active := optSet s.ring.active s.ring.nextId (cmdOf e), nextId := s.ring.nextId + 1 } } :
      State).refreshActive.cmdTake := by
  unfold begun
  rfl

theorem cmdStart_eq {s : State} {e : List Byte} {r : List (List Byte)} {op : Nat} (heads : s.ring.heads = e :: r) (start : s.cmdMayStart e = true)
    (runs : s.islandRuns 5 = true) (hop : byteAt e 0 = op) : s.cmdStart op = some (s.ring.nextId, cmdOf e, begun s e) := by
  unfold State.cmdStart
  rw [heads, begun_eq]
  simp [hop, start, runs]

section
variable (s : State) (e : List Byte)

theorem begun_parts : Keeps ringParts s (begun s e) := by
  have ring : Keeps ringParts s
      { s with ring := { s.ring with active := optSet s.ring.active s.ring.nextId (cmdOf e), nextId := s.ring.nextId + 1 } } := by
    refine ⟨fun p hp => ?_, id, rfl, le_rfl, le_rfl⟩
    cases p
    case ring => exact absurd (by simp [ringParts]) hp
    all_goals rfl
  rw [begun_eq]
  apply +allowSynthFailures keeps_cmdTake
  case hk =>
    apply +allowSynthFailures keeps_refreshActive
    case hk => exact ring
    all_goals exact ⟨by simp [ringParts]⟩
  all_goals exact ⟨by simp [ringParts]⟩

theorem kept_begun : Kept startFields s (begun s e) := by
  rw [begun_eq]
  exact kept_flds (cmdTake_flds _) (kept_wr _ _ (by decide) (kept_wr _ _ (by decide) (kept_flds rfl (kept_refl s))))

theorem begun_ring : RingKept s (begun s e) :=
  .of_kept (kept_begun s e) (by rw [begun_eq, cmdTake_ring]; rfl) (by decide)

theorem begun_active : optGet (begun s e).ring.active s.ring.nextId = some (cmdOf e) := by
  rw [begun_eq, cmdTake_ring]
  exact (optGet_set ..).trans (if_pos rfl)

theorem begun_rd {f : Fld} (h : f.key ∉ startFields.map Fld.key) : (begun s e).rd f = s.rd f := rd_kept (kept_begun s e) f h

theorem begun_ctxs : (begun s e).ctxs = s.ctxs := (begun_parts s e).1 .ctxs (by simp [ringParts])
theorem begun_qs : (begun s e).qs = s.qs := (begun_parts s e).1 .qs (by simp [ringParts])
theorem begun_shaps : (begun s e).shaps = s.shaps := (begun_parts s e).1 .shaps (by simp [ringParts])
theorem begun_sys : (begun s e).sys = s.sys := (begun_parts s e).1 .sys (by simp [ringParts])
theorem begun_tm : (begun s e).tm = s.tm := (begun_parts s e).1 .tm (by simp [ringParts])
theorem begun_ctx (x : Nat) : (begun s e).ctx x = s.ctx x := by rw [State.ctx, begun_ctxs, State.ctx]
theorem begun_q (k : Nat) : (begun s e).q k = s.q k := by rw [State.q, begun_qs, State.q]
theorem begun_poolQ (x i : Nat) (rx : Bool) : (begun s e).poolQ x i rx = s.poolQ x i rx := by rw [State.poolQ, begun_ctx, State.poolQ]

end

/-! ## What a command waits for -/

/-- Issuing requests changes nothing of what is waited for. -/
theorem pump_awaitsFor (s : State) (k : ReqKind) (a : Nat) : s.pump.awaitsFor k a = s.awaitsFor k a := by
  have asks (l : List Req) : l.any (fun r => r.kind == k && r.a == a) = (l.map askOf).any (fun r => r.kind == k && r.a == a) := by
    rw [List.any_map]
    rfl
  have issue : s.pump.awaitsFor k a = ({ s with fab := s.fab.withdraw } : State).awaitsFor k a := by
    unfold State.awaitsFor
    rw [asks s.pump.fab.reqs, (sameAsks_pump s).reqs, ← asks, (sameAsks_pump s).done]
  rw [issue, Bool.eq_iff_iff]
  simp only [State.awaitsFor, FabSt.withdraw, Bool.or_eq_true, List.any_eq_true, List.mem_filter, List.mem_append, List.mem_map]
  constructor
  · rintro (⟨r, ⟨hr, -⟩, h⟩ | ⟨d, hd | ⟨r, ⟨hr, -⟩, rfl⟩, h⟩)
    · exact .inl ⟨r, hr, h⟩
    · exact .inr ⟨d, hd, h⟩
    · exact .inl ⟨r, hr, h⟩
  · rintro (⟨r, hr, h⟩ | ⟨d, hd, h⟩)
    · by_cases out : (decide (9 ≤ r.x) && r.tag.isNone && !s.fab.issues r.x) = true
      · exact .inr ⟨r.unissued, .inr ⟨r, ⟨hr, out⟩, rfl⟩, h⟩
      · exact .inl ⟨r, ⟨hr, by simp only [Bool.not_eq_true] at out; rw [out]; rfl⟩, h⟩
    · exact .inr ⟨d, .inl hd, h⟩

theorem send_awaitsFor (s : State) {k k' : ReqKind} (h : k' ≠ k) (a a' b' x' vc' addr' : Nat) (data' : List Byte) (n' : Nat) :
    (s.send k' a' b' x' vc' addr' data' n').awaitsFor k a = s.awaitsFor k a := by
  unfold State.send
  extract_lets n r
  rw [pump_awaitsFor]
  have : (r.kind == k) = false := beq_false_of_ne h
  unfold State.awaitsFor
  rw [List.any_append, List.any_cons, this]
  simp only [Bool.false_and, List.any_nil, Bool.or_false]
  rfl

theorem begun_awaitsFor (s : State) (e : List Byte) {k : ReqKind} (h : ReqKind.cmdRead ≠ k) (a : Nat) : (begun s e).awaitsFor k a = s.awaitsFor k a := by
  rw [begun_eq]
  unfold State.cmdTake State.cmdFetch
  extract_lets i
  split
  · exact send_awaitsFor _ h ..
  · rfl

theorem begun_heads {s : State} {e : List Byte} (heads : s.ring.heads = [e]) : (begun s e).ring.heads = [] := by
  rw [begun_eq, cmdTake_ring]
  show s.ring.heads.drop 1 = []
  rw [heads]
  rfl

/-- A command whose entry waits, may start and names the operation runs. -/
theorem runCmd_eq {s : State} {e : List Byte} {r : List (List Byte)} {op : Nat} (heads : s.ring.heads = e :: r) (start : s.cmdMayStart e = true)
    (runs : s.islandRuns 5 = true) (hop : byteAt e 0 = op) {l : List (Nat × Nat × Nat)} (form : (cmdOf e).formOk l = true)
    {p : CmdSt → State → Bool} (hp : p (cmdOf e) (begun s e) = true) (f : Nat → CmdSt → State → State) :
    s.runCmd op l p f = f s.ring.nextId (cmdOf e) (begun s e) := by
  unfold State.runCmd
  rw [cmdStart_eq heads start runs hop]
  simp [form, hp]

theorem legal_pass {s : State} {id : Nat} {p : Bool} (hp : p = true) (f : State → State) : s.legal id p f = f s := if_pos hp

theorem legal_fail {s : State} {id : Nat} {c : CmdSt} {p : Bool} (active : optGet s.ring.active id = some c) (hp : p = false) (f : State → State) :
    s.legal id p f = s.cmdDone id sSTATE (c.refused s) := by
  unfold State.legal
  rw [hp, active]
  rfl

/-! ## A command ends -/

/-- The completion entry of command `c` stands at the fabric, for the slot where the ring's next one goes in `s`. -/
def Ends (s t : State) (id : Nat) (c : CmdSt) (st res : Nat) : Prop :=
  ∃ r ∈ t.fab.reqs, r.kind = .cmdCmpl ∧ r.a = id ∧ r.addr = slotAddr s.cmdcBase s.cmdLog2 s.ring.cpi 32 ∧
    r.data = cmplEntry c st res (phase s.cmdLog2 s.ring.cpi)

theorem HostAsked.ends {s t : State} {id : Nat} {c : CmdSt} {st res b : Nat}
    (h : HostAsked t .cmdCmpl id b (slotAddr s.cmdcBase s.cmdLog2 s.ring.cpi 32) (cmplEntry c st res (phase s.cmdLog2 s.ring.cpi)) 0) :
    Ends s t id c st res := by
  obtain ⟨r, hr, kind, a, -, addr, data, -⟩ := h.mem
  exact ⟨r, hr, kind, a, addr, data⟩

theorem cmdWrite_asked {s u : State} (ring : RingKept s u) (en : s.is HR_CMD_CFG_EN = true) (id : Nat) (c : CmdSt) (st res : Nat) :
    HostAsked (u.cmdWrite id c st res) .cmdCmpl id s.ring.cpi (slotAddr s.cmdcBase s.cmdLog2 s.ring.cpi 32)
      (cmplEntry c st res (phase s.cmdLog2 s.ring.cpi)) 0 := by
  unfold State.cmdWrite
  have counted : RingKept u (if st = sSTATE then u.countState c.ctx else u) := by
    split
    · refine .of_kept (kept_bump u (HR_CTX_CNT_STATE_CNT c.ctx)) rfl fun f hf => ?_
      simp only [ringSettings, List.mem_cons, List.not_mem_nil, or_false] at hf
      rcases hf with rfl | rfl | rfl | rfl <;> simp [Fld.key, HR_CTX_CNT_STATE_CNT, HR_CMD_CFG_EN, HR_CMD_CFG_LOG2, HR_CMDC_BASE_LO_ADDR_LO,
        HR_CMDC_BASE_HI_ADDR_HI] <;> omega
    · exact .refl u
  extract_lets v
  have same : RingKept s v := ring.trans counted
  rw [if_pos (same.is_en.trans en)]
  rw [← same.cmdcBase_eq, ← same.cmdLog2_eq, ← same.cpi]
  exact hostAsked_write ..

/-- An active command that completes while the ring is enabled leaves its entry. -/
theorem cmdDone_ends {s u : State} {id : Nat} {c : CmdSt} (ring : RingKept s u) (en : s.is HR_CMD_CFG_EN = true)
    (active : optGet u.ring.active id = some c) (st res : Nat) : Ends s (u.cmdDone id st res) id c st res := by
  unfold State.cmdDone
  rw [active]
  have refreshed : RingKept u (({ u with ring := { u.ring with active := mapErase id u.ring.active } } : State).refreshActive) :=
    .of_kept (fs := [HR_CMD_STAT_ACTIVE]) (kept_wr _ _ (by decide) (kept_flds rfl (kept_refl u))) rfl (by decide)
  exact (cmdWrite_asked (ring.trans refreshed) en id c st res).cmdUnknown.ends

theorem cmdDone_parts (u : State) (id st res : Nat) : Keeps ringParts u (u.cmdDone id st res) := by
  apply +allowSynthFailures keeps_cmdDone
  case hk => exact Keeps.refl u
  all_goals exact ⟨by simp [ringParts]⟩

section
variable (u : State) (id st res : Nat)

theorem cmdDone_ctxs : (u.cmdDone id st res).ctxs = u.ctxs := (cmdDone_parts u id st res).1 .ctxs (by simp [ringParts])
theorem cmdDone_qs : (u.cmdDone id st res).qs = u.qs := (cmdDone_parts u id st res).1 .qs (by simp [ringParts])
theorem cmdDone_tbl : (u.cmdDone id st res).tbl = u.tbl := (cmdDone_parts u id st res).1 .tbl (by simp [ringParts])
theorem cmdDone_ctx (x : Nat) : (u.cmdDone id st res).ctx x = u.ctx x := by rw [State.ctx, cmdDone_ctxs, State.ctx]
theorem cmdDone_q (k : Nat) : (u.cmdDone id st res).q k = u.q k := by rw [State.q, cmdDone_qs, State.q]

end

/-- The registers that a completion of status `st` for context `x` may change. -/
def doneFields (st x : Nat) : List Fld := startFields ++ if st = sSTATE then [HR_CTX_CNT_STATE_CNT x] else []

theorem kept_cmdWrite (u : State) (id : Nat) (c : CmdSt) (st res : Nat) : Kept (doneFields st c.ctx) u (u.cmdWrite id c st res) := by
  unfold State.cmdWrite
  have counted : Kept (doneFields st c.ctx) u (if st = sSTATE then u.countState c.ctx else u) := by
    split
    case isTrue h => exact kept_wr _ _ (by simp [doneFields, h]) (kept_refl u)
    case isFalse => exact kept_refl u
  extract_lets v
  split
  · exact kept_flds rfl counted
  · exact counted

theorem kept_cmdTake (u : State) : Kept startFields u u.cmdTake := kept_flds (cmdTake_flds u) (kept_wr _ _ (by decide) (kept_refl u))

theorem kept_cmdUnknown (u : State) : Kept startFields u u.cmdUnknown := by
  unfold State.cmdUnknown
  split
  · split
    · exact kept_refl u
    · exact kept_trans (kept_cmdTake u) (kept_cmdWrite _ _ _ sBADARG _)
  · exact kept_refl u

theorem kept_cmdDone {u : State} {id : Nat} {c : CmdSt} (active : optGet u.ring.active id = some c) (st res : Nat) :
    Kept (doneFields st c.ctx) u (u.cmdDone id st res) := by
  have start : startFields ⊆ doneFields st c.ctx := List.subset_append_left ..
  unfold State.cmdDone
  rw [active]
  have refreshed : Kept (doneFields st c.ctx) u (({ u with ring := { u.ring with active := mapErase id u.ring.active } } : State).refreshActive) :=
    kept_wr _ _ (start (by decide)) (kept_flds rfl (kept_refl u))
  exact kept_trans (kept_trans refreshed (kept_cmdWrite _ id c st res)) (kept_mono start (kept_cmdUnknown _))

end Sys2Proof.Proofs
end

section
/-! PROOFS. Dirty-page logging (R276, R277). -/

namespace Sys2Proof.Proofs

open Sys2Proof.Machine Sys2Proof.Laws

set_option Elab.async false

theorem ctx_setCtx_same (s : State) (x : Nat) (c : CtxSt) : (s.setCtx x c).ctx x = c := (mapGet_set ..).trans (if_pos rfl)

/-- A setting of the command ring is not among registers beyond the ring's. -/
theorem ringSettings_low {f : Fld} (h : f ∈ ringSettings) : f.key < 0x100018 * 32 := by
  simp only [ringSettings, List.mem_cons, List.not_mem_nil, or_false] at h
  rcases h with rfl | rfl | rfl | rfl <;> decide

/-- Whatever changes registers beyond the ring's and not the completion index. -/
theorem RingKept.of_kept_high {s u : State} {fs : List Fld} (kept : Kept fs s u) (cpi : u.ring.cpi = s.ring.cpi)
    (high : ∀ f ∈ fs, 0x100018 * 32 ≤ f.key) : RingKept s u :=
  .of_kept kept cpi fun f hf mem => by
    obtain ⟨g, hg, e⟩ := List.mem_map.1 mem
    have := ringSettings_low hf
    have := high g hg
    omega

section
variable {s : State} {e : List Byte} (heads : s.ring.heads = [e]) (start : s.cmdMayStart e = true) (runs : s.islandRuns 5 = true)
  (en : s.is HR_CMD_CFG_EN = true)

/-- The command just started ends, where nothing since has touched the ring. -/
theorem begun_ends {u : State} (en : s.is HR_CMD_CFG_EN = true) (ring : u.ring = (begun s e).ring) {fs : List Fld} (kept : Kept fs (begun s e) u)
    (high : ∀ f ∈ fs, 0x100018 * 32 ≤ f.key) (st res : Nat) :
    Ends s (u.cmdDone s.ring.nextId st res) s.ring.nextId (cmdOf e) st res :=
  cmdDone_ends ((begun_ring s e).trans (.of_kept_high kept (by rw [ring]) high)) en (by rw [ring]; exact begun_active s e) st res

theorem begun_ends_flds {u : State} (en : s.is HR_CMD_CFG_EN = true) (ring : u.ring = (begun s e).ring) (flds : u.flds = (begun s e).flds) (st res : Nat) :
    Ends s (u.cmdDone s.ring.nextId st res) s.ring.nextId (cmdOf e) st res :=
  begun_ends en ring (fs := []) (kept_flds flds (kept_refl _)) (by simp) st res

/-- The state check of a command just started. -/
theorem legal_begun (p : Bool) (f : State → State) : (begun s e).legal s.ring.nextId p f =
    if p = true then f (begun s e) else (begun s e).cmdDone s.ring.nextId sSTATE ((cmdOf e).refused (begun s e)) := by
  cases hp : p
  · rw [if_neg Bool.false_ne_true]
    exact legal_fail (begun_active s e) rfl f
  · rw [if_pos rfl]
    exact legal_pass rfl f

/-- `RESULT` of a refused command is 0 but for `Q_STOP` and `SHAPER_SET`. -/
theorem refused_eq_zero (u : State) (stop : byteAt e 0 ≠ 0x12) (shaper : byteAt e 0 ≠ 0x30) : (cmdOf e).refused u = 0 := by
  unfold CmdSt.refused
  rw [if_neg (show ¬ (cmdOf e).op = 0x12 from stop), if_neg (show ¬ (cmdOf e).op = 0x30 from shaper)]

/-- A command that only ends changes no context and no queue. -/
theorem begun_cmdDone (en : s.is HR_CMD_CFG_EN = true) (st res : Nat) :
    ((begun s e).cmdDone s.ring.nextId st res).ctxs = s.ctxs ∧ ((begun s e).cmdDone s.ring.nextId st res).qs = s.qs ∧
      Ends s ((begun s e).cmdDone s.ring.nextId st res) s.ring.nextId (cmdOf e) st res :=
  ⟨(cmdDone_ctxs ..).trans (begun_ctxs s e), (cmdDone_qs ..).trans (begun_qs s e), begun_ends_flds en rfl rfl st res⟩

/-! ## `DIRTY_START` -/

/-- The session a `DIRTY_START` begins. -/
def newSession (c : CmdSt) : DirtySt := { bitmap := c.f 8 0 64, region := c.f 0x10 0 64, pages := c.f 0x18 0 32 }

/-- The state check of `DIRTY_START` for context `x`. -/
def mayLog (s : State) (x : Nat) : Bool :=
  (s.ctx x).state == cACTIVE && s.rd SYS_STATE_MODE != 0 && s.sys.pendingMode != some 0 && (s.ctx x).dirty.isNone

theorem mayLog_iff (s : State) (x : Nat) :
    mayLog s x = true ↔ (s.ctx x).state = cACTIVE ∧ s.rd SYS_STATE_MODE ≠ 0 ∧ s.sys.pendingMode ≠ some 0 ∧ (s.ctx x).dirty = none := by
  simp [mayLog, and_assoc]

theorem mayLog_begun (s : State) (e : List Byte) (x : Nat) : mayLog (begun s e) x = mayLog s x := by
  unfold mayLog
  rw [begun_ctx, begun_rd s e (by decide), begun_sys]

/-- A session begins in the command's context. -/
def startLog (u : State) (c : CmdSt) : State :=
  (u.setCtx c.ctx { u.ctx c.ctx with dirty := some (newSession c) }).wr (CX_STAT_DIRTY_FAULT c.ctx) 0

theorem kept_startLog (u : State) (c : CmdSt) : Kept [CX_STAT_DIRTY_FAULT c.ctx] u (startLog u c) :=
  kept_wr _ _ (by simp) (kept_flds rfl (kept_refl u))

theorem startLog_ring (u : State) (c : CmdSt) : (startLog u c).ring = u.ring := rfl

theorem startLog_ctx (u : State) (c : CmdSt) : (startLog u c).ctx c.ctx = { u.ctx c.ctx with dirty := some (newSession c) } := ctx_setCtx_same ..

theorem startLog_fault (u : State) (c : CmdSt) : (startLog u c).rd (CX_STAT_DIRTY_FAULT c.ctx) = 0 := rd_wr_same ..

include heads start runs in
theorem exec_dirtyStart (hop : byteAt e 0 = 8) (form : (cmdOf e).formOk [(8, 0, 64), (0x10, 0, 64), (0x18, 0, 32)] = true)
    (bitmap : addrOk ((cmdOf e).f 8 0 64) 64 = true) (region : addrOk ((cmdOf e).f 0x10 0 64) 4096 = true) (pages : (cmdOf e).f 0x18 0 32 ≠ 0) :
    exec .dirtyStart s = .next (if mayLog s (cmdOf e).ctx = true then (startLog (begun s e) (cmdOf e)).cmdDone s.ring.nextId sOK 0
      else (begun s e).cmdDone s.ring.nextId sSTATE 0) := by
  have none : (cmdOf e).refused (begun s e) = 0 := refused_eq_zero _ (by omega) (by omega)
  rw [← mayLog_begun s e]
  refine congrArg Host.Outcome.next ((runCmd_eq heads start runs hop form (by simp [bitmap, region, pages]) _).trans ?_)
  dsimp only
  rw [legal_begun, none]
  rfl

include heads start runs en in
theorem dirtyStart_ends (hop : byteAt e 0 = 8) (form : (cmdOf e).formOk [(8, 0, 64), (0x10, 0, 64), (0x18, 0, 32)] = true)
    (bitmap : addrOk ((cmdOf e).f 8 0 64) 64 = true) (region : addrOk ((cmdOf e).f 0x10 0 64) 4096 = true) (pages : (cmdOf e).f 0x18 0 32 ≠ 0) :
    let c := cmdOf e
    if (s.ctx c.ctx).state = cACTIVE ∧ s.rd SYS_STATE_MODE ≠ 0 ∧ s.sys.pendingMode ≠ some 0 ∧ (s.ctx c.ctx).dirty = none then
      ∃ t, exec .dirtyStart s = .next t ∧ t.rd (CX_STAT_DIRTY_FAULT c.ctx) = 0 ∧ Ends s t s.ring.nextId c sOK 0 ∧
        t.ctx c.ctx = { s.ctx c.ctx with dirty := some (newSession c) }
    else ∃ t, exec .dirtyStart s = .next t ∧ t.ctxs = s.ctxs ∧ Ends s t s.ring.nextId c sSTATE 0 := by
  intro c
  have run := exec_dirtyStart heads start runs hop form bitmap region pages
  simp only [← mayLog_iff]
  split
  case isTrue ok =>
    rw [if_pos ok] at run
    have active : optGet (startLog (begun s e) c).ring.active s.ring.nextId = some c := begun_active s e
    have off : (CX_STAT_DIRTY_FAULT c.ctx).key ∉ (doneFields sOK c.ctx).map Fld.key := by
      simp [doneFields, startFields, sOK, sSTATE, Fld.key, CX_STAT_DIRTY_FAULT, HR_CMD_STAT_ACTIVE, HR_CMD_STAT_CI]
      omega
    have high : ∀ f ∈ [CX_STAT_DIRTY_FAULT c.ctx], 0x100018 * 32 ≤ f.key := by
      simp [Fld.key, CX_STAT_DIRTY_FAULT]
      omega
    refine ⟨_, run, ?_, begun_ends en (startLog_ring _ c) (kept_startLog _ c) high sOK 0, ?_⟩
    · rw [rd_kept (kept_cmdDone active sOK 0) _ off]
      exact startLog_fault ..
    · rw [cmdDone_ctx, startLog_ctx, begun_ctx]
  case isFalse bad =>
    rw [if_neg bad] at run
    obtain ⟨ctxs, -, ends⟩ := begun_cmdDone (e := e) en sSTATE 0
    exact ⟨_, run, ctxs, ends⟩

/-! ## `DIRTY_STOP` -/

include heads start runs in
theorem exec_dirtyStop_none (hop : byteAt e 0 = 9) (form : (cmdOf e).formOk [] = true) (none : (s.ctx (cmdOf e).ctx).dirty = none) :
    exec .dirtyStop s = .next ((begun s e).cmdDone s.ring.nextId sSTATE 0) := by
  refine congrArg Host.Outcome.next ((runCmd_eq heads start runs hop form rfl _).trans ?_)
  rw [begun_ctx, none]

include heads start runs in
theorem exec_dirtyStop_some (hop : byteAt e 0 = 9) (form : (cmdOf e).formOk [] = true) {d : DirtySt} (session : (s.ctx (cmdOf e).ctx).dirty = some d)
    (go : d.stopping = false) : exec .dirtyStop s = .next ((begun s e).dirtyEnd (cmdOf e).ctx (some s.ring.nextId)) := by
  refine congrArg Host.Outcome.next ((runCmd_eq heads start runs hop form rfl _).trans ?_)
  rw [begun_ctx, session]
  simp only [go, Bool.false_eq_true, if_false]

/-- The end of a session is asked for by a command: at once where no mark is under way. -/
theorem dirtyEnd_cmd {u : State} {x id : Nat} {d : DirtySt} (session : (u.ctx x).dirty = some d) :
    u.dirtyEnd x (some id) =
      if u.awaitsFor .dirtyMark x = true then u.setCtx x { u.ctx x with dirty := some { d with stopping := true, stopCmd := some id } }
      else (u.setCtx x { u.ctx x with dirty := none }).cmdDone id d.status 0 := by
  unfold State.dirtyEnd
  rw [session]
  rfl

include heads start runs en in
theorem dirtyStop_ends (hop : byteAt e 0 = 9) (form : (cmdOf e).formOk [] = true) :
    let c := cmdOf e
    ((s.ctx c.ctx).dirty = none → ∃ t, exec .dirtyStop s = .next t ∧ t.ctxs = s.ctxs ∧ Ends s t s.ring.nextId c sSTATE 0) ∧
    (∀ d, (s.ctx c.ctx).dirty = some d → d.stopping = false → s.awaitsFor .dirtyMark c.ctx = false →
      ∃ t, exec .dirtyStop s = .next t ∧ t.ctx c.ctx = { s.ctx c.ctx with dirty := none } ∧
        Ends s t s.ring.nextId c (if d.fault then sFAULT else sOK) 0) ∧
    (∀ d, (s.ctx c.ctx).dirty = some d → d.stopping = false → s.awaitsFor .dirtyMark c.ctx = true →
      ∃ t, exec .dirtyStop s = .next t ∧
        t.ctx c.ctx = { s.ctx c.ctx with dirty := some { d with stopping := true, stopCmd := some s.ring.nextId } } ∧
        optGet t.ring.active s.ring.nextId = some c) := by
  intro c
  have wait : (begun s e).awaitsFor .dirtyMark c.ctx = s.awaitsFor .dirtyMark c.ctx := begun_awaitsFor s e (by decide) _
  refine ⟨fun none => ?_, fun d session go free => ?_, fun d session go marks => ?_⟩
  · obtain ⟨ctxs, -, ends⟩ := begun_cmdDone (e := e) en sSTATE 0
    exact ⟨_, exec_dirtyStop_none heads start runs hop form none, ctxs, ends⟩
  · have run := exec_dirtyStop_some heads start runs hop form session go
    rw [dirtyEnd_cmd ((congrArg CtxSt.dirty (begun_ctx ..)).trans session),
      if_neg (by rw [wait, free]; exact Bool.false_ne_true)] at run
    refine ⟨_, run, ?_, begun_ends_flds en (setCtx_ring ..) (setCtx_flds ..) _ _⟩
    rw [cmdDone_ctx, ctx_setCtx_same, begun_ctx]
  · have run := exec_dirtyStop_some heads start runs hop form session go
    rw [dirtyEnd_cmd ((congrArg CtxSt.dirty (begun_ctx ..)).trans session), if_pos (wait.trans marks)] at run
    refine ⟨_, run, ?_, begun_active s e⟩
    rw [ctx_setCtx_same, begun_ctx]

end

/-! ## Marks that answer -/

/-- An event changes its context's ring alone, and the registers of lost events. -/
theorem event_ctx (s : State) (x type queue : Nat) (rx : Bool) (status idx addr : Nat) :
    ∃ r, (s.event x type queue rx status idx addr).ctx x = { s.ctx x with evr := r } := by
  unfold State.event
  split
  · exact ⟨_, rfl⟩
  · split
    · exact ⟨_, rfl⟩
    · split
      · exact ⟨_, rfl⟩
      · exact ⟨_, ctx_setCtx_same ..⟩

/-- The registers of lost events of context `x`. -/
def eventFields (x : Nat) : List Fld := [HR_CTX_EVL_EV_LOST x, HR_EVT_EV_LOST]

theorem kept_evLost (s : State) (x : Nat) : Kept (eventFields x) s (s.evLost x) :=
  kept_wr _ _ (by simp [eventFields]) (kept_wr _ _ (by simp [eventFields]) (kept_refl s))

theorem kept_event (s : State) (x type queue : Nat) (rx : Bool) (status idx addr : Nat) :
    Kept (eventFields x) s (s.event x type queue rx status idx addr) := by
  unfold State.event
  split
  · exact kept_refl s
  · split
    · exact kept_evLost s x
    · split
      · exact kept_evLost s x
      · exact kept_flds rfl (kept_wr (HR_CTX_EVL_EV_LOST x) 0 (by simp [eventFields]) (kept_refl s))

/-- The context's session becomes `d`. -/
def withSession (u : State) (x : Nat) (d : DirtySt) : State := u.setCtx x { u.ctx x with dirty := some d }

/-- A mark of context `x` has failed: no more marks go out. -/
def markFailed (v : State) (x : Nat) : State :=
  ((v.unqueue (fun q => q.kind == .dirtyMark && q.a == x)).raise (CX_STAT_DIRTY_FAULT x)).raise CX_EVT_DIRTY_FAULT

/-- What a mark's answer leaves, before a stop that waited for it: the session, and its first fault reported. -/
def markAnswered (u : State) (r : Deliv) (d : DirtySt) : State :=
  let v := withSession u r.a { d with fault := d.fault || r.resp != .okay }
  if r.resp != .okay && !d.fault then (markFailed v r.a).ctxEvent r.a 11 sFAULT 0 r.addr else v

theorem exec_dirtyMarkResponse {s u : State} {r : Deliv} {d : DirtySt} (answer : s.response .dirtyMark = some (r, u))
    (session : (u.ctx r.a).dirty = some d) :
    exec .dirtyMarkResponse s = .next (
      if (d.stopping && !(markAnswered u r d).awaitsFor .dirtyMark r.a) = true then
        ((markAnswered u r d).setCtx r.a { (markAnswered u r d).ctx r.a with dirty := none }).cmdDone? d.stopCmd
          ({ d with fault := d.fault || r.resp != .okay } : DirtySt).status 0
      else markAnswered u r d) := by
  show execDirtyMarkResponse s = _
  unfold execDirtyMarkResponse
  rw [answer]
  dsimp only
  rw [session]
  rfl

theorem response_eq {s u : State} {k : ReqKind} {d : Deliv} (h : s.response k = some (d, u)) :
    ∃ rest, u = { s with fab := { s.fab with done := rest } } := by
  unfold State.response at h
  split at h
  · exact absurd h (by simp)
  · obtain ⟨p, -, e⟩ := Option.map_eq_some_iff.1 h
    exact ⟨p.2, ((Prod.mk.inj e).2).symm⟩

theorem response_ctx {s u : State} {k : ReqKind} {d : Deliv} (h : s.response k = some (d, u)) (x : Nat) : u.ctx x = s.ctx x := by
  obtain ⟨rest, rfl⟩ := response_eq h
  rfl

theorem response_flds {s u : State} {k : ReqKind} {d : Deliv} (h : s.response k = some (d, u)) : u.flds = s.flds := by
  obtain ⟨rest, rfl⟩ := response_eq h
  rfl

theorem response_ring {s u : State} {k : ReqKind} {d : Deliv} (h : s.response k = some (d, u)) : u.ring = s.ring := by
  obtain ⟨rest, rfl⟩ := response_eq h
  rfl

theorem RingKept.response {s u : State} {k : ReqKind} {d : Deliv} (h : s.response k = some (d, u)) : RingKept s u := by
  obtain ⟨rest, rfl⟩ := response_eq h
  exact ⟨rfl, rfl, rfl, rfl, rfl⟩

/-- A mark answered `OKAY`, or one that failed after another, changes the session alone. -/
theorem markAnswered_plain {u : State} {r : Deliv} {d : DirtySt} (h : (r.resp != .okay && !d.fault) = false) :
    markAnswered u r d = withSession u r.a { d with fault := d.fault || r.resp != .okay } := by
  unfold markAnswered
  rw [h]
  rfl

theorem withSession_ctx (u : State) (x : Nat) (d : DirtySt) : (withSession u x d).ctx x = { u.ctx x with dirty := some d } := ctx_setCtx_same ..

theorem ctxEvent_ctx (s : State) (x type status idx addr : Nat) : ∃ r, (s.ctxEvent x type status idx addr).ctx x = { s.ctx x with evr := r } :=
  event_ctx s.draw.2 ..

theorem kept_ctxEvent (s : State) (x type status idx addr : Nat) : Kept (eventFields x) s (s.ctxEvent x type status idx addr) :=
  fun k h => kept_event s.draw.2 x type _ _ status idx addr k h

theorem markFailed_stat (v : State) (x : Nat) : (markFailed v x).is (CX_STAT_DIRTY_FAULT x) = true :=
  (is_wr_ne (s := (v.unqueue _).raise (CX_STAT_DIRTY_FAULT x)) (by omega)).trans is_raise

/-- The first mark of a session that fails is reported. -/
theorem markAnswered_fault {u : State} {r : Deliv} {d : DirtySt} (bad : r.resp ≠ .okay) (first : d.fault = false) :
    ((markAnswered u r d).ctx r.a).dirty = some { d with fault := true } ∧ (markAnswered u r d).is (CX_STAT_DIRTY_FAULT r.a) = true ∧
      (markAnswered u r d).is CX_EVT_DIRTY_FAULT = true := by
  have new : (r.resp != .okay && !d.fault) = true := by simp [bad, first]
  have fault : (d.fault || r.resp != .okay) = true := by simp [bad]
  have e : markAnswered u r d = (markFailed (withSession u r.a { d with fault := true }) r.a).ctxEvent r.a 11 sFAULT 0 r.addr := by
    unfold markAnswered
    rw [new, fault]
    rfl
  obtain ⟨ring, ctx⟩ := ctxEvent_ctx (markFailed (withSession u r.a { d with fault := true }) r.a) r.a 11 sFAULT 0 r.addr
  have kept := kept_ctxEvent (markFailed (withSession u r.a { d with fault := true }) r.a) r.a 11 sFAULT 0 r.addr
  rw [e]
  refine ⟨?_, ?_, ?_⟩
  · rw [ctx]
    exact congrArg CtxSt.dirty (withSession_ctx ..)
  · rw [State.is, rd_kept kept _ ?_]
    · exact markFailed_stat ..
    · simp [eventFields, Fld.key, CX_STAT_DIRTY_FAULT, HR_CTX_EVL_EV_LOST, HR_EVT_EV_LOST]
      omega
  · rw [State.is, rd_kept kept _ ?_]
    · exact is_raise
    · simp [eventFields, Fld.key, CX_EVT_DIRTY_FAULT, HR_CTX_EVL_EV_LOST, HR_EVT_EV_LOST]
      omega

/-- Settles O50: a session begins, ends at once or with the last mark's answer, and its first failed mark is reported. -/
theorem dirtyPageLogging : Obligations.DirtyPageLogging := by
  refine ⟨fun e s heads start runs en hop form bitmap region pages => dirtyStart_ends heads start runs en hop form bitmap region pages,
    fun e s heads start runs en hop form => dirtyStop_ends heads start runs en hop form, ?okay, ?fault, ?last⟩
  case okay =>
    intro r u d s answer session okay go
    have run := exec_dirtyMarkResponse answer ((congrArg CtxSt.dirty (response_ctx answer _)).trans session)
    rw [go, Bool.false_and, if_neg Bool.false_ne_true, markAnswered_plain (by simp [okay])] at run
    have same : d.fault = (d.fault || r.resp != .okay) := by simp [okay]
    refine ⟨_, run, ?_, (setCtx_flds ..).trans (response_flds answer)⟩
    rw [withSession_ctx, response_ctx answer, ← same, ← session]
  case fault =>
    intro r u d s answer session bad first go
    have run := exec_dirtyMarkResponse answer ((congrArg CtxSt.dirty (response_ctx answer _)).trans session)
    rw [go, Bool.false_and, if_neg Bool.false_ne_true] at run
    exact ⟨_, run, markAnswered_fault bad first⟩
  case last =>
    intro r u d id c s answer session okay stop cmd active en none
    have run := exec_dirtyMarkResponse answer ((congrArg CtxSt.dirty (response_ctx answer _)).trans session)
    have same : (d.fault || r.resp != .okay) = d.fault := by simp [okay]
    have wait : (withSession u r.a d).awaitsFor .dirtyMark r.a = false := none
    rw [markAnswered_plain (by simp [okay]), same, if_pos (by rw [Bool.and_eq_true]; exact ⟨stop, congrArg not wait⟩), cmd] at run
    have ring : u.ring = s.ring := response_ring answer
    have flds : u.flds = s.flds := response_flds answer
    refine ⟨_, run, ?_, cmdDone_ends (s := s) ?_ en ?_ _ _⟩
    · refine (cmdDone_ctx _ id _ 0 r.a).trans ?_
      rw [ctx_setCtx_same, withSession_ctx, response_ctx answer]
    · exact .of_kept (fs := []) (kept_flds flds (kept_refl s)) (congrArg RingSt.cpi ring) (by simp)
    · exact (congrArg (fun x : RingSt => optGet x.active id) ring).trans active

end Sys2Proof.Proofs
end

section
/-! PROOFS. Queue, event-ring and vector commands (R244, R245, R248, R253). -/

namespace Sys2Proof.Proofs

open Sys2Proof.Machine Sys2Proof.Laws

set_option Elab.async false

theorem q_setQ_same (s : State) (k : Nat) (x : QSt) : (s.setQ k x).q k = x := (mapGet_set ..).trans (if_pos rfl)

section
variable {s : State} {e : List Byte} (heads : s.ring.heads = [e]) (start : s.cmdMayStart e = true) (runs : s.islandRuns 5 = true)
  (en : s.is HR_CMD_CFG_EN = true)

/-- A command just started has its own effect where its state check passes, and else ends `STATE` and changes no context and no queue. -/
theorem legal_cases (en : s.is HR_CMD_CFG_EN = true) {p : Bool} {f : State → State} {t : State} (ht : t = (begun s e).legal s.ring.nextId p f)
    {res : Nat} (result : (cmdOf e).refused (begun s e) = res) :
    (p = true → t = f (begun s e)) ∧ (p ≠ true → t.ctxs = s.ctxs ∧ t.qs = s.qs ∧ Ends s t s.ring.nextId (cmdOf e) sSTATE res) := by
  subst ht result
  rw [legal_begun]
  constructor <;> intro hp
  · rw [if_pos hp]
  · rw [if_neg hp]
    exact begun_cmdDone en ..

/-- A queue is set by a command that ends. -/
theorem setQ_ends (en : s.is HR_CMD_CFG_EN = true) (k : Nat) (x : QSt) (st res : Nat) :
    (((begun s e).setQ k x).cmdDone s.ring.nextId st res).q k = x ∧
      Ends s (((begun s e).setQ k x).cmdDone s.ring.nextId st res) s.ring.nextId (cmdOf e) st res :=
  ⟨(cmdDone_q ..).trans (q_setQ_same ..), begun_ends_flds en (setQ_ring ..) (setQ_flds ..) st res⟩

/-- A context is set by a command that ends. -/
theorem setCtx_ends (en : s.is HR_CMD_CFG_EN = true) (x : Nat) (n : CtxSt) (st res : Nat) :
    (((begun s e).setCtx x n).cmdDone s.ring.nextId st res).qs = s.qs ∧ (((begun s e).setCtx x n).cmdDone s.ring.nextId st res).ctx x = n ∧
      Ends s (((begun s e).setCtx x n).cmdDone s.ring.nextId st res) s.ring.nextId (cmdOf e) st res :=
  ⟨(cmdDone_qs ..).trans (begun_qs s e), (cmdDone_ctx ..).trans (ctx_setCtx_same ..), begun_ends_flds en (setCtx_ring ..) (setCtx_flds ..) st res⟩

/-! ## Queue commands -/

/-- The queue that a setup leaves. -/
def setUpQueue (q : QSt) (c : CmdSt) : QSt :=
  { owned := true, ctx := q.ctx, qidx := q.qidx, chan := q.chan, cls := q.cls, state := qRUN, ring := c.f 0x10 0 64, cmpl := c.f 0x18 0 64,
    log2 := c.f 9 0 4, vector := c.f 10 0 6, notify := c.f 10 6 1 == 1, prefetch := c.f 11 0 7 }

theorem setupForm_begun (rx : Bool) (c : CmdSt) : setupForm rx c (begun s e) = setupForm rx c s := by
  rw [setupForm, begun_poolQ, setupForm]

include heads start runs en in
theorem queueSetup_ends {op k : Nat} {rx : Bool} (kind : op = 0x10 ∨ op = 0x11) (hop : byteAt e 0 = op) (form : (cmdOf e).formOk setupMask = true)
    (fits : setupForm rx (cmdOf e) s = true) (queue : s.poolQ (cmdOf e).ctx ((cmdOf e).f 8 0 6) rx = some k) :
    if (s.ctx (cmdOf e).ctx).state = cACTIVE ∧ (s.q k).state = qUNSET then
      Ends s (s.queueSetup op rx) s.ring.nextId (cmdOf e) sOK 0 ∧ (s.queueSetup op rx).q k = setUpQueue (s.q k) (cmdOf e)
    else (s.queueSetup op rx).qs = s.qs ∧ Ends s (s.queueSetup op rx) s.ring.nextId (cmdOf e) sSTATE 0 := by
  have run : s.queueSetup op rx = (begun s e).legal s.ring.nextId ((s.ctx (cmdOf e).ctx).state == cACTIVE && (s.q k).state == qUNSET)
      (fun u => (u.setQ k (setUpQueue (s.q k) (cmdOf e))).cmdDone s.ring.nextId sOK 0) := by
    refine (runCmd_eq heads start runs hop form ((setupForm_begun ..).trans fits) _).trans ?_
    rw [begun_poolQ, queue]
    dsimp only
    rw [begun_ctx, begun_q]
    rfl
  obtain ⟨pass, fail⟩ := legal_cases en run (refused_eq_zero _ (by omega) (by omega))
  split
  case isTrue h =>
    rw [pass (by simpa using h)]
    exact (setQ_ends en k _ sOK 0).symm
  case isFalse h => exact (fail (by simpa using h)).2

theorem queue_begun : (cmdOf e).queue (begun s e) = (cmdOf e).queue s := begun_poolQ ..

include heads start runs in
/-- A command on the queue it names acts on that queue. -/
theorem queueCmd_eq {op k : Nat} (hop : byteAt e 0 = op) (form : (cmdOf e).formOk [(8, 0, 6), (8, 6, 1)] = true) (queue : (cmdOf e).queue s = some k)
    (f : Nat → CmdSt → Nat → State → State) : s.queueCmd op f = f s.ring.nextId (cmdOf e) k (begun s e) := by
  refine (runCmd_eq heads start runs hop form ?_ _).trans ?_
  · rw [queue_begun, queue]
    rfl
  · rw [queue_begun, queue]

include heads start runs en in
theorem qStop_ends {k : Nat} (hop : byteAt e 0 = 0x12) (form : (cmdOf e).formOk [(8, 0, 6), (8, 6, 1)] = true) (queue : (cmdOf e).queue s = some k) :
    ∃ t, exec .qStop s = .next t ∧
      (if (s.ctx (cmdOf e).ctx).state = cACTIVE ∧ (s.q k).state = qRUN
        then t.q k = { s.q k with state := qSTOPPING, faulted := false, stopCmd := some s.ring.nextId } ∧ optGet t.ring.active s.ring.nextId = some (cmdOf e)
        else t.qs = s.qs ∧ Ends s t s.ring.nextId (cmdOf e) sSTATE (s.q k).ci) := by
  refine ⟨_, rfl, ?_⟩
  have run := queueCmd_eq heads start runs hop form queue (fun id c k s =>
    s.legal id ((s.ctx c.ctx).state == cACTIVE && (s.q k).state == qRUN) (fun s =>
      s.setQ k { s.q k with state := qSTOPPING, faulted := false, stopCmd := some id }))
  have result : (cmdOf e).refused (begun s e) = (s.q k).ci := by
    unfold CmdSt.refused
    rw [if_pos (show (cmdOf e).op = 0x12 from hop), queue_begun, queue]
    exact congrArg QSt.ci (begun_q ..)
  obtain ⟨pass, fail⟩ := legal_cases en run result
  rw [begun_ctx, begun_q] at pass fail
  split
  case isTrue h =>
    rw [pass (by simpa using h), q_setQ_same]
    exact ⟨rfl, begun_active s e⟩
  case isFalse h => exact (fail (by simpa using h)).2

include heads start runs en in
theorem qRestart_ends {k : Nat} (hop : byteAt e 0 = 0x13) (form : (cmdOf e).formOk [(8, 0, 6), (8, 6, 1)] = true) (queue : (cmdOf e).queue s = some k) :
    ∃ t, exec .qRestart s = .next t ∧
      (if (s.ctx (cmdOf e).ctx).state = cACTIVE ∧ (s.q k).state = qSTOPPED
        then t.q k = { s.q k with state := qRUN, pi := 0, ci := 0, fp := 0, cpi := 0, bufs := [], noRx := false } ∧ Ends s t s.ring.nextId (cmdOf e) sOK 0
        else t.qs = s.qs ∧ Ends s t s.ring.nextId (cmdOf e) sSTATE 0) := by
  refine ⟨_, rfl, ?_⟩
  have run := queueCmd_eq heads start runs hop form queue (fun id c k s =>
    s.legal id ((s.ctx c.ctx).state == cACTIVE && (s.q k).state == qSTOPPED) (fun s =>
      (s.setQ k { s.q k with state := qRUN, pi := 0, ci := 0, fp := 0, cpi := 0, bufs := [], noRx := false }).cmdDone id sOK 0))
  obtain ⟨pass, fail⟩ := legal_cases en run (refused_eq_zero _ (by omega) (by omega))
  rw [begun_ctx, begun_q] at pass fail
  split
  case isTrue h =>
    rw [pass (by simpa using h)]
    exact setQ_ends en k _ sOK 0
  case isFalse h => exact (fail (by simpa using h)).2

include heads start runs en in
theorem qTeardown_ends {k : Nat} (hop : byteAt e 0 = 0x14) (form : (cmdOf e).formOk [(8, 0, 6), (8, 6, 1)] = true) (queue : (cmdOf e).queue s = some k) :
    ∃ t, exec .qTeardown s = .next t ∧
      (if (s.q k).state = qSTOPPED
        then t.q k = { owned := true, ctx := (s.q k).ctx, qidx := (s.q k).qidx, chan := (s.q k).chan, cls := (s.q k).cls } ∧
          Ends s t s.ring.nextId (cmdOf e) sOK 0
        else t.qs = s.qs ∧ Ends s t s.ring.nextId (cmdOf e) sSTATE 0) := by
  refine ⟨_, rfl, ?_⟩
  have run := queueCmd_eq heads start runs hop form queue (fun id _ k s =>
    s.legal id ((s.q k).state == qSTOPPED) (fun s =>
      let q := s.q k
      (s.setQ k { owned := true, ctx := q.ctx, qidx := q.qidx, chan := q.chan, cls := q.cls }).cmdDone id sOK 0))
  obtain ⟨pass, fail⟩ := legal_cases en run (refused_eq_zero _ (by omega) (by omega))
  rw [begun_q] at pass fail
  split
  case isTrue h =>
    rw [pass (by simpa using h)]
    exact setQ_ends en k _ sOK 0
  case isFalse h => exact (fail (by simpa using h)).2

/-! ## Event-ring commands -/

include heads start runs en in
theorem evqSetup_ends (hop : byteAt e 0 = 0x15) (form : (cmdOf e).formOk [(9, 0, 4), (10, 0, 6), (10, 6, 1), (0x10, 0, 64)] = true)
    (size : 6 ≤ (cmdOf e).f 9 0 4) (addr : addrOk ((cmdOf e).f 0x10 0 64) 64 = true) :
    let c := cmdOf e
    ∃ t, exec .evqSetup s = .next t ∧ t.qs = s.qs ∧
      (if (s.ctx c.ctx).state = cACTIVE ∧ (s.ctx c.ctx).evr = none
        then t.ctx c.ctx = { s.ctx c.ctx with evr := some ⟨c.f 0x10 0 64, c.f 9 0 4, 0, 0, c.f 10 0 6, c.f 10 6 1 == 1⟩ } ∧
          Ends s t s.ring.nextId c sOK 0
        else t.ctxs = s.ctxs ∧ Ends s t s.ring.nextId c sSTATE 0) := by
  intro c
  refine ⟨_, rfl, ?_⟩
  have run := runCmd_eq heads start runs hop form (p := fun c _ => 6 ≤ c.f 9 0 4 && addrOk (c.f 0x10 0 64) 64) (by simp [size, addr]) (fun id c s =>
    let t := s.ctx c.ctx
    s.legal id (t.state == cACTIVE && t.evr.isNone) (fun s =>
      (s.setCtx c.ctx { t with evr := some ⟨c.f 0x10 0 64, c.f 9 0 4, 0, 0, c.f 10 0 6, c.f 10 6 1 == 1⟩ }).cmdDone id sOK 0))
  obtain ⟨pass, fail⟩ := legal_cases en run (refused_eq_zero _ (by omega) (by omega))
  rw [begun_ctx] at pass fail
  by_cases h : (s.ctx c.ctx).state = cACTIVE ∧ (s.ctx c.ctx).evr = none
  · rw [if_pos h, pass (by simpa using h)]
    exact setCtx_ends en _ _ sOK 0
  · obtain ⟨ctxs, qs, ends⟩ := fail (by simpa using h)
    rw [if_neg h]
    exact ⟨qs, ctxs, ends⟩

include heads start runs en in
theorem evqTeardown_ends (hop : byteAt e 0 = 0x16) (form : (cmdOf e).formOk [] = true) :
    let c := cmdOf e
    ∃ t, exec .evqTeardown s = .next t ∧ t.qs = s.qs ∧
      (if (s.ctx c.ctx).evr = none then t.ctxs = s.ctxs ∧ Ends s t s.ring.nextId c sSTATE 0
        else t.ctx c.ctx = { s.ctx c.ctx with evr := none } ∧ Ends s t s.ring.nextId c sOK 0) := by
  intro c
  refine ⟨_, rfl, ?_⟩
  have run := runCmd_eq heads start runs hop form (p := fun _ _ => true) rfl (fun id c s =>
    s.legal id (s.ctx c.ctx).evr.isSome (fun s => (s.setCtx c.ctx { s.ctx c.ctx with evr := none }).cmdDone id sOK 0))
  obtain ⟨pass, fail⟩ := legal_cases en run (refused_eq_zero _ (by omega) (by omega))
  rw [begun_ctx] at pass fail
  by_cases h : (s.ctx c.ctx).evr = none
  · obtain ⟨ctxs, qs, ends⟩ := fail (by simpa using h)
    rw [if_pos h]
    exact ⟨qs, ctxs, ends⟩
  · rw [if_neg h, pass (by simpa [Option.isSome_iff_ne_none] using h)]
    exact setCtx_ends en _ _ sOK 0

end

/-! ## Vectors -/

theorem ctx_setCtx_other (s : State) {x y : Nat} (h : y ≠ x) (c : CtxSt) : (s.setCtx x c).ctx y = s.ctx y := (mapGet_set ..).trans (if_neg h)

theorem vec_setVec_same (s : State) (x v : Nat) (n : VecSt) : (s.setVec x v n).vec x v = n := by
  rw [State.vec, State.setVec, ctx_setCtx_same]
  exact (mapGet_set ..).trans (if_pos rfl)

theorem vec_setVec_other (s : State) (x : Nat) {v w : Nat} (h : w ≠ v) (n : VecSt) : (s.setVec x v n).vec x w = s.vec x w := by
  rw [State.vec, State.setVec, ctx_setCtx_same]
  exact (mapGet_set ..).trans (if_neg h)

/-- From `n` to `m` a vector has at most announced what was unannounced. -/
structure Announces (n m : VecSt) : Prop where
  settings : m = { n with un := m.un, msg := m.msg }
  un : m.un = [] ∨ m.un = n.un

theorem Announces.refl (n : VecSt) : Announces n n := ⟨rfl, .inr rfl⟩

theorem Announces.trans {a b c : VecSt} (h : Announces a b) (g : Announces b c) : Announces a c := by
  refine ⟨?_, ?_⟩
  · rw [g.settings, h.settings]
  · cases g.un with
    | inl e => exact .inl e
    | inr e => rw [e]; exact h.un

/-- Of context `x`'s vectors only `v` may have announced. -/
structure VecStep (x v : Nat) (s t : State) : Prop where
  at_v : Announces (s.vec x v) (t.vec x v)
  others : ∀ w, w ≠ v → t.vec x w = s.vec x w

theorem VecStep.refl (x v : Nat) (s : State) : VecStep x v s s := ⟨.refl _, fun _ _ => rfl⟩

theorem VecStep.trans {x v : Nat} {a b c : State} (h : VecStep x v a b) (g : VecStep x v b c) : VecStep x v a c :=
  ⟨h.at_v.trans g.at_v, fun w hw => (g.others w hw).trans (h.others w hw)⟩

theorem VecStep.of_ctxs {x v : Nat} {s t : State} (h : t.ctxs = s.ctxs) : VecStep x v s t := by
  have same (w : Nat) : t.vec x w = s.vec x w := by rw [State.vec, State.ctx, h, State.vec, State.ctx]
  exact ⟨same v ▸ .refl _, fun w _ => same w⟩

theorem VecStep.setVec {x v : Nat} {s : State} {m : VecSt} (h : Announces (s.vec x v) m) : VecStep x v s (s.setVec x v m) :=
  ⟨by rw [vec_setVec_same]; exact h, fun _ hw => vec_setVec_other s x hw m⟩

theorem vecStep_settle (s : State) (x v : Nat) : VecStep x v s (s.vecSettle x v) := by
  unfold State.vecSettle
  extract_lets n
  split
  · exact .setVec ⟨rfl, .inl rfl⟩
  · exact .refl ..

theorem vecStep_recall (s : State) (x v : Nat) : VecStep x v s (s.vecRecall x v) := by
  unfold State.vecRecall
  extract_lets u f w
  have back : VecStep x v u w := .of_ctxs rfl
  exact ((vecStep_settle s x v).trans back).trans (.setVec ⟨rfl, .inr rfl⟩)

theorem vecStep_check (s : State) (x v : Nat) : VecStep x v s (s.vecCheck x v) := by
  unfold State.vecCheck
  extract_lets u n waited
  split
  · have sent : VecStep x v u (u.hostNotify .notify x v n.addr (leBytes 4 n.data)) := .of_ctxs rfl
    exact (((vecStep_settle s x v).trans sent).trans (.setVec (sent.at_v.settings ▸ ⟨rfl, .inr rfl⟩))).trans (vecStep_settle ..)
  · exact vecStep_settle s x v

/-- The vector that a `VEC_SET` leaves before anything is announced. -/
def newVector (c : CmdSt) (un : List Nat) : VecSt := ⟨c.f 8 6 1 == 1, c.f 9 0 8, c.f 10 0 16, c.f 12 0 32, c.f 0x10 0 64, un, false⟩

/-- A vector of context `x` is called back and set, and its message goes out where its conditions hold. -/
def vectorSet (u : State) (c : CmdSt) (x v : Nat) : State :=
  ((u.vecRecall x v).setVec x v (newVector c ((u.vecRecall x v).vec x v).un)).vecCheck x v

/-- A vector is set between two steps that announce at most. -/
theorem VecStep.vec_of_set {x v : Nat} {u r w t : State} {c : CmdSt} (back : VecStep x v u r) (hw : w = r.setVec x v (newVector c (r.vec x v).un))
    (check : VecStep x v w t) :
    t.vec x v = { newVector c [] with un := (t.vec x v).un, msg := (t.vec x v).msg } ∧
      ((t.vec x v).un = [] ∨ (t.vec x v).un = (u.vec x v).un) ∧ ∀ i, i ≠ v → t.vec x i = u.vec x i := by
  have own := check.at_v
  have rest := check.others
  rw [hw, vec_setVec_same] at own
  refine ⟨own.settings, ?_, fun i hi => ?_⟩
  · cases own.un with
    | inl h => exact .inl h
    | inr h => exact h ▸ back.at_v.un
  · rw [rest i hi, hw, vec_setVec_other _ x hi, back.others i hi]

theorem vectorSet_vec (u : State) (c : CmdSt) (x v : Nat) :
    (vectorSet u c x v).vec x v = { newVector c [] with un := ((vectorSet u c x v).vec x v).un, msg := ((vectorSet u c x v).vec x v).msg } ∧
      (((vectorSet u c x v).vec x v).un = [] ∨ ((vectorSet u c x v).vec x v).un = (u.vec x v).un) ∧
      ∀ w, w ≠ v → (vectorSet u c x v).vec x w = u.vec x w :=
  (vecStep_recall u x v).vec_of_set rfl (vecStep_check ..)

/-- The parts a vector's change may touch. -/
def vectorParts (p : Part) : Prop := p ∈ [Part.ctxs, .fab]

theorem vectorSet_parts (u : State) (c : CmdSt) (x v : Nat) : Keeps vectorParts u (vectorSet u c x v) := by
  have ctxs : Fact (vectorParts .ctxs) := ⟨by simp [vectorParts]⟩
  have fab : Fact (vectorParts .fab) := ⟨by simp [vectorParts]⟩
  exact keeps_vecCheck x v (keeps_setVec x v _ (keeps_vecRecall x v (Keeps.refl u)))

theorem vec_congr {s t : State} {x : Nat} (h : t.ctx x = s.ctx x) (v : Nat) : t.vec x v = s.vec x v := by rw [State.vec, h, State.vec]

section
variable {s : State} {e : List Byte} (heads : s.ring.heads = [e]) (start : s.cmdMayStart e = true) (runs : s.islandRuns 5 = true)
  (en : s.is HR_CMD_CFG_EN = true)

include heads start runs in
theorem exec_vecSet (hop : byteAt e 0 = 0x17) (form : (cmdOf e).formOk [(8, 0, 6), (8, 6, 1), (9, 0, 8), (10, 0, 16), (12, 0, 32), (0x10, 0, 64)] = true)
    (addr : addrOk ((cmdOf e).f 0x10 0 64) 4 = true) :
    exec .vecSet s = .next ((begun s e).legal s.ring.nextId ((s.ctx (cmdOf e).ctx).state == cACTIVE || (s.ctx (cmdOf e).ctx).state == cFROZEN)
      (fun u => (vectorSet u (cmdOf e) (cmdOf e).ctx ((cmdOf e).f 8 0 6)).cmdDone s.ring.nextId sOK 0)) := by
  refine congrArg Host.Outcome.next ((runCmd_eq heads start runs hop form addr _).trans ?_)
  rw [begun_ctx]
  rfl

include heads start runs en in
theorem vecSet_ends (hop : byteAt e 0 = 0x17) (form : (cmdOf e).formOk [(8, 0, 6), (8, 6, 1), (9, 0, 8), (10, 0, 16), (12, 0, 32), (0x10, 0, 64)] = true)
    (addr : addrOk ((cmdOf e).f 0x10 0 64) 4 = true) :
    let c := cmdOf e
    let x := c.ctx
    ∃ t, exec .vecSet s = .next t ∧ t.qs = s.qs ∧
      (if (s.ctx x).state = cACTIVE ∨ (s.ctx x).state = cFROZEN
        then t.vec x (c.f 8 0 6) = ⟨c.f 8 6 1 == 1, c.f 9 0 8, c.f 10 0 16, c.f 12 0 32, c.f 0x10 0 64, (t.vec x (c.f 8 0 6)).un, (t.vec x (c.f 8 0 6)).msg⟩ ∧
            ((t.vec x (c.f 8 0 6)).un = [] ∨ (t.vec x (c.f 8 0 6)).un = (s.vec x (c.f 8 0 6)).un) ∧ (∀ v, v ≠ c.f 8 0 6 → t.vec x v = s.vec x v) ∧
            Ends s t s.ring.nextId c sOK 0
        else t.ctxs = s.ctxs ∧ Ends s t s.ring.nextId c sSTATE 0) := by
  intro c x
  refine ⟨_, exec_vecSet heads start runs hop form addr, ?_⟩
  obtain ⟨pass, fail⟩ := legal_cases (e := e) en (f := fun u => (vectorSet u c x (c.f 8 0 6)).cmdDone s.ring.nextId sOK 0) rfl
    (refused_eq_zero _ (by omega) (by omega))
  by_cases h : (s.ctx x).state = cACTIVE ∨ (s.ctx x).state = cFROZEN
  · rw [if_pos h, pass (by simpa using h)]
    have parts := (vectorSet_parts (begun s e) c x (c.f 8 0 6)).1
    have done (v : Nat) := vec_congr (cmdDone_ctx (vectorSet (begun s e) c x (c.f 8 0 6)) s.ring.nextId sOK 0 x) v
    have old (v : Nat) := vec_congr (begun_ctx s e x) v
    obtain ⟨settings, un, others⟩ := vectorSet_vec (begun s e) c x (c.f 8 0 6)
    rw [old] at un
    refine ⟨(cmdDone_qs ..).trans ((parts .qs (by simp [vectorParts])).trans (begun_qs s e)), ?_, ?_, fun v hv => ?_,
      begun_ends_flds en (parts .ring (by simp [vectorParts])) (parts .regs (by simp [vectorParts])) sOK 0⟩
    · rw [done]
      exact settings
    · rw [done]
      exact un
    · rw [done, others v hv, old]
  · obtain ⟨ctxs, qs, ends⟩ := fail (by simpa using h)
    rw [if_neg h]
    exact ⟨qs, ctxs, ends⟩

end

/-- Settles O51: each command acts in the states of R244, R245 and R248 and ends `STATE` in any other. -/
theorem queueCommands : Obligations.QueueCommands := by
  intro e s heads start runs en c x id
  refine ⟨fun p hp hop form fits k queue => ?_, fun k form queue => ⟨?stop, ?restart, ?teardown⟩, ?setup, ?unset, ?vec⟩
  · simp only [List.mem_cons, List.not_mem_nil, or_false] at hp
    rcases hp with rfl | rfl
    · exact ⟨_, rfl, queueSetup_ends heads start runs en (.inl rfl) hop form fits queue⟩
    · exact ⟨_, rfl, queueSetup_ends heads start runs en (.inr rfl) hop form fits queue⟩
  case stop => exact fun hop => qStop_ends heads start runs en hop form queue
  case restart => exact fun hop => qRestart_ends heads start runs en hop form queue
  case teardown => exact fun hop => qTeardown_ends heads start runs en hop form queue
  case setup => exact evqSetup_ends heads start runs en
  case unset => exact evqTeardown_ends heads start runs en
  case vec => exact vecSet_ends heads start runs en

end Sys2Proof.Proofs
end

section
/-! PROOFS. The table's update engine (R182 to R184): what its work leaves alone, and the courses an operation takes on an idle engine. -/

namespace Sys2Proof.Proofs

open Sys2Proof.Machine Sys2Proof.Laws

set_option Elab.async false

/-! ## What the engine's work leaves alone -/

/-- The registers that the engine's own counts and its deadline may change. -/
def engineFields : List Fld :=
  pcFields 718 ++ pcFields 719 ++ pcFields 722 ++ [CL_CACHE_HIT_LO_COUNT, CL_CACHE_HIT_HI_COUNT, NY_BG_DL_RAISED 0]

/-- From `u` to `v` only the table, the engine's counts and its deadline have changed. -/
structure Engine (u v : State) : Prop where
  kept : Kept engineFields u v
  rest : ∃ l n, v = { u with flds := l, ny := n, tbl := v.tbl }

namespace Engine

theorem refl (u : State) : Engine u u := ⟨kept_refl u, u.flds, u.ny, rfl⟩

theorem trans {u v w : State} (h : Engine u v) (g : Engine v w) : Engine u w := by
  obtain ⟨l, n, e⟩ := h.rest
  obtain ⟨l', n', e'⟩ := g.rest
  refine ⟨kept_trans h.kept g.kept, l', n', ?_⟩
  rw [e', e]

variable {u v : State}

theorem table (u : State) (τ : TblSt) : Engine u { u with tbl := τ } := ⟨kept_flds rfl (kept_refl u), u.flds, u.ny, rfl⟩

theorem pcEvent (u : State) {e : Nat} (h : pcFields e ⊆ engineFields) : Engine u (u.pcEvent e) := by
  obtain ⟨l, hl⟩ := pcEvent_eq u e {} 1
  exact ⟨kept_mono h fun k q => kept_pcEvent u e {} 1 k q, l, u.ny, hl ▸ rfl⟩

theorem cacheHit (u : State) : Engine u (u.bump64 CL_CACHE_HIT_LO_COUNT CL_CACHE_HIT_HI_COUNT) :=
  ⟨kept_wr _ _ (by decide) (kept_wr _ _ (by decide) (kept_refl u)), _, u.ny, rfl⟩

theorem bgBegin (u : State) (a k : Nat) : Engine u (u.bgBegin a k) := ⟨kept_flds rfl (kept_refl u), u.flds, _, rfl⟩

theorem bgDone (u : State) (k : Nat) : Engine u (u.bgDone 0 k) := by
  refine ⟨?_, _, _, rfl⟩
  unfold State.bgDone
  extract_lets l n
  rw [put_eq]
  exact kept_wr _ _ (by decide) (kept_flds rfl (kept_refl u))

theorem ctxs (h : Engine u v) : v.ctxs = u.ctxs := by
  obtain ⟨l, n, e⟩ := h.rest
  rw [e]

theorem ring (h : Engine u v) : v.ring = u.ring := by
  obtain ⟨l, n, e⟩ := h.rest
  rw [e]

theorem fab (h : Engine u v) : v.fab = u.fab := by
  obtain ⟨l, n, e⟩ := h.rest
  rw [e]

theorem sys (h : Engine u v) : v.sys = u.sys := by
  obtain ⟨l, n, e⟩ := h.rest
  rw [e]

theorem sv (h : Engine u v) : v.sv = u.sv := by
  obtain ⟨l, n, e⟩ := h.rest
  rw [e]

theorem sp (h : Engine u v) : v.sp = u.sp := by
  obtain ⟨l, n, e⟩ := h.rest
  rw [e]

theorem rd (h : Engine u v) (f : Fld) (off : f.key ∉ engineFields.map Fld.key) : v.rd f = u.rd f := rd_kept h.kept f off

theorem is (h : Engine u v) (f : Fld) (off : f.key ∉ engineFields.map Fld.key) : v.is f = u.is f := by rw [State.is, h.rd f off, State.is]

theorem hkey (h : Engine u v) : v.hkey = u.hkey := by
  have word : ∀ w ∈ List.range 14, v.rd (CL_HKEY_HKEY w) = u.rd (CL_HKEY_HKEY w) := fun w hw => by
    have off : ∀ w ∈ List.range 14, (CL_HKEY_HKEY w).key ∉ engineFields.map Fld.key := by decide
    exact h.rd _ (off w hw)
  refine List.foldl_ext _ _ _ fun n w hw => ?_
  rw [word w hw]

theorem tblWorking (h : Engine u v) : v.tblWorking = u.tblWorking := by
  unfold State.tblWorking
  congr 1
  funext c
  rw [State.tblPresent, State.sdField, h.sys, State.tblPresent, State.sdField]

theorem tblPos (h : Engine u v) (b : Nat) : v.tblPos b = u.tblPos b := by rw [State.tblPos, h.tblWorking, State.tblPos]

theorem tblOff (h : Engine u v) (b : Nat) : v.tblOff b = u.tblOff b := by rw [State.tblOff, h.tblWorking, State.tblOff]

theorem tblChan (h : Engine u v) (b : Nat) : v.tblChan b = u.tblChan b := by
  unfold State.tblChan State.tblPhys
  rw [h.tblPos, h.sv, h.is SV_INUSE_TBL (by decide), h.rd SV_INUSE_TBL_FOR (by decide)]

theorem bucketServed (h : Engine u v) (b : Nat) : v.bucketServed b = u.bucketServed b := by
  unfold State.bucketServed State.tblIssues
  rw [h.fab, h.tblChan, h.tblWorking, h.sv, h.tblPos]

theorem updCheck (h : Engine u v) (o : UpdOp) : v.updCheck o = u.updCheck o := by
  unfold State.updCheck State.poolQ State.ctx
  rw [h.is CL_CTRL_EN (by decide), h.ctxs]

end Engine

/-! ## One step of the engine -/

section
variable {s : State} {o : UpdOp} {r : List UpdOp} (n : Nat)

theorem updWork_none (ops : s.tbl.ops = []) : updWork n s = s := by
  cases n with
  | zero => rfl
  | succ n => rw [updWork, ops]

theorem updWork_check {st : Nat} (ops : s.tbl.ops = o :: r) (open_ : o.decided = false) (idle : o.reading = none) (check : s.updCheck o = some st) :
    updWork (n + 1) s = updWork n (s.setOp { o with decided := true, status := st }) := by
  rw [updWork, ops]
  simp [open_, idle, check]

theorem updWork_plan {st p m vd : Nat} {a : List UStep} (ops : s.tbl.ops = o :: r) (open_ : o.decided = false) (idle : o.reading = none)
    (check : s.updCheck o = none) (plan : s.updPlan o = (.done st p m a, vd)) : updWork (n + 1) s = updWork n (s.updDecide o st p m a vd) := by
  rw [updWork, ops]
  simp [open_, idle, check, plan]

/-- The state in which the engine has taken a bucket it needs from the cache. -/
def cacheSeen (s : State) (o : UpdOp) (b : Nat) (l : LineC) : State :=
  (((s.setOp { o with known := o.known ++ [(b, l.ents)] }).bump64 CL_CACHE_HIT_LO_COUNT CL_CACHE_HIT_HI_COUNT).pcEvent 718).touch b

theorem updWork_cached {b vd : Nat} {l : LineC} (ops : s.tbl.ops = o :: r) (open_ : o.decided = false) (idle : o.reading = none)
    (check : s.updCheck o = none) (plan : s.updPlan o = (.need b, vd)) (line : s.cline b = some l) :
    updWork (n + 1) s = updWork n (cacheSeen s o b l) := by
  rw [updWork, ops]
  simp [open_, idle, check, plan, line, cacheSeen]

theorem updWork_read {b vd : Nat} (ops : s.tbl.ops = o :: r) (open_ : o.decided = false) (idle : o.reading = none)
    (check : s.updCheck o = none) (plan : s.updPlan o = (.need b, vd)) (line : s.cline b = none) (served : s.bucketServed b = true) :
    updWork (n + 1) s = ((s.setOp { o with reading := some b, reread := false }).pcEvent 719).tblRead .tblUpdRead 0 b := by
  rw [updWork, ops]
  simp [open_, idle, check, plan, line, served]

theorem updWork_writing (ops : s.tbl.ops = o :: r) (decided : o.decided = true) (todo : o.todo = []) (writes : o.writes ≠ 0) :
    updWork (n + 1) s = s := by
  rw [updWork, ops]
  simp [decided, todo, writes]

theorem updWork_end (ops : s.tbl.ops = o :: r) (decided : o.decided = true) (todo : o.todo = []) (writes : o.writes = 0) :
    updWork (n + 1) s = updWork n s.updEndOp := by
  rw [updWork, ops]
  simp [decided, todo, writes]

end

/-! ## The end of the last operation -/

/-- The report of an operation that has ended: a command completes, one of the registers shows in them (R182, R253). -/
def opReport (s : State) (o : UpdOp) : State :=
  match o.cmd with
  | some id => s.cmdDone id o.status (if o.status ≠ sOK then 0
    else if o.op = 4 then o.vd / 2 ^ 12 + 2 ^ 32 * (o.vd % 2 ^ 12) + 2 ^ 48 * o.place
    else if o.op = 1 then o.place + 4 * o.moves else 0)
  | none =>
    let s := (((s.wr CL_UPD_STAT_BUSY 0).wr CL_UPD_STAT_STATUS o.status).wr CL_UPD_STAT_WHERE o.place).wr CL_UPD_STAT_MOVES o.moves
    let s := if o.op = 4 ∧ o.status = sOK then
        ((((((s.wr CL_UPD_VD_LO_CTX (bits o.vd 0 12)).wr CL_UPD_VD_LO_RXQ (bits o.vd 12 6)).wr CL_UPD_VD_LO_METER (bits o.vd 18 14)).wr
          CL_UPD_VD_HI_MEN (bitN o.vd 32)).wr CL_UPD_VD_HI_ACTION (bits o.vd 33 3)).wr CL_UPD_VD_HI_CLASS (bits o.vd 36 3)).wr
          CL_UPD_VD_HI_CLS_OVR (bitN o.vd 39)
      else s
    s.raise CL_EVT_UPD_DONE

/-- The state in which the last operation has left the queue. -/
def opLeft (s : State) : State := (({ s with tbl := { s.tbl with ops := [] } } : State).pcEvent 722).bgDone 0 0

theorem opLeft_tbl (s : State) : (opLeft s).tbl = { s.tbl with ops := [] } := by
  unfold opLeft State.bgDone
  obtain ⟨l, hl⟩ := pcEvent_eq ({ s with tbl := { s.tbl with ops := [] } } : State) 722 {} 1
  rw [hl]
  rfl

theorem engine_opLeft (s : State) : Engine s (opLeft s) :=
  ((Engine.table s { s.tbl with ops := [] }).trans (.pcEvent _ (by decide))).trans (.bgDone ..)

theorem updEndOp_last {s : State} {o : UpdOp} (ops : s.tbl.ops = [o]) (real : o.op ≠ 0) : s.updEndOp = opReport (opLeft s) o := by
  unfold State.updEndOp
  rw [ops]
  dsimp only
  rw [if_neg real]
  rfl

theorem opReport_tbl (s : State) (o : UpdOp) : (opReport s o).tbl = s.tbl := by
  unfold opReport
  cases o.cmd with
  | some id => exact cmdDone_tbl ..
  | none =>
    dsimp only
    split <;> rfl

/-- The last operation ends where it is decided and has nothing more to write. -/
theorem updWork_last {s : State} {o : UpdOp} (n : Nat) (ops : s.tbl.ops = [o]) (real : o.op ≠ 0) (decided : o.decided = true) (todo : o.todo = [])
    (writes : o.writes = 0) : updWork (n + 1) s = opReport (opLeft s) o := by
  rw [updWork_end n ops decided todo writes, updEndOp_last ops real]
  refine updWork_none n ?_
  rw [opReport_tbl, opLeft_tbl]

/-! ## An operation joins an idle engine -/

/-- An operation as it joins the queue. -/
def newOp (op : Nat) (key : List Byte) (vd : Nat) (cmd : Option Nat) : UpdOp := { op := op, key := key, vd := vd, cmd := cmd }

/-- The state in which an idle engine has taken its operation. -/
def joined (u : State) (o : UpdOp) : State := { u.bgBegin 0 0 with tbl := { u.tbl with ops := [o] } }

theorem engine_joined (u : State) (o : UpdOp) : Engine u (joined u o) := (Engine.bgBegin u 0 0).trans (.table _ _)

theorem updQueue_idle {u : State} (ops : u.tbl.ops = []) (o : UpdOp) : u.updQueue o = updWork 100000 (joined u o) := by
  have empty : u.tbl.ops.isEmpty = true := by rw [ops]; rfl
  unfold State.updQueue
  rw [if_pos empty]
  refine congrArg (updWork 100000) ?_
  show ({ u.bgBegin 0 0 with tbl := { u.tbl with ops := u.tbl.ops ++ [o] } } : State) = _
  rw [ops]
  rfl

/-- An operation that a check refuses ends with that check's status. -/
theorem updQueue_refused {u : State} {op st : Nat} {key : List Byte} {vd : Nat} {cmd : Option Nat} (ops : u.tbl.ops = []) (real : op ≠ 0)
    (check : u.updCheck (newOp op key vd cmd) = some st) :
    ∃ v, Engine u v ∧ v.tbl = u.tbl ∧ u.updQueue (newOp op key vd cmd) = opReport v { newOp op key vd cmd with decided := true, status := st } := by
  have same := engine_joined u (newOp op key vd cmd)
  refine ⟨opLeft ((joined u (newOp op key vd cmd)).setOp { newOp op key vd cmd with decided := true, status := st }),
    same.trans (Engine.trans (.table _ _) (engine_opLeft _)), ?_, ?_⟩
  · rw [opLeft_tbl]
    show ({ u.tbl with ops := [] } : TblSt) = u.tbl
    rw [← ops]
  · rw [updQueue_idle ops]
    refine (updWork_check 99999 rfl rfl rfl ((same.updCheck _).trans check)).trans ?_
    exact updWork_last 99998 rfl real rfl rfl rfl

/-- The bucket a key's first hash names (R172). -/
def keyBucket (u : State) (key : List Byte) : Nat := hashH1 (toeplitz (beNat key 0 40) u.hkey)

/-- The signature of a key (R172). -/
def keySig (u : State) (key : List Byte) : Nat := hashSig (toeplitz (beNat key 0 40) u.hkey)

theorem updPlan_real (v : State) (o : UpdOp) (real : o.op ≠ 0) : v.updPlan o =
    (match (⟨o.known, v.tbl.disp, v.tbl.stash⟩ : PlanEnv).find (byteAt o.key 0) (keyBucket v o.key) (keySig v o.key) with
    | .inl b => (.need b, 0)
    | .inr none => (if o.op = 1 then insertPlan ⟨o.known, v.tbl.disp, v.tbl.stash⟩ (keyBucket v o.key) (mkEnt (byteAt o.key 0) (keySig v o.key) 0 o.vd)
        (v.rd CL_LIMITS_MAX_MOVES) else .done sSTATE 0 0 [], 0)
    | .inr (some p) =>
      if o.op = 1 then (.done sSTATE 0 0 [], 0)
      else if o.op = 2 then (.done sOK p.where_ 0 (deletePlan ⟨o.known, v.tbl.disp, v.tbl.stash⟩ (keyBucket v o.key) p), 0)
      else if o.op = 3 then (.done sOK p.where_ 0 (modifyPlan ⟨o.known, v.tbl.disp, v.tbl.stash⟩ p o.vd), 0)
      else (.done sOK p.where_ 0 [], entVd p.ent)) := by
  unfold State.updPlan
  rw [if_neg real]
  rfl

/-- An operation that knows no bucket needs its key's first one. -/
theorem updPlan_new (v : State) {op : Nat} (real : op ≠ 0) (key : List Byte) (vd : Nat) (cmd : Option Nat) :
    v.updPlan (newOp op key vd cmd) = (.need (keyBucket v key), 0) := by
  rw [updPlan_real _ _ real]
  rfl

theorem Engine.keyBucket {u v : State} (h : Engine u v) (key : List Byte) : Proofs.keyBucket v key = Proofs.keyBucket u key := by
  rw [Proofs.keyBucket, h.hkey, Proofs.keyBucket]

theorem Engine.keySig {u v : State} (h : Engine u v) (key : List Byte) : Proofs.keySig v key = Proofs.keySig u key := by
  rw [Proofs.keySig, h.hkey, Proofs.keySig]

theorem cline_of_cache {u v : State} (h : v.tbl.cache = u.tbl.cache) (b : Nat) : v.cline b = u.cline b := by rw [State.cline, h, State.cline]

/-- An idle engine reads the bucket that the plan of its operation needs and the cache does not hold. -/
theorem updQueue_read {u : State} {o : UpdOp} {b vd : Nat} (ops : u.tbl.ops = []) (open_ : o.decided = false) (idle : o.reading = none)
    (check : u.updCheck o = none) (plan : (joined u o).updPlan o = (.need b, vd)) (line : u.cline b = none) (served : u.bucketServed b = true) :
    ∃ v, Engine u v ∧ v.tbl = { u.tbl with ops := [{ o with reading := some b, reread := false }] } ∧ u.updQueue o = v.tblRead .tblUpdRead 0 b := by
  have same := engine_joined u o
  refine ⟨((joined u o).setOp { o with reading := some b, reread := false }).pcEvent 719,
    (same.trans (.table _ _)).trans (.pcEvent _ (by decide)), ?_, ?_⟩
  · obtain ⟨l, hl⟩ := pcEvent_eq ((joined u o).setOp { o with reading := some b, reread := false }) 719 {} 1
    rw [hl]
    rfl
  · rw [updQueue_idle ops]
    exact updWork_read 99999 rfl open_ idle ((same.updCheck _).trans check) plan line ((same.bucketServed b).trans served)

/-! ## The cache holds the bucket -/

theorem Engine.touch (u : State) (b : Nat) : Engine u (u.touch b) := by
  unfold State.touch
  split
  · exact ⟨kept_flds rfl (kept_refl u), u.flds, u.ny, rfl⟩
  · exact .refl u

theorem touch_ops (u : State) (b : Nat) : (u.touch b).tbl.ops = u.tbl.ops := by
  unfold State.touch
  split <;> rfl

theorem engine_cacheSeen (u : State) (o : UpdOp) (b : Nat) (l : LineC) : Engine u (cacheSeen u o b l) :=
  (((Engine.table _ _).trans (.cacheHit _)).trans (.pcEvent _ (by decide))).trans (.touch ..)

theorem cacheSeen_ops {u : State} {o : UpdOp} (ops : u.tbl.ops = [o]) (b : Nat) (l : LineC) :
    (cacheSeen u o b l).tbl.ops = [{ o with known := o.known ++ [(b, l.ents)] }] := by
  unfold cacheSeen
  rw [touch_ops]
  obtain ⟨f, hf⟩ := pcEvent_eq ((u.setOp { o with known := o.known ++ [(b, l.ents)] }).bump64 CL_CACHE_HIT_LO_COUNT CL_CACHE_HIT_HI_COUNT) 718 {} 1
  rw [hf]
  show { o with known := o.known ++ [(b, l.ents)] } :: u.tbl.ops.drop 1 = _
  rw [ops]
  rfl

/-- An operation on an idle engine sees the bucket of its key in the cache. -/
theorem updQueue_cached {u : State} {op : Nat} {key : List Byte} {vd : Nat} {cmd : Option Nat} {line : LineC} (ops : u.tbl.ops = []) (real : op ≠ 0)
    (check : u.updCheck (newOp op key vd cmd) = none) (held : u.cline (keyBucket u key) = some line) :
    ∃ v, Engine u v ∧ v.tbl.ops = [{ newOp op key vd cmd with known := [(keyBucket u key, line.ents)] }] ∧
      v = cacheSeen (joined u (newOp op key vd cmd)) (newOp op key vd cmd) (keyBucket u key) line ∧
      u.updQueue (newOp op key vd cmd) = updWork 99999 v := by
  have same := engine_joined u (newOp op key vd cmd)
  refine ⟨_, same.trans (engine_cacheSeen ..), cacheSeen_ops rfl _ _, rfl, ?_⟩
  rw [updQueue_idle ops]
  exact updWork_cached 99999 rfl rfl rfl ((same.updCheck _).trans check) ((updPlan_new _ real _ _ _).trans (by rw [same.keyBucket])) held

/-- A key is found in its first bucket. -/
theorem find_first {v : PlanEnv} {type h1 sig : Nat} {l : List Nat} {e : Nat × Nat} (bucket : v.bucket h1 = some l)
    (hit : matchIn l type sig 0 = some e) : v.find type h1 sig = .inr (some ⟨0, h1, e.1, e.2⟩) := by
  unfold PlanEnv.find
  rw [bucket]
  dsimp only
  rw [hit]

/-- A query that finds its key in the cache ends with the entry's verdict. -/
theorem updQueue_query {u : State} {key : List Byte} {vd i x : Nat} {cmd : Option Nat} {line : LineC} (ops : u.tbl.ops = [])
    (check : u.updCheck (newOp 4 key vd cmd) = none) (held : u.cline (keyBucket u key) = some line)
    (found : matchIn line.ents (byteAt key 0) (keySig u key) 0 = some (i, x)) :
    ∃ v o, Engine u v ∧ v.tbl.ops = [] ∧ o.op = 4 ∧ o.status = sOK ∧ o.vd = entVd x ∧ o.place = 0 ∧ o.moves = 0 ∧ o.cmd = cmd ∧
      u.updQueue (newOp 4 key vd cmd) = opReport v o := by
  obtain ⟨v, same, vops, -, work⟩ := updQueue_cached ops (by decide) check held
  let o : UpdOp := { newOp 4 key vd cmd with known := [(keyBucket u key, line.ents)] }
  have plan : v.updPlan o = (.done sOK 0 0 [], entVd x) := by
    rw [updPlan_real v o (show (4 : Nat) ≠ 0 by decide)]
    have bucket : (⟨o.known, v.tbl.disp, v.tbl.stash⟩ : PlanEnv).bucket (keyBucket v o.key) = some line.ents := by
      rw [same.keyBucket]
      simp [PlanEnv.bucket, o, newOp]
    have hit : matchIn line.ents (byteAt o.key 0) (keySig v o.key) 0 = some (i, x) := by
      rw [same.keySig]
      exact found
    rw [find_first bucket hit]
    simp [o, newOp]
  let d : UpdOp := { o with decided := true, status := sOK, place := 0, moves := 0, vd := entVd x, todo := [] }
  refine ⟨opLeft (v.setOp d), d, same.trans (Engine.trans (.table _ _) (engine_opLeft _)), by rw [opLeft_tbl], rfl, rfl, rfl, rfl, rfl, rfl, ?_⟩
  rw [work]
  refine (updWork_plan 99998 vops rfl rfl ((same.updCheck _).trans check) plan).trans ?_
  have last : v.updDecide o sOK 0 0 [] (entVd x) = v.setOp d := rfl
  rw [last]
  refine updWork_last 99997 ?_ (show (4 : Nat) ≠ 0 by decide) rfl rfl rfl
  show d :: v.tbl.ops.drop 1 = [d]
  rw [vops]
  rfl

end Sys2Proof.Proofs
end

section
/-! PROOFS. The rates of a shaper (R208). -/

namespace Sys2Proof.Proofs

open Sys2Proof.Machine Sys2Proof.Laws

set_option Elab.async false

/-- The group whose `EN` would lie where the consumer index of the command ring is. -/
def strayGroup : Nat := (HR_CMD_STAT_CI.off - (GP_GRP_CFG_EN 0).off) / 8

/-- A `SHAPER_SET` of the first queue, for class 0 of channel 0. -/
def rateEntry : List Byte := 0x30 :: List.replicate 63 0

/-- The command waits, its context owns the queue, and pair 0 has that group as its protecting one. -/
def strayProtection : State :=
  (((({ running with ring := { heads := [rateEntry] }, qs := [(0, { owned := true })] } : State).wr HR_CMD_CFG_EN 1).wr
    (SC_CH_STG_STG_KIB 0) 4).wr (GP_PAIR_CFG_EN 0) 1).wr ⟨(GP_PAIR_CFG_PROT 0).off, (GP_PAIR_CFG_PROT 0).lo, 32⟩ strayGroup

/-- Refutes O52: the command is judged after its start has moved the ring's consumer index, and with it whether the channel is a protecting one. The
clause bounds no register to its width. -/
theorem not_endpointAndShaperCommands : ¬ Obligations.EndpointAndShaperCommands := by
  intro h
  obtain ⟨-, -, shaper⟩ := h rateEntry strayProtection rfl (by decide +kernel) (by decide +kernel) (by decide +kernel)
  obtain ⟨-, -, commit, -⟩ := shaper 0 rfl (by decide +kernel) (by decide +kernel) (by decide +kernel)
  obtain ⟨t, run, -, set⟩ := commit rfl (by decide) (by decide +kernel)
  have locked : ((after .shaperSet strayProtection).shap 0).locked = true := by rw [after_eq run, set]
  exact absurd locked (by decide +kernel)

end Sys2Proof.Proofs
end

section
/-! PROOFS. The command ring: its registers, reads and completions (R249 to R256). -/

namespace Sys2Proof.Proofs

open Sys2Proof.Machine Sys2Proof.Laws

set_option Elab.async false

/-! ## Registers that no count of an access reaches -/

/-- Keys below the performance unit, but for the table's read counter, which beats count too. -/
def unitKey (k : Nat) : Prop := k < 0x1D0000 * 32 ∧ k ≠ CL_READS_LO_COUNT.key ∧ k ≠ CL_READS_HI_COUNT.key

theorem pcFields_not_unit (e : Nat) : ∀ f ∈ pcFields e, ¬ unitKey f.key := by
  simp only [pcFields, List.forall_mem_cons, Fld.key, unitKey, PC_CNT_LO_COUNT, PC_CNT_HI_COUNT, PC_OVF_OVF, NY_EVT_PC_OVF,
    CL_READS_LO_COUNT, CL_READS_HI_COUNT]
  refine ⟨?_, ?_, ?_, ?_, by simp⟩ <;> omega

theorem crossed_units (s : State) (x n : Nat) : KeptAt unitKey s (s.crossed x n) := by
  refine .of_kept (fs := [SYS_XING_STAT_OCC_MAX x, SYS_XING_STAT_LAT_MAX x]) (kept_crossed _ _ (by simp) (by simp) (kept_refl s)) ?_
  simp only [List.forall_mem_cons, Fld.key, unitKey, SYS_XING_STAT_OCC_MAX, SYS_XING_STAT_LAT_MAX]
  refine ⟨?_, ?_, by simp⟩ <;> omega

theorem settleBeats_units (s : State) : KeptAt unitKey s s.settleBeats := by
  refine KeptAt.each (s := { s with fab := { s.fab with sent := [] } }) fun t e _ => ?_
  have event : KeptAt unitKey t (t.pcEvent e.1 { addr := some e.2.1 } e.2.2) := .of_kept (kept_pcEvent _ _ _ _) (pcFields_not_unit _)
  split
  · exact .of_kept (fs := [CL_READS_LO_COUNT, CL_READS_HI_COUNT]) (kept_wr _ _ (by simp) (kept_wr _ _ (by simp) (kept_refl t)))
      (by simp [unitKey])
  · dsimp only
    split
    · exact event.trans (crossed_units _ _ _)
    · exact event

theorem portCounts_not_unit : ∀ f ∈ portCounts, ¬ unitKey f.key := by unfold unitKey; decide

theorem spCount_units (s : State) (w : Who) (b : Bool) (off : Nat) : KeptAt unitKey s (s.settleBeats.spCount w b off) :=
  (settleBeats_units s).trans (.of_kept (kept_spCount _ _ _ _) portCounts_not_unit)

section
variable (s : State) (w : Who) (off : Nat)

/-- A unit's register as a served write finds it. -/
theorem served_rd {f : Fld} (h : unitKey f.key) : (served s w off).rd f = s.rd f := spCount_units s w true off _ h

theorem served_is {f : Fld} (h : unitKey f.key) : (served s w off).is f = s.is f := congrArg (· == 1) (served_rd s w off h)

theorem served_same {p : Part} (hr : p ≠ .regs) (hf : p ≠ .fab) : Same s (served s w off) p := same_spCount_settleBeats s w true off hr hf

theorem served_ring : (served s w off).ring = s.ring := served_same s w off (p := .ring) (by decide) (by decide)

theorem kept_served : Kept portCounts s.settleBeats (served s w off) := kept_spCount _ _ _ _

end

/-! ## The ring's registers (R249, R256) -/

/-- A command ring that is off is set up and enabled. -/
def ringOn (u : State) (v : Nat) : State :=
  { (((u.wr HR_CMD_CFG_LOG2 (bits v 8 4)).raise HR_CMD_CFG_EN).wr HR_CMD_STAT_CI 0) with ring := { u.ring with cpi := 0 } }

theorem cmdCfg_on {u : State} {v : Nat} (off : u.is HR_CMD_CFG_EN = false) (on : bitN v 0 = 1) : u.cmdCfg v = (ringOn u v).cmdFetch := by
  unfold State.cmdCfg
  dsimp only
  rw [off, if_pos on]
  rfl

/-- The ring is off, and what was read of it is forgotten. -/
def ringOff (u : State) : State := ((u.wr HR_CMD_CFG_EN 0).wr HR_CMD_STAT_HALTED 0).forgetCmdRead

theorem ringOff_is_en (u : State) : (ringOff u).is HR_CMD_CFG_EN = false := by
  show (State.wr (State.wr u HR_CMD_CFG_EN 0) HR_CMD_STAT_HALTED 0).is HR_CMD_CFG_EN = false
  exact (is_wr_ne (by omega)).trans is_wr_zero

theorem ringOff_halted (u : State) : (ringOff u).is HR_CMD_STAT_HALTED = false := by
  show (State.wr _ HR_CMD_STAT_HALTED 0).is HR_CMD_STAT_HALTED = false
  exact is_wr_zero

theorem cmdCfg_off {u : State} {v : Nat} (off : bitN v 0 ≠ 1) :
    ∃ l, u.cmdCfg v = ringOff { u with flds := l } := by
  unfold State.cmdCfg
  dsimp only
  rw [if_neg off]
  split
  · exact ⟨_, rfl⟩
  · split
    · exact ⟨u.flds, rfl⟩
    · exact ⟨_, rfl⟩

theorem ringOn_is_en (u : State) (v : Nat) : (ringOn u v).is HR_CMD_CFG_EN = true := by
  show (State.wr _ HR_CMD_STAT_CI 0).is HR_CMD_CFG_EN = true
  exact (is_wr_ne (by omega)).trans is_raise

theorem ringOn_log2 (u : State) (v : Nat) : (ringOn u v).rd HR_CMD_CFG_LOG2 = bits v 8 4 := by
  show (State.wr (State.raise (State.wr u HR_CMD_CFG_LOG2 _) HR_CMD_CFG_EN) HR_CMD_STAT_CI 0).rd HR_CMD_CFG_LOG2 = _
  refine (rd_wr_ne (by omega)).trans ((rd_wr_ne (by omega)).trans ((rd_wr_same ..).trans (Nat.mod_eq_of_lt ?_)))
  exact Nat.mod_lt _ (by decide)

theorem ringOn_ci (u : State) (v : Nat) : (ringOn u v).rd HR_CMD_STAT_CI = 0 := by
  show (State.wr _ HR_CMD_STAT_CI 0).rd HR_CMD_STAT_CI = 0
  exact rd_wr_same ..

theorem testBit_toNat_zero (v : Word) : v.toNat.testBit 0 = v.getLsbD 0 := rfl

theorem enableWrite_on {w : Who} {v : Word} {s : State} (serves : s.serves w 0x100010 4 = true) (off : s.is HR_CMD_CFG_EN = false)
    (on : v.getLsbD 0 = true) :
    ∃ t, exec (.cmdEnableWrite w v) s = .next t ∧ t.sp = ⟨true, 0⟩ ∧ t.is HR_CMD_CFG_EN = true ∧ t.rd HR_CMD_CFG_LOG2 = bits v.toNat 8 4 ∧
      t.rd HR_CMD_STAT_CI = 0 ∧ t.ring.cpi = 0 := by
  have set : bitN v.toNat 0 = 1 := by
    have := mt bitN_eq_zero.1 (by rw [testBit_toNat_zero, on]; decide)
    have : bitN v.toNat 0 < 2 := Nat.mod_lt _ (by decide)
    omega
  have run : exec (.cmdEnableWrite w v) s = .next ((ringOn (served s w 0x100010) v.toNat).cmdFetch.okay 0) := by
    rw [← cmdCfg_on ((served_is s w _ (by unfold unitKey; decide)).trans off) set]
    exact congrArg Host.Outcome.next (guardWrite_served serves _)
  have flds := cmdFetch_flds (ringOn (served s w 0x100010) v.toNat)
  have rd (f : Fld) : ((ringOn (served s w 0x100010) v.toNat).cmdFetch.okay 0).rd f = (ringOn (served s w 0x100010) v.toNat).rd f := rd_congr flds f
  refine ⟨_, run, rfl, ?_, ?_, ?_, congrArg RingSt.cpi (cmdFetch_ring _)⟩
  · rw [State.is, rd]
    exact ringOn_is_en ..
  · rw [rd, ringOn_log2]
  · rw [rd, ringOn_ci]

theorem enableWrite_off {w : Who} {v : Word} {s : State} (serves : s.serves w 0x100010 4 = true) (off : v.getLsbD 0 = false) :
    ∃ t, exec (.cmdEnableWrite w v) s = .next t ∧ t.sp = ⟨true, 0⟩ ∧ t.is HR_CMD_CFG_EN = false ∧ t.is HR_CMD_STAT_HALTED = false ∧
      t.ring.heads = [] ∧ t.ring.active = s.ring.active := by
  have clear : bitN v.toNat 0 ≠ 1 := by rw [bitN_eq_zero.2 off]; decide
  obtain ⟨l, hl⟩ := cmdCfg_off (u := served s w 0x100010) clear
  have run : exec (.cmdEnableWrite w v) s = .next ((ringOff { served s w 0x100010 with flds := l }).okay 0) := by
    rw [← hl]
    exact congrArg Host.Outcome.next (guardWrite_served serves _)
  refine ⟨_, run, rfl, ringOff_is_en _, ringOff_halted _, rfl, ?_⟩
  have same : (served s w 0x100010).ring.active = s.ring.active := by rw [served_ring]
  exact same

/-- The refusal of a producer index (R249). -/
def badIndex (s : State) (pi : Nat) : Prop := 2 ^ (s.cmdLog2 + 1) ≤ pi ∨ 2 ^ s.cmdLog2 < occ s.cmdLog2 pi (s.rd HR_CMD_STAT_CI)

theorem badIndex_served (s : State) (w : Who) (off pi : Nat) : badIndex (served s w off) pi ↔ badIndex s pi := by
  have log : (served s w off).cmdLog2 = s.cmdLog2 := by rw [State.cmdLog2, served_rd s w off (by unfold unitKey; decide), State.cmdLog2]
  rw [badIndex, log, served_rd s w off (by unfold unitKey; decide), badIndex]

theorem piWrite_ends {w : Who} {v : Word} {s : State} (serves : s.serves w 0x100014 4 = true) :
    ∃ t, exec (.cmdPiWrite w v) s = .next t ∧ t.sp = ⟨true, 0⟩ ∧
      (let pi := v.toNat % 2 ^ 16
      if 2 ^ (s.cmdLog2 + 1) ≤ pi ∨ 2 ^ s.cmdLog2 < occ s.cmdLog2 pi (s.rd HR_CMD_STAT_CI)
        then t.ring = s.ring ∧ t.rd HR_CFG_REJ_COUNT = upBy s HR_CFG_REJ_COUNT 1 ∧ Kept (HR_CFG_REJ_COUNT :: portCounts) s.settleBeats t
        else t.rd HR_CMD_PI_PI = pi ∧ Kept (HR_CMD_PI_PI :: portCounts) s.settleBeats t) := by
  have kept := kept_served s w 0x100014
  have run : exec (.cmdPiWrite w v) s = .next (((served s w 0x100014).cmdPi v.toNat).okay 0) :=
    congrArg Host.Outcome.next (guardWrite_served serves _)
  have judged := badIndex_served s w 0x100014 (v.toNat % 2 ^ 16)
  refine ⟨_, run, rfl, ?_⟩
  by_cases bad : badIndex s (v.toNat % 2 ^ 16)
  · rw [show (served s w 0x100014).cmdPi v.toNat = (served s w 0x100014).hrReject from if_pos (judged.2 bad)]
    refine (if_pos bad).mpr ⟨served_ring s w _, ?_, ?_⟩
    · refine (rd_bump_same ..).trans (upBy_congr (served_rd s w _ ?_))
      unfold unitKey
      decide
    · exact kept_flds rfl (kept_append (fs := [HR_CFG_REJ_COUNT]) kept (kept_bump _ _))
  · rw [show (served s w 0x100014).cmdPi v.toNat = ((served s w 0x100014).wr HR_CMD_PI_PI (v.toNat % 2 ^ 16)).cmdFetch from
      if_neg (mt judged.1 bad)]
    have flds := cmdFetch_flds ((served s w 0x100014).wr HR_CMD_PI_PI (v.toNat % 2 ^ 16))
    refine (if_neg bad).mpr ⟨?_, ?_⟩
    · refine (rd_congr flds _).trans ((rd_wr_same ..).trans (Nat.mod_eq_of_lt ?_))
      exact Nat.mod_lt _ (by decide)
    · exact kept_flds flds (kept_append (fs := [HR_CMD_PI_PI]) kept (kept_wr _ _ (by simp) (kept_refl _)))

/-! ## Reads of commands and answers of completions (R255, R256) -/

theorem cmdUnknown_none {u : State} (heads : u.ring.heads = []) : u.cmdUnknown = u := by rw [State.cmdUnknown, heads]

theorem cmdUnknown_known {u : State} {e : List Byte} {r : List (List Byte)} (heads : u.ring.heads = e :: r)
    (known : knownOps.contains (byteAt e 0) = true) : u.cmdUnknown = u := by
  rw [State.cmdUnknown, heads]
  simp only [known, Bool.true_or, if_true]

theorem cmdUnknown_bad {u : State} {e : List Byte} {r : List (List Byte)} (heads : u.ring.heads = e :: r)
    (unknown : knownOps.contains (byteAt e 0) = false) (start : u.cmdMayStart e = true) :
    u.cmdUnknown = u.cmdTake.cmdWrite u.ring.nextId (cmdOf e) sBADARG 0 := by
  rw [State.cmdUnknown, heads]
  simp only [unknown, start, Bool.not_true, Bool.or_false, Bool.false_eq_true, if_false]

/-- The ring halts: the registers that show it. -/
theorem kept_cmdHalt (u : State) : Kept [HR_CMD_STAT_HALTED, HR_EVT_CMD_HALT] u u.cmdHalt :=
  kept_wr _ _ (by simp) (kept_wr _ _ (by simp) (kept_refl u))

theorem cmdHalt_halted (u : State) : u.cmdHalt.is HR_CMD_STAT_HALTED = true := by
  show (State.raise (State.raise u HR_CMD_STAT_HALTED) HR_EVT_CMD_HALT).is HR_CMD_STAT_HALTED = true
  exact (is_wr_ne (by omega)).trans is_raise

theorem cmdHalt_evt (u : State) : u.cmdHalt.is HR_EVT_CMD_HALT = true := by
  show (State.raise _ HR_EVT_CMD_HALT).is HR_EVT_CMD_HALT = true
  exact is_raise

/-- The ring after its read has answered. -/
def readDone (u : State) : State := { u with ring := { u.ring with reading := false } }

theorem exec_commandReadResponse {d : Deliv} {u s : State} (answer : s.response .cmdRead = some (d, u)) (current : d.a = 0) :
    exec .commandReadResponse s = .next (if d.resp ≠ .okay then (readDone u).cmdHalt
      else ({ readDone u with ring := { (readDone u).ring with heads := [d.data] } } : State).cmdUnknown) := by
  show execCommandReadResponse s = _
  unfold execCommandReadResponse
  rw [answer]
  dsimp only
  rw [if_neg (not_not.2 current)]
  rfl

/-- The ring with the entry read at its head. -/
def headRead (u : State) (e : List Byte) : State := { u with ring := { u.ring with reading := false, heads := [e] } }

theorem exec_commandRead_okay {d : Deliv} {u s : State} (answer : s.response .cmdRead = some (d, u)) (current : d.a = 0) (okay : d.resp = .okay) :
    exec .commandReadResponse s = .next (headRead u d.data).cmdUnknown := by
  rw [exec_commandReadResponse answer current, if_neg (not_not.2 okay)]
  rfl

theorem commandRead_known {d : Deliv} {u s : State} (answer : s.response .cmdRead = some (d, u)) (current : d.a = 0) (okay : d.resp = .okay)
    (known : knownOps.contains (byteAt d.data 0) = true) :
    ∃ t, exec .commandReadResponse s = .next t ∧ t.ring = { s.ring with reading := false, heads := [d.data] } ∧ t.flds = s.flds := by
  refine ⟨_, exec_commandRead_okay answer current okay, ?_⟩
  rw [cmdUnknown_known (e := d.data) (r := []) rfl known]
  obtain ⟨rest, rfl⟩ := response_eq answer
  exact ⟨rfl, rfl⟩

theorem commandRead_fault {d : Deliv} {u s : State} (answer : s.response .cmdRead = some (d, u)) (current : d.a = 0) (bad : d.resp ≠ .okay) :
    ∃ t, exec .commandReadResponse s = .next t ∧ t.ring = { s.ring with reading := false } ∧ t.is HR_CMD_STAT_HALTED = true ∧
      t.is HR_EVT_CMD_HALT = true ∧ Kept [HR_CMD_STAT_HALTED, HR_EVT_CMD_HALT] s t := by
  refine ⟨_, (exec_commandReadResponse answer current).trans (by rw [if_pos bad]), ?_, cmdHalt_halted _, cmdHalt_evt _,
    kept_trans ?_ (kept_cmdHalt _)⟩
  · obtain ⟨rest, rfl⟩ := response_eq answer
    rfl
  · obtain ⟨rest, rfl⟩ := response_eq answer
    exact kept_flds rfl (kept_refl s)

theorem cmdWrite_heads (u : State) (id : Nat) (c : CmdSt) (st res : Nat) : (u.cmdWrite id c st res).ring.heads = u.ring.heads ∧
    (u.cmdWrite id c st res).ring.active = u.ring.active ∧ (u.cmdWrite id c st res).ring.nextId = u.ring.nextId := by
  unfold State.cmdWrite
  extract_lets v n i
  have same : v.ring = u.ring := by
    unfold v
    split <;> rfl
  have kept : v.ring.heads = u.ring.heads ∧ v.ring.active = u.ring.active ∧ v.ring.nextId = u.ring.nextId := by
    rw [same]
    exact ⟨rfl, rfl, rfl⟩
  split
  · exact kept
  · exact kept

theorem commandRead_unknown {d : Deliv} {u s : State} (answer : s.response .cmdRead = some (d, u)) (current : d.a = 0) (okay : d.resp = .okay)
    (unknown : knownOps.contains (byteAt d.data 0) = false) (start : s.cmdMayStart d.data = true) (en : s.is HR_CMD_CFG_EN = true) :
    ∃ t, exec .commandReadResponse s = .next t ∧ t.ring.heads = [] ∧ t.ring.active = s.ring.active ∧
      ∃ r ∈ t.fab.reqs, r.kind = .cmdCmpl ∧ r.addr = slotAddr s.cmdcBase s.cmdLog2 s.ring.cpi 32 ∧
        r.data = cmplEntry (cmdOf d.data) sBADARG 0 (phase s.cmdLog2 s.ring.cpi) := by
  have read : RingKept s (headRead u d.data) ∧ (headRead u d.data).ring.active = s.ring.active := by
    obtain ⟨rest, rfl⟩ := response_eq answer
    exact ⟨⟨rfl, rfl, rfl, rfl, rfl⟩, rfl⟩
  obtain ⟨ring, active⟩ := read
  refine ⟨_, exec_commandRead_okay answer current okay, ?_⟩
  have may : (headRead u d.data).cmdMayStart d.data = true := by
    rw [State.cmdMayStart, active]
    exact start
  rw [cmdUnknown_bad (e := d.data) (r := []) rfl unknown may]
  have taken : RingKept s (headRead u d.data).cmdTake :=
    ring.trans (.of_kept (kept_cmdTake _) (by rw [cmdTake_ring]) (by decide))
  obtain ⟨heads, act, -⟩ := cmdWrite_heads (headRead u d.data).cmdTake (headRead u d.data).ring.nextId (cmdOf d.data) sBADARG 0
  refine ⟨by rw [heads, cmdTake_ring]; rfl, by rw [act, cmdTake_ring]; exact active, ?_⟩
  obtain ⟨r, mem, kind, -, -, addr, data, -⟩ := (cmdWrite_asked taken en (headRead u d.data).ring.nextId (cmdOf d.data) sBADARG 0).mem
  exact ⟨r, mem, kind, addr, data⟩

theorem exec_commandCompletionResponse {d : Deliv} {u s : State} (answer : s.response .cmdCmpl = some (d, u)) :
    exec .commandCompletionResponse s = .next (if d.resp = .okay then u.raise HR_EVT_CMD_DONE else u.cmdHalt) := by
  show execCommandCompletionResponse s = _
  unfold execCommandCompletionResponse
  rw [answer]

theorem commandCompletion_ends {d : Deliv} {u s : State} (answer : s.response .cmdCmpl = some (d, u)) :
    ∃ t, exec .commandCompletionResponse s = .next t ∧ t.ring = s.ring ∧
      (if d.resp = .okay then t.is HR_EVT_CMD_DONE = true ∧ Kept [HR_EVT_CMD_DONE] s t
        else t.is HR_CMD_STAT_HALTED = true ∧ t.is HR_EVT_CMD_HALT = true ∧ Kept [HR_CMD_STAT_HALTED, HR_EVT_CMD_HALT] s t) := by
  have ring : u.ring = s.ring := response_ring answer
  have flds : u.flds = s.flds := response_flds answer
  refine ⟨_, exec_commandCompletionResponse answer, ?_⟩
  split
  case isTrue => exact ⟨ring, is_raise, kept_wr _ _ (by simp) (kept_flds flds (kept_refl s))⟩
  case isFalse => exact ⟨ring, cmdHalt_halted u, cmdHalt_evt u, kept_trans (kept_flds flds (kept_refl s)) (kept_cmdHalt u)⟩

/-! ## Commands (R251 to R253) -/

/-- Each command of the ring, with its `OP` and the operand bits it may set. -/
def ringCommands : List (Instr × Nat × List (Nat × Nat × Nat)) :=
  [(.cmdNop, 0, []), (.ctxCreate, 1, [(8, 0, 7), (9, 0, 7)]), (.ctxDestroy, 2, []), (.ctxReset, 3, [(8, 0, 1)]), (.ctxFreeze, 4, []),
    (.ctxSave, 5, [(8, 0, 64)]), (.ctxRestore, 6, [(8, 0, 64)]), (.ctxResume, 7, []),
    (.dirtyStart, 8, [(8, 0, 64), (0x10, 0, 64), (0x18, 0, 32)]), (.dirtyStop, 9, []), (.txqSetup, 0x10, setupMask), (.rxqSetup, 0x11, setupMask),
    (.qStop, 0x12, [(8, 0, 6), (8, 6, 1)]), (.qRestart, 0x13, [(8, 0, 6), (8, 6, 1)]), (.qTeardown, 0x14, [(8, 0, 6), (8, 6, 1)]),
    (.evqSetup, 0x15, [(9, 0, 4), (10, 0, 6), (10, 6, 1), (0x10, 0, 64)]), (.evqTeardown, 0x16, []),
    (.vecSet, 0x17, [(8, 0, 6), (8, 6, 1), (9, 0, 8), (10, 0, 16), (12, 0, 32), (0x10, 0, 64)]),
    (.epInsert, 0x20, [(8, 0, 320), (0x30, 0, 28)]), (.epDelete, 0x21, [(8, 0, 320)]), (.epModify, 0x22, [(8, 0, 320), (0x30, 0, 28)]),
    (.epQuery, 0x23, [(8, 0, 320)]),
    (.shaperSet, 0x30, [(8, 0, 15), (10, 0, 1), (12, 0, 32), (0x10, 0, 24), (0x14, 0, 9), (0x18, 0, 14)])]

/-- Every command is run in the same way, with a form check and an effect of its own. -/
theorem exec_ringCommand : ∀ p ∈ ringCommands, ∃ form f, ∀ s, exec p.1 s = .next (s.runCmd p.2.1 p.2.2 form f) := by
  simp only [ringCommands, List.forall_mem_cons]
  refine ⟨⟨_, _, fun _ => rfl⟩, ⟨_, _, fun _ => rfl⟩, ⟨_, _, fun _ => rfl⟩, ⟨_, _, fun _ => rfl⟩, ⟨_, _, fun _ => rfl⟩, ⟨_, _, fun _ => rfl⟩,
    ⟨_, _, fun _ => rfl⟩, ⟨_, _, fun _ => rfl⟩, ⟨_, _, fun _ => rfl⟩, ⟨_, _, fun _ => rfl⟩, ⟨_, _, fun _ => rfl⟩, ⟨_, _, fun _ => rfl⟩,
    ⟨_, _, fun _ => rfl⟩, ⟨_, _, fun _ => rfl⟩, ⟨_, _, fun _ => rfl⟩, ⟨_, _, fun _ => rfl⟩, ⟨_, _, fun _ => rfl⟩, ⟨_, _, fun _ => rfl⟩,
    ⟨_, _, fun _ => rfl⟩, ⟨_, _, fun _ => rfl⟩, ⟨_, _, fun _ => rfl⟩, ⟨_, _, fun _ => rfl⟩, ⟨_, _, fun _ => rfl⟩, by simp⟩

theorem runCmd_none {s : State} (heads : s.ring.heads = []) (op : Nat) (l : List (Nat × Nat × Nat)) (form : CmdSt → State → Bool)
    (f : Nat → CmdSt → State → State) : s.runCmd op l form f = s := by
  unfold State.runCmd State.cmdStart
  rw [heads]

/-- A command that sets a bit it may not set ends `BADARG`. -/
theorem runCmd_malformed {s : State} {e : List Byte} {r : List (List Byte)} {op : Nat} {l : List (Nat × Nat × Nat)} (heads : s.ring.heads = e :: r)
    (start : s.cmdMayStart e = true) (runs : s.islandRuns 5 = true) (hop : byteAt e 0 = op) (form : (cmdOf e).formOk l = false)
    (p : CmdSt → State → Bool) (f : Nat → CmdSt → State → State) :
    s.runCmd op l p f = (begun s e).cmdDone s.ring.nextId sBADARG ((cmdOf e).refused (begun s e)) := by
  unfold State.runCmd
  rw [cmdStart_eq heads start runs hop]
  simp only [form, Bool.false_and, Bool.false_eq_true, if_false]

section
variable {s : State} {e : List Byte}

theorem begun_refused : (cmdOf e).refused (begun s e) = (cmdOf e).refused s := by
  have queue : (fun k => ((begun s e).q k).ci) = fun k => (s.q k).ci := funext fun k => congrArg QSt.ci (begun_q s e k)
  have shap : (fun i => ((begun s e).shap i).gen) = fun i => (s.shap i).gen := by
    funext i
    rw [State.shap, begun_shaps, State.shap]
  have names : (cmdOf e).shaper (begun s e) = (cmdOf e).shaper s := by
    unfold CmdSt.shaper
    dsimp only
    rw [begun_q]
  unfold CmdSt.refused
  rw [queue_begun, names, queue, shap]

theorem begun_nextId : (begun s e).ring.nextId = s.ring.nextId + 1 := by
  rw [begun_eq, cmdTake_ring]
  rfl

theorem begun_ci : (begun s e).rd HR_CMD_STAT_CI = nextIdx s.cmdLog2 (s.rd HR_CMD_STAT_CI) % 2 ^ 16 := by
  have log (u v : State) (h : v.rd HR_CMD_CFG_LOG2 = u.rd HR_CMD_CFG_LOG2) : v.cmdLog2 = u.cmdLog2 := by rw [State.cmdLog2, h, State.cmdLog2]
  rw [begun_eq, rd_congr (cmdTake_flds _), rd_wr_same]
  have ci (n : Nat) (u : State) : (u.wr HR_CMD_STAT_ACTIVE n).rd HR_CMD_STAT_CI = u.rd HR_CMD_STAT_CI := rd_wr_ne (by omega)
  have set (n : Nat) (u : State) : (u.wr HR_CMD_STAT_ACTIVE n).rd HR_CMD_CFG_LOG2 = u.rd HR_CMD_CFG_LOG2 := rd_wr_ne (by omega)
  unfold State.refreshActive
  rw [ci, log _ _ (set _ _)]
  rfl

/-- A command that only ends, other than with `STATE`, leaves the ring, and its entry goes out. -/
theorem begun_cmdDone_ring (heads : s.ring.heads = [e]) (en : s.is HR_CMD_CFG_EN = true) {st : Nat} (quiet : st ≠ sSTATE) (res : Nat) :
    let t := (begun s e).cmdDone s.ring.nextId st res
    t.ring.heads = [] ∧ t.ring.nextId = s.ring.nextId + 1 ∧ t.rd HR_CMD_STAT_CI = nextIdx s.cmdLog2 (s.rd HR_CMD_STAT_CI) % 2 ^ 16 ∧
      t.ring.cpi = nextIdx s.cmdLog2 s.ring.cpi := by
  intro t
  let v : State := ({ begun s e with ring := { (begun s e).ring with active := mapErase s.ring.nextId (begun s e).ring.active } } :
    State).refreshActive
  have same := begun_ring s e
  have von : v.is HR_CMD_CFG_EN = true := by
    have reg : v.is HR_CMD_CFG_EN = (begun s e).is HR_CMD_CFG_EN := is_wr_ne (by omega)
    rw [reg, same.is_en, en]
  have vlog : v.cmdLog2 = s.cmdLog2 := by
    have reg : v.rd HR_CMD_CFG_LOG2 = (begun s e).rd HR_CMD_CFG_LOG2 := rd_wr_ne (by omega)
    rw [← same.cmdLog2_eq, State.cmdLog2, reg, State.cmdLog2]
  obtain ⟨vheads, -, vnext⟩ := cmdWrite_heads v s.ring.nextId (cmdOf e) st res
  have none : (v.cmdWrite s.ring.nextId (cmdOf e) st res).ring.heads = [] := vheads.trans (begun_heads heads)
  have ht : t = v.cmdWrite s.ring.nextId (cmdOf e) st res := by
    show (begun s e).cmdDone s.ring.nextId st res = _
    unfold State.cmdDone
    rw [begun_active]
    exact cmdUnknown_none none
  have wrote : (v.cmdWrite s.ring.nextId (cmdOf e) st res).flds = v.flds ∧
      (v.cmdWrite s.ring.nextId (cmdOf e) st res).ring.cpi = nextIdx v.cmdLog2 v.ring.cpi := by
    unfold State.cmdWrite
    rw [if_neg quiet]
    dsimp only
    rw [if_pos von]
    exact ⟨rfl, rfl⟩
  obtain ⟨flds, cpi⟩ := wrote
  rw [ht]
  refine ⟨none, vnext.trans begun_nextId, ?_, ?_⟩
  · rw [rd_congr flds]
    have reg : v.rd HR_CMD_STAT_CI = (begun s e).rd HR_CMD_STAT_CI := rd_wr_ne (by omega)
    rw [reg, begun_ci]
  · rw [cpi, vlog]
    exact congrArg _ same.cpi

/-- A command that does nothing, or sets a bit it may not set, ends and changes no context and no queue. -/
theorem plainCommand_ends (heads : s.ring.heads = [e]) (start : s.cmdMayStart e = true) (runs : s.islandRuns 5 = true)
    (en : s.is HR_CMD_CFG_EN = true) {p : Instr × Nat × List (Nat × Nat × Nat)} (hp : p ∈ ringCommands) (hop : byteAt e 0 = p.2.1)
    (plain : p.1 = .cmdNop ∨ (cmdOf e).formOk p.2.2 = false) :
    ∃ t, exec p.1 s = .next t ∧ t.ring.heads = [] ∧ t.ring.nextId = s.ring.nextId + 1 ∧
      t.rd HR_CMD_STAT_CI = nextIdx s.cmdLog2 (s.rd HR_CMD_STAT_CI) % 2 ^ 16 ∧ t.ctxs = s.ctxs ∧ t.qs = s.qs ∧
      t.ring.cpi = nextIdx s.cmdLog2 s.ring.cpi ∧
      ∃ r ∈ t.fab.reqs, r.kind = .cmdCmpl ∧ r.addr = slotAddr s.cmdcBase s.cmdLog2 s.ring.cpi 32 ∧
        r.data = cmplEntry (cmdOf e) (if (cmdOf e).formOk p.2.2 then sOK else sBADARG) (if (cmdOf e).formOk p.2.2 then 0 else (cmdOf e).refused s)
          (phase s.cmdLog2 s.ring.cpi) := by
  have run : exec p.1 s = .next ((begun s e).cmdDone s.ring.nextId (if (cmdOf e).formOk p.2.2 then sOK else sBADARG)
      (if (cmdOf e).formOk p.2.2 then 0 else (cmdOf e).refused s)) := by
    by_cases form : (cmdOf e).formOk p.2.2 = true
    · have nop : p.1 = .cmdNop := plain.resolve_right (by simp [form])
      have mask : p.2 = (0, []) := by
        have only : ∀ q ∈ ringCommands, q.1 = .cmdNop → q.2 = (0, []) := by simp [ringCommands]
        exact only p hp nop
      rw [mask] at hop form
      rw [nop, mask, if_pos form, if_pos form]
      exact congrArg Host.Outcome.next (runCmd_eq heads start runs hop form (p := fun _ _ => true) rfl fun id _ s => s.cmdDone id sOK 0)
    · obtain ⟨check, f, eq⟩ := exec_ringCommand p hp
      rw [eq, runCmd_malformed heads start runs hop (by simpa using form), begun_refused, if_neg form, if_neg form]
  have quiet : (if (cmdOf e).formOk p.2.2 then sOK else sBADARG) ≠ sSTATE := by split <;> decide
  obtain ⟨none, next, ci, cpi⟩ := begun_cmdDone_ring heads en quiet (if (cmdOf e).formOk p.2.2 then 0 else (cmdOf e).refused s)
  obtain ⟨ctxs, qs, r, mem, kind, -, addr, data⟩ := begun_cmdDone (e := e) en (if (cmdOf e).formOk p.2.2 then sOK else sBADARG)
    (if (cmdOf e).formOk p.2.2 then 0 else (cmdOf e).refused s)
  exact ⟨_, run, none, next, ci, ctxs, qs, cpi, r, mem, kind, addr, data⟩

end

/-- Settles O46: the ring's registers, its reads and completions, and what every command does alike. -/
theorem commandRing : Obligations.CommandRing := by
  refine ⟨fun w v s serves off on => enableWrite_on serves off on, fun w v s serves off => enableWrite_off serves off,
    fun w v s serves => piWrite_ends serves, fun d u s answer current okay known => commandRead_known answer current okay known,
    fun d u s answer current bad => commandRead_fault answer current bad,
    fun d u s answer current okay unknown start en => commandRead_unknown answer current okay unknown start en,
    fun d u s answer => commandCompletion_ends answer,
    fun e s heads start runs en p hp hop plain => plainCommand_ends heads start runs en hp hop plain, fun s heads c hc => ?_⟩
  obtain ⟨p, hp, rfl⟩ : ∃ p ∈ ringCommands, p.1 = c := List.mem_map.1 hc
  obtain ⟨check, f, eq⟩ := exec_ringCommand p hp
  rw [eq, runCmd_none heads]

end Sys2Proof.Proofs
end

section
/-! PROOFS. Frames that are dropped (R33, R236): the registers that change, and what of contexts and queues stays. -/

namespace Sys2Proof.Proofs

open Sys2Proof.Machine Sys2Proof.Laws

set_option Elab.async false

/-! ## Registers -/

/-- The registers that show the frame buffer's counts. -/
def cellFields : List Fld := [FB_FREE_FREE, FB_TX_HELD_HELD, FB_SHARED_USED_USED, FB_EVT_AUDIT, FB_AUDIT_FREE_FREE, FB_AUDIT_HELD_HELD]

/-- The registers of the ledger's audit and of late events. -/
def ledFields : List Fld := [LG_EVT_AUDIT, LG_AUDIT_CODE, LG_AUDIT_TX, LG_AUDIT_CTX, LG_AUDIT_SEQ_CUT_SEQ, LG_LATE_COUNT, LG_EVT_LATE]

/-- What a dropped frame may change. -/
def dropFields : List Fld := cellFields ++ ledFields

theorem kept_ite {fs : List Fld} {a s t : State} {c : Prop} [Decidable c] (h : Kept fs a s) (g : Kept fs a t) : Kept fs a (if c then s else t) := by
  split <;> assumption

theorem kept_each {fs : List Fld} {α : Type} {a s : State} {l : List α} {f : State → α → State} (h : Kept fs a s)
    (hf : ∀ t x, Kept fs a t → Kept fs a (f t x)) : Kept fs a (s.each l f) := by
  unfold State.each
  induction l generalizing s with
  | nil => exact h
  | cons x l ih => exact ih (hf s x h)

section
variable {fs : List Fld} {a s : State}

theorem kept_fbSet (cells : cellFields ⊆ fs) (h : Kept fs a s) (f : FbSt) : Kept fs a (s.fbSet f) := by
  have wr {t : State} {g : Fld} (hg : g ∈ cellFields) (v : Nat) (ht : Kept fs a t) : Kept fs a (t.wr g v) := kept_wr g v (cells hg) ht
  have report : Kept fs a ({ s with fb := f } : State).fbReport :=
    wr (by decide) _ (wr (by decide) _ (wr (by decide) _ (kept_flds rfl h)))
  exact kept_ite report (wr (by decide) _ (wr (by decide) _ (wr (by decide) _ report)))

theorem kept_ledCount (h : Kept fs a s) {ctx : Nat} {tx : Bool} {inst i len : Nat} : Kept fs a (s.ledCount ctx tx inst i len) :=
  kept_ite (kept_flds rfl h) (kept_flds rfl h)

variable (led : ledFields ⊆ fs)
include led

theorem kept_ledAudit (h : Kept fs a s) {code : Nat} {tx : Bool} {ctx : Nat} : Kept fs a (s.ledAudit code tx ctx) := by
  have wr {t : State} {g : Fld} (hg : g ∈ ledFields) (v : Nat) (ht : Kept fs a t) : Kept fs a (t.wr g v) := kept_wr g v (led hg) ht
  unfold State.ledAudit
  extract_lets d u
  have drawn : Kept fs a d.2 := by
    unfold d
    split <;> exact kept_flds rfl h
  have marked : Kept fs a u := by
    refine kept_ite h (wr (by decide) _ (wr (by decide) _ (wr (by decide) _ ?_)))
    rw [put_eq]
    exact wr (by decide) _ (wr (by decide) _ drawn)
  refine kept_ite marked ?_
  split <;> exact kept_flds rfl marked

theorem kept_ledLate (h : Kept fs a s) {ctx : Nat} : Kept fs a (s.ledLate ctx) := by
  have counted : Kept fs a ((s.bump LG_LATE_COUNT).raise LG_EVT_LATE) :=
    kept_wr LG_EVT_LATE _ (led (by decide)) (kept_wr LG_LATE_COUNT _ (led (by decide)) h)
  unfold State.ledLate
  dsimp only
  split <;> exact kept_flds rfl counted

theorem kept_ledCheck (h : Kept fs a s) {tx : Bool} : Kept fs a (s.ledCheck tx) := kept_ite h (kept_ledAudit led h)

theorem kept_ledDrop (h : Kept fs a s) {id ctx : Nat} {tx : Bool} {inst cause len : Nat} : Kept fs a (s.ledDrop id ctx tx inst cause len) := by
  unfold State.ledDrop State.ledEnd
  extract_lets u v w
  have counted : Kept fs a u := kept_ledCount h
  have late : Kept fs a v := kept_ite (kept_ledLate led counted) counted
  have tagged : Kept fs a w := by
    unfold w
    split
    · exact kept_flds rfl (kept_ite late (kept_ledAudit led late))
    · exact kept_ledAudit led late
  exact kept_ledCheck led tagged

end

/-! ## Transmit frames -/

section
variable {fs : List Fld} {a s : State}

theorem kept_txSettle (h : Kept fs a s) {k : Nat} : Kept fs a (s.txSettle k) := by
  have tidy {t : State} (h : Kept fs a t) : Kept fs a (t.txTidy k) := kept_flds rfl h
  refine kept_ite (tidy h) (kept_ite h (tidy ?_))
  split
  · exact kept_flds rfl h
  · exact h

end

/-! ## Received frames -/

/-- What a received frame that leaves the buffer of (p, k) may change. -/
def rxDropFields (i : Nat) : List Fld := [FB_PC_USE_USE i, FB_PC_HUSE_HUSE i, FB_XOFF_STAT_XOFF]

theorem fcChange_flds (s : State) (c k : Nat) (off : Bool) : (s.fcChange c k off).flds = s.flds := by
  unfold State.fcChange
  extract_lets x mine y u
  have same : u.flds = s.flds := rfl
  split
  · exact same
  · split
    · split
      · exact same
      · exact same
    · split
      · split
        · exact same
        · exact same
      · exact same

section
variable {fs : List Fld} {a s : State} {i : Nat} (port : rxDropFields i ⊆ fs)
include port

theorem kept_xoffRefresh (h : Kept fs a s) : Kept fs a (s.xoffRefresh i) := by
  unfold State.xoffRefresh
  extract_lets off
  refine kept_ite h (kept_each ?_ fun t j ht => kept_flds (fcChange_flds t _ _ _) ht)
  have shows : FB_XOFF_STAT_XOFF ∈ fs := port (by simp [rxDropFields])
  exact kept_ite (kept_wr _ _ shows h) (kept_ite (kept_wr _ _ shows h) h)

theorem kept_fbSetUse (cells : cellFields ⊆ fs) (h : Kept fs a s) {x : CellSt} {free : Nat} : Kept fs a (s.fbSetUse i x free) :=
  kept_xoffRefresh port (kept_wr _ _ (port (by simp [rxDropFields])) (kept_wr _ _ (port (by simp [rxDropFields])) (kept_fbSet cells h _)))

theorem kept_fbFreeRx (cells : cellFields ⊆ fs) (h : Kept fs a s) {n : Nat} : Kept fs a (s.fbFreeRx i n) := kept_fbSetUse port cells h

end

end Sys2Proof.Proofs
end

section
/-! PROOFS. What a reset's squash leaves alone (R265 to R268): the states of contexts and queues, and what a context waits for. -/

namespace Sys2Proof.Proofs

open Sys2Proof.Machine Sys2Proof.Laws

set_option Elab.async false

/-- A reset but for the frames it has counted. -/
def uncounted (r : ResetSt) : ResetSt := { r with count := 0 }

/-- A context's state, its queues and its freeze are the same, and its reset but for the frames counted. -/
structure SameLife (c d : CtxSt) : Prop where
  state : d.state = c.state
  txq : d.txq = c.txq
  rxq : d.rxq = c.rxq
  freeze : d.freeze = c.freeze
  reset : d.reset.map uncounted = c.reset.map uncounted

theorem SameLife.refl (c : CtxSt) : SameLife c c := ⟨rfl, rfl, rfl, rfl, rfl⟩

theorem SameLife.trans {c d e : CtxSt} (h : SameLife c d) (g : SameLife d e) : SameLife c e :=
  ⟨g.state.trans h.state, g.txq.trans h.txq, g.rxq.trans h.rxq, g.freeze.trans h.freeze, g.reset.trans h.reset⟩

/-- Keys of the contexts' drain counters: of the registers a squash changes, none lies at such a place. -/
def drainKey (k : Nat) : Prop := 0x1193000 * 32 ≤ k ∧ k % 32 = 24

/-- Contexts keep their lives, queues their states, and the drain counters what they show. -/
structure Calm (s t : State) : Prop where
  ctx : ∀ x, SameLife (s.ctx x) (t.ctx x)
  q : ∀ k, (t.q k).state = (s.q k).state
  regs : KeptAt drainKey s t

namespace Calm

variable {a s t : State}

theorem refl (s : State) : Calm s s := ⟨fun _ => .refl _, fun _ => rfl, .refl s⟩

theorem trans (h : Calm a s) (g : Calm s t) : Calm a t :=
  ⟨fun x => (h.ctx x).trans (g.ctx x), fun k => (g.q k).trans (h.q k), h.regs.trans g.regs⟩

/-- A change of other parts. -/
theorem same (h : Calm a s) (ctxs : t.ctxs = s.ctxs) (qs : t.qs = s.qs) (regs : KeptAt drainKey s t) : Calm a t :=
  h.trans ⟨fun x => (show t.ctx x = s.ctx x by rw [State.ctx, ctxs, State.ctx]) ▸ .refl _, fun k => by rw [State.q, qs, ← State.q], regs⟩

theorem ite {c : Prop} [Decidable c] (h : Calm a s) (g : Calm a t) : Calm a (if c then s else t) := by
  split <;> assumption

theorem each {α : Type} {l : List α} {f : State → α → State} (h : Calm a s) (hf : ∀ t, ∀ x ∈ l, Calm a t → Calm a (f t x)) : Calm a (s.each l f) := by
  unfold State.each
  induction l generalizing s with
  | nil => exact h
  | cons x l ih => exact ih (hf s x List.mem_cons_self h) fun t y hy => hf t y (List.mem_cons_of_mem x hy)

theorem setQ (h : Calm a s) (k : Nat) {x : QSt} (state : x.state = (s.q k).state) : Calm a (s.setQ k x) := by
  refine h.trans ⟨fun _ => .refl _, fun i => ?_, fun _ _ => rfl⟩
  have at_i : (s.setQ k x).q i = if i = k then x else s.q i := mapGet_set ..
  rw [at_i]
  split
  case isTrue e => rw [e, state]
  case isFalse => rfl

theorem setCtx (h : Calm a s) (x : Nat) {c : CtxSt} (life : SameLife (s.ctx x) c) : Calm a (s.setCtx x c) := by
  refine h.trans ⟨fun y => ?_, fun _ => rfl, fun _ _ => rfl⟩
  by_cases e : y = x
  · rw [e, ctx_setCtx_same]
    exact life
  · rw [ctx_setCtx_other s e]
    exact .refl _

/-- A change of other parts than contexts, queues and registers. -/
theorem of_keeps {P : Part → Prop} (h : Calm a s) (hk : Keeps P s t) (ctxs : ¬ P .ctxs) (qs : ¬ P .qs) (regs : KeptAt drainKey s t) : Calm a t :=
  h.same (hk.1 .ctxs ctxs) (hk.1 .qs qs) regs

end Calm

/-- Registers dropped frames change hold no drain counter. -/
theorem keptAt_drain {fs : List Fld} {s t : State} (h : Kept fs s t) (off : ∀ f ∈ fs, ¬ drainKey f.key) : KeptAt drainKey s t := .of_kept h off

theorem dropFields_not_drain : ∀ f ∈ dropFields, ¬ drainKey f.key := by unfold drainKey; decide

theorem rxDropFields_not_drain (i : Nat) : ∀ f ∈ rxDropFields i, ¬ drainKey f.key := by
  simp only [rxDropFields, List.forall_mem_cons, drainKey, Fld.key, FB_PC_USE_USE, FB_PC_HUSE_HUSE, FB_XOFF_STAT_XOFF]
  refine ⟨?_, ?_, ?_, by simp⟩ <;> omega

/-! ## Frames -/

/-- Parts other than contexts and queues. -/
def notCtxNotQ (p : Part) : Prop := p ≠ .ctxs ∧ p ≠ .qs

section
variable {a s : State}

theorem Calm.txTidy (h : Calm a s) (k : Nat) : Calm a (s.txTidy k) := by
  have frames : Calm a { s with txs := (txTidyGo s.txs (s.q k).order).2 } := h.same rfl rfl (.refl s)
  exact frames.setQ k rfl

theorem Calm.setTx (h : Calm a s) (i : Nat) (f : TxFr) : Calm a (s.setTx i f) := h.same rfl rfl (.refl s)

theorem Calm.txSettle (h : Calm a s) (k : Nat) : Calm a (s.txSettle k) := by
  refine .ite (h.txTidy k) (.ite h (Calm.txTidy ?_ k))
  split
  · exact h.setTx ..
  · exact h

theorem Calm.txEnd (h : Calm a s) (id : Nat) {status : Nat} (quiet : status ≠ sSTATE) : Calm a (s.txEnd id status) := by
  unfold State.txEnd
  split
  · exact h
  · dsimp only
    rw [if_neg quiet]
    refine Calm.txSettle (Calm.setQ (h.setTx _ _) _ ?_) _
    rfl

theorem Calm.ledDrop (h : Calm a s) (id ctx : Nat) (tx : Bool) (inst cause len : Nat) : Calm a (s.ledDrop id ctx tx inst cause len) := by
  have regs : KeptAt drainKey s (s.ledDrop id ctx tx inst cause len) :=
    keptAt_drain (kept_ledDrop (List.subset_append_right cellFields ledFields) (kept_refl s)) dropFields_not_drain
  have hk : Keeps notCtxNotQ s (s.ledDrop id ctx tx inst cause len) := by
    apply +allowSynthFailures keeps_ledDrop
    case hk => exact Keeps.refl s
    all_goals exact ⟨by simp [notCtxNotQ]⟩
  exact h.of_keeps hk (by simp [notCtxNotQ]) (by simp [notCtxNotQ]) regs

theorem Calm.fbFreeTx (h : Calm a s) (n : Nat) : Calm a (s.fbFreeTx n) := by
  have regs : KeptAt drainKey s (s.fbFreeTx n) :=
    keptAt_drain (kept_fbSet (List.subset_append_left cellFields ledFields) (kept_refl s) _) dropFields_not_drain
  have hk : Keeps notCtxNotQ s (s.fbFreeTx n) := by
    apply +allowSynthFailures keeps_fbFreeTx
    case hk => exact Keeps.refl s
    all_goals exact ⟨by simp [notCtxNotQ]⟩
  exact h.of_keeps hk (by simp [notCtxNotQ]) (by simp [notCtxNotQ]) regs

theorem Calm.txDropMain (h : Calm a s) (id cause : Nat) {status : Nat} (quiet : status ≠ sSTATE) : Calm a (s.txDropMain id cause status) := by
  unfold State.txDropMain
  split
  · exact h
  · exact Calm.txEnd (Calm.ledDrop (Calm.setTx (.ite h (h.fbFreeTx _)) _ _) ..) _ quiet

theorem Calm.txDrop (h : Calm a s) (id cause : Nat) {status : Nat} (quiet : status ≠ sSTATE) : Calm a (s.txDrop id cause status) := by
  unfold State.txDrop State.txDropNow
  refine .ite ?_ ?_
  · split
    · exact h.txDropMain _ _ quiet
    · have gone : Calm a (s.delTx id) := h.same rfl rfl (.refl s)
      dsimp only
      split
      · exact .ite gone (gone.txDropMain _ _ quiet)
      · exact gone
  · split
    · exact h.setTx ..
    · exact h

theorem Calm.wr (h : Calm a s) (f : Fld) (v : Nat) (off : ¬ drainKey f.key) : Calm a (s.wr f v) :=
  h.same rfl rfl (keptAt_drain (fs := [f]) (kept_wr f v (by simp) (kept_refl s)) (by simpa using off))

theorem Calm.dropStaged (h : Calm a s) {c : Nat} (hc : c < 32) (cause : Nat) {status : Nat} (quiet : status ≠ sSTATE) (p : TxFr → Bool) :
    Calm a (s.dropStaged c cause status p) := by
  refine Calm.wr (.each h fun t k _ ht => ?_) _ _ ?_
  · refine .each (ht.same rfl rfl (.refl t)) fun u id _ hu => hu.txDrop id cause quiet
  · simp only [drainKey, Fld.key, SC_CH_STAT_STAGED]
    omega

theorem Calm.fbFreeRx (h : Calm a s) (i n : Nat) : Calm a (s.fbFreeRx i n) := by
  have regs : KeptAt drainKey s (s.fbFreeRx i n) :=
    keptAt_drain (fs := rxDropFields i ++ dropFields)
      (kept_fbFreeRx (List.subset_append_left _ _) (fun _ hf => List.mem_append_right _ (List.mem_append_left _ hf)) (kept_refl s))
      fun f hf => (List.mem_append.1 hf).elim (rxDropFields_not_drain i f) (dropFields_not_drain f)
  have hk : Keeps notCtxNotQ s (s.fbFreeRx i n) := by
    apply +allowSynthFailures keeps_fbFreeRx
    case hk => exact Keeps.refl s
    all_goals exact ⟨by simp [notCtxNotQ]⟩
  exact h.of_keeps hk (by simp [notCtxNotQ]) (by simp [notCtxNotQ]) regs

theorem Calm.setRx (h : Calm a s) (i : Nat) (f : RxFr) : Calm a (s.setRx i f) := h.same rfl rfl (.refl s)

theorem Calm.rxDrop (h : Calm a s) (id cause : Nat) : Calm a (s.rxDrop id cause) := by
  unfold State.rxDrop State.rxDropNow
  refine .ite ?_ ?_
  · split
    · exact h
    · have gone {t : State} (ht : Calm a t) : Calm a (t.delRx id) := ht.same rfl rfl (.refl t)
      exact gone (Calm.ledDrop (.ite h (h.fbFreeRx _ _)) ..)
  · split
    · exact h.setRx ..
    · exact h

theorem Calm.rxDataDone (h : Calm a s) (id : Nat) : Calm a (s.rxDataDone id) := by
  unfold State.rxDataDone
  split
  · exact h
  · exact Calm.setRx (.ite h (h.fbFreeRx _ _)) ..

/-! ## Reads and counts -/

theorem Calm.fab (h : Calm a s) (f : FabSt) : Calm a { s with fab := f } := h.same rfl rfl (.refl s)

theorem Calm.withdrawReads (h : Calm a s) (k : Nat) : Calm a (s.withdrawReads k) := by
  unfold State.withdrawReads
  extract_lets mine off
  split
  · exact h
  · extract_lets late n fp u x w
    have reads : Calm a u := h.fab _
    have queue : Calm a w := reads.setQ k rfl
    exact .ite (queue.txSettle k) queue

theorem Calm.forgetReads (h : Calm a s) (k : Nat) : Calm a (s.forgetReads k) := (h.fab _).setQ k rfl

theorem Calm.squashReads (h : Calm a s) (k : Nat) : Calm a (s.squashReads k) := ((h.withdrawReads k).forgetReads k).setQ k rfl

theorem Calm.countSquash (h : Calm a s) (x : Nat) : Calm a (s.countSquash x) := by
  unfold State.countSquash
  split
  case h_1 r hr =>
    refine h.setCtx x ⟨rfl, rfl, rfl, rfl, ?_⟩
    rw [hr]
    rfl
  case h_2 => exact h

theorem Calm.unissue (h : Calm a s) (k : ReqKind) (id : Nat) : Calm a (s.unissue k id).2 := h.fab _

theorem Calm.squashRx (h : Calm a s) (x id : Nat) (f : RxFr) : Calm a (s.squashRx x id f) := by
  unfold State.squashRx
  refine .ite ((h.countSquash x).rxDrop ..) (.ite ((h.countSquash x).setRx ..) (.ite ?_ h))
  have cut (g : RxFr) : Calm a (((s.unissue .rxData id).2.countSquash x).setRx id g) := ((h.unissue _ _).countSquash x).setRx ..
  exact .ite ((cut _).rxDataDone id) (cut _)

theorem Calm.squashTx (h : Calm a s) (x id : Nat) (f : TxFr) : Calm a (s.squashTx x id f) :=
  .ite (((h.countSquash x).unissue _ _).txDrop _ _ (by decide)) h

theorem Calm.nodesRefresh (h : Calm a s) : Calm a s.nodesRefresh := by
  have hk : Keeps (fun p => p = .nodes) s s.nodesRefresh := by
    have nodes : Fact ((fun p => p = Part.nodes) .nodes) := ⟨rfl⟩
    exact keeps_nodesRefresh (Keeps.refl s)
  have flds : s.nodesRefresh.flds = s.flds := hk.1 .regs (by decide)
  exact h.of_keeps hk (by decide) (by decide) fun k _ => by rw [flds]

theorem Calm.squashAll (h : Calm a s) (x : Nat) : Calm a (s.squashAll x) := by
  unfold State.squashAll
  extract_lets u v w n y
  have reads : Calm a u := .each h fun t k _ ht => ht.squashReads k
  have received : Calm a v := .each reads fun t e _ ht => .ite (ht.squashRx ..) ht
  have sent : Calm a w := .each received fun t e _ ht => .ite (ht.squashTx ..) ht
  have staged : Calm a y := .each sent fun t c hc ht => ht.dropStaged (List.mem_range.1 hc) _ (by decide) _
  exact Calm.nodesRefresh (.each (.each staged fun t _ _ ht => ht.countSquash x) fun t k _ ht => ht.txSettle k)

end

end Sys2Proof.Proofs
end

section
/-! PROOFS. Commands that make, end, reset, freeze and resume a context (R257 to R275). -/

namespace Sys2Proof.Proofs

open Sys2Proof.Machine Sys2Proof.Laws

set_option Elab.async false

/-! ## Vectors keep their context's life -/

theorem Calm.setVec {a s : State} (h : Calm a s) (x v : Nat) (n : VecSt) : Calm a (s.setVec x v n) := h.setCtx x ⟨rfl, rfl, rfl, rfl, rfl⟩

theorem Calm.vecSettle {a s : State} (h : Calm a s) (x v : Nat) : Calm a (s.vecSettle x v) := .ite (h.setVec ..) h

theorem Calm.vecCheck {a s : State} (h : Calm a s) (x v : Nat) : Calm a (s.vecCheck x v) := by
  unfold State.vecCheck
  extract_lets u n waited
  have settled : Calm a u := h.vecSettle x v
  have sent : Calm a (u.hostNotify .notify x v n.addr (leBytes 4 n.data)) := settled.same rfl rfl (.refl u)
  exact .ite ((sent.setVec ..).vecSettle ..) settled

theorem Calm.vecRelease {a s : State} (h : Calm a s) (x : Nat) : Calm a (s.vecRelease x) := .each h fun _ _ _ ht => ht.vecCheck ..

/-! ## Lowest free queues (R258) -/

/-- The free numbers taken ascend from the first one tried, and none is beyond those in use and those needed. -/
theorem freeFrom_bounds (n c : Nat) (l : List Nat) (k : Nat) :
    (freeFrom n c l k).Pairwise (· < ·) ∧ ∀ m ∈ freeFrom n c l k, c ≤ m ∧ m < c + l.length + k := by
  induction n generalizing c l k with
  | zero => simp [freeFrom]
  | succ n ih =>
    cases k with
    | zero => simp [freeFrom]
    | succ k =>
      cases l with
      | nil =>
        obtain ⟨asc, bound⟩ := ih (c + 1) [] k
        refine ⟨List.pairwise_cons.2 ⟨fun m hm => by have := (bound m hm).1; omega, asc⟩, fun m hm => ?_⟩
        cases hm with
        | head => simp
        | tail _ hm =>
          have := bound m hm
          simp only [List.length_nil] at this ⊢
          omega
      | cons u us =>
        unfold freeFrom
        split
        · obtain ⟨asc, bound⟩ := ih (c + 1) us (k + 1)
          refine ⟨asc, fun m hm => ?_⟩
          have := bound m hm
          simp only [List.length_cons]
          omega
        · obtain ⟨asc, bound⟩ := ih (c + 1) (u :: us) k
          refine ⟨List.pairwise_cons.2 ⟨fun m hm => by have := (bound m hm).1; omega, asc⟩, fun m hm => ?_⟩
          simp only [List.length_cons] at bound ⊢
          cases hm with
          | head => omega
          | tail _ hm =>
            have := bound m hm
            omega

/-! ## Shapers and shade sets at their reset values (R259) -/

/-- No shaper's commit has a command that waits for it. -/
def NoShapCmd (s : State) : Prop := ∀ i, (s.shap i).cmd = none

theorem noShapCmd_of_all {s : State} (h : s.shaps.all (fun y => y.2.cmd.isNone) = true) : NoShapCmd s := by
  intro i
  unfold State.shap
  generalize s.shaps = m at h
  induction m with
  | nil => rfl
  | cons e m ih =>
    obtain ⟨he, hm⟩ := Bool.and_eq_true_iff.1 (List.all_cons ▸ h)
    unfold mapGet
    split
    · exact Option.isNone_iff_eq_none.1 he
    · exact ih hm

/-- From `u` to `v` only registers other than the ring's settings, shapers and queues have changed, and no shaper has got a command. -/
structure Given (u v : State) : Prop where
  rest : ∃ l m n, v = { u with flds := l, shaps := m, qs := n }
  ring : RingKept u v
  shaps : NoShapCmd u → NoShapCmd v

namespace Given

variable {u v w : State}

theorem refl (u : State) : Given u u := ⟨⟨u.flds, u.shaps, u.qs, rfl⟩, .refl u, id⟩

theorem trans (h : Given u v) (g : Given v w) : Given u w := by
  obtain ⟨l, m, n, e⟩ := h.rest
  obtain ⟨l', m', n', e'⟩ := g.rest
  exact ⟨⟨l', m', n', by rw [e', e]⟩, h.ring.trans g.ring, g.shaps ∘ h.shaps⟩

theorem each {α : Type} {l : List α} {f : State → α → State} (h : Given u v) (hf : ∀ t x, NoShapCmd t → Given t (f t x)) (none : NoShapCmd v) :
    Given u (v.each l f) := by
  unfold State.each
  induction l generalizing v with
  | nil => exact h
  | cons x l ih =>
    have step := hf v x none
    exact ih (h.trans step) (step.shaps none)

theorem wr (u : State) {f : Fld} (off : ∀ g ∈ ringSettings, g.key ≠ f.key) (v : Nat) : Given u (u.wr f v) :=
  ⟨⟨_, u.shaps, u.qs, rfl⟩, .of_kept (fs := [f]) (kept_wr f v (by simp) (kept_refl u)) rfl (by simpa using off), id⟩

theorem setQ (u : State) (k : Nat) (x : QSt) : Given u (u.setQ k x) := ⟨⟨u.flds, u.shaps, _, rfl⟩, ⟨rfl, rfl, rfl, rfl, rfl⟩, id⟩

theorem ctxs (h : Given u v) : v.ctxs = u.ctxs := by
  obtain ⟨l, m, n, e⟩ := h.rest
  rw [e]

theorem ctx (h : Given u v) (x : Nat) : v.ctx x = u.ctx x := by rw [State.ctx, h.ctxs, State.ctx]

theorem ringPart (h : Given u v) : v.ring = u.ring := by
  obtain ⟨l, m, n, e⟩ := h.rest
  rw [e]

theorem led (h : Given u v) : v.led = u.led := by
  obtain ⟨l, m, n, e⟩ := h.rest
  rw [e]

theorem fab (h : Given u v) : v.fab = u.fab := by
  obtain ⟨l, m, n, e⟩ := h.rest
  rw [e]

end Given

/-- A register beyond those of the command ring is none of its settings. -/
theorem ringSettings_ne_high {f : Fld} (h : 0x100018 * 32 ≤ f.key) : ∀ g ∈ ringSettings, g.key ≠ f.key := fun g hg => by
  have := ringSettings_low hg
  omega

theorem given_putShap (u : State) (i : Nat) {x : ShapSt} (none : x.cmd = none) : Given u (u.putShap i x) := by
  refine ⟨⟨u.flds, _, u.qs, rfl⟩, ⟨rfl, rfl, rfl, rfl, rfl⟩, fun h j => ?_⟩
  have at_j : (u.putShap i x).shap j = if j = i then x else u.shap j := mapGet_set ..
  rw [at_j]
  split
  · exact none
  · exact h j

theorem given_setShap (u : State) (i : Nat) {x : ShapSt} (none : x.cmd = none) : Given u (u.setShap i x) := by
  have put := given_putShap u i none
  unfold State.setShap
  extract_lets v
  have index : Given v (if v.is SC_EVT_TOK_AUDIT then v else v.wr SC_AUDIT_IDX_INDEX i) := by
    split
    · exact .refl v
    · exact .wr v (by decide) _
  split
  · exact put
  · exact put.trans (index.trans (.wr _ (by decide) _))

theorem given_shapReset {u : State} (none : NoShapCmd u) (i : Nat) : Given u (u.shapReset i) := by
  unfold State.shapReset
  extract_lets x y v
  have counted : Given u v := by
    unfold v
    split
    · exact .wr u (ringSettings_ne_high (by simp only [Fld.key, SC_COMMIT_REJ]; omega)) _
    · exact .refl u
  have no : x.cmd = Option.none := none i
  rw [no]
  exact counted.trans (given_setShap v i rfl)

theorem given_cxShadeReset (u : State) (x : Nat) : Given u (u.cxShadeReset x) := by
  have high {f : Fld} (h : 0x100018 * 32 ≤ f.key) (t : State) (n : Nat) : Given t (t.wr f n) := .wr t (ringSettings_ne_high h) n
  unfold State.cxShadeReset
  extract_lets v
  have rejected : Given u v := by
    unfold v
    split
    · exact (high (by simp only [Fld.key, CX_COMMIT_REJ]; omega) u _).trans (high (by decide) _ _)
    · exact .refl u
  refine (((rejected.trans (high ?_ _ _)).trans (high ?_ _ _)).trans (high ?_ _ _)).trans (high ?_ _ _)
  · simp only [Fld.key, CX_COMMIT_LOCKED]; omega
  · simp only [Fld.key, CX_OWNER_OWNER]; omega
  · simp only [Fld.key, CX_PARAM_PC_GROUPS]; omega
  · simp only [Fld.key, CX_PARAM_EV_STATE]; omega

theorem shapReset_qs (u : State) (i : Nat) : (u.shapReset i).qs = u.qs := by
  have hk : Keeps (fun p => p ≠ .qs) u (u.shapReset i) := by
    apply +allowSynthFailures keeps_shapReset
    case hk => exact Keeps.refl u
    all_goals exact ⟨by decide⟩
  exact hk.1 .qs (by decide)

/-! ## Queues join a context (R258) -/

section
variable {α : Type} {s : State} {f : State → α → State} {key : α → Nat} {x : α → QSt}

/-- A walk that sets a queue at each step leaves the others. -/
theorem q_each_other (step : ∀ t a, (f t a).qs = (t.setQ (key a) (x a)).qs) {k : Nat} :
    ∀ {l : List α} {s : State}, (∀ a ∈ l, key a ≠ k) → (s.each l f).q k = s.q k
  | [], _, _ => rfl
  | a :: l, s, h => by
    have rest := q_each_other step (l := l) (s := f s a) fun b hb => h b (List.mem_cons_of_mem a hb)
    refine rest.trans ?_
    rw [State.q, step]
    exact (mapGet_set ..).trans (if_neg (Ne.symm (h a List.mem_cons_self)))

/-- A walk that sets each queue once leaves every one as it was set. -/
theorem q_each_same (step : ∀ t a, (f t a).qs = (t.setQ (key a) (x a)).qs) :
    ∀ {l : List α} {s : State}, (l.map key).Nodup → ∀ a ∈ l, (s.each l f).q (key a) = x a
  | [], _, _, a, ha => absurd ha List.not_mem_nil
  | b :: l, s, nodup, a, ha => by
    obtain ⟨fresh, nodup⟩ := List.nodup_cons.1 nodup
    rcases List.mem_cons.1 ha with rfl | ha
    · have rest := q_each_other step (l := l) (s := f s a) (k := key a) fun c hc e => fresh (e ▸ List.mem_map_of_mem hc)
      refine rest.trans ?_
      rw [State.q, step]
      exact q_setQ_same ..
    · exact q_each_same step nodup a ha

end

/-- Queues for an allocation: lowest first, each once, and all of the pool. -/
theorem allocQueues_some {u : State} {ntx nrx : Nat} {a : List Nat × List Nat} (h : u.allocQueues ntx nrx = some a) :
    a.1.Nodup ∧ a.2.Nodup ∧ ∀ k ∈ a.1, k < 32768 := by
  unfold State.allocQueues at h
  extract_lets t r at h
  split at h
  case isFalse => exact absurd h (by simp)
  case isTrue fits =>
    obtain rfl := Option.some.inj h
    obtain ⟨asc, bound⟩ := freeFrom_bounds (t.length + ntx + 1) 0 t ntx
    obtain ⟨asc', -⟩ := freeFrom_bounds (r.length + nrx + 1) 0 r nrx
    refine ⟨asc.imp Nat.ne_of_lt, asc'.imp Nat.ne_of_lt, fun k hk => ?_⟩
    have := (bound k hk).2
    omega

/-- A queue as it joins a context. -/
def freshQueue (x i : Nat) : QSt := { owned := true, ctx := x, qidx := i }

theorem giveQueues_q (u : State) (x : Nat) {ntx nrx : Nat} {a : List Nat × List Nat} (alloc : u.allocQueues ntx nrx = some a) :
    (∀ i k, a.1[i]? = some k → (u.giveQueues x a).q k = freshQueue x i) ∧
      (∀ i k, a.2[i]? = some k → (u.giveQueues x a).q (32768 + k) = freshQueue x i) := by
  obtain ⟨tx, rx, low⟩ := allocQueues_some alloc
  have send (t : State) (e : Nat × Nat) : ((t.shapReset e.1).setQ e.1 (freshQueue x e.2)).qs = (t.setQ e.1 (freshQueue x e.2)).qs := by
    unfold State.setQ
    rw [shapReset_qs]
  have receive (t : State) (e : Nat × Nat) : (t.setQ (32768 + e.1) (freshQueue x e.2)).qs = (t.setQ (32768 + e.1) (freshQueue x e.2)).qs := rfl
  refine ⟨fun i k hk => ?_, fun i k hk => ?_⟩
  · have mem : (k, i) ∈ a.1.zipIdx := List.mem_zipIdx_iff_getElem?.2 hk
    have small : k < 32768 := low k (List.mem_of_getElem? hk)
    refine (q_each_other receive fun e _ => by omega).trans ?_
    refine q_each_same (key := fun e => e.1) (x := fun e => freshQueue x e.2) send ?_ (k, i) mem
    rw [List.zipIdx_map_fst]
    exact tx
  · have mem : (k, i) ∈ a.2.zipIdx := List.mem_zipIdx_iff_getElem?.2 hk
    refine q_each_same (key := fun e => 32768 + e.1) (x := fun e => freshQueue x e.2) receive ?_ (k, i) mem
    have keys : a.2.zipIdx.map (fun e => 32768 + e.1) = a.2.map (32768 + ·) := by
      conv_rhs => rw [← List.zipIdx_map_fst 0 a.2, List.map_map]
      rfl
    rw [keys]
    exact rx.map fun _ _ h => Nat.add_left_cancel h

theorem given_giveQueues {u : State} (none : NoShapCmd u) (x : Nat) (a : List Nat × List Nat) : Given u (u.giveQueues x a) := by
  unfold State.giveQueues
  extract_lets v
  have send : Given u v := .each (.refl u) (fun t e ht => (given_shapReset ht e.1).trans (.setQ _ _ _)) none
  exact .each send (fun t e _ => .setQ t _ _) (send.shaps none)

/-! ## `CTX_CREATE` -/

section
variable {s : State} {e : List Byte} (heads : s.ring.heads = [e]) (start : s.cmdMayStart e = true) (runs : s.islandRuns 5 = true)
  (en : s.is HR_CMD_CFG_EN = true)

theorem begun_shap' : (begun s e).shap = s.shap := by
  funext i
  rw [State.shap, begun_shaps, State.shap]

theorem noShapCmd_begun (h : NoShapCmd s) : NoShapCmd (begun s e) := fun i => by
  rw [begun_shap']
  exact h i

/-- What a new context is given before it is active. -/
def contextGiven (u : State) (x : Nat) (a : List Nat × List Nat) : State := ((u.giveQueues x a).shapReset (32768 + x)).cxShadeReset x

theorem given_contextGiven {u : State} (none : NoShapCmd u) (x : Nat) (a : List Nat × List Nat) : Given u (contextGiven u x a) :=
  have give := given_giveQueues none x a
  (give.trans (given_shapReset (give.shaps none) _)).trans (given_cxShadeReset _ x)

theorem cxShadeReset_qs (u : State) (x : Nat) : (u.cxShadeReset x).qs = u.qs := by
  have hk : Keeps (fun p => p ≠ .qs) u (u.cxShadeReset x) := by
    apply +allowSynthFailures keeps_cxShadeReset
    case hk => exact Keeps.refl u
    all_goals exact ⟨by decide⟩
  exact hk.1 .qs (by decide)

theorem contextGiven_q (u : State) (x : Nat) (a : List Nat × List Nat) (k : Nat) : (contextGiven u x a).q k = (u.giveQueues x a).q k := by
  rw [State.q, contextGiven, cxShadeReset_qs, shapReset_qs, State.q]

/-- A command that changed no setting of the ring ends. -/
theorem given_ends (en : s.is HR_CMD_CFG_EN = true) {v w : State} (given : Given (begun s e) v) (flds : w.flds = v.flds) (ring : w.ring = v.ring)
    (st res : Nat) : Ends s (w.cmdDone s.ring.nextId st res) s.ring.nextId (cmdOf e) st res := by
  have same : RingKept v w := .of_kept (fs := []) (kept_flds flds (kept_refl v)) (by rw [ring]) (by simp)
  exact cmdDone_ends (((begun_ring s e).trans given.ring).trans same) en (by rw [ring, given.ringPart]; exact begun_active s e) st res

theorem begun_allocQueues (ntx nrx : Nat) : (begun s e).allocQueues ntx nrx = s.allocQueues ntx nrx := by
  have owned (rx : Bool) : (begun s e).ownedQueues rx = s.ownedQueues rx := by rw [State.ownedQueues, begun_qs, State.ownedQueues]
  rw [State.allocQueues, owned, owned, State.allocQueues]

/-- A number is free where no image is on its way to it; the command that asks is none. -/
theorem begun_ctxFree (x : Nat) (image : ∀ d ∈ s.ring.active, d.2.op ≠ 6) :
    (begun s e).ctxFree x s.ring.nextId = ((s.ctx x).state == cFREE && (s.ctx x).closing.isNone) := by
  have none : (begun s e).ring.active.any (fun y => y.1 != s.ring.nextId && y.2.op == 6 && y.2.ctx == x) = false := by
    rw [begun_eq, cmdTake_ring, List.any_eq_false]
    intro y hy
    rcases mem_insert hy with rfl | mem
    · simp
    · have old := image y (mem_erase_ne _ _ y mem).2
      simp [old]
  rw [State.ctxFree, begun_ctx, none, Bool.not_false, Bool.and_true]

/-- The effect of a creation. -/
def created (u : State) (x id ntx nrx : Nat) : State :=
  match u.allocQueues ntx nrx with
  | none => u.cmdDone id sNORES 0
  | some a => ((contextGiven u x a).setCtx x { state := cACTIVE, txq := a.1, rxq := a.2, dirty := ((contextGiven u x a).ctx x).dirty }).cmdDone id sOK 0

include heads start runs in
theorem exec_ctxCreate (hop : byteAt e 0 = 1) (form : (cmdOf e).formOk [(8, 0, 7), (9, 0, 7)] = true) (tx : (cmdOf e).f 8 0 7 ≤ 64)
    (rx : (cmdOf e).f 9 0 7 ≤ 64) :
    exec .ctxCreate s = .next ((begun s e).legal s.ring.nextId ((begun s e).ctxFree (cmdOf e).ctx s.ring.nextId) (fun u =>
      created u (cmdOf e).ctx s.ring.nextId ((cmdOf e).f 8 0 7) ((cmdOf e).f 9 0 7))) :=
  congrArg Host.Outcome.next (runCmd_eq heads start runs hop form (p := fun c _ => c.f 8 0 7 ≤ 64 && c.f 9 0 7 ≤ 64) (by simp [tx, rx]) _)

include en in
theorem created_none {ntx nrx : Nat} (alloc : s.allocQueues ntx nrx = none) (x : Nat) :
    (created (begun s e) x s.ring.nextId ntx nrx).ctxs = s.ctxs ∧ (created (begun s e) x s.ring.nextId ntx nrx).qs = s.qs ∧
      Ends s (created (begun s e) x s.ring.nextId ntx nrx) s.ring.nextId (cmdOf e) sNORES 0 := by
  have done : created (begun s e) x s.ring.nextId ntx nrx = (begun s e).cmdDone s.ring.nextId sNORES 0 := by
    unfold created
    rw [begun_allocQueues, alloc]
  rw [done]
  exact begun_cmdDone en ..

include en in
theorem created_some {ntx nrx : Nat} {a : List Nat × List Nat} (shaps : NoShapCmd s) (alloc : s.allocQueues ntx nrx = some a) (x : Nat) :
    let t := created (begun s e) x s.ring.nextId ntx nrx
    t.ctx x = { state := cACTIVE, txq := a.1, rxq := a.2, dirty := (s.ctx x).dirty } ∧ Ends s t s.ring.nextId (cmdOf e) sOK 0 ∧
      (∀ i k, a.1[i]? = some k → t.q k = freshQueue x i) ∧ (∀ i k, a.2[i]? = some k → t.q (32768 + k) = freshQueue x i) := by
  intro t
  let v := contextGiven (begun s e) x a
  have given : Given (begun s e) v := given_contextGiven (noShapCmd_begun shaps) x a
  have done : t = (v.setCtx x { state := cACTIVE, txq := a.1, rxq := a.2, dirty := (s.ctx x).dirty }).cmdDone s.ring.nextId sOK 0 := by
    rw [← begun_ctx s e x, ← given.ctx x]
    show created _ _ _ _ _ = _
    unfold created
    rw [begun_allocQueues, alloc]
  have queue (k : Nat) : t.q k = ((begun s e).giveQueues x a).q k := by
    rw [done]
    exact (cmdDone_q ..).trans (contextGiven_q (begun s e) x a k)
  obtain ⟨tx, rx⟩ := giveQueues_q (begun s e) x ((begun_allocQueues ntx nrx).trans alloc)
  refine ⟨?_, ?_, fun i k hk => (queue k).trans (tx i k hk), fun i k hk => (queue _).trans (rx i k hk)⟩
  · rw [done]
    exact (cmdDone_ctx ..).trans (ctx_setCtx_same ..)
  · rw [done]
    exact given_ends en given (setCtx_flds ..) (setCtx_ring ..) sOK 0

include heads start runs en in
theorem ctxCreate_ends (hop : byteAt e 0 = 1) (form : (cmdOf e).formOk [(8, 0, 7), (9, 0, 7)] = true) (tx : (cmdOf e).f 8 0 7 ≤ 64)
    (rx : (cmdOf e).f 9 0 7 ≤ 64) (shaps : NoShapCmd s) :
    let c := cmdOf e
    let x := c.ctx
    let id := s.ring.nextId
    (∀ a, (s.ctx x).state = cFREE → (s.ctx x).closing = none → (∀ d ∈ s.ring.active, d.2.op ≠ 6) → s.allocQueues (c.f 8 0 7) (c.f 9 0 7) = some a →
      ∃ t, exec .ctxCreate s = .next t ∧ t.ctx x = { state := cACTIVE, txq := a.1, rxq := a.2, dirty := (s.ctx x).dirty } ∧ Ends s t id c sOK 0 ∧
        (∀ i k, a.1[i]? = some k → t.q k = freshQueue x i) ∧ (∀ i k, a.2[i]? = some k → t.q (32768 + k) = freshQueue x i)) ∧
    ((s.ctx x).state = cFREE → (s.ctx x).closing = none → (∀ d ∈ s.ring.active, d.2.op ≠ 6) → s.allocQueues (c.f 8 0 7) (c.f 9 0 7) = none →
      ∃ t, exec .ctxCreate s = .next t ∧ t.ctxs = s.ctxs ∧ t.qs = s.qs ∧ Ends s t id c sNORES 0) ∧
    ((s.ctx x).state ≠ cFREE ∨ (s.ctx x).closing.isSome = true →
      ∃ t, exec .ctxCreate s = .next t ∧ t.ctxs = s.ctxs ∧ t.qs = s.qs ∧ Ends s t id c sSTATE 0) := by
  intro c x id
  have run := exec_ctxCreate heads start runs hop form tx rx
  obtain ⟨pass, fail⟩ := legal_cases (e := e) en (f := fun u => created u x id (c.f 8 0 7) (c.f 9 0 7)) rfl (refused_eq_zero _ (by omega) (by omega))
  refine ⟨fun a state closing image alloc => ?_, fun state closing image alloc => ?_, fun used => ⟨_, run, fail ?_⟩⟩
  · have free := begun_ctxFree (e := e) x image
    rw [pass (free.trans (by simp [state, closing]))] at run
    obtain ⟨ctx, ends, qtx, qrx⟩ := created_some en shaps alloc x
    exact ⟨_, run, ctx, ends, qtx, qrx⟩
  · have free := begun_ctxFree (e := e) x image
    rw [pass (free.trans (by simp [state, closing]))] at run
    exact ⟨_, run, created_none en alloc x⟩
  · have state : (((s.ctx x).state == cFREE) && (s.ctx x).closing.isNone) = false := by
      cases used with
      | inl h => simp [h]
      | inr h => rw [Option.isNone_eq_false_iff.2 h, Bool.and_false]
    unfold State.ctxFree
    rw [begun_ctx, state, Bool.false_and]
    exact Bool.false_ne_true

end

end Sys2Proof.Proofs
end

section
/-! PROOFS. Destruction, reset, freeze and resumption of a context (R259, R266, R270, R275, R310). -/

namespace Sys2Proof.Proofs

open Sys2Proof.Machine Sys2Proof.Laws

set_option Elab.async false

/-! ## `CTX_DESTROY` -/

/-- A queue leaves its context for the pool. -/
def freeQueue (t : State) (k : Nat) : State := { t with qs := mapErase k t.qs }

theorem freeQueue_q (t : State) (k j : Nat) : (freeQueue t k).q j = if j = k then {} else t.q j := by
  split
  case isTrue h => exact h ▸ mapGet_erase_same ..
  case isFalse h => exact mapGet_erase_other _ _ h

theorem freeQueues_q {l : List Nat} : ∀ {t : State} {k : Nat}, k ∈ l ∨ t.q k = {} → (t.each l freeQueue).q k = {} := by
  induction l with
  | nil => exact fun h => h.resolve_left List.not_mem_nil
  | cons j l ih =>
    intro t k h
    refine ih (t := freeQueue t j) ?_
    rw [freeQueue_q]
    by_cases hk : k = j
    · exact .inr (if_pos hk)
    · rw [if_neg hk]
      exact h.imp_left fun mem => (List.mem_cons.1 mem).resolve_left hk

/-- Shapers, shade set and queues of a context that is destroyed go back to their reset values. -/
def stripped (u : State) (x : Nat) : State :=
  let v := (((u.each (u.ctx x).txq (fun s k => s.shapReset k)).shapReset (32768 + x))).cxShadeReset x
  v.each (v.ctxQueues x) freeQueue

theorem given_freeQueue (u : State) (k : Nat) : Given u (freeQueue u k) := ⟨⟨u.flds, u.shaps, _, rfl⟩, ⟨rfl, rfl, rfl, rfl, rfl⟩, id⟩

theorem ctxQueues_congr {u v : State} {x : Nat} (h : v.ctx x = u.ctx x) : v.ctxQueues x = u.ctxQueues x := by
  rw [State.ctxQueues, h, State.ctxQueues]

theorem given_stripped {u : State} (none : NoShapCmd u) (x : Nat) : Given u (stripped u x) := by
  unfold stripped
  extract_lets v
  have shaped : Given u (u.each (u.ctx x).txq (fun s k => s.shapReset k)) := .each (.refl u) (fun _ k ht => given_shapReset ht k) none
  have own := shaped.trans (given_shapReset (shaped.shaps none) (32768 + x))
  have all : Given u v := own.trans (given_cxShadeReset _ x)
  exact .each all (fun t k _ => given_freeQueue t k) (all.shaps none)

theorem stripped_q {u : State} (none : NoShapCmd u) {x k : Nat} (mem : k ∈ u.ctxQueues x) : (stripped u x).q k = {} := by
  unfold stripped
  extract_lets v
  have same : v.ctx x = u.ctx x := by
    have shaped : Given u (u.each (u.ctx x).txq (fun s k => s.shapReset k)) := .each (.refl u) (fun _ k ht => given_shapReset ht k) none
    exact ((shaped.trans (given_shapReset (shaped.shaps none) (32768 + x))).trans (given_cxShadeReset _ x)).ctx x
  rw [ctxQueues_congr same]
  exact freeQueues_q (.inl mem)

/-- Where no mark is under way and no `DIRTY_STOP` waits, a session just ends. -/
theorem dirtyEnd_idle {u : State} {x : Nat} (idle : u.awaitsFor .dirtyMark x = false) (stop : (u.ctx x).dirty.bind (·.stopCmd) = none) :
    (∃ l, u.dirtyEnd x none = { u with ctxs := l }) ∧ (u.dirtyEnd x none).ctx x = { u.ctx x with dirty := none } := by
  cases session : (u.ctx x).dirty with
  | none =>
    have same : u.dirtyEnd x none = u := by
      unfold State.dirtyEnd
      rw [session]
    rw [same, ← session]
    exact ⟨⟨u.ctxs, rfl⟩, rfl⟩
  | some d =>
    have no : d.stopCmd = none := by rwa [session] at stop
    have gone : u.dirtyEnd x none = u.setCtx x { u.ctx x with dirty := none } := by
      unfold State.dirtyEnd
      rw [session]
      show (if u.awaitsFor .dirtyMark x = true then _ else (u.setCtx x { u.ctx x with dirty := none }).cmdDone? (none.or d.stopCmd) d.status 0) = _
      rw [idle, if_neg Bool.false_ne_true, no]
      rfl
    rw [gone]
    exact ⟨⟨_, rfl⟩, ctx_setCtx_same ..⟩

/-- With a mark under way a session ends later. -/
theorem dirtyEnd_busy {u : State} {x : Nat} {d : DirtySt} (session : (u.ctx x).dirty = some d) (busy : u.awaitsFor .dirtyMark x = true) :
    u.dirtyEnd x none = withSession u x { d with stopping := true } := by
  unfold State.dirtyEnd
  rw [session]
  exact if_pos busy

/-- The counters of a context that ends move into a slot of their own. -/
theorem ledSlot_eq (u : State) (x owner : Nat) :
    ∃ led : LedSt, u.ledSlot x owner = ({ u with led := led } : State).refreshSlots ∧ led.slots.length = u.led.slots.length + 1 := by
  refine ⟨_, rfl, ?_⟩
  show (u.led.slots ++ [_]).length = _
  rw [List.length_append]
  rfl

theorem ringKept_led (u : State) (led : LedSt) : RingKept u { u with led := led } := ⟨rfl, rfl, rfl, rfl, rfl⟩

theorem RingKept.refl_setCtx (u : State) (x : Nat) (c : CtxSt) : RingKept u (u.setCtx x c) := ⟨rfl, rfl, rfl, rfl, rfl⟩

theorem ringKept_refreshSlots (u : State) : RingKept u u.refreshSlots :=
  .of_kept (fs := [LG_STAT_CLOSE_FREE]) (kept_wr _ _ (by decide) (kept_refl u)) rfl (by decide)

section
variable {s : State} {e : List Byte} (heads : s.ring.heads = [e]) (start : s.cmdMayStart e = true) (runs : s.islandRuns 5 = true)
  (en : s.is HR_CMD_CFG_EN = true)

theorem begun_led : (begun s e).led = s.led := (begun_parts s e).1 .led (by simp [ringParts])

/-- A context that leaves use, its counters not yet in a slot. -/
def leaving (u : State) (x id : Nat) : State :=
  ((stripped u x).setCtx x { owner := (u.ctx x).owner, closing := some (some id), dirty := (u.ctx x).dirty }).dirtyEnd x none

/-- The check of `CTX_DESTROY`. -/
def mayDestroy (u : State) (x : Nat) : Bool :=
  (u.ctx x).state == cACTIVE && (u.ctx x).evr.isNone && (u.ctxQueues x).all (fun k => (u.q k).state == qUNSET)

/-- The effect of a destruction. -/
def destroyed (u : State) (x id : Nat) : State :=
  if 64 ≤ u.slotsTaken then u.cmdDone id sNORES 0
  else if (leaving u x id).inFlight x then leaving u x id else (leaving u x id).ctxClose x (some id)

include heads start runs in
theorem exec_ctxDestroy (hop : byteAt e 0 = 2) (form : (cmdOf e).formOk [] = true) (real : (cmdOf e).ctx ≠ 0) :
    ∃ f, f (begun s e) = destroyed (begun s e) (cmdOf e).ctx s.ring.nextId ∧
      exec .ctxDestroy s = .next ((begun s e).legal s.ring.nextId (mayDestroy (begun s e) (cmdOf e).ctx) f) :=
  ⟨_, rfl, congrArg Host.Outcome.next (runCmd_eq heads start runs hop form (p := fun c _ => c.ctx != 0) (by simp [real]) _)⟩

theorem mayDestroy_begun (x : Nat) : mayDestroy (begun s e) x = mayDestroy s x := by
  simp only [mayDestroy, State.ctxQueues, begun_ctx, begun_q]

theorem begun_slotsTaken : (begun s e).slotsTaken = s.slotsTaken := by rw [State.slotsTaken, begun_led, begun_ctxs, State.slotsTaken]

/-- What stands while a context leaves: the queues are the pool's, its frames and requests are as they were. -/
theorem leaving_base (shaps : NoShapCmd s) (x id : Nat) :
    let w := (stripped (begun s e) x).setCtx x { owner := (s.ctx x).owner, closing := some (some id), dirty := (s.ctx x).dirty }
    leaving (begun s e) x id = w.dirtyEnd x none ∧ Given (begun s e) (stripped (begun s e) x) ∧ (∀ k ∈ s.ctxQueues x, w.q k = {}) ∧
      w.led = s.led ∧ w.awaitsFor .dirtyMark x = s.awaitsFor .dirtyMark x := by
  have none := noShapCmd_begun (e := e) shaps
  have given := given_stripped none x
  refine ⟨by rw [leaving, begun_ctx], given, fun k mem => ?_, given.led.trans begun_led, ?_⟩
  · exact stripped_q none (ctxQueues_congr (begun_ctx s e x) ▸ mem)
  · rw [← begun_awaitsFor s e (by decide)]
    show (stripped (begun s e) x).awaitsFor _ _ = _
    rw [State.awaitsFor, given.fab, State.awaitsFor]

/-- A context whose counters have their slot leaves its number free, and the destruction ends. -/
theorem ctxClose_ends {s u : State} {id : Nat} {c : CmdSt} (ring : RingKept s u) (en : s.is HR_CMD_CFG_EN = true)
    (active : optGet u.ring.active id = some c) (x : Nat) :
    (u.ctxClose x (some id)).ctx x = { u.ctx x with closing := none, owner := 0 } ∧ (u.ctxClose x (some id)).qs = u.qs ∧
      (u.ctxClose x (some id)).led.slots.length = u.led.slots.length + 1 ∧ Ends s (u.ctxClose x (some id)) id c sOK 0 := by
  obtain ⟨led, slot, count⟩ := ledSlot_eq u x (u.ctx x).owner
  let v := ({ u with led := led } : State).refreshSlots.setCtx x { u.ctx x with closing := none, owner := 0 }
  have close : u.ctxClose x (some id) = v.cmdDone id sOK 0 := by
    unfold State.ctxClose
    extract_lets c
    rw [slot]
    rfl
  have kept : RingKept u v := .trans (ringKept_led u led) ((ringKept_refreshSlots _).trans (.refl_setCtx _ x _))
  rw [close]
  refine ⟨(cmdDone_ctx ..).trans (ctx_setCtx_same ..), cmdDone_qs .., ?_, cmdDone_ends (ring.trans kept) en active sOK 0⟩
  have parts := (cmdDone_parts v id sOK 0).1 .led (by simp [ringParts])
  exact (congrArg (fun l : LedSt => l.slots.length) parts).trans count

/-- A session's end with no mark under way changes only contexts. -/
theorem dirtyEnd_rest {s u : State} {x id : Nat} {c : CmdSt} {l : List Nat} (idle : u.awaitsFor .dirtyMark x = false)
    (stop : (u.ctx x).dirty.bind (·.stopCmd) = none) (queues : ∀ k ∈ l, u.q k = {}) (ring : RingKept s u) (active : optGet u.ring.active id = some c) :
    (u.dirtyEnd x none).ctx x = { u.ctx x with dirty := none } ∧ (∀ k ∈ l, (u.dirtyEnd x none).q k = {}) ∧ (u.dirtyEnd x none).led = u.led ∧
      RingKept s (u.dirtyEnd x none) ∧ optGet (u.dirtyEnd x none).ring.active id = some c := by
  obtain ⟨⟨m, rest⟩, now⟩ := dirtyEnd_idle idle stop
  refine ⟨now, ?_⟩
  rw [rest]
  exact ⟨queues, rfl, ⟨ring.cpi, ring.en, ring.log2, ring.lo, ring.hi⟩, active⟩

/-- A context leaves use with no mark under way: what stands until its frames have ended. -/
theorem leaving_idle (shaps : NoShapCmd s) {x : Nat} (idle : s.awaitsFor .dirtyMark x = false) (stop : (s.ctx x).dirty.bind (·.stopCmd) = none) :
    (leaving (begun s e) x s.ring.nextId).ctx x = { owner := (s.ctx x).owner, closing := some (some s.ring.nextId) } ∧
      (∀ k ∈ s.ctxQueues x, (leaving (begun s e) x s.ring.nextId).q k = {}) ∧ (leaving (begun s e) x s.ring.nextId).led = s.led ∧
      RingKept s (leaving (begun s e) x s.ring.nextId) ∧
      optGet (leaving (begun s e) x s.ring.nextId).ring.active s.ring.nextId = some (cmdOf e) := by
  obtain ⟨eq, given, queues, led, waits⟩ := leaving_base (e := e) shaps x s.ring.nextId
  have ctx := ctx_setCtx_same (stripped (begun s e) x) x { owner := (s.ctx x).owner, closing := some (some s.ring.nextId), dirty := (s.ctx x).dirty }
  have active : optGet (stripped (begun s e) x).ring.active s.ring.nextId = some (cmdOf e) := by
    rw [given.ringPart]
    exact begun_active s e
  have ring : RingKept s (stripped (begun s e) x) := (begun_ring s e).trans given.ring
  have ring' := ring.trans (.refl_setCtx _ x { owner := (s.ctx x).owner, closing := some (some s.ring.nextId), dirty := (s.ctx x).dirty })
  obtain ⟨now, queues', led', ring'', active'⟩ := dirtyEnd_rest (waits.trans idle) (by rw [ctx]; exact stop) queues ring' active
  rw [eq]
  exact ⟨by rw [now, ctx], queues', led'.trans led, ring'', active'⟩

/-- A context leaves use with a mark under way: its session ends later. -/
theorem leaving_busy (shaps : NoShapCmd s) {x : Nat} {d : DirtySt} (session : (s.ctx x).dirty = some d) (busy : s.awaitsFor .dirtyMark x = true) :
    ((leaving (begun s e) x s.ring.nextId).ctx x).state = cFREE ∧
      ((leaving (begun s e) x s.ring.nextId).ctx x).dirty = some { d with stopping := true } := by
  obtain ⟨eq, -, -, -, waits⟩ := leaving_base (e := e) shaps x s.ring.nextId
  have ctx := ctx_setCtx_same (stripped (begun s e) x) x { owner := (s.ctx x).owner, closing := some (some s.ring.nextId), dirty := (s.ctx x).dirty }
  rw [eq, dirtyEnd_busy (by rw [ctx]; exact session) (waits.trans busy), withSession_ctx, ctx]
  exact ⟨rfl, rfl⟩

include heads start runs en in
theorem ctxDestroy_ends (hop : byteAt e 0 = 2) (form : (cmdOf e).formOk [] = true) (real : (cmdOf e).ctx ≠ 0) (shaps : NoShapCmd s) :
    let c := cmdOf e
    let x := c.ctx
    let id := s.ring.nextId
    (mayDestroy s x = false → ∃ t, exec .ctxDestroy s = .next t ∧ t.ctxs = s.ctxs ∧ t.qs = s.qs ∧ Ends s t id c sSTATE 0) ∧
    (mayDestroy s x = true → 64 ≤ s.slotsTaken → ∃ t, exec .ctxDestroy s = .next t ∧ t.ctxs = s.ctxs ∧ t.qs = s.qs ∧ Ends s t id c sNORES 0) ∧
    (mayDestroy s x = true → s.slotsTaken < 64 → s.inFlight x = false → s.awaitsFor .dirtyMark x = false → (s.ctx x).dirty.bind (·.stopCmd) = none →
      ∃ t, exec .ctxDestroy s = .next t ∧ t.ctx x = {} ∧ (∀ k ∈ s.ctxQueues x, t.q k = {}) ∧ t.led.slots.length = s.led.slots.length + 1 ∧
        Ends s t id c sOK 0) ∧
    (∀ d, mayDestroy s x = true → s.slotsTaken < 64 → (s.ctx x).dirty = some d → s.awaitsFor .dirtyMark x = true →
      ∃ t, exec .ctxDestroy s = .next t ∧ (t.ctx x).state = cFREE ∧ (t.ctx x).dirty = some { d with stopping := true }) ∧
    (mayDestroy s x = true → s.slotsTaken < 64 → s.inFlight x = true → s.awaitsFor .dirtyMark x = false → (s.ctx x).dirty.bind (·.stopCmd) = none →
      ∃ t, exec .ctxDestroy s = .next t ∧ t.ctx x = { owner := (s.ctx x).owner, closing := some (some id) } ∧
        (∀ k ∈ s.ctxQueues x, t.q k = {}) ∧ t.led.slots = s.led.slots ∧ optGet t.ring.active id = some c) := by
  intro c x id
  obtain ⟨f, effect, run⟩ := exec_ctxDestroy heads start runs hop form real
  obtain ⟨pass, fail⟩ := legal_cases (e := e) en (p := mayDestroy s x) (f := f) rfl (refused_eq_zero _ (by omega) (by omega))
  rw [mayDestroy_begun] at run
  have taken (may : mayDestroy s x = true) (room : s.slotsTaken < 64) : exec .ctxDestroy s =
      .next (if (leaving (begun s e) x id).inFlight x then leaving (begun s e) x id else (leaving (begun s e) x id).ctxClose x (some id)) := by
    rw [run, pass may, effect, destroyed, begun_slotsTaken, if_neg (by omega)]
  have frames {w : State} (led : w.led = s.led) : w.inFlight x = s.inFlight x := by rw [State.inFlight, led, State.inFlight]
  refine ⟨fun may => ⟨_, run, fail (by rw [may]; exact Bool.false_ne_true)⟩, fun may full => ?_, fun may room flight idle stop => ?_,
    fun d may room session busy => ?_, fun may room flight idle stop => ?_⟩
  · refine ⟨_, run, ?_⟩
    rw [pass may, effect, destroyed, begun_slotsTaken, if_pos full]
    exact begun_cmdDone en ..
  · obtain ⟨ctx, queues, led, ring, active⟩ := leaving_idle (e := e) shaps idle stop
    refine ⟨_, taken may room, ?_⟩
    rw [frames led, flight, if_neg Bool.false_ne_true]
    obtain ⟨ctx', qs, slots, ends⟩ := ctxClose_ends ring en active x
    refine ⟨by rw [ctx', ctx], fun k mem => ?_, by rw [slots, led], ends⟩
    rw [State.q, qs]
    exact queues k mem
  · obtain ⟨state, dirty⟩ := leaving_busy (e := e) shaps session busy
    refine ⟨_, taken may room, ?_⟩
    split
    · exact ⟨state, dirty⟩
    · obtain ⟨led, slot, -⟩ := ledSlot_eq (leaving (begun s e) x id) x ((leaving (begun s e) x id).ctx x).owner
      have ctx : ((leaving (begun s e) x id).ctxClose x (some id)).ctx x = { (leaving (begun s e) x id).ctx x with closing := none, owner := 0 } :=
        (cmdDone_ctx ..).trans (ctx_setCtx_same ..)
      rw [ctx]
      exact ⟨state, dirty⟩
  · obtain ⟨ctx, queues, led, -, active⟩ := leaving_idle (e := e) shaps idle stop
    refine ⟨_, taken may room, ?_⟩
    rw [frames led, flight, if_pos rfl]
    exact ⟨ctx, queues, by rw [led], active⟩

end

end Sys2Proof.Proofs
end

section
/-! PROOFS. Reset, freeze and resumption of a context (R266, R270, R275). -/

namespace Sys2Proof.Proofs

open Sys2Proof.Machine Sys2Proof.Laws

set_option Elab.async false

/-! ## Descriptor reads that are withdrawn -/

theorem q_setQ_other (s : State) {j k : Nat} (h : j ≠ k) (x : QSt) : (s.setQ k x).q j = s.q j := (mapGet_set ..).trans (if_neg h)

theorem txTidy_q (s : State) {j k : Nat} (h : j ≠ k) : (s.txTidy k).q j = s.q j := q_setQ_other _ h _

theorem txSettle_q (s : State) {j k : Nat} (h : j ≠ k) : (s.txSettle k).q j = s.q j := by
  unfold State.txSettle
  extract_lets q
  split
  · exact txTidy_q s h
  · split
    · rfl
    · refine (txTidy_q _ h).trans ?_
      split <;> rfl

theorem txSettle_fab (s : State) (k : Nat) : (s.txSettle k).fab = s.fab := by
  have hk : Keeps (fun p => p ≠ .fab) s (s.txSettle k) := by
    apply +allowSynthFailures keeps_txSettle
    case hk => exact Keeps.refl s
    all_goals exact ⟨by decide⟩
  exact hk.1 .fab (by decide)

/-- Every descriptor read of queue `k` has been issued. -/
def ReadsIssued (s : State) (k : Nat) : Prop := ∀ r ∈ s.fab.reqs, r.kind = .descRead → r.a = k → r.tag.isSome = true

theorem withdrawReads_q (s : State) {j k : Nat} (h : j ≠ k) : (s.withdrawReads k).q j = s.q j := by
  unfold State.withdrawReads
  extract_lets mine off
  split
  · rfl
  · extract_lets late n fp u x w
    have set : w.q j = s.q j := q_setQ_other u h _
    split
    · exact (txSettle_q w h).trans set
    · exact set

/-- The reads not issued are gone; those of other queues are as they were. -/
theorem withdrawReads_issued (s : State) (k j : Nat) (h : j = k ∨ ReadsIssued s j) : ReadsIssued (s.withdrawReads k) j := by
  unfold State.withdrawReads
  extract_lets mine off
  split
  case h_1 none =>
    refine h.elim (fun e => ?_) id
    subst e
    intro r mem kind a
    cases tag : r.tag with
    | some _ => rfl
    | none =>
      have empty := List.map_eq_nil_iff.1 (List.min?_eq_none_iff.1 none)
      have here : r ∈ s.fab.reqs.filter (fun r => mine r && r.tag.isNone) := List.mem_filter.2 ⟨mem, by simp [mine, kind, a, tag]⟩
      rw [empty] at here
      exact absurd here List.not_mem_nil
  case h_2 m _ =>
    extract_lets late n fp u x w
    have issued : ReadsIssued w j := by
      intro r mem kind a
      obtain ⟨p, kept, rfl⟩ := List.mem_map.1 mem
      obtain ⟨old, stay⟩ := List.mem_filter.1 kept
      by_cases own : mine p = true
      · have tag : p.tag.isNone = false := by simpa [own] using stay
        have some : p.tag.isSome = true := by simpa using tag
        split <;> exact some
      · have same : (if (mine p && late p.b) = true then { p with a := p.a + 65536 } else p) = p := if_neg (by simp [own])
        rw [same] at kind a ⊢
        have other : j ≠ k := fun e => own (by simp [mine, kind, a, e])
        exact h.resolve_left other p old kind a
    split
    · unfold ReadsIssued
      rw [txSettle_fab]
      exact issued
    · exact issued

theorem withdrawAll_q {l : List Nat} : ∀ {s : State} {j : Nat}, j ∉ l → (s.each l (fun s k => s.withdrawReads k)).q j = s.q j := by
  induction l with
  | nil => exact fun _ => rfl
  | cons k l ih =>
    intro s j h
    obtain ⟨other, rest⟩ := not_or.1 (List.mem_cons.not.1 h)
    exact (ih rest).trans (withdrawReads_q s other)

theorem withdrawAll_issued {l : List Nat} : ∀ {s : State} {j : Nat}, j ∈ l ∨ ReadsIssued s j → ReadsIssued (s.each l (fun s k => s.withdrawReads k)) j := by
  induction l with
  | nil => exact fun h => h.resolve_left List.not_mem_nil
  | cons k l ih =>
    intro s j h
    refine ih (s := s.withdrawReads k) ?_
    rcases h with mem | issued
    · rcases List.mem_cons.1 mem with rfl | mem
      · exact .inr (withdrawReads_issued s j j (.inl rfl))
      · exact .inl mem
    · exact .inr (withdrawReads_issued s k j (.inr issued))

theorem Calm.vecRecall {a s : State} (h : Calm a s) (x v : Nat) : Calm a (s.vecRecall x v) := by
  have settled := h.vecSettle x v
  exact (settled.fab _).setVec ..

theorem recallAll_qs (s : State) (x : Nat) (l : List Nat) : (s.each l (fun s v => s.vecRecall x v)).qs = s.qs := by
  have hk : Keeps (fun p => p ≠ .qs) s (s.each l (fun s v => s.vecRecall x v)) := by
    refine keeps_each (fun t v ht => ?_) (.refl s)
    apply +allowSynthFailures keeps_vecRecall
    case hk => exact ht
    all_goals exact ⟨by decide⟩
  exact hk.1 .qs (by decide)

theorem Calm.ctxQueues {s t : State} (h : Calm s t) (x : Nat) : t.ctxQueues x = s.ctxQueues x := by
  obtain ⟨-, txq, rxq, -, -⟩ := h.ctx x
  rw [State.ctxQueues, txq, rxq, State.ctxQueues]

section
variable {s : State} {e : List Byte} (heads : s.ring.heads = [e]) (start : s.cmdMayStart e = true) (runs : s.islandRuns 5 = true)
  (en : s.is HR_CMD_CFG_EN = true)

/-! ## `CTX_FREEZE` -/

/-- Messages called back and reads withdrawn. -/
def calledBack (u : State) (x : Nat) : State :=
  let v := u.each ((u.ctx x).vecs.map (·.1)) (fun s v => s.vecRecall x v)
  v.each (v.ctxQueues x) (fun s k => s.withdrawReads k)

/-- The effect of a freeze. -/
def frozen (u : State) (x id : Nat) : State :=
  (calledBack u x).setCtx x { (calledBack u x).ctx x with state := cFREEZING, freeze := some (some id, (calledBack u x).tm.tick) }

theorem calm_calledBack (u : State) (x : Nat) : Calm u (calledBack u x) :=
  .each (.each (.refl u) fun _ _ _ ht => ht.vecRecall ..) fun _ _ _ ht => ht.withdrawReads _

def calledBackParts (p : Part) : Prop := p ∈ [Part.ctxs, .fab, .qs, .txs]

theorem calledBack_parts (u : State) (x : Nat) : Keeps calledBackParts u (calledBack u x) := by
  refine keeps_each (fun t k ht => ?_) (keeps_each (fun t v ht => ?_) (.refl u))
  · apply +allowSynthFailures keeps_withdrawReads
    case hk => exact ht
    all_goals exact ⟨by simp [calledBackParts]⟩
  · apply +allowSynthFailures keeps_vecRecall
    case hk => exact ht
    all_goals exact ⟨by simp [calledBackParts]⟩

theorem calledBack_q (u : State) (x : Nat) {k : Nat} (h : k ∉ u.ctxQueues x) : (calledBack u x).q k = u.q k := by
  unfold calledBack
  extract_lets v
  have calm : Calm u v := .each (.refl u) fun _ _ _ ht => ht.vecRecall ..
  have qs : v.qs = u.qs := recallAll_qs ..
  rw [withdrawAll_q (by rwa [calm.ctxQueues]), State.q, qs, State.q]

theorem calledBack_issued (u : State) (x : Nat) {k : Nat} (h : k ∈ u.ctxQueues x) : ReadsIssued (calledBack u x) k := by
  unfold calledBack
  extract_lets v
  have calm : Calm u v := .each (.refl u) fun _ _ _ ht => ht.vecRecall ..
  exact withdrawAll_issued (.inl (by rwa [calm.ctxQueues]))

include heads start runs in
theorem exec_ctxFreeze (hop : byteAt e 0 = 4) (form : (cmdOf e).formOk [] = true) :
    exec .ctxFreeze s = .next ((begun s e).legal s.ring.nextId (((begun s e).ctx (cmdOf e).ctx).state == cACTIVE) (fun u =>
      frozen u (cmdOf e).ctx s.ring.nextId)) :=
  congrArg Host.Outcome.next (runCmd_eq heads start runs hop form (p := fun _ _ => true) rfl _)

include heads start runs en in
theorem ctxFreeze_ends (hop : byteAt e 0 = 4) (form : (cmdOf e).formOk [] = true) :
    let c := cmdOf e
    let x := c.ctx
    let id := s.ring.nextId
    ((s.ctx x).state = cACTIVE → ∃ t, exec .ctxFreeze s = .next t ∧
      (t.ctx x).state = cFREEZING ∧ (t.ctx x).freeze = some (some id, s.tm.tick) ∧ (t.ctx x).txq = (s.ctx x).txq ∧ (t.ctx x).rxq = (s.ctx x).rxq ∧
      (∀ r ∈ t.fab.reqs, r.kind = .descRead → r.a ∈ s.ctxQueues x → r.tag.isSome = true) ∧
      (∀ k, (s.ctxQueues x).contains k = false → t.q k = s.q k) ∧ optGet t.ring.active id = some c) ∧
    ((s.ctx x).state ≠ cACTIVE → ∃ t, exec .ctxFreeze s = .next t ∧ t.ctxs = s.ctxs ∧ t.qs = s.qs ∧ Ends s t id c sSTATE 0) := by
  intro c x id
  have run := exec_ctxFreeze heads start runs hop form
  obtain ⟨pass, fail⟩ := legal_cases (e := e) en (f := fun u => frozen u x id) rfl (refused_eq_zero _ (by omega) (by omega))
  rw [begun_ctx] at run
  refine ⟨fun active => ?_, fun other => ⟨_, run, fail (by simpa using other)⟩⟩
  rw [pass (by simpa using active)] at run
  refine ⟨_, run, ?_⟩
  have calm := calm_calledBack (begun s e) x
  have parts := (calledBack_parts (begun s e) x).1
  have queues : (begun s e).ctxQueues x = s.ctxQueues x := ctxQueues_congr (begun_ctx s e x)
  obtain ⟨-, txq, rxq, -, -⟩ := calm.ctx x
  have ctx : (frozen (begun s e) x id).ctx x = { (calledBack (begun s e) x).ctx x with state := cFREEZING, freeze := some (some id, (calledBack (begun s e) x).tm.tick) } := ctx_setCtx_same ..
  rw [begun_ctx] at txq rxq
  refine ⟨by rw [ctx], ?_, by rw [ctx]; exact txq, by rw [ctx]; exact rxq, fun r mem kind a => ?_, fun k hk => ?_, ?_⟩
  · rw [ctx, parts .tm (by simp [calledBackParts]), begun_tm]
  · exact calledBack_issued (begun s e) x (queues ▸ a) r mem kind rfl
  · refine (calledBack_q (begun s e) x (k := k) ?_).trans (begun_q s e k)
    rw [queues]
    simpa using hk
  · show optGet (calledBack (begun s e) x).ring.active id = _
    rw [parts .ring (by simp [calledBackParts])]
    exact begun_active s e

/-! ## `CTX_RESUME` -/

def resumedParts (p : Part) : Prop := p ∈ [Part.ctxs, .fab]

def eventParts (p : Part) : Prop := p ∈ [Part.ctxs, .fab, .free, .regs]

theorem vecRelease_parts (u : State) (x : Nat) : Keeps resumedParts u (u.vecRelease x) := by
  apply +allowSynthFailures keeps_vecRelease
  case hk => exact Keeps.refl u
  all_goals exact ⟨by simp [resumedParts]⟩

theorem ctxEvent_parts (u : State) (x type status idx addr : Nat) : Keeps eventParts u (u.ctxEvent x type status idx addr) := by
  apply +allowSynthFailures keeps_ctxEvent
  case hk => exact Keeps.refl u
  all_goals exact ⟨by simp [eventParts]⟩

/-- The context runs again and its messages may go. -/
def resuming (u : State) (x : Nat) : State :=
  (u.setCtx x { u.ctx x with state := cACTIVE, vecs := (u.ctx x).vecs.map (fun e => (e.1, { e.2 with un := if e.2.un.isEmpty then [] else [u.tm.tick] })) }).vecRelease x

/-- The effect of a resumption. -/
def resumed (u : State) (x id : Nat) : State :=
  (if (u.ctx x).evState then (resuming u x).ctxEvent x 9 sOK 0 0 else resuming u x).cmdDone id sOK 0

theorem running_rest (u : State) (x : Nat) :
    ((resuming u x).ctx x).state = cACTIVE ∧ (resuming u x).qs = u.qs ∧ (resuming u x).ring = u.ring ∧ (resuming u x).flds = u.flds := by
  unfold resuming
  generalize hc : ({ u.ctx x with state := cACTIVE, vecs := _ } : CtxSt) = c
  have active : c.state = cACTIVE := by rw [← hc]
  have parts := (vecRelease_parts (u.setCtx x c) x).1
  have calm := (Calm.vecRelease (.refl (u.setCtx x c)) x).ctx x
  refine ⟨?_, parts .qs (by simp [resumedParts]), parts .ring (by simp [resumedParts]), parts .regs (by simp [resumedParts])⟩
  rw [calm.state, ctx_setCtx_same, active]

/-- Where a step of the context's reports it, that changes nothing else of it. -/
theorem reported_rest {b : Bool} (u : State) (x type status idx addr : Nat) :
    let v := if b then u.ctxEvent x type status idx addr else u
    (v.ctx x).state = (u.ctx x).state ∧ v.qs = u.qs ∧ v.ring = u.ring ∧ Kept (eventFields x) u v := by
  intro v
  have parts := (ctxEvent_parts u x type status idx addr).1
  obtain ⟨r, ctx⟩ := ctxEvent_ctx u x type status idx addr
  unfold v
  split
  · exact ⟨by rw [ctx], parts .qs (by simp [eventParts]), parts .ring (by simp [eventParts]), kept_ctxEvent u x type status idx addr⟩
  · exact ⟨rfl, rfl, rfl, kept_refl u⟩

theorem eventFields_high (x : Nat) : ∀ f ∈ eventFields x, 0x100018 * 32 ≤ f.key := by
  intro f hf
  simp only [eventFields, List.mem_cons, List.not_mem_nil, or_false] at hf
  rcases hf with rfl | rfl <;> simp only [Fld.key, HR_CTX_EVL_EV_LOST, HR_EVT_EV_LOST] <;> omega

include heads start runs in
theorem exec_ctxResume (hop : byteAt e 0 = 7) (form : (cmdOf e).formOk [] = true) :
    exec .ctxResume s = .next ((begun s e).legal s.ring.nextId (((begun s e).ctx (cmdOf e).ctx).state == cFROZEN) (fun u =>
      resumed u (cmdOf e).ctx s.ring.nextId)) :=
  congrArg Host.Outcome.next (runCmd_eq heads start runs hop form (p := fun _ _ => true) rfl _)

include heads start runs en in
theorem ctxResume_ends (hop : byteAt e 0 = 7) (form : (cmdOf e).formOk [] = true) :
    let c := cmdOf e
    let x := c.ctx
    let id := s.ring.nextId
    ((s.ctx x).state = cFROZEN → ∃ t, exec .ctxResume s = .next t ∧ (t.ctx x).state = cACTIVE ∧ t.qs = s.qs ∧ Ends s t id c sOK 0) ∧
    ((s.ctx x).state ≠ cFROZEN → ∃ t, exec .ctxResume s = .next t ∧ t.ctxs = s.ctxs ∧ t.qs = s.qs ∧ Ends s t id c sSTATE 0) := by
  intro c x id
  have run := exec_ctxResume heads start runs hop form
  obtain ⟨pass, fail⟩ := legal_cases (e := e) en (f := fun u => resumed u x id) rfl (refused_eq_zero _ (by omega) (by omega))
  rw [begun_ctx] at run
  refine ⟨fun frozen => ?_, fun other => ⟨_, run, fail (by simpa using other)⟩⟩
  rw [pass (by simpa using frozen)] at run
  refine ⟨_, run, ?_⟩
  obtain ⟨active, qs, ring, flds⟩ := running_rest (begun s e) x
  obtain ⟨state, qs', ring', kept⟩ := reported_rest (b := ((begun s e).ctx x).evState) (resuming (begun s e) x) x 9 sOK 0 0
  refine ⟨?_, (cmdDone_qs ..).trans (qs'.trans (qs.trans (begun_qs s e))), ?_⟩
  · exact (congrArg (·.state) (cmdDone_ctx ..)).trans (state.trans active)
  · exact begun_ends en (ring'.trans ring) (kept_trans (kept_flds flds (kept_refl _)) kept) (eventFields_high x) sOK 0

/-! ## `CTX_RESET` -/

/-- A queue that runs stops; one that drains notes what is posted (R266). -/
def stopQueue (s : State) (drain : Bool) (k : Nat) : State :=
  if (s.q k).state = qRUN then s.setQ k { s.q k with state := qSTOPPING, faulted := false, drainPi := if drain then some (s.q k).pi else none } else s

/-- A queue that runs stops, and one that is stopping goes on. -/
theorem stopQueues_state {s : State} {x : Nat} {drain : Bool} {k : Nat} (mem : k ∈ s.ctxQueues x) (run : (s.q k).state = qRUN) :
    ((s.stopQueues x drain).q k).state = qSTOPPING := by
  unfold State.stopQueues State.each
  generalize s.ctxQueues x = l at mem
  have go : ∀ (l : List Nat) (s : State), (k ∈ l ∧ (s.q k).state = qRUN) ∨ (s.q k).state = qSTOPPING →
      ((l.foldl (fun s k => stopQueue s drain k) s).q k).state = qSTOPPING := by
    intro l
    induction l with
    | nil => exact fun s h => h.resolve_left fun h => List.not_mem_nil h.1
    | cons j l ih =>
      intro s h
      refine ih (stopQueue s drain j) ?_
      by_cases e : j = k
      · subst e
        refine .inr ?_
        rcases h with ⟨-, run⟩ | stopping
        · have stops : stopQueue s drain j = _ := if_pos run
          rw [stops, q_setQ_same]
        · have stays : stopQueue s drain j = s := if_neg (by rw [stopping]; decide)
          rw [stays]
          exact stopping
      · have same : (stopQueue s drain j).q k = s.q k := by
          unfold stopQueue
          split
          · exact q_setQ_other s (Ne.symm e) _
          · rfl
        rw [same]
        exact h.imp_left fun ⟨mem, run⟩ => ⟨(List.mem_cons.1 mem).resolve_left (Ne.symm e), run⟩
  exact go l s (.inl ⟨mem, run⟩)

def resetParts (p : Part) : Prop := p ∉ [Part.ring, .tm]

/-- The context's messages may go and, of a squashing reset, its work ends. -/
def settledReset (u : State) (x : Nat) (squash : Bool) : State :=
  if squash then (u.vecRelease x).squashAll x else u.vecRelease x

theorem calm_settledReset (u : State) (x : Nat) (squash : Bool) : Calm u (settledReset u x squash) :=
  have released : Calm u (u.vecRelease x) := .vecRelease (.refl u) x
  .ite (released.squashAll x) released

theorem settledReset_parts (u : State) (x : Nat) (squash : Bool) : Keeps resetParts u (settledReset u x squash) := by
  have released : Keeps resetParts u (u.vecRelease x) := by
    apply +allowSynthFailures keeps_vecRelease
    case hk => exact Keeps.refl u
    all_goals exact ⟨by simp [resetParts]⟩
  unfold settledReset
  split
  · apply +allowSynthFailures keeps_squashAll
    case hk => exact released
    all_goals exact ⟨by simp [resetParts]⟩
  · exact released

/-- A reset that begins. -/
def resetOf (squash : Bool) (id tick : Nat) : ResetSt := ⟨squash, some id, tick, 0, false⟩

/-- A context whose reset begins. -/
def resetCtx (n : CtxSt) (r : ResetSt) : CtxSt := { n with state := cRESETTING, reset := some r }

/-- A reset begins: the queues stop and, of a squashing reset, the work ends. -/
def startReset (u : State) (x : Nat) (r : ResetSt) : State :=
  settledReset ((u.setCtx x (resetCtx (u.ctx x) r)).stopQueues x (!r.squash)) x r.squash

theorem stopQueues_ctxs (u : State) (x : Nat) (drain : Bool) : (u.stopQueues x drain).ctxs = u.ctxs ∧ (u.stopQueues x drain).ring = u.ring := by
  have hk : Keeps (fun p => p = .qs) u (u.stopQueues x drain) := by
    apply +allowSynthFailures keeps_stopQueues
    case hk => exact Keeps.refl u
    all_goals exact ⟨rfl⟩
  exact ⟨hk.1 .ctxs (by decide), hk.1 .ring (by decide)⟩

/-- What stands once a reset has begun. -/
theorem startReset_rest (u : State) (x : Nat) (r : ResetSt) : let t := startReset u x r
    (t.ctx x).state = cRESETTING ∧ (t.ctx x).reset.map uncounted = some (uncounted r) ∧ t.ring = u.ring ∧
      ∀ k ∈ u.ctxQueues x, (u.q k).state = qRUN → (t.q k).state = qSTOPPING := by
  unfold startReset
  generalize hv : (u.setCtx x (resetCtx (u.ctx x) r)).stopQueues x (!r.squash) = v
  obtain ⟨ctxs, ring⟩ := stopQueues_ctxs (u.setCtx x (resetCtx (u.ctx x) r)) x (!r.squash)
  rw [hv] at ctxs ring
  have ctx : v.ctx x = resetCtx (u.ctx x) r := by
    rw [State.ctx, ctxs]
    exact ctx_setCtx_same ..
  have calm := calm_settledReset v x r.squash
  obtain ⟨state, -, -, -, reset⟩ := calm.ctx x
  rw [ctx] at state reset
  refine ⟨state, reset, ((settledReset_parts v x r.squash).1 .ring (by simp [resetParts])).trans ring, fun k mem run => ?_⟩
  rw [calm.q k, ← hv]
  refine stopQueues_state ?_ run
  rw [State.ctxQueues, ctx_setCtx_same]
  exact mem

include heads start runs in
theorem exec_ctxReset (hop : byteAt e 0 = 3) (form : (cmdOf e).formOk [(8, 0, 1)] = true) :
    ∃ f, f (begun s e) = startReset (begun s e) (cmdOf e).ctx (resetOf ((cmdOf e).f 8 0 1 == 1) s.ring.nextId (begun s e).tm.tick) ∧
      exec .ctxReset s = .next ((begun s e).legal s.ring.nextId
        (((begun s e).ctx (cmdOf e).ctx).state == cACTIVE || ((begun s e).ctx (cmdOf e).ctx).state == cFROZEN) f) :=
  ⟨_, rfl, congrArg Host.Outcome.next (runCmd_eq heads start runs hop form (p := fun _ _ => true) rfl _)⟩

include heads start runs en in
theorem ctxReset_ends (hop : byteAt e 0 = 3) (form : (cmdOf e).formOk [(8, 0, 1)] = true) :
    let c := cmdOf e
    let x := c.ctx
    let id := s.ring.nextId
    ((s.ctx x).state = cACTIVE ∨ (s.ctx x).state = cFROZEN →
      ∃ t r, exec .ctxReset s = .next t ∧ (t.ctx x).state = cRESETTING ∧ (t.ctx x).reset = some r ∧ r.squash = (c.f 8 0 1 == 1) ∧ r.cmd = some id ∧
        r.start = s.tm.tick ∧ r.timeout = false ∧ optGet t.ring.active id = some c ∧
        (∀ k ∈ s.ctxQueues x, (s.q k).state = qRUN → (t.q k).state = qSTOPPING)) ∧
    ((s.ctx x).state ≠ cACTIVE → (s.ctx x).state ≠ cFROZEN →
      ∃ t, exec .ctxReset s = .next t ∧ t.ctxs = s.ctxs ∧ t.qs = s.qs ∧ Ends s t id c sSTATE 0) := by
  intro c x id
  obtain ⟨f, effect, run⟩ := exec_ctxReset heads start runs hop form
  rw [begun_ctx] at run
  obtain ⟨pass, fail⟩ := legal_cases (e := e) en (p := (s.ctx x).state == cACTIVE || (s.ctx x).state == cFROZEN) (f := f) rfl
    (refused_eq_zero _ (by omega) (by omega))
  refine ⟨fun may => ?_, fun live ice => ⟨_, run, fail (by simp [live, ice])⟩⟩
  rw [pass (by simpa using may), effect] at run
  obtain ⟨state, reset, ring, stop⟩ := startReset_rest (begun s e) x (resetOf (c.f 8 0 1 == 1) id (begun s e).tm.tick)
  obtain ⟨r, now, same⟩ := Option.map_eq_some_iff.1 reset
  have start : r.start = (begun s e).tm.tick := congrArg ResetSt.start same
  refine ⟨_, r, run, state, now, congrArg ResetSt.squash same, congrArg ResetSt.cmd same, start.trans (by rw [begun_tm]), congrArg ResetSt.timeout same, ?_,
    fun k mem runs => stop k (ctxQueues_congr (begun_ctx s e x) ▸ mem) ((congrArg (·.state) (begun_q s e k)).trans runs)⟩
  rw [ring]
  exact begun_active s e

end

/-- Settles O47. -/
theorem contextCommands : Obligations.ContextCommands := by
  unfold Obligations.ContextCommands
  intro _ e s heads start runs en all
  have shaps := noShapCmd_of_all all
  exact ⟨fun hop form tx rx => ctxCreate_ends heads start runs en hop form tx rx shaps,
    fun hop form real => ctxDestroy_ends heads start runs en hop form real shaps,
    fun hop form => ctxReset_ends heads start runs en hop form,
    fun hop form => ctxFreeze_ends heads start runs en hop form,
    fun hop form => ctxResume_ends heads start runs en hop form⟩

end Sys2Proof.Proofs
end

section
/-! PROOFS. How resets and freezes end (R257, R268 to R271), and the commit of a context's shade set (R262). -/

namespace Sys2Proof.Proofs

open Sys2Proof.Machine Sys2Proof.Laws

set_option Elab.async false

theorem is_kept {fs : List Fld} {s t : State} (kept : Kept fs s t) {f : Fld} (h : f.key ∉ fs.map Fld.key) : t.is f = s.is f :=
  congrArg (· == 1) (rd_kept kept f h)

/-! ## `resetEnd` -/

theorem key_not_mem_event {f : Fld} (low : f.key < 0x118B004 * 32) (ne : f.key ≠ HR_EVT_EV_LOST.key) (x : Nat) : f.key ∉ (eventFields x).map Fld.key := by
  simp only [eventFields, List.map_cons, List.map_nil, List.mem_cons, List.not_mem_nil, or_false, not_or]
  exact ⟨by simp only [Fld.key, HR_CTX_EVL_EV_LOST] at low ⊢; omega, ne⟩

theorem doneFields_of_ne {st : Nat} (h : st ≠ sSTATE) (x : Nat) : doneFields st x = startFields := by
  rw [doneFields, if_neg h, List.append_nil]

/-- The event register shows what a step reports, after the context's event and the command's completion. -/
theorem reported_is {u v : State} {f : Fld} {x id st res : Nat} {c : CmdSt} (kept : Kept (eventFields x) u v)
    (active : optGet v.ring.active id = some c) (quiet : st ≠ sSTATE) (low : f.key < 0x118B004 * 32) (ne : f.key ≠ HR_EVT_EV_LOST.key)
    (off : f.key ∉ startFields.map Fld.key) : (v.cmdDone id st res).is f = u.is f := by
  have done : Kept (doneFields st c.ctx) v (v.cmdDone id st res) := kept_cmdDone active st res
  rw [doneFields_of_ne quiet] at done
  exact (is_kept done off).trans (is_kept kept (key_not_mem_event low ne x))

/-- A context back in `ACTIVE`, its reset at its end. -/
def resetOver (s : State) (x : Nat) : State := (s.setCtx x { s.ctx x with state := cACTIVE, reset := none }).raise CX_EVT_RESET_DONE

theorem resetEnd_ends {x : Fin 4096} {r : ResetSt} {id : Nat} {c : CmdSt} {s : State} (reset : (s.ctx x).reset = some r)
    (state : (s.ctx x).state = cRESETTING) (up : s.coreUp = true) (flight : s.inFlight x = false) (quiet : s.ctxQuiet x = true)
    (cmd : r.cmd = some id) (active : optGet s.ring.active id = some c) (en : s.is HR_CMD_CFG_EN = true) :
    ∃ t, exec (.resetEnd x) s = .next t ∧ (t.ctx x).state = cACTIVE ∧ (t.ctx x).reset = none ∧ t.is CX_EVT_RESET_DONE = true ∧
      Ends s t id c (if r.timeout then sTIMEOUT else sOK) 0 := by
  let st := if r.timeout then sTIMEOUT else sOK
  let v := (resetOver s x).ctxEvent x 8 st (min 0xFFFF r.count) 0
  have run : exec (.resetEnd x) s = .next (v.cmdDone id st 0) := by
    show execResetEnd x s = _
    unfold execResetEnd
    rw [reset]
    dsimp only
    rw [if_neg (by simp [state, flight, quiet, up]), cmd]
    rfl
  have kept := kept_ctxEvent (resetOver s x) x 8 st (min 0xFFFF r.count) 0
  have ring : v.ring = s.ring := (ctxEvent_parts (resetOver s x) x 8 st (min 0xFFFF r.count) 0).1 .ring (by simp [eventParts])
  have fine : st ≠ sSTATE := by unfold st; split <;> decide
  obtain ⟨l, ctx⟩ := ctxEvent_ctx (resetOver s x) x 8 st (min 0xFFFF r.count) 0
  have now : (v.cmdDone id st 0).ctx x = { (resetOver s x).ctx x with evr := l } := (cmdDone_ctx ..).trans ctx
  have back : (resetOver s x).ctx x = { s.ctx x with state := cACTIVE, reset := none } := ctx_setCtx_same s x { s.ctx x with state := cACTIVE, reset := none }
  have settings : RingKept s v := by
    refine .of_kept_high (kept_append (gs := [CX_EVT_RESET_DONE]) ?_ kept) (by rw [ring]) ?_
    · exact kept_wr _ _ (by simp) (kept_flds rfl (kept_refl s))
    · rw [List.forall_mem_append]
      exact ⟨eventFields_high x, by decide⟩
  have active' : optGet v.ring.active id = some c := by rw [ring]; exact active
  refine ⟨_, run, by rw [now, back], by rw [now, back], ?_, cmdDone_ends settings en active' st 0⟩
  exact (reported_is kept active' fine (by decide) (by decide) (by decide)).trans is_raise

theorem resetEnd_waits {x : Fin 4096} {s : State}
    (h : (s.ctx x).reset = none ∨ s.inFlight x = true ∨ s.ctxQuiet x = false ∨ s.coreUp = false) : exec (.resetEnd x) s = .next s := by
  show execResetEnd x s = _
  unfold execResetEnd
  cases reset : (s.ctx x).reset with
  | none => rfl
  | some r =>
    dsimp only
    rw [if_pos]
    rw [reset] at h
    rcases h with h | h | h | h
    · exact absurd h (by simp)
    all_goals simp [h]

/-! ## `drainTimeout` -/

/-- Its limit has passed: a reset squashes from now on. -/
def squashing (r : ResetSt) : ResetSt := { r with squash := true, timeout := true }

/-- The drain's limit is counted and the queues read no further. -/
def drainOver (s : State) (x : Nat) (r : ResetSt) : State :=
  let u := (s.setCtx x { s.ctx x with reset := some (squashing r) }).bump (CX_STAT_DRAIN_TMO x)
  u.each (u.ctxQueues x) (fun s k => s.setQ k { s.q k with drainPi := none })

theorem calm_drainOver (s : State) (x : Nat) (r : ResetSt) :
    Calm ((s.setCtx x { s.ctx x with reset := some (squashing r) }).bump (CX_STAT_DRAIN_TMO x)) (drainOver s x r) :=
  .each (.refl _) fun _ k _ ht => ht.setQ k rfl

theorem drainOver_parts (s : State) (x : Nat) (r : ResetSt) : Keeps resetParts s (drainOver s x r) := by
  refine keeps_each (fun t k ht => ?_) ?_
  · apply +allowSynthFailures keeps_setQ
    case hk => exact ht
    exact ⟨by simp [resetParts]⟩
  · apply +allowSynthFailures keeps_bump
    case hk =>
      apply +allowSynthFailures keeps_setCtx
      case hk => exact Keeps.refl s
      exact ⟨by simp [resetParts]⟩
    exact ⟨by simp [resetParts]⟩

theorem drainKey_tmo (x : Nat) : drainKey (CX_STAT_DRAIN_TMO x).key := by
  simp only [drainKey, Fld.key, CX_STAT_DRAIN_TMO]
  omega

theorem drainTimeout_ends {x : Fin 4096} {r : ResetSt} {s : State} (reset : (s.ctx x).reset = some r) (state : (s.ctx x).state = cRESETTING)
    (drains : r.squash = false) (up : s.coreUp = true) :
    ∃ t u, exec (.drainTimeout x) s = .next t ∧ (t.ctx x).state = cRESETTING ∧ (t.ctx x).reset = some u ∧ u.squash = true ∧ u.timeout = true ∧
      u.cmd = r.cmd ∧ u.start = r.start ∧ t.rd (CX_STAT_DRAIN_TMO x) = upBy s (CX_STAT_DRAIN_TMO x) 1 ∧
      t.tm.tick = max s.tm.tick (r.start + usTicks (s.rd CX_LIMITS_DRAIN_US)) := by
  obtain ⟨l, tm, adv, tick, clock⟩ := advanceTo_eq s (r.start + usTicks (s.rd CX_LIMITS_DRAIN_US))
  generalize hu : s.advanceTo (r.start + usTicks (s.rd CX_LIMITS_DRAIN_US)) = u at adv clock
  have run : exec (.drainTimeout x) s = .next ((drainOver u x r).squashAll x) := by
    show execDrainTimeout x s = _
    unfold execDrainTimeout
    rw [reset]
    dsimp only
    rw [if_neg (by simp [state, drains, up]), hu]
    rfl
  have uctx : u.ctx x = s.ctx x := by rw [adv]; rfl
  have utm : u.tm = tm := by rw [adv]
  have calm := (calm_drainOver u x r).squashAll x
  obtain ⟨same, -, -, -, now⟩ := calm.ctx x
  have set : ((u.setCtx x { u.ctx x with reset := some (squashing r) }).bump (CX_STAT_DRAIN_TMO x)).ctx x =
      { u.ctx x with reset := some (squashing r) } := ctx_setCtx_same ..
  rw [set] at same now
  obtain ⟨v, reset', alike⟩ := Option.map_eq_some_iff.1 now
  have parts : Keeps resetParts u ((drainOver u x r).squashAll x) := by
    apply +allowSynthFailures keeps_squashAll
    case hk => exact drainOver_parts u x r
    all_goals exact ⟨by simp [resetParts]⟩
  have squash := congrArg ResetSt.squash alike
  have timeout := congrArg ResetSt.timeout alike
  have cmd := congrArg ResetSt.cmd alike
  have start := congrArg ResetSt.start alike
  refine ⟨_, v, run, ?_, reset', squash, timeout, cmd, start, ?_, ?_⟩
  · rw [same, uctx, state]
  · have counter := calm.regs _ (drainKey_tmo x)
    have count : ((drainOver u x r).squashAll x).rd (CX_STAT_DRAIN_TMO x) = upBy u (CX_STAT_DRAIN_TMO x) 1 :=
      Eq.trans counter (rd_bump_same _ _ 1)
    rw [count]
    refine upBy_congr (rd_kept clock _ ?_)
    simp only [clockFields, List.map_cons, List.map_nil, List.mem_cons, List.not_mem_nil, or_false, not_or, Fld.key, CX_STAT_DRAIN_TMO,
      NY_MTIME_LO_MTIME, NY_MTIME_HI_MTIME, TM_AON_CNT_LO_COUNT, TM_AON_CNT_HI_COUNT]
    omega
  · rw [parts.1 .tm (by simp [resetParts]), utm, tick]

theorem drainTimeout_waits {x : Fin 4096} {s : State} (h : (s.ctx x).reset = none ∨ s.coreUp = false) : exec (.drainTimeout x) s = .next s := by
  show execDrainTimeout x s = _
  unfold execDrainTimeout
  cases reset : (s.ctx x).reset with
  | none => rfl
  | some r =>
    dsimp only
    rw [reset] at h
    have down : s.coreUp = false := h.resolve_left (by simp)
    rw [if_pos (by simp [down])]

/-! ## `freezeEnd` -/

/-- What was fetched for queue `k` and not used is forgotten. -/
def forget (s : State) (k : Nat) : State := (s.forgetReads k).setQ k { (s.forgetReads k).q k with bufs := [], fp := ((s.forgetReads k).q k).ci }

theorem forget_q (s : State) (k j : Nat) : ((forget s k).q j).ci = (s.q j).ci ∧
    (j = k ∨ (s.q j).bufs = [] ∧ (s.q j).fp = (s.q j).ci → ((forget s k).q j).bufs = [] ∧ ((forget s k).q j).fp = (s.q j).ci) := by
  by_cases h : j = k
  · subst h
    have q : (s.forgetReads j).q j = { s.q j with reading := 0, poison := false } := q_setQ_same ..
    have now : (forget s j).q j = { (s.forgetReads j).q j with bufs := [], fp := ((s.forgetReads j).q j).ci } := q_setQ_same ..
    rw [now, q]
    exact ⟨rfl, fun _ => ⟨rfl, rfl⟩⟩
  · have same : (forget s k).q j = s.q j := (q_setQ_other _ h _).trans (q_setQ_other _ h _)
    rw [same]
    exact ⟨rfl, fun e => e.resolve_left h⟩

theorem forgetAll_q {l : List Nat} : ∀ {s : State} {j n : Nat}, (s.q j).ci = n → j ∈ l ∨ (s.q j).bufs = [] ∧ (s.q j).fp = n →
    ((s.each l forget).q j).bufs = [] ∧ ((s.each l forget).q j).fp = n := by
  induction l with
  | nil => exact fun _ h => h.resolve_left List.not_mem_nil
  | cons k l ih =>
    intro s j n ci h
    obtain ⟨ci', done⟩ := forget_q s k j
    refine ih (s := forget s k) (ci'.trans ci) ?_
    subst ci
    rcases h with mem | rest
    · rcases List.mem_cons.1 mem with rfl | mem
      · exact .inr (done (.inl rfl))
      · exact .inl mem
    · exact .inr (done (.inr rest))

def forgetParts (p : Part) : Prop := p ∈ [Part.fab, .qs]

theorem forgetAll_parts (s : State) (l : List Nat) : Keeps forgetParts s (s.each l forget) := by
  refine keeps_each (fun t k ht => ?_) (.refl s)
  apply +allowSynthFailures keeps_setQ
  case hk =>
    apply +allowSynthFailures keeps_forgetReads
    case hk => exact ht
    all_goals exact ⟨by simp [forgetParts]⟩
  exact ⟨by simp [forgetParts]⟩

/-- A context frozen, its queues holding nothing read. -/
def freezeOver (s : State) (x : Nat) : State :=
  let u := s.each (s.ctxQueues x) forget
  (u.setCtx x { u.ctx x with state := cFROZEN, freeze := none }).raise CX_EVT_FROZEN

theorem freezeEnd_ends {x : Fin 4096} {n id : Nat} {c : CmdSt} {s : State} (freeze : (s.ctx x).freeze = some (some id, n))
    (state : (s.ctx x).state = cFREEZING) (up : s.coreUp = true) (idle : s.freezeBusy x = false) (quiet : s.ctxQuiet x = true)
    (active : optGet s.ring.active id = some c) (en : s.is HR_CMD_CFG_EN = true) :
    ∃ t, exec (.freezeEnd x) s = .next t ∧ t.ctx x = { s.ctx x with state := cFROZEN, freeze := none } ∧ t.is CX_EVT_FROZEN = true ∧
      (∀ k ∈ s.ctxQueues x, (t.q k).bufs = [] ∧ (t.q k).fp = (s.q k).ci) ∧ Ends s t id c sOK 0 := by
  have run : exec (.freezeEnd x) s = .next ((freezeOver s x).cmdDone id sOK 0) := by
    show execFreezeEnd x s = _
    unfold execFreezeEnd
    rw [freeze]
    dsimp only
    rw [if_neg (by simp [state, idle, quiet, up])]
    rfl
  have parts := (forgetAll_parts s (s.ctxQueues x)).1
  have flds := parts .regs (by simp [forgetParts])
  have ring : (freezeOver s x).ring = s.ring := parts .ring (by simp [forgetParts])
  have same : (s.each (s.ctxQueues x) forget).ctx x = s.ctx x := by rw [State.ctx, parts .ctxs (by simp [forgetParts]), State.ctx]
  have ctx : (freezeOver s x).ctx x = { s.ctx x with state := cFROZEN, freeze := none } := by
    rw [← same]
    exact ctx_setCtx_same (s.each (s.ctxQueues x) forget) x { (s.each (s.ctxQueues x) forget).ctx x with state := cFROZEN, freeze := none }
  have kept : Kept [CX_EVT_FROZEN] s (freezeOver s x) := kept_wr _ _ (by simp) (kept_flds flds (kept_refl s))
  have active' : optGet (freezeOver s x).ring.active id = some c := by rw [ring]; exact active
  have done := kept_cmdDone active' sOK 0
  rw [doneFields_of_ne (by decide)] at done
  refine ⟨_, run, (cmdDone_ctx ..).trans ctx, (is_kept done (by decide)).trans is_raise, fun k mem => ?_,
    cmdDone_ends (.of_kept_high kept (by rw [ring]) (by decide)) en active' sOK 0⟩
  rw [cmdDone_q]
  exact forgetAll_q rfl (.inl mem)

theorem freezeEnd_waits {x : Fin 4096} {s : State}
    (h : (s.ctx x).freeze = none ∨ s.freezeBusy x = true ∨ s.ctxQuiet x = false ∨ s.coreUp = false) : exec (.freezeEnd x) s = .next s := by
  show execFreezeEnd x s = _
  unfold execFreezeEnd
  cases freeze : (s.ctx x).freeze with
  | none => rfl
  | some r =>
    dsimp only
    rw [if_pos]
    rw [freeze] at h
    rcases h with h | h | h | h
    · exact absurd h (by simp)
    all_goals simp [h]

/-! ## `freezeTimeout` -/

/-- A context back in `ACTIVE`, its freeze given up. -/
def freezeUndone (s : State) (x : Nat) : State := (s.setCtx x { s.ctx x with state := cACTIVE, freeze := none }).raise CX_EVT_FREEZE_ABORT

theorem freezeTimeout_ends {x : Fin 4096} {n id : Nat} {c : CmdSt} {s : State} (freeze : (s.ctx x).freeze = some (some id, n))
    (state : (s.ctx x).state = cFREEZING) (active : optGet s.ring.active id = some c) (up : s.coreUp = true) (en : s.is HR_CMD_CFG_EN = true) :
    ∃ t, exec (.freezeTimeout x) s = .next t ∧ (t.ctx x).state = cACTIVE ∧ (t.ctx x).freeze = none ∧ t.is CX_EVT_FREEZE_ABORT = true ∧ t.qs = s.qs ∧
      t.tm.tick = max s.tm.tick (n + usTicks (s.rd CX_LIMITS_FREEZE_US)) ∧ Ends s t id c sTIMEOUT 0 := by
  obtain ⟨l, tm, adv, tick, clock⟩ := advanceTo_eq s (n + usTicks (s.rd CX_LIMITS_FREEZE_US))
  generalize hu : s.advanceTo (n + usTicks (s.rd CX_LIMITS_FREEZE_US)) = u at adv clock
  let v := if ((freezeUndone u x).ctx x).evState then (freezeUndone u x).ctxEvent x 10 sTIMEOUT 0 0 else freezeUndone u x
  have run : exec (.freezeTimeout x) s = .next ((v.vecRelease x).cmdDone id sTIMEOUT 0) := by
    show execFreezeTimeout x s = _
    unfold execFreezeTimeout
    rw [freeze]
    dsimp only
    rw [if_neg (by simp [state, up]), hu]
    rfl
  have undone : (freezeUndone u x).ctx x = { u.ctx x with state := cACTIVE, freeze := none } :=
    ctx_setCtx_same u x { u.ctx x with state := cACTIVE, freeze := none }
  obtain ⟨r, vctx⟩ : ∃ r, v.ctx x = { (freezeUndone u x).ctx x with evr := r } := by
    unfold v
    split
    · exact ctxEvent_ctx ..
    · exact ⟨_, rfl⟩
  obtain ⟨-, qs, ring, kept⟩ := reported_rest (b := ((freezeUndone u x).ctx x).evState) (freezeUndone u x) x 10 sTIMEOUT 0 0
  have parts := (vecRelease_parts v x).1
  obtain ⟨same, -, -, thaw, -⟩ := (Calm.vecRelease (.refl v) x).ctx x
  rw [vctx, undone] at same thaw
  have ring' : (v.vecRelease x).ring = s.ring := (parts .ring (by simp [resumedParts])).trans (ring.trans (by rw [adv]; rfl))
  have kept' : Kept (eventFields x) (freezeUndone u x) (v.vecRelease x) := kept_flds (parts .regs (by simp [resumedParts])) kept
  have active' : optGet (v.vecRelease x).ring.active id = some c := by rw [ring']; exact active
  have all : Kept (eventFields x ++ (CX_EVT_FREEZE_ABORT :: clockFields)) s (v.vecRelease x) := by
    refine kept_append (kept_wr _ _ List.mem_cons_self (kept_flds rfl (kept_mono (List.subset_cons_self ..) clock))) kept'
  have high : ∀ f ∈ eventFields x ++ (CX_EVT_FREEZE_ABORT :: clockFields), 0x100018 * 32 ≤ f.key := by
    rw [List.forall_mem_append]
    exact ⟨eventFields_high x, by decide⟩
  refine ⟨_, run, ?_, ?_, (reported_is kept' active' (by decide) (by decide) (by decide) (by decide)).trans is_raise, ?_, ?_,
    cmdDone_ends (.of_kept_high all (by rw [ring']) high) en active' sTIMEOUT 0⟩
  · rw [cmdDone_ctx, same]
  · rw [cmdDone_ctx, thaw]
  · rw [cmdDone_qs, parts .qs (by simp [resumedParts])]
    exact qs.trans (by rw [adv]; rfl)
  · have vtm : v.tm = u.tm := by
      unfold v
      split
      · exact (ctxEvent_parts (freezeUndone u x) x 10 sTIMEOUT 0 0).1 .tm (by simp [eventParts])
      · rfl
    have done : ((v.vecRelease x).cmdDone id sTIMEOUT 0).tm = (v.vecRelease x).tm := (cmdDone_parts _ id sTIMEOUT 0).1 .tm (by simp [ringParts])
    rw [done, parts .tm (by simp [resumedParts]), vtm, adv, tick]

theorem freezeTimeout_waits {x : Fin 4096} {s : State} (h : (s.ctx x).freeze = none ∨ s.coreUp = false) : exec (.freezeTimeout x) s = .next s := by
  show execFreezeTimeout x s = _
  unfold execFreezeTimeout
  cases freeze : (s.ctx x).freeze with
  | none => rfl
  | some r =>
    dsimp only
    rw [freeze] at h
    have down : s.coreUp = false := h.resolve_left (by simp)
    rw [if_pos (by simp [down])]

/-! ## `cxCommit` -/

/-- The bits of the shade sets that do not begin a word: no count of accesses lies there. -/
def shadeKey (k : Nat) : Prop := 0x1193000 * 32 ≤ k ∧ k % 32 ≠ 0

theorem settleBeats_shade (s : State) : KeptAt shadeKey s s.settleBeats := by
  refine KeptAt.each (s := { s with fab := { s.fab with sent := [] } }) fun t e _ => ?_
  have event : KeptAt shadeKey t (t.pcEvent e.1 { addr := some e.2.1 } e.2.2) := .of_kept (kept_pcEvent _ _ _ _) (by
    simp only [pcFields, List.forall_mem_cons, Fld.key, shadeKey, PC_CNT_LO_COUNT, PC_CNT_HI_COUNT, PC_OVF_OVF, NY_EVT_PC_OVF]
    refine ⟨?_, ?_, ?_, ?_, by simp⟩ <;> omega)
  split
  · exact .of_kept (fs := [CL_READS_LO_COUNT, CL_READS_HI_COUNT]) (kept_wr _ _ (by simp) (kept_wr _ _ (by simp) (kept_refl t)))
      (by simp only [shadeKey]; decide)
  · dsimp only
    split
    case isTrue low =>
      refine event.trans (.of_kept (fs := [SYS_XING_STAT_OCC_MAX (512 + (e.1 - 576) / 8), SYS_XING_STAT_LAT_MAX (512 + (e.1 - 576) / 8)])
        (kept_crossed _ _ (by simp) (by simp) (kept_refl _)) ?_)
      simp only [List.forall_mem_cons, Fld.key, shadeKey, SYS_XING_STAT_OCC_MAX, SYS_XING_STAT_LAT_MAX]
      refine ⟨?_, ?_, by simp⟩ <;> omega
    case isFalse => exact event

theorem served_shade (s : State) (w : Who) (off : Nat) {f : Fld} (h : shadeKey f.key) : (served s w off).rd f = s.rd f :=
  ((settleBeats_shade s).trans (.of_kept (kept_served s w off) (by unfold shadeKey; decide))) _ h

/-- A commit refused is counted and reported. -/
theorem cxReject_rest (u : State) (x : Nat) : (u.cxReject x).rd (CX_COMMIT_REJ x) = upBy u (CX_COMMIT_REJ x) 1 ∧
    (u.cxReject x).is CX_EVT_SHADE_REJ = true ∧ Kept [CX_COMMIT_REJ x, CX_EVT_SHADE_REJ] u (u.cxReject x) := by
  unfold State.cxReject
  refine ⟨?_, is_raise, kept_wr _ _ (by simp) (kept_wr _ _ (by simp) (kept_refl u))⟩
  have apart : ((u.bump (CX_COMMIT_REJ x)).raise CX_EVT_SHADE_REJ).rd (CX_COMMIT_REJ x) = (u.bump (CX_COMMIT_REJ x)).rd (CX_COMMIT_REJ x) :=
    rd_wr_ne (by omega)
  exact apart.trans (rd_bump_same u _ 1)

theorem cxCommit_ends {w : Who} {s : State} (serves : s.serves w 0x101010 4 = true) : ∃ t, exec (.cxCommit w) s = .next t ∧ t.sp = ⟨true, 0⟩ ∧
    (let x := s.rd CX_SEL_CTX
    if s.is (CX_COMMIT_LOCKED x) then t.rd (CX_COMMIT_REJ x) = upBy s (CX_COMMIT_REJ x) 1 ∧ t.is CX_EVT_SHADE_REJ = true ∧ t.ctxs = s.ctxs ∧
        Kept ([CX_COMMIT_REJ x, CX_EVT_SHADE_REJ] ++ portCounts) s.settleBeats t
      else t.is (CX_COMMIT_LOCKED x) = true ∧ t.ctx x = { s.ctx x with commitAt := s.tm.cyc } ∧ (∀ k, k ≠ x → t.ctx k = s.ctx k) ∧
        Kept (CX_COMMIT_LOCKED x :: portCounts) s.settleBeats t) := by
  have run : exec (.cxCommit w) s = .next ((served s w 0x101010).cxCommit.okay 0) := congrArg Host.Outcome.next (guardWrite_served serves _)
  refine ⟨_, run, rfl, ?_⟩
  intro x
  have sel : (served s w 0x101010).rd CX_SEL_CTX = x := served_rd s w _ (by unfold unitKey; decide)
  have kept := kept_served s w 0x101010
  have ctxs : (served s w 0x101010).ctxs = s.ctxs := served_same s w _ (p := .ctxs) (by decide) (by decide)
  have lock : (served s w 0x101010).is (CX_COMMIT_LOCKED x) = s.is (CX_COMMIT_LOCKED x) :=
    congrArg (· == 1) (served_shade s w _ (by simp only [shadeKey, Fld.key, CX_COMMIT_LOCKED]; omega))
  unfold State.cxCommit
  rw [sel]
  dsimp only
  rw [lock]
  cases locked : s.is (CX_COMMIT_LOCKED x) with
  | true =>
    rw [if_pos rfl, if_pos rfl]
    obtain ⟨count, event, rest⟩ := cxReject_rest (served s w 0x101010) x
    refine ⟨count.trans (upBy_congr ?_), event, ctxs, kept_append kept (kept_flds rfl rest)⟩
    exact served_shade s w _ (by simp only [shadeKey, Fld.key, CX_COMMIT_REJ]; omega)
  | false =>
    rw [if_neg Bool.false_ne_true, if_neg Bool.false_ne_true]
    refine ⟨is_raise, ?_, fun k other => ?_, kept_append (fs := [CX_COMMIT_LOCKED x]) kept (kept_flds rfl (kept_wr _ _ (by simp) (kept_refl _)))⟩
    · have set := ctx_setCtx_same ((served s w 0x101010).raise (CX_COMMIT_LOCKED x)) x { (served s w 0x101010).ctx x with commitAt := (served s w 0x101010).tm.cyc }
      have tm : (served s w 0x101010).tm = s.tm := served_same s w _ (p := .tm) (by decide) (by decide)
      have ctx : (served s w 0x101010).ctx x = s.ctx x := by rw [State.ctx, ctxs, State.ctx]
      rw [ctx, tm] at set
      rw [ctx, tm]
      exact set
    · refine (ctx_setCtx_other _ other _).trans ?_
      show mapGet _ (served s w 0x101010).ctxs k = _
      rw [ctxs, State.ctx]

/-- Settles O48. -/
theorem resetsAndFreezesEnd : Obligations.ResetsAndFreezesEnd := by
  unfold Obligations.ResetsAndFreezesEnd
  intro _
  exact ⟨fun _ _ _ _ _ reset state up flight quiet cmd active en => resetEnd_ends reset state up flight quiet cmd active en,
    fun _ _ h => resetEnd_waits h,
    fun _ _ _ reset state drains up => drainTimeout_ends reset state drains up,
    fun _ _ h => drainTimeout_waits h,
    fun _ _ _ _ _ freeze state up idle quiet active en => freezeEnd_ends freeze state up idle quiet active en,
    fun _ _ h => freezeEnd_waits h,
    fun _ _ _ _ _ freeze state active up en => freezeTimeout_ends freeze state active up en,
    fun _ _ h => freezeTimeout_waits h,
    fun _ _ serves => cxCommit_ends serves⟩

end Sys2Proof.Proofs
end

section
/-! PROOFS. Context images are saved and restored (R273, R274). -/

namespace Sys2Proof.Proofs

open Sys2Proof.Machine Sys2Proof.Laws

set_option Elab.async false

/-! ## Check units snoop a stream (R359) -/

/-- Keys outside the registers of the check units. -/
def offCheckUnits (k : Nat) : Prop := k < 0x1C8000 * 32 ∨ 0x1C8808 * 32 ≤ k

/-- What a byte on a stream may change of check unit `i`. -/
def cuFields (i : Nat) : List Fld :=
  [CU_STAT_STATE i, CU_RUN_LO_RUN i, CU_RUN_HI_RUN i, CU_BYTES_BYTES i, CU_RESULT_LO_RESULT i, CU_RESULT_HI_RESULT i, CU_CNT_MATCH i, CU_CNT_MISS i,
    CU_STAT_LAST_OK i, CU_EVT_MISMATCH]

theorem cuFields_on {i : Nat} (hi : i < 16) : ∀ f ∈ cuFields i, ¬ offCheckUnits f.key := by
  simp only [cuFields, List.forall_mem_cons, Fld.key, offCheckUnits, CU_STAT_STATE, CU_RUN_LO_RUN, CU_RUN_HI_RUN, CU_BYTES_BYTES, CU_RESULT_LO_RESULT,
    CU_RESULT_HI_RESULT, CU_CNT_MATCH, CU_CNT_MISS, CU_STAT_LAST_OK, CU_EVT_MISMATCH]
  refine ⟨?_, ?_, ?_, ?_, ?_, ?_, ?_, ?_, ?_, ?_, by simp⟩ <;> omega

theorem kept_wr64 {fs : List Fld} {s t : State} {lo hi : Fld} (v : Nat) (hl : lo ∈ fs) (hh : hi ∈ fs) (h : Kept fs s t) : Kept fs s (t.wr64 lo hi v) :=
  kept_wr hi _ hh (kept_wr lo v hl h)

section
variable {a u : State} {i : Nat} (h : Kept (cuFields i) a u)
include h

theorem kept_setCu (c : CuSt) : Kept (cuFields i) a (u.setCu i c) := h

theorem kept_cuStart : Kept (cuFields i) a (u.cuStart i) :=
  kept_ite (kept_setCu (kept_wr (CU_BYTES_BYTES i) 0 (by simp [cuFields])
    (kept_wr64 _ (by simp [cuFields]) (by simp [cuFields]) (kept_wr (CU_STAT_STATE i) 2 (by simp [cuFields]) h))) _) h

theorem kept_cuEnd (contig : Bool) : Kept (cuFields i) a (u.cuEnd i contig) := by
  unfold State.cuEnd
  extract_lets alg r v ok w auto
  have latched : Kept (cuFields i) a v := kept_wr64 _ (by simp [cuFields]) (by simp [cuFields]) h
  have compared : Kept (cuFields i) a w :=
    kept_ite (kept_ite (kept_wr _ _ (by simp [cuFields]) (kept_wr _ _ (by simp [cuFields]) latched))
      (kept_wr _ _ (by simp [cuFields]) (kept_wr _ _ (by simp [cuFields]) (kept_wr _ _ (by simp [cuFields]) latched)))) latched
  exact kept_setCu (kept_wr _ _ (by simp [cuFields]) compared) _

theorem kept_cuByte (b : Byte) : Kept (cuFields i) a (u.cuByte i b) := by
  unfold State.cuByte
  extract_lets v run c w
  have begun : Kept (cuFields i) a v := kept_ite (kept_cuStart h) h
  have counted : Kept (cuFields i) a w :=
    kept_setCu (kept_wr _ _ (by simp [cuFields]) (kept_wr64 _ (by simp [cuFields]) (by simp [cuFields]) begun)) _
  exact kept_ite (kept_ite (kept_cuEnd counted true) counted) begun

end

theorem cuOn_lt {u : State} {stream i : Nat} (h : i ∈ u.cuOn stream) : i < 16 := by
  unfold State.cuOn at h
  split at h
  · exact List.mem_range.1 (List.mem_filter.1 h).1
  · exact absurd h List.not_mem_nil

/-- Bytes on a stream change the check units' registers alone. -/
theorem cuStream_regs (u : State) (stream : Nat) (start : Bool) (bytes : List Byte) (stop : Bool) : KeptAt offCheckUnits u (u.cuStream stream start bytes stop) := by
  refine KeptAt.each fun t i mem => .of_kept ?_ (cuFields_on (cuOn_lt mem))
  have begun : Kept (cuFields i) t (if start then t.cuStart i else t) := kept_ite (kept_cuStart (kept_refl t)) (kept_refl t)
  have passed : ∀ (l : List Byte) (v : State), Kept (cuFields i) t v → Kept (cuFields i) t (l.foldl (fun s b => s.cuByte i b) v) := fun l => by
    induction l with
    | nil => exact fun _ h => h
    | cons b l ih => exact fun v h => ih _ (kept_cuByte h b)
  have all := passed bytes _ begun
  exact kept_ite (kept_cuEnd all false) all

def checkUnitParts (p : Part) : Prop := p ∈ [Part.cu, .regs]

theorem cuStream_parts (u : State) (stream : Nat) (start : Bool) (bytes : List Byte) (stop : Bool) :
    Keeps checkUnitParts u (u.cuStream stream start bytes stop) := by
  apply +allowSynthFailures keeps_cuStream
  case hk => exact Keeps.refl u
  all_goals exact ⟨by simp [checkUnitParts]⟩

theorem ringKept_cuStream (u : State) (stream : Nat) (start : Bool) (bytes : List Byte) (stop : Bool) : RingKept u (u.cuStream stream start bytes stop) := by
  have regs := cuStream_regs u stream start bytes stop
  have ring : (u.cuStream stream start bytes stop).ring = u.ring := (cuStream_parts u stream start bytes stop).1 .ring (by simp [checkUnitParts])
  exact ⟨by rw [ring], regs _ (.inl (by decide)), regs _ (.inl (by decide)), regs _ (.inl (by decide)), regs _ (.inl (by decide))⟩

/-! ## `CTX_SAVE` and `CTX_RESTORE` -/

section
variable {s : State} {e : List Byte} (heads : s.ring.heads = [e]) (start : s.cmdMayStart e = true) (runs : s.islandRuns 5 = true)
  (en : s.is HR_CMD_CFG_EN = true)

theorem begun_image {x : Nat} : (begun s e).image x = s.image x := by
  have lost : (begun s e).rd (HR_CTX_EVL_EV_LOST x) = s.rd (HR_CTX_EVL_EV_LOST x) := begun_rd s e (by
    simp only [startFields, List.map_cons, List.map_nil, List.mem_cons, List.not_mem_nil, or_false, not_or, Fld.key, HR_CTX_EVL_EV_LOST,
      HR_CMD_STAT_ACTIVE, HR_CMD_STAT_CI]
    omega)
  have vec (v : Nat) : (begun s e).vec x v = s.vec x v := vec_congr (begun_ctx s e x) v
  have shap : (begun s e).shap = s.shap := begun_shap'
  have queues (l : List Nat) : (begun s e).imageQueues l = s.imageQueues l := by simp only [State.imageQueues, begun_q]
  have head : (begun s e).imageHead x = s.imageHead x := by simp only [State.imageHead, begun_ctx, shap, lost]
  have tail : (begun s e).imageTail x = s.imageTail x := by simp only [State.imageTail, vec, queues, begun_ctx]
  rw [State.image, head, tail, State.image]

/-- The image goes out over stream 21. -/
def imageSent (u : State) (x id addr : Nat) : State := (u.cuStream 21 true (u.image x) true).hostWrite .imageWrite id x addr (u.image x)

include heads start runs in
theorem exec_ctxSave (hop : byteAt e 0 = 5) (form : (cmdOf e).formOk [(8, 0, 64)] = true) (addr : addrOk ((cmdOf e).f 8 0 64) 4096 = true) :
    exec .ctxSave s = .next ((begun s e).legal s.ring.nextId (((begun s e).ctx (cmdOf e).ctx).state == cFROZEN) (fun u =>
      imageSent u (cmdOf e).ctx s.ring.nextId ((cmdOf e).f 8 0 64))) :=
  congrArg Host.Outcome.next (runCmd_eq heads start runs hop form (p := fun c _ => addrOk (c.f 8 0 64) 4096) addr _)

/-- A request of a command that has begun, after a stream's check: contexts and active commands are as they were. -/
theorem streamed_rest {u v : State} {stream : Nat} {b : Bool} {bytes : List Byte} (hv : v = u.cuStream stream true bytes b) {t : State}
    (ht : Keeps (fun p => p = .fab) v t) : t.ctxs = u.ctxs ∧ t.ring = u.ring := by
  have parts := (cuStream_parts u stream true bytes b).1
  subst hv
  exact ⟨(ht.1 .ctxs (by decide)).trans (parts .ctxs (by simp [checkUnitParts])), (ht.1 .ring (by decide)).trans (parts .ring (by simp [checkUnitParts]))⟩

include heads start runs en in
theorem ctxSave_ends (hop : byteAt e 0 = 5) (form : (cmdOf e).formOk [(8, 0, 64)] = true) (addr : addrOk ((cmdOf e).f 8 0 64) 4096 = true) :
    let c := cmdOf e
    ((s.ctx c.ctx).state = cFROZEN → ∃ t, exec .ctxSave s = .next t ∧ t.ctxs = s.ctxs ∧ optGet t.ring.active s.ring.nextId = some c ∧
      ∃ r ∈ t.fab.reqs, r.kind = .imageWrite ∧ r.a = s.ring.nextId ∧ r.addr = c.f 8 0 64 ∧ r.data = s.image c.ctx) ∧
    ((s.ctx c.ctx).state ≠ cFROZEN → ∃ t, exec .ctxSave s = .next t ∧ t.ctxs = s.ctxs ∧ Ends s t s.ring.nextId c sSTATE 0) := by
  intro c
  have run := exec_ctxSave heads start runs hop form addr
  obtain ⟨pass, fail⟩ := legal_cases (e := e) en (f := fun u => imageSent u c.ctx s.ring.nextId (c.f 8 0 64)) rfl (refused_eq_zero _ (by omega) (by omega))
  rw [begun_ctx] at run
  refine ⟨fun frozen => ?_, fun other => ?_⟩
  · rw [pass (by simpa using frozen)] at run
    have sent : Keeps (fun p => p = .fab) ((begun s e).cuStream 21 true ((begun s e).image c.ctx) true) (imageSent (begun s e) c.ctx s.ring.nextId (c.f 8 0 64)) := by
      apply +allowSynthFailures keeps_hostWrite
      case hk => exact Keeps.refl _
      exact ⟨rfl⟩
    obtain ⟨ctxs, ring⟩ := streamed_rest rfl sent
    obtain ⟨r, mem, kind, a, -, dest, data, -⟩ := (hostAsked_write ((begun s e).cuStream 21 true ((begun s e).image c.ctx) true) .imageWrite s.ring.nextId
      c.ctx (c.f 8 0 64) ((begun s e).image c.ctx)).mem
    refine ⟨_, run, ctxs.trans (begun_ctxs s e), ?_, r, mem, kind, a, dest, data.trans begun_image⟩
    rw [ring]
    exact begun_active s e
  · obtain ⟨ctxs, -, ends⟩ := fail (by simpa using other)
    exact ⟨_, run, ctxs, ends⟩

/-- The image is asked for, to pass over stream 22. -/
def imageAsked (u : State) (x id addr : Nat) : State := (u.cuStream 22 true [] false).hostRead .imageRead id x addr 4096

include heads start runs in
theorem exec_ctxRestore (hop : byteAt e 0 = 6) (form : (cmdOf e).formOk [(8, 0, 64)] = true) (addr : addrOk ((cmdOf e).f 8 0 64) 4096 = true) :
    exec .ctxRestore s = .next ((begun s e).legal s.ring.nextId ((begun s e).ctxFree (cmdOf e).ctx s.ring.nextId) (fun u =>
      imageAsked u (cmdOf e).ctx s.ring.nextId ((cmdOf e).f 8 0 64))) :=
  congrArg Host.Outcome.next (runCmd_eq heads start runs hop form (p := fun c _ => addrOk (c.f 8 0 64) 4096) addr _)

include heads start runs en in
theorem ctxRestore_ends (hop : byteAt e 0 = 6) (form : (cmdOf e).formOk [(8, 0, 64)] = true) (addr : addrOk ((cmdOf e).f 8 0 64) 4096 = true) :
    let c := cmdOf e
    ((s.ctx c.ctx).state = cFREE → (s.ctx c.ctx).closing = none → (∀ d ∈ s.ring.active, d.2.op ≠ 6) →
      ∃ t, exec .ctxRestore s = .next t ∧ t.ctxs = s.ctxs ∧ optGet t.ring.active s.ring.nextId = some c ∧
        ∃ r ∈ t.fab.reqs, r.kind = .imageRead ∧ r.a = s.ring.nextId ∧ r.b = c.ctx ∧ r.addr = c.f 8 0 64 ∧ r.rlen = 4096) ∧
    ((s.ctx c.ctx).state ≠ cFREE → ∃ t, exec .ctxRestore s = .next t ∧ t.ctxs = s.ctxs ∧ Ends s t s.ring.nextId c sSTATE 0) := by
  intro c
  have run := exec_ctxRestore heads start runs hop form addr
  obtain ⟨pass, fail⟩ := legal_cases (e := e) en (p := (begun s e).ctxFree c.ctx s.ring.nextId) (f := fun u => imageAsked u c.ctx s.ring.nextId (c.f 8 0 64)) rfl (refused_eq_zero _ (by omega) (by omega))
  refine ⟨fun free closing image => ?_, fun used => ?_⟩
  · rw [pass ((begun_ctxFree c.ctx image).trans (by simp [free, closing]))] at run
    have sent : Keeps (fun p => p = .fab) ((begun s e).cuStream 22 true [] false) (imageAsked (begun s e) c.ctx s.ring.nextId (c.f 8 0 64)) := by
      apply +allowSynthFailures keeps_hostRead
      case hk => exact Keeps.refl _
      exact ⟨rfl⟩
    obtain ⟨ctxs, ring⟩ := streamed_rest rfl sent
    obtain ⟨r, mem, kind, a, b, place, -, len⟩ := (hostAsked_read ((begun s e).cuStream 22 true [] false) .imageRead s.ring.nextId c.ctx (c.f 8 0 64) 4096).mem
    refine ⟨_, run, ctxs.trans (begun_ctxs s e), ?_, r, mem, kind, a, b, place, len⟩
    rw [ring]
    exact begun_active s e
  · have state : ((s.ctx c.ctx).state == cFREE) = false := by simpa using used
    obtain ⟨ctxs, -, ends⟩ := fail (by
      unfold State.ctxFree
      rw [begun_ctx, state, Bool.false_and, Bool.false_and]
      exact Bool.false_ne_true)
    exact ⟨_, run, ctxs, ends⟩

end

end Sys2Proof.Proofs
end

section
/-! PROOFS. Answers of image writes and reads (R273, R274). -/

namespace Sys2Proof.Proofs

open Sys2Proof.Machine Sys2Proof.Laws

set_option Elab.async false

section
variable {s u : State} {d : Deliv} {c : CmdSt}

theorem imageWriteResponse_ends (answer : s.response .imageWrite = some (d, u)) (active : optGet s.ring.active d.a = some c)
    (en : s.is HR_CMD_CFG_EN = true) :
    ∃ t, exec .imageWriteResponse s = .next t ∧ t.ctxs = s.ctxs ∧ Ends s t d.a c (if d.resp = .okay then sOK else faultOf d.resp) 0 := by
  have run : exec .imageWriteResponse s = .next (u.cmdDone d.a (if d.resp = .okay then sOK else faultOf d.resp) 0) := by
    show execImageWriteResponse s = _
    unfold execImageWriteResponse
    rw [answer]
  refine ⟨_, run, ?_, cmdDone_ends (.response answer) en (by rw [response_ring answer]; exact active) _ 0⟩
  rw [cmdDone_ctxs]
  obtain ⟨rest, rfl⟩ := response_eq answer
  rfl

/-- The image has passed over stream 22. -/
def imagePassed (u : State) (d : Deliv) : State := u.cuStream 22 false (if d.resp = .okay then d.data else []) true

theorem imagePassed_rest (answer : s.response .imageRead = some (d, u)) : RingKept s (imagePassed u d) ∧ (imagePassed u d).ctxs = s.ctxs ∧
    (imagePassed u d).qs = s.qs ∧ (imagePassed u d).ring = s.ring ∧ (imagePassed u d).shaps = s.shaps := by
  have parts := (cuStream_parts u 22 false (if d.resp = .okay then d.data else []) true).1
  have ring := (RingKept.response answer).trans (ringKept_cuStream u 22 false (if d.resp = .okay then d.data else []) true)
  obtain ⟨rest, eq⟩ := response_eq answer
  refine ⟨ring, (parts .ctxs (by simp [checkUnitParts])).trans ?_, (parts .qs (by simp [checkUnitParts])).trans ?_,
    (parts .ring (by simp [checkUnitParts])).trans ?_, (parts .shaps (by simp [checkUnitParts])).trans ?_⟩ <;> rw [eq]

/-- A restore that fails names its failure and changes no context. -/
theorem imageFail_ends {v : State} {id st : Nat} (ring : RingKept s v) (active : optGet v.ring.active id = some c) (en : s.is HR_CMD_CFG_EN = true)
    (code off : Nat) (fine : st ≠ sSTATE) :
    (v.imageFail id code off st).ctxs = v.ctxs ∧ (v.imageFail id code off st).qs = v.qs ∧
      (v.imageFail id code off st).rd CX_IMG_ERR_CODE = code % 2 ^ CX_IMG_ERR_CODE.w ∧
      (v.imageFail id code off st).rd CX_IMG_ERR_OFF = off % 2 ^ CX_IMG_ERR_OFF.w ∧ Ends s (v.imageFail id code off st) id c st 0 := by
  let w := (v.wr CX_IMG_ERR_CODE code).wr CX_IMG_ERR_OFF off
  have named : Kept [CX_IMG_ERR_CODE, CX_IMG_ERR_OFF] v w := kept_wr _ _ (by simp) (kept_wr _ _ (by simp) (kept_refl v))
  have done := kept_cmdDone (u := w) active st 0
  rw [doneFields_of_ne fine] at done
  refine ⟨cmdDone_ctxs .., cmdDone_qs .., ?_, ?_, cmdDone_ends (ring.trans (.of_kept_high named rfl (by decide))) en active st 0⟩
  · refine (rd_kept done _ (by decide)).trans (Eq.trans (rd_wr_ne (by decide)) ?_)
    exact rd_wr_same ..
  · refine (rd_kept done _ (by decide)).trans ?_
    exact rd_wr_same ..

theorem faultOf_ne_state (r : Resp) : faultOf r ≠ sSTATE := by
  unfold faultOf
  split <;> decide

theorem imageRead_bad {f : Nat × Nat} (answer : s.response .imageRead = some (d, u)) (okay : d.resp = .okay) (bad : imageBad d.data = some f)
    (active : optGet s.ring.active d.a = some c) (en : s.is HR_CMD_CFG_EN = true) :
    ∃ t, exec .imageReadResponse s = .next t ∧ t.ctxs = s.ctxs ∧ t.qs = s.qs ∧ t.rd CX_IMG_ERR_CODE = f.1 % 2 ^ CX_IMG_ERR_CODE.w ∧
      t.rd CX_IMG_ERR_OFF = f.2 % 2 ^ CX_IMG_ERR_OFF.w ∧ Ends s t d.a c sBADARG 0 := by
  have run : exec .imageReadResponse s = .next ((imagePassed u d).imageFail d.a f.1 f.2 sBADARG) := by
    show execImageReadResponse s = _
    unfold execImageReadResponse
    rw [answer]
    dsimp only
    rw [if_neg (not_not.2 okay), bad]
    rfl
  obtain ⟨ring, ctxs, qs, rest, -⟩ := imagePassed_rest answer
  obtain ⟨ctxs', qs', code, off, ends⟩ := imageFail_ends (c := c) ring (by rw [rest]; exact active) en f.1 f.2 (show sBADARG ≠ sSTATE by decide)
  exact ⟨_, run, ctxs'.trans ctxs, qs'.trans qs, code, off, ends⟩

theorem imageRead_fault (answer : s.response .imageRead = some (d, u)) (fault : d.resp ≠ .okay) (active : optGet s.ring.active d.a = some c)
    (en : s.is HR_CMD_CFG_EN = true) :
    ∃ t, exec .imageReadResponse s = .next t ∧ t.ctxs = s.ctxs ∧ t.qs = s.qs ∧ t.rd CX_IMG_ERR_CODE = 1 ∧ Ends s t d.a c (faultOf d.resp) 0 := by
  have run : exec .imageReadResponse s =
      .next ((imagePassed u d).draw.2.imageFail d.a 1 ((imagePassed u d).draw.1.toNat % 4096) (faultOf d.resp)) := by
    show execImageReadResponse s = _
    unfold execImageReadResponse
    rw [answer]
    dsimp only
    rw [if_pos fault]
    rfl
  obtain ⟨ring, ctxs, qs, rest, -⟩ := imagePassed_rest answer
  have drawn : RingKept s (imagePassed u d).draw.2 := ring.trans ⟨rfl, rfl, rfl, rfl, rfl⟩
  obtain ⟨ctxs', qs', code, -, ends⟩ := imageFail_ends (c := c) (v := (imagePassed u d).draw.2) drawn
    (by show optGet (imagePassed u d).ring.active _ = _; rw [rest]; exact active) en 1 ((imagePassed u d).draw.1.toNat % 4096) (faultOf_ne_state d.resp)
  exact ⟨_, run, ctxs'.trans ctxs, qs'.trans qs, code, ends⟩

/-! ## An image is loaded -/

theorem clip_cmd (x : ShapSt) : x.clip.cmd = x.cmd := by
  unfold ShapSt.clip
  extract_lets m
  split <;> rfl

theorem refill_cmd (x : ShapSt) (k : Nat) : (x.refill k).cmd = x.cmd := by
  unfold ShapSt.refill
  split
  · exact clip_cmd _
  · rfl

theorem handTenant_cmd (x : ShapSt) (k : Nat) : (x.handTenant k).cmd = x.cmd := by
  unfold ShapSt.handTenant
  extract_lets z y t
  have same : y.cmd = x.cmd := (refill_cmd _ k).trans (clip_cmd z)
  split <;> exact same

/-- The queues loaded from their records. -/
def queuesLoaded (u : State) (x : Nat) (d : List Byte) (a : List Nat × List Nat) : State :=
  let v := u.each a.1.zipIdx (fun s e => s.setQ e.1 (loadQueue x e.2 (leNat d (0x500 + 22 * e.2) 22)))
  v.each a.2.zipIdx (fun s e => s.setQ (32768 + e.1) (loadQueue x e.2 (leNat d (0xA80 + 22 * e.2) 22)))

/-- The tenant's shaper as an image gives it. -/
def loadedShaper (u : State) (x : Nat) (d : List Byte) : ShapSt :=
  ({ u.shap (32768 + x) with sRate := leNat d 0x018 4, sBurst := bits (leNat d 0x01C 4) 0 24, sTen := bits (leNat d 0x020 4) 0 14 } : ShapSt).handTenant 0

/-- The registers of the context as an image gives them. -/
def registersLoaded (u : State) (x : Nat) (d : List Byte) : State :=
  (((u.wr (CX_OWNER_OWNER x) (leNat d 0x010 4)).wr (CX_PARAM_PC_GROUPS x) (bits (leNat d 0x014 4) 0 8)).wr (CX_PARAM_EV_STATE x) (bitN (leNat d 0x014 4) 8)).wr
    (HR_CTX_EVL_EV_LOST x) (bits (leNat d 0x034 4) 16 16)

/-- Everything of an image but the context itself. -/
def preLoaded (u : State) (x : Nat) (d : List Byte) (a : List Nat × List Nat) : State :=
  let v := queuesLoaded (contextGiven u x a) x d a
  registersLoaded (v.setShap (32768 + x) (loadedShaper v x d)) x d

/-- The event ring of an image. -/
def loadedRing (d : List Byte) : EvRing :=
  ⟨leNat d 0x028 8, bits (leNat d 0x034 4) 0 4, bits (leNat d 0x030 4) 0 16, bits (leNat d 0x030 4) 16 16, bits (leNat d 0x034 4) 4 6,
    bitN (leNat d 0x034 4) 10 == 1⟩

/-- The context of an image. -/
def loadedCtx (u : State) (x : Nat) (d : List Byte) (a : List Nat × List Nat) : CtxSt :=
  { state := cFROZEN, txq := a.1, rxq := a.2, dirty := (u.ctx x).dirty, owner := leNat d 0x010 4, groups := bits (leNat d 0x014 4) 0 8,
    evState := bitN (leNat d 0x014 4) 8 == 1, evr := if bitN (leNat d 0x034 4) 11 = 1 then some (loadedRing d) else none }

/-- The context itself is loaded, with its vectors. -/
def loadContext (u : State) (x : Nat) (d : List Byte) (a : List Nat × List Nat) : State :=
  ((u.setCtx x (loadedCtx u x d a)).each (List.range 64) (fun s v => s.setVec x v (loadVec d v))).raise CX_EVT_FROZEN

theorem imageLoad_eq (u : State) (x : Nat) (d : List Byte) (a : List Nat × List Nat) : u.imageLoad x d a = loadContext (preLoaded u x d a) x d a := rfl

theorem given_queuesLoaded {u : State} (none : NoShapCmd u) (x : Nat) (d : List Byte) (a : List Nat × List Nat) : Given u (queuesLoaded u x d a) := by
  unfold queuesLoaded
  extract_lets v
  have send : Given u v := .each (.refl u) (fun t e _ => .setQ t _ _) none
  exact .each send (fun t e _ => .setQ t _ _) (send.shaps none)

theorem given_preLoaded {u : State} (none : NoShapCmd u) (x : Nat) (d : List Byte) (a : List Nat × List Nat) : Given u (preLoaded u x d a) := by
  unfold preLoaded
  extract_lets v
  have context := given_contextGiven none x a
  have queues : Given (contextGiven u x a) v := given_queuesLoaded (context.shaps none) x d a
  have all := context.trans queues
  have shaper := given_setShap v (32768 + x) (x := loadedShaper v x d) ((handTenant_cmd _ 0).trans (all.shaps none _))
  have high {f : Fld} (h : 0x100018 * 32 ≤ f.key) (t : State) (n : Nat) : Given t (t.wr f n) := .wr t (ringSettings_ne_high h) n
  refine (all.trans shaper).trans ((((high ?_ _ _).trans (high ?_ _ _)).trans (high ?_ _ _)).trans (high ?_ _ _))
  · simp only [Fld.key, CX_OWNER_OWNER]; omega
  · simp only [Fld.key, CX_PARAM_PC_GROUPS]; omega
  · simp only [Fld.key, CX_PARAM_EV_STATE]; omega
  · simp only [Fld.key, HR_CTX_EVL_EV_LOST]; omega

/-- Vectors that are set leave the rest of their context and of the state. -/
theorem setVecs_rest (u : State) (x : Nat) (f : Nat → VecSt) (l : List Nat) :
    ∃ m, (u.each l (fun s v => s.setVec x v (f v))).ctx x = { u.ctx x with vecs := m } ∧
      (u.each l (fun s v => s.setVec x v (f v))).flds = u.flds ∧ (u.each l (fun s v => s.setVec x v (f v))).ring = u.ring := by
  unfold State.each
  induction l generalizing u with
  | nil => exact ⟨(u.ctx x).vecs, rfl, rfl, rfl⟩
  | cons v l ih =>
    obtain ⟨m, ctx, flds, ring⟩ := ih (u.setVec x v (f v))
    exact ⟨m, ctx.trans (by rw [State.setVec, ctx_setCtx_same]), flds, ring⟩

theorem raise_rest {u w : State} {x : Nat} {n : CtxSt} (ctx : ∃ m, w.ctx x = { n with vecs := m }) (flds : w.flds = u.flds) (ring : w.ring = u.ring) :
    (∃ m, (w.raise CX_EVT_FROZEN).ctx x = { n with vecs := m }) ∧ (w.raise CX_EVT_FROZEN).is CX_EVT_FROZEN = true ∧
      (w.raise CX_EVT_FROZEN).ring = u.ring ∧ Kept [CX_EVT_FROZEN] u (w.raise CX_EVT_FROZEN) :=
  ⟨ctx, is_raise, ring, kept_wr _ _ (by simp) (kept_flds flds (kept_refl u))⟩

theorem loadVecs_rest (u : State) (x : Nat) (d : List Byte) (n : CtxSt) (l : List Nat) :
    (∃ m, ((u.setCtx x n).each l (fun s v => s.setVec x v (loadVec d v))).ctx x = { n with vecs := m }) ∧
      ((u.setCtx x n).each l (fun s v => s.setVec x v (loadVec d v))).flds = u.flds ∧
      ((u.setCtx x n).each l (fun s v => s.setVec x v (loadVec d v))).ring = u.ring := by
  obtain ⟨m, ctx, flds, ring⟩ := setVecs_rest (u.setCtx x n) x (loadVec d) l
  rw [ctx_setCtx_same] at ctx
  exact ⟨⟨m, ctx⟩, flds, ring⟩

theorem loadContext_rest (u : State) (x : Nat) (d : List Byte) (a : List Nat × List Nat) :
    (∃ m, (loadContext u x d a).ctx x = { loadedCtx u x d a with vecs := m }) ∧ (loadContext u x d a).is CX_EVT_FROZEN = true ∧
      (loadContext u x d a).ring = u.ring ∧ Kept [CX_EVT_FROZEN] u (loadContext u x d a) := by
  obtain ⟨ctx, flds, ring⟩ := loadVecs_rest u x d (loadedCtx u x d a) (List.range 64)
  exact raise_rest ctx flds ring

theorem imageLoad_ends {v : State} {id : Nat} {c : CmdSt} (none : NoShapCmd v) (ring : RingKept s v) (active : optGet v.ring.active id = some c)
    (en : s.is HR_CMD_CFG_EN = true) (x : Nat) (data : List Byte) (a : List Nat × List Nat) :
    (((v.imageLoad x data a).cmdDone id sOK 0).ctx x).state = cFROZEN ∧ ((v.imageLoad x data a).cmdDone id sOK 0).is CX_EVT_FROZEN = true ∧
      (((v.imageLoad x data a).cmdDone id sOK 0).ctx x).txq = a.1 ∧ (((v.imageLoad x data a).cmdDone id sOK 0).ctx x).rxq = a.2 ∧
      (((v.imageLoad x data a).cmdDone id sOK 0).ctx x).owner = leNat data 0x010 4 ∧ Ends s ((v.imageLoad x data a).cmdDone id sOK 0) id c sOK 0 := by
  have given := given_preLoaded none x data a
  rw [imageLoad_eq]
  generalize preLoaded v x data a = p at given
  obtain ⟨⟨m, ctx⟩, frozen, same, kept⟩ := loadContext_rest p x data a
  have same' : (loadContext p x data a).ring = v.ring := same.trans given.ringPart
  have settings := (ring.trans given.ring).trans (.of_kept_high kept (by rw [same]) (by decide))
  generalize loadContext p x data a = w at ctx frozen same' settings
  have active' : optGet w.ring.active id = some c := by rw [same']; exact active
  have done := kept_cmdDone active' sOK 0
  rw [doneFields_of_ne (by decide)] at done
  rw [cmdDone_ctx, ctx]
  exact ⟨rfl, (is_kept done (by decide)).trans frozen, rfl, rfl, rfl, cmdDone_ends settings en active' sOK 0⟩

theorem imageRead_sound (answer : s.response .imageRead = some (d, u)) (okay : d.resp = .okay) (sound : imageBad d.data = none)
    (active : optGet s.ring.active d.a = some c) (en : s.is HR_CMD_CFG_EN = true) (shaps : NoShapCmd s) :
    let n := leNat d.data 0x00C 4
    (∀ a, s.allocQueues (bits n 0 7) (bits n 8 7) = some a →
      ∃ t, exec .imageReadResponse s = .next t ∧ (t.ctx d.b).state = cFROZEN ∧ t.is CX_EVT_FROZEN = true ∧ (t.ctx d.b).txq = a.1 ∧ (t.ctx d.b).rxq = a.2 ∧
        (t.ctx d.b).owner = leNat d.data 0x010 4 ∧ Ends s t d.a c sOK 0) ∧
    (s.allocQueues (bits n 0 7) (bits n 8 7) = none →
      ∃ t, exec .imageReadResponse s = .next t ∧ t.ctxs = s.ctxs ∧ t.qs = s.qs ∧ t.rd CX_IMG_ERR_CODE = 6 ∧ t.rd CX_IMG_ERR_OFF = 0x00C ∧
        Ends s t d.a c sNORES 0) := by
  intro n
  obtain ⟨ring, ctxs, qs, rest, shaps'⟩ := imagePassed_rest answer
  have active' : optGet (imagePassed u d).ring.active d.a = some c := by rw [rest]; exact active
  have owned (rx : Bool) : (imagePassed u d).ownedQueues rx = s.ownedQueues rx := by rw [State.ownedQueues, qs, State.ownedQueues]
  have alloc : (imagePassed u d).allocQueues (bits n 0 7) (bits n 8 7) = s.allocQueues (bits n 0 7) (bits n 8 7) := by
    rw [State.allocQueues, owned, owned, State.allocQueues]
  have none' : NoShapCmd (imagePassed u d) := fun i => by
    rw [State.shap, shaps', ← State.shap]
    exact shaps i
  refine ⟨fun a some => ?_, fun none => ?_⟩
  · have run : exec .imageReadResponse s = .next (((imagePassed u d).imageLoad d.b d.data a).cmdDone d.a sOK 0) := by
      rw [some] at alloc
      show execImageReadResponse s = _
      unfold execImageReadResponse
      rw [answer]
      dsimp only
      rw [if_neg (not_not.2 okay), sound]
      show Host.Outcome.next _ = _
      unfold imagePassed at alloc
      rw [alloc]
      rfl
    exact ⟨_, run, imageLoad_ends none' ring active' en d.b d.data a⟩
  · have run : exec .imageReadResponse s = .next ((imagePassed u d).imageFail d.a 6 0x00C sNORES) := by
      rw [none] at alloc
      show execImageReadResponse s = _
      unfold execImageReadResponse
      rw [answer]
      dsimp only
      rw [if_neg (not_not.2 okay), sound]
      show Host.Outcome.next _ = _
      unfold imagePassed at alloc
      rw [alloc]
      rfl
    obtain ⟨ctxs', qs', code, off, ends⟩ := imageFail_ends (c := c) ring active' en 6 0x00C (show sNORES ≠ sSTATE by decide)
    exact ⟨_, run, ctxs'.trans ctxs, qs'.trans qs, code, off, ends⟩

end

/-- Settles O49. -/
theorem contextImages : Obligations.ContextImages := by
  unfold Obligations.ContextImages
  intro _
  exact ⟨fun e s heads start runs en hop form addr => ctxSave_ends heads start runs en hop form addr,
    fun d u c s answer active en => imageWriteResponse_ends answer active en,
    fun e s heads start runs en hop form addr => ctxRestore_ends heads start runs en hop form addr,
    fun d u c f s answer okay bad active en => imageRead_bad answer okay bad active en,
    fun d u c s answer fault active en => imageRead_fault answer fault active en,
    fun d u c s answer okay sound active en shaps => imageRead_sound answer okay sound active en (noShapCmd_of_all shaps)⟩

end Sys2Proof.Proofs
end

section
/-! PROOFS. The classifier is enabled and cleared (R170, R188). -/

namespace Sys2Proof.Proofs

open Sys2Proof.Machine Sys2Proof.Laws

set_option Elab.async false

/-! ## Who issues requests -/

theorem pump_issues (s : State) (x : Nat) : s.pump.fab.issues x = s.fab.issues x := by
  have same := sameAsks_pump s
  rw [FabSt.issues, same.up, same.failed]
  rfl

theorem send_issues (s : State) (k : ReqKind) (a b x vc addr : Nat) (data : List Byte) (n y : Nat) :
    (s.send k a b x vc addr data n).fab.issues y = s.fab.issues y := pump_issues _ y

/-! ## What a served access leaves -/

/-- Bits that begin no word, and are no crossing's and no counter's. -/
def innerKey (k : Nat) : Prop := k % 32 ≠ 0 ∧ k < 0x1000000 * 32 ∧ k ≠ NY_EVT_PC_OVF.key

theorem settleBeats_inner (s : State) : KeptAt innerKey s s.settleBeats := by
  refine KeptAt.each (s := { s with fab := { s.fab with sent := [] } }) fun t e _ => ?_
  have event : KeptAt innerKey t (t.pcEvent e.1 { addr := some e.2.1 } e.2.2) := .of_kept (kept_pcEvent _ _ _ _) (by
    simp only [pcFields, List.forall_mem_cons, Fld.key, innerKey, PC_CNT_LO_COUNT, PC_CNT_HI_COUNT, PC_OVF_OVF, NY_EVT_PC_OVF]
    refine ⟨?_, ?_, ?_, ?_, by simp⟩ <;> omega)
  split
  · exact .of_kept (fs := [CL_READS_LO_COUNT, CL_READS_HI_COUNT]) (kept_wr _ _ (by simp) (kept_wr _ _ (by simp) (kept_refl t)))
      (by simp only [innerKey]; decide)
  · dsimp only
    split
    · refine event.trans (.of_kept (fs := [SYS_XING_STAT_OCC_MAX (512 + (e.1 - 576) / 8), SYS_XING_STAT_LAT_MAX (512 + (e.1 - 576) / 8)])
        (kept_crossed _ _ (by simp) (by simp) (kept_refl _)) ?_)
      simp only [List.forall_mem_cons, Fld.key, innerKey, SYS_XING_STAT_OCC_MAX, SYS_XING_STAT_LAT_MAX]
      refine ⟨?_, ?_, by simp⟩ <;> omega
    · exact event

theorem served_inner (s : State) (w : Who) (off : Nat) {f : Fld} (h : innerKey f.key) : (served s w off).rd f = s.rd f :=
  ((settleBeats_inner s).trans (.of_kept (kept_served s w off) (by unfold innerKey; decide))) _ h

theorem served_fab (s : State) (w : Who) (off : Nat) : (served s w off).fab = { s.fab with sent := [] } := by
  have hk : Keeps (fun p => p = .regs) { s with fab := { s.fab with sent := [] } } (served s w off) := by
    apply +allowSynthFailures keeps_spCount
    case hk =>
      refine keeps_each (fun t e ht => ?_) (.refl _)
      have event : Keeps (fun p => p = .regs) { s with fab := { s.fab with sent := [] } } (t.pcEvent e.1 { addr := some e.2.1 } e.2.2) := by
        apply +allowSynthFailures keeps_pcEvent
        case hk => exact ht
        exact ⟨rfl⟩
      split
      · apply +allowSynthFailures keeps_bump64
        case hk => exact ht
        exact ⟨rfl⟩
      · dsimp only
        split
        · apply +allowSynthFailures keeps_crossed
          case hk => exact event
          exact ⟨rfl⟩
        · exact event
    exact ⟨rfl⟩
  exact hk.1 .fab (by decide)

/-! ## Where the table's buckets lie -/

/-- The table's channels are the same. -/
structure SameChannels (u v : State) : Prop where
  sys : v.sys = u.sys
  op : v.sv.op = u.sv.op
  step : v.sv.step = u.sv.step
  arg : v.sv.arg = u.sv.arg
  inUse : v.is SV_INUSE_TBL = u.is SV_INUSE_TBL
  position : v.rd SV_INUSE_TBL_FOR = u.rd SV_INUSE_TBL_FOR
  issues : ∀ x, v.fab.issues x = u.fab.issues x

namespace SameChannels

variable {u v w : State}

theorem refl (u : State) : SameChannels u u := ⟨rfl, rfl, rfl, rfl, rfl, rfl, fun _ => rfl⟩

theorem trans (h : SameChannels u v) (g : SameChannels v w) : SameChannels u w :=
  ⟨g.sys.trans h.sys, g.op.trans h.op, g.step.trans h.step, g.arg.trans h.arg, g.inUse.trans h.inUse, g.position.trans h.position,
    fun x => (g.issues x).trans (h.issues x)⟩

theorem sdField (h : SameChannels u v) (off lo w : Nat) : v.sdField off lo w = u.sdField off lo w := by rw [State.sdField, h.sys, State.sdField]

theorem tblWorking (h : SameChannels u v) : v.tblWorking = u.tblWorking := by
  unfold State.tblWorking
  congr 1
  funext c
  rw [State.tblPresent, h.sdField, State.tblPresent]

theorem tblOff (h : SameChannels u v) (b : Nat) : v.tblOff b = u.tblOff b := by rw [State.tblOff, h.tblWorking, State.tblOff]

theorem tblChan (h : SameChannels u v) (b : Nat) : v.tblChan b = u.tblChan b := by
  unfold State.tblChan State.tblPhys State.tblPos
  rw [h.tblWorking, h.op, h.step, h.arg, h.inUse, h.position]

theorem tblNeed (h : SameChannels u v) : v.tblNeed = u.tblNeed := by rw [State.tblNeed, h.tblWorking, State.tblNeed]

theorem enRefuse (h : SameChannels u v) (tbl : v.tbl.cleared = u.tbl.cleared) : v.enRefuse = u.enRefuse := by
  have small : (fun c => decide (v.sdField (0x0C8 + 16 * c) 0 32 < v.tblNeed)) = fun c => decide (u.sdField (0x0C8 + 16 * c) 0 32 < u.tblNeed) := by
    funext c
    rw [h.sdField, h.tblNeed]
  unfold State.enRefuse
  rw [h.tblWorking, small, tbl]

/-- A register that says nothing of the channels. -/
theorem wr (u : State) (f : Fld) (n : Nat) (a : f.key ≠ SV_INUSE_TBL.key) (b : f.key ≠ SV_INUSE_TBL_FOR.key) : SameChannels u (u.wr f n) := by
  have kept : Kept [f] u (u.wr f n) := kept_wr _ _ (by simp) (kept_refl u)
  exact ⟨rfl, rfl, rfl, rfl, is_kept kept (by simpa using a.symm), rd_kept kept _ (by simpa using b.symm), fun _ => rfl⟩

theorem served (s : State) (w : Who) (off : Nat) : SameChannels s (served s w off) := by
  have sv : (Proofs.served s w off).sv = s.sv := served_same s w off (p := .sv) (by decide) (by decide)
  refine ⟨served_same s w off (p := .sys) (by decide) (by decide), by rw [sv], by rw [sv], by rw [sv],
    congrArg (· == 1) (served_inner s w off (by unfold innerKey; decide)), served_inner s w off (by unfold innerKey; decide), fun x => ?_⟩
  rw [served_fab]
  rfl

end SameChannels

/-! ## Buckets are written empty -/

/-- The request by which the clear writes bucket `b` on channel `c`. -/
def clearAsk (u : State) (b c : Nat) : Req := newAsk .tblClear b (8 + c) (9 + c) 0 (u.tblOff b) (List.replicate 64 0) 0

/-- Writes of the clear have gone out: the table holds what it held but for cached lines and marks of stale reads. -/
structure Clearing (u v : State) : Prop where
  rest : ∃ f τ σ, v = { u with fab := f, tbl := τ, sv := σ }
  channels : SameChannels u v
  tbl : v.tbl = { u.tbl with cache := v.tbl.cache, stale := v.tbl.stale }
  cache : u.tbl.cache = [] → v.tbl.cache = []
  asked : ∀ b c, u.tblIssues c = true → Asked u (clearAsk u b c) → Asked v (clearAsk u b c)

namespace Clearing

variable {u v w : State}

theorem refl (u : State) : Clearing u u := ⟨⟨u.fab, u.tbl, u.sv, rfl⟩, .refl u, rfl, id, fun _ _ _ h => h⟩

theorem clearAsk_eq (h : SameChannels u v) (b c : Nat) : clearAsk v b c = clearAsk u b c := by rw [clearAsk, h.tblOff, clearAsk]

theorem tblIssues_eq (h : SameChannels u v) (c : Nat) : v.tblIssues c = u.tblIssues c := h.issues (9 + c)

theorem trans (h : Clearing u v) (g : Clearing v w) : Clearing u w := by
  obtain ⟨f, τ, σ, e⟩ := h.rest
  obtain ⟨f', τ', σ', e'⟩ := g.rest
  refine ⟨⟨f', τ', σ', by rw [e', e]⟩, h.channels.trans g.channels, by rw [g.tbl, h.tbl], g.cache ∘ h.cache, fun b c issues asked => ?_⟩
  have mid := h.asked b c issues asked
  rw [← clearAsk_eq h.channels] at mid ⊢
  exact g.asked b c ((tblIssues_eq h.channels c).trans issues) mid

theorem flds (h : Clearing u v) : v.flds = u.flds := by
  obtain ⟨f, τ, σ, e⟩ := h.rest
  rw [e]

theorem staleReads (u : State) (b : Nat) : Clearing u (u.staleReads b) := by
  refine ⟨⟨_, _, _, rfl⟩, ⟨rfl, rfl, rfl, rfl, rfl, rfl, fun _ => rfl⟩, rfl, id, fun b' c _ asked => ?_⟩
  obtain ⟨q, mem, same⟩ := asked
  refine ⟨q, List.mem_filter.2 ⟨mem, ?_⟩, same⟩
  have kind : q.kind = .tblClear := (congrArg Req.kind same :)
  simp [kind]

theorem uncache (u : State) (b : Nat) : Clearing u { u with tbl := { u.tbl with cache := mapErase b u.tbl.cache } } := by
  refine ⟨⟨_, _, _, rfl⟩, ⟨rfl, rfl, rfl, rfl, rfl, rfl, fun _ => rfl⟩, rfl, fun h => ?_, fun _ _ _ h => h⟩
  show mapErase b u.tbl.cache = []
  rw [h]
  rfl

theorem write (u : State) (b tries c : Nat) : Clearing u (u.tblWriteOn .tblClear b tries c emptyBucket) := by
  refine ⟨⟨_, u.tbl, u.sv, rfl⟩, ⟨rfl, rfl, rfl, rfl, rfl, rfl, fun x => send_issues ..⟩, rfl, id, fun b' c' issues asked => ?_⟩
  exact asked.send (.inr issues) ..

end Clearing

theorem entBytes_empty : entBytes emptyBucket = List.replicate 64 0 := by decide

/-- A bucket is written empty on its channel, where that issues requests. -/
theorem clearing_clearWrite (u : State) (b : Nat) : Clearing u (u.clearWrite b) ∧
    (u.tblIssues (u.tblChan b) = true → Asked (u.clearWrite b) (clearAsk u b (u.tblChan b))) := by
  unfold State.clearWrite
  extract_lets v own also tbl w
  have stale : Clearing u v := .staleReads u b
  have gone := stale.trans (.uncache v b)
  have first : Clearing u w := gone.trans (.write _ b 1 own)
  have more : Clearing w (w.each also (fun s c => s.tblWriteOn .tblClear b 5 c emptyBucket)) := by
    unfold State.each
    generalize also = l
    have go : ∀ (l : List Nat) (t : State), Clearing w t → Clearing w (l.foldl (fun s c => s.tblWriteOn .tblClear b 5 c emptyBucket) t) := fun l => by
      induction l with
      | nil => exact fun _ h => h
      | cons c l ih => exact fun t h => ih _ (h.trans (.write t b 5 c))
    exact go l w (.refl w)
  refine ⟨first.trans more, fun issues => ?_⟩
  have chan : own = u.tblChan b := stale.channels.tblChan b
  have here : Asked w (clearAsk u b own) := by
    have issues' : ({ v with tbl := { v.tbl with cache := mapErase b v.tbl.cache } } : State).fab.issues (9 + own) = true := by
      rw [chan]
      exact issues
    have new := asked_send_new (s := { v with tbl := { v.tbl with cache := mapErase b v.tbl.cache } }) (.inr issues') .tblClear b (8 * 1 + own) 0
      (State.tblOff { v with tbl := { v.tbl with cache := mapErase b v.tbl.cache } } b) (entBytes emptyBucket) 0
    rw [entBytes_empty, gone.channels.tblOff] at new
    exact new
  rw [← chan]
  rw [← Clearing.clearAsk_eq first.channels] at here ⊢
  exact more.asked b own ((Clearing.tblIssues_eq first.channels own).trans (chan ▸ issues)) here

/-- Every bucket of a list is written. -/
theorem clearing_all (u : State) (l : List Nat) : Clearing u (u.each l (fun s b => s.clearWrite b)) ∧
    ∀ b ∈ l, u.tblIssues (u.tblChan b) = true → Asked (u.each l (fun s b => s.clearWrite b)) (clearAsk u b (u.tblChan b)) := by
  unfold State.each
  induction l generalizing u with
  | nil => exact ⟨.refl u, fun b h => absurd h List.not_mem_nil⟩
  | cons a l ih =>
    obtain ⟨one, asked⟩ := clearing_clearWrite u a
    obtain ⟨rest, others⟩ := ih (u.clearWrite a)
    refine ⟨one.trans rest, fun b mem issues => ?_⟩
    have same := one.channels
    rw [← Clearing.clearAsk_eq same, ← same.tblChan]
    have issues' : (u.clearWrite a).tblIssues ((u.clearWrite a).tblChan b) = true := by
      rw [same.tblChan, Clearing.tblIssues_eq same]
      exact issues
    rcases List.mem_cons.1 mem with rfl | mem
    · have here := asked issues
      rw [← Clearing.clearAsk_eq same, ← same.tblChan] at here
      exact rest.asked b _ issues' here
    · exact others b mem issues'

/-! ## A write of `CL_CTRL` -/

theorem bitN_eq_one {v i : Nat} : bitN v i = 1 ↔ v.testBit i = true := by
  simp [bitN, Nat.testBit_eq_decide_div_mod_eq]

/-- A low bit that is set changes no higher bits. -/
theorem bits_or (v : Nat) {m lo : Nat} (h : m < 2 ^ lo) (w : Nat) : bits (v ||| m) lo w = bits v lo w := by
  have high : (v ||| m) / 2 ^ lo = v / 2 ^ lo := by
    rw [← Nat.shiftRight_eq_div_pow, Nat.shiftRight_or_distrib, Nat.shiftRight_eq_div_pow m, Nat.div_eq_of_lt h, Nat.or_zero, Nat.shiftRight_eq_div_pow]
  rw [bits, high, bits]

section
variable {w : Who} {v : Word} {s : State}

/-- The state in which a write of `CL_CTRL` has left its plain field. -/
def puntSet (s : State) (w : Who) (n : Nat) : State := (served s w 0x080000).wr CL_CTRL_PUNT_RXQ (bits n 16 6)

theorem puntSet_channels (s : State) (w : Who) (n : Nat) : SameChannels s (puntSet s w n) :=
  (SameChannels.served s w _).trans (.wr _ _ _ (by decide) (by decide))

theorem puntSet_tbl (s : State) (w : Who) (n : Nat) : (puntSet s w n).tbl = s.tbl := served_same s w _ (p := .tbl) (by decide) (by decide)

theorem puntSet_rd (s : State) (w : Who) (n : Nat) {f : Fld} (unit : unitKey f.key) (ne : f.key ≠ CL_CTRL_PUNT_RXQ.key) : (puntSet s w n).rd f = s.rd f := by
  have kept : Kept [CL_CTRL_PUNT_RXQ] (served s w 0x080000) (puntSet s w n) := kept_wr _ _ (by simp) (kept_refl _)
  exact (rd_kept kept f (by simpa using ne)).trans (served_rd s w _ unit)

theorem puntSet_is (s : State) (w : Who) (n : Nat) {f : Fld} (unit : unitKey f.key) (ne : f.key ≠ CL_CTRL_PUNT_RXQ.key) : (puntSet s w n).is f = s.is f :=
  congrArg (· == 1) (puntSet_rd s w n unit ne)

theorem puntSet_punt (s : State) (w : Who) (n : Nat) : (puntSet s w n).rd CL_CTRL_PUNT_RXQ = bits n 16 6 :=
  (rd_wr_same ..).trans (Nat.mod_eq_of_lt (Nat.mod_lt _ (by decide)))

theorem kept_puntSet (s : State) (w : Who) (n : Nat) : Kept (CL_CTRL_PUNT_RXQ :: portCounts) s.settleBeats (puntSet s w n) :=
  kept_append (fs := [CL_CTRL_PUNT_RXQ]) (kept_served s w _) (kept_wr _ _ (by simp) (kept_refl _))

theorem clEnable_ends (serves : s.serves w 0x080000 4 = true) (off : s.is CL_CTRL_EN = false) (plain : v.getLsbD 1 = false) :
    ∃ t, exec (.clEnable w v) s = .next t ∧ t.sp = ⟨true, 0⟩ ∧ t.rd CL_CTRL_PUNT_RXQ = bits v.toNat 16 6 ∧
      (if s.enRefuse = 0 then t.is CL_CTRL_EN = true
        else t.is CL_CTRL_EN = false ∧ t.rd CL_CTRL_CFG_ERR = s.enRefuse ∧ t.rd CL_CFG_REJ_COUNT = upBy s CL_CFG_REJ_COUNT 1) := by
  have run : exec (.clEnable w v) s = .next (((served s w 0x080000).clCtrl (v.toNat ||| 1)).okay 0) := congrArg Host.Outcome.next (guardWrite_served serves _)
  have on : bitN (v.toNat ||| 1) 0 = 1 := bitN_eq_one.2 (by rw [Nat.testBit_or, show Nat.testBit 1 0 = true by decide, Bool.or_true])
  have noClear : bitN (v.toNat ||| 1) 1 = 0 := bitN_eq_zero.2 (by rw [Nat.testBit_or, BitVec.testBit_toNat, plain]; decide)
  have was : (served s w 0x080000).is CL_CTRL_EN = false := (served_is s w _ (by unfold unitKey; decide)).trans off
  let u := puntSet s w v.toNat
  have refuse : u.enRefuse = s.enRefuse := (puntSet_channels s w _).enRefuse (by rw [puntSet_tbl])
  have punt : u.rd CL_CTRL_PUNT_RXQ = bits v.toNat 16 6 := puntSet_punt ..
  have effect : (served s w 0x080000).clCtrl (v.toNat ||| 1) = if s.enRefuse = 0 then u.raise CL_CTRL_EN else (u.wr CL_CTRL_CFG_ERR s.enRefuse).clReject := by
    unfold State.clCtrl
    dsimp only
    rw [bits_or _ (by decide), was, if_pos noClear, if_neg (by rw [on]; decide), if_neg Bool.false_ne_true, ← refuse]
    rfl
  rw [effect] at run
  refine ⟨_, run, rfl, ?_⟩
  by_cases fine : s.enRefuse = 0
  · rw [if_pos fine, if_pos fine]
    have kept : Kept [CL_CTRL_EN] u (u.raise CL_CTRL_EN) := kept_wr _ _ (by simp) (kept_refl u)
    have set : (u.raise CL_CTRL_EN).is CL_CTRL_EN = true := is_raise
    exact ⟨(rd_kept kept _ (by decide)).trans punt, set⟩
  · rw [if_neg fine, if_neg fine]
    have kept : Kept [CL_CTRL_CFG_ERR, CL_CFG_REJ_COUNT] u (u.wr CL_CTRL_CFG_ERR s.enRefuse).clReject :=
      kept_wr _ _ (by simp) (kept_wr _ _ (by simp) (kept_refl u))
    have small : s.enRefuse < 8 := by
      unfold State.enRefuse
      repeat' split
      all_goals omega
    refine ⟨(rd_kept kept _ (by decide)).trans punt, (is_kept kept (by decide)).trans ((puntSet_is s w _ (by unfold unitKey; decide) (by decide)).trans off), ?_, ?_⟩
    · exact Eq.trans (rd_wr_ne (by decide)) ((rd_wr_same ..).trans (Nat.mod_eq_of_lt small))
    · refine (rd_bump_same _ _ 1).trans (upBy_congr ?_)
      exact Eq.trans (rd_wr_ne (by decide)) (puntSet_rd s w _ (by unfold unitKey; decide) (by decide))

theorem clear_bits : bitN (v.toNat ||| 2) 1 = 1 ∧ bitN (v.toNat ||| 2) 0 = bitN v.toNat 0 :=
  ⟨bitN_eq_one.2 (by rw [Nat.testBit_or, show Nat.testBit 2 1 = true by decide, Bool.or_true]), by
    have same : (v.toNat ||| 2).testBit 0 = v.toNat.testBit 0 := by
      rw [Nat.testBit_or, show Nat.testBit 2 0 = false by decide, Bool.or_false]
    cases h : v.toNat.testBit 0 with
    | false => rw [bitN_eq_zero.2 (same.trans h), bitN_eq_zero.2 h]
    | true => rw [bitN_eq_one.2 (same.trans h), bitN_eq_one.2 h]⟩

theorem clClear_on (serves : s.serves w 0x080000 4 = true) (en : s.is CL_CTRL_EN = true) (stays : v.getLsbD 0 = true) :
    ∃ t, exec (.clClear w v) s = .next t ∧ t.sp = ⟨true, 0⟩ ∧ t.is CL_CTRL_EN = true ∧ t.tbl = s.tbl ∧
      t.rd CL_CFG_REJ_COUNT = upBy s CL_CFG_REJ_COUNT 1 ∧ Kept ([CL_CTRL_PUNT_RXQ, CL_CFG_REJ_COUNT] ++ portCounts) s.settleBeats t := by
  have run : exec (.clClear w v) s = .next (((served s w 0x080000).clCtrl (v.toNat ||| 2)).okay 0) := congrArg Host.Outcome.next (guardWrite_served serves _)
  obtain ⟨clear, same⟩ := clear_bits (v := v)
  have on : bitN (v.toNat ||| 2) 0 = 1 := same.trans (bitN_eq_one.2 stays)
  have was : (served s w 0x080000).is CL_CTRL_EN = true := (served_is s w _ (by unfold unitKey; decide)).trans en
  let u := puntSet s w v.toNat
  have effect : (served s w 0x080000).clCtrl (v.toNat ||| 2) = u.clReject := by
    unfold State.clCtrl
    dsimp only
    rw [bits_or _ (by decide), was, if_neg (c := bitN (v.toNat ||| 2) 0 = 0) (by rw [on]; decide), if_pos (c := true = true) rfl,
      if_neg (c := bitN (v.toNat ||| 2) 1 = 0) (by rw [clear]; decide)]
    rfl
  rw [effect] at run
  have kept : Kept [CL_CFG_REJ_COUNT] u u.clReject := kept_wr _ _ (by simp) (kept_refl u)
  refine ⟨_, run, rfl, (is_kept kept (by decide)).trans ((puntSet_is s w _ (by unfold unitKey; decide) (by decide)).trans en), puntSet_tbl s w v.toNat, ?_, ?_⟩
  · exact (rd_bump_same _ _ 1).trans (upBy_congr (puntSet_rd s w _ (by unfold unitKey; decide) (by decide)))
  · exact kept_mono (by decide) (kept_append (kept_puntSet s w v.toNat) (kept_flds rfl kept))

/-- The table as a clear leaves it, and the registers that show it. -/
def clearBegun (u : State) : State :=
  let ops := u.tbl.ops.map (fun (o : UpdOp) => if o.decided then { o with todo := [], undo := [] } else { o with known := [] })
  (({ u with tbl := { u.tbl with cache := [], stash := [], disp := [], entries := 0, alts := 0, cleared := false, ops := ops } } : State).occReport).raise
    CL_CTRL_CLEAR_BUSY

theorem clearBegun_channels (u : State) : SameChannels u (clearBegun u) := by
  have step {t : State} (f : Fld) (n : Nat) (a : f.key ≠ SV_INUSE_TBL.key) (b : f.key ≠ SV_INUSE_TBL_FOR.key) (h : SameChannels u t) :
      SameChannels u (t.wr f n) := h.trans (.wr t f n a b)
  refine step _ _ (by decide) (by decide) (step _ _ (by decide) (by decide) (step _ _ (by decide) (by decide) (step _ _ (by decide) (by decide) ?_)))
  exact ⟨rfl, rfl, rfl, rfl, rfl, rfl, fun _ => rfl⟩

theorem clClear_eq (u : State) : u.clClear = (clearBegun u).each (List.range (clearBegun u).tblWorking.length) (fun s b => s.clearWrite b) := rfl

theorem clClear_off (serves : s.serves w 0x080000 4 = true) (off : s.is CL_CTRL_EN = false) (idle : s.is CL_CTRL_CLEAR_BUSY = false)
    (plain : v.getLsbD 0 = false) :
    ∃ t, exec (.clClear w v) s = .next t ∧ t.sp = ⟨true, 0⟩ ∧ t.is CL_CTRL_CLEAR_BUSY = true ∧ t.tbl.cache = [] ∧ t.tbl.stash = [] ∧
      t.tbl.disp = [] ∧ t.tbl.entries = 0 ∧ t.tbl.cleared = false ∧ (∀ b < s.tblWorking.length, s.tblIssues (s.tblChan b) = true →
        t.asks .tblClear b (8 + s.tblChan b) (s.tblOff b) (List.replicate 64 0) 0 = true) := by
  have run : exec (.clClear w v) s = .next (((served s w 0x080000).clCtrl (v.toNat ||| 2)).okay 0) := congrArg Host.Outcome.next (guardWrite_served serves _)
  obtain ⟨clear, same⟩ := clear_bits (v := v)
  have stays : bitN (v.toNat ||| 2) 0 = 0 := same.trans (bitN_eq_zero.2 plain)
  have was : (served s w 0x080000).is CL_CTRL_EN = false := (served_is s w _ (by unfold unitKey; decide)).trans off
  generalize hu : puntSet s w v.toNat = u
  have busy : u.is CL_CTRL_CLEAR_BUSY = false := hu ▸ (puntSet_is s w _ (by unfold unitKey; decide) (by decide)).trans idle
  have effect : (served s w 0x080000).clCtrl (v.toNat ||| 2) =
      { u.clClear.wr CL_CTRL_EN 0 with sv := { u.clClear.sv with rebuild := none } } := by
    unfold State.clCtrl
    dsimp only
    rw [bits_or _ (by decide), show (served s w 0x080000).wr CL_CTRL_PUNT_RXQ (bits v.toNat 16 6) = u from hu, was, busy,
      if_neg (c := bitN (v.toNat ||| 2) 1 = 0) (by rw [clear]; decide), if_pos (c := bitN (v.toNat ||| 2) 0 = 0) stays]
    rfl
  rw [effect] at run
  have channels : SameChannels s (clearBegun u) := (hu ▸ puntSet_channels s w v.toNat).trans (clearBegun_channels u)
  obtain ⟨cleared, asked⟩ := clearing_all (clearBegun u) (List.range (clearBegun u).tblWorking.length)
  rw [← clClear_eq] at cleared asked
  refine ⟨_, run, rfl, ?_, ?_⟩
  · have set : (clearBegun u).is CL_CTRL_CLEAR_BUSY = true := is_raise
    have flds : u.clClear.is CL_CTRL_CLEAR_BUSY = true := (congrArg (· == 1) (rd_congr cleared.flds _)).trans set
    have apart : (u.clClear.wr CL_CTRL_EN 0).is CL_CTRL_CLEAR_BUSY = u.clClear.is CL_CTRL_CLEAR_BUSY := is_wr_ne (by decide)
    exact apart.trans flds
  · show u.clClear.tbl.cache = [] ∧ u.clClear.tbl.stash = [] ∧ u.clClear.tbl.disp = [] ∧ u.clClear.tbl.entries = 0 ∧ u.clClear.tbl.cleared = false ∧ _
    refine ⟨cleared.cache rfl, congrArg TblSt.stash cleared.tbl, congrArg TblSt.disp cleared.tbl, congrArg TblSt.entries cleared.tbl,
      congrArg TblSt.cleared cleared.tbl, fun b hb issues => ?_⟩
    have sent := asked b (List.mem_range.2 (by rw [channels.tblWorking]; exact hb)) (by
      rw [channels.tblChan, Clearing.tblIssues_eq channels]
      exact issues)
    rw [channels.tblChan, Clearing.clearAsk_eq channels] at sent
    exact sent.asks

end

/-! ## The end of a clear -/

theorem clClearDone_ends {s : State} (busy : s.is CL_CTRL_CLEAR_BUSY = true) (idle : s.awaits .tblClear = false) (runs : s.islandRuns 7 = true) :
    ∃ t, exec .clClearDone s = .next t ∧ t.is CL_CTRL_CLEAR_BUSY = false ∧ t.tbl = { s.tbl with cleared := true } ∧ Kept [CL_CTRL_CLEAR_BUSY] s t := by
  have run : exec .clClearDone s = .next { s.wr CL_CTRL_CLEAR_BUSY 0 with tbl := { s.tbl with cleared := true } } := by
    show execClClearDone s = _
    rw [execClClearDone, if_neg (by simp [busy, idle, runs])]
  have clear : (s.wr CL_CTRL_CLEAR_BUSY 0).is CL_CTRL_CLEAR_BUSY = false := is_wr_zero
  exact ⟨_, run, clear, rfl, kept_flds rfl (kept_wr CL_CTRL_CLEAR_BUSY 0 (by simp) (kept_refl s))⟩

theorem clClearDone_waits {s : State} (h : s.is CL_CTRL_CLEAR_BUSY = false ∨ s.awaits .tblClear = true ∨ s.islandRuns 7 = false) :
    exec .clClearDone s = .next s := by
  show execClClearDone s = _
  rw [execClClearDone, if_pos]
  rcases h with h | h | h <;> simp [h]

/-- Settles O38. -/
theorem classifierEnableAndClear : Obligations.ClassifierEnableAndClear := by
  unfold Obligations.ClassifierEnableAndClear
  exact ⟨fun w v s serves off plain => clEnable_ends serves off plain, fun w v s serves off idle plain => clClear_off serves off idle plain,
    fun w v s serves en stays => clClear_on serves en stays, fun s busy idle runs => clClearDone_ends busy idle runs, fun s h => clClearDone_waits h⟩

end Sys2Proof.Proofs
end

section
/-! PROOFS. Table updates by the registers: commands, reads and writes (R171, R182 to R184). -/

namespace Sys2Proof.Proofs

open Sys2Proof.Machine Sys2Proof.Laws

set_option Elab.async false

/-! ## The command as a served write finds it -/

theorem served_readPlain (s : State) (w : Who) (off : Nat) {o : Nat} (plain : selTable.find? (fun d => d.lo ≤ o && o < d.lo + d.span) = none)
    (unit : ∀ f ∈ fieldsAt o, unitKey (Fld.key ⟨o, f.lo, f.w⟩)) : (served s w off).readPlain o = s.readPlain o := by
  have here (u : State) : u.resolve o = some o := by
    unfold State.resolve
    rw [plain]
  unfold State.readPlain
  rw [here, here]
  refine List.foldl_ext _ _ _ fun n f hf => ?_
  rw [served_rd s w off (unit f hf)]

/-- The key in the registers (R182). -/
def regKey (s : State) : List Byte := (List.range 10).flatMap (fun i => leBytes 4 (s.rd (CL_UPD_KEY_KEY i)))

/-- The verdict in the registers. -/
def regVerdict (s : State) : Nat := s.readPlain 0x080328 + 2 ^ 32 * s.readPlain 0x08032C

/-- The state in which a command of the registers joins the engine. -/
def asked (s : State) (w : Who) : State := (served s w 0x080330).raise CL_UPD_STAT_BUSY

section
variable (s : State) (w : Who)

theorem served_regKey : regKey (served s w 0x080330) = regKey s := by
  have word : ∀ i ∈ List.range 10, (served s w 0x080330).rd (CL_UPD_KEY_KEY i) = s.rd (CL_UPD_KEY_KEY i) := fun i hi => by
    have unit : ∀ i ∈ List.range 10, unitKey (CL_UPD_KEY_KEY i).key := by unfold unitKey; decide
    exact served_rd s w _ (unit i hi)
  unfold regKey
  exact List.flatMap_congr fun i hi => by rw [word i hi]

theorem served_regVerdict : regVerdict (served s w 0x080330) = regVerdict s := by
  unfold regVerdict
  rw [served_readPlain s w _ (by decide) (by unfold unitKey; decide), served_readPlain s w _ (by decide) (by unfold unitKey; decide)]

theorem asked_rd {f : Fld} (unit : unitKey f.key) (ne : f.key ≠ CL_UPD_STAT_BUSY.key) : (asked s w).rd f = s.rd f := by
  have kept : Kept [CL_UPD_STAT_BUSY] (served s w 0x080330) (asked s w) := kept_wr _ _ (by simp) (kept_refl _)
  exact (rd_kept kept f (by simpa using ne)).trans (served_rd s w _ unit)

theorem asked_tbl : (asked s w).tbl = s.tbl := served_same s w _ (p := .tbl) (by decide) (by decide)

theorem asked_channels : SameChannels s (asked s w) := (SameChannels.served s w _).trans (.wr _ _ _ (by decide) (by decide))

theorem asked_hkey : (asked s w).hkey = s.hkey := by
  have unit : ∀ i ∈ List.range 14, unitKey (CL_HKEY_HKEY i).key ∧ (CL_HKEY_HKEY i).key ≠ CL_UPD_STAT_BUSY.key := by unfold unitKey; decide
  refine List.foldl_ext _ _ _ fun n i hi => ?_
  rw [asked_rd s w (unit i hi).1 (unit i hi).2]

theorem asked_keyBucket (key : List Byte) : keyBucket (asked s w) key = keyBucket s key := by rw [keyBucket, asked_hkey, keyBucket]

theorem asked_keySig (key : List Byte) : keySig (asked s w) key = keySig s key := by rw [keySig, asked_hkey, keySig]

theorem asked_ctxs : (asked s w).ctxs = s.ctxs := served_same s w _ (p := .ctxs) (by decide) (by decide)

theorem asked_updCheck (o : UpdOp) : (asked s w).updCheck o = s.updCheck o := by
  have en : (asked s w).is CL_CTRL_EN = s.is CL_CTRL_EN := congrArg (· == 1) (asked_rd s w (by unfold unitKey; decide) (by decide))
  unfold State.updCheck State.poolQ State.ctx
  rw [en, asked_ctxs]

theorem asked_bucketServed (b : Nat) : (asked s w).bucketServed b = s.bucketServed b := by
  have same := asked_channels s w
  have sv : (asked s w).sv = s.sv := served_same s w _ (p := .sv) (by decide) (by decide)
  unfold State.bucketServed State.tblPos
  rw [same.tblChan, Clearing.tblIssues_eq same, same.tblWorking, sv]

theorem asked_busy : (asked s w).is CL_UPD_STAT_BUSY = true := is_raise

end

section
variable {s : State} {w : Who}

/-- A command that finds no other starts an operation. -/
theorem clUpd_eq {op : Nat} (idle : s.is CL_UPD_STAT_BUSY = false) (low : 1 ≤ op) (high : op ≤ 4) :
    (served s w 0x080330).clUpd op = (asked s w).updQueue (newOp op (regKey s) (regVerdict s) none) := by
  have busy : (served s w 0x080330).is CL_UPD_STAT_BUSY = false := (served_is s w _ (by unfold unitKey; decide)).trans idle
  unfold State.clUpd
  rw [busy, if_neg (by simp; omega)]
  show (asked s w).updQueue (newOp op (regKey (served s w 0x080330)) (regVerdict (served s w 0x080330)) none) = _
  rw [served_regKey, served_regVerdict]

theorem clUpd_refused {op : Nat} (busy : s.is CL_UPD_STAT_BUSY = true) : (served s w 0x080330).clUpd op = (served s w 0x080330).clReject := by
  have was : (served s w 0x080330).is CL_UPD_STAT_BUSY = true := (served_is s w _ (by unfold unitKey; decide)).trans busy
  unfold State.clUpd
  rw [was]
  exact if_pos rfl

/-- The four commands of `CL_UPD_CMD`. -/
theorem updCommand {c : Instr} (mem : c ∈ [Instr.clInsert w, .clDelete w, .clModify w, .clQuery w]) (serves : s.serves w 0x080330 4 = true) :
    ∃ op, 1 ≤ op ∧ op ≤ 4 ∧ exec c s = .next (((served s w 0x080330).clUpd op).okay 0) := by
  have run (op : Nat) : s.clUpdRow w op = ((served s w 0x080330).clUpd op).okay 0 := guardWrite_served serves _
  simp only [List.mem_cons, List.not_mem_nil, or_false] at mem
  rcases mem with rfl | rfl | rfl | rfl
  · exact ⟨1, by decide, by decide, congrArg Host.Outcome.next (run 1)⟩
  · exact ⟨2, by decide, by decide, congrArg Host.Outcome.next (run 2)⟩
  · exact ⟨3, by decide, by decide, congrArg Host.Outcome.next (run 3)⟩
  · exact ⟨4, by decide, by decide, congrArg Host.Outcome.next (run 4)⟩

theorem updCommand_busy {c : Instr} (serves : s.serves w 0x080330 4 = true) (busy : s.is CL_UPD_STAT_BUSY = true)
    (mem : c ∈ [Instr.clInsert w, .clDelete w, .clModify w, .clQuery w]) :
    ∃ t, exec c s = .next t ∧ t.sp = ⟨true, 0⟩ ∧ t.tbl = s.tbl ∧ t.rd CL_CFG_REJ_COUNT = upBy s CL_CFG_REJ_COUNT 1 ∧
      Kept (CL_CFG_REJ_COUNT :: portCounts) s.settleBeats t := by
  obtain ⟨op, -, -, run⟩ := updCommand mem serves
  rw [clUpd_refused busy] at run
  refine ⟨_, run, rfl, served_same s w _ (p := .tbl) (by decide) (by decide), ?_, ?_⟩
  · exact (rd_bump_same _ _ 1).trans (upBy_congr (served_rd s w _ (by unfold unitKey; decide)))
  · exact kept_append (fs := [CL_CFG_REJ_COUNT]) (kept_served s w _) (kept_flds rfl (kept_bump _ _))

end

/-! ## The registers show how an operation ended -/

/-- The fields of the verdict that a query returns. -/
def verdictFields : List Fld :=
  [CL_UPD_VD_LO_CTX, CL_UPD_VD_LO_RXQ, CL_UPD_VD_LO_METER, CL_UPD_VD_HI_MEN, CL_UPD_VD_HI_ACTION, CL_UPD_VD_HI_CLASS, CL_UPD_VD_HI_CLS_OVR]

/-- The status registers of an operation that has ended. -/
def opShown (v : State) (o : UpdOp) : State :=
  (((v.wr CL_UPD_STAT_BUSY 0).wr CL_UPD_STAT_STATUS o.status).wr CL_UPD_STAT_WHERE o.place).wr CL_UPD_STAT_MOVES o.moves

/-- The verdict that a query returns. -/
def verdictShown (v : State) (vd : Nat) : State :=
  ((((((v.wr CL_UPD_VD_LO_CTX (bits vd 0 12)).wr CL_UPD_VD_LO_RXQ (bits vd 12 6)).wr CL_UPD_VD_LO_METER (bits vd 18 14)).wr
    CL_UPD_VD_HI_MEN (bitN vd 32)).wr CL_UPD_VD_HI_ACTION (bits vd 33 3)).wr CL_UPD_VD_HI_CLASS (bits vd 36 3)).wr CL_UPD_VD_HI_CLS_OVR (bitN vd 39)

theorem opReport_eq (v : State) {o : UpdOp} (cmd : o.cmd = none) :
    opReport v o = (if o.op = 4 ∧ o.status = sOK then verdictShown (opShown v o) o.vd else opShown v o).raise CL_EVT_UPD_DONE := by
  unfold opReport
  rw [cmd]
  rfl

theorem kept_verdictShown (v : State) (vd : Nat) : Kept verdictFields v (verdictShown v vd) :=
  kept_wr _ _ (by decide) (kept_wr _ _ (by decide) (kept_wr _ _ (by decide) (kept_wr _ _ (by decide) (kept_wr _ _ (by decide)
    (kept_wr _ _ (by decide) (kept_wr _ _ (by decide) (kept_refl v)))))))

theorem opShown_rd (v : State) (o : UpdOp) : (opShown v o).is CL_UPD_STAT_BUSY = false ∧
    (opShown v o).rd CL_UPD_STAT_STATUS = o.status % 2 ^ CL_UPD_STAT_STATUS.w ∧ (opShown v o).rd CL_UPD_STAT_WHERE = o.place % 2 ^ CL_UPD_STAT_WHERE.w := by
  let a := v.wr CL_UPD_STAT_BUSY 0
  let b := a.wr CL_UPD_STAT_STATUS o.status
  let c := b.wr CL_UPD_STAT_WHERE o.place
  have late : Kept [CL_UPD_STAT_MOVES] c (opShown v o) := kept_wr _ _ (by simp) (kept_refl _)
  have mid : Kept [CL_UPD_STAT_WHERE, CL_UPD_STAT_MOVES] b (opShown v o) := kept_wr _ _ (by simp) (kept_wr _ _ (by simp) (kept_refl _))
  have early : Kept [CL_UPD_STAT_STATUS, CL_UPD_STAT_WHERE, CL_UPD_STAT_MOVES] a (opShown v o) :=
    kept_wr _ _ (by simp) (kept_wr _ _ (by simp) (kept_wr _ _ (by simp) (kept_refl _)))
  exact ⟨(is_kept early (by decide)).trans is_wr_zero, (rd_kept mid _ (by decide)).trans (rd_wr_same ..), (rd_kept late _ (by decide)).trans (rd_wr_same ..)⟩

/-- What the registers show at the end of their operation. -/
theorem opReport_shown (v : State) {o : UpdOp} (cmd : o.cmd = none) : (opReport v o).is CL_UPD_STAT_BUSY = false ∧
    (opReport v o).rd CL_UPD_STAT_STATUS = o.status % 2 ^ CL_UPD_STAT_STATUS.w ∧
    (opReport v o).rd CL_UPD_STAT_WHERE = o.place % 2 ^ CL_UPD_STAT_WHERE.w ∧ (opReport v o).is CL_EVT_UPD_DONE = true ∧ (opReport v o).fab = v.fab := by
  obtain ⟨busy, status, place⟩ := opShown_rd v o
  rw [opReport_eq v cmd]
  have kept : Kept (CL_EVT_UPD_DONE :: verdictFields) (opShown v o)
      ((if o.op = 4 ∧ o.status = sOK then verdictShown (opShown v o) o.vd else opShown v o).raise CL_EVT_UPD_DONE) :=
    kept_wr _ _ (by simp) (kept_ite (kept_mono (List.subset_cons_self ..) (kept_verdictShown (opShown v o) o.vd)) (kept_refl _))
  refine ⟨(is_kept kept (by decide)).trans busy, (rd_kept kept _ (by decide)).trans status, (rd_kept kept _ (by decide)).trans place, is_raise, ?_⟩
  split <;> rfl

/-- A query that found its key shows the verdict. -/
theorem opReport_verdict (v : State) {o : UpdOp} (cmd : o.cmd = none) (query : o.op = 4) (fine : o.status = sOK) :
    (opReport v o).rd CL_UPD_VD_LO_CTX = bits o.vd 0 12 ∧ (opReport v o).rd CL_UPD_VD_LO_RXQ = bits o.vd 12 6 ∧
      (opReport v o).rd CL_UPD_VD_LO_METER = bits o.vd 18 14 := by
  rw [opReport_eq v cmd, if_pos ⟨query, fine⟩]
  let a := (opShown v o).wr CL_UPD_VD_LO_CTX (bits o.vd 0 12)
  let b := a.wr CL_UPD_VD_LO_RXQ (bits o.vd 12 6)
  let c := b.wr CL_UPD_VD_LO_METER (bits o.vd 18 14)
  have rest : Kept [CL_UPD_VD_HI_MEN, CL_UPD_VD_HI_ACTION, CL_UPD_VD_HI_CLASS, CL_UPD_VD_HI_CLS_OVR, CL_EVT_UPD_DONE] c
      ((verdictShown (opShown v o) o.vd).raise CL_EVT_UPD_DONE) :=
    kept_wr _ _ (by decide) (kept_wr _ _ (by decide) (kept_wr _ _ (by decide) (kept_wr _ _ (by decide) (kept_wr _ _ (by decide) (kept_refl c)))))
  have meter : Kept [CL_UPD_VD_LO_METER] b c := kept_wr _ _ (by simp) (kept_refl b)
  have rxq : Kept [CL_UPD_VD_LO_RXQ] a b := kept_wr _ _ (by simp) (kept_refl a)
  have value {u : State} {f : Fld} (lo : Nat) : (u.wr f (bits o.vd lo f.w)).rd f = bits o.vd lo f.w :=
    (rd_wr_same ..).trans (Nat.mod_eq_of_lt (Nat.mod_lt _ (Nat.two_pow_pos _)))
  exact ⟨(rd_kept rest _ (by decide)).trans ((rd_kept meter _ (by decide)).trans ((rd_kept rxq _ (by decide)).trans (value 0))),
    (rd_kept rest _ (by decide)).trans ((rd_kept meter _ (by decide)).trans (value 12)), (rd_kept rest _ (by decide)).trans (value 18)⟩

/-! ## Commands on an idle engine -/

/-- A key of a known type and, where the operation has one, a verdict in range pass the engine's checks while the classifier is enabled. -/
theorem updCheck_none {s : State} {op vd : Nat} {key : List Byte} {cmd : Option Nat} (real : op ≠ 0) (low : 1 ≤ byteAt key 0) (high : byteAt key 0 ≤ 6)
    (en : s.is CL_CTRL_EN = true)
    (verdict : op = 1 ∨ op = 3 → bits vd 33 3 < 3 ∧ (s.ctx (bits vd 0 12)).state ≠ cFREE ∧ (s.poolQ (bits vd 0 12) (bits vd 12 6) true).isSome = true) :
    s.updCheck (newOp op key vd cmd) = none := by
  unfold State.updCheck newOp
  dsimp only
  rw [if_neg real, if_neg (by omega), if_neg, en]
  · rfl
  · intro bad
    obtain ⟨h, bad⟩ := Bool.and_eq_true_iff.1 bad
    obtain ⟨range, free, queue⟩ := verdict (of_decide_eq_true h)
    simp [free, Option.isNone_iff_eq_none, Option.isSome_iff_ne_none.1 queue] at bad
    omega

theorem updCheck_badKey {s : State} {op vd : Nat} {key : List Byte} {cmd : Option Nat} (real : op ≠ 0) (bad : byteAt key 0 = 0 ∨ 6 < byteAt key 0) :
    s.updCheck (newOp op key vd cmd) = some sBADARG := by
  unfold State.updCheck newOp
  dsimp only
  rw [if_neg real, if_pos bad]

/-- The read of a bucket goes out on its channel. -/
theorem tblRead_asks {v : State} {b : Nat} (served : v.bucketServed b = true) (k : ReqKind) (a : Nat) :
    (v.tblRead k a b).asks k a b (v.tblOff b) [] 64 = true := by
  have issues : v.fab.issues (9 + v.tblChan b) = true := by
    obtain ⟨h, -⟩ := Bool.and_eq_true_iff.1 served
    exact (Bool.and_eq_true_iff.1 h).1
  exact (asked_send_new (.inr issues) k a b 1 (v.tblOff b) [] 64).asks

theorem regKey_type (s : State) : byteAt (regKey s) 0 = s.rd (CL_UPD_KEY_KEY 0) % 256 := by
  show (BitVec.ofNat 8 (s.rd (CL_UPD_KEY_KEY 0))).toNat = _
  exact BitVec.toNat_ofNat ..

section
variable {s : State} {w : Who}

theorem updCommand_badKey {c : Instr} (serves : s.serves w 0x080330 4 = true) (idle : s.is CL_UPD_STAT_BUSY = false) (ops : s.tbl.ops = [])
    (bad : s.rd (CL_UPD_KEY_KEY 0) % 256 = 0) (mem : c ∈ [Instr.clInsert w, .clDelete w, .clModify w, .clQuery w]) :
    ∃ t, exec c s = .next t ∧ t.sp = ⟨true, 0⟩ ∧ t.tbl = s.tbl ∧ t.rd CL_UPD_STAT_STATUS = sBADARG ∧ t.is CL_UPD_STAT_BUSY = false ∧
      t.is CL_EVT_UPD_DONE = true := by
  obtain ⟨op, low, high, run⟩ := updCommand mem serves
  have check : (asked s w).updCheck (newOp op (regKey s) (regVerdict s) none) = some sBADARG := updCheck_badKey (by omega) (.inl ((regKey_type s).trans bad))
  obtain ⟨v, -, tbl, work⟩ := updQueue_refused (by rw [asked_tbl, ops]) (by omega) check
  rw [clUpd_eq idle low high, work] at run
  generalize ho : ({ newOp op (regKey s) (regVerdict s) none with decided := true, status := sBADARG } : UpdOp) = o at run
  have cmd : o.cmd = none := by rw [← ho]; rfl
  have st : o.status = sBADARG := by rw [← ho]
  obtain ⟨busy, status, -, done, -⟩ := opReport_shown v cmd
  exact ⟨_, run, rfl, (opReport_tbl v o).trans (tbl.trans (asked_tbl s w)), status.trans (by rw [st]; decide), busy, done⟩

theorem updCommand_read {op : Nat} (low : 1 ≤ op) (high : op ≤ 4) (idle : s.is CL_UPD_STAT_BUSY = false) (ops : s.tbl.ops = [])
    (check : (asked s w).updCheck (newOp op (regKey s) (regVerdict s) none) = none) (miss : s.cline (keyBucket s (regKey s)) = none)
    (reachable : s.bucketServed (keyBucket s (regKey s)) = true) :
    let t := ((served s w 0x080330).clUpd op).okay 0
    ∃ o, t.sp = ⟨true, 0⟩ ∧ t.is CL_UPD_STAT_BUSY = true ∧ t.tbl.ops = [o] ∧ o.op = op ∧ o.key = regKey s ∧ o.vd = regVerdict s ∧
      o.cmd = none ∧ o.reading = some (keyBucket s (regKey s)) ∧
      t.asks .tblUpdRead 0 (keyBucket s (regKey s)) (s.tblOff (keyBucket s (regKey s))) [] 64 = true := by
  intro t
  let o := newOp op (regKey s) (regVerdict s) none
  have ops' : (asked s w).tbl.ops = [] := by rw [asked_tbl, ops]
  have joins := engine_joined (asked s w) o
  have plan : (joined (asked s w) o).updPlan o = (.need (keyBucket s (regKey s)), 0) := by
    rw [updPlan_new _ (by omega), joins.keyBucket, asked_keyBucket]
  obtain ⟨v, same, tbl, work⟩ := updQueue_read ops' rfl rfl check plan ((cline_of_cache (by rw [asked_tbl]) _).trans miss)
    ((asked_bucketServed s w _).trans reachable)
  have ht : t = (v.tblRead .tblUpdRead 0 (keyBucket s (regKey s))).okay 0 := congrArg (fun u : State => u.okay 0) ((clUpd_eq idle low high).trans work)
  have chan : v.bucketServed (keyBucket s (regKey s)) = true := (same.bucketServed _).trans ((asked_bucketServed s w _).trans reachable)
  have asks := tblRead_asks chan .tblUpdRead 0
  rw [same.tblOff, (asked_channels s w).tblOff] at asks
  have busy : v.is CL_UPD_STAT_BUSY = true := (same.is _ (by decide)).trans (asked_busy s w)
  have vops : v.tbl.ops = [{ o with reading := some (keyBucket s (regKey s)), reread := false }] := by rw [tbl]
  rw [ht]
  exact ⟨_, rfl, busy, vops, rfl, rfl, rfl, rfl, rfl, asks⟩

theorem updCommand_miss (low : 1 ≤ byteAt (regKey s) 0) (high : byteAt (regKey s) 0 ≤ 6) (serves : s.serves w 0x080330 4 = true)
    (idle : s.is CL_UPD_STAT_BUSY = false) (ops : s.tbl.ops = []) (en : s.is CL_CTRL_EN = true) (miss : s.cline (keyBucket s (regKey s)) = none)
    (reachable : s.bucketServed (keyBucket s (regKey s)) = true) {e : Instr × Nat}
    (mem : e ∈ [(Instr.clInsert w, 1), (.clDelete w, 2), (.clModify w, 3), (.clQuery w, 4)])
    (verdict : e.2 = 1 ∨ e.2 = 3 → bits (regVerdict s) 33 3 < 3 ∧ (s.ctx (bits (regVerdict s) 0 12)).state ≠ cFREE ∧
      (s.poolQ (bits (regVerdict s) 0 12) (bits (regVerdict s) 12 6) true).isSome = true) :
    ∃ t o, exec e.1 s = .next t ∧ t.sp = ⟨true, 0⟩ ∧ t.is CL_UPD_STAT_BUSY = true ∧ t.tbl.ops = [o] ∧ o.op = e.2 ∧ o.key = regKey s ∧
      o.vd = regVerdict s ∧ o.cmd = none ∧ o.reading = some (keyBucket s (regKey s)) ∧
      t.asks .tblUpdRead 0 (keyBucket s (regKey s)) (s.tblOff (keyBucket s (regKey s))) [] 64 = true := by
  have run : exec e.1 s = .next (((served s w 0x080330).clUpd e.2).okay 0) ∧ 1 ≤ e.2 ∧ e.2 ≤ 4 := by
    have row (op : Nat) : s.clUpdRow w op = ((served s w 0x080330).clUpd op).okay 0 := guardWrite_served serves _
    simp only [List.mem_cons, List.not_mem_nil, or_false] at mem
    rcases mem with rfl | rfl | rfl | rfl <;> exact ⟨congrArg Host.Outcome.next (row _), by dsimp only; omega, by dsimp only; omega⟩
  obtain ⟨run, one, four⟩ := run
  have check : (asked s w).updCheck (newOp e.2 (regKey s) (regVerdict s) none) = none :=
    (asked_updCheck s w _).trans (updCheck_none (by omega) low high en verdict)
  obtain ⟨o, rest⟩ := updCommand_read (w := w) one four idle ops check miss reachable
  exact ⟨_, o, run, rest⟩

theorem clQuery_found {line : LineC} {i x : Nat} (low : 1 ≤ byteAt (regKey s) 0) (high : byteAt (regKey s) 0 ≤ 6) (serves : s.serves w 0x080330 4 = true)
    (idle : s.is CL_UPD_STAT_BUSY = false) (ops : s.tbl.ops = []) (en : s.is CL_CTRL_EN = true) (held : s.cline (keyBucket s (regKey s)) = some line)
    (found : matchIn line.ents (byteAt (regKey s) 0) (keySig s (regKey s)) 0 = some (i, x)) :
    ∃ t, exec (.clQuery w) s = .next t ∧ t.sp = ⟨true, 0⟩ ∧ t.is CL_UPD_STAT_BUSY = false ∧ t.rd CL_UPD_STAT_STATUS = sOK ∧
      t.rd CL_UPD_STAT_WHERE = 0 ∧ t.is CL_EVT_UPD_DONE = true ∧ t.rd CL_UPD_VD_LO_CTX = bits (entVd x) 0 12 ∧
      t.rd CL_UPD_VD_LO_RXQ = bits (entVd x) 12 6 ∧ t.rd CL_UPD_VD_LO_METER = bits (entVd x) 18 14 ∧ t.tbl.ops = [] := by
  have run : exec (.clQuery w) s = .next (((served s w 0x080330).clUpd 4).okay 0) := congrArg Host.Outcome.next (guardWrite_served serves _)
  have check : (asked s w).updCheck (newOp 4 (regKey s) (regVerdict s) none) = none :=
    (asked_updCheck s w _).trans (updCheck_none (by decide) low high en (by omega))
  obtain ⟨v, o, -, vops, query, fine, vd, place, -, cmd, work⟩ := updQueue_query (u := asked s w) (by rw [asked_tbl, ops]) check
    (line := line) (by rw [asked_keyBucket]; exact (cline_of_cache (by rw [asked_tbl]) _).trans held) (by rw [asked_keySig]; exact found)
  rw [clUpd_eq idle (by decide) (by decide), work] at run
  obtain ⟨busy, status, where_, done, -⟩ := opReport_shown v cmd
  obtain ⟨ctx, rxq, meter⟩ := opReport_verdict v cmd query fine
  rw [vd] at ctx rxq meter
  exact ⟨_, run, rfl, busy, status.trans (by rw [fine]; decide), where_.trans (by rw [place]; decide), done, ctx, rxq, meter,
    (congrArg TblSt.ops (opReport_tbl v o)).trans vops⟩

end

end Sys2Proof.Proofs
end

section
/-! PROOFS. Writes of the table: an insert, its answers, and the stash (R171, R183, R184). -/

namespace Sys2Proof.Proofs

open Sys2Proof.Machine Sys2Proof.Laws

set_option Elab.async false

/-! ## The stash -/

theorem stashMigrate_reads {b e : Nat} {l : List (Nat × Nat)} {s : State} (ops : s.tbl.ops = []) (stash : s.tbl.stash = (b, e) :: l)
    (en : s.is CL_CTRL_EN = true) (runs : s.islandRuns 7 = true) (miss : s.cline b = none) (reachable : s.bucketServed b = true) :
    ∃ t o, exec .stashMigrate s = .next t ∧ t.tbl.ops = [o] ∧ o.op = 0 ∧ o.reading = some b ∧ t.asks .tblUpdRead 0 b (s.tblOff b) [] 64 = true := by
  let o := newOp 0 [] 0 none
  have run : exec .stashMigrate s = .next (s.updQueue o) := by
    show execStashMigrate s = _
    rw [execStashMigrate, if_pos (by simp [ops, stash, en, runs])]
    rfl
  have check : s.updCheck o = none := by
    unfold State.updCheck
    exact (if_pos rfl).trans (if_pos en)
  have plan : (joined s o).updPlan o = (.need b, 0) := by
    have first : (joined s o).updPlan o = (migratePlan ⟨[], s.tbl.disp, s.tbl.stash⟩ 0 s.tbl.stash, 0) := by
      unfold State.updPlan
      exact if_pos rfl
    rw [first, stash]
    rfl
  obtain ⟨v, same, tbl, work⟩ := updQueue_read ops rfl rfl check plan miss reachable
  have asks := tblRead_asks ((same.bucketServed b).trans reachable) .tblUpdRead 0
  rw [same.tblOff] at asks
  rw [work] at run
  have vops : v.tbl.ops = [{ o with reading := some b, reread := false }] := by rw [tbl]
  exact ⟨_, _, run, vops, rfl, rfl, asks⟩

/-! ## Answers of the engine's writes -/

section
variable {d : Deliv} {rest : List Deliv} {x : LineC} {o : UpdOp} {s : State}

/-- The state in which an answer has been taken. -/
def taken (s : State) (rest : List Deliv) : State := { s with fab := { s.fab with done := rest } }

/-- Which answers act at `updateWriteResponse`. -/
def writeAnswer (d : Deliv) : Bool := d.kind == .tblUpdWrite || d.kind == .tblClear || d.kind == .tblCopyWrite

theorem exec_updateWriteResponse (runs : s.islandRuns 7 = true) (answer : takeFirst writeAnswer s.fab.done = some (d, rest)) (kind : d.kind = .tblUpdWrite) :
    exec .updateWriteResponse s = .next ((taken s rest).updWritten d) := by
  show execUpdateWriteResponse s = _
  have answer' : takeFirst (fun (d : Deliv) => d.kind == .tblUpdWrite || d.kind == .tblClear || d.kind == .tblCopyWrite) s.fab.done = some (d, rest) := answer
  rw [execUpdateWriteResponse, if_neg (by simp [runs]), answer']
  dsimp only
  rw [kind]
  rfl

theorem updWritten_again {r : List UpdOp} {u : State} (bad : d.resp ≠ .okay) (sent : d.resp ≠ .unissued) (few : d.b / 8 < 3) (line : u.cline d.a = some x)
    (ops : u.tbl.ops = o :: r) : u.updWritten d = (u.tblErr (d.b % 8)).tblWriteOn .tblUpdWrite d.a (d.b / 8 + 1) (d.b % 8) x.ents := by
  have err : (if (d.resp == .okay) || (d.resp == .unissued) then u else u.tblErr (d.b % 8)) = u.tblErr (d.b % 8) := if_neg (by simp [bad, sent])
  have line' : (u.tblErr (d.b % 8)).cline d.a = some x := line
  have ops' : (u.tblErr (d.b % 8)).tbl.ops = o :: r := ops
  unfold State.updWritten
  dsimp only
  rw [err, line', ops']
  dsimp only
  rw [if_pos (by simp [bad, sent, few])]

theorem updateWrite_again {r : List UpdOp} (runs : s.islandRuns 7 = true) (answer : takeFirst writeAnswer s.fab.done = some (d, rest)) (kind : d.kind = .tblUpdWrite)
    (bad : d.resp ≠ .okay) (sent : d.resp ≠ .unissued) (few : d.b / 8 < 3) (line : s.cline d.a = some x) (ops : s.tbl.ops = o :: r) (chan : d.b % 8 < 7)
    (issues : s.tblIssues (d.b % 8) = true) :
    ∃ t, exec .updateWriteResponse s = .next t ∧ t.tbl = s.tbl ∧
      t.asks .tblUpdWrite d.a (8 * (d.b / 8 + 1) + d.b % 8) (s.tblOff d.a) (entBytes x.ents) 0 = true ∧
      t.bit CL_EVT_TBL_ERR (d.b % 8) = true ∧ Kept [CL_EVT_TBL_ERR] s t := by
  have run := exec_updateWriteResponse runs answer kind
  rw [updWritten_again (u := taken s rest) bad sent few line ops] at run
  refine ⟨_, run, rfl, ?_, ?_, kept_flds rfl (kept_wr CL_EVT_TBL_ERR (s.rd CL_EVT_TBL_ERR ||| 2 ^ (d.b % 8)) (by simp) (kept_refl s))⟩
  · exact (asked_send_new (s := (taken s rest).tblErr (d.b % 8)) (.inr issues) .tblUpdWrite d.a (8 * (d.b / 8 + 1) + d.b % 8) 0 (s.tblOff d.a) (entBytes x.ents) 0).asks
  · show ((s.wr CL_EVT_TBL_ERR (s.rd CL_EVT_TBL_ERR ||| 2 ^ (d.b % 8))).rd CL_EVT_TBL_ERR).testBit (d.b % 8) = true
    rw [rd_wr_same, Nat.testBit_mod_two_pow, Nat.testBit_or, Nat.testBit_two_pow_self]
    rw [Bool.or_true, Bool.and_true]
    exact decide_eq_true chan

/-- The last answer of the only operation ends it and unpins the line. -/
theorem updateWrite_last (runs : s.islandRuns 7 = true) (answer : takeFirst writeAnswer s.fab.done = some (d, rest)) (kind : d.kind = .tblUpdWrite)
    (okay : d.resp = .okay) (line : s.cline d.a = some x) (ops : s.tbl.ops = [o]) (decided : o.decided = true) (one : o.writes = 1) (todo : o.todo = [])
    (insert : o.op = 1) (cmd : o.cmd = none) :
    ∃ t, exec .updateWriteResponse s = .next t ∧ t.fab.done = rest ∧ t.tbl.ops = [] ∧ t.is CL_UPD_STAT_BUSY = false ∧
      t.rd CL_UPD_STAT_STATUS = o.status % 2 ^ CL_UPD_STAT_STATUS.w ∧ t.is CL_EVT_UPD_DONE = true ∧
      t.cline d.a = some { x with out := x.out - 1, failed := false } := by
  have run := exec_updateWriteResponse runs answer kind
  let p : UpdOp := { o with writes := o.writes - 1 }
  let u := ((taken s rest).setLine d.a { x with out := x.out - 1, failed := false }).setOp p
  have written : (taken s rest).updWritten d = updWork 100000 u := by
    have fine : (if (d.resp == .okay) || (d.resp == .unissued) then taken s rest else (taken s rest).tblErr (d.b % 8)) = taken s rest := if_pos (by simp [okay])
    have line' : (taken s rest).cline d.a = some x := line
    have ops' : (taken s rest).tbl.ops = [o] := ops
    unfold State.updWritten
    dsimp only
    rw [fine, line', ops']
    dsimp only
    rw [if_neg (by simp [okay]), okay]
    rfl
  have uops : u.tbl.ops = [p] := by
    show p :: s.tbl.ops.drop 1 = [p]
    rw [ops]
    rfl
  have work : updWork 100000 u = opReport (opLeft u) p :=
    updWork_last 99999 uops (by rw [show p.op = 1 from insert]; decide) decided todo (by show o.writes - 1 = 0; omega)
  rw [written, work] at run
  obtain ⟨busy, status, -, done, fab⟩ := opReport_shown (opLeft u) (o := p) cmd
  refine ⟨_, run, ?_, ?_, busy, status, done, ?_⟩
  · rw [fab, (engine_opLeft u).fab]
    rfl
  · rw [opReport_tbl, opLeft_tbl]
  · show optGet (opReport (opLeft u) p).tbl.cache d.a = _
    rw [opReport_tbl, opLeft_tbl]
    exact (optGet_set ..).trans (if_pos rfl)

end

/-! ## Entries -/

theorem toeplitz_lt (key secret : Nat) : toeplitz key secret < 2 ^ 102 := by
  have go : ∀ n m : Nat, ∀ a < 2 ^ m, ((List.range' m n).foldl (fun k j => k + 2 ^ j * toeplitzBit key secret j) a) < 2 ^ (m + n) := fun n => by
    induction n with
    | zero => exact fun m a h => h
    | succ n ih =>
      intro m a h
      rw [List.range'_succ, List.foldl_cons]
      have bit : toeplitzBit key secret m < 2 := Nat.mod_lt _ (by decide)
      have next : a + 2 ^ m * toeplitzBit key secret m < 2 ^ (m + 1) := by
        have := Nat.mul_le_mul_left (2 ^ m) (Nat.le_of_lt_succ bit)
        rw [Nat.pow_succ]
        omega
      have := ih (m + 1) _ next
      rwa [show m + 1 + n = m + (n + 1) by omega] at this
  have all := go 102 0 0 (by decide)
  rw [← List.range_eq_range'] at all
  exact all

theorem keySig_lt (u : State) (key : List Byte) : keySig u key < 2 ^ 79 := by
  have := toeplitz_lt (beNat key 0 40) u.hkey
  unfold keySig hashSig
  omega

/-- An entry made anew keeps its type and signature, and the bits of its verdict. -/
theorem setAlt_mkEnt {type sig vd : Nat} (ht : type < 16) (hs : sig < 2 ^ 79) : setAlt (mkEnt type sig 0 vd) 0 = mkEnt type sig 0 (bits vd 0 40) := by
  have type' : entType (mkEnt type sig 0 vd) = type := by simp only [entType, mkEnt, bits]; omega
  have sig' : entSig (mkEnt type sig 0 vd) = sig := by simp only [entSig, mkEnt, bits]; omega
  have vd' : entVd (mkEnt type sig 0 vd) = bits vd 0 40 := by simp only [entVd, mkEnt, bits]; omega
  rw [setAlt, type', sig', vd']

/-! ## An insert into a cached bucket with room (R183, R184) -/

/-- The plan of an insert whose bucket has a free slot. -/
theorem updPlan_insert {v : State} {o : UpdOp} {l : List Nat} {j : Nat} (op : o.op = 1) (known : o.known = [(keyBucket v o.key, l)])
    (stash : v.tbl.stash = []) (count : mapGet (fun _ => 0) v.tbl.disp (keyBucket v o.key) = 0)
    (absent : matchIn l (byteAt o.key 0) (keySig v o.key) 0 = none) (free : freeSlot l = some j) :
    v.updPlan o = (.done sOK 0 0
      [.write (keyBucket v o.key) (l.set j (setAlt (mkEnt (byteAt o.key 0) (keySig v o.key) 0 o.vd) 0)), .occ 1 0], 0) := by
  have bucket : (⟨o.known, v.tbl.disp, v.tbl.stash⟩ : PlanEnv).bucket (keyBucket v o.key) = some l := by
    rw [known]
    simp [PlanEnv.bucket]
  have find : (⟨o.known, v.tbl.disp, v.tbl.stash⟩ : PlanEnv).find (byteAt o.key 0) (keyBucket v o.key) (keySig v o.key) = .inr none := by
    unfold PlanEnv.find
    rw [bucket]
    dsimp only
    rw [absent]
    dsimp only
    have none : (⟨o.known, v.tbl.disp, v.tbl.stash⟩ : PlanEnv).count (keyBucket v o.key) = 0 := count
    rw [if_pos none, stash]
    rfl
  have place : placeAt ⟨o.known, v.tbl.disp, v.tbl.stash⟩ (keyBucket v o.key) (keyBucket v o.key) (mkEnt (byteAt o.key 0) (keySig v o.key) 0 o.vd) =
      some [.write (keyBucket v o.key) (l.set j (setAlt (mkEnt (byteAt o.key 0) (keySig v o.key) 0 o.vd) 0)), .occ 1 0] := by
    unfold placeAt
    rw [bucket]
    dsimp only
    rw [free]
    exact if_pos rfl
  rw [updPlan_real v o (by rw [op]; decide), find]
  dsimp only
  rw [if_pos op]
  unfold insertPlan
  rw [place]

/-- A bucket's write by the operation that stands alone. -/
structure Put (t : State) (b : Nat) (l : List Nat) (out entries : Nat) (ask : Req) : Prop where
  line : ∃ y, t.cline b = some y ∧ y.ents = l ∧ y.out = out
  op : ∃ d, t.tbl.ops = [d] ∧ d.decided = true ∧ d.back = false ∧ d.writes ≠ 0
  entries : t.tbl.entries = entries
  asked : Asked t ask
  busy : t.is CL_UPD_STAT_BUSY = true

/-- The request of a bucket's write on channel `c`. -/
def putAsk (b c off : Nat) (l : List Nat) : Req := newAsk .tblUpdWrite b (8 + c) (9 + c) 0 off (entBytes l) 0

namespace Put

variable {t : State} {b out entries : Nat} {l : List Nat} {ask : Req}

theorem setOp (h : Put t b l out entries ask) {d : UpdOp} (decided : d.decided = true) (back : d.back = false) (writes : d.writes ≠ 0) :
    Put (t.setOp d) b l out entries ask := by
  obtain ⟨e, ops, -⟩ := h.op
  refine ⟨h.line, ⟨d, ?_, decided, back, writes⟩, h.entries, h.asked, h.busy⟩
  show d :: t.tbl.ops.drop 1 = [d]
  rw [ops]
  rfl

theorem undoWith (h : Put t b l out entries ask) (u : UStep) : Put (t.undoWith u) b l out entries ask := by
  obtain ⟨d, ops, decided, back, writes⟩ := h.op
  have noted : t.undoWith u = t.setOp { d with undo := u :: d.undo } := by
    unfold State.undoWith
    rw [ops]
    exact if_neg (by simp [back])
  rw [noted]
  exact h.setOp decided back writes

/-- The table counts one more entry. -/
theorem occ (h : Put t b l out entries ask) (a : Nat) :
    Put ({ t with tbl := { t.tbl with entries := entries + 1, alts := a } } : State).occReport b l out (entries + 1) ask := by
  refine ⟨h.line, h.op, rfl, h.asked, ?_⟩
  have kept : Kept [CL_OCC_ENTRIES, CL_OCC_ALT, CL_STASH_OCC] t ({ t with tbl := { t.tbl with entries := entries + 1, alts := a } } : State).occReport :=
    kept_wr _ _ (by simp) (kept_wr _ _ (by simp) (kept_wr _ _ (by simp) (kept_flds rfl (kept_refl t))))
  exact (is_kept kept (by decide)).trans h.busy

/-- The steps that count the new entry follow the write, and the operation waits for its answer. -/
theorem steps (h : Put t b l out entries ask) : Put (updSteps [.occ 1 0] t) b l out (entries + 1) ask ∧
    ∃ d, (updSteps [.occ 1 0] t).tbl.ops = [d] ∧ d.decided = true ∧ d.todo = [] ∧ d.writes ≠ 0 := by
  obtain ⟨d, ops, -⟩ := h.op
  let u := (({ t with tbl := { t.tbl with entries := ((t.tbl.entries : Int) + 1).toNat, alts := ((t.tbl.alts : Int) + 0).toNat } } : State).occReport.undoWith
    (.occ (-1) (-0)))
  have step : updSteps [.occ 1 0] t = updSteps [] u := by
    conv_lhs => rw [updSteps, ops]
  have counted : Put u b l out (entries + 1) ask := by
    have entry : ((t.tbl.entries : Int) + 1).toNat = entries + 1 := by rw [h.entries]; omega
    show Put (({ t with tbl := { t.tbl with entries := ((t.tbl.entries : Int) + 1).toNat, alts := _ } } : State).occReport.undoWith _) b l out (entries + 1) ask
    rw [entry]
    exact (h.occ _).undoWith _
  obtain ⟨c, uops, decided, back, writes⟩ := counted.op
  have last : updSteps [] u = u.setOp { c with todo := [] } := by
    rw [updSteps, uops]
  rw [step, last]
  refine ⟨counted.setOp decided back writes, { c with todo := [] }, ?_, decided, rfl, writes⟩
  show _ :: u.tbl.ops.drop 1 = _
  rw [uops]
  rfl

end Put

/-- A write of a bucket that no copy shares goes out on the bucket's own channel. -/
theorem putBucket_alone {u : State} {b : Nat} {y : LineC} {d : UpdOp} (copy : u.copyOf = none) (line : u.cline b = some y) (ops : u.tbl.ops = [d]) (l : List Nat) :
    u.putBucket b l = ((u.setLine b { y with out := y.out + 1 }).setOp { d with writes := d.writes + 1 }).tblWriteOn .tblUpdWrite b 1 (u.tblChan b) l := by
  have none : u.copyChan b = [] := by
    unfold State.copyChan
    rw [copy]
    exact if_neg (by simp)
  unfold State.putBucket
  rw [none]
  dsimp only [State.each, List.foldl]
  rw [line, ops]

/-- A write of a cached line to its bucket. -/
theorem put_sent {u : State} {b : Nat} {y : LineC} {l : List Nat} {d : UpdOp} (copy : u.copyOf = none) (line : u.cline b = some y) (ops : u.tbl.ops = [d])
    (decided : d.decided = true) (back : d.back = false) (issues : u.tblIssues (u.tblChan b) = true) (busy : u.is CL_UPD_STAT_BUSY = true)
    (ents : y.ents = l := by rfl) :
    Put (u.putBucket b l) b l (y.out + 1) u.tbl.entries (putAsk b (u.tblChan b) (u.tblOff b) l) := by
  let x := (u.setLine b { y with out := y.out + 1 }).setOp { d with writes := d.writes + 1 }
  have sent := asked_send_new (s := x) (.inr issues) .tblUpdWrite b (8 * 1 + u.tblChan b) 0 (u.tblOff b) (entBytes l) 0
  have here : x.cline b = some { y with out := y.out + 1 } := (optGet_set ..).trans (if_pos rfl)
  have alone : x.tbl.ops = [{ d with writes := d.writes + 1 }] := by
    show _ :: u.tbl.ops.drop 1 = _
    rw [ops]
    rfl
  have writes : ({ d with writes := d.writes + 1 } : UpdOp).writes ≠ 0 := Nat.succ_ne_zero d.writes
  rw [putBucket_alone copy line ops]
  exact ⟨⟨_, here, ents, rfl⟩, ⟨_, alone, decided, back, writes⟩, rfl, sent, busy⟩

/-- The update instant of a cached bucket (R184). -/
theorem put_updateInstant {u : State} {b : Nat} {y : LineC} {d : UpdOp} (copy : u.copyOf = none) (line : u.cline b = some y) (ops : u.tbl.ops = [d])
    (decided : d.decided = true) (back : d.back = false) (issues : u.tblIssues (u.tblChan b) = true) (busy : u.is CL_UPD_STAT_BUSY = true) (l : List Nat) :
    Put (u.updateInstant b l) b l (y.out + 1) u.tbl.entries (putAsk b (u.tblChan b) (u.tblOff b) l) := by
  let v := u.staleReads b
  let w := (v.setLine b { y with ents := l }).touch b
  have touched : w = ({ v.setLine b { y with ents := l } with tbl := { (v.setLine b { y with ents := l }).tbl with clock := v.tbl.clock + 1 } } : State).setLine b
      { y with ents := l, used := v.tbl.clock } := by
    have here : (v.setLine b { y with ents := l }).cline b = some { y with ents := l } := (optGet_set ..).trans (if_pos rfl)
    unfold w State.touch
    rw [here]
    rfl
  have instant : u.updateInstant b l = w.putBucket b l := by
    have same : v.cline b = some y := line
    unfold State.updateInstant
    dsimp only
    rw [same]
    rfl
  have wline : w.cline b = some { y with ents := l, used := v.tbl.clock } := by
    rw [touched]
    exact (optGet_set ..).trans (if_pos rfl)
  have wops : w.tbl.ops = [d] := by
    rw [touched]
    exact ops
  have channels : SameChannels u w := by
    rw [touched]
    exact ⟨rfl, rfl, rfl, rfl, rfl, rfl, fun _ => rfl⟩
  have wcopy : w.copyOf = none := by
    rw [touched]
    exact copy
  have entries : w.tbl.entries = u.tbl.entries := by rw [touched]; rfl
  have wbusy : w.is CL_UPD_STAT_BUSY = true := by rw [touched]; exact busy
  rw [instant]
  clear_value w
  have sent := put_sent (l := l) wcopy wline wops decided back ((Clearing.tblIssues_eq channels _).trans (by rw [channels.tblChan]; exact issues)) wbusy
  rw [channels.tblChan, channels.tblOff, entries] at sent
  exact sent

theorem updSteps_write {u : State} {b : Nat} {y : LineC} {d : UpdOp} (line : u.cline b = some y) (ops : u.tbl.ops = [d]) (back : d.back = false)
    (issues : u.tblIssues (u.tblChan b) = true) (l : List Nat) (r : List UStep) :
    updSteps (.write b l :: r) u = updSteps r ((u.updateInstant b (withVer l (entVer (y.ents.headD 0) + 1))).undoWith (.write b y.ents)) := by
  have room : u.lineRoom b = some u := by
    unfold State.lineRoom
    rw [line]
    exact if_pos rfl
  have now : u.entsNow d b = y.ents := by
    unfold State.entsNow
    rw [line]
  conv_lhs => rw [updSteps, ops]
  dsimp only
  rw [if_neg (by simp [back]), if_neg (by simp [issues]), room]
  dsimp only
  rw [now]

section
variable {s : State} {w : Who}

/-- What the table holds once a cached bucket has been taken. -/
theorem cacheSeen_tbl {u : State} {o : UpdOp} {b : Nat} {l : LineC} (line : u.cline b = some l) :
    (cacheSeen u o b l).tbl.stash = u.tbl.stash ∧ (cacheSeen u o b l).tbl.disp = u.tbl.disp ∧ (cacheSeen u o b l).tbl.entries = u.tbl.entries ∧
      ∃ k, (cacheSeen u o b l).cline b = some { l with used := k } := by
  let x := (u.setOp { o with known := o.known ++ [(b, l.ents)] }).bump64 CL_CACHE_HIT_LO_COUNT CL_CACHE_HIT_HI_COUNT
  obtain ⟨f, hf⟩ := pcEvent_eq x 718 {} 1
  have touched : cacheSeen u o b l = ({ ({ x with flds := f } : State) with tbl := { x.tbl with clock := x.tbl.clock + 1 } } : State).setLine b { l with used := x.tbl.clock } := by
    have here : ({ x with flds := f } : State).cline b = some l := line
    show (x.pcEvent 718).touch b = _
    rw [hf]
    unfold State.touch
    rw [here]
  rw [touched]
  exact ⟨rfl, rfl, rfl, _, (optGet_set ..).trans (if_pos rfl)⟩

theorem Engine.copyOf {u v : State} (h : Engine u v) : v.copyOf = u.copyOf := by rw [State.copyOf, h.sv, State.copyOf]

theorem Engine.tblIssues {u v : State} (h : Engine u v) (c : Nat) : v.tblIssues c = u.tblIssues c := by rw [State.tblIssues, h.fab, State.tblIssues]

/-- The engine makes the plan of an insert with room, and waits for the write's answer. -/
theorem insert_put {v : State} {o : UpdOp} {y : LineC} {j : Nat} (vops : v.tbl.ops = [o]) (op : o.op = 1) (known : o.known = [(keyBucket v o.key, y.ents)])
    (open_ : o.decided = false) (reads : o.reading = none) (back : o.back = false) (check : v.updCheck o = none) (stash : v.tbl.stash = [])
    (count : mapGet (fun _ => 0) v.tbl.disp (keyBucket v o.key) = 0) (absent : matchIn y.ents (byteAt o.key 0) (keySig v o.key) 0 = none)
    (free : freeSlot y.ents = some j) (line : v.cline (keyBucket v o.key) = some y) (copy : v.copyOf = none)
    (issues : v.tblIssues (v.tblChan (keyBucket v o.key)) = true) (busy : v.is CL_UPD_STAT_BUSY = true) (n : Nat) :
    let b := keyBucket v o.key
    let l := withVer (y.ents.set j (setAlt (mkEnt (byteAt o.key 0) (keySig v o.key) 0 o.vd) 0)) (entVer (y.ents.headD 0) + 1)
    Put (updWork (n + 2) v) b l (y.out + 1) (v.tbl.entries + 1) (putAsk b (v.tblChan b) (v.tblOff b) l) := by
  intro b l
  let d : UpdOp := { o with decided := true, status := sOK, place := 0, moves := 0, vd := if o.op = 4 then 0 else o.vd }
  let u := v.setOp d
  have decide_ := updWork_plan (n + 1) vops open_ reads check (updPlan_insert op known stash count absent free)
  have uops : u.tbl.ops = [d] := by
    show d :: v.tbl.ops.drop 1 = [d]
    rw [vops]
    rfl
  have write : v.updDecide o sOK 0 0 [.write b (y.ents.set j (setAlt (mkEnt (byteAt o.key 0) (keySig v o.key) 0 o.vd) 0)), .occ 1 0] 0 =
      updSteps [.occ 1 0] ((u.updateInstant b l).undoWith (.write b y.ents)) := updSteps_write (u := u) line uops back issues _ _
  have put : Put (u.updateInstant b l) b l (y.out + 1) v.tbl.entries (putAsk b (v.tblChan b) (v.tblOff b) l) :=
    put_updateInstant (u := u) copy line uops rfl back issues busy l
  obtain ⟨all, e, ops, decided, todo, writes⟩ := (put.undoWith (.write b y.ents)).steps
  rw [decide_, write, updWork_writing n ops decided todo writes]
  exact all

theorem clInsert_room {line : LineC} {j : Nat} (serves : s.serves w 0x080330 4 = true) (idle : s.is CL_UPD_STAT_BUSY = false) (ops : s.tbl.ops = [])
    (stash : s.tbl.stash = []) (low : 1 ≤ byteAt (regKey s) 0) (high : byteAt (regKey s) 0 ≤ 6) (en : s.is CL_CTRL_EN = true)
    (verdict : bits (regVerdict s) 33 3 < 3 ∧ (s.ctx (bits (regVerdict s) 0 12)).state ≠ cFREE ∧
      (s.poolQ (bits (regVerdict s) 0 12) (bits (regVerdict s) 12 6) true).isSome = true)
    (held : s.cline (keyBucket s (regKey s)) = some line) (count : mapGet (fun _ => 0) s.tbl.disp (keyBucket s (regKey s)) = 0)
    (absent : matchIn line.ents (byteAt (regKey s) 0) (keySig s (regKey s)) 0 = none) (free : freeSlot line.ents = some j)
    (issues : s.tblIssues (s.tblChan (keyBucket s (regKey s))) = true) (copy : s.copyOf = none) :
    ∃ t l, exec (.clInsert w) s = .next t ∧ t.sp = ⟨true, 0⟩ ∧ t.is CL_UPD_STAT_BUSY = true ∧ t.cline (keyBucket s (regKey s)) = some l ∧
      l.ents = withVer (line.ents.set j (mkEnt (byteAt (regKey s) 0) (keySig s (regKey s)) 0 (bits (regVerdict s) 0 40))) (entVer (line.ents.headD 0) + 1) ∧
      l.out = line.out + 1 ∧ t.tbl.entries = s.tbl.entries + 1 ∧
      t.asks .tblUpdWrite (keyBucket s (regKey s)) (8 + s.tblChan (keyBucket s (regKey s))) (s.tblOff (keyBucket s (regKey s))) (entBytes l.ents) 0 = true := by
  have run : exec (.clInsert w) s = .next (((served s w 0x080330).clUpd 1).okay 0) := congrArg Host.Outcome.next (guardWrite_served serves _)
  let key := regKey s
  let b := keyBucket s key
  let o := newOp 1 key (regVerdict s) none
  let o' : UpdOp := { o with known := [(b, line.ents)] }
  have check : (asked s w).updCheck o = none := (asked_updCheck s w _).trans (updCheck_none (by decide) low high en (fun _ => verdict))
  have hb : keyBucket (asked s w) key = b := asked_keyBucket s w key
  obtain ⟨v, same, vops, hv, work⟩ := updQueue_cached (u := asked s w) (line := line) (by rw [asked_tbl, ops]) (by decide) check
    (by rw [hb]; exact (cline_of_cache (by rw [asked_tbl]) _).trans held)
  rw [hb] at vops hv
  obtain ⟨stash', disp', entries', k, line'⟩ := cacheSeen_tbl (u := joined (asked s w) o) (o := o) (b := b) (l := line)
    ((cline_of_cache (by show (asked s w).tbl.cache = _; rw [asked_tbl]) _).trans held)
  rw [← hv] at stash' disp' entries' line'
  have tbl : (joined (asked s w) o).tbl = { s.tbl with ops := [o] } := by
    show ({ (asked s w).tbl with ops := [o] } : TblSt) = _
    rw [asked_tbl]
  rw [tbl] at stash' disp' entries'
  have bucket : keyBucket v key = b := (same.keyBucket key).trans hb
  have sig : keySig v key = keySig s key := (same.keySig key).trans (asked_keySig s w key)
  have channels := asked_channels s w
  have chan : v.tblChan b = s.tblChan b := (same.tblChan b).trans (channels.tblChan b)
  have off : v.tblOff b = s.tblOff b := (same.tblOff b).trans (channels.tblOff b)
  have sv : (asked s w).sv = s.sv := served_same s w _ (p := .sv) (by decide) (by decide)
  have copy' : v.copyOf = none := same.copyOf.trans (by rw [State.copyOf, sv]; exact copy)
  have issues' : v.tblIssues (v.tblChan b) = true := by
    rw [chan, same.tblIssues, Clearing.tblIssues_eq channels]
    exact issues
  have put := insert_put (v := v) (o := o') (y := { line with used := k }) (j := j) vops rfl (by rw [show o'.key = key from rfl, bucket]) rfl rfl rfl
    ((same.updCheck _).trans check) (stash'.trans stash) (by rw [disp', show o'.key = key from rfl, bucket]; exact count)
    (by rw [show o'.key = key from rfl, sig]; exact absent) free (by rw [show o'.key = key from rfl, bucket]; exact line') copy'
    (by rw [show o'.key = key from rfl, bucket]; exact issues') ((same.is _ (by decide)).trans (asked_busy s w)) 99997
  dsimp only at put
  rw [show o'.key = key from rfl, bucket, sig, chan, off, entries', show o'.vd = regVerdict s from rfl,
    setAlt_mkEnt (lt_of_le_of_lt high (by decide)) (keySig_lt s key)] at put
  rw [clUpd_eq idle (by decide) (by decide), work] at run
  obtain ⟨l, hl, ents, out⟩ := put.line
  have asks := put.asked.asks
  refine ⟨_, l, run, rfl, put.busy, hl, ents, out, put.entries, ?_⟩
  rw [ents]
  exact asks

end

/-- Settles O39. -/
theorem tableUpdates : Obligations.TableUpdates := by
  unfold Obligations.TableUpdates
  exact ⟨fun w s serves busy c mem => updCommand_busy serves busy mem,
    fun w s serves idle ops bad c mem => updCommand_badKey serves idle ops bad mem,
    fun w s serves idle ops low high en miss reachable e mem verdict => updCommand_miss low high serves idle ops en miss reachable mem verdict,
    fun w line i e s serves idle ops low high en held found => clQuery_found low high serves idle ops en held found,
    fun w line j s serves idle ops stash low high en range active queue held count absent free issues copy =>
      clInsert_room serves idle ops stash low high en ⟨range, active, queue⟩ held count absent free issues copy,
    fun d rest x o s runs answer kind okay line ops decided one todo insert cmd =>
      updateWrite_last runs answer kind okay line ops decided one todo insert cmd,
    fun d rest x o r s runs answer kind bad sent few line ops chan issues => updateWrite_again runs answer kind bad sent few line ops chan issues,
    fun b e l s ops stash en runs miss reachable => stashMigrate_reads ops stash en runs miss reachable⟩

end Sys2Proof.Proofs
end

section
/-! PROOFS. Doorbells, event consumer words, queue ends and notification (R226, R228, R244, R248). -/

namespace Sys2Proof.Proofs

open Sys2Proof.Machine Sys2Proof.Laws

set_option Elab.async false

/-! ## Refusals -/

theorem dbReason_lt (s : State) (x v : Nat) : s.dbReason x v < 8 := by
  unfold State.dbReason
  dsimp only
  repeat' split
  all_goals decide

/-- The counter and the event of a refusal. -/
def dbRejected (u : State) (x : Nat) : State := (u.bump (HR_CTX_CNT_DB_REJ x)).raise HR_EVT_DB_REJ

/-- `HR_DB_LAST` takes a refusal. -/
def dbNoted (u : State) (x reason qk : Nat) (evq : Bool) : State :=
  ((((((u.wr HR_DB_LAST_CTX x).wr HR_DB_LAST_QUEUE (qk % 64)).wr HR_DB_LAST_KIND (qk / 64)).put HR_DB_LAST_EVQ evq).wr HR_DB_LAST_REASON reason).raise
    HR_DB_LAST_VALID)

theorem dbRefuse_eq (u : State) (x reason qk : Nat) (evq : Bool) : u.dbRefuse x reason qk evq =
    (if u.is HR_DB_LAST_VALID then dbRejected u x else dbNoted (dbRejected u x) x reason qk evq).declined := by
  have valid : (dbRejected u x).is HR_DB_LAST_VALID = u.is HR_DB_LAST_VALID :=
    (is_wr_ne (s := u.bump (HR_CTX_CNT_DB_REJ x)) (by omega)).trans (is_wr_ne (by omega))
  rw [← valid]
  rfl

def dbLastFields : List Fld := [HR_DB_LAST_CTX, HR_DB_LAST_QUEUE, HR_DB_LAST_KIND, HR_DB_LAST_EVQ, HR_DB_LAST_REASON, HR_DB_LAST_VALID]

theorem kept_dbNoted (u : State) (x reason qk : Nat) (evq : Bool) : Kept dbLastFields u (dbNoted u x reason qk evq) :=
  kept_wr _ _ (by decide) (kept_wr _ _ (by decide) (kept_wr _ _ (by decide) (kept_wr _ _ (by decide) (kept_wr _ _ (by decide)
    (kept_wr _ _ (by decide) (kept_refl u))))))

theorem dbRejected_shown (u : State) (x : Nat) :
    (dbRejected u x).is HR_EVT_DB_REJ = true ∧ (dbRejected u x).rd (HR_CTX_CNT_DB_REJ x) = upBy u (HR_CTX_CNT_DB_REJ x) 1 :=
  ⟨is_raise, (rd_wr_ne (by omega)).trans (rd_bump_same ..)⟩

/-- What every refusal shows. -/
theorem dbRefuse_shown (u : State) (x reason qk : Nat) (evq : Bool) :
    (u.dbRefuse x reason qk evq).is HR_EVT_DB_REJ = true ∧
      (u.dbRefuse x reason qk evq).rd (HR_CTX_CNT_DB_REJ x) = upBy u (HR_CTX_CNT_DB_REJ x) 1 := by
  obtain ⟨event, count⟩ := dbRejected_shown u x
  rw [dbRefuse_eq]
  split
  · exact ⟨event, count⟩
  · have kept := kept_dbNoted (dbRejected u x) x reason qk evq
    refine ⟨(is_kept kept (by decide)).trans event, (rd_kept kept _ ?_).trans count⟩
    simp [dbLastFields, Fld.key, HR_CTX_CNT_DB_REJ, HR_DB_LAST_CTX, HR_DB_LAST_QUEUE, HR_DB_LAST_KIND, HR_DB_LAST_EVQ, HR_DB_LAST_REASON, HR_DB_LAST_VALID]
    omega

/-- The first refusal is described. -/
theorem dbRefuse_first (u : State) {x reason : Nat} (small : x < 4096) (few : reason < 8) (qk : Nat) (evq : Bool) (first : u.is HR_DB_LAST_VALID = false) :
    (u.dbRefuse x reason qk evq).rd HR_DB_LAST_CTX = x ∧ (u.dbRefuse x reason qk evq).rd HR_DB_LAST_REASON = reason := by
  rw [dbRefuse_eq, first, if_neg Bool.false_ne_true]
  constructor
  · have ctx : (dbNoted (dbRejected u x) x reason qk evq).rd HR_DB_LAST_CTX = x % 2 ^ 12 :=
      (rd_wr_ne (by decide)).trans ((rd_wr_ne (by decide)).trans ((rd_wr_ne (by decide)).trans ((rd_wr_ne (by decide)).trans ((rd_wr_ne (by decide)).trans
        (rd_wr_same ..)))))
    exact ctx.trans (Nat.mod_eq_of_lt small)
  · have why : (dbNoted (dbRejected u x) x reason qk evq).rd HR_DB_LAST_REASON = reason % 2 ^ 3 := (rd_wr_ne (by decide)).trans (rd_wr_same ..)
    exact why.trans (Nat.mod_eq_of_lt few)

theorem dbRefuse_rest (u : State) (x reason qk : Nat) (evq : Bool) :
    (u.dbRefuse x reason qk evq).sp = ⟨false, 0⟩ ∧ (u.dbRefuse x reason qk evq).qs = u.qs ∧ (u.dbRefuse x reason qk evq).ctxs = u.ctxs := by
  rw [dbRefuse_eq]
  split <;> exact ⟨rfl, rfl, rfl⟩

/-! ## Doorbells -/

theorem dbCount_eq (s : State) (w : Who) (b : Bool) (off : Nat) : ∃ l, s.dbCount w b off = { s with flds := l } := by
  unfold State.dbCount
  split
  · exact ⟨s.flds, rfl⟩
  · obtain ⟨l, e⟩ := pcEvent_eq s (if b then 649 else 648) { priv := some w.priv, master := some w.master, addr := some off } 1
    rw [e]
    exact ⟨_, rfl⟩

theorem kept_dbCount (s : State) (w : Who) (b : Bool) (off : Nat) : Kept portCounts s (s.dbCount w b off) := by
  unfold State.dbCount
  split
  · exact kept_refl s
  · refine kept_crossed _ _ (by decide) (by decide) (kept_crossed _ _ (by decide) (by decide) ?_)
    cases b
    · exact kept_mono (by decide) (kept_pcEvent s 648 _ 1)
    · exact kept_mono (by decide) (kept_pcEvent s 649 _ 1)

section
variable {s : State} {w : Who} {wide : Bool} {v : BitVec 64}

theorem doorbell_moves {x k : Nat} (valid : s.dbReason x (dbValue wide v) = 0)
    (queue : s.poolQ x (bits (dbValue wide v) 16 6) (bitN (dbValue wide v) 22 == 1) = some k) :
    (s.doorbell w x (dbValue wide v)).sp = ⟨true, 0⟩ ∧ ((s.doorbell w x (dbValue wide v)).q k).pi = dbValue wide v % 2 ^ 16 := by
  obtain ⟨l, counted⟩ : ∃ l, (s.dbCount w true (4096 * x)).pcEvent 347 { priv := some w.priv, master := some w.master, addr := some (4096 * x) } =
      { s with flds := l } := by
    obtain ⟨l, first⟩ := dbCount_eq s w true (4096 * x)
    rw [first]
    exact pcEvent_eq ..
  have queue' : ({ s with flds := l } : State).poolQ x (bits (dbValue wide v) 16 6) (bitN (dbValue wide v) 22 == 1) = some k := queue
  unfold State.doorbell
  rw [valid]
  dsimp only
  rw [counted, if_neg (by decide), queue']
  dsimp only
  split
  · exact ⟨rfl, by assumption⟩
  · exact ⟨rfl, congrArg QSt.pi (q_setQ_same ..)⟩

theorem doorbell_refused {x : Nat} (small : x < 4096) (bad : s.dbReason x (dbValue wide v) ≠ 0) :
    let t := s.doorbell w x (dbValue wide v)
    t.sp = ⟨false, 0⟩ ∧ t.qs = s.qs ∧ t.is HR_EVT_DB_REJ = true ∧ t.rd (HR_CTX_CNT_DB_REJ x) = upBy s (HR_CTX_CNT_DB_REJ x) 1 ∧
      (s.is HR_DB_LAST_VALID = false → t.rd HR_DB_LAST_CTX = x ∧ t.rd HR_DB_LAST_REASON = s.dbReason x (dbValue wide v)) := by
  intro t
  let a : PcAttr := { priv := some w.priv, master := some w.master, addr := some (4096 * x) }
  let u := s.pcEvent 348 a
  have ht : t = u.dbRefuse x (s.dbReason x (dbValue wide v)) (bits (dbValue wide v) 16 7) false := by
    show s.doorbell w x (dbValue wide v) = _
    unfold State.doorbell
    dsimp only
    rw [if_pos bad]
  have kept : Kept (pcFields 348) s u := kept_pcEvent s 348 a 1
  have qs : u.qs = s.qs := by
    obtain ⟨l, e⟩ := pcEvent_eq s 348 a 1
    show (s.pcEvent 348 a).qs = _
    rw [e]
  have count : u.rd (HR_CTX_CNT_DB_REJ x) = s.rd (HR_CTX_CNT_DB_REJ x) := rd_kept kept _ (by
    simp [pcFields, Fld.key, HR_CTX_CNT_DB_REJ, PC_CNT_LO_COUNT, PC_CNT_HI_COUNT, PC_OVF_OVF, NY_EVT_PC_OVF]
    omega)
  obtain ⟨event, counted⟩ := dbRefuse_shown u x (s.dbReason x (dbValue wide v)) (bits (dbValue wide v) 16 7) false
  obtain ⟨sp, queues, -⟩ := dbRefuse_rest u x (s.dbReason x (dbValue wide v)) (bits (dbValue wide v) 16 7) false
  rw [ht]
  refine ⟨sp, queues.trans qs, event, counted.trans (by rw [upBy, count, upBy]), fun first => ?_⟩
  exact dbRefuse_first u small (dbReason_lt ..) _ _ ((is_kept kept (by decide)).trans first)

/-! ## Event consumer words -/

theorem evConsume_moves {x : Nat} {e : EvRing} (valid : s.evcReason x (dbValue wide v) = 0) (ring : (s.ctx x).evr = some e) :
    let t := s.evConsume w x (dbValue wide v)
    t.sp = ⟨true, 0⟩ ∧ t.ctx x = { s.ctx x with evr := some { e with ci := dbValue wide v } } ∧ Kept portCounts s t := by
  intro t
  obtain ⟨l, counted⟩ := dbCount_eq s w true (4096 * x + 8)
  have kept := kept_dbCount s w true (4096 * x + 8)
  have ht : t = (({ s with flds := l } : State).setCtx x { s.ctx x with evr := some { e with ci := dbValue wide v } }).okay 0 := by
    show s.evConsume w x (dbValue wide v) = _
    unfold State.evConsume
    rw [valid, counted]
    dsimp only
    have here : (({ s with flds := l } : State).ctx x).evr = some e := ring
    rw [if_neg (by decide), here]
    rfl
  rw [ht]
  exact ⟨rfl, ctx_setCtx_same .., by rw [counted] at kept; exact kept_flds rfl kept⟩

theorem evConsume_refused {x : Nat} (bad : s.evcReason x (dbValue wide v) ≠ 0) :
    let t := s.evConsume w x (dbValue wide v)
    t.sp = ⟨false, 0⟩ ∧ t.ctxs = s.ctxs ∧ t.is HR_EVT_DB_REJ = true ∧ t.rd (HR_CTX_CNT_DB_REJ x) = upBy s (HR_CTX_CNT_DB_REJ x) 1 := by
  intro t
  have ht : t = s.dbRefuseOther x (s.evcReason x (dbValue wide v)) true := if_pos bad
  have all (u : State) (ctxs : u.ctxs = s.ctxs) (flds : u.flds = s.flds) (qk : Nat) :
      let t := u.dbRefuse x (s.evcReason x (dbValue wide v)) qk true
      t.sp = ⟨false, 0⟩ ∧ t.ctxs = s.ctxs ∧ t.is HR_EVT_DB_REJ = true ∧ t.rd (HR_CTX_CNT_DB_REJ x) = upBy s (HR_CTX_CNT_DB_REJ x) 1 := by
    intro t
    obtain ⟨event, counted⟩ := dbRefuse_shown u x (s.evcReason x (dbValue wide v)) qk true
    obtain ⟨sp, -, same⟩ := dbRefuse_rest u x (s.evcReason x (dbValue wide v)) qk true
    exact ⟨sp, same.trans ctxs, event, counted.trans (by rw [upBy, State.rd, flds]; rfl)⟩
  rw [ht]
  unfold State.dbRefuseOther
  split
  · exact all s rfl rfl 0
  · exact all s.draw.2 rfl rfl _

end

/-! ## The end of a queue -/

theorem queueStopped_ends {n : Fin 32768} {rx : Bool} {s : State} (up : s.coreUp = true) (stopping : (s.q (n.val + 32768 * b2n rx)).state = qSTOPPING)
    (idle : s.queueBusy (n.val + 32768 * b2n rx) = false) :
    ∃ t, exec (.queueStopped n rx) s = .next t ∧ (t.q (n.val + 32768 * b2n rx)).state = qSTOPPED ∧ (t.q (n.val + 32768 * b2n rx)).bufs = [] ∧
      (t.q (n.val + 32768 * b2n rx)).fp = (s.q (n.val + 32768 * b2n rx)).ci ∧ (t.q (n.val + 32768 * b2n rx)).stopCmd = none := by
  generalize hk : n.val + 32768 * b2n rx = k at *
  let q := s.q k
  let u := s.forgetReads k
  let v := u.setQ k { u.q k with state := qSTOPPED, bufs := [], fp := q.ci, stopCmd := none, drainPi := none }
  have run : exec (.queueStopped n rx) s =
      .next ((v.draw.2.event q.ctx 3 q.qidx rx (v.draw.1.toNat % 9) q.ci 0).cmdDone? q.stopCmd sOK q.ci) := by
    show execQueueStopped n rx s = _
    unfold execQueueStopped
    rw [hk]
    dsimp only
    rw [stopping, idle, up, if_neg (by decide)]
  have event : (v.draw.2.event q.ctx 3 q.qidx rx (v.draw.1.toNat % 9) q.ci 0).qs = v.qs := by
    have h : Keeps eventParts v.draw.2 (v.draw.2.event q.ctx 3 q.qidx rx (v.draw.1.toNat % 9) q.ci 0) := by
      apply +allowSynthFailures keeps_event
      case hk => exact Keeps.refl _
      all_goals exact ⟨by simp [eventParts]⟩
    exact h.1 .qs (by simp [eventParts])
  have done (a : State) (id : Option Nat) : (a.cmdDone? id sOK q.ci).qs = a.qs := by
    cases id with
    | none => rfl
    | some i => exact cmdDone_qs ..
  have final : ((v.draw.2.event q.ctx 3 q.qidx rx (v.draw.1.toNat % 9) q.ci 0).cmdDone? q.stopCmd sOK q.ci).q k =
      { u.q k with state := qSTOPPED, bufs := [], fp := q.ci, stopCmd := none, drainPi := none } := by
    rw [State.q, done, event]
    exact q_setQ_same ..
  refine ⟨_, run, ?_⟩
  rw [final]
  exact ⟨rfl, rfl, rfl, rfl⟩

/-! ## Notification -/

theorem vecSettle_quiet {s : State} {x v : Nat} (quiet : (s.vec x v).msg = false) : s.vecSettle x v = s := by
  unfold State.vecSettle
  dsimp only
  rw [quiet, Bool.false_and, if_neg Bool.false_ne_true]

/-- A message whose conditions hold goes out. -/
theorem vecCheck_sends {s : State} {x v a : Nat} {r : List Nat} (un : (s.vec x v).un = a :: r) (quiet : (s.vec x v).msg = false)
    (waited : a + 1600 * (s.vec x v).modUs ≤ s.tm.tick) (mask : (s.vec x v).mask = false) (free : s.msgHeld x = false) :
    s.vecCheck x v = ((s.hostNotify .notify x v (s.vec x v).addr (leBytes 4 (s.vec x v).data)).setVec x v { s.vec x v with msg := true }).vecSettle x v := by
  unfold State.vecCheck
  rw [vecSettle_quiet quiet]
  dsimp only
  rw [un]
  dsimp only
  rw [quiet, mask, free]
  exact if_pos (by simp [waited])

theorem vecSettle_sent {s : State} {x v : Nat} (sent : (s.vec x v).msg = true) : (s.vecSettle x v).vec x v =
    (if (s.vecSettle x v).fab.reqs.any (fun r => r.waits x v) then s.vec x v else { s.vec x v with un := [], msg := false }) := by
  cases hw : s.fab.reqs.any (fun r => r.waits x v)
  · have e : s.vecSettle x v = s.setVec x v { s.vec x v with un := [], msg := false } := if_pos (by rw [sent, hw]; rfl)
    have same : (s.vecSettle x v).fab.reqs.any (fun r => r.waits x v) = false := by rw [e]; exact hw
    rw [same, if_neg Bool.false_ne_true, e, vec_setVec_same]
  · have e : s.vecSettle x v = s := if_neg (by rw [hw, Bool.not_true, Bool.and_false]; exact Bool.false_ne_true)
    rw [e, hw, if_pos rfl]

theorem vecSettle_fab (s : State) (x v : Nat) : (s.vecSettle x v).fab = s.fab := by
  unfold State.vecSettle
  dsimp only
  split <;> rfl

theorem vecSettle_tm (s : State) (x v : Nat) : (s.vecSettle x v).tm = s.tm := by
  unfold State.vecSettle
  dsimp only
  split <;> rfl

theorem notifyModTimer_sends {x : Fin 4096} {v : Fin 64} {a : Nat} {r : List Nat} {s : State} (un : (s.vec x v).un = a :: r)
    (timed : (s.vec x v).modUs ≠ 0) (mask : (s.vec x v).mask = false) (free : s.msgHeld x = false) (quiet : (s.vec x v).msg = false)
    (up : s.coreUp = true) :
    ∃ t, exec (.notifyModTimer x v) s = .next t ∧ t.asks .notify x v (s.vec x v).addr (leBytes 4 (s.vec x v).data) 0 = true ∧
      t.vec x v = (if t.fab.reqs.any (fun r => r.waits x v) then { s.vec x v with msg := true } else { s.vec x v with un := [] }) ∧
      t.tm.tick = max s.tm.tick (a + 1600 * (s.vec x v).modUs) := by
  have run : exec (.notifyModTimer x v) s = .next ((s.advanceTo (a + 1600 * (s.vec x v).modUs)).vecCheck x v) := by
    show execNotifyModTimer x v s = _
    unfold execNotifyModTimer
    rw [up, if_pos rfl, vecSettle_quiet quiet]
    dsimp only
    rw [un]
    dsimp only
    rw [up, if_neg timed]
    rfl
  obtain ⟨l, tm, adv, tick, -⟩ := advanceTo_eq s (a + 1600 * (s.vec x v).modUs)
  generalize hu : s.advanceTo (a + 1600 * (s.vec x v).modUs) = u at adv run
  have vec : u.vec x v = s.vec x v := by rw [adv]; rfl
  have held : u.msgHeld x = s.msgHeld x := by rw [adv]; rfl
  have late : u.tm.tick = max s.tm.tick (a + 1600 * (s.vec x v).modUs) := by rw [adv]; exact tick
  rw [vecCheck_sends (by rw [vec]; exact un) (by rw [vec]; exact quiet) (by rw [vec, late]; omega) (by rw [vec]; exact mask) (held.trans free), vec] at run
  generalize hm : u.hostNotify .notify x v (s.vec x v).addr (leBytes 4 (s.vec x v).data) = m at run
  have asked : HostAsked m .notify x v (s.vec x v).addr (leBytes 4 (s.vec x v).data) 0 := hm ▸ hostAsked_notify ..
  have mtm : m.tm = u.tm := by rw [← hm]; rfl
  refine ⟨_, run, ?_, ?_, ?_⟩
  · have same : HostAsked ((m.setVec x v { s.vec x v with msg := true }).vecSettle x v) .notify x v (s.vec x v).addr (leBytes 4 (s.vec x v).data) 0 :=
      asked.congr (congrArg FabSt.reqs (vecSettle_fab ..))
    exact same.asks
  · rw [vecSettle_sent (by rw [vec_setVec_same]), vec_setVec_same]
    split
    · rfl
    · rw [← quiet]
  · rw [vecSettle_tm, ← late, ← mtm]
    rfl

theorem notifyMessage_answered {d : Deliv} {u s : State} (answer : s.response .notify = some (d, u)) :
    ∃ t, exec .notifyMessageResponse s = .next t ∧
    (if d.resp = .okay then t.flds = s.flds
      else t.rd HR_NT_FAIL_COUNT = upBy s HR_NT_FAIL_COUNT 1 ∧ t.is HR_EVT_NT_FAIL = true ∧ Kept [HR_NT_FAIL_COUNT, HR_EVT_NT_FAIL] s t) := by
  have run : exec .notifyMessageResponse s = .next (if d.resp = .okay then u else (u.bump HR_NT_FAIL_COUNT).raise HR_EVT_NT_FAIL) := by
    show execNotifyMessageResponse s = _
    unfold execNotifyMessageResponse
    rw [answer]
  have flds := response_flds answer
  refine ⟨_, run, ?_⟩
  split
  · exact flds
  · have count : ((u.bump HR_NT_FAIL_COUNT).raise HR_EVT_NT_FAIL).rd HR_NT_FAIL_COUNT = upBy u HR_NT_FAIL_COUNT 1 :=
      (rd_wr_ne (by decide)).trans (rd_bump_same ..)
    exact ⟨count.trans (by rw [upBy, State.rd, flds]; rfl), is_raise,
      kept_wr _ _ (by decide) (kept_wr _ _ (by decide) (kept_flds flds (kept_refl s)))⟩

/-- Settles O44. -/
theorem doorbellsQueueEndsAndNotifies : Obligations.DoorbellsQueueEndsAndNotifies := by
  unfold Obligations.DoorbellsQueueEndsAndNotifies
  have rung (w) (x : Fin 4096) (wide v) (s : State) (serves : s.servesDoorbell w (4096 * x) 4 = true) :
      exec (.doorbellWrite w x wide v) s = .next (s.doorbell w x (dbValue wide v)) := congrArg Host.Outcome.next (if_pos serves)
  have told (w) (x : Fin 4096) (wide v) (s : State) (serves : s.servesDoorbell w (4096 * x + 8) 4 = true) :
      exec (.eventConsumerWrite w x wide v) s = .next (s.evConsume w x (dbValue wide v)) := congrArg Host.Outcome.next (if_pos serves)
  refine ⟨fun w x wide v k s serves valid queue => ⟨_, rung w x wide v s serves, doorbell_moves valid queue⟩,
    fun w x wide v s serves bad => ⟨_, rung w x wide v s serves, doorbell_refused x.isLt bad⟩,
    fun w x wide v s closed => congrArg Host.Outcome.next (if_neg (by rw [closed]; exact Bool.false_ne_true)),
    fun w x wide v e s serves valid ring => ⟨_, told w x wide v s serves, evConsume_moves valid ring⟩,
    fun w x wide v s serves bad => ⟨_, told w x wide v s serves, evConsume_refused bad⟩,
    fun n rx s up stopping idle => queueStopped_ends up stopping idle, ?other,
    fun x v a r s un timed mask free quiet up => notifyModTimer_sends un timed mask free quiet up,
    fun d u s answer => notifyMessage_answered answer⟩
  intro n rx s other
  have : ((s.q (n.val + 32768 * b2n rx)).state != qSTOPPING) = true := by simp [other]
  show execQueueStopped n rx s = _
  unfold execQueueStopped
  dsimp only
  rw [this]
  rfl

end Sys2Proof.Proofs
end

section
/-! PROOFS. Descriptor and data fetches, and completion entries (R205, R231, R233, R235 to R237, R241, R242). -/

namespace Sys2Proof.Proofs

open Sys2Proof.Machine Sys2Proof.Laws

set_option Elab.async false

/-! ## Ended frames are tidied away -/

/-- A queue without the order of its frames and what ended last. -/
def queueCore (q : QSt) : QSt := { q with order := [], lastEnd := none }

section
variable {p q : QSt} (h : queueCore p = queueCore q)
include h

theorem core_state : p.state = q.state := (congrArg QSt.state h :)
theorem core_faulted : p.faulted = q.faulted := (congrArg QSt.faulted h :)
theorem core_last : p.last = q.last := (congrArg QSt.last h :)
theorem core_ci : p.ci = q.ci := (congrArg QSt.ci h :)
theorem core_cpi : p.cpi = q.cpi := (congrArg QSt.cpi h :)
theorem core_reading : p.reading = q.reading := (congrArg QSt.reading h :)
theorem core_cmplOut : p.cmplOut = q.cmplOut := (congrArg QSt.cmplOut h :)

end

/-- Two states whose queues differ in their frames alone, with the same next frame and the same requests. -/
structure SameQueues (s t : State) : Prop where
  core : ∀ k, queueCore (t.q k) = queueCore (s.q k)
  fab : t.fab = s.fab
  next : t.nextFr = s.nextFr

theorem SameQueues.refl (s : State) : SameQueues s s := ⟨fun _ => rfl, rfl, rfl⟩

theorem SameQueues.trans {s t u : State} (h : SameQueues s t) (g : SameQueues t u) : SameQueues s u :=
  ⟨fun k => (g.core k).trans (h.core k), g.fab.trans h.fab, g.next.trans h.next⟩

theorem SameQueues.of_parts {s t : State} (qs : t.qs = s.qs) (fab : t.fab = s.fab) (next : t.nextFr = s.nextFr) : SameQueues s t :=
  ⟨fun k => by rw [State.q, qs, State.q], fab, next⟩

theorem SameQueues.setQ (s : State) (k : Nat) {x : QSt} (h : queueCore x = queueCore (s.q k)) : SameQueues s (s.setQ k x) := by
  refine ⟨fun j => ?_, rfl, rfl⟩
  by_cases e : j = k
  · rw [e, q_setQ_same, h]
  · rw [q_setQ_other s e]

theorem SameQueues.ite {s t u : State} {c : Prop} [Decidable c] (h : SameQueues s t) (g : SameQueues s u) : SameQueues s (if c then t else u) := by
  split <;> assumption

theorem SameQueues.each {α : Type} {s : State} {l : List α} {f : State → α → State} (hf : ∀ t a, SameQueues t (f t a)) : SameQueues s (s.each l f) := by
  unfold State.each
  induction l generalizing s with
  | nil => exact .refl s
  | cons a l ih => exact (hf s a).trans ih

theorem sameQueues_txTidy (s : State) (k : Nat) : SameQueues s (s.txTidy k) :=
  (SameQueues.of_parts rfl rfl rfl : SameQueues s { s with txs := (txTidyGo s.txs (s.q k).order).2 }).trans (.setQ _ _ rfl)

theorem sameQueues_txSettle (s : State) (k : Nat) : SameQueues s (s.txSettle k) := by
  refine SameQueues.ite (sameQueues_txTidy s k) (SameQueues.ite (.refl s) (SameQueues.trans ?_ (sameQueues_txTidy _ k)))
  split
  · exact .of_parts rfl rfl rfl
  · exact .refl s

theorem sameQueues_txEnd (s : State) (id status : Nat) : SameQueues s (s.txEnd id status) := by
  unfold State.txEnd
  split
  · exact .refl s
  · next f _ =>
    extract_lets flags need u q v w
    have ended : SameQueues s v := (SameQueues.of_parts rfl rfl rfl : SameQueues s u).trans (.setQ _ _ rfl)
    have counted : SameQueues v w := .ite (.of_parts rfl rfl rfl) (.refl v)
    exact (ended.trans counted).trans (sameQueues_txSettle w f.queue)

theorem sameQueues_ledDrop (s : State) (id ctx : Nat) (tx : Bool) (inst cause len : Nat) : SameQueues s (s.ledDrop id ctx tx inst cause len) := by
  have h : Keeps (fun p => p ∈ [Part.free, .led, .regs]) s (s.ledDrop id ctx tx inst cause len) := by
    apply +allowSynthFailures keeps_ledDrop
    case hk => exact Keeps.refl s
    all_goals exact ⟨by decide⟩
  exact .of_parts (h.1 .qs (by decide)) (h.1 .fab (by decide)) (h.1 .nextFr (by decide))

theorem sameQueues_fbFreeTx (s : State) (n : Nat) : SameQueues s (s.fbFreeTx n) := by
  have h : Keeps (fun p => p ∈ [Part.fb, .regs]) s (s.fbFreeTx n) := by
    apply +allowSynthFailures keeps_fbFreeTx
    case hk => exact Keeps.refl s
    all_goals exact ⟨by decide⟩
  exact .of_parts (h.1 .qs (by decide)) (h.1 .fab (by decide)) (h.1 .nextFr (by decide))

theorem sameQueues_setTx (s : State) (id : Nat) (f : TxFr) : SameQueues s (s.setTx id f) := .of_parts rfl rfl rfl

theorem sameQueues_txDropMain (s : State) (id cause status : Nat) : SameQueues s (s.txDropMain id cause status) := by
  unfold State.txDropMain
  split
  · exact .refl s
  · extract_lets u v
    have freed : SameQueues s u := .ite (.refl s) (sameQueues_fbFreeTx s _)
    exact ((freed.trans (sameQueues_setTx ..)).trans (sameQueues_ledDrop v ..)).trans (sameQueues_txEnd ..)

theorem sameQueues_txDrop (s : State) (id cause status : Nat) : SameQueues s (s.txDrop id cause status) := by
  unfold State.txDrop State.txDropNow
  split
  · split
    · exact sameQueues_txDropMain ..
    · have gone : SameQueues s (s.delTx id) := .of_parts rfl rfl rfl
      dsimp only
      split
      · exact .ite gone (gone.trans (sameQueues_txDropMain ..))
      · exact gone
  · split
    · exact sameQueues_setTx ..
    · exact .refl s

theorem sameQueues_txCheck (s : State) (id : Nat) : SameQueues s (s.txCheck id) := by
  unfold State.txCheck
  split
  · exact .refl s
  · exact .ite (sameQueues_txDrop ..) (.ite (sameQueues_txDrop ..) (.refl s))

/-! ## Reads of descriptors go out -/

theorem descriptorRead_issued {s : State} {k : Nat} (runs : s.islandRuns 5 = true) (turn : s.fetchTurn = some k) :
    ∃ t, exec .descriptorReadIssue s = .next t ∧
    t.q k = { s.q k with fp := ((s.q k).fp + s.readCount k) % 2 ^ ((s.q k).log2 + 1), reading := (s.q k).reading + s.readCount k } ∧
    t.asks .descRead k ((s.q k).fp + 65536 * s.readCount k) (slotAddr (s.q k).ring (s.q k).log2 (s.q k).fp (entrySize k)) []
      (s.readCount k * entrySize k) = true ∧ t.ring.turn = turnKey k := by
  let u : State := ({ s with ring := { s.ring with turn := turnKey k } } : State).setQ k
    { s.q k with fp := ((s.q k).fp + s.readCount k) % 2 ^ ((s.q k).log2 + 1), reading := (s.q k).reading + s.readCount k }
  have run : exec .descriptorReadIssue s = .next (u.hostRead .descRead k ((s.q k).fp + 65536 * s.readCount k)
      (slotAddr (s.q k).ring (s.q k).log2 (s.q k).fp (entrySize k)) (s.readCount k * entrySize k)) := by
    show execDescriptorReadIssue s = _
    unfold execDescriptorReadIssue
    rw [runs, turn]
    rfl
  have queue : u.q k = { s.q k with fp := ((s.q k).fp + s.readCount k) % 2 ^ ((s.q k).log2 + 1), reading := (s.q k).reading + s.readCount k } :=
    q_setQ_same ..
  exact ⟨_, run, queue, (hostAsked_read u ..).asks, rfl⟩

/-! ## Descriptors arrive -/

theorem entries_length (size : Nat) : ∀ (n : Nat) (d : List Byte), (entries size n d).length = n
  | 0, _ => rfl
  | n + 1, d => congrArg (· + 1) (entries_length size n (d.drop size))

/-- An accepted frame takes the next number; its queue stays as it was but for its frames. -/
theorem txAccept_rest (s : State) (k idx : Nat) (d : List Byte) : (∀ j, queueCore ((s.txAccept k idx d).q j) = queueCore (s.q j)) ∧
    (s.txAccept k idx d).fab = s.fab ∧ (s.txAccept k idx d).nextFr = s.nextFr + 1 := by
  unfold State.txAccept
  extract_lets q id f rng u
  have led (v : State) (a b : Nat) (c : Bool) (x y z : Nat) : SameQueues v (v.ledAccept a b c x y z) := by
    have h : Keeps (fun p => p ∈ [Part.free, .led, .regs]) v (v.ledAccept a b c x y z) := by
      apply +allowSynthFailures keeps_ledAccept
      case hk => exact Keeps.refl v
      all_goals exact ⟨by decide⟩
    exact .of_parts (h.1 .qs (by decide)) (h.1 .fab (by decide)) (h.1 .nextFr (by decide))
  have queue : SameQueues u (u.setQ k { q with order := q.order ++ [id] }) := .setQ u k rfl
  have all := queue.trans (led (u.setQ k { q with order := q.order ++ [id] }) id q.ctx true u.tm.now f.len 0)
  exact ⟨all.core, all.fab, all.next⟩

theorem txAccept_each (k : Nat) (idx : List Byte × Nat → Nat) (l : List (List Byte × Nat)) (s : State) :
    let t := s.each l (fun s e => s.txAccept k (idx e) e.1)
    (∀ j, queueCore (t.q j) = queueCore (s.q j)) ∧ t.fab = s.fab ∧ t.nextFr = s.nextFr + l.length := by
  unfold State.each
  induction l generalizing s with
  | nil => exact ⟨fun _ => rfl, rfl, rfl⟩
  | cons e l ih =>
    obtain ⟨core, fab, next⟩ := txAccept_rest s k (idx e) e.1
    obtain ⟨cores, fabs, nexts⟩ := ih (s.txAccept k (idx e) e.1)
    refine ⟨fun j => (cores j).trans (core j), fabs.trans fab, nexts.trans ?_⟩
    rw [next, List.length_cons]
    omega

theorem txArrive_rest (s : State) (k start : Nat) (l : List (List Byte)) :
    queueCore ((s.txArrive k start l).q k) = queueCore { s.q k with ci := (start + l.length) % 2 ^ ((s.q k).log2 + 1) } ∧
      (s.txArrive k start l).fab = s.fab ∧ (s.txArrive k start l).nextFr = s.nextFr + l.length := by
  unfold State.txArrive
  extract_lets q u first v
  obtain ⟨core, fab, next⟩ := txAccept_each k (fun e => (start + e.2) % 2 ^ (q.log2 + 1)) l.zipIdx u
  have checked : SameQueues v (v.each (List.range l.length) fun s i => s.txCheck (first + i)) := .each fun t i => sameQueues_txCheck t _
  refine ⟨(checked.core k).trans ((core k).trans (congrArg queueCore (q_setQ_same ..))), checked.fab.trans fab, checked.next.trans (next.trans ?_)⟩
  rw [List.length_zipIdx]
  rfl

theorem descAnswer_okay {s : State} {d : Deliv} (low : d.a < 32768) (clean : (s.q d.a).poison = false) (okay : d.resp = .okay) :
    (s.descAnswer d).fab = s.fab ∧ (s.descAnswer d).nextFr = s.nextFr + d.b / 65536 ∧
      ((s.descAnswer d).q d.a).ci = (d.b % 65536 + d.b / 65536) % 2 ^ ((s.q d.a).log2 + 1) ∧
      ((s.descAnswer d).q d.a).reading = (s.q d.a).reading - d.b / 65536 := by
  let u := s.setQ d.a { s.q d.a with reading := (s.q d.a).reading - d.b / 65536, poison := (s.q d.a).poison && (s.q d.a).reading - d.b / 65536 != 0 }
  have run : s.descAnswer d = (u.txArrive d.a (d.b % 65536) (entries 32 (d.b / 65536) d.data)).txSettle d.a := by
    unfold State.descAnswer
    rw [if_neg (by omega)]
    dsimp only
    rw [if_pos low, if_pos low, if_neg (by rw [clean]; exact Bool.false_ne_true), if_neg (by rw [okay]; exact fun h => h rfl)]
  obtain ⟨core, fab, next⟩ := txArrive_rest u d.a (d.b % 65536) (entries 32 (d.b / 65536) d.data)
  have settled := sameQueues_txSettle (u.txArrive d.a (d.b % 65536) (entries 32 (d.b / 65536) d.data)) d.a
  have queue : u.q d.a = { s.q d.a with reading := (s.q d.a).reading - d.b / 65536, poison := (s.q d.a).poison && (s.q d.a).reading - d.b / 65536 != 0 } :=
    q_setQ_same ..
  have all := (settled.core d.a).trans core
  rw [queue, entries_length] at all
  rw [run]
  exact ⟨settled.fab.trans fab, settled.next.trans (next.trans (by rw [entries_length]; rfl)), core_ci all, core_reading all⟩

theorem qFault_running {u : State} {k : Nat} (runs : (u.q k).state = qRUN) (type status idx addr : Nat) :
    (u.qFault k type status idx addr).q k = { u.q k with state := qSTOPPING, faulted := true, last := status } ∧
      (u.qFault k type status idx addr).is HR_EVT_RING_FAULT = true ∧ (type = 2 → (u.qFault k type status idx addr).is HR_EVT_CMPL_FAULT = true) := by
  let v := (u.setQ k { u.q k with state := qSTOPPING, faulted := true, last := status }).raise HR_EVT_RING_FAULT
  let w := if type = 2 then v.raise HR_EVT_CMPL_FAULT else v
  have run : u.qFault k type status idx addr = w.event (u.q k).ctx type (u.q k).qidx (decide (k ≥ 32768)) status idx addr := by
    unfold State.qFault
    dsimp only
    rw [if_pos runs]
  have vq : v.q k = { u.q k with state := qSTOPPING, faulted := true, last := status } := (q_setQ_same u k { u.q k with state := qSTOPPING, faulted := true, last := status } :)
  have wq : w.q k = { u.q k with state := qSTOPPING, faulted := true, last := status } := by
    unfold w
    split <;> exact vq
  have ring : w.is HR_EVT_RING_FAULT = true := by
    have first : v.is HR_EVT_RING_FAULT = true := is_raise
    unfold w
    split
    · exact (is_wr_ne (s := v) (by decide)).trans first
    · exact first
  have event : Keeps eventParts w (w.event (u.q k).ctx type (u.q k).qidx (decide (k ≥ 32768)) status idx addr) := by
    apply +allowSynthFailures keeps_event
    case hk => exact Keeps.refl _
    all_goals exact ⟨by simp [eventParts]⟩
  have kept := kept_event w (u.q k).ctx type (u.q k).qidx (decide (k ≥ 32768)) status idx addr
  have qs := event.1 .qs (by simp [eventParts])
  rw [run]
  refine ⟨?_, (is_kept kept ?_).trans ring, fun two => (is_kept kept ?_).trans ?_⟩
  · rw [State.q, show State.qs _ = w.qs from qs]
    exact wq
  · simp [eventFields, Fld.key, HR_EVT_RING_FAULT, HR_CTX_EVL_EV_LOST, HR_EVT_EV_LOST]
    omega
  · simp [eventFields, Fld.key, HR_EVT_CMPL_FAULT, HR_CTX_EVL_EV_LOST, HR_EVT_EV_LOST]
    omega
  · unfold w
    rw [if_pos two]
    exact is_raise

theorem txSettle_is (s : State) (k : Nat) (f : Fld) : (s.txSettle k).is f = s.is f := is_kept (fs := []) (kept_txSettle (kept_refl s)) (by simp)

theorem descAnswer_fault {s : State} {d : Deliv} (low : d.a < 65536) (clean : (s.q d.a).poison = false) (bad : d.resp ≠ .okay)
    (runs : (s.q d.a).state = qRUN) :
    ((s.descAnswer d).q d.a).state = qSTOPPING ∧ ((s.descAnswer d).q d.a).faulted = true ∧ ((s.descAnswer d).q d.a).last = faultOf d.resp ∧
      (s.descAnswer d).is HR_EVT_RING_FAULT = true := by
  let u := s.setQ d.a { s.q d.a with reading := (s.q d.a).reading - d.b / 65536, poison := (s.q d.a).poison && (s.q d.a).reading - d.b / 65536 != 0 }
  let v := u.setQ d.a { u.q d.a with poison := (s.q d.a).reading - d.b / 65536 != 0 }
  let w := v.qFault d.a 1 (faultOf d.resp) (d.b % 65536) d.addr
  have run : s.descAnswer d = if d.a < 32768 then w.txSettle d.a else w := by
    unfold State.descAnswer
    rw [if_neg (by omega)]
    dsimp only
    rw [if_neg (c := (s.q d.a).poison = true) (by rw [clean]; exact Bool.false_ne_true), if_pos bad]
  have running : (v.q d.a).state = qRUN := by
    have vq : v.q d.a = { u.q d.a with poison := (s.q d.a).reading - d.b / 65536 != 0 } := q_setQ_same ..
    have uq : u.q d.a = { s.q d.a with reading := (s.q d.a).reading - d.b / 65536, poison := (s.q d.a).poison && (s.q d.a).reading - d.b / 65536 != 0 } :=
      q_setQ_same ..
    rw [vq, uq]
    exact runs
  obtain ⟨queue, event, -⟩ := qFault_running running 1 (faultOf d.resp) (d.b % 65536) d.addr
  rw [run]
  split
  · have core := (sameQueues_txSettle w d.a).core d.a
    rw [queue] at core
    exact ⟨core_state core, core_faulted core, core_last core, (txSettle_is ..).trans event⟩
  · rw [queue]
    exact ⟨rfl, rfl, rfl, event⟩

theorem descriptorRead_answered {s : State} {d : Deliv} {r : List Deliv} (up : s.coreUp = true) (answer : takeFirst s.descReady s.fab.done = some (d, r)) :
    exec .descriptorReadResponse s = .next (({ s with fab := { s.fab with done := r } } : State).descAnswer d) := by
  show execDescriptorReadResponse s = _
  unfold execDescriptorReadResponse
  rw [up, answer]
  rfl

/-! ## Data are fetched -/

theorem fbSet_fb (s : State) (f : FbSt) : (s.fbSet f).fb = f := by
  unfold State.fbSet State.fbAudit
  split <;> rfl

theorem HostAsked.each {α : Type} {s : State} {k : ReqKind} {a b addr n : Nat} {data : List Byte} (h : HostAsked s k a b addr data n)
    {l : List α} {f : State → α → State} (hf : ∀ t x, HostAsked t k a b addr data n → HostAsked (f t x) k a b addr data n) :
    HostAsked (s.each l f) k a b addr data n := by
  unfold State.each
  induction l generalizing s with
  | nil => exact h
  | cons x l ih => exact ih (hf s x h)

/-- Every piece of a frame's data is asked for. -/
theorem fetches_asked (id : Nat) (l : List (Nat × Nat × Nat)) (s : State) : ∀ e ∈ l,
    HostAsked (s.each l fun s e => s.hostRead .dataFetch id e.1 e.2.1 e.2.2) .dataFetch id e.1 e.2.1 [] e.2.2 := by
  induction l generalizing s with
  | nil => exact fun e mem => absurd mem (List.not_mem_nil)
  | cons x l ih =>
    intro e mem
    rcases List.mem_cons.1 mem with rfl | mem
    · exact HostAsked.each (hostAsked_read s ..) (fun t x h => h.hostRead ..)
    · exact ih (s.hostRead .dataFetch id x.1 x.2.1 x.2.2) e mem

theorem fetches_rest (id : Nat) (l : List (Nat × Nat × Nat)) (s : State) :
    Keeps (fun p => p ∈ [Part.fab]) s (s.each l fun s e => s.hostRead .dataFetch id e.1 e.2.1 e.2.2) := by
  refine keeps_each (fun t e ht => ?_) (.refl s)
  apply +allowSynthFailures keeps_hostRead
  case hk => exact ht
  all_goals exact ⟨by decide⟩

theorem dataFetch_issued {s : State} {id : Nat} {f : TxFr} (runs : s.islandRuns 5 = true)
    (pick : s.fetchPick [] ((s.txs.filter (fun e => e.2.stage == .accepted)).mergeSort (fun a b => a.2.order ≤ b.2.order)) = some (id, f)) :
    ∃ t, exec .dataFetchIssue s = .next t ∧ t.fb.tx = s.fb.tx + cellsOf f.len ∧ t.fb.free = s.fb.free - cellsOf f.len ∧
      t.txf id = some { f with stage := .fetching, cells := cellsOf f.len, left := (piecesOf (leNat f.desc 0 8) (leNat f.desc 8 2)).length,
                               chan := (s.q f.queue).chan, cls := (s.q f.queue).cls } ∧
      (∀ e ∈ piecesOf (leNat f.desc 0 8) (leNat f.desc 8 2), t.asks .dataFetch id e.1 e.2.1 [] e.2.2 = true) := by
  generalize hl : piecesOf (leNat f.desc 0 8) (leNat f.desc 8 2) = l
  let g : TxFr := { f with stage := .fetching, cells := cellsOf f.len, left := l.length, chan := (s.q f.queue).chan, cls := (s.q f.queue).cls }
  let u := (s.fbTakeTx (cellsOf f.len)).setTx id g
  have run : exec .dataFetchIssue s = .next (u.each l fun s e => s.hostRead .dataFetch id e.1 e.2.1 e.2.2) := by
    show execDataFetchIssue s = _
    unfold execDataFetchIssue
    rw [runs, pick]
    dsimp only
    rw [hl]
    rfl
  have rest := fetches_rest id l u
  have fb : State.fb _ = u.fb := rest.1 .fb (by decide)
  have txs : State.txs _ = u.txs := rest.1 .txs (by decide)
  have ufb : u.fb = { s.fb with free := s.fb.free - cellsOf f.len, held := s.fb.held + cellsOf f.len, tx := s.fb.tx + cellsOf f.len } := fbSet_fb ..
  have frame : u.txf id = some g := (txf_setTx ..).trans (if_pos rfl)
  refine ⟨_, run, ?_, ?_, ?_, fun e mem => (fetches_asked id l u e mem).asks⟩
  · rw [fb, ufb]
  · rw [fb, ufb]
  · rw [State.txf, txs]
    exact frame

theorem nodeWake_txs (s : State) (id : Nat) : (s.nodeWake id).txs = s.txs := by
  unfold State.nodeWake
  split
  · rfl
  · extract_lets key others
    split <;> rfl

theorem nodesRefresh_txs (s : State) : s.nodesRefresh.txs = s.txs := by
  have h : Keeps (fun p => p ∈ [Part.nodes]) s s.nodesRefresh := by
    apply +allowSynthFailures keeps_nodesRefresh
    case hk => exact Keeps.refl s
    all_goals exact ⟨by decide⟩
  exact h.1 .txs (by decide)

theorem response_txs {s u : State} {k : ReqKind} {d : Deliv} (h : s.response k = some (d, u)) : u.txs = s.txs := by
  obtain ⟨rest, rfl⟩ := response_eq h
  rfl

theorem response_tm {s u : State} {k : ReqKind} {d : Deliv} (h : s.response k = some (d, u)) : u.tm = s.tm := by
  obtain ⟨rest, rfl⟩ := response_eq h
  rfl

section
variable {s u : State} {d : Deliv} {f : TxFr} (answer : s.response .dataFetch = some (d, u)) (frame : s.txf d.a = some f) (fetching : f.stage = .fetching)
include answer frame fetching

theorem dataFetch_answered : exec .dataFetchResponse s = .next (u.dataAnswer d.a f d) := by
  have here : u.txf d.a = some f := (congrArg (optGet · d.a) (response_txs answer)).trans frame
  show execDataFetchResponse s = _
  unfold execDataFetchResponse
  rw [answer]
  dsimp only
  rw [here]
  dsimp only
  rw [fetching]
  rfl

theorem dataFetch_last (one : f.left = 1) (clean : f.bad = false) (okay : d.resp = .okay) : ∃ t, exec .dataFetchResponse s = .next t ∧
    t.txf d.a = some { f with left := 0, data := f.data ++ [(d.b, d.data)], stage := .ready, readyAt := s.tm.tick } := by
  let g : TxFr := { f with left := 0, bad := false, data := f.data ++ [(d.b, d.data)], stage := .ready, readyAt := u.tm.tick }
  have run : u.dataAnswer d.a f d = ((u.setTx d.a g).nodeWake d.a).nodesRefresh := by
    unfold State.dataAnswer
    rw [one, clean, okay]
    rfl
  refine ⟨_, dataFetch_answered answer frame fetching, ?_⟩
  rw [run, State.txf, nodesRefresh_txs, nodeWake_txs]
  refine ((txf_setTx ..).trans (if_pos rfl)).trans ?_
  unfold g
  rw [← clean, response_tm answer]

theorem dataFetch_more (more : 2 ≤ f.left) : ∃ t, exec .dataFetchResponse s = .next t ∧ t.txf d.a = some
    { f with left := f.left - 1, bad := (f.bad || d.resp != .okay), data := (if d.resp = .okay then f.data ++ [(d.b, d.data)] else f.data) } := by
  refine ⟨_, dataFetch_answered answer frame fetching, ?_⟩
  unfold State.dataAnswer
  dsimp only
  rw [if_pos (by omega)]
  refine ((txf_setTx ..).trans (if_pos rfl)).trans ?_
  cases d.resp <;> rfl

end

/-! ## Completion entries -/

theorem rxCompletion_issued {n : Fin 32768} {id : Nat} {r : List Nat} {f : RxFr} {s : State} (up : s.coreUp = true)
    (order : (s.q (32768 + n.val)).order = id :: r) (frame : s.rxf id = some f) (complete : f.stage = .complete) :
    ∃ t, exec (.rxCompletionWrite n) s = .next t ∧ t.rxf id = some { f with stage := .written } ∧ t.q (32768 + n.val) = (s.q (32768 + n.val)).issued ∧
      t.asks .rxCmpl id (s.q (32768 + n.val)).cpi
        (slotAddr (s.q (32768 + n.val)).cmpl (s.q (32768 + n.val)).log2 (s.q (32768 + n.val)).cpi 32)
        (rxEntry f (phase (s.q (32768 + n.val)).log2 (s.q (32768 + n.val)).cpi)) 0 = true := by
  generalize hk : 32768 + n.val = k at *
  let u := (s.setQ k (s.q k).issued).setRx id { f with stage := .written }
  have run : exec (.rxCompletionWrite n) s = .next (u.hostWrite .rxCmpl id (s.q k).cpi (slotAddr (s.q k).cmpl (s.q k).log2 (s.q k).cpi 32)
      (rxEntry f (phase (s.q k).log2 (s.q k).cpi))) := by
    show execRxCompletionWrite n s = _
    unfold execRxCompletionWrite
    rw [hk]
    dsimp only
    rw [order, List.head?_cons, Option.bind_some, frame, Option.map_some]
    dsimp only
    rw [complete, up]
    rfl
  have queue : u.q k = (s.q k).issued := q_setQ_same ..
  have written : u.rxf id = some { f with stage := .written } := (rxf_setRx ..).trans (if_pos rfl)
  exact ⟨_, run, written, queue, (hostAsked_write u ..).asks⟩

theorem optGet_erase_same {α : Type} (m : SMap α) (k : Nat) : optGet (mapErase k m) k = none := by
  induction m with
  | nil => rfl
  | cons e m ih =>
    unfold mapErase
    by_cases h : e.1 = k
    · rw [if_pos h, ih]
    · rw [if_neg h, optGet, if_neg h, ih]

theorem optGet_erase_none {α : Type} {m : SMap α} {k : Nat} (j : Nat) (h : optGet m k = none) : optGet (mapErase j m) k = none := by
  by_cases e : k = j
  · rw [e, optGet_erase_same]
  · rw [optGet_erase_other m e, h]

theorem txTidyGo_none {id : Nat} : ∀ (l : List Nat) (m : SMap TxFr), optGet m id = none → optGet (txTidyGo m l).2 id = none
  | [], _, h => h
  | x :: l, m, h => by
    unfold txTidyGo
    split
    · split
      · exact txTidyGo_none l _ (optGet_erase_none x h)
      · exact h
    · exact txTidyGo_none l m h

/-- A frame that has left does not come back. -/
theorem txSettle_none {s : State} {id : Nat} (k : Nat) (h : s.txf id = none) : (s.txSettle k).txf id = none := by
  have tidy {t : State} (h : t.txf id = none) : (t.txTidy k).txf id = none := txTidyGo_none _ _ h
  unfold State.txSettle
  extract_lets q
  split
  · exact tidy h
  · split
    · exact h
    · refine tidy ?_
      split
      · next i f e =>
        obtain ⟨j, -, e⟩ := Option.bind_eq_some_iff.1 e
        obtain ⟨g, here, e⟩ := Option.map_eq_some_iff.1 e
        have same : j = i := congrArg Prod.fst e
        have ne : id ≠ i := fun eq => by rw [same, ← eq, h] at here; cases here
        exact (txf_setTx ..).trans ((if_neg ne).trans h)
      · exact h

theorem txCompletion_issued {n : Fin 32768} {id : Nat} {r : List Nat} {f : TxFr} {s : State} (up : s.coreUp = true)
    (order : (s.q n).order = id :: r) (frame : s.txf id = some f) (ended : f.stage = .ended) (need : f.need = true) :
    ∃ t, exec (.txCompletionWrite n) s = .next t ∧ t.txf id = none ∧ (t.q n).cpi = nextIdx (s.q n).log2 (s.q n).cpi ∧
      (t.q n).cmplOut = (s.q n).cmplOut + 1 ∧
      t.asks .txCmpl n (s.q n).cpi (slotAddr (s.q n).cmpl (s.q n).log2 (s.q n).cpi 32) (txEntry f (phase (s.q n).log2 (s.q n).cpi)) 0 = true := by
  let v := (s.setQ n (s.q n).issued).delTx id
  let u := v.txSettle n
  have run : exec (.txCompletionWrite n) s = .next (u.hostWrite .txCmpl n (s.q n).cpi (slotAddr (s.q n).cmpl (s.q n).log2 (s.q n).cpi 32)
      (txEntry f (phase (s.q n).log2 (s.q n).cpi))) := by
    show execTxCompletionWrite n s = _
    unfold execTxCompletionWrite
    dsimp only
    rw [order, List.head?_cons, Option.bind_some, frame, Option.map_some]
    dsimp only
    rw [ended, need, up]
    rfl
  have vq : v.q n = (s.q n).issued := q_setQ_same ..
  have core := (sameQueues_txSettle v n).core n
  rw [vq] at core
  have gone : u.txf id = none := txSettle_none n (optGet_erase_same ..)
  exact ⟨_, run, gone, core_cpi core, core_cmplOut core, (hostAsked_write u ..).asks⟩

/-- What the mark of a page and an announcement may change. -/
def markParts (p : Part) : Prop := p ∈ [Part.ctxs, .fab]

theorem cmplAnnounce_parts (s : State) (k : Nat) : Keeps markParts s (s.cmplAnnounce k) := by
  apply +allowSynthFailures keeps_cmplAnnounce
  case hk => exact Keeps.refl s
  all_goals exact ⟨by simp [markParts]⟩

theorem cmplAnnounce_q (s : State) (k j : Nat) : (s.cmplAnnounce k).q j = s.q j := by
  have qs := (cmplAnnounce_parts s k).1 .qs (by simp [markParts])
  rw [State.q, show State.qs _ = s.qs from qs, State.q]

/-- The queue of a completion answered has one write fewer outstanding. -/
def cmplBack (s : State) (x k addr : Nat) : State := (s.dirtyMark x addr).setQ k { s.q k with cmplOut := (s.q k).cmplOut - 1 }

theorem cmplBack_q (s : State) (x k addr : Nat) : (cmplBack s x k addr).q k = { s.q k with cmplOut := (s.q k).cmplOut - 1 } := q_setQ_same ..

theorem rxCmpl_okay {s : State} {d : Deliv} {f : RxFr} (okay : d.resp = .okay) (frame : s.rxf d.a = some f) :
    (s.rxCmplAnswer d).rxf d.a = none ∧ ((s.rxCmplAnswer d).q f.queue).cmplOut = (s.q f.queue).cmplOut - 1 := by
  let x := (f.verdict.getD {}).ctx
  let u := cmplBack s x f.queue d.addr
  let led := if f.squash then u.ledDrop d.a x false u.tm.now 5 f.len
      else if f.fault || !(d.resp == .okay) then u.ledDrop d.a x false u.tm.now 7 f.len else u.ledDeliver d.a x false u.tm.now f.len
  have run : s.rxCmplAnswer d = (led.delRx d.a).cmplAnnounce f.queue := by
    unfold State.rxCmplAnswer
    rw [frame]
    dsimp only
    rw [if_pos (show (d.resp == .okay) = true by rw [okay]; rfl)]
    rfl
  have counted : Keeps (fun p => p ∈ [Part.free, .led, .regs]) u led := by
    have drop (a : Nat) : Keeps (fun p => p ∈ [Part.free, .led, .regs]) u (u.ledDrop d.a x false u.tm.now a f.len) := by
      apply +allowSynthFailures keeps_ledDrop
      case hk => exact Keeps.refl u
      all_goals exact ⟨by decide⟩
    have deliver : Keeps (fun p => p ∈ [Part.free, .led, .regs]) u (u.ledDeliver d.a x false u.tm.now f.len) := by
      apply +allowSynthFailures keeps_ledDeliver
      case hk => exact Keeps.refl u
      all_goals exact ⟨by decide⟩
    exact keeps_ite (drop 5) (keeps_ite (drop 7) deliver)
  have rxs := (cmplAnnounce_parts (led.delRx d.a) f.queue).1 .rxs (by simp [markParts])
  have qs : led.qs = u.qs := counted.1 .qs (by decide)
  rw [run]
  constructor
  · rw [State.rxf, show State.rxs _ = (led.delRx d.a).rxs from rxs]
    exact optGet_erase_same ..
  · have same : led.q f.queue = u.q f.queue := by rw [State.q, qs, State.q]
    rw [cmplAnnounce_q]
    exact congrArg QSt.cmplOut (same.trans (cmplBack_q ..))

theorem txCmpl_okay {s : State} {d : Deliv} (okay : d.resp = .okay) :
    (s.txCmplAnswer d).q d.a = { s.q d.a with cmplOut := (s.q d.a).cmplOut - 1 } := by
  have run : s.txCmplAnswer d = (cmplBack s (s.q d.a).ctx d.a d.addr).cmplAnnounce d.a := by
    unfold State.txCmplAnswer
    rw [if_pos okay]
    rfl
  rw [run, cmplAnnounce_q, cmplBack_q]

theorem txCmpl_fault {s : State} {d : Deliv} (bad : d.resp ≠ .okay) (runs : (s.q d.a).state = qRUN) :
    ((s.txCmplAnswer d).q d.a).state = qSTOPPING ∧ ((s.txCmplAnswer d).q d.a).faulted = true ∧ (s.txCmplAnswer d).is HR_EVT_CMPL_FAULT = true := by
  let u := cmplBack s (s.q d.a).ctx d.a d.addr
  let w := u.qFault d.a 2 (faultOf d.resp) d.b d.addr
  have run : s.txCmplAnswer d = w.txSettle d.a := by
    unfold State.txCmplAnswer
    rw [if_neg bad]
    rfl
  have running : (u.q d.a).state = qRUN := by
    rw [cmplBack_q]
    exact runs
  obtain ⟨queue, -, event⟩ := qFault_running running 2 (faultOf d.resp) d.b d.addr
  have core := (sameQueues_txSettle w d.a).core d.a
  rw [queue] at core
  rw [run]
  exact ⟨core_state core, core_faulted core, (txSettle_is ..).trans (event rfl)⟩

/-- The kinds of the writes of completion and event rings. -/
def ringAnswer (d : Deliv) : Bool := d.kind == .rxCmpl || d.kind == .txCmpl || d.kind == .event

section
variable {s : State} {d : Deliv} {r : List Deliv} (up : s.coreUp = true) (answer : takeFirst ringAnswer s.fab.done = some (d, r))
include up answer

theorem completion_answered_rx (kind : d.kind = .rxCmpl) :
    exec .completionWriteResponse s = .next (({ s with fab := { s.fab with done := r } } : State).rxCmplAnswer d) := by
  show execCompletionWriteResponse s = _
  unfold execCompletionWriteResponse
  rw [up, show takeFirst (fun (d : Deliv) => d.kind == .rxCmpl || d.kind == .txCmpl || d.kind == .event) s.fab.done = _ from answer]
  dsimp only
  rw [kind]
  rfl

theorem completion_answered_tx (kind : d.kind = .txCmpl) :
    exec .completionWriteResponse s = .next (({ s with fab := { s.fab with done := r } } : State).txCmplAnswer d) := by
  show execCompletionWriteResponse s = _
  unfold execCompletionWriteResponse
  rw [up, show takeFirst (fun (d : Deliv) => d.kind == .rxCmpl || d.kind == .txCmpl || d.kind == .event) s.fab.done = _ from answer]
  dsimp only
  rw [kind]
  rfl

end

/-- Settles O45. -/
theorem fetchesAndCompletions : Obligations.FetchesAndCompletions := by
  unfold Obligations.FetchesAndCompletions
  refine ⟨fun k s runs turn => descriptorRead_issued runs turn, ?okay, ?fault, fun id f s runs pick => dataFetch_issued runs pick,
    fun d u f s answer frame fetching one clean okay => dataFetch_last answer frame fetching one clean okay,
    fun d u f s answer frame fetching more => dataFetch_more answer frame fetching more,
    fun n id r f s up order frame complete => rxCompletion_issued up order frame complete,
    fun n id r f s up order frame ended need => txCompletion_issued up order frame ended need, ?rx, ?tx, ?txFault⟩
  case okay =>
    intro d r s up answer low clean okay
    obtain ⟨fab, next, ci, reading⟩ := descAnswer_okay (s := { s with fab := { s.fab with done := r } }) low clean okay
    exact ⟨_, descriptorRead_answered up answer, congrArg FabSt.done fab, next, ci, reading⟩
  case fault =>
    intro d r s up answer low clean bad runs
    exact ⟨_, descriptorRead_answered up answer, descAnswer_fault (s := { s with fab := { s.fab with done := r } }) low clean bad runs⟩
  case rx =>
    intro d r f s up answer kind okay frame
    exact ⟨_, completion_answered_rx up answer kind, rxCmpl_okay (s := { s with fab := { s.fab with done := r } }) okay frame⟩
  case tx =>
    intro d r s up answer kind okay
    exact ⟨_, completion_answered_tx up answer kind, txCmpl_okay (s := { s with fab := { s.fab with done := r } }) okay⟩
  case txFault =>
    intro d r s up answer kind bad runs
    exact ⟨_, completion_answered_tx up answer kind, txCmpl_fault (s := { s with fab := { s.fab with done := r } }) bad runs⟩

end Sys2Proof.Proofs
end

section
/-! PROOFS. Resets, clamps and the stop of a clock (R20, R47, R63, R409, R423). -/

namespace Sys2Proof.Proofs

open Sys2Proof.Machine Sys2Proof.Laws

set_option Elab.async false

/-! ## What a reset lays over the reset values -/

/-- Entries written over a map. -/
def laid (m l : SMap Nat) : SMap Nat := l.foldl (fun m e => mapSet fieldReset m e.1 e.2) m

theorem mapGet_laid_other {k : Nat} : ∀ (l m : SMap Nat), (∀ e ∈ l, e.1 ≠ k) → mapGet fieldReset (laid m l) k = mapGet fieldReset m k
  | [], _, _ => rfl
  | e :: l, m, h =>
    (mapGet_laid_other l (mapSet fieldReset m e.1 e.2) fun x hx => h x (List.mem_cons_of_mem _ hx)).trans
      ((mapGet_set ..).trans (if_neg (h e List.mem_cons_self).symm))

theorem mapGet_laid_same {k : Nat} (p : Nat → Bool) (here : p (k / 32) = true) : ∀ (l m : SMap Nat), Rising l →
    mapGet fieldReset m k = fieldReset k → mapGet fieldReset (laid m (l.filter (fun e => p (e.1 / 32)))) k = mapGet fieldReset l k
  | [], _, _, free => free
  | e :: l, m, rising, free => by
    obtain ⟨least, rest⟩ := List.pairwise_cons.1 rising
    by_cases he : e.1 = k
    · have absent : ∀ x ∈ l.filter (fun e => p (e.1 / 32)), x.1 ≠ k := fun x hx eq => by
        have := least x.1 (List.mem_map_of_mem (List.mem_filter.1 hx).1)
        omega
      rw [List.filter_cons_of_pos (p := fun (e : Nat × Nat) => p (e.1 / 32)) (by rw [he]; exact here), mapGet, if_pos he]
      exact (mapGet_laid_other _ _ absent).trans ((mapGet_set ..).trans (if_pos he.symm))
    · rw [mapGet, if_neg he]
      by_cases hp : p (e.1 / 32) = true
      · rw [List.filter_cons_of_pos (p := fun (e : Nat × Nat) => p (e.1 / 32)) hp]
        exact mapGet_laid_same p here l _ rest ((mapGet_set ..).trans ((if_neg (Ne.symm he)).trans free))
      · rw [List.filter_cons_of_neg (p := fun (e : Nat × Nat) => p (e.1 / 32)) hp]
        exact mapGet_laid_same p here l m rest free

section
variable {s t : State} {p : Nat → Bool} {f : Fld}

/-- A field that a reset clears. -/
theorem rd_overlay_cleared (gone : p (f.key / 32) = false) : (t.overlay (s.keepFlds p)).rd f = t.rd f :=
  mapGet_laid_other _ _ fun e he eq => by
    have := (List.mem_filter.1 he).2
    rw [eq, gone] at this
    cases this

/-- A field that a reset leaves. -/
theorem rd_overlay_kept (wf : s.Wf) (stays : p (f.key / 32) = true) (free : t.rd f = fieldReset f.key) :
    (t.overlay (s.keepFlds p)).rd f = s.rd f :=
  mapGet_laid_same p stays s.flds t.flds ((mapWf_iff ..).1 wf.1).1 free

end

/-- Beneath what stays a reset leaves the reset values and the fuse lock. -/
theorem bare_eq (s : State) : ∃ v : State, v.flds = State.reset.flds ∧
    s.bare = if s.kw.fuseLock then (v.raise KW_FUSE_CTRL_FUSE_LOCK).raise KW_STAT_FUSED else v := by
  unfold State.bare
  refine ⟨_, ?_, rfl⟩
  rfl

theorem rd_bare {s : State} {f : Fld} (lock : f.key ≠ KW_FUSE_CTRL_FUSE_LOCK.key) (fused : f.key ≠ KW_STAT_FUSED.key) :
    s.bare.rd f = fieldReset f.key := by
  obtain ⟨v, flds, e⟩ := bare_eq s
  have plain : v.rd f = fieldReset f.key := by
    rw [State.rd, flds]
    rfl
  rw [e]
  split
  · have outer := rd_wr_other (v.raise KW_FUSE_CTRL_FUSE_LOCK) 1 fused
    exact outer.trans ((rd_wr_other v 1 lock).trans plain)
  · exact plain

theorem bare_fused (s : State) : s.bare.is KW_STAT_FUSED = true ↔ s.kw.fuseLock = true := by
  obtain ⟨v, flds, e⟩ := bare_eq s
  rw [e]
  split
  · next locked =>
    have fused : ((v.raise KW_FUSE_CTRL_FUSE_LOCK).raise KW_STAT_FUSED).is KW_STAT_FUSED = true := is_raise
    exact ⟨fun _ => locked, fun _ => fused⟩
  · next free =>
    have clear : State.reset.is KW_STAT_FUSED = false := by decide +kernel
    have here : v.is KW_STAT_FUSED = false := by
      rw [State.is, State.rd, flds]
      exact clear
    rw [here]
    exact ⟨fun h => absurd h Bool.false_ne_true, fun h => absurd h free⟩

theorem bare_rest (s : State) : s.bare.kw.fuses = s.kw.fuses ∧ s.bare.kw.fuseLock = s.kw.fuseLock ∧ s.bare.kw.keys = [] ∧ s.bare.fab.reqs = [] ∧
    s.bare.sys = State.reset.sys ∧ s.bare.pw = State.reset.pw := by
  unfold State.bare
  extract_lets kw t u v
  split <;> exact ⟨rfl, rfl, rfl, rfl, rfl, rfl⟩

/-! ## A fall of `AON_RST_N`, and a brown-out -/

theorem aonReset_rest (s : State) : s.aonReset.start = stRESET ∧ s.aonReset.rd PW_STAT_STATE = 0 ∧ s.aonReset.kw.fuses = s.kw.fuses ∧
    s.aonReset.kw.fuseLock = s.kw.fuseLock ∧ s.aonReset.kw.keys = [] ∧ s.aonReset.fab.reqs = [] ∧ s.aonReset.sys.started = 0 := by
  obtain ⟨fuses, lock, keys, reqs, sys, -⟩ := bare_rest s
  have field {f : Fld} (gone : keptOffset (f.key / 32) = false) (lock : f.key ≠ KW_FUSE_CTRL_FUSE_LOCK.key) (fused : f.key ≠ KW_STAT_FUSED.key) :
      s.aonReset.rd f = fieldReset f.key :=
    (rd_overlay_cleared (s := s) (t := s.bare) (p := keptOffset) gone).trans (rd_bare lock fused)
  refine ⟨(field (f := SYS_STATE_STATE) (by decide) (by decide) (by decide)).trans (by decide +kernel),
    (field (by decide) (by decide) (by decide)).trans (by decide +kernel), fuses, lock, keys, reqs, ?_⟩
  show s.bare.sys.started = 0
  rw [sys]
  rfl

theorem aonReset_bor {s : State} (wf : s.Wf) {f : Fld} (off : f.off = 0x1F0024) (low : f.lo < 32) : s.aonReset.rd f = s.rd f := by
  have here : f.key / 32 = 0x1F0024 := by
    unfold Fld.key
    omega
  have ne {g : Fld} (h : g.key / 32 ≠ 0x1F0024) : f.key ≠ g.key := fun e => h (by rw [← e, here])
  exact rd_overlay_kept (s := s) (t := s.bare) (p := keptOffset) wf (by rw [here]; rfl) (rd_bare (ne (by decide)) (ne (by decide)))

/-! ## A fall of `BLK_RST_N` or of `PW_GOOD` -/

theorem failTransit_rest (s : State) (p : Nat → Bool) : (s.failTransit p).kw = s.kw ∧ (s.failTransit p).pw = s.pw ∧ (s.failTransit p).sys = s.sys := by
  have h : Keeps (fun p => p ∈ [Part.latch, .regs, .transit]) s (s.failTransit p) := by
    apply +allowSynthFailures keeps_failTransit
    case hk => exact Keeps.refl s
    all_goals exact ⟨by decide⟩
  exact ⟨h.1 .kw (by decide), h.1 .pw (by decide), h.1 .sys (by decide)⟩

theorem blkReset_rest (s : State) : s.blkReset.start = stRESET ∧ s.blkReset.kw.fuses = s.kw.fuses ∧ s.blkReset.kw.keys = [] ∧
    s.blkReset.fab.reqs = [] ∧ s.blkReset.sys.started = 0 ∧ s.blkReset.sys.aonRstN = s.sys.aonRstN ∧ s.blkReset.pw = s.pw := by
  let u := s.failTransit fun _ => true
  obtain ⟨kw, pw, sys⟩ := failTransit_rest s fun _ => true
  obtain ⟨fuses, -, keys, reqs, reset, -⟩ := bare_rest u
  have state : s.blkReset.start = u.bare.start := rd_overlay_cleared (s := u) (t := u.bare) (p := aonOffset) (f := SYS_STATE_STATE) (by decide)
  have field : u.bare.start = fieldReset SYS_STATE_STATE.key := rd_bare (by decide) (by decide)
  refine ⟨(state.trans field).trans (by decide +kernel), fuses.trans (by rw [kw]), keys, reqs, ?_, ?_, pw⟩
  · show u.bare.sys.started = 0
    rw [reset]
    rfl
  · show u.sys.aonRstN = _
    rw [sys]

/-! ## The clamps -/

theorem down_all_up (f : FabSt) : (f.down fun _ => true).up = 0 := by
  show f.up &&& ~~~(BitVec.ofNat 16 ((List.range 16).foldl (fun n x => n + (if true = true then 2 ^ x else 0)) 0)) = 0
  have all : ~~~(BitVec.ofNat 16 ((List.range 16).foldl (fun n x => n + (if true = true then 2 ^ x else 0)) 0)) = 0#16 := by decide
  rw [all]
  exact BitVec.and_zero

theorem lanesIdle_is (u : State) {i : Nat} (h : i < 36) : (u.each (List.range 36) fun s i => s.raise (LN_LANE_STAT_TX_IDLE i)).is (LN_LANE_STAT_TX_IDLE i) = true := by
  have all (l : List Nat) (v : State) (mem : i ∈ l ∨ v.is (LN_LANE_STAT_TX_IDLE i) = true) :
      (v.each l fun s i => s.raise (LN_LANE_STAT_TX_IDLE i)).is (LN_LANE_STAT_TX_IDLE i) = true := by
    unfold State.each
    induction l generalizing v with
    | nil => exact mem.resolve_left List.not_mem_nil
    | cons j l ih =>
      refine ih (v.raise (LN_LANE_STAT_TX_IDLE j)) ?_
      by_cases e : i = j
      · subst e
        have set : (v.raise (LN_LANE_STAT_TX_IDLE i)).is (LN_LANE_STAT_TX_IDLE i) = true := is_raise
        exact .inr set
      · refine mem.imp (fun h => (List.mem_cons.1 h).resolve_left e) fun h => ?_
        have other : (v.raise (LN_LANE_STAT_TX_IDLE j)).is (LN_LANE_STAT_TX_IDLE i) = v.is (LN_LANE_STAT_TX_IDLE i) := is_wr_ne (by omega)
        exact other.trans h
  exact all _ u (.inl (List.mem_range.2 h))

theorem lanesIdle_rest (u : State) : Keeps (fun p => p ∈ [Part.regs]) u (u.each (List.range 36) fun s i => s.raise (LN_LANE_STAT_TX_IDLE i)) := by
  have facts : Fact ((fun p => p ∈ [Part.regs]) Part.regs) := ⟨by decide⟩
  exact keeps_each (fun t i ht => keeps_wr _ _ ht) (.refl u)

theorem pwIsoRise_clamps (s : State) : ∃ t, exec .pwIsoRise s = .next t ∧ t.sys.pwIso = true ∧ t.fab.up = 0 ∧ t.hub.wakeOut = false ∧
    (∀ i : Fin 36, t.is (LN_LANE_STAT_TX_IDLE i) = true) := by
  let u : State := { s with sys := { s.sys with pwIso := true }, fab := s.fab.down (fun _ => true), hub := { s.hub with wakeOut := false } }
  have rest := lanesIdle_rest u
  have sys := rest.1 .sys (by decide)
  have fab := rest.1 .fab (by decide)
  have hub := rest.1 .hub (by decide)
  refine ⟨u.each (List.range 36) fun s i => s.raise (LN_LANE_STAT_TX_IDLE i), rfl, congrArg SysSt.pwIso sys, ?_, congrArg HubSt.wakeOut hub,
    fun i => lanesIdle_is u i.2⟩
  exact (congrArg FabSt.up fab).trans (down_all_up s.fab)

/-! ## The stop of a clock -/

/-- The run bits of `SYS_ISLAND_CLK`. -/
def runFields : List Fld := [SYS_ISLAND_CLK_SLICE_RUN, SYS_ISLAND_CLK_CORE_RUN, SYS_ISLAND_CLK_FABRIC_RUN, SYS_ISLAND_CLK_TABLE_RUN]

/-- The same islands run. -/
structure SameRun (s t : State) : Prop where
  started : t.sys.started = s.sys.started
  stopped : t.sys.clkStopped = s.sys.clkStopped
  kept : Kept runFields s t

theorem SameRun.refl (s : State) : SameRun s s := ⟨rfl, rfl, kept_refl s⟩

theorem SameRun.of_flds {s t u : State} (h : SameRun s t) (started : u.sys.started = t.sys.started) (stopped : u.sys.clkStopped = t.sys.clkStopped)
    (flds : u.flds = t.flds) : SameRun s u :=
  ⟨started.trans h.started, stopped.trans h.stopped, kept_flds flds h.kept⟩

theorem SameRun.wr {s t : State} (h : SameRun s t) {f : Fld} (mem : f ∈ runFields) (v : Nat) : SameRun s (t.wr f v) :=
  ⟨h.started, h.stopped, kept_wr f v mem h.kept⟩

theorem SameRun.put {s t : State} (h : SameRun s t) {f : Fld} (mem : f ∈ runFields) (b : Bool) : SameRun s (t.put f b) := by
  rw [put_eq]
  exact h.wr mem _

theorem SameRun.islandRuns {s t : State} (h : SameRun s t) (i : Nat) : t.islandRuns i = s.islandRuns i := by
  unfold State.islandRuns
  rw [h.started, h.stopped]
  by_cases big : i ≥ 8
  · simp [big]
  · have bit {f : Fld} (ne : f.key ∉ runFields.map Fld.key) : t.is f = s.is f := is_kept h.kept ne
    have small : i < 8 := by omega
    rw [bit (f := NY_CLK_STOPPED i) (by interval_cases i <;> decide), bit (f := NY_CLK_OFF i) (by interval_cases i <;> decide)]

theorem sameRun_refreshRun (s : State) : SameRun s s.refreshRun := by
  unfold State.refreshRun
  extract_lets was u v sl mg sy w tm x
  have slices : SameRun s u := by
    have all (l : List Nat) (t : State) (h : SameRun s t) : SameRun s (t.each l fun s i =>
        if s.islandRuns i then s.sliceGoesOn i else if bitN was i = 1 then s.sliceStands i else s) := by
      unfold State.each
      induction l generalizing t with
      | nil => exact h
      | cons i l ih =>
        refine ih _ ?_
        dsimp only
        split
        · unfold State.sliceGoesOn
          split
          · exact h
          · exact h.of_flds rfl rfl rfl
        · split
          · exact h.of_flds rfl rfl rfl
          · exact h
    exact all _ s (.refl s)
  have table : SameRun s v := by
    unfold v
    split
    · exact slices.of_flds rfl rfl rfl
    · exact slices
  have timed : SameRun s x := table.of_flds rfl rfl rfl
  exact (((timed.wr (by decide) sl).put (by decide) _).put (by decide) _).put (by decide) _

theorem stopBit_self (b : BitVec 9) (i : Fin 9) : (b ||| (1#9 <<< i.val)).getLsbD i = true := by
  rw [BitVec.getLsbD_or, BitVec.getLsbD_shiftLeft]
  simp

theorem stopBit_other (b : BitVec 9) {i j : Fin 9} (h : j ≠ i) : (b ||| (1#9 <<< i.val)).getLsbD j = b.getLsbD j := by
  have ne : j.val ≠ i.val := fun e => h (Fin.ext e)
  rw [BitVec.getLsbD_or, BitVec.getLsbD_shiftLeft, BitVec.getLsbD_one]
  have clear : (decide (j.val < 9) && !decide (j.val < i.val) && (decide (0 < 9) && decide (j.val - i.val = 0))) = false := by
    simp
    omega
  rw [clear, Bool.or_false]

theorem islandClockStop_stands (i : Fin 9) (s : State) : ∃ t, exec (.islandClockStop i) s = .next t ∧ t.islandRuns i = false ∧
    t.sys.clkStopped.getLsbD i = true ∧ (∀ j : Fin 9, j ≠ i → t.islandRuns j = s.islandRuns j) ∧
    Kept [SYS_ISLAND_CLK_SLICE_RUN, SYS_ISLAND_CLK_CORE_RUN, SYS_ISLAND_CLK_FABRIC_RUN, SYS_ISLAND_CLK_TABLE_RUN] s t := by
  let u : State := { s with sys := { s.sys with clkStopped := s.sys.clkStopped ||| (1#9 <<< i.val) } }
  have same := sameRun_refreshRun u
  refine ⟨u.refreshRun, rfl, ?_, ?_, fun j ne => ?_, same.kept⟩
  · rw [same.islandRuns]
    show (s.sys.started.getLsbD i && !(s.sys.clkStopped ||| (1#9 <<< i.val)).getLsbD i && _) = false
    rw [stopBit_self]
    simp
  · rw [same.stopped]
    exact stopBit_self ..
  · rw [same.islandRuns]
    show (s.sys.started.getLsbD j && !(s.sys.clkStopped ||| (1#9 <<< i.val)).getLsbD j && _) = _
    rw [stopBit_other _ ne]
    rfl

/-- Settles O22. -/
theorem resetsClampsAndClocks : Obligations.ResetsClampsAndClocks := by
  unfold Obligations.ResetsClampsAndClocks
  refine ⟨fun s => ?aon, fun s => ?blk, fun s => ?good, fun s => ?off, fun s => ?brown, pwIsoRise_clamps, islandClockStop_stands⟩
  case aon =>
    obtain ⟨start, state, fuses, lock, keys, reqs, started⟩ := aonReset_rest s
    exact ⟨_, rfl, start, rfl, fuses, lock, keys, reqs, started, state, fun wf f off low => aonReset_bor wf off low⟩
  case blk =>
    obtain ⟨start, fuses, keys, reqs, started, aon, pw⟩ := blkReset_rest s
    exact ⟨_, rfl, start, rfl, aon, fuses, keys, reqs, started, pw⟩
  case good =>
    obtain ⟨start, fuses, keys, reqs, started, -, pw⟩ := blkReset_rest s
    exact ⟨_, rfl, start, rfl, fuses, keys, reqs, started, pw⟩
  case off =>
    obtain ⟨fuses, -, -, -, sys, pw⟩ := bare_rest s
    have start : s.bare.start = fieldReset SYS_STATE_STATE.key := rd_bare (by decide) (by decide)
    exact ⟨_, rfl, start.trans (by decide +kernel), sys, fuses, pw, rfl, fun f lock fused => rd_bare lock fused, bare_fused s⟩
  case brown =>
    obtain ⟨start, -, fuses, -⟩ := aonReset_rest s
    let u : State := { s.aonReset with sys := { s.aonReset.sys with bor := true, aonRstN := s.sys.aonRstN },
                                       hub := { s.aonReset.hub with wakeOut := true } }
    have same : u.start = s.aonReset.start := rfl
    generalize hu : u = v at same
    have run : exec .brownOut s = .next (((v.raise PW_BOR_SEEN).wr PW_BOR_STATE (s.rd PW_STAT_STATE)).bump PW_BOR_COUNT) := hu ▸ rfl
    have state : (((v.raise PW_BOR_SEEN).wr PW_BOR_STATE (s.rd PW_STAT_STATE)).bump PW_BOR_COUNT).start = v.start :=
      (rd_wr_ne (by decide)).trans ((rd_wr_ne (by decide)).trans (rd_wr_ne (by decide)))
    have shown : ((v.raise PW_BOR_SEEN).wr PW_BOR_STATE (s.rd PW_STAT_STATE)).rd PW_BOR_STATE = s.rd PW_STAT_STATE % 2 ^ PW_BOR_STATE.w := rd_wr_same ..
    have stateShown : (((v.raise PW_BOR_SEEN).wr PW_BOR_STATE (s.rd PW_STAT_STATE)).bump PW_BOR_COUNT).rd PW_BOR_STATE =
      ((v.raise PW_BOR_SEEN).wr PW_BOR_STATE (s.rd PW_STAT_STATE)).rd PW_BOR_STATE := rd_wr_ne (by decide)
    have raised : (v.raise PW_BOR_SEEN).is PW_BOR_SEEN = true := is_raise
    have seen : (((v.raise PW_BOR_SEEN).wr PW_BOR_STATE (s.rd PW_STAT_STATE)).bump PW_BOR_COUNT).is PW_BOR_SEEN = (v.raise PW_BOR_SEEN).is PW_BOR_SEEN :=
      (is_wr_ne (by decide)).trans (is_wr_ne (by decide))
    have bor : v.sys.bor = true := hu ▸ rfl
    have locked : v.kw.fuses = s.kw.fuses := hu ▸ fuses
    exact ⟨_, run, state.trans (same.trans start), bor, seen.trans raised, stateShown.trans shown, locked⟩

end Sys2Proof.Proofs
end

section
/-! PROOFS. Entry to a power state and the power acknowledge (R414, R415, R419, R420). -/

namespace Sys2Proof.Proofs

open Sys2Proof.Machine Sys2Proof.Laws

set_option Elab.async false

/-! ## The state in force changes -/

/-- What a change of the state in force shows. -/
def settleFields : List Fld := [PW_STAT_STATE, PW_STAT_PHASE, PW_STAT_A1_ON]

theorem kept_pwSettle (s : State) (st : Nat) : Kept settleFields s (s.pwSettle st) := by
  unfold State.pwSettle State.pwA1
  rw [put_eq]
  exact kept_wr _ _ (by decide) (kept_wr _ _ (by decide) (kept_wr _ _ (by decide) (kept_flds rfl (kept_refl s))))

theorem pwSettle_shows (s : State) {st : Nat} (few : st ≤ 4) : (s.pwSettle st).pwState = st ∧ (s.pwSettle st).rd PW_STAT_PHASE = 0 := by
  let u := ({ s with pw := { s.pw with step := 0 } } : State).keep 0x1F0004
  have last (g : Fld) (ne : g.key ≠ PW_STAT_A1_ON.key) : (s.pwSettle st).rd g = ((u.wr PW_STAT_STATE st).wr PW_STAT_PHASE 0).rd g := by
    unfold State.pwSettle State.pwA1
    rw [put_eq]
    exact rd_wr_other _ _ ne
  have state : ((u.wr PW_STAT_STATE st).wr PW_STAT_PHASE 0).rd PW_STAT_STATE = st % 2 ^ 3 := (rd_wr_ne (by decide)).trans (rd_wr_same ..)
  have phase : ((u.wr PW_STAT_STATE st).wr PW_STAT_PHASE 0).rd PW_STAT_PHASE = 0 := rd_wr_same ..
  exact ⟨(last PW_STAT_STATE (by decide)).trans (state.trans (Nat.mod_eq_of_lt (by omega))), (last PW_STAT_PHASE (by decide)).trans phase⟩

/-- A state is entered, and that is reported. -/
theorem entered_shows (s : State) {st : Nat} (few : st ≤ 4) : let t := (s.pwSettle st).raise PW_EVT_ENTERED
    t.pwState = st ∧ t.rd PW_STAT_PHASE = 0 ∧ t.pw = { s.pw with step := 0 } ∧ t.is PW_EVT_ENTERED = true ∧
      Kept [PW_STAT_STATE, PW_STAT_PHASE, PW_STAT_A1_ON, PW_EVT_ENTERED] s t := by
  intro t
  obtain ⟨state, phase⟩ := pwSettle_shows s few
  have field (g : Fld) (ne : g.key ≠ PW_EVT_ENTERED.key) : t.rd g = (s.pwSettle st).rd g := rd_wr_other _ _ ne
  have event : t.is PW_EVT_ENTERED = true := is_raise
  exact ⟨(field _ (by decide)).trans state, (field _ (by decide)).trans phase, rfl, event,
    kept_wr _ _ (by decide) (kept_mono (by decide) (kept_pwSettle s st))⟩

/-- The fields that an exit's begin writes. -/
def exitFields : List Fld := [NY_MTIME_LO_MTIME, NY_MTIME_HI_MTIME, PW_STAT_PHASE]

theorem kept_pwExit (s : State) : Kept exitFields s s.pwExit := by
  unfold State.pwExit
  extract_lets u
  have timer : Kept exitFields s u := by
    unfold u
    split
    · exact kept_wr64 _ (by decide) (by decide) (kept_refl s)
    · exact kept_refl s
  exact kept_wr _ _ (by decide) (kept_flds rfl timer)

theorem pwExit_shows (s : State) : s.pwExit.pw.step = 12 ∧ s.pwExit.pw.req = 0 ∧ s.pwExit.hub.wakeOut = true ∧ s.pwExit.rd PW_STAT_PHASE = 2 := by
  refine ⟨rfl, rfl, rfl, ?_⟩
  unfold State.pwExit
  exact rd_wr_same ..

/-! ## Entry -/

theorem refreshIdle_pw (s : State) (l : List Nat) : Keeps (fun p => p ∈ [Part.regs]) s (s.each l fun s p => s.refreshIdle p) := by
  refine keeps_each (fun t i ht => ?_) (.refl s)
  apply +allowSynthFailures keeps_refreshIdle
  case hk => exact ht
  all_goals exact ⟨by decide⟩

theorem entryRequests_drained {s : State} (step : s.pw.step = 2) (idle : ∀ r ∈ s.fab.reqs, r.tag = none) :
    ∃ t, exec .entryRequestsDrained s = .next t ∧ t.pw.step = 5 ∧ t.pw.target = s.pw.target ∧ t.pw.coreStopped = true ∧ t.fab.up = 0 := by
  let u : State := { s with fab := s.fab.down (fun _ => true), pw := { s.pw with step := 5, coreStopped := true, upWas := s.fab.up } }
  have run : exec .entryRequestsDrained s = .next (u.holdIdle (u.idledPorts s.pw.target)) := by
    have none : s.fab.reqs.all (fun (r : Req) => r.tag.isNone) = true := List.all_eq_true.2 fun r hr => by rw [idle r hr]; rfl
    show execEntryRequestsDrained s = _
    unfold execEntryRequestsDrained
    rw [if_pos (by rw [none, step]; rfl)]
  let v : State := { u with pw := { u.pw with idle := BitVec.ofNat 4 ((u.idledPorts s.pw.target).foldl (fun n p => n + 2 ^ p) 0) } }
  have rest : Keeps _ v (u.holdIdle (u.idledPorts s.pw.target)) := refreshIdle_pw v (List.range 4)
  have pw := rest.1 .pw (by decide)
  have fab := rest.1 .fab (by decide)
  exact ⟨_, run, (congrArg PwSt.step pw :), (congrArg PwSt.target pw :), (congrArg PwSt.coreStopped pw :), (congrArg FabSt.up fab).trans (down_all_up s.fab)⟩

/-- All islands but one. -/
def sleepMask (keep : Option Nat) : BitVec 9 := BitVec.ofNat 9 ((List.range 9).foldl (fun n i => if some i = keep then n else n + 2 ^ i) 0)

theorem sleepMask_bit {keep : Option Nat} (slice : ∀ i, keep = some i → i < 5) : (sleepMask keep).getLsbD 5 = true ∧ (sleepMask keep).getLsbD 8 = true := by
  cases keep with
  | none => decide
  | some i =>
    have := slice i rfl
    interval_cases i <;> decide

theorem sliceOf_lt {s : State} {p i : Nat} (h : s.sliceOf p = some i) : i < 5 := List.mem_range.1 (List.mem_of_find?_eq_some h)

/-- The core and the management island sleep. -/
theorem sleepClocks_stopped (s : State) (target : Nat) : (s.sleepClocks target).sys.clkStopped.getLsbD 5 = true ∧ (s.sleepClocks target).sys.clkStopped.getLsbD 8 = true := by
  let keep := if target = pwW then s.sliceOf s.watchPort else none
  have slice : ∀ i, keep = some i → i < 5 := by
    intro i h
    unfold keep at h
    split at h
    · exact sliceOf_lt h
    · cases h
  obtain ⟨core, ny⟩ := sleepMask_bit slice
  let u : State := { s with sys := { s.sys with clkStopped := s.sys.clkStopped ||| sleepMask keep } }
  have same : (s.sleepClocks target).sys.clkStopped = s.sys.clkStopped ||| sleepMask keep := (sameRun_refreshRun u).stopped
  rw [same, BitVec.getLsbD_or, BitVec.getLsbD_or, core, ny]
  exact ⟨Bool.or_true _, Bool.or_true _⟩

theorem refreshRun_tm (s : State) : s.refreshRun.tm.now = s.tm.now ∧ s.refreshRun.tm.tick = s.tm.tick ∧ s.refreshRun.tm.latchV = s.tm.latchV := by
  unfold State.refreshRun
  extract_lets was u v sl mg sy w tm x
  have slices : u.tm = s.tm := by
    have all (l : List Nat) (t : State) : (t.each l fun s i =>
        if s.islandRuns i then s.sliceGoesOn i else if bitN was i = 1 then s.sliceStands i else s).tm = t.tm := by
      unfold State.each
      induction l generalizing t with
      | nil => rfl
      | cons i l ih =>
        refine (ih _).trans ?_
        dsimp only
        split
        · unfold State.sliceGoesOn
          split <;> rfl
        · split <;> rfl
    exact all _ s
  have table : v.tm = s.tm := by
    unfold v
    split
    · exact slices
    · exact slices
  have shown : x.tm = { v.tm with follows := v.tm.follows &&& BitVec.ofNat 5 sl } := rfl
  have puts (y : State) (f : Fld) (b : Bool) : (y.put f b).tm = y.tm := rfl
  rw [puts, puts, puts]
  show x.tm.now = _ ∧ x.tm.tick = _ ∧ x.tm.latchV = _
  rw [shown, table]
  exact ⟨rfl, rfl, rfl⟩

/-- What the end of the lanes and the loss of counters may change. -/
def sleepParts (p : Part) : Prop :=
  p ∈ [Part.chs, .fab, .fb, .frs, .gfps, .grps, .lanes, .pairs, .regs, .rxs, .spares, .sys, .txs]

theorem lanesOff_parts (s : State) (ps : List Nat) : Keeps sleepParts s (s.lanesOff ps) := by
  apply +allowSynthFailures keeps_lanesOff
  case hk => exact Keeps.refl s
  all_goals exact ⟨by simp [sleepParts]⟩

theorem counters_lost (s : State) : Keeps (fun p => p ∈ [Part.fab, .regs]) s s.settleBeats.fabricLost := by
  apply +allowSynthFailures keeps_fabricLost
  case hk =>
    apply +allowSynthFailures keeps_settleBeats
    case hk => exact Keeps.refl s
    all_goals exact ⟨by decide⟩
  all_goals exact ⟨by decide⟩

theorem advance_pw (s : State) (k : Nat) : (s.advance k).pw = s.pw := by
  obtain ⟨l, e, -⟩ := advance_eq s k
  rw [e]

/-- The state at the latching edge (E5). -/
def latched (u : State) : State :=
  { u with tm := { u.tm with latchV := some (u.tm.now, u.aon), edgeCyc := none, aonFrom := none, aonTicks := none }, pw := { u.pw with unset := u.is TM_STAT_UNSET } }

/-- The islands sleep (E6). -/
def asleep (v : State) : State := ((v.lanesOff (v.idledPorts v.pw.target)).sleepClocks v.pw.target).settleBeats.fabricLost

theorem asleep_rest (v : State) : (asleep v).pw = v.pw ∧ (asleep v).tm.now = v.tm.now ∧ (asleep v).tm.tick = v.tm.tick ∧
    (asleep v).tm.latchV = v.tm.latchV ∧ (asleep v).sys.clkStopped.getLsbD 5 = true ∧ (asleep v).sys.clkStopped.getLsbD 8 = true := by
  unfold asleep
  have off := lanesOff_parts v (v.idledPorts v.pw.target)
  generalize v.lanesOff (v.idledPorts v.pw.target) = w at off
  have offPw : w.pw = v.pw := off.1 .pw (by simp [sleepParts])
  have offTm : w.tm = v.tm := off.1 .tm (by simp [sleepParts])
  have sleepPw : (w.sleepClocks v.pw.target).pw = w.pw := by
    have h : Keeps (fun p => p ∈ [Part.chs, .regs, .rxs, .sys, .tm]) w (w.sleepClocks v.pw.target) := by
      apply +allowSynthFailures keeps_sleepClocks
      case hk => exact Keeps.refl w
      all_goals exact ⟨by decide⟩
    exact h.1 .pw (by decide)
  obtain ⟨core, ny⟩ := sleepClocks_stopped w v.pw.target
  obtain ⟨now, tick, latch⟩ : (w.sleepClocks v.pw.target).tm.now = w.tm.now ∧ (w.sleepClocks v.pw.target).tm.tick = w.tm.tick ∧
      (w.sleepClocks v.pw.target).tm.latchV = w.tm.latchV := refreshRun_tm _
  generalize w.sleepClocks v.pw.target = x at *
  have lost := counters_lost x
  have lostPw : x.settleBeats.fabricLost.pw = x.pw := lost.1 .pw (by decide)
  have lostTm : x.settleBeats.fabricLost.tm = x.tm := lost.1 .tm (by decide)
  have lostSys : x.settleBeats.fabricLost.sys = x.sys := lost.1 .sys (by decide)
  rw [lostPw, lostTm, lostSys, ← offTm]
  exact ⟨sleepPw.trans offPw, now, tick, latch, core, ny⟩

theorem islandRuns_of_stopped {s : State} {i : Nat} (h : s.sys.clkStopped.getLsbD i = true) : s.islandRuns i = false := by
  unfold State.islandRuns
  rw [h]
  simp

theorem entryTick_latches {s : State} (step : s.pw.step = 5) : ∃ t, exec .entryTickLatch s = .next t ∧ t.pw.step = 7 ∧ t.pw.req = s.pw.target ∧
    t.pw.since = t.tm.tick ∧ t.tm.tick = s.tm.tick + s.toAonEdge ∧ t.sys.pwIso = true ∧ t.sys.pwRet = true ∧ t.islandRuns 5 = false ∧
    t.islandRuns 8 = false ∧ t.tm.latchV.map (·.1) = some t.tm.now := by
  have tick := advance_tick s s.toAonEdge
  have pw := advance_pw s s.toAonEdge
  have run : exec .entryTickLatch s = .next (({ asleep (latched (s.advance s.toAonEdge)) with
      sys := { (asleep (latched (s.advance s.toAonEdge))).sys with pwIso := true, pwRet := true } } : State).pwDrive
        (asleep (latched (s.advance s.toAonEdge))).pw.target 7) := by
    show execEntryTickLatch s = _
    unfold execEntryTickLatch
    rw [if_pos step]
    rfl
  generalize s.advance s.toAonEdge = u at *
  obtain ⟨restPw, now, restTick, latch, core, ny⟩ := asleep_rest (latched u)
  generalize asleep (latched u) = y at *
  have target : y.pw.target = s.pw.target := (congrArg PwSt.target restPw).trans (congrArg PwSt.target pw : u.pw.target = s.pw.target)
  refine ⟨_, run, rfl, target, rfl, restTick.trans tick, rfl, rfl, islandRuns_of_stopped core, islandRuns_of_stopped ny, ?_⟩
  show y.tm.latchV.map (·.1) = some y.tm.now
  rw [latch, now]
  rfl

/-! ## The power acknowledge -/

theorem ackRise_sleep {s : State} (step : s.pw.step = 7) : exec .pwAckRise s = .next (s.pwEntered s.pw.target) := congrArg Host.Outcome.next (if_pos step)

theorem pwEntered_free {s : State} (free : s.pw.held = false) (st : Nat) : s.pwEntered st = (s.pwSettle st).raise PW_EVT_ENTERED := by
  have same : ((s.pwSettle st).raise PW_EVT_ENTERED).pw.held = s.pw.held := rfl
  unfold State.pwEntered
  dsimp only
  rw [same, free, if_neg Bool.false_ne_true]

theorem pwEntered_held {s : State} (held : s.pw.held = true) (st : Nat) : s.pwEntered st = ((s.pwSettle st).raise PW_EVT_ENTERED).pwExit := by
  have same : ((s.pwSettle st).raise PW_EVT_ENTERED).pw.held = s.pw.held := rfl
  unfold State.pwEntered
  dsimp only
  rw [same, held, if_pos rfl]

theorem ackRise_held {s : State} (step : s.pw.step = 7) (held : s.pw.held = true) (few : s.pw.target ≤ 4) :
    ∃ t, exec .pwAckRise s = .next t ∧ t.pwState = s.pw.target ∧ t.rd PW_STAT_PHASE = 2 ∧ t.pw.step = 12 ∧ t.pw.req = 0 ∧
      t.hub.wakeOut = true ∧ t.is PW_EVT_ENTERED = true := by
  have run := ackRise_sleep step
  rw [pwEntered_held held] at run
  obtain ⟨state, -, -, event, -⟩ := entered_shows s few
  generalize (s.pwSettle s.pw.target).raise PW_EVT_ENTERED = u at *
  have kept := kept_pwExit u
  obtain ⟨step', req, wake, phase⟩ := pwExit_shows u
  exact ⟨_, run, (rd_kept kept _ (by decide)).trans state, phase, step', req, wake, (is_kept kept (by decide)).trans event⟩

theorem ackRise_parked {s : State} (step : s.pw.step = 22) : ∃ t, exec .pwAckRise s = .next t ∧ t.pwState = pwP1 ∧ t.rd PW_STAT_PHASE = 0 ∧
    t.pw = { s.pw with step := 0 } ∧ t.is PW_EVT_ENTERED = true := by
  obtain ⟨state, phase, pw, event, -⟩ := entered_shows s (st := pwP1) (by decide)
  refine ⟨_, ?_, state, phase, pw, event⟩
  show execPwAckRise s = _
  unfold execPwAckRise
  rw [if_neg (by omega), if_pos step]

/-- What the islands that run again may change. -/
def unparkParts (p : Part) : Prop :=
  p ∈ [Part.chs, .fab, .fb, .free, .frs, .gfps, .grps, .lanes, .led, .ny, .pairs, .qs, .regs, .rxs, .sp, .spares, .sys, .txs, .tm]

theorem refreshRun_settled (s : State) : Keeps unparkParts s s.refreshRun.islandsSettle := by
  apply +allowSynthFailures keeps_islandsSettle
  case hk =>
    apply +allowSynthFailures keeps_refreshRun
    case hk => exact Keeps.refl s
    all_goals exact ⟨by simp [unparkParts]⟩
  all_goals exact ⟨by simp [unparkParts]⟩

/-- The pause states of a parked channel are cleared. -/
def unpaused (s : State) (c : Nat) : State :=
  let s := ((s.wr (MC_FC_STAT_PAUSED c) 0).wr (MC_FC_STAT_HOLDOFF c) 0).wr (MC_FC_STAT_XOFF_SENT c) 0
  s.setCh c { s.ch c with pauseEnd := [], pauseFrom := [], holdEnd := [] }

theorem unpaused_pw (s : State) (l : List Nat) : (s.each l unpaused).pw = s.pw := by
  unfold State.each
  induction l generalizing s with
  | nil => rfl
  | cons c l ih => exact ih (unpaused s c)

/-- The ports run again (R420). -/
def unparked (s : State) : State :=
  (({ s with sys := { s.sys with clkStopped := s.sys.clkStopped &&& 0x1E0#9 }, pw := { s.pw with target := pwA0 } } : State).refreshRun.islandsSettle.each
    (List.range 32) unpaused).lanesOn

theorem unpark_eq {s : State} (stay : s.pw.park = false) :
    s.unpark = (((unparked s).put PW_STAT_THERM_PARK false).pwSettle pwA0).raise PW_EVT_EXITED := by
  let u : State := { s with sys := { s.sys with clkStopped := s.sys.clkStopped &&& 0x1E0#9 }, pw := { s.pw with target := pwA0 } }
  have park : (u.refreshRun.islandsSettle.each (List.range 32) unpaused).pw.park = false := by
    have settled : u.refreshRun.islandsSettle.pw = u.pw := (refreshRun_settled u).1 .pw (by simp [unparkParts])
    rw [unpaused_pw, settled]
    exact stay
  let w := u.refreshRun.islandsSettle.each (List.range 32) unpaused
  have run : s.unpark = (let t := ((w.lanesOn.put PW_STAT_THERM_PARK w.pw.park).pwSettle pwA0).raise PW_EVT_EXITED
      if w.pw.park = true then ({ t with pw := { t.pw with park := false } } : State).parkStart else t) := rfl
  have here : w.pw.park = false := park
  dsimp only at run
  rw [here, if_neg Bool.false_ne_true] at run
  exact run

theorem ackRise_unparks {s : State} (step : s.pw.step = 31) (stay : s.pw.park = false) : ∃ t, exec .pwAckRise s = .next t ∧ t.pwState = pwA0 ∧
    t.rd PW_STAT_PHASE = 0 ∧ t.pw.step = 0 ∧ t.is PW_EVT_EXITED = true ∧ t.is PW_STAT_THERM_PARK = false := by
  have run : exec .pwAckRise s = .next s.unpark := by
    show execPwAckRise s = _
    unfold execPwAckRise
    rw [if_neg (by omega), if_neg (by omega), if_pos step]
  rw [unpark_eq stay] at run
  generalize unparked s = u at run
  have park : (u.put PW_STAT_THERM_PARK false).is PW_STAT_THERM_PARK = false := is_put
  generalize u.put PW_STAT_THERM_PARK false = v at *
  obtain ⟨state, phase⟩ := pwSettle_shows v (st := pwA0) (by decide)
  have kept := kept_pwSettle v pwA0
  have field (g : Fld) (ne : g.key ≠ PW_EVT_EXITED.key) : ((v.pwSettle pwA0).raise PW_EVT_EXITED).rd g = (v.pwSettle pwA0).rd g := rd_wr_other _ _ ne
  have event : ((v.pwSettle pwA0).raise PW_EVT_EXITED).is PW_EVT_EXITED = true := is_raise
  exact ⟨_, run, (field _ (by decide)).trans state, (field _ (by decide)).trans phase, rfl, event,
    (congrArg (· == 1) (field PW_STAT_THERM_PARK (by decide))).trans ((is_kept kept (by decide)).trans park)⟩

theorem ack_timesOut {s : State} (waits : s.pw.step = 7 ∨ s.pw.step = 22) : ∃ t, exec .pwAckTimeout s = .next t ∧ t.is PW_EVT_ACK_TMO = true ∧
    t.rd PW_STAT_PHASE = 2 ∧ t.pw.step = (if s.pw.step = 7 then 13 else 31) ∧ t.pw.req = 0 ∧ t.rd PW_CNT_ACK_TMO = upBy s PW_CNT_ACK_TMO 1 ∧
    t.tm.tick = max s.tm.tick (s.pw.since + usTicks (s.rd PW_ACK_US_ACK_US)) ∧ t.pw.since = t.tm.tick := by
  obtain ⟨l, tm, adv, tick, kept⟩ := advanceTo_eq s (s.pw.since + usTicks (s.rd PW_ACK_US_ACK_US))
  have run : exec .pwAckTimeout s = .next (
      let u := s.advanceTo (s.pw.since + usTicks (s.rd PW_ACK_US_ACK_US))
      ((((u.bump PW_CNT_ACK_TMO).raise PW_EVT_ACK_TMO).pwDrive 0 (if u.pw.step = 7 then 13 else 31)).wr PW_STAT_PHASE 2)) := congrArg Host.Outcome.next (if_pos waits)
  generalize s.advanceTo (s.pw.since + usTicks (s.rd PW_ACK_US_ACK_US)) = u at *
  have pw : u.pw = s.pw := by rw [adv]
  have late : u.tm.tick = max s.tm.tick (s.pw.since + usTicks (s.rd PW_ACK_US_ACK_US)) := by rw [adv]; exact tick
  have count : u.rd PW_CNT_ACK_TMO = s.rd PW_CNT_ACK_TMO := rd_kept kept _ (by decide)
  have bumped : (u.bump PW_CNT_ACK_TMO).rd PW_CNT_ACK_TMO = upBy u PW_CNT_ACK_TMO 1 := rd_bump_same ..
  have event : ((u.bump PW_CNT_ACK_TMO).raise PW_EVT_ACK_TMO).is PW_EVT_ACK_TMO = true := is_raise
  have counted : ((u.bump PW_CNT_ACK_TMO).raise PW_EVT_ACK_TMO).rd PW_CNT_ACK_TMO = (u.bump PW_CNT_ACK_TMO).rd PW_CNT_ACK_TMO := rd_wr_ne (by decide)
  have steps : ((u.bump PW_CNT_ACK_TMO).raise PW_EVT_ACK_TMO).tm = u.tm := rfl
  dsimp only at run
  rw [pw] at run
  generalize (u.bump PW_CNT_ACK_TMO).raise PW_EVT_ACK_TMO = v at *
  generalize (if s.pw.step = 7 then 13 else 31) = next at *
  have driven : (v.pwDrive 0 next).flds = v.flds := rfl
  have field (g : Fld) (ne : g.key ≠ PW_STAT_PHASE.key) : ((v.pwDrive 0 next).wr PW_STAT_PHASE 2).rd g = v.rd g := rd_wr_other (v.pwDrive 0 next) 2 ne
  have phase : ((v.pwDrive 0 next).wr PW_STAT_PHASE 2).rd PW_STAT_PHASE = 2 := rd_wr_same ..
  refine ⟨_, run, (congrArg (· == 1) (field PW_EVT_ACK_TMO (by decide))).trans event, phase, rfl, rfl,
    (field PW_CNT_ACK_TMO (by decide)).trans (counted.trans (bumped.trans ?_)), ?_, rfl⟩
  · rw [upBy, count, upBy]
  · show v.tm.tick = _
    rw [steps]
    exact late

/-- Settles O25. -/
theorem powerEntry : Obligations.PowerEntry := by
  unfold Obligations.PowerEntry
  refine ⟨fun s step idle => entryRequests_drained step idle, fun s step => entryTick_latches step, ?_,
    fun s step held few => ackRise_held step held few, fun s step => ackRise_parked step, fun s step stay => ackRise_unparks step stay,
    fun s waits => ack_timesOut waits⟩
  intro s step free few
  have run := ackRise_sleep step
  rw [pwEntered_free free] at run
  exact ⟨_, run, entered_shows s few⟩

end Sys2Proof.Proofs
end

section
/-! PROOFS. Halts, leases and wants that end, and the cycle walk (R281, R289, R294 to R296). -/

namespace Sys2Proof.Proofs

open Sys2Proof.Machine Sys2Proof.Laws

set_option Elab.async false

/-! ## Leases and wants follow their masters -/

theorem follow_since (s : State) (m : Nat) (x : Timer) : s.halted m = true ↔ (s.follow m x).since = none := by
  unfold State.follow
  cases h : s.halted m
  · rw [if_neg Bool.false_ne_true]
    unfold Timer.run
    split
    · next some => simp [Option.isSome_iff_ne_none.1 some]
    · simp
  · simp [Timer.pause]

theorem refreshHalts_wants {s : State} {e : Nat × WantSt} (mem : e ∈ s.refreshHalts.cc.wants) : s.halted e.1 = true ↔ e.2.age.since = none := by
  obtain ⟨w, -, rfl⟩ := List.mem_map.1 mem
  exact follow_since ..

theorem refreshHalts_chans {s : State} {e : Nat × ChanSt} (mem : e ∈ s.refreshHalts.cc.chans) (leased : e.2.state = 1 ∨ e.2.state = 3) :
    s.halted e.2.owner = true ↔ e.2.lease.since = none := by
  obtain ⟨c, -, rfl⟩ := List.mem_map.1 mem
  by_cases held : c.2.state = 1 ∨ c.2.state = 3
  · rw [if_pos held]
    exact follow_since ..
  · rw [if_neg held] at leased
    exact absurd leased held

/-- The inputs after one of them has changed. -/
def haltSet (b : BitVec 64) (i : Fin 64) (high : Bool) : BitVec 64 := if high then b ||| (1#64 <<< i.val) else b &&& ~~~(1#64 <<< i.val)

theorem shifted_bit (i k : Fin 64) : (1#64 <<< i.val).getLsbD k = decide (k = i) := by
  rw [BitVec.getLsbD_shiftLeft, BitVec.getLsbD_one]
  by_cases h : k = i
  · subst h
    simp
  · have ne : k.val ≠ i.val := fun e => h (Fin.ext e)
    simp [h]
    omega

theorem haltSet_bit (b : BitVec 64) (i : Fin 64) (high : Bool) (k : Fin 64) : (haltSet b i high).getLsbD k = if k = i then high else b.getLsbD k := by
  unfold haltSet
  cases high
  · rw [if_neg Bool.false_ne_true, BitVec.getLsbD_and, BitVec.getLsbD_not, shifted_bit]
    by_cases h : k = i <;> simp [h]
  · rw [if_pos rfl, BitVec.getLsbD_or, shifted_bit]
    by_cases h : k = i <;> simp [h]

theorem haltInput_changes (i : Fin 64) (high : Bool) (s : State) : ∃ t, exec (.haltInputChange i high) s = .next t ∧ t.cc.halt.getLsbD i = high ∧
    (∀ k : Fin 64, k ≠ i → t.cc.halt.getLsbD k = s.cc.halt.getLsbD k) ∧ t.cc.locks = s.cc.locks ∧ t.flds = s.flds ∧
    (∀ e ∈ t.cc.chans, e.2.state = 1 ∨ e.2.state = 3 → (t.halted e.2.owner = true ↔ e.2.lease.since = none)) ∧
    (∀ e ∈ t.cc.wants, (t.halted e.1 = true ↔ e.2.age.since = none)) := by
  let u : State := { s with cc := { s.cc with halt := haltSet s.cc.halt i high } }
  have same (m : Nat) : u.refreshHalts.halted m = u.halted m := rfl
  refine ⟨u.refreshHalts, rfl, (haltSet_bit ..).trans (if_pos rfl), fun k ne => (haltSet_bit ..).trans (if_neg ne), rfl, rfl, fun e mem leased => ?_,
    fun e mem => ?_⟩
  · rw [same]
    exact refreshHalts_chans mem leased
  · rw [same]
    exact refreshHalts_wants mem

theorem coreDebug_halts {stopped : Bool} {s : State} (granted : s.is KW_HASP_GNT = true) : ∃ t, exec (.coreDebugHalt stopped) s = .next t ∧
    t.is NY_STAT_HALTED = stopped ∧ t.halted 256 = stopped ∧ (stopped = true → t.ny.wdt.since = none) ∧ Kept [NY_STAT_HALTED] s t ∧
    (∀ e ∈ t.cc.wants, (t.halted e.1 = true ↔ e.2.age.since = none)) := by
  let wdt := if stopped then s.ny.wdt.pause s.mgNow else if s.is NY_CTRL_WDT_EN then s.ny.wdt.run s.mgNow else s.ny.wdt
  let v : State := { s with ny := { s.ny with wdt := wdt } }
  let u := v.put NY_STAT_HALTED stopped
  have run : exec (.coreDebugHalt stopped) s = .next u.refreshHalts := congrArg Host.Outcome.next (if_pos granted)
  have halted : u.is NY_STAT_HALTED = stopped := is_put
  have kept : Kept [NY_STAT_HALTED] v u := by
    unfold u
    rw [put_eq]
    exact kept_wr _ _ (by decide) (kept_refl v)
  have same (m : Nat) : u.refreshHalts.halted m = u.halted m := rfl
  refine ⟨_, run, halted, halted, fun h => ?_, kept, fun e mem => ?_⟩
  · show wdt.since = none
    unfold wdt
    rw [if_pos h]
    rfl
  · rw [same]
    exact refreshHalts_wants mem

/-! ## Leases and wants end -/

theorem advanceMg_eq (s : State) (k : Nat) :
    ∃ l tm, s.advanceMg k = { s with flds := l, tm := tm } ∧ tm.tick = s.tm.tick + (k - s.mgNow) ∧ Kept clockFields s (s.advanceMg k) := by
  obtain ⟨l, tm, e, tick, kept⟩ := advanceTo_eq s (s.tm.tick + (k - s.mgNow))
  exact ⟨l, tm, e, by omega, kept⟩

theorem lease_expires {n : Fin 256} {s : State} (leased : (s.chan n).state = 1 ∨ (s.chan n).state = 3) (runs : (s.chan n).lease.since.isSome = true)
    (up : s.islandUp 8 = true) : ∃ t, exec (.leaseExpiry n) s = .next t ∧ t.chan n = { token := (s.chan n).token } ∧
      (∀ i : Fin 16, t.rd (CC_W_WORD n i) = 0) ∧ t.rd CC_EXP_CNT_EXP = upBy s CC_EXP_CNT_EXP 1 ∧ t.is CC_EVT_LEASE_EXP = true ∧
      t.tm.tick = s.tm.tick + ((s.chan n).lease.ends (usTicks (s.chan n).limit) - s.mgNow) := by
  obtain ⟨l, tm, adv, tick, kept⟩ := advanceMg_eq s ((s.chan n).lease.ends (usTicks (s.chan n).limit))
  have run : exec (.leaseExpiry n) s =
      .next ((((s.advanceMg ((s.chan n).lease.ends (usTicks (s.chan n).limit))).freeChan n).bump CC_EXP_CNT_EXP).raise CC_EVT_LEASE_EXP) :=
    congrArg Host.Outcome.next (if_pos ⟨leased, runs, up⟩)
  generalize s.advanceMg ((s.chan n).lease.ends (usTicks (s.chan n).limit)) = u at *
  have chan : u.chan n = s.chan n := by rw [adv]; rfl
  have late : u.tm = tm := by rw [adv]
  have freed : (u.freeChan n).chan n = { token := (s.chan n).token } := by rw [chan_freeChan, if_pos rfl, chan]
  have words (i : Fin 16) : (u.freeChan n).rd (CC_W_WORD n i) = 0 := (rd_freeChan ..).trans (rd_zeroWords ..)
  have count : (u.freeChan n).rd CC_EXP_CNT_EXP = s.rd CC_EXP_CNT_EXP := by
    refine (rd_kept (kept_freeChan u n) _ ?_).trans (rd_kept kept _ (by decide))
    simp only [List.mem_map, List.map_map, not_exists, not_and, Function.comp_apply, List.mem_range, Fld.key, CC_W_WORD, CC_EXP_CNT_EXP]
    omega
  have time : (u.freeChan n).tm = u.tm := by
    obtain ⟨l, h⟩ := zeroWords_eq u n
    rw [State.freeChan, h]
    rfl
  generalize u.freeChan n = v at *
  have bumped : (v.bump CC_EXP_CNT_EXP).rd CC_EXP_CNT_EXP = upBy v CC_EXP_CNT_EXP 1 := rd_bump_same ..
  have counted : ((v.bump CC_EXP_CNT_EXP).raise CC_EVT_LEASE_EXP).rd CC_EXP_CNT_EXP = (v.bump CC_EXP_CNT_EXP).rd CC_EXP_CNT_EXP := rd_wr_ne (by decide)
  have event : ((v.bump CC_EXP_CNT_EXP).raise CC_EVT_LEASE_EXP).is CC_EVT_LEASE_EXP = true := is_raise
  have word (i : Fin 16) : ((v.bump CC_EXP_CNT_EXP).raise CC_EVT_LEASE_EXP).rd (CC_W_WORD n i) = v.rd (CC_W_WORD n i) :=
    (rd_wr_ne (s := v.bump CC_EXP_CNT_EXP) (by omega)).trans (rd_wr_ne (s := v) (by omega))
  refine ⟨_, run, freed, fun i => (word i).trans (words i), counted.trans (bumped.trans (by rw [upBy, count, upBy])), event, ?_⟩
  show v.tm.tick = _
  rw [time, late, tick]

theorem want_expires {m : Fin 257} {x : WantSt} {s : State} (wants : optGet s.cc.wants m.val = some x) (runs : x.age.since.isSome = true)
    (up : s.islandUp 8 = true) : ∃ t, exec (.wantExpiry m) s = .next t ∧ t.cc = { s.cc with wants := mapErase m.val s.cc.wants } ∧
      t.tm.tick = s.tm.tick + (x.age.ends (usTicks (s.rd TB_CTRL_WANT_US)) - s.mgNow) := by
  obtain ⟨l, tm, adv, tick, -⟩ := advanceMg_eq s (x.age.ends (usTicks (s.rd TB_CTRL_WANT_US)))
  have run : exec (.wantExpiry m) s = .next ((s.advanceMg (x.age.ends (usTicks (s.rd TB_CTRL_WANT_US)))).endWant m) := by
    show execWantExpiry m s = _
    unfold execWantExpiry
    rw [wants]
    dsimp only
    rw [runs, up]
    rfl
  rw [adv] at run
  exact ⟨_, run, rfl, tick⟩

/-! ## The cycle walk -/

theorem walk_congr {s t : State} (wants : t.cc.wants = s.cc.wants) (locks : t.cc.locks = s.cc.locks) (start : Nat) :
    ∀ (n m : Nat) (acc : List Nat), t.walk start n m acc = s.walk start n m acc
  | 0, _, _ => rfl
  | n + 1, m, acc => by
    have edge : t.waitsFor m = s.waitsFor m := by
      unfold State.waitsFor State.lock
      rw [wants, locks]
    unfold State.walk
    rw [edge]
    cases s.waitsFor m with
    | none => rfl
    | some h =>
      dsimp only
      split
      · rfl
      · exact walk_congr wants locks start n h (m :: acc)

/-- A walk that comes back began at a want. -/
theorem walk_wants {s : State} {start n m : Nat} {acc l : List Nat} (h : s.walk start (n + 1) m acc = some l) : ∃ w, optGet s.cc.wants m = some w := by
  unfold State.walk State.waitsFor at h
  cases hw : optGet s.cc.wants m with
  | some w => exact ⟨w, rfl⟩
  | none =>
    rw [hw] at h
    cases h

/-- The mask of 32 masters. -/
def maskWord (f : Nat → Bool) (n : Nat) : Nat := (List.range n).foldl (fun a i => a + 2 ^ i * b2n (f i)) 0

theorem maskWord_succ (f : Nat → Bool) (n : Nat) : maskWord f (n + 1) = maskWord f n + 2 ^ n * b2n (f n) := by
  unfold maskWord
  rw [List.range_succ, List.foldl_append]
  rfl

theorem b2n_le (b : Bool) : b2n b ≤ 1 := by cases b <;> decide

theorem maskWord_lt (f : Nat → Bool) : ∀ n, maskWord f n < 2 ^ n
  | 0 => Nat.one_pos
  | n + 1 => by
    have ih := maskWord_lt f n
    have := Nat.mul_le_mul_left (2 ^ n) (b2n_le (f n))
    rw [maskWord_succ, Nat.pow_succ]
    omega

theorem maskWord_bit (f : Nat → Bool) {i : Nat} : ∀ n, i < n → (maskWord f n).testBit i = f i
  | 0, h => absurd h (Nat.not_lt_zero i)
  | n + 1, h => by
    rw [maskWord_succ, Nat.add_comm, Nat.two_pow_add_eq_or_of_lt (maskWord_lt f n), Nat.testBit_or, Nat.testBit_two_pow_mul]
    by_cases e : i = n
    · subst e
      rw [Nat.testBit_lt_two_pow (maskWord_lt f i)]
      cases f i <;> simp [b2n]
    · rw [maskWord_bit f n (by omega)]
      simp only [show ¬ n ≤ i by omega, decide_false, Bool.false_and, Bool.false_or]

/-- The members as the mask registers show them. -/
def maskShown (s : State) (members : List Nat) : State :=
  s.each (List.range 9) (fun s w => s.wr (TB_CYC_MASK_MASK w) (maskWord (fun i => members.contains (32 * w + i)) 32))

theorem kept_maskShown (s : State) (members : List Nat) : Kept ((List.range 9).map TB_CYC_MASK_MASK) s (maskShown s members) := by
  have all (l : List Nat) (sub : l ⊆ List.range 9) (u : State) (h : Kept ((List.range 9).map TB_CYC_MASK_MASK) s u) :
      Kept ((List.range 9).map TB_CYC_MASK_MASK) s
        (u.each l fun s w => s.wr (TB_CYC_MASK_MASK w) (maskWord (fun i => members.contains (32 * w + i)) 32)) := by
    unfold State.each
    induction l generalizing u with
    | nil => exact h
    | cons w l ih =>
      obtain ⟨here, rest⟩ := List.cons_subset.1 sub
      exact ih rest _ (kept_wr _ _ (List.mem_map_of_mem here) h)
  exact all _ (List.Subset.refl _) s (kept_refl s)

theorem maskShown_rd (s : State) (members : List Nat) {w : Nat} (h : w < 9) :
    (maskShown s members).rd (TB_CYC_MASK_MASK w) = maskWord (fun i => members.contains (32 * w + i)) 32 := by
  have all (l : List Nat) (u : State) (mem : w ∈ l ∨ u.rd (TB_CYC_MASK_MASK w) = maskWord (fun i => members.contains (32 * w + i)) 32) :
      (u.each l fun s w => s.wr (TB_CYC_MASK_MASK w) (maskWord (fun i => members.contains (32 * w + i)) 32)).rd (TB_CYC_MASK_MASK w) =
        maskWord (fun i => members.contains (32 * w + i)) 32 := by
    unfold State.each
    induction l generalizing u with
    | nil => exact mem.resolve_left List.not_mem_nil
    | cons j l ih =>
      refine ih _ ?_
      by_cases e : w = j
      · subst e
        have same : (u.wr (TB_CYC_MASK_MASK w) (maskWord (fun i => members.contains (32 * w + i)) 32)).rd (TB_CYC_MASK_MASK w) =
          maskWord (fun i => members.contains (32 * w + i)) 32 % 2 ^ 32 := rd_wr_same ..
        exact .inr (same.trans (Nat.mod_eq_of_lt (maskWord_lt ..)))
      · refine mem.imp (fun h => (List.mem_cons.1 h).resolve_left e) fun h => ?_
        have other : (u.wr (TB_CYC_MASK_MASK j) (maskWord (fun i => members.contains (32 * j + i)) 32)).rd (TB_CYC_MASK_MASK w) = u.rd (TB_CYC_MASK_MASK w) :=
          rd_wr_ne (by omega)
        exact other.trans h
  exact all _ s (.inl (List.mem_range.2 h))

/-- A cycle described. -/
def cycleShown (s : State) (m : Nat) (members : List Nat) (lock : Nat) : State :=
  (maskShown (((s.wr TB_CYC_START m).wr TB_CYC_LEN members.length).wr TB_CYC_LOCK lock) members).raise TB_EVT_CYCLE

theorem reportCycle_eq {s : State} {m : Nat} {members : List Nat} {w : WantSt} (want : optGet s.cc.wants m = some w) :
    s.reportCycle m members =
      if s.is TB_EVT_CYCLE then s.bump TB_CYC_CNT_CYC else cycleShown (s.bump TB_CYC_CNT_CYC) m members w.lock := by
  have event : (s.bump TB_CYC_CNT_CYC).is TB_EVT_CYCLE = s.is TB_EVT_CYCLE := is_wr_ne (by decide)
  unfold State.reportCycle
  rw [want]
  dsimp only
  rw [event]
  rfl

/-- A described cycle shows in registers alone. -/
theorem cycleShown_rest (s : State) (m : Nat) (members : List Nat) (lock : Nat) : (cycleShown s m members lock).cc = s.cc := by
  have shown (u : State) : (maskShown u members).cc = u.cc := by
    have h : Keeps (fun p => p ∈ [Part.regs]) u (maskShown u members) := by
      have facts : Fact ((fun p => p ∈ [Part.regs]) Part.regs) := ⟨by decide⟩
      exact keeps_each (fun t i ht => keeps_wr _ _ ht) (.refl u)
    exact h.1 .cc (by decide)
  unfold cycleShown
  rw [raise_cc, shown, wr_cc, wr_cc, wr_cc]

theorem cycleShown_rd (s : State) (m : Nat) (members : List Nat) (lock : Nat) {g : Fld} (ne : g.key ∉ ((List.range 9).map TB_CYC_MASK_MASK).map Fld.key)
    (other : g.key ≠ TB_EVT_CYCLE.key) :
    (cycleShown s m members lock).rd g = (((s.wr TB_CYC_START m).wr TB_CYC_LEN members.length).wr TB_CYC_LOCK lock).rd g :=
  (rd_wr_other (maskShown _ members) 1 other).trans (rd_kept (kept_maskShown _ members) g ne)

theorem cycleShown_describes (s : State) (m : Nat) (members : List Nat) (lock : Nat) : let t := cycleShown s m members lock
    t.rd TB_CYC_CNT_CYC = s.rd TB_CYC_CNT_CYC ∧ t.is TB_EVT_CYCLE = true ∧ t.rd TB_CYC_START = m % 2 ^ 9 ∧ t.rd TB_CYC_LEN = members.length % 2 ^ 10 ∧
      t.rd TB_CYC_LOCK = lock % 2 ^ TB_CYC_LOCK.w ∧
      (∀ w : Fin 9, ∀ i : Fin 32, (t.bit (TB_CYC_MASK_MASK w) i = true ↔ members.contains (32 * w.val + i.val) = true)) := by
  intro t
  let u := ((s.wr TB_CYC_START m).wr TB_CYC_LEN members.length).wr TB_CYC_LOCK lock
  have count : u.rd TB_CYC_CNT_CYC = s.rd TB_CYC_CNT_CYC := (rd_wr_ne (by decide)).trans ((rd_wr_ne (by decide)).trans (rd_wr_ne (by decide)))
  have start : u.rd TB_CYC_START = m % 2 ^ 9 := (rd_wr_ne (by decide)).trans ((rd_wr_ne (by decide)).trans (rd_wr_same ..))
  have len : u.rd TB_CYC_LEN = members.length % 2 ^ 10 := (rd_wr_ne (by decide)).trans (rd_wr_same ..)
  have lock' : u.rd TB_CYC_LOCK = lock % 2 ^ TB_CYC_LOCK.w := rd_wr_same ..
  refine ⟨(cycleShown_rd s m members lock (by decide) (by decide)).trans count, is_raise,
    (cycleShown_rd s m members lock (by decide) (by decide)).trans start, (cycleShown_rd s m members lock (by decide) (by decide)).trans len,
    (cycleShown_rd s m members lock (by decide) (by decide)).trans lock', fun w i => ?_⟩
  have mask : t.rd (TB_CYC_MASK_MASK w) = maskWord (fun i => members.contains (32 * w.val + i)) 32 :=
    (rd_wr_ne (s := maskShown u members) (by omega)).trans (maskShown_rd u members w.isLt)
  rw [State.bit, mask, maskWord_bit _ 32 i.isLt]

/-- The walk-pending master taken. -/
def walkTaken (s : State) (m : Nat) : State := { s with cc := { s.cc with walks := s.cc.walks.filter (· != m), last := m } }

section
variable {s : State} {m : Nat} (next : s.nextWalk = some m) (up : s.islandUp 8 = true)
include next up

theorem cycleWalk_none (open_ : s.walk m 257 m [] = none) : exec .cycleWalk s = .next (walkTaken s m) := by
  have walk := walk_congr (s := s) (t := { s with cc := { s.cc with walks := s.cc.walks.filter (· != m), last := m } }) rfl rfl m 257 m []
  rw [open_] at walk
  show execCycleWalk s = _
  unfold execCycleWalk
  rw [up, if_pos rfl, next]
  dsimp only at walk ⊢
  rw [walk]
  rfl

theorem cycleWalk_some {l : List Nat} (cycle : s.walk m 257 m [] = some l) : exec .cycleWalk s = .next ((walkTaken s m).reportCycle m l) := by
  have walk := walk_congr (s := s) (t := { s with cc := { s.cc with walks := s.cc.walks.filter (· != m), last := m } }) rfl rfl m 257 m []
  rw [cycle] at walk
  show execCycleWalk s = _
  unfold execCycleWalk
  rw [up, if_pos rfl, next]
  dsimp only at walk ⊢
  rw [walk]
  rfl

end

/-- Settles O10. -/
theorem haltsAndCycleWalks : Obligations.HaltsAndCycleWalks := by
  unfold Obligations.HaltsAndCycleWalks
  refine ⟨haltInput_changes, fun stopped s granted => coreDebug_halts granted, fun n s leased runs up => lease_expires leased runs up,
    fun m x s wants runs up => want_expires wants runs up, ?idle, ?walk, ?closed⟩
  case idle =>
    intro s none
    have no : (if s.islandUp 8 = true then s.nextWalk else Option.none) = Option.none := by
      rcases none with h | h
      · rw [h, ite_self]
      · rw [h, if_neg Bool.false_ne_true]
    show execCycleWalk s = _
    unfold execCycleWalk
    rw [no]
  case closed =>
    intro stopped s closed
    exact congrArg Host.Outcome.next (if_neg (by rw [closed]; exact Bool.false_ne_true))
  case walk =>
    intro s m next up
    cases cycle : s.walk m 257 m [] with
    | none => exact ⟨_, cycleWalk_none next up cycle, rfl, rfl, rfl, rfl, rfl, rfl⟩
    | some l =>
      obtain ⟨w, want⟩ := walk_wants cycle
      have run := cycleWalk_some next up cycle
      have flds : (walkTaken s m).flds = s.flds := rfl
      have rest : (walkTaken s m).cc = { s.cc with walks := s.cc.walks.filter (· != m), last := m } := rfl
      rw [reportCycle_eq (show optGet (walkTaken s m).cc.wants m = some w from want)] at run
      generalize walkTaken s m = u at *
      have event : u.is TB_EVT_CYCLE = s.is TB_EVT_CYCLE := by rw [State.is, State.rd, flds]; rfl
      have up' : upBy u TB_CYC_CNT_CYC 1 = upBy s TB_CYC_CNT_CYC 1 := by rw [upBy, State.rd, flds]; rfl
      have counted : (u.bump TB_CYC_CNT_CYC).rd TB_CYC_CNT_CYC = upBy s TB_CYC_CNT_CYC 1 := (rd_bump_same ..).trans up'
      have kept : Kept [TB_CYC_CNT_CYC] s (u.bump TB_CYC_CNT_CYC) := kept_wr _ _ (by decide) (kept_flds flds (kept_refl s))
      have bank : (u.bump TB_CYC_CNT_CYC).cc = u.cc := bump_cc ..
      have shown : (u.bump TB_CYC_CNT_CYC).is TB_EVT_CYCLE = u.is TB_EVT_CYCLE := is_wr_ne (by decide)
      generalize u.bump TB_CYC_CNT_CYC = v at *
      cases first : s.is TB_EVT_CYCLE
      · rw [event, first, if_neg Bool.false_ne_true] at run
        obtain ⟨count, raised, start, len, lock, mask⟩ := cycleShown_describes v m l w.lock
        have cc := cycleShown_rest v m l w.lock
        generalize cycleShown v m l w.lock = t at *
        rw [bank, rest] at cc
        refine ⟨t, run, by rw [cc], by rw [cc], by rw [cc], by rw [cc], by rw [cc], count.trans counted, raised, fun h => absurd h Bool.false_ne_true,
          fun _ => ⟨start, len, ?_, mask⟩⟩
        rw [want, Option.map_some, lock]
      · rw [event, first, if_pos rfl] at run
        rw [rest] at bank
        exact ⟨v, run, by rw [bank], by rw [bank], by rw [bank], by rw [bank], by rw [bank], counted, shown.trans (event.trans first), fun _ => kept,
          fun h => absurd h.symm Bool.false_ne_true⟩

end Sys2Proof.Proofs
end

section
/-! PROOFS. Guard windows and gate lists (R215, R216, R219 to R221). -/

namespace Sys2Proof.Proofs

open Sys2Proof.Machine Sys2Proof.Laws

set_option Elab.async false

/-! ## What a drop of overruns leaves alone -/

/-- A channel but for what waits in staging and its unserved timers. -/
def chanCore (x : ChSt) : ChSt := { x with staged := [], unserved := [] }

/-- Keys of the gates' registers and of `SC_CH_STAT.GUARD_ON`: neither what waits in staging nor an overrun's event lies at one. -/
def gateKey (k : Nat) : Prop := 0x0C0600 * 32 ≤ k ∧ k ≤ 0x0C1500 * 32 ∧ (k % 32 ≠ 0 ∨ k = 0x0C1500 * 32)

/-- Two states with the same channels but for staging, the same time and the same gates. -/
structure SameGates (s t : State) : Prop where
  core : ∀ j, chanCore (t.ch j) = chanCore (s.ch j)
  tm : t.tm = s.tm
  regs : KeptAt gateKey s t

namespace SameGates

variable {s t u : State}

theorem refl (s : State) : SameGates s s := ⟨fun _ => rfl, rfl, .refl s⟩

theorem trans (h : SameGates s t) (g : SameGates t u) : SameGates s u := ⟨fun j => (g.core j).trans (h.core j), g.tm.trans h.tm, h.regs.trans g.regs⟩

theorem ite {c : Prop} [Decidable c] (h : SameGates s t) (g : SameGates s u) : SameGates s (if c then t else u) := by
  split <;> assumption

/-- A change of other parts. -/
theorem of_parts (chs : t.chs = s.chs) (tm : t.tm = s.tm) (regs : KeptAt gateKey s t) : SameGates s t :=
  ⟨fun j => by rw [State.ch, chs, State.ch], tm, regs⟩

theorem wr (s : State) {f : Fld} (h : ¬ gateKey f.key) (v : Nat) : SameGates s (s.wr f v) :=
  .of_parts rfl rfl (.of_kept (kept_wr f v (List.mem_singleton.2 rfl) (kept_refl s)) fun g hg => by rw [List.mem_singleton.1 hg]; exact h)

theorem setCh (s : State) (c : Nat) {x : ChSt} (h : chanCore x = chanCore (s.ch c)) : SameGates s (s.setCh c x) := by
  refine ⟨fun j => ?_, rfl, fun _ _ => rfl⟩
  rw [ch_setCh]
  split
  · next e => rw [e, h]
  · rfl

theorem each {α : Type} {l : List α} {f : State → α → State} (hf : ∀ t a, SameGates t (f t a)) : SameGates s (s.each l f) := by
  unfold State.each
  induction l generalizing s with
  | nil => exact .refl s
  | cons a l ih => exact (hf s a).trans ih

theorem rd (h : SameGates s t) {f : Fld} (key : gateKey f.key) : t.rd f = s.rd f := h.regs _ key

theorem is (h : SameGates s t) {f : Fld} (key : gateKey f.key) : t.is f = s.is f := congrArg (· == 1) (h.rd key)

end SameGates

theorem dropFields_not_gate : ∀ f ∈ dropFields, ¬ gateKey f.key := by unfold gateKey; decide

theorem sameGates_txSettle (s : State) (k : Nat) : SameGates s (s.txSettle k) := by
  have h : Keeps (fun p => p ∈ [Part.qs, .txs]) s (s.txSettle k) := by
    apply +allowSynthFailures keeps_txSettle
    case hk => exact Keeps.refl s
    all_goals exact ⟨by decide⟩
  have flds : (s.txSettle k).flds = s.flds := h.1 .regs (by decide)
  exact .of_parts (h.1 .chs (by decide)) (h.1 .tm (by decide)) fun k _ => by rw [flds]

theorem sameGates_txEnd (s : State) (id status : Nat) : SameGates s (s.txEnd id status) := by
  unfold State.txEnd
  split
  · exact .refl s
  · next f _ =>
    extract_lets flags need u q v w
    have ended : SameGates s v := .of_parts rfl rfl fun _ _ => rfl
    have counted : SameGates v w := .ite (.wr v (by unfold gateKey Fld.key HR_CTX_CNT_STATE_CNT; dsimp only; omega) _) (.refl v)
    exact (ended.trans counted).trans (sameGates_txSettle w f.queue)

theorem sameGates_fbFreeTx (s : State) (n : Nat) : SameGates s (s.fbFreeTx n) := by
  have h : Keeps (fun p => p ∈ [Part.fb, .regs]) s (s.fbFreeTx n) := by
    apply +allowSynthFailures keeps_fbFreeTx
    case hk => exact Keeps.refl s
    all_goals exact ⟨by decide⟩
  have kept : Kept dropFields s (s.fbFreeTx n) := kept_fbSet (List.subset_append_left ..) (kept_refl s) _
  exact .of_parts (h.1 .chs (by decide)) (h.1 .tm (by decide)) (.of_kept kept dropFields_not_gate)

theorem sameGates_ledDrop (s : State) (id ctx : Nat) (tx : Bool) (inst cause len : Nat) : SameGates s (s.ledDrop id ctx tx inst cause len) := by
  have h : Keeps (fun p => p ∈ [Part.free, .led, .regs]) s (s.ledDrop id ctx tx inst cause len) := by
    apply +allowSynthFailures keeps_ledDrop
    case hk => exact Keeps.refl s
    all_goals exact ⟨by decide⟩
  have kept : Kept dropFields s (s.ledDrop id ctx tx inst cause len) := kept_ledDrop (List.subset_append_right ..) (kept_refl s)
  exact .of_parts (h.1 .chs (by decide)) (h.1 .tm (by decide)) (.of_kept kept dropFields_not_gate)

theorem sameGates_setTx (s : State) (id : Nat) (f : TxFr) : SameGates s (s.setTx id f) := .of_parts rfl rfl fun _ _ => rfl

theorem sameGates_txDropMain (s : State) (id cause status : Nat) : SameGates s (s.txDropMain id cause status) := by
  unfold State.txDropMain
  split
  · exact .refl s
  · extract_lets u v
    have freed : SameGates s u := .ite (.refl s) (sameGates_fbFreeTx s _)
    exact ((freed.trans (sameGates_setTx ..)).trans (sameGates_ledDrop v ..)).trans (sameGates_txEnd ..)

theorem sameGates_txDrop (s : State) (id cause status : Nat) : SameGates s (s.txDrop id cause status) := by
  unfold State.txDrop State.txDropNow
  split
  · split
    · exact sameGates_txDropMain ..
    · have gone : SameGates s (s.delTx id) := .of_parts rfl rfl fun _ _ => rfl
      dsimp only
      split
      · exact .ite gone (gone.trans (sameGates_txDropMain ..))
      · exact gone
  · split
    · exact sameGates_setTx ..
    · exact .refl s

theorem sameGates_refreshStaged (s : State) {c : Nat} (h : c < 32) : SameGates s (s.refreshStaged c) :=
  .wr s (by unfold gateKey Fld.key SC_CH_STAT_STAGED; dsimp only; omega) _

theorem sameGates_dropOverrun {c : Nat} (h : c < 32) (k : Nat) : ∀ (n : Nat) (s : State), SameGates s (dropOverrun c k n s)
  | 0, s => .refl s
  | n + 1, s => by
    unfold dropOverrun
    split
    · split
      · split
        · next g id f _ _ _ _ =>
          extract_lets u
          have waits : SameGates s (s.setStaged c k ((s.stagedOf c k).drop 1)) := .setCh s c rfl
          have dropped : SameGates s u := waits.trans (sameGates_txDrop ..)
          have count : SameGates (u.refreshStaged c) ((u.refreshStaged c).bump (TG_OVERRUN_COUNT c)) :=
            .wr _ (by unfold gateKey Fld.key TG_OVERRUN_COUNT; dsimp only; omega) _
          have event : SameGates ((u.refreshStaged c).bump (TG_OVERRUN_COUNT c)) (((u.refreshStaged c).bump (TG_OVERRUN_COUNT c)).setBit TG_EVT_OVERRUN (c / 8)) :=
            .wr _ (by unfold gateKey; decide) _
          exact (((dropped.trans (sameGates_refreshStaged u h)).trans count).trans event).trans (sameGates_dropOverrun h k n _)
        · exact .refl s
      · exact .refl s
    · exact .refl s

theorem sameGates_unservedRefresh (s : State) (c : Nat) : SameGates s (s.unservedRefresh c) := .setCh s c rfl

theorem sameGates_overruns (s : State) {c : Nat} (h : c < 32) : SameGates s (s.overruns c) :=
  .ite (.refl s) ((SameGates.each fun t k => sameGates_dropOverrun h k _ t).trans (sameGates_unservedRefresh ..))

theorem sameGates_refreshIdle (s : State) {p : Nat} (h : p < 4) : SameGates s (s.refreshIdle p) := by
  have all (l : List Nat) (sub : l ⊆ List.range 9) (t : State) :
      SameGates t (t.each l fun s k => s.put (LN_LANE_STAT_TX_IDLE (9 * p + k)) (!s.laneSends (9 * p + k))) := by
    unfold State.each
    induction l generalizing t with
    | nil => exact .refl t
    | cons k l ih =>
      obtain ⟨here, rest⟩ := List.cons_subset.1 sub
      have := List.mem_range.1 here
      refine SameGates.trans ?_ (ih rest _)
      dsimp only
      rw [put_eq]
      exact .wr t (by unfold gateKey Fld.key LN_LANE_STAT_TX_IDLE; dsimp only; omega) _
  exact all _ (List.Subset.refl _) s

section
variable {x y : ChSt} (h : chanCore x = chanCore y)
include h

theorem core_line : x.line = y.line := (congrArg ChSt.line h :)
theorem core_guard : x.guard = y.guard := (congrArg ChSt.guard h :)
theorem core_take : x.take = y.take := (congrArg ChSt.take h :)
theorem core_gBase : x.gBase = y.gBase := (congrArg ChSt.gBase h :)
theorem core_gCycle : x.gCycle = y.gCycle := (congrArg ChSt.gCycle h :)
theorem core_gLen : x.gLen = y.gLen := (congrArg ChSt.gLen h :)

end

/-! ## A class that starves -/

/-- A class that stays ready keeps its timer. -/
theorem unserved_stays {s : State} {c k : Nat} (ready : s.ready c k = true) : ∀ (l : List Nat) (m : SMap Nat), (optGet m k).isSome = true →
    (optGet (l.foldl (fun m k => if !s.ready c k then mapErase k m else if (optGet m k).isSome then m else optSet m k s.tm.tick) m) k).isSome = true
  | [], _, h => h
  | j :: l, m, h => by
    refine unserved_stays ready l _ ?_
    dsimp only
    by_cases e : j = k
    · rw [e, ready, h]
      exact h
    · split
      · rw [optGet_erase_other m (Ne.symm e)]
        exact h
      · split
        · exact h
        · rw [optGet_set, if_neg (Ne.symm e)]
          exact h

theorem unservedRefresh_stays {s : State} {c k : Nat} (ready : s.ready c k = true) (timer : (optGet (s.ch c).unserved k).isSome = true) :
    (optGet ((s.unservedRefresh c).ch c).unserved k).isSome = true := by
  have x : ((s.unservedRefresh c).ch c).unserved = (List.range 8).foldl (fun m k =>
      if !s.ready c k then mapErase k m else if (optGet m k).isSome then m else optSet m k s.tm.tick) (s.ch c).unserved :=
    congrArg ChSt.unserved ((ch_setCh ..).trans (if_pos rfl))
  rw [x]
  exact unserved_stays ready _ _ timer

theorem gateNow_none {s : State} {c : Nat} (h : s.gateNow c = none) : s.is (TG_CTRL_EN c) = false := by
  unfold State.gateNow at h
  cases e : s.is (TG_CTRL_EN c)
  · rfl
  · rw [e] at h
    cases h

/-- Without a gate list, readiness does not go by the time. -/
theorem ready_ungated {s t : State} {c k : Nat} (chs : t.chs = s.chs) (txs : t.txs = s.txs) (paused : t.rd (MC_FC_STAT_PAUSED c) = s.rd (MC_FC_STAT_PAUSED c))
    (off : t.is (TG_CTRL_EN c) = false) (ready : s.ready c k = true) : t.ready c k = true := by
  have head : t.stagedHead c k = s.stagedHead c k := by
    unfold State.stagedHead State.stagedOf State.ch State.txf
    rw [chs, txs]
  have free (need : Nat) : t.gateOpen c k need = true := by
    unfold State.gateOpen State.gateNow
    rw [off]
    rfl
  unfold State.ready at ready ⊢
  rw [head]
  cases h : s.stagedHead c k with
  | none =>
    rw [h] at ready
    cases ready
  | some e =>
    rw [h] at ready
    dsimp only at ready ⊢
    rw [free, Bool.and_true, State.bit, paused]
    exact (Bool.and_eq_true_iff.1 ready).1

theorem starveTimer_starves {c : Fin 32} {k : Fin 8} {a : Nat} {s : State} (limit : (s.ch c).starveLive ≠ 0) (ready : s.ready c k = true)
    (ungated : s.gateNow c = none) (timer : optGet (s.ch c).unserved k = some a) (closed : (s.ch c).guard = none) (plain : s.pairOfChan c = none)
    (runs : s.portRuns (c / 8) = true) :
    ∃ t, exec (.starveTimer c k) s = .next t ∧ (t.ch c).starved = true ∧ t.tm.tick = max s.tm.tick (a + 1600 * (s.ch c).starveLive) := by
  obtain ⟨l, tm, adv, tick, kept⟩ := advanceTo_eq s (a + 1600 * (s.ch c).starveLive)
  have run : exec (.starveTimer c k) s = .next (
      let u := (s.advanceTo (a + 1600 * (s.ch c).starveLive)).unservedRefresh c
      if (optGet (u.ch c).unserved k).isSome then u.setCh c { u.ch c with starved := true } else u) := by
    show execStarveTimer c k s = _
    unfold execStarveTimer
    rw [closed, plain, runs, if_neg (by simp [limit]), timer]
  generalize s.advanceTo (a + 1600 * (s.ch c).starveLive) = u at *
  have chs : u.chs = s.chs := by rw [adv]
  have txs : u.txs = s.txs := by rw [adv]
  have late : u.tm.tick = max s.tm.tick (a + 1600 * (s.ch c).starveLive) := by rw [adv]; exact tick
  have off : u.is (TG_CTRL_EN c) = false := by
    refine (is_kept kept ?_).trans (gateNow_none ungated)
    simp [clockFields, Fld.key, TG_CTRL_EN, NY_MTIME_LO_MTIME, NY_MTIME_HI_MTIME, TM_AON_CNT_LO_COUNT, TM_AON_CNT_HI_COUNT]
    omega
  have paused : u.rd (MC_FC_STAT_PAUSED c) = s.rd (MC_FC_STAT_PAUSED c) := by
    refine rd_kept kept _ ?_
    simp [clockFields, Fld.key, MC_FC_STAT_PAUSED, NY_MTIME_LO_MTIME, NY_MTIME_HI_MTIME, TM_AON_CNT_LO_COUNT, TM_AON_CNT_HI_COUNT]
    omega
  have stays := unservedRefresh_stays (s := u) (ready_ungated chs txs paused off ready) (by
    rw [State.ch, chs]
    exact Option.isSome_of_eq_some timer)
  dsimp only at run
  rw [if_pos stays] at run
  refine ⟨_, run, ?_, late⟩
  rw [ch_setCh, if_pos rfl]

theorem starveTimer_idle {c : Fin 32} {k : Fin 8} {s : State} (idle : (s.ch c).starveLive = 0 ∨ optGet (s.ch c).unserved k = none) :
    exec (.starveTimer c k) s = .next s := by
  show execStarveTimer c k s = _
  unfold execStarveTimer
  rcases idle with h | h
  · rw [h]
    rfl
  · rw [h]
    dsimp only
    rw [ite_self]

/-! ## A guard window ends -/

/-- A window whose time has passed ends with the frame on the line (R216). -/
def windowOver (v : State) (c : Nat) : State := match (v.ch c).guard with
  | some g => if g.until_ ≤ v.tm.tick then (v.setCh c { v.ch c with guard := none, unserved := [] }).wr (SC_CH_STAT_GUARD_ON c) 0 else v
  | none => v

theorem windowOver_due {v : State} {c : Nat} {g : GuardSt} (guard : (v.ch c).guard = some g) (due : g.until_ ≤ v.tm.tick) :
    windowOver v c = (v.setCh c { v.ch c with guard := none, unserved := [] }).wr (SC_CH_STAT_GUARD_ON c) 0 := by
  unfold windowOver
  rw [guard]
  exact if_pos due

theorem txLineEnd_control {u : State} {c : Nat} {a : Bool} {e : Nat} (line : (u.ch c).line = .control a e) :
    u.txLineEnd c = (((windowOver (u.setCh c { u.ch c with line := .idle }) c).refreshStaged c).refreshIdle (c / 8)).overruns c := by
  unfold State.txLineEnd
  dsimp only
  rw [line]
  rfl

theorem guardWindow_ends {c : Fin 32} {g : GuardSt} {a : Bool} {e : Nat} {s : State} (guard : (s.ch c).guard = some g)
    (line : (s.ch c).line = .control a e) (runs : s.portRuns (c / 8) = true) :
    ∃ t, exec (.guardWindowEnd c) s = .next t ∧ (t.ch c).line = .idle ∧ (t.ch c).guard = none ∧ t.is (SC_CH_STAT_GUARD_ON c) = false ∧
      t.tm.tick = max s.tm.tick g.until_ := by
  obtain ⟨l, tm, adv, tick, -⟩ := advanceTo_eq s g.until_
  have run : exec (.guardWindowEnd c) s = .next (let u := s.advanceTo g.until_
      if u.endFits c then u.txLineEnd c else u) := by
    show execGuardWindowEnd c s = _
    unfold execGuardWindowEnd
    rw [guard]
    dsimp only
    rw [runs]
    rfl
  generalize s.advanceTo g.until_ = u at *
  have ch : u.ch c = s.ch c := by rw [adv]; rfl
  have late : u.tm.tick = max s.tm.tick g.until_ := by rw [adv]; exact tick
  have fits : u.endFits c = true := by
    unfold State.endFits
    rw [ch, line]
    simp
  let v := u.setCh c { u.ch c with line := .idle }
  let w := (v.setCh c { v.ch c with guard := none, unserved := [] }).wr (SC_CH_STAT_GUARD_ON c) 0
  have vch : v.ch c = { s.ch c with line := .idle } := by
    rw [← ch]
    exact (ch_setCh ..).trans (if_pos rfl)
  have ended : u.txLineEnd c = ((w.refreshStaged c).refreshIdle (c / 8)).overruns c := by
    have due : g.until_ ≤ v.tm.tick := by
      show g.until_ ≤ u.tm.tick
      rw [late]
      exact le_max_right ..
    rw [txLineEnd_control (a := a) (e := e) (by rw [ch]; exact line), windowOver_due (v := v) (by rw [vch]; exact guard) due]
  have same := ((sameGates_refreshStaged w c.isLt).trans (sameGates_refreshIdle _ (p := c.val / 8) (by omega))).trans (sameGates_overruns _ c.isLt)
  have wch : w.ch c = { s.ch c with line := .idle, guard := none, unserved := [] } := by
    have set : w.ch c = { v.ch c with guard := none, unserved := [] } := (ch_setCh ..).trans (if_pos rfl)
    rw [set, vch]
  have open_ : w.is (SC_CH_STAT_GUARD_ON c) = false := by
    have zero : w.rd (SC_CH_STAT_GUARD_ON c) = 0 := rd_wr_same ..
    rw [State.is, zero]
    rfl
  dsimp only at run
  rw [if_pos fits, ended] at run
  have core := same.core c
  rw [wch] at core
  refine ⟨_, run, core_line core, core_guard core, (same.is ?_).trans open_, ?_⟩
  · unfold gateKey Fld.key SC_CH_STAT_GUARD_ON
    dsimp only
    omega
  · rw [same.tm]
    exact late

/-! ## Gate lists -/

/-- The gates' registers are none that an access counts in. -/
theorem tg_unit {f : Fld} (low : 0x0C1000 * 32 ≤ f.key) (high : f.key < 0x0C2000 * 32) : unitKey f.key := by
  unfold unitKey
  simp only [Fld.key, CL_READS_LO_COUNT, CL_READS_HI_COUNT] at *
  omega

section
variable {s : State} {w : Who} {c : Fin 32}

/-- A commit that nothing refuses and that comes in time (R220). -/
theorem tgCommit_takes {len cyc base list : Nat} (hlen : s.rd (TG_LEN_LEN c) = len) (hcyc : s.rd (TG_CYCLE_CYCLE_NS c) * 2 ^ 32 = cyc)
    (hlist : s.rd (TG_LEN_LIST c) = list)
    (hbase : (s.rd (TG_BASE_S_LO_S_LO c) + 2 ^ 32 * s.rd (TG_BASE_S_HI_S_HI c)) * secUnits + s.rd (TG_BASE_NS_NS c) * 2 ^ 32 = base)
    (free : s.is (TG_COMMIT_LOCKED c) = false) (other : s.listInForce c list = false) (some_ : 1 ≤ len) (few : len ≤ 256) (runs : 0 < cyc)
    (early : (s.gateTime c).toNat + twoUs ≤ base) :
    s.tgCommit c = ((s.setCh c { s.ch c with take := some ⟨base, base, cyc, len, list⟩ }).raise (TG_COMMIT_LOCKED c)).raise (TG_CTRL_PENDING c) := by
  unfold State.tgCommit
  rw [hlen, hcyc, hlist, hbase]
  dsimp only
  rw [free, other, if_neg (by simp; omega), if_pos early, if_pos early]

theorem tgCommit_shows {u : State} (kept : Kept portCounts s.settleBeats u) (x : ChSt) : let t := (((u.setCh c x).raise (TG_COMMIT_LOCKED c)).raise (TG_CTRL_PENDING c)).okay 0
    t.sp = ⟨true, 0⟩ ∧ t.ch c = x ∧ t.is (TG_COMMIT_LOCKED c) = true ∧ t.is (TG_CTRL_PENDING c) = true ∧
      Kept ([TG_COMMIT_LOCKED c, TG_CTRL_PENDING c] ++ portCounts) s.settleBeats t := by
  have take : (u.setCh c x).ch c = x := (ch_setCh ..).trans (if_pos rfl)
  have keptCh : Kept portCounts s.settleBeats (u.setCh c x) := kept_flds rfl kept
  generalize u.setCh c x = v at *
  have lockedNow : ((v.raise (TG_COMMIT_LOCKED c)).raise (TG_CTRL_PENDING c)).is (TG_COMMIT_LOCKED c) = (v.raise (TG_COMMIT_LOCKED c)).is (TG_COMMIT_LOCKED c) :=
    is_wr_ne (by omega)
  have raised : (v.raise (TG_COMMIT_LOCKED c)).is (TG_COMMIT_LOCKED c) = true := is_raise
  have pending : ((v.raise (TG_COMMIT_LOCKED c)).raise (TG_CTRL_PENDING c)).is (TG_CTRL_PENDING c) = true := is_raise
  exact ⟨rfl, take, lockedNow.trans raised, pending, kept_wr _ _ (by simp) (kept_wr _ _ (by simp) (kept_mono (List.subset_append_right ..) keptCh))⟩

theorem listInForce_served (l : Nat) : (served s w (0x0C1114 + 32 * c)).listInForce c l = s.listInForce c l := by
  unfold State.listInForce
  rw [served_is s w _ (f := TG_CTRL_EN c) (tg_unit (by simp only [Fld.key, TG_CTRL_EN]; omega) (by simp only [Fld.key, TG_CTRL_EN]; omega)),
    served_rd s w _ (f := TG_CTRL_ACTIVE c) (tg_unit (by simp only [Fld.key, TG_CTRL_ACTIVE]; omega) (by simp only [Fld.key, TG_CTRL_ACTIVE]; omega))]

theorem tgCommit_lists (serves : s.serves w (0x0C1114 + 32 * c) 4 = true) (free : s.is (TG_COMMIT_LOCKED c) = false)
    (other : s.listInForce c (s.rd (TG_LEN_LIST c)) = false) (some_ : 1 ≤ s.rd (TG_LEN_LEN c)) (few : s.rd (TG_LEN_LEN c) ≤ 256)
    (runs : 0 < s.rd (TG_CYCLE_CYCLE_NS c) * 2 ^ 32) (early : (s.gateTime c).toNat + twoUs ≤
      (s.rd (TG_BASE_S_LO_S_LO c) + 2 ^ 32 * s.rd (TG_BASE_S_HI_S_HI c)) * secUnits + s.rd (TG_BASE_NS_NS c) * 2 ^ 32) :
    let base := (s.rd (TG_BASE_S_LO_S_LO c) + 2 ^ 32 * s.rd (TG_BASE_S_HI_S_HI c)) * secUnits + s.rd (TG_BASE_NS_NS c) * 2 ^ 32
    ∃ t, exec (.tgCommit w c) s = .next t ∧ t.sp = ⟨true, 0⟩ ∧
      (t.ch c).take = some ⟨base, base, s.rd (TG_CYCLE_CYCLE_NS c) * 2 ^ 32, s.rd (TG_LEN_LEN c), s.rd (TG_LEN_LIST c)⟩ ∧
      t.is (TG_COMMIT_LOCKED c) = true ∧ t.is (TG_CTRL_PENDING c) = true ∧
      Kept ([TG_COMMIT_LOCKED c, TG_CTRL_PENDING c] ++ portCounts) s.settleBeats t := by
  intro base
  have same {o lo w' : Nat} (low : 0x0C1000 * 32 ≤ o * 32 + lo) (high : o * 32 + lo < 0x0C2000 * 32) :
      (served s w (0x0C1114 + 32 * c)).rd ⟨o, lo, w'⟩ = s.rd ⟨o, lo, w'⟩ := served_rd s w _ (tg_unit low high)
  have run : exec (.tgCommit w c) s = .next (((served s w (0x0C1114 + 32 * c)).tgCommit c).okay 0) := congrArg Host.Outcome.next (guardWrite_served serves _)
  have chs : (served s w (0x0C1114 + 32 * c)).chs = s.chs := served_same s w _ (p := .chs) (by decide) (by decide)
  have tm : (served s w (0x0C1114 + 32 * c)).tm = s.tm := served_same s w _ (p := .tm) (by decide) (by decide)
  have time : (served s w (0x0C1114 + 32 * c)).gateTime c = s.gateTime c := by unfold State.gateTime State.ch; rw [tm, chs]
  have locked : (served s w (0x0C1114 + 32 * c)).is (TG_COMMIT_LOCKED c) = s.is (TG_COMMIT_LOCKED c) :=
    congrArg (· == 1) (same (by omega) (by omega))
  have takes := tgCommit_takes (s := served s w (0x0C1114 + 32 * c)) (c := c) (base := base) (same (by omega) (by omega))
    (congrArg (· * 2 ^ 32) (same (by omega) (by omega))) (same (by omega) (by omega))
    (by rw [show State.rd _ (TG_BASE_S_LO_S_LO c) = _ from same (by omega) (by omega), show State.rd _ (TG_BASE_S_HI_S_HI c) = _ from same (by omega) (by omega),
      show State.rd _ (TG_BASE_NS_NS c) = _ from same (by omega) (by omega)]; rfl)
    (locked.trans free) ((listInForce_served _).trans other) some_ few runs (by rw [time]; exact early)
  have kept : Kept portCounts s.settleBeats (served s w (0x0C1114 + 32 * c)) := kept_served s w _
  rw [takes] at run
  generalize served s w (0x0C1114 + 32 * c) = u at *
  obtain ⟨sp, ch, lockedNow, pending, all⟩ := tgCommit_shows (c := c) kept
    { u.ch c with take := some ⟨base, base, s.rd (TG_CYCLE_CYCLE_NS c) * 2 ^ 32, s.rd (TG_LEN_LEN c), s.rd (TG_LEN_LIST c)⟩ }
  exact ⟨_, run, sp, congrArg ChSt.take ch, lockedNow, pending, all⟩

theorem tgCommit_locked (serves : s.serves w (0x0C1114 + 32 * c) 4 = true) (locked : s.is (TG_COMMIT_LOCKED c) = true) :
    ∃ t, exec (.tgCommit w c) s = .next t ∧ t.sp = ⟨true, 0⟩ ∧ t.chs = s.chs ∧ t.rd (TG_COMMIT_REJ c) = upBy s (TG_COMMIT_REJ c) 1 := by
  have run : exec (.tgCommit w c) s = .next (((served s w (0x0C1114 + 32 * c)).tgCommit c).okay 0) := congrArg Host.Outcome.next (guardWrite_served serves _)
  have chs : (served s w (0x0C1114 + 32 * c)).chs = s.chs := served_same s w _ (p := .chs) (by decide) (by decide)
  have held : (served s w (0x0C1114 + 32 * c)).is (TG_COMMIT_LOCKED c) = true :=
    (served_is s w _ (f := TG_COMMIT_LOCKED c) (tg_unit (by simp only [Fld.key, TG_COMMIT_LOCKED]; omega) (by simp only [Fld.key, TG_COMMIT_LOCKED]; omega))).trans locked
  have count : (served s w (0x0C1114 + 32 * c)).rd (TG_COMMIT_REJ c) = s.rd (TG_COMMIT_REJ c) :=
    served_rd s w _ (tg_unit (by simp only [Fld.key, TG_COMMIT_REJ]; omega) (by simp only [Fld.key, TG_COMMIT_REJ]; omega))
  generalize served s w (0x0C1114 + 32 * c) = u at *
  have refused : u.tgCommit c = u.tgReject c := by
    unfold State.tgCommit
    dsimp only
    rw [held]
    rfl
  rw [refused] at run
  have bumped : (u.tgReject c).rd (TG_COMMIT_REJ c) = upBy u (TG_COMMIT_REJ c) 1 := rd_bump_same ..
  exact ⟨_, run, rfl, chs, bumped.trans (by rw [upBy, count, upBy])⟩

end

/-! ## Lists take over, entries change -/

/-- The registers of a take-over. -/
def takenOver (v : State) (c list : Nat) : State :=
  let v := ((v.wr (TG_CTRL_ACTIVE c) list).wr (TG_CTRL_PENDING c) 0).wr (TG_COMMIT_LOCKED c) 0
  (v.wr (TG_COMMIT_GEN c) (v.rd (TG_COMMIT_GEN c) + 1)).setBit TG_EVT_TAKEOVER (c / 8)

theorem setBit_bit (s : State) (f : Fld) {i : Nat} (h : i < f.w) : (s.setBit f i).bit f i = true := by
  unfold State.bit State.setBit
  rw [rd_wr_same, Nat.testBit_mod_two_pow, Nat.testBit_or, Nat.testBit_two_pow_self]
  simp [h]

theorem takenOver_shows (v : State) (c : Fin 32) (list : Nat) : (takenOver v c list).is (TG_CTRL_ACTIVE c) = decide (list % 2 = 1) ∧
    (takenOver v c list).is (TG_CTRL_PENDING c) = false ∧ (takenOver v c list).is (TG_COMMIT_LOCKED c) = false ∧
    (takenOver v c list).bit TG_EVT_TAKEOVER (c / 8) = true := by
  let a := v.wr (TG_CTRL_ACTIVE c) list
  let b := a.wr (TG_CTRL_PENDING c) 0
  let d := b.wr (TG_COMMIT_LOCKED c) 0
  let e := d.wr (TG_COMMIT_GEN c) (d.rd (TG_COMMIT_GEN c) + 1)
  have last {o lo w : Nat} (ne : o * 32 + lo ≠ TG_EVT_TAKEOVER.key) (other : o * 32 + lo ≠ (TG_COMMIT_GEN c).key) :
      (takenOver v c list).is ⟨o, lo, w⟩ = d.is ⟨o, lo, w⟩ :=
    (is_wr_ne (s := e) ne).trans (is_wr_ne (s := d) other)
  have active : a.is (TG_CTRL_ACTIVE c) = decide (list % 2 = 1) := by
    have set : a.rd (TG_CTRL_ACTIVE c) = list % 2 ^ 1 := rd_wr_same ..
    rw [State.is, set]
    rfl
  have pending : b.is (TG_CTRL_PENDING c) = false := by
    have set : b.rd (TG_CTRL_PENDING c) = 0 := rd_wr_same ..
    rw [State.is, set]
    rfl
  have locked : d.is (TG_COMMIT_LOCKED c) = false := by
    have set : d.rd (TG_COMMIT_LOCKED c) = 0 := rd_wr_same ..
    rw [State.is, set]
    rfl
  have activeThen : d.is (TG_CTRL_ACTIVE c) = a.is (TG_CTRL_ACTIVE c) := (is_wr_ne (s := b) (by omega)).trans (is_wr_ne (s := a) (by omega))
  have pendingThen : d.is (TG_CTRL_PENDING c) = b.is (TG_CTRL_PENDING c) := is_wr_ne (s := b) (by omega)
  have low := c.isLt
  exact ⟨(last (by simp only [Fld.key, TG_EVT_TAKEOVER]; omega) (by simp only [Fld.key, TG_COMMIT_GEN]; omega)).trans (activeThen.trans active),
    (last (by simp only [Fld.key, TG_EVT_TAKEOVER]; omega) (by simp only [Fld.key, TG_COMMIT_GEN]; omega)).trans (pendingThen.trans pending),
    (last (by simp only [Fld.key, TG_EVT_TAKEOVER]; omega) (by simp only [Fld.key, TG_COMMIT_GEN]; omega)).trans locked,
    setBit_bit e _ (show c.val / 8 < 4 by omega)⟩

theorem tgTakeover_takes {c : Fin 32} {w : TakeSt} {s : State} (take : (s.ch c).take = some w) (runs : s.portRuns (c / 8) = true) (up : s.coreUp = true)
    (awake : s.sleepLoad = false) :
    ∃ t, exec (.tgTakeover c) s = .next t ∧ (t.ch c).take = none ∧ (t.ch c).gBase = w.base ∧ (t.ch c).gCycle = w.cycle ∧ (t.ch c).gLen = w.len ∧
      t.is (TG_CTRL_ACTIVE c) = decide (w.list % 2 = 1) ∧ t.is (TG_CTRL_PENDING c) = false ∧ t.is (TG_COMMIT_LOCKED c) = false ∧
      t.bit TG_EVT_TAKEOVER (c / 8) = true ∧ t.tm.tick = s.tm.tick + s.cyclesTo ((w.inst : Int) - signed 32 (s.ch c).txCorr * 2 ^ 16).toNat := by
  have tick := advance_tick s (s.cyclesTo ((w.inst : Int) - signed 32 (s.ch c).txCorr * 2 ^ 16).toNat)
  have run : exec (.tgTakeover c) s = .next (let u := s.advance (s.cyclesTo ((w.inst : Int) - signed 32 (s.ch c).txCorr * 2 ^ 16).toNat)
      (takenOver (u.setCh c { u.ch c with take := none, gBase := w.base, gCycle := w.cycle, gLen := w.len }) c w.list).overruns c) := by
    show execTgTakeover c s = _
    unfold execTgTakeover
    rw [take]
    dsimp only
    rw [runs, up, awake, if_neg (by decide)]
    rfl
  generalize s.advance (s.cyclesTo ((w.inst : Int) - signed 32 (s.ch c).txCorr * 2 ^ 16).toNat) = u at *
  dsimp only at run
  have set : (u.setCh c { u.ch c with take := none, gBase := w.base, gCycle := w.cycle, gLen := w.len }).ch c =
    { u.ch c with take := none, gBase := w.base, gCycle := w.cycle, gLen := w.len } := (ch_setCh ..).trans (if_pos rfl)
  have time : (u.setCh c { u.ch c with take := none, gBase := w.base, gCycle := w.cycle, gLen := w.len }).tm = u.tm := rfl
  generalize u.setCh c { u.ch c with take := none, gBase := w.base, gCycle := w.cycle, gLen := w.len } = v at *
  obtain ⟨active, pending, locked, event⟩ := takenOver_shows v c w.list
  have ch : (takenOver v c w.list).ch c = v.ch c := rfl
  have tm : (takenOver v c w.list).tm = v.tm := rfl
  generalize takenOver v c w.list = x at *
  have same := sameGates_overruns x c.isLt
  have core := same.core c
  rw [ch, set] at core
  have low := c.isLt
  refine ⟨_, run, core_take core, core_gBase core, core_gCycle core, core_gLen core, (same.is ?_).trans active, (same.is ?_).trans pending,
    (same.is ?_).trans locked, ?_, ?_⟩
  · unfold gateKey Fld.key TG_CTRL_ACTIVE
    dsimp only
    omega
  · unfold gateKey Fld.key TG_CTRL_PENDING
    dsimp only
    omega
  · unfold gateKey Fld.key TG_COMMIT_LOCKED
    dsimp only
    omega
  · rw [State.bit, same.rd (by unfold gateKey; decide)]
    exact event
  · rw [same.tm, tm, time]
    exact tick

theorem gateEntry_changes {c : Fin 32} {g : GateList} {s : State} (gate : s.gateNow c = some g) (some_ : g.empty = false) (up : s.coreUp = true)
    (runs : s.portRuns (c / 8) = true) (awake : s.sleepLoad = false) :
    ∃ t, exec (.gateEntryChange c false) s = .next t ∧
      t.tm.tick = s.tm.tick + s.cyclesTo (s.tm.now + max 1 (s.gateAt c g ((s.gateTime c - g.base) % (g.cycle : Int)).toNat g.len 0 0).2) := by
  have run : exec (.gateEntryChange c false) s = .next ((s.advance (s.cyclesTo (s.tm.now + max 1
      (s.gateAt c g ((s.gateTime c - g.base) % (g.cycle : Int)).toNat g.len 0 0).2))).overruns c) := by
    show execGateEntryChange c false s = _
    unfold execGateEntryChange
    rw [gate]
    dsimp only
    rw [some_, up, runs, awake, if_neg (by decide)]
    rfl
  refine ⟨_, run, ?_⟩
  rw [(sameGates_overruns _ c.isLt).tm, advance_tick]

/-- Settles O42. -/
theorem guardWindowsAndGates : Obligations.GuardWindowsAndGates := by
  unfold Obligations.GuardWindowsAndGates
  exact ⟨fun c k a s limit ready ungated timer closed plain runs => starveTimer_starves limit ready ungated timer closed plain runs,
    fun c k s idle => starveTimer_idle idle, fun c g a e s guard line runs => guardWindow_ends guard line runs,
    fun w c s serves free other some_ few runs early => tgCommit_lists serves free other some_ few runs early,
    fun w c s serves locked => tgCommit_locked serves locked, fun c w s take runs up awake => tgTakeover_takes take runs up awake,
    fun c g s gate some_ up runs awake => gateEntry_changes gate some_ up runs awake⟩

end Sys2Proof.Proofs
end

section
/-! PROOFS. Management DMA: the channel's control, its descriptors, and where data are stored (R350 to R358, R364). -/

namespace Sys2Proof.Proofs

open Sys2Proof.Machine Sys2Proof.Laws

set_option Elab.async false

/-! ## The data SRAM -/

theorem mapGet_stored (m : SMap Byte) (a b : Nat) (l : List Byte) : ∀ n,
    mapGet sramReset ((List.range n).foldl (fun m i => mapSet sramReset m (a + i) (l.getD i 0)) m) b =
      if a ≤ b ∧ b < a + n then l.getD (b - a) 0 else mapGet sramReset m b
  | 0 => (if_neg (by omega)).symm
  | n + 1 => by
    rw [List.range_succ, List.foldl_append, List.foldl_cons, List.foldl_nil, mapGet_set, mapGet_stored m a b l n]
    by_cases last : b = a + n
    · subst last
      rw [if_pos rfl, if_pos (by omega), Nat.add_sub_cancel_left]
    · rw [if_neg last]
      by_cases before : a ≤ b ∧ b < a + n
      · rw [if_pos before, if_pos (by omega)]
      · rw [if_neg before, if_neg (by omega)]

theorem sramRead_one (s : State) (b : Nat) : s.sramRead b 1 = [mapGet sramReset s.ny.sram b] := rfl

/-- A state with the SRAM of `s` after a write reads the bytes written where they lie, and every other as before. -/
theorem sramRead_written {s t : State} {a : Nat} {l : List Byte} (sram : t.ny.sram = (s.sramWrite a l).ny.sram) :
    (∀ i, i < l.length → t.sramRead (a + i) 1 = [l.getD i 0]) ∧
      (∀ b, b < a ∨ a + l.length ≤ b → t.sramRead b 1 = s.sramRead b 1) := by
  have stored (b : Nat) : mapGet sramReset t.ny.sram b = if a ≤ b ∧ b < a + l.length then l.getD (b - a) 0 else mapGet sramReset s.ny.sram b := by
    rw [sram]
    exact mapGet_stored ..
  refine ⟨fun i hi => ?_, fun b hb => ?_⟩
  · rw [sramRead_one, stored, if_pos (by omega), Nat.add_sub_cancel_left]
  · rw [sramRead_one, stored, if_neg (by omega), sramRead_one]

/-! ## Reading a descriptor -/

section
variable (s : State) (ch a sp : Nat)

/-- `MD_CH_CUR` takes an address and its space. -/
def curAt : State := (s.wr (MD_CH_CUR_LO_ADDR_LO ch) (a / 32)).wr (MD_CH_CUR_HI_ADDR_HI ch) (a / 2 ^ 32 % 2 ^ 25 + 2 ^ 25 * sp)

theorem mdReadDesc_rest {p : Part} (hf : p ≠ .fab) (hn : p ≠ .ny) : Same ((curAt s ch a sp).setMd ch { phase := 1 }) (s.mdReadDesc ch a sp) p := by
  have h : Keeps (fun p => p = .fab ∨ p = .ny) ((curAt s ch a sp).setMd ch { phase := 1 }) (s.mdReadDesc ch a sp) := by
    have begun : Keeps (fun p => p = .fab ∨ p = .ny) ((curAt s ch a sp).setMd ch { phase := 1 })
        (((curAt s ch a sp).setMd ch { phase := 1 }).bgBegin 2 ch) := by
      apply +allowSynthFailures keeps_bgBegin
      case hk => exact Keeps.refl _
      exact ⟨.inr rfl⟩
    refine keeps_ite ?_ begun
    apply +allowSynthFailures keeps_hostRead
    case hk => exact begun
    exact ⟨.inl rfl⟩
  exact h.1 p (by simp [hf, hn])

theorem mdReadDesc_rd (f : Fld) : (s.mdReadDesc ch a sp).rd f = (curAt s ch a sp).rd f :=
  rd_congr (mdReadDesc_rest s ch a sp (p := .regs) (by decide) (by decide)) f

theorem mdReadDesc_mdCh (j : Nat) : (s.mdReadDesc ch a sp).mdCh j = if j = ch then { phase := 1 } else s.mdCh j := by
  have md : (s.mdReadDesc ch a sp).md = ((curAt s ch a sp).setMd ch { phase := 1 }).md := mdReadDesc_rest s ch a sp (p := .md) (by decide) (by decide)
  rw [State.mdCh, md]
  exact mdCh_setMd ..

theorem curAt_low : (curAt s ch a sp).rd (MD_CH_CUR_LO_ADDR_LO ch) = a / 32 % 2 ^ 27 := by
  have other : (curAt s ch a sp).rd (MD_CH_CUR_LO_ADDR_LO ch) = (s.wr (MD_CH_CUR_LO_ADDR_LO ch) (a / 32)).rd (MD_CH_CUR_LO_ADDR_LO ch) :=
    rd_wr_ne
  exact other.trans (rd_wr_same ..)

theorem curAt_stat {lo w : Nat} (h : lo < 32) : (curAt s ch a sp).rd ⟨0x1C0110 + 64 * ch, lo, w⟩ = s.rd ⟨0x1C0110 + 64 * ch, lo, w⟩ := by
  have high : (curAt s ch a sp).rd ⟨0x1C0110 + 64 * ch, lo, w⟩ = (s.wr (MD_CH_CUR_LO_ADDR_LO ch) (a / 32)).rd ⟨0x1C0110 + 64 * ch, lo, w⟩ := rd_wr_ne
  exact high.trans rd_wr_ne

end

/-! ## Control of a channel -/

theorem mdStat_unit {lo w : Nat} (ch : Fin 8) (h : lo < 32) : unitKey (Fld.key ⟨0x1C0110 + 64 * ch.val, lo, w⟩) := by
  simp only [unitKey, Fld.key, CL_READS_LO_COUNT, CL_READS_HI_COUNT]
  omega

theorem mdDesc_unit (ch : Fin 8) : unitKey (MD_CH_DESC_LO_ADDR_LO ch).key := by
  simp only [unitKey, Fld.key, MD_CH_DESC_LO_ADDR_LO, CL_READS_LO_COUNT, CL_READS_HI_COUNT]
  omega

theorem served_mdState (s : State) (w : Who) (off : Nat) (ch : Fin 8) : (served s w off).mdState ch = s.mdState ch :=
  served_rd s w off (mdStat_unit ch (by decide))

theorem served_md (s : State) (w : Who) (off : Nat) : (served s w off).md = s.md := served_same s w off (p := .md) (by decide) (by decide)

theorem served_mdCh (s : State) (w : Who) (off j : Nat) : (served s w off).mdCh j = s.mdCh j := by rw [State.mdCh, served_md, State.mdCh]

/-- A channel that runs, before its first descriptor is read. -/
def chRunning (u : State) (ch : Nat) : State := (u.wr (MD_CH_STAT_STATE ch) 1).wr (MD_CH_STAT_HOPS ch) 0

theorem mdStart_free {u : State} {ch : Nat} (free : ¬ (u.mdState ch = 1 ∨ u.mdState ch = 2)) : u.mdStart ch =
    (chRunning u ch).mdReadDesc ch
      (32 * (chRunning u ch).rd (MD_CH_DESC_LO_ADDR_LO ch) + 2 ^ 32 * (chRunning u ch).rd (MD_CH_DESC_HI_ADDR_HI ch))
      ((chRunning u ch).rd (MD_CH_DESC_HI_SPACE ch)) := if_neg free

theorem chRunning_state (u : State) (ch : Nat) : (chRunning u ch).rd (MD_CH_STAT_STATE ch) = 1 := by
  have other : (chRunning u ch).rd (MD_CH_STAT_STATE ch) = (u.wr (MD_CH_STAT_STATE ch) 1).rd (MD_CH_STAT_STATE ch) := rd_wr_ne
  exact other.trans (rd_wr_same ..)

theorem chRunning_desc (u : State) (ch : Nat) : (chRunning u ch).rd (MD_CH_DESC_LO_ADDR_LO ch) = u.rd (MD_CH_DESC_LO_ADDR_LO ch) := by
  have other : (chRunning u ch).rd (MD_CH_DESC_LO_ADDR_LO ch) = (u.wr (MD_CH_STAT_STATE ch) 1).rd (MD_CH_DESC_LO_ADDR_LO ch) := rd_wr_ne
  exact other.trans rd_wr_ne

theorem mdStart_runs {w : Who} {ch : Fin 8} {s : State} (serves : s.serves w (0x1C0108 + 64 * ch) 4 = true) (idle : s.mdState ch ≠ 1)
    (steady : s.mdState ch ≠ 2) : ∃ t, exec (.mdStart w ch) s = .next t ∧ t.sp = ⟨true, 0⟩ ∧ t.mdState ch = 1 ∧ t.rd (MD_CH_STAT_HOPS ch) = 0 ∧
      t.mdCh ch = { phase := 1 } ∧ t.rd (MD_CH_CUR_LO_ADDR_LO ch) = s.rd (MD_CH_DESC_LO_ADDR_LO ch) % 2 ^ 27 ∧
      (∀ k, k ≠ ch.val → t.mdCh k = s.mdCh k) := by
  have run : exec (.mdStart w ch) s = .next (((served s w (0x1C0108 + 64 * ch)).mdStart ch).okay 0) :=
    congrArg Host.Outcome.next (guardWrite_served serves (·.mdCtrl ch 1))
  have state := served_mdState s w (0x1C0108 + 64 * ch) ch
  have ch_ := served_mdCh s w (0x1C0108 + 64 * ch)
  have desc := served_rd s w (0x1C0108 + 64 * ch) (mdDesc_unit ch)
  generalize served s w (0x1C0108 + 64 * ch) = u at *
  rw [mdStart_free (by rw [state]; exact not_or.2 ⟨idle, steady⟩)] at run
  refine ⟨_, run, rfl, ?_, ?_, ?_, ?_, fun k hk => ?_⟩
  · exact (mdReadDesc_rd ..).trans ((curAt_stat (lo := 0) _ _ _ _ (by decide)).trans (chRunning_state u ch))
  · exact (mdReadDesc_rd ..).trans ((curAt_stat (lo := 16) _ _ _ _ (by decide)).trans (rd_wr_same ..))
  · exact (mdReadDesc_mdCh ..).trans (if_pos rfl)
  · refine (mdReadDesc_rd ..).trans ((curAt_low ..).trans ?_)
    rw [chRunning_desc, desc]
    omega
  · exact (mdReadDesc_mdCh ..).trans ((if_neg hk).trans (ch_ k))

/-- A refused command of a channel counts, and changes nothing else. -/
theorem mdRefused_ends {c : Instr} {w : Who} {off : Nat} {s : State} (run : exec c s = .next (((served s w off).bump MD_CFG_REJ_COUNT).okay 0)) :
    ∃ t, exec c s = .next t ∧ t.sp = ⟨true, 0⟩ ∧ t.md = s.md ∧ t.rd MD_CFG_REJ_COUNT = upBy s MD_CFG_REJ_COUNT 1 ∧
      Kept (MD_CFG_REJ_COUNT :: portCounts) s.settleBeats t := by
  refine ⟨_, run, rfl, served_md s w off, ?_, ?_⟩
  · refine (rd_bump_same ..).trans (upBy_congr (served_rd s w _ ?_))
    unfold unitKey
    decide
  · exact kept_append (fs := [MD_CFG_REJ_COUNT]) (kept_served s w off) (kept_bump _ _)

theorem mdStart_refused {w : Who} {ch : Fin 8} {s : State} (serves : s.serves w (0x1C0108 + 64 * ch) 4 = true)
    (busy : s.mdState ch = 1 ∨ s.mdState ch = 2) :
    exec (.mdStart w ch) s = .next (((served s w (0x1C0108 + 64 * ch)).bump MD_CFG_REJ_COUNT).okay 0) := by
  have refused : (served s w (0x1C0108 + 64 * ch)).mdStart ch = (served s w (0x1C0108 + 64 * ch)).bump MD_CFG_REJ_COUNT :=
    if_pos (by rwa [served_mdState])
  rw [← refused]
  exact congrArg Host.Outcome.next (guardWrite_served serves (·.mdCtrl ch 1))

theorem exec_mdAbort {w : Who} {ch : Fin 8} {s : State} (serves : s.serves w (0x1C0108 + 64 * ch) 4 = true) :
    exec (.mdAbort w ch) s = .next (((served s w (0x1C0108 + 64 * ch)).mdAbort ch).okay 0) :=
  congrArg Host.Outcome.next (guardWrite_served serves (·.mdCtrl ch 2))

theorem mdAbort_waits {u : State} {ch : Nat} (runs : u.mdState ch = 1) (waits : (u.mdCh ch).phase ≠ 2 ∨ (u.mdCh ch).acc.isSome = true) :
    u.mdAbort ch = u.mdStop ch 6 := by
  have out : ¬ ((u.mdCh ch).phase = 2 ∧ (u.mdCh ch).acc.isNone = true) := by
    rintro ⟨phase, none⟩
    rcases waits with h | h
    · exact h phase
    · rw [Option.isNone_iff_eq_none.1 none] at h
      exact absurd h (by decide)
  exact (if_neg (not_not.2 runs)).trans (if_neg out)

theorem mdStop_state (u : State) (ch reason : Nat) : (u.mdStop ch reason).mdState ch = 2 := by
  have other : (u.mdStop ch reason).mdState ch = (u.wr (MD_CH_STAT_STATE ch) 2).mdState ch := rd_wr_ne
  exact other.trans (rd_wr_same ..)

theorem mdStop_reason (u : State) (ch reason : Nat) : (u.mdStop ch reason).rd (MD_CH_STAT_REASON ch) = reason % 2 ^ 3 := rd_wr_same ..

theorem kept_mdStop (u : State) (ch reason : Nat) : Kept [MD_CH_STAT_STATE ch, MD_CH_STAT_REASON ch] u (u.mdStop ch reason) :=
  kept_wr _ _ (by simp) (kept_wr _ _ (by simp) (kept_refl u))

theorem mdAbort_stops {w : Who} {ch : Fin 8} {s : State} (serves : s.serves w (0x1C0108 + 64 * ch) 4 = true) (runs : s.mdState ch = 1)
    (waits : (s.mdCh ch).phase ≠ 2 ∨ (s.mdCh ch).acc.isSome = true) :
    ∃ t, exec (.mdAbort w ch) s = .next t ∧ t.sp = ⟨true, 0⟩ ∧ t.mdState ch = 2 ∧ t.rd (MD_CH_STAT_REASON ch) = 6 ∧ t.md = s.md ∧
      Kept ([MD_CH_STAT_STATE ch, MD_CH_STAT_REASON ch] ++ portCounts) s.settleBeats t := by
  have run := exec_mdAbort (w := w) serves
  rw [mdAbort_waits ((served_mdState ..).trans runs) (by rwa [served_mdCh])] at run
  exact ⟨_, run, rfl, mdStop_state .., mdStop_reason .., served_md .., kept_append (kept_served s w (0x1C0108 + 64 * ch)) (kept_mdStop _ ch 6)⟩

theorem mdAbort_refused {w : Who} {ch : Fin 8} {s : State} (serves : s.serves w (0x1C0108 + 64 * ch) 4 = true) (stands : s.mdState ch ≠ 1) :
    exec (.mdAbort w ch) s = .next (((served s w (0x1C0108 + 64 * ch)).bump MD_CFG_REJ_COUNT).okay 0) := by
  have refused : (served s w (0x1C0108 + 64 * ch)).mdAbort ch = (served s w (0x1C0108 + 64 * ch)).bump MD_CFG_REJ_COUNT :=
    if_pos (by rwa [served_mdState])
  rw [← refused]
  exact exec_mdAbort serves

/-! ## A halt (R357) -/

theorem mdHalt_ends (s : State) (ch : Fin 8) : (s.mdHalt ch).mdState ch = 3 ∧ (s.mdHalt ch).bit MD_EVT_HALT ch = true ∧ (s.mdHalt ch).mdCh ch = {} ∧
    (∀ k, k ≠ ch.val → (s.mdHalt ch).mdCh k = s.mdCh k) ∧ Kept [MD_CH_STAT_STATE ch, MD_EVT_HALT, NY_BG_DL_RAISED 2] s (s.mdHalt ch) := by
  let u := (s.wr (MD_CH_STAT_STATE ch) 3).setBit MD_EVT_HALT ch
  have keyState : (NY_BG_DL_RAISED 2).key ≠ (MD_CH_STAT_STATE ch).key := by
    simp only [Fld.key, NY_BG_DL_RAISED, MD_CH_STAT_STATE]
    omega
  have rd {f : Fld} (h : f.key ≠ (NY_BG_DL_RAISED 2).key) : (s.mdHalt ch).rd f = u.rd f := rd_wr_other _ _ h
  refine ⟨?_, ?_, (mdCh_setMd u ch ch {}).trans (if_pos rfl), fun k hk => (mdCh_setMd u ch k {}).trans (if_neg hk), ?_⟩
  · refine (rd keyState.symm).trans ?_
    have other : u.rd (MD_CH_STAT_STATE ch) = (s.wr (MD_CH_STAT_STATE ch) 3).rd (MD_CH_STAT_STATE ch) := rd_wr_ne
    exact other.trans (rd_wr_same ..)
  · exact (congrArg (·.testBit ch) (rd (by decide))).trans (setBit_bit _ _ ch.isLt)
  · have held : Kept [MD_CH_STAT_STATE ch, MD_EVT_HALT, NY_BG_DL_RAISED 2] s u := kept_wr _ _ (by simp) (kept_wr _ _ (by simp) (kept_refl s))
    exact kept_wr (t := ({ u with ny := _ } : State).setMd ch {}) _ _ (by simp) held

theorem mdStoppingDone_halts {ch : Fin 8} {s : State} (stopping : s.mdState ch = 2) (answered : (s.mdCh ch).phase = 0) (up : s.islandUp 8 = true) :
    exec (.mdStoppingDone ch) s = .next (s.mdHalt ch) := congrArg Host.Outcome.next (if_pos ⟨stopping, answered, up⟩)

/-! ## Descriptors (R351 to R357) -/

theorem exec_mdDescriptorRead_far {ch : Fin 8} {s : State} (reads : (s.mdCh ch).phase = 1) (up : s.islandUp 8 = true) (runs : s.mdState ch = 1)
    (far : 2 ≤ s.mdCurSpace ch) : exec (.mdDescriptorRead ch) s = .next ((s.mdStop ch 4).setMd ch {}) := by
  refine congrArg Host.Outcome.next ?_
  dsimp only
  rw [if_neg (by simp [reads, up])]
  split
  · omega
  · omega
  · rw [if_neg (by omega)]

theorem mdDescriptorRead_stops {ch : Fin 8} {s : State} (reads : (s.mdCh ch).phase = 1) (up : s.islandUp 8 = true) (runs : s.mdState ch = 1)
    (far : 2 ≤ s.mdCurSpace ch) : ∃ t, exec (.mdDescriptorRead ch) s = .next t ∧ t.mdState ch = 2 ∧ t.rd (MD_CH_STAT_REASON ch) = 4 ∧ t.mdCh ch = {} ∧
      Kept [MD_CH_STAT_STATE ch, MD_CH_STAT_REASON ch] s t :=
  ⟨_, exec_mdDescriptorRead_far reads up runs far, mdStop_state s ch 4, mdStop_reason s ch 4, (mdCh_setMd ..).trans (if_pos rfl), kept_mdStop s ch 4⟩

theorem exec_mdDescriptorRead_near {ch : Fin 8} {s : State} (reads : (s.mdCh ch).phase = 1) (up : s.islandUp 8 = true) (near : s.mdCurSpace ch = 1)
    (inside : s.mdCur ch + 32 ≤ 0x40000) (clean : (s.mdCh ch).poison = false) :
    exec (.mdDescriptorRead ch) s = .next (s.mdDescribed ch .okay (s.sramRead (s.mdCur ch) 32)) := by
  refine congrArg Host.Outcome.next ?_
  dsimp only
  rw [if_neg (by simp [reads, up])]
  split
  · omega
  · rw [if_neg (by omega), clean]
    rfl
  · next h => exact absurd near h

theorem mdUnit_mdCh (s : State) (ch j : Nat) (start stop : Bool) : (s.mdUnit ch start stop).mdCh j = s.mdCh j := by
  have first := (cuStream_parts s (1 + ch) start [] stop).1 .md (by simp [checkUnitParts])
  have second := (cuStream_parts (s.cuStream (1 + ch) start [] stop) (9 + ch) start [] stop).1 .md (by simp [checkUnitParts])
  have md : (s.mdUnit ch start stop).md = s.md := by
    unfold State.mdUnit
    dsimp only
    split
    · exact first
    · exact second.trans first
  rw [State.mdCh, md, State.mdCh]

/-- What is asked of a channel that works on descriptor `d`: an access is out. -/
def Works (t : State) (ch : Nat) (d : List Byte) : Prop := (t.mdCh ch).desc = d ∧ (t.mdCh ch).phase = 2 ∧ (t.mdCh ch).acc.isSome = true

theorem mdIssue_mdCh (s : State) (ch : Nat) (a : MdAcc) : (s.mdIssue ch a).mdCh ch = { s.mdCh ch with acc := some a } := by
  have h : Keeps (· ∈ [Part.fab]) (s.setMd ch { s.mdCh ch with acc := some a }) (s.mdIssue ch a) := by
    refine keeps_ite (.refl _) (keeps_ite ?_ ?_)
    · apply +allowSynthFailures keeps_hostWrite
      case hk => exact .refl _
      exact ⟨by decide⟩
    · apply +allowSynthFailures keeps_hostRead
      case hk => exact .refl _
      exact ⟨by decide⟩
  have md : (s.mdIssue ch a).md = (s.setMd ch { s.mdCh ch with acc := some a }).md := h.1 .md (by decide)
  rw [State.mdCh, md]
  exact (mdCh_setMd s ch ch _).trans (if_pos rfl)

theorem mdIssue_works {s : State} {ch : Nat} {d : List Byte} (desc : (s.mdCh ch).desc = d) (phase : (s.mdCh ch).phase = 2) (a : MdAcc) :
    Works (s.mdIssue ch a) ch d := by
  rw [Works, mdIssue_mdCh]
  exact ⟨desc, phase, rfl⟩

theorem pageRoom_pos (a : Nat) {n : Nat} (h : 0 < n) : 0 < pageRoom a n := by
  unfold pageRoom
  omega

/-- With nothing read or written, a descriptor of some length has its first access to make. -/
theorem mdNextAcc_first {s : State} {ch : Nat} {d : List Byte} (fresh : s.mdCh ch = { desc := d, phase := 2 }) (len : mdLen d ≠ 0) :
    Works (s.mdNextAcc ch) ch d := by
  have desc : (s.mdCh ch).desc = d := by rw [fresh]
  have phase : (s.mdCh ch).phase = 2 := by rw [fresh]
  unfold State.mdNextAcc
  rw [fresh]
  dsimp only
  split
  · unfold State.mdNextCmp
    rw [fresh]
    dsimp only [firstDiff, List.length_nil, List.drop_nil]
    rw [if_neg (by omega)]
    have again : (s.setMd ch { desc := d, phase := 2 }).mdCh ch = { desc := d, phase := 2 } := (mdCh_setMd ..).trans (if_pos rfl)
    exact mdIssue_works (congrArg MdCh.desc again) (congrArg MdCh.phase again) _
  · rw [if_neg (fun h => len h.symm)]
    split
    · exact mdIssue_works desc phase _
    · rw [if_pos (by simpa using pageRoom_pos _ (Nat.pos_of_ne_zero len))]
      exact mdIssue_works desc phase _

theorem mdLen_of_formed {d : List Byte} (formed : mdMalformed d = false) : mdLen d ≠ 0 := by
  intro h
  simp [mdMalformed, h] at formed

theorem mdDescriptorRead_works {ch : Fin 8} {s : State} (reads : (s.mdCh ch).phase = 1) (up : s.islandUp 8 = true) (runs : s.mdState ch = 1)
    (near : s.mdCurSpace ch = 1) (inside : s.mdCur ch + 32 ≤ 0x40000) (clean : (s.mdCh ch).poison = false)
    (formed : mdMalformed (s.sramRead (s.mdCur ch) 32) = false) :
    ∃ t, exec (.mdDescriptorRead ch) s = .next t ∧ Works t ch (s.sramRead (s.mdCur ch) 32) := by
  refine ⟨_, exec_mdDescriptorRead_near reads up near inside clean, ?_⟩
  generalize s.sramRead (s.mdCur ch) 32 = d at *
  have described : s.mdDescribed ch .okay d = ((s.setMd ch { desc := d, phase := 2 }).mdUnit ch true false).mdNextAcc ch := by
    unfold State.mdDescribed
    dsimp only
    rw [if_neg (not_not.2 rfl), if_neg (by simp [runs, formed])]
  rw [described]
  refine mdNextAcc_first ?_ (mdLen_of_formed formed)
  rw [mdUnit_mdCh]
  exact (mdCh_setMd ..).trans (if_pos rfl)

/-! ## Data and write-backs that lie in the SRAM (R356, R364) -/

theorem exec_mdDataResponse_store {ch : Fin 8} {x : MdAcc} {s : State} (works : (s.mdCh ch).phase = 2) (acc : (s.mdCh ch).acc = some x)
    (up : s.islandUp 8 = true) (near : x.space = 1) (writes : x.write = true) :
    exec (.mdDataResponse ch) s = .next ((s.sramWrite x.addr x.data).mdReturned ch x .okay x.len []) := by
  refine congrArg Host.Outcome.next ?_
  dsimp only
  rw [works, acc]
  exact (if_neg (by simp [up])).trans ((if_neg (by omega)).trans ((if_pos near).trans (if_pos writes)))

theorem mdReturned_sram (u : State) (ch : Nat) (a : MdAcc) (r : Resp) (good : Nat) (data : List Byte) :
    (u.mdReturned ch a r good data).ny.sram = u.ny.sram := by
  have h : Keeps (fun p => p ∈ [Part.cu, .fab, .latch, .md, .ny, .regs, .sp, .transit]) u (u.mdReturned ch a r good data) := by
    apply +allowSynthFailures keeps_mdReturned
    case hk => exact Keeps.refl u
    all_goals exact ⟨by decide⟩
  exact h.1 .sram (by decide)

theorem exec_mdWritebackResponse_store {ch : Fin 8} {x : MdAcc} {s : State} (ends : (s.mdCh ch).phase = 3) (acc : (s.mdCh ch).acc = some x)
    (up : s.islandUp 8 = true) (near : x.space = 1) :
    exec (.mdWritebackResponse ch) s = .next ((s.sramWrite x.addr x.data).mdWrittenBack ch x .okay) := by
  refine congrArg Host.Outcome.next ?_
  rw [ends, acc]
  exact (if_neg (by simp [up])).trans (if_neg (by omega))

theorem mdWrittenBack_sram (u : State) (ch : Nat) (a : MdAcc) (r : Resp) : (u.mdWrittenBack ch a r).ny.sram = u.ny.sram := by
  have h : Keeps (fun p => p ∈ [Part.fab, .md, .ny, .regs, .sp]) u (u.mdWrittenBack ch a r) := by
    apply +allowSynthFailures keeps_mdWrittenBack
    case hk => exact Keeps.refl u
    all_goals exact ⟨by decide⟩
  exact h.1 .sram (by decide)

/-- Settles O15: the control of a channel by its states, descriptors by where they lie, and the stores by the bytes of the SRAM. -/
theorem managementDma : Obligations.ManagementDma := by
  unfold Obligations.ManagementDma
  refine ⟨fun w ch s serves idle steady => mdStart_runs serves idle steady,
    fun w ch s serves busy => mdRefused_ends (mdStart_refused serves busy),
    fun w ch s serves runs waits => mdAbort_stops serves runs waits,
    fun w ch s serves stands => mdRefused_ends (mdAbort_refused serves stands),
    fun ch s stopping answered up => ⟨_, mdStoppingDone_halts stopping answered up, mdHalt_ends s ch⟩,
    fun ch s reads up runs far => mdDescriptorRead_stops reads up runs far,
    fun ch s reads up runs near inside clean formed => mdDescriptorRead_works reads up runs near inside clean formed,
    fun ch x s works acc up near writes => ⟨_, exec_mdDataResponse_store works acc up near writes, sramRead_written (mdReturned_sram ..)⟩,
    fun ch x s ends acc up near => ⟨_, exec_mdWritebackResponse_store ends acc up near, sramRead_written (mdWrittenBack_sram ..)⟩⟩

end Sys2Proof.Proofs
end

section
/-! PROOFS. The spare lane: its commands, matching and switching (R80 to R85). -/

namespace Sys2Proof.Proofs

open Sys2Proof.Machine Sys2Proof.Laws

set_option Elab.async false

/-! ## What the refresh of a port leaves -/

/-- Keys of the lanes' and the spare lanes' registers, without the transmit idles and the fall of a link. -/
def spareKey (k : Nat) : Prop := 0x020300 * 32 ≤ k ∧ k < 0x040000 * 32 ∧ k % 32 ≠ 10 ∧ k ≠ LN_EVT_LINK_DOWN.key

/-- What a spare operation shows stands in `t` as in `s`, and the time too. -/
structure SpareKept (s t : State) : Prop where
  regs : KeptAt spareKey s t
  spares : t.spares = s.spares
  tm : t.tm = s.tm

namespace SpareKept

variable {a s t : State}

theorem refl (s : State) : SpareKept s s := ⟨.refl s, rfl, rfl⟩

theorem trans (h : SpareKept a s) (g : SpareKept s t) : SpareKept a t := ⟨h.regs.trans g.regs, g.spares.trans h.spares, g.tm.trans h.tm⟩

theorem spare (h : SpareKept s t) (p : Nat) : t.spare p = s.spare p := by rw [State.spare, h.spares, State.spare]

theorem rd (h : SpareKept s t) {f : Fld} (key : spareKey f.key) : t.rd f = s.rd f := h.regs _ key

theorem is (h : SpareKept s t) {f : Fld} (key : spareKey f.key) : t.is f = s.is f := congrArg (· == 1) (h.rd key)

theorem bit (h : SpareKept s t) {f : Fld} (key : spareKey f.key) (i : Nat) : t.bit f i = s.bit f i := congrArg (·.testBit i) (h.rd key)

end SpareKept

theorem linkFields_not_spare {c : Nat} (hc : c < 32) : ∀ f ∈ linkFields c, ¬ spareKey f.key := by
  simp only [linkFields, List.forall_mem_cons, Fld.key, spareKey, LN_CHAN_STAT_LINK, LN_EVT_LINK_DOWN, LN_CHAN_STAT_LINK_DOWN_CNT,
    LN_CHAN_STAT_LF_RX, LN_CHAN_STAT_RF_RX, LN_CHAN_STAT_STATE]
  refine ⟨?_, ?_, ?_, ?_, ?_, ?_, by simp⟩ <;> omega

theorem keptAt_low {s t : State} (h : LowKept s t) : KeptAt spareKey s t := fun k hk => h k hk.2.1

theorem refreshIdle_spare (s : State) (p : Nat) : SpareKept s (s.refreshIdle p) := by
  have parts : Keeps (· ∈ [Part.regs]) s (s.refreshIdle p) := by
    apply +allowSynthFailures keeps_refreshIdle
    case hk => exact .refl s
    exact ⟨by decide⟩
  refine ⟨KeptAt.each fun t k _ => .of_kept (fs := [LN_LANE_STAT_TX_IDLE (9 * p + k)]) (kept_wr _ _ (by simp) (kept_refl t)) ?_,
    parts.1 .spares (by decide), parts.1 .tm (by decide)⟩
  simp only [List.forall_mem_cons, Fld.key, spareKey, LN_LANE_STAT_TX_IDLE]
  exact ⟨by omega, by simp⟩

/-- The parts that a change of a port's lanes may reach. -/
def portParts (p : Part) : Prop := p ∈ [Part.chs, .fb, .frs, .gfps, .grps, .pairs, .regs, .rxs, .sys, .txs]

theorem portRefresh_spare (s : State) {p : Nat} (hp : p < 4) : SpareKept s (s.portRefresh p) := by
  have parts : Keeps portParts s (s.portRefresh p) := by
    apply +allowSynthFailures keeps_portRefresh
    case hk => exact .refl s
    all_goals exact ⟨by simp [portParts]⟩
  refine ⟨?_, parts.1 .spares (by simp [portParts]), parts.1 .tm (by simp [portParts])⟩
  have framers (t : State) : KeptAt spareKey t (t.each (List.range 8) fun s l => s.frRefresh p l) :=
    keptAt_low (LowKept.each (.refl t) fun _ _ h => h.frRefresh)
  have channels (t : State) : KeptAt spareKey t (t.each (List.range 8) fun s k => s.chanRefresh (8 * p + k)) :=
    .each fun u k hk => .of_kept (kept_chanRefresh u _) (linkFields_not_spare (by have := List.mem_range.mp hk; omega))
  exact (framers s).trans ((channels _).trans ((refreshIdle_spare _ p).regs.trans (keptAt_low (LowKept.refl _).pairsEval)))

theorem chanAt_lt {s : State} {p l c : Nat} (hp : p < 4) (h : s.chanAt p l = some c) : c < 32 := by
  obtain ⟨k, hk, rfl⟩ := List.mem_map.1 (List.mem_of_find?_eq_some h)
  have := List.mem_range.1 hk
  omega

theorem posHit_spare (s : State) {p : Nat} (hp : p < 4) (l : Nat) : SpareKept s (s.posHit p l) := by
  have parts : Keeps portParts s (s.posHit p l) := by
    apply +allowSynthFailures keeps_posHit
    case hk => exact .refl s
    all_goals exact ⟨by simp [portParts]⟩
  refine ⟨?_, parts.1 .spares (by simp [portParts]), parts.1 .tm (by simp [portParts])⟩
  unfold State.posHit
  split
  · exact keptAt_low (LowKept.refl s).frLeave.setFr
  · split
    · next c at_ =>
      split
      · exact .of_kept (kept_chanLeave (kept_flds rfl (kept_refl s))) (linkFields_not_spare (chanAt_lt hp at_))
      · exact .refl s
    · exact .refl s

/-! ## The write of `LN_SPARE_CTRL` (R82) -/

/-- The fields of `LN_SPARE_CTRL` that keep what is written. -/
def ctrlFields (p : Nat) : List Fld :=
  [LN_SPARE_CTRL_POS p, LN_SPARE_CTRL_MATCH p, LN_SPARE_CTRL_FORCE p, LN_SPARE_CTRL_BRIDGE p, LN_SPARE_CTRL_MATCH_US p, LN_SPARE_CTRL_CONFIRM_W p]

/-- `LN_SPARE_CTRL` takes a word. -/
def ctrlWritten (s : State) (p v : Nat) : State :=
  (((((s.wr (LN_SPARE_CTRL_POS p) (bits v 4 3)).wr (LN_SPARE_CTRL_MATCH p) (bits v 8 1)).wr (LN_SPARE_CTRL_FORCE p) (bits v 9 1)).wr
    (LN_SPARE_CTRL_BRIDGE p) (bits v 10 1)).wr (LN_SPARE_CTRL_MATCH_US p) (bits v 16 8)).wr (LN_SPARE_CTRL_CONFIRM_W p) (bits v 24 8)

theorem spareCtrl_plain : ∀ p : Fin 4, (selTable.find? (fun d => d.lo ≤ 0x020400 + 8 * p.val && 0x020400 + 8 * p.val < d.lo + d.span)).isNone = true := by
  decide +kernel

theorem spareCtrl_fields : ∀ p : Fin 4, fieldsAt (0x020400 + 8 * p.val) =
    [⟨0, 3, .wo, 0⟩, ⟨4, 3, .rw, 0⟩, ⟨8, 1, .rw, 1⟩, ⟨9, 1, .rw, 0⟩, ⟨10, 1, .rw, 1⟩, ⟨16, 8, .rw, 100⟩, ⟨24, 8, .rw, 16⟩] := by
  decide +kernel

theorem writePlain_spareCtrl (s : State) (p : Fin 4) (v : Nat) : s.writePlain (0x020400 + 8 * p.val) v = ctrlWritten s p v := by
  have plain : s.resolve (0x020400 + 8 * p.val) = some (0x020400 + 8 * p.val) := by
    unfold State.resolve
    rw [Option.isNone_iff_eq_none.1 (spareCtrl_plain p)]
  unfold State.writePlain
  rw [plain]
  dsimp only
  rw [spareCtrl_fields]
  rfl

theorem kept_ctrlWritten (s : State) (p v : Nat) : Kept (ctrlFields p) s (ctrlWritten s p v) := by
  unfold ctrlWritten
  repeat refine kept_wr _ _ (by simp [ctrlFields]) ?_
  exact kept_refl s

theorem is_wr_bits {s : State} {o lo v i : Nat} : (s.wr ⟨o, lo, 1⟩ (bits v i 1)).is ⟨o, lo, 1⟩ = v.testBit i := by
  have same : bits v i 1 = bitN v i := by simp [bits, bitN]
  rw [same]
  exact is_wr_bitN

theorem ctrlWritten_match (s : State) (p v : Nat) : (ctrlWritten s p v).is (LN_SPARE_CTRL_MATCH p) = v.testBit 8 := by
  have later : Kept [LN_SPARE_CTRL_FORCE p, LN_SPARE_CTRL_BRIDGE p, LN_SPARE_CTRL_MATCH_US p, LN_SPARE_CTRL_CONFIRM_W p]
      ((s.wr (LN_SPARE_CTRL_POS p) (bits v 4 3)).wr (LN_SPARE_CTRL_MATCH p) (bits v 8 1)) (ctrlWritten s p v) :=
    kept_wr _ _ (by simp) (kept_wr _ _ (by simp) (kept_wr _ _ (by simp) (kept_wr _ _ (by simp) (kept_refl _))))
  refine (is_kept later ?_).trans is_wr_bits
  simp [Fld.key, LN_SPARE_CTRL_FORCE, LN_SPARE_CTRL_BRIDGE, LN_SPARE_CTRL_MATCH_US, LN_SPARE_CTRL_CONFIRM_W, LN_SPARE_CTRL_MATCH]

theorem ctrlWritten_bridge (s : State) (p v : Nat) : (ctrlWritten s p v).is (LN_SPARE_CTRL_BRIDGE p) = v.testBit 10 := by
  let u := ((s.wr (LN_SPARE_CTRL_POS p) (bits v 4 3)).wr (LN_SPARE_CTRL_MATCH p) (bits v 8 1)).wr (LN_SPARE_CTRL_FORCE p) (bits v 9 1)
  have later : Kept [LN_SPARE_CTRL_MATCH_US p, LN_SPARE_CTRL_CONFIRM_W p] (u.wr (LN_SPARE_CTRL_BRIDGE p) (bits v 10 1)) (ctrlWritten s p v) :=
    kept_wr _ _ (by simp) (kept_wr _ _ (by simp) (kept_refl _))
  refine (is_kept later ?_).trans is_wr_bits
  simp [Fld.key, LN_SPARE_CTRL_MATCH_US, LN_SPARE_CTRL_CONFIRM_W, LN_SPARE_CTRL_BRIDGE]

/-! ## Commands (R81, R82) -/

section
variable {w : Who} {p : Fin 4} {v : Word} {s : State} (serves : s.serves w (0x020400 + 8 * p) 4 = true)

/-- The word of an operation: the fields of `v` with `OP` in their place. -/
def opWord (v op : Nat) : Nat := v - v % 8 + op

theorem opWord_op (v : Nat) {op : Nat} (h : op < 8) : opWord v op % 8 = op := by
  unfold opWord
  omega

theorem opWord_high (v : Nat) {op i : Nat} (h : op < 8) : opWord v op / 2 ^ (i + 3) = v / 2 ^ (i + 3) := by
  have eight : opWord v op / 8 = v / 8 := by
    unfold opWord
    omega
  rw [Nat.add_comm, Nat.pow_add, ← Nat.div_div_eq_div_mul, ← Nat.div_div_eq_div_mul]
  exact congrArg (· / 2 ^ i) eight

theorem opWord_pos (v : Nat) {op : Nat} (h : op < 8) : bits (opWord v op) 4 3 = bits v 4 3 := congrArg (· % 2 ^ 3) (opWord_high (i := 1) v h)

theorem opWord_bit (v : Nat) {op i : Nat} (h : op < 8) : (opWord v op).testBit (i + 3) = v.testBit (i + 3) := by
  rw [Nat.testBit_eq_decide_div_mod_eq, Nat.testBit_eq_decide_div_mod_eq, opWord_high v h]

include serves

theorem exec_lnSubstitute : exec (.lnSubstitute w p v) s = .next (((served s w (0x020400 + 8 * p)).spareCtrl p (opWord v.toNat 1)).okay 0) :=
  congrArg Host.Outcome.next (guardWrite_served serves _)

theorem exec_txRelease : exec (.txRelease w p v) s = .next (((served s w (0x020400 + 8 * p)).spareCtrl p (opWord v.toNat 2)).okay 0) :=
  congrArg Host.Outcome.next (guardWrite_served serves _)

theorem exec_lnRestore : exec (.lnRestore w p v) s = .next (((served s w (0x020400 + 8 * p)).spareCtrl p (opWord v.toNat 3)).okay 0) :=
  congrArg Host.Outcome.next (guardWrite_served serves _)

theorem exec_spareAbort : exec (.spareAbort w p v) s = .next (((served s w (0x020400 + 8 * p)).spareCtrl p (opWord v.toNat 4)).okay 0) :=
  congrArg Host.Outcome.next (guardWrite_served serves _)

end

/-! ## What the commands do -/

section
variable {u : State} {p : Fin 4} {v : Nat}

/-- The state an operation that is asked for goes to. -/
def firstState (v : Nat) : Nat := if v.testBit 8 then pMATCH else pSWITCH

theorem firstState_lt (v : Nat) : firstState v < 2 ^ 3 := by
  unfold firstState
  split <;> decide

/-- A substitution of position `l` has begun. -/
def substituting (u : State) (p v : Nat) : State :=
  let f := ctrlWritten u p v
  (((f.setSpare p { since := f.tm.tick, bridge := v.testBit 10 }).wr (LN_SPARE_STAT_STOOD_POS p) (bits v 4 3)).put (LN_SPARE_STAT_TX_BRIDGED p)
    (v.testBit 10)).wr (LN_SPARE_STAT_STATE p) (firstState v)

theorem spareCtrl_substitutes (op : v % 8 = 1) (idle : u.spState p = pIDLE) (arg : u.spareArg p (bits v 4 3) = true) (evac : u.evacOf p = false) :
    u.spareCtrl p v = (substituting u p v).refreshIdle p := by
  have set (x : SpareSt) : ((ctrlWritten u p v).setSpare p x).is (LN_SPARE_CTRL_MATCH p) = v.testBit 8 := ctrlWritten_match u p v
  unfold State.spareCtrl
  dsimp only
  rw [if_pos op, if_neg (not_not.2 idle), if_neg (by simp [arg]), if_neg (by simp [evac])]
  simp only [writePlain_spareCtrl, ctrlWritten_bridge, set]
  rfl

theorem substituting_shows (u : State) (p : Fin 4) (v : Nat) : (substituting u p v).spState p = firstState v ∧
    (substituting u p v).rd (LN_SPARE_STAT_STOOD_POS p) = bits v 4 3 ∧ (substituting u p v).is (LN_SPARE_STAT_TX_BRIDGED p) = v.testBit 10 ∧
    (substituting u p v).spare p = { since := u.tm.tick, bridge := v.testBit 10 } := by
  let f := (ctrlWritten u p v).setSpare p { since := u.tm.tick, bridge := v.testBit 10 }
  let g := f.wr (LN_SPARE_STAT_STOOD_POS p) (bits v 4 3)
  have pos : (substituting u p v).rd (LN_SPARE_STAT_STOOD_POS p) = (g.put (LN_SPARE_STAT_TX_BRIDGED p) (v.testBit 10)).rd (LN_SPARE_STAT_STOOD_POS p) :=
    rd_wr_ne
  have pos' : (g.put (LN_SPARE_STAT_TX_BRIDGED p) (v.testBit 10)).rd (LN_SPARE_STAT_STOOD_POS p) = g.rd (LN_SPARE_STAT_STOOD_POS p) := rd_wr_ne
  have bridged : (substituting u p v).is (LN_SPARE_STAT_TX_BRIDGED p) = (g.put (LN_SPARE_STAT_TX_BRIDGED p) (v.testBit 10)).is (LN_SPARE_STAT_TX_BRIDGED p) :=
    is_wr_ne
  refine ⟨(rd_wr_same ..).trans (Nat.mod_eq_of_lt (firstState_lt v)), pos.trans (pos'.trans ((rd_wr_same ..).trans ?_)), bridged.trans is_put,
    (spare_setSpare (ctrlWritten u p v) p p _).trans (if_pos rfl)⟩
  exact Nat.mod_eq_of_lt (Nat.mod_lt _ (by decide))

theorem spareCtrl_releases (op : v % 8 = 2) (active : u.spState p = pACTIVE) :
    u.spareCtrl p v = ((ctrlWritten u p v).wr (LN_SPARE_STAT_TX_BRIDGED p) 0).refreshIdle p := by
  unfold State.spareCtrl
  dsimp only
  rw [if_neg (by omega), if_pos op, if_neg (not_not.2 active), writePlain_spareCtrl]

/-- A restoration has begun. -/
def restoring (u : State) (p v : Nat) : State :=
  let f := ctrlWritten u p v
  ((f.setSpare p { reverse := true, since := f.tm.tick, bridge := true }).wr (LN_SPARE_STAT_TX_BRIDGED p) 1).wr (LN_SPARE_STAT_STATE p) (firstState v)

theorem spareCtrl_restores (op : v % 8 = 3) (active : u.spState p = pACTIVE) : u.spareCtrl p v = (restoring u p v).refreshIdle p := by
  have set (x : SpareSt) : ((ctrlWritten u p v).setSpare p x).is (LN_SPARE_CTRL_MATCH p) = v.testBit 8 := ctrlWritten_match u p v
  unfold State.spareCtrl
  dsimp only
  rw [if_neg (by omega), if_neg (by omega), if_pos op, if_neg (not_not.2 active)]
  simp only [writePlain_spareCtrl, set]
  rfl

theorem restoring_shows (u : State) (p : Fin 4) (v : Nat) : (restoring u p v).spState p = firstState v ∧
    (restoring u p v).is (LN_SPARE_STAT_TX_BRIDGED p) = true ∧ (restoring u p v).spare p = { reverse := true, since := u.tm.tick, bridge := true } := by
  let f := (ctrlWritten u p v).setSpare p { reverse := true, since := u.tm.tick, bridge := true }
  have bridged : (restoring u p v).is (LN_SPARE_STAT_TX_BRIDGED p) = (f.raise (LN_SPARE_STAT_TX_BRIDGED p)).is (LN_SPARE_STAT_TX_BRIDGED p) := is_wr_ne
  exact ⟨(rd_wr_same ..).trans (Nat.mod_eq_of_lt (firstState_lt v)), bridged.trans is_raise,
    (spare_setSpare (ctrlWritten u p v) p p { reverse := true, since := u.tm.tick, bridge := true }).trans (if_pos rfl)⟩

theorem spareCtrl_aborts (op : v % 8 = 4) (busy : u.spState p ≠ pIDLE) (busy' : u.spState p ≠ pACTIVE) :
    u.spareCtrl p v = (ctrlWritten u p v).spareEnd p 7 := by
  unfold State.spareCtrl
  dsimp only
  rw [if_neg (by omega), if_neg (by omega), if_neg (by omega), if_pos op, if_neg (by simp [busy, busy']), writePlain_spareCtrl]

/-- Operation `op` is not for the state the spare lane is in. -/
def unfit (u : State) (p op : Nat) : Prop :=
  (op = 1 ∧ u.spState p ≠ pIDLE) ∨ ((op = 2 ∨ op = 3) ∧ u.spState p ≠ pACTIVE) ∨ (op = 4 ∧ (u.spState p = pIDLE ∨ u.spState p = pACTIVE))

theorem spareCtrl_refuses (h : unfit u p (v % 8)) : u.spareCtrl p v = u.spareRefuse p 1 := by
  unfold State.spareCtrl
  dsimp only
  rcases h with ⟨op, st⟩ | ⟨op | op, st⟩ | ⟨op, st⟩
  · rw [if_pos op, if_pos st]
  · rw [if_neg (by omega), if_pos op, if_pos st]
  · rw [if_neg (by omega), if_neg (by omega), if_pos op, if_pos st]
  · rw [if_neg (by omega), if_neg (by omega), if_neg (by omega), if_pos op, if_pos (by simpa using st)]

/-! ## The end of an operation (R81) -/

/-- What an operation that has ended shows. -/
def EndShown (t : State) (p result : Nat) : Prop :=
  t.rd (LN_SPARE_STAT_RESULT p) = result ∧ t.bit LN_EVT_SPARE_DONE p = true ∧ t.spState p = pIDLE ∧ t.spare p = {}

theorem EndShown.of_kept {s t : State} {result : Nat} (h : EndShown s p result) (kept : SpareKept s t) : EndShown t p result := by
  obtain ⟨res, done, state, spare⟩ := h
  refine ⟨(kept.rd ?_).trans res, (kept.bit ?_ _).trans done, (kept.rd ?_).trans state, (kept.spare _).trans spare⟩
  · simp only [spareKey, Fld.key, LN_SPARE_STAT_RESULT, LN_EVT_LINK_DOWN]
    omega
  · unfold spareKey
    decide
  · simp only [spareKey, Fld.key, LN_SPARE_STAT_STATE, LN_EVT_LINK_DOWN]
    omega

/-- The end of an operation, before the port follows. -/
def endedOp (s : State) (p result : Nat) : State :=
  ((((s.wr (LN_SPARE_STAT_RESULT p) result).setBit LN_EVT_SPARE_DONE p).setSpare p {}).wr (LN_SPARE_STAT_STATE p) pIDLE).wr (LN_SPARE_STAT_TX_BRIDGED p) 0

theorem endedOp_shows (s : State) (p : Fin 4) {result : Nat} (h : result < 16) : EndShown (endedOp s p result) p result := by
  let u := s.wr (LN_SPARE_STAT_RESULT p) result
  let v := ((u.setBit LN_EVT_SPARE_DONE p).setSpare p {}).wr (LN_SPARE_STAT_STATE p) pIDLE
  have later : Kept [LN_EVT_SPARE_DONE, LN_SPARE_STAT_STATE p, LN_SPARE_STAT_TX_BRIDGED p] u (endedOp s p result) :=
    kept_wr (t := v) _ _ (by simp) (kept_wr _ _ (by simp) (kept_flds rfl (kept_wr (t := u) LN_EVT_SPARE_DONE _ (by simp) (kept_refl u))))
  have last : Kept [LN_SPARE_STAT_STATE p, LN_SPARE_STAT_TX_BRIDGED p] (u.setBit LN_EVT_SPARE_DONE p) (endedOp s p result) :=
    kept_wr (t := v) _ _ (by simp) (kept_wr _ _ (by simp) (kept_flds rfl (kept_refl _)))
  have state : (endedOp s p result).spState p = v.spState p := rd_wr_ne
  refine ⟨(rd_kept later _ ?_).trans ((rd_wr_same ..).trans (Nat.mod_eq_of_lt h)), (congrArg (·.testBit p) (rd_kept last _ ?_)).trans (setBit_bit _ _ p.isLt),
    state.trans (rd_wr_same ..), (spare_setSpare (u.setBit LN_EVT_SPARE_DONE p) p p {}).trans (if_pos rfl)⟩
  · simp only [List.map_cons, List.map_nil, List.mem_cons, List.not_mem_nil, or_false, not_or, Fld.key, LN_EVT_SPARE_DONE, LN_SPARE_STAT_STATE, LN_SPARE_STAT_TX_BRIDGED,
      LN_SPARE_STAT_RESULT]
    omega
  · simp only [List.map_cons, List.map_nil, List.mem_cons, List.not_mem_nil, or_false, not_or, Fld.key, LN_EVT_SPARE_DONE, LN_SPARE_STAT_STATE, LN_SPARE_STAT_TX_BRIDGED]
    omega

/-- p.8 feeds no position any more. -/
def standsDown (s : State) (i : Nat) : State := s.wr (LN_LANE_STAT_STANDS_IN i) 0

theorem standsDown_shown {s : State} {p : Fin 4} {result : Nat} (i : Nat) (h : EndShown s p result) (hi : i < 36) : EndShown (standsDown s i) p result := by
  obtain ⟨res, done, state, spare⟩ := h
  have res' : (standsDown s i).rd (LN_SPARE_STAT_RESULT p) = s.rd (LN_SPARE_STAT_RESULT p) := rd_wr_ne
  have done' : (standsDown s i).rd LN_EVT_SPARE_DONE = s.rd LN_EVT_SPARE_DONE := rd_wr_ne
  have state' : (standsDown s i).spState p = s.spState p := rd_wr_ne
  exact ⟨res'.trans res, (congrArg (·.testBit p.val) done').trans done, state'.trans state, spare⟩

theorem laneAt_lt (s : State) {p : Nat} (hp : p < 4) (l : Nat) : (s.laneAt p l).getD 0 < 36 := by
  cases h : s.laneAt p l with
  | none => decide
  | some i =>
    obtain ⟨k, hk, rfl⟩ := List.mem_map.1 (List.mem_of_find?_eq_some h)
    have := List.mem_range.1 hk
    simp only [Option.getD_some]
    omega

theorem spareEnd_shown (s : State) (p : Fin 4) {result : Nat} (h : result < 16) : EndShown (s.spareEnd p result) p result := by
  have ended := endedOp_shows s p h
  have unfolded : s.spareEnd p result =
      if (s.spare p).reverse then
        let u := endedOp s p result
        let w := (u.laneAt p (u.rd (LN_SPARE_STAT_STOOD_POS p))).getD 0
        let v := u.setLane w { u.lane w with delay := 2048 }
        ((standsDown v ((v.laneAt p 8).getD 0)).posHit p (v.rd (LN_SPARE_STAT_STOOD_POS p))).portRefresh p
      else (endedOp s p result).refreshIdle p := rfl
  rw [unfolded]
  generalize endedOp s p result = u at ended
  dsimp only
  split
  · generalize hv : u.setLane _ _ = v
    have set : EndShown v p result := by
      rw [← hv]
      exact ended
    have down := standsDown_shown _ set (laneAt_lt v p.isLt 8)
    generalize standsDown v _ = d at *
    have hit := down.of_kept (posHit_spare d p.isLt (v.rd (LN_SPARE_STAT_STOOD_POS p)))
    generalize d.posHit p _ = e at *
    exact hit.of_kept (portRefresh_spare e p.isLt)
  · exact ended.of_kept (refreshIdle_spare u p)

theorem spareEnd_tm (s : State) (p result : Nat) : (s.spareEnd p result).tm = s.tm := by
  have parts : Keeps (fun q => portParts q ∨ q ∈ [Part.lanes, .spares]) s (s.spareEnd p result) := by
    apply +allowSynthFailures keeps_spareEnd
    case hk => exact .refl s
    all_goals exact ⟨by simp [portParts]⟩
  exact parts.1 .tm (by simp [portParts])

end

/-! ## The commands by the write that asks for them -/

section
variable {w : Who} {p : Fin 4} {v : Word} {s : State}

theorem spareStat_unit (p : Fin 4) {lo n : Nat} (h : lo < 32) : unitKey (Fld.key ⟨0x020404 + 8 * p.val, lo, n⟩) := by
  simp only [unitKey, Fld.key, CL_READS_LO_COUNT, CL_READS_HI_COUNT]
  omega

section
variable (s : State) (w : Who) (off : Nat) (p : Fin 4)

theorem served_spState : (served s w off).spState p = s.spState p := served_rd s w off (spareStat_unit p (by decide))

theorem served_spare : (served s w off).spare p = s.spare p := by
  rw [State.spare, show (served s w off).spares = s.spares from served_same s w off (p := .spares) (by decide) (by decide), State.spare]

theorem served_sdField (o lo n : Nat) : (served s w off).sdField o lo n = s.sdField o lo n := by
  rw [State.sdField, show (served s w off).sys = s.sys from served_same s w off (p := .sys) (by decide) (by decide), State.sdField]

theorem served_laneAt (l : Nat) : (served s w off).laneAt p l = s.laneAt p l := by
  unfold State.laneAt State.lanePresent
  simp only [served_sdField]

theorem served_evacOf : (served s w off).evacOf p = s.evacOf p := by
  rw [State.evacOf, show (served s w off).sv = s.sv from served_same s w off (p := .sv) (by decide) (by decide), State.evacOf]

theorem served_spareArg (l : Nat) : (served s w off).spareArg p l = s.spareArg p l := by
  have up (i : Nat) (hi : i < 36) : (served s w off).laneUp i = s.laneUp i := by
    rw [State.laneUp, served_rd s w off (by simp only [unitKey, Fld.key, LN_LANE_STAT_STATE, CL_READS_LO_COUNT, CL_READS_HI_COUNT]; omega), State.laneUp]
  have rate (i : Nat) : (served s w off).laneRate i = s.laneRate i := served_sdField ..
  have inside := laneAt_lt s p.isLt 8
  unfold State.spareArg
  rw [served_laneAt, served_laneAt]
  cases hi : s.laneAt p 8 with
  | none => rfl
  | some i =>
    rw [hi] at inside
    cases s.laneAt p l with
    | none => rfl
    | some j =>
      dsimp only
      rw [up i inside, rate, rate]

theorem served_tm : (served s w off).tm = s.tm := served_same s w off (p := .tm) (by decide) (by decide)

end

theorem spareKept_okay (u : State) (n : Nat) : SpareKept u (u.okay n) := ⟨.refl u, rfl, rfl⟩

theorem getLsbD_opWord (v : Word) {op i : Nat} (h : op < 8) : (opWord v.toNat op).testBit (i + 3) = v.getLsbD (i + 3) := opWord_bit v.toNat h

theorem firstState_opWord (v : Word) {op : Nat} (h : op < 8) : firstState (opWord v.toNat op) = if v.getLsbD 8 then pMATCH else pSWITCH := by
  rw [firstState, getLsbD_opWord v (i := 5) h]

theorem spareStat_key (p : Fin 4) {lo n : Nat} (h : lo < 32) (h' : lo ≠ 10) : spareKey (Fld.key ⟨0x020404 + 8 * p.val, lo, n⟩) := by
  simp only [spareKey, Fld.key, LN_EVT_LINK_DOWN]
  omega

theorem lnSubstitute_begins (serves : s.serves w (0x020400 + 8 * p) 4 = true) (idle : s.spState p = pIDLE)
    (arg : s.spareArg p (bits v.toNat 4 3) = true) (evac : s.evacOf p = false) :
    ∃ t, exec (.lnSubstitute w p v) s = .next t ∧ t.sp = ⟨true, 0⟩ ∧
      t.spState p = (if v.getLsbD 8 then pMATCH else pSWITCH) ∧ t.rd (LN_SPARE_STAT_STOOD_POS p) = bits v.toNat 4 3 ∧
      t.is (LN_SPARE_STAT_TX_BRIDGED p) = v.getLsbD 10 ∧ t.spare p = { since := s.tm.tick, bridge := v.getLsbD 10 } := by
  have run := exec_lnSubstitute (v := v) serves
  have tm := served_tm s w (0x020400 + 8 * p)
  rw [spareCtrl_substitutes (opWord_op v.toNat (by decide)) ((served_spState ..).trans idle)
    (by rw [opWord_pos v.toNat (by decide), served_spareArg, arg]) ((served_evacOf ..).trans evac)] at run
  generalize served s w (0x020400 + 8 * p) = u at *
  obtain ⟨state, pos, bridged, spare⟩ := substituting_shows u p (opWord v.toNat 1)
  have kept := (refreshIdle_spare (substituting u p (opWord v.toNat 1)) p).trans (spareKept_okay _ 0)
  rw [firstState_opWord v (by decide)] at state
  rw [opWord_pos v.toNat (by decide)] at pos
  rw [getLsbD_opWord v (i := 7) (by decide)] at bridged spare
  rw [tm] at spare
  generalize substituting u p (opWord v.toNat 1) = x at *
  exact ⟨_, run, rfl, (kept.rd (spareStat_key p (by decide) (by decide))).trans state, (kept.rd (spareStat_key p (by decide) (by decide))).trans pos,
    (kept.is (spareStat_key p (by decide) (by decide))).trans bridged, (kept.spare p).trans spare⟩

theorem txRelease_ends (serves : s.serves w (0x020400 + 8 * p) 4 = true) (active : s.spState p = pACTIVE) :
    ∃ t, exec (.txRelease w p v) s = .next t ∧ t.sp = ⟨true, 0⟩ ∧ t.spState p = pACTIVE ∧ t.is (LN_SPARE_STAT_TX_BRIDGED p) = false ∧
      t.spare p = s.spare p := by
  have run := exec_txRelease (v := v) serves
  have active' := (served_spState s w (0x020400 + 8 * p) p).trans active
  have spare := served_spare s w (0x020400 + 8 * p) p
  rw [spareCtrl_releases (opWord_op v.toNat (by decide)) active'] at run
  generalize served s w (0x020400 + 8 * p) = u at *
  have written : (ctrlWritten u p (opWord v.toNat 2)).spState p = pACTIVE := by
    refine (rd_kept (kept_ctrlWritten u p (opWord v.toNat 2)) (LN_SPARE_STAT_STATE p) ?_).trans active'
    simp only [ctrlFields, List.map_cons, List.map_nil, List.mem_cons, List.not_mem_nil, or_false, not_or, Fld.key, LN_SPARE_CTRL_POS, LN_SPARE_CTRL_MATCH,
      LN_SPARE_CTRL_FORCE, LN_SPARE_CTRL_BRIDGE, LN_SPARE_CTRL_MATCH_US, LN_SPARE_CTRL_CONFIRM_W, LN_SPARE_STAT_STATE]
    omega
  have same : (ctrlWritten u p (opWord v.toNat 2)).spare p = u.spare p := rfl
  generalize ctrlWritten u p (opWord v.toNat 2) = x at *
  have kept := (refreshIdle_spare (x.wr (LN_SPARE_STAT_TX_BRIDGED p) 0) p).trans (spareKept_okay _ 0)
  have state : (x.wr (LN_SPARE_STAT_TX_BRIDGED p) 0).spState p = x.spState p := rd_wr_ne
  have off : (x.wr (LN_SPARE_STAT_TX_BRIDGED p) 0).is (LN_SPARE_STAT_TX_BRIDGED p) = false := is_put (b := false)
  have same' : (x.wr (LN_SPARE_STAT_TX_BRIDGED p) 0).spare p = x.spare p := rfl
  exact ⟨_, run, rfl, (kept.rd (spareStat_key p (by decide) (by decide))).trans (state.trans written),
    (kept.is (spareStat_key p (by decide) (by decide))).trans off, (kept.spare p).trans (same'.trans (same.trans spare))⟩

theorem lnRestore_begins (serves : s.serves w (0x020400 + 8 * p) 4 = true) (active : s.spState p = pACTIVE) :
    ∃ t, exec (.lnRestore w p v) s = .next t ∧ t.sp = ⟨true, 0⟩ ∧ t.spState p = (if v.getLsbD 8 then pMATCH else pSWITCH) ∧
      t.is (LN_SPARE_STAT_TX_BRIDGED p) = true ∧ t.spare p = { reverse := true, since := s.tm.tick, bridge := true } := by
  have run := exec_lnRestore (v := v) serves
  have tm := served_tm s w (0x020400 + 8 * p)
  rw [spareCtrl_restores (opWord_op v.toNat (by decide)) ((served_spState ..).trans active)] at run
  generalize served s w (0x020400 + 8 * p) = u at *
  obtain ⟨state, bridged, spare⟩ := restoring_shows u p (opWord v.toNat 3)
  have kept := (refreshIdle_spare (restoring u p (opWord v.toNat 3)) p).trans (spareKept_okay _ 0)
  rw [firstState_opWord v (by decide)] at state
  rw [tm] at spare
  generalize restoring u p (opWord v.toNat 3) = x at *
  exact ⟨_, run, rfl, (kept.rd (spareStat_key p (by decide) (by decide))).trans state,
    (kept.is (spareStat_key p (by decide) (by decide))).trans bridged, (kept.spare p).trans spare⟩

theorem spareAbort_ends (serves : s.serves w (0x020400 + 8 * p) 4 = true) (busy : s.spState p ≠ pIDLE) (busy' : s.spState p ≠ pACTIVE) :
    ∃ t, exec (.spareAbort w p v) s = .next t ∧ t.sp = ⟨true, 0⟩ ∧ EndShown t p 7 := by
  have run := exec_spareAbort (v := v) serves
  rw [spareCtrl_aborts (opWord_op v.toNat (by decide)) (by rwa [served_spState]) (by rwa [served_spState])] at run
  generalize ctrlWritten (served s w (0x020400 + 8 * p)) p (opWord v.toNat 4) = u at *
  exact ⟨_, run, rfl, spareEnd_shown u p (by decide)⟩

/-- A refused write of `OP` shows result 1 and counts, and changes nothing else. -/
theorem spareRefuse_ends {c : Instr} {off : Nat} (run : exec c s = .next (((served s w off).spareRefuse p 1).okay 0)) :
    ∃ t, exec c s = .next t ∧ t.sp = ⟨true, 0⟩ ∧ t.rd (LN_SPARE_STAT_RESULT p) = 1 ∧ t.rd LN_CFG_REJ_COUNT = upBy s LN_CFG_REJ_COUNT 1 ∧
      t.spare p = s.spare p ∧ Kept ([LN_SPARE_STAT_RESULT p, LN_CFG_REJ_COUNT] ++ portCounts) s.settleBeats t := by
  have kept := kept_served s w off
  have spare := served_spare s w off p
  have count : (served s w off).rd LN_CFG_REJ_COUNT = s.rd LN_CFG_REJ_COUNT := served_rd s w off (by unfold unitKey; decide)
  generalize served s w off = u at *
  have other : (u.wr (LN_SPARE_STAT_RESULT p) 1).rd LN_CFG_REJ_COUNT = u.rd LN_CFG_REJ_COUNT := rd_wr_ne
  have result : (u.spareRefuse p 1).rd (LN_SPARE_STAT_RESULT p) = (u.wr (LN_SPARE_STAT_RESULT p) 1).rd (LN_SPARE_STAT_RESULT p) := rd_wr_ne
  have counted : (u.spareRefuse p 1).rd LN_CFG_REJ_COUNT = upBy (u.wr (LN_SPARE_STAT_RESULT p) 1) LN_CFG_REJ_COUNT 1 := rd_bump_same ..
  have changed : Kept [LN_SPARE_STAT_RESULT p, LN_CFG_REJ_COUNT] u (u.spareRefuse p 1) := kept_wr _ _ (by simp) (kept_wr _ _ (by simp) (kept_refl u))
  exact ⟨_, run, rfl, result.trans (rd_wr_same ..), counted.trans (upBy_congr (other.trans count)), spare, kept_append kept changed⟩

theorem spareCtrl_unfit {op : Nat} (h : op < 8) (bad : unfit s p op) :
    (served s w (0x020400 + 8 * p)).spareCtrl p (opWord v.toNat op) = (served s w (0x020400 + 8 * p)).spareRefuse p 1 :=
  spareCtrl_refuses (by rw [opWord_op v.toNat h, unfit, served_spState]; exact bad)

theorem spare_refuses (serves : s.serves w (0x020400 + 8 * p) 4 = true) (c : Instr)
    (h : (c = Instr.lnSubstitute w p v ∧ s.spState p ≠ pIDLE) ∨ (c = .txRelease w p v ∧ s.spState p ≠ pACTIVE) ∨
      (c = .lnRestore w p v ∧ s.spState p ≠ pACTIVE) ∨ (c = .spareAbort w p v ∧ (s.spState p = pIDLE ∨ s.spState p = pACTIVE))) :
    exec c s = .next (((served s w (0x020400 + 8 * p)).spareRefuse p 1).okay 0) := by
  rcases h with ⟨rfl, bad⟩ | ⟨rfl, bad⟩ | ⟨rfl, bad⟩ | ⟨rfl, bad⟩
  · rw [exec_lnSubstitute serves, spareCtrl_unfit (by decide) (.inl ⟨rfl, bad⟩)]
  · rw [exec_txRelease serves, spareCtrl_unfit (by decide) (.inr (.inl ⟨.inl rfl, bad⟩))]
  · rw [exec_lnRestore serves, spareCtrl_unfit (by decide) (.inr (.inl ⟨.inr rfl, bad⟩))]
  · rw [exec_spareAbort serves, spareCtrl_unfit (by decide) (.inr (.inr ⟨rfl, bad⟩))]

end

/-! ## Matching and confirming (R80, R81) -/

section
variable {p : Fin 4} {s : State}

/-- The places in the alignment lines from which copy and line are compared at offset `d`. -/
def comparedAt (s : State) (p : Nat) (d : BitVec 13) : Nat × Nat :=
  let e : Int := if (s.spare p).reverse then -d.toInt else d.toInt
  ((s.lane (s.spareLanes p).1).end_ - (-e).toNat, (s.lane (s.spareLanes p).2).end_ - e.toNat)

/-- Four words of the copy that equal the line in use have been found. -/
def matchedAt (s : State) (p : Nat) (d : BitVec 13) : State :=
  ((s.setSpare p { s.spare p with matched := true, copyAt := (comparedAt s p d).1, lineAt := (comparedAt s p d).2, confirmed := 0 }).wr
    (LN_SPARE_STAT_OFFSET p) d.toNat).wr (LN_SPARE_STAT_STATE p) pCONFIRM

theorem matchedAt_shows (s : State) (p : Fin 4) (d : BitVec 13) : (matchedAt s p d).spState p = pCONFIRM ∧
    (matchedAt s p d).rd (LN_SPARE_STAT_OFFSET p) = d.toNat ∧
    (matchedAt s p d).spare p = { s.spare p with matched := true, copyAt := (comparedAt s p d).1, lineAt := (comparedAt s p d).2, confirmed := 0 } ∧
    Kept [LN_SPARE_STAT_OFFSET p, LN_SPARE_STAT_STATE p] s (matchedAt s p d) := by
  let u := s.setSpare p { s.spare p with matched := true, copyAt := (comparedAt s p d).1, lineAt := (comparedAt s p d).2, confirmed := 0 }
  have offset : (matchedAt s p d).rd (LN_SPARE_STAT_OFFSET p) = (u.wr (LN_SPARE_STAT_OFFSET p) d.toNat).rd (LN_SPARE_STAT_OFFSET p) := rd_wr_ne
  exact ⟨rd_wr_same .., offset.trans ((rd_wr_same ..).trans (Nat.mod_eq_of_lt d.isLt)), (spare_setSpare s p p _).trans (if_pos rfl),
    kept_wr _ _ (by simp) (kept_wr (t := u) _ _ (by simp) (kept_flds rfl (kept_refl s)))⟩

theorem exec_spareMatch {d : BitVec 13} (st : s.spState p = pMATCH) (runs : s.portRuns p = true) (low : -2047 ≤ d.toInt) (high : d.toInt ≤ 2048)
    (copy : 1024 ≤ (comparedAt s p d).1) (line : 1024 ≤ (comparedAt s p d).2)
    (there : ((s.lane (s.spareLanes p).1).bitsFrom ((comparedAt s p d).1 - 1024) 128).isSome = true) :
    exec (.spareMatch p d) s = .next (
      if (s.lane (s.spareLanes p).1).bitsFrom ((comparedAt s p d).1 - 1024) 128 = (s.lane (s.spareLanes p).2).bitsFrom ((comparedAt s p d).2 - 1024) 128
        then matchedAt s p d else s) := by
  refine congrArg Host.Outcome.next (if_congr ?_ rfl rfl)
  rw [Bool.and_eq_true, beq_iff_eq]
  refine and_iff_right ?_
  simp only [Bool.and_eq_true, decide_eq_true_eq]
  exact ⟨⟨⟨⟨⟨⟨st, runs⟩, low⟩, high⟩, copy⟩, line⟩, there⟩

theorem exec_spareConfirmDone (st : s.spState p = pCONFIRM) (runs : s.portRuns p = true)
    (all : 256 * s.rd (LN_SPARE_CTRL_CONFIRM_W p) ≤ (s.spare p).confirmed) :
    exec (.spareConfirmDone p) s = .next (s.wr (LN_SPARE_STAT_STATE p) pSWITCH) :=
  congrArg Host.Outcome.next (if_pos (by simp [st, runs, all]))

/-! ## The end of the match time (R81) -/

/-- A switch is forced. -/
def forcedSwitch (u : State) (p : Nat) : State :=
  ((u.setSpare p { u.spare p with forced := true }).wr (LN_SPARE_STAT_RESULT p) 6).wr (LN_SPARE_STAT_STATE p) pSWITCH

theorem forcedSwitch_shows (u : State) (p : Fin 4) : (forcedSwitch u p).spState p = pSWITCH ∧ (forcedSwitch u p).rd (LN_SPARE_STAT_RESULT p) = 6 ∧
    ((forcedSwitch u p).spare p).forced = true := by
  let v := u.setSpare p { u.spare p with forced := true }
  have result : (forcedSwitch u p).rd (LN_SPARE_STAT_RESULT p) = (v.wr (LN_SPARE_STAT_RESULT p) 6).rd (LN_SPARE_STAT_RESULT p) := rd_wr_ne
  have spare : (forcedSwitch u p).spare p = { u.spare p with forced := true } := (spare_setSpare u p p _).trans (if_pos rfl)
  exact ⟨rd_wr_same .., result.trans (rd_wr_same ..), by rw [spare]⟩

theorem exec_spareMatchTimeout (st : s.spState p = pMATCH) : exec (.spareMatchTimeout p) s = .next (
    let u := s.advanceTo ((s.spare p).since + usTicks (s.rd (LN_SPARE_CTRL_MATCH_US p)))
    if u.is (LN_SPARE_CTRL_FORCE p) then forcedSwitch u p else u.spareEnd p 3) :=
  congrArg Host.Outcome.next (if_neg (not_not.2 st))

theorem spareMatchTimeout_ends (st : s.spState p = pMATCH) : ∃ t, exec (.spareMatchTimeout p) s = .next t ∧
    t.tm.tick = max s.tm.tick ((s.spare p).since + usTicks (s.rd (LN_SPARE_CTRL_MATCH_US p))) ∧
    (if s.is (LN_SPARE_CTRL_FORCE p) = true then t.spState p = pSWITCH ∧ t.rd (LN_SPARE_STAT_RESULT p) = 6 ∧ (t.spare p).forced = true
      else t.rd (LN_SPARE_STAT_RESULT p) = 3 ∧ t.bit LN_EVT_SPARE_DONE p = true ∧ t.spState p = pIDLE) := by
  have run := exec_spareMatchTimeout st
  obtain ⟨l, tm, e, tick, kept⟩ := advanceTo_eq s ((s.spare p).since + usTicks (s.rd (LN_SPARE_CTRL_MATCH_US p)))
  have time : (s.advanceTo ((s.spare p).since + usTicks (s.rd (LN_SPARE_CTRL_MATCH_US p)))).tm = tm := by rw [e]
  generalize s.advanceTo _ = u at run time kept
  have force : u.is (LN_SPARE_CTRL_FORCE p) = s.is (LN_SPARE_CTRL_FORCE p) := is_kept kept (by
    simp only [clockFields, List.map_cons, List.map_nil, List.mem_cons, List.not_mem_nil, or_false, not_or, Fld.key, LN_SPARE_CTRL_FORCE,
      NY_MTIME_LO_MTIME, NY_MTIME_HI_MTIME, TM_AON_CNT_LO_COUNT, TM_AON_CNT_HI_COUNT]
    omega)
  dsimp only at run
  by_cases forced : s.is (LN_SPARE_CTRL_FORCE p) = true
  · rw [if_pos (force.trans forced)] at run
    refine ⟨_, run, ?_, (if_pos forced).mpr (forcedSwitch_shows u p)⟩
    rw [show (forcedSwitch u p).tm = u.tm from rfl, time, tick]
  · rw [if_neg (by rwa [force])] at run
    obtain ⟨result, done, state, -⟩ := spareEnd_shown u p (result := 3) (by decide)
    refine ⟨_, run, ?_, (if_neg forced).mpr ⟨result, done, state⟩⟩
    rw [spareEnd_tm, time, tick]

/-! ## The switch (R81, R84, R85) -/

/-- The spare lane takes the position's place, or gives it back. -/
def changedOver (u : State) (p i : Nat) (back : Bool) : State :=
  if back then (((u.setSpare p {}).wr (LN_SPARE_STAT_STATE p) pIDLE).wr (LN_SPARE_STAT_TX_BRIDGED p) 0).wr (LN_LANE_STAT_STANDS_IN i) 0
  else ((u.wr (LN_SPARE_STAT_STATE p) pACTIVE).wr (LN_SPARE_STAT_TX_BRIDGED p) 1).wr (LN_LANE_STAT_STANDS_IN i) 1

/-- What a switch shows. -/
def SwitchShown (t : State) (p i result : Nat) (back : Bool) : Prop :=
  t.spState p = (if back then pIDLE else pACTIVE) ∧ t.rd (LN_SPARE_STAT_RESULT p) = result ∧ t.bit LN_EVT_SPARE_DONE p = true ∧
    t.is (LN_SPARE_STAT_TX_BRIDGED p) = !back ∧ t.is (LN_LANE_STAT_STANDS_IN i) = !back

theorem SwitchShown.of_kept {s t : State} {i result : Nat} {back : Bool} (hi : i < 36) (h : SwitchShown s p i result back) (kept : SpareKept s t) :
    SwitchShown t p i result back := by
  obtain ⟨state, res, done, bridged, stands⟩ := h
  refine ⟨(kept.rd (spareStat_key p (by decide) (by decide))).trans state, (kept.rd (spareStat_key p (by decide) (by decide))).trans res,
    (kept.bit ?_ _).trans done, (kept.is (spareStat_key p (by decide) (by decide))).trans bridged, (kept.is ?_).trans stands⟩
  · unfold spareKey
    decide
  · simp only [spareKey, Fld.key, LN_LANE_STAT_STANDS_IN, LN_EVT_LINK_DOWN]
    omega

/-- The writes of a change-over: the state, the bridge, and whether p.8 stands in. -/
def overWritten (v : State) (p i st b : Nat) : State :=
  ((v.wr (LN_SPARE_STAT_STATE p) st).wr (LN_SPARE_STAT_TX_BRIDGED p) b).wr (LN_LANE_STAT_STANDS_IN i) b

theorem overWritten_shows (v : State) (p : Fin 4) {i : Nat} (hi : i < 36) {st : Nat} (hst : st < 8) (back : Bool) :
    (overWritten v p i st (b2n !back)).spState p = st ∧
    (overWritten v p i st (b2n !back)).rd (LN_SPARE_STAT_RESULT p) = v.rd (LN_SPARE_STAT_RESULT p) ∧
    (overWritten v p i st (b2n !back)).rd LN_EVT_SPARE_DONE = v.rd LN_EVT_SPARE_DONE ∧
    (overWritten v p i st (b2n !back)).is (LN_SPARE_STAT_TX_BRIDGED p) = !back ∧
    (overWritten v p i st (b2n !back)).is (LN_LANE_STAT_STANDS_IN i) = !back := by
  let a := v.wr (LN_SPARE_STAT_STATE p) st
  let b := a.put (LN_SPARE_STAT_TX_BRIDGED p) !back
  have same : overWritten v p i st (b2n !back) = b.put (LN_LANE_STAT_STANDS_IN i) !back := rfl
  rw [same]
  have state : (b.put (LN_LANE_STAT_STANDS_IN i) !back).spState p = b.spState p := rd_wr_ne
  have state' : b.spState p = a.spState p := rd_wr_ne
  have kept : Kept [LN_SPARE_STAT_STATE p, LN_SPARE_STAT_TX_BRIDGED p, LN_LANE_STAT_STANDS_IN i] v (b.put (LN_LANE_STAT_STANDS_IN i) !back) :=
    kept_wr _ _ (by simp) (kept_wr (t := a) _ _ (by simp) (kept_wr _ _ (by simp) (kept_refl v)))
  have bridged : (b.put (LN_LANE_STAT_STANDS_IN i) !back).is (LN_SPARE_STAT_TX_BRIDGED p) = b.is (LN_SPARE_STAT_TX_BRIDGED p) := is_wr_ne
  refine ⟨state.trans (state'.trans ((rd_wr_same ..).trans (Nat.mod_eq_of_lt hst))), rd_kept kept _ ?_, rd_kept kept _ ?_, bridged.trans is_put, is_put⟩
  all_goals
    simp only [List.map_cons, List.map_nil, List.mem_cons, List.not_mem_nil, or_false, not_or, Fld.key, LN_EVT_SPARE_DONE, LN_SPARE_STAT_STATE,
      LN_SPARE_STAT_TX_BRIDGED, LN_LANE_STAT_STANDS_IN, LN_SPARE_STAT_RESULT]
    omega

theorem changedOver_shown (u : State) (p : Fin 4) {i result : Nat} (hi : i < 36) (h : result < 16) (back : Bool) :
    SwitchShown (changedOver ((u.wr (LN_SPARE_STAT_RESULT p) result).setBit LN_EVT_SPARE_DONE p) p i back) p i result back := by
  let v := (u.wr (LN_SPARE_STAT_RESULT p) result).setBit LN_EVT_SPARE_DONE p
  have result_ : v.rd (LN_SPARE_STAT_RESULT p) = (u.wr (LN_SPARE_STAT_RESULT p) result).rd (LN_SPARE_STAT_RESULT p) := rd_wr_ne
  have res : v.rd (LN_SPARE_STAT_RESULT p) = result := result_.trans ((rd_wr_same ..).trans (Nat.mod_eq_of_lt h))
  have done : v.bit LN_EVT_SPARE_DONE p = true := setBit_bit _ _ p.isLt
  cases back
  · obtain ⟨state, keptRes, keptDone, bridged, stands⟩ := overWritten_shows v p hi (st := pACTIVE) (by decide) false
    exact ⟨state, keptRes.trans res, (congrArg (·.testBit p.val) keptDone).trans done, bridged, stands⟩
  · obtain ⟨state, keptRes, keptDone, bridged, stands⟩ := overWritten_shows (v.setSpare p {}) p hi (st := pIDLE) (by decide) true
    exact ⟨state, keptRes.trans res, (congrArg (·.testBit p.val) keptDone).trans done, bridged, stands⟩

theorem exec_spareSwitch (st : s.spState p = pSWITCH) (runs : s.portRuns p = true) : ∃ u : State, exec (.spareSwitch p) s = .next (
    let v := changedOver ((u.wr (LN_SPARE_STAT_RESULT p) (if (s.spare p).forced then 6 else 0)).setBit LN_EVT_SPARE_DONE p) p ((s.laneAt p 8).getD 0)
      (s.spare p).reverse
    (if (s.spare p).forced then v.posHit p (s.rd (LN_SPARE_STAT_STOOD_POS p)) else v).portRefresh p) :=
  ⟨_, congrArg Host.Outcome.next (if_neg (by simp [st, runs]))⟩

theorem spareSwitch_ends (st : s.spState p = pSWITCH) (runs : s.portRuns p = true) : ∃ t, exec (.spareSwitch p) s = .next t ∧
    SwitchShown t p ((s.laneAt p 8).getD 0) (if (s.spare p).forced then 6 else 0) (s.spare p).reverse := by
  obtain ⟨u, run⟩ := exec_spareSwitch st runs
  have hi := laneAt_lt s p.isLt 8
  refine ⟨_, run, ?_⟩
  have over_ := changedOver_shown u p hi (result := if (s.spare p).forced then 6 else 0) (by split <;> decide) (s.spare p).reverse
  dsimp only
  generalize changedOver _ _ _ _ = v at *
  generalize (if (s.spare p).forced = true then 6 else 0) = result at *
  refine SwitchShown.of_kept hi ?_ (portRefresh_spare _ p.isLt)
  split
  · exact over_.of_kept hi (posHit_spare v p.isLt _)
  · exact over_

end

/-- Settles O30: each command by the state it finds the spare lane in, and matching and switching by what the lanes carry. -/
theorem spareLanes : Obligations.SpareLanes := by
  unfold Obligations.SpareLanes
  refine ⟨fun w p v s serves idle arg evac => lnSubstitute_begins serves idle arg evac,
    fun w p v s serves active => txRelease_ends serves active,
    fun w p v s serves active => lnRestore_begins serves active,
    fun w p v s serves busy busy' => spareAbort_ends serves busy busy',
    fun w p v s serves c h => spareRefuse_ends (spare_refuses serves c h),
    fun p d s => ?_,
    fun p s st runs all => ⟨_, exec_spareConfirmDone st runs all, rd_wr_same .., kept_wr _ _ (by simp) (kept_refl s)⟩,
    fun p s st => spareMatchTimeout_ends st,
    fun p s st runs => spareSwitch_ends st runs⟩
  intro x c l e ca la st runs low high copy line there
  have run := exec_spareMatch st runs low high copy line there
  split
  · next equal =>
    exact ⟨_, run.trans (congrArg Host.Outcome.next (if_pos equal)), matchedAt_shows s p d⟩
  · next differ => exact run.trans (congrArg Host.Outcome.next (if_neg differ))

end Sys2Proof.Proofs
end

section
/-! PROOFS. The GFP stream: delineation, frames and link (R102 to R110). -/

namespace Sys2Proof.Proofs

open Sys2Proof.Machine Sys2Proof.Laws

set_option Elab.async false

/-! ## What the pairs and the hinges leave of the registers -/

/-- The registers below those of the groups, a stream's among them, hold in `t` what they held in `s`. -/
def StreamKept (s t : State) : Prop := KeptAt (· < 0x041000 * 32) s t

namespace StreamKept

variable {a s t : State}

theorem refl (s : State) : StreamKept s s := KeptAt.refl s

theorem same (h : StreamKept a s) (e : t.flds = s.flds := by rfl) : StreamKept a t := fun k hk => by rw [e]; exact h k hk

theorem setPair {k : Nat} {x : PairSt} (h : StreamKept a s) : StreamKept a (s.setPair k x) := h.same

theorem ite {c : Prop} [Decidable c] (h : StreamKept a s) (g : StreamKept a t) : StreamKept a (if c then s else t) := by split <;> assumption

theorem each {α : Type} {l : List α} {f : State → α → State} (h : StreamKept a s) (hf : ∀ t x, StreamKept t (f t x)) : StreamKept a (s.each l f) :=
  KeptAt.trans h (KeptAt.each fun t x _ => hf t x)

theorem wr {o lo w v : Nat} (h : StreamKept a s) (ho : 0x041000 ≤ o := by omega) : StreamKept a (s.wr ⟨o, lo, w⟩ v) :=
  KeptAt.trans h (.of_kept (fs := [⟨o, lo, w⟩]) (kept_wr _ _ (by simp) (kept_refl s)) (by simp only [List.forall_mem_cons, Fld.key]; exact ⟨by omega, by simp⟩))

theorem bump {o lo w n : Nat} (h : StreamKept a s) (ho : 0x041000 ≤ o := by omega) : StreamKept a (s.bump ⟨o, lo, w⟩ n) := h.wr ho

theorem setBit {o lo w i : Nat} (h : StreamKept a s) (ho : 0x041000 ≤ o := by omega) : StreamKept a (s.setBit ⟨o, lo, w⟩ i) := h.wr ho

theorem put {o lo w : Nat} {b : Bool} (h : StreamKept a s) (ho : 0x041000 ≤ o := by omega) : StreamKept a (s.put ⟨o, lo, w⟩ b) := h.wr ho

theorem fbAudit (h : StreamKept a s) : StreamKept a s.fbAudit := .ite h (h.wr (v := 1)).wr.wr

theorem fbSet {f : FbSt} (h : StreamKept a s) : StreamKept a (s.fbSet f) := by
  have set : StreamKept a { s with fb := f } := h.same
  exact set.wr.wr.wr.fbAudit

theorem fbFreeHinge {n : Nat} (h : StreamKept a s) : StreamKept a (s.fbFreeHinge n) := h.fbSet

theorem stat {c n k : Nat} (h : StreamKept a s) : StreamKept a (s.stat c n k) := h.ite (.ite h.wr.wr h.wr.wr.setBit)

theorem statIf {b : Bool} {c n k : Nat} (h : StreamKept a s) : StreamKept a (s.statIf b c n k) := h.stat.ite h

theorem rxStats {c n flags : Nat} {l : List Byte} (h : StreamKept a s) : StreamKept a (s.rxStats c n l flags) :=
  .ite h.stat.stat.statIf.statIf.stat h.statIf.statIf.statIf.statIf.stat

theorem copyDiscard {e : Copy} (h : StreamKept a s) : StreamKept a (s.copyDiscard e) := by
  unfold State.copyDiscard State.copyFree
  split
  · exact h.fbFreeHinge.same
  · exact h.same

theorem copyPass {k : Nat} {e : Copy} {lone : Bool} (h : StreamKept a s) : StreamKept a (s.copyPass k e lone) := by
  unfold State.copyPass
  extract_lets c
  split
  · next f _ =>
    extract_lets u v
    have counted : StreamKept a u := h.rxStats.ite h
    have freed : StreamKept a v := counted.ite counted.fbFreeHinge
    exact freed.same
  · exact h

theorem decideBoth {k : Nat} {x y : Copy} (h : StreamKept a s) : StreamKept a (s.decideBoth k x y) :=
  .ite h.copyPass.copyDiscard.bump (h.ite h.bump).copyPass.copyDiscard.bump

theorem decidePos {k pos : Nat} {alone : Bool} (h : StreamKept a s) : StreamKept a (s.decidePos k pos alone) := by
  unfold State.decidePos
  extract_lets x l u sel
  have taken : StreamKept a u := h.same
  split
  · exact taken.decideBoth
  · exact taken.copyPass.bump
  · exact taken.copyPass.bump
  · exact taken

theorem dropBelow {k : Nat} (h : StreamKept a s) : StreamKept a (s.dropBelow k) :=
  .each h.setPair fun t _ => (refl t).copyDiscard.bump

theorem hingeRunGo {k n : Nat} (h : StreamKept a s) : StreamKept a (Machine.hingeRunGo k n s) := by
  induction n generalizing s with
  | zero => exact h
  | succ n ih =>
    unfold Machine.hingeRunGo
    dsimp only
    split
    · exact h.dropBelow
    · split
      · exact ih h.dropBelow.decidePos
      · exact h.dropBelow

theorem passUnaligned {k : Nat} {e : Copy} (h : StreamKept a s) : StreamKept a (s.passUnaligned k e) := by
  unfold State.passUnaligned
  extract_lets x leads u
  have counted : StreamKept a u := by
    unfold u
    split
    · exact .ite h.wr.wr.bump h
    · exact h
  exact counted.setPair.copyPass

theorem passHeld {k n : Nat} (h : StreamKept a s) : StreamKept a (Machine.passHeld k n s) := by
  induction n generalizing s with
  | zero => exact h
  | succ n ih =>
    unfold Machine.passHeld
    dsimp only
    split
    · exact h.dropBelow
    · exact ih (.each (h.dropBelow.setPair.each fun t _ => (refl t).passUnaligned) fun t _ => (refl t).copyDiscard.bump)

theorem pairEval {k : Nat} (h : StreamKept a s) : StreamKept a (s.pairEval k) := by
  unfold State.pairEval
  refine h.ite ?_
  extract_lets u w x sel v valid shown timed top final
  have started : StreamKept a v := h.same
  have evaluated : StreamKept a timed := started.wr.put.wr.put.put
  have ranked : StreamKept a top := evaluated.ite evaluated.wr.setBit
  exact ranked.ite ranked.put.setBit.bump.setPair

theorem hingeRun {k : Nat} (h : StreamKept a s) : StreamKept a (s.hingeRun k) := h.ite (.ite h.hingeRunGo h.passHeld)

theorem pairsEval (h : StreamKept a s) : StreamKept a s.pairsEval := h.each fun t _ => StreamKept.hingeRun (pairEval (refl t))

end StreamKept

section
variable (s : State) (c : Fin 32)

theorem pairsEval_gfp : s.pairsEval.gfp c = s.gfp c := by
  have parts : Keeps (· ∈ [Part.chs, .fb, .pairs, .regs, .rxs, .sys, .txs]) s s.pairsEval := by
    apply +allowSynthFailures keeps_pairsEval
    case hk => exact .refl s
    all_goals exact ⟨by decide⟩
  rw [State.gfp, show s.pairsEval.gfps = s.gfps from parts.1 .gfps (by decide), State.gfp]

theorem pairsEval_stat : s.pairsEval.rd (TF_GFP_STAT_STATE c) = s.rd (TF_GFP_STAT_STATE c) :=
  (StreamKept.refl s).pairsEval _ (by simp only [Fld.key, TF_GFP_STAT_STATE]; omega)

end

/-! ## A core header is tested (R105) -/

section
variable {c : Fin 32} {s : State}

theorem exec_gfpCoreHeader (runs : s.portRuns (c / 8) = true) : exec (.gfpCoreHeader c) s = .next (s.coreStep c).pairsEval :=
  congrArg Host.Outcome.next (if_pos runs)

theorem coreHeader_shows {u : State} {x : GfpSt} {st : Nat} (runs : s.portRuns (c / 8) = true) (step : s.coreStep c = u) (gfp : u.gfp c = x)
    (state : u.rd (TF_GFP_STAT_STATE c) = st) :
    ∃ t, exec (.gfpCoreHeader c) s = .next t ∧ t.gfp c = x ∧ t.rd (TF_GFP_STAT_STATE c) = st :=
  ⟨_, exec_gfpCoreHeader runs, (pairsEval_gfp ..).trans ((congrArg (State.gfp · c) step).trans gfp),
    (pairsEval_stat ..).trans ((congrArg (State.rd · _) step).trans state)⟩

theorem coreStep_begins (hunts : s.rd (TF_GFP_STAT_STATE c) = fHUNT) (there : 4 ≤ (s.gfp c).buf.length) (fits : hecFits (coreAt (s.gfp c).buf 0) = true) :
    s.coreStep c = (s.setGfp c { s.gfp c with count := 0, ahead := 4 + coreAt (s.gfp c).buf 0 / 65536 }).wr (TF_GFP_STAT_STATE c) fPRESYNC :=
  (if_pos hunts).trans ((if_neg (Nat.not_lt.2 there)).trans (if_pos fits))

theorem coreStep_skips (hunts : s.rd (TF_GFP_STAT_STATE c) = fHUNT) (there : 4 ≤ (s.gfp c).buf.length) (bad : hecFits (coreAt (s.gfp c).buf 0) = false) :
    s.coreStep c = s.setGfp c (s.gfpSkip c 1) :=
  (if_pos hunts).trans ((if_neg (Nat.not_lt.2 there)).trans (if_neg (by rw [bad]; exact Bool.false_ne_true)))

theorem coreStep_accepts (sync : s.rd (TF_GFP_STAT_STATE c) = fSYNC) (there : 4 ≤ (s.gfp c).buf.length) (free : (s.gfp c).pli = none)
    (fits : hecFits (coreAt (s.gfp c).buf 0) = true) : s.coreStep c = s.coreAccept c (coreAt (s.gfp c).buf 0) := by
  have hunt : ¬ s.rd (TF_GFP_STAT_STATE c) = fHUNT := by rw [sync]; decide
  have presync : ¬ s.rd (TF_GFP_STAT_STATE c) = fPRESYNC := by rw [sync]; decide
  refine (if_neg hunt).trans ((if_neg presync).trans ((if_pos ?_).trans (if_pos fits)))
  simp [sync, free, there]

/-! ## A core header is accepted (R105, R110) -/

/-- What the commit of a MAC channel's set may change. -/
def sampleFields (c : Nat) : List Fld := [MC_COMMIT_GEN c, MC_COMMIT_LOCKED c]

theorem kept_rxSample (s : State) (c : Nat) : Kept (sampleFields c) s (s.rxSample c) := by
  unfold State.rxSample State.macRx State.macDone
  refine kept_ite (kept_refl s) (kept_ite (kept_ite ?_ ?_) (kept_refl s))
  · exact kept_flds rfl (kept_refl s)
  · refine kept_wr _ _ (by simp [sampleFields]) (kept_wr _ _ (by simp [sampleFields]) ?_)
    exact kept_flds rfl (kept_refl s)

theorem rxSample_line (s : State) (c : Nat) : KeptAt (· < 0x060000 * 32) s (s.rxSample c) := by
  refine .of_kept (kept_rxSample s c) ?_
  simp only [sampleFields, List.forall_mem_cons, Fld.key, MC_COMMIT_GEN, MC_COMMIT_LOCKED]
  exact ⟨by omega, by omega, by simp⟩

theorem boundGroup_lt {s : State} {c g : Nat} (bound : s.boundGroup c = some g) : g < 16 := List.mem_range.1 (List.mem_of_find?_eq_some bound)

/-- What a stream looks at besides itself: the registers of framers and groups, and the time. -/
structure SameLine (s t : State) : Prop where
  regs : KeptAt (· < 0x060000 * 32) s t
  gfps : t.gfps = s.gfps
  tm : t.tm = s.tm

theorem sameLine_rxSample (s : State) (c : Nat) : SameLine s (s.rxSample c) := by
  have parts : Keeps (· ∈ [Part.chs, .regs]) s (s.rxSample c) := by
    apply +allowSynthFailures keeps_rxSample
    case hk => exact .refl s
    all_goals exact ⟨by decide⟩
  exact ⟨rxSample_line s c, parts.1 .gfps (by decide), parts.1 .tm (by decide)⟩

namespace SameLine

variable {t : State} (h : SameLine s t)
include h

theorem gfp (c : Nat) : t.gfp c = s.gfp c := by rw [State.gfp, h.gfps, State.gfp]

theorem boundGroup (c : Nat) : t.boundGroup c = s.boundGroup c := by
  unfold State.boundGroup
  refine List.find?_congr fun g hg => ?_
  have := List.mem_range.1 hg
  have en : t.rd (GP_GRP_CFG_EN g) = s.rd (GP_GRP_CFG_EN g) := h.regs _ (by simp only [Fld.key, GP_GRP_CFG_EN]; omega)
  have chan : t.rd (GP_GRP_CFG_CHAN g) = s.rd (GP_GRP_CFG_CHAN g) := h.regs _ (by simp only [Fld.key, GP_GRP_CFG_CHAN]; omega)
  rw [State.is, en, chan, State.is]

theorem members {g : Nat} (hg : g < 16) : t.rd (GP_GRP_CFG_N g) = s.rd (GP_GRP_CFG_N g) := h.regs _ (by simp only [Fld.key, GP_GRP_CFG_N]; omega)

theorem segLen {g : Nat} (hg : g < 16) : t.segLen g = s.segLen g := by rw [State.segLen, h.members hg, State.segLen]

theorem gfpSkip (c n : Nat) : t.gfpSkip c n = s.gfpSkip c n := by
  unfold State.gfpSkip
  rw [h.gfp, h.boundGroup]
  cases bound : s.boundGroup c with
  | none => dsimp only [Option.map_none]
  | some g =>
    have mod : t.streamMod g = s.streamMod g := by rw [State.streamMod, h.segLen (boundGroup_lt bound), State.streamMod]
    dsimp only [Option.map_some]
    rw [mod]

theorem framerTime (c : Nat) : t.framerTime c = s.framerTime c := by
  have bounded : (s.boundGroup c).getD 0 < 16 := by
    cases bound : s.boundGroup c with
    | none => decide
    | some g => exact boundGroup_lt bound
  unfold State.framerTime
  dsimp only
  rw [h.gfp, h.boundGroup, h.members bounded, h.segLen bounded, h.tm]

end SameLine

theorem gfpCfg_plain : ∀ c : Fin 32, (selTable.find? (fun d => d.lo ≤ 0x040180 + 4 * c.val && 0x040180 + 4 * c.val < d.lo + d.span)).isNone = true := by
  decide +kernel

theorem gfpCfg_fields : ∀ c : Fin 32, (fieldsAt (0x040180 + 4 * c.val)).all (·.lo < 32) = true := by decide +kernel

theorem SameLine.gfpCfg {t : State} (h : SameLine s t) (c : Fin 32) : t.readPlain (0x040180 + 4 * c.val) = s.readPlain (0x040180 + 4 * c.val) := by
  have plain (u : State) : u.resolve (0x040180 + 4 * c.val) = some (0x040180 + 4 * c.val) := by
    unfold State.resolve
    rw [Option.isNone_iff_eq_none.1 (gfpCfg_plain c)]
  unfold State.readPlain
  rw [plain, plain]
  dsimp only
  refine List.foldl_ext _ _ _ fun n f hf => ?_
  have low := of_decide_eq_true (List.all_eq_true.1 (gfpCfg_fields c) f hf)
  have same : t.rd ⟨0x040180 + 4 * c.val, f.lo, f.w⟩ = s.rd ⟨0x040180 + 4 * c.val, f.lo, f.w⟩ := h.regs _ (by simp only [Fld.key]; omega)
  rw [same]

/-- A stream as a core header `v` at the tested position leaves it. -/
def accepted (s : State) (c v : Nat) (live : MacLive) : GfpSt :=
  { s.gfpSkip c 4 with pli := some (v / 65536), corePos := (s.gfp c).pos, coreTime := s.framerTime c, coreTick := s.tm.tick, live := live,
                       cfg := s.readPlain (0x040180 + 4 * c) }

theorem coreAccept_shows (s : State) (c : Fin 32) (v : Nat) :
    (∃ live, (s.coreAccept c v).gfp c = accepted s c v live) ∧ (s.coreAccept c v).rd (TF_GFP_STAT_STATE c) = s.rd (TF_GFP_STAT_STATE c) := by
  let u := if v / 65536 < 4 then s else s.rxSample c
  have same : SameLine s u := by
    unfold u
    split
    · exact ⟨.refl s, rfl, rfl⟩
    · exact sameLine_rxSample s c
  refine ⟨⟨if u.comNow c then s.rxLive c else (u.ch c).rx, ?_⟩, same.regs _ (by simp only [Fld.key, TF_GFP_STAT_STATE]; omega)⟩
  have taken : (s.coreAccept c v).gfp c = { u.gfpSkip c 4 with
      pli := some (v / 65536), corePos := (s.gfp c).pos, coreTime := u.framerTime c, coreTick := u.tm.tick,
      live := (if u.comNow c then s.rxLive c else (u.ch c).rx), cfg := u.readPlain (0x040180 + 4 * c) } := (gfp_setGfp u c c _).trans (if_pos rfl)
  rw [taken, same.gfpSkip, same.framerTime, same.tm, same.gfpCfg, accepted]

theorem gfpCoreHeader_accepts (runs : s.portRuns (c / 8) = true) (sync : s.rd (TF_GFP_STAT_STATE c) = fSYNC) (there : 4 ≤ (s.gfp c).buf.length)
    (free : (s.gfp c).pli = none) (fits : hecFits (coreAt (s.gfp c).buf 0) = true) :
    ∃ live t, exec (.gfpCoreHeader c) s = .next t ∧ t.gfp c = accepted s c (coreAt (s.gfp c).buf 0) live ∧ t.rd (TF_GFP_STAT_STATE c) = fSYNC := by
  obtain ⟨⟨live, gfp⟩, state⟩ := coreAccept_shows s c (coreAt (s.gfp c).buf 0)
  exact ⟨live, coreHeader_shows runs (coreStep_accepts sync there free fits) gfp (state.trans sync)⟩

end

/-! ## The frame behind a core header (R106) -/

section
variable {c : Fin 32} {n : Nat} {s : State}

/-- The stream without the frame of `n` bytes at its head. -/
def frameTaken (s : State) (c n scr : Nat) : State := s.setGfp c { s.gfpSkip c n with pli := none, rxScr := scr }

theorem frameTaken_gfp (s : State) (c n scr : Nat) : (frameTaken s c n scr).gfp c = { s.gfpSkip c n with pli := none, rxScr := scr } :=
  (gfp_setGfp ..).trans (if_pos rfl)

theorem gfpFrame_eq {s : State} {c n : Nat} (sync : s.rd (TF_GFP_STAT_STATE c) = fSYNC) (pli : (s.gfp c).pli = some n) (there : n ≤ (s.gfp c).buf.length) :
    s.gfpFrame c = if n < 4 then (if n = 0 then frameTaken s c n (s.gfp c).rxScr else (frameTaken s c n (s.gfp c).rxScr).bump (TF_GFP_DISC_UNSUP c))
      else (frameTaken s c n (s.descramble (s.gfp c).cfg (s.gfp c).rxScr ((s.gfp c).buf.take n)).1).gfpArea c n
        (s.descramble (s.gfp c).cfg (s.gfp c).rxScr ((s.gfp c).buf.take n)).2 false := by
  unfold State.gfpFrame
  dsimp only
  rw [pli]
  dsimp only
  rw [if_neg (by simp [sync, there])]
  by_cases short : n < 4
  · rw [if_pos short, if_pos short, if_pos short]
    rfl
  · rw [if_neg short, if_neg short, if_neg short, if_neg (by omega)]
    rfl

/-- What an area holds may join the clients of its stream, and changes nothing else of it. -/
theorem gfpArea_gfp (s : State) (c n : Nat) (d : List Byte) (cut : Bool) : ∃ l, (s.gfpArea c n d cut).gfp c = { s.gfp c with clients := l } := by
  unfold State.gfpArea
  extract_lets x u
  have same : u.gfp c = s.gfp c := by
    unfold u
    split <;> rfl
  split
  · exact ⟨_, same⟩
  · exact ⟨_, same⟩
  · exact ⟨_, same⟩
  · split
    · exact ⟨_, same⟩
    · exact ⟨_, (gfp_setGfp ..).trans (if_pos rfl)⟩

theorem exec_gfpFrameReceived (runs : s.portRuns (c / 8) = true) : exec (.gfpFrameReceived c) s = .next (s.gfpFrame c) :=
  congrArg Host.Outcome.next (if_pos runs)

theorem gfpFrameReceived_takes (runs : s.portRuns (c / 8) = true) (sync : s.rd (TF_GFP_STAT_STATE c) = fSYNC) (pli : (s.gfp c).pli = some n)
    (there : n ≤ (s.gfp c).buf.length) :
    ∃ t, exec (.gfpFrameReceived c) s = .next t ∧ (t.gfp c).pli = none ∧ (t.gfp c).buf = (s.gfp c).buf.drop n ∧
      (t.gfp c).pos = posAdd (((s.boundGroup c).map s.streamMod).getD 0) (s.gfp c).pos n ∧ (n = 0 → t.flds = s.flds) ∧
      (1 ≤ n → n < 4 → t.rd (TF_GFP_DISC_UNSUP c) = upBy s (TF_GFP_DISC_UNSUP c) 1) := by
  have frame := gfpFrame_eq sync pli there
  refine ⟨_, exec_gfpFrameReceived runs, ?_⟩
  rw [frame]
  by_cases short : n < 4
  · rw [if_pos short]
    have gfp := frameTaken_gfp s c n (s.gfp c).rxScr
    by_cases idle : n = 0
    · rw [if_pos idle, gfp]
      exact ⟨rfl, rfl, rfl, fun _ => rfl, fun some => by omega⟩
    · rw [if_neg idle]
      have gfp' : ((frameTaken s c n (s.gfp c).rxScr).bump (TF_GFP_DISC_UNSUP c)).gfp c = (frameTaken s c n (s.gfp c).rxScr).gfp c := rfl
      rw [gfp', gfp]
      exact ⟨rfl, rfl, rfl, fun zero => absurd zero idle, fun _ _ => rd_bump_same ..⟩
  · rw [if_neg short]
    generalize s.descramble _ _ _ = d
    obtain ⟨l, gfp⟩ := gfpArea_gfp (frameTaken s c n d.1) c n d.2 false
    rw [gfp, frameTaken_gfp]
    exact ⟨rfl, rfl, rfl, fun zero => by omega, fun _ few => absurd few short⟩

/-- The first four bytes as one number begin with the first two. -/
theorem beNat_high (d : List Byte) : beNat d 0 4 / 65536 = beNat d 0 2 := by
  have two : beNat d 0 2 = byteAt d 0 * 256 + byteAt d 1 := by simp [beNat, List.range_succ]
  have four : beNat d 0 4 = ((byteAt d 0 * 256 + byteAt d 1) * 256 + byteAt d 2) * 256 + byteAt d 3 := by simp [beNat, List.range_succ]
  have h2 : byteAt d 2 < 256 := BitVec.isLt _
  have h3 : byteAt d 3 < 256 := BitVec.isLt _
  omega

theorem x43_length (rx : Bool) : ∀ (l : List Byte) (st : Nat), (x43 rx st l).2.length = l.length
  | [], _ => rfl
  | b :: l, st => congrArg (· + 1) (x43_length rx l (x43Byte rx st b).1)

/-- An area under a client's type header holds the client's bytes. -/
theorem areaOf_client {d : List Byte} (cfg : Nat) (len : d.length = n) (some_ : 5 ≤ n) (fits : hecFits (beNat d 0 4) = true) (type : beNat d 0 2 = 1) :
    areaOf cfg n d = .client (d.drop 4) false 0 := by
  have header : typeHeader cfg (beNat d 0 4) = some (beNat d 0 4) := if_pos fits
  have whole : (d.drop 4).take (n - 4 - 4 * 0) = d.drop 4 := List.take_of_length_le (by rw [List.length_drop]; omega)
  unfold areaOf
  rw [header]
  dsimp only
  rw [beNat_high, type, if_neg (by decide), if_neg (by simp [bits, bitN]; omega), show bitN 1 12 = 0 from rfl, whole]
  rfl

theorem gfpArea_client {d : List Byte} (s : State) (c : Nat) (len : d.length = n) (some_ : 5 ≤ n) (fits : hecFits (beNat d 0 4) = true)
    (type : beNat d 0 2 = 1) : ((s.gfpArea c n d false).gfp c).clients = (s.gfp c).clients ++
      [⟨d.drop 4, false, false, (s.gfp c).corePos, (s.gfp c).coreTime, 0, (s.gfp c).coreTick, (s.gfp c).live⟩] := by
  unfold State.gfpArea
  dsimp only
  rw [if_neg (by simp [fits]), areaOf_client _ len some_ fits type]
  exact congrArg GfpSt.clients ((gfp_setGfp ..).trans (if_pos rfl))

theorem gfpFrameReceived_client (runs : s.portRuns (c / 8) = true) (sync : s.rd (TF_GFP_STAT_STATE c) = fSYNC) (pli : (s.gfp c).pli = some n)
    (there : n ≤ (s.gfp c).buf.length) (some_ : 5 ≤ n) (scrambled : s.x43Off (s.gfp c).cfg = false)
    (fits : hecFits (beNat (x43 true (s.gfp c).rxScr ((s.gfp c).buf.take n)).2 0 4) = true)
    (type : beNat (x43 true (s.gfp c).rxScr ((s.gfp c).buf.take n)).2 0 2 = 1) :
    ∃ t, exec (.gfpFrameReceived c) s = .next t ∧ (t.gfp c).clients = (s.gfp c).clients ++
      [⟨(x43 true (s.gfp c).rxScr ((s.gfp c).buf.take n)).2.drop 4, false, false, (s.gfp c).corePos, (s.gfp c).coreTime, 0, (s.gfp c).coreTick,
        (s.gfp c).live⟩] := by
  have plain : s.descramble (s.gfp c).cfg (s.gfp c).rxScr ((s.gfp c).buf.take n) = x43 true (s.gfp c).rxScr ((s.gfp c).buf.take n) :=
    if_neg (by rw [scrambled]; exact Bool.false_ne_true)
  have frame := gfpFrame_eq sync pli there
  have len : (x43 true (s.gfp c).rxScr ((s.gfp c).buf.take n)).2.length = n := by rw [x43_length, List.length_take, Nat.min_eq_left there]
  rw [if_neg (by omega), plain] at frame
  refine ⟨_, exec_gfpFrameReceived runs, ?_⟩
  rw [frame]
  generalize x43 true _ _ = d at *
  rw [gfpArea_client _ c len some_ fits type, frameTaken_gfp]
  rfl

theorem gfpLinkUp_rises (runs : s.portRuns (c / 8) = true) (sync : s.rd (TF_GFP_STAT_STATE c) = fSYNC) (down : s.is (TF_GFP_STAT_LINK c) = false) :
    ∃ t, exec (.gfpLinkUp c) s = .next t ∧ t.is (TF_GFP_STAT_LINK c) = true ∧
      t.tm.tick = max s.tm.tick ((s.gfp c).since + usTicks (s.rd LN_TIMING_LINK_UP_US)) := by
  obtain ⟨l, tm, e, tick, -⟩ := advanceTo_eq s ((s.gfp c).since + usTicks (s.rd LN_TIMING_LINK_UP_US))
  have time : (s.advanceTo ((s.gfp c).since + usTicks (s.rd LN_TIMING_LINK_UP_US))).tm = tm := by rw [e]
  have run : exec (.gfpLinkUp c) s =
      .next ((s.advanceTo ((s.gfp c).since + usTicks (s.rd LN_TIMING_LINK_UP_US))).raise (TF_GFP_STAT_LINK c)) :=
    congrArg Host.Outcome.next (if_pos (by simp [runs, sync, down]))
  generalize s.advanceTo _ = u at run time
  exact ⟨_, run, is_raise, (congrArg (·.tick) time).trans tick⟩

end

/-- Settles O32: the stream by what stands at the tested position, the frame by the bytes behind its core header. -/
theorem gfpStream : Obligations.GfpStream := by
  unfold Obligations.GfpStream
  refine ⟨fun c s runs hunts there fits => ?_, fun c s runs hunts there bad => ?_, fun c s runs sync there free fits => ?_,
    fun c n s runs sync pli there => gfpFrameReceived_takes runs sync pli there,
    fun c n s => fun runs sync pli there some_ scrambled fits type => gfpFrameReceived_client runs sync pli there some_ scrambled fits type,
    fun c s runs sync down => gfpLinkUp_rises runs sync down⟩
  · obtain ⟨t, run, gfp, state⟩ := coreHeader_shows (st := fPRESYNC) runs (coreStep_begins hunts there fits) ((gfp_setGfp ..).trans (if_pos rfl)) (rd_wr_same ..)
    exact ⟨t, run, state, gfp⟩
  · exact coreHeader_shows runs (coreStep_skips hunts there bad) ((gfp_setGfp ..).trans (if_pos rfl)) hunts
  · obtain ⟨live, t, run, gfp, state⟩ := gfpCoreHeader_accepts runs sync there free fits
    refine ⟨t, run, state, ?_⟩
    rw [gfp]
    exact ⟨rfl, rfl, rfl, rfl, rfl, rfl, rfl, rfl⟩

end Sys2Proof.Proofs
end

section
/-! PROOFS. The commit of a shaper's set (R208, R218). -/

namespace Sys2Proof.Proofs

open Sys2Proof.Machine Sys2Proof.Laws

set_option Elab.async false

/-- The offset, beyond the counters of R377, that event 6666's would lie at. -/
def strayCounter : Nat := 0x1D4000 + 8 * 6666

/-- One beat waits to be counted under that event, and pair 0 has the group whose `EN` would lie there as its protecting one. -/
def strayPartner : State :=
  (((oneMoreAt strayCounter).wr (SC_CH_STG_STG_KIB 0) 4).wr (GP_PAIR_CFG_EN 0) 1).wr ⟨(GP_PAIR_CFG_PROT 0).off, (GP_PAIR_CFG_PROT 0).lo, 32⟩
    ((strayCounter - (GP_GRP_CFG_EN 0).off) / 8)

/-- Refutes O40: a commit is judged after the beats sent so far have been counted, and in this state the count makes channel 0 a protecting group's.
The clause bounds no register to its width and no event to the counters there are. -/
theorem not_metersAndShapers : ¬ Obligations.MetersAndShapers := by
  rintro ⟨-, -, -, -, commit, -⟩
  obtain ⟨t, run, -, set, -⟩ := commit nyelleCore 0 strayPartner (by decide +kernel) (by decide +kernel) (by decide +kernel) (fun _ => by decide +kernel)
  have locked : ((after (.scCommit nyelleCore) strayPartner).shap 0).locked = true := by rw [after_eq run, set]
  exact absurd locked (by decide +kernel)

end Sys2Proof.Proofs
end
